-- ==== Sys2Proof/Word.lean ====
section
/-! DEFINITION. The word types of the register file, of memory and of the quay status word, and the units of time. -/

namespace Sys2Proof

/-- A register (R15). -/
abbrev Word := BitVec 32

/-- The smallest addressable unit of DRAM, flash and the network. -/
abbrev Byte := BitVec 8

/-- A berth status word (R134) and the words of a 64-bit pair (R16). -/
abbrev DWord := BitVec 64

/-- One unit of DT is 2⁻¹⁶ ns (R52). -/
def subPerNs : Nat := 65536

/-- DT units in one second. -/
def subPerSec : Nat := 1000000000 * 65536

/-- DT units in one microsecond. -/
def subPerUs : Nat := 1000 * 65536

/-- DT units in one millisecond. -/
def subPerMs : Nat := 1000000 * 65536

end Sys2Proof
end

