-- ==== Sys2Proof/Syntax.lean ====
section
/-! DEFINITION. The commands the block takes, one constructor per row of spec/opcode_table.json, with the plain data they
carry. -/

namespace Sys2Proof

/-! ### Time base: PTP messages sent and IRIG-B frames (chapter 02) -/

/-- The PTP event messages a slot sends, and the follow-up of a two-step response (R63, R65). -/
inductive PtpTxKind where
  | delayReq
  | pdelayReq
  | pdelayResp
  | pdelayRespFollowUp
deriving DecidableEq, Repr

/-- A message that a slot has queued on a port, as the port returns its transmit stamp (R87): its slot, its kind and its sequence number. -/
structure PtpSent where
  slot : Nat
  kind : PtpTxKind
  seq : Nat
deriving DecidableEq, Repr

/-- A symbol of an IRIG-B frame (R71): a binary zero, a binary one, or a marker. -/
inductive IrigSym where
  | zero | one | marker
deriving DecidableEq, Repr

/-- A complete IRIG-B frame as it came in on IRIGB_IN (R71): the raw stamp of the leading edge of its on-time reference marker, and
its symbols, the reference marker first. -/
structure IrigFrame where
  stamp : Nat
  symbols : List IrigSym
deriving DecidableEq, Repr

/-! ### Network ports (chapter 03) -/

/-- A frame at a port's serial input, received whole: its bytes from the destination address to the last byte of the FCS,
its two raw stamps (R87), whether the PCS found an error or a cut (R103 check 2), and how many bytes of earlier frames have left the
port's receive buffer since the frame before it (the manual gives the consumers no rate). -/
structure WireFrame where
  bytes : List Byte
  stamp : Nat
  endStamp : Nat
  pcsErr : Bool
  drained : Nat
deriving DecidableEq, Repr

/-! ### Front end (chapter 09) -/

/-- What the tracker has measured when a cycle mark falls (R308, R310): the frequency of REF_CH and of ALT_CH in Hz. -/
structure FeMark where
  refHz : Rat
  altHz : Rat
deriving DecidableEq, Repr

/-! ### Pilot (chapter 12) -/

/-- The handle of a task descriptor (R41, R389): its index and the generation of its lease. -/
structure TaskHandle where
  ix : Nat
  gen : Nat
deriving DecidableEq, Repr

/-- A wake key (R396): a reporting instant by TAI second and index, or a number of quay intervals, plus OFFSET in µs. -/
inductive WakeKey where
  | abs (sec k offsetUs : Nat)
  | rel (n offsetUs : Nat)
deriving DecidableEq, Repr

/-- A task as a unit submits it (R388, R400). `typ` is 1 for a provisional evaluation, 2 for a settlement, 3 for a fold, 4 for an
extraction and 0 for any other (DESIGN CHOICE: the owners' chapters give no codes); `arg` is the owner's own (a group). -/
structure TaskReq where
  cls : Nat
  prio : Nat
  owner : Nat
  typ : Nat
  affinity : Option Nat
  wake : Option WakeKey
  timeout : Nat
  quayTag : Nat
  arg : Nat
deriving DecidableEq, Repr

/-! ### Faults that arise outside the modelled units (chapter 15) -/

/-- A fault event of a source whose sender this model does not run: an engine's watchdog, a supply, a temperature, a memory
(R478, R481): the source, the master code, the access type and the address; or, with `corrected`, a DRAM error that the ECC has corrected
(R447), of which the other fields say nothing. -/
structure FaultIn where
  src : Nat
  master : Nat
  access : Nat
  addr : Nat
  corrected : Bool := false
deriving DecidableEq, Repr

/-! ### Reset (chapter 17) -/

/-- What a core reset finds (R506, R534, R544): the straps, whether the TRNG's health tests, the OTP write and its compare and
the flash read of the boot slot succeed, and which DDR channels train. -/
structure BootEnv where
  straps : BitVec 4
  trngOk : Bool
  otpOk : Bool
  flashOk : Bool
  ddr0 : Bool
  ddr1 : Bool
deriving DecidableEq, Repr

/-- A command to the block: a write or a read of a register, a manifest, a frame, an event on a pin or inside a unit. -/
inductive Instr where
  /-- R537: A core reset of a cause of R536: every core unit in its reset state, the straps sampled, the start sequence run. -/
  | coreReset (cause : Nat) (env : BootEnv)
  /-- R536: PERST_N low resets the PCI Express controller and the HIF block, or the core when PERST_SCOPE is 1. -/
  | perstNAssert (env : BootEnv)
  /-- R421: An FLR (kind 0), a hot reset (1) or a link-down (2) resets the HIF block alone. -/
  | hifReset (kind : Nat)
  /-- R421: A change of Bus Master Enable stops or resumes fetching and releases held completions. -/
  | busMasterEnableChange (on : Bool)
  /-- R451: The function enters D3hot and the device targets DEEP or sets D3_BLOCKED. -/
  | pcieD3hotEnter
  /-- R451: The function returns to D0 and the power target is re-evaluated with the stored TOL_US. -/
  | pcieD0Return
  /-- R17: A write of a BAR0 register takes effect by its access code, and in a register with a row of its own as that row says. -/
  | registerWrite (addr : Nat) (v : Word)
  /-- R15: An access of BAR0 or BAR2 of a size or alignment other than an aligned word; where it is an aligned word, it is an ordinary access of value zero. -/
  | missizedAccess (bar2 : Bool) (addr size : Nat) (write : Bool)
  /-- R49: An access of BAR0 to an offset with no register reads zero or is ignored and is recorded as an access error. -/
  | unmappedAccess (addr : Nat) (write : Option Word)
  /-- R16: A read of the LO register of a 64-bit pair latches the HI half. -/
  | pairLoRead (addr : Nat)
  /-- R16: A write to the HI register of a writable pair applies both halves at once. -/
  | pairHiWrite (addr : Nat) (v : Word)
  /-- R17: A read of an RC register returns its value and clears it. -/
  | rcRead (addr : Nat)
  /-- R97: A read of the SUBNS word of a timestamp register group latches the remaining words. -/
  | timestampSubnsRead (addr : Nat)
  /-- R565: An access of a window data register reads or writes the addressed word and advances the offset. -/
  | windowDataAccess (addr : Nat) (write : Option Word)
  /-- R118: A write of a block's CNT_CLR bit clears all counters of that block in one step. -/
  | counterClear (addr : Nat) (v : Word)
  /-- R81: A write of TB_SET_SEC_HI.APPLY fixes a time step to be applied at the next reporting instant or whole second. -/
  | tbSetApply (v : Word)
  /-- R90: A write of TB_LEAP_CTRL.LOAD validates the leap-second table and schedules it for the next whole second. -/
  | tbLeapLoad (v : Word)
  /-- R98: A write to TB_SRC_CFG enables, disables or reconfigures a source slot and may return it to SEARCH. -/
  | tbSrcCfgWrite (slot : Nat) (v : Word)
  /-- R62: A PTP message accepted by a slot updates its measurement, servo, best master selection and source state. -/
  | ptpMessageRx (port : Nat)
  /-- R65: A slot's message interval expires and it sends a Delay_Req or Pdelay_Req. -/
  | ptpEventMessageTx (slot : Nat)
  /-- R87: A port returns the transmit stamp of a two-step event message to its slot, which may then send the follow-up. -/
  | txTimestampReturn (port : Nat) (msg : PtpSent) (stamp : Nat)
  /-- R68: An edge on PPS_IN is stamped and taken as a measurement of slot 4 or rejected. -/
  | ppsEdge (rising : Bool) (stamp : Nat)
  /-- R71: A complete IRIG-B frame is decoded and taken as a measurement of slot 5 or dropped. -/
  | irigbFrame (f : IrigFrame)
  /-- R61: A slot's loss time passes with no valid measurement and it enters LOST. -/
  | sourceLossTimeout (slot at_ : Nat)
  /-- R93: DT reaches a reporting instant and the instant event is delivered to every consumer. -/
  | reportingInstant
  /-- R94: DT reaches a whole TAI second; frac is the RTC fraction, healed the broken fault pairs whose test pulse of this second passes. -/
  | wholeTaiSecond (frac : Nat) (healed : List Nat)
  /-- R550: REF10M_IN leaves its limits and the TB PLL switches to SYS_REFCLK. -/
  | ref10mLost
  /-- R550: REF10M_IN has been within limits for 1 s and the TB PLL returns to it. -/
  | ref10mRestored
  /-- R101: A write of MAC_CTRL of port p; receiving says whether a frame is being received, which a port that leaves UP discards. -/
  | macEnWrite (p : Nat) (v : Word) (receiving : Bool)
  /-- R101: A port acquires block lock or code-group synchronisation and enters TRAINING. -/
  | linkLockAcquired (p : Nat)
  /-- R101: A port loses block lock or synchronisation and enters DOWN. -/
  | linkLockLost (p : Nat) (receiving : Bool)
  /-- R101: Autonegotiation completes on P4 or P5 and the qualification time starts. -/
  | autonegComplete (p : Nat)
  /-- R99: SGMII control information is received on P4 or P5 and SPEED_ERR is updated; slow says that it signals 10 or 100 Mb/s. -/
  | sgmiiControlRx (p : Nat) (slow receiving : Bool)
  /-- R101: The 10 ms qualification time ends and the port enters UP. -/
  | linkQualified (p : Nat)
  /-- R100: A fault sequence (local unless remote), hi_ber or a remote fault code moves an UP port to FAULT. -/
  | linkFaultRx (p : Nat) (remote hiBer receiving : Bool)
  /-- R101: The fault condition has been absent for 10 ms and the port returns to UP. -/
  | linkFaultCleared (p : Nat)
  /-- R103: A frame received whole is checked, filtered, de-duplicated and passed to one consumer. -/
  | macRxFrame (p : Nat) (f : WireFrame)
  /-- R110: The pause interval ends and paused queues may transmit. -/
  | pauseExpiry (p : Nat)
  /-- R112: A PTP, OUT or HOST frame is offered to a port and enqueued or tail-dropped. -/
  | txEnqueue
  /-- R113: An ALARM frame is offered and always accepted, evicting older frames when needed. -/
  | alarmEnqueue
  /-- R111: A frame finishes on the wire and the port starts the next queued frame by priority. -/
  | txFrameDone (p : Nat)
  /-- R121: Intake takes a frame from its queue, applies the checks and splits a data frame into blocks. -/
  | intakeFrame
  /-- R140: A write of BIN_DIR_CTRL.COPY starts copying LIVE into STAGE. -/
  | dirCopy (v : Word)
  /-- R140: The directory copy completes and COPYING clears. -/
  | dirCopyDone
  /-- R141: A write of BIN_DIR_CTRL.APPLY starts validation of STAGE. -/
  | dirApply (v : Word)
  /-- R143: Validation of STAGE completes, refusing it or setting PENDING and the effective instant E. -/
  | dirValidationDone
  /-- R146: A read of BIN_CFGCHG_FIFO with VALID set pops the entry. -/
  | cfgchgFifoRead
  /-- R146: A read of BIN_UNK_KEY clears VALID so a new unknown key can be captured. -/
  | unkKeyRead
  /-- R186: A write of ALN_CTRL.EN starts or stops the opening of quays, refused without a ring. -/
  | alnEnWrite (v : Word)
  /-- R187: A write of ALN_RING_BASE_HI validates the ring base and sets or clears RING_SET. -/
  | alnRingBaseWrite (v : Word)
  /-- R188: A write of ALN_PROBE_SEQ_HI starts a probe of a quay's state. -/
  | alnProbe (v : Word)
  /-- R177: A spill copy completes, SPILLED is set and the SRAM slot is freed. -/
  | quaySpillDone
  /-- R160: An alignment engine takes a block from its input queue and writes, replaces, discards or rejects it. -/
  | alnBlockWrite
  /-- R169: DT reaches the close instant plus 20 µs and the quay substitutes and settles. -/
  | quaySettle
  /-- R178: The seal copy completes, the header is written with STATE SEALED. -/
  | quaySealDone
  /-- R180: A seal or spill transfer reports an error and is retried once or the quay is sealed with SEAL_ERR. -/
  | tugTransferError (seq : Nat)
  /-- R225: A write of OSC_CTRL.EN enables the oscillation unit or is refused with RING_ERR. -/
  | oscEnWrite (v : Word)
  /-- R210: A provisional task evaluates a group on a PROVISIONAL quay and issues provisional decisions. -/
  | oscProvEval (g : Nat)
  /-- R211: A group is settled on its detector 0 outcome, confirming, retracting or issuing decisions and writing the settled record. -/
  | oscSettleEval (g : Nat)
  /-- R195: The fold of an update quay advances the group's committed state. -/
  | oscFold (g : Nat)
  /-- R198: An extraction computes and matches the group's mode list. -/
  | oscExtract (g : Nat)
  /-- R267: A write of ISL_CTRL.EN enables the islanding unit or is refused with RING_ERR. -/
  | islEnWrite (v : Word)
  /-- R250: A provisional task evaluates topology and coherency on a quay and issues provisional decisions. -/
  | islProvEval
  /-- R251: The quay is settled by detector 1's outcome and the settled record is written. -/
  | islSettleEval
  /-- R252: The fold makes a settled quay's values the new committed islanding state. -/
  | islFold
  /-- R268: A write of ISL_NODE_SEL starts a probe of a node in the committed state. -/
  | islNodeProbe (v : Word)
  /-- R268: A write of ISL_BR_SEL starts a probe of a branch in the committed state. -/
  | islBranchProbe (v : Word)
  /-- R275: The alarm unit takes a decision, settle notice, direct raise or clear on the ALM channel and updates a slot. -/
  | alarmInput
  /-- R277: An acknowledgement of a slot and GEN is evaluated and applied. -/
  | alarmAcknowledge (slot gen : Nat)
  /-- R297: A write of ALM_ACK with GO starts an acknowledgement. -/
  | almAckGo (v : Word)
  /-- R297: A write of ALM_HOST with GO makes a host raise or clear. -/
  | almHostGo (v : Word)
  /-- R279: A PULSE-mode pin's width expires and it returns to inactive. -/
  | lhPulseEnd (pin : Nat)
  /-- R283: An alarm message is closed after 10 µs from its first entry and sent. -/
  | almMessageClose (dest : Nat)
  /-- R285: REPEAT_GAP expires and a repeat copy of an alarm message is sent. -/
  | almMessageRepeat (dest : Nat)
  /-- R285: ALM_KEEPALIVE ms have passed and a keepalive message is sent to a destination. -/
  | almKeepalive (dest : Nat)
  /-- R330: A write of FE_CTRL.EN starts or stops the front end and FE_MCLK. -/
  | feEnWrite (v : Word)
  /-- R311: A sample set is released: at DT release if it is the first, else when R317 says. pins are, for each FE_D pin, the level changes since the last set, refHz and altHz what the tracker has measured, used when the set carries a cycle mark. -/
  | feSampleSet (release : Nat) (pins : List (List (Nat × Bool))) (refHz altHz : Rat)
  /-- R301: STUCK or CLIP begins or ends on a channel. -/
  | feChannelCondition (ch : Nat) (clip on : Bool)
  /-- R299: After a DT step the FE PLL realigns FE_MCLK within 10 ms. -/
  | fePllRealign
  /-- R314: A write of FE_CAL_SWAP with GO validates STANDBY and schedules a calibration swap. -/
  | feCalSwapGo (v : Word)
  /-- R323: The estimator wakes on buffered sets and computes and hands off the local berth block of an instant. -/
  | lpeEstimate (entry sec k handOff : Nat)
  /-- R360: A write of MTR_CTRL.EN starts metering and restores its state. -/
  | mtrEnWrite (v : Word)
  /-- R337: A metering cycle closes and its quantities, energies, demand and pulse residues are updated. -/
  | mtrCycle (now : Nat)
  /-- R349: A metering flash save completes or fails with SAVE_ERR. -/
  | mtrFlashSaveDone (ok : Bool)
  /-- R347: A pulse output's scheduled instant arrives and the pulse begins. -/
  | pulseStart (o : Nat)
  /-- R347: A pulse's width expires and the output returns to inactive. -/
  | pulseEnd (o : Nat)
  /-- R350: PFW_N is asserted, metering saves with PFW and freezes, and a POWER record is made. -/
  | pfwAssert
  /-- R350: PFW_N is deasserted with power present and metering adds the pending sum and saves. -/
  | pfwDeassert
  /-- R365: A write of CAP_CH_CTRL.ARM arms a capture channel or is refused. -/
  | capChArm (ch : Nat)
  /-- R373: A write of CAP_CH_CTRL.ABORT aborts a channel's capture. -/
  | capChAbort (ch : Nat)
  /-- R368: A write of CAP_CH_CTRL.SWTRIG triggers a channel. -/
  | capChSwtrig (ch : Nat)
  /-- R368: A trigger condition is detected and an armed channel takes the trigger. -/
  | capTrigger (ch : Nat)
  /-- R372: A capture runs out of region or FIFO space and stops in OVERFLOW. -/
  | capOverflow (ch : Nat) (fifo : Bool)
  /-- R371: Each reduction has written the entry holding E and the capture closes its blocks and enters DONE. -/
  | capEnd (ch : Nat)
  /-- R376: A low pulse on a trigger line is measured and decoded as a code, a collision or a glitch. -/
  | trgPulseRx (line fall rise : Nat)
  /-- R376: A trigger line stays low for 40 µs and is reported STUCK. -/
  | trgLineStuck (line : Nat)
  /-- R377: A write of CAP_TRG_OUT with GO requests a trigger pulse. -/
  | capTrgOutGo (v : Word)
  /-- R377: A queued trigger request finds the line high and the driver pulls it low. -/
  | trgOutPulseStart (line stamp : Nat)
  /-- R377: The pulse width expires and the driver releases the line. -/
  | trgOutPulseEnd (line : Nat)
  /-- R378: A write of LOG_RING_BASE_HI sets the logbook ring and copies the tail into it. -/
  | logRingBaseWrite (v : Word)
  /-- R383: A logbook event is queued, repeats the last record, or is lost. -/
  | logEvent
  /-- R379: The single writer takes an event from the queue, snapshots registers and writes a chained record. -/
  | logRecordWrite
  /-- R382: LOG_CHKPT.SEC seconds pass or N records are written and a signed CHECKPOINT record is written. -/
  | logCheckpoint
  /-- R385: A read of LOG_NONCE_LO draws a fresh nonce and voids the previous one. -/
  | logNonceRead
  /-- R400: A unit submits a task, the oldest that a modelled unit wants when none is named, and the pilot answers ACCEPTED, FULL or INVALID. -/
  | taskSubmit (req : Option TaskReq)
  /-- R391: An engine becomes free or a task becomes READY and a task is started or resumed on an engine. -/
  | taskDispatch (cls : Nat)
  /-- R389: A running task waits on an event, with an optional time-out. -/
  | taskWait (i : Nat)
  /-- R398: The awaited event arrives and the waiting task becomes READY with status EVENT. -/
  | waitEventArrives (i : Nat)
  /-- R398: A wait time-out fires and the task becomes READY with status TIMEOUT. -/
  | waitTimeout (i : Nat)
  /-- R396: A delayed task's wake time is reached and it becomes READY. -/
  | delayWake (i : Nat)
  /-- R395: A READY task has waited PLT_AGE_US and is raised one priority level. -/
  | taskAging (i : Nat)
  /-- R389: A task completes DONE or ABORTED and its completion goes to the owner. -/
  | taskComplete (i : Nat)
  /-- R399: An owner aborts a task by its handle with exactly one outcome. -/
  | taskAbort (h : TaskHandle) (owner : Nat)
  /-- R411: A write of PLT_TASK_SEL starts a probe of a task descriptor. -/
  | pltTaskProbe (v : Word)
  /-- R411: A write of PLT_RL_CAP_c sets a ready-list cap or is ignored with CAP_ERR. -/
  | pltRlCapWrite (c : Nat) (v : Word)
  /-- R403: A write of PLT_ROT_CTRL with action FIRMWARE requests a firmware rotation of an engine. -/
  | pltRotFirmware (v : Word)
  /-- R403: A write of PLT_ROT_CTRL with action SELFTEST requests a self-test rotation of an engine. -/
  | pltRotSelftest (v : Word)
  /-- R402: PLT_ROT_DRAIN expires and the remaining work is migrated with RESTART. -/
  | rotDrainTimeout
  /-- R404: An engine finishes verifying and loading its staged image, or reloads its old one. -/
  | engineLoadDone (sigOk : Bool)
  /-- R401: An engine's self-test ends and it rejoins or is fenced. -/
  | engineTestDone (ok : Bool)
  /-- R401: Re-initialisation completes and the engine enters IN_SERVICE. -/
  | engineRejoinDone (e : Nat)
  /-- R406: A programmable counter of engine e wraps, setting its overflow bit and optionally taking a sample; busy says that a sample already waits to be written. -/
  | engCounterWrap (e i addr skid : Nat) (busy : Bool)
  /-- R412: A write of ENG_CNT_CTRL.CLR clears an engine's counters and advances ENG_CNT_GEN. -/
  | engCntClr (e : Nat)
  /-- R412: A write of ENG_CNT_SEL_i selects an event from the next cycle and advances ENG_CNT_GEN. -/
  | engCntSelWrite (e i : Nat) (v : Word)
  /-- R412: A write of a counter pair preloads it and advances ENG_CNT_GEN. -/
  | engCntPreload (e i v : Nat)
  /-- R406: A write of PLT_CNT_CTRL.FREEZE_ALL stops or starts every engine's counters at one DT instant. -/
  | freezeAllWrite (v : Word)
  /-- R411: A write of PLT_CNT_CTRL.CLR_ALL clears every engine's counters. -/
  | clrAll
  /-- R414: DBG_TRST_N low or Test-Logic-Reset resets the TAP and relocks the port. -/
  | dbgTapReset
  /-- R413: The EXTEST instruction drives the pins from the boundary-scan register while RESET_N is low. -/
  | extest (resetLow : Bool) (bits : List Bool)
  /-- R413: The SAMPLE/PRELOAD instruction captures and loads the boundary-scan register. -/
  | samplePreload (captured bits : List Bool)
  /-- R413: The IDCODE instruction presents the 32-bit identification value. -/
  | idcode
  /-- R413: The HIGHZ instruction puts the pins at high impedance while RESET_N is low. -/
  | highz (resetLow : Bool)
  /-- R413: The CLAMP instruction holds the pins from the boundary-scan register while RESET_N is low. -/
  | clamp (resetLow : Bool)
  /-- R413: The BYPASS instruction selects the 1-bit bypass register. -/
  | bypass
  /-- R414: A Capture-DR of DBG_NONCE draws and presents a fresh nonce. -/
  | dbgNonce
  /-- R414: An Update-DR of DBG_UNLOCK verifies a signed request and raises the port's level. -/
  | dbgUnlock (level : Nat) (sig : List Byte)
  /-- R415: A MEMAP READ performs a BAR0 read as master 62. -/
  | memapRead (off : Nat)
  /-- R415: A MEMAP WRITE performs a BAR0 write as master 62. -/
  | memapWrite (off : Nat) (v : Word)
  /-- R416: ENGDBG HALT halts a fenced engine and makes a DEBUG record. -/
  | engdbgHalt (e : Nat)
  /-- R416: ENGDBG RESUME lets a fenced engine run with its fabric port closed. -/
  | engdbgResume (e : Nat)
  /-- R416: ENGDBG STEP runs one instruction of a fenced engine. -/
  | engdbgStep (e : Nat)
  /-- R416: ENGDBG READ_LOCAL reads a word of a fenced engine's local memory. -/
  | engdbgReadLocal (e addr : Nat)
  /-- R416: ENGDBG READ_REG reads an architectural register of a fenced engine. -/
  | engdbgReadReg (e r : Nat)
  /-- R414: A write of DBG_CTRL.RELOCK returns the port to LOCKED. -/
  | dbgRelock
  /-- R417: A write of DBG_CTRL.PORT_DIS disables the debug port until core reset and relocks it. -/
  | dbgPortDis
  /-- R424: A write of v to HIF_RP_CTRL of ring pair n. -/
  | ringPairEnWrite (n : Nat) (v : Word)
  /-- R426: A write of an SQ_TAIL doorbell announces new manifests or moves the pair to ERROR. -/
  | sqTailDoorbell (n : Nat) (v : Word)
  /-- R426: A write of a CQ_HEAD doorbell releases completion entries or moves the pair to ERROR. -/
  | cqHeadDoorbell (n : Nat) (v : Word)
  /-- R427: The host returns a manifest's read data and the manifest is started when ordering allows. -/
  | manifestFetch (n : Nat) (bytes : List Byte)
  /-- R429: A manifest's action completes and its completion entry is written. -/
  | manifestComplete (n : Nat)
  /-- R425: A PCI Express error on a ring access moves the pair to ERROR. -/
  | hostDmaError (n : Nat)
  /-- R428: A unit's delivery takes a free CQ slot and is written, or waits or is dropped. -/
  | delivery
  /-- R428: A waiting delivery's HIF_RP_TIMEOUT expires and it is dropped. -/
  | deliveryTimeout (n : Nat)
  /-- R430: COAL_US expires after the first signalling entry and a coalescing event falls due. -/
  | coalesceTimer (n : Nat)
  /-- R433: The NOP manifest completes at its start with no effect. -/
  | nop (n : Nat)
  /-- R436: The ABORT manifest aborts the oldest outstanding manifest with a given TAG. -/
  | abort (n : Nat)
  /-- R437: The CFG_LOAD manifest of ring pair n; buf is its buffer, none when the read failed. -/
  | cfgLoad (n : Nat) (buf : Option (List Byte))
  /-- R438: The CFG_WRITE manifest writes a section body into SHADOW. -/
  | cfgWrite (n : Nat) (buf : Option (List Byte))
  /-- R440: The CFG_COPY manifest copies ACTIVE into SHADOW. -/
  | cfgCopy (n : Nat)
  /-- R441: The COMMIT manifest checks SHADOW's SET_CHECK and starts validation. -/
  | commit (n : Nat)
  /-- R441: Validation of a commit completes, refusing it or fixing its effective instant E. -/
  | commitValidationDone
  /-- R445: The CFG_SAVE manifest writes a set to a flash slot, optionally as the boot slot. -/
  | cfgSave (n : Nat) (ok : Bool)
  /-- R433: The CFG_READ manifest returns a set in canonical form. -/
  | cfgRead (n : Nat) (ok : Bool)
  /-- R440: A write through CFG_SWIN_DATA changes SHADOW or is ignored while it is locked. -/
  | cfgSwinWrite (v : Word)
  /-- R114: The HOST_SEND manifest sends a frame or segments on a port. -/
  | hostSend (n : Nat) (buf : Option (List Byte))
  /-- R124: The INJECT manifest places a TCP-carried data frame into the intake queue. -/
  | inject (n : Nat) (buf : Option (List Byte))
  /-- R277: The ALM_ACK manifest acknowledges an alarm slot; the oldest startable one of a ring pair. -/
  | almAck (ring : Nat)
  /-- R270: The ALM_HOST manifest makes a host alarm raise or clear; the oldest startable one of a ring pair. -/
  | almHost (ring : Nat)
  /-- R365: The CAP_ARM manifest arms a capture channel. -/
  | capArm (n : Nat)
  /-- R368: The CAP_TRIGGER manifest triggers a capture channel. -/
  | capTriggerManifest (n : Nat)
  /-- R373: The CAP_ABORT manifest aborts a capture channel. -/
  | capAbort (n : Nat)
  /-- R519: The MTR_RESET manifest verifies a reset token and clears a point's registers at the next cycle mark. -/
  | mtrReset (n : Nat) (buf : Option (List Byte))
  /-- R433: The MTR_READ manifest returns records from the flash record area. -/
  | mtrRead (n : Nat) (ok : Bool)
  /-- R381: The LOG_NOTE manifest makes a class 16 HOST logbook record. -/
  | logNote (n : Nat)
  /-- R385: The LOG_CLEAR manifest verifies a token and clears the logbook. -/
  | logClear (n : Nat) (buf : Option (List Byte))
  /-- R446: The FW_STAGE manifest writes and verifies a firmware image in a flash slot. -/
  | fwStage (n : Nat) (buf : Option (List Byte)) (sigOk ok : Bool) (ver : Word)
  /-- R403: The ROTATE manifest requests a rotation of an engine. -/
  | rotate (n : Nat)
  /-- R419: The SUBSYS_SET manifest writes the subsystem record of the boot block. -/
  | subsysSet (n : Nat) (ok : Bool)
  /-- R513: The KEY_WRITE manifest writes a software key slot. -/
  | keyWrite (n : Nat) (buf : Option (List Byte))
  /-- R514: The KEY_REPLACE manifest replaces a key slot under a signature verified against slot 0. -/
  | keyReplace (n : Nat) (buf : Option (List Byte))
  /-- R513: The KEY_ERASE manifest erases an unlocked key slot. -/
  | keyErase (n : Nat)
  /-- R520: The KEY_PUBKEY manifest returns a slot's public key. -/
  | keyPubkey (n : Nat) (ok : Bool)
  /-- R513: The KEY_CLOSE manifest programs PROV_CLOSED and locks slot 0. -/
  | keyClose (n : Nat)
  /-- R515: A read of KEY_NONCE_LO draws a fresh nonce and voids the previous one. -/
  | keyNonceRead
  /-- R512: The sealed slot store write completes and the slot change takes effect, or fails with FLASH_ERROR. -/
  | keyStoreWriteDone (ok : Bool)
  /-- R510: A key derivation completes and the derived slot and public key are updated. -/
  | keyDeriveDone (slot : Nat)
  /-- R516: A crypto engine operation completes and returns its result to the requester. -/
  | cryptoOpDone (i : Nat)
  /-- R469: The TWN_HANDOVER manifest requests a planned hand-over. -/
  | twnHandover (ring : Nat)
  /-- R466: The TWN_RESYNC manifest requests resynchronisation. -/
  | twnResync (ring : Nat)
  /-- R474: The TWN_SAVE manifest writes the twin saved state; ok is whether the flash takes it. -/
  | twnSave (ring : Nat) (ok : Bool)
  /-- R469: A write of TWN_CTRL.HANDOVER requests a planned hand-over, with FORCE when set. -/
  | twnCtrlHandover (force : Bool)
  /-- R466: A write of TWN_CTRL.RESYNC requests resynchronisation. -/
  | twnCtrlResync
  /-- R474: A write of TWN_CTRL.SAVE writes the twin saved state. -/
  | twnCtrlSave (ok : Bool)
  /-- R457: A write of TWN_CFG.EN enables pairing or returns the device to SOLO. -/
  | twnEnWrite (v : Word)
  /-- R459: An Aizhan lane holds block lock for 10 ms and comes UP. -/
  | aizLaneUp (lane : Nat)
  /-- R459: An Aizhan lane loses block lock and goes down. -/
  | aizLaneDown (lane : Nat)
  /-- R461: The link comes UP or 100 ms pass unpaired and a HELLO frame is sent. -/
  | helloTx
  /-- R457: A received HELLO frame drives pairing, joining, yielding or MISMATCH. -/
  | hello (frame : List Byte)
  /-- R467: Every 250 µs a HEARTBEAT frame and an HB word are sent. -/
  | heartbeatTx
  /-- R461: A received HEARTBEAT frame updates peer health, configuration check and TWN_DT_DIFF. -/
  | heartbeat (frame : List Byte)
  /-- R467: A word of 48 bits is received on HB_RX. -/
  | hbWordRx (w : Nat)
  /-- R464: A received MIRROR frame's items are applied by the standby. -/
  | mirror (frame : List Byte)
  /-- R466: A received RESYNC frame is a standby request or a transfer item set, ending with END. -/
  | resync (frame : List Byte)
  /-- R469: A received HANDOVER frame is answered TAKE or REFUSE by the standby. -/
  | handover (frame : List Byte)
  /-- R469: A received TAKE frame completes or refuses the planned hand-over at the active device. -/
  | take (frame : List Byte)
  /-- R469: No answer arrives within 1,000 µs and the device returns to ACTIVE with TIMEOUT. -/
  | handoverAnswerTimeout
  /-- R470: At H + 1,000 µs a former active device whose peer did not take returns to ACTIVE. -/
  | handoverReturnCheck
  /-- R472: A TAKING device applies mirror and replay items and enters ACTIVE in one alarm-unit step. -/
  | takeover
  /-- R467: A heartbeat path carries no valid heartbeat for 1,000 µs and is lost: the HB path, or the Aizhan path. -/
  | pathLost (hb : Bool)
  /-- R468: No valid heartbeat arrives on either path for 3,000 µs and the device acts by its role. -/
  | bothLost
  /-- R457: No HELLO arrives within 1,000 ms in WAIT and the device enters SOLO and restores. -/
  | twnWaitTimeout
  /-- R457: No resynchronisation completes within 2,000 ms of JOINING and the device enters SOLO. -/
  | twnJoinTimeout
  /-- R457: The link has been down for 1,000 ms in MISMATCH and the device enters SOLO. -/
  | twnMismatchTimeout
  /-- R474: SAVE_S seconds pass and the twin saved state is written. -/
  | twnPeriodicSave (ok : Bool)
  /-- R475: TEST_S seconds pass on a standby and a SELFTEST rotation of the next engine is requested. -/
  | twnStandbyTest
  /-- R481: A fault source reports an event: the oldest report of a modelled unit, or the named one of a sender outside the model. -/
  | faultEvent (ext : Option FaultIn)
  /-- R480: A source pair holds an invalid code for 4 cycles or fails its test pulse and becomes BROKEN. -/
  | faultPairBroken (src : Nat)
  /-- R484: T passes without an event of a source and its level falls by one. -/
  | faultLevelDecay (src : Nat)
  /-- R487: A reaction completes and HANDLING clears. -/
  | faultReactionDone
  /-- R504: A write of FLT_FER_REL.RELEASE clears the first-error record. -/
  | fltFerRelease (v : Word)
  /-- R503: A write of FLT_INJECT with GO raises a source as INJECTED or makes it BROKEN. -/
  | fltInjectGo (v : Word)
  /-- R503: The FLT_INJECT manifest raises a source as INJECTED or makes it BROKEN. -/
  | fltInject (ring : Nat)
  /-- R492: A write of FLT_RELEASE with GO runs a fenced owner's BIST slice and releases it. -/
  | fltReleaseGo (v : Word)
  /-- R492: The FLT_RELEASE manifest releases a fenced owner after its BIST slice. -/
  | fltRelease (ring : Nat)
  /-- R489: A write of FLT_CTRL.DEGRADE_CLR clears DEGRADED. -/
  | degradeClr
  /-- R503: The BST_RUN manifest starts a slice, whole-device or shutdown self-test. -/
  | bstRun (ring : Nat)
  /-- R495: A write of BST_CTRL with MODE SLICE and GO starts a single slice test. -/
  | bstCtrlSlice (slice : Nat)
  /-- R496: A write of BST_CTRL with MODE WHOLE and GO starts a whole-device test on a standby. -/
  | bstCtrlWhole
  /-- R497: A write of BST_CTRL with MODE SHUTDOWN and GO starts a shutdown run. -/
  | bstCtrlShutdown
  /-- R505: A write of BST_CTRL.ABORT ends a whole-device test after its current slice. -/
  | bstCtrlAbort
  /-- R494: A slice test completes, passing or failing, and the slice rejoins or is fenced. -/
  | bistSliceDone (pass : Bool)
  /-- R449: A write of PWR_LTR sets the tolerated latency and re-evaluates the target power state. -/
  | pwrLtrWrite (v : Word)
  /-- R448: Entry into a deeper power state completes a step. -/
  | pwrEntryStepDone
  /-- R450: A wake event causes an exit to FULL. -/
  | pwrWake (src : Nat)
  /-- R523: The 3.3 V supply falls and the backup domain switches to VBAT, recording RTC_SWO_AT. -/
  | bkpSwitchToVbat (frac mv : Nat)
  /-- R523: The 3.3 V supply returns and the backup domain switches back, recording RTC_RET_AT. -/
  | bkpReturnToMain (frac : Nat)
  /-- R524: VBAT is measured once per second and BACKUP_LOW is updated. -/
  | vbatMeasure (mv : Nat)
  /-- R525: The backup domain's internal supply stays below 1.60 V for 2 µs and its power-on reset asserts. -/
  | bkpPorAssert
  /-- R525: The internal supply stays above 1.80 V for 1 ms and the backup domain is released with TIME_LOST. -/
  | bkpPorRelease
  /-- R529: A read of the RTC counter group freezes or returns its shadows. -/
  | rtcGroupRead (reg frac : Nat)
  /-- R529: The RTC shadows are released 2 ms after their freeze. -/
  | rtcShadowTimeout
  /-- R530: A write of RTC_CTRL.HALT freezes the seconds or adds ROLL and releases them. -/
  | rtcHaltWrite (v : Word)
  /-- R530: A write of RTC_SET_FRAC while halted loads the fraction and clears ROLL. -/
  | rtcSetFracWrite (v : Word)
  /-- R530: A write of RTC_SET_SEC_HI while halted loads the seconds. -/
  | rtcSetSecWrite (v : Word)
  /-- R531: The RTC reaches a multiple of PERIOD and the periodic wake fires. -/
  | rtcWake
  /-- R536: A write of RTC_RST_CTRL with the key starts a SOFTWARE core reset. -/
  | rtcRstCtrlWrite (v : Word) (env : BootEnv)
  /-- R454: A read of CFG_ECC_ADDR_HI clears VALID. -/
  | eccAddrRead
  /-- R362: A read of offset 0x000 of a metering point block latches the whole block. -/
  | mtrPointLatchRead (m : Nat)
  /-- R79: The remaining offset of a slew comes within 10 ns (rest, in 2⁻¹⁶ ns) and SLEWING clears. -/
  | slewingEnd (at_ : Nat) (rest : Int)
  /-- R178: With the quay rate removed, DT reaches C plus SEAL_DELAY quay intervals after settlement and the quay's seal begins. -/
  | sealInstantWithoutGrid
  /-- R465: A frame leaves the Aizhan link and its items leave the 256 KiB mirror queue, freeing space. -/
  | aizhanFrameSent
  /-- R449: The exit from a stopped power state completes, the device is in FULL and the waiting access completes. -/
  | powerStateExitDone
  /-- R448: The PCI Express link trains up or enters or leaves L1, which changes HIF_STATUS and the DEEP entry condition. -/
  | pcieLinkStateChange (speed width : Nat) (l1 : Bool)
  /-- R376: A trigger line reported STUCK has been high for 1 ms and gives pulses again. -/
  | trgLineStuckEnd (line : Nat)
  /-- R530: The RTC fraction rolls over, which advances the seconds, or while halted advances ROLL and may set ROLL_OVF, and which wraps at 2^48 seconds. -/
  | rtcSecondRollover
deriving DecidableEq, Repr

end Sys2Proof
end

