-- ==== Sys2Proof/Config.lean ====
section
/-! DEFINITION. The values the manual leaves open, as constants without a body: nothing in Lean can evaluate one, so what is
proved holds whatever they are. Each says in its docstring where the manual stops; the assumption log has a row for each
group. -/

namespace Sys2Proof.Config

/-! ### Fresh values -/

/-- The n-th value drawn where the manual names a random or an unstated value (nonces and EPOCHs of the TRNG, R385, R460,
R515). -/
opaque freshNat : Nat → Nat

/-! ### Rounding: the manual states the quantity, not the rounding of its last bit -/

/-- FP32 word of a number that no FP32 word holds exactly. -/
opaque roundF32 : Rat → BitVec 32
/-- FP64 value of a number that no FP64 value holds exactly (R339: "computed in FP64"). -/
opaque roundF64 : Rat → Rat
/-- The FP32 result of arithmetic of which an operand is an infinity or a NaN (R131: the scales and offsets are not checked). -/
opaque specialF32 : List (BitVec 32) → BitVec 32

/-! ### The time base's servo: the manual names its residual and gives no algorithm (R59, R61) -/

/-- What the servo of a source slot makes of a measurement: from the slot, its present offset and rate ratio, the measured offset and
the time since the measurement before it (2⁻¹⁶ ns), the new offset, the new rate ratio and the residual (ns). -/
opaque servo : Nat → Int → Rat → Int → Nat → Int × Rat × Nat
/-- The sourcePortIdentity of a PTP slot on a port (IEEE 1588-2019, 10 bytes, most significant first): the manual gives none. -/
opaque portIdentity : Nat → Nat → Nat

/-! ### Estimators whose arithmetic the manual gives as a formula over the reals or does not give -/

/-- FREQ and ROCOF of R323 where its fit gives none: with a value that is an infinity or a NaN, and ROCOF of two sub-windows (log entry
134). -/
opaque lpeFreq : List (Nat × Rat × BitVec 32 × Nat) → Nat → Nat → BitVec 32 × BitVec 32

/-! ### The filter chain of the front end: the manual gives the number of taps and the response (R303, R306) and no coefficient -/

/-- The tap of half-band filter 1, 2 or 3, in SCS mode or not, at an odd distance from the middle one (R303). -/
opaque halfTap : Nat → Bool → Nat → Rat
/-- The resampler's kernel, in SCS mode or not, at a distance from the interpolation instant, in input samples (R303). -/
opaque resampleTap : Bool → Rat → Rat
/-- The DC blocker's target where every sample of the last DCB_TAU seconds was taken while the estimate was frozen (R304): from the
channel, the number of seconds and the second. -/
opaque dcbMean : Nat → Nat → Nat → Rat

/-! ### The filters and the identification of the oscillation unit: the manual names the filters by order and −3 dB points and the
method of identification, and gives no algorithm (R194, R198, R204) -/

/-- The fourth-order low-pass filter of R194: sample rate (Hz), −3 dB point (Hz), memory, input; the new memory and the output. -/
opaque lowPass4 : Rat → Rat → List (BitVec 32) → BitVec 32 → List (BitVec 32) × BitVec 32
/-- The second-order high-pass filter of R194: sample rate, −3 dB point, memory, input. -/
opaque highPass2 : Rat → Rat → List (BitVec 32) → BitVec 32 → List (BitVec 32) × BitVec 32
/-- The fourth-order band-pass filter of R204: sample rate, lower and upper edge (Hz), memory, input. -/
opaque bandPass : Rat → Rat → Rat → List (BitVec 32) → BitVec 32 → List (BitVec 32) × BitVec 32
/-- The part of the difference that a first-order average with a time constant (s) takes on in a time (s) (R204, R206, R238). -/
opaque avgGain : Rat → Rat → Rat
/-- The frequency (Hz) of the peak of a band-pass filter's memory (R224): sample rate, edges, memory. -/
opaque bandPeak : Rat → Rat → Rat → List (BitVec 32) → BitVec 32
/-- The model after a decimated sample (R195, R198): order N, horizon H, forgetting factor, model, sample, which signals were observed. -/
opaque oscIdentify : Nat → Nat → Rat → Nat → List (BitVec 32) → List Bool → Nat
/-- The model's prediction of an input of its group, a number of quays ahead of the last one folded: model, quays, place of the input. -/
opaque oscPredict : Nat → Nat → Nat → BitVec 32
/-- The model's prediction of a decimated sample: model, quays ahead, group index. -/
opaque oscPredSample : Nat → Nat → Nat → BitVec 32
/-- The model's prediction of the state of the mode with an eigenvalue: model, quays ahead, eigenvalue. -/
opaque oscPredState : Nat → Nat → Rat × Rat → Rat × Rat
/-- The eigenvalues of a model of order N with horizon H, each with its mode's share of the variance, C × v by group index and the observer
gain by group index (R198, R200); none where the computation fails numerically. -/
opaque oscEigen : Nat → Nat → Nat → Option (List ((Rat × Rat) × BitVec 32 × List (Rat × Rat) × List (Rat × Rat)))
/-- Whether the standard deviation of R200 divides by one less than the number of values. -/
opaque stdSample : Bool

/-! ### Output streams (R289) -/

/-- Whether a number that lies midway between two integers is rounded up. -/
opaque roundTieUp : Rat → Bool

end Sys2Proof.Config
end

