-- ==== Sys2Proof/Machine/Bytes.lean ====
section
/-! DEFINITION. Bytes and words: little-endian and big-endian fields (R14), the check codes and the hash the manual uses. -/

namespace Sys2Proof.Machine

/-- The `n` low bytes of `v`, least significant first (R14). -/
def leBytes : Nat → Nat → List Byte
  | 0, _ => []
  | n + 1, v => BitVec.ofNat 8 v :: leBytes n (v / 256)

/-- The number a list of bytes spells, least significant first (R14). -/
def leNat : List Byte → Nat
  | [] => 0
  | b :: bs => b.toNat + 256 * leNat bs

/-- The `n` low bytes of `v`, most significant first. -/
def beBytes (n v : Nat) : List Byte := (leBytes n v).reverse

/-- The number a list of bytes spells, most significant first. -/
def beNat (bs : List Byte) : Nat := leNat bs.reverse

/-- `n` bytes of `bs` from offset `off`. -/
def slice (bs : List Byte) (off n : Nat) : List Byte := (bs.drop off).take n

/-- Byte `off` of `bs`, 0 past its end. -/
def byteAt (bs : List Byte) (off : Nat) : Nat := (bs.getD off 0).toNat

/-- The little-endian number in `n` bytes from `off`. -/
def leAt (bs : List Byte) (off n : Nat) : Nat := leNat (slice bs off n)

/-- The big-endian number in `n` bytes from `off`. -/
def beAt (bs : List Byte) (off n : Nat) : Nat := beNat (slice bs off n)

/-- The bits [lo + w - 1 : lo] of a number. -/
def bitsOf (v lo w : Nat) : Nat := (v >>> lo) % 2 ^ w

/-- Bit `i` of a number. -/
def bitOf (v i : Nat) : Bool := v.testBit i

/-- `bs` cut or filled with zeros to `n` bytes. -/
def padTo (n : Nat) (bs : List Byte) : List Byte := bs.take n ++ List.replicate (n - bs.length) 0

/-- 1 for true, 0 for false. -/
def b2n (b : Bool) : Nat := if b then 1 else 0

/-- A signed number in the low `w` bits (two's complement). -/
def sext (w v : Nat) : Int := if v % 2 ^ w < 2 ^ (w - 1) then (v % 2 ^ w : Nat) else ((v % 2 ^ w : Nat) : Int) - 2 ^ w

/-- The `w`-bit two's complement pattern of an integer. -/
def toTwos (w : Nat) (v : Int) : Nat := (v % (2 ^ w : Int)).toNat

/-- One bit step of a reflected CRC. -/
def crcReflBit (poly : Nat) (c : Nat) : Nat := if c % 2 = 1 then (c / 2) ^^^ poly else c / 2

/-- A reflected CRC register after one byte. -/
def crcReflByte (poly : Nat) (c : Nat) (b : Byte) : Nat := (crcReflBit poly)^[8] (c ^^^ b.toNat)

/-- CRC-32C (R179): reflected polynomial 0x82F63B78, start and final inversion. -/
def crc32c (bs : List Byte) : Nat := bs.foldl (crcReflByte 0x82F63B78) 0xFFFFFFFF ^^^ 0xFFFFFFFF

/-- CRC-32 of IEEE 802.3, the FCS of a frame (R103). -/
def crc32 (bs : List Byte) : Nat := bs.foldl (crcReflByte 0xEDB88320) 0xFFFFFFFF ^^^ 0xFFFFFFFF

/-- One bit step of a CRC of `w` bits, most significant bit first. -/
def crcMsbBit (w poly : Nat) (c : Nat) : Nat :=
  if c.testBit (w - 1) then ((c * 2) % 2 ^ w) ^^^ poly else (c * 2) % 2 ^ w

/-- A CRC of `w` bits, most significant bit first, after one byte. -/
def crcMsbByte (w poly : Nat) (c : Nat) (b : Byte) : Nat := (crcMsbBit w poly)^[8] (c ^^^ (b.toNat <<< (w - 8)))

/-- CRC-CCITT of a C37.118.2 frame (R122): polynomial 0x1021, start 0xFFFF, no final inversion. -/
def crcCcitt (bs : List Byte) : Nat := bs.foldl (crcMsbByte 16 0x1021) 0xFFFF

/-! ### SHA-256 and HMAC-SHA-256 (FIPS 180-4, FIPS 198-1) -/

/-- The primes below 312, of which there are 64: the numbers no smaller number from 2 to 18 divides. -/
def shaPrimes : List Nat := (List.range' 2 310).filter fun n => (List.range' 2 17).all fun d => n ≤ d || n % d != 0

/-- The first 32 bits of the fractional part of the e-th root of p: the root of p · 2³²ᵉ to the unit, bit by bit from the highest,
of which the low word is kept. -/
def rootFraction (e p : Nat) : Word :=
  BitVec.ofNat 32 ((List.range 37).foldr (fun i r => if (r + 2 ^ i) ^ e ≤ p * 2 ^ (32 * e) then r + 2 ^ i else r) 0)

/-- The 64 round constants of SHA-256 (FIPS 180-4, 4.2.2): from the cube roots of the first 64 primes. -/
def shaK : List Word := shaPrimes.map (rootFraction 3)

/-- The start value of SHA-256 (FIPS 180-4, 5.3.3): from the square roots of the first eight primes. -/
def shaInit : List Word := (shaPrimes.take 8).map (rootFraction 2)

/-- The next word of the message schedule, from the sixteen before it, oldest first. -/
def shaNextW (w : List Word) : Word :=
  let a := w.getD 1 0
  let b := w.getD 14 0
  w.getD 0 0 + (a.rotateRight 7 ^^^ a.rotateRight 18 ^^^ (a >>> 3)) + w.getD 9 0
    + (b.rotateRight 17 ^^^ b.rotateRight 19 ^^^ (b >>> 10))

/-- One round of SHA-256 on the eight working words. -/
def shaRound (v : List Word) (k w : Word) : List Word :=
  match v with
  | [a, b, c, d, e, f, g, h] =>
    let t1 := h + (e.rotateRight 6 ^^^ e.rotateRight 11 ^^^ e.rotateRight 25) + ((e &&& f) ^^^ (~~~e &&& g)) + k + w
    let t2 := (a.rotateRight 2 ^^^ a.rotateRight 13 ^^^ a.rotateRight 22) + ((a &&& b) ^^^ (a &&& c) ^^^ (b &&& c))
    [t1 + t2, a, b, c, d + t1, e, f, g]
  | _ => v

/-- The rounds of one block: the working words and the sliding schedule, one round constant after another. -/
def shaRounds : List Word → List Word → List Word → List Word
  | [], v, _ => v
  | k :: ks, v, w => shaRounds ks (shaRound v k (w.getD 0 0)) (w.drop 1 ++ [shaNextW w])

/-- A list cut into pieces of `n`, at most `fuel` of them. -/
def chunks {α : Type} (n : Nat) : Nat → List α → List (List α)
  | 0, _ => []
  | _ + 1, [] => []
  | fuel + 1, l => l.take n :: chunks n fuel (l.drop n)

/-- One block of 64 bytes folded into the hash value. -/
def shaBlock (h : List Word) (blk : List Byte) : List Word :=
  let w := (chunks 4 16 blk).map fun q => BitVec.ofNat 32 (beNat q)
  (h.zip (shaRounds shaK h w)).map fun p => p.1 + p.2

/-- SHA-256 of a byte string. -/
def sha256 (m : List Byte) : List Byte :=
  let pad := (119 - m.length % 64) % 64
  let full := m ++ [0x80] ++ List.replicate pad 0 ++ beBytes 8 (8 * m.length)
  ((chunks 64 (full.length / 64) full).foldl shaBlock shaInit).flatMap fun w => beBytes 4 w.toNat

/-- HMAC-SHA-256 of a message under a key. -/
def hmacSha256 (key m : List Byte) : List Byte :=
  let k := padTo 64 (if key.length ≤ 64 then key else sha256 key)
  sha256 (k.map (· ^^^ 0x5C) ++ sha256 (k.map (· ^^^ 0x36) ++ m))

/-- The bytes of an ASCII string. -/
def ascii (t : String) : List Byte := t.toList.map fun c => BitVec.ofNat 8 c.toNat

/-- The key derivation of R509: counter mode, HMAC-SHA-256 as the PRF, `l` output bits. -/
def kdf (root : List Byte) (label : String) (context : List Byte) (l : Nat) : List Byte :=
  ((List.range ((l + 255) / 256)).flatMap fun i =>
    hmacSha256 root (beBytes 4 (i + 1) ++ ascii label ++ [0] ++ context ++ beBytes 4 l)).take (l / 8)

end Sys2Proof.Machine
end

