-- ==== Sys2Proof/Machine/Num.lean ====
section
/-! DEFINITION. Numbers: FP32 words and the rationals they stand for, rounding where a number fits exactly, and integer
square roots by squares. -/

namespace Sys2Proof.Machine

/-- q times 2^k. -/
def scale2 (q : Rat) (k : Int) : Rat :=
  if 0 ≤ k then q * ((2 ^ k.toNat : Nat) : Rat) else q / ((2 ^ (-k).toNat : Nat) : Rat)

/-- Whether an FP32 word is an infinity or a NaN. -/
def f32Special (w : Word) : Bool := bitsOf w.toNat 23 8 == 255

/-- Whether an FP32 word is a NaN. -/
def f32Nan (w : Word) : Bool := f32Special w && bitsOf w.toNat 0 23 != 0

/-- Whether an FP32 word is finite. -/
def f32Finite (w : Word) : Bool := !f32Special w

/-- The quiet NaN the device writes. -/
def nanWord : Word := 0x7FC00000

/-- The number a finite FP32 word stands for (0 for the others). -/
def f32Rat (w : Word) : Rat :=
  let e := bitsOf w.toNat 23 8
  let m := bitsOf w.toNat 0 23
  let v : Rat :=
    if e = 255 then 0
    else if e = 0 then scale2 (m : Rat) (-149)
    else scale2 ((m + 2 ^ 23 : Nat) : Rat) ((e : Int) - 150)
  if w.getLsbD 31 then -v else v

/-- floor(log2 q) of a positive rational. -/
def log2Rat (q : Rat) : Int :=
  let n := q.num.toNat
  let e : Int := (Nat.log2 n : Int) - (Nat.log2 q.den : Int)
  if scale2 q (-e) < 1 then e - 1 else e

/-- The word of a number with a binary format of `fw` fraction bits and least exponent `emin`, as exponent code times 2^fw plus
fraction, when the format holds the number exactly. -/
def exactFloat (fw : Nat) (emin emax : Int) (q : Rat) : Option Nat :=
  if q = 0 then some 0
  else
    let e := max (log2Rat q) emin
    let m := scale2 q (fw - e)
    if m.den = 1 ∧ log2Rat q ≤ emax then
      let n := m.num.toNat
      some (if 2 ^ fw ≤ n then (e - emin + 1).toNat * 2 ^ fw + (n - 2 ^ fw) else n)
    else none

/-- The FP32 word of a number: exact where a word holds it, and otherwise the open value of Config. -/
def toF32 (q : Rat) : Word :=
  match exactFloat 23 (-126) 127 (if q < 0 then -q else q) with
  | some n => BitVec.ofNat 32 (n + (if q < 0 then 2 ^ 31 else 0))
  | none => Config.roundF32 q

/-- The FP64 value of a number: itself where FP64 holds it, and otherwise the open value of Config. -/
def toF64 (q : Rat) : Rat :=
  match exactFloat 52 (-1022) 1023 (if q < 0 then -q else q) with
  | some _ => q
  | none => Config.roundF64 q

/-- |q|. -/
def absRat (q : Rat) : Rat := if q < 0 then -q else q

/-- The sum of a list of numbers. -/
def sumRat (l : List Rat) : Rat := l.foldl (· + ·) 0

/-- The largest integer not above q, as a natural number (0 below 0). -/
def floorNat (q : Rat) : Nat := q.floor.toNat

/-- The least natural number not below q. -/
def ceilNat (q : Rat) : Nat := q.ceil.toNat

/-- a times b of two FP32 words, as a number. -/
def f32Mul (a b : Word) : Rat := f32Rat a * f32Rat b

end Sys2Proof.Machine
end

