-- ==== Sys2Proof/Machine/Real.lean ====
section
/-! DEFINITION. Real functions of the manual's formulas (arg, square root, sine, cosine, logarithm), computed in fixed point to 2⁻¹⁶⁰ and
far below the last bit of any word they end in. What that last bit is stays open: `toF32` rounds (log entry 6). -/

namespace Sys2Proof.Machine

/-- The unit of the fixed-point numbers. -/
def fixOne : Int := 2 ^ 176

/-- A number in fixed point, truncated, and back. -/
def toFix (q : Rat) : Int := (q * (fixOne : Rat)).floor
def ofFix (x : Int) : Rat := mkRat x (2 ^ 176)

/-- The product of two fixed-point numbers. -/
def fixMul (a b : Int) : Int := a * b / fixOne

/-- The sum over odd powers, p + p·r/3 + p·r²/5 + …, from term k. -/
def oddSeries (r : Int) : Nat → Nat → Int → Int
  | 0, _, _ => 0
  | fuel + 1, k, p => p / (2 * (k : Int) + 1) + oddSeries r fuel (k + 1) (fixMul p r)

/-- arctan of a fixed-point number from −1/2 to 1/2. -/
def atanSmall (y : Int) : Int := oddSeries (-fixMul y y) 90 0 y

/-- π in fixed point: 4·(arctan 1/2 + arctan 1/3). -/
def fixPi : Int := 4 * (atanSmall (fixOne / 2) + atanSmall (fixOne / 3))

/-- π. -/
def piRat : Rat := ofFix fixPi

/-- arctan of a number from 0 to 1, in fixed point: above 1/2 as arctan 1/2 and the rest. -/
def atanUnit (q : Rat) : Int :=
  if 2 * q ≤ 1 then atanSmall (toFix q) else atanSmall (fixOne / 2) + atanSmall (toFix ((q - 1 / 2) / (1 + q / 2)))

/-- |arg(re + j im)| in fixed point, from 0 to π. -/
def argFix (re im : Rat) : Int :=
  let a := absRat im
  let r := absRat re
  let t := if a ≤ r then (if r = 0 then 0 else atanUnit (a / r)) else fixPi / 2 - atanUnit (r / a)
  if re < 0 then fixPi - t else t

/-- arg(re + j im) in radians, above −π and up to π; 0 for 0. -/
def argRat (re im : Rat) : Rat := ofFix (if im < 0 then -argFix re im else argFix re im)

/-- |arg(re + j im)| in µrad, truncated (R167). -/
def argUrad (re im : Rat) : Nat := (argFix re im * 1000000 / fixOne).toNat

/-- The square root of a number that is not negative, exact where it is rational. -/
def sqrtRat (q : Rat) : Rat :=
  let n := q.num.toNat
  if Nat.sqrt n * Nat.sqrt n = n ∧ Nat.sqrt q.den * Nat.sqrt q.den = q.den then mkRat (Nat.sqrt n) (Nat.sqrt q.den)
  else mkRat (Nat.sqrt (n * 2 ^ 352 / q.den)) (2 ^ 176)

/-- The square root of a number as an FP32 word. -/
def sqrtF32 (q : Rat) : Word := toF32 (sqrtRat q)

/-- The terms of an exponential series of which every second one is taken: t·(1 + r/((k+1)(k+2)) + …). -/
def factSeries (r : Int) : Nat → Nat → Int → Int
  | 0, _, _ => 0
  | fuel + 1, k, t => t + factSeries r fuel (k + 2) (fixMul t r / (((k : Int) + 1) * ((k : Int) + 2)))

/-- An angle turned by whole turns to the range from −π to π, in fixed point. -/
def reduceTurn (a : Rat) : Int :=
  let x := toFix a
  let n := (x + fixPi) / (2 * fixPi)
  x - n * (2 * fixPi)

/-- The cosine and the sine of an angle in radians. -/
def cosRat (a : Rat) : Rat := let x := reduceTurn a; ofFix (factSeries (-fixMul x x) 40 0 fixOne)
def sinRat (a : Rat) : Rat := let x := reduceTurn a; ofFix (factSeries (-fixMul x x) 40 1 x)

/-- ln of a number from 1 to 2, in fixed point. -/
def lnUnit (m : Rat) : Int := let y := toFix ((m - 1) / (m + 1)); 2 * oddSeries (fixMul y y) 60 0 y

/-- The natural logarithm of a positive number. -/
def lnRat (q : Rat) : Rat :=
  let e := log2Rat q
  ofFix (e * lnUnit 2 + lnUnit (scale2 q (-e)))

/-- The integer nearest a number, the greater of two. -/
def nearestInt (q : Rat) : Int := (q + 1 / 2).floor

/-- The value congruent to an angle modulo 2π that lies nearest a base (R191, R238): the angle itself where no turn brings it nearer. -/
def unwrapTo (base a : Rat) : Rat := let k := nearestInt ((base - a) / (2 * piRat)); if k = 0 then a else a + 2 * (k : Rat) * piRat

/-- re + j im turned by an angle in radians: itself for no turn and 0 for no magnitude. -/
def turnRat (re im a : Rat) : Rat × Rat :=
  if a = 0 ∨ re = 0 ∧ im = 0 then (re, im) else (re * cosRat a - im * sinRat a, re * sinRat a + im * cosRat a)

/-- A number times e^(−j·a). -/
def turned (x a : Rat) : Rat × Rat := turnRat x 0 (-a)

/-- The sum of complex numbers. -/
def sumPairs (l : List (Rat × Rat)) : Rat × Rat := (sumRat (l.map (·.1)), sumRat (l.map (·.2)))

/-- A pair of numbers as FP32 words. -/
def pairF32 (p : Rat × Rat) : Word × Word := (toF32 p.1, toF32 p.2)

/-- |re + j im|. -/
def absOf (re im : Rat) : Rat := sqrtRat (re * re + im * im)

end Sys2Proof.Machine
end

