-- ==== Sys2Proof/Machine/RegMap.lean ====
section
/-! DEFINITION. The BAR0 register map: one named offset per register of the manual (its own name, its own capitals),
and one row per register with its access code, its reset value, its writable bits and its clamps.
The rows follow the register tables of spec/: the rule each block's table stands under is named at the block. -/

namespace Sys2Proof.Machine

/-- The access codes of R17. `win` rows are told apart by `Kind`. -/
inductive Acc where
  | ro | rw | wo | w1c | rc | rsv
deriving DecidableEq, Repr

/-- What else a register is, beside its access code: the halves of a 64-bit pair (R16), the words of a timestamp group
(R97; three words for the RTC groups of R539) and a window's data register (R565). -/
inductive Kind where
  | plain | lo | hi | ts | ts3 | tail | win
deriving DecidableEq, Repr

/-- A numeric field clamped to the nearest end: its low bit, its width and its range. -/
structure Clamp where
  lo : Nat
  width : Nat
  min : Nat
  max : Nat
deriving DecidableEq, Repr

/-- One row of a register table: `off` within the block, repeated `n1` times at `s1` and `n2` times at `s2`;
`rw` the bits a write sets, `w1c` the bits a written 1 clears. -/
structure RegRow where
  name : String
  off : Nat
  n1 : Nat
  s1 : Nat
  n2 : Nat
  s2 : Nat
  acc : Acc
  reset : Nat
  rw : Nat
  w1c : Nat
  clamps : List Clamp
  kind : Kind
deriving DecidableEq, Repr

namespace Reg

-- block ID
/-- R50, RO, reset 0x82400000. -/
@[simp] abbrev ID_PART : Nat := 0x0
/-- R11, RO, reset 0xFF. -/
@[simp] abbrev ID_CAP : Nat := 0x8
/-- R12, RO, reset 0x8E32000. -/
@[simp] abbrev ID_CAP_COUNT : Nat := 0xC
/-- R13, RO, reset 0xFFFFFFFF. -/
@[simp] abbrev ID_ENG_MASK : Nat := 0x10
-- block HIF
/-- R452, RW, reset 0x0. -/
@[simp] abbrev HIF_CTRL : Nat := 0x10000
/-- R452, RO, reset 0x0. -/
@[simp] abbrev HIF_STATUS : Nat := 0x10004
/-- R452, W1C, reset 0x0. -/
@[simp] abbrev HIF_EVT : Nat := 0x10010
/-- R452, RW, reset 0x0. -/
@[simp] abbrev HIF_EVT_EN : Nat := 0x10014
/-- R423, RW, reset 0x0. -/
@[simp] abbrev HIF_MSIX_MAP (i : Nat) : Nat := 0x10040 + 0x4 * i
/-- R453, RW, reset 0x100. -/
@[simp] abbrev HIF_RP_CTRL (i : Nat) : Nat := 0x10100 + 0x40 * i
/-- R453, RO, reset 0x0. -/
@[simp] abbrev HIF_RP_STATUS (i : Nat) : Nat := 0x10104 + 0x40 * i
/-- R453, RW, reset 0x0. -/
@[simp] abbrev HIF_RP_SQ_BASE_LO (i : Nat) : Nat := 0x10108 + 0x40 * i
/-- R453, RW, reset 0x0. -/
@[simp] abbrev HIF_RP_SQ_BASE_HI (i : Nat) : Nat := 0x1010C + 0x40 * i
/-- R453, RW, reset 0x0. -/
@[simp] abbrev HIF_RP_CQ_BASE_LO (i : Nat) : Nat := 0x10110 + 0x40 * i
/-- R453, RW, reset 0x0. -/
@[simp] abbrev HIF_RP_CQ_BASE_HI (i : Nat) : Nat := 0x10114 + 0x40 * i
/-- R453, RW, reset 0x0. -/
@[simp] abbrev HIF_RP_DATA_BASE_LO (i : Nat) : Nat := 0x10118 + 0x40 * i
/-- R453, RW, reset 0x0. -/
@[simp] abbrev HIF_RP_DATA_BASE_HI (i : Nat) : Nat := 0x1011C + 0x40 * i
/-- R453, RW, reset 0x404. -/
@[simp] abbrev HIF_RP_SIZE (i : Nat) : Nat := 0x10120 + 0x40 * i
/-- R453, RW, reset 0x3E8. -/
@[simp] abbrev HIF_RP_TIMEOUT (i : Nat) : Nat := 0x10124 + 0x40 * i
/-- R453, RO, reset 0x0. -/
@[simp] abbrev HIF_RP_PTRS (i : Nat) : Nat := 0x10128 + 0x40 * i
/-- R453, RO, reset 0x0. -/
@[simp] abbrev HIF_RP_HOST (i : Nat) : Nat := 0x1012C + 0x40 * i
/-- R452, RO, reset 0x0. -/
@[simp] abbrev HIF_CNT_LO (i : Nat) : Nat := 0x10800 + 0x8 * i
/-- R452, RO, reset 0x0. -/
@[simp] abbrev HIF_CNT_HI (i : Nat) : Nat := 0x10804 + 0x8 * i
/-- R452, RO, reset 0x0. -/
@[simp] abbrev HIF_RP_CNT_LO (i j : Nat) : Nat := 0x10900 + 0x20 * i + 0x8 * j
/-- R452, RO, reset 0x0. -/
@[simp] abbrev HIF_RP_CNT_HI (i j : Nat) : Nat := 0x10904 + 0x20 * i + 0x8 * j
/-- R423, RW, reset 0x0. -/
@[simp] abbrev HIF_MSIX_ADDR_LO (i : Nat) : Nat := 0x18000 + 0x10 * i
/-- R423, RW, reset 0x0. -/
@[simp] abbrev HIF_MSIX_ADDR_HI (i : Nat) : Nat := 0x18004 + 0x10 * i
/-- R423, RW, reset 0x0. -/
@[simp] abbrev HIF_MSIX_DATA (i : Nat) : Nat := 0x18008 + 0x10 * i
/-- R423, RW, reset 0x1. -/
@[simp] abbrev HIF_MSIX_CTRL (i : Nat) : Nat := 0x1800C + 0x10 * i
/-- R423, RO, reset 0x0. -/
@[simp] abbrev HIF_MSIX_PBA (i : Nat) : Nat := 0x19000 + 0x4 * i
-- block CFG
/-- R454, RO, reset 0x0. -/
@[simp] abbrev CFG_STATUS : Nat := 0x20000
/-- R437, RO, reset 0x0. -/
@[simp] abbrev CFG_GEN : Nat := 0x20004
/-- R439, RO, reset 0x0. -/
@[simp] abbrev CFG_ACTIVE_CHECK : Nat := 0x20008
/-- R440, RO, reset 0x0. -/
@[simp] abbrev CFG_SHADOW_CHECK : Nat := 0x2000C
/-- R438, RO, reset 0x0. -/
@[simp] abbrev CFG_ACTIVE_ID : Nat := 0x20010
/-- R437, RO, reset 0x0. -/
@[simp] abbrev CFG_IMAGE_ID : Nat := 0x20014
/-- R441, RO, reset 0x0. -/
@[simp] abbrev CFG_PEND_SEC_LO : Nat := 0x20018
/-- R441, RO, reset 0x0. -/
@[simp] abbrev CFG_PEND_SEC_HI : Nat := 0x2001C
/-- R441, RO, reset 0x0. -/
@[simp] abbrev CFG_PEND_K : Nat := 0x20020
/-- R443, RO, reset 0x0. -/
@[simp] abbrev CFG_LAST_REFUSE : Nat := 0x20024
/-- R443, RO, reset 0x0. -/
@[simp] abbrev CFG_LAST_ENTRY : Nat := 0x20028
/-- R454, W1C, reset 0x0. -/
@[simp] abbrev CFG_EVT : Nat := 0x20030
/-- R454, RW, reset 0x0. -/
@[simp] abbrev CFG_EVT_EN : Nat := 0x20034
/-- R454, RW, reset 0x0. -/
@[simp] abbrev CFG_SWIN_SEL : Nat := 0x20040
/-- R454, RW, reset 0x0. -/
@[simp] abbrev CFG_SWIN_ADDR : Nat := 0x20044
/-- R454, RW, reset 0x0. -/
@[simp] abbrev CFG_SWIN_DATA : Nat := 0x20048
/-- R447, RO, reset 0x0. -/
@[simp] abbrev CFG_DRAM_SIZE : Nat := 0x20100
/-- R447, RO, reset 0x0. -/
@[simp] abbrev CFG_RSV_BASE_LO : Nat := 0x20104
/-- R447, RO, reset 0x0. -/
@[simp] abbrev CFG_RSV_BASE_HI : Nat := 0x20108
/-- R454, RO, reset 0x0. -/
@[simp] abbrev CFG_DDR_STATUS : Nat := 0x20110
/-- R454, RW, reset 0x1. -/
@[simp] abbrev CFG_ECC_CTRL : Nat := 0x20114
/-- R454, RO, reset 0x0. -/
@[simp] abbrev CFG_ECC_ADDR_LO : Nat := 0x20118
/-- R454, RO, reset 0x0. -/
@[simp] abbrev CFG_ECC_ADDR_HI : Nat := 0x2011C
/-- R454, RC, reset 0x0. -/
@[simp] abbrev CFG_ECC_CE : Nat := 0x20120
/-- R454, RC, reset 0x0. -/
@[simp] abbrev CFG_ECC_UE : Nat := 0x20124
-- block PWR
/-- R455, RW, reset 0x0. -/
@[simp] abbrev PWR_LTR : Nat := 0x30000
/-- R455, RO, reset 0x0. -/
@[simp] abbrev PWR_STATUS : Nat := 0x30004
/-- R455, RW, reset 0x0. -/
@[simp] abbrev PWR_WAKE_EN : Nat := 0x30008
/-- R455, RO, reset 0x0. -/
@[simp] abbrev PWR_WAKE_SRC : Nat := 0x3000C
/-- R455, W1C, reset 0x0. -/
@[simp] abbrev PWR_EVT : Nat := 0x30010
/-- R455, RW, reset 0x0. -/
@[simp] abbrev PWR_EVT_EN : Nat := 0x30014
/-- R455, RO, reset 0x0. -/
@[simp] abbrev PWR_RESID_LO (i : Nat) : Nat := 0x30100 + 0x8 * i
/-- R455, RO, reset 0x0. -/
@[simp] abbrev PWR_RESID_HI (i : Nat) : Nat := 0x30104 + 0x8 * i
-- block TB
/-- R97, RW, reset 0x1. -/
@[simp] abbrev TB_CTRL : Nat := 0x40000
/-- R97, RO, reset 0xC060. -/
@[simp] abbrev TB_STATUS : Nat := 0x40004
/-- R97, RW, reset 0x3C00066. -/
@[simp] abbrev TB_SEL : Nat := 0x40008
/-- R97, RW, reset 0xF4240. -/
@[simp] abbrev TB_STEP_THRESH : Nat := 0x4000C
/-- R97, RW, reset 0x64. -/
@[simp] abbrev TB_SLEW : Nat := 0x40010
/-- R97, RW, reset 0xA. -/
@[simp] abbrev TB_HOLD_RATE : Nat := 0x40014
/-- R97, RW, reset 0x2710. -/
@[simp] abbrev TB_HOLD_LIMIT : Nat := 0x40018
/-- R97, RW, reset 0x3E8. -/
@[simp] abbrev TB_XCHK_LIMIT : Nat := 0x4001C
/-- R97, RO, reset 0x0. -/
@[simp] abbrev TB_NOW_SUBNS : Nat := 0x40020
/-- R97, RO, reset 0x0. -/
@[simp] abbrev TB_NOW_NS : Nat := 0x40024
/-- R97, RO, reset 0x0. -/
@[simp] abbrev TB_NOW_SEC_LO : Nat := 0x40028
/-- R97, RO, reset 0x0. -/
@[simp] abbrev TB_NOW_SEC_HI : Nat := 0x4002C
/-- R82, RO, reset 0xFFFFFFFF. -/
@[simp] abbrev TB_UNC : Nat := 0x40030
/-- R84, RO, reset 0x7F. -/
@[simp] abbrev TB_TQ : Nat := 0x40034
/-- R94, RO, reset 0x0. -/
@[simp] abbrev TB_QRATE : Nat := 0x40038
/-- R97, RC, reset 0x0. -/
@[simp] abbrev TB_STEP_COUNT : Nat := 0x4003C
/-- R97, RC, reset 0x0. -/
@[simp] abbrev TB_SWITCH_COUNT : Nat := 0x40040
/-- R97, RW, reset 0x0. -/
@[simp] abbrev TB_SET_SUBNS : Nat := 0x40050
/-- R97, RW, reset 0x0. -/
@[simp] abbrev TB_SET_NS : Nat := 0x40054
/-- R97, RW, reset 0x0. -/
@[simp] abbrev TB_SET_SEC_LO : Nat := 0x40058
/-- R97, RW, reset 0x0. -/
@[simp] abbrev TB_SET_SEC_HI : Nat := 0x4005C
/-- R97, W1C, reset 0x0. -/
@[simp] abbrev TB_EVT : Nat := 0x40060
/-- R97, RW, reset 0x0. -/
@[simp] abbrev TB_EVT_EN : Nat := 0x40064
/-- R98, RW, reset 0x0. -/
@[simp] abbrev TB_SRC_CFG (i : Nat) : Nat := 0x40100 + 0x40 * i
/-- R98, RO, reset 0x0. -/
@[simp] abbrev TB_SRC_STATE (i : Nat) : Nat := 0x40104 + 0x40 * i
/-- R98, RO, reset 0x0. -/
@[simp] abbrev TB_SRC_OFFSET_LO (i : Nat) : Nat := 0x40108 + 0x40 * i
/-- R98, RO, reset 0x0. -/
@[simp] abbrev TB_SRC_OFFSET_HI (i : Nat) : Nat := 0x4010C + 0x40 * i
/-- R98, RW, reset 0x0. -/
@[simp] abbrev TB_SRC_INACC (i : Nat) : Nat := 0x40110 + 0x40 * i
/-- R98, RO, reset 0x0. -/
@[simp] abbrev TB_SRC_RESID (i : Nat) : Nat := 0x40114 + 0x40 * i
/-- R98, RW, reset 0x641000. -/
@[simp] abbrev TB_SRC_LOCK (i : Nat) : Nat := 0x40118 + 0x40 * i
/-- R98, RW, reset 0x0. -/
@[simp] abbrev TB_SRC_AUTH (i : Nat) : Nat := 0x4011C + 0x40 * i
/-- R98, RW, reset 0x0. -/
@[simp] abbrev TB_SRC_DELAY (i : Nat) : Nat := 0x40120 + 0x40 * i
/-- R98, RC, reset 0x0. -/
@[simp] abbrev TB_SRC_DROP (i : Nat) : Nat := 0x40124 + 0x40 * i
/-- R98, RSV, reset 0x0. -/
@[simp] abbrev TB_SRC_AUX (i : Nat) : Nat := 0x40128 + 0x40 * i
/-- R98, RW, reset 0xA0000. -/
@[simp] abbrev TB_SRC_AUX_4 : Nat := 0x40228
/-- R98, RW, reset 0x0. -/
@[simp] abbrev TB_SRC_AUX_5 : Nat := 0x40268
/-- R98, RW, reset 0x0. -/
@[simp] abbrev TB_SRC_IP (i : Nat) : Nat := 0x4012C + 0x40 * i
/-- R98, RSV, reset 0x0. -/
@[simp] abbrev TB_SRC_IP_RSV (i : Nat) : Nat := 0x4022C + 0x40 * i
/-- R98, RW, reset 0x0. -/
@[simp] abbrev TB_SRC_IPCFG (i : Nat) : Nat := 0x40130 + 0x40 * i
/-- R98, RSV, reset 0x0. -/
@[simp] abbrev TB_SRC_IPCFG_RSV (i : Nat) : Nat := 0x40230 + 0x40 * i
/-- R88, RW, reset 0x0. -/
@[simp] abbrev TB_ING (i : Nat) : Nat := 0x40300 + 0x8 * i
/-- R88, RW, reset 0x0. -/
@[simp] abbrev TB_EGR (i : Nat) : Nat := 0x40304 + 0x8 * i
/-- R97, RW, reset 0x1. -/
@[simp] abbrev TB_LEAP_CTRL : Nat := 0x40400
/-- R97, RW, reset 0x0. -/
@[simp] abbrev TB_LEAP_VALID_LO : Nat := 0x40404
/-- R97, RW, reset 0x0. -/
@[simp] abbrev TB_LEAP_VALID_HI : Nat := 0x40408
/-- R97, RW, reset 0x0. -/
@[simp] abbrev TB_LEAP_0_LO : Nat := 0x40500
/-- R97, RW, reset 0x250000. -/
@[simp] abbrev TB_LEAP_0_HI : Nat := 0x40504
/-- R97, RW, reset 0x0. -/
@[simp] abbrev TB_LEAP_LO (i : Nat) : Nat := 0x40508 + 0x8 * i
/-- R97, RW, reset 0x0. -/
@[simp] abbrev TB_LEAP_HI (i : Nat) : Nat := 0x4050C + 0x8 * i
-- block MAC
/-- R118, RW, reset 0x10. -/
@[simp] abbrev MAC_CTRL (i : Nat) : Nat := 0x50000 + 0x1000 * i
/-- R118, RW, reset 0x10. -/
@[simp] abbrev MAC_CTRL_G (i : Nat) : Nat := 0x54000 + 0x1000 * i
/-- R118, RO, reset 0x0. -/
@[simp] abbrev MAC_STATUS (i : Nat) : Nat := 0x50004 + 0x1000 * i
/-- R118, RW, reset 0x2400. -/
@[simp] abbrev MAC_MAXLEN (i : Nat) : Nat := 0x50008 + 0x1000 * i
/-- R118, RW, reset 0x1. -/
@[simp] abbrev MAC_VLAN (i : Nat) : Nat := 0x5000C + 0x1000 * i
/-- R118, RW, reset 0x0. -/
@[simp] abbrev MAC_VID01 (i : Nat) : Nat := 0x50010 + 0x1000 * i
/-- R118, RW, reset 0x0. -/
@[simp] abbrev MAC_VID23 (i : Nat) : Nat := 0x50014 + 0x1000 * i
/-- R118, RW, reset 0x3. -/
@[simp] abbrev MAC_PAUSE (i : Nat) : Nat := 0x50018 + 0x1000 * i
/-- R118, RW, reset 0x1900000. -/
@[simp] abbrev MAC_PRP (i : Nat) : Nat := 0x50020 + 0x2000 * i
/-- R118, RSV, reset 0x0. -/
@[simp] abbrev MAC_PRP_RSV (i : Nat) : Nat := 0x51020 + 0x2000 * i
/-- R118, RSV, reset 0x0. -/
@[simp] abbrev MAC_PRP_RSV_G (i : Nat) : Nat := 0x54020 + 0x1000 * i
/-- R118, RW, reset 0x40400410. -/
@[simp] abbrev MAC_TXQ (i : Nat) : Nat := 0x50024 + 0x1000 * i
/-- R118, W1C, reset 0x0. -/
@[simp] abbrev MAC_EVT (i : Nat) : Nat := 0x50028 + 0x1000 * i
/-- R118, RW, reset 0x0. -/
@[simp] abbrev MAC_EVT_EN (i : Nat) : Nat := 0x5002C + 0x1000 * i
/-- R118, RW, reset 0x0. -/
@[simp] abbrev MAC_DA_LO (i j : Nat) : Nat := 0x50040 + 0x1000 * i + 0x8 * j
/-- R118, RW, reset 0x0. -/
@[simp] abbrev MAC_DA_HI (i j : Nat) : Nat := 0x50044 + 0x1000 * i + 0x8 * j
/-- R119, RO, reset 0x0. -/
@[simp] abbrev MAC_CNT_LO (i j : Nat) : Nat := 0x50100 + 0x1000 * i + 0x8 * j
/-- R119, RO, reset 0x0. -/
@[simp] abbrev MAC_CNT_HI (i j : Nat) : Nat := 0x50104 + 0x1000 * i + 0x8 * j
-- block BIN
/-- R146, RW, reset 0x0. -/
@[simp] abbrev BIN_CTRL : Nat := 0x60000
/-- R146, RO, reset 0x0. -/
@[simp] abbrev BIN_STATUS : Nat := 0x60004
/-- R146, RW, reset 0x435. -/
@[simp] abbrev BIN_QPOL : Nat := 0x60008
/-- R146, RW, reset 0xA. -/
@[simp] abbrev BIN_SNAP_TOL : Nat := 0x6000C
/-- R146, RW, reset 0x7D0. -/
@[simp] abbrev BIN_FUTURE_TOL : Nat := 0x60010
/-- R146, RO, reset 0x0. -/
@[simp] abbrev BIN_DIR_CTRL : Nat := 0x60020
/-- R143, RO, reset 0x0. -/
@[simp] abbrev BIN_DIR_ERR_IDX : Nat := 0x60024
/-- R141, RO, reset 0x0. -/
@[simp] abbrev BIN_DIR_EFF_SEC_LO : Nat := 0x60028
/-- R141, RO, reset 0x0. -/
@[simp] abbrev BIN_DIR_EFF_SEC_HI : Nat := 0x6002C
/-- R141, RO, reset 0x0. -/
@[simp] abbrev BIN_DIR_EFF_K : Nat := 0x60030
/-- R141, RO, reset 0x0. -/
@[simp] abbrev BIN_DIR_GEN : Nat := 0x60034
/-- R146, RW, reset 0x0. -/
@[simp] abbrev BIN_WIN_ADDR : Nat := 0x60040
/-- R146, RW, reset 0x0. -/
@[simp] abbrev BIN_WIN_DATA : Nat := 0x60044
/-- R146, W1C, reset 0x0. -/
@[simp] abbrev BIN_EVT : Nat := 0x60050
/-- R146, RW, reset 0x0. -/
@[simp] abbrev BIN_EVT_EN : Nat := 0x60054
/-- R146, RO, reset 0x0. -/
@[simp] abbrev BIN_CFGCHG_FIFO : Nat := 0x60058
/-- R146, RO, reset 0x0. -/
@[simp] abbrev BIN_UNK_IP : Nat := 0x60060
/-- R146, RO, reset 0x0. -/
@[simp] abbrev BIN_UNK_KEY : Nat := 0x60064
/-- R120, RW, reset 0x0. -/
@[simp] abbrev BIN_LSN_ADDR (i : Nat) : Nat := 0x60100 + 0x8 * i
/-- R120, RW, reset 0x0. -/
@[simp] abbrev BIN_LSN_CFG (i : Nat) : Nat := 0x60104 + 0x8 * i
/-- R147, RO, reset 0x0. -/
@[simp] abbrev BIN_CNT_LO (i : Nat) : Nat := 0x60200 + 0x8 * i
/-- R147, RO, reset 0x0. -/
@[simp] abbrev BIN_CNT_HI (i : Nat) : Nat := 0x60204 + 0x8 * i
-- block ALN
/-- R188, RW, reset 0x0. -/
@[simp] abbrev ALN_CTRL : Nat := 0x70000
/-- R188, RO, reset 0x0. -/
@[simp] abbrev ALN_STATUS : Nat := 0x70004
/-- R187, RW, reset 0x0. -/
@[simp] abbrev ALN_RING_BASE_LO : Nat := 0x70008
/-- R187, RW, reset 0x0. -/
@[simp] abbrev ALN_RING_BASE_HI : Nat := 0x7000C
/-- R188, RO, reset 0x0. -/
@[simp] abbrev ALN_WINDOW : Nat := 0x70010
/-- R188, RO, reset 0x0. -/
@[simp] abbrev ALN_NEWEST_SEQ_LO : Nat := 0x70020
/-- R188, RO, reset 0x0. -/
@[simp] abbrev ALN_NEWEST_SEQ_HI : Nat := 0x70024
/-- R188, RO, reset 0x0. -/
@[simp] abbrev ALN_SEALED_SEQ_LO : Nat := 0x70028
/-- R188, RO, reset 0x0. -/
@[simp] abbrev ALN_SEALED_SEQ_HI : Nat := 0x7002C
/-- R188, RW, reset 0x0. -/
@[simp] abbrev ALN_PROBE_SEQ_LO : Nat := 0x70030
/-- R188, RW, reset 0x0. -/
@[simp] abbrev ALN_PROBE_SEQ_HI : Nat := 0x70034
/-- R188, RO, reset 0x0. -/
@[simp] abbrev ALN_PROBE_RES : Nat := 0x70038
/-- R188, W1C, reset 0x0. -/
@[simp] abbrev ALN_EVT : Nat := 0x70040
/-- R188, RW, reset 0x0. -/
@[simp] abbrev ALN_EVT_EN : Nat := 0x70044
/-- R188, RW, reset 0x0. -/
@[simp] abbrev ALN_WIN_ADDR : Nat := 0x70050
/-- R188, RO, reset 0x0. -/
@[simp] abbrev ALN_WIN_DATA : Nat := 0x70054
/-- R188, RO, reset 0x0. -/
@[simp] abbrev ALN_QD_CFG (i : Nat) : Nat := 0x70100 + 0x20 * i
/-- R188, RO, reset 0x0. -/
@[simp] abbrev ALN_QD_COVTOL (i : Nat) : Nat := 0x70104 + 0x20 * i
/-- R188, RO, reset 0x0. -/
@[simp] abbrev ALN_QD_MAGTOL (i : Nat) : Nat := 0x70108 + 0x20 * i
/-- R188, RO, reset 0x0. -/
@[simp] abbrev ALN_QD_ANGTOL (i : Nat) : Nat := 0x7010C + 0x20 * i
/-- R188, RO, reset 0x0. -/
@[simp] abbrev ALN_QD_FTOL (i : Nat) : Nat := 0x70110 + 0x20 * i
/-- R188, RO, reset 0x0. -/
@[simp] abbrev ALN_QD_RFTOL (i : Nat) : Nat := 0x70114 + 0x20 * i
/-- R189, RO, reset 0x0. -/
@[simp] abbrev ALN_CNT_LO (i : Nat) : Nat := 0x70200 + 0x8 * i
/-- R189, RO, reset 0x0. -/
@[simp] abbrev ALN_CNT_HI (i : Nat) : Nat := 0x70204 + 0x8 * i
-- block OSC
/-- R226, RW, reset 0x0. -/
@[simp] abbrev OSC_CTRL : Nat := 0x80000
/-- R226, RO, reset 0x0. -/
@[simp] abbrev OSC_STATUS : Nat := 0x80004
/-- R215, RO, reset 0x0. -/
@[simp] abbrev OSC_LOAD : Nat := 0x80008
/-- R215, RO, reset 0x4200000. -/
@[simp] abbrev OSC_LOAD_CAP : Nat := 0x8000C
/-- R226, RW, reset 0x0. -/
@[simp] abbrev OSC_RING_BASE_LO : Nat := 0x80010
/-- R226, RW, reset 0x0. -/
@[simp] abbrev OSC_RING_BASE_HI : Nat := 0x80014
/-- R226, RW, reset 0x10. -/
@[simp] abbrev OSC_RING_SIZE : Nat := 0x80018
/-- R226, RO, reset 0x0. -/
@[simp] abbrev OSC_RING_WR_LO : Nat := 0x80020
/-- R226, RO, reset 0x0. -/
@[simp] abbrev OSC_RING_WR_HI : Nat := 0x80024
/-- R226, W1C, reset 0x0. -/
@[simp] abbrev OSC_EVT : Nat := 0x80030
/-- R226, RW, reset 0x0. -/
@[simp] abbrev OSC_EVT_EN : Nat := 0x80034
/-- R226, RW, reset 0x0. -/
@[simp] abbrev OSC_GROUP_SEL : Nat := 0x80040
/-- R226, RO, reset 0x0. -/
@[simp] abbrev OSC_GROUP_STATE : Nat := 0x80044
/-- R226, RO, reset 0x0. -/
@[simp] abbrev OSC_GROUP_BASE_LO : Nat := 0x80048
/-- R226, RO, reset 0x0. -/
@[simp] abbrev OSC_GROUP_BASE_HI : Nat := 0x8004C
/-- R226, RW, reset 0x0. -/
@[simp] abbrev OSC_WIN_ADDR : Nat := 0x80050
/-- R226, RO, reset 0x0. -/
@[simp] abbrev OSC_WIN_DATA : Nat := 0x80054
/-- R227, RO, reset 0x0. -/
@[simp] abbrev OSC_CNT_LO (i : Nat) : Nat := 0x80200 + 0x8 * i
/-- R227, RO, reset 0x0. -/
@[simp] abbrev OSC_CNT_HI (i : Nat) : Nat := 0x80204 + 0x8 * i
-- block ISL
/-- R268, RW, reset 0x0. -/
@[simp] abbrev ISL_CTRL : Nat := 0x90000
/-- R268, RO, reset 0x0. -/
@[simp] abbrev ISL_STATUS : Nat := 0x90004
/-- R268, RW, reset 0x0. -/
@[simp] abbrev ISL_RING_BASE_LO : Nat := 0x90008
/-- R268, RW, reset 0x0. -/
@[simp] abbrev ISL_RING_BASE_HI : Nat := 0x9000C
/-- R268, RW, reset 0x10. -/
@[simp] abbrev ISL_RING_SIZE : Nat := 0x90010
/-- R268, RO, reset 0x0. -/
@[simp] abbrev ISL_RING_WR_LO : Nat := 0x90018
/-- R268, RO, reset 0x0. -/
@[simp] abbrev ISL_RING_WR_HI : Nat := 0x9001C
/-- R268, RW, reset 0x0. -/
@[simp] abbrev ISL_MEMB_BASE_LO : Nat := 0x90020
/-- R268, RW, reset 0x0. -/
@[simp] abbrev ISL_MEMB_BASE_HI : Nat := 0x90024
/-- R268, RW, reset 0x14. -/
@[simp] abbrev ISL_MEMB_SIZE : Nat := 0x90028
/-- R268, RO, reset 0x0. -/
@[simp] abbrev ISL_MEMB_WR_LO : Nat := 0x90030
/-- R268, RO, reset 0x0. -/
@[simp] abbrev ISL_MEMB_WR_HI : Nat := 0x90034
/-- R268, RO, reset 0x0. -/
@[simp] abbrev ISL_BASE_SEQ_LO : Nat := 0x90038
/-- R268, RO, reset 0x0. -/
@[simp] abbrev ISL_BASE_SEQ_HI : Nat := 0x9003C
/-- R268, W1C, reset 0x0. -/
@[simp] abbrev ISL_EVT : Nat := 0x90040
/-- R268, RW, reset 0x0. -/
@[simp] abbrev ISL_EVT_EN : Nat := 0x90044
/-- R268, RW, reset 0x0. -/
@[simp] abbrev ISL_NODE_SEL : Nat := 0x90048
/-- R268, RO, reset 0x0. -/
@[simp] abbrev ISL_NODE_RES : Nat := 0x9004C
/-- R268, RW, reset 0x0. -/
@[simp] abbrev ISL_BR_SEL : Nat := 0x90050
/-- R268, RO, reset 0x0. -/
@[simp] abbrev ISL_BR_RES : Nat := 0x90054
/-- R268, RW, reset 0x0. -/
@[simp] abbrev ISL_WIN_ADDR : Nat := 0x90060
/-- R268, RO, reset 0x0. -/
@[simp] abbrev ISL_WIN_DATA : Nat := 0x90064
/-- R269, RO, reset 0x0. -/
@[simp] abbrev ISL_CNT_LO (i : Nat) : Nat := 0x90200 + 0x8 * i
/-- R269, RO, reset 0x0. -/
@[simp] abbrev ISL_CNT_HI (i : Nat) : Nat := 0x90204 + 0x8 * i
-- block ALM
/-- R297, RW, reset 0x0. -/
@[simp] abbrev ALM_CTRL : Nat := 0xA0000
/-- R297, RO, reset 0x0. -/
@[simp] abbrev ALM_STATUS : Nat := 0xA0004
/-- R297, RW, reset 0x0. -/
@[simp] abbrev ALM_DEVICE_ID : Nat := 0xA0008
/-- R297, RW, reset 0x0. -/
@[simp] abbrev ALM_KEEPALIVE : Nat := 0xA000C
/-- R297, RO, reset 0x0. -/
@[simp] abbrev ALM_PIN_STATE : Nat := 0xA0010
/-- R297, RW, reset 0x0. -/
@[simp] abbrev ALM_PIN_FORCE : Nat := 0xA0014
/-- R297, WO, reset 0x0. -/
@[simp] abbrev ALM_ACK : Nat := 0xA0018
/-- R297, RW, reset 0x0. -/
@[simp] abbrev ALM_ACK_GEN : Nat := 0xA001C
/-- R297, RO, reset 0x0. -/
@[simp] abbrev ALM_ACK_RES : Nat := 0xA0020
/-- R297, WO, reset 0x0. -/
@[simp] abbrev ALM_HOST : Nat := 0xA0024
/-- R297, W1C, reset 0x0. -/
@[simp] abbrev ALM_EVT : Nat := 0xA0030
/-- R297, RW, reset 0x0. -/
@[simp] abbrev ALM_EVT_EN : Nat := 0xA0034
/-- R297, RW, reset 0x0. -/
@[simp] abbrev ALM_WIN_ADDR : Nat := 0xA0040
/-- R297, RO, reset 0x0. -/
@[simp] abbrev ALM_WIN_DATA : Nat := 0xA0044
/-- R297, RO, reset 0x0. -/
@[simp] abbrev ALM_PIN_TS_SUBNS (i : Nat) : Nat := 0xA0100 + 0x10 * i
/-- R297, RO, reset 0x0. -/
@[simp] abbrev ALM_PIN_TS_NS (i : Nat) : Nat := 0xA0104 + 0x10 * i
/-- R297, RO, reset 0x0. -/
@[simp] abbrev ALM_PIN_TS_SEC_LO (i : Nat) : Nat := 0xA0108 + 0x10 * i
/-- R297, RO, reset 0x0. -/
@[simp] abbrev ALM_PIN_TS_SEC_HI (i : Nat) : Nat := 0xA010C + 0x10 * i
/-- R297, RO, reset 0x0. -/
@[simp] abbrev ALM_CNT_LO (i : Nat) : Nat := 0xA0200 + 0x8 * i
/-- R297, RO, reset 0x0. -/
@[simp] abbrev ALM_CNT_HI (i : Nat) : Nat := 0xA0204 + 0x8 * i
-- block OUT
/-- R298, RW, reset 0x0. -/
@[simp] abbrev OUT_CTRL : Nat := 0xA8000
/-- R298, RO, reset 0x0. -/
@[simp] abbrev OUT_STATUS : Nat := 0xA8004
/-- R298, RW, reset 0x0. -/
@[simp] abbrev OUT_STR_CTRL (i : Nat) : Nat := 0xA8100 + 0x10 * i
/-- R298, RO, reset 0x0. -/
@[simp] abbrev OUT_STR_STATUS (i : Nat) : Nat := 0xA8104 + 0x10 * i
/-- R298, RO, reset 0x0. -/
@[simp] abbrev OUT_STR_LAST_LO (i : Nat) : Nat := 0xA8108 + 0x10 * i
/-- R298, RO, reset 0x0. -/
@[simp] abbrev OUT_STR_LAST_HI (i : Nat) : Nat := 0xA810C + 0x10 * i
/-- R298, W1C, reset 0x0. -/
@[simp] abbrev OUT_EVT : Nat := 0xA8180
/-- R298, RW, reset 0x0. -/
@[simp] abbrev OUT_EVT_EN : Nat := 0xA8184
/-- R298, RW, reset 0x0. -/
@[simp] abbrev OUT_WIN_ADDR : Nat := 0xA8190
/-- R298, RO, reset 0x0. -/
@[simp] abbrev OUT_WIN_DATA : Nat := 0xA8194
/-- R298, RO, reset 0x0. -/
@[simp] abbrev OUT_CNT_LO (i j : Nat) : Nat := 0xA8200 + 0x40 * i + 0x8 * j
/-- R298, RO, reset 0x0. -/
@[simp] abbrev OUT_CNT_HI (i j : Nat) : Nat := 0xA8204 + 0x40 * i + 0x8 * j
-- block FE
/-- R331, RW, reset 0x0. -/
@[simp] abbrev FE_CTRL : Nat := 0xB0000
/-- R331, RO, reset 0x0. -/
@[simp] abbrev FE_STATUS : Nat := 0xB0004
/-- R331, RO, reset 0x0. -/
@[simp] abbrev FE_CFG : Nat := 0xB0008
/-- R331, RO, reset 0x0. -/
@[simp] abbrev FE_FREQ : Nat := 0xB000C
/-- R331, RO, reset 0x0. -/
@[simp] abbrev FE_MARK_SUBNS : Nat := 0xB0010
/-- R331, RO, reset 0x0. -/
@[simp] abbrev FE_MARK_NS : Nat := 0xB0014
/-- R331, RO, reset 0x0. -/
@[simp] abbrev FE_MARK_SEC_LO : Nat := 0xB0018
/-- R331, RO, reset 0x0. -/
@[simp] abbrev FE_MARK_SEC_HI : Nat := 0xB001C
/-- R331, WO, reset 0x0. -/
@[simp] abbrev FE_CAL_SWAP : Nat := 0xB0020
/-- R331, RO, reset 0x0. -/
@[simp] abbrev FE_CAL_GEN : Nat := 0xB0024
/-- R331, RW, reset 0x0. -/
@[simp] abbrev FE_DCB_FREEZE : Nat := 0xB0028
/-- R331, W1C, reset 0x0. -/
@[simp] abbrev FE_EVT : Nat := 0xB0030
/-- R331, RW, reset 0x0. -/
@[simp] abbrev FE_EVT_EN : Nat := 0xB0034
/-- R331, RW, reset 0x0. -/
@[simp] abbrev FE_WIN_ADDR : Nat := 0xB0040
/-- R331, RO, reset 0x0. -/
@[simp] abbrev FE_WIN_DATA : Nat := 0xB0044
/-- R333, RW, reset 0x1. -/
@[simp] abbrev FE_PP_CTRL (i : Nat) : Nat := 0xB0100 + 0x80 * i
/-- R333, RO, reset 0x0. -/
@[simp] abbrev FE_PP_STATUS (i : Nat) : Nat := 0xB0104 + 0x80 * i
/-- R333, RO, reset 0x0. -/
@[simp] abbrev FE_PP_SEQ (i : Nat) : Nat := 0xB0108 + 0x80 * i
/-- R333, RO, reset 0x0. -/
@[simp] abbrev FE_PP_DONE_SETS (i : Nat) : Nat := 0xB010C + 0x80 * i
/-- R333, RO, reset 0x0. -/
@[simp] abbrev FE_PP_DONE_TS_SUBNS (i : Nat) : Nat := 0xB0110 + 0x80 * i
/-- R333, RO, reset 0x0. -/
@[simp] abbrev FE_PP_DONE_TS_NS (i : Nat) : Nat := 0xB0114 + 0x80 * i
/-- R333, RO, reset 0x0. -/
@[simp] abbrev FE_PP_DONE_TS_SEC_LO (i : Nat) : Nat := 0xB0118 + 0x80 * i
/-- R333, RO, reset 0x0. -/
@[simp] abbrev FE_PP_DONE_TS_SEC_HI (i : Nat) : Nat := 0xB011C + 0x80 * i
/-- R333, RO, reset 0x0. -/
@[simp] abbrev FE_PP_DONE_PER (i j : Nat) : Nat := 0xB0120 + 0x80 * i + 0x4 * j
/-- R333, RO, reset 0x0. -/
@[simp] abbrev FE_PP_FILL_TS_SUBNS (i : Nat) : Nat := 0xB0140 + 0x80 * i
/-- R333, RO, reset 0x0. -/
@[simp] abbrev FE_PP_FILL_TS_NS (i : Nat) : Nat := 0xB0144 + 0x80 * i
/-- R333, RO, reset 0x0. -/
@[simp] abbrev FE_PP_FILL_TS_SEC_LO (i : Nat) : Nat := 0xB0148 + 0x80 * i
/-- R333, RO, reset 0x0. -/
@[simp] abbrev FE_PP_FILL_TS_SEC_HI (i : Nat) : Nat := 0xB014C + 0x80 * i
/-- R333, RO, reset 0x0. -/
@[simp] abbrev FE_PP_FILL_PER (i j : Nat) : Nat := 0xB0160 + 0x80 * i + 0x4 * j
/-- R334, RO, reset 0x0. -/
@[simp] abbrev FE_CH_CFG (i : Nat) : Nat := 0xB0400 + 0x20 * i
/-- R334, RO, reset 0x0. -/
@[simp] abbrev FE_CH_STATUS (i : Nat) : Nat := 0xB0404 + 0x20 * i
/-- R334, RO, reset 0x0. -/
@[simp] abbrev FE_CH_DCB (i : Nat) : Nat := 0xB0408 + 0x20 * i
/-- R334, RO, reset 0x0. -/
@[simp] abbrev FE_CH_RMS (i : Nat) : Nat := 0xB040C + 0x20 * i
/-- R334, RW, reset 0x3F800000. -/
@[simp] abbrev FE_CAL_GAIN (i : Nat) : Nat := 0xB0410 + 0x20 * i
/-- R334, RW, reset 0x0. -/
@[simp] abbrev FE_CAL_OFFSET (i : Nat) : Nat := 0xB0414 + 0x20 * i
/-- R334, RW, reset 0x0. -/
@[simp] abbrev FE_CAL_PDLY (i : Nat) : Nat := 0xB0418 + 0x20 * i
/-- R334, RSV, reset 0x0. -/
@[simp] abbrev FE_CH_RSV (i : Nat) : Nat := 0xB041C + 0x20 * i
/-- R331, RO, reset 0x3F800000. -/
@[simp] abbrev FE_ACT_GAIN (i : Nat) : Nat := 0xB0800 + 0x10 * i
/-- R331, RO, reset 0x0. -/
@[simp] abbrev FE_ACT_OFFSET (i : Nat) : Nat := 0xB0804 + 0x10 * i
/-- R331, RO, reset 0x0. -/
@[simp] abbrev FE_ACT_PDLY (i : Nat) : Nat := 0xB0808 + 0x10 * i
/-- R331, RSV, reset 0x0. -/
@[simp] abbrev FE_ACT_RSV (i : Nat) : Nat := 0xB080C + 0x10 * i
/-- R331, RO, reset 0x0. -/
@[simp] abbrev FE_CNT_LO (i : Nat) : Nat := 0xB0C00 + 0x8 * i
/-- R331, RO, reset 0x0. -/
@[simp] abbrev FE_CNT_HI (i : Nat) : Nat := 0xB0C04 + 0x8 * i
-- block MTR
/-- R361, RW, reset 0x0. -/
@[simp] abbrev MTR_CTRL : Nat := 0xC0000
/-- R361, RO, reset 0x0. -/
@[simp] abbrev MTR_STATUS : Nat := 0xC0004
/-- R361, RW, reset 0x0. -/
@[simp] abbrev MTR_REC_BASE_LO : Nat := 0xC0008
/-- R361, RW, reset 0x0. -/
@[simp] abbrev MTR_REC_BASE_HI : Nat := 0xC000C
/-- R361, RW, reset 0x8. -/
@[simp] abbrev MTR_REC_SIZE : Nat := 0xC0010
/-- R361, RO, reset 0x0. -/
@[simp] abbrev MTR_REC_WR_LO : Nat := 0xC0018
/-- R361, RO, reset 0x0. -/
@[simp] abbrev MTR_REC_WR_HI : Nat := 0xC001C
/-- R361, RO, reset 0x0. -/
@[simp] abbrev MTR_UNSAVED_MS : Nat := 0xC0020
/-- R361, RO, reset 0x0. -/
@[simp] abbrev MTR_OUTAGE_MS : Nat := 0xC0024
/-- R361, W1C, reset 0x0. -/
@[simp] abbrev MTR_EVT : Nat := 0xC0030
/-- R361, RW, reset 0x0. -/
@[simp] abbrev MTR_EVT_EN : Nat := 0xC0034
/-- R361, RW, reset 0x0. -/
@[simp] abbrev MTR_WIN_ADDR : Nat := 0xC0040
/-- R361, RO, reset 0x0. -/
@[simp] abbrev MTR_WIN_DATA : Nat := 0xC0044
/-- R361, RO, reset 0x0. -/
@[simp] abbrev MTR_PLS_CNT (i : Nat) : Nat := 0xC0100 + 0x10 * i
/-- R361, RO, reset 0x0. -/
@[simp] abbrev MTR_PLS_STATUS (i : Nat) : Nat := 0xC0104 + 0x10 * i
/-- R361, RO, reset 0x0. -/
@[simp] abbrev MTR_PLS_RES_IMP (i : Nat) : Nat := 0xC0108 + 0x10 * i
/-- R361, RO, reset 0x0. -/
@[simp] abbrev MTR_PLS_RES_EXP (i : Nat) : Nat := 0xC010C + 0x10 * i
/-- R361, RO, reset 0x0. -/
@[simp] abbrev MTR_CNT_LO (i : Nat) : Nat := 0xC0200 + 0x8 * i
/-- R361, RO, reset 0x0. -/
@[simp] abbrev MTR_CNT_HI (i : Nat) : Nat := 0xC0204 + 0x8 * i
/-- R362, RO, reset 0x0. -/
@[simp] abbrev MTR_ENERGY_LO (i j : Nat) : Nat := 0xC1000 + 0x400 * i + 0x10 * j
/-- R362, RO, reset 0x0. -/
@[simp] abbrev MTR_ENERGY_HI (i j : Nat) : Nat := 0xC1004 + 0x400 * i + 0x10 * j
/-- R362, RO, reset 0x0. -/
@[simp] abbrev MTR_ENERGY_FRAC (i j : Nat) : Nat := 0xC1008 + 0x400 * i + 0x10 * j
/-- R362, RSV, reset 0x0. -/
@[simp] abbrev MTR_ENERGY_RSV (i j : Nat) : Nat := 0xC100C + 0x400 * i + 0x10 * j
/-- R362, RO, reset 0x0. -/
@[simp] abbrev MTR_CYC_RMS (i j : Nat) : Nat := 0xC1100 + 0x400 * i + 0x4 * j
/-- R362, RO, reset 0x0. -/
@[simp] abbrev MTR_CYC_P (i j : Nat) : Nat := 0xC1120 + 0x400 * i + 0x4 * j
/-- R362, RO, reset 0x0. -/
@[simp] abbrev MTR_CYC_ANG_I (i j : Nat) : Nat := 0xC1140 + 0x400 * i + 0x4 * j
/-- R362, RO, reset 0x0. -/
@[simp] abbrev MTR_CYC_ANG_V (i j : Nat) : Nat := 0xC114C + 0x400 * i + 0x4 * j
/-- R362, RO, reset 0x0. -/
@[simp] abbrev MTR_AGG_RMS (i j : Nat) : Nat := 0xC1180 + 0x400 * i + 0x4 * j
/-- R362, RO, reset 0x0. -/
@[simp] abbrev MTR_SEC_RMS (i j : Nat) : Nat := 0xC11C0 + 0x400 * i + 0x4 * j
/-- R362, RC, reset 0x0. -/
@[simp] abbrev MTR_PEAK (i j : Nat) : Nat := 0xC1200 + 0x400 * i + 0x4 * j
/-- R362, RO, reset 0x0. -/
@[simp] abbrev MTR_DEM_MAX (i j : Nat) : Nat := 0xC1240 + 0x400 * i + 0x4 * j
/-- R362, RO, reset 0x0. -/
@[simp] abbrev MTR_EVT_STATE (i : Nat) : Nat := 0xC1250 + 0x400 * i
/-- R362, RO, reset 0x0. -/
@[simp] abbrev MTR_REC_SEQ_LO (i : Nat) : Nat := 0xC1260 + 0x400 * i
/-- R362, RO, reset 0x0. -/
@[simp] abbrev MTR_REC_SEQ_HI (i : Nat) : Nat := 0xC1264 + 0x400 * i
-- block CAP
/-- R386, RW, reset 0x0. -/
@[simp] abbrev CAP_CTRL : Nat := 0xD0000
/-- R386, RO, reset 0x0. -/
@[simp] abbrev CAP_STATUS : Nat := 0xD0004
/-- R386, RW, reset 0x0. -/
@[simp] abbrev CAP_TRG_DLY (i : Nat) : Nat := 0xD0010 + 0x4 * i
/-- R386, RW, reset 0x0. -/
@[simp] abbrev CAP_TRG_CFG : Nat := 0xD0020
/-- R386, WO, reset 0x0. -/
@[simp] abbrev CAP_TRG_OUT : Nat := 0xD0024
/-- R386, W1C, reset 0x0. -/
@[simp] abbrev CAP_EVT : Nat := 0xD0030
/-- R386, RW, reset 0x0. -/
@[simp] abbrev CAP_EVT_EN : Nat := 0xD0034
/-- R386, RO, reset 0x0. -/
@[simp] abbrev CAP_TRG_IN_SUBNS (i : Nat) : Nat := 0xD0040 + 0x10 * i
/-- R386, RO, reset 0x0. -/
@[simp] abbrev CAP_TRG_IN_NS (i : Nat) : Nat := 0xD0044 + 0x10 * i
/-- R386, RO, reset 0x0. -/
@[simp] abbrev CAP_TRG_IN_SEC_LO (i : Nat) : Nat := 0xD0048 + 0x10 * i
/-- R386, RO, reset 0x0. -/
@[simp] abbrev CAP_TRG_IN_SEC_HI (i : Nat) : Nat := 0xD004C + 0x10 * i
/-- R386, RO, reset 0x0. -/
@[simp] abbrev CAP_TRG_CODE (i : Nat) : Nat := 0xD0080 + 0x4 * i
/-- R386, RW, reset 0x0. -/
@[simp] abbrev CAP_WIN_ADDR : Nat := 0xD0090
/-- R386, RW, reset 0x0. -/
@[simp] abbrev CAP_WIN_DATA : Nat := 0xD0094
/-- R386, WO, reset 0x0. -/
@[simp] abbrev CAP_CH_CTRL (i : Nat) : Nat := 0xD0100 + 0x40 * i
/-- R386, RO, reset 0x0. -/
@[simp] abbrev CAP_CH_STATUS (i : Nat) : Nat := 0xD0104 + 0x40 * i
/-- R386, RW, reset 0x0. -/
@[simp] abbrev CAP_CH_BASE_LO (i : Nat) : Nat := 0xD0108 + 0x40 * i
/-- R386, RW, reset 0x0. -/
@[simp] abbrev CAP_CH_BASE_HI (i : Nat) : Nat := 0xD010C + 0x40 * i
/-- R386, RW, reset 0x1. -/
@[simp] abbrev CAP_CH_SIZE (i : Nat) : Nat := 0xD0110 + 0x40 * i
/-- R386, RW, reset 0x0. -/
@[simp] abbrev CAP_CH_CFG (i : Nat) : Nat := 0xD0114 + 0x40 * i
/-- R386, RW, reset 0x3E803E8. -/
@[simp] abbrev CAP_CH_TIME (i : Nat) : Nat := 0xD0118 + 0x40 * i
/-- R386, RW, reset 0x0. -/
@[simp] abbrev CAP_CH_SNAP (i : Nat) : Nat := 0xD011C + 0x40 * i
/-- R386, RW, reset 0x0. -/
@[simp] abbrev CAP_CH_TOUT (i : Nat) : Nat := 0xD0120 + 0x40 * i
/-- R386, RO, reset 0x0. -/
@[simp] abbrev CAP_CH_TRIG_SUBNS (i : Nat) : Nat := 0xD0124 + 0x40 * i
/-- R386, RO, reset 0x0. -/
@[simp] abbrev CAP_CH_TRIG_NS (i : Nat) : Nat := 0xD0128 + 0x40 * i
/-- R386, RO, reset 0x0. -/
@[simp] abbrev CAP_CH_TRIG_SEC_LO (i : Nat) : Nat := 0xD012C + 0x40 * i
/-- R386, RO, reset 0x0. -/
@[simp] abbrev CAP_CH_TRIG_SEC_HI (i : Nat) : Nat := 0xD0130 + 0x40 * i
/-- R386, RO, reset 0x0. -/
@[simp] abbrev CAP_CH_BLOCKS (i : Nat) : Nat := 0xD0134 + 0x40 * i
/-- R386, RO, reset 0x0. -/
@[simp] abbrev CAP_CNT_LO (i : Nat) : Nat := 0xD0200 + 0x8 * i
/-- R386, RO, reset 0x0. -/
@[simp] abbrev CAP_CNT_HI (i : Nat) : Nat := 0xD0204 + 0x8 * i
-- block LOG
/-- R387, RW, reset 0x0. -/
@[simp] abbrev LOG_CTRL : Nat := 0xE0000
/-- R387, RO, reset 0x0. -/
@[simp] abbrev LOG_STATUS : Nat := 0xE0004
/-- R387, RW, reset 0x0. -/
@[simp] abbrev LOG_RING_BASE_LO : Nat := 0xE0008
/-- R387, RW, reset 0x0. -/
@[simp] abbrev LOG_RING_BASE_HI : Nat := 0xE000C
/-- R387, RO, reset 0x0. -/
@[simp] abbrev LOG_NEXT_SEQ_LO : Nat := 0xE0010
/-- R387, RO, reset 0x0. -/
@[simp] abbrev LOG_NEXT_SEQ_HI : Nat := 0xE0014
/-- R387, RO, reset 0x0. -/
@[simp] abbrev LOG_OLDEST_SEQ_LO : Nat := 0xE0018
/-- R387, RO, reset 0x0. -/
@[simp] abbrev LOG_OLDEST_SEQ_HI : Nat := 0xE001C
/-- R387, RO, reset 0x0. -/
@[simp] abbrev LOG_NONCE_LO : Nat := 0xE0020
/-- R387, RO, reset 0x0. -/
@[simp] abbrev LOG_NONCE_HI : Nat := 0xE0024
/-- R387, RW, reset 0x0. -/
@[simp] abbrev LOG_CLR_SLOT : Nat := 0xE0028
/-- R387, RW, reset 0xE100100. -/
@[simp] abbrev LOG_CHKPT : Nat := 0xE002C
/-- R387, W1C, reset 0x0. -/
@[simp] abbrev LOG_EVT : Nat := 0xE0030
/-- R387, RW, reset 0x0. -/
@[simp] abbrev LOG_EVT_EN : Nat := 0xE0034
/-- R387, RW, reset 0x0. -/
@[simp] abbrev LOG_WIN_ADDR : Nat := 0xE0040
/-- R387, RO, reset 0x0. -/
@[simp] abbrev LOG_WIN_DATA : Nat := 0xE0044
/-- R387, RO, reset 0x0. -/
@[simp] abbrev LOG_CNT_LO (i : Nat) : Nat := 0xE0200 + 0x8 * i
/-- R387, RO, reset 0x0. -/
@[simp] abbrev LOG_CNT_HI (i : Nat) : Nat := 0xE0204 + 0x8 * i
-- block PLT
/-- R411, RW, reset 0x0. -/
@[simp] abbrev PLT_CTRL : Nat := 0xF0000
/-- R411, RO, reset 0x0. -/
@[simp] abbrev PLT_STATUS : Nat := 0xF0004
/-- R411, WO, reset 0x0. -/
@[simp] abbrev PLT_ROT_CTRL : Nat := 0xF0008
/-- R411, RO, reset 0x0. -/
@[simp] abbrev PLT_ROT_STATUS : Nat := 0xF000C
/-- R411, RW, reset 0x7D0. -/
@[simp] abbrev PLT_ROT_DRAIN : Nat := 0xF0010
/-- R411, RW, reset 0x1388. -/
@[simp] abbrev PLT_AGE_US : Nat := 0xF0014
/-- R411, RW, reset 0x200. -/
@[simp] abbrev PLT_RL_CAP (i : Nat) : Nat := 0xF0020 + 0x4 * i
/-- R411, W1C, reset 0x0. -/
@[simp] abbrev PLT_EVT : Nat := 0xF0040
/-- R411, RW, reset 0x0. -/
@[simp] abbrev PLT_EVT_EN : Nat := 0xF0044
/-- R411, RW, reset 0x0. -/
@[simp] abbrev PLT_CNT_CTRL : Nat := 0xF0050
/-- R411, RW, reset 0x0. -/
@[simp] abbrev PLT_CNT_USER : Nat := 0xF0054
/-- R411, RW, reset 0x0. -/
@[simp] abbrev PLT_TASK_SEL : Nat := 0xF0060
/-- R411, RO, reset 0x0. -/
@[simp] abbrev PLT_TASK_RES (i : Nat) : Nat := 0xF0064 + 0x4 * i
/-- R411, RO, reset 0x0. -/
@[simp] abbrev PLT_CLASS (i : Nat) : Nat := 0xF0080 + 0x4 * i
/-- R411, RO, reset 0x0. -/
@[simp] abbrev PLT_CNT_LO (i : Nat) : Nat := 0xF0100 + 0x8 * i
/-- R411, RO, reset 0x0. -/
@[simp] abbrev PLT_CNT_HI (i : Nat) : Nat := 0xF0104 + 0x8 * i
-- block ENG
/-- R412, RO, reset 0x0. -/
@[simp] abbrev ENG_STATUS (i : Nat) : Nat := 0x100000 + 0x800 * i
/-- R412, RO, reset 0x0. -/
@[simp] abbrev ENG_FW_VER (i : Nat) : Nat := 0x100004 + 0x800 * i
/-- R412, RO, reset 0x0. -/
@[simp] abbrev ENG_FW_MEAS (i j : Nat) : Nat := 0x100008 + 0x800 * i + 0x4 * j
/-- R412, RW, reset 0x0. -/
@[simp] abbrev ENG_CNT_CTRL (i : Nat) : Nat := 0x100030 + 0x800 * i
/-- R412, RO, reset 0x0. -/
@[simp] abbrev ENG_CYCLE_LO (i : Nat) : Nat := 0x100038 + 0x800 * i
/-- R412, RO, reset 0x0. -/
@[simp] abbrev ENG_CYCLE_HI (i : Nat) : Nat := 0x10003C + 0x800 * i
/-- R412, RW, reset 0x0. -/
@[simp] abbrev ENG_CNT_SEL (i j : Nat) : Nat := 0x100040 + 0x800 * i + 0x10 * j
/-- R412, RW, reset 0x0. -/
@[simp] abbrev ENG_CNT_LO (i j : Nat) : Nat := 0x100044 + 0x800 * i + 0x10 * j
/-- R412, RW, reset 0x0. -/
@[simp] abbrev ENG_CNT_HI (i j : Nat) : Nat := 0x100048 + 0x800 * i + 0x10 * j
/-- R412, RSV, reset 0x0. -/
@[simp] abbrev ENG_CNT_RSV (i j : Nat) : Nat := 0x10004C + 0x800 * i + 0x10 * j
/-- R412, RSV, reset 0x0. -/
@[simp] abbrev ENG_CNT_RSV7 (i : Nat) : Nat := 0x1000BC + 0x800 * i
/-- R412, W1C, reset 0x0. -/
@[simp] abbrev ENG_CNT_OVF (i : Nat) : Nat := 0x1000C0 + 0x800 * i
/-- R412, RO, reset 0x0. -/
@[simp] abbrev ENG_CNT_GEN (i : Nat) : Nat := 0x1000C4 + 0x800 * i
/-- R412, RW, reset 0x0. -/
@[simp] abbrev ENG_SMP_BASE_LO (i : Nat) : Nat := 0x1000D0 + 0x800 * i
/-- R412, RW, reset 0x0. -/
@[simp] abbrev ENG_SMP_BASE_HI (i : Nat) : Nat := 0x1000D4 + 0x800 * i
/-- R412, RW, reset 0xA. -/
@[simp] abbrev ENG_SMP_SIZE (i : Nat) : Nat := 0x1000D8 + 0x800 * i
/-- R412, RO, reset 0x0. -/
@[simp] abbrev ENG_SMP_WR (i : Nat) : Nat := 0x1000DC + 0x800 * i
/-- R412, RO, reset 0x0. -/
@[simp] abbrev ENG_CTR_LO (i j : Nat) : Nat := 0x100100 + 0x800 * i + 0x8 * j
/-- R412, RO, reset 0x0. -/
@[simp] abbrev ENG_CTR_HI (i j : Nat) : Nat := 0x100104 + 0x800 * i + 0x8 * j
-- block TWN
/-- R477, WO, reset 0x0. -/
@[simp] abbrev TWN_CTRL : Nat := 0x110000
/-- R477, RO, reset 0x8. -/
@[simp] abbrev TWN_STATUS : Nat := 0x110004
/-- R477, RW, reset 0x0. -/
@[simp] abbrev TWN_CFG : Nat := 0x110008
/-- R477, RW, reset 0x3C003C. -/
@[simp] abbrev TWN_TIMING : Nat := 0x11000C
/-- R477, RW, reset 0x3E8. -/
@[simp] abbrev TWN_DT_LIMIT : Nat := 0x110010
/-- R477, RW, reset 0xC8. -/
@[simp] abbrev TWN_MTR_TOL : Nat := 0x110014
/-- R477, RO, reset 0x0. -/
@[simp] abbrev TWN_HEALTH : Nat := 0x110018
/-- R477, RO, reset 0x0. -/
@[simp] abbrev TWN_PEER_HEALTH : Nat := 0x11001C
/-- R477, RO, reset 0x0. -/
@[simp] abbrev TWN_DT_DIFF : Nat := 0x110020
/-- R477, RO, reset 0x0. -/
@[simp] abbrev TWN_EPOCH : Nat := 0x110024
/-- R477, RO, reset 0x0. -/
@[simp] abbrev TWN_HO_STATUS : Nat := 0x110028
/-- R477, RO, reset 0x0. -/
@[simp] abbrev TWN_HO_AT_SUBNS : Nat := 0x110030
/-- R477, RO, reset 0x0. -/
@[simp] abbrev TWN_HO_AT_NS : Nat := 0x110034
/-- R477, RO, reset 0x0. -/
@[simp] abbrev TWN_HO_AT_SEC_LO : Nat := 0x110038
/-- R477, RO, reset 0x0. -/
@[simp] abbrev TWN_HO_AT_SEC_HI : Nat := 0x11003C
/-- R477, W1C, reset 0x0. -/
@[simp] abbrev TWN_EVT : Nat := 0x110040
/-- R477, RW, reset 0x0. -/
@[simp] abbrev TWN_EVT_EN : Nat := 0x110044
/-- R477, RO, reset 0x0. -/
@[simp] abbrev TWN_PEER_TIME : Nat := 0x110050
/-- R477, RO, reset 0x0. -/
@[simp] abbrev TWN_CNT_LO (i : Nat) : Nat := 0x110200 + 0x8 * i
/-- R477, RO, reset 0x0. -/
@[simp] abbrev TWN_CNT_HI (i : Nat) : Nat := 0x110204 + 0x8 * i
-- block FLT
/-- R504, RW, reset 0x0. -/
@[simp] abbrev FLT_CTRL : Nat := 0x120000
/-- R504, RO, reset 0x0. -/
@[simp] abbrev FLT_STATUS : Nat := 0x120004
/-- R504, RW, reset 0x65. -/
@[simp] abbrev FLT_CFG : Nat := 0x120008
/-- R504, RW, reset 0x1. -/
@[simp] abbrev FLT_DEGRADE_MASK : Nat := 0x12000C
/-- R504, RW, reset 0x0. -/
@[simp] abbrev FLT_SAFE : Nat := 0x120010
/-- R504, RO, reset 0x0. -/
@[simp] abbrev FLT_FER_SRC : Nat := 0x120020
/-- R504, RO, reset 0x0. -/
@[simp] abbrev FLT_FER_ADDR_LO : Nat := 0x120024
/-- R504, RO, reset 0x0. -/
@[simp] abbrev FLT_FER_ADDR_HI : Nat := 0x120028
/-- R504, RO, reset 0x0. -/
@[simp] abbrev FLT_FER_AT_SUBNS : Nat := 0x12002C
/-- R504, RO, reset 0x0. -/
@[simp] abbrev FLT_FER_AT_NS : Nat := 0x120030
/-- R504, RO, reset 0x0. -/
@[simp] abbrev FLT_FER_AT_SEC_LO : Nat := 0x120034
/-- R504, RO, reset 0x0. -/
@[simp] abbrev FLT_FER_AT_SEC_HI : Nat := 0x120038
/-- R504, RO, reset 0x0. -/
@[simp] abbrev FLT_FER_CNT : Nat := 0x12003C
/-- R504, W1C, reset 0x0. -/
@[simp] abbrev FLT_EVT : Nat := 0x120040
/-- R504, RW, reset 0x0. -/
@[simp] abbrev FLT_EVT_EN : Nat := 0x120044
/-- R504, WO, reset 0x0. -/
@[simp] abbrev FLT_FER_REL : Nat := 0x120048
/-- R504, WO, reset 0x0. -/
@[simp] abbrev FLT_INJECT : Nat := 0x120050
/-- R504, WO, reset 0x0. -/
@[simp] abbrev FLT_RELEASE : Nat := 0x120054
/-- R504, RO, reset 0x0. -/
@[simp] abbrev FLT_RELEASE_RES : Nat := 0x120058
/-- R504, RO, reset 0x0. -/
@[simp] abbrev FLT_FENCED_ENG : Nat := 0x120060
/-- R504, RO, reset 0x0. -/
@[simp] abbrev FLT_FENCED_UNIT : Nat := 0x120064
/-- R504, RW, reset 0x0. -/
@[simp] abbrev FLT_SRC_SEL : Nat := 0x120068
/-- R504, RO, reset 0x0. -/
@[simp] abbrev FLT_SRC_STATE : Nat := 0x12006C
/-- R504, RW, reset 0x0. -/
@[simp] abbrev FLT_WIN_ADDR : Nat := 0x120070
/-- R504, RO, reset 0x0. -/
@[simp] abbrev FLT_WIN_DATA : Nat := 0x120074
/-- R504, RO, reset 0x0. -/
@[simp] abbrev FLT_CNT_LO (i : Nat) : Nat := 0x120200 + 0x8 * i
/-- R504, RO, reset 0x0. -/
@[simp] abbrev FLT_CNT_HI (i : Nat) : Nat := 0x120204 + 0x8 * i
-- block BST
/-- R505, WO, reset 0x0. -/
@[simp] abbrev BST_CTRL : Nat := 0x130000
/-- R505, RO, reset 0x0. -/
@[simp] abbrev BST_STATUS : Nat := 0x130004
/-- R505, RO, reset 0x0. -/
@[simp] abbrev BST_RES (i : Nat) : Nat := 0x130008 + 0x4 * i
/-- R505, RO, reset 0x0. -/
@[simp] abbrev BST_LAST : Nat := 0x130020
/-- R505, W1C, reset 0x0. -/
@[simp] abbrev BST_EVT : Nat := 0x130030
/-- R505, RW, reset 0x0. -/
@[simp] abbrev BST_EVT_EN : Nat := 0x130034
/-- R505, RO, reset 0x0. -/
@[simp] abbrev BST_CNT_LO (i : Nat) : Nat := 0x130200 + 0x8 * i
/-- R505, RO, reset 0x0. -/
@[simp] abbrev BST_CNT_HI (i : Nat) : Nat := 0x130204 + 0x8 * i
-- block KEY
/-- R521, WO, reset 0x0. -/
@[simp] abbrev KEY_CTRL : Nat := 0x140000
/-- R521, RO, reset 0x0. -/
@[simp] abbrev KEY_STATUS : Nat := 0x140004
/-- R521, RW, reset 0x0. -/
@[simp] abbrev KEY_CFG : Nat := 0x140008
/-- R521, RO, reset 0x0. -/
@[simp] abbrev KEY_NONCE_LO : Nat := 0x140010
/-- R521, RO, reset 0x0. -/
@[simp] abbrev KEY_NONCE_HI : Nat := 0x140014
/-- R521, RW, reset 0x0. -/
@[simp] abbrev KEY_SLOT_SEL : Nat := 0x140020
/-- R521, RO, reset 0x0. -/
@[simp] abbrev KEY_SLOT_INFO : Nat := 0x140024
/-- R521, RO, reset 0x0. -/
@[simp] abbrev KEY_SLOT_USAGE : Nat := 0x140028
/-- R521, W1C, reset 0x0. -/
@[simp] abbrev KEY_EVT : Nat := 0x140030
/-- R521, RW, reset 0x0. -/
@[simp] abbrev KEY_EVT_EN : Nat := 0x140034
/-- R521, RO, reset 0x0. -/
@[simp] abbrev KEY_CNT_LO (i : Nat) : Nat := 0x140200 + 0x8 * i
/-- R521, RO, reset 0x0. -/
@[simp] abbrev KEY_CNT_HI (i : Nat) : Nat := 0x140204 + 0x8 * i
-- block RTC
/-- R539, RW, reset 0x2. -/
@[simp] abbrev RTC_CTRL : Nat := 0x150000
/-- R539, RO, reset 0x0. -/
@[simp] abbrev RTC_STATUS : Nat := 0x150004
/-- R539, W1C, reset 0x0. -/
@[simp] abbrev RTC_FLAGS : Nat := 0x150008
/-- R539, RO, reset 0x0. -/
@[simp] abbrev RTC_FRAC : Nat := 0x150010
/-- R539, RO, reset 0x0. -/
@[simp] abbrev RTC_SEC_LO : Nat := 0x150014
/-- R539, RO, reset 0x0. -/
@[simp] abbrev RTC_SEC_HI : Nat := 0x150018
/-- R539, RW, reset 0x0. -/
@[simp] abbrev RTC_SET_FRAC : Nat := 0x150020
/-- R539, RW, reset 0x0. -/
@[simp] abbrev RTC_SET_SEC_LO : Nat := 0x150024
/-- R539, RW, reset 0x0. -/
@[simp] abbrev RTC_SET_SEC_HI : Nat := 0x150028
/-- R539, RW, reset 0x0. -/
@[simp] abbrev RTC_WAKE : Nat := 0x150030
/-- R539, RW, reset 0x0. -/
@[simp] abbrev RTC_TRIM : Nat := 0x150034
/-- R539, RO, reset 0x0. -/
@[simp] abbrev RTC_VBAT : Nat := 0x150038
/-- R539, RO, reset 0x0. -/
@[simp] abbrev RTC_SWO_AT_FRAC : Nat := 0x150040
/-- R539, RO, reset 0x0. -/
@[simp] abbrev RTC_SWO_AT_SEC_LO : Nat := 0x150044
/-- R539, RO, reset 0x0. -/
@[simp] abbrev RTC_SWO_AT_SEC_HI : Nat := 0x150048
/-- R539, RO, reset 0x0. -/
@[simp] abbrev RTC_RET_AT_FRAC : Nat := 0x150050
/-- R539, RO, reset 0x0. -/
@[simp] abbrev RTC_RET_AT_SEC_LO : Nat := 0x150054
/-- R539, RO, reset 0x0. -/
@[simp] abbrev RTC_RET_AT_SEC_HI : Nat := 0x150058
/-- R539, RO, reset 0x0. -/
@[simp] abbrev RTC_RST_CAUSE : Nat := 0x150060
/-- R539, RW, reset 0x0. -/
@[simp] abbrev RTC_RST_CFG : Nat := 0x150064
/-- R539, WO, reset 0x0. -/
@[simp] abbrev RTC_RST_CTRL : Nat := 0x150068
/-- R539, W1C, reset 0x0. -/
@[simp] abbrev RTC_EVT : Nat := 0x150070
/-- R539, RW, reset 0x0. -/
@[simp] abbrev RTC_EVT_EN : Nat := 0x150074
-- block DBG
/-- R417, RW, reset 0x0. -/
@[simp] abbrev DBG_CTRL : Nat := 0x160000
/-- R417, RO, reset 0x0. -/
@[simp] abbrev DBG_STATUS : Nat := 0x160004
/-- R417, RW, reset 0x0. -/
@[simp] abbrev DBG_AUTH_SLOT : Nat := 0x160008
/-- R417, W1C, reset 0x0. -/
@[simp] abbrev DBG_EVT : Nat := 0x160010
/-- R417, RW, reset 0x0. -/
@[simp] abbrev DBG_EVT_EN : Nat := 0x160014
/-- R417, RO, reset 0x0. -/
@[simp] abbrev DBG_CNT_LO (i : Nat) : Nat := 0x160200 + 0x8 * i
/-- R417, RO, reset 0x0. -/
@[simp] abbrev DBG_CNT_HI (i : Nat) : Nat := 0x160204 + 0x8 * i

end Reg

/-- The BAR0 blocks of R48, and `rsvd` for the unmapped rest (R49). -/
inductive Block where
  | id | hif | cfg | pwr | tb | mac | bin | aln | osc | isl | alm | outp | fe | mtr | cap | logb | plt | eng | twn | flt | bst | key | rtc | dbg
  | none
deriving DecidableEq, Repr

/-- The register table of block ID. -/
def rowsId : List RegRow := [
  ⟨"ID_PART", 0x0, 1, 0x0, 1, 0x0, .ro, 0x82400000, 0x0, 0x0, [], .plain⟩,
  ⟨"ID_CAP", 0x8, 1, 0x0, 1, 0x0, .ro, 0xFF, 0x0, 0x0, [], .plain⟩,
  ⟨"ID_CAP_COUNT", 0xC, 1, 0x0, 1, 0x0, .ro, 0x8E32000, 0x0, 0x0, [], .plain⟩,
  ⟨"ID_ENG_MASK", 0x10, 1, 0x0, 1, 0x0, .ro, 0xFFFFFFFF, 0x0, 0x0, [], .plain⟩]

/-- The register table of block HIF, part 0. -/
def rowsHif0 : List RegRow := [
  ⟨"HIF_CTRL", 0x0, 1, 0x0, 1, 0x0, .rw, 0x0, 0xF10, 0x0, [], .plain⟩,
  ⟨"HIF_STATUS", 0x4, 1, 0x0, 1, 0x0, .ro, 0x0, 0x0, 0x0, [], .plain⟩,
  ⟨"HIF_EVT", 0x10, 1, 0x0, 1, 0x0, .w1c, 0x0, 0x0, 0x1F, [], .plain⟩,
  ⟨"HIF_EVT_EN", 0x14, 1, 0x0, 1, 0x0, .rw, 0x0, 0x1F, 0x0, [], .plain⟩,
  ⟨"HIF_MSIX_MAP", 0x40, 1, 0x0, 32, 0x4, .rw, 0x0, 0xBFBFBFBF, 0x0, [], .plain⟩,
  ⟨"HIF_RP_CTRL", 0x100, 16, 0x40, 1, 0x0, .rw, 0x100, 0xFFFFFF01, 0x0, [], .plain⟩,
  ⟨"HIF_RP_STATUS", 0x104, 16, 0x40, 1, 0x0, .ro, 0x0, 0x0, 0x0, [], .plain⟩,
  ⟨"HIF_RP_SQ_BASE_LO", 0x108, 16, 0x40, 1, 0x0, .rw, 0x0, 0xFFFFFFFF, 0x0, [], .lo⟩,
  ⟨"HIF_RP_SQ_BASE_HI", 0x10C, 16, 0x40, 1, 0x0, .rw, 0x0, 0xFFFFFFFF, 0x0, [], .hi⟩,
  ⟨"HIF_RP_CQ_BASE_LO", 0x110, 16, 0x40, 1, 0x0, .rw, 0x0, 0xFFFFFFFF, 0x0, [], .lo⟩,
  ⟨"HIF_RP_CQ_BASE_HI", 0x114, 16, 0x40, 1, 0x0, .rw, 0x0, 0xFFFFFFFF, 0x0, [], .hi⟩,
  ⟨"HIF_RP_DATA_BASE_LO", 0x118, 16, 0x40, 1, 0x0, .rw, 0x0, 0xFFFFFFFF, 0x0, [], .lo⟩,
  ⟨"HIF_RP_DATA_BASE_HI", 0x11C, 16, 0x40, 1, 0x0, .rw, 0x0, 0xFFFFFFFF, 0x0, [], .hi⟩,
  ⟨"HIF_RP_SIZE", 0x120, 16, 0x40, 1, 0x0, .rw, 0x404, 0xF0F0F, 0x0, [], .plain⟩,
  ⟨"HIF_RP_TIMEOUT", 0x124, 16, 0x40, 1, 0x0, .rw, 0x3E8, 0xFFFFF, 0x0, [⟨0, 20, 0, 1000000⟩], .plain⟩,
  ⟨"HIF_RP_PTRS", 0x128, 16, 0x40, 1, 0x0, .ro, 0x0, 0x0, 0x0, [], .plain⟩,
  ⟨"HIF_RP_HOST", 0x12C, 16, 0x40, 1, 0x0, .ro, 0x0, 0x0, 0x0, [], .plain⟩,
  ⟨"HIF_CNT_LO", 0x800, 1, 0x0, 8, 0x8, .ro, 0x0, 0x0, 0x0, [], .lo⟩,
  ⟨"HIF_CNT_HI", 0x804, 1, 0x0, 8, 0x8, .ro, 0x0, 0x0, 0x0, [], .hi⟩,
  ⟨"HIF_RP_CNT_LO", 0x900, 16, 0x20, 4, 0x8, .ro, 0x0, 0x0, 0x0, [], .lo⟩,
  ⟨"HIF_RP_CNT_HI", 0x904, 16, 0x20, 4, 0x8, .ro, 0x0, 0x0, 0x0, [], .hi⟩,
  ⟨"HIF_MSIX_ADDR_LO", 0x8000, 64, 0x10, 1, 0x0, .rw, 0x0, 0xFFFFFFFC, 0x0, [], .plain⟩,
  ⟨"HIF_MSIX_ADDR_HI", 0x8004, 64, 0x10, 1, 0x0, .rw, 0x0, 0xFFFFFFFF, 0x0, [], .plain⟩,
  ⟨"HIF_MSIX_DATA", 0x8008, 64, 0x10, 1, 0x0, .rw, 0x0, 0xFFFFFFFF, 0x0, [], .plain⟩,
  ⟨"HIF_MSIX_CTRL", 0x800C, 64, 0x10, 1, 0x0, .rw, 0x1, 0x1, 0x0, [], .plain⟩]

/-- The register table of block HIF, part 1. -/
def rowsHif1 : List RegRow := [
  ⟨"HIF_MSIX_PBA", 0x9000, 1, 0x0, 2, 0x4, .ro, 0x0, 0x0, 0x0, [], .plain⟩]

/-- The register table of block HIF. -/
def rowsHif : List RegRow := rowsHif0 ++ rowsHif1

/-- The register table of block CFG. -/
def rowsCfg : List RegRow := [
  ⟨"CFG_STATUS", 0x0, 1, 0x0, 1, 0x0, .ro, 0x0, 0x0, 0x0, [], .plain⟩,
  ⟨"CFG_GEN", 0x4, 1, 0x0, 1, 0x0, .ro, 0x0, 0x0, 0x0, [], .plain⟩,
  ⟨"CFG_ACTIVE_CHECK", 0x8, 1, 0x0, 1, 0x0, .ro, 0x0, 0x0, 0x0, [], .plain⟩,
  ⟨"CFG_SHADOW_CHECK", 0xC, 1, 0x0, 1, 0x0, .ro, 0x0, 0x0, 0x0, [], .plain⟩,
  ⟨"CFG_ACTIVE_ID", 0x10, 1, 0x0, 1, 0x0, .ro, 0x0, 0x0, 0x0, [], .plain⟩,
  ⟨"CFG_IMAGE_ID", 0x14, 1, 0x0, 1, 0x0, .ro, 0x0, 0x0, 0x0, [], .plain⟩,
  ⟨"CFG_PEND_SEC_LO", 0x18, 1, 0x0, 1, 0x0, .ro, 0x0, 0x0, 0x0, [], .lo⟩,
  ⟨"CFG_PEND_SEC_HI", 0x1C, 1, 0x0, 1, 0x0, .ro, 0x0, 0x0, 0x0, [], .hi⟩,
  ⟨"CFG_PEND_K", 0x20, 1, 0x0, 1, 0x0, .ro, 0x0, 0x0, 0x0, [], .plain⟩,
  ⟨"CFG_LAST_REFUSE", 0x24, 1, 0x0, 1, 0x0, .ro, 0x0, 0x0, 0x0, [], .plain⟩,
  ⟨"CFG_LAST_ENTRY", 0x28, 1, 0x0, 1, 0x0, .ro, 0x0, 0x0, 0x0, [], .plain⟩,
  ⟨"CFG_EVT", 0x30, 1, 0x0, 1, 0x0, .w1c, 0x0, 0x0, 0x3F, [], .plain⟩,
  ⟨"CFG_EVT_EN", 0x34, 1, 0x0, 1, 0x0, .rw, 0x0, 0x3F, 0x0, [], .plain⟩,
  ⟨"CFG_SWIN_SEL", 0x40, 1, 0x0, 1, 0x0, .rw, 0x0, 0xFFFFF, 0x0, [], .plain⟩,
  ⟨"CFG_SWIN_ADDR", 0x44, 1, 0x0, 1, 0x0, .rw, 0x0, 0xFFFFFF, 0x0, [], .plain⟩,
  ⟨"CFG_SWIN_DATA", 0x48, 1, 0x0, 1, 0x0, .rw, 0x0, 0x0, 0x0, [], .win⟩,
  ⟨"CFG_DRAM_SIZE", 0x100, 1, 0x0, 1, 0x0, .ro, 0x0, 0x0, 0x0, [], .plain⟩,
  ⟨"CFG_RSV_BASE_LO", 0x104, 1, 0x0, 1, 0x0, .ro, 0x0, 0x0, 0x0, [], .lo⟩,
  ⟨"CFG_RSV_BASE_HI", 0x108, 1, 0x0, 1, 0x0, .ro, 0x0, 0x0, 0x0, [], .hi⟩,
  ⟨"CFG_DDR_STATUS", 0x110, 1, 0x0, 1, 0x0, .ro, 0x0, 0x0, 0x0, [], .plain⟩,
  ⟨"CFG_ECC_CTRL", 0x114, 1, 0x0, 1, 0x0, .rw, 0x1, 0x1, 0x0, [], .plain⟩,
  ⟨"CFG_ECC_ADDR_LO", 0x118, 1, 0x0, 1, 0x0, .ro, 0x0, 0x0, 0x0, [], .lo⟩,
  ⟨"CFG_ECC_ADDR_HI", 0x11C, 1, 0x0, 1, 0x0, .ro, 0x0, 0x0, 0x0, [], .hi⟩,
  ⟨"CFG_ECC_CE", 0x120, 1, 0x0, 1, 0x0, .rc, 0x0, 0x0, 0x0, [], .plain⟩,
  ⟨"CFG_ECC_UE", 0x124, 1, 0x0, 1, 0x0, .rc, 0x0, 0x0, 0x0, [], .plain⟩]

/-- The register table of block PWR. -/
def rowsPwr : List RegRow := [
  ⟨"PWR_LTR", 0x0, 1, 0x0, 1, 0x0, .rw, 0x0, 0xFFFFF, 0x0, [⟨0, 20, 0, 1000000⟩], .plain⟩,
  ⟨"PWR_STATUS", 0x4, 1, 0x0, 1, 0x0, .ro, 0x0, 0x0, 0x0, [], .plain⟩,
  ⟨"PWR_WAKE_EN", 0x8, 1, 0x0, 1, 0x0, .rw, 0x0, 0xF, 0x0, [], .plain⟩,
  ⟨"PWR_WAKE_SRC", 0xC, 1, 0x0, 1, 0x0, .ro, 0x0, 0x0, 0x0, [], .plain⟩,
  ⟨"PWR_EVT", 0x10, 1, 0x0, 1, 0x0, .w1c, 0x0, 0x0, 0x7, [], .plain⟩,
  ⟨"PWR_EVT_EN", 0x14, 1, 0x0, 1, 0x0, .rw, 0x0, 0x7, 0x0, [], .plain⟩,
  ⟨"PWR_RESID_LO", 0x100, 1, 0x0, 5, 0x8, .ro, 0x0, 0x0, 0x0, [], .lo⟩,
  ⟨"PWR_RESID_HI", 0x104, 1, 0x0, 5, 0x8, .ro, 0x0, 0x0, 0x0, [], .hi⟩]

/-- The register table of block TB, part 0. -/
def rowsTb0 : List RegRow := [
  ⟨"TB_CTRL", 0x0, 1, 0x0, 1, 0x0, .rw, 0x1, 0xF, 0x0, [], .plain⟩,
  ⟨"TB_STATUS", 0x4, 1, 0x0, 1, 0x0, .ro, 0xC060, 0x0, 0x0, [], .plain⟩,
  ⟨"TB_SEL", 0x8, 1, 0x0, 1, 0x0, .rw, 0x3C00066, 0xFFF00077, 0x0, [], .plain⟩,
  ⟨"TB_STEP_THRESH", 0xC, 1, 0x0, 1, 0x0, .rw, 0xF4240, 0xFFFFFFFF, 0x0, [⟨0, 32, 1000, 1000000000⟩], .plain⟩,
  ⟨"TB_SLEW", 0x10, 1, 0x0, 1, 0x0, .rw, 0x64, 0x1FF, 0x0, [⟨0, 9, 1, 500⟩], .plain⟩,
  ⟨"TB_HOLD_RATE", 0x14, 1, 0x0, 1, 0x0, .rw, 0xA, 0xFFFF, 0x0, [⟨0, 16, 1, 10000⟩], .plain⟩,
  ⟨"TB_HOLD_LIMIT", 0x18, 1, 0x0, 1, 0x0, .rw, 0x2710, 0xFFFFFFFF, 0x0, [⟨0, 32, 100, 1000000000⟩], .plain⟩,
  ⟨"TB_XCHK_LIMIT", 0x1C, 1, 0x0, 1, 0x0, .rw, 0x3E8, 0xFFFFFFFF, 0x0, [⟨0, 32, 10, 1000000⟩], .plain⟩,
  ⟨"TB_NOW_SUBNS", 0x20, 1, 0x0, 1, 0x0, .ro, 0x0, 0x0, 0x0, [], .ts⟩,
  ⟨"TB_NOW_NS", 0x24, 1, 0x0, 1, 0x0, .ro, 0x0, 0x0, 0x0, [], .tail⟩,
  ⟨"TB_NOW_SEC_LO", 0x28, 1, 0x0, 1, 0x0, .ro, 0x0, 0x0, 0x0, [], .tail⟩,
  ⟨"TB_NOW_SEC_HI", 0x2C, 1, 0x0, 1, 0x0, .ro, 0x0, 0x0, 0x0, [], .tail⟩,
  ⟨"TB_UNC", 0x30, 1, 0x0, 1, 0x0, .ro, 0xFFFFFFFF, 0x0, 0x0, [], .plain⟩,
  ⟨"TB_TQ", 0x34, 1, 0x0, 1, 0x0, .ro, 0x7F, 0x0, 0x0, [], .plain⟩,
  ⟨"TB_QRATE", 0x38, 1, 0x0, 1, 0x0, .ro, 0x0, 0x0, 0x0, [], .plain⟩,
  ⟨"TB_STEP_COUNT", 0x3C, 1, 0x0, 1, 0x0, .rc, 0x0, 0x0, 0x0, [], .plain⟩,
  ⟨"TB_SWITCH_COUNT", 0x40, 1, 0x0, 1, 0x0, .rc, 0x0, 0x0, 0x0, [], .plain⟩,
  ⟨"TB_SET_SUBNS", 0x50, 1, 0x0, 1, 0x0, .rw, 0x0, 0xFFFF, 0x0, [], .plain⟩,
  ⟨"TB_SET_NS", 0x54, 1, 0x0, 1, 0x0, .rw, 0x0, 0xFFFFFFFF, 0x0, [], .plain⟩,
  ⟨"TB_SET_SEC_LO", 0x58, 1, 0x0, 1, 0x0, .rw, 0x0, 0xFFFFFFFF, 0x0, [], .lo⟩,
  ⟨"TB_SET_SEC_HI", 0x5C, 1, 0x0, 1, 0x0, .rw, 0x0, 0xFFFF, 0x0, [], .hi⟩,
  ⟨"TB_EVT", 0x60, 1, 0x0, 1, 0x0, .w1c, 0x0, 0x0, 0x3FF, [], .plain⟩,
  ⟨"TB_EVT_EN", 0x64, 1, 0x0, 1, 0x0, .rw, 0x0, 0x3FF, 0x0, [], .plain⟩,
  ⟨"TB_SRC_CFG", 0x100, 6, 0x40, 1, 0x0, .rw, 0x0, 0xFFFFFFFF, 0x0, [], .plain⟩,
  ⟨"TB_SRC_STATE", 0x104, 6, 0x40, 1, 0x0, .ro, 0x0, 0x0, 0x0, [], .plain⟩]

/-- The register table of block TB, part 1. -/
def rowsTb1 : List RegRow := [
  ⟨"TB_SRC_OFFSET_LO", 0x108, 6, 0x40, 1, 0x0, .ro, 0x0, 0x0, 0x0, [], .lo⟩,
  ⟨"TB_SRC_OFFSET_HI", 0x10C, 6, 0x40, 1, 0x0, .ro, 0x0, 0x0, 0x0, [], .hi⟩,
  ⟨"TB_SRC_INACC", 0x110, 6, 0x40, 1, 0x0, .rw, 0x0, 0xFFFFFFFF, 0x0, [], .plain⟩,
  ⟨"TB_SRC_RESID", 0x114, 6, 0x40, 1, 0x0, .ro, 0x0, 0x0, 0x0, [], .plain⟩,
  ⟨"TB_SRC_LOCK", 0x118, 6, 0x40, 1, 0x0, .rw, 0x641000, 0xFFFFFF00, 0x0, [], .plain⟩,
  ⟨"TB_SRC_AUTH", 0x11C, 6, 0x40, 1, 0x0, .rw, 0x0, 0x3F, 0x0, [], .plain⟩,
  ⟨"TB_SRC_DELAY", 0x120, 6, 0x40, 1, 0x0, .rw, 0x0, 0xFFFFFFFF, 0x0, [], .plain⟩,
  ⟨"TB_SRC_DROP", 0x124, 6, 0x40, 1, 0x0, .rc, 0x0, 0x0, 0x0, [], .plain⟩,
  ⟨"TB_SRC_AUX", 0x128, 4, 0x40, 1, 0x0, .rsv, 0x0, 0x0, 0x0, [], .plain⟩,
  ⟨"TB_SRC_AUX_4", 0x228, 1, 0x0, 1, 0x0, .rw, 0xA0000, 0xFFFF0001, 0x0, [], .plain⟩,
  ⟨"TB_SRC_AUX_5", 0x268, 1, 0x0, 1, 0x0, .rw, 0x0, 0x1F, 0x0, [], .plain⟩,
  ⟨"TB_SRC_IP", 0x12C, 4, 0x40, 1, 0x0, .rw, 0x0, 0xFFFFFFFF, 0x0, [], .plain⟩,
  ⟨"TB_SRC_IP_RSV", 0x22C, 2, 0x40, 1, 0x0, .rsv, 0x0, 0x0, 0x0, [], .plain⟩,
  ⟨"TB_SRC_IPCFG", 0x130, 4, 0x40, 1, 0x0, .rw, 0x0, 0x13F, 0x0, [], .plain⟩,
  ⟨"TB_SRC_IPCFG_RSV", 0x230, 2, 0x40, 1, 0x0, .rsv, 0x0, 0x0, 0x0, [], .plain⟩,
  ⟨"TB_ING", 0x300, 6, 0x8, 1, 0x0, .rw, 0x0, 0xFFFFFFFF, 0x0, [], .plain⟩,
  ⟨"TB_EGR", 0x304, 6, 0x8, 1, 0x0, .rw, 0x0, 0xFFFFFFFF, 0x0, [], .plain⟩,
  ⟨"TB_LEAP_CTRL", 0x400, 1, 0x0, 1, 0x0, .rw, 0x1, 0x3F, 0x0, [], .plain⟩,
  ⟨"TB_LEAP_VALID_LO", 0x404, 1, 0x0, 1, 0x0, .rw, 0x0, 0xFFFFFFFF, 0x0, [], .lo⟩,
  ⟨"TB_LEAP_VALID_HI", 0x408, 1, 0x0, 1, 0x0, .rw, 0x0, 0xFFFF, 0x0, [], .hi⟩,
  ⟨"TB_LEAP_0_LO", 0x500, 1, 0x0, 1, 0x0, .rw, 0x0, 0xFFFFFFFF, 0x0, [], .lo⟩,
  ⟨"TB_LEAP_0_HI", 0x504, 1, 0x0, 1, 0x0, .rw, 0x250000, 0xFFFFFFFF, 0x0, [], .hi⟩,
  ⟨"TB_LEAP_LO", 0x508, 31, 0x8, 1, 0x0, .rw, 0x0, 0xFFFFFFFF, 0x0, [], .lo⟩,
  ⟨"TB_LEAP_HI", 0x50C, 31, 0x8, 1, 0x0, .rw, 0x0, 0xFFFFFFFF, 0x0, [], .hi⟩]

/-- The register table of block TB. -/
def rowsTb : List RegRow := rowsTb0 ++ rowsTb1

/-- The register table of block MAC. -/
def rowsMac : List RegRow := [
  ⟨"MAC_CTRL", 0x0, 4, 0x1000, 1, 0x0, .rw, 0x10, 0x3B, 0x0, [], .plain⟩,
  ⟨"MAC_CTRL_G", 0x4000, 2, 0x1000, 1, 0x0, .rw, 0x10, 0xFB, 0x0, [], .plain⟩,
  ⟨"MAC_STATUS", 0x4, 6, 0x1000, 1, 0x0, .ro, 0x0, 0x0, 0x0, [], .plain⟩,
  ⟨"MAC_MAXLEN", 0x8, 6, 0x1000, 1, 0x0, .rw, 0x2400, 0x13FFF, 0x0, [⟨0, 14, 1522, 9216⟩], .plain⟩,
  ⟨"MAC_VLAN", 0xC, 6, 0x1000, 1, 0x0, .rw, 0x1, 0x3F, 0x0, [], .plain⟩,
  ⟨"MAC_VID01", 0x10, 6, 0x1000, 1, 0x0, .rw, 0x0, 0xFFF0FFF, 0x0, [], .plain⟩,
  ⟨"MAC_VID23", 0x14, 6, 0x1000, 1, 0x0, .rw, 0x0, 0xFFF0FFF, 0x0, [], .plain⟩,
  ⟨"MAC_PAUSE", 0x18, 6, 0x1000, 1, 0x0, .rw, 0x3, 0x3, 0x0, [], .plain⟩,
  ⟨"MAC_PRP", 0x20, 2, 0x2000, 1, 0x0, .rw, 0x1900000, 0x3FF0001, 0x0, [⟨16, 10, 10, 1000⟩], .plain⟩,
  ⟨"MAC_PRP_RSV", 0x1020, 2, 0x2000, 1, 0x0, .rsv, 0x0, 0x0, 0x0, [], .plain⟩,
  ⟨"MAC_PRP_RSV_G", 0x4020, 2, 0x1000, 1, 0x0, .rsv, 0x0, 0x0, 0x0, [], .plain⟩,
  ⟨"MAC_TXQ", 0x24, 6, 0x1000, 1, 0x0, .rw, 0x40400410, 0xFFFFFFFF, 0x0, [⟨0, 8, 16, 64⟩, ⟨8, 8, 1, 16⟩, ⟨16, 8, 4, 112⟩, ⟨24, 8, 4, 112⟩], .plain⟩,
  ⟨"MAC_EVT", 0x28, 6, 0x1000, 1, 0x0, .w1c, 0x0, 0x0, 0x1F, [], .plain⟩,
  ⟨"MAC_EVT_EN", 0x2C, 6, 0x1000, 1, 0x0, .rw, 0x0, 0x1F, 0x0, [], .plain⟩,
  ⟨"MAC_DA_LO", 0x40, 6, 0x1000, 8, 0x8, .rw, 0x0, 0xFFFFFFFF, 0x0, [], .lo⟩,
  ⟨"MAC_DA_HI", 0x44, 6, 0x1000, 8, 0x8, .rw, 0x0, 0x8000FFFF, 0x0, [], .hi⟩,
  ⟨"MAC_CNT_LO", 0x100, 6, 0x1000, 24, 0x8, .ro, 0x0, 0x0, 0x0, [], .lo⟩,
  ⟨"MAC_CNT_HI", 0x104, 6, 0x1000, 24, 0x8, .ro, 0x0, 0x0, 0x0, [], .hi⟩]

/-- The register table of block BIN. -/
def rowsBin : List RegRow := [
  ⟨"BIN_CTRL", 0x0, 1, 0x0, 1, 0x0, .rw, 0x0, 0x3D, 0x0, [], .plain⟩,
  ⟨"BIN_STATUS", 0x4, 1, 0x0, 1, 0x0, .ro, 0x0, 0x0, 0x0, [], .plain⟩,
  ⟨"BIN_QPOL", 0x8, 1, 0x0, 1, 0x0, .rw, 0x435, 0x77F, 0x0, [], .plain⟩,
  ⟨"BIN_SNAP_TOL", 0xC, 1, 0x0, 1, 0x0, .rw, 0xA, 0x3FF, 0x0, [⟨0, 10, 1, 1000⟩], .plain⟩,
  ⟨"BIN_FUTURE_TOL", 0x10, 1, 0x0, 1, 0x0, .rw, 0x7D0, 0xFFFFF, 0x0, [⟨0, 20, 0, 1000000⟩], .plain⟩,
  ⟨"BIN_DIR_CTRL", 0x20, 1, 0x0, 1, 0x0, .ro, 0x0, 0x0, 0x0, [], .plain⟩,
  ⟨"BIN_DIR_ERR_IDX", 0x24, 1, 0x0, 1, 0x0, .ro, 0x0, 0x0, 0x0, [], .plain⟩,
  ⟨"BIN_DIR_EFF_SEC_LO", 0x28, 1, 0x0, 1, 0x0, .ro, 0x0, 0x0, 0x0, [], .lo⟩,
  ⟨"BIN_DIR_EFF_SEC_HI", 0x2C, 1, 0x0, 1, 0x0, .ro, 0x0, 0x0, 0x0, [], .hi⟩,
  ⟨"BIN_DIR_EFF_K", 0x30, 1, 0x0, 1, 0x0, .ro, 0x0, 0x0, 0x0, [], .plain⟩,
  ⟨"BIN_DIR_GEN", 0x34, 1, 0x0, 1, 0x0, .ro, 0x0, 0x0, 0x0, [], .plain⟩,
  ⟨"BIN_WIN_ADDR", 0x40, 1, 0x0, 1, 0x0, .rw, 0x0, 0x33FFFFF, 0x0, [], .plain⟩,
  ⟨"BIN_WIN_DATA", 0x44, 1, 0x0, 1, 0x0, .rw, 0x0, 0x0, 0x0, [], .win⟩,
  ⟨"BIN_EVT", 0x50, 1, 0x0, 1, 0x0, .w1c, 0x0, 0x0, 0x7F, [], .plain⟩,
  ⟨"BIN_EVT_EN", 0x54, 1, 0x0, 1, 0x0, .rw, 0x0, 0x7F, 0x0, [], .plain⟩,
  ⟨"BIN_CFGCHG_FIFO", 0x58, 1, 0x0, 1, 0x0, .ro, 0x0, 0x0, 0x0, [], .plain⟩,
  ⟨"BIN_UNK_IP", 0x60, 1, 0x0, 1, 0x0, .ro, 0x0, 0x0, 0x0, [], .plain⟩,
  ⟨"BIN_UNK_KEY", 0x64, 1, 0x0, 1, 0x0, .ro, 0x0, 0x0, 0x0, [], .plain⟩,
  ⟨"BIN_LSN_ADDR", 0x100, 16, 0x8, 1, 0x0, .rw, 0x0, 0xFFFFFFFF, 0x0, [], .plain⟩,
  ⟨"BIN_LSN_CFG", 0x104, 16, 0x8, 1, 0x0, .rw, 0x0, 0x803FFFFF, 0x0, [], .plain⟩,
  ⟨"BIN_CNT_LO", 0x200, 1, 0x0, 17, 0x8, .ro, 0x0, 0x0, 0x0, [], .lo⟩,
  ⟨"BIN_CNT_HI", 0x204, 1, 0x0, 17, 0x8, .ro, 0x0, 0x0, 0x0, [], .hi⟩]

/-- The register table of block ALN. -/
def rowsAln : List RegRow := [
  ⟨"ALN_CTRL", 0x0, 1, 0x0, 1, 0x0, .rw, 0x0, 0x1, 0x0, [], .plain⟩,
  ⟨"ALN_STATUS", 0x4, 1, 0x0, 1, 0x0, .ro, 0x0, 0x0, 0x0, [], .plain⟩,
  ⟨"ALN_RING_BASE_LO", 0x8, 1, 0x0, 1, 0x0, .rw, 0x0, 0xFFE00000, 0x0, [], .lo⟩,
  ⟨"ALN_RING_BASE_HI", 0xC, 1, 0x0, 1, 0x0, .rw, 0x0, 0xFFFFFFFF, 0x0, [], .hi⟩,
  ⟨"ALN_WINDOW", 0x10, 1, 0x0, 1, 0x0, .ro, 0x0, 0x0, 0x0, [], .plain⟩,
  ⟨"ALN_NEWEST_SEQ_LO", 0x20, 1, 0x0, 1, 0x0, .ro, 0x0, 0x0, 0x0, [], .lo⟩,
  ⟨"ALN_NEWEST_SEQ_HI", 0x24, 1, 0x0, 1, 0x0, .ro, 0x0, 0x0, 0x0, [], .hi⟩,
  ⟨"ALN_SEALED_SEQ_LO", 0x28, 1, 0x0, 1, 0x0, .ro, 0x0, 0x0, 0x0, [], .lo⟩,
  ⟨"ALN_SEALED_SEQ_HI", 0x2C, 1, 0x0, 1, 0x0, .ro, 0x0, 0x0, 0x0, [], .hi⟩,
  ⟨"ALN_PROBE_SEQ_LO", 0x30, 1, 0x0, 1, 0x0, .rw, 0x0, 0xFFFFFFFF, 0x0, [], .lo⟩,
  ⟨"ALN_PROBE_SEQ_HI", 0x34, 1, 0x0, 1, 0x0, .rw, 0x0, 0xFFFFFFFF, 0x0, [], .hi⟩,
  ⟨"ALN_PROBE_RES", 0x38, 1, 0x0, 1, 0x0, .ro, 0x0, 0x0, 0x0, [], .plain⟩,
  ⟨"ALN_EVT", 0x40, 1, 0x0, 1, 0x0, .w1c, 0x0, 0x0, 0x3FF, [], .plain⟩,
  ⟨"ALN_EVT_EN", 0x44, 1, 0x0, 1, 0x0, .rw, 0x0, 0x3FF, 0x0, [], .plain⟩,
  ⟨"ALN_WIN_ADDR", 0x50, 1, 0x0, 1, 0x0, .rw, 0x0, 0x1FFFF, 0x0, [], .plain⟩,
  ⟨"ALN_WIN_DATA", 0x54, 1, 0x0, 1, 0x0, .ro, 0x0, 0x0, 0x0, [], .win⟩,
  ⟨"ALN_QD_CFG", 0x100, 4, 0x20, 1, 0x0, .ro, 0x0, 0x0, 0x0, [], .plain⟩,
  ⟨"ALN_QD_COVTOL", 0x104, 4, 0x20, 1, 0x0, .ro, 0x0, 0x0, 0x0, [], .plain⟩,
  ⟨"ALN_QD_MAGTOL", 0x108, 4, 0x20, 1, 0x0, .ro, 0x0, 0x0, 0x0, [], .plain⟩,
  ⟨"ALN_QD_ANGTOL", 0x10C, 4, 0x20, 1, 0x0, .ro, 0x0, 0x0, 0x0, [], .plain⟩,
  ⟨"ALN_QD_FTOL", 0x110, 4, 0x20, 1, 0x0, .ro, 0x0, 0x0, 0x0, [], .plain⟩,
  ⟨"ALN_QD_RFTOL", 0x114, 4, 0x20, 1, 0x0, .ro, 0x0, 0x0, 0x0, [], .plain⟩,
  ⟨"ALN_CNT_LO", 0x200, 1, 0x0, 26, 0x8, .ro, 0x0, 0x0, 0x0, [], .lo⟩,
  ⟨"ALN_CNT_HI", 0x204, 1, 0x0, 26, 0x8, .ro, 0x0, 0x0, 0x0, [], .hi⟩]

/-- The register table of block OSC. -/
def rowsOsc : List RegRow := [
  ⟨"OSC_CTRL", 0x0, 1, 0x0, 1, 0x0, .rw, 0x0, 0x7F9, 0x0, [], .plain⟩,
  ⟨"OSC_STATUS", 0x4, 1, 0x0, 1, 0x0, .ro, 0x0, 0x0, 0x0, [], .plain⟩,
  ⟨"OSC_LOAD", 0x8, 1, 0x0, 1, 0x0, .ro, 0x0, 0x0, 0x0, [], .plain⟩,
  ⟨"OSC_LOAD_CAP", 0xC, 1, 0x0, 1, 0x0, .ro, 0x4200000, 0x0, 0x0, [], .plain⟩,
  ⟨"OSC_RING_BASE_LO", 0x10, 1, 0x0, 1, 0x0, .rw, 0x0, 0xFFE00000, 0x0, [], .lo⟩,
  ⟨"OSC_RING_BASE_HI", 0x14, 1, 0x0, 1, 0x0, .rw, 0x0, 0xFFFFFFFF, 0x0, [], .hi⟩,
  ⟨"OSC_RING_SIZE", 0x18, 1, 0x0, 1, 0x0, .rw, 0x10, 0x1F, 0x0, [⟨0, 5, 16, 24⟩], .plain⟩,
  ⟨"OSC_RING_WR_LO", 0x20, 1, 0x0, 1, 0x0, .ro, 0x0, 0x0, 0x0, [], .lo⟩,
  ⟨"OSC_RING_WR_HI", 0x24, 1, 0x0, 1, 0x0, .ro, 0x0, 0x0, 0x0, [], .hi⟩,
  ⟨"OSC_EVT", 0x30, 1, 0x0, 1, 0x0, .w1c, 0x0, 0x0, 0xFF, [], .plain⟩,
  ⟨"OSC_EVT_EN", 0x34, 1, 0x0, 1, 0x0, .rw, 0x0, 0xFF, 0x0, [], .plain⟩,
  ⟨"OSC_GROUP_SEL", 0x40, 1, 0x0, 1, 0x0, .rw, 0x0, 0xFF, 0x0, [], .plain⟩,
  ⟨"OSC_GROUP_STATE", 0x44, 1, 0x0, 1, 0x0, .ro, 0x0, 0x0, 0x0, [], .plain⟩,
  ⟨"OSC_GROUP_BASE_LO", 0x48, 1, 0x0, 1, 0x0, .ro, 0x0, 0x0, 0x0, [], .lo⟩,
  ⟨"OSC_GROUP_BASE_HI", 0x4C, 1, 0x0, 1, 0x0, .ro, 0x0, 0x0, 0x0, [], .hi⟩,
  ⟨"OSC_WIN_ADDR", 0x50, 1, 0x0, 1, 0x0, .rw, 0x0, 0x303FFFF, 0x0, [], .plain⟩,
  ⟨"OSC_WIN_DATA", 0x54, 1, 0x0, 1, 0x0, .ro, 0x0, 0x0, 0x0, [], .win⟩,
  ⟨"OSC_CNT_LO", 0x200, 1, 0x0, 12, 0x8, .ro, 0x0, 0x0, 0x0, [], .lo⟩,
  ⟨"OSC_CNT_HI", 0x204, 1, 0x0, 12, 0x8, .ro, 0x0, 0x0, 0x0, [], .hi⟩]

/-- The register table of block ISL. -/
def rowsIsl : List RegRow := [
  ⟨"ISL_CTRL", 0x0, 1, 0x0, 1, 0x0, .rw, 0x0, 0x1F9, 0x0, [], .plain⟩,
  ⟨"ISL_STATUS", 0x4, 1, 0x0, 1, 0x0, .ro, 0x0, 0x0, 0x0, [], .plain⟩,
  ⟨"ISL_RING_BASE_LO", 0x8, 1, 0x0, 1, 0x0, .rw, 0x0, 0xFFE00000, 0x0, [], .lo⟩,
  ⟨"ISL_RING_BASE_HI", 0xC, 1, 0x0, 1, 0x0, .rw, 0x0, 0xFFFFFFFF, 0x0, [], .hi⟩,
  ⟨"ISL_RING_SIZE", 0x10, 1, 0x0, 1, 0x0, .rw, 0x10, 0x1F, 0x0, [⟨0, 5, 16, 24⟩], .plain⟩,
  ⟨"ISL_RING_WR_LO", 0x18, 1, 0x0, 1, 0x0, .ro, 0x0, 0x0, 0x0, [], .lo⟩,
  ⟨"ISL_RING_WR_HI", 0x1C, 1, 0x0, 1, 0x0, .ro, 0x0, 0x0, 0x0, [], .hi⟩,
  ⟨"ISL_MEMB_BASE_LO", 0x20, 1, 0x0, 1, 0x0, .rw, 0x0, 0xFFE00000, 0x0, [], .lo⟩,
  ⟨"ISL_MEMB_BASE_HI", 0x24, 1, 0x0, 1, 0x0, .rw, 0x0, 0xFFFFFFFF, 0x0, [], .hi⟩,
  ⟨"ISL_MEMB_SIZE", 0x28, 1, 0x0, 1, 0x0, .rw, 0x14, 0x1F, 0x0, [⟨0, 5, 20, 30⟩], .plain⟩,
  ⟨"ISL_MEMB_WR_LO", 0x30, 1, 0x0, 1, 0x0, .ro, 0x0, 0x0, 0x0, [], .lo⟩,
  ⟨"ISL_MEMB_WR_HI", 0x34, 1, 0x0, 1, 0x0, .ro, 0x0, 0x0, 0x0, [], .hi⟩,
  ⟨"ISL_BASE_SEQ_LO", 0x38, 1, 0x0, 1, 0x0, .ro, 0x0, 0x0, 0x0, [], .lo⟩,
  ⟨"ISL_BASE_SEQ_HI", 0x3C, 1, 0x0, 1, 0x0, .ro, 0x0, 0x0, 0x0, [], .hi⟩,
  ⟨"ISL_EVT", 0x40, 1, 0x0, 1, 0x0, .w1c, 0x0, 0x0, 0x3FF, [], .plain⟩,
  ⟨"ISL_EVT_EN", 0x44, 1, 0x0, 1, 0x0, .rw, 0x0, 0x3FF, 0x0, [], .plain⟩,
  ⟨"ISL_NODE_SEL", 0x48, 1, 0x0, 1, 0x0, .rw, 0x0, 0xFFFF, 0x0, [], .plain⟩,
  ⟨"ISL_NODE_RES", 0x4C, 1, 0x0, 1, 0x0, .ro, 0x0, 0x0, 0x0, [], .plain⟩,
  ⟨"ISL_BR_SEL", 0x50, 1, 0x0, 1, 0x0, .rw, 0x0, 0x1FFFF, 0x0, [], .plain⟩,
  ⟨"ISL_BR_RES", 0x54, 1, 0x0, 1, 0x0, .ro, 0x0, 0x0, 0x0, [], .plain⟩,
  ⟨"ISL_WIN_ADDR", 0x60, 1, 0x0, 1, 0x0, .rw, 0x0, 0x37FFFFF, 0x0, [], .plain⟩,
  ⟨"ISL_WIN_DATA", 0x64, 1, 0x0, 1, 0x0, .ro, 0x0, 0x0, 0x0, [], .win⟩,
  ⟨"ISL_CNT_LO", 0x200, 1, 0x0, 14, 0x8, .ro, 0x0, 0x0, 0x0, [], .lo⟩,
  ⟨"ISL_CNT_HI", 0x204, 1, 0x0, 14, 0x8, .ro, 0x0, 0x0, 0x0, [], .hi⟩]

/-- The register table of block ALM. -/
def rowsAlm : List RegRow := [
  ⟨"ALM_CTRL", 0x0, 1, 0x0, 1, 0x0, .rw, 0x0, 0xD, 0x0, [], .plain⟩,
  ⟨"ALM_STATUS", 0x4, 1, 0x0, 1, 0x0, .ro, 0x0, 0x0, 0x0, [], .plain⟩,
  ⟨"ALM_DEVICE_ID", 0x8, 1, 0x0, 1, 0x0, .rw, 0x0, 0xFFFFFFFF, 0x0, [], .plain⟩,
  ⟨"ALM_KEEPALIVE", 0xC, 1, 0x0, 1, 0x0, .rw, 0x0, 0xFFFF, 0x0, [], .plain⟩,
  ⟨"ALM_PIN_STATE", 0x10, 1, 0x0, 1, 0x0, .ro, 0x0, 0x0, 0x0, [], .plain⟩,
  ⟨"ALM_PIN_FORCE", 0x14, 1, 0x0, 1, 0x0, .rw, 0x0, 0xFFFFFFFF, 0x0, [], .plain⟩,
  ⟨"ALM_ACK", 0x18, 1, 0x0, 1, 0x0, .wo, 0x0, 0x0, 0x0, [], .plain⟩,
  ⟨"ALM_ACK_GEN", 0x1C, 1, 0x0, 1, 0x0, .rw, 0x0, 0xFFFFFFFF, 0x0, [], .plain⟩,
  ⟨"ALM_ACK_RES", 0x20, 1, 0x0, 1, 0x0, .ro, 0x0, 0x0, 0x0, [], .plain⟩,
  ⟨"ALM_HOST", 0x24, 1, 0x0, 1, 0x0, .wo, 0x0, 0x0, 0x0, [], .plain⟩,
  ⟨"ALM_EVT", 0x30, 1, 0x0, 1, 0x0, .w1c, 0x0, 0x0, 0x1F, [], .plain⟩,
  ⟨"ALM_EVT_EN", 0x34, 1, 0x0, 1, 0x0, .rw, 0x0, 0x1F, 0x0, [], .plain⟩,
  ⟨"ALM_WIN_ADDR", 0x40, 1, 0x0, 1, 0x0, .rw, 0x0, 0x301FFFF, 0x0, [], .plain⟩,
  ⟨"ALM_WIN_DATA", 0x44, 1, 0x0, 1, 0x0, .ro, 0x0, 0x0, 0x0, [], .win⟩,
  ⟨"ALM_PIN_TS_SUBNS", 0x100, 16, 0x10, 1, 0x0, .ro, 0x0, 0x0, 0x0, [], .ts⟩,
  ⟨"ALM_PIN_TS_NS", 0x104, 16, 0x10, 1, 0x0, .ro, 0x0, 0x0, 0x0, [], .tail⟩,
  ⟨"ALM_PIN_TS_SEC_LO", 0x108, 16, 0x10, 1, 0x0, .ro, 0x0, 0x0, 0x0, [], .tail⟩,
  ⟨"ALM_PIN_TS_SEC_HI", 0x10C, 16, 0x10, 1, 0x0, .ro, 0x0, 0x0, 0x0, [], .tail⟩,
  ⟨"ALM_CNT_LO", 0x200, 1, 0x0, 9, 0x8, .ro, 0x0, 0x0, 0x0, [], .lo⟩,
  ⟨"ALM_CNT_HI", 0x204, 1, 0x0, 9, 0x8, .ro, 0x0, 0x0, 0x0, [], .hi⟩]

/-- The register table of block OUT. -/
def rowsOut : List RegRow := [
  ⟨"OUT_CTRL", 0x0, 1, 0x0, 1, 0x0, .rw, 0x0, 0x1, 0x0, [], .plain⟩,
  ⟨"OUT_STATUS", 0x4, 1, 0x0, 1, 0x0, .ro, 0x0, 0x0, 0x0, [], .plain⟩,
  ⟨"OUT_STR_CTRL", 0x100, 8, 0x10, 1, 0x0, .rw, 0x0, 0x3, 0x0, [], .plain⟩,
  ⟨"OUT_STR_STATUS", 0x104, 8, 0x10, 1, 0x0, .ro, 0x0, 0x0, 0x0, [], .plain⟩,
  ⟨"OUT_STR_LAST_LO", 0x108, 8, 0x10, 1, 0x0, .ro, 0x0, 0x0, 0x0, [], .lo⟩,
  ⟨"OUT_STR_LAST_HI", 0x10C, 8, 0x10, 1, 0x0, .ro, 0x0, 0x0, 0x0, [], .hi⟩,
  ⟨"OUT_EVT", 0x180, 1, 0x0, 1, 0x0, .w1c, 0x0, 0x0, 0x1F, [], .plain⟩,
  ⟨"OUT_EVT_EN", 0x184, 1, 0x0, 1, 0x0, .rw, 0x0, 0x1F, 0x0, [], .plain⟩,
  ⟨"OUT_WIN_ADDR", 0x190, 1, 0x0, 1, 0x0, .rw, 0x0, 0x303FFFF, 0x0, [], .plain⟩,
  ⟨"OUT_WIN_DATA", 0x194, 1, 0x0, 1, 0x0, .ro, 0x0, 0x0, 0x0, [], .win⟩,
  ⟨"OUT_CNT_LO", 0x200, 8, 0x40, 8, 0x8, .ro, 0x0, 0x0, 0x0, [], .lo⟩,
  ⟨"OUT_CNT_HI", 0x204, 8, 0x40, 8, 0x8, .ro, 0x0, 0x0, 0x0, [], .hi⟩]

/-- The register table of block FE, part 0. -/
def rowsFe0 : List RegRow := [
  ⟨"FE_CTRL", 0x0, 1, 0x0, 1, 0x0, .rw, 0x0, 0xD, 0x0, [], .plain⟩,
  ⟨"FE_STATUS", 0x4, 1, 0x0, 1, 0x0, .ro, 0x0, 0x0, 0x0, [], .plain⟩,
  ⟨"FE_CFG", 0x8, 1, 0x0, 1, 0x0, .ro, 0x0, 0x0, 0x0, [], .plain⟩,
  ⟨"FE_FREQ", 0xC, 1, 0x0, 1, 0x0, .ro, 0x0, 0x0, 0x0, [], .plain⟩,
  ⟨"FE_MARK_SUBNS", 0x10, 1, 0x0, 1, 0x0, .ro, 0x0, 0x0, 0x0, [], .ts⟩,
  ⟨"FE_MARK_NS", 0x14, 1, 0x0, 1, 0x0, .ro, 0x0, 0x0, 0x0, [], .tail⟩,
  ⟨"FE_MARK_SEC_LO", 0x18, 1, 0x0, 1, 0x0, .ro, 0x0, 0x0, 0x0, [], .tail⟩,
  ⟨"FE_MARK_SEC_HI", 0x1C, 1, 0x0, 1, 0x0, .ro, 0x0, 0x0, 0x0, [], .tail⟩,
  ⟨"FE_CAL_SWAP", 0x20, 1, 0x0, 1, 0x0, .wo, 0x0, 0x0, 0x0, [], .plain⟩,
  ⟨"FE_CAL_GEN", 0x24, 1, 0x0, 1, 0x0, .ro, 0x0, 0x0, 0x0, [], .plain⟩,
  ⟨"FE_DCB_FREEZE", 0x28, 1, 0x0, 1, 0x0, .rw, 0x0, 0xFFFFFF, 0x0, [], .plain⟩,
  ⟨"FE_EVT", 0x30, 1, 0x0, 1, 0x0, .w1c, 0x0, 0x0, 0x1FF, [], .plain⟩,
  ⟨"FE_EVT_EN", 0x34, 1, 0x0, 1, 0x0, .rw, 0x0, 0x1FF, 0x0, [], .plain⟩,
  ⟨"FE_WIN_ADDR", 0x40, 1, 0x0, 1, 0x0, .rw, 0x0, 0x3007FFF, 0x0, [], .plain⟩,
  ⟨"FE_WIN_DATA", 0x44, 1, 0x0, 1, 0x0, .ro, 0x0, 0x0, 0x0, [], .win⟩,
  ⟨"FE_PP_CTRL", 0x100, 3, 0x80, 1, 0x0, .rw, 0x1, 0x3FF, 0x0, [⟨0, 10, 0, 512⟩], .plain⟩,
  ⟨"FE_PP_STATUS", 0x104, 3, 0x80, 1, 0x0, .ro, 0x0, 0x0, 0x0, [], .plain⟩,
  ⟨"FE_PP_SEQ", 0x108, 3, 0x80, 1, 0x0, .ro, 0x0, 0x0, 0x0, [], .plain⟩,
  ⟨"FE_PP_DONE_SETS", 0x10C, 3, 0x80, 1, 0x0, .ro, 0x0, 0x0, 0x0, [], .plain⟩,
  ⟨"FE_PP_DONE_TS_SUBNS", 0x110, 3, 0x80, 1, 0x0, .ro, 0x0, 0x0, 0x0, [], .ts⟩,
  ⟨"FE_PP_DONE_TS_NS", 0x114, 3, 0x80, 1, 0x0, .ro, 0x0, 0x0, 0x0, [], .tail⟩,
  ⟨"FE_PP_DONE_TS_SEC_LO", 0x118, 3, 0x80, 1, 0x0, .ro, 0x0, 0x0, 0x0, [], .tail⟩,
  ⟨"FE_PP_DONE_TS_SEC_HI", 0x11C, 3, 0x80, 1, 0x0, .ro, 0x0, 0x0, 0x0, [], .tail⟩,
  ⟨"FE_PP_DONE_PER", 0x120, 3, 0x80, 8, 0x4, .ro, 0x0, 0x0, 0x0, [], .plain⟩,
  ⟨"FE_PP_FILL_TS_SUBNS", 0x140, 3, 0x80, 1, 0x0, .ro, 0x0, 0x0, 0x0, [], .ts⟩]

/-- The register table of block FE, part 1. -/
def rowsFe1 : List RegRow := [
  ⟨"FE_PP_FILL_TS_NS", 0x144, 3, 0x80, 1, 0x0, .ro, 0x0, 0x0, 0x0, [], .tail⟩,
  ⟨"FE_PP_FILL_TS_SEC_LO", 0x148, 3, 0x80, 1, 0x0, .ro, 0x0, 0x0, 0x0, [], .tail⟩,
  ⟨"FE_PP_FILL_TS_SEC_HI", 0x14C, 3, 0x80, 1, 0x0, .ro, 0x0, 0x0, 0x0, [], .tail⟩,
  ⟨"FE_PP_FILL_PER", 0x160, 3, 0x80, 8, 0x4, .ro, 0x0, 0x0, 0x0, [], .plain⟩,
  ⟨"FE_CH_CFG", 0x400, 24, 0x20, 1, 0x0, .ro, 0x0, 0x0, 0x0, [], .plain⟩,
  ⟨"FE_CH_STATUS", 0x404, 24, 0x20, 1, 0x0, .ro, 0x0, 0x0, 0x0, [], .plain⟩,
  ⟨"FE_CH_DCB", 0x408, 24, 0x20, 1, 0x0, .ro, 0x0, 0x0, 0x0, [], .plain⟩,
  ⟨"FE_CH_RMS", 0x40C, 24, 0x20, 1, 0x0, .ro, 0x0, 0x0, 0x0, [], .plain⟩,
  ⟨"FE_CAL_GAIN", 0x410, 24, 0x20, 1, 0x0, .rw, 0x3F800000, 0xFFFFFFFF, 0x0, [], .plain⟩,
  ⟨"FE_CAL_OFFSET", 0x414, 24, 0x20, 1, 0x0, .rw, 0x0, 0xFFFFFFFF, 0x0, [], .plain⟩,
  ⟨"FE_CAL_PDLY", 0x418, 24, 0x20, 1, 0x0, .rw, 0x0, 0x1FFFF, 0x0, [], .plain⟩,
  ⟨"FE_CH_RSV", 0x41C, 24, 0x20, 1, 0x0, .rsv, 0x0, 0x0, 0x0, [], .plain⟩,
  ⟨"FE_ACT_GAIN", 0x800, 24, 0x10, 1, 0x0, .ro, 0x3F800000, 0x0, 0x0, [], .plain⟩,
  ⟨"FE_ACT_OFFSET", 0x804, 24, 0x10, 1, 0x0, .ro, 0x0, 0x0, 0x0, [], .plain⟩,
  ⟨"FE_ACT_PDLY", 0x808, 24, 0x10, 1, 0x0, .ro, 0x0, 0x0, 0x0, [], .plain⟩,
  ⟨"FE_ACT_RSV", 0x80C, 24, 0x10, 1, 0x0, .rsv, 0x0, 0x0, 0x0, [], .plain⟩,
  ⟨"FE_CNT_LO", 0xC00, 1, 0x0, 8, 0x8, .ro, 0x0, 0x0, 0x0, [], .lo⟩,
  ⟨"FE_CNT_HI", 0xC04, 1, 0x0, 8, 0x8, .ro, 0x0, 0x0, 0x0, [], .hi⟩]

/-- The register table of block FE. -/
def rowsFe : List RegRow := rowsFe0 ++ rowsFe1

/-- The register table of block MTR, part 0. -/
def rowsMtr0 : List RegRow := [
  ⟨"MTR_CTRL", 0x0, 1, 0x0, 1, 0x0, .rw, 0x0, 0x1FD, 0x0, [], .plain⟩,
  ⟨"MTR_STATUS", 0x4, 1, 0x0, 1, 0x0, .ro, 0x0, 0x0, 0x0, [], .plain⟩,
  ⟨"MTR_REC_BASE_LO", 0x8, 1, 0x0, 1, 0x0, .rw, 0x0, 0xFFE00000, 0x0, [], .lo⟩,
  ⟨"MTR_REC_BASE_HI", 0xC, 1, 0x0, 1, 0x0, .rw, 0x0, 0xFFFFFFFF, 0x0, [], .hi⟩,
  ⟨"MTR_REC_SIZE", 0x10, 1, 0x0, 1, 0x0, .rw, 0x8, 0x1F, 0x0, [⟨0, 5, 8, 16⟩], .plain⟩,
  ⟨"MTR_REC_WR_LO", 0x18, 1, 0x0, 1, 0x0, .ro, 0x0, 0x0, 0x0, [], .lo⟩,
  ⟨"MTR_REC_WR_HI", 0x1C, 1, 0x0, 1, 0x0, .ro, 0x0, 0x0, 0x0, [], .hi⟩,
  ⟨"MTR_UNSAVED_MS", 0x20, 1, 0x0, 1, 0x0, .ro, 0x0, 0x0, 0x0, [], .plain⟩,
  ⟨"MTR_OUTAGE_MS", 0x24, 1, 0x0, 1, 0x0, .ro, 0x0, 0x0, 0x0, [], .plain⟩,
  ⟨"MTR_EVT", 0x30, 1, 0x0, 1, 0x0, .w1c, 0x0, 0x0, 0x1FFF, [], .plain⟩,
  ⟨"MTR_EVT_EN", 0x34, 1, 0x0, 1, 0x0, .rw, 0x0, 0x1FFF, 0x0, [], .plain⟩,
  ⟨"MTR_WIN_ADDR", 0x40, 1, 0x0, 1, 0x0, .rw, 0x0, 0x300007F, 0x0, [], .plain⟩,
  ⟨"MTR_WIN_DATA", 0x44, 1, 0x0, 1, 0x0, .ro, 0x0, 0x0, 0x0, [], .win⟩,
  ⟨"MTR_PLS_CNT", 0x100, 6, 0x10, 1, 0x0, .ro, 0x0, 0x0, 0x0, [], .plain⟩,
  ⟨"MTR_PLS_STATUS", 0x104, 6, 0x10, 1, 0x0, .ro, 0x0, 0x0, 0x0, [], .plain⟩,
  ⟨"MTR_PLS_RES_IMP", 0x108, 6, 0x10, 1, 0x0, .ro, 0x0, 0x0, 0x0, [], .plain⟩,
  ⟨"MTR_PLS_RES_EXP", 0x10C, 6, 0x10, 1, 0x0, .ro, 0x0, 0x0, 0x0, [], .plain⟩,
  ⟨"MTR_CNT_LO", 0x200, 1, 0x0, 8, 0x8, .ro, 0x0, 0x0, 0x0, [], .lo⟩,
  ⟨"MTR_CNT_HI", 0x204, 1, 0x0, 8, 0x8, .ro, 0x0, 0x0, 0x0, [], .hi⟩,
  ⟨"MTR_ENERGY_LO", 0x1000, 3, 0x400, 8, 0x10, .ro, 0x0, 0x0, 0x0, [], .lo⟩,
  ⟨"MTR_ENERGY_HI", 0x1004, 3, 0x400, 8, 0x10, .ro, 0x0, 0x0, 0x0, [], .hi⟩,
  ⟨"MTR_ENERGY_FRAC", 0x1008, 3, 0x400, 8, 0x10, .ro, 0x0, 0x0, 0x0, [], .plain⟩,
  ⟨"MTR_ENERGY_RSV", 0x100C, 3, 0x400, 8, 0x10, .rsv, 0x0, 0x0, 0x0, [], .plain⟩,
  ⟨"MTR_CYC_RMS", 0x1100, 3, 0x400, 8, 0x4, .ro, 0x0, 0x0, 0x0, [], .plain⟩,
  ⟨"MTR_CYC_P", 0x1120, 3, 0x400, 5, 0x4, .ro, 0x0, 0x0, 0x0, [], .plain⟩]

/-- The register table of block MTR, part 1. -/
def rowsMtr1 : List RegRow := [
  ⟨"MTR_CYC_ANG_I", 0x1140, 3, 0x400, 3, 0x4, .ro, 0x0, 0x0, 0x0, [], .plain⟩,
  ⟨"MTR_CYC_ANG_V", 0x114C, 3, 0x400, 2, 0x4, .ro, 0x0, 0x0, 0x0, [], .plain⟩,
  ⟨"MTR_AGG_RMS", 0x1180, 3, 0x400, 8, 0x4, .ro, 0x0, 0x0, 0x0, [], .plain⟩,
  ⟨"MTR_SEC_RMS", 0x11C0, 3, 0x400, 8, 0x4, .ro, 0x0, 0x0, 0x0, [], .plain⟩,
  ⟨"MTR_PEAK", 0x1200, 3, 0x400, 8, 0x4, .rc, 0x0, 0x0, 0x0, [], .plain⟩,
  ⟨"MTR_DEM_MAX", 0x1240, 3, 0x400, 2, 0x4, .ro, 0x0, 0x0, 0x0, [], .plain⟩,
  ⟨"MTR_EVT_STATE", 0x1250, 3, 0x400, 1, 0x0, .ro, 0x0, 0x0, 0x0, [], .plain⟩,
  ⟨"MTR_REC_SEQ_LO", 0x1260, 3, 0x400, 1, 0x0, .ro, 0x0, 0x0, 0x0, [], .lo⟩,
  ⟨"MTR_REC_SEQ_HI", 0x1264, 3, 0x400, 1, 0x0, .ro, 0x0, 0x0, 0x0, [], .hi⟩]

/-- The register table of block MTR. -/
def rowsMtr : List RegRow := rowsMtr0 ++ rowsMtr1

/-- The register table of block CAP, part 0. -/
def rowsCap0 : List RegRow := [
  ⟨"CAP_CTRL", 0x0, 1, 0x0, 1, 0x0, .rw, 0x0, 0x1, 0x0, [], .plain⟩,
  ⟨"CAP_STATUS", 0x4, 1, 0x0, 1, 0x0, .ro, 0x0, 0x0, 0x0, [], .plain⟩,
  ⟨"CAP_TRG_DLY", 0x10, 1, 0x0, 4, 0x4, .rw, 0x0, 0xFFFFFFFF, 0x0, [], .plain⟩,
  ⟨"CAP_TRG_CFG", 0x20, 1, 0x0, 1, 0x0, .rw, 0x0, 0xFF, 0x0, [], .plain⟩,
  ⟨"CAP_TRG_OUT", 0x24, 1, 0x0, 1, 0x0, .wo, 0x0, 0x0, 0x0, [], .plain⟩,
  ⟨"CAP_EVT", 0x30, 1, 0x0, 1, 0x0, .w1c, 0x0, 0x0, 0xFFF, [], .plain⟩,
  ⟨"CAP_EVT_EN", 0x34, 1, 0x0, 1, 0x0, .rw, 0x0, 0xFFF, 0x0, [], .plain⟩,
  ⟨"CAP_TRG_IN_SUBNS", 0x40, 4, 0x10, 1, 0x0, .ro, 0x0, 0x0, 0x0, [], .ts⟩,
  ⟨"CAP_TRG_IN_NS", 0x44, 4, 0x10, 1, 0x0, .ro, 0x0, 0x0, 0x0, [], .tail⟩,
  ⟨"CAP_TRG_IN_SEC_LO", 0x48, 4, 0x10, 1, 0x0, .ro, 0x0, 0x0, 0x0, [], .tail⟩,
  ⟨"CAP_TRG_IN_SEC_HI", 0x4C, 4, 0x10, 1, 0x0, .ro, 0x0, 0x0, 0x0, [], .tail⟩,
  ⟨"CAP_TRG_CODE", 0x80, 1, 0x0, 4, 0x4, .ro, 0x0, 0x0, 0x0, [], .plain⟩,
  ⟨"CAP_WIN_ADDR", 0x90, 1, 0x0, 1, 0x0, .rw, 0x0, 0x1FF, 0x0, [], .plain⟩,
  ⟨"CAP_WIN_DATA", 0x94, 1, 0x0, 1, 0x0, .rw, 0x0, 0x0, 0x0, [], .win⟩,
  ⟨"CAP_CH_CTRL", 0x100, 4, 0x40, 1, 0x0, .wo, 0x0, 0x0, 0x0, [], .plain⟩,
  ⟨"CAP_CH_STATUS", 0x104, 4, 0x40, 1, 0x0, .ro, 0x0, 0x0, 0x0, [], .plain⟩,
  ⟨"CAP_CH_BASE_LO", 0x108, 4, 0x40, 1, 0x0, .rw, 0x0, 0xFFE00000, 0x0, [], .lo⟩,
  ⟨"CAP_CH_BASE_HI", 0x10C, 4, 0x40, 1, 0x0, .rw, 0x0, 0xFFFFFFFF, 0x0, [], .hi⟩,
  ⟨"CAP_CH_SIZE", 0x110, 4, 0x40, 1, 0x0, .rw, 0x1, 0xFFF, 0x0, [⟨0, 12, 1, 2048⟩], .plain⟩,
  ⟨"CAP_CH_CFG", 0x114, 4, 0x40, 1, 0x0, .rw, 0x0, 0x1FFFFFFF, 0x0, [], .plain⟩,
  ⟨"CAP_CH_TIME", 0x118, 4, 0x40, 1, 0x0, .rw, 0x3E803E8, 0xFFFF3FFF, 0x0, [⟨0, 14, 0, 10000⟩, ⟨16, 16, 1, 60000⟩], .plain⟩,
  ⟨"CAP_CH_SNAP", 0x11C, 4, 0x40, 1, 0x0, .rw, 0x0, 0x3FFFFFF, 0x0, [⟨17, 9, 1, 500⟩], .plain⟩,
  ⟨"CAP_CH_TOUT", 0x120, 4, 0x40, 1, 0x0, .rw, 0x0, 0x3F, 0x0, [], .plain⟩,
  ⟨"CAP_CH_TRIG_SUBNS", 0x124, 4, 0x40, 1, 0x0, .ro, 0x0, 0x0, 0x0, [], .ts⟩,
  ⟨"CAP_CH_TRIG_NS", 0x128, 4, 0x40, 1, 0x0, .ro, 0x0, 0x0, 0x0, [], .tail⟩]

/-- The register table of block CAP, part 1. -/
def rowsCap1 : List RegRow := [
  ⟨"CAP_CH_TRIG_SEC_LO", 0x12C, 4, 0x40, 1, 0x0, .ro, 0x0, 0x0, 0x0, [], .tail⟩,
  ⟨"CAP_CH_TRIG_SEC_HI", 0x130, 4, 0x40, 1, 0x0, .ro, 0x0, 0x0, 0x0, [], .tail⟩,
  ⟨"CAP_CH_BLOCKS", 0x134, 4, 0x40, 1, 0x0, .ro, 0x0, 0x0, 0x0, [], .plain⟩,
  ⟨"CAP_CNT_LO", 0x200, 1, 0x0, 9, 0x8, .ro, 0x0, 0x0, 0x0, [], .lo⟩,
  ⟨"CAP_CNT_HI", 0x204, 1, 0x0, 9, 0x8, .ro, 0x0, 0x0, 0x0, [], .hi⟩]

/-- The register table of block CAP. -/
def rowsCap : List RegRow := rowsCap0 ++ rowsCap1

/-- The register table of block LOG. -/
def rowsLog : List RegRow := [
  ⟨"LOG_CTRL", 0x0, 1, 0x0, 1, 0x0, .rw, 0x0, 0x0, 0x0, [], .plain⟩,
  ⟨"LOG_STATUS", 0x4, 1, 0x0, 1, 0x0, .ro, 0x0, 0x0, 0x0, [], .plain⟩,
  ⟨"LOG_RING_BASE_LO", 0x8, 1, 0x0, 1, 0x0, .rw, 0x0, 0xFFE00000, 0x0, [], .lo⟩,
  ⟨"LOG_RING_BASE_HI", 0xC, 1, 0x0, 1, 0x0, .rw, 0x0, 0xFFFFFFFF, 0x0, [], .hi⟩,
  ⟨"LOG_NEXT_SEQ_LO", 0x10, 1, 0x0, 1, 0x0, .ro, 0x0, 0x0, 0x0, [], .lo⟩,
  ⟨"LOG_NEXT_SEQ_HI", 0x14, 1, 0x0, 1, 0x0, .ro, 0x0, 0x0, 0x0, [], .hi⟩,
  ⟨"LOG_OLDEST_SEQ_LO", 0x18, 1, 0x0, 1, 0x0, .ro, 0x0, 0x0, 0x0, [], .lo⟩,
  ⟨"LOG_OLDEST_SEQ_HI", 0x1C, 1, 0x0, 1, 0x0, .ro, 0x0, 0x0, 0x0, [], .hi⟩,
  ⟨"LOG_NONCE_LO", 0x20, 1, 0x0, 1, 0x0, .ro, 0x0, 0x0, 0x0, [], .lo⟩,
  ⟨"LOG_NONCE_HI", 0x24, 1, 0x0, 1, 0x0, .ro, 0x0, 0x0, 0x0, [], .hi⟩,
  ⟨"LOG_CLR_SLOT", 0x28, 1, 0x0, 1, 0x0, .rw, 0x0, 0x3F, 0x0, [], .plain⟩,
  ⟨"LOG_CHKPT", 0x2C, 1, 0x0, 1, 0x0, .rw, 0xE100100, 0xFFFFFFFF, 0x0, [⟨0, 16, 16, 65535⟩, ⟨16, 16, 1, 65535⟩], .plain⟩,
  ⟨"LOG_EVT", 0x30, 1, 0x0, 1, 0x0, .w1c, 0x0, 0x0, 0x7F, [], .plain⟩,
  ⟨"LOG_EVT_EN", 0x34, 1, 0x0, 1, 0x0, .rw, 0x0, 0x7F, 0x0, [], .plain⟩,
  ⟨"LOG_WIN_ADDR", 0x40, 1, 0x0, 1, 0x0, .rw, 0x0, 0x3003FFF, 0x0, [], .plain⟩,
  ⟨"LOG_WIN_DATA", 0x44, 1, 0x0, 1, 0x0, .ro, 0x0, 0x0, 0x0, [], .win⟩,
  ⟨"LOG_CNT_LO", 0x200, 1, 0x0, 7, 0x8, .ro, 0x0, 0x0, 0x0, [], .lo⟩,
  ⟨"LOG_CNT_HI", 0x204, 1, 0x0, 7, 0x8, .ro, 0x0, 0x0, 0x0, [], .hi⟩]

/-- The register table of block PLT. -/
def rowsPlt : List RegRow := [
  ⟨"PLT_CTRL", 0x0, 1, 0x0, 1, 0x0, .rw, 0x0, 0x0, 0x0, [], .plain⟩,
  ⟨"PLT_STATUS", 0x4, 1, 0x0, 1, 0x0, .ro, 0x0, 0x0, 0x0, [], .plain⟩,
  ⟨"PLT_ROT_CTRL", 0x8, 1, 0x0, 1, 0x0, .wo, 0x0, 0x0, 0x0, [], .plain⟩,
  ⟨"PLT_ROT_STATUS", 0xC, 1, 0x0, 1, 0x0, .ro, 0x0, 0x0, 0x0, [], .plain⟩,
  ⟨"PLT_ROT_DRAIN", 0x10, 1, 0x0, 1, 0x0, .rw, 0x7D0, 0x1FFFF, 0x0, [⟨0, 17, 10, 100000⟩], .plain⟩,
  ⟨"PLT_AGE_US", 0x14, 1, 0x0, 1, 0x0, .rw, 0x1388, 0xFFFFF, 0x0, [⟨0, 20, 100, 1000000⟩], .plain⟩,
  ⟨"PLT_RL_CAP", 0x20, 1, 0x0, 6, 0x4, .rw, 0x200, 0xFFF, 0x0, [⟨0, 12, 16, 3712⟩], .plain⟩,
  ⟨"PLT_EVT", 0x40, 1, 0x0, 1, 0x0, .w1c, 0x0, 0x0, 0x7F, [], .plain⟩,
  ⟨"PLT_EVT_EN", 0x44, 1, 0x0, 1, 0x0, .rw, 0x0, 0x7F, 0x0, [], .plain⟩,
  ⟨"PLT_CNT_CTRL", 0x50, 1, 0x0, 1, 0x0, .rw, 0x0, 0x1, 0x0, [], .plain⟩,
  ⟨"PLT_CNT_USER", 0x54, 1, 0x0, 1, 0x0, .rw, 0x0, 0xFFFFFFFF, 0x0, [], .plain⟩,
  ⟨"PLT_TASK_SEL", 0x60, 1, 0x0, 1, 0x0, .rw, 0x0, 0xFFF, 0x0, [], .plain⟩,
  ⟨"PLT_TASK_RES", 0x64, 1, 0x0, 4, 0x4, .ro, 0x0, 0x0, 0x0, [], .plain⟩,
  ⟨"PLT_CLASS", 0x80, 1, 0x0, 6, 0x4, .ro, 0x0, 0x0, 0x0, [], .plain⟩,
  ⟨"PLT_CNT_LO", 0x100, 1, 0x0, 10, 0x8, .ro, 0x0, 0x0, 0x0, [], .lo⟩,
  ⟨"PLT_CNT_HI", 0x104, 1, 0x0, 10, 0x8, .ro, 0x0, 0x0, 0x0, [], .hi⟩]

/-- The register table of block ENG. -/
def rowsEng : List RegRow := [
  ⟨"ENG_STATUS", 0x0, 32, 0x800, 1, 0x0, .ro, 0x0, 0x0, 0x0, [], .plain⟩,
  ⟨"ENG_FW_VER", 0x4, 32, 0x800, 1, 0x0, .ro, 0x0, 0x0, 0x0, [], .plain⟩,
  ⟨"ENG_FW_MEAS", 0x8, 32, 0x800, 8, 0x4, .ro, 0x0, 0x0, 0x0, [], .plain⟩,
  ⟨"ENG_CNT_CTRL", 0x30, 32, 0x800, 1, 0x0, .rw, 0x0, 0x1, 0x0, [], .plain⟩,
  ⟨"ENG_CYCLE_LO", 0x38, 32, 0x800, 1, 0x0, .ro, 0x0, 0x0, 0x0, [], .lo⟩,
  ⟨"ENG_CYCLE_HI", 0x3C, 32, 0x800, 1, 0x0, .ro, 0x0, 0x0, 0x0, [], .hi⟩,
  ⟨"ENG_CNT_SEL", 0x40, 32, 0x800, 8, 0x10, .rw, 0x0, 0x3FF, 0x0, [], .plain⟩,
  ⟨"ENG_CNT_LO", 0x44, 32, 0x800, 8, 0x10, .rw, 0x0, 0xFFFFFFFF, 0x0, [], .lo⟩,
  ⟨"ENG_CNT_HI", 0x48, 32, 0x800, 8, 0x10, .rw, 0x0, 0xFFFF, 0x0, [], .hi⟩,
  ⟨"ENG_CNT_RSV", 0x4C, 32, 0x800, 7, 0x10, .rsv, 0x0, 0x0, 0x0, [], .plain⟩,
  ⟨"ENG_CNT_RSV7", 0xBC, 32, 0x800, 1, 0x0, .rsv, 0x0, 0x0, 0x0, [], .plain⟩,
  ⟨"ENG_CNT_OVF", 0xC0, 32, 0x800, 1, 0x0, .w1c, 0x0, 0x0, 0xFF, [], .plain⟩,
  ⟨"ENG_CNT_GEN", 0xC4, 32, 0x800, 1, 0x0, .ro, 0x0, 0x0, 0x0, [], .plain⟩,
  ⟨"ENG_SMP_BASE_LO", 0xD0, 32, 0x800, 1, 0x0, .rw, 0x0, 0xFFE00000, 0x0, [], .lo⟩,
  ⟨"ENG_SMP_BASE_HI", 0xD4, 32, 0x800, 1, 0x0, .rw, 0x0, 0xFFFFFFFF, 0x0, [], .hi⟩,
  ⟨"ENG_SMP_SIZE", 0xD8, 32, 0x800, 1, 0x0, .rw, 0xA, 0x1F, 0x0, [⟨0, 5, 10, 20⟩], .plain⟩,
  ⟨"ENG_SMP_WR", 0xDC, 32, 0x800, 1, 0x0, .ro, 0x0, 0x0, 0x0, [], .plain⟩,
  ⟨"ENG_CTR_LO", 0x100, 32, 0x800, 4, 0x8, .ro, 0x0, 0x0, 0x0, [], .lo⟩,
  ⟨"ENG_CTR_HI", 0x104, 32, 0x800, 4, 0x8, .ro, 0x0, 0x0, 0x0, [], .hi⟩]

/-- The register table of block TWN. -/
def rowsTwn : List RegRow := [
  ⟨"TWN_CTRL", 0x0, 1, 0x0, 1, 0x0, .wo, 0x0, 0x0, 0x0, [], .plain⟩,
  ⟨"TWN_STATUS", 0x4, 1, 0x0, 1, 0x0, .ro, 0x0, 0x0, 0x0, [], .plain⟩,
  ⟨"TWN_CFG", 0x8, 1, 0x0, 1, 0x0, .rw, 0x0, 0x3F0F, 0x0, [], .plain⟩,
  ⟨"TWN_TIMING", 0xC, 1, 0x0, 1, 0x0, .rw, 0x3C003C, 0xFFF0FFF, 0x0, [⟨0, 12, 10, 3600⟩, ⟨16, 12, 1, 4095⟩], .plain⟩,
  ⟨"TWN_DT_LIMIT", 0x10, 1, 0x0, 1, 0x0, .rw, 0x3E8, 0xFFFFFFFF, 0x0, [⟨0, 32, 10, 1000000⟩], .plain⟩,
  ⟨"TWN_MTR_TOL", 0x14, 1, 0x0, 1, 0x0, .rw, 0xC8, 0xFFFF, 0x0, [⟨0, 16, 1, 10000⟩], .plain⟩,
  ⟨"TWN_HEALTH", 0x18, 1, 0x0, 1, 0x0, .ro, 0x0, 0x0, 0x0, [], .plain⟩,
  ⟨"TWN_PEER_HEALTH", 0x1C, 1, 0x0, 1, 0x0, .ro, 0x0, 0x0, 0x0, [], .plain⟩,
  ⟨"TWN_DT_DIFF", 0x20, 1, 0x0, 1, 0x0, .ro, 0x0, 0x0, 0x0, [], .plain⟩,
  ⟨"TWN_EPOCH", 0x24, 1, 0x0, 1, 0x0, .ro, 0x0, 0x0, 0x0, [], .plain⟩,
  ⟨"TWN_HO_STATUS", 0x28, 1, 0x0, 1, 0x0, .ro, 0x0, 0x0, 0x0, [], .plain⟩,
  ⟨"TWN_HO_AT_SUBNS", 0x30, 1, 0x0, 1, 0x0, .ro, 0x0, 0x0, 0x0, [], .ts⟩,
  ⟨"TWN_HO_AT_NS", 0x34, 1, 0x0, 1, 0x0, .ro, 0x0, 0x0, 0x0, [], .tail⟩,
  ⟨"TWN_HO_AT_SEC_LO", 0x38, 1, 0x0, 1, 0x0, .ro, 0x0, 0x0, 0x0, [], .tail⟩,
  ⟨"TWN_HO_AT_SEC_HI", 0x3C, 1, 0x0, 1, 0x0, .ro, 0x0, 0x0, 0x0, [], .tail⟩,
  ⟨"TWN_EVT", 0x40, 1, 0x0, 1, 0x0, .w1c, 0x0, 0x0, 0x1FFF, [], .plain⟩,
  ⟨"TWN_EVT_EN", 0x44, 1, 0x0, 1, 0x0, .rw, 0x0, 0x1FFF, 0x0, [], .plain⟩,
  ⟨"TWN_PEER_TIME", 0x50, 1, 0x0, 1, 0x0, .ro, 0x0, 0x0, 0x0, [], .plain⟩,
  ⟨"TWN_CNT_LO", 0x200, 1, 0x0, 11, 0x8, .ro, 0x0, 0x0, 0x0, [], .lo⟩,
  ⟨"TWN_CNT_HI", 0x204, 1, 0x0, 11, 0x8, .ro, 0x0, 0x0, 0x0, [], .hi⟩]

/-- The register table of block FLT, part 0. -/
def rowsFlt0 : List RegRow := [
  ⟨"FLT_CTRL", 0x0, 1, 0x0, 1, 0x0, .rw, 0x0, 0x2, 0x0, [], .plain⟩,
  ⟨"FLT_STATUS", 0x4, 1, 0x0, 1, 0x0, .ro, 0x0, 0x0, 0x0, [], .plain⟩,
  ⟨"FLT_CFG", 0x8, 1, 0x0, 1, 0x0, .rw, 0x65, 0x77, 0x0, [⟨0, 3, 3, 6⟩, ⟨4, 3, 3, 6⟩], .plain⟩,
  ⟨"FLT_DEGRADE_MASK", 0xC, 1, 0x0, 1, 0x0, .rw, 0x1, 0x7, 0x0, [], .plain⟩,
  ⟨"FLT_SAFE", 0x10, 1, 0x0, 1, 0x0, .rw, 0x0, 0xFFFF, 0x0, [], .plain⟩,
  ⟨"FLT_FER_SRC", 0x20, 1, 0x0, 1, 0x0, .ro, 0x0, 0x0, 0x0, [], .plain⟩,
  ⟨"FLT_FER_ADDR_LO", 0x24, 1, 0x0, 1, 0x0, .ro, 0x0, 0x0, 0x0, [], .lo⟩,
  ⟨"FLT_FER_ADDR_HI", 0x28, 1, 0x0, 1, 0x0, .ro, 0x0, 0x0, 0x0, [], .hi⟩,
  ⟨"FLT_FER_AT_SUBNS", 0x2C, 1, 0x0, 1, 0x0, .ro, 0x0, 0x0, 0x0, [], .ts⟩,
  ⟨"FLT_FER_AT_NS", 0x30, 1, 0x0, 1, 0x0, .ro, 0x0, 0x0, 0x0, [], .tail⟩,
  ⟨"FLT_FER_AT_SEC_LO", 0x34, 1, 0x0, 1, 0x0, .ro, 0x0, 0x0, 0x0, [], .tail⟩,
  ⟨"FLT_FER_AT_SEC_HI", 0x38, 1, 0x0, 1, 0x0, .ro, 0x0, 0x0, 0x0, [], .tail⟩,
  ⟨"FLT_FER_CNT", 0x3C, 1, 0x0, 1, 0x0, .ro, 0x0, 0x0, 0x0, [], .plain⟩,
  ⟨"FLT_EVT", 0x40, 1, 0x0, 1, 0x0, .w1c, 0x0, 0x0, 0xFF, [], .plain⟩,
  ⟨"FLT_EVT_EN", 0x44, 1, 0x0, 1, 0x0, .rw, 0x0, 0xFF, 0x0, [], .plain⟩,
  ⟨"FLT_FER_REL", 0x48, 1, 0x0, 1, 0x0, .wo, 0x0, 0x0, 0x0, [], .plain⟩,
  ⟨"FLT_INJECT", 0x50, 1, 0x0, 1, 0x0, .wo, 0x0, 0x0, 0x0, [], .plain⟩,
  ⟨"FLT_RELEASE", 0x54, 1, 0x0, 1, 0x0, .wo, 0x0, 0x0, 0x0, [], .plain⟩,
  ⟨"FLT_RELEASE_RES", 0x58, 1, 0x0, 1, 0x0, .ro, 0x0, 0x0, 0x0, [], .plain⟩,
  ⟨"FLT_FENCED_ENG", 0x60, 1, 0x0, 1, 0x0, .ro, 0x0, 0x0, 0x0, [], .plain⟩,
  ⟨"FLT_FENCED_UNIT", 0x64, 1, 0x0, 1, 0x0, .ro, 0x0, 0x0, 0x0, [], .plain⟩,
  ⟨"FLT_SRC_SEL", 0x68, 1, 0x0, 1, 0x0, .rw, 0x0, 0x7F, 0x0, [], .plain⟩,
  ⟨"FLT_SRC_STATE", 0x6C, 1, 0x0, 1, 0x0, .ro, 0x0, 0x0, 0x0, [], .plain⟩,
  ⟨"FLT_WIN_ADDR", 0x70, 1, 0x0, 1, 0x0, .rw, 0x0, 0x3FF, 0x0, [], .plain⟩,
  ⟨"FLT_WIN_DATA", 0x74, 1, 0x0, 1, 0x0, .ro, 0x0, 0x0, 0x0, [], .win⟩]

/-- The register table of block FLT, part 1. -/
def rowsFlt1 : List RegRow := [
  ⟨"FLT_CNT_LO", 0x200, 1, 0x0, 9, 0x8, .ro, 0x0, 0x0, 0x0, [], .lo⟩,
  ⟨"FLT_CNT_HI", 0x204, 1, 0x0, 9, 0x8, .ro, 0x0, 0x0, 0x0, [], .hi⟩]

/-- The register table of block FLT. -/
def rowsFlt : List RegRow := rowsFlt0 ++ rowsFlt1

/-- The register table of block BST. -/
def rowsBst : List RegRow := [
  ⟨"BST_CTRL", 0x0, 1, 0x0, 1, 0x0, .wo, 0x0, 0x0, 0x0, [], .plain⟩,
  ⟨"BST_STATUS", 0x4, 1, 0x0, 1, 0x0, .ro, 0x0, 0x0, 0x0, [], .plain⟩,
  ⟨"BST_RES", 0x8, 1, 0x0, 3, 0x4, .ro, 0x0, 0x0, 0x0, [], .plain⟩,
  ⟨"BST_LAST", 0x20, 1, 0x0, 1, 0x0, .ro, 0x0, 0x0, 0x0, [], .plain⟩,
  ⟨"BST_EVT", 0x30, 1, 0x0, 1, 0x0, .w1c, 0x0, 0x0, 0x7, [], .plain⟩,
  ⟨"BST_EVT_EN", 0x34, 1, 0x0, 1, 0x0, .rw, 0x0, 0x7, 0x0, [], .plain⟩,
  ⟨"BST_CNT_LO", 0x200, 1, 0x0, 4, 0x8, .ro, 0x0, 0x0, 0x0, [], .lo⟩,
  ⟨"BST_CNT_HI", 0x204, 1, 0x0, 4, 0x8, .ro, 0x0, 0x0, 0x0, [], .hi⟩]

/-- The register table of block KEY. -/
def rowsKey : List RegRow := [
  ⟨"KEY_CTRL", 0x0, 1, 0x0, 1, 0x0, .wo, 0x0, 0x0, 0x0, [], .plain⟩,
  ⟨"KEY_STATUS", 0x4, 1, 0x0, 1, 0x0, .ro, 0x0, 0x0, 0x0, [], .plain⟩,
  ⟨"KEY_CFG", 0x8, 1, 0x0, 1, 0x0, .rw, 0x0, 0x3F, 0x0, [⟨0, 6, 0, 55⟩], .plain⟩,
  ⟨"KEY_NONCE_LO", 0x10, 1, 0x0, 1, 0x0, .ro, 0x0, 0x0, 0x0, [], .lo⟩,
  ⟨"KEY_NONCE_HI", 0x14, 1, 0x0, 1, 0x0, .ro, 0x0, 0x0, 0x0, [], .hi⟩,
  ⟨"KEY_SLOT_SEL", 0x20, 1, 0x0, 1, 0x0, .rw, 0x0, 0x3F, 0x0, [], .plain⟩,
  ⟨"KEY_SLOT_INFO", 0x24, 1, 0x0, 1, 0x0, .ro, 0x0, 0x0, 0x0, [], .plain⟩,
  ⟨"KEY_SLOT_USAGE", 0x28, 1, 0x0, 1, 0x0, .ro, 0x0, 0x0, 0x0, [], .plain⟩,
  ⟨"KEY_EVT", 0x30, 1, 0x0, 1, 0x0, .w1c, 0x0, 0x0, 0x3F, [], .plain⟩,
  ⟨"KEY_EVT_EN", 0x34, 1, 0x0, 1, 0x0, .rw, 0x0, 0x3F, 0x0, [], .plain⟩,
  ⟨"KEY_CNT_LO", 0x200, 1, 0x0, 7, 0x8, .ro, 0x0, 0x0, 0x0, [], .lo⟩,
  ⟨"KEY_CNT_HI", 0x204, 1, 0x0, 7, 0x8, .ro, 0x0, 0x0, 0x0, [], .hi⟩]

/-- The register table of block RTC. -/
def rowsRtc : List RegRow := [
  ⟨"RTC_CTRL", 0x0, 1, 0x0, 1, 0x0, .rw, 0x2, 0x3, 0x0, [], .plain⟩,
  ⟨"RTC_STATUS", 0x4, 1, 0x0, 1, 0x0, .ro, 0x0, 0x0, 0x0, [], .plain⟩,
  ⟨"RTC_FLAGS", 0x8, 1, 0x0, 1, 0x0, .w1c, 0x0, 0x0, 0xE, [], .plain⟩,
  ⟨"RTC_FRAC", 0x10, 1, 0x0, 1, 0x0, .ro, 0x0, 0x0, 0x0, [], .plain⟩,
  ⟨"RTC_SEC_LO", 0x14, 1, 0x0, 1, 0x0, .ro, 0x0, 0x0, 0x0, [], .plain⟩,
  ⟨"RTC_SEC_HI", 0x18, 1, 0x0, 1, 0x0, .ro, 0x0, 0x0, 0x0, [], .plain⟩,
  ⟨"RTC_SET_FRAC", 0x20, 1, 0x0, 1, 0x0, .rw, 0x0, 0x7FFF, 0x0, [], .plain⟩,
  ⟨"RTC_SET_SEC_LO", 0x24, 1, 0x0, 1, 0x0, .rw, 0x0, 0xFFFFFFFF, 0x0, [], .lo⟩,
  ⟨"RTC_SET_SEC_HI", 0x28, 1, 0x0, 1, 0x0, .rw, 0x0, 0xFFFF, 0x0, [], .hi⟩,
  ⟨"RTC_WAKE", 0x30, 1, 0x0, 1, 0x0, .rw, 0x0, 0x1FFFFFF, 0x0, [⟨0, 25, 0, 22118400⟩], .plain⟩,
  ⟨"RTC_TRIM", 0x34, 1, 0x0, 1, 0x0, .rw, 0x0, 0xFFFF, 0x0, [], .plain⟩,
  ⟨"RTC_VBAT", 0x38, 1, 0x0, 1, 0x0, .ro, 0x0, 0x0, 0x0, [], .plain⟩,
  ⟨"RTC_SWO_AT_FRAC", 0x40, 1, 0x0, 1, 0x0, .ro, 0x0, 0x0, 0x0, [], .ts3⟩,
  ⟨"RTC_SWO_AT_SEC_LO", 0x44, 1, 0x0, 1, 0x0, .ro, 0x0, 0x0, 0x0, [], .tail⟩,
  ⟨"RTC_SWO_AT_SEC_HI", 0x48, 1, 0x0, 1, 0x0, .ro, 0x0, 0x0, 0x0, [], .tail⟩,
  ⟨"RTC_RET_AT_FRAC", 0x50, 1, 0x0, 1, 0x0, .ro, 0x0, 0x0, 0x0, [], .ts3⟩,
  ⟨"RTC_RET_AT_SEC_LO", 0x54, 1, 0x0, 1, 0x0, .ro, 0x0, 0x0, 0x0, [], .tail⟩,
  ⟨"RTC_RET_AT_SEC_HI", 0x58, 1, 0x0, 1, 0x0, .ro, 0x0, 0x0, 0x0, [], .tail⟩,
  ⟨"RTC_RST_CAUSE", 0x60, 1, 0x0, 1, 0x0, .ro, 0x0, 0x0, 0x0, [], .plain⟩,
  ⟨"RTC_RST_CFG", 0x64, 1, 0x0, 1, 0x0, .rw, 0x0, 0x1, 0x0, [], .plain⟩,
  ⟨"RTC_RST_CTRL", 0x68, 1, 0x0, 1, 0x0, .wo, 0x0, 0x0, 0x0, [], .plain⟩,
  ⟨"RTC_EVT", 0x70, 1, 0x0, 1, 0x0, .w1c, 0x0, 0x0, 0x3F, [], .plain⟩,
  ⟨"RTC_EVT_EN", 0x74, 1, 0x0, 1, 0x0, .rw, 0x0, 0x3F, 0x0, [], .plain⟩]

/-- The register table of block DBG. -/
def rowsDbg : List RegRow := [
  ⟨"DBG_CTRL", 0x0, 1, 0x0, 1, 0x0, .rw, 0x0, 0x0, 0x0, [], .plain⟩,
  ⟨"DBG_STATUS", 0x4, 1, 0x0, 1, 0x0, .ro, 0x0, 0x0, 0x0, [], .plain⟩,
  ⟨"DBG_AUTH_SLOT", 0x8, 1, 0x0, 1, 0x0, .rw, 0x0, 0x3F, 0x0, [⟨0, 6, 0, 55⟩], .plain⟩,
  ⟨"DBG_EVT", 0x10, 1, 0x0, 1, 0x0, .w1c, 0x0, 0x0, 0xF, [], .plain⟩,
  ⟨"DBG_EVT_EN", 0x14, 1, 0x0, 1, 0x0, .rw, 0x0, 0xF, 0x0, [], .plain⟩,
  ⟨"DBG_CNT_LO", 0x200, 1, 0x0, 3, 0x8, .ro, 0x0, 0x0, 0x0, [], .lo⟩,
  ⟨"DBG_CNT_HI", 0x204, 1, 0x0, 3, 0x8, .ro, 0x0, 0x0, 0x0, [], .hi⟩]

/-- Where a block begins in BAR0 (R48). -/
def Block.base : Block → Nat
  | .id => 0x0
  | .hif => 0x10000
  | .cfg => 0x20000
  | .pwr => 0x30000
  | .tb => 0x40000
  | .mac => 0x50000
  | .bin => 0x60000
  | .aln => 0x70000
  | .osc => 0x80000
  | .isl => 0x90000
  | .alm => 0xA0000
  | .outp => 0xA8000
  | .fe => 0xB0000
  | .mtr => 0xC0000
  | .cap => 0xD0000
  | .logb => 0xE0000
  | .plt => 0xF0000
  | .eng => 0x100000
  | .twn => 0x110000
  | .flt => 0x120000
  | .bst => 0x130000
  | .key => 0x140000
  | .rtc => 0x150000
  | .dbg => 0x160000
  | .none => 0

/-- The registers of a block. -/
def Block.rows : Block → List RegRow
  | .id => rowsId
  | .hif => rowsHif
  | .cfg => rowsCfg
  | .pwr => rowsPwr
  | .tb => rowsTb
  | .mac => rowsMac
  | .bin => rowsBin
  | .aln => rowsAln
  | .osc => rowsOsc
  | .isl => rowsIsl
  | .alm => rowsAlm
  | .outp => rowsOut
  | .fe => rowsFe
  | .mtr => rowsMtr
  | .cap => rowsCap
  | .logb => rowsLog
  | .plt => rowsPlt
  | .eng => rowsEng
  | .twn => rowsTwn
  | .flt => rowsFlt
  | .bst => rowsBst
  | .key => rowsKey
  | .rtc => rowsRtc
  | .dbg => rowsDbg
  | .none => []

/-- The block an offset of BAR0 lies in (R48): 64 KiB each, the ALM block halved, ENG and MAC divided by their own steps. -/
def blockOf (o : Nat) : Block :=
  match o / 0x10000 with
  | 0 => .id
  | 1 => .hif
  | 2 => .cfg
  | 3 => .pwr
  | 4 => .tb
  | 5 => .mac
  | 6 => .bin
  | 7 => .aln
  | 8 => .osc
  | 9 => .isl
  | 10 => if o < 0xA8000 then .alm else .outp
  | 11 => .fe
  | 12 => .mtr
  | 13 => .cap
  | 14 => .logb
  | 15 => .plt
  | 16 => .eng
  | 17 => .twn
  | 18 => .flt
  | 19 => .bst
  | 20 => .key
  | 21 => .rtc
  | 22 => .dbg
  | _ => .none

/-- Whether a row covers an offset of its block: the offset is `off + s1 * i + s2 * j` with both indexes in range. -/
def RegRow.covers (r : RegRow) (o : Nat) : Bool :=
  if o < r.off then false
  else
    let d := o - r.off
    let i := if r.s1 = 0 then 0 else d / r.s1
    let e := if r.s1 = 0 then d else d % r.s1
    let j := if r.s2 = 0 then 0 else e / r.s2
    let f := if r.s2 = 0 then e else e % r.s2
    decide (i < r.n1) && decide (j < r.n2) && decide (f = 0)

/-- The row of a BAR0 offset, if the manual assigns the offset to a register (R49). -/
def rowAt (o : Nat) : Option RegRow :=
  (blockOf o).rows.find? (fun r => r.covers (o - (blockOf o).base))

/-- The value a register holds at reset, by its chapter's table; an offset with no register reads zero (R49). -/
def resetAt (o : Nat) : BitVec 32 :=
  match rowAt o with
  | some r => BitVec.ofNat 32 r.reset
  | none => 0

end Sys2Proof.Machine
end

