-- ==== Sys2Proof/Machine/State.lean ====
section
/-! DEFINITION. The state of the block as plain data: every register, buffer, queue, counter and mode the manual gives it, and
the queue of waiting commands. A field's default is its reset value. -/

namespace Sys2Proof.Machine

/-! ### Time base (chapter 02) -/

/-- Source states (R60). -/
inductive SrcSt where
  | disabled | search | acquire | locked | lost
deriving DecidableEq, Repr

/-- DT states (R74). -/
inductive DtSt where
  | freeRun | locked | holdover | degraded
deriving DecidableEq, Repr

/-- The grandmaster data set and flags of an Announce message (R63, R66, R67). -/
structure Announce where
  identity : Nat
  priority1 : Nat
  clockClass : Nat
  accuracy : Nat
  variance : Nat
  priority2 : Nat
  stepsRemoved : Nat
  timeTraceable : Bool
  utcValid : Bool
  utcOffset : Int
deriving DecidableEq, Repr

/-- A foreign master a PTP slot has heard announce: its last data set, its port identity, how many Announce messages it has
sent within the time window, when the last one came and its log interval (IEEE 1588-2019, R62, R63). -/
structure Foreign where
  sender : Nat
  ann : Announce
  count : Nat
  last : Nat
  interval : Int
deriving DecidableEq, Repr

/-- A PTP event message a slot has sent and whose transmit stamp it awaits or holds (R65, R87): for a response, the identity that
asked and the correction of its request. -/
structure PtpPend where
  kind : PtpTxKind
  port : Nat
  seq : Nat
  requester : Nat
  correction : Int
  stamp : Option Int
deriving DecidableEq, Repr

/-- A two-step Pdelay_Resp that waits for its follow-up (R63): its sequence number, its port, its sender, what the two stamps and its
correction leave of the turn-round, and its receipt time. -/
structure PtpRespPend where
  seq : Nat
  port : Nat
  sender : Nat
  turn : Int
  received : Int
deriving DecidableEq, Repr

/-- A frame on its way to the time base (R105): its port, its bytes from the destination address to the last byte before FCS and
trailer, its raw first stamp, and that stamp corrected (R87, R88). -/
structure PtpFrame where
  port : Nat
  bytes : List Byte
  stamp : Nat
  rx : Int
deriving DecidableEq, Repr

/-- What a PTP slot keeps of one of its ports (R63): the mean path delay measured there, origin and receipt of the last Sync with the
corrections, a two-step Sync and a two-step Pdelay_Resp that wait for their follow-ups. -/
structure PtpPath where
  delay : Int := 0
  syncT1 : Int := 0
  syncT2 : Int := 0
  syncPend : Option (Nat × Int × Int) := none
  respPend : Option PtpRespPend := none
deriving DecidableEq, Repr

/-- One source slot (R59 to R73): its state; its source clock as the phase offset to DT and the rate ratio at the last measurement,
with the time of that; its last residuals, newest first (at most 16), its runs of good and bad residuals, since when it is LOCKED,
its quality term, and, for PTP, what the slot keeps of masters, of each port, of messages under way and of the Sync interval. Reset: R96,
every slot DISABLED. -/
structure Src where
  st : SrcSt := .disabled
  offset : Int := 0
  ratio : Rat := 1
  lastMeas : Nat := 0
  resids : List Nat := []
  okRun : Nat := 0
  badRun : Nat := 0
  lockedAt : Option Nat := none
  extraNs : Nat := 0
  foreign : List Foreign := []
  master : Option Nat := none
  masterIp : Word := 0
  masterMac : Nat := 0
  gotSync : Bool := false
  syncLog : Int := 0
  paths : List PtpPath := [{}, {}, {}, {}, {}, {}]
  nextSeq : Nat := 0
  ipId : BitVec 16 := 0
  txPend : List PtpPend := []
deriving DecidableEq, Repr

/-- The grid being delivered (R93, R94): its rate (0: none) and the next instant not yet delivered, by TAI second and k. -/
structure Grid where
  rate : Nat := 0
  sec : Nat := 0
  k : Nat := 0
deriving DecidableEq, Repr

/-- The time base. DT itself is `State.dt`. `grids` lists the grids that have run, newest first, as start second and rate; `tqHist` the
time-quality words of the last instants, newest first; `passed` are those of them that a forward step has passed, `lastOnTime` the last
that none has (R32, R397); `leftLocked` is when DT last left LOCKED (R324), `lateTo` the time up to which
a forward step has passed what is scheduled (R32); `slewFrom` is when the offset that a slew removes was taken, and `slewOff` that offset (R79), `ptpQueue` the
frames on their way to the PTP slots, oldest first (R105). -/
structure Tb where
  src : List Src := [{}, {}, {}, {}, {}, {}]
  dtState : DtSt := .freeRun
  active : Nat := 6
  everActive : Bool := false
  leftLocked : Option Nat := none
  slewing : Bool := false
  slewFrom : Nat := 0
  slewOff : Int := 0
  holdUnc : Nat := 0xFFFFFFFF
  xchkFail : Bool := false
  leapMismatch : Bool := true
  leap : List (Nat × Int) := [(0, 37)]
  leapPending : Option (List (Nat × Int)) := none
  leapErr : Bool := false
  setPending : Option Int := none
  secsSet : Bool := false
  grid : Grid := {}
  grids : List (Nat × Nat) := []
  nextRate : Option Nat := none
  lastSec : Nat := 0
  lastInstant : Nat := 0
  tq : BitVec 16 := 0x7F
  tqHist : List (Nat × BitVec 16) := []
  passed : List Nat := []
  lastOnTime : Nat := 0
  stepSince : Bool := false
  lateTo : Nat := 0
  ref10mLost : Bool := false
  ptpQueue : List PtpFrame := []
deriving DecidableEq, Repr

/-! ### Network ports (chapter 03) -/

/-- Link states (R100). -/
inductive LinkSt where
  | disabled | down | training | up | fault
deriving DecidableEq, Repr

/-- The transmit queues of R111, in priority order. -/
inductive TxClass where
  | alarm | ptp | out | host
deriving DecidableEq, Repr

/-- A PTP message as the time base sends it (R65). `time` is the timestamp it carries, `turn` the corrected receive stamp of the request
that a one-step response answers, until the response goes on the wire (R88). -/
structure PtpTx where
  slot : Nat
  port : Nat
  kind : PtpTxKind
  udp4 : Bool
  dstMac : Nat
  srcMac : Nat
  dstIp : Word
  srcIp : Word
  ttl : Nat
  dscp : Nat
  ipId : Nat
  twoStep : Bool
  unicast : Bool
  seq : Nat
  domain : Nat
  sdoId : Nat
  requester : Nat
  time : Int
  correction : Int
  turn : Option Int
deriving DecidableEq, Repr

/-- What a transmitted frame holds: bytes from the destination address to the last byte before the FCS, or a PTP message. -/
inductive TxBody where
  | raw (bytes : List Byte)
  | ptp (m : PtpTx)
deriving DecidableEq, Repr

/-- A frame offered to a port or queued on it. `len` counts from the destination address to the FCS; `order` is the order of
enqueue (R113); `job` names the host send a segment belongs to, and which of its segments it is (R114). -/
structure TxFrame where
  cls : TxClass
  len : Nat
  body : TxBody
  order : Nat := 0
  job : Option (Nat × Nat) := none
deriving DecidableEq, Repr

/-- An entry of a PRP pair's duplicate table (R115). -/
structure PrpEntry where
  src : Nat
  seq : Nat
  lanB : Bool
  at_ : Nat
deriving DecidableEq, Repr

/-- One port (R100 to R119): its link state and since when it is UP, whether lock or synchronisation is held, its status bits, the end
of its pause interval, the bytes held in its receive buffer, its four queues and the frame on the wire with its start; on an even port also its PRP
pair's sequence number and duplicate table, oldest entry first. Reset: R117. -/
structure Port where
  link : LinkSt := .disabled
  upSince : Nat := 0
  lock : Bool := false
  anDone : Bool := false
  speedErr : Bool := false
  hiBer : Bool := false
  localFault : Bool := false
  remoteFault : Bool := false
  pausedUntil : Option Nat := none
  rxHeld : Nat := 0
  qAlarm : List TxFrame := []
  qPtp : List TxFrame := []
  qOut : List TxFrame := []
  qHost : List TxFrame := []
  wire : Option TxFrame := none
  wireFrom : Nat := 0
  prpSeq : Nat := 0
  prpTable : List PrpEntry := []
deriving DecidableEq, Repr

/-- The ports, and the frames that units have offered and no port has taken yet, oldest first, with the port each names; `past` holds
the writes of the last millisecond to registers that a frame uses as they stood at its start (R88, R118), oldest first: the DT of
the write, the register and its value before. -/
structure Mac where
  port : List Port := [{}, {}, {}, {}, {}, {}]
  offers : List (Nat × TxFrame) := []
  alarmOffers : List (Nat × TxFrame) := []
  order : Nat := 0
  past : List (Nat × Nat × Word) := []
deriving DecidableEq, Repr

/-! ### Frame intake and berth directory (chapter 04) -/

/-- A directory bank (R126 to R128): stream table, block map and berth entries, as words by byte offset; a word not listed
is zero. Reset: zero (R145). -/
structure Bank where
  streams : List (Nat × Word) := []
  blocks : List (Nat × Word) := []
  berths : List (Nat × Word) := []
deriving DecidableEq, Repr

/-- A frame in the intake queue (R121): its listener, its origin (0 to 5 a port, 6 injected), its source, its UDP payload
(from SYNC to CHK), whether its UDP checksum is zero or right, its arrival time and, for an injected frame, the manifest
that carried it (R124); for a port frame also where it was sent and the frame itself (R105, R146). -/
structure InFrame where
  listener : Nat
  origin : Nat
  srcIp : Word
  srcPort : Nat
  payload : List Byte
  csumOk : Bool
  arrival : Nat
  mid : Option Nat
  dstIp : Word := 0
  dstPort : Nat := 0
  whole : List Byte := []
deriving DecidableEq, Repr

/-- Frame intake and the directory (R120 to R147). `other` is the bank that is not LIVE: STAGE, or OLD while `oldHeld`.
`eff` is E (R141), once it is fixed,
with its second and index; `copying`, `validating` and `pending` the steps of an update; `commitHold` says that PENDING is held by
an accepted commit (R142). Per-berth counters are words by byte offset of window table 3 (R144). `served` lists the banks that an apply
has brought in under each set, with the set's generation and E, so that what one of them has moved stays unobserved until a commit
(R213, R261). -/
structure Bin where
  live : Bank := {}
  other : Bank := {}
  pending : Bool := false
  oldHeld : Bool := false
  copying : Bool := false
  validating : Bool := false
  commitHold : Bool := false
  dirErr : Nat := 0
  eff : Option Nat := none
  effSec : Nat := 0
  effK : Nat := 0
  cnt : List (Nat × Word) := []
  served : List (Nat × Nat × Bank) := []
  fifo : List Nat := []
  intakeQ : List InFrame := []
deriving DecidableEq, Repr

/-! ### Alignment and quays (chapter 05) -/

/-- The values of one berth in a quay (R131, R148): lanes, frequency, ROCOF, analog slots and digital slots with their
placement (R128), the status word (R136) and the measurement instant of the value (R132). -/
structure Entry where
  status : DWord
  phasors : List (Word × Word)
  freq : Word
  rocof : Word
  analogs : List Word
  digitals : List (BitVec 16)
  laneBase : Nat
  anBase : Nat
  dgBase : Nat
  phCurrent : Word
  fnom50 : Bool
  measured : Nat
deriving DecidableEq, Repr

/-- A block as intake hands it off (R138): its berth, its entry, its target instant, its arrival time and DT at the hand-off (R155). -/
structure DataBlock where
  berth : Nat
  entry : Entry
  sec : Nat
  k : Nat
  rate : Nat
  arrival : Nat
  handedAt : Nat
deriving DecidableEq, Repr

/-- Quay states (R153). -/
inductive QuaySt where
  | open_ | provisional | settled | sealed
deriving DecidableEq, Repr

/-- A detector's record in a quay header (R151) and what alignment keeps beside it: whether a task has started
(R164), the outcome that has been decided and is not yet complete (R170), the values used at the snapshot (R166), and the
entries that stood at settlement (R173). -/
structure Det where
  quorum : Bool := false
  incomplete : Bool := false
  quorumCov : Nat := 0
  settleCov : Nat := 0
  snapCount : Nat := 0
  outcome : Nat := 0
  chgCov : Nat := 0
  maxMag : Nat := 0
  maxAng : Nat := 0
  maxDf : Nat := 0
  maxDrf : Nat := 0
  digChg : Bool := false
  nanChg : Bool := false
  lateChange : Bool := false
  quorumAt : Nat := 0
  settledAt : Nat := 0
  routedAt : Nat := 0
  started : Bool := false
  routed : Option Nat := none
  chg : List Nat := []
  used : List (Nat × Entry) := []
  atSettle : List (Nat × Entry) := []
deriving DecidableEq, Repr

/-- A quay (R148 to R152): the fixed header fields, the detector records, the LATE bitmap, the counts that are not computed
from the entries, and the entries by berth, in ascending order; a berth not listed has the status word zero. `slot` is the
SRAM slot it holds (R175); `sealing` that its seal instant has come and `spilling` that it is to be spilled (R177, R178), `copy` the tug
channel of the copy under way (R41), `retried` that this copy has been tried again and `failed` that a second try has failed (R180);
`settling` that settlement has begun; `lateBlocks` the berths of the late blocks accepted, in order (R290); `useGen` the generation of the set that serves it, which is `cfgGen` unless the commit that was to
make that set active has been withdrawn. -/
structure Quay where
  seq : Nat
  sec : Nat
  k : Nat
  rate : Nat
  instant : Nat
  state : QuaySt := .open_
  spilled : Bool := false
  stepped : Bool := false
  lateChange : Bool := false
  settleDone : Bool := false
  guardMiss : Bool := false
  sealErr : Bool := false
  tq : BitVec 16 := 0
  windowMs : Nat := 0
  sealDelay : Nat := 0
  dirGen : Nat := 0
  cfgGen : Nat := 0
  gridStart : Nat := 0
  writeCount : Nat := 0
  opened : Nat := 0
  settleStart : Nat := 0
  sealedAt : Nat := 0
  sealCrc : Word := 0
  det : List Det := [{}, {}, {}, {}]
  late : List Nat := []
  lateAccepted : Nat := 0
  lateBlocks : List Nat := []
  duplicate : Nat := 0
  entries : List (Nat × Entry) := []
  slot : Option Nat := none
  spilling : Bool := false
  sealing : Bool := false
  settling : Bool := false
  retried : Bool := false
  failed : Bool := false
  copy : Option Nat := none
  useGen : Nat := 0
deriving DecidableEq, Repr

/-- Alignment (R148 to R189): the quays held, in the order of their sequence numbers; the blocks in the input queues of the alignment
engines, oldest first (R138, R182); the last instant whose event alignment saw, and since when the conditions of R154 hold. -/
structure Aln where
  ringSet : Bool := false
  nextSeq : Nat := 0
  newestInstant : Option Nat := none
  eventSeen : Option Nat := none
  readySince : Option Nat := none
  quays : List Quay := []
  input : List DataBlock := []
deriving DecidableEq, Repr

/-! ### Oscillation unit (chapter 06) -/

/-- A mode of a group's list (R199 to R202). Values that the manual gives as FP32 are the 32-bit words; `shape` is the mode's
shape by group index, `refRaw` C × v at its reference signal before the division, `gain` the observer gain by group index, `eigen` the
eigenvalue z; `persist` the update quays folded in a row on which its conditions of R208 held; `hist` its frequency and
damping at the last 8 matched extractions, newest first. -/
structure Mode where
  modeId : Nat
  freq : Word
  damp : Word
  energyShare : Word
  fstd : Word
  dstd : Word
  conf : Nat
  age : Nat
  refSig : Nat
  shape : List (Word × Word)
  refRaw : Rat × Rat
  gain : List (Rat × Rat)
  eigen : Rat × Rat
  persist : Nat
  hist : List (Word × Word)
deriving DecidableEq, Repr

/-- A mode as an evaluation reports it (R202, R223). -/
structure OscModeOut where
  mode : Mode
  amp : Word
  band : Nat
  area : Nat
  areaConf : Nat
deriving DecidableEq, Repr

/-- A decision of the oscillation unit (R208, R224). -/
structure OscDec where
  kind : Nat
  status : Nat
  severity : Nat
  incomplete : Bool
  sevChg : Bool
  key : Nat
  freq : Word
  damp : Word
  amp : Word
  conf : Nat
  lead : Nat
  nmeet : Nat
  srcArea : Nat
  cls : Nat
  srcConf : Nat
  ratio : Word
  decId : Nat
deriving DecidableEq, Repr

/-- A band of a signal (R204): the memory of its band-pass filter, its energy E and its baseline B. -/
structure OscBandSt where
  mem : List Word := []
  e : Word := 0
  b : Word := 0
deriving DecidableEq, Repr

/-- A signal's chain (R194, R204): the memories of its low-pass and its high-pass filter, its last decimated sample, its bands. -/
structure OscSigSt where
  lp : List Word := []
  hp : List Word := []
  sample : Word := 0
  bands : List OscBandSt := []
deriving DecidableEq, Repr

/-- A branch in a band (R206): the memories of the band-pass filters of P, Q, θ and ln U, the last outputs of the last two, and W. -/
structure OscFlowSt where
  mem : List (List Word) := []
  last : Option (Word × Word) := none
  w : Word := 0
deriving DecidableEq, Repr

/-- A mode group's committed state (R193 to R202, R216). `sigs` are its signals' chains by group index, `flows` its branches in the
bands, by branch and band; `model` stands for the identification, of which the manual names the method; `key` and `bandKey` are the
settings a change of which
restarts the group or its bands (R212), `epoch` and `bandEpoch` how many such changes it has taken in, `gridStart` the grid it belongs to; `persist` counts, by band, the update quays folded in a
row on which a signal met it; `obsFrac` holds observed and all signals of the last 8 folds, newest first; `angles` the last
unwrapped angle (rad) of each ANGLE signal and branch (R191). `me` is the modal engine that ran the group last, 31 for none. -/
structure OscGroup where
  started : Bool := false
  epoch : Nat := 0
  bandEpoch : Nat := 0
  key : List Nat := []
  bandKey : List Nat := []
  gridStart : Nat := 0
  sigs : List OscSigSt := []
  flows : List (Nat × Nat × OscFlowSt) := []
  model : Nat := 0
  modes : List Mode := []
  nextModeId : Nat := 0
  persist : List Nat := []
  baseSeq : Nat := 0
  folds : Nat := 0
  obsFrac : List (Nat × Nat) := []
  angles : List (Nat × Rat) := []
  extractFail : Bool := false
  decCounter : Nat := 0
  me : Nat := 31
deriving DecidableEq, Repr

/-- An evaluation of a group on a quay (R197, R202, R208): what its record shows. -/
structure OscEval where
  seq : Nat
  group : Nat
  base : Nat
  gap : Nat
  obs : Nat
  nsig : Nat
  lowObs : Bool
  stale : Bool
  failed : Bool
  restarted : Bool
  modes : List OscModeOut
  decs : List OscDec
deriving DecidableEq, Repr

/-- The quays that a settlement (TYPE 2) or a fold (TYPE 3) of a group on a quay reads, as they stood when its task started (R27, R192). -/
structure OscRead where
  seq : Nat
  group : Nat
  typ : Nat
  quays : List Quay
deriving DecidableEq, Repr

/-- A restart that a commit brings a group from its effective instant on: of the whole group, or of its bands and flows (R212). -/
structure OscRestart where
  group : Nat
  eff : Nat
  bands : Bool
deriving DecidableEq, Repr

/-- The oscillation unit (R190 to R227): the groups that hold a state, by number; their checkpoints, by group, with the staging block
(R196); the bases taken at a snapshot or at the start of a settlement task, by quay and
group (R197); provisional evaluations not yet settled; the ring's records that still stand, as first line and length, oldest
first (R221); settlements, folds and extractions that wait to run; what settlement and fold tasks that have started read (R192); and the
restarts that commits have brought (R212). -/
structure Osc where
  groups : List (Nat × OscGroup) := []
  checkpoints : List (Nat × Nat × OscGroup) := []
  bases : List (Nat × Nat × OscGroup) := []
  prov : List OscEval := []
  records : List (Nat × Nat) := []
  settleDue : List (Nat × Nat) := []
  foldDue : List (Nat × Nat) := []
  extractDue : List Nat := []
  reads : List OscRead := []
  restarts : List OscRestart := []
deriving DecidableEq, Repr

/-! ### Islanding unit (chapter 07) -/

/-- The status of a branch in an evaluation or in the committed state (R231 to R234, R249, R268): effective status, current
status (0 OPEN, 1 CLOSED, 2 none), and whether it is known, came from a conflict or had the raw status UNKNOWN. -/
structure IslBranch where
  closed : Bool
  cur : Nat
  known : Bool
  conflict : Bool
  rawUnknown : Bool
deriving DecidableEq, Repr

/-- A component of an island list (R235 to R246): its nodes in ascending order and what its island line shows; a frequency, DF or
SLIP that is NaN is none. `isNew` tells that this evaluation issued its ID, `membNew` that its node set is not that of the
reference entry with its ID. -/
structure IslComp where
  id : Nat
  nodes : List Nat
  main : Bool
  energised : Bool
  weight : Rat
  freq : Option Rat
  df : Option Rat
  slip : Option Rat
  evidence : Nat
  conf : Nat
  nMeas : Nat
  nCut : Nat
  nCutKnown : Nat
  nOutlier : Nat
  nClust : Nat
  incoherent : Bool
  incConf : Nat
  anchor : Option Nat
  event : Nat
  parent : Nat
  isNew : Bool
  membNew : Bool
deriving DecidableEq, Repr

/-- A decision of the islanding unit (R247, R266), with the node set it was issued for. -/
structure IslDec where
  kind : Nat
  status : Nat
  severity : Nat
  incomplete : Bool
  sevChg : Bool
  membChg : Bool
  key : Nat
  event : Nat
  evidence : Nat
  conf : Nat
  nodes : List Nat
  weight : Rat
  df : Option Rat
  slip : Option Rat
  nClust : Nat
  decId : Nat
deriving DecidableEq, Repr

/-- An evaluation of a quay (R230 to R246): its island list, what the header of its record shows, and what a fold makes of it: the
statuses of the branches, the components, the main anchor, the angles u, the observed measured nodes and the energised nodes. -/
structure IslEval where
  comps : List IslComp
  nComp : Nat
  changed : Nat
  unknown : Nat
  conflicts : Nat
  full : Bool
  ovf : Bool
  noMain : Bool
  stale : Bool
  restarted : Bool
  base : Nat
  gap : Nat
  branches : List (Nat × IslBranch)
  groups : List (List Nat)
  anchor : Option Nat
  u : List (Nat × Rat)
  observed : List Nat
  live : List Nat
deriving DecidableEq, Repr

/-- The island list of one quay (R243): its list, the keys that carried an ISLAND or DEENERGISED decision, whether it is the
settled list, and whether the quay was evaluated (an INCOMPLETE_SKIPPED quay takes its reference list, R251). -/
structure IslList where
  seq : Nat
  settled : Bool
  evaluated : Bool
  comps : List IslComp
  decided : List Nat
deriving DecidableEq, Repr

/-- A provisional evaluation waiting for its settlement (R250, R251). -/
structure IslProv where
  seq : Nat
  eval : IslEval
  decs : List IslDec
deriving DecidableEq, Repr

/-- The current membership of an island (R263): its ID, the quay and the byte position of the list written last, and its nodes. -/
structure IslMemb where
  id : Nat
  seq : Nat
  pos : Nat
  nodes : List Nat
deriving DecidableEq, Repr

/-- The committed state of the islanding unit (R249, R252): statuses, components and their spanning forest, baselines, main anchor,
BASE_SEQ with its instant and grid, the tables it was made on, how many changes of the tables it has taken in (R260), and what the last
fold showed (R268). -/
structure IslState where
  started : Bool := false
  epoch : Nat := 0
  branches : List (Nat × IslBranch) := []
  hasLabels : Bool := false
  groups : List (List Nat) := []
  forest : List Nat := []
  baselines : List (Nat × Rat) := []
  anchor : Option Nat := none
  baseSeq : Nat := 0
  baseInstant : Nat := 0
  gridStart : Nat := 0
  tables : List (Nat × Word) := []
  listed : List IslComp := []
  observed : List Nat := []
  live : List Nat := []
  nComp : Nat := 0
  noMain : Bool := false
deriving DecidableEq, Repr

/-- What a provisional (TYPE 1), settlement (TYPE 2) or fold task (TYPE 3) on a quay reads, as it stood when the task started: the quay
(R229, R252) and the island lists of earlier quays (R243). -/
structure IslRead where
  seq : Nat
  typ : Nat
  quay : Quay
  prior : List IslList
deriving DecidableEq, Repr

/-- The islanding unit (R228 to R269): the committed state, the bases fixed at a snapshot (R249), the island lists held, newest
first, provisional evaluations not yet settled, the counters of IDs and decisions, the records and memberships that still
stand in the rings, the settlements and folds that wait to run, the checkpoint with its staging block (R252), by quay, newest first, the
graph engine that ran its task last (R253), what the tasks that have started read (R229, R243), and the effective instants of the
commits that changed the tables (R260). -/
structure Isl where
  com : IslState := {}
  bases : List (Nat × IslState) := []
  lists : List IslList := []
  prov : List IslProv := []
  nextId : Nat := 1
  nextDec : Nat := 0
  records : List (Nat × Nat) := []
  membs : List IslMemb := []
  membRing : List (Nat × Nat) := []
  settleDue : List Nat := []
  foldDue : List Nat := []
  checkpoint : Option (Nat × IslState) := none
  engines : List (Nat × Option Nat) := []
  reads : List IslRead := []
  changes : List Nat := []
deriving DecidableEq, Repr

/-! ### Alarm unit and output composer (chapter 08) -/

/-- What an input on the ALM channel is (R270, R275). -/
inductive AlmOp where
  | provisional | confirmed | settledNew | retracted | settle | raise | clear
deriving DecidableEq, Repr

/-- An input on the ALM channel (R270): its identity, its severity, and, for a decision, its DEC_ID, quay SEQ, CONF and
EVENT; `outcome` is that of a settle notice, which names its quay in `quaySeq`. -/
structure AlmInput where
  op : AlmOp
  src : Nat
  sub : Nat
  kind : Nat
  key : Nat
  sev : Nat
  decId : Nat := 0
  quaySeq : Nat := 0
  conf : Nat := 0
  event : Nat := 0
  outcome : Nat := 0
deriving DecidableEq, Repr

/-- Alarm states (R274, R286). -/
inductive AlmSt where
  | free | prov | conf | retracted | cleared
deriving DecidableEq, Repr

/-- A slot of the alarm table (R274, R286). `rule` is its class, with the first four bytes of the rule in `rule0` and its
PIN_MASK, kept since a slot keeps its class until it leaves CONF or PROV (R278); `quays` are the quays of its matching settled
decisions and QUORUM raises, newest first, as many as a ring holds (R270, R275), `provIds` the DEC_IDs it has received as PROVISIONAL and not yet resolved, `moved` the DT of its last transition. -/
structure AlmSlot where
  st : AlmSt := .free
  src : Nat := 0
  sub : Nat := 0
  kind : Nat := 0
  key : Nat := 0
  rule : Nat := 0
  rule0 : Word := 0
  pinMask : Nat := 0
  overflow : Bool := false
  acked : Bool := false
  clearPend : Bool := false
  clearHeld : Bool := false
  gen : Nat := 0
  decId : Nat := 0
  quaySeq : Nat := 0
  conf : Nat := 0
  event : Nat := 0
  provOpen : Nat := 0
  provIds : List Nat := []
  sevP : Nat := 0
  sevS : Nat := 0
  miss : Nat := 0
  quays : List Nat := []
  at_ : Nat := 0
  moved : Nat := 0
  changes : Nat := 0
deriving DecidableEq, Repr

/-- A message of which repeat copies are still to be sent (R285): its UDP payload, the copies left, and when the last one was
sent. -/
structure AlmRepeat where
  payload : List Byte
  left : Nat
  at_ : Nat
deriving DecidableEq, Repr

/-- A destination (R283 to R285): its last SEQ, the entries of the message being gathered with the DT of the first, the
messages still to be repeated, and when its last message was sent. -/
structure AlmDest where
  seq : Nat := 0
  entries : List (List Byte) := []
  firstAt : Nat := 0
  repeats : List AlmRepeat := []
  lastAt : Nat := 0
  handover : Bool := true
  tableFull : Bool := false
deriving DecidableEq, Repr

/-- A lighthouse pin (R279 to R281): whether it is at its active level, the end of its pulse, and the level it is driven to (none:
high impedance). -/
structure Pin where
  active : Bool := false
  pulse : Option Nat := none
  high : Option Bool := none
deriving DecidableEq, Repr

/-- The alarm unit (R270 to R286): inputs waiting on the ALM channel, oldest first; the slots that differ from a FREE slot with
GEN 0, by number; the destinations; the pins, driven once a configuration set is active and held
within a takeover (R472). -/
structure Alm where
  input : List AlmInput := []
  slots : List (Nat × AlmSlot) := []
  dest : List AlmDest := [{}, {}, {}, {}]
  pins : List Pin := [{}, {}, {}, {}, {}, {}, {}, {}, {}, {}, {}, {}, {}, {}, {}, {}]
  pinsDriven : Bool := false
  pinsHold : Bool := false
deriving DecidableEq, Repr

/-- What the composer keeps of a stream (R287 to R293): the DEPTH last sent, the SEQ of the last frame queued, and the SETTLED
frames sent of quays that are not yet sealed, each with how many late blocks its quay had accepted by then. -/
structure OutStream where
  depth : Nat := 0
  last : Nat := 0
  framed : Bool := false
  sent : List (Nat × Nat) := []
deriving DecidableEq, Repr

/-- The output composer (R287 to R298). -/
structure Outp where
  str : List OutStream := [{}, {}, {}, {}, {}, {}, {}, {}]
deriving DecidableEq, Repr

/-! ### Front end (chapter 09) -/

/-- A sample set as the estimator, metering and capture take it (R305, R311): its label and release, whether it carries a
cycle mark, the measured frequency of its cycle, its 24 values in V or A, and, by channel, CLIP, STUCK and SETTLING; with the
state of the tracker and the calibration generation it was made with. -/
structure FeSet where
  label : Nat
  release : Nat
  mark : Bool
  fm : Rat
  per : Nat
  vals : List Word
  clip : BitVec 24
  stuck : BitVec 24
  settling : BitVec 24
  swapped : BitVec 24
  freqRange : Bool
  refState : Nat
  scs : Bool
  calGen : Word
  stepped : Bool
  bankSeq : Nat
deriving DecidableEq, Repr

/-- A ping-pong group (R317 to R320): sets in the filling bank, which bank fills, whether the estimator still holds the
completed one, SEQ, the completed bank's set count, the first label and the periods of each bank, the number of overruns'
overwritten bank, and the words of both banks by byte offset (a word not listed is zero). -/
structure FeGroup where
  count : Nat := 0
  fill1 : Bool := false
  held : Bool := false
  seq : Word := 0
  seqNat : Nat := 0
  doneSets : Nat := 0
  doneTs : Nat := 0
  donePer : List Nat := []
  fillTs : Nat := 0
  fillPer : List Nat := []
  overwritten : List Nat := []
  words : List (Nat × Word) := []
deriving DecidableEq, Repr

/-- A channel (R301 to R304, R316): its conditions; the length of the run of equal bits that ends its stream (1,024 at most) and their
level; what each decimating stage holds, newest first, the sinc³ output and the raw tap; the values of the raw tap less e, newest first
(128 at most); the DC estimate e, what it moves by per sample, the second it has seen, the sum and the number of the samples of that
second and of the seconds before it; until when the level freeze and SETTLING hold. -/
structure FeChan where
  clip : Bool := false
  stuck : Bool := false
  run : Nat := 0
  level : Bool := false
  sinc : List Rat := []
  sincOut : Rat := 0
  half1 : List Rat := []
  half2 : List Rat := []
  half3 : List Rat := []
  tap : Rat := 0
  out : List Rat := []
  dcb : Rat := 0
  dcbStep : Rat := 0
  dcbSec : Nat := 0
  dcbSum : Rat := 0
  dcbNum : Nat := 0
  dcbPast : List (Nat × Rat × Nat) := []
  frozenTill : Nat := 0
  dcbFrozen : Bool := false
  settleTill : Nat := 0
deriving DecidableEq, Repr

/-- The front end (R299 to R334). `set` is the configuration set in force since the last mark, `mapSet` the one whose local
map the estimator uses (R316); `pos` the set within the cycle; `hist` the sets the estimator keeps, newest first, at most
8,192; `lpeDone` the last instant served by each map entry; `pllFrom` and `pllTill` the bounds of the 10 ms after a DT step, `aligned`
whether FE_MCLK is aligned (R299), `stepMark` that DT has stepped since the last set; `edge` the number of the next FE_MCLK period
(edges are counted from DT 0), `pins` the levels of the FE_D pins, `outAt` the instant of the newest value behind the DC blocker, `next`
the label of the next set, none before the first; `fresh` the channels that a change at the next mark restarts, as their stages fill for
the sets from that mark on, with the instant of their newest value; `scsMark` the mode in force at the last mark. -/
structure Fe where
  mclk : Bool := false
  aligned : Bool := false
  pllFrom : Nat := 0
  pllTill : Nat := 0
  stepMark : Bool := false
  running : Bool := false
  hasMark : Bool := false
  set : List (Nat × Word) := []
  mapSet : List (Nat × Word) := []
  mapFrom : Option Nat := none
  mapChangedAt : List (Nat × Nat) := []
  setGen : Nat := 0
  scs : Bool := false
  pos : Nat := 0
  fm : Rat := 60
  per : Nat := 0
  mark : Nat := 0
  refState : Nat := 0
  refLost : Bool := false
  altLost : Bool := false
  refOk : Nat := 0
  altOk : Nat := 0
  freqRange : Bool := false
  calPending : Option (BitVec 24 × Nat) := none
  group : List FeGroup := [{}, {}, {}]
  chan : List FeChan := List.replicate 24 {}
  hist : List FeSet := []
  startedAt : Nat := 0
  edge : Nat := 0
  pins : List Bool := List.replicate 24 false
  outAt : Nat := 0
  next : Option Nat := none
  fresh : List (Nat × FeChan) := []
  freshAt : Nat := 0
  scsMark : Bool := false
  lpeDone : List (Nat × Nat) := []
  lpeBlockedTill : Nat := 0
deriving DecidableEq, Repr

/-! ### Metering (chapter 10) -/

/-- A closed cycle on the metering tap (R336): its opening and closing labels, its period, its measured frequency, its sets'
values and the sets of the quarter cycle before it (R337), and the conditions the record flags need. -/
structure MtrCyc where
  open_ : Nat
  close_ : Nat
  n : Nat
  per : Nat
  fm : Rat
  vals : List (List Word)
  before : List (List Word)
  clip : BitVec 24
  stuck : BitVec 24
  nominal : Bool
  scs : Bool
  calSwap : Bool
  calGen : Nat
deriving DecidableEq, Repr

/-- The persistence of one alarm condition (R344): whether it is raised, and its run of cycles towards a change. -/
structure MtrCond where
  raised : Bool := false
  run : Nat := 0
deriving DecidableEq, Repr

/-- What a point has measured in its last cycle and aggregates (R337, R338, R362), as FP32 words. `aggMean` and `secMean` are an aggregate's
means of P, Q, S, PF, FREQ, ANG_I of the three elements and ANG_V of slots 1 and 2; no register of the point block shows them. -/
structure MtrVals where
  rms : List Word := List.replicate 8 0
  pq : List Word := List.replicate 5 0
  angI : List Word := List.replicate 3 0
  angV : List Word := List.replicate 2 0
  agg : List Word := List.replicate 8 0
  sec : List Word := List.replicate 8 0
  aggMean : List Word := List.replicate 10 0
  secMean : List Word := List.replicate 10 0
deriving DecidableEq, Repr

/-- The part of a metering point that a save holds (R348): the eight registers with their residues in units of 2⁻³² mWh, the
demand state of the current interval, the last record's readings and its REC_SEQ. -/
structure MtrKeep where
  energy : List Nat := List.replicate 8 0
  ivStart : Nat := 0
  ivPartial : Bool := true
  impMax : Rat := 0
  expMax : Rat := 0
  secImp : Nat := 0
  secExp : Nat := 0
  secDur : Nat := 0
  secIdx : Nat := 0
  netP : Int := 0
  netQ : Int := 0
  netS : Nat := 0
  lastRead : List Nat := List.replicate 8 0
  recSeq : Nat := 0
deriving DecidableEq, Repr

/-- A metering point (R335 to R359): what a save holds, its last values, the sums of its two aggregates (of the cycle squares and of the
other values), its alarm conditions (overcurrent 0 to 3, undervoltage 4 to 6, overvoltage 7 to 9), the flags gathered for its next record, the
FE_CAL_GEN of its last cycle, and what a restore has left to say (R351, R355). -/
structure MtrPoint where
  keep : MtrKeep := {}
  vals : MtrVals := {}
  aggSum : List Rat := List.replicate 8 0
  aggVal : List Rat := List.replicate 10 0
  aggN : Nat := 0
  secSum : List Rat := List.replicate 8 0
  secVal : List Rat := List.replicate 10 0
  secN : Nat := 0
  secOf : Nat := 0
  cond : List MtrCond := List.replicate 10 {}
  flags : BitVec 32 := 0
  startKnown : Bool := true
  begun : Bool := false
  calGen : Nat := 0
  restart : Bool := false
  resetReq : Bool := false
deriving DecidableEq, Repr

/-- A pulse output (R345 to R347): its residues (2⁻³² mWh), the start of its last pulse, whether it is active, its scheduled
starts in order with whether each was delayed, and SAT. -/
structure MtrPulse where
  resImp : Nat := 0
  resExp : Nat := 0
  last : Option Nat := none
  active : Bool := false
  sched : List (Nat × Bool) := []
  sat : Bool := false
deriving DecidableEq, Repr

/-- A save of the metering state (R348, R349): the points' kept parts, the pulse residues, SAVED_TO, its sequence number, its
PFW bit and the CRC-32C that stands in it. -/
structure MtrSave where
  points : List MtrKeep
  pulses : List (Nat × Nat)
  savedTo : Nat
  seq : Nat
  pfw : Bool
  crc : Nat
deriving DecidableEq, Repr

/-- The metering unit. `set` is the configuration set in force since the last mark (R359); `tap` the closed cycles not yet
taken (R356); `pendSum` those held while frozen (R350); `restored` that R351 has run; `outageDue` that OUTAGE_MS waits for the first cycle
accumulated after it, and `outageFrom` the OUTAGE_START of that restore, none when TIME_LOST was reported there. -/
structure Mtr where
  set : List (Nat × Word) := []
  setGen : Nat := 0
  running : Bool := false
  restored : Bool := false
  outageDue : Bool := false
  outageFrom : Option Nat := none
  refusing : Bool := false
  frozen : Bool := false
  unsavedSrc : Nat := 0
  point : List MtrPoint := [{}, {}, {}]
  pulse : List MtrPulse := List.replicate 6 {}
  tap : List MtrCyc := []
  lastCyc : Option MtrCyc := none
  pendSum : List MtrCyc := []
  lastClose : Nat := 0
  saveSeq : Nat := 0
  lastCopy : Nat := 1
  flashSavedTo : Nat := 0
  flashBusy : Option MtrSave := none
  flashRetry : Bool := false
  recWr : Nat := 0
  bridging : Bool := false
deriving DecidableEq, Repr

/-! ### Capture (chapter 11, R363 to R377) -/

/-- Capture channel states (R363). -/
inductive CapSt where
  | idle | armed | triggered | done | overflow | aborted
deriving DecidableEq, Repr

/-- A block of a capture that is still open (R367), at most one of each reduction: its reduction, the instant of its first entry and its
entries. It takes its BSEQ, and so its place in the ring, when it is closed. -/
structure CapOpen where
  red : Nat
  first : Nat
  period : Nat
  entries : List (List Byte)
  last : Nat
deriving DecidableEq, Repr

/-- A closed block that still stands in the ring (R367, R370): its BSEQ (its ring index follows), when it was closed, and the
instant of its last entry. -/
structure CapBlk where
  bseq : Nat
  closedAt : Nat
  last : Nat
deriving DecidableEq, Repr

/-- A trigger condition that has been detected for a channel (R368): its entry (8 for SWTRIG or a manifest), TYPE, T, the
decoded bus code, and the DT of the detection. -/
structure CapDet where
  ch : Nat
  entry : Nat
  typ : Nat
  at_ : Nat
  code : Nat
  seen : Nat
deriving DecidableEq, Repr

/-- A capture channel (R363 to R374): `covered` is, by reduction, the end of the interval of its last entry
(R371), `full` that the next block would be the first retained one (R372), `holds` the trigger entries whose condition holds now (R368). The configuration fields are those at the ARM. -/
structure CapCh where
  st : CapSt := .idle
  err : Nat := 0
  ovfCause : Nat := 0
  abortRes : Nat := 0
  retrigN : Nat := 0
  armedAt : Nat := 0
  trigAt : Nat := 0
  lastTrig : Nat := 0
  trigEntry : Nat := 0
  swtrig : Bool := false
  trigType : Nat := 0
  busCode : Nat := 0
  preShort : Bool := false
  preAct : Nat := 0
  modeChange : Bool := false
  feStopped : Bool := false
  toutLost : Bool := false
  toutAt : Nat := 0
  cfg : Word := 0
  time : Word := 0
  snap : Word := 0
  tq : BitVec 16 := 0
  gains : List (Word × Word × Word) := []
  opens : List CapOpen := []
  blocks : List CapBlk := []
  bseq : Nat := 0
  startBseq : Nat := 0
  covered : List Nat := [0, 0, 0, 0]
  full : Bool := false
  holds : BitVec 8 := 0
  lastEntry : Nat := 0
deriving DecidableEq, Repr

/-- A request for a trigger pulse (R377): its CODE and the channel that made it. -/
structure TrgReq where
  code : Nat
  ch : Option Nat
deriving DecidableEq, Repr

/-- A trigger line (R375 to R377): whether it is low, held low by another device, STUCK, driven low by this device, and its queued requests;
`driving` is the request whose pulse is on the line. -/
structure TrgLine where
  low : Bool := false
  held : Bool := false
  stuck : Bool := false
  driving : Option TrgReq := none
  queue : List TrgReq := []
deriving DecidableEq, Repr

/-- The capture engine: its channels, its lines, detections not yet taken, the half-cycle RMS values of the last three
half-cycles by channel (newest first), the sums of the half-cycle and the extremes of the cycle under way; `win` holds the trigger
entries of CAP_WIN by byte offset. -/
structure Cap where
  ch : List CapCh := [{}, {}, {}, {}]
  line : List TrgLine := [{}, {}, {}, {}]
  detected : List CapDet := []
  hrms : List (List Word) := []
  win : List (Nat × Word) := []
deriving DecidableEq, Repr

/-! ### Logbook (chapter 11, R378 to R387) -/

/-- An event raised for the logbook and not yet taken by its queue (R381, R383): CLASS, SRC, EVENT, its 16 DETAIL bytes,
its DT, whether DT was LOCKED then, and the note manifest it came from. -/
structure LogRaise where
  cls : Nat
  src : Nat
  event : Nat
  detail : List Byte
  at_ : Nat
  locked : Bool
  mid : Option Nat
deriving DecidableEq, Repr

/-- A logbook record in the tail (R379): its 256 bytes, with its class fields kept beside them for the repeat test. -/
structure LogRec where
  lseq : Nat
  cls : Nat
  src : Nat
  event : Nat
  detail : List Byte
  bytes : List Byte
deriving DecidableEq, Repr

/-- The logbook: raised events, the 128-record queue, losses since the last record, the next LSEQ, the CHAIN of the last
record, the records since and the LSEQ of the last checkpoint, the nonce, the first LSEQ
written since reset, and whether a checkpoint waits for its signature. The tail is retained (`State.backup`). -/
structure Logb where
  raised : List LogRaise := []
  queue : List LogRaise := []
  lostN : Nat := 0
  ringSet : Bool := false
  tailInvalid : Bool := false
  nextSeq : Nat := 0
  oldest : Nat := 0
  chain : List Byte := List.replicate 32 0
  prevChain : List Byte := List.replicate 32 0
  sinceChkpt : Nat := 0
  lastChkpt : Nat := 0
  chkptAt : Nat := 0
  chkptBusy : Bool := false
  startSeq : Nat := 0
  nonce : Option Nat := none
  nonceSeq : Nat := 0
deriving DecidableEq, Repr

/-! ### Key store (chapter 16) -/

/-- Root states (R506). -/
inductive RootSt where
  | blank | present | broken
deriving DecidableEq, Repr

/-- A key slot (R511): TYPE, USAGE, LOCK, its material and its GEN. -/
structure KeySlot where
  typ : Nat := 0
  usage : BitVec 16 := 0
  lock : Bool := false
  material : List Byte := []
  gen : BitVec 16 := 0
deriving DecidableEq, Repr

/-- What a crypto context works for (R516): a settlement record to sign, a checkpoint to sign, or a token to verify; with the
key copied at its start (R518) and, for a verification, the message and the signature. -/
inductive CryptoUse where
  | signRecord (point : Nat) (bytes : List Byte)
  | signCheckpoint (chain : List Byte)
  | verifyLogClear (mid : Nat) (lastSeq : Nat)
  | verifyMtrReset (mid : Nat) (point : Nat)
  | verifyReplace (mid : Nat) (slot : Nat) (new : KeySlot)
  | verifyUnlock (level : Nat)
deriving DecidableEq, Repr

/-- A crypto operation under way (R516, R518): its context and the owner that leases it (R41), its use, the slot of its key, the key it copied (empty while METER_SIGN is being
derived, R510), the message, and the signature to verify. -/
structure CryptoOp where
  ctx : Nat
  owner : Nat
  use : CryptoUse
  slot : Nat
  key : List Byte
  msg : List Byte
  sig : List Byte
deriving DecidableEq, Repr

/-- A slot change that waits for the sealed store (R512): the slot, its new contents and the manifest; `close` says that it is
the change KEY_CLOSE makes. -/
structure KeyWrite where
  mid : Option Nat
  slot : Nat
  new : KeySlot
  close : Bool
deriving DecidableEq, Repr

/-- The key store. Slots that differ from EMPTY with GEN 0, by number; the derivations under way, by slot; the operations that
hold a crypto context; the slot change waiting for the sealed store; the nonce. The root state and PROV_CLOSED are in OTP
(`Hw`). -/
structure Key where
  slots : List (Nat × KeySlot) := []
  deriving_ : List Nat := []
  derivedOk : List Nat := []
  meterMeas : List Byte := []
  meterPub : List Byte := []
  ops : List CryptoOp := []
  writing : Option KeyWrite := none
  storeLost : Bool := false
  trngFail : Bool := false
  nonce : Option Nat := none
  nonceRecSeq : List Nat := [0, 0, 0]
deriving DecidableEq, Repr

/-! ### Pilot, engines, debug port (chapter 12) -/

/-- Task states (R389). -/
inductive TaskSt where
  | free | delayed | ready | running | preempted | waiting
deriving DecidableEq, Repr

/-- How a resumed wait ended (R398). -/
inductive WaitRes where
  | none | event | timeout
deriving DecidableEq, Repr

/-- A task descriptor (R388, R389), with what the lists of R390 and R396 need: the order in which it became READY, or was submitted with
a wake key, the times its head was passed over (R391), its wake key with the DT of its submission or of its wait and the rate of the grid
that an ABS key belongs to (0 while none was known), the DT from which aging counts
(R395), and whether its work is done: its decisions issued, or its fold or extraction made (R216, R254). -/
structure Task where
  st : TaskSt := .free
  gen : Nat := 0
  cls : Nat := 0
  prio : Nat := 0
  owner : Nat := 0
  typ : Nat := 0
  affinity : Option Nat := none
  engine : Option Nat := none
  wake : Option WakeKey := none
  keyRate : Nat := 0
  since : Nat := 0
  timeout : Nat := 0
  quayTag : Nat := 0xFFFFFFFF
  restart : Bool := false
  aged : Bool := false
  late : Bool := false
  order : Int := 0
  passed : Nat := 0
  readySince : Nat := 0
  waitRes : WaitRes := .none
  abortReq : Bool := false
  worked : Bool := false
  arg : Nat := 0
deriving DecidableEq, Repr

/-- The pilot's answers to a submission (R400, R42, R44) and to an abort (R399): of task descriptor `index` with the generation of the
handle, ABORTED when `done` is true, else ALREADY_DONE; `error` is the error response to a handle that does not hold its lease (R43). -/
inductive SubmitRes where
  | accepted (handle : Nat) (gen : Nat)
  | full
  | invalid
  | noLease
  | error
  | abort (index : Nat) (gen : Nat) (done : Bool)
deriving DecidableEq, Repr

/-- A completion as it goes to a task's owner (R389). -/
structure TaskDone where
  owner : Nat
  typ : Nat
  arg : Nat
  quayTag : Nat
  aborted : Bool
deriving DecidableEq, Repr

/-- Rotation states (R401). -/
inductive RState where
  | inService | draining | out | loading | testing | rejoining | fenced
deriving DecidableEq, Repr

/-- One engine (R401, R412): its rotation state, the descriptors it runs and holds pre-empted, its running image, and, for a
fenced one, whether the debug port has it halted (R416). -/
structure Eng where
  rstate : RState := .inService
  running : Option Nat := none
  preempted : List Nat := []
  fwVer : Word := 0
  fwMeas : List Byte := List.replicate 32 0
  halted : Bool := false
  smpWr : Nat := 0
  smpLost : Bool := false
deriving DecidableEq, Repr

/-- A rotation in progress (R403): its engine, its action (1 FIRMWARE, 2 SELFTEST), the manifest that asked for it, the
result it will end with, and the DT at which the engine began to drain. -/
structure Rot where
  engine : Nat
  action : Nat
  mid : Option Nat
  result : Nat
  since : Nat := 0
deriving DecidableEq, Repr

/-- The pilot (R388 to R411): descriptors in use, by index; the orders of READY tasks; tasks units want to submit, oldest
first; the waiting set, by quota (the class, plus 8 for its alarm-class reserve) and owner, and the tasks held there; answers and completions as they went to owners; the control-core roles (R22);
the rotation. -/
structure Plt where
  tasks : List (Nat × Task) := []
  order : Int := 0
  wants : List TaskReq := []
  waitingSet : List (Nat × Nat) := []
  held : List TaskReq := []
  answers : List (Nat × SubmitRes) := []
  resumes : List (Nat × Nat) := []
  done : List TaskDone := []
  roles : List Nat := [0, 1, 2, 3]
  eng : List Eng := List.replicate 32 {}
  rot : Option Rot := none
  rotEngine : Nat := 0
  rotResult : Nat := 0
  rotDone : Bool := false
  lpeEng : Nat := 28
  mtrEng : Nat := 29
  settledOnly : Bool := false
  taskDone : Bool := false
deriving DecidableEq, Repr

/-- A pooled resource that has been leased (R41): its pool (0 quay slots, 1 working blocks, 2 tug channels, 3 crypto contexts,
5 staging blocks; task descriptors, pool 4, are `Plt.tasks` with the generation of their `Task`), its number, the owner that
holds it, and its 8-bit generation. One that is not listed is in its pool with generation 0. -/
structure Lease where
  pool : Nat
  index : Nat
  owner : Option Nat
  gen : BitVec 8
deriving DecidableEq, Repr

/-- JTAG instructions (R413). -/
inductive TapIr where
  | extest | sample | idcode | highz | clamp | nonce | unlock | memap | engdbg | bypass
deriving DecidableEq, Repr

/-- The debug access port (R413 to R417). `dr` is what the next Capture-DR presents; `bsr` the boundary-scan register;
`unlockReq` the level of an unlock whose verification runs; `pinsFromBsr` and `pinsHighz` what EXTEST, CLAMP and HIGHZ do. -/
structure Dbg where
  level : Nat := 0
  ir : TapIr := .idcode
  tapActive : Bool := false
  nonce : Option Nat := none
  dr : Nat := 0
  bsr : List Bool := []
  pinsFromBsr : Bool := false
  pinsHighz : Bool := false
  unlockReq : Option Nat := none
  unlockRes : Nat := 0
  lastEngine : Nat := 0
deriving DecidableEq, Repr

/-! ### Host interface, configuration sets, flash, power states (chapter 13) -/

/-- Ring pair states (R425). -/
inductive RingSt where
  | disabled | running | stopping | error
deriving DecidableEq, Repr

/-- A configuration set (R437): words by key, the key being section TYPE × 2²⁸ + TABLE × 2²⁴ + byte offset; a word not listed
has its factory default (`cfgDefault`). -/
abbrev CfgSet := List (Nat × Word)

/-- What a manifest that an ABORT can still reach after its start has under way (R436), with what its end will find: the set or the image
as it stood at the start (R427), whether the flash or the host buffer takes the write, the verification. -/
inductive LongAct where
  | cfgSave (set : CfgSet) (imageId : Word) (ok : Bool)
  | cfgRead (img : List Byte) (ok : Bool)
  | mtrRead (ok : Bool)
  | fwStage (img : List Byte) (sigOk ok : Bool) (ver : Word)
deriving DecidableEq, Repr

/-- A fetched manifest whose completion has not been queued (R427, R428): its number in this model, its 64 bytes, whether it
has started, the ABORT manifests that wait for it to complete, and the action it has under way (R436). -/
structure Fetched where
  mid : Nat
  bytes : List Byte
  started : Bool := false
  abortedBy : List Nat := []
  act : Option LongAct := none
deriving DecidableEq, Repr

/-- A completion waiting to be written (R429, R432): the number of its manifest, `detail` are bytes 32 and up. -/
structure Completion where
  mid : Nat
  opcode : Nat
  tag : Nat
  irq : Bool
  status : Nat
  detail0 : Nat
  detail : List Byte
  at_ : Nat
deriving DecidableEq, Repr

/-- A delivery (R428, R435): its ring pair, source, data, DETAIL0, bytes 32 and up, and instant. -/
structure Delivery where
  ring : Nat
  source : Nat
  data : List Byte
  detail0 : Nat
  detail : List Byte
  at_ : Nat
  since : Nat := 0
deriving DecidableEq, Repr

/-- One ring pair (R424 to R430). OUTSTANDING (R428) is the length of `fetched` and `done` together. `unreleased` counts the CQ entries written and not yet released by CQ_HEAD. -/
structure Ring where
  st : RingSt := .disabled
  err : Nat := 0
  phase : Bool := false
  sqHead : Nat := 0
  cqTail : Nat := 0
  sqTail : Nat := 0
  cqHead : Nat := 0
  unreleased : Nat := 0
  fetched : List Fetched := []
  done : List Completion := []
  waiting : List Delivery := []
  dropped : Nat := 0
  coalCount : Nat := 0
  coalFrom : Nat := 0
deriving DecidableEq, Repr

/-- A host send under way (R114): how many of its segments, and of the second copies of those that went to both ports of a PRP pair
(R116), are not yet transmitted or dropped; the segments that went to both; the segments of which a copy has been queued, and the
segment of every copy dropped. -/
structure SendJob where
  mid : Nat
  left : Nat
  two : List Nat := []
  queued : List Nat := []
  lost : List Nat := []
deriving DecidableEq, Repr

/-- The PCI Express side (R418, R421, R451): link speed and width codes, Bus Master Enable, D3hot, L1, the subsystem identifiers in the
configuration header (R419), and what the function's configuration space holds of the items of R418: maximum payload and read request
in bytes, extended tags, ECRC generation and checking, the AER uncorrectable status, and the MSI-X function mask (R423). PRESUMED: the
values of the last seven at reset are those of PCI Express Base 4.0 (log entry 129). -/
structure Pcie where
  speed : Nat := 0
  width : Nat := 0
  bme : Bool := false
  d3hot : Bool := false
  l1 : Bool := false
  subVendor : Nat := 0x1FB5
  subId : Nat := 0
  maxPayload : Nat := 128
  maxRead : Nat := 512
  extTag : Bool := true
  ecrcGen : Bool := false
  ecrcChk : Bool := false
  aerStatus : Word := 0
  msixMask : Bool := false
deriving DecidableEq, Repr

/-- The host interface. -/
structure Hif where
  ring : List Ring := List.replicate 16 {}
  deliv : List Delivery := []
  jobs : List SendJob := []
  nextMid : Nat := 0
  lastFetch : Nat := 15
  pcie : Pcie := {}
deriving DecidableEq, Repr

/-- MSI-X (R423): the pending bits, and the ring pairs whose coalescing event falls due in this step. -/
structure Msix where
  pba : BitVec 64 := 0
  due : BitVec 16 := 0
deriving DecidableEq, Repr

/-- A commit that is being validated or waits for its instant (R441): the manifest that asked for it (none for the boot
load), MODE, n, the named instant, E and its index, and the number of skipped sections. -/
structure Commit where
  mid : Option Nat
  modeAbs : Bool
  n : Nat
  absSec : Nat
  absK : Nat
  validated : Bool := false
  eff : Nat := 0
  effSec : Nat := 0
  effK : Nat := 0
  skipped : Nat := 0
  withDir : Bool := false
deriving DecidableEq, Repr

/-- An image in a configuration slot of the flash (R445). -/
structure FlashCfg where
  set : CfgSet
  imageId : Word
  checkOk : Bool
deriving DecidableEq, Repr

/-- A firmware slot (R445, R446): whether it is valid, and the version and measurement of its image. -/
structure FwSlot where
  valid : Bool
  ver : Word
  meas : List Byte
deriving DecidableEq, Repr

/-- A twin saved state (R474): the alarm table as the device saw it, its STREAM_SEQs and DEST_SEQs, EPOCH and ROLE; `order` tells
which of the two slots is newer, `crc` is the CRC-32C that stands in it. -/
structure TwnSave where
  slots : List (Nat × AlmSlot)
  streams : List (Nat × Nat)
  dests : List (Nat × Nat)
  epoch : Nat
  role : Nat
  order : Nat
  crc : Nat
deriving DecidableEq, Repr

/-- The flash (R445): the boot slot, each engine's firmware selection, the subsystem record, the configuration and firmware
slots, the metering saves and records, the twin saved state, and the sealed slot store (R512) with whether its
tag is right. As it leaves manufacture each class holds one image in slot 0, of which the manual gives neither version nor
measurement (DESIGN CHOICE: zero). -/
structure Flash where
  bootSlot : Option Nat := none
  fwSel : List Nat := List.replicate 32 0
  subsys : Option (Nat × Nat) := none
  cfg0 : Option FlashCfg := none
  cfg1 : Option FlashCfg := none
  fw : List (Nat × FwSlot) := [0, 2, 4, 6, 8, 10].map fun i => (i, ⟨true, 0, List.replicate 32 0⟩)
  mtrSave0 : Option MtrSave := none
  mtrSave1 : Option MtrSave := none
  mtrRec : List (Nat × Nat × List Byte) := []
  twin0 : Option TwnSave := none
  twin1 : Option TwnSave := none
  keyStore : List (Nat × KeySlot) := []
  keyStoreOk : Bool := true
deriving DecidableEq, Repr

/-- Configuration sets (R437 to R444): ACTIVE, SHADOW, the sets of earlier generations that quays still use (R184, R260), the
status fields, the instant ACTIVE took effect, and the commit under way. -/
structure Cfg where
  active : CfgSet := []
  shadow : CfgSet := []
  kept : List (Nat × CfgSet) := []
  gen : Nat := 0
  activeFrom : Nat := 0
  activeValid : Bool := false
  defaults : Bool := false
  bootResult : Nat := 0
  bootSlot : Nat := 0
  skipped : Nat := 0
  imageId : Word := 0
  commit : Option Commit := none
  trained0 : Bool := false
  trained1 : Bool := false
deriving DecidableEq, Repr

/-- Sources of a wake (R450, R455). -/
inductive WakeSrc where
  | doorbell | access | event | rtc | pps | trg | pfw
deriving DecidableEq, Repr

/-- An access that waits for an exit (R450): BAR, offset, and the data of a write. -/
structure HeldAccess where
  bar2 : Bool
  off : Nat
  write : Option Word
  master : Nat
deriving DecidableEq, Repr

/-- Power states (R448 to R451): the state's code, whether an exit is under way, and the accesses that wait for it. The
remainder of a millisecond spent in the state feeds the residency counters. -/
structure Pwr where
  state : Nat := 0
  exiting : Bool := false
  d3Blocked : Bool := false
  waiting : List HeldAccess := []
  residSub : Nat := 0
deriving DecidableEq, Repr

/-! ### Twin unit (chapter 14) -/

/-- Roles (R456). -/
inductive Role where
  | solo | wait | joining | active | standby | handing | taking | mismatch
deriving DecidableEq, Repr

/-- A hand-over under way (R469): H, none while no grid gives it (R21), FORCE, the manifest that asked for it, when it was asked for or,
when H came later, when H was fixed, and whether the peer has answered TAKE. -/
structure HandOver where
  h : Option Nat
  force : Bool
  mid : Option Nat
  reqAt : Nat
  taken : Bool := false
deriving DecidableEq, Repr

/-- What a device keeps of a metering record of its own or of its peer, for one point (R464, R476): its END, its first two deltas
when they are known, and READ_0 and READ_1. -/
structure MtrPeer where
  point : Nat
  end_ : Nat
  delta : Option (Nat × Nat)
  read : Nat × Nat
deriving DecidableEq, Repr

/-- The twin unit (R456 to R477). Its EPOCH is retained (`Bkp.epoch`). `roleAt` is the entry into the role, `linkDownAt` the time at
which the last lane went down, `aizBlocked` that the Aizhan path counts as lost until a HELLO (R460), `mirrorOn` that a joining peer
takes items; `mirror` the queue of items waiting to leave (R465), `replay` the standby's replay list (R463), `logCopy` the mirrored
logbook records, newest first; `takeH` the H at which a device that answered TAKE takes over, `takeAt` H or the moment of R468,
`takePending` that a promotion waits for a self-test (R496); `formerActive` the H and the manifest of a hand-over that has passed
the role (R470). -/
structure Twn where
  role : Role := .solo
  roleAt : Nat := 0
  activeSince : Nat := 0
  lane0 : Bool := false
  lane1 : Bool := false
  laneNext : Nat := 0
  linkDownAt : Nat := 0
  aizAlive : Bool := false
  hbAlive : Bool := false
  aizBlocked : Bool := false
  peerLost : Bool := false
  cfgDiff : Bool := false
  mirrorStale : Bool := false
  mirrorOn : Bool := false
  mirrorSync : Bool := false
  dtDiffFlag : Bool := false
  replayOvf : Bool := false
  testEngine : Option Nat := none
  testFail : List Nat := []
  nextTest : Nat := 0
  txFseq : Nat := 0
  peerEpoch : Option Nat := none
  peerFseq : Nat := 0
  peerSeen : List (Nat × Nat) := []
  waitHeard : Bool := false
  helloDue : Bool := false
  replayLost : Nat := 0
  peerRole : Nat := 0
  peerHealth : Word := 0
  peerTime : Word := 0
  peerCheck : Option Nat := none
  dtDiff : Int := 0
  echoTx : Nat := 0
  echoRx : Nat := 0
  hbSeq : Nat := 0
  hbWordSeq : Nat := 0
  lastAizRx : Nat := 0
  lastHbRx : Nat := 0
  lastTime : Nat := 0
  authFails : List Nat := []
  mirror : List (List Byte) := []
  replay : List AlmInput := []
  streamSeq : List (Nat × Nat) := []
  destSeq : List (Nat × Nat) := []
  logCopy : List (List Byte) := []
  peerMtr : List MtrPeer := []
  ownMtr : List MtrPeer := []
  handOver : Option HandOver := none
  takeH : Option Nat := none
  takeAt : Nat := 0
  planned : Bool := false
  endSeen : Bool := false
  takePending : Bool := false
  hoResult : Nat := 0
  hoDone : Bool := false
  hoPlanned : Bool := false
  formerActive : Option (Nat × Option Nat) := none
deriving DecidableEq, Repr

/-! ### Faults and self-test (chapter 15) -/

/-- A fault event on its way to the collector (R481), with the DT at its source. -/
structure FaultReport where
  src : Nat
  cause : Nat
  master : Nat
  access : Nat
  addr : Nat
  at_ : Nat
deriving DecidableEq, Repr

/-- What the collector keeps of a source (R484, R504): its level, with the DT of its last event or of its last fall, whether it is
BROKEN, its last reaction and its events. -/
structure FltSrc where
  level : Nat := 0
  at_ : Nat := 0
  broken : Bool := false
  lastReaction : Nat := 0
  events : Nat := 0
deriving DecidableEq, Repr

/-- A release under way (R492): the owner's code and the manifest that asked for it. -/
structure Release where
  owner : Nat
  mid : Option Nat
deriving DecidableEq, Repr

/-- The first-error record (R481). -/
structure Fer where
  src : Nat
  cause : Nat
  master : Nat
  access : Nat
  addr : Nat
  at_ : Nat
deriving DecidableEq, Repr

/-- The fault collector (R478 to R504): reports waiting, oldest first; the first-error record; the sources that differ from
their reset state, by number; what is fenced; whether a reaction is being handled and which owners it is fencing; `settledReq` that
SETTLED_ONLY is to hold from the next reporting instant, `safePending` that a SAFE_STOP waits for its hand-over, `pinsSafe` that the pins
stand at FLT_SAFE, `assumption` and `dramFailed` that A3 and A2 of R499 are known to have failed, `reinit` the units that take their section at the next instant (R492). -/
structure Flt where
  reports : List FaultReport := []
  fer : Option Fer := none
  merged : Nat := 0
  overflow : Nat := 0
  overflowed : Bool := false
  handling : Bool := false
  fencing : List Nat := []
  srcs : List (Nat × FltSrc) := []
  fencedUnits : List Nat := []
  degraded : Bool := false
  settledReq : Bool := false
  safeStopped : Bool := false
  safePending : Bool := false
  pinsSafe : Bool := false
  assumption : Bool := false
  dramFailed : Bool := false
  release : Option Release := none
  relRes : Nat := 0
  relDone : Bool := false
  reinit : List Nat := []
deriving DecidableEq, Repr

/-- Self-test runs (R493 to R497): whether one runs, its MODE, its slice, its manifest and the BST result; results by slice;
what a shutdown run has found; `stopped` that it has stopped the device, `last` what BST_LAST shows. -/
structure Bst where
  running : Bool := false
  mode : Nat := 0
  slice : Nat := 0
  mid : Option Nat := none
  abort : Bool := false
  result : Nat := 0
  res : List (Nat × Nat) := []
  failed : Nat := 0
  firstFail : Nat := 0
  startAt : Nat := 0
  stopped : Bool := false
  last : Word := 0
deriving DecidableEq, Repr

/-! ### Backup domain (chapter 17), hardware identity and OTP (chapters 01, 16), pins (chapter 18) -/

/-- A value of the RTC (R526): 48-bit TAI seconds and a 15-bit fraction. -/
structure RtcVal where
  sec : Nat := 0
  frac : Nat := 0
deriving DecidableEq, Repr

/-- The backup domain (R522 to R531): nothing in it is changed by a core reset, but for the fields that R538 marks otherwise.
`porSince` says that a backup
power-on reset has come since the last core reset, `valid` that backup SRAM and retained area hold valid contents; `save0` and `save1` the metering copies, `tail` the
logbook tail, oldest first, `bstLast` the shutdown BIST result (R497), `epoch` the twin EPOCH (R460). -/
structure Bkp where
  por : Bool := false
  onVbat : Bool := false
  backupLow : Bool := false
  vbat : Nat := 0
  timeLost : Bool := true
  lowSeen : Bool := true
  bkpPor : Bool := true
  porSince : Bool := true
  switched : Bool := false
  rtc : RtcVal := {}
  wakePeriod : Word := 0
  trim : Word := 0
  halted : Bool := false
  syncEn : Bool := true
  perstScope : Bool := false
  swoAt : RtcVal := {}
  retAt : RtcVal := {}
  valid : Bool := false
  save0 : Option MtrSave := none
  save1 : Option MtrSave := none
  tail : List LogRec := []
  tailOk : Bool := false
  bstLast : Option Word := none
  epoch : Option Nat := none
deriving DecidableEq, Repr

/-- The RTC block's part that a core reset returns to its reset value (R529, R530, R538). -/
structure Rtc where
  shadowFrozen : Bool := false
  shadow : RtcVal := {}
  shadowRead : BitVec 3 := 0
  frozenAt : Nat := 0
  synced : Bool := false
  roll : Nat := 0
  rollOvf : Bool := false
  cause : Nat := 0
  porBefore : Bool := true
deriving DecidableEq, Repr

/-- The three parts of the family (R3). -/
inductive Variant where
  | fn8240 | fn8230 | fn8220
deriving DecidableEq, Repr

/-- What the part and the board fix, and the OTP: the variant and its stepping (R50), the installed DRAM in GiB (R447), the
root state and secret, PROV_CLOSED (R506, R513), the logbook counters behind R384, whether the logbook has written a record since
manufacture (R382), and the straps sampled at the end of the
last core reset (R544). -/
structure Hw where
  variant : Variant := .fn8240
  stepping : Nat := 0
  dramGiB : Nat := 16
  root : RootSt := .present
  rootSecret : List Byte := List.replicate 32 0
  provClosed : Bool := false
  otpLseq : Nat := 0
  otpChain : List Byte := List.replicate 32 0
  logBegun : Bool := false
  straps : BitVec 4 := 0
  ref10mOk : Bool := true
deriving DecidableEq, Repr

/-- What an output pin shows (R542). -/
inductive PinLevel where
  | low | high | highZ
deriving DecidableEq, Repr

/-- Pins that no other structure holds (R535, R542): PFW_N asserted, and whether R360 has released PULSE0 to PULSE5 from high impedance. -/
structure Pins where
  pfw : Bool := false
  pulseDriven : Bool := false
deriving DecidableEq, Repr

/-! ### The whole machine -/

/-- What the block has put out, in order: frames on a port's wire, writes to host memory, message-signalled interrupts,
Aizhan frames, heartbeat words, latency reports and debug-port shifts. -/
inductive Output where
  | frame (port : Nat) (bytes : List Byte) (len : Nat)
  | hostWrite (addr : Nat) (bytes : List Byte)
  | msix (addr : Nat) (data : Word)
  | aizhan (lane : Nat) (bytes : List Byte)
  | hbWord (bits : Nat)
  | tdo (bits : Nat)
deriving DecidableEq, Repr

/-- The reasons a step stops with a fault. No command of this block does: the manual gives an effect to every command. -/
inductive Fault where
  /-- Raised by no meaning; it is here because the outcome needs a fault type with a name. Safe. -/
  | noSuchState
deriving DecidableEq, Repr

/-- The reasons a step refuses a command. -/
inductive Refusal where
  /-- The command has no meaning in this model yet; raised by its arm of `exec`. Safe. -/
  | notModelled (mnemonic : String)
deriving DecidableEq, Repr

/-- The state of the block. `pending` is the queue of commands that wait, first in, first out. `dt` is the device time in
units of 2⁻¹⁶ ns since the PTP epoch (R52, R54). `regs` holds the registers that differ from their reset value, by BAR0
offset; `latch` the halves and words that a read has latched (R16, R97), `hold` the LO halves that wait for their HI write;
`rdata` what the last read returned. `dram` is the DRAM by byte address, without the bytes that are zero. `fresh` counts the
free values taken so far (a model field). -/
structure State where
  pending : List Instr := []
  hw : Hw := {}
  dt : Nat := 0
  regs : List (Nat × Word) := []
  latch : List (Nat × Word) := []
  hold : List (Nat × Word) := []
  rdata : Word := 0
  leases : List Lease := []
  tb : Tb := {}
  mac : Mac := {}
  bin : Bin := {}
  aln : Aln := {}
  osc : Osc := {}
  isl : Isl := {}
  alm : Alm := {}
  outp : Outp := {}
  fe : Fe := {}
  mtr : Mtr := {}
  cap : Cap := {}
  logb : Logb := {}
  plt : Plt := {}
  dbg : Dbg := {}
  hif : Hif := {}
  msix : Msix := {}
  cfg : Cfg := {}
  flash : Flash := {}
  pwr : Pwr := {}
  twn : Twn := {}
  flt : Flt := {}
  bst : Bst := {}
  key : Key := {}
  rtc : Rtc := {}
  bkp : Bkp := {}
  pins : Pins := {}
  dram : List Host.Cell := []
  out : List Output := []
  fresh : Nat := 0
deriving DecidableEq, Repr

/-- The machine right after reset (R537): every unit in the reset state its chapter gives, the queue of commands empty. -/
def State.reset : State := {}

end Sys2Proof.Machine
end

