-- ==== Sys2Proof/Machine/Ops.lean ====
section
/-! DEFINITION. The named operations over registers, pairs, counters, events, DRAM and the channels between units. Every unit
reads and writes them through these. -/

namespace Sys2Proof.Machine

/-! ### Sparse maps in one canonical form -/

/-- The value of a key in a sparse map whose unlisted keys read `d`. -/
def mapGet {α : Type} (d : Nat → α) (m : List (Nat × α)) (k : Nat) : α :=
  match m.find? (fun p => p.1 == k) with
  | some p => p.2
  | none => d k

/-- A pair put into a list at its place by rising key. -/
def mapIns {α : Type} (k : Nat) (v : α) : List (Nat × α) → List (Nat × α)
  | [] => [(k, v)]
  | p :: m => if k < p.1 then (k, v) :: p :: m else p :: mapIns k v m

/-- A sparse map with one key set: no entry for a value an unlisted key reads as. -/
def mapPut {α : Type} [DecidableEq α] (d : Nat → α) (m : List (Nat × α)) (k : Nat) (v : α) : List (Nat × α) :=
  let m' := m.filter (fun p => p.1 != k)
  if v = d k then m' else mapIns k v m'

/-- The canonical form: keys strictly rising, no entry equal to what an unlisted key reads as. -/
abbrev MapWf {α : Type} [DecidableEq α] (d : Nat → α) (m : List (Nat × α)) : Prop :=
  m.Pairwise (fun p q => p.1 < q.1) ∧ ∀ p ∈ m, p.2 ≠ d p.1

/-- A key of a map without default, if it is there. -/
def mapFind {α : Type} (m : List (Nat × α)) (k : Nat) : Option α := (m.find? (fun p => p.1 == k)).map (·.2)

/-- A map without default with one key set. -/
def mapSet {α : Type} (m : List (Nat × α)) (k : Nat) (v : α) : List (Nat × α) :=
  mapIns k v (m.filter (fun p => p.1 != k))

/-- A map without a key. -/
def mapDel {α : Type} (m : List (Nat × α)) (k : Nat) : List (Nat × α) := m.filter (fun p => p.1 != k)

/-! ### DRAM -/

/-- What a byte of DRAM that nothing has written reads as. DESIGN CHOICE: the manual gives DRAM no reset contents. -/
def dramDefault : Nat → Byte := fun _ => 0

/-- The canonical form of DRAM. -/
abbrev Memory.wf (m : List Host.Cell) : Prop := MapWf dramDefault m

/-- One byte of DRAM. -/
def State.dramByte (s : State) (a : Nat) : Byte := mapGet dramDefault s.dram a

/-- Bytes of DRAM from an address. -/
def State.dramRead (s : State) (a n : Nat) : List Byte := (List.range n).map fun i => s.dramByte (a + i)

/-- DRAM with bytes stored from an address. -/
def dramStore : List Host.Cell → Nat → List Byte → List Host.Cell
  | m, _, [] => m
  | m, a, b :: bs => dramStore (mapPut dramDefault m a b) (a + 1) bs

/-- The state with bytes stored in DRAM. -/
def State.dramWrite (s : State) (a : Nat) (bs : List Byte) : State := { s with dram := dramStore s.dram a bs }

/-- The end of the DRAM that rings and regions may use: CFG_RSV_BASE (R447). -/
def State.rsvBase (s : State) : Nat := s.hw.dramGiB * 2 ^ 30 - 512 * 2 ^ 20

/-- Whether a ring or region lies inside the installed DRAM and is 2 MiB aligned (R447, R187). -/
def State.dramFits (s : State) (base size : Nat) : Bool := base % 2 ^ 21 == 0 && base + size ≤ s.rsvBase

/-! ### Registers -/

/-- The value a register holds. -/
def State.reg (s : State) (off : Nat) : Word := mapGet resetAt s.regs off

/-- The state with one register set. -/
def State.setReg (s : State) (off : Nat) (v : Word) : State := { s with regs := mapPut resetAt s.regs off v }

/-- A field [lo + w - 1 : lo] of a register. -/
def State.fld (s : State) (off lo w : Nat) : Nat := bitsOf (s.reg off).toNat lo w

/-- A bit of a register. -/
def State.bit (s : State) (off i : Nat) : Bool := (s.reg off).getLsbD i

/-- A word with one field replaced. -/
def putBits (old : Word) (lo w v : Nat) : Word :=
  (old &&& ~~~(BitVec.ofNat 32 ((2 ^ w - 1) <<< lo))) ||| BitVec.ofNat 32 ((v % 2 ^ w) <<< lo)

/-- The half of a pair that a write of LO has left to the write of HI is in place (R16). -/
def State.takeHeld (s : State) (lo : Nat) : State :=
  match mapFind s.hold lo with
  | some v => ({ s with hold := mapDel s.hold lo }).setReg lo v
  | none => s

/-- The state with one field of a register set. -/
def State.setFld (s : State) (off lo w v : Nat) : State := s.setReg off (putBits (s.reg off) lo w v)

/-- The state with one bit of an event register set (R17: the set wins). -/
def State.event (s : State) (off i : Nat) : State := s.setReg off (s.reg off ||| BitVec.ofNat 32 (2 ^ i))

/-- A word with each clamped field at the nearest end of its range (R97). -/
def clampWord (cs : List Clamp) (v : Word) : Word :=
  cs.foldl (fun v c => putBits v c.lo c.width (max c.min (min c.max (bitsOf v.toNat c.lo c.width)))) v

/-- A register written by the bits its row lets a write set, with its clamps (R17). -/
def State.writeReg (s : State) (off : Nat) (v : Word) : State :=
  match rowAt off with
  | some r =>
    let m := BitVec.ofNat 32 r.rw
    s.setReg off (clampWord r.clamps ((s.reg off &&& ~~~m) ||| (v &&& m)))
  | none => s

/-- A register's value as a signed number. -/
def State.sreg (s : State) (off : Nat) : Int := (s.reg off).toInt

/-- A 64-bit value in a LO register and the HI register after it (R16). -/
def State.reg64 (s : State) (lo : Nat) : Nat := (s.reg lo).toNat + 2 ^ 32 * (s.reg (lo + 4)).toNat

/-- The state with a 64-bit value in a pair of registers. -/
def State.setReg64 (s : State) (lo v : Nat) : State :=
  (s.setReg lo (BitVec.ofNat 32 v)).setReg (lo + 4) (BitVec.ofNat 32 (v / 2 ^ 32))

/-- A 64-bit counter advanced by n, saturating at 2⁶⁴ − 1. -/
def State.countBy (s : State) (lo n : Nat) : State := s.setReg64 lo (min (s.reg64 lo + n) (2 ^ 64 - 1))

/-- A 64-bit counter advanced by one. -/
def State.count (s : State) (lo : Nat) : State := s.countBy lo 1

/-- A 32-bit count register advanced by one, saturating. -/
def State.count32 (s : State) (off : Nat) : State := s.setReg off (BitVec.ofNat 32 (min ((s.reg off).toNat + 1) (2 ^ 32 - 1)))

/-! ### Registers as they stood at a frame's start (R88, R118) -/

/-- Whether a write of a register applies only to frames whose first stamp follows it (R88, R118): the latency corrections; MAC_MAXLEN,
MAC_VLAN, the VID list, MAC_PRP and the address filter. -/
def frameReg (o : Nat) : Bool :=
  (0x40300 ≤ o && o < 0x40330) || (0x50000 ≤ o && o < 0x56000 &&
    (let r := o % 0x1000; (8 ≤ r && r ≤ 0x14) || r == 0x20 || (0x40 ≤ r && r < 0x80)))

/-- A write of such a register is about to be made: its value is kept with the time, entries older than 1 ms go (no frame lasts as
long: 9,222 bytes take 74 µs at 1 Gb/s). -/
def State.pastNote (s : State) (o : Nat) : State :=
  if frameReg o then
    { s with mac := { s.mac with past := (s.mac.past.filter fun e => s.dt < e.1 + 65536000000) ++ [(s.dt, o, s.reg o)] } }
  else s

/-- The state with those registers as they stood at a time: the writes after it undone, the newest first. -/
def State.asOf (s : State) (t : Nat) : State :=
  s.mac.past.foldr (fun e (x : State) => if t < e.1 then x.setReg e.2.1 e.2.2 else x) s

/-! ### Time (R52, R54) -/

/-- The whole second of a time. -/
def secOf (t : Nat) : Nat := t / subPerSec

/-- The nanosecond within the second. -/
def nsOf (t : Nat) : Nat := t % subPerSec / subPerNs

/-- The sub-nanosecond part. -/
def subOf (t : Nat) : Nat := t % subPerNs

/-- A native timestamp of 12 bytes (R52). -/
def tsBytes (t : Nat) : List Byte := leBytes 2 (subOf t) ++ leBytes 4 (nsOf t) ++ leBytes 6 (secOf t)

/-- The time a native timestamp of 12 bytes gives; none when R53 refuses it. -/
def tsOf (bs : List Byte) : Option Nat :=
  if leAt bs 2 4 < 1000000000 then some (leAt bs 6 6 * subPerSec + leAt bs 2 4 * subPerNs + leAt bs 0 2) else none

/-- Reporting instant k of a second at a rate (R20): the offset truncated to 2⁻¹⁶ ns. -/
def instantAt (rate sec k : Nat) : Nat := sec * subPerSec + k * subPerSec / rate

/-- The state with a time in a timestamp register group (SUBNS, NS, SEC_LO, SEC_HI). -/
def State.setTs (s : State) (off t : Nat) : State :=
  (((s.setReg off (BitVec.ofNat 32 (subOf t))).setReg (off + 4) (BitVec.ofNat 32 (nsOf t))).setReg (off + 8)
    (BitVec.ofNat 32 (secOf t))).setReg (off + 12) (BitVec.ofNat 32 (secOf t / 2 ^ 32))

/-- DT moved on to a time, if it is later; the residency of the power state counts whole milliseconds (R455). -/
def State.advance (s : State) (t : Nat) : State :=
  if s.dt < t then
    let sub := s.pwr.residSub + (t - s.dt)
    ({ s with dt := t, pwr := { s.pwr with residSub := sub % subPerMs } }).countBy (Reg.PWR_RESID_LO s.pwr.state) (sub / subPerMs)
  else s

/-- The time-quality word of the last reporting instant at or before a time (R84). -/
def State.tqAt (s : State) (t : Nat) : BitVec 16 :=
  match s.tb.tqHist.find? (fun p => p.1 ≤ t) with
  | some p => p.2
  | none => 0x7F

/-- Whether DT was LOCKED at the last reporting instant at or before a time (R84: STATE in [9:7], code 1). -/
def State.lockedAt (s : State) (t : Nat) : Bool := bitsOf (s.tqAt t).toNat 7 3 == 1

/-! ### Presence (R3 to R5, R11 to R13) -/

/-- ID_PART.PART of the part (R50): also the Device ID and the part in the IDCODE (R413, R419). -/
def Variant.part (v : Variant) : Nat :=
  match v with
  | .fn8240 => 0x8240
  | .fn8230 => 0x8230
  | .fn8220 => 0x8220

/-- ID_CAP (R11). -/
def State.idCap (s : State) : Nat :=
  match s.hw.variant with
  | .fn8240 => 0xFF
  | .fn8230 => 0xF3
  | .fn8220 => 0xF0

/-- ID_ENG_MASK (R13). -/
def State.engMask (s : State) : Nat :=
  match s.hw.variant with
  | .fn8220 => 0xCF0FFFFF
  | _ => 0xFFFFFFFF

/-- Whether the front end and the estimator are present. -/
def State.hasFe (s : State) : Bool := bitOf s.idCap 0

/-- Whether the metering unit is present. -/
def State.hasMtr (s : State) : Bool := bitOf s.idCap 2

/-- Whether the capture engine is present. -/
def State.hasCap (s : State) : Bool := bitOf s.idCap 3

/-- Whether an engine is present. -/
def State.hasEng (s : State) (e : Nat) : Bool := bitOf s.engMask e

/-- BERTH_COUNT (R12). -/
def State.berthCount (s : State) : Nat :=
  match s.hw.variant with
  | .fn8220 => 4096
  | _ => 8192

/-- ID_CAP_COUNT (R12). -/
def State.idCapCount (s : State) : Nat :=
  (if s.hasCap then 4 else 0) * 2 ^ 25 + (if s.hasMtr then 3 else 0) * 2 ^ 22 + 4 * 2 ^ 19 +
    (match s.hw.variant with | .fn8220 => 8 | _ => 12) * 2 ^ 14 + s.berthCount

/-! ### Outputs, fresh values, channels between units -/

/-- The state with one more output. -/
def State.emit (s : State) (o : Output) : State := { s with out := s.out ++ [o] }

/-- The state after a free value has been taken. -/
def State.freshNext (s : State) : State := { s with fresh := s.fresh + 1 }

/-- The state with n fresh values used. -/
def State.freshSkip (s : State) (n : Nat) : State := { s with fresh := s.fresh + n }

/-- The free value taken next. -/
def State.freshVal (s : State) : Nat := Config.freshNat s.fresh

/-- DEVICE_ID: ALM_DEVICE_ID, as 4 bytes. -/
def State.deviceId (s : State) : List Byte := leBytes 4 (s.reg Reg.ALM_DEVICE_ID).toNat

/-- Owner and master code of subsystem n of R22 (R45). -/
def unitCode (n : Nat) : Nat := 31 + n

/-- An event raised for the logbook (R381); EVENT 0xFFFF where the class has none. -/
def State.logRaise (s : State) (cls src ev : Nat) (detail : List Nat) : State :=
  { s with logb := { s.logb with raised := s.logb.raised ++
      [⟨cls, src, ev, padTo 16 (detail.map fun n => BitVec.ofNat 8 n), s.dt, s.tb.dtState == .locked, none⟩] } }

/-- Whether an owner code of R45 is that of an engine or a subsystem that is absent (R3, R4, R11, R13). -/
def State.ownerAbsent (s : State) (code : Nat) : Bool :=
  (code < 32 && !s.hasEng code) || (code == 41 && !s.hasFe) || (code == 42 && !s.hasFe) || (code == 43 && !s.hasMtr) ||
    (code == 44 && !s.hasCap)

/-- Whether a fault source is never reported: an absent unit's or engine's, whose source has its owner's code, or a reserved one
(R3, R4, R478). -/
def State.srcMasked (s : State) (src : Nat) : Bool := s.ownerAbsent src || 76 ≤ src

/-- A fault event sent to the collector (R481). -/
def State.report (s : State) (src cause master access addr : Nat) : State :=
  if s.srcMasked src then s
  else { s with flt := { s.flt with reports := s.flt.reports ++ [⟨src, cause, master, access, addr, s.dt⟩] } }

/-- An internal error of subsystem n, as its chapter names it (R478, R481). -/
def State.unitFault (s : State) (n : Nat) : State := s.report (31 + n) 0 (unitCode n) 0 0

/-- Whether the device has been stopped: by the steps of a SAFE_STOP (R491) or of a shutdown run (R497). -/
def State.isStopped (s : State) : Bool := (s.flt.safeStopped && !s.flt.safePending) || s.bst.stopped

/-- Whether subsystem n is fenced (R486). -/
def State.unitFenced (s : State) (n : Nat) : Bool := s.flt.fencedUnits.contains n

/-- TAI minus UTC at a TAI second by the leap table (R89, R91): O(t) of the newest entry that has begun, and O_0 before the first. -/
def State.leapAt (s : State) (tai : Nat) : Int := s.tb.leap.foldl (fun o e => if e.1 ≤ tai then e.2 else o) (s.tb.leap.getD 0 (0, 37)).2

/-- The UTC seconds of a TAI second (R91). -/
def State.utcOf (s : State) (tai : Nat) : Int := (tai : Int) - s.leapAt tai

/-- An input on the ALM channel (R270). -/
def State.almSend (s : State) (i : AlmInput) : State := { s with alm := { s.alm with input := s.alm.input ++ [i] } }

/-- Words of the capture engine's trigger entry e of channel c (R368). -/
def State.capEntry (s : State) (c e : Nat) : List Byte :=
  (List.range 4).flatMap fun j => leBytes 4 (mapGet (fun _ => (0 : Word)) s.cap.win (128 * c + 16 * e + 4 * j)).toNat

/-- Trigger conditions of one event detected for every channel that is ARMED or TRIGGERED (R368): `m` tells from an entry's
TYPE and bytes 1 and 2 whether it names the event. -/
def State.capNotice (s : State) (typ : Nat) (m : Nat → Nat → Bool) (at_ code : Nat) : State :=
  if s.hasCap then
    let hits := (List.range 4).flatMap fun c =>
      let st := ((s.cap.ch[c]?).getD {}).st
      if st = .armed ∨ st = .triggered then
        ((List.range 8).filter fun e =>
          let b := s.capEntry c e
          bitsOf (byteAt b 0) 0 4 == typ && m (byteAt b 1) (byteAt b 2)).map fun e => (⟨c, e, typ, at_, code, s.dt⟩ : CapDet)
      else []
    { s with cap := { s.cap with detected := s.cap.detected ++ hits } }
  else s

/-- A frame offered to a port (R111): its length from the destination address to the FCS, before padding and trailer. -/
def State.offer (s : State) (port : Nat) (cls : TxClass) (body : TxBody) (bytes : Nat) (job : Option (Nat × Nat)) : State :=
  let f : TxFrame := { cls := cls, len := bytes + 4, body := body, job := job }
  if cls = .alarm then { s with mac := { s.mac with alarmOffers := s.mac.alarmOffers ++ [(port, f)] } }
  else { s with mac := { s.mac with offers := s.mac.offers ++ [(port, f)] } }

/-- A task a unit wants the pilot to take (R388, R400). -/
def State.wantTask (s : State) (t : TaskReq) : State := { s with plt := { s.plt with wants := s.plt.wants ++ [t] } }

/-- A delivery for the host (R428, R435). -/
def State.deliver (s : State) (d : Delivery) : State := { s with hif := { s.hif with deliv := s.hif.deliv ++ [d] } }

/-- Whether the device is active (R456): SOLO, ACTIVE, HANDING or MISMATCH. -/
def Role.isActive (r : Role) : Bool := r == .solo || r == .active || r == .handing || r == .mismatch

/-- Whether the device is active (R456). -/
def State.isActive (s : State) : Bool := s.twn.role.isActive

/-- The bytes that wait in the mirror queue (R465). -/
def Twn.mirrorBytes (t : Twn) : Nat := (t.mirror.map List.length).sum

/-- An item mirrored to the standby (R464, R465): its 4-byte header and its bytes, in a queue of 256 KiB that drops what does
not fit. Nothing is mirrored while no peer is there to take it, nor by a fenced twin unit (R486); a standby sends its MTR items, with which
the active device compares its own records (R476; DEDUCED, log entry 130). -/
def State.mirrorItem (s : State) (item : Nat) (body : List Byte) : State :=
  let x := leBytes 1 item ++ [0] ++ leBytes 2 body.length ++ body
  if (s.twn.role = .active ∨ s.twn.role = .handing ∨ s.twn.mirrorOn ∨ (item = 5 ∧ s.twn.role = .standby)) ∧ !s.unitFenced 22 then
    if s.twn.mirrorBytes + x.length ≤ 262144 then { s with twn := { s.twn with mirror := s.twn.mirror ++ [x] } }
    else (({ s with twn := { s.twn with mirrorStale := true } }).count (Reg.TWN_CNT_LO 5)).event Reg.TWN_EVT 7
  else s

/-! ### Configuration sets (R437, R438) -/

/-- The key of a byte offset in a table of a section. -/
def cfgKey (typ tab off : Nat) : Nat := typ * 2 ^ 28 + tab * 2 ^ 24 + off

/-- BAR0 offset of the block whose registers the register image of a section lists (R438). -/
def sectionBase (typ : Nat) : Nat :=
  match typ with
  | 0x02 => 0x040000 | 0x03 => 0x050000 | 0x04 => 0x060000 | 0x05 => 0x070000 | 0x0A => 0x0B0000
  | 0x0D => 0x0F0000 | 0x0E => 0x110000 | 0x0F => 0x120000 | _ => 0

/-- The factory default of a word of a set: zero, but for the registers of table 15, which have their reset values, RATE 15
(none), the source table of R501, and the lease quotas, of which no chapter gives a reset value: every owner may hold the whole of
each pool of R41 (DESIGN CHOICE, log entry 55). -/
def cfgDefault (key : Nat) : Word :=
  let typ := key / 2 ^ 28
  let tab := key / 2 ^ 24 % 16
  let off := key % 2 ^ 24
  if typ = 0x0D ∧ tab = 0 ∧ off < 1024 then
    (if off % 16 = 0 then 32 + 108 * 2 ^ 16 else if off % 16 = 4 then 16 + 8 * 2 ^ 16 else if off % 16 = 8 then 4096 + 256 * 2 ^ 16 else 0)
  else if tab = 15 then (if typ = 1 then (if off = 0 then 15 else 0) else resetAt (sectionBase typ + off))
  else if typ = 0x0F ∧ tab = 0 ∧ off < 96 * 8 then
    (if off / 8 < 32 then (if off % 8 = 0 then 0x00640332 else 0)
     else if off / 8 < 76 then (if off % 8 = 0 then 0x00640321 else 0) else 0)
  else 0

/-- A word of a set. -/
def cfgWord (set : CfgSet) (typ tab off : Nat) : Word := mapGet cfgDefault set (cfgKey typ tab (off / 4 * 4))

/-- A byte of a set. -/
def cfgByte (set : CfgSet) (typ tab off : Nat) : Nat := bitsOf (cfgWord set typ tab off).toNat (8 * (off % 4)) 8

/-- `n` bytes of a set as a little-endian number. -/
def cfgNum (set : CfgSet) (typ tab off n : Nat) : Nat :=
  ((List.range n).map fun i => cfgByte set typ tab (off + i) * 256 ^ i).sum

/-- Bits of a byte of a set. -/
def cfgBits (set : CfgSet) (typ tab off lo w : Nat) : Nat := bitsOf (cfgByte set typ tab off) lo w

/-- A set with one word written. -/
def cfgPut (set : CfgSet) (typ tab off : Nat) (v : Word) : CfgSet := mapPut cfgDefault set (cfgKey typ tab (off / 4 * 4)) v

/-- The set that served a generation: ACTIVE, one kept for the quays that still use it (R184, R260), or the one a pending
commit will make active. -/
def State.setOf (s : State) (gen : Nat) : CfgSet :=
  if gen = s.cfg.gen then s.cfg.active
  else match mapFind s.cfg.kept gen with
    | some c => c
    | none => if gen = s.cfg.gen + 1 then s.cfg.shadow else []

/-! ### Leases (R41 to R44) -/

/-- The quota of an owner in a pool (R42, R438): 16 bits of the PILOT section of ACTIVE. -/
def State.quota (s : State) (owner pool : Nat) : Nat := cfgNum s.cfg.active 0x0D 0 (16 * owner + 2 * pool) 2

/-- The generation of a resource. -/
def State.leaseGen (s : State) (pool index : Nat) : BitVec 8 :=
  match s.leases.find? fun l => l.pool == pool && l.index == index with
  | some l => l.gen
  | none => 0

/-- Whether a resource is in its pool. -/
def State.leaseFree (s : State) (pool index : Nat) : Bool :=
  !(s.leases.any fun l => l.pool == pool && l.index == index && l.owner.isSome)

/-- A resource leased to an owner (R41). -/
def State.leaseTake (s : State) (pool index owner : Nat) : State :=
  let g := s.leaseGen pool index
  { s with leases := (s.leases.filter fun l => !(l.pool == pool && l.index == index)) ++ [⟨pool, index, some owner, g⟩] }

/-- A resource back in its pool, its generation advanced (R44). -/
def State.leaseReturn (s : State) (pool index : Nat) : State :=
  { s with leases := s.leases.map fun l =>
      if l.pool = pool ∧ l.index = index ∧ l.owner.isSome then { l with owner := none, gen := l.gen + 1 } else l }

/-- How many resources of a pool an owner holds. -/
def State.leaseHeld (s : State) (pool owner : Nat) : Nat := (s.leases.filter fun l => l.pool == pool && l.owner == some owner).length

/-- A resource of a pool of n that is taken and given back within one command (R41): the lowest free one, within the owner's quota;
none when there is none (R42). -/
def State.leaseNow (s : State) (pool n owner : Nat) : Option State :=
  match (List.range n).find? fun i => s.leaseFree pool i with
  | some i => if s.leaseHeld pool owner < s.quota owner pool then some ((s.leaseTake pool i owner).leaseReturn pool i) else none
  | none => none

/-- Every lease of an owner revoked in one step (R44). -/
def State.leaseRevoke (s : State) (owner : Nat) : State :=
  { s with leases := s.leases.map fun l => if l.owner = some owner then { l with owner := none, gen := l.gen + 1 } else l }

/-! ### The instant grid as it has run (R93, R94) -/

/-- The rate of the grid that holds a TAI second, as far as grids have begun; 0 for none. -/
def State.rateOf (s : State) (sec : Nat) : Nat :=
  match s.tb.grids.find? fun g => g.1 ≤ sec with
  | some g => g.2
  | none => 0

/-- Whether an instant has been delivered, and was not one that a forward step had passed (R397). -/
def State.delivered (s : State) (t : Nat) : Bool := (s.tb.tqHist.any fun p => p.1 == t) && !s.tb.passed.contains t

/-- The first instant at least n quay intervals after a time, at the rate of the grid that holds it (R21). -/
def State.firstRel (s : State) (from_ n : Nat) : Option Nat :=
  (s.tb.tqHist.reverse.find? fun p => from_ ≤ p.1 && n * subPerSec ≤ (p.1 - from_) * s.rateOf (secOf p.1)).map (·.1)

/-! ### Lists -/

/-- The element of a list at an index. -/
def nth {α : Type} (d : α) (l : List α) (i : Nat) : α := (l[i]?).getD d

/-- The numbers below n whose bit in a mask is set. -/
def maskList (n mask : Nat) : List Nat := (List.range n).filter fun i => bitOf mask i

end Sys2Proof.Machine
end

