-- ==== Sys2Proof/Machine/Power.lean ====
section
/-! DEFINITION. Power states (R448 to R451): entry conditions, the target, wake events, and the commands that write PWR_LTR,
enter a state step by step, and tell of the PCI Express link and its device state. -/

namespace Sys2Proof.Machine

/-- The eight entry conditions in the order of PWR_STATUS [23:16] (R448, R455): alignment, front end, metering, capture,
engines, twin, ports, rings; true when met. "No quay held" is read as ALN_STATUS.UNSEALED 0, as R187 puts the same condition of R186
(DEDUCED): a sealed quay stays in its ring. -/
def State.pwrConds (s : State) : List Bool :=
  [ !s.bit Reg.ALN_CTRL 0 && s.aln.quays.all fun (q : Quay) => q.state == .sealed,
    !s.bit Reg.FE_CTRL 0,
    !s.bit Reg.MTR_CTRL 0,
    s.cap.ch.all fun c => c.st != .armed && c.st != .triggered,
    (s.plt.tasks.all fun t => t.2.st == .free || t.2.cls == 0) && s.plt.rot.isNone,
    s.twn.role == .solo || s.twn.role == .wait || s.twn.role == .mismatch,
    (List.range 6).all fun p => !s.bit (Reg.MAC_CTRL 0 + 0x1000 * p) 0,
    s.hif.ring.all fun r => r.fetched.isEmpty && r.done.isEmpty && r.waiting.isEmpty ]

/-- The conditions DEEP adds (R448): every ring pair DISABLED, and the link in L1 or the function in D3hot. -/
def State.deepConds (s : State) : Bool :=
  (s.hif.ring.all fun r => r.st == .disabled) && (s.hif.pcie.l1 || s.hif.pcie.d3hot)

/-- Whether the entry conditions of a state hold; each state needs those of the states above it (R448). -/
def State.pwrAllows (s : State) (code : Nat) : Bool :=
  (code < 2 || (s.pwrConds.take 6).all id) && (code < 3 || s.pwrConds.all id) && (code < 4 || s.deepConds)

/-- The exit latency of a state in µs (R448). -/
def exitUs (code : Nat) : Nat := nth 0 [0, 2, 200, 5000, 40000] code

/-- The target state (R449, R451): the deepest state whose conditions hold and whose exit latency is tolerated; DEEP in
D3hot whatever TOL_US when its conditions hold, and the present state in D3hot when they do not. -/
def State.pwrTarget (s : State) : Nat :=
  let tol := s.fld Reg.PWR_LTR 0 20
  if s.hif.pcie.d3hot then (if s.pwrAllows 4 then 4 else s.pwr.state)
  else if tol = 0 then 0
  else ([4, 3, 2, 1].find? fun c => s.pwrAllows c && exitUs c ≤ tol).getD 0

/-- The conditions of the next deeper state that are not met: PWR_STATUS [23:16] (R455), the first of them alone. -/
def State.pwrFirstUnmet (s : State) : Nat :=
  let upto := if s.pwr.state = 0 then 0 else if s.pwr.state = 1 then 6 else 8
  match ((List.range upto).find? fun i => !(nth true s.pwrConds i)) with
  | some i => 2 ^ i
  | none => if s.pwr.state = 3 && !s.deepConds then 2 ^ 7 else 0

/-- A change of the power state: the event and the POWER record (R381, R455). -/
def State.pwrEnter (s : State) (code : Nat) : State :=
  (({ s with pwr := { s.pwr with state := code, exiting := false } }).event Reg.PWR_EVT 0).logRaise 15 (unitCode 23) 0 [code]

/-- A wake event of a source code of PWR_WAKE_SRC (R450, R455): outside FULL an exit begins; one that comes during the entry from FULL
abandons the entry at its next step (R449). -/
def State.wake (s : State) (src : Nat) : State :=
  if s.pwr.state = 0 ∧ s.pwrTarget = 0 then s
  else (({ s with pwr := { s.pwr with exiting := true } }).setReg Reg.PWR_WAKE_SRC (BitVec.ofNat 32 src)).event Reg.PWR_EVT 1

/-- A wake by a source that PWR_WAKE_EN bit i enables (R450). -/
def State.wakeIf (s : State) (i : Nat) : State := if s.bit Reg.PWR_WAKE_EN i then s.wake (4 + i) else s

/-- A wake event of a source code of PWR_WAKE_SRC (R450, R455): 1 to 3 always, 4 to 7 where PWR_WAKE_EN enables the source. The TRG
pins of a part without a capture engine are ignored (R7). -/
def pwrWakeRow (src : Nat) (s : State) : State :=
  if src = 6 ∧ !s.hasCap then s
  else if 4 ≤ src ∧ src ≤ 7 then s.wakeIf (src - 4)
  else if 1 ≤ src ∧ src ≤ 3 then s.wake src
  else s

/-- Whether a record raised for the logbook is the record of a power-state change, which wakes nothing (DEDUCED: an entry
would otherwise undo itself). -/
def LogRaise.isPowerState (r : LogRaise) : Bool := r.cls == 15 && byteAt r.detail 0 < 0x80

/-- What the power logic does after a command (R449, R450): a logbook event, an alarm input or a fault report that the command
made wakes the device, and a target above the present state begins an exit. -/
def State.pwrAfter (s0 s1 : State) : State :=
  let s2 :=
    if ((s1.logb.raised.drop s0.logb.raised.length).any fun r => !r.isPowerState) ∨
        s0.alm.input.length < s1.alm.input.length ∨ s0.flt.reports.length < s1.flt.reports.length then s1.wake 3
    else s1
  if s2.pwr.state ≠ 0 ∧ s2.pwrTarget < s2.pwr.state then { s2 with pwr := { s2.pwr with exiting := true } } else s2

/-- A write of PWR_LTR (R449): TOL_US clamped to its range; the target is a function of it. -/
def pwrLtrWrite (v : Word) (s : State) : State :=
  s.setReg Reg.PWR_LTR (BitVec.ofNat 32 (min (bitsOf v.toNat 0 20) 1000000))

/-- A step of the entry into a deeper state completes (R448, R449): one state deeper, unless a wake has come or the target no
longer lies deeper; a wake during the entry from FULL ends with the step, since no state has been left. -/
def pwrEntryStep (s : State) : State :=
  if s.pwr.exiting then (if s.pwr.state = 0 then { s with pwr := { s.pwr with exiting := false } } else s)
  else if s.pwr.state < s.pwrTarget then s.pwrEnter (s.pwr.state + 1)
  else s

/-- The function enters D3hot (R451): DEEP is targeted when its conditions hold, and D3_BLOCKED is set when they do not. -/
def d3hotEnter (s : State) : State :=
  let s1 := { s with hif := { s.hif with pcie := { s.hif.pcie with d3hot := true } } }
  if s1.pwrAllows 4 then s1
  else ({ s1 with pwr := { s1.pwr with d3Blocked := true } }).event Reg.PWR_EVT 2

/-- The function returns to D0 (R451). -/
def d0Return (s : State) : State :=
  { s with hif := { s.hif with pcie := { s.hif.pcie with d3hot := false } }, pwr := { s.pwr with d3Blocked := false } }

/-- Whether the accesses of a BAR0 offset wait for an exit: its block's domain is stopped (R34, R450); the blocks of CC0 to CC3 lie
below 0x102000. -/
def State.blockStopped (s : State) (off : Nat) : Bool :=
  match blockOf off with
  | .fe | .mtr | .bin | .aln | .osc | .isl => 2 ≤ s.pwr.state
  | .eng => if off < 0x102000 then 4 ≤ s.pwr.state else 2 ≤ s.pwr.state
  | .mac | .twn => 3 ≤ s.pwr.state
  | _ => false

/-- Whether a write would end an entry condition of the present state (R450): a unit's EN, a port's EN or a ring pair's EN
written 1, or a capture or rotation command. -/
def State.endsCondition (s : State) (off : Nat) (v : Word) : Bool :=
  (2 ≤ s.pwr.state && v.getLsbD 0 && (off == Reg.ALN_CTRL || off == Reg.FE_CTRL || off == Reg.MTR_CTRL || off == Reg.TWN_CFG ||
      (List.range 4).any fun c => off == Reg.CAP_CH_CTRL c)) ||
    (2 ≤ s.pwr.state && off == Reg.PLT_ROT_CTRL) ||
    (3 ≤ s.pwr.state && v.getLsbD 0 && (List.range 6).any fun p => off == Reg.MAC_CTRL 0 + 0x1000 * p) ||
    (4 ≤ s.pwr.state && v.getLsbD 0 && (List.range 16).any fun n => off == Reg.HIF_RP_CTRL n)

/-- An access put off until the exit completes (R450). -/
def State.holdAccess (s : State) (h : HeldAccess) (src : Nat) : State :=
  ({ s with pwr := { s.pwr with waiting := s.pwr.waiting ++ [h] } }).wake src

end Sys2Proof.Machine
end

