-- ==== Sys2Proof/Machine/Manifest.lean ====
section
/-! DEFINITION. Ring pairs and manifests (R424 to R436): the layout of a manifest, the checks of R431, starting in ring order,
completing, aborting, and the entries written to the host. -/

namespace Sys2Proof.Machine

/-! ### Status codes (R434) -/

@[simp] abbrev stDone : Nat := 0
@[simp] abbrev stAborted : Nat := 1
@[simp] abbrev stAlreadyDone : Nat := 2
@[simp] abbrev stAbsent : Nat := 3
@[simp] abbrev stInvalidOpcode : Nat := 4
@[simp] abbrev stInvalidParam : Nat := 5
@[simp] abbrev stBusy : Nat := 6
@[simp] abbrev stRefused : Nat := 7
@[simp] abbrev stCheckFail : Nat := 8
@[simp] abbrev stAuthFail : Nat := 9
@[simp] abbrev stStale : Nat := 10
@[simp] abbrev stNonce : Nat := 11
@[simp] abbrev stDmaError : Nat := 12
@[simp] abbrev stBadImage : Nat := 13
@[simp] abbrev stTestFail : Nat := 14
@[simp] abbrev stFlashError : Nat := 15

/-! ### The manifest and its checks (R431, R433) -/

/-- OPCODE of a manifest. -/
def mOpcode (b : List Byte) : Nat := leAt b 0 2
/-- FLAGS.FENCE. -/
def mFence (b : List Byte) : Bool := bitOf (byteAt b 2) 1
/-- TAG. -/
def mTag (b : List Byte) : Nat := leAt b 4 4
/-- BUF_ADDR. -/
def mBufAddr (b : List Byte) : Nat := leAt b 8 8
/-- BUF_LEN. -/
def mBufLen (b : List Byte) : Nat := leAt b 16 4

/-- What the manual defines of an opcode (R433, R477, R503, R520): the operand bits by byte, and the greatest BUF_LEN. -/
structure OpSpec where
  masks : List (Nat × Nat)
  maxBuf : Nat
deriving DecidableEq, Repr

/-- Operand bytes that are whole numbers: `n` bytes from `off`. -/
def wholeBytes (off n : Nat) : List (Nat × Nat) := (List.range n).map fun i => (off + i, 0xFF)

/-- The opcode table (R433, with the codes of R477, R503 and R520). A manifest without a buffer has BUF_LEN 0. -/
def opSpec (op : Nat) : Option OpSpec :=
  match op with
  | 0x0000 => some ⟨[], 0⟩
  | 0x0001 => some ⟨(20, 0x0F) :: wholeBytes 24 4, 0⟩
  | 0x0010 => some ⟨[(20, 3), (21, 1)], 2 ^ 24⟩
  | 0x0011 => some ⟨wholeBytes 20 2, 2 ^ 20⟩
  | 0x0012 => some ⟨[], 0⟩
  | 0x0013 => some ⟨wholeBytes 20 4 ++ [(24, 1), (25, 0xFF)] ++ wholeBytes 28 7, 0⟩
  | 0x0014 => some ⟨[(20, 1), (21, 1), (22, 1)], 0⟩
  | 0x0015 => some ⟨[(20, 1)], 2 ^ 32⟩
  | 0x0020 => some ⟨[(20, 7), (21, 1)] ++ wholeBytes 22 3, 65536⟩
  | 0x0021 => some ⟨[(20, 0x0F)] ++ wholeBytes 24 4 ++ wholeBytes 28 12, 2 ^ 32⟩
  | 0x0030 => some ⟨wholeBytes 20 2 ++ wholeBytes 24 4, 0⟩
  | 0x0031 => some ⟨wholeBytes 20 4 ++ [(24, 1)], 0⟩
  | 0x0040 | 0x0041 | 0x0042 => some ⟨[(20, 3)], 0⟩
  | 0x0050 => some ⟨[(20, 0xFF)], 64⟩
  | 0x0051 => some ⟨[(20, 0xFF)] ++ wholeBytes 24 8, 2 ^ 32⟩
  | 0x0060 => some ⟨wholeBytes 20 16, 0⟩
  | 0x0061 => some ⟨wholeBytes 24 8, 64⟩
  | 0x0070 => some ⟨[(20, 0xFF), (21, 1)], 2 ^ 21⟩
  | 0x0071 => some ⟨[(20, 0x1F), (21, 0xFF)], 0⟩
  | 0x0072 => some ⟨wholeBytes 20 4, 0⟩
  | 0x00A0 | 0x00A1 => some ⟨[(20, 0x3F), (21, 7), (22, 0xFF), (23, 0xFF), (24, 1)], 128⟩
  | 0x00A2 => some ⟨[(20, 0x3F)], 0⟩
  | 0x00A3 => some ⟨[(20, 0x3F)], 2 ^ 32⟩
  | 0x00A4 => some ⟨wholeBytes 20 4, 0⟩
  | 0x00B0 => some ⟨[(20, 1)], 0⟩
  | 0x00B1 | 0x00B2 => some ⟨[], 0⟩
  | 0x00C0 => some ⟨[(20, 3), (21, 0x3F)], 0⟩
  | 0x00C1 => some ⟨[(20, 0x3F)], 0⟩
  | 0x00C2 => some ⟨[(20, 0x7F), (21, 1)], 0⟩
  | _ => none

/-- Whether the reserved bits of a manifest are zero and its BUF_LEN is within the limit (R431). -/
def mBitsOk (sp : OpSpec) (b : List Byte) : Bool :=
  byteAt b 2 < 4 && byteAt b 3 == 0 && mBufLen b ≤ sp.maxBuf &&
    (List.range 44).all fun i => ((byteAt b (20 + i)) &&& (255 - ((mapFind sp.masks (20 + i)).getD 0))) == 0

/-- Whether the operands of a manifest are within their ranges (R431, R433, R503). -/
def mRangeOk (b : List Byte) : Bool :=
  match mOpcode b with
  | 0x0011 => 1 ≤ leAt b 20 2 && leAt b 20 2 ≤ 0x0F
  | 0x0020 => bitsOf (byteAt b 20) 0 3 ≤ 5
  | 0x0030 => leAt b 20 2 < 1088
  | 0x0031 => 1 ≤ byteAt b 22 && byteAt b 22 ≤ 15 && 1 ≤ byteAt b 23 && byteAt b 23 ≤ 2
  | 0x0050 => byteAt b 20 ≤ 2
  | 0x0051 => byteAt b 20 ≤ 3
  | 0x0070 => byteAt b 20 ≤ 5
  | 0x0071 => 1 ≤ byteAt b 21 && byteAt b 21 ≤ 2
  | 0x00C0 => bitsOf (byteAt b 20) 0 2 ≤ 2
  | 0x00C2 => byteAt b 20 ≤ 95
  | _ => true

/-- Whether a manifest addresses an absent unit or engine (R3, R4). -/
def State.mAbsent (s : State) (b : List Byte) : Bool :=
  match mOpcode b with
  | 0x0040 | 0x0041 | 0x0042 => !s.hasCap
  | 0x0050 | 0x0051 => !s.hasMtr
  | 0x0071 => !s.hasEng (bitsOf (byteAt b 20) 0 5)
  | 0x00C1 => s.ownerAbsent (bitsOf (byteAt b 20) 0 6)
  | _ => false

/-- Whether a manifest is refused because it addresses a fenced unit (R486), or the device has stopped (R491, R497). -/
def State.mRefused (s : State) (b : List Byte) : Bool :=
  let op := mOpcode b
  (s.isStopped && op != 0x0000 && op != 0x0015 && op != 0x0051 && !(op == 0x00C0 && bitsOf (byteAt b 20) 0 2 == 2)) ||
    (s.unitFenced 13 && (op == 0x0040 || op == 0x0041 || op == 0x0042)) || (s.unitFenced 12 && (op == 0x0050 || op == 0x0051)) ||
    (s.unitFenced 22 && (op == 0x00B0 || op == 0x00B1 || op == 0x00B2)) || (s.unitFenced 21 && op == 0x00C0)

/-- The status with which a manifest completes without starting, if it does: R433, R431, R3 in this order, then the refusals of
R486 and R491. -/
def State.mReject (s : State) (b : List Byte) : Option Nat :=
  match opSpec (mOpcode b) with
  | none => some stInvalidOpcode
  | some sp =>
    if s.mAbsent b then some stAbsent
    else if !(mBitsOk sp b && mRangeOk b) then some stInvalidParam
    else if s.mRefused b then some stRefused else none

/-! ### Ring pairs -/

/-- Ring pair n. -/
def State.ring (s : State) (n : Nat) : Ring := nth {} s.hif.ring n

/-- The state with ring pair n changed. -/
def State.modRing (s : State) (n : Nat) (f : Ring → Ring) : State :=
  { s with hif := { s.hif with ring := s.hif.ring.modify n f } }

/-- OUTSTANDING (R428). -/
def Ring.outstanding (r : Ring) : Nat := r.fetched.length + r.done.length

/-- 2^SQ_LOG2. -/
def State.sqSize (s : State) (n : Nat) : Nat := 2 ^ s.fld (Reg.HIF_RP_SIZE n) 0 4
/-- 2^CQ_LOG2. -/
def State.cqSize (s : State) (n : Nat) : Nat := 2 ^ s.fld (Reg.HIF_RP_SIZE n) 8 4
/-- Bytes of a data slot; 0 for no slots. -/
def State.dataSize (s : State) (n : Nat) : Nat :=
  if s.fld (Reg.HIF_RP_SIZE n) 16 4 = 0 then 0 else 2 ^ s.fld (Reg.HIF_RP_SIZE n) 16 4

/-- Whether a CQ slot is free (R428). -/
def State.cqFree (s : State) (n : Nat) : Bool := (s.ring n).outstanding + (s.ring n).unreleased < s.cqSize n

/-- A ring pair that stops becomes DISABLED when OUTSTANDING has reached 0; one in ERROR when, besides, EN is 0 (R425). -/
def State.ringSettle (s : State) (n : Nat) : State :=
  let r := s.ring n
  if r.outstanding = 0 ∧ (r.st = .stopping ∨ (r.st = .error ∧ !s.bit (Reg.HIF_RP_CTRL n) 0)) then
    s.modRing n fun r => { r with st := .disabled }
  else s

/-- A dropped delivery of ring pair n (R428); its unit counts it too (R123, R221, R262, R356). -/
def State.dropDelivery (s : State) (n : Nat) (d : Delivery) : State :=
  let s1 := (((s.modRing n fun r => { r with dropped := min (r.dropped + 1) 65535 }).count (Reg.HIF_CNT_LO 3)).count
    (Reg.HIF_RP_CNT_LO n 2)).event Reg.HIF_EVT 3
  match d.source with
  | 1 | 2 => s1.count (Reg.BIN_CNT_LO 9)
  | 3 => (s1.count (Reg.OSC_CNT_LO 10)).event Reg.OSC_EVT 6
  | 4 => (s1.count (Reg.ISL_CNT_LO 11)).event Reg.ISL_EVT 6
  | 5 => s1.event Reg.MTR_EVT 9
  | _ => s1

/-- A coalescing event of ring pair n falls due (R430). -/
def State.coalDue (s : State) (n : Nat) : State :=
  let s1 := s.modRing n fun r => { r with coalCount := 0 }
  { s1 with msix := { s1.msix with due := s1.msix.due ||| BitVec.ofNat 16 (2 ^ n) } }

/-- An entry that signals has been written on ring pair n (R430). -/
def State.coalSignal (s : State) (n : Nat) : State :=
  let c := (s.ring n).coalCount
  let s1 := s.modRing n fun r => { r with coalCount := c + 1, coalFrom := if c = 0 then s.dt else r.coalFrom }
  if s.fld (Reg.HIF_RP_CTRL n) 16 16 = 0 ∨ max (s.fld (Reg.HIF_RP_CTRL n) 8 8) 1 ≤ c + 1 then s1.coalDue n else s1

/-- A CQ entry of ring pair n: its data slot first, then the 64 bytes in one write; CQ_TAIL moves on and PHASE inverts at the
wrap (R429, R432). `body` are bytes 1 to 7 and 12 to 63 as a function of nothing else. -/
def State.writeEntry (s : State) (n kind b1 half tag : Nat) (dataLen at_ d0 : Nat) (detail data : List Byte) : State :=
  let r := s.ring n
  let entry := leBytes 1 (b2n r.phase + 2 * kind) ++ leBytes 1 b1 ++ leBytes 2 half ++ leBytes 4 tag ++ leBytes 2 r.sqHead ++
    leBytes 2 0 ++ leBytes 4 dataLen ++ tsBytes at_ ++ leBytes 4 d0 ++ padTo 32 detail
  let tail := (r.cqTail + 1) % s.cqSize n
  let s1 := if data.isEmpty then s else s.emit (.hostWrite (s.reg64 (Reg.HIF_RP_DATA_BASE_LO n) + r.cqTail * s.dataSize n) data)
  (s1.emit (.hostWrite (s.reg64 (Reg.HIF_RP_CQ_BASE_LO n) + 64 * r.cqTail) entry)).modRing n fun r =>
    { r with cqTail := tail, unreleased := r.unreleased + 1, phase := if tail = 0 then !r.phase else r.phase }

/-! ### Completing -/

/-- The ring pair that holds a fetched manifest. -/
def State.ringOf (s : State) (mid : Nat) : Option Nat :=
  (List.range 16).find? fun n => (s.ring n).fetched.any fun f => f.mid == mid

/-- A fetched manifest completes: its completion is queued on its pair, or discarded when the pair writes nothing (R425,
R429); a manifest no pair holds any more (R421) leaves no completion. -/
def State.finishOne (s : State) (mid status d0 : Nat) (detail : List Byte) : State :=
  match s.ringOf mid with
  | none => s
  | some n =>
    let r := s.ring n
    let s1 := (r.fetched.filter fun f => f.mid == mid).foldl (fun (s : State) f =>
      s.modRing n fun r =>
        { r with
          fetched := r.fetched.filter fun g => g.mid != mid,
          done := if r.st = .running ∨ r.st = .stopping then
              r.done ++ [⟨mid, mOpcode f.bytes, mTag f.bytes, bitOf (byteAt f.bytes 2) 0, status, d0, detail, s.dt⟩]
            else r.done }) s
    let s2 := if status = stAborted then s1.count (Reg.HIF_RP_CNT_LO n 3) else s1
    s2.ringSettle n

/-- A manifest completes, and the ABORTs that wait for it complete ALREADY_DONE after it (R436). -/
def State.finishRaw (s : State) (mid status d0 : Nat) (detail : List Byte) : State :=
  let waiters := s.hif.ring.flatMap fun r => (r.fetched.filter fun f => f.mid == mid).flatMap fun f => f.abortedBy
  waiters.foldl (fun (s : State) a => s.finishOne a stAlreadyDone 0 []) (s.finishOne mid status d0 detail)

/-- The manifest ring pair n would start next, when ordering allows it (R427). -/
def Ring.startable (r : Ring) : Option Fetched :=
  match r.fetched.find? fun f => !f.started with
  | some f => if mFence f.bytes && (r.fetched.head?.map (·.mid)) != some f.mid then none else some f
  | none => none

/-- DETAIL0 of a manifest that completes without starting: the result of R405 for a ROTATE of an absent engine (R433). -/
def mRejectDetail (b : List Byte) (st : Nat) : Nat := if mOpcode b = 0x0071 ∧ st = stAbsent then 3 else 0

/-- Manifests that complete without starting do so as soon as ordering allows, one after another (R427, R431). -/
def State.autoComplete : Nat → State → Nat → State
  | 0, s, _ => s
  | k + 1, s, n =>
    if (s.ring n).st = .running then
      match (s.ring n).startable with
      | some f =>
        match s.mReject f.bytes with
        | some st => State.autoComplete k (s.finishRaw f.mid st (mRejectDetail f.bytes st) []) n
        | none => s
      | none => s
    else s

/-- Every ring pair's manifests that complete without starting. -/
def State.autoAll (s : State) : State :=
  (List.range 16).foldl (fun (s : State) n => State.autoComplete (s.ring n).fetched.length s n) s

/-- A manifest completes with a status, DETAIL0 and bytes 32 and up. -/
def State.finish (s : State) (mid status d0 : Nat) (detail : List Byte) : State := (s.finishRaw mid status d0 detail).autoAll

/-- A manifest completes with a status alone. -/
def State.finish0 (s : State) (mid status : Nat) : State := s.finish mid status 0 []

/-- A manifest completes when one asked. -/
def State.finishOpt (s : State) (mid : Option Nat) (status d0 : Nat) (detail : List Byte) : State :=
  match mid with
  | some m => s.finish m status d0 detail
  | none => s

/-- A manifest is marked as started. -/
def State.start (s : State) (n mid : Nat) : State :=
  s.modRing n fun r => { r with fetched := r.fetched.map fun f => if f.mid = mid then { f with started := true } else f }

/-- The start of the manifest row of an opcode on ring pair n: the oldest manifest not yet started, when ordering allows it and
its opcode is the row's, is started and carried out; otherwise nothing happens. -/
def State.runManifest (s : State) (n op : Nat) (f : Nat → List Byte → State → State) : State :=
  if (s.ring n).st = .running then
    match (s.ring n).startable with
    | some m => if mOpcode m.bytes = op ∧ (s.mReject m.bytes).isNone then f m.mid m.bytes (s.start n m.mid) else s
    | none => s
  else s

/-- Whether a buffer operand is what the manifest's BUF_LEN says: none when the buffer access failed (status 12). -/
def withBuf (s : State) (mid : Nat) (buf : Option (List Byte)) (f : List Byte → State) : State :=
  match buf with
  | none => s.finish0 mid stDmaError
  | some b => f b

/-! ### Entering ERROR and DISABLED, deliveries -/

/-- A pair enters ERROR (R425): what was fetched and not started, and every completion not written, is discarded. -/
def State.ringError (s : State) (n code : Nat) : State :=
  let w := (s.ring n).waiting
  let s1 := s.modRing n fun r =>
    { r with st := .error, err := code, fetched := r.fetched.filter fun f => f.started, done := [], waiting := [] }
  (w.foldl (fun (s : State) d => s.dropDelivery n d) s1).ringSettle n

/-- A delivery written to its pair (R428, R432, R435). -/
def State.writeDelivery (s : State) (n : Nat) (d : Delivery) : State :=
  let dr := (s.ring n).dropped
  let s1 := (s.writeEntry n 1 d.source dr 0 d.data.length d.at_ d.detail0 d.detail d.data).modRing n fun r => { r with dropped := 0 }
  ((s1.count (Reg.HIF_CNT_LO 2)).count (Reg.HIF_RP_CNT_LO n 1)).coalSignal n

/-- A record that a tug copies to a ring pair (R221, R262): the tug channel is leased to the unit for the copy (R41). With no channel to
be had the record is dropped and counted, as one that the pair cannot take in time (DESIGN CHOICE, log entry 128). -/
def State.tugDeliver (s : State) (owner : Nat) (d : Delivery) : State :=
  match s.leaseNow 2 16 owner with
  | some s' => s'.deliver d
  | none => s.dropDelivery d.ring d

/-- Waiting deliveries take the CQ slots that are free, in order (R428). -/
def State.placeWaiting : Nat → State → Nat → State
  | 0, s, _ => s
  | k + 1, s, n =>
    match (s.ring n).waiting with
    | [] => s
    | d :: ds =>
      if s.cqFree n then State.placeWaiting k ((s.modRing n fun r => { r with waiting := ds }).writeDelivery n d) n else s

end Sys2Proof.Machine
end

