-- ==== Sys2Proof/Machine/Cfg.lean ====
section
/-! DEFINITION. Configuration sets (R437 to R440), the start of a commit (R441), the flash manifests (R419, R445, R446) and the
ABORT manifest (R436). -/

namespace Sys2Proof.Machine

/-! ### The layout of a set (R438) -/

/-- Bytes of a table of a section; 0 for a table the section does not have. The entry tables have the sizes their chapters
give (R126 to R128, R183, R192 and so on). -/
def tableSize (typ tab : Nat) : Nat :=
  match typ, tab with
  | 0x04, 0 => 32 * 8192 | 0x04, 1 => 2 * 8192 | 0x04, 2 => 512 * 8192
  | 0x05, 0 => 16 * 8192
  | 0x06, 0 => 128 * 256 | 0x06, 1 => 32 * 4096 | 0x06, 2 => 32 * 2048
  | 0x07, 0 => 64 | 0x07, 1 => 16 * 65536 | 0x07, 2 => 32 * 131072 | 0x07, 3 => 4 * 16384
  | 0x08, 1 => 16 * 64 | 0x08, 2 => 8 * 16 | 0x08, 3 => 32 * 4
  | 0x09, 0 => 64 * 8 | 0x09, 1 => 32 * 8192
  | 0x0A, 0 => 64 * 16
  | 0x0B, 0 => 32 * 3 | 0x0B, 1 => 8 * 6
  | 0x0C, 0 => 128 * 32
  | 0x0D, 0 => 16 * 64
  | 0x0F, 0 => 8 * 96
  | _, _ => 0

/-- Offsets of the registers that table 15 of a section lists, in ascending order (R438, R477, R501). -/
def listedRegs (typ : Nat) : List Nat :=
  match typ with
  | 0x01 => [0, 4]
  | 0x02 => [0x0, 0x8, 0xC, 0x10, 0x14, 0x18, 0x1C] ++
      ((List.range 6).flatMap fun i => [0x00, 0x10, 0x18, 0x1C, 0x20, 0x28, 0x2C, 0x30].map fun o => 0x100 + 0x40 * i + o) ++
      ((List.range 12).map fun i => 0x300 + 4 * i)
  | 0x03 => (List.range 6).flatMap fun p =>
      ([0x0, 0x8, 0xC, 0x10, 0x14, 0x18, 0x20, 0x24] ++ ((List.range 16).map fun i => 0x40 + 4 * i)).map fun o => 0x1000 * p + o
  | 0x04 => [0x8, 0xC, 0x10] ++ (List.range 32).map fun i => 0x100 + 4 * i
  | 0x05 => 0x10 :: (List.range 4).flatMap fun d => (List.range 6).map fun i => 0x100 + 0x20 * d + 4 * i
  | 0x0A => 0x8 :: ((List.range 3).map fun g => 0x100 + 0x80 * g) ++ (List.range 24).map fun c => 0x400 + 0x20 * c
  | 0x0D => (List.range 6).map fun c => 0x20 + 4 * c
  | 0x0E => [0x8, 0xC, 0x10, 0x14]
  | 0x0F => [0x8, 0xC, 0x10]
  | _ => []

/-- Whether a section's unit is present (R8). -/
def State.sectionPresent (s : State) (typ : Nat) : Bool :=
  match typ with
  | 0x0A => s.hasFe
  | 0x0B => s.hasMtr
  | _ => true

/-- Whether a byte of a table belongs to the entry of an absent berth, which stays zero (R6, R564). -/
def State.berthHeld (s : State) (typ tab off : Nat) : Bool :=
  match typ, tab with
  | 0x04, 0 => 32 * s.berthCount ≤ off
  | 0x04, 2 => 512 * s.berthCount ≤ off
  | 0x05, 0 => 16 * s.berthCount ≤ off
  | _, _ => false

/-- A set with one byte of a table written. -/
def cfgPutByte (set : CfgSet) (typ tab off : Nat) (b : Byte) : CfgSet :=
  cfgPut set typ tab off (putBits (cfgWord set typ tab off) (8 * (off % 4)) 8 b.toNat)

/-- A set with bytes of a table written from an offset; those of absent berths are discarded. -/
def State.cfgPutBytes (s : State) (typ tab : Nat) : CfgSet → Nat → List Byte → CfgSet
  | set, _, [] => set
  | set, off, b :: bs =>
    State.cfgPutBytes s typ tab (if s.berthHeld typ tab off then set else cfgPutByte set typ tab off b) (off + 1) bs

/-- The records of a section body written into a set (R438); none when one is refused. `fuel` bounds the records. -/
def State.putRecords (s : State) (typ : Nat) : Nat → CfgSet → List Byte → Option CfgSet
  | _, set, [] => some set
  | 0, _, _ => none
  | fuel + 1, set, body =>
    let off := leAt body 0 3
    let tab := byteAt body 3
    let len := leAt body 4 4
    let data := slice body 8 len
    if body.length < 8 ∨ 16 ≤ tab ∨ len < 4 ∨ len % 4 ≠ 0 ∨ data.length ≠ len then none
    else if tab = 15 then
      if off % 4 = 0 ∧ ((List.range (len / 4)).all fun i => (listedRegs typ).contains (off + 4 * i)) = true then
        State.putRecords s typ fuel
          ((List.range (len / 4)).foldl (fun set i => cfgPut set typ 15 (off + 4 * i) (BitVec.ofNat 32 (leAt data (4 * i) 4))) set)
          (body.drop (8 + len))
      else none
    else if off + len ≤ tableSize typ tab then
      State.putRecords s typ fuel (s.cfgPutBytes typ tab set off data) (body.drop (8 + len))
    else none

/-! ### Images (R437) -/

/-- A set with the sections of an image written, in the order of the directory, and the number of skipped ones (R8). -/
def State.putSections (s : State) : List (Nat × List Byte) → CfgSet → Nat → Option (CfgSet × Nat)
  | [], set, k => some (set, k)
  | (typ, body) :: rest, set, k =>
    if !s.sectionPresent typ then State.putSections s rest set (k + 1)
    else match s.putRecords typ body.length set body with
      | some set' => State.putSections s rest set' k
      | none => none

/-- The sections of an image, or the status that refuses it: INVALID_PARAM for its layout, CHECK_FAIL for its check word.
DEDUCED: a wrong MAGIC or LENGTH completes INVALID_PARAM, as a wrong VERSION does. -/
def parseImage (img : List Byte) : Except Nat (List (Nat × List Byte)) :=
  let len := leAt img 8 4
  let nsect := leAt img 6 2
  if img.length < 64 ∨ slice img 0 4 ≠ ascii "FNCF" ∨ leAt img 4 2 ≠ 1 ∨ len % 64 ≠ 0 ∨ len < 64 ∨ img.length < len ∨ 2 ^ 24 < len
  then .error stInvalidParam
  else
    let b := img.take len
    if crc32c (slice b 0 60 ++ leBytes 4 0 ++ b.drop 64) ≠ leAt b 60 4 then .error stCheckFail
    else if nsect < 1 ∨ 15 < nsect ∨ leNat (slice b 28 32) ≠ 0 ∨ len < 64 + 16 * nsect then .error stInvalidParam
    else
      let dirs := (List.range nsect).map fun i => slice b (64 + 16 * i) 16
      if dirs.all fun d => 1 ≤ leAt d 0 2 && leAt d 0 2 ≤ 15 && leAt d 2 2 == 0 && leAt d 12 4 == 0 && leAt d 4 4 % 8 == 0 &&
          leAt d 4 4 + leAt d 8 4 ≤ len
      then .ok (dirs.map fun d => (leAt d 0 2, slice b (leAt d 4 4) (leAt d 8 4)))
      else .error stInvalidParam

/-- The canonical form of a set (R439): per present section its TYPE, its tables in ascending code, its listed registers. -/
def State.canonical (s : State) (set : CfgSet) : List Byte :=
  ((List.range 15).map (· + 1)).flatMap fun typ =>
    if s.sectionPresent typ then
      leBytes 2 typ ++
        ((List.range 15).flatMap fun tab =>
          (List.range (tableSize typ tab / 4)).flatMap fun i => leBytes 4 (cfgWord set typ tab (4 * i)).toNat) ++
        (listedRegs typ).flatMap fun o => leBytes 4 (cfgWord set typ 15 o).toNat
    else []

/-- SET_CHECK (R439). -/
def State.setCheck (s : State) (set : CfgSet) : Nat := crc32c (s.canonical set)

/-- SHADOW is locked from the acceptance of a commit until its swap, refusal or abort (R440). -/
def State.shadowLocked (s : State) : Bool := s.cfg.commit.isSome

/-- The end of a build manifest: SHADOW changed, DETAIL0 its check (R440). -/
def State.builtShadow (s : State) (mid : Nat) (set : CfgSet) (skipped : Nat) : State :=
  let s1 := { s with cfg := { s.cfg with shadow := set, skipped := skipped } }
  s1.finish mid stDone (s1.setCheck set) []

/-- An image loaded into SHADOW (R437, R440): without MERGE over the factory default set, with it over SHADOW. -/
def State.loadImage (s : State) (mid : Nat) (merge : Bool) (img : List Byte) : State :=
  match parseImage img with
  | .error st => s.finish0 mid st
  | .ok secs =>
    match s.putSections secs (if merge then s.cfg.shadow else []) (if merge then s.cfg.skipped else 0) with
    | none => s.finish0 mid stInvalidParam
    | some (set, k) => ({ s with cfg := { s.cfg with imageId := BitVec.ofNat 32 (leAt img 12 4) } }).builtShadow mid set k

/-- A configuration slot of the flash. -/
def State.cfgSlot (s : State) (i : Nat) : Option FlashCfg := if i = 0 then s.flash.cfg0 else s.flash.cfg1

/-- The CFG_LOAD manifest (R433, R437, R440). A flash slot that is empty or whose check fails completes CHECK_FAIL. -/
def manCfgLoad (n : Nat) (buf : Option (List Byte)) (s : State) : State :=
  s.runManifest n 0x0010 fun mid b s =>
    if s.shadowLocked then s.finish0 mid stBusy
    else if bitOf (byteAt b 20) 1 then
      match s.cfgSlot (bitsOf (byteAt b 21) 0 1) with
      | some f =>
        if f.checkOk then ({ s with cfg := { s.cfg with imageId := f.imageId } }).builtShadow mid f.set 0
        else s.finish0 mid stCheckFail
      | none => s.finish0 mid stCheckFail
    else withBuf s mid buf fun img => s.loadImage mid (bitOf (byteAt b 20) 0) img

/-- The CFG_WRITE manifest (R433, R438, R440). -/
def manCfgWrite (n : Nat) (buf : Option (List Byte)) (s : State) : State :=
  s.runManifest n 0x0011 fun mid b s =>
    let typ := leAt b 20 2
    if s.shadowLocked then s.finish0 mid stBusy
    else withBuf s mid buf fun body =>
      if !s.sectionPresent typ then s.builtShadow mid s.cfg.shadow (s.cfg.skipped + 1)
      else match s.putRecords typ body.length s.cfg.shadow body with
        | some set => s.builtShadow mid set s.cfg.skipped
        | none => s.finish0 mid stInvalidParam

/-- The CFG_COPY manifest (R433, R440). -/
def manCfgCopy (n : Nat) (s : State) : State :=
  s.runManifest n 0x0012 fun mid _ s =>
    if s.shadowLocked then s.finish0 mid stBusy else s.builtShadow mid s.cfg.active 0

/-- A write of CFG_SWIN_DATA (R440, R454, R565): the addressed word of SHADOW is written unless SHADOW is locked, which sets
SHADOW_BUSY; the offset advances by 4 either way. -/
def cfgSwinWrite (v : Word) (s : State) : State :=
  let typ := s.fld Reg.CFG_SWIN_SEL 0 16
  let tab := s.fld Reg.CFG_SWIN_SEL 16 4
  let off := s.fld Reg.CFG_SWIN_ADDR 0 24 / 4 * 4
  let s1 := s.setFld Reg.CFG_SWIN_ADDR 0 24 (s.fld Reg.CFG_SWIN_ADDR 0 24 + 4)
  if s.shadowLocked then s1.event Reg.CFG_EVT 2
  else if typ < 1 ∨ 15 < typ ∨ !s.sectionPresent typ ∨ s.berthHeld typ tab off then s1
  else if (tab = 15 ∧ (listedRegs typ).contains off = true) ∨ (tab ≠ 15 ∧ off < tableSize typ tab) then
    { s1 with cfg := { s1.cfg with shadow := cfgPut s1.cfg.shadow typ tab off v } }
  else s1

/-- What a read of CFG_SWIN_DATA returns (R454, R565). -/
def State.cfgSwinWord (s : State) : Word :=
  let typ := s.fld Reg.CFG_SWIN_SEL 0 16
  let tab := s.fld Reg.CFG_SWIN_SEL 16 4
  let off := s.fld Reg.CFG_SWIN_ADDR 0 24 / 4 * 4
  if typ < 1 ∨ 15 < typ then 0
  else if (tab = 15 ∧ (listedRegs typ).contains off = true) ∨ (tab ≠ 15 ∧ off < tableSize typ tab) then cfgWord s.cfg.shadow typ tab off
  else 0

/-! ### The start of a commit (R441, R142) -/

/-- A bank of the directory with the tables of a set's directory section. -/
def bankOf (set : CfgSet) : Bank :=
  let tabOf (t : Nat) := (set.filter fun p => p.1 / 2 ^ 24 == 4 * 16 + t).map fun p => (p.1 % 2 ^ 24, p.2)
  { streams := tabOf 0, blocks := tabOf 1, berths := tabOf 2 }

/-- Whether a commit of SHADOW carries a directory section (R142): its directory differs from that of ACTIVE or from LIVE, which an APPLY
may have changed (DEDUCED, log entry 101: a set has a section for every unit, an empty directory is one, and a commit writes again from the
set what was changed directly; a section that changes nothing is not carried). -/
def State.carriesDir (s : State) : Bool :=
  let new := bankOf s.cfg.shadow
  new != bankOf s.cfg.active || new != s.bin.live

/-- Whether the directory's STAGE is in use (R142). -/
def State.dirBusy (s : State) : Bool := s.bin.validating || s.bin.pending || s.bin.oldHeld || s.bin.copying

/-- A commit is accepted (R440, R442, R142): SHADOW is locked; when it carries a directory section, that section is written
into STAGE, which it holds until E. -/
def State.acceptCommit (s : State) (c : Commit) : State :=
  let s1 := { s with cfg := { s.cfg with commit := some c } }
  if c.withDir then
    { s1 with bin := { s1.bin with other := bankOf s.cfg.shadow, pending := true, commitHold := true, eff := none } }
  else s1

/-- The COMMIT manifest (R441, R142): BUSY while the directory is in use, which ERR tells, or another commit is pending; CHECK_FAIL when
SET_CHECK of SHADOW is not the expected one; otherwise validation starts. -/
def manCommit (n : Nat) (s : State) : State :=
  s.runManifest n 0x0013 fun mid b s =>
    if s.carriesDir ∧ s.dirBusy then ({ s with bin := { s.bin with dirErr := 1 } }).finish0 mid stBusy
    else if s.cfg.commit.isSome then s.finish0 mid stBusy
    else if s.setCheck s.cfg.shadow ≠ leAt b 20 4 then s.finish0 mid stCheckFail
    else s.acceptCommit
      { mid := some mid, modeAbs := bitOf (byteAt b 24) 0, n := byteAt b 25, absSec := leAt b 28 6, absK := byteAt b 34,
        skipped := s.cfg.skipped, withDir := s.carriesDir }

/-- A commit is withdrawn (R436, R443): SHADOW unlocked and unchanged, a directory apply it held withdrawn with STAGE as
written; a quay that was opened ahead for the set it would have made active is served by ACTIVE, its header as it stands (R150). -/
def State.dropCommit (s : State) : State :=
  match s.cfg.commit with
  | none => s
  | some c =>
    let qs := s.aln.quays.map fun (q : Quay) => if q.useGen = s.cfg.gen + 1 then { q with useGen := s.cfg.gen } else q
    let s1 := { s with cfg := { s.cfg with commit := none }, aln := { s.aln with quays := qs } }
    if c.withDir then { s1 with bin := { s1.bin with pending := false, commitHold := false, eff := none } } else s1

/-! ### Instants ahead (R20, R21, R94, R141) -/

/-- The rate of a RATE code of a berth (R128). -/
def berthRate (code : Nat) : Nat := nth 0 [10, 12, 15, 20, 25, 30, 50, 60, 100, 120, 200, 240] code

/-- The rate of the grid that holds a second, those to come included: the one of a commit whose instant is fixed, from the
first whole second at or after it, and the one that begins at the next whole second (R94). -/
def State.rateAhead (s : State) (sec : Nat) : Nat :=
  let commit := match s.cfg.commit with
    | some c => if c.validated && decide (c.eff ≤ sec * subPerSec) then some (cfgBits s.cfg.shadow 1 15 0 0 4) else none
    | none => none
  match commit with
  | some code => if code = 15 then 0 else berthRate code
  | none =>
    match s.tb.nextRate with
    | some r => if s.tb.lastSec < sec then r else s.rateOf sec
    | none => s.rateOf sec

/-- The first reporting instant at or after a time by at least n quay intervals of its own grid (R21), looking `fuel` seconds
ahead: its second, its index, its time. -/
def State.instantFrom (s : State) (t n : Nat) : Nat → Nat → Option (Nat × Nat × Nat)
  | 0, _ => none
  | fuel + 1, sec =>
    let r := s.rateAhead sec
    let k0 := ((t - sec * subPerSec) * r + n * subPerSec) / subPerSec - (if sec * subPerSec ≤ t then 1 else (sec * subPerSec - t) * r / subPerSec + 1)
    let ok (k : Nat) : Bool := k < r && t ≤ instantAt r sec k && n * subPerSec ≤ (instantAt r sec k - t) * r
    match if r = 0 then none else ([k0, k0 + 1, k0 + 2, k0 + 3].find? ok) with
    | some k => some (sec, k, instantAt r sec k)
    | none => State.instantFrom s t n fuel (sec + 1)

/-- The first instant at least n quay intervals after a time, within the next n + 2 seconds of the grids known now. -/
def State.instantAfter (s : State) (t n : Nat) : Option (Nat × Nat × Nat) := s.instantFrom t n (n + 3) (secOf t)

/-! ### Flash (R445, R446) -/

/-- A failed flash access: the event and the fault source (R445, R478). -/
def State.flashFail (s : State) : State := (s.event Reg.CFG_EVT 3).report 62 0 (unitCode 18) 0 0

/-- A manifest of ring pair n has an action under way from its start (R436). -/
def State.setAct (s : State) (n mid : Nat) (a : LongAct) : State :=
  s.modRing n fun r => { r with fetched := r.fetched.map fun f => if f.mid = mid then { f with act := some a } else f }

/-- The flash with a configuration slot written. -/
def Flash.putCfg (f : Flash) (slot : Nat) (v : Option FlashCfg) : Flash := if slot = 0 then { f with cfg0 := v } else { f with cfg1 := v }

/-- The flash with a firmware slot written, or left invalid. -/
def Flash.putFw (f : Flash) (i : Nat) (v : Option FwSlot) : Flash :=
  match v with
  | some x => { f with fw := mapSet f.fw i x }
  | none => { f with fw := mapDel f.fw i }

/-- The set, and the flash slot, a CFG_SAVE or CFG_READ names. -/
def State.namedSet (s : State) (b : List Byte) : CfgSet := if bitOf (byteAt b 20) 0 then s.cfg.shadow else s.cfg.active

/-- The firmware slot a FW_STAGE names (R445). -/
def mFwSlot (b : List Byte) : Nat := 2 * byteAt b 20 + bitsOf (byteAt b 21) 0 1

/-- The records an MTR_READ asks for (R433): of the point, or of all, from the first REC_SEQ, as many as the buffer holds. -/
def State.mtrAsked (s : State) (b : List Byte) : List (List Byte) :=
  let p := byteAt b 20
  ((s.flash.mtrRec.filter fun r => (p == 3 || r.1 == p) && leAt b 24 8 ≤ r.2.1).take (mBufLen b / 320)).map fun r => r.2.2

/-- The end of a CFG_SAVE (R433, R445): the slot holds the set, and is the boot slot when BOOT says so. -/
def State.cfgSaveEnd (s : State) (mid : Nat) (b : List Byte) (set : CfgSet) (imageId : Word) (ok : Bool) : State :=
  let slot := bitsOf (byteAt b 21) 0 1
  if ok then
    let f1 := s.flash.putCfg slot (some ⟨set, imageId, true⟩)
    let f2 := if bitOf (byteAt b 22) 0 then { f1 with bootSlot := some slot } else f1
    ({ s with flash := f2 }).finish mid stDone (s.canonical set).length []
  else (({ s with flash := s.flash.putCfg slot none }).flashFail).finish0 mid stFlashError

/-- The end of a CFG_READ (R433, R439): the set in canonical form in the host's buffer. -/
def State.cfgReadEnd (s : State) (mid : Nat) (b img : List Byte) (ok : Bool) : State :=
  if ok then (s.emit (.hostWrite (mBufAddr b) img)).finish mid stDone img.length [] else s.finish0 mid stDmaError

/-- The end of an MTR_READ (R433): the records in the host's buffer. -/
def State.mtrReadEnd (s : State) (mid : Nat) (b : List Byte) (ok : Bool) : State :=
  let recs := s.mtrAsked b
  if ok then
    (if recs = [] then s else s.emit (.hostWrite (mBufAddr b) recs.flatten)).finish mid stDone recs.length []
  else s.finish0 mid stDmaError

/-- The end of a FW_STAGE (R446): the slot holds the image once its signature is verified, and is invalid otherwise. -/
def State.fwStageEnd (s : State) (mid : Nat) (b img : List Byte) (sigOk ok : Bool) (ver : Word) : State :=
  let put (v : Option FwSlot) : State := { s with flash := s.flash.putFw (mFwSlot b) v }
  if !ok then (put none).flashFail.finish0 mid stFlashError
  else if sigOk then (put (some ⟨true, ver, sha256 img⟩)).finish mid stDone img.length []
  else (put none).finish0 mid stBadImage

/-- The action a manifest has under way comes to its end. -/
def State.actEnd (s : State) (f : Fetched) : State :=
  match f.act with
  | some (.cfgSave set imageId ok) => s.cfgSaveEnd f.mid f.bytes set imageId ok
  | some (.cfgRead img ok) => s.cfgReadEnd f.mid f.bytes img ok
  | some (.mtrRead ok) => s.mtrReadEnd f.mid f.bytes ok
  | some (.fwStage img sigOk ok ver) => s.fwStageEnd f.mid f.bytes img sigOk ok ver
  | none => s

/-- The oldest action under way on ring pair n comes to its end. -/
def State.actNext (s : State) (n : Nat) : State :=
  match (s.ring n).fetched.find? fun f => f.act.isSome with
  | some f => s.actEnd f
  | none => s

/-- Every action under way comes to its end (R421). -/
def State.actAll (s : State) : State :=
  (List.range 16).foldl (fun (s : State) n => ((s.ring n).fetched.filter fun f => f.act.isSome).foldl State.actEnd s) s

/-- What an ABORT leaves of an action under way (R436), with DETAIL0: the flash slot is invalid; the host's buffer holds a prefix, of
whole records for MTR_READ, whose length is a free value (log entry 121). -/
def State.actAbort (s : State) (f : Fetched) : State × Nat :=
  let b := f.bytes
  match f.act with
  | some (.cfgSave _ _ _) => ({ s with flash := s.flash.putCfg (bitsOf (byteAt b 21) 0 1) none }, 0)
  | some (.fwStage _ _ _ _) => ({ s with flash := s.flash.putFw (mFwSlot b) none }, 0)
  | some (.cfgRead img _) =>
    let got := img.take s.freshVal
    ((if got = [] then s.freshNext else s.freshNext.emit (.hostWrite (mBufAddr b) got)), got.length)
  | some (.mtrRead _) =>
    let got := (s.mtrAsked b).take s.freshVal
    ((if got = [] then s.freshNext else s.freshNext.emit (.hostWrite (mBufAddr b) got.flatten)), got.length)
  | none => (s, 0)

/-- The CFG_SAVE manifest (R433, R445): the set is taken as it stands at the start, since manifests of one unit are carried out in the
order they started (R427). `ok` says whether the flash write will succeed. A save over the boot slot clears the boot
slot first. -/
def manCfgSave (n : Nat) (ok : Bool) (s : State) : State :=
  s.runManifest n 0x0014 fun mid b s =>
    let f0 := if s.flash.bootSlot = some (bitsOf (byteAt b 21) 0 1) then { s.flash with bootSlot := none } else s.flash
    ({ s with flash := f0 }).setAct n mid (.cfgSave (s.namedSet b) s.cfg.imageId ok)

/-- The CFG_READ manifest (R433, R439): INVALID_PARAM with the bytes needed, or the set is read. `ok` says whether the host buffer
will be written without error. -/
def manCfgRead (n : Nat) (ok : Bool) (s : State) : State :=
  s.runManifest n 0x0015 fun mid b s =>
    let img := s.canonical (s.namedSet b)
    if mBufLen b < img.length then s.finish mid stInvalidParam img.length [] else s.setAct n mid (.cfgRead img ok)

/-- The engines of a class (R23, R388). -/
def classEngines (c : Nat) : List Nat :=
  match c with
  | 0 => [0, 1, 2, 3]
  | 1 => [4, 5, 6, 7, 8, 9, 10, 11]
  | 2 => [12, 13, 14, 15, 16, 17, 18, 19, 20, 21, 22, 23]
  | 3 => [24, 25, 26, 27]
  | 4 => [28, 29]
  | 5 => [30, 31]
  | _ => []

/-- The class of an engine. -/
def engClass (e : Nat) : Nat := if e < 4 then 0 else if e < 12 then 1 else if e < 24 then 2 else if e < 28 then 3 else if e < 30 then 4 else 5

/-- The FW_STAGE manifest (R433, R446): BUSY while a present engine of the class is selected on the slot or a rotation of the
class runs; otherwise the image is being written and verified. `sigOk` is the verification's outcome, `ver` the image's
version, `ok` whether the flash write will succeed. -/
def manFwStage (n : Nat) (buf : Option (List Byte)) (sigOk ok : Bool) (ver : Word) (s : State) : State :=
  s.runManifest n 0x0070 fun mid b s =>
    let c := byteAt b 20
    let slot := bitsOf (byteAt b 21) 0 1
    if ((classEngines c).any fun e => s.hasEng e && nth 0 s.flash.fwSel e == slot) ∨
        (s.plt.rot.any fun r => engClass r.engine == c) then s.finish0 mid stBusy
    else withBuf s mid buf fun img => s.setAct n mid (.fwStage img sigOk ok ver)

/-- The SUBSYS_SET manifest (R419, R433): the subsystem record of the boot block, in effect from the next conventional reset. -/
def manSubsysSet (n : Nat) (ok : Bool) (s : State) : State :=
  s.runManifest n 0x0072 fun mid b s =>
    if ok then ({ s with flash := { s.flash with subsys := some (leAt b 20 2, leAt b 22 2) } }).finish0 mid stDone
    else s.flashFail.finish0 mid stFlashError

/-! ### ABORT (R436) -/

/-- The oldest outstanding manifest with a TAG in a pair: fetched (`some (some f)`), completed and not yet written
(`some none`), or none. -/
def Ring.target (r : Ring) (tag : Nat) : Option (Option Fetched) :=
  let f := r.fetched.find? fun f => mTag f.bytes == tag
  let d := r.done.find? fun c => c.tag == tag
  match f, d with
  | some f, some d => if d.mid < f.mid then some none else some (some f)
  | some f, none => some (some f)
  | none, some _ => some none
  | none, none => none

/-- The ABORT manifest: one outcome for itself and one for its target (R436). -/
def manAbort (n : Nat) (s : State) : State :=
  s.runManifest n 0x0001 fun mid b s =>
    let p := bitsOf (byteAt b 20) 0 4
    match (s.ring p).target (leAt b 24 4) with
    | some (some f) =>
      if mOpcode f.bytes = 0x0001 then s.finish0 mid stInvalidParam
      else if !f.started then (s.finish0 f.mid stAborted).finish0 mid stDone
      else if mOpcode f.bytes = 0x0013 ∧ (s.cfg.commit.any fun c => c.mid == some f.mid) = true then
        (s.dropCommit.finish0 f.mid stAborted).finish0 mid stDone
      else if mOpcode f.bytes = 0x0020 then
        let q := ((s.hif.jobs.find? fun j => j.mid == f.mid).map (·.queued.length)).getD 0
        let s1 := { s with hif := { s.hif with jobs := s.hif.jobs.filter fun j => j.mid != f.mid } }
        (s1.finish f.mid stAborted q []).finish0 mid stDone
      else if f.act.isSome then
        let r := s.actAbort f
        (r.1.finish f.mid stAborted r.2 []).finish0 mid stDone
      else s.modRing p fun r =>
        { r with fetched := r.fetched.map fun g => if g.mid = f.mid then { g with abortedBy := g.abortedBy ++ [mid] } else g }
    | _ => s.finish0 mid stAlreadyDone

end Sys2Proof.Machine
end

