-- ==== Sys2Proof/Machine/Ecdsa.lean ====
section
/-! DEFINITION. ECDSA on P-256 with SHA-256 (FIPS 186-4) and its per-message number (RFC 6979), which the crypto engine serves (R509, R511,
R516). A point is projective in the weights 2 and 3: (X, Y, Z) stands for (X / Z², Y / Z³), and Z = 0 for the identity. -/

namespace Sys2Proof.Machine

/-- The field of P-256. -/
def p256Field : Int := 2 ^ 256 - 2 ^ 224 + 2 ^ 192 + 2 ^ 96 - 1
/-- The constant term of the curve y² = x³ − 3x + b. -/
def p256B : Int := 0x5AC635D8AA3A93E7B3EBBD55769886BC651D06B0CC53B0F63BCE3C3E27D2604B
/-- The order n of the group. -/
def p256Order : Nat := 0xFFFFFFFF00000000FFFFFFFFFFFFFFFFBCE6FAADA7179E84F3B9CAC2FC632551

/-- A point in projective coordinates. -/
abbrev EcPoint : Type := Int × Int × Int

/-- The base point G. -/
def p256Base : EcPoint :=
  (0x6B17D1F2E12C4247F8BCE6E563A440F277037D812DEB33A0F4A13945D898C296,
   0x4FE342E2FE1A7F9B8EE7EB4A7C0F9E162BCE33576B315ECECBB6406837BF51F5, 1)

/-- Twice a point. -/
def ecTwice (a : EcPoint) : EcPoint :=
  let (x, y, z) := a
  let zz := z * z % p256Field
  let yy := y * y % p256Field
  let slope := 3 * (x - zz) * (x + zz) % p256Field
  let mid := 4 * x * yy % p256Field
  let x2 := (slope * slope - 2 * mid) % p256Field
  (x2, (slope * (mid - x2) - 8 * yy * yy) % p256Field, 2 * y * z % p256Field)

/-- The sum of two points. -/
def ecAdd (a b : EcPoint) : EcPoint :=
  let (x1, y1, z1) := a
  let (x2, y2, z2) := b
  if z1 = 0 then b
  else if z2 = 0 then a
  else
    let u := x1 * z2 * z2 % p256Field
    let v := y1 * z2 * z2 * z2 % p256Field
    let du := (x2 * z1 * z1 - u) % p256Field
    let dv := (y2 * z1 * z1 * z1 - v) % p256Field
    if du = 0 then (if dv = 0 then ecTwice a else (1, 1, 0))
    else
      let dd := du * du % p256Field
      let x := (dv * dv - du * dd - 2 * u * dd) % p256Field
      (x, (dv * (u * dd - x) - v * du * dd) % p256Field, du * z1 * z2 % p256Field)

/-- A multiple of a point, by the 256 bits of the factor from the highest. -/
def ecMul (k : Nat) (a : EcPoint) : EcPoint :=
  (List.range 256).foldr (fun i r => let d := ecTwice r; if k.testBit i then ecAdd d a else d) (1, 1, 0)

/-- A power of a number to a modulus, by the 256 bits of the exponent from the highest. -/
def powMod (a e m : Int) : Int :=
  (List.range 256).foldr (fun i r => let d := r * r % m; if e.toNat.testBit i then d * a % m else d) 1

/-- The inverse to a prime modulus. -/
def invMod (a m : Int) : Int := powMod a (m - 2) m

/-- The affine X and Y of a point. -/
def ecAffine (a : EcPoint) : Nat × Nat :=
  let w := invMod a.2.2 p256Field
  ((a.1 * w * w % p256Field).toNat, (a.2.1 * w * w * w % p256Field).toNat)

/-- The public key, X then Y, of a private scalar (R509). -/
def ecdsaPub (d : List Byte) : List Byte := let q := ecAffine (ecMul (beNat d) p256Base); beBytes 32 q.1 ++ beBytes 32 q.2

/-- Whether 64 bytes, X then Y, are a point of the curve, which the identity is never (R511). -/
def onCurve (m : List Byte) : Bool :=
  let x : Int := beAt m 0 32
  let y : Int := beAt m 32 32
  decide (x < p256Field ∧ y < p256Field ∧ (y * y - (x * x * x - 3 * x + p256B)) % p256Field = 0)

/-- Whether a signature, r then s, over a digest of 32 bytes verifies against a public key. -/
def ecdsaVerify (pub digest sig : List Byte) : Bool :=
  let r := beAt sig 0 32
  let t := beAt sig 32 32
  if 1 ≤ r ∧ r < p256Order ∧ 1 ≤ t ∧ t < p256Order then
    let w := (invMod t p256Order).toNat
    let q : EcPoint := (beAt pub 0 32, beAt pub 32 32, 1)
    let sum := ecAdd (ecMul (beNat digest * w % p256Order) p256Base) (ecMul (r * w % p256Order) q)
    sum.2.2 ≠ 0 && (ecAffine sum).1 % p256Order == r
  else false

/-- The signature a per-message number gives; none when it has to be drawn again. -/
def ecdsaTry (d z k : Nat) : Option (List Byte) :=
  if k = 0 ∨ p256Order ≤ k then none
  else
    let r := (ecAffine (ecMul k p256Base)).1 % p256Order
    let t := (invMod k p256Order).toNat * (z + r * d) % p256Order
    if r = 0 ∨ t = 0 then none else some (beBytes 32 r ++ beBytes 32 t)

/-- The HMAC generator of RFC 6979 after some data: its key and its value. -/
def drbgMix (key val data : List Byte) : List Byte × List Byte := let k := hmacSha256 key (val ++ data); (k, hmacSha256 k val)

/-- The draws of RFC 6979 until one gives a signature; after the bound, which no known input reaches, a zero signature. -/
def ecdsaDraw (d z : Nat) : Nat → List Byte → List Byte → List Byte
  | 0, _, _ => List.replicate 64 0
  | n + 1, key, val =>
    let v := hmacSha256 key val
    match ecdsaTry d z (beNat v) with
    | some sig => sig
    | none => let m := drbgMix key v [0]; ecdsaDraw d z n m.1 m.2

/-- The signature, r then s, of a private scalar over a digest of 32 bytes (R516: RFC 6979 with SHA-256, s as it comes). -/
def ecdsaSign (d digest : List Byte) : List Byte :=
  let seed := padTo 32 d ++ beBytes 32 (beNat digest % p256Order)
  let m1 := drbgMix (List.replicate 32 0) (List.replicate 32 1) ([0] ++ seed)
  let m2 := drbgMix m1.1 m1.2 ([1] ++ seed)
  ecdsaDraw (beNat d) (beNat digest) 128 m2.1 m2.2

end Sys2Proof.Machine
end

