-- ==== Sys2Proof/Machine/KeyStore.lean ====
section
/-! DEFINITION. The key store (chapter 16): root and derived keys, slots, nonces, the requests to the crypto engine and the key
manifests. What a finished operation does for its requester is in Crypto.lean. -/

namespace Sys2Proof.Machine

/-- The private scalar of a 320-bit KDF output (R509): (c mod (n − 1)) + 1, as 32 bytes big-endian. -/
def scalarOf (c : List Byte) : List Byte := beBytes 32 (beNat c % (p256Order - 1) + 1)

/-- METER_SIGN for a boot measurement (R509). -/
def meterSignKey (root meas : List Byte) : List Byte := scalarOf (kdf root "FN8240-MTR-SIGN" meas 320)

/-- LOG_SIGN (R509). -/
def logSignKey (root : List Byte) : List Byte := scalarOf (kdf root "FN8240-LOG-SIGN" (List.replicate 32 0) 320)

/-- A key slot (R511). Slots 56 to 58 hold the derived keys, 59 to 63 are empty; USAGE of a derived slot: SIGN for the two
signing keys, none for SLOT_WRAP (DEDUCED from the use R509 gives). -/
def State.keySlot (s : State) (i : Nat) : KeySlot :=
  if i < 56 then mapGet (fun _ => ({} : KeySlot)) s.key.slots i
  else if i = 56 ∨ i = 57 then { typ := 5, usage := 4 }
  else if i = 58 then { typ := 5 }
  else {}

/-- A failed use of a key (R517). -/
def State.keyUseErr (s : State) : State := (s.count (Reg.KEY_CNT_LO 3)).event Reg.KEY_EVT 2

/-- Whether a software slot fits a service: its TYPE and a USAGE bit (R511, R517). -/
def State.slotFits (s : State) (i typ bit : Nat) : Bool := (s.keySlot i).typ == typ && (s.keySlot i).usage.getLsbD bit

/-- Whether a slot may verify a token: ECC_PUB with VERIFY_TOKEN and LOCK (R517). -/
def State.tokenSlotOk (s : State) (i : Nat) : Bool := s.slotFits i 4 3 && (s.keySlot i).lock

/-- A request that finds a crypto context, within its owner's quota, takes one; otherwise it gets NO_LEASE (R516, R42). -/
def State.cryptoStart (s : State) (op : CryptoOp) : Option State :=
  match (List.range 8).find? fun i => s.leaseFree 3 i with
  | some i =>
    if s.leaseHeld 3 op.owner < s.quota op.owner 3 then
      some (({ s with key := { s.key with ops := s.key.ops ++ [{ op with ctx := i }] } }).leaseTake 3 i op.owner)
    else none
  | none => none

/-- A crypto context that an operation takes and gives back within one command (R41, R516): the HMAC and GCM operations, whose bound is
some microseconds and which nothing else meets under way (DESIGN CHOICE, log entry 117); none when no context is free within the owner's
quota (R42). -/
def State.cryptoNow (s : State) (owner : Nat) : Option State := s.leaseNow 3 8 owner

/-- The unit whose request a crypto operation serves (R45): metering, the logbook, or the key store itself, which also serves
the debug port, since that holds no lease (R46). -/
def CryptoUse.owner : CryptoUse → Nat
  | .signRecord _ _ | .verifyMtrReset _ _ => unitCode 12
  | .signCheckpoint _ | .verifyLogClear _ _ => unitCode 14
  | .verifyReplace _ _ _ | .verifyUnlock _ => unitCode 19

/-- A signing request (R516): it starts, or waits while METER_SIGN is being derived (R510); none when it fails, with the
state in which the failure is counted. -/
def State.requestSign (s : State) (use : CryptoUse) (slot : Nat) (msg : List Byte) : State × Bool :=
  let waits := slot == 56 && s.key.deriving_.contains 56
  if s.hw.root = .present ∧ (waits ∨ s.key.derivedOk.contains slot = true) then
    let key := if waits then [] else if slot = 56 then meterSignKey s.hw.rootSecret s.key.meterMeas else logSignKey s.hw.rootSecret
    match s.cryptoStart ⟨0, use.owner, use, slot, key, msg, []⟩ with
    | some s' => (s', true)
    | none => (s.count (Reg.KEY_CNT_LO 6), false)
  else (s.keyUseErr, false)

/-- A verification request against a public key (R516). -/
def State.requestVerify (s : State) (use : CryptoUse) (slot : Nat) (msg sig : List Byte) : State × Bool :=
  match s.cryptoStart ⟨0, use.owner, use, slot, (s.keySlot slot).material, msg, sig⟩ with
  | some s' => (s', true)
  | none => (s.count (Reg.KEY_CNT_LO 6), false)

/-- A fresh 64-bit nonce from the TRNG. -/
def State.drawNonce (s : State) : Nat := s.freshVal % 2 ^ 64

/-- A read of KEY_NONCE_LO (R515): a fresh nonce, the previous one void, HI latched; zero while the TRNG is in failure. -/
def keyNonceRead (s : State) : State :=
  if s.key.trngFail then
    { s with key := { s.key with nonce := none }, rdata := 0, latch := mapSet s.latch Reg.KEY_NONCE_HI 0 }
  else
    let n := s.drawNonce
    { s.freshNext with
      key := { s.key with nonce := some n, nonceRecSeq := s.mtr.point.map fun p => p.keep.recSeq }
      rdata := BitVec.ofNat 32 n
      latch := mapSet s.latch Reg.KEY_NONCE_HI (BitVec.ofNat 32 (n / 2 ^ 32)) }

/-- Every attempt voids the nonce (R514, R519). -/
def State.voidKeyNonce (s : State) : State := { s with key := { s.key with nonce := none } }

/-! ### Derivation (R509, R510) -/

/-- A derivation of a slot begins. -/
def State.deriveStart (s : State) (slot : Nat) : State :=
  if s.hw.root = .present ∧ !s.key.deriving_.contains slot then
    { s with key := { s.key with deriving_ := s.key.deriving_ ++ [slot], derivedOk := s.key.derivedOk.filter (· != slot) } }
  else s

/-- The measurement of the engine that holds the metering role. -/
def State.meterMeas (s : State) : List Byte := (nth {} s.plt.eng s.plt.mtrEng).fwMeas

/-- The derivation of a slot completes (R510): signatures that waited for METER_SIGN take the new key; METER_KEY is set when
the public key differs from the one held before. -/
def keyDeriveDone (slot : Nat) (s : State) : State :=
  if !s.key.deriving_.contains slot then s
  else
    let k1 := { s.key with
      deriving_ := s.key.deriving_.filter (· != slot)
      derivedOk := if s.key.derivedOk.contains slot then s.key.derivedOk else s.key.derivedOk ++ [slot] }
    if slot = 56 then
      let key := meterSignKey s.hw.rootSecret s.meterMeas
      let pub := ecdsaPub key
      let k2 := { k1 with
        meterMeas := s.meterMeas
        meterPub := pub
        ops := k1.ops.map fun o => if o.slot = 56 ∧ o.key = [] then { o with key := key } else o }
      let s1 := ({ s with key := k2 }).count (Reg.KEY_CNT_LO 4)
      if s.key.meterPub ≠ [] ∧ s.key.meterPub ≠ pub then s1.event Reg.KEY_EVT 1 else s1
    else ({ s with key := k1 }).count (Reg.KEY_CNT_LO 4)

/-- The software slots as the key store restores them at reset and after re-initialisation (R512): from the sealed store, or
EMPTY with STORE_LOST when its tag fails, or cannot be checked for want of a root. -/
def State.keyRestore (s : State) : State :=
  if s.flash.keyStoreOk ∧ (s.hw.root = .present ∨ s.flash.keyStore = []) then
    { s with key := { s.key with slots := s.flash.keyStore, storeLost := false } }
  else ({ s with key := { s.key with slots := [], storeLost := true } }).event Reg.KEY_EVT 4

/-! ### Slots and their manifests (R511 to R514, R520) -/

/-- USAGE bits a TYPE permits (R511). -/
def usageMask (typ : Nat) : Nat :=
  match typ with
  | 1 => 1
  | 2 => 2
  | 3 => 4
  | 4 => 0x18
  | _ => 0

/-- Bytes of material of a TYPE (R511). -/
def materialLen (typ : Nat) : Nat :=
  match typ with
  | 1 | 2 | 3 => 32
  | 4 => 64
  | _ => 0

/-- Whether a TYPE, its USAGE and the BUF_LEN fit (R511, R520). -/
def keyParamsOk (typ usage len : Nat) : Bool := typ ≤ 4 && (usage &&& (0xFFFF - usageMask typ)) == 0 && len == materialLen typ

/-- Whether material is in range: a scalar from 1 to n − 1, a point on the curve (R511). -/
def materialOk (typ : Nat) (m : List Byte) : Bool :=
  match typ with
  | 3 => 1 ≤ beNat m && beNat m < p256Order
  | 4 => onCurve m
  | _ => true

/-- The slot contents a KEY_WRITE or KEY_REPLACE carries. -/
def keyOf (b : List Byte) (material : List Byte) : KeySlot :=
  { typ := bitsOf (byteAt b 21) 0 3, usage := BitVec.ofNat 16 (leAt b 22 2), lock := bitOf (byteAt b 24) 0, material := material }

/-- Whether a change of the slots is under way, behind which a later key manifest waits (R427, R512). -/
def State.keyBusy (s : State) : Bool :=
  s.key.writing.isSome || s.key.ops.any fun o => match o.use with | .verifyReplace _ _ _ => true | _ => false

/-- A slot change starts: the sealed store is sealed and written first (R512, R516). Without a crypto context for it the manifest
completes BUSY (DESIGN CHOICE, log entry 117). -/
def State.keyChange (s : State) (mid : Nat) (slot : Nat) (new : KeySlot) (close : Bool) : State :=
  match s.cryptoNow (unitCode 19) with
  | none => (s.count (Reg.KEY_CNT_LO 6)).finish0 mid stBusy
  | some s1 => { s1 with key := { s1.key with writing := some ⟨some mid, slot, new, close⟩ } }

/-- The KEY_WRITE manifest (R511, R513, R520). -/
def manKeyWrite (n : Nat) (buf : Option (List Byte)) (s : State) : State :=
  if s.keyBusy then s
  else s.runManifest n 0x00A0 fun mid b s =>
    let slot := bitsOf (byteAt b 20) 0 6
    let typ := bitsOf (byteAt b 21) 0 3
    if s.hw.root ≠ .present then s.finish0 mid stRefused
    else if !keyParamsOk typ (leAt b 22 2) (mBufLen b) then s.finish0 mid stInvalidParam
    else if 56 ≤ slot ∨ (s.hw.provClosed ∧ (s.keySlot slot).lock) then s.finish0 mid stRefused
    else withBuf s mid buf fun m =>
      let m := padTo (materialLen typ) m
      if materialOk typ m then s.keyChange mid slot (keyOf b m) false else s.finish0 mid stInvalidParam

/-- The message a KEY_REPLACE signature covers (R514). -/
def State.replaceMsg (s : State) (slot : Nat) (k : KeySlot) (nonce : Nat) : List Byte :=
  ascii "FNKEYREP" ++ s.deviceId ++ leBytes 1 slot ++ leBytes 1 k.typ ++ leBytes 2 k.usage.toNat ++ leBytes 1 (b2n k.lock) ++
    leBytes 8 nonce ++ sha256 k.material

/-- The KEY_REPLACE manifest (R513, R514, R520): the nonce first, then the signature against slot 0. -/
def manKeyReplace (n : Nat) (buf : Option (List Byte)) (s : State) : State :=
  if s.keyBusy then s
  else s.runManifest n 0x00A1 fun mid b s =>
    let slot := bitsOf (byteAt b 20) 0 6
    let typ := bitsOf (byteAt b 21) 0 3
    if s.hw.root ≠ .present then s.finish0 mid stRefused
    else if mBufLen b < 64 ∨ !keyParamsOk typ (leAt b 22 2) (mBufLen b - 64) then s.finish0 mid stInvalidParam
    else if 56 ≤ slot then s.finish0 mid stRefused
    else withBuf s mid buf fun m =>
      let mat := padTo (materialLen typ) m
      if !materialOk typ mat then s.finish0 mid stInvalidParam
      else
        match s.key.nonce with
        | none => s.voidKeyNonce.finish0 mid stNonce
        | some nonce =>
          let s1 := s.voidKeyNonce
          if !s1.slotFits 0 4 4 then (s1.keyUseErr.event Reg.KEY_EVT 3).finish0 mid stAuthFail
          else
            let r := s1.requestVerify (.verifyReplace mid slot (keyOf b mat)) 0 (s1.replaceMsg slot (keyOf b mat) nonce)
              (slice m (materialLen typ) 64)
            if r.2 then r.1 else r.1.finish0 mid stBusy

/-- The KEY_ERASE manifest (R513, R520). -/
def manKeyErase (n : Nat) (s : State) : State :=
  if s.keyBusy then s
  else s.runManifest n 0x00A2 fun mid b s =>
    let slot := bitsOf (byteAt b 20) 0 6
    if s.hw.root ≠ .present ∨ 56 ≤ slot ∨ (s.hw.provClosed ∧ (s.keySlot slot).lock) then s.finish0 mid stRefused
    else s.keyChange mid slot {} false

/-- The KEY_PUBKEY manifest (R520): the 64 bytes of an ECC_PUB slot or of the public key of slot 56 or 57. `ok` says whether
the host buffer is written without error. -/
def manKeyPubkey (n : Nat) (ok : Bool) (s : State) : State :=
  s.runManifest n 0x00A3 fun mid b s =>
    let slot := bitsOf (byteAt b 20) 0 6
    let give (pub : List Byte) : State :=
      if mBufLen b < 64 then s.finish0 mid stInvalidParam
      else if ok then (s.emit (.hostWrite (mBufAddr b) pub)).finish mid stDone 64 []
      else s.finish0 mid stDmaError
    if s.hw.root ≠ .present ∧ 56 ≤ slot then s.finish0 mid stRefused
    else if slot < 56 then (if (s.keySlot slot).typ = 4 then give (s.keySlot slot).material else s.finish0 mid stInvalidParam)
    else if slot = 56 ∨ slot = 57 then
      if !s.key.derivedOk.contains slot then s.finish0 mid stRefused
      else give (if slot = 56 then s.key.meterPub else ecdsaPub (logSignKey s.hw.rootSecret))
    else s.finish0 mid stInvalidParam

/-- The KEY_CLOSE manifest (R513, R520). -/
def manKeyClose (n : Nat) (s : State) : State :=
  if s.keyBusy then s
  else s.runManifest n 0x00A4 fun mid b s =>
    if s.hw.root ≠ .present then s.finish0 mid stRefused
    else if leAt b 20 4 ≠ 0x434C4F53 then s.finish0 mid stInvalidParam
    else if s.hw.provClosed then s.finish0 mid stAlreadyDone
    else if !s.slotFits 0 4 4 then s.finish0 mid stRefused
    else s.keyChange mid 0 { s.keySlot 0 with lock := true } true

/-- The sealed store write of a slot change completes (R512, R520): the change takes effect, its GEN advanced; or it fails
and the slot keeps its contents. -/
def keyStoreWriteDone (ok : Bool) (s : State) : State :=
  match s.key.writing with
  | none => s
  | some w =>
    let s0 := { s with key := { s.key with writing := none } }
    if ok then
      let gen := (s.keySlot w.slot).gen + 1
      let slots := mapPut (fun _ => ({} : KeySlot)) s.key.slots w.slot { w.new with gen := gen }
      let s1 := { s0 with
        key := { s0.key with slots := slots }
        flash := { s0.flash with keyStore := slots, keyStoreOk := true }
        hw := { s0.hw with provClosed := s0.hw.provClosed || w.close } }
      ((s1.event Reg.KEY_EVT 0).count (Reg.KEY_CNT_LO 5)).finishOpt w.mid stDone (if w.close then 0 else gen.toNat) []
    else s0.flashFail.finishOpt w.mid stFlashError 0 []

/-- The message a metering reset token covers (R519). -/
def State.mtrResetMsg (s : State) (point nonce : Nat) : List Byte :=
  ascii "FNMTRRST" ++ s.deviceId ++ leBytes 1 point ++ leBytes 8 (nth {} s.mtr.point point).keep.recSeq ++ leBytes 8 nonce

/-- The MTR_RESET manifest (R519): the nonce, then REC_SEQ, then the signature against KEY_CFG.MTR_AUTH_SLOT. -/
def manMtrReset (n : Nat) (buf : Option (List Byte)) (s : State) : State :=
  s.runManifest n 0x0050 fun mid b s =>
    let p := byteAt b 20
    if mBufLen b ≠ 64 then s.finish0 mid stInvalidParam
    else withBuf s mid buf fun sig =>
      match s.key.nonce with
      | none => s.voidKeyNonce.finish0 mid stNonce
      | some nonce =>
        let s1 := s.voidKeyNonce
        if (nth {} s.mtr.point p).keep.recSeq ≠ nth 0 s.key.nonceRecSeq p then s1.finish0 mid stStale
        else
          let slot := s1.fld Reg.KEY_CFG 0 6
          if !s1.tokenSlotOk slot then (s1.keyUseErr.event Reg.KEY_EVT 3).finish0 mid stAuthFail
          else
            let r := s1.requestVerify (.verifyMtrReset mid p) slot (s1.mtrResetMsg p nonce) (padTo 64 sig)
            if r.2 then r.1 else r.1.finish0 mid stBusy

end Sys2Proof.Machine
end

