-- ==== Sys2Proof/Machine/Counters.lean ====
section
/-! DEFINITION. The pilot's descriptors and engines, and what an engine's nine performance counters count (R406 to R408). -/

namespace Sys2Proof.Machine

/-- The pilot changed. -/
def State.modPlt (s : State) (f : Plt → Plt) : State := { s with plt := f s.plt }
/-- Task descriptor i. -/
def State.task (s : State) (i : Nat) : Task := mapGet (fun _ => ({} : Task)) s.plt.tasks i
/-- Task descriptor i set. -/
def State.setTask (s : State) (i : Nat) (t : Task) : State := s.modPlt fun p => { p with tasks := mapPut (fun _ => ({} : Task)) p.tasks i t }
/-- Engine e. -/
def State.engine (s : State) (e : Nat) : Eng := nth {} s.plt.eng e
/-- Engine e changed. -/
def State.modEng (s : State) (e : Nat) (f : Eng → Eng) : State := s.modPlt fun p => { p with eng := p.eng.modify e f }

/-- Whether an owner code of R45 is that of a fenced engine or unit (R486). -/
def State.ownerFenced (s : State) (code : Nat) : Bool :=
  if code < 32 then (s.engine code).rstate == .fenced else s.unitFenced (code - 31)

/-! ### Performance counters (R406 to R408) -/

/-- Whether the clock of engine e runs (R448): the control cores stop in DEEP and the other engines from HARBOUR on; outside FULL the
clock of an engine with no task is gated. -/
def State.engClock (s : State) (e : Nat) : Bool :=
  (s.pwr.state == 0 || (s.engine e).running.isSome) && decide (s.pwr.state < if engClass e = 0 then 4 else 2)

/-- Whether the nine counters of engine e count (R406). -/
def State.engCounting (s : State) (e : Nat) : Bool :=
  s.hasEng e && s.bit (Reg.ENG_CNT_CTRL e) 0 && !s.bit Reg.PLT_CNT_CTRL 0 && s.engClock e

/-- The event that counter i of engine e selects (R407). -/
def State.cntEvent (s : State) (e i : Nat) : Nat := s.fld (Reg.ENG_CNT_SEL e i) 0 8

/-- Whether programmable counter i of engine e selects an event that counts something (R407). -/
def State.cntSelected (s : State) (e i : Nat) : Bool :=
  let ev := s.cntEvent e i
  1 ≤ ev && ev ≤ 0x12 && !(ev == 0x12 && engClass e != 2 && engClass e != 4)

/-- What an engine has counted over an interval. -/
structure EngSpan where
  cycles : Nat
  event : Nat → Nat

/-- An interval of an idle engine (R407, R408): every issue slot is front-starved and every cycle idle. -/
def idleSpan (cycles : Nat) : EngSpan := ⟨cycles, fun k => if k = 3 then 4 * cycles else if k = 0x11 then cycles else 0⟩

/-- The events whose count an instruction's retirement bounds (R407): retired slots, instructions, branches, mispredicted branches and
vector instructions. -/
def retires (k : Nat) : Bool := k == 1 || k == 5 || k == 6 || k == 7 || k == 0x12

/-- An interval of an engine that runs a task (R407, R408), whose length and events are open values, since no command tells the
instructions an engine executes. Each cycle puts its 4 issue slots under exactly one of the codes 1 to 4; no more instructions retire than
slots, no more branches or vector instructions than instructions, no more mispredictions than branches, no more refusals than lease
requests; a code that counts cycles counts no more than there are. Tasks and pre-emptions (0x0F, 0x10) are counted where they happen.
`known k` is the count that event k is known to have reached, 0 when it is not known. -/
def busySpan (draw known : Nat → Nat) : EngSpan :=
  let upTo (k n : Nat) : Nat := if known k = 0 then draw k % (n + 1) else 0
  let ret := known 1 + known 5 + known 6 + known 7 + known 0x12
  let slots := ret + known 2 + known 3 + known 4
  let cycles := draw 0 + (slots + 3) / 4 + known 0x0B + known 0x0C
  let rest := 4 * cycles - slots
  let a1 := upTo 1 rest
  let a2 := upTo 2 (rest - a1)
  let a3 := if known 4 = 0 then upTo 3 (rest - a1 - a2) else rest - a1 - a2
  let instr := known 5 + (if known 5 = 0 then known 6 + known 7 + known 0x12 + upTo 5 a1 else 0)
  let br := known 6 + (if known 6 = 0 then known 7 + upTo 6 (instr - known 7) else 0)
  let lease := known 0x0D + (if known 0x0D = 0 then known 0x0E + draw 0x0D else 0)
  { cycles := cycles,
    event := fun k =>
      if k = 1 then ret + a1 else if k = 2 then known 2 + a2 else if k = 3 then known 3 + a3
      else if k = 4 then known 4 + (rest - a1 - a2 - a3)
      else if k = 5 then instr else if k = 6 then br
      else if k = 7 then known 7 + upTo 7 br
      else if k = 0x12 then known 0x12 + upTo 0x12 instr
      else if k = 0x0B ∨ k = 0x0C then known k + upTo k cycles
      else if k = 0x0D then lease
      else if k = 0x0E then known 0x0E + upTo 0x0E lease
      else if k = 0x0F ∨ k = 0x10 ∨ k = 0x11 then 0
      else if known k = 0 then draw k else known k }

/-- The most of an event that one cycle adds (R407, R408): the four slots and what retires in them; one of what is counted in cycles. The
manual gives no figure for the others, of which one at a time is taken (DESIGN CHOICE, log entry 128). -/
def perCycle (k : Nat) : Nat := if k = 2 ∨ k = 3 ∨ k = 4 ∨ retires k then 4 else 1

/-- Whether event k can happen on an engine (R407): an idle one only leaves slots front-starved and is idle; tasks and pre-emptions are told
by the commands that start them. -/
def wrapsHere (idle : Bool) (k : Nat) : Bool := if idle then k == 3 || k == 0x11 else k != 0x0F && k != 0x10 && k != 0x11

/-- The interval up to the cycle in which an event has been counted `left` times (R406): with it the counts of that cycle. -/
def wrapSpan (draw : Nat → Nat) (idle : Bool) (k left : Nat) : EngSpan :=
  if idle then idleSpan (if k = 3 then (left + 3) / 4 else left)
  else busySpan draw fun c => if c = k then left + draw 0x13 % perCycle k else 0

/-- An interval of which nothing is known. -/
def freeSpan (draw : Nat → Nat) (idle : Bool) : EngSpan := if idle then idleSpan (draw 0) else busySpan draw fun _ => 0

/-- Whether the sample ring of engine e can be written (R412). -/
def State.smpRingOk (s : State) (e : Nat) : Bool :=
  s.dramFits (s.reg64 (Reg.ENG_SMP_BASE_LO e)) (32 * 2 ^ s.fld (Reg.ENG_SMP_SIZE e) 0 5)

/-- A sample of counter i of engine e is written (R409). -/
def State.sampleWrite (s : State) (e i addr skid : Nat) : State :=
  if s.smpRingOk e then
    let n := (s.engine e).smpWr
    let size := 2 ^ s.fld (Reg.ENG_SMP_SIZE e) 0 5
    let b := leBytes 4 addr ++ leBytes 2 (((s.engine e).running).getD 0xFFF) ++ leBytes 1 (i + 8 * b2n (s.engine e).smpLost) ++
      leBytes 1 (min skid 12) ++ leBytes 8 (s.reg64 (Reg.ENG_CYCLE_LO e)) ++ tsBytes s.dt ++ leBytes 4 0
    let s1 := ((s.dramWrite (s.reg64 (Reg.ENG_SMP_BASE_LO e) + 32 * (n % size)) b).modEng e fun g =>
      { g with smpWr := n + 1, smpLost := false }).count (Reg.ENG_CTR_LO e 2)
    if size ≤ n then s1.count (Reg.ENG_CTR_LO e 3) else s1
  else s.count (Reg.ENG_CTR_LO e 3)

/-- A sample as a wrap takes it (R409): the address recorded, the instructions retired since the wrap, and whether a sample already waits to
be written. -/
structure SmpAt where
  addr : Nat
  skid : Nat
  busy : Bool

/-- A wrap of counter i of engine e (R406, R409): its overflow bit, and with SAMPLE a sample, or LOST in the next one while a sample
already waits. Of a wrap that no command tells, address and skid are free values. -/
def State.cntWrap (s : State) (e i : Nat) (smp : Option SmpAt) : State :=
  let s1 := s.event (Reg.ENG_CNT_OVF e) i
  if s1.bit (Reg.ENG_CNT_SEL e i) 8 then
    match smp with
    | some x => if x.busy then s1.modEng e fun g => { g with smpLost := true } else s1.sampleWrite e i x.addr x.skid
    | none => s1.freshNext.freshNext.sampleWrite e i (s1.freshVal % 2 ^ 32) (s1.freshNext.freshVal % 13)
  else s1

/-- Programmable counter i of engine e advanced by n (R406): it wraps at 2⁴⁸. -/
def State.cntAdd (s : State) (e i n : Nat) (smp : Option SmpAt) : State :=
  let v := s.reg64 (Reg.ENG_CNT_LO e i) % 2 ^ 48 + n
  let s1 := s.setReg64 (Reg.ENG_CNT_LO e i) (v % 2 ^ 48)
  if 2 ^ 48 ≤ v then s1.cntWrap e i smp else s1

/-- The nine counters of engine e advanced by an interval; `smp` tells the sample of one counter. -/
def State.cntSpan (s : State) (e : Nat) (x : EngSpan) (smp : Option (Nat × SmpAt)) : State :=
  (List.range 8).foldl (fun (s : State) i =>
    if s.cntSelected e i then s.cntAdd e i (x.event (s.cntEvent e i)) ((smp.filter fun p => p.1 == i).map (·.2)) else s)
    (s.setReg64 (Reg.ENG_CYCLE_LO e) ((s.reg64 (Reg.ENG_CYCLE_LO e) + x.cycles) % 2 ^ 64))

/-- The open values of an interval. -/
def State.spanDraw (s : State) (k : Nat) : Nat := Config.freshNat (s.fresh + k)

/-- The nine counters of engine e take the values they have reached: done whenever they are read, stopped or started, and when the
engine's running task or the power state changes. -/
def State.engCatchUp (s : State) (e : Nat) : State :=
  if s.engCounting e then (s.freshSkip 0x14).cntSpan e (freeSpan s.spanDraw (s.engine e).running.isNone) none else s

/-- An event of engine e that a command tells, counted by the counters that select it. -/
def State.engEvent (s : State) (e code : Nat) : State :=
  if s.engCounting e then
    (List.range 8).foldl (fun (s : State) i => if s.cntEvent e i = code then s.cntAdd e i 1 none else s) s
  else s

end Sys2Proof.Machine
end

