-- ==== Sys2Proof/Machine/Pilot.lean ====
section
/-! DEFINITION. The pilot scheduler and the rotation of engines (R388 to R405): submission, dispatch, pre-emption, waits, delays,
aging, abort, migration, and the engines' rotation states. -/

namespace Sys2Proof.Machine

/-! ### Ready lists (R390) -/

/-- The READY tasks of a class, as (descriptor, task). -/
def State.readyOf (s : State) (cls : Nat) : List (Nat × Task) := s.plt.tasks.filter fun t => t.2.st == .ready && t.2.cls == cls
/-- READY tasks of a class at priorities 0 to 5. -/
def State.readyLow (s : State) (cls : Nat) : Nat := ((s.readyOf cls).filter fun t => t.2.prio < 6).length
/-- READY tasks of a class in its alarm-class reserve. -/
def State.readyHigh (s : State) (cls : Nat) : Nat := ((s.readyOf cls).filter fun t => 6 ≤ t.2.prio).length
/-- PLT_RL_CAP_c. -/
def State.rlCap (s : State) (cls : Nat) : Nat := s.fld (Reg.PLT_RL_CAP cls) 0 12

/-- A list of READY tasks by the order in which they became READY. -/
def byOrder (l : List (Nat × Task)) : List (Nat × Task) := l.mergeSort fun a b => a.2.order ≤ b.2.order

/-- The list of a class and priority, in order. -/
def State.readyList (s : State) (cls prio : Nat) : List (Nat × Task) := byOrder ((s.readyOf cls).filter fun t => t.2.prio == prio)

/-- A task made READY at the tail of its list. -/
def State.makeReady (s : State) (i : Nat) (t : Task) : State :=
  (s.setTask i { t with st := .ready, engine := none, order := s.plt.order, readySince := s.dt, passed := 0 }).modPlt
    fun p => { p with order := p.order + 1 }

/-- A task returned to the head of its list. -/
def State.makeReadyHead (s : State) (i : Nat) (t : Task) : State :=
  let least := (s.readyOf t.cls).foldl (fun m x => min m x.2.order) s.plt.order
  s.setTask i { t with st := .ready, engine := none, order := least - 1, readySince := s.dt, passed := 0 }

/-- A descriptor back in its pool, its generation advanced (R389, R44). -/
def State.freeTask (s : State) (i : Nat) : State := s.setTask i { gen := ((s.task i).gen + 1) % 256 }

/-- RESUME to the submitters that wait on a quota that has fallen to seven eighths of its limit (R400): their tasks are
submitted again. -/
def State.pilotResume (s : State) : State :=
  (List.range 6).foldl (fun (s : State) c =>
    let fire (s : State) (q : Nat) (low : Bool) : State :=
      let w := s.plt.waitingSet.filter fun x => x.1 == q
      if low && !w.isEmpty then
        let mine (r : TaskReq) : Bool := r.cls + (if 6 ≤ r.prio then 8 else 0) == q
        s.modPlt fun p => { p with
          waitingSet := p.waitingSet.filter fun x => x.1 != q
          resumes := p.resumes ++ w.map fun x => (c, x.2)
          wants := p.held.filter mine ++ p.wants
          held := p.held.filter fun r => !mine r }
      else s
    fire (fire s c (decide (s.readyLow c ≤ s.rlCap c * 7 / 8))) (c + 8) (decide (s.readyHigh c ≤ 56))) s

/-! ### Submission (R388, R400, R42) -/

/-- The pilot's answer, recorded for its owner. -/
def State.answer (s : State) (owner : Nat) (r : SubmitRes) : State := s.modPlt fun p => { p with answers := p.answers ++ [(owner, r)] }

/-- Whether an owner code may hold a task (R45, R46): not the reserved codes 55 to 61, nor the debug port and the host, which never hold
leases. -/
def ownerMaySubmit (code : Nat) : Bool := code < 55

/-- The descriptor that a submission gets, if it gets one (R41, R42): the lowest FREE one, within its owner's quota. -/
def State.taskLease (s : State) (owner : Nat) : Option Nat :=
  if ((s.plt.tasks.filter fun t => t.2.st != .free && t.2.owner == owner).length) < s.quota owner 4 then
    (List.range 4096).find? fun i => (s.task i).st == .free
  else none

/-- The rate of the grid that an ABS key belongs to (R397): that of its second as grids stand at the submission; 0 while there is none. -/
def State.keyRate (s : State) (k : Option WakeKey) : Nat :=
  match k with
  | some (.abs sec _ _) => s.rateOf sec
  | _ => 0

/-- A task is submitted (R400): INVALID, FULL, NO_LEASE or ACCEPTED. A fenced owner gets an error response (R44); a code that can
hold no lease gets NO_LEASE (R46; DESIGN CHOICE for the reserved codes, log entry 120). -/
def State.submit (s : State) (r : TaskReq) : State :=
  if 6 ≤ r.cls then s.answer r.owner .invalid
  else if s.ownerFenced r.owner then s.answer r.owner .error
  else if !ownerMaySubmit r.owner then s.answer r.owner .noLease
  else
    let q := r.cls + (if 6 ≤ r.prio then 8 else 0)
    if (if 6 ≤ r.prio then 64 ≤ s.readyHigh r.cls else s.rlCap r.cls ≤ s.readyLow r.cls) then
      (((s.answer r.owner .full).modPlt fun p => { p with
        waitingSet := if p.waitingSet.contains (q, r.owner) then p.waitingSet else p.waitingSet ++ [(q, r.owner)]
        held := p.held ++ [r] }).count (Reg.PLT_CNT_LO 4)).event Reg.PLT_EVT 0
    else
      match s.taskLease r.owner with
      | none => s.answer r.owner .noLease
      | some i =>
        let t : Task :=
          { st := .free, gen := (s.task i).gen, cls := r.cls, prio := min r.prio 7, owner := r.owner, typ := r.typ,
            affinity := r.affinity, wake := r.wake, keyRate := s.keyRate r.wake, since := s.dt, timeout := min r.timeout 1048575, quayTag := r.quayTag, arg := r.arg }
        let s1 := (s.answer r.owner (.accepted i t.gen)).count (Reg.PLT_CNT_LO 0)
        if r.wake.isSome then (s1.setTask i { t with st := .delayed, order := s.plt.order }).modPlt fun p => { p with order := p.order + 1 }
        else s1.makeReady i t

/-- A task that a unit wants is submitted; with NO_LEASE it stays wanted, behind the others, and is tried again (R42). -/
def State.submitWant (s : State) (r : TaskReq) : State :=
  let s1 := s.submit r
  if s1.plt.answers.getLast? = some (r.owner, .noLease) then s1.modPlt fun p => { p with wants := p.wants ++ [r] } else s1

/-- A unit submits a task (R400). -/
def taskSubmitRow (req : Option TaskReq) (s : State) : State :=
  match req with
  | some r => s.submit r
  | none =>
    match s.plt.wants with
    | [] => s
    | r :: rest => (s.modPlt fun p => { p with wants := rest }).submitWant r

/-! ### Tasks that do a unit's work (R29, R225, R267) -/

/-- The task of a unit, of a TYPE and an argument, that runs and has not done its work. -/
def State.workTask (s : State) (owner typ arg : Nat) : Option (Nat × Task) :=
  s.plt.tasks.find? fun t => t.2.st == .running && t.2.owner == owner && t.2.typ == typ && t.2.arg == arg && !t.2.worked

/-- A task has done its work: its decisions are issued, its fold committed. -/
def State.taskWorked (s : State) (i : Nat) : State := s.setTask i { s.task i with worked := true }

/-- Whether a task of a unit on a quay is wanted, waits for a place or holds a descriptor. -/
def State.taskStands (s : State) (owner typ arg tag : Nat) : Bool :=
  let mine (r : TaskReq) : Bool := r.owner == owner && r.typ == typ && r.arg == arg && r.quayTag == tag
  s.plt.wants.any mine || s.plt.held.any mine || s.plt.tasks.any fun t =>
    t.2.st != .free && t.2.owner == owner && t.2.typ == typ && t.2.arg == arg && t.2.quayTag == tag

/-- Whether a task has started and not ended: it runs, is pre-empted, waits, or is READY again after a wait or a migration (R389). -/
def Task.begun (t : Task) : Bool :=
  t.st == .running || t.st == .preempted || t.st == .waiting || (t.st == .ready && (t.restart || t.waitRes != .none))

/-- A unit that EN 0 keeps from starting tasks (R225, R267), as a whole-device test keeps both (R496). -/
def State.unitOff (s : State) (owner : Nat) : Bool :=
  let whole : Bool := s.bst.running && s.bst.mode == 1
  (owner == 37 && (whole || !s.bit Reg.OSC_CTRL 0)) || (owner == 38 && (whole || !s.bit Reg.ISL_CTRL 0))

/-! ### Dispatch (R391 to R394) -/

/-- Whether a READY task may be dispatched: with SETTLED_ONLY in force no provisional task is (R489), and no task of a unit whose EN is 0
starts (R225, R267). -/
def State.mayRun (s : State) (t : Task) : Bool := !(s.plt.settledOnly && t.typ == 1) && (t.begun || !s.unitOff t.owner)

/-- The highest-priority non-empty list of a class among the tasks that may be dispatched. -/
def State.topList (s : State) (cls : Nat) : List (Nat × Task) :=
  match [7, 6, 5, 4, 3, 2, 1, 0].find? fun p => !((s.readyList cls p).filter fun t => s.mayRun t.2).isEmpty with
  | some p => (s.readyList cls p).filter fun t => s.mayRun t.2
  | none => []

/-- A READY task starts on engine e (R391): its affinity is set, AFFINITY_HITS counts a start on the engine it named. -/
def State.startOn (s : State) (i e : Nat) : State :=
  let t := s.task i
  let s0 := (s.engCatchUp e).engEvent e 0x0F
  let s1 := (s0.setTask i { t with st := .running, engine := some e, affinity := some e }).modEng e fun g => { g with running := some i }
  let s2 := (s1.count (Reg.PLT_CNT_LO 1)).count (Reg.ENG_CTR_LO e 0)
  if t.affinity = some e then s2.count (Reg.PLT_CNT_LO 9) else s2

/-- A PREEMPTED task resumes on the engine that holds it (R394). -/
def State.resumeOn (s : State) (i e : Nat) : State :=
  ((((s.engCatchUp e).engEvent e 0x0F).setTask i { s.task i with st := .running }).modEng e fun g =>
    { g with running := some i, preempted := g.preempted.filter (· != i) }).count (Reg.ENG_CTR_LO e 0)

/-- What engine e takes next (R391 steps 1 to 3), and the head it passed over. -/
def State.nextTask (s : State) (e : Nat) : Option (Bool × Nat × Option Nat) :=
  let g := s.engine e
  let top := if g.rstate = .inService then s.topList (engClass e) else []
  let held := g.preempted.getLast?
  match held, top with
  | some h, [] => some (true, h, none)
  | some h, t :: _ => if (s.task h).prio < t.2.prio then some (false, t.1, none) else some (true, h, none)
  | none, [] => none
  | none, t :: ts =>
    if 4 ≤ t.2.passed then some (false, t.1, none)
    else match ((t :: ts).take 8).find? fun x => x.2.affinity == some e with
      | some x => some (false, x.1, if x.1 = t.1 then none else some t.1)
      | none => some (false, t.1, none)

/-- Engine e takes its next task. -/
def State.engineTake (s : State) (e : Nat) : State :=
  match s.nextTask e with
  | none => s
  | some (true, i, _) => s.resumeOn i e
  | some (false, i, passed) =>
    let s1 := match passed with
      | some h => s.setTask h { s.task h with passed := (s.task h).passed + 1 }
      | none => s
    s1.startOn i e

/-- The idle engines of a class that may take work: those in service, and a draining one that holds a PREEMPTED task. -/
def State.idleEngines (s : State) (cls : Nat) : List Nat :=
  (classEngines cls).filter fun e =>
    s.hasEng e && (s.engine e).running.isNone &&
      ((s.engine e).rstate == .inService || ((s.engine e).rstate == .draining && !(s.engine e).preempted.isEmpty))

/-- Whether an engine has room for the context of a pre-empted task of a priority (R393): it holds at most one below priority 6 and one at
priority 6. -/
def State.mayHold (s : State) (e prio : Nat) : Bool :=
  !((s.engine e).preempted.any fun i => decide ((s.task i).prio < 6) == decide (prio < 6))

/-- The engine an alarm-class task pre-empts (R393): lowest priority, then the task's AFFINITY, then lowest number. -/
def State.victim (s : State) (cls : Nat) (t : Task) : Option Nat :=
  let prioOf (e : Nat) : Nat := match (s.engine e).running with | some i => (s.task i).prio | none => 8
  let c := (classEngines cls).filter fun e =>
    s.hasEng e && (s.engine e).rstate == .inService && prioOf e < t.prio && s.mayHold e (prioOf e)
  let least := c.foldl (fun m e => min m (prioOf e)) 8
  let d := c.filter fun e => prioOf e == least
  match d.find? fun e => t.affinity == some e with
  | some e => some e
  | none => d.head?

/-- The task that engine e runs is pre-empted (R393): it keeps its context on the engine. -/
def State.preempt (s : State) (e : Nat) : State :=
  let s0 := (s.engCatchUp e).engEvent e 0x10
  let s1 := match (s.engine e).running with
    | some i => (s0.setTask i { s.task i with st := .preempted }).modEng e fun g => { g with running := none, preempted := g.preempted ++ [i] }
    | none => s0
  (s1.count (Reg.PLT_CNT_LO 2)).count (Reg.ENG_CTR_LO e 1)

/-- A task is started or resumed on an engine of a class (R391 to R393): on an idle engine, the one that holds a PREEMPTED task
first, else the AFFINITY engine of the task at the head when several are idle, else the lowest; with none idle, an alarm-class
task pre-empts. -/
def taskDispatchRow (cls : Nat) (s : State) : State :=
  if 6 ≤ cls then s
  else
    let idle := s.idleEngines cls
    let top := s.topList cls
    match idle.find? fun e => !(s.engine e).preempted.isEmpty with
    | some e => (s.engineTake e).pilotResume
    | none =>
      match idle, top with
      | [], t :: _ =>
        if 6 ≤ t.2.prio then
          match s.victim cls t.2 with
          | none => s
          | some e =>
            ((s.preempt e).startOn t.1 e).pilotResume
        else s
      | [], [] => s
      | [e], _ => (s.engineTake e).pilotResume
      | e :: es, t :: _ =>
        match (e :: es).find? fun x => t.2.affinity == some x with
        | some x => (s.startOn t.1 x).pilotResume
        | none => (s.startOn t.1 e).pilotResume
      | _, [] => s

/-! ### Migration (R402) -/

/-- Whether a class has lost its last engine in service (PLT_EVT.CLASS_EMPTY). -/
def State.classEmpty (s : State) (cls : Nat) : Bool :=
  ((classEngines cls).any fun e => s.hasEng e) && !((classEngines cls).any fun e => s.hasEng e && (s.engine e).rstate == .inService)

/-- The engine of a class that takes over what another one held: the lowest in service. -/
def State.otherEngine (s : State) (e : Nat) : Option Nat := (classEngines (engClass e)).find? fun x => x != e && s.hasEng x && (s.engine x).rstate == .inService

/-- Roles pass from engine e to the others of its class (R402, R22, R328, R356): a control-core role to the core with the fewest
roles, the estimator and metering to the other signal engine, a group's state to another modal engine (R216). -/
def State.passRoles (s : State) (e : Nat) : State :=
  match engClass e with
  | 0 =>
    (List.range 4).foldl (fun (s : State) r =>
      if nth 0 s.plt.roles r = e then
        let cores := [0, 1, 2, 3].filter fun c => c != e && (s.engine c).rstate == .inService
        let load (c : Nat) := (s.plt.roles.filter (· == c)).length
        let least := cores.foldl (fun m c => min m (load c)) 5
        match cores.find? fun c => load c == least with
        | some c => s.modPlt fun p => { p with roles := p.roles.set r c }
        | none => s
      else s) s
  | 4 =>
    match s.otherEngine e with
    | some x =>
      let s1 := if s.plt.lpeEng = e then { (s.modPlt fun p => { p with lpeEng := x }) with fe := { s.fe with lpeBlockedTill := s.dt } } else s
      if s1.plt.mtrEng = e then (s1.modPlt fun p => { p with mtrEng := x }).deriveStart 56 else s1
    | none => s
  | 2 =>
    match s.otherEngine e with
    | some x => { s with osc := { s.osc with groups := s.osc.groups.map fun g => if g.2.me = e then (g.1, { g.2 with me := x }) else g } }
    | none => s
  | _ => s

/-- Every task loses its affinity to engine e (R391, R402). -/
def State.clearAffinity (s : State) (e : Nat) : State :=
  s.modPlt fun p => { p with tasks := p.tasks.map fun t => if t.2.affinity = some e then (t.1, { t.2 with affinity := none }) else t }

/-- A task whose engine is lost (R402): it starts again on another one, unless it has done its work and so is not repeated (R216, R254):
that one ends; so does one whose abort has been asked for, which is READY no sooner than aborted (R399). -/
def State.migrateTask (s : State) (i : Nat) : State :=
  let t := s.task i
  if t.worked || t.abortReq then
    let s1 := (s.freeTask i).modPlt fun p => { p with done := p.done ++ [⟨t.owner, t.typ, t.arg, t.quayTag, t.abortReq⟩] }
    if t.abortReq then (s1.answer t.owner (.abort i t.gen true)).count (Reg.PLT_CNT_LO 6) else s1
  else (s.makeReadyHead i { t with restart := true, affinity := none }).count (Reg.PLT_CNT_LO 3)

/-- The work of engine e migrates in one step (R402). -/
def State.migrate (s : State) (e : Nat) : State :=
  let g := s.engine e
  let work := g.preempted ++ (match g.running with | some i => [i] | none => [])
  let s1 := work.foldl State.migrateTask s
  let s2 := (((s1.engCatchUp e).modEng e fun g => { g with running := none, preempted := [] }).clearAffinity e).passRoles e
  if work.isEmpty then s2 else s2.event Reg.PLT_EVT 5

/-- PLT_EVT.CLASS_EMPTY set when the class of engine e has none in service. -/
def State.noteEmpty (s : State) (e : Nat) : State := if s.classEmpty (engClass e) then s.event Reg.PLT_EVT 1 else s

/-! ### Rotation (R401, R403 to R405) -/

/-- A rotation's result shown (R405). -/
def State.rotShow (s : State) (engine result : Nat) (done : Bool) : State :=
  s.modPlt fun p => { p with rotEngine := engine, rotResult := result, rotDone := done }

/-- The manifest status of a rotation result. -/
def rotStatus (result : Nat) : Nat :=
  match result with
  | 2 => stBusy
  | 3 => stAbsent
  | 4 => stBadImage
  | 5 => stTestFail
  | _ => stDone

/-- A rotation ends (R405). -/
def State.rotEnd (s : State) (r : Rot) : State :=
  (((s.modPlt fun p => { p with rot := none }).rotShow r.engine r.result true).event Reg.PLT_EVT 3).finishOpt r.mid (rotStatus r.result) r.result []

/-- The engine under rotation has no task left (R401): it is OUT and holds no lease. Its action begins with the next command (DESIGN CHOICE,
log entry 128). -/
def State.rotOut (s : State) (r : Rot) : State :=
  let s1 := (s.passRoles r.engine).leaseRevoke r.engine
  s1.modEng r.engine fun g => { g with rstate := .out }

/-- The action of a rotation begins on its engine that is OUT (R401). -/
def State.rotBegin (s : State) : State :=
  match s.plt.rot with
  | some r =>
    if (s.engine r.engine).rstate = .out then
      s.modEng r.engine fun g => { g with rstate := if r.action = 1 then .loading else .testing }
    else s
  | none => s

/-- A draining engine that holds no task is OUT (R401). -/
def State.rotCheck (s : State) : State :=
  match s.plt.rot with
  | none => s
  | some r =>
    let g := s.engine r.engine
    if g.rstate = .draining ∧ g.running.isNone ∧ g.preempted = [] then s.rotOut r else s

/-- A rotation is requested (R403): refused with BUSY or ABSENT, or the engine drains. -/
def State.rotRequest (s : State) (e action : Nat) (mid : Option Nat) : State :=
  if !s.hasEng e then (s.rotShow e 3 true).finishOpt mid stAbsent 3 []
  else if s.plt.rot.isSome ∨ ((classEngines (engClass e)).any fun x => s.hasEng x && (s.engine x).rstate != .inService) then
    (s.modPlt fun p => { p with rotResult := 2 }).finishOpt mid stBusy 2 []
  else
    (((s.modPlt fun p => { p with rot := some ⟨e, action, mid, 1, s.dt⟩, rotDone := false }).modEng e fun g =>
      { g with rstate := .draining }).clearAffinity e).noteEmpty e |>.rotCheck

/-- A write of PLT_ROT_CTRL (R403, R411): actions 0 and 3 change nothing. -/
def rotCtrlWrite (v : Word) (s : State) : State :=
  let a := bitsOf v.toNat 8 2
  if v.getLsbD 31 ∧ (a = 1 ∨ a = 2) then s.rotRequest (bitsOf v.toNat 0 5) a none else s

/-- PLT_ROT_CTRL with action FIRMWARE. -/
def pltRotFirmwareRow (v : Word) (s : State) : State := rotCtrlWrite ((v &&& 0xFFFFFCFF) ||| 0x100) s
/-- PLT_ROT_CTRL with action SELFTEST. -/
def pltRotSelftestRow (v : Word) (s : State) : State := rotCtrlWrite ((v &&& 0xFFFFFCFF) ||| 0x200) s

/-- The ROTATE manifest (R403, R433); DETAIL0 of its completion is the result of R405. -/
def manRotate (n : Nat) (s : State) : State :=
  s.runManifest n 0x0071 fun mid b s => s.rotRequest (bitsOf (byteAt b 20) 0 5) (byteAt b 21) (some mid)

/-- PLT_ROT_DRAIN µs have passed (R401, R402). -/
def rotDrainTimeoutRow (s : State) : State :=
  match s.plt.rot with
  | none => s
  | some r =>
    if (s.engine r.engine).rstate = .draining then
      ((s.advance (r.since + s.fld Reg.PLT_ROT_DRAIN 0 17 * subPerUs)).migrate r.engine).rotOut r
    else s

/-- The engine under rotation finishes LOADING (R404, R446): a verified image of its staged slot is taken, its selection recorded
in the boot block, and a FIRMWARE record made; an empty slot or a bad signature gives BAD_IMAGE. -/
def engineLoadDoneRow (sigOk : Bool) (s : State) : State :=
  let s := s.rotBegin
  match s.plt.rot with
  | none => s
  | some r =>
    if (s.engine r.engine).rstate ≠ .loading then s
    else
      let c := engClass r.engine
      let slot := 1 - nth 0 s.flash.fwSel r.engine
      let s1 := s.modEng r.engine fun g => { g with rstate := .rejoining }
      match (mapFind s.flash.fw (2 * c + slot)).filter fun f => f.valid && sigOk with
      | none => s1.modPlt fun p => { p with rot := some { r with result := 4 } }
      | some f =>
        let s2 := s1.modEng r.engine fun g => { g with fwVer := f.ver, fwMeas := f.meas }
        let s3 := { s2 with flash := { s2.flash with fwSel := s2.flash.fwSel.set r.engine slot } }
        let s4 := s3.logRaise 5 r.engine 0xFFFF (r.engine :: List.replicate 7 0 ++ (slice f.meas 0 8).map (·.toNat))
        if s4.plt.mtrEng = r.engine then s4.deriveStart 56 else s4

/-- Re-initialisation of engine e completes (R401): it is IN_SERVICE; a rotation or a release ends with it. -/
def State.rejoinDone (s : State) (e : Nat) : State :=
  if (s.engine e).rstate ≠ .rejoining then s
  else
    let s1 := s.modEng e fun g => { g with rstate := .inService, halted := false }
    match s1.plt.rot with
    | some r => if r.engine = e then s1.rotEnd r else s1
    | none => s1

/-! ### The rows of R389 to R399 -/

/-- A task leaves its engine. -/
def State.leaveEngine (s : State) (i : Nat) : State :=
  match (s.task i).engine with
  | some e => (s.engCatchUp e).modEng e fun g =>
    { g with running := if g.running = some i then none else g.running, preempted := g.preempted.filter (· != i) }
  | none => s

/-- A running task waits on an event (R389, R398). -/
def taskWaitRow (i : Nat) (s : State) : State :=
  let t := s.task i
  if t.st = .running then
    ((s.leaveEngine i).setTask i { t with st := .waiting, engine := none, since := s.dt, waitRes := .none }).rotCheck
  else s

/-- The event of a wait arrives (R398). -/
def waitEventRow (i : Nat) (s : State) : State :=
  let t := s.task i
  if t.st = .waiting then s.makeReady i { t with waitRes := .event } else s

/-- The time-out of a wait fires at its entry plus TIMEOUT (R398). -/
def waitTimeoutRow (i : Nat) (s : State) : State :=
  let t := s.task i
  if t.st = .waiting ∧ t.timeout ≠ 0 then
    ((s.advance (t.since + t.timeout * subPerUs)).makeReady i { t with waitRes := .timeout }).count (Reg.PLT_CNT_LO 5)
  else s

/-- The wake time of a key, and whether the generator has delivered its instant, which it never does with one that a forward step has passed
or of a grid that a commit has replaced (R396, R397): an ABS key keeps the grid to which it belonged at its submission, or, submitted while
there was none, the first that holds its second (DESIGN CHOICE, log entry 128). -/
def State.wakeTime (s : State) (t : Task) : Option (Nat × Bool) :=
  match t.wake with
  | none => none
  | some (.abs sec k off) =>
    let rate := if t.keyRate = 0 then s.rateOf sec else t.keyRate
    let at_ := if rate = 0 then sec * subPerSec else instantAt rate sec k
    some (at_ + off * subPerUs, k < rate && rate == s.rateOf sec && s.delivered at_)
  | some (.rel n off) => (s.firstRel t.since n).map fun x => (x + off * subPerUs, s.delivered x)

/-- When a delayed task becomes READY, and whether LATE, as far as that stands (R396, R397): at its wake time, or, when its instant is never
delivered, at the first delivered instant after it. -/
def State.fireTime (s : State) (t : Task) : Option (Nat × Bool) :=
  match s.wakeTime t with
  | none => none
  | some (w, true) => some (w, false)
  | some (w, false) => (s.tb.tqHist.reverse.find? fun p => w < p.1 && s.delivered p.1).map fun p => (p.1, true)

/-- Whether delayed task a comes before b in their delay list (R396): by time, then higher priority, then order of submission. -/
def State.delayBefore (s : State) (a b : Task) : Bool :=
  match s.fireTime a, s.fireTime b with
  | some x, some y => decide (x.1 < y.1) || (x.1 == y.1 && (decide (b.prio < a.prio) || (a.prio == b.prio && decide (a.order < b.order))))
  | some _, none => true
  | _, _ => false

/-- Whether a delayed task is at the head of the delay list of its class (R396). -/
def State.delayHead (s : State) (i : Nat) : Bool :=
  !(s.plt.tasks.any fun x => x.1 != i && x.2.st == .delayed && x.2.cls == (s.task i).cls && s.delayBefore x.2 (s.task i))

/-- The wake time of the delayed task at the head of its list is reached (R396); a key whose instant is never delivered fires LATE at the
first delivered instant after its wake time (R397). -/
def delayWakeRow (i : Nat) (s : State) : State :=
  let t := s.task i
  if t.st ≠ .delayed ∨ !s.delayHead i then s
  else match s.fireTime t with
    | none => s
    | some (w, false) => (s.advance w).makeReady i t
    | some (_, true) => ((s.makeReady i { t with late := true }).count (Reg.PLT_CNT_LO 8)).event Reg.PLT_EVT 2

/-- A READY task at priority 0 to 4 has waited PLT_AGE_US (R395). -/
def taskAgingRow (i : Nat) (s : State) : State :=
  let t := s.task i
  let due := t.readySince + s.fld Reg.PLT_AGE_US 0 20 * subPerUs
  if t.st = .ready ∧ t.prio < 5 then
    let s1 := s.advance due
    (s1.makeReady i { t with prio := t.prio + 1, aged := true }).modPlt fun p => { p with
      tasks := mapPut (fun _ => ({} : Task)) p.tasks i { mapGet (fun _ => ({} : Task)) p.tasks i with readySince := due } }
  else s

/-- A completion goes to a task's owner. -/
def State.taskEnd (s : State) (i : Nat) (aborted : Bool) : State :=
  let t := s.task i
  (((s.leaveEngine i).freeTask i).modPlt fun p => { p with done := p.done ++ [⟨t.owner, t.typ, t.arg, t.quayTag, aborted⟩] }).pilotResume.rotCheck

/-- A running task completes, DONE or, when an abort has been requested, ABORTED, which is then also the abort's result (R389, R399). -/
def taskCompleteRow (i : Nat) (s : State) : State :=
  let t := s.task i
  if t.st = .running then
    let s1 := s.taskEnd i t.abortReq
    if t.abortReq then (s1.answer t.owner (.abort i t.gen true)).count (Reg.PLT_CNT_LO 6) else s1
  else s

/-- An access with a handle of a pooled resource that its owner does not hold (R43): refused with an error response, and recorded as an
access error of its master (source 55). DESIGN CHOICE, log entry 128: a handle has no fabric address and an abort is neither read nor
write; the record shows WRITE and the descriptor's index as its ADDRESS. -/
def State.handleErr (s : State) (owner index : Nat) : State := (s.report 55 0 owner 2 index).answer owner .error

/-- An owner aborts a task by its handle (R399): exactly one outcome, reported to the owner; a handle of another owner's task is refused
(R43). -/
def taskAbortRow (i gen owner : Nat) (s : State) : State :=
  let t := s.task i
  if t.st = .free ∨ t.gen ≠ gen then (s.answer owner (.abort i gen false)).count (Reg.PLT_CNT_LO 7)
  else if t.owner ≠ owner then s.handleErr owner i
  else if t.st = .running then s.setTask i { t with abortReq := true }
  else ((s.taskEnd i true).answer owner (.abort i gen true)).count (Reg.PLT_CNT_LO 6)

/-! ### Registers of the pilot (R411) -/

/-- The wake time of a delayed task as it is foreseen (R411): of a REL key whose instant has not come, the first one that the grids known
now will deliver. -/
def State.wakeDue (s : State) (t : Task) : Option Nat :=
  match s.wakeTime t, t.wake with
  | some x, _ => some x.1
  | none, some (.rel n off) => (s.instantAfter t.since n).map fun x => x.2.2 + off * subPerUs
  | none, _ => none

/-- µs to the wake or the time-out of a task, saturating (R411 RES2). -/
def State.taskRemain (s : State) (t : Task) : Nat :=
  let due := if t.st = .waiting ∧ t.timeout ≠ 0 then some (t.since + t.timeout * subPerUs)
    else if t.st = .delayed then s.wakeDue t else none
  match due with
  | some d => min ((d - s.dt) / subPerUs) (2 ^ 32 - 1)
  | none => 0

/-- The code of a task state. -/
def TaskSt.code : TaskSt → Nat
  | .free => 0 | .delayed => 1 | .ready => 2 | .running => 3 | .preempted => 4 | .waiting => 5

/-- A write of PLT_TASK_SEL probes a descriptor (R411). -/
def taskProbeRow (v : Word) (s : State) : State :=
  let i := bitsOf v.toNat 0 12
  let t := s.task i
  let r0 := 2 ^ 31 + t.st.code * 2 ^ 28 + t.prio * 2 ^ 25 + t.cls * 2 ^ 22 + t.owner % 64 * 2 ^ 16 + t.gen * 2 ^ 8
  let r1 := t.typ * 2 ^ 16 + b2n t.aged * 2 ^ 14 + b2n t.late * 2 ^ 13 + b2n t.restart * 2 ^ 12 + (t.engine.getD 63) * 2 ^ 6 +
    (match t.affinity with | some e => 32 + e | none => 0)
  ((((s.setReg Reg.PLT_TASK_SEL (BitVec.ofNat 32 i)).setReg (Reg.PLT_TASK_RES 0) (BitVec.ofNat 32 r0)).setReg
    (Reg.PLT_TASK_RES 1) (BitVec.ofNat 32 r1)).setReg (Reg.PLT_TASK_RES 2) (BitVec.ofNat 32 (s.taskRemain t))).setReg
      (Reg.PLT_TASK_RES 3) (BitVec.ofNat 32 t.quayTag)

/-- A write of PLT_RL_CAP_c (R411): clamped; ignored with CAP_ERR when the sum of the six plus 384 would exceed 4,096. -/
def rlCapWriteRow (c : Nat) (v : Word) (s : State) : State :=
  if 6 ≤ c then s
  else
    let x := max 16 (min 3712 (bitsOf v.toNat 0 12))
    let sum := ((List.range 6).map fun i => if i = c then x else s.rlCap i).sum
    if 4096 < sum + 384 then s.event Reg.PLT_EVT 6 else (s.setReg (Reg.PLT_RL_CAP c) (BitVec.ofNat 32 x)).pilotResume

end Sys2Proof.Machine
end

