-- ==== Sys2Proof/Machine/Engine.lean ====
section
/-! DEFINITION. The commands of the engines' performance counters and samples (R406 to R410, R412), and the debug access port but for
its register accesses (R413, R414, R416, R417). -/

namespace Sys2Proof.Machine

/-! ### Performance counters -/

/-- ENG_CNT_GEN advanced (R412). -/
def State.cntGen (s : State) (e : Nat) : State := s.setReg (Reg.ENG_CNT_GEN e) (s.reg (Reg.ENG_CNT_GEN e) + 1)

/-- The nine counters of engine e cleared (R412). -/
def State.cntClear (s : State) (e : Nat) : State :=
  ((List.range 8).foldl (fun (s : State) i => s.setReg64 (Reg.ENG_CNT_LO e i) 0) (s.setReg64 (Reg.ENG_CYCLE_LO e) 0)).cntGen e

/-- Programmable counter i of engine e wraps (R406, R409): its event has been counted as often as that takes, with whatever the cycle of
the wrap adds, and the sample is the one the command tells. A counter whose event cannot happen on the engine now does not wrap. -/
def engCounterWrapRow (e i addr skid : Nat) (busy : Bool) (s : State) : State :=
  let idle := (s.engine e).running.isNone
  if s.engCounting e && s.cntSelected e i && i < 8 && wrapsHere idle (s.cntEvent e i) then
    let left := 2 ^ 48 - s.reg64 (Reg.ENG_CNT_LO e i) % 2 ^ 48
    (s.freshSkip 0x14).cntSpan e (wrapSpan s.spanDraw idle (s.cntEvent e i) left) (some (i, ⟨addr, skid, busy⟩))
  else s

/-- A write of ENG_CNT_CTRL (R412): CLR clears the nine counters; EN starts the sample count again when it is set. -/
def engCntCtrlWrite (e : Nat) (v : Word) (s : State) : State :=
  if !s.hasEng e then s
  else
    let s0 := s.engCatchUp e
    let s1 := if v.getLsbD 1 then s0.cntClear e else s0
    let s2 := if v.getLsbD 0 && !s.bit (Reg.ENG_CNT_CTRL e) 0 then s1.modEng e fun g => { g with smpWr := 0 } else s1
    s2.setReg (Reg.ENG_CNT_CTRL e) (v &&& 1)

/-- A write of ENG_CNT_CTRL.CLR (R412). -/
def engCntClrRow (e : Nat) (s : State) : State := engCntCtrlWrite e ((s.reg (Reg.ENG_CNT_CTRL e) &&& 1) ||| 2) s

/-- A write of ENG_CNT_SEL_i (R407, R412). -/
def engCntSelWriteRow (e i : Nat) (v : Word) (s : State) : State :=
  if s.hasEng e && i < 8 then ((s.engCatchUp e).setReg (Reg.ENG_CNT_SEL e i) (v &&& 0x3FF)).cntGen e else s

/-- A write of a counter pair preloads it (R412, R16). -/
def engCntPreloadRow (e i v : Nat) (s : State) : State :=
  if s.hasEng e && i < 8 then ((s.engCatchUp e).setReg64 (Reg.ENG_CNT_LO e i) (v % 2 ^ 48)).cntGen e else s

/-- Every engine's counters caught up. -/
def State.catchUpAll (s : State) : State := (List.range 32).foldl (fun (s : State) e => s.engCatchUp e) s

/-- A write of PLT_CNT_CTRL (R406, R411): FREEZE_ALL stops or starts every engine's counters at one instant; CLR_ALL clears them. -/
def cntCtrlWrite (v : Word) (s : State) : State :=
  let s0 := s.catchUpAll
  let s1 := if v.getLsbD 1 then (List.range 32).foldl (fun (s : State) e => if s.hasEng e then s.cntClear e else s) s0 else s0
  s1.setReg Reg.PLT_CNT_CTRL (v &&& 1)

/-- A write of PLT_CNT_CTRL.FREEZE_ALL (R406). -/
def freezeAllRow (v : Word) (s : State) : State := cntCtrlWrite (v &&& 1) s
/-- A write of PLT_CNT_CTRL.CLR_ALL (R411). -/
def clrAllRow (s : State) : State := cntCtrlWrite ((s.reg Reg.PLT_CNT_CTRL &&& 1) ||| 2) s

/-- A word of the counter page at offset `off` of an engine's 128 bytes (R410). -/
def State.counterPageWord (s : State) (e off : Nat) : Word :=
  if !s.bit Reg.PLT_CNT_USER e || !s.hasEng e then 0
  else if off = 0x00 then s.reg (Reg.ENG_CYCLE_LO e)
  else if off = 0x04 then s.reg (Reg.ENG_CYCLE_LO e + 4)
  else if off < 0x48 then
    let v := s.reg64 (Reg.ENG_CNT_LO e ((off - 8) / 8)) % 2 ^ 48
    BitVec.ofNat 32 (if off % 8 = 0 then v else v / 2 ^ 32)
  else if off < 0x50 then
    BitVec.ofNat 32 (leNat ((List.range 4).map fun j => BitVec.ofNat 8 (s.fld (Reg.ENG_CNT_SEL e (off - 0x48 + j)) 0 8)))
  else if off = 0x50 then s.reg (Reg.ENG_CNT_GEN e)
  else if off = 0x54 then BitVec.ofNat 32 (b2n (s.bit Reg.PLT_CNT_CTRL 0) + 2 * b2n (s.bit (Reg.ENG_CNT_CTRL e) 0))
  else 0

/-! ### Debug access port -/

/-- The debug port changed. -/
def State.modDbg (s : State) (f : Dbg → Dbg) : State := { s with dbg := f s.dbg }

/-- PORT_DIS. -/
def State.portDis (s : State) : Bool := s.bit Reg.DBG_CTRL 0

/-- A DEBUG record (R381): event and engine. -/
def State.dbgRecord (s : State) (ev eng : Nat) : State := s.logRaise 17 62 (ev - 1) [ev, s.dbg.level, eng]

/-- The return to LOCKED (R414): the event and the record, when LEVEL was not LOCKED already. -/
def State.dbgLock (s : State) : State :=
  if s.dbg.level = 0 then s
  else ((s.modDbg fun d => { d with level := 0 }).event Reg.DBG_EVT 2).dbgRecord 3 0

/-- The instruction that an 8-bit code of the instruction register selects (R413); every code that the table does not list acts as BYPASS. -/
def tapIrOf (code : Nat) : TapIr :=
  match code with
  | 0x00 => .extest
  | 0x01 => .sample
  | 0x02 => .idcode
  | 0x03 => .highz
  | 0x04 => .clamp
  | 0x10 => .nonce
  | 0x11 => .unlock
  | 0x12 => .memap
  | 0x13 => .engdbg
  | _ => .bypass

/-- An instruction is selected; EXTEST, CLAMP and HIGHZ act on the pins only while they are selected (R413). -/
def State.tapSelect (s : State) (ir : TapIr) : State :=
  s.modDbg fun d => { d with ir := ir, tapActive := true, pinsFromBsr := ir == .extest || ir == .clamp, pinsHighz := ir == .highz }

/-- The instruction of a code is selected (R413). -/
def State.tapLoad (s : State) (code : Nat) : State := s.tapSelect (tapIrOf code)

/-- The bypass register is selected: it captures 0 (R413). -/
def State.tapBypass (s : State) : State := (s.tapLoad 0xFF).modDbg fun d => { d with dr := 0 }

/-- Test-Logic-Reset (R413, R414): IDCODE is selected and the port is locked. -/
def dbgTapResetRow (s : State) : State :=
  ((s.tapSelect .idcode).modDbg fun d => { d with tapActive := false }).dbgLock

/-- EXTEST (R413): the levels at the balls are captured and shifted out, and the pins are driven from the boundary-scan register, loaded
with `bits`, while RESET_N is low. No command tells the levels: what is shifted out is a free value. -/
def extestRow (resetLow : Bool) (bits : List Bool) (s : State) : State :=
  if resetLow && !s.portDis then
    let v := s.freshVal % 2 ^ bits.length
    ((s.freshNext.tapLoad 0x00).modDbg fun d => { d with bsr := bits, dr := v }).emit (.tdo v)
  else s.tapBypass

/-- SAMPLE/PRELOAD (R413): the levels at the balls are captured and shifted out, the register is loaded. -/
def samplePreloadRow (captured bits : List Bool) (s : State) : State :=
  if s.portDis then s.tapBypass
  else
    let v := (List.range captured.length).foldl (fun n i => n + b2n (nth false captured i) * 2 ^ i) 0
    ((s.tapLoad 0x01).modDbg fun d => { d with bsr := bits, dr := v }).emit (.tdo v)

/-- The IDCODE value (R413): stepping and part of ID_PART (R50), Vekale's code, 1. -/
def State.idcodeWord (s : State) : Nat :=
  (s.hw.stepping / 2 ^ 4 % 16) * 2 ^ 28 + s.hw.variant.part * 2 ^ 12 + 0x4CB * 2 + 1

/-- IDCODE (R413). -/
def idcodeRow (s : State) : State := ((s.tapLoad 0x02).modDbg fun d => { d with dr := s.idcodeWord }).emit (.tdo s.idcodeWord)

/-- HIGHZ (R413). -/
def highzRow (resetLow : Bool) (s : State) : State :=
  if resetLow && !s.portDis then (s.tapLoad 0x03).modDbg fun d => { d with dr := 0 } else s.tapBypass

/-- CLAMP (R413). -/
def clampRow (resetLow : Bool) (s : State) : State :=
  if resetLow && !s.portDis then (s.tapLoad 0x04).modDbg fun d => { d with dr := 0 } else s.tapBypass

/-- BYPASS (R413): one bit of delay, captured as 0. -/
def bypassRow (s : State) : State := s.tapBypass.emit (.tdo 0)

/-- A Capture-DR of DBG_NONCE (R414): a fresh nonce, the previous one void; zero while the TRNG is in failure. -/
def dbgNonceRow (s : State) : State :=
  if s.portDis then s.tapBypass
  else
    let s1 := s.tapLoad 0x10
    if s.key.trngFail then (s1.modDbg fun d => { d with nonce := none, dr := 0 }).emit (.tdo 0)
    else
      let n := s.drawNonce
      (s1.freshNext.modDbg fun d => { d with nonce := some n, dr := n }).emit (.tdo n)

/-- The message an unlock signature covers (R414). -/
def State.unlockMsg (s : State) (level nonce : Nat) : List Byte :=
  ascii "FNDBGUNL" ++ s.deviceId ++ leBytes 1 level ++ leBytes 8 nonce

/-- An unlock attempt ends (R414): 0 OK, 1 NONCE, 2 AUTH, 3 DISABLED. -/
def State.unlockEnd (s : State) (level res : Nat) : State :=
  let s1 := s.modDbg fun d => { d with unlockReq := none, unlockRes := res, dr := res }
  if res = 0 then (((s1.modDbg fun d => { d with level := level }).event Reg.DBG_EVT 0).count (Reg.DBG_CNT_LO 0)).dbgRecord 1 0
  else ((s1.event Reg.DBG_EVT 1).count (Reg.DBG_CNT_LO 1)).dbgRecord 2 0

/-- An Update-DR of DBG_UNLOCK (R414): PORT_DIS, the nonce, LEVEL and the signature are checked in this order; every attempt
voids the nonce. With PORT_DIS the instruction is BYPASS (R413) and the attempt DISABLED. -/
def dbgUnlockRow (level : Nat) (sig : List Byte) (s : State) : State :=
  if s.portDis then (s.tapBypass.modDbg fun d => { d with nonce := none }).unlockEnd level 3
  else
    let s1 := (s.tapLoad 0x11).modDbg fun d => { d with nonce := none, dr := 4 }
    match s.dbg.nonce with
    | none => s1.unlockEnd level 1
    | some n =>
      let slot := s1.fld Reg.DBG_AUTH_SLOT 0 6
      if level ≠ 1 ∧ level ≠ 2 then s1.unlockEnd level 2
      else if !s1.tokenSlotOk slot then (s1.keyUseErr.event Reg.KEY_EVT 3).unlockEnd level 2
      else
        let r := s1.requestVerify (.verifyUnlock level) slot (s1.unlockMsg level n) (padTo 64 sig)
        if r.2 then r.1.modDbg fun d => { d with unlockReq := some level } else r.1.unlockEnd level 2

/-- What ENGDBG presents (R416): the engine, DONE, ERR, HALTED, the address of the next instruction, the data read. -/
def State.engdbgShow (s : State) (e : Nat) (err halted : Bool) (pc data : Nat) : State :=
  let v := (e % 32) * 2 ^ 67 + 2 ^ 66 + b2n err * 2 ^ 65 + b2n halted * 2 ^ 64 + (pc % 2 ^ 32) * 2 ^ 32 + data % 2 ^ 32
  ((s.tapLoad 0x13).modDbg fun d => { d with dr := v, lastEngine := e % 32 }).emit (.tdo v)

/-- What an ENGDBG operation does to a fenced engine (R416): HALT halts it, with its event and record, RESUME lets it run, STEP runs one
instruction after which it is halted; the others change nothing. -/
def State.engdbgOp (s : State) (e op : Nat) : State :=
  match op with
  | 1 => ((s.modEng e fun g => { g with halted := true }).event Reg.DBG_EVT 3).dbgRecord 4 e
  | 2 => s.modEng e fun g => { g with halted := false }
  | 3 => s.modEng e fun g => { g with halted := true }
  | _ => s

/-- An Update-DR of ENGDBG (R416): [71:67] the engine, [66:64] OP, of which 0 is NOP and 6 and 7 are NOP with ERR; BYPASS below LEVEL
ENGINE, ERR when the engine is not FENCED. The address of the next instruction and what the engine's memory and registers hold are
open: no rule gives an engine's program. -/
def State.engdbg (s : State) (dr : Nat) : State :=
  let e := bitsOf dr 67 5
  let op := bitsOf dr 64 3
  if s.portDis || s.dbg.level != 2 then s.tapBypass
  else if (s.engine e).rstate ≠ .fenced then s.engdbgShow e true false 0 0
  else
    let s1 := s.engdbgOp e op
    let pc := s1.freshVal
    let s2 := s1.freshNext
    if op = 4 ∨ op = 5 then (s2.freshNext).engdbgShow e false (s2.engine e).halted pc s2.freshVal
    else s2.engdbgShow e (decide (6 ≤ op)) (s2.engine e).halted pc 0

/-- The data register of an ENGDBG operation (R416). -/
def engdbgDr (e op a : Nat) : Nat := (e % 32) * 2 ^ 67 + op * 2 ^ 64 + (a % 2 ^ 32) * 2 ^ 32

/-- ENGDBG HALT (R416). -/
def engdbgHaltRow (e : Nat) (s : State) : State := s.engdbg (engdbgDr e 1 0)
/-- ENGDBG RESUME (R416). -/
def engdbgResumeRow (e : Nat) (s : State) : State := s.engdbg (engdbgDr e 2 0)
/-- ENGDBG STEP (R416). -/
def engdbgStepRow (e : Nat) (s : State) : State := s.engdbg (engdbgDr e 3 0)
/-- ENGDBG READ_LOCAL (R416). -/
def engdbgReadLocalRow (e a : Nat) (s : State) : State := s.engdbg (engdbgDr e 4 a)
/-- ENGDBG READ_REG (R416). -/
def engdbgReadRegRow (e r : Nat) (s : State) : State := s.engdbg (engdbgDr e 5 r)

/-- A write of DBG_CTRL (R417): PORT_DIS is set and never cleared; RELOCK and PORT_DIS lock the port. -/
def dbgCtrlWrite (v : Word) (s : State) : State :=
  let s1 := if v.getLsbD 0 then s.setReg Reg.DBG_CTRL 1 else s
  if v.getLsbD 0 || v.getLsbD 1 then s1.dbgLock else s1

/-- A write of DBG_CTRL.RELOCK (R414). -/
def dbgRelockRow (s : State) : State := dbgCtrlWrite 2 s
/-- A write of DBG_CTRL.PORT_DIS (R417). -/
def dbgPortDisRow (s : State) : State := dbgCtrlWrite 1 s

end Sys2Proof.Machine
end

