-- ==== Sys2Proof/Machine/Aes.lean ====
section
/-! DEFINITION. AES-256-GCM (FIPS 197, NIST SP 800-38D), which protects the Aizhan link (R460, R516). A block is a list of 16 bytes, four
columns of four one after another. -/

namespace Sys2Proof.Machine

/-- The substitution of SubBytes: byte x stands at bits 8x to 8x + 7. -/
def aesBoxes : Nat := 0x16bb54b00f2d99416842e6bf0d89a18cdf2855cee9871e9b948ed9691198f8e19e1dc186b95735610ef6034866b53e708a8bbd4b1f74dde8c6b4a61c2e2578ba08ae7a65eaf4566ca94ed58d6d37c8e779e4959162acd3c25c2406490a3a32e0db0b5ede14b8ee4688902a22dc4f816073195d643d7ea7c41744975fec130ccdd2f3ff1021dab6bcf5389d928f40a351a89f3c507f02f94585334d43fbaaefd0cf584c4a39becb6a5bb1fc20ed00d153842fe329b3d63b52a05a6e1b1a2c830975b227ebe28012079a059618c323c7041531d871f1e5a534ccf73f362693fdb7c072a49cafa2d4adf04759fa7dc982ca76abd7fe2b670130c56f6bf27b777c63

/-- SubBytes of one byte. -/
def aesSub (x : Byte) : Byte := BitVec.ofNat 8 (aesBoxes >>> (8 * x.toNat))

/-- A byte times x in the field of FIPS 197. -/
def aesTwice (x : Byte) : Byte := if x.getLsbD 7 then (x <<< 1) ^^^ 0x1B else x <<< 1

/-- Two byte strings added bit by bit, as long as the shorter. -/
def xorBytes (a b : List Byte) : List Byte := (a.zip b).map fun p => p.1 ^^^ p.2

/-- SubBytes and ShiftRows: byte r of column c comes from column c + r. -/
def aesShift (b : List Byte) : List Byte := (List.range 16).map fun i => aesSub (b.getD ((i + 4 * (i % 4)) % 16) 0)

/-- MixColumns of one column: each byte takes the sum of the four and twice its sum with the next. -/
def aesMix (c : List Byte) : List Byte :=
  let all := c.foldl (· ^^^ ·) 0
  (c.zip (c.drop 1 ++ c.take 1)).map fun p => p.1 ^^^ all ^^^ aesTwice (p.1 ^^^ p.2)

/-- Words of the key schedule, each the old word plus the new one before it. -/
def aesChain : List Byte → List (List Byte) → List (List Byte)
  | _, [] => []
  | t, w :: ws => let x := xorBytes w t; x :: aesChain x ws

/-- The next eight words of the key schedule of a 256-bit key, under a round constant. -/
def aesNextWords (k : List (List Byte)) (rc : Byte) : List (List Byte) :=
  let last := k.getD 7 []
  let turned := xorBytes ((last.drop 1 ++ last.take 1).map aesSub) [rc, 0, 0, 0]
  let lo := aesChain turned (k.take 4)
  lo ++ aesChain ((lo.getD 3 []).map aesSub) (k.drop 4)

/-- The key schedule from eight words on, for a list of round constants. -/
def aesWords : List (List Byte) → List Byte → List (List Byte)
  | k, [] => k
  | k, rc :: rest => k ++ aesWords (aesNextWords k rc) rest

/-- The fifteen round keys of a 256-bit key. -/
def aesKeys (key : List Byte) : List (List Byte) :=
  (chunks 16 15 (aesWords (chunks 4 8 key) [1, 2, 4, 8, 16, 32, 64]).flatten)

/-- The rounds of one block: each but the last mixes its columns. -/
def aesRounds : List (List Byte) → List Byte → List Byte
  | [], b => b
  | [k], b => xorBytes (aesShift b) k
  | k :: ks, b => aesRounds ks (xorBytes ((chunks 4 4 (aesShift b)).flatMap aesMix) k)

/-- AES-256 of one block under its round keys. -/
def aesBlock (keys : List (List Byte)) (b : List Byte) : List Byte :=
  match keys with
  | [] => b
  | k :: ks => aesRounds ks (xorBytes b k)

/-- The product of two blocks in the field of GHASH, as numbers whose highest bit is bit 0 of the block. -/
def ghashMul (h x : Nat) : Nat :=
  ((List.range 128).foldl (fun (a : Nat × Nat) i =>
    (if x.testBit (127 - i) then a.1 ^^^ a.2 else a.1, if a.2 % 2 = 1 then (a.2 / 2) ^^^ (0xE1 <<< 120) else a.2 / 2)) (0, h)).1

/-- A byte string filled with zeros to whole blocks. -/
def padBlocks (b : List Byte) : List Byte := b ++ List.replicate ((16 - b.length % 16) % 16) 0

/-- GHASH of whole blocks under the hash key h. -/
def ghash (h : Nat) (b : List Byte) : Nat := (chunks 16 (b.length / 16) b).foldl (fun y blk => ghashMul h (y ^^^ beNat blk)) 0

/-- A text under the key stream of GCM that follows a 96-bit nonce. -/
def gcmStream (keys : List (List Byte)) (iv text : List Byte) : List Byte :=
  ((chunks 16 (text.length + 1) text).zipIdx 2).flatMap fun p => xorBytes p.1 (aesBlock keys (iv ++ beBytes 4 p.2))

/-- The tag of a cipher text and its additional data. -/
def gcmTag (keys : List (List Byte)) (iv aad ct : List Byte) : List Byte :=
  let h := beNat (aesBlock keys (List.replicate 16 0))
  xorBytes (aesBlock keys (iv ++ beBytes 4 1))
    (beBytes 16 (ghash h (padBlocks aad ++ padBlocks ct ++ beBytes 8 (8 * aad.length) ++ beBytes 8 (8 * ct.length))))

/-- AES-256-GCM: the cipher text and then its tag, of a key, a 96-bit nonce, additional data and a plain text. -/
def gcmSeal (key iv aad plain : List Byte) : List Byte :=
  let ct := gcmStream (aesKeys key) iv plain
  ct ++ gcmTag (aesKeys key) iv aad ct

/-- AES-256-GCM: the plain text of a cipher text, when its tag is right. -/
def gcmOpen (key iv aad ct tag : List Byte) : Option (List Byte) :=
  if gcmTag (aesKeys key) iv aad ct = tag then some (gcmStream (aesKeys key) iv ct) else none

end Sys2Proof.Machine
end

