-- ==== Sys2Proof/Machine/Frames.lean ====
section
/-! DEFINITION. What frames hold: IPv4 and UDP as R563 reads them, PTP messages as they come in (R62 to R66) and as the time base sends
them (R65), and the bytes of a transmitted frame. The wire form of a PTP message is that of IEEE 1588-2019, which the manual names and
does not restate (PRESUMED). -/

namespace Sys2Proof.Machine

/-! ### IPv4 and UDP (R563) -/

/-- The ones' complement sum of 16-bit words, the last padded with zero, folded (RFC 1071). -/
def inetSum : List Byte → Nat
  | [] => 0
  | [a] => a.toNat * 256
  | a :: b :: rest =>
    let t := a.toNat * 256 + b.toNat + inetSum rest
    if 65536 ≤ t then t - 65535 else t

/-- The internet checksum of bytes. -/
def inetCsum (b : List Byte) : Nat := 65535 - inetSum b

/-- A well-formed IPv4 datagram in a frame (R563): its source and destination address (first octet in [7:0]), protocol, whether
it is a fragment, its header's offset and the bytes after its header. -/
structure Ip4 where
  src : Word
  dst : Word
  proto : Nat
  frag : Bool
  body : List Byte
  total : Nat
  srcBytes : List Byte
  dstBytes : List Byte
deriving DecidableEq, Repr

/-- Where the Type of a frame without its FCS stands: after one tag, when it has one (R563). -/
def typeOff (b : List Byte) : Nat := if beAt b 12 2 = 0x8100 then 16 else 12

/-- The well-formed IPv4 datagram of a frame without FCS and trailer (R563). -/
def ip4Of (b : List Byte) : Option Ip4 :=
  let o := typeOff b + 2
  let d := b.drop o
  let ihl := 4 * bitsOf (byteAt d 0) 0 4
  let total := beAt d 2 2
  if beAt b (typeOff b) 2 = 0x0800 ∧ byteAt d 0 / 16 = 4 ∧ 20 ≤ ihl ∧ ihl ≤ d.length ∧ inetSum (d.take ihl) = 65535 ∧
      ihl ≤ total ∧ total ≤ d.length then
    some { src := BitVec.ofNat 32 (leAt d 12 4), dst := BitVec.ofNat 32 (leAt d 16 4), proto := byteAt d 9,
           frag := bitOf (byteAt d 6) 5 || bitsOf (beAt d 6 2) 0 13 != 0, body := (d.take total).drop ihl, total := total - ihl,
           srcBytes := slice d 12 4, dstBytes := slice d 16 4 }
  else none

/-- A well-formed UDP datagram (R563): its source and destination port, its payload, and whether its checksum is zero or
right. -/
structure Udp where
  ip : Ip4
  sport : Nat
  dport : Nat
  payload : List Byte
  csumOk : Bool
deriving DecidableEq, Repr

/-- The well-formed UDP datagram of a frame (R563). -/
def udpOf (b : List Byte) : Option Udp :=
  match ip4Of b with
  | none => none
  | some ip =>
    let len := beAt ip.body 4 2
    if !ip.frag ∧ ip.proto = 17 ∧ 8 ≤ len ∧ len = ip.total then
      let c := beAt ip.body 6 2
      some { ip := ip, sport := beAt ip.body 0 2, dport := beAt ip.body 2 2, payload := ip.body.drop 8,
             csumOk := c == 0 || inetSum (ip.srcBytes ++ ip.dstBytes ++ beBytes 2 17 ++ beBytes 2 len ++ ip.body) == 65535 }
    else none

/-- Whether a frame is a PTP frame (R105, R115). -/
def isPtp (b : List Byte) : Bool :=
  beAt b (typeOff b) 2 == 0x88F7 || (match udpOf b with | some u => u.dport == 319 || u.dport == 320 | none => false)

/-! ### PTP messages that come in (R62 to R66) -/

/-- What a received PTP message is (R63). Times are in units of 2⁻¹⁶ ns since the PTP epoch. -/
inductive PtpKind where
  | sync (twoStep : Bool) (origin : Nat)
  | followUp (origin : Nat)
  | announce (a : Announce)
  | delayResp (received requester : Nat)
  | pdelayReq
  | pdelayResp (twoStep : Bool) (received requester : Nat)
  | pdelayRespFollowUp (origin requester : Nat)
  | management
  | signalling
deriving DecidableEq, Repr

/-- A PTP message as a slot takes it: the fields of its header that R62 to R67 use, its corrected first stamp (R87, R88), the bytes its
AUTHENTICATION TLV covers with the tag that it carries (R63), the total time inaccuracy of a Power Profile TLV in ns, 0 when there is
none, and the message's bytes for the host (R123). -/
structure PtpMsg where
  port : Nat
  udp4 : Bool
  domain : Nat
  sdoId : Nat
  kind : PtpKind
  sender : Nat
  seq : Nat
  logInterval : Int
  correction : Int
  rx : Int
  srcIp : Word
  srcMac : Nat
  auth : Option (List Byte × List Byte)
  tlvNs : Nat
  bytes : List Byte
deriving DecidableEq, Repr

/-- A PTP timestamp of 10 bytes, seconds and nanoseconds, as a time. -/
def ptpTime (b : List Byte) (off : Nat) : Nat := beAt b off 6 * subPerSec + beAt b (off + 6) 4 * subPerNs

/-- The data set and flags of an Announce message. -/
def announceOf (b : List Byte) : Announce :=
  { identity := beAt b 53 8, priority1 := byteAt b 47, clockClass := byteAt b 48, accuracy := byteAt b 49, variance := beAt b 50 2,
    priority2 := byteAt b 52, stepsRemoved := beAt b 61 2, timeTraceable := bitOf (byteAt b 7) 4, utcValid := bitOf (byteAt b 7) 2,
    utcOffset := sext 16 (beAt b 44 2) }

/-- What a PTP message is and where its TLVs start, by its messageType; none for a type that no slave acts on or for one that is
shorter than its type. -/
def ptpKindOf (b : List Byte) : Option (PtpKind × Nat) :=
  let two := bitOf (byteAt b 6) 1
  let k : Option (PtpKind × Nat) := match byteAt b 0 % 16 with
    | 0x0 => some (.sync two (ptpTime b 34), 44)
    | 0x2 => some (.pdelayReq, 54)
    | 0x3 => some (.pdelayResp two (ptpTime b 34) (beAt b 44 10), 54)
    | 0x8 => some (.followUp (ptpTime b 34), 44)
    | 0x9 => some (.delayResp (ptpTime b 34) (beAt b 44 10), 54)
    | 0xA => some (.pdelayRespFollowUp (ptpTime b 34) (beAt b 44 10), 54)
    | 0xB => some (.announce (announceOf b), 64)
    | 0xC => some (.signalling, 44)
    | 0xD => some (.management, 48)
    | _ => none
  k.filter fun x => x.2 ≤ b.length

/-- The TLVs of a message from an offset on: the offset of each, its type and the length of its value. -/
def tlvsOf (b : List Byte) : Nat → Nat → List (Nat × Nat × Nat)
  | 0, _ => []
  | fuel + 1, off =>
    let n := beAt b (off + 2) 2
    if off + 4 + n ≤ b.length then (off, beAt b off 2, n) :: tlvsOf b fuel (off + 4 + n) else []

/-- What an AUTHENTICATION TLV covers and its tag: the message up to the last 16 bytes of the TLV, and those (R63). -/
def ptpAuthOf (b : List Byte) (l : List (Nat × Nat × Nat)) : Option (List Byte × List Byte) :=
  match l.find? fun x => x.2.1 == 0x8009 && 22 ≤ x.2.2 with
  | some (off, _, n) => some (b.take (off + n - 12), slice b (off + n - 12) 16)
  | none => none

/-- totalTimeInaccuracy of the Power Profile TLV of IEEE C37.238-2017: an organization extension of 1C-12-9D, subtype 2. -/
def ptpInaccOf (b : List Byte) (l : List (Nat × Nat × Nat)) : Nat :=
  match l.find? fun x => x.2.1 == 0x0003 && 16 ≤ x.2.2 && beAt b (x.1 + 4) 6 == 0x1C129D000002 with
  | some (off, _, _) => beAt b (off + 16) 4
  | none => 0

/-- The PTP message in a frame on its way to the time base; none for one that is no message of PTP version 2. -/
def ptpMsgOf (q : PtpFrame) : Option PtpMsg :=
  let (udp4, src, load) := if beAt q.bytes (typeOff q.bytes) 2 = 0x88F7 then (false, (0 : Word), q.bytes.drop (typeOff q.bytes + 2))
    else match udpOf q.bytes with
      | some u => (true, u.ip.src, u.payload)
      | none => (false, 0, [])
  let b := load.take (beAt load 2 2)
  match ptpKindOf b with
  | some (k, off) =>
    if byteAt b 1 % 16 = 2 ∧ beAt load 2 2 ≤ load.length then
      let l := tlvsOf b b.length off
      some { port := q.port, udp4 := udp4, domain := byteAt b 4, sdoId := byteAt b 0 / 16 * 256 + byteAt b 5, kind := k,
             sender := beAt b 20 10, seq := beAt b 30 2, logInterval := sext 8 (byteAt b 33), correction := sext 64 (beAt b 8 8),
             rx := q.rx, srcIp := src, srcMac := leAt q.bytes 6 6, auth := ptpAuthOf b l, tlvNs := ptpInaccOf b l, bytes := b }
    else none
  | none => none

/-! ### PTP messages that go out (R65) -/

/-- messageType of a message that a slot sends. -/
def ptpTxCode : PtpTxKind → Nat
  | .delayReq => 1 | .pdelayReq => 2 | .pdelayResp => 3 | .pdelayRespFollowUp => 10

/-- The length of a message that a slot sends. -/
def ptpTxSize : PtpTxKind → Nat
  | .delayReq => 44 | _ => 54

/-- The UDP port of a message: 319 for an event message, 320 for the follow-up (R65). -/
def ptpTxPort : PtpTxKind → Nat
  | .pdelayRespFollowUp => 320 | _ => 319

/-- The port identity of a slot on a port. -/
def ownIdentity (slot port : Nat) : Nat := Config.portIdentity slot port % 2 ^ 80

/-- A time as the 10 bytes of a PTP timestamp, truncated to ns. -/
def ptpStamp (t : Int) : List Byte := beBytes 6 (secOf t.toNat) ++ beBytes 4 (nsOf t.toNat)

/-- The PTP message itself, from its header on. DESIGN CHOICE (log entry 126): R63 gives AUTHENTICATION to what a slot receives; the
messages of a slot with AUTH = 1 carry no TLV. -/
def PtpTx.message (m : PtpTx) : List Byte :=
  beBytes 1 (m.sdoId / 256 % 16 * 16 + ptpTxCode m.kind) ++ beBytes 1 0x12 ++ beBytes 2 (ptpTxSize m.kind) ++ beBytes 1 m.domain ++
    beBytes 1 (m.sdoId % 256) ++ beBytes 1 (2 * b2n m.twoStep + 4 * b2n m.unicast) ++ [0] ++ beBytes 8 (toTwos 64 m.correction) ++
    beBytes 4 0 ++ beBytes 10 (ownIdentity m.slot m.port) ++ beBytes 2 m.seq ++
    beBytes 1 (if m.kind = .delayReq then 1 else 5) ++ beBytes 1 0x7F ++ ptpStamp m.time ++
    (if m.kind = .delayReq then [] else beBytes 10 (if m.kind = .pdelayReq then 0 else m.requester))

/-- The IPv4 header of a PTP message of n bytes (R65): ECN 0, DF set, its checksum computed. -/
def PtpTx.ipHeader (m : PtpTx) (n : Nat) : List Byte :=
  let h (c : Nat) : List Byte := beBytes 1 0x45 ++ beBytes 1 (4 * m.dscp) ++ beBytes 2 (28 + n) ++ beBytes 2 m.ipId ++
    beBytes 2 0x4000 ++ beBytes 1 m.ttl ++ beBytes 1 17 ++ beBytes 2 c ++ leBytes 4 m.srcIp.toNat ++ leBytes 4 m.dstIp.toNat
  h (inetCsum (h 0))

/-- The UDP datagram of a PTP message (R65): the source port is the destination port, its checksum computed. -/
def PtpTx.udp (m : PtpTx) (b : List Byte) : List Byte :=
  let h (c : Nat) : List Byte := beBytes 2 (ptpTxPort m.kind) ++ beBytes 2 (ptpTxPort m.kind) ++ beBytes 2 (8 + b.length) ++ beBytes 2 c ++ b
  let c := inetCsum (leBytes 4 m.srcIp.toNat ++ leBytes 4 m.dstIp.toNat ++ beBytes 2 17 ++ beBytes 2 (8 + b.length) ++ h 0)
  h (if c = 0 then 65535 else c)

/-- The frame of a PTP message (R65), from the destination address to the last byte before the FCS, without padding. -/
def PtpTx.frame (m : PtpTx) : List Byte :=
  let b := m.message
  leBytes 6 m.dstMac ++ leBytes 6 m.srcMac ++
    (if m.udp4 then beBytes 2 0x0800 ++ m.ipHeader b.length ++ m.udp b else beBytes 2 0x88F7 ++ b)

/-- A one-step response at the moment it goes on the wire (R87, R88): its turn-round, the corrected transmit stamp less the corrected
receive stamp of its request, is added to its correction. -/
def PtpTx.begun (m : PtpTx) (stamp : Int) : PtpTx :=
  match m.turn with
  | some rx => { m with correction := m.correction + (stamp - rx), turn := none }
  | none => m

/-- The bytes of a transmitted frame, up to the FCS; a PTP message is padded like any other frame (R111). -/
def TxBody.bytes (b : TxBody) : List Byte :=
  match b with
  | .raw x => x
  | .ptp m => padTo (max 60 m.frame.length) m.frame

end Sys2Proof.Machine
end

