-- ==== Sys2Proof/Machine/Capture.lean ====
section
/-! DEFINITION. The capture engine (R363 to R377): arming, the reductions and their blocks, triggers, the end of a capture, the
header, and the trigger bus. -/

namespace Sys2Proof.Machine

/-- Capture channel c. -/
def State.capCh (s : State) (c : Nat) : CapCh := nth {} s.cap.ch c

/-- The state with capture channel c changed. -/
def State.modCap (s : State) (c : Nat) (f : CapCh → CapCh) : State := { s with cap := { s.cap with ch := s.cap.ch.modify c f } }

/-- The state with trigger line n changed. -/
def State.modLine (s : State) (n : Nat) (f : TrgLine → TrgLine) : State :=
  { s with cap := { s.cap with line := s.cap.line.modify n f } }

/-- The code of a channel's state (R363). -/
def CapSt.code : CapSt → Nat
  | .idle => 0 | .armed => 1 | .triggered => 2 | .done => 3 | .overflow => 4 | .aborted => 5

/-- Whether a channel is ARMED or TRIGGERED. -/
def CapCh.busy (c : CapCh) : Bool := c.st == .armed || c.st == .triggered

/-- A bit of CAP_EVT set, with its CAPTURE record (R381). -/
def State.capEvent (s : State) (bit c : Nat) : State := (s.event Reg.CAP_EVT bit).logRaise 12 (unitCode 13) bit [c, (s.capCh c).st.code]

/-! ### The region and its blocks (R365, R367) -/

/-- CAP_CH_BASE. -/
def State.capBase (s : State) (c : Nat) : Nat := s.reg64 (Reg.CAP_CH_BASE_LO c)
/-- Bytes of the region: SIZE × 2 MiB. -/
def State.capBytes (s : State) (c : Nat) : Nat := s.fld (Reg.CAP_CH_SIZE c) 0 12 * 2 ^ 21
/-- Blocks of the ring: all but block 0. -/
def State.capRing (s : State) (c : Nat) : Nat := s.capBytes c / 4096 - 1
/-- FE_MASK of the capture under way. -/
def CapCh.mask (c : CapCh) : Nat := bitsOf c.cfg.toNat 0 24
/-- Whether reduction r is selected. -/
def CapCh.sel (c : CapCh) (r : Nat) : Bool := bitOf c.cfg.toNat (24 + r)
/-- PRE_MS in DT units. -/
def CapCh.pre (c : CapCh) : Nat := bitsOf c.time.toNat 0 14 * subPerMs
/-- E = T_last + POST_MS (R371). -/
def CapCh.endAt (c : CapCh) : Nat := c.lastTrig + bitsOf c.time.toNat 16 16 * subPerMs

/-- Bytes of an entry of a reduction (R367): RAW, CYC, HRMS by the number of channels, SNAP by the number of lanes. -/
def capEntryLen (r nch lanes : Nat) : Nat :=
  match r with
  | 0 => 4 * nch
  | 1 => 8 + 8 * nch
  | 2 => 8 + 4 * nch
  | _ => 16 + 8 * lanes

/-- Entries a block of a reduction holds: SNAP one, the others as many as fit after the header (R367). -/
def capPerBlock (r nch lanes : Nat) : Nat := if r = 3 then 1 else 4064 / capEntryLen r nch lanes

/-- a / b rounded up. -/
def ceilDiv (a b : Nat) : Nat := (a + b - 1) / b

/-- The configuration set in force at the front end: the one it runs on, or, while it is off, the ACTIVE one. -/
def State.feSetNow (s : State) : CfgSet := if s.fe.mclk then s.fe.set else s.cfg.active

/-- Blocks the selected reductions fill in a time of `ms`, at the rates in force, counting cycles at f_nom (R365, REGION). -/
def State.capNeed (s : State) (c ms : Nat) : Nat :=
  let cfg := (s.reg (Reg.CAP_CH_CFG c)).toNat
  let nch := (maskList 24 (bitsOf cfg 0 24)).length
  let lanes := s.fld (Reg.CAP_CH_SNAP c) 17 9
  let fe := (cfgWord s.feSetNow 0x0A 15 8).toNat
  let fnom := if bitOf fe 1 then 50 else 60
  let rate (r : Nat) : Nat :=
    match r with
    | 0 => if bitOf fe 0 then 160000 else 80000
    | 1 => fnom
    | 2 => 2 * fnom
    | _ => s.tb.grid.rate
  ((List.range 4).map fun r =>
    if bitOf cfg (24 + r) then ceilDiv (ceilDiv (rate r * ms) 1000) (capPerBlock r nch lanes) else 0).sum

/-- Whether the region of channel c overlaps that of another. -/
def State.capOverlap (s : State) (c : Nat) : Bool :=
  (List.range 4).any fun d => d != c && s.capBase c < s.capBase d + s.capBytes d && s.capBase d < s.capBase c + s.capBytes c

/-- ERR of an ARM of channel c (R365): the lowest code that applies, 0 when it is accepted. -/
def State.capArmErr (s : State) (c : Nat) : Nat :=
  let cfg := (s.reg (Reg.CAP_CH_CFG c)).toNat
  let pre := s.fld (Reg.CAP_CH_TIME c) 0 14
  let post := s.fld (Reg.CAP_CH_TIME c) 16 16
  let red := bitsOf cfg 24 4
  let fe := red % 8 != 0
  let first := s.fld (Reg.CAP_CH_SNAP c) 0 17
  let cnt := s.fld (Reg.CAP_CH_SNAP c) 17 9
  let badCfg := red == 0 || (fe && bitsOf cfg 0 24 == 0) || 10000 < pre || post < 1 || 60000 < post ||
    (bitOf red 3 && (cnt < 1 || 500 < cnt || 131072 < first + cnt)) ||
    (List.range 8).any fun e => 9 ≤ bitsOf (byteAt (s.capEntry c e) 0) 0 4
  if (s.capCh c).busy then 1
  else if !s.dramFits (s.capBase c) (s.capBytes c) || s.capOverlap c || 2048 < ((List.range 4).map fun d => s.fld (Reg.CAP_CH_SIZE d) 0 12).sum
      || (!badCfg && s.capRing c < s.capNeed c (pre + post)) then 2
  else if badCfg then 3
  else if fe && !s.fe.running then 4
  else if !s.bit Reg.CAP_CTRL 0 then 5
  else 0

/-! ### FE-based conditions (R368) -/

/-- Whether the front-end condition of a trigger entry holds on the half-cycle RMS values kept (newest first) and the measured
frequency; none for the other TYPEs. -/
def feCondition (e : List Byte) (hrms : List (List Word)) (fm fnom : Rat) : Option Bool :=
  let th := f32Rat (BitVec.ofNat 32 (leAt e 4 4))
  let c := bitsOf (byteAt e 1) 0 5
  let v (i : Nat) : Option Rat := (hrms[i]?).map fun l => f32Rat (nth 0 l c)
  match bitsOf (byteAt e 0) 0 4 with
  | 1 => some ((v 0).any fun x => th ≤ x)
  | 2 => some ((v 0).any fun x => x ≤ th)
  | 3 => some (match v 0, v 2 with | some a, some b => th ≤ absRat (a - b) | _, _ => false)
  | 4 => some (th ≤ absRat (fm - fnom))
  | _ => none

/-- f_nom of the configuration in force at the front end. -/
def State.fnom (s : State) : Rat := if bitOf (cfgWord s.fe.set 0x0A 15 8).toNat 1 then 50 else 60

/-- The entries of channel c whose front-end condition holds now. -/
def State.feHolds (s : State) (c : Nat) : BitVec 8 :=
  (List.range 8).foldl (fun m e =>
    if feCondition (s.capEntry c e) s.cap.hrms s.fe.fm s.fnom = some true then m ||| BitVec.ofNat 8 (2 ^ e) else m) 0

/-- The front-end conditions looked at again, for the TYPEs given, with the instant T they carry: an entry whose condition
begins to hold is a detection (R368). -/
def State.feDetect (s : State) (types : List Nat) (t : Nat) : State :=
  (List.range 4).foldl (fun (s : State) c =>
    let now := s.feHolds c
    let old := (s.capCh c).holds
    let typeOf (e : Nat) := bitsOf (byteAt (s.capEntry c e) 0) 0 4
    let mask := (List.range 8).foldl (fun m e => if types.contains (typeOf e) then m ||| BitVec.ofNat 8 (2 ^ e) else m) (0 : BitVec 8)
    let hits := (List.range 8).filter fun e => mask.getLsbD e && now.getLsbD e && !old.getLsbD e
    let s1 := s.modCap c fun k => { k with holds := (old &&& ~~~mask) ||| (now &&& mask) }
    if (s.capCh c).busy then
      { s1 with cap := { s1.cap with detected := s1.cap.detected ++ hits.map fun e => ⟨c, e, typeOf e, t, 0, s.dt⟩ } }
    else s1) s

/-- An ARM of channel c (R365): refused with its ERR, or ARMED with an empty ring. -/
def State.capArm (s : State) (c : Nat) : State :=
  let err := s.capArmErr c
  if err ≠ 0 then (s.modCap c fun k => { k with err := err }).capEvent 11 c
  else
    let s1 := s.modCap c fun _ => { st := .armed, armedAt := s.dt, cfg := s.reg (Reg.CAP_CH_CFG c), time := s.reg (Reg.CAP_CH_TIME c),
                                    snap := s.reg (Reg.CAP_CH_SNAP c), holds := s.feHolds c }
    let s2 := { s1 with cap := { s1.cap with detected := s1.cap.detected.filter fun d => d.ch != c } }
    s2.dramWrite (s2.capBase c) [0]

/-! ### Blocks (R367) -/

/-- The 4,096 bytes of a block (R367): its header, with the CRC over it, then its entries. -/
def capBlockBytes (o : CapOpen) (bseq mask : Nat) : List Byte :=
  let body (crc : Nat) : List Byte := padTo 4096
    (leBytes 1 0x21 ++ leBytes 1 o.red ++ leBytes 2 o.entries.length ++ leBytes 4 bseq ++ tsBytes o.first ++ leBytes 4 o.period ++
      leBytes 4 mask ++ leBytes 4 crc ++ o.entries.flatten)
  body (crc32c (body 0))

/-- An open block of channel c is closed: it is written to the next place of the ring, under the next BSEQ (R367; that a block takes its
place as it closes is DEDUCED, log entry 137). While ARMED the oldest block is overwritten; while TRIGGERED a block that would be the first
retained one is not written (R372). -/
def State.capClose (s : State) (c : Nat) (o : CapOpen) : State :=
  let k := s.capCh c
  let rest := s.modCap c fun k => { k with opens := k.opens.filter fun p => p.red != o.red }
  if k.st = .triggered ∧ k.startBseq + s.capRing c ≤ k.bseq then rest.modCap c fun k => { k with full := true }
  else
    ((rest.dramWrite (s.capBase c + 4096 * (1 + k.bseq % s.capRing c)) (capBlockBytes o k.bseq k.mask)).modCap c fun k =>
      { k with bseq := k.bseq + 1, blocks := (k.blocks.filter fun b => k.bseq < b.bseq + s.capRing c) ++ [⟨k.bseq, s.dt, o.last⟩] }).count
      (Reg.CAP_CNT_LO 8)

/-- An entry appended to the open block of its reduction. -/
def State.capAppend (s : State) (c : Nat) (o : CapOpen) (inst : Nat) (e : List Byte) : State :=
  s.modCap c fun k =>
    { k with opens := k.opens.map fun p => if p.red = o.red then { p with entries := p.entries ++ [e], last := inst } else p }

/-- A block opened with its first entry. While TRIGGERED the blocks that are open keep their places in the ring, and the capture is out of
space when the next one would be the first retained block (R372). -/
def State.capOpenBlock (s : State) (c r inst period : Nat) (e : List Byte) : State :=
  let k := s.capCh c
  if k.st = .triggered ∧ k.startBseq + s.capRing c ≤ k.bseq + k.opens.length then s.modCap c fun k => { k with full := true }
  else s.modCap c fun k => { k with opens := k.opens ++ [⟨r, inst, period, [e], inst⟩] }

/-- An entry of reduction r for channel c (R366, R367, R371): `inst` its instant, `cov` the end of its interval, `mk` its bytes
from the instant of the block's first entry. An entry of a TRIGGERED channel after E is not written; it tells that none at or before E will
follow. -/
def State.capAdd (s : State) (c r inst cov period : Nat) (mk : Nat → List Byte) : State :=
  let k := s.capCh c
  if !k.busy ∨ !k.sel r ∨ k.full ∨ (k.st = .triggered ∧ k.endAt < nth 0 k.covered r) then s
  else if k.st = .triggered ∧ k.endAt < inst then s.modCap c fun k => { k with covered := k.covered.set r cov }
  else
    let s1 :=
      match k.opens.find? fun o => o.red == r with
      | none => s.capOpenBlock c r inst period (mk inst)
      | some o =>
        let e := mk o.first
        if r ≠ 3 ∧ o.period = period ∧ 32 + (o.entries.map List.length).sum + e.length ≤ 4096 then s.capAppend c o inst e
        else
          (s.capClose c o).capOpenBlock c r inst period (mk inst)
    s1.modCap c fun k =>
      if k.full then k else { k with covered := k.covered.set r cov, lastEntry := inst }

/-- The delay of the raw tap (R303, R366), in units of 2⁻¹⁶ ns: 231.958 µs, or 16.333 µs in SCS mode. -/
def rawDelay (scs : Bool) : Nat := if scs then 1070400000 else 15201600000
/-- The period of the raw tap (R303, R366): 12.5 µs, or 6.25 µs in SCS mode. -/
def rawPeriod (scs : Bool) : Nat := if scs then 409600000 else 819200000

/-- A raw sample (R366), released at an instant; its own instant is that minus the delay of the raw tap. -/
def State.capRaw (s : State) (scs : Bool) (release : Nat) (vals : List Word) : State :=
  let inst := release - rawDelay scs
  let per := rawPeriod scs
  (List.range 4).foldl (fun (s : State) c =>
    s.capAdd c 0 inst (inst + per) per fun _ => (maskList 24 (s.capCh c).mask).flatMap fun ch => leBytes 4 (nth 0 vals ch).toNat) s

/-- A measured cycle (R366): minimum and maximum of each channel. -/
def State.capCyc (s : State) (mark close per : Nat) (mins maxs : List Word) : State :=
  (List.range 4).foldl (fun (s : State) c =>
    s.capAdd c 1 mark close 0 fun first =>
      leBytes 4 ((mark - first) / subPerNs) ++ leBytes 4 per ++
        (maskList 24 (s.capCh c).mask).flatMap fun ch => leBytes 4 (nth 0 mins ch).toNat ++ leBytes 4 (nth 0 maxs ch).toNat) s

/-- A half-cycle (R366): the RMS of each channel, kept for the trigger conditions too. `last` is the label of its last set. -/
def State.capHrms (s : State) (first last dur : Nat) (rms : List Word) : State :=
  let s1 := (List.range 4).foldl (fun (s : State) c =>
    s.capAdd c 2 first (first + dur * subPerNs / 256) 0 fun f0 =>
      leBytes 4 ((first - f0) / subPerNs) ++ leBytes 4 dur ++
        (maskList 24 (s.capCh c).mask).flatMap fun ch => leBytes 4 (nth 0 rms ch).toNat) s
  ({ s1 with cap := { s1.cap with hrms := (rms :: s1.cap.hrms).take 3 } }).feDetect [1, 2, 3] last

/-- A quay that reaches SETTLE_DONE (R366): the lanes of each channel's range, by a reader of lanes. -/
def State.capSnap (s : State) (seq inst next : Nat) (tq : BitVec 16) (lane : Nat → List Byte) : State :=
  (List.range 4).foldl (fun (s : State) c =>
    let sn := (s.capCh c).snap.toNat
    s.capAdd c 3 inst next 0 fun _ =>
      leBytes 8 seq ++ leBytes 2 tq.toNat ++ leBytes 6 0 ++
        (List.range (bitsOf sn 17 9)).flatMap fun i => lane (bitsOf sn 0 17 + i)) s

/-! ### The header and the end (R371 to R374) -/

/-- The 512 bytes of the capture header (R374). -/
def State.capHeader (s : State) (c endAt : Nat) : List Byte :=
  let k := s.capCh c
  let flags := b2n k.preShort + 2 * b2n (k.retrigN != 0) + 4 * b2n k.modeChange + 8 * b2n (bitsOf k.tq.toNat 7 3 != 1) +
    16 * b2n k.feStopped + 32 * b2n k.toutLost + 64 * k.ovfCause
  let body (crc : Nat) : List Byte :=
    padTo 508
      (padTo 128 (leBytes 1 0x20 ++ leBytes 1 1 ++ leBytes 1 (c + 4 * k.st.code) ++ leBytes 1 flags ++
          leBytes 4 (k.trigEntry + 8 * b2n k.swtrig + 16 * k.trigType + 256 * k.retrigN + 2 ^ 16 * k.busCode) ++
          tsBytes k.trigAt ++ tsBytes endAt ++ tsBytes k.toutAt ++ leBytes 2 k.tq.toNat ++ leBytes 2 k.preAct ++
          leBytes 4 (bitsOf k.cfg.toNat 0 28) ++ leBytes 4 (bitsOf k.time.toNat 0 14 + 2 ^ 16 * bitsOf k.time.toNat 16 16) ++
          leBytes 4 (1 + k.startBseq % s.capRing c) ++ leBytes 4 (k.bseq - k.startBseq) ++ leBytes 4 (bitsOf k.snap.toNat 0 26) ++
          s.deviceId) ++
        (k.gains.flatMap fun g => leBytes 4 g.1.toNat) ++ (k.gains.flatMap fun g => leBytes 4 g.2.1.toNat) ++
        (k.gains.flatMap fun g => leBytes 4 g.2.2.toNat)) ++ leBytes 4 crc
  body (crc32c (body 0))

/-- A capture stops in a final state (R364, R371 to R373): open blocks closed, block 0 written with the header and zeros after it (R374). Of a
channel that was ARMED all that stands in the ring is retained. -/
def State.capStop (s : State) (c : Nat) (st : CapSt) (cause endAt : Nat) : State :=
  let s1 := (s.capCh c).opens.foldl (fun (s : State) o => s.capClose c o) s
  let s2 := s1.modCap c fun k =>
    { k with st := st, ovfCause := cause, opens := [], startBseq := if k.st = .armed then k.bseq - min k.bseq (s.capRing c) else k.startBseq }
  let s3 := { s2 with cap := { s2.cap with detected := s2.cap.detected.filter fun d => d.ch != c } }
  s3.dramWrite (s3.capBase c) (padTo 4096 (s3.capHeader c endAt))

/-- Whether no quay that a capture waits for is left (R371): alignment opens none, by ALN_CTRL.EN or for want of a grid, and each quay held
with an INSTANT up to E has reached SETTLE_DONE. -/
def State.capNoQuay (s : State) (e : Nat) : Bool :=
  (!s.bit Reg.ALN_CTRL 0 || s.tb.grid.rate == 0) && s.aln.quays.all fun q => decide (e < q.instant) || q.settleDone

/-- Whether each selected reduction has written the entry whose interval contains E (R371); one that the stop of the front
end has ended waits for DT alone, and SNAP, once no quay will follow, for DT and the quays held. -/
def State.capEnded (s : State) (c : Nat) : Bool :=
  let k := s.capCh c
  k.st == .triggered && (List.range 4).all fun r =>
    !k.sel r || k.endAt < nth 0 k.covered r || (r != 3 && k.feStopped && k.endAt ≤ s.dt) || (r == 3 && s.capNoQuay k.endAt && k.endAt ≤ s.dt)

/-- The end of a capture (R371): DONE. -/
def capEndRow (c : Nat) (s : State) : State :=
  if s.capEnded c then ((s.capStop c .done 0 (s.capCh c).endAt).capEvent c c).count (Reg.CAP_CNT_LO 2) else s

/-- A capture runs out of space (R372): the region, or the write FIFO, which the sender reports. -/
def capOverflowRow (c : Nat) (fifo : Bool) (s : State) : State :=
  let k := s.capCh c
  if k.st = .triggered ∧ (fifo ∨ k.full) then
    ((s.capStop c .overflow (if fifo then 2 else 1) k.lastEntry).capEvent (4 + c) c).count (Reg.CAP_CNT_LO 3)
  else s

/-- An abort of channel c (R364, R373): ARMED keeps nothing; TRIGGERED ends ABORTED unless its end by R371 or R372 has been reached. -/
def State.capAbort (s : State) (c : Nat) : State :=
  let k := s.capCh c
  match k.st with
  | .armed =>
    let s1 := s.modCap c fun _ => { abortRes := 1 }
    ({ s1 with cap := { s1.cap with detected := s1.cap.detected.filter fun d => d.ch != c } }).count (Reg.CAP_CNT_LO 4)
  | .triggered =>
    if s.capEnded c then (capEndRow c s).modCap c fun k => { k with abortRes := 2 }
    else if k.full then (capOverflowRow c false s).modCap c fun k => { k with abortRes := 2 }
    else ((s.capStop c .aborted 0 k.lastEntry).modCap c fun k => { k with abortRes := 1 }).count (Reg.CAP_CNT_LO 4)
  | _ => s.modCap c fun k => { k with abortRes := 2 }

/-- The fault collector fences the capture engine (R364). -/
def State.capFence (s : State) : State :=
  (List.range 4).foldl (fun (s : State) c =>
    if (s.capCh c).busy then s.capStop c .aborted 0 (s.capCh c).lastEntry else s) s

/-- A change of front-end mode during a capture (R366): the open RAW block closes, and the header will say MODE_CHANGE. -/
def State.capModeChange (s : State) : State :=
  (List.range 4).foldl (fun (s : State) c =>
    if (s.capCh c).busy then
      (((s.capCh c).opens.filter fun o => o.red == 0).foldl (fun (s : State) o => s.capClose c o) s).modCap c fun k => { k with modeChange := true }
    else s) s

/-- The front end has stopped (R366). -/
def State.capFeStopped (s : State) : State :=
  (List.range 4).foldl (fun (s : State) c =>
    if (s.capCh c).busy ∧ bitsOf (s.capCh c).cfg.toNat 24 3 ≠ 0 then s.modCap c fun k => { k with feStopped := true } else s) s

/-! ### Triggers (R368, R370, R371, R377) -/

/-- A request for a trigger pulse on a line (R377): dropped without OUT_EN; a fifth in the queue is dropped and counted. -/
def State.trgRequest (s : State) (line : Nat) (r : TrgReq) : State :=
  if !s.bit Reg.CAP_TRG_CFG (4 + line) then s
  else if (nth {} s.cap.line line).queue.length < 4 then s.modLine line fun l => { l with queue := l.queue ++ [r] }
  else
    let s1 := s.count (Reg.CAP_CNT_LO 7)
    match r.ch with
    | some c => s1.modCap c fun k => { k with toutLost := true }
    | none => s1

/-- Channel c takes a trigger (R368, R370, R371, R374). -/
def State.capTake (s : State) (c : Nat) (d : CapDet) : State :=
  let k := s.capCh c
  match k.st with
  | .armed =>
    let from_ := d.at_ - k.pre
    let short := from_ < k.armedAt
    let start := ((k.blocks.filter fun b => from_ ≤ b.closedAt).map (·.bseq)).foldl min k.bseq
    let s1 := s.modCap c fun k =>
      { k with st := .triggered, trigAt := d.at_, lastTrig := d.at_, trigEntry := d.entry % 8, swtrig := d.entry == 8,
               trigType := d.typ, busCode := d.code, preShort := short,
               preAct := if short then (d.at_ - k.armedAt) / subPerMs else bitsOf k.time.toNat 0 14,
               startBseq := start, tq := s.tqAt d.at_,
               gains := (List.range 24).map fun i => (s.reg (Reg.FE_ACT_GAIN i), s.reg (Reg.FE_ACT_OFFSET i), s.reg (Reg.FE_ACT_PDLY i)) }
    let s2 := (s1.setTs (Reg.CAP_CH_TRIG_SUBNS c) d.at_).count (Reg.CAP_CNT_LO 0)
    if s2.bit (Reg.CAP_CH_TOUT c) 0 then s2.trgRequest (s2.fld (Reg.CAP_CH_TOUT c) 1 2) ⟨s2.fld (Reg.CAP_CH_TOUT c) 3 3, some c⟩ else s2
  | .triggered =>
    (s.modCap c fun k =>
      { k with retrigN := min (k.retrigN + 1) 255, lastTrig := if bitOf k.cfg.toNat 28 then d.at_ else k.lastTrig }).count (Reg.CAP_CNT_LO 1)
  | _ => s

/-- The earliest of some detections, and among equal T the lowest entry. -/
def earliestDet : List CapDet → Option CapDet
  | [] => none
  | d :: ds =>
    match earliestDet ds with
    | none => some d
    | some e => if e.at_ < d.at_ ∨ (e.at_ = d.at_ ∧ e.entry < d.entry) then some e else some d

/-- A detection is taken by channel c (R368): of those detected together, the earliest. -/
def capTriggerRow (c : Nat) (s : State) : State :=
  match s.cap.detected.find? fun d => d.ch == c with
  | none => s
  | some d0 =>
    let together := s.cap.detected.filter fun d => d.ch == c && d.seen == d0.seen
    let s1 := { s with cap := { s.cap with detected := s.cap.detected.filter fun d => !(d.ch == c && d.seen == d0.seen) } }
    match earliestDet together with
    | some d => s1.capTake c d
    | none => s1

/-- A write of CAP_CH_CTRL.ARM (R365). -/
def capChArmRow (c : Nat) (s : State) : State := if s.hasCap ∧ c < 4 then s.capArm c else s

/-- A write of CAP_CH_CTRL.ABORT (R373). -/
def capChAbortRow (c : Nat) (s : State) : State := if s.hasCap ∧ c < 4 then s.capAbort c else s

/-- A write of CAP_CH_CTRL.SWTRIG, or a trigger manifest (R368): T is the DT of the write, and it comes after what was detected before it,
and last among the detections of equal T. -/
def State.capSwtrig (s : State) (c : Nat) : State :=
  if (s.capCh c).busy then
    let s1 := { s with cap := { s.cap with detected := s.cap.detected ++ [(⟨c, 8, 0, s.dt, 0, s.dt⟩ : CapDet)] } }
    (s1.cap.detected.filter fun (d : CapDet) => d.ch == c).foldl (fun (s : State) _ => capTriggerRow c s) s1
  else s

/-- A write of CAP_CH_CTRL.SWTRIG (R368). -/
def capChSwtrigRow (c : Nat) (s : State) : State := if s.hasCap ∧ c < 4 then s.capSwtrig c else s

/-- The CAP_ARM manifest (R365, R433, R434). -/
def manCapArm (n : Nat) (s : State) : State :=
  s.runManifest n 0x0040 fun mid b s =>
    let c := bitsOf (byteAt b 20) 0 2
    let err := s.capArmErr c
    (s.capArm c).finish mid (if err = 0 then stDone else stRefused) err []

/-- The CAP_TRIGGER manifest (R368, R433). -/
def manCapTrigger (n : Nat) (s : State) : State :=
  s.runManifest n 0x0041 fun mid b s => (s.capSwtrig (bitsOf (byteAt b 20) 0 2)).finish0 mid stDone

/-- The CAP_ABORT manifest (R373, R433): DETAIL0 1 ABORTED or 2 ALREADY_DONE. -/
def manCapAbort (n : Nat) (s : State) : State :=
  s.runManifest n 0x0042 fun mid b s =>
    let c := bitsOf (byteAt b 20) 0 2
    let s1 := s.capAbort c
    let r := (s1.capCh c).abortRes
    s1.finish mid (if r = 1 then stDone else stAlreadyDone) r []

/-! ### The trigger bus (R375 to R377) -/

/-- CAP_TRG_DLY_n, signed (R375). -/
def State.trgDelay (s : State) (n : Nat) : Int := (s.reg (Reg.CAP_TRG_DLY n)).toInt

/-- The code a width decodes to (R376): none for a glitch; (code, collision) otherwise. -/
def trgDecode (w : Nat) : Option (Nat × Bool) :=
  if w < 2 * subPerUs then none
  else match (List.range 8).find? fun c => (c + 1) * 4 * subPerUs ≤ w + 3 * subPerUs / 2 && w ≤ (c + 1) * 4 * subPerUs + 3 * subPerUs / 2 with
    | some c => some (c, false)
    | none => some (7, true)

/-- A low pulse on a line, from its falling to its rising edge (R376). -/
def trgPulseRx (line fall rise : Nat) (s : State) : State :=
  if !s.hasCap ∨ 4 ≤ line ∨ !s.bit Reg.CAP_TRG_CFG line ∨ (nth {} s.cap.line line).stuck ∨ 40 * subPerUs < rise - fall then s
  else match trgDecode (rise - fall) with
    | none => s
    | some (code, coll) =>
      let ref := ((fall : Int) - s.trgDelay line).toNat
      let s0 := s.advance rise
      let s1 := ((s0.setTs (Reg.CAP_TRG_IN_SUBNS line) ref).setReg (Reg.CAP_TRG_CODE line)
        (BitVec.ofNat 32 (code + 8 + 16 * b2n coll))).count (Reg.CAP_CNT_LO 5)
      let s2 := s1.capEvent 8 0
      let s3 := if coll then (s2.capEvent 9 0).count (Reg.CAP_CNT_LO 6) else s2
      (s3.capNotice 7 (fun _ b2 => bitsOf b2 0 2 == line && (bitOf b2 5 || bitsOf b2 2 3 == code)) ref code).wakeIf 2

/-- A line still low at 40 µs (R376): another device holds it low. With IN_EN it is STUCK, the fault source of the capture engine, and gives no
pulses until it ends. -/
def trgLineStuck (line : Nat) (s : State) : State :=
  if !s.hasCap ∨ 4 ≤ line ∨ (nth {} s.cap.line line).stuck then s
  else
    let s1 := s.modLine line fun l => { l with held := true, low := true }
    if !s.bit Reg.CAP_TRG_CFG line then s1 else ((s1.modLine line fun l => { l with stuck := true }).capEvent 10 0).unitFault 13

/-- A line that was held low has been high for 1 ms (R376); of another line the command tells nothing. -/
def trgLineStuckEnd (line : Nat) (s : State) : State :=
  if (nth {} s.cap.line line).held then s.modLine line fun l => { l with stuck := false, held := false, low := l.driving.isSome } else s

/-- A write of CAP_TRG_OUT with GO (R377, R386). -/
def capTrgOutGo (v : Word) (s : State) : State :=
  if s.hasCap ∧ v.getLsbD 31 then s.trgRequest (bitsOf v.toNat 0 2) ⟨bitsOf v.toNat 2 3, none⟩ else s

/-- A queued request finds the line high and the driver pulls it low (R377); `stamp` is the stamp of the falling edge. -/
def trgOutPulseStart (line stamp : Nat) (s : State) : State :=
  let l := nth {} s.cap.line line
  match l.queue with
  | [] => s
  | r :: rs =>
    if l.driving.isSome ∨ l.low then s
    else
      let ref := ((stamp : Int) + s.trgDelay line).toNat
      let s1 := s.modLine line fun l => { l with driving := some r, queue := rs, low := true }
      match r.ch with
      | some c => s1.modCap c fun k => { k with toutAt := ref }
      | none => s1

/-- The pulse width expires and the driver releases the line (R377). -/
def trgOutPulseEnd (line : Nat) (s : State) : State :=
  s.modLine line fun l => if l.driving.isSome then { l with driving := none, low := l.held } else l

end Sys2Proof.Machine
end

