-- ==== Sys2Proof/Machine/FrontEnd.lean ====
section
/-! DEFINITION. The sampling front end (R299 to R320, R330 to R334): enabling, sample sets and their labels, cycle marks and what
applies at them, the ping-pong banks, channel conditions and the calibration swap. -/

namespace Sys2Proof.Machine

/-- The front end changed. -/
def State.modFe (s : State) (f : Fe → Fe) : State := { s with fe := f s.fe }

/-- Channel c changed. -/
def State.modChan (s : State) (c : Nat) (f : FeChan → FeChan) : State := s.modFe fun e => { e with chan := e.chan.modify c f }

/-- Sets per cycle N (R305). -/
def feN (scs : Bool) : Nat := if scs then 64 else 256
/-- The group delay G (R311): 600.0 µs, or 150.0 µs in SCS mode. -/
def feG (scs : Bool) : Nat := if scs then 150 * subPerUs else 600 * subPerUs
/-- The FIR part Lh of the group delay (R307), in units of 2⁻¹⁶ ns. -/
def feLh (scs : Bool) : Nat := if scs then 2708800000 else 28308800000

/-- FE_CFG of a set. -/
def feCfg (set : CfgSet) : Nat := (cfgWord set 0x0A 15 0x8).toNat
/-- FE_CH_CFG of channel c of a set. -/
def feChCfg (set : CfgSet) (c : Nat) : Nat := (cfgWord set 0x0A 15 (0x400 + 0x20 * c)).toNat
/-- Whether channel c is enabled in a set. -/
def feChOn (set : CfgSet) (c : Nat) : Bool := bitOf (feChCfg set c) 5

/-- Every counter of a block cleared in one step: `n` pairs from `lo` (R118). -/
def State.clearCounters (s : State) (lo n : Nat) : State := (List.range n).foldl (fun (s : State) c => s.setReg64 (lo + 8 * c) 0) s

/-- A channel whose filter stages are empty (R316). -/
def FeChan.emptied (k : FeChan) : FeChan := { k with sinc := [], sincOut := 0, half1 := [], half2 := [], half3 := [], tap := 0, out := [] }
/-- A channel whose stream begins anew: no condition holds on it (R301, R302). -/
def FeChan.cleared (k : FeChan) : FeChan := { k with clip := false, stuck := false, run := 0, sincOut := 0 }

/-- The period of FE_MCLK, 1 / 20.48 MHz, in units of 2⁻¹⁶ ns (R299). -/
def mclkPeriod : Nat := 3200000
/-- The number of the first FE_MCLK period that begins at or after an instant: period i begins i periods after DT 0, so a whole number
of them makes a second (R299). -/
def firstEdge (t : Nat) : Nat := (t + mclkPeriod - 1) / mclkPeriod

/-- FE_PP_CTRL of ACTIVE's section written (R438): at the mark at which the section takes effect (R316). DESIGN CHOICE (log entry 123): at
the effective instant itself while the front end is off, and as it is switched off before the mark. -/
def State.ppApply (s : State) : State :=
  (List.range 3).foldl (fun (s : State) g => s.setReg (Reg.FE_PP_CTRL g) (cfgWord s.cfg.active 0x0A 15 (0x100 + 0x80 * g) &&& 0x3FF)) s

/-- A write of FE_CTRL (R330, R331): EN stays 0 while no set is active. -/
def feCtrlWrite (v : Word) (s : State) : State :=
  if !s.hasFe then s
  else
    let s0 := if v.getLsbD 1 then s.clearCounters (Reg.FE_CNT_LO 0) 8 else s
    let en := v.getLsbD 0 && s0.cfg.activeValid
    let was := s0.bit Reg.FE_CTRL 0
    let s1 := s0.setReg Reg.FE_CTRL (putBits (v &&& 0xD) 0 1 (b2n en))
    if en ∧ !was then
      s1.modFe fun f => { f with
        mclk := true, aligned := true, running := false, hasMark := false, pos := 0, hist := [], set := s.cfg.active,
        mapSet := s.cfg.active, mapFrom := none, setGen := s.cfg.gen, scs := bitOf (feCfg s.cfg.active) 0, startedAt := s.dt,
        edge := firstEdge s.dt, next := none, fresh := [], chan := f.chan.map fun k => k.emptied.cleared,
        group := f.group.map fun g => { g with count := 0, fillPer := [], fillTs := 0 } }
    else if !en ∧ was then
      let s2 := if s1.fe.setGen = s1.cfg.gen then s1 else s1.ppApply
      (s2.modFe fun f => { f with mclk := false, running := false, fresh := [], chan := f.chan.map FeChan.cleared }).capFeStopped
    else s1

/-- A DT step (R299, R316): the PLL realigns within 10 ms, and the sets labelled in that time carry SETTLING. The edges and the labels
count on from the new DT (DESIGN CHOICE, log entry 123). -/
def State.feStep (s : State) : State :=
  if s.fe.mclk then
    s.modFe fun f => { f with
      aligned := false, pllFrom := s.dt, pllTill := s.dt + 10 * subPerMs, stepMark := true, edge := firstEdge s.dt, next := none,
      fresh := [] }
  else s

/-- The FE PLL has realigned FE_MCLK (R299). -/
def fePllRealignRow (s : State) : State := s.modFe fun f => { f with aligned := f.mclk }

/-- Whether a channel's stream shows CLIP or STUCK (R301): 0.95 of full scale or more at the sinc³ output; 1,024 equal bits. -/
def FeChan.shows (k : FeChan) (clip : Bool) : Bool := if clip then decide (19 / 20 ≤ absRat k.sincOut) else decide (1024 ≤ k.run)

/-- A condition of channel ch begins or ends (R301): an onset is an event, is counted and, STUCK, is a fault of the front end. -/
def State.chanCondition (s : State) (ch : Nat) (clip on : Bool) : State :=
  let k := nth {} s.fe.chan ch
  let was := if clip then k.clip else k.stuck
  let s1 := s.modChan ch fun k => if clip then { k with clip := on } else { k with stuck := on }
  if on ∧ !was then
    if clip then (s1.event Reg.FE_EVT 0).count (Reg.FE_CNT_LO 1)
    else ((s1.event Reg.FE_EVT 1).count (Reg.FE_CNT_LO 2)).unitFault 10
  else s1

/-- Whether channel ch is on in its stream: by the set that a restart for the next mark has brought, or by the one in force. -/
def State.chanOn (s : State) (ch : Nat) : Bool := feChOn (if (mapFind s.fe.fresh ch).isSome then s.cfg.active else s.fe.set) ch

/-- The stream of channel ch: the one it has restarted for the next mark, or the one in force. -/
def Fe.stream (f : Fe) (ch : Nat) : FeChan := (mapFind f.fresh ch).getD (nth {} f.chan ch)

/-- STUCK or CLIP begins or ends on a channel (R301, R302): a disabled channel raises neither, and a condition begins or ends only as
the stream shows it. -/
def feChannelConditionRow (ch : Nat) (clip on : Bool) (s : State) : State :=
  if !s.hasFe ∨ s.unitFenced 10 ∨ 24 ≤ ch ∨ !s.bit Reg.FE_CTRL 0 ∨ !s.chanOn ch ∨ (s.fe.stream ch).shows clip ≠ on then s
  else s.chanCondition ch clip on

/-- A condition of channel ch as its stream shows it after a bit (R301); on a disabled channel neither holds (R302). -/
def State.chanWatch (s : State) (clip : Bool) (ch : Nat) : State :=
  let k := nth {} s.fe.chan ch
  let on := s.chanOn ch && (s.fe.stream ch).shows clip
  if (if clip then k.clip else k.stuck) = on then s else s.chanCondition ch clip on

/-- Both conditions of every channel after a bit. -/
def State.chansWatch (s : State) : State := (List.range 24).foldl (fun (s : State) c => (s.chanWatch true c).chanWatch false c) s

/-! ### Calibration (R313, R314) -/

/-- Whether the STANDBY calibration of a channel is in range (R313). -/
def State.standbyOk (s : State) (c : Nat) : Bool :=
  let g := s.reg (Reg.FE_CAL_GAIN c)
  let o := s.reg (Reg.FE_CAL_OFFSET c)
  f32Finite g && f32Rat g != 0 && f32Finite o && absRat (f32Rat o) ≤ 1 / 2 && s.fld (Reg.FE_CAL_PDLY c) 0 17 ≤ 100000

/-- A write of FE_CAL_SWAP with GO (R314). -/
def feCalSwapGoRow (v : Word) (s : State) : State :=
  let mask := bitsOf v.toNat 0 24
  if !s.hasFe then s
  else if s.fe.calPending.isSome then s.event Reg.FE_EVT 6
  else if !v.getLsbD 31 ∨ mask = 0 then s
  else if (maskList 24 mask).all fun c => s.standbyOk c then s.modFe fun f => { f with calPending := some (BitVec.ofNat 24 mask, s.dt) }
  else s.event Reg.FE_EVT 5

/-- ACTIVE and STANDBY of a channel exchanged. -/
def State.calExchange (s : State) (c : Nat) : State :=
  let x (s : State) (a b : Nat) : State := (s.setReg a (s.reg b)).setReg b (s.reg a)
  x (x (x s (Reg.FE_ACT_GAIN c) (Reg.FE_CAL_GAIN c)) (Reg.FE_ACT_OFFSET c) (Reg.FE_CAL_OFFSET c)) (Reg.FE_ACT_PDLY c) (Reg.FE_CAL_PDLY c)

/-- The swap at the first mark labelled at least 1 ms after the write (R314); the answer is the mask swapped. -/
def State.calSwapAt (s : State) (label : Nat) : State × BitVec 24 :=
  match s.fe.calPending with
  | none => (s, 0)
  | some (mask, at_) =>
    if label < at_ + subPerMs then (s, 0)
    else
      let s1 := (maskList 24 mask.toNat).foldl (fun (s : State) c => s.calExchange c) s
      let gen := s1.reg Reg.FE_CAL_GEN + 1
      let s2 := (((s1.setReg Reg.FE_CAL_GEN gen).modFe fun f => { f with calPending := none }).event Reg.FE_EVT 4).count (Reg.FE_CNT_LO 5)
      (s2.logRaise 6 (unitCode 10) 4 [bitsOf mask.toNat 0 8, bitsOf mask.toNat 8 8, bitsOf mask.toNat 16 8, bitsOf gen.toNat 0 8], mask)

/-! ### The tracker (R308 to R310) -/

/-- Loss and return of a reference (R309): lost below REF_MIN %, regained after 5 cycles at REF_MIN + 2 % or more. -/
def refStep (lost : Bool) (ok : Nat) (pct : Option Rat) (refMin : Nat) : Bool × Nat :=
  match pct with
  | none => (lost, ok)
  | some p =>
    if lost then
      if ((refMin + 2 : Nat) : Rat) ≤ p then (if ok + 1 < 5 then (true, ok + 1) else (false, 0)) else (true, 0)
    else if p < (refMin : Rat) then (true, 0) else (false, 0)

/-- The RMS of a channel over the last measured cycle, of n sets, in % of full scale, full scale being GAIN (R309); none before a cycle is
held. -/
def State.refPct (s : State) (n c : Nat) : Option Rat :=
  let sets := s.fe.hist.take n
  if sets.length < n then none
  else
    let ms := sumRat (sets.map fun x => f32Mul (nth 0 x.vals c) (nth 0 x.vals c)) / (n : Rat)
    some (100 * sqrtRat ms / absRat (f32Rat (s.reg (Reg.FE_ACT_GAIN c))))

/-- The tracker at a cycle mark: its source, f_m with the clamp of R310, and the period of a set in units of 2⁻⁸ ns (R317); the cycle that
ends at the mark has n sets. -/
def State.trackerAt (s : State) (label n : Nat) (m : FeMark) : State :=
  let c := feCfg s.fe.set
  let refMin := bitsOf c 24 8
  let r := refStep s.fe.refLost s.fe.refOk (s.refPct n (bitsOf c 8 5)) refMin
  let a := refStep s.fe.altLost s.fe.altOk (s.refPct n (bitsOf c 16 5)) refMin
  let st := if !r.1 then 0 else if bitOf c 21 && !a.1 then 1 else 2
  let fnom : Rat := if bitOf c 1 then 50 else 60
  let raw := if st = 0 then m.refHz else if st = 1 then m.altHz else fnom
  let fm := max (4 / 5 * fnom) (min (6 / 5 * fnom) raw)
  let out := fm != raw
  let s1 := s.modFe fun f => { f with
    refLost := r.1, refOk := r.2, altLost := a.1, altOk := a.2, refState := st, fm := fm, freqRange := out,
    per := floorNat (256000000000 / ((feN s.fe.scs : Rat) * fm)), mark := label, hasMark := true, scsMark := f.scs }
  let s2 := if st ≠ s.fe.refState then (s1.event Reg.FE_EVT 2).count (Reg.FE_CNT_LO 3) else s1
  let s3 := if out ∧ !s.fe.freqRange then s2.event Reg.FE_EVT 3 else s2
  (s3.setReg Reg.FE_FREQ (toF32 fm)).setTs Reg.FE_MARK_SUBNS label

/-- The banks swap when a filling bank is full or a mode change ends it (R318, R320): a bank still held is overwritten and counts an OVERRUN. -/
def State.bankSwap (s : State) (g : Nat) : State :=
  let was := (nth {} s.fe.group g).held
  let s1 := s.modFe fun f => { f with group := f.group.modify g fun k =>
    { k with doneSets := k.count, doneTs := k.fillTs, donePer := k.fillPer, count := 0, fillPer := [], fill1 := !k.fill1,
             seq := k.seq + 1, seqNat := k.seqNat + 1, held := true,
             overwritten := if was then (k.overwritten ++ [k.seqNat - 1]) else k.overwritten } }
  if was then (s1.event Reg.FE_EVT 7).count (Reg.FE_CNT_LO 4) else s1

/-! ### Changes at a mark (R316) -/

/-- Whether a mark with a label is the one at which the front-end section of ACTIVE takes effect (R316). -/
def State.feAdopts (s : State) (label : Nat) : Bool := s.fe.setGen != s.cfg.gen && decide (s.cfg.activeFrom ≤ label)

/-- The mode in force from the set with a label on (R311, R316). -/
def State.feScsAt (s : State) (label : Nat) : Bool :=
  if s.fe.pos = 0 ∧ s.feAdopts label then bitOf (feCfg s.cfg.active) 0 else s.fe.scs

/-- The mark at which a change of the front-end section will take effect, when it is the next one: its label follows from the sets of the
cycle under way (R317). -/
def State.feNextMark (s : State) : Option Nat :=
  match s.fe.next with
  | some l =>
    let m := l + (if s.fe.pos = 0 then 0 else feN s.fe.scs - s.fe.pos) * (256 * s.fe.per)
    if s.feAdopts m then some m else none
  | none => none

/-- Whether a change from one set to another restarts channel c (R316): of the mode, or of its SRC or EN. -/
def feRestarts (scs : Bool) (old new : CfgSet) (c : Nat) : Bool :=
  bitOf (feCfg new) 0 != scs || (feChCfg old c &&& 0x3F) != (feChCfg new c &&& 0x3F)

/-- PHASE_DLY of channel c from a mark on: that of STANDBY when a swap takes effect there (R314). -/
def State.pdlyAt (s : State) (c mark : Nat) : Nat :=
  let standby : Bool := match s.fe.calPending with
    | some (mask, at_) => mask.getLsbD c && decide (at_ + subPerMs ≤ mark)
    | none => false
  if standby then s.fld (Reg.FE_CAL_PDLY c) 0 17 else s.fld (Reg.FE_ACT_PDLY c) 0 17

/-- The local map entries that a commit changes, with its effective instant (R324). -/
def State.lpeCommitted (s : State) (old new : CfgSet) (eff : Nat) : State :=
  let changed (j : Nat) : Bool := (List.range 16).any fun i => cfgWord old 0x0A 0 (64 * j + 4 * i) != cfgWord new 0x0A 0 (64 * j + 4 * i)
  s.modFe fun f => { f with mapChangedAt := ((List.range 16).filter changed).foldl (fun l j => mapSet l j eff) f.mapChangedAt }

/-- The front-end section of ACTIVE taken into force at a mark at or after its effective instant: mode first, then SRC, EN and
DC blocker; a mode change and a change of SRC or EN make the samples SETTLING, of which the restarted stages hold what followed the
change. -/
def State.feAdopt (s : State) (label : Nat) : State :=
  if !s.feAdopts label then s
  else
    let old := s.fe.set
    let new := s.cfg.active
    let scs := bitOf (feCfg new) 0
    let moded := scs != s.fe.scs
    let till := label + 2 * feLh scs
    let s1 := s.ppApply.modFe fun f => { f with
      set := new, setGen := s.cfg.gen, scs := scs, mapSet := old, mapFrom := some label,
      pos := if moded then 0 else f.pos, fresh := [], outAt := if moded ∧ f.fresh ≠ [] then f.freshAt else f.outAt,
      chan := f.chan.mapIdx fun c k =>
        if feRestarts f.scs old new c then
          { (match mapFind f.fresh c with | some x => x | none => k.emptied) with
            clip := k.clip, stuck := k.stuck, settleTill := max k.settleTill till }
        else k }
    if moded then ((List.range 3).foldl (fun (s : State) g => if (nth {} s.fe.group g).count = 0 then s else s.bankSwap g) s1).capModeChange
    else s1

/-! ### Sets and banks (R305, R311, R317 to R320) -/

/-- The product of two polynomials. -/
def polyMul (a b : List Int) : List Int :=
  (List.range (a.length + b.length - 1)).map fun n => ((List.range a.length).map fun i => if i ≤ n then nth 0 a i * nth 0 b (n - i) else 0).sum

/-- The 94 taps of the sinc³ filter (R303): three moving sums of 32 bits; they add up to 32,768. -/
def sincTaps : List Int := let box := List.replicate 32 1; polyMul box (polyMul box box)

/-- The number of taps of half-band filter i (R303). -/
def halfLen (i : Nat) (scs : Bool) : Nat := if scs then 7 else nth 0 [0, 11, 19, 63] i

/-- The taps of half-band filter i (R303): symmetric, 1/2 in the middle and 0 at every other even distance from it. -/
def halfTaps (i : Nat) (scs : Bool) : List Rat :=
  let mid := halfLen i scs / 2
  (List.range (halfLen i scs)).map fun n =>
    let d := if n ≤ mid then mid - n else n - mid
    if d = 0 then 1 / 2 else if d % 2 = 0 then 0 else Config.halfTap i scs d

/-- The output of a filter that holds some samples, newest first: samples it does not hold are zero. -/
def firOut (taps mem : List Rat) : Rat := sumRat (List.zipWith (· * ·) taps mem)

/-- Samples between two values of the raw tap (R303): 20.48 MHz over 80 kHz, or over 160 kHz in SCS mode. -/
def tapEvery (scs : Bool) : Nat := if scs then 128 else 256

/-- Bit n (counted from 1) of a channel's stream, as +1, −1 or, on a disabled channel, 0, through the decimating stages (R303). Each
stage gives a value when the count of bits is a multiple of its decimation (DESIGN CHOICE, log entry 123). -/
def FeChan.feed (scs : Bool) (n : Nat) (x : Rat) (k : FeChan) : FeChan :=
  let k1 := { k with sinc := (x :: k.sinc).take 94 }
  if n % 32 ≠ 0 then k1
  else
    let y1 := firOut (sincTaps.map fun (z : Int) => (z : Rat)) k1.sinc / 32768
    let k2 := { k1 with sincOut := y1, half1 := (y1 :: k.half1).take (halfLen 1 scs) }
    if n % 64 ≠ 0 then k2
    else
      let y2 := firOut (halfTaps 1 scs) k2.half1
      let k3 := { k2 with half2 := (y2 :: k.half2).take (halfLen 2 scs) }
      if n % 128 ≠ 0 then k3
      else
        let y3 := firOut (halfTaps 2 scs) k3.half2
        if scs then { k3 with tap := y3 }
        else
          let k4 := { k3 with half3 := (y3 :: k.half3).take 63 }
          if n % 256 ≠ 0 then k4 else { k4 with tap := firOut (halfTaps 3 scs) k4.half3 }

/-- A bit of a channel's stream (R300 to R303): 1 is positive and 0 negative full scale; a disabled channel passes zeros. -/
def FeChan.bit (scs on : Bool) (n : Nat) (b : Bool) (k : FeChan) : FeChan :=
  if on then
    ({ k with run := if k.run = 0 ∨ k.level != b then 1 else min 1024 (k.run + 1), level := b } : FeChan).feed scs n (if b then 1 else -1)
  else ({ k with run := 0 } : FeChan).feed scs n 0

/-- The new target of the DC estimate at a whole second (R304): the mean of the samples of the last tau seconds that were not taken while
it was frozen. -/
def FeChan.dcTarget (k : FeChan) (c tau sec : Nat) : Rat :=
  let past := ((k.dcbSec, k.dcbSum, k.dcbNum) :: k.dcbPast).filter fun p => decide (sec ≤ p.1 + tau)
  let n := (past.map fun p => p.2.2).sum
  if n = 0 then Config.dcbMean c tau sec else sumRat (past.map fun p => p.2.1) / (n : Rat)

/-- The DC blocker at a value of the raw tap less OFFSET (R304, R313): the estimate is 0 in mode OFF, held in FROZEN and while AUTO is
frozen; else it moves by a second's part of the way to the target at every sample. -/
def FeChan.block (scs : Bool) (cfg c : Nat) (freeze : Bool) (offset : Rat) (t : Nat) (k : FeChan) : FeChan :=
  let lvl := bitsOf cfg 16 8
  let tau := nth 1 [1, 2, 5, 10] (bitsOf cfg 10 2)
  let hit := lvl != 0 && decide ((lvl : Rat) / 100 ≤ absRat k.tap)
  let till := if hit then t + bitsOf cfg 24 8 * subPerSec else k.frozenTill
  let frozen := match bitsOf cfg 8 2 with
    | 1 => freeze || hit || decide (t < till)
    | 2 => true
    | _ => false
  let k1 := { k with frozenTill := till, dcbFrozen := frozen }
  let k2 := if k1.dcbSec = secOf t then k1
    else { k1 with
      dcbStep := (k1.dcTarget c tau (secOf t) - k1.dcb) * (rawPeriod scs : Rat) / (subPerSec : Rat), dcbSec := secOf t,
      dcbPast := ((k1.dcbSec, k1.dcbSum, k1.dcbNum) :: k1.dcbPast).take 10, dcbSum := 0, dcbNum := 0 }
  let z := k.tap - offset
  let e := match bitsOf cfg 8 2 with
    | 1 => if frozen then k2.dcb else k2.dcb + k2.dcbStep
    | 2 => k2.dcb
    | _ => 0
  let k3 := if frozen then k2 else { k2 with dcbSum := k2.dcbSum + z, dcbNum := k2.dcbNum + 1 }
  { k3 with dcb := e, out := ((k.tap - e) :: k.out).take 128 }

/-- The level of pin p at an instant: after the last change reported up to it (R300). -/
def Fe.levelAt (f : Fe) (pins : List (List (Nat × Bool))) (t p : Nat) : Bool :=
  ((((nth [] pins p).filter fun x => decide (x.1 ≤ t)).getLast?).map fun x => x.2).getD (nth false f.pins p)

/-- The DT instant of the FE_MCLK edge that samples the pins in the next period (R299, R300). -/
def State.feEdgeAt (s : State) : Nat := mclkPeriod * s.fe.edge + if s.bit Reg.FE_CTRL 3 then mclkPeriod / 2 else 0

/-- The channels that a change at the next mark m restarts, after bit n at an instant (R307, R316): the change is a step whose input instant
less PHASE_DLY is the mark plus Lh, so that it affects the sets labelled from the mark on. -/
def State.feFresh (s : State) (t n : Nat) (pin : Nat → Bool) : List (Nat × FeChan) :=
  match s.feNextMark with
  | none => []
  | some m =>
    let new := s.cfg.active
    let scs := bitOf (feCfg new) 0
    (List.range 24).filterMap fun c =>
      if feRestarts s.fe.scs s.fe.set new c ∧ m + feLh scs + s.pdlyAt c m * subPerNs ≤ t then
        let k := (nth {} s.fe.chan c).emptied
        let k0 := if (feChCfg s.fe.set c &&& 0x3F) != (feChCfg new c &&& 0x3F) then k.cleared else k
        some (c, ((mapFind s.fe.fresh c).getD k0).bit scs (feChOn new c) n (pin (bitsOf (feChCfg new c) 0 5)))
      else none

/-- FE_CH_CFG of channel c for its DC blocker at an instant (R304, R316): the new one for what follows the next mark. -/
def State.dcbCfg (s : State) (c t : Nat) : Nat :=
  match s.feNextMark with
  | some m => feChCfg (if m + s.pdlyAt c m * subPerNs ≤ t then s.cfg.active else s.fe.set) c
  | none => feChCfg s.fe.set c

/-- A value of the raw tap of a channel passes the calibration offset and the DC blocker (R304, R313). -/
def State.chanBlock (s : State) (scs : Bool) (cfg t c : Nat) (k : FeChan) : FeChan :=
  k.block scs cfg c (bitOf (s.reg Reg.FE_DCB_FREEZE).toNat c) (f32Rat (s.reg (Reg.FE_ACT_OFFSET c))) t

/-- The raw taps of the restarted channels, which count in their own mode, to their DC blockers. -/
def State.freshTap (s : State) (t n : Nat) : State :=
  let scs := bitOf (feCfg s.cfg.active) 0
  if n % tapEvery scs ≠ 0 then s
  else s.modFe fun f => { f with
    freshAt := t - rawDelay scs, fresh := f.fresh.map fun x => (x.1, s.chanBlock scs (feChCfg s.cfg.active x.1) t x.1 x.2) }

/-- The raw taps of the channels in force, to the capture engine and to the DC blockers. -/
def State.chanTap (s : State) (t n : Nat) : State :=
  let scs := s.fe.scs
  if n % tapEvery scs ≠ 0 then s
  else
    let s1 := s.capRaw scs t (s.fe.chan.map fun k => toF32 k.tap)
    s1.modFe fun f => { f with
      outAt := t - rawDelay scs, chan := f.chan.mapIdx fun c k => s1.chanBlock scs (s1.dcbCfg c (t - rawDelay scs)) t c k }

/-- One FE_MCLK period (R300 to R304): every channel takes a bit from the pin its SRC names, and its conditions follow its stream; a value
of the raw tap goes to the capture engine and to the DC blocker. -/
def State.feEdge (s : State) (pins : List (List (Nat × Bool))) : State :=
  let t := s.feEdgeAt
  let n := s.fe.edge + 1
  let pin (p : Nat) : Bool := s.fe.levelAt pins t p
  let bit (c : Nat) (k : FeChan) : FeChan := k.bit s.fe.scs (feChOn s.fe.set c) n (pin (bitsOf (feChCfg s.fe.set c) 0 5))
  ((s.modFe fun f => { f with edge := n, fresh := s.feFresh t n pin, chan := f.chan.mapIdx bit }).chansWatch.freshTap t n).chanTap t n

/-- The FE_MCLK periods whose edge falls at or before an instant (R299, R300); the levels that the pins are left at. -/
def State.feRun (s : State) (pins : List (List (Nat × Bool))) (till : Nat) : State :=
  let s1 := (List.range ((till + mclkPeriod - s.feEdgeAt) / mclkPeriod)).foldl (fun (s : State) _ => s.feEdge pins) s
  s1.modFe fun f => { f with pins := (List.range 24).map (f.levelAt pins (max till (mclkPeriod * s.fe.edge))) }

/-- The resampler (R303): a channel interpolated at an instant over the 32 (in SCS mode 8) values about it; a value that is not there is
zero. -/
def resample (scs : Bool) (outAt : Nat) (out : List Rat) (t : Nat) : Rat :=
  let half : Rat := if scs then 4 else 16
  sumRat (out.mapIdx fun i x =>
    let d : Rat := (((outAt : Int) - (i : Int) * (rawPeriod scs : Int) - (t : Int) : Int) : Rat) / (rawPeriod scs : Rat)
    if -half < d ∧ d ≤ half then Config.resampleTap scs (absRat d) * x else 0)

/-- The value of a channel in a set (R303, R311, R313): what stood at its pin at the label plus PHASE_DLY, less OFFSET and the DC estimate,
times GAIN, in V or A; 0 for a disabled channel. OFFSET is the one in force at the set (R314), so `out` is kept without it. -/
def State.feValue (s : State) (c label : Nat) : Word :=
  if feChOn s.fe.set c then
    toF32 (f32Rat (s.reg (Reg.FE_ACT_GAIN c)) *
      resample s.fe.scs s.fe.outAt ((nth {} s.fe.chan c).out.map fun x => x - f32Rat (s.reg (Reg.FE_ACT_OFFSET c))) (label + s.fld (Reg.FE_ACT_PDLY c) 0 17 * subPerNs))
  else 0

/-- The bits of the channels for which a property holds. -/
def chanMask (p : Nat → Bool) : BitVec 24 := BitVec.ofNat 24 ((List.range 24).foldl (fun n c => n + b2n (p c) * 2 ^ c) 0)

/-- A set written into group g's filling bank (R317, R318). -/
def State.bankWrite (s : State) (g label per : Nat) (mark : Bool) (vals : List Word) : State :=
  let k := nth {} s.fe.group g
  let base := (if k.fill1 then 16384 else 0) + 32 * k.count
  let words := (List.range 8).foldl (fun m i => mapPut (fun _ => (0 : Word)) m (base + 4 * i) (nth 0 vals (8 * g + i))) k.words
  let s1 := s.modFe fun f => { f with group := f.group.modify g fun k =>
    { k with words := words, count := k.count + 1, fillTs := if k.count = 0 then label else k.fillTs,
             fillPer := if mark then k.fillPer ++ [per] else k.fillPer } }
  if k.count + 1 = 512 then s1.bankSwap g else s1

/-- The root mean square of a channel over some sets. -/
def setRms (sets : List FeSet) (c : Nat) : Word :=
  sqrtF32 (sumRat (sets.map fun x => f32Mul (nth 0 x.vals c) (nth 0 x.vals c)) / (max sets.length 1 : Nat))

/-- The least and the greatest value of a channel over some sets. -/
def setMin (sets : List FeSet) (c : Nat) : Word :=
  sets.foldl (fun w x => if f32Rat (nth 0 x.vals c) < f32Rat w then nth 0 x.vals c else w) (((sets.head?).map fun x => nth 0 x.vals c).getD 0)
def setMax (sets : List FeSet) (c : Nat) : Word :=
  sets.foldl (fun w x => if f32Rat w < f32Rat (nth 0 x.vals c) then nth 0 x.vals c else w) (((sets.head?).map fun x => nth 0 x.vals c).getD 0)

/-- A cycle closes at a mark (R336, R356, R366): the RMS registers, the CYC entries, and the metering tap, whose 128 KiB FIFO
holds sets of 24 words (DEDUCED) and loses a cycle that does not fit. -/
def State.cycleClose (s : State) (label : Nat) : State :=
  let n := feN s.fe.scs
  let sets := (s.fe.hist.take n).reverse
  if !s.fe.hasMark ∨ sets.length < n ∨ !(((sets.head?).map (·.mark)).getD false) then s
  else
    let s1 := (List.range 24).foldl (fun (s : State) c => s.setReg (Reg.FE_CH_RMS c) (setRms sets c)) s
    let s2 := s1.capCyc s.fe.mark label s.fe.per ((List.range 24).map (setMin sets)) ((List.range 24).map (setMax sets))
    if !s2.mtr.running then s2
    else
      let cyc : MtrCyc :=
        { open_ := s.fe.mark, close_ := label, n := n, per := s.fe.per, fm := s.fe.fm, vals := sets.map (·.vals),
          before := (((s.fe.hist.drop n).take (n / 4)).reverse).map (·.vals),
          clip := sets.foldl (fun b x => b ||| x.clip) 0, stuck := sets.foldl (fun b x => b ||| x.stuck) 0,
          nominal := sets.any fun x => x.refState == 2, scs := s.fe.scs,
          calSwap := sets.any fun x => x.swapped != 0, calGen := (((sets.getLast?).map fun (x : FeSet) => x.calGen).getD 0).toNat }
      if (s2.mtr.tap.map fun c => c.n * 96).sum + n * 96 ≤ 131072 then { s2 with mtr := { s2.mtr with tap := s2.mtr.tap ++ [cyc] } }
      else
        let s3 := s2.count (Reg.MTR_CNT_LO 6)
        { s3 with mtr := { s3.mtr with point := s3.mtr.point.map fun p => { p with flags := p.flags ||| 0x400 } } }

/-- The label of the next sample set (R311, R317): it follows from the set before it; that of a first set lies G before the instant given. -/
def State.feLabel (s : State) (release : Nat) : Nat :=
  match s.fe.next with
  | some l => l
  | none => release - feG (s.feScsAt (release - feG s.fe.scs))

/-- When the next sample set is released (R311): its label plus G of the mode in force from it on. -/
def State.feRelease (s : State) (release : Nat) : Nat := let l := s.feLabel release; l + feG (s.feScsAt l)

/-- A sample set is released (R311): labelled r − G; at a cycle mark the tracker and what applies at marks come first, in the
order of R316. -/
def feSampleSetRow (release : Nat) (pins : List (List (Nat × Bool))) (m : FeMark) (s : State) : State :=
  if !s.hasFe ∨ s.unitFenced 10 ∨ !s.bit Reg.FE_CTRL 0 ∨ !s.cfg.activeValid then s
  else
    let label := s.feLabel release
    let rel := s.feRelease release
    let s0 := (s.advance rel).feRun pins rel
    let mark := s0.fe.pos == 0
    let s1 := if mark then (s0.cycleClose label).feAdopt label else s0
    let sw := if mark then (s1.trackerAt label (feN s0.fe.scs) m).calSwapAt label else (s1, 0)
    let s2 := if mark then sw.1.feDetect [4] label else sw.1
    let s3 := s2.modFe fun f => { f with running := true }
    let vals := (List.range 24).map fun c => s3.feValue c label
    let f := s3.fe
    let set : FeSet :=
      { label := label, release := rel, mark := mark, fm := f.fm, per := f.per, vals := vals,
        clip := chanMask fun c => (nth {} f.chan c).clip && feChOn f.set c,
        stuck := chanMask fun c => (nth {} f.chan c).stuck && feChOn f.set c,
        settling := chanMask fun c => label ≤ (nth {} f.chan c).settleTill && (nth {} f.chan c).settleTill != 0 || f.pllFrom ≤ label && label < f.pllTill,
        swapped := sw.2, freqRange := f.freqRange, refState := f.refState, scs := f.scs, calGen := s3.reg Reg.FE_CAL_GEN,
        stepped := f.stepMark, bankSeq := (nth {} f.group 0).seqNat }
    let s4 := (List.range 3).foldl (fun (s : State) g => s.bankWrite g label f.per mark vals) s3
    let n := feN f.scs
    let pos := f.pos + 1
    let s5 := (s4.modFe fun f => { f with hist := (set :: f.hist).take 8192, pos := pos % n, next := some (label + 256 * f.per), stepMark := false }).count (Reg.FE_CNT_LO 0)
    if pos = n / 2 ∨ pos = n then
      let half := (s5.fe.hist.take (n / 2)).reverse
      s5.capHrms (((half.head?).map (·.label)).getD label) label (n / 2 * f.per) ((List.range 24).map (setRms half))
    else s5

end Sys2Proof.Machine
end

