-- ==== Sys2Proof/Machine/Ports.lean ====
section
/-! DEFINITION. The network ports (R99 to R119): link states, the receive checks and filters, PAUSE, the transmit queues and
PRP, and the HOST_SEND manifest with its segmentation (R114). -/

namespace Sys2Proof.Machine

/-- Port p. -/
def State.port (s : State) (p : Nat) : Port := nth {} s.mac.port p

/-- The state with port p changed. -/
def State.modPort (s : State) (p : Nat) (f : Port → Port) : State := { s with mac := { s.mac with port := s.mac.port.modify p f } }

/-- Counter c of port p advanced by n (R119). -/
def State.macCountBy (s : State) (p c n : Nat) : State := s.countBy (Reg.MAC_CNT_LO p c) n

/-- A frame dropped on reception, counted in c (R103). -/
def State.rxDrop (s : State) (p c : Nat) : State := (s.macCountBy p c 1).event (Reg.MAC_EVT p) 1

/-- A bit of MAC_CTRL of port p. -/
def State.macCtrl (s : State) (p i : Nat) : Bool := s.bit (Reg.MAC_CTRL p) i

/-- LINE of port p; P0 to P3 have none (R118). -/
def State.macLine (s : State) (p : Nat) : Nat := if p < 4 then 0 else s.fld (Reg.MAC_CTRL p) 6 2

/-- LINE_ERR (R118). -/
def State.lineErr (s : State) (p : Nat) : Bool := 2 ≤ s.macLine p

/-- Whether autonegotiation is in use (R99, R118). -/
def State.autoneg (s : State) (p : Nat) : Bool := 4 ≤ p && (s.macLine p == 1 || (s.macLine p == 0 && s.macCtrl p 5))

/-- The even port of port p's PRP pair, when the pair is on (R115). -/
def State.prpOf (s : State) (p : Nat) : Option Nat := if p < 4 ∧ s.bit (Reg.MAC_PRP (p / 2)) 0 then some (p / 2 * 2) else none

/-- The maximum length L of a frame on port p (R104); `tagged` says that its bytes 12 and 13 are 0x8100. -/
def State.maxLen (s : State) (p : Nat) (tagged : Bool) : Nat :=
  (if s.bit (Reg.MAC_MAXLEN p) 16 then s.fld (Reg.MAC_MAXLEN p) 0 14 else if tagged then 1522 else 1518) +
    (if (s.prpOf p).isSome then 6 else 0)

/-- Bit times of 512 bits in units of 2⁻¹⁶ ns, t of them (R109): 51.2 ns on P0 to P3, 512 ns on P4 and P5. -/
def quanta (p t : Nat) : Nat := if p < 4 then t * 512 * subPerNs / 10 else t * 512 * subPerNs

/-! ### Host sends under way (R114, R116) -/

/-- A copy of a segment has been transmitted or dropped: the send completes when none is left, and reports the segments of
which every copy was dropped. -/
def State.jobStep (s : State) (job : Option (Nat × Nat)) (lost : Bool) : State :=
  match job with
  | none => s
  | some (mid, seg) =>
    match s.hif.jobs.find? fun j => j.mid == mid with
    | none => s
    | some j =>
      let j1 : SendJob := { j with left := j.left - 1, lost := if lost then j.lost ++ [seg] else j.lost }
      if j1.left = 0 then
        let gone := (j1.lost.eraseDups.filter fun x => j1.lost.count x == (if j1.two.contains x then 2 else 1)).length
        ({ s with hif := { s.hif with jobs := s.hif.jobs.filter fun k => k.mid != mid } }).finish mid stDone
          j1.queued.length (leBytes 4 gone)
      else { s with hif := { s.hif with jobs := s.hif.jobs.map fun k => if k.mid = mid then j1 else k } }

/-- A copy of a segment has been queued. -/
def State.jobQueued (s : State) (job : Option (Nat × Nat)) : State :=
  match job with
  | none => s
  | some (mid, seg) =>
    { s with hif := { s.hif with jobs := s.hif.jobs.map fun (j : SendJob) =>
        if j.mid = mid then { j with queued := (j.queued ++ [seg]).eraseDups } else j } }

/-- A segment goes to both ports of a PRP pair: its second copy is awaited too (R114, R116). -/
def State.jobTwo (s : State) (job : Option (Nat × Nat)) : State :=
  match job with
  | none => s
  | some (mid, seg) =>
    { s with hif := { s.hif with jobs := s.hif.jobs.map fun (j : SendJob) =>
        if j.mid = mid then { j with left := j.left + 1, two := j.two ++ [seg] } else j } }

/-- A frame dropped on transmission, counted in c (R102, R111 to R113). -/
def State.txDrop (s : State) (p c : Nat) (f : TxFrame) : State :=
  ((s.macCountBy p c 1).event (Reg.MAC_EVT p) 2).jobStep f.job true

/-! ### Queues and the wire (R110 to R113) -/

/-- A frame as it goes on the wire of port p: a one-step Pdelay_Resp takes its turn-round from the corrected transmit stamp (R87, R88). -/
def State.frameBegun (s : State) (p : Nat) (f : TxFrame) : TxFrame :=
  match f.body with
  | .ptp m => { f with body := .ptp (m.begun ((s.dt : Int) + s.sreg (Reg.TB_EGR p))) }
  | .raw _ => f

/-- The port starts the next queued frame (R110, R111): strict priority, the wire free, TX_EN 1, and no paused queue. DESIGN CHOICE (log
entry 118): RX_PAUSE_EN written 0 while a pause interval runs leaves the interval to run on. -/
def State.txStart (s : State) (p : Nat) : State :=
  let x := s.port p
  if x.wire.isSome ∨ x.link ≠ .up ∨ !s.macCtrl p 1 then s
  else
    let run := x.pausedUntil.isNone
    match (if run ∨ s.bit (Reg.MAC_PAUSE p) 1 then x.qAlarm else []), (if run then x.qPtp else []), (if run then x.qOut else []),
        (if run then x.qHost else []) with
    | f :: fs, _, _, _ => s.modPort p fun x => { x with wire := some (s.frameBegun p f), wireFrom := s.dt, qAlarm := fs }
    | [], f :: fs, _, _ => s.modPort p fun x => { x with wire := some (s.frameBegun p f), wireFrom := s.dt, qPtp := fs }
    | [], [], f :: fs, _ => s.modPort p fun x => { x with wire := some (s.frameBegun p f), wireFrom := s.dt, qOut := fs }
    | [], [], [], f :: fs => s.modPort p fun x => { x with wire := some (s.frameBegun p f), wireFrom := s.dt, qHost := fs }
    | [], [], [], [] => s

/-- Every frame of a port: its queues, then the frame on the wire. -/
def Port.frames (x : Port) : List TxFrame := x.qAlarm ++ x.qPtp ++ x.qOut ++ x.qHost ++ x.wire.toList

/-- The bytes of a class in the transmit buffer; the frame on the wire holds its place until it has been sent. -/
def Port.bytesOf (x : Port) (c : TxClass) : Nat := ((x.frames.filter fun f => f.cls == c).map (·.len)).sum

/-- The free part of the transmit buffer that an alarm frame may use: the reserve and the shared space (R112, R113). -/
def Port.freeAll (x : Port) : Nat := 128 * 1024 - (x.frames.map (·.len)).sum

/-- The free shared space of port p (R112): alarm frames take the reserve first. -/
def State.freeShared (s : State) (p : Nat) : Nat :=
  let x := s.port p
  let rsv := s.fld (Reg.MAC_TXQ p) 0 8 * 1024
  let alarm := x.bytesOf .alarm
  (128 * 1024 - rsv) - ((x.frames.map (·.len)).sum - alarm) - (alarm - rsv)

/-- The allowance of a class in bytes (R112). -/
def State.allowance (s : State) (p : Nat) (c : TxClass) : Nat :=
  match c with
  | .ptp => s.fld (Reg.MAC_TXQ p) 8 8 * 1024
  | .out => s.fld (Reg.MAC_TXQ p) 16 8 * 1024
  | .host => s.fld (Reg.MAC_TXQ p) 24 8 * 1024
  | .alarm => 128 * 1024

/-- The drop counter of a class (R111, R112). -/
def dropCounter (c : TxClass) : Nat :=
  match c with
  | .alarm => 18 | .ptp => 19 | .out => 20 | .host => 21

/-- A frame at the end of its class's queue, with the next place in the order of enqueue. -/
def State.txPut (s : State) (p : Nat) (f : TxFrame) : State :=
  let g := { f with order := s.mac.order }
  let s1 := ({ s with mac := { s.mac with order := s.mac.order + 1 } }).modPort p fun x =>
    match f.cls with
    | .alarm => { x with qAlarm := x.qAlarm ++ [g] }
    | .ptp => { x with qPtp := x.qPtp ++ [g] }
    | .out => { x with qOut := x.qOut ++ [g] }
    | .host => { x with qHost := x.qHost ++ [g] }
  (s1.jobQueued f.job).txStart p

/-- The oldest queued frame that is no alarm frame (R113). -/
def Port.oldest (x : Port) : Option TxFrame :=
  (x.qPtp ++ x.qOut ++ x.qHost).foldl (fun (b : Option TxFrame) f =>
    match b with
    | some g => if f.order < g.order then some f else some g
    | none => some f) none

/-- One discard of R113: the oldest frame that is no alarm frame, or, when there is none, the oldest queued alarm frame. -/
def State.evictOne (s : State) (p : Nat) : State :=
  match (s.port p).oldest with
  | some f =>
    let del (l : List TxFrame) : List TxFrame := l.filter fun g => g.order != f.order
    (s.modPort p fun x => { x with qPtp := del x.qPtp, qOut := del x.qOut, qHost := del x.qHost }).txDrop p 17 f
  | none =>
    match (s.port p).qAlarm with
    | f :: fs => (s.modPort p fun x => { x with qAlarm := fs }).txDrop p 18 f
    | [] => s

/-- Discards until a frame of n bytes fits (R113). -/
def State.makeRoom : Nat → State → Nat → Nat → State
  | 0, s, _, _ => s
  | k + 1, s, p, n => if n ≤ (s.port p).freeAll then s else State.makeRoom k (s.evictOne p) p n

/-- The bytes of a frame as it goes on the wire, up to the FCS: padded to 60 bytes (R111), with the RCT of a PRP pair as its
last six bytes (R116). PRESUMED: the LSDU size of IEC 62439-3 counts what follows the last Type, the RCT included. -/
def wireBody (rct : Option (Nat × Bool)) (bytes : List Byte) : List Byte :=
  match rct with
  | none => padTo (max 60 bytes.length) bytes
  | some (seq, lanB) =>
    let b := padTo (max 54 bytes.length) bytes
    let hdr := if beAt b 12 2 = 0x8100 then 18 else 14
    b ++ beBytes 2 seq ++ beBytes 2 ((if lanB then 0xB else 0xA) * 4096 + (b.length + 6 - hdr) % 4096) ++ beBytes 2 0x88FB

/-- One copy of a frame on port p (R102, R111 to R113). -/
def State.txCopy (s : State) (p : Nat) (rct : Option (Nat × Bool)) (f : TxFrame) : State :=
  let g : TxFrame := match f.body with
    | .raw b => { f with body := .raw (wireBody rct b), len := (wireBody rct b).length + 4 }
    | .ptp _ => { f with len := max 64 f.len }
  let tagged := match f.body with
    | .raw b => beAt b 12 2 == 0x8100
    | .ptp _ => false
  if (s.port p).link ≠ .up ∨ !s.macCtrl p 1 then s.txDrop p 22 g
  else if s.maxLen p tagged < g.len then s.txDrop p (dropCounter g.cls) g
  else if g.cls = .alarm then (State.makeRoom ((s.port p).frames.length + 1) s p g.len).txPut p g
  else if (s.port p).bytesOf g.cls + g.len ≤ s.allowance p g.cls ∧ g.len ≤ s.freeShared p then s.txPut p g
  else s.txDrop p (dropCounter g.cls) g

/-- A frame offered to port p (R116): on a PRP pair every frame but a PTP frame goes to both ports, with a trailer. -/
def State.txOffer (s : State) (p : Nat) (f : TxFrame) : State :=
  match (if f.cls = .ptp then none else s.prpOf p) with
  | none => s.txCopy p none f
  | some e =>
    let seq := (s.port e).prpSeq
    let s1 := (s.modPort e fun x => { x with prpSeq := (seq + 1) % 65536 }).jobTwo f.job
    (s1.txCopy e (some (seq, false)) f).txCopy (e + 1) (some (seq, true)) f

/-- The oldest offered PTP, OUT or HOST frame reaches its port (R112); a segment of a send that has been aborted is gone
(R436). -/
def txEnqueueRow (s : State) : State :=
  match s.mac.offers with
  | [] => s
  | (p, f) :: rest =>
    let s1 := { s with mac := { s.mac with offers := rest } }
    match f.job with
    | some (mid, _) => if s1.hif.jobs.any fun j => j.mid == mid then s1.txOffer p f else s1
    | none => s1.txOffer p f

/-- The oldest offered ALARM frame reaches its port (R113). -/
def alarmEnqueueRow (s : State) : State :=
  match s.mac.alarmOffers with
  | [] => s
  | (p, f) :: rest => ({ s with mac := { s.mac with alarmOffers := rest } }).txOffer p f

/-- The pause interval of port p ends (R110). -/
def pauseExpiryRow (p : Nat) (s : State) : State :=
  match (s.port p).pausedUntil with
  | some t => ((s.advance t).modPort p fun x => { x with pausedUntil := none }).txStart p
  | none => s

/-! ### Link states (R99 to R102) -/

/-- A port that leaves UP (R102): the frame being received and every frame of the transmit side are lost. DESIGN CHOICE (log entry 127): a
pause interval under way (R110) runs on. -/
def State.linkLeaveUp (s : State) (p : Nat) (receiving : Bool) : State :=
  let x := s.port p
  let s1 := s.modPort p fun x => { x with wire := none, qAlarm := [], qPtp := [], qOut := [], qHost := [] }
  let s2 := x.frames.foldl (fun (s : State) f => s.txDrop p 22 f) s1
  if receiving then s2.rxDrop p 3 else s2

/-- The code of a link state (R100). -/
def LinkSt.code : LinkSt → Nat
  | .disabled => 0 | .down => 1 | .training => 2 | .up => 3 | .fault => 4

/-- Port p enters a link state (R101), with its logbook record (R381). -/
def State.linkTo (s : State) (p : Nat) (l : LinkSt) (receiving : Bool) : State :=
  let old := (s.port p).link
  if old = l then s
  else
    let s1 := ((s.modPort p fun x => { x with link := l, upSince := if l = .up then s.dt else x.upSince }).event (Reg.MAC_EVT p) 0).logRaise 14 (unitCode 1) 0 [p, l.code]
    let s2 := if old = .up then s1.linkLeaveUp p receiving else s1
    if l = .up then s2.txStart p else s2

/-- Whether port p is in TRAINING, UP or FAULT. -/
def State.linkBusy (s : State) (p : Nat) : Bool :=
  (s.port p).link == .training || (s.port p).link == .up || (s.port p).link == .fault

/-- SPEED_ERR or LINE_ERR has changed (R101): down while either is 1, to TRAINING with lock held when both are 0. -/
def State.linkErrCheck (s : State) (p : Nat) (receiving : Bool) : State :=
  if (s.port p).speedErr ∨ s.lineErr p then (if s.linkBusy p then s.linkTo p .down receiving else s)
  else if (s.port p).link = .down ∧ (s.port p).lock then (s.modPort p fun x => { x with anDone := false }).linkTo p .training receiving
  else s

/-- Autonegotiation of port p starts again after a write that changes LINE or AN_EN (R101): the qualification time waits for it. -/
def State.anRestart (s : State) (p : Nat) (old : Word) : State :=
  if bitsOf old.toNat 5 3 = s.fld (Reg.MAC_CTRL p) 5 3 then s else s.modPort p fun x => { x with anDone := false }

/-- A write of MAC_CTRL of port p (R99, R101, R118). -/
def macCtrlWrite (p : Nat) (v : Word) (receiving : Bool) (s : State) : State :=
  if 6 ≤ p then s
  else
    let s0 := if v.getLsbD 2 then s.clearCounters (Reg.MAC_CNT_LO p 0) 24 else s
    let errWas := s0.lineErr p
    let s1 := (s0.writeReg (Reg.MAC_CTRL p) v).anRestart p (s0.reg (Reg.MAC_CTRL p))
    if !v.getLsbD 0 then
      (s1.linkTo p .disabled receiving).modPort p fun x =>
        { x with lock := false, anDone := false, speedErr := false, hiBer := false, localFault := false, remoteFault := false }
    else
      let s2 := if (s1.port p).link = .disabled then s1.linkTo p .down receiving else s1
      let s3 := if errWas ≠ s2.lineErr p then s2.linkErrCheck p receiving else s2
      s3.txStart p

/-- Port p acquires block lock or code-group synchronisation (R101). -/
def linkLockAcquiredRow (p : Nat) (s : State) : State :=
  if 6 ≤ p ∨ (s.port p).link = .disabled then s
  else
    let s1 := s.modPort p fun x => { x with lock := true }
    if (s1.port p).link = .down then s1.linkErrCheck p false else s1

/-- Port p loses block lock or synchronisation (R99, R101). -/
def linkLockLostRow (p : Nat) (receiving : Bool) (s : State) : State :=
  if 6 ≤ p then s
  else
    let s1 := s.modPort p fun x =>
      { x with lock := false, anDone := false, speedErr := false, hiBer := false, localFault := false, remoteFault := false }
    if s1.linkBusy p then s1.linkTo p .down receiving else s1

/-- Autonegotiation completes on P4 or P5 (R101). -/
def autonegCompleteRow (p : Nat) (s : State) : State :=
  if p < 6 ∧ s.autoneg p ∧ (s.port p).link = .training then s.modPort p fun x => { x with anDone := true } else s

/-- SGMII control information (R99): SPEED_ERR shows the speed it signals. -/
def sgmiiControlRxRow (p : Nat) (slow receiving : Bool) (s : State) : State :=
  if p < 4 ∨ 6 ≤ p ∨ s.macLine p ≠ 1 ∨ !(s.port p).lock ∨ slow = (s.port p).speedErr then s
  else (s.modPort p fun x => { x with speedErr := slow }).linkErrCheck p receiving

/-- The fault condition of R100 on port p. -/
def State.linkFault (s : State) (p : Nat) : Bool :=
  (s.port p).localFault || (s.port p).remoteFault || (s.port p).hiBer

/-- The 10 ms qualification time of port p ends (R101). -/
def linkQualifiedRow (p : Nat) (s : State) : State :=
  if p < 6 ∧ (s.port p).link = .training ∧ (s.port p).lock ∧ !s.linkFault p ∧ (!s.autoneg p || (s.port p).anDone) then s.linkTo p .up false
  else s

/-- A fault condition of R100 appears on port p: P4 and P5 know only the remote fault code of 1000BASE-X with AN_EN 1. -/
def linkFaultRxRow (p : Nat) (remote hiBer receiving : Bool) (s : State) : State :=
  if 6 ≤ p ∨ (s.port p).link = .disabled then s
  else if 4 ≤ p ∧ !(remote && !hiBer && s.macLine p == 0 && s.macCtrl p 5) then s
  else
    let s1 := s.modPort p fun x =>
      if hiBer then { x with hiBer := true } else if remote then { x with remoteFault := true } else { x with localFault := true }
    if (s1.port p).link = .up then s1.linkTo p .fault receiving else s1

/-- The fault condition of port p has been absent for 10 ms (R101). DESIGN CHOICE (log entry 127): the manual gives no moment at which
LOCAL_FAULT, REMOTE_FAULT and HI_BER return to 0; they do then, when lock is lost, and when EN is 0. -/
def linkFaultClearedRow (p : Nat) (s : State) : State :=
  if 6 ≤ p then s
  else
    let s1 := s.modPort p fun x => { x with hiBer := false, localFault := false, remoteFault := false }
    if (s1.port p).link = .fault then s1.linkTo p .up false else s1

/-! ### Receiving (R103 to R110, R563) -/

/-- An entry of the address filter of port p as the address's number, first byte in [7:0], and its EN (R106). -/
def State.macDa (s : State) (p i : Nat) : Nat × Bool :=
  ((s.reg (Reg.MAC_DA_LO p i)).toNat + 2 ^ 32 * s.fld (Reg.MAC_DA_HI p i) 0 16, s.bit (Reg.MAC_DA_HI p i) 31)

/-- Check 7 (R106). -/
def State.addrPass (s : State) (p : Nat) (b : List Byte) : Bool :=
  let da := leAt b 0 6
  ((List.range 8).any fun i => s.macDa p i == (da, true)) || (da == 2 ^ 48 - 1 && s.macCtrl p 4)

/-- Check 8 (R107). -/
def State.vlanPass (s : State) (p : Nat) (b : List Byte) : Bool :=
  let t := beAt b 12 2
  let t2 := beAt b 16 2
  let vid := bitsOf (beAt b 14 2) 0 12
  if t = 0x88A8 ∨ (t = 0x8100 ∧ (t2 = 0x8100 ∨ t2 = 0x88A8)) then false
  else if s.bit (Reg.MAC_VLAN p) 0 then true
  else if t ≠ 0x8100 ∨ vid = 0 then s.bit (Reg.MAC_VLAN p) 1
  else (List.range 4).any fun i =>
    let w := if i < 2 then Reg.MAC_VID01 p else Reg.MAC_VID23 p
    s.bit (Reg.MAC_VLAN p) (2 + i) && s.fld w (16 * (i % 2)) 12 == vid && vid != 4095

/-- The valid redundancy control trailer of a frame without FCS (R115): its sequence number and LanId. PRESUMED: the size is that of
`wireBody`. DESIGN CHOICE (log entry 119): an LSDU longer than the 12-bit size can say is given modulo 4,096. -/
def rctOf (b : List Byte) : Option (Nat × Nat) :=
  let n := b.length
  let w := beAt b (n - 4) 2
  if 6 ≤ n ∧ beAt b (n - 2) 2 = 0x88FB ∧ (w / 4096 = 0xA ∨ w / 4096 = 0xB) ∧ w % 4096 = (n - (typeOff b + 2)) % 4096 then
    some (beAt b (n - 6) 2, w / 4096)
  else none

/-- The listener that matches a destination on port p (R120): the lowest-numbered of them. -/
def State.listenerAt (s : State) (p : Nat) (dst : Word) (dport : Nat) : Option Nat :=
  (List.range 16).find? fun l =>
    s.bit (Reg.BIN_LSN_CFG l) 31 && s.reg (Reg.BIN_LSN_ADDR l) == dst && s.fld (Reg.BIN_LSN_CFG l) 0 16 == dport &&
      s.bit (Reg.BIN_LSN_CFG l) (16 + p)

/-- The listener that takes a frame of port p (R120); none while intake is disabled (R145). -/
def State.listenerOf (s : State) (p : Nat) (u : Udp) : Option Nat :=
  if s.bit Reg.BIN_CTRL 0 then s.listenerAt p u.ip.dst u.dport else none

/-- A frame of port p that no unit consumes, to the host receive ring (R105). -/
def State.rxHost (s : State) (p : Nat) (b : List Byte) (at_ : Nat) : State :=
  if s.bit Reg.HIF_CTRL 4 then s.deliver ⟨s.fld Reg.HIF_CTRL 8 4, 0, b, p, [], at_, 0⟩
  else (s.count (Reg.HIF_CNT_LO 5)).event Reg.HIF_EVT 4

/-- A frame reaches check 1 of R121: it enters the intake queue of 1,024 frames or is dropped. -/
def State.intakeEnter (s : State) (f : InFrame) : State :=
  let s1 := s.count (Reg.BIN_CNT_LO 0)
  if 1024 ≤ s1.bin.intakeQ.length then (s1.count (Reg.BIN_CNT_LO 2)).event Reg.BIN_EVT 6
  else { s1 with bin := { s1.bin with intakeQ := s1.bin.intakeQ ++ [f] } }

/-- A corrected receive stamp (R88) of port p. -/
def State.rxCorrected (s : State) (p stamp : Nat) : Int := (stamp : Int) - s.sreg (Reg.TB_ING p)

/-- The consumer of an accepted frame (R105); `b` runs from the destination address to the last byte before FCS and trailer. Its stamps
are corrected with TB_ING as it stood at the first one (R88). -/
def State.rxConsume (s : State) (p : Nat) (f : WireFrame) (b : List Byte) : State :=
  let v := s.asOf f.stamp
  let at_ := (v.rxCorrected p f.endStamp).toNat
  if isPtp b ∧ ((List.range 4).any fun i => s.bit (Reg.TB_SRC_CFG i) 0 && s.bit (Reg.TB_SRC_CFG i) (6 + p)) = true then
    { s with tb := { s.tb with ptpQueue := s.tb.ptpQueue ++ [⟨p, b, f.stamp, v.rxCorrected p f.stamp⟩] } }
  else
    match (match udpOf b with
      | some u => (s.listenerOf p u).map fun l => (u, l)
      | none => none) with
    | some (u, l) => s.intakeEnter
        { listener := l, origin := p, srcIp := u.ip.src, srcPort := u.sport, payload := u.payload, csumOk := u.csumOk,
          arrival := at_, mid := none, dstIp := u.ip.dst, dstPort := u.dport, whole := b }
    | none => s.rxHost p b at_

/-- A PAUSE frame on port p (R109, R110). -/
def State.pauseRx (s : State) (p : Nat) (time_ endStamp : Nat) : State :=
  let s1 := (s.macCountBy p 7 1).event (Reg.MAC_EVT p) 4
  if s1.bit (Reg.MAC_PAUSE p) 0 then
    if time_ = 0 then (s1.modPort p fun x => { x with pausedUntil := none }).txStart p
    else s1.modPort p fun x => { x with pausedUntil := some (endStamp + quanta p time_) }
  else s1

/-- The key of a frame with a valid trailer entered in the duplicate table of the pair of even port e (R115). DESIGN CHOICE (log entry 119):
an entry older than FORGET_MS keeps its place until it is overwritten, so a table full of such entries evicts and counts. -/
def State.prpEnter (s : State) (e : Nat) (k : PrpEntry) : State :=
  let t := (s.port e).prpTable.filter fun x => !(x.src == k.src && x.seq == k.seq)
  if 2048 ≤ t.length then
    ((s.modPort e fun x => { x with prpTable := t.drop 1 ++ [k] }).macCountBy e 23 1).event (Reg.MAC_EVT e) 3
  else s.modPort e fun x => { x with prpTable := t ++ [k] }

/-- Check 9 and what follows acceptance on a PRP pair (R115): the frame without trailer, or none for a duplicate. FORGET_MS is the one in
force at the frame's start (R118). -/
def State.prpRx (s : State) (e p : Nat) (f : WireFrame) (b : List Byte) : State × Option (List Byte) :=
  match rctOf b with
  | none => (s.macCountBy p 12 1, some b)
  | some (seq, lan) =>
    let body := b.take (b.length - 6)
    let lanB := p != e
    let s1 := if (lan == 0xB) != lanB then s.macCountBy p 13 1 else s
    if isPtp body then (s1, some body)
    else
      let key := leAt b 6 6
      let dup := (s.port e).prpTable.any fun x => x.src == key && x.seq == seq && x.lanB != lanB &&
        decide (f.endStamp < x.at_ + (s.asOf f.stamp).fld (Reg.MAC_PRP (e / 2)) 16 10 * subPerMs)
      if dup then (s.rxDrop p 11, none) else (s1.prpEnter e ⟨key, seq, lanB, f.endStamp⟩, some body)

/-- A frame that has passed checks 1 to 8 (R103, R115): check 9 on a PRP pair, and what accepts it. The whole frame stands in the
receive buffer until its consumer has taken it. -/
def State.rxAccept (s : State) (p : Nat) (f : WireFrame) (b : List Byte) (n : Nat) : State :=
  let r : State × Option (List Byte) := match (s.asOf f.stamp).prpOf p with
    | some e => s.prpRx e p f b
    | none => (s, some b)
  match r.2 with
  | some body =>
    let s1 := r.1.modPort p fun x => { x with rxHeld := x.rxHeld + n }
    ((s1.macCountBy p 0 1).macCountBy p 1 n).rxConsume p f body
  | none => r.1

/-- The bytes of earlier frames that have left the receive buffer of port p (R103). -/
def State.rxDrain (s : State) (p n : Nat) : State := s.modPort p fun x => { x with rxHeld := x.rxHeld - n }

/-- A frame received whole on port p (R102, R103), from the serial input or looped. A frame is counted by the first check that drops it;
the settings are those in force at its start-frame delimiter (R118). DESIGN CHOICE (log entry 118): check 1, made at the delimiter, uses
the maximum length of the frame's own kind, tagged or not. -/
def State.rxFrame (s : State) (p : Nat) (f : WireFrame) : State :=
  let v := s.asOf f.stamp
  let n := f.bytes.length
  let b := f.bytes.take (n - 4)
  let lim := v.maxLen p (beAt b 12 2 == 0x8100)
  if (s.port p).link ≠ .up ∨ f.stamp < (s.port p).upSince then s
  else
    let s1 := s.rxDrain p f.drained
    if 65536 - (s1.port p).rxHeld < lim then s1.rxDrop p 2
    else if f.pcsErr then s1.rxDrop p 3
    else if n < 64 then s1.rxDrop p 4
    else if lim < n then s1.rxDrop p 5
    else if crc32 b ≠ leAt f.bytes (n - 4) 4 then s1.rxDrop p 6
    else if beAt b (typeOff b) 2 = 0x8808 then
      if beAt b 12 2 = 0x8808 ∧ beAt b 14 2 = 1 ∧ (slice b 0 6 = [1, 0x80, 0xC2, 0, 0, 1] ∨ leAt b 0 6 = (v.macDa p 0).1) then
        s1.pauseRx p (beAt b 16 2) f.endStamp
      else s1.rxDrop p 8
    else if !v.addrPass p b then s1.rxDrop p 9
    else if !v.vlanPass p b then s1.rxDrop p 10
    else s1.rxAccept p f b n

/-- A frame arrives at the serial input of port p (R102, R103): not received while LOOPBACK is 1, though earlier frames go on leaving the
buffer. -/
def macRxFrameRow (p : Nat) (f : WireFrame) (s : State) : State :=
  let s0 := s.advance f.endStamp
  if 6 ≤ p then s0 else if s0.macCtrl p 3 then s0.rxDrain p f.drained else s0.rxFrame p f

/-- The time that n bytes take on the wire of port p, in units of 2⁻¹⁶ ns (R99). -/
def wireTime (p n : Nat) : Nat := if p < 4 then n * 8 * subPerNs / 10 else n * 8 * subPerNs

/-- A frame looped inside the PCS of port p (R102, R118) comes in by its own receive path as it is sent: with its FCS, and with the stamps
of its start on the wire and of its end. How much of the earlier frames has left the receive buffer meanwhile is a free value: the manual
gives the consumers no rate. -/
def State.loopFrame (s : State) (p : Nat) (f : TxFrame) : State :=
  let b := f.body.bytes ++ leBytes 4 (crc32 f.body.bytes)
  let from_ := (s.port p).wireFrom
  let till := from_ + wireTime p b.length
  (s.advance till).freshNext.rxFrame p
    { bytes := b, stamp := from_, endStamp := till, pcsErr := false, drained := s.freshVal % ((s.port p).rxHeld + 1) }

/-- The frame on the wire of port p is sent (R111, R113); a looped frame leaves by no pin and comes in again (R118). -/
def txFrameDoneRow (p : Nat) (s : State) : State :=
  match (s.port p).wire with
  | none => s
  | some f =>
    let s1 := s.modPort p fun x => { x with wire := none }
    let s2 := (s1.macCountBy p 14 1).macCountBy p 15 f.len
    let s3 := if f.cls = .alarm then s2.macCountBy p 16 1 else s2
    let s4 := if s.macCtrl p 3 then s3.loopFrame p f else s3.emit (.frame p f.body.bytes f.len)
    (s4.jobStep f.job false).txStart p

/-! ### Host sends (R114) -/

/-- Where the IPv4 header of a template starts. -/
def tplIp (t : List Byte) : Nat := typeOff t + 2

/-- Whether a header template is of TCP or UDP over IPv4 and holds the headers whole (R114). -/
def tplOk (t : List Byte) : Bool :=
  let o := tplIp t
  let l4 := o + 4 * bitsOf (byteAt t o) 0 4
  beAt t (typeOff t) 2 == 0x0800 && byteAt t o / 16 == 4 && 5 ≤ bitsOf (byteAt t o) 0 4 &&
    ((byteAt t (o + 9) == 17 && 42 ≤ t.length && l4 + 8 ≤ t.length) ||
      (byteAt t (o + 9) == 6 && 54 ≤ t.length && l4 + 20 ≤ t.length)) && t.length ≤ 128

/-- Bytes with some replaced from an offset. -/
def patch (b : List Byte) (off : Nat) (new : List Byte) : List Byte := b.take off ++ new ++ b.drop (off + new.length)

/-- Segment i of a host send (R114): its template adjusted, then its payload; `first` payload byte number, `last` segment. -/
def segment (t : List Byte) (i first : Nat) (last : Bool) (pl : List Byte) : List Byte :=
  let o := tplIp t
  let l4 := o + 4 * bitsOf (byteAt t o) 0 4
  let udp := byteAt t (o + 9) == 17
  let t1 := patch (patch t (o + 2) (beBytes 2 (t.length - o + pl.length))) (o + 4) (beBytes 2 ((beAt t (o + 4) 2 + i) % 65536))
  let t2 := patch t1 (o + 10) [0, 0]
  let t3 := patch t2 (o + 10) (beBytes 2 (inetCsum (slice t2 o (l4 - o))))
  let l4len := t.length - l4 + pl.length
  let pseudo := slice t (o + 12) 8 ++ beBytes 2 (byteAt t (o + 9)) ++ beBytes 2 l4len
  if udp then
    let t4 := patch t3 (l4 + 4) (beBytes 2 l4len)
    if beAt t (l4 + 6) 2 = 0 then t4 ++ pl
    else
      let t5 := patch t4 (l4 + 6) [0, 0]
      let c := inetCsum (pseudo ++ t5.drop l4 ++ pl)
      patch t5 (l4 + 6) (beBytes 2 (if c = 0 then 65535 else c)) ++ pl
  else
    let fl := byteAt t (l4 + 13)
    let fl1 := if last then fl else fl &&& 0xF6
    let fl2 := if i = 0 then fl1 else fl1 &&& 0x7F
    let t4 := patch (patch t3 (l4 + 4) (beBytes 4 ((beAt t (l4 + 4) 4 + first) % 2 ^ 32))) (l4 + 13) (leBytes 1 fl2)
    let t5 := patch t4 (l4 + 16) [0, 0]
    patch t5 (l4 + 16) (beBytes 2 (inetCsum (pseudo ++ t5.drop l4 ++ pl))) ++ pl

/-- The frames of a host send of port p, or none when it is outside the limits of R114, or when it is a MAC control frame, which the
device never sends (R108; DESIGN CHOICE, log entry 118: such a send is refused as one outside the limits). DESIGN CHOICE (log entry 118):
a segmented send with an empty payload has no segment. -/
def State.sendFrames (s : State) (p : Nat) (seg : Bool) (mss tlen : Nat) (buf : List Byte) : Option (List (List Byte)) :=
  let lim := s.maxLen p (beAt buf 12 2 == 0x8100)
  if beAt buf (typeOff buf) 2 = 0x8808 then none
  else if seg then
    let t := buf.take tlen
    let pl := buf.drop tlen
    if tlen ≤ buf.length ∧ tplOk t ∧ 60 ≤ buf.length ∧ buf.length ≤ 65536 ∧ 1 ≤ mss ∧ mss + 4 + tlen ≤ lim then
      let n := (pl.length + mss - 1) / mss
      some ((List.range n).map fun i => segment t i (i * mss) (i + 1 == n) (slice pl (i * mss) mss))
    else none
  else if 60 ≤ buf.length ∧ buf.length + 4 ≤ lim then some [buf] else none

/-- The HOST_SEND manifest (R114, R116, R433). -/
def manHostSend (n : Nat) (buf : Option (List Byte)) (s : State) : State :=
  s.runManifest n 0x0020 fun mid b s =>
    withBuf s mid buf fun data =>
      let p := bitsOf (byteAt b 20) 0 3
      match s.sendFrames p (bitOf (byteAt b 21) 0) (leAt b 22 2) (byteAt b 24) data with
      | none => s.finish0 mid stInvalidParam
      | some [] => s.finish mid stDone 0 []
      | some fs =>
        let s1 := { s with hif := { s.hif with jobs := s.hif.jobs ++ [{ mid := mid, left := fs.length }] } }
        fs.zipIdx.foldl (fun (s : State) x => s.offer p .host (.raw x.1) x.1.length (some (mid, x.2))) s1

end Sys2Proof.Machine
end

