-- ==== Sys2Proof/Machine/TimeBase.lean ====
section
/-! DEFINITION. The time base (chapter 02): source slots and their measurements (R59 to R73), DT states, source selection, slews and
steps (R74 to R83), the time-quality word (R84 to R86), leap seconds (R89 to R92). The delivery of instants is in Clock.lean. -/

namespace Sys2Proof.Machine

/-- The time base changed. -/
def State.modTb (s : State) (f : Tb → Tb) : State := { s with tb := f s.tb }
/-- Source slot i. -/
def State.src (s : State) (i : Nat) : Src := nth {} s.tb.src i
/-- Source slot i changed. -/
def State.modSrc (s : State) (i : Nat) (f : Src → Src) : State := s.modTb fun t => { t with src := t.src.modify i f }

/-- The source clock minus DT at a time (R59): the phase offset of the last measurement, carried on with the rate ratio. -/
def Src.offsetAt (x : Src) (t : Int) : Int := x.offset + ((x.ratio - 1) * ((t - x.lastMeas : Int) : Rat)).floor

/-- The source clock of slot i minus DT, now (R59). -/
def State.offsetOf (s : State) (i : Nat) : Int := (s.src i).offsetAt s.dt

/-- A time of DT in the time scale of slot i (R59). -/
def State.srcTime (s : State) (i : Nat) (t : Int) : Int := t + (s.src i).offsetAt t

/-- A source clock seen from a DT that has been moved by d: its offset to DT is smaller by d, and its last measurement keeps its
distance. A DISABLED slot keeps no clock. -/
def Src.moved (x : Src) (d : Int) : Src :=
  if x.st = .disabled then x else { x with offset := x.offset - d, lastMeas := ((x.lastMeas : Int) + d).toNat }

/-- A bit of a slot's TB_SRC_CFG. -/
def State.srcCfg (s : State) (i b : Nat) : Bool := s.bit (Reg.TB_SRC_CFG i) b

/-! ### Uncertainty and the time-quality word (R82, R84 to R86) -/

/-- TB_SRC_RESID of a slot: the largest of its last 16 residuals (R98). -/
def Src.resid (x : Src) : Nat := min (x.resids.foldl max 0) (2 ^ 32 - 1)

/-- U in ns (R82). The unremoved offset of a slew is counted in whole nanoseconds, truncated (DESIGN CHOICE: R82 gives U in ns and no
rounding of that term; log entry 113). -/
def State.unc (s : State) : Nat :=
  match s.tb.dtState with
  | .freeRun => 0xFFFFFFFF
  | .locked =>
    let x := s.src s.tb.active
    let rest := if s.tb.slewing then (s.offsetOf s.tb.active).natAbs / subPerNs else 0
    min ((s.reg (Reg.TB_SRC_INACC s.tb.active)).toNat + x.extraNs + x.resid + rest) 0xFFFFFFFF
  | _ => s.tb.holdUnc

/-- Whether the active source is traceable (R66, R70, R73). -/
def State.traceable (s : State) : Bool :=
  let a := s.tb.active
  if a < 4 then
    let x := s.src a
    match x.master with
    | some m => x.foreign.any fun f => f.sender == m && f.ann.timeTraceable
    | none => false
  else if a < 6 then s.srcCfg a 1
  else false

/-- The code of a DT state (R74). -/
def DtSt.code : DtSt → Nat
  | .freeRun => 0 | .locked => 1 | .holdover => 2 | .degraded => 3

/-- TB_STATUS (R97). -/
def State.tbStatus (s : State) : Nat :=
  let valid := (s.reg Reg.TB_LEAP_VALID_LO).toNat + 2 ^ 32 * s.fld Reg.TB_LEAP_VALID_HI 0 16
  4 * b2n s.traceable + 8 * b2n s.tb.slewing + 16 * s.tb.active + 256 * s.tb.dtState.code + 2 ^ 13 * b2n s.tb.xchkFail +
    2 ^ 14 * b2n s.tb.leapMismatch + 2 ^ 15 * b2n (decide (valid < secOf s.dt) || valid == 0)

/-- The leaps of a table: T_n, whether it is an insertion, and the leap moment M (R89). -/
def leapsOf (t : List (Nat × Int)) : List (Nat × Bool × Nat) :=
  (t.zip (t.drop 1)).map fun p =>
    let ins := p.2.2 == p.1.2 + 1
    (p.2.1, ins, if ins then p.2.1 - 1 else p.2.1)

/-- LS_PEND, LS_OCC and LS_DIR for a TAI second (R89). DESIGN CHOICE (log entry 126): of two leaps that set LS_PEND the first gives LS_DIR,
of two that set LS_OCC the last. -/
def State.leapFlags (s : State) (sec : Nat) : Bool × Bool × Bool :=
  let l := leapsOf s.tb.leap
  let pend := l.filter fun x => x.2.2 ≤ sec + 60 && sec < x.2.2
  let occ := l.filter fun x => x.1 ≤ sec && sec < x.1 + 86400
  let dir := match pend.head? with
    | some x => !x.2.1
    | none => match occ.getLast? with | some x => !x.2.1 | none => false
  (!pend.isEmpty, !occ.isEmpty, dir)

/-- MTQ (R85). -/
def mtqOf (st : DtSt) (traceable : Bool) (u : Nat) : Nat :=
  if st = .freeRun then 0xF
  else if st = .locked ∧ traceable ∧ u ≤ 1000 then 0
  else ((List.range 11).find? fun c => u ≤ 10 ^ c).elim 0xF (· + 1)

/-- PTQ (R86). -/
def ptqOf (st : DtSt) (u : Nat) : Nat :=
  if st = .freeRun then 7
  else if u < 100 then 1 else if u < 1000 then 2 else if u < 10000 then 3 else if u < 100000 then 4
  else if u < 1000000 then 5 else if u < 10000000 then 6 else 7

/-- Code of a source state (R60). -/
def SrcSt.code : SrcSt → Nat
  | .disabled => 0 | .search => 1 | .acquire => 2 | .locked => 3 | .lost => 4

/-- The time-quality word of an instant in second `sec` (R84). -/
def State.tqWord (s : State) (sec : Nat) (switched : Bool) : BitVec 16 :=
  let l := s.leapFlags sec
  let u := s.unc
  BitVec.ofNat 16 (b2n l.2.2 * 2 ^ 14 + b2n l.1 * 2 ^ 13 + b2n l.2.1 * 2 ^ 12 + b2n switched * 2 ^ 11 + b2n s.tb.stepSince * 2 ^ 10 +
    s.tb.dtState.code * 2 ^ 7 + ptqOf s.tb.dtState u * 2 ^ 4 + mtqOf s.tb.dtState s.traceable u)

/-! ### Events, DT states (R74, R77) -/

/-- A TB event of bits 0 to 4 with its TIME record (R381). -/
def State.tbEvent (s : State) (b : Nat) : State := (s.event Reg.TB_EVT b).logRaise 8 (unitCode 3) b [s.tb.dtState.code, s.tb.active]

/-- A direct raise or clear of the time base (R270). -/
def State.tbAlarm (s : State) (kind : Nat) (on : Bool) : State :=
  s.almSend { op := if on then .raise else .clear, src := 4, sub := 0, kind := kind, key := 0, sev := if kind = 2 then 2 else 1 }

/-- DT's state changes (R74, R270): STATE_CHANGE, the NOT_LOCKED and DEGRADED alarms, and the withdrawal of a pending set when the
state becomes LOCKED (R81). -/
def State.setDt (s : State) (st : DtSt) : State :=
  let old := s.tb.dtState
  if old = st then s
  else
    let s1 := (s.modTb fun t => { t with dtState := st, leftLocked := if old = .locked then some s.dt else t.leftLocked }).tbEvent 2
    let s2 := if (old = .locked) ↔ (st = .locked) then s1 else s1.tbAlarm 1 (decide (st ≠ .locked))
    let bad (x : DtSt) : Bool := x == .degraded || x == .freeRun
    let s3 := if bad old = bad st then s2 else s2.tbAlarm 2 (bad st)
    if st = .locked ∧ s3.tb.setPending.isSome then (s3.modTb fun t => { t with setPending := none }).event Reg.TB_EVT 6 else s3

/-- Whether a U makes HOLDOVER DEGRADED (R83). -/
def State.holdOver (s : State) (u : Nat) : Bool := s.tb.dtState == .holdover && decide ((s.reg Reg.TB_HOLD_LIMIT).toNat < u)

/-- HOLDOVER becomes DEGRADED as soon as U exceeds TB_HOLD_LIMIT (R83), which a write of the limit too may bring about. DESIGN CHOICE (log
entry 126): a limit raised to U or above does not bring HOLDOVER back. -/
def State.holdCheck (s : State) : State := if s.holdOver s.tb.holdUnc then s.setDt .degraded else s

/-- DT enters HOLDOVER with the U it had (R77, R82). -/
def State.enterHoldover (s : State) (u : Nat) : State :=
  ((s.modTb fun t => { t with holdUnc := u, slewing := false }).setDt .holdover).holdCheck

/-- The state of slot i set; when the active slot leaves LOCKED, DT enters HOLDOVER at once (R77). -/
def State.srcTo (s : State) (i : Nat) (st : SrcSt) : State :=
  let lost := i == s.tb.active && s.tb.dtState == .locked && (s.src i).st == .locked && st != .locked
  let s0 := if lost then s.enterHoldover s.unc else s
  s0.modSrc i fun x => { x with
    st := st, okRun := 0, badRun := 0, lockedAt := if st = .locked then some s.dt else none }

/-! ### Selection (R75, R76) -/

/-- PRIMARY and REDUNDANT with the codes of R75 resolved. -/
def State.tbNamed (s : State) : Nat × Nat :=
  let fix (c : Nat) : Nat := if c = 7 then 6 else c
  let p := fix (s.fld Reg.TB_SEL 0 3)
  let r := fix (s.fld Reg.TB_SEL 4 3)
  (p, if p = r then 6 else r)

/-- Whether a source code names a LOCKED slot. -/
def State.srcLocked (s : State) (c : Nat) : Bool := c < 6 && (s.src c).st == .locked

/-- The active source by R76 at time t. REVERT_HOLD's seconds, like every other interval of the time base, are differences of DT: a step
of DT counts in them (DESIGN CHOICE, log entry 114). -/
def State.tbSelect (s : State) (t : Nat) : Nat :=
  let (p, r) := s.tbNamed
  let best (a b : Nat) : Nat := if s.srcLocked a then a else if s.srcLocked b then b else 6
  let a := s.tb.active
  if a = r ∧ a ≠ 6 ∧ s.srcLocked r then
    let held : Bool := match (s.src p).lockedAt with
      | some x => decide (x + max (s.fld Reg.TB_SEL 20 12) 1 * subPerSec ≤ t)
      | none => false
    if s.bit Reg.TB_CTRL 3 ∧ s.srcLocked p ∧ held then p else r
  else best p r

/-! ### Steps and slews (R79, R81) -/

/-- TB_STEP_THRESH in units of 2⁻¹⁶ ns. -/
def State.stepThresh (s : State) : Nat := (s.reg Reg.TB_STEP_THRESH).toNat * subPerNs

/-- A moment of DT as a DT that has been moved by d shows it. -/
def movedBy (d : Int) (t : Nat) : Nat := ((t : Int) + d).toNat

/-- A port seen from a DT that has been moved by d: what it measures by the time that has passed keeps its distance. -/
def Port.moved (x : Port) (d : Int) : Port :=
  { x with upSince := movedBy d x.upSince, wireFrom := movedBy d x.wireFrom, pausedUntil := x.pausedUntil.map (movedBy d)
           prpTable := x.prpTable.map fun e => { e with at_ := movedBy d e.at_ } }

/-- The ports and the register writes of the last millisecond seen from a DT that has been moved by d: the manual names no clock for the
intervals of a port, and a step of DT does not count in them (DESIGN CHOICE, log entry 127). -/
def Mac.moved (m : Mac) (d : Int) : Mac :=
  { m with port := m.port.map fun x => x.moved d, past := m.past.map fun e => (movedBy d e.1, e.2) }

/-- DT stepped by Δ (R79, R81): source offsets are taken against the new DT, and without a grid the seconds that a backward step
returns to come again (R94). DESIGN CHOICE (log entry 126): with a grid, a step back to before its first second delivers none of the
instants before the grid's next one. -/
def State.dtStep (s : State) (d : Int) : State :=
  let s1 := { s with dt := movedBy d s.dt, mac := s.mac.moved d }
  let s2 := s1.modTb fun t => { t with
    src := t.src.map fun x => x.moved d, stepSince := true, slewing := false,
    lastSec := if t.grid.rate = 0 then min t.lastSec (secOf s1.dt) else t.lastSec
    lateTo := if 0 < d then s1.dt else min t.lateTo s1.dt }
  ((s2.count32 Reg.TB_STEP_COUNT).tbEvent 0).feStep

/-- Whether an offset to the active source is stepped, not slewed (R79). `was` is DT's state before the instant. -/
def State.stepsFor (s : State) (was : DtSt) : Bool :=
  decide (s.stepThresh < (s.offsetOf s.tb.active).natAbs) &&
    !(s.bit Reg.TB_CTRL 2 && (was == .locked || was == .holdover) && s.tb.everActive)

/-- Whether the slew to the active source is under way: more than 10 ns are left (R79). Its offset is taken now. -/
def State.slewNow (s : State) : State :=
  s.modTb fun t => { t with
    slewing := decide (10 * subPerNs < (s.offsetOf s.tb.active).natAbs), slewFrom := s.dt, slewOff := s.offsetOf s.tb.active }

/-- The DT before which no slew can have brought its offset within 10 ns: DT's rate departs from the source's by at most MAX_SLEW ppm
(R79). -/
def State.slewEarliest (s : State) : Nat :=
  s.tb.slewFrom + (s.tb.slewOff.natAbs - 10 * subPerNs) * 1000000 / s.fld Reg.TB_SLEW 0 9

/-- DT moved within its own rate, so that the active source's offset is r (R79). -/
def State.slewTo (s : State) (r : Int) : State :=
  let d := s.offsetOf s.tb.active - r
  s.modTb fun t => { t with src := t.src.map fun (x : Src) => if x.st = .disabled then x else { x with offset := x.offset - d } }

/-- How much of its offset a slew has left at least (R79): MAX_SLEW is the most that it removes. -/
def State.slewLeast (s : State) : Nat := s.tb.slewOff.natAbs - (s.dt - s.tb.slewFrom) * s.fld Reg.TB_SLEW 0 9 / 1000000

/-- A slew under way, seen at an instant (R79): what it has left lies between that least and what it had left before, a free value, since
the manual gives the rate of a slew as a limit. -/
def State.slewOn (s : State) : State :=
  let o := s.offsetOf s.tb.active
  let least := min s.slewLeast o.natAbs
  let left : Int := ((least + s.freshVal % (o.natAbs - least + 1) : Nat) : Int)
  let s1 := s.freshNext.slewTo (if o < 0 then -left else left)
  s1.modTb fun t => { t with slewing := decide (10 * subPerNs < left) }

/-- The remaining offset of a slew has come within 10 ns (R79), no sooner than MAX_SLEW lets it. -/
def slewingEndRow (at_ : Nat) (rest : Int) (s : State) : State :=
  if s.tb.slewing ∧ s.tb.dtState = .locked ∧ s.slewEarliest ≤ at_ then
    ((s.advance at_).slewTo (if rest.natAbs ≤ 10 * subPerNs then rest else 0)).modTb fun t => { t with slewing := false }
  else s

/-- A write of TB_SET_SEC_HI (R16, R81): both halves of the pair; with APPLY, the step Δ is fixed, or the set is refused. -/
def tbSetApplyRow (v : Word) (s : State) : State :=
  let s1 := (s.takeHeld Reg.TB_SET_SEC_LO).setReg Reg.TB_SET_SEC_HI (v &&& 0xFFFF)
  if !v.getLsbD 31 then s1
  else
    let ns := (s1.reg Reg.TB_SET_NS).toNat
    if s1.tb.dtState = .locked ∨ 1000000000 ≤ ns then s1.event Reg.TB_EVT 6
    else
      let sec := (s1.reg Reg.TB_SET_SEC_LO).toNat + 2 ^ 32 * bitsOf v.toNat 0 16
      let t := sec * subPerSec + ns * subPerNs + s1.fld Reg.TB_SET_SUBNS 0 16
      s1.modTb fun b => { b with setPending := some ((t : Int) - s1.dt) }

/-- The pending set applied (R81): DT's whole seconds are set. -/
def State.applySet (s : State) : State :=
  match s.tb.setPending with
  | some d => (s.modTb fun t => { t with setPending := none, secsSet := true }).dtStep d
  | none => s

/-- The source selection at an instant t (R76, R77, R79): the change of active source, whether one took effect, and whether a
step to it follows the instant's event. -/
def State.tbInstant (s : State) (t : Nat) : State × Bool × Bool :=
  let was := s.tb.dtState
  let a := s.tbSelect t
  let changed := a != s.tb.active
  let s0 := if changed then (s.modTb fun b => { b with active := a }) else s
  let s1 := if a = 6 then (if was = .locked then s0.enterHoldover s.unc else s0) else s0.setDt .locked
  let s2 := if changed then (s1.count32 Reg.TB_SWITCH_COUNT).tbEvent 1 else s1
  if a = 6 then (s2, changed, false)
  else
    let step := s2.stepsFor was
    let s3 := if step then s2 else if s2.tb.slewing && !changed then s2.slewOn else s2.slewNow
    (s3.modTb fun b => { b with everActive := true }, changed, step)

/-! ### Measurements (R59, R61, R80) -/

/-- The cross-check of PRIMARY and REDUNDANT (R80). -/
def State.crossCheck (s : State) : State :=
  let (p, r) := s.tbNamed
  if s.srcLocked p ∧ s.srcLocked r ∧ s.bit Reg.TB_CTRL 0 then
    let bad := decide ((s.reg Reg.TB_XCHK_LIMIT).toNat * subPerNs < (s.offsetOf p - s.offsetOf r).natAbs)
    if bad = s.tb.xchkFail then s
    else
      let s1 := (s.modTb fun t => { t with xchkFail := bad }).tbAlarm 3 bad
      if bad then (s1.tbEvent 3).unitFault 3 else s1
  else s

/-- A valid measurement of slot i: the source minus DT is m (R59, R61), from which its servo makes the new phase offset, rate ratio and
residual. `extra` is its quality term in ns. DESIGN CHOICE (log entry 126): the measurement that ends SEARCH or LOST is none of the
LOCK_COUNT. -/
def State.measure (s : State) (i : Nat) (m : Int) (extra : Nat) : State :=
  let x := s.src i
  let (off, ratio, res) := Config.servo i (s.offsetOf i) x.ratio m (s.dt - x.lastMeas)
  let thr := max (s.fld (Reg.TB_SRC_LOCK i) 16 16) 1
  let cnt := max (s.fld (Reg.TB_SRC_LOCK i) 8 8) 1
  let s1 := s.modSrc i fun x => { x with offset := off, ratio := ratio, lastMeas := s.dt, extraNs := extra, resids := (res :: x.resids).take 16 }
  let s2 := match x.st with
    | .search | .lost => s1.srcTo i .acquire
    | .acquire =>
      let run := if res ≤ thr then x.okRun + 1 else 0
      if cnt ≤ run then (s1.srcTo i .locked).modTb fun t => { t with secsSet := t.secsSet || i != 4 }
      else s1.modSrc i fun x => { x with okRun := run }
    | .locked =>
      let run := if 4 * thr < res then x.badRun + 1 else 0
      if 4 ≤ run then s1.srcTo i .acquire else s1.modSrc i fun x => { x with badRun := run }
    | .disabled => s1
  let s3 := if i = s2.tb.active ∧ s2.tb.dtState = .locked ∧ !s2.stepsFor .locked then s2.slewNow else s2
  s3.crossCheck

/-- A measurement of slot i dropped (R64, R69, R71). -/
def State.srcDrop (s : State) (i : Nat) : State := s.count32 (Reg.TB_SRC_DROP i)

/-- The comparison of a source with the leap table (R67). -/
def State.leapCompare (s : State) (mismatch : Bool) : State :=
  let s1 := if mismatch then s.event Reg.TB_EVT 5 else s
  if mismatch = s1.tb.leapMismatch then s1
  else (s1.modTb fun t => { t with leapMismatch := mismatch }).tbAlarm 4 mismatch

/-- When the announces of a foreign master have timed out (R61, R63): announceReceiptTimeout announce intervals after the last one.
PRESUMED: announceReceiptTimeout is 3, the default of IEEE 1588-2019 (R82's example has it; no register holds it). -/
def Foreign.end_ (f : Foreign) : Nat := f.last + (scale2 ((3 * subPerSec : Nat) : Rat) f.interval).floor.toNat

/-- When the loss time of slot i ends (R61): for PTP 4 Sync intervals after the last measurement or with the announces of the selected
master, whichever ends first; 2 s for 1PPS and IRIG-B. -/
def State.lossAt (s : State) (i : Nat) : Nat :=
  let x := s.src i
  if 4 ≤ i then x.lastMeas + 2 * subPerSec
  else
    let sync := x.lastMeas + (scale2 ((4 * subPerSec : Nat) : Rat) x.syncLog).floor.toNat
    (x.foreign.filter fun f => x.master == some f.sender).foldl (fun t f => min t f.end_) sync

/-- A slot's loss time passes (R61). For PTP, masters whose announces have timed out are forgotten. -/
def sourceLossRow (i at_ : Nat) (s : State) : State :=
  let x := s.src i
  if (x.st = .acquire ∨ x.st = .locked) ∧ s.lossAt i ≤ at_ then
    ((s.advance at_).srcTo i .lost).modSrc i fun x => { x with
      foreign := x.foreign.filter fun f => decide (at_ < f.end_)
      master := if x.foreign.any fun f => x.master == some f.sender && decide (at_ < f.end_) then x.master else none }
  else s

/-- A write of TB_SRC_CFG (R61, R98). DESIGN CHOICE (log entry 115): DOMAIN, SDOID and PORTS are kept on slots 4 and 5 as well, and a change of
them returns such a slot to SEARCH; a slot that leaves or returns to SEARCH forgets its clock, so TB_SRC_OFFSET and TB_SRC_RESID read 0. -/
def tbSrcCfgWriteRow (i : Nat) (v : Word) (s : State) : State :=
  if 6 ≤ i then s
  else
    let old := s.reg (Reg.TB_SRC_CFG i)
    let s1 := s.writeReg (Reg.TB_SRC_CFG i) v
    let new := s1.reg (Reg.TB_SRC_CFG i)
    if !new.getLsbD 0 then
      if old.getLsbD 0 then (s1.srcTo i .disabled).modSrc i fun _ => {} else s1
    else if !old.getLsbD 0 then s1.modSrc i fun _ => { st := .search }
    else if old.toNat / 16 ≠ new.toNat / 16 then
      (s1.srcTo i .search).modSrc i fun x => { st := .search, nextSeq := x.nextSeq, ipId := x.ipId }
    else s1

/-! ### PTP (R62 to R66) -/

/-- The slot that takes a PTP message (R62): the lowest enabled one with its domain, sdoId, port and transport. DESIGN CHOICE (log entry
126): R62 does not name the transport; a slot takes messages of its own (R63) only, and a higher one of another transport takes the
others. -/
def State.ptpSlot (s : State) (m : PtpMsg) : Option Nat :=
  (List.range 4).find? fun i =>
    s.srcCfg i 0 && s.fld (Reg.TB_SRC_CFG i) 24 8 == m.domain && s.fld (Reg.TB_SRC_CFG i) 12 12 == m.sdoId &&
      (m.port < 6 && s.srcCfg i (6 + m.port)) && s.srcCfg i 5 == m.udp4

/-- Whether a message's interval is in the range of R64: logSyncInterval and logAnnounceInterval from −7 to +4, logMinDelayReqInterval and
logMinPdelayReqInterval from −7 to +5; 0x7F in a message of the peer delay mechanism says that it gives none (PRESUMED: IEEE 1588-2019). -/
def ptpIntervalOk (m : PtpMsg) : Bool :=
  match m.kind with
  | .sync _ _ | .followUp _ | .announce _ => -7 ≤ m.logInterval && m.logInterval ≤ 4
  | .delayResp _ _ => -7 ≤ m.logInterval && m.logInterval ≤ 5
  | .pdelayReq | .pdelayResp _ _ _ | .pdelayRespFollowUp _ _ => m.logInterval == 127 || (-7 ≤ m.logInterval && m.logInterval ≤ 5)
  | .management | .signalling => true

/-- The order of the default best master clock algorithm on two foreign masters (R63; IEEE 1588-2019). -/
def betterMaster (a b : Foreign) : Bool :=
  let key (f : Foreign) : List Nat :=
    [f.ann.priority1, f.ann.clockClass, f.ann.accuracy, f.ann.variance, f.ann.priority2, f.ann.identity, f.ann.stepsRemoved, f.sender]
  decide (key a < key b)

/-- The best qualified master (two announces within the foreign master window, less than 255 steps removed). -/
def bestMaster (l : List Foreign) : Option Nat :=
  (((l.filter fun f => 2 ≤ f.count && f.ann.stepsRemoved < 255).foldl (fun (b : Option Foreign) f =>
    match b with
    | none => some f
    | some g => if betterMaster f g then some f else some g) none)).map (·.sender)

/-- An Announce message of slot i (R63, R66, R67): masters whose announces have timed out are forgotten first. -/
def State.announceRx (s : State) (i : Nat) (m : PtpMsg) (a : Announce) : State :=
  let window := (scale2 ((4 * subPerSec : Nat) : Rat) m.logInterval).floor.toNat
  let count := match (s.src i).foreign.find? fun f => f.sender == m.sender with
    | some f => if s.dt ≤ f.last + window then f.count + 1 else 1
    | none => 1
  let s1 := s.modSrc i fun x =>
    { x with foreign := (x.foreign.filter fun f => f.sender != m.sender && decide (s.dt < f.end_)) ++ [⟨m.sender, a, count, s.dt, m.logInterval⟩] }
  let best := bestMaster (s1.src i).foreign
  let s2 :=
    if best ≠ (s1.src i).master then
      let s2 := if (s1.src i).st = .locked then s1.srcTo i .acquire else s1
      s2.modSrc i fun x => { x with master := best, gotSync := false, paths := x.paths.map fun y => { y with syncPend := none } }
    else s1
  if best = some m.sender then
    let s3 := s2.modSrc i fun x => { x with extraNs := m.tlvNs }
    if a.utcValid ∧ i = s3.tb.active then s3.leapCompare (a.utcOffset != s3.leapAt (secOf s3.dt)) else s3
  else s2

/-- Whether slot i may send, and leave SEARCH (R65): with UDP4, only with a source address. -/
def State.ptpMaySend (s : State) (i : Nat) : Bool := s.srcCfg i 0 && !(s.srcCfg i 5 && s.reg (Reg.TB_SRC_IP i) == 0)

/-- What slot i keeps of port p. -/
def Src.path (x : Src) (p : Nat) : PtpPath := nth {} x.paths p

/-- What slot i keeps of port p changed. -/
def State.modPath (s : State) (i p : Nat) (f : PtpPath → PtpPath) : State := s.modSrc i fun x => { x with paths := x.paths.modify p f }

/-- A complete Sync of the selected master on port p: origin, corrections and the corrected receive stamp (R59, R63). A slot that may not
send takes no measurement and so stays in SEARCH (R65). -/
def State.syncMeasure (s : State) (i p : Nat) (t1 t2 : Int) : State :=
  let s1 := s.modPath i p fun x => { x with syncT1 := t1, syncT2 := t2 }
  if s1.ptpMaySend i then s1.measure i (t1 + ((s1.src i).path p).delay - t2) (s1.src i).extraNs else s1

/-- A multicast MAC address of R65, first byte on the wire in bits [7:0]. -/
def macOf (b : List Nat) : Nat := leNat (b.map fun n => BitVec.ofNat 8 n)

/-- The source MAC address of port p: MAC_DA_0 (R65, R106). -/
def State.stationMac (s : State) (p : Nat) : Nat := (s.reg (Reg.MAC_DA_LO p 0)).toNat + 2 ^ 32 * s.fld (Reg.MAC_DA_HI p 0) 0 16

/-- The PTP message that slot i sends on port p (R65). -/
def State.ptpTx (s : State) (i p : Nat) (kind : PtpTxKind) (seq requester : Nat) (time correction : Int) (turn : Option Int) : PtpTx :=
  let udp := s.srcCfg i 5
  let peer := kind != .delayReq
  let uni := !peer && s.bit (Reg.TB_SRC_IPCFG i) 8
  let x := s.src i
  { slot := i, port := p, kind := kind, udp4 := udp,
    dstMac := if uni then x.masterMac
      else if udp then (if peer then macOf [1, 0, 0x5E, 0, 0, 0x6B] else macOf [1, 0, 0x5E, 0, 1, 0x81])
      else if peer then macOf [1, 0x80, 0xC2, 0, 0, 0x0E] else macOf [1, 0x1B, 0x19, 0, 0, 0],
    srcMac := s.stationMac p,
    dstIp := if !udp then 0 else if uni then x.masterIp else if peer then 0x6B0000E0 else 0x810100E0,
    srcIp := if udp then s.reg (Reg.TB_SRC_IP i) else 0,
    ttl := if udp then (if peer then 1 else 64) else 0,
    dscp := s.fld (Reg.TB_SRC_IPCFG i) 0 6, ipId := x.ipId.toNat,
    twoStep := kind == .pdelayResp && !s.srcCfg i 3, unicast := uni,
    seq := seq, domain := s.fld (Reg.TB_SRC_CFG i) 24 8, sdoId := s.fld (Reg.TB_SRC_CFG i) 12 12,
    requester := requester, time := time, correction := correction, turn := turn }

/-- A PTP message sent by slot i on port p (R65). -/
def State.ptpSend (s : State) (i p : Nat) (kind : PtpTxKind) (seq requester : Nat) (time correction : Int) (turn : Option Int) : State :=
  let m := s.ptpTx i p kind seq requester time correction turn
  let s1 := s.offer p .ptp (.ptp m) ((if m.udp4 then 42 else 14) + ptpTxSize kind) none
  if m.udp4 then s1.modSrc i fun x => { x with ipId := x.ipId + 1 } else s1

/-- What a timestamp of whole nanoseconds leaves of a time. -/
def subNs (t : Int) : Int := t % (subPerNs : Int)

/-- A Delay_Resp of the selected master to this slot's own request (R63): the mean path delay of the delay request-response mechanism. -/
def State.delayRespRx (s : State) (i : Nat) (m : PtpMsg) (received requester : Nat) : State :=
  let x := s.src i
  match x.txPend.find? fun p => p.kind == .delayReq && p.port == m.port && p.seq == m.seq && p.stamp.isSome with
  | some p =>
    if x.master = some m.sender ∧ !s.srcCfg i 4 ∧ requester = ownIdentity i m.port then
      (s.modSrc i fun x => { x with txPend := x.txPend.filter fun q => q != p }).modPath i m.port fun y => { y with
        delay := ((y.syncT2 - y.syncT1) + ((received : Int) - m.correction - p.stamp.getD 0)) / 2 }
    else s
  | none => s

/-- A Pdelay_Req (R63, R65): answered with a response in the slot's own time scale; a one-step response carries the turn-round, which
its port fills in (R88), a two-step one the part of its receipt time below a nanosecond. -/
def State.pdelayReqRx (s : State) (i : Nat) (m : PtpMsg) : State :=
  let t := s.srcTime i m.rx
  if s.ptpMaySend i ∧ s.srcCfg i 4 then
    if s.srcCfg i 3 then s.ptpSend i m.port .pdelayResp m.seq m.sender t m.correction (some m.rx)
    else (s.ptpSend i m.port .pdelayResp m.seq m.sender t (-subNs t) none).modSrc i fun x =>
      { x with txPend := x.txPend ++ [⟨.pdelayResp, m.port, m.seq, m.sender, m.correction, none⟩] }
  else s

/-- A Pdelay_Resp to this slot's own request (R63): one-step, the path delay; two-step, what its follow-up needs. -/
def State.pdelayRespRx (s : State) (i : Nat) (m : PtpMsg) (two : Bool) (received requester : Nat) : State :=
  match (s.src i).txPend.find? fun p => p.kind == .pdelayReq && p.port == m.port && p.seq == m.seq && p.stamp.isSome with
  | some p =>
    if requester = ownIdentity i m.port then
      let turn : Int := m.rx - p.stamp.getD 0 - m.correction
      let s1 := s.modSrc i fun x => { x with txPend := x.txPend.filter fun q => q != p }
      if two then s1.modPath i m.port fun y => { y with respPend := some ⟨m.seq, m.port, m.sender, turn, (received : Int)⟩ }
      else s1.modPath i m.port fun y => { y with delay := turn / 2 }
    else s
  | none => s

/-- The follow-up of a two-step Pdelay_Resp (R63): from the same sender, on the same port, to the same request. -/
def State.pdelayFollowRx (s : State) (i : Nat) (m : PtpMsg) (origin requester : Nat) : State :=
  match ((s.src i).path m.port).respPend with
  | some r =>
    if r.seq = m.seq ∧ r.port = m.port ∧ r.sender = m.sender ∧ requester = ownIdentity i m.port then
      s.modPath i m.port fun y => { y with respPend := none, delay := (r.turn - ((origin : Int) - r.received) - m.correction) / 2 }
    else s
  | none => s

/-- A PTP message accepted by slot i, by its kind (R63, R65, R123). -/
def State.ptpAct (s : State) (i : Nat) (m : PtpMsg) : State :=
  let x := s.src i
  let mine := x.master == some m.sender
  match m.kind with
  | .announce a => s.announceRx i m a
  | .sync two origin =>
    if mine then
      let s1 := s.modSrc i fun x => { x with masterIp := m.srcIp, masterMac := m.srcMac, gotSync := true, syncLog := m.logInterval }
      if two then s1.modPath i m.port fun y => { y with syncPend := some (m.seq, m.rx, m.correction) }
      else s1.syncMeasure i m.port ((origin : Int) + m.correction) m.rx
    else s
  | .followUp origin =>
    match (x.path m.port).syncPend with
    | some (q, rx, c) =>
      if mine ∧ q = m.seq then (s.modPath i m.port fun y => { y with syncPend := none }).syncMeasure i m.port ((origin : Int) + c + m.correction) rx else s
    | none => s
  | .delayResp received requester => s.delayRespRx i m received requester
  | .pdelayReq => s.pdelayReqRx i m
  | .pdelayResp two received requester => s.pdelayRespRx i m two received requester
  | .pdelayRespFollowUp origin requester => s.pdelayFollowRx i m origin requester
  | .management | .signalling =>
    s.deliver ⟨s.fld Reg.BIN_CTRL 2 4, 2, m.bytes, m.port + 2 ^ 8 * i, [], m.rx.toNat, 0⟩

/-- The oldest frame of port p on its way to the time base is taken (R62). -/
def State.ptpTaken (s : State) (p : Nat) : State := s.modTb fun t => { t with ptpQueue := t.ptpQueue.eraseP fun q => q.port == p }

/-- The message in the oldest frame of port p on its way to the time base (R62). -/
def State.ptpHead (s : State) (p : Nat) : Option PtpMsg := (s.tb.ptpQueue.find? fun q => q.port == p).bind ptpMsgOf

/-- Whether a message's AUTHENTICATION TLV verifies under slot i's key (R63, R64): the first 16 bytes of HMAC-SHA-256. -/
def State.ptpAuthOk (s : State) (i : Nat) (m : PtpMsg) : Bool :=
  match m.auth with
  | some (b, tag) => (hmacSha256 (s.keySlot (s.fld (Reg.TB_SRC_AUTH i) 0 6)).material b).take 16 == tag
  | none => false

/-- A message of a slot with AUTH = 1 (R64, R516, R517): dropped when its key slot does not fit, when no crypto context is free for its
verification (DESIGN CHOICE: chapter 02 names no path for an empty pool; log entry 117), or when it fails. -/
def State.ptpAuthRx (s : State) (i : Nat) (m : PtpMsg) : State :=
  if !s.slotFits (s.fld (Reg.TB_SRC_AUTH i) 0 6) 2 1 then s.keyUseErr.srcDrop i
  else match s.cryptoNow (unitCode 3) with
    | none => (s.count (Reg.KEY_CNT_LO 6)).srcDrop i
    | some s1 => if s1.ptpAuthOk i m then s1.ptpAct i m else s1.srcDrop i

/-- A PTP message reaches the time base (R62, R64): the slot that takes it, its range and authentication checks, its effect. A frame
that holds no message, or one that no slot takes, has none. -/
def ptpMessageRxRow (p : Nat) (s : State) : State :=
  let s0 := s.ptpTaken p
  match s.ptpHead p with
  | none => s0
  | some m =>
    match s0.ptpSlot m with
    | none => s0
    | some i => if !ptpIntervalOk m then s0.srcDrop i else if s0.srcCfg i 2 then s0.ptpAuthRx i m else s0.ptpAct i m

/-- A slot's message interval expires (R65): a Pdelay_Req, or a Delay_Req once a Sync of the selected master has come, on each of
its ports, each with a sequence number of its own. DESIGN CHOICE (log entry 126): a Delay_Req waits for that Sync also with
DREQ_UNICAST = 0, since the delay is measured against it. -/
def ptpEventTxRow (i : Nat) (s : State) : State :=
  let x := s.src i
  let p2p := s.srcCfg i 4
  if 4 ≤ i ∨ !s.ptpMaySend i ∨ (!p2p ∧ !x.gotSync) then s
  else
    let kind : PtpTxKind := if p2p then .pdelayReq else .delayReq
    let ports := (List.range 6).filter fun p => s.srcCfg i (6 + p)
    ports.foldl (fun (s : State) p =>
      let seq := (s.src i).nextSeq % 65536
      (s.ptpSend i p kind seq 0 0 0 none).modSrc i fun x => { x with
        nextSeq := seq + 1, txPend := (x.txPend.filter fun q => q.kind != kind || q.port != p) ++ [⟨kind, p, seq, 0, 0, none⟩] }) s

/-- The message of slot i that waits for a transmit stamp from a port (R87). -/
def State.sentWait (s : State) (port : Nat) (m : PtpSent) : Option PtpPend :=
  (s.src m.slot).txPend.find? fun p => p.port == port && p.kind == m.kind && p.seq == m.seq && p.stamp.isNone

/-- Port p returns the transmit stamp of a message (R87, R88): the follow-up of a two-step Pdelay_Resp is sent, by a slot that may send
(R65). -/
def txTimestampRow (port : Nat) (m : PtpSent) (stamp : Nat) (s : State) : State :=
  match s.sentWait port m with
  | none => s
  | some p =>
    let i := m.slot
    let t : Int := (stamp : Int) + (s.asOf stamp).sreg (Reg.TB_EGR port)
    if p.kind = .pdelayResp then
      let s1 := s.modSrc i fun x => { x with txPend := x.txPend.filter fun q => q != p }
      let o := s.srcTime i t
      if s.ptpMaySend i then s1.ptpSend i port .pdelayRespFollowUp p.seq p.requester o (p.correction + subNs o) none else s1
    else s.modSrc i fun x => { x with txPend := x.txPend.map fun q => if q = p then { q with stamp := some t } else q }

/-! ### GNSS 1PPS and IRIG-B (R68 to R73) -/

/-- The TAI second nearest to a time (R68). DESIGN CHOICE (log entry 126): of two that are equally near, the later. -/
def nearestSec (t : Int) : Int := (t + (subPerSec / 2 : Nat)) / (subPerSec : Int)

/-- An edge on PPS_IN (R68 to R70). -/
def ppsEdgeRow (rising : Bool) (stamp : Nat) (s : State) : State :=
  let s0 := (s.advance stamp).wakeIf 1
  if !s0.srcCfg 4 0 ∨ rising = s0.bit Reg.TB_SRC_AUX_4 0 then s0
  else
    let t : Int := (stamp : Int) - s0.sreg (Reg.TB_SRC_DELAY 4)
    let x := s0.src 4
    let m := nearestSec t * (subPerSec : Int) - t
    if x.st = .acquire ∨ x.st = .locked then
      let w := max (s0.fld Reg.TB_SRC_AUX_4 16 16) 1 * subPerUs
      let p := s0.srcTime 4 t
      if w < (p - nearestSec p * (subPerSec : Int)).natAbs then (s0.srcDrop 4).event Reg.TB_EVT 8 else s0.measure 4 m 0
    else if s0.tb.secsSet then s0.measure 4 m 0
    else s0

/-- Days from 1970-01-01 to the first day of a year. -/
def daysToYear (y : Nat) : Nat := (List.range (y - 1970)).foldl (fun d i =>
  let y := 1970 + i
  d + (if (y % 4 == 0 && y % 100 != 0) || y % 400 == 0 then 366 else 365)) 0

/-- The year of a UTC second. -/
def yearOf (u : Nat) : Nat :=
  let y := 1970 + u / 31556952
  if u / 86400 < daysToYear y then y - 1 else if daysToYear (y + 1) ≤ u / 86400 then y + 1 else y

/-- A UTC second as a TAI second (R91), the nearer to the reference time when two map to it, the earlier at equal distance; none when it
is skipped. -/
def State.taiOf (s : State) (u ref : Nat) : Option Nat :=
  let c := ((s.tb.leap.map fun e => ((u : Int) + e.2).toNat).eraseDups).filter fun t => s.utcOf t == (u : Int)
  let d (t : Nat) : Nat := if t * subPerSec ≤ ref then ref - t * subPerSec else t * subPerSec - ref
  c.foldl (fun (b : Option Nat) t =>
    match b with
    | none => some t
    | some x => if d t < d x ∨ (d t = d x ∧ t < x) then some t else some x) none

/-! #### The fields of an IRIG-B frame: the places of IRIG 200 and of the extensions of IEEE 1344, which the manual names and does not
restate (PRESUMED, log entry 116) -/

/-- Symbol i of a frame as a bit. -/
def irigOne (f : IrigFrame) (i : Nat) : Bool := f.symbols[i]? == some .one

/-- n symbols of a frame from i on as a number, least significant first. -/
def irigNum (f : IrigFrame) (i n : Nat) : Nat := ((List.range n).map fun j => b2n (irigOne f (i + j)) * 2 ^ j).sum

/-- The marker sequence (R71): 100 symbols, of which the reference marker and every tenth from the ninth on are markers, and no other. -/
def irigMarkersOk (f : IrigFrame) : Bool :=
  f.symbols.length == 100 && (List.range 100).all fun i => (f.symbols[i]? == some .marker) == (i == 0 || i % 10 == 9)

/-- The second. -/
def irigSecond (f : IrigFrame) : Nat := irigNum f 1 4 + 10 * irigNum f 6 3
/-- The minute. -/
def irigMinute (f : IrigFrame) : Nat := irigNum f 10 4 + 10 * irigNum f 15 3
/-- The hour. -/
def irigHour (f : IrigFrame) : Nat := irigNum f 20 4 + 10 * irigNum f 25 2
/-- The day of the year. -/
def irigDay (f : IrigFrame) : Nat := irigNum f 30 4 + 10 * irigNum f 35 4 + 100 * irigNum f 40 2
/-- The two digits of the year. -/
def irigYear2 (f : IrigFrame) : Nat := irigNum f 50 4 + 10 * irigNum f 55 4

/-- The straight binary seconds of the day. -/
def irigSbs (f : IrigFrame) : Nat := irigNum f 80 9 + 512 * irigNum f 90 8

/-- The coded offset in half hours; coded time plus offset is UTC. -/
def irigHalfHours (f : IrigFrame) : Int :=
  let h : Int := ((2 * irigNum f 65 4 + irigNum f 70 1 : Nat) : Int)
  if irigOne f 64 then -h else h

/-- The time quality code. -/
def irigQuality (f : IrigFrame) : Nat := irigNum f 71 4

/-- The parity of the extensions: an odd number of ones up to the parity bit. -/
def irigParityOk (f : IrigFrame) : Bool := ((List.range 76).filter (irigOne f)).length % 2 == 1

/-- Whether the decimal digits of the time of year are digits. -/
def irigDigitsOk (f : IrigFrame) : Bool :=
  [irigNum f 1 4, irigNum f 10 4, irigNum f 20 4, irigNum f 30 4, irigNum f 35 4].all fun d => d < 10

/-- Whether a format of B000 to B007 carries the year: B004 to B007. -/
def irigHasYear (fmt : Nat) : Bool := 4 ≤ fmt

/-- Whether a format of B000 to B007 carries the straight binary seconds: B000, B003, B004, B007. -/
def irigHasSbs (fmt : Nat) : Bool := fmt % 4 == 0 || fmt % 4 == 3

/-- The days of a year. -/
def daysInYear (y : Nat) : Nat := daysToYear (y + 1) - daysToYear y

/-- A frame of slot 5 that is no valid measurement (R71). -/
def State.irigBad (s : State) : State := (s.srcDrop 5).event Reg.TB_EVT 9

/-- The year an IRIG-B frame stands in (R72): with USE_1344 the two digits it carries, otherwise the year of DT. DESIGN CHOICE (log
entry 116): the manual gives two digits no century; the year nearest DT's is taken. -/
def State.irigYear (s : State) (f : IrigFrame) : Nat :=
  let dtYear := yearOf (s.utcOf (secOf s.dt)).toNat
  if s.bit Reg.TB_SRC_AUX_5 4 then
    let y2 := dtYear / 100 * 100 + irigYear2 f % 100
    let dist (y : Nat) : Nat := if y ≤ dtYear then dtYear - y else y - dtYear
    [y2, y2 + 100, y2 - 100].foldl (fun b y => if dist y < dist b then y else b) y2
  else dtYear

/-- Whether a field of an IRIG-B frame is out of range (R71): the time of year; what its format carries beside it; with USE_1344 the year
and a quality code of 12 or more, which R72 makes no valid measurement. -/
def State.irigRange (s : State) (f : IrigFrame) : Bool :=
  let fmt := s.fld Reg.TB_SRC_AUX_5 0 4
  let ext := s.bit Reg.TB_SRC_AUX_5 4
  !(irigDigitsOk f) || irigDay f < 1 || daysInYear (s.irigYear f) < irigDay f || 24 ≤ irigHour f || 60 ≤ irigMinute f || 61 ≤ irigSecond f ||
    ((irigHasYear fmt || ext) && !(irigNum f 50 4 < 10 && irigNum f 55 4 < 10)) || (irigHasSbs fmt && 86400 < (irigSbs f)) ||
    (ext && 12 ≤ irigQuality f)

/-- The UTC second an IRIG-B frame gives (R72, R73): its coded time, with USE_1344 plus the offset it carries. -/
def State.irigUtc (s : State) (f : IrigFrame) : Int :=
  ((daysToYear (s.irigYear f) + (irigDay f - 1)) * 86400 + irigHour f * 3600 + irigMinute f * 60 + irigSecond f : Nat) +
    (if s.bit Reg.TB_SRC_AUX_5 4 then irigHalfHours f * 1800 else 0)

/-- A complete IRIG-B frame (R71 to R73). DESIGN CHOICE (log entry 116): a frame whose UTC second no TAI second has (R91), for which chapter 02
states no consequence, is treated as one that is no valid measurement; with a reserved FORMAT, written also when the slot is already
past SEARCH, frames are ignored and not counted. -/
def irigFrameRow (f : IrigFrame) (s : State) : State :=
  let s0 := s.advance f.stamp
  let ext := s0.bit Reg.TB_SRC_AUX_5 4
  if !s0.srcCfg 5 0 ∨ 8 ≤ s0.fld Reg.TB_SRC_AUX_5 0 4 then s0
  else if !(irigMarkersOk f) ∨ s0.irigRange f = true ∨ (ext ∧ !(irigParityOk f)) then s0.irigBad
  else
    let l := s0.leapFlags (secOf s0.dt)
    let s1 := if ext ∧ s0.tb.active = 5 then
        s0.leapCompare (irigOne f 60 != l.1 || (irigOne f 60 && irigOne f 61 != l.2.2)) else s0
    match s1.taiOf (s1.irigUtc f).toNat s1.dt with
    | none => s1.irigBad
    | some t =>
      let at_ : Int := (f.stamp : Int) - s1.sreg (Reg.TB_SRC_DELAY 5)
      s1.measure 5 ((t * subPerSec : Nat) - at_) (if ext ∧ 0 < irigQuality f then 10 ^ (irigQuality f - 1) else 0)

/-! ### Leap seconds (R89, R90) -/

/-- The table of the entry registers. -/
def State.leapEntries (s : State) (n : Nat) : List (Nat × Int) :=
  (List.range n).map fun i =>
    let lo := s.reg (if i = 0 then Reg.TB_LEAP_0_LO else Reg.TB_LEAP_LO (i - 1))
    let hi := s.reg (if i = 0 then Reg.TB_LEAP_0_HI else Reg.TB_LEAP_HI (i - 1))
    (lo.toNat + 2 ^ 32 * bitsOf hi.toNat 0 16, (BitVec.ofNat 16 (hi.toNat / 2 ^ 16)).toInt)

/-- Whether a table is one that R90 accepts. -/
def leapOk (t : List (Nat × Int)) : Bool :=
  1 ≤ t.length && t.length ≤ 32 &&
    (t.zip (t.drop 1)).all fun p => p.1.1 < p.2.1 && (p.2.2 == p.1.2 + 1 || p.2.2 == p.1.2 - 1)

/-- A write of TB_LEAP_CTRL (R90). -/
def tbLeapLoadRow (v : Word) (s : State) : State :=
  let s1 := s.setReg Reg.TB_LEAP_CTRL (v &&& 0x3F)
  if !v.getLsbD 31 then s1
  else
    let t := s1.leapEntries (bitsOf v.toNat 0 6)
    if leapOk t then s1.modTb fun b => { b with leapPending := some t, leapErr := false }
    else (s1.modTb fun b => { b with leapErr := true }).event Reg.TB_EVT 7

/-- A loaded leap-second table is taken (R90). -/
def State.takeLeap (s : State) : State :=
  match s.tb.leapPending with
  | some t => s.modTb fun b => { b with leap := t, leapPending := none }
  | none => s

/-- LEAP_APPLIED at a leap moment (R89, R90). -/
def State.leapMoment (s : State) (sec : Nat) : State := if (leapsOf s.tb.leap).any fun x => x.2.2 == sec then s.tbEvent 4 else s

/-- U after one more second without an active source (R82). -/
def State.holdNext (s : State) : Nat := min (s.tb.holdUnc + s.fld Reg.TB_HOLD_RATE 0 16) 0xFFFFFFFF

/-- U grows while no source is active, and HOLDOVER becomes DEGRADED (R82, R83). -/
def State.holdGrow (s : State) : State :=
  if s.tb.dtState = .holdover ∨ s.tb.dtState = .degraded then
    (s.modTb fun b => { b with holdUnc := s.holdNext }).holdCheck
  else s

/-- What a whole TAI second of DT does in the time base (R82, R83, R89, R90): a loaded table is taken, a leap moment is told, U
grows while no source is active. -/
def State.tbSecond (s : State) (sec : Nat) : State := (s.takeLeap.leapMoment sec).holdGrow

/-! ### The 10 MHz reference (R550) -/

/-- REF10M_IN leaves its limits: with REF10M_EN the TB PLL switches to SYS_REFCLK and source 59 reports. -/
def ref10mLostRow (s : State) : State :=
  if s.tb.ref10mLost then s
  else
    let s1 := s.modTb fun t => { t with ref10mLost := true }
    if s.hw.straps.getLsbD 2 then s1.report 59 0 (unitCode 23) 0 0 else s1

/-- REF10M_IN has been within its limits for 1 s. -/
def ref10mRestoredRow (s : State) : State := s.modTb fun t => { t with ref10mLost := false }

end Sys2Proof.Machine
end

