-- ==== Sys2Proof/Machine/Intake.lean ====
section
/-! DEFINITION. Frame intake and the berth directory (R120 to R147): the checks of R121, the key and the shape, the measurement
instant, the conversion of fields, quality codes, hand-off, and the two banks of the directory with their validation. -/

namespace Sys2Proof.Machine

/-! ### The directory (R125 to R130) -/

/-- A word of a directory table; zero when not listed. -/
def tabWord (m : List (Nat × Word)) (off : Nat) : Nat := (mapGet (fun _ => (0 : Word)) m (off / 4 * 4)).toNat

/-- A stream entry (R126). -/
structure Stream where
  ip : Nat
  valid : Bool
  nblk : Nat
  lsn : Nat
  idcode : Nat
  timeBase : Nat
  mapBase : Nat
deriving DecidableEq, Repr

/-- Stream entry i of a bank. -/
def Bank.stream (b : Bank) (i : Nat) : Stream :=
  let w (k : Nat) : Nat := tabWord b.streams (32 * i + 4 * k)
  { ip := w 0, valid := bitOf (w 1) 31, nblk := bitsOf (w 1) 24 6 + 1, lsn := bitsOf (w 1) 16 4, idcode := bitsOf (w 1) 0 16,
    timeBase := bitsOf (w 2) 0 24, mapBase := bitsOf (w 3) 0 13 }

/-- The valid streams of a bank, in ascending order. -/
def Bank.validStreams (b : Bank) : List Nat :=
  (b.streams.filter fun p => p.1 % 32 == 4 && p.2.getLsbD 31).map fun p => p.1 / 32

/-- A block-map entry (R127): whether it is valid, and its berth. -/
def Bank.mapEntry (b : Bank) (i : Nat) : Bool × Nat :=
  let h := bitsOf (tabWord b.blocks (2 * i)) (16 * (i % 2)) 16
  (bitOf h 15, bitsOf h 0 13)

/-- A berth entry (R128). -/
structure BerthEnt where
  valid : Bool
  rateCode : Nat
  fmt : Nat
  fnom50 : Bool
  dgnmr : Nat
  annmr : Nat
  phnmr : Nat
  laneBase : Nat
  anBase : Nat
  dgBase : Nat
  phCurrent : Word
deriving DecidableEq, Repr

/-- Berth entry n of a bank; one past the last berth reads zero (R564). -/
def Bank.berth (b : Bank) (n : Nat) : BerthEnt :=
  let w (k : Nat) : Nat := if n < 8192 then tabWord b.berths (512 * n + 4 * k) else 0
  { valid := bitOf (w 0) 31, rateCode := bitsOf (w 1) 28 4, fmt := bitsOf (w 1) 24 4, fnom50 := bitOf (w 1) 23,
    dgnmr := bitsOf (w 1) 16 3, annmr := bitsOf (w 1) 12 4, phnmr := bitsOf (w 1) 0 6, laneBase := bitsOf (w 2) 0 17,
    anBase := bitsOf (w 3) 0 15, dgBase := bitsOf (w 3) 16 14, phCurrent := BitVec.ofNat 32 (w 4) }

/-- The valid berths of a bank, in ascending order. -/
def Bank.validBerths (b : Bank) : List Nat :=
  (b.berths.filter fun p => p.1 % 512 == 0 && p.2.getLsbD 31).map fun p => p.1 / 512

/-- PH_SCALE_n, PH_ANGLE_n, AN_SCALE_a and AN_OFFSET_a of a berth (R128). -/
def Bank.phScale (b : Bank) (n k : Nat) : Word := BitVec.ofNat 32 (tabWord b.berths (512 * n + 0x40 + 8 * k))
def Bank.phAngle (b : Bank) (n k : Nat) : Word := BitVec.ofNat 32 (tabWord b.berths (512 * n + 0x44 + 8 * k))
def Bank.anScale (b : Bank) (n k : Nat) : Word := BitVec.ofNat 32 (tabWord b.berths (512 * n + 0x140 + 8 * k))
def Bank.anOffset (b : Bank) (n k : Nat) : Word := BitVec.ofNat 32 (tabWord b.berths (512 * n + 0x144 + 8 * k))

/-- Bytes of a block in a frame (R130); that of a berth which is not valid carries STAT, FREQ and DFREQ alone. -/
def BerthEnt.blockLen (e : BerthEnt) : Nat :=
  let f := if bitOf e.fmt 3 then 4 else 2
  if e.valid then
    2 + e.phnmr * (if bitOf e.fmt 1 then 8 else 4) + 2 * f + e.annmr * (if bitOf e.fmt 2 then 4 else 2) + 2 * e.dgnmr
  else 2 + 2 * f

/-- The valid stream of a key in a bank (R125). -/
def Bank.lookup (b : Bank) (ip lsn idcode : Nat) : Option Stream :=
  (b.validStreams.map b.stream).find? fun x => x.ip == ip && x.lsn == lsn && x.idcode == idcode

/-- The bank that serves an instant (R141): STAGE from E on once E is fixed, OLD before E while it is held, else LIVE. -/
def State.bankAt (s : State) (t : Nat) : Bank :=
  match s.bin.eff with
  | some e =>
    if s.bin.pending ∧ e ≤ t then s.bin.other
    else if s.bin.oldHeld ∧ t < e then s.bin.other
    else s.bin.live
  | none => s.bin.live

/-! ### Validation (R143) -/

/-- Two sorted ranges [a, a + n) and [b, b + m) that share a member. -/
def rangesMeet (a n b m : Nat) : Bool := a < b + m && b < a + n && 0 < n && 0 < m

/-- The first element of a list with a property that may look at those before it. -/
def firstBad {α : Type} (p : List α → α → Bool) : List α → List α → Option α
  | _, [] => none
  | seen, x :: xs => if p seen x then some x else firstBad p (seen ++ [x]) xs

/-- The first fault of a bank: ERR, the entry's index and its table; `count` is BERTH_COUNT. -/
def Bank.fault (b : Bank) (count : Nat) : Option (Nat × Nat × Nat) :=
  let vs := b.validStreams
  let st (i : Nat) : Stream := b.stream i
  let ents := ((vs.flatMap fun i => (List.range (st i).nblk).map fun k => (st i).mapBase + k).mergeSort (· ≤ ·)).filterMap fun m =>
    if (b.mapEntry m).1 then some (m, (b.mapEntry m).2) else none
  let vb := b.validBerths
  let s1 (e : Nat) (p : List Nat → Nat → Bool) : Option (Nat × Nat × Nat) := (firstBad p [] vs).map fun i => (e, i, 0)
  let s2 (e : Nat) (p : List (Nat × Nat) → Nat × Nat → Bool) : Option (Nat × Nat × Nat) := (firstBad p [] ents).map fun i => (e, i.1, 1)
  let s3 (e : Nat) (p : List Nat → Nat → Bool) : Option (Nat × Nat × Nat) := (firstBad p [] vb).map fun i => (e, i, 2)
  (s1 2 fun _ i => (st i).timeBase == 0).or <|
  (s1 3 fun seen i => seen.any fun j => (st j).ip == (st i).ip && (st j).lsn == (st i).lsn && (st j).idcode == (st i).idcode).or <|
  (s1 4 fun seen i => 8192 < (st i).mapBase + (st i).nblk ||
    seen.any fun j => rangesMeet (st j).mapBase (st j).nblk (st i).mapBase (st i).nblk).or <|
  (s2 5 fun _ e => count ≤ e.2).or <|
  (s2 6 fun _ e => 8176 ≤ e.2).or <|
  (s2 7 fun _ e => !(b.berth e.2).valid).or <|
  (s2 8 fun seen e => seen.any fun x => x.2 == e.2).or <|
  (s3 9 fun _ n =>
    let x := b.berth n
    32 < x.phnmr || 8 < x.annmr || 4 < x.dgnmr || (n < 8176 && 11 < x.rateCode)).or <|
  (s3 10 fun _ n =>
    let x := b.berth n
    131072 < x.laneBase + x.phnmr || 32768 < x.anBase + x.annmr || 16384 < x.dgBase + x.dgnmr).or <|
  (s3 11 fun seen n => seen.any fun m =>
    let x := b.berth n
    let y := b.berth m
    rangesMeet x.laneBase x.phnmr y.laneBase y.phnmr || rangesMeet x.anBase x.annmr y.anBase y.annmr ||
      rangesMeet x.dgBase x.dgnmr y.dgBase y.dgnmr)

/-! ### The instant of a directory apply (R141) -/

/-- E by R141: two quay intervals after now; without a rate the first whole TAI second at least 10 ms after now. -/
def State.dirInstant (s : State) : Nat × Nat × Nat :=
  let whole := (s.dt + 10 * subPerMs + subPerSec - 1) / subPerSec
  if s.tb.grid.rate = 0 then (whole, 0, whole * subPerSec)
  else (s.instantAfter s.dt 2).getD (whole, 0, whole * subPerSec)

/-! ### Updating the directory (R140 to R142) -/

/-- The directory with some of it changed. -/
def State.modBin (s : State) (f : Bin → Bin) : State := { s with bin := f s.bin }

/-- OLD is retired when no quay with an instant before E is held unsealed (R141). -/
def State.dirRetire (s : State) : State :=
  match s.bin.eff with
  | some e =>
    if s.bin.oldHeld ∧ !(s.aln.quays.any fun q => decide (q.instant < e) && q.state != .sealed) then
      s.modBin fun b => { b with oldHeld := false, other := b.live }
    else s
  | none => s

/-- An apply takes effect when DT has reached E (R141). -/
def State.dirApplyAt (s : State) (t : Nat) : State :=
  match s.bin.eff with
  | some e =>
    if s.bin.pending ∧ e ≤ t then
      let s1 := (s.modBin fun b =>
        { b with live := b.other, other := b.live, pending := false, oldHeld := true, commitHold := false,
                 served := b.served ++ [(s.cfg.gen, e, b.other)] }).event Reg.BIN_EVT 0
      (s1.setReg Reg.BIN_DIR_GEN (s1.reg Reg.BIN_DIR_GEN + 1)).dirRetire
    else s
  | none => s

/-- E of an apply is fixed (R141): PENDING and the BIN_DIR_EFF registers. -/
def State.dirFix (s : State) (sec k t : Nat) : State :=
  ((s.modBin fun b => { b with pending := true, validating := false, dirErr := 0, eff := some t, effSec := sec, effK := k }).setReg64
    Reg.BIN_DIR_EFF_SEC_LO sec).setReg Reg.BIN_DIR_EFF_K (BitVec.ofNat 32 k)

/-- A write of BIN_DIR_CTRL (R140 to R142). -/
def dirCtrlWrite (v : Word) (s : State) : State :=
  let apply := v.getLsbD 31
  let copy := v.getLsbD 30
  if apply ∧ copy then s.event Reg.BIN_EVT 4
  else if apply then
    if s.dirBusy then (s.modBin fun b => { b with dirErr := 1 }).event Reg.BIN_EVT 4
    else s.modBin fun b => { b with validating := true }
  else if copy then
    if s.dirBusy then s.event Reg.BIN_EVT 4 else s.modBin fun b => { b with copying := true }
  else s

/-- The directory copy completes (R140). -/
def dirCopyDoneRow (s : State) : State :=
  if s.bin.copying then s.modBin fun b => { b with copying := false, other := b.live } else s

/-- A fault of the directory recorded (R143). -/
def State.dirRefuse (s : State) (f : Nat × Nat × Nat) : State :=
  ((s.modBin fun b => { b with validating := false, dirErr := f.1 }).setReg Reg.BIN_DIR_ERR_IDX
    (BitVec.ofNat 32 (f.2.1 + 2 ^ 16 * f.2.2))).event Reg.BIN_EVT 1

/-- Validation of STAGE completes (R141, R143). -/
def dirValidationDoneRow (s : State) : State :=
  if s.bin.validating then
    match s.bin.other.fault s.berthCount with
    | some f => s.dirRefuse f
    | none => let e := s.dirInstant; s.dirFix e.1 e.2.1 e.2.2
  else s

/-! ### Per-berth counters, the CFGCHG FIFO and the captured key (R137, R144, R146) -/

/-- Per-berth counter i of berth b advanced (R144). -/
def State.berthCnt (s : State) (b i : Nat) : State :=
  let k := 32 * b + 4 * i
  let v : Word := BitVec.ofNat 32 (min ((mapGet (fun _ => (0 : Word)) s.bin.cnt k).toNat + 1) (2 ^ 32 - 1))
  s.modBin fun x => { x with cnt := mapPut (fun _ => (0 : Word)) x.cnt k v }

/-- A write of BIN_CTRL (R145, R146). -/
def binCtrlWrite (v : Word) (s : State) : State :=
  let s1 := if v.getLsbD 1 then (s.clearCounters (Reg.BIN_CNT_LO 0) 17).modBin fun b => { b with cnt := [] } else s
  s1.writeReg Reg.BIN_CTRL v

/-- A read of BIN_CFGCHG_FIFO (R146). -/
def cfgchgFifoReadRow (s : State) : State :=
  match s.bin.fifo with
  | [] => { s with rdata := 0 }
  | b :: rest => { (s.modBin fun x => { x with fifo := rest }) with rdata := BitVec.ofNat 32 (2 ^ 31 + b) }

/-- A read of BIN_UNK_KEY (R146). -/
def unkKeyReadRow (s : State) : State :=
  { (s.setFld Reg.BIN_UNK_KEY 31 1 0) with rdata := s.reg Reg.BIN_UNK_KEY }

/-- A frame with an unknown key (R121, R146): the first is captured. -/
def State.unknownKey (s : State) (ip : Word) (lsn idcode : Nat) : State :=
  let s1 := (s.count (Reg.BIN_CNT_LO 10)).event Reg.BIN_EVT 5
  if s1.bit Reg.BIN_UNK_KEY 31 then s1
  else (s1.setReg Reg.BIN_UNK_IP ip).setReg Reg.BIN_UNK_KEY (BitVec.ofNat 32 (2 ^ 31 + lsn * 2 ^ 16 + idcode))

/-! ### Measurement instant and quay selection (R56, R91, R132, R133) -/

/-- A 32-bit seconds value widened against a reference (R56). -/
def widen (v ref : Nat) : Nat :=
  let w := (ref : Int) + sext 32 ((v + 2 ^ 32 - ref % 2 ^ 32) % 2 ^ 32)
  min w.toNat (2 ^ 48 - 1)

/-- A UTC second as a TAI second with a leap-second-occurred flag (R91). -/
def State.taiFlag (s : State) (u : Nat) (flag : Bool) : Option Nat :=
  let c := ((s.tb.leap.map fun e => ((u : Int) + e.2).toNat).eraseDups).filter fun t => s.utcOf t == (u : Int)
  c.foldl (fun (b : Option Nat) t =>
    match b with
    | none => some t
    | some x => some (if flag then max x t else min x t)) none

/-- The TAI second of a C37.118.2 SOC received at a time (R132 steps 1 and 2). -/
def State.socTai (s : State) (soc arrival : Nat) (flag : Bool) : Option Nat :=
  s.taiFlag (widen soc (s.utcOf (secOf arrival)).toNat) flag

/-- The instants of R133 around t on the grid that holds it (R94): the last at or before it and the first after it, with their second and
index; none after the last instant of the grid. -/
def State.around (s : State) (t : Nat) : Option ((Nat × Nat × Nat) × Option (Nat × Nat × Nat)) :=
  let sec := secOf t
  let r := s.rateAhead sec
  if r = 0 then none
  else
    let k1 := (t % subPerSec) * r / subPerSec
    let k := if k1 + 1 < r ∧ instantAt r sec (k1 + 1) ≤ t then k1 + 1 else k1
    let next :=
      if k + 1 < r then some (sec, k + 1, instantAt r sec (k + 1))
      else if s.rateAhead (sec + 1) ≠ r then none
      else some (sec + 1, 0, (sec + 1) * subPerSec)
    some ((sec, k, instantAt r sec k), next)

/-- The target of a block (R133): second, index, instant, DECIM and OFFGRID; none when it is dropped. -/
def State.blockTarget (s : State) (t rate : Nat) : Option (Nat × Nat × Bool × Bool) :=
  match s.around t with
  | none => none
  | some (a, next) =>
    let tol := s.fld Reg.BIN_SNAP_TOL 0 10 * subPerUs
    let q := s.rateAhead (secOf t)
    let da := t - a.2.2
    let near := match next with
      | some b => if da ≤ b.2.2 - t then a else b
      | none => a
    let d := if near.2.2 ≤ t then t - near.2.2 else near.2.2 - t
    if d ≤ tol then some (near.1, near.2.1, decide (q < rate), false)
    else if rate < q then next.map fun b => (b.1, b.2.1, false, true)
    else none

/-! ### Conversion (R131, R134 to R136) -/

/-- A phasor value turned by PH_ANGLE and scaled by PH_SCALE, as FP32 words; a polar value has its angle in `extra`. -/
def phasorWord (re im extra : Rat) (scale angle : Word) : Word × Word :=
  if f32Special scale ∨ f32Special angle then
    (Config.specialF32 [scale, angle, Config.roundF32 re, Config.roundF32 im], Config.specialF32 [angle, scale, Config.roundF32 im, Config.roundF32 re])
  else
    pairF32 (turnRat (re * f32Rat scale) (im * f32Rat scale) (extra + f32Rat angle))

/-- A phasor of a block from byte `o` of the frame: its words, and whether it is missing. -/
def phasorOf (fmt : Nat) (b : List Byte) (o : Nat) (scale angle : Word) : (Word × Word) × Bool :=
  let polar := bitOf fmt 0
  let go (x y : Rat) : Word × Word := if polar then phasorWord x 0 y scale angle else phasorWord x y 0 scale angle
  if bitOf fmt 1 then
    let x : Word := BitVec.ofNat 32 (beAt b o 4)
    let y : Word := BitVec.ofNat 32 (beAt b (o + 4) 4)
    if f32Special x ∨ f32Special y then ((nanWord, nanWord), true) else (go (f32Rat x) (f32Rat y), false)
  else
    let x := beAt b o 2
    let y := beAt b (o + 2) 2
    if x = 0x8000 ∧ y = 0x8000 then ((nanWord, nanWord), true)
    else
      let re : Rat := if polar then (x : Rat) else (sext 16 x : Rat)
      let im : Rat := if polar then (sext 16 y : Rat) / 10000 else (sext 16 y : Rat)
      (go re im, false)

/-- FREQ or DFREQ of a block: an integer field is `base` plus its value over `div`. -/
def rateField (isFloat : Bool) (b : List Byte) (o : Nat) (base : Rat) (div : Rat) : Word × Bool :=
  if isFloat then
    let x : Word := BitVec.ofNat 32 (beAt b o 4)
    if f32Special x then (nanWord, true) else (x, false)
  else
    let x := beAt b o 2
    if x = 0x8000 then (nanWord, true) else (toF32 (base + (sext 16 x : Rat) / div), false)

/-- An analog value of a block. -/
def analogOf (isFloat : Bool) (b : List Byte) (o : Nat) (scale offset : Word) : Word × Bool :=
  let raw : Option Rat :=
    if isFloat then
      let x : Word := BitVec.ofNat 32 (beAt b o 4)
      if f32Special x then none else some (f32Rat x)
    else if beAt b o 2 = 0x8000 then none else some (sext 16 (beAt b o 2) : Rat)
  match raw with
  | none => (nanWord, true)
  | some r =>
    (if f32Special scale ∨ f32Special offset then Config.specialF32 [scale, offset, Config.roundF32 r]
      else toF32 (r * f32Rat scale + f32Rat offset), false)

/-- QC of a fresh block by R135. -/
def State.qcOf (s : State) (stat mtq : Nat) : Nat :=
  let top := stat / 2 ^ 14
  let ptq := bitsOf stat 6 3
  if top = 3 then 4
  else if top = 2 then (if s.bit Reg.BIN_QPOL 8 then 1 else 4)
  else if top = 1 then 1
  else if bitOf stat 13 then 1
  else if bitOf stat 12 then 1
  else if bitOf stat 9 ∧ s.bit Reg.BIN_QPOL 9 then 1
  else if bitsOf stat 4 2 ≠ 0 ∧ s.bit Reg.BIN_QPOL 10 then 1
  else if 12 ≤ mtq ∨ min (s.fld Reg.BIN_QPOL 0 4) 11 < mtq then 1
  else if 1 ≤ ptq ∧ max (s.fld Reg.BIN_QPOL 4 3) 1 < ptq then 1
  else 0

/-- AGE (R136). -/
def ageOf (arrival t : Nat) : Nat := if arrival < t then 0 else if 2097120 * subPerUs < arrival - t then 0xFFFF else (arrival - t) / (32 * subPerUs)

/-- A status word (R136). -/
def statusWord (origin qc : Nat) (nan cfgchg trig decim offgrid : Bool) (mtq age stat : Nat) : DWord :=
  BitVec.ofNat 64 (2 ^ 63 + origin * 2 ^ 60 + qc * 2 ^ 56 + b2n nan * 2 ^ 55 + b2n cfgchg * 2 ^ 54 + b2n trig * 2 ^ 53 +
    b2n decim * 2 ^ 52 + mtq * 2 ^ 48 + age * 2 ^ 32 + b2n offgrid * 2 ^ 23 + stat)

/-- A block of a frame converted (R131): its entry without the status word, whether a value was missing, and its STAT. -/
def convertBlock (bank : Bank) (n : Nat) (b : List Byte) (t : Nat) : Entry × Bool × Nat :=
  let e := bank.berth n
  let pw := if bitOf e.fmt 1 then 8 else 4
  let fw := if bitOf e.fmt 3 then 4 else 2
  let aw := if bitOf e.fmt 2 then 4 else 2
  let oF := 2 + e.phnmr * pw
  let oA := oF + 2 * fw
  let oD := oA + e.annmr * aw
  let ph := (List.range e.phnmr).map fun k => phasorOf e.fmt b (2 + pw * k) (bank.phScale n k) (bank.phAngle n k)
  let fr := rateField (bitOf e.fmt 3) b oF (if e.fnom50 then 50 else 60) 1000
  let df := rateField (bitOf e.fmt 3) b (oF + fw) 0 100
  let an := (List.range e.annmr).map fun k => analogOf (bitOf e.fmt 2) b (oA + aw * k) (bank.anScale n k) (bank.anOffset n k)
  let dg := (List.range e.dgnmr).map fun k => BitVec.ofNat 16 (beAt b (oD + 2 * k) 2)
  ({ status := 0, phasors := ph.map (·.1), freq := fr.1, rocof := df.1, analogs := an.map (·.1), digitals := dg,
     laneBase := e.laneBase, anBase := e.anBase, dgBase := e.dgBase, phCurrent := e.phCurrent, fnom50 := e.fnom50, measured := t },
   ph.any (·.2) || fr.2 || df.2 || an.any (·.2), beAt b 0 2)

/-! ### Hand-off (R137, R138) -/

/-- A block with CFGCHG (R137). -/
def State.cfgchgPush (s : State) (b : Nat) : State :=
  let s1 := s.event Reg.BIN_EVT 2
  if s1.bin.fifo.contains b then s1
  else if 64 ≤ s1.bin.fifo.length then s1.event Reg.BIN_EVT 3
  else s1.modBin fun x => { x with fifo := x.fifo ++ [b] }

/-- A block enters the alignment input queue, with its counters (R138, R144). -/
def State.handOff (s : State) (d : DataBlock) (nan cfgchg offgrid : Bool) : State :=
  let s1 := (s.berthCnt d.berth 0).count (Reg.BIN_CNT_LO 16)
  let s2 := if offgrid then s1.berthCnt d.berth 1 else s1
  let s3 := if nan then s2.berthCnt d.berth 6 else s2
  let s4 := if cfgchg then (s3.berthCnt d.berth 7).cfgchgPush d.berth else s3
  { s4 with aln := { s4.aln with input := s4.aln.input ++ [d] } }

/-- One block of a frame that has passed the checks: its target by R133, its conversion, its hand-off. -/
def State.blockTake (s : State) (f : InFrame) (bank : Bank) (n : Nat) (b : List Byte) (t mtq : Nat) : State :=
  match s.blockTarget t (berthRate (bank.berth n).rateCode) with
  | none => s.berthCnt n 2
  | some (sec, k, decim, offgrid) =>
    let (e, nan, stat) := convertBlock bank n b t
    let qc := if offgrid then 2 else s.qcOf stat mtq
    let w := statusWord f.origin qc nan (bitOf stat 10) (bitOf stat 11) decim offgrid mtq (ageOf f.arrival t) stat
    s.handOff { berth := n, entry := { e with status := w }, sec := sec, k := k, rate := s.rateAhead sec, arrival := f.arrival, handedAt := s.dt }
      nan (bitOf stat 10) offgrid

/-- The blocks of a frame one after another (R127): whether one had a valid map entry. -/
def State.blocksTake (s : State) (f : InFrame) (bank : Bank) (b : List Byte) (t mtq : Nat) :
    List Nat → Nat → Bool → State × Bool
  | [], _, any => (s, any)
  | m :: ms, off, any =>
    let e := bank.mapEntry m
    let len := (bank.berth e.2).blockLen
    let s1 := if e.1 then s.blockTake f bank e.2 (slice b off len) t mtq else s.count (Reg.BIN_CNT_LO 14)
    State.blocksTake s1 f bank b t mtq ms (off + len) (any || e.1)

/-! ### The checks (R121) -/

/-- The bank and the stream of a frame, and its measurement instant (R125, R132, R141): a key is looked up in the bank that serves
the frame's own instant. Without a TAI second the bank is LIVE. -/
def State.resolve (s : State) (tai : Option Nat) (frac ip lsn idcode : Nat) : Option (Bank × Stream × Option Nat) :=
  match tai with
  | none => (s.bin.live.lookup ip lsn idcode).map fun x => (s.bin.live, x, none)
  | some sec =>
    let at_ (x : Stream) : Nat := sec * subPerSec + (if x.timeBase = 0 ∨ x.timeBase ≤ frac then 0 else frac * subPerSec / x.timeBase)
    [s.bankAt (sec * subPerSec), s.bankAt (sec * subPerSec + subPerSec - 1)].findSome? fun b =>
      match b.lookup ip lsn idcode with
      | some x => if s.bankAt (at_ x) = b then some (b, x, some (at_ x)) else none
      | none => none

/-- A frame of intake with its outcome: the code of R124. -/
def State.intakeChecks (s : State) (f : InFrame) : State × Nat :=
  let b := f.payload
  let n := b.length
  let drop (c : Nat) : State × Nat := (s.count (Reg.BIN_CNT_LO c), c)
  let typ := bitsOf (byteAt b 1) 4 3
  let size := beAt b 2 2
  let port := f.mid.isNone
  if s.tb.grid.rate = 0 then drop 3
  else if port ∧ !f.csumOk then drop 4
  else if n < 16 ∨ byteAt b 0 ≠ 0xAA ∨ 6 ≤ typ then drop 5
  else if size ≠ n ∨ size < 16 ∨ 8192 < size then drop 6
  else if crcCcitt (b.take (n - 2)) ≠ beAt b (n - 2) 2 then drop 7
  else if typ ≠ 0 then
    let s1 := s.count (Reg.BIN_CNT_LO 8)
    (if port then s1.deliver ⟨s1.fld Reg.BIN_CTRL 2 4, 1, b, f.listener + 2 ^ 8 * f.origin,
        leBytes 4 f.srcIp.toNat ++ leBytes 2 f.srcPort, f.arrival, 0⟩ else s1, 8)
  else if bitsOf (byteAt b 1) 0 4 ≠ 1 ∧ bitsOf (byteAt b 1) 0 4 ≠ 2 then drop 15
  else
    let idcode := beAt b 4 2
    let fracsec := beAt b 10 4
    let frac := bitsOf fracsec 0 24
    let tai := s.socTai (beAt b 6 4) f.arrival (bitOf fracsec 29)
    match s.resolve tai frac f.srcIp.toNat f.listener idcode with
    | none => (s.unknownKey f.srcIp f.listener idcode, 10)
    | some (bank, x, t) =>
      let maps := (List.range x.nblk).map fun k => x.mapBase + k
      if size ≠ 16 + (maps.map fun m => (bank.berth (bank.mapEntry m).2).blockLen).sum then drop 11
      else if bitOf fracsec 31 ∨ x.timeBase ≤ frac ∨ t.isNone then drop 12
      else if f.arrival + s.fld Reg.BIN_FUTURE_TOL 0 20 * subPerUs < t.getD 0 then drop 13
      else
        let (s1, any) := s.blocksTake f bank b (t.getD 0) (bitsOf fracsec 24 4) maps 14 false
        (s1, if any then 0xFF else 14)

/-- The frame of the intake queue that goes first (R139): the earliest arrival, then the lower ORIGIN, then the order of entry. -/
def firstFrame : List InFrame → Option InFrame
  | [] => none
  | f :: fs =>
    match firstFrame fs with
    | some g => if g.arrival < f.arrival ∨ (g.arrival = f.arrival ∧ g.origin < f.origin) then some g else some f
    | none => some f

/-- The listener of a frame as intake takes it: the listener registers apply from the next frame taken (R146), so a port frame is matched
with them as they stand now, and an injected frame has the listener its manifest names (R124). -/
def State.listenerNow (s : State) (f : InFrame) : Option Nat :=
  if f.mid.isSome then some f.listener else s.listenerAt f.origin f.dstIp f.dstPort

/-- Intake takes a frame from its queue (R121 to R139); the INJECT manifest that carried it completes (R124). DESIGN CHOICE (log entry 133):
a port frame that no listener matches any more goes to the host, as one that matched none (R105). -/
def intakeFrameRow (s : State) : State :=
  match firstFrame s.bin.intakeQ with
  | none => s
  | some f =>
    let s1 := s.modBin fun b => { b with intakeQ := b.intakeQ.erase f }
    match s1.listenerNow f with
    | none => s1.rxHost f.origin f.whole f.arrival
    | some l =>
      let (s2, code) := s1.intakeChecks { f with listener := l }
      match f.mid with
      | some m => s2.finish m stDone code []
      | none => s2

/-- The INJECT manifest (R124, R433). -/
def manInject (n : Nat) (buf : Option (List Byte)) (s : State) : State :=
  s.runManifest n 0x0021 fun mid b s =>
    match tsOf (slice b 28 12) with
    | none => s.finish0 mid stInvalidParam
    | some t =>
      if n ≠ s.fld Reg.BIN_CTRL 2 4 then s.finish0 mid stInvalidParam
      else withBuf s mid buf fun data =>
        if !s.bit Reg.BIN_CTRL 0 then s.finish0 mid stRefused
        else
          let full := 1024 ≤ s.bin.intakeQ.length
          let s1 := (s.count (Reg.BIN_CNT_LO 1)).intakeEnter
            { listener := bitsOf (byteAt b 20) 0 4, origin := 6, srcIp := BitVec.ofNat 32 (leAt b 24 4), srcPort := 0, payload := data,
              csumOk := true, arrival := if t = 0 then s.dt else t, mid := some mid }
          if full then s1.finish mid stDone 2 [] else s1

/-! ### The directory window (R142, R146, R564) -/

/-- Whether a byte offset of a window table lies inside it. -/
def binWinIn (tab off : Nat) : Bool := off < nth 0 [32 * 8192, 2 * 8192, 512 * 8192, 32 * 8192] tab

/-- What a read of BIN_WIN_DATA returns (R146). -/
def State.binWinWord (s : State) : Word :=
  let tab := s.fld Reg.BIN_WIN_ADDR 24 2
  let off := s.fld Reg.BIN_WIN_ADDR 0 22 / 4 * 4
  if !binWinIn tab off then 0
  else
    let m := nth [] [s.bin.other.streams, s.bin.other.blocks, s.bin.other.berths, s.bin.cnt] tab
    mapGet (fun _ => (0 : Word)) m off

/-- The offset of BIN_WIN advanced (R565). -/
def State.binWinStep (s : State) : State := s.setFld Reg.BIN_WIN_ADDR 0 22 (s.fld Reg.BIN_WIN_ADDR 0 22 + 4)

/-- A write of BIN_WIN_DATA (R142, R146, R564). -/
def binWinWrite (v : Word) (s : State) : State :=
  let tab := s.fld Reg.BIN_WIN_ADDR 24 2
  let off := s.fld Reg.BIN_WIN_ADDR 0 22 / 4 * 4
  let s1 := s.binWinStep
  if tab = 3 then s1
  else if s.dirBusy then s1.event Reg.BIN_EVT 4
  else if !binWinIn tab off ∨ (tab = 0 ∧ 32 * s.berthCount ≤ off) ∨ (tab = 2 ∧ 512 * s.berthCount ≤ off) then s1
  else
    let put (m : List (Nat × Word)) : List (Nat × Word) := mapPut (fun _ => (0 : Word)) m off v
    s1.modBin fun b => { b with other :=
      match tab with
      | 0 => { b.other with streams := put b.other.streams }
      | 1 => { b.other with blocks := put b.other.blocks }
      | _ => { b.other with berths := put b.other.berths } }

end Sys2Proof.Machine
end

