-- ==== Sys2Proof/Machine/Quay.lean ====
section
/-! DEFINITION. Quays as alignment keeps them (R148 to R152, R160 to R162, R183): entries by kind, the settings that serve a quay,
coverage, and the bytes of the quay layout. -/

namespace Sys2Proof.Machine

/-! ### Status words (R134, R136) -/

/-- PRESENT. -/
def Entry.present (e : Entry) : Bool := e.status.getLsbD 63
/-- QC. -/
def Entry.qc (e : Entry) : Nat := bitsOf e.status.toNat 56 4
/-- NAN. -/
def Entry.nan (e : Entry) : Bool := e.status.getLsbD 55
/-- HOLD_N. -/
def Entry.holdN (e : Entry) : Nat := bitsOf e.status.toNat 24 8
/-- OFFGRID. -/
def Entry.offgrid (e : Entry) : Bool := e.status.getLsbD 23

/-- A status word with one field replaced. -/
def putStatus (w : DWord) (lo n v : Nat) : DWord :=
  (w &&& ~~~(BitVec.ofNat 64 ((2 ^ n - 1) <<< lo))) ||| BitVec.ofNat 64 ((v % 2 ^ n) <<< lo)

/-- What an entry is (R160 to R162). -/
inductive EKind where
  | empty | fresh | offgrid | rateHold | subst | interp
deriving DecidableEq, Repr

/-- The kind of an entry whose berth has hold reach h (R161). -/
def Entry.kind (e : Entry) (h : Nat) : EKind :=
  if !e.present then .empty
  else if e.holdN = 0 ∧ e.offgrid then .offgrid
  else if e.holdN = 0 ∧ (e.qc = 0 ∨ e.qc = 1 ∨ e.qc = 4) then .fresh
  else if e.qc = 3 then .interp
  else if e.qc = 2 ∧ e.holdN ≤ h then .rateHold
  else .subst

/-- A fresh value with QC GOOD or SUSPECT (R161, R165, R169). -/
def Entry.freshGood (e : Entry) : Bool := e.present && e.holdN == 0 && !e.offgrid && (e.qc == 0 || e.qc == 1)

/-- A hold source (R161). -/
def Entry.holdSource (e : Entry) : Bool := e.freshGood || (e.present && e.holdN == 0 && e.offgrid)

/-! ### Quays by number and by place on their grid -/

/-- The quay of a sequence number, if it is held. -/
def State.quay? (s : State) (seq : Nat) : Option Quay := s.aln.quays.find? fun q => q.seq == seq

/-- The quay of an instant, if it is held. -/
def State.quayAt (s : State) (t : Nat) : Option Quay := s.aln.quays.find? fun q => q.instant == t

/-- The state with alignment changed. -/
def State.modAln (s : State) (f : Aln → Aln) : State := { s with aln := f s.aln }

/-- The state with one quay changed. -/
def State.modQuay (s : State) (seq : Nat) (f : Quay → Quay) : State :=
  s.modAln fun a => { a with quays := a.quays.map fun (q : Quay) => if q.seq = seq then f q else q }

/-- The state with one detector record of a quay changed. -/
def State.modDet (s : State) (seq d : Nat) (f : Det → Det) : State :=
  s.modQuay seq fun q => { q with det := q.det.modify d f }

/-- Detector record d of a quay. -/
def Quay.detOf (q : Quay) (d : Nat) : Det := nth {} q.det d

/-- The entry of a berth in a quay. -/
def Quay.entry (q : Quay) (b : Nat) : Option Entry := mapFind q.entries b

/-- The place of a quay on its grid, in quay intervals. -/
def Quay.pos (q : Quay) : Nat := q.sec * q.rate + q.k

/-- The close instant C (R157). -/
def Quay.close (q : Quay) : Nat := q.instant + q.windowMs * subPerMs

/-- Whether settlement of a quay has not begun (R153). -/
def Quay.isOpen (q : Quay) : Bool := q.state == .open_ || q.state == .provisional

/-- The quay of the same grid a number of intervals before, or after, if it is held (R161). -/
def State.quayBack (s : State) (q : Quay) (n : Nat) : Option Quay :=
  s.aln.quays.find? fun p => p.gridStart == q.gridStart && p.rate == q.rate && p.pos + n == q.pos
def State.quayFwd (s : State) (q : Quay) (n : Nat) : Option Quay :=
  s.aln.quays.find? fun p => p.gridStart == q.gridStart && p.rate == q.rate && p.pos == q.pos + n

/-! ### Settings (R183, R184, R188) -/

/-- The settings of a detector (R188). -/
structure DetCfg where
  en : Bool
  countSuspect : Bool
  countHeld : Bool
  countSubst : Bool
  evalIncomplete : Bool
  digAny : Bool
  standinMax : Nat
  quorum : Nat
  covtol : Nat
  magtol : Nat
  angtol : Nat
  ftol : Nat
  rftol : Nat
deriving DecidableEq, Repr

/-- The settings of detector d in a set. -/
def detCfg (set : CfgSet) (d : Nat) : DetCfg :=
  let w (i : Nat) : Nat := (cfgWord set 5 15 (0x100 + 0x20 * d + 4 * i)).toNat
  { en := bitOf (w 0) 0, countSuspect := bitOf (w 0) 1, countHeld := bitOf (w 0) 2, countSubst := bitOf (w 0) 3,
    evalIncomplete := bitOf (w 0) 4, digAny := bitOf (w 0) 5, standinMax := bitsOf (w 0) 8 6, quorum := bitsOf (w 0) 16 14,
    covtol := bitsOf (w 1) 0 14, magtol := bitsOf (w 2) 0 16, angtol := w 3, ftol := w 4, rftol := bitsOf (w 5) 0 16 }

/-- w_d(b) (R183). -/
def alnWeight (set : CfgSet) (d b : Nat) : Nat := cfgNum set 5 0 (16 * b + 2 * d) 2
/-- MANDATORY of b for d. -/
def alnMandatory (set : CfgSet) (d b : Nat) : Bool := bitOf (cfgByte set 5 0 (16 * b + 8)) d
/-- SUBST of b. -/
def alnSubst (set : CfgSet) (b : Nat) : Nat := cfgBits set 5 0 (16 * b + 8) 4 2
/-- MAX_HOLD of b. -/
def alnMaxHold (set : CfgSet) (b : Nat) : Nat := cfgByte set 5 0 (16 * b + 9)

/-- The set that serves a quay (R184). -/
def State.quaySet (s : State) (q : Quay) : CfgSet := s.setOf q.useGen

/-- The directory bank that serves a quay. -/
def State.quayBank (s : State) (q : Quay) : Bank := s.bankAt q.instant

/-- The banks that a signal, a branch or a breaker must fit to be observed on a quay (R213, R261): the one that serves it, and every
one that an apply has brought in before it since its set became active. -/
def State.quayBanks (s : State) (q : Quay) : List Bank :=
  s.quayBank q :: (s.bin.served.filter fun x => x.1 == q.useGen && decide (x.2.1 ≤ q.instant)).map (·.2.2)

/-- The banks that an input of the active set must fit now (R213, R261). -/
def State.liveBanks (s : State) : List Bank := s.bin.live :: (s.bin.served.filter fun x => x.1 == s.cfg.gen).map (·.2.2)

/-- The hold reach of a berth on a quay (R161); a local berth has no RATE (R129). -/
def State.holdReach (s : State) (q : Quay) (b : Nat) : Nat :=
  let r := berthRate ((s.quayBank q).berth b).rateCode
  if 8176 ≤ b ∨ r = 0 ∨ q.rate ≤ r then 0 else (q.rate + r - 1) / r - 1

/-- Whether an entry has the shape and the placement that a bank gives its berth (R161, R165, R169). -/
def Entry.fits (e : Entry) (x : BerthEnt) : Bool :=
  e.phasors.length == x.phnmr && e.analogs.length == x.annmr && e.digitals.length == x.dgnmr && e.laneBase == x.laneBase &&
    e.anBase == x.anBase && e.dgBase == x.dgBase

/-! ### Coverage (R162) -/

/-- Whether an entry counts for a detector; `settled` for SETTLE_COV. -/
def Entry.counts (e : Entry) (c : DetCfg) (h : Nat) (settled : Bool) : Bool :=
  match e.kind h with
  | .empty => false
  | .fresh => e.qc == 0 || (e.qc == 1 && c.countSuspect)
  | .rateHold | .offgrid => c.countHeld
  | .subst | .interp => c.countSubst && settled

/-- Whether berth b of a quay counts for detector d. -/
def State.berthCounts (s : State) (q : Quay) (d b : Nat) (settled : Bool) : Bool :=
  match q.entry b with
  | some e => e.counts (detCfg (s.quaySet q) d) (s.holdReach q b) settled
  | none => false

/-- W_d of a quay. -/
def State.totalWeight (s : State) (q : Quay) (d : Nat) : Nat :=
  (((s.quayBank q).validBerths).map (alnWeight (s.quaySet q) d)).sum

/-- A weight in 0.01 % of the total, truncated; 0 when the total is 0 (R151, R162). -/
def covOf (w total : Nat) : Nat := if total = 0 then 0 else 10000 * w / total

/-- The weighted coverage of d on a quay. -/
def State.coverage (s : State) (q : Quay) (d : Nat) (settled : Bool) : Nat :=
  let bs := (s.quayBank q).validBerths
  covOf ((bs.filter fun b => s.berthCounts q d b settled).map (alnWeight (s.quaySet q) d)).sum (s.totalWeight q d)

/-- Whether the quorum of d is met (R163). -/
def State.quorumMet (s : State) (q : Quay) (d : Nat) : Bool :=
  (detCfg (s.quaySet q) d).quorum ≤ s.coverage q d false &&
    ((s.quayBank q).validBerths).all fun b =>
      !(alnMandatory (s.quaySet q) d b && alnWeight (s.quaySet q) d b != 0) || s.berthCounts q d b false

/-! ### The quay layout (R148 to R152) -/

/-- The bytes of a quay. -/
def quayBytes : Nat := 1351680

/-- STATE of the header. -/
def QuaySt.code : QuaySt → Nat
  | .open_ => 1 | .provisional => 2 | .settled => 3 | .sealed => 4

/-- Bytes at an offset, those that are not zero. -/
def cellsAt (off : Nat) (bs : List Byte) : List (Nat × Byte) := (bs.zipIdx.filter fun p => p.1 != 0).map fun p => (off + p.2, p.1)

/-- The cells of a bitmap of berths (R152). -/
def bitmapCells (off : Nat) (bs : List Nat) : List (Nat × Byte) :=
  (bs.map (· / 8)).eraseDups.map fun i =>
    (off + i, BitVec.ofNat 8 (((List.range 8).filter fun j => bs.contains (8 * i + j)).map (2 ^ ·)).sum)

/-- The fixed header fields (R150). -/
def Quay.fixedCells (q : Quay) : List (Nat × Byte) :=
  let flag (f : Det → Bool) (lo : Nat) : Nat := ((List.range 4).map fun d => b2n (f (q.detOf d)) * 2 ^ (lo + d)).sum
  let st := q.state.code + 8 * b2n q.spilled + 16 * b2n q.stepped + 32 * b2n q.lateChange + 64 * b2n q.settleDone +
    128 * b2n q.guardMiss + 256 * b2n q.sealErr + flag (·.quorum) 12 + flag (·.incomplete) 16
  cellsAt 0 (leBytes 4 1 ++ leBytes 4 st ++ leBytes 8 q.seq ++ tsBytes q.instant ++ leBytes 2 q.tq.toNat ++ leBytes 1 q.k ++
    leBytes 1 q.rate ++ leBytes 2 q.windowMs ++ leBytes 2 q.sealDelay ++ leBytes 4 q.dirGen ++ leBytes 4 q.cfgGen ++
    leBytes 4 q.writeCount ++ tsBytes q.opened ++ leBytes 4 0 ++ tsBytes q.settleStart ++ leBytes 4 0 ++ tsBytes q.sealedAt ++
    leBytes 4 0 ++ leBytes 4 q.sealCrc.toNat)

/-- The record of detector d (R151). -/
def Quay.detCells (q : Quay) (d : Nat) : List (Nat × Byte) :=
  let r := q.detOf d
  cellsAt (0x100 + 64 * d) (leBytes 2 r.quorumCov ++ leBytes 2 r.settleCov ++ leBytes 4 r.snapCount ++ leBytes 2 r.outcome ++
    leBytes 2 r.chg.length ++ leBytes 2 r.chgCov ++ leBytes 2 r.maxMag ++ leBytes 4 r.maxAng ++ leBytes 4 r.maxDf ++
    leBytes 2 r.maxDrf ++ leBytes 2 (b2n r.digChg + 2 * b2n r.nanChg + 4 * b2n r.lateChange) ++ leBytes 4 0 ++
    tsBytes r.quorumAt ++ leBytes 4 0 ++ tsBytes r.settledAt)

/-- The counts of R152, in their order from 0x0200. -/
def State.quayCounts (s : State) (q : Quay) : List Nat :=
  let n (p : Nat → Entry → Bool) : Nat := (q.entries.filter fun x => p x.1 x.2).length
  let kind (b : Nat) (e : Entry) : EKind := e.kind (s.holdReach q b)
  let valid := (s.quayBank q).validBerths
  [ n fun b e => kind b e == .fresh && e.qc == 0, n fun b e => kind b e == .fresh && e.qc == 1,
    n fun b e => kind b e == .fresh && e.qc == 4, n fun b e => kind b e == .rateHold || kind b e == .offgrid,
    n fun b e => kind b e == .subst, n fun b e => kind b e == .interp, (valid.filter fun b => (q.entry b).isNone).length,
    q.lateAccepted, q.duplicate, valid.length ]

/-- The cells of a berth's entry (R148). -/
def Entry.cells (e : Entry) (b : Nat) : List (Nat × Byte) :=
  (cellsAt (0x2000 + 8 * e.laneBase) (e.phasors.flatMap fun p => leBytes 4 p.1.toNat ++ leBytes 4 p.2.toNat)) ++
  cellsAt (0x102000 + 4 * b) (leBytes 4 e.freq.toNat) ++ cellsAt (0x10A000 + 4 * b) (leBytes 4 e.rocof.toNat) ++
  cellsAt (0x112000 + 4 * e.anBase) (e.analogs.flatMap fun w => leBytes 4 w.toNat) ++
  cellsAt (0x132000 + 2 * e.dgBase) (e.digitals.flatMap fun w => leBytes 2 w.toNat) ++
  cellsAt (0x13A000 + 8 * b) (leBytes 8 e.status.toNat)

/-- The cells of a quay from 0x0100 on, by rising offset. -/
def State.quayBody (s : State) (q : Quay) : List (Nat × Byte) :=
  ((List.range 4).flatMap q.detCells ++ cellsAt 0x200 ((s.quayCounts q).flatMap (leBytes 4)) ++
    bitmapCells 0x400 ((q.entries.filter fun x => x.2.present).map (·.1)) ++ bitmapCells 0x800 q.late ++
    ((List.range 4).flatMap fun d => bitmapCells (0xC00 + 0x400 * d) (q.detOf d).chg) ++
    (q.entries.flatMap fun x => x.2.cells x.1)).mergeSort fun a b => a.1 ≤ b.1

/-- The bytes from `at_` to `end_` that cells by rising offset give. -/
def expandCells (end_ : Nat) : List (Nat × Byte) → Nat → List Byte
  | [], at_ => List.replicate (end_ - at_) 0
  | c :: cs, at_ => List.replicate (c.1 - at_) 0 ++ c.2 :: expandCells end_ cs (c.1 + 1)

/-- SEAL_CRC (R179). -/
def State.sealCrcOf (s : State) (q : Quay) : Word := BitVec.ofNat 32 (crc32c (expandCells 0x14A000 (s.quayBody q) 0x100))

/-- The cells of a list that rise strictly from `at_`, lie below `len` and are not zero: the form a region of DRAM has. -/
def risingCells (len : Nat) : List (Nat × Byte) → Nat → List (Nat × Byte)
  | [], _ => []
  | c :: cs, at_ => if at_ ≤ c.1 ∧ c.1 < len ∧ c.2 ≠ 0 then c :: risingCells len cs (c.1 + 1) else risingCells len cs at_

/-- DRAM with a region replaced by cells given by rising address. -/
def State.dramRegion (s : State) (base len : Nat) (cells : List (Nat × Byte)) : State :=
  { s with dram := (s.dram.filter fun c => c.1 < base) ++ ((risingCells len cells 0).map fun c => (base + c.1, c.2)) ++
      (s.dram.filter fun c => base + len ≤ c.1) }

/-- The ring slot of a quay (R174). -/
def State.quaySlotAt (s : State) (seq : Nat) : Nat := s.reg64 Reg.ALN_RING_BASE_LO + seq % 512 * quayBytes

/-- The ring copy of a quay written whole (R177, R178). -/
def State.quayStore (s : State) (q : Quay) : State :=
  s.dramRegion (s.quaySlotAt q.seq) quayBytes (q.fixedCells ++ s.quayBody q)

/-- A quay's lane n, as the eight bytes of the layout. -/
def Quay.lane (q : Quay) (n : Nat) : List Byte :=
  match q.entries.find? fun x => x.2.laneBase ≤ n && n < x.2.laneBase + x.2.phasors.length with
  | some x => let p := nth (0, 0) x.2.phasors (n - x.2.laneBase); leBytes 4 p.1.toNat ++ leBytes 4 p.2.toNat
  | none => List.replicate 8 0

end Sys2Proof.Machine
end

