-- ==== Sys2Proof/Machine/Align.lean ====
section
/-! DEFINITION. Alignment (R153 to R189): the opening of quays, writes into them, rate holds, quorums, snapshots and stand-ins,
changes, substitution, the outcome of each detector, late blocks, spills and seals. -/

namespace Sys2Proof.Machine

/-! ### When quays open (R154, R186, R187) -/

/-- The conditions of R154; during a whole-device test the standby runs no analysis (R496). -/
def State.alnReady (s : State) : Bool :=
  s.bit Reg.ALN_CTRL 0 && s.aln.ringSet && s.tb.grid.rate != 0 && !(s.bst.running && s.bst.mode == 1)

/-- Since when the conditions of R154 hold, kept after each change of one of them. -/
def State.alnNote (s : State) : State :=
  if s.alnReady then (if s.aln.readySince.isNone then s.modAln fun a => { a with readySince := some s.dt } else s)
  else s.modAln fun a => { a with readySince := none }

/-- Quays that are not sealed (ALN_STATUS.UNSEALED). -/
def State.unsealed (s : State) : List Quay := s.aln.quays.filter fun q => q.state != .sealed

/-- A write of ALN_CTRL (R186, R188). -/
def alnEnWriteRow (v : Word) (s : State) : State :=
  let s1 := if v.getLsbD 1 then s.clearCounters (Reg.ALN_CNT_LO 0) 26 else s
  if v.getLsbD 0 ∧ !s1.aln.ringSet then ((s1.setFld Reg.ALN_CTRL 0 1 0).event Reg.ALN_EVT 8).alnNote
  else (s1.writeReg Reg.ALN_CTRL v).alnNote

/-- Whether a write of ALN_RING_BASE is taken (R187). -/
def State.ringOpen (s : State) : Bool := !s.bit Reg.ALN_CTRL 0 && s.unsealed.isEmpty

/-- A write of ALN_RING_BASE_LO: held until HI is written (R16). -/
def alnRingBaseLoWrite (v : Word) (s : State) : State :=
  if s.ringOpen then { s with hold := mapSet s.hold Reg.ALN_RING_BASE_LO (v &&& 0xFFE00000) } else s

/-- A write of ALN_RING_BASE_HI (R187). -/
def alnRingBaseWriteRow (v : Word) (s : State) : State :=
  if !s.ringOpen then s
  else
    let lo := ((mapFind s.hold Reg.ALN_RING_BASE_LO).getD (s.reg Reg.ALN_RING_BASE_LO)).toNat
    let base := lo + 2 ^ 32 * v.toNat
    let s1 := ({ s with hold := mapDel s.hold Reg.ALN_RING_BASE_LO }).setReg64 Reg.ALN_RING_BASE_LO base
    if s1.dramFits base (512 * quayBytes) then (s1.modAln fun a => { a with ringSet := true, quays := [] }).alnNote
    else ((s1.modAln fun a => { a with ringSet := false }).event Reg.ALN_EVT 8).alnNote

/-- A write of ALN_PROBE_SEQ_HI (R188): the result stands at once. -/
def alnProbeRow (v : Word) (s : State) : State :=
  let lo := ((mapFind s.hold Reg.ALN_PROBE_SEQ_LO).getD (s.reg Reg.ALN_PROBE_SEQ_LO)).toNat
  let seq := lo + 2 ^ 32 * v.toNat
  let res := match s.quay? seq with
    | some q => q.state.code + 8 * b2n q.spilled + 16 * b2n q.settleDone + 2 ^ 8 * (q.slot.getD 0) + 2 ^ 16 * (seq % 512)
    | none => 0
  (({ s with hold := mapDel s.hold Reg.ALN_PROBE_SEQ_LO }).setReg64 Reg.ALN_PROBE_SEQ_LO seq).setReg Reg.ALN_PROBE_RES
    (BitVec.ofNat 32 (2 ^ 31 + res))

/-! ### SRAM slots, tugs and spills (R41, R42, R175 to R177, R180) -/

/-- D of group g in a set (R193, R217), at least 1. -/
def oscD (set : CfgSet) (g : Nat) : Nat := max 1 (cfgBits set 6 0 (128 * g + 1) 0 5)

/-- What the alignment unit (owner 35) may still lease of a pool of n: no more than are free, and no more than its quota leaves (R42). -/
def State.alnRoom (s : State) (pool n : Nat) : Nat := min ((List.range n).filter (s.leaseFree pool)).length (s.quota 35 pool - s.leaseHeld pool 35)

/-- The lowest-numbered instance of a pool of n that the alignment unit may lease. -/
def State.alnFree (s : State) (pool n : Nat) : Option Nat := if s.alnRoom pool n = 0 then none else (List.range n).find? (s.leaseFree pool)

/-- A tug channel back in its pool. -/
def State.tugReturn (s : State) (q : Quay) : State :=
  match q.copy with
  | some i => s.leaseReturn 2 i
  | none => s

/-- An SRAM slot back in its pool. -/
def State.slotReturn (s : State) (q : Quay) : State :=
  match q.slot with
  | some i => s.leaseReturn 0 i
  | none => s

/-- The quays whose seal copies may run: the 4 oldest resident ones, so that at most 4 copies run at once (R175) and the seal that comes
next, in the order of sequence numbers, always has its copy (R178). -/
def State.copyTurn (s : State) : List Nat := ((s.unsealed.filter fun q => q.slot.isSome).take 4).map (·.seq)

/-- Whether a quay waits for a tug: to be spilled, or for the copy of its seal when its turn has come. A quay that has left SRAM needs no
copy to be sealed, and none is made of one whose transfer has failed twice (R180). -/
def State.copyDue (s : State) (q : Quay) : Bool :=
  q.copy.isNone && (q.spilling || (q.sealing && q.slot.isSome && !q.failed && q.state != .sealed && s.copyTurn.contains q.seq))

/-- The copies that wait start, in the order of sequence numbers, each with a tug channel leased by the alignment unit (R41, R175). -/
def State.copiesStart (s : State) : State :=
  (s.aln.quays.map (·.seq)).foldl (fun (s : State) seq =>
    match s.quay? seq, s.alnFree 2 16 with
    | some q, some i => if s.copyDue q then (s.leaseTake 2 i 35).modQuay seq fun x => { x with copy := some i, retried := false } else s
    | _, _ => s) s

/-- The spill of a quay completes (R177). -/
def State.spillDone (s : State) (q : Quay) : State :=
  let s1 := ((s.modQuay q.seq fun x => { x with spilled := true, spilling := false, copy := none, slot := none }).tugReturn q).slotReturn q
  match s1.quay? q.seq with
  | some x => s1.quayStore x
  | none => s1

/-- A spill copy completes: that of the oldest quay of which one runs. -/
def quaySpillDoneRow (s : State) : State :=
  match s.aln.quays.find? fun q => q.spilling && q.copy.isSome with
  | some q => s.spillDone q
  | none => s

/-- Whether a task that runs or is pre-empted reads a quay: its own, and for a fold of the oscillation unit the D quays up to it (R175,
R193, R195). -/
def State.quayRead (s : State) (q : Quay) : Bool :=
  s.plt.tasks.any fun t => (t.2.st == .running || t.2.st == .preempted) &&
    (t.2.quayTag == q.seq % 2 ^ 32 ||
      (t.2.owner == 37 && t.2.typ == 3 && s.aln.quays.any fun p => p.seq % 2 ^ 32 == t.2.quayTag &&
        decide (q.seq ≤ p.seq) && decide (p.seq < q.seq + oscD (s.quaySet p) t.2.arg)))

/-- With fewer than 2 slots left one resident quay starts to spill (R175). -/
def State.spillCheck (s : State) : State :=
  if 2 ≤ s.alnRoom 0 32 then s
  else
    let c := s.aln.quays.filter fun q => q.slot.isSome && q.state != .sealed && !(q.sealing && q.copy.isSome) && !q.spilling && !q.failed
    match (c.filter fun q => !s.quayRead q).head?.or c.head? with
    | some q => (((s.modQuay q.seq fun x => { x with spilling := true }).count (Reg.ALN_CNT_LO 7)).event Reg.ALN_EVT 9).copiesStart
    | none => s

/-- An SRAM slot for a quay that opens: the lowest free one within the quota; when there is none, the spill under way has completed. -/
def State.takeSlot (s : State) : State × Option Nat :=
  let s1 := if s.alnRoom 0 32 = 0 then quaySpillDoneRow s else s
  match s1.alnFree 0 32 with
  | some i => (s1.leaseTake 0 i 35, some i)
  | none => (s1, none)

/-! ### Rate holds (R161) -/

/-- The rate hold that a source entry of a quay gives a later quay: HOLD_N counts whole intervals from the measurement to the quay's
instant, sec + k / rate, without the truncation of DT. -/
def rateHoldOf (e : Entry) (q : Quay) : Entry :=
  { e with status := putStatus (putStatus e.status 56 4 2) 24 8 (min ((q.pos * subPerSec - e.measured * q.rate) / subPerSec) 255) }

/-- The nearest earlier quay of the same grid that holds a hold source for a berth, within `n` intervals, when that entry is the
berth's latest: no quay between holds a MISSING block. -/
def State.holdFor (s : State) (q : Quay) (b : Nat) : Nat → Nat → Option Entry
  | 0, _ => none
  | n + 1, back =>
    match (s.quayBack q back).bind fun p => p.entry b with
    | some e => if e.holdSource then some e else if e.present ∧ e.holdN = 0 ∧ e.qc = 4 then none else s.holdFor q b n (back + 1)
    | none => s.holdFor q b n (back + 1)

/-- An entry put into a quay without the effects of a write. -/
def State.putEntry (s : State) (seq b : Nat) (e : Entry) : State := s.modQuay seq fun q => { q with entries := mapSet q.entries b e }

/-! ### Quorum (R163) -/

/-- Whether the oscillation unit and the islanding unit are enabled for a quay. -/
def State.oscEn (s : State) : Bool := s.bit Reg.OSC_CTRL 0
def State.islEn (s : State) : Bool := s.bit Reg.ISL_CTRL 0

/-- The enabled groups of which a quay is an update quay (R193, R217). -/
def State.oscDue (s : State) (q : Quay) : List Nat :=
  let set := s.quaySet q
  if !s.oscEn then []
  else (List.range 256).filter fun g =>
    cfgBits set 6 0 (128 * g) 0 1 == 1 && q.k % oscD set g == cfgBits set 6 0 (128 * g + 2) 0 5

/-- The modal engine of a group's affinity (R214). -/
def State.oscMe (s : State) (g : Nat) : Option Nat := (mapFind s.osc.groups g).bind fun x => if x.me = 31 then none else some x.me

/-- The task of a group, provisional (typ 1) or settled (typ 2), on a quay (R214). -/
def State.oscTask (s : State) (g seq typ : Nat) : TaskReq := ⟨2, 6, 37, typ, s.oscMe g, none, 0, seq % 2 ^ 32, g⟩
/-- The graph engine that ran the task of the quay before a quay, of those that have had one (R253). -/
def State.islEngine (s : State) (seq : Nat) : Option Nat := (s.isl.engines.find? fun e => decide (e.1 < seq)).bind (·.2)
/-- The islanding task on a quay, with affinity to the engine that ran the task of the quay before it (R253). -/
def State.islTask (s : State) (seq typ : Nat) : TaskReq := ⟨3, 7, 38, typ, s.islEngine seq, none, 0, seq % 2 ^ 32, 0⟩

/-- A direct raise of ALN detector d (R270); kinds 1 to 3 are conditions that a capture may wait for (R368). -/
def State.alnRaise (s : State) (d kind seq : Nat) : State :=
  let s1 := s.almSend { op := .raise, src := 3, sub := d, kind := kind, key := 0, sev := 1, quaySeq := seq }
  if kind < 4 then s1.capNotice 6 (fun _ b2 => bitsOf b2 0 2 == d && bitsOf b2 2 2 + 1 == kind) s1.dt 0 else s1

/-- The quorum flag of d is set (R163): the pilot hears of detectors 0 and 1, the alarm unit of every one. -/
def State.quorumSet (s : State) (q : Quay) (d : Nat) : State :=
  let cov := s.coverage q d false
  let s1 := (s.modDet q.seq d fun r => { r with quorum := true, quorumCov := cov, quorumAt := s.dt }).modQuay q.seq fun x =>
    { x with state := if x.state = .open_ then .provisional else x.state }
  let s2 := (s1.event Reg.ALN_EVT 0).count (Reg.ALN_CNT_LO (10 + 4 * d))
  let s3 :=
    if d = 0 then (s2.oscDue q).foldl (fun (s : State) g => s.wantTask (s.oscTask g q.seq 1)) s2
    else if d = 1 ∧ s2.islEn then s2.wantTask (s2.islTask q.seq 1)
    else s2
  s3.alnRaise d 4 q.seq

/-- Every enabled detector without its flag is tested (R163). -/
def State.quorumTest (s : State) (seq : Nat) : State :=
  (List.range 4).foldl (fun (s : State) d =>
    match s.quay? seq with
    | some q =>
      if q.isOpen ∧ !(q.detOf d).quorum ∧ (detCfg (s.quaySet q) d).en ∧ s.quorumMet q d then s.quorumSet q d else s
    | none => s) s

/-! ### Changes (R167, R168) -/

/-- What R167 finds between a value used and a new one. -/
structure Change where
  unobserved : Bool := false
  mag : Nat := 0
  ang : Nat := 0
  df : Nat := 0
  drf : Nat := 0
  dig : Bool := false
  nan : Bool := false
deriving DecidableEq, Repr

/-- The least integer whose square is at least n. -/
def ceilSqrt (n : Nat) : Nat := if Nat.sqrt n * Nat.sqrt n = n then Nat.sqrt n else Nat.sqrt n + 1

/-- Whether both parts of a phasor are finite. -/
def phFinite (p : Word × Word) : Bool := f32Finite p.1 && f32Finite p.2

/-- Relative magnitude change and angle change of two finite phasors (R167). -/
def phasorChange (o n : Word × Word) : Nat × Nat :=
  let a := f32Rat o.1; let b := f32Rat o.2; let c := f32Rat n.1; let d := f32Rat n.2
  let so := a * a + b * b
  let sn := c * c + d * d
  let m := min so sn
  let mx := max so sn
  let mag := if mx = 0 then 0 else 65536 - ceilSqrt (ceilNat (65536 * 65536 * m / mx))
  let ang :=
    if m = 0 then 0 else argUrad (c * a + d * b) (d * a - c * b)
  (min mag 65535, ang)

/-- The comparison of a new entry with a value used, none when the berth was unobserved. -/
def changeOf (old : Option Entry) (new : Entry) : Change :=
  match old with
  | none => { unobserved := true }
  | some o =>
    let ph := o.phasors.zip new.phasors
    let both := (ph.filter fun p => phFinite p.1 && phFinite p.2).map fun p => phasorChange p.1 p.2
    let one (x y : Word) : Bool := f32Finite x != f32Finite y
    let diff (x y : Word) (k cap : Nat) : Nat :=
      if f32Finite x ∧ f32Finite y then min (floorNat (absRat (f32Rat y - f32Rat x) * (k : Rat))) cap else 0
    { mag := (both.map (·.1)).foldl max 0
      ang := (both.map (·.2)).foldl max 0
      df := diff o.freq new.freq 1000000 (2 ^ 32 - 1)
      drf := diff o.rocof new.rocof 1000 65535
      dig := (o.digitals.zip new.digitals).any fun p => p.1 != p.2
      nan := (ph.any fun p => phFinite p.1 != phFinite p.2) || one o.freq new.freq || one o.rocof new.rocof }

/-- A record's measures with a change folded in. -/
def Det.fold (r : Det) (c : Change) : Det :=
  { r with maxMag := max r.maxMag c.mag, maxAng := max r.maxAng c.ang, maxDf := max r.maxDf c.df, maxDrf := max r.maxDrf c.drf,
           digChg := r.digChg || c.dig, nanChg := r.nanChg || c.nan }

/-- The unobserved coverage of the berths changed since the snapshot (R151, R167). -/
def State.chgCovOf (s : State) (q : Quay) (d : Nat) : Nat :=
  let r := q.detOf d
  covOf ((r.chg.filter fun b => (mapFind r.used b).isNone).map (alnWeight (s.quaySet q) d)).sum (s.totalWeight q d)

/-- Whether measures go beyond a detector's tolerances (R168). -/
def DetCfg.beyond (c : DetCfg) (cov : Nat) (x : Change) : Bool :=
  decide (c.covtol < cov) || decide (c.magtol < x.mag) || decide (c.angtol < x.ang) || decide (c.ftol < x.df) ||
    decide (c.rftol < x.drf) || x.nan || (x.dig && c.digAny)

/-- Whether a record's inputs are beyond tolerance. -/
def Det.beyond (r : Det) (c : DetCfg) : Bool :=
  c.beyond r.chgCov { mag := r.maxMag, ang := r.maxAng, df := r.maxDf, drf := r.maxDrf, dig := r.digChg, nan := r.nanChg }

/-- CHG_d and the measures after a write of berth b that is not late (R167). -/
def State.noteWrite (s : State) (seq b : Nat) (e : Entry) : State :=
  (List.range 4).foldl (fun (s : State) d =>
    match s.quay? seq with
    | some q =>
      if (q.detOf d).started then
        let s1 := s.modDet seq d fun r =>
          let r1 := r.fold (changeOf (mapFind r.used b) e)
          { r1 with chg := if r.chg.contains b then r.chg else r.chg ++ [b] }
        match s1.quay? seq with
        | some q1 => let c := s1.chgCovOf q1 d; s1.modDet seq d fun r => { r with chgCov := c }
        | none => s1
      else s
    | none => s) s

/-- A write into a quay (R160): the entry, WRITE_COUNT, CHG_d, and the quorum test while the quay has not begun settlement. -/
def State.quayWrite (s : State) (seq b : Nat) (e : Entry) (late : Bool) : State :=
  let s1 := (s.putEntry seq b e).modQuay seq fun q => { q with writeCount := q.writeCount + 1 }
  if late then s1 else (s1.noteWrite seq b e).quorumTest seq

/-- A hold source spreads to the later open quays within the reach whose entry is empty (R161). -/
def State.spreadHold (s : State) (q : Quay) (b : Nat) (e : Entry) : State :=
  if !e.holdSource then s
  else
    let reach := s.holdReach q b
    (List.range reach).foldl (fun (s : State) i =>
      match s.quayFwd q (i + 1) with
      | some p =>
        if p.isOpen ∧ (p.entry b).isNone ∧ e.fits ((s.quayBank p).berth b) then s.quayWrite p.seq b (rateHoldOf e p) false else s
      | none => s) s

/-! ### Opening (R154, R156) -/

/-- The generation of the set that serves an instant (R184). -/
def State.genAt (s : State) (t : Nat) : Nat :=
  if t < s.cfg.activeFrom then s.cfg.gen - 1
  else match s.cfg.commit with
    | some c => if c.validated ∧ c.eff ≤ t then s.cfg.gen + 1 else s.cfg.gen
    | none => s.cfg.gen

/-- The generation of the directory bank that serves an instant (R141). -/
def State.dirGenAt (s : State) (t : Nat) : Nat :=
  let g := (s.reg Reg.BIN_DIR_GEN).toNat
  match s.bin.eff with
  | some e => if s.bin.pending ∧ e ≤ t then g + 1 else if s.bin.oldHeld ∧ t < e then g - 1 else g
  | none => g

/-- The second in which the grid that holds a second began, those to come included. -/
def State.gridStartOf (s : State) (sec : Nat) : Nat :=
  let ran := (s.tb.grids.find? fun g => g.1 ≤ sec).elim 0 (·.1)
  match s.cfg.commit with
  | some c => if c.validated ∧ c.eff ≤ sec * subPerSec then (c.eff + subPerSec - 1) / subPerSec
      else if s.tb.nextRate.isSome ∧ s.tb.lastSec < sec then s.tb.lastSec + 1 else ran
  | none => if s.tb.nextRate.isSome ∧ s.tb.lastSec < sec then s.tb.lastSec + 1 else ran

/-- A quay opens for an instant. DESIGN CHOICE (log entry 70): with no slot to be had it lives in its ring slot from the start, as a spilled
quay does. -/
def State.quayOpen (s : State) (sec k rate : Nat) (stepped : Bool) (tq : BitVec 16) : State :=
  let t := instantAt rate sec k
  let seq := s.aln.nextSeq
  let gen := s.genAt t
  let set := s.setOf gen
  let win := cfgWord set 5 15 0x10
  let (s0, slot) := s.takeSlot
  let q : Quay :=
    { seq := seq, sec := sec, k := k, rate := rate, instant := t, stepped := stepped, tq := tq,
      windowMs := bitsOf win.toNat 0 11, sealDelay := bitsOf win.toNat 16 8, dirGen := s.dirGenAt t, cfgGen := gen, useGen := gen,
      gridStart := s.gridStartOf sec, opened := s.dt, slot := slot, spilled := slot.isNone }
  let s1 := (s0.modAln fun a => { a with
    quays := (a.quays.filter fun (x : Quay) => x.seq + 512 != seq) ++ [q], nextSeq := seq + 1, newestInstant := some t }).setReg64
      Reg.ALN_NEWEST_SEQ_LO seq
  let s2 := (s1.count (Reg.ALN_CNT_LO 0)).spillCheck
  ((s2.quayBank q).validBerths).foldl (fun (s : State) b =>
    match s.holdFor q b (s.holdReach q b) 1 with
    | some e => if e.fits ((s.quayBank q).berth b) then s.quayWrite seq b (rateHoldOf e q) false else s
    | none => s) s2

/-- Whether an instant is later than every quay opened. -/
def State.newerThanAll (s : State) (t : Nat) : Bool :=
  match s.aln.newestInstant with
  | some n => decide (n < t)
  | none => true

/-- An instant's event reaches alignment (R154): its quay opens, or one that a block opened takes its time quality. -/
def State.alnInstant (s : State) (sec k rate : Nat) (stepped : Bool) (tq : BitVec 16) : State :=
  let t := instantAt rate sec k
  let s1 := match s.quayAt t with
    | some q => s.modQuay q.seq fun x => { x with tq := tq }
    | none => if s.alnReady ∧ s.newerThanAll t then s.quayOpen sec k rate stepped tq else s
  s1.modAln fun a => { a with eventSeen := some (match a.eventSeen with | some x => max x t | none => t) }

/-- Whether the event of an instant has come to alignment, so that only the quay it opened can hold a block for it (R154, R155). -/
def State.eventPast (s : State) (t : Nat) : Bool :=
  match s.aln.eventSeen with
  | some e => decide (t ≤ e)
  | none => false

/-- Quays opened for the instants from a time up to an instant (R154). -/
def State.openUpTo (s : State) (last : Nat) : Nat → Nat → State
  | 0, _ => s
  | fuel + 1, from_ =>
    match s.instantAfter from_ 0 with
    | some (sec, k, t) =>
      if last < t then s
      else State.openUpTo (s.quayOpen sec k (s.rateAhead sec) false 0) last fuel (t + 1)
    | none => s

/-! ### Snapshots and stand-ins (R164 to R166) -/

/-- A phasor turned by x turns; unchanged at a whole turn or where a part is not finite. -/
def turnPhasor (p : Word × Word) (x : Rat) : Word × Word :=
  if x.den = 1 ∨ !phFinite p then p else pairF32 (turnRat (f32Rat p.1) (f32Rat p.2) (2 * piRat * (x - x.floor)))

/-- The stand-in that a source entry gives a quay (R165). -/
def standInOf (e : Entry) (dt : Rat) : Entry :=
  if f32Special e.freq then e
  else
    let x := (f32Rat e.freq - (if e.fnom50 then 50 else 60)) * dt
    { e with phasors := e.phasors.map fun p => turnPhasor p x }

/-- The stand-in of a berth for a detector on a quay, looking back over `n` quays from `back`. -/
def State.standIn (s : State) (q : Quay) (b : Nat) : Nat → Nat → Option Entry
  | 0, _ => none
  | n + 1, back =>
    match s.quayBack q back with
    | some p =>
      match p.entry b with
      | some e =>
        if e.freshGood ∧ e.fits ((s.quayBank q).berth b) then
          some (standInOf e (((q.instant - p.instant : Nat) : Rat) / (subPerSec : Rat)))
        else s.standIn q b n (back + 1)
      | none => s.standIn q b n (back + 1)
    | none => s.standIn q b n (back + 1)

/-- What detector d used for the berths of a quay (R166). -/
def State.usedBy (s : State) (q : Quay) (d : Nat) : List (Nat × Entry) :=
  let c := detCfg (s.quaySet q) d
  ((s.quayBank q).validBerths).filterMap fun b =>
    if s.berthCounts q d b false then (q.entry b).map fun e => (b, e)
    else if alnWeight (s.quaySet q) d b ≠ 0 then (s.standIn q b c.standinMax 1).map fun e => (b, e)
    else none

/-- The snapshot of d on a quay, at the start of its first task (R164). -/
def State.snapshot (s : State) (seq d : Nat) : State :=
  match s.quay? seq with
  | some q =>
    if (q.detOf d).started then s
    else
      let u := s.usedBy q d
      s.modDet seq d fun r => { r with started := true, snapCount := q.writeCount, chg := [], used := u }
  | none => s

/-! ### Substitution (R169) -/

/-- Whether an entry may be a neighbour, or none. -/
def State.freshAt (s : State) (q : Quay) (p : Option Quay) (b : Nat) : Option Entry :=
  match p.bind fun x => x.entry b with
  | some e => if e.freshGood ∧ e.fits ((s.quayBank q).berth b) then some e else none
  | none => none

/-- The nearest neighbour within n quays, back or forth, with its distance. -/
def State.neighbour (s : State) (q : Quay) (b : Nat) (fwd : Bool) (n : Nat) : Option (Nat × Entry) :=
  (List.range n).findSome? fun i =>
    (s.freshAt q (if fwd then s.quayFwd q (i + 1) else s.quayBack q (i + 1)) b).map fun e => (i + 1, e)

/-- A point between two words, NaN when either is not finite. -/
def lerpWord (a b : Word) (x : Rat) : Word :=
  if f32Finite a ∧ f32Finite b then toF32 (f32Rat a + x * (f32Rat b - f32Rat a)) else nanWord

/-- A point between two phasors by magnitude and angle (R169). DESIGN CHOICE (log entry 69): the angle of a phasor of magnitude 0, which has
none, is that of the other. -/
def lerpPhasor (a b : Word × Word) (x : Rat) : Word × Word :=
  if !(phFinite a && phFinite b) then (nanWord, nanWord)
  else if a = b then a
  else
    let ar := f32Rat a.1; let ai := f32Rat a.2; let br := f32Rat b.1; let bi := f32Rat b.2
    let m := absOf ar ai + x * (absOf br bi - absOf ar ai)
    let turn := x * argRat (br * ar + bi * ai) (bi * ar - br * ai)
    let from_ := if ar = 0 ∧ ai = 0 then argRat br bi else argRat ar ai
    pairF32 (turnRat m 0 (from_ + turn))

/-- The interpolation of two entries (R169). -/
def interpOf (p n : Entry) (i j : Nat) : Entry :=
  let x : Rat := (i : Rat) / ((i + j : Nat) : Rat)
  let ph := (p.phasors.zip n.phasors).map fun y => lerpPhasor y.1 y.2 x
  let an := (p.analogs.zip n.analogs).map fun y => lerpWord y.1 y.2 x
  let f := lerpWord p.freq n.freq x
  let r := lerpWord p.rocof n.rocof x
  let bad := p.nan || n.nan || f32Special f || f32Special r || (an.any f32Special) || (ph.any fun y => !phFinite y)
  { p with phasors := ph, analogs := an, freq := f, rocof := r,
           status := putStatus (putStatus (putStatus p.status 56 4 3) 24 8 i) 55 1 (b2n bad) }

/-- The substitution of a berth at the start of settlement, if it has one. -/
def State.substFor (s : State) (q : Quay) (b : Nat) : Option Entry :=
  let set := s.quaySet q
  let missing : Bool := match q.entry b with
    | some e => !e.present || e.qc == 4
    | none => true
  let mode := alnSubst set b
  let mh := alnMaxHold set b
  if !missing ∨ mode = 0 then none
  else
    let prev := s.neighbour q b false mh
    let interp : Option Entry :=
      if mode = 1 then none
      else match prev, s.neighbour q b true mh with
        | some (i, p), some (j, n) => if i + j ≤ mh + 1 then some (interpOf p n i j) else none
        | _, _ => none
    match interp with
    | some e => some e
    | none =>
      if mode = 3 then none
      else prev.map fun x => { x.2 with status := putStatus (putStatus x.2.status 56 4 2) 24 8 x.1 }

/-- Substitution of a quay (R169), every berth from the state at the start of settlement. -/
def State.substitute (s : State) (q : Quay) : State :=
  let plan := ((s.quayBank q).validBerths).filterMap fun b => (s.substFor q b).map fun e => (b, e)
  plan.foldl (fun (s : State) x => (s.quayWrite q.seq x.1 x.2 false).count (Reg.ALN_CNT_LO 9)) s

/-! ### Settlement (R169 to R171) -/

/-- The moment at which settlement of a quay begins (R157). -/
def Quay.settleAt (q : Quay) : Nat := q.close + 20 * subPerUs

/-- The quay whose settlement comes next: of those whose moment DT has reached the one with the first instant (R159), and otherwise the
one whose moment comes first. -/
def State.settleNext (s : State) : Option Quay :=
  let open_ := s.aln.quays.filter Quay.isOpen
  (open_.find? fun q => decide (q.settleAt ≤ s.dt)).or
    (open_.foldl (fun (m : Option Quay) q =>
      match m with
      | some x => if q.settleAt < x.settleAt then some q else some x
      | none => some q) none)

/-- The tasks of an owner that have not started, of those with a property of TYPE and quay tag, are withdrawn. -/
def State.withdrawOf (s : State) (owner : Nat) (p : Nat → Nat → Bool) : State :=
  let s1 := s.modPlt fun x => { x with
    wants := x.wants.filter fun (r : TaskReq) => !(r.owner == owner && p r.typ r.quayTag)
    held := x.held.filter fun (r : TaskReq) => !(r.owner == owner && p r.typ r.quayTag) }
  (s1.plt.tasks.filter fun t => t.2.owner == owner && t.2.st != .free && !t.2.begun && p t.2.typ t.2.quayTag).foldl
    (fun (s : State) t => s.freeTask t.1) s1

/-- The provisional dispatch of d on a quay withdrawn (R170). -/
def State.withdraw (s : State) (seq d : Nat) : State := s.withdrawOf (37 + d) fun typ tag => typ == 1 && tag == seq % 2 ^ 32

/-- The provisional dispatches of the detectors of which no task has started when settlement begins, withdrawn at that moment (R170). -/
def State.withdrawIdle (s : State) (q : Quay) : State :=
  (List.range 2).foldl (fun (s : State) d => if (q.detOf d).started then s else s.withdraw q.seq d) s

/-- What settlement does to a quay (R169, R170): dispatches withdrawn, substitution, the INCOMPLETE bits and SETTLE_COV. -/
def State.settleNow (s : State) (q : Quay) : State :=
  let s1 := s.withdrawIdle q
  let s2 := (s1.modQuay q.seq fun x => { x with state := .settled, settling := true, settleStart := s.dt }).event Reg.ALN_EVT 1
  let s3 := s2.substitute q
  (List.range 4).foldl (fun (s : State) d =>
    match s.quay? q.seq with
    | some x =>
      let cov := s.coverage x d true
      let c := detCfg (s.quaySet x) d
      s.modDet q.seq d fun r => { r with settleCov := cov, incomplete := c.en && !r.quorum }
    | none => s) s3

/-- Settlement of a quay begins, 20 µs after its close instant (R157). -/
def State.settleBegin (s : State) (q : Quay) : State := (s.advance q.settleAt).settleNow q

/-- Whether a provisional task of detector d has started on a quay and not completed (R171, R254). -/
def State.provRunning (s : State) (seq d : Nat) : Bool :=
  d < 2 && s.plt.tasks.any fun t => t.2.begun && t.2.typ == 1 && t.2.owner == 37 + d && t.2.quayTag == seq % 2 ^ 32

/-- Whether the islanding unit has yet to settle or to fold an earlier quay: each fold completes before the settlement of the next quay
begins (R252). A fold whose task is gone is none. -/
def State.islAhead (s : State) (seq : Nat) : Bool :=
  s.isl.settleDue.any (fun n => decide (n < seq)) || s.isl.foldDue.any fun n => decide (n < seq) && s.taskStands 38 3 0 (n % 2 ^ 32)

/-- The outcome of d on a settled quay, none while its settlement waits for a task (R170, R171) or for the fold of an earlier quay
(R252). -/
def State.detOutcome (s : State) (q : Quay) (d : Nat) : Option Nat :=
  let c := detCfg (s.quaySet q) d
  let r := q.detOf d
  if !c.en then some 6
  else if d = 1 ∧ s.islAhead q.seq then none
  else if !r.quorum then some (if c.evalIncomplete then 4 else 3)
  else if !r.started then some 5
  else if s.provRunning q.seq d then none
  else some (if r.beyond c then 2 else 1)

/-- The settle notice of ALN detector d (R270). -/
def State.alnNotice (s : State) (q : Quay) (d o : Nat) : State :=
  s.almSend { op := .settle, src := 3, sub := d, kind := 0, key := 0, sev := 0, quaySeq := q.seq, outcome := o }

/-- Every detector of a quay is done: SETTLE_DONE, which captures may be waiting for (R170, R374). -/
def State.settleDoneCheck (s : State) (seq : Nat) : State :=
  match s.quay? seq with
  | some q =>
    if (List.range 4).all fun d => (q.detOf d).outcome != 0 then s.modQuay seq fun x => { x with settleDone := true } else s
  | none => s

/-- The settlement of d completes with an outcome (R170). -/
def State.detFinish (s : State) (seq d o : Nat) : State :=
  match s.quay? seq with
  | none => s
  | some q =>
    let s1 := s.modDet seq d fun r => { r with
      outcome := o, settledAt := s.dt, routed := none, atSettle := if o = 1 ∨ o = 2 then q.entries else [] }
    let s2 := match o with
      | 1 => s1.count (Reg.ALN_CNT_LO (11 + 4 * d))
      | 2 | 5 => s1.count (Reg.ALN_CNT_LO (12 + 4 * d))
      | 3 | 4 => ((s1.count (Reg.ALN_CNT_LO (13 + 4 * d))).event Reg.ALN_EVT 3).alnRaise d 1 seq
      | _ => s1
    (s2.alnNotice q d o).settleDoneCheck seq

/-! ### Blocks (R155, R158, R160, R172, R173) -/

/-- A block that comes too late (R155). -/
def State.lateReject (s : State) (b : Nat) : State := (s.berthCnt b 5).count (Reg.ALN_CNT_LO 3)

/-- Whether the target of a block handed off at a time is ahead of the reference by more than 2 quay intervals (R155). -/
def State.tooFarAhead (s : State) (t rate handedAt : Nat) : Bool :=
  let cur := s.rateOf s.tb.lastSec
  let onGrid : Bool := s.tb.lastInstant != 0 && s.tb.grid.rate == cur && decide ((s.gridStartOf s.tb.lastSec) * subPerSec ≤ s.tb.lastInstant)
  let (ref, slack) := if onGrid then (s.tb.lastInstant, rate) else (handedAt, 0)
  decide (2 * subPerSec + slack ≤ (t - ref) * rate) && decide (ref < t) && decide (2 * subPerSec < (t - ref) * rate)

/-- GUARD_MISS of a quay (R158). -/
def State.guardMissNote (s : State) (q : Quay) : State :=
  let s1 := (s.count (Reg.ALN_CNT_LO 6)).event Reg.ALN_EVT 5
  if q.guardMiss then s1
  else
    (List.range 4).foldl (fun (s : State) d => if (detCfg (s.quaySet q) d).en then s.alnRaise d 3 q.seq else s)
      (s1.modQuay q.seq fun x => { x with guardMiss := true })

/-- R173 for detector d: a late block against what settlement used: the entry of that moment, or the stand-in fixed at the snapshot. -/
def State.lateCompare (s : State) (q : Quay) (b : Nat) (e : Entry) (d : Nat) : State :=
  let r := q.detOf d
  let c := detCfg (s.quaySet q) d
  if r.outcome ≠ 1 ∧ r.outcome ≠ 2 then s
  else
    let old := (mapFind r.atSettle b).or (mapFind r.used b)
    let ch := changeOf old e
    let cov := if ch.unobserved then covOf (alnWeight (s.quaySet q) d b) (s.totalWeight q d) else 0
    if c.beyond cov ch then
      let s1 := ((s.modDet q.seq d fun x => { x with lateChange := true }).modQuay q.seq fun x => { x with lateChange := true }).event
        Reg.ALN_EVT 4
      if r.lateChange then s1 else s1.alnRaise d 2 q.seq
    else s

/-- A late block that is accepted (R172). -/
def State.lateWrite (s : State) (q : Quay) (b : Nat) (e : Entry) : State :=
  let s1 := (s.quayWrite q.seq b e true).modQuay q.seq fun x => { x with
    late := if x.late.contains b then x.late else x.late ++ [b], lateAccepted := x.lateAccepted + 1, lateBlocks := x.lateBlocks ++ [b] }
  let s2 := ((s1.count (Reg.ALN_CNT_LO 2)).berthCnt b 4).spreadHold q b e
  (List.range 4).foldl (fun (s : State) d => s.lateCompare q b e d) s2

/-- A block meets an open or settled quay (R160). -/
def State.blockMeet (s : State) (q : Quay) (d : DataBlock) : State :=
  let b := d.berth
  let dup : Bool := match q.entry b with
    | some e =>
      e.kind (s.holdReach q b) == .fresh || (d.entry.offgrid && e.kind (s.holdReach q b) == .offgrid && decide (d.entry.measured < e.measured))
    | none => false
  let inWindow : Bool := !q.isOpen && decide (d.arrival ≤ q.close)
  let s0 := if inWindow then s.guardMissNote q else s
  if q.state = .sealed ∨ q.sealing then s.lateReject b
  else if dup then (s0.berthCnt b 3).modQuay q.seq fun x => { x with duplicate := x.duplicate + 1 }
  else if q.isOpen then (s0.quayWrite q.seq b d.entry false).spreadHold q b d.entry
  else s0.lateWrite q b d.entry

/-- The alignment engines that handle berths: those present that are neither fenced nor rotated out (R182). -/
def State.alnEngines (s : State) : List Nat :=
  (classEngines 1).filter fun e => s.hasEng e && ((s.engine e).rstate == .inService || (s.engine e).rstate == .draining)

/-- The engine that handles a berth (R182): the one at position b mod their number, so that a fenced or rotated engine's berths, and the
blocks that wait for them, pass to those that remain by the same rule. -/
def State.alnEngineOf (s : State) (b : Nat) : Option Nat :=
  match s.alnEngines with
  | [] => none
  | e :: es => some (nth 0 (e :: es) (b % (e :: es).length))

/-- The input queue of an alignment engine, oldest block first (R138, R182). -/
def State.alnQueue (s : State) (e : Nat) : List DataBlock := s.aln.input.filter fun d => s.alnEngineOf d.berth == some e

/-- What alignment does with a block (R155). -/
def State.blockPlace (s : State) (d : DataBlock) : State :=
  let t := instantAt d.rate d.sec d.k
  let ahead (s : State) : State := (s.count (Reg.ALN_CNT_LO 4)).event Reg.ALN_EVT 6
  match s.quayAt t with
  | some q => if s.tooFarAhead t d.rate d.handedAt then ahead s else s.blockMeet q d
  | none =>
    if !s.alnReady then s.count (Reg.ALN_CNT_LO 5)
    else if s.tooFarAhead t d.rate d.handedAt then ahead s
    else if !s.newerThanAll t ∨ s.eventPast t ∨ s.rateAhead d.sec ≠ d.rate then s.lateReject d.berth
    else
      let after (x : Option Nat) : Nat := match x with | some n => n + 1 | none => 0
      let s2 := s.openUpTo t 64 (max (s.aln.readySince.getD 0) (max (after s.aln.newestInstant) (after s.aln.eventSeen)))
      match s2.quayAt t with
      | some q => s2.blockMeet q d
      | none => s.lateReject d.berth

/-- The alignment engine of the oldest waiting block takes it from its input queue (R155, R182); with no engine left none is taken. -/
def alnBlockWriteRow (s : State) : State :=
  match s.aln.input with
  | [] => s
  | d :: rest => if (s.alnEngineOf d.berth).isSome then (s.modAln fun a => { a with input := rest }).blockPlace d else s

/-! ### Seals (R178 to R180) -/

/-- The moment from which a quay's seal may begin: C plus SEAL_DELAY of its own intervals. -/
def Quay.sealMoment (q : Quay) : Nat := q.close + (if q.rate = 0 then 0 else q.sealDelay * subPerSec / q.rate)

/-- The completion of settlement (R151, R178). -/
def Quay.doneAt (q : Quay) : Nat := ((List.range 4).map fun d => (q.detOf d).settledAt).foldl max 0

/-- A quay's seal instant has come (R178): a spill that has not begun is none any more. -/
def State.sealNow (s : State) (seq : Nat) : State := s.modQuay seq fun x => { x with sealing := true, spilling := x.spilling && x.copy.isSome }

/-- The seal instants that a reporting instant is (R178): of the settled quays for which it is at or after both moments. -/
def State.sealStart (s : State) (t : Nat) : State :=
  (s.aln.quays.filter fun q => q.settleDone && q.state == .settled && !q.sealing && decide (q.sealMoment ≤ t) && decide (q.doneAt ≤ t)).foldl
    (fun (s : State) q => s.sealNow q.seq) s

/-- The seals that a settlement completed on the very DT of a reporting instant brings, after it, and the copies that wait for a tug
(R159, R178). -/
def State.sealsAfter (s : State) : State :=
  (if s.tb.grid.rate ≠ 0 ∧ s.tb.lastInstant = s.dt ∧ s.dt ≠ 0 then s.sealStart s.dt else s).copiesStart

/-- The seal of a quay whose rate was removed (R178): at the later of its two moments. -/
def sealInstantWithoutGridRow (s : State) : State :=
  if s.tb.grid.rate ≠ 0 then s
  else match s.aln.quays.find? fun q => q.settleDone && q.state == .settled && !q.sealing with
    | some q => (s.advance (max q.sealMoment q.doneAt)).sealNow q.seq
    | none => s

/-- The end of a seal (R178, R180): the header with STATE 4, the slot free, the quay no longer counted as unsealed. -/
def State.sealDone (s : State) (q : Quay) : State :=
  let crc := s.sealCrcOf q
  let s1 := ((s.modQuay q.seq fun x => { x with
    state := .sealed, sealing := false, copy := none, slot := none, sealedAt := s.dt, sealCrc := crc, sealErr := x.failed }).tugReturn q).slotReturn q
  let s2 := match s1.quay? q.seq with
    | some x => s1.quayStore x
    | none => s1
  (((s2.setReg64 Reg.ALN_SEALED_SEQ_LO q.seq).count (Reg.ALN_CNT_LO 1)).event Reg.ALN_EVT 2).dirRetire

/-- The seals of quays whose copy has failed twice (R180): each as soon as no earlier quay is unsealed (R178). -/
def State.sealFailed (s : State) : List Quay → State
  | [] => s
  | q :: qs => if q.sealing ∧ q.failed then (s.sealDone q).sealFailed qs else s

/-- A seal completes: seals complete in the order of sequence numbers (R178). That of a resident quay needs its copy, unless the copy has
failed twice (R180). -/
def quaySealDoneRow (s : State) : State :=
  match s.unsealed with
  | q :: qs => if q.sealing ∧ !q.spilling ∧ (q.copy.isSome ∨ q.slot.isNone ∨ q.failed) then (s.sealDone q).sealFailed qs else s
  | [] => s

/-- A tug transfer of a seal or a spill reports an error (R180): counted and reported, and tried again once. After a second error nothing
more is copied: the quay is sealed with SEAL_ERR when its seal comes, in the order of R178 and from the state R153 gives (log entry 71). -/
def tugTransferErrorRow (seq : Nat) (s : State) : State :=
  match s.quay? seq with
  | none => s
  | some q =>
    if q.copy.isNone then s
    else
      let s1 := ((s.count (Reg.ALN_CNT_LO 8)).event Reg.ALN_EVT 7).unitFault 4
      if q.retried then
        let s2 := (s1.modQuay seq fun x => { x with failed := true, spilling := false, copy := none }).tugReturn q
        s2.sealFailed s2.unsealed
      else s1.modQuay seq fun x => { x with retried := true }

/-! ### The window on the berth alignment table (R188, R565) -/

/-- What a read of ALN_WIN_DATA returns. -/
def State.alnWinWord (s : State) : Word := cfgWord s.cfg.active 5 0 (s.fld Reg.ALN_WIN_ADDR 0 17 / 4 * 4)

/-- The offset of ALN_WIN after a read of its data. -/
def State.alnWinStep (s : State) : State := s.setFld Reg.ALN_WIN_ADDR 0 17 (s.fld Reg.ALN_WIN_ADDR 0 17 + 4)

/-- RESIDENT: SRAM slots in use. -/
def State.resident (s : State) : Nat := (s.aln.quays.filter fun q => q.slot.isSome).length

end Sys2Proof.Machine
end

