-- ==== Sys2Proof/Machine/Log.lean ====
section
/-! DEFINITION. The logbook (R378 to R387): queueing an event, the single writer and its chained records, checkpoints, the ring,
notes and clearing. `peek` reads a register without side effects for the snapshots (R380). -/

namespace Sys2Proof.Machine

/-- The logbook changed. -/
def State.modLog (s : State) (f : Logb → Logb) : State := { s with logb := f s.logb }

/-- Whether a class is recorded: classes 0 to 3 and 17 always, the others by EN of their class-table entry (R381, R387). -/
def State.logEnabled (s : State) (cls : Nat) : Bool :=
  cls ≤ 3 || cls == 17 || (cls ≤ 17 && bitOf (cfgByte s.cfg.active 0x0C 0 (128 * cls)) 0)

/-- REPEAT_EN of a class. -/
def State.logRepeats (s : State) (cls : Nat) : Bool := bitOf (cfgByte s.cfg.active 0x0C 0 (128 * cls)) 1

/-- The last record written, if the tail holds one. -/
def State.lastRec (s : State) : Option LogRec := s.bkp.tail.getLast?

/-- Whether an event repeats the last record (R383). -/
def State.logIsRepeat (s : State) (e : LogRaise) : Bool :=
  match s.lastRec with
  | some r => r.cls == e.cls && r.src == e.src && r.event == e.event && r.detail == e.detail && 3 < r.cls && s.logRepeats e.cls
  | none => false

/-- The ring slot of an LSEQ (R378). -/
def State.logSlot (s : State) (lseq : Nat) : Nat := s.reg64 Reg.LOG_RING_BASE_LO + 256 * (lseq % 65536)

/-- A record put into the tail, in place of the last when it is the same record, and into the ring once it is set (R378). -/
def State.logPut (s : State) (r : LogRec) : State :=
  let kept := s.bkp.tail.filter fun q => q.lseq != r.lseq
  let all := kept ++ [r]
  let s1 := { s with bkp := { s.bkp with tail := all.drop (all.length - 64), tailOk := true } }
  let s2 := if s1.logb.ringSet then s1.dramWrite (s1.logSlot r.lseq) r.bytes else s1
  s2

/-- The digest that continues CHAIN holds a crypto context (R41, R516). The logbook never waits on any unit (R383): with no context to be
had the record is written all the same (DESIGN CHOICE, log entry 117). -/
def State.logHash (s : State) : State := (s.cryptoNow (unitCode 14)).getD s

/-- Whether the writer writes no record now: a checkpoint waits for its signature over the newest CHAIN (R382), or an exit from a power
state is under way (R450). -/
def State.logHeld (s : State) : Bool := s.logb.chkptBusy || s.pwr.exiting

/-- A repeat of the last record (R383): REPEAT, LAST_AT and CHAIN change; snapshots keep their first values. -/
def State.logRepeat (s : State) (e : LogRaise) : State :=
  match s.lastRec with
  | none => s
  | some r =>
    let b0 := slice r.bytes 0 224
    let rep := min (leAt b0 4 4 + 1) (2 ^ 32 - 1)
    let flags := byteAt b0 3 ||| 1
    let b1 := b0.take 3 ++ leBytes 1 flags ++ leBytes 4 rep ++ slice b0 8 20 ++ tsBytes e.at_ ++ b0.drop 40
    let chain := sha256 (s.logb.prevChain ++ b1)
    let s1 := s.logHash.logPut { r with bytes := b1 ++ chain }
    ((s1.modLog fun l => { l with chain := chain }).count (Reg.LOG_CNT_LO 1)).finishOpt e.mid stDone (r.lseq % 2 ^ 32) []

/-- A raised event reaches the logbook (R383): not recorded when its class is off, a repeat of the last record, queued, or lost
when the queue is full. While the writer is held a repeat waits in the queue too. -/
def logEventTake (s : State) : State :=
  match s.logb.raised with
  | [] => s
  | e :: es =>
    let s1 := s.modLog fun l => { l with raised := es }
    if !s1.logEnabled e.cls then s1.finishOpt e.mid stDone 0 []
    else if s1.logb.queue.isEmpty ∧ !s1.logHeld ∧ s1.logIsRepeat e then s1.logRepeat e
    else if s1.logb.queue.length < 128 then s1.modLog fun l => { l with queue := l.queue ++ [e] }
    else
      ((((s1.modLog fun l => { l with lostN := min (l.lostN + 1) 65535 }).count (Reg.LOG_CNT_LO 3)).event Reg.LOG_EVT 4)).finishOpt
        e.mid stDone 0 []

/-- The logbook has written a record since manufacture (R382). -/
def State.logBegins (s : State) : State := { s with hw := { s.hw with logBegun := true } }

/-- A record of the given fields is written (R379, R382): LSEQ and CHAIN continue; `area` is bytes 64 to 191. -/
def State.logWrite (s : State) (e : LogRaise) (nSnap : Nat) (area : List Byte) : State :=
  let l := s.logb
  let flags := 2 * b2n (l.lostN != 0) + 4 * b2n (!e.locked)
  let b := padTo 224 (padTo 64 (leBytes 1 0x30 ++ leBytes 1 1 ++ leBytes 1 e.cls ++ leBytes 1 flags ++ leBytes 4 0 ++
    leBytes 8 l.nextSeq ++ tsBytes e.at_ ++ tsBytes e.at_ ++ leBytes 2 (s.tqAt e.at_).toNat ++ leBytes 1 e.src ++
    leBytes 1 nSnap ++ leBytes 2 e.event ++ leBytes 2 l.lostN ++ e.detail) ++ area)
  let chain := sha256 (l.chain ++ b)
  let wraps := l.ringSet && l.oldest + 65536 ≤ l.nextSeq
  let s0 := s.logHash.logBegins
  let s1 := (s0.logPut ⟨l.nextSeq, e.cls, e.src, e.event, e.detail, b ++ chain⟩).mirrorItem 4 (b ++ chain)
  let s2 := s1.modLog fun l =>
    { l with lostN := 0, nextSeq := l.nextSeq + 1, prevChain := l.chain, chain := chain, sinceChkpt := l.sinceChkpt + 1,
             oldest := if l.ringSet then (if wraps then l.oldest + 1 else l.oldest)
               else ((s1.bkp.tail.head?).map (·.lseq)).getD l.nextSeq }
  let s3 := if wraps then (s2.count (Reg.LOG_CNT_LO 2)).event Reg.LOG_EVT 3 else s2
  ((s3.count (Reg.LOG_CNT_LO 0)).event Reg.LOG_EVT 0).finishOpt e.mid stDone (l.nextSeq % 2 ^ 32) []

/-- The snapshots of a class (R379, R380, R387): the offsets whose VALID bit is set, in list order, with the values read. -/
def State.logSnaps (s : State) (peek : State → Nat → Word) (cls : Nat) : List (Nat × Word) :=
  (List.range 16).filterMap fun i =>
    let w := cfgWord s.cfg.active 0x0C 0 (128 * cls + 64 + 4 * i)
    let o := bitsOf w.toNat 0 24
    if w.getLsbD 31 then some (o, if blockOf o = .key then 0 else peek s o) else none

/-- The single writer takes an event from the queue (R379, R383). While a checkpoint waits for its signature (R382), or during an exit
(R450), it waits. -/
def logRecordTake (peek : State → Nat → Word) (s : State) : State :=
  match s.logb.queue with
  | [] => s
  | e :: es =>
    if s.logHeld then s
    else
      let s1 := s.modLog fun l => { l with queue := es }
      if s1.logIsRepeat e then s1.logRepeat e
      else
        let snaps := s1.logSnaps peek e.cls
        s1.logWrite e snaps.length (padTo 128 (snaps.flatMap fun p => leBytes 4 p.1 ++ leBytes 4 p.2.toNat))

/-! ### Checkpoints (R382) -/

/-- Whether a checkpoint is due: LOG_CHKPT.N records, or SEC seconds since the last. -/
def State.logChkptDue (s : State) : Bool :=
  s.fld Reg.LOG_CHKPT 0 16 ≤ s.logb.sinceChkpt || s.logb.chkptAt + s.fld Reg.LOG_CHKPT 16 16 * subPerSec ≤ s.dt

/-- The CHECKPOINT record with its signature, which is zero when signing failed. -/
def State.logChkptWrite (s : State) (sig : Option (List Byte)) : State :=
  let s0 := match sig with | some _ => s | none => s.event Reg.LOG_EVT 6
  let lseq := s0.logb.nextSeq
  let e : LogRaise := ⟨1, unitCode 14, 0xFFFF, leBytes 8 s0.logb.lastChkpt ++ leBytes 8 0, s0.dt, s0.tb.dtState == .locked, none⟩
  let s1 := s0.logWrite e 0 (padTo 128 (padTo 64 (sig.getD [])))
  (s1.modLog fun l => { l with chkptBusy := false, sinceChkpt := 0, lastChkpt := lseq, chkptAt := s0.dt }).count (Reg.LOG_CNT_LO 4)

/-- A checkpoint (R382): its signature over the CHAIN of the record before it is asked for; when it cannot be, the record is
written with zeros. -/
def logCheckpointRow (s : State) : State :=
  if s.logb.chkptBusy ∨ !s.logChkptDue then s
  else
    let r := s.requestSign (.signCheckpoint s.logb.chain) 57 s.logb.chain
    if r.2 then r.1.modLog fun l => { l with chkptBusy := true } else r.1.logChkptWrite none

/-! ### The ring (R378, R384) -/

/-- A write of LOG_RING_BASE_HI (R378): a valid base sets the ring and the tail's records are copied into it; those of before
the reset are marked FROM_TAIL. -/
def logRingBaseWriteRow (v : Word) (s : State) : State :=
  if s.logb.ringSet then { s with hold := mapDel s.hold Reg.LOG_RING_BASE_LO }
  else
    let lo := (mapFind s.hold Reg.LOG_RING_BASE_LO).getD (s.reg Reg.LOG_RING_BASE_LO) &&& 0xFFE00000
    let s0 := (({ s with hold := mapDel s.hold Reg.LOG_RING_BASE_LO }).setReg Reg.LOG_RING_BASE_LO lo).setReg Reg.LOG_RING_BASE_HI v
    if s0.dramFits (s0.reg64 Reg.LOG_RING_BASE_LO) (2 ^ 24) then
      let s1 := s0.modLog fun l => { l with ringSet := true }
      s1.bkp.tail.foldl (fun (s : State) r =>
        let b := if r.lseq < s.logb.startSeq then r.bytes.take 3 ++ leBytes 1 (byteAt r.bytes 3 ||| 8) ++ r.bytes.drop 4 else r.bytes
        s.dramWrite (s.logSlot r.lseq) b) s1
    else s0.event Reg.LOG_EVT 5

/-! ### Notes and clearing (R381, R385) -/

/-- The LOG_NOTE manifest (R381, R433): a class 16 record with the operand's 16 bytes; it completes with the record's LSEQ when
the record is written. -/
def manLogNote (n : Nat) (s : State) : State :=
  s.runManifest n 0x0060 fun mid b s =>
    s.modLog fun l => { l with raised := l.raised ++ [⟨16, 63, 0xFFFF, slice b 20 16, s.dt, s.tb.dtState == .locked, some mid⟩] }

/-- A read of LOG_NONCE_LO (R385): a fresh nonce, the previous one void, HI latched. -/
def logNonceReadRow (s : State) : State :=
  if s.key.trngFail then
    { s with logb := { s.logb with nonce := none }, rdata := 0, latch := mapSet s.latch Reg.LOG_NONCE_HI 0 }
  else
    let n := s.drawNonce
    { s.freshNext with
      logb := { s.logb with nonce := some n }
      rdata := BitVec.ofNat 32 n
      latch := mapSet s.latch Reg.LOG_NONCE_HI (BitVec.ofNat 32 (n / 2 ^ 32)) }

/-- A clear is refused (R385): its record, event and count, and the manifest's status. -/
def State.logClearRefuse (s : State) (mid reason status : Nat) : State :=
  (((s.logRaise 3 (unitCode 14) 0xFFFF [reason]).event Reg.LOG_EVT 2).count (Reg.LOG_CNT_LO 6)).finish0 mid status

/-- The message a clearing token covers (R385). -/
def State.logClearMsg (s : State) (last nonce : Nat) : List Byte := ascii "FNLOGCLR" ++ s.deviceId ++ leBytes 8 last ++ leBytes 8 nonce

/-- The LOG_CLEAR manifest (R385): the nonce, then LAST_SEQ, then the signature against LOG_CLR_SLOT; every attempt voids the
nonce. -/
def manLogClear (n : Nat) (buf : Option (List Byte)) (s : State) : State :=
  s.runManifest n 0x0061 fun mid b s =>
    if mBufLen b ≠ 64 then s.finish0 mid stInvalidParam
    else withBuf s mid buf fun sig =>
      let last := leAt b 24 8
      let s1 := s.modLog fun l => { l with nonce := none }
      match s.logb.nonce with
      | none => s1.logClearRefuse mid 3 stNonce
      | some nonce =>
        if last + 1 ≠ s.logb.nextSeq ∨ !s.logb.queue.isEmpty then s1.logClearRefuse mid 2 stStale
        else
          let slot := s1.fld Reg.LOG_CLR_SLOT 0 6
          if !s1.tokenSlotOk slot then (s1.keyUseErr.event Reg.KEY_EVT 3).logClearRefuse mid 1 stAuthFail
          else
            let r := s1.requestVerify (.verifyLogClear mid last) slot (s1.logClearMsg last nonce) (padTo 64 sig)
            if r.2 then r.1 else r.1.logClearRefuse mid 1 stAuthFail

/-- The clear itself, in one step of the writer (R385); a CHECKPOINT that waits for its signature comes before it, so LAST_SEQ is not the
newest record's then. -/
def State.logClearNow (s : State) (mid last : Nat) : State :=
  if last + 1 ≠ s.logb.nextSeq ∨ !s.logb.queue.isEmpty ∨ s.logb.chkptBusy then s.logClearRefuse mid 2 stStale
  else
    let n := s.logb.nextSeq - s.logb.oldest
    let s1 := { s with bkp := { s.bkp with tail := [] } }
    let s2 := s1.modLog fun l => { l with oldest := l.nextSeq }
    let e : LogRaise := ⟨2, unitCode 14, 0xFFFF, leBytes 4 n ++ leBytes 4 0 ++ leBytes 8 last, s.dt, s.tb.dtState == .locked, none⟩
    (((s2.logWrite e 0 []).event Reg.LOG_EVT 1).count (Reg.LOG_CNT_LO 5)).finish0 mid stDone

end Sys2Proof.Machine
end

