-- ==== Sys2Proof/Machine/Osc.lean ====
section
/-! DEFINITION. The oscillation unit (R190 to R227): signals, filters, bands, flows, evaluations, decisions, their settlement, folds,
extractions and result records. The coefficients of the filters and the arithmetic of the identification are open (Config, log entry 7). -/

namespace Sys2Proof.Machine

/-- The oscillation unit changed. -/
def State.modOsc (s : State) (f : Osc → Osc) : State := { s with osc := f s.osc }

/-! ### Settings (R217 to R219) -/

/-- Word i of group g. -/
def oscW (set : CfgSet) (g i : Nat) : Nat := (cfgWord set 6 0 (128 * g + 4 * i)).toNat
/-- Word i of signal entry n. -/
def oscSigW (set : CfgSet) (n i : Nat) : Nat := (cfgWord set 6 1 (32 * n + 4 * i)).toNat
/-- Word i of branch entry n. -/
def oscBrW (set : CfgSet) (n i : Nat) : Nat := (cfgWord set 6 2 (32 * n + 4 * i)).toNat

/-- TYPE of signal n. -/
def oscType (set : CfgSet) (n : Nat) : Nat := bitsOf (oscSigW set n 0) 0 4

/-- The signals of group g, in ascending order (R192). -/
def oscSignals (set : CfgSet) (g : Nat) : List Nat :=
  (List.range 4096).filter fun n => bitsOf (oscSigW set n 0) 8 8 == g && 1 ≤ oscType set n && oscType set n ≤ 7
/-- The branches of group g, in ascending order (R206). -/
def oscBranches (set : CfgSet) (g : Nat) : List Nat :=
  (List.range 2048).filter fun n => bitsOf (oscBrW set n 0) 0 1 == 1 && bitsOf (oscBrW set n 0) 8 8 == g

/-- An FP32 setting as a number. -/
def f32Of (w : Nat) : Rat := f32Rat (BitVec.ofNat 32 w)

/-- LO and HI of band b in mHz. -/
def oscBandEdges (set : CfgSet) (g b : Nat) : Nat × Nat := (bitsOf (oscW set g (16 + b)) 0 16, bitsOf (oscW set g (16 + b)) 16 16)
/-- The enabled bands of a group (R204). -/
def oscBands (set : CfgSet) (g : Nat) : List Nat := (List.range 16).filter fun b => oscBandEdges set g b != (0, 0)
/-- Whether a frequency lies in band b; bands may overlap (R205, R217). -/
def oscInBand (set : CfgSet) (g b : Nat) (f : Word) : Bool :=
  f32Finite f && decide (((oscBandEdges set g b).1 : Rat) ≤ f32Rat f * 1000) && decide (f32Rat f * 1000 ≤ ((oscBandEdges set g b).2 : Rat))
/-- The first enabled band that contains a frequency; 255 none (R207, R223). -/
def oscBandOf (set : CfgSet) (g : Nat) (f : Word) : Nat := ((oscBands set g).find? fun b => oscInBand set g b f).getD 255

/-- The analysis rate of a group at a quay rate, Q / D (R193). -/
def oscFa (set : CfgSet) (g rate : Nat) : Rat := (rate : Rat) / (oscD set g : Rat)
/-- BAND_TAU and BASE_TAU in s. -/
def oscBandTau (set : CfgSet) (g : Nat) : Rat := (bitsOf (oscW set g 8) 0 10 : Rat) / 10
def oscBaseTau (set : CfgSet) (g : Nat) : Rat := (bitsOf (oscW set g 8) 16 12 : Rat)
/-- N, H, and λ of R198 at an analysis rate. -/
def oscN (set : CfgSet) (g : Nat) : Nat := bitsOf (oscW set g 0) 24 6
def oscH (set : CfgSet) (g : Nat) : Nat := bitsOf (oscW set g 2) 24 6
def oscLambda (set : CfgSet) (g : Nat) (fa : Rat) : Rat := 1 - 1 / (fa * (bitsOf (oscW set g 2) 0 12 : Rat))

/-- The settings a change of which restarts a group (R212). -/
def oscKey (set : CfgSet) (g : Nat) : List Nat :=
  [bitsOf (oscW set g 0) 8 24, oscW set g 1, bitsOf (oscW set g 2) 0 12, bitsOf (oscW set g 2) 24 6] ++
    (oscSignals set g).flatMap fun n => [n, oscSigW set n 0, oscSigW set n 1, oscSigW set n 2, oscSigW set n 3, oscSigW set n 4]

/-- The settings a change of which restarts the bands of a group (R212). -/
def oscBandKey (set : CfgSet) (g : Nat) : List Nat := oscW set g 8 :: (List.range 16).map fun b => oscW set g (16 + b)

/-- PERSIST, CONF_MIN and GMIN of a group. -/
def oscPersist (set : CfgSet) (g : Nat) : Nat := bitsOf (oscW set g 5) 16 4
def oscConfMin (set : CfgSet) (g : Nat) : Nat := bitsOf (oscW set g 5) 0 10
def oscGmin (set : CfgSet) (g : Nat) : Nat := bitsOf (oscW set g 5) 24 7

/-! ### Signals (R190 to R192, R213) -/

/-- Whether a lane lies in the range of a berth. -/
def laneIn (x : BerthEnt) (l : Nat) : Bool := decide (x.laneBase ≤ l) && decide (l < x.laneBase + x.phnmr)

/-- Whether a signal uses a lane or slot outside its berth in a bank (R213). -/
def oscSigOut (set : CfgSet) (n : Nat) (bank : Bank) : Bool :=
  let t := oscType set n
  let a := bank.berth (bitsOf (oscSigW set n 3) 0 13)
  let b := bank.berth (bitsOf (oscSigW set n 3) 16 13)
  let la := bitsOf (oscSigW set n 1) 0 17
  let lb := bitsOf (oscSigW set n 2) 0 17
  if t = 1 then !laneIn a la
  else if t = 2 ∨ t = 6 ∨ t = 7 then !(laneIn a la && laneIn b lb)
  else if t = 5 then !(decide (a.anBase ≤ la) && decide (la < a.anBase + a.annmr))
  else false

/-- Whether a branch uses a lane outside its berth in a bank (R213). -/
def oscBrOut (set : CfgSet) (n : Nat) (bank : Bank) : Bool :=
  let a := bank.berth (bitsOf (oscBrW set n 3) 0 13)
  !(laneIn a (bitsOf (oscBrW set n 1) 0 17) && laneIn a (bitsOf (oscBrW set n 2) 0 17))

/-- Whether a signal or a branch of a group is stale: outside its berth in one of the banks that have served since its set became
active (R213). -/
def oscStale (set : CfgSet) (banks : List Bank) (g : Nat) : Bool :=
  (oscSignals set g).any (fun n => banks.any (oscSigOut set n)) || (oscBranches set g).any fun n => banks.any (oscBrOut set n)

/-- The phasor of a lane in an entry. -/
def Entry.lane (e : Entry) (l : Nat) : Word × Word := if e.laneBase ≤ l then nth (nanWord, nanWord) e.phasors (l - e.laneBase) else (nanWord, nanWord)

/-- a times the conjugate of b. -/
def mulConj (a b : Word × Word) : Rat × Rat :=
  (f32Mul a.1 b.1 + f32Mul a.2 b.2, f32Mul a.2 b.1 - f32Mul a.1 b.2)

/-- |v| of a phasor. -/
def phAbs (p : Word × Word) : Rat := f32Rat (sqrtF32 (f32Mul p.1 p.1 + f32Mul p.2 p.2))

/-- An angle (rad) of a signal or branch, unwrapped against the last one of the same state (R191). -/
def unwrapped (angles : List (Nat × Rat)) (k : Nat) (a : Rat) : Rat := match mapFind angles k with | some p => unwrapTo p a | none => a

/-- The unwrapped angle of an ANGLE signal whose berths supply entries (R190, R191). -/
def oscAngle (set : CfgSet) (angles : List (Nat × Rat)) (n : Nat) (a b : Entry) : Rat :=
  let z := mulConj (a.lane (bitsOf (oscSigW set n 1) 0 17)) (b.lane (bitsOf (oscSigW set n 2) 0 17))
  unwrapped angles n (argRat z.1 z.2)

/-- The entries that supply the two berths of a signal; BERTH_A alone where its TYPE uses one. -/
def oscEntries (set : CfgSet) (get : Nat → Option Entry) (n : Nat) : Option (Entry × Entry) :=
  let t := oscType set n
  let ba := bitsOf (oscSigW set n 3) 0 13
  match get ba, get (if t = 2 ∨ t = 6 ∨ t = 7 then bitsOf (oscSigW set n 3) 16 13 else ba) with
  | some a, some b => some (a, b)
  | _, _ => none

/-- The value of signal n before NORM, from the entries of its berths; none where an input is missing (R190). -/
def oscRaw (set : CfgSet) (fnom50 : Bool) (angles : List (Nat × Rat)) (n : Nat) (a b : Entry) : Option Rat :=
  let la := bitsOf (oscSigW set n 1) 0 17
  let va := a.lane la
  let vb := b.lane (bitsOf (oscSigW set n 2) 0 17)
  let t := oscType set n
  match t with
  | 1 => if phFinite va then some (phAbs va) else none
  | 2 => if phFinite va ∧ phFinite vb then some (oscAngle set angles n a b) else none
  | 3 => if f32Finite a.freq then some (f32Rat a.freq - (if fnom50 then 50 else 60)) else none
  | 4 => if f32Finite a.rocof then some (f32Rat a.rocof) else none
  | 5 => let w := nth nanWord a.analogs (la - a.anBase); if f32Finite w then some (f32Rat w) else none
  | _ =>
    if phFinite va ∧ phFinite vb then
      let z := mulConj va vb
      some (f32Of (oscSigW set n 5) * (if t = 6 then z.1 else z.2) / 1000000)
    else none

/-- The value of signal n, divided by its NORM; none where unobserved (R190, R192, R213). `banks` are those it must fit, first the one that
serves the quay. -/
def oscValue (set : CfgSet) (banks : List Bank) (angles : List (Nat × Rat)) (get : Nat → Option Entry) (n : Nat) : Option Word :=
  if banks.any (oscSigOut set n) then none
  else match oscEntries set get n with
    | some e =>
      let fnom50 := match banks with | k :: _ => (k.berth (bitsOf (oscSigW set n 3) 0 13)).fnom50 | [] => false
      match oscRaw set fnom50 angles n e.1 e.2 with
      | some q => let w := toF32 (q / f32Of (oscSigW set n 4)); if f32Finite w then some w else none
      | none => none
    | none => none

/-- The values of branch n: P, Q, the voltage angle unwrapped, ln U (R206); none of them without its two phasors or with U = 0. -/
def oscBranchRaw (set : CfgSet) (banks : List Bank) (angles : List (Nat × Rat)) (get : Nat → Option Entry) (n : Nat) : Option (List Rat) :=
  let k := f32Of (oscBrW set n 4)
  match get (bitsOf (oscBrW set n 3) 0 13) with
  | some e =>
    let v := e.lane (bitsOf (oscBrW set n 1) 0 17)
    let i := e.lane (bitsOf (oscBrW set n 2) 0 17)
    if banks.any (oscBrOut set n) ∨ !phFinite v ∨ !phFinite i ∨ phAbs v = 0 then none
    else
      let z := mulConj v i
      some [k * z.1 / 1000000, k * z.2 / 1000000, unwrapped angles (4096 + n) (argRat (f32Rat v.1) (f32Rat v.2)), lnRat (phAbs v)]
  | none => none

/-- The inputs of a group on a quay: its signals' values, then four values for each of its branches. -/
def oscInputs (set : CfgSet) (banks : List Bank) (g : Nat) (angles : List (Nat × Rat)) (get : Nat → Option Entry) : List (Option Word) :=
  (oscSignals set g).map (oscValue set banks angles get) ++ (oscBranches set g).flatMap fun n =>
    match oscBranchRaw set banks angles get n with
    | some l => l.map fun q => some (toF32 q)
    | none => List.replicate 4 none

/-- The angles kept after the inputs of a quay: those of the signals and branches observed on it (R191). -/
def oscAngles (set : CfgSet) (banks : List Bank) (g : Nat) (angles : List (Nat × Rat)) (get : Nat → Option Entry) : List (Nat × Rat) :=
  let a1 := (oscSignals set g).foldl (fun (m : List (Nat × Rat)) n =>
    match oscEntries set get n with
    | some e => if oscType set n = 2 ∧ (oscValue set banks angles get n).isSome then mapSet m n (oscAngle set angles n e.1 e.2) else m
    | none => m) angles
  (oscBranches set g).foldl (fun (m : List (Nat × Rat)) n =>
    match oscBranchRaw set banks angles get n with
    | some l => mapSet m (4096 + n) (nth 0 l 2)
    | none => m) a1

/-- The entry that supplies a berth in a settled evaluation or a fold (R192). -/
def State.oscSettledEntry (s : State) (q : Quay) (b : Nat) : Option Entry :=
  if q.sealErr ∨ !s.berthCounts q 0 b true then none else q.entry b

/-- The value that supplies a berth in a provisional evaluation: what the snapshot fixed (R192). -/
def oscProvEntry (q : Quay) (b : Nat) : Option Entry := mapFind (q.detOf 0).used b

/-! ### The state of a group for a quay (R196, R197, R212) -/

/-- Group g's committed state. -/
def State.oscGroup (s : State) (g : Nat) : OscGroup := (mapFind s.osc.groups g).getD {}

/-- The groups whose settings differ between two sets so that a commit from one to the other restarts them, or their bands (R212). -/
def oscRestartsOf (old new : CfgSet) (eff : Nat) : List OscRestart :=
  (List.range 256).flatMap fun g =>
    (if oscKey old g ≠ oscKey new g then [⟨g, eff, false⟩] else []) ++
      (if oscBandKey old g ≠ oscBandKey new g then [⟨g, eff, true⟩] else [])

/-- A commit notes what it restarts (R212). -/
def State.oscCommitted (s : State) (old new : CfgSet) (eff : Nat) : State :=
  s.modOsc fun o => { o with restarts := o.restarts ++ oscRestartsOf old new eff }

/-- How many restarts of a group, and of its bands, commits have brought by an instant, that of a validated commit to come included. -/
def State.oscEpoch (s : State) (g t : Nat) : Nat × Nat :=
  let next := match s.cfg.commit with
    | some c => if c.validated then oscRestartsOf s.cfg.active s.cfg.shadow c.eff else []
    | none => []
  let l := (s.osc.restarts ++ next).filter fun r => r.group == g && decide (r.eff ≤ t)
  ((l.filter fun r => !r.bands).length, (l.filter (·.bands)).length)

/-- A group's state as a quay's settings, grid and epochs leave it: unchanged, with its bands and flows restarted, or restarted. -/
def OscGroup.asFor (x : OscGroup) (set : CfgSet) (g gridStart : Nat) (ep : Nat × Nat) : OscGroup :=
  let key := oscKey set g
  let bk := oscBandKey set g
  if x.key ≠ key ∨ x.epoch ≠ ep.1 ∨ x.gridStart ≠ gridStart ∨ !x.started then
    { ({} : OscGroup) with epoch := ep.1, bandEpoch := ep.2, key := key, bandKey := bk, gridStart := gridStart, decCounter := x.decCounter,
                           me := x.me }
  else if x.bandKey ≠ bk ∨ x.bandEpoch ≠ ep.2 then
    { x with bandEpoch := ep.2, bandKey := bk, sigs := x.sigs.map fun (y : OscSigSt) => { y with bands := [] }, flows := [] }
  else x

/-- The committed state of a group as a quay finds it. -/
def State.oscFor (s : State) (q : Quay) (g : Nat) (x : OscGroup) : OscGroup :=
  x.asFor (s.quaySet q) g q.gridStart (s.oscEpoch g q.instant)

/-! ### Filters, band energies and energy flow (R194, R204, R206) -/

/-- LO and HI of band b in Hz. -/
def oscBandHz (set : CfgSet) (g b : Nat) : Rat × Rat := ((oscBandEdges set g b).1 / 1000, (oscBandEdges set g b).2 / 1000)

/-- A first-order average after a value, with a time constant, one analysis interval on. -/
def oscAverage (fa tau : Rat) (w : Word) (q : Rat) : Word := toF32 (f32Rat w + Config.avgGain tau (1 / fa) * (q - f32Rat w))

/-- Band b of a signal after a sample: E and, unless frozen, B average the square of the band-pass output (R204). -/
def OscBandSt.feed (x : OscBandSt) (set : CfgSet) (g : Nat) (fa : Rat) (b : Nat) (frozen : Bool) (w : Word) : OscBandSt :=
  let hz := oscBandHz set g b
  let f := Config.bandPass fa hz.1 hz.2 x.mem w
  let sq := f32Mul f.2 f.2
  { mem := f.1, e := oscAverage fa (oscBandTau set g) x.e sq, b := if frozen then x.b else oscAverage fa (oscBaseTau set g) x.b sq }

/-- A signal after its value on a quay (R194): the low-pass filter at the quay rate and, on an update quay, the high-pass filter and the
bands at the analysis rate. -/
def OscSigSt.feed (x : OscSigSt) (set : CfgSet) (g rate : Nat) (update : Bool) (frozen : Nat → Bool) (w : Word) : OscSigSt :=
  let fa := oscFa set g rate
  let lp := Config.lowPass4 (rate : Rat) (2 / 5 * fa) x.lp w
  if !update then { x with lp := lp.1 }
  else
    let hp := Config.highPass2 fa ((bitsOf (oscW set g 1) 0 16 : Rat) / 4000) x.hp lp.2
    { lp := lp.1, hp := hp.1, sample := hp.2,
      bands := (List.range 16).map fun b =>
        if (oscBands set g).contains b then (nth {} x.bands b).feed set g fa b (frozen b) hp.2 else {} }

/-- A branch in band b after P, Q, θ and ln U of an update quay (R206): the increments are those since the update quay before it. -/
def OscFlowSt.feed (x : OscFlowSt) (set : CfgSet) (g : Nat) (fa : Rat) (b : Nat) (v : List Word) : OscFlowSt :=
  let hz := oscBandHz set g b
  let f := (List.range 4).map fun i => Config.bandPass fa hz.1 hz.2 (nth [] x.mem i) (nth 0 v i)
  let out (i : Nat) : Rat := f32Rat (nth ([], 0) f i).2
  let (th, lu) : Rat × Rat := match x.last with | some l => (out 2 - f32Rat l.1, out 3 - f32Rat l.2) | none => (0, 0)
  { mem := f.map (·.1), last := some ((nth ([], 0) f 2).2, (nth ([], 0) f 3).2),
    w := oscAverage fa (oscBandTau set g) x.w ((out 0 * th + out 1 * lu) * fa) }

/-- The flow of a branch in a band. -/
def OscGroup.flow (x : OscGroup) (n b : Nat) : OscFlowSt := ((x.flows.find? fun f => f.1 == n && f.2.1 == b).map (·.2.2)).getD {}

/-- Whether the baselines of a band are frozen: a FORCED decision of it stood in the committed state (R204). -/
def OscGroup.frozen (x : OscGroup) (set : CfgSet) (g b : Nat) : Bool := decide (oscPersist set g ≤ nth 0 x.persist b)

/-- A group's state after the inputs of a quay, `ahead` quays after the last one folded; the model's prediction stands for an input that
is not observed (R192, R194, R195). -/
def OscGroup.feed (x : OscGroup) (set : CfgSet) (g rate : Nat) (update : Bool) (ahead : Nat) (inputs : List (Option Word)) : OscGroup :=
  let v (j : Nat) : Word := (nth none inputs j).getD (Config.oscPredict x.model ahead j)
  let nsig := (oscSignals set g).length
  let flows := (oscBranches set g).zipIdx.flatMap fun p => (oscBands set g).map fun b =>
    (p.1, b, (x.flow p.1 b).feed set g (oscFa set g rate) b ((List.range 4).map fun i => v (nsig + 4 * p.2 + i)))
  { x with
    sigs := (List.range nsig).map fun j => (nth {} x.sigs j).feed set g rate update (x.frozen set g) (v j)
    flows := if update then flows else x.flows }

/-- A group's state advanced over the first k of n quays of a GAP, by predictions alone (R197). -/
def OscGroup.overGap (x : OscGroup) (set : CfgSet) (g rate n : Nat) : Nat → OscGroup
  | 0 => x
  | k + 1 => (x.overGap set g rate n k).feed set g rate ((n - k) % oscD set g == 0) (k + 1) []

/-- A task of group g does its work: its modal engine is the one that ran the group last (R214). -/
def State.oscRan (s : State) (g : Nat) (t : Nat × Task) : State :=
  match t.2.engine with
  | some e => (s.taskWorked t.1).modOsc fun o => { o with groups := mapSet o.groups g { (mapFind o.groups g).getD {} with me := e } }
  | none => s.taskWorked t.1

/-! ### Energy flow (R207) -/

/-- The largest and the second largest positive net outflow, with the area of the first. -/
def topFlows (l : List (Nat × Rat)) : Option (Nat × Rat × Rat) :=
  let pos := l.filter fun x => 0 < x.2
  match pos.foldl (fun (m : Option (Nat × Rat)) x => match m with | some y => if y.2 < x.2 then some x else some y | none => some x) none with
  | none => none
  | some a =>
    let rest := (pos.filter fun x => x.1 != a.1).foldl (fun (m : Rat) x => if m < x.2 then x.2 else m) 0
    some (a.1, a.2, rest)

/-- SRC_AREA and SRC_CONF of a band on a quay (R207). -/
def oscSource (set : CfgSet) (g : Nat) (x : OscGroup) (band : Nat) : Nat × Nat :=
  if band = 255 then (255, 0)
  else
    let brs := oscBranches set g
    let w (n : Nat) : Rat := f32Rat (x.flow n band).w
    let fr (n : Nat) := bitsOf (oscBrW set n 0) 16 8
    let to_ (n : Nat) := bitsOf (oscBrW set n 0) 24 8
    let used := brs.filter fun n => fr n != to_ n
    let net (a : Nat) : Rat := sumRat ((used.filter fun n => fr n == a).map w) - sumRat ((used.filter fun n => to_ n == a).map w)
    let areas := ((used.map fr ++ used.map to_).filter (· != 255)).eraseDups.mergeSort (· ≤ ·)
    match topFlows (areas.map fun a => (a, net a)) with
    | some (a, o1, o2) =>
      if f32Of (oscW set g 10) ≤ o1 ∧ 2 * o2 ≤ o1 then (a, floorNat (1000 * (1 - o2 / o1))) else (255, 0)
    | none => (255, 0)

/-! ### Evaluation (R197, R202, R204, R205, R208) -/

/-- The ratio r of a signal in a band (R204). -/
def oscRatio (e b : Rat) : Rat := if b = 0 then (if e = 0 then 0 else 1000000) else e / b

/-- A band of a signal of a group, by group index. -/
def OscGroup.band (x : OscGroup) (j b : Nat) : OscBandSt := nth {} (nth ({} : OscSigSt) x.sigs j).bands b

/-- The signals that meet a band: group index and r (R205). -/
def oscMeets (set : CfgSet) (g : Nat) (x : OscGroup) (band : Nat) : List (Nat × Rat) :=
  (List.range (oscSignals set g).length).filterMap fun j =>
    let e := f32Rat (x.band j band).e
    let r := oscRatio e (f32Rat (x.band j band).b)
    if f32Of (oscW set g 6) ≤ r ∧ f32Of (oscW set g 7) ≤ e then some (j, r) else none

/-- The meeting signal with the largest r, the lowest index among equals. -/
def oscLead (l : List (Nat × Rat)) : Option (Nat × Rat) :=
  l.foldl (fun (m : Option (Nat × Rat)) x => match m with | some y => if y.2 < x.2 then some x else some y | none => some x) none

/-- Whether a mode meets the conditions of POORLY_DAMPED on one quay (R208). -/
def oscModeMeets (set : CfgSet) (g : Nat) (m : Mode) (amp : Word) : Bool :=
  oscConfMin set g ≤ m.conf && decide (f32Of (oscW set g 4) ≤ f32Rat amp) &&
    decide (f32Rat m.damp < (bitsOf (oscW set g 3) 0 16 : Rat) / 10000)

/-- AMP of a mode (R202): its state is the model's prediction with the innovations of the observed signals by the gain of R200. `x` is the
base, `y` its copy with the quay's values, `ahead` quays later. -/
def oscAmp (x y : OscGroup) (ahead : Nat) (inputs : List (Option Word)) (m : Mode) : Word :=
  let innov (j : Nat) : Rat :=
    if (nth none inputs j).isSome then f32Rat (nth ({} : OscSigSt) y.sigs j).sample - f32Rat (Config.oscPredSample x.model ahead j) else 0
  let p := Config.oscPredState x.model ahead m.eigen
  let re := p.1 + sumRat (m.gain.zipIdx.map fun k => k.1.1 * innov k.2)
  let im := p.2 + sumRat (m.gain.zipIdx.map fun k => k.1.2 * innov k.2)
  toF32 (2 * absOf re im * absOf m.refRaw.1 m.refRaw.2)

/-- The modes of a base as an evaluation reports them (R202, R207). -/
def oscModesOut (set : CfgSet) (g : Nat) (x y : OscGroup) (ahead : Nat) (inputs : List (Option Word)) : List OscModeOut :=
  x.modes.map fun m =>
    let band := oscBandOf set g m.freq
    let src := oscSource set g y band
    { mode := m, amp := oscAmp x y ahead inputs m, band := band, area := src.1, areaConf := src.2 }

/-- The decisions of an evaluation, without DEC_IDs (R205, R208, R224), from the base's copy with the quay's values. -/
def oscDecide (set : CfgSet) (g rate : Nat) (x : OscGroup) (modes : List OscModeOut) : List OscDec :=
  let blank : OscDec := ⟨0, 0, 0, false, false, 0, 0, 0, 0, 0, 0, 0, 255, 0, 0, 0, 0⟩
  let persist := oscPersist set g
  let poor := modes.filterMap fun m =>
    if oscModeMeets set g m.mode m.amp ∧ persist ≤ m.mode.persist + 1 then
      some { blank with
        kind := 1, severity := if f32Rat m.mode.damp < (bitsOf (oscW set g 3) 16 16 : Rat) / 10000 then 2 else 1,
        key := m.mode.modeId, freq := m.mode.freq, damp := m.mode.damp, amp := m.amp, conf := m.mode.conf, lead := m.mode.refSig,
        srcArea := m.area, srcConf := m.areaConf }
    else none
  let forced := (oscBands set g).filterMap fun b =>
    let meets := oscMeets set g x b
    match oscLead meets with
    | some (lead, r) =>
      if persist ≤ nth 0 x.persist b + 1 then
        let inBand := modes.filter fun m => oscInBand set g b m.mode.freq && oscConfMin set g ≤ m.mode.conf
        let strongest := inBand.foldl (fun (a : Option OscModeOut) m =>
          match a with | some y => if f32Rat y.amp < f32Rat m.amp then some m else some y | none => some m) none
        let cls := match strongest with
          | none => 0
          | some m => if f32Rat m.mode.damp < (bitsOf (oscW set g 9) 0 16 : Rat) / 10000 then 1 else 2
        let src := oscSource set g x b
        some { blank with
          kind := 2, severity := if cls = 2 ∨ 4 * f32Of (oscW set g 6) ≤ r then 2 else 1, key := b,
          freq := Config.bandPeak (oscFa set g rate) (oscBandHz set g b).1 (oscBandHz set g b).2 (x.band lead b).mem,
          damp := match strongest with | some m => m.mode.damp | none => nanWord,
          amp := sqrtF32 (2 * f32Rat (x.band lead b).e), conf := floorNat (1000 * (1 - 1 / r)),
          lead := lead, nmeet := meets.length, srcArea := src.1, srcConf := src.2, cls := cls, ratio := toF32 r }
      else none
    | none => none
  (poor.mergeSort fun a b => a.key ≤ b.key) ++ forced

/-- Whether a group restarts on a quay from a base (R212, R222): its state is cleared for it, and no earlier quay is its first update quay
since the same restart. -/
def State.oscFirst (s : State) (q : Quay) (g : Nat) (base : OscGroup) : Bool :=
  !(s.oscFor q g base).started &&
    !(s.aln.quays.any fun p => decide (p.seq < q.seq) && p.gridStart == q.gridStart && (s.oscEpoch g p.instant).1 == (s.oscEpoch g q.instant).1 &&
      oscKey (s.quaySet p) g == oscKey (s.quaySet q) g && p.k % oscD (s.quaySet p) g == cfgBits (s.quaySet p) 6 0 (128 * g + 2) 0 5)

/-- An evaluation of group g on a quay from a base (R197): a copy of the base advanced over the GAP quays by the model's predictions, then
given the quay's values. -/
def State.oscEvaluate (s : State) (q : Quay) (g : Nat) (base : OscGroup) (get : Nat → Option Entry) : OscEval :=
  let set := s.quaySet q
  let banks := s.quayBanks q
  let x := s.oscFor q g base
  let gap := q.seq - x.baseSeq - 1
  let inputs := oscInputs set banks g x.angles get
  let y := (if x.started then x.overGap set g q.rate gap gap else x).feed set g q.rate true (gap + 1) inputs
  let nsig := (oscSignals set g).length
  let obs := ((inputs.take nsig).filter Option.isSome).length
  let low := decide (obs < (oscGmin set g * nsig + 99) / 100)
  let modes := oscModesOut set g x y (gap + 1) inputs
  { seq := q.seq, group := g, base := x.baseSeq, gap := gap, obs := obs, nsig := nsig, lowObs := low, stale := oscStale set banks g,
    failed := x.extractFail, restarted := s.oscFirst q g base, modes := modes,
    decs := if low then [] else oscDecide set g q.rate y modes }

/-! ### Decisions on the ALM channel (R209) -/

/-- DEC_IDs given to the decisions of group g that are new, in order. -/
def State.oscNumber (s : State) (g : Nat) : List OscDec → State × List OscDec
  | [] => (s, [])
  | d :: ds =>
    let x := s.oscGroup g
    let s1 := s.modOsc fun o => { o with groups := mapSet o.groups g { x with decCounter := (x.decCounter + 1) % 2 ^ 24 } }
    let (s2, rest) := State.oscNumber s1 g ds
    (s2, { d with decId := g * 2 ^ 24 + x.decCounter } :: rest)

/-- A decision sent to the alarm unit. -/
def State.oscSend (s : State) (op : AlmOp) (g seq : Nat) (d : OscDec) : State :=
  s.almSend { op := op, src := 1, sub := g, kind := d.kind, key := d.key, sev := d.severity, decId := d.decId, quaySeq := seq, conf := d.conf }

/-- Decisions sent one after another. -/
def State.oscSendAll (s : State) (op : AlmOp) (g seq : Nat) (l : List OscDec) : State := l.foldl (fun s d => s.oscSend op g seq d) s

/-! ### Records (R221 to R224) -/

/-- A mode line. -/
def OscModeOut.bytes (m : OscModeOut) : List Byte :=
  padTo 64 (leBytes 2 m.mode.modeId ++ leBytes 2 m.mode.conf ++ leBytes 4 m.mode.freq.toNat ++ leBytes 4 m.mode.damp.toNat ++
    leBytes 4 m.amp.toNat ++ leBytes 4 m.mode.energyShare.toNat ++ leBytes 1 m.mode.refSig ++ leBytes 1 m.band ++ leBytes 1 m.area ++
    leBytes 1 0 ++ leBytes 2 m.areaConf ++ leBytes 2 m.mode.age ++ leBytes 4 m.mode.fstd.toNat ++ leBytes 4 m.mode.dstd.toNat)

/-- A decision entry. -/
def OscDec.bytes (d : OscDec) : List Byte :=
  leBytes 1 (d.kind + 16 * d.status) ++ leBytes 1 (d.severity + 4 * b2n d.incomplete + 8 * b2n d.sevChg) ++ leBytes 2 d.key ++
    leBytes 4 d.freq.toNat ++ leBytes 4 d.damp.toNat ++ leBytes 4 d.amp.toNat ++ leBytes 2 d.conf ++ leBytes 1 d.lead ++
    leBytes 1 d.nmeet ++ leBytes 1 d.srcArea ++ leBytes 1 d.cls ++ leBytes 2 d.srcConf ++ leBytes 4 d.ratio.toNat ++ leBytes 4 d.decId

/-- A shape block. -/
def shapeBytes (l : List (Word × Word)) : List Byte :=
  (List.range 64).flatMap fun j => let p := nth (nanWord, nanWord) l j; leBytes 4 p.1.toNat ++ leBytes 4 p.2.toNat

/-- Bytes with a CRC-32C put at byte 60, over the whole with that field zero. -/
def withCrc60 (b : List Byte) : List Byte := b.take 60 ++ leBytes 4 (crc32c b) ++ b.drop 64

/-- A record of an evaluation (R222). -/
def State.oscRecord (s : State) (q : Quay) (e : OscEval) (settled : Bool) (outcome : Nat) (decs : List OscDec) : List Byte :=
  let out := s.fld Reg.OSC_CTRL 9 2
  let shapes := if !settled then []
    else if out = 2 then e.modes
    else if out = 1 then e.modes.filter fun m => decs.any fun d => d.kind == 1 && d.key == m.mode.modeId
    else []
  let lines := 1 + e.modes.length + (decs.length + 1) / 2 + 8 * shapes.length
  let dec := decs.flatMap OscDec.bytes
  let head := leBytes 1 1 ++ leBytes 1 (b2n settled) ++ leBytes 1 e.group ++ leBytes 1 lines ++ leBytes 1 e.modes.length ++
    leBytes 1 decs.length ++ leBytes 1 shapes.length ++
    leBytes 1 (b2n e.lowObs + 2 * b2n (outcome == 4) + 4 * b2n e.stale + 8 * b2n e.failed + 16 * b2n (bitsOf q.tq.toNat 7 3 != 1) +
      32 * b2n e.restarted) ++
    leBytes 8 q.seq ++ tsBytes q.instant ++ leBytes 2 (if settled then outcome else 0) ++ leBytes 2 (min e.gap 65535) ++ leBytes 8 e.base ++
    leBytes 2 e.obs ++ leBytes 2 e.nsig ++ tsBytes s.dt ++ leBytes 8 0
  withCrc60 (head ++ e.modes.flatMap OscModeOut.bytes ++ padTo ((decs.length + 1) / 2 * 64) dec ++ shapes.flatMap fun m => shapeBytes m.mode.shape)

/-- Lines written to a ring of 2^log lines of 64 bytes, wrapping at its end. -/
def State.ringLines (s : State) (base log wr : Nat) (b : List Byte) : State :=
  (chunks 64 (b.length / 64) b).zipIdx.foldl (fun (s : State) l => s.dramWrite (base + (wr + l.2) % 2 ^ log * 64) l.1) s

/-- The records of a ring that still stand after n more lines from line wr on, and how many do not. -/
def ringKeep (recs : List (Nat × Nat)) (log wr n : Nat) : List (Nat × Nat) × Nat :=
  let keep := recs.filter fun r => wr + n ≤ r.1 + 2 ^ log
  (keep, recs.length - keep.length)

/-- A record written to the oscillation ring and, when settled and asked for, copied to the host (R221). -/
def State.oscRecordWrite (s : State) (q : Quay) (e : OscEval) (settled : Bool) (outcome : Nat) (decs : List OscDec) : State :=
  if !s.oscEn ∨ (!settled ∧ !s.bit Reg.OSC_CTRL 8) then s
  else
    let s0 := if e.lowObs then s.count (Reg.OSC_CNT_LO 7) else s
    let b := s0.oscRecord q e settled outcome decs
    let wr := s0.reg64 Reg.OSC_RING_WR_LO
    let log := s0.fld Reg.OSC_RING_SIZE 0 5
    let n := b.length / 64
    let (keep, gone) := ringKeep s0.osc.records log wr n
    let s1 := ((s0.ringLines (s0.reg64 Reg.OSC_RING_BASE_LO) log wr b).setReg64 Reg.OSC_RING_WR_LO (wr + n)).modOsc fun o =>
      { o with records := keep ++ [(wr, n)] }
    let s2 := if gone = 0 then s1 else (s1.countBy (Reg.OSC_CNT_LO 9) gone).event Reg.OSC_EVT 5
    if settled ∧ s2.bit Reg.OSC_CTRL 3 then s2.tugDeliver (unitCode 6) ⟨s2.fld Reg.OSC_CTRL 4 4, 3, b, n, [], s2.dt, 0⟩ else s2

/-! ### The rows -/

/-- EN is 0: the unit's tasks that have not started are withdrawn, and the folds and extractions that were to run by them (R225). -/
def State.oscStop (s : State) : State :=
  let s1 := s.withdrawOf 37 fun _ _ => true
  s1.modOsc fun o => { o with
    foldDue := o.foldDue.filter fun (x : Nat × Nat) => s1.taskStands 37 3 x.2 (x.1 % 2 ^ 32)
    extractDue := o.extractDue.filter fun g => s1.taskStands 37 4 g (2 ^ 32 - 1) }

/-- A write of OSC_CTRL (R225, R226). -/
def oscEnWriteRow (v : Word) (s : State) : State :=
  let s1 := if v.getLsbD 1 then s.clearCounters (Reg.OSC_CNT_LO 0) 12 else s
  let was := s1.oscEn
  let log := s1.fld Reg.OSC_RING_SIZE 0 5
  let ok := s1.dramFits (s1.reg64 Reg.OSC_RING_BASE_LO) (2 ^ log * 64) && decide (16 ≤ log) && decide (log ≤ 24)
  if v.getLsbD 0 ∧ !was then
    if ok then
      ((s1.writeReg Reg.OSC_CTRL v).setReg64 Reg.OSC_RING_WR_LO 0).modOsc fun o => { o with records := [] }
    else (s1.writeReg Reg.OSC_CTRL (v &&& ~~~1#32)).event Reg.OSC_EVT 4
  else if was ∧ !v.getLsbD 0 then (s1.writeReg Reg.OSC_CTRL v).oscStop
  else s1.writeReg Reg.OSC_CTRL v

/-- The bases that the snapshot of detector 0 fixes (R197). -/
def State.oscBases (s : State) (seq : Nat) : State :=
  match s.quay? seq with
  | some q => s.modOsc fun o => { o with bases := o.bases ++ (s.oscDue q).map fun g => (seq, g, s.oscGroup g) }
  | none => s

/-- The snapshot of detector d with, for detector 0, the bases of its groups (R164, R197). -/
def State.takeSnapshot (s : State) (seq d : Nat) : State :=
  match s.quay? seq with
  | some q => if (q.detOf d).started then s else let s1 := s.snapshot seq d; if d = 0 then s1.oscBases seq else s1
  | none => s

/-- The base of a settlement task that starts: the committed state of that moment (R197). -/
def State.oscRebase (s : State) (seq g : Nat) : State :=
  s.modOsc fun o => { o with
    bases := (o.bases.filter fun (x : Nat × Nat × OscGroup) => !(x.1 == seq && x.2.1 == g)) ++ [(seq, g, s.oscGroup g)] }

/-- The quays that the fold of group g on update quay q takes (R195). -/
def State.oscFoldTaken (s : State) (g : Nat) (q : Quay) : List Quay :=
  s.aln.quays.filter fun p => q.seq < p.seq + oscD (s.quaySet q) g && p.seq ≤ q.seq && p.gridStart == q.gridStart

/-- What a settlement or fold task of group g reads, fixed as it starts (R192); of quays that are held no longer nothing is kept. -/
def State.oscReadFix (s : State) (seq g typ : Nat) (qs : List Quay) : State :=
  s.modOsc fun o => { o with
    reads := (o.reads.filter fun (r : OscRead) => (s.quay? r.seq).isSome && !(r.seq == seq && r.group == g && r.typ == typ)) ++ [⟨seq, g, typ, qs⟩] }

/-- The quays that a task of group g on a quay reads, if one has fixed them. -/
def State.oscReadOf (s : State) (seq g typ : Nat) : Option (List Quay) :=
  (s.osc.reads.find? fun r => r.seq == seq && r.group == g && r.typ == typ).map (·.quays)

/-- The quay that a settlement of group g reads: as it stood at the start of its task (R192). -/
def State.oscReadQuay (s : State) (q : Quay) (g : Nat) : Quay := (((s.oscReadOf q.seq g 2).bind List.head?).getD q)

/-- A task of group g on a quay has done its work: what it read is dropped. -/
def State.oscReadDrop (s : State) (seq g typ : Nat) : State :=
  s.modOsc fun o => { o with reads := o.reads.filter fun (r : OscRead) => !(r.seq == seq && r.group == g && r.typ == typ) }

/-- The base of the evaluations of group g on a quay. -/
def State.oscBase (s : State) (seq g : Nat) : OscGroup :=
  ((s.osc.bases.find? fun x => x.1 == seq && x.2.1 == g).map (·.2.2)).getD (s.oscGroup g)

/-- The quay that a task's tag names (R389). -/
def State.taskQuay (s : State) (t : Task) : Option Quay := s.aln.quays.find? fun q => q.seq % 2 ^ 32 == t.quayTag

/-- Whether a provisional evaluation of group g is still to be made on a quay: detector 0 is not settled on it, and none is held. -/
def State.oscProvDue (s : State) (q : Quay) (g : Nat) : Bool :=
  (q.detOf 0).outcome == 0 && (q.detOf 0).routed.isNone && !(s.osc.prov.any fun e => e.seq == q.seq && e.group == g)

/-- The provisional task of group g that runs, with its quay. -/
def State.oscProvNext (s : State) (g : Nat) : Option ((Nat × Task) × Quay) :=
  match s.workTask 37 1 g with
  | some t => ((s.taskQuay t.2).filter fun q => s.oscProvDue q g).map fun q => (t, q)
  | none => none

/-- A provisional evaluation of group g, by the task that runs (R29, R210). -/
def oscProvEvalRow (g : Nat) (s : State) : State :=
  match s.oscProvNext g with
  | none => s
  | some (t, q) =>
    let s1 := s.oscRan g t
    let e := s1.oscEvaluate q g (s1.oscBase q.seq g) (oscProvEntry q)
    let (s2, decs) := s1.oscNumber g e.decs
    let e2 := { e with decs := decs }
    let s3 := (s2.modOsc fun o => { o with prov := o.prov ++ [e2] }).count (Reg.OSC_CNT_LO 0)
    let s4 := if decs.isEmpty then s3 else s3.event Reg.OSC_EVT 0
    let s5 := (s4.oscSendAll .provisional g q.seq decs).oscRecordWrite q e2 false 0 decs
    if (q.detOf 0).quorumAt + 300 * subPerUs < s5.dt then (s5.count (Reg.OSC_CNT_LO 11)).event Reg.OSC_EVT 7 else s5

/-- Decisions in the order of kind and then key. -/
def oscOrder (l : List OscDec) : List OscDec := l.mergeSort fun a b => a.kind < b.kind || (a.kind == b.kind && a.key ≤ b.key)

/-- The settle notice of group g on a quay (R270). -/
def State.oscNotice (s : State) (g seq o : Nat) : State :=
  s.almSend { op := .settle, src := 1, sub := g, kind := 0, key := 0, sev := 0, quaySeq := seq, outcome := o }

/-- The settlement of group g on a quay by the outcome of detector 0 (R211). -/
def State.oscSettle (s : State) (q : Quay) (g o : Nat) : State :=
  let prov := s.osc.prov.find? fun e => e.seq == q.seq && e.group == g
  let pd := match prov with | some e => e.decs | none => []
  let s0 := (s.oscReadDrop q.seq g 2).modOsc fun x => { x with
    prov := x.prov.filter fun (e : OscEval) => !(e.seq == q.seq && e.group == g)
    bases := x.bases.filter fun (e : Nat × Nat × OscGroup) => !(e.1 == q.seq && e.2.1 == g) }
  let late (s : State) : State :=
    if (q.detOf 0).routedAt + 300 * subPerUs < s.dt then (s.count (Reg.OSC_CNT_LO 11)).event Reg.OSC_EVT 7 else s
  match o with
  | 1 =>
    match prov with
    | none => s0.oscNotice g q.seq o
    | some e =>
      let conf := (oscOrder pd).map fun d => { d with status := 1 }
      let s1 := (s0.oscSendAll .confirmed g q.seq conf).countBy (Reg.OSC_CNT_LO 4) conf.length
      let s2 := if conf.isEmpty then s1 else s1.event Reg.OSC_EVT 0
      (s2.oscNotice g q.seq o).oscRecordWrite q e true o conf
  | 2 | 4 | 5 =>
    let e := s0.oscEvaluate q g (s.oscBase q.seq g) (s0.oscSettledEntry (s.oscReadQuay q g))
    let same (a b : OscDec) : Bool := a.kind == b.kind && a.key == b.key
    let gone := (oscOrder (pd.filter fun d => !(e.decs.any (same d)))).map fun d => { d with status := 2 }
    let conf := oscOrder (e.decs.filterMap fun d => (pd.find? (same d)).map fun p =>
      { d with status := 1, decId := p.decId, sevChg := p.severity != d.severity })
    let fresh := oscOrder (e.decs.filter fun d => !(pd.any (same d)))
    let (s1, news0) := s0.oscNumber g fresh
    let news := news0.map fun d => { d with status := 3, incomplete := o == 4 }
    let s2 := ((s1.oscSendAll .retracted g q.seq gone).oscSendAll .confirmed g q.seq conf).oscSendAll .settledNew g q.seq news
    let s3 := (((s2.count (Reg.OSC_CNT_LO 1)).countBy (Reg.OSC_CNT_LO 4) conf.length).countBy (Reg.OSC_CNT_LO 5) gone.length).countBy
      (Reg.OSC_CNT_LO 6) news.length
    let s4 := if conf.isEmpty ∧ news.isEmpty then s3 else s3.event Reg.OSC_EVT 0
    let s5 := if gone.isEmpty then s4 else s4.event Reg.OSC_EVT 1
    late ((s5.oscNotice g q.seq o).oscRecordWrite q e true o (gone ++ conf ++ news))
  | 3 => s0.oscNotice g q.seq o
  | _ => s0

/-- The folds of a quay, due after the settlement of detector 0 with any outcome but DISABLED (R195). -/
def State.oscFoldsDue (s : State) (q : Quay) (o : Nat) : State :=
  if o = 6 then s
  else (s.oscDue q).foldl (fun (s : State) g =>
    (s.modOsc fun x => { x with foldDue := x.foldDue ++ [(q.seq, g)] }).wantTask ⟨2, 4, 37, 3, s.oscMe g, none, 0, q.seq % 2 ^ 32, g⟩) s

/-- The provisional decisions of group g on a quay are retracted without an evaluation. DESIGN CHOICE (log entry 73): so settles a group
whose settlement task may not run, its unit being off. -/
def State.oscRetract (s : State) (q : Quay) (g o : Nat) : State :=
  let gone := oscOrder (((s.osc.prov.filter fun e => e.seq == q.seq && e.group == g).flatMap (·.decs)).map fun (d : OscDec) => { d with status := 2 })
  let s1 := ((s.modOsc fun x => { x with
    prov := x.prov.filter fun (e : OscEval) => !(e.seq == q.seq && e.group == g)
    bases := x.bases.filter fun (e : Nat × Nat × OscGroup) => !(e.1 == q.seq && e.2.1 == g) }).oscSendAll .retracted g q.seq gone).countBy
      (Reg.OSC_CNT_LO 5) gone.length
  (if gone.isEmpty then s1 else s1.event Reg.OSC_EVT 1).oscNotice g q.seq o

/-- Group g is settled on a quay; with the last group of its quay detector 0 is settled (R170, R211). -/
def State.oscSettled (s : State) (seq g o : Nat) : State :=
  let s1 := s.modOsc fun x => { x with settleDue := x.settleDue.erase (seq, g) }
  if s1.osc.settleDue.any fun x => x.1 == seq then s1
  else
    let s2 := s1.detFinish seq 0 o
    match s2.quay? seq with
    | some q => s2.oscFoldsDue q o
    | none => s2

/-- Whether an outcome is settled by an evaluation, which a task makes (R211, R251). -/
def needsTask (o : Nat) : Bool := o == 2 || o == 4 || o == 5

/-- The settlement of group g on the quay where it is due first and can be made (R211): an evaluation by the settlement task that runs
(R29), a confirmation or a skip by none. -/
def oscSettleEvalRow (g : Nat) (s : State) : State :=
  let ready (seq : Nat) : Option (Quay × Nat × Option (Nat × Task)) :=
    match s.quay? seq with
    | none => none
    | some q =>
      let o := (q.detOf 0).routed.getD 3
      if !needsTask o then some (q, o, none)
      else if !s.taskStands 37 2 g (seq % 2 ^ 32) then some (q, o, none)
      else ((s.workTask 37 2 g).filter fun t => t.2.quayTag == seq % 2 ^ 32).map fun t => (q, o, some t)
  match (s.osc.settleDue.filter fun x => x.2 == g).findSome? fun x => ready x.1 with
  | none => s
  | some (q, o, none) => (if needsTask o then s.oscRetract q g o else s.oscSettle q g o).oscSettled q.seq g o
  | some (q, o, some t) => ((s.oscRan g t).oscSettle q g o).oscSettled q.seq g o

/-! ### Folds (R195, R196) and extractions (R198 to R201) -/

/-- A group's state with the quays of a fold fed to it, oldest first; the last of them is the update quay (R195). With it its inputs. -/
def State.oscFoldQuays (s : State) (set : CfgSet) (g seq : Nat) : List Quay → OscGroup → List (Option Word) → OscGroup × List (Option Word)
  | [], x, i => (x, i)
  | q :: qs, x, _ =>
    let i := oscInputs set (s.quayBanks q) g x.angles (s.oscSettledEntry q)
    let a := oscAngles set (s.quayBanks q) g x.angles (s.oscSettledEntry q)
    s.oscFoldQuays set g seq qs { x.feed set g q.rate (q.seq == seq) (q.seq - x.baseSeq) i with angles := a } i

/-- The staging block of a group's checkpoint: the one it has, or the lowest free one within the quota (R41, R42). -/
def State.oscBlock (s : State) (g : Nat) : Option Nat :=
  match s.osc.checkpoints.find? fun c => c.1 == g && s.leases.any fun l => l.pool == 5 && l.index == c.2.1 && l.owner == some 37 with
  | some c => some c.2.1
  | none => if s.quota 37 5 ≤ s.leaseHeld 5 37 then none else (List.range 256).find? (s.leaseFree 5)

/-- The committed state of group g checkpointed to a DRAM staging block (R41, R196). -/
def State.oscCheckpoint (s : State) (g : Nat) : State :=
  match s.oscBlock g with
  | some i => ((if s.leaseFree 5 i then s.leaseTake 5 i 37 else s).modOsc fun o => { o with
      checkpoints := (o.checkpoints.filter fun (c : Nat × Nat × OscGroup) => c.1 != g) ++ [(g, i, s.oscGroup g)] })
  | none => s

/-- Whether the fold of group g would write the copy that a task that has started reads: one whose base is no longer the committed state
(R196). -/
def State.oscFoldWaits (s : State) (g : Nat) : Bool :=
  s.plt.tasks.any fun t => t.2.begun && t.2.owner == 37 && (t.2.typ == 1 || t.2.typ == 2) && t.2.arg == g &&
    s.osc.bases.any fun b => b.1 % 2 ^ 32 == t.2.quayTag && b.2.1 == g && b.2.2.baseSeq != (s.oscGroup g).baseSeq

/-- The committed state of group g after the fold of update quay q (R195): the quays n − D + 1 to n through the filters, the decimated
sample into the identification, and the persistence counters. -/
def State.oscFolded (s : State) (g : Nat) (q : Quay) : OscGroup :=
  let set := s.quaySet q
  let x := s.oscFor q g (s.oscGroup g)
  let ahead := q.seq - x.baseSeq
  let qs := (s.oscReadOf q.seq g 3).getD (s.oscFoldTaken g q)
  let (y, inputs) := s.oscFoldQuays set g q.seq qs x []
  let nsig := (oscSignals set g).length
  let seen := (inputs.take nsig).map Option.isSome
  let modes := y.modes.map fun m =>
    { m with persist := if oscModeMeets set g m (oscAmp x y ahead inputs m) then m.persist + 1 else 0 }
  let persist := (List.range 16).map fun b =>
    if (oscBands set g).contains b ∧ !(oscMeets set g y b).isEmpty then nth 0 x.persist b + 1 else 0
  { y with
    started := true, baseSeq := q.seq, folds := x.folds + 1, modes := modes, persist := persist,
    obsFrac := (((seen.filter id).length, nsig) :: x.obsFrac).take 8,
    model := Config.oscIdentify (oscN set g) (oscH set g) (oscLambda set g (oscFa set g q.rate)) x.model (y.sigs.map (·.sample)) seen }

/-- The fold of group g by the task that runs (R29, R195); it waits for a task that reads the copy it would write (R196). -/
def oscFoldRow (g : Nat) (s : State) : State :=
  match s.workTask 37 3 g with
  | none => s
  | some t =>
    match s.osc.foldDue.find? fun x => x.2 == g && x.1 % 2 ^ 32 == t.2.quayTag with
    | none => s
    | some (seq, _) =>
      if s.oscFoldWaits g then s
      else
        let s1 := (s.oscRan g t).modOsc fun o => { o with foldDue := o.foldDue.erase (seq, g) }
        match s1.quay? seq with
        | none => s1
        | some q =>
          let y := s1.oscFolded g q
          let s2 := (((s1.oscReadDrop seq g 3).modOsc fun o => { o with groups := mapSet o.groups g y }).count (Reg.OSC_CNT_LO 2)).oscCheckpoint g
          if y.folds % max 1 (bitsOf (oscW (s1.quaySet q) g 2) 16 8) = 0 then
            (s2.modOsc fun o => { o with extractDue := o.extractDue ++ [g] }).wantTask ⟨2, 3, 37, 4, s2.oscMe g, none, 0, 2 ^ 32 - 1, g⟩
          else s2

/-- The groups that a fenced modal engine held are reloaded from their last checkpoints, or start again where none stands (R216). -/
def State.oscReload (s : State) (e : Nat) : State :=
  s.modOsc fun o => { o with groups := o.groups.map fun (x : Nat × OscGroup) =>
    if x.2.me = e then
      let y := match o.checkpoints.find? fun c => c.1 == x.1 && s.leases.any fun l => l.pool == 5 && l.index == c.2.1 && l.owner == some 37 with
        | some c => c.2.2
        | none => {}
      (x.1, { y with decCounter := x.2.decCounter, me := x.2.me })
    else x }

/-- A complex number divided by another, as FP32 words; NaN by 0. -/
def divComplex (a b : Rat × Rat) : Word × Word :=
  let n := b.1 * b.1 + b.2 * b.2
  if n = 0 then (nanWord, nanWord) else pairF32 ((a.1 * b.1 + a.2 * b.2) / n, (a.2 * b.1 - a.1 * b.2) / n)

/-- The index with the largest magnitude, the lowest among equals. -/
def shapeRef (l : List (Rat × Rat)) : Nat :=
  let m (p : Rat × Rat) : Rat := p.1 * p.1 + p.2 * p.2
  (l.zipIdx.foldl (fun (b : Option (Rat × Nat)) p => match b with
    | some y => if y.1 < m p.1 then some (m p.1, p.2) else some y
    | none => some (m p.1, p.2)) none).elim 0 (·.2)

/-- CONF of a mode (R201). -/
def oscConf (age : Nat) (f fstd dstd energy : Word) (obs : List (Nat × Nat)) : Nat :=
  if age < 7 ∨ obs.isEmpty ∨ f32Rat f = 0 ∨ f32Special fstd ∨ f32Special dstd then 0
  else
    let pos (q : Rat) : Rat := if q < 0 then 0 else q
    let stab := pos (1 - f32Rat fstd / (f32Rat f / 20)) * pos (1 - f32Rat dstd * 50)
    let e := f32Rat energy * 4
    let en := if 1 < e then 1 else e
    let data := sumRat (obs.map fun o => if o.2 = 0 then 0 else (o.1 : Rat) / (o.2 : Rat)) / (obs.length : Rat)
    min 1000 (floorNat (1000 * stab * en * data))

/-- Pairs of R199 taken greedily. -/
def greedyPairs : List (Nat × Nat) → List (Nat × Nat) → List (Nat × Nat)
  | [], acc => acc
  | p :: ps, acc => if acc.any fun x => x.1 == p.1 || x.2 == p.2 then greedyPairs ps acc else greedyPairs ps (acc ++ [p])

/-- The frequency and the damping ratio of an eigenvalue z that is not real at an analysis rate, from s = Fa · ln z (R198). -/
def oscPole (fa : Rat) (z : Rat × Rat) : Rat × Rat :=
  let re := fa * lnRat (z.1 * z.1 + z.2 * z.2) / 2
  let im := fa * argRat z.1 z.2
  (absRat im / (2 * piRat), -re / absOf re im)

/-- The standard deviation of FP32 words (R200). -/
def oscSpread (l : List Word) : Word :=
  let n : Rat := (l.length : Rat)
  let mean := sumRat (l.map f32Rat) / n
  let sq := sumRat (l.map fun w => (f32Rat w - mean) * (f32Rat w - mean))
  if sq = 0 then 0 else sqrtF32 (sq / (if Config.stdSample then n - 1 else n))

/-- A pair of an extraction: eigenvalue, frequency and damping, energy share, C × v and gain by group index. -/
structure OscPair where
  z : Rat × Rat
  freq : Word
  damp : Word
  energy : Word
  raw : List (Rat × Rat)
  gain : List (Rat × Rat)
deriving DecidableEq, Repr

/-- The modes that eigenvalues give (R198): one of each complex pair, its frequency from FMIN to FMAX, at most 16, by descending share. -/
def oscPairs (set : CfgSet) (g : Nat) (fa : Rat) (l : List ((Rat × Rat) × Word × List (Rat × Rat) × List (Rat × Rat))) : List OscPair :=
  let lo := (bitsOf (oscW set g 1) 0 16 : Rat) / 1000
  let hi := (bitsOf (oscW set g 1) 16 16 : Rat) / 1000
  let kept := (l.filter fun m => decide (0 < m.1.2)).filterMap fun m =>
    let p := oscPole fa m.1
    if lo ≤ p.1 ∧ p.1 ≤ hi then some { z := m.1, freq := toF32 p.1, damp := toF32 p.2, energy := m.2.1, raw := m.2.2.1, gain := m.2.2.2 } else none
  (kept.mergeSort fun (a b : OscPair) => f32Rat b.energy ≤ f32Rat a.energy).take 16

/-- The pairs (new, old) of R199, by increasing |Δf|, each mode once. -/
def oscMatches (news : List OscPair) (olds : List Mode) : List (Nat × Nat) :=
  let cand := (news.zipIdx.flatMap fun n => olds.zipIdx.filterMap fun o =>
    let df := absRat (f32Rat n.1.freq - f32Rat o.1.freq)
    if df ≤ max (1 / 50) (f32Rat n.1.freq / 20) ∧ absRat (f32Rat n.1.damp - f32Rat o.1.damp) ≤ 1 / 20 then some (df, n.2, o.2) else none).mergeSort
      fun a b => a.1 ≤ b.1
  greedyPairs (cand.map fun c => c.2) []

/-- The mode that a pair becomes (R199 to R201): the matched mode of the list before it goes on, and a new one takes the next MODE_ID. -/
def OscPair.mode (p : OscPair) (nsig nextId : Nat) (obs : List (Nat × Nat)) (old : Option Mode) : Mode :=
  let age := match old with | some m => min (m.age + 1) 65535 | none => 0
  let hist := ((p.freq, p.damp) :: (match old with | some m => m.hist | none => [])).take 8
  let fstd := if age < 7 then nanWord else oscSpread (hist.map (·.1))
  let dstd := if age < 7 then nanWord else oscSpread (hist.map (·.2))
  let raws := p.raw.take nsig
  let ref := shapeRef raws
  let z := nth (0, 0) raws ref
  { modeId := match old with | some o => o.modeId | none => nextId
    freq := p.freq, damp := p.damp, energyShare := p.energy, fstd := fstd, dstd := dstd
    conf := oscConf age p.freq fstd dstd p.energy obs, age := age, refSig := ref
    shape := (List.range 64).map fun j =>
      if j < nsig then (if j = ref then (0x3F800000, 0) else divComplex (nth (0, 0) raws j) z) else (nanWord, nanWord)
    refRaw := z, gain := p.gain.take nsig, eigen := p.z
    persist := match old with | some o => o.persist | none => 0, hist := hist }

/-- The mode list of a group after an extraction that does not fail (R199 to R201). -/
def oscMatch (set : CfgSet) (g : Nat) (x : OscGroup) (news : List OscPair) : OscGroup :=
  let nsig := (oscSignals set g).length
  let pairs := oscMatches news x.modes
  let build := news.zipIdx.foldl (fun (a : List Mode × Nat) n =>
    let old := (pairs.find? fun p => p.1 == n.2).bind fun p => x.modes[p.2]?
    (a.1 ++ [n.1.mode nsig a.2 x.obsFrac old], if old.isSome then a.2 else (a.2 + 1) % 65536)) (([] : List Mode), x.nextModeId)
  { x with modes := build.1, nextModeId := build.2, extractFail := false }

/-- The eigenvalues of group g's model by the settings of a set. -/
def OscGroup.eigen (x : OscGroup) (set : CfgSet) (g : Nat) : Option (List ((Rat × Rat) × Word × List (Rat × Rat) × List (Rat × Rat))) :=
  Config.oscEigen (oscN set g) (oscH set g) x.model

/-- The settings and the rate by which group g's committed state was folded last. -/
def State.oscFoldSet (s : State) (g : Nat) : CfgSet × Nat :=
  match s.quay? (s.oscGroup g).baseSeq with
  | some q => (s.quaySet q, q.rate)
  | none => (s.cfg.active, s.tb.grid.rate)

/-- The extraction of group g by the task that runs (R29, R198, R202): the settings are those of the newest quay folded. -/
def oscExtractRow (g : Nat) (s : State) : State :=
  match s.workTask 37 4 g with
  | none => s
  | some t =>
    if !s.osc.extractDue.contains g then s
    else
      let s1 := ((s.oscRan g t).modOsc fun o => { o with extractDue := o.extractDue.erase g }).count (Reg.OSC_CNT_LO 3)
      let x := s1.oscGroup g
      let set := s1.oscFoldSet g
      match x.eigen set.1 g with
      | none =>
        ((s1.modOsc fun o => { o with groups := mapSet o.groups g { x with extractFail := true } }).count (Reg.OSC_CNT_LO 8)).event Reg.OSC_EVT 2
      | some l => s1.modOsc fun o => { o with groups := mapSet o.groups g (oscMatch set.1 g x (oscPairs set.1 g (oscFa set.1 g set.2) l)) }

/-! ### Load and views (R215, R226) -/

/-- The load of a set at a rate (R215). -/
def oscLoad (set : CfgSet) (rate : Nat) : Nat :=
  ((List.range 256).map fun g => if bitsOf (oscW set g 0) 0 1 = 1 then rate / oscD set g * (oscSignals set g).length * bitsOf (oscW set g 0) 24 6 else 0).sum

/-- OSC_LOAD_CAP (R215). -/
def State.oscLoadCap (s : State) : Nat := (((List.range 12).filter fun i => s.hasEng (12 + i)).length - 1) * 6291456

/-- OSC_STATUS. -/
def State.oscStatus (s : State) : Nat :=
  b2n (s.oscEn && (detCfg s.cfg.active 0).en) + 2 ^ 16 * ((List.range 256).filter fun g => bitsOf (oscW s.cfg.active g 0) 0 1 == 1).length

/-- OSC_GROUP_STATE of the selected group. -/
def State.oscGroupState (s : State) : Nat :=
  let g := s.fld Reg.OSC_GROUP_SEL 0 8
  let x := s.oscGroup g
  let grid := (s.tb.grids.find? fun y => y.1 ≤ s.tb.lastSec).elim 0 (·.1)
  let en := bitsOf (oscW s.cfg.active g 0) 0 1 == 1
  x.modes.length + 2 ^ 8 * b2n (en && x.started && (x.key != oscKey s.cfg.active g || x.gridStart != grid)) +
    2 ^ 9 * b2n (en && oscStale s.cfg.active s.liveBanks g) + 2 ^ 16 * (if x.me = 31 then 31 else x.me - 12)

/-- What a read of OSC_WIN_DATA returns. -/
def State.oscWinWord (s : State) : Word :=
  let t := s.fld Reg.OSC_WIN_ADDR 24 2
  let off := s.fld Reg.OSC_WIN_ADDR 0 18 / 4 * 4
  if t = 3 ∨ nth 0 [32768, 131072, 65536] t ≤ off then 0 else cfgWord s.cfg.active 6 t off

/-- The offset of OSC_WIN after a read of its data. -/
def State.oscWinStep (s : State) : State := s.setFld Reg.OSC_WIN_ADDR 0 18 (s.fld Reg.OSC_WIN_ADDR 0 18 + 4)

/-- OSC_EVT.SIG_STALE when a directory apply has left a signal or branch of an enabled group outside its berth (R213). -/
def State.oscStaleNote (s : State) : State :=
  if (List.range 256).any fun g => bitsOf (oscW s.cfg.active g 0) 0 1 == 1 && oscStale s.cfg.active [s.bin.live] g then s.event Reg.OSC_EVT 3 else s

end Sys2Proof.Machine
end

