-- ==== Sys2Proof/Machine/Isl.lean ====
section
/-! DEFINITION. The islanding unit (R228 to R269): branch status, components, coherency, islands and their identity, decisions, their
settlement, folds and records. -/

namespace Sys2Proof.Machine

/-- The islanding unit changed. -/
def State.modIsl (s : State) (f : Isl → Isl) : State := { s with isl := f s.isl }

/-! ### Tables (R255 to R258) -/

/-- The settings of R258. -/
def islW (set : CfgSet) (i : Nat) : Nat := (cfgWord set 7 0 (4 * i)).toNat
/-- ISL_PERSIST, COH_PERSIST, COH_NMIN, CONF_ALARM, COH_DF, COH_DANG, COH_TAU, ISL_WMIN. -/
def islPersist (set : CfgSet) : Nat := bitsOf (islW set 1) 0 4
def cohPersist (set : CfgSet) : Nat := bitsOf (islW set 1) 4 4
def cohNmin (set : CfgSet) : Nat := bitsOf (islW set 1) 8 8
def confAlarm (set : CfgSet) : Nat := bitsOf (islW set 1) 16 10
def cohDf (set : CfgSet) : Rat := f32Of (islW set 2)
def cohDang (set : CfgSet) : Rat := f32Of (islW set 3)
def cohTau (set : CfgSet) : Nat := bitsOf (islW set 4) 0 13
def islWmin (set : CfgSet) : Rat := f32Of (islW set 5)

/-- Word i of node n, and of branch j. -/
def nodeW (set : CfgSet) (n i : Nat) : Nat := (cfgWord set 7 1 (16 * n + 4 * i)).toNat
def branchW (set : CfgSet) (j i : Nat) : Nat := (cfgWord set 7 2 (32 * j + 4 * i)).toNat

/-- The entries of a table of section 7 whose word at `off` of an entry has a property. -/
def islEntries (set : CfgSet) (tab size off : Nat) (p : Nat → Bool) : List Nat :=
  (set.filter fun x => x.1 / 2 ^ 24 == 7 * 16 + tab && x.1 % 2 ^ 24 % size == off && p x.2.toNat).map fun x => x.1 % 2 ^ 24 / size

/-- The nodes that take part (R228), in ascending order. -/
def islNodes (set : CfgSet) : List Nat := islEntries set 1 16 0 fun w => bitOf w 0
/-- SRC of a branch (R256). -/
def branchSrc (set : CfgSet) (j : Nat) : Nat := bitsOf (branchW set j 1) 0 3
/-- The branches that take part (R228), in ascending order. -/
def islBranches (set : CfgSet) : List Nat := islEntries set 2 32 4 fun w => bitsOf w 0 3 != 0
/-- The nodes of a branch. -/
def branchA (set : CfgSet) (j : Nat) : Nat := bitsOf (branchW set j 0) 0 16
def branchB (set : CfgSet) (j : Nat) : Nat := bitsOf (branchW set j 0) 16 16
/-- MEAS and SOURCE of a node, its berth, V_LANE, WEIGHT and V_LIVE. -/
def nodeMeas (set : CfgSet) (n : Nat) : Bool := bitOf (nodeW set n 0) 1
def nodeSource (set : CfgSet) (n : Nat) : Bool := bitOf (nodeW set n 0) 2
def nodeBerth (set : CfgSet) (n : Nat) : Nat := bitsOf (nodeW set n 0) 16 13
def nodeLane (set : CfgSet) (n : Nat) : Nat := bitsOf (nodeW set n 1) 0 17
def nodeWeight (set : CfgSet) (n : Nat) : Rat := f32Of (nodeW set n 2)
def nodeLive (set : CfgSet) (n : Nat) : Rat := f32Of (nodeW set n 3)

/-- The node, branch and breaker tables of a set. -/
def islTables (set : CfgSet) : List (Nat × Word) :=
  (set.filter fun x => 7 * 2 ^ 28 + 2 ^ 24 ≤ x.1 && x.1 < 7 * 2 ^ 28 + 4 * 2 ^ 24).map fun x => (x.1, x.2)

/-- A word of tables kept with a committed state. -/
def tableW (t : List (Nat × Word)) (tab off : Nat) : Nat := (mapGet (fun _ => (0 : Word)) t (cfgKey 7 tab off)).toNat

/-! ### Branch status (R229 to R234) -/

/-- The state of a breaker entry: 0 OPEN, 1 CLOSED, 2 UNKNOWN (R230). -/
def breakerState (set : CfgSet) (get : Nat → Option Entry) (m : Nat) : Nat :=
  let w := (cfgWord set 7 3 (4 * m)).toNat
  match get (bitsOf w 19 13) with
  | none => 2
  | some e =>
    let slot := bitsOf w 0 14
    if slot < e.dgBase ∨ e.dgBase + e.digitals.length ≤ slot then 2
    else b2n ((nth 0 e.digitals (slot - e.dgBase)).getLsbD (bitsOf w 14 4) != bitOf w 18)

/-- The breaker status of a branch (R230). -/
def breakerStatus (set : CfgSet) (get : Nat → Option Entry) (j : Nat) : Nat :=
  let mode := bitsOf (branchW set j 1) 8 2
  let a := breakerState set get (bitsOf (branchW set j 1) 16 14)
  let b := breakerState set get (bitsOf (branchW set j 2) 0 14)
  match mode with
  | 0 => a
  | 1 => if a = 1 ∧ b = 0 then 1 else if a = 0 ∧ b = 1 then 0 else 2
  | _ => if a = 0 ∨ b = 0 then 0 else if a = 1 ∧ b = 1 then 1 else 2

/-- The current status of a branch, and the one held for the next fold (R231). -/
def currentStatus (set : CfgSet) (get : Nat → Option Entry) (old : Nat) (j : Nat) : Nat × Nat :=
  match get (bitsOf (branchW set j 4) 0 13) with
  | none => (2, old)
  | some e =>
    let p := e.lane (bitsOf (branchW set j 3) 0 17)
    if !phFinite p then (2, old)
    else
      let m := f32Mul p.1 p.1 + f32Mul p.2 p.2
      let o := f32Of (branchW set j 5)
      let c := f32Of (branchW set j 6)
      if c * c ≤ m then (1, 1) else if m ≤ o * o then (0, 0) else (old, old)

/-- The status of a branch from its base (R230 to R234). -/
def branchStatus (set : CfgSet) (get : Nat → Option Entry) (base : Option IslBranch) (j : Nat) : IslBranch :=
  let src := branchSrc set j
  let w := branchW set j 1
  let old := match base with | some b => b.cur | none => 2
  let bs := if src = 3 ∨ src = 5 then breakerStatus set get j else 2
  let (cs, keep) := if src = 4 ∨ src = 5 then currentStatus set get old j else (2, 2)
  let conflict : Bool := src == 5 && bs != 2 && cs != 2 && bs != cs
  let raw :=
    match src with
    | 1 => 1
    | 2 => 0
    | 3 => bs
    | 4 => cs
    | _ => if conflict then nth 0 [bs, cs, 1, 0] (bitsOf w 3 2) else if bs = 2 then cs else bs
  let eff : Bool :=
    if raw = 2 then
      match bitsOf w 5 2 with
      | 0 => (match base with | some b => b.closed | none => true)
      | 1 => true
      | _ => false
    else raw == 1
  { closed := eff, cur := keep, known := raw != 2 && !conflict, conflict := conflict, rawUnknown := raw == 2 }

/-! ### Components (R228, R235) -/

/-- Labels after a closed branch has united the components of two nodes: the lower label stands. -/
def uniteLabels (l : List (Nat × Nat)) (a b : Nat) : List (Nat × Nat) :=
  match mapFind l a, mapFind l b with
  | some x, some y => if x = y then l else l.map fun p => if p.2 = max x y then (p.1, min x y) else p
  | _, _ => l

/-- The label of each node: the lowest node of its component. -/
def islLabels (set : CfgSet) (branches : List (Nat × IslBranch)) : List (Nat × Nat) :=
  (branches.filter fun b => b.2.closed).foldl (fun l b => uniteLabels l (branchA set b.1) (branchB set b.1)) ((islNodes set).map fun n => (n, n))

/-- A spanning forest of the graph (R235, R249): the closed branches each of which unites two components of those before it. -/
def islForest (set : CfgSet) (branches : List (Nat × IslBranch)) : List Nat :=
  ((branches.filter fun b => b.2.closed).foldl (fun (a : List (Nat × Nat) × List Nat) b =>
    let l := uniteLabels a.1 (branchA set b.1) (branchB set b.1)
    (l, if l = a.1 then a.2 else a.2 ++ [b.1])) ((islNodes set).map fun n => (n, n), [])).2

/-- The components as lists of nodes, by lowest node. -/
def islGroups (labels : List (Nat × Nat)) : List (List Nat) :=
  (labels.filter fun p => p.1 == p.2).map fun p => (labels.filter fun x => x.2 == p.1).map (·.1)

/-! ### Coherency (R238 to R241) -/

/-- An observed measured node: its frequency when finite, its slip, its number. -/
structure CohPoint where
  f : Rat
  s : Rat
  node : Nat
deriving DecidableEq, Repr

/-- Points sorted by a value and cut at every gap greater than a limit. -/
def cutGaps (v : CohPoint → Rat) (gap : Rat) (l : List CohPoint) : List (List CohPoint) :=
  let sorted := l.mergeSort fun a b => v a < v b || (v a == v b && a.node ≤ b.node)
  (sorted.foldl (fun (acc : List (List CohPoint)) p =>
    match acc with
    | [] => [[p]]
    | c :: cs =>
      match c with
      | [] => [p] :: cs
      | x :: _ => if gap < v p - v x then [p] :: c :: cs else (p :: c) :: cs) []).reverse

/-- The clusters of a component in their final order, each with the number of its first-pass cluster (R239). -/
def cohClusters (set : CfgSet) (l : List CohPoint) : List (Nat × List CohPoint) :=
  ((cutGaps (·.f) (cohDf set) l).zipIdx).flatMap fun g => (cutGaps (·.s) (cohDang set) g.1).map fun c => (g.2, c)

/-- The least and the greatest of a value over a cluster. -/
def leastOf (v : CohPoint → Rat) (l : List CohPoint) : Rat := match l with | [] => 0 | p :: ps => ps.foldl (fun m x => min m (v x)) (v p)
def mostOf (v : CohPoint → Rat) (l : List CohPoint) : Rat := match l with | [] => 0 | p :: ps => ps.foldl (fun m x => max m (v x)) (v p)

/-- The ratio of two neighbouring qualifying clusters (R240). -/
def cohRatio (set : CfgSet) (a b : Nat × List CohPoint) : Rat :=
  if a.1 ≠ b.1 then (leastOf (·.f) b.2 - mostOf (·.f) a.2) / cohDf set else (leastOf (·.s) b.2 - mostOf (·.s) a.2) / cohDang set

/-- What coherency finds in a component: FREQ, qualifying clusters, outliers, incoherent, its confidence. -/
structure Coh where
  freq : Option Rat
  nClust : Nat
  nOutlier : Nat
  incoherent : Bool
  conf : Nat
deriving DecidableEq, Repr

/-- R239 and R240 over the points of a component. -/
def cohFind (set : CfgSet) (l : List CohPoint) (anchor : Option Nat) : Coh :=
  let cl := cohClusters set l
  let qual := cl.filter fun c => cohNmin set ≤ c.2.length
  let out := ((cl.filter fun c => c.2.length < cohNmin set).map fun c => c.2.length).sum
  let most := qual.foldl (fun m c => max m c.2.length) 0
  let top := qual.filter fun c => c.2.length == most
  let holds (c : Nat × List CohPoint) : Bool := c.2.any fun p => anchor == some p.node
  let best := (top.find? holds).or top.head?
  let inc : Bool := decide (2 ≤ qual.length)
  let g := ((qual.zip (qual.drop 1)).map fun p => cohRatio set p.1 p.2)
  let gm := match g with | [] => 0 | x :: xs => xs.foldl max x
  { freq := best.map fun c => sumRat (c.2.map (·.f)) / (c.2.length : Rat), nClust := qual.length, nOutlier := out, incoherent := inc,
    conf := if inc then floorNat (1000 * min 1 (gm - 1)) else 0 }

/-! ### The base of an evaluation (R249, R260) -/

/-- A commit that changes the tables is noted with its effective instant (R260). -/
def State.islCommitted (s : State) (old new : CfgSet) (eff : Nat) : State :=
  if islTables old = islTables new then s else s.modIsl fun x => { x with changes := x.changes ++ [eff] }

/-- How many commits have changed the tables by an instant, a validated one to come included. -/
def State.islEpoch (s : State) (t : Nat) : Nat :=
  let next := match s.cfg.commit with
    | some c => if c.validated ∧ islTables s.cfg.active ≠ islTables s.cfg.shadow then [c.eff] else []
    | none => []
  ((s.isl.changes ++ next).filter fun e => decide (e ≤ t)).length

/-- The committed state as a quay's tables and grid leave it (R260, R238). -/
def IslState.asFor (x : IslState) (set : CfgSet) (gridStart ep : Nat) : IslState :=
  let t := islTables set
  let y :=
    if x.started ∧ (x.tables ≠ t ∨ x.epoch ≠ ep) then
      let same (j : Nat) : Bool := (List.range 8).all fun i => tableW x.tables 2 (32 * j + 4 * i) == branchW set j i
      let kept (n : Nat) : Bool :=
        bitsOf (tableW x.tables 1 (16 * n)) 16 13 == nodeBerth set n && bitsOf (tableW x.tables 1 (16 * n + 4)) 0 17 == nodeLane set n
      { x with tables := t, epoch := ep, hasLabels := false, groups := [], branches := x.branches.filter (fun (b : Nat × IslBranch) => same b.1),
               baselines := x.baselines.filter (fun (b : Nat × Rat) => kept b.1) }
    else { x with tables := t, epoch := ep }
  if x.started ∧ x.gridStart ≠ gridStart then { y with gridStart := gridStart, baselines := [] } else { y with gridStart := gridStart }

/-- The committed state as a quay finds it. -/
def State.islFor (s : State) (q : Quay) (x : IslState) : IslState := x.asFor (s.quaySet q) q.gridStart (s.islEpoch q.instant)

/-- Whether the quay is the first on new tables (R260): the base is of an earlier epoch, and no earlier quay is of this one. -/
def State.islFirst (s : State) (q : Quay) (base : IslState) : Bool :=
  base.started && base.epoch != s.islEpoch q.instant &&
    !(s.aln.quays.any fun p => decide (p.seq < q.seq) && s.islEpoch p.instant == s.islEpoch q.instant)

/-- Whether an input of the graph lies outside the berth it names in a bank (R261). -/
def islOut (set : CfgSet) (bank : Bank) : Bool :=
  let slotOut (m : Nat) : Bool :=
    let w := (cfgWord set 7 3 (4 * m)).toNat
    let x := bank.berth (bitsOf w 19 13)
    !(decide (x.dgBase ≤ bitsOf w 0 14) && decide (bitsOf w 0 14 < x.dgBase + x.dgnmr))
  ((islNodes set).any fun n => nodeMeas set n && !laneIn (bank.berth (nodeBerth set n)) (nodeLane set n)) ||
  ((islBranches set).any fun j =>
    let src := branchSrc set j
    ((src == 4 || src == 5) && !laneIn (bank.berth (bitsOf (branchW set j 4) 0 13)) (bitsOf (branchW set j 3) 0 17)) ||
    ((src == 3 || src == 5) && (slotOut (bitsOf (branchW set j 1) 16 14) ||
      (bitsOf (branchW set j 1) 8 2 != 0 && slotOut (bitsOf (branchW set j 2) 0 14)))))

/-! ### Evaluation (R230 to R246) -/

/-- A component without its place in an island list. -/
def blankComp (nodes : List Nat) : IslComp :=
  { id := 0xFFFF, nodes := nodes, main := false, energised := false, weight := 0, freq := none, df := none, slip := none, evidence := 0,
    conf := 0, nMeas := 0, nCut := 0, nCutKnown := 0, nOutlier := 0, nClust := 0, incoherent := false, incConf := 0, anchor := none,
    event := 0, parent := 0xFFFF, isNew := false, membNew := false }

/-- The voltage of a measured node that is observed, and its frequency (R236). -/
def nodeSeen (set : CfgSet) (get : Nat → Option Entry) (n : Nat) : Option ((Word × Word) × Word) :=
  if nodeMeas set n then
    match get (nodeBerth set n) with
    | some e => let v := e.lane (nodeLane set n); if phFinite v then some (v, e.freq) else none
    | none => none
  else none

/-- The element of a list that a comparison puts first. -/
def bestOf {α : Type} (better : α → α → Bool) (l : List α) : Option α :=
  l.foldl (fun (m : Option α) x => match m with | some y => if better x y then some x else some y | none => some x) none

/-- Energisation, weight and anchor of a component (R236 to R238). -/
def islComp (set : CfgSet) (seen : List (Nat × ((Word × Word) × Word))) (nodes : List Nat) : IslComp :=
  let obs := nodes.filter fun n => (mapFind seen n).isSome
  let live (n : Nat) : Bool :=
    match mapFind seen n with
    | some v => decide (nodeLive set n * nodeLive set n ≤ f32Mul v.1.1 v.1.1 + f32Mul v.1.2 v.1.2)
    | none => false
  { blankComp nodes with
    energised := if obs.isEmpty then nodes.any (nodeSource set) else obs.any live
    weight := sumRat (nodes.map (nodeWeight set))
    nMeas := obs.length
    anchor := bestOf (fun a b => decide (nodeWeight set b < nodeWeight set a)) obs }

/-- The angle u of a node against the main anchor, unwrapped to its baseline (R238). -/
def cohAngle (v r : Word × Word) (base : Option Rat) : Rat :=
  let z := mulConj v r
  match base with
  | some b => unwrapTo b (argRat z.1 z.2)
  | none => argRat z.1 z.2

/-- The statuses of the branches on a quay (R230 to R234). -/
def islStatuses (set : CfgSet) (x : IslState) (get : Nat → Option Entry) : List (Nat × IslBranch) :=
  (islBranches set).map fun j => (j, branchStatus set get (mapFind x.branches j) j)

/-- The statuses that a fold takes (R252): those of the quay, with the base's effective status where the raw one was UNKNOWN. -/
def islFoldStatuses (set : CfgSet) (x : IslState) (get : Nat → Option Entry) : List (Nat × IslBranch) :=
  (islStatuses set x get).map fun b =>
    match mapFind x.branches b.1 with
    | some o => if b.2.rawUnknown then (b.1, { b.2 with closed := o.closed }) else b
    | none => b

/-- An evaluation of a quay from a base and the statuses of its branches (R235 to R246), before IDs and events. -/
def islEvaluate (set : CfgSet) (x : IslState) (branches : List (Nat × IslBranch)) (get : Nat → Option Entry) (seq : Nat)
    (stale restarted : Bool) : IslEval :=
  let changed := (branches.filter fun b => match mapFind x.branches b.1 with | some o => o.closed != b.2.closed | none => true).length
  let labels := islLabels set branches
  let groups := islGroups labels
  let seen := (islNodes set).filterMap fun n => (nodeSeen set get n).map fun v => (n, v)
  let comps := groups.map (islComp set seen)
  let ref := bitsOf (islW set 0) 0 16
  let heavier (a b : IslComp) : Bool := decide (b.weight < a.weight)
  let named := if bitOf (islW set 0) 16 then comps.find? fun c => c.energised && c.nodes.contains ref else none
  let main := named.or (bestOf heavier (comps.filter (·.energised)))
  let anchor := main.bind (·.anchor)
  let rv := anchor.bind fun r => mapFind seen r
  let same : Bool := anchor.isSome && x.anchor == anchor
  let u : List (Nat × Rat) := match rv with
    | some r => seen.map fun n => (n.1, cohAngle n.2.1 r.1 (if same then mapFind x.baselines n.1 else none))
    | none => []
  let slip (n : Nat) : Rat := match mapFind u n, (if same then mapFind x.baselines n else none) with
    | some a, some b => a - b
    | _, _ => 0
  let coh (c : IslComp) : Coh := cohFind set (c.nodes.filterMap fun n =>
    match mapFind seen n with
    | some v => if f32Finite v.2 then some ⟨f32Rat v.2, slip n, n⟩ else none
    | none => none) c.anchor
  let fm := main.bind fun c => (coh c).freq
  let cutOf (c : IslComp) : Nat × Nat :=
    let cut := branches.filter fun b => c.nodes.contains (branchA set b.1) != c.nodes.contains (branchB set b.1)
    (cut.length, (cut.filter fun b => b.2.known).length)
  let fill (isMain : Bool) (c : IslComp) : IslComp :=
    let k := coh c
    let df : Option Rat := if isMain then some 0 else match k.freq, fm with | some a, some b => some (a - b) | _, _ => none
    let sl := c.anchor.map slip
    let cut := cutOf c
    let (cc, ev) : Rat × Nat :=
      if isMain ∨ !c.energised then (1, 0)
      else match df with
        | none => (1 / 2, 2)
        | some d => if cohDf set < absRat d ∨ cohDang set < absRat (sl.getD 0) then (1, 3) else (1 / 4, 1)
    let topo : Rat := if cut.1 = 0 then 1 else (cut.2 : Rat) / (cut.1 : Rat)
    { c with main := isMain, freq := k.freq, df := df, slip := sl, evidence := ev, nCut := cut.1, nCutKnown := cut.2,
             nOutlier := k.nOutlier, nClust := k.nClust, incoherent := k.incoherent, incConf := k.conf,
             conf := if isMain then 0 else floorNat (1000 * topo * cc) }
  let cand := (comps.filter fun c => some c != main && decide (islWmin set ≤ c.weight) && (c.energised || bitOf (islW set 0) 17)).mergeSort
    fun a b => b.weight < a.weight || (a.weight == b.weight && a.nodes.head?.getD 0 ≤ b.nodes.head?.getD 0)
  { comps := (match main with | some m => [fill true m] | none => []) ++ (cand.take 63).map (fill false)
    nComp := (comps.filter (·.energised)).length
    changed := changed
    unknown := (branches.filter fun b => b.2.rawUnknown).length
    conflicts := (branches.filter fun b => b.2.conflict).length
    full := !x.hasLabels || decide (2048 < changed)
    ovf := decide (63 < cand.length)
    noMain := main.isNone
    stale := stale
    restarted := restarted
    base := x.baseSeq
    gap := seq - x.baseSeq - 1
    branches := branches
    groups := groups
    anchor := anchor
    u := u
    observed := seen.map (·.1)
    live := (comps.filter (·.energised)).flatMap (·.nodes) }

/-! ### Identity and events (R243 to R245) -/

/-- How many nodes two ascending lists share. -/
def sharedNodes (a b : List Nat) : Nat := (a.filter b.contains).length

/-- The entry that shares more than half of both node sets (R244). -/
def majority (c : IslComp) (l : List IslComp) : Option IslComp :=
  l.find? fun y => let k := sharedNodes c.nodes y.nodes; c.nodes.length < 2 * k && y.nodes.length < 2 * k

/-- The next ID that no held list carries, counting from `c`. -/
def nextIslId (held : List Nat) : Nat → Nat → Nat
  | 0, c => c
  | fuel + 1, c => if held.contains c then nextIslId held fuel (c % 65534 + 1) else c

/-- IDs for an island list, in order (R244): what is left of the counter and the list. -/
def islIds (ref prov : List IslComp) (held : List Nat) : List IslComp → Nat → Nat × List IslComp
  | [], c => (c, [])
  | x :: xs, c =>
    if x.main then
      let r := islIds ref prov held xs c
      (r.1, { x with id := 0 } :: r.2)
    else match (majority x (ref.filter fun y => y.id != 0)).or (majority x prov) with
      | some y =>
        let r := islIds ref prov held xs c
        (r.1, { x with id := y.id } :: r.2)
      | none =>
        let n := nextIslId held 65534 c
        let r := islIds ref prov (n :: held) xs (n % 65534 + 1)
        (r.1, { x with id := n, isNew := true } :: r.2)

/-- EVENT and PARENT of an entry against the reference list (R245), and whether its node set differs from the reference's. -/
def islEvent (ref : List IslComp) (groups : List (List Nat)) (x : IslComp) : IslComp :=
  let over_ := ref.filter fun y => sharedNodes x.nodes y.nodes != 0
  let same := ref.find? fun y => y.id == x.id
  let split (y : IslComp) : Bool := decide (2 ≤ (groups.filter fun g => sharedNodes g y.nodes != 0).length)
  let memb := !x.main && (match same with | some y => y.nodes != x.nodes | none => true)
  let other := bestOf (fun a b => decide (sharedNodes x.nodes b.nodes < sharedNodes x.nodes a.nodes)) (over_.filter fun y => y.id != x.id)
  let put (e p : Nat) : IslComp := { x with event := e, parent := p, membNew := memb }
  match over_, same with
  | _ :: _ :: _, _ => put 3 (match other with | some y => y.id | none => 0xFFFF)
  | [y], none => if split y then put 2 y.id else put 6 0xFFFF
  | [y], some z =>
    if split y then put 2 y.id
    else if z.nodes = x.nodes then put 0 0xFFFF
    else if z.nodes.all x.nodes.contains then put 4 0xFFFF
    else if x.nodes.all z.nodes.contains then put 5 0xFFFF
    else put 6 0xFFFF
  | [], none => put 1 0xFFFF
  | [], some _ => put 6 0xFFFF

/-- The island lists held before a quay, newest first (R243). -/
def State.islPrior (s : State) (seq : Nat) : List IslList := s.isl.lists.filter fun l => l.seq < seq

/-- The reference list that island lists give, newest first (R243), and the keys decided on it. -/
def islRefOf : List IslList → List IslComp × List Nat
  | l :: _ => (l.comps, l.decided)
  | [] => ([], [])

/-- The reference list of a quay that no task evaluates (R251), and the keys decided on it. -/
def State.islRef (s : State) (seq : Nat) : List IslComp × List Nat := islRefOf (s.islPrior seq)

/-- What a task of the unit on a quay reads, fixed as it starts (R229, R243, R252); of quays that are held no longer nothing is kept. -/
def State.islReadFix (s : State) (q : Quay) (typ : Nat) : State :=
  s.modIsl fun x => { x with
    reads := (x.reads.filter fun (r : IslRead) => (s.quay? r.seq).isSome && !(r.seq == q.seq && r.typ == typ)) ++
      [⟨q.seq, typ, q, s.islPrior q.seq⟩] }

/-- What a task of the unit on a quay reads: what its start has fixed. -/
def State.islReadOf (s : State) (q : Quay) (typ : Nat) : IslRead :=
  (s.isl.reads.find? fun r => r.seq == q.seq && r.typ == typ).getD ⟨q.seq, typ, q, s.islPrior q.seq⟩

/-- A task of the unit on a quay has done its work: what it read is dropped. -/
def State.islReadDrop (s : State) (seq typ : Nat) : State :=
  s.modIsl fun x => { x with reads := x.reads.filter fun (r : IslRead) => !(r.seq == seq && r.typ == typ) }

/-- Every ID in a held list (R244). -/
def State.islHeld (s : State) : List Nat := (s.isl.lists.flatMap fun l => l.comps.map (·.id)).eraseDups

/-- The first lists of a row, up to the n-th of an evaluated quay. -/
def takeEvaluated : Nat → List IslList → List IslList
  | 0, _ => []
  | _, [] => []
  | n + 1, l :: ls => l :: takeEvaluated (if l.evaluated then n else n + 1) ls

/-- A quay's list kept: the lists go back to the 32nd most recent evaluated quay (R243). -/
def State.islKeep (s : State) (l : IslList) : State :=
  s.modIsl fun x => { x with
    lists := takeEvaluated 32 ((l :: x.lists.filter fun (y : IslList) => y.seq != l.seq).mergeSort fun a b => b.seq ≤ a.seq) }

/-! ### Decisions (R247) -/

/-- A decision about an entry. -/
def islDecOf (x : IslComp) (kind sev conf : Nat) : IslDec :=
  { kind := kind, status := 0, severity := sev, incomplete := false, sevChg := false, membChg := false, key := x.id, event := x.event,
    evidence := x.evidence, conf := conf, nodes := x.nodes, weight := x.weight, df := x.df, slip := x.slip,
    nClust := if kind = 2 then x.nClust else 0, decId := 0 }

/-- Decisions in the order of kind and then key. -/
def islOrder (l : List IslDec) : List IslDec := l.mergeSort fun a b => a.kind < b.kind || (a.kind == b.kind && a.key ≤ b.key)

/-- The decisions of an evaluation against the island lists of earlier quays (R247), at most 190. -/
def islDecide (set : CfgSet) (lists : List IslList) (comps : List IslComp) : List IslDec :=
  let prior := lists.filter (·.evaluated)
  let (ref, decided) := islRefOf lists
  let held (n : Nat) (p : IslComp → Bool) : Bool := decide (n ≤ prior.length) && (prior.take n).all fun l => l.comps.any p
  let isl := (comps.filter fun x => !x.main && held (islPersist set - 1) fun y => y.id == x.id).map fun x =>
    if x.energised then islDecOf x 1 (if confAlarm set ≤ x.conf then 2 else 1) x.conf else islDecOf x 3 1 x.conf
  let inc := (comps.filter fun x => x.energised && x.incoherent && held (cohPersist set - 1) fun y => y.id == x.id && y.incoherent).map fun x =>
    islDecOf x 2 (if confAlarm set ≤ x.incConf then 2 else 1) x.incConf
  let ended := (ref.filter fun y => decided.contains y.id && !(comps.any fun x => x.id == y.id)).map fun y =>
    { islDecOf y 1 1 0 with event := 7, nodes := [] }
  (islOrder (isl ++ inc ++ ended)).take 190

/-- The keys of ISLAND and DEENERGISED decisions that stand (R247). -/
def islDecided (l : List IslDec) : List Nat :=
  ((l.filter fun d => (d.kind == 1 || d.kind == 3) && d.event != 7 && d.status != 2).map (·.key)).eraseDups

/-- DEC_IDs for decisions that are new, in order (R248). -/
def State.islNumber (s : State) : List IslDec → State × List IslDec
  | [] => (s, [])
  | d :: ds =>
    let n := s.isl.nextDec
    let (s2, rest) := State.islNumber (s.modIsl fun x => { x with nextDec := (n + 1) % 2 ^ 32 }) ds
    (s2, { d with decId := n } :: rest)

/-- A decision sent to the alarm unit (R248). -/
def State.islSend (s : State) (op : AlmOp) (seq : Nat) (d : IslDec) : State :=
  s.almSend { op := op, src := 2, sub := 0, kind := d.kind, key := d.key, sev := d.severity, decId := d.decId, quaySeq := seq,
              conf := d.conf, event := d.event }
/-- Decisions sent one after another. -/
def State.islSendAll (s : State) (op : AlmOp) (seq : Nat) (l : List IslDec) : State := l.foldl (fun s d => s.islSend op seq d) s

/-- The settle notice of the unit on a quay (R270). -/
def State.islNotice (s : State) (seq o : Nat) : State :=
  s.almSend { op := .settle, src := 2, sub := 0, kind := 0, key := 0, sev := 0, quaySeq := seq, outcome := o }

/-! ### Records and memberships (R262 to R266) -/

/-- A number as an FP32 word, NaN for none. -/
def optF32 (q : Option Rat) : Word := match q with | some x => toF32 x | none => nanWord

/-- An island line. -/
def islLine (membs : List IslMemb) (wrote : Bool) (x : IslComp) : List Byte :=
  let m := if x.main then none else membs.find? fun y => y.id == x.id
  let all := 2 ^ 64 - 1
  let (ms, mp) := match m with | some y => (y.seq, y.pos) | none => (all, all)
  padTo 64 (leBytes 2 x.id ++ leBytes 1 (x.evidence + 4 * b2n x.energised + 8 * b2n x.main + 16 * b2n wrote + 32 * b2n x.incoherent) ++
    leBytes 1 x.event ++ leBytes 4 x.nodes.length ++ leBytes 4 (toF32 x.weight).toNat ++ leBytes 4 (optF32 x.freq).toNat ++
    leBytes 4 (optF32 x.df).toNat ++ leBytes 4 (optF32 x.slip).toNat ++ leBytes 2 x.conf ++ leBytes 2 (min x.nMeas 65535) ++
    leBytes 2 (min x.nCut 65535) ++ leBytes 2 (min x.nCutKnown 65535) ++ leBytes 2 x.parent ++ leBytes 2 (min x.nOutlier 65535) ++
    leBytes 4 (x.anchor.getD 0xFFFFFFFF) ++ leBytes 8 ms ++ leBytes 8 mp)

/-- A decision entry. -/
def IslDec.bytes (d : IslDec) : List Byte :=
  leBytes 1 (d.kind + 16 * d.status) ++ leBytes 1 (d.severity + 4 * b2n d.incomplete + 8 * b2n d.sevChg + 16 * b2n d.membChg) ++
    leBytes 2 d.key ++ leBytes 1 d.event ++ leBytes 1 d.evidence ++ leBytes 2 d.conf ++ leBytes 4 d.nodes.length ++
    leBytes 4 (toF32 d.weight).toNat ++ leBytes 4 (optF32 d.df).toNat ++ leBytes 4 (optF32 d.slip).toNat ++ leBytes 2 (min d.nClust 65535) ++
    leBytes 2 0 ++ leBytes 4 d.decId

/-- A membership written (R263). -/
def State.islMembWrite (s : State) (seq : Nat) (x : IslComp) : State :=
  let raw := x.nodes.flatMap (leBytes 2)
  let b := padTo ((raw.length + 63) / 64 * 64) raw
  let pos := s.reg64 Reg.ISL_MEMB_WR_LO
  let log := s.fld Reg.ISL_MEMB_SIZE 0 5
  let base := s.reg64 Reg.ISL_MEMB_BASE_LO
  let keep := s.isl.membRing.filter fun r => pos + b.length ≤ r.1 + 2 ^ log
  let gone := s.isl.membRing.length - keep.length
  let s1 := (chunks 64 (b.length / 64) b).zipIdx.foldl (fun (s : State) l => s.dramWrite (base + (pos + 64 * l.2) % 2 ^ log) l.1) s
  let s2 := (s1.setReg64 Reg.ISL_MEMB_WR_LO (pos + b.length)).modIsl fun i =>
    { i with membRing := keep ++ [(pos, b.length)],
             membs := ⟨x.id, seq, pos, x.nodes⟩ :: i.membs.filter fun (m : IslMemb) => m.id != x.id }
  if gone = 0 then s2 else (s2.countBy (Reg.ISL_CNT_LO 13) gone).event Reg.ISL_EVT 9

/-- The memberships that a record writes (R263), and their IDs. -/
def State.islMemberships (s : State) (seq : Nat) (l : List IslComp) : State × List Nat :=
  l.foldl (fun (a : State × List Nat) x =>
    if x.membNew && !x.main then (a.1.islMembWrite seq x, a.2 ++ [x.id]) else a) (s, [])

/-- A record of an evaluation (R264). -/
def State.islRecord (s : State) (q : Quay) (e : IslEval) (settled : Bool) (outcome : Nat) (decs : List IslDec) (wrote : List Nat) : List Byte :=
  let dl := (decs.length + 1) / 2
  let lines := 1 + e.comps.length + dl
  let head := leBytes 1 2 ++ leBytes 1 (b2n settled) ++ leBytes 1 0 ++ leBytes 1 lines ++ leBytes 1 e.comps.length ++ leBytes 1 decs.length ++
    leBytes 2 (b2n (outcome == 4) + 2 * b2n e.stale + 4 * b2n (bitsOf q.tq.toNat 7 3 != 1) + 8 * b2n e.full + 16 * b2n e.ovf +
      32 * b2n e.restarted + 64 * b2n e.noMain) ++
    leBytes 8 q.seq ++ tsBytes q.instant ++ leBytes 2 (if settled then outcome else 0) ++ leBytes 2 (min e.gap 65535) ++ leBytes 8 e.base ++
    leBytes 2 (min e.nComp 65535) ++ leBytes 2 (min e.changed 65535) ++ leBytes 2 (min e.unknown 65535) ++
    leBytes 2 (min e.conflicts 65535) ++ tsBytes s.dt ++ leBytes 4 0
  withCrc60 (head ++ (e.comps.flatMap fun x => islLine s.isl.membs (wrote.contains x.id && !x.main) x) ++ padTo (64 * dl) (decs.flatMap IslDec.bytes))

/-- A record written to the islanding ring and, when settled and asked for, copied to the host (R262, R269). It has at most 160 lines, and
so at most 190 decisions: DESIGN CHOICE (log entry 122): of more the first 190 in their order. -/
def State.islRecordWrite (s : State) (q : Quay) (e : IslEval) (settled : Bool) (outcome : Nat) (decs : List IslDec) : State :=
  if !s.islEn ∨ (!settled ∧ !s.bit Reg.ISL_CTRL 8) then s
  else
    let (s0, wrote) := s.islMemberships q.seq e.comps
    let b := s0.islRecord q e settled outcome (decs.take 190) wrote
    let wr := s0.reg64 Reg.ISL_RING_WR_LO
    let log := s0.fld Reg.ISL_RING_SIZE 0 5
    let n := b.length / 64
    let (keep, gone) := ringKeep s0.isl.records log wr n
    let s1 := ((s0.ringLines (s0.reg64 Reg.ISL_RING_BASE_LO) log wr b).setReg64 Reg.ISL_RING_WR_LO (wr + n)).modIsl fun o =>
      { o with records := keep ++ [(wr, n)] }
    let s2 := if gone = 0 then s1 else (s1.countBy (Reg.ISL_CNT_LO 10) gone).event Reg.ISL_EVT 5
    let s3 := if e.ovf then (s2.count (Reg.ISL_CNT_LO 9)).event Reg.ISL_EVT 2 else s2
    let s4 := if settled then (s3.countBy (Reg.ISL_CNT_LO 7) (min e.conflicts 65535)).countBy (Reg.ISL_CNT_LO 8) (min e.unknown 65535) else s3
    if settled ∧ s4.bit Reg.ISL_CTRL 3 then s4.tugDeliver (unitCode 7) ⟨s4.fld Reg.ISL_CTRL 4 4, 4, b, n, [], s4.dt, 0⟩ else s4

/-! ### The rows -/

/-- EN is 0: the unit's tasks that have not started are withdrawn, and the folds that were to run by them (R267). -/
def State.islStop (s : State) : State :=
  let s1 := s.withdrawOf 38 fun _ _ => true
  s1.modIsl fun i => { i with foldDue := i.foldDue.filter fun seq => s1.taskStands 38 3 0 (seq % 2 ^ 32) }

/-- A write of ISL_CTRL (R267, R268). -/
def islEnWriteRow (v : Word) (s : State) : State :=
  let s1 := if v.getLsbD 1 then s.clearCounters (Reg.ISL_CNT_LO 0) 14 else s
  let log := s1.fld Reg.ISL_RING_SIZE 0 5
  let mlog := s1.fld Reg.ISL_MEMB_SIZE 0 5
  let ok := s1.dramFits (s1.reg64 Reg.ISL_RING_BASE_LO) (2 ^ log * 64) && s1.dramFits (s1.reg64 Reg.ISL_MEMB_BASE_LO) (2 ^ mlog) &&
    decide (16 ≤ log) && decide (log ≤ 24) && decide (20 ≤ mlog) && decide (mlog ≤ 30)
  if v.getLsbD 0 ∧ !s1.islEn then
    if ok then
      (((s1.writeReg Reg.ISL_CTRL v).setReg64 Reg.ISL_RING_WR_LO 0).setReg64 Reg.ISL_MEMB_WR_LO 0).modIsl fun o =>
        { o with records := [], membs := [], membRing := [] }
    else (s1.writeReg Reg.ISL_CTRL (v &&& ~~~1#32)).event Reg.ISL_EVT 4
  else if s1.islEn ∧ !v.getLsbD 0 then (s1.writeReg Reg.ISL_CTRL v).islStop
  else s1.writeReg Reg.ISL_CTRL v

/-- The entry that supplies a berth in a settled evaluation or a fold (R229). -/
def State.islSettledEntry (s : State) (q : Quay) (b : Nat) : Option Entry :=
  if q.sealErr ∨ !s.berthCounts q 1 b true then none else q.entry b

/-- An evaluation with its IDs, events and decisions (R243 to R247). -/
def State.islRun (s : State) (q : Quay) (base : IslState) (prior : List IslList) (get : Nat → Option Entry) (prov : List IslComp) :
    State × IslEval × List IslDec :=
  let set := s.quaySet q
  let x := s.islFor q base
  let e := islEvaluate set x (islStatuses set x get) get q.seq ((s.quayBanks q).any (islOut set)) (s.islFirst q base)
  let ref := (islRefOf prior).1
  let (c, l) := islIds ref prov s.islHeld e.comps s.isl.nextId
  let comps := l.map (islEvent ref e.groups)
  let s1 := s.modIsl fun x => { x with nextId := c }
  let s2 := if e.full then (s1.count (Reg.ISL_CNT_LO 3)).event Reg.ISL_EVT 8 else s1
  (s2, { e with comps := comps }, islDecide set prior comps)

/-- The base that a snapshot of detector 1 fixes (R249). -/
def State.islSnapshot (s : State) (seq : Nat) : State :=
  match s.quay? seq with
  | some q =>
    if (q.detOf 1).started then s
    else (s.snapshot seq 1).modIsl fun x => { x with bases := x.bases ++ [(seq, x.com)] }
  | none => s

/-- The base of a settlement task that starts: the committed state of that moment (R249). -/
def State.islRebase (s : State) (seq : Nat) : State :=
  s.modIsl fun x => { x with bases := (x.bases.filter fun (e : Nat × IslState) => e.1 != seq) ++ [(seq, x.com)] }

/-- The base of the evaluations of a quay. -/
def State.islBase (s : State) (seq : Nat) : IslState := (mapFind s.isl.bases seq).getD s.isl.com

/-- A provisional or settlement task of the unit does its work: its graph engine is the one that ran its quay's task (R253). DESIGN CHOICE
(log entry 131): 32 quays are kept. -/
def State.islRan (s : State) (t : Nat × Task) (seq : Nat) : State :=
  (s.taskWorked t.1).modIsl fun i => { i with
    engines := (((seq, t.2.engine) :: i.engines.filter fun (e : Nat × Option Nat) => e.1 != seq).mergeSort fun a b => b.1 ≤ a.1).take 32 }

/-- The provisional task that runs, with its quay when that is still to be evaluated: detector 1 is not settled on it, and no evaluation
is held. -/
def State.islProvNext (s : State) : Option ((Nat × Task) × Quay) :=
  match s.workTask 38 1 0 with
  | some t => ((s.taskQuay t.2).filter fun q =>
      (q.detOf 1).outcome == 0 && (q.detOf 1).routed.isNone && !(s.isl.prov.any fun e => e.seq == q.seq)).map fun q => (t, q)
  | none => none

/-- A provisional evaluation, by the task that runs (R29, R250). -/
def islProvEvalRow (s : State) : State :=
  match s.islProvNext with
  | none => s
  | some (t, q) =>
    let s1 := (s.islRan t q.seq).islReadDrop q.seq 1
    let (s2, e, d0) := s1.islRun q (s1.islBase q.seq) (s.islReadOf q 1).prior (fun b => mapFind (q.detOf 1).used b) []
    let (s3, decs) := s2.islNumber d0
    let s4 := ((s3.modIsl fun x => { x with prov := x.prov ++ [⟨q.seq, e, decs⟩] }).count (Reg.ISL_CNT_LO 0)).islKeep
      ⟨q.seq, false, true, e.comps, islDecided decs⟩
    let s5 := if decs.isEmpty then s4 else s4.event Reg.ISL_EVT 0
    let s6 := (s5.islSendAll .provisional q.seq decs).islRecordWrite q e false 0 decs
    if (q.detOf 1).quorumAt + 1000 * subPerUs < s6.dt then (s6.count (Reg.ISL_CNT_LO 12)).event Reg.ISL_EVT 7 else s6

/-- The settlement of a quay by the outcome of detector 1 (R251). -/
def State.islSettle (s : State) (q : Quay) (o : Nat) : State :=
  let prov := s.isl.prov.find? fun e => e.seq == q.seq
  let pd := match prov with | some e => e.decs | none => []
  let s0 := (s.islReadDrop q.seq 2).modIsl fun x => { x with
    prov := x.prov.filter fun (e : IslProv) => e.seq != q.seq
    bases := x.bases.filter fun (e : Nat × IslState) => e.1 != q.seq }
  let skip (s : State) : State :=
    let (ref, dec) := s.islRef q.seq
    (s.islKeep ⟨q.seq, true, false, ref, dec⟩).islNotice q.seq o
  match o with
  | 1 =>
    match prov with
    | none => skip s0
    | some e =>
      let conf := (islOrder pd).map fun d => { d with status := 1 }
      let s1 := ((s0.islSendAll .confirmed q.seq conf).countBy (Reg.ISL_CNT_LO 4) conf.length).islKeep
        ⟨q.seq, true, true, e.eval.comps, islDecided conf⟩
      let s2 := if conf.isEmpty then s1 else s1.event Reg.ISL_EVT 0
      (s2.islNotice q.seq o).islRecordWrite q e.eval true o conf
  | 2 | 4 | 5 =>
    let fresh0 := match prov with | some e => e.eval.comps.filter (·.isNew) | none => []
    let read := s.islReadOf q 2
    let (s1, e, d0) := s0.islRun q (s.islBase q.seq) read.prior (s0.islSettledEntry read.quay) fresh0
    let same (a b : IslDec) : Bool := a.kind == b.kind && a.key == b.key
    let gone := (islOrder (pd.filter fun d => !(d0.any (same d)))).map fun d => { d with status := 2 }
    let conf := islOrder (d0.filterMap fun d => (pd.find? (same d)).map fun p =>
      { d with status := 1, decId := p.decId, sevChg := p.severity != d.severity, membChg := p.nodes != d.nodes })
    let (s2, news0) := s1.islNumber (islOrder (d0.filter fun d => !(pd.any (same d))))
    let news := news0.map fun d => { d with status := 3, incomplete := o == 4 }
    let s3 := ((s2.islSendAll .retracted q.seq gone).islSendAll .confirmed q.seq conf).islSendAll .settledNew q.seq news
    let s4 := ((((s3.count (Reg.ISL_CNT_LO 1)).countBy (Reg.ISL_CNT_LO 4) conf.length).countBy (Reg.ISL_CNT_LO 5) gone.length).countBy
      (Reg.ISL_CNT_LO 6) news.length).islKeep ⟨q.seq, true, true, e.comps, islDecided (conf ++ news)⟩
    let s5 := if conf.isEmpty ∧ news.isEmpty then s4 else s4.event Reg.ISL_EVT 0
    let s6 := if gone.isEmpty then s5 else s5.event Reg.ISL_EVT 1
    let s7 := (s6.islNotice q.seq o).islRecordWrite q e true o (gone ++ conf ++ news)
    if (q.detOf 1).routedAt + 1000 * subPerUs < s7.dt then (s7.count (Reg.ISL_CNT_LO 12)).event Reg.ISL_EVT 7 else s7
  | 3 => skip s0
  | _ => s0

/-- The provisional decisions on a quay are retracted without an evaluation, and its list is its reference list. DESIGN CHOICE (log entry 73):
so settles a quay whose settlement task may not run, the unit being off. -/
def State.islRetract (s : State) (q : Quay) (o : Nat) : State :=
  let gone := islOrder (((s.isl.prov.filter fun e => e.seq == q.seq).flatMap (·.decs)).map fun (d : IslDec) => { d with status := 2 })
  let s1 := ((s.modIsl fun x => { x with
    prov := x.prov.filter fun (e : IslProv) => e.seq != q.seq
    bases := x.bases.filter fun (e : Nat × IslState) => e.1 != q.seq }).islSendAll .retracted q.seq gone).countBy (Reg.ISL_CNT_LO 5) gone.length
  let r := s1.islRef q.seq
  ((if gone.isEmpty then s1 else s1.event Reg.ISL_EVT 1).islKeep ⟨q.seq, true, false, r.1, r.2⟩).islNotice q.seq o

/-- The task of the fold of a quay (R252, R253). -/
def State.islFoldTask (s : State) (seq : Nat) : TaskReq := ⟨3, 4, 38, 3, s.islEngine seq, none, 0, seq % 2 ^ 32, 0⟩

/-- The settlement that is due, by the settlement task that runs where it evaluates (R29); detector 1 is then settled and the fold of its
quay due (R251, R252). -/
def islSettleEvalRow (s : State) : State :=
  match s.isl.settleDue with
  | [] => s
  | seq :: rest =>
    let off (s : State) : State := s.modIsl fun x => { x with settleDue := rest }
    match s.quay? seq with
    | none => off s
    | some q =>
      let o := (q.detOf 1).routed.getD 3
      let done (s : State) : State :=
        let s1 := (off s).detFinish seq 1 o
        if s1.islEn then (s1.modIsl fun x => { x with foldDue := x.foldDue ++ [seq] }).wantTask (s1.islFoldTask seq) else s1
      if !needsTask o then done (s.islSettle q o)
      else if !s.taskStands 38 2 0 (seq % 2 ^ 32) then done (s.islRetract q o)
      else match (s.workTask 38 2 0).filter fun t => t.2.quayTag == seq % 2 ^ 32 with
        | some t => done ((s.islRan t seq).islSettle q o)
        | none => s

/-- The staging block of the checkpoint: the one it has, or the lowest free one within the quota (R41, R42). -/
def State.islBlock (s : State) : Option Nat :=
  match s.isl.checkpoint.filter fun c => s.leases.any fun l => l.pool == 5 && l.index == c.1 && l.owner == some 38 with
  | some c => some c.1
  | none => if s.quota 38 5 ≤ s.leaseHeld 5 38 then none else (List.range 256).find? (s.leaseFree 5)

/-- The committed state checkpointed to a DRAM staging block (R41, R252). -/
def State.islCheckpoint (s : State) : State :=
  match s.islBlock with
  | some i => (if s.leaseFree 5 i then s.leaseTake 5 i 38 else s).modIsl fun x => { x with checkpoint := some (i, x.com) }
  | none => s

/-- Whether the fold would write the copy that a task that has started reads: one whose base is no longer the committed state (R252). -/
def State.islFoldWaits (s : State) : Bool :=
  s.plt.tasks.any fun t => t.2.begun && t.2.owner == 38 && (t.2.typ == 1 || t.2.typ == 2) &&
    s.isl.bases.any fun b => b.1 % 2 ^ 32 == t.2.quayTag && b.2.baseSeq != s.isl.com.baseSeq

/-- What the fold of a quay makes of the committed state (R238, R252), with its evaluation. -/
def State.islFolded (s : State) (q : Quay) : IslState × IslEval :=
  let set := s.quaySet q
  let x := s.islFor q s.isl.com
  let get := s.islSettledEntry (s.islReadOf q 3).quay
  let branches := islFoldStatuses set x get
  let e := islEvaluate set x branches get q.seq false false
  let same : Bool := e.anchor.isSome && x.anchor == e.anchor
  let old : List (Nat × Rat) := if same then x.baselines else []
  let gain := Config.avgGain ((cohTau set : Rat) / 10) (((q.instant - x.baseInstant : Nat) : Rat) / (subPerSec : Rat))
  let base : List (Nat × Rat) :=
    if e.anchor.isNone then []
    else e.u.foldl (fun (m : List (Nat × Rat)) p =>
      match mapFind old p.1 with
      | some b => mapSet m p.1 (b + gain * (p.2 - b))
      | none => mapSet m p.1 p.2) old
  let listed := match s.isl.lists.find? fun l => l.seq == q.seq with | some l => l.comps | none => []
  ({ started := true, epoch := x.epoch, branches := branches, hasLabels := true, groups := e.groups, forest := islForest set branches, baselines := base,
     anchor := e.anchor, baseSeq := q.seq, baseInstant := q.instant, gridStart := q.gridStart, tables := islTables set, listed := listed,
     observed := e.observed, live := e.live, nComp := e.nComp, noMain := e.noMain }, e)

/-- The fold of the oldest settled quay, by the task that runs (R29, R252); it waits for a task that reads the copy it would write. -/
def islFoldRow (s : State) : State :=
  match s.isl.foldDue, s.workTask 38 3 0 with
  | seq :: rest, some t =>
    if t.2.quayTag ≠ seq % 2 ^ 32 ∨ s.islFoldWaits then s
    else
      let s1 := (s.taskWorked t.1).modIsl fun x => { x with foldDue := rest }
      match s1.quay? seq with
      | none => s1
      | some q =>
        let r := s1.islFolded q
        let s2 := (((s1.islReadDrop seq 3).modIsl fun i => { i with com := r.1 }).setReg64 Reg.ISL_BASE_SEQ_LO seq).count (Reg.ISL_CNT_LO 2)
        (if r.2.full then (s2.count (Reg.ISL_CNT_LO 3)).event Reg.ISL_EVT 8 else s2).islCheckpoint
  | _, _ => s

/-! ### The pilot's part (R29, R216, R254) -/

/-- Whether a task of the oscillation or the islanding unit still has its work before it: it completes only when that is done (log
entry 2). -/
def State.workDue (s : State) (t : Task) : Bool :=
  let settles (n : Nat) : Bool := n % 2 ^ 32 == t.quayTag
  !t.worked && !t.abortReq &&
    match t.owner, t.typ with
    | 37, 1 => (s.taskQuay t).any fun q => s.oscProvDue q t.arg
    | 37, 2 => s.osc.settleDue.any fun x => settles x.1 && x.2 == t.arg
    | 37, 3 => s.osc.foldDue.any fun x => settles x.1 && x.2 == t.arg
    | 37, 4 => s.osc.extractDue.contains t.arg
    | 38, 1 => (s.taskQuay t).any fun q =>
        (q.detOf 1).outcome == 0 && (q.detOf 1).routed.isNone && !(s.isl.prov.any fun e => e.seq == q.seq)
    | 38, 2 => s.isl.settleDue.any settles
    | 38, 3 => s.isl.foldDue.any settles
    | _, _ => false

/-- A running task completes, its unit's work done (R29, R389). -/
def workCompleteRow (i : Nat) (s : State) : State := if s.workDue (s.task i) then s else taskCompleteRow i s

/-- A probe of a node in the committed state (R268): the result stands at once. -/
def islNodeProbeRow (v : Word) (s : State) : State :=
  let n := bitsOf v.toNat 0 16
  let c := s.isl.com
  let id := match c.listed.find? fun x => x.nodes.contains n with
    | some x => if s.islEn then x.id else 0xFFFF
    | none => 0xFFFF
  (s.writeReg Reg.ISL_NODE_SEL v).setReg Reg.ISL_NODE_RES
    (BitVec.ofNat 32 (2 ^ 31 + id + 2 ^ 16 * b2n (c.live.contains n) + 2 ^ 17 * b2n (c.observed.contains n)))

/-- A probe of a branch in the committed state (R268). -/
def islBranchProbeRow (v : Word) (s : State) : State :=
  let r := match mapFind s.isl.com.branches (bitsOf v.toNat 0 17) with
    | some b => b2n b.closed + 4 * b.cur + 16 * b2n b.known + 32 * b2n b.conflict + 64 * b2n b.rawUnknown
    | none => 8
  (s.writeReg Reg.ISL_BR_SEL v).setReg Reg.ISL_BR_RES (BitVec.ofNat 32 (2 ^ 31 + r))

/-! ### Views (R268) -/

/-- ISL_STATUS. -/
def State.islStatus (s : State) : Nat :=
  let c := s.isl.com
  b2n (s.islEn && (detCfg s.cfg.active 1).en) + 2 * b2n c.noMain + 2 ^ 8 * min 63 (c.listed.filter fun x => !x.main).length +
    2 ^ 16 * min 65535 c.nComp

/-- What a read of ISL_WIN_DATA returns. -/
def State.islWinWord (s : State) : Word :=
  let t := s.fld Reg.ISL_WIN_ADDR 24 2
  let off := s.fld Reg.ISL_WIN_ADDR 0 23 / 4 * 4
  if nth 0 [64, 1048576, 4194304, 65536] t ≤ off then 0 else cfgWord s.cfg.active 7 t off

/-- The offset of ISL_WIN after a read of its data. -/
def State.islWinStep (s : State) : State := s.setFld Reg.ISL_WIN_ADDR 0 23 (s.fld Reg.ISL_WIN_ADDR 0 23 + 4)

/-- ISL_EVT.TOPO_STALE when a directory apply has moved an input outside its berth (R261). -/
def State.islStaleNote (s : State) : State := if islOut s.cfg.active s.bin.live then s.event Reg.ISL_EVT 3 else s

/-! ### The settlement of quays with both units (R169 to R171) -/

/-- The groups of the oscillation unit that settle on a quay: those due, and those with a provisional evaluation. -/
def State.oscSettling (s : State) (q : Quay) : List Nat :=
  let due := s.oscDue q
  due ++ ((s.osc.prov.filter fun e => e.seq == q.seq && !due.contains e.group).map (·.group))

/-- The outcome of detector d goes to its unit, which settles it, or stands at once. -/
def State.detRoute (s : State) (q : Quay) (d o : Nat) : State :=
  let s1 := s.modDet q.seq d fun r => { r with routed := some o, routedAt := s.dt }
  let s2 := if d < 2 then s1.withdraw q.seq d else s1
  if d = 0 then
    let gs := s2.oscSettling q
    if o = 6 ∨ gs.isEmpty then (s2.detFinish q.seq 0 o)
    else
      let s3 := s2.modOsc fun x => { x with settleDue := x.settleDue ++ gs.map fun g => (q.seq, g) }
      if needsTask o ∧ s3.oscEn then gs.foldl (fun (s : State) g => s.wantTask (s.oscTask g q.seq 2)) s3 else s3
  else if d = 1 then
    if o = 6 ∨ !(s2.islEn || s2.isl.prov.any fun e => e.seq == q.seq) then s2.detFinish q.seq 1 o
    else
      let s3 := s2.modIsl fun x => { x with settleDue := x.settleDue ++ [q.seq] }
      if needsTask o ∧ s3.islEn then s3.wantTask (s3.islTask q.seq 2) else s3
  else s2.detFinish q.seq d o

/-- Every detector of a settled quay whose outcome can be decided is routed (R170, R171). -/
def State.detSettle (s : State) (seq : Nat) : State :=
  (List.range 4).foldl (fun (s : State) d =>
    match s.quay? seq with
    | some q =>
      if q.state ≠ .settled ∨ (q.detOf d).outcome ≠ 0 ∨ (q.detOf d).routed.isSome then s
      else match s.detOutcome q d with
        | some o => s.detRoute q d o
        | none => s
    | none => s) s

/-- A quay reaches its close instant plus the close guard and settles (R157, R169, R170). -/
def quaySettleRow (s : State) : State :=
  match s.settleNext with
  | some q => (s.settleBegin q).detSettle q.seq
  | none => s

/-- The settlements that waited for a task (R171). -/
def State.detSettleAll (s : State) : State :=
  (s.aln.quays.filter fun q => q.state == .settled && !q.settleDone).foldl (fun (s : State) q => s.detSettle q.seq) s

end Sys2Proof.Machine
end

