-- ==== Sys2Proof/Machine/Alarm.lean ====
section
/-! DEFINITION. The alarm unit (R270 to R286, R297): inputs, rules, slots and their states, acknowledgements, the lighthouse pins,
and the alarm messages. -/

namespace Sys2Proof.Machine

/-- The state with the alarm unit changed. -/
def State.modAlm (s : State) (f : Alm → Alm) : State := { s with alm := f s.alm }

/-! ### Slots (R271, R274, R286) -/

/-- The code of an alarm state (R286). -/
def AlmSt.code : AlmSt → Nat
  | .free => 0 | .prov => 1 | .conf => 2 | .retracted => 3 | .cleared => 4

/-- Whether a slot is in PROV or CONF. -/
def AlmSlot.live (x : AlmSlot) : Bool := x.st == .prov || x.st == .conf

/-- SEVERITY (R274); 0 in FREE (R286). -/
def AlmSlot.severity (x : AlmSlot) : Nat := if x.st = .free then 0 else max x.sevS (if 0 < x.provOpen then x.sevP else 0)

/-- Slot n. -/
def State.slot (s : State) (n : Nat) : AlmSlot := mapGet (fun _ => ({} : AlmSlot)) s.alm.slots n

/-- The state with slot n set. -/
def State.setSlot (s : State) (n : Nat) (x : AlmSlot) : State :=
  s.modAlm fun a => { a with slots := mapPut (fun _ => ({} : AlmSlot)) a.slots n x }

/-- A slot record (R286). -/
def AlmSlot.record (x : AlmSlot) (n : Nat) : List Byte :=
  padTo 64 (leBytes 1 (x.st.code + 8 * b2n x.acked + 16 * b2n x.clearPend + 32 * b2n x.overflow + 64 * x.severity) ++
    leBytes 1 (x.src + 16 * x.kind) ++ leBytes 2 x.key ++ leBytes 1 x.sub ++ leBytes 1 x.rule ++ leBytes 2 n ++ leBytes 4 x.gen ++
    leBytes 4 x.decId ++ leBytes 8 x.quaySeq ++ leBytes 2 x.conf ++ leBytes 1 x.event ++ leBytes 1 x.provOpen ++ tsBytes x.at_ ++
    leBytes 4 x.changes ++ leBytes 1 x.miss ++ leBytes 1 (x.sevP + 4 * x.sevS))

/-- CLEAR_N of a slot's class. -/
def AlmSlot.clearN (x : AlmSlot) : Nat := bitsOf x.rule0.toNat 24 8
/-- LATCH of a slot's class. -/
def AlmSlot.latch (x : AlmSlot) : Bool := x.rule0.getLsbD 17
/-- FRAME_MASK of a slot's class. -/
def AlmSlot.frameMask (x : AlmSlot) : Nat := bitsOf x.rule0.toNat 20 4

/-- Slots in PROV or CONF (ALM_STATUS.ACTIVE). -/
def State.almActive (s : State) : Nat := (s.alm.slots.filter fun x => x.2.live).length
/-- Slots that are not FREE (ALM_STATUS.USED). -/
def State.almUsed (s : State) : Nat := (s.alm.slots.filter fun x => x.2.st != .free).length

/-! ### Pins (R279 to R282) -/

/-- The entry of pin p in the pin table (R294). -/
def State.pinCfg (s : State) (p : Nat) : Nat := (cfgWord s.cfg.active 8 2 (8 * p)).toNat

/-- Whether a slot holds a LEVEL pin with entry w at its active level. -/
def AlmSlot.holdsPin (x : AlmSlot) (w p : Nat) : Bool :=
  bitOf x.pinMask p && ((x.st == .prov && bitOf w 8) || (x.st == .conf && bitOf w 9)) && decide (bitsOf w 4 2 ≤ x.severity) &&
    !(x.acked && bitOf w 3)

/-- Whether pin p stands at its active level (R279, R281, R282), or at the level of FLT_SAFE after a stop (R491). -/
def State.pinLevel (s : State) (p : Nat) : Bool :=
  let w := s.pinCfg p
  if s.flt.pinsSafe then s.bit Reg.FLT_SAFE p
  else if s.bit Reg.ALM_CTRL 2 && s.bit Reg.ALM_PIN_FORCE p then s.bit Reg.ALM_PIN_FORCE (16 + p)
  else if !s.bit Reg.ALM_CTRL 0 || (!s.isActive && !s.bit Reg.ALM_CTRL 3) then false
  else match bitsOf w 0 2 with
    | 1 => s.alm.slots.any fun x => x.2.holdsPin w p
    | 2 => (nth {} s.alm.pins p).pulse.isSome
    | _ => false

/-- Pin p at its level of the moment; a change of level is stamped (R280). -/
def State.pinDrive (s : State) (p : Nat) : State :=
  let on := s.pinLevel p
  let high : Option Bool := if s.alm.pinsDriven then some (on != bitOf (s.pinCfg p) 2) else none
  let old := nth ({} : Pin) s.alm.pins p
  let s1 := s.modAlm fun a => { a with pins := a.pins.modify p fun x => { x with active := s.alm.pinsDriven && on, high := high } }
  if old.high = high then s1 else s1.setTs (Reg.ALM_PIN_TS_SUBNS p) s.dt

/-- Every pin at its level of the moment; during a takeover the pins wait for its end (R472). -/
def State.pinsDrive (s : State) : State := if s.alm.pinsHold then s else (List.range 16).foldl State.pinDrive s

/-- The pulses that a slot's transition starts (R279). -/
def State.pulses (s : State) (x : AlmSlot) : State :=
  (List.range 16).foldl (fun (s : State) p =>
    let w := s.pinCfg p
    if bitsOf w 0 2 = 2 ∧ bitOf x.pinMask p ∧ 1 ≤ x.st.code ∧ bitOf w (7 + x.st.code) ∧ bitsOf w 4 2 ≤ x.severity then
      (s.modAlm fun a => { a with pins := a.pins.modify p fun y => { y with pulse := some (s.dt + bitsOf w 16 16 * 10 * subPerUs) } }).count
        (Reg.ALM_CNT_LO 8)
    else s) s

/-- The width of a pulse on pin p expires (R279). -/
def lhPulseEndRow (p : Nat) (s : State) : State :=
  match (nth ({} : Pin) s.alm.pins p).pulse with
  | some t => ((s.advance t).modAlm fun a => { a with pins := a.pins.modify p fun y => { y with pulse := none } }).pinsDrive
  | none => s

/-! ### UDP frames of the device -/

/-- A UDP over IPv4 frame without its FCS: addresses as bytes, the TCI of a tag, DSCP, TTL, identification, DF, ports and payload. -/
def udpFrame (dst src : List Byte) (tag : Option Nat) (dscp ttl ident : Nat) (df : Bool) (sip dip : List Byte) (sp dp : Nat)
    (pl : List Byte) : List Byte :=
  let eth := dst ++ src ++ (match tag with | some t => beBytes 2 0x8100 ++ beBytes 2 t | none => []) ++ beBytes 2 0x0800
  let ip0 := [0x45] ++ leBytes 1 (4 * dscp) ++ beBytes 2 (28 + pl.length) ++ beBytes 2 ident ++ beBytes 2 (if df then 0x4000 else 0) ++
    leBytes 1 ttl ++ [17, 0, 0] ++ sip ++ dip
  let ip := patch ip0 10 (beBytes 2 (inetCsum ip0))
  let udp0 := beBytes 2 sp ++ beBytes 2 dp ++ beBytes 2 (8 + pl.length)
  let c := inetCsum (sip ++ dip ++ [0, 17] ++ beBytes 2 (8 + pl.length) ++ udp0 ++ [0, 0] ++ pl)
  eth ++ ip ++ udp0 ++ beBytes 2 (if c = 0 then 65535 else c) ++ pl

/-- The TCI of a destination or stream entry, when its TAG_EN is 1 (R294): VID in [11:0], PCP in [14:12], TAG_EN in [15]. -/
def tagOf (w : Nat) : Option Nat := if bitOf w 15 then some (bitsOf w 0 12 + bitsOf w 12 3 * 8192) else none

/-- Bytes of a table entry, in order. -/
def cfgBytes (set : CfgSet) (typ tab off n : Nat) : List Byte := (List.range n).map fun i => BitVec.ofNat 8 (cfgByte set typ tab (off + i))

/-! ### Alarm messages (R283 to R285) -/

/-- Whether destination d is enabled in the active set. -/
def State.destEn (s : State) (d : Nat) : Bool := cfgBits s.cfg.active 8 3 (32 * d) 0 1 == 1

/-- One copy of a message to every port of destination d (R283): SENT_AT and CRC are those of the moment it is queued (R285). -/
def State.almCopy (s : State) (d : Nat) (pl : List Byte) : State :=
  let set := s.cfg.active
  let o := 32 * d
  let p1 := patch (patch pl 12 (tsBytes s.dt)) 28 [0, 0, 0, 0]
  let p2 := patch p1 28 (leBytes 4 (crc32c p1))
  ((maskList 6 (cfgBits set 8 3 (o + 1) 0 6)).filter fun p => s.prpOf p != some (p - 1) || p % 2 == 0).foldl (fun (s : State) p =>
    let b := udpFrame (cfgBytes set 8 3 (o + 4) 6) (leBytes 6 (s.stationMac p)) (tagOf (cfgNum set 8 3 (o + 10) 2))
      (cfgBits set 8 3 (o + 24) 0 6) 64 (s.freshVal % 65536) true (cfgBytes set 8 3 (o + 16) 4) (cfgBytes set 8 3 (o + 12) 4)
      (cfgNum set 8 3 (o + 22) 2) (cfgNum set 8 3 (o + 20) 2) p2
    (s.offer p .alarm (.raw b) b.length none).freshNext) s

/-- A message of TYPE `typ` sent to destination d (R285): its SEQ mirrored first (R293), then the first copy; the repeats wait. A keepalive
leaves the entries of a message that is being gathered where they are (R283, R284). -/
def State.almSendMsg (s : State) (d typ : Nat) (entries : List (List Byte)) : State :=
  let x := nth ({} : AlmDest) s.alm.dest d
  let seq := (x.seq + 1) % 2 ^ 32
  let flags := b2n x.handover + 2 * b2n (s.tb.dtState != .locked) + 8 * b2n x.tableFull
  let pl := leBytes 1 1 ++ leBytes 1 typ ++ leBytes 1 entries.length ++ leBytes 1 flags ++ s.deviceId ++ leBytes 4 seq ++
    tsBytes s.dt ++ leBytes 2 s.almActive ++ [0, 0] ++ leBytes 4 0 ++ entries.flatten
  let rep := cfgBits s.cfg.active 8 3 (32 * d) 1 2
  let s1 := s.mirrorItem 3 (leBytes 1 d ++ [0, 0, 0] ++ leBytes 4 seq)
  let s2 := s1.modAlm fun a => { a with dest := a.dest.modify d fun x =>
    { x with seq := seq, entries := if typ = 0 then x.entries else [], lastAt := s.dt, handover := false, tableFull := false,
             repeats := x.repeats ++ (if rep = 0 then [] else [⟨pl, rep, s.dt⟩]) } }
  (s2.count (Reg.ALM_CNT_LO (if typ = 0 then 5 else 4))).almCopy d pl

/-- The message being gathered for destination d is closed and sent. -/
def State.almClose (s : State) (d : Nat) : State :=
  let x := nth ({} : AlmDest) s.alm.dest d
  if x.entries.isEmpty then s else s.almSendMsg d 1 x.entries

/-- An alarm message is closed 10 µs after its first entry (R283). -/
def almMessageCloseRow (d : Nat) (s : State) : State :=
  let x := nth ({} : AlmDest) s.alm.dest d
  if x.entries.isEmpty then s else (s.advance (x.firstAt + 10 * subPerUs)).almClose d

/-- A repeat copy of the oldest message of destination d that has copies left (R285). -/
def almMessageRepeatRow (d : Nat) (s : State) : State :=
  match (nth ({} : AlmDest) s.alm.dest d).repeats with
  | [] => s
  | r :: rs =>
    let gap := cfgNum s.cfg.active 8 3 (32 * d + 2) 2 * subPerUs
    let s1 := s.advance (r.at_ + gap)
    let s2 := s1.modAlm fun a => { a with dest := a.dest.modify d fun x =>
      { x with repeats := rs ++ (if r.left ≤ 1 then [] else [⟨r.payload, r.left - 1, s1.dt⟩]) } }
    s2.almCopy d (patch r.payload 3 [BitVec.ofNat 8 (byteAt r.payload 3) ||| 4])

/-- A keepalive to destination d (R285): at the first reporting instant at least ALM_KEEPALIVE ms after its previous message. -/
def almKeepaliveRow (d : Nat) (s : State) : State :=
  let k := s.fld Reg.ALM_KEEPALIVE 0 16
  let due := (nth ({} : AlmDest) s.alm.dest d).lastAt + k * subPerMs
  if d < 4 ∧ s.destEn d ∧ s.isActive ∧ !s.isStopped ∧ k ≠ 0 ∧ s.tb.grid.rate ≠ 0 ∧ due ≤ s.tb.lastInstant then s.almSendMsg d 0 []
  else s

/-- An entry for a slot (R283), to every enabled destination of its class; a message with 16 entries is sent. -/
def State.almEntry (s : State) (x : AlmSlot) (n : Nat) : State :=
  let e := (x.record n).take 48
  if !s.isActive ∨ s.isStopped then s
  else
    (maskList 4 x.frameMask).foldl (fun (s : State) d =>
      if s.destEn d then
        let s1 := s.modAlm fun a => { a with dest := a.dest.modify d fun y =>
          { y with entries := y.entries ++ [e], firstAt := if y.entries.isEmpty then s.dt else y.firstAt } }
        if 16 ≤ (nth ({} : AlmDest) s1.alm.dest d).entries.length then s1.almClose d else s1
      else s) s

/-! ### Changes of a slot (R274 to R276, R283) -/

/-- What follows a change of slot n from `old` to `new` (R283): an entry for a transition, a change of severity, an accepted
acknowledgement or a setting of CLEAR_PEND, with the mirror's item, the capture condition, the record, the pulses and pins. -/
def State.almCommit (s : State) (n : Nat) (old new : AlmSlot) (acked : Bool) : State :=
  let moved : Bool := decide (old.st ≠ new.st)
  let entry : Bool := moved || decide (old.severity ≠ new.severity) || acked || (new.clearPend && !old.clearPend)
  let x : AlmSlot := if entry then
      { new with at_ := s.dt, changes := (new.changes + 1) % 2 ^ 32, moved := if moved then s.dt else new.moved } else new
  let s1 := s.setSlot n x
  if !entry then s1
  else
    let s2 := if moved then
        let t := (((s1.count (Reg.ALM_CNT_LO 1)).event Reg.ALM_EVT 0).logRaise 10 (unitCode 8) 0 [n % 256, n / 256, x.st.code]).pulses x
        t.capNotice 5 (fun b1 b2 => bitsOf b1 0 6 == x.rule && ((x.st == .prov && bitOf b2 0) || (x.st == .conf && bitOf b2 1))) s.dt 0
      else s1
    ((s2.mirrorItem 1 (leBytes 2 n ++ [0, 0] ++ (x.record n).take 48)).almEntry x n).pinsDrive

/-- A raise (R274): what is open of provisional decisions stays open. -/
def AlmSlot.raised (x : AlmSlot) : AlmSlot :=
  { x with gen := (x.gen + 1) % 2 ^ 32, sevS := 0, miss := 0, acked := false, clearPend := false, clearHeld := false, changes := 0 }

/-- The last decision's DEC_ID, quay, CONF and EVENT, and their values for a direct input (R286). -/
def AlmSlot.stamped (x : AlmSlot) (i : AlmInput) : AlmSlot :=
  if i.op = .raise ∨ i.op = .clear then { x with decId := 0, quaySeq := 2 ^ 64 - 1, conf := 0, event := 0 }
  else { x with decId := i.decId, quaySeq := i.quaySeq, conf := i.conf, event := if i.src = 2 then i.event else 0 }

/-- A settled decision or a QUORUM raise of a quay. -/
def AlmSlot.onQuay (x : AlmSlot) (seq : Nat) : AlmSlot := { x with quays := (seq :: x.quays).take 512 }

/-- The clear condition (R276). -/
def AlmSlot.clearCond (x : AlmSlot) : AlmSlot :=
  if x.st ≠ .conf then x
  else if 0 < x.provOpen then { x with clearHeld := true }
  else if !x.latch ∧ x.src ≠ 5 ∧ !x.overflow then { x with st := .cleared, clearHeld := false }
  else { x with clearPend := true, clearHeld := false }

/-- PROV_OPEN − 1. -/
def AlmSlot.decOpen (x : AlmSlot) (id : Nat) : AlmSlot := { x with provOpen := x.provOpen - 1, provIds := x.provIds.erase id }

/-- The slot in CONF with SEV_S, MISS 0 and CLEAR_PEND 0. -/
def AlmSlot.settledTo (x : AlmSlot) (sev : Nat) : AlmSlot :=
  { x with sevS := sev, miss := 0, clearPend := false, clearHeld := false, st := .conf }

/-- The effect of an input on its slot (R275). -/
def AlmSlot.apply (x0 : AlmSlot) (i : AlmInput) : AlmSlot :=
  let x : AlmSlot := x0.stamped i
  match i.op with
  | .provisional =>
    { x with provOpen := min (x.provOpen + 1) 255, provIds := x.provIds ++ [i.decId], sevP := i.sev,
             st := if x.st = .conf then .conf else .prov }
  | .confirmed | .settledNew =>
    let x1 : AlmSlot := if i.op = .confirmed then x.decOpen i.decId else x
    let x2 : AlmSlot := x1.onQuay i.quaySeq
    if i.src = 2 ∧ i.event = 7 then x2.clearCond else x2.settledTo i.sev
  | .retracted =>
    let x1 := x.decOpen i.decId
    let x2 : AlmSlot := { x1 with st := if x1.sevS ≠ 0 then .conf else if 0 < x1.provOpen then .prov else .retracted }
    if x2.clearHeld ∧ x2.provOpen = 0 then x2.clearCond else x2
  | .raise =>
    let x1 := x.settledTo i.sev
    if i.src = 3 ∧ i.kind = 4 then x1.onQuay i.quaySeq else x1
  | .clear => x.clearCond
  | .settle => x0

/-- The effect of a settle notice on a slot of its SRC and SUB (R270, R275). -/
def AlmSlot.miss1 (x : AlmSlot) (i : AlmInput) : AlmSlot :=
  let counts : Bool := i.outcome != 6 && (i.outcome != 3 || (x.src == 3 && x.kind == 4))
  if !x.live ∨ !counts ∨ x.quays.contains i.quaySeq then x
  else
    let y := { x with miss := min (x.miss + 1) 255 }
    if y.clearN ≤ y.miss then y.clearCond else y

/-! ### Rules (R272, R273, R278) -/

/-- Whether rule r of the active table matches an input (R272). -/
def State.ruleFits (s : State) (i : AlmInput) (r : Nat) : Bool :=
  let w := (cfgWord s.cfg.active 8 1 (16 * r)).toNat
  bitsOf w 0 4 != 0 && bitsOf w 0 4 == i.src && (bitsOf w 4 4 == 0 || bitsOf w 4 4 == i.kind) && (bitOf w 16 || bitsOf w 8 8 == i.sub)

/-- The class of an input: the first rule that matches it. -/
def State.ruleOf (s : State) (i : AlmInput) : Option Nat := (List.range 64).find? (s.ruleFits i)

/-- A slot in class r of the active table. -/
def State.inClass (s : State) (x : AlmSlot) (r : Nat) : AlmSlot :=
  { x with rule := r, rule0 := cfgWord s.cfg.active 8 1 (16 * r), pinMask := cfgNum s.cfg.active 8 1 (16 * r + 4) 2 }

/-- The slot that holds an identity (R271). -/
def State.slotOf (s : State) (i : AlmInput) : Option (Nat × AlmSlot) :=
  s.alm.slots.find? fun x => x.2.st != .free && !x.2.overflow && x.2.src == i.src && x.2.sub == i.sub && x.2.kind == i.kind && x.2.key == i.key

/-- The slot a new alarm takes (R273): the lowest FREE one, or the CLEARED or RETRACTED one whose last transition is oldest. -/
def State.slotFor (s : State) : Option Nat :=
  match (List.range 1024).find? fun n => (s.slot n).st == .free with
  | some n => some n
  | none =>
    ((s.alm.slots.filter fun x => x.1 < 1024 && (x.2.st == .cleared || x.2.st == .retracted)).foldl
      (fun (b : Option (Nat × AlmSlot)) x => match b with
        | some y => if x.2.moved < y.2.moved then some x else some y
        | none => some x) none).map (·.1)

/-- An input counted in UNROUTED. -/
def State.unrouted (s : State) : State := (s.count (Reg.ALM_CNT_LO 2)).event Reg.ALM_EVT 2

/-- An input that goes to the overflow slot of its rule (R273). -/
def State.almOverflow (s : State) (i : AlmInput) (r : Nat) : State :=
  let n := 1024 + r
  let s1 := ((s.count (Reg.ALM_CNT_LO 3)).event Reg.ALM_EVT 1).modAlm fun a => { a with dest := a.dest.map fun d => { d with tableFull := true } }
  let old := s1.slot n
  let x : AlmSlot :=
    if old.st = .conf then old
    else
      let w := (cfgWord s1.cfg.active 8 1 (16 * r)).toNat
      { (s1.inClass old.raised r) with
        overflow := true, src := bitsOf w 0 4, kind := bitsOf w 4 4, sub := bitsOf w 8 8, key := 0xFFFF, st := .conf }
  s1.almCommit n old { x.stamped i with sevS := max x.sevS i.sev } false

/-! ### Inputs (R270, R275, R278) -/

/-- The severity of a direct raise (R270). -/
def AlmInput.directSev (i : AlmInput) : Nat :=
  if i.src = 7 then i.sev
  else if (i.src = 4 ∧ i.kind = 2) ∨ (i.src = 5 ∧ 3 ≤ i.kind ∧ i.kind ≤ 6) then 2 else 1

/-- A settle notice meets every slot of its SRC and SUB. -/
def State.almNotice (s : State) (i : AlmInput) : State :=
  (s.alm.slots.filter fun x => x.2.src == i.src && x.2.sub == i.sub && !x.2.overflow).foldl (fun (s : State) x =>
    let old := s.slot x.1
    s.almCommit x.1 old (old.miss1 i) false) s

/-- An input applied to the alarm table. -/
def State.almApply (s : State) (i0 : AlmInput) : State :=
  let i := if i0.op = .raise then { i0 with sev := i0.directSev } else i0
  let ended : Bool := i.src == 2 && i.event == 7
  let raising : Bool := i.op == .raise || i.op == .provisional || ((i.op == .confirmed || i.op == .settledNew) && !ended)
  if i.op = .settle then s.almNotice i
  else
    match s.slotOf i with
    | some (n, x) =>
      if i.op = .retracted ∧ !x.provIds.contains i.decId then s.unrouted
      else if raising ∧ !x.live then
        let y := match s.ruleOf i with
          | some r => s.inClass x.raised r
          | none => x.raised
        s.almCommit n x (y.apply i) false
      else s.almCommit n x (x.apply i) false
    | none =>
      if i.op = .retracted then s.unrouted
      else match s.ruleOf i with
        | none => if i.src = 3 ∧ i.kind = 4 then s else s.unrouted
        | some r =>
          if !raising then s
          else match s.slotFor with
            | some n =>
              let old := s.slot n
              let x : AlmSlot := { gen := old.gen, src := i.src, sub := i.sub, kind := i.kind, key := i.key }
              s.almCommit n { old with st := .free } ((s.inClass x.raised r).apply i) false
            | none => s.almOverflow i r

/-- An input on the standby (R463): it waits in the replay list, without what belongs to quays that have reached SETTLE_DONE; a decision that
finds the list full is counted, in a count that no register shows (log entry 130). -/
def State.almReplay (s : State) (i : AlmInput) : State :=
  let stands (x : AlmInput) : Bool :=
    (x.src != 1 && x.src != 2 && x.src != 3) || (match s.quay? x.quaySeq with | some q => !q.settleDone | none => false)
  let kept := s.twn.replay.filter stands
  if !stands i then { s with twn := { s.twn with replay := kept } }
  else if kept.length < 4096 then { s with twn := { s.twn with replay := kept ++ [i] } }
  else { s with twn := { s.twn with replay := kept, replayOvf := true, replayLost := s.twn.replayLost + 1 } }

/-- The alarm unit takes the next input of the ALM channel (R270, R275, R278, R463). -/
def alarmInputRow (s : State) : State :=
  match s.alm.input with
  | [] => s
  | i :: rest =>
    let s1 := (s.modAlm fun a => { a with input := rest }).count (Reg.ALM_CNT_LO 0)
    if !s.bit Reg.ALM_CTRL 0 then s1
    else if !s.isActive then s1.almReplay i
    else s1.almApply i

/-! ### Acknowledgements (R277) -/

/-- An acknowledgement, with its result code. The standby's table is driven by the mirror only (R463), so it accepts none. -/
def State.almAck (s : State) (n gen : Nat) : State × Nat :=
  let x := s.slot n
  if !x.live ∨ !s.isActive then (s, 2)
  else if x.gen ≠ gen then ((s.count (Reg.ALM_CNT_LO 7)).event Reg.ALM_EVT 3, 1)
  else
    let y : AlmSlot := if x.clearPend ∨ x.overflow then { x with acked := true, st := .cleared, clearHeld := false } else { x with acked := true }
    ((s.count (Reg.ALM_CNT_LO 6)).almCommit n x y true, 0)

/-- An acknowledgement of a slot and GEN (R277). -/
def alarmAcknowledgeRow (n gen : Nat) (s : State) : State := (s.almAck n gen).1

/-- A write of ALM_ACK (R297). -/
def almAckGoRow (v : Word) (s : State) : State :=
  if v.getLsbD 31 then
    let r := s.almAck (bitsOf v.toNat 0 11) (s.reg Reg.ALM_ACK_GEN).toNat
    r.1.setReg Reg.ALM_ACK_RES (BitVec.ofNat 32 (2 ^ 31 + r.2))
  else s

/-- The ALM_ACK manifest (R277, R433). -/
def manAlmAck (n : Nat) (s : State) : State :=
  s.runManifest n 0x0030 fun mid b s =>
    let r := s.almAck (leAt b 20 2) (leAt b 24 4)
    r.1.finish mid stDone r.2 []

/-! ### Host raises and clears (R270, R297) -/

/-- A host input. -/
def State.almHostInput (s : State) (key kind sev : Nat) (clear : Bool) : State :=
  s.almSend { op := if clear then .clear else .raise, src := 7, sub := 0, kind := kind, key := key, sev := sev }

/-- A write of ALM_HOST (R297). -/
def almHostGoRow (v : Word) (s : State) : State :=
  let w := v.toNat
  let kind := bitsOf w 16 4
  let sev := bitsOf w 20 2
  if !bitOf w 31 ∨ kind = 0 then s
  else if bitOf w 22 then s.almHostInput (bitsOf w 0 16) kind 0 true
  else if sev = 1 ∨ sev = 2 then s.almHostInput (bitsOf w 0 16) kind sev false else s

/-- The ALM_HOST manifest (R270, R433). -/
def manAlmHost (n : Nat) (s : State) : State :=
  s.runManifest n 0x0031 fun mid b s =>
    (s.almHostInput (leAt b 20 2) (byteAt b 22) (byteAt b 23) (bitOf (byteAt b 24) 0)).finish0 mid stDone

/-! ### Registers (R297) -/

/-- A write of ALM_CTRL: with EN the time base's conditions that hold are raised again, since inputs were discarded until then. -/
def almCtrlWrite (v : Word) (s : State) : State :=
  let s0 := if v.getLsbD 1 then s.clearCounters (Reg.ALM_CNT_LO 0) 9 else s
  let s1 := s0.writeReg Reg.ALM_CTRL v
  let s2 :=
    if v.getLsbD 0 ∧ !s.bit Reg.ALM_CTRL 0 then
      let bad : Bool := s1.tb.dtState == .degraded || s1.tb.dtState == .freeRun
      ([(1, s1.tb.dtState != .locked), (2, bad), (3, s1.tb.xchkFail), (4, s1.tb.leapMismatch)].filter (·.2)).foldl
        (fun (s : State) c => s.tbAlarm c.1 true) s1
    else s1
  s2.pinsDrive

/-- A write of ALM_KEEPALIVE: 0, or clamped to 10 to 60,000. -/
def almKeepaliveWrite (v : Word) (s : State) : State :=
  let n := bitsOf v.toNat 0 16
  s.setReg Reg.ALM_KEEPALIVE (BitVec.ofNat 32 (if n = 0 then 0 else max 10 (min n 60000)))

/-- A write of ALM_PIN_FORCE. -/
def almPinForceWrite (v : Word) (s : State) : State := (s.writeReg Reg.ALM_PIN_FORCE v).pinsDrive

/-- The sizes of the tables of ALM_WIN. -/
def almTabSize (t : Nat) : Nat :=
  match t with
  | 0 => 64 * 1088 | 1 => 16 * 64 | 2 => 8 * 16 | _ => 32 * 4

/-- What a read of ALM_WIN_DATA returns: zero past the table's end. -/
def State.almWinWord (s : State) : Word :=
  let t := s.fld Reg.ALM_WIN_ADDR 24 2
  let off := s.fld Reg.ALM_WIN_ADDR 0 17 / 4 * 4
  if almTabSize t ≤ off then 0
  else if t = 0 then BitVec.ofNat 32 (leAt ((s.slot (off / 64)).record (off / 64)) (off % 64) 4)
  else cfgWord s.cfg.active 8 t off

/-- The offset of ALM_WIN after a read of its data. -/
def State.almWinStep (s : State) : State := s.setFld Reg.ALM_WIN_ADDR 0 17 (s.fld Reg.ALM_WIN_ADDR 0 17 + 4)

end Sys2Proof.Machine
end

