-- ==== Sys2Proof/Machine/Compose.lean ====
section
/-! DEFINITION. The output stream composer (R287 to R293, R295, R298): the data frames built from settled and sealed quays. -/

namespace Sys2Proof.Machine

/-! ### Values (R289) -/

/-- A number rounded to nearest. -/
def roundNear (q : Rat) : Int :=
  let f := q.floor
  let r := q - (f : Rat)
  if r < 1 / 2 then f else if 1 / 2 < r then f + 1 else if Config.roundTieUp q then f + 1 else f

/-- An integer clamped to a range. -/
def clampInt (lo hi v : Int) : Int := max lo (min hi v)

/-- The 16-bit field of an integer, big-endian. -/
def int16 (v : Int) : List Byte := beBytes 2 (toTwos 16 v)

/-- The field for "missing". -/
def missing16 : List Byte := [0x80, 0x00]

/-- An FP32 word, big-endian; a NaN goes out as the quiet NaN. -/
def floatField (w : Word) : List Byte := beBytes 4 (if f32Nan w then nanWord else w).toNat

/-- The integer field of (w − base) × k, clamped to ±32,767; an infinity stands at the end of its sign. -/
def intField (w : Word) (base k : Rat) : List Byte :=
  if f32Nan w then missing16
  else if f32Special w then int16 (if w.getLsbD 31 then -32767 else 32767)
  else int16 (clampInt (-32767) 32767 (roundNear ((f32Rat w - base) * k)))

/-- The magnitude of a phasor as an FP32 word. -/
def absWord (p : Word × Word) : Word :=
  if phFinite p then sqrtF32 (f32Mul p.1 p.1 + f32Mul p.2 p.2) else Config.specialF32 [p.1, p.2]

/-- The square root of a number, rounded to nearest; half way between two integers the open choice of Config decides. -/
def roundSqrt (x : Rat) : Int :=
  let n := Nat.sqrt (floorNat x)
  let half : Rat := (n : Rat) + 1 / 2
  if x < half * half then n else if half * half < x then n + 1 else if Config.roundTieUp half then n + 1 else n

/-- The magnitude of a finite phasor in units of a scale, rounded (R289). -/
def absInt (p : Word × Word) (scale : Rat) : Int := roundSqrt ((f32Mul p.1 p.1 + f32Mul p.2 p.2) / (scale * scale))

/-- arg × 10⁴ of a phasor, rounded: exact on the axes. -/
def argInt (p : Word × Word) : Int :=
  let re := f32Rat p.1
  let im := f32Rat p.2
  if im = 0 then (if re < 0 then 31416 else 0)
  else if re = 0 then (if im < 0 then -15708 else 15708)
  else roundNear (argRat re im * 10000)

/-- A phasor in a map entry's FORMAT (bit 0 polar, bit 1 float) at scale s. -/
def phasorField (fmt : Nat) (scale : Word) (p : Word × Word) : List Byte :=
  let nan : Bool := f32Nan p.1 || f32Nan p.2
  if bitOf fmt 1 then
    if nan then floatField nanWord ++ floatField nanWord
    else if bitOf fmt 0 then
      floatField (absWord p) ++ floatField (if phFinite p then toF32 (argRat (f32Rat p.1) (f32Rat p.2)) else Config.specialF32 [p.2, p.1])
    else floatField p.1 ++ floatField p.2
  else if nan then missing16 ++ missing16
  else if bitOf fmt 0 then
    beBytes 2 (if phFinite p then (clampInt 0 65535 (absInt p (f32Rat scale))).toNat else 65535) ++ int16 (argInt p)
  else intField p.1 0 (1 / f32Rat scale) ++ intField p.2 0 (1 / f32Rat scale)

/-! ### Blocks (R287, R288, R292) -/

/-- STAT of a block (R288) from the berth's STAT word and QC. -/
def State.outStat (s : State) (n : Nat) (tq stat qc : Nat) (miss : Bool) : Nat :=
  let ptq := bitsOf tq 4 3
  (if miss then 3 else bitsOf stat 14 2) * 2 ^ 14 + b2n (bitOf stat 13 || bitsOf tq 7 3 != 1) * 2 ^ 13 + b2n (bitOf stat 11) * 2 ^ 11 +
    b2n (bitOf stat 10 || s.bit (Reg.OUT_STR_CTRL n) 1) * 2 ^ 10 + b2n (bitOf stat 9 || qc == 2 || qc == 3) * 2 ^ 9 +
    (if bitsOf stat 6 3 = 0 then ptq else max (bitsOf stat 6 3) ptq) * 2 ^ 6 + bitsOf stat 0 6

/-- The map entry at place j (R295): its BERTH. -/
def mapBerth (set : CfgSet) (j : Nat) : Nat := cfgNum set 9 1 (32 * j) 2 % 8192

/-- Whether a block is sent as missing (R288, R290). -/
def Quay.blockMissing (q : Quay) (b : Nat) : Bool :=
  match q.entry b with
  | some e => !e.present || 4 ≤ e.qc || q.sealErr
  | none => true

/-- The block of map entry j for a quay. -/
def State.outBlock (s : State) (n : Nat) (q : Quay) (set : CfgSet) (j : Nat) : List Byte :=
  let o := 32 * j
  let b := mapBerth set j
  let fmt := cfgBits set 9 1 (o + 2) 0 4
  let word (k : Nat) : Word := cfgWord set 9 1 (o + k)
  let miss := q.blockMissing b
  let e? := q.entry b
  let get {α : Type} (l : Entry → List α) (i : Nat) : Option α := e?.bind fun e => (l e)[i]?
  let val (o? : Option Word) : Word := if miss then nanWord else o?.getD nanWord
  let stat := match e? with | some e => bitsOf e.status.toNat 0 16 | none => 0
  let qc := match e? with | some e => e.qc | none => 0
  let bank := (s.quayBank q).berth b
  let fnom : Rat := if bank.fnom50 then 50 else 60
  let ph := (maskList 32 (word 4).toNat).flatMap fun i =>
    let p : Word × Word := if miss then (nanWord, nanWord) else (get Entry.phasors i).getD (nanWord, nanWord)
    phasorField fmt (if bank.phCurrent.getLsbD i then word 12 else word 8) p
  let fr (w : Word) (base k : Rat) : List Byte := if bitOf fmt 3 then floatField w else intField w base k
  let an := (maskList 8 (cfgByte set 9 1 (o + 3))).flatMap fun i =>
    let w := val (get Entry.analogs i)
    if bitOf fmt 2 then floatField w else intField w 0 (1 / f32Rat (word 16))
  let dg := (maskList 4 (cfgBits set 9 1 (o + 2) 4 4)).flatMap fun i => beBytes 2 ((get Entry.digitals i).getD 0).toNat
  beBytes 2 (s.outStat n q.tq.toNat stat qc miss) ++ ph ++ fr (val (e?.map Entry.freq)) fnom 1000 ++ fr (val (e?.map Entry.rocof)) 0 100 ++ an ++ dg

/-- DEPTH_in of map entry j (R292). -/
def Quay.depthIn (q : Quay) (set : CfgSet) (j : Nat) : Nat :=
  if !bitOf (cfgNum set 9 1 (32 * j) 2) 15 then 0
  else match q.entry (mapBerth set j) with
    | some e =>
      if e.present then
        match e.analogs[1]? with
        | some w => ((List.range 16).find? fun (d : Nat) => decide (1 ≤ d) && f32Finite w && f32Rat w == ((d : Nat) : Rat)).getD 0
        | none => 0
      else 0
    | none => 0

/-- The latency block (R292). -/
def State.latencyBlock (s : State) (n : Nat) (q : Quay) (depth : Nat) : List Byte :=
  beBytes 2 (s.outStat n q.tq.toNat 0 0 false) ++ floatField nanWord ++ floatField nanWord ++
    floatField (toF32 (((s.dt : Rat) - (q.instant : Rat)) / (subPerUs : Rat))) ++ floatField (toF32 (depth : Rat))

/-! ### Frames (R287, R290) -/

/-- Whether stream n sends (R287); a fenced composer (R486) and a stopped device (R491) send nothing. -/
def State.strSends (s : State) (set : CfgSet) (n : Nat) : Bool :=
  cfgBits set 9 0 (64 * n) 0 1 == 1 && s.bit Reg.OUT_CTRL 0 && s.bit (Reg.OUT_STR_CTRL n) 0 && s.isActive && !s.isStopped && !s.unitFenced 9

/-- The settings word of stream n. -/
def strWord (set : CfgSet) (n : Nat) : Nat := (cfgWord set 9 0 (64 * n)).toNat

/-- The map entries of stream n. -/
def strMap (set : CfgSet) (n : Nat) : List Nat :=
  (List.range (cfgNum set 9 0 (64 * n + 34) 2 % 8192)).map fun i => cfgNum set 9 0 (64 * n + 32) 2 % 8192 + i

/-- FRACSEC of a quay (R287). -/
def fracsec (q : Quay) (base : Nat) : Nat :=
  let t := q.tq.toNat
  b2n (bitOf t 14) * 2 ^ 30 + b2n (bitOf t 12) * 2 ^ 29 + b2n (bitOf t 13) * 2 ^ 28 + bitsOf t 0 4 * 2 ^ 24 +
    (q.instant % subPerSec * base * 2 + subPerSec) / (2 * subPerSec)

/-- The data frame of stream n for a quay (R287), with DEPTH as it is sent. -/
def State.outFrame (s : State) (n : Nat) (q : Quay) (set : CfgSet) (depth : Nat) : List Byte :=
  let o := 64 * n
  let w := strWord set n
  let body := (strMap set n).flatMap (s.outBlock n q set) ++ (if bitOf w 2 then s.latencyBlock n q depth else [])
  let soc := ((s.utcOf q.sec) % (2 ^ 32 : Int)).toNat
  let f := beBytes 2 (if bitOf w 3 then 0xAA02 else 0xAA01) ++ beBytes 2 (16 + body.length) ++ beBytes 2 (cfgNum set 9 0 (o + 24) 2) ++
    beBytes 4 soc ++ beBytes 4 (fracsec q (cfgNum set 9 0 (o + 28) 3)) ++ body
  f ++ beBytes 2 (crcCcitt f)

/-- The state with stream n's record changed. -/
def State.modStr (s : State) (n : Nat) (f : OutStream → OutStream) : State :=
  { s with outp := { s.outp with str := s.outp.str.modify n f } }

/-- The frame of stream n for a quay is composed and queued (R287 to R292); the quay's SEQ is mirrored first (R293). The TTL and the
identification of its datagram are open. -/
def State.outCompose (s : State) (n : Nat) (q : Quay) (set : CfgSet) : State :=
  let o := 64 * n
  let w := strWord set n
  let din := ((strMap set n).map (q.depthIn set)).foldl max 0
  let depth := min (1 + din) 15
  let casc := bitOf w 2
  let s1 := s.mirrorItem 2 (leBytes 1 n ++ [0, 0, 0] ++ leBytes 8 q.seq)
  let pl := s1.outFrame n q set depth
  let miss := ((strMap set n).filter fun j => q.blockMissing (mapBerth set j)).length
  let ports := ((maskList 6 (bitsOf w 16 6)).map fun p => (s1.prpOf p).getD p).eraseDups
  let s2 := ports.foldl (fun (s : State) p =>
    let v := s.freshVal
    let b := udpFrame (cfgBytes set 9 0 (o + 16) 6) (leBytes 6 (s.stationMac p)) (tagOf (cfgNum set 9 0 (o + 22) 2))
      (cfgBits set 9 0 (o + 26) 0 6) (v / 65536 % 256) (v % 65536) (bitOf v 24) (cfgBytes set 9 0 (o + 8) 4) (cfgBytes set 9 0 (o + 4) 4)
      (cfgNum set 9 0 (o + 14) 2) (cfgNum set 9 0 (o + 12) 2) pl
    (s.offer p .out (.raw b) b.length none).freshNext) s1
  let s3 := (s2.count (Reg.OUT_CNT_LO n 0)).countBy (Reg.OUT_CNT_LO n 3) miss
  let s4 := if q.sealErr then (s3.count (Reg.OUT_CNT_LO n 2)).event Reg.OUT_EVT 3 else s3
  let s5 := if casc ∧ 15 ≤ din then s4.event Reg.OUT_EVT 2 else s4
  let s6 := if casc ∧ bitsOf w 9 4 < depth then (s5.count (Reg.OUT_CNT_LO n 4)).event Reg.OUT_EVT 1 else s5
  s6.modStr n fun x => { x with
    depth := if casc then depth else x.depth, last := q.seq, framed := true, sent := if bitOf w 1 then x.sent ++ [(q.seq, q.lateBlocks.length)] else x.sent }

/-- The streams whose stage a quay has reached: `settled` for SOURCE 1 (R287, R290). -/
def State.composeStage (s : State) (q : Quay) (settled : Bool) : State :=
  let set := s.quaySet q
  (List.range 8).foldl (fun (s : State) n =>
    let w := strWord set n
    let div := max 1 (bitsOf w 4 5)
    if s.strSends set n ∧ bitOf w 1 = settled ∧ q.k % div = 0 then s.outCompose n q set else s) s

/-- The seal counts the frames sent before a late block of theirs came (R290). -/
def State.lateAfterSend (s : State) (q : Quay) : State :=
  let set := s.quaySet q
  (List.range 8).foldl (fun (s : State) n =>
    match (nth ({} : OutStream) s.outp.str n).sent.find? fun x => x.1 == q.seq with
    | some x =>
      let hit := (q.lateBlocks.drop x.2).any fun b => (strMap set n).any fun j => mapBerth set j == b
      let s1 := s.modStr n fun y => { y with sent := y.sent.filter fun (z : Nat × Nat) => z.1 != q.seq }
      if hit then s1.count (Reg.OUT_CNT_LO n 5) else s1
    | none => s) s

/-- Composition after a command (R290): of the quays whose SETTLE_DONE it set, then of those it sealed. -/
def State.composeAfter (s0 s1 : State) : State :=
  let was (q : Quay) (f : Quay → Bool) : Bool := match s0.quay? q.seq with | some x => f x | none => false
  let done := s1.aln.quays.filter fun q => q.settleDone && !was q Quay.settleDone
  let sealed := s1.aln.quays.filter fun q => q.state == .sealed && !was q fun x => x.state == .sealed
  let s2 := done.foldl (fun (s : State) q => s.composeStage q true) s1
  sealed.foldl (fun (s : State) q => (s.lateAfterSend q).composeStage q false) s2

/-! ### Continuity (R293) -/

/-- A quay's instant is one of stream n's. -/
def outInstant (set : CfgSet) (n k : Nat) : Bool := k % max 1 (bitsOf (strWord set n) 4 5) == 0

/-- A quay by its SEQ, k and rate from which the k of those before it follows: the oldest held, or else the newest opened (R293). -/
def State.seqMark (s : State) : Nat × Nat × Nat :=
  match s.aln.quays.head? with
  | some q => (q.seq, q.k, q.rate)
  | none => (s.aln.nextSeq - 1, (s.aln.newestInstant.getD 0 % subPerSec * s.tb.grid.rate + subPerSec - 1) / subPerSec, s.tb.grid.rate)

/-- Stream n goes on after the mirrored SEQ `m`: the quays after it that stand at its stage are sent, the others that are gone are
counted in SKIPPED (R293). -/
def State.outContinue (s : State) (n m : Nat) : State :=
  if !s.strSends s.cfg.active n then s
  else
    let later := s.aln.quays.filter fun q => decide (m < q.seq)
    let first := (s.aln.quays.map (·.seq)).foldl min s.aln.nextSeq
    let (seq, k, rate) := s.seqMark
    let gone := ((List.range (first - (m + 1))).filter fun i =>
      outInstant s.cfg.active n ((k + (seq - (m + 1 + i)) * (rate - 1)) % max 1 rate)).length
    let s1 := if gone = 0 then s else (s.countBy (Reg.OUT_CNT_LO n 1) gone).event Reg.OUT_EVT 0
    later.foldl (fun (s : State) q =>
      let set := s.quaySet q
      let stage : Bool := if bitOf (strWord set n) 1 then q.settleDone else q.state == .sealed
      if s.strSends set n ∧ stage ∧ outInstant set n q.k then s.outCompose n q set else s) s1

/-! ### Registers (R298) -/

/-- A write of OUT_CTRL. -/
def outCtrlWrite (v : Word) (s : State) : State :=
  (if v.getLsbD 1 then s.clearCounters (Reg.OUT_CNT_LO 0 0) 64 else s).writeReg Reg.OUT_CTRL v

/-- OUT_STATUS. -/
def State.outStatus (s : State) : Nat := ((List.range 8).map fun n => 2 ^ n * b2n (s.strSends s.cfg.active n)).sum

/-- What a read of OUT_WIN_DATA returns. -/
def State.outWinWord (s : State) : Word :=
  let t := s.fld Reg.OUT_WIN_ADDR 24 2
  let off := s.fld Reg.OUT_WIN_ADDR 0 18 / 4 * 4
  if t = 0 ∧ off < 512 ∨ t = 1 then cfgWord s.cfg.active 9 t off else 0

/-- The offset of OUT_WIN after a read of its data. -/
def State.outWinStep (s : State) : State := s.setFld Reg.OUT_WIN_ADDR 0 18 (s.fld Reg.OUT_WIN_ADDR 0 18 + 4)

end Sys2Proof.Machine
end

