-- ==== Sys2Proof/Machine/Mtr.lean ====
section
/-! DEFINITION. Energy metering (chapter 10, R335 to R362): the quantities of a cycle, energy registers, netting, demand, events,
pulses, saves and the settlement records. Energies are whole numbers of 2⁻³² mWh. -/

namespace Sys2Proof.Machine

/-- The metering unit changed. -/
def State.modMtr (s : State) (f : Mtr → Mtr) : State := { s with mtr := f s.mtr }
/-- Metering point m. -/
def State.mPoint (s : State) (m : Nat) : MtrPoint := nth {} s.mtr.point m
/-- Metering point m changed. -/
def State.modPoint (s : State) (m : Nat) (f : MtrPoint → MtrPoint) : State := s.modMtr fun u => { u with point := u.point.modify m f }
/-- Pulse output o changed. -/
def State.modPulse (s : State) (o : Nat) (f : MtrPulse → MtrPulse) : State := s.modMtr fun u => { u with pulse := u.pulse.modify o f }

/-! ### The tables of R358 -/

/-- A byte of point m's entry. -/
def ptByte (set : CfgSet) (m i : Nat) : Nat := cfgByte set 0x0B 0 (32 * m + i)
/-- A number of point m's entry in FP32. -/
def ptF32 (set : CfgSet) (m i : Nat) : Rat := f32Rat (cfgWord set 0x0B 0 (32 * m + i))
/-- EN of a point. -/
def ptOn (set : CfgSet) (m : Nat) : Bool := bitOf (ptByte set m 0) 0
/-- WIRING of a point. -/
def ptWiring (set : CfgSet) (m : Nat) : Nat := bitsOf (ptByte set m 0) 1 2
/-- NET_MODE of a point. -/
def ptNet (set : CfgSet) (m : Nat) : Nat := bitsOf (ptByte set m 0) 4 2
/-- The channel of slot i. -/
def ptCh (set : CfgSet) (m i : Nat) : Nat := bitsOf (ptByte set m (4 + i)) 0 5
/-- Minutes of a demand interval. -/
def ptMinutes (set : CfgSet) (m : Nat) : Nat := nth 60 [1, 5, 10, 15, 30, 60] (bitsOf (ptByte set m 1) 0 3)
/-- The elements that carry energy, by voltage and current slot (R335). -/
def elements (wiring : Nat) : List (Nat × Nat) :=
  match wiring with
  | 1 => [(0, 4), (2, 6)]
  | 2 => [(0, 4)]
  | _ => [(0, 4), (1, 5), (2, 6)]

/-! ### The quantities of a cycle (R337, R338) -/

/-- The values of a channel over the sets of a list. -/
def chanOf (rows : List (List Word)) (c : Nat) : List Word := rows.map fun r => nth 0 r c

/-- The mean of the products of two lists. -/
def meanProd (a b : List Word) : Rat := sumRat (List.zipWith f32Mul a b) / ((max a.length 1 : Nat) : Rat)

/-- The fundamental of a slot over the sets of a cycle (R337), up to a real factor. -/
def cycleFund (l : List Word) : Rat × Rat :=
  sumPairs (l.mapIdx fun i x => turned (f32Rat x) (2 * piRat * (i : Rat) / (max l.length 1 : Nat)))

/-- What a point has of one cycle: the words it shows, P, Q and S, the mean squares of its slots, and the other values (`MtrVals.aggMean` gives
their order). -/
structure MtrQuant where
  vals : MtrVals
  p : Rat
  q : Rat
  s : Rat
  squares : List Rat
  others : List Rat
deriving DecidableEq, Repr

/-- The quantities of R337 of point m over a cycle; `noQ`: the first cycle after a start or a mode change. -/
def quantities (set : CfgSet) (m : Nat) (cyc : MtrCyc) (noQ : Bool) (old : MtrVals) : MtrQuant :=
  let slot (i : Nat) := chanOf cyc.vals (ptCh set m i)
  let squares := (List.range 8).map fun i => meanProd (slot i) (slot i)
  let rms := squares.map sqrtF32
  let els := elements (ptWiring set m)
  let late (i : Nat) := ((chanOf cyc.before (ptCh set m i)) ++ slot i).take cyc.n
  let p := sumRat (els.map fun e => meanProd (slot e.1) (slot e.2))
  let q := if noQ ∨ cyc.before.length < cyc.n / 4 then 0 else sumRat (els.map fun e => meanProd (late e.1) (slot e.2))
  let s := if ptWiring set m = 1 then sqrtRat (p * p + q * q)
    else sumRat (els.map fun e => sqrtRat (nth 0 squares e.1) * sqrtRat (nth 0 squares e.2))
  let fund (i : Nat) := cycleFund (slot i)
  let turn (a b : Rat × Rat) : Rat := argRat (a.1 * b.1 + a.2 * b.2) (a.2 * b.1 - a.1 * b.2)
  let angI := (List.range 3).map fun k => match els[k]? with | some e => turn (fund e.2) (fund e.1) | none => 0
  let angV := if ptWiring set m = 0 then [turn (fund 1) (fund 0), turn (fund 2) (fund 0)] else [0, 0]
  let pq := [p, q, s, if s = 0 then 0 else p / s, cyc.fm]
  { vals := { old with rms := rms, pq := pq.map toF32, angI := angI.map toF32, angV := angV.map toF32 }, p := p, q := q, s := s,
    squares := squares, others := pq ++ angI ++ angV }

/-- Two lists of numbers added place by place. -/
def addRats (a b : List Rat) : List Rat := List.zipWith (· + ·) a b

/-- The RMS words of an aggregate (R338): the root of the mean of the cycle squares. -/
def aggRoots (sum : List Rat) (n : Nat) : List Word := sum.map fun x => sqrtF32 (x / (n : Rat))
/-- The other words of an aggregate (R338): the mean over the cycles. -/
def aggMeans (sum : List Rat) (n : Nat) : List Word := sum.map fun x => toF32 (x / (n : Rat))

/-- The short aggregate of R338 with one more cycle: blocks of 10 or 12 cycles. -/
def aggShort (fnom50 : Bool) (q : MtrQuant) (p : MtrPoint) : MtrPoint :=
  let sum := addRats p.aggSum q.squares
  let val := addRats p.aggVal q.others
  let n := p.aggN + 1
  if n < (if fnom50 then 10 else 12) then { p with aggSum := sum, aggVal := val, aggN := n }
  else { p with aggSum := List.replicate 8 0, aggVal := List.replicate 10 0, aggN := 0,
                vals := { p.vals with agg := aggRoots sum n, aggMean := aggMeans val n } }

/-- The second aggregate of R338 with one more cycle: that of the second of the opening mark, which ends with the cycle that closes in a later
second. -/
def aggSecond (cyc : MtrCyc) (q : MtrQuant) (p : MtrPoint) : MtrPoint :=
  let fresh := p.secN = 0 ∨ p.secOf ≠ secOf cyc.open_
  let sum := if fresh then q.squares else addRats p.secSum q.squares
  let val := if fresh then q.others else addRats p.secVal q.others
  let n := if fresh then 1 else p.secN + 1
  let p1 := { p with secSum := sum, secVal := val, secN := n, secOf := secOf cyc.open_ }
  if secOf cyc.close_ = secOf cyc.open_ then p1
  else { p1 with secN := 0, vals := { p1.vals with sec := aggRoots sum n, secMean := aggMeans val n } }

/-- The two aggregates of R338 with one more cycle. -/
def aggregate (fnom50 : Bool) (cyc : MtrCyc) (q : MtrQuant) (p : MtrPoint) : MtrPoint := aggSecond cyc q (aggShort fnom50 q p)

/-! ### Alarm conditions (R344) -/

/-- One condition with one more cycle: whether it is raised or cleared now. -/
def condStep (need : Nat) (raise clear : Bool) (c : MtrCond) : MtrCond × Bool :=
  if (if c.raised then clear else raise) then
    if need ≤ c.run + 1 then ({ raised := !c.raised, run := 0 }, true) else ({ c with run := c.run + 1 }, false)
  else ({ c with run := 0 }, false)

/-- Condition k of point m after a cycle, with its alarm input and event: 0 to 3 overcurrent, 4 to 6 undervoltage, 7 to 9
overvoltage. -/
def State.mtrCond (s : State) (m k : Nat) : State :=
  let set := s.mtr.set
  let rms (i : Nat) := f32Rat (nth 0 (s.mPoint m).vals.rms i)
  let vnom := ptF32 set m 24
  let pct (n : Nat) : Rat := (n : Rat) / 100 * vnom
  let oc := ptF32 set m 16
  let uv := ptByte set m 21
  let ov := ptByte set m 22
  let r : Bool × Bool :=
    if k < 4 then (oc != 0 && oc ≤ rms (4 + k), oc == 0 || rms (4 + k) < 95 / 100 * oc)
    else if k < 7 then (uv != 0 && rms (k - 4) < pct uv, uv == 0 || pct (uv + 2) ≤ rms (k - 4))
    else (ov != 0 && pct ov < rms (k - 7), ov == 0 || rms (k - 7) ≤ pct (ov - 2))
  let st := condStep (max (ptByte set m 20) 1) r.1 r.2 (nth {} (s.mPoint m).cond k)
  let s1 := s.modPoint m fun p => { p with cond := p.cond.set k st.1 }
  if st.2 then
    let kind := if k < 4 then 1 else if k < 7 then 2 else 3
    let key := if k < 4 then k else if k < 7 then k - 4 else k - 7
    let s2 := s1.almSend { op := if st.1.raised then .raise else .clear, src := 6, sub := m, kind := kind, key := key, sev := 1 }
    if st.1.raised then s2.event Reg.MTR_EVT (if k < 4 then 5 else 6) else s2
  else s1

/-! ### Pulses (R345 to R347) -/

/-- The weight of output o in units of 2⁻³² mWh (R345). -/
def pulseWeight (set : CfgSet) (o : Nat) : Nat := 1000000 * 2 ^ 32 / max (cfgNum set 0x0B 1 (8 * o + 4) 4) 1

/-- Twice the pulse width of output o. -/
def pulseGap (set : CfgSet) (o : Nat) : Nat := 2 * cfgNum set 0x0B 1 (8 * o + 2) 2 * 10 * subPerUs

/-- 2 / f_nom (R347). -/
def twoCycles (fnom50 : Bool) : Nat := if fnom50 then 40 * subPerMs else 2 * subPerSec / 60

/-- The pulses of an energy `d` that lies ahead of residue `r`: one for each crossing of the weight, at its crossing instant
plus 2 / f_nom or delayed behind the pulse before; with more than 16 delayed ones the surplus stays in the residue (R347). -/
def pulseIssue (w gap delay start len d r0 : Nat) : Nat → Nat → Nat → MtrPulse → MtrPulse × Nat
  | 0, _, r, p => (p, r)
  | fuel + 1, k, r, p =>
    if r < w then (p, r)
    else
      let crossing := start + (if d = 0 then 0 else (k * w - r0) * len / d)
      let want := crossing + delay
      let prev := match p.sched.getLast? with | some x => some x.1 | none => p.last
      let at_ := match prev with | some x => max want (x + gap) | none => want
      if want < at_ ∧ 16 ≤ (p.sched.filter (·.2)).length then ({ p with sat := true }, r)
      else pulseIssue w gap delay start len d r0 fuel (k + 1) (r - w) { p with sched := p.sched ++ [(at_, decide (want < at_))] }

/-- Energy added to one direction's residue of output o over an interval (R346). SAT is set while a residue of the output carries a surplus,
and clears with energy that leaves none (R347; that it clears is a DESIGN CHOICE, log entry 135). -/
def State.pulseAdd (s : State) (o : Nat) (imp : Bool) (d start len : Nat) : State :=
  let set := s.mtr.set
  let p := nth {} s.mtr.pulse o
  let r0 := if imp then p.resImp else p.resExp
  let w := pulseWeight set o
  let x := pulseIssue w (pulseGap set o) (twoCycles (bitOf (feCfg s.fe.set) 1)) start len d r0 ((r0 + d) / max w 1) 1 (r0 + d)
    { p with sat := false }
  let y := { x.1 with sat := x.1.sat || decide (w ≤ if imp then p.resExp else p.resImp) }
  let s1 := s.modPulse o fun _ => if imp then { y with resImp := x.2 } else { y with resExp := x.2 }
  if x.1.sat then s1.event Reg.MTR_EVT 7 else s1

/-- The pulse outputs of point m take the energies added to its registers over an interval (R345). -/
def State.pulsesAdd (s : State) (m : Nat) (d : List Nat) (start len : Nat) : State :=
  (List.range 6).foldl (fun (s : State) o =>
    let b := cfgByte s.mtr.set 0x0B 1 (8 * o)
    if bitOf b 0 ∧ bitsOf b 2 2 = m then
      let e (r : Nat) := nth 0 d r
      match bitsOf b 4 4 with
      | 8 => (s.pulseAdd o true (e 0) start len).pulseAdd o false (e 1) start len
      | 9 => s.pulseAdd o true (e 2 + e 3) start len
      | 10 => s.pulseAdd o false (e 4 + e 5) start len
      | q => s.pulseAdd o (q == 0 || q == 2 || q == 5 || q == 6) (e q) start len
    else s) s

/-! ### Energy, netting, demand (R339 to R342) -/

/-- Power times time in units of 2⁻³² mWh, computed in FP64 and truncated (R339). -/
def energyUnits (power : Rat) (len : Nat) : Nat :=
  floorNat (toF64 (absRat power * (len : Rat) / (subPerSec : Rat) * (1000 / 3600)) * ((2 ^ 32 : Nat) : Rat))

/-- The amounts that signed energies P and Q and the apparent energy S add to the eight registers (R339). -/
def registerShares (p q : Int) (s : Nat) : List Nat :=
  let imp := 0 ≤ p
  let qa := q.natAbs
  [ if imp then p.natAbs else 0, if imp then 0 else p.natAbs,
    if imp ∧ 0 ≤ q then qa else 0, if !imp ∧ 0 ≤ q then qa else 0, if !imp ∧ q < 0 then qa else 0, if imp ∧ q < 0 then qa else 0,
    if imp then s else 0, if imp then 0 else s ]

/-- Amounts added to the registers of point m, with WRAP, demand and pulses over [start, start + len) (R339, R342, R346). -/
def State.energyAdd (s : State) (m : Nat) (d : List Nat) (start len : Nat) : State :=
  let e := List.zipWith (· + ·) (s.mPoint m).keep.energy d
  let s1 := s.modPoint m fun p => { p with keep := { p.keep with
    energy := e.map (· % 2 ^ 96), secImp := p.keep.secImp + nth 0 d 0, secExp := p.keep.secExp + nth 0 d 1 } }
  let s2 := if e.any fun x => decide (2 ^ 96 ≤ x) then s1.event Reg.MTR_EVT 12 else s1
  s2.pulsesAdd m d start len

/-- The end of a netting period of point m (R341). -/
def State.netEnd (s : State) (m start len : Nat) : State :=
  let k := (s.mPoint m).keep
  (s.energyAdd m (registerShares k.netP k.netQ k.netS) start len).modPoint m fun p =>
    { p with keep := { p.keep with netP := 0, netQ := 0, netS := 0 } }

/-- The netting period of point m ends now, if it nets (R341): its energy is added over the following netting period. -/
def State.netClose (s : State) (m start : Nat) : State :=
  match ptNet s.mtr.set m with
  | 1 => s.netEnd m start subPerSec
  | 2 => s.netEnd m start (60 * ptMinutes s.mtr.set m * subPerSec)
  | _ => s

/-- The end of a second of point m (R342): its mean powers may be the interval's new peaks. -/
def State.secondEnd (s : State) (m : Nat) : State :=
  s.modPoint m fun p =>
    let k := p.keep
    let w (e : Nat) : Rat := if k.secDur = 0 then 0 else (e : Rat) / ((2 ^ 32 : Nat) : Rat) * 36 / 10 / ((k.secDur : Rat) / (subPerSec : Rat))
    { p with keep := { k with impMax := max k.impMax (w k.secImp), expMax := max k.expMax (w k.secExp), secImp := 0, secExp := 0, secDur := 0 } }

/-- Whether a TAI second is a boundary of intervals of `m` minutes (R342). -/
def State.isBoundary (s : State) (m t : Nat) : Bool := s.utcOf t % ((60 * m : Nat) : Int) == 0

/-- The last boundary at or before a TAI second. -/
def State.boundaryAt (s : State) (m t : Nat) : Nat :=
  let c := t - (s.utcOf t % ((60 * m : Nat) : Int)).toNat
  if c + 1 ≤ t ∧ s.isBoundary m (c + 1) then c + 1 else if s.isBoundary m c then c else c - 1

/-- The first boundary after a TAI second. -/
def State.boundaryNext (s : State) (m t : Nat) : Nat :=
  let b := s.boundaryAt m t
  let c := b + 60 * m
  if b < c - 1 ∧ s.isBoundary m (c - 1) then c - 1 else if s.isBoundary m c then c else c + 1

/-! ### Records (R352 to R356) -/

/-- The newer of two readings of a point by place in a list. -/
def mtrPeerOf (l : List MtrPeer) (m end_ : Nat) : Option MtrPeer := l.find? fun x => x.point == m && x.end_ == end_

/-- The deltas of a record against the peer's of the same point and END (R476). -/
def State.mtrCompare (s : State) (m end_ : Nat) : State :=
  match (mtrPeerOf s.twn.ownMtr m end_).bind (·.delta), (mtrPeerOf s.twn.peerMtr m end_).bind (·.delta) with
  | some a, some b =>
    let tol := s.fld Reg.TWN_MTR_TOL 0 16
    let beyond (x y : Nat) : Bool := decide (tol * max x y + 1000 * 1000000 < (max x y - min x y) * 1000000)
    if beyond a.1 b.1 ∨ beyond a.2 b.2 then (s.event Reg.TWN_EVT 10).count (Reg.TWN_CNT_LO 9) else s
  | _, _ => s

/-- A record of point m goes to the peer as an item and is compared with the peer's (R464, R476). -/
def State.mtrMirror (s : State) (m : Nat) (body : List Byte) : State :=
  let end_ := leAt body 28 2 + leAt body 30 4 * subPerNs + leAt body 34 6 * subPerSec
  let item := leBytes 1 m ++ [0, 0, 0] ++ slice body 8 8 ++ slice body 64 64 ++ tsBytes end_ ++ leBytes 8 0
  let x : MtrPeer := ⟨m, end_, some (leAt body 128 8, leAt body 136 8), (leAt body 64 8, leAt body 72 8)⟩
  let s1 := { s with twn := { s.twn with ownMtr := x :: s.twn.ownMtr.filter fun (y : MtrPeer) => y.point != m } }
  (s1.mirrorItem 5 item).mtrCompare m end_

/-- A record with its signature is written (R354, R356): the ring, the flash area, the host copy. -/
def State.mtrRecordWrite (s : State) (m : Nat) (body : List Byte) (sig : Option (List Byte)) : State :=
  let s0 := match sig with
    | some _ => s
    | none => (s.event Reg.MTR_EVT 11).count (Reg.MTR_CNT_LO 7)
  let signed := match sig with
    | some g => padTo 320 (padTo 256 body ++ g)
    | none => padTo 320 (body.take 5 ++ leBytes 1 (byteAt body 5 ||| 8) ++ body.drop 6)
  let size := 2 ^ s0.fld Reg.MTR_REC_SIZE 0 5
  let n := s0.mtr.recWr
  let s1 :=
    if s0.bit Reg.MTR_CTRL 2 then
      let s1 := (s0.dramWrite (s0.reg64 Reg.MTR_REC_BASE_LO + 320 * (n % size)) signed).modMtr fun u => { u with recWr := n + 1 }
      if size ≤ n then s1.event Reg.MTR_EVT 8 else s1
    else s0
  let all := s1.flash.mtrRec ++ [(m, leAt body 8 8, signed)]
  let s2 := { s1 with flash := { s1.flash with mtrRec := all.drop (all.length - 8192) } }
  let s3 := if s2.bit Reg.MTR_CTRL 3 then s2.deliver ⟨s2.fld Reg.MTR_CTRL 4 4, 5, signed, 320, [], s2.dt, 0⟩ else s2
  let s4 := s3.mtrMirror m body
  ((s4.event Reg.MTR_EVT 0).count (Reg.MTR_CNT_LO 1))

/-- The signed part of a record of point m that ends at END (R353): `kind` and `start` as R352 gives them. CAL_GEN is that of the cycle END lies
in, or, where cycles were lost at END, of the last cycle before it (DESIGN CHOICE, log entry 135). -/
def State.mtrRecordBody (s : State) (m kind start end_ : Nat) : List Byte :=
  let p := s.mPoint m
  let k := p.keep
  let set := s.mtr.set
  let unsaved := p.restart && s.reg Reg.MTR_UNSAVED_MS != 0
  let flags := p.flags.toNat ||| b2n unsaved ||| 2 * b2n (kind == 2) ||| 4 * b2n (!s.lockedAt end_) ||| 8 * b2n (ptNet set m != 0) |||
    0x80 * b2n p.restart
  let read (r : Nat) := nth 0 k.energy r / 2 ^ 32
  padTo 256 (
    leBytes 1 0x10 ++ leBytes 1 1 ++ leBytes 2 (m + 16 * kind) ++ leBytes 4 flags ++ leBytes 8 (k.recSeq + 1) ++
    (if kind = 2 then List.replicate 12 0 else tsBytes start) ++ tsBytes end_ ++ leBytes 6 (s.utcOf (secOf end_)).toNat ++
    leBytes 2 (s.tqAt end_).toNat ++ leBytes 4 (if unsaved then (s.reg Reg.MTR_UNSAVED_MS).toNat else 0) ++
    leBytes 1 s.mtr.unsavedSrc ++ leBytes 1 (p.calGen % 256) ++ leBytes 1 (ptMinutes set m) ++ leBytes 1 0 ++
    leBytes 4 (toF32 k.impMax).toNat ++ leBytes 4 (toF32 k.expMax).toNat ++
    ((List.range 8).flatMap fun r => leBytes 8 (read r)) ++
    ((List.range 8).flatMap fun r => leBytes 8 ((read r + 2 ^ 64 - nth 0 k.lastRead r) % 2 ^ 64)) ++
    slice (nth {} s.plt.eng s.plt.mtrEng).fwMeas 0 8 ++
    leBytes 4 (if p.restart then (s.reg Reg.MTR_OUTAGE_MS).toNat else 0) ++ s.deviceId)

/-- The interval of point m ends at END, and the next begins there (R352, R355): a record is made and sent to be signed, unless
the unit refuses. `partial_`: the end is not a boundary. `next` is the start and whether it is a boundary. -/
def State.intervalEnd (s : State) (m end_ : Nat) (partialEnd partialNext : Bool) : State :=
  let p := s.mPoint m
  let s1 :=
    if s.mtr.refusing then (s.count (Reg.MTR_CNT_LO 2)).event Reg.MTR_EVT 1
    else
      let kind := if !p.startKnown then 2 else if p.keep.ivPartial || partialEnd then 1 else 0
      let body := s.mtrRecordBody m kind p.keep.ivStart end_
      let s1 := s.modPoint m fun p => { p with
        keep := { p.keep with recSeq := p.keep.recSeq + 1, lastRead := p.keep.energy.map (· / 2 ^ 32) }
        flags := 0, restart := false, startKnown := true }
      let s2 := if kind = 2 ∧ s1.mtr.bridging then
          (s1.modMtr fun u => { u with bridging := false }).almSend { op := .clear, src := 6, sub := 0, kind := 4, key := 0, sev := 1 }
        else s1
      let r := s2.requestSign (.signRecord m body) 56 body
      if r.2 then r.1 else r.1.mtrRecordWrite m body none
  s1.modPoint m fun p => { p with keep := { p.keep with ivStart := end_, ivPartial := partialNext, impMax := 0, expMax := 0 } }

/-- The interval of point m ends at a mark that is no boundary, at a commit or a reset (R343, R352, R359): with its open second and netting
period. While the next record is a BRIDGE no record is made, since a BRIDGE ends at the first boundary (R352, R355; log entry 135). -/
def State.intervalCut (s : State) (m mark : Nat) : State :=
  let s1 := (s.netClose m mark).secondEnd m
  if (s.mPoint m).startKnown then s1.intervalEnd m mark true true else s1

/-! ### Saves (R348, R349) -/

/-- The bytes of a point in a save (R348): the manual gives no layout (DESIGN CHOICE, log entry 136). -/
def MtrKeep.bytes (k : MtrKeep) : List Byte :=
  (k.energy.flatMap (leBytes 12)) ++ (k.lastRead.flatMap (leBytes 8)) ++ leBytes 8 k.recSeq ++ tsBytes k.ivStart ++ leBytes 1 (b2n k.ivPartial) ++
    leBytes 4 (toF32 k.impMax).toNat ++ leBytes 4 (toF32 k.expMax).toNat ++ leBytes 12 k.secImp ++ leBytes 12 k.secExp ++ leBytes 8 k.secDur ++
    leBytes 6 k.secIdx ++ leBytes 16 (k.netP % 2 ^ 128).toNat ++ leBytes 16 (k.netQ % 2 ^ 128).toNat ++ leBytes 16 k.netS

/-- The bytes of a save that its CRC-32C is over (R348). -/
def MtrSave.bytes (v : MtrSave) : List Byte :=
  (v.points.flatMap MtrKeep.bytes) ++ (v.pulses.flatMap fun x => leBytes 12 x.1 ++ leBytes 12 x.2) ++ tsBytes v.savedTo ++ leBytes 8 v.seq ++
    leBytes 1 (b2n v.pfw)

/-- A save, when it is valid (R348, R351): its CRC-32C is right. -/
def saveValid (x : Option MtrSave) : Option MtrSave := x.filter fun v => v.crc == crc32c v.bytes

/-- The state a save holds, with its CRC-32C (R348). -/
def State.mtrSaveNow (s : State) (pfw : Bool) : MtrSave :=
  let v : MtrSave :=
    { points := s.mtr.point.map (·.keep), pulses := s.mtr.pulse.map fun p => (p.resImp, p.resExp), savedTo := s.mtr.lastClose,
      seq := s.mtr.saveSeq + 1, pfw := pfw, crc := 0 }
  { v with crc := crc32c v.bytes }

/-- A save into the backup copy not written last (R348, R350). -/
def State.backupSave (s : State) (pfw : Bool) : State :=
  let v := s.mtrSaveNow pfw
  let copy := 1 - s.mtr.lastCopy
  let s1 := { s with
    bkp := if copy = 0 then { s.bkp with save0 := some v, valid := true } else { s.bkp with save1 := some v, valid := true }
    mtr := { s.mtr with saveSeq := v.seq, lastCopy := copy } }
  s1.count (Reg.MTR_CNT_LO (if pfw then 5 else 3))

/-- SAVED_TO of the backup copy written last. -/
def State.backupSavedTo (s : State) : Option Nat :=
  (if s.mtr.lastCopy = 0 then s.bkp.save0 else s.bkp.save1).map (·.savedTo)

/-- The periodic saves due when a cycle has closed (R348, R349): to flash 900 s after the last flash save, or, when that failed, with the
next backup save. -/
def State.periodicSaves (s : State) (force : Bool) : State :=
  let due := force || (match s.backupSavedTo with | some t => decide (t + subPerSec ≤ s.mtr.lastClose) | none => true)
  let s1 := if due then s.backupSave false else s
  let long := if s.mtr.flashRetry then due else decide (s.mtr.flashSavedTo + 900 * subPerSec ≤ s.mtr.lastClose)
  if s.mtr.flashBusy.isNone ∧ long = true then s1.modMtr fun u => { u with flashBusy := some (s.mtrSaveNow false), flashRetry := false }
  else s1

/-- The flash with a metering save in the slot that does not hold the newer valid one (R349). -/
def Flash.putMtr (f : Flash) (v : MtrSave) : Flash :=
  let newer0 := match saveValid f.mtrSave0, saveValid f.mtrSave1 with
    | some a, some b => decide (b.seq ≤ a.seq)
    | some _, none => true
    | none, _ => false
  if newer0 then { f with mtrSave1 := some v } else { f with mtrSave0 := some v }

/-- A metering save is written to flash; `ok` whether the flash takes it (R349). A failed write is a fault of metering and of the flash (R349,
R478), and what CRC-32C it leaves in the slot is a free value. -/
def State.mtrFlashWrite (s : State) (v : MtrSave) (ok : Bool) : State :=
  if ok then (({ s with flash := s.flash.putMtr v }).modMtr fun u => { u with flashSavedTo := v.savedTo }).count (Reg.MTR_CNT_LO 4)
  else
    let s1 := { s.freshNext with flash := s.flash.putMtr { v with crc := s.freshVal % 2 ^ 32 } }
    (((s1.modMtr fun u => { u with flashRetry := true }).event Reg.MTR_EVT 4).unitFault 12).flashFail

/-- A flash save completes or fails (R349). -/
def mtrFlashSaveDoneRow (ok : Bool) (s : State) : State :=
  match s.mtr.flashBusy with
  | none => s
  | some v => (s.modMtr fun u => { u with flashBusy := none }).mtrFlashWrite v ok

/-- The flash save of a shutdown run (R497), which no command tells the outcome of: whether the flash takes it is a free value. -/
def State.mtrShutdownSave (s : State) : State :=
  if s.mtr.running then s.freshNext.mtrFlashWrite (s.mtrSaveNow false) (s.freshVal % 2 == 1) else s

/-- The newest valid save of two (R351). -/
def newestSave (a b : Option MtrSave) : Option MtrSave :=
  match saveValid a, saveValid b with
  | some a, some b => if a.seq < b.seq then some b else some a
  | some a, none => some a
  | none, b => b

/-- Milliseconds, rounded up, from a time to another; 0 when it is not later. -/
def msUp (from_ to_ : Nat) : Nat := ((to_ - from_) + subPerMs - 1) / subPerMs

/-- OUTAGE_START (R351, R523). -/
def State.outageStart (s : State) : Nat := s.bkp.swoAt.sec * subPerSec + s.bkp.swoAt.frac * subPerSec / 32768

/-- The highest REC_SEQ that point m is known to have used (R352): in the flash record area and in records whose signature is under way. A
restore from an older save goes on behind it, so that REC_SEQ never repeats (DEDUCED, log entry 135). -/
def State.recSeqUsed (s : State) (m : Nat) : Nat :=
  let f := s.flash.mtrRec.foldl (fun n x => if x.1 = m then max n x.2.1 else n) 0
  s.key.ops.foldl (fun n o => match o.use with | .signRecord k body => if k = m then max n (leAt body 8 8) else n | _ => n) f

/-- PULSE0 to PULSE5 leave high impedance (R360). -/
def State.pulseRelease (s : State) : State := { s with pins := { s.pins with pulseDriven := true } }

/-- The restore at start-up (R351, R355). -/
def State.mtrRestore (s : State) : State :=
  let back := if s.bkp.valid then newestSave s.bkp.save0 s.bkp.save1 else none
  let fl := newestSave s.flash.mtrSave0 s.flash.mtrSave1
  let got := match back with | some v => some v | none => fl
  let age (v : MtrSave) : Nat := msUp (v.savedTo + feG s.fe.scs) s.outageStart
  let r : Nat × Nat := match back, fl with
    | some v, _ => if v.pfw then (0, 0) else (1, min 1000 (age v))
    | none, some v => (2, if s.bkp.timeLost then 0xFFFFFFFF else age v)
    | none, none => (3, 0xFFFFFFFF)
  let s1 := match got with
    | some v => s.modMtr fun u => { u with
        point := u.point.mapIdx fun m (p : MtrPoint) => { p with keep := nth {} v.points m }
        pulse := u.pulse.mapIdx fun o (p : MtrPulse) => { p with resImp := (nth (0, 0) v.pulses o).1, resExp := (nth (0, 0) v.pulses o).2 }
        saveSeq := v.seq
        lastClose := v.savedTo
        flashSavedTo := match fl with | some f => f.savedTo | none => 0
        lastCopy := match s.bkp.save0 with | some a => if a.seq = v.seq then 0 else 1 | none => 1 }
    | none => s
  let s2 := (s1.modMtr fun u => { u with
    restored := true, unsavedSrc := r.1, outageDue := true, outageFrom := if s.bkp.timeLost then none else some s.outageStart
    point := u.point.mapIdx fun m (p : MtrPoint) =>
      { p with restart := true, keep := { p.keep with recSeq := max p.keep.recSeq (s.recSeqUsed m) } } }).pulseRelease
  let s3 := s2.setReg Reg.MTR_UNSAVED_MS (BitVec.ofNat 32 r.2)
  let s4 := if r.2 ≠ 0 then s3.event Reg.MTR_EVT 2 else s3
  if s4.bkp.timeLost then
    (s4.modMtr fun u => { u with refusing := true }).almSend { op := .raise, src := 6, sub := 0, kind := 4, key := 0, sev := 1 }
  else s4

/-- The outputs under a new pulse table (R346, R359): residues are kept unless POINT or QTY changes, and an output that is disabled gives up its
pulse and those that wait (the latter a DESIGN CHOICE, log entry 135). -/
def pulsesUnder (old new : CfgSet) (l : List MtrPulse) : List MtrPulse :=
  l.mapIdx fun o p =>
    let k (set : CfgSet) := cfgByte set 0x0B 1 (8 * o)
    let p1 := if k old / 4 = k new / 4 then p else { p with resImp := 0, resExp := 0, sched := [] }
    if bitOf (k new) 0 then p1 else { p1 with active := false, sched := [] }

/-- Metering starts when EN is 1, a set is active and the front end runs (R360). A set that changed while EN was 0 applies as at a commit
(R359); a first start after a restore finds the residues that the save held. -/
def State.mtrTryStart (s : State) : State :=
  if s.bit Reg.MTR_CTRL 0 ∧ !s.mtr.running ∧ s.cfg.activeValid ∧ s.fe.running ∧ !s.unitFenced 12 then
    let s1 := if s.mtr.restored then s else s.mtrRestore
    s1.modMtr fun u => { u with
      running := true, set := s.cfg.active, setGen := s.cfg.gen, tap := [], lastCyc := none
      pulse := if s.mtr.restored then pulsesUnder u.set s.cfg.active u.pulse else u.pulse
      point := u.point.map fun (p : MtrPoint) =>
        { p with begun := false, aggN := 0, aggSum := List.replicate 8 0, aggVal := List.replicate 10 0, secN := 0 } }
  else s

/-- A write of MTR_CTRL (R360, R361): CNT_CLR clears the counters; EN stays 0 with a ring that does not fit. -/
def mtrCtrlWrite (v : Word) (s : State) : State :=
  if !s.hasMtr ∨ s.unitFenced 12 then s
  else
    let s0 := if v.getLsbD 1 then s.clearCounters (Reg.MTR_CNT_LO 0) 8 else s
    let was := s0.bit Reg.MTR_CTRL 0
    let bad := v.getLsbD 2 && !s0.dramFits (s0.reg64 Reg.MTR_REC_BASE_LO) (320 * 2 ^ s0.fld Reg.MTR_REC_SIZE 0 5)
    let v1 := v &&& 0x1FD
    if v.getLsbD 0 ∧ !was ∧ bad then (s0.setReg Reg.MTR_CTRL (v1 &&& 0x1FC)).event Reg.MTR_EVT 10
    else
      let s1 := s0.setReg Reg.MTR_CTRL v1
      if v.getLsbD 0 then (if was then s1 else (s1.modMtr fun u => { u with recWr := 0 }).mtrTryStart)
      else s1.modMtr fun u => { u with running := false, tap := [] }

/-- A sample set of the front end, and the start of a metering unit that waits for it (R311, R360). -/
def feSampleSetAll (release : Nat) (pins : List (List (Nat × Bool))) (m : FeMark) (s : State) : State :=
  (feSampleSetRow release pins m s).mtrTryStart

/-! ### A cycle (R336, R350, R359) -/

/-- OUTAGE_MS is fixed by the first cycle accumulated after a restore (R351). -/
def State.outageFix (s : State) (open_ : Nat) : State :=
  if s.mtr.outageDue then
    (s.setReg Reg.MTR_OUTAGE_MS (BitVec.ofNat 32 (match s.mtr.outageFrom with | some t => msUp t open_ | none => 0xFFFFFFFF))).modMtr
      fun u => { u with outageDue := false }
  else s

/-- A second of point m that a gap or an outage left open ends before a cycle of a later one is taken, with its netting period in NET_MODE
SECOND (R341, R342). -/
def State.pointGap (s : State) (m : Nat) (cyc : MtrCyc) : State :=
  let k := (s.mPoint m).keep
  if 0 < k.secDur ∧ k.secIdx ≠ secOf cyc.open_ then
    (if ptNet s.mtr.set m = 1 then s.netClose m cyc.open_ else s).secondEnd m
  else s

/-- The interval a cycle of point m falls in is open (R341, R342, R352): the first cycle after a start opens a PARTIAL one; a gap that
passed a boundary ends the interval at that boundary, and the cycle's own begins at the last boundary before it. -/
def State.pointInterval (s : State) (m : Nat) (cyc : MtrCyc) : State :=
  let mins := ptMinutes s.mtr.set m
  let b := s.boundaryAt mins (secOf cyc.open_)
  let start := (s.mPoint m).keep.ivStart
  let sameIv := s.boundaryAt mins (secOf start) == b
  let s1 := if !sameIv && ptNet s.mtr.set m == 2 then s.netClose m cyc.open_ else s
  if !(s.mPoint m).begun then s1.modPoint m fun p => { p with
    begun := true
    keep := { p.keep with
      ivStart := cyc.open_
      ivPartial := cyc.open_ != b * subPerSec
      impMax := if sameIv then p.keep.impMax else 0
      expMax := if sameIv then p.keep.expMax else 0 } }
  else if sameIv then s1
  else (s1.intervalEnd m (s.boundaryNext mins (secOf start) * subPerSec) false false).modPoint m fun p =>
    { p with keep := { p.keep with ivStart := b * subPerSec } }

/-- The flags of R353 that a cycle sets for the next record of point m. -/
def cycFlags (set : CfgSet) (m : Nat) (cyc : MtrCyc) : BitVec 32 :=
  (if cyc.nominal then 0x10 else 0) ||| (if cyc.calSwap then 0x20 else 0) ||| (if cyc.scs then 0x200 else 0) |||
    (if (List.range 8).any fun i => (cyc.clip ||| cyc.stuck).getLsbD (ptCh set m i) then 0x100 else 0)

/-- The cycle's duration, flags and calibration generation taken by point m. -/
def State.pointSecond (s : State) (m : Nat) (cyc : MtrCyc) : State :=
  s.modPoint m fun p => { p with
    calGen := cyc.calGen
    keep := { p.keep with secDur := p.keep.secDur + cyc.n * cyc.per * 256, secIdx := secOf cyc.open_ }
    flags := p.flags ||| cycFlags s.mtr.set m cyc }

/-- The amounts a cycle with powers P, Q and S adds to the eight registers (R339). -/
def cycleShares (p q sa : Rat) (len : Nat) : List Nat :=
  let imp := 0 ≤ p
  let e (x : Rat) := energyUnits x len
  [ if imp then e p else 0, if imp then 0 else e p,
    if imp ∧ 0 ≤ q then e q else 0, if !imp ∧ 0 ≤ q then e q else 0,
    if !imp ∧ q < 0 then e q else 0, if imp ∧ q < 0 then e q else 0,
    if imp then e sa else 0, if imp then 0 else e sa ]

/-- A cycle's energy taken by point m (R339 to R341): nothing when every current slot an element uses is below START_I. -/
def State.pointEnergy (s : State) (m : Nat) (cyc : MtrCyc) (q : MtrQuant) : State :=
  let set := s.mtr.set
  let len := cyc.n * cyc.per * 256
  let sgn : Rat := if bitOf (ptByte set m 0) 3 then -1 else 1
  let signed (x : Rat) : Int := if x < 0 then -(energyUnits x len : Int) else energyUnits x len
  if (elements (ptWiring set m)).all fun e => f32Rat (nth 0 q.vals.rms e.2) < ptF32 set m 12 then s
  else if ptNet set m = 0 then s.energyAdd m (cycleShares (sgn * q.p) (sgn * q.q) q.s len) cyc.open_ len
  else s.modPoint m fun p => { p with keep := { p.keep with
    netP := p.keep.netP + signed (sgn * q.p), netQ := p.keep.netQ + signed (sgn * q.q), netS := p.keep.netS + energyUnits q.s len } }

/-- What ends with a cycle of point m: its second, its netting period, its demand interval (R338, R341, R342, R352). -/
def State.pointEnds (s : State) (m : Nat) (cyc : MtrCyc) : State :=
  let mins := ptMinutes s.mtr.set m
  let net := ptNet s.mtr.set m
  let b := s.boundaryAt mins (secOf cyc.open_)
  let b2 := s.boundaryAt mins (secOf cyc.close_)
  let ends := secOf cyc.close_ != secOf cyc.open_
  let s1 := if (ends ∧ net = 1) ∨ (b2 ≠ b ∧ net = 2) then s.netClose m cyc.close_ else s
  let s2 := if ends then s1.secondEnd m else s1
  if b2 ≠ b then s2.intervalEnd m (b2 * subPerSec) false false else s2

/-- What one point takes of a cycle into its registers (R339 to R342, R352). -/
def State.pointAccumulate (s : State) (m : Nat) (cyc : MtrCyc) (q : MtrQuant) : State :=
  (((((s.outageFix cyc.open_).pointGap m cyc).pointInterval m cyc).pointSecond m cyc).pointEnergy m cyc q).pointEnds m cyc

/-- A reset of a point whose token has verified takes effect at a cycle mark (R343); a point that is not metered has no interval to end
(R352). -/
def State.pointReset (s : State) (m mark : Nat) : State :=
  if (s.mPoint m).resetReq then
    let s1 := if ptOn s.mtr.set m ∧ (s.mPoint m).begun then s.intervalCut m mark else s
    (s1.modPoint m fun p => { p with
      resetReq := false
      flags := p.flags ||| 0x40
      keep := { p.keep with energy := List.replicate 8 0, netP := 0, netQ := 0, netS := 0 } }).logRaise 7 (unitCode 12) 0xFFFF [m]
  else s

/-- A new metering section taken at a mark at or after its effective instant (R359). -/
def State.mtrAdopt (s : State) (mark : Nat) : State :=
  if s.mtr.setGen = s.cfg.gen ∨ mark < s.cfg.activeFrom then s
  else
    let old := s.mtr.set
    let new := s.cfg.active
    let differs (m : Nat) : Bool := (List.range 8).any fun i => cfgWord old 0x0B 0 (32 * m + 4 * i) != cfgWord new 0x0B 0 (32 * m + 4 * i)
    let s1 := (List.range 3).foldl (fun (s : State) m =>
      if ptOn old m ∧ differs m ∧ (s.mPoint m).begun then s.intervalCut m mark else s) s
    s1.modMtr fun u => { u with
      set := new, setGen := s.cfg.gen
      point := u.point.mapIdx fun m (p : MtrPoint) => if ptOn new m then p else { p with begun := false }
      pulse := pulsesUnder old new u.pulse }

/-- The marks of R336: whether a cycle is the first after a start or a mode change. -/
def State.mtrFirst (s : State) (cyc : MtrCyc) : Bool :=
  match s.mtr.lastCyc with
  | some c => c.scs != cyc.scs
  | none => true

/-- A cycle measured at every enabled point (R337, R338, R344). -/
def State.cycleMeasure (s : State) (cyc : MtrCyc) : State :=
  let first := s.mtrFirst cyc
  let s1 := (List.range 3).foldl (fun (s : State) m =>
    if ptOn s.mtr.set m then
      let q := quantities s.mtr.set m cyc first (s.mPoint m).vals
      let s1 := s.modPoint m fun p =>
        let p0 := if first then { p with aggN := 0, aggSum := List.replicate 8 0, aggVal := List.replicate 10 0 } else p
        aggregate (bitOf (feCfg s.fe.set) 1) cyc q { p0 with vals := q.vals }
      let peak (i : Nat) : Rat := (chanOf cyc.vals (ptCh s.mtr.set m i)).foldl (fun a w => max a (absRat (f32Rat w))) 0
      let s2 := (List.range 8).foldl (fun (s : State) i =>
        if f32Rat (s.reg (Reg.MTR_PEAK m i)) < peak i then s.setReg (Reg.MTR_PEAK m i) (toF32 (peak i)) else s) s1
      (List.range 10).foldl (fun (s : State) k => s.mtrCond m k) s2
    else s) s
  s1.count (Reg.MTR_CNT_LO 0)

/-- A cycle taken into the registers of every enabled point, with what applies at its closing mark. -/
def State.cycleAccumulate (s : State) (cyc : MtrCyc) (first : Bool) : State :=
  let s1 := (List.range 3).foldl (fun (s : State) m =>
    if ptOn s.mtr.set m then s.pointAccumulate m cyc (quantities s.mtr.set m cyc first (s.mPoint m).vals) else s) s
  let s2 := s1.modMtr fun u => { u with lastClose := cyc.close_ }
  ((List.range 3).foldl (fun (s : State) m => s.pointReset m cyc.close_) s2).mtrAdopt cyc.close_

/-- One closed cycle handled (R336, R350): measured; then taken into the registers, or held while the unit is frozen. -/
def State.cycleHandle (s : State) (cyc : MtrCyc) : State :=
  let first := s.mtrFirst cyc
  let s1 := s.cycleMeasure cyc
  let s2 := if s1.mtr.frozen then s1.modMtr fun u => { u with pendSum := u.pendSum ++ [if first then { cyc with before := [] } else cyc] }
    else (s1.cycleAccumulate cyc first).periodicSaves false
  s2.modMtr fun u => { u with lastCyc := some cyc }

/-- A metering cycle is worked out at DT `now` (R336, R337): the oldest closed cycle on the tap, by the engine that holds the
metering role. -/
def mtrCycleRow (now : Nat) (s : State) : State :=
  match s.mtr.tap with
  | [] => s
  | cyc :: rest =>
    if s.mtr.running ∧ !s.unitFenced 12 ∧ (nth {} s.plt.eng s.plt.mtrEng).rstate = .inService then
      ((s.advance now).modMtr fun u => { u with tap := rest }).cycleHandle cyc
    else s

/-- The save with PFW and the freeze (R350, R486, R491): every cycle closed before it is included. -/
def State.mtrFreeze (s : State) : State :=
  if s.mtr.running ∧ !s.mtr.frozen ∧ !s.unitFenced 12 then
    let s1 := s.mtr.tap.foldl (fun (s : State) c => s.cycleHandle c) (s.modMtr fun u => { u with tap := [] })
    (s1.backupSave true).modMtr fun u => { u with frozen := true }
  else s

/-- The end of the freeze (R350): the pending sum is added and a periodic save follows at once. -/
def State.mtrThaw (s : State) : State :=
  if s.mtr.frozen then
    let s1 := s.modMtr fun u => { u with frozen := false, pendSum := [] }
    (s.mtr.pendSum.foldl (fun (s : State) c => s.cycleAccumulate c false) s1).periodicSaves true
  else s

/-- The change of PFW_N with its POWER record (R535): DETAIL byte 0 is 0x80 or 0x81. -/
def State.pfwSet (s : State) (on : Bool) : State :=
  ({ s with pins := { s.pins with pfw := on } }).logRaise 15 (unitCode 23) 5 [if on then 0x80 else 0x81]

/-- The save and the freeze of metering on PFW_N, when PFW_EN is 1 (R350). -/
def State.pfwSave (s : State) : State :=
  if s.bit Reg.MTR_CTRL 8 && s.mtr.running then (s.event Reg.MTR_EVT 3).mtrFreeze else s

/-- PFW_N is asserted (R350, R450, R535). -/
def pfwAssertRow (s : State) : State := (((s.pfwSet true).event Reg.RTC_EVT 5).wakeIf 3).pfwSave

/-- PFW_N is deasserted with the device still powered (R350, R535). -/
def pfwDeassertRow (s : State) : State :=
  if !s.pins.pfw then s
  else
    if s.unitFenced 10 || s.isStopped then s.pfwSet false else (s.pfwSet false).mtrThaw

/-- Refusal ends (R355): DT is LOCKED to a PTP slot or GNSS 1PPS. -/
def State.mtrRefuseEnd (s : State) : State :=
  if s.mtr.refusing ∧ s.tb.dtState = .locked ∧ s.tb.active ≤ 4 then
    s.modMtr fun u => { u with refusing := false, bridging := true, point := u.point.map fun (p : MtrPoint) => { p with startKnown := false } }
  else s

/-! ### Pulse pins (R347, R358) -/

/-- The scheduled instant of output o's next pulse arrives. -/
def pulseStartRow (o : Nat) (s : State) : State :=
  let p := nth {} s.mtr.pulse o
  match p.sched with
  | [] => s
  | x :: rest =>
    if o < 6 ∧ bitOf (cfgByte s.mtr.set 0x0B 1 (8 * o)) 0 ∧ !p.active ∧ !s.mtr.frozen ∧ !s.unitFenced 12 ∧ s.mtr.running then
      let s1 := ((s.advance x.1).modPulse o fun p => { p with active := true, last := some x.1, sched := rest })
      s1.setReg (Reg.MTR_PLS_CNT o) (s1.reg (Reg.MTR_PLS_CNT o) + 1)
    else s

/-- The width of output o's pulse expires. -/
def pulseEndRow (o : Nat) (s : State) : State :=
  let p := nth {} s.mtr.pulse o
  if p.active then
    (s.advance ((p.last.getD 0) + pulseGap s.mtr.set o / 2)).modPulse o fun p => { p with active := false }
  else s

/-- What PULSE_o shows (R7, R347, R358, R360, R542): high impedance while metering is absent, fenced or not yet restored; then the active level
while a pulse runs, else the inactive one. -/
def State.pulseLevel (s : State) (o : Nat) : PinLevel :=
  let c := cfgByte s.mtr.set 0x0B 1 (8 * o)
  if !s.hasMtr || s.unitFenced 12 || !s.pins.pulseDriven then .highZ
  else if bitOf c 1 != ((nth {} s.mtr.pulse o).active && bitOf c 0) then .high else .low

/-! ### Reading (R361, R362, R433) -/

/-- The point block of point m: what it shows at an offset. Until the state is restored every register reads 0 (R360). -/
def State.mtrPointWord (s : State) (m off : Nat) : Word :=
  let p := s.mPoint m
  let k := p.keep
  if !s.mtr.restored then 0
  else if off < 0x80 then
    let e := nth 0 k.energy (off / 16)
    match off % 16 with
    | 0 => BitVec.ofNat 32 (e / 2 ^ 32)
    | 4 => BitVec.ofNat 32 (e / 2 ^ 64)
    | 8 => BitVec.ofNat 32 e
    | _ => 0
  else if 0x100 ≤ off ∧ off < 0x120 then nth 0 p.vals.rms ((off - 0x100) / 4)
  else if 0x120 ≤ off ∧ off < 0x134 then nth 0 p.vals.pq ((off - 0x120) / 4)
  else if 0x140 ≤ off ∧ off < 0x14C then nth 0 p.vals.angI ((off - 0x140) / 4)
  else if 0x14C ≤ off ∧ off < 0x154 then nth 0 p.vals.angV ((off - 0x14C) / 4)
  else if 0x180 ≤ off ∧ off < 0x1A0 then nth 0 p.vals.agg ((off - 0x180) / 4)
  else if 0x1C0 ≤ off ∧ off < 0x1E0 then nth 0 p.vals.sec ((off - 0x1C0) / 4)
  else if 0x200 ≤ off ∧ off < 0x220 then s.reg (Reg.MTR_PEAK m ((off - 0x200) / 4))
  else if off = 0x240 then toF32 k.impMax
  else if off = 0x244 then toF32 k.expMax
  else if off = 0x250 then
    let on (i : Nat) := b2n (nth {} p.cond i).raised
    BitVec.ofNat 32 (((List.range 4).map fun i => on i * 2 ^ i).sum + ((List.range 3).map fun i => on (4 + i) * 2 ^ (4 + i)).sum +
      ((List.range 3).map fun i => on (7 + i) * 2 ^ (8 + i)).sum)
  else if off = 0x260 then BitVec.ofNat 32 k.recSeq
  else if off = 0x264 then BitVec.ofNat 32 (k.recSeq / 2 ^ 32)
  else 0

/-- Offsets of the registers of a point block that a latch holds (R362). -/
def mtrLatchOffsets : List Nat :=
  ((List.range 8).flatMap fun r => [0x10 * r, 0x10 * r + 4, 0x10 * r + 8]) ++ (List.range 13).map (fun i => 0x100 + 4 * i) ++
    (List.range 5).map (fun i => 0x140 + 4 * i) ++ (List.range 8).map (fun i => 0x180 + 4 * i) ++
    (List.range 8).map (fun i => 0x1C0 + 4 * i) ++ (List.range 8).map (fun i => 0x200 + 4 * i) ++ [0x240, 0x244, 0x250, 0x260, 0x264]

/-- A read of offset 0x000 of point block m (R362): the whole block is latched, and the word returned. -/
def mtrPointLatch (m : Nat) (s : State) : State :=
  if !s.hasMtr ∨ 3 ≤ m then { s with rdata := 0 }
  else
    let base := Reg.MTR_ENERGY_LO m 0
    let l := mtrLatchOffsets.foldl (fun l o => mapSet l (base + o) (s.mtrPointWord m o)) s.latch
    { s with latch := l, rdata := s.mtrPointWord m 0 }

/-- A read of an MTR_PEAK register (R344, R362): the word latched with the block, or, before any latch, the present one. The read clears both
(DESIGN CHOICE, log entry 135: the manual does not say which of the two an RC read clears). -/
def mtrPeakRead (o : Nat) (s : State) : State :=
  match mapFind s.latch o with
  | some v => { (s.setReg o 0) with latch := mapSet s.latch o 0, rdata := v }
  | none => { (s.setReg o 0) with rdata := s.reg o }

/-- The MTR_READ manifest (R433): records of the flash area are read from a REC_SEQ on. `ok` says whether the host buffer will be
written without error. -/
def manMtrRead (n : Nat) (ok : Bool) (s : State) : State :=
  s.runManifest n 0x0051 fun mid _ s => s.setAct n mid (.mtrRead ok)

end Sys2Proof.Machine
end

