-- ==== Sys2Proof/Machine/Twin.lean ====
section
/-! DEFINITION. The twin unit (R456 to R477): roles, the Aizhan link, mirroring, heartbeats, hand-over, takeover, saved state. -/

namespace Sys2Proof.Machine

/-- The state with the twin unit changed. -/
def State.modTwn (s : State) (f : Twn → Twn) : State := { s with twn := f s.twn }

/-- The code of a role (R456). -/
def Role.code : Role → Nat
  | .solo => 0 | .wait => 1 | .joining => 2 | .active => 3 | .standby => 4 | .handing => 5 | .taking => 6 | .mismatch => 7

/-- Whether a role code is that of an active role. -/
def activeCode (c : Nat) : Bool := c == 0 || c == 3 || c == 5 || c == 7

/-- Whether pairing is enabled and the unit not fenced (R458, R486). -/
def State.twnOn (s : State) : Bool := s.bit Reg.TWN_CFG 0 && !s.unitFenced 22

/-- SIDE of this device. -/
def State.side (s : State) : Bool := s.bit Reg.TWN_CFG 1

/-- Whether the link is UP (R459). -/
def State.aizUp (s : State) : Bool := s.twn.lane0 || s.twn.lane1

/-- The lane that carries the next frame (R459): the UP lanes take turns. -/
def Twn.sendLane (t : Twn) : Nat := if t.lane0 && t.lane1 then t.laneNext else b2n (!t.lane0)

/-- The key of the link (R460, R511): an AES256 slot with LINK. -/
def State.aizKey (s : State) : Option (List Byte) :=
  let i := s.fld Reg.TWN_CFG 8 6
  if s.slotFits i 1 0 then some (s.keySlot i).material else none

/-- The device enters a role (R456, R457): ROLE_CHANGE, its record, and, when it becomes active or standby, ALM_EVT.STANDBY; a
device that is no longer active has no message to send. -/
def State.setRole (s : State) (r : Role) : State :=
  if s.twn.role = r then s
  else
    let was := s.twn.role.isActive
    let s1 := ((s.modTwn fun t => { t with
      role := r, roleAt := s.dt, waitHeard := false, activeSince := if r.isActive && !was then s.dt else t.activeSince,
      mirrorOn := t.mirrorOn && r.isActive }).event Reg.TWN_EVT 0).logRaise 11 (unitCode 22) 0 [r.code]
    let s2 := if was = r.isActive then s1 else s1.event Reg.ALM_EVT 4
    let s3 := s2.modAlm fun a => { a with dest := a.dest.map fun d =>
      if r.isActive && !was then { d with handover := true } else if !r.isActive then { d with entries := [], repeats := [] } else d }
    s3.pinsDrive

/-! ### Sending frames (R459, R460) -/

/-- A crypto context of the twin for one frame (R516, R517): none without a key, a key error, or without a free context, with the state in
which that is counted. -/
def State.aizContext (s : State) : State × Option (List Byte) :=
  match s.aizKey with
  | none => (s.keyUseErr, none)
  | some key =>
    match s.cryptoNow (unitCode 22) with
    | none => (s.count (Reg.KEY_CNT_LO 6), none)
    | some s1 => (s1, some key)

/-- A frame is sent on the link: under a new FSEQ, sealed with the key of KEY_SLOT. Nothing is sent without a link, a key or a crypto
context (the last a DESIGN CHOICE, log entry 117). -/
def State.aizSend (s : State) (typ : Nat) (end_ : Bool) (pl : List Byte) : State :=
  if !s.aizUp ∨ !s.twnOn then s
  else match s.aizContext with
  | (s, none) => s
  | (s, some key) =>
    let hdr := leBytes 2 pl.length ++ leBytes 1 typ ++ leBytes 1 (b2n end_) ++
      leBytes 4 ((s.bkp.epoch.getD 0) % 2 ^ 31 + 2 ^ 31 * b2n s.side) ++ leBytes 8 s.twn.txFseq
    ((s.emit (.aizhan s.twn.sendLane (hdr ++ gcmSeal key (slice hdr 4 12) hdr pl))).modTwn fun t =>
      { t with txFseq := t.txFseq + 1, laneNext := 1 - s.twn.sendLane }).count (Reg.TWN_CNT_LO 0)

/-- The bytes of a twin saved state that its CRC-32C is over (R474): in the order in which the manual lists them (DESIGN CHOICE, log entry
88: it gives no layout). -/
def TwnSave.bytes (v : TwnSave) : List Byte :=
  (v.slots.flatMap fun x => leBytes 2 x.1 ++ x.2.record x.1) ++ (v.streams.flatMap fun x => leBytes 1 x.1 ++ leBytes 8 x.2) ++
    (v.dests.flatMap fun x => leBytes 1 x.1 ++ leBytes 4 x.2) ++ leBytes 4 v.epoch ++ leBytes 1 v.role ++ leBytes 8 v.order

/-- A slot's twin saved state, when it is valid (R474): its CRC-32C is right. -/
def twinValid (x : Option TwnSave) : Option TwnSave := x.filter fun v => v.crc == crc32c v.bytes

/-- The valid twin saved states. -/
def Flash.twinSaves (f : Flash) : List TwnSave := (twinValid f.twin0).toList ++ (twinValid f.twin1).toList

/-- A new pairing starts (R460): EPOCH advances by one and FSEQ starts from 0; with both copies lost EPOCH is drawn anew. -/
def State.pairStart (s : State) : State :=
  let saved := s.flash.twinSaves.foldl (fun m x => max m x.epoch) 0
  let any := s.bkp.epoch.isSome || !s.flash.twinSaves.isEmpty
  let e := if any then (max (s.bkp.epoch.getD 0) saved + 1) % 2 ^ 31 else s.freshVal % 2 ^ 31
  let s1 := if any then s else s.freshNext
  { s1 with bkp := { s1.bkp with epoch := some e }, twn := { s1.twn with txFseq := 0 } }

/-- The health word (R475). -/
def State.health (s : State) : Nat :=
  let bist : Bool := s.bst.running && s.bst.mode == 1
  let match_ : Bool := s.twn.peerCheck == some (s.setCheck s.cfg.active)
  let aln := s.alnReady
  let ready := match_ && s.twn.mirrorSync && aln && !bist && (List.range 6).all fun c => !s.classEmpty c
  let fenced := ((List.range 32).filter fun e => (s.engine e).rstate == .fenced).length
  b2n ready + 2 * b2n match_ + 4 * b2n (s.tb.dtState == .locked) + 8 * b2n s.twn.mirrorSync + 16 * b2n (!s.twn.testFail.isEmpty) +
    32 * b2n bist + 64 * b2n aln + 256 * min fenced 7

/-- A HELLO (R461, R462). -/
def State.helloSend (s : State) : State :=
  s.aizSend 1 false (padTo 48 (leBytes 4 s.idCap ++ leBytes 4 s.idCapCount ++ leBytes 4 s.engMask ++
    leBytes 4 s.twn.role.code ++ tsBytes s.twn.activeSince ++ leBytes 4 (s.setCheck s.cfg.active) ++ leBytes 4 s.health))

/-- Whether the device is paired (R461). -/
def State.paired (s : State) : Bool :=
  (s.twn.role == .active || s.twn.role == .standby || s.twn.role == .handing || s.twn.role == .taking) && !s.twn.peerLost

/-- The link has come UP, paired or not, or 100 ms pass unpaired (R461). -/
def helloTxRow (s : State) : State :=
  if s.paired && !s.twn.helloDue then s else (s.modTwn fun t => { t with helloDue := false }).helloSend

/-- An Aizhan lane comes UP (R459): with the first one a pairing starts. -/
def aizLaneUpRow (l : Nat) (s : State) : State :=
  let was := s.aizUp
  let s1 := s.modTwn fun t => if l = 0 then { t with lane0 := true } else { t with lane1 := true }
  if was ∨ !s.twnOn then s1 else (s1.modTwn fun t => { t with helloDue := true }).pairStart

/-- An Aizhan lane goes down (R459). -/
def aizLaneDownRow (l : Nat) (s : State) : State :=
  let s1 := s.modTwn fun t => if l = 0 then { t with lane0 := false } else { t with lane1 := false }
  if s.aizUp ∧ !s1.aizUp then s1.modTwn fun t => { t with linkDownAt := s.dt } else s1

/-! ### Saved state (R474) -/

/-- The SEQ of each stream's last queued frame, as the device sees it: the mirrored one on the standby; on an active device its own, or,
of a stream that has queued none since the device took over, the mirrored one. -/
def State.streamSeqs (s : State) : List (Nat × Nat) :=
  if s.isActive then (List.range 8).filterMap fun n =>
    let x := nth ({} : OutStream) s.outp.str n
    if x.framed then some (n, x.last) else (mapFind s.twn.streamSeq n).map fun m => (n, m)
  else s.twn.streamSeq

/-- The last SEQ of each destination, as the device sees it. -/
def State.destSeqs (s : State) : List (Nat × Nat) :=
  if s.isActive then (List.range 4).map fun d => (d, (nth ({} : AlmDest) s.alm.dest d).seq) else s.twn.destSeq

/-- The twin saved state is written to the older of its two slots; `ok` whether the flash takes it. A failed write is a fault of the flash
(R478), and what CRC-32C it leaves in the slot is a free value. -/
def State.twnSave (s : State) (ok : Bool) : State :=
  let ord (x : Option TwnSave) : Nat := match x with | some y => y.order + 1 | none => 0
  let v : TwnSave := ⟨s.alm.slots, s.streamSeqs, s.destSeqs, s.bkp.epoch.getD 0, s.twn.role.code, max (ord s.flash.twin0) (ord s.flash.twin1), 0⟩
  let put (c : Nat) : Flash :=
    if ord s.flash.twin0 ≤ ord s.flash.twin1 then { s.flash with twin0 := some { v with crc := c } }
    else { s.flash with twin1 := some { v with crc := c } }
  if ok then ({ s with flash := put (crc32c v.bytes) }).count (Reg.TWN_CNT_LO 10)
  else (({ s.freshNext with flash := put (s.freshVal % 2 ^ 32) }).event Reg.TWN_EVT 12).report 62 0 (unitCode 22) 0 0

/-- A save that no command tells the outcome of, at a hand-over or a shutdown: whether the flash takes it is a free value. -/
def State.twnSaveNow (s : State) : State := s.freshNext.twnSave (s.freshVal % 2 == 1)

/-- The state restored when a device leaves WAIT for SOLO (R474): from the newest valid slot. -/
def State.twnRestore (s : State) : State :=
  let best := match twinValid s.flash.twin0, twinValid s.flash.twin1 with
    | some a, some b => some (if a.order ≤ b.order then b else a)
    | some a, none => some a
    | none, b => b
  match best with
  | none => s
  | some v =>
    let keep := (v.slots.filter fun x => x.2.st == .conf || x.2.clearPend).map fun x =>
      (x.1, { x.2 with st := .conf, provOpen := 0, provIds := [] })
    v.dests.foldl (fun (s : State) d => s.modAlm fun a => { a with dest := a.dest.modify d.1 fun x => { x with seq := (d.2 + 65536) % 2 ^ 32 } })
      (s.modAlm fun a => { a with slots := keep })

/-- TWN_CTRL.SAVE, the TWN_SAVE manifest and the periodic save. -/
def manTwnSave (n : Nat) (ok : Bool) (s : State) : State :=
  s.runManifest n 0x00B2 fun mid _ s => (s.twnSave ok).finish0 mid (if ok then stDone else stFlashError)
/-- SAVE_S seconds pass (R474). -/
def twnPeriodicSaveRow (ok : Bool) (s : State) : State := s.twnSave ok

/-! ### Items (R462, R464) -/

/-- The items of a payload, as ITEM and bytes; none when they do not fill it exactly. -/
def itemsOf : Nat → List Byte → Option (List (Nat × List Byte))
  | 0, b => if b.isEmpty then some [] else none
  | fuel + 1, b =>
    if b.isEmpty then some []
    else
      let n := leAt b 2 2
      if b.length < 4 + n then none else (itemsOf fuel (b.drop (4 + n))).map fun l => (byteAt b 0, slice b 4 n) :: l

/-- A slot from the 48 bytes of a mirrored record (R286), in its class of the active table. -/
def State.slotFrom (s : State) (old : AlmSlot) (b : List Byte) : AlmSlot :=
  let b0 := byteAt b 0
  let st : AlmSt := match bitsOf b0 0 3 with | 0 => .free | 1 => .prov | 3 => .retracted | 4 => .cleared | _ => .conf
  let at_ := leAt b 28 2 + leAt b 30 4 * subPerNs + leAt b 34 6 * subPerSec
  s.inClass { old with
    st := st, acked := bitOf b0 3, clearPend := bitOf b0 4, overflow := bitOf b0 5, src := bitsOf (byteAt b 1) 0 4, kind := bitsOf (byteAt b 1) 4 4,
    key := leAt b 2 2, sub := byteAt b 4, gen := leAt b 8 4, decId := leAt b 12 4, quaySeq := leAt b 16 8, conf := leAt b 24 2,
    event := byteAt b 26, provOpen := byteAt b 27, at_ := at_, moved := if old.st = st then old.moved else at_, changes := leAt b 40 4,
    miss := byteAt b 44, sevP := bitsOf (byteAt b 45) 0 2, sevS := bitsOf (byteAt b 45) 2 2 } (bitsOf (byteAt b 5) 0 6)

/-- One item applied by the standby (R464). -/
def State.itemApply (s : State) (x : Nat × List Byte) : State :=
  let b := x.2
  match x.1 with
  | 1 =>
    let n := leAt b 0 2
    let old := s.slot n
    let y := s.slotFrom old (b.drop 4)
    if 1088 ≤ n then s else (if old.st = y.st then s.setSlot n y else (s.setSlot n y).pulses y).pinsDrive
  | 2 => s.modTwn fun t => { t with streamSeq := mapSet t.streamSeq (byteAt b 0) (leAt b 4 8) }
  | 3 => s.modTwn fun t => { t with destSeq := mapSet t.destSeq (byteAt b 0) (leAt b 4 4) }
  | 4 => s.modTwn fun t => { t with logCopy := (b :: t.logCopy).take 1024 }
  | 5 =>
    let m := byteAt b 0
    let end_ := leAt b 76 2 + leAt b 78 4 * subPerNs + leAt b 82 6 * subPerSec
    let r := (leAt b 12 8, leAt b 20 8)
    let prev := s.twn.peerMtr.find? fun y => y.point == m
    let y : MtrPeer := ⟨m, end_, prev.map fun p => ((r.1 + 2 ^ 64 - p.read.1) % 2 ^ 64, (r.2 + 2 ^ 64 - p.read.2) % 2 ^ 64), r⟩
    (s.modTwn fun t => { t with peerMtr := y :: t.peerMtr.filter fun (z : MtrPeer) => z.point != m }).mtrCompare m end_
  | 6 =>
    let w := BitVec.ofNat 32 (bitsOf (leAt b 0 4) 8 3 + bitsOf (leAt b 8 2) 0 4 * 2 ^ 8 + min (leAt b 4 4 / 1000) 65535 * 2 ^ 16)
    s.modTwn fun t => { t with peerTime := w }
  | _ => s

/-- The items of a received payload applied in order. -/
def State.itemsApply (s : State) (l : List (Nat × List Byte)) : State := l.foldl State.itemApply s

/-- The TIME item (R462). -/
def State.timeItem (s : State) : List Byte := leBytes 4 s.tbStatus ++ leBytes 4 s.unc ++ leBytes 2 s.tb.tq.toNat ++ [0, 0]

/-- An item as it stands in a payload. -/
def itemBytes (item : Nat) (b : List Byte) : List Byte := leBytes 1 item ++ [0] ++ leBytes 2 b.length ++ b

/-- Items packed into payloads of at most 4,064 bytes, in order. -/
def packItems : List (List Byte) → List Byte → List (List Byte)
  | [], acc => if acc.isEmpty then [] else [acc]
  | i :: is, acc => if acc.length + i.length ≤ 4064 then packItems is (acc ++ i) else acc :: packItems is i

/-- Payloads sent as frames of a TYPE, the last of them with END. -/
def State.sendPacked (s : State) (typ : Nat) : List (List Byte) → State
  | [] => s
  | [p] => s.aizSend typ true p
  | p :: ps => (s.aizSend typ false p).sendPacked typ ps

/-- A resynchronisation (R466): the whole alarm table, every STREAM_SEQ and DEST_SEQ and the last logbook record; from then on items
follow in MIRROR frames. Its END clears MIRROR_STALE; when the link takes no frame, nothing has changed. -/
def State.resyncSend (s : State) : State :=
  let slots := (List.range 1088).map fun n => itemBytes 1 (leBytes 2 n ++ [0, 0] ++ ((s.slot n).record n).take 48)
  let streams := s.streamSeqs.map fun x => itemBytes 2 (leBytes 1 x.1 ++ [0, 0, 0] ++ leBytes 8 x.2)
  let dests := s.destSeqs.map fun x => itemBytes 3 (leBytes 1 x.1 ++ [0, 0, 0] ++ leBytes 4 x.2)
  let log := (s.bkp.tail.getLast?.map fun r => itemBytes 4 r.bytes).toList
  let s1 := (s.modTwn fun t => { t with mirrorOn := true, mirrorStale := false, mirror := [] }).sendPacked 6
    (packItems (slots ++ streams ++ dests ++ log) [])
  if s1.twn.txFseq = s.twn.txFseq then
    s1.modTwn fun t => { t with mirrorOn := s.twn.mirrorOn, mirrorStale := s.twn.mirrorStale, mirror := s.twn.mirror }
  else s1

/-- The standby asks for a resynchronisation (R465, R466). -/
def State.resyncRequest (s : State) : State := (s.modTwn fun t => { t with mirrorSync := false }).aizSend 6 false []

/-- TWN_CTRL.RESYNC or TWN_RESYNC (R466): the standby asks, the active device sends. -/
def State.resyncCommand (s : State) : State :=
  if s.twn.role = .standby ∨ s.twn.role = .joining then s.resyncRequest
  else if s.twn.role = .active ∨ s.twn.role = .handing then s.resyncSend
  else s

/-- The TWN_RESYNC manifest. -/
def manTwnResync (n : Nat) (s : State) : State := s.runManifest n 0x00B1 fun mid _ s => s.resyncCommand.finish0 mid stDone

/-- A frame leaves the link, and its items leave the mirror queue (R465). -/
def aizhanFrameSentRow (s : State) : State :=
  if !s.aizUp ∨ !s.twnOn then s
  else
    match packItems s.twn.mirror [] with
    | [] => s
    | p :: _ =>
      let n := ((List.range (s.twn.mirror.length + 1)).filter fun k => ((s.twn.mirror.take k).map List.length).sum ≤ p.length).length - 1
      (s.modTwn fun t => { t with mirror := t.mirror.drop n }).aizSend 3 false p

/-! ### Hand-over (R469, R470, R473) -/

/-- The result of a hand-over (R473), with the manifest that asked for it. -/
def State.hoEnd (s : State) (result : Nat) (mid : Option Nat) : State :=
  (s.modTwn fun t => { t with hoResult := result, hoDone := true }).finishOpt mid (if result = 1 then stDone else stRefused) result []

/-- While the absolute value of TWN_DT_DIFF exceeds TWN_DT_LIMIT, DT_DIFF is set (R461), with the event when it becomes so. -/
def State.dtDiffNote (s : State) : State :=
  let bad : Bool := decide ((s.reg Reg.TWN_DT_LIMIT).toNat < s.twn.dtDiff.natAbs)
  let s1 := s.modTwn fun t => { t with dtDiffFlag := bad }
  if bad ∧ !s.twn.dtDiffFlag then s1.event Reg.TWN_EVT 9 else s1

/-- The HANDOVER frame that names H (R462). -/
def State.hoFrame (s : State) (h : Nat) (force : Bool) : State := s.aizSend 4 false (padTo 16 (tsBytes h ++ leBytes 1 (b2n force)))

/-- A planned hand-over is requested (R469). H is the first reporting instant at least 2 ms later; while no grid gives one, H and the frame
that names it wait for the first delivered instant that meets the condition (R21). -/
def State.hoRequest (s : State) (force : Bool) (mid : Option Nat) : State :=
  if s.twn.role = .handing ∨ s.twn.formerActive.isSome then s.hoEnd 5 mid
  else if s.twn.role ≠ .active then s.hoEnd 2 mid
  else if !force ∧ s.twn.cfgDiff then s.hoEnd 4 mid
  else if !force ∧ (!s.twn.peerHealth.getLsbD 0 ∨ s.twn.dtDiffFlag) then s.hoEnd 3 mid
  else
    let t := s.dt + 2 * subPerMs
    let h := (s.instantAfter t 0).map fun x => x.2.2
    let s1 := (s.modTwn fun x => { x with handOver := some ⟨h, force, mid, s.dt, false⟩, hoDone := false, hoPlanned := true }).setRole .handing
    match h with
    | some t => s1.hoFrame t force
    | none => s1

/-- The active device keeps its role: the hand-over ends with a result (R469). -/
def State.hoBack (s : State) (h : HandOver) (result : Nat) : State :=
  ((s.modTwn fun t => { t with handOver := none }).setRole .active).hoEnd result h.mid

/-- The TWN_HANDOVER manifest. -/
def manTwnHandover (n : Nat) (s : State) : State :=
  s.runManifest n 0x00B0 fun mid b s => s.hoRequest (bitOf (byteAt b 20) 0) (some mid)

/-- A write of TWN_CTRL (R466, R469, R474, R477); a save it asks for succeeds when `ok`. -/
def twnCtrlWrite (v : Word) (ok : Bool) (s : State) : State :=
  let s0 := if v.getLsbD 0 then s.clearCounters (Reg.TWN_CNT_LO 0) 11 else s
  let s1 := if v.getLsbD 1 then s0.hoRequest (v.getLsbD 2) none else s0
  let s2 := if v.getLsbD 3 then s1.resyncCommand else s1
  if v.getLsbD 4 then s2.twnSave ok else s2

/-- TWN_CTRL with HANDOVER. -/
def twnCtrlHandoverRow (force : Bool) (s : State) : State := twnCtrlWrite (if force then 6 else 2) true s
/-- TWN_CTRL with RESYNC. -/
def twnCtrlResyncRow (s : State) : State := twnCtrlWrite 8 true s
/-- TWN_CTRL with SAVE. -/
def twnCtrlSaveRow (ok : Bool) (s : State) : State := twnCtrlWrite 16 ok s

/-- The pins are no longer held at FLT_SAFE: the device has handed over (R491). -/
def State.pinsFree (s : State) : State := { s with flt := { s.flt with pinsSafe := false } }

/-- The hand-over instant H at the active device whose peer has answered TAKE (R469). With no item left, a TIME item carries END, since a
MIRROR frame has at least one (R462; DESIGN CHOICE, log entry 124). -/
def State.hoInstant (s : State) (h : HandOver) (at_ : Nat) : State :=
  let s1 := s.twnSaveNow
  let rest := packItems s1.twn.mirror []
  let s2 := (s1.modTwn fun t => { t with mirror := [] }).sendPacked 3 (if rest.isEmpty then [itemBytes 6 s1.timeItem] else rest)
  (s2.modTwn fun t => { t with
    handOver := none, formerActive := some (at_, h.mid), streamSeq := s1.streamSeqs, destSeq := s1.destSeqs }) |>.pinsFree.setRole .standby

/-- What a reporting instant does to a hand-over at the active device (R469): the exchange at H, or the choice of an H that no grid gave. -/
def State.hoActive (s : State) (t : Nat) : State :=
  match s.twn.handOver with
  | none => s
  | some h =>
    match h.h with
    | some x => if x ≤ t then (if h.taken then s.hoInstant h x else s.hoBack h 6) else s
    | none =>
      if h.reqAt + 2 * subPerMs ≤ t then
        (s.modTwn fun y => { y with handOver := some { h with h := some t, reqAt := t } }).hoFrame t h.force
      else s

/-- What a reporting instant does to a hand-over (R469, R471). -/
def State.hoAtInstant (s : State) (t : Nat) : State :=
  let s1 := s.hoActive t
  match s1.twn.takeH with
  | some h =>
    if h ≤ t ∧ s1.twn.role = .standby then
      (s1.twnSaveNow.modTwn fun x => { x with takeH := none, takeAt := h, planned := true }).setRole .taking
    else if h ≤ t then s1.modTwn fun x => { x with takeH := none } else s1
  | none => s1

/-- No answer within 1,000 µs of the frame (R469). -/
def handoverAnswerTimeoutRow (s : State) : State :=
  match s.twn.handOver with
  | some h => if h.taken ∨ h.h.isNone then s else (s.advance (h.reqAt + 1000 * subPerUs)).hoBack h 6
  | none => s

/-- H + 1,000 µs at a former active device (R470): it returns to ACTIVE when its peer is still heard in STANDBY; otherwise the
hand-over is done. -/
def handoverReturnCheckRow (s : State) : State :=
  match s.twn.formerActive with
  | none => s
  | some (h, mid) =>
    let s1 := (s.advance (h + 1000 * subPerUs)).modTwn fun t => { t with formerActive := none }
    let heard : Bool := (s.twn.aizAlive || s.twn.hbAlive) && s.twn.peerRole == 4
    if s1.twn.role = .standby ∧ heard then
      let s2 := s1.setRole .active
      (s1.twn.streamSeq.foldl (fun (s : State) x => s.outContinue x.1 x.2) s2).hoEnd 6 mid
    else (s1.hoEnd 1 mid).count (Reg.TWN_CNT_LO 6)

/-! ### Takeover (R471, R472) -/

/-- The conditions of the time base, the metering unit and the fault collector that hold on the device (R270). -/
def State.ownConds (s : State) : List AlmInput :=
  let mk (src sub kind key : Nat) : AlmInput := { op := .raise, src := src, sub := sub, kind := kind, key := key, sev := 1 }
  let bad : Bool := s.tb.dtState == .degraded || s.tb.dtState == .freeRun
  let tb := ([(1, s.tb.dtState != .locked), (2, bad), (3, s.tb.xchkFail), (4, s.tb.leapMismatch)].filter (·.2)).map fun c => mk 4 0 c.1 0
  let mtr := s.mtr.point.zipIdx.flatMap fun p => (p.1.cond.zipIdx.filter fun c => c.1.raised).map fun c =>
    mk 6 p.2 (if c.2 < 4 then 1 else if c.2 < 7 then 2 else 3) (if c.2 < 4 then c.2 else if c.2 < 7 then c.2 - 4 else c.2 - 7)
  let ref := if s.mtr.refusing || s.mtr.bridging then [mk 6 0 4 0] else []
  let flt := (s.flt.srcs.filter fun x => x.2.broken || (x.1 < 32 && (s.engine x.1).rstate == .fenced) || s.unitFenced (x.1 - 31)).map fun x => mk 5 0 x.2.lastReaction x.1
  tb ++ mtr ++ ref ++ flt.filter fun i => i.kind != 0

/-- Whether a slot of SRC 4 or 6 has no condition that holds. -/
def staleCond (conds : List AlmInput) (x : AlmSlot) : Bool :=
  (x.src == 4 || x.src == 6) && x.live && !x.overflow &&
    !(conds.any fun i => i.src == x.src && i.sub == x.sub && i.kind == x.kind && i.key == x.key)

/-- The takeover completes (R472), as one step of the alarm unit: `result` 1 planned, 7 promoted. -/
def State.takeOver (s : State) (result : Nat) : State :=
  let s1 := s.modAlm fun a => { a with pinsHold := true }
  let replay := s1.twn.replay
  let s2 := ((((s1.modTwn fun t => { t with replay := [], replayOvf := false, endSeen := false, planned := false }).setRole .active).event
    Reg.TWN_EVT 4).event Reg.OUT_EVT 4).setTs Reg.TWN_HO_AT_SUBNS s1.twn.takeAt
  let s3 := s.twn.destSeq.foldl (fun (s : State) x => s.modAlm fun a => { a with dest := a.dest.modify x.1 fun d => { d with seq := x.2 } }) s2
  let s4 := (List.range 4).foldl (fun (s : State) d => if s.destEn d then s.almSendMsg d 0 [] else s) s3
  let s5 := s4.modAlm fun a => { a with slots := a.slots.map fun (x : Nat × AlmSlot) => (x.1, { x.2 with provOpen := 0, provIds := [] }) }
  let s6 := replay.foldl State.almApply s5
  let s7 := (s6.alm.slots.filter fun x => x.2.st == .prov && x.2.provOpen == 0 && x.2.sevS == 0).foldl (fun (s : State) x =>
    s.almCommit x.1 x.2 { x.2 with st := .retracted } false) s6
  let conds := s7.ownConds
  let s8 := conds.foldl State.almApply s7
  let s9 := (s8.alm.slots.filter fun x => staleCond conds x.2).foldl (fun (s : State) x => s.almCommit x.1 x.2 x.2.clearCond false) s8
  let s10 := (s9.modAlm fun a => { a with pinsHold := false }).pinsDrive
  let s11 := s.twn.streamSeq.foldl (fun (s : State) x => s.outContinue x.1 x.2) s10
  ((s11.modTwn fun t => { t with hoPlanned := decide (result = 1) }).hoEnd result none).count (Reg.TWN_CNT_LO (if result = 1 then 6 else 7))

/-- A TAKING device takes over (R472): for a planned hand-over once END has come, or at H + 500 µs. -/
def takeoverRow (s : State) : State :=
  if s.twn.role ≠ .taking then s
  else if !s.twn.planned then s.takeOver 7
  else (if s.twn.endSeen then s else s.advance (s.twn.takeAt + 500 * subPerUs)).takeOver 1

/-! ### Loss of the peer (R467, R468) -/

/-- A heartbeat path is lost (R467). -/
def State.pathLoss (s : State) (hb : Bool) : State :=
  ((s.modTwn fun t => if hb then { t with hbAlive := false } else { t with aizAlive := false }).event Reg.TWN_EVT (if hb then 2 else 1)).count
    (Reg.TWN_CNT_LO 4) |>.unitFault 22

/-- A path has carried no valid heartbeat for 1,000 µs: the HB path or the Aizhan path. -/
def pathLostRow (hb : Bool) (s : State) : State :=
  if hb ∧ s.twn.hbAlive then (s.advance (s.twn.lastHbRx + 1000 * subPerUs)).pathLoss true
  else if !hb ∧ s.twn.aizAlive then (s.advance (s.twn.lastAizRx + 1000 * subPerUs)).pathLoss false
  else s

/-- A promotion begins (R468, R471). -/
def State.promote (s : State) : State :=
  (s.modTwn fun t => { t with takePending := false, takeH := none, planned := false }).setRole .taking

/-- The peer is lost. -/
def State.losePeer (s : State) : State := (s.modTwn fun t => { t with peerLost := true, mirrorOn := false }).event Reg.TWN_EVT 3

/-- What each role does once both paths are lost (R468). -/
def State.bothLostAct (s : State) : State :=
  match s.twn.role with
  | .standby =>
    let s2 := s.losePeer.modTwn fun t => { t with takeAt := s.dt }
    if s2.bst.running ∧ s2.bst.mode = 1 then s2.modTwn fun t => { t with takePending := true } else s2.promote
  | .active | .handing => if s.twn.peerLost then s else s.losePeer
  | .joining => s.setRole .solo
  | _ => s

/-- No valid heartbeat on either path for 3,000 µs (R468); during a whole-device test the promotion waits (R472, R496). -/
def bothLostRow (s : State) : State :=
  if s.twn.aizAlive ∨ s.twn.hbAlive ∨ !s.twnOn then s
  else (s.advance (max s.twn.lastAizRx s.twn.lastHbRx + 3000 * subPerUs)).bothLostAct

/-! ### Receiving frames (R460 to R462) -/

/-- A tag failure, or a frame without a key (R460, R517): 16 within 1 s lose the path. -/
def State.authFail (s : State) : State :=
  let l := (s.dt :: s.twn.authFails.filter fun t => s.dt < t + subPerSec).take 16
  let s1 := ((s.modTwn fun t => { t with authFails := l }).count (Reg.TWN_CNT_LO 2)).event Reg.TWN_EVT 6
  if l.length = 16 then
    let s2 := s1.modTwn fun t => { t with aizBlocked := true }
    if s2.twn.aizAlive then s2.pathLoss false else s2
  else s1

/-- A dropped frame (R459, R460, R462). -/
def State.aizDrop (s : State) : State := s.count (Reg.TWN_CNT_LO 3)

/-- A received frame that has been opened (R459): LEN, TYPE, END, EPOCH, SIDE, FSEQ and the payload. -/
structure AizRx where
  len : Nat
  typ : Nat
  end_ : Bool
  epoch : Nat
  side : Bool
  fseq : Nat
  payload : List Byte
deriving DecidableEq, Repr

/-- A received frame opened with a key (R459, R460); none when its tag fails, as that of a frame too short for one does. -/
def aizOpen (key b : List Byte) : Option AizRx :=
  let n := b.length - 32
  if b.length < 32 then none
  else (gcmOpen key (slice b 4 12) (b.take 16) (slice b 16 n) (b.drop (16 + n))).map fun p =>
    { len := leAt b 0 2, typ := byteAt b 2, end_ := bitOf (byteAt b 3) 0, epoch := bitsOf (leAt b 4 4) 0 31, side := bitOf (leAt b 4 4) 31,
      fseq := leAt b 8 8, payload := p }

/-- Whether LEN is the payload's length and one its TYPE has (R462). -/
def aizLenOk (f : AizRx) : Bool :=
  f.len == f.payload.length &&
    match f.typ with
    | 1 | 2 => f.len == 48
    | 3 => 4 ≤ f.len && f.len ≤ 4064
    | 4 | 5 => f.len == 16
    | 6 => f.len == 0 || (4 ≤ f.len && f.len ≤ 4064)
    | _ => false

/-- The checks of a frame whose tag is right, by its TYPE (R460, R462): FSEQ is held against the last one accepted from the same EPOCH,
an earlier one included; `k` is what an accepted frame does. A gap in FSEQ makes a device that is resynchronised, or being so, ask for it
again (R465). -/
def State.aizChecked (s : State) (typ : Nat) (f : AizRx) (k : AizRx → State → State) : State :=
  if f.typ ≠ typ then (if f.typ = 0 ∨ 7 ≤ f.typ then s.aizDrop else s)
  else if typ = 1 ∧ f.side = s.side then s.count (Reg.TWN_CNT_LO 2)
  else if s.twn.peerEpoch ≠ some f.epoch ∧ typ ≠ 1 then s.aizDrop
  else if (mapFind s.twn.peerSeen f.epoch).any fun n => decide (f.fseq ≤ n) then s.aizDrop
  else if !aizLenOk f then s.aizDrop
  else if (typ = 3 ∨ typ = 6) ∧ (itemsOf f.payload.length f.payload).isNone then s.aizDrop
  else
    let gap : Bool := s.twn.peerEpoch == some f.epoch && decide (s.twn.peerFseq + 1 < f.fseq) &&
      (s.twn.role == .standby || s.twn.role == .joining)
    let s1 := (s.modTwn fun t => { t with
      peerEpoch := some f.epoch, peerFseq := f.fseq, peerSeen := mapSet t.peerSeen f.epoch f.fseq }).count (Reg.TWN_CNT_LO 1)
    k f (if gap then s1.resyncRequest else s1)

/-- A received frame (R460, R516, R517): without a key, or with a tag that fails, it counts in AUTH_FAIL; without a crypto context it is
dropped (DESIGN CHOICE, log entry 117). -/
def State.aizRx (s : State) (typ : Nat) (frame : List Byte) (k : AizRx → State → State) : State :=
  if !s.twnOn ∨ !s.aizUp then s
  else match s.aizContext with
    | (s1, none) => if s.aizKey.isNone then s1.authFail else s1.aizDrop
    | (s1, some key) =>
      match aizOpen key frame with
      | none => s1.authFail
      | some f => s1.aizChecked typ f k

/-- The peer's SET_CHECK against this device's (R458). -/
def State.checkPeer (s : State) (c : Nat) : State :=
  let diff : Bool := s.setCheck s.cfg.active != c
  let s1 := s.modTwn fun t => { t with peerCheck := some c, cfgDiff := diff }
  if diff ∧ !s.twn.cfgDiff then s1.event Reg.TWN_EVT 8 else s1

/-- The device enters JOINING and asks for a resynchronisation (R457, R466). -/
def State.join (s : State) : State := (s.setRole .joining).resyncRequest

/-- What a HELLO does (R457, R458, R461). -/
def State.helloTake (s : State) (b : List Byte) : State :=
  let role := bitsOf (byteAt b 12) 0 3
  let since := leAt b 16 2 + leAt b 18 4 * subPerNs + leAt b 22 6 * subPerSec
  let s1 := (s.modTwn fun t => { t with peerRole := role, peerHealth := BitVec.ofNat 32 (leAt b 32 4), aizBlocked := false, waitHeard := true }).checkPeer (leAt b 28 4)
  if leAt b 0 4 ≠ s.idCap ∨ leAt b 4 4 ≠ s.idCapCount ∨ leAt b 8 4 ≠ s.engMask then
    if s.twn.role = .wait ∨ s.twn.role = .solo ∨ s.twn.role = .active ∨ s.twn.role = .standby then
      (s1.setRole .mismatch).event Reg.TWN_EVT 5
    else s1
  else if !activeCode role then s1
  else match s.twn.role with
    | .wait => s1.join
    | .solo | .active =>
      if since < s.twn.activeSince ∨ (since = s.twn.activeSince ∧ s.side) then (s1.event Reg.TWN_EVT 11).join else s1
    | _ => s1

/-- A received HELLO. -/
def helloRow (frame : List Byte) (s : State) : State := s.aizRx 1 frame fun f s => s.helloTake f.payload

/-- A valid heartbeat of either path tells the peer's role: the peer is there, and a device alone becomes ACTIVE when the peer it
resynchronised is STANDBY (R457). -/
def State.peerHeard (s : State) (role : Nat) : State :=
  let s1 := s.modTwn fun t => { t with peerRole := role, peerLost := false }
  if s1.twn.role = .solo ∧ s1.twn.mirrorOn ∧ role = 4 then s1.setRole .active else s1

/-- What a HEARTBEAT does (R461, R467). -/
def State.heartbeatTake (s : State) (b : List Byte) : State :=
  let ts (o : Nat) : Int := (leAt b o 2 + leAt b (o + 2) 4 * subPerNs + leAt b (o + 6) 6 * subPerSec : Nat)
  let tx := ts 12
  let etx := ts 24
  let erx := ts 36
  let s1 := (s.modTwn fun t => { t with
    peerHealth := BitVec.ofNat 32 (leAt b 4 4), echoTx := tx.toNat, echoRx := s.dt,
    aizAlive := !t.aizBlocked, lastAizRx := s.dt }).checkPeer (leAt b 8 4)
  let s2 :=
    if etx = 0 ∧ erx = 0 then s1
    else
      let d : Int := ((tx - (s.dt : Int)) + (erx - etx)) / 2 / (subPerNs : Int)
      let sat : Int := max (-2147483648) (min d 2147483647)
      (s1.modTwn fun t => { t with dtDiff := sat }).dtDiffNote
  s2.peerHeard (bitsOf (byteAt b 2) 0 3)

/-- A received HEARTBEAT. -/
def heartbeatRow (frame : List Byte) (s : State) : State := s.aizRx 2 frame fun f s => s.heartbeatTake f.payload

/-- CRC-8 with polynomial 0x07 and initial value 0 (R467). -/
def crc8 (bs : List Byte) : Nat := bs.foldl (crcMsbByte 8 0x07) 0

/-- A word on HB_RX (R467): valid when SYNC and CRC agree and SIDE differs. -/
def hbWordRxRow (w : Nat) (s : State) : State :=
  if s.twnOn ∧ bitsOf w 40 8 = 0xA5 ∧ crc8 (beBytes 5 (bitsOf w 8 40)) = bitsOf w 0 8 ∧ bitOf w 36 ≠ s.side then
    (s.modTwn fun t => { t with hbAlive := true, lastHbRx := s.dt }).peerHeard (bitsOf w 37 3)
  else s

/-- A HEARTBEAT frame, as far as the link takes one, and an HB word are sent (R467); HB_SEQ advances with a frame that is sent (R462). Every 100 ms a TIME item is mirrored (R464). -/
def heartbeatTxRow (s : State) : State :=
  if !s.twnOn then s
  else
    let s0 :=
      if s.twn.lastTime + 100 * subPerMs ≤ s.dt then
        (s.modTwn fun t => { t with lastTime := s.dt }).mirrorItem 6 s.timeItem
      else s
    let t := s0.twn
    let pl := leBytes 2 t.hbSeq ++ leBytes 1 t.role.code ++ [0] ++ leBytes 4 s0.health ++ leBytes 4 (s0.setCheck s0.cfg.active) ++
      tsBytes s0.dt ++ tsBytes t.echoTx ++ tsBytes t.echoRx
    let sent := s0.aizSend 2 false pl
    let s1 := if sent.twn.txFseq = t.txFseq then sent else sent.modTwn fun t => { t with hbSeq := (t.hbSeq + 1) % 65536 }
    let role := if t.role = .mismatch then 0 else t.role.code
    let hi := 0xA5 * 2 ^ 32 + role * 2 ^ 29 + b2n s.side * 2 ^ 28 + b2n (bitOf s0.health 0) * 2 ^ 27 + t.hbWordSeq * 2 ^ 8
    (s1.emit (.hbWord (hi * 256 + crc8 (beBytes 5 hi)))).modTwn fun t => { t with hbWordSeq := (t.hbWordSeq + 1) % 65536 }

/-- Whether the device takes mirrored items. -/
def State.mirrors (s : State) : Bool := s.twn.role == .joining || s.twn.role == .standby || s.twn.role == .taking

/-- A received MIRROR frame (R464); an active device takes the peer's MTR items from it (R476). -/
def mirrorRow (frame : List Byte) (s : State) : State :=
  s.aizRx 3 frame fun f s =>
    if s.mirrors then
      (s.itemsApply ((itemsOf f.payload.length f.payload).getD [])).modTwn fun t => { t with endSeen := t.endSeen || f.end_ }
    else if s.twn.role = .active ∨ s.twn.role = .handing then
      s.itemsApply (((itemsOf f.payload.length f.payload).getD []).filter fun x => x.1 == 5)
    else s

/-- A received RESYNC frame (R465, R466): a request, or a transfer whose END completes it. -/
def resyncRow (frame : List Byte) (s : State) : State :=
  s.aizRx 6 frame fun f s =>
    if f.payload.isEmpty then (if s.isActive ∧ s.twn.role ≠ .mismatch then s.resyncSend else s)
    else if !s.mirrors then s
    else
      let s1 := s.itemsApply ((itemsOf f.payload.length f.payload).getD [])
      if f.end_ then
        let s2 := (s1.modTwn fun t => { t with mirrorStale := false, mirrorSync := true }).count (Reg.TWN_CNT_LO 8)
        if s2.twn.role = .joining then s2.setRole .standby else s2
      else s1

/-- A received HANDOVER frame (R469): answered TAKE when READY is 1 or the frame carries FORCE. -/
def handoverRow (frame : List Byte) (s : State) : State :=
  s.aizRx 4 frame fun f s =>
    let b := f.payload
    let h := leAt b 0 2 + leAt b 2 4 * subPerNs + leAt b 6 6 * subPerSec
    let take : Bool := s.twn.role == .standby && (bitOf s.health 0 || bitOf (byteAt b 12) 0)
    let s1 := s.aizSend 5 false (padTo 16 (b.take 12 ++ leBytes 1 (b2n !take)))
    if take then s1.modTwn fun t => { t with takeH := some h, endSeen := false } else s1

/-- A received TAKE frame (R469). -/
def takeRow (frame : List Byte) (s : State) : State :=
  s.aizRx 5 frame fun f s =>
    let b := f.payload
    let at_ := leAt b 0 2 + leAt b 2 4 * subPerNs + leAt b 6 6 * subPerSec
    match s.twn.handOver with
    | some h =>
      if some at_ ≠ h.h ∨ h.taken then s
      else if byteAt b 12 = 0 then s.modTwn fun t => { t with handOver := some { h with taken := true } }
      else s.hoBack h 3
    | none => s

/-! ### Roles by time and by EN (R457) -/

/-- A write of TWN_CFG (R457): EN 0 ends pairing; EN 1 starts one. -/
def twnEnWriteRow (v : Word) (s : State) : State :=
  let was := s.bit Reg.TWN_CFG 0
  let s1 := s.writeReg Reg.TWN_CFG v
  if !v.getLsbD 0 then
    let s2 := match s1.twn.handOver with
      | some h => (s1.modTwn fun t => { t with handOver := none }).hoEnd 2 h.mid
      | none => s1
    (s2.modTwn fun t => { t with
      mirror := [], mirrorSync := false, peerEpoch := none, peerLost := false, cfgDiff := false, takeH := none,
      takePending := false }).setRole .solo
  else if was then s1 else s1.pairStart

/-- The boot set is active with EN 1 (R457): the device listens for its peer. -/
def State.twnBoot (s : State) : State := if s.bit Reg.TWN_CFG 0 then s.setRole .wait else s

/-- No HELLO within 1,000 ms in WAIT (R457, R474). A device that has heard one stays in WAIT: the manual names no other way out but a HELLO
from an active peer and EN 0. -/
def twnWaitTimeoutRow (s : State) : State :=
  if s.twn.role = .wait ∧ !s.twn.waitHeard then ((s.advance (s.twn.roleAt + 1000 * subPerMs)).twnRestore).setRole .solo else s

/-- No resynchronisation within 2,000 ms of JOINING (R457). -/
def twnJoinTimeoutRow (s : State) : State :=
  if s.twn.role = .joining then (s.advance (s.twn.roleAt + 2000 * subPerMs)).setRole .solo else s

/-- The link has been down for 1,000 ms in MISMATCH (R457). -/
def twnMismatchTimeoutRow (s : State) : State :=
  if s.twn.role = .mismatch ∧ !s.aizUp then (s.advance (s.twn.linkDownAt + 1000 * subPerMs)).setRole .solo else s

/-- TEST_S seconds pass on a standby (R475): a SELFTEST rotation of the next present engine; one refused BUSY is tried again. -/
def twnStandbyTestRow (s : State) : State :=
  if s.twn.role ≠ .standby ∨ !s.bit Reg.TWN_CFG 3 then s
  else
    match ((List.range 32).map fun i => (s.twn.nextTest + i) % 32).find? s.hasEng with
    | none => s
    | some e =>
      let s1 := s.rotRequest e 2 none
      if (s1.plt.rot.map (·.engine)) = some e ∧ s.plt.rot.isNone then
        s1.modTwn fun t => { t with testEngine := some e, nextTest := (e + 1) % 32 }
      else s1

/-- The end of a test of engine e (R475): a failed standby test sets TEST_FAIL, until a later test of the same engine passes, whoever asked
for it. -/
def State.standbyTested (s : State) (e : Nat) (ok : Bool) : State :=
  s.modTwn fun t => { t with
    testEngine := if t.testEngine = some e then none else t.testEngine,
    testFail := if ok then t.testFail.filter (· != e) else if t.testEngine = some e then t.testFail.filter (· != e) ++ [e] else t.testFail }

/-! ### Registers (R477) -/

/-- TWN_STATUS (R456, R477). DEDUCED (log entry 130): it reads 8 at reset, where the role is SOLO and the device therefore active, though its
Reset column is 0. -/
def State.twnStatus (s : State) : Nat :=
  let t := s.twn
  t.role.code + 8 * b2n t.role.isActive + 16 * b2n t.lane0 + 32 * b2n t.lane1 + 64 * b2n t.aizAlive + 128 * b2n t.hbAlive +
    256 * b2n t.peerLost + 512 * b2n t.cfgDiff + 1024 * b2n t.mirrorStale + 2048 * b2n t.dtDiffFlag + 4096 * b2n t.replayOvf +
    8192 * b2n (t.testEngine.isSome || (s.bst.running && s.bst.mode == 1))

/-- TWN_HO_STATUS. -/
def State.hoStatus (s : State) : Nat := s.twn.hoResult + 16 * b2n s.twn.hoDone + 32 * b2n s.twn.hoPlanned

end Sys2Proof.Machine
end

