-- ==== Sys2Proof/Machine/Fault.lean ====
section
/-! DEFINITION. Faults and self-test (R478 to R505): the collector's record and classification, the reactions, fences and
releases, and the self-test runs. -/

namespace Sys2Proof.Machine

/-- The state with the collector changed. -/
def State.modFlt (s : State) (f : Flt → Flt) : State := { s with flt := f s.flt }
/-- The state with the self-test unit changed. -/
def State.modBst (s : State) (f : Bst → Bst) : State := { s with bst := f s.bst }

/-- What the collector keeps of a source. -/
def State.fltSrc (s : State) (i : Nat) : FltSrc := mapGet (fun _ => ({} : FltSrc)) s.flt.srcs i
/-- The state with it changed. -/
def State.modFltSrc (s : State) (i : Nat) (f : FltSrc → FltSrc) : State :=
  s.modFlt fun x => { x with srcs := mapPut (fun _ => ({} : FltSrc)) x.srcs i (f (s.fltSrc i)) }

/-- The entry of a source in the active source table (R501). -/
def State.srcEntry (s : State) (i : Nat) : Nat := (cfgWord s.cfg.active 0x0F 0 (8 * i)).toNat

/-! ### Fences (R486 to R488) -/

/-- Whether a subsystem is fenceable (R486). -/
def fenceable (n : Nat) : Bool := n == 9 || n == 10 || n == 11 || n == 12 || n == 13 || n == 21 || n == 22

/-- A master code as an owner that can be fenced: a present engine, or a fenceable subsystem (R45). -/
def State.fenceOwner (s : State) (code : Nat) : Option Nat :=
  if code < 32 then (if s.hasEng code then some code else none) else if fenceable (code - 31) then some code else none

/-- The fence target of an event (R478, R486). -/
def State.fenceTarget (s : State) (r : FaultReport) : Option Nat :=
  if r.src < 55 then s.fenceOwner r.src
  else if r.src = 55 ∨ r.src = 57 then (if r.master < 32 then s.fenceOwner r.master else none)
  else if r.src = 56 ∨ r.src = 75 then s.fenceOwner r.master
  else none

/-- Tasks, waiting submissions and crypto operations of an owner are gone (R44, R487); what that frees lets submitters go on (R400), and an
engine that drains may be left with no task (R401). -/
def State.dropOwner (s : State) (code : Nat) : State :=
  let s1 := (s.plt.tasks.filter fun t => t.2.owner == code && t.2.st != .free).foldl (fun (s : State) t => (s.leaveEngine t.1).freeTask t.1) s
  let s2 := s1.modPlt fun p => { p with
    wants := p.wants.filter fun (r : TaskReq) => r.owner != code
    held := p.held.filter fun (r : TaskReq) => r.owner != code
    waitingSet := p.waitingSet.filter fun w => w.2 != code }
  ({ s2 with key := { s2.key with ops := s2.key.ops.filter fun (o : CryptoOp) => o.owner != code } }).leaseRevoke code |>.pilotResume.rotCheck

/-- The number of engines of a class that are FENCED. -/
def State.fencedOf (s : State) (c : Nat) : Nat := ((classEngines c).filter fun e => (s.engine e).rstate == .fenced).length

/-- The result that a rotation shows which a fence has ended (R487): the manual names none. -/
def State.rotCut (s : State) (r : Rot) (test : Bool) : State :=
  if test then s.rotEnd { r with result := 5 } else s.freshNext.rotEnd { r with result := s.freshVal % 6 }

/-- Engine e is marked FENCED and halted (R486, R488). -/
def State.fenceMark (s : State) (e : Nat) : State :=
  ((s.event Reg.FLT_EVT 3).count (Reg.FLT_CNT_LO 4)).modEng e fun g => { g with rstate := .fenced, halted := true }

/-- What a fence of engine e does to a rotation in progress (R487, R403): it ends that of e itself, and one of another engine of the
class raises its event. -/
def State.rotFence (s : State) (e : Nat) (test : Bool) : State :=
  match s.plt.rot with
  | some r => if r.engine = e then s.rotCut r test else if engClass r.engine = engClass e then s.event Reg.PLT_EVT 4 else s
  | none => s

/-- The reaction that follows a fence in class c (R488, R499): none is left, or a second engine is fenced. -/
def State.fenceCount (s : State) (c : Nat) : State × Nat :=
  let u := if 2 ≤ s.fencedOf c then (s.modFlt fun f => { f with assumption := true }).event Reg.FLT_EVT 6 else s
  (u, if u.classEmpty c then u.fld Reg.FLT_CFG 4 3 else if 2 ≤ s.fencedOf c then u.fld Reg.FLT_CFG 0 3 else 0)

/-- A fence of engine e (R486 to R488): `test` that its self-test failed. The answer is the reaction that follows, 0 for none. -/
def State.fenceEngine (s : State) (e : Nat) (test : Bool) : State × Nat :=
  if (s.engine e).rstate = .fenced then (s, 0)
  else
    ((((((s.fenceMark e).oscReload e).migrate e).dropOwner e).rotFence e test).noteEmpty e).fenceCount (engClass e)

/-- A fence of subsystem n (R486): it holds nothing in any pool; the capture engine stops its channels (R364); metering saves and
freezes while the front end is fenced, which stops (R366, R542). -/
def State.fenceUnit (s : State) (n : Nat) : State :=
  if s.unitFenced n then s
  else
    let s0 := if n = 10 then (s.mtrFreeze.modFe fun f => { f with mclk := false, running := false }).capFeStopped
      else if n = 13 then s.capFence else s
    ((((s0.event Reg.FLT_EVT 3).count (Reg.FLT_CNT_LO 4)).modFlt fun f => { f with fencedUnits := f.fencedUnits ++ [n] }).dropOwner (unitCode n)).pinsDrive

/-- A fence of an owner. -/
def State.fence (s : State) (code : Nat) (test : Bool) : State × Nat :=
  if code < 32 then s.fenceEngine code test else (s.fenceUnit (code - 31), 0)

/-! ### The other reactions (R489 to R491) -/

/-- Every capture channel that is ARMED or TRIGGERED is aborted. -/
def State.capAbortAll (s : State) : State :=
  (List.range 4).foldl (fun (s : State) c => if (s.capCh c).st = .armed ∨ (s.capCh c).st = .triggered then s.capAbort c else s) s

/-- DEGRADE (R489). -/
def State.degrade (s : State) : State :=
  let m := (s.reg Reg.FLT_DEGRADE_MASK).toNat
  let s1 := (s.modFlt fun f => { f with degraded := true, settledReq := f.settledReq || bitOf m 0 }).event Reg.FLT_EVT 4
  let s2 := if bitOf m 1 then (s1.setFld Reg.CAP_CTRL 0 1 0).capAbortAll else s1
  if bitOf m 2 then (s2.setFld Reg.OSC_CTRL 2 1 0).setFld Reg.ISL_CTRL 2 1 0 else s2

/-- Steps 2 to 4 of R491: output streams and alarm messages stop, alignment opens no quay, metering is saved and frozen, captures
are aborted, and the pins stand at FLT_SAFE unless the device has handed over. -/
def State.stopNow (s : State) : State :=
  let s1 := s.modAlm fun a => { a with dest := a.dest.map fun d => { d with entries := [], repeats := [] } }
  let s2 := ((s1.setFld Reg.ALN_CTRL 0 1 0).alnNote.mtrFreeze).capAbortAll
  (s2.modFlt fun f => { f with safePending := false, pinsSafe := s2.isActive || s2.twn.formerActive.isNone }).pinsDrive

/-- SAFE_STOP (R491): on a device that is ACTIVE in a pair it waits for the hand-over that it asks for. -/
def State.safeStop (s : State) : State :=
  if s.flt.safeStopped then s
  else
    let s1 := s.modFlt fun f => { f with safeStopped := true, safePending := true }
    if s1.twn.role = .handing then s1
    else s1.stopNow

/-- A SAFE_STOP or a shutdown run that has waited for a hand-over goes on (R491, R497). -/
def State.afterHandover (s : State) : State :=
  if s.twn.role = .handing then s
  else if s.flt.safePending then s.stopNow
  else s

/-- The own effects of a reaction from INTERRUPT up, without a fence, and its record and alarm input (R485). -/
def State.reactOwn (s : State) (src code : Nat) : State :=
  if code = 0 then s
  else
    let s1 := s.modFltSrc src fun x => { x with lastReaction := code }
    let s2 := (s1.logRaise 9 (unitCode 20) 2 [src, code]).almSend { op := .raise, src := 5, sub := 0, kind := code, key := src, sev := 1 }
    let s3 := if 2 ≤ code then s2.event Reg.FLT_EVT 2 else s2
    let s4 := if 4 ≤ code then s3.degrade else s3
    let s5 := if 5 ≤ code ∧ s4.twn.role = .active then s4.hoRequest true none else s4
    if code = 6 then s5.safeStop else s5

/-- HANDOVER on a device that is not ACTIVE in a pair (R490): the request is refused, and the reaction acts as DEGRADE. -/
def State.reactAs (s : State) (src code : Nat) : State :=
  if code = 5 ∧ s.twn.role ≠ .active then (s.hoRequest true none).reactOwn src 4 else s.reactOwn src code

/-- The collector fires a reaction for a source: the captures that trigger on it (R368, TYPE 8), with the timestamp of the first-error
record. -/
def State.faultNotice (s : State) (r : FaultReport) (code : Nat) : State :=
  if code = 0 then s else s.capNotice 8 (fun b1 _ => bitsOf b1 0 7 == r.src) ((s.flt.fer.map (·.at_)).getD r.at_) 0

/-- The reaction of an event (R485, R486): its fence first; a FENCE without a target acts as INTERRUPT. -/
def State.react (s : State) (r : FaultReport) (code : Nat) : State :=
  let s := s.faultNotice r code
  if code < 3 then s.reactAs r.src code
  else
    match s.fenceTarget r with
    | none => s.reactAs r.src (if code = 3 then 2 else code)
    | some t =>
      let f := s.fence t false
      let s1 := f.1.reactAs r.src code
      if f.2 = 0 then s1 else s1.reactAs r.src f.2

/-! ### Events (R480 to R484) -/

/-- Classification (R484): the level, and the reaction of the event. -/
def State.classify (s : State) (src : Nat) : State × Nat :=
  let w := s.srcEntry src
  let l := (s.fltSrc src).level + 1
  if bitsOf w 8 8 ≤ l then
    ((s.modFltSrc src fun x => { x with level := 0, at_ := s.dt }).count (Reg.FLT_CNT_LO 7), bitsOf w 4 3)
  else (s.modFltSrc src fun x => { x with level := l, at_ := s.dt }, bitsOf w 0 3)

/-- A failure of the DRAM shows (R500): the guarantee is known not to apply, until the next reset (DESIGN CHOICE, log entry 125: the manual
says when A3 holds again, and not when A2 does). -/
def State.dramFails (s : State) : State :=
  if s.flt.dramFailed then s else (s.modFlt fun f => { f with dramFailed := true }).event Reg.FLT_EVT 6

/-- Whether an event is merged into the first error (R482): while that is handled, from the same source or by an owner that its reaction is
fencing; never one of the same instant, which came in the same FAB cycle (R483). -/
def State.merges (s : State) (r : FaultReport) : Bool :=
  s.flt.handling && s.flt.fer.any fun x => (x.src == r.src || s.flt.fencing.contains r.master) && x.at_ != r.at_

/-- The owner that a reaction to an event fences (R482, R486). -/
def State.reactionFences (s : State) (r : FaultReport) (code : Nat) : List Nat := if 3 ≤ code then (s.fenceTarget r).toList else []

/-- An event reaches the collector (R480 to R484). -/
def State.faultTake (s : State) (r : FaultReport) : State :=
  if s.srcMasked r.src ∨ ((s.fltSrc r.src).broken ∧ r.cause ≠ 1) then s
  else
    let s0 := ((s.count (Reg.FLT_CNT_LO 0)).modFltSrc r.src fun x => { x with events := min (x.events + 1) 65535 })
    let s1 := if r.src = 55 then s0.count (Reg.FLT_CNT_LO 8) else s0
    let s2 :=
      if r.cause ≠ 0 then s1
      else if r.src = 63 then ({ s1 with key := { s1.key with trngFail := true } }).event Reg.KEY_EVT 5
      else if r.src = 49 ∨ r.src = 72 ∨ r.src = 73 then s1.dramFails
      else s1
    if s.merges r then (s2.modFlt fun f => { f with merged := min (f.merged + 1) 65535 }).count (Reg.FLT_CNT_LO 3)
    else
      let s3 :=
        if s.flt.fer.isSome then
          ((s2.modFlt fun f => { f with overflowed := true, overflow := min (f.overflow + 1) 65535 }).event Reg.FLT_EVT 1).count (Reg.FLT_CNT_LO 2)
        else
          (((s2.modFlt fun f => { f with fer := some ⟨r.src, r.cause, r.master, r.access, r.addr, r.at_⟩, handling := true, fencing := [] }).event
            Reg.FLT_EVT 0).count (Reg.FLT_CNT_LO 1)).setTs Reg.FLT_FER_AT_SUBNS r.at_
      let c := s3.classify r.src
      let c1 := if s.flt.fer.isSome then c.1 else c.1.modFlt fun f => { f with fencing := c.1.reactionFences r c.2 }
      let s4 := c1.react r c.2
      if c.2 = 0 ∧ s.flt.fer.isNone then s4.modFlt fun f => { f with handling := false } else s4

/-- An uncorrectable DRAM error (R447): counted, its address latched while the register is empty. -/
def State.eccUncorrectable (s : State) (addr : Nat) : State :=
  let s1 := (s.count32 Reg.CFG_ECC_UE).event Reg.CFG_EVT 5
  if s1.bit Reg.CFG_ECC_ADDR_HI 31 then s1
  else s1.setReg64 Reg.CFG_ECC_ADDR_LO (addr % 2 ^ 63 + 2 ^ 63)

/-- The TRNG is in failure (R478, R515, R521) from the event of its source until the next reset (DEDUCED). -/
def State.trngFails (s : State) : State := ({ s with key := { s.key with trngFail := true } }).event Reg.KEY_EVT 5

/-- The report the collector takes next (R483): the oldest, or, while no first error is held, the one of the lowest source among those of
its instant. -/
def Flt.nextReport (f : Flt) : Option FaultReport :=
  match f.reports with
  | [] => none
  | r :: rs =>
    if f.fer.isSome then some r
    else some ((rs.filter fun x => x.at_ == r.at_).foldl (fun (m : FaultReport) x => if x.src < m.src then x else m) r)

/-- The collector takes the next report of the units of this model. -/
def State.takeReport (s : State) : State :=
  match s.flt.nextReport with
  | none => s
  | some r => (s.modFlt fun f => { f with reports := f.reports.erase r }).faultTake r

/-- Whether a report that waits comes before an event of now (R483): it is older, or of a lower source in the same FAB cycle. -/
def State.reportFirst (s : State) (src : Nat) : Bool :=
  s.flt.fer.isNone && s.flt.nextReport.any fun q => decide (q.at_ < s.dt) || decide (q.src < src)

/-- A corrected DRAM error (R447, R454): counted. -/
def State.eccCorrected (s : State) : State := (s.count32 Reg.CFG_ECC_CE).event Reg.CFG_EVT 4

/-- A fault event (R481): the next report of a unit of this model, or one whose sender the model does not run, in the order of R483. Master
codes are 6 bits wide (R45). A corrected DRAM error, which has no row of its own, comes with this one (DESIGN CHOICE, log entry 105): it is
counted and is no fault event. -/
def faultEventRow (ext : Option FaultIn) (s : State) : State :=
  match ext with
  | some r =>
    if r.corrected then s.eccCorrected else
    let s0 := if s.reportFirst r.src then s.takeReport else s
    let s1 := if r.src = 49 then s0.eccUncorrectable r.addr else if r.src = 63 then s0.trngFails else s0
    s1.faultTake ⟨r.src, 0, r.master % 64, r.access, r.addr, s1.dt⟩
  | none => s.takeReport

/-- The master code of a source's own sender (R478, R481). -/
def srcMaster (src : Nat) : Nat := if src < 55 then src else unitCode 20

/-- A source becomes BROKEN (R480): one event with CAUSE BROKEN_WIRE. -/
def State.breakSrc (s : State) (src : Nat) : State :=
  if s.srcMasked src ∨ (s.fltSrc src).broken then s
  else
    (((s.modFltSrc src fun x => { x with broken := true }).event Reg.FLT_EVT 5).count (Reg.FLT_CNT_LO 6)).faultTake ⟨src, 1, srcMaster src, 0, 0, s.dt⟩

/-- A source's pair holds an invalid code or fails its test pulse (R480). -/
def faultPairBrokenRow (src : Nat) (s : State) : State := s.breakSrc src

/-- The sources whose pairs have carried valid codes and passed the test pulse of a whole second (R480). -/
def State.healPairs (s : State) (ok : List Nat) : State :=
  ok.foldl (fun (s : State) i => s.modFltSrc i fun x => { x with broken := false }) s

/-- T passes without an event of a source (R484). -/
def faultLevelDecayRow (src : Nat) (s : State) : State :=
  let x := s.fltSrc src
  if x.level = 0 then s
  else
    let s1 := s.advance (x.at_ + bitsOf (s.srcEntry src) 16 16 * 10 * subPerMs)
    s1.modFltSrc src fun x => { x with level := x.level - 1, at_ := s1.dt }

/-- The reaction of the first error completes (R482, R487); a SAFE_STOP has waited at most 1,000 µs (R491). -/
def faultReactionDoneRow (s : State) : State :=
  let s1 := if s.flt.safePending then s.stopNow else s
  s1.modFlt fun f => { f with handling := false, fencing := [] }

/-- A write of FLT_FER_REL with RELEASE (R504). -/
def fltFerReleaseRow (v : Word) (s : State) : State :=
  if v.getLsbD 0 then (s.modFlt fun f => { f with fer := none, overflowed := false, merged := 0, overflow := 0 }).setTs Reg.FLT_FER_AT_SUBNS 0
  else s

/-- An injection (R503). -/
def State.inject (s : State) (src : Nat) (broken : Bool) : State :=
  if broken then s.breakSrc src else s.report src 2 (srcMaster src) 0 0

/-- A write of FLT_INJECT (R504). -/
def fltInjectGoRow (v : Word) (s : State) : State :=
  if v.getLsbD 31 ∧ s.bit Reg.FLT_CTRL 1 then s.inject (bitsOf v.toNat 0 7) (v.getLsbD 8) else s

/-- The FLT_INJECT manifest (R503). -/
def manFltInject (n : Nat) (s : State) : State :=
  s.runManifest n 0x00C2 fun mid b s =>
    if s.bit Reg.FLT_CTRL 1 then (s.inject (bitsOf (byteAt b 20) 0 7) (bitOf (byteAt b 21) 0)).finish0 mid stDone else s.finish0 mid stRefused

/-- DEGRADE_CLR (R489): SETTLED_ONLY lifts at the next reporting instant. -/
def degradeClrRow (s : State) : State := s.modFlt fun f => { f with degraded := false, settledReq := false }

/-- A write of FLT_CTRL (R504). -/
def fltCtrlWrite (v : Word) (s : State) : State :=
  let s1 := if v.getLsbD 0 then s.clearCounters (Reg.FLT_CNT_LO 0) 9 else s
  let s2 := if v.getLsbD 2 then degradeClrRow s1 else s1
  s2.writeReg Reg.FLT_CTRL v

/-! ### Self-test slices (R493, R494) -/

/-- The owner code of the logic of a slice (R493, R45). -/
def sliceOwner (i : Nat) : Nat :=
  if i < 32 then i
  else unitCode (nth 18 [20, 15, 8, 3, 1, 1, 2, 10, 12, 13, 14, 19, 17, 22, 18, 18] (i - 32))

/-- The slice of a fenceable owner (R492, R493). -/
def ownerSlice (code : Nat) : Nat :=
  if code < 32 then code
  else match code - 31 with
    | 9 => 34 | 10 => 39 | 11 => 39 | 12 => 40 | 13 => 41 | 22 => 45 | _ => 32

/-- Whether a slice's logic is absent (R493, R3). -/
def State.sliceAbsent (s : State) (i : Nat) : Bool :=
  (i < 32 && !s.hasEng i) || (i == 39 && !s.hasFe) || (i == 40 && !s.hasMtr) || (i == 41 && !s.hasCap)

/-- A slice has been run (R494): its result, and for a failure source 75 and the fence of its logic. -/
def State.sliceRun (s : State) (i : Nat) (pass : Bool) : State :=
  let s1 := (s.modBst fun b => { b with res := mapSet b.res i (if pass then 1 else 2) }).count (Reg.BST_CNT_LO 0)
  if pass then s1
  else
    let s2 := (s1.modBst fun b => { b with failed := b.failed + 1, firstFail := if b.failed = 0 then i else b.firstFail }).count
      (Reg.BST_CNT_LO 1)
    let s3 := s2.report 75 3 (sliceOwner i) 0 i
    match s3.fenceOwner (sliceOwner i) with
    | some t =>
      let f := s3.fence t true
      if f.2 = 0 then f.1 else f.1.reactAs 75 f.2
    | none => s3

/-- The manifest status of a BST result (R434, R503). -/
def bstStatus (r : Nat) : Nat :=
  match r with
  | 2 => stTestFail | 3 => stBusy | 4 => stAborted | 5 => stRefused | _ => stDone

/-- A test run ends with a result: its SELFTEST record and its manifest (R381, R503, R505). -/
def State.bstEnd (s : State) (result : Nat) : State :=
  let s1 := (s.modBst fun b => { b with running := false, mid := none, abort := false, result := result }).event Reg.BST_EVT 0
  let s2 := if result = 2 then s1.event Reg.BST_EVT 1 else s1
  (s2.logRaise 13 (unitCode 21) 0 [s.bst.slice, result]).finishOpt s.bst.mid (bstStatus result) result []

/-- A request for a test is not accepted. -/
def State.bstRefuse (s : State) (result : Nat) (mid : Option Nat) : State :=
  (((if s.bst.running then s else s.modBst fun b => { b with result := result }).event Reg.BST_EVT 2).count (Reg.BST_CNT_LO 3)).finishOpt mid
    (bstStatus result) result []

/-- A run begins on a slice. -/
def State.bstBegin (s : State) (mode slice : Nat) (mid : Option Nat) : State :=
  s.modBst fun b => { b with running := true, mode := mode, slice := slice, mid := mid, abort := false, failed := 0, firstFail := 0, startAt := s.dt }

/-- A single slice test is requested (R495). -/
def State.bstSlice (s : State) (i : Nat) (mid : Option Nat) : State :=
  let testable : Bool := i < 32 || (i == 41 && s.cap.ch.all fun c => c.st != .armed && c.st != .triggered) || (i == 45 && s.twn.role == .solo)
  if s.bst.running ∨ s.plt.rot.isSome ∨ s.flt.release.isSome then s.bstRefuse 3 mid
  else if s.sliceAbsent i then ((s.bstBegin 0 i mid).modBst fun b => { b with res := mapSet b.res i 1 }).bstEnd 1
  else if !testable then s.bstRefuse 5 mid
  else if i < 32 then
    let s1 := s.rotRequest i 2 none
    if s1.plt.rot.isSome then s1.bstBegin 0 i mid else s1.bstRefuse 3 mid
  else s.bstBegin 0 i mid

/-- A whole-device test is requested (R496). -/
def State.bstWhole (s : State) (mid : Option Nat) : State :=
  if s.twn.role ≠ .standby ∨ s.bst.running ∨ s.plt.rot.isSome ∨ s.flt.release.isSome then s.bstRefuse 3 mid
  else ((s.bstBegin 1 0 mid).count (Reg.BST_CNT_LO 2)).alnNote

/-- The steps 2 and 3 of a shutdown run (R497), once no hand-over is under way: the saves, and the stop. -/
def State.shutdownGo (s : State) : State :=
  if s.bst.running ∧ s.bst.mode = 2 ∧ !s.bst.stopped ∧ s.twn.role ≠ .handing ∧ s.twn.formerActive.isNone then
    (s.mtrShutdownSave.twnSaveNow.stopNow.modBst fun b => { b with stopped := true, startAt := s.dt }).pinsDrive
  else s

/-- A shutdown run is requested (R497): accepted in every role and state. -/
def State.bstShutdown (s : State) (mid : Option Nat) : State :=
  let s0 := if s.bst.running then s.bstEnd 4 else s
  let s1 := s0.bstBegin 2 0 mid
  (if s1.twn.role = .active then s1.hoRequest true none else s1).shutdownGo

/-- The BST_RUN manifest (R503). -/
def manBstRun (n : Nat) (s : State) : State :=
  s.runManifest n 0x00C0 fun mid b s =>
    match bitsOf (byteAt b 20) 0 2 with
    | 0 => s.bstSlice (bitsOf (byteAt b 21) 0 6) (some mid)
    | 1 => s.bstWhole (some mid)
    | _ => s.bstShutdown (some mid)

/-- BST_CTRL with MODE SLICE and GO (R495). -/
def bstCtrlSliceRow (slice : Nat) (s : State) : State := s.bstSlice (slice % 64) none
/-- BST_CTRL with MODE WHOLE and GO (R496). -/
def bstCtrlWholeRow (s : State) : State := s.bstWhole none
/-- BST_CTRL with MODE SHUTDOWN and GO (R497). -/
def bstCtrlShutdownRow (s : State) : State := s.bstShutdown none
/-- BST_CTRL.ABORT (R505): a whole-device test ends after its current slice. -/
def bstCtrlAbortRow (s : State) : State := if s.bst.running ∧ s.bst.mode = 1 then s.modBst fun b => { b with abort := true } else s

/-- A write of BST_CTRL (R505); MODE 3 starts nothing. -/
def bstCtrlWrite (v : Word) (s : State) : State :=
  let s1 := if v.getLsbD 30 then bstCtrlAbortRow s else s
  if v.getLsbD 31 then
    match bitsOf v.toNat 0 2 with
    | 0 => s1.bstSlice (bitsOf v.toNat 8 6) none
    | 1 => s1.bstWhole none
    | 2 => s1.bstShutdown none
    | _ => s1
  else s1

/-! ### Re-initialisation (R492, R494, R496) -/

/-- The registers of a block at their reset values. -/
def State.resetBlock (s : State) (b : Block) : State := { s with regs := s.regs.filter fun p => blockOf p.1 != b }

/-- A subsystem at its reset state (R492). -/
def State.unitReset (s : State) (n : Nat) : State :=
  match n with
  | 9 => ({ s with outp := {} }).resetBlock .outp
  | 10 => (({ s with fe := {} }).resetBlock .fe)
  | 12 => ({ s with mtr := {}, pins := { s.pins with pulseDriven := false } }).resetBlock .mtr
  | 13 => ({ s with cap := {} }).resetBlock .cap
  | 19 => s.keyRestore
  | 21 => ({ s with bst := { ({} : Bst) with last := s.bst.last } }).resetBlock .bst
  | 22 => ({ s with twn := { activeSince := s.dt, roleAt := s.dt } }).resetBlock .twn
  | _ => s

/-- A released subsystem comes back (R486, R492): re-initialised, with its section to be taken at the next reporting instant; metering's
freeze ends with the front end's fence. -/
def State.releaseUnit (s : State) (n : Nat) : State :=
  let s1 := (s.unitReset n).modFlt fun f => { f with fencedUnits := f.fencedUnits.filter (· != n), reinit := f.reinit ++ [n] }
  (if n = 10 ∧ !s1.pins.pfw ∧ !s1.isStopped then s1.mtrThaw else s1).pinsDrive

/-- After a whole-device test (R496): every unit of the analysis is re-initialised, the key store reloads its sealed slots, ACTIVE is
applied again and a resynchronisation requested. The units that carry the test's own manifest, the link and the time go on. -/
def State.wholeEnd (s : State) (result : Nat) : State :=
  let s1 := { s with
    aln := { ({} : Aln) with ringSet := s.aln.ringSet, nextSeq := s.aln.nextSeq }, osc := {}, isl := {}, outp := {}, cap := {},
    leases := s.leases.map fun (l : Lease) => if l.owner.isSome then { l with owner := none, gen := l.gen + 1 } else l,
    plt := { s.plt with tasks := [], wants := [], held := [], waitingSet := [] },
    alm := { s.alm with input := [], slots := [] } }
  let s2 := (s1.keyRestore.modPlt fun p => { p with eng := p.eng.map fun (g : Eng) => { g with running := none, preempted := [] } }).modFlt fun f =>
    { f with reinit := f.reinit ++ [10, 12, 13] }
  let s3 := (s2.bstEnd result).alnNote.pinsDrive
  if s3.twn.takePending then s3.promote else s3.resyncRequest

/-! ### Slices that end (R492, R494 to R497) -/

/-- A release ends (R492). -/
def State.releaseEnd (s : State) (result : Nat) (mid : Option Nat) : State :=
  let s1 := (s.modFlt fun f => { f with release := none, relRes := result, relDone := true }).event Reg.FLT_EVT 7
  (if result = 1 then s1.count (Reg.FLT_CNT_LO 5) else s1).finishOpt mid (if result = 1 then stDone else if result = 4 then stBusy
    else if result = 3 then stTestFail else stRefused) result []

/-- A release is requested (R492). -/
def State.releaseReq (s : State) (owner : Nat) (mid : Option Nat) : State :=
  if !s.ownerFenced owner then s.releaseEnd 2 mid
  else if s.flt.release.isSome ∨ s.bst.running ∨ s.plt.rot.isSome ∨ (s.flt.reports.any fun x => x.src == owner && x.at_ == s.dt) = true then
    match s.flt.release with
    | some _ => s.finishOpt mid stBusy 4 []
    | none => s.releaseEnd 4 mid
  else s.modFlt fun f => { f with release := some ⟨owner, mid⟩, relDone := false }

/-- A write of FLT_RELEASE (R504). -/
def fltReleaseGoRow (v : Word) (s : State) : State := if v.getLsbD 31 then s.releaseReq (bitsOf v.toNat 0 6) none else s

/-- The FLT_RELEASE manifest (R492, R503). -/
def manFltRelease (n : Nat) (s : State) : State :=
  s.runManifest n 0x00C1 fun mid b s => s.releaseReq (bitsOf (byteAt b 20) 0 6) (some mid)

/-- ASSUMPTION clears when no class has more than one engine FENCED (R488). -/
def State.assumptionCheck (s : State) : State :=
  if (List.range 6).all fun c => s.fencedOf c ≤ 1 then s.modFlt fun f => { f with assumption := false } else s

/-- The slice of a release has been run (R492). -/
def State.releaseSlice (s : State) (r : Release) (pass : Bool) : State :=
  let s1 := s.sliceRun (ownerSlice r.owner) pass
  if !pass then s1.releaseEnd 3 r.mid
  else
    let s2 := if r.owner < 32 then (s1.modEng r.owner fun g => { g with rstate := .rejoining, halted := false }).assumptionCheck
      else s1.releaseUnit (r.owner - 31)
    s2.releaseEnd 1 r.mid

/-- The next slice from i that is present; absent ones are skipped and reported PASS (R493). -/
def State.nextSlice : Nat → State → Nat → State × Option Nat
  | 0, s, _ => (s, none)
  | fuel + 1, s, i =>
    if 48 ≤ i then (s, none)
    else if s.sliceAbsent i then State.nextSlice fuel (s.modBst fun b => { b with res := mapSet b.res i 1 }) (i + 1)
    else (s, some i)

/-- BST_LAST as a shutdown run retains it (R497, R505). -/
def State.bstLastWord (s : State) : Word :=
  let b := s.bst
  BitVec.ofNat 32 (1 + 2 * b2n (b.failed == 0) + 4 * b.firstFail + 2 ^ 8 * b.failed + 2 ^ 16 * min ((s.dt - b.startAt) / subPerMs) 65535)

/-- A slice test completes (R494). -/
def bistSliceDoneRow (pass : Bool) (s : State) : State :=
  match s.flt.release with
  | some r => s.releaseSlice r pass
  | none =>
    if !s.bst.running then s
    else
      let i := s.bst.slice
      match s.bst.mode with
      | 0 =>
        if i < 32 then s
        else
          let s1 := s.sliceRun i pass
          (if pass then s1.unitReset (sliceOwner i - 31) else s1).bstEnd (if pass then 1 else 2)
      | 1 =>
        let s1 := s.sliceRun i pass
        if s1.bst.abort ∨ s1.twn.takePending then s1.wholeEnd 4
        else match State.nextSlice 48 s1 (i + 1) with
          | (s2, some j) => s2.modBst fun b => { b with slice := j }
          | (s2, none) => s2.wholeEnd (if s2.bst.failed = 0 then 1 else 2)
      | _ =>
        let s0 := s.shutdownGo
        if !s0.bst.stopped then s0
        else
          let s1 := s0.sliceRun i pass
          match State.nextSlice 48 s1 (i + 1) with
          | (s2, some j) => s2.modBst fun b => { b with slice := j }
          | (s2, none) => ({ s2 with bkp := { s2.bkp with bstLast := some s2.bstLastWord } }).bstEnd (if s2.bst.failed = 0 then 1 else 2)

/-- The self-test of the engine under rotation completes (R401, R403, R494). -/
def engineTestDoneRow (ok : Bool) (s : State) : State :=
  let s := s.rotBegin
  match s.plt.rot with
  | none => s
  | some r =>
    if (s.engine r.engine).rstate ≠ .testing then s
    else
      let s1 := if ok then (s.sliceRun r.engine true).modEng r.engine fun g => { g with rstate := .rejoining } else s.sliceRun r.engine false
      let s2 := s1.standbyTested r.engine ok
      if s2.bst.running ∧ s2.bst.mode = 0 ∧ s2.bst.slice = r.engine then s2.bstEnd (if ok then 1 else 2)
      else s2.logRaise 13 (unitCode 21) 0 [r.engine, if ok then 1 else 2]

/-- Re-initialisation of engine e completes (R401). -/
def engineRejoinDoneRow (e : Nat) (s : State) : State := (s.rejoinDone e).assumptionCheck

/-! ### Registers (R504, R505) -/

/-- FLT_STATUS. -/
def State.fltStatus (s : State) : Nat :=
  let f := s.flt
  let n := ((List.range 32).filter fun e => (s.engine e).rstate == .fenced).length + f.fencedUnits.length
  b2n f.fer.isSome + 2 * b2n f.overflowed + 4 * b2n f.handling + 8 * b2n f.degraded + 16 * b2n f.safeStopped + 32 * b2n (f.assumption || f.dramFailed) +
    64 * b2n (f.srcs.any fun x => x.2.broken) + 2 ^ 8 * n

/-- FLT_FER_SRC. -/
def State.ferSrc (s : State) : Nat :=
  match s.flt.fer with
  | some r => r.src + 2 ^ 8 * r.cause + 2 ^ 12 * r.access + 2 ^ 16 * (r.master % 64)
  | none => 0

/-- FLT_SRC_STATE; the FAULT code of a source is a pulse, which no read finds. -/
def State.srcState (s : State) : Nat :=
  let x := s.fltSrc (s.fld Reg.FLT_SRC_SEL 0 7)
  x.level + 2 ^ 9 * b2n x.broken + 2 ^ 10 * x.lastReaction + 2 ^ 16 * x.events

/-- What a read of FLT_WIN_DATA returns. -/
def State.fltWinWord (s : State) : Word :=
  let o := s.fld Reg.FLT_WIN_ADDR 0 10 / 4 * 4
  if o < 768 then cfgWord s.cfg.active 0x0F 0 o else 0

/-- The offset of FLT_WIN after a read of its data. -/
def State.fltWinStep (s : State) : State := s.setFld Reg.FLT_WIN_ADDR 0 10 (s.fld Reg.FLT_WIN_ADDR 0 10 + 4)

/-- BST_STATUS. -/
def State.bstStatusWord (s : State) : Nat :=
  b2n s.bst.running + 2 * b2n (s.bst.running && s.bst.mode == 1) + 2 ^ 8 * s.bst.slice + 2 ^ 16 * s.bst.result

/-- BST_RES_w. -/
def State.bstRes (s : State) (w : Nat) : Nat := ((List.range 16).map fun i => (mapFind s.bst.res (16 * w + i)).getD 0 * 4 ^ i).sum

end Sys2Proof.Machine
end

