-- ==== Sys2Proof/Machine/Crypto.lean ====
section
/-! DEFINITION. Crypto operations that complete (R516 to R519): signatures of settlement records and checkpoints, and the
verifications of the tokens. -/

namespace Sys2Proof.Machine

/-- The operation that holds a crypto context. -/
def State.cryptoOp (s : State) (ctx : Nat) : Option CryptoOp := s.key.ops.find? fun o => o.ctx == ctx

/-- A crypto context returns to its pool (R41, R516). -/
def State.cryptoFree (s : State) (ctx : Nat) : State :=
  ({ s with key := { s.key with ops := s.key.ops.filter fun o => o.ctx != ctx } }).leaseReturn 3 ctx

/-- Whether the signature of a verification is good: over the SHA-256 digest of its message (R514, R519, R385, R414). -/
def CryptoOp.verified (o : CryptoOp) : Bool := ecdsaVerify o.key (sha256 o.msg) o.sig

/-- A verification ends and is counted (R517, R521). -/
def State.verifyCount (s : State) (ok : Bool) : State :=
  if ok then s.count (Reg.KEY_CNT_LO 1) else ((s.count (Reg.KEY_CNT_LO 1)).count (Reg.KEY_CNT_LO 2)).event Reg.KEY_EVT 3

/-- A settlement record's signature is done (R354): over the SHA-256 digest of its bytes 0 to 255. -/
def State.signRecordDone (s : State) (o : CryptoOp) (m : Nat) (body : List Byte) : State :=
  (s.count (Reg.KEY_CNT_LO 0)).mtrRecordWrite m body (some (ecdsaSign o.key (sha256 o.msg)))

/-- A checkpoint's signature is done (R382): over the CHAIN of the record before it, which is a digest (DEDUCED). -/
def State.signCheckpointDone (s : State) (o : CryptoOp) : State :=
  (s.count (Reg.KEY_CNT_LO 0)).logChkptWrite (some (ecdsaSign o.key o.msg))

/-- The verification of a clearing token is done (R385). -/
def State.verifyClearDone (s : State) (o : CryptoOp) (mid last : Nat) : State :=
  let s1 := s.verifyCount o.verified
  if o.verified then s1.logClearNow mid last else s1.logClearRefuse mid 1 stAuthFail

/-- The verification of a metering reset token is done (R519, R343): the reset waits for the next cycle mark. -/
def State.verifyResetDone (s : State) (o : CryptoOp) (mid point : Nat) : State :=
  let s1 := s.verifyCount o.verified
  if o.verified then (s1.modPoint point fun p => { p with resetReq := true }).finish0 mid stDone else s1.finish0 mid stAuthFail

/-- The verification of a KEY_REPLACE is done (R514): the slot change starts. -/
def State.verifyReplaceDone (s : State) (o : CryptoOp) (mid slot : Nat) (new : KeySlot) : State :=
  let s1 := s.verifyCount o.verified
  if o.verified then s1.keyChange mid slot new false else s1.finish0 mid stAuthFail

/-- The verification of a debug unlock is done (R414); one whose attempt the port no longer runs leaves the level. -/
def State.verifyUnlockDone (s : State) (o : CryptoOp) (level : Nat) : State :=
  let s1 := s.verifyCount o.verified
  if s1.dbg.unlockReq = some level then s1.unlockEnd level (if o.verified then 0 else 2) else s1

/-- The operation in a crypto context completes (R516). A signature that waits for METER_SIGN to be derived does not (R510). -/
def cryptoOpDoneRow (ctx : Nat) (s : State) : State :=
  match s.cryptoOp ctx with
  | none => s
  | some o =>
    if o.key.isEmpty ∧ o.slot = 56 then s
    else
      let s1 := s.cryptoFree ctx
      match o.use with
      | .signRecord m body => s1.signRecordDone o m body
      | .signCheckpoint _ => s1.signCheckpointDone o
      | .verifyLogClear mid last => s1.verifyClearDone o mid last
      | .verifyMtrReset mid point => s1.verifyResetDone o mid point
      | .verifyReplace mid slot new => s1.verifyReplaceDone o mid slot new
      | .verifyUnlock level => s1.verifyUnlockDone o level

end Sys2Proof.Machine
end

