-- ==== Sys2Proof/Machine/Lpe.lean ====
section
/-! DEFINITION. The local phasor estimator (R321 to R328): the local map, the window of an instant, the values, the STAT word and
the hand-off of a local berth block. -/

namespace Sys2Proof.Machine

/-- The set whose local map serves an instant (R316): a change holds from the first instant at or after its mark. -/
def Fe.mapFor (f : Fe) (t : Nat) : CfgSet :=
  match f.mapFrom with
  | some m => if m ≤ t then f.set else f.mapSet
  | none => f.set

/-- Byte i of local map entry j (R321). -/
def lpeByte (set : CfgSet) (j i : Nat) : Nat := cfgByte set 0x0A 0 (64 * j + i)
/-- Whether entry j is enabled. -/
def lpeOn (set : CfgSet) (j : Nat) : Bool := bitOf (lpeByte set j 0) 0
/-- Whether entry j is of class M. -/
def lpeM (set : CfgSet) (j : Nat) : Bool := bitOf (lpeByte set j 0) 1
/-- A channel and its TYPE in one byte of an entry. -/
def lpeRef (set : CfgSet) (j i : Nat) : Nat × Nat := (bitsOf (lpeByte set j i) 0 5, bitsOf (lpeByte set j i) 5 3)
/-- NPH, NAN and NDG. -/
def lpeNph (set : CfgSet) (j : Nat) : Nat := min 32 (bitsOf (lpeByte set j 2) 0 6)
def lpeNan (set : CfgSet) (j : Nat) : Nat := min 8 (bitsOf (lpeByte set j 3) 0 4)
def lpeNdg (set : CfgSet) (j : Nat) : Nat := bitsOf (lpeByte set j 3) 4 1

/-- The channels a reference reads: one for a fundamental, three for a sequence component. -/
def refChans (r : Nat × Nat) : List Nat := if 2 ≤ r.2 then [r.1, r.1 + 1, r.1 + 2] else [r.1]

/-- The channels an entry uses (R323, R324). -/
def lpeChans (set : CfgSet) (j : Nat) : List Nat :=
  refChans (lpeRef set j 1) ++ ((List.range (lpeNph set j)).flatMap fun n => refChans (lpeRef set j (8 + n))) ++
    ((List.range (lpeNan set j)).map fun a => (lpeRef set j (40 + a)).1)

/-- The window's length in measured cycles (R322). -/
def lpeCycles (scs m : Bool) (fnom rate : Nat) : Nat := if scs then 1 else if m then 4 * fnom / max rate 1 else 2

/-- The index of the set whose midpoint with the next is nearest to an instant, among sets in order of time (R322); the earlier
of two at one distance. -/
def nearestMid (sets : List FeSet) (t : Nat) : Nat :=
  let mids := (sets.zip (sets.drop 1)).map fun p => p.1.label + p.2.label
  let dist (m : Nat) : Nat := if m ≤ 2 * t then 2 * t - m else m - 2 * t
  (mids.foldl (fun (b : Nat × Nat × Nat) m => if b.1 = 0 ∨ dist m < b.2.2 then (b.1 + 1, b.1, dist m) else (b.1 + 1, b.2.1, b.2.2)) (0, 0, 0)).2.1

/-- The number of sets of the window of an instant (R322), by the mode of the set before its nearest midpoint. -/
def lpeSets (sets : List FeSet) (t : Nat) (m : Bool) (fnom rate : Nat) : Nat :=
  let scs := (sets[nearestMid sets t]?).elim false FeSet.scs
  lpeCycles scs m fnom rate * feN scs

/-- What the buffers give for a window of n sets about an instant: its sets in order of time; not yet there; or never. -/
inductive LpeWin where
  | ready (sets : List FeSet)
  | later
  | never
deriving DecidableEq, Repr

/-- The window of an instant (R319, R322). -/
def lpeWindow (sets : List FeSet) (t n : Nat) : LpeWin :=
  match sets.getLast? with
  | none => .later
  | some l =>
    if l.label ≤ t then .later
    else
      let i := nearestMid sets t
      if sets.length < i + 1 + n / 2 then .later
      else if i + 1 < n / 2 then .never
      else .ready ((sets.drop (i + 1 - n / 2)).take n)

/-- The weight of set i of n (R322): rectangular in SCS mode, triangular about the window's midpoint otherwise (in units of half a
set). -/
def lpeWeight (scs : Bool) (n i : Nat) : Nat := if scs then 1 else if i < n / 2 then 2 * i + 1 else 2 * (n - 1 - i) + 1

/-- The samples of a channel in a window, with labels, frequencies and weights (R323). -/
def lpeData (scs : Bool) (sets : List FeSet) (c : Nat) : List (Nat × Rat × BitVec 32 × Nat) :=
  sets.mapIdx fun i x => (x.label, x.fm, nth 0 x.vals c, lpeWeight scs sets.length i)

/-- The time from an instant to another in seconds. -/
def secsFrom (t u : Nat) : Rat := (((u : Int) - (t : Int) : Int) : Rat) / (subPerSec : Rat)

/-- The phasor of a channel's samples (R323): X_raw turned to the cosine of nominal frequency that has its maximum at every whole second. -/
def lpeFund (data : List (Nat × Rat × BitVec 32 × Nat)) (t fnom : Nat) : Rat × Rat :=
  let raw := sumPairs (data.map fun d => turned ((d.2.2.2 : Rat) * f32Rat d.2.2.1) (2 * piRat * d.2.1 * secsFrom t d.1))
  let k := sqrtRat 2 / sumRat (data.map fun d => (d.2.2.2 : Rat))
  turnRat (k * raw.1) (k * raw.2) (-(2 * piRat * (fnom : Rat) * secsFrom (secOf t * subPerSec) t))

/-- The sequence component of three phasors (R323), with a = e^(j·2π/3): kind 2 positive, 3 negative, 4 zero. -/
def lpeSeq (kind : Nat) (l : List (Rat × Rat)) : Rat × Rat :=
  let step : Nat := if kind = 2 then 1 else if kind = 3 then 2 else 0
  let x := sumPairs (l.mapIdx fun i p => turnRat p.1 p.2 (2 * piRat * ((step * i % 3 : Nat) : Rat) / 3))
  (x.1 / 3, x.2 / 3)

/-- The phasor of a reference (R323): a channel's fundamental, or the sequence component of three channels. -/
def lpePhasor (scs : Bool) (sets : List FeSet) (t fnom : Nat) (r : Nat × Nat) : Word × Word :=
  let words := (refChans r).flatMap fun c => sets.map fun x => nth 0 x.vals c
  let x (c : Nat) : Rat × Rat := lpeFund (lpeData scs sets c) t fnom
  if words.any f32Special then (Config.specialF32 words, Config.specialF32 (0 :: words))
  else pairF32 (if 2 ≤ r.2 then lpeSeq r.2 ((refChans r).map x) else x r.1)

/-- The slope of the least-squares line through points; 0 with no two of them apart. -/
def lsSlope (l : List (Rat × Rat)) : Rat :=
  let n : Rat := (l.length : Rat)
  let mx := sumRat (l.map (·.1)) / n
  sumRat (l.map fun p => (p.1 - mx) * p.2) / sumRat (l.map fun p => (p.1 - mx) * (p.1 - mx))

/-- The second coefficient of the least-squares parabola through points; none with fewer than three. -/
def lsCurve (l : List (Rat × Rat)) : Option Rat :=
  if l.length < 3 then none
  else
    let n : Rat := (l.length : Rat)
    let mx := sumRat (l.map (·.1)) / n
    let s2 := sumRat (l.map fun p => (p.1 - mx) * (p.1 - mx))
    let s3 := sumRat (l.map fun p => (p.1 - mx) * (p.1 - mx) * (p.1 - mx))
    let q (x : Rat) : Rat := (x - mx) * (x - mx) - s3 / s2 * (x - mx) - s2 / n
    some (sumRat (l.map fun p => q p.1 * p.2) / sumRat (l.map fun p => q p.1 * q p.1))

/-- The sub-windows of a window (R323): its measured cycles, or four quarter-cycles of one cycle. -/
def lpeParts (scs : Bool) (sets : List FeSet) : List (List FeSet) :=
  let n := if scs then feN scs / 4 else feN scs
  (List.range (sets.length / n)).map fun i => (sets.drop (i * n)).take n

/-- f_m of the cycle that holds an instant: that of the last set at or before it. -/
def fmAt (sets : List FeSet) (t : Nat) : Rat := ((((sets.filter fun x => decide (x.label ≤ t)).getLast?).or sets.head?).map (·.fm)).getD 0

/-- The phasor of a reference over a sub-window, turned by one frequency (R323). -/
def lpePart (fm : Rat) (t : Nat) (r : Nat × Nat) (sets : List FeSet) : Rat × Rat :=
  let x (c : Nat) : Rat × Rat := sumPairs (sets.map fun y => turned (f32Rat (nth 0 y.vals c)) (2 * piRat * fm * secsFrom t y.label))
  if 2 ≤ r.2 then lpeSeq r.2 ((refChans r).map x) else x r.1

/-- The angles of the sub-window phasors of FSRC at their midpoints, from one to the next without a turn. -/
def lpeAngles (fm : Rat) (t : Nat) (r : Nat × Nat) (parts : List (List FeSet)) : List (Rat × Rat) :=
  (parts.foldl (fun (acc : List (Rat × Rat)) sets =>
    let p := lpePart fm t r sets
    let mid := (secsFrom t ((sets.head?.map (·.label)).getD t) + secsFrom t ((sets.getLast?.map (·.label)).getD t)) / 2
    let a := argRat p.1 p.2
    match acc with
    | x :: _ => (mid, unwrapTo x.2 a) :: acc
    | [] => [(mid, a)]) []).reverse

/-- FREQ and ROCOF (R323): f_m plus the rate of change of the angle of the FSRC phasor, and the change of FREQ, fitted by least squares to
the sub-window phasors. DESIGN CHOICE (log entry 134): the angle is fitted by a line for FREQ and by a parabola for ROCOF, against the f_m of
the cycle that holds the instant; of two sub-windows, which no parabola is fitted to, ROCOF is open. -/
def lpeRate (scs : Bool) (sets : List FeSet) (t fnom : Nat) (r : Nat × Nat) : Word × Word :=
  let open_ := Config.lpeFreq ((refChans r).flatMap fun c => lpeData scs sets c) t fnom
  if ((refChans r).flatMap fun c => sets.map fun x => nth 0 x.vals c).any f32Special then open_
  else
    let fm := fmAt sets t
    let l := lpeAngles fm t r (lpeParts scs sets)
    (toF32 (fm + lsSlope l / (2 * piRat)), match lsCurve l with | some c => toF32 (c / piRat) | none => open_.2)

/-- Whether the FSRC fundamental is below REF_MIN % of full scale (R323), full scale being GAIN. -/
def State.lpeWeak (s : State) (set : CfgSet) (c : Nat) (x : Word × Word) : Bool :=
  let full := f32Rat (s.reg (Reg.FE_ACT_GAIN c)) * (bitsOf (feCfg set) 24 8 : Nat) / 100
  !(f32Finite x.1 && f32Finite x.2) || decide (f32Mul x.1 x.1 + f32Mul x.2 x.2 < full * full)

/-- Whether a calibration swap of a channel falls inside a window: its sets lie on both sides of the mark (R315). -/
def swapInside (sets : List FeSet) (c : Nat) : Bool := (sets.drop 1).any fun x => x.swapped.getLsbD c

/-- The digital word of a local block (R323). -/
def lpeDigital (sets : List FeSet) (chans : List Nat) : Nat :=
  let last := sets.getLast?
  let ref := (last.map fun (x : FeSet) => x.refState).getD 0
  let scs := (last.map fun (x : FeSet) => x.scs).getD false
  let gen := (last.map fun (x : FeSet) => x.calGen.toNat).getD 0
  b2n (sets.any fun x => chans.any fun c => x.clip.getLsbD c) + 2 * b2n (sets.any fun x => chans.any fun c => x.stuck.getLsbD c) +
    4 * b2n (sets.any fun x => chans.any fun c => x.settling.getLsbD c) + 8 * b2n (sets.any fun x => x.freqRange) + 16 * ref +
    64 * b2n scs + 128 * b2n (chans.any fun c => swapInside sets c) + 256 * (gen % 256)

/-- STAT [5:4] (R324): the time since DT last left LOCKED; a free value while it never has been LOCKED. -/
def State.unlockCode (s : State) (t : Nat) : Nat :=
  if s.lockedAt t then 0
  else match s.tb.leftLocked with
    | some l =>
      let d := t - l
      if d < 10 * subPerSec then 0 else if d < 100 * subPerSec then 1 else if d < 1000 * subPerSec then 2 else 3
    | none => s.freshVal % 4

/-- The STAT word of a local block (R324). -/
def State.lpeStat (s : State) (j : Nat) (sets : List FeSet) (chans : List Nat) (t : Nat) : Nat :=
  let d := lpeDigital sets chans
  let bad := bitsOf d 0 4 != 0 || sets.any fun x => x.stepped
  let top := if s.bit Reg.FE_CTRL 2 then 2 else if bad then 1 else 0
  let changed := match mapFind s.fe.mapChangedAt j with
    | some m => decide (m ≤ t) && decide (t < m + 60 * subPerSec)
    | none => false
  top * 2 ^ 14 + b2n (!s.lockedAt t) * 2 ^ 13 + b2n changed * 2 ^ 10 + b2n (bitOf d 7) * 2 ^ 9 +
    bitsOf (s.tqAt t).toNat 4 3 * 2 ^ 6 + s.unlockCode t * 2 ^ 4

/-- The values of a local block (R323, R131), with whether one is missing. -/
def State.lpeEntry (s : State) (set : CfgSet) (j : Nat) (sets : List FeSet) (t fnom : Nat) : Entry × Bool :=
  let scs := (nth none (sets.map some) (sets.length / 2 - 1)).elim false FeSet.scs
  let e := (s.bankAt t).berth (8176 + j)
  let src := lpeRef set j 1
  let weak := s.lpeWeak set src.1 (lpePhasor scs sets t fnom src)
  let ph := (List.range (lpeNph set j)).map fun n =>
    let r := lpeRef set j (8 + n)
    if weak ∧ (refChans r).any fun c => (refChans src).contains c then (nanWord, nanWord) else lpePhasor scs sets t fnom r
  let fr := if weak then (nanWord, nanWord)
    else lpeRate scs sets t fnom src
  let an := (List.range (lpeNan set j)).map fun a =>
    let r := lpeRef set j (40 + a)
    if r.2 = 2 then toF32 ((nth {} s.fe.chan r.1).dcb * f32Rat (s.reg (Reg.FE_ACT_GAIN r.1))) else setRms sets r.1
  let dg := if lpeNdg set j = 1 then [BitVec.ofNat 16 (lpeDigital sets (lpeChans set j))] else []
  ({ status := 0, phasors := ph, freq := fr.1, rocof := fr.2, analogs := an, digitals := dg, laneBase := e.laneBase,
     anBase := e.anBase, dgBase := e.dgBase, phCurrent := e.phCurrent, fnom50 := e.fnom50, measured := t },
   weak || ph.any (fun p => f32Special p.1 || f32Special p.2) || f32Special fr.1 || f32Special fr.2 || an.any f32Special)

/-- Whether the directory that serves an instant gives the berth of entry j the shape its map has (R129, R329). -/
def State.lpeFits (s : State) (set : CfgSet) (j t : Nat) : Bool :=
  let e := (s.bankAt t).berth (8176 + j)
  e.valid && e.phnmr == lpeNph set j && e.annmr == lpeNan set j && e.dgnmr == lpeNdg set j

/-- An instant of an enabled entry that gets no block, or gets it late (R328). -/
def State.localMiss (s : State) : State := (s.event Reg.FE_EVT 8).count (Reg.FE_CNT_LO 7)

/-- The sets the estimator sees (R319): those of a filling bank only once COUNT has reached CUT, for every group the entry uses. -/
def State.lpeVisible (s : State) (chans : List Nat) : List FeSet :=
  let hidden := ([0, 1, 2].map fun g =>
    let n := (nth {} s.fe.group g).count
    if (chans.any fun c => c / 8 == g) ∧ n < s.fld (Reg.FE_PP_CTRL g) 0 10 then n else 0).foldl max 0
  (s.fe.hist.drop hidden).reverse

/-- The estimator for entry j and the instant k of a second, handing off at a time (R319 to R328). It reads what is buffered, which
frees the completed banks; an instant whose window is not yet there waits; one it cannot serve is a LOCAL_MISS. So is one for which an
apply has left the berth invalid or of another shape (R129; DESIGN CHOICE, log entry 97). -/
def lpeEstimateRow (j sec k handOff : Nat) (s : State) : State :=
  let rate := s.rateOf sec
  if !bitOf s.idCap 1 ∨ s.unitFenced 11 ∨ !s.bit Reg.FE_CTRL 0 ∨ 16 ≤ j then s
  else
    let s1 := (s.advance handOff).modFe fun f => { f with group := f.group.map fun g => { g with held := false } }
    let t := instantAt rate sec k
    let set := s1.fe.mapFor t
    if rate = 0 ∨ rate ≤ k ∨ !lpeOn set j ∨ t ≤ (mapFind s1.fe.lpeDone j).getD 0 then s1
    else
      let chans := lpeChans set j
      let fnom := if bitOf (feCfg set) 1 then 50 else 60
      let n := lpeSets (s1.lpeVisible chans) t (lpeM set j) fnom rate
      let done := s1.modFe fun f => { f with lpeDone := mapSet f.lpeDone j t }
      match lpeWindow (s1.lpeVisible chans) t n with
      | .later => s1
      | .never => done.localMiss
      | .ready w =>
        let lost := w.any fun x => [0, 1, 2].any fun g =>
          (chans.any fun c => c / 8 == g) && (nth {} s1.fe.group g).overwritten.contains x.bankSeq
        let moved := w.any fun x => decide (x.release ≤ s1.fe.lpeBlockedTill) && s1.fe.lpeBlockedTill != 0
        if lost ∨ moved ∨ !s1.alnReady ∨ !s1.lpeFits set j t then done.localMiss
        else
          let stat := s1.lpeStat j w chans t
          let mtq := bitsOf (s1.tqAt t).toNat 0 4
          let (e, nan) := s1.lpeEntry set j w t fnom
          let word := statusWord 7 (s1.qcOf stat mtq) nan (bitOf stat 10) false false false mtq (ageOf handOff t) stat
          let s2 := (done.freshNext.count (Reg.FE_CNT_LO 6)).handOff
            { berth := 8176 + j, entry := { e with status := word }, sec := sec, k := k, rate := rate, arrival := handOff, handedAt := s1.dt }
            nan (bitOf stat 10) false
          let last := ((w.getLast?).map fun (x : FeSet) => x.release).getD 0
          let cut1 := [0, 1, 2].all fun g => !(chans.any fun c => c / 8 == g) || s1.fld (Reg.FE_PP_CTRL g) 0 10 ≤ 1
          if cut1 ∧ last + 50 * subPerUs < handOff then s2.localMiss else s2

end Sys2Proof.Machine
end

