-- ==== Sys2Proof/Machine/Hif.lean ====
section
/-! DEFINITION. Commands of the host interface: ring pairs, doorbells, fetching, completing, deliveries, coalescing, the
resets of the HIF block (R421 to R432), and the two manifests that need no other unit. -/

namespace Sys2Proof.Machine

/-- A reset of the HIF block alone (R421, R452): started manifests run to their end, then ring pairs are DISABLED, manifests not started gone,
completions discarded, the block's registers and the MSI-X table at reset. `kind` is 0 for an FLR, 1 for a hot reset, 2 for a link-down.
PRESUMED: Bus Master Enable and D3hot clear and the items of R418 return to their reset values, but for the sticky error status, as PCI
Express Base 4.0 resets the function's configuration space (log entry 129). -/
def hifReset (kind : Nat) (s : State) : State :=
  let s := s.actAll
  let s1 := { s with
    regs := s.regs.filter fun p => blockOf p.1 != .hif,
    latch := s.latch.filter fun p => blockOf p.1 != .hif,
    hold := s.hold.filter fun p => blockOf p.1 != .hif,
    hif := { s.hif with
      ring := List.replicate 16 {}
      pcie := { s.hif.pcie with
        bme := false
        d3hot := false
        l1 := false
        maxPayload := 128
        maxRead := 512
        extTag := true
        ecrcGen := false
        ecrcChk := false
        msixMask := false
        speed := if kind = 2 then 0 else s.hif.pcie.speed
        width := if kind = 2 then 0 else s.hif.pcie.width } },
    msix := {} }
  if kind = 0 then s1.event Reg.HIF_EVT 2 else s1

/-- Bus Master Enable changes (R421): without it nothing is fetched, waiting deliveries are dropped, completions are held. -/
def bmeChange (on : Bool) (s : State) : State :=
  let s1 := { s with hif := { s.hif with pcie := { s.hif.pcie with bme := on } } }
  if on then s1
  else (List.range 16).foldl (fun (s : State) n =>
    let w := (s.ring n).waiting
    w.foldl (fun (s : State) d => s.dropDelivery n d) (s.modRing n fun r => { r with waiting := [] })) s1

/-- The PCI Express link trains up or enters or leaves L1 (R418, R448, R452): speed 1 to 4, width 1, 2 or 4; STRAP3 limits the
speed to 8 GT/s (R544). -/
def linkStateChange (speed width : Nat) (l1 : Bool) (s : State) : State :=
  let lim := if s.hw.straps.getLsbD 3 then 3 else 4
  { s with hif := { s.hif with pcie := { s.hif.pcie with speed := min speed lim, width := width, l1 := l1 } } }

/-- The configuration header of the endpoint (R419). -/
structure PciHeader where
  vendor : Nat
  device : Nat
  revision : Nat
  classCode : Nat
  subVendor : Nat
  subId : Nat
deriving DecidableEq, Repr

/-- The header as the host finds it (R419, R418): stepping, part and class are the part's, the subsystem identifiers those of the record in
effect. -/
def State.pciHeader (s : State) : PciHeader :=
  ⟨0x1FB5, s.hw.variant.part, s.hw.stepping % 2 ^ 8, 0x118000, s.hif.pcie.subVendor, s.hif.pcie.subId⟩

/-- Whether the registers of a ring pair pass the check of R424. -/
def State.ringCfgOk (s : State) (n : Nat) : Bool :=
  let sq := s.fld (Reg.HIF_RP_SIZE n) 0 4
  let cq := s.fld (Reg.HIF_RP_SIZE n) 8 4
  let dl := s.fld (Reg.HIF_RP_SIZE n) 16 4
  4 ≤ sq && sq ≤ 12 && 4 ≤ cq && cq ≤ 12 && sq ≤ cq && (dl == 0 || (8 ≤ dl && dl ≤ 14)) &&
    s.fld (Reg.HIF_RP_SQ_BASE_LO n) 0 12 == 0 && s.fld (Reg.HIF_RP_CQ_BASE_LO n) 0 12 == 0 &&
    s.fld (Reg.HIF_RP_DATA_BASE_LO n) 0 12 == 0

/-- A write of HIF_RP_CTRL (R424, R425, R453): COAL_N and COAL_US while DISABLED; EN 1 on a DISABLED pair checks and starts it,
EN 0 on a RUNNING pair moves it to STOPPING, EN 0 on a pair in ERROR lets it become DISABLED. -/
def ringCtrlWrite (n : Nat) (v : Word) (s : State) : State :=
  if 16 ≤ n then s
  else
    let en := v.getLsbD 0
    match (s.ring n).st with
    | .disabled =>
      let s1 := s.setReg (Reg.HIF_RP_CTRL n) (v &&& 0xFFFFFF00)
      if en then
        if s1.ringCfgOk n then
          (s1.setReg (Reg.HIF_RP_CTRL n) (v &&& 0xFFFFFF01)).modRing n fun r =>
            { ({} : Ring) with st := .running, phase := true, dropped := r.dropped }
        else s1.modRing n fun r => { r with err := 1 }
      else s1
    | .running =>
      if en then s
      else
        let s1 := (s.setFld (Reg.HIF_RP_CTRL n) 0 1 0).modRing n fun r => { r with st := .stopping }
        let w := (s.ring n).waiting
        let s2 := w.foldl (fun (s : State) d => s.dropDelivery n d) (s1.modRing n fun r => { r with waiting := [] })
        (((s2.ring n).fetched.filter fun f => !f.started).foldl
          (fun (s : State) f => s.finishRaw f.mid stAborted 0 []) s2).ringSettle n
    | .stopping => s
    | .error => if en then s else (s.setFld (Reg.HIF_RP_CTRL n) 0 1 0).ringSettle n

/-- A doorbell error (R425, R426, R452). -/
def State.dbError (s : State) : State := (s.count (Reg.HIF_CNT_LO 6)).event Reg.HIF_EVT 0

/-- A write of an SQ_TAIL doorbell (R426). -/
def sqTailDoorbell (n : Nat) (v : Word) (s : State) : State :=
  if 16 ≤ n then s
  else if (s.ring n).st ≠ .running then s.dbError
  else
    let i := bitsOf v.toNat 0 12
    if s.sqSize n ≤ i then (s.ringError n 2).dbError else s.modRing n fun r => { r with sqTail := i }

/-- A write of a CQ_HEAD doorbell (R426, R428): the entries up to the new head are released; waiting deliveries take the slots
first. A head equal to CQ_TAIL releases every entry. -/
def cqHeadDoorbell (n : Nat) (v : Word) (s : State) : State :=
  if 16 ≤ n then s
  else if (s.ring n).st ≠ .running then s.dbError
  else
    let i := bitsOf v.toNat 0 12
    let r := s.ring n
    let rel := if i = r.cqTail then r.unreleased else (i + s.cqSize n - r.cqHead) % s.cqSize n
    if s.cqSize n ≤ i ∨ r.unreleased < rel then (s.ringError n 2).dbError
    else
      let s1 := s.modRing n fun r => { r with cqHead := i, unreleased := r.unreleased - rel }
      State.placeWaiting r.waiting.length s1 n

/-- Whether ring pair n has a manifest to fetch (R427, R428): the pair runs, Bus Master Enable is 1, the ring holds one, a CQ slot is free
and no delivery waits for it. -/
def State.fetchable (s : State) (n : Nat) : Bool :=
  let r := s.ring n
  r.st == .running && s.hif.pcie.bme && r.sqHead != r.sqTail && s.cqFree n && r.waiting.isEmpty

/-- The ring pair whose turn it is to be fetched from (R427): the next that has a manifest to fetch after the one fetched from last. -/
def State.fetchTurn (s : State) : Option Nat := ((List.range 16).map fun i => (s.hif.lastFetch + 1 + i) % 16).find? s.fetchable

/-- The host returns the read data of the next manifest of ring pair n (R427, R428): it is taken when it is the turn of that pair. -/
def manifestFetch (n : Nat) (bytes : List Byte) (s : State) : State :=
  if s.fetchTurn = some n then
    let s1 := s.modRing n fun r =>
      { r with sqHead := (r.sqHead + 1) % s.sqSize n, fetched := r.fetched ++ [⟨s.hif.nextMid, padTo 64 bytes, false, [], none⟩] }
    let s2 := { s1 with hif := { s1.hif with nextMid := s.hif.nextMid + 1, lastFetch := n } }
    ((s2.count (Reg.HIF_CNT_LO 0)).count (Reg.HIF_RP_CNT_LO n 0)).autoAll
  else s

/-- The oldest queued completion of ring pair n is written (R429), when the pair writes entries and Bus Master Enable is 1; with none
queued, the oldest action under way completes first. -/
def manifestComplete (n : Nat) (s : State) : State :=
  let s := if (s.ring n).done = [] then s.actNext n else s
  let r := s.ring n
  if n < 16 ∧ (r.st = .running ∨ r.st = .stopping) ∧ s.hif.pcie.bme then
    match r.done with
    | [] => s
    | c :: cs =>
      let s1 := (s.modRing n fun r => { r with done := cs }).writeEntry n 0 c.status c.opcode c.tag 0 c.at_ c.detail0 c.detail []
      let s2 := (s1.count (Reg.HIF_CNT_LO 1)).ringSettle n
      if c.irq then s2.coalSignal n else s2
  else s

/-- A PCI Express error on a ring access of pair n (R425), reported through AER (R418); which of its errors it is, no rule tells: the
bits that it adds to the status are a free value. -/
def hostDmaError (n : Nat) (s : State) : State :=
  if n < 16 ∧ ((s.ring n).st = .running ∨ (s.ring n).st = .stopping) then
    let s1 := ((s.ringError n 3).count (Reg.HIF_CNT_LO 7)).event Reg.HIF_EVT 1
    { s1.freshNext with hif := { s1.hif with pcie := { s1.hif.pcie with aerStatus := s1.hif.pcie.aerStatus ||| BitVec.ofNat 32 s1.freshVal } } }
  else s

/-- A unit's delivery reaches its ring pair (R428, R421): written, made to wait, or dropped. -/
def deliveryTake (s : State) : State :=
  match s.hif.deliv with
  | [] => s
  | d :: ds =>
    let s1 := { s with hif := { s.hif with deliv := ds } }
    let n := d.ring
    let r := s1.ring n
    if r.st ≠ .running ∨ !s1.hif.pcie.bme then s1.dropDelivery n d
    else if s1.dataSize n < d.data.length then (s1.count (Reg.HIF_CNT_LO 4)).dropDelivery n d
    else if s1.cqFree n ∧ r.waiting = [] then s1.writeDelivery n d
    else if s1.fld (Reg.HIF_RP_TIMEOUT n) 0 20 = 0 then s1.dropDelivery n d
    else s1.modRing n fun r => { r with waiting := r.waiting ++ [{ d with since := s1.dt }] }

/-- HIF_RP_TIMEOUT expires for the oldest waiting delivery of pair n (R428), that long after it began to wait. -/
def deliveryTimeout (n : Nat) (s : State) : State :=
  match (s.ring n).waiting with
  | [] => s
  | d :: ds =>
    ((s.advance (d.since + s.fld (Reg.HIF_RP_TIMEOUT n) 0 20 * subPerUs)).modRing n fun r => { r with waiting := ds }).dropDelivery n d

/-- COAL_US has passed since the first signalling entry of pair n (R430). -/
def coalesceTimer (n : Nat) (s : State) : State :=
  let r := s.ring n
  if 0 < r.coalCount then (s.advance (r.coalFrom + s.fld (Reg.HIF_RP_CTRL n) 16 16 * subPerUs)).coalDue n else s

/-- The NOP manifest (R433, R562). -/
def manNop (n : Nat) (s : State) : State := s.runManifest n 0x0000 fun mid _ s => s.finish0 mid stDone

end Sys2Proof.Machine
end

