-- ==== Sys2Proof/Machine/Rtc.lean ====
section
/-! DEFINITION. The backup domain and the real-time clock (R522 to R531): supply switches, VBAT, the domain's power-on reset,
reading and setting the RTC, its roll-over, synchronisation and wake. A `frac` operand is the fraction the counter shows. -/

namespace Sys2Proof.Machine

/-- The backup domain changed. -/
def State.modBkp (s : State) (f : Bkp → Bkp) : State := { s with bkp := f s.bkp }

/-- The RTC's fraction as it stands now (R526): it only counts on within a second. -/
def Bkp.tick (b : Bkp) (frac : Nat) : Bkp := { b with rtc := { b.rtc with frac := max b.rtc.frac (frac % 32768) } }

/-- A measurement of VBAT in mV (R524): BACKUP_LOW below 2.20 V, with its flag and event at the onset. -/
def vbatMeasure (mv : Nat) (s : State) : State :=
  let low := mv < 2200
  let s1 := s.modBkp fun b => { b with vbat := min mv 4095, backupLow := low, lowSeen := b.lowSeen || low }
  if low ∧ !s.bkp.backupLow then s1.event Reg.RTC_EVT 2 else s1

/-- The supply comparator switches to VBAT (R523, R524): RTC_SWO_AT and SWITCHED are recorded, and VBAT is measured. -/
def bkpSwitchToVbat (frac mv : Nat) (s : State) : State :=
  if s.bkp.onVbat then s
  else
    let s1 := s.modBkp fun b => let b := b.tick frac; { b with onVbat := true, swoAt := b.rtc, switched := true }
    vbatMeasure mv (s1.event Reg.RTC_EVT 1)

/-- The comparator switches back to the 3.3 V supply (R523): RTC_RET_AT is recorded. -/
def bkpReturnToMain (frac : Nat) (s : State) : State :=
  if s.bkp.onVbat then
    (s.modBkp fun b => let b := b.tick frac; { b with onVbat := false, retAt := b.rtc }).event Reg.RTC_EVT 1
  else s

/-- The domain's power-on reset asserts (R525). -/
def bkpPorAssert (s : State) : State := s.modBkp fun b => { b with por := true }

/-- The domain is released from its power-on reset (R525, R539): flags set, counter, trim, wake and HALT cleared, backup SRAM
and retained area invalid, the registers marked "backup" at their stated values. -/
def bkpPorRelease (s : State) : State :=
  if s.bkp.por then
    s.modBkp fun b => { ({} : Bkp) with onVbat := b.onVbat, backupLow := b.backupLow, vbat := b.vbat }
  else s

/-- A read of a register of the RTC group (R529): 0 FRAC, 1 SEC_LO, 2 SEC_HI. The first read freezes the shadows; they are
released when each of the three has been read. -/
def rtcGroupRead (reg frac : Nat) (s : State) : State :=
  let s0 := s.modBkp fun b => b.tick frac
  let r0 := if s0.rtc.shadowFrozen then s0.rtc else { s0.rtc with shadow := s0.bkp.rtc, shadowFrozen := true, shadowRead := 0, frozenAt := s0.dt }
  let v := match reg with
    | 0 => r0.shadow.frac
    | 1 => r0.shadow.sec % 2 ^ 32
    | _ => r0.shadow.sec / 2 ^ 32
  let m := r0.shadowRead ||| BitVec.ofNat 3 (2 ^ min reg 2)
  let r1 := if m = 7 then { r0 with shadowFrozen := false, shadowRead := 0 } else { r0 with shadowRead := m }
  { s0 with rtc := r1, rdata := BitVec.ofNat 32 v }

/-- The shadows are released by time (R529). -/
def State.shadowRelease (s : State) : State :=
  ({ s with rtc := { s.rtc with shadowFrozen := false, shadowRead := 0 } }).event Reg.RTC_EVT 3

/-- 2 ms have passed since the freeze (R529). -/
def rtcShadowTimeout (s : State) : State :=
  if s.rtc.shadowFrozen then (s.advance (s.rtc.frozenAt + 2 * subPerMs)).shadowRelease
  else s

/-- A write of RTC_CTRL (R530, R539): SYNC_EN, and HALT, which freezes the seconds, or on release adds ROLL to them. -/
def rtcCtrlWrite (v : Word) (s : State) : State :=
  let s0 := s.modBkp fun b => { b with syncEn := v.getLsbD 1 }
  if v.getLsbD 0 then s0.modBkp fun b => { b with halted := true }
  else if s0.bkp.halted then
    let s1 := s0.modBkp fun b => { b with halted := false, rtc := { b.rtc with sec := (b.rtc.sec + s0.rtc.roll) % 2 ^ 48 } }
    { s1 with rtc := { s1.rtc with roll := 0, rollOvf := false } }
  else s0

/-- A write of RTC_SET_FRAC (R530): effective while halted, and clears ROLL. -/
def rtcSetFracWrite (v : Word) (s : State) : State :=
  if s.bkp.halted then
    let s1 := (s.setReg Reg.RTC_SET_FRAC (v &&& 0x7FFF)).modBkp fun b => { b with rtc := { b.rtc with frac := bitsOf v.toNat 0 15 } }
    { s1 with rtc := { s1.rtc with roll := 0 } }
  else s

/-- A write of RTC_SET_SEC_HI (R530, R16): while halted the seconds are loaded, with the half held from RTC_SET_SEC_LO; ROLL is
unchanged. Outside HALT the write is ignored. -/
def rtcSetSecWrite (v : Word) (s : State) : State :=
  let lo := (mapFind s.hold Reg.RTC_SET_SEC_LO).getD (s.reg Reg.RTC_SET_SEC_LO)
  let hi := bitsOf v.toNat 0 16
  let s0 := { s with hold := mapDel s.hold Reg.RTC_SET_SEC_LO }
  if s.bkp.halted then
    ((s0.setReg Reg.RTC_SET_SEC_LO lo).setReg Reg.RTC_SET_SEC_HI (BitVec.ofNat 32 hi)).modBkp fun b =>
      { b with rtc := { b.rtc with sec := lo.toNat + 2 ^ 32 * hi } }
  else s0

/-- The fraction rolls over (R526, R530): the seconds advance, wrapping at 2⁴⁸; while halted ROLL advances instead, saturating
at 255, beyond which ROLL_OVF is set. -/
def rtcSecondRollover (s : State) : State :=
  let s0 := s.modBkp fun b => { b with rtc := { b.rtc with frac := 0 } }
  if s0.bkp.halted then
    if s0.rtc.roll < 255 then { s0 with rtc := { s0.rtc with roll := s0.rtc.roll + 1 } }
    else ({ s0 with rtc := { s0.rtc with rollOvf := true } }).event Reg.RTC_EVT 4
  else s0.modBkp fun b => { b with rtc := { b.rtc with sec := (b.rtc.sec + 1) % 2 ^ 48 } }

/-- The fraction of the next multiple of PERIOD that the RTC reaches within its present second (R531); none when there is none. -/
def Bkp.wakeFrac (b : Bkp) : Option Nat :=
  let p := b.wakePeriod.toNat
  let m := ((b.rtc.sec * 32768 + b.rtc.frac + 127) / 128 + p - 1) / p * p
  if 0 < p ∧ m < (b.rtc.sec + 1) * 256 then some (m * 128 - b.rtc.sec * 32768) else none

/-- The RTC reaches a multiple of PERIOD (R531): the wake fires unless it is off or the RTC is halted; with PWR_WAKE_EN bit 0
it is a wake event. -/
def rtcWakeFire (s : State) : State :=
  if s.bkp.halted then s
  else match s.bkp.wakeFrac with
    | some f => ((s.modBkp fun b => b.tick f).event Reg.RTC_EVT 0).wakeIf 0
    | none => s

/-- The synchronisation at a whole TAI second of DT (R527). `locked` says that TB_STATUS.STATE is LOCKED, `src` is ACTIVE_SRC. -/
def State.rtcSync (s : State) (sec frac : Nat) (locked : Bool) (src : Nat) : State :=
  let s0 := s.modBkp fun b => b.tick frac
  if s0.bkp.syncEn ∧ !s0.bkp.halted ∧ locked then
    let v := s0.bkp.rtc.sec * 32768 + s0.bkp.rtc.frac
    let w := sec % 2 ^ 48 * 32768
    let s1 := if v ≤ w + 1 ∧ w ≤ v + 1 then s0
      else
        let s' := s0.modBkp fun b => { b with rtc := ⟨sec % 2 ^ 48, 0⟩ }
        { s' with rtc := { s'.rtc with synced := true } }
    if src ≤ 4 then s1.modBkp fun b => { b with timeLost := false } else s1
  else s0

/-- DT's seed at the end of PLL lock (R528): the RTC's seconds, and NS from its fraction, truncated. -/
def Bkp.seed (b : Bkp) : Nat := b.rtc.sec * subPerSec + b.rtc.frac * 1000000000 / 32768 * subPerNs

end Sys2Proof.Machine
end

