-- ==== Sys2Proof/Machine/Reset.lean ====
section
/-! DEFINITION. Core reset and the start sequence (R506, R508, R528, R534, R536, R537, R544): what is kept, the root, the derived
keys, the engines' images, the START record and the boot load; PERST_N and the software reset. -/

namespace Sys2Proof.Machine

/-- The state a core reset leaves before the start sequence (R537, R538): every core unit at reset, the backup domain, the flash
and the OTP as they were, DT seeded from the RTC (R528), the straps sampled (R544). -/
def State.coreClear (s : State) (cause : Nat) (env : BootEnv) : State :=
  let seed := s.bkp.seed
  let ids := s.flash.subsys.getD (0x1FB5, 0)
  { pending := s.pending, hw := { s.hw with straps := env.straps }, dt := seed,
    tb := { lastSec := secOf seed, lastInstant := seed, lastOnTime := seed },
    hif := { pcie := { subVendor := ids.1, subId := ids.2 } },
    cfg := { trained0 := env.ddr0, trained1 := env.ddr1 },
    flash := s.flash,
    bst := { last := s.bkp.bstLast.getD 0 },
    twn := { activeSince := seed, roleAt := seed },
    rtc := { cause := cause, porBefore := s.bkp.porSince },
    bkp := { s.bkp with porSince := false, vbat := 0 },
    pins := { pfw := s.pins.pfw }, out := s.out, fresh := s.fresh }

/-- The TRNG's health tests, and the root secret, drawn and programmed while the OTP field is blank (R506). -/
def State.bootRoot (s : State) (trngOk otpOk : Bool) : State :=
  if !trngOk then s.trngFails.report 63 0 (unitCode 19) 0 0
  else if s.hw.root ≠ .blank then s
  else if otpOk then
    { s.freshNext with hw := { s.hw with root := .present, rootSecret := leBytes 32 s.freshVal } }
  else { s with hw := { s.hw with root := .broken } }

/-- An engine boots its selected image (R411, R508): version and measurement of the image, or FENCED when it fails. -/
def State.bootEngine (s : State) (e : Nat) : State :=
  if !s.hasEng e then s
  else match (mapFind s.flash.fw (2 * engClass e + nth 0 s.flash.fwSel e)).filter (·.valid) with
    | some f => s.modEng e fun g => { g with fwVer := f.ver, fwMeas := f.meas }
    | none => s.modEng e fun g => { g with rstate := .fenced, halted := true }

/-- The engines that did not start hold no role (R402, R510). -/
def State.bootRoles (s : State) : State :=
  (List.range 32).foldl (fun (s : State) e =>
    if s.hasEng e && (s.engine e).rstate == .fenced then (s.passRoles e).noteEmpty e else s) s

/-- The derivations of the start (R510). -/
def State.bootKeys (s : State) : State :=
  let s1 := (s.keyRestore.deriveStart 57).deriveStart 58
  if s1.hasMtr ∧ (s1.engine s1.plt.mtrEng).rstate = .inService then s1.deriveStart 56 else s1

/-- Whether the CHAIN values of the tail's records are right (R384). -/
def tailChains : List LogRec → Bool
  | a :: b :: rest => sha256 (a.bytes.drop 224 ++ b.bytes.take 224) == b.bytes.drop 224 && tailChains (b :: rest)
  | _ => true

/-- Whether the tail is valid (R384). -/
def Bkp.tailValid (b : Bkp) : Bool := b.tailOk && !b.tail.isEmpty && tailChains b.tail

/-- The logbook at start (R384): LSEQ and CHAIN continue from the tail, or, when it is invalid, from the OTP-backed counters, of
which the manual does not say when they advance: what they hold is a free value, but for a device that has written no record since
manufacture, whose first record follows a CHAIN of 32 zero bytes (R382). -/
def State.bootLog (s : State) : State :=
  if s.bkp.tailValid then
    match s.bkp.tail.getLast? with
    | some r =>
      let chk := (s.bkp.tail.filter fun (x : LogRec) => x.cls == 1).getLast?
      s.modLog fun l => { l with
        nextSeq := r.lseq + 1
        startSeq := r.lseq + 1
        chain := r.bytes.drop 224
        prevChain := r.bytes.drop 224
        oldest := ((s.bkp.tail.head?).map (·.lseq)).getD 0
        lastChkpt := (chk.map (·.lseq)).getD 0
        chkptAt := s.dt }
    | none => s
  else
    let lseq := if s.hw.logBegun then s.freshVal % 2 ^ 63 else 0
    let chain := if s.hw.logBegun then leBytes 32 s.freshNext.freshVal else List.replicate 32 0
    let s1 := s.freshNext.freshNext
    ({ s1 with
      hw := { s1.hw with otpLseq := lseq, otpChain := chain }
      bkp := { s1.bkp with tail := [], tailOk := false } }).modLog fun l => { l with
        tailInvalid := true, nextSeq := lseq, startSeq := lseq, oldest := lseq, chain := chain, prevChain := chain, chkptAt := s.dt }

/-- The START record (R381, R384), the first record after reset. -/
def State.bootStart (s : State) (cause : Nat) : State :=
  let bstBad := match s.bkp.bstLast with | some w => !w.getLsbD 1 | none => false
  let bits := b2n s.bkp.backupLow + 2 * b2n s.bkp.timeLost + 4 * b2n s.logb.tailInvalid + 8 * b2n bstBad
  let last := if s.logb.tailInvalid then 0 else s.logb.nextSeq - 1
  s.logWrite ⟨0, unitCode 14, 0xFFFF, leBytes 1 cause ++ leBytes 1 bits ++ List.replicate 6 0 ++ leBytes 8 last, s.dt, false, none⟩ 0 []

/-- The boot load (R444, R445, R544): the image of the boot slot into SHADOW and its commit; or the factory defaults with the
cause. -/
def State.bootLoad (s : State) (flashOk : Bool) : State :=
  let fail (code : Nat) (s : State) : State := { s with cfg := { s.cfg with bootResult := code, defaults := true } }
  if s.hw.straps.getLsbD 1 then fail 1 s
  else match s.flash.bootSlot with
    | none => fail 1 s
    | some i =>
      let s1 := { s with cfg := { s.cfg with bootSlot := i } }
      if !flashOk then fail 4 s1.flashFail
      else match s1.cfgSlot i with
        | none => fail 1 s1
        | some f =>
          if !f.checkOk then fail 2 s1
          else
            let s2 := { s1 with cfg := { s1.cfg with shadow := f.set, imageId := f.imageId } }
            s2.acceptCommit { mid := none, modeAbs := false, n := 0, absSec := 0, absK := 0, withDir := s2.carriesDir }

/-- A core reset with its start sequence (R534, R536, R537): the core is held until the backup domain is out of its power-on reset
(R525). -/
def coreResetRow (cause : Nat) (env : BootEnv) (s : State) : State :=
  let s1 := ((bkpPorRelease s).coreClear cause env).bootRoot env.trngOk env.otpOk
  let s2 := ((List.range 32).foldl (fun (s : State) e => s.bootEngine e) s1).bootRoles
  (s2.bootKeys.bootLog.bootStart cause).bootLoad env.flashOk

/-- PERST_N goes low (R536): a core reset when PERST_SCOPE is 1; otherwise the PCI Express controller resets, which takes the link
down and reloads the subsystem identifiers (R419), and the HIF block as by an FLR. -/
def perstRow (env : BootEnv) (s : State) : State :=
  if s.bkp.perstScope then coreResetRow 5 env s
  else
    let s1 := hifReset 0 s
    let ids := s1.flash.subsys.getD (0x1FB5, 0)
    { s1 with hif := { s1.hif with pcie := { s1.hif.pcie with speed := 0, width := 0, subVendor := ids.1, subId := ids.2 } } }

/-- A write of RTC_RST_CTRL (R536, R539): the key starts a SOFTWARE reset. -/
def rtcRstWrite (v : Word) (env : BootEnv) (s : State) : State := if v = 0x5A5A0001 then coreResetRow 4 env s else s

/-- The domain's power-on reset ends (R525). When the core runs, the backup domain then reports TIME_LOST, and DT is FREE_RUN
(R83). -/
def bkpPorReleaseRow (s : State) : State :=
  if s.bkp.por then
    let s1 := (bkpPorRelease s).setDt .freeRun
    { s1 with tb := { s1.tb with active := 6 } }
  else s

end Sys2Proof.Machine
end

