-- ==== Sys2Proof/Machine/Validate.lean ====
section
/-! DEFINITION. The refusal rules of a commit (R441, R443), section by section: R143, R185, R220, R259, R296, R329, R359, R502. -/

namespace Sys2Proof.Machine

/-- Where a commit is refused (R443): section TYPE, TABLE, entry and reason (1 RANGE, 2 RESERVED, 3 REFERENCE, 4 LOAD, 5 SHAPE,
6 GLOBAL, 7 TIMING). In table 15 the entry is the register's offset (DEDUCED). -/
structure CfgFault where
  typ : Nat
  tab : Nat
  idx : Nat
  reason : Nat
deriving DecidableEq, Repr

/-- A reason where a condition holds. -/
def badIf (c : Bool) (r : Nat) : Option Nat := if c then some r else none

/-- The entries of a table that a set lists, in ascending order. -/
def usedEntries (set : CfgSet) (typ tab size : Nat) : List Nat :=
  ((set.filter fun p => p.1 / 2 ^ 24 == typ * 16 + tab).map fun p => p.1 % 2 ^ 24 / size).dedup

/-- Word k of entry i of a table. -/
def entW (set : CfgSet) (typ tab size i k : Nat) : Nat := (cfgWord set typ tab (size * i + 4 * k)).toNat

/-- Whether a word has a bit of its mask. -/
def rsvBits (w : Nat → Nat) (masks : List Nat) : Bool := (masks.mapIdx fun k m => (w k &&& m) != 0).any id

/-- The first fault of a table's entries. -/
def tableFault (typ tab : Nat) (idx : List Nat) (f : Nat → Option Nat) : Option CfgFault :=
  idx.findSome? fun i => (f i).map fun r => ⟨typ, tab, i, r⟩

/-- Whether a word is a finite number. -/
def finW (w : Nat) : Bool := f32Finite (BitVec.ofNat 32 w)

/-- Whether a number lies in a range. -/
def within (a v b : Nat) : Bool := decide (a ≤ v) && decide (v ≤ b)

/-- The quay rate of a set. -/
def setRate (set : CfgSet) : Nat := berthRate (cfgBits set 1 15 0 0 4)

/-! ### GLOBAL, DIRECTORY, ALIGNMENT -/

/-- Whether a section that needs the quay rate is enabled: a detector, a listener, a valid stream, a mode group, a node, an output
stream or a local map entry (DEDUCED from reason 6). -/
def rateNeeded (set : CfgSet) : Bool :=
  ((List.range 4).any fun d => (detCfg set d).en) ||
    ((List.range 16).any fun l => bitOf (cfgWord set 4 15 (0x104 + 8 * l)).toNat 31) ||
    !(bankOf set).validStreams.isEmpty ||
    ((usedEntries set 6 0 128).any fun g => bitOf (entW set 6 0 128 g 0) 0) ||
    ((usedEntries set 7 1 16).any fun n => bitOf (entW set 7 1 16 n 0) 0) ||
    ((List.range 8).any fun n => bitOf (strWord set n) 0) ||
    ((List.range 16).any fun j => lpeOn set j)

/-- The GLOBAL section (R438, R443). -/
def globalFault (set : CfgSet) : Option CfgFault :=
  let r := (cfgWord set 1 15 0).toNat
  ((badIf (r / 16 != 0 || within 12 r 14) 2).or (badIf (r == 15 && rateNeeded set) 6)).map fun x => ⟨1, 15, 0, x⟩

/-- The directory section of a commit that carries one (R143); the reasons of R443 for its ERR codes are DEDUCED. -/
def dirFault (set : CfgSet) (count : Nat) : Option CfgFault :=
  ((bankOf set).fault count).map fun x => ⟨4, x.2.2, x.2.1, if x.1 = 2 ∨ x.1 = 4 then 1 else if x.1 = 9 then 2 else 3⟩

/-- The alignment section (R185). -/
def alnFault (set : CfgSet) : Option CfgFault :=
  let w := (cfgWord set 5 15 0x10).toNat
  let q := setRate set
  let ms := bitsOf w 0 11
  let reg (d k : Nat) : Nat := (cfgWord set 5 15 (0x100 + 0x20 * d + 4 * k)).toNat
  let at_ (o r : Nat) : CfgFault := ⟨5, 15, o, r⟩
  (if !within 1 ms 2000 then some (at_ 0x10 1) else none).or <|
  ((List.range 4).findSome? fun d =>
    if !within 1 (bitsOf (reg d 0) 16 14) 10000 then some (at_ (0x100 + 0x20 * d) 1) else none).or <|
  ((List.range 4).findSome? fun d =>
    if 10000 < bitsOf (reg d 1) 0 14 then some (at_ (0x104 + 0x20 * d) 1)
    else if 3141593 < reg d 3 then some (at_ (0x10C + 0x20 * d) 1) else none).or <|
  (if w &&& 0xFF00F800 ≠ 0 then some (at_ 0x10 2) else none).or <|
  ((List.range 24).findSome? fun i =>
    let m := nth 0 [0xC000C0C0, 0xFFFFC000, 0xFFFF0000, 0, 0, 0xFFFF0000] (i % 6)
    if reg (i / 6) (i % 6) &&& m ≠ 0 then some (at_ (0x100 + 0x20 * (i / 6) + 4 * (i % 6)) 2) else none).or <|
  (tableFault 5 0 (usedEntries set 5 0 16) fun b => badIf (rsvBits (entW set 5 0 16 b) [0, 0, 0xFFFF00C0, 0xFFFFFFFF]) 2).or <|
  (if q ≠ 0 ∧ 492 < (ms * q + 999) / 1000 + bitsOf w 16 8 then some (at_ 0 5) else none)

/-! ### Berths that entries name -/

/-- Whether a berth is present and valid in a bank (R5). -/
def berthGood (bank : Bank) (count b : Nat) : Bool := decide (b < count) && (bank.berth b).valid
/-- Whether a lane, an analog slot or a digital slot lies in a berth's range. -/
def berthLane (bank : Bank) (b l : Nat) : Bool := decide ((bank.berth b).laneBase ≤ l) && decide (l < (bank.berth b).laneBase + (bank.berth b).phnmr)
def berthAn (bank : Bank) (b a : Nat) : Bool := decide ((bank.berth b).anBase ≤ a) && decide (a < (bank.berth b).anBase + (bank.berth b).annmr)
def berthDg (bank : Bank) (b d : Nat) : Bool := decide ((bank.berth b).dgBase ≤ d) && decide (d < (bank.berth b).dgBase + (bank.berth b).dgnmr)

/-! ### OSCILLATION (R217 to R220) -/

/-- A group entry. -/
def oscGroupFault (set : CfgSet) (g : Nat) : Option Nat :=
  let w (k : Nat) : Nat := entW set 6 0 128 g k
  let q := setRate set
  let d := bitsOf (w 0) 8 5
  let fmin := bitsOf (w 1) 0 16
  let fmax := bitsOf (w 1) 16 16
  let nsig := (oscSignals set g).length
  let n := bitsOf (w 0) 24 6
  let h := bitsOf (w 2) 24 6
  let bands := (List.range 16).all fun b =>
    let e := oscBandEdges set g b
    e == (0, 0) || (decide (fmin ≤ e.1) && decide (e.1 < e.2) && decide (e.2 ≤ fmax))
  let ranges := within 1 d 24 && q % max d 1 == 0 && decide (bitsOf (w 0) 16 5 < d) && within 2 n 32 && n % 2 == 0 &&
    within 10 fmin 15000 && decide (fmin < fmax) && decide (fmax ≤ 15000) && decide (fmax * max d 1 ≤ 400 * q) &&
    within 10 (bitsOf (w 2) 0 12) 1200 && decide (1 ≤ bitsOf (w 2) 16 8) && within 2 h 32 && decide (n ≤ h * nsig) &&
    decide (bitsOf (w 3) 0 16 ≤ 10000) && decide (bitsOf (w 3) 16 16 ≤ bitsOf (w 3) 0 16) && finW (w 4) && decide (0 ≤ f32Of (w 4)) &&
    decide (bitsOf (w 5) 0 10 ≤ 1000) && decide (1 ≤ bitsOf (w 5) 16 4) && within 1 (bitsOf (w 5) 24 7) 100 &&
    finW (w 6) && decide (1 ≤ f32Of (w 6)) && finW (w 7) && decide (0 ≤ f32Of (w 7)) && within 1 (bitsOf (w 8) 0 10) 600 &&
    within 60 (bitsOf (w 8) 16 12) 3600 && decide (bitsOf (w 9) 0 16 ≤ 10000) && finW (w 10) && decide (0 < f32Of (w 10)) && bands
  let rsv := rsvBits w [0xC0E0E0FE, 0, 0xC000F000, 0, 0, 0x80F0FC00, 0, 0, 0xF000FC00, 0xFFFF0000, 0,
    0xFFFFFFFF, 0xFFFFFFFF, 0xFFFFFFFF, 0xFFFFFFFF, 0xFFFFFFFF]
  let on := bitOf (w 0) 0
  (badIf rsv 2).or <| (badIf (on && nsig == 0 || decide (64 < nsig)) 5).or (badIf (on && !ranges) 1)

/-- A signal entry: the bits of fields that its TYPE does not use are reserved. -/
def oscSignalFault (set : CfgSet) (bank : Bank) (count i : Nat) : Option Nat :=
  let w (k : Nat) : Nat := entW set 6 1 32 i k
  let t := bitsOf (w 0) 0 4
  let two := t == 2 || t == 6 || t == 7
  let laneA := t != 0 && t != 3 && t != 4
  let rsv := rsvBits w [if t = 0 then 0xFFFFFFF0 else 0xFFFF00F0, if laneA then 0xFFFE0000 else 0xFFFFFFFF, if two then 0xFFFE0000 else 0xFFFFFFFF,
    (if t = 0 then 0xFFFFFFFF else if two then 0xE000E000 else 0xFFFFE000), if t = 0 then 0xFFFFFFFF else 0,
    if t = 6 ∨ t = 7 then 0 else 0xFFFFFFFF, 0xFFFFFFFF, 0xFFFFFFFF]
  let ba := bitsOf (w 3) 0 13
  let bb := bitsOf (w 3) 16 13
  (badIf (decide (8 ≤ t)) 2).or <|
  (badIf rsv 2).or <|
  if t = 0 then none
  else
    (badIf (!finW (w 4) || decide (f32Of (w 4) ≤ 0) || ((t == 6 || t == 7) && !finW (w 5)) || (t == 5 && decide (32768 ≤ w 1))) 1).or
    (badIf (!berthGood bank count ba || (t == 5 && !berthAn bank ba (w 1)) || (laneA && t != 5 && !berthLane bank ba (w 1)) ||
      (two && (!berthGood bank count bb || !berthLane bank bb (w 2)))) 3)

/-- A branch entry of the oscillation unit. -/
def oscBranchFault (set : CfgSet) (bank : Bank) (count i : Nat) : Option Nat :=
  let w (k : Nat) : Nat := entW set 6 2 32 i k
  let b := bitsOf (w 3) 0 13
  (badIf (rsvBits w [0xFE, 0xFFFE0000, 0xFFFE0000, 0xFFFFE000, 0, 0xFFFFFFFF, 0xFFFFFFFF, 0xFFFFFFFF]) 2).or <|
  if bitOf (w 0) 0 then
    (badIf (!finW (w 4)) 1).or (badIf (!berthGood bank count b || !berthLane bank b (w 1) || !berthLane bank b (w 2)) 3)
  else none

/-- The groups of a set that have an entry or a signal (R220). -/
def oscNamed (set : CfgSet) : List Nat :=
  (usedEntries set 6 0 128 ++ (usedEntries set 6 1 32).map fun n => bitsOf (oscSigW set n 0) 8 8).dedup.mergeSort (· ≤ ·)

/-- The oscillation section (R220). -/
def State.oscFault (s : State) (set : CfgSet) (bank : Bank) : Option CfgFault :=
  (tableFault 6 0 (oscNamed set) (oscGroupFault set)).or <|
  (tableFault 6 1 (usedEntries set 6 1 32) (oscSignalFault set bank s.berthCount)).or <|
  (tableFault 6 2 (usedEntries set 6 2 32) (oscBranchFault set bank s.berthCount)).or <|
  (if s.oscLoadCap < oscLoad set (setRate set) then some ⟨6, 0, 0, 4⟩ else none)

/-! ### ISLANDING (R255 to R259) -/

/-- The settings block (R258). -/
def islSettingsFault (set : CfgSet) : Option Nat :=
  let w (k : Nat) : Nat := islW set k
  let on (n : Nat) : Bool := bitOf (nodeW set n 0) 0
  let ranges := decide (1 ≤ islPersist set) && decide (1 ≤ cohPersist set) && decide (1 ≤ cohNmin set) && decide (confAlarm set ≤ 1000) &&
    finW (w 2) && decide (0 < cohDf set) && finW (w 3) && decide (0 < cohDang set) && decide (cohDang set ≤ 100) &&
    within 1 (cohTau set) 6000 && finW (w 5) && decide (0 ≤ islWmin set)
  (badIf (!ranges) 1).or <|
  (badIf (rsvBits w ([0xFFFC0000, 0xFC000000, 0, 0, 0xFFFFE000, 0] ++ List.replicate 10 0xFFFFFFFF)) 2).or
  (badIf (bitOf (w 0) 16 && !on (bitsOf (w 0) 0 16)) 3)

/-- A node entry. -/
def islNodeFault (set : CfgSet) (bank : Bank) (count n : Nat) : Option Nat :=
  let w (k : Nat) : Nat := nodeW set n k
  let on := bitOf (w 0) 0
  (badIf (on && !(finW (w 2) && decide (0 ≤ nodeWeight set n) && finW (w 3) && decide (0 ≤ nodeLive set n))) 1).or <|
  (badIf (rsvBits w [0xE000FFF8, 0xFFFE0000, 0, 0]) 2).or
  (badIf (on && nodeMeas set n && (!berthGood bank count (nodeBerth set n) || !berthLane bank (nodeBerth set n) (nodeLane set n))) 3)

/-- A branch entry: the bits of fields that its SRC does not use are reserved. -/
def islBranchFault (set : CfgSet) (bank : Bank) (count j : Nat) : Option Nat :=
  let w (k : Nat) : Nat := branchW set j k
  let t := branchSrc set j
  let brk := t == 3 || t == 5
  let cur := t == 4 || t == 5
  let always := [0, 0xC000FC80, 0xFFFFC000, 0xFFFE0000, 0xFFFFE000, 0, 0, 0xFFFFFFFF]
  let used := [0, (if t = 5 then 0 else 0x18) + (if 3 ≤ t then 0 else 0x60) + (if brk then 0 else 0x3FFF0300),
    (if brk then 0 else 0x3FFF), if cur then 0 else 0x1FFFF, if cur then 0 else 0x1FFF, if cur then 0 else 0xFFFFFFFF,
    if cur then 0 else 0xFFFFFFFF, 0]
  let b := bitsOf (w 4) 0 13
  let on (n : Nat) : Bool := bitOf (nodeW set n 0) 0
  (badIf (rsvBits w always || decide (6 ≤ t)) 2).or <|
  if t = 0 then none
  else
    (badIf (cur && !(finW (w 5) && decide (0 ≤ f32Of (w 5)) && finW (w 6) && decide (f32Of (w 5) < f32Of (w 6)))) 1).or <|
    (badIf (rsvBits w used || (brk && bitsOf (w 1) 8 2 == 3) || (decide (3 ≤ t) && bitsOf (w 1) 5 2 == 3)) 2).or
    (badIf (!on (branchA set j) || !on (branchB set j) ||
      (cur && (!berthGood bank count b || !berthLane bank b (bitsOf (w 3) 0 17)))) 3)

/-- The breaker entries that enabled branches use (R230, R259). -/
def usedBreakers (set : CfgSet) : List Nat :=
  (((islBranches set).filter fun j => branchSrc set j == 3 || branchSrc set j == 5).flatMap fun j =>
    let a := bitsOf (branchW set j 1) 16 14
    if bitsOf (branchW set j 1) 8 2 = 0 then [a] else [a, bitsOf (branchW set j 2) 0 14]).dedup.mergeSort (· ≤ ·)

/-- A breaker entry (R257). -/
def islBreakerFault (set : CfgSet) (bank : Bank) (count m : Nat) : Option Nat :=
  let w := (cfgWord set 7 3 (4 * m)).toNat
  badIf (!berthGood bank count (bitsOf w 19 13) || !berthDg bank (bitsOf w 19 13) (bitsOf w 0 14)) 3

/-- The islanding section (R259). -/
def State.islFault (s : State) (set : CfgSet) (bank : Bank) : Option CfgFault :=
  ((islSettingsFault set).map fun r => (⟨7, 0, 0, r⟩ : CfgFault)).or <|
  (tableFault 7 1 (usedEntries set 7 1 16) (islNodeFault set bank s.berthCount)).or <|
  (tableFault 7 2 (usedEntries set 7 2 32) (islBranchFault set bank s.berthCount)).or <|
  (tableFault 7 3 (usedBreakers set) (islBreakerFault set bank s.berthCount))

/-! ### ALARM and OUTPUT (R294 to R296) -/

/-- The alarm section (R296). DESIGN CHOICE (log entry 132): an entry whose words are all zero, as at reset, is unused and has no range to
meet; every other entry has, enabled or not. -/
def almFault (set : CfgSet) : Option CfgFault :=
  let rule (i : Nat) : Option Nat :=
    let w (k : Nat) : Nat := entW set 8 1 16 i k
    (badIf (rsvBits w [0xC0000, 0xFFFF0000, 0xFFFFFFFF, 0xFFFFFFFF] || bitOf (w 0) 3) 2).or (badIf (bitsOf (w 0) 24 8 == 0) 1)
  let pin (i : Nat) : Option Nat :=
    let w (k : Nat) : Nat := entW set 8 2 8 i k
    let mode := bitsOf (w 0) 0 2
    let sev := bitsOf (w 0) 4 2
    (badIf (rsvBits w [0xF0C0, 0xFFFFFFFF] || mode == 3 || sev == 0 || sev == 3) 2).or
      (badIf (bitsOf (w 0) 16 16 == 0) 1)
  let dest (i : Nat) : Option Nat :=
    let w (k : Nat) : Nat := entW set 8 3 32 i k
    (badIf (rsvBits w [0xC0F8, 0, 0, 0, 0, 0, 0xFFFFFFC0, 0xFFFFFFFF]) 2).or (badIf (bitsOf (w 0) 16 16 == 0) 1)
  (tableFault 8 1 (usedEntries set 8 1 16) rule).or <| (tableFault 8 2 (usedEntries set 8 2 8) pin).or (tableFault 8 3 (usedEntries set 8 3 32) dest)

/-- Bits set in a mask of n bits. -/
def bitCount (n m : Nat) : Nat := (maskList n m).length

/-- The length of the frame of a stream (R130, R296). -/
def strLength (set : CfgSet) (n : Nat) : Nat :=
  16 + (if bitOf (strWord set n) 2 then 18 else 0) + ((strMap set n).map fun j =>
    let o := 32 * j
    let fmt := cfgBits set 9 1 (o + 2) 0 4
    2 + bitCount 32 (cfgNum set 9 1 (o + 4) 4) * (if bitOf fmt 1 then 8 else 4) + 2 * (if bitOf fmt 3 then 4 else 2) +
      bitCount 8 (cfgByte set 9 1 (o + 3)) * (if bitOf fmt 2 then 4 else 2) + 2 * bitCount 4 (cfgBits set 9 1 (o + 2) 4 4)).sum

/-- A stream entry (R296), of those that are not all zero (log entry 132); with no quay rate the division of a disabled stream has nothing
to meet. -/
def strFault (set : CfgSet) (i : Nat) : Option Nat :=
  let w (k : Nat) : Nat := entW set 9 0 64 i k
  let q := setRate set
  let div := bitsOf (w 0) 4 5
  let nblk := bitsOf (w 8) 16 16
  let base := bitsOf (w 8) 0 16
  let shape := badIf (decide (8192 < base + nblk) || decide (8192 < strLength set i)) 5
  let divides := q % max div 1 == 0 && [10, 12, 15, 20, 25, 30, 50, 60, 100, 120, 200, 240].contains (q / max div 1)
  (badIf (rsvBits w ([0xFFC0E000, 0, 0, 0, 0, 0, 0xFFC00000, 0xFF000000, 0xE000E000] ++ List.replicate 7 0xFFFFFFFF)) 2).or <|
    (badIf (!within 1 div 24 || (!divides && (q != 0 || bitOf (w 0) 0)) || !within 1 (bitsOf (w 0) 9 4) 14 || decide (w 7 < 1000) ||
      !within 1 nblk 4096) 1).or shape

/-- A map entry that is not all zero (log entry 132) or that an enabled stream sends, as `used` says. -/
def outMapFault (set : CfgSet) (bank : Bank) (count : Nat) (used : Bool) (j : Nat) : Option Nat :=
  let w (k : Nat) : Nat := entW set 9 1 32 j k
  let b := bitsOf (w 0) 0 13
  let e := bank.berth b
  let pos (k : Nat) : Bool := finW (w k) && decide (0 < f32Of (w k))
  let casc := badIf (bitOf (w 0) 15 && (decide (e.annmr < 2) || !bitOf e.fmt 2)) 5
  (badIf (rsvBits w [0x6000, 0, 0, 0, 0, 0xFFFFFFFF, 0xFFFFFFFF, 0xFFFFFFFF]) 2).or <|
  (badIf (!(pos 2 && pos 3 && pos 4)) 1).or <|
  if used then
    (badIf (!berthGood bank count b) 3).or <|
    (badIf (decide (2 ^ e.phnmr ≤ w 1) || decide (2 ^ e.annmr ≤ bitsOf (w 0) 24 8) || decide (2 ^ e.dgnmr ≤ bitsOf (w 0) 20 4)) 5).or casc
  else casc

/-- The output section (R296). -/
def State.outFault (s : State) (set : CfgSet) (bank : Bank) : Option CfgFault :=
  let sent := ((List.range 8).filter fun n => bitOf (strWord set n) 0).flatMap (strMap set)
  (tableFault 9 0 (usedEntries set 9 0 64) (strFault set)).or
    (tableFault 9 1 ((usedEntries set 9 1 32) ++ sent).dedup fun j => outMapFault set bank s.berthCount (sent.contains j) j)

/-! ### FRONT_END (R321, R329, R332) -/

/-- Whether the front-end section is in use: it has a channel, a local map entry or FE_CFG. -/
def feUsed (set : CfgSet) : Bool := feCfg set != 0 || ((List.range 24).any fun c => feChCfg set c != 0) || ((List.range 16).any fun j => lpeOn set j)

/-- FE_CFG, FE_PP_CTRL and the channels. -/
def feRegFault (set : CfgSet) : Option CfgFault :=
  let c := feCfg set
  let ref := bitsOf c 8 5
  let alt := bitsOf c 16 5
  let ch (k : Nat) : Option Nat :=
    let w := feChCfg set k
    (badIf (decide (23 < bitsOf w 0 5) || decide (100 < bitsOf w 16 8)) 1).or (badIf ((w &&& 0xF080) != 0 || bitsOf w 8 2 == 3) 2)
  (((badIf (!within 1 (bitsOf c 24 8) 50 || decide (23 < ref) || decide (23 < alt)) 1).or <| (badIf ((c &&& 0xC0E0FC) != 0) 2).or
    (badIf (!feChOn set ref || !feChOn set alt) 3)).map fun r => (⟨0x0A, 15, 8, r⟩ : CfgFault)).or <|
  ((List.range 3).findSome? fun g =>
    let w := (cfgWord set 0x0A 15 (0x100 + 0x80 * g)).toNat
    ((badIf (decide (512 < bitsOf w 0 10)) 1).or (badIf (decide (1024 ≤ w)) 2)).map fun r => (⟨0x0A, 15, 0x100 + 0x80 * g, r⟩ : CfgFault)).or
  ((List.range 24).findSome? fun k => (ch k).map fun r => ⟨0x0A, 15, 0x400 + 0x20 * k, r⟩)

/-- A local map entry. -/
def lpeFault (set : CfgSet) (bank : Bank) (j : Nat) : Option Nat :=
  let w (k : Nat) : Nat := entW set 0x0A 0 64 j k
  let scs := bitOf (feCfg set) 0
  let fnom50 := bitOf (feCfg set) 1
  let q := setRate set
  let nph := bitsOf (w 0) 16 6
  let nan := bitsOf (w 0) 24 4
  let src := lpeRef set j 1
  let e := bank.berth (8176 + j)
  let phs := (List.range 32).map fun n => (n, lpeRef set j (8 + n))
  let ans := (List.range 8).map fun a => (a, lpeRef set j (40 + a))
  let chan (r : Nat × Nat) : Bool := (refChans r).all fun c => decide (c < 24) && feChOn set c
  let mRates := if fnom50 then [10, 25, 50, 100] else [10, 12, 15, 20, 30, 60, 120]
  (badIf (rsvBits w ([0xE0C000FC, 0xFFFFFFFF] ++ List.replicate 10 0 ++ List.replicate 4 0xFFFFFFFF)) 2).or <|
  if lpeOn set j then
    (badIf (src.2 != 1 && src.2 != 2 || phs.any (fun p => decide (4 < p.2.2)) || ans.any (fun a => decide (2 < a.2.2))) 2).or <|
    (badIf (decide (32 < nph) || decide (8 < nan) || phs.any (fun p => decide (p.1 < nph) && p.2.2 == 0) ||
      ans.any (fun a => decide (a.1 < nan) && a.2.2 == 0) || (lpeM set j && (scs || !mRates.contains q))) 1).or <|
    (badIf (!e.valid) 3).or <|
    (badIf (e.phnmr != nph || e.annmr != nan || e.dgnmr != lpeNdg set j) 5).or
    (badIf (!chan src || phs.any (fun p => decide (p.1 < nph) && !chan p.2) || ans.any (fun a => decide (a.1 < nan) && !chan (a.2.1, 1)) ||
      phs.any (fun p => decide (p.1 < nph) && e.phCurrent.getLsbD p.1 != bitOf (feChCfg set p.2.1) 6) || fnom50 != e.fnom50) 3)
  else none

/-- The front-end section (R329). -/
def feFault (set : CfgSet) (bank : Bank) : Option CfgFault :=
  if feUsed set then (feRegFault set).or (tableFault 0x0A 0 (List.range 16) (lpeFault set bank))
  else tableFault 0x0A 0 (usedEntries set 0x0A 0 64) (lpeFault set bank)

/-! ### METERING (R358, R359) -/

/-- A metering point whose entry is not all zero (log entry 132): ranges, codes and slots are checked whether it is enabled or not. -/
def mtrPointFault (set : CfgSet) (m : Nat) : Option Nat :=
  let w (k : Nat) : Nat := entW set 0x0B 0 32 m k
  let pos (k : Nat) : Bool := finW (w k) && decide (0 ≤ f32Of (w k))
  let ov := bitsOf (w 5) 16 8
  let elems := nth [] [[0, 4, 1, 5, 2, 6], [0, 4, 2, 6], [0, 4]] (ptWiring set m)
  let cur (i : Nat) : Bool := bitOf (feChCfg set (ptCh set m i)) 6
  let rsv := rsvBits w [0xFFFFF8C0, 0xE0E0E0E0, 0xE0E0E0E0, 0, 0, 0xFF000000, 0, 0xFFFFFFFF]
  (badIf rsv 2).or <|
    (badIf (ptWiring set m == 3 || ptNet set m == 3 || decide (6 ≤ bitsOf (w 0) 8 3)) 2).or <|
    (badIf (((List.range 8).any fun i => decide (23 < ptCh set m i)) || !(pos 3 && pos 4) || bitsOf (w 5) 0 8 == 0 ||
      decide (98 < bitsOf (w 5) 8 8) || !(ov == 0 || within 102 ov 200) || !finW (w 6) || decide (f32Of (w 6) ≤ 0)) 1).or
    (badIf ((bitOf (w 0) 0 && elems.any fun i => !feChOn set (ptCh set m i)) || ((List.range 4).any fun i => cur i) || ((List.range 4).any fun i => !cur (4 + i))) 3)

/-- A pulse output whose entry is not all zero (log entry 132). -/
def mtrPulseFault (set : CfgSet) (o : Nat) : Option Nat :=
  let w (k : Nat) : Nat := entW set 0x0B 1 8 o k
  let p := bitsOf (w 0) 2 2
  (badIf (rsvBits w [0xFF00, 0] || p == 3 || decide (11 ≤ bitsOf (w 0) 4 4)) 2).or <|
    (badIf (!within 1 (bitsOf (w 0) 16 16) 10000 || !within 1 (w 1) 1000000) 1).or
    (badIf (bitOf (w 0) 0 && !bitOf (entW set 0x0B 0 32 p 0) 0) 3)

/-- The metering section (R359). -/
def mtrFault (set : CfgSet) : Option CfgFault :=
  (tableFault 0x0B 0 (usedEntries set 0x0B 0 32) (mtrPointFault set)).or (tableFault 0x0B 1 (usedEntries set 0x0B 1 8) (mtrPulseFault set))

/-! ### FAULT (R501, R502) -/

/-- A source entry. -/
def srcFault (set : CfgSet) (i : Nat) : Option Nat :=
  let w (k : Nat) : Nat := entW set 0x0F 0 8 i k
  let t := bitsOf (w 0) 0 3
  let p := bitsOf (w 0) 4 3
  if 76 ≤ i then badIf (w 0 != 0 || w 1 != 0) 2
  else
    (badIf (t == 7 || p == 7 || rsvBits w [0x88, 0xFFFFFFFF]) 2).or (badIf (decide (p < t) || bitsOf (w 0) 8 8 == 0 || bitsOf (w 0) 16 16 == 0) 1)

/-- The fault section (R502). -/
def fltFault (set : CfgSet) : Option CfgFault :=
  let c := (cfgWord set 0x0F 15 8).toNat
  let m := (cfgWord set 0x0F 15 0xC).toNat
  let f := (cfgWord set 0x0F 15 0x10).toNat
  (tableFault 0x0F 0 (usedEntries set 0x0F 0 8) (srcFault set)).or <|
  (if !within 3 (bitsOf c 0 3) 6 ∨ !within 3 (bitsOf c 4 3) 6 then some ⟨0x0F, 15, 8, 1⟩ else none).or <|
  (if c &&& 0xFFFFFF88 ≠ 0 then some ⟨0x0F, 15, 8, 2⟩ else none).or <|
  (if m &&& 0xFFFFFFF8 ≠ 0 then some ⟨0x0F, 15, 0xC, 2⟩ else none).or
  (if f &&& 0xFFFF0000 ≠ 0 then some ⟨0x0F, 15, 0x10, 2⟩ else none)

/-! ### The whole set (R441) -/

/-- The first fault of a set, its sections in ascending TYPE, those of absent units skipped (R8): `bank` is the directory bank that
serves the effective instant. -/
def State.setFault (s : State) (set : CfgSet) (withDir : Bool) (bank : Bank) : Option CfgFault :=
  (globalFault set).or <| (if withDir then dirFault set s.berthCount else none).or <| (alnFault set).or <| (s.oscFault set bank).or <|
  (s.islFault set bank).or <| (almFault set).or <| (s.outFault set bank).or <| (if s.hasFe then feFault set bank else none).or <|
  (if s.hasMtr then mtrFault set else none).or <| fltFault set

end Sys2Proof.Machine
end

