-- ==== Sys2Proof/Machine/View.lean ====
section
/-! DEFINITION. What every register shows: the status registers as functions of the state, the data registers of the windows, and
the stored registers (R15 to R17, R97, R565 and the register tables of each chapter). -/

namespace Sys2Proof.Machine

/-! ### Windows (R565) -/

/-- The aligned word at an offset of FE_WIN (R331): table 0 the local map, 1 to 3 the banks of a group. -/
def State.feWinWord (s : State) : Word :=
  let t := s.fld Reg.FE_WIN_ADDR 24 2
  let off := s.fld Reg.FE_WIN_ADDR 0 15 / 4 * 4
  if t = 0 then (if off < 1024 then cfgWord s.cfg.active 0x0A 0 off else 0)
  else mapGet (fun _ => (0 : Word)) (nth {} s.fe.group (t - 1)).words off

/-- The offset of FE_WIN after a read of its data. -/
def State.feWinStep (s : State) : State := s.setFld Reg.FE_WIN_ADDR 0 15 (s.fld Reg.FE_WIN_ADDR 0 15 + 4)

/-- The aligned word at an offset of MTR_WIN (R361): points, pulses. -/
def State.mtrWinWord (s : State) : Word :=
  let t := s.fld Reg.MTR_WIN_ADDR 24 2
  let off := s.fld Reg.MTR_WIN_ADDR 0 7 / 4 * 4
  if nth 0 [96, 48] t ≤ off then 0 else cfgWord s.cfg.active 0x0B t off

/-- The offset of MTR_WIN after a read of its data. -/
def State.mtrWinStep (s : State) : State := s.setFld Reg.MTR_WIN_ADDR 0 7 (s.fld Reg.MTR_WIN_ADDR 0 7 + 4)

/-- The aligned word at an offset of CAP_WIN (R368, R386). -/
def State.capWinWord (s : State) : Word := mapGet (fun _ => (0 : Word)) s.cap.win (s.fld Reg.CAP_WIN_ADDR 0 9 / 4 * 4)

/-- The offset of CAP_WIN after an access of its data. -/
def State.capWinStep (s : State) : State := s.setFld Reg.CAP_WIN_ADDR 0 9 (s.fld Reg.CAP_WIN_ADDR 0 9 + 4)

/-- A write of CAP_WIN_DATA (R368, R386): a trigger entry's word; ignored while its channel is ARMED or TRIGGERED. -/
def capWinWrite (v : Word) (s : State) : State :=
  let off := s.fld Reg.CAP_WIN_ADDR 0 9 / 4 * 4
  let s1 := s.capWinStep
  if (s.capCh (off / 128)).busy then s1
  else { s1 with cap := { s1.cap with win := mapPut (fun _ => (0 : Word)) s1.cap.win off v } }

/-- The aligned word at an offset of LOG_WIN (R387): the class table, and the tail in LSEQ order from the oldest. -/
def State.logWinWord (s : State) : Word :=
  let t := s.fld Reg.LOG_WIN_ADDR 24 2
  let off := s.fld Reg.LOG_WIN_ADDR 0 14 / 4 * 4
  if t = 0 then (if off < 4096 then cfgWord s.cfg.active 0x0C 0 off else 0)
  else if t = 1 then
    match s.bkp.tail[off / 256]? with
    | some r => BitVec.ofNat 32 (leAt r.bytes (off % 256) 4)
    | none => 0
  else 0

/-- The offset of LOG_WIN after a read of its data. -/
def State.logWinStep (s : State) : State := s.setFld Reg.LOG_WIN_ADDR 0 14 (s.fld Reg.LOG_WIN_ADDR 0 14 + 4)

/-- The offset of CFG_SWIN after a read of its data. -/
def State.cfgSwinStep (s : State) : State := s.setFld Reg.CFG_SWIN_ADDR 0 24 (s.fld Reg.CFG_SWIN_ADDR 0 24 + 4)

/-! ### The words of a value -/

/-- Word j of a 64-bit value: 0 its LO half, 1 its HI half. -/
def halfOf (v j : Nat) : Nat := v / 2 ^ (32 * j)

/-- Word j of a timestamp register group (R97): SUBNS, NS, SEC_LO, SEC_HI. -/
def tsWord (t j : Nat) : Nat := nth 0 [subOf t, nsOf t, secOf t % 2 ^ 32, secOf t / 2 ^ 32 % 2 ^ 16] j

/-- Word j of an RTC value of three registers: FRAC, SEC_LO, SEC_HI. -/
def rtcWord (v : RtcVal) (j : Nat) : Nat := nth 0 [v.frac, v.sec % 2 ^ 32, v.sec / 2 ^ 32] j

/-! ### Status registers, block by block; none where the register is a stored one -/

/-- Registers of the ID block (R11 to R13, R50). -/
def State.viewId (s : State) (o : Nat) : Option Nat :=
  if o = Reg.ID_PART then
    some (s.hw.variant.part * 2 ^ 16 + s.hw.stepping)
  else if o = Reg.ID_CAP then some s.idCap
  else if o = Reg.ID_CAP_COUNT then some s.idCapCount
  else if o = Reg.ID_ENG_MASK then some s.engMask
  else none

/-- The codes of the ring pair states (R425). -/
def RingSt.code : RingSt → Nat
  | .disabled => 0
  | .running => 1
  | .stopping => 2
  | .error => 3

/-- Registers of the HIF block (R423, R452, R453). -/
def State.viewHif (s : State) (o : Nat) : Option Nat :=
  let p := s.hif.pcie
  if o = Reg.HIF_STATUS then some (p.speed + 2 ^ 4 * p.width + 2 ^ 8 * b2n p.bme + 2 ^ 9 * b2n p.d3hot)
  else if 0x10100 ≤ o ∧ o < 0x10500 then
    let n := (o - 0x10100) / 0x40
    let r := s.ring n
    match (o - 0x10100) % 0x40 with
    | 0x04 => some (r.st.code + 2 ^ 4 * r.err + 2 ^ 8 * r.outstanding + 2 ^ 31 * b2n r.phase)
    | 0x28 => some (r.sqHead + 2 ^ 16 * r.cqTail)
    | 0x2C => some (r.sqTail + 2 ^ 16 * r.cqHead)
    | _ => none
  else if o = Reg.HIF_MSIX_PBA 0 then some (s.msix.pba.toNat % 2 ^ 32)
  else if o = Reg.HIF_MSIX_PBA 1 then some (s.msix.pba.toNat / 2 ^ 32)
  else none

/-- Registers of the CFG block (R437 to R447, R454). -/
def State.viewCfg (s : State) (o : Nat) : Option Nat :=
  let c := s.cfg
  let p : Nat × Nat := match c.commit with
    | some x => if x.validated then (x.effSec, x.effK) else (0, 0)
    | none => (0, 0)
  if o = Reg.CFG_STATUS then
    some (b2n c.defaults + 2 * b2n c.activeValid + 4 * b2n (c.commit.any fun x => x.validated) + 2 ^ 4 * c.bootResult + 2 ^ 8 * c.bootSlot)
  else if o = Reg.CFG_GEN then some c.gen
  else if o = Reg.CFG_ACTIVE_CHECK then some (s.setCheck c.active)
  else if o = Reg.CFG_SHADOW_CHECK then some (s.setCheck c.shadow)
  else if o = Reg.CFG_ACTIVE_ID then some (cfgWord c.active 1 15 4).toNat
  else if o = Reg.CFG_IMAGE_ID then some c.imageId.toNat
  else if o = Reg.CFG_PEND_SEC_LO then some (halfOf p.1 0)
  else if o = Reg.CFG_PEND_SEC_HI then some (halfOf p.1 1)
  else if o = Reg.CFG_PEND_K then some p.2
  else if o = Reg.CFG_SWIN_DATA then some s.cfgSwinWord.toNat
  else if o = Reg.CFG_DRAM_SIZE then some s.hw.dramGiB
  else if o = Reg.CFG_RSV_BASE_LO then some (halfOf s.rsvBase 0)
  else if o = Reg.CFG_RSV_BASE_HI then some (halfOf s.rsvBase 1)
  else if o = Reg.CFG_DDR_STATUS then some (b2n c.trained0 + 2 * b2n c.trained1 + 4 * b2n (3 ≤ s.pwr.state))
  else none

/-- Registers of the PWR block (R455). -/
def State.viewPwr (s : State) (o : Nat) : Option Nat :=
  if o = Reg.PWR_STATUS then
    some (s.pwr.state + 2 ^ 4 * s.pwrTarget + 2 ^ 8 * b2n (s.pwr.exiting || s.pwr.state < s.pwrTarget) + 2 ^ 9 * b2n s.pwr.d3Blocked +
      2 ^ 16 * s.pwrFirstUnmet)
  else none

/-- Registers of the TB block (R60, R82, R84, R96 to R98). -/
def State.viewTb (s : State) (o : Nat) : Option Nat :=
  if o = Reg.TB_STATUS then some s.tbStatus
  else if 0x40020 ≤ o ∧ o < 0x40030 then some (tsWord s.dt ((o - 0x40020) / 4))
  else if o = Reg.TB_UNC then some s.unc
  else if o = Reg.TB_TQ then some s.tb.tq.toNat
  else if o = Reg.TB_QRATE then some s.tb.grid.rate
  else if o = Reg.TB_LEAP_CTRL then
    some ((s.reg Reg.TB_LEAP_CTRL).toNat + 2 ^ 29 * b2n s.tb.leapErr + 2 ^ 30 * b2n s.tb.leapPending.isSome)
  else if 0x40100 ≤ o ∧ o < 0x40280 then
    let x := s.src ((o - 0x40100) / 0x40)
    match (o - 0x40100) % 0x40 with
    | 0x04 => some x.st.code
    | 0x08 => some (halfOf (toTwos 64 (x.offsetAt s.dt)) 0)
    | 0x0C => some (halfOf (toTwos 64 (x.offsetAt s.dt)) 1)
    | 0x14 => some (min x.resid (2 ^ 32 - 1))
    | _ => none
  else none

/-- Registers of the MAC blocks (R117). -/
def State.viewMac (s : State) (o : Nat) : Option Nat :=
  let p := (o - 0x50000) / 0x1000
  let x := s.port p
  if (o - 0x50000) % 0x1000 = 4 ∧ p < 6 then
    some (x.link.code + 2 ^ 6 * b2n x.localFault + 2 ^ 7 * b2n x.remoteFault + 2 ^ 8 * b2n x.hiBer +
      2 ^ 9 * b2n x.pausedUntil.isSome + 2 ^ 10 * b2n (s.lineErr p) + 2 ^ 11 * b2n x.speedErr)
  else none

/-- Registers of the BIN block (R144 to R146). -/
def State.viewBin (s : State) (o : Nat) : Option Nat :=
  let b := s.bin
  if o = Reg.BIN_STATUS then
    some (b2n (s.bit Reg.BIN_CTRL 0 && s.tb.grid.rate != 0) + 2 * b2n b.pending + 4 * b2n b.oldHeld + 8 * b2n b.copying +
      16 * b2n b.validating + 2 ^ 16 * b.live.validStreams.length)
  else if o = Reg.BIN_DIR_CTRL then
    some (b.dirErr + 2 ^ 26 * b2n b.validating + 2 ^ 27 * b2n b.copying + 2 ^ 28 * b2n b.oldHeld + 2 ^ 29 * b2n b.pending)
  else if o = Reg.BIN_DIR_EFF_SEC_LO then some (halfOf b.effSec 0)
  else if o = Reg.BIN_DIR_EFF_SEC_HI then some (halfOf b.effSec 1)
  else if o = Reg.BIN_DIR_EFF_K then some b.effK
  else if o = Reg.BIN_WIN_DATA then some s.binWinWord.toNat
  else if o = Reg.BIN_CFGCHG_FIFO then
    some (match b.fifo with
      | x :: _ => 2 ^ 31 + x
      | [] => 0)
  else none

/-- Registers of the ALN block (R183, R188): the detectors and the window are those of the active set. -/
def State.viewAln (s : State) (o : Nat) : Option Nat :=
  let newest := s.aln.nextSeq - 1
  if o = Reg.ALN_STATUS then
    some (b2n s.alnReady + 2 * b2n s.aln.ringSet + 2 ^ 8 * s.resident + 2 ^ 16 * s.unsealed.length)
  else if o = Reg.ALN_WINDOW ∨ (0x70100 ≤ o ∧ o < 0x70180) then some (cfgWord s.cfg.active 5 15 (o - 0x70000)).toNat
  else if o = Reg.ALN_NEWEST_SEQ_LO then some (halfOf newest 0)
  else if o = Reg.ALN_NEWEST_SEQ_HI then some (halfOf newest 1)
  else if o = Reg.ALN_WIN_DATA then some s.alnWinWord.toNat
  else none

/-- Registers of the OSC block (R215, R226). -/
def State.viewOsc (s : State) (o : Nat) : Option Nat :=
  let b := (s.oscGroup (s.fld Reg.OSC_GROUP_SEL 0 8)).baseSeq
  if o = Reg.OSC_STATUS then some s.oscStatus
  else if o = Reg.OSC_LOAD then some (oscLoad s.cfg.active s.tb.grid.rate)
  else if o = Reg.OSC_LOAD_CAP then some s.oscLoadCap
  else if o = Reg.OSC_GROUP_STATE then some s.oscGroupState
  else if o = Reg.OSC_GROUP_BASE_LO then some (halfOf b 0)
  else if o = Reg.OSC_GROUP_BASE_HI then some (halfOf b 1)
  else if o = Reg.OSC_WIN_DATA then some s.oscWinWord.toNat
  else none

/-- Registers of the ISL block (R268). -/
def State.viewIsl (s : State) (o : Nat) : Option Nat :=
  if o = Reg.ISL_STATUS then some s.islStatus
  else if o = Reg.ISL_BASE_SEQ_LO then some (halfOf s.isl.com.baseSeq 0)
  else if o = Reg.ISL_BASE_SEQ_HI then some (halfOf s.isl.com.baseSeq 1)
  else if o = Reg.ISL_WIN_DATA then some s.islWinWord.toNat
  else none

/-- Registers of the ALM block (R297). -/
def State.viewAlm (s : State) (o : Nat) : Option Nat :=
  if o = Reg.ALM_STATUS then some (s.almActive + 2 ^ 16 * s.almUsed + 2 ^ 31 * b2n (!s.isActive))
  else if o = Reg.ALM_PIN_STATE then some ((List.range 16).map fun p => 2 ^ p * b2n (nth {} s.alm.pins p).active).sum
  else if o = Reg.ALM_WIN_DATA then some s.almWinWord.toNat
  else none

/-- Registers of the OUT block (R298). -/
def State.viewOut (s : State) (o : Nat) : Option Nat :=
  let x := nth {} s.outp.str ((o - 0xA8100) / 0x10)
  if o = Reg.OUT_STATUS then some s.outStatus
  else if 0xA8100 ≤ o ∧ o < 0xA8180 then
    match (o - 0xA8100) % 0x10 with
    | 0x4 => some x.depth
    | 0x8 => some (halfOf x.last 0)
    | 0xC => some (halfOf x.last 1)
    | _ => none
  else if o = Reg.OUT_WIN_DATA then some s.outWinWord.toNat
  else none

/-- Registers of the FE block (R331 to R334). -/
def State.viewFe (s : State) (o : Nat) : Option Nat :=
  let f := s.fe
  if o = Reg.FE_STATUS then
    some (b2n f.running + 2 * b2n f.scsMark + 4 * f.refState + 2 ^ 5 * b2n f.freqRange + 2 ^ 6 * b2n f.calPending.isSome + 2 ^ 7 * b2n f.mclk)
  else if o = Reg.FE_CFG then some (feCfg s.cfg.active)
  else if o = Reg.FE_WIN_DATA then some s.feWinWord.toNat
  else if 0xB0100 ≤ o ∧ o < 0xB0280 then
    let g := nth {} f.group ((o - 0xB0100) / 0x80)
    let r := (o - 0xB0100) % 0x80
    if r = 0x04 then some (g.count + 2 ^ 16 * b2n g.fill1 + 2 ^ 17 * b2n g.held)
    else if r = 0x08 then some g.seq.toNat
    else if r = 0x0C then some g.doneSets
    else if 0x10 ≤ r ∧ r < 0x20 then some (tsWord g.doneTs ((r - 0x10) / 4))
    else if 0x20 ≤ r ∧ r < 0x40 then some (nth 0 g.donePer ((r - 0x20) / 4))
    else if 0x40 ≤ r ∧ r < 0x50 then some (tsWord g.fillTs ((r - 0x40) / 4))
    else if 0x60 ≤ r then some (nth 0 g.fillPer ((r - 0x60) / 4))
    else none
  else if 0xB0400 ≤ o ∧ o < 0xB0700 then
    let c := (o - 0xB0400) / 0x20
    let x := nth {} f.chan c
    match (o - 0xB0400) % 0x20 with
    | 0x00 => some (feChCfg s.cfg.active c)
    | 0x04 => some (b2n x.clip + 2 * b2n x.stuck + 4 * b2n x.dcbFrozen + 
        8 * b2n (f.running && (((f.hist.head?).map fun (y : FeSet) => y.settling.getLsbD c).getD false)))
    | 0x08 => some (toF32 x.dcb).toNat
    | _ => none
  else none

/-- Registers of the MTR block (R361, R362): the words of the point blocks are computed. -/
def State.viewMtr (s : State) (o : Nat) : Option Nat :=
  let m := s.mtr
  if o = Reg.MTR_STATUS then some (b2n m.running + 2 * b2n m.refusing + 4 * b2n m.frozen + 2 ^ 8 * m.unsavedSrc)
  else if o = Reg.MTR_REC_WR_LO then some (halfOf m.recWr 0)
  else if o = Reg.MTR_REC_WR_HI then some (halfOf m.recWr 1)
  else if o = Reg.MTR_WIN_DATA then some s.mtrWinWord.toNat
  else if 0xC0100 ≤ o ∧ o < 0xC0160 then
    let p := nth {} m.pulse ((o - 0xC0100) / 0x10)
    match (o - 0xC0100) % 0x10 with
    | 0x4 => some (b2n p.sat + 2 * b2n p.active + 4 * min p.sched.length 15)
    | 0x8 => some (min (p.resImp / 2 ^ 32) (2 ^ 32 - 1))
    | 0xC => some (min (p.resExp / 2 ^ 32) (2 ^ 32 - 1))
    | _ => none
  else if 0xC1000 ≤ o ∧ o < 0xC1C00 then
    some (s.mtrPointWord ((o - 0xC1000) / 0x400) ((o - 0xC1000) % 0x400)).toNat
  else none

/-- Registers of the CAP block (R386). -/
def State.viewCap (s : State) (o : Nat) : Option Nat :=
  if o = Reg.CAP_STATUS then
    some (((List.range 4).map fun c => 2 ^ c * b2n (s.capCh c).busy).sum +
      ((List.range 4).map fun n => 2 ^ (4 + n) * b2n (nth {} s.cap.line n).low).sum)
  else if o = Reg.CAP_WIN_DATA then some s.capWinWord.toNat
  else if 0xD0100 ≤ o ∧ o < 0xD0200 then
    let c := s.capCh ((o - 0xD0100) / 0x40)
    match (o - 0xD0100) % 0x40 with
    | 0x04 => some (c.st.code + 2 ^ 4 * c.err + 2 ^ 8 * c.ovfCause + 2 ^ 10 * c.abortRes + 2 ^ 16 * c.retrigN)
    | 0x34 => some (min c.bseq (2 ^ 32 - 1))
    | _ => none
  else none

/-- Registers of the LOG block (R387). -/
def State.viewLog (s : State) (o : Nat) : Option Nat :=
  let l := s.logb
  if o = Reg.LOG_STATUS then
    some (b2n l.ringSet + 2 * b2n l.tailInvalid + 4 * b2n l.nonce.isSome + 2 ^ 8 * s.bkp.tail.length)
  else if o = Reg.LOG_NEXT_SEQ_LO then some (halfOf l.nextSeq 0)
  else if o = Reg.LOG_NEXT_SEQ_HI then some (halfOf l.nextSeq 1)
  else if o = Reg.LOG_OLDEST_SEQ_LO then some (halfOf l.oldest 0)
  else if o = Reg.LOG_OLDEST_SEQ_HI then some (halfOf l.oldest 1)
  else if o = Reg.LOG_NONCE_LO then some (halfOf (l.nonce.getD 0) 0)
  else if o = Reg.LOG_NONCE_HI then some (halfOf (l.nonce.getD 0) 1)
  else if o = Reg.LOG_WIN_DATA then some s.logWinWord.toNat
  else none

/-- Registers of the PLT block (R411). -/
def State.viewPlt (s : State) (o : Nat) : Option Nat :=
  let p := s.plt
  if o = Reg.PLT_STATUS then some ((p.tasks.filter fun t => t.2.st != .free).length + 2 ^ 16 * b2n p.rot.isSome)
  else if o = Reg.PLT_ROT_STATUS then some (p.rotEngine + 2 ^ 8 * p.rotResult + 2 ^ 31 * b2n p.rotDone)
  else if 0xF0080 ≤ o ∧ o < 0xF0098 then
    let c := (o - 0xF0080) / 4
    let inService := ((classEngines c).filter fun e => s.hasEng e && (s.engine e).rstate == .inService).length
    some (s.readyLow c + 2 ^ 12 * s.readyHigh c + 2 ^ 19 * inService +
      2 ^ 24 * b2n (p.waitingSet.any fun w => w.1 == c || w.1 == c + 8))
  else none

/-- The codes of the rotation states (R401). -/
def RState.code : RState → Nat
  | .inService => 0
  | .draining => 1
  | .out => 2
  | .loading => 3
  | .testing => 4
  | .rejoining => 5
  | .fenced => 6

/-- Registers of the ENG blocks (R412). -/
def State.viewEng (s : State) (o : Nat) : Option Nat :=
  let n := (o - 0x100000) / 0x800
  let e := s.engine n
  let r := (o - 0x100000) % 0x800
  if 32 ≤ n then none
  else if r = 0x00 then
    some (e.rstate.code + 2 ^ 4 * b2n e.running.isSome + 2 ^ 8 * e.preempted.length + 2 ^ 16 * e.running.getD 0xFFF)
  else if r = 0x04 then some e.fwVer.toNat
  else if 0x08 ≤ r ∧ r < 0x28 then some (leAt e.fwMeas (r - 8) 4)
  else if r = 0xDC then some e.smpWr
  else none

/-- Registers of the TWN block (R477). -/
def State.viewTwn (s : State) (o : Nat) : Option Nat :=
  let t := s.twn
  if o = Reg.TWN_STATUS then some s.twnStatus
  else if o = Reg.TWN_HEALTH then some s.health
  else if o = Reg.TWN_PEER_HEALTH then some t.peerHealth.toNat
  else if o = Reg.TWN_DT_DIFF then some (toTwos 32 t.dtDiff)
  else if o = Reg.TWN_EPOCH then some (s.bkp.epoch.getD 0 % 2 ^ 31 + 2 ^ 31 * b2n s.side)
  else if o = Reg.TWN_HO_STATUS then some s.hoStatus
  else if o = Reg.TWN_PEER_TIME then some t.peerTime.toNat
  else none

/-- Registers of the FLT block (R504). -/
def State.viewFlt (s : State) (o : Nat) : Option Nat :=
  let f := s.flt
  let addr := match f.fer with | some r => r.addr | none => 0
  let at_ := match f.fer with | some r => r.at_ | none => 0
  if o = Reg.FLT_STATUS then some s.fltStatus
  else if o = Reg.FLT_FER_SRC then some s.ferSrc
  else if o = Reg.FLT_FER_ADDR_LO then some (halfOf addr 0)
  else if o = Reg.FLT_FER_ADDR_HI then some (halfOf addr 1)
  else if 0x12002C ≤ o ∧ o < 0x12003C then some (tsWord at_ ((o - 0x12002C) / 4))
  else if o = Reg.FLT_FER_CNT then some (min f.merged 65535 + 2 ^ 16 * min f.overflow 65535)
  else if o = Reg.FLT_RELEASE_RES then some (f.relRes + 2 ^ 31 * b2n f.relDone)
  else if o = Reg.FLT_FENCED_ENG then
    some ((List.range 32).map fun e => 2 ^ e * b2n (s.hasEng e && (s.engine e).rstate == .fenced)).sum
  else if o = Reg.FLT_FENCED_UNIT then some ((List.range 23).map fun i => 2 ^ i * b2n (s.unitFenced (i + 1))).sum
  else if o = Reg.FLT_SRC_STATE then some s.srcState
  else if o = Reg.FLT_WIN_DATA then some s.fltWinWord.toNat
  else none

/-- Registers of the BST block (R505). -/
def State.viewBst (s : State) (o : Nat) : Option Nat :=
  if o = Reg.BST_STATUS then some s.bstStatusWord
  else if 0x130008 ≤ o ∧ o < 0x130014 then some (s.bstRes ((o - 0x130008) / 4))
  else if o = Reg.BST_LAST then some s.bst.last.toNat
  else none

/-- Registers of the KEY block (R521). -/
def State.viewKey (s : State) (o : Nat) : Option Nat :=
  let k := s.key
  let i := s.fld Reg.KEY_SLOT_SEL 0 6
  let x := s.keySlot i
  if o = Reg.KEY_STATUS then
    some ((match s.hw.root with | .blank => 0 | .present => 1 | .broken => 2) + 4 * b2n s.hw.provClosed + 8 * b2n k.storeLost +
      2 ^ 4 * b2n k.nonce.isSome + 2 ^ 5 * b2n k.trngFail + 2 ^ 6 * b2n (!k.deriving_.isEmpty) +
      2 ^ 8 * (s.leases.filter fun l => l.pool == 3 && l.owner.isSome).length)
  else if o = Reg.KEY_NONCE_LO then some (halfOf (k.nonce.getD 0) 0)
  else if o = Reg.KEY_NONCE_HI then some (halfOf (k.nonce.getD 0) 1)
  else if o = Reg.KEY_SLOT_INFO then some (x.typ + 8 * b2n x.lock + 16 * b2n (k.derivedOk.contains i))
  else if o = Reg.KEY_SLOT_USAGE then some (x.usage.toNat + 2 ^ 16 * x.gen.toNat)
  else none

/-- Registers of the RTC block (R539), those of the backup domain among them. -/
def State.viewRtc (s : State) (o : Nat) : Option Nat :=
  let b := s.bkp
  if o = Reg.RTC_CTRL then some (b2n b.halted + 2 * b2n b.syncEn)
  else if o = Reg.RTC_STATUS then
    some (b2n b.onVbat + 2 * b2n b.backupLow + 4 * b2n b.halted + 8 * b2n s.rtc.shadowFrozen + 2 ^ 4 * b2n s.rtc.synced +
      2 ^ 8 * s.rtc.roll + 2 ^ 16 * b2n s.rtc.rollOvf)
  else if o = Reg.RTC_FLAGS then some (b2n b.timeLost + 2 * b2n b.lowSeen + 4 * b2n b.bkpPor + 8 * b2n b.switched)
  else if 0x150010 ≤ o ∧ o < 0x15001C then
    some (rtcWord (if s.rtc.shadowFrozen then s.rtc.shadow else b.rtc) ((o - 0x150010) / 4))
  else if o = Reg.RTC_WAKE then some b.wakePeriod.toNat
  else if o = Reg.RTC_TRIM then some b.trim.toNat
  else if o = Reg.RTC_VBAT then some (b.vbat % 4096)
  else if 0x150040 ≤ o ∧ o < 0x15004C then some (rtcWord b.swoAt ((o - 0x150040) / 4))
  else if 0x150050 ≤ o ∧ o < 0x15005C then some (rtcWord b.retAt ((o - 0x150050) / 4))
  else if o = Reg.RTC_RST_CAUSE then some (s.rtc.cause + 2 ^ 8 * b2n s.rtc.porBefore)
  else if o = Reg.RTC_RST_CFG then some (b2n b.perstScope)
  else none

/-- Registers of the DBG block (R417). -/
def State.viewDbg (s : State) (o : Nat) : Option Nat :=
  let d := s.dbg
  if o = Reg.DBG_STATUS then
    some (d.level + 4 * b2n s.portDis + 8 * b2n d.tapActive + 16 * b2n d.nonce.isSome + 2 ^ 8 * d.lastEngine)
  else none

/-- What a computed register shows; none for a stored one. -/
def State.viewNat (s : State) (o : Nat) : Option Nat :=
  match blockOf o with
  | .id => s.viewId o
  | .hif => s.viewHif o
  | .cfg => s.viewCfg o
  | .pwr => s.viewPwr o
  | .tb => s.viewTb o
  | .mac => s.viewMac o
  | .bin => s.viewBin o
  | .aln => s.viewAln o
  | .osc => s.viewOsc o
  | .isl => s.viewIsl o
  | .alm => s.viewAlm o
  | .outp => s.viewOut o
  | .fe => s.viewFe o
  | .mtr => s.viewMtr o
  | .cap => s.viewCap o
  | .logb => s.viewLog o
  | .plt => s.viewPlt o
  | .eng => s.viewEng o
  | .twn => s.viewTwn o
  | .flt => s.viewFlt o
  | .bst => s.viewBst o
  | .key => s.viewKey o
  | .rtc => s.viewRtc o
  | .dbg => s.viewDbg o
  | .none => Option.none

/-- Whether the block of an offset is absent from the part (R3, R4): the front end, metering, capture, an engine. -/
def State.blockAbsent (s : State) (o : Nat) : Bool :=
  match blockOf o with
  | .fe => !s.hasFe
  | .mtr => !s.hasMtr
  | .cap => !s.hasCap
  | .eng => !s.hasEng ((o - 0x100000) / 0x800)
  | _ => false

/-- What a register shows to a read that has no effect of its own: the bits that read as zero (R17: WO and RSV) are zero
already where they are stored. -/
def State.viewReg (s : State) (o : Nat) : Word :=
  if s.blockAbsent o then 0
  else match rowAt o with
    | none => 0
    | some r =>
      if r.acc = .wo ∨ r.acc = .rsv then 0
      else match s.viewNat o with
        | some v => BitVec.ofNat 32 v
        | none => s.reg o

/-- What a snapshot of a logbook record shows of a register (R380): the KEY block reads zero. -/
def State.snapReg (s : State) (o : Nat) : Word := if blockOf o = .key then 0 else s.viewReg o

end Sys2Proof.Machine
end

