-- ==== Sys2Proof/Machine/Access.lean ====
section
/-! DEFINITION. Accesses of BAR0 and BAR2 (R15 to R17, R49, R97, R410, R415, R420, R423, R450, R565): what a read returns and
changes, what a write of each register does, and the accesses that are not performed. -/

namespace Sys2Proof.Machine

/-! ### Accesses that are recorded or put off -/

/-- An access error (R15, R49, R410, R481): source 55, with the master's code and its access type; the host is master 63 with
HOST_READ and HOST_WRITE, the debug port master 62 with READ and WRITE; the address is the BAR offset, with bit 32 for BAR2. -/
def State.accErr (s : State) (master : Nat) (write : Bool) (addr : Nat) : State :=
  s.report 55 0 master ((if master = 62 then 1 else 5) + b2n write) addr

/-- The subsystem a fence of which makes writes of an offset ignored (R486). -/
def unitOfBlock (o : Nat) : Option Nat :=
  match blockOf o with
  | .fe => some 10
  | .mtr => some 12
  | .cap => some 13
  | .bst => some 21
  | .twn => some 22
  | _ => none

/-- Whether writes of an offset are ignored because its unit is fenced (R486). -/
def State.blockFenced (s : State) (o : Nat) : Bool := (unitOfBlock o).any fun n => s.unitFenced n

/-- A write of a register on its way to its unit: ignored in an absent (R3, R4) or fenced (R486) block, put off while the
block's domain is stopped or the write would end an entry condition (R450), otherwise carried out by `f`. -/
def State.busWrite (s : State) (o : Nat) (v : Word) (master : Nat) (f : State → State) : State :=
  if s.blockAbsent o || s.blockFenced o then s
  else if s.blockStopped o || s.endsCondition o v then s.holdAccess ⟨false, o, some v, master⟩ 2
  else f s

/-- A read of a register on its way to its unit. -/
def State.busRead (s : State) (o master : Nat) (f : State → State) : State :=
  if s.blockAbsent o then { s with rdata := 0 }
  else if s.blockStopped o then s.holdAccess ⟨false, o, none, master⟩ 2
  else f s

/-! ### Writes -/

/-- Whether an offset is a register of a kind. -/
def kindAt (o : Nat) (k : Kind) : Bool := (rowAt o).any fun r => r.kind == k

/-- Whether a register is half of a 64-bit value, whose halves a write applies together (R16). -/
def isPair (o : Nat) : Bool := (rowAt o).any fun r => r.kind == .lo || r.kind == .hi

/-- Whether a register accepts a write now: ring and region registers only in the states their chapters give. -/
def State.writable (s : State) (o : Nat) : Bool :=
  match blockOf o with
  | .hif =>
    if 0x10100 ≤ o ∧ o < 0x10500 then
      let r := (o - 0x10100) % 0x40
      r == 0x24 || (s.ring ((o - 0x10100) / 0x40)).st == .disabled
    else true
  | .osc => !(Reg.OSC_RING_BASE_LO ≤ o && o ≤ Reg.OSC_RING_SIZE) || !s.bit Reg.OSC_CTRL 0
  | .isl => !((Reg.ISL_RING_BASE_LO ≤ o && o ≤ Reg.ISL_RING_SIZE) || (Reg.ISL_MEMB_BASE_LO ≤ o && o ≤ Reg.ISL_MEMB_SIZE)) ||
      !s.bit Reg.ISL_CTRL 0
  | .mtr => !(Reg.MTR_REC_BASE_LO ≤ o && o ≤ Reg.MTR_REC_SIZE) || !s.bit Reg.MTR_CTRL 0
  | .cap =>
    if 0xD0100 ≤ o ∧ o < 0xD0200 then
      let r := (o - 0xD0100) % 0x40
      !(r == 0x08 || r == 0x0C || r == 0x10) || !(s.capCh ((o - 0xD0100) / 0x40)).busy
    else true
  | .eng =>
    let r := (o - 0x100000) % 0x800
    !(r == 0xD0 || r == 0xD4 || r == 0xD8) || !s.bit (Reg.ENG_CNT_CTRL ((o - 0x100000) / 0x800)) 0
  | _ => true

/-- A write of a register by its access code alone (R16, R17). -/
def State.plainWrite (s : State) (o : Nat) (v : Word) : State :=
  match rowAt o with
  | none => s
  | some r =>
    if !s.writable o then s
    else match r.acc with
      | .rw =>
        if isPair o && r.kind == .lo then { s with hold := mapSet s.hold o (v &&& BitVec.ofNat 32 r.rw) }
        else if isPair o && r.kind == .hi then
          (s.takeHeld (o - 4)).writeReg o v
        else s.writeReg o v
      | .w1c => s.setReg o (s.reg o &&& ~~~(v &&& BitVec.ofNat 32 r.w1c))
      | _ => s

/-- CNT_CLR of a block whose control register has no other effect (R118): `n` counters from `lo`. -/
def State.cntClrAt (s : State) (on : Bool) (lo n : Nat) : State := if on then s.clearCounters lo n else s

/-- A write of HIF_CTRL (R452): CNT_CLR clears the block's counters and those of every ring pair. -/
def hifCtrlWrite (v : Word) (s : State) : State :=
  ((s.cntClrAt (v.getLsbD 0) (Reg.HIF_CNT_LO 0) 8).cntClrAt (v.getLsbD 0) (Reg.HIF_RP_CNT_LO 0 0) 64).plainWrite Reg.HIF_CTRL v

/-- A write of CAP_CTRL (R386). -/
def capCtrlWrite (v : Word) (s : State) : State := (s.cntClrAt (v.getLsbD 1) (Reg.CAP_CNT_LO 0) 9).plainWrite Reg.CAP_CTRL v

/-- A write of CAP_CH_CTRL (R386): ARM, ABORT and SWTRIG, in this order when several are written. -/
def capChCtrlWrite (c : Nat) (v : Word) (s : State) : State :=
  let s1 := if v.getLsbD 0 then capChArmRow c s else s
  let s2 := if v.getLsbD 1 then capChAbortRow c s1 else s1
  if v.getLsbD 2 then capChSwtrigRow c s2 else s2

/-- A write of one of the STANDBY calibration registers (R314): ignored with CAL_BUSY while a swap is pending. -/
def feCalWrite (o : Nat) (v : Word) (s : State) : State :=
  if s.fe.calPending.isSome then s.event Reg.FE_EVT 6 else s.plainWrite o v

/-- A write of RTC_FLAGS (R539): the three W1C flags of the backup domain. -/
def rtcFlagsWrite (v : Word) (s : State) : State :=
  s.modBkp fun b => { b with
    lowSeen := b.lowSeen && !v.getLsbD 1, bkpPor := b.bkpPor && !v.getLsbD 2, switched := b.switched && !v.getLsbD 3 }

/-- A write of RTC_TRIM (R539): clamped to −20,000 to +20,000. -/
def rtcTrimWrite (v : Word) (s : State) : State :=
  s.modBkp fun b => { b with trim := BitVec.ofNat 32 (toTwos 16 (max (-20000) (min 20000 (sext 16 v.toNat)))) }

/-- What a core reset finds when nothing goes wrong, for the writes of RTC_RST_CTRL that carry no more than their value. -/
def State.bootEnv (s : State) : BootEnv := ⟨s.hw.straps, true, true, true, true, true⟩

/-- A write of the register at offset r of engine e's block (R412). -/
def engRegAt (e r o : Nat) (v : Word) (s : State) : State :=
  let i := (r - 0x40) / 0x10
  if r = 0x30 then engCntCtrlWrite e v s
  else if 0x40 ≤ r ∧ r < 0xC0 then
    match (r - 0x40) % 0x10 with
    | 0x0 => engCntSelWriteRow e i v s
    | 0x8 =>
      let lo := ((mapFind s.hold (o - 4)).getD (s.reg (o - 4))).toNat
      engCntPreloadRow e i (lo + 2 ^ 32 * bitsOf v.toNat 0 16) { s with hold := mapDel s.hold (o - 4) }
    | _ => s.plainWrite o v
  else s.plainWrite o v

/-- A write of a register of the ENG blocks (R412). -/
def engRegWrite (o : Nat) (v : Word) (s : State) : State := engRegAt ((o - 0x100000) / 0x800) ((o - 0x100000) % 0x800) o v s

/-- A write of a register of the TB block (R81, R90, R97, R98). -/
def tbRegWrite (o : Nat) (v : Word) (s : State) : State :=
  if o = Reg.TB_SET_SEC_HI then tbSetApplyRow v s
  else if o = Reg.TB_LEAP_CTRL then tbLeapLoadRow v s
  else if 0x40100 ≤ o ∧ o < 0x40280 ∧ (o - 0x40100) % 0x40 = 0 then tbSrcCfgWriteRow ((o - 0x40100) / 0x40) v s
  else if o = Reg.TB_HOLD_LIMIT then (s.plainWrite o v).holdCheck
  else (s.pastNote o).plainWrite o v

/-- A write of a register of a MAC block (R101, R110, R118): one of MAC_PAUSE may let a queue go on. -/
def macRegWrite (o : Nat) (v : Word) (s : State) : State :=
  let p := (o - 0x50000) / 0x1000
  if (o - 0x50000) % 0x1000 = 0 then macCtrlWrite p v false s
  else if (o - 0x50000) % 0x1000 = 0x18 then (s.plainWrite o v).txStart p
  else ((if kindAt o .hi then s.pastNote (o - 4) else s).pastNote o).plainWrite o v

/-- A write of a register of the HIF block (R423 to R426, R452, R453). -/
def hifRegWrite (o : Nat) (v : Word) (s : State) : State :=
  if o = Reg.HIF_CTRL then hifCtrlWrite v s
  else if 0x10100 ≤ o ∧ o < 0x10500 ∧ (o - 0x10100) % 0x40 = 0 then ringCtrlWrite ((o - 0x10100) / 0x40) v s
  else s.plainWrite o v

/-- A write of a register of the ALN block (R186 to R188). -/
def alnRegWrite (o : Nat) (v : Word) (s : State) : State :=
  if o = Reg.ALN_CTRL then alnEnWriteRow v s
  else if o = Reg.ALN_RING_BASE_LO then alnRingBaseLoWrite v s
  else if o = Reg.ALN_RING_BASE_HI then alnRingBaseWriteRow v s
  else if o = Reg.ALN_PROBE_SEQ_HI then alnProbeRow v s
  else s.plainWrite o v

/-- A write of a register of the ALM block (R277, R270, R297). -/
def almRegWrite (o : Nat) (v : Word) (s : State) : State :=
  if o = Reg.ALM_CTRL then almCtrlWrite v s
  else if o = Reg.ALM_KEEPALIVE then almKeepaliveWrite v s
  else if o = Reg.ALM_PIN_FORCE then almPinForceWrite v s
  else if o = Reg.ALM_ACK then almAckGoRow v s
  else if o = Reg.ALM_HOST then almHostGoRow v s
  else s.plainWrite o v

/-- A write of a register of the FE block (R313, R314, R331). -/
def feRegWrite (o : Nat) (v : Word) (s : State) : State :=
  if o = Reg.FE_CTRL then feCtrlWrite v s
  else if o = Reg.FE_CAL_SWAP then feCalSwapGoRow v s
  else if 0xB0400 ≤ o ∧ o < 0xB0700 ∧ 0x10 ≤ (o - 0xB0400) % 0x20 ∧ (o - 0xB0400) % 0x20 < 0x1C then feCalWrite o v s
  else s.plainWrite o v

/-- A write of a register of the CAP block (R386). -/
def capRegWrite (o : Nat) (v : Word) (s : State) : State :=
  if o = Reg.CAP_CTRL then capCtrlWrite v s
  else if o = Reg.CAP_TRG_OUT then capTrgOutGo v s
  else if o = Reg.CAP_WIN_DATA then capWinWrite v s
  else if 0xD0100 ≤ o ∧ o < 0xD0200 ∧ (o - 0xD0100) % 0x40 = 0 then capChCtrlWrite ((o - 0xD0100) / 0x40) v s
  else s.plainWrite o v

/-- A write of a register of the PLT block (R411). -/
def pltRegWrite (o : Nat) (v : Word) (s : State) : State :=
  if o = Reg.PLT_CTRL then s.cntClrAt (v.getLsbD 0) (Reg.PLT_CNT_LO 0) 10
  else if o = Reg.PLT_ROT_CTRL then rotCtrlWrite v s
  else if o = Reg.PLT_CNT_CTRL then cntCtrlWrite v s
  else if o = Reg.PLT_TASK_SEL then taskProbeRow v s
  else if 0xF0020 ≤ o ∧ o < 0xF0038 then rlCapWriteRow ((o - 0xF0020) / 4) v s
  else s.plainWrite o v

/-- A write of a register of the FLT block (R492, R503, R504). -/
def fltRegWrite (o : Nat) (v : Word) (s : State) : State :=
  if o = Reg.FLT_CTRL then fltCtrlWrite v s
  else if o = Reg.FLT_FER_REL then fltFerReleaseRow v s
  else if o = Reg.FLT_INJECT then fltInjectGoRow v s
  else if o = Reg.FLT_RELEASE then fltReleaseGoRow v s
  else s.plainWrite o v

/-- A write of a register of the RTC block (R530, R536, R539). -/
def rtcRegWrite (o : Nat) (v : Word) (s : State) : State :=
  if o = Reg.RTC_CTRL then rtcCtrlWrite v s
  else if o = Reg.RTC_FLAGS then rtcFlagsWrite v s
  else if o = Reg.RTC_SET_FRAC then rtcSetFracWrite v s
  else if o = Reg.RTC_SET_SEC_HI then rtcSetSecWrite v s
  else if o = Reg.RTC_WAKE then s.modBkp fun b => { b with wakePeriod := BitVec.ofNat 32 (min (bitsOf v.toNat 0 25) 22118400) }
  else if o = Reg.RTC_TRIM then rtcTrimWrite v s
  else if o = Reg.RTC_RST_CFG then s.modBkp fun b => { b with perstScope := v.getLsbD 0 }
  else if o = Reg.RTC_RST_CTRL then rtcRstWrite v s.bootEnv s
  else s.plainWrite o v

/-- A write of a BAR0 register (R17): in a register whose chapter gives a write an action, that action; in every other one,
its access code. An action that finds something outside the write (a flash write, a received frame) finds it in order. -/
def State.regAct (s : State) (o : Nat) (v : Word) : State :=
  match blockOf o with
  | .hif => hifRegWrite o v s
  | .cfg => if o = Reg.CFG_SWIN_DATA then cfgSwinWrite v s else s.plainWrite o v
  | .pwr => if o = Reg.PWR_LTR then pwrLtrWrite v s else s.plainWrite o v
  | .tb => tbRegWrite o v s
  | .mac => macRegWrite o v s
  | .bin =>
    if o = Reg.BIN_CTRL then binCtrlWrite v s
    else if o = Reg.BIN_DIR_CTRL then dirCtrlWrite v s
    else if o = Reg.BIN_WIN_DATA then binWinWrite v s
    else s.plainWrite o v
  | .aln => alnRegWrite o v s
  | .osc => if o = Reg.OSC_CTRL then oscEnWriteRow v s else s.plainWrite o v
  | .isl =>
    if o = Reg.ISL_CTRL then islEnWriteRow v s
    else if o = Reg.ISL_NODE_SEL then islNodeProbeRow v s
    else if o = Reg.ISL_BR_SEL then islBranchProbeRow v s
    else s.plainWrite o v
  | .alm => almRegWrite o v s
  | .outp => if o = Reg.OUT_CTRL then outCtrlWrite v s else s.plainWrite o v
  | .fe => feRegWrite o v s
  | .mtr => if o = Reg.MTR_CTRL then mtrCtrlWrite v s else s.plainWrite o v
  | .cap => capRegWrite o v s
  | .logb =>
    if o = Reg.LOG_CTRL then s.cntClrAt (v.getLsbD 1) (Reg.LOG_CNT_LO 0) 7
    else if o = Reg.LOG_RING_BASE_HI then logRingBaseWriteRow v s
    else s.plainWrite o v
  | .plt => pltRegWrite o v s
  | .eng => engRegWrite o v s
  | .twn =>
    if o = Reg.TWN_CTRL then twnCtrlWrite v true s
    else if o = Reg.TWN_CFG then twnEnWriteRow v s
    else if o = Reg.TWN_DT_LIMIT then (s.plainWrite o v).dtDiffNote
    else s.plainWrite o v
  | .flt => fltRegWrite o v s
  | .bst => if o = Reg.BST_CTRL then bstCtrlWrite v s else s.plainWrite o v
  | .key => if o = Reg.KEY_CTRL then s.cntClrAt (v.getLsbD 0) (Reg.KEY_CNT_LO 0) 7 else s.plainWrite o v
  | .rtc => rtcRegWrite o v s
  | .dbg => if o = Reg.DBG_CTRL then dbgCtrlWrite v s else s.plainWrite o v
  | _ => s

/-- An aligned write of BAR0 by a master (R3, R4, R17, R49, R415, R450, R486). -/
def State.bar0Write (s : State) (o : Nat) (v : Word) (master : Nat) : State :=
  if s.blockAbsent o then s
  else if master = 62 ∧ blockOf o = .key then s
  else if (rowAt o).isNone then (if blockOf o = .id then s else s.accErr master true o)
  else s.busWrite o v master fun s => s.regAct o v

/-! ### Reads -/

/-- The half of a pair or the words of a timestamp group that a read of the first word latches (R16, R97). -/
def State.latchFrom (s : State) (o n : Nat) : State :=
  { s with latch := (List.range n).foldl (fun l i => mapSet l (o + 4 * (i + 1)) (s.viewReg (o + 4 * (i + 1)))) s.latch }

/-- What a read of a HI half, or of a later word of a timestamp group, returns (R16, R97): the word latched last; before any latch
what the register's Reset column gives. -/
def State.latched (s : State) (o : Nat) : Word :=
  match mapFind s.latch o with
  | some v => v
  | none => if o = Reg.CFG_RSV_BASE_HI then s.viewReg o else resetAt o

/-- The offset of a window after an access of its data register (R565). -/
def State.winStep (s : State) (o : Nat) : State :=
  match blockOf o with
  | .cfg => s.cfgSwinStep
  | .bin => s.binWinStep
  | .aln => s.alnWinStep
  | .osc => s.oscWinStep
  | .isl => s.islWinStep
  | .alm => s.almWinStep
  | .outp => s.outWinStep
  | .fe => s.feWinStep
  | .mtr => s.mtrWinStep
  | .cap => s.capWinStep
  | .logb => s.logWinStep
  | .flt => s.fltWinStep
  | _ => s

/-- A read of a register of an ENG block finds its counters at the values they have reached (R406). -/
def State.readCatch (s : State) (o : Nat) : State := if blockOf o = .eng then s.engCatchUp ((o - 0x100000) / 0x800) else s

/-- A read of CFG_ECC_ADDR_HI (R454): the half latched, and VALID is cleared. -/
def eccAddrHiRead (s : State) : State :=
  { (s.setFld Reg.CFG_ECC_ADDR_HI 31 1 0) with rdata := s.latched Reg.CFG_ECC_ADDR_HI }

/-- A read of a register (R16, R17, R97, R565) with the effect the manual gives it. A read of a word of an RTC group tells the RTC's
present fraction by what the model holds. -/
def State.readAct (s : State) (o : Nat) : State :=
  match rowAt o with
  | none => { s with rdata := 0 }
  | some r =>
    if o = Reg.LOG_NONCE_LO then logNonceReadRow s
    else if o = Reg.KEY_NONCE_LO then keyNonceRead s
    else if 0x150010 ≤ o ∧ o < 0x15001C then rtcGroupRead ((o - 0x150010) / 4) s.bkp.rtc.frac s
    else if o = Reg.BIN_CFGCHG_FIFO then cfgchgFifoReadRow s
    else if o = Reg.BIN_UNK_KEY then unkKeyReadRow s
    else if o = Reg.CFG_ECC_ADDR_HI then eccAddrHiRead s
    else if 0xC1000 ≤ o ∧ o < 0xC1C00 then
      if r.acc = .rc then mtrPeakRead o s
      else if (o - 0xC1000) % 0x400 = 0 then mtrPointLatch ((o - 0xC1000) / 0x400) s
      else { s with rdata := (mapFind s.latch o).getD (s.viewReg o) }
    else match r.acc, r.kind with
      | .rc, _ => { (s.setReg o 0) with rdata := s.viewReg o }
      | _, .win => { (s.winStep o) with rdata := s.viewReg o }
      | _, .lo =>
        let s1 := s.readCatch o
        if isPair o then { (s1.latchFrom o 1) with rdata := s1.viewReg o } else { s1 with rdata := s1.viewReg o }
      | _, .hi => { s with rdata := if isPair o then s.latched o else s.viewReg o }
      | _, .ts => { (s.latchFrom o 3) with rdata := s.viewReg o }
      | _, .ts3 => { (s.latchFrom o 2) with rdata := s.viewReg o }
      | _, .tail => { s with rdata := s.latched o }
      | _, .plain => { s with rdata := s.viewReg o }

/-- An aligned read of BAR0 by a master (R3, R4, R17, R49, R415, R450). -/
def State.bar0Read (s : State) (o master : Nat) : State :=
  if s.blockAbsent o then { s with rdata := 0 }
  else if master = 62 ∧ blockOf o = .key then { s with rdata := 0 }
  else if (rowAt o).isNone then
    (if blockOf o = .id then { s with rdata := 0 } else { (s.accErr master false o) with rdata := 0 })
  else s.busRead o master fun s => s.readAct o

/-! ### BAR2 (R410, R420, R426) -/

/-- A doorbell write taken by its ring pair (R426). -/
def State.doorbellTake (s : State) (n : Nat) (cq : Bool) (v : Word) : State := if cq then cqHeadDoorbell n v s else sqTailDoorbell n v s

/-- A doorbell write (R426, R450): outside FULL it wakes the device and completes after the exit. -/
def State.doorbell (s : State) (n : Nat) (cq : Bool) (v : Word) : State :=
  if s.pwr.state = 0 then s.doorbellTake n cq v else s.holdAccess ⟨true, 8 * n + 4 * b2n cq, some v, 63⟩ 1

/-- An aligned write of BAR2: a doorbell, or an access error (R410, R420). -/
def State.bar2Write (s : State) (o : Nat) (v : Word) : State :=
  if o < 0x80 then s.doorbell (o / 8) (o % 8 == 4) v else s.accErr 63 true (2 ^ 32 + o)

/-- A read of the counter page (R410): the word at offset r of engine e's part; a LO word latches the HI (R16). Without the engine's bit in
COUNTER_USER_EN every word reads zero, a HI half latched before included. -/
def State.counterPageRead (s : State) (e r key : Nat) : State :=
  if r < 0x48 ∧ r % 8 = 0 then
    { s with latch := mapSet s.latch (key + 4) (s.counterPageWord e (r + 4)), rdata := s.counterPageWord e r }
  else if r < 0x48 ∧ r % 8 = 4 then { s with rdata := if s.bit Reg.PLT_CNT_USER e then (mapFind s.latch key).getD 0 else 0 }
  else { s with rdata := s.counterPageWord e r }

/-- An aligned read of BAR2: doorbells read zero, the counter page shows an enabled engine's counters, of which a read of a LO word
latches the HI (R16, R410). -/
def State.bar2Read (s : State) (o : Nat) : State :=
  if o < 0x80 then { s with rdata := 0 }
  else if 0x1000 ≤ o ∧ o < 0x2000 then
    (if s.hasEng ((o - 0x1000) / 128) then s.engCatchUp ((o - 0x1000) / 128) else s).counterPageRead ((o - 0x1000) / 128)
      ((o - 0x1000) % 128) (2 ^ 32 + o)
  else { (s.accErr 63 false (2 ^ 32 + o)) with rdata := 0 }

/-! ### The access rows -/

/-- REGISTER_WRITE (R17): an aligned write of BAR0 by the host. -/
def registerWriteRow (o : Nat) (v : Word) (s : State) : State := if o % 4 = 0 then s.bar0Write o v 63 else s

/-- An aligned 64-bit write of the MSI-X table (R423): both words at once. -/
def State.bar0Write64 (s : State) (o v : Nat) : State :=
  (s.bar0Write o (BitVec.ofNat 32 v) 63).bar0Write (o + 4) (BitVec.ofNat 32 (v / 2 ^ 32)) 63

/-- An aligned 64-bit read of the MSI-X table or the pending bits (R423): `rdata` holds its upper word, which came last. -/
def State.bar0Read64 (s : State) (o : Nat) : State := (s.bar0Read o 63).bar0Read (o + 4) 63

/-- MISSIZED_ACCESS (R15, R3, R423): an access that is not an aligned word is not performed and is recorded, but in the block of
an absent unit or engine; an aligned word is an ordinary access; the MSI-X table and the pending bits take aligned 64-bit accesses. The row
has no operand for what is written: that is a free value. -/
def missizedRow (bar2 : Bool) (o size : Nat) (write : Bool) (s : State) : State :=
  if size = 4 ∧ o % 4 = 0 then
    match bar2, write with
    | false, true => s.freshNext.bar0Write o (BitVec.ofNat 32 s.freshVal) 63
    | false, false => s.bar0Read o 63
    | true, true => s.freshNext.bar2Write o (BitVec.ofNat 32 s.freshVal)
    | true, false => s.bar2Read o
  else if !bar2 ∧ size = 8 ∧ o % 8 = 0 ∧ ((0x18000 ≤ o ∧ o < 0x18400) ∨ (0x19000 ≤ o ∧ o < 0x19008)) then
    if write then s.freshNext.bar0Write64 o s.freshVal else s.bar0Read64 o
  else
    let s1 := if write then s else { s with rdata := 0 }
    if !bar2 && s.blockAbsent o then s1 else s1.accErr 63 write (if bar2 then 2 ^ 32 + o else o)

/-- UNMAPPED_ACCESS (R49): an aligned access of an offset to which no register is assigned. -/
def unmappedRow (o : Nat) (write : Option Word) (s : State) : State :=
  if o % 4 ≠ 0 ∨ (rowAt o).isSome then s
  else match write with
    | some v => s.bar0Write o v 63
    | none => s.bar0Read o 63

/-- PAIR_LO_READ (R16). -/
def pairLoReadRow (o : Nat) (s : State) : State := if kindAt o .lo then s.bar0Read o 63 else s

/-- PAIR_HI_WRITE (R16). -/
def pairHiWriteRow (o : Nat) (v : Word) (s : State) : State := if kindAt o .hi then s.bar0Write o v 63 else s

/-- RC_READ (R17). -/
def rcReadRow (o : Nat) (s : State) : State := if (rowAt o).any fun r => r.acc == .rc then s.bar0Read o 63 else s

/-- TIMESTAMP_SUBNS_READ (R97). -/
def timestampReadRow (o : Nat) (s : State) : State := if kindAt o .ts || kindAt o .ts3 then s.bar0Read o 63 else s

/-- WINDOW_DATA_ACCESS (R565). A write of a window that is read-only is ignored. -/
def windowDataRow (o : Nat) (write : Option Word) (s : State) : State :=
  if kindAt o .win then
    match write with
    | some v => s.bar0Write o v 63
    | none => s.bar0Read o 63
  else s

/-- The bit of a block's control register that is CNT_CLR; none where the offset is no such register. -/
def cntClrBit (o : Nat) : Option Nat :=
  if o = Reg.HIF_CTRL ∨ o = Reg.PLT_CTRL ∨ o = Reg.TWN_CTRL ∨ o = Reg.FLT_CTRL ∨ o = Reg.KEY_CTRL then some 0
  else if o = Reg.BIN_CTRL ∨ o = Reg.ALN_CTRL ∨ o = Reg.OSC_CTRL ∨ o = Reg.ISL_CTRL ∨ o = Reg.ALM_CTRL ∨ o = Reg.OUT_CTRL ∨
      o = Reg.FE_CTRL ∨ o = Reg.MTR_CTRL ∨ o = Reg.CAP_CTRL ∨ o = Reg.LOG_CTRL then some 1
  else if blockOf o = .mac ∧ (o - 0x50000) % 0x1000 = 0 ∧ o < 0x56000 then some 2
  else none

/-- COUNTER_CLEAR (R118): a write of a block's control register with CNT_CLR set. -/
def counterClearRow (o : Nat) (v : Word) (s : State) : State :=
  match cntClrBit o with
  | some b => if v.getLsbD b then s.bar0Write o v 63 else s
  | none => s

/-- ECC_ADDR_READ (R454). -/
def eccAddrReadRow (s : State) : State := s.bar0Read Reg.CFG_ECC_ADDR_HI 63

/-- What MEMAP presents (R415): DONE, ERR and the data read. -/
def State.memapShow (s : State) (err : Bool) (data : Word) : State :=
  let v := 2 ^ 65 + b2n err * 2 ^ 64 + data.toNat
  (s.modDbg fun d => { d with dr := v }).emit (.tdo v)

/-- A MEMAP access (R415): one that is not performed, in an absent block included (R15), or is an access error, presents ERR. -/
def State.memapAccess (s : State) (o : Nat) (write : Option Word) : State :=
    let s1 := (s.tapLoad 0x12).count (Reg.DBG_CNT_LO 2)
    if o % 4 ≠ 0 then
      (if s1.blockAbsent o then s1 else s1.accErr 62 write.isSome o).memapShow true 0
    else
      let held := s1.pwr.waiting.length
      let s2 := match write with
        | some v => s1.bar0Write o v 62
        | none => s1.bar0Read o 62
      if held < s2.pwr.waiting.length then s2.modDbg fun d => { d with dr := 0 }
      else s2.memapShow (s1.blockAbsent o || ((rowAt o).isNone && blockOf o != .id)) (if write.isSome then 0 else s2.rdata)

/-- An Update-DR of MEMAP (R415): [65:64] OP, of which 0 is NOP and 3 is taken as NOP, [55:32] the offset, [31:0] the data; BYPASS below
LEVEL REGISTER. -/
def State.memap (s : State) (dr : Nat) : State :=
  if s.portDis || s.dbg.level == 0 then s.tapBypass
  else match bitsOf dr 64 2 with
    | 1 => s.memapAccess (bitsOf dr 32 24) none
    | 2 => s.memapAccess (bitsOf dr 32 24) (some (BitVec.ofNat 32 dr))
    | _ => s.tapLoad 0x12

/-- The data register of a MEMAP operation (R415). -/
def memapDr (op o : Nat) (v : Word) : Nat := op * 2 ^ 64 + (o % 2 ^ 24) * 2 ^ 32 + v.toNat

/-- MEMAP_READ (R415). -/
def memapReadRow (o : Nat) (s : State) : State := s.memap (memapDr 1 o 0)

/-- MEMAP_WRITE (R415). -/
def memapWriteRow (o : Nat) (v : Word) (s : State) : State := s.memap (memapDr 2 o v)

/-- An access that waited for an exit is performed (R450); one of the debug port is then presented (R415). -/
def State.performHeld (s : State) (h : HeldAccess) : State :=
  let s1 := match h.bar2, h.write with
    | true, some v => s.doorbellTake (h.off / 8) (h.off % 8 == 4) v
    | _, some v => s.bar0Write h.off v h.master
    | _, none => s.bar0Read h.off h.master
  if h.master = 62 then s1.memapShow false (if h.write.isSome then 0 else s1.rdata) else s1

/-- POWER_STATE_EXIT_DONE (R448, R449, R450): the exit under way completes, the device is in FULL and the waiting accesses are
performed in order. -/
def powerStateExitDoneRow (s : State) : State :=
  if s.pwr.exiting then
    let s1 := s.pwrEnter 0
    s1.pwr.waiting.foldl State.performHeld { s1 with pwr := { s1.pwr with waiting := [] } }
  else s

end Sys2Proof.Machine
end

