-- ==== Sys2Proof/Machine/Commit.lean ====
section
/-! DEFINITION. Commits (R441 to R444): the end of validation, the effective instant, the refusal, and the exchange of ACTIVE and
SHADOW with what each unit takes from its section. -/

namespace Sys2Proof.Machine

/-- The first whole TAI second of DT at least 10 ms after now (R441). -/
def State.commitWhole (s : State) : Nat := (s.dt + 10 * subPerMs + subPerSec - 1) / subPerSec

/-- E of a commit with the second and index of E (R441); none when a named instant is not on the grid, or is too early. While no
grid is delivered, and for the boot load (R444), E is a whole second. -/
def State.commitInstant (s : State) (c : Commit) : Option (Nat × Nat × Nat) :=
  let w := s.commitWhole
  if s.tb.grid.rate = 0 ∨ c.mid.isNone then some (w, 0, w * subPerSec)
  else if c.modeAbs then
    let r := s.rateAhead c.absSec
    let t := instantAt r c.absSec c.absK
    match s.instantAfter s.dt 2 with
    | some (_, _, first) => if r ≠ 0 ∧ c.absK < r ∧ first ≤ t then some (c.absSec, c.absK, t) else none
    | none => none
  else some ((s.instantAfter s.dt (max c.n 2)).getD (w, 0, w * subPerSec))

/-- The COMMIT record of the logbook (R381): CFG_GEN, the skipped sections, the completion's status. -/
def State.commitRecord (s : State) (ev skipped status : Nat) : State :=
  s.logRaise 4 (unitCode 17) ev ((leBytes 4 s.cfg.gen ++ leBytes 2 skipped ++ leBytes 1 status).map (·.toNat))

/-- A commit is refused (R443): ACTIVE stays, SHADOW is unlocked, CFG_LAST_REFUSE and CFG_LAST_ENTRY hold the fault. At boot
ACTIVE stays the factory default set (R444). -/
def State.commitRefuse (s : State) (c : Commit) (f : CfgFault) : State :=
  let s1 := s.dropCommit
  let s2 := ((s1.setReg Reg.CFG_LAST_REFUSE (BitVec.ofNat 32 (f.typ + 2 ^ 16 * f.tab + 2 ^ 24 * f.reason))).setReg
    Reg.CFG_LAST_ENTRY (BitVec.ofNat 32 f.idx)).event Reg.CFG_EVT 1
  let s3 := s2.commitRecord 1 c.skipped stRefused
  match c.mid with
  | none => { s3 with cfg := { s3.cfg with bootResult := 3, defaults := true } }
  | some m =>
    s3.finish m stRefused 0 (leBytes 2 f.typ ++ leBytes 1 f.tab ++ [0] ++ leBytes 4 f.idx ++ leBytes 1 f.reason)

/-- The directory's own report of a directory section that is refused (R143). -/
def State.commitDirReport (s : State) (c : Commit) : State :=
  match if c.withDir then s.bin.other.fault s.berthCount else none with
  | some f => s.dirRefuse f
  | none => s

/-- Validation of a commit completes (R441, R142): it is refused with the first fault, or E is fixed. -/
def commitValidationRow (s : State) : State :=
  match s.cfg.commit with
  | none => s
  | some c =>
    if c.validated then s
    else
      let set := s.cfg.shadow
      let when_ := s.commitInstant c
      let bank := if c.withDir then bankOf set else s.bankAt ((when_.map (·.2.2)).getD s.dt)
      match s.setFault set c.withDir bank with
      | some f => (s.commitDirReport c).commitRefuse c f
      | none =>
        match when_ with
        | none => s.commitRefuse c ⟨1, 15, 0, 7⟩
        | some (sec, k, e) =>
          let s1 := { s with cfg := { s.cfg with
            defaults := false, commit := some { c with validated := true, eff := e, effSec := sec, effK := k } } }
          if c.withDir then (s1.dirFix sec k e).modBin fun b => { b with commitHold := true } else s1

/-! ### The exchange (R442) -/

/-- A unit's registers written from its section of ACTIVE (R438): each listed register by what a write of it does, without the
bits that only start something. -/
def State.applySection (s : State) (typ : Nat) : State :=
  if typ = 1 ∨ !s.sectionPresent typ then s
  else (listedRegs typ).foldl (fun (s : State) o =>
    let a := sectionBase typ + o
    match rowAt a with
    | some r => s.regAct a (cfgWord s.cfg.active typ 15 o &&& BitVec.ofNat 32 r.rw)
    | none => s) s

/-- The section from which a released subsystem is configured again (R492). -/
def unitSection (n : Nat) : Nat :=
  match n with
  | 9 => 0x09
  | 10 => 0x0A
  | 12 => 0x0B
  | 22 => 0x0E
  | _ => 1

/-- Released units take their section of ACTIVE (R492). -/
def State.reinitUnits (s : State) : State :=
  s.flt.reinit.foldl (fun (s : State) n => s.applySection (unitSection n)) (s.modFlt fun f => { f with reinit := [] })

/-- The sets of earlier generations that a quay still uses (R184, R260). -/
def State.keepSets (s : State) : State :=
  let kept := mapSet s.cfg.kept s.cfg.gen s.cfg.active
  { s with cfg := { s.cfg with kept := kept.filter fun k => s.aln.quays.any fun q => q.useGen == k.1 }
           bin := { s.bin with served := s.bin.served.filter fun x => s.aln.quays.any fun q => q.useGen == x.1 } }

/-- A committed rate takes effect on the grid at the first whole second at or after E (R94). -/
def State.commitRate (s : State) (rate : Nat) : State :=
  if rate = s.tb.nextRate.getD s.tb.grid.rate then s else s.modTb fun b => { b with nextRate := some rate }

/-- OSC_EVT.SIG_STALE and ISL_EVT.TOPO_STALE after a directory apply or a new set (R213, R261). -/
def State.staleNotes (s : State) : State := s.oscStaleNote.islStaleNote

/-- The swap at E (R442, R444): ACTIVE and SHADOW exchange, what the change restarts is noted (R212, R260, R324), CFG_GEN advances, the units take their sections, and the completion is
queued. The first set drives the lighthouse pins; the boot set brings the twin unit up (R457, R477). -/
def State.commitSwap (s : State) (c : Commit) : State :=
  let s1 := ((s.keepSets.oscCommitted s.cfg.active s.cfg.shadow c.eff).islCommitted s.cfg.active s.cfg.shadow c.eff).lpeCommitted
    s.cfg.active s.cfg.shadow c.eff
  let s2 := ({ s1 with cfg := { s1.cfg with
    active := s.cfg.shadow, shadow := s.cfg.active, gen := (s.cfg.gen + 1) % 2 ^ 32, activeFrom := c.eff, activeValid := true
    commit := none } }).event Reg.CFG_EVT 0
  let s3 := (s2.commitRate (setRate s2.cfg.active)).commitRecord 0 c.skipped stDone
  let s4 := (List.range 15).foldl (fun (s : State) i => if i = 9 ∧ s.fe.mclk then s else s.applySection (i + 1)) s3
  let s4b := (s4.modAlm fun a => { a with pinsDriven := true }).pinsDrive
  let s5 := if c.withDir then s4b else s4b.staleNotes
  let s6 := if c.mid.isNone then s5.twnBoot else s5
  s6.finishOpt c.mid stDone s6.cfg.gen (tsBytes c.eff ++ leBytes 1 c.skipped)

/-- The commit whose E has come takes effect (R442). -/
def State.commitAt (s : State) (t : Nat) : State :=
  match s.cfg.commit with
  | some c => if c.validated ∧ c.eff ≤ t then s.commitSwap c else s
  | none => s

/-- A directory apply whose E has come takes effect (R141), with what it leaves stale (R213, R261). -/
def State.dirAt (s : State) (t : Nat) : State :=
  let s1 := s.dirApplyAt t
  if s1.reg Reg.BIN_DIR_GEN = s.reg Reg.BIN_DIR_GEN then s1 else s1.staleNotes

end Sys2Proof.Machine
end

