-- ==== Sys2Proof/Machine/Clock.lean ====
section
/-! DEFINITION. The commands that device time brings: a reporting instant (R20, R32, R93, R95) and a whole TAI second (R81, R83,
R90, R94, R480, R527), each with what happens at that moment. -/

namespace Sys2Proof.Machine

/-- The instant after (sec, k) on a grid of a rate. -/
def nextIndex (rate sec k : Nat) : Nat × Nat := if k + 1 < rate then (sec, k + 1) else (sec + 1, 0)

/-- The grid moves past an instant, whose time-quality word is kept (R84); the words of the newest 1,024 instants are held. `late` says
that a forward step has passed it (R32). -/
def State.gridPast (s : State) (rate sec k t : Nat) (late : Bool) (w : BitVec 16) : State :=
  let n := nextIndex rate sec k
  s.modTb fun b => { b with
    tq := w, tqHist := ((t, w) :: b.tqHist).take 1024, stepSince := false, lastInstant := t, grid := ⟨rate, n.1, n.2⟩,
    passed := if late then (t :: b.passed).take 1024 else b.passed, lastOnTime := if late then b.lastOnTime else t }

/-- SETTLED_ONLY and the sections of released units, from a reporting instant on (R489, R492). -/
def State.instantUnits (s : State) : State :=
  (s.modPlt fun p => { p with settledOnly := s.flt.settledReq }).reinitUnits

/-- The step that ends an instant (R79, R81, R95): to the active source when the rules ask for one, else a pending set. -/
def State.instantStep (s : State) (step : Bool) : State :=
  if step then s.dtStep (s.offsetOf s.tb.active) else s.applySet

/-- A reporting instant (R93, R95, R442): what takes effect at it, the choice of the active source, the event with its time-quality
word to alignment, what else is keyed to it, and then a step. `late` says that a forward step has passed it (R32). -/
def State.deliverInstant (s : State) (rate sec k t : Nat) (late : Bool) : State :=
  let s1 := (s.commitAt t).dirAt t
  let (s2, changed, step) := s1.tbInstant t
  let w := s2.tqWord sec changed
  let s3 := (s2.gridPast rate sec k t late w).alnInstant sec k rate late w
  ((s3.instantUnits.sealStart t).hoAtInstant t).instantStep step

/-- REPORTING_INSTANT (R93): the next instant of the grid, once the second that holds it has begun. -/
def reportingInstantRow (s : State) : State :=
  let g := s.tb.grid
  let t := instantAt g.rate g.sec g.k
  if g.rate ≠ 0 ∧ g.sec ≤ s.tb.lastSec then (s.advance t).deliverInstant g.rate g.sec g.k t (decide (t < s.tb.lateTo))
  else s

/-- The TAI second that comes next: the one after the last while a grid is delivered; without one, nothing is keyed to the seconds
that a forward step has passed, and the newest of them counts (R32). -/
def State.nextSecond (s : State) : Nat := if s.tb.grid.rate ≠ 0 then s.tb.lastSec + 1 else max (s.tb.lastSec + 1) (secOf s.dt)

/-- LEAP_APPLIED for a leap moment that a step has passed without a second of its own (R90, R32). -/
def State.leapPassed (s : State) (from_ sec : Nat) : State :=
  if (leapsOf s.tb.leap).any fun x => decide (from_ < x.2.2) && decide (x.2.2 < sec) then s.tbEvent 4 else s

/-- A change of the grid at a whole second (R94). -/
def State.gridChange (s : State) (sec : Nat) : State :=
  match s.tb.nextRate with
  | some r => (s.modTb fun b => { b with grid := ⟨r, sec, 0⟩, grids := (sec, r) :: b.grids, nextRate := none }).alnNote
  | none => s

/-- What a whole TAI second does at the time t at which it begins: a commit and a directory apply whose E it is, the change of grid,
the leap table and holdover (R83, R90), the RTC's synchronisation with the RTC's fraction at that moment (R527), the test pulses of
the fault pairs, of which `healed` pass (R480), and a pending time set where no grid is left to deliver an instant (R81). -/
def State.secondAt (s : State) (frac : Nat) (healed : List Nat) (sec t : Nat) : State :=
  let s1 := (((s.advance t).commitAt t).dirAt t).gridChange sec
  let s2 := ((s1.leapPassed s.tb.lastSec sec).modTb fun b => { b with lastSec := sec }).tbSecond sec
  let s3 := (s2.rtcSync sec frac (s2.tb.dtState == .locked) s2.tb.active).healPairs healed
  if s3.tb.grid.rate = 0 then s3.applySet else s3

/-- WHOLE_TAI_SECOND (R94): the next whole second, once every instant before it has been delivered. -/
def wholeSecondRow (frac : Nat) (healed : List Nat) (s : State) : State :=
  if s.tb.grid.rate ≠ 0 ∧ s.tb.grid.sec < s.nextSecond then s
  else s.secondAt frac healed s.nextSecond (s.nextSecond * subPerSec)

end Sys2Proof.Machine
end

