-- ==== Sys2Proof/Machine/After.lean ====
section
/-! DEFINITION. What follows every command: settlements that waited, the composer's and the capture engine's part in a quay that has
settled or sealed, the end of a hand-over that a stop waits for, spilled copies, the power logic and the MSI-X messages. -/

namespace Sys2Proof.Machine

/-! ### Quays -/

/-- A task of the oscillation or the islanding unit starts: a provisional evaluation takes its detector's snapshot (R164, R166), and a
settlement evaluation its base (R197, R249); what the task reads of the quays and of the island lists stands from then on (R192, R229,
R243, R252). -/
def State.taskStarts (s : State) (t : Task) : State :=
  match s.taskQuay t, t.owner, t.typ with
  | some q, 37, 1 => s.takeSnapshot q.seq 0
  | some q, 37, 2 => (s.oscRebase q.seq t.arg).oscReadFix q.seq t.arg 2 [q]
  | some q, 37, 3 => s.oscReadFix q.seq t.arg 3 (s.oscFoldTaken t.arg q)
  | some q, 38, 1 => (s.islSnapshot q.seq).islReadFix q 1
  | some q, 38, 2 => (s.islRebase q.seq).islReadFix q 2
  | some q, 38, 3 => s.islReadFix q 3
  | _, _, _ => s

/-- The tasks that a step has started. A task that starts again after it was pre-empted, waited or migrated keeps its snapshot and its
base (R216, R254). -/
def State.startSnapshots (s0 s1 : State) : State :=
  let new := s1.plt.tasks.filter fun t => t.2.st == .running && !(s0.task t.1).begun
  new.foldl (fun (s : State) t => s.taskStarts t.2) s1

/-- The quays that have reached SETTLE_DONE in a step. -/
def newlySettled (s0 s1 : State) : List Quay :=
  s1.aln.quays.filter fun q => q.settleDone && !(match s0.quay? q.seq with | some x => x.settleDone | none => false)

/-- The instant after that of a quay, on its grid. -/
def Quay.nextInstant (q : Quay) : Nat := let n := nextIndex q.rate q.sec q.k; instantAt q.rate n.1 n.2

/-- Each quay that has reached SETTLE_DONE gives every channel with SNAP an entry (R366). -/
def State.snapAfter (s : State) (qs : List Quay) : State :=
  if s.hasCap && !s.unitFenced 13 then
    qs.foldl (fun (s : State) q => s.capSnap q.seq q.instant q.nextInstant q.tq q.lane) s
  else s

/-- The DRAM copy of a quay that was spilled before it is sealed follows each write into it (R176). -/
def State.spillSync (s0 s1 : State) : State :=
  (s1.aln.quays.filter fun q => q.spilled && q.state != .sealed && s0.quay? q.seq != some q).foldl State.quayStore s1

/-! ### MSI-X (R422, R423) -/

/-- The event and event-enable registers of the sources 32 to 58. -/
def evtRegs : List (Nat × Nat) :=
  [(Reg.HIF_EVT, Reg.HIF_EVT_EN), (Reg.CFG_EVT, Reg.CFG_EVT_EN), (Reg.PWR_EVT, Reg.PWR_EVT_EN), (Reg.TB_EVT, Reg.TB_EVT_EN)] ++
    ((List.range 6).map fun p => (Reg.MAC_EVT p, Reg.MAC_EVT_EN p)) ++
    [(Reg.BIN_EVT, Reg.BIN_EVT_EN), (Reg.ALN_EVT, Reg.ALN_EVT_EN), (Reg.OSC_EVT, Reg.OSC_EVT_EN), (Reg.ISL_EVT, Reg.ISL_EVT_EN),
     (Reg.ALM_EVT, Reg.ALM_EVT_EN), (Reg.OUT_EVT, Reg.OUT_EVT_EN), (Reg.FE_EVT, Reg.FE_EVT_EN), (Reg.MTR_EVT, Reg.MTR_EVT_EN),
     (Reg.CAP_EVT, Reg.CAP_EVT_EN), (Reg.LOG_EVT, Reg.LOG_EVT_EN), (Reg.PLT_EVT, Reg.PLT_EVT_EN), (Reg.TWN_EVT, Reg.TWN_EVT_EN),
     (Reg.FLT_EVT, Reg.FLT_EVT_EN), (Reg.BST_EVT, Reg.BST_EVT_EN), (Reg.KEY_EVT, Reg.KEY_EVT_EN), (Reg.RTC_EVT, Reg.RTC_EVT_EN),
     (Reg.DBG_EVT, Reg.DBG_EVT_EN)]

/-- The OVF_IRQ bits of an engine's counters. -/
def State.ovfIrq (s : State) (e : Nat) : Nat := ((List.range 8).map fun i => 2 ^ i * b2n (s.bit (Reg.ENG_CNT_SEL e i) 9)).sum

/-- Whether an event source is asserted (R422). -/
def State.asserted (s : State) (i : Nat) : Bool :=
  if i < 16 then s.msix.due.getLsbD i
  else if i < 32 then (s.ring (i - 16)).st == .error
  else if i < 59 then
    let r := nth (0, 0) evtRegs (i - 32)
    !s.blockAbsent r.1 && (s.reg r.1 &&& s.reg r.2) != 0
  else if 64 ≤ i ∧ i < 96 then
    s.hasEng (i - 64) && (s.reg (Reg.ENG_CNT_OVF (i - 64))).toNat &&& s.ovfIrq (i - 64) != 0
  else false

/-- The map byte of a source: its vector when its EN is 1. -/
def State.vectorOf (s : State) (i : Nat) : Option Nat :=
  let b := s.fld (Reg.HIF_MSIX_MAP (i / 4)) (8 * (i % 4)) 8
  if bitOf b 7 then some (b % 64) else none

/-- Whether a vector may send (R423): neither it nor the function is masked, and Bus Master Enable is 1. -/
def State.vectorOpen (s : State) (v : Nat) : Bool := !s.bit (Reg.HIF_MSIX_CTRL v) 0 && !s.hif.pcie.msixMask && s.hif.pcie.bme

/-- A vector's message (R423): sent, or its pending bit set while the vector may not send. -/
def State.msixSignal (s : State) (v : Nat) : State :=
  if !s.vectorOpen v then
    { s with msix := { s.msix with pba := s.msix.pba ||| BitVec.ofNat 64 (2 ^ v) } }
  else
    { s.emit (.msix ((s.reg (Reg.HIF_MSIX_ADDR_LO v)).toNat + 2 ^ 32 * (s.reg (Reg.HIF_MSIX_ADDR_HI v)).toNat) (s.reg (Reg.HIF_MSIX_DATA v)))
      with msix := { s.msix with pba := s.msix.pba &&& ~~~(BitVec.ofNat 64 (2 ^ v)) } }

/-- The messages of a step (R423): the sources that have become asserted, then the pending vectors that are masked no more. -/
def State.msixAfter (s0 s1 : State) : State :=
  let rising := (List.range 96).filter fun i => s1.asserted i && (!s0.asserted i || i < 16)
  let s2 := (rising.filterMap s1.vectorOf).foldl State.msixSignal s1
  let s3 := { s2 with msix := { s2.msix with due := 0 } }
  if s3.msix.pba = 0 then s3
  else ((List.range 64).filter fun v => s3.msix.pba.getLsbD v && s3.vectorOpen v).foldl State.msixSignal s3

/-! ### All of it -/

/-- The engine that was OUT before a command begins its action (R401). -/
def State.rotAfter (s0 s1 : State) : State :=
  match s0.plt.rot with
  | some r => if (s0.engine r.engine).rstate = .out then s1.rotBegin else s1
  | none => s1

/-- What the units make of a step at once. -/
def State.unitsAfter (s0 s1 : State) : State :=
  let s2 := (State.startSnapshots s0 (State.rotAfter s0 s1)).alnNote.detSettleAll.sealsAfter
  let s3 := (State.composeAfter s0 s2).snapAfter (newlySettled s0 s2)
  State.spillSync s0 (s3.afterHandover.shutdownGo.mtrRefuseEnd)

/-- The state after a command, from the one before it and the one its own effect leaves. -/
def State.after (s0 s1 : State) : State := State.msixAfter s0 (State.pwrAfter s0 (State.unitsAfter s0 s1))

end Sys2Proof.Machine
end

