-- ==== Sys2Proof/Machine/CmdAlarm.lean ====
section
/-! DEFINITION. The meanings of the commands: the alarm unit. Each is the command's own effect followed by what every command
brings with it. -/

namespace Sys2Proof.Machine

/-- R275: The alarm unit takes a decision, settle notice, direct raise or clear on the ALM channel and updates a slot. -/
def execAlarmInput (s : State) : Host.Outcome State Fault Refusal :=
  .next (State.after s (alarmInputRow s))

/-- R277: An acknowledgement of a slot and GEN is evaluated and applied. -/
def execAlarmAcknowledge (slot : Nat) (gen : Nat) (s : State) : Host.Outcome State Fault Refusal :=
  .next (State.after s (alarmAcknowledgeRow slot gen s))

/-- R297: A write of ALM_ACK with GO starts an acknowledgement. -/
def execAlmAckGo (v : Word) (s : State) : Host.Outcome State Fault Refusal :=
  .next (State.after s (s.busWrite Reg.ALM_ACK v 63 (almAckGoRow v)))

/-- R297: A write of ALM_HOST with GO makes a host raise or clear. -/
def execAlmHostGo (v : Word) (s : State) : Host.Outcome State Fault Refusal :=
  .next (State.after s (s.busWrite Reg.ALM_HOST v 63 (almHostGoRow v)))

/-- R279: A PULSE-mode pin's width expires and it returns to inactive. -/
def execLhPulseEnd (pin : Nat) (s : State) : Host.Outcome State Fault Refusal :=
  .next (State.after s (lhPulseEndRow pin s))

/-- R283: An alarm message is closed after 10 µs from its first entry and sent. -/
def execAlmMessageClose (dest : Nat) (s : State) : Host.Outcome State Fault Refusal :=
  .next (State.after s (almMessageCloseRow dest s))

/-- R285: REPEAT_GAP expires and a repeat copy of an alarm message is sent. -/
def execAlmMessageRepeat (dest : Nat) (s : State) : Host.Outcome State Fault Refusal :=
  .next (State.after s (almMessageRepeatRow dest s))

/-- R285: ALM_KEEPALIVE ms have passed and a keepalive message is sent to a destination. -/
def execAlmKeepalive (dest : Nat) (s : State) : Host.Outcome State Fault Refusal :=
  .next (State.after s (almKeepaliveRow dest s))

end Sys2Proof.Machine
end

