-- ==== Sys2Proof/Machine/CmdBus.lean ====
section
/-! DEFINITION. The meanings of the commands: the access rows, resets and the PCI Express link. Each is the command's own effect followed by what every command
brings with it. -/

namespace Sys2Proof.Machine

/-- R537: A core reset of a cause of R536: every core unit in its reset state, the straps sampled, the start sequence run. -/
def execCoreReset (cause : Nat) (env : BootEnv) (s : State) : Host.Outcome State Fault Refusal :=
  .next (State.after s (coreResetRow cause env s))

/-- R536: PERST_N low resets the PCI Express controller and the HIF block, or the core when PERST_SCOPE is 1. -/
def execPerstNAssert (env : BootEnv) (s : State) : Host.Outcome State Fault Refusal :=
  .next (State.after s (perstRow env s))

/-- R421: An FLR (kind 0), a hot reset (1) or a link-down (2) resets the HIF block alone. -/
def execHifReset (kind : Nat) (s : State) : Host.Outcome State Fault Refusal :=
  .next (State.after s (hifReset kind s))

/-- R421: A change of Bus Master Enable stops or resumes fetching and releases held completions. -/
def execBusMasterEnableChange (on : Bool) (s : State) : Host.Outcome State Fault Refusal :=
  .next (State.after s (bmeChange on s))

/-- R451: The function enters D3hot and the device targets DEEP or sets D3_BLOCKED. -/
def execPcieD3hotEnter (s : State) : Host.Outcome State Fault Refusal :=
  .next (State.after s (d3hotEnter s))

/-- R451: The function returns to D0 and the power target is re-evaluated with the stored TOL_US. -/
def execPcieD0Return (s : State) : Host.Outcome State Fault Refusal :=
  .next (State.after s (d0Return s))

/-- R17: A write of a BAR0 register takes effect by its access code, and in a register with a row of its own as that row says. -/
def execRegisterWrite (addr : Nat) (v : Word) (s : State) : Host.Outcome State Fault Refusal :=
  .next (State.after s (registerWriteRow addr v s))

/-- R15: An access of BAR0 or BAR2 of a size or alignment other than an aligned word; where it is an aligned word, it is an ordinary access of value zero. -/
def execMissizedAccess (bar2 : Bool) (addr : Nat) (size : Nat) (write : Bool) (s : State) : Host.Outcome State Fault Refusal :=
  .next (State.after s (missizedRow bar2 addr size write s))

/-- R49: An access of BAR0 to an offset with no register reads zero or is ignored and is recorded as an access error. -/
def execUnmappedAccess (addr : Nat) (write : Option Word) (s : State) : Host.Outcome State Fault Refusal :=
  .next (State.after s (unmappedRow addr write s))

/-- R16: A read of the LO register of a 64-bit pair latches the HI half. -/
def execPairLoRead (addr : Nat) (s : State) : Host.Outcome State Fault Refusal :=
  .next (State.after s (pairLoReadRow addr s))

/-- R16: A write to the HI register of a writable pair applies both halves at once. -/
def execPairHiWrite (addr : Nat) (v : Word) (s : State) : Host.Outcome State Fault Refusal :=
  .next (State.after s (pairHiWriteRow addr v s))

/-- R17: A read of an RC register returns its value and clears it. -/
def execRcRead (addr : Nat) (s : State) : Host.Outcome State Fault Refusal :=
  .next (State.after s (rcReadRow addr s))

/-- R97: A read of the SUBNS word of a timestamp register group latches the remaining words. -/
def execTimestampSubnsRead (addr : Nat) (s : State) : Host.Outcome State Fault Refusal :=
  .next (State.after s (timestampReadRow addr s))

/-- R565: An access of a window data register reads or writes the addressed word and advances the offset. -/
def execWindowDataAccess (addr : Nat) (write : Option Word) (s : State) : Host.Outcome State Fault Refusal :=
  .next (State.after s (windowDataRow addr write s))

/-- R118: A write of a block's CNT_CLR bit clears all counters of that block in one step. -/
def execCounterClear (addr : Nat) (v : Word) (s : State) : Host.Outcome State Fault Refusal :=
  .next (State.after s (counterClearRow addr v s))

/-- R454: A read of CFG_ECC_ADDR_HI clears VALID. -/
def execEccAddrRead (s : State) : Host.Outcome State Fault Refusal :=
  .next (State.after s (eccAddrReadRow s))

/-- R448: The PCI Express link trains up or enters or leaves L1, which changes HIF_STATUS and the DEEP entry condition. -/
def execPcieLinkStateChange (speed : Nat) (width : Nat) (l1 : Bool) (s : State) : Host.Outcome State Fault Refusal :=
  .next (State.after s (linkStateChange speed width l1 s))

end Sys2Proof.Machine
end

