-- ==== Sys2Proof/Machine/CmdFault.lean ====
section
/-! DEFINITION. The meanings of the commands: faults and self-test. Each is the command's own effect followed by what every command
brings with it. -/

namespace Sys2Proof.Machine

/-- R481: A fault source reports an event: the oldest report of a modelled unit, or the named one of a sender outside the model. -/
def execFaultEvent (ext : Option FaultIn) (s : State) : Host.Outcome State Fault Refusal :=
  .next (State.after s (faultEventRow ext s))

/-- R480: A source pair holds an invalid code for 4 cycles or fails its test pulse and becomes BROKEN. -/
def execFaultPairBroken (src : Nat) (s : State) : Host.Outcome State Fault Refusal :=
  .next (State.after s (faultPairBrokenRow src s))

/-- R484: T passes without an event of a source and its level falls by one. -/
def execFaultLevelDecay (src : Nat) (s : State) : Host.Outcome State Fault Refusal :=
  .next (State.after s (faultLevelDecayRow src s))

/-- R487: A reaction completes and HANDLING clears. -/
def execFaultReactionDone (s : State) : Host.Outcome State Fault Refusal :=
  .next (State.after s (faultReactionDoneRow s))

/-- R504: A write of FLT_FER_REL.RELEASE clears the first-error record. -/
def execFltFerRelease (v : Word) (s : State) : Host.Outcome State Fault Refusal :=
  .next (State.after s (s.busWrite Reg.FLT_FER_REL v 63 (fltFerReleaseRow v)))

/-- R503: A write of FLT_INJECT with GO raises a source as INJECTED or makes it BROKEN. -/
def execFltInjectGo (v : Word) (s : State) : Host.Outcome State Fault Refusal :=
  .next (State.after s (s.busWrite Reg.FLT_INJECT v 63 (fltInjectGoRow v)))

/-- R503: The FLT_INJECT manifest raises a source as INJECTED or makes it BROKEN. -/
def execFltInject (ring : Nat) (s : State) : Host.Outcome State Fault Refusal :=
  .next (State.after s (manFltInject ring s))

/-- R492: A write of FLT_RELEASE with GO runs a fenced owner's BIST slice and releases it. -/
def execFltReleaseGo (v : Word) (s : State) : Host.Outcome State Fault Refusal :=
  .next (State.after s (s.busWrite Reg.FLT_RELEASE v 63 (fltReleaseGoRow v)))

/-- R492: The FLT_RELEASE manifest releases a fenced owner after its BIST slice. -/
def execFltRelease (ring : Nat) (s : State) : Host.Outcome State Fault Refusal :=
  .next (State.after s (manFltRelease ring s))

/-- R489: A write of FLT_CTRL.DEGRADE_CLR clears DEGRADED. -/
def execDegradeClr (s : State) : Host.Outcome State Fault Refusal :=
  .next (State.after s (s.busWrite Reg.FLT_CTRL 4 63 (degradeClrRow)))

/-- R503: The BST_RUN manifest starts a slice, whole-device or shutdown self-test. -/
def execBstRun (ring : Nat) (s : State) : Host.Outcome State Fault Refusal :=
  .next (State.after s (manBstRun ring s))

/-- R495: A write of BST_CTRL with MODE SLICE and GO starts a single slice test. -/
def execBstCtrlSlice (slice : Nat) (s : State) : Host.Outcome State Fault Refusal :=
  .next (State.after s (s.busWrite Reg.BST_CTRL (BitVec.ofNat 32 (2 ^ 31 + 2 ^ 8 * (slice % 64))) 63 (bstCtrlSliceRow slice)))

/-- R496: A write of BST_CTRL with MODE WHOLE and GO starts a whole-device test on a standby. -/
def execBstCtrlWhole (s : State) : Host.Outcome State Fault Refusal :=
  .next (State.after s (s.busWrite Reg.BST_CTRL 0x80000001 63 (bstCtrlWholeRow)))

/-- R497: A write of BST_CTRL with MODE SHUTDOWN and GO starts a shutdown run. -/
def execBstCtrlShutdown (s : State) : Host.Outcome State Fault Refusal :=
  .next (State.after s (s.busWrite Reg.BST_CTRL 0x80000002 63 (bstCtrlShutdownRow)))

/-- R505: A write of BST_CTRL.ABORT ends a whole-device test after its current slice. -/
def execBstCtrlAbort (s : State) : Host.Outcome State Fault Refusal :=
  .next (State.after s (s.busWrite Reg.BST_CTRL 0x40000000 63 (bstCtrlAbortRow)))

/-- R494: A slice test completes, passing or failing, and the slice rejoins or is fenced. -/
def execBistSliceDone (pass : Bool) (s : State) : Host.Outcome State Fault Refusal :=
  .next (State.after s (bistSliceDoneRow pass s))

end Sys2Proof.Machine
end

