-- ==== Sys2Proof/Machine/CmdField.lean ====
section
/-! DEFINITION. The meanings of the commands: front end, local phasors, metering and capture. Each is the command's own effect followed by what every command
brings with it. -/

namespace Sys2Proof.Machine

/-- R330: A write of FE_CTRL.EN starts or stops the front end and FE_MCLK. -/
def execFeEnWrite (v : Word) (s : State) : Host.Outcome State Fault Refusal :=
  .next (State.after s (s.busWrite Reg.FE_CTRL v 63 (feCtrlWrite v)))

/-- R311: A sample set is released: pins are the changes of level of the 24 FE_D pins since the set before it, oldest first (instant, new
level), m what the tracker has measured, used when the set carries a cycle mark. The label follows from the set before (R317); release
gives it for the first set after a start of the front end or a step of DT. -/
def execFeSampleSet (release : Nat) (pins : List (List (Nat × Bool))) (refHz altHz : Rat) (s : State) : Host.Outcome State Fault Refusal :=
  .next (State.after s (feSampleSetAll release pins ⟨refHz, altHz⟩ s))

/-- R301: STUCK or CLIP begins or ends on a channel. -/
def execFeChannelCondition (ch : Nat) (clip : Bool) (on : Bool) (s : State) : Host.Outcome State Fault Refusal :=
  .next (State.after s (feChannelConditionRow ch clip on s))

/-- R299: After a DT step the FE PLL realigns FE_MCLK within 10 ms. -/
def execFePllRealign (s : State) : Host.Outcome State Fault Refusal :=
  .next (State.after s (fePllRealignRow s))

/-- R314: A write of FE_CAL_SWAP with GO validates STANDBY and schedules a calibration swap. -/
def execFeCalSwapGo (v : Word) (s : State) : Host.Outcome State Fault Refusal :=
  .next (State.after s (s.busWrite Reg.FE_CAL_SWAP v 63 (feCalSwapGoRow v)))

/-- R323: The estimator wakes on buffered sets and computes and hands off the local berth block of an instant. -/
def execLpeEstimate (entry : Nat) (sec : Nat) (k : Nat) (handOff : Nat) (s : State) : Host.Outcome State Fault Refusal :=
  .next (State.after s (lpeEstimateRow entry sec k handOff s))

/-- R360: A write of MTR_CTRL.EN starts metering and restores its state. -/
def execMtrEnWrite (v : Word) (s : State) : Host.Outcome State Fault Refusal :=
  .next (State.after s (s.busWrite Reg.MTR_CTRL v 63 (mtrCtrlWrite v)))

/-- R337: A metering cycle closes and its quantities, energies, demand and pulse residues are updated. -/
def execMtrCycle (now : Nat) (s : State) : Host.Outcome State Fault Refusal :=
  .next (State.after s (mtrCycleRow now s))

/-- R349: A metering flash save completes or fails with SAVE_ERR. -/
def execMtrFlashSaveDone (ok : Bool) (s : State) : Host.Outcome State Fault Refusal :=
  .next (State.after s (mtrFlashSaveDoneRow ok s))

/-- R347: A pulse output's scheduled instant arrives and the pulse begins. -/
def execPulseStart (o : Nat) (s : State) : Host.Outcome State Fault Refusal :=
  .next (State.after s (pulseStartRow o s))

/-- R347: A pulse's width expires and the output returns to inactive. -/
def execPulseEnd (o : Nat) (s : State) : Host.Outcome State Fault Refusal :=
  .next (State.after s (pulseEndRow o s))

/-- R350: PFW_N is asserted, metering saves with PFW and freezes, and a POWER record is made. -/
def execPfwAssert (s : State) : Host.Outcome State Fault Refusal :=
  .next (State.after s (pfwAssertRow s))

/-- R350: PFW_N is deasserted with power present and metering adds the pending sum and saves. -/
def execPfwDeassert (s : State) : Host.Outcome State Fault Refusal :=
  .next (State.after s (pfwDeassertRow s))

/-- R365: A write of CAP_CH_CTRL.ARM arms a capture channel or is refused. -/
def execCapChArm (ch : Nat) (s : State) : Host.Outcome State Fault Refusal :=
  .next (State.after s (if ch < 4 then s.busWrite (Reg.CAP_CH_CTRL ch) 1 63 (capChArmRow ch) else s))

/-- R373: A write of CAP_CH_CTRL.ABORT aborts a channel's capture. -/
def execCapChAbort (ch : Nat) (s : State) : Host.Outcome State Fault Refusal :=
  .next (State.after s (if ch < 4 then s.busWrite (Reg.CAP_CH_CTRL ch) 2 63 (capChAbortRow ch) else s))

/-- R368: A write of CAP_CH_CTRL.SWTRIG triggers a channel. -/
def execCapChSwtrig (ch : Nat) (s : State) : Host.Outcome State Fault Refusal :=
  .next (State.after s (if ch < 4 then s.busWrite (Reg.CAP_CH_CTRL ch) 4 63 (capChSwtrigRow ch) else s))

/-- R368: A trigger condition is detected and an armed channel takes the trigger. -/
def execCapTrigger (ch : Nat) (s : State) : Host.Outcome State Fault Refusal :=
  .next (State.after s (capTriggerRow ch s))

/-- R372: A capture runs out of region or FIFO space and stops in OVERFLOW. -/
def execCapOverflow (ch : Nat) (fifo : Bool) (s : State) : Host.Outcome State Fault Refusal :=
  .next (State.after s (capOverflowRow ch fifo s))

/-- R371: Each reduction has written the entry holding E and the capture closes its blocks and enters DONE. -/
def execCapEnd (ch : Nat) (s : State) : Host.Outcome State Fault Refusal :=
  .next (State.after s (capEndRow ch s))

/-- R376: A low pulse on a trigger line is measured and decoded as a code, a collision or a glitch. -/
def execTrgPulseRx (line : Nat) (fall : Nat) (rise : Nat) (s : State) : Host.Outcome State Fault Refusal :=
  .next (State.after s (trgPulseRx line fall rise s))

/-- R376: A trigger line stays low for 40 µs and is reported STUCK. -/
def execTrgLineStuck (line : Nat) (s : State) : Host.Outcome State Fault Refusal :=
  .next (State.after s (trgLineStuck line s))

/-- R377: A write of CAP_TRG_OUT with GO requests a trigger pulse. -/
def execCapTrgOutGo (v : Word) (s : State) : Host.Outcome State Fault Refusal :=
  .next (State.after s (s.busWrite Reg.CAP_TRG_OUT v 63 (capTrgOutGo v)))

/-- R377: A queued trigger request finds the line high and the driver pulls it low. -/
def execTrgOutPulseStart (line : Nat) (stamp : Nat) (s : State) : Host.Outcome State Fault Refusal :=
  .next (State.after s (trgOutPulseStart line stamp s))

/-- R377: The pulse width expires and the driver releases the line. -/
def execTrgOutPulseEnd (line : Nat) (s : State) : Host.Outcome State Fault Refusal :=
  .next (State.after s (trgOutPulseEnd line s))

/-- R362: A read of offset 0x000 of a metering point block latches the whole block. -/
def execMtrPointLatchRead (m : Nat) (s : State) : Host.Outcome State Fault Refusal :=
  .next (State.after s (if m < 3 then s.busRead (Reg.MTR_ENERGY_LO m 0) 63 (mtrPointLatch m) else s))

/-- R376: A trigger line reported STUCK has been high for 1 ms and gives pulses again. -/
def execTrgLineStuckEnd (line : Nat) (s : State) : Host.Outcome State Fault Refusal :=
  .next (State.after s (trgLineStuckEnd line s))

end Sys2Proof.Machine
end

