-- ==== Sys2Proof/Machine/CmdHost.lean ====
section
/-! DEFINITION. The meanings of the commands: ring pairs, manifests, configuration and power states. Each is the command's own effect followed by what every command
brings with it. -/

namespace Sys2Proof.Machine

/-- R424: A write of v to HIF_RP_CTRL of ring pair n. -/
def execRingPairEnWrite (n : Nat) (v : Word) (s : State) : Host.Outcome State Fault Refusal :=
  .next (State.after s (if n < 16 then s.busWrite (Reg.HIF_RP_CTRL n) v 63 (ringCtrlWrite n v) else s))

/-- R426: A write of an SQ_TAIL doorbell announces new manifests or moves the pair to ERROR. -/
def execSqTailDoorbell (n : Nat) (v : Word) (s : State) : Host.Outcome State Fault Refusal :=
  .next (State.after s (if n < 16 then s.doorbell n false v else s))

/-- R426: A write of a CQ_HEAD doorbell releases completion entries or moves the pair to ERROR. -/
def execCqHeadDoorbell (n : Nat) (v : Word) (s : State) : Host.Outcome State Fault Refusal :=
  .next (State.after s (if n < 16 then s.doorbell n true v else s))

/-- R427: The host returns a manifest's read data and the manifest is started when ordering allows. -/
def execManifestFetch (n : Nat) (bytes : List Byte) (s : State) : Host.Outcome State Fault Refusal :=
  .next (State.after s (manifestFetch n bytes s))

/-- R429: A manifest's action completes and its completion entry is written. -/
def execManifestComplete (n : Nat) (s : State) : Host.Outcome State Fault Refusal :=
  .next (State.after s (manifestComplete n s))

/-- R425: A PCI Express error on a ring access moves the pair to ERROR. -/
def execHostDmaError (n : Nat) (s : State) : Host.Outcome State Fault Refusal :=
  .next (State.after s (hostDmaError n s))

/-- R428: A unit's delivery takes a free CQ slot and is written, or waits or is dropped. -/
def execDelivery (s : State) : Host.Outcome State Fault Refusal :=
  .next (State.after s (deliveryTake s))

/-- R428: A waiting delivery's HIF_RP_TIMEOUT expires and it is dropped. -/
def execDeliveryTimeout (n : Nat) (s : State) : Host.Outcome State Fault Refusal :=
  .next (State.after s (deliveryTimeout n s))

/-- R430: COAL_US expires after the first signalling entry and a coalescing event falls due. -/
def execCoalesceTimer (n : Nat) (s : State) : Host.Outcome State Fault Refusal :=
  .next (State.after s (coalesceTimer n s))

/-- R433: The NOP manifest completes at its start with no effect. -/
def execNop (n : Nat) (s : State) : Host.Outcome State Fault Refusal :=
  .next (State.after s (manNop n s))

/-- R436: The ABORT manifest aborts the oldest outstanding manifest with a given TAG. -/
def execAbort (n : Nat) (s : State) : Host.Outcome State Fault Refusal :=
  .next (State.after s (manAbort n s))

/-- R437: The CFG_LOAD manifest of ring pair n; buf is its buffer, none when the read failed. -/
def execCfgLoad (n : Nat) (buf : Option (List Byte)) (s : State) : Host.Outcome State Fault Refusal :=
  .next (State.after s (manCfgLoad n buf s))

/-- R438: The CFG_WRITE manifest writes a section body into SHADOW. -/
def execCfgWrite (n : Nat) (buf : Option (List Byte)) (s : State) : Host.Outcome State Fault Refusal :=
  .next (State.after s (manCfgWrite n buf s))

/-- R440: The CFG_COPY manifest copies ACTIVE into SHADOW. -/
def execCfgCopy (n : Nat) (s : State) : Host.Outcome State Fault Refusal :=
  .next (State.after s (manCfgCopy n s))

/-- R441: The COMMIT manifest checks SHADOW's SET_CHECK and starts validation. -/
def execCommit (n : Nat) (s : State) : Host.Outcome State Fault Refusal :=
  .next (State.after s (manCommit n s))

/-- R441: Validation of a commit completes, refusing it or fixing its effective instant E. -/
def execCommitValidationDone (s : State) : Host.Outcome State Fault Refusal :=
  .next (State.after s (commitValidationRow s))

/-- R445: The CFG_SAVE manifest writes a set to a flash slot, optionally as the boot slot. -/
def execCfgSave (n : Nat) (ok : Bool) (s : State) : Host.Outcome State Fault Refusal :=
  .next (State.after s (manCfgSave n ok s))

/-- R433: The CFG_READ manifest returns a set in canonical form. -/
def execCfgRead (n : Nat) (ok : Bool) (s : State) : Host.Outcome State Fault Refusal :=
  .next (State.after s (manCfgRead n ok s))

/-- R440: A write through CFG_SWIN_DATA changes SHADOW or is ignored while it is locked. -/
def execCfgSwinWrite (v : Word) (s : State) : Host.Outcome State Fault Refusal :=
  .next (State.after s (s.busWrite Reg.CFG_SWIN_DATA v 63 (cfgSwinWrite v)))

/-- R277: The ALM_ACK manifest acknowledges an alarm slot; the oldest startable one of a ring pair. -/
def execAlmAck (ring : Nat) (s : State) : Host.Outcome State Fault Refusal :=
  .next (State.after s (manAlmAck ring s))

/-- R270: The ALM_HOST manifest makes a host alarm raise or clear; the oldest startable one of a ring pair. -/
def execAlmHost (ring : Nat) (s : State) : Host.Outcome State Fault Refusal :=
  .next (State.after s (manAlmHost ring s))

/-- R365: The CAP_ARM manifest arms a capture channel. -/
def execCapArm (n : Nat) (s : State) : Host.Outcome State Fault Refusal :=
  .next (State.after s (manCapArm n s))

/-- R368: The CAP_TRIGGER manifest triggers a capture channel. -/
def execCapTriggerManifest (n : Nat) (s : State) : Host.Outcome State Fault Refusal :=
  .next (State.after s (manCapTrigger n s))

/-- R373: The CAP_ABORT manifest aborts a capture channel. -/
def execCapAbort (n : Nat) (s : State) : Host.Outcome State Fault Refusal :=
  .next (State.after s (manCapAbort n s))

/-- R519: The MTR_RESET manifest verifies a reset token and clears a point's registers at the next cycle mark. -/
def execMtrReset (n : Nat) (buf : Option (List Byte)) (s : State) : Host.Outcome State Fault Refusal :=
  .next (State.after s (manMtrReset n buf s))

/-- R433: The MTR_READ manifest returns records from the flash record area. -/
def execMtrRead (n : Nat) (ok : Bool) (s : State) : Host.Outcome State Fault Refusal :=
  .next (State.after s (manMtrRead n ok s))

/-- R381: The LOG_NOTE manifest makes a class 16 HOST logbook record. -/
def execLogNote (n : Nat) (s : State) : Host.Outcome State Fault Refusal :=
  .next (State.after s (manLogNote n s))

/-- R385: The LOG_CLEAR manifest verifies a token and clears the logbook. -/
def execLogClear (n : Nat) (buf : Option (List Byte)) (s : State) : Host.Outcome State Fault Refusal :=
  .next (State.after s (manLogClear n buf s))

/-- R446: The FW_STAGE manifest writes and verifies a firmware image in a flash slot. -/
def execFwStage (n : Nat) (buf : Option (List Byte)) (sigOk : Bool) (ok : Bool) (ver : Word) (s : State) : Host.Outcome State Fault Refusal :=
  .next (State.after s (manFwStage n buf sigOk ok ver s))

/-- R403: The ROTATE manifest requests a rotation of an engine. -/
def execRotate (n : Nat) (s : State) : Host.Outcome State Fault Refusal :=
  .next (State.after s (manRotate n s))

/-- R419: The SUBSYS_SET manifest writes the subsystem record of the boot block. -/
def execSubsysSet (n : Nat) (ok : Bool) (s : State) : Host.Outcome State Fault Refusal :=
  .next (State.after s (manSubsysSet n ok s))

/-- R449: A write of PWR_LTR sets the tolerated latency and re-evaluates the target power state. -/
def execPwrLtrWrite (v : Word) (s : State) : Host.Outcome State Fault Refusal :=
  .next (State.after s (s.busWrite Reg.PWR_LTR v 63 (pwrLtrWrite v)))

/-- R448: Entry into a deeper power state completes a step. -/
def execPwrEntryStepDone (s : State) : Host.Outcome State Fault Refusal :=
  .next (State.after s (pwrEntryStep s.catchUpAll))

/-- R450: A wake event causes an exit to FULL. -/
def execPwrWake (src : Nat) (s : State) : Host.Outcome State Fault Refusal :=
  .next (State.after s (pwrWakeRow src s))

/-- R449: The exit from a stopped power state completes, the device is in FULL and the waiting access completes. -/
def execPowerStateExitDone (s : State) : Host.Outcome State Fault Refusal :=
  .next (State.after s (powerStateExitDoneRow s.catchUpAll))

end Sys2Proof.Machine
end

