-- ==== Sys2Proof/Machine/CmdIsl.lean ====
section
/-! DEFINITION. The meanings of the commands: the islanding unit. Each is the command's own effect followed by what every command
brings with it. -/

namespace Sys2Proof.Machine

/-- R267: A write of ISL_CTRL.EN enables the islanding unit or is refused with RING_ERR. -/
def execIslEnWrite (v : Word) (s : State) : Host.Outcome State Fault Refusal :=
  .next (State.after s (s.busWrite Reg.ISL_CTRL v 63 (islEnWriteRow v)))

/-- R250: A provisional task evaluates topology and coherency on a quay and issues provisional decisions. -/
def execIslProvEval (s : State) : Host.Outcome State Fault Refusal :=
  .next (State.after s (islProvEvalRow s))

/-- R251: The quay is settled by detector 1's outcome and the settled record is written. -/
def execIslSettleEval (s : State) : Host.Outcome State Fault Refusal :=
  .next (State.after s (islSettleEvalRow s))

/-- R252: The fold makes a settled quay's values the new committed islanding state. -/
def execIslFold (s : State) : Host.Outcome State Fault Refusal :=
  .next (State.after s (islFoldRow s))

/-- R268: A write of ISL_NODE_SEL starts a probe of a node in the committed state. -/
def execIslNodeProbe (v : Word) (s : State) : Host.Outcome State Fault Refusal :=
  .next (State.after s (s.busWrite Reg.ISL_NODE_SEL v 63 (islNodeProbeRow v)))

/-- R268: A write of ISL_BR_SEL starts a probe of a branch in the committed state. -/
def execIslBranchProbe (v : Word) (s : State) : Host.Outcome State Fault Refusal :=
  .next (State.after s (s.busWrite Reg.ISL_BR_SEL v 63 (islBranchProbeRow v)))

end Sys2Proof.Machine
end

