-- ==== Sys2Proof/Machine/CmdKey.lean ====
section
/-! DEFINITION. The meanings of the commands: the key store. Each is the command's own effect followed by what every command
brings with it. -/

namespace Sys2Proof.Machine

/-- R513: The KEY_WRITE manifest writes a software key slot. -/
def execKeyWrite (n : Nat) (buf : Option (List Byte)) (s : State) : Host.Outcome State Fault Refusal :=
  .next (State.after s (manKeyWrite n buf s))

/-- R514: The KEY_REPLACE manifest replaces a key slot under a signature verified against slot 0. -/
def execKeyReplace (n : Nat) (buf : Option (List Byte)) (s : State) : Host.Outcome State Fault Refusal :=
  .next (State.after s (manKeyReplace n buf s))

/-- R513: The KEY_ERASE manifest erases an unlocked key slot. -/
def execKeyErase (n : Nat) (s : State) : Host.Outcome State Fault Refusal :=
  .next (State.after s (manKeyErase n s))

/-- R520: The KEY_PUBKEY manifest returns a slot's public key. -/
def execKeyPubkey (n : Nat) (ok : Bool) (s : State) : Host.Outcome State Fault Refusal :=
  .next (State.after s (manKeyPubkey n ok s))

/-- R513: The KEY_CLOSE manifest programs PROV_CLOSED and locks slot 0. -/
def execKeyClose (n : Nat) (s : State) : Host.Outcome State Fault Refusal :=
  .next (State.after s (manKeyClose n s))

/-- R515: A read of KEY_NONCE_LO draws a fresh nonce and voids the previous one. -/
def execKeyNonceRead (s : State) : Host.Outcome State Fault Refusal :=
  .next (State.after s (s.busRead Reg.KEY_NONCE_LO 63 keyNonceRead))

/-- R512: The sealed slot store write completes and the slot change takes effect, or fails with FLASH_ERROR. -/
def execKeyStoreWriteDone (ok : Bool) (s : State) : Host.Outcome State Fault Refusal :=
  .next (State.after s (keyStoreWriteDone ok s))

/-- R510: A key derivation completes and the derived slot and public key are updated. -/
def execKeyDeriveDone (slot : Nat) (s : State) : Host.Outcome State Fault Refusal :=
  .next (State.after s (keyDeriveDone slot s))

/-- R516: A crypto engine operation completes and returns its result to the requester. -/
def execCryptoOpDone (i : Nat) (s : State) : Host.Outcome State Fault Refusal :=
  .next (State.after s (cryptoOpDoneRow i s))

end Sys2Proof.Machine
end

