-- ==== Sys2Proof/Machine/CmdLog.lean ====
section
/-! DEFINITION. The meanings of the commands: the logbook. Each is the command's own effect followed by what every command
brings with it. -/

namespace Sys2Proof.Machine

/-- R378: A write of LOG_RING_BASE_HI sets the logbook ring and copies the tail into it. -/
def execLogRingBaseWrite (v : Word) (s : State) : Host.Outcome State Fault Refusal :=
  .next (State.after s (s.busWrite Reg.LOG_RING_BASE_HI v 63 (logRingBaseWriteRow v)))

/-- R383: A logbook event is queued, repeats the last record, or is lost. -/
def execLogEvent (s : State) : Host.Outcome State Fault Refusal :=
  .next (State.after s (logEventTake s))

/-- R379: The single writer takes an event from the queue, snapshots registers and writes a chained record. -/
def execLogRecordWrite (s : State) : Host.Outcome State Fault Refusal :=
  .next (State.after s (logRecordTake State.snapReg s))

/-- R382: LOG_CHKPT.SEC seconds pass or N records are written and a signed CHECKPOINT record is written. -/
def execLogCheckpoint (s : State) : Host.Outcome State Fault Refusal :=
  .next (State.after s (logCheckpointRow s))

/-- R385: A read of LOG_NONCE_LO draws a fresh nonce and voids the previous one. -/
def execLogNonceRead (s : State) : Host.Outcome State Fault Refusal :=
  .next (State.after s (s.busRead Reg.LOG_NONCE_LO 63 logNonceReadRow))

end Sys2Proof.Machine
end

