-- ==== Sys2Proof/Machine/CmdOsc.lean ====
section
/-! DEFINITION. The meanings of the commands: the oscillation unit. Each is the command's own effect followed by what every command
brings with it. -/

namespace Sys2Proof.Machine

/-- R225: A write of OSC_CTRL.EN enables the oscillation unit or is refused with RING_ERR. -/
def execOscEnWrite (v : Word) (s : State) : Host.Outcome State Fault Refusal :=
  .next (State.after s (s.busWrite Reg.OSC_CTRL v 63 (oscEnWriteRow v)))

/-- R210: A provisional task evaluates a group on a PROVISIONAL quay and issues provisional decisions. -/
def execOscProvEval (g : Nat) (s : State) : Host.Outcome State Fault Refusal :=
  .next (State.after s (oscProvEvalRow g s))

/-- R211: A group is settled on its detector 0 outcome, confirming, retracting or issuing decisions and writing the settled record. -/
def execOscSettleEval (g : Nat) (s : State) : Host.Outcome State Fault Refusal :=
  .next (State.after s (oscSettleEvalRow g s))

/-- R195: The fold of an update quay advances the group's committed state. -/
def execOscFold (g : Nat) (s : State) : Host.Outcome State Fault Refusal :=
  .next (State.after s (oscFoldRow g s))

/-- R198: An extraction computes and matches the group's mode list. -/
def execOscExtract (g : Nat) (s : State) : Host.Outcome State Fault Refusal :=
  .next (State.after s (oscExtractRow g s))

end Sys2Proof.Machine
end

