-- ==== Sys2Proof/Machine/CmdPilot.lean ====
section
/-! DEFINITION. The meanings of the commands: pilot, engines, counters and the debug port. Each is the command's own effect followed by what every command
brings with it. -/

namespace Sys2Proof.Machine

/-- R400: A unit submits a task, the oldest that a modelled unit wants when none is named, and the pilot answers ACCEPTED, FULL or INVALID. -/
def execTaskSubmit (req : Option TaskReq) (s : State) : Host.Outcome State Fault Refusal :=
  .next (State.after s (taskSubmitRow req s))

/-- R391: An engine becomes free or a task becomes READY and a task is started or resumed on an engine. -/
def execTaskDispatch (cls : Nat) (s : State) : Host.Outcome State Fault Refusal :=
  .next (State.after s (taskDispatchRow cls s))

/-- R389: A running task waits on an event, with an optional time-out. -/
def execTaskWait (i : Nat) (s : State) : Host.Outcome State Fault Refusal :=
  .next (State.after s (taskWaitRow i s))

/-- R398: The awaited event arrives and the waiting task becomes READY with status EVENT. -/
def execWaitEventArrives (i : Nat) (s : State) : Host.Outcome State Fault Refusal :=
  .next (State.after s (waitEventRow i s))

/-- R398: A wait time-out fires and the task becomes READY with status TIMEOUT. -/
def execWaitTimeout (i : Nat) (s : State) : Host.Outcome State Fault Refusal :=
  .next (State.after s (waitTimeoutRow i s))

/-- R396: A delayed task's wake time is reached and it becomes READY. -/
def execDelayWake (i : Nat) (s : State) : Host.Outcome State Fault Refusal :=
  .next (State.after s (delayWakeRow i s))

/-- R395: A READY task has waited PLT_AGE_US and is raised one priority level. -/
def execTaskAging (i : Nat) (s : State) : Host.Outcome State Fault Refusal :=
  .next (State.after s (taskAgingRow i s))

/-- R389: A task completes DONE or ABORTED and its completion goes to the owner. -/
def execTaskComplete (i : Nat) (s : State) : Host.Outcome State Fault Refusal :=
  .next (State.after s (workCompleteRow i s))

/-- R399: An owner aborts a task by its handle with exactly one outcome. -/
def execTaskAbort (h : TaskHandle) (owner : Nat) (s : State) : Host.Outcome State Fault Refusal :=
  .next (State.after s (taskAbortRow h.ix h.gen owner s))

/-- R411: A write of PLT_TASK_SEL starts a probe of a task descriptor. -/
def execPltTaskProbe (v : Word) (s : State) : Host.Outcome State Fault Refusal :=
  .next (State.after s (s.busWrite Reg.PLT_TASK_SEL v 63 (taskProbeRow v)))

/-- R411: A write of PLT_RL_CAP_c sets a ready-list cap or is ignored with CAP_ERR. -/
def execPltRlCapWrite (c : Nat) (v : Word) (s : State) : Host.Outcome State Fault Refusal :=
  .next (State.after s (if c < 6 then s.busWrite (Reg.PLT_RL_CAP c) v 63 (rlCapWriteRow c v) else s))

/-- R403: A write of PLT_ROT_CTRL with action FIRMWARE requests a firmware rotation of an engine. -/
def execPltRotFirmware (v : Word) (s : State) : Host.Outcome State Fault Refusal :=
  .next (State.after s (s.busWrite Reg.PLT_ROT_CTRL v 63 (pltRotFirmwareRow v)))

/-- R403: A write of PLT_ROT_CTRL with action SELFTEST requests a self-test rotation of an engine. -/
def execPltRotSelftest (v : Word) (s : State) : Host.Outcome State Fault Refusal :=
  .next (State.after s (s.busWrite Reg.PLT_ROT_CTRL v 63 (pltRotSelftestRow v)))

/-- R402: PLT_ROT_DRAIN expires and the remaining work is migrated with RESTART. -/
def execRotDrainTimeout (s : State) : Host.Outcome State Fault Refusal :=
  .next (State.after s (rotDrainTimeoutRow s))

/-- R404: An engine finishes verifying and loading its staged image, or reloads its old one. -/
def execEngineLoadDone (sigOk : Bool) (s : State) : Host.Outcome State Fault Refusal :=
  .next (State.after s (engineLoadDoneRow sigOk s))

/-- R401: An engine's self-test ends and it rejoins or is fenced. -/
def execEngineTestDone (ok : Bool) (s : State) : Host.Outcome State Fault Refusal :=
  .next (State.after s (engineTestDoneRow ok s))

/-- R401: Re-initialisation completes and the engine enters IN_SERVICE. -/
def execEngineRejoinDone (e : Nat) (s : State) : Host.Outcome State Fault Refusal :=
  .next (State.after s (engineRejoinDoneRow e s))

/-- R406: A programmable counter of engine e wraps, setting its overflow bit and optionally taking a sample; busy says that a sample already waits to be written. -/
def execEngCounterWrap (e : Nat) (i : Nat) (addr : Nat) (skid : Nat) (busy : Bool) (s : State) : Host.Outcome State Fault Refusal :=
  .next (State.after s (engCounterWrapRow e i addr skid busy s))

/-- R412: A write of ENG_CNT_CTRL.CLR clears an engine's counters and advances ENG_CNT_GEN. -/
def execEngCntClr (e : Nat) (s : State) : Host.Outcome State Fault Refusal :=
  .next (State.after s (if e < 32 then s.busWrite (Reg.ENG_CNT_CTRL e) 2 63 (engCntClrRow e) else s))

/-- R412: A write of ENG_CNT_SEL_i selects an event from the next cycle and advances ENG_CNT_GEN. -/
def execEngCntSelWrite (e : Nat) (i : Nat) (v : Word) (s : State) : Host.Outcome State Fault Refusal :=
  .next (State.after s (if e < 32 ∧ i < 8 then s.busWrite (Reg.ENG_CNT_SEL e i) v 63 (engCntSelWriteRow e i v) else s))

/-- R412: A write of a counter pair preloads it and advances ENG_CNT_GEN. -/
def execEngCntPreload (e : Nat) (i : Nat) (v : Nat) (s : State) : Host.Outcome State Fault Refusal :=
  .next (State.after s (if e < 32 ∧ i < 8 then (s.bar0Write (Reg.ENG_CNT_LO e i) (BitVec.ofNat 32 v) 63).bar0Write (Reg.ENG_CNT_HI e i) (BitVec.ofNat 32 (v / 2 ^ 32)) 63 else s))

/-- R406: A write of PLT_CNT_CTRL.FREEZE_ALL stops or starts every engine's counters at one DT instant. -/
def execFreezeAllWrite (v : Word) (s : State) : Host.Outcome State Fault Refusal :=
  .next (State.after s (s.busWrite Reg.PLT_CNT_CTRL v 63 (freezeAllRow v)))

/-- R411: A write of PLT_CNT_CTRL.CLR_ALL clears every engine's counters. -/
def execClrAll (s : State) : Host.Outcome State Fault Refusal :=
  .next (State.after s (s.busWrite Reg.PLT_CNT_CTRL 2 63 (clrAllRow)))

/-- R414: DBG_TRST_N low or Test-Logic-Reset resets the TAP and relocks the port. -/
def execDbgTapReset (s : State) : Host.Outcome State Fault Refusal :=
  .next (State.after s (dbgTapResetRow s))

/-- R413: The EXTEST instruction drives the pins from the boundary-scan register while RESET_N is low. -/
def execExtest (resetLow : Bool) (bits : List Bool) (s : State) : Host.Outcome State Fault Refusal :=
  .next (State.after s (extestRow resetLow bits s))

/-- R413: The SAMPLE/PRELOAD instruction captures and loads the boundary-scan register. -/
def execSamplePreload (captured : List Bool) (bits : List Bool) (s : State) : Host.Outcome State Fault Refusal :=
  .next (State.after s (samplePreloadRow captured bits s))

/-- R413: The IDCODE instruction presents the 32-bit identification value. -/
def execIdcode (s : State) : Host.Outcome State Fault Refusal :=
  .next (State.after s (idcodeRow s))

/-- R413: The HIGHZ instruction puts the pins at high impedance while RESET_N is low. -/
def execHighz (resetLow : Bool) (s : State) : Host.Outcome State Fault Refusal :=
  .next (State.after s (highzRow resetLow s))

/-- R413: The CLAMP instruction holds the pins from the boundary-scan register while RESET_N is low. -/
def execClamp (resetLow : Bool) (s : State) : Host.Outcome State Fault Refusal :=
  .next (State.after s (clampRow resetLow s))

/-- R413: The BYPASS instruction selects the 1-bit bypass register. -/
def execBypass (s : State) : Host.Outcome State Fault Refusal :=
  .next (State.after s (bypassRow s))

/-- R414: A Capture-DR of DBG_NONCE draws and presents a fresh nonce. -/
def execDbgNonce (s : State) : Host.Outcome State Fault Refusal :=
  .next (State.after s (dbgNonceRow s))

/-- R414: An Update-DR of DBG_UNLOCK verifies a signed request and raises the port's level. -/
def execDbgUnlock (level : Nat) (sig : List Byte) (s : State) : Host.Outcome State Fault Refusal :=
  .next (State.after s (dbgUnlockRow level sig s))

/-- R415: A MEMAP READ performs a BAR0 read as master 62. -/
def execMemapRead (off : Nat) (s : State) : Host.Outcome State Fault Refusal :=
  .next (State.after s (memapReadRow off s))

/-- R415: A MEMAP WRITE performs a BAR0 write as master 62. -/
def execMemapWrite (off : Nat) (v : Word) (s : State) : Host.Outcome State Fault Refusal :=
  .next (State.after s (memapWriteRow off v s))

/-- R416: ENGDBG HALT halts a fenced engine and makes a DEBUG record. -/
def execEngdbgHalt (e : Nat) (s : State) : Host.Outcome State Fault Refusal :=
  .next (State.after s (engdbgHaltRow e s))

/-- R416: ENGDBG RESUME lets a fenced engine run with its fabric port closed. -/
def execEngdbgResume (e : Nat) (s : State) : Host.Outcome State Fault Refusal :=
  .next (State.after s (engdbgResumeRow e s))

/-- R416: ENGDBG STEP runs one instruction of a fenced engine. -/
def execEngdbgStep (e : Nat) (s : State) : Host.Outcome State Fault Refusal :=
  .next (State.after s (engdbgStepRow e s))

/-- R416: ENGDBG READ_LOCAL reads a word of a fenced engine's local memory. -/
def execEngdbgReadLocal (e : Nat) (addr : Nat) (s : State) : Host.Outcome State Fault Refusal :=
  .next (State.after s (engdbgReadLocalRow e addr s))

/-- R416: ENGDBG READ_REG reads an architectural register of a fenced engine. -/
def execEngdbgReadReg (e : Nat) (r : Nat) (s : State) : Host.Outcome State Fault Refusal :=
  .next (State.after s (engdbgReadRegRow e r s))

/-- R414: A write of DBG_CTRL.RELOCK returns the port to LOCKED. -/
def execDbgRelock (s : State) : Host.Outcome State Fault Refusal :=
  .next (State.after s (s.busWrite Reg.DBG_CTRL 2 63 (dbgRelockRow)))

/-- R417: A write of DBG_CTRL.PORT_DIS disables the debug port until core reset and relocks it. -/
def execDbgPortDis (s : State) : Host.Outcome State Fault Refusal :=
  .next (State.after s (s.busWrite Reg.DBG_CTRL 1 63 (dbgPortDisRow)))

end Sys2Proof.Machine
end

