-- ==== Sys2Proof/Machine/CmdPorts.lean ====
section
/-! DEFINITION. The meanings of the commands: network ports, intake and the berth directory. Each is the command's own effect followed by what every command
brings with it. -/

namespace Sys2Proof.Machine

/-- R101: A write of MAC_CTRL of port p; receiving says whether a frame is being received, which a port that leaves UP discards. -/
def execMacEnWrite (p : Nat) (v : Word) (receiving : Bool) (s : State) : Host.Outcome State Fault Refusal :=
  .next (State.after s (if p < 6 then s.busWrite (Reg.MAC_CTRL p) v 63 (macCtrlWrite p v receiving) else s))

/-- R101: A port acquires block lock or code-group synchronisation and enters TRAINING. -/
def execLinkLockAcquired (p : Nat) (s : State) : Host.Outcome State Fault Refusal :=
  .next (State.after s (linkLockAcquiredRow p s))

/-- R101: A port loses block lock or synchronisation and enters DOWN. -/
def execLinkLockLost (p : Nat) (receiving : Bool) (s : State) : Host.Outcome State Fault Refusal :=
  .next (State.after s (linkLockLostRow p receiving s))

/-- R101: Autonegotiation completes on P4 or P5 and the qualification time starts. -/
def execAutonegComplete (p : Nat) (s : State) : Host.Outcome State Fault Refusal :=
  .next (State.after s (autonegCompleteRow p s))

/-- R99: SGMII control information is received on P4 or P5 and SPEED_ERR is updated; slow says that it signals 10 or 100 Mb/s. -/
def execSgmiiControlRx (p : Nat) (slow : Bool) (receiving : Bool) (s : State) : Host.Outcome State Fault Refusal :=
  .next (State.after s (sgmiiControlRxRow p slow receiving s))

/-- R101: The 10 ms qualification time ends and the port enters UP. -/
def execLinkQualified (p : Nat) (s : State) : Host.Outcome State Fault Refusal :=
  .next (State.after s (linkQualifiedRow p s))

/-- R100: A fault sequence (local unless remote), hi_ber or a remote fault code moves an UP port to FAULT. -/
def execLinkFaultRx (p : Nat) (remote : Bool) (hiBer : Bool) (receiving : Bool) (s : State) : Host.Outcome State Fault Refusal :=
  .next (State.after s (linkFaultRxRow p remote hiBer receiving s))

/-- R101: The fault condition has been absent for 10 ms and the port returns to UP. -/
def execLinkFaultCleared (p : Nat) (s : State) : Host.Outcome State Fault Refusal :=
  .next (State.after s (linkFaultClearedRow p s))

/-- R103: A frame received whole is checked, filtered, de-duplicated and passed to one consumer. -/
def execMacRxFrame (p : Nat) (f : WireFrame) (s : State) : Host.Outcome State Fault Refusal :=
  .next (State.after s (macRxFrameRow p f s))

/-- R110: The pause interval ends and paused queues may transmit. -/
def execPauseExpiry (p : Nat) (s : State) : Host.Outcome State Fault Refusal :=
  .next (State.after s (pauseExpiryRow p s))

/-- R112: A PTP, OUT or HOST frame is offered to a port and enqueued or tail-dropped. -/
def execTxEnqueue (s : State) : Host.Outcome State Fault Refusal :=
  .next (State.after s (txEnqueueRow s))

/-- R113: An ALARM frame is offered and always accepted, evicting older frames when needed. -/
def execAlarmEnqueue (s : State) : Host.Outcome State Fault Refusal :=
  .next (State.after s (alarmEnqueueRow s))

/-- R111: A frame finishes on the wire and the port starts the next queued frame by priority. -/
def execTxFrameDone (p : Nat) (s : State) : Host.Outcome State Fault Refusal :=
  .next (State.after s (txFrameDoneRow p s))

/-- R121: Intake takes a frame from its queue, applies the checks and splits a data frame into blocks. -/
def execIntakeFrame (s : State) : Host.Outcome State Fault Refusal :=
  .next (State.after s (intakeFrameRow s))

/-- R140: A write of BIN_DIR_CTRL.COPY starts copying LIVE into STAGE. -/
def execDirCopy (v : Word) (s : State) : Host.Outcome State Fault Refusal :=
  .next (State.after s (if v.getLsbD 30 then s.busWrite Reg.BIN_DIR_CTRL v 63 (dirCtrlWrite v) else s))

/-- R140: The directory copy completes and COPYING clears. -/
def execDirCopyDone (s : State) : Host.Outcome State Fault Refusal :=
  .next (State.after s (dirCopyDoneRow s))

/-- R141: A write of BIN_DIR_CTRL.APPLY starts validation of STAGE. -/
def execDirApply (v : Word) (s : State) : Host.Outcome State Fault Refusal :=
  .next (State.after s (if v.getLsbD 31 then s.busWrite Reg.BIN_DIR_CTRL v 63 (dirCtrlWrite v) else s))

/-- R143: Validation of STAGE completes, refusing it or setting PENDING and the effective instant E. -/
def execDirValidationDone (s : State) : Host.Outcome State Fault Refusal :=
  .next (State.after s (dirValidationDoneRow s))

/-- R146: A read of BIN_CFGCHG_FIFO with VALID set pops the entry. -/
def execCfgchgFifoRead (s : State) : Host.Outcome State Fault Refusal :=
  .next (State.after s (s.busRead Reg.BIN_CFGCHG_FIFO 63 cfgchgFifoReadRow))

/-- R146: A read of BIN_UNK_KEY clears VALID so a new unknown key can be captured. -/
def execUnkKeyRead (s : State) : Host.Outcome State Fault Refusal :=
  .next (State.after s (s.busRead Reg.BIN_UNK_KEY 63 unkKeyReadRow))

/-- R114: The HOST_SEND manifest sends a frame or segments on a port. -/
def execHostSend (n : Nat) (buf : Option (List Byte)) (s : State) : Host.Outcome State Fault Refusal :=
  .next (State.after s (manHostSend n buf s))

/-- R124: The INJECT manifest places a TCP-carried data frame into the intake queue. -/
def execInject (n : Nat) (buf : Option (List Byte)) (s : State) : Host.Outcome State Fault Refusal :=
  .next (State.after s (manInject n buf s))

end Sys2Proof.Machine
end

