-- ==== Sys2Proof/Machine/CmdQuay.lean ====
section
/-! DEFINITION. The meanings of the commands: alignment. Each is the command's own effect followed by what every command
brings with it. -/

namespace Sys2Proof.Machine

/-- R186: A write of ALN_CTRL.EN starts or stops the opening of quays, refused without a ring. -/
def execAlnEnWrite (v : Word) (s : State) : Host.Outcome State Fault Refusal :=
  .next (State.after s (s.busWrite Reg.ALN_CTRL v 63 (alnEnWriteRow v)))

/-- R187: A write of ALN_RING_BASE_HI validates the ring base and sets or clears RING_SET. -/
def execAlnRingBaseWrite (v : Word) (s : State) : Host.Outcome State Fault Refusal :=
  .next (State.after s (s.busWrite Reg.ALN_RING_BASE_HI v 63 (alnRingBaseWriteRow v)))

/-- R188: A write of ALN_PROBE_SEQ_HI starts a probe of a quay's state. -/
def execAlnProbe (v : Word) (s : State) : Host.Outcome State Fault Refusal :=
  .next (State.after s (s.busWrite Reg.ALN_PROBE_SEQ_HI v 63 (alnProbeRow v)))

/-- R177: A spill copy completes, SPILLED is set and the SRAM slot is freed. -/
def execQuaySpillDone (s : State) : Host.Outcome State Fault Refusal :=
  .next (State.after s (quaySpillDoneRow s))

/-- R160: An alignment engine takes a block from its input queue and writes, replaces, discards or rejects it. -/
def execAlnBlockWrite (s : State) : Host.Outcome State Fault Refusal :=
  .next (State.after s (alnBlockWriteRow s))

/-- R169: DT reaches the close instant plus 20 µs and the quay substitutes and settles. -/
def execQuaySettle (s : State) : Host.Outcome State Fault Refusal :=
  .next (State.after s (quaySettleRow s))

/-- R178: The seal copy completes, the header is written with STATE SEALED. -/
def execQuaySealDone (s : State) : Host.Outcome State Fault Refusal :=
  .next (State.after s (quaySealDoneRow s))

/-- R180: A seal or spill transfer reports an error and is retried once or the quay is sealed with SEAL_ERR. -/
def execTugTransferError (seq : Nat) (s : State) : Host.Outcome State Fault Refusal :=
  .next (State.after s (tugTransferErrorRow seq s))

/-- R178: With the quay rate removed, DT reaches C plus SEAL_DELAY quay intervals after settlement and the quay's seal begins. -/
def execSealInstantWithoutGrid (s : State) : Host.Outcome State Fault Refusal :=
  .next (State.after s (sealInstantWithoutGridRow s))

end Sys2Proof.Machine
end

