-- ==== Sys2Proof/Machine/CmdRtc.lean ====
section
/-! DEFINITION. The meanings of the commands: the backup domain. Each is the command's own effect followed by what every command
brings with it. -/

namespace Sys2Proof.Machine

/-- R523: The 3.3 V supply falls and the backup domain switches to VBAT, recording RTC_SWO_AT. -/
def execBkpSwitchToVbat (frac : Nat) (mv : Nat) (s : State) : Host.Outcome State Fault Refusal :=
  .next (State.after s (bkpSwitchToVbat frac mv s))

/-- R523: The 3.3 V supply returns and the backup domain switches back, recording RTC_RET_AT. -/
def execBkpReturnToMain (frac : Nat) (s : State) : Host.Outcome State Fault Refusal :=
  .next (State.after s (bkpReturnToMain frac s))

/-- R524: VBAT is measured once per second and BACKUP_LOW is updated. -/
def execVbatMeasure (mv : Nat) (s : State) : Host.Outcome State Fault Refusal :=
  .next (State.after s (vbatMeasure mv s))

/-- R525: The backup domain's internal supply stays below 1.60 V for 2 µs and its power-on reset asserts. -/
def execBkpPorAssert (s : State) : Host.Outcome State Fault Refusal :=
  .next (State.after s (bkpPorAssert s))

/-- R525: The internal supply stays above 1.80 V for 1 ms and the backup domain is released with TIME_LOST. -/
def execBkpPorRelease (s : State) : Host.Outcome State Fault Refusal :=
  .next (State.after s (bkpPorReleaseRow s))

/-- R529: A read of the RTC counter group freezes or returns its shadows. -/
def execRtcGroupRead (reg : Nat) (frac : Nat) (s : State) : Host.Outcome State Fault Refusal :=
  .next (State.after s (rtcGroupRead reg frac s))

/-- R529: The RTC shadows are released 2 ms after their freeze. -/
def execRtcShadowTimeout (s : State) : Host.Outcome State Fault Refusal :=
  .next (State.after s (rtcShadowTimeout s))

/-- R530: A write of RTC_CTRL.HALT freezes the seconds or adds ROLL and releases them. -/
def execRtcHaltWrite (v : Word) (s : State) : Host.Outcome State Fault Refusal :=
  .next (State.after s (s.busWrite Reg.RTC_CTRL v 63 (rtcCtrlWrite v)))

/-- R530: A write of RTC_SET_FRAC while halted loads the fraction and clears ROLL. -/
def execRtcSetFracWrite (v : Word) (s : State) : Host.Outcome State Fault Refusal :=
  .next (State.after s (s.busWrite Reg.RTC_SET_FRAC v 63 (rtcSetFracWrite v)))

/-- R530: A write of RTC_SET_SEC_HI while halted loads the seconds. -/
def execRtcSetSecWrite (v : Word) (s : State) : Host.Outcome State Fault Refusal :=
  .next (State.after s (s.busWrite Reg.RTC_SET_SEC_HI v 63 (rtcSetSecWrite v)))

/-- R531: The RTC reaches a multiple of PERIOD and the periodic wake fires. -/
def execRtcWake (s : State) : Host.Outcome State Fault Refusal :=
  .next (State.after s (rtcWakeFire s))

/-- R536: A write of RTC_RST_CTRL with the key starts a SOFTWARE core reset. -/
def execRtcRstCtrlWrite (v : Word) (env : BootEnv) (s : State) : Host.Outcome State Fault Refusal :=
  .next (State.after s (s.busWrite Reg.RTC_RST_CTRL v 63 (rtcRstWrite v env)))

/-- R530: The RTC fraction rolls over, which advances the seconds, or while halted advances ROLL and may set ROLL_OVF, and which wraps at 2^48 seconds. -/
def execRtcSecondRollover (s : State) : Host.Outcome State Fault Refusal :=
  .next (State.after s (rtcSecondRollover s))

end Sys2Proof.Machine
end

