-- ==== Sys2Proof/Machine/CmdTime.lean ====
section
/-! DEFINITION. The meanings of the commands: the time base. Each is the command's own effect followed by what every command
brings with it. -/

namespace Sys2Proof.Machine

/-- R81: A write of TB_SET_SEC_HI.APPLY fixes a time step to be applied at the next reporting instant or whole second. -/
def execTbSetApply (v : Word) (s : State) : Host.Outcome State Fault Refusal :=
  .next (State.after s (s.busWrite Reg.TB_SET_SEC_HI v 63 (tbSetApplyRow v)))

/-- R90: A write of TB_LEAP_CTRL.LOAD validates the leap-second table and schedules it for the next whole second. -/
def execTbLeapLoad (v : Word) (s : State) : Host.Outcome State Fault Refusal :=
  .next (State.after s (s.busWrite Reg.TB_LEAP_CTRL v 63 (tbLeapLoadRow v)))

/-- R98: A write to TB_SRC_CFG enables, disables or reconfigures a source slot and may return it to SEARCH. -/
def execTbSrcCfgWrite (slot : Nat) (v : Word) (s : State) : Host.Outcome State Fault Refusal :=
  .next (State.after s (if slot < 6 then s.busWrite (Reg.TB_SRC_CFG slot) v 63 (tbSrcCfgWriteRow slot v) else s))

/-- R62: A PTP message accepted by a slot updates its measurement, servo, best master selection and source state. -/
def execPtpMessageRx (port : Nat) (s : State) : Host.Outcome State Fault Refusal :=
  .next (State.after s (ptpMessageRxRow port s))

/-- R65: A slot's message interval expires and it sends a Delay_Req or Pdelay_Req. -/
def execPtpEventMessageTx (slot : Nat) (s : State) : Host.Outcome State Fault Refusal :=
  .next (State.after s (ptpEventTxRow slot s))

/-- R87: A port returns the transmit stamp of a two-step event message to its slot, which may then send the follow-up. -/
def execTxTimestampReturn (port : Nat) (msg : PtpSent) (stamp : Nat) (s : State) : Host.Outcome State Fault Refusal :=
  .next (State.after s (txTimestampRow port msg stamp s))

/-- R68: An edge on PPS_IN is stamped and taken as a measurement of slot 4 or rejected. -/
def execPpsEdge (rising : Bool) (stamp : Nat) (s : State) : Host.Outcome State Fault Refusal :=
  .next (State.after s (ppsEdgeRow rising stamp s))

/-- R71: A complete IRIG-B frame is decoded and taken as a measurement of slot 5 or dropped. -/
def execIrigbFrame (f : IrigFrame) (s : State) : Host.Outcome State Fault Refusal :=
  .next (State.after s (irigFrameRow f s))

/-- R61: A slot's loss time passes with no valid measurement and it enters LOST. -/
def execSourceLossTimeout (slot : Nat) (at_ : Nat) (s : State) : Host.Outcome State Fault Refusal :=
  .next (State.after s (sourceLossRow slot at_ s))

/-- R93: DT reaches a reporting instant and the instant event is delivered to every consumer. -/
def execReportingInstant (s : State) : Host.Outcome State Fault Refusal :=
  .next (State.after s (reportingInstantRow s))

/-- R94: DT reaches a whole TAI second; frac is the RTC fraction, healed the broken fault pairs whose test pulse of this second passes. -/
def execWholeTaiSecond (frac : Nat) (healed : List Nat) (s : State) : Host.Outcome State Fault Refusal :=
  .next (State.after s (wholeSecondRow frac healed s))

/-- R550: REF10M_IN leaves its limits and the TB PLL switches to SYS_REFCLK. -/
def execRef10mLost (s : State) : Host.Outcome State Fault Refusal :=
  .next (State.after s (ref10mLostRow s))

/-- R550: REF10M_IN has been within limits for 1 s and the TB PLL returns to it. -/
def execRef10mRestored (s : State) : Host.Outcome State Fault Refusal :=
  .next (State.after s (ref10mRestoredRow s))

/-- R79: The remaining offset of a slew comes within 10 ns (rest, in 2⁻¹⁶ ns) and SLEWING clears. -/
def execSlewingEnd (at_ : Nat) (rest : Int) (s : State) : Host.Outcome State Fault Refusal :=
  .next (State.after s (slewingEndRow at_ rest s))

end Sys2Proof.Machine
end

