-- ==== Sys2Proof/Machine/CmdTwin.lean ====
section
/-! DEFINITION. The meanings of the commands: the twin unit. Each is the command's own effect followed by what every command
brings with it. -/

namespace Sys2Proof.Machine

/-- R469: The TWN_HANDOVER manifest requests a planned hand-over. -/
def execTwnHandover (ring : Nat) (s : State) : Host.Outcome State Fault Refusal :=
  .next (State.after s (manTwnHandover ring s))

/-- R466: The TWN_RESYNC manifest requests resynchronisation. -/
def execTwnResync (ring : Nat) (s : State) : Host.Outcome State Fault Refusal :=
  .next (State.after s (manTwnResync ring s))

/-- R474: The TWN_SAVE manifest writes the twin saved state; ok is whether the flash takes it. -/
def execTwnSave (ring : Nat) (ok : Bool) (s : State) : Host.Outcome State Fault Refusal :=
  .next (State.after s (manTwnSave ring ok s))

/-- R469: A write of TWN_CTRL.HANDOVER requests a planned hand-over, with FORCE when set. -/
def execTwnCtrlHandover (force : Bool) (s : State) : Host.Outcome State Fault Refusal :=
  .next (State.after s (s.busWrite Reg.TWN_CTRL (if force then 6 else 2) 63 (twnCtrlHandoverRow force)))

/-- R466: A write of TWN_CTRL.RESYNC requests resynchronisation. -/
def execTwnCtrlResync (s : State) : Host.Outcome State Fault Refusal :=
  .next (State.after s (s.busWrite Reg.TWN_CTRL 8 63 (twnCtrlResyncRow)))

/-- R474: A write of TWN_CTRL.SAVE writes the twin saved state. -/
def execTwnCtrlSave (ok : Bool) (s : State) : Host.Outcome State Fault Refusal :=
  .next (State.after s (s.busWrite Reg.TWN_CTRL 16 63 (twnCtrlSaveRow ok)))

/-- R457: A write of TWN_CFG.EN enables pairing or returns the device to SOLO. -/
def execTwnEnWrite (v : Word) (s : State) : Host.Outcome State Fault Refusal :=
  .next (State.after s (s.busWrite Reg.TWN_CFG v 63 (twnEnWriteRow v)))

/-- R459: An Aizhan lane holds block lock for 10 ms and comes UP. -/
def execAizLaneUp (lane : Nat) (s : State) : Host.Outcome State Fault Refusal :=
  .next (State.after s (aizLaneUpRow lane s))

/-- R459: An Aizhan lane loses block lock and goes down. -/
def execAizLaneDown (lane : Nat) (s : State) : Host.Outcome State Fault Refusal :=
  .next (State.after s (aizLaneDownRow lane s))

/-- R461: The link comes UP or 100 ms pass unpaired and a HELLO frame is sent. -/
def execHelloTx (s : State) : Host.Outcome State Fault Refusal :=
  .next (State.after s (helloTxRow s))

/-- R457: A received HELLO frame drives pairing, joining, yielding or MISMATCH. -/
def execHello (frame : List Byte) (s : State) : Host.Outcome State Fault Refusal :=
  .next (State.after s (helloRow frame s))

/-- R467: Every 250 µs a HEARTBEAT frame and an HB word are sent. -/
def execHeartbeatTx (s : State) : Host.Outcome State Fault Refusal :=
  .next (State.after s (heartbeatTxRow s))

/-- R461: A received HEARTBEAT frame updates peer health, configuration check and TWN_DT_DIFF. -/
def execHeartbeat (frame : List Byte) (s : State) : Host.Outcome State Fault Refusal :=
  .next (State.after s (heartbeatRow frame s))

/-- R467: A word of 48 bits is received on HB_RX. -/
def execHbWordRx (w : Nat) (s : State) : Host.Outcome State Fault Refusal :=
  .next (State.after s (hbWordRxRow w s))

/-- R464: A received MIRROR frame's items are applied by the standby. -/
def execMirror (frame : List Byte) (s : State) : Host.Outcome State Fault Refusal :=
  .next (State.after s (mirrorRow frame s))

/-- R466: A received RESYNC frame is a standby request or a transfer item set, ending with END. -/
def execResync (frame : List Byte) (s : State) : Host.Outcome State Fault Refusal :=
  .next (State.after s (resyncRow frame s))

/-- R469: A received HANDOVER frame is answered TAKE or REFUSE by the standby. -/
def execHandover (frame : List Byte) (s : State) : Host.Outcome State Fault Refusal :=
  .next (State.after s (handoverRow frame s))

/-- R469: A received TAKE frame completes or refuses the planned hand-over at the active device. -/
def execTake (frame : List Byte) (s : State) : Host.Outcome State Fault Refusal :=
  .next (State.after s (takeRow frame s))

/-- R469: No answer arrives within 1,000 µs and the device returns to ACTIVE with TIMEOUT. -/
def execHandoverAnswerTimeout (s : State) : Host.Outcome State Fault Refusal :=
  .next (State.after s (handoverAnswerTimeoutRow s))

/-- R470: At H + 1,000 µs a former active device whose peer did not take returns to ACTIVE. -/
def execHandoverReturnCheck (s : State) : Host.Outcome State Fault Refusal :=
  .next (State.after s (handoverReturnCheckRow s))

/-- R472: A TAKING device applies mirror and replay items and enters ACTIVE in one alarm-unit step. -/
def execTakeover (s : State) : Host.Outcome State Fault Refusal :=
  .next (State.after s (takeoverRow s))

/-- R467: A heartbeat path carries no valid heartbeat for 1,000 µs and is lost: the HB path, or the Aizhan path. -/
def execPathLost (hb : Bool) (s : State) : Host.Outcome State Fault Refusal :=
  .next (State.after s (pathLostRow hb s))

/-- R468: No valid heartbeat arrives on either path for 3,000 µs and the device acts by its role. -/
def execBothLost (s : State) : Host.Outcome State Fault Refusal :=
  .next (State.after s (bothLostRow s))

/-- R457: No HELLO arrives within 1,000 ms in WAIT and the device enters SOLO and restores. -/
def execTwnWaitTimeout (s : State) : Host.Outcome State Fault Refusal :=
  .next (State.after s (twnWaitTimeoutRow s))

/-- R457: No resynchronisation completes within 2,000 ms of JOINING and the device enters SOLO. -/
def execTwnJoinTimeout (s : State) : Host.Outcome State Fault Refusal :=
  .next (State.after s (twnJoinTimeoutRow s))

/-- R457: The link has been down for 1,000 ms in MISMATCH and the device enters SOLO. -/
def execTwnMismatchTimeout (s : State) : Host.Outcome State Fault Refusal :=
  .next (State.after s (twnMismatchTimeoutRow s))

/-- R474: SAVE_S seconds pass and the twin saved state is written. -/
def execTwnPeriodicSave (ok : Bool) (s : State) : Host.Outcome State Fault Refusal :=
  .next (State.after s (twnPeriodicSaveRow ok s))

/-- R475: TEST_S seconds pass on a standby and a SELFTEST rotation of the next engine is requested. -/
def execTwnStandbyTest (s : State) : Host.Outcome State Fault Refusal :=
  .next (State.after s (twnStandbyTestRow s))

/-- R465: A frame leaves the Aizhan link and its items leave the 256 KiB mirror queue, freeing space. -/
def execAizhanFrameSent (s : State) : Host.Outcome State Fault Refusal :=
  .next (State.after s (aizhanFrameSentRow s))

end Sys2Proof.Machine
end

