-- ==== Sys2Proof/Machine/Dispatch.lean ====
section
/-! DEFINITION. The meaning of each command, by its constructor. -/

namespace Sys2Proof.Machine

/-- The effect of a command on everything but the queue. -/
def exec (i : Instr) (s : State) : Host.Outcome State Fault Refusal :=
  match i with
  | .coreReset cause env => Sys2Proof.Machine.execCoreReset cause env s
  | .perstNAssert env => Sys2Proof.Machine.execPerstNAssert env s
  | .hifReset kind => Sys2Proof.Machine.execHifReset kind s
  | .busMasterEnableChange on => Sys2Proof.Machine.execBusMasterEnableChange on s
  | .pcieD3hotEnter => Sys2Proof.Machine.execPcieD3hotEnter s
  | .pcieD0Return => Sys2Proof.Machine.execPcieD0Return s
  | .registerWrite addr v => Sys2Proof.Machine.execRegisterWrite addr v s
  | .missizedAccess bar2 addr size write => Sys2Proof.Machine.execMissizedAccess bar2 addr size write s
  | .unmappedAccess addr write => Sys2Proof.Machine.execUnmappedAccess addr write s
  | .pairLoRead addr => Sys2Proof.Machine.execPairLoRead addr s
  | .pairHiWrite addr v => Sys2Proof.Machine.execPairHiWrite addr v s
  | .rcRead addr => Sys2Proof.Machine.execRcRead addr s
  | .timestampSubnsRead addr => Sys2Proof.Machine.execTimestampSubnsRead addr s
  | .windowDataAccess addr write => Sys2Proof.Machine.execWindowDataAccess addr write s
  | .counterClear addr v => Sys2Proof.Machine.execCounterClear addr v s
  | .tbSetApply v => Sys2Proof.Machine.execTbSetApply v s
  | .tbLeapLoad v => Sys2Proof.Machine.execTbLeapLoad v s
  | .tbSrcCfgWrite slot v => Sys2Proof.Machine.execTbSrcCfgWrite slot v s
  | .ptpMessageRx port => Sys2Proof.Machine.execPtpMessageRx port s
  | .ptpEventMessageTx slot => Sys2Proof.Machine.execPtpEventMessageTx slot s
  | .txTimestampReturn port msg stamp => Sys2Proof.Machine.execTxTimestampReturn port msg stamp s
  | .ppsEdge rising stamp => Sys2Proof.Machine.execPpsEdge rising stamp s
  | .irigbFrame f => Sys2Proof.Machine.execIrigbFrame f s
  | .sourceLossTimeout slot at_ => Sys2Proof.Machine.execSourceLossTimeout slot at_ s
  | .reportingInstant => Sys2Proof.Machine.execReportingInstant s
  | .wholeTaiSecond frac healed => Sys2Proof.Machine.execWholeTaiSecond frac healed s
  | .ref10mLost => Sys2Proof.Machine.execRef10mLost s
  | .ref10mRestored => Sys2Proof.Machine.execRef10mRestored s
  | .macEnWrite p v receiving => Sys2Proof.Machine.execMacEnWrite p v receiving s
  | .linkLockAcquired p => Sys2Proof.Machine.execLinkLockAcquired p s
  | .linkLockLost p receiving => Sys2Proof.Machine.execLinkLockLost p receiving s
  | .autonegComplete p => Sys2Proof.Machine.execAutonegComplete p s
  | .sgmiiControlRx p slow receiving => Sys2Proof.Machine.execSgmiiControlRx p slow receiving s
  | .linkQualified p => Sys2Proof.Machine.execLinkQualified p s
  | .linkFaultRx p remote hiBer receiving => Sys2Proof.Machine.execLinkFaultRx p remote hiBer receiving s
  | .linkFaultCleared p => Sys2Proof.Machine.execLinkFaultCleared p s
  | .macRxFrame p f => Sys2Proof.Machine.execMacRxFrame p f s
  | .pauseExpiry p => Sys2Proof.Machine.execPauseExpiry p s
  | .txEnqueue => Sys2Proof.Machine.execTxEnqueue s
  | .alarmEnqueue => Sys2Proof.Machine.execAlarmEnqueue s
  | .txFrameDone p => Sys2Proof.Machine.execTxFrameDone p s
  | .intakeFrame => Sys2Proof.Machine.execIntakeFrame s
  | .dirCopy v => Sys2Proof.Machine.execDirCopy v s
  | .dirCopyDone => Sys2Proof.Machine.execDirCopyDone s
  | .dirApply v => Sys2Proof.Machine.execDirApply v s
  | .dirValidationDone => Sys2Proof.Machine.execDirValidationDone s
  | .cfgchgFifoRead => Sys2Proof.Machine.execCfgchgFifoRead s
  | .unkKeyRead => Sys2Proof.Machine.execUnkKeyRead s
  | .alnEnWrite v => Sys2Proof.Machine.execAlnEnWrite v s
  | .alnRingBaseWrite v => Sys2Proof.Machine.execAlnRingBaseWrite v s
  | .alnProbe v => Sys2Proof.Machine.execAlnProbe v s
  | .quaySpillDone => Sys2Proof.Machine.execQuaySpillDone s
  | .alnBlockWrite => Sys2Proof.Machine.execAlnBlockWrite s
  | .quaySettle => Sys2Proof.Machine.execQuaySettle s
  | .quaySealDone => Sys2Proof.Machine.execQuaySealDone s
  | .tugTransferError seq => Sys2Proof.Machine.execTugTransferError seq s
  | .oscEnWrite v => Sys2Proof.Machine.execOscEnWrite v s
  | .oscProvEval g => Sys2Proof.Machine.execOscProvEval g s
  | .oscSettleEval g => Sys2Proof.Machine.execOscSettleEval g s
  | .oscFold g => Sys2Proof.Machine.execOscFold g s
  | .oscExtract g => Sys2Proof.Machine.execOscExtract g s
  | .islEnWrite v => Sys2Proof.Machine.execIslEnWrite v s
  | .islProvEval => Sys2Proof.Machine.execIslProvEval s
  | .islSettleEval => Sys2Proof.Machine.execIslSettleEval s
  | .islFold => Sys2Proof.Machine.execIslFold s
  | .islNodeProbe v => Sys2Proof.Machine.execIslNodeProbe v s
  | .islBranchProbe v => Sys2Proof.Machine.execIslBranchProbe v s
  | .alarmInput => Sys2Proof.Machine.execAlarmInput s
  | .alarmAcknowledge slot gen => Sys2Proof.Machine.execAlarmAcknowledge slot gen s
  | .almAckGo v => Sys2Proof.Machine.execAlmAckGo v s
  | .almHostGo v => Sys2Proof.Machine.execAlmHostGo v s
  | .lhPulseEnd pin => Sys2Proof.Machine.execLhPulseEnd pin s
  | .almMessageClose dest => Sys2Proof.Machine.execAlmMessageClose dest s
  | .almMessageRepeat dest => Sys2Proof.Machine.execAlmMessageRepeat dest s
  | .almKeepalive dest => Sys2Proof.Machine.execAlmKeepalive dest s
  | .feEnWrite v => Sys2Proof.Machine.execFeEnWrite v s
  | .feSampleSet release pins refHz altHz => Sys2Proof.Machine.execFeSampleSet release pins refHz altHz s
  | .feChannelCondition ch clip on => Sys2Proof.Machine.execFeChannelCondition ch clip on s
  | .fePllRealign => Sys2Proof.Machine.execFePllRealign s
  | .feCalSwapGo v => Sys2Proof.Machine.execFeCalSwapGo v s
  | .lpeEstimate entry sec k handOff => Sys2Proof.Machine.execLpeEstimate entry sec k handOff s
  | .mtrEnWrite v => Sys2Proof.Machine.execMtrEnWrite v s
  | .mtrCycle now => Sys2Proof.Machine.execMtrCycle now s
  | .mtrFlashSaveDone ok => Sys2Proof.Machine.execMtrFlashSaveDone ok s
  | .pulseStart o => Sys2Proof.Machine.execPulseStart o s
  | .pulseEnd o => Sys2Proof.Machine.execPulseEnd o s
  | .pfwAssert => Sys2Proof.Machine.execPfwAssert s
  | .pfwDeassert => Sys2Proof.Machine.execPfwDeassert s
  | .capChArm ch => Sys2Proof.Machine.execCapChArm ch s
  | .capChAbort ch => Sys2Proof.Machine.execCapChAbort ch s
  | .capChSwtrig ch => Sys2Proof.Machine.execCapChSwtrig ch s
  | .capTrigger ch => Sys2Proof.Machine.execCapTrigger ch s
  | .capOverflow ch fifo => Sys2Proof.Machine.execCapOverflow ch fifo s
  | .capEnd ch => Sys2Proof.Machine.execCapEnd ch s
  | .trgPulseRx line fall rise => Sys2Proof.Machine.execTrgPulseRx line fall rise s
  | .trgLineStuck line => Sys2Proof.Machine.execTrgLineStuck line s
  | .capTrgOutGo v => Sys2Proof.Machine.execCapTrgOutGo v s
  | .trgOutPulseStart line stamp => Sys2Proof.Machine.execTrgOutPulseStart line stamp s
  | .trgOutPulseEnd line => Sys2Proof.Machine.execTrgOutPulseEnd line s
  | .logRingBaseWrite v => Sys2Proof.Machine.execLogRingBaseWrite v s
  | .logEvent => Sys2Proof.Machine.execLogEvent s
  | .logRecordWrite => Sys2Proof.Machine.execLogRecordWrite s
  | .logCheckpoint => Sys2Proof.Machine.execLogCheckpoint s
  | .logNonceRead => Sys2Proof.Machine.execLogNonceRead s
  | .taskSubmit req => Sys2Proof.Machine.execTaskSubmit req s
  | .taskDispatch cls => Sys2Proof.Machine.execTaskDispatch cls s
  | .taskWait ix => Sys2Proof.Machine.execTaskWait ix s
  | .waitEventArrives ix => Sys2Proof.Machine.execWaitEventArrives ix s
  | .waitTimeout ix => Sys2Proof.Machine.execWaitTimeout ix s
  | .delayWake ix => Sys2Proof.Machine.execDelayWake ix s
  | .taskAging ix => Sys2Proof.Machine.execTaskAging ix s
  | .taskComplete ix => Sys2Proof.Machine.execTaskComplete ix s
  | .taskAbort h owner => Sys2Proof.Machine.execTaskAbort h owner s
  | .pltTaskProbe v => Sys2Proof.Machine.execPltTaskProbe v s
  | .pltRlCapWrite c v => Sys2Proof.Machine.execPltRlCapWrite c v s
  | .pltRotFirmware v => Sys2Proof.Machine.execPltRotFirmware v s
  | .pltRotSelftest v => Sys2Proof.Machine.execPltRotSelftest v s
  | .rotDrainTimeout => Sys2Proof.Machine.execRotDrainTimeout s
  | .engineLoadDone sigOk => Sys2Proof.Machine.execEngineLoadDone sigOk s
  | .engineTestDone ok => Sys2Proof.Machine.execEngineTestDone ok s
  | .engineRejoinDone e => Sys2Proof.Machine.execEngineRejoinDone e s
  | .engCounterWrap e ix addr skid busy => Sys2Proof.Machine.execEngCounterWrap e ix addr skid busy s
  | .engCntClr e => Sys2Proof.Machine.execEngCntClr e s
  | .engCntSelWrite e ix v => Sys2Proof.Machine.execEngCntSelWrite e ix v s
  | .engCntPreload e ix v => Sys2Proof.Machine.execEngCntPreload e ix v s
  | .freezeAllWrite v => Sys2Proof.Machine.execFreezeAllWrite v s
  | .clrAll => Sys2Proof.Machine.execClrAll s
  | .dbgTapReset => Sys2Proof.Machine.execDbgTapReset s
  | .extest resetLow bits => Sys2Proof.Machine.execExtest resetLow bits s
  | .samplePreload captured bits => Sys2Proof.Machine.execSamplePreload captured bits s
  | .idcode => Sys2Proof.Machine.execIdcode s
  | .highz resetLow => Sys2Proof.Machine.execHighz resetLow s
  | .clamp resetLow => Sys2Proof.Machine.execClamp resetLow s
  | .bypass => Sys2Proof.Machine.execBypass s
  | .dbgNonce => Sys2Proof.Machine.execDbgNonce s
  | .dbgUnlock level sig => Sys2Proof.Machine.execDbgUnlock level sig s
  | .memapRead off => Sys2Proof.Machine.execMemapRead off s
  | .memapWrite off v => Sys2Proof.Machine.execMemapWrite off v s
  | .engdbgHalt e => Sys2Proof.Machine.execEngdbgHalt e s
  | .engdbgResume e => Sys2Proof.Machine.execEngdbgResume e s
  | .engdbgStep e => Sys2Proof.Machine.execEngdbgStep e s
  | .engdbgReadLocal e addr => Sys2Proof.Machine.execEngdbgReadLocal e addr s
  | .engdbgReadReg e r => Sys2Proof.Machine.execEngdbgReadReg e r s
  | .dbgRelock => Sys2Proof.Machine.execDbgRelock s
  | .dbgPortDis => Sys2Proof.Machine.execDbgPortDis s
  | .ringPairEnWrite n v => Sys2Proof.Machine.execRingPairEnWrite n v s
  | .sqTailDoorbell n v => Sys2Proof.Machine.execSqTailDoorbell n v s
  | .cqHeadDoorbell n v => Sys2Proof.Machine.execCqHeadDoorbell n v s
  | .manifestFetch n bytes => Sys2Proof.Machine.execManifestFetch n bytes s
  | .manifestComplete n => Sys2Proof.Machine.execManifestComplete n s
  | .hostDmaError n => Sys2Proof.Machine.execHostDmaError n s
  | .delivery => Sys2Proof.Machine.execDelivery s
  | .deliveryTimeout n => Sys2Proof.Machine.execDeliveryTimeout n s
  | .coalesceTimer n => Sys2Proof.Machine.execCoalesceTimer n s
  | .nop n => Sys2Proof.Machine.execNop n s
  | .abort n => Sys2Proof.Machine.execAbort n s
  | .cfgLoad n buf => Sys2Proof.Machine.execCfgLoad n buf s
  | .cfgWrite n buf => Sys2Proof.Machine.execCfgWrite n buf s
  | .cfgCopy n => Sys2Proof.Machine.execCfgCopy n s
  | .commit n => Sys2Proof.Machine.execCommit n s
  | .commitValidationDone => Sys2Proof.Machine.execCommitValidationDone s
  | .cfgSave n ok => Sys2Proof.Machine.execCfgSave n ok s
  | .cfgRead n ok => Sys2Proof.Machine.execCfgRead n ok s
  | .cfgSwinWrite v => Sys2Proof.Machine.execCfgSwinWrite v s
  | .hostSend n buf => Sys2Proof.Machine.execHostSend n buf s
  | .inject n buf => Sys2Proof.Machine.execInject n buf s
  | .almAck ring => Sys2Proof.Machine.execAlmAck ring s
  | .almHost ring => Sys2Proof.Machine.execAlmHost ring s
  | .capArm n => Sys2Proof.Machine.execCapArm n s
  | .capTriggerManifest n => Sys2Proof.Machine.execCapTriggerManifest n s
  | .capAbort n => Sys2Proof.Machine.execCapAbort n s
  | .mtrReset n buf => Sys2Proof.Machine.execMtrReset n buf s
  | .mtrRead n ok => Sys2Proof.Machine.execMtrRead n ok s
  | .logNote n => Sys2Proof.Machine.execLogNote n s
  | .logClear n buf => Sys2Proof.Machine.execLogClear n buf s
  | .fwStage n buf sigOk ok ver => Sys2Proof.Machine.execFwStage n buf sigOk ok ver s
  | .rotate n => Sys2Proof.Machine.execRotate n s
  | .subsysSet n ok => Sys2Proof.Machine.execSubsysSet n ok s
  | .keyWrite n buf => Sys2Proof.Machine.execKeyWrite n buf s
  | .keyReplace n buf => Sys2Proof.Machine.execKeyReplace n buf s
  | .keyErase n => Sys2Proof.Machine.execKeyErase n s
  | .keyPubkey n ok => Sys2Proof.Machine.execKeyPubkey n ok s
  | .keyClose n => Sys2Proof.Machine.execKeyClose n s
  | .keyNonceRead => Sys2Proof.Machine.execKeyNonceRead s
  | .keyStoreWriteDone ok => Sys2Proof.Machine.execKeyStoreWriteDone ok s
  | .keyDeriveDone slot => Sys2Proof.Machine.execKeyDeriveDone slot s
  | .cryptoOpDone ix => Sys2Proof.Machine.execCryptoOpDone ix s
  | .twnHandover ring => Sys2Proof.Machine.execTwnHandover ring s
  | .twnResync ring => Sys2Proof.Machine.execTwnResync ring s
  | .twnSave ring ok => Sys2Proof.Machine.execTwnSave ring ok s
  | .twnCtrlHandover force => Sys2Proof.Machine.execTwnCtrlHandover force s
  | .twnCtrlResync => Sys2Proof.Machine.execTwnCtrlResync s
  | .twnCtrlSave ok => Sys2Proof.Machine.execTwnCtrlSave ok s
  | .twnEnWrite v => Sys2Proof.Machine.execTwnEnWrite v s
  | .aizLaneUp lane => Sys2Proof.Machine.execAizLaneUp lane s
  | .aizLaneDown lane => Sys2Proof.Machine.execAizLaneDown lane s
  | .helloTx => Sys2Proof.Machine.execHelloTx s
  | .hello f => Sys2Proof.Machine.execHello f s
  | .heartbeatTx => Sys2Proof.Machine.execHeartbeatTx s
  | .heartbeat f => Sys2Proof.Machine.execHeartbeat f s
  | .hbWordRx w => Sys2Proof.Machine.execHbWordRx w s
  | .mirror f => Sys2Proof.Machine.execMirror f s
  | .resync f => Sys2Proof.Machine.execResync f s
  | .handover f => Sys2Proof.Machine.execHandover f s
  | .take f => Sys2Proof.Machine.execTake f s
  | .handoverAnswerTimeout => Sys2Proof.Machine.execHandoverAnswerTimeout s
  | .handoverReturnCheck => Sys2Proof.Machine.execHandoverReturnCheck s
  | .takeover => Sys2Proof.Machine.execTakeover s
  | .pathLost hb => Sys2Proof.Machine.execPathLost hb s
  | .bothLost => Sys2Proof.Machine.execBothLost s
  | .twnWaitTimeout => Sys2Proof.Machine.execTwnWaitTimeout s
  | .twnJoinTimeout => Sys2Proof.Machine.execTwnJoinTimeout s
  | .twnMismatchTimeout => Sys2Proof.Machine.execTwnMismatchTimeout s
  | .twnPeriodicSave ok => Sys2Proof.Machine.execTwnPeriodicSave ok s
  | .twnStandbyTest => Sys2Proof.Machine.execTwnStandbyTest s
  | .faultEvent ext => Sys2Proof.Machine.execFaultEvent ext s
  | .faultPairBroken src => Sys2Proof.Machine.execFaultPairBroken src s
  | .faultLevelDecay src => Sys2Proof.Machine.execFaultLevelDecay src s
  | .faultReactionDone => Sys2Proof.Machine.execFaultReactionDone s
  | .fltFerRelease v => Sys2Proof.Machine.execFltFerRelease v s
  | .fltInjectGo v => Sys2Proof.Machine.execFltInjectGo v s
  | .fltInject ring => Sys2Proof.Machine.execFltInject ring s
  | .fltReleaseGo v => Sys2Proof.Machine.execFltReleaseGo v s
  | .fltRelease ring => Sys2Proof.Machine.execFltRelease ring s
  | .degradeClr => Sys2Proof.Machine.execDegradeClr s
  | .bstRun ring => Sys2Proof.Machine.execBstRun ring s
  | .bstCtrlSlice slice => Sys2Proof.Machine.execBstCtrlSlice slice s
  | .bstCtrlWhole => Sys2Proof.Machine.execBstCtrlWhole s
  | .bstCtrlShutdown => Sys2Proof.Machine.execBstCtrlShutdown s
  | .bstCtrlAbort => Sys2Proof.Machine.execBstCtrlAbort s
  | .bistSliceDone pass => Sys2Proof.Machine.execBistSliceDone pass s
  | .pwrLtrWrite v => Sys2Proof.Machine.execPwrLtrWrite v s
  | .pwrEntryStepDone => Sys2Proof.Machine.execPwrEntryStepDone s
  | .pwrWake src => Sys2Proof.Machine.execPwrWake src s
  | .bkpSwitchToVbat frac mv => Sys2Proof.Machine.execBkpSwitchToVbat frac mv s
  | .bkpReturnToMain frac => Sys2Proof.Machine.execBkpReturnToMain frac s
  | .vbatMeasure mv => Sys2Proof.Machine.execVbatMeasure mv s
  | .bkpPorAssert => Sys2Proof.Machine.execBkpPorAssert s
  | .bkpPorRelease => Sys2Proof.Machine.execBkpPorRelease s
  | .rtcGroupRead reg frac => Sys2Proof.Machine.execRtcGroupRead reg frac s
  | .rtcShadowTimeout => Sys2Proof.Machine.execRtcShadowTimeout s
  | .rtcHaltWrite v => Sys2Proof.Machine.execRtcHaltWrite v s
  | .rtcSetFracWrite v => Sys2Proof.Machine.execRtcSetFracWrite v s
  | .rtcSetSecWrite v => Sys2Proof.Machine.execRtcSetSecWrite v s
  | .rtcWake => Sys2Proof.Machine.execRtcWake s
  | .rtcRstCtrlWrite v env => Sys2Proof.Machine.execRtcRstCtrlWrite v env s
  | .eccAddrRead => Sys2Proof.Machine.execEccAddrRead s
  | .mtrPointLatchRead m => Sys2Proof.Machine.execMtrPointLatchRead m s
  | .slewingEnd at_ rest => Sys2Proof.Machine.execSlewingEnd at_ rest s
  | .sealInstantWithoutGrid => Sys2Proof.Machine.execSealInstantWithoutGrid s
  | .aizhanFrameSent => Sys2Proof.Machine.execAizhanFrameSent s
  | .powerStateExitDone => Sys2Proof.Machine.execPowerStateExitDone s
  | .pcieLinkStateChange speed width l1 => Sys2Proof.Machine.execPcieLinkStateChange speed width l1 s
  | .trgLineStuckEnd line => Sys2Proof.Machine.execTrgLineStuckEnd line s
  | .rtcSecondRollover => Sys2Proof.Machine.execRtcSecondRollover s

end Sys2Proof.Machine
end

