-- ==== Sys2Proof/Safety.lean ====
section
/-! DEFINITION. What a safe state is: the two sparse maps of the state are in their canonical form, so that equal registers and
equal DRAM are equal data; and what no command ever takes back. -/

namespace Sys2Proof.Machine

/-- The invariant of the machine: registers and DRAM in canonical form. -/
def State.Inv (s : State) : Prop := MapWf resetAt s.regs ∧ Memory.wf s.dram

/-- What no command takes back: the waiting commands stay as they are; the part and its DRAM are what they are (R3, R447); the
PROV_CLOSED bit of the OTP is never cleared (R513); no free value is used twice; and what has been put out stays put out. The
canonical forms are kept. -/
structure Keeps (s t : State) : Prop where
  pending : t.pending = s.pending
  variant : t.hw.variant = s.hw.variant
  dramGiB : t.hw.dramGiB = s.hw.dramGiB
  closed : s.hw.provClosed = true → t.hw.provClosed = true
  fresh : s.fresh ≤ t.fresh
  out : s.out <+: t.out
  regs : MapWf resetAt s.regs → MapWf resetAt t.regs
  dram : Memory.wf s.dram → Memory.wf t.dram

/-! ### The vocabulary of the statements -/

/-- The command c, taken in the state s, answers the next state that its own effect u leaves once what follows every command has
been done. -/
def Answers (c : Instr) (s u : State) : Prop := exec c s = .next (State.after s u)

/-- A write of an offset reaches its unit: the unit is present (R3, R4) and not fenced (R486), its domain runs and the write ends
no entry condition of the present power state (R450). -/
abbrev State.Reaches (s : State) (o : Nat) (v : Word) : Prop :=
  s.blockAbsent o = false ∧ s.blockFenced o = false ∧ s.blockStopped o = false ∧ s.endsCondition o v = false

/-- A read of an offset reaches its unit: the unit is present and its domain runs (R3, R4, R450). -/
abbrev State.Readable (s : State) (o : Nat) : Prop := s.blockAbsent o = false ∧ s.blockStopped o = false

/-- Ring pair n starts the manifest m now: the pair runs, m is its oldest manifest not yet started, ordering lets it start, its
opcode is op, and nothing makes it complete without starting (R427, R431, R433). -/
abbrev State.Starts (s : State) (n op : Nat) (m : Fetched) : Prop :=
  (s.ring n).st = .running ∧ (s.ring n).startable = some m ∧ mOpcode m.bytes = op ∧ s.mReject m.bytes = none

end Sys2Proof.Machine
end

