-- ==== Sys2Proof/WellFormed.lean ====
section
/-! DEFINITION. Which commands are well formed: every number a command carries lies in the range the manual gives the thing it
names. A command outside these ranges names nothing the hardware has. -/

namespace Sys2Proof

/-- A port: P0 to P5 (R99). -/
def portOk (n : Nat) : Bool := decide (n < 6)

/-- A source slot: numbered from 0 to 5 (R59). -/
def slotOk (n : Nat) : Bool := decide (n < 6)

/-- A PTP source slot: 0 to 3 (R59). -/
def ptpSlotOk (n : Nat) : Bool := decide (n < 4)

/-- A PTP sequence identifier: 16 bits (R63). -/
def seqOk (n : Nat) : Bool := decide (n < 2 ^ 16)

/-- A metering pulse output: six entries of the pulse table (R358). -/
def pulseOk (n : Nat) : Bool := decide (n < 6)

/-- A metering point: 0 to 2 (R335). -/
def pointOk (n : Nat) : Bool := decide (n < 3)

/-- An oscillation group: numbered from 0 to 255 (R190). -/
def groupOk (n : Nat) : Bool := decide (n < 256)

/-- An engine: up to 32 (R23). -/
def engineOk (n : Nat) : Bool := decide (n < 32)

/-- A task class: 48 ready lists of eight priorities each (R390). -/
def classOk (n : Nat) : Bool := decide (n < 6)

/-- A ring pair: 16 (R424). -/
def ringOk (n : Nat) : Bool := decide (n < 16)

/-- A capture channel: 0 to 3 (R363). -/
def chOk (n : Nat) : Bool := decide (n < 4)

/-- A front-end channel: 24 (R299). -/
def feChOk (n : Nat) : Bool := decide (n < 24)

/-- A trigger line (R375). -/
def lineOk (n : Nat) : Bool := decide (n < 4)

/-- An alarm pin LHp: p from 0 to 15 (R279). -/
def pinOk (n : Nat) : Bool := decide (n < 16)

/-- An alarm destination: four (R294). -/
def destOk (n : Nat) : Bool := decide (n < 4)

/-- A lane of the Aizhan link: two (R459). -/
def laneOk (n : Nat) : Bool := decide (n < 2)

/-- A BIST slice: 48 (R493). -/
def sliceOk (n : Nat) : Bool := decide (n < 48)

/-- A core-reset cause: the codes 0 to 5 of R536. -/
def causeOk (n : Nat) : Bool := decide (n < 6)

/-- A reset of the HIF block: FLR, hot reset or link down (R421). -/
def resetKindOk (n : Nat) : Bool := decide (n < 3)

/-- An aligned offset of BAR0, which is 16 MiB (R410, R420). -/
def bar0WordOk (n : Nat) : Bool := decide (n < 2 ^ 24) && n % 4 == 0

/-- An alarm slot: 1,088 (R271). -/
def alarmSlotOk (n : Nat) : Bool := decide (n < 1088)

/-- An alarm slot's generation: 32 bits (R274). -/
def alarmGenOk (n : Nat) : Bool := decide (n < 2 ^ 32)

/-- A task descriptor: 4,096 (R388). -/
def taskOk (n : Nat) : Bool := decide (n < 4096)

/-- A lease generation: 8 bits (R44). -/
def leaseGenOk (n : Nat) : Bool := decide (n < 256)

/-- A programmable counter of an engine: eight (R406). -/
def counterOk (n : Nat) : Bool := decide (n < 8)

/-- A MEMAP address: 32 bits (R415). -/
def memapOk (n : Nat) : Bool := decide (n < 2 ^ 32)

/-- The level a DBG_UNLOCK request names: 8 bits (R414). -/
def levelByteOk (n : Nat) : Bool := decide (n < 256)

/-- A derived key slot: 56 to 63 (R511). -/
def keySlotOk (n : Nat) : Bool := decide (56 ≤ n) && decide (n < 64)

/-- A crypto context: eight (R516). -/
def cryptoOk (n : Nat) : Bool := decide (n < 8)

/-- An HB word: 48 bits (R467). -/
def hbWordOk (n : Nat) : Bool := decide (n < 2 ^ 48)

/-- A fault source: 96 (R478). -/
def sourceOk (n : Nat) : Bool := decide (n < 96)

/-- A wake source code of PWR_WAKE_SRC (R455). -/
def wakeOk (n : Nat) : Bool := decide (1 ≤ n) && decide (n ≤ 7)

/-- A register of the RTC counter group: three (R529). -/
def rtcRegOk (n : Nat) : Bool := decide (n < 3)

/-- An entry of the local map: 16 (R321). -/
def lpeOk (n : Nat) : Bool := decide (n < 16)

/-- The RTC fraction: 15 bits (R526). -/
def fracOk (n : Nat) : Bool := decide (n < 2 ^ 15)

/-- An offset of BAR0 (16 MiB) or of BAR2 (64 KiB) (R420). -/
def barOk (bar2 : Bool) (n : Nat) : Bool := decide (n < if bar2 then 2 ^ 16 else 2 ^ 24)

/-- An access size of PCI Express that is not one aligned word (R15). -/
def missized (addr size : Nat) : Bool := decide (1 ≤ size) && decide (size ≤ 64) && !(size == 4 && addr % 4 == 0)

/-- What the FE_D pins have done since the last set: 24 pins (R300). -/
def samplesOk (x : List (List (Nat × Bool))) : Bool := x.length == 24

/-- A raw signature: 64 bytes (R414). -/
def sigOk (b : List Byte) : Bool := b.length == 64

/-- Whether a command is well formed. -/
def Instr.wf : Instr → Bool
  | .coreReset cause _ => causeOk cause
  | .perstNAssert _ => true
  | .hifReset kind => resetKindOk kind
  | .busMasterEnableChange _ => true
  | .pcieD3hotEnter => true
  | .pcieD0Return => true
  | .registerWrite addr _ => bar0WordOk addr
  | .missizedAccess bar2 addr size _ => barOk bar2 addr && missized addr size
  | .unmappedAccess addr _ => bar0WordOk addr
  | .pairLoRead addr => bar0WordOk addr
  | .pairHiWrite addr _ => bar0WordOk addr
  | .rcRead addr => bar0WordOk addr
  | .timestampSubnsRead addr => bar0WordOk addr
  | .windowDataAccess addr _ => bar0WordOk addr
  | .counterClear addr _ => bar0WordOk addr
  | .tbSetApply _ => true
  | .tbLeapLoad _ => true
  | .tbSrcCfgWrite slot _ => slotOk slot
  | .ptpMessageRx port => portOk port
  | .ptpEventMessageTx slot => ptpSlotOk slot
  | .txTimestampReturn port msg _ => port < 6 && ptpSlotOk msg.slot && seqOk msg.seq
  | .ppsEdge _ _ => true
  | .irigbFrame _ => true
  | .sourceLossTimeout slot _ => slotOk slot
  | .reportingInstant => true
  | .wholeTaiSecond frac _ => fracOk frac
  | .ref10mLost => true
  | .ref10mRestored => true
  | .macEnWrite p _ _ => portOk p
  | .linkLockAcquired p => portOk p
  | .linkLockLost p _ => portOk p
  | .autonegComplete p => portOk p
  | .sgmiiControlRx p _ _ => portOk p
  | .linkQualified p => portOk p
  | .linkFaultRx p _ _ _ => portOk p
  | .linkFaultCleared p => portOk p
  | .macRxFrame p _ => portOk p
  | .pauseExpiry p => portOk p
  | .txEnqueue => true
  | .alarmEnqueue => true
  | .txFrameDone p => portOk p
  | .intakeFrame => true
  | .dirCopy _ => true
  | .dirCopyDone => true
  | .dirApply _ => true
  | .dirValidationDone => true
  | .cfgchgFifoRead => true
  | .unkKeyRead => true
  | .alnEnWrite _ => true
  | .alnRingBaseWrite _ => true
  | .alnProbe _ => true
  | .quaySpillDone => true
  | .alnBlockWrite => true
  | .quaySettle => true
  | .quaySealDone => true
  | .tugTransferError _ => true
  | .oscEnWrite _ => true
  | .oscProvEval g => groupOk g
  | .oscSettleEval g => groupOk g
  | .oscFold g => groupOk g
  | .oscExtract g => groupOk g
  | .islEnWrite _ => true
  | .islProvEval => true
  | .islSettleEval => true
  | .islFold => true
  | .islNodeProbe _ => true
  | .islBranchProbe _ => true
  | .alarmInput => true
  | .alarmAcknowledge slot gen => alarmSlotOk slot && alarmGenOk gen
  | .almAckGo _ => true
  | .almHostGo _ => true
  | .lhPulseEnd pin => pinOk pin
  | .almMessageClose dest => destOk dest
  | .almMessageRepeat dest => destOk dest
  | .almKeepalive dest => destOk dest
  | .feEnWrite _ => true
  | .feSampleSet _ x _ _ => samplesOk x
  | .feChannelCondition ch _ _ => feChOk ch
  | .fePllRealign => true
  | .feCalSwapGo _ => true
  | .lpeEstimate entry _ _ _ => lpeOk entry
  | .mtrEnWrite _ => true
  | .mtrCycle _ => true
  | .mtrFlashSaveDone _ => true
  | .pulseStart o => pulseOk o
  | .pulseEnd o => pulseOk o
  | .pfwAssert => true
  | .pfwDeassert => true
  | .capChArm ch => chOk ch
  | .capChAbort ch => chOk ch
  | .capChSwtrig ch => chOk ch
  | .capTrigger ch => chOk ch
  | .capOverflow ch _ => chOk ch
  | .capEnd ch => chOk ch
  | .trgPulseRx line _ _ => lineOk line
  | .trgLineStuck line => lineOk line
  | .capTrgOutGo _ => true
  | .trgOutPulseStart line _ => lineOk line
  | .trgOutPulseEnd line => lineOk line
  | .logRingBaseWrite _ => true
  | .logEvent => true
  | .logRecordWrite => true
  | .logCheckpoint => true
  | .logNonceRead => true
  | .taskSubmit _ => true
  | .taskDispatch cls => classOk cls
  | .taskWait i => taskOk i
  | .waitEventArrives i => taskOk i
  | .waitTimeout i => taskOk i
  | .delayWake i => taskOk i
  | .taskAging i => taskOk i
  | .taskComplete i => taskOk i
  | .taskAbort h owner => taskOk h.ix && leaseGenOk h.gen && owner < 64
  | .pltTaskProbe _ => true
  | .pltRlCapWrite c _ => classOk c
  | .pltRotFirmware _ => true
  | .pltRotSelftest _ => true
  | .rotDrainTimeout => true
  | .engineLoadDone _ => true
  | .engineTestDone _ => true
  | .engineRejoinDone e => engineOk e
  | .engCounterWrap e i _ _ _ => engineOk e && counterOk i
  | .engCntClr e => engineOk e
  | .engCntSelWrite e i _ => engineOk e && counterOk i
  | .engCntPreload e i _ => engineOk e && counterOk i
  | .freezeAllWrite _ => true
  | .clrAll => true
  | .dbgTapReset => true
  | .extest _ _ => true
  | .samplePreload _ _ => true
  | .idcode => true
  | .highz _ => true
  | .clamp _ => true
  | .bypass => true
  | .dbgNonce => true
  | .dbgUnlock level sig => levelByteOk level && sigOk sig
  | .memapRead off => memapOk off
  | .memapWrite off _ => memapOk off
  | .engdbgHalt e => engineOk e
  | .engdbgResume e => engineOk e
  | .engdbgStep e => engineOk e
  | .engdbgReadLocal e _ => engineOk e
  | .engdbgReadReg e _ => engineOk e
  | .dbgRelock => true
  | .dbgPortDis => true
  | .ringPairEnWrite n _ => ringOk n
  | .sqTailDoorbell n _ => ringOk n
  | .cqHeadDoorbell n _ => ringOk n
  | .manifestFetch n _ => ringOk n
  | .manifestComplete n => ringOk n
  | .hostDmaError n => ringOk n
  | .delivery => true
  | .deliveryTimeout n => ringOk n
  | .coalesceTimer n => ringOk n
  | .nop n => ringOk n
  | .abort n => ringOk n
  | .cfgLoad n _ => ringOk n
  | .cfgWrite n _ => ringOk n
  | .cfgCopy n => ringOk n
  | .commit n => ringOk n
  | .commitValidationDone => true
  | .cfgSave n _ => ringOk n
  | .cfgRead n _ => ringOk n
  | .cfgSwinWrite _ => true
  | .hostSend n _ => ringOk n
  | .inject n _ => ringOk n
  | .almAck ring => ringOk ring
  | .almHost ring => ringOk ring
  | .capArm n => ringOk n
  | .capTriggerManifest n => ringOk n
  | .capAbort n => ringOk n
  | .mtrReset n _ => ringOk n
  | .mtrRead n _ => ringOk n
  | .logNote n => ringOk n
  | .logClear n _ => ringOk n
  | .fwStage n _ _ _ _ => ringOk n
  | .rotate n => ringOk n
  | .subsysSet n _ => ringOk n
  | .keyWrite n _ => ringOk n
  | .keyReplace n _ => ringOk n
  | .keyErase n => ringOk n
  | .keyPubkey n _ => ringOk n
  | .keyClose n => ringOk n
  | .keyNonceRead => true
  | .keyStoreWriteDone _ => true
  | .keyDeriveDone slot => keySlotOk slot
  | .cryptoOpDone i => cryptoOk i
  | .twnHandover ring => ringOk ring
  | .twnResync ring => ringOk ring
  | .twnSave ring _ => ringOk ring
  | .twnCtrlHandover _ => true
  | .twnCtrlResync => true
  | .twnCtrlSave _ => true
  | .twnEnWrite _ => true
  | .aizLaneUp lane => laneOk lane
  | .aizLaneDown lane => laneOk lane
  | .helloTx => true
  | .hello _ => true
  | .heartbeatTx => true
  | .heartbeat _ => true
  | .hbWordRx w => hbWordOk w
  | .mirror _ => true
  | .resync _ => true
  | .handover _ => true
  | .take _ => true
  | .handoverAnswerTimeout => true
  | .handoverReturnCheck => true
  | .takeover => true
  | .pathLost _ => true
  | .bothLost => true
  | .twnWaitTimeout => true
  | .twnJoinTimeout => true
  | .twnMismatchTimeout => true
  | .twnPeriodicSave _ => true
  | .twnStandbyTest => true
  | .faultEvent ext => ext.all fun x => sourceOk x.src && decide (x.master < 64)
  | .faultPairBroken src => sourceOk src
  | .faultLevelDecay src => sourceOk src
  | .faultReactionDone => true
  | .fltFerRelease _ => true
  | .fltInjectGo _ => true
  | .fltInject ring => ringOk ring
  | .fltReleaseGo _ => true
  | .fltRelease ring => ringOk ring
  | .degradeClr => true
  | .bstRun ring => ringOk ring
  | .bstCtrlSlice slice => sliceOk slice
  | .bstCtrlWhole => true
  | .bstCtrlShutdown => true
  | .bstCtrlAbort => true
  | .bistSliceDone _ => true
  | .pwrLtrWrite _ => true
  | .pwrEntryStepDone => true
  | .pwrWake src => wakeOk src
  | .bkpSwitchToVbat frac _ => fracOk frac
  | .bkpReturnToMain frac => fracOk frac
  | .vbatMeasure _ => true
  | .bkpPorAssert => true
  | .bkpPorRelease => true
  | .rtcGroupRead reg frac => rtcRegOk reg && fracOk frac
  | .rtcShadowTimeout => true
  | .rtcHaltWrite _ => true
  | .rtcSetFracWrite _ => true
  | .rtcSetSecWrite _ => true
  | .rtcWake => true
  | .rtcRstCtrlWrite _ _ => true
  | .eccAddrRead => true
  | .mtrPointLatchRead m => pointOk m
  | .slewingEnd _ _ => true
  | .sealInstantWithoutGrid => true
  | .aizhanFrameSent => true
  | .powerStateExitDone => true
  | .pcieLinkStateChange _ _ _ => true
  | .trgLineStuckEnd line => lineOk line
  | .rtcSecondRollover => true

end Sys2Proof
end

