-- ==== Sys2Proof/Certificates/Slice0/Obligations.lean ====
section
/-! DEFINITION. The statements for the provers, family by family. `Answers c s u` says that the command c, taken in the state s,
answers the next state that its own effect u leaves once what follows every command (State.after) has been done. -/

open Sys2Proof Sys2Proof.Machine

/-- A step is the front command's effect on the state with the queue's rest. For every command c, every queue rest and every
state s, step of s with c at the front of its queue is exec of c on s with the rest waiting (log entry 1, the model's own
reading of a queue of commands); with no command waiting a step leaves the state as it is (the model's choice of log entry 3:
every effect of time has a command of its own). -/
def Obligations.StepRunsFrontCommand : Prop :=
  (∀ (c : Instr) (rest : List Instr) (s : State), step (s.withPending (c :: rest)) = exec c (s.withPending rest)) ∧
  ∀ s : State, s.pending = [] → step s = .next s

/-- The state after reset is in canonical form. Registers and DRAM of State.reset are in their canonical form, its queue is empty
and nothing has been put out. -/
def Obligations.ResetMeetsInvariant : Prop :=
  State.reset.Inv ∧ State.reset.pending = [] ∧ State.reset.out = []

/-- After reset the registers show their tables' Reset column. In the blocks ID, HIF, PWR, TB, MAC, BIN, ALN, ISL, ALM, OUT, FE,
MTR, CAP, LOG, TWN, BST and DBG every row of the register tables, at its first offset, shows a reader the value of its Reset
column in State.reset, for the FN8240 at stepping 0 (log entry 10: the part is the model's choice); TWN_STATUS alone reads 8, ACTIVE,
for the role SOLO of R456 (log entry 130). -/
def Obligations.ResetShowsTables : Prop :=
  ∀ b ∈ [Block.id, .hif, .pwr, .tb, .mac, .bin, .aln, .isl, .alm, .outp, .fe, .mtr, .cap, .logb, .twn, .bst, .dbg],
    ∀ r ∈ b.rows, State.reset.viewReg (b.base + r.off) = BitVec.ofNat 32 (if b = .twn ∧ r.off = 4 then 8 else r.reset)

/-- Every step from a state in canonical form leads to one in canonical form. For every state whose registers and DRAM are in
canonical form, whatever command is at the front and whatever its operands, the next state's registers and DRAM are in
canonical form. -/
def Obligations.StepKeepsInvariant : Prop :=
  ∀ s t : State, s.Inv → step s = .next t → t.Inv

/-- No command changes the queue, the part, its DRAM or a closed provisioning, or takes an output back. For every command and
state: the next state has the same waiting commands, the same part and installed DRAM; PROV_CLOSED once set stays set; no
free value is used twice; and everything put out so far stays put out, in order. -/
def Obligations.CommandsTakeNothingBack : Prop :=
  ∀ (c : Instr) (s t : State), exec c s = .next t →
    t.pending = s.pending ∧ t.hw.variant = s.hw.variant ∧ t.hw.dramGiB = s.hw.dramGiB ∧
    (s.hw.provClosed = true → t.hw.provClosed = true) ∧ s.fresh ≤ t.fresh ∧ s.out <+: t.out

/-- Every command answers a next state in every state. No command ends in a fault or a refusal, whatever the state and its operands:
ordinary data never stops the block. It is said of all commands at once, and then of each of the 255 by its name: for every state
and every operands, with no condition on them, the command answers a next state. -/
def Obligations.EveryCommandAnswers : Prop :=
  (∀ (c : Instr) (s : State), ∃ t, exec c s = .next t) ∧
    ((∀ (cause : Nat) (env : BootEnv) (s : State), ∃ t, exec (.coreReset cause env) s = .next t) ∧
     (∀ (env : BootEnv) (s : State), ∃ t, exec (.perstNAssert env) s = .next t) ∧
     (∀ (kind : Nat) (s : State), ∃ t, exec (.hifReset kind) s = .next t) ∧
     (∀ (on : Bool) (s : State), ∃ t, exec (.busMasterEnableChange on) s = .next t) ∧
     (∀ s : State, ∃ t, exec .pcieD3hotEnter s = .next t) ∧
     (∀ s : State, ∃ t, exec .pcieD0Return s = .next t) ∧
     (∀ (addr : Nat) (v : Word) (s : State), ∃ t, exec (.registerWrite addr v) s = .next t) ∧
     (∀ (bar2 : Bool) (addr size : Nat) (write : Bool) (s : State), ∃ t, exec (.missizedAccess bar2 addr size write) s = .next t) ∧
     (∀ (addr : Nat) (write : Option Word) (s : State), ∃ t, exec (.unmappedAccess addr write) s = .next t) ∧
     (∀ (addr : Nat) (s : State), ∃ t, exec (.pairLoRead addr) s = .next t) ∧
     (∀ (addr : Nat) (v : Word) (s : State), ∃ t, exec (.pairHiWrite addr v) s = .next t) ∧
     (∀ (addr : Nat) (s : State), ∃ t, exec (.rcRead addr) s = .next t) ∧
     (∀ (addr : Nat) (s : State), ∃ t, exec (.timestampSubnsRead addr) s = .next t) ∧
     (∀ (addr : Nat) (write : Option Word) (s : State), ∃ t, exec (.windowDataAccess addr write) s = .next t) ∧
     (∀ (addr : Nat) (v : Word) (s : State), ∃ t, exec (.counterClear addr v) s = .next t) ∧
     (∀ (v : Word) (s : State), ∃ t, exec (.tbSetApply v) s = .next t) ∧
     (∀ (v : Word) (s : State), ∃ t, exec (.tbLeapLoad v) s = .next t)) ∧
    ((∀ (slot : Nat) (v : Word) (s : State), ∃ t, exec (.tbSrcCfgWrite slot v) s = .next t) ∧
     (∀ (port : Nat) (s : State), ∃ t, exec (.ptpMessageRx port) s = .next t) ∧
     (∀ (slot : Nat) (s : State), ∃ t, exec (.ptpEventMessageTx slot) s = .next t) ∧
     (∀ (port : Nat) (msg : PtpSent) (stamp : Nat) (s : State), ∃ t, exec (.txTimestampReturn port msg stamp) s = .next t) ∧
     (∀ (rising : Bool) (stamp : Nat) (s : State), ∃ t, exec (.ppsEdge rising stamp) s = .next t) ∧
     (∀ (f : IrigFrame) (s : State), ∃ t, exec (.irigbFrame f) s = .next t) ∧
     (∀ (slot at_ : Nat) (s : State), ∃ t, exec (.sourceLossTimeout slot at_) s = .next t) ∧
     (∀ s : State, ∃ t, exec .reportingInstant s = .next t) ∧
     (∀ (frac : Nat) (healed : List Nat) (s : State), ∃ t, exec (.wholeTaiSecond frac healed) s = .next t) ∧
     (∀ s : State, ∃ t, exec .ref10mLost s = .next t) ∧
     (∀ s : State, ∃ t, exec .ref10mRestored s = .next t) ∧
     (∀ (p : Nat) (v : Word) (receiving : Bool) (s : State), ∃ t, exec (.macEnWrite p v receiving) s = .next t) ∧
     (∀ (p : Nat) (s : State), ∃ t, exec (.linkLockAcquired p) s = .next t) ∧
     (∀ (p : Nat) (receiving : Bool) (s : State), ∃ t, exec (.linkLockLost p receiving) s = .next t) ∧
     (∀ (p : Nat) (s : State), ∃ t, exec (.autonegComplete p) s = .next t) ∧
     (∀ (p : Nat) (slow receiving : Bool) (s : State), ∃ t, exec (.sgmiiControlRx p slow receiving) s = .next t) ∧
     (∀ (p : Nat) (s : State), ∃ t, exec (.linkQualified p) s = .next t)) ∧
    ((∀ (p : Nat) (remote hiBer receiving : Bool) (s : State), ∃ t, exec (.linkFaultRx p remote hiBer receiving) s = .next t) ∧
     (∀ (p : Nat) (s : State), ∃ t, exec (.linkFaultCleared p) s = .next t) ∧
     (∀ (p : Nat) (f : WireFrame) (s : State), ∃ t, exec (.macRxFrame p f) s = .next t) ∧
     (∀ (p : Nat) (s : State), ∃ t, exec (.pauseExpiry p) s = .next t) ∧
     (∀ s : State, ∃ t, exec .txEnqueue s = .next t) ∧
     (∀ s : State, ∃ t, exec .alarmEnqueue s = .next t) ∧
     (∀ (p : Nat) (s : State), ∃ t, exec (.txFrameDone p) s = .next t) ∧
     (∀ s : State, ∃ t, exec .intakeFrame s = .next t) ∧
     (∀ (v : Word) (s : State), ∃ t, exec (.dirCopy v) s = .next t) ∧
     (∀ s : State, ∃ t, exec .dirCopyDone s = .next t) ∧
     (∀ (v : Word) (s : State), ∃ t, exec (.dirApply v) s = .next t) ∧
     (∀ s : State, ∃ t, exec .dirValidationDone s = .next t) ∧
     (∀ s : State, ∃ t, exec .cfgchgFifoRead s = .next t) ∧
     (∀ s : State, ∃ t, exec .unkKeyRead s = .next t) ∧
     (∀ (v : Word) (s : State), ∃ t, exec (.alnEnWrite v) s = .next t) ∧
     (∀ (v : Word) (s : State), ∃ t, exec (.alnRingBaseWrite v) s = .next t) ∧
     (∀ (v : Word) (s : State), ∃ t, exec (.alnProbe v) s = .next t)) ∧
    ((∀ s : State, ∃ t, exec .quaySpillDone s = .next t) ∧
     (∀ s : State, ∃ t, exec .alnBlockWrite s = .next t) ∧
     (∀ s : State, ∃ t, exec .quaySettle s = .next t) ∧
     (∀ s : State, ∃ t, exec .quaySealDone s = .next t) ∧
     (∀ (seq : Nat) (s : State), ∃ t, exec (.tugTransferError seq) s = .next t) ∧
     (∀ (v : Word) (s : State), ∃ t, exec (.oscEnWrite v) s = .next t) ∧
     (∀ (g : Nat) (s : State), ∃ t, exec (.oscProvEval g) s = .next t) ∧
     (∀ (g : Nat) (s : State), ∃ t, exec (.oscSettleEval g) s = .next t) ∧
     (∀ (g : Nat) (s : State), ∃ t, exec (.oscFold g) s = .next t) ∧
     (∀ (g : Nat) (s : State), ∃ t, exec (.oscExtract g) s = .next t) ∧
     (∀ (v : Word) (s : State), ∃ t, exec (.islEnWrite v) s = .next t) ∧
     (∀ s : State, ∃ t, exec .islProvEval s = .next t) ∧
     (∀ s : State, ∃ t, exec .islSettleEval s = .next t) ∧
     (∀ s : State, ∃ t, exec .islFold s = .next t) ∧
     (∀ (v : Word) (s : State), ∃ t, exec (.islNodeProbe v) s = .next t) ∧
     (∀ (v : Word) (s : State), ∃ t, exec (.islBranchProbe v) s = .next t) ∧
     (∀ s : State, ∃ t, exec .alarmInput s = .next t)) ∧
    ((∀ (slot gen : Nat) (s : State), ∃ t, exec (.alarmAcknowledge slot gen) s = .next t) ∧
     (∀ (v : Word) (s : State), ∃ t, exec (.almAckGo v) s = .next t) ∧
     (∀ (v : Word) (s : State), ∃ t, exec (.almHostGo v) s = .next t) ∧
     (∀ (pin : Nat) (s : State), ∃ t, exec (.lhPulseEnd pin) s = .next t) ∧
     (∀ (dest : Nat) (s : State), ∃ t, exec (.almMessageClose dest) s = .next t) ∧
     (∀ (dest : Nat) (s : State), ∃ t, exec (.almMessageRepeat dest) s = .next t) ∧
     (∀ (dest : Nat) (s : State), ∃ t, exec (.almKeepalive dest) s = .next t) ∧
     (∀ (v : Word) (s : State), ∃ t, exec (.feEnWrite v) s = .next t) ∧
     (∀ (release : Nat) (pins : List (List (Nat × Bool))) (refHz altHz : Rat) (s : State), ∃ t, exec (.feSampleSet release pins refHz altHz) s = .next t) ∧
     (∀ (ch : Nat) (clip on : Bool) (s : State), ∃ t, exec (.feChannelCondition ch clip on) s = .next t) ∧
     (∀ s : State, ∃ t, exec .fePllRealign s = .next t) ∧
     (∀ (v : Word) (s : State), ∃ t, exec (.feCalSwapGo v) s = .next t) ∧
     (∀ (entry sec k handOff : Nat) (s : State), ∃ t, exec (.lpeEstimate entry sec k handOff) s = .next t) ∧
     (∀ (v : Word) (s : State), ∃ t, exec (.mtrEnWrite v) s = .next t) ∧
     (∀ (now : Nat) (s : State), ∃ t, exec (.mtrCycle now) s = .next t) ∧
     (∀ (ok : Bool) (s : State), ∃ t, exec (.mtrFlashSaveDone ok) s = .next t) ∧
     (∀ (o : Nat) (s : State), ∃ t, exec (.pulseStart o) s = .next t)) ∧
    ((∀ (o : Nat) (s : State), ∃ t, exec (.pulseEnd o) s = .next t) ∧
     (∀ s : State, ∃ t, exec .pfwAssert s = .next t) ∧
     (∀ s : State, ∃ t, exec .pfwDeassert s = .next t) ∧
     (∀ (ch : Nat) (s : State), ∃ t, exec (.capChArm ch) s = .next t) ∧
     (∀ (ch : Nat) (s : State), ∃ t, exec (.capChAbort ch) s = .next t) ∧
     (∀ (ch : Nat) (s : State), ∃ t, exec (.capChSwtrig ch) s = .next t) ∧
     (∀ (ch : Nat) (s : State), ∃ t, exec (.capTrigger ch) s = .next t) ∧
     (∀ (ch : Nat) (fifo : Bool) (s : State), ∃ t, exec (.capOverflow ch fifo) s = .next t) ∧
     (∀ (ch : Nat) (s : State), ∃ t, exec (.capEnd ch) s = .next t) ∧
     (∀ (line fall rise : Nat) (s : State), ∃ t, exec (.trgPulseRx line fall rise) s = .next t) ∧
     (∀ (line : Nat) (s : State), ∃ t, exec (.trgLineStuck line) s = .next t) ∧
     (∀ (v : Word) (s : State), ∃ t, exec (.capTrgOutGo v) s = .next t) ∧
     (∀ (line stamp : Nat) (s : State), ∃ t, exec (.trgOutPulseStart line stamp) s = .next t) ∧
     (∀ (line : Nat) (s : State), ∃ t, exec (.trgOutPulseEnd line) s = .next t) ∧
     (∀ (v : Word) (s : State), ∃ t, exec (.logRingBaseWrite v) s = .next t) ∧
     (∀ s : State, ∃ t, exec .logEvent s = .next t) ∧
     (∀ s : State, ∃ t, exec .logRecordWrite s = .next t)) ∧
    ((∀ s : State, ∃ t, exec .logCheckpoint s = .next t) ∧
     (∀ s : State, ∃ t, exec .logNonceRead s = .next t) ∧
     (∀ (req : Option TaskReq) (s : State), ∃ t, exec (.taskSubmit req) s = .next t) ∧
     (∀ (cls : Nat) (s : State), ∃ t, exec (.taskDispatch cls) s = .next t) ∧
     (∀ (i : Nat) (s : State), ∃ t, exec (.taskWait i) s = .next t) ∧
     (∀ (i : Nat) (s : State), ∃ t, exec (.waitEventArrives i) s = .next t) ∧
     (∀ (i : Nat) (s : State), ∃ t, exec (.waitTimeout i) s = .next t) ∧
     (∀ (i : Nat) (s : State), ∃ t, exec (.delayWake i) s = .next t) ∧
     (∀ (i : Nat) (s : State), ∃ t, exec (.taskAging i) s = .next t) ∧
     (∀ (i : Nat) (s : State), ∃ t, exec (.taskComplete i) s = .next t) ∧
     (∀ (h : TaskHandle) (owner : Nat) (s : State), ∃ t, exec (.taskAbort h owner) s = .next t) ∧
     (∀ (v : Word) (s : State), ∃ t, exec (.pltTaskProbe v) s = .next t) ∧
     (∀ (c : Nat) (v : Word) (s : State), ∃ t, exec (.pltRlCapWrite c v) s = .next t) ∧
     (∀ (v : Word) (s : State), ∃ t, exec (.pltRotFirmware v) s = .next t) ∧
     (∀ (v : Word) (s : State), ∃ t, exec (.pltRotSelftest v) s = .next t) ∧
     (∀ s : State, ∃ t, exec .rotDrainTimeout s = .next t) ∧
     (∀ (sigOk : Bool) (s : State), ∃ t, exec (.engineLoadDone sigOk) s = .next t)) ∧
    ((∀ (ok : Bool) (s : State), ∃ t, exec (.engineTestDone ok) s = .next t) ∧
     (∀ (e : Nat) (s : State), ∃ t, exec (.engineRejoinDone e) s = .next t) ∧
     (∀ (e i addr skid : Nat) (busy : Bool) (s : State), ∃ t, exec (.engCounterWrap e i addr skid busy) s = .next t) ∧
     (∀ (e : Nat) (s : State), ∃ t, exec (.engCntClr e) s = .next t) ∧
     (∀ (e i : Nat) (v : Word) (s : State), ∃ t, exec (.engCntSelWrite e i v) s = .next t) ∧
     (∀ (e i v : Nat) (s : State), ∃ t, exec (.engCntPreload e i v) s = .next t) ∧
     (∀ (v : Word) (s : State), ∃ t, exec (.freezeAllWrite v) s = .next t) ∧
     (∀ s : State, ∃ t, exec .clrAll s = .next t) ∧
     (∀ s : State, ∃ t, exec .dbgTapReset s = .next t) ∧
     (∀ (resetLow : Bool) (bits : List Bool) (s : State), ∃ t, exec (.extest resetLow bits) s = .next t) ∧
     (∀ (captured bits : List Bool) (s : State), ∃ t, exec (.samplePreload captured bits) s = .next t) ∧
     (∀ s : State, ∃ t, exec .idcode s = .next t) ∧
     (∀ (resetLow : Bool) (s : State), ∃ t, exec (.highz resetLow) s = .next t) ∧
     (∀ (resetLow : Bool) (s : State), ∃ t, exec (.clamp resetLow) s = .next t) ∧
     (∀ s : State, ∃ t, exec .bypass s = .next t) ∧
     (∀ s : State, ∃ t, exec .dbgNonce s = .next t) ∧
     (∀ (level : Nat) (sig : List Byte) (s : State), ∃ t, exec (.dbgUnlock level sig) s = .next t)) ∧
    ((∀ (off : Nat) (s : State), ∃ t, exec (.memapRead off) s = .next t) ∧
     (∀ (off : Nat) (v : Word) (s : State), ∃ t, exec (.memapWrite off v) s = .next t) ∧
     (∀ (e : Nat) (s : State), ∃ t, exec (.engdbgHalt e) s = .next t) ∧
     (∀ (e : Nat) (s : State), ∃ t, exec (.engdbgResume e) s = .next t) ∧
     (∀ (e : Nat) (s : State), ∃ t, exec (.engdbgStep e) s = .next t) ∧
     (∀ (e addr : Nat) (s : State), ∃ t, exec (.engdbgReadLocal e addr) s = .next t) ∧
     (∀ (e r : Nat) (s : State), ∃ t, exec (.engdbgReadReg e r) s = .next t) ∧
     (∀ s : State, ∃ t, exec .dbgRelock s = .next t) ∧
     (∀ s : State, ∃ t, exec .dbgPortDis s = .next t) ∧
     (∀ (n : Nat) (v : Word) (s : State), ∃ t, exec (.ringPairEnWrite n v) s = .next t) ∧
     (∀ (n : Nat) (v : Word) (s : State), ∃ t, exec (.sqTailDoorbell n v) s = .next t) ∧
     (∀ (n : Nat) (v : Word) (s : State), ∃ t, exec (.cqHeadDoorbell n v) s = .next t) ∧
     (∀ (n : Nat) (bytes : List Byte) (s : State), ∃ t, exec (.manifestFetch n bytes) s = .next t) ∧
     (∀ (n : Nat) (s : State), ∃ t, exec (.manifestComplete n) s = .next t) ∧
     (∀ (n : Nat) (s : State), ∃ t, exec (.hostDmaError n) s = .next t) ∧
     (∀ s : State, ∃ t, exec .delivery s = .next t) ∧
     (∀ (n : Nat) (s : State), ∃ t, exec (.deliveryTimeout n) s = .next t)) ∧
    ((∀ (n : Nat) (s : State), ∃ t, exec (.coalesceTimer n) s = .next t) ∧
     (∀ (n : Nat) (s : State), ∃ t, exec (.nop n) s = .next t) ∧
     (∀ (n : Nat) (s : State), ∃ t, exec (.abort n) s = .next t) ∧
     (∀ (n : Nat) (buf : Option (List Byte)) (s : State), ∃ t, exec (.cfgLoad n buf) s = .next t) ∧
     (∀ (n : Nat) (buf : Option (List Byte)) (s : State), ∃ t, exec (.cfgWrite n buf) s = .next t) ∧
     (∀ (n : Nat) (s : State), ∃ t, exec (.cfgCopy n) s = .next t) ∧
     (∀ (n : Nat) (s : State), ∃ t, exec (.commit n) s = .next t) ∧
     (∀ s : State, ∃ t, exec .commitValidationDone s = .next t) ∧
     (∀ (n : Nat) (ok : Bool) (s : State), ∃ t, exec (.cfgSave n ok) s = .next t) ∧
     (∀ (n : Nat) (ok : Bool) (s : State), ∃ t, exec (.cfgRead n ok) s = .next t) ∧
     (∀ (v : Word) (s : State), ∃ t, exec (.cfgSwinWrite v) s = .next t) ∧
     (∀ (n : Nat) (buf : Option (List Byte)) (s : State), ∃ t, exec (.hostSend n buf) s = .next t) ∧
     (∀ (n : Nat) (buf : Option (List Byte)) (s : State), ∃ t, exec (.inject n buf) s = .next t) ∧
     (∀ (ring : Nat) (s : State), ∃ t, exec (.almAck ring) s = .next t) ∧
     (∀ (ring : Nat) (s : State), ∃ t, exec (.almHost ring) s = .next t) ∧
     (∀ (n : Nat) (s : State), ∃ t, exec (.capArm n) s = .next t) ∧
     (∀ (n : Nat) (s : State), ∃ t, exec (.capTriggerManifest n) s = .next t)) ∧
    ((∀ (n : Nat) (s : State), ∃ t, exec (.capAbort n) s = .next t) ∧
     (∀ (n : Nat) (buf : Option (List Byte)) (s : State), ∃ t, exec (.mtrReset n buf) s = .next t) ∧
     (∀ (n : Nat) (ok : Bool) (s : State), ∃ t, exec (.mtrRead n ok) s = .next t) ∧
     (∀ (n : Nat) (s : State), ∃ t, exec (.logNote n) s = .next t) ∧
     (∀ (n : Nat) (buf : Option (List Byte)) (s : State), ∃ t, exec (.logClear n buf) s = .next t) ∧
     (∀ (n : Nat) (buf : Option (List Byte)) (sigOk ok : Bool) (ver : Word) (s : State), ∃ t, exec (.fwStage n buf sigOk ok ver) s = .next t) ∧
     (∀ (n : Nat) (s : State), ∃ t, exec (.rotate n) s = .next t) ∧
     (∀ (n : Nat) (ok : Bool) (s : State), ∃ t, exec (.subsysSet n ok) s = .next t) ∧
     (∀ (n : Nat) (buf : Option (List Byte)) (s : State), ∃ t, exec (.keyWrite n buf) s = .next t) ∧
     (∀ (n : Nat) (buf : Option (List Byte)) (s : State), ∃ t, exec (.keyReplace n buf) s = .next t) ∧
     (∀ (n : Nat) (s : State), ∃ t, exec (.keyErase n) s = .next t) ∧
     (∀ (n : Nat) (ok : Bool) (s : State), ∃ t, exec (.keyPubkey n ok) s = .next t) ∧
     (∀ (n : Nat) (s : State), ∃ t, exec (.keyClose n) s = .next t) ∧
     (∀ s : State, ∃ t, exec .keyNonceRead s = .next t) ∧
     (∀ (ok : Bool) (s : State), ∃ t, exec (.keyStoreWriteDone ok) s = .next t) ∧
     (∀ (slot : Nat) (s : State), ∃ t, exec (.keyDeriveDone slot) s = .next t) ∧
     (∀ (i : Nat) (s : State), ∃ t, exec (.cryptoOpDone i) s = .next t)) ∧
    ((∀ (ring : Nat) (s : State), ∃ t, exec (.twnHandover ring) s = .next t) ∧
     (∀ (ring : Nat) (s : State), ∃ t, exec (.twnResync ring) s = .next t) ∧
     (∀ (ring : Nat) (ok : Bool) (s : State), ∃ t, exec (.twnSave ring ok) s = .next t) ∧
     (∀ (force : Bool) (s : State), ∃ t, exec (.twnCtrlHandover force) s = .next t) ∧
     (∀ s : State, ∃ t, exec .twnCtrlResync s = .next t) ∧
     (∀ (ok : Bool) (s : State), ∃ t, exec (.twnCtrlSave ok) s = .next t) ∧
     (∀ (v : Word) (s : State), ∃ t, exec (.twnEnWrite v) s = .next t) ∧
     (∀ (lane : Nat) (s : State), ∃ t, exec (.aizLaneUp lane) s = .next t) ∧
     (∀ (lane : Nat) (s : State), ∃ t, exec (.aizLaneDown lane) s = .next t) ∧
     (∀ s : State, ∃ t, exec .helloTx s = .next t) ∧
     (∀ (frame : List Byte) (s : State), ∃ t, exec (.hello frame) s = .next t) ∧
     (∀ s : State, ∃ t, exec .heartbeatTx s = .next t) ∧
     (∀ (frame : List Byte) (s : State), ∃ t, exec (.heartbeat frame) s = .next t) ∧
     (∀ (w : Nat) (s : State), ∃ t, exec (.hbWordRx w) s = .next t) ∧
     (∀ (frame : List Byte) (s : State), ∃ t, exec (.mirror frame) s = .next t) ∧
     (∀ (frame : List Byte) (s : State), ∃ t, exec (.resync frame) s = .next t) ∧
     (∀ (frame : List Byte) (s : State), ∃ t, exec (.handover frame) s = .next t)) ∧
    ((∀ (frame : List Byte) (s : State), ∃ t, exec (.take frame) s = .next t) ∧
     (∀ s : State, ∃ t, exec .handoverAnswerTimeout s = .next t) ∧
     (∀ s : State, ∃ t, exec .handoverReturnCheck s = .next t) ∧
     (∀ s : State, ∃ t, exec .takeover s = .next t) ∧
     (∀ (hb : Bool) (s : State), ∃ t, exec (.pathLost hb) s = .next t) ∧
     (∀ s : State, ∃ t, exec .bothLost s = .next t) ∧
     (∀ s : State, ∃ t, exec .twnWaitTimeout s = .next t) ∧
     (∀ s : State, ∃ t, exec .twnJoinTimeout s = .next t) ∧
     (∀ s : State, ∃ t, exec .twnMismatchTimeout s = .next t) ∧
     (∀ (ok : Bool) (s : State), ∃ t, exec (.twnPeriodicSave ok) s = .next t) ∧
     (∀ s : State, ∃ t, exec .twnStandbyTest s = .next t) ∧
     (∀ (ext : Option FaultIn) (s : State), ∃ t, exec (.faultEvent ext) s = .next t) ∧
     (∀ (src : Nat) (s : State), ∃ t, exec (.faultPairBroken src) s = .next t) ∧
     (∀ (src : Nat) (s : State), ∃ t, exec (.faultLevelDecay src) s = .next t) ∧
     (∀ s : State, ∃ t, exec .faultReactionDone s = .next t) ∧
     (∀ (v : Word) (s : State), ∃ t, exec (.fltFerRelease v) s = .next t) ∧
     (∀ (v : Word) (s : State), ∃ t, exec (.fltInjectGo v) s = .next t)) ∧
    ((∀ (ring : Nat) (s : State), ∃ t, exec (.fltInject ring) s = .next t) ∧
     (∀ (v : Word) (s : State), ∃ t, exec (.fltReleaseGo v) s = .next t) ∧
     (∀ (ring : Nat) (s : State), ∃ t, exec (.fltRelease ring) s = .next t) ∧
     (∀ s : State, ∃ t, exec .degradeClr s = .next t) ∧
     (∀ (ring : Nat) (s : State), ∃ t, exec (.bstRun ring) s = .next t) ∧
     (∀ (slice : Nat) (s : State), ∃ t, exec (.bstCtrlSlice slice) s = .next t) ∧
     (∀ s : State, ∃ t, exec .bstCtrlWhole s = .next t) ∧
     (∀ s : State, ∃ t, exec .bstCtrlShutdown s = .next t) ∧
     (∀ s : State, ∃ t, exec .bstCtrlAbort s = .next t) ∧
     (∀ (pass : Bool) (s : State), ∃ t, exec (.bistSliceDone pass) s = .next t) ∧
     (∀ (v : Word) (s : State), ∃ t, exec (.pwrLtrWrite v) s = .next t) ∧
     (∀ s : State, ∃ t, exec .pwrEntryStepDone s = .next t) ∧
     (∀ (src : Nat) (s : State), ∃ t, exec (.pwrWake src) s = .next t) ∧
     (∀ (frac mv : Nat) (s : State), ∃ t, exec (.bkpSwitchToVbat frac mv) s = .next t) ∧
     (∀ (frac : Nat) (s : State), ∃ t, exec (.bkpReturnToMain frac) s = .next t) ∧
     (∀ (mv : Nat) (s : State), ∃ t, exec (.vbatMeasure mv) s = .next t) ∧
     (∀ s : State, ∃ t, exec .bkpPorAssert s = .next t)) ∧
    ((∀ s : State, ∃ t, exec .bkpPorRelease s = .next t) ∧
     (∀ (reg frac : Nat) (s : State), ∃ t, exec (.rtcGroupRead reg frac) s = .next t) ∧
     (∀ s : State, ∃ t, exec .rtcShadowTimeout s = .next t) ∧
     (∀ (v : Word) (s : State), ∃ t, exec (.rtcHaltWrite v) s = .next t) ∧
     (∀ (v : Word) (s : State), ∃ t, exec (.rtcSetFracWrite v) s = .next t) ∧
     (∀ (v : Word) (s : State), ∃ t, exec (.rtcSetSecWrite v) s = .next t) ∧
     (∀ s : State, ∃ t, exec .rtcWake s = .next t) ∧
     (∀ (v : Word) (env : BootEnv) (s : State), ∃ t, exec (.rtcRstCtrlWrite v env) s = .next t) ∧
     (∀ s : State, ∃ t, exec .eccAddrRead s = .next t) ∧
     (∀ (m : Nat) (s : State), ∃ t, exec (.mtrPointLatchRead m) s = .next t) ∧
     (∀ (at_ : Nat) (rest : Int) (s : State), ∃ t, exec (.slewingEnd at_ rest) s = .next t) ∧
     (∀ s : State, ∃ t, exec .sealInstantWithoutGrid s = .next t) ∧
     (∀ s : State, ∃ t, exec .aizhanFrameSent s = .next t) ∧
     (∀ s : State, ∃ t, exec .powerStateExitDone s = .next t) ∧
     (∀ (speed width : Nat) (l1 : Bool) (s : State), ∃ t, exec (.pcieLinkStateChange speed width l1) s = .next t) ∧
     (∀ (line : Nat) (s : State), ∃ t, exec (.trgLineStuckEnd line) s = .next t) ∧
     (∀ s : State, ∃ t, exec .rtcSecondRollover s = .next t))

/-- What follows a command leaves the time base and thirteen more parts of the state as the command left them. Whatever a
command's own effect, the composer, capture, hand-over, spill, power and MSI-X steps that follow it change neither the queue,
device time and the time base, the berth directory, the front end, the debug port, the configuration sets, the RTC, the pins,
the part, nor what reads have latched, held or returned. -/
def Obligations.ClosureLeavesUnitStates : Prop :=
  ∀ s u : State,
    (State.after s u).pending = u.pending ∧ (State.after s u).hw = u.hw ∧ (State.after s u).dt = u.dt ∧
    (State.after s u).latch = u.latch ∧ (State.after s u).hold = u.hold ∧ (State.after s u).rdata = u.rdata ∧
    (State.after s u).tb = u.tb ∧ (State.after s u).bin = u.bin ∧ (State.after s u).fe = u.fe ∧
    (State.after s u).dbg = u.dbg ∧ (State.after s u).cfg = u.cfg ∧ (State.after s u).rtc = u.rtc ∧
    (State.after s u).pins = u.pins

/-- Where an aligned host write of BAR0 goes. REGISTER_WRITE at an aligned offset: in the block of an absent unit it has no
effect; at an offset with no register it is recorded as an access error (source 55, master 63, access HOST_WRITE), but in the
ID block, which ignores it (log entry 15); in a fenced unit's block it has no effect; while the block's domain is stopped, or
when it would end an entry condition, it waits and wakes the device; otherwise the register's unit takes it. -/
def Obligations.RegisterWriteTakesItsPath : Prop :=
  ∀ (o : Nat) (v : Word) (s : State), o % 4 = 0 →
    (s.blockAbsent o = true → Answers (.registerWrite o v) s s) ∧
    (s.blockAbsent o = false → rowAt o = none → blockOf o ≠ .id →
      Answers (.registerWrite o v) s (s.report 55 0 63 6 o)) ∧
    (rowAt o = none → blockOf o = .id → Answers (.registerWrite o v) s s) ∧
    (s.blockAbsent o = false → (rowAt o).isSome → s.blockFenced o = true → Answers (.registerWrite o v) s s) ∧
    (s.blockAbsent o = false → (rowAt o).isSome → s.blockFenced o = false →
      (s.blockStopped o = true ∨ s.endsCondition o v = true) →
      Answers (.registerWrite o v) s
        (({ s with pwr := { s.pwr with waiting := s.pwr.waiting ++ [(⟨false, o, some v, 63⟩ : HeldAccess)] } }).wake 2)) ∧
    (s.Reaches o v → (rowAt o).isSome → Answers (.registerWrite o v) s (s.regAct o v))

/-- A register with no action of its own takes a write by its access code. In the blocks PWR, CFG, OUT, OSC, BST and DBG, but for
the six registers whose chapter gives a write an action: a write of an RW register that is no half of a pair sets its
writable bits, each clamped field at the nearest end of its range; a write of a W1C register clears the bits written 1; a
write of an RO, RC, WO or reserved register changes nothing. -/
def Obligations.PlainRegistersByAccessCode : Prop :=
  ∀ (o : Nat) (v : Word) (s : State) (r : RegRow),
    blockOf o ∈ [Block.pwr, .cfg, .outp, .osc, .bst, .dbg] →
    o ∉ [Reg.PWR_LTR, Reg.CFG_SWIN_DATA, Reg.OUT_CTRL, Reg.OSC_CTRL, Reg.BST_CTRL, Reg.DBG_CTRL] →
    rowAt o = some r → o % 4 = 0 → s.Reaches o v → s.writable o = true →
    (r.acc = .rw → r.kind ≠ .lo → r.kind ≠ .hi → Answers (.registerWrite o v) s
      (s.setReg o (clampWord r.clamps ((s.reg o &&& ~~~(BitVec.ofNat 32 r.rw)) ||| (v &&& BitVec.ofNat 32 r.rw))))) ∧
    (r.acc = .w1c → Answers (.registerWrite o v) s (s.setReg o (s.reg o &&& ~~~(v &&& BitVec.ofNat 32 r.w1c)))) ∧
    (r.acc ∈ [Acc.ro, .rc, .wo, .rsv] → Answers (.registerWrite o v) s s)

/-- Every block's event register is cleared by ones, its enable register holds what is written. For each of the 27 event
registers of R422 with its enable register: a write of the event register that reaches its unit clears the bits written 1 and
no other; a write of the enable register sets its writable bits. Nothing else changes but by what follows every command. -/
def Obligations.EventRegistersClearAndEnable : Prop :=
  ∀ p ∈ evtRegs, ∀ (v : Word) (s : State),
    (s.Reaches p.1 v → ∃ r, rowAt p.1 = some r ∧ r.acc = .w1c ∧
      Answers (.registerWrite p.1 v) s (s.setReg p.1 (s.reg p.1 &&& ~~~(v &&& BitVec.ofNat 32 r.w1c)))) ∧
    (s.Reaches p.2 v → ∃ r, rowAt p.2 = some r ∧ r.acc = .rw ∧
      Answers (.registerWrite p.2 v) s
        (s.setReg p.2 ((s.reg p.2 &&& ~~~(BitVec.ofNat 32 r.rw)) ||| (v &&& BitVec.ofNat 32 r.rw))))

/-- The LO half of a writable pair waits for the write of its HI half. For the base registers of the ring pairs (the pair
DISABLED), of the OSC, ISL and metering rings (the unit's EN clear): a write of the LO half is held and changes no register;
a write of the HI half applies both halves at once, the LO half as last written, or as it stands when none waits. So it is for the
entries of the leap-second table. -/
def Obligations.PairHalvesApplyTogether : Prop :=
  ∀ o ∈ [Reg.OSC_RING_BASE_HI, Reg.ISL_RING_BASE_HI, Reg.ISL_MEMB_BASE_HI, Reg.MTR_REC_BASE_HI, Reg.TB_LEAP_0_HI] ++
      (List.range 31).map (fun i => Reg.TB_LEAP_HI i) ++
      (List.range 16).flatMap fun n => [Reg.HIF_RP_SQ_BASE_HI n, Reg.HIF_RP_CQ_BASE_HI n, Reg.HIF_RP_DATA_BASE_HI n],
    ∀ (v : Word) (s : State),
      (s.Reaches o v → s.writable o = true →
        (∀ lo, mapFind s.hold (o - 4) = some lo →
          Answers (.pairHiWrite o v) s ((({ s with hold := mapDel s.hold (o - 4) }).setReg (o - 4) lo).setReg o v)) ∧
        (mapFind s.hold (o - 4) = none → Answers (.pairHiWrite o v) s (s.setReg o v))) ∧
      (s.Reaches (o - 4) v → s.writable (o - 4) = true → ∃ r, rowAt (o - 4) = some r ∧
        Answers (.registerWrite (o - 4) v) s { s with hold := mapSet s.hold (o - 4) (v &&& BitVec.ofNat 32 r.rw) })

/-- What a read of each kind of register returns, latches, clears or advances. A read that reaches its unit: a pair's LO half
returns its value and latches the HI half (a counter of an engine at what it has reached by then); the SUBNS word of a timestamp group latches the three (RTC groups: two) words
after it; an RC register returns its value and is cleared; a window's data register returns the addressed word and advances
the offset. MTR_PEAK returns the word latched with its block, or the present one when none is latched, and a read clears both (the
model's choice of log entry 135). The registers whose reads have an action of their own (the nonces, the RTC group, the metering
point blocks) have their own statements. CFG_ECC_ADDR_HI returns the half latched and clears VALID (R454). -/
def Obligations.ReadsReturnAndLatch : Prop :=
  ∀ (o : Nat) (s : State) (r : RegRow), rowAt o = some r → s.Readable o →
    (r.acc = .rc → ¬(0xC1000 ≤ o ∧ o < 0xC1C00) → Answers (.rcRead o) s { (s.setReg o 0) with rdata := s.viewReg o }) ∧
    (r.acc = .rc → 0xC1000 ≤ o ∧ o < 0xC1C00 →
      (∀ v, mapFind s.latch o = some v →
        Answers (.rcRead o) s { (s.setReg o 0) with latch := mapSet s.latch o 0, rdata := v }) ∧
      (mapFind s.latch o = none → Answers (.rcRead o) s { (s.setReg o 0) with rdata := s.reg o })) ∧
    (o ∉ [Reg.LOG_NONCE_LO, Reg.KEY_NONCE_LO] → ¬(0xC1000 ≤ o ∧ o < 0xC1C00) → ¬(0x150010 ≤ o ∧ o < 0x15001C) → r.acc ≠ .rc →
      (r.kind = .lo → isPair o = true → Answers (.pairLoRead o) s
        { s.readCatch o with
          latch := mapSet s.latch (o + 4) ((s.readCatch o).viewReg (o + 4)), rdata := (s.readCatch o).viewReg o }) ∧
      (blockOf o ≠ .eng → s.readCatch o = s) ∧
      (r.kind = .ts → Answers (.timestampSubnsRead o) s
        { s with latch := mapSet (mapSet (mapSet s.latch (o + 4) (s.viewReg (o + 4))) (o + 8) (s.viewReg (o + 8)))
                   (o + 12) (s.viewReg (o + 12))
                 rdata := s.viewReg o }) ∧
      (r.kind = .ts3 → Answers (.timestampSubnsRead o) s
        { s with latch := mapSet (mapSet s.latch (o + 4) (s.viewReg (o + 4))) (o + 8) (s.viewReg (o + 8))
                 rdata := s.viewReg o }) ∧
      (r.kind = .win → Answers (.windowDataAccess o none) s { (s.winStep o) with rdata := s.viewReg o })) ∧
    Answers .eccAddrRead s { (s.setFld Reg.CFG_ECC_ADDR_HI 31 1 0) with rdata := s.latched Reg.CFG_ECC_ADDR_HI }

/-- A write of a capture window stores the word and advances the offset; a read-only window ignores it. A write of CAP_WIN_DATA
that reaches its unit stores the word at the aligned offset of CAP_WIN_ADDR, unless the entry's channel is ARMED or
TRIGGERED, and advances the offset by 4 either way. A write of the data register of one of the read-only windows (FE, MTR,
ALN, OSC, ISL, ALM, OUT, LOG, FLT) changes nothing. -/
def Obligations.WindowWritesStoreAndAdvance : Prop :=
  ∀ (v : Word) (s : State),
    (s.Reaches Reg.CAP_WIN_DATA v → (s.capCh (s.fld Reg.CAP_WIN_ADDR 0 9 / 4 * 4 / 128)).busy = false →
      Answers (.windowDataAccess Reg.CAP_WIN_DATA (some v)) s
        { (s.setFld Reg.CAP_WIN_ADDR 0 9 (s.fld Reg.CAP_WIN_ADDR 0 9 + 4)) with
          cap := { s.cap with win := mapPut (fun _ => (0 : Word)) s.cap.win (s.fld Reg.CAP_WIN_ADDR 0 9 / 4 * 4) v } }) ∧
    (s.Reaches Reg.CAP_WIN_DATA v → (s.capCh (s.fld Reg.CAP_WIN_ADDR 0 9 / 4 * 4 / 128)).busy = true →
      Answers (.windowDataAccess Reg.CAP_WIN_DATA (some v)) s
        (s.setFld Reg.CAP_WIN_ADDR 0 9 (s.fld Reg.CAP_WIN_ADDR 0 9 + 4))) ∧
    (∀ o ∈ [Reg.FE_WIN_DATA, Reg.MTR_WIN_DATA, Reg.ALN_WIN_DATA, Reg.OSC_WIN_DATA, Reg.ISL_WIN_DATA, Reg.ALM_WIN_DATA,
        Reg.OUT_WIN_DATA, Reg.LOG_WIN_DATA, Reg.FLT_WIN_DATA],
      s.Reaches o v → Answers (.windowDataAccess o (some v)) s s)

/-- Accesses of a wrong size or of unassigned offsets do nothing and are recorded. An access that is not an aligned word (nor, in
the MSI-X table and its pending bits, an aligned 64-bit one) is not performed: a read returns zero; it is reported as an
access error of source 55 with the BAR offset, bit 32 set for BAR2, but not in the block of an absent unit. An aligned access
of an unassigned offset outside the ID block likewise: a write is ignored, a read returns zero. -/
def Obligations.UnperformedAccessesRecorded : Prop :=
  ∀ (o size : Nat) (s : State),
    (¬(size = 4 ∧ o % 4 = 0) → ¬(size = 8 ∧ o % 8 = 0 ∧ ((0x18000 ≤ o ∧ o < 0x18400) ∨ (0x19000 ≤ o ∧ o < 0x19008))) →
      s.blockAbsent o = false →
      Answers (.missizedAccess false o size true) s (s.report 55 0 63 6 o) ∧
      Answers (.missizedAccess false o size false) s (({ s with rdata := 0 } : State).report 55 0 63 5 o)) ∧
    (¬(size = 4 ∧ o % 4 = 0) →
      Answers (.missizedAccess true o size true) s (s.report 55 0 63 6 (2 ^ 32 + o)) ∧
      Answers (.missizedAccess true o size false) s (({ s with rdata := 0 } : State).report 55 0 63 5 (2 ^ 32 + o))) ∧
    (¬(size = 4 ∧ o % 4 = 0) → s.blockAbsent o = true → blockOf o ≠ .hif →
      Answers (.missizedAccess false o size true) s s ∧ Answers (.missizedAccess false o size false) s { s with rdata := 0 }) ∧
    (o % 4 = 0 → rowAt o = none → s.blockAbsent o = false → blockOf o ≠ .id → ∀ v : Word,
      Answers (.unmappedAccess o (some v)) s (s.report 55 0 63 6 o) ∧
      Answers (.unmappedAccess o none) s { (s.report 55 0 63 5 o) with rdata := 0 }) ∧
    (o % 4 = 0 → s.freshNext.Reaches o (BitVec.ofNat 32 s.freshVal) → (rowAt o).isSome →
      Answers (.missizedAccess false o 4 true) s (s.freshNext.regAct o (BitVec.ofNat 32 s.freshVal))) ∧
    (o % 4 = 0 → s.Readable o → (rowAt o).isSome →
      Answers (.missizedAccess false o 4 false) s (s.readAct o))

/-- FLR, hot reset, link-down and PERST_N reset the HIF block and leave the other blocks' registers. HIF_RESET: the actions under way run to
their end; then every ring pair
is as after reset, the HIF block's registers hold their reset values (after an FLR HIF_EVT shows bit 2), the other blocks'
registers keep what those actions left and the DRAM its bytes, the MSI-X pending bits are gone, Bus Master Enable and D3hot are clear, the
configuration space's payload, request, tag, ECRC and MSI-X mask settings are as after reset (log entry 129: presumed
from PCI Express) and a link-down takes speed and width to 0. PERST_N without PERST_SCOPE does the same as an FLR and takes
the link down; with it, it is a core reset of cause 5. A link change limits the speed to 8 GT/s with STRAP3. -/
def Obligations.HifResetsAloneAndLink : Prop :=
  ∀ s : State,
    (∀ kind : Nat, ∃ u, Answers (.hifReset kind) s u ∧ (∀ n, u.ring n = {}) ∧ u.msix = {} ∧
      (∀ o, blockOf o ≠ .hif → u.reg o = s.actAll.reg o) ∧ u.flash = s.actAll.flash ∧ u.out = s.actAll.out ∧
      (∀ o, blockOf o = .hif → o ≠ Reg.HIF_EVT → u.reg o = resetAt o) ∧
      u.reg Reg.HIF_EVT = (if kind = 0 then 4 else 0) ∧
      u.hif.pcie = { s.hif.pcie with
        bme := false, d3hot := false, l1 := false
        maxPayload := 128, maxRead := 512, extTag := true, ecrcGen := false, ecrcChk := false, msixMask := false
        speed := if kind = 2 then 0 else s.hif.pcie.speed
        width := if kind = 2 then 0 else s.hif.pcie.width } ∧
      u.dram = s.dram ∧ u.cfg = s.cfg ∧ u.aln = s.aln ∧ u.tb = s.tb) ∧
    (∀ env, s.bkp.perstScope = true → exec (.perstNAssert env) s = exec (.coreReset 5 env) s) ∧
    (∀ env, s.bkp.perstScope = false → ∃ u, Answers (.perstNAssert env) s u ∧ (∀ n, u.ring n = {}) ∧
      u.hif.pcie = { speed := 0, width := 0, subVendor := (s.flash.subsys.getD (0x1FB5, 0)).1, subId := (s.flash.subsys.getD (0x1FB5, 0)).2,
                      aerStatus := s.hif.pcie.aerStatus } ∧
      (∀ o, blockOf o ≠ .hif → u.reg o = s.actAll.reg o) ∧ u.tb = s.tb ∧ u.cfg = s.cfg) ∧
    ((∀ n, n < 16 → ∀ f ∈ (s.ring n).fetched, f.act = none) → s.actAll = s) ∧
    (∀ speed width l1, Answers (.pcieLinkStateChange speed width l1) s
      { s with hif := { s.hif with pcie := { s.hif.pcie with
          speed := min speed (if s.hw.straps.getLsbD 3 then 3 else 4), width := width, l1 := l1 } } })

/-- Bus Master Enable, D3hot and D0. A change of Bus Master Enable records it; when it clears, no pair 0 to 15 keeps a waiting
delivery, and with none waiting nothing else changes. Entering D3hot records it, and when the entry conditions of DEEP do not
hold D3_BLOCKED and PWR_EVT bit 2 are set. The return to D0 clears both. -/
def Obligations.BusMasterAndDeviceStates : Prop :=
  ∀ s : State,
    Answers (.busMasterEnableChange true) s { s with hif := { s.hif with pcie := { s.hif.pcie with bme := true } } } ∧
    (∃ u, Answers (.busMasterEnableChange false) s u ∧ u.hif.pcie.bme = false ∧ ∀ n, n < 16 → (u.ring n).waiting = []) ∧
    (∀ (d : State), d = { s with hif := { s.hif with pcie := { s.hif.pcie with d3hot := true } } } →
      (d.pwrAllows 4 = true → Answers .pcieD3hotEnter s d) ∧
      (d.pwrAllows 4 = false → Answers .pcieD3hotEnter s
        (({ d with pwr := { s.pwr with d3Blocked := true } } : State).event Reg.PWR_EVT 2))) ∧
    Answers .pcieD0Return s
      { s with hif := { s.hif with pcie := { s.hif.pcie with d3hot := false } }, pwr := { s.pwr with d3Blocked := false } }

/-- A core reset returns the units to their reset states, samples the straps and seeds DT from the RTC. For every cause and boot
environment the next state has DT seeded from the RTC, released from its own power-on reset first (log entry 125), in FREE_RUN with every source slot DISABLED, the straps sampled, the
cause recorded with whether a backup power-on reset preceded it, no alarm slot, quay, queued frame or open island, metering
and capture at reset, the debug port locked, nothing latched or held. -/
def Obligations.CoreResetClearsUnits : Prop :=
  ∀ (cause : Nat) (env : BootEnv) (s : State),
    let b : Bkp := if s.bkp.por then { ({} : Bkp) with onVbat := s.bkp.onVbat, backupLow := s.bkp.backupLow, vbat := s.bkp.vbat } else s.bkp
    ∃ u, Answers (.coreReset cause env) s u ∧
    u.dt = b.seed ∧ u.tb = { lastSec := secOf b.seed, lastInstant := b.seed, lastOnTime := b.seed } ∧ u.hw.straps = env.straps ∧
    u.rtc = { cause := cause, porBefore := b.porSince } ∧ u.pins = { pfw := s.pins.pfw } ∧
    u.mac = {} ∧ u.aln = {} ∧ u.isl = {} ∧ u.alm = {} ∧ u.outp = {} ∧ u.mtr = {} ∧ u.cap = {} ∧ u.dbg = {} ∧
    u.latch = [] ∧ u.hold = [] ∧ u.rdata = 0 ∧ u.pending = s.pending

/-- A write of TB_SET_SEC_HI with APPLY fixes the step Δ, or is refused with SET_ERR. Every write of TB_SET_SEC_HI sets its
seconds field, and the held write of TB_SET_SEC_LO takes effect with it. With APPLY: when DT is LOCKED, or TB_SET_NS is 1,000,000,000 or more, TB_EVT bit 6 is set and nothing is
pending that was not; otherwise the pending set is the written time minus DT, replacing an earlier one. -/
def Obligations.SetDeviceTimeFixesStep : Prop :=
  ∀ (v : Word) (s : State),
    let s1 := s.takeHeld Reg.TB_SET_SEC_LO
    (∀ lo, mapFind s.hold Reg.TB_SET_SEC_LO = some lo →
      s1 = ({ s with hold := mapDel s.hold Reg.TB_SET_SEC_LO }).setReg Reg.TB_SET_SEC_LO lo) ∧
    (mapFind s.hold Reg.TB_SET_SEC_LO = none → s1 = s) ∧
    (v.getLsbD 31 = false → Answers (.tbSetApply v) s (s1.setReg Reg.TB_SET_SEC_HI (v &&& 0xFFFF))) ∧
    (v.getLsbD 31 = true → (s.tb.dtState = .locked ∨ 1000000000 ≤ (s.reg Reg.TB_SET_NS).toNat) →
      Answers (.tbSetApply v) s ((s1.setReg Reg.TB_SET_SEC_HI (v &&& 0xFFFF)).event Reg.TB_EVT 6)) ∧
    (v.getLsbD 31 = true → s.tb.dtState ≠ .locked → (s.reg Reg.TB_SET_NS).toNat < 1000000000 →
      Answers (.tbSetApply v) s
        { (s1.setReg Reg.TB_SET_SEC_HI (v &&& 0xFFFF)) with
          tb := { s.tb with setPending := some (((
            (((s1.reg Reg.TB_SET_SEC_LO).toNat + 2 ^ 32 * (v.toNat % 2 ^ 16)) * subPerSec + (s.reg Reg.TB_SET_NS).toNat * subPerNs +
              s.fld Reg.TB_SET_SUBNS 0 16) : Nat) : Int) - (s.dt : Int)) } })

/-- A LOAD of the leap-second table waits for the next whole second, or is refused. A write of TB_LEAP_CTRL sets COUNT. With
LOAD: a table of 1 to 32 entries with strictly ascending seconds and offsets that change by one waits for the next whole
second, replaces an earlier one and clears ERR; any other sets ERR and TB_EVT bit 7 and leaves the current table. At a whole
second (no commit waiting, the grid delivered up to it) the waiting table is taken. -/
def Obligations.LeapTableLoads : Prop :=
  ∀ (v : Word) (s : State),
    let s1 := s.setReg Reg.TB_LEAP_CTRL (v &&& 0x3F)
    (v.getLsbD 31 = false → Answers (.tbLeapLoad v) s s1) ∧
    (v.getLsbD 31 = true → leapOk (s1.leapEntries (v.toNat % 64)) = true →
      Answers (.tbLeapLoad v) s
        { s1 with tb := { s.tb with leapPending := some (s1.leapEntries (v.toNat % 64)), leapErr := false } }) ∧
    (v.getLsbD 31 = true → leapOk (s1.leapEntries (v.toNat % 64)) = false →
      Answers (.tbLeapLoad v) s (({ s1 with tb := { s.tb with leapErr := true } } : State).event Reg.TB_EVT 7)) ∧
    (∀ t : List (Nat × Int), leapOk t = true ↔
      1 ≤ t.length ∧ t.length ≤ 32 ∧
        ∀ p ∈ t.zip (t.drop 1), p.1.1 < p.2.1 ∧ (p.2.2 = p.1.2 + 1 ∨ p.2.2 = p.1.2 - 1)) ∧
    (∀ (frac : Nat) (healed : List Nat), s.cfg.commit = none → (s.tb.grid.rate = 0 ∨ s.nextSecond ≤ s.tb.grid.sec) →
      ∃ t, exec (.wholeTaiSecond frac healed) s = .next t ∧
        ((s.tb.grid.rate ≠ 0 ∧ s.tb.nextRate = none) ∨ s.tb.setPending = none → t.tb.lastSec = s.nextSecond) ∧ t.tb.leap = s.tb.leapPending.getD s.tb.leap ∧ t.tb.leapPending = none)

/-- A valid measurement updates a slot's offset, rate ratio and residuals and moves its state by the table of R61. For every slot: the
servo's new offset and rate ratio (Config.servo, log entry 7: the manual gives no servo) are held with the time of the measurement,
the residual at the front of the last 16 and the measurement's quality term; SEARCH and LOST become ACQUIRE; ACQUIRE becomes LOCKED
once LOCK_COUNT consecutive residuals are within LOCK_THRESH; LOCKED becomes ACQUIRE at the fourth consecutive residual above four
times it; otherwise the state stays. -/
def Obligations.MeasurementMovesSource : Prop :=
  ∀ (s : State) (i : Nat) (m : Int) (extra : Nat), i < s.tb.src.length →
    let x := s.src i
    let r := Config.servo i (s.offsetOf i) x.ratio m (s.dt - x.lastMeas)
    let thr := max (s.fld (Reg.TB_SRC_LOCK i) 16 16) 1
    let cnt := max (s.fld (Reg.TB_SRC_LOCK i) 8 8) 1
    let y := (s.measure i m extra).src i
    y.offset = r.1 ∧ y.ratio = r.2.1 ∧ y.lastMeas = s.dt ∧ y.resids = (r.2.2 :: x.resids).take 16 ∧ y.extraNs = extra ∧
    (x.st = .search ∨ x.st = .lost → y.st = .acquire) ∧
    (x.st = .acquire → r.2.2 ≤ thr → cnt ≤ x.okRun + 1 → y.st = .locked) ∧
    (x.st = .acquire → (thr < r.2.2 ∨ x.okRun + 1 < cnt) → y.st = .acquire) ∧
    (x.st = .locked → 4 * thr < r.2.2 → 3 ≤ x.badRun → y.st = .acquire) ∧
    (x.st = .locked → (r.2.2 ≤ 4 * thr ∨ x.badRun < 3) → y.st = .locked)

/-- A write of TB_SRC_CFG enables, disables or restarts a slot. The register takes the written fields. EN written 0 on an enabled
slot: the slot is DISABLED and empty. EN written 1 on a disabled one: SEARCH. EN kept with DOMAIN, SDOID, PORTS, UDP4 or P2P
changed: back to SEARCH. EN kept and those fields kept: the slot stays as it is. A slot number above 5 changes nothing. -/
def Obligations.SourceSlotConfigured : Prop :=
  ∀ (i : Nat) (v : Word) (s : State), i < s.tb.src.length →
    let old := s.reg (Reg.TB_SRC_CFG i)
    let new := (s.writeReg (Reg.TB_SRC_CFG i) v).reg (Reg.TB_SRC_CFG i)
    (i < 6 → old.getLsbD 0 = true → new.getLsbD 0 = false →
      ∃ u, Answers (.tbSrcCfgWrite i v) s u ∧ u.src i = {} ∧ u.reg (Reg.TB_SRC_CFG i) = new) ∧
    (i < 6 → old.getLsbD 0 = false → new.getLsbD 0 = false → Answers (.tbSrcCfgWrite i v) s (s.writeReg (Reg.TB_SRC_CFG i) v)) ∧
    (i < 6 → old.getLsbD 0 = false → new.getLsbD 0 = true →
      ∃ u, Answers (.tbSrcCfgWrite i v) s u ∧ u.src i = { st := .search } ∧ u.reg (Reg.TB_SRC_CFG i) = new) ∧
    (i < 6 → old.getLsbD 0 = true → new.getLsbD 0 = true → old.toNat / 16 ≠ new.toNat / 16 →
      ∃ u, Answers (.tbSrcCfgWrite i v) s u ∧ (u.src i).st = .search ∧ (u.src i).master = none ∧ u.reg (Reg.TB_SRC_CFG i) = new) ∧
    (i < 6 → old.getLsbD 0 = true → new.getLsbD 0 = true → old.toNat / 16 = new.toNat / 16 →
      Answers (.tbSrcCfgWrite i v) s (s.writeReg (Reg.TB_SRC_CFG i) v)) ∧
    (6 ≤ i → Answers (.tbSrcCfgWrite i v) s s)

/-- Which PTP messages a slot takes, drops and measures. PTP_MESSAGE_RX takes the oldest frame of its port on the way to the time
base; one that holds no message, or that no enabled slot's domain, sdoId, port and transport match, has no other effect. A message
whose interval is out of range is dropped and counted; so is one whose AUTHENTICATION TLV fails, or whose key slot may not serve
(which also records the key error), or for which no crypto context is free (the model's choice of log entry 117). A one-step Sync of
the selected master is measured as origin plus correction plus path delay minus the corrected receive stamp, by a slot that may
send, with the path delay of the port it came in on; a one-step Pdelay_Resp to this slot's own outstanding request on a port sets
the path delay of that port; a management or signalling
message goes to the host with its corrected receive stamp. Every other accepted message has the effect ptpAct gives it. -/
def Obligations.PtpMessagesTaken : Prop :=
  ∀ (p : Nat) (s : State),
    let s0 := s.ptpTaken p
    (s.ptpHead p = none → Answers (.ptpMessageRx p) s s0) ∧
    ∀ m : PtpMsg, s.ptpHead p = some m →
      (s0.ptpSlot m = none → Answers (.ptpMessageRx p) s s0) ∧
      (∀ i, s0.ptpSlot m = some i → ptpIntervalOk m = false → Answers (.ptpMessageRx p) s (s0.count32 (Reg.TB_SRC_DROP i))) ∧
      (∀ i, s0.ptpSlot m = some i → ptpIntervalOk m = true → s0.srcCfg i 2 = true →
        (s0.slotFits (s0.fld (Reg.TB_SRC_AUTH i) 0 6) 2 1 = false →
          Answers (.ptpMessageRx p) s (s0.keyUseErr.count32 (Reg.TB_SRC_DROP i))) ∧
        (s0.slotFits (s0.fld (Reg.TB_SRC_AUTH i) 0 6) 2 1 = true → s0.cryptoNow (unitCode 3) = none →
          Answers (.ptpMessageRx p) s ((s0.count (Reg.KEY_CNT_LO 6)).count32 (Reg.TB_SRC_DROP i))) ∧
        (∀ s1, s0.slotFits (s0.fld (Reg.TB_SRC_AUTH i) 0 6) 2 1 = true → s0.cryptoNow (unitCode 3) = some s1 →
          (s1.ptpAuthOk i m = false → Answers (.ptpMessageRx p) s (s1.count32 (Reg.TB_SRC_DROP i))) ∧
          (s1.ptpAuthOk i m = true → Answers (.ptpMessageRx p) s (s1.ptpAct i m)))) ∧
      (∀ i, s0.ptpSlot m = some i → ptpIntervalOk m = true → s0.srcCfg i 2 = false →
        Answers (.ptpMessageRx p) s (s0.ptpAct i m) ∧
        (∀ origin, m.kind = .sync false origin → (s0.src i).master = some m.sender → i < s0.tb.src.length →
          m.port < (s0.src i).paths.length →
          ∃ s1 : State, s1.regs = s0.regs ∧
            s1.src i = { s0.src i with
              masterIp := m.srcIp, masterMac := m.srcMac, gotSync := true, syncLog := m.logInterval
              paths := (s0.src i).paths.modify m.port fun y => { y with
                syncT1 := (origin : Int) + m.correction, syncT2 := m.rx } } ∧
            (s0.ptpMaySend i = true → Answers (.ptpMessageRx p) s
              (s1.measure i ((origin : Int) + m.correction + ((s0.src i).path m.port).delay - m.rx) (s0.src i).extraNs)) ∧
            (s0.ptpMaySend i = false → Answers (.ptpMessageRx p) s s1)) ∧
        (∀ received requester q, m.kind = .pdelayResp false received requester → requester = ownIdentity i m.port →
          (s0.src i).txPend.find? (fun q => q.kind == .pdelayReq && q.port == m.port && q.seq == m.seq && q.stamp.isSome) = some q →
          i < s0.tb.src.length → m.port < (s0.src i).paths.length →
          ∃ u, Answers (.ptpMessageRx p) s u ∧
            ((u.src i).path m.port).delay = (m.rx - q.stamp.getD 0 - m.correction) / 2 ∧ q ∉ (u.src i).txPend) ∧
        (m.kind = .management ∨ m.kind = .signalling →
          Answers (.ptpMessageRx p) s (s0.deliver ⟨s0.fld Reg.BIN_CTRL 2 4, 2, m.bytes, m.port + 2 ^ 8 * i, [], m.rx.toNat, 0⟩)))

/-- When a slot's interval expires it sends one request on each of its ports; a returned stamp completes it. PTP_EVENT_MESSAGE_TX
does nothing for a slot above 3, a slot that may not send, or an end-to-end slot without a Sync. Otherwise one message is
offered on each port of the slot, each with a sequence number of its own. TX_TIMESTAMP_RETURN of a message that does not wait for
its stamp on that port changes nothing; of a two-step Pdelay_Resp it sends the follow-up with the corrected stamp in the source's
time scale, when the slot may send; of a request it holds the stamp corrected with that port's TB_EGR. -/
def Obligations.PtpSlotSends : Prop :=
  ∀ (i : Nat) (s : State),
    ((4 ≤ i ∨ s.ptpMaySend i = false ∨ (s.srcCfg i 4 = false ∧ (s.src i).gotSync = false)) →
      Answers (.ptpEventMessageTx i) s s) ∧
    (i < 4 → i < s.tb.src.length → s.ptpMaySend i = true → (s.srcCfg i 4 = true ∨ (s.src i).gotSync = true) →
      let n := ((List.range 6).filter fun p => s.srcCfg i (6 + p)).length
      ∃ u, Answers (.ptpEventMessageTx i) s u ∧
        (0 < n → (u.src i).nextSeq = ((s.src i).nextSeq % 65536 + n - 1) % 65536 + 1) ∧
        u.mac.offers.length = s.mac.offers.length + n) ∧
    (∀ (port stamp : Nat) (m : PtpSent),
      s.sentWait port m = (s.src m.slot).txPend.find?
        (fun p => p.port == port && p.kind == m.kind && p.seq == m.seq && p.stamp.isNone) ∧
      (s.sentWait port m = none → Answers (.txTimestampReturn port m stamp) s s) ∧
      (∀ p, s.sentWait port m = some p →
        let t : Int := (stamp : Int) + (s.asOf stamp).sreg (Reg.TB_EGR port)
        let gone := s.modSrc m.slot fun x => { x with txPend := x.txPend.filter fun q => q != p }
        (p.kind = .pdelayResp → s.ptpMaySend m.slot = true → Answers (.txTimestampReturn port m stamp) s
          (gone.ptpSend m.slot port .pdelayRespFollowUp p.seq p.requester (s.srcTime m.slot t)
            (p.correction + subNs (s.srcTime m.slot t)) none)) ∧
        (p.kind = .pdelayResp → s.ptpMaySend m.slot = false → Answers (.txTimestampReturn port m stamp) s gone) ∧
        (p.kind ≠ .pdelayResp → Answers (.txTimestampReturn port m stamp) s
          (s.modSrc m.slot fun x => { x with txPend := x.txPend.map fun q => if q = p then { q with stamp := some t } else q }))))

/-- 1PPS edges, IRIG-B frames and expired loss times. An edge on PPS_IN while slot 4 is disabled, or of the other polarity, is
not used; in ACQUIRE or LOCKED an edge outside the window is dropped, counted and reported, one inside is measured against
the nearest whole TAI second; in SEARCH or LOST it is measured once DT's seconds have been set. An IRIG-B frame of a disabled
slot or a reserved format is not used; one with wrong markers, a field out of range, failed parity or quality 12 or more is
dropped, counted and reported, and so is one whose UTC second has no TAI second (the model's choice of log entry 116). The loss time
of a slot, once it has passed, moves ACQUIRE and LOCKED to LOST; before it, or in another state, nothing changes. -/
def Obligations.PpsIrigAndLossTaken : Prop :=
  ∀ (s : State),
    (∀ (rising : Bool) (stamp : Nat),
      let s0 := (s.advance stamp).wakeIf 1
      let t : Int := (stamp : Int) - s0.sreg (Reg.TB_SRC_DELAY 4)
      let x := s0.src 4
      let w := max (s0.fld Reg.TB_SRC_AUX_4 16 16) 1 * subPerUs
      let p := s0.srcTime 4 t
      let late := (p - nearestSec p * (subPerSec : Int)).natAbs
      ((s0.srcCfg 4 0 = false ∨ rising = s0.bit Reg.TB_SRC_AUX_4 0) → Answers (.ppsEdge rising stamp) s s0) ∧
      (s0.srcCfg 4 0 = true → rising ≠ s0.bit Reg.TB_SRC_AUX_4 0 →
        ((x.st = .acquire ∨ x.st = .locked) → w < late →
          Answers (.ppsEdge rising stamp) s ((s0.count32 (Reg.TB_SRC_DROP 4)).event Reg.TB_EVT 8)) ∧
        ((x.st = .acquire ∨ x.st = .locked) → late ≤ w →
          Answers (.ppsEdge rising stamp) s (s0.measure 4 (nearestSec t * (subPerSec : Int) - t) 0)) ∧
        (x.st ≠ .acquire → x.st ≠ .locked → s0.tb.secsSet = true →
          Answers (.ppsEdge rising stamp) s (s0.measure 4 (nearestSec t * (subPerSec : Int) - t) 0)) ∧
        (x.st ≠ .acquire → x.st ≠ .locked → s0.tb.secsSet = false → Answers (.ppsEdge rising stamp) s s0))) ∧
    (∀ f : IrigFrame,
      let s0 := s.advance f.stamp
      let bad := !(irigMarkersOk f) || s0.irigRange f || (s0.bit Reg.TB_SRC_AUX_5 4 && !(irigParityOk f))
      ((s0.srcCfg 5 0 = false ∨ 8 ≤ s0.fld Reg.TB_SRC_AUX_5 0 4) → Answers (.irigbFrame f) s s0) ∧
      (s0.srcCfg 5 0 = true → s0.fld Reg.TB_SRC_AUX_5 0 4 < 8 →
        (bad = true → Answers (.irigbFrame f) s ((s0.count32 (Reg.TB_SRC_DROP 5)).event Reg.TB_EVT 9)) ∧
        (bad = false → s0.bit Reg.TB_SRC_AUX_5 4 = false →
          (s0.taiOf (s0.irigUtc f).toNat s0.dt = none →
            Answers (.irigbFrame f) s ((s0.count32 (Reg.TB_SRC_DROP 5)).event Reg.TB_EVT 9)) ∧
          (∀ sec, s0.taiOf (s0.irigUtc f).toNat s0.dt = some sec →
            Answers (.irigbFrame f) s
              (s0.measure 5 ((sec * subPerSec : Nat) - ((f.stamp : Int) - s0.sreg (Reg.TB_SRC_DELAY 5))) 0))))) ∧
    (∀ (i at_ : Nat), i < s.tb.src.length →
      (((s.src i).st = .acquire ∨ (s.src i).st = .locked) → s.lossAt i ≤ at_ →
        ∃ u, Answers (.sourceLossTimeout i at_) s u ∧ (u.src i).st = .lost) ∧
      ((((s.src i).st ≠ .acquire ∧ (s.src i).st ≠ .locked) ∨ at_ < s.lossAt i) → Answers (.sourceLossTimeout i at_) s s))

/-- A reporting instant is delivered in order and the grid moves to the next one. With no grid, or one whose second has not
begun, REPORTING_INSTANT changes nothing. Otherwise (with no commit waiting and no released unit to configure) device time
has reached the instant, its time-quality word is the newest kept and is what TB_TQ shows, and the grid's next instant is
index k + 1, or index 0 of the next second after the last. -/
def Obligations.InstantAdvancesGrid : Prop :=
  ∀ s : State,
    let g := s.tb.grid
    let t := instantAt g.rate g.sec g.k
    ((g.rate = 0 ∨ s.tb.lastSec < g.sec) → Answers .reportingInstant s s) ∧
    (g.rate ≠ 0 → g.sec ≤ s.tb.lastSec → s.cfg.commit = none → s.flt.reinit = [] →
      ∃ v, exec .reportingInstant s = .next v ∧ v.tb.lastInstant = t ∧ v.tb.tqHist.head? = some (t, v.tb.tq) ∧
        v.tb.grid = (if g.k + 1 < g.rate then ⟨g.rate, g.sec, g.k + 1⟩ else ⟨g.rate, g.sec + 1, 0⟩))

/-- The 10 MHz reference and the end of a slew. REF10M_LOST the first time: the TB PLL runs on SYS_REFCLK and, with STRAP2,
source 59 reports; again: nothing. REF10M_RESTORED: back. SLEWING_END while DT is LOCKED and slewing, no sooner than MAX_SLEW lets the
slew end: SLEWING clears and the active source's remaining offset is what is left, at most 10 ns; otherwise nothing changes. -/
def Obligations.ReferenceAndSlewEnd : Prop :=
  ∀ s : State,
    (s.tb.ref10mLost = true → Answers .ref10mLost s s) ∧
    (s.tb.ref10mLost = false → s.hw.straps.getLsbD 2 = false → Answers .ref10mLost s { s with tb := { s.tb with ref10mLost := true } }) ∧
    (s.tb.ref10mLost = false → s.hw.straps.getLsbD 2 = true →
      Answers .ref10mLost s (({ s with tb := { s.tb with ref10mLost := true } } : State).report 59 0 (unitCode 23) 0 0)) ∧
    Answers .ref10mRestored s { s with tb := { s.tb with ref10mLost := false } } ∧
    (∀ (at_ : Nat) (rest : Int), s.tb.slewing = true → s.tb.dtState = .locked → s.slewEarliest ≤ at_ → rest.natAbs ≤ 10 * subPerNs →
      s.tb.active < s.tb.src.length → (s.src s.tb.active).st ≠ .disabled →
      ∃ t, exec (.slewingEnd at_ rest) s = .next t ∧ t.tb.slewing = false ∧ t.offsetOf s.tb.active = rest ∧
        t.dt = max s.dt at_) ∧
    (∀ (at_ : Nat) (rest : Int), (s.tb.slewing = false ∨ s.tb.dtState ≠ .locked ∨ at_ < s.slewEarliest) → Answers (.slewingEnd at_ rest) s s)

/-- How a port's link state moves. Lock: DOWN becomes TRAINING unless SPEED_ERR or LINE_ERR holds it, and a DISABLED port takes
no notice; lock lost: TRAINING, UP and FAULT become DOWN and the lock, autonegotiation, speed and fault notes are cleared;
autonegotiation completes only in TRAINING with it in use; the end of the qualification time: TRAINING with lock, no fault
and autonegotiation done or not in use becomes UP; a slow SGMII partner takes the port DOWN, a fast one back to TRAINING; a
fault: UP becomes FAULT, on P4 and P5 only a remote fault with AN_EN in 1000BASE-X; its end: FAULT becomes UP. -/
def Obligations.LinkStatesMove : Prop :=
  ∀ (p : Nat) (s : State), p < 6 → p < s.mac.port.length →
    let x := s.port p
    let goes (c : Instr) (l : LinkSt) : Prop := ∃ t, exec c s = .next t ∧ (t.port p).link = l
    let busy := x.link = .training ∨ x.link = .up ∨ x.link = .fault
    let fault := x.localFault || x.remoteFault || x.hiBer
    (x.link = .disabled → Answers (.linkLockAcquired p) s s) ∧
    (x.link = .down → x.speedErr = false → s.lineErr p = false →
      ∃ t, exec (.linkLockAcquired p) s = .next t ∧ (t.port p).link = .training ∧ (t.port p).lock = true ∧ (t.port p).anDone = false) ∧
    (x.link = .down → (x.speedErr = true ∨ s.lineErr p = true) →
      ∃ t, exec (.linkLockAcquired p) s = .next t ∧ (t.port p).link = .down ∧ (t.port p).lock = true) ∧
    (busy → Answers (.linkLockAcquired p) s (s.modPort p fun x => { x with lock := true })) ∧
    (∀ r, ∃ t, exec (.linkLockLost p r) s = .next t ∧ (t.port p).lock = false ∧ (t.port p).anDone = false ∧ (t.port p).speedErr = false ∧
      (t.port p).hiBer = false ∧ (t.port p).localFault = false ∧ (t.port p).remoteFault = false ∧
      (busy → (t.port p).link = .down) ∧ (¬ busy → (t.port p).link = x.link)) ∧
    (s.autoneg p = true → x.link = .training →
      Answers (.autonegComplete p) s (s.modPort p fun x => { x with anDone := true })) ∧
    ((s.autoneg p = false ∨ x.link ≠ .training) → Answers (.autonegComplete p) s s) ∧
    (x.link = .training → x.lock = true → fault = false → (s.autoneg p = false ∨ x.anDone = true) → goes (.linkQualified p) .up) ∧
    ((x.link ≠ .training ∨ x.lock = false ∨ fault = true ∨ (s.autoneg p = true ∧ x.anDone = false)) →
      Answers (.linkQualified p) s s) ∧
    (∀ r, 4 ≤ p → s.macLine p = 1 → x.lock = true →
      (x.speedErr = false → busy → goes (.sgmiiControlRx p true r) .down) ∧
      (x.speedErr = true → x.link = .down → goes (.sgmiiControlRx p false r) .training) ∧
      Answers (.sgmiiControlRx p x.speedErr r) s s) ∧
    (∀ slow r, (p < 4 ∨ s.macLine p ≠ 1 ∨ x.lock = false) → Answers (.sgmiiControlRx p slow r) s s) ∧
    (∀ remote hiBer r, (x.link = .disabled ∨ (4 ≤ p ∧ (remote = false ∨ hiBer = true ∨ s.macLine p ≠ 0 ∨ s.macCtrl p 5 = false))) →
      Answers (.linkFaultRx p remote hiBer r) s s) ∧
    (∀ remote hiBer r, (p < 4 ∨ (remote = true ∧ hiBer = false ∧ s.macLine p = 0 ∧ s.macCtrl p 5 = true)) → x.link = .up →
      goes (.linkFaultRx p remote hiBer r) .fault) ∧
    (x.link = .fault → goes (.linkFaultCleared p) .up) ∧
    (x.link ≠ .fault → Answers (.linkFaultCleared p) s
      (s.modPort p fun x => { x with hiBer := false, localFault := false, remoteFault := false }))

/-- A write of MAC_CTRL enables, disables or re-lines a port; a port that leaves UP loses every frame it holds. EN 0: DISABLED
with lock and error notes cleared. EN 1 on a DISABLED port whose LINE_ERR does not change: DOWN; on another port: the state
stays. LINE_ERR set by the write takes TRAINING, UP and FAULT to DOWN, cleared with lock held and no SPEED_ERR takes DOWN to
TRAINING. Whenever a port leaves UP, by the write, by a loss of lock, by a fault or by a slow partner, its queues and the
frame on the wire are gone. A port number above 5 names no port. -/
def Obligations.PortEnableAndLossOfUp : Prop :=
  ∀ (p : Nat) (v : Word) (r : Bool) (s : State), p < s.mac.port.length → s.Reaches (Reg.MAC_CTRL p) v →
    let x := s.port p
    let s0 := if v.getLsbD 2 then s.clearCounters (Reg.MAC_CNT_LO p 0) 24 else s
    let y := s0.writeReg (Reg.MAC_CTRL p) v
    let goes (l : LinkSt) : Prop := ∃ t, exec (.macEnWrite p v r) s = .next t ∧ (t.port p).link = l
    let busy := x.link = .training ∨ x.link = .up ∨ x.link = .fault
    (6 ≤ p → Answers (.macEnWrite p v r) s s) ∧
    (p < 6 →
      (v.getLsbD 0 = false → ∃ t, exec (.macEnWrite p v r) s = .next t ∧ (t.port p).link = .disabled ∧ (t.port p).lock = false ∧
        (t.port p).speedErr = false ∧ (x.link = .up → (t.port p).frames = [])) ∧
      (v.getLsbD 0 = true → x.link = .disabled → y.lineErr p = s0.lineErr p → goes .down) ∧
      (v.getLsbD 0 = true → x.link ≠ .disabled → y.lineErr p = s0.lineErr p → goes x.link) ∧
      (v.getLsbD 0 = true → busy → s0.lineErr p = false → y.lineErr p = true → goes .down) ∧
      (v.getLsbD 0 = true → x.link = .down → x.lock = true → x.speedErr = false → s0.lineErr p = true → y.lineErr p = false → goes .training) ∧
      (x.link = .up →
        (∃ t, exec (.linkLockLost p r) s = .next t ∧ (t.port p).frames = []) ∧
        (p < 4 → ∃ t, exec (.linkFaultRx p false false r) s = .next t ∧ (t.port p).frames = []) ∧
        (4 ≤ p → s.macLine p = 1 → x.lock = true → x.speedErr = false →
          ∃ t, exec (.sgmiiControlRx p true r) s = .next t ∧ (t.port p).frames = [])))

/-- A received frame is counted by the first check that drops it. A frame at the serial input of a port with LOOPBACK (where only the
buffer drains), of a port that is not UP, or whose start-frame delimiter came before the port was UP, is not received. Then, in order: buffer space, PCS, runt,
oversize, FCS, MAC control (a PAUSE frame acts, any other is counted), address filter, VLAN, by the settings in force at the
delimiter; a frame that passes them on a port outside PRP is counted in RX_OK_FRAMES and RX_OK_BYTES, takes its place in the
receive buffer and goes to its consumer; on a PRP pair a duplicate is counted in RX_PRP_DUP and goes to none, and a frame
without a trailer is counted in RX_PRP_NO_RCT and goes on. -/
def Obligations.ReceiveChecksInOrder : Prop :=
  ∀ (p : Nat) (f : WireFrame) (s : State),
    let s0 := s.advance f.endStamp
    let v := s0.asOf f.stamp
    let s1 := s0.modPort p fun x => { x with rxHeld := x.rxHeld - f.drained }
    let n := f.bytes.length
    let b := f.bytes.take (n - 4)
    let lim := v.maxLen p (beAt b 12 2 == 0x8100)
    let held (u : State) : State := u.modPort p fun x => { x with rxHeld := x.rxHeld + n }
    let crcOk := crc32 b = leAt f.bytes (n - 4) 4
    let pause := beAt b 12 2 = 0x8808 ∧ beAt b 14 2 = 1 ∧ (slice b 0 6 = [1, 0x80, 0xC2, 0, 0, 1] ∨ leAt b 0 6 = (v.macDa p 0).1)
    let rx (u : State) : Prop := Answers (.macRxFrame p f) s u
    (6 ≤ p → rx s0) ∧
    (p < 6 → s0.macCtrl p 3 = true → rx s1) ∧
    (p < 6 → s0.macCtrl p 3 = false → ((s0.port p).link ≠ .up ∨ f.stamp < (s0.port p).upSince) → rx s0) ∧
    (p < 6 → s0.macCtrl p 3 = false → (s0.port p).link = .up → (s0.port p).upSince ≤ f.stamp →
      (65536 - (s1.port p).rxHeld < lim → rx (s1.rxDrop p 2)) ∧
      (lim ≤ 65536 - (s1.port p).rxHeld →
        (f.pcsErr = true → rx (s1.rxDrop p 3)) ∧
        (f.pcsErr = false →
          (n < 64 → rx (s1.rxDrop p 4)) ∧
          (64 ≤ n → lim < n → rx (s1.rxDrop p 5)) ∧
          (64 ≤ n → n ≤ lim →
            (¬ crcOk → rx (s1.rxDrop p 6)) ∧
            (crcOk → beAt b (typeOff b) 2 = 0x8808 → pause → rx (s1.pauseRx p (beAt b 16 2) f.endStamp)) ∧
            (crcOk → beAt b (typeOff b) 2 = 0x8808 → ¬ pause → rx (s1.rxDrop p 8)) ∧
            (crcOk → beAt b (typeOff b) 2 ≠ 0x8808 →
              (v.addrPass p b = false → rx (s1.rxDrop p 9)) ∧
              (v.addrPass p b = true → v.vlanPass p b = false → rx (s1.rxDrop p 10)) ∧
              (v.addrPass p b = true → v.vlanPass p b = true →
                ((s1.asOf f.stamp).prpOf p = none → rx ((((held s1).macCountBy p 0 1).macCountBy p 1 n).rxConsume p f b)) ∧
                (∀ e, (s1.asOf f.stamp).prpOf p = some e → rctOf b = none →
                  rx ((((held (s1.macCountBy p 12 1)).macCountBy p 0 1).macCountBy p 1 n).rxConsume p f b)) ∧
                (∀ e seq lan, (s1.asOf f.stamp).prpOf p = some e → rctOf b = some (seq, lan) →
                  (lan == 0xB) = (p != e) → isPtp (b.take (b.length - 6)) = false →
                  ((s1.port e).prpTable.any fun x => x.src == leAt b 6 6 && x.seq == seq && x.lanB != (p != e) &&
                    decide (f.endStamp < x.at_ + (s1.asOf f.stamp).fld (Reg.MAC_PRP (e / 2)) 16 10 * subPerMs)) = true →
                  rx (s1.rxDrop p 11))))))))

/-- Each accepted frame goes to one consumer, and a PAUSE frame acts on its port alone. A PTP frame of a port that an enabled
slot names waits for the time base; a UDP datagram that matches a listener enters the intake queue, or, with 1,024 frames
there, is counted in INTAKE_OVERFLOW; every other frame is delivered to the host receive ring, or counted where delivery is
off. Each carries its stamp, corrected with TB_ING as it stood at the frame's first stamp. A PAUSE frame is counted; with RX_PAUSE_EN and pause_time above 0 it starts the port's pause interval; with RX_PAUSE_EN
0 it does nothing else. When the interval ends the port's queues run again. -/
def Obligations.FramesGoToOneConsumer : Prop :=
  ∀ (s : State) (p : Nat) (f : WireFrame) (b : List Byte),
    let slot := (List.range 4).any fun i => s.bit (Reg.TB_SRC_CFG i) 0 && s.bit (Reg.TB_SRC_CFG i) (6 + p)
    let at_ := ((s.asOf f.stamp).rxCorrected p f.endStamp).toNat
    let counted := (s.macCountBy p 7 1).event (Reg.MAC_EVT p) 4
    (isPtp b = true → slot = true → s.rxConsume p f b =
      { s with tb := { s.tb with ptpQueue := s.tb.ptpQueue ++ [⟨p, b, f.stamp, (s.asOf f.stamp).rxCorrected p f.stamp⟩] } }) ∧
    ((isPtp b = false ∨ slot = false) →
      (∀ u l, udpOf b = some u → s.listenerOf p u = some l →
        (s.bin.intakeQ.length < 1024 → s.rxConsume p f b =
          { s.count (Reg.BIN_CNT_LO 0) with bin := { s.bin with intakeQ := s.bin.intakeQ ++
            [{ listener := l, origin := p, srcIp := u.ip.src, srcPort := u.sport, payload := u.payload, csumOk := u.csumOk,
               arrival := at_, mid := none, dstIp := u.ip.dst, dstPort := u.dport, whole := b }] } }) ∧
        (1024 ≤ s.bin.intakeQ.length → s.rxConsume p f b = ((s.count (Reg.BIN_CNT_LO 0)).count (Reg.BIN_CNT_LO 2)).event Reg.BIN_EVT 6)) ∧
      ((∀ u, udpOf b = some u → s.listenerOf p u = none) →
        (s.bit Reg.HIF_CTRL 4 = true → s.rxConsume p f b = s.deliver ⟨s.fld Reg.HIF_CTRL 8 4, 0, b, p, [], at_, 0⟩) ∧
        (s.bit Reg.HIF_CTRL 4 = false → s.rxConsume p f b = (s.count (Reg.HIF_CNT_LO 5)).event Reg.HIF_EVT 4))) ∧
    (∀ t stamp : Nat,
      (counted.bit (Reg.MAC_PAUSE p) 0 = false → s.pauseRx p t stamp = counted) ∧
      (counted.bit (Reg.MAC_PAUSE p) 0 = true → t ≠ 0 → s.pauseRx p t stamp = counted.modPort p fun x => { x with pausedUntil := some (stamp + quanta p t) }) ∧
      (counted.bit (Reg.MAC_PAUSE p) 0 = true → s.pauseRx p 0 stamp = (counted.modPort p fun x => { x with pausedUntil := none }).txStart p)) ∧
    ((s.port p).pausedUntil = none → Answers (.pauseExpiry p) s s) ∧
    (∀ t, (s.port p).pausedUntil = some t → p < s.mac.port.length →
      ∃ u, exec (.pauseExpiry p) s = .next u ∧ (u.port p).pausedUntil = none ∧ u.dt = max s.dt t)

/-- Offered frames are queued, dropped or, as alarms, always taken; the wire takes the next by priority. An offered PTP, OUT or
HOST frame outside PRP: on a port that is not UP or with TX_EN 0 it is counted in TX_LINK_DROP; longer than L, or beyond its
class's allowance or the free shared space, it is counted against its class; otherwise it is put at the end of its queue. An
ALARM frame of at most L on an UP port is always in the port afterwards. On an UP port with TX_EN 1, nothing on the wire and
no pause running the next frame is the oldest alarm frame, else PTP, OUT, HOST. With no offer nothing changes; so with a
frame done on an idle port; a frame done is counted with its length and leaves the wire free or takes the next frame; with LOOPBACK it comes in by its own port's
receive path and leaves by no pin. -/
def Obligations.TransmitQueuesServe : Prop :=
  ∀ s : State,
    (s.mac.offers = [] → Answers .txEnqueue s s) ∧
    (s.mac.alarmOffers = [] → Answers .alarmEnqueue s s) ∧
    (∀ p f rest, s.mac.offers = (p, f) :: rest → f.job = none → (f.cls = .ptp ∨ s.prpOf p = none) →
      Answers .txEnqueue s (({ s with mac := { s.mac with offers := rest } } : State).txCopy p none f)) ∧
    (∀ (p : Nat) (f : TxFrame) (d : PtpTx), f.body = .ptp d → f.cls ≠ .alarm → 64 ≤ f.len →
      (((s.port p).link ≠ .up ∨ s.macCtrl p 1 = false) → s.txCopy p none f = s.txDrop p 22 f) ∧
      ((s.port p).link = .up → s.macCtrl p 1 = true →
        (s.maxLen p false < f.len → s.txCopy p none f = s.txDrop p (dropCounter f.cls) f) ∧
        (f.len ≤ s.maxLen p false →
          ((s.port p).bytesOf f.cls + f.len ≤ s.allowance p f.cls → f.len ≤ s.freeShared p → s.txCopy p none f = s.txPut p f) ∧
          ((s.allowance p f.cls < (s.port p).bytesOf f.cls + f.len ∨ s.freeShared p < f.len) →
            s.txCopy p none f = s.txDrop p (dropCounter f.cls) f)))) ∧
    (∀ p f rest b, s.mac.alarmOffers = (p, f) :: rest → f.cls = .alarm → f.body = .raw b → s.prpOf p = none → p < s.mac.port.length →
      (s.port p).link = .up → s.macCtrl p 1 = true →
      (wireBody none b).length + 4 ≤ s.maxLen p (beAt b 12 2 == 0x8100) →
      ∃ t, exec .alarmEnqueue s = .next t ∧ ∃ g ∈ (t.port p).frames, g.cls = .alarm ∧ g.body = .raw (wireBody none b)) ∧
    (∀ p, (s.port p).wire = none → (s.port p).link = .up → s.macCtrl p 1 = true → (s.port p).pausedUntil = none → p < s.mac.port.length →
      ((s.txStart p).port p).wire = ((s.port p).qAlarm ++ (s.port p).qPtp ++ (s.port p).qOut ++ (s.port p).qHost).head?.map (s.frameBegun p)) ∧
    (∀ p, (s.port p).wire = none → Answers (.txFrameDone p) s s) ∧
    (∀ p f, (s.port p).wire = some f → f.job = none →
      let s2 := ((s.modPort p fun x => { x with wire := none }).macCountBy p 14 1).macCountBy p 15 f.len
      let s3 := if f.cls = .alarm then s2.macCountBy p 16 1 else s2
      (s.macCtrl p 3 = false → Answers (.txFrameDone p) s ((s3.emit (.frame p f.body.bytes f.len)).txStart p)) ∧
      (s.macCtrl p 3 = true → Answers (.txFrameDone p) s ((s3.loopFrame p f).txStart p)))

/-- Intake takes the first frame of its queue through the checks of R121. With the queue empty nothing changes. Otherwise the
frame leaves the queue. A port frame is matched with the listeners as they stand now, the lowest that fits taking it; one that none
takes any more goes to the host (the model's choice of log entry 133). An injected frame has the listener its manifest names. Then, in
order: no quay grid, a wrong UDP checksum of a port frame, no C37.118 frame, a wrong size, a
wrong CRC, another type than data (a port frame goes to the injection ring pair), a wrong version and an unknown key are each
counted once, and the INJECT manifest of an injected frame completes DONE with the code. A block with no target instant is
counted in OFFGRID_DROP; one with a target is appended to the alignment input queue with its berth, its instant, the
frame's arrival and the DT of the hand-off, and is counted in WRITTEN and BLOCKS_OUT. -/
def Obligations.IntakeFramesInOrder : Prop :=
  ∀ s : State,
    (s.bin.intakeQ = [] → Answers .intakeFrame s s) ∧
    (∀ f, firstFrame s.bin.intakeQ = some f →
      let s1 := s.modBin fun b => { b with intakeQ := b.intakeQ.erase f }
      (f.mid = none → s1.listenerNow f = (List.range 16).find? fun l =>
        s1.bit (Reg.BIN_LSN_CFG l) 31 && s1.reg (Reg.BIN_LSN_ADDR l) == f.dstIp && s1.fld (Reg.BIN_LSN_CFG l) 0 16 == f.dstPort &&
          s1.bit (Reg.BIN_LSN_CFG l) (16 + f.origin)) ∧
      (f.mid ≠ none → s1.listenerNow f = some f.listener) ∧
      (s1.listenerNow f = none →
        (s1.bit Reg.HIF_CTRL 4 = true →
          Answers .intakeFrame s (s1.deliver ⟨s1.fld Reg.HIF_CTRL 8 4, 0, f.whole, f.origin, [], f.arrival, 0⟩)) ∧
        (s1.bit Reg.HIF_CTRL 4 = false → Answers .intakeFrame s ((s1.count (Reg.HIF_CNT_LO 5)).event Reg.HIF_EVT 4))) ∧
      ∀ l, s1.listenerNow f = some l →
      let b := f.payload
      let typ := bitsOf (byteAt b 1) 4 3
      let ends (u : State) (code : Nat) : Prop := Answers .intakeFrame s (u.finishOpt f.mid stDone code [])
      let shape := 16 ≤ b.length ∧ byteAt b 0 = 0xAA ∧ typ < 6
      let sized := beAt b 2 2 = b.length ∧ 16 ≤ beAt b 2 2 ∧ beAt b 2 2 ≤ 8192
      let crcOk := crcCcitt (b.take (b.length - 2)) = beAt b (b.length - 2) 2
      let idcode := beAt b 4 2
      let tai := s1.socTai (beAt b 6 4) f.arrival (bitOf (beAt b 10 4) 29)
      (s.tb.grid.rate = 0 → ends (s1.count (Reg.BIN_CNT_LO 3)) 3) ∧
      (s.tb.grid.rate ≠ 0 →
        (f.mid = none → f.csumOk = false → ends (s1.count (Reg.BIN_CNT_LO 4)) 4) ∧
        ((f.mid ≠ none ∨ f.csumOk = true) →
          (¬ shape → ends (s1.count (Reg.BIN_CNT_LO 5)) 5) ∧
          (shape → ¬ sized → ends (s1.count (Reg.BIN_CNT_LO 6)) 6) ∧
          (shape → sized → ¬ crcOk → ends (s1.count (Reg.BIN_CNT_LO 7)) 7) ∧
          (shape → sized → crcOk → typ ≠ 0 →
            (f.mid = none → ends ((s1.count (Reg.BIN_CNT_LO 8)).deliver ⟨(s1.count (Reg.BIN_CNT_LO 8)).fld Reg.BIN_CTRL 2 4, 1, b, l + 2 ^ 8 * f.origin, leBytes 4 f.srcIp.toNat ++ leBytes 2 f.srcPort, f.arrival, 0⟩) 8) ∧
            (f.mid ≠ none → ends (s1.count (Reg.BIN_CNT_LO 8)) 8)) ∧
          (shape → sized → crcOk → typ = 0 →
            (bitsOf (byteAt b 1) 0 4 ≠ 1 → bitsOf (byteAt b 1) 0 4 ≠ 2 → ends (s1.count (Reg.BIN_CNT_LO 15)) 15) ∧
            ((bitsOf (byteAt b 1) 0 4 = 1 ∨ bitsOf (byteAt b 1) 0 4 = 2) →
              (s1.resolve tai (bitsOf (beAt b 10 4) 0 24) f.srcIp.toNat l idcode = none →
                ends (s1.unknownKey f.srcIp l idcode) 10)))))) ∧
    (∀ (f : InFrame) (bank : Bank) (n : Nat) (b : List Byte) (t mtq : Nat),
      (s.blockTarget t (berthRate (bank.berth n).rateCode) = none → s.blockTake f bank n b t mtq = s.berthCnt n 2) ∧
      (∀ sec k decim off, s.blockTarget t (berthRate (bank.berth n).rateCode) = some (sec, k, decim, off) →
        ∃ d, (s.blockTake f bank n b t mtq).aln.input = s.aln.input ++ [d] ∧ d.berth = n ∧ d.sec = sec ∧ d.k = k ∧
          d.arrival = f.arrival ∧ d.rate = s.rateAhead sec ∧ d.handedAt = s.dt))

/-- Copying, validating and applying the berth directory, and what its read registers give. COPY or APPLY while an update is
under way sets WIN_BUSY, and for APPLY ERR becomes BUSY; both at once start neither. COPY starts the copy, whose end makes
STAGE equal to LIVE; APPLY starts validation. Validation that finds a fault clears VALIDATING, records ERR and the entry,
sets DIR_ERR and leaves both banks; one that finds none sets PENDING and fixes E. When DT reaches E the banks change places,
OLD_HELD and DIR_APPLIED are set and BIN_DIR_GEN counts. A read of BIN_CFGCHG_FIFO pops its front; a read of BIN_UNK_KEY
returns it and clears VALID. -/
def Obligations.DirectoryUpdates : Prop :=
  ∀ (v : Word) (s : State),
    let busy := s.dirBusy = true
    (s.Reaches Reg.BIN_DIR_CTRL v →
      (v.getLsbD 31 = true → v.getLsbD 30 = true →
        Answers (.dirCopy v) s (s.event Reg.BIN_EVT 4) ∧ Answers (.dirApply v) s (s.event Reg.BIN_EVT 4)) ∧
      (v.getLsbD 31 = false → v.getLsbD 30 = true →
        (busy → Answers (.dirCopy v) s (s.event Reg.BIN_EVT 4)) ∧
        (¬ busy → Answers (.dirCopy v) s (s.modBin fun b => { b with copying := true }))) ∧
      (v.getLsbD 31 = true → v.getLsbD 30 = false →
        (busy → Answers (.dirApply v) s ((s.modBin fun b => { b with dirErr := 1 }).event Reg.BIN_EVT 4)) ∧
        (¬ busy → Answers (.dirApply v) s (s.modBin fun b => { b with validating := true })))) ∧
    (v.getLsbD 30 = false → Answers (.dirCopy v) s s) ∧
    (v.getLsbD 31 = false → Answers (.dirApply v) s s) ∧
    (s.bin.copying = true → ∃ t, exec .dirCopyDone s = .next t ∧ t.bin = { s.bin with copying := false, other := s.bin.live }) ∧
    (s.bin.copying = false → Answers .dirCopyDone s s) ∧
    (s.bin.validating = false → Answers .dirValidationDone s s) ∧
    (s.bin.validating = true → ∀ err ix tab, s.bin.other.fault s.berthCount = some (err, ix, tab) →
      ∃ u, Answers .dirValidationDone s u ∧ u.bin = { s.bin with validating := false, dirErr := err } ∧
        u.reg Reg.BIN_DIR_ERR_IDX = BitVec.ofNat 32 (ix + 2 ^ 16 * tab) ∧ (u.reg Reg.BIN_EVT).getLsbD 1 = true) ∧
    (s.bin.validating = true → s.bin.other.fault s.berthCount = none →
      ∃ u, Answers .dirValidationDone s u ∧ u.bin.pending = true ∧ u.bin.validating = false ∧ u.bin.dirErr = 0 ∧
        u.bin.eff = some s.dirInstant.2.2 ∧ u.bin.live = s.bin.live ∧ u.bin.other = s.bin.other ∧
        u.reg Reg.BIN_DIR_EFF_K = BitVec.ofNat 32 s.dirInstant.2.1) ∧
    (∀ e t, s.bin.eff = some e → s.bin.pending = true → e ≤ t → (s.dirApplyAt t).bin.live = s.bin.other ∧
      (s.dirApplyAt t).bin.pending = false ∧ (s.dirApplyAt t).reg Reg.BIN_DIR_GEN = s.reg Reg.BIN_DIR_GEN + 1 ∧
      ((s.dirApplyAt t).reg Reg.BIN_EVT).getLsbD 0 = true) ∧
    (s.Readable Reg.BIN_CFGCHG_FIFO →
      (s.bin.fifo = [] → Answers .cfgchgFifoRead s { s with rdata := 0 }) ∧
      (∀ b rest, s.bin.fifo = b :: rest → ∃ t, exec .cfgchgFifoRead s = .next t ∧ t.rdata = BitVec.ofNat 32 (2 ^ 31 + b) ∧ t.bin.fifo = rest)) ∧
    (s.Readable Reg.BIN_UNK_KEY → ∃ u, Answers .unkKeyRead s u ∧ u.rdata = s.reg Reg.BIN_UNK_KEY ∧
      (u.reg Reg.BIN_UNK_KEY).getLsbD 31 = false)

/-- The quay ring, the enable of alignment and the probe of a quay. A write of ALN_RING_BASE_HI while alignment is disabled and
no quay is unsealed sets the base; a base that fits sets RING_SET and empties the ring's quays, one that does not clears
RING_SET and sets the ring error event; at any other time it is ignored. EN written 1 without a ring leaves EN 0 and sets
that event; with a ring, or written 0, ALN_CTRL takes the write. A write of ALN_PROBE_SEQ_HI shows VALID with the state and
place of the quay of that number, or VALID alone. -/
def Obligations.RingProbeAndEnable : Prop :=
  ∀ (v : Word) (s : State),
    let base := ((mapFind s.hold Reg.ALN_RING_BASE_LO).getD (s.reg Reg.ALN_RING_BASE_LO)).toNat + 2 ^ 32 * v.toNat
    let seq := ((mapFind s.hold Reg.ALN_PROBE_SEQ_LO).getD (s.reg Reg.ALN_PROBE_SEQ_LO)).toNat + 2 ^ 32 * v.toNat
    (s.Reaches Reg.ALN_RING_BASE_HI v →
      (s.ringOpen = false → Answers (.alnRingBaseWrite v) s s) ∧
      (s.ringOpen = true → s.dramFits base (512 * quayBytes) = true →
        ∃ u, Answers (.alnRingBaseWrite v) s u ∧ u.aln.ringSet = true ∧ u.aln.quays = [] ∧ u.reg64 Reg.ALN_RING_BASE_LO = base) ∧
      (s.ringOpen = true → s.dramFits base (512 * quayBytes) = false →
        ∃ u, Answers (.alnRingBaseWrite v) s u ∧ u.aln.ringSet = false ∧ u.aln.quays = s.aln.quays ∧ (u.reg Reg.ALN_EVT).getLsbD 8 = true)) ∧
    (s.Reaches Reg.ALN_CTRL v →
      (v.getLsbD 0 = true → v.getLsbD 1 = false → s.aln.ringSet = false →
        ∃ u, Answers (.alnEnWrite v) s u ∧ (u.reg Reg.ALN_CTRL).getLsbD 0 = false ∧ (u.reg Reg.ALN_EVT).getLsbD 8 = true) ∧
      ((v.getLsbD 0 = false ∨ s.aln.ringSet = true) → v.getLsbD 1 = false →
        Answers (.alnEnWrite v) s (s.writeReg Reg.ALN_CTRL v).alnNote)) ∧
    (s.Reaches Reg.ALN_PROBE_SEQ_HI v →
      (∀ q, s.quay? seq = some q → ∃ u, Answers (.alnProbe v) s u ∧ u.reg64 Reg.ALN_PROBE_SEQ_LO = seq ∧
        u.reg Reg.ALN_PROBE_RES = BitVec.ofNat 32 (2 ^ 31 + (q.state.code + 8 * b2n q.spilled + 16 * b2n q.settleDone +
          2 ^ 8 * (q.slot.getD 0) + 2 ^ 16 * (seq % 512)))) ∧
      (s.quay? seq = none → ∃ u, Answers (.alnProbe v) s u ∧ u.reg Reg.ALN_PROBE_RES = BitVec.ofNat 32 (2 ^ 31)))

/-- What a block from an input queue does. With no block waiting, or with no alignment engine left for the oldest one's berth, nothing
changes. The block leaves the queue. With no quay of its instant and alignment not ready it is counted in DISABLED_DROP; too far ahead
of the reference at its hand-off, in AHEAD_DROP; one for an instant that alignment has passed, or off the grid of its rate, is
rejected as late; a quay that is sealed or past its seal instant rejects it as late; a fresh value that stands, or an OFFGRID value
measured later, makes it a DUPLICATE of the quay and the berth; an open quay takes it and its hold spreads; a settled one takes it
as a late block. The berth b mod n names the engine, n the alignment engines in service (an empty list names none). -/
def Obligations.BlocksMeetQuays : Prop :=
  ∀ s : State,
    (s.aln.input = [] → Answers .alnBlockWrite s s) ∧
    (∀ b, s.alnEngineOf b = if s.alnEngines = [] then none else s.alnEngines[b % s.alnEngines.length]?) ∧
    (∀ d rest, s.aln.input = d :: rest → s.alnEngineOf d.berth = none → Answers .alnBlockWrite s s) ∧
    (∀ d rest, s.aln.input = d :: rest → (s.alnEngineOf d.berth).isSome →
      let s1 := s.modAln fun a => { a with input := rest }
      let t := instantAt d.rate d.sec d.k
      let ahead := s1.tooFarAhead t d.rate d.handedAt
      (s1.quayAt t = none → s1.alnReady = false → Answers .alnBlockWrite s (s1.count (Reg.ALN_CNT_LO 5))) ∧
      (s1.quayAt t = none → s1.alnReady = true → ahead = true →
        Answers .alnBlockWrite s ((s1.count (Reg.ALN_CNT_LO 4)).event Reg.ALN_EVT 6)) ∧
      (s1.quayAt t = none → s1.alnReady = true → ahead = false →
        (s1.newerThanAll t = false ∨ s1.eventPast t = true ∨ s1.rateAhead d.sec ≠ d.rate) →
        Answers .alnBlockWrite s (s1.lateReject d.berth)) ∧
      (∀ q, s1.quayAt t = some q → ahead = true →
        Answers .alnBlockWrite s ((s1.count (Reg.ALN_CNT_LO 4)).event Reg.ALN_EVT 6)) ∧
      (∀ q, s1.quayAt t = some q → ahead = false →
        let dup : Bool := match q.entry d.berth with
          | some e => e.kind (s1.holdReach q d.berth) == .fresh ||
              (d.entry.offgrid && e.kind (s1.holdReach q d.berth) == .offgrid && decide (d.entry.measured < e.measured))
          | none => false
        let s2 := if !q.isOpen && decide (d.arrival ≤ q.close) then s1.guardMissNote q else s1
        ((q.state = .sealed ∨ q.sealing = true) → Answers .alnBlockWrite s (s1.lateReject d.berth)) ∧
        (q.state ≠ .sealed → q.sealing = false →
          (dup = true → Answers .alnBlockWrite s ((s2.berthCnt d.berth 3).modQuay q.seq fun x => { x with duplicate := x.duplicate + 1 })) ∧
          (dup = false → q.isOpen = true → Answers .alnBlockWrite s ((s1.quayWrite q.seq d.berth d.entry false).spreadHold q d.berth d.entry)) ∧
          (dup = false → q.isOpen = false → Answers .alnBlockWrite s (s2.lateWrite q d.berth d.entry)))))

/-- A quay settles, spills and is sealed, and its seal writes its own ring slot alone. The quay due next settles, SETTLE_START the
later of DT and its close instant plus 20 µs. The oldest quay whose spill copy runs is SPILLED and gives up its slot and its tug.
The oldest unsealed quay, when its seal instant has come and it is in DRAM, or its copy runs or has failed twice, becomes SEALED with
SEALED_AT now, ALN_SEALED_SEQ its number and SEALED set, SEAL_ERR when its copy has failed, and no byte of DRAM outside its ring
slot changes; the seals of the quays next in order whose copy has failed twice follow at once. A transfer error of a running copy is counted and reported; the first time the transfer is tried again; the second time
the copy is given up, its tug goes back, and the quay is sealed with SEAL_ERR when its seal comes, no earlier quay being unsealed. Without a quay for it each command
changes nothing. -/
def Obligations.QuaysSettleSpillAndSeal : Prop :=
  ∀ s : State,
    (s.settleNext = none → Answers .quaySettle s s) ∧
    (∀ q, s.settleNext = some q → ∃ t x, exec .quaySettle s = .next t ∧ t.quay? q.seq = some x ∧ x.state = .settled ∧
      x.settleStart = max s.dt (q.close + 20 * subPerUs)) ∧
    (s.aln.quays.find? (fun q => q.spilling && q.copy.isSome) = none → Answers .quaySpillDone s s) ∧
    (∀ q, s.aln.quays.find? (fun q => q.spilling && q.copy.isSome) = some q → ∃ u x, Answers .quaySpillDone s u ∧ u.quay? q.seq = some x ∧
      x.spilled = true ∧ x.slot = none ∧ x.copy = none ∧
      ∀ a, a < s.quaySlotAt q.seq ∨ s.quaySlotAt q.seq + quayBytes ≤ a → u.dramByte a = s.dramByte a) ∧
    (s.unsealed.head? = none → Answers .quaySealDone s s) ∧
    (∀ q, s.unsealed.head? = some q →
      ((q.sealing = false ∨ q.spilling = true ∨ (q.copy = none ∧ q.slot ≠ none ∧ q.failed = false)) → Answers .quaySealDone s s) ∧
      (q.sealing = true → q.spilling = false → (q.copy ≠ none ∨ q.slot = none ∨ q.failed = true) → q.seq < 2 ^ 64 →
        let u := s.sealDone q
        Answers .quaySealDone s (u.sealFailed (s.unsealed.drop 1)) ∧
        ((∀ x, (s.unsealed.drop 1).head? = some x → x.sealing = false ∨ x.failed = false) → u.sealFailed (s.unsealed.drop 1) = u) ∧
        (∃ x, u.quay? q.seq = some x ∧ x.state = .sealed ∧ x.sealErr = x.failed ∧ x.sealedAt = s.dt) ∧
        u.reg64 Reg.ALN_SEALED_SEQ_LO = q.seq ∧ (u.reg Reg.ALN_EVT).getLsbD 2 = true ∧
        ∀ a, a < s.quaySlotAt q.seq ∨ s.quaySlotAt q.seq + quayBytes ≤ a → u.dramByte a = s.dramByte a)) ∧
    (∀ (q : Quay) (qs : List Quay) (u : State),
      u.sealFailed (q :: qs) = if q.sealing = true ∧ q.failed = true then (u.sealDone q).sealFailed qs else u) ∧
    (∀ seq, s.quay? seq = none → Answers (.tugTransferError seq) s s) ∧
    (∀ seq q, s.quay? seq = some q →
      let s1 := ((s.count (Reg.ALN_CNT_LO 8)).event Reg.ALN_EVT 7).unitFault 4
      (q.copy = none → Answers (.tugTransferError seq) s s) ∧
      (∀ tug, q.copy = some tug →
        (q.retried = false → Answers (.tugTransferError seq) s (s1.modQuay seq fun x => { x with retried := true })) ∧
        (q.retried = true →
          let s2 := (s1.modQuay seq fun x => { x with failed := true, spilling := false, copy := none }).leaseReturn 2 tug
          Answers (.tugTransferError seq) s (s2.sealFailed s2.unsealed)))) ∧
    (s.tb.grid.rate ≠ 0 → Answers .sealInstantWithoutGrid s s) ∧
    (∀ q, s.tb.grid.rate = 0 → s.aln.quays.find? (fun q => q.settleDone && q.state == .settled && !q.sealing) = some q →
      ∃ u x, Answers .sealInstantWithoutGrid s u ∧ u.quay? q.seq = some x ∧ x.sealing = true ∧ s.dt ≤ u.dt ∧ q.sealMoment ≤ u.dt)

/-- Enable, evaluations, settlement, fold and extraction of the oscillation unit. EN written 1 while 0 with a good ring empties the
record list and restarts OSC_RING_WR; with a bad one EN stays 0 and RING_ERR is set; EN written 0 while 1 withdraws the unit's tasks
that have not started. A provisional evaluation, by the task that runs, of a group on the quay it is due on adds one evaluation of
that quay and group and changes nothing that any group has committed (only the DEC_ID counter and the engine). A settlement takes the
due item and drops the provisional evaluation; one that needs an evaluation waits for its task to run, while that task is wanted or
held. A fold, by the task that runs and once no started task reads the copy it would write, takes its due item and makes the quay the
group's BASE_SEQ; other groups are untouched. An extraction, by the task that runs, that fails keeps the mode list and sets
EXTRACT_FAIL; one that succeeds clears the flag. Where nothing is due, or no task runs for it, nothing changes. The DEC_ID of the i-th
of the decisions that a group issues together holds the group above bit 24 and, below, the group's counter advanced i times and
wrapped at 2^24; no other state of any group changes. (That the counter is below 2^24 is an invariant: it starts at 0 and is reduced
at each advance.) -/
def Obligations.OscillationUnitRuns : Prop :=
  ∀ (v : Word) (g : Nat) (s : State),
    let core (x : OscGroup) : OscGroup := { x with decCounter := 0, me := 0 }
    let ringOk : Bool := s.dramFits (s.reg64 Reg.OSC_RING_BASE_LO) (2 ^ (s.fld Reg.OSC_RING_SIZE 0 5) * 64) &&
      decide (16 ≤ s.fld Reg.OSC_RING_SIZE 0 5) && decide (s.fld Reg.OSC_RING_SIZE 0 5 ≤ 24)
    (s.Reaches Reg.OSC_CTRL v → v.getLsbD 1 = false →
      ((v.getLsbD 0 = true ↔ s.oscEn = true) → Answers (.oscEnWrite v) s (s.writeReg Reg.OSC_CTRL v)) ∧
      (v.getLsbD 0 = false → s.oscEn = true → Answers (.oscEnWrite v) s (s.writeReg Reg.OSC_CTRL v).oscStop) ∧
      (v.getLsbD 0 = true → s.oscEn = false → ringOk = true → ∃ u, Answers (.oscEnWrite v) s u ∧ u.oscEn = true ∧
        u.reg64 Reg.OSC_RING_WR_LO = 0 ∧ u.osc.records = []) ∧
      (v.getLsbD 0 = true → s.oscEn = false → ringOk = false → ∃ u, Answers (.oscEnWrite v) s u ∧ u.oscEn = false ∧
        (u.reg Reg.OSC_EVT).getLsbD 4 = true)) ∧
    (s.oscProvNext g = none → Answers (.oscProvEval g) s s) ∧
    (∀ task q, s.oscProvNext g = some (task, q) → ∃ u e, Answers (.oscProvEval g) s u ∧ u.osc.prov = s.osc.prov ++ [e] ∧
      e.seq = q.seq ∧ e.group = g ∧ ∀ h, core (u.oscGroup h) = core (s.oscGroup h)) ∧
    (s.osc.settleDue.find? (fun x => x.2 == g) = none → Answers (.oscSettleEval g) s s) ∧
    (∀ seq n q, s.osc.settleDue.find? (fun x => x.2 == g) = some (seq, n) → s.quay? seq = some q →
      (needsTask ((q.detOf 0).routed.getD 3) = false ∨ s.taskStands 37 2 g (seq % 2 ^ 32) = false ∨
        ∃ task, s.workTask 37 2 g = some task ∧ task.2.quayTag = seq % 2 ^ 32) →
      ∃ u, Answers (.oscSettleEval g) s u ∧ u.osc.settleDue = s.osc.settleDue.erase (seq, g) ∧
        u.osc.prov = s.osc.prov.filter fun (e : OscEval) => !(e.seq == seq && e.group == g)) ∧
    (∀ seq n q, s.osc.settleDue.filter (fun x => x.2 == g) = [(seq, n)] → s.quay? seq = some q →
      needsTask ((q.detOf 0).routed.getD 3) = true → s.taskStands 37 2 g (seq % 2 ^ 32) = true →
      (∀ task, s.workTask 37 2 g = some task → task.2.quayTag ≠ seq % 2 ^ 32) → Answers (.oscSettleEval g) s s) ∧
    (s.workTask 37 3 g = none → Answers (.oscFold g) s s) ∧
    (∀ task, s.workTask 37 3 g = some task →
      let due := s.osc.foldDue.find? fun x => x.2 == g && x.1 % 2 ^ 32 == task.2.quayTag
      ((due = none ∨ s.oscFoldWaits g = true) → Answers (.oscFold g) s s) ∧
      (∀ seq n q, due = some (seq, n) → s.oscFoldWaits g = false → s.quay? seq = some q → ∃ u, Answers (.oscFold g) s u ∧
        u.osc.foldDue = s.osc.foldDue.erase (seq, g) ∧ (u.oscGroup g).baseSeq = seq ∧ (u.oscGroup g).started = true ∧
        ∀ h, h ≠ g → core (u.oscGroup h) = core (s.oscGroup h))) ∧
    ((s.workTask 37 4 g = none ∨ s.osc.extractDue.contains g = false) → Answers (.oscExtract g) s s) ∧
    (∀ task, s.workTask 37 4 g = some task → s.osc.extractDue.contains g = true →
      ∃ u, Answers (.oscExtract g) s u ∧ u.osc.extractDue = s.osc.extractDue.erase g ∧
        ((s.oscGroup g).eigen (s.oscFoldSet g).1 g = none → (u.oscGroup g).extractFail = true ∧
          (u.oscGroup g).modes = (s.oscGroup g).modes ∧ (u.reg Reg.OSC_EVT).getLsbD 2 = true) ∧
        (∀ raw, (s.oscGroup g).eigen (s.oscFoldSet g).1 g = some raw → (u.oscGroup g).extractFail = false)) ∧
    (∀ l : List OscDec,
      ((s.oscGroup g).decCounter < 2 ^ 24 → (s.oscNumber g l).2.map OscDec.decId =
        (List.range l.length).map fun i => g * 2 ^ 24 + ((s.oscGroup g).decCounter + i) % 2 ^ 24) ∧
      (∀ h, { (s.oscNumber g l).1.oscGroup h with decCounter := 0, me := 0 } = { s.oscGroup h with decCounter := 0, me := 0 }) ∧
      (s.oscNumber g l).1.osc.prov = s.osc.prov)

/-- Enable, provisional evaluation, settlement and fold of the islanding unit. EN written 1 while 0 with good rings restarts both
write positions with the unit enabled; with a bad one EN stays 0 and RING_ERR is set; EN written 0 while 1 withdraws the unit's tasks
that have not started. A provisional evaluation, by the task that runs, adds one evaluation of the quay it is due on and leaves the
committed state as it is. A settlement drops the quay's provisional evaluation, leaves the committed state and, with the unit enabled,
makes the quay's fold due; one that needs an evaluation waits for its task to run, while that task is wanted or held. The fold, by the
task that runs and once no started task reads the copy it would write, commits: the quay is BASE_SEQ, shown in ISL_BASE_SEQ. Where
nothing is due, or no task runs for it, nothing changes. A write of ISL_NODE_SEL or
ISL_BR_SEL shows DONE and what the committed state holds of the node or branch: for a node, the ID of the listed component it
lies in (0xFFFF where it lies in none or EN is 0), ENERGISED and MEAS_OBS; for a branch, its effective and current status,
KNOWN, CONFLICT and RAW_UNKNOWN. That a branch the committed state does not hold shows current status none (code 2) and every
other field 0 is the model's reading (log entry 112). A probe changes nothing of the unit's state. -/
def Obligations.IslandingUnitRuns : Prop :=
  ∀ (v : Word) (s : State),
    let log := s.fld Reg.ISL_RING_SIZE 0 5
    let mlog := s.fld Reg.ISL_MEMB_SIZE 0 5
    let n := bitsOf v.toNat 0 16
    let ringsOk : Bool := s.dramFits (s.reg64 Reg.ISL_RING_BASE_LO) (2 ^ log * 64) && s.dramFits (s.reg64 Reg.ISL_MEMB_BASE_LO) (2 ^ mlog) &&
      decide (16 ≤ log) && decide (log ≤ 24) && decide (20 ≤ mlog) && decide (mlog ≤ 30)
    (s.Reaches Reg.ISL_CTRL v → v.getLsbD 1 = false →
      ((v.getLsbD 0 = true ↔ s.islEn = true) → Answers (.islEnWrite v) s (s.writeReg Reg.ISL_CTRL v)) ∧
      (v.getLsbD 0 = false → s.islEn = true → Answers (.islEnWrite v) s (s.writeReg Reg.ISL_CTRL v).islStop) ∧
      (v.getLsbD 0 = true → s.islEn = false → ringsOk = true → ∃ u, Answers (.islEnWrite v) s u ∧ u.islEn = true ∧
        u.reg64 Reg.ISL_RING_WR_LO = 0 ∧ u.reg64 Reg.ISL_MEMB_WR_LO = 0 ∧ u.isl.records = [] ∧ u.isl.com = s.isl.com) ∧
      (v.getLsbD 0 = true → s.islEn = false → ringsOk = false → ∃ u, Answers (.islEnWrite v) s u ∧ u.islEn = false ∧
        (u.reg Reg.ISL_EVT).getLsbD 4 = true ∧ u.isl = s.isl)) ∧
    (s.islProvNext = none → Answers .islProvEval s s) ∧
    (∀ task q, s.islProvNext = some (task, q) → ∃ u p, Answers .islProvEval s u ∧ u.isl.prov = s.isl.prov ++ [p] ∧ p.seq = q.seq ∧
      u.isl.com = s.isl.com) ∧
    (s.isl.settleDue = [] → Answers .islSettleEval s s) ∧
    (∀ seq rest q, s.isl.settleDue = seq :: rest → s.quay? seq = some q →
      let free : Prop := needsTask ((q.detOf 1).routed.getD 3) = false ∨ s.taskStands 38 2 0 (seq % 2 ^ 32) = false ∨
        ∃ task, s.workTask 38 2 0 = some task ∧ task.2.quayTag = seq % 2 ^ 32
      (free → ∃ u, Answers .islSettleEval s u ∧ u.isl.settleDue = rest ∧
        u.isl.foldDue = (if s.islEn then s.isl.foldDue ++ [seq] else s.isl.foldDue) ∧ u.isl.com = s.isl.com ∧
        u.isl.prov = s.isl.prov.filter fun (e : IslProv) => e.seq != seq) ∧
      (¬ free → Answers .islSettleEval s s)) ∧
    ((s.isl.foldDue = [] ∨ s.workTask 38 3 0 = none) → Answers .islFold s s) ∧
    (∀ seq rest task, s.isl.foldDue = seq :: rest → s.workTask 38 3 0 = some task →
      ((task.2.quayTag ≠ seq % 2 ^ 32 ∨ s.islFoldWaits = true) → Answers .islFold s s) ∧
      (∀ q, task.2.quayTag = seq % 2 ^ 32 → s.islFoldWaits = false → s.quay? seq = some q → seq < 2 ^ 64 →
        ∃ u, Answers .islFold s u ∧ u.isl.foldDue = rest ∧ u.isl.com.baseSeq = seq ∧ u.isl.com.started = true ∧
          u.reg64 Reg.ISL_BASE_SEQ_LO = seq)) ∧
    (s.Reaches Reg.ISL_NODE_SEL v →
      (∀ x, s.islEn = true → s.isl.com.listed.find? (fun x => x.nodes.contains n) = some x →
        ∃ u, Answers (.islNodeProbe v) s u ∧ u.isl = s.isl ∧ u.reg Reg.ISL_NODE_RES = BitVec.ofNat 32
          (2 ^ 31 + x.id + 2 ^ 16 * b2n (s.isl.com.live.contains n) + 2 ^ 17 * b2n (s.isl.com.observed.contains n))) ∧
      ((s.islEn = false ∨ ∀ x ∈ s.isl.com.listed, x.nodes.contains n = false) →
        ∃ u, Answers (.islNodeProbe v) s u ∧ u.isl = s.isl ∧ u.reg Reg.ISL_NODE_RES = BitVec.ofNat 32
          (2 ^ 31 + 0xFFFF + 2 ^ 16 * b2n (s.isl.com.live.contains n) + 2 ^ 17 * b2n (s.isl.com.observed.contains n)))) ∧
    (s.Reaches Reg.ISL_BR_SEL v →
      (∀ b, mapFind s.isl.com.branches (bitsOf v.toNat 0 17) = some b →
        ∃ u, Answers (.islBranchProbe v) s u ∧ u.isl = s.isl ∧ u.reg Reg.ISL_BR_RES = BitVec.ofNat 32
          (2 ^ 31 + (b2n b.closed + 4 * b.cur + 16 * b2n b.known + 32 * b2n b.conflict + 64 * b2n b.rawUnknown))) ∧
      (mapFind s.isl.com.branches (bitsOf v.toNat 0 17) = none →
        ∃ u, Answers (.islBranchProbe v) s u ∧ u.isl = s.isl ∧ u.reg Reg.ISL_BR_RES = BitVec.ofNat 32 (2 ^ 31 + 8)))

/-- What the alarm unit does with the next input of the ALM channel. The front input is taken and counted. With EN 0 it is
discarded; on the standby it goes to the replay list. Otherwise an identity that a slot holds meets that slot: the slot moves
as R275 gives (a decision, but for a confirmed or settled ENDED, or raise for a slot that is not in PROV or CONF first raises it, GEN one higher, its class from the
rules), and no other slot moves; a RETRACTED decision the slot never received is UNROUTED. An identity in no slot creates one
only when it raises and a rule matches: the slot that is free takes it, or, when none is, the rule's overflow slot. -/
def Obligations.AlarmInputsMeetSlots : Prop :=
  ∀ s : State,
    (s.alm.input = [] → Answers .alarmInput s s) ∧
    (∀ i rest, s.alm.input = i :: rest →
      let s1 := (s.modAlm fun a => { a with input := rest }).count (Reg.ALM_CNT_LO 0)
      let j := if i.op = .raise then { i with sev := i.directSev } else i
      let raising : Bool := j.op == .raise || j.op == .provisional ||
        ((j.op == .confirmed || j.op == .settledNew) && !(j.src == 2 && j.event == 7))
      let moved (u : State) (n : Nat) (y : AlmSlot) : Prop :=
        { u.slot n with at_ := y.at_, changes := y.changes, moved := y.moved } = y ∧ ∀ k, k ≠ n → u.slot k = s.slot k
      (s.bit Reg.ALM_CTRL 0 = false → Answers .alarmInput s s1) ∧
      (s.bit Reg.ALM_CTRL 0 = true → s.isActive = false → Answers .alarmInput s (s1.almReplay i)) ∧
      (s.bit Reg.ALM_CTRL 0 = true → s.isActive = true → i.op ≠ .settle →
        (∀ n x, s1.slotOf j = some (n, x) →
          (i.op = .retracted → x.provIds.contains i.decId = false → Answers .alarmInput s s1.unrouted) ∧
          ((i.op = .retracted → x.provIds.contains i.decId = true) → (raising = false ∨ x.live = true) →
            ∃ u, Answers .alarmInput s u ∧ moved u n (x.apply j)) ∧
          (i.op ≠ .retracted → raising = true → x.live = false → ∀ r, s1.ruleOf j = some r →
            ∃ u, Answers .alarmInput s u ∧ moved u n ((s1.inClass x.raised r).apply j) ∧ (u.slot n).gen = (x.gen + 1) % 2 ^ 32)) ∧
        (s1.slotOf j = none →
          ((i.op = .retracted ∨ (s1.ruleOf j = none ∧ ¬(i.src = 3 ∧ i.kind = 4))) → Answers .alarmInput s s1.unrouted) ∧
          (i.op ≠ .retracted → s1.ruleOf j = none → i.src = 3 → i.kind = 4 → Answers .alarmInput s s1) ∧
          (∀ r, i.op ≠ .retracted → s1.ruleOf j = some r →
            (raising = false → Answers .alarmInput s s1) ∧
            (∀ n, raising = true → s1.slotFor = some n → ∃ u, Answers .alarmInput s u ∧
              moved u n ((s1.inClass { gen := (s.slot n).gen, src := j.src, sub := j.sub, kind := j.kind, key := j.key : AlmSlot }.raised r).apply j) ∧
              (u.slot n).gen = ((s.slot n).gen + 1) % 2 ^ 32) ∧
            (raising = true → s1.slotFor = none → Answers .alarmInput s (s1.almOverflow j r))))))

/-- The alarm states: what each input makes of a slot. PROVISIONAL: PROV_OPEN one more (to 255), SEV_P the severity, CONF stays
CONF, otherwise PROV. CONFIRMED, SETTLED_NEW (not ENDED) and a direct raise: CONF, SEV_S the severity, MISS 0, CLEAR_PEND 0,
and CONFIRMED takes one from PROV_OPEN. RETRACTED with no clear held: one from PROV_OPEN, then CONF, PROV or RETRACTED. A
clear of a slot in CONF with nothing open clears it, or sets CLEAR_PEND where the rule latches, the source is FLT or the slot
is an overflow slot; with decisions open it is held; in another state nothing happens. A settle notice of a quay on which the slot was
not raised or settled counts in MISS, and at CLEAR_N the clear condition holds. -/
def Obligations.AlarmStateTable : Prop :=
  ∀ (x : AlmSlot) (i : AlmInput),
    (i.op = .provisional → (x.apply i).provOpen = min (x.provOpen + 1) 255 ∧ (x.apply i).sevP = i.sev ∧
      (x.apply i).st = if x.st = .conf then .conf else .prov) ∧
    ((i.op = .confirmed ∨ i.op = .settledNew) → ¬(i.src = 2 ∧ i.event = 7) →
      (x.apply i).st = .conf ∧ (x.apply i).sevS = i.sev ∧ (x.apply i).miss = 0 ∧ (x.apply i).clearPend = false ∧
      (x.apply i).provOpen = if i.op = .confirmed then x.provOpen - 1 else x.provOpen) ∧
    (i.op = .raise → (x.apply i).st = .conf ∧ (x.apply i).sevS = i.sev ∧ (x.apply i).miss = 0 ∧ (x.apply i).clearPend = false ∧
      (x.apply i).provOpen = x.provOpen) ∧
    (i.op = .retracted → x.clearHeld = false → (x.apply i).provOpen = x.provOpen - 1 ∧
      (x.apply i).st = if x.sevS ≠ 0 then .conf else if 0 < x.provOpen - 1 then .prov else .retracted) ∧
    (i.op = .clear →
      (x.st ≠ .conf → (x.apply i).st = x.st ∧ (x.apply i).clearPend = x.clearPend) ∧
      (x.st = .conf → 0 < x.provOpen → (x.apply i).st = .conf ∧ (x.apply i).clearHeld = true) ∧
      (x.st = .conf → x.provOpen = 0 → x.latch = false → x.src ≠ 5 → x.overflow = false → (x.apply i).st = .cleared) ∧
      (x.st = .conf → x.provOpen = 0 → (x.latch = true ∨ x.src = 5 ∨ x.overflow = true) → (x.apply i).st = .conf ∧ (x.apply i).clearPend = true)) ∧
    (x.live = true → i.outcome ≠ 6 → (i.outcome = 3 → x.src = 3 ∧ x.kind = 4) → x.quays.contains i.quaySeq = false →
      (min (x.miss + 1) 255 < x.clearN → (x.miss1 i).miss = min (x.miss + 1) 255 ∧ (x.miss1 i).st = x.st) ∧
      (x.clearN ≤ min (x.miss + 1) 255 → x.st = .conf → x.provOpen = 0 → x.latch = false → x.src ≠ 5 → x.overflow = false →
        (x.miss1 i).st = .cleared) ∧
      (x.st = .prov → (x.miss1 i).st = .prov)) ∧
    ((x.live = false ∨ i.outcome = 6 ∨ x.quays.contains i.quaySeq = true ∨ (i.outcome = 3 ∧ ¬(x.src = 3 ∧ x.kind = 4))) → x.miss1 i = x)

/-- Acknowledgements, host alarms and the end of a pulse. An acknowledgement of a slot in PROV or CONF with its GEN sets ACKED,
and clears the slot that has CLEAR_PEND (or is an overflow slot); with another GEN it is STALE_GEN, counted, and changes no
slot; of any other slot it is NOT_ACTIVE and changes nothing. ALM_ACK shows DONE and the code; the manifest completes with
it. ALM_HOST with GO, a KIND and a severity or CLEAR sends a raise or a clear of that KEY and KIND, otherwise nothing; the
manifest does the same. A pulse ends at its instant. That a standby accepts no acknowledgement is the model's choice (log
entry 78). -/
def Obligations.AcknowledgementsAndHostAlarms : Prop :=
  ∀ (n gen : Nat) (v : Word) (s : State),
    let x := s.slot n
    ((x.live = false ∨ s.isActive = false) → Answers (.alarmAcknowledge n gen) s s) ∧
    (x.live = true → s.isActive = true → x.gen ≠ gen →
      Answers (.alarmAcknowledge n gen) s ((s.count (Reg.ALM_CNT_LO 7)).event Reg.ALM_EVT 3)) ∧
    (x.live = true → s.isActive = true → x.gen = gen → ∃ u, Answers (.alarmAcknowledge n gen) s u ∧ (u.slot n).acked = true ∧
      (u.slot n).st = (if x.clearPend = true ∨ x.overflow = true then .cleared else x.st) ∧ ∀ k, k ≠ n → u.slot k = s.slot k) ∧
    (s.Reaches Reg.ALM_ACK v →
      (v.getLsbD 31 = false → Answers (.almAckGo v) s s) ∧
      (v.getLsbD 31 = true → ∃ u, Answers (.almAckGo v) s u ∧ u.alm = (s.almAck (bitsOf v.toNat 0 11) (s.reg Reg.ALM_ACK_GEN).toNat).1.alm ∧
        u.reg Reg.ALM_ACK_RES = BitVec.ofNat 32 (2 ^ 31 + (if (s.slot (bitsOf v.toNat 0 11)).live = false ∨ s.isActive = false then 2
          else if (s.slot (bitsOf v.toNat 0 11)).gen ≠ (s.reg Reg.ALM_ACK_GEN).toNat then 1 else 0)))) ∧
    (∀ m, s.Starts n 0x0030 m →
      let r := (s.start n m.mid).almAck (leAt m.bytes 20 2) (leAt m.bytes 24 4)
      Answers (.almAck n) s (r.1.finish m.mid stDone r.2 [])) ∧
    (s.Reaches Reg.ALM_HOST v →
      let kind := bitsOf v.toNat 16 4
      let sev := bitsOf v.toNat 20 2
      let input (op : AlmOp) (sv : Nat) : AlmInput := { op := op, src := 7, sub := 0, kind := kind, key := bitsOf v.toNat 0 16, sev := sv }
      ((bitOf v.toNat 31 = false ∨ kind = 0 ∨ (bitOf v.toNat 22 = false ∧ sev ≠ 1 ∧ sev ≠ 2)) → Answers (.almHostGo v) s s) ∧
      (bitOf v.toNat 31 = true → kind ≠ 0 → bitOf v.toNat 22 = true → ∃ u, Answers (.almHostGo v) s u ∧ u.alm.input = s.alm.input ++ [input .clear 0]) ∧
      (bitOf v.toNat 31 = true → kind ≠ 0 → bitOf v.toNat 22 = false → (sev = 1 ∨ sev = 2) →
        ∃ u, Answers (.almHostGo v) s u ∧ u.alm.input = s.alm.input ++ [input .raise sev])) ∧
    (∀ m, s.Starts n 0x0031 m →
      Answers (.almHost n) s (((s.start n m.mid).almSend { op := if bitOf (byteAt m.bytes 24) 0 then .clear else .raise, src := 7, sub := 0, kind := byteAt m.bytes 22, key := leAt m.bytes 20 2, sev := byteAt m.bytes 23 }).finish0 m.mid stDone)) ∧
    ((nth ({} : Pin) s.alm.pins n).pulse = none → Answers (.lhPulseEnd n) s s) ∧
    (∀ t, (nth ({} : Pin) s.alm.pins n).pulse = some t → ∃ u, Answers (.lhPulseEnd n) s u ∧ (nth ({} : Pin) u.alm.pins n).pulse = none ∧
      u.dt = max s.dt t ∧ ∀ k, u.slot k = s.slot k)

/-- Alarm messages: closing, repeat copies and keepalives. A message with entries is closed 10 µs after its first: SEQ advances
by one modulo 2^32, the entries are gone and the destination's last message is of that moment. A repeat copy leaves one copy
fewer to send (none at the last), its time that of the copy, and leaves SEQ as it is. A keepalive is sent to an enabled
destination of an active, running device whose ALM_KEEPALIVE and rate are not 0 once a reporting instant has come
ALM_KEEPALIVE ms after its last message, and leaves the entries of a message being gathered; otherwise nothing. Without entries or copies nothing happens. -/
def Obligations.AlarmMessagesSent : Prop :=
  ∀ (d : Nat) (s : State),
    let x := nth ({} : AlmDest) s.alm.dest d
    let k := s.fld Reg.ALM_KEEPALIVE 0 16
    let due : Bool := s.destEn d && s.isActive && !s.isStopped && decide (k ≠ 0) && decide (s.tb.grid.rate ≠ 0) &&
      decide (x.lastAt + k * subPerMs ≤ s.tb.lastInstant)
    (x.entries = [] → Answers (.almMessageClose d) s s) ∧
    (d < s.alm.dest.length → x.entries ≠ [] → ∃ u, Answers (.almMessageClose d) s u ∧ (nth ({} : AlmDest) u.alm.dest d).seq = (x.seq + 1) % 2 ^ 32 ∧
      (nth ({} : AlmDest) u.alm.dest d).entries = [] ∧ (nth ({} : AlmDest) u.alm.dest d).lastAt = max s.dt (x.firstAt + 10 * subPerUs)) ∧
    (x.repeats = [] → Answers (.almMessageRepeat d) s s) ∧
    (∀ r rs, d < s.alm.dest.length → x.repeats = r :: rs → ∃ u, Answers (.almMessageRepeat d) s u ∧
      (nth ({} : AlmDest) u.alm.dest d).seq = x.seq ∧ (nth ({} : AlmDest) u.alm.dest d).repeats =
        rs ++ (if r.left ≤ 1 then [] else [⟨r.payload, r.left - 1, max s.dt (r.at_ + cfgNum s.cfg.active 8 3 (32 * d + 2) 2 * subPerUs)⟩])) ∧
    ((4 ≤ d ∨ due = false) → Answers (.almKeepalive d) s s) ∧
    (d < 4 → d < s.alm.dest.length → due = true → ∃ u, Answers (.almKeepalive d) s u ∧ (nth ({} : AlmDest) u.alm.dest d).seq = (x.seq + 1) % 2 ^ 32 ∧
      (nth ({} : AlmDest) u.alm.dest d).lastAt = s.dt ∧ (nth ({} : AlmDest) u.alm.dest d).handover = false ∧
      (nth ({} : AlmDest) u.alm.dest d).entries = x.entries ∧
      ∀ e, e ≠ d → nth ({} : AlmDest) u.alm.dest e = nth ({} : AlmDest) s.alm.dest e)

/-- The front end: enable, sample sets, channel conditions, the PLL, the calibration swap and the estimator. EN with an active
set starts the chain with no set held; without one EN stays 0. A set is held first, labelled as the set before it gives, or, a first
set, G before r, and is released at its label plus G of the mode in force from it on; a front end
that is absent, fenced, disabled or without a set takes none (metering that waits for the front end is tried again). A
condition that begins on an enabled channel, as its stream shows it, sets its flag and event (STUCK a unit fault too); a disabled channel raises
neither, and what the stream does not show changes nothing. The PLL realigns while FE_MCLK runs. A swap asked for while one is pending, or with a value out of range, sets its
event and no swap becomes pending. The estimator hands off one block of berth 8,176 + j for an instant whose window is ready;
an instant it can never serve, or whose berth no longer has the shape of its map, is a LOCAL_MISS. -/
def Obligations.FrontEndRuns : Prop :=
  ∀ (v : Word) (r j sec k : Nat) (pins : List (List (Nat × Bool))) (refHz altHz : Rat) (clip on : Bool) (s : State),
    (s.Reaches Reg.FE_CTRL v → s.hasFe = true → v.getLsbD 1 = false →
      (v.getLsbD 0 = true → s.cfg.activeValid = true → s.bit Reg.FE_CTRL 0 = false → ∃ u, Answers (.feEnWrite v) s u ∧
        (u.reg Reg.FE_CTRL).getLsbD 0 = true ∧ u.fe.mclk = true ∧ u.fe.hist = [] ∧ u.fe.pos = 0 ∧ u.fe.startedAt = s.dt ∧
        u.fe.edge = firstEdge s.dt ∧ u.fe.next = none ∧ (∀ k ∈ u.fe.chan, k.clip = false ∧ k.stuck = false)) ∧
      (v.getLsbD 0 = true → s.cfg.activeValid = false → s.bit Reg.FE_CTRL 0 = false → ∃ u, Answers (.feEnWrite v) s u ∧
        (u.reg Reg.FE_CTRL).getLsbD 0 = false ∧ u.fe = s.fe)) ∧
    (¬(s.hasFe = true ∧ s.unitFenced 10 = false ∧ s.bit Reg.FE_CTRL 0 = true ∧ s.cfg.activeValid = true) → Answers (.feSampleSet r pins refHz altHz) s s.mtrTryStart) ∧
    (s.hasFe = true → s.unitFenced 10 = false → s.bit Reg.FE_CTRL 0 = true → s.cfg.activeValid = true → ∃ u st, Answers (.feSampleSet r pins refHz altHz) s u ∧
      u.fe.hist = (st :: s.fe.hist).take 8192 ∧ st.label = s.feLabel r ∧ st.release = s.feLabel r + feG (s.feScsAt (s.feLabel r))) ∧
    ((∀ l, s.fe.next = some l → s.feLabel r = l) ∧ (s.fe.next = none → s.feLabel r = r - feG (s.feScsAt (r - feG s.fe.scs)))) ∧
    (s.hasFe = true → s.unitFenced 10 = false → j < 24 → s.bit Reg.FE_CTRL 0 = true →
      let was := if clip then (nth {} s.fe.chan j).clip else (nth {} s.fe.chan j).stuck
      let s1 := s.modChan j fun k => if clip then { k with clip := on } else { k with stuck := on }
      let k := s.fe.stream j
      ((s.chanOn j = false ∨ k.shows clip ≠ on) → Answers (.feChannelCondition j clip on) s s) ∧
      (s.chanOn j = true → k.shows clip = on → (on = false ∨ was = true) → Answers (.feChannelCondition j clip on) s s1) ∧
      (s.chanOn j = true → k.shows clip = on → on = true → was = false → clip = true →
        Answers (.feChannelCondition j clip on) s ((s1.event Reg.FE_EVT 0).count (Reg.FE_CNT_LO 1))) ∧
      (s.chanOn j = true → k.shows clip = on → on = true → was = false → clip = false →
        Answers (.feChannelCondition j clip on) s (((s1.event Reg.FE_EVT 1).count (Reg.FE_CNT_LO 2)).unitFault 10))) ∧
    (Answers .fePllRealign s (s.modFe fun f => { f with aligned := f.mclk })) ∧
    (s.Reaches Reg.FE_CAL_SWAP v → s.hasFe = true →
      (s.fe.calPending ≠ none → Answers (.feCalSwapGo v) s (s.event Reg.FE_EVT 6)) ∧
      (s.fe.calPending = none → (v.getLsbD 31 = false ∨ bitsOf v.toNat 0 24 = 0) → Answers (.feCalSwapGo v) s s) ∧
      (s.fe.calPending = none → v.getLsbD 31 = true → bitsOf v.toNat 0 24 ≠ 0 → (∀ c ∈ maskList 24 (bitsOf v.toNat 0 24), s.standbyOk c = true) →
        Answers (.feCalSwapGo v) s (s.modFe fun f => { f with calPending := some (BitVec.ofNat 24 (bitsOf v.toNat 0 24), s.dt) })) ∧
      (s.fe.calPending = none → v.getLsbD 31 = true → bitsOf v.toNat 0 24 ≠ 0 → (∃ c ∈ maskList 24 (bitsOf v.toNat 0 24), s.standbyOk c = false) →
        Answers (.feCalSwapGo v) s (s.event Reg.FE_EVT 5))) ∧
    ((bitOf s.idCap 1 = false ∨ s.unitFenced 11 = true ∨ s.bit Reg.FE_CTRL 0 = false ∨ 16 ≤ j) → Answers (.lpeEstimate j sec k r) s s) ∧
    (bitOf s.idCap 1 = true → s.unitFenced 11 = false → s.bit Reg.FE_CTRL 0 = true → j < 16 →
      let rate := s.rateOf sec
      let s1 := (s.advance r).modFe fun f => { f with group := f.group.map fun g => { g with held := false } }
      let t := instantAt rate sec k
      let set := s1.fe.mapFor t
      let n := lpeSets (s1.lpeVisible (lpeChans set j)) t (lpeM set j) (if bitOf (feCfg set) 1 then 50 else 60) rate
      ((rate = 0 ∨ rate ≤ k ∨ lpeOn set j = false ∨ t ≤ (mapFind s1.fe.lpeDone j).getD 0) → Answers (.lpeEstimate j sec k r) s s1) ∧
      (rate ≠ 0 → k < rate → lpeOn set j = true → (mapFind s1.fe.lpeDone j).getD 0 < t →
        (lpeWindow (s1.lpeVisible (lpeChans set j)) t n = .later → Answers (.lpeEstimate j sec k r) s s1) ∧
        (lpeWindow (s1.lpeVisible (lpeChans set j)) t n = .never → ∃ u, Answers (.lpeEstimate j sec k r) s u ∧ u.aln.input = s.aln.input ∧
          (u.reg Reg.FE_EVT).getLsbD 8 = true ∧ mapFind u.fe.lpeDone j = some t) ∧
        (∀ w, lpeWindow (s1.lpeVisible (lpeChans set j)) t n = .ready w → s1.lpeFits set j t = false → ∃ u, Answers (.lpeEstimate j sec k r) s u ∧ u.aln.input = s.aln.input ∧
          (u.reg Reg.FE_EVT).getLsbD 8 = true ∧ mapFind u.fe.lpeDone j = some t) ∧
        (∀ w, lpeWindow (s1.lpeVisible (lpeChans set j)) t n = .ready w → s1.lpeFits set j t = true → s1.alnReady = true → s1.fe.lpeBlockedTill = 0 →
          (∀ g ∈ s1.fe.group, g.overwritten = []) → ∃ u d, Answers (.lpeEstimate j sec k r) s u ∧ u.aln.input = s.aln.input ++ [d] ∧
            d.berth = 8176 + j ∧ d.sec = sec ∧ d.k = k ∧ d.rate = rate ∧ d.arrival = r ∧
            d.handedAt = s1.dt)))

/-- Metering: enable, cycles, saves, pulses, power failure, and its reads and manifests. EN with a record ring that does not fit
stays 0 with RING_ERR. A cycle on the tap is taken when the unit runs, is not fenced and its engine is in service: it becomes
the last cycle and, while the unit is frozen, is held in the pending sum, without the samples before it where it is the first or the rate of sets has changed. A flash save that completes overwrites the slot that does
not hold the newer valid save (one whose CRC-32C is right); one that fails is reported as a fault of metering and of the flash and tried
again, and the CRC-32C it leaves is a free value. A pulse due on an enabled output starts and counts in MTR_PLS_CNT; it ends when its width
has passed. A pulse output is at high impedance while metering is absent, fenced or not restored, else at its active level while a pulse
runs and at the other level otherwise. PFW_N freezes a running unit with nothing left on the tap; its end thaws it with nothing pending. A read of a
point block's first word latches the block. The reset manifest needs 64 bytes, a nonce, an unchanged REC_SEQ and a token
slot; the read manifest has its read under way from its start, and at the end of it gives the records held from a REC_SEQ on. -/
def Obligations.MeteringRuns : Prop :=
  ∀ (v : Word) (n now o : Nat) (buf : Option (List Byte)) (ok : Bool) (s : State),
    let bad : Bool := v.getLsbD 2 && !s.dramFits (s.reg64 Reg.MTR_REC_BASE_LO) (320 * 2 ^ s.fld Reg.MTR_REC_SIZE 0 5)
    let p := nth {} s.mtr.pulse o
    let enabled := bitOf (cfgByte s.mtr.set 0x0B 1 (8 * o)) 0
    let pf := ((s.pfwSet true).event Reg.RTC_EVT 5).wakeIf 3
    (s.Reaches Reg.MTR_CTRL v → s.hasMtr = true → s.unitFenced 12 = false → v.getLsbD 1 = false →
      (v.getLsbD 0 = true → s.bit Reg.MTR_CTRL 0 = false → bad = true → ∃ u, Answers (.mtrEnWrite v) s u ∧
        (u.reg Reg.MTR_CTRL).getLsbD 0 = false ∧ (u.reg Reg.MTR_EVT).getLsbD 10 = true ∧ u.mtr = s.mtr) ∧
      (v.getLsbD 0 = true → s.bit Reg.MTR_CTRL 0 = false → bad = false →
        Answers (.mtrEnWrite v) s (((s.setReg Reg.MTR_CTRL (v &&& 0x1FD)).modMtr fun u => { u with recWr := 0 }).mtrTryStart)) ∧
      (v.getLsbD 0 = false → ∃ u, Answers (.mtrEnWrite v) s u ∧ u.mtr.running = false ∧ u.mtr.tap = [])) ∧
    ((s.mtr.tap = [] ∨ s.mtr.running = false ∨ s.unitFenced 12 = true ∨ (nth {} s.plt.eng s.plt.mtrEng).rstate ≠ .inService) →
      Answers (.mtrCycle now) s s) ∧
    (∀ c rest, s.mtr.tap = c :: rest → s.mtr.running = true → s.unitFenced 12 = false → (nth {} s.plt.eng s.plt.mtrEng).rstate = .inService →
      ∃ u, Answers (.mtrCycle now) s u ∧ u.mtr.tap = rest ∧ u.mtr.lastCyc = some c ∧
        u.mtr.pendSum = if s.mtr.frozen = true then s.mtr.pendSum ++ [if s.mtrFirst c then { c with before := [] } else c] else s.mtr.pendSum) ∧
    (s.mtr.flashBusy = none → Answers (.mtrFlashSaveDone ok) s s) ∧
    (∀ w, s.mtr.flashBusy = some w →
      (∃ u, Answers (.mtrFlashSaveDone true) s u ∧ u.mtr.flashBusy = none ∧ u.mtr.flashSavedTo = w.savedTo ∧
        (∀ a, saveValid s.flash.mtrSave0 = some a → (∀ b, saveValid s.flash.mtrSave1 = some b → b.seq ≤ a.seq) →
          u.flash.mtrSave0 = s.flash.mtrSave0 ∧ u.flash.mtrSave1 = some w) ∧
        (∀ a b, saveValid s.flash.mtrSave0 = some a → saveValid s.flash.mtrSave1 = some b → a.seq < b.seq →
          u.flash.mtrSave0 = some w ∧ u.flash.mtrSave1 = s.flash.mtrSave1) ∧
        (saveValid s.flash.mtrSave0 = none → u.flash.mtrSave0 = some w ∧ u.flash.mtrSave1 = s.flash.mtrSave1)) ∧
      Answers (.mtrFlashSaveDone false) s
        ((((({ s.freshNext with flash := s.flash.putMtr { w with crc := s.freshVal % 2 ^ 32 } } : State).modMtr
          fun u => { u with flashBusy := none, flashRetry := true }).event Reg.MTR_EVT 4).unitFault 12).flashFail)) ∧
    (∀ (x : Option MtrSave) (a : MtrSave), saveValid x = some a ↔ x = some a ∧ a.crc = crc32c a.bytes) ∧
    ((s.hasMtr = false ∨ s.unitFenced 12 = true ∨ s.pins.pulseDriven = false) → s.pulseLevel o = .highZ) ∧
    (s.hasMtr = true → s.unitFenced 12 = false → s.pins.pulseDriven = true → s.pulseLevel o =
      if (bitOf (cfgByte s.mtr.set 0x0B 1 (8 * o)) 1 = true) = (p.active = true ∧ enabled = true) then PinLevel.low else PinLevel.high) ∧
    ((p.sched = [] ∨ 6 ≤ o ∨ enabled = false ∨ p.active = true ∨ s.mtr.frozen = true ∨ s.unitFenced 12 = true ∨ s.mtr.running = false) → Answers (.pulseStart o) s s) ∧
    (∀ x rest, p.sched = x :: rest → o < 6 → o < s.mtr.pulse.length → enabled = true → p.active = false → s.mtr.frozen = false → s.unitFenced 12 = false →
      s.mtr.running = true → ∃ u, Answers (.pulseStart o) s u ∧ (nth {} u.mtr.pulse o).active = true ∧ (nth {} u.mtr.pulse o).last = some x.1 ∧
        (nth {} u.mtr.pulse o).sched = rest ∧ u.reg (Reg.MTR_PLS_CNT o) = (s.advance x.1).reg (Reg.MTR_PLS_CNT o) + 1) ∧
    (p.active = false → Answers (.pulseEnd o) s s) ∧
    (p.active = true → o < s.mtr.pulse.length → ∃ u, Answers (.pulseEnd o) s u ∧ (nth {} u.mtr.pulse o).active = false ∧
      u.dt = max s.dt (p.last.getD 0 + pulseGap s.mtr.set o / 2)) ∧
    ((pf.bit Reg.MTR_CTRL 8 && pf.mtr.running) = false → Answers .pfwAssert s pf) ∧
    (pf.bit Reg.MTR_CTRL 8 = true → pf.mtr.running = true → pf.mtr.frozen = false → pf.unitFenced 12 = false →
        ∃ u, Answers .pfwAssert s u ∧ u.mtr.frozen = true ∧ u.mtr.tap = []) ∧
    (s.pins.pfw = false → Answers .pfwDeassert s s) ∧
    (s.pins.pfw = true → (s.unitFenced 10 = true ∨ s.isStopped = true) → Answers .pfwDeassert s (s.pfwSet false)) ∧
    (s.pins.pfw = true → s.unitFenced 10 = false → s.isStopped = false → (s.pfwSet false).mtr.frozen = true → ∃ u, Answers .pfwDeassert s u ∧
      u.mtr.frozen = false ∧ u.mtr.pendSum = []) ∧
    (3 ≤ n → Answers (.mtrPointLatchRead n) s s) ∧
    (n < 3 → s.hasMtr = true → s.Readable (Reg.MTR_ENERGY_LO n 0) → ∃ u, Answers (.mtrPointLatchRead n) s u ∧ u.rdata = s.mtrPointWord n 0 ∧
      ∀ a ∈ mtrLatchOffsets, mapFind u.latch (Reg.MTR_ENERGY_LO n 0 + a) = some (s.mtrPointWord n a)) ∧
    (∀ m, s.Starts n 0x0051 m →
      let s1 := s.start n m.mid
      let pt := byteAt m.bytes 20
      let recs := (s1.flash.mtrRec.filter fun r => (pt == 3 || r.1 == pt) && leAt m.bytes 24 8 ≤ r.2.1).take (mBufLen m.bytes / 320)
      let act (x : Bool) : Fetched := { m with act := some (.mtrRead x) }
      Answers (.mtrRead n ok) s (s1.setAct n m.mid (.mtrRead ok)) ∧
      s1.actEnd (act false) = s1.finish0 m.mid stDmaError ∧
      (recs = [] → s1.actEnd (act true) = s1.finish m.mid stDone 0 []) ∧
      (recs ≠ [] → s1.actEnd (act true) =
        (s1.emit (.hostWrite (mBufAddr m.bytes) (recs.flatMap fun r => r.2.2))).finish m.mid stDone recs.length [])) ∧
    (∀ m, s.Starts n 0x0050 m →
      let s1 := s.start n m.mid
      let pt := byteAt m.bytes 20
      let s2 := s1.voidKeyNonce
      let slot := s2.fld Reg.KEY_CFG 0 6
      (mBufLen m.bytes ≠ 64 → Answers (.mtrReset n buf) s (s1.finish0 m.mid stInvalidParam)) ∧
      (mBufLen m.bytes = 64 → Answers (.mtrReset n none) s (s1.finish0 m.mid stDmaError)) ∧
      (∀ sig, mBufLen m.bytes = 64 →
        (s1.key.nonce = none → Answers (.mtrReset n (some sig)) s (s2.finish0 m.mid stNonce)) ∧
        (∀ nonce, s1.key.nonce = some nonce →
          ((nth {} s1.mtr.point pt).keep.recSeq ≠ nth 0 s1.key.nonceRecSeq pt → Answers (.mtrReset n (some sig)) s (s2.finish0 m.mid stStale)) ∧
          ((nth {} s1.mtr.point pt).keep.recSeq = nth 0 s1.key.nonceRecSeq pt →
            (s2.tokenSlotOk slot = false → Answers (.mtrReset n (some sig)) s ((s2.keyUseErr.event Reg.KEY_EVT 3).finish0 m.mid stAuthFail)) ∧
            (s2.tokenSlotOk slot = true →
              let r := s2.requestVerify (.verifyMtrReset m.mid pt) slot (s2.mtrResetMsg pt nonce) (padTo 64 sig)
              (r.2 = true → Answers (.mtrReset n (some sig)) s r.1) ∧
              (r.2 = false → Answers (.mtrReset n (some sig)) s (r.1.finish0 m.mid stBusy)))))))

/-- Capture channels: arming, aborting, triggering, overflow and end. ARM on a channel whose check R365 passes leaves it ARMED from
now with the configuration its registers hold, its blocks emptied and the first byte of its region cleared; a failing check
leaves the channel as it was but for its error code, and sets ARM_ERR. ABORT of an ARMED channel gives IDLE, of a TRIGGERED one
ABORTED, DONE where its end has come, or OVERFLOW where its ring is full; elsewhere it is refused. SWTRIG, which comes after what has been
detected before it, or the earliest detected entry of the channel triggers
an ARMED channel and counts as a retrigger of a TRIGGERED one. A channel whose FIFO or region overflows ends in OVERFLOW with the
cause; one whose end has come is DONE with its event set. No other channel changes. -/
def Obligations.CaptureRuns : Prop :=
  ∀ (c : Nat) (s : State),
    let k := s.capCh c
    let others (u : State) : Prop := ∀ d, d ≠ c → u.capCh d = s.capCh d
    (4 ≤ c → Answers (.capChArm c) s s ∧ Answers (.capChAbort c) s s ∧ Answers (.capChSwtrig c) s s) ∧
    (c < 4 → c < s.cap.ch.length →
    (s.Reaches (Reg.CAP_CH_CTRL c) 1 → s.hasCap = true →
      (k.busy = true → s.capArmErr c = 1) ∧
      (s.capArmErr c ≠ 0 → ∃ u, Answers (.capChArm c) s u ∧ u.capCh c = { k with err := s.capArmErr c } ∧ others u ∧
        (u.reg Reg.CAP_EVT).getLsbD 11 = true ∧ u.dram = s.dram) ∧
      (s.capArmErr c = 0 → ∃ u, Answers (.capChArm c) s u ∧ (u.capCh c).st = .armed ∧ (u.capCh c).err = 0 ∧
        (u.capCh c).armedAt = s.dt ∧ (u.capCh c).cfg = s.reg (Reg.CAP_CH_CFG c) ∧ (u.capCh c).time = s.reg (Reg.CAP_CH_TIME c) ∧
        (u.capCh c).blocks = [] ∧ (u.capCh c).bseq = 0 ∧ others u ∧ u.dramByte (s.capBase c) = 0 ∧
        ∀ a, a ≠ s.capBase c → u.dramByte a = s.dramByte a)) ∧
    (s.Reaches (Reg.CAP_CH_CTRL c) 2 → s.hasCap = true →
      (k.st = .armed → ∃ u, Answers (.capChAbort c) s u ∧ (u.capCh c).st = .idle ∧ (u.capCh c).abortRes = 1 ∧ others u ∧ u.dram = s.dram) ∧
      (k.st = .triggered → s.capEnded c = false → k.full = true → ∃ u, Answers (.capChAbort c) s u ∧ (u.capCh c).st = .overflow ∧
        (u.capCh c).ovfCause = 1 ∧ (u.capCh c).abortRes = 2 ∧ (u.capCh c).opens = [] ∧ others u) ∧
      (k.st = .triggered → s.capEnded c = false → k.full = false → ∃ u, Answers (.capChAbort c) s u ∧ (u.capCh c).st = .aborted ∧
        (u.capCh c).abortRes = 1 ∧ (u.capCh c).opens = [] ∧ others u) ∧
      (k.st = .triggered → s.capEnded c = true → ∃ u, Answers (.capChAbort c) s u ∧ (u.capCh c).st = .done ∧
        (u.capCh c).abortRes = 2 ∧ (u.capCh c).opens = [] ∧ others u) ∧
      (k.busy = false → Answers (.capChAbort c) s (s.modCap c fun k => { k with abortRes := 2 }))) ∧
    (s.Reaches (Reg.CAP_CH_CTRL c) 4 → s.hasCap = true →
      (k.busy = true →
        let s1 : State := { s with cap := { s.cap with detected := s.cap.detected ++ [(⟨c, 8, 0, s.dt, 0, s.dt⟩ : CapDet)] } }
        Answers (.capChSwtrig c) s ((s1.cap.detected.filter fun d => d.ch == c).foldl (fun s _ => capTriggerRow c s) s1)) ∧
      (k.st = .armed → (∀ d ∈ s.cap.detected, d.ch ≠ c) → ∃ u, Answers (.capChSwtrig c) s u ∧ u.cap.detected = s.cap.detected ∧ (u.capCh c).st = .triggered ∧ (u.capCh c).trigAt = s.dt ∧
        (u.capCh c).swtrig = true ∧ (u.capCh c).preShort = decide (s.dt - k.pre < k.armedAt) ∧ others u) ∧
      (k.st = .triggered → (∀ d ∈ s.cap.detected, d.ch ≠ c) → ∃ u, Answers (.capChSwtrig c) s u ∧ (u.capCh c).retrigN = min (k.retrigN + 1) 255 ∧
        (u.capCh c).lastTrig = (if bitOf k.cfg.toNat 28 then s.dt else k.lastTrig) ∧ (u.capCh c).trigAt = k.trigAt ∧ others u) ∧
      (k.busy = false → Answers (.capChSwtrig c) s s)) ∧
    ((∀ d ∈ s.cap.detected, d.ch ≠ c) → Answers (.capTrigger c) s s) ∧
    (∀ d, s.cap.detected.find? (fun d => d.ch == c) = some d →
      let seen := s.cap.detected.filter fun x => x.ch == c && x.seen == d.seen
      let rest := s.cap.detected.filter fun x => !(x.ch == c && x.seen == d.seen)
      (k.st = .armed → ∃ u e, Answers (.capTrigger c) s u ∧ e ∈ seen ∧ (∀ x ∈ seen, e.at_ < x.at_ ∨ e.at_ = x.at_ ∧ e.entry ≤ x.entry) ∧
        (u.capCh c).st = .triggered ∧ (u.capCh c).trigAt = e.at_ ∧ (u.capCh c).trigType = e.typ ∧ u.cap.detected = rest ∧ others u) ∧
      (k.st = .triggered → ∃ u, Answers (.capTrigger c) s u ∧ (u.capCh c).st = .triggered ∧ (u.capCh c).trigAt = k.trigAt ∧
        (u.capCh c).retrigN = min (k.retrigN + 1) 255 ∧ u.cap.detected = rest ∧ others u)) ∧
    (∀ fifo : Bool,
      (k.st = .triggered → (fifo = true ∨ k.full = true) → ∃ u, Answers (.capOverflow c fifo) s u ∧ (u.capCh c).st = .overflow ∧
        (u.capCh c).ovfCause = (if fifo then 2 else 1) ∧ (u.capCh c).opens = [] ∧ others u ∧ (u.reg Reg.CAP_EVT).getLsbD (4 + c) = true) ∧
      ((k.st ≠ .triggered ∨ (fifo = false ∧ k.full = false)) → Answers (.capOverflow c fifo) s s)) ∧
    (s.capEnded c = false → Answers (.capEnd c) s s) ∧
    (s.capEnded c = true → ∃ u, Answers (.capEnd c) s u ∧ (u.capCh c).st = .done ∧ (u.capCh c).opens = [] ∧ others u ∧
      (u.reg Reg.CAP_EVT).getLsbD c = true))

/-- The trigger bus. A low pulse on a line that is heard (engine present, IN_EN of the line, not STUCK) and no longer than 40 µs:
below 2 µs it is a glitch and changes nothing; within ±1.5 µs of (CODE + 1) × 4 µs it is CODE, any other width code 7 with a
collision. CAP_TRG_CODE shows the code, the collision and VALID, CAP_TRG_IN the falling edge less CAP_TRG_DLY, and TRG_IN (and
COLLISION) is set. A line low at 40 µs is held low, and with IN_EN becomes STUCK and is heard again when that ends. CAP_TRG_OUT.GO queues a request: none
without OUT_EN, a fifth is dropped and counted. A queued request drives a line that is high and undriven, and the driver
releases it at the end of the pulse. -/
def Obligations.TriggerBus : Prop :=
  ∀ (line fall rise stamp code : Nat) (v : Word) (s : State),
    let l := nth {} s.cap.line line
    let w := rise - fall
    let near (c : Nat) : Prop := (c + 1) * 4 * subPerUs ≤ w + 3 * subPerUs / 2 ∧ w ≤ (c + 1) * 4 * subPerUs + 3 * subPerUs / 2
    let heard : Prop := s.hasCap = true ∧ line < 4 ∧ s.bit Reg.CAP_TRG_CFG line = true ∧ l.stuck = false
    let ref := ((fall : Int) - (s.reg (Reg.CAP_TRG_DLY line)).toInt).toNat
    let took (u : State) (x : Nat) : Prop := u.reg (Reg.CAP_TRG_CODE line) = BitVec.ofNat 32 x ∧
      u.reg (Reg.CAP_TRG_IN_SUBNS line) = BitVec.ofNat 32 (subOf ref) ∧ u.reg (Reg.CAP_TRG_IN_NS line) = BitVec.ofNat 32 (nsOf ref) ∧
      u.reg (Reg.CAP_TRG_IN_SEC_LO line) = BitVec.ofNat 32 (secOf ref) ∧ (u.reg Reg.CAP_EVT).getLsbD 8 = true ∧
      u.dt = max s.dt rise ∧ u.cap.line = s.cap.line ∧ u.cap.ch = s.cap.ch ∧ u.dram = s.dram
    ((¬heard ∨ 40 * subPerUs < w ∨ w < 2 * subPerUs) → Answers (.trgPulseRx line fall rise) s s) ∧
    (heard → code < 8 → near code → ∃ u, Answers (.trgPulseRx line fall rise) s u ∧ took u (code + 8)) ∧
    (heard → 2 * subPerUs ≤ w → w ≤ 40 * subPerUs → (∀ c, c < 8 → ¬near c) →
      ∃ u, Answers (.trgPulseRx line fall rise) s u ∧ took u 31 ∧ (u.reg Reg.CAP_EVT).getLsbD 9 = true) ∧
    ((s.hasCap = false ∨ 4 ≤ line ∨ l.stuck = true) → Answers (.trgLineStuck line) s s) ∧
    (s.hasCap = true → line < 4 → l.stuck = false → s.bit Reg.CAP_TRG_CFG line = false →
      Answers (.trgLineStuck line) s (s.modLine line fun l => { l with held := true, low := true })) ∧
    (heard → Answers (.trgLineStuck line) s
      (((s.modLine line fun l => { l with held := true, low := true, stuck := true }).capEvent 10 0).unitFault 13)) ∧
    (l.held = false → Answers (.trgLineStuckEnd line) s s) ∧
    (l.held = true → Answers (.trgLineStuckEnd line) s
      (s.modLine line fun l => { l with stuck := false, held := false, low := l.driving.isSome })) ∧
    (s.Reaches Reg.CAP_TRG_OUT v → s.hasCap = true →
      let n := bitsOf v.toNat 0 2
      let q := (nth {} s.cap.line n).queue
      ((v.getLsbD 31 = false ∨ s.bit Reg.CAP_TRG_CFG (4 + n) = false) → Answers (.capTrgOutGo v) s s) ∧
      (v.getLsbD 31 = true → s.bit Reg.CAP_TRG_CFG (4 + n) = true → q.length < 4 →
        Answers (.capTrgOutGo v) s (s.modLine n fun l => { l with queue := l.queue ++ [⟨bitsOf v.toNat 2 3, none⟩] })) ∧
      (v.getLsbD 31 = true → s.bit Reg.CAP_TRG_CFG (4 + n) = true → 4 ≤ q.length →
        Answers (.capTrgOutGo v) s (s.count (Reg.CAP_CNT_LO 7)))) ∧
    ((l.queue = [] ∨ l.driving.isSome ∨ l.low = true) → Answers (.trgOutPulseStart line stamp) s s) ∧
    (∀ r rest, l.queue = r :: rest → l.driving = none → l.low = false → line < s.cap.line.length →
      ∃ u, Answers (.trgOutPulseStart line stamp) s u ∧ nth {} u.cap.line line = { l with driving := some r, queue := rest, low := true } ∧
        (∀ n, n ≠ line → nth {} u.cap.line n = nth {} s.cap.line n) ∧
        (r.ch = none → u.cap.ch = s.cap.ch) ∧
        ∀ c, r.ch = some c → c < s.cap.ch.length →
          u.capCh c = { s.capCh c with toutAt := ((stamp : Int) + (s.reg (Reg.CAP_TRG_DLY line)).toInt).toNat }) ∧
    (l.driving = none → Answers (.trgOutPulseEnd line) s s) ∧
    (l.driving.isSome → Answers (.trgOutPulseEnd line) s (s.modLine line fun l => { l with driving := none, low := l.held }))

/-- The logbook: its ring, events, records, checkpoints, nonce, notes and clearing. A base written while RING_SET is 0 that fits
the DRAM sets RING_SET and copies the tail into the ring; one that does not sets RING_ERR. A raised event of a class that is off
is not recorded; one that repeats the last record, with an empty queue and the writer not held by a checkpoint that waits or by an exit
from a power state, raises that record's REPEAT; otherwise it is queued, or
lost and counted when 128 wait. The writer makes the oldest queued event the record LSEQ, whose CHAIN is the hash of the CHAIN
before it and its first 224 bytes, and writes no DRAM but its ring slot. A checkpoint is written when due: signed, or with
zeros when signing fails at once. A read of LOG_NONCE_LO draws a new nonce. LOG_CLEAR checks the nonce, LAST_SEQ and the token
in this order, and every attempt voids the nonce. -/
def Obligations.LogbookRuns : Prop :=
  ∀ (n : Nat) (v : Word) (buf : Option (List Byte)) (s : State),
    (s.Reaches Reg.LOG_RING_BASE_HI v →
      let lo := (mapFind s.hold Reg.LOG_RING_BASE_LO).getD (s.reg Reg.LOG_RING_BASE_LO) &&& 0xFFE00000
      let s0 := (({ s with hold := mapDel s.hold Reg.LOG_RING_BASE_LO }).setReg Reg.LOG_RING_BASE_LO lo).setReg Reg.LOG_RING_BASE_HI v
      let base := lo.toNat + 2 ^ 32 * v.toNat
      (s.logb.ringSet = true → Answers (.logRingBaseWrite v) s { s with hold := mapDel s.hold Reg.LOG_RING_BASE_LO }) ∧
      (s.logb.ringSet = false → s.dramFits base (2 ^ 24) = false → Answers (.logRingBaseWrite v) s (s0.event Reg.LOG_EVT 5)) ∧
      (s.logb.ringSet = false → s.dramFits base (2 ^ 24) = true → ∃ u, Answers (.logRingBaseWrite v) s u ∧ u.logb.ringSet = true ∧
        u.reg64 Reg.LOG_RING_BASE_LO = base ∧ u.bkp = s.bkp ∧ u.logb.nextSeq = s.logb.nextSeq ∧
        (∀ r, s.bkp.tail = [r] → r.bytes.length ≤ 256 → ∀ i, i < r.bytes.length → u.dramByte (base + 256 * (r.lseq % 65536) + i) =
          (if r.lseq < s.logb.startSeq then r.bytes.take 3 ++ leBytes 1 (byteAt r.bytes 3 ||| 8) ++ r.bytes.drop 4 else r.bytes).getD i 0))) ∧
    (s.logb.raised = [] → Answers .logEvent s s) ∧
    (∀ e rest, s.logb.raised = e :: rest →
      let s1 := s.modLog fun l => { l with raised := rest }
      let isRepeat : Prop := s.logb.queue = [] ∧ s.logHeld = false ∧ s.logIsRepeat e = true
      (s.logEnabled e.cls = false → Answers .logEvent s (s1.finishOpt e.mid stDone 0 [])) ∧
      (s.logEnabled e.cls = true → isRepeat → ∃ u r x, Answers .logEvent s u ∧ s.bkp.tail.getLast? = some r ∧ u.bkp.tail.getLast? = some x ∧
        x.lseq = r.lseq ∧ x.cls = r.cls ∧ x.src = r.src ∧ x.event = r.event ∧ x.detail = r.detail ∧ u.logb.queue = [] ∧ u.logb.raised = rest ∧
        (r.bytes.length = 256 → leAt x.bytes 4 4 = min (leAt r.bytes 4 4 + 1) (2 ^ 32 - 1) ∧
          x.bytes = x.bytes.take 224 ++ u.logb.chain ∧ u.logb.chain = sha256 (s.logb.prevChain ++ x.bytes.take 224))) ∧
      (s.logEnabled e.cls = true → ¬isRepeat → s.logb.queue.length < 128 →
        Answers .logEvent s (s1.modLog fun l => { l with queue := l.queue ++ [e] })) ∧
      (s.logEnabled e.cls = true → ¬isRepeat → 128 ≤ s.logb.queue.length → Answers .logEvent s
        (((((s1.modLog fun l => { l with lostN := min (l.lostN + 1) 65535 }).count (Reg.LOG_CNT_LO 3)).event Reg.LOG_EVT 4)).finishOpt
          e.mid stDone 0 []))) ∧
    s.logHeld = (s.logb.chkptBusy || s.pwr.exiting) ∧
    ((s.logb.queue = [] ∨ s.logHeld = true) → Answers .logRecordWrite s s) ∧
    (∀ e rest, s.logb.queue = e :: rest → s.logHeld = false → s.logIsRepeat e = false → ∃ u r b, Answers .logRecordWrite s u ∧
      u.bkp.tail.getLast? = some r ∧ r.lseq = s.logb.nextSeq ∧ r.cls = e.cls ∧ r.src = e.src ∧ r.event = e.event ∧ r.detail = e.detail ∧
      r.bytes = b ++ u.logb.chain ∧ b.length = 224 ∧ u.logb.chain = sha256 (s.logb.chain ++ b) ∧ leAt b 8 8 = s.logb.nextSeq % 2 ^ 64 ∧
      u.logb.nextSeq = s.logb.nextSeq + 1 ∧ u.logb.queue = rest ∧ u.logb.lostN = 0 ∧ u.logb.sinceChkpt = s.logb.sinceChkpt + 1 ∧
      (s.logb.ringSet = false → u.dram = s.dram)) ∧
    ((s.logb.chkptBusy = true ∨ s.logChkptDue = false) → Answers .logCheckpoint s s) ∧
    (s.logb.chkptBusy = false → s.logChkptDue = true →
      let r := s.requestSign (.signCheckpoint s.logb.chain) 57 s.logb.chain
      (r.2 = true → Answers .logCheckpoint s (r.1.modLog fun l => { l with chkptBusy := true })) ∧
      (r.2 = false → Answers .logCheckpoint s (r.1.logChkptWrite none))) ∧
    (s.Readable Reg.LOG_NONCE_LO →
      (s.key.trngFail = true → Answers .logNonceRead s
        { s with logb := { s.logb with nonce := none }, rdata := 0, latch := mapSet s.latch Reg.LOG_NONCE_HI 0 }) ∧
      (s.key.trngFail = false → ∃ u x, Answers .logNonceRead s u ∧ u.logb.nonce = some x ∧ x < 2 ^ 64 ∧ u.rdata = BitVec.ofNat 32 x ∧
        mapFind u.latch Reg.LOG_NONCE_HI = some (BitVec.ofNat 32 (x / 2 ^ 32)) ∧ u.fresh = s.fresh + 1 ∧
        { u.logb with nonce := none } = { s.logb with nonce := none })) ∧
    (∀ m, s.Starts n 0x0060 m → Answers (.logNote n) s ((s.start n m.mid).modLog fun l =>
      { l with raised := l.raised ++ [⟨16, 63, 0xFFFF, slice m.bytes 20 16, s.dt, s.tb.dtState == .locked, some m.mid⟩] })) ∧
    (∀ m, s.Starts n 0x0061 m →
      let s1 := s.start n m.mid
      let s2 := s1.modLog fun l => { l with nonce := none }
      let last := leAt m.bytes 24 8
      let slot := s2.fld Reg.LOG_CLR_SLOT 0 6
      (mBufLen m.bytes ≠ 64 → Answers (.logClear n buf) s (s1.finish0 m.mid stInvalidParam)) ∧
      (mBufLen m.bytes = 64 → Answers (.logClear n none) s (s1.finish0 m.mid stDmaError)) ∧
      (∀ sig, mBufLen m.bytes = 64 →
        (s.logb.nonce = none → Answers (.logClear n (some sig)) s (s2.logClearRefuse m.mid 3 stNonce)) ∧
        (∀ nonce, s.logb.nonce = some nonce →
          ((last + 1 ≠ s.logb.nextSeq ∨ s.logb.queue ≠ []) → Answers (.logClear n (some sig)) s (s2.logClearRefuse m.mid 2 stStale)) ∧
          (last + 1 = s.logb.nextSeq → s.logb.queue = [] →
            (s2.tokenSlotOk slot = false →
              Answers (.logClear n (some sig)) s ((s2.keyUseErr.event Reg.KEY_EVT 3).logClearRefuse m.mid 1 stAuthFail)) ∧
            (s2.tokenSlotOk slot = true →
              let r := s2.requestVerify (.verifyLogClear m.mid last) slot (s2.logClearMsg last nonce) (padTo 64 sig)
              (r.2 = true → Answers (.logClear n (some sig)) s r.1) ∧
              (r.2 = false → Answers (.logClear n (some sig)) s (r.1.logClearRefuse m.mid 1 stAuthFail)))))))

/-- Tasks: submission, dispatch, waits, delays, aging, completion and abort, and the probe. A submission of class 6 or 7 is
INVALID; one of a fenced owner gets an error response; one of a code that can hold no lease (the reserved codes by a choice of the
model, log entry 120), without a free descriptor, or past its owner's quota, gets NO_LEASE; one that finds its class's list full is
FULL, held, and put into the waiting set; otherwise the lowest free descriptor takes it, DELAYED with a wake key and READY without. An
idle engine resumes what it holds PREEMPTED unless a READY task has a strictly higher priority; an alarm-class task with no
engine idle pre-empts the victim of R393, whose task becomes PREEMPTED; with several idle the task at the head goes to its
AFFINITY engine, else to the lowest. A wait ends once, by its event or at its entry plus TIMEOUT; a delayed task becomes READY
when it is at the head of its class's delay list (by time, then priority, then order of submission), at its wake time, or LATE at the
first instant delivered after it; aging raises a READY task one priority; a completion or an abort frees the descriptor, its
generation one higher, and reports once; a task completes only when its unit's work is done, and a handle that names another owner's
task is an access error, answered so (log entry 128: the model's choice of WRITE and the index for its record); every abort is answered
with its result. Every other descriptor stays as it is. -/
def Obligations.TasksRun : Prop :=
  ∀ (i gen owner cls j : Nat) (v : Word) (r : TaskReq) (s : State),
    let t := s.task i
    let q := r.cls + (if 6 ≤ r.prio then 8 else 0)
    let full : Prop := if 6 ≤ r.prio then 64 ≤ s.readyHigh r.cls else s.rlCap r.cls ≤ s.readyLow r.cls
    let may : Prop := r.cls < 6 ∧ s.ownerFenced r.owner = false ∧ r.owner < 55
    let mine := ((s.plt.tasks.filter fun t => t.2.st != .free).filter fun t => t.2.owner == r.owner).length
    let onlyTask (u : State) (n : Nat) : Prop := ∀ k, k ≠ n → u.task k = s.task k
    let became (u : State) (x : Task) : Prop :=
      u.task i = { x with st := .ready, engine := none, order := s.plt.order, readySince := u.dt, passed := 0 } ∧ onlyTask u i
    let ended (u : State) (aborted : Bool) : Prop := u.task i = { gen := (t.gen + 1) % 256 } ∧
      u.plt.done = s.plt.done ++ [⟨t.owner, t.typ, t.arg, t.quayTag, aborted⟩] ∧ onlyTask u i
    let runs (u : State) (n e : Nat) : Prop := (u.task n).st = .running ∧ (u.engine e).running = some n
    (s.plt.wants = [] → Answers (.taskSubmit none) s s) ∧
    (∀ x rest, s.plt.wants = x :: rest → Answers (.taskSubmit none) s ((s.modPlt fun p => { p with wants := rest }).submitWant x)) ∧
    (6 ≤ r.cls → Answers (.taskSubmit (some r)) s (s.answer r.owner .invalid)) ∧
    (r.cls < 6 → s.ownerFenced r.owner = true → Answers (.taskSubmit (some r)) s (s.answer r.owner .error)) ∧
    (r.cls < 6 → s.ownerFenced r.owner = false → 55 ≤ r.owner → Answers (.taskSubmit (some r)) s (s.answer r.owner .noLease)) ∧
    (may → full → ∃ u, Answers (.taskSubmit (some r)) s u ∧ u.plt.answers = s.plt.answers ++ [(r.owner, .full)] ∧
      (q, r.owner) ∈ u.plt.waitingSet ∧ u.plt.held = s.plt.held ++ [r] ∧ u.plt.tasks = s.plt.tasks ∧ (u.reg Reg.PLT_EVT).getLsbD 0 = true) ∧
    (may → ¬full → ((∀ k, k < 4096 → (s.task k).st ≠ .free) ∨ s.quota r.owner 4 ≤ mine) →
      Answers (.taskSubmit (some r)) s (s.answer r.owner .noLease)) ∧
    (may → ¬full → j < 4096 → (s.task j).st = .free → (∀ k, k < j → (s.task k).st ≠ .free) → mine < s.quota r.owner 4 →
      ∃ u, Answers (.taskSubmit (some r)) s u ∧ u.plt.answers = s.plt.answers ++ [(r.owner, .accepted j (s.task j).gen)] ∧
        (u.task j).st = (if r.wake.isSome then .delayed else .ready) ∧ (u.task j).gen = (s.task j).gen ∧ (u.task j).cls = r.cls ∧
        (u.task j).prio = min r.prio 7 ∧ (u.task j).owner = r.owner ∧ (u.task j).typ = r.typ ∧ (u.task j).affinity = r.affinity ∧
        (u.task j).wake = r.wake ∧ (u.task j).since = s.dt ∧ (u.task j).timeout = min r.timeout 1048575 ∧ (u.task j).quayTag = r.quayTag ∧
        onlyTask u j) ∧
    ((6 ≤ cls ∨ (s.idleEngines cls = [] ∧ s.topList cls = [])) → Answers (.taskDispatch cls) s s) ∧
    (∀ e h, cls < 6 → (s.idleEngines cls).find? (fun e => !(s.engine e).preempted.isEmpty) = some e → e < s.plt.eng.length →
      (s.engine e).preempted.getLast? = some h →
      ((((s.engine e).rstate = .inService → s.topList (engClass e) = []) ∨
          ∃ x rest, s.topList (engClass e) = x :: rest ∧ x.2.prio ≤ (s.task h).prio) →
        ∃ u, Answers (.taskDispatch cls) s u ∧ runs u h e ∧ onlyTask u h) ∧
      (∀ x rest, (s.engine e).rstate = .inService → s.topList (engClass e) = x :: rest → (s.task h).prio < x.2.prio →
        ∃ u, Answers (.taskDispatch cls) s u ∧ runs u x.1 e ∧ onlyTask u x.1)) ∧
    (∀ x rest, cls < 6 → s.idleEngines cls = [] → s.topList cls = x :: rest →
      ((x.2.prio < 6 ∨ s.victim cls x.2 = none) → Answers (.taskDispatch cls) s s) ∧
      (∀ e n, 6 ≤ x.2.prio → s.victim cls x.2 = some e → (s.engine e).running = some n → n ≠ x.1 → e < s.plt.eng.length →
        ∃ u, Answers (.taskDispatch cls) s u ∧ runs u x.1 e ∧ u.task n = { s.task n with st := .preempted } ∧
          (u.engine e).preempted = (s.engine e).preempted ++ [n] ∧ ∀ k, k ≠ n → k ≠ x.1 → u.task k = s.task k)) ∧
    (∀ e e' es x rest, cls < 6 → s.idleEngines cls = e :: e' :: es → (∀ k ∈ s.idleEngines cls, (s.engine k).preempted = []) →
      s.topList cls = x :: rest → e < s.plt.eng.length →
      ((∀ k ∈ s.idleEngines cls, x.2.affinity ≠ some k) → ∃ u, Answers (.taskDispatch cls) s u ∧ runs u x.1 e ∧ onlyTask u x.1) ∧
      (∀ k ∈ s.idleEngines cls, x.2.affinity = some k → k < s.plt.eng.length →
        ∃ u, Answers (.taskDispatch cls) s u ∧ runs u x.1 k ∧ onlyTask u x.1)) ∧
    (∀ e x rest, cls < 6 → s.idleEngines cls = [e] → (s.engine e).preempted = [] → (s.engine e).rstate = .inService →
      s.topList (engClass e) = x :: rest → e < s.plt.eng.length →
      let near := ((x :: rest).take 8).find? fun y => y.2.affinity == some e
      ((4 ≤ x.2.passed ∨ near = none) → ∃ u, Answers (.taskDispatch cls) s u ∧ runs u x.1 e ∧ onlyTask u x.1) ∧
      (∀ y, x.2.passed < 4 → near = some y → y.1 ≠ x.1 → ∃ u, Answers (.taskDispatch cls) s u ∧ runs u y.1 e ∧
        u.task x.1 = { s.task x.1 with passed := (s.task x.1).passed + 1 } ∧ ∀ k, k ≠ y.1 → k ≠ x.1 → u.task k = s.task k)) ∧
    (t.st ≠ .running → Answers (.taskWait i) s s ∧ Answers (.taskComplete i) s s) ∧
    (t.st = .running → ∃ u, Answers (.taskWait i) s u ∧
      u.task i = { t with st := .waiting, engine := none, since := s.dt, waitRes := .none } ∧ onlyTask u i) ∧
    (t.st = .running → s.workDue t = true → Answers (.taskComplete i) s s) ∧
    (t.st = .running → s.workDue t = false → ∃ u, Answers (.taskComplete i) s u ∧ ended u t.abortReq) ∧
    (t.st ≠ .waiting → Answers (.waitEventArrives i) s s) ∧
    (t.st = .waiting → ∃ u, Answers (.waitEventArrives i) s u ∧ became u { t with waitRes := .event } ∧ u.dt = s.dt) ∧
    ((t.st ≠ .waiting ∨ t.timeout = 0) → Answers (.waitTimeout i) s s) ∧
    (t.st = .waiting → t.timeout ≠ 0 → ∃ u, Answers (.waitTimeout i) s u ∧ became u { t with waitRes := .timeout } ∧
      u.dt = max s.dt (t.since + t.timeout * subPerUs)) ∧
    ((t.st ≠ .delayed ∨ s.delayHead i = false ∨ s.fireTime t = none) → Answers (.delayWake i) s s) ∧
    (s.wakeTime t = none → s.fireTime t = none) ∧
    (∀ w, s.wakeTime t = some (w, true) → s.fireTime t = some (w, false)) ∧
    (∀ w, s.wakeTime t = some (w, false) →
      s.fireTime t = (s.tb.tqHist.reverse.find? fun p => w < p.1 && s.delivered p.1).map fun p => (p.1, true)) ∧
    (s.delayHead i = true ↔ ∀ x ∈ s.plt.tasks, x.1 ≠ i → x.2.st = .delayed → x.2.cls = t.cls → s.delayBefore x.2 t = false) ∧
    (∀ a b x y, s.fireTime a = some x → s.fireTime b = some y →
      (s.delayBefore a b = true ↔ x.1 < y.1 ∨ (x.1 = y.1 ∧ (b.prio < a.prio ∨ (a.prio = b.prio ∧ a.order < b.order))))) ∧
    (∀ w, t.st = .delayed → s.delayHead i = true → s.fireTime t = some (w, false) →
      ∃ u, Answers (.delayWake i) s u ∧ became u t ∧ u.dt = max s.dt w) ∧
    (∀ w, t.st = .delayed → s.delayHead i = true → s.fireTime t = some (w, true) →
      ∃ u, Answers (.delayWake i) s u ∧ became u { t with late := true } ∧ (u.reg Reg.PLT_EVT).getLsbD 2 = true) ∧
    ((t.st ≠ .ready ∨ 5 ≤ t.prio) → Answers (.taskAging i) s s) ∧
    (t.st = .ready → t.prio < 5 → ∃ u, Answers (.taskAging i) s u ∧ onlyTask u i ∧
      u.task i = { t with prio := t.prio + 1, aged := true, engine := none, order := s.plt.order, passed := 0,
                          readySince := t.readySince + s.fld Reg.PLT_AGE_US 0 20 * subPerUs }) ∧
    ((t.st = .free ∨ t.gen ≠ gen) →
      Answers (.taskAbort ⟨i, gen⟩ owner) s ((s.answer owner (.abort i gen false)).count (Reg.PLT_CNT_LO 7))) ∧
    (t.st ≠ .free → t.gen = gen → t.owner ≠ owner →
      Answers (.taskAbort ⟨i, gen⟩ owner) s ((s.report 55 0 owner 2 i).answer owner .error)) ∧
    (t.st = .running → t.gen = gen → t.owner = owner → Answers (.taskAbort ⟨i, gen⟩ owner) s (s.setTask i { t with abortReq := true })) ∧
    (t.st ≠ .free → t.st ≠ .running → t.gen = gen → t.owner = owner → ∃ u, Answers (.taskAbort ⟨i, gen⟩ owner) s u ∧ ended u true ∧
      (owner, .abort i gen true) ∈ u.plt.answers) ∧
    (s.Reaches Reg.PLT_TASK_SEL v →
      let n := bitsOf v.toNat 0 12
      let x := s.task n
      ∃ u, Answers (.pltTaskProbe v) s u ∧ u.plt = s.plt ∧ u.reg Reg.PLT_TASK_SEL = BitVec.ofNat 32 n ∧
        u.reg (Reg.PLT_TASK_RES 0) = BitVec.ofNat 32 (2 ^ 31 + x.st.code * 2 ^ 28 + x.prio * 2 ^ 25 + x.cls * 2 ^ 22 + x.owner % 64 * 2 ^ 16 + x.gen * 2 ^ 8) ∧
        u.reg (Reg.PLT_TASK_RES 2) = BitVec.ofNat 32 (s.taskRemain x) ∧ u.reg (Reg.PLT_TASK_RES 3) = BitVec.ofNat 32 x.quayTag)

/-- Rotations, the ready-list caps and the engines' counters. A rotation asked for by register or manifest is ABSENT for an engine
that is not present, BUSY while a rotation runs or an engine of the class is out of service; otherwise the engine drains, and an
engine that holds no task is OUT at once, and from there goes on to LOADING or TESTING with what follows (log entry 128). When
PLT_ROT_DRAIN has passed, its tasks are READY again with
RESTART and without affinity, or ended where their work is done. Loading takes a verified image of the staged slot or ends BAD_IMAGE; a passed test and a loading
lead to REJOINING, and its end to IN_SERVICE, with the rotation's result shown and ROT_DONE set. A cap that would make the sum
exceed 4,096 is ignored with CAP_ERR. CLR clears the nine counters of an engine, CLR_ALL those of every present engine; SEL
writes, preloads and clears advance ENG_CNT_GEN; a wrap comes when the counter's event has
been counted as often as that takes, and sets its bit in ENG_CNT_OVF, the counter standing at what the cycle of the wrap adds beyond; over
every interval the counts of the four slot codes add up to four times the cycles. CNT_CLR clears the
counters of the block whose control register holds it. -/
def Obligations.EnginesRotate : Prop :=
  ∀ (n c e i addr skid x : Nat) (ok busy : Bool) (v : Word) (s : State),
    let asked (cmd : Instr) (s1 : State) (e a : Nat) (mid : Option Nat) : Prop :=
      let taken : Prop := s1.plt.rot.isSome ∨ (classEngines (engClass e)).any (fun x => s1.hasEng x && (s1.engine x).rstate != .inService) = true
      (s1.hasEng e = false → Answers cmd s ((s1.rotShow e 3 true).finishOpt mid stAbsent 3 [])) ∧
      (s1.hasEng e = true → taken → Answers cmd s ((s1.modPlt fun p => { p with rotResult := 2 }).finishOpt mid stBusy 2 [])) ∧
      (s1.hasEng e = true → ¬taken → e < s1.plt.eng.length → ∃ u, Answers cmd s u ∧ u.plt.rot = some ⟨e, a, mid, 1, s1.dt⟩ ∧ u.plt.rotDone = false ∧
        ((s.engine e).running = none → (s.engine e).preempted = [] → (u.engine e).rstate = .out) ∧
        (((s.engine e).running ≠ none ∨ (s.engine e).preempted ≠ []) → (u.engine e).rstate = .draining) ∧
        ∀ d, d ≠ e → u.engine d = s.engine d)
    let sameTasks (u : State) : Prop := u.plt.tasks = s.plt.tasks ∧ u.plt.rot = s.plt.rot ∧ ∀ d, (u.engine d).rstate = (s.engine d).rstate ∧
      (u.engine d).running = (s.engine d).running ∧ (u.engine d).preempted = (s.engine d).preempted
    (s.Reaches Reg.PLT_ROT_CTRL v →
      (v.getLsbD 31 = false → Answers (.pltRotFirmware v) s s ∧ Answers (.pltRotSelftest v) s s) ∧
      (v.getLsbD 31 = true → asked (.pltRotFirmware v) s (bitsOf v.toNat 0 5) 1 none ∧ asked (.pltRotSelftest v) s (bitsOf v.toNat 0 5) 2 none)) ∧
    (∀ m, s.Starts n 0x0071 m → asked (.rotate n) (s.start n m.mid) (bitsOf (byteAt m.bytes 20) 0 5) (byteAt m.bytes 21) (some m.mid)) ∧
    (s.plt.rot = none → Answers .rotDrainTimeout s s ∧ Answers (.engineLoadDone ok) s s ∧ Answers (.engineTestDone ok) s s) ∧
    (∀ r, s.plt.rot = some r → r.engine < s.plt.eng.length →
      let s1 := s.rotBegin
      let g0 := s.engine r.engine
      let g := s1.engine r.engine
      (g0.rstate = .out → g = { g0 with rstate := if r.action = 1 then .loading else .testing } ∧ s1.plt.rot = some r ∧
        ∀ d, d ≠ r.engine → s1.engine d = s.engine d) ∧
      (g0.rstate ≠ .out → s1 = s) ∧
      let image := (mapFind s.flash.fw (2 * engClass r.engine + (1 - nth 0 s.flash.fwSel r.engine))).filter fun f => f.valid && ok
      (g0.rstate ≠ .draining → Answers .rotDrainTimeout s s) ∧
      (g0.rstate = .draining → ∃ u, Answers .rotDrainTimeout s u ∧ (u.engine r.engine).rstate = .out ∧
        (u.engine r.engine).running = none ∧ (u.engine r.engine).preempted = [] ∧ u.dt = max s.dt (r.since + s.fld Reg.PLT_ROT_DRAIN 0 17 * subPerUs) ∧ (∀ d, d ≠ r.engine → u.engine d = s.engine d)) ∧
      (g.rstate ≠ .loading → Answers (.engineLoadDone ok) s s1) ∧
      (g.rstate = .loading → image = none → Answers (.engineLoadDone ok) s
        ((s1.modEng r.engine fun g => { g with rstate := .rejoining }).modPlt fun p => { p with rot := some { r with result := 4 } })) ∧
      (∀ f, g.rstate = .loading → image = some f → ∃ u, Answers (.engineLoadDone ok) s u ∧
        u.engine r.engine = { g with rstate := .rejoining, fwVer := f.ver, fwMeas := f.meas } ∧
        u.flash = { s.flash with fwSel := s.flash.fwSel.set r.engine (1 - nth 0 s.flash.fwSel r.engine) } ∧ u.plt.rot = some r ∧
        ∀ d, d ≠ r.engine → u.engine d = s.engine d) ∧
      (g.rstate ≠ .testing → Answers (.engineTestDone ok) s s1) ∧
      (g.rstate = .testing → s.bst.running = false → s.twn.testEngine = none → ∃ u, Answers (.engineTestDone true) s u ∧
        u.engine r.engine = { g with rstate := .rejoining } ∧ mapFind u.bst.res r.engine = some 1 ∧ u.plt.rot = some r)) ∧
    ((s.engine e).rstate ≠ .rejoining → (∀ k, k < 6 → s.fencedOf k ≤ 1) → s.flt.assumption = false → Answers (.engineRejoinDone e) s s) ∧
    ((s.engine e).rstate = .rejoining → e < s.plt.eng.length → ∃ u, Answers (.engineRejoinDone e) s u ∧
      u.engine e = { s.engine e with rstate := .inService, halted := false } ∧ (∀ d, d ≠ e → u.engine d = s.engine d) ∧
      ((∀ r, s.plt.rot = some r → r.engine ≠ e) → u.plt.rot = s.plt.rot) ∧
      (∀ r, s.plt.rot = some r → r.engine = e → u.plt.rot = none ∧ u.plt.rotEngine = e ∧ u.plt.rotResult = r.result ∧ u.plt.rotDone = true)) ∧
    (6 ≤ c → Answers (.pltRlCapWrite c v) s s) ∧
    (c < 6 → s.Reaches (Reg.PLT_RL_CAP c) v →
      let cap := max 16 (min 3712 (bitsOf v.toNat 0 12))
      let total := ((List.range 6).map fun k => if k = c then cap else s.rlCap k).sum
      (4096 < total + 384 → Answers (.pltRlCapWrite c v) s (s.event Reg.PLT_EVT 6)) ∧
      (total + 384 ≤ 4096 → ∃ u, Answers (.pltRlCapWrite c v) s u ∧ u.reg (Reg.PLT_RL_CAP c) = BitVec.ofNat 32 cap ∧ u.plt.tasks = s.plt.tasks)) ∧
    (let idle := (s.engine e).running.isNone
     let ev := s.cntEvent e i
     let wraps : Prop := s.engCounting e = true ∧ s.cntSelected e i = true ∧ i < 8 ∧ wrapsHere idle ev = true
     let left := 2 ^ 48 - s.reg64 (Reg.ENG_CNT_LO e i) % 2 ^ 48
     let span := wrapSpan s.spanDraw idle ev left
     (¬wraps → Answers (.engCounterWrap e i addr skid busy) s s) ∧
     (wraps → e < 32 →
       let u := (s.freshSkip 0x14).cntSpan e span (some (i, ⟨addr, skid, busy⟩))
       Answers (.engCounterWrap e i addr skid busy) s u ∧ u.reg64 (Reg.ENG_CNT_LO e i) < perCycle ev ∧
         (u.reg (Reg.ENG_CNT_OVF e)).getLsbD i = true ∧ left ≤ span.event ev ∧
         span.event 1 + span.event 2 + span.event 3 + span.event 4 = 4 * span.cycles)) ∧
    (∀ idle, let span := freeSpan s.spanDraw idle
      span.event 1 + span.event 2 + span.event 3 + span.event 4 = 4 * span.cycles ∧ (idle = true → span.event 3 = 4 * span.cycles)) ∧
    ((32 ≤ e ∨ 8 ≤ i) → Answers (.engCntSelWrite e i v) s s ∧ Answers (.engCntPreload e i x) s s) ∧
    (32 ≤ e → Answers (.engCntClr e) s s) ∧
    (e < 32 → s.hasEng e = true → s.Reaches (Reg.ENG_CNT_CTRL e) 2 → ∃ u, Answers (.engCntClr e) s u ∧
      u.reg64 (Reg.ENG_CYCLE_LO e) = 0 ∧ (∀ k, k < 8 → u.reg64 (Reg.ENG_CNT_LO e k) = 0) ∧
      u.reg (Reg.ENG_CNT_GEN e) = s.reg (Reg.ENG_CNT_GEN e) + 1 ∧ u.reg (Reg.ENG_CNT_CTRL e) = s.reg (Reg.ENG_CNT_CTRL e) &&& 1 ∧ sameTasks u) ∧
    (e < 32 → i < 8 → s.hasEng e = true → s.Reaches (Reg.ENG_CNT_SEL e i) v → ∃ u, Answers (.engCntSelWrite e i v) s u ∧
      u.reg (Reg.ENG_CNT_SEL e i) = v &&& 0x3FF ∧ u.reg (Reg.ENG_CNT_GEN e) = s.reg (Reg.ENG_CNT_GEN e) + 1) ∧
    (e < 32 → i < 8 → s.hasEng e = true → s.pwr.state < 2 → ∃ u, Answers (.engCntPreload e i x) s u ∧
      u.reg64 (Reg.ENG_CNT_LO e i) = x % 2 ^ 48 ∧ u.reg (Reg.ENG_CNT_GEN e) = s.reg (Reg.ENG_CNT_GEN e) + 1) ∧
    (s.Reaches Reg.PLT_CNT_CTRL v → ∃ u, Answers (.freezeAllWrite v) s u ∧ u.reg Reg.PLT_CNT_CTRL = v &&& 1 ∧ sameTasks u) ∧
    (s.Reaches Reg.PLT_CNT_CTRL 2 → ∃ u, Answers .clrAll s u ∧ u.reg Reg.PLT_CNT_CTRL = s.reg Reg.PLT_CNT_CTRL &&& 1 ∧ sameTasks u ∧
      ∀ d, d < 32 → s.hasEng d = true → u.reg64 (Reg.ENG_CYCLE_LO d) = 0 ∧ (∀ k, k < 8 → u.reg64 (Reg.ENG_CNT_LO d k) = 0) ∧
        u.reg (Reg.ENG_CNT_GEN d) = s.reg (Reg.ENG_CNT_GEN d) + 1) ∧
    ((∀ b, cntClrBit e = some b → v.getLsbD b = false) → Answers (.counterClear e v) s s) ∧
    (∀ p ∈ [(Reg.PLT_CTRL, 0, Reg.PLT_CNT_LO 0, 10), (Reg.LOG_CTRL, 1, Reg.LOG_CNT_LO 0, 7), (Reg.KEY_CTRL, 0, Reg.KEY_CNT_LO 0, 7)],
      s.Reaches p.1 v → v.getLsbD p.2.1 = true → Answers (.counterClear p.1 v) s (s.clearCounters p.2.2.1 p.2.2.2)) ∧
    (s.Reaches Reg.HIF_CTRL v → v.getLsbD 0 = true → Answers (.counterClear Reg.HIF_CTRL v) s
      (((s.clearCounters (Reg.HIF_CNT_LO 0) 8).clearCounters (Reg.HIF_RP_CNT_LO 0 0) 64).plainWrite Reg.HIF_CTRL v))

/-- The debug port. Test-Logic-Reset selects IDCODE and locks the port. With PORT_DIS every instruction but IDCODE is BYPASS;
EXTEST, HIGHZ and CLAMP act on the pins only while RESET_N is low; the
levels that EXTEST shifts out are a free value. DBG_NONCE draws a fresh nonce, none while the TRNG is in
failure. Every DBG_UNLOCK voids the nonce and checks PORT_DIS, the nonce, LEVEL with the key slot, and the signature, in this
order. Above LOCKED, MEMAP makes a BAR0 access as master 62 and counts it,
and shows ERR for one that is not performed, in an absent block too. At LEVEL ENGINE, ENGDBG acts on a FENCED engine, shows
ERR for every other engine, and HALT makes a record. RELOCK and PORT_DIS lock the port. -/
def Obligations.DebugPort : Prop :=
  ∀ (e o lev a : Nat) (v : Word) (low : Bool) (bits cap : List Bool) (sig : List Byte) (s : State),
    let dis := s.bit Reg.DBG_CTRL 0
    let bypassed (u : State) : Prop := u.dbg = { s.dbg with ir := .bypass, tapActive := true, dr := 0, pinsFromBsr := false, pinsHighz := false } ∧
      u.regs = s.regs
    let select (ir : TapIr) (fromBsr highz : Bool) : Dbg := { s.dbg with ir := ir, tapActive := true, pinsFromBsr := fromBsr, pinsHighz := highz }
    let shows (u : State) (n : Nat) : Prop := u.dbg.dr = n ∧ u.out = s.out ++ [.tdo n]
    let locked (u : State) : Prop := u.dbg.level = 0 ∧ (s.dbg.level = 0 → u.logb = s.logb ∧ u.reg Reg.DBG_EVT = s.reg Reg.DBG_EVT) ∧
      (s.dbg.level ≠ 0 → (u.reg Reg.DBG_EVT).getLsbD 2 = true ∧ ∃ r, u.logb.raised = s.logb.raised ++ [r] ∧ r.cls = 17 ∧ r.src = 62 ∧
        r.detail = padTo 16 [3, 0, 0])
    let failed (cmd : Instr) (n : Nat) : Prop := ∃ u, Answers cmd s u ∧ u.dbg.nonce = none ∧ u.dbg.level = s.dbg.level ∧ u.dbg.unlockRes = n ∧
      u.dbg.dr = n ∧ (u.reg Reg.DBG_EVT).getLsbD 1 = true
    (∃ u, Answers .dbgTapReset s u ∧ locked u ∧ u.dbg.ir = .idcode ∧ u.dbg.tapActive = false ∧ u.dbg.pinsFromBsr = false ∧ u.dbg.pinsHighz = false) ∧
    ((low = false ∨ dis = true) → (∃ u, Answers (.extest low bits) s u ∧ bypassed u) ∧ (∃ u, Answers (.highz low) s u ∧ bypassed u) ∧
      ∃ u, Answers (.clamp low) s u ∧ bypassed u) ∧
    (low = true → dis = false →
      let n := s.freshVal % 2 ^ bits.length
      Answers (.extest low bits) s (({ s.freshNext with dbg := { select .extest true false with bsr := bits, dr := n } } : State).emit (.tdo n)) ∧
      Answers (.highz low) s { s with dbg := { select .highz false true with dr := 0 } } ∧
      Answers (.clamp low) s { s with dbg := { select .clamp true false with dr := 0 } }) ∧
    (dis = true → (∃ u, Answers (.samplePreload cap bits) s u ∧ bypassed u) ∧ (∃ u, Answers .dbgNonce s u ∧ bypassed u) ∧
      failed (.dbgUnlock lev sig) 3) ∧
    (dis = false → ∃ u n, Answers (.samplePreload cap bits) s u ∧ shows u n ∧ u.dbg = { select .sample false false with bsr := bits, dr := n } ∧
      ∀ i, i < cap.length → n.testBit i = nth false cap i) ∧
    (∃ u, Answers .idcode s u ∧ shows u s.idcodeWord ∧ u.dbg = { select .idcode false false with dr := s.idcodeWord }) ∧
    s.idcodeWord % 2 ^ 12 = 0x997 ∧ s.idcodeWord / 2 ^ 28 = s.hw.stepping / 2 ^ 4 % 16 ∧
    (∃ u, Answers .bypass s u ∧ bypassed u ∧ shows u 0) ∧
    (dis = false → s.key.trngFail = true → ∃ u, Answers .dbgNonce s u ∧ u.dbg.nonce = none ∧ shows u 0) ∧
    (dis = false → s.key.trngFail = false → ∃ u n, Answers .dbgNonce s u ∧ n < 2 ^ 64 ∧ u.dbg.nonce = some n ∧ shows u n ∧ u.fresh = s.fresh + 1) ∧
    (dis = false → s.dbg.nonce = none → failed (.dbgUnlock lev sig) 1) ∧
    (∀ n, dis = false → s.dbg.nonce = some n →
      let slot := s.fld Reg.DBG_AUTH_SLOT 0 6
      ((lev ≠ 1 ∧ lev ≠ 2) ∨ s.tokenSlotOk slot = false → failed (.dbgUnlock lev sig) 2) ∧
      ((lev = 1 ∨ lev = 2) → s.tokenSlotOk slot = true →
        let s1 := { s with dbg := { select .unlock false false with nonce := none, dr := 4 } }
        let r := s1.requestVerify (.verifyUnlock lev) slot (ascii "FNDBGUNL" ++ s.deviceId ++ leBytes 1 lev ++ leBytes 8 n) (padTo 64 sig)
        (r.2 = true → Answers (.dbgUnlock lev sig) s { r.1 with dbg := { r.1.dbg with unlockReq := some lev } }) ∧
        (r.2 = false → failed (.dbgUnlock lev sig) 2))) ∧
    ((dis = true ∨ s.dbg.level = 0) → (∃ u, Answers (.memapRead o) s u ∧ bypassed u) ∧ ∃ u, Answers (.memapWrite o v) s u ∧ bypassed u) ∧
    (dis = false → s.dbg.level ≠ 0 → o < 2 ^ 24 →
      let s1 := { s.count (Reg.DBG_CNT_LO 2) with dbg := select .memap false false }
      (o % 4 ≠ 0 → s.blockAbsent o = false →
        Answers (.memapRead o) s ((s1.report 55 0 62 1 o).memapShow true 0) ∧
        Answers (.memapWrite o v) s ((s1.report 55 0 62 2 o).memapShow true 0)) ∧
      (o % 4 = 0 → s.blockAbsent o = true → Answers (.memapRead o) s ({ s1 with rdata := 0 }.memapShow true 0) ∧
        Answers (.memapWrite o v) s (s1.memapShow true 0)) ∧
      (o % 4 = 0 → s.Readable o → (rowAt o).isSome → blockOf o ≠ .key → Answers (.memapRead o) s ((s1.readAct o).memapShow false (s1.readAct o).rdata)) ∧
      (o % 4 = 0 → s.Reaches o v → (rowAt o).isSome → blockOf o ∈ [.outp, .osc, .bst] → o ∉ [Reg.OUT_CTRL, Reg.OSC_CTRL, Reg.BST_CTRL] →
        Answers (.memapWrite o v) s ((s1.plainWrite o v).memapShow false 0)) ∧
      (o % 4 = 0 → s.blockAbsent o = false → s.blockStopped o = true → (rowAt o).isSome →
        ∃ u, Answers (.memapRead o) s u ∧ u.pwr.waiting = s.pwr.waiting ++ [⟨false, o, none, 62⟩] ∧ u.dbg.dr = 0) ∧
      (o % 4 = 0 → (rowAt o).isSome → blockOf o = .key → Answers (.memapRead o) s ({ s1 with rdata := 0 }.memapShow false 0) ∧ Answers (.memapWrite o v) s (s1.memapShow false 0))) ∧
    (∀ cmd ∈ [Instr.engdbgHalt e, .engdbgResume e, .engdbgStep e, .engdbgReadLocal e a, .engdbgReadReg e a], e < 32 →
      ((dis = true ∨ s.dbg.level ≠ 2) → ∃ u, Answers cmd s u ∧ bypassed u ∧ u.plt = s.plt) ∧
      (dis = false → s.dbg.level = 2 → (s.engine e).rstate ≠ .fenced →
        ∃ u, Answers cmd s u ∧ shows u (e * 2 ^ 67 + 2 ^ 66 + 2 ^ 65) ∧ u.plt = s.plt ∧ u.dbg.lastEngine = e)) ∧
    (e < 32 → e < s.plt.eng.length → dis = false → s.dbg.level = 2 → (s.engine e).rstate = .fenced →
      let done (u : State) (halted : Bool) : Prop := (∃ pc data, shows u (e * 2 ^ 67 + 2 ^ 66 + b2n halted * 2 ^ 64 + pc * 2 ^ 32 + data) ∧ pc < 2 ^ 32 ∧
          data < 2 ^ 32) ∧ u.dbg.lastEngine = e ∧ u.dbg.ir = .engdbg ∧ u.engine e = { s.engine e with halted := halted } ∧
          ∀ d, d ≠ e → u.engine d = s.engine d
      (∃ u r, Answers (.engdbgHalt e) s u ∧ done u true ∧ (u.reg Reg.DBG_EVT).getLsbD 3 = true ∧ u.logb.raised = s.logb.raised ++ [r] ∧ r.cls = 17 ∧
        r.detail = padTo 16 [4, 2, BitVec.ofNat 8 e]) ∧
      (∃ u, Answers (.engdbgResume e) s u ∧ done u false) ∧ (∃ u, Answers (.engdbgStep e) s u ∧ done u true) ∧
      (∃ u, Answers (.engdbgReadLocal e a) s u ∧ done u (s.engine e).halted) ∧ ∃ u, Answers (.engdbgReadReg e a) s u ∧ done u (s.engine e).halted) ∧
    (∃ u, Answers .dbgRelock s u ∧ locked u ∧ u.bit Reg.DBG_CTRL 0 = dis) ∧
    (∃ u, Answers .dbgPortDis s u ∧ locked u ∧ u.bit Reg.DBG_CTRL 0 = true)

/-- Ring pairs and manifests. EN on a DISABLED pair whose sizes and bases pass the check starts it, on any other leaves error 1;
EN 0 stops a RUNNING pair, its waiting deliveries dropped and its manifests not started ABORTED. A doorbell moves SQ_TAIL or
releases entries, or moves the pair to ERROR; outside FULL it waits and wakes the device. Manifests are fetched from the pairs in turn, and a fetched manifest
joins its pair. A PCI Express error of a ring access adds to the AER status, by a free value. A completion is one entry of 64 bytes at
CQ_TAIL; with none queued, the oldest action under way ends first. A delivery is written, waits or is dropped; the two timers end at their
due times. ABORT has one outcome for itself and one for its target. Of every manifest
command nothing happens unless the pair's next manifest has its opcode. HOST_SEND, INJECT, SUBSYS_SET and the capture manifests. -/
def Obligations.RingPairsRun : Prop :=
  ∀ (n : Nat) (v ver : Word) (bytes : List Byte) (buf : Option (List Byte)) (ok sig : Bool) (s : State),
    let r := s.ring n
    let ctrl := Reg.HIF_RP_CTRL n
    let only (u : State) : Prop := ∀ k, k ≠ n → u.ring k = s.ring k
    let size (at_ : Nat) := s.fld (Reg.HIF_RP_SIZE n) at_ 4
    let good : Prop := 4 ≤ size 0 ∧ size 0 ≤ 12 ∧ 4 ≤ size 8 ∧ size 8 ≤ 12 ∧ size 0 ≤ size 8 ∧ (size 16 = 0 ∨ (8 ≤ size 16 ∧ size 16 ≤ 14)) ∧
      s.fld (Reg.HIF_RP_SQ_BASE_LO n) 0 12 = 0 ∧ s.fld (Reg.HIF_RP_CQ_BASE_LO n) 0 12 = 0 ∧ s.fld (Reg.HIF_RP_DATA_BASE_LO n) 0 12 = 0
    (16 ≤ n → Answers (.ringPairEnWrite n v) s s ∧ Answers (.sqTailDoorbell n v) s s ∧ Answers (.cqHeadDoorbell n v) s s) ∧
    (n < 16 → n < s.hif.ring.length → s.Reaches ctrl v →
      (r.st = .disabled → v.getLsbD 0 = false → Answers (.ringPairEnWrite n v) s (s.setReg ctrl (v &&& 0xFFFFFF00))) ∧
      (r.st = .disabled → v.getLsbD 0 = true → good → ∃ u, Answers (.ringPairEnWrite n v) s u ∧ only u ∧ u.bit ctrl 0 = true ∧
        u.ring n = { ({} : Ring) with st := .running, phase := true, dropped := r.dropped }) ∧
      (r.st = .disabled → v.getLsbD 0 = true → ¬good → ∃ u, Answers (.ringPairEnWrite n v) s u ∧ only u ∧ u.bit ctrl 0 = false ∧
        u.ring n = { r with err := 1 }) ∧
      ((r.st = .stopping ∨ (v.getLsbD 0 = true ∧ r.st ≠ .disabled)) → Answers (.ringPairEnWrite n v) s s) ∧
      (r.st = .error → v.getLsbD 0 = false → Answers (.ringPairEnWrite n v) s ((s.setFld ctrl 0 1 0).ringSettle n)) ∧
      (r.st = .running → v.getLsbD 0 = false → Answers (.ringPairEnWrite n v) s
        (((r.fetched.filter fun f => !f.started).foldl (fun (s : State) f => s.finishRaw f.mid stAborted 0 [])
          (r.waiting.foldl (fun (s : State) d => s.dropDelivery n d)
            ((s.setFld ctrl 0 1 0).modRing n fun r => { r with st := .stopping, waiting := [] }))).ringSettle n))) ∧
    (n < 16 →
      let i := bitsOf v.toNat 0 12
      let rel := if i = r.cqTail then r.unreleased else (i + s.cqSize n - r.cqHead) % s.cqSize n
      (s.pwr.state ≠ 0 → Answers (.sqTailDoorbell n v) s (s.holdAccess ⟨true, 8 * n, some v, 63⟩ 1) ∧
        Answers (.cqHeadDoorbell n v) s (s.holdAccess ⟨true, 8 * n + 4, some v, 63⟩ 1)) ∧
      (s.pwr.state = 0 →
        (r.st ≠ .running → Answers (.sqTailDoorbell n v) s s.dbError ∧ Answers (.cqHeadDoorbell n v) s s.dbError) ∧
        (r.st = .running → i < s.sqSize n → Answers (.sqTailDoorbell n v) s (s.modRing n fun r => { r with sqTail := i })) ∧
        (r.st = .running → s.sqSize n ≤ i → Answers (.sqTailDoorbell n v) s (s.ringError n 2).dbError) ∧
        (r.st = .running → (s.cqSize n ≤ i ∨ r.unreleased < rel) → Answers (.cqHeadDoorbell n v) s (s.ringError n 2).dbError) ∧
        (r.st = .running → i < s.cqSize n → rel ≤ r.unreleased → Answers (.cqHeadDoorbell n v) s
          (State.placeWaiting r.waiting.length (s.modRing n fun r => { r with cqHead := i, unreleased := r.unreleased - rel }) n)))) ∧
    (∀ k, s.fetchable k = true ↔ (s.ring k).st = .running ∧ s.hif.pcie.bme = true ∧ (s.ring k).sqHead ≠ (s.ring k).sqTail ∧
      (s.ring k).outstanding + (s.ring k).unreleased < s.cqSize k ∧ (s.ring k).waiting = []) ∧
    s.fetchTurn = ((List.range 16).map fun i => (s.hif.lastFetch + 1 + i) % 16).find? s.fetchable ∧
    (s.fetchTurn ≠ some n → Answers (.manifestFetch n bytes) s s) ∧
    (s.fetchTurn = some n → Answers (.manifestFetch n bytes) s
        (((({ s with hif := { s.hif with nextMid := s.hif.nextMid + 1, lastFetch := n } }.modRing n fun r => { r with sqHead := (r.sqHead + 1) % s.sqSize n, fetched := r.fetched ++ [({ mid := s.hif.nextMid, bytes := padTo 64 bytes } : Fetched)] }).count
          (Reg.HIF_CNT_LO 0)).count (Reg.HIF_RP_CNT_LO n 0)).autoAll)) ∧
    (¬(n < 16 ∧ (r.st = .running ∨ r.st = .stopping) ∧ s.hif.pcie.bme = true) → r.done ≠ [] → Answers (.manifestComplete n) s s) ∧
    (r.done = [] → (∀ f ∈ r.fetched, f.act = none) → Answers (.manifestComplete n) s s) ∧
    (∀ s1 c cs, (r.done ≠ [] ∧ s1 = s) ∨ (r.done = [] ∧ ∃ f, r.fetched.find? (fun f => f.act.isSome) = some f ∧ s1 = s.actEnd f) →
      let r1 := s1.ring n
      n < 16 → n < s.hif.ring.length → (r1.st = .running ∨ r1.st = .stopping) → s.hif.pcie.bme = true → r1.done = c :: cs →
      ∃ u, Answers (.manifestComplete n) s u ∧ (∀ k, k ≠ n → u.ring k = s1.ring k) ∧ (u.ring n).done = cs ∧ (u.ring n).fetched = r1.fetched ∧
        (u.ring n).unreleased = r1.unreleased + 1 ∧ (u.ring n).cqTail = (r1.cqTail + 1) % s.cqSize n ∧
        (u.ring n).phase = (if (r1.cqTail + 1) % s.cqSize n = 0 then !r1.phase else r1.phase) ∧
        u.out = s1.out ++ [.hostWrite (s.reg64 (Reg.HIF_RP_CQ_BASE_LO n) + 64 * r1.cqTail) (leBytes 1 (b2n r1.phase) ++ leBytes 1 c.status ++
          leBytes 2 c.opcode ++ leBytes 4 c.tag ++ leBytes 2 r1.sqHead ++ leBytes 2 0 ++ leBytes 4 0 ++ tsBytes c.at_ ++ leBytes 4 c.detail0 ++
          padTo 32 c.detail)]) ∧
    (¬(n < 16 ∧ (r.st = .running ∨ r.st = .stopping)) → Answers (.hostDmaError n) s s) ∧
    (n < 16 → (r.st = .running ∨ r.st = .stopping) →
      let s1 := ((s.ringError n 3).count (Reg.HIF_CNT_LO 7)).event Reg.HIF_EVT 1
      Answers (.hostDmaError n) s
        { s1.freshNext with hif := { s1.hif with pcie := { s1.hif.pcie with aerStatus := s1.hif.pcie.aerStatus ||| BitVec.ofNat 32 s1.freshVal } } }) ∧
    (s.hif.deliv = [] → Answers .delivery s s) ∧
    (∀ d ds, s.hif.deliv = d :: ds →
      let s1 := { s with hif := { s.hif with deliv := ds } }
      let q := s.ring d.ring
      let up : Prop := q.st = .running ∧ s.hif.pcie.bme = true
      let fits : Prop := d.data.length ≤ s.dataSize d.ring
      let free : Prop := q.outstanding + q.unreleased < s.cqSize d.ring ∧ q.waiting = []
      (¬up → Answers .delivery s (s1.dropDelivery d.ring d)) ∧
      (up → ¬fits → Answers .delivery s ((s1.count (Reg.HIF_CNT_LO 4)).dropDelivery d.ring d)) ∧
      (up → fits → free → Answers .delivery s (s1.writeDelivery d.ring d)) ∧
      (up → fits → ¬free → s.fld (Reg.HIF_RP_TIMEOUT d.ring) 0 20 = 0 → Answers .delivery s (s1.dropDelivery d.ring d)) ∧
      (up → fits → ¬free → s.fld (Reg.HIF_RP_TIMEOUT d.ring) 0 20 ≠ 0 →
        Answers .delivery s (s1.modRing d.ring fun q => { q with waiting := q.waiting ++ [{ d with since := s.dt }] }))) ∧
    (r.waiting = [] → Answers (.deliveryTimeout n) s s) ∧
    (∀ d ds, r.waiting = d :: ds → Answers (.deliveryTimeout n) s
      (((s.advance (d.since + s.fld (Reg.HIF_RP_TIMEOUT n) 0 20 * subPerUs)).modRing n fun r => { r with waiting := ds }).dropDelivery n d)) ∧
    (r.coalCount = 0 → Answers (.coalesceTimer n) s s) ∧
    (0 < r.coalCount → n < s.hif.ring.length → ∃ u, Answers (.coalesceTimer n) s u ∧ only u ∧ u.ring n = { r with coalCount := 0 } ∧
      u.dt = max s.dt (r.coalFrom + s.fld ctrl 16 16 * subPerUs) ∧
      (n < 16 → u.msix.due.getLsbD n = true)) ∧
    (∀ p ∈ [(0x0000, Instr.nop n), (0x0001, .abort n), (0x0010, .cfgLoad n buf), (0x0011, .cfgWrite n buf), (0x0012, .cfgCopy n),
        (0x0013, .commit n), (0x0014, .cfgSave n ok), (0x0015, .cfgRead n ok), (0x0020, .hostSend n buf), (0x0021, .inject n buf),
        (0x0030, .almAck n), (0x0031, .almHost n), (0x0040, .capArm n), (0x0041, .capTriggerManifest n), (0x0042, .capAbort n),
        (0x0050, .mtrReset n buf), (0x0051, .mtrRead n ok), (0x0060, .logNote n), (0x0061, .logClear n buf), (0x0070, .fwStage n buf sig ok ver),
        (0x0071, .rotate n), (0x0072, .subsysSet n ok), (0x00A0, .keyWrite n buf), (0x00A1, .keyReplace n buf), (0x00A2, .keyErase n),
        (0x00A3, .keyPubkey n ok), (0x00A4, .keyClose n), (0x00B0, .twnHandover n), (0x00B1, .twnResync n), (0x00B2, .twnSave n ok),
        (0x00C0, .bstRun n), (0x00C1, .fltRelease n), (0x00C2, .fltInject n)],
      (∀ m, ¬s.Starts n p.1 m) → Answers p.2 s s) ∧
    (∀ m, s.Starts n 0x0000 m → Answers (.nop n) s ((s.start n m.mid).finish0 m.mid stDone)) ∧
    (∀ m, s.Starts n 0x0001 m →
      let s1 := s.start n m.mid
      let p := bitsOf (byteAt m.bytes 20) 0 4
      let target := (s1.ring p).target (leAt m.bytes 24 4)
      ((∀ f, target ≠ some (some f)) → Answers (.abort n) s (s1.finish0 m.mid stAlreadyDone)) ∧
      (∀ f, target = some (some f) →
        let commits : Prop := mOpcode f.bytes = 0x0013 ∧ s.cfg.commit.any (fun c => c.mid == some f.mid) = true
        (mOpcode f.bytes = 0x0001 → Answers (.abort n) s (s1.finish0 m.mid stInvalidParam)) ∧
        (mOpcode f.bytes ≠ 0x0001 → f.started = false → Answers (.abort n) s ((s1.finish0 f.mid stAborted).finish0 m.mid stDone)) ∧
        (f.started = true → commits → Answers (.abort n) s ((s1.dropCommit.finish0 f.mid stAborted).finish0 m.mid stDone)) ∧
        (∀ j, f.started = true → mOpcode f.bytes = 0x0020 → s.hif.jobs.find? (fun j => j.mid == f.mid) = some j → Answers (.abort n) s
          (({ s1 with hif := { s1.hif with jobs := s1.hif.jobs.filter fun j => j.mid != f.mid } }.finish f.mid stAborted j.queued.length []).finish0
            m.mid stDone)) ∧
        (f.started = true → mOpcode f.bytes ≠ 0x0001 → mOpcode f.bytes ≠ 0x0020 → ¬commits → f.act ≠ none →
          Answers (.abort n) s (((s1.actAbort f).1.finish f.mid stAborted (s1.actAbort f).2 []).finish0 m.mid stDone)) ∧
        (f.started = true → mOpcode f.bytes ≠ 0x0001 → mOpcode f.bytes ≠ 0x0020 → ¬commits → f.act = none → Answers (.abort n) s
          (s1.modRing p fun r => { r with fetched := r.fetched.map fun g => if g.mid = f.mid then { g with abortedBy := g.abortedBy ++ [m.mid] } else g })))) ∧
    (∀ m, s.Starts n 0x0020 m →
      let s1 := s.start n m.mid
      let p := bitsOf (byteAt m.bytes 20) 0 3
      let frames (data : List Byte) := s1.sendFrames p (bitOf (byteAt m.bytes 21) 0) (leAt m.bytes 22 2) (byteAt m.bytes 24) data
      Answers (.hostSend n none) s (s1.finish0 m.mid stDmaError) ∧
      (∀ data, frames data = none → Answers (.hostSend n (some data)) s (s1.finish0 m.mid stInvalidParam)) ∧
      (∀ data, frames data = some [] → Answers (.hostSend n (some data)) s (s1.finish0 m.mid stDone)) ∧
      (∀ data f fs, frames data = some (f :: fs) →
        Answers (.hostSend n (some data)) s ((f :: fs).zipIdx.foldl (fun (s : State) x => s.offer p .host (.raw x.1) x.1.length (some (m.mid, x.2)))
          { s1 with hif := { s1.hif with jobs := s1.hif.jobs ++ [{ mid := m.mid, left := fs.length + 1 }] } }))) ∧
    (∀ m, s.Starts n 0x0021 m →
      let s1 := s.start n m.mid
      let ts := tsOf (slice m.bytes 28 12)
      ((ts = none ∨ n ≠ s.fld Reg.BIN_CTRL 2 4) → Answers (.inject n buf) s (s1.finish0 m.mid stInvalidParam)) ∧
      (∀ t, ts = some t → n = s.fld Reg.BIN_CTRL 2 4 → Answers (.inject n none) s (s1.finish0 m.mid stDmaError) ∧
        (∀ data, s.bit Reg.BIN_CTRL 0 = false → Answers (.inject n (some data)) s (s1.finish0 m.mid stRefused)) ∧
        (∀ data, s.bit Reg.BIN_CTRL 0 = true →
          let s2 := (s1.count (Reg.BIN_CNT_LO 1)).intakeEnter { listener := bitsOf (byteAt m.bytes 20) 0 4, origin := 6, srcIp := BitVec.ofNat 32 (leAt m.bytes 24 4), srcPort := 0, payload := data, csumOk := true, arrival := if t = 0 then s.dt else t, mid := some m.mid }
          (s.bin.intakeQ.length < 1024 → Answers (.inject n (some data)) s s2) ∧
          (1024 ≤ s.bin.intakeQ.length → Answers (.inject n (some data)) s (s2.finish m.mid stDone 2 []))))) ∧
    (∀ m, s.Starts n 0x0072 m → Answers (.subsysSet n true) s
        (({ s.start n m.mid with flash := { s.flash with subsys := some (leAt m.bytes 20 2, leAt m.bytes 22 2) } }).finish0 m.mid stDone) ∧
      Answers (.subsysSet n false) s ((s.start n m.mid).flashFail.finish0 m.mid stFlashError)) ∧
    (∀ m, s.Starts n 0x0040 m →
      let s1 := s.start n m.mid
      let c := bitsOf (byteAt m.bytes 20) 0 2
      Answers (.capArm n) s ((s1.capArm c).finish m.mid (if s1.capArmErr c = 0 then stDone else stRefused) (s1.capArmErr c) [])) ∧
    (∀ m, s.Starts n 0x0041 m →
      Answers (.capTriggerManifest n) s (((s.start n m.mid).capSwtrig (bitsOf (byteAt m.bytes 20) 0 2)).finish0 m.mid stDone)) ∧
    (∀ m, s.Starts n 0x0042 m →
      let c := bitsOf (byteAt m.bytes 20) 0 2
      let s1 := (s.start n m.mid).capAbort c
      let res := (s1.capCh c).abortRes
      Answers (.capAbort n) s (s1.finish m.mid (if res = 1 then stDone else stAlreadyDone) res []))

/-- Configuration sets, commits and the flash manifests. While a commit is pending SHADOW is locked: a build manifest completes
BUSY, and a word written through CFG_SWIN_DATA is ignored with SHADOW_BUSY. A load, a section write or a copy changes SHADOW and
returns its check; an image or record that is refused changes nothing. COMMIT checks SET_CHECK and starts validation, which
refuses the commit with its first fault or fixes E. CFG_SAVE, CFG_READ and FW_STAGE have an action under way from their start.
At its end CFG_SAVE has written a slot, whose boot mark went first; a failed write leaves the slot empty. CFG_READ has returned the
canonical form. FW_STAGE has written a slot no engine of the class runs from, or left it invalid. -/
def Obligations.ConfigurationRuns : Prop :=
  ∀ (n : Nat) (v ver : Word) (buf : Option (List Byte)) (data : List Byte) (ok sig : Bool) (s : State),
    let locked : Prop := s.cfg.commit ≠ none
    let s1 (m : Fetched) := s.start n m.mid
    let ends (cmd : Instr) (m : Fetched) (status : Nat) : Prop := Answers cmd s ((s1 m).finish0 m.mid status)
    let builds (cmd : Instr) (m : Fetched) (set : CfgSet) (skipped : Nat) : Prop :=
      Answers cmd s ({ s1 m with cfg := { s.cfg with shadow := set, skipped := skipped } }.finish m.mid stDone (crc32c (s.canonical set)) [])
    (∀ m, s.Starts n 0x0010 m →
      let merge := bitOf (byteAt m.bytes 20) 0
      let fromFlash := bitOf (byteAt m.bytes 20) 1
      let slot := if bitsOf (byteAt m.bytes 21) 0 1 = 0 then s.flash.cfg0 else s.flash.cfg1
      (locked → ends (.cfgLoad n buf) m stBusy) ∧
      (¬locked → fromFlash = true → (∀ f, slot = some f → f.checkOk = false) → ends (.cfgLoad n buf) m stCheckFail) ∧
      (∀ f, ¬locked → fromFlash = true → slot = some f → f.checkOk = true → Answers (.cfgLoad n buf) s
        ({ s1 m with cfg := { s.cfg with imageId := f.imageId, shadow := f.set, skipped := 0 } }.finish m.mid stDone (crc32c (s.canonical f.set)) [])) ∧
      (¬locked → fromFlash = false → ends (.cfgLoad n none) m stDmaError) ∧
      (∀ st, ¬locked → fromFlash = false → parseImage data = .error st → ends (.cfgLoad n (some data)) m st) ∧
      (∀ secs, ¬locked → fromFlash = false → parseImage data = .ok secs →
        let put := s.putSections secs (if merge then s.cfg.shadow else []) (if merge then s.cfg.skipped else 0)
        (put = none → ends (.cfgLoad n (some data)) m stInvalidParam) ∧
        (∀ set k, put = some (set, k) → Answers (.cfgLoad n (some data)) s
          ({ s1 m with cfg := { s.cfg with imageId := BitVec.ofNat 32 (leAt data 12 4), shadow := set, skipped := k } }.finish m.mid stDone
            (crc32c (s.canonical set)) [])))) ∧
    ((data.length < 64 ∨ slice data 0 4 ≠ ascii "FNCF" ∨ leAt data 4 2 ≠ 1) → parseImage data = .error stInvalidParam) ∧
    (∀ m, s.Starts n 0x0011 m →
      let typ := leAt m.bytes 20 2
      (locked → ends (.cfgWrite n buf) m stBusy) ∧
      (¬locked → ends (.cfgWrite n none) m stDmaError) ∧
      (¬locked → s.sectionPresent typ = false → builds (.cfgWrite n (some data)) m s.cfg.shadow (s.cfg.skipped + 1)) ∧
      (¬locked → s.sectionPresent typ = true → s.putRecords typ data.length s.cfg.shadow data = none →
        ends (.cfgWrite n (some data)) m stInvalidParam) ∧
      (∀ set, ¬locked → s.sectionPresent typ = true → s.putRecords typ data.length s.cfg.shadow data = some set →
        builds (.cfgWrite n (some data)) m set s.cfg.skipped)) ∧
    (∀ m, s.Starts n 0x0012 m → (locked → ends (.cfgCopy n) m stBusy) ∧ (¬locked → builds (.cfgCopy n) m s.cfg.active 0)) ∧
    (∀ m, s.Starts n 0x0013 m →
      let inUse : Prop := s.carriesDir = true ∧ s.dirBusy = true
      let same : Prop := crc32c (s.canonical s.cfg.shadow) = leAt m.bytes 20 4
      (locked → ¬inUse → ends (.commit n) m stBusy) ∧
      (inUse → Answers (.commit n) s ({ s1 m with bin := { s.bin with dirErr := 1 } }.finish0 m.mid stBusy)) ∧
      (¬locked → ¬inUse → ¬same → ends (.commit n) m stCheckFail) ∧
      (¬locked → ¬inUse → same → ∃ u c, Answers (.commit n) s u ∧ u.cfg = { s.cfg with commit := some c } ∧ c.mid = some m.mid ∧
        c.modeAbs = bitOf (byteAt m.bytes 24) 0 ∧ c.n = byteAt m.bytes 25 ∧ c.absSec = leAt m.bytes 28 6 ∧ c.absK = byteAt m.bytes 34 ∧
        c.validated = false ∧ c.withDir = s.carriesDir ∧ (s.carriesDir = false → u.bin = s.bin) ∧
        (s.carriesDir = true → u.bin = { s.bin with other := bankOf s.cfg.shadow, pending := true, commitHold := true, eff := none }))) ∧
    ((∀ c, s.cfg.commit = some c → c.validated = true) → Answers .commitValidationDone s s) ∧
    (∀ c, s.cfg.commit = some c → c.validated = false → c.withDir = false →
      let when_ := s.commitInstant c
      let fault := s.setFault s.cfg.shadow false (s.bankAt ((when_.map (·.2.2)).getD s.dt))
      (∀ f, fault = some f → Answers .commitValidationDone s (s.commitRefuse c f)) ∧
      (fault = none → when_ = none → Answers .commitValidationDone s (s.commitRefuse c ⟨1, 15, 0, 7⟩)) ∧
      (∀ sec k e, fault = none → when_ = some (sec, k, e) → Answers .commitValidationDone s
        { s with cfg := { s.cfg with defaults := false, commit := some { c with validated := true, eff := e, effSec := sec, effK := k } } })) ∧
    (∀ c, s.cfg.commit = some c → c.validated = false → c.withDir = true →
      let when_ := s.commitInstant c
      let fault := s.setFault s.cfg.shadow true (bankOf s.cfg.shadow)
      (∀ f, fault = some f → Answers .commitValidationDone s ((s.commitDirReport c).commitRefuse c f)) ∧
      (fault = none → when_ = none → Answers .commitValidationDone s (s.commitRefuse c ⟨1, 15, 0, 7⟩)) ∧
      (∀ sec k e, fault = none → when_ = some (sec, k, e) → Answers .commitValidationDone s
        (({ s with cfg := { s.cfg with defaults := false, commit := some { c with validated := true, eff := e, effSec := sec, effK := k } } }.dirFix
          sec k e).modBin fun b => { b with commitHold := true }))) ∧
    (∀ m, s.Starts n 0x0014 m →
      let set := if bitOf (byteAt m.bytes 20) 0 then s.cfg.shadow else s.cfg.active
      let slot := bitsOf (byteAt m.bytes 21) 0 1
      let kept := if s.flash.bootSlot = some slot then none else s.flash.bootSlot
      let s2 : State := { s1 m with flash := { s.flash with bootSlot := kept } }
      let wrote (c : Option FlashCfg) (boot : Option Nat) : State :=
        { s1 m with flash := { s.flash with bootSlot := boot, cfg0 := if slot = 0 then c else s.flash.cfg0, cfg1 := if slot = 0 then s.flash.cfg1 else c } }
      Answers (.cfgSave n ok) s (s2.setAct n m.mid (.cfgSave set s.cfg.imageId ok)) ∧
      s2.actEnd { m with act := some (.cfgSave set s.cfg.imageId true) } =
        (wrote (some ⟨set, s.cfg.imageId, true⟩) (if bitOf (byteAt m.bytes 22) 0 then some slot else kept)).finish m.mid stDone (s.canonical set).length [] ∧
      s2.actEnd { m with act := some (.cfgSave set s.cfg.imageId false) } = (wrote none kept).flashFail.finish0 m.mid stFlashError) ∧
    (∀ m, s.Starts n 0x0015 m →
      let img := s.canonical (if bitOf (byteAt m.bytes 20) 0 then s.cfg.shadow else s.cfg.active)
      (mBufLen m.bytes < img.length → Answers (.cfgRead n ok) s ((s1 m).finish m.mid stInvalidParam img.length [])) ∧
      (img.length ≤ mBufLen m.bytes →
        Answers (.cfgRead n ok) s ((s1 m).setAct n m.mid (.cfgRead img ok)) ∧
        (s1 m).actEnd { m with act := some (.cfgRead img true) } =
          ((s1 m).emit (.hostWrite (mBufAddr m.bytes) img)).finish m.mid stDone img.length [] ∧
        (s1 m).actEnd { m with act := some (.cfgRead img false) } = (s1 m).finish0 m.mid stDmaError)) ∧
    (s.Reaches Reg.CFG_SWIN_DATA v →
      let typ := s.fld Reg.CFG_SWIN_SEL 0 16
      let tab := s.fld Reg.CFG_SWIN_SEL 16 4
      let off := s.fld Reg.CFG_SWIN_ADDR 0 24 / 4 * 4
      let s2 := s.setFld Reg.CFG_SWIN_ADDR 0 24 (s.fld Reg.CFG_SWIN_ADDR 0 24 + 4)
      let inside : Prop := 1 ≤ typ ∧ typ ≤ 15 ∧ s.sectionPresent typ = true ∧ s.berthHeld typ tab off = false ∧
        ((tab = 15 ∧ (listedRegs typ).contains off = true) ∨ (tab ≠ 15 ∧ off < tableSize typ tab))
      (locked → Answers (.cfgSwinWrite v) s (s2.event Reg.CFG_EVT 2)) ∧
      (¬locked → ¬inside → Answers (.cfgSwinWrite v) s s2) ∧
      (¬locked → inside → Answers (.cfgSwinWrite v) s { s2 with cfg := { s.cfg with shadow := cfgPut s.cfg.shadow typ tab off v } })) ∧
    (∀ m, s.Starts n 0x0070 m →
      let c := byteAt m.bytes 20
      let slot := bitsOf (byteAt m.bytes 21) 0 1
      let busy : Prop := (∃ e ∈ classEngines c, s.hasEng e = true ∧ nth 0 s.flash.fwSel e = slot) ∨ ∃ r, s.plt.rot = some r ∧ engClass r.engine = c
      let empty := { s1 m with flash := { s.flash with fw := mapDel s.flash.fw (2 * c + slot) } }
      (busy → ends (.fwStage n buf sig ok ver) m stBusy) ∧
      (¬busy → ends (.fwStage n none sig ok ver) m stDmaError) ∧
      let act (x y : Bool) : Fetched := { m with act := some (.fwStage data x y ver) }
      (¬busy → Answers (.fwStage n (some data) sig ok ver) s ((s1 m).setAct n m.mid (.fwStage data sig ok ver))) ∧
      (s1 m).actEnd (act sig false) = empty.flashFail.finish0 m.mid stFlashError ∧
      (s1 m).actEnd (act false true) = empty.finish0 m.mid stBadImage ∧
      (s1 m).actEnd (act true true) =
        { s1 m with flash := { s.flash with fw := mapSet s.flash.fw (2 * c + slot) ⟨true, ver, sha256 data⟩ } }.finish m.mid stDone data.length [])

/-- The key store. A key manifest waits while a slot change is under way. KEY_WRITE checks the root, then TYPE, USAGE and
length, then the permission: a slot below 56, and no LOCK once PROV_CLOSED; KEY_REPLACE voids the nonce and needs a signature verified
against slot 0; KEY_ERASE leaves the slot empty; KEY_PUBKEY gives 64 bytes of an ECC_PUB slot or of a derived key; KEY_CLOSE
locks slot 0 and sets PROV_CLOSED. The sealed store is sealed and written first, BUSY without a crypto context for it (a choice of the model, log
entry 117): then the slot changes with its GEN one higher, or a
failed write changes nothing. A read of KEY_NONCE_LO draws a nonce. A derivation makes its key ready; a finished operation
frees its context, and a verification whose signature is bad is counted and refuses what asked for it. -/
def Obligations.KeyStoreRuns : Prop :=
  ∀ (n c slot : Nat) (ok : Bool) (data : List Byte) (buf : Option (List Byte)) (s : State),
    let b0 (m : Fetched) := bitsOf (byteAt m.bytes 20) 0 6
    let typ (m : Fetched) := bitsOf (byteAt m.bytes 21) 0 3
    let usage (m : Fetched) := leAt m.bytes 22 2
    let len (m : Fetched) := nth 0 [0, 32, 32, 32, 64] (typ m)
    let shape (m : Fetched) : Prop := typ m ≤ 4 ∧ usage m &&& (0xFFFF - nth 0 [0, 1, 2, 4, 0x18] (typ m)) = 0
    let sound (m : Fetched) (x : List Byte) : Prop :=
      (typ m = 3 → 1 ≤ beNat x ∧ beNat x < p256Order) ∧ (typ m = 4 → onCurve x = true)
    let root : Prop := s.hw.root = .present
    let starts (cmd : Instr) (s1 : State) (mid i : Nat) (k : KeySlot) (close : Bool) : Prop :=
      (s1.cryptoNow (unitCode 19) = none → Answers cmd s ((s1.count (Reg.KEY_CNT_LO 6)).finish0 mid stBusy)) ∧
      (∀ s2, s1.cryptoNow (unitCode 19) = some s2 → Answers cmd s { s2 with key := { s1.key with writing := some ⟨some mid, i, k, close⟩ } })
    let changes (cmd : Instr) (m : Fetched) (i : Nat) (k : KeySlot) (close : Bool) : Prop := starts cmd (s.start n m.mid) m.mid i k close
    let carried (m : Fetched) (x : List Byte) : KeySlot :=
      { typ := typ m, usage := BitVec.ofNat 16 (usage m), lock := bitOf (byteAt m.bytes 24) 0, material := x }
    let ends (cmd : Instr) (m : Fetched) (status : Nat) : Prop := Answers cmd s ((s.start n m.mid).finish0 m.mid status)
    (s.keyBusy = true → Answers (.keyWrite n (some data)) s s ∧ Answers (.keyReplace n (some data)) s s ∧ Answers (.keyErase n) s s ∧
      Answers (.keyClose n) s s) ∧
    (∀ m, s.keyBusy = false → s.Starts n 0x00A0 m →
      let may : Prop := root ∧ b0 m < 56 ∧ (s.hw.provClosed = true → (s.keySlot (b0 m)).lock = false)
      let good : Prop := shape m ∧ mBufLen m.bytes = len m
      let x := padTo (len m) data
      (¬root → ends (.keyWrite n buf) m stRefused) ∧
      (root → ¬good → ends (.keyWrite n buf) m stInvalidParam) ∧
      (good → ¬may → ends (.keyWrite n (some data)) m stRefused) ∧
      (good → may → ends (.keyWrite n none) m stDmaError) ∧
      (good → may → ¬sound m x → ends (.keyWrite n (some data)) m stInvalidParam) ∧
      (good → may → sound m x → changes (.keyWrite n (some data)) m (b0 m) (carried m x) false)) ∧
    (∀ m, s.keyBusy = false → s.Starts n 0x00A1 m →
      let may : Prop := root ∧ b0 m < 56
      let good : Prop := shape m ∧ 64 ≤ mBufLen m.bytes ∧ mBufLen m.bytes - 64 = len m
      let x := padTo (len m) data
      let s1 := { s.start n m.mid with key := { s.key with nonce := none } }
      (¬root → ends (.keyReplace n buf) m stRefused) ∧
      (root → ¬good → ends (.keyReplace n buf) m stInvalidParam) ∧
      (good → ¬may → ends (.keyReplace n (some data)) m stRefused) ∧
      (good → may → ends (.keyReplace n none) m stDmaError) ∧
      (good → may → ¬sound m x → ends (.keyReplace n (some data)) m stInvalidParam) ∧
      (good → may → sound m x → s.key.nonce = none → Answers (.keyReplace n (some data)) s (s1.finish0 m.mid stNonce)) ∧
      (∀ nonce, good → may → sound m x → s.key.nonce = some nonce →
        (s.slotFits 0 4 4 = false → Answers (.keyReplace n (some data)) s ((s1.keyUseErr.event Reg.KEY_EVT 3).finish0 m.mid stAuthFail)) ∧
        (s.slotFits 0 4 4 = true →
          let r := s1.requestVerify (.verifyReplace m.mid (b0 m) (carried m x)) 0 (ascii "FNKEYREP" ++ s.deviceId ++ leBytes 1 (b0 m) ++
            leBytes 1 (typ m) ++ leBytes 2 (usage m) ++ leBytes 1 (b2n (bitOf (byteAt m.bytes 24) 0)) ++ leBytes 8 nonce ++ sha256 x)
            (slice data (len m) 64)
          (r.2 = true → Answers (.keyReplace n (some data)) s r.1) ∧
          (r.2 = false → Answers (.keyReplace n (some data)) s (r.1.finish0 m.mid stBusy))))) ∧
    (∀ m, s.keyBusy = false → s.Starts n 0x00A2 m →
      let may : Prop := root ∧ b0 m < 56 ∧ (s.hw.provClosed = true → (s.keySlot (b0 m)).lock = false)
      (¬may → ends (.keyErase n) m stRefused) ∧ (may → changes (.keyErase n) m (b0 m) {} false)) ∧
    (∀ m, s.Starts n 0x00A3 m →
      let derived : Prop := b0 m = 56 ∨ b0 m = 57
      let pub := if b0 m < 56 then (s.keySlot (b0 m)).material else if b0 m = 56 then s.key.meterPub else ecdsaPub (logSignKey s.hw.rootSecret)
      let held : Prop := (b0 m < 56 ∧ (s.keySlot (b0 m)).typ = 4) ∨ (derived ∧ root ∧ s.key.derivedOk.contains (b0 m) = true)
      (56 ≤ b0 m → ¬root → ends (.keyPubkey n ok) m stRefused) ∧
      (derived → ¬held → ends (.keyPubkey n ok) m stRefused) ∧
      (¬derived → (b0 m < 56 ∨ root) → ¬held → ends (.keyPubkey n ok) m stInvalidParam) ∧
      (held → mBufLen m.bytes < 64 → ends (.keyPubkey n ok) m stInvalidParam) ∧
      (held → 64 ≤ mBufLen m.bytes → ends (.keyPubkey n false) m stDmaError) ∧
      (held → 64 ≤ mBufLen m.bytes → Answers (.keyPubkey n true) s
        (((s.start n m.mid).emit (.hostWrite (mBufAddr m.bytes) pub)).finish m.mid stDone 64 []))) ∧
    (∀ m, s.keyBusy = false → s.Starts n 0x00A4 m →
      let word : Prop := leAt m.bytes 20 4 = 0x434C4F53
      (¬root → ends (.keyClose n) m stRefused) ∧
      (root → ¬word → ends (.keyClose n) m stInvalidParam) ∧
      (word → root → s.hw.provClosed = true → ends (.keyClose n) m stAlreadyDone) ∧
      (word → root → s.hw.provClosed = false → s.slotFits 0 4 4 = false → ends (.keyClose n) m stRefused) ∧
      (word → root → s.hw.provClosed = false → s.slotFits 0 4 4 = true →
        changes (.keyClose n) m 0 { s.keySlot 0 with lock := true } true)) ∧
    (s.key.writing = none → Answers (.keyStoreWriteDone ok) s s) ∧
    (∀ w, s.key.writing = some w → w.slot < 56 →
      (∃ u : State, Answers (.keyStoreWriteDone true) s (u.finishOpt w.mid stDone (if w.close then 0 else (u.keySlot w.slot).gen.toNat) []) ∧
        u.keySlot w.slot = { w.new with gen := (s.keySlot w.slot).gen + 1 } ∧ (∀ i, i ≠ w.slot → u.keySlot i = s.keySlot i) ∧
        u.key.writing = none ∧ u.flash.keyStore = u.key.slots ∧ u.hw = { s.hw with provClosed := s.hw.provClosed || w.close } ∧
        (u.reg Reg.KEY_EVT).getLsbD 0 = true) ∧
      Answers (.keyStoreWriteDone false) s (({ s with key := { s.key with writing := none } }).flashFail.finishOpt w.mid stFlashError 0 [])) ∧
    (s.Readable Reg.KEY_NONCE_LO →
      (s.key.trngFail = true → Answers .keyNonceRead s
        { s with key := { s.key with nonce := none }, rdata := 0, latch := mapSet s.latch Reg.KEY_NONCE_HI 0 }) ∧
      (s.key.trngFail = false → ∃ u x, Answers .keyNonceRead s u ∧ u.key.nonce = some x ∧ x < 2 ^ 64 ∧ u.rdata = BitVec.ofNat 32 x ∧
        mapFind u.latch Reg.KEY_NONCE_HI = some (BitVec.ofNat 32 (x / 2 ^ 32)) ∧ u.key.nonceRecSeq = s.mtr.point.map (fun p => p.keep.recSeq) ∧
        u.fresh = s.fresh + 1 ∧ u.key.slots = s.key.slots)) ∧
    (s.key.deriving_.contains slot = false → Answers (.keyDeriveDone slot) s s) ∧
    (s.key.deriving_.contains slot = true → ∃ u, Answers (.keyDeriveDone slot) s u ∧ u.key.derivedOk.contains slot = true ∧
      u.key.deriving_.contains slot = false ∧ u.key.slots = s.key.slots ∧
      (slot ≠ 56 → u.key.meterPub = s.key.meterPub) ∧
      (slot = 56 → u.key.meterPub = ecdsaPub (meterSignKey s.hw.rootSecret s.meterMeas) ∧
        (s.key.meterPub ≠ [] → s.key.meterPub ≠ u.key.meterPub → (u.reg Reg.KEY_EVT).getLsbD 1 = true))) ∧
    ((∀ o, s.cryptoOp c = some o → o.key = [] ∧ o.slot = 56) → Answers (.cryptoOpDone c) s s) ∧
    (∀ o, s.cryptoOp c = some o → ¬(o.key = [] ∧ o.slot = 56) →
      let s1 := s.cryptoFree c
      let good : Prop := ecdsaVerify o.key (sha256 o.msg) o.sig = true
      let passed := s1.count (Reg.KEY_CNT_LO 1)
      let failed := ((s1.count (Reg.KEY_CNT_LO 1)).count (Reg.KEY_CNT_LO 2)).event Reg.KEY_EVT 3
      s1.cryptoOp c = none ∧
      (∀ p body, o.use = .signRecord p body → Answers (.cryptoOpDone c) s
        ((s1.count (Reg.KEY_CNT_LO 0)).mtrRecordWrite p body (some (ecdsaSign o.key (sha256 o.msg))))) ∧
      (∀ chain, o.use = .signCheckpoint chain → Answers (.cryptoOpDone c) s
        ((s1.count (Reg.KEY_CNT_LO 0)).logChkptWrite (some (ecdsaSign o.key o.msg)))) ∧
      (∀ mid last, o.use = .verifyLogClear mid last → (good → Answers (.cryptoOpDone c) s (passed.logClearNow mid last)) ∧
        (¬good → Answers (.cryptoOpDone c) s (failed.logClearRefuse mid 1 stAuthFail))) ∧
      (∀ mid p, o.use = .verifyMtrReset mid p →
        (good → Answers (.cryptoOpDone c) s ((passed.modPoint p fun x => { x with resetReq := true }).finish0 mid stDone)) ∧
        (¬good → Answers (.cryptoOpDone c) s (failed.finish0 mid stAuthFail))) ∧
      (∀ mid i k, o.use = .verifyReplace mid i k →
        (good → starts (.cryptoOpDone c) passed mid i k false) ∧
        (¬good → Answers (.cryptoOpDone c) s (failed.finish0 mid stAuthFail))) ∧
      (∀ lev, o.use = .verifyUnlock lev →
        (s.dbg.unlockReq ≠ some lev → good → Answers (.cryptoOpDone c) s passed) ∧
        (s.dbg.unlockReq ≠ some lev → ¬good → Answers (.cryptoOpDone c) s failed) ∧
        (s.dbg.unlockReq = some lev → good → Answers (.cryptoOpDone c) s (passed.unlockEnd lev 0)) ∧
        (s.dbg.unlockReq = some lev → ¬good → Answers (.cryptoOpDone c) s (failed.unlockEnd lev 2))))

/-- The Aizhan link and the heartbeats. A lane that comes UP as the first starts a pairing: EPOCH one higher and FSEQ from 0. A
received frame is heard only with pairing enabled and the link UP; a tag that AES-256-GCM finds
wrong under the key, or no key, fails authentication, 16 within 1 s losing the path; a frame without a crypto context for it is dropped
(a choice of the model, log entry 117); an unknown TYPE, a foreign EPOCH, an FSEQ not above the last one accepted from its EPOCH, a wrong
length or items that do not fill the payload drop it. A gap asks for a resynchronisation on a device that is STANDBY or JOINING. A HELLO
tells the peer's role and decides MISMATCH and JOINING; it is sent when the link has come UP and while unpaired; a HEARTBEAT or an HB
word keeps its path alive, HB_SEQ advancing with a frame that is sent; MIRROR and RESYNC items are applied by a device that mirrors, an active
one taking the MTR items alone, END making a joining device STANDBY. A
path without a valid heartbeat for 1,000 µs is lost; with both lost each role acts. -/
def Obligations.TwinLinkRuns : Prop :=
  ∀ (lane w : Nat) (hb : Bool) (x key : List Byte) (f : AizRx) (s sc : State),
    let t := s.twn
    let b := f.payload
    let on : Prop := s.bit Reg.TWN_CFG 0 = true ∧ s.unitFenced 22 = false
    let up : Prop := on ∧ (t.lane0 = true ∨ t.lane1 = true)
    let opened : Prop := s.aizContext = (sc, some key) ∧ aizOpen key x = some f
    let fresh : Prop := (∀ k, mapFind t.peerSeen f.epoch = some k → k < f.fseq) ∧ (t.peerEpoch ≠ some f.epoch → f.typ = 1) ∧ (f.typ = 1 → f.side ≠ s.side)
    let whole : Prop := aizLenOk f = true ∧ ((f.typ = 3 ∨ f.typ = 6) → itemsOf b.length b ≠ none)
    let accepted (typ : Nat) : Prop := up ∧ opened ∧ f.typ = typ ∧ fresh ∧ whole
    let gap : Prop := t.peerEpoch = some f.epoch ∧ t.peerFseq + 1 < f.fseq ∧ (t.role = .standby ∨ t.role = .joining)
    let s0 := (sc.modTwn fun t => { t with peerEpoch := some f.epoch, peerFseq := f.fseq, peerSeen := mapSet t.peerSeen f.epoch f.fseq }).count
      (Reg.TWN_CNT_LO 1)
    let sh := s.modTwn fun t => { t with helloDue := false }
    let due : Prop := s.paired = false ∨ t.helloDue = true
    let items := (itemsOf b.length b).getD []
    let mirrors : Prop := t.role = .joining ∨ t.role = .standby ∨ t.role = .taking
    let valid : Prop := on ∧ bitsOf w 40 8 = 0xA5 ∧ crc8 (beBytes 5 (bitsOf w 8 40)) = bitsOf w 0 8 ∧ bitOf w 36 ≠ s.side
    let drop := sc.count (Reg.TWN_CNT_LO 3)
    (∀ p ∈ [(1, Instr.hello x), (2, .heartbeat x), (3, .mirror x), (4, .handover x), (5, .take x), (6, .resync x)],
      (¬up → Answers p.2 s s) ∧
      (up → s.aizKey = none → Answers p.2 s s.keyUseErr.authFail) ∧
      (up → s.aizKey ≠ none → s.aizContext = (sc, none) → Answers p.2 s drop) ∧
      (up → s.aizContext = (sc, some key) → aizOpen key x = none → Answers p.2 s sc.authFail) ∧
      (up → opened → (f.typ = 0 ∨ 7 ≤ f.typ) → Answers p.2 s drop) ∧
      (up → opened → f.typ ≠ p.1 → 1 ≤ f.typ → f.typ ≤ 6 → Answers p.2 s sc) ∧
      (up → opened → f.typ = p.1 → f.typ = 1 → f.side = s.side → Answers p.2 s (sc.count (Reg.TWN_CNT_LO 2))) ∧
      (up → opened → f.typ = p.1 → (f.typ = 1 → f.side ≠ s.side) → ¬(fresh ∧ whole) → Answers p.2 s drop)) ∧
    (s.aizContext = (sc, some key) → s.aizKey = some key ∧ sc = { s with leases := sc.leases }) ∧
    (s.authFail.twn.role = t.role ∧ (s.authFail.reg Reg.TWN_EVT).getLsbD 6 = true ∧
      (15 ≤ (t.authFails.filter fun x => s.dt < x + subPerSec).length → s.authFail.twn.aizAlive = false ∧ s.authFail.twn.aizBlocked = true)) ∧
    (accepted 1 →
      let role := bitsOf (byteAt b 12) 0 3
      let since := leAt b 16 2 + leAt b 18 4 * subPerNs + leAt b 22 6 * subPerSec
      let same : Prop := leAt b 0 4 = s.idCap ∧ leAt b 4 4 = s.idCapCount ∧ leAt b 8 4 = s.engMask
      let yields : Prop := since < t.activeSince ∨ (since = t.activeSince ∧ s.side = true)
      ∃ u, Answers (.hello x) s u ∧ u.twn.peerRole = role ∧ u.twn.peerHealth = BitVec.ofNat 32 (leAt b 32 4) ∧ u.twn.peerEpoch = some f.epoch ∧
        u.twn.peerFseq = f.fseq ∧ mapFind u.twn.peerSeen f.epoch = some f.fseq ∧ (u.twn.role = t.role → u.twn.waitHeard = true) ∧ u.twn.peerCheck = some (leAt b 28 4) ∧
        (¬same → t.role ∈ [.wait, .solo, .active, .standby] → u.twn.role = .mismatch ∧ (u.reg Reg.TWN_EVT).getLsbD 5 = true) ∧
        (¬same → t.role ∉ [.wait, .solo, .active, .standby] → u.twn.role = t.role) ∧
        (same → activeCode role = true → (t.role = .wait ∨ ((t.role = .solo ∨ t.role = .active) ∧ yields)) → u.twn.role = .joining) ∧
        (same → ¬(activeCode role = true ∧ (t.role = .wait ∨ ((t.role = .solo ∨ t.role = .active) ∧ yields))) → u.twn.role = t.role)) ∧
    (accepted 2 →
      let role := bitsOf (byteAt b 2) 0 3
      let ts (o : Nat) : Int := (leAt b o 2 + leAt b (o + 2) 4 * subPerNs + leAt b (o + 6) 6 * subPerSec : Nat)
      let d : Int := max (-2147483648) (min (((ts 12 - (s.dt : Int)) + (ts 36 - ts 24)) / 2 / (subPerNs : Int)) 2147483647)
      ∃ u, Answers (.heartbeat x) s u ∧ u.twn.peerRole = role ∧ u.twn.peerLost = false ∧ u.twn.aizAlive = (!t.aizBlocked) ∧
        u.twn.lastAizRx = s.dt ∧ u.twn.echoTx = (ts 12).toNat ∧ u.twn.echoRx = s.dt ∧ u.twn.hbAlive = t.hbAlive ∧
        (ts 24 = 0 → ts 36 = 0 → u.twn.dtDiff = t.dtDiff ∧ u.twn.dtDiffFlag = t.dtDiffFlag) ∧
        (¬(ts 24 = 0 ∧ ts 36 = 0) → u.twn.dtDiff = d ∧ u.twn.dtDiffFlag = decide ((s.reg Reg.TWN_DT_LIMIT).toNat < d.natAbs)) ∧
        u.twn.role = if t.role = .solo ∧ t.mirrorOn = true ∧ role = 4 then .active else t.role) ∧
    (∀ s1 : State, (gap → s1 = s0.resyncRequest) → (¬gap → s1 = s0) →
      (accepted 3 → (t.role ∈ [.solo, .wait, .mismatch] → Answers (.mirror x) s s1) ∧
        (t.role = .active ∨ t.role = .handing → Answers (.mirror x) s (s1.itemsApply (items.filter fun x => x.1 == 5))) ∧
        (mirrors → Answers (.mirror x) s ((s1.itemsApply items).modTwn fun t => { t with endSeen := t.endSeen || f.end_ }))) ∧
      (accepted 6 →
        (b = [] → t.role.isActive = true → t.role ≠ .mismatch → Answers (.resync x) s s1.resyncSend) ∧
        (b = [] → ¬(t.role.isActive = true ∧ t.role ≠ .mismatch) → Answers (.resync x) s s1) ∧
        (b ≠ [] → ¬mirrors → Answers (.resync x) s s1) ∧
        (b ≠ [] → mirrors → f.end_ = false → Answers (.resync x) s (s1.itemsApply items)) ∧
        (b ≠ [] → mirrors → f.end_ = true → ∃ u, Answers (.resync x) s u ∧ u.twn.mirrorSync = true ∧ u.twn.mirrorStale = false ∧
          ((s1.itemsApply items).twn.role = .joining → u.twn.role = .standby) ∧
          ((s1.itemsApply items).twn.role ≠ .joining → u.twn.role = (s1.itemsApply items).twn.role)))) ∧
    ((lane < 2 → ∃ u, Answers (.aizLaneUp lane) s u ∧ u.twn.lane0 = (t.lane0 || lane == 0) ∧ u.twn.lane1 = (t.lane1 || lane == 1) ∧
        u.twn.role = t.role ∧ (¬on ∨ t.lane0 = true ∨ t.lane1 = true → u.bkp = s.bkp ∧ u.twn.txFseq = t.txFseq) ∧
        (∀ e, on → t.lane0 = false → t.lane1 = false → s.bkp.epoch = some e → s.flash.twinSaves = [] →
          u.twn.helloDue = true ∧ u.twn.txFseq = 0 ∧ u.bkp.epoch = some ((e + 1) % 2 ^ 31))) ∧
      (lane < 2 → ∃ u, Answers (.aizLaneDown lane) s u ∧ u.twn.lane0 = (t.lane0 && lane != 0) ∧ u.twn.lane1 = (t.lane1 && lane != 1) ∧
        u.twn.role = t.role ∧ u.bkp = s.bkp)) ∧
    (¬due → Answers .helloTx s s) ∧
    (due → ¬up → Answers .helloTx s sh) ∧
    (due → up → s.aizKey = none → Answers .helloTx s sh.keyUseErr) ∧
    (due → up → sh.aizContext = (sc, none) → Answers .helloTx s sc) ∧
    (due → up → sh.aizContext = (sc, some key) → ∃ u hdr, Answers .helloTx s u ∧
      u.twn = { t with helloDue := false, txFseq := t.txFseq + 1, laneNext := 1 - t.sendLane } ∧
      hdr = leBytes 2 48 ++ leBytes 1 1 ++ leBytes 1 0 ++ leBytes 4 ((s.bkp.epoch.getD 0) % 2 ^ 31 + 2 ^ 31 * b2n s.side) ++ leBytes 8 t.txFseq ∧
      u.out = s.out ++ [.aizhan t.sendLane (hdr ++ gcmSeal key (slice hdr 4 12) hdr (padTo 48 (leBytes 4 s.idCap ++ leBytes 4 s.idCapCount ++
        leBytes 4 s.engMask ++ leBytes 4 t.role.code ++ tsBytes t.activeSince ++ leBytes 4 (s.setCheck s.cfg.active) ++ leBytes 4 s.health)))]) ∧
    (¬on → Answers .heartbeatTx s s) ∧
    (on → ∃ u, Answers .heartbeatTx s u ∧ u.twn.role = t.role ∧ u.twn.hbWordSeq = (t.hbWordSeq + 1) % 65536 ∧
      ((u.twn.txFseq = t.txFseq ∧ u.twn.hbSeq = t.hbSeq) ∨ (u.twn.txFseq = t.txFseq + 1 ∧ u.twn.hbSeq = (t.hbSeq + 1) % 65536)) ∧
      (¬up ∨ s.aizKey = none → u.twn.txFseq = t.txFseq) ∧
      u.twn.lastTime = (if t.lastTime + 100 * subPerMs ≤ s.dt then s.dt else t.lastTime)) ∧
    (¬valid → Answers (.hbWordRx w) s s) ∧
    (valid → ∃ u, Answers (.hbWordRx w) s u ∧ u.twn.hbAlive = true ∧ u.twn.lastHbRx = s.dt ∧ u.twn.peerLost = false ∧ u.twn.peerRole = bitsOf w 37 3 ∧
       u.twn.aizAlive = t.aizAlive ∧ u.twn.role = if t.role = .solo ∧ t.mirrorOn = true ∧ bitsOf w 37 3 = 4 then .active else t.role) ∧
    ((¬up ∨ t.mirror = []) → Answers .aizhanFrameSent s s) ∧
    (∀ p ps, up → packItems t.mirror [] = p :: ps → ∃ k, (t.mirror.take k).flatten = p ∧
      Answers .aizhanFrameSent s ((s.modTwn fun t => { t with mirror := t.mirror.drop k }).aizSend 3 false p)) ∧
    ((if hb then t.hbAlive else t.aizAlive) = false → Answers (.pathLost hb) s s) ∧
    ((if hb then t.hbAlive else t.aizAlive) = true → ∃ u, Answers (.pathLost hb) s u ∧
      u.twn = { t with hbAlive := t.hbAlive && !hb, aizAlive := t.aizAlive && hb } ∧ (u.reg Reg.TWN_EVT).getLsbD (if hb then 2 else 1) = true ∧
      u.dt = max s.dt ((if hb then t.lastHbRx else t.lastAizRx) + 1000 * subPerUs)) ∧
    ((t.aizAlive = true ∨ t.hbAlive = true ∨ ¬on) → Answers .bothLost s s) ∧
    (t.aizAlive = false → t.hbAlive = false → on → ∃ u, Answers .bothLost s u ∧
      u.dt = max s.dt (max t.lastAizRx t.lastHbRx + 3000 * subPerUs) ∧
      (t.role = .standby → u.twn.peerLost = true ∧ u.twn.takeAt = u.dt ∧
        (s.bst.running = true → s.bst.mode = 1 → u.twn.role = .standby ∧ u.twn.takePending = true) ∧
        (¬(s.bst.running = true ∧ s.bst.mode = 1) → u.twn.role = .taking ∧ u.twn.planned = false ∧ u.twn.takeH = none)) ∧
      (t.role = .active ∨ t.role = .handing → u.twn.peerLost = true ∧ u.twn.role = t.role) ∧
      (t.role = .joining → u.twn.role = .solo) ∧
      (t.role ∈ [.solo, .wait, .taking, .mismatch] → u.twn.role = t.role))

/-- Roles, hand-over, takeover and saved state. A planned hand-over is refused while one runs, off ACTIVE, with different sets, or
with a peer that is not ready, FORCE passing the last two; otherwise HANDING starts with H, the first instant at least 2 ms
later; while no grid gives one, H and its frame wait for the first delivered instant that is so much later. The standby answers TAKE when READY or forced. REFUSE, no answer in 1,000 µs, or a peer still in STANDBY at H + 1,000 µs
gives the role back; TAKE lets H take effect. A TAKING device takes over at END or H + 500 µs, or when promoted. WAIT, JOINING and
MISMATCH end SOLO, WAIT unless a HELLO has been heard. EN 0 ends pairing. A save goes to the older of two slots with its CRC-32C; one that
fails sets SAVE_ERR and reports source 62, leaving a free value as the slot's CRC. TEST_S tests the next present engine of a standby. -/
def Obligations.TwinRolesChange : Prop :=
  ∀ (n : Nat) (v : Word) (force : Bool) (x key : List Byte) (f : AizRx) (s sc : State),
    let t := s.twn
    let b := f.payload
    let asked (cmd : Instr) (s1 : State) (force : Bool) (mid : Option Nat) : Prop :=
      let h := (s.instantAfter (s.dt + 2 * subPerMs) 0).map fun x => x.2.2
      let ends (result : Nat) : Prop := ∃ u, Answers cmd s (u.finishOpt mid stRefused result []) ∧ u = s1.modTwn fun t => { t with hoResult := result, hoDone := true }
      let busy : Prop := t.role = .handing ∨ t.formerActive ≠ none
      (busy → ends 5) ∧ (¬busy → t.role ≠ .active → ends 2) ∧
      (¬busy → t.role = .active → force = false → t.cfgDiff = true → ends 4) ∧
      (¬busy → t.role = .active → force = false → t.cfgDiff = false → (t.peerHealth.getLsbD 0 = false ∨ t.dtDiffFlag = true) → ends 3) ∧
      (¬busy → t.role = .active → (force = true ∨ (t.cfgDiff = false ∧ t.peerHealth.getLsbD 0 = true ∧ t.dtDiffFlag = false)) →
        ∃ u : State, (∀ at_, h = some at_ → Answers cmd s (u.aizSend 4 false (padTo 16 (tsBytes at_ ++ leBytes 1 (b2n force))))) ∧
          (h = none → Answers cmd s u) ∧ u.twn.role = .handing ∧
          u.twn.handOver = some ⟨h, force, mid, s.dt, false⟩ ∧ u.twn.hoDone = false)
    let resynced (cmd : Instr) (s1 : State) (k : State → State) : Prop :=
      (t.role = .standby ∨ t.role = .joining → Answers cmd s (k s1.resyncRequest)) ∧
      (t.role = .active ∨ t.role = .handing → Answers cmd s (k s1.resyncSend)) ∧
      (t.role ∈ [.solo, .wait, .taking, .mismatch] → Answers cmd s (k s1))
    let ord (x : Option TwnSave) : Nat := match x with | some y => y.order + 1 | none => 0
    let saved (cmd : Instr) (s1 : State) (k : State → State) : Prop :=
      ∃ u x, Answers cmd s (k u) ∧ x.slots = s.alm.slots ∧ x.epoch = s.bkp.epoch.getD 0 ∧ x.role = t.role.code ∧ x.order = max (ord s.flash.twin0) (ord s.flash.twin1) ∧ x.crc = crc32c x.bytes ∧ u.twn = s1.twn ∧ u.dram = s1.dram ∧
        (ord s.flash.twin0 ≤ ord s.flash.twin1 → u.flash = { s.flash with twin0 := some x }) ∧
        (ord s.flash.twin1 < ord s.flash.twin0 → u.flash = { s.flash with twin1 := some x })
    let unsaved (cmd : Instr) (s1 : State) (k : State → State) : Prop :=
      ∃ (f : Flash) (x : TwnSave), Answers cmd s (k ((({ s1.freshNext with flash := f }).event Reg.TWN_EVT 12).report 62 0 (unitCode 22) 0 0)) ∧
        x.crc < 2 ^ 32 ∧
        f = if ord s.flash.twin0 ≤ ord s.flash.twin1 then { s.flash with twin0 := some x } else { s.flash with twin1 := some x }
    let heard (typ : Nat) : Prop := s.bit Reg.TWN_CFG 0 = true ∧ s.unitFenced 22 = false ∧ (t.lane0 = true ∨ t.lane1 = true) ∧
      s.aizContext = (sc, some key) ∧ aizOpen key x = some f ∧ f.len = 16 ∧ f.typ = typ ∧ t.peerEpoch = some f.epoch ∧ f.fseq = t.peerFseq + 1 ∧
      (∀ k, mapFind t.peerSeen f.epoch = some k → k < f.fseq) ∧ b.length = 16
    let s2 := (sc.modTwn fun t => { t with peerEpoch := some f.epoch, peerFseq := f.fseq, peerSeen := mapSet t.peerSeen f.epoch f.fseq }).count
      (Reg.TWN_CNT_LO 1)
    let solo (cmd : Instr) (due : Nat) : Prop := ∃ u, Answers cmd s u ∧ u.twn.role = .solo ∧ u.dt = max s.dt due
    (∀ m, s.Starts n 0x00B0 m → asked (.twnHandover n) (s.start n m.mid) (bitOf (byteAt m.bytes 20) 0) (some m.mid)) ∧
    (∀ m, s.Starts n 0x00B1 m → resynced (.twnResync n) (s.start n m.mid) fun s => s.finish0 m.mid stDone) ∧
    (∀ m, s.Starts n 0x00B2 m → saved (.twnSave n true) (s.start n m.mid) (fun s => s.finish0 m.mid stDone) ∧
      unsaved (.twnSave n false) (s.start n m.mid) fun s => s.finish0 m.mid stFlashError) ∧
    (s.Reaches Reg.TWN_CTRL (if force then 6 else 2) → asked (.twnCtrlHandover force) s force none) ∧
    (s.Reaches Reg.TWN_CTRL 8 → resynced .twnCtrlResync s id) ∧
    (s.Reaches Reg.TWN_CTRL 16 → saved (.twnCtrlSave true) s id ∧ unsaved (.twnCtrlSave false) s id) ∧
    (saved (.twnPeriodicSave true) s id ∧ unsaved (.twnPeriodicSave false) s id) ∧
    (∀ (h : HandOver) (at_ : Nat), t.handOver = some h → h.h = none →
      (at_ < h.reqAt + 2 * subPerMs → s.hoActive at_ = s) ∧
      (h.reqAt + 2 * subPerMs ≤ at_ → s.hoActive at_ =
        (s.modTwn fun y => { y with handOver := some { h with h := some at_, reqAt := at_ } }).aizSend 4 false
          (padTo 16 (tsBytes at_ ++ leBytes 1 (b2n h.force))))) ∧
    (s.Reaches Reg.TWN_CFG v →
      (v.getLsbD 0 = true → s.bit Reg.TWN_CFG 0 = true → Answers (.twnEnWrite v) s (s.writeReg Reg.TWN_CFG v)) ∧
      (v.getLsbD 0 = true → s.bit Reg.TWN_CFG 0 = false → Answers (.twnEnWrite v) s (s.writeReg Reg.TWN_CFG v).pairStart) ∧
      (v.getLsbD 0 = false → ∃ u, Answers (.twnEnWrite v) s u ∧ u.twn.role = .solo ∧ u.twn.peerEpoch = none ∧ u.twn.peerLost = false ∧
        u.twn.cfgDiff = false ∧ u.twn.mirror = [] ∧ u.twn.takeH = none ∧ (∀ h, t.handOver = some h → u.twn.handOver = none ∧ u.twn.hoResult = 2))) ∧
    (heard 4 →
      let h := leAt b 0 2 + leAt b 2 4 * subPerNs + leAt b 6 6 * subPerSec
      let may : Prop := t.role = .standby ∧ (bitOf s2.health 0 = true ∨ bitOf (byteAt b 12) 0 = true)
      (may → Answers (.handover x) s ((s2.aizSend 5 false (padTo 16 (b.take 12 ++ leBytes 1 0))).modTwn fun t => { t with takeH := some h, endSeen := false })) ∧
      (¬may → Answers (.handover x) s (s2.aizSend 5 false (padTo 16 (b.take 12 ++ leBytes 1 1))))) ∧
    (heard 5 →
      let at_ := leAt b 0 2 + leAt b 2 4 * subPerNs + leAt b 6 6 * subPerSec
      ((∀ h, t.handOver = some h → h.h ≠ at_ ∨ h.taken = true) → Answers (.take x) s s2) ∧
      (∀ h, t.handOver = some h → h.h = at_ → h.taken = false →
        (byteAt b 12 = 0 → Answers (.take x) s (s2.modTwn fun t => { t with handOver := some { h with taken := true } })) ∧
        (byteAt b 12 ≠ 0 → ∃ u : State, Answers (.take x) s (u.finishOpt h.mid stRefused 3 []) ∧ u.twn.role = .active ∧ u.twn.handOver = none ∧
          u.twn.hoResult = 3 ∧ u.twn.hoDone = true))) ∧
    ((∀ h, t.handOver = some h → h.taken = true ∨ h.h = none) → Answers .handoverAnswerTimeout s s) ∧
    (∀ h, t.handOver = some h → h.taken = false → h.h ≠ none → ∃ u : State, Answers .handoverAnswerTimeout s (u.finishOpt h.mid stRefused 6 []) ∧
      u.twn.role = .active ∧ u.twn.handOver = none ∧ u.twn.hoResult = 6 ∧ u.dt = max s.dt (h.reqAt + 1000 * subPerUs)) ∧
    (t.formerActive = none → Answers .handoverReturnCheck s s) ∧
    (∀ h mid, t.formerActive = some (h, mid) →
      let back : Prop := t.role = .standby ∧ (t.aizAlive = true ∨ t.hbAlive = true) ∧ t.peerRole = 4
      (back → ∃ u : State, Answers .handoverReturnCheck s (u.finishOpt mid stRefused 6 []) ∧ u.twn.role = .active ∧ u.twn.formerActive = none ∧ u.twn.hoResult = 6) ∧
      (¬back → Answers .handoverReturnCheck s ((((((s.advance (h + 1000 * subPerUs)).modTwn fun t => { t with formerActive := none }).modTwn fun t =>
        { t with hoResult := 1, hoDone := true }).finishOpt mid stDone 1 []).count (Reg.TWN_CNT_LO 6))))) ∧
    (t.role ≠ .taking → Answers .takeover s s) ∧
    (t.role = .taking → t.planned = false → Answers .takeover s (s.takeOver 7)) ∧
    (t.role = .taking → t.planned = true → t.endSeen = true → Answers .takeover s (s.takeOver 1)) ∧
    (t.role = .taking → t.planned = true → t.endSeen = false → Answers .takeover s ((s.advance (t.takeAt + 500 * subPerUs)).takeOver 1)) ∧
    (∀ k, (s.takeOver k).twn.hoResult = k ∧ (s.takeOver k).twn.hoDone = true ∧ (s.takeOver k).twn.hoPlanned = decide (k = 1)) ∧
    ((t.role ≠ .wait ∨ t.waitHeard = true) → Answers .twnWaitTimeout s s) ∧ (t.role = .wait → t.waitHeard = false → solo .twnWaitTimeout (t.roleAt + 1000 * subPerMs)) ∧
    (t.role ≠ .joining → Answers .twnJoinTimeout s s) ∧ (t.role = .joining → solo .twnJoinTimeout (t.roleAt + 2000 * subPerMs)) ∧
    ((t.role ≠ .mismatch ∨ t.lane0 = true ∨ t.lane1 = true) → Answers .twnMismatchTimeout s s) ∧
    (t.role = .mismatch → t.lane0 = false → t.lane1 = false → solo .twnMismatchTimeout (t.linkDownAt + 1000 * subPerMs)) ∧
    ((t.role ≠ .standby ∨ s.bit Reg.TWN_CFG 3 = false) → Answers .twnStandbyTest s s) ∧
    (∀ e, t.role = .standby → s.bit Reg.TWN_CFG 3 = true → ((List.range 32).map fun i => (t.nextTest + i) % 32).find? s.hasEng = some e →
      let busy : Prop := s.plt.rot ≠ none ∨ (classEngines (engClass e)).any (fun x => s.hasEng x && (s.engine x).rstate != .inService) = true
      (busy → Answers .twnStandbyTest s (s.modPlt fun p => { p with rotResult := 2 })) ∧
      (¬busy → ∃ u, Answers .twnStandbyTest s u ∧ u.twn = { t with testEngine := some e, nextTest := (e + 1) % 32 } ∧
        u.plt.rot = some ⟨e, 2, none, 1, s.dt⟩))

/-- The fault collector and the self-test. Of the reports of one instant the lowest source is taken first while no error is held, else the
oldest. An event from outside, its master 6 bits wide, comes after a report that is older or of a lower
source at the same instant; a corrected DRAM error is counted and is none. An event of an absent or BROKEN source is not taken; one of a
later instant while the first error is handled, of its source or of an owner that its reaction fences, is merged; the first is recorded and handled, later ones overflow;
the source's level rises, and at its threshold it returns to 0 and the second reaction is taken. A level decays, a reaction
completes, the record is released, injections raise an event or break a source. A release runs the fenced owner's slice; a test
request is BUSY while a run, rotation or release is under way (a release also while the owner reports an error at this instant), REFUSED for a slice that cannot be tested alone; a whole-device
test needs a standby; a shutdown run is always taken. A slice that ends gives its result, and the last ends the run. -/
def Obligations.FaultsAndSelfTestRun : Prop :=
  ∀ (n i : Nat) (v : Word) (pass : Bool) (ext : FaultIn) (s : State),
    let taken (cmd : Instr) (s1 : State) (r : FaultReport) : Prop :=
      let x := s1.fltSrc r.src
      let w := s1.srcEntry r.src
      let dead : Prop := s1.srcMasked r.src = true ∨ (x.broken = true ∧ r.cause ≠ 1)
      let merged : Prop := s1.flt.handling = true ∧ ∃ y, s1.flt.fer = some y ∧ (y.src = r.src ∨ r.master ∈ s1.flt.fencing) ∧ y.at_ ≠ r.at_
      (dead → Answers cmd s s1) ∧
      (¬dead → merged → ∃ u, Answers cmd s u ∧ u.flt.fer = s1.flt.fer ∧ u.flt.merged = min (s1.flt.merged + 1) 65535 ∧
        u.fltSrc r.src = { x with events := min (x.events + 1) 65535 } ∧ ∀ j, j ≠ r.src → u.fltSrc j = s1.fltSrc j) ∧
      (¬dead → ¬merged → ∃ (u : State) (code : Nat),
        Answers cmd s (if code = 0 ∧ s1.flt.fer = none then (u.react r code).modFlt fun f => { f with handling := false } else u.react r code) ∧
        (s1.flt.fer = none → u.flt.fer = some ⟨r.src, r.cause, r.master, r.access, r.addr, r.at_⟩ ∧ u.flt.handling = true ∧
          u.flt.fencing = (if 3 ≤ code then (u.fenceTarget r).toList else []) ∧
          (u.reg Reg.FLT_EVT).getLsbD 0 = true) ∧
        (s1.flt.fer ≠ none → u.flt.fer = s1.flt.fer ∧ u.flt.fencing = s1.flt.fencing ∧ u.flt.overflowed = true ∧ u.flt.overflow = min (s1.flt.overflow + 1) 65535) ∧
        (bitsOf w 8 8 ≤ x.level + 1 → code = bitsOf w 4 3 ∧
          u.fltSrc r.src = { x with level := 0, at_ := s1.dt, events := min (x.events + 1) 65535 }) ∧
        (x.level + 1 < bitsOf w 8 8 → code = bitsOf w 0 3 ∧
          u.fltSrc r.src = { x with level := x.level + 1, at_ := s1.dt, events := min (x.events + 1) 65535 }) ∧
        ∀ j, j ≠ r.src → u.fltSrc j = s1.fltSrc j)
    let injected (cmd : Instr) (s1 : State) (src : Nat) (broken : Bool) (k : State → State) : Prop :=
      (broken = false → Answers cmd s (k (s1.report src 2 (srcMaster src) 0 0))) ∧ (broken = true → Answers cmd s (k (s1.breakSrc src)))
    let released (cmd : Instr) (s1 : State) (owner : Nat) (mid : Option Nat) : Prop :=
      let fenced : Prop := s.ownerFenced owner = true
      let busy : Prop := s.bst.running = true ∨ s.plt.rot ≠ none ∨ ∃ x ∈ s.flt.reports, x.src = owner ∧ x.at_ = s.dt
      (¬fenced → Answers cmd s (s1.releaseEnd 2 mid)) ∧
      (fenced → s.flt.release ≠ none → Answers cmd s (s1.finishOpt mid stBusy 4 [])) ∧
      (fenced → s.flt.release = none → busy → Answers cmd s (s1.releaseEnd 4 mid)) ∧
      (fenced → s.flt.release = none → ¬busy → Answers cmd s (s1.modFlt fun f => { f with release := some ⟨owner, mid⟩, relDone := false }))
    let busy : Prop := s.bst.running = true ∨ s.plt.rot ≠ none ∨ s.flt.release ≠ none
    let begun (s1 : State) (mode slice : Nat) (mid : Option Nat) : Bst := { s1.bst with running := true, mode := mode, slice := slice, mid := mid, abort := false, failed := 0, firstFail := 0, startAt := s1.dt }
    let slice (cmd : Instr) (s1 : State) (i : Nat) (mid : Option Nat) : Prop :=
      let apart : Prop := (i = 41 ∧ ∀ c ∈ s.cap.ch, c.st ≠ .armed ∧ c.st ≠ .triggered) ∨ (i = 45 ∧ s.twn.role = .solo)
      (busy → Answers cmd s (s1.bstRefuse 3 mid)) ∧
      (¬busy → s.sliceAbsent i = true →
        Answers cmd s (({ s1 with bst := { begun s1 0 i mid with res := mapSet s.bst.res i 1 } }).bstEnd 1)) ∧
      (¬busy → s.sliceAbsent i = false → 32 ≤ i → ¬apart → Answers cmd s (s1.bstRefuse 5 mid)) ∧
      (¬busy → s.sliceAbsent i = false → 32 ≤ i → apart → Answers cmd s { s1 with bst := begun s1 0 i mid }) ∧
      (¬busy → s.sliceAbsent i = false → i < 32 →
        ((s1.rotRequest i 2 none).plt.rot = none → Answers cmd s ((s1.rotRequest i 2 none).bstRefuse 3 mid)) ∧
        ((s1.rotRequest i 2 none).plt.rot ≠ none → Answers cmd s ((s1.rotRequest i 2 none).bstBegin 0 i mid)))
    let whole (cmd : Instr) (s1 : State) (mid : Option Nat) : Prop :=
      ((s.twn.role ≠ .standby ∨ busy) → Answers cmd s (s1.bstRefuse 3 mid)) ∧
      (s.twn.role = .standby → ¬busy → Answers cmd s (({ s1 with bst := begun s1 1 0 mid }).count (Reg.BST_CNT_LO 2)).alnNote)
    let shutdown (cmd : Instr) (s1 : State) (mid : Option Nat) : Prop :=
      let s2 := if s.bst.running then s1.bstEnd 4 else s1
      let s3 := { s2 with bst := begun s2 2 0 mid }
      (s.twn.role ≠ .active → Answers cmd s s3.shutdownGo) ∧ (s.twn.role = .active → Answers cmd s (s3.hoRequest true none).shutdownGo)
    (s.flt.reports = [] → Answers (.faultEvent none) s s) ∧
    (∀ r, s.flt.nextReport = some r → taken (.faultEvent none) (s.modFlt fun f => { f with reports := f.reports.erase r }) r) ∧
    (∀ r rs, s.flt.reports = r :: rs → (s.flt.fer ≠ none → s.flt.nextReport = some r) ∧
      (s.flt.fer = none → ∃ y, s.flt.nextReport = some y ∧ y ∈ s.flt.reports ∧ y.at_ = r.at_ ∧ ∀ x ∈ s.flt.reports, x.at_ = r.at_ → y.src ≤ x.src)) ∧
    (ext.corrected = true → Answers (.faultEvent (some ext)) s ((s.count32 Reg.CFG_ECC_CE).event Reg.CFG_EVT 4)) ∧
    Answers (.faultEvent none) s s.takeReport ∧
    (∀ s0 : State, ext.corrected = false →
      let before : Prop := s.flt.fer = none ∧ ∃ q, s.flt.nextReport = some q ∧ (q.at_ < s.dt ∨ q.src < ext.src)
      let s1 := if ext.src = 49 then s0.eccUncorrectable ext.addr else if ext.src = 63 then s0.trngFails else s0
      (before → s0 = s.takeReport) → (¬before → s0 = s) →
      taken (.faultEvent (some ext)) s1 ⟨ext.src, 0, ext.master % 64, ext.access, ext.addr, s1.dt⟩) ∧
    (∀ (u : State) (src code : Nat), 1 ≤ code → code ≤ 2 → (u.reactOwn src code).flt = (u.modFltSrc src fun x => { x with lastReaction := code }).flt ∧
      (u.reactOwn src code).logb.raised.length = u.logb.raised.length + 1 ∧ (u.reactOwn src code).alm.input.length = u.alm.input.length + 1 ∧
      (code = 2 → ((u.reactOwn src code).reg Reg.FLT_EVT).getLsbD 2 = true)) ∧
    ((s.srcMasked i = true ∨ (s.fltSrc i).broken = true) → Answers (.faultPairBroken i) s s) ∧
    (s.srcMasked i = false → (s.fltSrc i).broken = false → taken (.faultPairBroken i)
      (((s.modFltSrc i fun x => { x with broken := true }).event Reg.FLT_EVT 5).count (Reg.FLT_CNT_LO 6)) ⟨i, 1, srcMaster i, 0, 0, s.dt⟩) ∧
    ((s.fltSrc i).level = 0 → Answers (.faultLevelDecay i) s s) ∧
    ((s.fltSrc i).level ≠ 0 → ∃ u, Answers (.faultLevelDecay i) s u ∧
      u.dt = max s.dt ((s.fltSrc i).at_ + bitsOf (s.srcEntry i) 16 16 * 10 * subPerMs) ∧
      u.fltSrc i = { s.fltSrc i with level := (s.fltSrc i).level - 1, at_ := u.dt } ∧ ∀ j, j ≠ i → u.fltSrc j = s.fltSrc j) ∧
    (s.flt.safePending = false → Answers .faultReactionDone s (s.modFlt fun f => { f with handling := false, fencing := [] })) ∧
    (s.flt.safePending = true → Answers .faultReactionDone s (s.stopNow.modFlt fun f => { f with handling := false, fencing := [] })) ∧
    (s.Reaches Reg.FLT_FER_REL v →
      (v.getLsbD 0 = false → Answers (.fltFerRelease v) s s) ∧
      (v.getLsbD 0 = true → ∃ u, Answers (.fltFerRelease v) s u ∧
        u.flt = { s.flt with fer := none, overflowed := false, merged := 0, overflow := 0 } ∧ u.reg Reg.FLT_EVT = s.reg Reg.FLT_EVT)) ∧
    (s.Reaches Reg.FLT_INJECT v →
      ((v.getLsbD 31 = false ∨ s.bit Reg.FLT_CTRL 1 = false) → Answers (.fltInjectGo v) s s) ∧
      (v.getLsbD 31 = true → s.bit Reg.FLT_CTRL 1 = true → injected (.fltInjectGo v) s (bitsOf v.toNat 0 7) (v.getLsbD 8) id)) ∧
    (∀ m, s.Starts n 0x00C2 m →
      (s.bit Reg.FLT_CTRL 1 = false → Answers (.fltInject n) s ((s.start n m.mid).finish0 m.mid stRefused)) ∧
      (s.bit Reg.FLT_CTRL 1 = true → injected (.fltInject n) (s.start n m.mid) (bitsOf (byteAt m.bytes 20) 0 7) (bitOf (byteAt m.bytes 21) 0)
        fun u => u.finish0 m.mid stDone)) ∧
    (s.Reaches Reg.FLT_RELEASE v →
      (v.getLsbD 31 = false → Answers (.fltReleaseGo v) s s) ∧
      (v.getLsbD 31 = true → released (.fltReleaseGo v) s (bitsOf v.toNat 0 6) none)) ∧
    (∀ m, s.Starts n 0x00C1 m → released (.fltRelease n) (s.start n m.mid) (bitsOf (byteAt m.bytes 20) 0 6) (some m.mid)) ∧
    (s.Reaches Reg.FLT_CTRL 4 → Answers .degradeClr s { s with flt := { s.flt with degraded := false, settledReq := false } }) ∧
    (∀ m, s.Starts n 0x00C0 m →
      (bitsOf (byteAt m.bytes 20) 0 2 = 0 → slice (.bstRun n) (s.start n m.mid) (bitsOf (byteAt m.bytes 21) 0 6) (some m.mid)) ∧
      (bitsOf (byteAt m.bytes 20) 0 2 = 1 → whole (.bstRun n) (s.start n m.mid) (some m.mid)) ∧
      (2 ≤ bitsOf (byteAt m.bytes 20) 0 2 → shutdown (.bstRun n) (s.start n m.mid) (some m.mid))) ∧
    (i < 64 → s.Reaches Reg.BST_CTRL (BitVec.ofNat 32 (2 ^ 31 + 2 ^ 8 * i)) → slice (.bstCtrlSlice i) s i none) ∧
    (s.Reaches Reg.BST_CTRL 0x80000001 → whole .bstCtrlWhole s none) ∧
    (s.Reaches Reg.BST_CTRL 0x80000002 → shutdown .bstCtrlShutdown s none) ∧
    (s.Reaches Reg.BST_CTRL 0x40000000 →
      (¬(s.bst.running = true ∧ s.bst.mode = 1) → Answers .bstCtrlAbort s s) ∧
      (s.bst.running = true → s.bst.mode = 1 → Answers .bstCtrlAbort s { s with bst := { s.bst with abort := true } })) ∧
    (s.flt.release = none → (s.bst.running = false ∨ (s.bst.mode = 0 ∧ s.bst.slice < 32)) → Answers (.bistSliceDone pass) s s) ∧
    (∀ r, s.flt.release = some r →
      let s1 := (s.modBst fun b => { b with res := mapSet b.res (ownerSlice r.owner) 1 }).count (Reg.BST_CNT_LO 0)
      Answers (.bistSliceDone false) s ((s.sliceRun (ownerSlice r.owner) false).releaseEnd 3 r.mid) ∧
      (32 ≤ r.owner → Answers (.bistSliceDone true) s ((s1.releaseUnit (r.owner - 31)).releaseEnd 1 r.mid)) ∧
      (r.owner < 32 → r.owner < s.plt.eng.length → ∃ u : State, Answers (.bistSliceDone true) s (u.releaseEnd 1 r.mid) ∧
        u.engine r.owner = { s.engine r.owner with rstate := .rejoining, halted := false } ∧ ∀ d, d ≠ r.owner → u.engine d = s.engine d)) ∧
    (s.flt.release = none → s.bst.running = true → s.bst.mode = 0 → 32 ≤ s.bst.slice →
      (Answers (.bistSliceDone true) s (((s.sliceRun s.bst.slice true).unitReset (sliceOwner s.bst.slice - 31)).bstEnd 1) ∧
      Answers (.bistSliceDone false) s ((s.sliceRun s.bst.slice false).bstEnd 2))) ∧
    (∀ (s2 : State) (j : Option Nat), s.flt.release = none → s.bst.running = true → s.bst.mode = 1 →
      let s1 := s.sliceRun s.bst.slice pass
      let cut : Prop := s1.bst.abort = true ∨ s1.twn.takePending = true
      (cut → Answers (.bistSliceDone pass) s (s1.wholeEnd 4)) ∧
      (¬cut → State.nextSlice 48 s1 (s.bst.slice + 1) = (s2, j) →
        (∀ k, j = some k → Answers (.bistSliceDone pass) s (s2.modBst fun b => { b with slice := k })) ∧
        (j = none → Answers (.bistSliceDone pass) s (s2.wholeEnd (if s2.bst.failed = 0 then 1 else 2))))) ∧
    (∀ (s2 : State) (j : Option Nat), s.flt.release = none → s.bst.running = true → 2 ≤ s.bst.mode →
      let s0 := s.shutdownGo
      (s0.bst.stopped = false → Answers (.bistSliceDone pass) s s0) ∧
      (s0.bst.stopped = true → State.nextSlice 48 (s0.sliceRun s.bst.slice pass) (s.bst.slice + 1) = (s2, j) →
        (∀ k, j = some k → Answers (.bistSliceDone pass) s (s2.modBst fun b => { b with slice := k })) ∧
        (j = none → Answers (.bistSliceDone pass) s
          ((({ s2 with bkp := { s2.bkp with bstLast := some s2.bstLastWord } }).bstEnd (if s2.bst.failed = 0 then 1 else 2))))))

/-- Power states, the backup domain and the RTC. PWR_LTR is clamped to 1,000,000. An entry goes one state deeper toward the target,
the engines' counters taken as they stand at the change, and a wake begins an exit, whose end gives FULL and performs the waiting accesses in
order; a wake during the entry from FULL abandons it. A supply switch records the RTC and
SWITCHED; VBAT below 2.20 V is BACKUP_LOW. The domain's power-on reset clears it with TIME_LOST. The first read of the RTC group
freezes its shadows until all three are read or 2 ms have passed. HALT freezes the seconds, counts ROLL, and its release adds
ROLL; the counter is set while halted only. The periodic wake comes at the next multiple of PERIOD in the present second (one second at a time is a
choice of the model, log entry 125). The roll-over, and the software reset by its key. -/
def Obligations.PowerBackupAndRtcRun : Prop :=
  ∀ (src i mv frac : Nat) (v : Word) (env : BootEnv) (s : State),
    let b := s.bkp
    let now : RtcVal := { b.rtc with frac := max b.rtc.frac (frac % 32768) }
    let sc := s.catchUpAll
    let woken : State := (({ s with pwr := { s.pwr with exiting := true } }).setReg Reg.PWR_WAKE_SRC (BitVec.ofNat 32 src)).event Reg.PWR_EVT 1
    (s.Reaches Reg.PWR_LTR v →
      Answers (.pwrLtrWrite v) s (s.setReg Reg.PWR_LTR (BitVec.ofNat 32 (min (bitsOf v.toNat 0 20) 1000000)))) ∧
    (sc.pwr = s.pwr ∧ sc.logb = s.logb) ∧
    (((s.pwr.exiting = true ∧ s.pwr.state ≠ 0) ∨ (s.pwr.exiting = false ∧ sc.pwrTarget ≤ s.pwr.state)) → Answers .pwrEntryStepDone s sc) ∧
    (s.pwr.exiting = true → s.pwr.state = 0 → Answers .pwrEntryStepDone s { sc with pwr := { s.pwr with exiting := false } }) ∧
    (s.pwr.exiting = false → s.pwr.state < sc.pwrTarget → ∃ u r, Answers .pwrEntryStepDone s u ∧
      u.pwr = { s.pwr with state := s.pwr.state + 1, exiting := false } ∧ (u.reg Reg.PWR_EVT).getLsbD 0 = true ∧
      u.logb.raised = s.logb.raised ++ [r] ∧ r.cls = 15 ∧ r.detail = padTo 16 [BitVec.ofNat 8 (s.pwr.state + 1)]) ∧
    (∀ c, s.pwrAllows c = true → c ≤ 4 → s.hif.pcie.d3hot = false → 0 < s.fld Reg.PWR_LTR 0 20 →
      nth 0 [0, 2, 200, 5000, 40000] c ≤ s.fld Reg.PWR_LTR 0 20 → c ≤ s.pwrTarget) ∧
    (s.fld Reg.PWR_LTR 0 20 = 0 → s.hif.pcie.d3hot = false → s.pwrTarget = 0) ∧
    ((src = 0 ∨ 8 ≤ src ∨ (s.pwr.state = 0 ∧ s.pwrTarget = 0) ∨ (src = 6 ∧ s.hasCap = false) ∨ (4 ≤ src ∧ src ≤ 7 ∧ s.bit Reg.PWR_WAKE_EN (src - 4) = false)) → Answers (.pwrWake src) s s) ∧
    (1 ≤ src → src ≤ 7 → (s.pwr.state ≠ 0 ∨ s.pwrTarget ≠ 0) → (src = 6 → s.hasCap = true) → (4 ≤ src → s.bit Reg.PWR_WAKE_EN (src - 4) = true) → Answers (.pwrWake src) s woken) ∧
    (s.pwr.exiting = false → Answers .powerStateExitDone s sc) ∧
    (s.pwr.exiting = true →
      (s.pwrEnter 0).pwr = { s.pwr with state := 0, exiting := false } ∧
      Answers .powerStateExitDone s (s.pwr.waiting.foldl State.performHeld
        { sc.pwrEnter 0 with pwr := { s.pwr with state := 0, exiting := false, waiting := [] } })) ∧
    (∀ (u : State) (n o : Nat) (x : Word), n < 16 → u.performHeld ⟨false, o, some x, 63⟩ = u.bar0Write o x 63 ∧
      u.performHeld ⟨false, o, none, 63⟩ = u.bar0Read o 63 ∧ u.performHeld ⟨true, 8 * n, some x, 63⟩ = sqTailDoorbell n x u ∧
      u.performHeld ⟨true, 8 * n + 4, some x, 63⟩ = cqHeadDoorbell n x u) ∧
    (b.onVbat = true → Answers (.bkpSwitchToVbat frac mv) s s) ∧
    (b.onVbat = false → ∃ u, Answers (.bkpSwitchToVbat frac mv) s u ∧ (u.reg Reg.RTC_EVT).getLsbD 1 = true ∧
      u.bkp = { b with rtc := now, onVbat := true, swoAt := now, switched := true, vbat := min mv 4095, backupLow := decide (mv < 2200), lowSeen := b.lowSeen || decide (mv < 2200) }) ∧
    (b.onVbat = false → Answers (.bkpReturnToMain frac) s s) ∧
    (b.onVbat = true → Answers (.bkpReturnToMain frac) s
      ({ s with bkp := { b with rtc := now, onVbat := false, retAt := now } }.event Reg.RTC_EVT 1)) ∧
    (let low := decide (mv < 2200)
     let u : State := { s with bkp := { b with vbat := min mv 4095, backupLow := low, lowSeen := b.lowSeen || low } };
     ((mv < 2200 → b.backupLow = true) → Answers (.vbatMeasure mv) s u) ∧
     (mv < 2200 → b.backupLow = false → Answers (.vbatMeasure mv) s (u.event Reg.RTC_EVT 2))) ∧
    Answers .bkpPorAssert s { s with bkp := { b with por := true } } ∧
    (b.por = false → Answers .bkpPorRelease s s) ∧
    (b.por = true → ∃ u, Answers .bkpPorRelease s u ∧ u.tb.dtState = .freeRun ∧ u.tb.active = 6 ∧
      u.bkp = { ({} : Bkp) with onVbat := b.onVbat, backupLow := b.backupLow, vbat := b.vbat } ∧
      u.bkp.timeLost = true ∧ u.bkp.bkpPor = true ∧ u.bkp.valid = false ∧ u.bkp.rtc = ⟨0, 0⟩ ∧ u.bkp.halted = false ∧ u.bkp.wakePeriod = 0) ∧
    (i < 3 →
      let shadow := if s.rtc.shadowFrozen then s.rtc.shadow else now
      let seen := (if s.rtc.shadowFrozen then s.rtc.shadowRead else 0) ||| BitVec.ofNat 3 (2 ^ i)
      Answers (.rtcGroupRead i frac) s { s with
        bkp := { b with rtc := now }, rdata := BitVec.ofNat 32 (nth 0 [shadow.frac, shadow.sec % 2 ^ 32, shadow.sec / 2 ^ 32] i),
        rtc := { s.rtc with shadow := shadow, shadowFrozen := decide (seen ≠ 7), shadowRead := if seen = 7 then 0 else seen, frozenAt := if s.rtc.shadowFrozen then s.rtc.frozenAt else s.dt } }) ∧
    (s.rtc.shadowFrozen = false → Answers .rtcShadowTimeout s s) ∧
    (s.rtc.shadowFrozen = true → ∃ u, Answers .rtcShadowTimeout s u ∧ u.rtc = { s.rtc with shadowFrozen := false, shadowRead := 0 } ∧
      (u.reg Reg.RTC_EVT).getLsbD 3 = true ∧ u.dt = max s.dt (s.rtc.frozenAt + 2 * subPerMs) ∧ u.bkp = b) ∧
    (s.Reaches Reg.RTC_CTRL v →
      (v.getLsbD 0 = true → Answers (.rtcHaltWrite v) s { s with bkp := { b with syncEn := v.getLsbD 1, halted := true } }) ∧
      (v.getLsbD 0 = false → b.halted = false → Answers (.rtcHaltWrite v) s { s with bkp := { b with syncEn := v.getLsbD 1 } }) ∧
      (v.getLsbD 0 = false → b.halted = true → Answers (.rtcHaltWrite v) s { s with
        bkp := { b with syncEn := v.getLsbD 1, halted := false, rtc := { b.rtc with sec := (b.rtc.sec + s.rtc.roll) % 2 ^ 48 } },
        rtc := { s.rtc with roll := 0, rollOvf := false } })) ∧
    (s.Reaches Reg.RTC_SET_FRAC v →
      (b.halted = false → Answers (.rtcSetFracWrite v) s s) ∧
      (b.halted = true → ∃ u, Answers (.rtcSetFracWrite v) s u ∧ u.bkp = { b with rtc := { b.rtc with frac := bitsOf v.toNat 0 15 } } ∧
        u.rtc = { s.rtc with roll := 0 } ∧ u.reg Reg.RTC_SET_FRAC = v &&& 0x7FFF)) ∧
    (s.Reaches Reg.RTC_SET_SEC_HI v →
      let lo := (mapFind s.hold Reg.RTC_SET_SEC_LO).getD (s.reg Reg.RTC_SET_SEC_LO)
      (b.halted = false → Answers (.rtcSetSecWrite v) s { s with hold := mapDel s.hold Reg.RTC_SET_SEC_LO }) ∧
      (b.halted = true → ∃ u, Answers (.rtcSetSecWrite v) s u ∧ u.rtc = s.rtc ∧
        u.bkp = { b with rtc := { b.rtc with sec := lo.toNat + 2 ^ 32 * bitsOf v.toNat 0 16 } })) ∧
    ((b.wakePeriod = 0 ∨ b.halted = true ∨ b.wakeFrac = none) → Answers .rtcWake s s) ∧
    (∀ f, b.halted = false → b.wakeFrac = some f →
      let s1 := { s with bkp := { b with rtc := { b.rtc with frac := max b.rtc.frac (f % 32768) } } }.event Reg.RTC_EVT 0
      (s.bit Reg.PWR_WAKE_EN 0 = false → Answers .rtcWake s s1) ∧ (s.bit Reg.PWR_WAKE_EN 0 = true → Answers .rtcWake s (s1.wake 4))) ∧
    (∀ f, b.wakeFrac = some f → b.wakePeriod ≠ 0 ∧ f % 128 = b.rtc.sec * 32768 % 128 ∧ (b.rtc.sec * 32768 + f) / 128 % b.wakePeriod.toNat = 0 ∧
      b.rtc.frac ≤ f ∧ f < 32768) ∧
    (s.Reaches Reg.RTC_RST_CTRL v →
      (v ≠ 0x5A5A0001 → Answers (.rtcRstCtrlWrite v env) s s) ∧
      (v = 0x5A5A0001 → Answers (.rtcRstCtrlWrite v env) s (coreResetRow 4 env s) ∧ (coreResetRow 4 env s).rtc.cause = 4)) ∧
    (b.halted = false → Answers .rtcSecondRollover s { s with bkp := { b with rtc := ⟨(b.rtc.sec + 1) % 2 ^ 48, 0⟩ } }) ∧
    (b.halted = true → s.rtc.roll < 255 →
      Answers .rtcSecondRollover s { s with bkp := { b with rtc := ⟨b.rtc.sec, 0⟩ }, rtc := { s.rtc with roll := s.rtc.roll + 1 } }) ∧
    (b.halted = true → 255 ≤ s.rtc.roll → Answers .rtcSecondRollover s
      ({ s with bkp := { b with rtc := ⟨b.rtc.sec, 0⟩ }, rtc := { s.rtc with rollOvf := true } }.event Reg.RTC_EVT 4))

/-- MTQ. Of every time-quality word, bits [3:0] are 0xF in FREE_RUN; 0x0 when DT is LOCKED, the active source is traceable and U is
at most 1,000 ns; otherwise the smallest code c from 0x1 to 0xB with U at most 10^(c-1) ns, or 0xF when U exceeds 10 s; never
0xC to 0xE (R85). -/
def Obligations.MtqCode : Prop :=
  ∀ (s : State) (sec : Nat) (switched : Bool),
    let mtq := (s.tqWord sec switched).toNat % 2 ^ 4
    (s.tb.dtState = .freeRun → mtq = 0xF) ∧
    (s.tb.dtState = .locked → s.traceable = true → s.unc ≤ 1000 → mtq = 0) ∧
    (s.tb.dtState ≠ .freeRun → ¬(s.tb.dtState = .locked ∧ s.traceable = true ∧ s.unc ≤ 1000) →
      (10 ^ 10 < s.unc → mtq = 0xF) ∧
      (∀ c, 1 ≤ c → c ≤ 0xB → s.unc ≤ 10 ^ (c - 1) → (∀ d, 1 ≤ d → d < c → 10 ^ (d - 1) < s.unc) → mtq = c)) ∧
    mtq ≠ 0xC ∧ mtq ≠ 0xD ∧ mtq ≠ 0xE

/-- PTQ. Of every time-quality word, bits [6:4] are 7 in FREE_RUN; otherwise the first that applies: 1 for U below 100 ns, 2 below
1 µs, 3 below 10 µs, 4 below 100 µs, 5 below 1 ms, 6 below 10 ms, and 7 in every other case; never 0 (R86). -/
def Obligations.PtqCode : Prop :=
  ∀ (s : State) (sec : Nat) (switched : Bool),
    let ptq := (s.tqWord sec switched).toNat / 2 ^ 4 % 2 ^ 3
    (s.tb.dtState = .freeRun → ptq = 7) ∧
    (s.tb.dtState ≠ .freeRun →
      (s.unc < 100 → ptq = 1) ∧
      (∀ c, 2 ≤ c → c ≤ 6 → 10 ^ c ≤ s.unc → s.unc < 10 ^ (c + 1) → ptq = c) ∧
      (10 ^ 7 ≤ s.unc → ptq = 7)) ∧
    ptq ≠ 0

/-- ID_ENG_MASK. Bit n of the register ID_ENG_MASK is 1 exactly when engine n is present; it reads 0xFFFF_FFFF in an FN-8240 or
FN-8230 and 0xCF0F_FFFF in an FN-8220, whose engines 20 to 23, 28 and 29 are absent (R13). -/
def Obligations.EngineMask : Prop :=
  ∀ s : State,
    (∀ n < 32, s.hasEng n = (s.viewReg Reg.ID_ENG_MASK).getLsbD n) ∧
    (s.hw.variant = .fn8240 ∨ s.hw.variant = .fn8230 →
      s.viewReg Reg.ID_ENG_MASK = 0xFFFFFFFF ∧ ∀ n < 32, s.hasEng n = true) ∧
    (s.hw.variant = .fn8220 →
      s.viewReg Reg.ID_ENG_MASK = 0xCF0FFFFF ∧ ∀ n < 32, s.hasEng n = decide (n ∉ [20, 21, 22, 23, 28, 29]))
end

