-- ==== Sys2Proof/Laws/Access.lean ====
section
/-! SUPPORT. What a write and a read of a register do once they reach their unit, and where they do not. -/

namespace Sys2Proof.Machine

variable {s : State} {o m : Nat} {v : Word}

/-- A write that reaches its unit is carried out. -/
theorem State.busWrite_reaches (h : s.Reaches o v) (f : State → State) : s.busWrite o v m f = f s := by
  obtain ⟨h1, h2, h3, h4⟩ := h
  simp [State.busWrite, h1, h2, h3, h4]

/-- A read that reaches its unit is carried out. -/
theorem State.busRead_readable (h : s.Readable o) (f : State → State) : s.busRead o m f = f s := by
  obtain ⟨h1, h2⟩ := h
  simp [State.busRead, h1, h2]

/-- Writes of an absent unit's registers are ignored. -/
theorem State.busWrite_absent (h : s.blockAbsent o = true) (f : State → State) : s.busWrite o v m f = s := by
  simp [State.busWrite, h]

/-- A write of BAR0 by the host that reaches a register. -/
theorem State.bar0Write_reaches (h : s.Reaches o v) (hr : (rowAt o).isSome) : s.bar0Write o v 63 = s.regAct o v := by
  have hn : (rowAt o).isNone = false := by
    cases h' : rowAt o
    · rw [h'] at hr; cases hr
    · rfl
  simp [State.bar0Write, State.busWrite_reaches h, h.1, hn]

/-- A read of BAR0 by the host that reaches a register. -/
theorem State.bar0Read_readable (h : s.Readable o) (hr : (rowAt o).isSome) : s.bar0Read o 63 = s.readAct o := by
  have hn : (rowAt o).isNone = false := by
    cases h' : rowAt o
    · rw [h'] at hr; cases hr
    · rfl
  simp [State.bar0Read, State.busRead_readable h, h.1, hn]

end Sys2Proof.Machine
end

