-- ==== Sys2Proof/Laws/BootingBase.lean ====
section
/-! SUPPORT. The relation Booting: what the start sequence of a core reset leaves as the reset left it. It composes. -/

namespace Sys2Proof.Machine

/-- The queue, the straps, device time and the time base, the debug port, the RTC, the pins, the ports, alignment, the islanding and alarm units, the composer, metering, capture, and what reads have latched, held or returned, are the same. -/
structure Booting (s t : State) : Prop where
  pending : t.pending = s.pending
  hw_straps : t.hw.straps = s.hw.straps
  dt : t.dt = s.dt
  tb : t.tb = s.tb
  latch : t.latch = s.latch
  hold : t.hold = s.hold
  rdata : t.rdata = s.rdata
  dbg : t.dbg = s.dbg
  rtc : t.rtc = s.rtc
  pins : t.pins = s.pins
  mac : t.mac = s.mac
  aln : t.aln = s.aln
  isl : t.isl = s.isl
  alm : t.alm = s.alm
  outp : t.outp = s.outp
  mtr : t.mtr = s.mtr
  cap : t.cap = s.cap

theorem Booting.refl (s : State) : Booting s s := ⟨rfl, rfl, rfl, rfl, rfl, rfl, rfl, rfl, rfl, rfl, rfl, rfl, rfl, rfl, rfl, rfl, rfl⟩

/-- A record update of other fields than those Booting speaks of. -/
theorem Booting.upd {r s t : State} (h : Booting r s)
    (e0 : t.pending = s.pending) (e1 : t.hw.straps = s.hw.straps) (e2 : t.dt = s.dt) (e3 : t.tb = s.tb) (e4 : t.latch = s.latch) (e5 : t.hold = s.hold) (e6 : t.rdata = s.rdata) (e7 : t.dbg = s.dbg) (e8 : t.rtc = s.rtc) (e9 : t.pins = s.pins) (e10 : t.mac = s.mac) (e11 : t.aln = s.aln) (e12 : t.isl = s.isl) (e13 : t.alm = s.alm) (e14 : t.outp = s.outp) (e15 : t.mtr = s.mtr) (e16 : t.cap = s.cap) : Booting r t :=
  ⟨e0.trans h.pending, e1.trans h.hw_straps, e2.trans h.dt, e3.trans h.tb, e4.trans h.latch, e5.trans h.hold, e6.trans h.rdata, e7.trans h.dbg, e8.trans h.rtc, e9.trans h.pins, e10.trans h.mac, e11.trans h.aln, e12.trans h.isl, e13.trans h.alm, e14.trans h.outp, e15.trans h.mtr, e16.trans h.cap⟩

theorem Booting.ite {r a b : State} {c : Prop} [Decidable c] (ha : Booting r a) (hb : Booting r b) : Booting r (if c then a else b) := by
  split <;> assumption

theorem Booting.iteFst {α : Type} {r : State} {a b : State × α} {c : Prop} [Decidable c] (ha : Booting r a.1) (hb : Booting r b.1) :
    Booting r (if c then a else b).1 := by
  split <;> assumption

theorem Booting.ofFst {α : Type} {r s : State} {p : State × α} {a : α} (e : p = (s, a)) (h : Booting r p.1) : Booting r s := by
  rw [e] at h; exact h

theorem Booting.foldl {α : Type} {r : State} {f : State → α → State} (hf : ∀ x a, Booting r x → Booting r (f x a)) :
    ∀ {s : State} (l : List α), Booting r s → Booting r (l.foldl f s)
  | _, [], h => h
  | s, a :: l, h => Booting.foldl hf (s := f s a) l (hf s a h)

theorem Booting.foldlFst {α β : Type} {r : State} {f : State × β → α → State × β} (hf : ∀ x a, Booting r x.1 → Booting r (f x a).1) :
    ∀ {s : State × β} (l : List α), Booting r s.1 → Booting r (l.foldl f s).1
  | _, [], h => h
  | s, a :: l, h => Booting.foldlFst hf (s := f s a) l (hf s a h)

end Sys2Proof.Machine
end

