-- ==== Sys2Proof/Laws/Booting.lean ====
section
/-! SUPPORT. The start sequence of a core reset (R534) leaves what Booting names as the reset left it. -/

namespace Sys2Proof.Machine

/-! ### Ops.lean -/

theorem State.dramWrite_booting {r s : State} (h : Booting r s) (a : Nat) (bs : List Byte) : Booting r (s.dramWrite a bs) := by
  unfold State.dramWrite
  exact h.upd rfl rfl rfl rfl rfl rfl rfl rfl rfl rfl rfl rfl rfl rfl rfl rfl rfl

theorem State.setReg_booting {r s : State} (h : Booting r s) (off : Nat) (v : Word) : Booting r (s.setReg off v) := by
  unfold State.setReg
  exact h.upd rfl rfl rfl rfl rfl rfl rfl rfl rfl rfl rfl rfl rfl rfl rfl rfl rfl

theorem State.event_booting {r s : State} (h : Booting r s) (off : Nat) (i : Nat) : Booting r (s.event off i) := by
  unfold State.event
  apply State.setReg_booting
  exact h

theorem State.setReg64_booting {r s : State} (h : Booting r s) (lo : Nat) (v : Nat) : Booting r (s.setReg64 lo v) := by
  unfold State.setReg64
  apply State.setReg_booting
  apply State.setReg_booting
  exact h

theorem State.countBy_booting {r s : State} (h : Booting r s) (lo : Nat) (n : Nat) : Booting r (s.countBy lo n) := by
  unfold State.countBy
  apply State.setReg64_booting
  exact h

theorem State.count_booting {r s : State} (h : Booting r s) (lo : Nat) : Booting r (s.count lo) := by
  unfold State.count
  apply State.countBy_booting
  exact h

theorem State.freshNext_booting {r s : State} (h : Booting r s) : Booting r (s.freshNext) := by
  unfold State.freshNext
  exact h.upd rfl rfl rfl rfl rfl rfl rfl rfl rfl rfl rfl rfl rfl rfl rfl rfl rfl

theorem State.report_booting {r s : State} (h : Booting r s) (src : Nat) (cause : Nat) (master : Nat) (access : Nat) (addr : Nat) : Booting r (s.report src cause master access addr) := by
  unfold State.report
  extract_lets x1
  refine Booting.ite ?_ ?_
  · exact h
  · exact h.upd rfl rfl rfl rfl rfl rfl rfl rfl rfl rfl rfl rfl rfl rfl rfl rfl rfl

theorem State.mirrorItem_booting {r s : State} (h : Booting r s) (item : Nat) (body : List Byte) : Booting r (s.mirrorItem item body) := by
  unfold State.mirrorItem
  extract_lets x1 x2
  refine Booting.ite ?_ ?_
  · refine Booting.ite ?_ ?_
    · exact h.upd rfl rfl rfl rfl rfl rfl rfl rfl rfl rfl rfl rfl rfl rfl rfl rfl rfl
    · apply State.event_booting
      apply State.count_booting
      exact h.upd rfl rfl rfl rfl rfl rfl rfl rfl rfl rfl rfl rfl rfl rfl rfl rfl rfl
  · exact h

/-! ### Manifest.lean -/

theorem State.modRing_booting {r s : State} (h : Booting r s) (n : Nat) (f : Ring → Ring) : Booting r (s.modRing n f) := by
  unfold State.modRing
  extract_lets x1
  exact h.upd rfl rfl rfl rfl rfl rfl rfl rfl rfl rfl rfl rfl rfl rfl rfl rfl rfl

theorem State.ringSettle_booting {r s : State} (h : Booting r s) (n : Nat) : Booting r (s.ringSettle n) := by
  unfold State.ringSettle
  extract_lets x1
  refine Booting.ite ?_ ?_
  · apply State.modRing_booting
    exact h
  · exact h

theorem State.finishOne_booting {r s : State} (h : Booting r s) (mid : Nat) (status : Nat) (d0 : Nat) (detail : List Byte) : Booting r (s.finishOne mid status d0 detail) := by
  unfold State.finishOne
  split
  · exact h
  · extract_lets x3 x4 x5
    have hx4 : Booting r x4 := by
      unfold x4
      refine Booting.foldl ?_ _ ?_
      · intro y7 y8 y9
        apply State.modRing_booting
        exact y9
      · exact h
    clear_value x4
    have hx5 : Booting r x5 := by
      unfold x5
      refine Booting.ite ?_ ?_
      · apply State.count_booting
        exact hx4
      · exact hx4
    clear_value x5
    apply State.ringSettle_booting
    exact hx5

theorem State.finishRaw_booting {r s : State} (h : Booting r s) (mid : Nat) (status : Nat) (d0 : Nat) (detail : List Byte) : Booting r (s.finishRaw mid status d0 detail) := by
  unfold State.finishRaw
  extract_lets x1
  refine Booting.foldl ?_ _ ?_
  · intro y3 y4 y5
    apply State.finishOne_booting
    exact y5
  · apply State.finishOne_booting
    exact h

theorem State.autoComplete_booting {r : State} (k : Nat) {s : State} (h : Booting r s) (n : Nat) : Booting r (State.autoComplete k s n) := by
  induction k generalizing s with
  | zero => exact h
  | succ k ih =>
    unfold State.autoComplete
    refine Booting.ite ?_ h
    split
    · split
      · exact ih (State.finishRaw_booting h _ _ _ _)
      · exact h
    · exact h

theorem State.autoAll_booting {r s : State} (h : Booting r s) : Booting r (s.autoAll) := by
  unfold State.autoAll
  refine Booting.foldl ?_ _ ?_
  · intro y1 y2 y3
    apply State.autoComplete_booting
    exact y3
  · exact h

theorem State.finish_booting {r s : State} (h : Booting r s) (mid : Nat) (status : Nat) (d0 : Nat) (detail : List Byte) : Booting r (s.finish mid status d0 detail) := by
  unfold State.finish
  apply State.autoAll_booting
  apply State.finishRaw_booting
  exact h

theorem State.finishOpt_booting {r s : State} (h : Booting r s) (mid : Option Nat) (status : Nat) (d0 : Nat) (detail : List Byte) : Booting r (s.finishOpt mid status d0 detail) := by
  unfold State.finishOpt
  split
  · apply State.finish_booting
    exact h
  · exact h

/-! ### Cfg.lean -/

theorem State.acceptCommit_booting {r s : State} (h : Booting r s) (c : Commit) : Booting r (s.acceptCommit c) := by
  unfold State.acceptCommit
  extract_lets x1 x2 x3
  have hx2 : Booting r x2 := by
    unfold x2
    exact h.upd rfl rfl rfl rfl rfl rfl rfl rfl rfl rfl rfl rfl rfl rfl rfl rfl rfl
  clear_value x2
  refine Booting.ite ?_ ?_
  · exact hx2.upd rfl rfl rfl rfl rfl rfl rfl rfl rfl rfl rfl rfl rfl rfl rfl rfl rfl
  · exact hx2

theorem State.flashFail_booting {r s : State} (h : Booting r s) : Booting r (s.flashFail) := by
  unfold State.flashFail
  apply State.report_booting
  apply State.event_booting
  exact h

/-! ### KeyStore.lean -/

theorem State.deriveStart_booting {r s : State} (h : Booting r s) (slot : Nat) : Booting r (s.deriveStart slot) := by
  unfold State.deriveStart
  extract_lets x1
  refine Booting.ite ?_ ?_
  · exact h.upd rfl rfl rfl rfl rfl rfl rfl rfl rfl rfl rfl rfl rfl rfl rfl rfl rfl
  · exact h

theorem State.keyRestore_booting {r s : State} (h : Booting r s) : Booting r (s.keyRestore) := by
  unfold State.keyRestore
  extract_lets x1
  refine Booting.ite ?_ ?_
  · exact h.upd rfl rfl rfl rfl rfl rfl rfl rfl rfl rfl rfl rfl rfl rfl rfl rfl rfl
  · apply State.event_booting
    exact h.upd rfl rfl rfl rfl rfl rfl rfl rfl rfl rfl rfl rfl rfl rfl rfl rfl rfl

/-! ### Log.lean -/

theorem State.modLog_booting {r s : State} (h : Booting r s) (f : Logb → Logb) : Booting r (s.modLog f) := by
  unfold State.modLog
  exact h.upd rfl rfl rfl rfl rfl rfl rfl rfl rfl rfl rfl rfl rfl rfl rfl rfl rfl

theorem State.logPut_booting {r s : State} (h : Booting r s) (a1 : LogRec) : Booting r (s.logPut a1) := by
  unfold State.logPut
  extract_lets x1 x2 x3 x4 x5
  have hx4 : Booting r x4 := by
    unfold x4
    exact h.upd rfl rfl rfl rfl rfl rfl rfl rfl rfl rfl rfl rfl rfl rfl rfl rfl rfl
  clear_value x4
  have hx5 : Booting r x5 := by
    unfold x5
    refine Booting.ite ?_ ?_
    · apply State.dramWrite_booting
      exact hx4
    · exact hx4
  clear_value x5
  exact hx5

/-- A crypto context taken and given back (R41, R516). -/
theorem State.logHash_booting {r s : State} (h : Booting r s) : Booting r s.logHash := by
  unfold State.logHash State.cryptoNow State.leaseNow
  split
  · split
    · exact h.upd rfl rfl rfl rfl rfl rfl rfl rfl rfl rfl rfl rfl rfl rfl rfl rfl rfl
    · exact h
  · exact h

theorem State.logBegins_booting {r s : State} (h : Booting r s) : Booting r s.logBegins :=
  h.upd rfl rfl rfl rfl rfl rfl rfl rfl rfl rfl rfl rfl rfl rfl rfl rfl rfl

theorem State.logWrite_booting {r s : State} (h : Booting r s) (e : LogRaise) (nSnap : Nat) (area : List Byte) : Booting r (s.logWrite e nSnap area) := by
  unfold State.logWrite
  extract_lets x1 x2 x3 x4 x5 x0 x6 x7 x8
  have hx6 : Booting r x6 := by
    unfold x6
    apply State.mirrorItem_booting
    apply State.logPut_booting
    apply State.logBegins_booting
    apply State.logHash_booting
    exact h
  clear_value x6
  have hx7 : Booting r x7 := by
    unfold x7
    apply State.modLog_booting
    exact hx6
  clear_value x7
  have hx8 : Booting r x8 := by
    unfold x8
    refine Booting.ite ?_ ?_
    · apply State.event_booting
      apply State.count_booting
      exact hx7
    · exact hx7
  clear_value x8
  apply State.finishOpt_booting
  apply State.event_booting
  apply State.count_booting
  exact hx8

/-! ### Pilot.lean -/

theorem State.modPlt_booting {r s : State} (h : Booting r s) (f : Plt → Plt) : Booting r (s.modPlt f) := by
  unfold State.modPlt
  exact h.upd rfl rfl rfl rfl rfl rfl rfl rfl rfl rfl rfl rfl rfl rfl rfl rfl rfl

theorem State.modEng_booting {r s : State} (h : Booting r s) (e : Nat) (f : Eng → Eng) : Booting r (s.modEng e f) := by
  unfold State.modEng
  apply State.modPlt_booting
  exact h

theorem State.passRoles_booting {r s : State} (h : Booting r s) (e : Nat) : Booting r (s.passRoles e) := by
  unfold State.passRoles
  extract_lets x1 x2
  split
  · refine Booting.foldl ?_ _ ?_
    · intro y5 y6 y7
      extract_lets x9 x10 x11
      refine Booting.ite ?_ ?_
      · split
        · apply State.modPlt_booting
          exact y7
        · exact y7
      · exact y7
    · exact h
  · split
    · extract_lets x21 x22
      have hx21 : Booting r x21 := by
        unfold x21
        apply State.modPlt_booting
        exact h
      clear_value x21
      have hx22 : Booting r x22 := by
        unfold x22
        refine Booting.ite ?_ ?_
        · exact hx21.upd rfl rfl rfl rfl rfl rfl rfl rfl rfl rfl rfl rfl rfl rfl rfl rfl rfl
        · exact h
      clear_value x22
      refine Booting.ite ?_ ?_
      · apply State.deriveStart_booting
        apply State.modPlt_booting
        exact hx22
      · exact hx22
    · exact h
  · split
    · exact h.upd rfl rfl rfl rfl rfl rfl rfl rfl rfl rfl rfl rfl rfl rfl rfl rfl rfl
    · exact h
  · exact h

theorem State.noteEmpty_booting {r s : State} (h : Booting r s) (e : Nat) : Booting r (s.noteEmpty e) := by
  unfold State.noteEmpty
  refine Booting.ite ?_ ?_
  · apply State.event_booting
    exact h
  · exact h

/-! ### Fault.lean -/

theorem State.trngFails_booting {r s : State} (h : Booting r s) : Booting r (s.trngFails) := by
  unfold State.trngFails
  extract_lets x1
  apply State.event_booting
  exact h.upd rfl rfl rfl rfl rfl rfl rfl rfl rfl rfl rfl rfl rfl rfl rfl rfl rfl

/-! ### Reset.lean -/

theorem State.bootRoot_booting {r s : State} (h : Booting r s) (trngOk otpOk : Bool) : Booting r (s.bootRoot trngOk otpOk) := by
  unfold State.bootRoot
  refine Booting.ite (State.report_booting (State.trngFails_booting h) _ _ _ _ _) (Booting.ite h (Booting.ite ?_ ?_))
  · exact (State.freshNext_booting h).upd rfl rfl rfl rfl rfl rfl rfl rfl rfl rfl rfl rfl rfl rfl rfl rfl rfl
  · exact h.upd rfl rfl rfl rfl rfl rfl rfl rfl rfl rfl rfl rfl rfl rfl rfl rfl rfl

theorem State.bootEngine_booting {r s : State} (h : Booting r s) (e : Nat) : Booting r (s.bootEngine e) := by
  unfold State.bootEngine
  refine Booting.ite ?_ ?_
  · exact h
  · split
    · apply State.modEng_booting
      exact h
    · apply State.modEng_booting
      exact h

theorem State.bootRoles_booting {r s : State} (h : Booting r s) : Booting r (s.bootRoles) := by
  unfold State.bootRoles
  refine Booting.foldl ?_ _ ?_
  · intro y1 y2 y3
    refine Booting.ite ?_ ?_
    · apply State.noteEmpty_booting
      apply State.passRoles_booting
      exact y3
    · exact y3
  · exact h

theorem State.bootKeys_booting {r s : State} (h : Booting r s) : Booting r (s.bootKeys) := by
  unfold State.bootKeys
  extract_lets x1
  have hx1 : Booting r x1 := by
    unfold x1
    apply State.deriveStart_booting
    apply State.deriveStart_booting
    apply State.keyRestore_booting
    exact h
  clear_value x1
  refine Booting.ite ?_ ?_
  · apply State.deriveStart_booting
    exact hx1
  · exact hx1

theorem State.bootLog_booting {r s : State} (h : Booting r s) : Booting r (s.bootLog) := by
  unfold State.bootLog
  extract_lets x1 x2 x3 x4 x5 x6
  have hx4 : Booting r x4 := by
    unfold x4
    apply State.freshNext_booting
    apply State.freshNext_booting
    exact h
  clear_value x4
  refine Booting.ite ?_ ?_
  · split
    · apply State.modLog_booting
      exact h
    · exact h
  · apply State.modLog_booting
    exact hx4.upd rfl rfl rfl rfl rfl rfl rfl rfl rfl rfl rfl rfl rfl rfl rfl rfl rfl

theorem State.bootStart_booting {r s : State} (h : Booting r s) (cause : Nat) : Booting r (s.bootStart cause) := by
  unfold State.bootStart
  extract_lets x1 x2 x3
  apply State.logWrite_booting
  exact h

theorem State.bootLoad_booting {r s : State} (h : Booting r s) (flashOk : Bool) : Booting r (s.bootLoad flashOk) := by
  unfold State.bootLoad
  extract_lets x1 x2
  have hx1 : ∀ a0 a1, Booting r a1 → Booting r (x1 a0 a1) := by
    intro y3 y4 y5
    unfold x1
    extract_lets x7
    exact y5.upd rfl rfl rfl rfl rfl rfl rfl rfl rfl rfl rfl rfl rfl rfl rfl rfl rfl
  clear_value x1
  refine Booting.ite ?_ ?_
  · apply hx1
    exact h
  · split
    · apply hx1
      exact h
    · extract_lets x16 x17
      have hx16 : Booting r x16 := by
        unfold x16
        exact h.upd rfl rfl rfl rfl rfl rfl rfl rfl rfl rfl rfl rfl rfl rfl rfl rfl rfl
      clear_value x16
      refine Booting.ite ?_ ?_
      · apply hx1
        apply State.flashFail_booting
        exact hx16
      · split
        · apply hx1
          exact hx16
        · extract_lets x27
          have hx27 : Booting r x27 := by
            unfold x27
            exact hx16.upd rfl rfl rfl rfl rfl rfl rfl rfl rfl rfl rfl rfl rfl rfl rfl rfl rfl
          clear_value x27
          refine Booting.ite ?_ ?_
          · apply hx1
            exact hx16
          · apply State.acceptCommit_booting
            exact hx27

end Sys2Proof.Machine
end

