-- ==== Sys2Proof/Laws/CalmBase.lean ====
section
/-! SUPPORT. The relation Calm: what the steps that follow every command leave as it is. It composes. -/

namespace Sys2Proof.Machine

/-- The queue, the part, device time and the time base, the berth directory, the front end, the debug port, the configuration sets,
the RTC, the pins, and what reads have latched, held or returned, are the same. -/
structure Calm (s t : State) : Prop where
  pending : t.pending = s.pending
  hw : t.hw = s.hw
  dt : t.dt = s.dt
  latch : t.latch = s.latch
  hold : t.hold = s.hold
  rdata : t.rdata = s.rdata
  tb : t.tb = s.tb
  bin : t.bin = s.bin
  fe : t.fe = s.fe
  dbg : t.dbg = s.dbg
  cfg : t.cfg = s.cfg
  rtc : t.rtc = s.rtc
  pins : t.pins = s.pins

theorem Calm.refl (s : State) : Calm s s := ⟨rfl, rfl, rfl, rfl, rfl, rfl, rfl, rfl, rfl, rfl, rfl, rfl, rfl⟩

/-- A record update of other fields than those Calm speaks of. -/
theorem Calm.upd {r s t : State} (h : Calm r s)
    (e0 : t.pending = s.pending) (e1 : t.hw = s.hw) (e2 : t.dt = s.dt) (e3 : t.latch = s.latch) (e4 : t.hold = s.hold) (e5 : t.rdata = s.rdata) (e6 : t.tb = s.tb) (e7 : t.bin = s.bin) (e8 : t.fe = s.fe) (e9 : t.dbg = s.dbg) (e10 : t.cfg = s.cfg) (e11 : t.rtc = s.rtc) (e12 : t.pins = s.pins) : Calm r t :=
  ⟨e0.trans h.pending, e1.trans h.hw, e2.trans h.dt, e3.trans h.latch, e4.trans h.hold, e5.trans h.rdata, e6.trans h.tb, e7.trans h.bin, e8.trans h.fe, e9.trans h.dbg, e10.trans h.cfg, e11.trans h.rtc, e12.trans h.pins⟩

theorem Calm.ite {r a b : State} {c : Prop} [Decidable c] (ha : Calm r a) (hb : Calm r b) : Calm r (if c then a else b) := by
  split <;> assumption

theorem Calm.iteFst {α : Type} {r : State} {a b : State × α} {c : Prop} [Decidable c] (ha : Calm r a.1) (hb : Calm r b.1) :
    Calm r (if c then a else b).1 := by
  split <;> assumption

theorem Calm.ofFst {α : Type} {r s : State} {p : State × α} {a : α} (e : p = (s, a)) (h : Calm r p.1) : Calm r s := by
  rw [e] at h; exact h

theorem Calm.foldl {α : Type} {r : State} {f : State → α → State} (hf : ∀ x a, Calm r x → Calm r (f x a)) :
    ∀ {s : State} (l : List α), Calm r s → Calm r (l.foldl f s)
  | _, [], h => h
  | s, a :: l, h => Calm.foldl hf (s := f s a) l (hf s a h)

theorem Calm.foldlFst {α β : Type} {r : State} {f : State × β → α → State × β} (hf : ∀ x a, Calm r x.1 → Calm r (f x a).1) :
    ∀ {s : State × β} (l : List α), Calm r s.1 → Calm r (l.foldl f s).1
  | _, [], h => h
  | s, a :: l, h => Calm.foldlFst hf (s := f s a) l (hf s a h)

end Sys2Proof.Machine
end

