-- ==== Sys2Proof/Laws/Calm.lean ====
section
/-! SUPPORT. What follows every command is calm: it leaves the parts of the state that Calm names as they are. -/

namespace Sys2Proof.Machine

/-! ### Ops.lean -/

theorem State.dramWrite_calm {r s : State} (h : Calm r s) (a : Nat) (bs : List Byte) : Calm r (s.dramWrite a bs) := by
  unfold State.dramWrite
  exact h.upd rfl rfl rfl rfl rfl rfl rfl rfl rfl rfl rfl rfl rfl

theorem State.setReg_calm {r s : State} (h : Calm r s) (off : Nat) (v : Word) : Calm r (s.setReg off v) := by
  unfold State.setReg
  exact h.upd rfl rfl rfl rfl rfl rfl rfl rfl rfl rfl rfl rfl rfl

theorem State.setFld_calm {r s : State} (h : Calm r s) (off : Nat) (lo : Nat) (w : Nat) (v : Nat) : Calm r (s.setFld off lo w v) := by
  unfold State.setFld
  apply State.setReg_calm
  exact h

theorem State.event_calm {r s : State} (h : Calm r s) (off : Nat) (i : Nat) : Calm r (s.event off i) := by
  unfold State.event
  apply State.setReg_calm
  exact h

theorem State.setReg64_calm {r s : State} (h : Calm r s) (lo : Nat) (v : Nat) : Calm r (s.setReg64 lo v) := by
  unfold State.setReg64
  apply State.setReg_calm
  apply State.setReg_calm
  exact h

theorem State.countBy_calm {r s : State} (h : Calm r s) (lo : Nat) (n : Nat) : Calm r (s.countBy lo n) := by
  unfold State.countBy
  apply State.setReg64_calm
  exact h

theorem State.count_calm {r s : State} (h : Calm r s) (lo : Nat) : Calm r (s.count lo) := by
  unfold State.count
  apply State.countBy_calm
  exact h

theorem State.setTs_calm {r s : State} (h : Calm r s) (off : Nat) (t : Nat) : Calm r (s.setTs off t) := by
  unfold State.setTs
  apply State.setReg_calm
  apply State.setReg_calm
  apply State.setReg_calm
  apply State.setReg_calm
  exact h

theorem State.emit_calm {r s : State} (h : Calm r s) (o : Output) : Calm r (s.emit o) := by
  unfold State.emit
  exact h.upd rfl rfl rfl rfl rfl rfl rfl rfl rfl rfl rfl rfl rfl

theorem State.freshNext_calm {r s : State} (h : Calm r s) : Calm r (s.freshNext) := by
  unfold State.freshNext
  exact h.upd rfl rfl rfl rfl rfl rfl rfl rfl rfl rfl rfl rfl rfl

theorem State.logRaise_calm {r s : State} (h : Calm r s) (cls : Nat) (src : Nat) (ev : Nat) (detail : List Nat) : Calm r (s.logRaise cls src ev detail) := by
  unfold State.logRaise
  extract_lets x1
  exact h.upd rfl rfl rfl rfl rfl rfl rfl rfl rfl rfl rfl rfl rfl

theorem State.almSend_calm {r s : State} (h : Calm r s) (i : AlmInput) : Calm r (s.almSend i) := by
  unfold State.almSend
  extract_lets x1
  exact h.upd rfl rfl rfl rfl rfl rfl rfl rfl rfl rfl rfl rfl rfl

theorem State.capNotice_calm {r s : State} (h : Calm r s) (typ : Nat) (m : Nat → Nat → Bool) (at_ : Nat) (code : Nat) : Calm r (s.capNotice typ m at_ code) := by
  unfold State.capNotice
  extract_lets x1 x2
  refine Calm.ite ?_ ?_
  · exact h.upd rfl rfl rfl rfl rfl rfl rfl rfl rfl rfl rfl rfl rfl
  · exact h

theorem State.offer_calm {r s : State} (h : Calm r s) (port : Nat) (cls : TxClass) (body : TxBody) (bytes : Nat) (job : Option (Nat × Nat)) : Calm r (s.offer port cls body bytes job) := by
  unfold State.offer
  extract_lets x1 x2
  refine Calm.ite ?_ ?_
  · exact h.upd rfl rfl rfl rfl rfl rfl rfl rfl rfl rfl rfl rfl rfl
  · exact h.upd rfl rfl rfl rfl rfl rfl rfl rfl rfl rfl rfl rfl rfl

theorem State.wantTask_calm {r s : State} (h : Calm r s) (t : TaskReq) : Calm r (s.wantTask t) := by
  unfold State.wantTask
  extract_lets x1
  exact h.upd rfl rfl rfl rfl rfl rfl rfl rfl rfl rfl rfl rfl rfl

theorem State.deliver_calm {r s : State} (h : Calm r s) (d : Delivery) : Calm r (s.deliver d) := by
  unfold State.deliver
  extract_lets x1
  exact h.upd rfl rfl rfl rfl rfl rfl rfl rfl rfl rfl rfl rfl rfl

theorem State.mirrorItem_calm {r s : State} (h : Calm r s) (item : Nat) (body : List Byte) : Calm r (s.mirrorItem item body) := by
  unfold State.mirrorItem
  extract_lets x1 x2
  refine Calm.ite ?_ ?_
  · refine Calm.ite ?_ ?_
    · exact h.upd rfl rfl rfl rfl rfl rfl rfl rfl rfl rfl rfl rfl rfl
    · apply State.event_calm
      apply State.count_calm
      exact h.upd rfl rfl rfl rfl rfl rfl rfl rfl rfl rfl rfl rfl rfl
  · exact h

theorem State.leaseTake_calm {r s : State} (h : Calm r s) (pool : Nat) (index : Nat) (owner : Nat) : Calm r (s.leaseTake pool index owner) := by
  unfold State.leaseTake
  extract_lets x1
  exact h.upd rfl rfl rfl rfl rfl rfl rfl rfl rfl rfl rfl rfl rfl

/-! ### Power.lean -/

theorem State.wake_calm {r s : State} (h : Calm r s) (src : Nat) : Calm r (s.wake src) := by
  unfold State.wake
  extract_lets x1
  refine Calm.ite ?_ ?_
  · exact h
  · apply State.event_calm
    apply State.setReg_calm
    exact h.upd rfl rfl rfl rfl rfl rfl rfl rfl rfl rfl rfl rfl rfl

theorem State.pwrAfter_calm {r s : State} (h : Calm r s) (s0 : State) : Calm r (s0.pwrAfter s) := by
  unfold State.pwrAfter
  extract_lets x1 x2
  have hx1 : Calm r x1 := by
    unfold x1
    refine Calm.ite ?_ ?_
    · apply State.wake_calm
      exact h
    · exact h
  clear_value x1
  refine Calm.ite ?_ ?_
  · exact hx1.upd rfl rfl rfl rfl rfl rfl rfl rfl rfl rfl rfl rfl rfl
  · exact hx1

/-! ### KeyStore.lean -/

theorem State.keyUseErr_calm {r s : State} (h : Calm r s) : Calm r (s.keyUseErr) := by
  unfold State.keyUseErr
  apply State.event_calm
  apply State.count_calm
  exact h

theorem State.cryptoStart_calm {r s s' : State} (h : Calm r s) {o : CryptoOp} (e : s.cryptoStart o = some s') : Calm r s' := by
  unfold State.cryptoStart at e
  split at e
  · split at e
    · cases e
      apply State.leaseTake_calm
      exact h.upd rfl rfl rfl rfl rfl rfl rfl rfl rfl rfl rfl rfl rfl
    · cases e
  · cases e

theorem State.requestSign_calm {r s : State} (h : Calm r s) (use : CryptoUse) (slot : Nat) (msg : List Byte) :
    Calm r (s.requestSign use slot msg).1 := by
  unfold State.requestSign
  extract_lets waits key
  clear_value key
  refine Calm.iteFst ?_ (State.keyUseErr_calm h)
  split
  next e => exact State.cryptoStart_calm h e
  · exact State.count_calm h _

/-! ### Capture.lean -/

theorem State.modCap_calm {r s : State} (h : Calm r s) (c : Nat) (f : CapCh → CapCh) : Calm r (s.modCap c f) := by
  unfold State.modCap
  extract_lets x1
  exact h.upd rfl rfl rfl rfl rfl rfl rfl rfl rfl rfl rfl rfl rfl

theorem State.capEvent_calm {r s : State} (h : Calm r s) (bit : Nat) (c : Nat) : Calm r (s.capEvent bit c) := by
  unfold State.capEvent
  apply State.logRaise_calm
  apply State.event_calm
  exact h

theorem State.capClose_calm {r s : State} (h : Calm r s) (c : Nat) (o : CapOpen) : Calm r (s.capClose c o) := by
  unfold State.capClose
  extract_lets x1 x2
  have hx2 : Calm r x2 := by
    unfold x2
    apply State.modCap_calm
    exact h
  clear_value x2
  refine Calm.ite ?_ ?_
  · apply State.modCap_calm
    exact hx2
  · apply State.count_calm
    apply State.modCap_calm
    apply State.dramWrite_calm
    exact hx2

theorem State.capAppend_calm {r s : State} (h : Calm r s) (c : Nat) (o : CapOpen) (inst : Nat) (e : List Byte) : Calm r (s.capAppend c o inst e) := by
  unfold State.capAppend
  apply State.modCap_calm
  exact h

theorem State.capOpenBlock_calm {r s : State} (h : Calm r s) (c : Nat) (a2 : Nat) (inst : Nat) (period : Nat) (e : List Byte) : Calm r (s.capOpenBlock c a2 inst period e) := by
  unfold State.capOpenBlock
  extract_lets x1
  refine Calm.ite ?_ ?_
  · apply State.modCap_calm
    exact h
  · apply State.modCap_calm
    exact h

theorem State.capAdd_calm {r s : State} (h : Calm r s) (c : Nat) (a2 : Nat) (inst : Nat) (cov : Nat) (period : Nat) (mk : Nat → List Byte) : Calm r (s.capAdd c a2 inst cov period mk) := by
  unfold State.capAdd
  extract_lets x1 x2
  have hx2 : Calm r x2 := by
    unfold x2
    split
    · apply State.capOpenBlock_calm
      exact h
    · extract_lets x3
      refine Calm.ite ?_ ?_
      · apply State.capAppend_calm
        exact h
      · apply State.capOpenBlock_calm
        apply State.capClose_calm
        exact h
  clear_value x2
  refine Calm.ite ?_ ?_
  · exact h
  · refine Calm.ite ?_ ?_
    · apply State.modCap_calm
      exact h
    · apply State.modCap_calm
      exact hx2

theorem State.capSnap_calm {r s : State} (h : Calm r s) (seq : Nat) (inst : Nat) (next : Nat) (tq : BitVec 16) (lane : Nat → List Byte) : Calm r (s.capSnap seq inst next tq lane) := by
  unfold State.capSnap
  refine Calm.foldl ?_ _ ?_
  · intro y1 y2 y3
    extract_lets x5
    apply State.capAdd_calm
    exact y3
  · exact h

theorem State.capStop_calm {r s : State} (h : Calm r s) (c : Nat) (st : CapSt) (cause : Nat) (endAt : Nat) : Calm r (s.capStop c st cause endAt) := by
  unfold State.capStop
  extract_lets x1 x2 x3 x4
  have hx1 : Calm r x1 := by
    unfold x1
    refine Calm.foldl ?_ _ ?_
    · intro y6 y7 y8
      apply State.capClose_calm
      exact y8
    · exact h
  clear_value x1
  have hx2 : Calm r x2 := by
    unfold x2
    apply State.modCap_calm
    exact hx1
  clear_value x2
  have hx4 : Calm r x4 := by
    unfold x4
    exact hx2.upd rfl rfl rfl rfl rfl rfl rfl rfl rfl rfl rfl rfl rfl
  clear_value x4
  apply State.dramWrite_calm
  exact hx4

theorem capEndRow_calm {r s : State} (h : Calm r s) (c : Nat) : Calm r (capEndRow c s) := by
  unfold capEndRow
  refine Calm.ite ?_ ?_
  · apply State.count_calm
    apply State.capEvent_calm
    apply State.capStop_calm
    exact h
  · exact h

theorem capOverflowRow_calm {r s : State} (h : Calm r s) (c : Nat) (fifo : Bool) : Calm r (capOverflowRow c fifo s) := by
  unfold capOverflowRow
  extract_lets x1
  refine Calm.ite ?_ ?_
  · apply State.count_calm
    apply State.capEvent_calm
    apply State.capStop_calm
    exact h
  · exact h

theorem State.capAbort_calm {r s : State} (h : Calm r s) (c : Nat) : Calm r (s.capAbort c) := by
  unfold State.capAbort
  extract_lets x1 x2 x3
  have hx2 : Calm r x2 := by
    unfold x2
    apply State.modCap_calm
    exact h
  clear_value x2
  split
  · apply State.count_calm
    exact hx2.upd rfl rfl rfl rfl rfl rfl rfl rfl rfl rfl rfl rfl rfl
  · refine Calm.ite ?_ ?_
    · apply State.modCap_calm
      apply capEndRow_calm
      exact h
    · refine Calm.ite ?_ ?_
      · apply State.modCap_calm
        apply capOverflowRow_calm
        exact h
      · apply State.count_calm
        apply State.modCap_calm
        apply State.capStop_calm
        exact h
  · apply State.modCap_calm
    exact h

/-! ### Mtr.lean -/

theorem State.modMtr_calm {r s : State} (h : Calm r s) (f : Mtr → Mtr) : Calm r (s.modMtr f) := by
  unfold State.modMtr
  exact h.upd rfl rfl rfl rfl rfl rfl rfl rfl rfl rfl rfl rfl rfl

theorem State.modPoint_calm {r s : State} (h : Calm r s) (m : Nat) (f : MtrPoint → MtrPoint) : Calm r (s.modPoint m f) := by
  unfold State.modPoint
  apply State.modMtr_calm
  exact h

theorem State.modPulse_calm {r s : State} (h : Calm r s) (o : Nat) (f : MtrPulse → MtrPulse) : Calm r (s.modPulse o f) := by
  unfold State.modPulse
  apply State.modMtr_calm
  exact h

theorem State.mtrCond_calm {r s : State} (h : Calm r s) (m : Nat) (k : Nat) : Calm r (s.mtrCond m k) := by
  unfold State.mtrCond
  extract_lets x1 x2 x3 x4 x5 x6 x7 x8 x9 x10 x11 x12 x13
  have hx10 : Calm r x10 := by
    unfold x10
    apply State.modPoint_calm
    exact h
  clear_value x10
  have hx13 : Calm r x13 := by
    unfold x13
    apply State.almSend_calm
    exact hx10
  clear_value x13
  refine Calm.ite ?_ ?_
  · refine Calm.ite ?_ ?_
    · apply State.event_calm
      exact hx13
    · exact hx13
  · exact hx10

theorem State.pulseAdd_calm {r s : State} (h : Calm r s) (o : Nat) (imp : Bool) (d : Nat) (start : Nat) (len : Nat) : Calm r (s.pulseAdd o imp d start len) := by
  unfold State.pulseAdd
  extract_lets x1 x2 x3 x4 x5 x6 x7 x8
  have hx8 : Calm r x8 := by
    unfold x8
    apply State.modPulse_calm
    exact h
  clear_value x8
  refine Calm.ite ?_ ?_
  · apply State.event_calm
    exact hx8
  · exact hx8

theorem State.pulsesAdd_calm {r s : State} (h : Calm r s) (m : Nat) (d : List Nat) (start : Nat) (len : Nat) : Calm r (s.pulsesAdd m d start len) := by
  unfold State.pulsesAdd
  extract_lets x1
  refine Calm.foldl ?_ _ ?_
  · intro y3 y4 y5
    extract_lets x7
    refine Calm.ite ?_ ?_
    · split
      · apply State.pulseAdd_calm
        apply State.pulseAdd_calm
        exact y5
      · apply State.pulseAdd_calm
        exact y5
      · apply State.pulseAdd_calm
        exact y5
      · apply State.pulseAdd_calm
        exact y5
    · exact y5
  · exact h

theorem State.energyAdd_calm {r s : State} (h : Calm r s) (m : Nat) (d : List Nat) (start : Nat) (len : Nat) : Calm r (s.energyAdd m d start len) := by
  unfold State.energyAdd
  extract_lets x1 x2 x3
  have hx2 : Calm r x2 := by
    unfold x2
    apply State.modPoint_calm
    exact h
  clear_value x2
  have hx3 : Calm r x3 := by
    unfold x3
    refine Calm.ite ?_ ?_
    · apply State.event_calm
      exact hx2
    · exact hx2
  clear_value x3
  apply State.pulsesAdd_calm
  exact hx3

theorem State.netEnd_calm {r s : State} (h : Calm r s) (m : Nat) (start : Nat) (len : Nat) : Calm r (s.netEnd m start len) := by
  unfold State.netEnd
  extract_lets x1
  apply State.modPoint_calm
  apply State.energyAdd_calm
  exact h

theorem State.secondEnd_calm {r s : State} (h : Calm r s) (m : Nat) : Calm r (s.secondEnd m) := by
  unfold State.secondEnd
  apply State.modPoint_calm
  exact h

theorem State.mtrCompare_calm {r s : State} (h : Calm r s) (m : Nat) (end_ : Nat) : Calm r (s.mtrCompare m end_) := by
  unfold State.mtrCompare
  extract_lets x1 x2
  split
  · refine Calm.ite ?_ ?_
    · apply State.count_calm
      apply State.event_calm
      exact h
    · exact h
  · exact h

theorem State.mtrMirror_calm {r s : State} (h : Calm r s) (m : Nat) (body : List Byte) : Calm r (s.mtrMirror m body) := by
  unfold State.mtrMirror
  extract_lets x1 x2 x3 x4 x5
  have hx5 : Calm r x5 := by
    unfold x5
    exact h.upd rfl rfl rfl rfl rfl rfl rfl rfl rfl rfl rfl rfl rfl
  clear_value x5
  apply State.mtrCompare_calm
  apply State.mirrorItem_calm
  exact hx5

theorem State.mtrRecordWrite_calm {r s : State} (h : Calm r s) (m : Nat) (body : List Byte) (sig : Option (List Byte)) : Calm r (s.mtrRecordWrite m body sig) := by
  unfold State.mtrRecordWrite
  extract_lets x1 x2 x3 x4 x5 x6 x7 x8 x9 x10 x11
  have hx1 : Calm r x1 := by
    unfold x1
    split
    · exact h
    · apply State.count_calm
      apply State.event_calm
      exact h
  clear_value x1
  have hx5 : Calm r x5 := by
    unfold x5
    apply State.modMtr_calm
    apply State.dramWrite_calm
    exact hx1
  clear_value x5
  have hx6 : Calm r x6 := by
    unfold x6
    refine Calm.ite ?_ ?_
    · refine Calm.ite ?_ ?_
      · apply State.event_calm
        exact hx5
      · exact hx5
    · exact hx1
  clear_value x6
  have hx9 : Calm r x9 := by
    unfold x9
    exact hx6.upd rfl rfl rfl rfl rfl rfl rfl rfl rfl rfl rfl rfl rfl
  clear_value x9
  have hx10 : Calm r x10 := by
    unfold x10
    refine Calm.ite ?_ ?_
    · apply State.deliver_calm
      exact hx9
    · exact hx9
  clear_value x10
  have hx11 : Calm r x11 := by
    unfold x11
    apply State.mtrMirror_calm
    exact hx10
  clear_value x11
  apply State.count_calm
  apply State.event_calm
  exact hx11

theorem State.intervalEnd_calm {r s : State} (h : Calm r s) (m : Nat) (end_ : Nat) (partialEnd : Bool) (partialNext : Bool) : Calm r (s.intervalEnd m end_ partialEnd partialNext) := by
  unfold State.intervalEnd
  extract_lets x1 x2 x3 x4 x5 x6 x7
  have hx4 : Calm r x4 := by
    unfold x4
    apply State.modPoint_calm
    exact h
  clear_value x4
  have hx5 : Calm r x5 := by
    unfold x5
    refine Calm.ite ?_ ?_
    · apply State.almSend_calm
      apply State.modMtr_calm
      exact hx4
    · exact hx4
  clear_value x5
  have hx6 : Calm r x6.1 := by
    unfold x6
    apply State.requestSign_calm
    exact hx5
  clear_value x6
  have hx7 : Calm r x7 := by
    unfold x7
    refine Calm.ite ?_ ?_
    · apply State.event_calm
      apply State.count_calm
      exact h
    · refine Calm.ite ?_ ?_
      · exact hx6
      · apply State.mtrRecordWrite_calm
        exact hx6
  clear_value x7
  apply State.modPoint_calm
  exact hx7

theorem State.backupSave_calm {r s : State} (h : Calm r s) (pfw : Bool) : Calm r (s.backupSave pfw) := by
  unfold State.backupSave
  extract_lets x1 x2 x3 x4 x5
  have hx5 : Calm r x5 := by
    unfold x5
    exact h.upd rfl rfl rfl rfl rfl rfl rfl rfl rfl rfl rfl rfl rfl
  clear_value x5
  apply State.count_calm
  exact hx5

theorem State.periodicSaves_calm {r s : State} (h : Calm r s) (force : Bool) : Calm r (s.periodicSaves force) := by
  unfold State.periodicSaves
  extract_lets x1 x2 x3
  have hx2 : Calm r x2 := by
    unfold x2
    refine Calm.ite ?_ ?_
    · apply State.backupSave_calm
      exact h
    · exact h
  clear_value x2
  refine Calm.ite ?_ ?_
  · apply State.modMtr_calm
    exact hx2
  · exact hx2

theorem State.outageFix_calm {r s : State} (h : Calm r s) (open_ : Nat) : Calm r (s.outageFix open_) := by
  unfold State.outageFix
  refine Calm.ite ?_ ?_
  · apply State.modMtr_calm
    apply State.setReg_calm
    exact h
  · exact h

theorem State.netClose_calm {r s : State} (h : Calm r s) (m : Nat) (start : Nat) : Calm r (s.netClose m start) := by
  unfold State.netClose
  split
  · apply State.netEnd_calm
    exact h
  · apply State.netEnd_calm
    exact h
  · exact h

theorem State.pointInterval_calm {r s : State} (h : Calm r s) (m : Nat) (cyc : MtrCyc) : Calm r (s.pointInterval m cyc) := by
  unfold State.pointInterval
  extract_lets x1 x2 x3 x4 x5
  have hx5 : Calm r x5 := by
    unfold x5
    refine Calm.ite ?_ ?_
    · apply State.netClose_calm
      exact h
    · exact h
  clear_value x5
  refine Calm.ite ?_ ?_
  · apply State.modPoint_calm
    exact hx5
  · refine Calm.ite ?_ ?_
    · exact hx5
    · apply State.modPoint_calm
      apply State.intervalEnd_calm
      exact hx5

theorem State.pointSecond_calm {r s : State} (h : Calm r s) (m : Nat) (cyc : MtrCyc) : Calm r (s.pointSecond m cyc) := by
  unfold State.pointSecond
  apply State.modPoint_calm
  exact h

theorem State.pointEnergy_calm {r s : State} (h : Calm r s) (m : Nat) (cyc : MtrCyc) (q : MtrQuant) : Calm r (s.pointEnergy m cyc q) := by
  unfold State.pointEnergy
  extract_lets x1 x2 x3 x4
  refine Calm.ite ?_ ?_
  · exact h
  · refine Calm.ite ?_ ?_
    · apply State.energyAdd_calm
      exact h
    · apply State.modPoint_calm
      exact h

theorem State.pointEnds_calm {r s : State} (h : Calm r s) (m : Nat) (cyc : MtrCyc) : Calm r (s.pointEnds m cyc) := by
  unfold State.pointEnds
  extract_lets x1 x2 x3 x4 x5 x6 x7
  have hx6 : Calm r x6 := by
    unfold x6
    refine Calm.ite ?_ ?_
    · apply State.netClose_calm
      exact h
    · exact h
  clear_value x6
  have hx7 : Calm r x7 := by
    unfold x7
    refine Calm.ite ?_ ?_
    · apply State.secondEnd_calm
      exact hx6
    · exact hx6
  clear_value x7
  refine Calm.ite ?_ ?_
  · apply State.intervalEnd_calm
    exact hx7
  · exact hx7

theorem State.pointGap_calm {r s : State} (h : Calm r s) (m : Nat) (cyc : MtrCyc) : Calm r (s.pointGap m cyc) := by
  unfold State.pointGap
  extract_lets x1
  refine Calm.ite ?_ ?_
  · apply State.secondEnd_calm
    refine Calm.ite ?_ ?_
    · apply State.netClose_calm
      exact h
    · exact h
  · exact h

theorem State.pointAccumulate_calm {r s : State} (h : Calm r s) (m : Nat) (cyc : MtrCyc) (q : MtrQuant) : Calm r (s.pointAccumulate m cyc q) := by
  unfold State.pointAccumulate
  apply State.pointEnds_calm
  apply State.pointEnergy_calm
  apply State.pointSecond_calm
  apply State.pointInterval_calm
  apply State.pointGap_calm
  apply State.outageFix_calm
  exact h

theorem State.intervalCut_calm {r s : State} (h : Calm r s) (m : Nat) (mark : Nat) : Calm r (s.intervalCut m mark) := by
  unfold State.intervalCut
  extract_lets x1
  have hx1 : Calm r x1 := by
    unfold x1
    apply State.secondEnd_calm
    apply State.netClose_calm
    exact h
  clear_value x1
  refine Calm.ite ?_ ?_
  · apply State.intervalEnd_calm
    exact hx1
  · exact hx1

theorem State.pointReset_calm {r s : State} (h : Calm r s) (m : Nat) (mark : Nat) : Calm r (s.pointReset m mark) := by
  unfold State.pointReset
  extract_lets x1
  have hx1 : Calm r x1 := by
    unfold x1
    refine Calm.ite ?_ ?_
    · apply State.intervalCut_calm
      exact h
    · exact h
  clear_value x1
  refine Calm.ite ?_ ?_
  · apply State.logRaise_calm
    apply State.modPoint_calm
    exact hx1
  · exact h

theorem State.mtrAdopt_calm {r s : State} (h : Calm r s) (mark : Nat) : Calm r (s.mtrAdopt mark) := by
  unfold State.mtrAdopt
  extract_lets x1 x2 x3 x4
  have hx4 : Calm r x4 := by
    unfold x4
    refine Calm.foldl ?_ _ ?_
    · intro y5 y6 y7
      refine Calm.ite ?_ ?_
      · apply State.intervalCut_calm
        exact y7
      · exact y7
    · exact h
  clear_value x4
  refine Calm.ite ?_ ?_
  · exact h
  · apply State.modMtr_calm
    exact hx4

theorem State.cycleMeasure_calm {r s : State} (h : Calm r s) (cyc : MtrCyc) : Calm r (s.cycleMeasure cyc) := by
  unfold State.cycleMeasure
  extract_lets x1 x2
  have hx2 : Calm r x2 := by
    unfold x2
    refine Calm.foldl ?_ _ ?_
    · intro y4 y5 y6
      extract_lets x8 x9 x10 x11
      have hx9 : Calm r x9 := by
        unfold x9
        apply State.modPoint_calm
        exact y6
      clear_value x9
      have hx11 : Calm r x11 := by
        unfold x11
        refine Calm.foldl ?_ _ ?_
        · intro y15 y16 y17
          refine Calm.ite ?_ ?_
          · apply State.setReg_calm
            exact y17
          · exact y17
        · exact hx9
      clear_value x11
      refine Calm.ite ?_ ?_
      · refine Calm.foldl ?_ _ ?_
        · intro y25 y26 y27
          apply State.mtrCond_calm
          exact y27
        · exact hx11
      · exact y6
    · exact h
  clear_value x2
  apply State.count_calm
  exact hx2

theorem State.cycleAccumulate_calm {r s : State} (h : Calm r s) (cyc : MtrCyc) (first : Bool) : Calm r (s.cycleAccumulate cyc first) := by
  unfold State.cycleAccumulate
  extract_lets x1 x2
  have hx1 : Calm r x1 := by
    unfold x1
    refine Calm.foldl ?_ _ ?_
    · intro y4 y5 y6
      refine Calm.ite ?_ ?_
      · apply State.pointAccumulate_calm
        exact y6
      · exact y6
    · exact h
  clear_value x1
  have hx2 : Calm r x2 := by
    unfold x2
    apply State.modMtr_calm
    exact hx1
  clear_value x2
  apply State.mtrAdopt_calm
  refine Calm.foldl ?_ _ ?_
  · intro y16 y17 y18
    apply State.pointReset_calm
    exact y18
  · exact hx2

theorem State.cycleHandle_calm {r s : State} (h : Calm r s) (cyc : MtrCyc) : Calm r (s.cycleHandle cyc) := by
  unfold State.cycleHandle
  extract_lets x1 x2 x3
  have hx2 : Calm r x2 := by
    unfold x2
    apply State.cycleMeasure_calm
    exact h
  clear_value x2
  have hx3 : Calm r x3 := by
    unfold x3
    refine Calm.ite ?_ ?_
    · apply State.modMtr_calm
      exact hx2
    · apply State.periodicSaves_calm
      apply State.cycleAccumulate_calm
      exact hx2
  clear_value x3
  apply State.modMtr_calm
  exact hx3

theorem State.mtrFreeze_calm {r s : State} (h : Calm r s) : Calm r (s.mtrFreeze) := by
  unfold State.mtrFreeze
  extract_lets x1
  have hx1 : Calm r x1 := by
    unfold x1
    refine Calm.foldl ?_ _ ?_
    · intro y3 y4 y5
      apply State.cycleHandle_calm
      exact y5
    · apply State.modMtr_calm
      exact h
  clear_value x1
  refine Calm.ite ?_ ?_
  · apply State.modMtr_calm
    apply State.backupSave_calm
    exact hx1
  · exact h

theorem State.mtrRefuseEnd_calm {r s : State} (h : Calm r s) : Calm r (s.mtrRefuseEnd) := by
  unfold State.mtrRefuseEnd
  refine Calm.ite ?_ ?_
  · apply State.modMtr_calm
    exact h
  · exact h

/-! ### Pilot.lean -/

theorem State.modPlt_calm {r s : State} (h : Calm r s) (f : Plt → Plt) : Calm r (s.modPlt f) := by
  unfold State.modPlt
  exact h.upd rfl rfl rfl rfl rfl rfl rfl rfl rfl rfl rfl rfl rfl

theorem State.setTask_calm {r s : State} (h : Calm r s) (i : Nat) (t : Task) : Calm r (s.setTask i t) := by
  unfold State.setTask
  apply State.modPlt_calm
  exact h

theorem State.freeTask_calm {r s : State} (h : Calm r s) (i : Nat) : Calm r (s.freeTask i) := by
  unfold State.freeTask
  apply State.setTask_calm
  exact h

/-! ### Quay.lean -/

theorem State.modAln_calm {r s : State} (h : Calm r s) (f : Aln → Aln) : Calm r (s.modAln f) := by
  unfold State.modAln
  exact h.upd rfl rfl rfl rfl rfl rfl rfl rfl rfl rfl rfl rfl rfl

theorem State.modQuay_calm {r s : State} (h : Calm r s) (seq : Nat) (f : Quay → Quay) : Calm r (s.modQuay seq f) := by
  unfold State.modQuay
  apply State.modAln_calm
  exact h

theorem State.modDet_calm {r s : State} (h : Calm r s) (seq : Nat) (d : Nat) (f : Det → Det) : Calm r (s.modDet seq d f) := by
  unfold State.modDet
  apply State.modQuay_calm
  exact h

theorem State.dramRegion_calm {r s : State} (h : Calm r s) (base : Nat) (len : Nat) (cells : List (Nat × Byte)) : Calm r (s.dramRegion base len cells) := by
  unfold State.dramRegion
  exact h.upd rfl rfl rfl rfl rfl rfl rfl rfl rfl rfl rfl rfl rfl

theorem State.quayStore_calm {r s : State} (h : Calm r s) (q : Quay) : Calm r (s.quayStore q) := by
  unfold State.quayStore
  apply State.dramRegion_calm
  exact h

/-! ### Align.lean -/

theorem State.alnNote_calm {r s : State} (h : Calm r s) : Calm r (s.alnNote) := by
  unfold State.alnNote
  refine Calm.ite ?_ ?_
  · refine Calm.ite ?_ ?_
    · apply State.modAln_calm
      exact h
    · exact h
  · apply State.modAln_calm
    exact h

theorem State.alnRaise_calm {r s : State} (h : Calm r s) (d : Nat) (kind : Nat) (seq : Nat) : Calm r (s.alnRaise d kind seq) := by
  unfold State.alnRaise
  extract_lets x1
  have hx1 : Calm r x1 := by
    unfold x1
    apply State.almSend_calm
    exact h
  clear_value x1
  refine Calm.ite ?_ ?_
  · apply State.capNotice_calm
    exact hx1
  · exact hx1

theorem State.snapshot_calm {r s : State} (h : Calm r s) (seq : Nat) (d : Nat) : Calm r (s.snapshot seq d) := by
  unfold State.snapshot
  split
  · extract_lets x2
    refine Calm.ite ?_ ?_
    · exact h
    · apply State.modDet_calm
      exact h
  · exact h

theorem State.withdrawOf_calm {r s : State} (h : Calm r s) (owner : Nat) (p : Nat → Nat → Bool) : Calm r (s.withdrawOf owner p) := by
  unfold State.withdrawOf
  extract_lets x1
  have hx1 : Calm r x1 := by
    unfold x1
    apply State.modPlt_calm
    exact h
  clear_value x1
  refine Calm.foldl ?_ _ ?_
  · intro y2 y3 y4
    apply State.freeTask_calm
    exact y4
  · exact hx1

theorem State.withdraw_calm {r s : State} (h : Calm r s) (seq : Nat) (d : Nat) : Calm r (s.withdraw seq d) := by
  unfold State.withdraw
  apply State.withdrawOf_calm
  exact h

theorem State.alnNotice_calm {r s : State} (h : Calm r s) (q : Quay) (d : Nat) (o : Nat) : Calm r (s.alnNotice q d o) := by
  unfold State.alnNotice
  apply State.almSend_calm
  exact h

theorem State.settleDoneCheck_calm {r s : State} (h : Calm r s) (seq : Nat) : Calm r (s.settleDoneCheck seq) := by
  unfold State.settleDoneCheck
  split
  · refine Calm.ite ?_ ?_
    · apply State.modQuay_calm
      exact h
    · exact h
  · exact h

theorem State.detFinish_calm {r s : State} (h : Calm r s) (seq : Nat) (d : Nat) (o : Nat) : Calm r (s.detFinish seq d o) := by
  unfold State.detFinish
  split
  · exact h
  · extract_lets x3 x4
    have hx3 : Calm r x3 := by
      unfold x3
      apply State.modDet_calm
      exact h
    clear_value x3
    have hx4 : Calm r x4 := by
      unfold x4
      split
      · apply State.count_calm
        exact hx3
      · apply State.count_calm
        exact hx3
      · apply State.count_calm
        exact hx3
      · apply State.alnRaise_calm
        apply State.event_calm
        apply State.count_calm
        exact hx3
      · apply State.alnRaise_calm
        apply State.event_calm
        apply State.count_calm
        exact hx3
      · exact hx3
    clear_value x4
    apply State.settleDoneCheck_calm
    apply State.alnNotice_calm
    exact hx4

/-! ### Osc.lean -/

theorem State.modOsc_calm {r s : State} (h : Calm r s) (f : Osc → Osc) : Calm r (s.modOsc f) := by
  unfold State.modOsc
  exact h.upd rfl rfl rfl rfl rfl rfl rfl rfl rfl rfl rfl rfl rfl

theorem State.oscBases_calm {r s : State} (h : Calm r s) (seq : Nat) : Calm r (s.oscBases seq) := by
  unfold State.oscBases
  split
  · apply State.modOsc_calm
    exact h
  · exact h

theorem State.takeSnapshot_calm {r s : State} (h : Calm r s) (seq : Nat) (d : Nat) : Calm r (s.takeSnapshot seq d) := by
  unfold State.takeSnapshot
  extract_lets x1
  have hx1 : Calm r x1 := by
    unfold x1
    apply State.snapshot_calm
    exact h
  clear_value x1
  split
  · refine Calm.ite ?_ ?_
    · exact h
    · refine Calm.ite ?_ ?_
      · apply State.oscBases_calm
        exact hx1
      · exact hx1
  · exact h

/-! ### Isl.lean -/

theorem State.modIsl_calm {r s : State} (h : Calm r s) (f : Isl → Isl) : Calm r (s.modIsl f) := by
  unfold State.modIsl
  exact h.upd rfl rfl rfl rfl rfl rfl rfl rfl rfl rfl rfl rfl rfl

theorem State.islSnapshot_calm {r s : State} (h : Calm r s) (seq : Nat) : Calm r (s.islSnapshot seq) := by
  unfold State.islSnapshot
  split
  · refine Calm.ite ?_ ?_
    · exact h
    · apply State.modIsl_calm
      apply State.snapshot_calm
      exact h
  · exact h

theorem State.detRoute_calm {r s : State} (h : Calm r s) (q : Quay) (d : Nat) (o : Nat) : Calm r (s.detRoute q d o) := by
  unfold State.detRoute
  extract_lets x1 x2 x3 x4 x5
  have hx1 : Calm r x1 := by
    unfold x1
    apply State.modDet_calm
    exact h
  clear_value x1
  have hx2 : Calm r x2 := by
    unfold x2
    refine Calm.ite ?_ ?_
    · apply State.withdraw_calm
      exact hx1
    · exact hx1
  clear_value x2
  have hx4 : Calm r x4 := by
    unfold x4
    apply State.modOsc_calm
    exact hx2
  clear_value x4
  have hx5 : Calm r x5 := by
    unfold x5
    apply State.modIsl_calm
    exact hx2
  clear_value x5
  refine Calm.ite ?_ ?_
  · refine Calm.ite ?_ ?_
    · apply State.detFinish_calm
      exact hx2
    · refine Calm.ite ?_ ?_
      · refine Calm.foldl ?_ _ ?_
        · intro y22 y23 y24
          apply State.wantTask_calm
          exact y24
        · exact hx4
      · exact hx4
  · refine Calm.ite ?_ ?_
    · refine Calm.ite ?_ ?_
      · apply State.detFinish_calm
        exact hx2
      · refine Calm.ite ?_ ?_
        · apply State.wantTask_calm
          exact hx5
        · exact hx5
    · apply State.detFinish_calm
      exact hx2

theorem State.detSettle_calm {r s : State} (h : Calm r s) (seq : Nat) : Calm r (s.detSettle seq) := by
  unfold State.detSettle
  refine Calm.foldl ?_ _ ?_
  · intro y1 y2 y3
    split
    · refine Calm.ite ?_ ?_
      · exact y3
      · split
        · apply State.detRoute_calm
          exact y3
        · exact y3
    · exact y3
  · exact h

theorem State.detSettleAll_calm {r s : State} (h : Calm r s) : Calm r (s.detSettleAll) := by
  unfold State.detSettleAll
  refine Calm.foldl ?_ _ ?_
  · intro y1 y2 y3
    apply State.detSettle_calm
    exact y3
  · exact h

/-! ### Alarm.lean -/

theorem State.modAlm_calm {r s : State} (h : Calm r s) (f : Alm → Alm) : Calm r (s.modAlm f) := by
  unfold State.modAlm
  exact h.upd rfl rfl rfl rfl rfl rfl rfl rfl rfl rfl rfl rfl rfl

theorem State.pinDrive_calm {r s : State} (h : Calm r s) (p : Nat) : Calm r (s.pinDrive p) := by
  unfold State.pinDrive
  extract_lets x1 x2 x3 x4
  have hx4 : Calm r x4 := by
    unfold x4
    apply State.modAlm_calm
    exact h
  clear_value x4
  refine Calm.ite ?_ ?_
  · exact hx4
  · apply State.setTs_calm
    exact hx4

theorem State.pinsDrive_calm {r s : State} (h : Calm r s) : Calm r (s.pinsDrive) := by
  unfold State.pinsDrive
  refine Calm.ite ?_ ?_
  · exact h
  · refine Calm.foldl ?_ _ ?_
    · intro y3 y4 y5
      apply State.pinDrive_calm
      exact y5
    · exact h

/-! ### Compose.lean -/

theorem State.modStr_calm {r s : State} (h : Calm r s) (n : Nat) (f : OutStream → OutStream) : Calm r (s.modStr n f) := by
  unfold State.modStr
  extract_lets x1
  exact h.upd rfl rfl rfl rfl rfl rfl rfl rfl rfl rfl rfl rfl rfl

theorem State.outCompose_calm {r s : State} (h : Calm r s) (n : Nat) (q : Quay) (set : CfgSet) : Calm r (s.outCompose n q set) := by
  unfold State.outCompose
  extract_lets x1 x2 x3 x4 x5 x6 x7 x8 x9 x10 x11 x12 x13 x14
  have hx6 : Calm r x6 := by
    unfold x6
    apply State.mirrorItem_calm
    exact h
  clear_value x6
  have hx10 : Calm r x10 := by
    unfold x10
    refine Calm.foldl ?_ _ ?_
    · intro y18 y19 y20
      extract_lets x22 x23
      apply State.freshNext_calm
      apply State.offer_calm
      exact y20
    · exact hx6
  clear_value x10
  have hx11 : Calm r x11 := by
    unfold x11
    apply State.countBy_calm
    apply State.count_calm
    exact hx10
  clear_value x11
  have hx12 : Calm r x12 := by
    unfold x12
    refine Calm.ite ?_ ?_
    · apply State.event_calm
      apply State.count_calm
      exact hx11
    · exact hx11
  clear_value x12
  have hx13 : Calm r x13 := by
    unfold x13
    refine Calm.ite ?_ ?_
    · apply State.event_calm
      exact hx12
    · exact hx12
  clear_value x13
  have hx14 : Calm r x14 := by
    unfold x14
    refine Calm.ite ?_ ?_
    · apply State.event_calm
      apply State.count_calm
      exact hx13
    · exact hx13
  clear_value x14
  apply State.modStr_calm
  exact hx14

theorem State.composeStage_calm {r s : State} (h : Calm r s) (q : Quay) (settled : Bool) : Calm r (s.composeStage q settled) := by
  unfold State.composeStage
  extract_lets x1
  refine Calm.foldl ?_ _ ?_
  · intro y3 y4 y5
    extract_lets x7 x8
    refine Calm.ite ?_ ?_
    · apply State.outCompose_calm
      exact y5
    · exact y5
  · exact h

theorem State.lateAfterSend_calm {r s : State} (h : Calm r s) (q : Quay) : Calm r (s.lateAfterSend q) := by
  unfold State.lateAfterSend
  extract_lets x1
  refine Calm.foldl ?_ _ ?_
  · intro y3 y4 y5
    extract_lets x7
    have hx7 : Calm r x7 := by
      unfold x7
      apply State.modStr_calm
      exact y5
    clear_value x7
    split
    · extract_lets x12
      refine Calm.ite ?_ ?_
      · apply State.count_calm
        exact hx7
      · exact hx7
    · exact y5
  · exact h

theorem State.composeAfter_calm {r s : State} (h : Calm r s) (s0 : State) : Calm r (s0.composeAfter s) := by
  unfold State.composeAfter
  extract_lets x1 x2 x3 x4
  have hx4 : Calm r x4 := by
    unfold x4
    refine Calm.foldl ?_ _ ?_
    · intro y6 y7 y8
      apply State.composeStage_calm
      exact y8
    · exact h
  clear_value x4
  refine Calm.foldl ?_ _ ?_
  · intro y13 y14 y15
    apply State.composeStage_calm
    apply State.lateAfterSend_calm
    exact y15
  · exact hx4

/-! ### Twin.lean -/

theorem State.report_calm {r s : State} (h : Calm r s) (src : Nat) (cause : Nat) (master : Nat) (access : Nat) (addr : Nat) : Calm r (s.report src cause master access addr) := by
  unfold State.report
  extract_lets x1
  refine Calm.ite ?_ ?_
  · exact h
  · exact h.upd rfl rfl rfl rfl rfl rfl rfl rfl rfl rfl rfl rfl rfl

theorem State.twnSave_calm {r s : State} (h : Calm r s) (ok : Bool) : Calm r (s.twnSave ok) := by
  unfold State.twnSave
  extract_lets x1 x2 x3 x4 x5
  have hx5 : Calm r x5 := by
    unfold x5
    apply State.freshNext_calm
    exact h
  clear_value x5
  refine Calm.ite ?_ ?_
  · apply State.count_calm
    exact h.upd rfl rfl rfl rfl rfl rfl rfl rfl rfl rfl rfl rfl rfl
  · apply State.report_calm
    apply State.event_calm
    exact hx5.upd rfl rfl rfl rfl rfl rfl rfl rfl rfl rfl rfl rfl rfl

/-! ### Fault.lean -/

theorem State.modFlt_calm {r s : State} (h : Calm r s) (f : Flt → Flt) : Calm r (s.modFlt f) := by
  unfold State.modFlt
  exact h.upd rfl rfl rfl rfl rfl rfl rfl rfl rfl rfl rfl rfl rfl

theorem State.modBst_calm {r s : State} (h : Calm r s) (f : Bst → Bst) : Calm r (s.modBst f) := by
  unfold State.modBst
  exact h.upd rfl rfl rfl rfl rfl rfl rfl rfl rfl rfl rfl rfl rfl

theorem State.capAbortAll_calm {r s : State} (h : Calm r s) : Calm r (s.capAbortAll) := by
  unfold State.capAbortAll
  refine Calm.foldl ?_ _ ?_
  · intro y1 y2 y3
    refine Calm.ite ?_ ?_
    · apply State.capAbort_calm
      exact y3
    · exact y3
  · exact h

theorem State.stopNow_calm {r s : State} (h : Calm r s) : Calm r (s.stopNow) := by
  unfold State.stopNow
  extract_lets x1 x2
  have hx1 : Calm r x1 := by
    unfold x1
    apply State.modAlm_calm
    exact h
  clear_value x1
  have hx2 : Calm r x2 := by
    unfold x2
    apply State.capAbortAll_calm
    apply State.mtrFreeze_calm
    apply State.alnNote_calm
    apply State.setFld_calm
    exact hx1
  clear_value x2
  apply State.pinsDrive_calm
  apply State.modFlt_calm
  exact hx2

theorem State.afterHandover_calm {r s : State} (h : Calm r s) : Calm r (s.afterHandover) := by
  unfold State.afterHandover
  refine Calm.ite ?_ ?_
  · exact h
  · refine Calm.ite ?_ ?_
    · apply State.stopNow_calm
      exact h
    · exact h

theorem State.twnSaveNow_calm {r s : State} (h : Calm r s) : Calm r (s.twnSaveNow) := by
  unfold State.twnSaveNow
  apply State.twnSave_calm
  apply State.freshNext_calm
  exact h

theorem State.flashFail_calm {r s : State} (h : Calm r s) : Calm r (s.flashFail) := by
  unfold State.flashFail
  apply State.report_calm
  apply State.event_calm
  exact h

theorem State.unitFault_calm {r s : State} (h : Calm r s) (n : Nat) : Calm r (s.unitFault n) := by
  unfold State.unitFault
  apply State.report_calm
  exact h

theorem State.mtrFlashWrite_calm {r s : State} (h : Calm r s) (v : MtrSave) (ok : Bool) : Calm r (s.mtrFlashWrite v ok) := by
  unfold State.mtrFlashWrite
  extract_lets x1 x2
  have hx1 : Calm r x1 := by
    unfold x1
    apply State.freshNext_calm
    exact h
  clear_value x1
  have hx2 : Calm r x2 := by
    unfold x2
    exact hx1.upd rfl rfl rfl rfl rfl rfl rfl rfl rfl rfl rfl rfl rfl
  clear_value x2
  refine Calm.ite ?_ ?_
  · apply State.count_calm
    apply State.modMtr_calm
    exact h.upd rfl rfl rfl rfl rfl rfl rfl rfl rfl rfl rfl rfl rfl
  · apply State.flashFail_calm
    apply State.unitFault_calm
    apply State.event_calm
    apply State.modMtr_calm
    exact hx2

theorem State.mtrShutdownSave_calm {r s : State} (h : Calm r s) : Calm r (s.mtrShutdownSave) := by
  unfold State.mtrShutdownSave
  refine Calm.ite ?_ ?_
  · apply State.mtrFlashWrite_calm
    apply State.freshNext_calm
    exact h
  · exact h

theorem State.shutdownGo_calm {r s : State} (h : Calm r s) : Calm r (s.shutdownGo) := by
  unfold State.shutdownGo
  refine Calm.ite ?_ ?_
  · apply State.pinsDrive_calm
    apply State.modBst_calm
    apply State.stopNow_calm
    apply State.twnSaveNow_calm
    apply State.mtrShutdownSave_calm
    exact h
  · exact h

/-! ### After.lean -/

theorem State.oscRebase_calm {r s : State} (h : Calm r s) (seq : Nat) (g : Nat) : Calm r (s.oscRebase seq g) := by
  unfold State.oscRebase
  apply State.modOsc_calm
  exact h

theorem State.islRebase_calm {r s : State} (h : Calm r s) (seq : Nat) : Calm r (s.islRebase seq) := by
  unfold State.islRebase
  apply State.modIsl_calm
  exact h

theorem State.oscReadFix_calm {r s : State} (h : Calm r s) (seq : Nat) (g : Nat) (typ : Nat) (qs : List Quay) : Calm r (s.oscReadFix seq g typ qs) := by
  unfold State.oscReadFix
  apply State.modOsc_calm
  exact h

theorem State.islReadFix_calm {r s : State} (h : Calm r s) (q : Quay) (typ : Nat) : Calm r (s.islReadFix q typ) := by
  unfold State.islReadFix
  apply State.modIsl_calm
  exact h

theorem State.taskStarts_calm {r s : State} (h : Calm r s) (t : Task) : Calm r (s.taskStarts t) := by
  unfold State.taskStarts
  split
  · apply State.takeSnapshot_calm
    exact h
  · apply State.oscReadFix_calm
    apply State.oscRebase_calm
    exact h
  · apply State.oscReadFix_calm
    exact h
  · apply State.islReadFix_calm
    apply State.islSnapshot_calm
    exact h
  · apply State.islReadFix_calm
    apply State.islRebase_calm
    exact h
  · apply State.islReadFix_calm
    exact h
  · exact h

theorem State.startSnapshots_calm {r s : State} (h : Calm r s) (s0 : State) : Calm r (s0.startSnapshots s) := by
  unfold State.startSnapshots
  extract_lets x1
  refine Calm.foldl ?_ _ ?_
  · intro y2 y3 y4
    apply State.taskStarts_calm
    exact y4
  · exact h

theorem State.snapAfter_calm {r s : State} (h : Calm r s) (qs : List Quay) : Calm r (s.snapAfter qs) := by
  unfold State.snapAfter
  refine Calm.ite ?_ ?_
  · refine Calm.foldl ?_ _ ?_
    · intro y2 y3 y4
      apply State.capSnap_calm
      exact y4
    · exact h
  · exact h

theorem State.spillSync_calm {r s : State} (h : Calm r s) (s0 : State) : Calm r (s0.spillSync s) := by
  unfold State.spillSync
  refine Calm.foldl ?_ _ ?_
  · intro y1 y2 y3
    apply State.quayStore_calm
    exact y3
  · exact h

theorem State.msixSignal_calm {r s : State} (h : Calm r s) (v : Nat) : Calm r (s.msixSignal v) := by
  unfold State.msixSignal
  extract_lets x1 x2
  have hx2 : Calm r x2 := by
    unfold x2
    apply State.emit_calm
    exact h
  clear_value x2
  refine Calm.ite ?_ ?_
  · exact h.upd rfl rfl rfl rfl rfl rfl rfl rfl rfl rfl rfl rfl rfl
  · exact hx2.upd rfl rfl rfl rfl rfl rfl rfl rfl rfl rfl rfl rfl rfl

theorem State.msixAfter_calm {r s : State} (h : Calm r s) (s0 : State) : Calm r (s0.msixAfter s) := by
  unfold State.msixAfter
  extract_lets x1 x2 x3 x4
  have hx2 : Calm r x2 := by
    unfold x2
    refine Calm.foldl ?_ _ ?_
    · intro y6 y7 y8
      apply State.msixSignal_calm
      exact y8
    · exact h
  have hx4 : Calm r x4 := by
    unfold x4
    exact hx2.upd rfl rfl rfl rfl rfl rfl rfl rfl rfl rfl rfl rfl rfl
  refine Calm.ite ?_ ?_
  · exact hx4
  · refine Calm.foldl ?_ _ ?_
    · intro y16 y17 y18
      apply State.msixSignal_calm
      exact y18
    · exact hx4

theorem State.copiesStart_calm {r s : State} (h : Calm r s) : Calm r (s.copiesStart) := by
  unfold State.copiesStart
  refine Calm.foldl ?_ _ ?_
  · intro y1 y2 y3
    split
    · refine Calm.ite ?_ ?_
      · apply State.modQuay_calm
        apply State.leaseTake_calm
        exact y3
      · exact y3
    · exact y3
  · exact h

theorem State.sealNow_calm {r s : State} (h : Calm r s) (seq : Nat) : Calm r (s.sealNow seq) := by
  unfold State.sealNow
  apply State.modQuay_calm
  exact h

theorem State.sealStart_calm {r s : State} (h : Calm r s) (t : Nat) : Calm r (s.sealStart t) := by
  unfold State.sealStart
  refine Calm.foldl ?_ _ ?_
  · intro y1 y2 y3
    apply State.sealNow_calm
    exact y3
  · exact h

theorem State.sealsAfter_calm {r s : State} (h : Calm r s) : Calm r (s.sealsAfter) := by
  unfold State.sealsAfter
  apply State.copiesStart_calm
  refine Calm.ite ?_ ?_
  · apply State.sealStart_calm
    exact h
  · exact h

theorem State.modEng_calm {r s : State} (h : Calm r s) (e : Nat) (f : Eng → Eng) : Calm r (s.modEng e f) := by
  unfold State.modEng
  apply State.modPlt_calm
  exact h

theorem State.rotBegin_calm {r s : State} (h : Calm r s) : Calm r (s.rotBegin) := by
  unfold State.rotBegin
  split
  · refine Calm.ite ?_ ?_
    · apply State.modEng_calm
      exact h
    · exact h
  · exact h

theorem State.rotAfter_calm {r s : State} (h : Calm r s) (s0 : State) : Calm r (s0.rotAfter s) := by
  unfold State.rotAfter
  split
  · refine Calm.ite ?_ ?_
    · apply State.rotBegin_calm
      exact h
    · exact h
  · exact h

theorem State.unitsAfter_calm {r s : State} (h : Calm r s) (s0 : State) : Calm r (s0.unitsAfter s) := by
  unfold State.unitsAfter
  extract_lets x1 x2
  have hx1 : Calm r x1 := by
    unfold x1
    apply State.sealsAfter_calm
    apply State.detSettleAll_calm
    apply State.alnNote_calm
    apply State.startSnapshots_calm
    apply State.rotAfter_calm
    exact h
  clear_value x1
  have hx2 : Calm r x2 := by
    unfold x2
    apply State.snapAfter_calm
    apply State.composeAfter_calm
    exact hx1
  clear_value x2
  apply State.spillSync_calm
  apply State.mtrRefuseEnd_calm
  apply State.shutdownGo_calm
  apply State.afterHandover_calm
  exact hx2

theorem State.after_calm {r s : State} (h : Calm r s) (s0 : State) : Calm r (s0.after s) := by
  unfold State.after
  apply State.msixAfter_calm
  apply State.pwrAfter_calm
  apply State.unitsAfter_calm
  exact h

end Sys2Proof.Machine
end

