-- ==== Sys2Proof/Laws/DestKeptBase.lean ====
section
/-! SUPPORT. The relation DestKept: the alarm destinations as they are. It composes. -/

namespace Sys2Proof.Machine

/-- The alarm destinations are unchanged. -/
structure DestKept (s t : State) : Prop where
  alm_dest : t.alm.dest = s.alm.dest

theorem DestKept.refl (s : State) : DestKept s s := ⟨rfl⟩

/-- A record update of other fields than those DestKept speaks of. -/
theorem DestKept.upd {r s t : State} (h : DestKept r s)
    (e0 : t.alm.dest = s.alm.dest) : DestKept r t :=
  ⟨e0.trans h.alm_dest⟩

theorem DestKept.ite {r a b : State} {c : Prop} [Decidable c] (ha : DestKept r a) (hb : DestKept r b) : DestKept r (if c then a else b) := by
  split <;> assumption

theorem DestKept.iteFst {α : Type} {r : State} {a b : State × α} {c : Prop} [Decidable c] (ha : DestKept r a.1) (hb : DestKept r b.1) :
    DestKept r (if c then a else b).1 := by
  split <;> assumption

theorem DestKept.ofFst {α : Type} {r s : State} {p : State × α} {a : α} (e : p = (s, a)) (h : DestKept r p.1) : DestKept r s := by
  rw [e] at h; exact h

theorem DestKept.foldl {α : Type} {r : State} {f : State → α → State} (hf : ∀ x a, DestKept r x → DestKept r (f x a)) :
    ∀ {s : State} (l : List α), DestKept r s → DestKept r (l.foldl f s)
  | _, [], h => h
  | s, a :: l, h => DestKept.foldl hf (s := f s a) l (hf s a h)

theorem DestKept.foldlFst {α β : Type} {r : State} {f : State × β → α → State × β} (hf : ∀ x a, DestKept r x.1 → DestKept r (f x a).1) :
    ∀ {s : State × β} (l : List α), DestKept r s.1 → DestKept r (l.foldl f s).1
  | _, [], h => h
  | s, a :: l, h => DestKept.foldlFst hf (s := f s a) l (hf s a h)

end Sys2Proof.Machine
end

