-- ==== Sys2Proof/Laws/DestKept.lean ====
section
/-! SUPPORT. Operations that leave the alarm destinations as they are -/

namespace Sys2Proof.Machine

/-! ### Ops.lean -/

theorem State.setReg_destkept {r s : State} (h : DestKept r s) (off : Nat) (v : Word) : DestKept r (s.setReg off v) := by
  unfold State.setReg
  exact h.upd rfl

theorem State.event_destkept {r s : State} (h : DestKept r s) (off : Nat) (i : Nat) : DestKept r (s.event off i) := by
  unfold State.event
  apply State.setReg_destkept
  exact h

theorem State.setReg64_destkept {r s : State} (h : DestKept r s) (lo : Nat) (v : Nat) : DestKept r (s.setReg64 lo v) := by
  unfold State.setReg64
  apply State.setReg_destkept
  apply State.setReg_destkept
  exact h

theorem State.countBy_destkept {r s : State} (h : DestKept r s) (lo : Nat) (n : Nat) : DestKept r (s.countBy lo n) := by
  unfold State.countBy
  apply State.setReg64_destkept
  exact h

theorem State.count_destkept {r s : State} (h : DestKept r s) (lo : Nat) : DestKept r (s.count lo) := by
  unfold State.count
  apply State.countBy_destkept
  exact h

theorem State.advance_destkept {r s : State} (h : DestKept r s) (t : Nat) : DestKept r (s.advance t) := by
  unfold State.advance
  extract_lets x1 x2
  refine DestKept.ite ?_ ?_
  · apply State.countBy_destkept
    exact h.upd rfl
  · exact h

theorem State.freshNext_destkept {r s : State} (h : DestKept r s) : DestKept r (s.freshNext) := by
  unfold State.freshNext
  exact h.upd rfl

theorem State.offer_destkept {r s : State} (h : DestKept r s) (port : Nat) (cls : TxClass) (body : TxBody) (bytes : Nat) (job : Option (Nat × Nat)) : DestKept r (s.offer port cls body bytes job) := by
  unfold State.offer
  extract_lets x1 x2
  refine DestKept.ite ?_ ?_
  · exact h.upd rfl
  · exact h.upd rfl

theorem State.mirrorItem_destkept {r s : State} (h : DestKept r s) (item : Nat) (body : List Byte) : DestKept r (s.mirrorItem item body) := by
  unfold State.mirrorItem
  extract_lets x1 x2
  refine DestKept.ite ?_ ?_
  · refine DestKept.ite ?_ ?_
    · exact h.upd rfl
    · apply State.event_destkept
      apply State.count_destkept
      exact h.upd rfl
  · exact h

/-! ### Alarm.lean -/

theorem State.almCopy_destkept {r s : State} (h : DestKept r s) (d : Nat) (pl : List Byte) : DestKept r (s.almCopy d pl) := by
  unfold State.almCopy
  extract_lets x1 x2 x3 x4
  refine DestKept.foldl ?_ _ ?_
  · intro y6 y7 y8
    extract_lets x10
    apply State.freshNext_destkept
    apply State.offer_destkept
    exact y8
  · exact h

end Sys2Proof.Machine
end

