-- ==== Sys2Proof/Laws/DetKeptBase.lean ====
section
/-! SUPPORT. The relation DetKept: the oscillation and islanding units as they are. It composes. -/

namespace Sys2Proof.Machine

/-- The oscillation and islanding units are unchanged. -/
structure DetKept (s t : State) : Prop where
  osc : t.osc = s.osc
  isl : t.isl = s.isl

theorem DetKept.refl (s : State) : DetKept s s := ⟨rfl, rfl⟩

/-- A record update of other fields than those DetKept speaks of. -/
theorem DetKept.upd {r s t : State} (h : DetKept r s)
    (e0 : t.osc = s.osc) (e1 : t.isl = s.isl) : DetKept r t :=
  ⟨e0.trans h.osc, e1.trans h.isl⟩

theorem DetKept.ite {r a b : State} {c : Prop} [Decidable c] (ha : DetKept r a) (hb : DetKept r b) : DetKept r (if c then a else b) := by
  split <;> assumption

theorem DetKept.iteFst {α : Type} {r : State} {a b : State × α} {c : Prop} [Decidable c] (ha : DetKept r a.1) (hb : DetKept r b.1) :
    DetKept r (if c then a else b).1 := by
  split <;> assumption

theorem DetKept.ofFst {α : Type} {r s : State} {p : State × α} {a : α} (e : p = (s, a)) (h : DetKept r p.1) : DetKept r s := by
  rw [e] at h; exact h

theorem DetKept.foldl {α : Type} {r : State} {f : State → α → State} (hf : ∀ x a, DetKept r x → DetKept r (f x a)) :
    ∀ {s : State} (l : List α), DetKept r s → DetKept r (l.foldl f s)
  | _, [], h => h
  | s, a :: l, h => DetKept.foldl hf (s := f s a) l (hf s a h)

theorem DetKept.foldlFst {α β : Type} {r : State} {f : State × β → α → State × β} (hf : ∀ x a, DetKept r x.1 → DetKept r (f x a).1) :
    ∀ {s : State × β} (l : List α), DetKept r s.1 → DetKept r (l.foldl f s).1
  | _, [], h => h
  | s, a :: l, h => DetKept.foldlFst hf (s := f s a) l (hf s a h)

end Sys2Proof.Machine
end

