-- ==== Sys2Proof/Laws/DetKept.lean ====
section
/-! SUPPORT. Operations that leave the oscillation and islanding units as they are -/

namespace Sys2Proof.Machine

/-! ### Ops.lean -/

theorem State.dramWrite_detkept {r s : State} (h : DetKept r s) (a : Nat) (bs : List Byte) : DetKept r (s.dramWrite a bs) := by
  unfold State.dramWrite
  exact h.upd rfl rfl

theorem State.setReg_detkept {r s : State} (h : DetKept r s) (off : Nat) (v : Word) : DetKept r (s.setReg off v) := by
  unfold State.setReg
  exact h.upd rfl rfl

theorem State.event_detkept {r s : State} (h : DetKept r s) (off : Nat) (i : Nat) : DetKept r (s.event off i) := by
  unfold State.event
  apply State.setReg_detkept
  exact h

theorem State.writeReg_detkept {r s : State} (h : DetKept r s) (off : Nat) (v : Word) : DetKept r (s.writeReg off v) := by
  unfold State.writeReg
  split
  · extract_lets x2
    apply State.setReg_detkept
    exact h
  · exact h

theorem State.setReg64_detkept {r s : State} (h : DetKept r s) (lo : Nat) (v : Nat) : DetKept r (s.setReg64 lo v) := by
  unfold State.setReg64
  apply State.setReg_detkept
  apply State.setReg_detkept
  exact h

theorem State.countBy_detkept {r s : State} (h : DetKept r s) (lo : Nat) (n : Nat) : DetKept r (s.countBy lo n) := by
  unfold State.countBy
  apply State.setReg64_detkept
  exact h

theorem State.count_detkept {r s : State} (h : DetKept r s) (lo : Nat) : DetKept r (s.count lo) := by
  unfold State.count
  apply State.countBy_detkept
  exact h

theorem State.almSend_detkept {r s : State} (h : DetKept r s) (i : AlmInput) : DetKept r (s.almSend i) := by
  unfold State.almSend
  extract_lets x1
  exact h.upd rfl rfl

theorem State.capNotice_detkept {r s : State} (h : DetKept r s) (typ : Nat) (m : Nat → Nat → Bool) (at_ : Nat) (code : Nat) : DetKept r (s.capNotice typ m at_ code) := by
  unfold State.capNotice
  extract_lets x1 x2
  refine DetKept.ite ?_ ?_
  · exact h.upd rfl rfl
  · exact h

theorem State.wantTask_detkept {r s : State} (h : DetKept r s) (t : TaskReq) : DetKept r (s.wantTask t) := by
  unfold State.wantTask
  extract_lets x1
  exact h.upd rfl rfl

theorem State.deliver_detkept {r s : State} (h : DetKept r s) (d : Delivery) : DetKept r (s.deliver d) := by
  unfold State.deliver
  extract_lets x1
  exact h.upd rfl rfl

theorem State.leaseTake_detkept {r s : State} (h : DetKept r s) (pool : Nat) (index : Nat) (owner : Nat) : DetKept r (s.leaseTake pool index owner) := by
  unfold State.leaseTake
  extract_lets x1
  exact h.upd rfl rfl

/-! ### FrontEnd.lean -/

theorem State.clearCounters_detkept {r s : State} (h : DetKept r s) (lo : Nat) (n : Nat) : DetKept r (s.clearCounters lo n) := by
  unfold State.clearCounters
  refine DetKept.foldl ?_ _ ?_
  · intro y1 y2 y3
    apply State.setReg64_detkept
    exact y3
  · exact h

/-! ### Quay.lean -/

theorem State.modAln_detkept {r s : State} (h : DetKept r s) (f : Aln → Aln) : DetKept r (s.modAln f) := by
  unfold State.modAln
  exact h.upd rfl rfl

theorem State.modQuay_detkept {r s : State} (h : DetKept r s) (seq : Nat) (f : Quay → Quay) : DetKept r (s.modQuay seq f) := by
  unfold State.modQuay
  apply State.modAln_detkept
  exact h

theorem State.modDet_detkept {r s : State} (h : DetKept r s) (seq : Nat) (d : Nat) (f : Det → Det) : DetKept r (s.modDet seq d f) := by
  unfold State.modDet
  apply State.modQuay_detkept
  exact h

/-! ### Align.lean -/

theorem State.alnRaise_detkept {r s : State} (h : DetKept r s) (d : Nat) (kind : Nat) (seq : Nat) : DetKept r (s.alnRaise d kind seq) := by
  unfold State.alnRaise
  extract_lets x1
  have hx1 : DetKept r x1 := by
    unfold x1
    apply State.almSend_detkept
    exact h
  clear_value x1
  refine DetKept.ite ?_ ?_
  · apply State.capNotice_detkept
    exact hx1
  · exact hx1

theorem State.snapshot_detkept {r s : State} (h : DetKept r s) (seq : Nat) (d : Nat) : DetKept r (s.snapshot seq d) := by
  unfold State.snapshot
  split
  · extract_lets x2
    refine DetKept.ite ?_ ?_
    · exact h
    · apply State.modDet_detkept
      exact h
  · exact h

theorem State.alnNotice_detkept {r s : State} (h : DetKept r s) (q : Quay) (d : Nat) (o : Nat) : DetKept r (s.alnNotice q d o) := by
  unfold State.alnNotice
  apply State.almSend_detkept
  exact h

theorem State.settleDoneCheck_detkept {r s : State} (h : DetKept r s) (seq : Nat) : DetKept r (s.settleDoneCheck seq) := by
  unfold State.settleDoneCheck
  split
  · refine DetKept.ite ?_ ?_
    · apply State.modQuay_detkept
      exact h
    · exact h
  · exact h

theorem State.detFinish_detkept {r s : State} (h : DetKept r s) (seq : Nat) (d : Nat) (o : Nat) : DetKept r (s.detFinish seq d o) := by
  unfold State.detFinish
  split
  · exact h
  · extract_lets x3 x4
    have hx3 : DetKept r x3 := by
      unfold x3
      apply State.modDet_detkept
      exact h
    clear_value x3
    have hx4 : DetKept r x4 := by
      unfold x4
      split
      · apply State.count_detkept
        exact hx3
      · apply State.count_detkept
        exact hx3
      · apply State.count_detkept
        exact hx3
      · apply State.alnRaise_detkept
        apply State.event_detkept
        apply State.count_detkept
        exact hx3
      · apply State.alnRaise_detkept
        apply State.event_detkept
        apply State.count_detkept
        exact hx3
      · exact hx3
    clear_value x4
    apply State.settleDoneCheck_detkept
    apply State.alnNotice_detkept
    exact hx4

/-! ### Osc.lean -/

theorem State.oscSend_detkept {r s : State} (h : DetKept r s) (op : AlmOp) (g : Nat) (seq : Nat) (d : OscDec) : DetKept r (s.oscSend op g seq d) := by
  unfold State.oscSend
  apply State.almSend_detkept
  exact h

theorem State.oscSendAll_detkept {r s : State} (h : DetKept r s) (op : AlmOp) (g : Nat) (seq : Nat) (l : List OscDec) : DetKept r (s.oscSendAll op g seq l) := by
  unfold State.oscSendAll
  refine DetKept.foldl ?_ _ ?_
  · intro y1 y2 y3
    apply State.oscSend_detkept
    exact y3
  · exact h

theorem State.ringLines_detkept {r s : State} (h : DetKept r s) (base : Nat) (log : Nat) (wr : Nat) (b : List Byte) : DetKept r (s.ringLines base log wr b) := by
  unfold State.ringLines
  refine DetKept.foldl ?_ _ ?_
  · intro y1 y2 y3
    apply State.dramWrite_detkept
    exact y3
  · exact h

theorem State.oscNotice_detkept {r s : State} (h : DetKept r s) (g : Nat) (seq : Nat) (o : Nat) : DetKept r (s.oscNotice g seq o) := by
  unfold State.oscNotice
  apply State.almSend_detkept
  exact h

/-! ### Isl.lean -/

theorem State.islSend_detkept {r s : State} (h : DetKept r s) (op : AlmOp) (seq : Nat) (d : IslDec) : DetKept r (s.islSend op seq d) := by
  unfold State.islSend
  apply State.almSend_detkept
  exact h

theorem State.islSendAll_detkept {r s : State} (h : DetKept r s) (op : AlmOp) (seq : Nat) (l : List IslDec) : DetKept r (s.islSendAll op seq l) := by
  unfold State.islSendAll
  refine DetKept.foldl ?_ _ ?_
  · intro y1 y2 y3
    apply State.islSend_detkept
    exact y3
  · exact h

theorem State.islNotice_detkept {r s : State} (h : DetKept r s) (seq : Nat) (o : Nat) : DetKept r (s.islNotice seq o) := by
  unfold State.islNotice
  apply State.almSend_detkept
  exact h

end Sys2Proof.Machine
end

