-- ==== Sys2Proof/Laws/EngKeptBase.lean ====
section
/-! SUPPORT. The relation EngKept: the engines, the rotation and DT as they are. It composes. -/

namespace Sys2Proof.Machine

/-- The engines, the rotation under way and DT are unchanged. -/
structure EngKept (s t : State) : Prop where
  plt_rot : t.plt.rot = s.plt.rot
  plt_eng : t.plt.eng = s.plt.eng
  dt : t.dt = s.dt

theorem EngKept.refl (s : State) : EngKept s s := ⟨rfl, rfl, rfl⟩

/-- A record update of other fields than those EngKept speaks of. -/
theorem EngKept.upd {r s t : State} (h : EngKept r s)
    (e0 : t.plt.rot = s.plt.rot) (e1 : t.plt.eng = s.plt.eng) (e2 : t.dt = s.dt) : EngKept r t :=
  ⟨e0.trans h.plt_rot, e1.trans h.plt_eng, e2.trans h.dt⟩

theorem EngKept.ite {r a b : State} {c : Prop} [Decidable c] (ha : EngKept r a) (hb : EngKept r b) : EngKept r (if c then a else b) := by
  split <;> assumption

theorem EngKept.iteFst {α : Type} {r : State} {a b : State × α} {c : Prop} [Decidable c] (ha : EngKept r a.1) (hb : EngKept r b.1) :
    EngKept r (if c then a else b).1 := by
  split <;> assumption

theorem EngKept.ofFst {α : Type} {r s : State} {p : State × α} {a : α} (e : p = (s, a)) (h : EngKept r p.1) : EngKept r s := by
  rw [e] at h; exact h

theorem EngKept.foldl {α : Type} {r : State} {f : State → α → State} (hf : ∀ x a, EngKept r x → EngKept r (f x a)) :
    ∀ {s : State} (l : List α), EngKept r s → EngKept r (l.foldl f s)
  | _, [], h => h
  | s, a :: l, h => EngKept.foldl hf (s := f s a) l (hf s a h)

theorem EngKept.foldlFst {α β : Type} {r : State} {f : State × β → α → State × β} (hf : ∀ x a, EngKept r x.1 → EngKept r (f x a).1) :
    ∀ {s : State × β} (l : List α), EngKept r s.1 → EngKept r (l.foldl f s).1
  | _, [], h => h
  | s, a :: l, h => EngKept.foldlFst hf (s := f s a) l (hf s a h)

end Sys2Proof.Machine
end

