-- ==== Sys2Proof/Laws/EngKept.lean ====
section
/-! SUPPORT. What leaves the engines as they are. -/

namespace Sys2Proof.Machine

/-! ### Ops.lean -/

theorem State.setReg_engkept {r s : State} (h : EngKept r s) (off : Nat) (v : Word) : EngKept r (s.setReg off v) := by
  unfold State.setReg
  exact h.upd rfl rfl rfl

theorem State.event_engkept {r s : State} (h : EngKept r s) (off : Nat) (i : Nat) : EngKept r (s.event off i) := by
  unfold State.event
  apply State.setReg_engkept
  exact h

theorem State.setReg64_engkept {r s : State} (h : EngKept r s) (lo : Nat) (v : Nat) : EngKept r (s.setReg64 lo v) := by
  unfold State.setReg64
  apply State.setReg_engkept
  apply State.setReg_engkept
  exact h

theorem State.countBy_engkept {r s : State} (h : EngKept r s) (lo : Nat) (n : Nat) : EngKept r (s.countBy lo n) := by
  unfold State.countBy
  apply State.setReg64_engkept
  exact h

theorem State.count_engkept {r s : State} (h : EngKept r s) (lo : Nat) : EngKept r (s.count lo) := by
  unfold State.count
  apply State.countBy_engkept
  exact h

theorem State.leaseRevoke_engkept {r s : State} (h : EngKept r s) (owner : Nat) : EngKept r (s.leaseRevoke owner) := by
  unfold State.leaseRevoke
  exact h.upd rfl rfl rfl

/-! ### Manifest.lean -/

theorem State.modRing_engkept {r s : State} (h : EngKept r s) (n : Nat) (f : Ring → Ring) : EngKept r (s.modRing n f) := by
  unfold State.modRing
  extract_lets x1
  exact h.upd rfl rfl rfl

theorem State.ringSettle_engkept {r s : State} (h : EngKept r s) (n : Nat) : EngKept r (s.ringSettle n) := by
  unfold State.ringSettle
  extract_lets x1
  refine EngKept.ite ?_ ?_
  · apply State.modRing_engkept
    exact h
  · exact h

theorem State.finishOne_engkept {r s : State} (h : EngKept r s) (mid : Nat) (status : Nat) (d0 : Nat) (detail : List Byte) : EngKept r (s.finishOne mid status d0 detail) := by
  unfold State.finishOne
  split
  · exact h
  · extract_lets x3 x4 x5
    have hx4 : EngKept r x4 := by
      unfold x4
      refine EngKept.foldl ?_ _ ?_
      · intro y7 y8 y9
        apply State.modRing_engkept
        exact y9
      · exact h
    clear_value x4
    have hx5 : EngKept r x5 := by
      unfold x5
      refine EngKept.ite ?_ ?_
      · apply State.count_engkept
        exact hx4
      · exact hx4
    clear_value x5
    apply State.ringSettle_engkept
    exact hx5

theorem State.finishRaw_engkept {r s : State} (h : EngKept r s) (mid : Nat) (status : Nat) (d0 : Nat) (detail : List Byte) : EngKept r (s.finishRaw mid status d0 detail) := by
  unfold State.finishRaw
  extract_lets x1
  refine EngKept.foldl ?_ _ ?_
  · intro y3 y4 y5
    apply State.finishOne_engkept
    exact y5
  · apply State.finishOne_engkept
    exact h

theorem State.autoComplete_engkept {r : State} (k : Nat) {s : State} (h : EngKept r s) (n : Nat) : EngKept r (State.autoComplete k s n) := by
  induction k generalizing s with
  | zero => exact h
  | succ k ih =>
    unfold State.autoComplete
    refine EngKept.ite ?_ h
    split
    · split
      · exact ih (State.finishRaw_engkept h _ _ _ _)
      · exact h
    · exact h

theorem State.autoAll_engkept {r s : State} (h : EngKept r s) : EngKept r (s.autoAll) := by
  unfold State.autoAll
  refine EngKept.foldl ?_ _ ?_
  · intro y1 y2 y3
    apply State.autoComplete_engkept
    exact y3
  · exact h

theorem State.finish_engkept {r s : State} (h : EngKept r s) (mid : Nat) (status : Nat) (d0 : Nat) (detail : List Byte) : EngKept r (s.finish mid status d0 detail) := by
  unfold State.finish
  apply State.autoAll_engkept
  apply State.finishRaw_engkept
  exact h

theorem State.finishOpt_engkept {r s : State} (h : EngKept r s) (mid : Option Nat) (status : Nat) (d0 : Nat) (detail : List Byte) : EngKept r (s.finishOpt mid status d0 detail) := by
  unfold State.finishOpt
  split
  · apply State.finish_engkept
    exact h
  · exact h

/-! ### KeyStore.lean -/

theorem State.deriveStart_engkept {r s : State} (h : EngKept r s) (slot : Nat) : EngKept r (s.deriveStart slot) := by
  unfold State.deriveStart
  extract_lets x1
  refine EngKept.ite ?_ ?_
  · exact h.upd rfl rfl rfl
  · exact h

/-! ### Pilot.lean -/

theorem State.pilotResume_engkept {r s : State} (h : EngKept r s) : EngKept r s.pilotResume := by
  have fire : ∀ (s : State) (c q : Nat) (low : Bool), EngKept r s → EngKept r (let w := s.plt.waitingSet.filter fun x => x.1 == q
      if low && !w.isEmpty then
        let mine (r : TaskReq) : Bool := r.cls + (if 6 ≤ r.prio then 8 else 0) == q
        s.modPlt fun p => { p with
          waitingSet := p.waitingSet.filter fun x => x.1 != q
          resumes := p.resumes ++ w.map fun x => (c, x.2)
          wants := p.held.filter mine ++ p.wants
          held := p.held.filter fun r => !mine r }
      else s) := by
    intro s c q low h
    dsimp only
    split
    · unfold State.modPlt; exact h.upd rfl rfl rfl
    · exact h
  unfold State.pilotResume
  exact EngKept.foldl (fun y c hy => fire _ c (c + 8) _ (fire y c c _ hy)) _ h

theorem State.passRoles_engkept {r s : State} (h : EngKept r s) (e : Nat) : EngKept r (s.passRoles e) := by
  unfold State.passRoles
  split
  · refine EngKept.foldl ?_ _ h
    intro y a hy
    dsimp only
    split
    · split
      · unfold State.modPlt; exact hy.upd rfl rfl rfl
      · exact hy
    · exact hy
  · split
    · rename_i x _
      dsimp only
      have h1 : EngKept r (if s.plt.lpeEng = e then { (s.modPlt fun p => { p with lpeEng := x }) with fe := { s.fe with lpeBlockedTill := s.dt } } else s) := by
        split
        · unfold State.modPlt; exact h.upd rfl rfl rfl
        · exact h
      generalize (if s.plt.lpeEng = e then { (s.modPlt fun p => { p with lpeEng := x }) with fe := { s.fe with lpeBlockedTill := s.dt } } else s) = y at h1
      split
      · apply State.deriveStart_engkept; unfold State.modPlt; exact h1.upd rfl rfl rfl
      · exact h1
    · exact h
  · split
    · exact h.upd rfl rfl rfl
    · exact h
  · exact h

theorem State.clearAffinity_engkept {r s : State} (h : EngKept r s) (e : Nat) : EngKept r (s.clearAffinity e) := by
  unfold State.clearAffinity State.modPlt
  exact h.upd rfl rfl rfl

theorem State.noteEmpty_engkept {r s : State} (h : EngKept r s) (e : Nat) : EngKept r (s.noteEmpty e) := by
  unfold State.noteEmpty
  refine EngKept.ite ?_ ?_
  · apply State.event_engkept
    exact h
  · exact h

end Sys2Proof.Machine
end

