-- ==== Sys2Proof/Laws/FinKeptBase.lean ====
section
/-! SUPPORT. The relation FinKept: what the completion of a manifest leaves as it is. It composes. -/

namespace Sys2Proof.Machine

/-- Everything but the ring pairs and the registers is unchanged. -/
structure FinKept (s t : State) : Prop where
  dt : t.dt = s.dt
  rdata : t.rdata = s.rdata
  tb : t.tb = s.tb
  mac : t.mac = s.mac
  bin : t.bin = s.bin
  aln : t.aln = s.aln
  osc : t.osc = s.osc
  isl : t.isl = s.isl
  alm : t.alm = s.alm
  outp : t.outp = s.outp
  fe : t.fe = s.fe
  mtr : t.mtr = s.mtr
  cap : t.cap = s.cap
  logb : t.logb = s.logb
  plt : t.plt = s.plt
  dbg : t.dbg = s.dbg
  cfg : t.cfg = s.cfg
  flash : t.flash = s.flash
  pwr : t.pwr = s.pwr
  twn : t.twn = s.twn
  flt : t.flt = s.flt
  bst : t.bst = s.bst
  key : t.key = s.key
  rtc : t.rtc = s.rtc
  bkp : t.bkp = s.bkp
  dram : t.dram = s.dram
  out : t.out = s.out
  fresh : t.fresh = s.fresh

theorem FinKept.refl (s : State) : FinKept s s := ⟨rfl, rfl, rfl, rfl, rfl, rfl, rfl, rfl, rfl, rfl, rfl, rfl, rfl, rfl, rfl, rfl, rfl, rfl, rfl, rfl, rfl, rfl, rfl, rfl, rfl, rfl, rfl, rfl⟩

/-- A record update of other fields than those FinKept speaks of. -/
theorem FinKept.upd {r s t : State} (h : FinKept r s)
    (e0 : t.dt = s.dt) (e1 : t.rdata = s.rdata) (e2 : t.tb = s.tb) (e3 : t.mac = s.mac) (e4 : t.bin = s.bin) (e5 : t.aln = s.aln) (e6 : t.osc = s.osc) (e7 : t.isl = s.isl) (e8 : t.alm = s.alm) (e9 : t.outp = s.outp) (e10 : t.fe = s.fe) (e11 : t.mtr = s.mtr) (e12 : t.cap = s.cap) (e13 : t.logb = s.logb) (e14 : t.plt = s.plt) (e15 : t.dbg = s.dbg) (e16 : t.cfg = s.cfg) (e17 : t.flash = s.flash) (e18 : t.pwr = s.pwr) (e19 : t.twn = s.twn) (e20 : t.flt = s.flt) (e21 : t.bst = s.bst) (e22 : t.key = s.key) (e23 : t.rtc = s.rtc) (e24 : t.bkp = s.bkp) (e25 : t.dram = s.dram) (e26 : t.out = s.out) (e27 : t.fresh = s.fresh) : FinKept r t :=
  ⟨e0.trans h.dt, e1.trans h.rdata, e2.trans h.tb, e3.trans h.mac, e4.trans h.bin, e5.trans h.aln, e6.trans h.osc, e7.trans h.isl, e8.trans h.alm, e9.trans h.outp, e10.trans h.fe, e11.trans h.mtr, e12.trans h.cap, e13.trans h.logb, e14.trans h.plt, e15.trans h.dbg, e16.trans h.cfg, e17.trans h.flash, e18.trans h.pwr, e19.trans h.twn, e20.trans h.flt, e21.trans h.bst, e22.trans h.key, e23.trans h.rtc, e24.trans h.bkp, e25.trans h.dram, e26.trans h.out, e27.trans h.fresh⟩

theorem FinKept.ite {r a b : State} {c : Prop} [Decidable c] (ha : FinKept r a) (hb : FinKept r b) : FinKept r (if c then a else b) := by
  split <;> assumption

theorem FinKept.iteFst {α : Type} {r : State} {a b : State × α} {c : Prop} [Decidable c] (ha : FinKept r a.1) (hb : FinKept r b.1) :
    FinKept r (if c then a else b).1 := by
  split <;> assumption

theorem FinKept.ofFst {α : Type} {r s : State} {p : State × α} {a : α} (e : p = (s, a)) (h : FinKept r p.1) : FinKept r s := by
  rw [e] at h; exact h

theorem FinKept.foldl {α : Type} {r : State} {f : State → α → State} (hf : ∀ x a, FinKept r x → FinKept r (f x a)) :
    ∀ {s : State} (l : List α), FinKept r s → FinKept r (l.foldl f s)
  | _, [], h => h
  | s, a :: l, h => FinKept.foldl hf (s := f s a) l (hf s a h)

theorem FinKept.foldlFst {α β : Type} {r : State} {f : State × β → α → State × β} (hf : ∀ x a, FinKept r x.1 → FinKept r (f x a).1) :
    ∀ {s : State × β} (l : List α), FinKept r s.1 → FinKept r (l.foldl f s).1
  | _, [], h => h
  | s, a :: l, h => FinKept.foldlFst hf (s := f s a) l (hf s a h)

end Sys2Proof.Machine
end

