-- ==== Sys2Proof/Laws/FinKept.lean ====
section
/-! SUPPORT. What the completion of a manifest leaves as it is. -/

namespace Sys2Proof.Machine

/-! ### Ops.lean -/

theorem State.setReg_finkept {r s : State} (h : FinKept r s) (off : Nat) (v : Word) : FinKept r (s.setReg off v) := by
  unfold State.setReg
  exact h.upd rfl rfl rfl rfl rfl rfl rfl rfl rfl rfl rfl rfl rfl rfl rfl rfl rfl rfl rfl rfl rfl rfl rfl rfl rfl rfl rfl rfl

theorem State.setReg64_finkept {r s : State} (h : FinKept r s) (lo : Nat) (v : Nat) : FinKept r (s.setReg64 lo v) := by
  unfold State.setReg64
  apply State.setReg_finkept
  apply State.setReg_finkept
  exact h

theorem State.countBy_finkept {r s : State} (h : FinKept r s) (lo : Nat) (n : Nat) : FinKept r (s.countBy lo n) := by
  unfold State.countBy
  apply State.setReg64_finkept
  exact h

theorem State.count_finkept {r s : State} (h : FinKept r s) (lo : Nat) : FinKept r (s.count lo) := by
  unfold State.count
  apply State.countBy_finkept
  exact h

/-! ### Manifest.lean -/

theorem State.modRing_finkept {r s : State} (h : FinKept r s) (n : Nat) (f : Ring → Ring) : FinKept r (s.modRing n f) := by
  unfold State.modRing
  extract_lets x1
  exact h.upd rfl rfl rfl rfl rfl rfl rfl rfl rfl rfl rfl rfl rfl rfl rfl rfl rfl rfl rfl rfl rfl rfl rfl rfl rfl rfl rfl rfl

theorem State.ringSettle_finkept {r s : State} (h : FinKept r s) (n : Nat) : FinKept r (s.ringSettle n) := by
  unfold State.ringSettle
  extract_lets x1
  refine FinKept.ite ?_ ?_
  · apply State.modRing_finkept
    exact h
  · exact h

theorem State.finishOne_finkept {r s : State} (h : FinKept r s) (mid : Nat) (status : Nat) (d0 : Nat) (detail : List Byte) : FinKept r (s.finishOne mid status d0 detail) := by
  unfold State.finishOne
  split
  · exact h
  · extract_lets x3 x4 x5
    have hx4 : FinKept r x4 := by
      unfold x4
      refine FinKept.foldl ?_ _ ?_
      · intro y7 y8 y9
        apply State.modRing_finkept
        exact y9
      · exact h
    clear_value x4
    have hx5 : FinKept r x5 := by
      unfold x5
      refine FinKept.ite ?_ ?_
      · apply State.count_finkept
        exact hx4
      · exact hx4
    clear_value x5
    apply State.ringSettle_finkept
    exact hx5

theorem State.finishRaw_finkept {r s : State} (h : FinKept r s) (mid : Nat) (status : Nat) (d0 : Nat) (detail : List Byte) : FinKept r (s.finishRaw mid status d0 detail) := by
  unfold State.finishRaw
  extract_lets x1
  refine FinKept.foldl ?_ _ ?_
  · intro y3 y4 y5
    apply State.finishOne_finkept
    exact y5
  · apply State.finishOne_finkept
    exact h

theorem State.autoComplete_finkept {r : State} (k : Nat) {s : State} (h : FinKept r s) (n : Nat) : FinKept r (State.autoComplete k s n) := by
  induction k generalizing s with
  | zero => exact h
  | succ k ih =>
    unfold State.autoComplete
    refine FinKept.ite ?_ h
    split
    · split
      · exact ih (State.finishRaw_finkept h _ _ _ _)
      · exact h
    · exact h

theorem State.autoAll_finkept {r s : State} (h : FinKept r s) : FinKept r (s.autoAll) := by
  unfold State.autoAll
  refine FinKept.foldl ?_ _ ?_
  · intro y1 y2 y3
    apply State.autoComplete_finkept
    exact y3
  · exact h

theorem State.finish_finkept {r s : State} (h : FinKept r s) (mid : Nat) (status : Nat) (d0 : Nat) (detail : List Byte) : FinKept r (s.finish mid status d0 detail) := by
  unfold State.finish
  apply State.autoAll_finkept
  apply State.finishRaw_finkept
  exact h

theorem State.finish0_finkept {r s : State} (h : FinKept r s) (mid : Nat) (status : Nat) : FinKept r (s.finish0 mid status) := by
  unfold State.finish0
  apply State.finish_finkept
  exact h

theorem State.finishOpt_finkept {r s : State} (h : FinKept r s) (mid : Option Nat) (status : Nat) (d0 : Nat) (detail : List Byte) : FinKept r (s.finishOpt mid status d0 detail) := by
  unfold State.finishOpt
  split
  · apply State.finish_finkept
    exact h
  · exact h

end Sys2Proof.Machine
end

