-- ==== Sys2Proof/Laws/GridKeptBase.lean ====
section
/-! SUPPORT. The relation GridKept: what an instant's consumers leave of the instant grid. It composes. -/

namespace Sys2Proof.Machine

/-- The instant grid, the time-quality word of the newest instant and those of the instants before it are the same. -/
structure GridKept (s t : State) : Prop where
  tb_grid : t.tb.grid = s.tb.grid
  tb_tq : t.tb.tq = s.tb.tq
  tb_tqHist : t.tb.tqHist = s.tb.tqHist
  tb_lastInstant : t.tb.lastInstant = s.tb.lastInstant

theorem GridKept.refl (s : State) : GridKept s s := ⟨rfl, rfl, rfl, rfl⟩

/-- A record update of other fields than those GridKept speaks of. -/
theorem GridKept.upd {r s t : State} (h : GridKept r s)
    (e0 : t.tb.grid = s.tb.grid) (e1 : t.tb.tq = s.tb.tq) (e2 : t.tb.tqHist = s.tb.tqHist) (e3 : t.tb.lastInstant = s.tb.lastInstant) : GridKept r t :=
  ⟨e0.trans h.tb_grid, e1.trans h.tb_tq, e2.trans h.tb_tqHist, e3.trans h.tb_lastInstant⟩

theorem GridKept.ite {r a b : State} {c : Prop} [Decidable c] (ha : GridKept r a) (hb : GridKept r b) : GridKept r (if c then a else b) := by
  split <;> assumption

theorem GridKept.iteFst {α : Type} {r : State} {a b : State × α} {c : Prop} [Decidable c] (ha : GridKept r a.1) (hb : GridKept r b.1) :
    GridKept r (if c then a else b).1 := by
  split <;> assumption

theorem GridKept.ofFst {α : Type} {r s : State} {p : State × α} {a : α} (e : p = (s, a)) (h : GridKept r p.1) : GridKept r s := by
  rw [e] at h; exact h

theorem GridKept.foldl {α : Type} {r : State} {f : State → α → State} (hf : ∀ x a, GridKept r x → GridKept r (f x a)) :
    ∀ {s : State} (l : List α), GridKept r s → GridKept r (l.foldl f s)
  | _, [], h => h
  | s, a :: l, h => GridKept.foldl hf (s := f s a) l (hf s a h)

theorem GridKept.foldlFst {α β : Type} {r : State} {f : State × β → α → State × β} (hf : ∀ x a, GridKept r x.1 → GridKept r (f x a).1) :
    ∀ {s : State × β} (l : List α), GridKept r s.1 → GridKept r (l.foldl f s).1
  | _, [], h => h
  | s, a :: l, h => GridKept.foldlFst hf (s := f s a) l (hf s a h)

end Sys2Proof.Machine
end

