-- ==== Sys2Proof/Laws/GridKept.lean ====
section
/-! SUPPORT. The consumers of an instant leave the instant grid as the instant left it. -/

namespace Sys2Proof.Machine

/-! ### Ops.lean -/

theorem State.dramWrite_gridkept {r s : State} (h : GridKept r s) (a : Nat) (bs : List Byte) : GridKept r (s.dramWrite a bs) := by
  unfold State.dramWrite
  exact h.upd rfl rfl rfl rfl

theorem State.setReg_gridkept {r s : State} (h : GridKept r s) (off : Nat) (v : Word) : GridKept r (s.setReg off v) := by
  unfold State.setReg
  exact h.upd rfl rfl rfl rfl

theorem State.setFld_gridkept {r s : State} (h : GridKept r s) (off : Nat) (lo : Nat) (w : Nat) (v : Nat) : GridKept r (s.setFld off lo w v) := by
  unfold State.setFld
  apply State.setReg_gridkept
  exact h

theorem State.event_gridkept {r s : State} (h : GridKept r s) (off : Nat) (i : Nat) : GridKept r (s.event off i) := by
  unfold State.event
  apply State.setReg_gridkept
  exact h

theorem State.setReg64_gridkept {r s : State} (h : GridKept r s) (lo : Nat) (v : Nat) : GridKept r (s.setReg64 lo v) := by
  unfold State.setReg64
  apply State.setReg_gridkept
  apply State.setReg_gridkept
  exact h

theorem State.countBy_gridkept {r s : State} (h : GridKept r s) (lo : Nat) (n : Nat) : GridKept r (s.countBy lo n) := by
  unfold State.countBy
  apply State.setReg64_gridkept
  exact h

theorem State.count_gridkept {r s : State} (h : GridKept r s) (lo : Nat) : GridKept r (s.count lo) := by
  unfold State.count
  apply State.countBy_gridkept
  exact h

theorem State.count32_gridkept {r s : State} (h : GridKept r s) (off : Nat) : GridKept r (s.count32 off) := by
  unfold State.count32
  apply State.setReg_gridkept
  exact h

theorem State.setTs_gridkept {r s : State} (h : GridKept r s) (off : Nat) (t : Nat) : GridKept r (s.setTs off t) := by
  unfold State.setTs
  apply State.setReg_gridkept
  apply State.setReg_gridkept
  apply State.setReg_gridkept
  apply State.setReg_gridkept
  exact h

theorem State.emit_gridkept {r s : State} (h : GridKept r s) (o : Output) : GridKept r (s.emit o) := by
  unfold State.emit
  exact h.upd rfl rfl rfl rfl

theorem State.freshNext_gridkept {r s : State} (h : GridKept r s) : GridKept r (s.freshNext) := by
  unfold State.freshNext
  exact h.upd rfl rfl rfl rfl

theorem State.logRaise_gridkept {r s : State} (h : GridKept r s) (cls : Nat) (src : Nat) (ev : Nat) (detail : List Nat) : GridKept r (s.logRaise cls src ev detail) := by
  unfold State.logRaise
  extract_lets x1
  exact h.upd rfl rfl rfl rfl

theorem State.almSend_gridkept {r s : State} (h : GridKept r s) (i : AlmInput) : GridKept r (s.almSend i) := by
  unfold State.almSend
  extract_lets x1
  exact h.upd rfl rfl rfl rfl

theorem State.capNotice_gridkept {r s : State} (h : GridKept r s) (typ : Nat) (m : Nat → Nat → Bool) (at_ : Nat) (code : Nat) : GridKept r (s.capNotice typ m at_ code) := by
  unfold State.capNotice
  extract_lets x1 x2
  refine GridKept.ite ?_ ?_
  · exact h.upd rfl rfl rfl rfl
  · exact h

theorem State.offer_gridkept {r s : State} (h : GridKept r s) (port : Nat) (cls : TxClass) (body : TxBody) (bytes : Nat) (job : Option (Nat × Nat)) : GridKept r (s.offer port cls body bytes job) := by
  unfold State.offer
  extract_lets x1 x2
  refine GridKept.ite ?_ ?_
  · exact h.upd rfl rfl rfl rfl
  · exact h.upd rfl rfl rfl rfl

theorem State.wantTask_gridkept {r s : State} (h : GridKept r s) (t : TaskReq) : GridKept r (s.wantTask t) := by
  unfold State.wantTask
  extract_lets x1
  exact h.upd rfl rfl rfl rfl

theorem State.deliver_gridkept {r s : State} (h : GridKept r s) (d : Delivery) : GridKept r (s.deliver d) := by
  unfold State.deliver
  extract_lets x1
  exact h.upd rfl rfl rfl rfl

theorem State.mirrorItem_gridkept {r s : State} (h : GridKept r s) (item : Nat) (body : List Byte) : GridKept r (s.mirrorItem item body) := by
  unfold State.mirrorItem
  extract_lets x1 x2
  refine GridKept.ite ?_ ?_
  · refine GridKept.ite ?_ ?_
    · exact h.upd rfl rfl rfl rfl
    · apply State.event_gridkept
      apply State.count_gridkept
      exact h.upd rfl rfl rfl rfl
  · exact h

theorem State.leaseTake_gridkept {r s : State} (h : GridKept r s) (pool : Nat) (index : Nat) (owner : Nat) : GridKept r (s.leaseTake pool index owner) := by
  unfold State.leaseTake
  extract_lets x1
  exact h.upd rfl rfl rfl rfl

theorem State.leaseReturn_gridkept {r s : State} (h : GridKept r s) (pool : Nat) (index : Nat) : GridKept r (s.leaseReturn pool index) := by
  unfold State.leaseReturn
  exact h.upd rfl rfl rfl rfl

/-! ### Power.lean -/

theorem State.wake_gridkept {r s : State} (h : GridKept r s) (src : Nat) : GridKept r (s.wake src) := by
  unfold State.wake
  extract_lets x1
  refine GridKept.ite ?_ ?_
  · exact h
  · apply State.event_gridkept
    apply State.setReg_gridkept
    exact h.upd rfl rfl rfl rfl

theorem State.pwrAfter_gridkept {r s : State} (h : GridKept r s) (s0 : State) : GridKept r (s0.pwrAfter s) := by
  unfold State.pwrAfter
  extract_lets x1 x2
  have hx1 : GridKept r x1 := by
    unfold x1
    refine GridKept.ite ?_ ?_
    · apply State.wake_gridkept
      exact h
    · exact h
  clear_value x1
  refine GridKept.ite ?_ ?_
  · exact hx1.upd rfl rfl rfl rfl
  · exact hx1

/-! ### Manifest.lean -/

theorem State.modRing_gridkept {r s : State} (h : GridKept r s) (n : Nat) (f : Ring → Ring) : GridKept r (s.modRing n f) := by
  unfold State.modRing
  extract_lets x1
  exact h.upd rfl rfl rfl rfl

theorem State.ringSettle_gridkept {r s : State} (h : GridKept r s) (n : Nat) : GridKept r (s.ringSettle n) := by
  unfold State.ringSettle
  extract_lets x1
  refine GridKept.ite ?_ ?_
  · apply State.modRing_gridkept
    exact h
  · exact h

theorem State.finishOne_gridkept {r s : State} (h : GridKept r s) (mid : Nat) (status : Nat) (d0 : Nat) (detail : List Byte) : GridKept r (s.finishOne mid status d0 detail) := by
  unfold State.finishOne
  split
  · exact h
  · extract_lets x3 x4 x5
    have hx4 : GridKept r x4 := by
      unfold x4
      refine GridKept.foldl ?_ _ ?_
      · intro y7 y8 y9
        apply State.modRing_gridkept
        exact y9
      · exact h
    clear_value x4
    have hx5 : GridKept r x5 := by
      unfold x5
      refine GridKept.ite ?_ ?_
      · apply State.count_gridkept
        exact hx4
      · exact hx4
    clear_value x5
    apply State.ringSettle_gridkept
    exact hx5

theorem State.finishRaw_gridkept {r s : State} (h : GridKept r s) (mid : Nat) (status : Nat) (d0 : Nat) (detail : List Byte) : GridKept r (s.finishRaw mid status d0 detail) := by
  unfold State.finishRaw
  extract_lets x1
  refine GridKept.foldl ?_ _ ?_
  · intro y3 y4 y5
    apply State.finishOne_gridkept
    exact y5
  · apply State.finishOne_gridkept
    exact h

theorem State.autoComplete_gridkept {r : State} (k : Nat) {s : State} (h : GridKept r s) (n : Nat) : GridKept r (State.autoComplete k s n) := by
  induction k generalizing s with
  | zero => exact h
  | succ k ih =>
    unfold State.autoComplete
    refine GridKept.ite ?_ h
    split
    · split
      · exact ih (State.finishRaw_gridkept h _ _ _ _)
      · exact h
    · exact h

theorem State.autoAll_gridkept {r s : State} (h : GridKept r s) : GridKept r (s.autoAll) := by
  unfold State.autoAll
  refine GridKept.foldl ?_ _ ?_
  · intro y1 y2 y3
    apply State.autoComplete_gridkept
    exact y3
  · exact h

theorem State.finish_gridkept {r s : State} (h : GridKept r s) (mid : Nat) (status : Nat) (d0 : Nat) (detail : List Byte) : GridKept r (s.finish mid status d0 detail) := by
  unfold State.finish
  apply State.autoAll_gridkept
  apply State.finishRaw_gridkept
  exact h

theorem State.finishOpt_gridkept {r s : State} (h : GridKept r s) (mid : Option Nat) (status : Nat) (d0 : Nat) (detail : List Byte) : GridKept r (s.finishOpt mid status d0 detail) := by
  unfold State.finishOpt
  split
  · apply State.finish_gridkept
    exact h
  · exact h

/-! ### KeyStore.lean -/

theorem State.keyUseErr_gridkept {r s : State} (h : GridKept r s) : GridKept r (s.keyUseErr) := by
  unfold State.keyUseErr
  apply State.event_gridkept
  apply State.count_gridkept
  exact h

theorem State.cryptoStart_gridkept {r s s' : State} (h : GridKept r s) {o : CryptoOp} (e : s.cryptoStart o = some s') : GridKept r s' := by
  unfold State.cryptoStart at e
  split at e
  · split at e
    · cases e
      apply State.leaseTake_gridkept
      exact h.upd rfl rfl rfl rfl
    · cases e
  · cases e

theorem State.requestSign_gridkept {r s : State} (h : GridKept r s) (use : CryptoUse) (slot : Nat) (msg : List Byte) :
    GridKept r (s.requestSign use slot msg).1 := by
  unfold State.requestSign
  extract_lets waits key
  clear_value key
  refine GridKept.iteFst ?_ (State.keyUseErr_gridkept h)
  split
  next e => exact State.cryptoStart_gridkept h e
  · exact State.count_gridkept h _

/-! ### Capture.lean -/

theorem State.modCap_gridkept {r s : State} (h : GridKept r s) (c : Nat) (f : CapCh → CapCh) : GridKept r (s.modCap c f) := by
  unfold State.modCap
  extract_lets x1
  exact h.upd rfl rfl rfl rfl

theorem State.capEvent_gridkept {r s : State} (h : GridKept r s) (bit : Nat) (c : Nat) : GridKept r (s.capEvent bit c) := by
  unfold State.capEvent
  apply State.logRaise_gridkept
  apply State.event_gridkept
  exact h

theorem State.capClose_gridkept {r s : State} (h : GridKept r s) (c : Nat) (o : CapOpen) : GridKept r (s.capClose c o) := by
  unfold State.capClose
  extract_lets x1 x2
  have hx2 : GridKept r x2 := by
    unfold x2
    apply State.modCap_gridkept
    exact h
  clear_value x2
  refine GridKept.ite ?_ ?_
  · apply State.modCap_gridkept
    exact hx2
  · apply State.count_gridkept
    apply State.modCap_gridkept
    apply State.dramWrite_gridkept
    exact hx2

theorem State.capAppend_gridkept {r s : State} (h : GridKept r s) (c : Nat) (o : CapOpen) (inst : Nat) (e : List Byte) : GridKept r (s.capAppend c o inst e) := by
  unfold State.capAppend
  apply State.modCap_gridkept
  exact h

theorem State.capOpenBlock_gridkept {r s : State} (h : GridKept r s) (c : Nat) (a2 : Nat) (inst : Nat) (period : Nat) (e : List Byte) : GridKept r (s.capOpenBlock c a2 inst period e) := by
  unfold State.capOpenBlock
  extract_lets x1
  refine GridKept.ite ?_ ?_
  · apply State.modCap_gridkept
    exact h
  · apply State.modCap_gridkept
    exact h

theorem State.capAdd_gridkept {r s : State} (h : GridKept r s) (c : Nat) (a2 : Nat) (inst : Nat) (cov : Nat) (period : Nat) (mk : Nat → List Byte) : GridKept r (s.capAdd c a2 inst cov period mk) := by
  unfold State.capAdd
  extract_lets x1 x2
  have hx2 : GridKept r x2 := by
    unfold x2
    split
    · apply State.capOpenBlock_gridkept
      exact h
    · extract_lets x3
      refine GridKept.ite ?_ ?_
      · apply State.capAppend_gridkept
        exact h
      · apply State.capOpenBlock_gridkept
        apply State.capClose_gridkept
        exact h
  clear_value x2
  refine GridKept.ite ?_ ?_
  · exact h
  · refine GridKept.ite ?_ ?_
    · apply State.modCap_gridkept
      exact h
    · apply State.modCap_gridkept
      exact hx2

theorem State.capSnap_gridkept {r s : State} (h : GridKept r s) (seq : Nat) (inst : Nat) (next : Nat) (tq : BitVec 16) (lane : Nat → List Byte) : GridKept r (s.capSnap seq inst next tq lane) := by
  unfold State.capSnap
  refine GridKept.foldl ?_ _ ?_
  · intro y1 y2 y3
    extract_lets x5
    apply State.capAdd_gridkept
    exact y3
  · exact h

theorem State.capStop_gridkept {r s : State} (h : GridKept r s) (c : Nat) (st : CapSt) (cause : Nat) (endAt : Nat) : GridKept r (s.capStop c st cause endAt) := by
  unfold State.capStop
  extract_lets x1 x2 x3 x4
  have hx1 : GridKept r x1 := by
    unfold x1
    refine GridKept.foldl ?_ _ ?_
    · intro y6 y7 y8
      apply State.capClose_gridkept
      exact y8
    · exact h
  clear_value x1
  have hx2 : GridKept r x2 := by
    unfold x2
    apply State.modCap_gridkept
    exact hx1
  clear_value x2
  have hx4 : GridKept r x4 := by
    unfold x4
    exact hx2.upd rfl rfl rfl rfl
  clear_value x4
  apply State.dramWrite_gridkept
  exact hx4

theorem capEndRow_gridkept {r s : State} (h : GridKept r s) (c : Nat) : GridKept r (capEndRow c s) := by
  unfold capEndRow
  refine GridKept.ite ?_ ?_
  · apply State.count_gridkept
    apply State.capEvent_gridkept
    apply State.capStop_gridkept
    exact h
  · exact h

theorem capOverflowRow_gridkept {r s : State} (h : GridKept r s) (c : Nat) (fifo : Bool) : GridKept r (capOverflowRow c fifo s) := by
  unfold capOverflowRow
  extract_lets x1
  refine GridKept.ite ?_ ?_
  · apply State.count_gridkept
    apply State.capEvent_gridkept
    apply State.capStop_gridkept
    exact h
  · exact h

theorem State.capAbort_gridkept {r s : State} (h : GridKept r s) (c : Nat) : GridKept r (s.capAbort c) := by
  unfold State.capAbort
  extract_lets x1 x2 x3
  have hx2 : GridKept r x2 := by
    unfold x2
    apply State.modCap_gridkept
    exact h
  clear_value x2
  split
  · apply State.count_gridkept
    exact hx2.upd rfl rfl rfl rfl
  · refine GridKept.ite ?_ ?_
    · apply State.modCap_gridkept
      apply capEndRow_gridkept
      exact h
    · refine GridKept.ite ?_ ?_
      · apply State.modCap_gridkept
        apply capOverflowRow_gridkept
        exact h
      · apply State.count_gridkept
        apply State.modCap_gridkept
        apply State.capStop_gridkept
        exact h
  · apply State.modCap_gridkept
    exact h

/-! ### FrontEnd.lean -/

theorem State.modFe_gridkept {r s : State} (h : GridKept r s) (f : Fe → Fe) : GridKept r (s.modFe f) := by
  unfold State.modFe
  exact h.upd rfl rfl rfl rfl

theorem State.feStep_gridkept {r s : State} (h : GridKept r s) : GridKept r (s.feStep) := by
  unfold State.feStep
  refine GridKept.ite ?_ ?_
  · apply State.modFe_gridkept
    exact h
  · exact h

/-! ### Mtr.lean -/

theorem State.modMtr_gridkept {r s : State} (h : GridKept r s) (f : Mtr → Mtr) : GridKept r (s.modMtr f) := by
  unfold State.modMtr
  exact h.upd rfl rfl rfl rfl

theorem State.modPoint_gridkept {r s : State} (h : GridKept r s) (m : Nat) (f : MtrPoint → MtrPoint) : GridKept r (s.modPoint m f) := by
  unfold State.modPoint
  apply State.modMtr_gridkept
  exact h

theorem State.modPulse_gridkept {r s : State} (h : GridKept r s) (o : Nat) (f : MtrPulse → MtrPulse) : GridKept r (s.modPulse o f) := by
  unfold State.modPulse
  apply State.modMtr_gridkept
  exact h

theorem State.mtrCond_gridkept {r s : State} (h : GridKept r s) (m : Nat) (k : Nat) : GridKept r (s.mtrCond m k) := by
  unfold State.mtrCond
  extract_lets x1 x2 x3 x4 x5 x6 x7 x8 x9 x10 x11 x12 x13
  have hx10 : GridKept r x10 := by
    unfold x10
    apply State.modPoint_gridkept
    exact h
  clear_value x10
  have hx13 : GridKept r x13 := by
    unfold x13
    apply State.almSend_gridkept
    exact hx10
  clear_value x13
  refine GridKept.ite ?_ ?_
  · refine GridKept.ite ?_ ?_
    · apply State.event_gridkept
      exact hx13
    · exact hx13
  · exact hx10

theorem State.pulseAdd_gridkept {r s : State} (h : GridKept r s) (o : Nat) (imp : Bool) (d : Nat) (start : Nat) (len : Nat) : GridKept r (s.pulseAdd o imp d start len) := by
  unfold State.pulseAdd
  extract_lets x1 x2 x3 x4 x5 x6 x7 x8
  have hx8 : GridKept r x8 := by
    unfold x8
    apply State.modPulse_gridkept
    exact h
  clear_value x8
  refine GridKept.ite ?_ ?_
  · apply State.event_gridkept
    exact hx8
  · exact hx8

theorem State.pulsesAdd_gridkept {r s : State} (h : GridKept r s) (m : Nat) (d : List Nat) (start : Nat) (len : Nat) : GridKept r (s.pulsesAdd m d start len) := by
  unfold State.pulsesAdd
  extract_lets x1
  refine GridKept.foldl ?_ _ ?_
  · intro y3 y4 y5
    extract_lets x7
    refine GridKept.ite ?_ ?_
    · split
      · apply State.pulseAdd_gridkept
        apply State.pulseAdd_gridkept
        exact y5
      · apply State.pulseAdd_gridkept
        exact y5
      · apply State.pulseAdd_gridkept
        exact y5
      · apply State.pulseAdd_gridkept
        exact y5
    · exact y5
  · exact h

theorem State.energyAdd_gridkept {r s : State} (h : GridKept r s) (m : Nat) (d : List Nat) (start : Nat) (len : Nat) : GridKept r (s.energyAdd m d start len) := by
  unfold State.energyAdd
  extract_lets x1 x2 x3
  have hx2 : GridKept r x2 := by
    unfold x2
    apply State.modPoint_gridkept
    exact h
  clear_value x2
  have hx3 : GridKept r x3 := by
    unfold x3
    refine GridKept.ite ?_ ?_
    · apply State.event_gridkept
      exact hx2
    · exact hx2
  clear_value x3
  apply State.pulsesAdd_gridkept
  exact hx3

theorem State.netEnd_gridkept {r s : State} (h : GridKept r s) (m : Nat) (start : Nat) (len : Nat) : GridKept r (s.netEnd m start len) := by
  unfold State.netEnd
  extract_lets x1
  apply State.modPoint_gridkept
  apply State.energyAdd_gridkept
  exact h

theorem State.secondEnd_gridkept {r s : State} (h : GridKept r s) (m : Nat) : GridKept r (s.secondEnd m) := by
  unfold State.secondEnd
  apply State.modPoint_gridkept
  exact h

theorem State.mtrCompare_gridkept {r s : State} (h : GridKept r s) (m : Nat) (end_ : Nat) : GridKept r (s.mtrCompare m end_) := by
  unfold State.mtrCompare
  extract_lets x1 x2
  split
  · refine GridKept.ite ?_ ?_
    · apply State.count_gridkept
      apply State.event_gridkept
      exact h
    · exact h
  · exact h

theorem State.mtrMirror_gridkept {r s : State} (h : GridKept r s) (m : Nat) (body : List Byte) : GridKept r (s.mtrMirror m body) := by
  unfold State.mtrMirror
  extract_lets x1 x2 x3 x4 x5
  have hx5 : GridKept r x5 := by
    unfold x5
    exact h.upd rfl rfl rfl rfl
  clear_value x5
  apply State.mtrCompare_gridkept
  apply State.mirrorItem_gridkept
  exact hx5

theorem State.mtrRecordWrite_gridkept {r s : State} (h : GridKept r s) (m : Nat) (body : List Byte) (sig : Option (List Byte)) : GridKept r (s.mtrRecordWrite m body sig) := by
  unfold State.mtrRecordWrite
  extract_lets x1 x2 x3 x4 x5 x6 x7 x8 x9 x10 x11
  have hx1 : GridKept r x1 := by
    unfold x1
    split
    · exact h
    · apply State.count_gridkept
      apply State.event_gridkept
      exact h
  clear_value x1
  have hx5 : GridKept r x5 := by
    unfold x5
    apply State.modMtr_gridkept
    apply State.dramWrite_gridkept
    exact hx1
  clear_value x5
  have hx6 : GridKept r x6 := by
    unfold x6
    refine GridKept.ite ?_ ?_
    · refine GridKept.ite ?_ ?_
      · apply State.event_gridkept
        exact hx5
      · exact hx5
    · exact hx1
  clear_value x6
  have hx9 : GridKept r x9 := by
    unfold x9
    exact hx6.upd rfl rfl rfl rfl
  clear_value x9
  have hx10 : GridKept r x10 := by
    unfold x10
    refine GridKept.ite ?_ ?_
    · apply State.deliver_gridkept
      exact hx9
    · exact hx9
  clear_value x10
  have hx11 : GridKept r x11 := by
    unfold x11
    apply State.mtrMirror_gridkept
    exact hx10
  clear_value x11
  apply State.count_gridkept
  apply State.event_gridkept
  exact hx11

theorem State.intervalEnd_gridkept {r s : State} (h : GridKept r s) (m : Nat) (end_ : Nat) (partialEnd : Bool) (partialNext : Bool) : GridKept r (s.intervalEnd m end_ partialEnd partialNext) := by
  unfold State.intervalEnd
  extract_lets x1 x2 x3 x4 x5 x6 x7
  have hx4 : GridKept r x4 := by
    unfold x4
    apply State.modPoint_gridkept
    exact h
  clear_value x4
  have hx5 : GridKept r x5 := by
    unfold x5
    refine GridKept.ite ?_ ?_
    · apply State.almSend_gridkept
      apply State.modMtr_gridkept
      exact hx4
    · exact hx4
  clear_value x5
  have hx6 : GridKept r x6.1 := by
    unfold x6
    apply State.requestSign_gridkept
    exact hx5
  clear_value x6
  have hx7 : GridKept r x7 := by
    unfold x7
    refine GridKept.ite ?_ ?_
    · apply State.event_gridkept
      apply State.count_gridkept
      exact h
    · refine GridKept.ite ?_ ?_
      · exact hx6
      · apply State.mtrRecordWrite_gridkept
        exact hx6
  clear_value x7
  apply State.modPoint_gridkept
  exact hx7

theorem State.backupSave_gridkept {r s : State} (h : GridKept r s) (pfw : Bool) : GridKept r (s.backupSave pfw) := by
  unfold State.backupSave
  extract_lets x1 x2 x3 x4 x5
  have hx5 : GridKept r x5 := by
    unfold x5
    exact h.upd rfl rfl rfl rfl
  clear_value x5
  apply State.count_gridkept
  exact hx5

theorem State.periodicSaves_gridkept {r s : State} (h : GridKept r s) (force : Bool) : GridKept r (s.periodicSaves force) := by
  unfold State.periodicSaves
  extract_lets x1 x2 x3
  have hx2 : GridKept r x2 := by
    unfold x2
    refine GridKept.ite ?_ ?_
    · apply State.backupSave_gridkept
      exact h
    · exact h
  clear_value x2
  refine GridKept.ite ?_ ?_
  · apply State.modMtr_gridkept
    exact hx2
  · exact hx2

theorem State.outageFix_gridkept {r s : State} (h : GridKept r s) (open_ : Nat) : GridKept r (s.outageFix open_) := by
  unfold State.outageFix
  refine GridKept.ite ?_ ?_
  · apply State.modMtr_gridkept
    apply State.setReg_gridkept
    exact h
  · exact h

theorem State.netClose_gridkept {r s : State} (h : GridKept r s) (m : Nat) (start : Nat) : GridKept r (s.netClose m start) := by
  unfold State.netClose
  split
  · apply State.netEnd_gridkept
    exact h
  · apply State.netEnd_gridkept
    exact h
  · exact h

theorem State.pointInterval_gridkept {r s : State} (h : GridKept r s) (m : Nat) (cyc : MtrCyc) : GridKept r (s.pointInterval m cyc) := by
  unfold State.pointInterval
  extract_lets x1 x2 x3 x4 x5
  have hx5 : GridKept r x5 := by
    unfold x5
    refine GridKept.ite ?_ ?_
    · apply State.netClose_gridkept
      exact h
    · exact h
  clear_value x5
  refine GridKept.ite ?_ ?_
  · apply State.modPoint_gridkept
    exact hx5
  · refine GridKept.ite ?_ ?_
    · exact hx5
    · apply State.modPoint_gridkept
      apply State.intervalEnd_gridkept
      exact hx5

theorem State.pointSecond_gridkept {r s : State} (h : GridKept r s) (m : Nat) (cyc : MtrCyc) : GridKept r (s.pointSecond m cyc) := by
  unfold State.pointSecond
  apply State.modPoint_gridkept
  exact h

theorem State.pointEnergy_gridkept {r s : State} (h : GridKept r s) (m : Nat) (cyc : MtrCyc) (q : MtrQuant) : GridKept r (s.pointEnergy m cyc q) := by
  unfold State.pointEnergy
  extract_lets x1 x2 x3 x4
  refine GridKept.ite ?_ ?_
  · exact h
  · refine GridKept.ite ?_ ?_
    · apply State.energyAdd_gridkept
      exact h
    · apply State.modPoint_gridkept
      exact h

theorem State.pointEnds_gridkept {r s : State} (h : GridKept r s) (m : Nat) (cyc : MtrCyc) : GridKept r (s.pointEnds m cyc) := by
  unfold State.pointEnds
  extract_lets x1 x2 x3 x4 x5 x6 x7
  have hx6 : GridKept r x6 := by
    unfold x6
    refine GridKept.ite ?_ ?_
    · apply State.netClose_gridkept
      exact h
    · exact h
  clear_value x6
  have hx7 : GridKept r x7 := by
    unfold x7
    refine GridKept.ite ?_ ?_
    · apply State.secondEnd_gridkept
      exact hx6
    · exact hx6
  clear_value x7
  refine GridKept.ite ?_ ?_
  · apply State.intervalEnd_gridkept
    exact hx7
  · exact hx7

theorem State.pointGap_gridkept {r s : State} (h : GridKept r s) (m : Nat) (cyc : MtrCyc) : GridKept r (s.pointGap m cyc) := by
  unfold State.pointGap
  extract_lets x1
  refine GridKept.ite ?_ ?_
  · apply State.secondEnd_gridkept
    refine GridKept.ite ?_ ?_
    · apply State.netClose_gridkept
      exact h
    · exact h
  · exact h

theorem State.pointAccumulate_gridkept {r s : State} (h : GridKept r s) (m : Nat) (cyc : MtrCyc) (q : MtrQuant) : GridKept r (s.pointAccumulate m cyc q) := by
  unfold State.pointAccumulate
  apply State.pointEnds_gridkept
  apply State.pointEnergy_gridkept
  apply State.pointSecond_gridkept
  apply State.pointInterval_gridkept
  apply State.pointGap_gridkept
  apply State.outageFix_gridkept
  exact h

theorem State.intervalCut_gridkept {r s : State} (h : GridKept r s) (m : Nat) (mark : Nat) : GridKept r (s.intervalCut m mark) := by
  unfold State.intervalCut
  extract_lets x1
  have hx1 : GridKept r x1 := by
    unfold x1
    apply State.secondEnd_gridkept
    apply State.netClose_gridkept
    exact h
  clear_value x1
  refine GridKept.ite ?_ ?_
  · apply State.intervalEnd_gridkept
    exact hx1
  · exact hx1

theorem State.pointReset_gridkept {r s : State} (h : GridKept r s) (m : Nat) (mark : Nat) : GridKept r (s.pointReset m mark) := by
  unfold State.pointReset
  extract_lets x1
  have hx1 : GridKept r x1 := by
    unfold x1
    refine GridKept.ite ?_ ?_
    · apply State.intervalCut_gridkept
      exact h
    · exact h
  clear_value x1
  refine GridKept.ite ?_ ?_
  · apply State.logRaise_gridkept
    apply State.modPoint_gridkept
    exact hx1
  · exact h

theorem State.mtrAdopt_gridkept {r s : State} (h : GridKept r s) (mark : Nat) : GridKept r (s.mtrAdopt mark) := by
  unfold State.mtrAdopt
  extract_lets x1 x2 x3 x4
  have hx4 : GridKept r x4 := by
    unfold x4
    refine GridKept.foldl ?_ _ ?_
    · intro y5 y6 y7
      refine GridKept.ite ?_ ?_
      · apply State.intervalCut_gridkept
        exact y7
      · exact y7
    · exact h
  clear_value x4
  refine GridKept.ite ?_ ?_
  · exact h
  · apply State.modMtr_gridkept
    exact hx4

theorem State.cycleMeasure_gridkept {r s : State} (h : GridKept r s) (cyc : MtrCyc) : GridKept r (s.cycleMeasure cyc) := by
  unfold State.cycleMeasure
  extract_lets x1 x2
  have hx2 : GridKept r x2 := by
    unfold x2
    refine GridKept.foldl ?_ _ ?_
    · intro y4 y5 y6
      extract_lets x8 x9 x10 x11
      have hx9 : GridKept r x9 := by
        unfold x9
        apply State.modPoint_gridkept
        exact y6
      clear_value x9
      have hx11 : GridKept r x11 := by
        unfold x11
        refine GridKept.foldl ?_ _ ?_
        · intro y15 y16 y17
          refine GridKept.ite ?_ ?_
          · apply State.setReg_gridkept
            exact y17
          · exact y17
        · exact hx9
      clear_value x11
      refine GridKept.ite ?_ ?_
      · refine GridKept.foldl ?_ _ ?_
        · intro y25 y26 y27
          apply State.mtrCond_gridkept
          exact y27
        · exact hx11
      · exact y6
    · exact h
  clear_value x2
  apply State.count_gridkept
  exact hx2

theorem State.cycleAccumulate_gridkept {r s : State} (h : GridKept r s) (cyc : MtrCyc) (first : Bool) : GridKept r (s.cycleAccumulate cyc first) := by
  unfold State.cycleAccumulate
  extract_lets x1 x2
  have hx1 : GridKept r x1 := by
    unfold x1
    refine GridKept.foldl ?_ _ ?_
    · intro y4 y5 y6
      refine GridKept.ite ?_ ?_
      · apply State.pointAccumulate_gridkept
        exact y6
      · exact y6
    · exact h
  clear_value x1
  have hx2 : GridKept r x2 := by
    unfold x2
    apply State.modMtr_gridkept
    exact hx1
  clear_value x2
  apply State.mtrAdopt_gridkept
  refine GridKept.foldl ?_ _ ?_
  · intro y16 y17 y18
    apply State.pointReset_gridkept
    exact y18
  · exact hx2

theorem State.cycleHandle_gridkept {r s : State} (h : GridKept r s) (cyc : MtrCyc) : GridKept r (s.cycleHandle cyc) := by
  unfold State.cycleHandle
  extract_lets x1 x2 x3
  have hx2 : GridKept r x2 := by
    unfold x2
    apply State.cycleMeasure_gridkept
    exact h
  clear_value x2
  have hx3 : GridKept r x3 := by
    unfold x3
    refine GridKept.ite ?_ ?_
    · apply State.modMtr_gridkept
      exact hx2
    · apply State.periodicSaves_gridkept
      apply State.cycleAccumulate_gridkept
      exact hx2
  clear_value x3
  apply State.modMtr_gridkept
  exact hx3

theorem State.mtrFreeze_gridkept {r s : State} (h : GridKept r s) : GridKept r (s.mtrFreeze) := by
  unfold State.mtrFreeze
  extract_lets x1
  have hx1 : GridKept r x1 := by
    unfold x1
    refine GridKept.foldl ?_ _ ?_
    · intro y3 y4 y5
      apply State.cycleHandle_gridkept
      exact y5
    · apply State.modMtr_gridkept
      exact h
  clear_value x1
  refine GridKept.ite ?_ ?_
  · apply State.modMtr_gridkept
    apply State.backupSave_gridkept
    exact hx1
  · exact h

theorem State.mtrRefuseEnd_gridkept {r s : State} (h : GridKept r s) : GridKept r (s.mtrRefuseEnd) := by
  unfold State.mtrRefuseEnd
  refine GridKept.ite ?_ ?_
  · apply State.modMtr_gridkept
    exact h
  · exact h

/-! ### Pilot.lean -/

theorem State.modPlt_gridkept {r s : State} (h : GridKept r s) (f : Plt → Plt) : GridKept r (s.modPlt f) := by
  unfold State.modPlt
  exact h.upd rfl rfl rfl rfl

theorem State.setTask_gridkept {r s : State} (h : GridKept r s) (i : Nat) (t : Task) : GridKept r (s.setTask i t) := by
  unfold State.setTask
  apply State.modPlt_gridkept
  exact h

theorem State.freeTask_gridkept {r s : State} (h : GridKept r s) (i : Nat) : GridKept r (s.freeTask i) := by
  unfold State.freeTask
  apply State.setTask_gridkept
  exact h

/-! ### TimeBase.lean -/

theorem State.modTb_gridkept {r s : State} (h : GridKept r s) (f : Tb → Tb) (h1 : ∀ b, (f b).grid = b.grid) (h2 : ∀ b, (f b).tq = b.tq)
    (h3 : ∀ b, (f b).tqHist = b.tqHist) (h4 : ∀ b, (f b).lastInstant = b.lastInstant) : GridKept r (s.modTb f) :=
  h.upd (h1 _) (h2 _) (h3 _) (h4 _)

theorem State.tbEvent_gridkept {r s : State} (h : GridKept r s) (b : Nat) : GridKept r (s.tbEvent b) := by
  unfold State.tbEvent
  apply State.logRaise_gridkept
  apply State.event_gridkept
  exact h

theorem State.dtStep_gridkept {r s : State} (h : GridKept r s) (d : Int) : GridKept r (s.dtStep d) := by
  unfold State.dtStep
  extract_lets x1 x2
  have hx1 : GridKept r x1 := by
    unfold x1
    exact h.upd rfl rfl rfl rfl
  clear_value x1
  have hx2 : GridKept r x2 := by
    unfold x2
    apply State.modTb_gridkept
    · exact hx1
    · intro y6
      rfl
    · intro y7
      rfl
    · intro y8
      rfl
    · intro y9
      rfl
  clear_value x2
  apply State.feStep_gridkept
  apply State.tbEvent_gridkept
  apply State.count32_gridkept
  exact hx2

theorem State.applySet_gridkept {r s : State} (h : GridKept r s) : GridKept r (s.applySet) := by
  unfold State.applySet
  split
  · apply State.dtStep_gridkept
    apply State.modTb_gridkept
    · exact h
    · intro y4
      rfl
    · intro y5
      rfl
    · intro y6
      rfl
    · intro y7
      rfl
  · exact h

/-! ### Quay.lean -/

theorem State.modAln_gridkept {r s : State} (h : GridKept r s) (f : Aln → Aln) : GridKept r (s.modAln f) := by
  unfold State.modAln
  exact h.upd rfl rfl rfl rfl

theorem State.modQuay_gridkept {r s : State} (h : GridKept r s) (seq : Nat) (f : Quay → Quay) : GridKept r (s.modQuay seq f) := by
  unfold State.modQuay
  apply State.modAln_gridkept
  exact h

theorem State.modDet_gridkept {r s : State} (h : GridKept r s) (seq : Nat) (d : Nat) (f : Det → Det) : GridKept r (s.modDet seq d f) := by
  unfold State.modDet
  apply State.modQuay_gridkept
  exact h

theorem State.dramRegion_gridkept {r s : State} (h : GridKept r s) (base : Nat) (len : Nat) (cells : List (Nat × Byte)) : GridKept r (s.dramRegion base len cells) := by
  unfold State.dramRegion
  exact h.upd rfl rfl rfl rfl

theorem State.quayStore_gridkept {r s : State} (h : GridKept r s) (q : Quay) : GridKept r (s.quayStore q) := by
  unfold State.quayStore
  apply State.dramRegion_gridkept
  exact h

/-! ### Align.lean -/

theorem State.alnNote_gridkept {r s : State} (h : GridKept r s) : GridKept r (s.alnNote) := by
  unfold State.alnNote
  refine GridKept.ite ?_ ?_
  · refine GridKept.ite ?_ ?_
    · apply State.modAln_gridkept
      exact h
    · exact h
  · apply State.modAln_gridkept
    exact h

theorem State.slotReturn_gridkept {r s : State} (h : GridKept r s) (q : Quay) : GridKept r (s.slotReturn q) := by
  unfold State.slotReturn
  split
  · apply State.leaseReturn_gridkept
    exact h
  · exact h

theorem State.tugReturn_gridkept {r s : State} (h : GridKept r s) (q : Quay) : GridKept r (s.tugReturn q) := by
  unfold State.tugReturn
  split
  · apply State.leaseReturn_gridkept
    exact h
  · exact h

theorem State.spillDone_gridkept {r s : State} (h : GridKept r s) (q : Quay) : GridKept r (s.spillDone q) := by
  unfold State.spillDone
  extract_lets x1
  have hx1 : GridKept r x1 := by
    unfold x1
    apply State.slotReturn_gridkept
    apply State.tugReturn_gridkept
    apply State.modQuay_gridkept
    exact h
  clear_value x1
  split
  · apply State.quayStore_gridkept
    exact hx1
  · exact hx1

theorem quaySpillDoneRow_gridkept {r s : State} (h : GridKept r s) : GridKept r (quaySpillDoneRow s) := by
  unfold quaySpillDoneRow
  split
  · apply State.spillDone_gridkept
    exact h
  · exact h

theorem State.copiesStart_gridkept {r s : State} (h : GridKept r s) : GridKept r (s.copiesStart) := by
  unfold State.copiesStart
  refine GridKept.foldl ?_ _ ?_
  · intro y1 y2 y3
    split
    · refine GridKept.ite ?_ ?_
      · apply State.modQuay_gridkept
        apply State.leaseTake_gridkept
        exact y3
      · exact y3
    · exact y3
  · exact h

theorem State.spillCheck_gridkept {r s : State} (h : GridKept r s) : GridKept r (s.spillCheck) := by
  unfold State.spillCheck
  extract_lets x1
  refine GridKept.ite ?_ ?_
  · exact h
  · split
    · apply State.copiesStart_gridkept
      apply State.event_gridkept
      apply State.count_gridkept
      apply State.modQuay_gridkept
      exact h
    · exact h

theorem State.takeSlot_gridkept {r s : State} (h : GridKept r s) : GridKept r (s.takeSlot).1 := by
  unfold State.takeSlot
  extract_lets x1
  have hx1 : GridKept r x1 := by
    unfold x1
    refine GridKept.ite ?_ ?_
    · apply quaySpillDoneRow_gridkept
      exact h
    · exact h
  clear_value x1
  split
  · dsimp only
    apply State.leaseTake_gridkept
    exact hx1
  · dsimp only
    exact hx1

theorem State.putEntry_gridkept {r s : State} (h : GridKept r s) (seq : Nat) (b : Nat) (e : Entry) : GridKept r (s.putEntry seq b e) := by
  unfold State.putEntry
  apply State.modQuay_gridkept
  exact h

theorem State.alnRaise_gridkept {r s : State} (h : GridKept r s) (d : Nat) (kind : Nat) (seq : Nat) : GridKept r (s.alnRaise d kind seq) := by
  unfold State.alnRaise
  extract_lets x1
  have hx1 : GridKept r x1 := by
    unfold x1
    apply State.almSend_gridkept
    exact h
  clear_value x1
  refine GridKept.ite ?_ ?_
  · apply State.capNotice_gridkept
    exact hx1
  · exact hx1

theorem State.quorumSet_gridkept {r s : State} (h : GridKept r s) (q : Quay) (d : Nat) : GridKept r (s.quorumSet q d) := by
  unfold State.quorumSet
  extract_lets x1 x2 x3 x4
  have hx2 : GridKept r x2 := by
    unfold x2
    apply State.modQuay_gridkept
    apply State.modDet_gridkept
    exact h
  clear_value x2
  have hx3 : GridKept r x3 := by
    unfold x3
    apply State.count_gridkept
    apply State.event_gridkept
    exact hx2
  clear_value x3
  have hx4 : GridKept r x4 := by
    unfold x4
    refine GridKept.ite ?_ ?_
    · refine GridKept.foldl ?_ _ ?_
      · intro y13 y14 y15
        apply State.wantTask_gridkept
        exact y15
      · exact hx3
    · refine GridKept.ite ?_ ?_
      · apply State.wantTask_gridkept
        exact hx3
      · exact hx3
  clear_value x4
  apply State.alnRaise_gridkept
  exact hx4

theorem State.quorumTest_gridkept {r s : State} (h : GridKept r s) (seq : Nat) : GridKept r (s.quorumTest seq) := by
  unfold State.quorumTest
  refine GridKept.foldl ?_ _ ?_
  · intro y1 y2 y3
    split
    · refine GridKept.ite ?_ ?_
      · apply State.quorumSet_gridkept
        exact y3
      · exact y3
    · exact y3
  · exact h

theorem State.noteWrite_gridkept {r s : State} (h : GridKept r s) (seq : Nat) (b : Nat) (e : Entry) : GridKept r (s.noteWrite seq b e) := by
  unfold State.noteWrite
  refine GridKept.foldl ?_ _ ?_
  · intro y1 y2 y3
    extract_lets x5
    have hx5 : GridKept r x5 := by
      unfold x5
      apply State.modDet_gridkept
      exact y3
    clear_value x5
    split
    · refine GridKept.ite ?_ ?_
      · split
        · extract_lets x12
          apply State.modDet_gridkept
          exact hx5
        · exact hx5
      · exact y3
    · exact y3
  · exact h

theorem State.quayWrite_gridkept {r s : State} (h : GridKept r s) (seq : Nat) (b : Nat) (e : Entry) (late : Bool) : GridKept r (s.quayWrite seq b e late) := by
  unfold State.quayWrite
  extract_lets x1
  have hx1 : GridKept r x1 := by
    unfold x1
    apply State.modQuay_gridkept
    apply State.putEntry_gridkept
    exact h
  clear_value x1
  refine GridKept.ite ?_ ?_
  · exact hx1
  · apply State.quorumTest_gridkept
    apply State.noteWrite_gridkept
    exact hx1

theorem State.quayOpen_gridkept {r s : State} (h : GridKept r s) (sec : Nat) (k : Nat) (rate : Nat) (stepped : Bool) (tq : BitVec 16) : GridKept r (s.quayOpen sec k rate stepped tq) := by
  unfold State.quayOpen
  extract_lets x1 x2 x3 x4 x5
  split
  · rename_i z7 z8 z9 z10
    have kz8 : GridKept r z8 := GridKept.ofFst z10 (by
      apply State.takeSlot_gridkept
      exact h)
    extract_lets x14 x15 x16
    have hx15 : GridKept r x15 := by
      unfold x15
      apply State.setReg64_gridkept
      apply State.modAln_gridkept
      exact kz8
    clear_value x15
    have hx16 : GridKept r x16 := by
      unfold x16
      apply State.spillCheck_gridkept
      apply State.count_gridkept
      exact hx15
    clear_value x16
    refine GridKept.foldl ?_ _ ?_
    · intro y24 y25 y26
      split
      · refine GridKept.ite ?_ ?_
        · apply State.quayWrite_gridkept
          exact y26
        · exact y26
      · exact y26
    · exact hx16

theorem State.alnInstant_gridkept {r s : State} (h : GridKept r s) (sec : Nat) (k : Nat) (rate : Nat) (stepped : Bool) (tq : BitVec 16) : GridKept r (s.alnInstant sec k rate stepped tq) := by
  unfold State.alnInstant
  extract_lets x1 x2
  have hx2 : GridKept r x2 := by
    unfold x2
    split
    · apply State.modQuay_gridkept
      exact h
    · refine GridKept.ite ?_ ?_
      · apply State.quayOpen_gridkept
        exact h
      · exact h
  clear_value x2
  apply State.modAln_gridkept
  exact hx2

theorem State.snapshot_gridkept {r s : State} (h : GridKept r s) (seq : Nat) (d : Nat) : GridKept r (s.snapshot seq d) := by
  unfold State.snapshot
  split
  · extract_lets x2
    refine GridKept.ite ?_ ?_
    · exact h
    · apply State.modDet_gridkept
      exact h
  · exact h

theorem State.withdrawOf_gridkept {r s : State} (h : GridKept r s) (owner : Nat) (p : Nat → Nat → Bool) : GridKept r (s.withdrawOf owner p) := by
  unfold State.withdrawOf
  extract_lets x1
  have hx1 : GridKept r x1 := by
    unfold x1
    apply State.modPlt_gridkept
    exact h
  clear_value x1
  refine GridKept.foldl ?_ _ ?_
  · intro y2 y3 y4
    apply State.freeTask_gridkept
    exact y4
  · exact hx1

theorem State.withdraw_gridkept {r s : State} (h : GridKept r s) (seq : Nat) (d : Nat) : GridKept r (s.withdraw seq d) := by
  unfold State.withdraw
  apply State.withdrawOf_gridkept
  exact h

theorem State.alnNotice_gridkept {r s : State} (h : GridKept r s) (q : Quay) (d : Nat) (o : Nat) : GridKept r (s.alnNotice q d o) := by
  unfold State.alnNotice
  apply State.almSend_gridkept
  exact h

theorem State.settleDoneCheck_gridkept {r s : State} (h : GridKept r s) (seq : Nat) : GridKept r (s.settleDoneCheck seq) := by
  unfold State.settleDoneCheck
  split
  · refine GridKept.ite ?_ ?_
    · apply State.modQuay_gridkept
      exact h
    · exact h
  · exact h

theorem State.detFinish_gridkept {r s : State} (h : GridKept r s) (seq : Nat) (d : Nat) (o : Nat) : GridKept r (s.detFinish seq d o) := by
  unfold State.detFinish
  split
  · exact h
  · extract_lets x3 x4
    have hx3 : GridKept r x3 := by
      unfold x3
      apply State.modDet_gridkept
      exact h
    clear_value x3
    have hx4 : GridKept r x4 := by
      unfold x4
      split
      · apply State.count_gridkept
        exact hx3
      · apply State.count_gridkept
        exact hx3
      · apply State.count_gridkept
        exact hx3
      · apply State.alnRaise_gridkept
        apply State.event_gridkept
        apply State.count_gridkept
        exact hx3
      · apply State.alnRaise_gridkept
        apply State.event_gridkept
        apply State.count_gridkept
        exact hx3
      · exact hx3
    clear_value x4
    apply State.settleDoneCheck_gridkept
    apply State.alnNotice_gridkept
    exact hx4

theorem State.sealNow_gridkept {r s : State} (h : GridKept r s) (seq : Nat) : GridKept r (s.sealNow seq) := by
  unfold State.sealNow
  apply State.modQuay_gridkept
  exact h

theorem State.sealStart_gridkept {r s : State} (h : GridKept r s) (t : Nat) : GridKept r (s.sealStart t) := by
  unfold State.sealStart
  refine GridKept.foldl ?_ _ ?_
  · intro y1 y2 y3
    apply State.sealNow_gridkept
    exact y3
  · exact h

/-! ### Osc.lean -/

theorem State.modOsc_gridkept {r s : State} (h : GridKept r s) (f : Osc → Osc) : GridKept r (s.modOsc f) := by
  unfold State.modOsc
  exact h.upd rfl rfl rfl rfl

theorem State.oscBases_gridkept {r s : State} (h : GridKept r s) (seq : Nat) : GridKept r (s.oscBases seq) := by
  unfold State.oscBases
  split
  · apply State.modOsc_gridkept
    exact h
  · exact h

theorem State.takeSnapshot_gridkept {r s : State} (h : GridKept r s) (seq : Nat) (d : Nat) : GridKept r (s.takeSnapshot seq d) := by
  unfold State.takeSnapshot
  extract_lets x1
  have hx1 : GridKept r x1 := by
    unfold x1
    apply State.snapshot_gridkept
    exact h
  clear_value x1
  split
  · refine GridKept.ite ?_ ?_
    · exact h
    · refine GridKept.ite ?_ ?_
      · apply State.oscBases_gridkept
        exact hx1
      · exact hx1
  · exact h

/-! ### Isl.lean -/

theorem State.modIsl_gridkept {r s : State} (h : GridKept r s) (f : Isl → Isl) : GridKept r (s.modIsl f) := by
  unfold State.modIsl
  exact h.upd rfl rfl rfl rfl

theorem State.islSnapshot_gridkept {r s : State} (h : GridKept r s) (seq : Nat) : GridKept r (s.islSnapshot seq) := by
  unfold State.islSnapshot
  split
  · refine GridKept.ite ?_ ?_
    · exact h
    · apply State.modIsl_gridkept
      apply State.snapshot_gridkept
      exact h
  · exact h

theorem State.detRoute_gridkept {r s : State} (h : GridKept r s) (q : Quay) (d : Nat) (o : Nat) : GridKept r (s.detRoute q d o) := by
  unfold State.detRoute
  extract_lets x1 x2 x3 x4 x5
  have hx1 : GridKept r x1 := by
    unfold x1
    apply State.modDet_gridkept
    exact h
  clear_value x1
  have hx2 : GridKept r x2 := by
    unfold x2
    refine GridKept.ite ?_ ?_
    · apply State.withdraw_gridkept
      exact hx1
    · exact hx1
  clear_value x2
  have hx4 : GridKept r x4 := by
    unfold x4
    apply State.modOsc_gridkept
    exact hx2
  clear_value x4
  have hx5 : GridKept r x5 := by
    unfold x5
    apply State.modIsl_gridkept
    exact hx2
  clear_value x5
  refine GridKept.ite ?_ ?_
  · refine GridKept.ite ?_ ?_
    · apply State.detFinish_gridkept
      exact hx2
    · refine GridKept.ite ?_ ?_
      · refine GridKept.foldl ?_ _ ?_
        · intro y22 y23 y24
          apply State.wantTask_gridkept
          exact y24
        · exact hx4
      · exact hx4
  · refine GridKept.ite ?_ ?_
    · refine GridKept.ite ?_ ?_
      · apply State.detFinish_gridkept
        exact hx2
      · refine GridKept.ite ?_ ?_
        · apply State.wantTask_gridkept
          exact hx5
        · exact hx5
    · apply State.detFinish_gridkept
      exact hx2

theorem State.detSettle_gridkept {r s : State} (h : GridKept r s) (seq : Nat) : GridKept r (s.detSettle seq) := by
  unfold State.detSettle
  refine GridKept.foldl ?_ _ ?_
  · intro y1 y2 y3
    split
    · refine GridKept.ite ?_ ?_
      · exact y3
      · split
        · apply State.detRoute_gridkept
          exact y3
        · exact y3
    · exact y3
  · exact h

theorem State.detSettleAll_gridkept {r s : State} (h : GridKept r s) : GridKept r (s.detSettleAll) := by
  unfold State.detSettleAll
  refine GridKept.foldl ?_ _ ?_
  · intro y1 y2 y3
    apply State.detSettle_gridkept
    exact y3
  · exact h

/-! ### Alarm.lean -/

theorem State.modAlm_gridkept {r s : State} (h : GridKept r s) (f : Alm → Alm) : GridKept r (s.modAlm f) := by
  unfold State.modAlm
  exact h.upd rfl rfl rfl rfl

theorem State.pinDrive_gridkept {r s : State} (h : GridKept r s) (p : Nat) : GridKept r (s.pinDrive p) := by
  unfold State.pinDrive
  extract_lets x1 x2 x3 x4
  have hx4 : GridKept r x4 := by
    unfold x4
    apply State.modAlm_gridkept
    exact h
  clear_value x4
  refine GridKept.ite ?_ ?_
  · exact hx4
  · apply State.setTs_gridkept
    exact hx4

theorem State.pinsDrive_gridkept {r s : State} (h : GridKept r s) : GridKept r (s.pinsDrive) := by
  unfold State.pinsDrive
  refine GridKept.ite ?_ ?_
  · exact h
  · refine GridKept.foldl ?_ _ ?_
    · intro y3 y4 y5
      apply State.pinDrive_gridkept
      exact y5
    · exact h

/-! ### Compose.lean -/

theorem State.modStr_gridkept {r s : State} (h : GridKept r s) (n : Nat) (f : OutStream → OutStream) : GridKept r (s.modStr n f) := by
  unfold State.modStr
  extract_lets x1
  exact h.upd rfl rfl rfl rfl

theorem State.outCompose_gridkept {r s : State} (h : GridKept r s) (n : Nat) (q : Quay) (set : CfgSet) : GridKept r (s.outCompose n q set) := by
  unfold State.outCompose
  extract_lets x1 x2 x3 x4 x5 x6 x7 x8 x9 x10 x11 x12 x13 x14
  have hx6 : GridKept r x6 := by
    unfold x6
    apply State.mirrorItem_gridkept
    exact h
  clear_value x6
  have hx10 : GridKept r x10 := by
    unfold x10
    refine GridKept.foldl ?_ _ ?_
    · intro y18 y19 y20
      extract_lets x22 x23
      apply State.freshNext_gridkept
      apply State.offer_gridkept
      exact y20
    · exact hx6
  clear_value x10
  have hx11 : GridKept r x11 := by
    unfold x11
    apply State.countBy_gridkept
    apply State.count_gridkept
    exact hx10
  clear_value x11
  have hx12 : GridKept r x12 := by
    unfold x12
    refine GridKept.ite ?_ ?_
    · apply State.event_gridkept
      apply State.count_gridkept
      exact hx11
    · exact hx11
  clear_value x12
  have hx13 : GridKept r x13 := by
    unfold x13
    refine GridKept.ite ?_ ?_
    · apply State.event_gridkept
      exact hx12
    · exact hx12
  clear_value x13
  have hx14 : GridKept r x14 := by
    unfold x14
    refine GridKept.ite ?_ ?_
    · apply State.event_gridkept
      apply State.count_gridkept
      exact hx13
    · exact hx13
  clear_value x14
  apply State.modStr_gridkept
  exact hx14

theorem State.composeStage_gridkept {r s : State} (h : GridKept r s) (q : Quay) (settled : Bool) : GridKept r (s.composeStage q settled) := by
  unfold State.composeStage
  extract_lets x1
  refine GridKept.foldl ?_ _ ?_
  · intro y3 y4 y5
    extract_lets x7 x8
    refine GridKept.ite ?_ ?_
    · apply State.outCompose_gridkept
      exact y5
    · exact y5
  · exact h

theorem State.lateAfterSend_gridkept {r s : State} (h : GridKept r s) (q : Quay) : GridKept r (s.lateAfterSend q) := by
  unfold State.lateAfterSend
  extract_lets x1
  refine GridKept.foldl ?_ _ ?_
  · intro y3 y4 y5
    extract_lets x7
    have hx7 : GridKept r x7 := by
      unfold x7
      apply State.modStr_gridkept
      exact y5
    clear_value x7
    split
    · extract_lets x12
      refine GridKept.ite ?_ ?_
      · apply State.count_gridkept
        exact hx7
      · exact hx7
    · exact y5
  · exact h

theorem State.composeAfter_gridkept {r s : State} (h : GridKept r s) (s0 : State) : GridKept r (s0.composeAfter s) := by
  unfold State.composeAfter
  extract_lets x1 x2 x3 x4
  have hx4 : GridKept r x4 := by
    unfold x4
    refine GridKept.foldl ?_ _ ?_
    · intro y6 y7 y8
      apply State.composeStage_gridkept
      exact y8
    · exact h
  clear_value x4
  refine GridKept.foldl ?_ _ ?_
  · intro y13 y14 y15
    apply State.composeStage_gridkept
    apply State.lateAfterSend_gridkept
    exact y15
  · exact hx4

/-! ### Twin.lean -/

theorem State.modTwn_gridkept {r s : State} (h : GridKept r s) (f : Twn → Twn) : GridKept r (s.modTwn f) := by
  unfold State.modTwn
  exact h.upd rfl rfl rfl rfl

theorem State.setRole_gridkept {r s : State} (h : GridKept r s) (a1 : Role) : GridKept r (s.setRole a1) := by
  unfold State.setRole
  extract_lets x1 x2 x3 x4
  have hx2 : GridKept r x2 := by
    unfold x2
    apply State.logRaise_gridkept
    apply State.event_gridkept
    apply State.modTwn_gridkept
    exact h
  clear_value x2
  have hx3 : GridKept r x3 := by
    unfold x3
    refine GridKept.ite ?_ ?_
    · exact hx2
    · apply State.event_gridkept
      exact hx2
  clear_value x3
  have hx4 : GridKept r x4 := by
    unfold x4
    apply State.modAlm_gridkept
    exact hx3
  clear_value x4
  refine GridKept.ite ?_ ?_
  · exact h
  · apply State.pinsDrive_gridkept
    exact hx4

theorem State.leaseNow_gridkept {r s s' : State} (h : GridKept r s) {p n o : Nat} (e : s.leaseNow p n o = some s') : GridKept r s' := by
  unfold State.leaseNow at e
  split at e
  · split at e
    · cases e
      exact State.leaseReturn_gridkept (State.leaseTake_gridkept h _ _ _) _ _
    · cases e
  · cases e

theorem State.cryptoNow_gridkept {r s s' : State} (h : GridKept r s) {o : Nat} (e : s.cryptoNow o = some s') : GridKept r s' :=
  State.leaseNow_gridkept h e

theorem State.aizContext_gridkept {r s : State} (h : GridKept r s) : GridKept r s.aizContext.1 := by
  unfold State.aizContext
  split
  · exact State.keyUseErr_gridkept h
  · split
    · exact State.count_gridkept h _
    next e => exact State.cryptoNow_gridkept h e

theorem State.aizSend_gridkept {r s : State} (h : GridKept r s) (typ : Nat) (end_ : Bool) (pl : List Byte) : GridKept r (s.aizSend typ end_ pl) := by
  have hc := State.aizContext_gridkept h
  unfold State.aizSend
  split
  · exact h
  · split
    next e => exact GridKept.ofFst e hc
    next e => exact State.count_gridkept (State.modTwn_gridkept (State.emit_gridkept (GridKept.ofFst e hc) _) _) _

theorem State.report_gridkept {r s : State} (h : GridKept r s) (src : Nat) (cause : Nat) (master : Nat) (access : Nat) (addr : Nat) : GridKept r (s.report src cause master access addr) := by
  unfold State.report
  extract_lets x1
  refine GridKept.ite ?_ ?_
  · exact h
  · exact h.upd rfl rfl rfl rfl

theorem State.twnSave_gridkept {r s : State} (h : GridKept r s) (ok : Bool) : GridKept r (s.twnSave ok) := by
  unfold State.twnSave
  extract_lets x1 x2 x3 x4 x5
  have hx5 : GridKept r x5 := by
    unfold x5
    apply State.freshNext_gridkept
    exact h
  clear_value x5
  refine GridKept.ite ?_ ?_
  · apply State.count_gridkept
    exact h.upd rfl rfl rfl rfl
  · apply State.report_gridkept
    apply State.event_gridkept
    exact hx5.upd rfl rfl rfl rfl

theorem State.sendPacked_gridkept {r s : State} (h : GridKept r s) (typ : Nat) (ps : List (List Byte)) : GridKept r (s.sendPacked typ ps) := by
  induction ps generalizing s with
  | nil => exact h
  | cons p ps ih =>
    unfold State.sendPacked
    split
    · exact h
    next => rename_i e; cases e; exact State.aizSend_gridkept h _ _ _
    next => rename_i e; cases e; exact ih (State.aizSend_gridkept h _ _ _)

theorem State.hoEnd_gridkept {r s : State} (h : GridKept r s) (result : Nat) (mid : Option Nat) : GridKept r (s.hoEnd result mid) := by
  unfold State.hoEnd
  apply State.finishOpt_gridkept
  apply State.modTwn_gridkept
  exact h

theorem State.hoBack_gridkept {r s : State} (h : GridKept r s) (a1 : HandOver) (result : Nat) : GridKept r (s.hoBack a1 result) := by
  unfold State.hoBack
  apply State.hoEnd_gridkept
  apply State.setRole_gridkept
  apply State.modTwn_gridkept
  exact h

theorem State.pinsFree_gridkept {r s : State} (h : GridKept r s) : GridKept r (s.pinsFree) := by
  unfold State.pinsFree
  extract_lets x1
  exact h.upd rfl rfl rfl rfl

theorem State.twnSaveNow_gridkept {r s : State} (h : GridKept r s) : GridKept r (s.twnSaveNow) := by
  unfold State.twnSaveNow
  apply State.twnSave_gridkept
  apply State.freshNext_gridkept
  exact h

theorem State.hoInstant_gridkept {r s : State} (h : GridKept r s) (h0 : HandOver) (at_ : Nat) : GridKept r (s.hoInstant h0 at_) := by
  unfold State.hoInstant
  extract_lets x1 x2 x3
  have hx1 : GridKept r x1 := by
    unfold x1
    apply State.twnSaveNow_gridkept
    exact h
  clear_value x1
  have hx3 : GridKept r x3 := by
    unfold x3
    apply State.sendPacked_gridkept
    apply State.modTwn_gridkept
    exact hx1
  clear_value x3
  apply State.setRole_gridkept
  apply State.pinsFree_gridkept
  apply State.modTwn_gridkept
  exact hx3

theorem State.hoFrame_gridkept {r s : State} (h : GridKept r s) (h0 : Nat) (force : Bool) : GridKept r (s.hoFrame h0 force) := by
  unfold State.hoFrame
  apply State.aizSend_gridkept
  exact h

theorem State.hoActive_gridkept {r s : State} (h : GridKept r s) (t : Nat) : GridKept r (s.hoActive t) := by
  unfold State.hoActive
  split
  · exact h
  · split
    · refine GridKept.ite ?_ ?_
      · refine GridKept.ite ?_ ?_
        · apply State.hoInstant_gridkept
          exact h
        · apply State.hoBack_gridkept
          exact h
      · exact h
    · refine GridKept.ite ?_ ?_
      · apply State.hoFrame_gridkept
        apply State.modTwn_gridkept
        exact h
      · exact h

theorem State.hoAtInstant_gridkept {r s : State} (h : GridKept r s) (t : Nat) : GridKept r (s.hoAtInstant t) := by
  unfold State.hoAtInstant
  extract_lets x1
  have hx1 : GridKept r x1 := by
    unfold x1
    apply State.hoActive_gridkept
    exact h
  clear_value x1
  split
  · refine GridKept.ite ?_ ?_
    · apply State.setRole_gridkept
      apply State.modTwn_gridkept
      apply State.twnSaveNow_gridkept
      exact hx1
    · refine GridKept.ite ?_ ?_
      · apply State.modTwn_gridkept
        exact hx1
      · exact hx1
  · exact hx1

/-! ### Fault.lean -/

theorem State.modFlt_gridkept {r s : State} (h : GridKept r s) (f : Flt → Flt) : GridKept r (s.modFlt f) := by
  unfold State.modFlt
  exact h.upd rfl rfl rfl rfl

theorem State.modBst_gridkept {r s : State} (h : GridKept r s) (f : Bst → Bst) : GridKept r (s.modBst f) := by
  unfold State.modBst
  exact h.upd rfl rfl rfl rfl

theorem State.capAbortAll_gridkept {r s : State} (h : GridKept r s) : GridKept r (s.capAbortAll) := by
  unfold State.capAbortAll
  refine GridKept.foldl ?_ _ ?_
  · intro y1 y2 y3
    refine GridKept.ite ?_ ?_
    · apply State.capAbort_gridkept
      exact y3
    · exact y3
  · exact h

theorem State.stopNow_gridkept {r s : State} (h : GridKept r s) : GridKept r (s.stopNow) := by
  unfold State.stopNow
  extract_lets x1 x2
  have hx1 : GridKept r x1 := by
    unfold x1
    apply State.modAlm_gridkept
    exact h
  clear_value x1
  have hx2 : GridKept r x2 := by
    unfold x2
    apply State.capAbortAll_gridkept
    apply State.mtrFreeze_gridkept
    apply State.alnNote_gridkept
    apply State.setFld_gridkept
    exact hx1
  clear_value x2
  apply State.pinsDrive_gridkept
  apply State.modFlt_gridkept
  exact hx2

theorem State.afterHandover_gridkept {r s : State} (h : GridKept r s) : GridKept r (s.afterHandover) := by
  unfold State.afterHandover
  refine GridKept.ite ?_ ?_
  · exact h
  · refine GridKept.ite ?_ ?_
    · apply State.stopNow_gridkept
      exact h
    · exact h

theorem State.flashFail_gridkept {r s : State} (h : GridKept r s) : GridKept r (s.flashFail) := by
  unfold State.flashFail
  apply State.report_gridkept
  apply State.event_gridkept
  exact h

theorem State.unitFault_gridkept {r s : State} (h : GridKept r s) (n : Nat) : GridKept r (s.unitFault n) := by
  unfold State.unitFault
  apply State.report_gridkept
  exact h

theorem State.mtrFlashWrite_gridkept {r s : State} (h : GridKept r s) (v : MtrSave) (ok : Bool) : GridKept r (s.mtrFlashWrite v ok) := by
  unfold State.mtrFlashWrite
  extract_lets x1 x2
  have hx1 : GridKept r x1 := by
    unfold x1
    apply State.freshNext_gridkept
    exact h
  clear_value x1
  have hx2 : GridKept r x2 := by
    unfold x2
    exact hx1.upd rfl rfl rfl rfl
  clear_value x2
  refine GridKept.ite ?_ ?_
  · apply State.count_gridkept
    apply State.modMtr_gridkept
    exact h.upd rfl rfl rfl rfl
  · apply State.flashFail_gridkept
    apply State.unitFault_gridkept
    apply State.event_gridkept
    apply State.modMtr_gridkept
    exact hx2

theorem State.mtrShutdownSave_gridkept {r s : State} (h : GridKept r s) : GridKept r (s.mtrShutdownSave) := by
  unfold State.mtrShutdownSave
  refine GridKept.ite ?_ ?_
  · apply State.mtrFlashWrite_gridkept
    apply State.freshNext_gridkept
    exact h
  · exact h

theorem State.shutdownGo_gridkept {r s : State} (h : GridKept r s) : GridKept r (s.shutdownGo) := by
  unfold State.shutdownGo
  refine GridKept.ite ?_ ?_
  · apply State.pinsDrive_gridkept
    apply State.modBst_gridkept
    apply State.stopNow_gridkept
    apply State.twnSaveNow_gridkept
    apply State.mtrShutdownSave_gridkept
    exact h
  · exact h

/-! ### Clock.lean -/

theorem State.instantStep_gridkept {r s : State} (h : GridKept r s) (step : Bool) : GridKept r (s.instantStep step) := by
  unfold State.instantStep
  refine GridKept.ite ?_ ?_
  · apply State.dtStep_gridkept
    exact h
  · apply State.applySet_gridkept
    exact h

/-! ### After.lean -/

theorem State.oscRebase_gridkept {r s : State} (h : GridKept r s) (seq : Nat) (g : Nat) : GridKept r (s.oscRebase seq g) := by
  unfold State.oscRebase
  apply State.modOsc_gridkept
  exact h

theorem State.islRebase_gridkept {r s : State} (h : GridKept r s) (seq : Nat) : GridKept r (s.islRebase seq) := by
  unfold State.islRebase
  apply State.modIsl_gridkept
  exact h

theorem State.oscReadFix_gridkept {r s : State} (h : GridKept r s) (seq : Nat) (g : Nat) (typ : Nat) (qs : List Quay) : GridKept r (s.oscReadFix seq g typ qs) := by
  unfold State.oscReadFix
  apply State.modOsc_gridkept
  exact h

theorem State.islReadFix_gridkept {r s : State} (h : GridKept r s) (q : Quay) (typ : Nat) : GridKept r (s.islReadFix q typ) := by
  unfold State.islReadFix
  apply State.modIsl_gridkept
  exact h

theorem State.taskStarts_gridkept {r s : State} (h : GridKept r s) (t : Task) : GridKept r (s.taskStarts t) := by
  unfold State.taskStarts
  split
  · apply State.takeSnapshot_gridkept
    exact h
  · apply State.oscReadFix_gridkept
    apply State.oscRebase_gridkept
    exact h
  · apply State.oscReadFix_gridkept
    exact h
  · apply State.islReadFix_gridkept
    apply State.islSnapshot_gridkept
    exact h
  · apply State.islReadFix_gridkept
    apply State.islRebase_gridkept
    exact h
  · apply State.islReadFix_gridkept
    exact h
  · exact h

theorem State.startSnapshots_gridkept {r s : State} (h : GridKept r s) (s0 : State) : GridKept r (s0.startSnapshots s) := by
  unfold State.startSnapshots
  extract_lets x1
  refine GridKept.foldl ?_ _ ?_
  · intro y2 y3 y4
    apply State.taskStarts_gridkept
    exact y4
  · exact h

theorem State.snapAfter_gridkept {r s : State} (h : GridKept r s) (qs : List Quay) : GridKept r (s.snapAfter qs) := by
  unfold State.snapAfter
  refine GridKept.ite ?_ ?_
  · refine GridKept.foldl ?_ _ ?_
    · intro y2 y3 y4
      apply State.capSnap_gridkept
      exact y4
    · exact h
  · exact h

theorem State.spillSync_gridkept {r s : State} (h : GridKept r s) (s0 : State) : GridKept r (s0.spillSync s) := by
  unfold State.spillSync
  refine GridKept.foldl ?_ _ ?_
  · intro y1 y2 y3
    apply State.quayStore_gridkept
    exact y3
  · exact h

theorem State.msixSignal_gridkept {r s : State} (h : GridKept r s) (v : Nat) : GridKept r (s.msixSignal v) := by
  unfold State.msixSignal
  extract_lets x1 x2
  have hx2 : GridKept r x2 := by
    unfold x2
    apply State.emit_gridkept
    exact h
  clear_value x2
  refine GridKept.ite ?_ ?_
  · exact h.upd rfl rfl rfl rfl
  · exact hx2.upd rfl rfl rfl rfl

theorem State.msixAfter_gridkept {r s : State} (h : GridKept r s) (s0 : State) : GridKept r (s0.msixAfter s) := by
  unfold State.msixAfter
  extract_lets x1 x2 x3 x4
  have hx2 : GridKept r x2 := by
    unfold x2
    refine GridKept.foldl ?_ _ ?_
    · intro y6 y7 y8
      apply State.msixSignal_gridkept
      exact y8
    · exact h
  have hx4 : GridKept r x4 := by
    unfold x4
    exact hx2.upd rfl rfl rfl rfl
  refine GridKept.ite ?_ ?_
  · exact hx4
  · refine GridKept.foldl ?_ _ ?_
    · intro y16 y17 y18
      apply State.msixSignal_gridkept
      exact y18
    · exact hx4

theorem State.sealsAfter_gridkept {r s : State} (h : GridKept r s) : GridKept r (s.sealsAfter) := by
  unfold State.sealsAfter
  apply State.copiesStart_gridkept
  refine GridKept.ite ?_ ?_
  · apply State.sealStart_gridkept
    exact h
  · exact h

theorem State.modEng_gridkept {r s : State} (h : GridKept r s) (e : Nat) (f : Eng → Eng) : GridKept r (s.modEng e f) := by
  unfold State.modEng
  apply State.modPlt_gridkept
  exact h

theorem State.rotBegin_gridkept {r s : State} (h : GridKept r s) : GridKept r (s.rotBegin) := by
  unfold State.rotBegin
  split
  · refine GridKept.ite ?_ ?_
    · apply State.modEng_gridkept
      exact h
    · exact h
  · exact h

theorem State.rotAfter_gridkept {r s : State} (h : GridKept r s) (s0 : State) : GridKept r (s0.rotAfter s) := by
  unfold State.rotAfter
  split
  · refine GridKept.ite ?_ ?_
    · apply State.rotBegin_gridkept
      exact h
    · exact h
  · exact h

theorem State.unitsAfter_gridkept {r s : State} (h : GridKept r s) (s0 : State) : GridKept r (s0.unitsAfter s) := by
  unfold State.unitsAfter
  extract_lets x1 x2
  have hx1 : GridKept r x1 := by
    unfold x1
    apply State.sealsAfter_gridkept
    apply State.detSettleAll_gridkept
    apply State.alnNote_gridkept
    apply State.startSnapshots_gridkept
    apply State.rotAfter_gridkept
    exact h
  clear_value x1
  have hx2 : GridKept r x2 := by
    unfold x2
    apply State.snapAfter_gridkept
    apply State.composeAfter_gridkept
    exact hx1
  clear_value x2
  apply State.spillSync_gridkept
  apply State.mtrRefuseEnd_gridkept
  apply State.shutdownGo_gridkept
  apply State.afterHandover_gridkept
  exact hx2

theorem State.after_gridkept {r s : State} (h : GridKept r s) (s0 : State) : GridKept r (s0.after s) := by
  unfold State.after
  apply State.msixAfter_gridkept
  apply State.pwrAfter_gridkept
  apply State.unitsAfter_gridkept
  exact h

end Sys2Proof.Machine
end

