-- ==== Sys2Proof/Laws/HistKeptBase.lean ====
section
/-! SUPPORT. The relation HistKept: the sample sets held and the mode as they are. It composes. -/

namespace Sys2Proof.Machine

/-- The sample sets that are held are unchanged. -/
structure HistKept (s t : State) : Prop where
  fe_hist : t.fe.hist = s.fe.hist
  fe_scs : t.fe.scs = s.fe.scs

theorem HistKept.refl (s : State) : HistKept s s := ⟨rfl, rfl⟩

/-- A record update of other fields than those HistKept speaks of. -/
theorem HistKept.upd {r s t : State} (h : HistKept r s)
    (e0 : t.fe.hist = s.fe.hist) (e1 : t.fe.scs = s.fe.scs) : HistKept r t :=
  ⟨e0.trans h.fe_hist, e1.trans h.fe_scs⟩

theorem HistKept.ite {r a b : State} {c : Prop} [Decidable c] (ha : HistKept r a) (hb : HistKept r b) : HistKept r (if c then a else b) := by
  split <;> assumption

theorem HistKept.iteFst {α : Type} {r : State} {a b : State × α} {c : Prop} [Decidable c] (ha : HistKept r a.1) (hb : HistKept r b.1) :
    HistKept r (if c then a else b).1 := by
  split <;> assumption

theorem HistKept.ofFst {α : Type} {r s : State} {p : State × α} {a : α} (e : p = (s, a)) (h : HistKept r p.1) : HistKept r s := by
  rw [e] at h; exact h

theorem HistKept.foldl {α : Type} {r : State} {f : State → α → State} (hf : ∀ x a, HistKept r x → HistKept r (f x a)) :
    ∀ {s : State} (l : List α), HistKept r s → HistKept r (l.foldl f s)
  | _, [], h => h
  | s, a :: l, h => HistKept.foldl hf (s := f s a) l (hf s a h)

theorem HistKept.foldlFst {α β : Type} {r : State} {f : State × β → α → State × β} (hf : ∀ x a, HistKept r x.1 → HistKept r (f x a).1) :
    ∀ {s : State × β} (l : List α), HistKept r s.1 → HistKept r (l.foldl f s).1
  | _, [], h => h
  | s, a :: l, h => HistKept.foldlFst hf (s := f s a) l (hf s a h)

end Sys2Proof.Machine
end

