-- ==== Sys2Proof/Laws/HistKept.lean ====
section
/-! SUPPORT. Operations that leave the sample sets held as they are -/

namespace Sys2Proof.Machine

/-! ### Ops.lean -/

theorem State.dramWrite_histkept {r s : State} (h : HistKept r s) (a : Nat) (bs : List Byte) : HistKept r (s.dramWrite a bs) := by
  unfold State.dramWrite
  exact h.upd rfl rfl

theorem State.setReg_histkept {r s : State} (h : HistKept r s) (off : Nat) (v : Word) : HistKept r (s.setReg off v) := by
  unfold State.setReg
  exact h.upd rfl rfl

theorem State.event_histkept {r s : State} (h : HistKept r s) (off : Nat) (i : Nat) : HistKept r (s.event off i) := by
  unfold State.event
  apply State.setReg_histkept
  exact h

theorem State.setReg64_histkept {r s : State} (h : HistKept r s) (lo : Nat) (v : Nat) : HistKept r (s.setReg64 lo v) := by
  unfold State.setReg64
  apply State.setReg_histkept
  apply State.setReg_histkept
  exact h

theorem State.countBy_histkept {r s : State} (h : HistKept r s) (lo : Nat) (n : Nat) : HistKept r (s.countBy lo n) := by
  unfold State.countBy
  apply State.setReg64_histkept
  exact h

theorem State.count_histkept {r s : State} (h : HistKept r s) (lo : Nat) : HistKept r (s.count lo) := by
  unfold State.count
  apply State.countBy_histkept
  exact h

theorem State.setTs_histkept {r s : State} (h : HistKept r s) (off : Nat) (t : Nat) : HistKept r (s.setTs off t) := by
  unfold State.setTs
  apply State.setReg_histkept
  apply State.setReg_histkept
  apply State.setReg_histkept
  apply State.setReg_histkept
  exact h

theorem State.advance_histkept {r s : State} (h : HistKept r s) (t : Nat) : HistKept r (s.advance t) := by
  unfold State.advance
  extract_lets x1 x2
  refine HistKept.ite ?_ ?_
  · apply State.countBy_histkept
    exact h.upd rfl rfl
  · exact h

theorem State.logRaise_histkept {r s : State} (h : HistKept r s) (cls : Nat) (src : Nat) (ev : Nat) (detail : List Nat) : HistKept r (s.logRaise cls src ev detail) := by
  unfold State.logRaise
  extract_lets x1
  exact h.upd rfl rfl

theorem State.almSend_histkept {r s : State} (h : HistKept r s) (i : AlmInput) : HistKept r (s.almSend i) := by
  unfold State.almSend
  extract_lets x1
  exact h.upd rfl rfl

/-! ### Capture.lean -/

theorem State.modCap_histkept {r s : State} (h : HistKept r s) (c : Nat) (f : CapCh → CapCh) : HistKept r (s.modCap c f) := by
  unfold State.modCap
  extract_lets x1
  exact h.upd rfl rfl

theorem State.feDetect_histkept {r s : State} (h : HistKept r s) (types : List Nat) (t : Nat) : HistKept r (s.feDetect types t) := by
  unfold State.feDetect
  refine HistKept.foldl ?_ _ ?_
  · intro y1 y2 y3
    extract_lets x5 x6 x7 x8 x9 x10 x11
    have hx10 : HistKept r x10 := by
      unfold x10
      apply State.modCap_histkept
      exact y3
    clear_value x10
    refine HistKept.ite ?_ ?_
    · exact hx10.upd rfl rfl
    · exact hx10
  · exact h

theorem State.capClose_histkept {r s : State} (h : HistKept r s) (c : Nat) (o : CapOpen) : HistKept r (s.capClose c o) := by
  unfold State.capClose
  extract_lets x1 x2
  have hx2 : HistKept r x2 := by
    unfold x2
    apply State.modCap_histkept
    exact h
  clear_value x2
  refine HistKept.ite ?_ ?_
  · apply State.modCap_histkept
    exact hx2
  · apply State.count_histkept
    apply State.modCap_histkept
    apply State.dramWrite_histkept
    exact hx2

theorem State.capAppend_histkept {r s : State} (h : HistKept r s) (c : Nat) (o : CapOpen) (inst : Nat) (e : List Byte) : HistKept r (s.capAppend c o inst e) := by
  unfold State.capAppend
  apply State.modCap_histkept
  exact h

theorem State.capOpenBlock_histkept {r s : State} (h : HistKept r s) (c : Nat) (a2 : Nat) (inst : Nat) (period : Nat) (e : List Byte) : HistKept r (s.capOpenBlock c a2 inst period e) := by
  unfold State.capOpenBlock
  extract_lets x1
  refine HistKept.ite ?_ ?_
  · apply State.modCap_histkept
    exact h
  · apply State.modCap_histkept
    exact h

theorem State.capAdd_histkept {r s : State} (h : HistKept r s) (c : Nat) (a2 : Nat) (inst : Nat) (cov : Nat) (period : Nat) (mk : Nat → List Byte) : HistKept r (s.capAdd c a2 inst cov period mk) := by
  unfold State.capAdd
  extract_lets x1 x2
  have hx2 : HistKept r x2 := by
    unfold x2
    split
    · apply State.capOpenBlock_histkept
      exact h
    · extract_lets x3
      refine HistKept.ite ?_ ?_
      · apply State.capAppend_histkept
        exact h
      · apply State.capOpenBlock_histkept
        apply State.capClose_histkept
        exact h
  clear_value x2
  refine HistKept.ite ?_ ?_
  · exact h
  · refine HistKept.ite ?_ ?_
    · apply State.modCap_histkept
      exact h
    · apply State.modCap_histkept
      exact hx2

theorem State.capRaw_histkept {r s : State} (h : HistKept r s) (scs : Bool) (release : Nat) (vals : List Word) : HistKept r (s.capRaw scs release vals) := by
  unfold State.capRaw
  extract_lets x1 x2
  refine HistKept.foldl ?_ _ ?_
  · intro y3 y4 y5
    apply State.capAdd_histkept
    exact y5
  · exact h

theorem State.capCyc_histkept {r s : State} (h : HistKept r s) (mark : Nat) (close : Nat) (per : Nat) (mins : List Word) (maxs : List Word) : HistKept r (s.capCyc mark close per mins maxs) := by
  unfold State.capCyc
  refine HistKept.foldl ?_ _ ?_
  · intro y1 y2 y3
    apply State.capAdd_histkept
    exact y3
  · exact h

theorem State.capHrms_histkept {r s : State} (h : HistKept r s) (first : Nat) (last : Nat) (dur : Nat) (rms : List Word) : HistKept r (s.capHrms first last dur rms) := by
  unfold State.capHrms
  extract_lets x1 x2
  have hx1 : HistKept r x1 := by
    unfold x1
    refine HistKept.foldl ?_ _ ?_
    · intro y4 y5 y6
      apply State.capAdd_histkept
      exact y6
    · exact h
  clear_value x1
  apply State.feDetect_histkept
  exact hx1.upd rfl rfl

/-! ### FrontEnd.lean -/

theorem State.calExchange_histkept {r s : State} (h : HistKept r s) (c : Nat) : HistKept r (s.calExchange c) := by
  unfold State.calExchange
  extract_lets x1
  have hx1 : ∀ a0 a1 a2, HistKept r a0 → HistKept r (x1 a0 a1 a2) := by
    intro y2 y3 y4 y5
    unfold x1
    apply State.setReg_histkept
    apply State.setReg_histkept
    exact y5
  clear_value x1
  apply hx1
  apply hx1
  apply hx1
  exact h

theorem State.cycleClose_histkept {r s : State} (h : HistKept r s) (label : Nat) : HistKept r (s.cycleClose label) := by
  unfold State.cycleClose
  extract_lets x1 x2 x3 x4 x5 x6 x7 x8
  have hx3 : HistKept r x3 := by
    unfold x3
    refine HistKept.foldl ?_ _ ?_
    · intro y10 y11 y12
      apply State.setReg_histkept
      exact y12
    · exact h
  clear_value x3
  have hx4 : HistKept r x4 := by
    unfold x4
    apply State.capCyc_histkept
    exact hx3
  clear_value x4
  have hx7 : HistKept r x7 := by
    unfold x7
    apply State.count_histkept
    exact hx4
  clear_value x7
  refine HistKept.ite ?_ ?_
  · exact h
  · refine HistKept.ite ?_ ?_
    · exact hx4
    · refine HistKept.ite ?_ ?_
      · exact hx4.upd rfl rfl
      · exact hx7.upd rfl rfl

/-! ### Mtr.lean -/

theorem State.modMtr_histkept {r s : State} (h : HistKept r s) (f : Mtr → Mtr) : HistKept r (s.modMtr f) := by
  unfold State.modMtr
  exact h.upd rfl rfl

theorem State.pulseRelease_histkept {r s : State} (h : HistKept r s) : HistKept r s.pulseRelease := h.upd rfl rfl

theorem State.mtrRestore_histkept {r s : State} (h : HistKept r s) : HistKept r (s.mtrRestore) := by
  unfold State.mtrRestore
  extract_lets x1 x2 x3 x4 x5 x6 x7 x8 x9
  clear_value x1
  clear_value x2
  clear_value x3
  clear_value x4
  clear_value x5
  have hx6 : HistKept r x6 := by
    unfold x6
    split
    · apply State.modMtr_histkept
      exact h
    · exact h
  clear_value x6
  have hx7 : HistKept r x7 := by
    unfold x7
    apply State.pulseRelease_histkept
    apply State.modMtr_histkept
    exact hx6
  clear_value x7
  have hx8 : HistKept r x8 := by
    unfold x8
    apply State.setReg_histkept
    exact hx7
  clear_value x8
  have hx9 : HistKept r x9 := by
    unfold x9
    refine HistKept.ite ?_ ?_
    · apply State.event_histkept
      exact hx8
    · exact hx8
  clear_value x9
  refine HistKept.ite ?_ ?_
  · apply State.almSend_histkept
    apply State.modMtr_histkept
    exact hx9
  · exact hx9

theorem State.mtrTryStart_histkept {r s : State} (h : HistKept r s) : HistKept r (s.mtrTryStart) := by
  unfold State.mtrTryStart
  extract_lets x1
  have hx1 : HistKept r x1 := by
    unfold x1
    refine HistKept.ite ?_ ?_
    · exact h
    · apply State.mtrRestore_histkept
      exact h
  clear_value x1
  refine HistKept.ite ?_ ?_
  · apply State.modMtr_histkept
    exact hx1
  · exact h

end Sys2Proof.Machine
end

