-- ==== Sys2Proof/Laws/IslKeptBase.lean ====
section
/-! SUPPORT. The relation IslKept: what the islanding unit has committed, its provisional evaluations and what is due as they are. It composes. -/

namespace Sys2Proof.Machine

/-- The committed islanding state, the provisional evaluations and the dues are unchanged. -/
structure IslKept (s t : State) : Prop where
  isl_com : t.isl.com = s.isl.com
  isl_settleDue : t.isl.settleDue = s.isl.settleDue
  isl_foldDue : t.isl.foldDue = s.isl.foldDue
  isl_prov : t.isl.prov = s.isl.prov

theorem IslKept.refl (s : State) : IslKept s s := ⟨rfl, rfl, rfl, rfl⟩

/-- A record update of other fields than those IslKept speaks of. -/
theorem IslKept.upd {r s t : State} (h : IslKept r s)
    (e0 : t.isl.com = s.isl.com) (e1 : t.isl.settleDue = s.isl.settleDue) (e2 : t.isl.foldDue = s.isl.foldDue) (e3 : t.isl.prov = s.isl.prov) : IslKept r t :=
  ⟨e0.trans h.isl_com, e1.trans h.isl_settleDue, e2.trans h.isl_foldDue, e3.trans h.isl_prov⟩

theorem IslKept.ite {r a b : State} {c : Prop} [Decidable c] (ha : IslKept r a) (hb : IslKept r b) : IslKept r (if c then a else b) := by
  split <;> assumption

theorem IslKept.iteFst {α : Type} {r : State} {a b : State × α} {c : Prop} [Decidable c] (ha : IslKept r a.1) (hb : IslKept r b.1) :
    IslKept r (if c then a else b).1 := by
  split <;> assumption

theorem IslKept.ofFst {α : Type} {r s : State} {p : State × α} {a : α} (e : p = (s, a)) (h : IslKept r p.1) : IslKept r s := by
  rw [e] at h; exact h

theorem IslKept.foldl {α : Type} {r : State} {f : State → α → State} (hf : ∀ x a, IslKept r x → IslKept r (f x a)) :
    ∀ {s : State} (l : List α), IslKept r s → IslKept r (l.foldl f s)
  | _, [], h => h
  | s, a :: l, h => IslKept.foldl hf (s := f s a) l (hf s a h)

theorem IslKept.foldlFst {α β : Type} {r : State} {f : State × β → α → State × β} (hf : ∀ x a, IslKept r x.1 → IslKept r (f x a).1) :
    ∀ {s : State × β} (l : List α), IslKept r s.1 → IslKept r (l.foldl f s).1
  | _, [], h => h
  | s, a :: l, h => IslKept.foldlFst hf (s := f s a) l (hf s a h)

end Sys2Proof.Machine
end

