-- ==== Sys2Proof/Laws/IslKept.lean ====
section
/-! SUPPORT. Operations that leave the committed islanding state, the provisional evaluations and the dues as they are -/

namespace Sys2Proof.Machine

/-! ### Ops.lean -/

theorem State.dramWrite_islkept {r s : State} (h : IslKept r s) (a : Nat) (bs : List Byte) : IslKept r (s.dramWrite a bs) := by
  unfold State.dramWrite
  exact h.upd rfl rfl rfl rfl

theorem State.setReg_islkept {r s : State} (h : IslKept r s) (off : Nat) (v : Word) : IslKept r (s.setReg off v) := by
  unfold State.setReg
  exact h.upd rfl rfl rfl rfl

theorem State.event_islkept {r s : State} (h : IslKept r s) (off : Nat) (i : Nat) : IslKept r (s.event off i) := by
  unfold State.event
  apply State.setReg_islkept
  exact h

theorem State.writeReg_islkept {r s : State} (h : IslKept r s) (off : Nat) (v : Word) : IslKept r (s.writeReg off v) := by
  unfold State.writeReg
  split
  · extract_lets x2
    apply State.setReg_islkept
    exact h
  · exact h

theorem State.setReg64_islkept {r s : State} (h : IslKept r s) (lo : Nat) (v : Nat) : IslKept r (s.setReg64 lo v) := by
  unfold State.setReg64
  apply State.setReg_islkept
  apply State.setReg_islkept
  exact h

theorem State.countBy_islkept {r s : State} (h : IslKept r s) (lo : Nat) (n : Nat) : IslKept r (s.countBy lo n) := by
  unfold State.countBy
  apply State.setReg64_islkept
  exact h

theorem State.count_islkept {r s : State} (h : IslKept r s) (lo : Nat) : IslKept r (s.count lo) := by
  unfold State.count
  apply State.countBy_islkept
  exact h

theorem State.almSend_islkept {r s : State} (h : IslKept r s) (i : AlmInput) : IslKept r (s.almSend i) := by
  unfold State.almSend
  extract_lets x1
  exact h.upd rfl rfl rfl rfl

theorem State.capNotice_islkept {r s : State} (h : IslKept r s) (typ : Nat) (m : Nat → Nat → Bool) (at_ : Nat) (code : Nat) : IslKept r (s.capNotice typ m at_ code) := by
  unfold State.capNotice
  extract_lets x1 x2
  refine IslKept.ite ?_ ?_
  · exact h.upd rfl rfl rfl rfl
  · exact h

theorem State.wantTask_islkept {r s : State} (h : IslKept r s) (t : TaskReq) : IslKept r (s.wantTask t) := by
  unfold State.wantTask
  extract_lets x1
  exact h.upd rfl rfl rfl rfl

theorem State.deliver_islkept {r s : State} (h : IslKept r s) (d : Delivery) : IslKept r (s.deliver d) := by
  unfold State.deliver
  extract_lets x1
  exact h.upd rfl rfl rfl rfl

theorem State.leaseTake_islkept {r s : State} (h : IslKept r s) (pool : Nat) (index : Nat) (owner : Nat) : IslKept r (s.leaseTake pool index owner) := by
  unfold State.leaseTake
  extract_lets x1
  exact h.upd rfl rfl rfl rfl

/-! ### FrontEnd.lean -/

theorem State.clearCounters_islkept {r s : State} (h : IslKept r s) (lo : Nat) (n : Nat) : IslKept r (s.clearCounters lo n) := by
  unfold State.clearCounters
  refine IslKept.foldl ?_ _ ?_
  · intro y1 y2 y3
    apply State.setReg64_islkept
    exact y3
  · exact h

/-! ### Quay.lean -/

theorem State.modAln_islkept {r s : State} (h : IslKept r s) (f : Aln → Aln) : IslKept r (s.modAln f) := by
  unfold State.modAln
  exact h.upd rfl rfl rfl rfl

theorem State.modQuay_islkept {r s : State} (h : IslKept r s) (seq : Nat) (f : Quay → Quay) : IslKept r (s.modQuay seq f) := by
  unfold State.modQuay
  apply State.modAln_islkept
  exact h

theorem State.modDet_islkept {r s : State} (h : IslKept r s) (seq : Nat) (d : Nat) (f : Det → Det) : IslKept r (s.modDet seq d f) := by
  unfold State.modDet
  apply State.modQuay_islkept
  exact h

/-! ### Align.lean -/

theorem State.alnRaise_islkept {r s : State} (h : IslKept r s) (d : Nat) (kind : Nat) (seq : Nat) : IslKept r (s.alnRaise d kind seq) := by
  unfold State.alnRaise
  extract_lets x1
  have hx1 : IslKept r x1 := by
    unfold x1
    apply State.almSend_islkept
    exact h
  clear_value x1
  refine IslKept.ite ?_ ?_
  · apply State.capNotice_islkept
    exact hx1
  · exact hx1

theorem State.snapshot_islkept {r s : State} (h : IslKept r s) (seq : Nat) (d : Nat) : IslKept r (s.snapshot seq d) := by
  unfold State.snapshot
  split
  · extract_lets x2
    refine IslKept.ite ?_ ?_
    · exact h
    · apply State.modDet_islkept
      exact h
  · exact h

theorem State.alnNotice_islkept {r s : State} (h : IslKept r s) (q : Quay) (d : Nat) (o : Nat) : IslKept r (s.alnNotice q d o) := by
  unfold State.alnNotice
  apply State.almSend_islkept
  exact h

theorem State.settleDoneCheck_islkept {r s : State} (h : IslKept r s) (seq : Nat) : IslKept r (s.settleDoneCheck seq) := by
  unfold State.settleDoneCheck
  split
  · refine IslKept.ite ?_ ?_
    · apply State.modQuay_islkept
      exact h
    · exact h
  · exact h

theorem State.detFinish_islkept {r s : State} (h : IslKept r s) (seq : Nat) (d : Nat) (o : Nat) : IslKept r (s.detFinish seq d o) := by
  unfold State.detFinish
  split
  · exact h
  · extract_lets x3 x4
    have hx3 : IslKept r x3 := by
      unfold x3
      apply State.modDet_islkept
      exact h
    clear_value x3
    have hx4 : IslKept r x4 := by
      unfold x4
      split
      · apply State.count_islkept
        exact hx3
      · apply State.count_islkept
        exact hx3
      · apply State.count_islkept
        exact hx3
      · apply State.alnRaise_islkept
        apply State.event_islkept
        apply State.count_islkept
        exact hx3
      · apply State.alnRaise_islkept
        apply State.event_islkept
        apply State.count_islkept
        exact hx3
      · exact hx3
    clear_value x4
    apply State.settleDoneCheck_islkept
    apply State.alnNotice_islkept
    exact hx4

/-! ### Osc.lean -/

theorem State.ringLines_islkept {r s : State} (h : IslKept r s) (base : Nat) (log : Nat) (wr : Nat) (b : List Byte) : IslKept r (s.ringLines base log wr b) := by
  unfold State.ringLines
  refine IslKept.foldl ?_ _ ?_
  · intro y1 y2 y3
    apply State.dramWrite_islkept
    exact y3
  · exact h

/-! ### Isl.lean -/

theorem State.islKeep_islkept {r s : State} (h : IslKept r s) (l : IslList) : IslKept r (s.islKeep l) := by
  unfold State.islKeep State.modIsl
  exact h.upd rfl rfl rfl rfl

theorem State.islNumber_islkept : ∀ {r s : State} (_ : IslKept r s) (l : List IslDec), IslKept r (s.islNumber l).1
  | _, _, h, [] => h
  | _, s, h, _ :: ds => by
    exact State.islNumber_islkept (s := s.modIsl fun x => { x with nextDec := (s.isl.nextDec + 1) % 2 ^ 32 }) (h.upd rfl rfl rfl rfl) ds

theorem State.islSend_islkept {r s : State} (h : IslKept r s) (op : AlmOp) (seq : Nat) (d : IslDec) : IslKept r (s.islSend op seq d) := by
  unfold State.islSend
  apply State.almSend_islkept
  exact h

theorem State.islSendAll_islkept {r s : State} (h : IslKept r s) (op : AlmOp) (seq : Nat) (l : List IslDec) : IslKept r (s.islSendAll op seq l) := by
  unfold State.islSendAll
  refine IslKept.foldl ?_ _ ?_
  · intro y1 y2 y3
    apply State.islSend_islkept
    exact y3
  · exact h

theorem State.islNotice_islkept {r s : State} (h : IslKept r s) (seq : Nat) (o : Nat) : IslKept r (s.islNotice seq o) := by
  unfold State.islNotice
  apply State.almSend_islkept
  exact h

theorem State.islMembWrite_islkept {r s : State} (h : IslKept r s) (seq : Nat) (x : IslComp) : IslKept r (s.islMembWrite seq x) := by
  unfold State.islMembWrite
  extract_lets raw b pos log base keep gone s1 s2
  have h1 : IslKept r s1 := IslKept.foldl (fun y a hy => State.dramWrite_islkept hy _ _) _ h
  have h2 : IslKept r s2 := (State.setReg64_islkept h1 _ _).upd rfl rfl rfl rfl
  refine IslKept.ite h2 ?_
  exact State.event_islkept (State.countBy_islkept h2 _ _) _ _

theorem State.islMemberships_islkept {r s : State} (h : IslKept r s) (seq : Nat) (l : List IslComp) : IslKept r (s.islMemberships seq l).1 := by
  unfold State.islMemberships
  refine IslKept.foldlFst ?_ _ ?_
  · intro y1 y2 y3
    extract_lets x5
    refine IslKept.iteFst ?_ ?_
    · dsimp only
      apply State.islMembWrite_islkept
      exact y3
    · exact y3
  · dsimp only
    exact h

theorem State.islSnapshot_islkept {r s : State} (h : IslKept r s) (seq : Nat) : IslKept r (s.islSnapshot seq) := by
  unfold State.islSnapshot
  split
  · refine IslKept.ite h ?_
    exact (State.snapshot_islkept h _ _).upd rfl rfl rfl rfl
  · exact h

end Sys2Proof.Machine
end

