-- ==== Sys2Proof/Laws/Maps.lean ====
section
/-! SUPPORT. Sparse maps: what a lookup gives after a write, and that the operations keep the canonical form. -/

namespace Sys2Proof.Machine

variable {α : Type}

theorem mapIns_mem {k : Nat} {v : α} {m : List (Nat × α)} {p : Nat × α} (h : p ∈ mapIns k v m) : p = (k, v) ∨ p ∈ m := by
  induction m with
  | nil => simpa [mapIns] using h
  | cons q m ih =>
    unfold mapIns at h
    split at h
    · simpa using h
    · rcases List.mem_cons.mp h with h | h
      · exact .inr (by simp [h])
      · rcases ih h with h | h
        · exact .inl h
        · exact .inr (by simp [h])

theorem mapIns_sorted {k : Nat} {v : α} {m : List (Nat × α)} (hs : m.Pairwise fun p q => p.1 < q.1) (hk : ∀ p ∈ m, p.1 ≠ k) :
    (mapIns k v m).Pairwise fun p q => p.1 < q.1 := by
  induction m with
  | nil => simp [mapIns]
  | cons q m ih =>
    have hq := List.pairwise_cons.mp hs
    unfold mapIns
    split
    next hlt =>
      refine List.pairwise_cons.mpr ⟨fun p hp => ?_, hs⟩
      rcases List.mem_cons.mp hp with rfl | hp
      · exact hlt
      · exact Nat.lt_trans hlt (hq.1 p hp)
    next hge =>
      refine List.pairwise_cons.mpr ⟨fun p hp => ?_, ih hq.2 fun p hp => hk p (by simp [hp])⟩
      have hne := hk q (by simp)
      rcases mapIns_mem hp with rfl | hp
      · show q.1 < k
        omega
      · exact hq.1 p hp

/-- A write keeps the canonical form. -/
theorem mapPut_wf [DecidableEq α] {d : Nat → α} {m : List (Nat × α)} (h : MapWf d m) (k : Nat) (v : α) :
    MapWf d (mapPut d m k v) := by
  have hs : (m.filter fun p => p.1 != k).Pairwise fun p q => p.1 < q.1 := h.1.filter _
  have hd : ∀ p ∈ m.filter (fun p => p.1 != k), p.2 ≠ d p.1 := fun p hp => h.2 p (List.mem_of_mem_filter hp)
  unfold mapPut
  split
  · exact ⟨hs, hd⟩
  next hne =>
    refine ⟨mapIns_sorted hs fun p hp => by simpa using (List.mem_filter.mp hp).2, fun p hp => ?_⟩
    rcases mapIns_mem hp with rfl | hp
    · exact hne
    · exact hd p hp

theorem mapWf_filter [DecidableEq α] {d : Nat → α} {m : List (Nat × α)} (h : MapWf d m) (f : Nat × α → Bool) : MapWf d (m.filter f) :=
  ⟨h.1.filter _, fun p hp => h.2 p (List.mem_of_mem_filter hp)⟩

theorem mapWf_nil [DecidableEq α] {d : Nat → α} : MapWf d ([] : List (Nat × α)) := ⟨List.Pairwise.nil, by simp⟩

theorem find_mapIns {k k' : Nat} {v : α} {m : List (Nat × α)} (hk : ∀ p ∈ m, p.1 ≠ k) :
    (mapIns k v m).find? (fun p => p.1 == k') = if k = k' then some (k, v) else m.find? fun p => p.1 == k' := by
  induction m with
  | nil => by_cases h : k = k' <;> simp [mapIns, List.find?, h]
  | cons q m ih =>
    have ih := ih fun p hp => hk p (by simp [hp])
    have hne := hk q (by simp)
    unfold mapIns
    split
    · by_cases h : k = k'
      · simp [List.find?, h]
      · have h2 : (k == k') = false := by simpa using h
        simp only [List.find?, h2, if_neg h]
    · by_cases hqk : q.1 = k'
      · have : k ≠ k' := fun h => hne (hqk.trans h.symm)
        simp [List.find?, hqk, this]
      · have hqk' : (q.1 == k') = false := by simpa using hqk
        simp only [List.find?, hqk']
        exact ih

theorem find_filter_ne {k k' : Nat} (m : List (Nat × α)) (h : k ≠ k') :
    (m.filter fun p => p.1 != k).find? (fun p => p.1 == k') = m.find? fun p => p.1 == k' := by
  induction m with
  | nil => rfl
  | cons q m ih =>
    by_cases hq : q.1 = k
    · have h1 : (q.1 != k) = false := by simp [hq]
      have h2 : (q.1 == k') = false := by simpa [hq] using h
      simp only [List.filter, h1, List.find?, h2]
      exact ih
    · have h1 : (q.1 != k) = true := by simpa using hq
      simp only [List.filter, h1]
      by_cases hq' : q.1 = k'
      · simp [List.find?, hq']
      · have h2 : (q.1 == k') = false := by simpa using hq'
        simp only [List.find?, h2]
        exact ih

theorem find_filter_self {k : Nat} (m : List (Nat × α)) : (m.filter fun p => p.1 != k).find? (fun p => p.1 == k) = none := by
  refine List.find?_eq_none.mpr fun p hp => ?_
  have := (List.mem_filter.mp hp).2
  simpa using this

/-- A key reads as it was written last. -/
theorem mapGet_put [DecidableEq α] (d : Nat → α) (m : List (Nat × α)) (k k' : Nat) (v : α) :
    mapGet d (mapPut d m k v) k' = if k = k' then v else mapGet d m k' := by
  have hk : ∀ p ∈ m.filter (fun p => p.1 != k), p.1 ≠ k := fun p hp => by simpa using (List.mem_filter.mp hp).2
  unfold mapGet mapPut
  by_cases he : k = k'
  · subst he
    by_cases hv : v = d k
    · simp only [hv, if_true, find_filter_self]
    · simp only [hv, if_false, find_mapIns hk, if_true]
  · by_cases hv : v = d k
    · simp only [hv, he, if_true, if_false, find_filter_ne m he]
    · simp only [hv, he, if_false, find_mapIns hk, find_filter_ne m he]

end Sys2Proof.Machine
end

