-- ==== Sys2Proof/Laws/KeepsBase.lean ====
section
/-! SUPPORT. The relation Keeps composes: the lemmas every definition's own lemma is built from. -/

namespace Sys2Proof.Machine

theorem Keeps.refl (s : State) : Keeps s s :=
  { pending := rfl, variant := rfl, dramGiB := rfl, closed := id, fresh := Nat.le_refl _, out := List.prefix_refl _, regs := id, dram := id }

/-- A record update of other fields than those Keeps speaks of. -/
theorem Keeps.upd {r s t : State} (h : Keeps r s) (e1 : t.pending = s.pending) (e2 : t.hw.variant = s.hw.variant)
    (e3 : t.hw.dramGiB = s.hw.dramGiB) (e4 : t.hw.provClosed = s.hw.provClosed) (e5 : t.fresh = s.fresh) (e6 : t.out = s.out)
    (e7 : t.regs = s.regs) (e8 : t.dram = s.dram) : Keeps r t :=
  { pending := e1.trans h.pending
    variant := e2.trans h.variant
    dramGiB := e3.trans h.dramGiB
    closed := fun c => e4.trans (h.closed c)
    fresh := e5 ▸ h.fresh
    out := e6 ▸ h.out
    regs := fun w => e7 ▸ h.regs w
    dram := fun w => e8 ▸ h.dram w }

theorem Keeps.ite {r a b : State} {c : Prop} [Decidable c] (ha : Keeps r a) (hb : Keeps r b) : Keeps r (if c then a else b) := by
  split <;> assumption

theorem Keeps.iteFst {α : Type} {r : State} {a b : State × α} {c : Prop} [Decidable c] (ha : Keeps r a.1) (hb : Keeps r b.1) :
    Keeps r (if c then a else b).1 := by
  split <;> assumption

theorem Keeps.ofFst {α : Type} {r s : State} {p : State × α} {a : α} (e : p = (s, a)) (h : Keeps r p.1) : Keeps r s := by
  rw [e] at h; exact h

theorem Keeps.foldl {α : Type} {r : State} {f : State → α → State} (hf : ∀ x a, Keeps r x → Keeps r (f x a)) :
    ∀ {s : State} (l : List α), Keeps r s → Keeps r (l.foldl f s)
  | _, [], h => h
  | s, a :: l, h => Keeps.foldl hf (s := f s a) l (hf s a h)

theorem Keeps.foldlFst {α β : Type} {r : State} {f : State × β → α → State × β} (hf : ∀ x a, Keeps r x.1 → Keeps r (f x a).1) :
    ∀ {s : State × β} (l : List α), Keeps r s.1 → Keeps r (l.foldl f s).1
  | _, [], h => h
  | s, a :: l, h => Keeps.foldlFst hf (s := f s a) l (hf s a h)

theorem State.setReg_keeps {r s : State} (h : Keeps r s) (o : Nat) (v : Word) : Keeps r (s.setReg o v) :=
  { pending := h.pending, variant := h.variant, dramGiB := h.dramGiB, closed := h.closed, fresh := h.fresh, out := h.out,
    regs := fun w => mapPut_wf (h.regs w) o v, dram := h.dram }

theorem dramStore_wf (a : Nat) (bs : List Byte) : ∀ (m : List Host.Cell), Memory.wf m → Memory.wf (dramStore m a bs) := by
  induction bs generalizing a with
  | nil => exact fun _ h => h
  | cons b bs ih => exact fun m h => ih (a + 1) _ (mapPut_wf h a b)

theorem State.dramWrite_keeps {r s : State} (h : Keeps r s) (a : Nat) (bs : List Byte) : Keeps r (s.dramWrite a bs) :=
  { pending := h.pending, variant := h.variant, dramGiB := h.dramGiB, closed := h.closed, fresh := h.fresh, out := h.out,
    regs := h.regs, dram := fun w => dramStore_wf a bs _ (h.dram w) }

theorem State.freshNext_keeps {r s : State} (h : Keeps r s) : Keeps r s.freshNext :=
  { pending := h.pending, variant := h.variant, dramGiB := h.dramGiB, closed := h.closed, fresh := Nat.le_succ_of_le h.fresh,
    out := h.out, regs := h.regs, dram := h.dram }

theorem State.freshSkip_keeps {r s : State} (h : Keeps r s) (n : Nat) : Keeps r (s.freshSkip n) :=
  { pending := h.pending, variant := h.variant, dramGiB := h.dramGiB, closed := h.closed, fresh := Nat.le_add_right_of_le h.fresh,
    out := h.out, regs := h.regs, dram := h.dram }

theorem State.emit_keeps {r s : State} (h : Keeps r s) (o : Output) : Keeps r (s.emit o) :=
  { pending := h.pending, variant := h.variant, dramGiB := h.dramGiB, closed := h.closed, fresh := h.fresh,
    out := h.out.trans (List.prefix_append _ _), regs := h.regs, dram := h.dram }

/-- A block's registers back at their reset values. -/
theorem State.resetBlock_keeps {r s : State} (h : Keeps r s) (b : Block) : Keeps r (s.resetBlock b) :=
  { pending := h.pending, variant := h.variant, dramGiB := h.dramGiB, closed := h.closed, fresh := h.fresh, out := h.out,
    regs := fun w => mapWf_filter (h.regs w) _, dram := h.dram }

theorem risingCells_mem {len : Nat} {cs : List (Nat × Byte)} {at_ : Nat} {p : Nat × Byte} (h : p ∈ risingCells len cs at_) :
    at_ ≤ p.1 ∧ p.1 < len ∧ p.2 ≠ 0 := by
  induction cs generalizing at_ with
  | nil => cases h
  | cons c cs ih =>
    unfold risingCells at h
    split at h
    next hc =>
      rcases List.mem_cons.mp h with rfl | h
      · exact hc
      · have := ih h
        exact ⟨by omega, this.2⟩
    next => exact ih h

theorem risingCells_sorted (len : Nat) (cs : List (Nat × Byte)) (at_ : Nat) :
    (risingCells len cs at_).Pairwise fun p q => p.1 < q.1 := by
  induction cs generalizing at_ with
  | nil => exact List.Pairwise.nil
  | cons c cs ih =>
    unfold risingCells
    split
    · exact List.pairwise_cons.mpr ⟨fun p hp => (risingCells_mem hp).1, ih _⟩
    · exact ih _

/-- A region of DRAM written whole. -/
theorem State.dramRegion_keeps {r s : State} (h : Keeps r s) (base len : Nat) (cells : List (Nat × Byte)) :
    Keeps r (s.dramRegion base len cells) :=
  { pending := h.pending, variant := h.variant, dramGiB := h.dramGiB, closed := h.closed, fresh := h.fresh, out := h.out,
    regs := h.regs
    dram := fun w => by
      have w := h.dram w
      have hc : ∀ p ∈ (risingCells len cells 0).map (fun c => (base + c.1, c.2)), base ≤ p.1 ∧ p.1 < base + len ∧ p.2 ≠ 0 := by
        intro p hp
        obtain ⟨c, hc, rfl⟩ := List.mem_map.mp hp
        have := risingCells_mem hc
        exact ⟨Nat.le_add_right _ _, Nat.add_lt_add_left this.2.1 _, this.2.2⟩
      refine ⟨List.pairwise_append.mpr ⟨List.pairwise_append.mpr ⟨w.1.filter _, ?_, ?_⟩, w.1.filter _, ?_⟩, ?_⟩
      · exact List.pairwise_map.mpr ((risingCells_sorted len cells 0).imp fun h => Nat.add_lt_add_left h _)
      · intro p hp q hq
        have h1 : p.1 < base := by simpa using (List.mem_filter.mp hp).2
        exact Nat.lt_of_lt_of_le h1 (hc q hq).1
      · intro p hp q hq
        have h2 : base + len ≤ q.1 := by simpa using (List.mem_filter.mp hq).2
        rcases List.mem_append.mp hp with hp | hp
        · have h1 : p.1 < base := by simpa using (List.mem_filter.mp hp).2
          omega
        · exact Nat.lt_of_lt_of_le (hc p hp).2.1 h2
      · intro p hp
        rcases List.mem_append.mp hp with hp | hp
        · rcases List.mem_append.mp hp with hp | hp
          · exact w.2 p (List.mem_of_mem_filter hp)
          · exact (hc p hp).2.2
        · exact w.2 p (List.mem_of_mem_filter hp) }

end Sys2Proof.Machine
end

