-- ==== Sys2Proof/Laws/KeepsCore.lean ====
section
/-! SUPPORT. Keeps is kept by the shared operations, power states, the backup domain, manifests, the host interface, configuration sets, the key store and the logbook. -/

namespace Sys2Proof.Machine

/-! ### Ops.lean -/

theorem State.setFld_keeps {r s : State} (h : Keeps r s) (off : Nat) (lo : Nat) (w : Nat) (v : Nat) : Keeps r (s.setFld off lo w v) := by
  unfold State.setFld
  apply State.setReg_keeps
  exact h

theorem State.event_keeps {r s : State} (h : Keeps r s) (off : Nat) (i : Nat) : Keeps r (s.event off i) := by
  unfold State.event
  apply State.setReg_keeps
  exact h

theorem State.writeReg_keeps {r s : State} (h : Keeps r s) (off : Nat) (v : Word) : Keeps r (s.writeReg off v) := by
  unfold State.writeReg
  split
  · extract_lets x2
    apply State.setReg_keeps
    exact h
  · exact h

theorem State.setReg64_keeps {r s : State} (h : Keeps r s) (lo : Nat) (v : Nat) : Keeps r (s.setReg64 lo v) := by
  unfold State.setReg64
  apply State.setReg_keeps
  apply State.setReg_keeps
  exact h

theorem State.countBy_keeps {r s : State} (h : Keeps r s) (lo : Nat) (n : Nat) : Keeps r (s.countBy lo n) := by
  unfold State.countBy
  apply State.setReg64_keeps
  exact h

theorem State.count_keeps {r s : State} (h : Keeps r s) (lo : Nat) : Keeps r (s.count lo) := by
  unfold State.count
  apply State.countBy_keeps
  exact h

theorem State.count32_keeps {r s : State} (h : Keeps r s) (off : Nat) : Keeps r (s.count32 off) := by
  unfold State.count32
  apply State.setReg_keeps
  exact h

theorem State.setTs_keeps {r s : State} (h : Keeps r s) (off : Nat) (t : Nat) : Keeps r (s.setTs off t) := by
  unfold State.setTs
  apply State.setReg_keeps
  apply State.setReg_keeps
  apply State.setReg_keeps
  apply State.setReg_keeps
  exact h

theorem State.advance_keeps {r s : State} (h : Keeps r s) (t : Nat) : Keeps r (s.advance t) := by
  unfold State.advance
  extract_lets x1 x2
  refine Keeps.ite ?_ ?_
  · apply State.countBy_keeps
    exact h.upd rfl rfl rfl rfl rfl rfl rfl rfl
  · exact h

theorem State.logRaise_keeps {r s : State} (h : Keeps r s) (cls : Nat) (src : Nat) (ev : Nat) (detail : List Nat) : Keeps r (s.logRaise cls src ev detail) := by
  unfold State.logRaise
  extract_lets x1
  exact h.upd rfl rfl rfl rfl rfl rfl rfl rfl

theorem State.report_keeps {r s : State} (h : Keeps r s) (src : Nat) (cause : Nat) (master : Nat) (access : Nat) (addr : Nat) : Keeps r (s.report src cause master access addr) := by
  unfold State.report
  extract_lets x1
  refine Keeps.ite ?_ ?_
  · exact h
  · exact h.upd rfl rfl rfl rfl rfl rfl rfl rfl

theorem State.unitFault_keeps {r s : State} (h : Keeps r s) (n : Nat) : Keeps r (s.unitFault n) := by
  unfold State.unitFault
  apply State.report_keeps
  exact h

theorem State.almSend_keeps {r s : State} (h : Keeps r s) (i : AlmInput) : Keeps r (s.almSend i) := by
  unfold State.almSend
  extract_lets x1
  exact h.upd rfl rfl rfl rfl rfl rfl rfl rfl

theorem State.capNotice_keeps {r s : State} (h : Keeps r s) (typ : Nat) (m : Nat → Nat → Bool) (at_ : Nat) (code : Nat) : Keeps r (s.capNotice typ m at_ code) := by
  unfold State.capNotice
  extract_lets x1 x2
  refine Keeps.ite ?_ ?_
  · exact h.upd rfl rfl rfl rfl rfl rfl rfl rfl
  · exact h

theorem State.offer_keeps {r s : State} (h : Keeps r s) (port : Nat) (cls : TxClass) (body : TxBody) (bytes : Nat) (job : Option (Nat × Nat)) : Keeps r (s.offer port cls body bytes job) := by
  unfold State.offer
  extract_lets x1 x2
  refine Keeps.ite ?_ ?_
  · exact h.upd rfl rfl rfl rfl rfl rfl rfl rfl
  · exact h.upd rfl rfl rfl rfl rfl rfl rfl rfl

theorem State.wantTask_keeps {r s : State} (h : Keeps r s) (t : TaskReq) : Keeps r (s.wantTask t) := by
  unfold State.wantTask
  extract_lets x1
  exact h.upd rfl rfl rfl rfl rfl rfl rfl rfl

theorem State.deliver_keeps {r s : State} (h : Keeps r s) (d : Delivery) : Keeps r (s.deliver d) := by
  unfold State.deliver
  extract_lets x1
  exact h.upd rfl rfl rfl rfl rfl rfl rfl rfl

theorem State.mirrorItem_keeps {r s : State} (h : Keeps r s) (item : Nat) (body : List Byte) : Keeps r (s.mirrorItem item body) := by
  unfold State.mirrorItem
  extract_lets x1 x2
  refine Keeps.ite ?_ ?_
  · refine Keeps.ite ?_ ?_
    · exact h.upd rfl rfl rfl rfl rfl rfl rfl rfl
    · apply State.event_keeps
      apply State.count_keeps
      exact h.upd rfl rfl rfl rfl rfl rfl rfl rfl
  · exact h

theorem State.leaseTake_keeps {r s : State} (h : Keeps r s) (pool : Nat) (index : Nat) (owner : Nat) : Keeps r (s.leaseTake pool index owner) := by
  unfold State.leaseTake
  extract_lets x1
  exact h.upd rfl rfl rfl rfl rfl rfl rfl rfl

theorem State.leaseReturn_keeps {r s : State} (h : Keeps r s) (pool : Nat) (index : Nat) : Keeps r (s.leaseReturn pool index) := by
  unfold State.leaseReturn
  exact h.upd rfl rfl rfl rfl rfl rfl rfl rfl

theorem State.leaseRevoke_keeps {r s : State} (h : Keeps r s) (owner : Nat) : Keeps r (s.leaseRevoke owner) := by
  unfold State.leaseRevoke
  exact h.upd rfl rfl rfl rfl rfl rfl rfl rfl

/-! ### Power.lean -/

theorem State.pwrEnter_keeps {r s : State} (h : Keeps r s) (code : Nat) : Keeps r (s.pwrEnter code) := by
  unfold State.pwrEnter
  extract_lets x1
  apply State.logRaise_keeps
  apply State.event_keeps
  exact h.upd rfl rfl rfl rfl rfl rfl rfl rfl

theorem State.wake_keeps {r s : State} (h : Keeps r s) (src : Nat) : Keeps r (s.wake src) := by
  unfold State.wake
  extract_lets x1
  refine Keeps.ite ?_ ?_
  · exact h
  · apply State.event_keeps
    apply State.setReg_keeps
    exact h.upd rfl rfl rfl rfl rfl rfl rfl rfl

theorem State.wakeIf_keeps {r s : State} (h : Keeps r s) (i : Nat) : Keeps r (s.wakeIf i) := by
  unfold State.wakeIf
  refine Keeps.ite ?_ ?_
  · apply State.wake_keeps
    exact h
  · exact h

theorem State.pwrAfter_keeps {r s : State} (h : Keeps r s) (s0 : State) : Keeps r (s0.pwrAfter s) := by
  unfold State.pwrAfter
  extract_lets x1 x2
  have hx1 : Keeps r x1 := by
    unfold x1
    refine Keeps.ite ?_ ?_
    · apply State.wake_keeps
      exact h
    · exact h
  clear_value x1
  refine Keeps.ite ?_ ?_
  · exact hx1.upd rfl rfl rfl rfl rfl rfl rfl rfl
  · exact hx1

theorem pwrLtrWrite_keeps {r s : State} (h : Keeps r s) (v : Word) : Keeps r (pwrLtrWrite v s) := by
  unfold pwrLtrWrite
  apply State.setReg_keeps
  exact h

theorem pwrEntryStep_keeps {r s : State} (h : Keeps r s) : Keeps r (pwrEntryStep s) := by
  unfold pwrEntryStep
  extract_lets x1
  refine Keeps.ite ?_ ?_
  · refine Keeps.ite ?_ ?_
    · exact h.upd rfl rfl rfl rfl rfl rfl rfl rfl
    · exact h
  · refine Keeps.ite ?_ ?_
    · apply State.pwrEnter_keeps
      exact h
    · exact h

theorem d3hotEnter_keeps {r s : State} (h : Keeps r s) : Keeps r (d3hotEnter s) := by
  unfold d3hotEnter
  extract_lets x1 x2 x3 x4
  have hx3 : Keeps r x3 := by
    unfold x3
    exact h.upd rfl rfl rfl rfl rfl rfl rfl rfl
  clear_value x3
  refine Keeps.ite ?_ ?_
  · exact hx3
  · apply State.event_keeps
    exact hx3.upd rfl rfl rfl rfl rfl rfl rfl rfl

theorem d0Return_keeps {r s : State} (h : Keeps r s) : Keeps r (d0Return s) := by
  unfold d0Return
  extract_lets x1 x2 x3
  exact h.upd rfl rfl rfl rfl rfl rfl rfl rfl

theorem State.holdAccess_keeps {r s : State} (h : Keeps r s) (a1 : HeldAccess) (src : Nat) : Keeps r (s.holdAccess a1 src) := by
  unfold State.holdAccess
  extract_lets x1
  apply State.wake_keeps
  exact h.upd rfl rfl rfl rfl rfl rfl rfl rfl

/-! ### Rtc.lean -/

theorem State.modBkp_keeps {r s : State} (h : Keeps r s) (f : Bkp → Bkp) : Keeps r (s.modBkp f) := by
  unfold State.modBkp
  exact h.upd rfl rfl rfl rfl rfl rfl rfl rfl

theorem vbatMeasure_keeps {r s : State} (h : Keeps r s) (mv : Nat) : Keeps r (vbatMeasure mv s) := by
  unfold vbatMeasure
  extract_lets x1 x2
  have hx2 : Keeps r x2 := by
    unfold x2
    apply State.modBkp_keeps
    exact h
  clear_value x2
  refine Keeps.ite ?_ ?_
  · apply State.event_keeps
    exact hx2
  · exact hx2

theorem bkpSwitchToVbat_keeps {r s : State} (h : Keeps r s) (frac : Nat) (mv : Nat) : Keeps r (bkpSwitchToVbat frac mv s) := by
  unfold bkpSwitchToVbat
  extract_lets x1
  have hx1 : Keeps r x1 := by
    unfold x1
    apply State.modBkp_keeps
    exact h
  clear_value x1
  refine Keeps.ite ?_ ?_
  · exact h
  · apply vbatMeasure_keeps
    apply State.event_keeps
    exact hx1

theorem bkpReturnToMain_keeps {r s : State} (h : Keeps r s) (frac : Nat) : Keeps r (bkpReturnToMain frac s) := by
  unfold bkpReturnToMain
  refine Keeps.ite ?_ ?_
  · apply State.event_keeps
    apply State.modBkp_keeps
    exact h
  · exact h

theorem bkpPorAssert_keeps {r s : State} (h : Keeps r s) : Keeps r (bkpPorAssert s) := by
  unfold bkpPorAssert
  apply State.modBkp_keeps
  exact h

theorem bkpPorRelease_keeps {r s : State} (h : Keeps r s) : Keeps r (bkpPorRelease s) := by
  unfold bkpPorRelease
  extract_lets x1
  refine Keeps.ite ?_ ?_
  · apply State.modBkp_keeps
    exact h
  · exact h

theorem rtcGroupRead_keeps {r s : State} (h : Keeps r s) (reg : Nat) (frac : Nat) : Keeps r (rtcGroupRead reg frac s) := by
  unfold rtcGroupRead
  extract_lets x1 x2 x3 x4 x5 x6
  have hx1 : Keeps r x1 := by
    unfold x1
    apply State.modBkp_keeps
    exact h
  clear_value x1
  exact hx1.upd rfl rfl rfl rfl rfl rfl rfl rfl

theorem State.shadowRelease_keeps {r s : State} (h : Keeps r s) : Keeps r s.shadowRelease := by
  unfold State.shadowRelease
  apply State.event_keeps
  exact h.upd rfl rfl rfl rfl rfl rfl rfl rfl

theorem rtcShadowTimeout_keeps {r s : State} (h : Keeps r s) : Keeps r (rtcShadowTimeout s) := by
  unfold rtcShadowTimeout
  exact Keeps.ite (State.shadowRelease_keeps (State.advance_keeps h _)) h

theorem rtcCtrlWrite_keeps {r s : State} (h : Keeps r s) (v : Word) : Keeps r (rtcCtrlWrite v s) := by
  unfold rtcCtrlWrite
  extract_lets x1 x2 x3
  have hx1 : Keeps r x1 := by
    unfold x1
    apply State.modBkp_keeps
    exact h
  clear_value x1
  have hx2 : Keeps r x2 := by
    unfold x2
    apply State.modBkp_keeps
    exact hx1
  clear_value x2
  refine Keeps.ite ?_ ?_
  · apply State.modBkp_keeps
    exact hx1
  · refine Keeps.ite ?_ ?_
    · exact hx2.upd rfl rfl rfl rfl rfl rfl rfl rfl
    · exact hx1

theorem rtcSetFracWrite_keeps {r s : State} (h : Keeps r s) (v : Word) : Keeps r (rtcSetFracWrite v s) := by
  unfold rtcSetFracWrite
  extract_lets x1 x2
  have hx1 : Keeps r x1 := by
    unfold x1
    apply State.modBkp_keeps
    apply State.setReg_keeps
    exact h
  clear_value x1
  refine Keeps.ite ?_ ?_
  · exact hx1.upd rfl rfl rfl rfl rfl rfl rfl rfl
  · exact h

theorem rtcSetSecWrite_keeps {r s : State} (h : Keeps r s) (v : Word) : Keeps r (rtcSetSecWrite v s) := by
  unfold rtcSetSecWrite
  extract_lets x1 x2 x3
  have hx3 : Keeps r x3 := by
    unfold x3
    exact h.upd rfl rfl rfl rfl rfl rfl rfl rfl
  clear_value x3
  refine Keeps.ite ?_ ?_
  · apply State.modBkp_keeps
    apply State.setReg_keeps
    apply State.setReg_keeps
    exact hx3
  · exact hx3

theorem rtcSecondRollover_keeps {r s : State} (h : Keeps r s) : Keeps r (rtcSecondRollover s) := by
  unfold rtcSecondRollover
  extract_lets x1 x2
  have hx1 : Keeps r x1 := by
    unfold x1
    apply State.modBkp_keeps
    exact h
  clear_value x1
  refine Keeps.ite ?_ ?_
  · refine Keeps.ite ?_ ?_
    · exact hx1.upd rfl rfl rfl rfl rfl rfl rfl rfl
    · apply State.event_keeps
      exact hx1.upd rfl rfl rfl rfl rfl rfl rfl rfl
  · apply State.modBkp_keeps
    exact hx1

theorem rtcWakeFire_keeps {r s : State} (h : Keeps r s) : Keeps r (rtcWakeFire s) := by
  unfold rtcWakeFire
  refine Keeps.ite ?_ ?_
  · exact h
  · split
    · apply State.wakeIf_keeps
      apply State.event_keeps
      apply State.modBkp_keeps
      exact h
    · exact h

theorem State.rtcSync_keeps {r s : State} (h : Keeps r s) (sec : Nat) (frac : Nat) (locked : Bool) (src : Nat) : Keeps r (s.rtcSync sec frac locked src) := by
  unfold State.rtcSync
  extract_lets x1 x2 x3 x4 x5 x6
  have hx1 : Keeps r x1 := by
    unfold x1
    apply State.modBkp_keeps
    exact h
  clear_value x1
  have hx4 : Keeps r x4 := by
    unfold x4
    apply State.modBkp_keeps
    exact hx1
  clear_value x4
  have hx6 : Keeps r x6 := by
    unfold x6
    refine Keeps.ite ?_ ?_
    · exact hx1
    · exact hx4.upd rfl rfl rfl rfl rfl rfl rfl rfl
  clear_value x6
  refine Keeps.ite ?_ ?_
  · refine Keeps.ite ?_ ?_
    · apply State.modBkp_keeps
      exact hx6
    · exact hx6
  · exact hx1

/-! ### Manifest.lean -/

theorem State.modRing_keeps {r s : State} (h : Keeps r s) (n : Nat) (f : Ring → Ring) : Keeps r (s.modRing n f) := by
  unfold State.modRing
  extract_lets x1
  exact h.upd rfl rfl rfl rfl rfl rfl rfl rfl

theorem State.ringSettle_keeps {r s : State} (h : Keeps r s) (n : Nat) : Keeps r (s.ringSettle n) := by
  unfold State.ringSettle
  extract_lets x1
  refine Keeps.ite ?_ ?_
  · apply State.modRing_keeps
    exact h
  · exact h

theorem State.dropDelivery_keeps {r s : State} (h : Keeps r s) (n : Nat) (d : Delivery) : Keeps r (s.dropDelivery n d) := by
  unfold State.dropDelivery
  extract_lets x1
  have hx1 : Keeps r x1 := by
    unfold x1
    apply State.event_keeps
    apply State.count_keeps
    apply State.count_keeps
    apply State.modRing_keeps
    exact h
  clear_value x1
  split
  · apply State.count_keeps
    exact hx1
  · apply State.count_keeps
    exact hx1
  · apply State.event_keeps
    apply State.count_keeps
    exact hx1
  · apply State.event_keeps
    apply State.count_keeps
    exact hx1
  · apply State.event_keeps
    exact hx1
  · exact hx1

theorem State.coalDue_keeps {r s : State} (h : Keeps r s) (n : Nat) : Keeps r (s.coalDue n) := by
  unfold State.coalDue
  extract_lets x1 x2
  have hx1 : Keeps r x1 := by
    unfold x1
    apply State.modRing_keeps
    exact h
  clear_value x1
  exact hx1.upd rfl rfl rfl rfl rfl rfl rfl rfl

theorem State.coalSignal_keeps {r s : State} (h : Keeps r s) (n : Nat) : Keeps r (s.coalSignal n) := by
  unfold State.coalSignal
  extract_lets x1 x2
  have hx2 : Keeps r x2 := by
    unfold x2
    apply State.modRing_keeps
    exact h
  clear_value x2
  refine Keeps.ite ?_ ?_
  · apply State.coalDue_keeps
    exact hx2
  · exact hx2

theorem State.writeEntry_keeps {r s : State} (h : Keeps r s) (n : Nat) (kind : Nat) (b1 : Nat) (half : Nat) (tag : Nat) (dataLen : Nat) (at_ : Nat) (d0 : Nat) (detail : List Byte) (data : List Byte) : Keeps r (s.writeEntry n kind b1 half tag dataLen at_ d0 detail data) := by
  unfold State.writeEntry
  extract_lets x1 x2 x3 x4
  have hx4 : Keeps r x4 := by
    unfold x4
    refine Keeps.ite ?_ ?_
    · exact h
    · apply State.emit_keeps
      exact h
  clear_value x4
  apply State.modRing_keeps
  apply State.emit_keeps
  exact hx4

theorem State.finishOne_keeps {r s : State} (h : Keeps r s) (mid : Nat) (status : Nat) (d0 : Nat) (detail : List Byte) : Keeps r (s.finishOne mid status d0 detail) := by
  unfold State.finishOne
  split
  · exact h
  · extract_lets x3 x4 x5
    have hx4 : Keeps r x4 := by
      unfold x4
      refine Keeps.foldl ?_ _ ?_
      · intro y7 y8 y9
        apply State.modRing_keeps
        exact y9
      · exact h
    clear_value x4
    have hx5 : Keeps r x5 := by
      unfold x5
      refine Keeps.ite ?_ ?_
      · apply State.count_keeps
        exact hx4
      · exact hx4
    clear_value x5
    apply State.ringSettle_keeps
    exact hx5

theorem State.finishRaw_keeps {r s : State} (h : Keeps r s) (mid : Nat) (status : Nat) (d0 : Nat) (detail : List Byte) : Keeps r (s.finishRaw mid status d0 detail) := by
  unfold State.finishRaw
  extract_lets x1
  refine Keeps.foldl ?_ _ ?_
  · intro y3 y4 y5
    apply State.finishOne_keeps
    exact y5
  · apply State.finishOne_keeps
    exact h

theorem State.autoComplete_keeps {r : State} (k : Nat) {s : State} (h : Keeps r s) (n : Nat) : Keeps r (State.autoComplete k s n) := by
  induction k generalizing s with
  | zero => exact h
  | succ k ih =>
    unfold State.autoComplete
    refine Keeps.ite ?_ h
    split
    · split
      · exact ih (State.finishRaw_keeps h _ _ _ _)
      · exact h
    · exact h

theorem State.autoAll_keeps {r s : State} (h : Keeps r s) : Keeps r (s.autoAll) := by
  unfold State.autoAll
  refine Keeps.foldl ?_ _ ?_
  · intro y1 y2 y3
    apply State.autoComplete_keeps
    exact y3
  · exact h

theorem State.finish_keeps {r s : State} (h : Keeps r s) (mid : Nat) (status : Nat) (d0 : Nat) (detail : List Byte) : Keeps r (s.finish mid status d0 detail) := by
  unfold State.finish
  apply State.autoAll_keeps
  apply State.finishRaw_keeps
  exact h

theorem State.finish0_keeps {r s : State} (h : Keeps r s) (mid : Nat) (status : Nat) : Keeps r (s.finish0 mid status) := by
  unfold State.finish0
  apply State.finish_keeps
  exact h

theorem State.finishOpt_keeps {r s : State} (h : Keeps r s) (mid : Option Nat) (status : Nat) (d0 : Nat) (detail : List Byte) : Keeps r (s.finishOpt mid status d0 detail) := by
  unfold State.finishOpt
  split
  · apply State.finish_keeps
    exact h
  · exact h

theorem State.start_keeps {r s : State} (h : Keeps r s) (n : Nat) (mid : Nat) : Keeps r (s.start n mid) := by
  unfold State.start
  apply State.modRing_keeps
  exact h

theorem State.runManifest_keeps {r s : State} (h : Keeps r s) (n : Nat) (op : Nat) (f : Nat → List Byte → State → State) (hf : ∀ b0 b1 b2, Keeps r b2 → Keeps r (f b0 b1 b2)) : Keeps r (s.runManifest n op f) := by
  unfold State.runManifest
  refine Keeps.ite ?_ ?_
  · split
    · refine Keeps.ite ?_ ?_
      · apply hf
        apply State.start_keeps
        exact h
      · exact h
    · exact h
  · exact h

theorem withBuf_keeps {r s : State} (h : Keeps r s) (mid : Nat) (buf : Option (List Byte)) (f : List Byte → State) (hf : ∀ b0, Keeps r (f b0)) : Keeps r (withBuf s mid buf f) := by
  unfold withBuf
  split
  · apply State.finish0_keeps
    exact h
  · apply hf

theorem State.ringError_keeps {r s : State} (h : Keeps r s) (n : Nat) (code : Nat) : Keeps r (s.ringError n code) := by
  unfold State.ringError
  extract_lets x1 x2
  have hx2 : Keeps r x2 := by
    unfold x2
    apply State.modRing_keeps
    exact h
  clear_value x2
  apply State.ringSettle_keeps
  refine Keeps.foldl ?_ _ ?_
  · intro y7 y8 y9
    apply State.dropDelivery_keeps
    exact y9
  · exact hx2

theorem State.writeDelivery_keeps {r s : State} (h : Keeps r s) (n : Nat) (d : Delivery) : Keeps r (s.writeDelivery n d) := by
  unfold State.writeDelivery
  extract_lets x1 x2
  have hx2 : Keeps r x2 := by
    unfold x2
    apply State.modRing_keeps
    apply State.writeEntry_keeps
    exact h
  clear_value x2
  apply State.coalSignal_keeps
  apply State.count_keeps
  apply State.count_keeps
  exact hx2

theorem State.placeWaiting_keeps {r : State} (k : Nat) {s : State} (h : Keeps r s) (n : Nat) : Keeps r (State.placeWaiting k s n) := by
  induction k generalizing s with
  | zero => exact h
  | succ k ih =>
    unfold State.placeWaiting
    split
    · exact h
    · exact Keeps.ite (ih (State.writeDelivery_keeps (State.modRing_keeps h _ _) _ _)) h

/-! ### Hif.lean -/

theorem State.flashFail_keeps {r s : State} (h : Keeps r s) : Keeps r (s.flashFail) := by
  unfold State.flashFail
  apply State.report_keeps
  apply State.event_keeps
  exact h

theorem State.setAct_keeps {r s : State} (h : Keeps r s) (n : Nat) (mid : Nat) (a : LongAct) : Keeps r (s.setAct n mid a) := by
  unfold State.setAct
  apply State.modRing_keeps
  exact h


theorem State.cfgSaveEnd_keeps {r s : State} (h : Keeps r s) (mid : Nat) (b : List Byte) (set : CfgSet) (imageId : Word) (ok : Bool) : Keeps r (s.cfgSaveEnd mid b set imageId ok) := by
  unfold State.cfgSaveEnd
  extract_lets x1 x2 x3
  refine Keeps.ite ?_ ?_
  · apply State.finish_keeps
    exact h.upd rfl rfl rfl rfl rfl rfl rfl rfl
  · apply State.finish0_keeps
    apply State.flashFail_keeps
    exact h.upd rfl rfl rfl rfl rfl rfl rfl rfl

theorem State.cfgReadEnd_keeps {r s : State} (h : Keeps r s) (mid : Nat) (b : List Byte) (img : List Byte) (ok : Bool) : Keeps r (s.cfgReadEnd mid b img ok) := by
  unfold State.cfgReadEnd
  refine Keeps.ite ?_ ?_
  · apply State.finish_keeps
    apply State.emit_keeps
    exact h
  · apply State.finish0_keeps
    exact h

theorem State.mtrReadEnd_keeps {r s : State} (h : Keeps r s) (mid : Nat) (b : List Byte) (ok : Bool) :
    Keeps r (s.mtrReadEnd mid b ok) := by
  unfold State.mtrReadEnd
  exact Keeps.ite (State.finish_keeps (Keeps.ite h (State.emit_keeps h _)) _ _ _ _) (State.finish0_keeps h _ _)

theorem State.fwStageEnd_keeps {r s : State} (h : Keeps r s) (mid : Nat) (b img : List Byte) (sigOk ok : Bool) (ver : Word) :
    Keeps r (s.fwStageEnd mid b img sigOk ok ver) := by
  unfold State.fwStageEnd
  extract_lets put
  have hp : ∀ v, Keeps r (put v) := fun v => h.upd rfl rfl rfl rfl rfl rfl rfl rfl
  exact Keeps.ite (State.finish0_keeps (State.flashFail_keeps (hp _)) _ _)
    (Keeps.ite (State.finish_keeps (hp _) _ _ _ _) (State.finish0_keeps (hp _) _ _))

theorem State.actEnd_keeps {r s : State} (h : Keeps r s) (f : Fetched) : Keeps r (s.actEnd f) := by
  unfold State.actEnd
  split
  · apply State.cfgSaveEnd_keeps
    exact h
  · apply State.cfgReadEnd_keeps
    exact h
  · apply State.mtrReadEnd_keeps
    exact h
  · apply State.fwStageEnd_keeps
    exact h
  · exact h

theorem State.actNext_keeps {r s : State} (h : Keeps r s) (n : Nat) : Keeps r (s.actNext n) := by
  unfold State.actNext
  split
  · exact State.actEnd_keeps h _
  · exact h

theorem State.actAll_keeps {r s : State} (h : Keeps r s) : Keeps r s.actAll :=
  Keeps.foldl (fun _ _ hx => Keeps.foldl (fun _ _ hy => State.actEnd_keeps hy _) _ hx) _ h

theorem State.actAbort_keeps {r s : State} (h : Keeps r s) (f : Fetched) : Keeps r (s.actAbort f).1 := by
  unfold State.actAbort
  extract_lets x1 x2 x3
  split
  · dsimp only
    exact h.upd rfl rfl rfl rfl rfl rfl rfl rfl
  · dsimp only
    exact h.upd rfl rfl rfl rfl rfl rfl rfl rfl
  · dsimp only
    refine Keeps.ite ?_ ?_
    · apply State.freshNext_keeps
      exact h
    · apply State.emit_keeps
      apply State.freshNext_keeps
      exact h
  · dsimp only
    refine Keeps.ite ?_ ?_
    · apply State.freshNext_keeps
      exact h
    · apply State.emit_keeps
      apply State.freshNext_keeps
      exact h
  · dsimp only
    exact h

/-- A reset of the HIF block. -/
theorem hifReset_keeps {r s : State} (h : Keeps r s) (kind : Nat) : Keeps r (hifReset kind s) := by
  unfold hifReset
  extract_lets x1
  have hx1 : Keeps r x1 := State.actAll_keeps h
  clear_value x1
  refine Keeps.ite (State.event_keeps ?_ _ _) ?_ <;>
    exact { pending := hx1.pending, variant := hx1.variant, dramGiB := hx1.dramGiB, closed := hx1.closed, fresh := hx1.fresh,
            out := hx1.out, regs := fun w => mapWf_filter (hx1.regs w) _, dram := hx1.dram }

theorem bmeChange_keeps {r s : State} (h : Keeps r s) (on : Bool) : Keeps r (bmeChange on s) := by
  unfold bmeChange
  extract_lets x1 x2 x3
  have hx3 : Keeps r x3 := by
    unfold x3
    exact h.upd rfl rfl rfl rfl rfl rfl rfl rfl
  clear_value x3
  refine Keeps.ite ?_ ?_
  · exact hx3
  · refine Keeps.foldl ?_ _ ?_
    · intro y8 y9 y10
      extract_lets x12
      refine Keeps.foldl ?_ _ ?_
      · intro y14 y15 y16
        apply State.dropDelivery_keeps
        exact y16
      · apply State.modRing_keeps
        exact y10
    · exact hx3

theorem linkStateChange_keeps {r s : State} (h : Keeps r s) (speed : Nat) (width : Nat) (l1 : Bool) : Keeps r (linkStateChange speed width l1 s) := by
  unfold linkStateChange
  extract_lets x1 x2 x3
  exact h.upd rfl rfl rfl rfl rfl rfl rfl rfl

theorem ringCtrlWrite_keeps {r s : State} (h : Keeps r s) (n : Nat) (v : Word) : Keeps r (ringCtrlWrite n v s) := by
  unfold ringCtrlWrite
  extract_lets x1 x2 x3 x4 x5 x6
  have hx2 : Keeps r x2 := by
    unfold x2
    apply State.setReg_keeps
    exact h
  clear_value x2
  have hx4 : Keeps r x4 := by
    unfold x4
    apply State.modRing_keeps
    apply State.setFld_keeps
    exact h
  clear_value x4
  have hx6 : Keeps r x6 := by
    unfold x6
    refine Keeps.foldl ?_ _ ?_
    · intro y13 y14 y15
      apply State.dropDelivery_keeps
      exact y15
    · apply State.modRing_keeps
      exact hx4
  clear_value x6
  refine Keeps.ite ?_ ?_
  · exact h
  · split
    · refine Keeps.ite ?_ ?_
      · refine Keeps.ite ?_ ?_
        · apply State.modRing_keeps
          apply State.setReg_keeps
          exact hx2
        · apply State.modRing_keeps
          exact hx2
      · exact hx2
    · refine Keeps.ite ?_ ?_
      · exact h
      · apply State.ringSettle_keeps
        refine Keeps.foldl ?_ _ ?_
        · intro y35 y36 y37
          apply State.finishRaw_keeps
          exact y37
        · exact hx6
    · exact h
    · refine Keeps.ite ?_ ?_
      · exact h
      · apply State.ringSettle_keeps
        apply State.setFld_keeps
        exact h

theorem State.dbError_keeps {r s : State} (h : Keeps r s) : Keeps r (s.dbError) := by
  unfold State.dbError
  apply State.event_keeps
  apply State.count_keeps
  exact h

theorem sqTailDoorbell_keeps {r s : State} (h : Keeps r s) (n : Nat) (v : Word) : Keeps r (sqTailDoorbell n v s) := by
  unfold sqTailDoorbell
  extract_lets x1
  refine Keeps.ite ?_ ?_
  · exact h
  · refine Keeps.ite ?_ ?_
    · apply State.dbError_keeps
      exact h
    · refine Keeps.ite ?_ ?_
      · apply State.dbError_keeps
        apply State.ringError_keeps
        exact h
      · apply State.modRing_keeps
        exact h

theorem cqHeadDoorbell_keeps {r s : State} (h : Keeps r s) (n : Nat) (v : Word) : Keeps r (cqHeadDoorbell n v s) := by
  unfold cqHeadDoorbell
  extract_lets x1 x2 x3 x4
  have hx4 : Keeps r x4 := by
    unfold x4
    apply State.modRing_keeps
    exact h
  clear_value x4
  refine Keeps.ite ?_ ?_
  · exact h
  · refine Keeps.ite ?_ ?_
    · apply State.dbError_keeps
      exact h
    · refine Keeps.ite ?_ ?_
      · apply State.dbError_keeps
        apply State.ringError_keeps
        exact h
      · apply State.placeWaiting_keeps
        exact hx4

theorem manifestFetch_keeps {r s : State} (h : Keeps r s) (n : Nat) (bytes : List Byte) : Keeps r (manifestFetch n bytes s) := by
  unfold manifestFetch
  extract_lets x2 x3 x4
  have hx2 : Keeps r x2 := by
    unfold x2
    apply State.modRing_keeps
    exact h
  clear_value x2
  have hx4 : Keeps r x4 := by
    unfold x4
    exact hx2.upd rfl rfl rfl rfl rfl rfl rfl rfl
  clear_value x4
  refine Keeps.ite ?_ ?_
  · apply State.autoAll_keeps
    apply State.count_keeps
    apply State.count_keeps
    exact hx4
  · exact h

theorem manifestComplete_keeps {r s : State} (h : Keeps r s) (n : Nat) : Keeps r (manifestComplete n s) := by
  unfold manifestComplete
  extract_lets x1 x2
  have hx1 : Keeps r x1 := by
    unfold x1
    refine Keeps.ite ?_ ?_
    · apply State.actNext_keeps
      exact h
    · exact h
  clear_value x1
  refine Keeps.ite ?_ ?_
  · split
    · exact hx1
    · extract_lets x3 x4
      have hx3 : Keeps r x3 := by
        unfold x3
        apply State.writeEntry_keeps
        apply State.modRing_keeps
        exact hx1
      clear_value x3
      have hx4 : Keeps r x4 := by
        unfold x4
        apply State.ringSettle_keeps
        apply State.count_keeps
        exact hx3
      clear_value x4
      refine Keeps.ite ?_ ?_
      · apply State.coalSignal_keeps
        exact hx4
      · exact hx4
  · exact hx1

theorem hostDmaError_keeps {r s : State} (h : Keeps r s) (n : Nat) : Keeps r (hostDmaError n s) := by
  unfold hostDmaError
  extract_lets x1 x2 x3 x4
  have hx1 : Keeps r x1 := by
    unfold x1
    apply State.event_keeps
    apply State.count_keeps
    apply State.ringError_keeps
    exact h
  clear_value x1
  have hx2 : Keeps r x2 := by
    unfold x2
    apply State.freshNext_keeps
    exact hx1
  clear_value x2
  refine Keeps.ite ?_ ?_
  · exact hx2.upd rfl rfl rfl rfl rfl rfl rfl rfl
  · exact h

theorem deliveryTake_keeps {r s : State} (h : Keeps r s) : Keeps r (deliveryTake s) := by
  unfold deliveryTake
  extract_lets x1
  split
  · exact h
  · extract_lets x5 x6 x7
    have hx5 : Keeps r x5 := by
      unfold x5
      exact h.upd rfl rfl rfl rfl rfl rfl rfl rfl
    refine Keeps.ite ?_ ?_
    · apply State.dropDelivery_keeps
      exact hx5
    · refine Keeps.ite ?_ ?_
      · apply State.dropDelivery_keeps
        apply State.count_keeps
        exact hx5
      · refine Keeps.ite ?_ ?_
        · apply State.writeDelivery_keeps
          exact hx5
        · refine Keeps.ite ?_ ?_
          · apply State.dropDelivery_keeps
            exact hx5
          · apply State.modRing_keeps
            exact hx5

theorem deliveryTimeout_keeps {r s : State} (h : Keeps r s) (n : Nat) : Keeps r (deliveryTimeout n s) := by
  unfold deliveryTimeout
  split
  · exact h
  · apply State.dropDelivery_keeps
    apply State.modRing_keeps
    apply State.advance_keeps
    exact h

theorem coalesceTimer_keeps {r s : State} (h : Keeps r s) (n : Nat) : Keeps r (coalesceTimer n s) := by
  unfold coalesceTimer
  extract_lets x1
  refine Keeps.ite ?_ ?_
  · apply State.coalDue_keeps
    apply State.advance_keeps
    exact h
  · exact h

theorem manNop_keeps {r s : State} (h : Keeps r s) (n : Nat) : Keeps r (manNop n s) := by
  unfold manNop
  apply State.runManifest_keeps
  · exact h
  · intro y2 y3 y4 y5
    apply State.finish0_keeps
    exact y5

/-! ### Cfg.lean -/

theorem State.builtShadow_keeps {r s : State} (h : Keeps r s) (mid : Nat) (set : CfgSet) (skipped : Nat) : Keeps r (s.builtShadow mid set skipped) := by
  unfold State.builtShadow
  extract_lets x1 x2
  have hx2 : Keeps r x2 := by
    unfold x2
    exact h.upd rfl rfl rfl rfl rfl rfl rfl rfl
  clear_value x2
  apply State.finish_keeps
  exact hx2

theorem State.loadImage_keeps {r s : State} (h : Keeps r s) (mid : Nat) (merge : Bool) (img : List Byte) : Keeps r (s.loadImage mid merge img) := by
  unfold State.loadImage
  extract_lets x1
  split
  · apply State.finish0_keeps
    exact h
  · split
    · apply State.finish0_keeps
      exact h
    · apply State.builtShadow_keeps
      exact h.upd rfl rfl rfl rfl rfl rfl rfl rfl

theorem manCfgLoad_keeps {r s : State} (h : Keeps r s) (n : Nat) (buf : Option (List Byte)) : Keeps r (manCfgLoad n buf s) := by
  unfold manCfgLoad
  apply State.runManifest_keeps
  · exact h
  · intro y2 y3 y4 y5
    extract_lets x7
    refine Keeps.ite ?_ ?_
    · apply State.finish0_keeps
      exact y5
    · refine Keeps.ite ?_ ?_
      · split
        · refine Keeps.ite ?_ ?_
          · apply State.builtShadow_keeps
            exact y5.upd rfl rfl rfl rfl rfl rfl rfl rfl
          · apply State.finish0_keeps
            exact y5
        · apply State.finish0_keeps
          exact y5
      · apply withBuf_keeps
        · exact y5
        · intro y22
          apply State.loadImage_keeps
          exact y5

theorem manCfgWrite_keeps {r s : State} (h : Keeps r s) (n : Nat) (buf : Option (List Byte)) : Keeps r (manCfgWrite n buf s) := by
  unfold manCfgWrite
  apply State.runManifest_keeps
  · exact h
  · intro y2 y3 y4 y5
    extract_lets x7
    refine Keeps.ite ?_ ?_
    · apply State.finish0_keeps
      exact y5
    · apply withBuf_keeps
      · exact y5
      · intro y13
        refine Keeps.ite ?_ ?_
        · apply State.builtShadow_keeps
          exact y5
        · split
          · apply State.builtShadow_keeps
            exact y5
          · apply State.finish0_keeps
            exact y5

theorem manCfgCopy_keeps {r s : State} (h : Keeps r s) (n : Nat) : Keeps r (manCfgCopy n s) := by
  unfold manCfgCopy
  apply State.runManifest_keeps
  · exact h
  · intro y2 y3 y4 y5
    refine Keeps.ite ?_ ?_
    · apply State.finish0_keeps
      exact y5
    · apply State.builtShadow_keeps
      exact y5

theorem cfgSwinWrite_keeps {r s : State} (h : Keeps r s) (v : Word) : Keeps r (cfgSwinWrite v s) := by
  unfold cfgSwinWrite
  extract_lets x1 x2 x3 x4 x5
  have hx4 : Keeps r x4 := by
    unfold x4
    apply State.setFld_keeps
    exact h
  clear_value x4
  refine Keeps.ite ?_ ?_
  · apply State.event_keeps
    exact hx4
  · refine Keeps.ite ?_ ?_
    · exact hx4
    · refine Keeps.ite ?_ ?_
      · exact hx4.upd rfl rfl rfl rfl rfl rfl rfl rfl
      · exact hx4

theorem State.acceptCommit_keeps {r s : State} (h : Keeps r s) (c : Commit) : Keeps r (s.acceptCommit c) := by
  unfold State.acceptCommit
  extract_lets x1 x2 x3
  have hx2 : Keeps r x2 := by
    unfold x2
    exact h.upd rfl rfl rfl rfl rfl rfl rfl rfl
  clear_value x2
  refine Keeps.ite ?_ ?_
  · exact hx2.upd rfl rfl rfl rfl rfl rfl rfl rfl
  · exact hx2

theorem manCommit_keeps {r s : State} (h : Keeps r s) (n : Nat) : Keeps r (manCommit n s) := by
  unfold manCommit
  apply State.runManifest_keeps
  · exact h
  · intro y1 y2 y3 y4
    extract_lets x5
    refine Keeps.ite ?_ ?_
    · apply State.finish0_keeps
      exact y4.upd rfl rfl rfl rfl rfl rfl rfl rfl
    · refine Keeps.ite ?_ ?_
      · apply State.finish0_keeps
        exact y4
      · refine Keeps.ite ?_ ?_
        · apply State.finish0_keeps
          exact y4
        · apply State.acceptCommit_keeps
          exact y4

theorem State.dropCommit_keeps {r s : State} (h : Keeps r s) : Keeps r (s.dropCommit) := by
  unfold State.dropCommit
  extract_lets x1 x2 x3 x4 x5
  have hx4 : Keeps r x4 := by
    unfold x4
    exact h.upd rfl rfl rfl rfl rfl rfl rfl rfl
  clear_value x4
  split
  · exact h
  · refine Keeps.ite ?_ ?_
    · exact hx4.upd rfl rfl rfl rfl rfl rfl rfl rfl
    · exact hx4

theorem manCfgSave_keeps {r s : State} (h : Keeps r s) (n : Nat) (ok : Bool) : Keeps r (manCfgSave n ok s) := by
  unfold manCfgSave
  apply State.runManifest_keeps
  · exact h
  · intro y1 y2 y3 y4
    extract_lets x5 x6
    apply State.setAct_keeps
    exact y4.upd rfl rfl rfl rfl rfl rfl rfl rfl

theorem manCfgRead_keeps {r s : State} (h : Keeps r s) (n : Nat) (ok : Bool) : Keeps r (manCfgRead n ok s) := by
  unfold manCfgRead
  apply State.runManifest_keeps
  · exact h
  · intro y1 y2 y3 y4
    extract_lets x5
    refine Keeps.ite ?_ ?_
    · apply State.finish_keeps
      exact y4
    · apply State.setAct_keeps
      exact y4

theorem manFwStage_keeps {r s : State} (h : Keeps r s) (n : Nat) (buf : Option (List Byte)) (sigOk : Bool) (ok : Bool) (ver : Word) : Keeps r (manFwStage n buf sigOk ok ver s) := by
  unfold manFwStage
  apply State.runManifest_keeps
  · exact h
  · intro y1 y2 y3 y4
    extract_lets x5 x6
    refine Keeps.ite ?_ ?_
    · apply State.finish0_keeps
      exact y4
    · apply withBuf_keeps
      · exact y4
      · intro y7
        apply State.setAct_keeps
        exact y4

theorem manSubsysSet_keeps {r s : State} (h : Keeps r s) (n : Nat) (ok : Bool) : Keeps r (manSubsysSet n ok s) := by
  unfold manSubsysSet
  apply State.runManifest_keeps
  · exact h
  · intro y2 y3 y4 y5
    extract_lets x7
    refine Keeps.ite ?_ ?_
    · apply State.finish0_keeps
      exact y5.upd rfl rfl rfl rfl rfl rfl rfl rfl
    · apply State.finish0_keeps
      apply State.flashFail_keeps
      exact y5

theorem manAbort_keeps {r s : State} (h : Keeps r s) (n : Nat) : Keeps r (manAbort n s) := by
  unfold manAbort
  apply State.runManifest_keeps
  · exact h
  · intro y1 y2 y3 y4
    extract_lets x5 x6
    split
    · extract_lets x7 x8 x9
      have hx8 : Keeps r x8 := by
        unfold x8
        exact y4.upd rfl rfl rfl rfl rfl rfl rfl rfl
      clear_value x8
      have hx9 : Keeps r x9.fst := by
        unfold x9
        apply State.actAbort_keeps
        exact y4
      clear_value x9
      refine Keeps.ite ?_ ?_
      · apply State.finish0_keeps
        exact y4
      · refine Keeps.ite ?_ ?_
        · apply State.finish0_keeps
          apply State.finish0_keeps
          exact y4
        · refine Keeps.ite ?_ ?_
          · apply State.finish0_keeps
            apply State.finish0_keeps
            apply State.dropCommit_keeps
            exact y4
          · refine Keeps.ite ?_ ?_
            · apply State.finish0_keeps
              apply State.finish_keeps
              exact hx8
            · refine Keeps.ite ?_ ?_
              · apply State.finish0_keeps
                apply State.finish_keeps
                exact hx9
              · apply State.modRing_keeps
                exact y4
    · apply State.finish0_keeps
      exact y4

/-! ### KeyStore.lean -/

theorem State.keyUseErr_keeps {r s : State} (h : Keeps r s) : Keeps r (s.keyUseErr) := by
  unfold State.keyUseErr
  apply State.event_keeps
  apply State.count_keeps
  exact h

theorem State.cryptoStart_keeps {r s s' : State} (h : Keeps r s) {o : CryptoOp} (e : s.cryptoStart o = some s') : Keeps r s' := by
  unfold State.cryptoStart at e
  split at e
  · split at e
    · cases e
      apply State.leaseTake_keeps
      exact h.upd rfl rfl rfl rfl rfl rfl rfl rfl
    · cases e
  · cases e

theorem State.requestSign_keeps {r s : State} (h : Keeps r s) (use : CryptoUse) (slot : Nat) (msg : List Byte) :
    Keeps r (s.requestSign use slot msg).1 := by
  unfold State.requestSign
  extract_lets waits key
  clear_value key
  refine Keeps.iteFst ?_ (State.keyUseErr_keeps h)
  split
  next e => exact State.cryptoStart_keeps h e
  · exact State.count_keeps h _

theorem State.requestVerify_keeps {r s : State} (h : Keeps r s) (use : CryptoUse) (slot : Nat) (msg sig : List Byte) :
    Keeps r (s.requestVerify use slot msg sig).1 := by
  unfold State.requestVerify
  split
  next e => exact State.cryptoStart_keeps h e
  · exact State.count_keeps h _

theorem keyNonceRead_keeps {r s : State} (h : Keeps r s) : Keeps r (keyNonceRead s) := by
  unfold keyNonceRead
  extract_lets x1 x2 x3
  have hx3 : Keeps r x3 := by
    unfold x3
    apply State.freshNext_keeps
    exact h
  clear_value x3
  refine Keeps.ite ?_ ?_
  · exact h.upd rfl rfl rfl rfl rfl rfl rfl rfl
  · exact hx3.upd rfl rfl rfl rfl rfl rfl rfl rfl

theorem State.voidKeyNonce_keeps {r s : State} (h : Keeps r s) : Keeps r (s.voidKeyNonce) := by
  unfold State.voidKeyNonce
  extract_lets x1
  exact h.upd rfl rfl rfl rfl rfl rfl rfl rfl

theorem State.deriveStart_keeps {r s : State} (h : Keeps r s) (slot : Nat) : Keeps r (s.deriveStart slot) := by
  unfold State.deriveStart
  extract_lets x1
  refine Keeps.ite ?_ ?_
  · exact h.upd rfl rfl rfl rfl rfl rfl rfl rfl
  · exact h

theorem keyDeriveDone_keeps {r s : State} (h : Keeps r s) (slot : Nat) : Keeps r (keyDeriveDone slot s) := by
  unfold keyDeriveDone
  extract_lets x1 x2 x3 x4 x5 x6
  have hx6 : Keeps r x6 := by
    unfold x6
    apply State.count_keeps
    exact h.upd rfl rfl rfl rfl rfl rfl rfl rfl
  clear_value x6
  refine Keeps.ite ?_ ?_
  · exact h
  · refine Keeps.ite ?_ ?_
    · refine Keeps.ite ?_ ?_
      · apply State.event_keeps
        exact hx6
      · exact hx6
    · apply State.count_keeps
      exact h.upd rfl rfl rfl rfl rfl rfl rfl rfl

theorem State.keyRestore_keeps {r s : State} (h : Keeps r s) : Keeps r (s.keyRestore) := by
  unfold State.keyRestore
  extract_lets x1
  refine Keeps.ite ?_ ?_
  · exact h.upd rfl rfl rfl rfl rfl rfl rfl rfl
  · apply State.event_keeps
    exact h.upd rfl rfl rfl rfl rfl rfl rfl rfl

theorem State.leaseNow_keeps {r s s' : State} (h : Keeps r s) {p n o : Nat} (e : s.leaseNow p n o = some s') : Keeps r s' := by
  unfold State.leaseNow at e
  split at e
  · split at e
    · cases e
      exact State.leaseReturn_keeps (State.leaseTake_keeps h _ _ _) _ _
    · cases e
  · cases e

theorem State.cryptoNow_keeps {r s s' : State} (h : Keeps r s) {o : Nat} (e : s.cryptoNow o = some s') : Keeps r s' :=
  State.leaseNow_keeps h e

theorem State.keyChange_keeps {r s : State} (h : Keeps r s) (mid : Nat) (slot : Nat) (new : KeySlot) (close : Bool) :
    Keeps r (s.keyChange mid slot new close) := by
  unfold State.keyChange
  split
  · exact State.finish0_keeps (State.count_keeps h _) _ _
  next e => exact (State.cryptoNow_keeps h e).upd rfl rfl rfl rfl rfl rfl rfl rfl

theorem manKeyWrite_keeps {r s : State} (h : Keeps r s) (n : Nat) (buf : Option (List Byte)) : Keeps r (manKeyWrite n buf s) := by
  unfold manKeyWrite
  refine Keeps.ite ?_ ?_
  · exact h
  · apply State.runManifest_keeps
    · exact h
    · intro y1 y2 y3 y4
      extract_lets x5 x6
      refine Keeps.ite ?_ ?_
      · apply State.finish0_keeps
        exact y4
      · refine Keeps.ite ?_ ?_
        · apply State.finish0_keeps
          exact y4
        · refine Keeps.ite ?_ ?_
          · apply State.finish0_keeps
            exact y4
          · apply withBuf_keeps
            · exact y4
            · intro y7
              extract_lets x8
              refine Keeps.ite ?_ ?_
              · apply State.keyChange_keeps
                exact y4
              · apply State.finish0_keeps
                exact y4

theorem manKeyReplace_keeps {r s : State} (h : Keeps r s) (n : Nat) (buf : Option (List Byte)) : Keeps r (manKeyReplace n buf s) := by
  unfold manKeyReplace
  refine Keeps.ite ?_ ?_
  · exact h
  · apply State.runManifest_keeps
    · exact h
    · intro y1 y2 y3 y4
      extract_lets x5 x6 x7
      have hx7 : Keeps r x7 := by
        unfold x7
        apply State.voidKeyNonce_keeps
        exact y4
      clear_value x7
      refine Keeps.ite ?_ ?_
      · apply State.finish0_keeps
        exact y4
      · refine Keeps.ite ?_ ?_
        · apply State.finish0_keeps
          exact y4
        · refine Keeps.ite ?_ ?_
          · apply State.finish0_keeps
            exact y4
          · apply withBuf_keeps
            · exact y4
            · intro y8
              extract_lets x9
              refine Keeps.ite ?_ ?_
              · apply State.finish0_keeps
                exact y4
              · split
                · apply State.finish0_keeps
                  apply State.voidKeyNonce_keeps
                  exact y4
                · extract_lets x10
                  have hx10 : Keeps r x10.fst := by
                    unfold x10
                    apply State.requestVerify_keeps
                    exact hx7
                  clear_value x10
                  refine Keeps.ite ?_ ?_
                  · apply State.finish0_keeps
                    apply State.event_keeps
                    apply State.keyUseErr_keeps
                    exact hx7
                  · refine Keeps.ite ?_ ?_
                    · exact hx10
                    · apply State.finish0_keeps
                      exact hx10

theorem manKeyErase_keeps {r s : State} (h : Keeps r s) (n : Nat) : Keeps r (manKeyErase n s) := by
  unfold manKeyErase
  refine Keeps.ite ?_ ?_
  · exact h
  · apply State.runManifest_keeps
    · exact h
    · intro y4 y5 y6 y7
      extract_lets x9
      refine Keeps.ite ?_ ?_
      · apply State.finish0_keeps
        exact y7
      · apply State.keyChange_keeps
        exact y7

theorem manKeyPubkey_keeps {r s : State} (h : Keeps r s) (n : Nat) (ok : Bool) : Keeps r (manKeyPubkey n ok s) := by
  unfold manKeyPubkey
  apply State.runManifest_keeps
  · exact h
  · intro y1 y2 y3 y4
    extract_lets x5 x6
    refine Keeps.ite ?_ ?_
    · apply State.finish0_keeps
      exact y4
    · refine Keeps.ite ?_ ?_
      · refine Keeps.ite ?_ ?_
        · unfold x6
          refine Keeps.ite ?_ ?_
          · apply State.finish0_keeps
            exact y4
          · refine Keeps.ite ?_ ?_
            · apply State.finish_keeps
              apply State.emit_keeps
              exact y4
            · apply State.finish0_keeps
              exact y4
        · apply State.finish0_keeps
          exact y4
      · refine Keeps.ite ?_ ?_
        · refine Keeps.ite ?_ ?_
          · apply State.finish0_keeps
            exact y4
          · unfold x6
            refine Keeps.ite ?_ ?_
            · apply State.finish0_keeps
              exact y4
            · refine Keeps.ite ?_ ?_
              · apply State.finish_keeps
                apply State.emit_keeps
                exact y4
              · apply State.finish0_keeps
                exact y4
        · apply State.finish0_keeps
          exact y4

theorem manKeyClose_keeps {r s : State} (h : Keeps r s) (n : Nat) : Keeps r (manKeyClose n s) := by
  unfold manKeyClose
  refine Keeps.ite ?_ ?_
  · exact h
  · apply State.runManifest_keeps
    · exact h
    · intro y4 y5 y6 y7
      extract_lets x9
      refine Keeps.ite ?_ ?_
      · apply State.finish0_keeps
        exact y7
      · refine Keeps.ite ?_ ?_
        · apply State.finish0_keeps
          exact y7
        · refine Keeps.ite ?_ ?_
          · apply State.finish0_keeps
            exact y7
          · refine Keeps.ite ?_ ?_
            · apply State.finish0_keeps
              exact y7
            · apply State.keyChange_keeps
              exact y7

theorem keyStoreWriteDone_keeps {r s : State} (h : Keeps r s) (ok : Bool) : Keeps r (keyStoreWriteDone ok s) := by
  unfold keyStoreWriteDone
  split
  · exact h
  · refine Keeps.ite ?_ ?_
    · apply State.finishOpt_keeps
      apply State.count_keeps
      apply State.event_keeps
      exact { pending := h.pending, variant := h.variant, dramGiB := h.dramGiB, closed := fun c => by simp [h.closed c],
              fresh := h.fresh, out := h.out, regs := h.regs, dram := h.dram }
    · apply State.finishOpt_keeps
      apply State.flashFail_keeps
      exact h.upd rfl rfl rfl rfl rfl rfl rfl rfl

theorem manMtrReset_keeps {r s : State} (h : Keeps r s) (n : Nat) (buf : Option (List Byte)) : Keeps r (manMtrReset n buf s) := by
  unfold manMtrReset
  apply State.runManifest_keeps
  · exact h
  · intro y2 y3 y4 y5
    extract_lets x7 x8 x9
    have hx8 : Keeps r x8 := by
      unfold x8
      apply State.voidKeyNonce_keeps
      exact y5
    clear_value x8
    refine Keeps.ite ?_ ?_
    · apply State.finish0_keeps
      exact y5
    · apply withBuf_keeps
      · exact y5
      · intro y17
        split
        · apply State.finish0_keeps
          apply State.voidKeyNonce_keeps
          exact y5
        · extract_lets x23
          have hx23 : Keeps r x23.1 := by
            unfold x23
            apply State.requestVerify_keeps
            exact hx8
          clear_value x23
          refine Keeps.ite ?_ ?_
          · apply State.finish0_keeps
            exact hx8
          · refine Keeps.ite ?_ ?_
            · apply State.finish0_keeps
              apply State.event_keeps
              apply State.keyUseErr_keeps
              exact hx8
            · refine Keeps.ite ?_ ?_
              · exact hx23
              · apply State.finish0_keeps
                exact hx23

/-! ### Log.lean -/

theorem State.modLog_keeps {r s : State} (h : Keeps r s) (f : Logb → Logb) : Keeps r (s.modLog f) := by
  unfold State.modLog
  exact h.upd rfl rfl rfl rfl rfl rfl rfl rfl

theorem State.logPut_keeps {r s : State} (h : Keeps r s) (a1 : LogRec) : Keeps r (s.logPut a1) := by
  unfold State.logPut
  extract_lets x1 x2 x3 x4 x5
  have hx4 : Keeps r x4 := by
    unfold x4
    exact h.upd rfl rfl rfl rfl rfl rfl rfl rfl
  clear_value x4
  have hx5 : Keeps r x5 := by
    unfold x5
    refine Keeps.ite ?_ ?_
    · apply State.dramWrite_keeps
      exact hx4
    · exact hx4
  clear_value x5
  exact hx5

theorem State.logHash_keeps {r s : State} (h : Keeps r s) : Keeps r (s.logHash) := by
  unfold State.logHash
  unfold Option.getD
  split
  · rename_i z1 z2 z3
    refine State.cryptoNow_keeps ?_ z3
    exact h
  · exact h

theorem State.logRepeat_keeps {r s : State} (h : Keeps r s) (e : LogRaise) : Keeps r (s.logRepeat e) := by
  unfold State.logRepeat
  split
  · exact h
  · extract_lets x1 x2 x3 x4 x5 x6
    have hx6 : Keeps r x6 := by
      unfold x6
      apply State.logPut_keeps
      apply State.logHash_keeps
      exact h
    clear_value x6
    apply State.finishOpt_keeps
    apply State.count_keeps
    apply State.modLog_keeps
    exact hx6

theorem logEventTake_keeps {r s : State} (h : Keeps r s) : Keeps r (logEventTake s) := by
  unfold logEventTake
  split
  · exact h
  · extract_lets x3
    have hx3 : Keeps r x3 := by
      unfold x3
      apply State.modLog_keeps
      exact h
    clear_value x3
    refine Keeps.ite ?_ ?_
    · apply State.finishOpt_keeps
      exact hx3
    · refine Keeps.ite ?_ ?_
      · apply State.logRepeat_keeps
        exact hx3
      · refine Keeps.ite ?_ ?_
        · apply State.modLog_keeps
          exact hx3
        · apply State.finishOpt_keeps
          apply State.event_keeps
          apply State.count_keeps
          apply State.modLog_keeps
          exact hx3

theorem State.logBegins_keeps {r s : State} (h : Keeps r s) : Keeps r (s.logBegins) := by
  unfold State.logBegins
  extract_lets x1
  exact h.upd rfl rfl rfl rfl rfl rfl rfl rfl

theorem State.logWrite_keeps {r s : State} (h : Keeps r s) (e : LogRaise) (nSnap : Nat) (area : List Byte) : Keeps r (s.logWrite e nSnap area) := by
  unfold State.logWrite
  extract_lets x1 x2 x3 x4 x5 x6 x7 x8 x9
  have hx6 : Keeps r x6 := by
    unfold x6
    apply State.logBegins_keeps
    apply State.logHash_keeps
    exact h
  clear_value x6
  have hx7 : Keeps r x7 := by
    unfold x7
    apply State.mirrorItem_keeps
    apply State.logPut_keeps
    exact hx6
  clear_value x7
  have hx8 : Keeps r x8 := by
    unfold x8
    apply State.modLog_keeps
    exact hx7
  clear_value x8
  have hx9 : Keeps r x9 := by
    unfold x9
    refine Keeps.ite ?_ ?_
    · apply State.event_keeps
      apply State.count_keeps
      exact hx8
    · exact hx8
  clear_value x9
  apply State.finishOpt_keeps
  apply State.event_keeps
  apply State.count_keeps
  exact hx9

theorem logRecordTake_keeps {r s : State} (h : Keeps r s) (peek : State → Nat → Word) : Keeps r (logRecordTake peek s) := by
  unfold logRecordTake
  split
  · exact h
  · extract_lets x3 x4
    have hx3 : Keeps r x3 := by
      unfold x3
      apply State.modLog_keeps
      exact h
    clear_value x3
    refine Keeps.ite ?_ ?_
    · exact h
    · refine Keeps.ite ?_ ?_
      · apply State.logRepeat_keeps
        exact hx3
      · apply State.logWrite_keeps
        exact hx3

theorem State.logChkptWrite_keeps {r s : State} (h : Keeps r s) (sig : Option (List Byte)) : Keeps r (s.logChkptWrite sig) := by
  unfold State.logChkptWrite
  extract_lets x1 x2 x3 x4
  have hx1 : Keeps r x1 := by
    unfold x1
    split
    · exact h
    · apply State.event_keeps
      exact h
  clear_value x1
  have hx4 : Keeps r x4 := by
    unfold x4
    apply State.logWrite_keeps
    exact hx1
  clear_value x4
  apply State.count_keeps
  apply State.modLog_keeps
  exact hx4

theorem logCheckpointRow_keeps {r s : State} (h : Keeps r s) : Keeps r (logCheckpointRow s) := by
  unfold logCheckpointRow
  extract_lets x1
  have hx1 : Keeps r x1.1 := by
    unfold x1
    apply State.requestSign_keeps
    exact h
  clear_value x1
  refine Keeps.ite ?_ ?_
  · exact h
  · refine Keeps.ite ?_ ?_
    · apply State.modLog_keeps
      exact hx1
    · apply State.logChkptWrite_keeps
      exact hx1

theorem logRingBaseWriteRow_keeps {r s : State} (h : Keeps r s) (v : Word) : Keeps r (logRingBaseWriteRow v s) := by
  unfold logRingBaseWriteRow
  extract_lets x1 x2 x3
  have hx2 : Keeps r x2 := by
    unfold x2
    apply State.setReg_keeps
    apply State.setReg_keeps
    exact h.upd rfl rfl rfl rfl rfl rfl rfl rfl
  clear_value x2
  have hx3 : Keeps r x3 := by
    unfold x3
    apply State.modLog_keeps
    exact hx2
  clear_value x3
  refine Keeps.ite ?_ ?_
  · exact h.upd rfl rfl rfl rfl rfl rfl rfl rfl
  · refine Keeps.ite ?_ ?_
    · refine Keeps.foldl ?_ _ ?_
      · intro y13 y14 y15
        extract_lets x17
        apply State.dramWrite_keeps
        exact y15
      · exact hx3
    · apply State.event_keeps
      exact hx2

theorem manLogNote_keeps {r s : State} (h : Keeps r s) (n : Nat) : Keeps r (manLogNote n s) := by
  unfold manLogNote
  apply State.runManifest_keeps
  · exact h
  · intro y2 y3 y4 y5
    apply State.modLog_keeps
    exact y5

theorem logNonceReadRow_keeps {r s : State} (h : Keeps r s) : Keeps r (logNonceReadRow s) := by
  unfold logNonceReadRow
  extract_lets x1 x2 x3
  have hx3 : Keeps r x3 := by
    unfold x3
    apply State.freshNext_keeps
    exact h
  clear_value x3
  refine Keeps.ite ?_ ?_
  · exact h.upd rfl rfl rfl rfl rfl rfl rfl rfl
  · exact hx3.upd rfl rfl rfl rfl rfl rfl rfl rfl

theorem State.logClearRefuse_keeps {r s : State} (h : Keeps r s) (mid : Nat) (reason : Nat) (status : Nat) : Keeps r (s.logClearRefuse mid reason status) := by
  unfold State.logClearRefuse
  apply State.finish0_keeps
  apply State.count_keeps
  apply State.event_keeps
  apply State.logRaise_keeps
  exact h

theorem manLogClear_keeps {r s : State} (h : Keeps r s) (n : Nat) (buf : Option (List Byte)) : Keeps r (manLogClear n buf s) := by
  unfold manLogClear
  apply State.runManifest_keeps
  · exact h
  · intro y2 y3 y4 y5
    extract_lets x7 x8 x9
    have hx8 : Keeps r x8 := by
      unfold x8
      apply State.modLog_keeps
      exact y5
    clear_value x8
    refine Keeps.ite ?_ ?_
    · apply State.finish0_keeps
      exact y5
    · apply withBuf_keeps
      · exact y5
      · intro y17
        split
        · apply State.logClearRefuse_keeps
          exact hx8
        · extract_lets x22
          have hx22 : Keeps r x22.1 := by
            unfold x22
            apply State.requestVerify_keeps
            exact hx8
          clear_value x22
          refine Keeps.ite ?_ ?_
          · apply State.logClearRefuse_keeps
            exact hx8
          · refine Keeps.ite ?_ ?_
            · apply State.logClearRefuse_keeps
              apply State.event_keeps
              apply State.keyUseErr_keeps
              exact hx8
            · refine Keeps.ite ?_ ?_
              · exact hx22
              · apply State.logClearRefuse_keeps
                exact hx22

theorem State.logClearNow_keeps {r s : State} (h : Keeps r s) (mid : Nat) (last : Nat) : Keeps r (s.logClearNow mid last) := by
  unfold State.logClearNow
  extract_lets x1 x2 x3 x4 x5
  have hx3 : Keeps r x3 := by
    unfold x3
    exact h.upd rfl rfl rfl rfl rfl rfl rfl rfl
  clear_value x3
  have hx4 : Keeps r x4 := by
    unfold x4
    apply State.modLog_keeps
    exact hx3
  clear_value x4
  refine Keeps.ite ?_ ?_
  · apply State.logClearRefuse_keeps
    exact h
  · apply State.finish0_keeps
    apply State.count_keeps
    apply State.event_keeps
    apply State.logWrite_keeps
    exact hx4

end Sys2Proof.Machine
end

