-- ==== Sys2Proof/Laws/KeepsField.lean ====
section
/-! SUPPORT. Keeps is kept by capture, the front end, metering, the pilot and the engines. -/

namespace Sys2Proof.Machine

/-! ### Capture.lean -/

theorem State.modCap_keeps {r s : State} (h : Keeps r s) (c : Nat) (f : CapCh → CapCh) : Keeps r (s.modCap c f) := by
  unfold State.modCap
  extract_lets x1
  exact h.upd rfl rfl rfl rfl rfl rfl rfl rfl

theorem State.modLine_keeps {r s : State} (h : Keeps r s) (n : Nat) (f : TrgLine → TrgLine) : Keeps r (s.modLine n f) := by
  unfold State.modLine
  extract_lets x1
  exact h.upd rfl rfl rfl rfl rfl rfl rfl rfl

theorem State.capEvent_keeps {r s : State} (h : Keeps r s) (bit : Nat) (c : Nat) : Keeps r (s.capEvent bit c) := by
  unfold State.capEvent
  apply State.logRaise_keeps
  apply State.event_keeps
  exact h

theorem State.feDetect_keeps {r s : State} (h : Keeps r s) (types : List Nat) (t : Nat) : Keeps r (s.feDetect types t) := by
  unfold State.feDetect
  refine Keeps.foldl ?_ _ ?_
  · intro y1 y2 y3
    extract_lets x5 x6 x7 x8 x9 x10 x11
    have hx10 : Keeps r x10 := by
      unfold x10
      apply State.modCap_keeps
      exact y3
    clear_value x10
    refine Keeps.ite ?_ ?_
    · exact hx10.upd rfl rfl rfl rfl rfl rfl rfl rfl
    · exact hx10
  · exact h

theorem State.capArm_keeps {r s : State} (h : Keeps r s) (c : Nat) : Keeps r (s.capArm c) := by
  unfold State.capArm
  extract_lets x1 x2 x3 x4
  have hx2 : Keeps r x2 := by
    unfold x2
    apply State.modCap_keeps
    exact h
  clear_value x2
  have hx4 : Keeps r x4 := by
    unfold x4
    exact hx2.upd rfl rfl rfl rfl rfl rfl rfl rfl
  clear_value x4
  refine Keeps.ite ?_ ?_
  · apply State.capEvent_keeps
    apply State.modCap_keeps
    exact h
  · apply State.dramWrite_keeps
    exact hx4

theorem State.capClose_keeps {r s : State} (h : Keeps r s) (c : Nat) (o : CapOpen) : Keeps r (s.capClose c o) := by
  unfold State.capClose
  extract_lets x1 x2
  have hx2 : Keeps r x2 := by
    unfold x2
    apply State.modCap_keeps
    exact h
  clear_value x2
  refine Keeps.ite ?_ ?_
  · apply State.modCap_keeps
    exact hx2
  · apply State.count_keeps
    apply State.modCap_keeps
    apply State.dramWrite_keeps
    exact hx2

theorem State.capAppend_keeps {r s : State} (h : Keeps r s) (c : Nat) (o : CapOpen) (inst : Nat) (e : List Byte) : Keeps r (s.capAppend c o inst e) := by
  unfold State.capAppend
  apply State.modCap_keeps
  exact h

theorem State.capOpenBlock_keeps {r s : State} (h : Keeps r s) (c : Nat) (a2 : Nat) (inst : Nat) (period : Nat) (e : List Byte) : Keeps r (s.capOpenBlock c a2 inst period e) := by
  unfold State.capOpenBlock
  extract_lets x1
  refine Keeps.ite ?_ ?_
  · apply State.modCap_keeps
    exact h
  · apply State.modCap_keeps
    exact h

theorem State.capAdd_keeps {r s : State} (h : Keeps r s) (c : Nat) (a2 : Nat) (inst : Nat) (cov : Nat) (period : Nat) (mk : Nat → List Byte) : Keeps r (s.capAdd c a2 inst cov period mk) := by
  unfold State.capAdd
  extract_lets x1 x2
  have hx2 : Keeps r x2 := by
    unfold x2
    split
    · apply State.capOpenBlock_keeps
      exact h
    · extract_lets x3
      refine Keeps.ite ?_ ?_
      · apply State.capAppend_keeps
        exact h
      · apply State.capOpenBlock_keeps
        apply State.capClose_keeps
        exact h
  clear_value x2
  refine Keeps.ite ?_ ?_
  · exact h
  · refine Keeps.ite ?_ ?_
    · apply State.modCap_keeps
      exact h
    · apply State.modCap_keeps
      exact hx2

theorem State.capRaw_keeps {r s : State} (h : Keeps r s) (scs : Bool) (release : Nat) (vals : List Word) : Keeps r (s.capRaw scs release vals) := by
  unfold State.capRaw
  extract_lets x1 x2
  refine Keeps.foldl ?_ _ ?_
  · intro y3 y4 y5
    apply State.capAdd_keeps
    exact y5
  · exact h

theorem State.capCyc_keeps {r s : State} (h : Keeps r s) (mark : Nat) (close : Nat) (per : Nat) (mins : List Word) (maxs : List Word) : Keeps r (s.capCyc mark close per mins maxs) := by
  unfold State.capCyc
  refine Keeps.foldl ?_ _ ?_
  · intro y1 y2 y3
    apply State.capAdd_keeps
    exact y3
  · exact h

theorem State.capHrms_keeps {r s : State} (h : Keeps r s) (first : Nat) (last : Nat) (dur : Nat) (rms : List Word) : Keeps r (s.capHrms first last dur rms) := by
  unfold State.capHrms
  extract_lets x1 x2
  have hx1 : Keeps r x1 := by
    unfold x1
    refine Keeps.foldl ?_ _ ?_
    · intro y4 y5 y6
      apply State.capAdd_keeps
      exact y6
    · exact h
  clear_value x1
  apply State.feDetect_keeps
  exact hx1.upd rfl rfl rfl rfl rfl rfl rfl rfl

theorem State.capSnap_keeps {r s : State} (h : Keeps r s) (seq : Nat) (inst : Nat) (next : Nat) (tq : BitVec 16) (lane : Nat → List Byte) : Keeps r (s.capSnap seq inst next tq lane) := by
  unfold State.capSnap
  refine Keeps.foldl ?_ _ ?_
  · intro y1 y2 y3
    extract_lets x5
    apply State.capAdd_keeps
    exact y3
  · exact h

theorem State.capStop_keeps {r s : State} (h : Keeps r s) (c : Nat) (st : CapSt) (cause : Nat) (endAt : Nat) : Keeps r (s.capStop c st cause endAt) := by
  unfold State.capStop
  extract_lets x1 x2 x3 x4
  have hx1 : Keeps r x1 := by
    unfold x1
    refine Keeps.foldl ?_ _ ?_
    · intro y6 y7 y8
      apply State.capClose_keeps
      exact y8
    · exact h
  clear_value x1
  have hx2 : Keeps r x2 := by
    unfold x2
    apply State.modCap_keeps
    exact hx1
  clear_value x2
  have hx4 : Keeps r x4 := by
    unfold x4
    exact hx2.upd rfl rfl rfl rfl rfl rfl rfl rfl
  clear_value x4
  apply State.dramWrite_keeps
  exact hx4

theorem capEndRow_keeps {r s : State} (h : Keeps r s) (c : Nat) : Keeps r (capEndRow c s) := by
  unfold capEndRow
  refine Keeps.ite ?_ ?_
  · apply State.count_keeps
    apply State.capEvent_keeps
    apply State.capStop_keeps
    exact h
  · exact h

theorem capOverflowRow_keeps {r s : State} (h : Keeps r s) (c : Nat) (fifo : Bool) : Keeps r (capOverflowRow c fifo s) := by
  unfold capOverflowRow
  extract_lets x1
  refine Keeps.ite ?_ ?_
  · apply State.count_keeps
    apply State.capEvent_keeps
    apply State.capStop_keeps
    exact h
  · exact h

theorem State.capAbort_keeps {r s : State} (h : Keeps r s) (c : Nat) : Keeps r (s.capAbort c) := by
  unfold State.capAbort
  extract_lets x1 x2 x3
  have hx2 : Keeps r x2 := by
    unfold x2
    apply State.modCap_keeps
    exact h
  clear_value x2
  split
  · apply State.count_keeps
    exact hx2.upd rfl rfl rfl rfl rfl rfl rfl rfl
  · refine Keeps.ite ?_ ?_
    · apply State.modCap_keeps
      apply capEndRow_keeps
      exact h
    · refine Keeps.ite ?_ ?_
      · apply State.modCap_keeps
        apply capOverflowRow_keeps
        exact h
      · apply State.count_keeps
        apply State.modCap_keeps
        apply State.capStop_keeps
        exact h
  · apply State.modCap_keeps
    exact h

theorem State.capFence_keeps {r s : State} (h : Keeps r s) : Keeps r (s.capFence) := by
  unfold State.capFence
  refine Keeps.foldl ?_ _ ?_
  · intro y1 y2 y3
    refine Keeps.ite ?_ ?_
    · apply State.capStop_keeps
      exact y3
    · exact y3
  · exact h

theorem State.capFeStopped_keeps {r s : State} (h : Keeps r s) : Keeps r (s.capFeStopped) := by
  unfold State.capFeStopped
  refine Keeps.foldl ?_ _ ?_
  · intro y1 y2 y3
    refine Keeps.ite ?_ ?_
    · apply State.modCap_keeps
      exact y3
    · exact y3
  · exact h

theorem State.trgRequest_keeps {r s : State} (h : Keeps r s) (line : Nat) (a2 : TrgReq) : Keeps r (s.trgRequest line a2) := by
  unfold State.trgRequest
  extract_lets x1
  have hx1 : Keeps r x1 := by
    unfold x1
    apply State.count_keeps
    exact h
  clear_value x1
  refine Keeps.ite ?_ ?_
  · exact h
  · refine Keeps.ite ?_ ?_
    · apply State.modLine_keeps
      exact h
    · split
      · apply State.modCap_keeps
        exact hx1
      · exact hx1

theorem State.capTake_keeps {r s : State} (h : Keeps r s) (c : Nat) (d : CapDet) : Keeps r (s.capTake c d) := by
  unfold State.capTake
  extract_lets x1 x2 x3 x4 x5 x6
  have hx5 : Keeps r x5 := by
    unfold x5
    apply State.modCap_keeps
    exact h
  clear_value x5
  have hx6 : Keeps r x6 := by
    unfold x6
    apply State.count_keeps
    apply State.setTs_keeps
    exact hx5
  clear_value x6
  split
  · refine Keeps.ite ?_ ?_
    · apply State.trgRequest_keeps
      exact hx6
    · exact hx6
  · apply State.count_keeps
    apply State.modCap_keeps
    exact h
  · exact h

theorem capTriggerRow_keeps {r s : State} (h : Keeps r s) (c : Nat) : Keeps r (capTriggerRow c s) := by
  unfold capTriggerRow
  extract_lets x1
  split
  · exact h
  · extract_lets x5 x6
    have hx6 : Keeps r x6 := by
      unfold x6
      exact h.upd rfl rfl rfl rfl rfl rfl rfl rfl
    clear_value x6
    split
    · apply State.capTake_keeps
      exact hx6
    · exact hx6

theorem capChArmRow_keeps {r s : State} (h : Keeps r s) (c : Nat) : Keeps r (capChArmRow c s) := by
  unfold capChArmRow
  refine Keeps.ite ?_ ?_
  · apply State.capArm_keeps
    exact h
  · exact h

theorem capChAbortRow_keeps {r s : State} (h : Keeps r s) (c : Nat) : Keeps r (capChAbortRow c s) := by
  unfold capChAbortRow
  refine Keeps.ite ?_ ?_
  · apply State.capAbort_keeps
    exact h
  · exact h

theorem State.capSwtrig_keeps {r s : State} (h : Keeps r s) (c : Nat) : Keeps r (s.capSwtrig c) := by
  unfold State.capSwtrig
  extract_lets x1 x2
  have hx2 : Keeps r x2 := by
    unfold x2
    exact h.upd rfl rfl rfl rfl rfl rfl rfl rfl
  clear_value x2
  refine Keeps.ite ?_ ?_
  · refine Keeps.foldl ?_ _ ?_
    · intro y3 y4 y5
      apply capTriggerRow_keeps
      exact y5
    · exact hx2
  · exact h

theorem capChSwtrigRow_keeps {r s : State} (h : Keeps r s) (c : Nat) : Keeps r (capChSwtrigRow c s) := by
  unfold capChSwtrigRow
  refine Keeps.ite ?_ ?_
  · apply State.capSwtrig_keeps
    exact h
  · exact h

theorem manCapArm_keeps {r s : State} (h : Keeps r s) (n : Nat) : Keeps r (manCapArm n s) := by
  unfold manCapArm
  apply State.runManifest_keeps
  · exact h
  · intro y2 y3 y4 y5
    extract_lets x7 x8
    apply State.finish_keeps
    apply State.capArm_keeps
    exact y5

theorem manCapTrigger_keeps {r s : State} (h : Keeps r s) (n : Nat) : Keeps r (manCapTrigger n s) := by
  unfold manCapTrigger
  apply State.runManifest_keeps
  · exact h
  · intro y2 y3 y4 y5
    apply State.finish0_keeps
    apply State.capSwtrig_keeps
    exact y5

theorem manCapAbort_keeps {r s : State} (h : Keeps r s) (n : Nat) : Keeps r (manCapAbort n s) := by
  unfold manCapAbort
  apply State.runManifest_keeps
  · exact h
  · intro y2 y3 y4 y5
    extract_lets x7 x8 x9
    have hx8 : Keeps r x8 := by
      unfold x8
      apply State.capAbort_keeps
      exact y5
    clear_value x8
    apply State.finish_keeps
    exact hx8

theorem trgPulseRx_keeps {r s : State} (h : Keeps r s) (line : Nat) (fall : Nat) (rise : Nat) : Keeps r (trgPulseRx line fall rise s) := by
  unfold trgPulseRx
  extract_lets x1 x2
  have hx2 : Keeps r x2 := by
    unfold x2
    apply State.advance_keeps
    exact h
  clear_value x2
  refine Keeps.ite ?_ ?_
  · exact h
  · split
    · exact h
    · extract_lets x10 x11 x12
      have hx10 : Keeps r x10 := by
        unfold x10
        apply State.count_keeps
        apply State.setReg_keeps
        apply State.setTs_keeps
        exact hx2
      clear_value x10
      have hx11 : Keeps r x11 := by
        unfold x11
        apply State.capEvent_keeps
        exact hx10
      clear_value x11
      have hx12 : Keeps r x12 := by
        unfold x12
        refine Keeps.ite ?_ ?_
        · apply State.count_keeps
          apply State.capEvent_keeps
          exact hx11
        · exact hx11
      clear_value x12
      apply State.wakeIf_keeps
      apply State.capNotice_keeps
      exact hx12

theorem trgLineStuck_keeps {r s : State} (h : Keeps r s) (line : Nat) : Keeps r (trgLineStuck line s) := by
  unfold trgLineStuck
  extract_lets x1
  have hx1 : Keeps r x1 := by
    unfold x1
    apply State.modLine_keeps
    exact h
  clear_value x1
  refine Keeps.ite ?_ ?_
  · exact h
  · refine Keeps.ite ?_ ?_
    · exact hx1
    · apply State.unitFault_keeps
      apply State.capEvent_keeps
      apply State.modLine_keeps
      exact hx1

theorem trgLineStuckEnd_keeps {r s : State} (h : Keeps r s) (line : Nat) : Keeps r (trgLineStuckEnd line s) := by
  unfold trgLineStuckEnd
  refine Keeps.ite ?_ ?_
  · apply State.modLine_keeps
    exact h
  · exact h

theorem capTrgOutGo_keeps {r s : State} (h : Keeps r s) (v : Word) : Keeps r (capTrgOutGo v s) := by
  unfold capTrgOutGo
  refine Keeps.ite ?_ ?_
  · apply State.trgRequest_keeps
    exact h
  · exact h

theorem trgOutPulseStart_keeps {r s : State} (h : Keeps r s) (line : Nat) (stamp : Nat) : Keeps r (trgOutPulseStart line stamp s) := by
  unfold trgOutPulseStart
  extract_lets x1 x2
  split
  · exact h
  · extract_lets x6
    have hx6 : Keeps r x6 := by
      unfold x6
      apply State.modLine_keeps
      exact h
    clear_value x6
    refine Keeps.ite ?_ ?_
    · exact h
    · split
      · apply State.modCap_keeps
        exact hx6
      · exact hx6

theorem trgOutPulseEnd_keeps {r s : State} (h : Keeps r s) (line : Nat) : Keeps r (trgOutPulseEnd line s) := by
  unfold trgOutPulseEnd
  apply State.modLine_keeps
  exact h

/-! ### FrontEnd.lean -/

theorem State.modFe_keeps {r s : State} (h : Keeps r s) (f : Fe → Fe) : Keeps r (s.modFe f) := by
  unfold State.modFe
  exact h.upd rfl rfl rfl rfl rfl rfl rfl rfl

theorem State.modChan_keeps {r s : State} (h : Keeps r s) (c : Nat) (f : FeChan → FeChan) : Keeps r (s.modChan c f) := by
  unfold State.modChan
  apply State.modFe_keeps
  exact h

theorem State.clearCounters_keeps {r s : State} (h : Keeps r s) (lo : Nat) (n : Nat) : Keeps r (s.clearCounters lo n) := by
  unfold State.clearCounters
  refine Keeps.foldl ?_ _ ?_
  · intro y1 y2 y3
    apply State.setReg64_keeps
    exact y3
  · exact h

theorem State.ppApply_keeps {r s : State} (h : Keeps r s) : Keeps r (s.ppApply) := by
  unfold State.ppApply
  refine Keeps.foldl ?_ _ ?_
  · intro y1 y2 y3
    apply State.setReg_keeps
    exact y3
  · exact h

theorem feCtrlWrite_keeps {r s : State} (h : Keeps r s) (v : Word) : Keeps r (feCtrlWrite v s) := by
  unfold feCtrlWrite
  extract_lets x1 x2 x3 x4 x5
  have hx1 : Keeps r x1 := by
    unfold x1
    refine Keeps.ite ?_ ?_
    · apply State.clearCounters_keeps
      exact h
    · exact h
  clear_value x1
  have hx4 : Keeps r x4 := by
    unfold x4
    apply State.setReg_keeps
    exact hx1
  clear_value x4
  have hx5 : Keeps r x5 := by
    unfold x5
    refine Keeps.ite ?_ ?_
    · exact hx4
    · apply State.ppApply_keeps
      exact hx4
  clear_value x5
  refine Keeps.ite ?_ ?_
  · exact h
  · refine Keeps.ite ?_ ?_
    · apply State.modFe_keeps
      exact hx4
    · refine Keeps.ite ?_ ?_
      · apply State.capFeStopped_keeps
        apply State.modFe_keeps
        exact hx5
      · exact hx4

theorem State.feStep_keeps {r s : State} (h : Keeps r s) : Keeps r (s.feStep) := by
  unfold State.feStep
  refine Keeps.ite ?_ ?_
  · apply State.modFe_keeps
    exact h
  · exact h

theorem fePllRealignRow_keeps {r s : State} (h : Keeps r s) : Keeps r (fePllRealignRow s) := by
  unfold fePllRealignRow
  apply State.modFe_keeps
  exact h

theorem State.chanCondition_keeps {r s : State} (h : Keeps r s) (ch : Nat) (clip : Bool) (on : Bool) : Keeps r (s.chanCondition ch clip on) := by
  unfold State.chanCondition
  extract_lets x1 x2 x3
  have hx3 : Keeps r x3 := by
    unfold x3
    apply State.modChan_keeps
    exact h
  clear_value x3
  refine Keeps.ite ?_ ?_
  · refine Keeps.ite ?_ ?_
    · apply State.count_keeps
      apply State.event_keeps
      exact hx3
    · apply State.unitFault_keeps
      apply State.count_keeps
      apply State.event_keeps
      exact hx3
  · exact hx3

theorem feChannelConditionRow_keeps {r s : State} (h : Keeps r s) (ch : Nat) (clip : Bool) (on : Bool) : Keeps r (feChannelConditionRow ch clip on s) := by
  unfold feChannelConditionRow
  refine Keeps.ite ?_ ?_
  · exact h
  · apply State.chanCondition_keeps
    exact h

theorem feCalSwapGoRow_keeps {r s : State} (h : Keeps r s) (v : Word) : Keeps r (feCalSwapGoRow v s) := by
  unfold feCalSwapGoRow
  extract_lets x1
  refine Keeps.ite ?_ ?_
  · exact h
  · refine Keeps.ite ?_ ?_
    · apply State.event_keeps
      exact h
    · refine Keeps.ite ?_ ?_
      · exact h
      · refine Keeps.ite ?_ ?_
        · apply State.modFe_keeps
          exact h
        · apply State.event_keeps
          exact h

theorem State.calExchange_keeps {r s : State} (h : Keeps r s) (c : Nat) : Keeps r (s.calExchange c) := by
  unfold State.calExchange
  extract_lets x1
  have hx1 : ∀ a0 a1 a2, Keeps r a0 → Keeps r (x1 a0 a1 a2) := by
    intro y2 y3 y4 y5
    unfold x1
    apply State.setReg_keeps
    apply State.setReg_keeps
    exact y5
  clear_value x1
  apply hx1
  apply hx1
  apply hx1
  exact h

theorem State.calSwapAt_keeps {r s : State} (h : Keeps r s) (label : Nat) : Keeps r (s.calSwapAt label).1 := by
  unfold State.calSwapAt
  split
  · dsimp only
    exact h
  · extract_lets x4 x5 x6
    have hx4 : Keeps r x4 := by
      unfold x4
      refine Keeps.foldl ?_ _ ?_
      · intro y8 y9 y10
        apply State.calExchange_keeps
        exact y10
      · exact h
    clear_value x4
    have hx6 : Keeps r x6 := by
      unfold x6
      apply State.count_keeps
      apply State.event_keeps
      apply State.modFe_keeps
      apply State.setReg_keeps
      exact hx4
    clear_value x6
    refine Keeps.iteFst ?_ ?_
    · dsimp only
      exact h
    · dsimp only
      apply State.logRaise_keeps
      exact hx6

theorem State.trackerAt_keeps {r s : State} (h : Keeps r s) (label : Nat) (n : Nat) (m : FeMark) : Keeps r (s.trackerAt label n m) := by
  unfold State.trackerAt
  extract_lets x1 x2 x3 x4 x5 x6 x7 x8 x9 x10 x11 x12
  have hx10 : Keeps r x10 := by
    unfold x10
    apply State.modFe_keeps
    exact h
  clear_value x10
  have hx11 : Keeps r x11 := by
    unfold x11
    refine Keeps.ite ?_ ?_
    · apply State.count_keeps
      apply State.event_keeps
      exact hx10
    · exact hx10
  clear_value x11
  have hx12 : Keeps r x12 := by
    unfold x12
    refine Keeps.ite ?_ ?_
    · apply State.event_keeps
      exact hx11
    · exact hx11
  clear_value x12
  apply State.setTs_keeps
  apply State.setReg_keeps
  exact hx12

theorem State.capModeChange_keeps {r s : State} (h : Keeps r s) : Keeps r (s.capModeChange) := by
  unfold State.capModeChange
  refine Keeps.foldl ?_ _ ?_
  · intro y1 y2 y3
    refine Keeps.ite ?_ ?_
    · apply State.modCap_keeps
      refine Keeps.foldl ?_ _ ?_
      · intro y4 y5 y6
        apply State.capClose_keeps
        exact y6
      · exact y3
    · exact y3
  · exact h

theorem State.bankSwap_keeps {r s : State} (h : Keeps r s) (g : Nat) : Keeps r (s.bankSwap g) := by
  unfold State.bankSwap
  extract_lets x1 x2
  have hx2 : Keeps r x2 := by
    unfold x2
    apply State.modFe_keeps
    exact h
  clear_value x2
  refine Keeps.ite ?_ ?_
  · apply State.count_keeps
    apply State.event_keeps
    exact hx2
  · exact hx2

theorem State.feAdopt_keeps {r s : State} (h : Keeps r s) (label : Nat) : Keeps r (s.feAdopt label) := by
  unfold State.feAdopt
  extract_lets x1 x2 x3 x4 x5 x6
  have hx6 : Keeps r x6 := by
    unfold x6
    apply State.modFe_keeps
    apply State.ppApply_keeps
    exact h
  clear_value x6
  refine Keeps.ite ?_ ?_
  · exact h
  · refine Keeps.ite ?_ ?_
    · apply State.capModeChange_keeps
      refine Keeps.foldl ?_ _ ?_
      · intro y7 y8 y9
        refine Keeps.ite ?_ ?_
        · exact y9
        · apply State.bankSwap_keeps
          exact y9
      · exact hx6
    · exact hx6

theorem State.bankWrite_keeps {r s : State} (h : Keeps r s) (g : Nat) (label : Nat) (per : Nat) (mark : Bool) (vals : List Word) : Keeps r (s.bankWrite g label per mark vals) := by
  unfold State.bankWrite
  extract_lets x1 x2 x3 x4
  have hx4 : Keeps r x4 := by
    unfold x4
    apply State.modFe_keeps
    exact h
  clear_value x4
  refine Keeps.ite ?_ ?_
  · apply State.bankSwap_keeps
    exact hx4
  · exact hx4

theorem State.cycleClose_keeps {r s : State} (h : Keeps r s) (label : Nat) : Keeps r (s.cycleClose label) := by
  unfold State.cycleClose
  extract_lets x1 x2 x3 x4 x5 x6 x7 x8
  have hx3 : Keeps r x3 := by
    unfold x3
    refine Keeps.foldl ?_ _ ?_
    · intro y10 y11 y12
      apply State.setReg_keeps
      exact y12
    · exact h
  clear_value x3
  have hx4 : Keeps r x4 := by
    unfold x4
    apply State.capCyc_keeps
    exact hx3
  clear_value x4
  have hx7 : Keeps r x7 := by
    unfold x7
    apply State.count_keeps
    exact hx4
  clear_value x7
  refine Keeps.ite ?_ ?_
  · exact h
  · refine Keeps.ite ?_ ?_
    · exact hx4
    · refine Keeps.ite ?_ ?_
      · exact hx4.upd rfl rfl rfl rfl rfl rfl rfl rfl
      · exact hx7.upd rfl rfl rfl rfl rfl rfl rfl rfl

theorem State.chanTap_keeps {r s : State} (h : Keeps r s) (t : Nat) (n : Nat) : Keeps r (s.chanTap t n) := by
  unfold State.chanTap
  extract_lets x1 x2
  have hx2 : Keeps r x2 := by
    unfold x2
    apply State.capRaw_keeps
    exact h
  clear_value x2
  refine Keeps.ite ?_ ?_
  · exact h
  · apply State.modFe_keeps
    exact hx2

theorem State.freshTap_keeps {r s : State} (h : Keeps r s) (t : Nat) (n : Nat) : Keeps r (s.freshTap t n) := by
  unfold State.freshTap
  extract_lets x1
  refine Keeps.ite ?_ ?_
  · exact h
  · apply State.modFe_keeps
    exact h

theorem State.chanWatch_keeps {r s : State} (h : Keeps r s) (clip : Bool) (ch : Nat) : Keeps r (s.chanWatch clip ch) := by
  unfold State.chanWatch
  extract_lets x1 x2
  refine Keeps.ite ?_ ?_
  · exact h
  · apply State.chanCondition_keeps
    exact h

theorem State.chansWatch_keeps {r s : State} (h : Keeps r s) : Keeps r (s.chansWatch) := by
  unfold State.chansWatch
  refine Keeps.foldl ?_ _ ?_
  · intro y1 y2 y3
    apply State.chanWatch_keeps
    apply State.chanWatch_keeps
    exact y3
  · exact h

theorem State.feEdge_keeps {r s : State} (h : Keeps r s) (pins : List (List (Nat × Bool))) : Keeps r (s.feEdge pins) := by
  unfold State.feEdge
  extract_lets x1 x2 x3 x4
  apply State.chanTap_keeps
  apply State.freshTap_keeps
  apply State.chansWatch_keeps
  apply State.modFe_keeps
  exact h

theorem State.feRun_keeps {r s : State} (h : Keeps r s) (pins : List (List (Nat × Bool))) (till : Nat) : Keeps r (s.feRun pins till) := by
  unfold State.feRun
  extract_lets x1
  have hx1 : Keeps r x1 := by
    unfold x1
    refine Keeps.foldl ?_ _ ?_
    · intro y2 y3 y4
      apply State.feEdge_keeps
      exact y4
    · exact h
  clear_value x1
  apply State.modFe_keeps
  exact hx1

theorem feSampleSetRow_keeps {r s : State} (h : Keeps r s) (release : Nat) (pins : List (List (Nat × Bool))) (m : FeMark) : Keeps r (feSampleSetRow release pins m s) := by
  unfold feSampleSetRow
  extract_lets x1 x2 x3 x4 x5 x6 x7 x8 x9 x10 x11 x12 x13 x14 x15 x16
  have hx3 : Keeps r x3 := by
    unfold x3
    apply State.feRun_keeps
    apply State.advance_keeps
    exact h
  clear_value x3
  have hx5 : Keeps r x5 := by
    unfold x5
    refine Keeps.ite ?_ ?_
    · apply State.feAdopt_keeps
      apply State.cycleClose_keeps
      exact hx3
    · exact hx3
  clear_value x5
  have hx6 : Keeps r x6.fst := by
    unfold x6
    refine Keeps.iteFst ?_ ?_
    · apply State.calSwapAt_keeps
      apply State.trackerAt_keeps
      exact hx5
    · dsimp only
      exact hx5
  clear_value x6
  have hx7 : Keeps r x7 := by
    unfold x7
    refine Keeps.ite ?_ ?_
    · apply State.feDetect_keeps
      exact hx6
    · exact hx6
  clear_value x7
  have hx8 : Keeps r x8 := by
    unfold x8
    apply State.modFe_keeps
    exact hx7
  clear_value x8
  have hx12 : Keeps r x12 := by
    unfold x12
    refine Keeps.foldl ?_ _ ?_
    · intro y17 y18 y19
      apply State.bankWrite_keeps
      exact y19
    · exact hx8
  clear_value x12
  have hx15 : Keeps r x15 := by
    unfold x15
    apply State.count_keeps
    apply State.modFe_keeps
    exact hx12
  clear_value x15
  refine Keeps.ite ?_ ?_
  · exact h
  · refine Keeps.ite ?_ ?_
    · apply State.capHrms_keeps
      exact hx15
    · exact hx15

/-! ### Mtr.lean -/

theorem State.modMtr_keeps {r s : State} (h : Keeps r s) (f : Mtr → Mtr) : Keeps r (s.modMtr f) := by
  unfold State.modMtr
  exact h.upd rfl rfl rfl rfl rfl rfl rfl rfl

theorem State.modPoint_keeps {r s : State} (h : Keeps r s) (m : Nat) (f : MtrPoint → MtrPoint) : Keeps r (s.modPoint m f) := by
  unfold State.modPoint
  apply State.modMtr_keeps
  exact h

theorem State.modPulse_keeps {r s : State} (h : Keeps r s) (o : Nat) (f : MtrPulse → MtrPulse) : Keeps r (s.modPulse o f) := by
  unfold State.modPulse
  apply State.modMtr_keeps
  exact h

theorem State.mtrCond_keeps {r s : State} (h : Keeps r s) (m : Nat) (k : Nat) : Keeps r (s.mtrCond m k) := by
  unfold State.mtrCond
  extract_lets x1 x2 x3 x4 x5 x6 x7 x8 x9 x10 x11 x12 x13
  have hx10 : Keeps r x10 := by
    unfold x10
    apply State.modPoint_keeps
    exact h
  clear_value x10
  have hx13 : Keeps r x13 := by
    unfold x13
    apply State.almSend_keeps
    exact hx10
  clear_value x13
  refine Keeps.ite ?_ ?_
  · refine Keeps.ite ?_ ?_
    · apply State.event_keeps
      exact hx13
    · exact hx13
  · exact hx10

theorem State.pulseAdd_keeps {r s : State} (h : Keeps r s) (o : Nat) (imp : Bool) (d : Nat) (start : Nat) (len : Nat) : Keeps r (s.pulseAdd o imp d start len) := by
  unfold State.pulseAdd
  extract_lets x1 x2 x3 x4 x5 x6 x7 x8
  have hx8 : Keeps r x8 := by
    unfold x8
    apply State.modPulse_keeps
    exact h
  clear_value x8
  refine Keeps.ite ?_ ?_
  · apply State.event_keeps
    exact hx8
  · exact hx8

theorem State.pulsesAdd_keeps {r s : State} (h : Keeps r s) (m : Nat) (d : List Nat) (start : Nat) (len : Nat) : Keeps r (s.pulsesAdd m d start len) := by
  unfold State.pulsesAdd
  extract_lets x1
  refine Keeps.foldl ?_ _ ?_
  · intro y3 y4 y5
    extract_lets x7
    refine Keeps.ite ?_ ?_
    · split
      · apply State.pulseAdd_keeps
        apply State.pulseAdd_keeps
        exact y5
      · apply State.pulseAdd_keeps
        exact y5
      · apply State.pulseAdd_keeps
        exact y5
      · apply State.pulseAdd_keeps
        exact y5
    · exact y5
  · exact h

theorem State.energyAdd_keeps {r s : State} (h : Keeps r s) (m : Nat) (d : List Nat) (start : Nat) (len : Nat) : Keeps r (s.energyAdd m d start len) := by
  unfold State.energyAdd
  extract_lets x1 x2 x3
  have hx2 : Keeps r x2 := by
    unfold x2
    apply State.modPoint_keeps
    exact h
  clear_value x2
  have hx3 : Keeps r x3 := by
    unfold x3
    refine Keeps.ite ?_ ?_
    · apply State.event_keeps
      exact hx2
    · exact hx2
  clear_value x3
  apply State.pulsesAdd_keeps
  exact hx3

theorem State.netEnd_keeps {r s : State} (h : Keeps r s) (m : Nat) (start : Nat) (len : Nat) : Keeps r (s.netEnd m start len) := by
  unfold State.netEnd
  extract_lets x1
  apply State.modPoint_keeps
  apply State.energyAdd_keeps
  exact h

theorem State.secondEnd_keeps {r s : State} (h : Keeps r s) (m : Nat) : Keeps r (s.secondEnd m) := by
  unfold State.secondEnd
  apply State.modPoint_keeps
  exact h

theorem State.mtrCompare_keeps {r s : State} (h : Keeps r s) (m : Nat) (end_ : Nat) : Keeps r (s.mtrCompare m end_) := by
  unfold State.mtrCompare
  extract_lets x1 x2
  split
  · refine Keeps.ite ?_ ?_
    · apply State.count_keeps
      apply State.event_keeps
      exact h
    · exact h
  · exact h

theorem State.mtrMirror_keeps {r s : State} (h : Keeps r s) (m : Nat) (body : List Byte) : Keeps r (s.mtrMirror m body) := by
  unfold State.mtrMirror
  extract_lets x1 x2 x3 x4 x5
  have hx5 : Keeps r x5 := by
    unfold x5
    exact h.upd rfl rfl rfl rfl rfl rfl rfl rfl
  clear_value x5
  apply State.mtrCompare_keeps
  apply State.mirrorItem_keeps
  exact hx5

theorem State.mtrRecordWrite_keeps {r s : State} (h : Keeps r s) (m : Nat) (body : List Byte) (sig : Option (List Byte)) : Keeps r (s.mtrRecordWrite m body sig) := by
  unfold State.mtrRecordWrite
  extract_lets x1 x2 x3 x4 x5 x6 x7 x8 x9 x10 x11
  have hx1 : Keeps r x1 := by
    unfold x1
    split
    · exact h
    · apply State.count_keeps
      apply State.event_keeps
      exact h
  clear_value x1
  have hx5 : Keeps r x5 := by
    unfold x5
    apply State.modMtr_keeps
    apply State.dramWrite_keeps
    exact hx1
  clear_value x5
  have hx6 : Keeps r x6 := by
    unfold x6
    refine Keeps.ite ?_ ?_
    · refine Keeps.ite ?_ ?_
      · apply State.event_keeps
        exact hx5
      · exact hx5
    · exact hx1
  clear_value x6
  have hx9 : Keeps r x9 := by
    unfold x9
    exact hx6.upd rfl rfl rfl rfl rfl rfl rfl rfl
  clear_value x9
  have hx10 : Keeps r x10 := by
    unfold x10
    refine Keeps.ite ?_ ?_
    · apply State.deliver_keeps
      exact hx9
    · exact hx9
  clear_value x10
  have hx11 : Keeps r x11 := by
    unfold x11
    apply State.mtrMirror_keeps
    exact hx10
  clear_value x11
  apply State.count_keeps
  apply State.event_keeps
  exact hx11

theorem State.intervalEnd_keeps {r s : State} (h : Keeps r s) (m : Nat) (end_ : Nat) (partialEnd : Bool) (partialNext : Bool) : Keeps r (s.intervalEnd m end_ partialEnd partialNext) := by
  unfold State.intervalEnd
  extract_lets x1 x2 x3 x4 x5 x6 x7
  have hx4 : Keeps r x4 := by
    unfold x4
    apply State.modPoint_keeps
    exact h
  clear_value x4
  have hx5 : Keeps r x5 := by
    unfold x5
    refine Keeps.ite ?_ ?_
    · apply State.almSend_keeps
      apply State.modMtr_keeps
      exact hx4
    · exact hx4
  clear_value x5
  have hx6 : Keeps r x6.1 := by
    unfold x6
    apply State.requestSign_keeps
    exact hx5
  clear_value x6
  have hx7 : Keeps r x7 := by
    unfold x7
    refine Keeps.ite ?_ ?_
    · apply State.event_keeps
      apply State.count_keeps
      exact h
    · refine Keeps.ite ?_ ?_
      · exact hx6
      · apply State.mtrRecordWrite_keeps
        exact hx6
  clear_value x7
  apply State.modPoint_keeps
  exact hx7

theorem State.backupSave_keeps {r s : State} (h : Keeps r s) (pfw : Bool) : Keeps r (s.backupSave pfw) := by
  unfold State.backupSave
  extract_lets x1 x2 x3 x4 x5
  have hx5 : Keeps r x5 := by
    unfold x5
    exact h.upd rfl rfl rfl rfl rfl rfl rfl rfl
  clear_value x5
  apply State.count_keeps
  exact hx5

theorem State.periodicSaves_keeps {r s : State} (h : Keeps r s) (force : Bool) : Keeps r (s.periodicSaves force) := by
  unfold State.periodicSaves
  extract_lets x1 x2 x3
  have hx2 : Keeps r x2 := by
    unfold x2
    refine Keeps.ite ?_ ?_
    · apply State.backupSave_keeps
      exact h
    · exact h
  clear_value x2
  refine Keeps.ite ?_ ?_
  · apply State.modMtr_keeps
    exact hx2
  · exact hx2

theorem State.mtrFlashWrite_keeps {r s : State} (h : Keeps r s) (v : MtrSave) (ok : Bool) : Keeps r (s.mtrFlashWrite v ok) := by
  unfold State.mtrFlashWrite
  extract_lets x1 x2
  have hx1 : Keeps r x1 := by
    unfold x1
    apply State.freshNext_keeps
    exact h
  clear_value x1
  have hx2 : Keeps r x2 := by
    unfold x2
    exact hx1.upd rfl rfl rfl rfl rfl rfl rfl rfl
  clear_value x2
  refine Keeps.ite ?_ ?_
  · apply State.count_keeps
    apply State.modMtr_keeps
    exact h.upd rfl rfl rfl rfl rfl rfl rfl rfl
  · apply State.flashFail_keeps
    apply State.unitFault_keeps
    apply State.event_keeps
    apply State.modMtr_keeps
    exact hx2

theorem mtrFlashSaveDoneRow_keeps {r s : State} (h : Keeps r s) (ok : Bool) : Keeps r (mtrFlashSaveDoneRow ok s) := by
  unfold mtrFlashSaveDoneRow
  split
  · exact h
  · apply State.mtrFlashWrite_keeps
    apply State.modMtr_keeps
    exact h

theorem State.pulseRelease_keeps {r s : State} (h : Keeps r s) : Keeps r s.pulseRelease := h.upd rfl rfl rfl rfl rfl rfl rfl rfl

theorem State.mtrRestore_keeps {r s : State} (h : Keeps r s) : Keeps r (s.mtrRestore) := by
  unfold State.mtrRestore
  extract_lets x1 x2 x3 x4 x5 x6 x7 x8 x9
  clear_value x1
  clear_value x2
  clear_value x3
  clear_value x4
  clear_value x5
  have hx6 : Keeps r x6 := by
    unfold x6
    split
    · apply State.modMtr_keeps
      exact h
    · exact h
  clear_value x6
  have hx7 : Keeps r x7 := by
    unfold x7
    apply State.pulseRelease_keeps
    apply State.modMtr_keeps
    exact hx6
  clear_value x7
  have hx8 : Keeps r x8 := by
    unfold x8
    apply State.setReg_keeps
    exact hx7
  clear_value x8
  have hx9 : Keeps r x9 := by
    unfold x9
    refine Keeps.ite ?_ ?_
    · apply State.event_keeps
      exact hx8
    · exact hx8
  clear_value x9
  refine Keeps.ite ?_ ?_
  · apply State.almSend_keeps
    apply State.modMtr_keeps
    exact hx9
  · exact hx9

theorem State.mtrTryStart_keeps {r s : State} (h : Keeps r s) : Keeps r (s.mtrTryStart) := by
  unfold State.mtrTryStart
  extract_lets x1
  have hx1 : Keeps r x1 := by
    unfold x1
    refine Keeps.ite ?_ ?_
    · exact h
    · apply State.mtrRestore_keeps
      exact h
  clear_value x1
  refine Keeps.ite ?_ ?_
  · apply State.modMtr_keeps
    exact hx1
  · exact h

theorem mtrCtrlWrite_keeps {r s : State} (h : Keeps r s) (v : Word) : Keeps r (mtrCtrlWrite v s) := by
  unfold mtrCtrlWrite
  extract_lets x1 x2 x3 x4 x5
  have hx1 : Keeps r x1 := by
    unfold x1
    refine Keeps.ite ?_ ?_
    · apply State.clearCounters_keeps
      exact h
    · exact h
  clear_value x1
  have hx5 : Keeps r x5 := by
    unfold x5
    apply State.setReg_keeps
    exact hx1
  clear_value x5
  refine Keeps.ite ?_ ?_
  · exact h
  · refine Keeps.ite ?_ ?_
    · apply State.event_keeps
      apply State.setReg_keeps
      exact hx1
    · refine Keeps.ite ?_ ?_
      · refine Keeps.ite ?_ ?_
        · exact hx5
        · apply State.mtrTryStart_keeps
          apply State.modMtr_keeps
          exact hx5
      · apply State.modMtr_keeps
        exact hx5

theorem feSampleSetAll_keeps {r s : State} (h : Keeps r s) (release : Nat) (pins : List (List (Nat × Bool))) (m : FeMark) : Keeps r (feSampleSetAll release pins m s) := by
  unfold feSampleSetAll
  apply State.mtrTryStart_keeps
  apply feSampleSetRow_keeps
  exact h

theorem State.outageFix_keeps {r s : State} (h : Keeps r s) (open_ : Nat) : Keeps r (s.outageFix open_) := by
  unfold State.outageFix
  refine Keeps.ite ?_ ?_
  · apply State.modMtr_keeps
    apply State.setReg_keeps
    exact h
  · exact h

theorem State.netClose_keeps {r s : State} (h : Keeps r s) (m : Nat) (start : Nat) : Keeps r (s.netClose m start) := by
  unfold State.netClose
  split
  · apply State.netEnd_keeps
    exact h
  · apply State.netEnd_keeps
    exact h
  · exact h

theorem State.pointInterval_keeps {r s : State} (h : Keeps r s) (m : Nat) (cyc : MtrCyc) : Keeps r (s.pointInterval m cyc) := by
  unfold State.pointInterval
  extract_lets x1 x2 x3 x4 x5
  have hx5 : Keeps r x5 := by
    unfold x5
    refine Keeps.ite ?_ ?_
    · apply State.netClose_keeps
      exact h
    · exact h
  clear_value x5
  refine Keeps.ite ?_ ?_
  · apply State.modPoint_keeps
    exact hx5
  · refine Keeps.ite ?_ ?_
    · exact hx5
    · apply State.modPoint_keeps
      apply State.intervalEnd_keeps
      exact hx5

theorem State.pointSecond_keeps {r s : State} (h : Keeps r s) (m : Nat) (cyc : MtrCyc) : Keeps r (s.pointSecond m cyc) := by
  unfold State.pointSecond
  apply State.modPoint_keeps
  exact h

theorem State.pointEnergy_keeps {r s : State} (h : Keeps r s) (m : Nat) (cyc : MtrCyc) (q : MtrQuant) : Keeps r (s.pointEnergy m cyc q) := by
  unfold State.pointEnergy
  extract_lets x1 x2 x3 x4
  refine Keeps.ite ?_ ?_
  · exact h
  · refine Keeps.ite ?_ ?_
    · apply State.energyAdd_keeps
      exact h
    · apply State.modPoint_keeps
      exact h

theorem State.pointEnds_keeps {r s : State} (h : Keeps r s) (m : Nat) (cyc : MtrCyc) : Keeps r (s.pointEnds m cyc) := by
  unfold State.pointEnds
  extract_lets x1 x2 x3 x4 x5 x6 x7
  have hx6 : Keeps r x6 := by
    unfold x6
    refine Keeps.ite ?_ ?_
    · apply State.netClose_keeps
      exact h
    · exact h
  clear_value x6
  have hx7 : Keeps r x7 := by
    unfold x7
    refine Keeps.ite ?_ ?_
    · apply State.secondEnd_keeps
      exact hx6
    · exact hx6
  clear_value x7
  refine Keeps.ite ?_ ?_
  · apply State.intervalEnd_keeps
    exact hx7
  · exact hx7

theorem State.pointGap_keeps {r s : State} (h : Keeps r s) (m : Nat) (cyc : MtrCyc) : Keeps r (s.pointGap m cyc) := by
  unfold State.pointGap
  extract_lets x1
  refine Keeps.ite ?_ ?_
  · apply State.secondEnd_keeps
    refine Keeps.ite ?_ ?_
    · apply State.netClose_keeps
      exact h
    · exact h
  · exact h

theorem State.pointAccumulate_keeps {r s : State} (h : Keeps r s) (m : Nat) (cyc : MtrCyc) (q : MtrQuant) : Keeps r (s.pointAccumulate m cyc q) := by
  unfold State.pointAccumulate
  apply State.pointEnds_keeps
  apply State.pointEnergy_keeps
  apply State.pointSecond_keeps
  apply State.pointInterval_keeps
  apply State.pointGap_keeps
  apply State.outageFix_keeps
  exact h

theorem State.intervalCut_keeps {r s : State} (h : Keeps r s) (m : Nat) (mark : Nat) : Keeps r (s.intervalCut m mark) := by
  unfold State.intervalCut
  extract_lets x1
  have hx1 : Keeps r x1 := by
    unfold x1
    apply State.secondEnd_keeps
    apply State.netClose_keeps
    exact h
  clear_value x1
  refine Keeps.ite ?_ ?_
  · apply State.intervalEnd_keeps
    exact hx1
  · exact hx1

theorem State.pointReset_keeps {r s : State} (h : Keeps r s) (m : Nat) (mark : Nat) : Keeps r (s.pointReset m mark) := by
  unfold State.pointReset
  extract_lets x1
  have hx1 : Keeps r x1 := by
    unfold x1
    refine Keeps.ite ?_ ?_
    · apply State.intervalCut_keeps
      exact h
    · exact h
  clear_value x1
  refine Keeps.ite ?_ ?_
  · apply State.logRaise_keeps
    apply State.modPoint_keeps
    exact hx1
  · exact h

theorem State.mtrAdopt_keeps {r s : State} (h : Keeps r s) (mark : Nat) : Keeps r (s.mtrAdopt mark) := by
  unfold State.mtrAdopt
  extract_lets x1 x2 x3 x4
  have hx4 : Keeps r x4 := by
    unfold x4
    refine Keeps.foldl ?_ _ ?_
    · intro y5 y6 y7
      refine Keeps.ite ?_ ?_
      · apply State.intervalCut_keeps
        exact y7
      · exact y7
    · exact h
  clear_value x4
  refine Keeps.ite ?_ ?_
  · exact h
  · apply State.modMtr_keeps
    exact hx4

theorem State.cycleMeasure_keeps {r s : State} (h : Keeps r s) (cyc : MtrCyc) : Keeps r (s.cycleMeasure cyc) := by
  unfold State.cycleMeasure
  extract_lets x1 x2
  have hx2 : Keeps r x2 := by
    unfold x2
    refine Keeps.foldl ?_ _ ?_
    · intro y4 y5 y6
      extract_lets x8 x9 x10 x11
      have hx9 : Keeps r x9 := by
        unfold x9
        apply State.modPoint_keeps
        exact y6
      clear_value x9
      have hx11 : Keeps r x11 := by
        unfold x11
        refine Keeps.foldl ?_ _ ?_
        · intro y15 y16 y17
          refine Keeps.ite ?_ ?_
          · apply State.setReg_keeps
            exact y17
          · exact y17
        · exact hx9
      clear_value x11
      refine Keeps.ite ?_ ?_
      · refine Keeps.foldl ?_ _ ?_
        · intro y25 y26 y27
          apply State.mtrCond_keeps
          exact y27
        · exact hx11
      · exact y6
    · exact h
  clear_value x2
  apply State.count_keeps
  exact hx2

theorem State.cycleAccumulate_keeps {r s : State} (h : Keeps r s) (cyc : MtrCyc) (first : Bool) : Keeps r (s.cycleAccumulate cyc first) := by
  unfold State.cycleAccumulate
  extract_lets x1 x2
  have hx1 : Keeps r x1 := by
    unfold x1
    refine Keeps.foldl ?_ _ ?_
    · intro y4 y5 y6
      refine Keeps.ite ?_ ?_
      · apply State.pointAccumulate_keeps
        exact y6
      · exact y6
    · exact h
  clear_value x1
  have hx2 : Keeps r x2 := by
    unfold x2
    apply State.modMtr_keeps
    exact hx1
  clear_value x2
  apply State.mtrAdopt_keeps
  refine Keeps.foldl ?_ _ ?_
  · intro y16 y17 y18
    apply State.pointReset_keeps
    exact y18
  · exact hx2

theorem State.cycleHandle_keeps {r s : State} (h : Keeps r s) (cyc : MtrCyc) : Keeps r (s.cycleHandle cyc) := by
  unfold State.cycleHandle
  extract_lets x1 x2 x3
  have hx2 : Keeps r x2 := by
    unfold x2
    apply State.cycleMeasure_keeps
    exact h
  clear_value x2
  have hx3 : Keeps r x3 := by
    unfold x3
    refine Keeps.ite ?_ ?_
    · apply State.modMtr_keeps
      exact hx2
    · apply State.periodicSaves_keeps
      apply State.cycleAccumulate_keeps
      exact hx2
  clear_value x3
  apply State.modMtr_keeps
  exact hx3

theorem mtrCycleRow_keeps {r s : State} (h : Keeps r s) (now : Nat) : Keeps r (mtrCycleRow now s) := by
  unfold mtrCycleRow
  split
  · exact h
  · refine Keeps.ite ?_ ?_
    · apply State.cycleHandle_keeps
      apply State.modMtr_keeps
      apply State.advance_keeps
      exact h
    · exact h

theorem State.mtrFreeze_keeps {r s : State} (h : Keeps r s) : Keeps r (s.mtrFreeze) := by
  unfold State.mtrFreeze
  extract_lets x1
  have hx1 : Keeps r x1 := by
    unfold x1
    refine Keeps.foldl ?_ _ ?_
    · intro y3 y4 y5
      apply State.cycleHandle_keeps
      exact y5
    · apply State.modMtr_keeps
      exact h
  clear_value x1
  refine Keeps.ite ?_ ?_
  · apply State.modMtr_keeps
    apply State.backupSave_keeps
    exact hx1
  · exact h

theorem State.mtrThaw_keeps {r s : State} (h : Keeps r s) : Keeps r (s.mtrThaw) := by
  unfold State.mtrThaw
  extract_lets x1
  have hx1 : Keeps r x1 := by
    unfold x1
    apply State.modMtr_keeps
    exact h
  clear_value x1
  refine Keeps.ite ?_ ?_
  · apply State.periodicSaves_keeps
    refine Keeps.foldl ?_ _ ?_
    · intro y7 y8 y9
      apply State.cycleAccumulate_keeps
      exact y9
    · exact hx1
  · exact h

theorem State.pfwSet_keeps {r s : State} (h : Keeps r s) (on : Bool) : Keeps r (s.pfwSet on) := by
  unfold State.pfwSet
  extract_lets x1
  apply State.logRaise_keeps
  exact h.upd rfl rfl rfl rfl rfl rfl rfl rfl

theorem State.pfwSave_keeps {r s : State} (h : Keeps r s) : Keeps r (s.pfwSave) := by
  unfold State.pfwSave
  refine Keeps.ite ?_ ?_
  · apply State.mtrFreeze_keeps
    apply State.event_keeps
    exact h
  · exact h

theorem pfwAssertRow_keeps {r s : State} (h : Keeps r s) : Keeps r (pfwAssertRow s) := by
  unfold pfwAssertRow
  apply State.pfwSave_keeps
  apply State.wakeIf_keeps
  apply State.event_keeps
  apply State.pfwSet_keeps
  exact h

theorem pfwDeassertRow_keeps {r s : State} (h : Keeps r s) : Keeps r (pfwDeassertRow s) := by
  unfold pfwDeassertRow
  refine Keeps.ite ?_ ?_
  · exact h
  · refine Keeps.ite ?_ ?_
    · apply State.pfwSet_keeps
      exact h
    · apply State.mtrThaw_keeps
      apply State.pfwSet_keeps
      exact h

theorem State.mtrRefuseEnd_keeps {r s : State} (h : Keeps r s) : Keeps r (s.mtrRefuseEnd) := by
  unfold State.mtrRefuseEnd
  refine Keeps.ite ?_ ?_
  · apply State.modMtr_keeps
    exact h
  · exact h

theorem pulseStartRow_keeps {r s : State} (h : Keeps r s) (o : Nat) : Keeps r (pulseStartRow o s) := by
  unfold pulseStartRow
  extract_lets x1
  split
  · exact h
  · extract_lets x5
    have hx5 : Keeps r x5 := by
      unfold x5
      apply State.modPulse_keeps
      apply State.advance_keeps
      exact h
    clear_value x5
    refine Keeps.ite ?_ ?_
    · apply State.setReg_keeps
      exact hx5
    · exact h

theorem pulseEndRow_keeps {r s : State} (h : Keeps r s) (o : Nat) : Keeps r (pulseEndRow o s) := by
  unfold pulseEndRow
  extract_lets x1
  refine Keeps.ite ?_ ?_
  · apply State.modPulse_keeps
    apply State.advance_keeps
    exact h
  · exact h

theorem mtrPointLatch_keeps {r s : State} (h : Keeps r s) (m : Nat) : Keeps r (mtrPointLatch m s) := by
  unfold mtrPointLatch
  extract_lets x1 x2
  refine Keeps.ite ?_ ?_
  · exact h.upd rfl rfl rfl rfl rfl rfl rfl rfl
  · exact h.upd rfl rfl rfl rfl rfl rfl rfl rfl

theorem manMtrRead_keeps {r s : State} (h : Keeps r s) (n : Nat) (ok : Bool) : Keeps r (manMtrRead n ok s) := by
  unfold manMtrRead
  apply State.runManifest_keeps
  · exact h
  · intro y1 y2 y3 y4
    apply State.setAct_keeps
    exact y4

/-! ### Pilot.lean -/

theorem State.modPlt_keeps {r s : State} (h : Keeps r s) (f : Plt → Plt) : Keeps r (s.modPlt f) := by
  unfold State.modPlt
  exact h.upd rfl rfl rfl rfl rfl rfl rfl rfl

theorem State.setTask_keeps {r s : State} (h : Keeps r s) (i : Nat) (t : Task) : Keeps r (s.setTask i t) := by
  unfold State.setTask
  apply State.modPlt_keeps
  exact h

theorem State.modEng_keeps {r s : State} (h : Keeps r s) (e : Nat) (f : Eng → Eng) : Keeps r (s.modEng e f) := by
  unfold State.modEng
  apply State.modPlt_keeps
  exact h

theorem State.makeReady_keeps {r s : State} (h : Keeps r s) (i : Nat) (t : Task) : Keeps r (s.makeReady i t) := by
  unfold State.makeReady
  apply State.modPlt_keeps
  apply State.setTask_keeps
  exact h

theorem State.makeReadyHead_keeps {r s : State} (h : Keeps r s) (i : Nat) (t : Task) : Keeps r (s.makeReadyHead i t) := by
  unfold State.makeReadyHead
  extract_lets x1
  apply State.setTask_keeps
  exact h

theorem State.freeTask_keeps {r s : State} (h : Keeps r s) (i : Nat) : Keeps r (s.freeTask i) := by
  unfold State.freeTask
  apply State.setTask_keeps
  exact h

theorem State.pilotResume_keeps {r s : State} (h : Keeps r s) : Keeps r (s.pilotResume) := by
  unfold State.pilotResume
  refine Keeps.foldl ?_ _ ?_
  · intro y1 y2 y3
    extract_lets x5
    have hx5 : ∀ a0 a1 a2, Keeps r a0 → Keeps r (x5 a0 a1 a2) := by
      intro y6 y7 y8 y9
      unfold x5
      extract_lets x11 x12
      refine Keeps.ite ?_ ?_
      · apply State.modPlt_keeps
        exact y9
      · exact y9
    clear_value x5
    apply hx5
    apply hx5
    exact y3
  · exact h

theorem State.answer_keeps {r s : State} (h : Keeps r s) (owner : Nat) (a2 : SubmitRes) : Keeps r (s.answer owner a2) := by
  unfold State.answer
  apply State.modPlt_keeps
  exact h

theorem State.submit_keeps {r s : State} (h : Keeps r s) (a1 : TaskReq) : Keeps r (s.submit a1) := by
  unfold State.submit
  extract_lets x1
  refine Keeps.ite ?_ ?_
  · apply State.answer_keeps
    exact h
  · refine Keeps.ite ?_ ?_
    · apply State.answer_keeps
      exact h
    · refine Keeps.ite ?_ ?_
      · apply State.answer_keeps
        exact h
      · refine Keeps.ite ?_ ?_
        · apply State.event_keeps
          apply State.count_keeps
          apply State.modPlt_keeps
          apply State.answer_keeps
          exact h
        · split
          · apply State.answer_keeps
            exact h
          · extract_lets x2 x3
            have hx3 : Keeps r x3 := by
              unfold x3
              apply State.count_keeps
              apply State.answer_keeps
              exact h
            clear_value x3
            refine Keeps.ite ?_ ?_
            · apply State.modPlt_keeps
              apply State.setTask_keeps
              exact hx3
            · apply State.makeReady_keeps
              exact hx3

theorem State.submitWant_keeps {r s : State} (h : Keeps r s) (r0 : TaskReq) : Keeps r (s.submitWant r0) := by
  unfold State.submitWant
  extract_lets x1
  have hx1 : Keeps r x1 := by
    unfold x1
    apply State.submit_keeps
    exact h
  clear_value x1
  refine Keeps.ite ?_ ?_
  · apply State.modPlt_keeps
    exact hx1
  · exact hx1

theorem taskSubmitRow_keeps {r s : State} (h : Keeps r s) (req : Option TaskReq) : Keeps r (taskSubmitRow req s) := by
  unfold taskSubmitRow
  split
  · apply State.submit_keeps
    exact h
  · split
    · exact h
    · apply State.submitWant_keeps
      apply State.modPlt_keeps
      exact h

theorem State.sampleWrite_keeps {r s : State} (h : Keeps r s) (e : Nat) (i : Nat) (addr : Nat) (skid : Nat) : Keeps r (s.sampleWrite e i addr skid) := by
  unfold State.sampleWrite
  extract_lets x1 x2 x3 x4
  have hx4 : Keeps r x4 := by
    unfold x4
    apply State.count_keeps
    apply State.modEng_keeps
    apply State.dramWrite_keeps
    exact h
  clear_value x4
  refine Keeps.ite ?_ ?_
  · refine Keeps.ite ?_ ?_
    · apply State.count_keeps
      exact hx4
    · exact hx4
  · apply State.count_keeps
    exact h

theorem State.cntWrap_keeps {r s : State} (h : Keeps r s) (e : Nat) (i : Nat) (smp : Option SmpAt) : Keeps r (s.cntWrap e i smp) := by
  unfold State.cntWrap
  extract_lets x1
  have hx1 : Keeps r x1 := by
    unfold x1
    apply State.event_keeps
    exact h
  clear_value x1
  refine Keeps.ite ?_ ?_
  · split
    · refine Keeps.ite ?_ ?_
      · apply State.modEng_keeps
        exact hx1
      · apply State.sampleWrite_keeps
        exact hx1
    · apply State.sampleWrite_keeps
      apply State.freshNext_keeps
      apply State.freshNext_keeps
      exact hx1
  · exact hx1

theorem State.cntAdd_keeps {r s : State} (h : Keeps r s) (e : Nat) (i : Nat) (n : Nat) (smp : Option SmpAt) : Keeps r (s.cntAdd e i n smp) := by
  unfold State.cntAdd
  extract_lets x1 x2
  have hx2 : Keeps r x2 := by
    unfold x2
    apply State.setReg64_keeps
    exact h
  clear_value x2
  refine Keeps.ite ?_ ?_
  · apply State.cntWrap_keeps
    exact hx2
  · exact hx2

theorem State.engEvent_keeps {r s : State} (h : Keeps r s) (e : Nat) (code : Nat) : Keeps r (s.engEvent e code) := by
  unfold State.engEvent
  refine Keeps.ite ?_ ?_
  · refine Keeps.foldl ?_ _ ?_
    · intro y1 y2 y3
      refine Keeps.ite ?_ ?_
      · apply State.cntAdd_keeps
        exact y3
      · exact y3
    · exact h
  · exact h

theorem State.cntSpan_keeps {r s : State} (h : Keeps r s) (e : Nat) (x : EngSpan) (smp : Option (Nat × SmpAt)) : Keeps r (s.cntSpan e x smp) := by
  unfold State.cntSpan
  refine Keeps.foldl ?_ _ ?_
  · intro y1 y2 y3
    refine Keeps.ite ?_ ?_
    · apply State.cntAdd_keeps
      exact y3
    · exact y3
  · apply State.setReg64_keeps
    exact h

theorem State.engCatchUp_keeps {r s : State} (h : Keeps r s) (e : Nat) : Keeps r (s.engCatchUp e) := by
  unfold State.engCatchUp
  refine Keeps.ite ?_ ?_
  · apply State.cntSpan_keeps
    apply State.freshSkip_keeps
    exact h
  · exact h

theorem State.startOn_keeps {r s : State} (h : Keeps r s) (i : Nat) (e : Nat) : Keeps r (s.startOn i e) := by
  unfold State.startOn
  extract_lets x1 x2 x3 x4
  have hx2 : Keeps r x2 := by
    unfold x2
    apply State.engEvent_keeps
    apply State.engCatchUp_keeps
    exact h
  clear_value x2
  have hx3 : Keeps r x3 := by
    unfold x3
    apply State.modEng_keeps
    apply State.setTask_keeps
    exact hx2
  clear_value x3
  have hx4 : Keeps r x4 := by
    unfold x4
    apply State.count_keeps
    apply State.count_keeps
    exact hx3
  clear_value x4
  refine Keeps.ite ?_ ?_
  · apply State.count_keeps
    exact hx4
  · exact hx4

theorem State.resumeOn_keeps {r s : State} (h : Keeps r s) (i : Nat) (e : Nat) : Keeps r (s.resumeOn i e) := by
  unfold State.resumeOn
  extract_lets x1
  apply State.count_keeps
  apply State.modEng_keeps
  apply State.setTask_keeps
  apply State.engEvent_keeps
  apply State.engCatchUp_keeps
  exact h

theorem State.engineTake_keeps {r s : State} (h : Keeps r s) (e : Nat) : Keeps r (s.engineTake e) := by
  unfold State.engineTake
  split
  · exact h
  · apply State.resumeOn_keeps
    exact h
  · extract_lets x5
    have hx5 : Keeps r x5 := by
      unfold x5
      split
      · extract_lets x8
        apply State.setTask_keeps
        exact h
      · exact h
    clear_value x5
    apply State.startOn_keeps
    exact hx5

theorem State.preempt_keeps {r s : State} (h : Keeps r s) (e : Nat) : Keeps r (s.preempt e) := by
  have h0 : Keeps r ((s.engCatchUp e).engEvent e 0x10) := State.engEvent_keeps (State.engCatchUp_keeps h e) e 0x10
  unfold State.preempt
  refine State.count_keeps (State.count_keeps ?_ _) _
  split
  · exact State.modEng_keeps (State.setTask_keeps h0 _ _) _ _
  · exact h0

theorem taskDispatchRow_keeps {r s : State} (h : Keeps r s) (cls : Nat) : Keeps r (taskDispatchRow cls s) := by
  unfold taskDispatchRow
  extract_lets x1 x2
  clear_value x1
  clear_value x2
  refine Keeps.ite ?_ ?_
  · exact h
  · split
    · apply State.pilotResume_keeps
      apply State.engineTake_keeps
      exact h
    · split
      · refine Keeps.ite ?_ ?_
        · split
          · exact h
          · apply State.pilotResume_keeps
            apply State.startOn_keeps
            apply State.preempt_keeps
            exact h
        · exact h
      · exact h
      · apply State.pilotResume_keeps
        apply State.engineTake_keeps
        exact h
      · split
        · apply State.pilotResume_keeps
          apply State.startOn_keeps
          exact h
        · apply State.pilotResume_keeps
          apply State.startOn_keeps
          exact h
      · exact h

theorem State.passRoles_keeps {r s : State} (h : Keeps r s) (e : Nat) : Keeps r (s.passRoles e) := by
  unfold State.passRoles
  extract_lets x1 x2
  split
  · refine Keeps.foldl ?_ _ ?_
    · intro y5 y6 y7
      extract_lets x9 x10 x11
      refine Keeps.ite ?_ ?_
      · split
        · apply State.modPlt_keeps
          exact y7
        · exact y7
      · exact y7
    · exact h
  · split
    · extract_lets x21 x22
      have hx21 : Keeps r x21 := by
        unfold x21
        apply State.modPlt_keeps
        exact h
      clear_value x21
      have hx22 : Keeps r x22 := by
        unfold x22
        refine Keeps.ite ?_ ?_
        · exact hx21.upd rfl rfl rfl rfl rfl rfl rfl rfl
        · exact h
      clear_value x22
      refine Keeps.ite ?_ ?_
      · apply State.deriveStart_keeps
        apply State.modPlt_keeps
        exact hx22
      · exact hx22
    · exact h
  · split
    · exact h.upd rfl rfl rfl rfl rfl rfl rfl rfl
    · exact h
  · exact h

theorem State.clearAffinity_keeps {r s : State} (h : Keeps r s) (e : Nat) : Keeps r (s.clearAffinity e) := by
  unfold State.clearAffinity
  apply State.modPlt_keeps
  exact h

theorem State.migrateTask_keeps {r s : State} (h : Keeps r s) (i : Nat) : Keeps r (s.migrateTask i) := by
  unfold State.migrateTask
  extract_lets x1 x2
  have hx2 : Keeps r x2 := by
    unfold x2
    apply State.modPlt_keeps
    apply State.freeTask_keeps
    exact h
  clear_value x2
  refine Keeps.ite ?_ ?_
  · refine Keeps.ite ?_ ?_
    · apply State.count_keeps
      apply State.answer_keeps
      exact hx2
    · exact hx2
  · apply State.count_keeps
    apply State.makeReadyHead_keeps
    exact h

theorem State.migrate_keeps {r s : State} (h : Keeps r s) (e : Nat) : Keeps r (s.migrate e) := by
  unfold State.migrate
  extract_lets x1 x2 x3 x4
  have hx3 : Keeps r x3 := by
    unfold x3
    refine Keeps.foldl ?_ _ ?_
    · intro y5 y6 y7
      apply State.migrateTask_keeps
      exact y7
    · exact h
  clear_value x3
  have hx4 : Keeps r x4 := by
    unfold x4
    apply State.passRoles_keeps
    apply State.clearAffinity_keeps
    apply State.modEng_keeps
    apply State.engCatchUp_keeps
    exact hx3
  clear_value x4
  refine Keeps.ite ?_ ?_
  · exact hx4
  · apply State.event_keeps
    exact hx4

theorem State.noteEmpty_keeps {r s : State} (h : Keeps r s) (e : Nat) : Keeps r (s.noteEmpty e) := by
  unfold State.noteEmpty
  refine Keeps.ite ?_ ?_
  · apply State.event_keeps
    exact h
  · exact h

theorem State.rotShow_keeps {r s : State} (h : Keeps r s) (engine : Nat) (result : Nat) (done : Bool) : Keeps r (s.rotShow engine result done) := by
  unfold State.rotShow
  apply State.modPlt_keeps
  exact h

theorem State.rotEnd_keeps {r s : State} (h : Keeps r s) (a1 : Rot) : Keeps r (s.rotEnd a1) := by
  unfold State.rotEnd
  apply State.finishOpt_keeps
  apply State.event_keeps
  apply State.rotShow_keeps
  apply State.modPlt_keeps
  exact h

theorem State.rotOut_keeps {r s : State} (h : Keeps r s) (a1 : Rot) : Keeps r (s.rotOut a1) := by
  unfold State.rotOut
  extract_lets x1
  have hx1 : Keeps r x1 := by
    unfold x1
    apply State.leaseRevoke_keeps
    apply State.passRoles_keeps
    exact h
  clear_value x1
  apply State.modEng_keeps
  exact hx1

theorem State.rotCheck_keeps {r s : State} (h : Keeps r s) : Keeps r (s.rotCheck) := by
  unfold State.rotCheck
  split
  · exact h
  · extract_lets x3
    refine Keeps.ite ?_ ?_
    · apply State.rotOut_keeps
      exact h
    · exact h

theorem State.rotRequest_keeps {r s : State} (h : Keeps r s) (e : Nat) (action : Nat) (mid : Option Nat) : Keeps r (s.rotRequest e action mid) := by
  unfold State.rotRequest
  refine Keeps.ite ?_ ?_
  · apply State.finishOpt_keeps
    apply State.rotShow_keeps
    exact h
  · refine Keeps.ite ?_ ?_
    · apply State.finishOpt_keeps
      apply State.modPlt_keeps
      exact h
    · apply State.rotCheck_keeps
      apply State.noteEmpty_keeps
      apply State.clearAffinity_keeps
      apply State.modEng_keeps
      apply State.modPlt_keeps
      exact h

theorem rotCtrlWrite_keeps {r s : State} (h : Keeps r s) (v : Word) : Keeps r (rotCtrlWrite v s) := by
  unfold rotCtrlWrite
  extract_lets x1
  refine Keeps.ite ?_ ?_
  · apply State.rotRequest_keeps
    exact h
  · exact h

theorem pltRotFirmwareRow_keeps {r s : State} (h : Keeps r s) (v : Word) : Keeps r (pltRotFirmwareRow v s) := by
  unfold pltRotFirmwareRow
  apply rotCtrlWrite_keeps
  exact h

theorem pltRotSelftestRow_keeps {r s : State} (h : Keeps r s) (v : Word) : Keeps r (pltRotSelftestRow v s) := by
  unfold pltRotSelftestRow
  apply rotCtrlWrite_keeps
  exact h

theorem manRotate_keeps {r s : State} (h : Keeps r s) (n : Nat) : Keeps r (manRotate n s) := by
  unfold manRotate
  apply State.runManifest_keeps
  · exact h
  · intro y2 y3 y4 y5
    apply State.rotRequest_keeps
    exact y5

theorem rotDrainTimeoutRow_keeps {r s : State} (h : Keeps r s) : Keeps r (rotDrainTimeoutRow s) := by
  unfold rotDrainTimeoutRow
  split
  · exact h
  · refine Keeps.ite ?_ ?_
    · apply State.rotOut_keeps
      apply State.migrate_keeps
      apply State.advance_keeps
      exact h
    · exact h

theorem State.rotBegin_keeps {r s : State} (h : Keeps r s) : Keeps r (s.rotBegin) := by
  unfold State.rotBegin
  split
  · refine Keeps.ite ?_ ?_
    · apply State.modEng_keeps
      exact h
    · exact h
  · exact h

theorem engineLoadDoneRow_keeps {r s : State} (h : Keeps r s) (sigOk : Bool) : Keeps r (engineLoadDoneRow sigOk s) := by
  unfold engineLoadDoneRow
  extract_lets x1
  have hx1 : Keeps r x1 := by
    unfold x1
    apply State.rotBegin_keeps
    exact h
  clear_value x1
  split
  · exact hx1
  · extract_lets x2 x3 x4
    have hx4 : Keeps r x4 := by
      unfold x4
      apply State.modEng_keeps
      exact hx1
    clear_value x4
    refine Keeps.ite ?_ ?_
    · exact hx1
    · split
      · apply State.modPlt_keeps
        exact hx4
      · extract_lets x5 x6 x7 x8
        have hx5 : Keeps r x5 := by
          unfold x5
          apply State.modEng_keeps
          exact hx4
        clear_value x5
        have hx7 : Keeps r x7 := by
          unfold x7
          exact hx5.upd rfl rfl rfl rfl rfl rfl rfl rfl
        clear_value x7
        have hx8 : Keeps r x8 := by
          unfold x8
          apply State.logRaise_keeps
          exact hx7
        clear_value x8
        refine Keeps.ite ?_ ?_
        · apply State.deriveStart_keeps
          exact hx8
        · exact hx8

theorem State.rejoinDone_keeps {r s : State} (h : Keeps r s) (e : Nat) : Keeps r (s.rejoinDone e) := by
  unfold State.rejoinDone
  extract_lets x1
  have hx1 : Keeps r x1 := by
    unfold x1
    apply State.modEng_keeps
    exact h
  clear_value x1
  refine Keeps.ite ?_ ?_
  · exact h
  · split
    · refine Keeps.ite ?_ ?_
      · apply State.rotEnd_keeps
        exact hx1
      · exact hx1
    · exact hx1

theorem State.leaveEngine_keeps {r s : State} (h : Keeps r s) (i : Nat) : Keeps r (s.leaveEngine i) := by
  unfold State.leaveEngine
  split
  · apply State.modEng_keeps
    apply State.engCatchUp_keeps
    exact h
  · exact h

theorem taskWaitRow_keeps {r s : State} (h : Keeps r s) (i : Nat) : Keeps r (taskWaitRow i s) := by
  unfold taskWaitRow
  extract_lets x1
  refine Keeps.ite ?_ ?_
  · apply State.rotCheck_keeps
    apply State.setTask_keeps
    apply State.leaveEngine_keeps
    exact h
  · exact h

theorem waitEventRow_keeps {r s : State} (h : Keeps r s) (i : Nat) : Keeps r (waitEventRow i s) := by
  unfold waitEventRow
  extract_lets x1
  refine Keeps.ite ?_ ?_
  · apply State.makeReady_keeps
    exact h
  · exact h

theorem waitTimeoutRow_keeps {r s : State} (h : Keeps r s) (i : Nat) : Keeps r (waitTimeoutRow i s) := by
  unfold waitTimeoutRow
  extract_lets x1
  refine Keeps.ite ?_ ?_
  · apply State.count_keeps
    apply State.makeReady_keeps
    apply State.advance_keeps
    exact h
  · exact h

theorem delayWakeRow_keeps {r s : State} (h : Keeps r s) (i : Nat) : Keeps r (delayWakeRow i s) := by
  unfold delayWakeRow
  extract_lets x1
  refine Keeps.ite ?_ ?_
  · exact h
  · split
    · exact h
    · apply State.makeReady_keeps
      apply State.advance_keeps
      exact h
    · apply State.event_keeps
      apply State.count_keeps
      apply State.makeReady_keeps
      exact h

theorem taskAgingRow_keeps {r s : State} (h : Keeps r s) (i : Nat) : Keeps r (taskAgingRow i s) := by
  unfold taskAgingRow
  extract_lets x1 x2 x3
  have hx3 : Keeps r x3 := by
    unfold x3
    apply State.advance_keeps
    exact h
  clear_value x3
  refine Keeps.ite ?_ ?_
  · apply State.modPlt_keeps
    apply State.makeReady_keeps
    exact hx3
  · exact h

theorem State.taskEnd_keeps {r s : State} (h : Keeps r s) (i : Nat) (aborted : Bool) : Keeps r (s.taskEnd i aborted) := by
  unfold State.taskEnd
  extract_lets x1
  apply State.rotCheck_keeps
  apply State.pilotResume_keeps
  apply State.modPlt_keeps
  apply State.freeTask_keeps
  apply State.leaveEngine_keeps
  exact h

theorem taskCompleteRow_keeps {r s : State} (h : Keeps r s) (i : Nat) : Keeps r (taskCompleteRow i s) := by
  unfold taskCompleteRow
  extract_lets x1 x2
  have hx2 : Keeps r x2 := by
    unfold x2
    apply State.taskEnd_keeps
    exact h
  clear_value x2
  refine Keeps.ite ?_ ?_
  · refine Keeps.ite ?_ ?_
    · apply State.count_keeps
      apply State.answer_keeps
      exact hx2
    · exact hx2
  · exact h

theorem State.handleErr_keeps {r s : State} (h : Keeps r s) (owner : Nat) (index : Nat) : Keeps r (s.handleErr owner index) := by
  unfold State.handleErr
  apply State.answer_keeps
  apply State.report_keeps
  exact h

theorem taskAbortRow_keeps {r s : State} (h : Keeps r s) (i : Nat) (gen : Nat) (owner : Nat) : Keeps r (taskAbortRow i gen owner s) := by
  unfold taskAbortRow
  extract_lets x1
  refine Keeps.ite ?_ ?_
  · apply State.count_keeps
    apply State.answer_keeps
    exact h
  · refine Keeps.ite ?_ ?_
    · apply State.handleErr_keeps
      exact h
    · refine Keeps.ite ?_ ?_
      · apply State.setTask_keeps
        exact h
      · apply State.count_keeps
        apply State.answer_keeps
        apply State.taskEnd_keeps
        exact h

theorem taskProbeRow_keeps {r s : State} (h : Keeps r s) (v : Word) : Keeps r (taskProbeRow v s) := by
  unfold taskProbeRow
  extract_lets x1 x2 x3 x4
  apply State.setReg_keeps
  apply State.setReg_keeps
  apply State.setReg_keeps
  apply State.setReg_keeps
  apply State.setReg_keeps
  exact h

theorem rlCapWriteRow_keeps {r s : State} (h : Keeps r s) (c : Nat) (v : Word) : Keeps r (rlCapWriteRow c v s) := by
  unfold rlCapWriteRow
  extract_lets x1 x2
  refine Keeps.ite ?_ ?_
  · exact h
  · refine Keeps.ite ?_ ?_
    · apply State.event_keeps
      exact h
    · apply State.pilotResume_keeps
      apply State.setReg_keeps
      exact h

/-! ### Engine.lean -/

theorem State.cntGen_keeps {r s : State} (h : Keeps r s) (e : Nat) : Keeps r (s.cntGen e) := by
  unfold State.cntGen
  apply State.setReg_keeps
  exact h

theorem State.cntClear_keeps {r s : State} (h : Keeps r s) (e : Nat) : Keeps r (s.cntClear e) := by
  unfold State.cntClear
  apply State.cntGen_keeps
  refine Keeps.foldl ?_ _ ?_
  · intro y2 y3 y4
    apply State.setReg64_keeps
    exact y4
  · apply State.setReg64_keeps
    exact h

theorem engCounterWrapRow_keeps {r s : State} (h : Keeps r s) (e : Nat) (i : Nat) (addr : Nat) (skid : Nat) (busy : Bool) : Keeps r (engCounterWrapRow e i addr skid busy s) := by
  unfold engCounterWrapRow
  extract_lets x1 x2
  refine Keeps.ite ?_ ?_
  · apply State.cntSpan_keeps
    apply State.freshSkip_keeps
    exact h
  · exact h

theorem engCntCtrlWrite_keeps {r s : State} (h : Keeps r s) (e : Nat) (v : Word) : Keeps r (engCntCtrlWrite e v s) := by
  unfold engCntCtrlWrite
  extract_lets x1 x2 x3
  have hx1 : Keeps r x1 := by
    unfold x1
    apply State.engCatchUp_keeps
    exact h
  clear_value x1
  have hx2 : Keeps r x2 := by
    unfold x2
    refine Keeps.ite ?_ ?_
    · apply State.cntClear_keeps
      exact hx1
    · exact hx1
  clear_value x2
  have hx3 : Keeps r x3 := by
    unfold x3
    refine Keeps.ite ?_ ?_
    · apply State.modEng_keeps
      exact hx2
    · exact hx2
  clear_value x3
  refine Keeps.ite ?_ ?_
  · exact h
  · apply State.setReg_keeps
    exact hx3

theorem engCntClrRow_keeps {r s : State} (h : Keeps r s) (e : Nat) : Keeps r (engCntClrRow e s) := by
  unfold engCntClrRow
  apply engCntCtrlWrite_keeps
  exact h

theorem engCntSelWriteRow_keeps {r s : State} (h : Keeps r s) (e : Nat) (i : Nat) (v : Word) : Keeps r (engCntSelWriteRow e i v s) := by
  unfold engCntSelWriteRow
  refine Keeps.ite ?_ ?_
  · apply State.cntGen_keeps
    apply State.setReg_keeps
    apply State.engCatchUp_keeps
    exact h
  · exact h

theorem engCntPreloadRow_keeps {r s : State} (h : Keeps r s) (e : Nat) (i : Nat) (v : Nat) : Keeps r (engCntPreloadRow e i v s) := by
  unfold engCntPreloadRow
  refine Keeps.ite ?_ ?_
  · apply State.cntGen_keeps
    apply State.setReg64_keeps
    apply State.engCatchUp_keeps
    exact h
  · exact h

theorem State.catchUpAll_keeps {r s : State} (h : Keeps r s) : Keeps r (s.catchUpAll) := by
  unfold State.catchUpAll
  refine Keeps.foldl ?_ _ ?_
  · intro y1 y2 y3
    apply State.engCatchUp_keeps
    exact y3
  · exact h

theorem cntCtrlWrite_keeps {r s : State} (h : Keeps r s) (v : Word) : Keeps r (cntCtrlWrite v s) := by
  unfold cntCtrlWrite
  extract_lets x1 x2
  have hx1 : Keeps r x1 := by
    unfold x1
    apply State.catchUpAll_keeps
    exact h
  clear_value x1
  have hx2 : Keeps r x2 := by
    unfold x2
    refine Keeps.ite ?_ ?_
    · refine Keeps.foldl ?_ _ ?_
      · intro y7 y8 y9
        refine Keeps.ite ?_ ?_
        · apply State.cntClear_keeps
          exact y9
        · exact y9
      · exact hx1
    · exact hx1
  clear_value x2
  apply State.setReg_keeps
  exact hx2

theorem freezeAllRow_keeps {r s : State} (h : Keeps r s) (v : Word) : Keeps r (freezeAllRow v s) := by
  unfold freezeAllRow
  apply cntCtrlWrite_keeps
  exact h

theorem clrAllRow_keeps {r s : State} (h : Keeps r s) : Keeps r (clrAllRow s) := by
  unfold clrAllRow
  apply cntCtrlWrite_keeps
  exact h

theorem State.modDbg_keeps {r s : State} (h : Keeps r s) (f : Dbg → Dbg) : Keeps r (s.modDbg f) := by
  unfold State.modDbg
  exact h.upd rfl rfl rfl rfl rfl rfl rfl rfl

theorem State.dbgRecord_keeps {r s : State} (h : Keeps r s) (ev : Nat) (eng : Nat) : Keeps r (s.dbgRecord ev eng) := by
  unfold State.dbgRecord
  apply State.logRaise_keeps
  exact h

theorem State.dbgLock_keeps {r s : State} (h : Keeps r s) : Keeps r (s.dbgLock) := by
  unfold State.dbgLock
  refine Keeps.ite ?_ ?_
  · exact h
  · apply State.dbgRecord_keeps
    apply State.event_keeps
    apply State.modDbg_keeps
    exact h

theorem State.tapSelect_keeps {r s : State} (h : Keeps r s) (ir : TapIr) : Keeps r (s.tapSelect ir) := by
  unfold State.tapSelect
  apply State.modDbg_keeps
  exact h

theorem State.tapBypass_keeps {r s : State} (h : Keeps r s) : Keeps r (s.tapBypass) := by
  unfold State.tapBypass
  apply State.modDbg_keeps
  apply State.tapSelect_keeps
  exact h

theorem dbgTapResetRow_keeps {r s : State} (h : Keeps r s) : Keeps r (dbgTapResetRow s) := by
  unfold dbgTapResetRow
  apply State.dbgLock_keeps
  apply State.modDbg_keeps
  apply State.tapSelect_keeps
  exact h

theorem State.tapLoad_keeps {r s : State} (h : Keeps r s) (code : Nat) : Keeps r (s.tapLoad code) := by
  unfold State.tapLoad
  apply State.tapSelect_keeps
  exact h

theorem extestRow_keeps {r s : State} (h : Keeps r s) (resetLow : Bool) (bits : List Bool) : Keeps r (extestRow resetLow bits s) := by
  unfold extestRow
  extract_lets x1
  refine Keeps.ite ?_ ?_
  · apply State.emit_keeps
    apply State.modDbg_keeps
    apply State.tapLoad_keeps
    apply State.freshNext_keeps
    exact h
  · apply State.tapBypass_keeps
    exact h

theorem samplePreloadRow_keeps {r s : State} (h : Keeps r s) (captured : List Bool) (bits : List Bool) : Keeps r (samplePreloadRow captured bits s) := by
  unfold samplePreloadRow
  extract_lets x1
  refine Keeps.ite ?_ ?_
  · apply State.tapBypass_keeps
    exact h
  · apply State.emit_keeps
    apply State.modDbg_keeps
    apply State.tapSelect_keeps
    exact h

theorem idcodeRow_keeps {r s : State} (h : Keeps r s) : Keeps r (idcodeRow s) := by
  unfold idcodeRow
  apply State.emit_keeps
  apply State.modDbg_keeps
  apply State.tapSelect_keeps
  exact h

theorem highzRow_keeps {r s : State} (h : Keeps r s) (resetLow : Bool) : Keeps r (highzRow resetLow s) := by
  unfold highzRow
  refine Keeps.ite ?_ ?_
  · apply State.modDbg_keeps
    apply State.tapSelect_keeps
    exact h
  · apply State.tapBypass_keeps
    exact h

theorem clampRow_keeps {r s : State} (h : Keeps r s) (resetLow : Bool) : Keeps r (clampRow resetLow s) := by
  unfold clampRow
  refine Keeps.ite ?_ ?_
  · apply State.modDbg_keeps
    apply State.tapSelect_keeps
    exact h
  · apply State.tapBypass_keeps
    exact h

theorem bypassRow_keeps {r s : State} (h : Keeps r s) : Keeps r (bypassRow s) := by
  unfold bypassRow
  apply State.emit_keeps
  apply State.tapBypass_keeps
  exact h

theorem dbgNonceRow_keeps {r s : State} (h : Keeps r s) : Keeps r (dbgNonceRow s) := by
  unfold dbgNonceRow
  extract_lets x1 x2
  have hx1 : Keeps r x1 := by
    unfold x1
    apply State.tapSelect_keeps
    exact h
  clear_value x1
  refine Keeps.ite ?_ ?_
  · apply State.tapBypass_keeps
    exact h
  · refine Keeps.ite ?_ ?_
    · apply State.emit_keeps
      apply State.modDbg_keeps
      exact hx1
    · apply State.emit_keeps
      apply State.modDbg_keeps
      apply State.freshNext_keeps
      exact hx1

theorem State.unlockEnd_keeps {r s : State} (h : Keeps r s) (level : Nat) (res : Nat) : Keeps r (s.unlockEnd level res) := by
  unfold State.unlockEnd
  extract_lets x1
  have hx1 : Keeps r x1 := by
    unfold x1
    apply State.modDbg_keeps
    exact h
  clear_value x1
  refine Keeps.ite ?_ ?_
  · apply State.dbgRecord_keeps
    apply State.count_keeps
    apply State.event_keeps
    apply State.modDbg_keeps
    exact hx1
  · apply State.dbgRecord_keeps
    apply State.count_keeps
    apply State.event_keeps
    exact hx1

theorem dbgUnlockRow_keeps {r s : State} (h : Keeps r s) (level : Nat) (sig : List Byte) : Keeps r (dbgUnlockRow level sig s) := by
  unfold dbgUnlockRow
  extract_lets x1 x2
  have hx1 : Keeps r x1 := by
    unfold x1
    apply State.modDbg_keeps
    apply State.tapSelect_keeps
    exact h
  clear_value x1
  refine Keeps.ite ?_ ?_
  · apply State.unlockEnd_keeps
    apply State.modDbg_keeps
    apply State.tapBypass_keeps
    exact h
  · split
    · apply State.unlockEnd_keeps
      exact hx1
    · extract_lets x15
      have hx15 : Keeps r x15.1 := by
        unfold x15
        apply State.requestVerify_keeps
        exact hx1
      clear_value x15
      refine Keeps.ite ?_ ?_
      · apply State.unlockEnd_keeps
        exact hx1
      · refine Keeps.ite ?_ ?_
        · apply State.unlockEnd_keeps
          apply State.event_keeps
          apply State.keyUseErr_keeps
          exact hx1
        · refine Keeps.ite ?_ ?_
          · apply State.modDbg_keeps
            exact hx15
          · apply State.unlockEnd_keeps
            exact hx15

theorem State.engdbgShow_keeps {r s : State} (h : Keeps r s) (e : Nat) (err : Bool) (halted : Bool) (pc : Nat) (data : Nat) : Keeps r (s.engdbgShow e err halted pc data) := by
  unfold State.engdbgShow
  extract_lets x1
  apply State.emit_keeps
  apply State.modDbg_keeps
  apply State.tapSelect_keeps
  exact h

theorem State.engdbgOp_keeps {r s : State} (h : Keeps r s) (e : Nat) (op : Nat) : Keeps r (s.engdbgOp e op) := by
  unfold State.engdbgOp
  split
  · apply State.dbgRecord_keeps
    apply State.event_keeps
    apply State.modEng_keeps
    exact h
  · apply State.modEng_keeps
    exact h
  · apply State.modEng_keeps
    exact h
  · exact h

theorem State.engdbg_keeps {r s : State} (h : Keeps r s) (dr : Nat) : Keeps r (s.engdbg dr) := by
  unfold State.engdbg
  extract_lets x1 x2 x3 x4 x5
  have hx3 : Keeps r x3 := by
    unfold x3
    apply State.engdbgOp_keeps
    exact h
  clear_value x3
  have hx5 : Keeps r x5 := by
    unfold x5
    apply State.freshNext_keeps
    exact hx3
  clear_value x5
  refine Keeps.ite ?_ ?_
  · apply State.tapBypass_keeps
    exact h
  · refine Keeps.ite ?_ ?_
    · apply State.engdbgShow_keeps
      exact h
    · refine Keeps.ite ?_ ?_
      · apply State.engdbgShow_keeps
        apply State.freshNext_keeps
        exact hx5
      · apply State.engdbgShow_keeps
        exact hx5

theorem engdbgHaltRow_keeps {r s : State} (h : Keeps r s) (e : Nat) : Keeps r (engdbgHaltRow e s) := by
  unfold engdbgHaltRow
  apply State.engdbg_keeps
  exact h

theorem engdbgResumeRow_keeps {r s : State} (h : Keeps r s) (e : Nat) : Keeps r (engdbgResumeRow e s) := by
  unfold engdbgResumeRow
  apply State.engdbg_keeps
  exact h

theorem engdbgStepRow_keeps {r s : State} (h : Keeps r s) (e : Nat) : Keeps r (engdbgStepRow e s) := by
  unfold engdbgStepRow
  apply State.engdbg_keeps
  exact h

theorem engdbgReadLocalRow_keeps {r s : State} (h : Keeps r s) (e : Nat) (a : Nat) : Keeps r (engdbgReadLocalRow e a s) := by
  unfold engdbgReadLocalRow
  apply State.engdbg_keeps
  exact h

theorem engdbgReadRegRow_keeps {r s : State} (h : Keeps r s) (e : Nat) (r0 : Nat) : Keeps r (engdbgReadRegRow e r0 s) := by
  unfold engdbgReadRegRow
  apply State.engdbg_keeps
  exact h

theorem dbgCtrlWrite_keeps {r s : State} (h : Keeps r s) (v : Word) : Keeps r (dbgCtrlWrite v s) := by
  unfold dbgCtrlWrite
  extract_lets x1
  have hx1 : Keeps r x1 := by
    unfold x1
    refine Keeps.ite ?_ ?_
    · apply State.setReg_keeps
      exact h
    · exact h
  clear_value x1
  refine Keeps.ite ?_ ?_
  · apply State.dbgLock_keeps
    exact hx1
  · exact hx1

theorem dbgRelockRow_keeps {r s : State} (h : Keeps r s) : Keeps r (dbgRelockRow s) := by
  unfold dbgRelockRow
  apply dbgCtrlWrite_keeps
  exact h

theorem dbgPortDisRow_keeps {r s : State} (h : Keeps r s) : Keeps r (dbgPortDisRow s) := by
  unfold dbgPortDisRow
  apply dbgCtrlWrite_keeps
  exact h

end Sys2Proof.Machine
end

