-- ==== Sys2Proof/Laws/KeepsTime.lean ====
section
/-! SUPPORT. Keeps is kept by the time base, the ports, intake and the storage of quays. -/

namespace Sys2Proof.Machine

/-! ### TimeBase.lean -/

theorem State.modTb_keeps {r s : State} (h : Keeps r s) (f : Tb → Tb) : Keeps r (s.modTb f) := by
  unfold State.modTb
  exact h.upd rfl rfl rfl rfl rfl rfl rfl rfl

theorem State.modSrc_keeps {r s : State} (h : Keeps r s) (i : Nat) (f : Src → Src) : Keeps r (s.modSrc i f) := by
  unfold State.modSrc
  apply State.modTb_keeps
  exact h

theorem State.tbEvent_keeps {r s : State} (h : Keeps r s) (b : Nat) : Keeps r (s.tbEvent b) := by
  unfold State.tbEvent
  apply State.logRaise_keeps
  apply State.event_keeps
  exact h

theorem State.tbAlarm_keeps {r s : State} (h : Keeps r s) (kind : Nat) (on : Bool) : Keeps r (s.tbAlarm kind on) := by
  unfold State.tbAlarm
  apply State.almSend_keeps
  exact h

theorem State.setDt_keeps {r s : State} (h : Keeps r s) (st : DtSt) : Keeps r (s.setDt st) := by
  unfold State.setDt
  extract_lets x1 x2 x3 x4 x5
  have hx2 : Keeps r x2 := by
    unfold x2
    apply State.tbEvent_keeps
    apply State.modTb_keeps
    exact h
  clear_value x2
  have hx3 : Keeps r x3 := by
    unfold x3
    refine Keeps.ite ?_ ?_
    · exact hx2
    · apply State.tbAlarm_keeps
      exact hx2
  clear_value x3
  have hx5 : Keeps r x5 := by
    unfold x5
    refine Keeps.ite ?_ ?_
    · exact hx3
    · apply State.tbAlarm_keeps
      exact hx3
  clear_value x5
  refine Keeps.ite ?_ ?_
  · exact h
  · refine Keeps.ite ?_ ?_
    · apply State.event_keeps
      apply State.modTb_keeps
      exact hx5
    · exact hx5

theorem State.holdCheck_keeps {r s : State} (h : Keeps r s) : Keeps r (s.holdCheck) := by
  unfold State.holdCheck
  refine Keeps.ite ?_ ?_
  · apply State.setDt_keeps
    exact h
  · exact h

theorem State.enterHoldover_keeps {r s : State} (h : Keeps r s) (u : Nat) : Keeps r (s.enterHoldover u) := by
  unfold State.enterHoldover
  apply State.holdCheck_keeps
  apply State.setDt_keeps
  apply State.modTb_keeps
  exact h

theorem State.srcTo_keeps {r s : State} (h : Keeps r s) (i : Nat) (st : SrcSt) : Keeps r (s.srcTo i st) := by
  unfold State.srcTo
  extract_lets x1 x2
  have hx2 : Keeps r x2 := by
    unfold x2
    refine Keeps.ite ?_ ?_
    · apply State.enterHoldover_keeps
      exact h
    · exact h
  clear_value x2
  apply State.modSrc_keeps
  exact hx2

theorem State.dtStep_keeps {r s : State} (h : Keeps r s) (d : Int) : Keeps r (s.dtStep d) := by
  unfold State.dtStep
  extract_lets x1 x2
  have hx1 : Keeps r x1 := by
    unfold x1
    exact h.upd rfl rfl rfl rfl rfl rfl rfl rfl
  clear_value x1
  have hx2 : Keeps r x2 := by
    unfold x2
    apply State.modTb_keeps
    exact hx1
  clear_value x2
  apply State.feStep_keeps
  apply State.tbEvent_keeps
  apply State.count32_keeps
  exact hx2

theorem State.slewNow_keeps {r s : State} (h : Keeps r s) : Keeps r (s.slewNow) := by
  unfold State.slewNow
  apply State.modTb_keeps
  exact h

theorem State.slewTo_keeps {r s : State} (h : Keeps r s) (r0 : Int) : Keeps r (s.slewTo r0) := by
  unfold State.slewTo
  extract_lets x1
  apply State.modTb_keeps
  exact h

theorem slewingEndRow_keeps {r s : State} (h : Keeps r s) (at_ : Nat) (rest : Int) : Keeps r (slewingEndRow at_ rest s) := by
  unfold slewingEndRow
  refine Keeps.ite ?_ ?_
  · apply State.modTb_keeps
    apply State.slewTo_keeps
    apply State.advance_keeps
    exact h
  · exact h

theorem State.takeHeld_keeps {r s : State} (h : Keeps r s) (lo : Nat) : Keeps r (s.takeHeld lo) := by
  unfold State.takeHeld
  split
  · apply State.setReg_keeps
    exact h.upd rfl rfl rfl rfl rfl rfl rfl rfl
  · exact h

theorem tbSetApplyRow_keeps {r s : State} (h : Keeps r s) (v : Word) : Keeps r (tbSetApplyRow v s) := by
  unfold tbSetApplyRow
  extract_lets x1 x2 x3 x4
  have hx1 : Keeps r x1 := by
    unfold x1
    apply State.setReg_keeps
    apply State.takeHeld_keeps
    exact h
  clear_value x1
  refine Keeps.ite ?_ ?_
  · exact hx1
  · refine Keeps.ite ?_ ?_
    · apply State.event_keeps
      exact hx1
    · apply State.modTb_keeps
      exact hx1

theorem State.applySet_keeps {r s : State} (h : Keeps r s) : Keeps r (s.applySet) := by
  unfold State.applySet
  split
  · apply State.dtStep_keeps
    apply State.modTb_keeps
    exact h
  · exact h

theorem State.slewOn_keeps {r s : State} (h : Keeps r s) : Keeps r (s.slewOn) := by
  unfold State.slewOn
  extract_lets x1 x2 x3 x4
  have hx4 : Keeps r x4 := by
    unfold x4
    apply State.slewTo_keeps
    apply State.freshNext_keeps
    exact h
  clear_value x4
  apply State.modTb_keeps
  exact hx4

theorem State.tbInstant_keeps {r s : State} (h : Keeps r s) (t : Nat) : Keeps r (s.tbInstant t).1 := by
  unfold State.tbInstant
  extract_lets x1 x2 x3 x4 x5 x6 x7 x8
  have hx4 : Keeps r x4 := by
    unfold x4
    refine Keeps.ite ?_ ?_
    · apply State.modTb_keeps
      exact h
    · exact h
  clear_value x4
  have hx5 : Keeps r x5 := by
    unfold x5
    refine Keeps.ite ?_ ?_
    · refine Keeps.ite ?_ ?_
      · apply State.enterHoldover_keeps
        exact hx4
      · exact hx4
    · apply State.setDt_keeps
      exact hx4
  clear_value x5
  have hx6 : Keeps r x6 := by
    unfold x6
    refine Keeps.ite ?_ ?_
    · apply State.tbEvent_keeps
      apply State.count32_keeps
      exact hx5
    · exact hx5
  clear_value x6
  have hx8 : Keeps r x8 := by
    unfold x8
    refine Keeps.ite ?_ ?_
    · exact hx6
    · refine Keeps.ite ?_ ?_
      · apply State.slewOn_keeps
        exact hx6
      · apply State.slewNow_keeps
        exact hx6
  clear_value x8
  refine Keeps.iteFst ?_ ?_
  · dsimp only
    exact hx6
  · dsimp only
    apply State.modTb_keeps
    exact hx8

theorem State.crossCheck_keeps {r s : State} (h : Keeps r s) : Keeps r (s.crossCheck) := by
  unfold State.crossCheck
  split
  · extract_lets x2 x3
    have hx3 : Keeps r x3 := by
      unfold x3
      apply State.tbAlarm_keeps
      apply State.modTb_keeps
      exact h
    clear_value x3
    refine Keeps.ite ?_ ?_
    · refine Keeps.ite ?_ ?_
      · exact h
      · refine Keeps.ite ?_ ?_
        · apply State.unitFault_keeps
          apply State.tbEvent_keeps
          exact hx3
        · exact hx3
    · exact h

theorem State.measure_keeps {r s : State} (h : Keeps r s) (i : Nat) (m : Int) (extra : Nat) : Keeps r (s.measure i m extra) := by
  unfold State.measure
  extract_lets x1 x2 x3
  split
  · extract_lets x6 x7 x8 x9 x10
    have hx6 : Keeps r x6 := by
      unfold x6
      apply State.modSrc_keeps
      exact h
    have hx9 : Keeps r x9 := by
      unfold x9
      split
      · apply State.srcTo_keeps
        exact hx6
      · apply State.srcTo_keeps
        exact hx6
      · refine Keeps.ite ?_ ?_
        · apply State.modTb_keeps
          apply State.srcTo_keeps
          exact hx6
        · apply State.modSrc_keeps
          exact hx6
      · refine Keeps.ite ?_ ?_
        · apply State.srcTo_keeps
          exact hx6
        · apply State.modSrc_keeps
          exact hx6
      · exact hx6
    have hx10 : Keeps r x10 := by
      unfold x10
      refine Keeps.ite ?_ ?_
      · apply State.slewNow_keeps
        exact hx9
      · exact hx9
    clear_value x10
    apply State.crossCheck_keeps
    exact hx10

theorem State.srcDrop_keeps {r s : State} (h : Keeps r s) (i : Nat) : Keeps r (s.srcDrop i) := by
  unfold State.srcDrop
  apply State.count32_keeps
  exact h

theorem State.leapCompare_keeps {r s : State} (h : Keeps r s) (mismatch : Bool) : Keeps r (s.leapCompare mismatch) := by
  unfold State.leapCompare
  extract_lets x1
  have hx1 : Keeps r x1 := by
    unfold x1
    refine Keeps.ite ?_ ?_
    · apply State.event_keeps
      exact h
    · exact h
  clear_value x1
  refine Keeps.ite ?_ ?_
  · exact hx1
  · apply State.tbAlarm_keeps
    apply State.modTb_keeps
    exact hx1

theorem sourceLossRow_keeps {r s : State} (h : Keeps r s) (i : Nat) (at_ : Nat) : Keeps r (sourceLossRow i at_ s) := by
  unfold sourceLossRow
  extract_lets x1
  refine Keeps.ite ?_ ?_
  · apply State.modSrc_keeps
    apply State.srcTo_keeps
    apply State.advance_keeps
    exact h
  · exact h

theorem tbSrcCfgWriteRow_keeps {r s : State} (h : Keeps r s) (i : Nat) (v : Word) : Keeps r (tbSrcCfgWriteRow i v s) := by
  unfold tbSrcCfgWriteRow
  extract_lets x1 x2 x3
  have hx2 : Keeps r x2 := by
    unfold x2
    apply State.writeReg_keeps
    exact h
  clear_value x2
  refine Keeps.ite ?_ ?_
  · exact h
  · refine Keeps.ite ?_ ?_
    · refine Keeps.ite ?_ ?_
      · apply State.modSrc_keeps
        apply State.srcTo_keeps
        exact hx2
      · exact hx2
    · refine Keeps.ite ?_ ?_
      · apply State.modSrc_keeps
        exact hx2
      · refine Keeps.ite ?_ ?_
        · apply State.modSrc_keeps
          apply State.srcTo_keeps
          exact hx2
        · exact hx2

theorem State.announceRx_keeps {r s : State} (h : Keeps r s) (i : Nat) (m : PtpMsg) (a : Announce) : Keeps r (s.announceRx i m a) := by
  unfold State.announceRx
  extract_lets x1 x2 x3 x4 x5 x6 x7
  have hx3 : Keeps r x3 := by
    unfold x3
    apply State.modSrc_keeps
    exact h
  clear_value x3
  have hx5 : Keeps r x5 := by
    unfold x5
    refine Keeps.ite ?_ ?_
    · apply State.srcTo_keeps
      exact hx3
    · exact hx3
  clear_value x5
  have hx6 : Keeps r x6 := by
    unfold x6
    refine Keeps.ite ?_ ?_
    · apply State.modSrc_keeps
      exact hx5
    · exact hx3
  clear_value x6
  have hx7 : Keeps r x7 := by
    unfold x7
    apply State.modSrc_keeps
    exact hx6
  clear_value x7
  refine Keeps.ite ?_ ?_
  · refine Keeps.ite ?_ ?_
    · apply State.leapCompare_keeps
      exact hx7
    · exact hx7
  · exact hx6

theorem State.modPath_keeps {r s : State} (h : Keeps r s) (i : Nat) (p : Nat) (f : PtpPath → PtpPath) : Keeps r (s.modPath i p f) := by
  unfold State.modPath
  apply State.modSrc_keeps
  exact h

theorem State.syncMeasure_keeps {r s : State} (h : Keeps r s) (i : Nat) (p : Nat) (t1 : Int) (t2 : Int) : Keeps r (s.syncMeasure i p t1 t2) := by
  unfold State.syncMeasure
  extract_lets x1
  have hx1 : Keeps r x1 := by
    unfold x1
    apply State.modPath_keeps
    exact h
  clear_value x1
  refine Keeps.ite ?_ ?_
  · apply State.measure_keeps
    exact hx1
  · exact hx1

theorem State.ptpSend_keeps {r s : State} (h : Keeps r s) (i : Nat) (p : Nat) (kind : PtpTxKind) (seq : Nat) (requester : Nat) (time : Int) (correction : Int) (turn : Option Int) : Keeps r (s.ptpSend i p kind seq requester time correction turn) := by
  unfold State.ptpSend
  extract_lets x1 x2
  have hx2 : Keeps r x2 := by
    unfold x2
    apply State.offer_keeps
    exact h
  clear_value x2
  refine Keeps.ite ?_ ?_
  · apply State.modSrc_keeps
    exact hx2
  · exact hx2

theorem State.delayRespRx_keeps {r s : State} (h : Keeps r s) (i : Nat) (m : PtpMsg) (received : Nat) (requester : Nat) : Keeps r (s.delayRespRx i m received requester) := by
  unfold State.delayRespRx
  extract_lets x1
  split
  · refine Keeps.ite ?_ ?_
    · apply State.modPath_keeps
      apply State.modSrc_keeps
      exact h
    · exact h
  · exact h

theorem State.pdelayReqRx_keeps {r s : State} (h : Keeps r s) (i : Nat) (m : PtpMsg) : Keeps r (s.pdelayReqRx i m) := by
  unfold State.pdelayReqRx
  extract_lets x1
  refine Keeps.ite ?_ ?_
  · refine Keeps.ite ?_ ?_
    · apply State.ptpSend_keeps
      exact h
    · apply State.modSrc_keeps
      apply State.ptpSend_keeps
      exact h
  · exact h

theorem State.pdelayRespRx_keeps {r s : State} (h : Keeps r s) (i : Nat) (m : PtpMsg) (two : Bool) (received : Nat) (requester : Nat) : Keeps r (s.pdelayRespRx i m two received requester) := by
  unfold State.pdelayRespRx
  split
  · extract_lets x1 x2
    have hx2 : Keeps r x2 := by
      unfold x2
      apply State.modSrc_keeps
      exact h
    clear_value x2
    refine Keeps.ite ?_ ?_
    · refine Keeps.ite ?_ ?_
      · apply State.modSrc_keeps
        exact hx2
      · apply State.modSrc_keeps
        exact hx2
    · exact h
  · exact h

theorem State.pdelayFollowRx_keeps {r s : State} (h : Keeps r s) (i : Nat) (m : PtpMsg) (origin : Nat) (requester : Nat) : Keeps r (s.pdelayFollowRx i m origin requester) := by
  unfold State.pdelayFollowRx
  split
  · refine Keeps.ite ?_ ?_
    · apply State.modSrc_keeps
      exact h
    · exact h
  · exact h

theorem State.ptpAct_keeps {r s : State} (h : Keeps r s) (i : Nat) (m : PtpMsg) : Keeps r (s.ptpAct i m) := by
  unfold State.ptpAct
  extract_lets x1 x2 x3
  have hx3 : Keeps r x3 := by
    unfold x3
    apply State.modSrc_keeps
    exact h
  clear_value x3
  split
  · apply State.announceRx_keeps
    exact h
  · refine Keeps.ite ?_ ?_
    · refine Keeps.ite ?_ ?_
      · apply State.modSrc_keeps
        exact hx3
      · apply State.syncMeasure_keeps
        exact hx3
    · exact h
  · split
    · refine Keeps.ite ?_ ?_
      · apply State.syncMeasure_keeps
        apply State.modSrc_keeps
        exact h
      · exact h
    · exact h
  · apply State.delayRespRx_keeps
    exact h
  · apply State.pdelayReqRx_keeps
    exact h
  · apply State.pdelayRespRx_keeps
    exact h
  · apply State.pdelayFollowRx_keeps
    exact h
  · apply State.deliver_keeps
    exact h
  · apply State.deliver_keeps
    exact h

theorem State.ptpTaken_keeps {r s : State} (h : Keeps r s) (p : Nat) : Keeps r (s.ptpTaken p) := by
  unfold State.ptpTaken
  apply State.modTb_keeps
  exact h

theorem State.ptpAuthRx_keeps {r s : State} (h : Keeps r s) (i : Nat) (m : PtpMsg) : Keeps r (s.ptpAuthRx i m) := by
  unfold State.ptpAuthRx
  refine Keeps.ite ?_ ?_
  · apply State.srcDrop_keeps
    apply State.keyUseErr_keeps
    exact h
  · split
    · apply State.srcDrop_keeps
      apply State.count_keeps
      exact h
    · refine Keeps.ite ?_ ?_
      · apply State.ptpAct_keeps
        rename_i z1 z2 z3
        refine State.cryptoNow_keeps ?_ z3
        exact h
      · apply State.srcDrop_keeps
        rename_i z4 z5 z6
        refine State.cryptoNow_keeps ?_ z6
        exact h

theorem ptpMessageRxRow_keeps {r s : State} (h : Keeps r s) (p : Nat) : Keeps r (ptpMessageRxRow p s) := by
  unfold ptpMessageRxRow
  extract_lets x1
  have hx1 : Keeps r x1 := by
    unfold x1
    apply State.ptpTaken_keeps
    exact h
  clear_value x1
  split
  · exact hx1
  · split
    · exact hx1
    · refine Keeps.ite ?_ ?_
      · apply State.srcDrop_keeps
        exact hx1
      · refine Keeps.ite ?_ ?_
        · apply State.ptpAuthRx_keeps
          exact hx1
        · apply State.ptpAct_keeps
          exact hx1

theorem ptpEventTxRow_keeps {r s : State} (h : Keeps r s) (i : Nat) : Keeps r (ptpEventTxRow i s) := by
  unfold ptpEventTxRow
  extract_lets x1 x2 x3 x4
  refine Keeps.ite ?_ ?_
  · exact h
  · refine Keeps.foldl ?_ _ ?_
    · intro y5 y6 y7
      extract_lets x8
      apply State.modSrc_keeps
      apply State.ptpSend_keeps
      exact y7
    · exact h

theorem txTimestampRow_keeps {r s : State} (h : Keeps r s) (port : Nat) (m : PtpSent) (stamp : Nat) : Keeps r (txTimestampRow port m stamp s) := by
  unfold txTimestampRow
  extract_lets x1 x2 x3
  split
  · exact h
  · extract_lets x4
    have hx4 : Keeps r x4 := by
      unfold x4
      apply State.modSrc_keeps
      exact h
    clear_value x4
    refine Keeps.ite ?_ ?_
    · refine Keeps.ite ?_ ?_
      · apply State.ptpSend_keeps
        exact hx4
      · exact hx4
    · apply State.modSrc_keeps
      exact h

theorem ppsEdgeRow_keeps {r s : State} (h : Keeps r s) (rising : Bool) (stamp : Nat) : Keeps r (ppsEdgeRow rising stamp s) := by
  unfold ppsEdgeRow
  extract_lets x1 x2 x3 x4 x5 x6
  have hx1 : Keeps r x1 := by
    unfold x1
    apply State.wakeIf_keeps
    apply State.advance_keeps
    exact h
  clear_value x1
  refine Keeps.ite ?_ ?_
  · exact hx1
  · refine Keeps.ite ?_ ?_
    · refine Keeps.ite ?_ ?_
      · apply State.event_keeps
        apply State.srcDrop_keeps
        exact hx1
      · apply State.measure_keeps
        exact hx1
    · refine Keeps.ite ?_ ?_
      · apply State.measure_keeps
        exact hx1
      · exact hx1

theorem State.irigBad_keeps {r s : State} (h : Keeps r s) : Keeps r (s.irigBad) := by
  unfold State.irigBad
  apply State.event_keeps
  apply State.srcDrop_keeps
  exact h

theorem irigFrameRow_keeps {r s : State} (h : Keeps r s) (f : IrigFrame) : Keeps r (irigFrameRow f s) := by
  unfold irigFrameRow
  extract_lets x1 x2 x3 x4 x5
  have hx1 : Keeps r x1 := by
    unfold x1
    apply State.advance_keeps
    exact h
  clear_value x1
  have hx4 : Keeps r x4 := by
    unfold x4
    refine Keeps.ite ?_ ?_
    · apply State.leapCompare_keeps
      exact hx1
    · exact hx1
  clear_value x4
  refine Keeps.ite ?_ ?_
  · exact hx1
  · refine Keeps.ite ?_ ?_
    · apply State.irigBad_keeps
      exact hx1
    · split
      · apply State.irigBad_keeps
        exact hx4
      · apply State.measure_keeps
        exact hx4

theorem tbLeapLoadRow_keeps {r s : State} (h : Keeps r s) (v : Word) : Keeps r (tbLeapLoadRow v s) := by
  unfold tbLeapLoadRow
  extract_lets x1 x2
  have hx1 : Keeps r x1 := by
    unfold x1
    apply State.setReg_keeps
    exact h
  clear_value x1
  refine Keeps.ite ?_ ?_
  · exact hx1
  · refine Keeps.ite ?_ ?_
    · apply State.modTb_keeps
      exact hx1
    · apply State.event_keeps
      apply State.modTb_keeps
      exact hx1

theorem State.takeLeap_keeps {r s : State} (h : Keeps r s) : Keeps r (s.takeLeap) := by
  unfold State.takeLeap
  split
  · apply State.modTb_keeps
    exact h
  · exact h

theorem State.leapMoment_keeps {r s : State} (h : Keeps r s) (sec : Nat) : Keeps r (s.leapMoment sec) := by
  unfold State.leapMoment
  refine Keeps.ite ?_ ?_
  · apply State.tbEvent_keeps
    exact h
  · exact h

theorem State.holdGrow_keeps {r s : State} (h : Keeps r s) : Keeps r (s.holdGrow) := by
  unfold State.holdGrow
  refine Keeps.ite ?_ ?_
  · apply State.holdCheck_keeps
    apply State.modTb_keeps
    exact h
  · exact h

theorem State.tbSecond_keeps {r s : State} (h : Keeps r s) (sec : Nat) : Keeps r (s.tbSecond sec) := by
  unfold State.tbSecond
  apply State.holdGrow_keeps
  apply State.leapMoment_keeps
  apply State.takeLeap_keeps
  exact h

theorem ref10mLostRow_keeps {r s : State} (h : Keeps r s) : Keeps r (ref10mLostRow s) := by
  unfold ref10mLostRow
  extract_lets x1
  have hx1 : Keeps r x1 := by
    unfold x1
    apply State.modTb_keeps
    exact h
  clear_value x1
  refine Keeps.ite ?_ ?_
  · exact h
  · refine Keeps.ite ?_ ?_
    · apply State.report_keeps
      exact hx1
    · exact hx1

theorem ref10mRestoredRow_keeps {r s : State} (h : Keeps r s) : Keeps r (ref10mRestoredRow s) := by
  unfold ref10mRestoredRow
  apply State.modTb_keeps
  exact h

/-! ### Ports.lean -/

theorem State.modPort_keeps {r s : State} (h : Keeps r s) (p : Nat) (f : Port → Port) : Keeps r (s.modPort p f) := by
  unfold State.modPort
  extract_lets x1
  exact h.upd rfl rfl rfl rfl rfl rfl rfl rfl

theorem State.macCountBy_keeps {r s : State} (h : Keeps r s) (p : Nat) (c : Nat) (n : Nat) : Keeps r (s.macCountBy p c n) := by
  unfold State.macCountBy
  apply State.countBy_keeps
  exact h

theorem State.rxDrop_keeps {r s : State} (h : Keeps r s) (p : Nat) (c : Nat) : Keeps r (s.rxDrop p c) := by
  unfold State.rxDrop
  apply State.event_keeps
  apply State.macCountBy_keeps
  exact h

theorem State.jobStep_keeps {r s : State} (h : Keeps r s) (job : Option (Nat × Nat)) (lost : Bool) : Keeps r (s.jobStep job lost) := by
  unfold State.jobStep
  extract_lets x1
  split
  · exact h
  · split
    · exact h
    · extract_lets x7 x8
      refine Keeps.ite ?_ ?_
      · apply State.finish_keeps
        exact h.upd rfl rfl rfl rfl rfl rfl rfl rfl
      · exact h.upd rfl rfl rfl rfl rfl rfl rfl rfl

theorem State.jobQueued_keeps {r s : State} (h : Keeps r s) (job : Option (Nat × Nat)) : Keeps r (s.jobQueued job) := by
  unfold State.jobQueued
  extract_lets x1
  split
  · exact h
  · exact h.upd rfl rfl rfl rfl rfl rfl rfl rfl

theorem State.txDrop_keeps {r s : State} (h : Keeps r s) (p : Nat) (c : Nat) (f : TxFrame) : Keeps r (s.txDrop p c f) := by
  unfold State.txDrop
  apply State.jobStep_keeps
  apply State.event_keeps
  apply State.macCountBy_keeps
  exact h

theorem State.txStart_keeps {r s : State} (h : Keeps r s) (p : Nat) : Keeps r (s.txStart p) := by
  unfold State.txStart
  extract_lets x1 x2
  refine Keeps.ite ?_ ?_
  · exact h
  · split
    · apply State.modPort_keeps
      exact h
    · apply State.modPort_keeps
      exact h
    · apply State.modPort_keeps
      exact h
    · apply State.modPort_keeps
      exact h
    · exact h

theorem State.txPut_keeps {r s : State} (h : Keeps r s) (p : Nat) (f : TxFrame) : Keeps r (s.txPut p f) := by
  unfold State.txPut
  extract_lets x1 x2 x3
  have hx3 : Keeps r x3 := by
    unfold x3
    apply State.modPort_keeps
    exact h.upd rfl rfl rfl rfl rfl rfl rfl rfl
  clear_value x3
  apply State.txStart_keeps
  apply State.jobQueued_keeps
  exact hx3

theorem State.evictOne_keeps {r s : State} (h : Keeps r s) (p : Nat) : Keeps r (s.evictOne p) := by
  unfold State.evictOne
  split
  · extract_lets x2
    apply State.txDrop_keeps
    apply State.modPort_keeps
    exact h
  · split
    · apply State.txDrop_keeps
      apply State.modPort_keeps
      exact h
    · exact h

theorem State.makeRoom_keeps {r : State} (k : Nat) {s : State} (h : Keeps r s) (p n : Nat) : Keeps r (State.makeRoom k s p n) := by
  induction k generalizing s with
  | zero => exact h
  | succ k ih => exact Keeps.ite h (ih (State.evictOne_keeps h p))

theorem State.txCopy_keeps {r s : State} (h : Keeps r s) (p : Nat) (rct : Option (Nat × Bool)) (f : TxFrame) : Keeps r (s.txCopy p rct f) := by
  unfold State.txCopy
  extract_lets x1 x2
  refine Keeps.ite ?_ ?_
  · apply State.txDrop_keeps
    exact h
  · refine Keeps.ite ?_ ?_
    · apply State.txDrop_keeps
      exact h
    · refine Keeps.ite ?_ ?_
      · apply State.txPut_keeps
        apply State.makeRoom_keeps
        exact h
      · refine Keeps.ite ?_ ?_
        · apply State.txPut_keeps
          exact h
        · apply State.txDrop_keeps
          exact h

theorem State.jobTwo_keeps {r s : State} (h : Keeps r s) (job : Option (Nat × Nat)) : Keeps r (s.jobTwo job) := by
  unfold State.jobTwo
  extract_lets x1
  split
  · exact h
  · exact h.upd rfl rfl rfl rfl rfl rfl rfl rfl

theorem State.txOffer_keeps {r s : State} (h : Keeps r s) (p : Nat) (f : TxFrame) : Keeps r (s.txOffer p f) := by
  unfold State.txOffer
  split
  · apply State.txCopy_keeps
    exact h
  · extract_lets x1 x2
    have hx2 : Keeps r x2 := by
      unfold x2
      apply State.jobTwo_keeps
      apply State.modPort_keeps
      exact h
    clear_value x2
    apply State.txCopy_keeps
    apply State.txCopy_keeps
    exact hx2

theorem txEnqueueRow_keeps {r s : State} (h : Keeps r s) : Keeps r (txEnqueueRow s) := by
  unfold txEnqueueRow
  extract_lets x1
  split
  · exact h
  · extract_lets x5
    have hx5 : Keeps r x5 := by
      unfold x5
      exact h.upd rfl rfl rfl rfl rfl rfl rfl rfl
    clear_value x5
    split
    · refine Keeps.ite ?_ ?_
      · apply State.txOffer_keeps
        exact hx5
      · exact hx5
    · apply State.txOffer_keeps
      exact hx5

theorem alarmEnqueueRow_keeps {r s : State} (h : Keeps r s) : Keeps r (alarmEnqueueRow s) := by
  unfold alarmEnqueueRow
  extract_lets x1
  split
  · exact h
  · apply State.txOffer_keeps
    exact h.upd rfl rfl rfl rfl rfl rfl rfl rfl

theorem pauseExpiryRow_keeps {r s : State} (h : Keeps r s) (p : Nat) : Keeps r (pauseExpiryRow p s) := by
  unfold pauseExpiryRow
  split
  · apply State.txStart_keeps
    apply State.modPort_keeps
    apply State.advance_keeps
    exact h
  · exact h

theorem State.linkLeaveUp_keeps {r s : State} (h : Keeps r s) (p : Nat) (receiving : Bool) : Keeps r (s.linkLeaveUp p receiving) := by
  unfold State.linkLeaveUp
  extract_lets x1 x2 x3
  have hx2 : Keeps r x2 := by
    unfold x2
    apply State.modPort_keeps
    exact h
  clear_value x2
  have hx3 : Keeps r x3 := by
    unfold x3
    refine Keeps.foldl ?_ _ ?_
    · intro y7 y8 y9
      apply State.txDrop_keeps
      exact y9
    · exact hx2
  clear_value x3
  refine Keeps.ite ?_ ?_
  · apply State.rxDrop_keeps
    exact hx3
  · exact hx3

theorem State.linkTo_keeps {r s : State} (h : Keeps r s) (p : Nat) (l : LinkSt) (receiving : Bool) : Keeps r (s.linkTo p l receiving) := by
  unfold State.linkTo
  extract_lets x1 x2 x3
  have hx2 : Keeps r x2 := by
    unfold x2
    apply State.logRaise_keeps
    apply State.event_keeps
    apply State.modPort_keeps
    exact h
  clear_value x2
  have hx3 : Keeps r x3 := by
    unfold x3
    refine Keeps.ite ?_ ?_
    · apply State.linkLeaveUp_keeps
      exact hx2
    · exact hx2
  clear_value x3
  refine Keeps.ite ?_ ?_
  · exact h
  · refine Keeps.ite ?_ ?_
    · apply State.txStart_keeps
      exact hx3
    · exact hx3

theorem State.linkErrCheck_keeps {r s : State} (h : Keeps r s) (p : Nat) (receiving : Bool) : Keeps r (s.linkErrCheck p receiving) := by
  unfold State.linkErrCheck
  refine Keeps.ite ?_ ?_
  · refine Keeps.ite ?_ ?_
    · apply State.linkTo_keeps
      exact h
    · exact h
  · refine Keeps.ite ?_ ?_
    · apply State.linkTo_keeps
      apply State.modPort_keeps
      exact h
    · exact h

theorem State.anRestart_keeps {r s : State} (h : Keeps r s) (p : Nat) (old : Word) : Keeps r (s.anRestart p old) := by
  unfold State.anRestart
  refine Keeps.ite ?_ ?_
  · exact h
  · apply State.modPort_keeps
    exact h

theorem macCtrlWrite_keeps {r s : State} (h : Keeps r s) (p : Nat) (v : Word) (receiving : Bool) : Keeps r (macCtrlWrite p v receiving s) := by
  unfold macCtrlWrite
  extract_lets x1 x2 x3 x4 x5
  have hx1 : Keeps r x1 := by
    unfold x1
    refine Keeps.ite ?_ ?_
    · apply State.clearCounters_keeps
      exact h
    · exact h
  clear_value x1
  have hx3 : Keeps r x3 := by
    unfold x3
    apply State.anRestart_keeps
    apply State.writeReg_keeps
    exact hx1
  clear_value x3
  have hx4 : Keeps r x4 := by
    unfold x4
    refine Keeps.ite ?_ ?_
    · apply State.linkTo_keeps
      exact hx3
    · exact hx3
  clear_value x4
  have hx5 : Keeps r x5 := by
    unfold x5
    refine Keeps.ite ?_ ?_
    · apply State.linkErrCheck_keeps
      exact hx4
    · exact hx4
  clear_value x5
  refine Keeps.ite ?_ ?_
  · exact h
  · refine Keeps.ite ?_ ?_
    · apply State.modPort_keeps
      apply State.linkTo_keeps
      exact hx3
    · apply State.txStart_keeps
      exact hx5

theorem linkLockAcquiredRow_keeps {r s : State} (h : Keeps r s) (p : Nat) : Keeps r (linkLockAcquiredRow p s) := by
  unfold linkLockAcquiredRow
  extract_lets x1
  have hx1 : Keeps r x1 := by
    unfold x1
    apply State.modPort_keeps
    exact h
  clear_value x1
  refine Keeps.ite ?_ ?_
  · exact h
  · refine Keeps.ite ?_ ?_
    · apply State.linkErrCheck_keeps
      exact hx1
    · exact hx1

theorem linkLockLostRow_keeps {r s : State} (h : Keeps r s) (p : Nat) (receiving : Bool) : Keeps r (linkLockLostRow p receiving s) := by
  unfold linkLockLostRow
  extract_lets x1
  have hx1 : Keeps r x1 := by
    unfold x1
    apply State.modPort_keeps
    exact h
  clear_value x1
  refine Keeps.ite ?_ ?_
  · exact h
  · refine Keeps.ite ?_ ?_
    · apply State.linkTo_keeps
      exact hx1
    · exact hx1

theorem autonegCompleteRow_keeps {r s : State} (h : Keeps r s) (p : Nat) : Keeps r (autonegCompleteRow p s) := by
  unfold autonegCompleteRow
  refine Keeps.ite ?_ ?_
  · apply State.modPort_keeps
    exact h
  · exact h

theorem sgmiiControlRxRow_keeps {r s : State} (h : Keeps r s) (p : Nat) (slow : Bool) (receiving : Bool) : Keeps r (sgmiiControlRxRow p slow receiving s) := by
  unfold sgmiiControlRxRow
  refine Keeps.ite ?_ ?_
  · exact h
  · apply State.linkErrCheck_keeps
    apply State.modPort_keeps
    exact h

theorem linkQualifiedRow_keeps {r s : State} (h : Keeps r s) (p : Nat) : Keeps r (linkQualifiedRow p s) := by
  unfold linkQualifiedRow
  refine Keeps.ite ?_ ?_
  · apply State.linkTo_keeps
    exact h
  · exact h

theorem linkFaultRxRow_keeps {r s : State} (h : Keeps r s) (p : Nat) (remote : Bool) (hiBer : Bool) (receiving : Bool) : Keeps r (linkFaultRxRow p remote hiBer receiving s) := by
  unfold linkFaultRxRow
  extract_lets x1
  have hx1 : Keeps r x1 := by
    unfold x1
    apply State.modPort_keeps
    exact h
  clear_value x1
  refine Keeps.ite ?_ ?_
  · exact h
  · refine Keeps.ite ?_ ?_
    · exact h
    · refine Keeps.ite ?_ ?_
      · apply State.linkTo_keeps
        exact hx1
      · exact hx1

theorem linkFaultClearedRow_keeps {r s : State} (h : Keeps r s) (p : Nat) : Keeps r (linkFaultClearedRow p s) := by
  unfold linkFaultClearedRow
  extract_lets x1
  have hx1 : Keeps r x1 := by
    unfold x1
    apply State.modPort_keeps
    exact h
  clear_value x1
  refine Keeps.ite ?_ ?_
  · exact h
  · refine Keeps.ite ?_ ?_
    · apply State.linkTo_keeps
      exact hx1
    · exact hx1

theorem State.intakeEnter_keeps {r s : State} (h : Keeps r s) (f : InFrame) : Keeps r (s.intakeEnter f) := by
  unfold State.intakeEnter
  extract_lets x1 x2
  have hx1 : Keeps r x1 := by
    unfold x1
    apply State.count_keeps
    exact h
  clear_value x1
  refine Keeps.ite ?_ ?_
  · apply State.event_keeps
    apply State.count_keeps
    exact hx1
  · exact hx1.upd rfl rfl rfl rfl rfl rfl rfl rfl

theorem State.rxConsume_keeps {r s : State} (h : Keeps r s) (p : Nat) (f : WireFrame) (b : List Byte) : Keeps r (s.rxConsume p f b) := by
  unfold State.rxConsume
  extract_lets x1 x2
  refine Keeps.ite ?_ ?_
  · exact h.upd rfl rfl rfl rfl rfl rfl rfl rfl
  · split
    · apply State.intakeEnter_keeps
      exact h
    · refine Keeps.ite ?_ ?_
      · apply State.deliver_keeps
        exact h
      · apply State.event_keeps
        apply State.count_keeps
        exact h

theorem State.pauseRx_keeps {r s : State} (h : Keeps r s) (p : Nat) (time_ : Nat) (endStamp : Nat) : Keeps r (s.pauseRx p time_ endStamp) := by
  unfold State.pauseRx
  extract_lets x1
  have hx1 : Keeps r x1 := by
    unfold x1
    apply State.event_keeps
    apply State.macCountBy_keeps
    exact h
  clear_value x1
  refine Keeps.ite ?_ ?_
  · refine Keeps.ite ?_ ?_
    · apply State.txStart_keeps
      apply State.modPort_keeps
      exact hx1
    · apply State.modPort_keeps
      exact hx1
  · exact hx1

theorem State.prpEnter_keeps {r s : State} (h : Keeps r s) (e : Nat) (k : PrpEntry) : Keeps r (s.prpEnter e k) := by
  unfold State.prpEnter
  extract_lets x1
  refine Keeps.ite ?_ ?_
  · apply State.event_keeps
    apply State.macCountBy_keeps
    apply State.modPort_keeps
    exact h
  · apply State.modPort_keeps
    exact h

theorem State.prpRx_keeps {r s : State} (h : Keeps r s) (e : Nat) (p : Nat) (f : WireFrame) (b : List Byte) : Keeps r (s.prpRx e p f b).1 := by
  unfold State.prpRx
  extract_lets x1 x2 x3
  split
  · dsimp only
    apply State.macCountBy_keeps
    exact h
  · extract_lets x9 x10
    have hx9 : Keeps r x9 := by
      unfold x9
      refine Keeps.ite ?_ ?_
      · apply State.macCountBy_keeps
        exact h
      · exact h
    clear_value x9
    refine Keeps.iteFst ?_ ?_
    · dsimp only
      exact hx9
    · refine Keeps.iteFst ?_ ?_
      · dsimp only
        apply State.rxDrop_keeps
        exact h
      · dsimp only
        apply State.prpEnter_keeps
        exact hx9

theorem State.rxAccept_keeps {r s : State} (h : Keeps r s) (p : Nat) (f : WireFrame) (b : List Byte) (n : Nat) : Keeps r (s.rxAccept p f b n) := by
  unfold State.rxAccept
  extract_lets x1 x2
  have hx1 : Keeps r x1.fst := by
    unfold x1
    split
    · apply State.prpRx_keeps
      exact h
    · dsimp only
      exact h
  clear_value x1
  have hx2 : Keeps r x2 := by
    unfold x2
    apply State.modPort_keeps
    exact hx1
  clear_value x2
  split
  · apply State.rxConsume_keeps
    apply State.macCountBy_keeps
    apply State.macCountBy_keeps
    exact hx2
  · exact hx1

theorem State.rxDrain_keeps {r s : State} (h : Keeps r s) (p n : Nat) : Keeps r (s.rxDrain p n) := State.modPort_keeps h _ _

theorem State.rxFrame_keeps {r s : State} (h : Keeps r s) (p : Nat) (f : WireFrame) : Keeps r (s.rxFrame p f) := by
  unfold State.rxFrame
  extract_lets v n b lim s1
  have h1 : Keeps r s1 := State.rxDrain_keeps h p f.drained
  clear_value s1 v n b lim
  have hd (c : Nat) : Keeps r (s1.rxDrop p c) := State.rxDrop_keeps h1 p c
  exact Keeps.ite h (Keeps.ite (hd _) (Keeps.ite (hd _) (Keeps.ite (hd _) (Keeps.ite (hd _) (Keeps.ite (hd _)
    (Keeps.ite (Keeps.ite (State.pauseRx_keeps h1 _ _ _) (hd _)) (Keeps.ite (hd _) (Keeps.ite (hd _)
      (State.rxAccept_keeps h1 _ _ _ _)))))))))

theorem macRxFrameRow_keeps {r s : State} (h : Keeps r s) (p : Nat) (f : WireFrame) : Keeps r (macRxFrameRow p f s) := by
  unfold macRxFrameRow
  extract_lets x1
  have hx1 : Keeps r x1 := by
    unfold x1
    apply State.advance_keeps
    exact h
  clear_value x1
  refine Keeps.ite ?_ ?_
  · exact hx1
  · refine Keeps.ite ?_ ?_
    · apply State.rxDrain_keeps
      exact hx1
    · apply State.rxFrame_keeps
      exact hx1

theorem State.loopFrame_keeps {r s : State} (h : Keeps r s) (p : Nat) (f : TxFrame) : Keeps r (s.loopFrame p f) := by
  unfold State.loopFrame
  extract_lets x1 x2 x3
  apply State.rxFrame_keeps
  apply State.freshNext_keeps
  apply State.advance_keeps
  exact h

theorem txFrameDoneRow_keeps {r s : State} (h : Keeps r s) (p : Nat) : Keeps r (txFrameDoneRow p s) := by
  unfold txFrameDoneRow
  extract_lets x1
  have hx1 : Keeps r x1 := by
    unfold x1
    apply State.modPort_keeps
    exact h
  clear_value x1
  split
  · exact h
  · extract_lets x2 x3 x4
    have hx2 : Keeps r x2 := by
      unfold x2
      apply State.macCountBy_keeps
      apply State.macCountBy_keeps
      exact hx1
    clear_value x2
    have hx3 : Keeps r x3 := by
      unfold x3
      refine Keeps.ite ?_ ?_
      · apply State.macCountBy_keeps
        exact hx2
      · exact hx2
    clear_value x3
    have hx4 : Keeps r x4 := by
      unfold x4
      refine Keeps.ite ?_ ?_
      · apply State.loopFrame_keeps
        exact hx3
      · apply State.emit_keeps
        exact hx3
    clear_value x4
    apply State.txStart_keeps
    apply State.jobStep_keeps
    exact hx4

theorem manHostSend_keeps {r s : State} (h : Keeps r s) (n : Nat) (buf : Option (List Byte)) : Keeps r (manHostSend n buf s) := by
  unfold manHostSend
  apply State.runManifest_keeps
  · exact h
  · intro y2 y3 y4 y5
    extract_lets x7 x8 x9
    apply withBuf_keeps
    · exact y5
    · intro y12
      split
      · apply State.finish0_keeps
        exact y5
      · apply State.finish_keeps
        exact y5
      · extract_lets x19
        have hx19 : Keeps r x19 := by
          unfold x19
          exact y5.upd rfl rfl rfl rfl rfl rfl rfl rfl
        clear_value x19
        refine Keeps.foldl ?_ _ ?_
        · intro y22 y23 y24
          apply State.offer_keeps
          exact y24
        · exact hx19

/-! ### Intake.lean -/

theorem State.modBin_keeps {r s : State} (h : Keeps r s) (f : Bin → Bin) : Keeps r (s.modBin f) := by
  unfold State.modBin
  exact h.upd rfl rfl rfl rfl rfl rfl rfl rfl

theorem State.dirRetire_keeps {r s : State} (h : Keeps r s) : Keeps r (s.dirRetire) := by
  unfold State.dirRetire
  split
  · refine Keeps.ite ?_ ?_
    · apply State.modBin_keeps
      exact h
    · exact h
  · exact h

theorem State.dirApplyAt_keeps {r s : State} (h : Keeps r s) (t : Nat) : Keeps r (s.dirApplyAt t) := by
  unfold State.dirApplyAt
  split
  · extract_lets x1
    have hx1 : Keeps r x1 := by
      unfold x1
      apply State.event_keeps
      apply State.modBin_keeps
      exact h
    clear_value x1
    refine Keeps.ite ?_ ?_
    · apply State.dirRetire_keeps
      apply State.setReg_keeps
      exact hx1
    · exact h
  · exact h

theorem State.dirFix_keeps {r s : State} (h : Keeps r s) (sec : Nat) (k : Nat) (t : Nat) : Keeps r (s.dirFix sec k t) := by
  unfold State.dirFix
  apply State.setReg_keeps
  apply State.setReg64_keeps
  apply State.modBin_keeps
  exact h

theorem dirCtrlWrite_keeps {r s : State} (h : Keeps r s) (v : Word) : Keeps r (dirCtrlWrite v s) := by
  unfold dirCtrlWrite
  extract_lets x1 x2
  refine Keeps.ite ?_ ?_
  · apply State.event_keeps
    exact h
  · refine Keeps.ite ?_ ?_
    · refine Keeps.ite ?_ ?_
      · apply State.event_keeps
        apply State.modBin_keeps
        exact h
      · apply State.modBin_keeps
        exact h
    · refine Keeps.ite ?_ ?_
      · refine Keeps.ite ?_ ?_
        · apply State.event_keeps
          exact h
        · apply State.modBin_keeps
          exact h
      · exact h

theorem dirCopyDoneRow_keeps {r s : State} (h : Keeps r s) : Keeps r (dirCopyDoneRow s) := by
  unfold dirCopyDoneRow
  refine Keeps.ite ?_ ?_
  · apply State.modBin_keeps
    exact h
  · exact h

theorem State.dirRefuse_keeps {r s : State} (h : Keeps r s) (f : Nat × Nat × Nat) : Keeps r (s.dirRefuse f) := by
  unfold State.dirRefuse
  apply State.event_keeps
  apply State.setReg_keeps
  apply State.modBin_keeps
  exact h

theorem dirValidationDoneRow_keeps {r s : State} (h : Keeps r s) : Keeps r (dirValidationDoneRow s) := by
  unfold dirValidationDoneRow
  extract_lets x1
  refine Keeps.ite ?_ ?_
  · split
    · apply State.dirRefuse_keeps
      exact h
    · apply State.dirFix_keeps
      exact h
  · exact h

theorem State.berthCnt_keeps {r s : State} (h : Keeps r s) (b : Nat) (i : Nat) : Keeps r (s.berthCnt b i) := by
  unfold State.berthCnt
  extract_lets x1 x2
  apply State.modBin_keeps
  exact h

theorem binCtrlWrite_keeps {r s : State} (h : Keeps r s) (v : Word) : Keeps r (binCtrlWrite v s) := by
  unfold binCtrlWrite
  extract_lets x1
  have hx1 : Keeps r x1 := by
    unfold x1
    refine Keeps.ite ?_ ?_
    · apply State.modBin_keeps
      apply State.clearCounters_keeps
      exact h
    · exact h
  clear_value x1
  apply State.writeReg_keeps
  exact hx1

theorem cfgchgFifoReadRow_keeps {r s : State} (h : Keeps r s) : Keeps r (cfgchgFifoReadRow s) := by
  unfold cfgchgFifoReadRow
  split
  · exact h.upd rfl rfl rfl rfl rfl rfl rfl rfl
  · extract_lets x3
    have hx3 : Keeps r x3 := by
      unfold x3
      apply State.modBin_keeps
      exact h
    clear_value x3
    exact hx3.upd rfl rfl rfl rfl rfl rfl rfl rfl

theorem unkKeyReadRow_keeps {r s : State} (h : Keeps r s) : Keeps r (unkKeyReadRow s) := by
  unfold unkKeyReadRow
  extract_lets x1
  have hx1 : Keeps r x1 := by
    unfold x1
    apply State.setFld_keeps
    exact h
  clear_value x1
  exact hx1.upd rfl rfl rfl rfl rfl rfl rfl rfl

theorem State.unknownKey_keeps {r s : State} (h : Keeps r s) (ip : Word) (lsn : Nat) (idcode : Nat) : Keeps r (s.unknownKey ip lsn idcode) := by
  unfold State.unknownKey
  extract_lets x1
  have hx1 : Keeps r x1 := by
    unfold x1
    apply State.event_keeps
    apply State.count_keeps
    exact h
  clear_value x1
  refine Keeps.ite ?_ ?_
  · exact hx1
  · apply State.setReg_keeps
    apply State.setReg_keeps
    exact hx1

theorem State.cfgchgPush_keeps {r s : State} (h : Keeps r s) (b : Nat) : Keeps r (s.cfgchgPush b) := by
  unfold State.cfgchgPush
  extract_lets x1
  have hx1 : Keeps r x1 := by
    unfold x1
    apply State.event_keeps
    exact h
  clear_value x1
  refine Keeps.ite ?_ ?_
  · exact hx1
  · refine Keeps.ite ?_ ?_
    · apply State.event_keeps
      exact hx1
    · apply State.modBin_keeps
      exact hx1

theorem State.handOff_keeps {r s : State} (h : Keeps r s) (d : DataBlock) (nan : Bool) (cfgchg : Bool) (offgrid : Bool) : Keeps r (s.handOff d nan cfgchg offgrid) := by
  unfold State.handOff
  extract_lets x1 x2 x3 x4 x5
  have hx1 : Keeps r x1 := by
    unfold x1
    apply State.count_keeps
    apply State.berthCnt_keeps
    exact h
  clear_value x1
  have hx2 : Keeps r x2 := by
    unfold x2
    refine Keeps.ite ?_ ?_
    · apply State.berthCnt_keeps
      exact hx1
    · exact hx1
  clear_value x2
  have hx3 : Keeps r x3 := by
    unfold x3
    refine Keeps.ite ?_ ?_
    · apply State.berthCnt_keeps
      exact hx2
    · exact hx2
  clear_value x3
  have hx4 : Keeps r x4 := by
    unfold x4
    refine Keeps.ite ?_ ?_
    · apply State.cfgchgPush_keeps
      apply State.berthCnt_keeps
      exact hx3
    · exact hx3
  clear_value x4
  exact hx4.upd rfl rfl rfl rfl rfl rfl rfl rfl

theorem State.blockTake_keeps {r s : State} (h : Keeps r s) (f : InFrame) (bank : Bank) (n : Nat) (b : List Byte) (t : Nat) (mtq : Nat) : Keeps r (s.blockTake f bank n b t mtq) := by
  unfold State.blockTake
  split
  · apply State.berthCnt_keeps
    exact h
  · split
    · extract_lets x5 x6
      apply State.handOff_keeps
      exact h

theorem State.blocksTake_keeps {r s : State} (h : Keeps r s) (f : InFrame) (bank : Bank) (b : List Byte) (t mtq : Nat) (ms : List Nat)
    (off : Nat) (any : Bool) : Keeps r (s.blocksTake f bank b t mtq ms off any).1 := by
  induction ms generalizing s off any with
  | nil => exact h
  | cons m ms ih =>
    unfold State.blocksTake
    exact ih (Keeps.ite (State.blockTake_keeps h _ _ _ _ _ _) (State.count_keeps h _)) _ _

theorem State.intakeChecks_keeps {r s : State} (h : Keeps r s) (f : InFrame) : Keeps r (s.intakeChecks f).1 := by
  unfold State.intakeChecks
  extract_lets x1 x2 x3 x4 x5 x6 x7 x8 x9 x10 x11
  have hx3 : ∀ a0, Keeps r (x3 a0).1 := by
    intro y12
    unfold x3
    dsimp only
    apply State.count_keeps
    exact h
  clear_value x3
  have hx7 : Keeps r x7 := by
    unfold x7
    apply State.count_keeps
    exact h
  clear_value x7
  refine Keeps.iteFst ?_ ?_
  · apply hx3
  · refine Keeps.iteFst ?_ ?_
    · apply hx3
    · refine Keeps.iteFst ?_ ?_
      · apply hx3
      · refine Keeps.iteFst ?_ ?_
        · apply hx3
        · refine Keeps.iteFst ?_ ?_
          · apply hx3
          · refine Keeps.iteFst ?_ ?_
            · dsimp only
              refine Keeps.ite ?_ ?_
              · apply State.deliver_keeps
                exact hx7
              · exact hx7
            · refine Keeps.iteFst ?_ ?_
              · apply hx3
              · split
                · dsimp only
                  apply State.unknownKey_keeps
                  exact h
                · extract_lets x41
                  refine Keeps.iteFst ?_ ?_
                  · apply hx3
                  · refine Keeps.iteFst ?_ ?_
                    · apply hx3
                    · refine Keeps.iteFst ?_ ?_
                      · apply hx3
                      · split
                        · rename_i z49 z50 z51 z52 z53 z54 z55 z56 z57
                          have kz55 : Keeps r z55 := Keeps.ofFst z57 (by
                            apply State.blocksTake_keeps
                            exact h)
                          dsimp only
                          exact kz55

theorem State.rxHost_keeps {r s : State} (h : Keeps r s) (p : Nat) (b : List Byte) (at_ : Nat) : Keeps r (s.rxHost p b at_) := by
  unfold State.rxHost
  refine Keeps.ite ?_ ?_
  · apply State.deliver_keeps
    exact h
  · apply State.event_keeps
    apply State.count_keeps
    exact h

theorem intakeFrameRow_keeps {r s : State} (h : Keeps r s) : Keeps r (intakeFrameRow s) := by
  unfold intakeFrameRow
  split
  · exact h
  · extract_lets x1
    have hx1 : Keeps r x1 := by
      unfold x1
      apply State.modBin_keeps
      exact h
    clear_value x1
    split
    · apply State.rxHost_keeps
      exact hx1
    · split
      split
      · apply State.finish_keeps
        rename_i z2 z3 z4 z5 z6 z7 z8 z9 z10 z11 z12 z13 z14
        refine Keeps.ofFst z11 ?_
        apply State.intakeChecks_keeps
        exact hx1
      · rename_i z15 z16 z17 z18 z19 z20 z21 z22 z23 z24 z25 z26
        refine Keeps.ofFst z24 ?_
        apply State.intakeChecks_keeps
        exact hx1

theorem manInject_keeps {r s : State} (h : Keeps r s) (n : Nat) (buf : Option (List Byte)) : Keeps r (manInject n buf s) := by
  unfold manInject
  apply State.runManifest_keeps
  · exact h
  · intro y2 y3 y4 y5
    extract_lets x7
    split
    · apply State.finish0_keeps
      exact y5
    · refine Keeps.ite ?_ ?_
      · apply State.finish0_keeps
        exact y5
      · apply withBuf_keeps
        · exact y5
        · intro y16
          extract_lets x18
          have hx18 : Keeps r x18 := by
            unfold x18
            apply State.intakeEnter_keeps
            apply State.count_keeps
            exact y5
          clear_value x18
          refine Keeps.ite ?_ ?_
          · apply State.finish0_keeps
            exact y5
          · refine Keeps.ite ?_ ?_
            · apply State.finish_keeps
              exact hx18
            · exact hx18

theorem State.binWinStep_keeps {r s : State} (h : Keeps r s) : Keeps r (s.binWinStep) := by
  unfold State.binWinStep
  apply State.setFld_keeps
  exact h

theorem binWinWrite_keeps {r s : State} (h : Keeps r s) (v : Word) : Keeps r (binWinWrite v s) := by
  unfold binWinWrite
  extract_lets x1 x2 x3 x4
  have hx3 : Keeps r x3 := by
    unfold x3
    apply State.binWinStep_keeps
    exact h
  clear_value x3
  refine Keeps.ite ?_ ?_
  · exact hx3
  · refine Keeps.ite ?_ ?_
    · apply State.event_keeps
      exact hx3
    · refine Keeps.ite ?_ ?_
      · exact hx3
      · apply State.modBin_keeps
        exact hx3

/-! ### Quay.lean -/

theorem State.modAln_keeps {r s : State} (h : Keeps r s) (f : Aln → Aln) : Keeps r (s.modAln f) := by
  unfold State.modAln
  exact h.upd rfl rfl rfl rfl rfl rfl rfl rfl

theorem State.modQuay_keeps {r s : State} (h : Keeps r s) (seq : Nat) (f : Quay → Quay) : Keeps r (s.modQuay seq f) := by
  unfold State.modQuay
  apply State.modAln_keeps
  exact h

theorem State.modDet_keeps {r s : State} (h : Keeps r s) (seq : Nat) (d : Nat) (f : Det → Det) : Keeps r (s.modDet seq d f) := by
  unfold State.modDet
  apply State.modQuay_keeps
  exact h

theorem State.quayStore_keeps {r s : State} (h : Keeps r s) (q : Quay) : Keeps r (s.quayStore q) := by
  unfold State.quayStore
  apply State.dramRegion_keeps
  exact h

end Sys2Proof.Machine
end

