-- ==== Sys2Proof/Laws/KeepsDetect.lean ====
section
/-! SUPPORT. Keeps is kept by alignment, the two detectors, the alarm unit and the composer. -/

namespace Sys2Proof.Machine

/-! ### Align.lean -/

theorem State.alnNote_keeps {r s : State} (h : Keeps r s) : Keeps r (s.alnNote) := by
  unfold State.alnNote
  refine Keeps.ite ?_ ?_
  · refine Keeps.ite ?_ ?_
    · apply State.modAln_keeps
      exact h
    · exact h
  · apply State.modAln_keeps
    exact h

theorem alnEnWriteRow_keeps {r s : State} (h : Keeps r s) (v : Word) : Keeps r (alnEnWriteRow v s) := by
  unfold alnEnWriteRow
  extract_lets x1
  have hx1 : Keeps r x1 := by
    unfold x1
    refine Keeps.ite ?_ ?_
    · apply State.clearCounters_keeps
      exact h
    · exact h
  clear_value x1
  refine Keeps.ite ?_ ?_
  · apply State.alnNote_keeps
    apply State.event_keeps
    apply State.setFld_keeps
    exact hx1
  · apply State.alnNote_keeps
    apply State.writeReg_keeps
    exact hx1

theorem alnRingBaseLoWrite_keeps {r s : State} (h : Keeps r s) (v : Word) : Keeps r (alnRingBaseLoWrite v s) := by
  unfold alnRingBaseLoWrite
  refine Keeps.ite ?_ ?_
  · exact h.upd rfl rfl rfl rfl rfl rfl rfl rfl
  · exact h

theorem alnRingBaseWriteRow_keeps {r s : State} (h : Keeps r s) (v : Word) : Keeps r (alnRingBaseWriteRow v s) := by
  unfold alnRingBaseWriteRow
  extract_lets x1 x2 x3
  have hx3 : Keeps r x3 := by
    unfold x3
    apply State.setReg64_keeps
    exact h.upd rfl rfl rfl rfl rfl rfl rfl rfl
  clear_value x3
  refine Keeps.ite ?_ ?_
  · exact h
  · refine Keeps.ite ?_ ?_
    · apply State.alnNote_keeps
      apply State.modAln_keeps
      exact hx3
    · apply State.alnNote_keeps
      apply State.event_keeps
      apply State.modAln_keeps
      exact hx3

theorem alnProbeRow_keeps {r s : State} (h : Keeps r s) (v : Word) : Keeps r (alnProbeRow v s) := by
  unfold alnProbeRow
  extract_lets x1 x2 x3
  apply State.setReg_keeps
  apply State.setReg64_keeps
  exact h.upd rfl rfl rfl rfl rfl rfl rfl rfl

theorem State.slotReturn_keeps {r s : State} (h : Keeps r s) (q : Quay) : Keeps r (s.slotReturn q) := by
  unfold State.slotReturn
  split
  · apply State.leaseReturn_keeps
    exact h
  · exact h

theorem State.tugReturn_keeps {r s : State} (h : Keeps r s) (q : Quay) : Keeps r (s.tugReturn q) := by
  unfold State.tugReturn
  split
  · apply State.leaseReturn_keeps
    exact h
  · exact h

theorem State.spillDone_keeps {r s : State} (h : Keeps r s) (q : Quay) : Keeps r (s.spillDone q) := by
  unfold State.spillDone
  extract_lets x1
  have hx1 : Keeps r x1 := by
    unfold x1
    apply State.slotReturn_keeps
    apply State.tugReturn_keeps
    apply State.modQuay_keeps
    exact h
  clear_value x1
  split
  · apply State.quayStore_keeps
    exact hx1
  · exact hx1

theorem quaySpillDoneRow_keeps {r s : State} (h : Keeps r s) : Keeps r (quaySpillDoneRow s) := by
  unfold quaySpillDoneRow
  split
  · apply State.spillDone_keeps
    exact h
  · exact h

theorem State.copiesStart_keeps {r s : State} (h : Keeps r s) : Keeps r (s.copiesStart) := by
  unfold State.copiesStart
  refine Keeps.foldl ?_ _ ?_
  · intro y1 y2 y3
    split
    · refine Keeps.ite ?_ ?_
      · apply State.modQuay_keeps
        apply State.leaseTake_keeps
        exact y3
      · exact y3
    · exact y3
  · exact h

theorem State.spillCheck_keeps {r s : State} (h : Keeps r s) : Keeps r (s.spillCheck) := by
  unfold State.spillCheck
  extract_lets x1
  refine Keeps.ite ?_ ?_
  · exact h
  · split
    · apply State.copiesStart_keeps
      apply State.event_keeps
      apply State.count_keeps
      apply State.modQuay_keeps
      exact h
    · exact h

theorem State.takeSlot_keeps {r s : State} (h : Keeps r s) : Keeps r (s.takeSlot).1 := by
  unfold State.takeSlot
  extract_lets x1
  have hx1 : Keeps r x1 := by
    unfold x1
    refine Keeps.ite ?_ ?_
    · apply quaySpillDoneRow_keeps
      exact h
    · exact h
  clear_value x1
  split
  · dsimp only
    apply State.leaseTake_keeps
    exact hx1
  · dsimp only
    exact hx1

theorem State.putEntry_keeps {r s : State} (h : Keeps r s) (seq : Nat) (b : Nat) (e : Entry) : Keeps r (s.putEntry seq b e) := by
  unfold State.putEntry
  apply State.modQuay_keeps
  exact h

theorem State.alnRaise_keeps {r s : State} (h : Keeps r s) (d : Nat) (kind : Nat) (seq : Nat) : Keeps r (s.alnRaise d kind seq) := by
  unfold State.alnRaise
  extract_lets x1
  have hx1 : Keeps r x1 := by
    unfold x1
    apply State.almSend_keeps
    exact h
  clear_value x1
  refine Keeps.ite ?_ ?_
  · apply State.capNotice_keeps
    exact hx1
  · exact hx1

theorem State.quorumSet_keeps {r s : State} (h : Keeps r s) (q : Quay) (d : Nat) : Keeps r (s.quorumSet q d) := by
  unfold State.quorumSet
  extract_lets x1 x2 x3 x4
  have hx2 : Keeps r x2 := by
    unfold x2
    apply State.modQuay_keeps
    apply State.modDet_keeps
    exact h
  clear_value x2
  have hx3 : Keeps r x3 := by
    unfold x3
    apply State.count_keeps
    apply State.event_keeps
    exact hx2
  clear_value x3
  have hx4 : Keeps r x4 := by
    unfold x4
    refine Keeps.ite ?_ ?_
    · refine Keeps.foldl ?_ _ ?_
      · intro y13 y14 y15
        apply State.wantTask_keeps
        exact y15
      · exact hx3
    · refine Keeps.ite ?_ ?_
      · apply State.wantTask_keeps
        exact hx3
      · exact hx3
  clear_value x4
  apply State.alnRaise_keeps
  exact hx4

theorem State.quorumTest_keeps {r s : State} (h : Keeps r s) (seq : Nat) : Keeps r (s.quorumTest seq) := by
  unfold State.quorumTest
  refine Keeps.foldl ?_ _ ?_
  · intro y1 y2 y3
    split
    · refine Keeps.ite ?_ ?_
      · apply State.quorumSet_keeps
        exact y3
      · exact y3
    · exact y3
  · exact h

theorem State.noteWrite_keeps {r s : State} (h : Keeps r s) (seq : Nat) (b : Nat) (e : Entry) : Keeps r (s.noteWrite seq b e) := by
  unfold State.noteWrite
  refine Keeps.foldl ?_ _ ?_
  · intro y1 y2 y3
    extract_lets x5
    have hx5 : Keeps r x5 := by
      unfold x5
      apply State.modDet_keeps
      exact y3
    clear_value x5
    split
    · refine Keeps.ite ?_ ?_
      · split
        · extract_lets x12
          apply State.modDet_keeps
          exact hx5
        · exact hx5
      · exact y3
    · exact y3
  · exact h

theorem State.quayWrite_keeps {r s : State} (h : Keeps r s) (seq : Nat) (b : Nat) (e : Entry) (late : Bool) : Keeps r (s.quayWrite seq b e late) := by
  unfold State.quayWrite
  extract_lets x1
  have hx1 : Keeps r x1 := by
    unfold x1
    apply State.modQuay_keeps
    apply State.putEntry_keeps
    exact h
  clear_value x1
  refine Keeps.ite ?_ ?_
  · exact hx1
  · apply State.quorumTest_keeps
    apply State.noteWrite_keeps
    exact hx1

theorem State.spreadHold_keeps {r s : State} (h : Keeps r s) (q : Quay) (b : Nat) (e : Entry) : Keeps r (s.spreadHold q b e) := by
  unfold State.spreadHold
  extract_lets x1
  refine Keeps.ite ?_ ?_
  · exact h
  · refine Keeps.foldl ?_ _ ?_
    · intro y5 y6 y7
      split
      · refine Keeps.ite ?_ ?_
        · apply State.quayWrite_keeps
          exact y7
        · exact y7
      · exact y7
    · exact h

theorem State.quayOpen_keeps {r s : State} (h : Keeps r s) (sec : Nat) (k : Nat) (rate : Nat) (stepped : Bool) (tq : BitVec 16) : Keeps r (s.quayOpen sec k rate stepped tq) := by
  unfold State.quayOpen
  extract_lets x1 x2 x3 x4 x5
  split
  · rename_i z7 z8 z9 z10
    have kz8 : Keeps r z8 := Keeps.ofFst z10 (by
      apply State.takeSlot_keeps
      exact h)
    extract_lets x14 x15 x16
    have hx15 : Keeps r x15 := by
      unfold x15
      apply State.setReg64_keeps
      apply State.modAln_keeps
      exact kz8
    clear_value x15
    have hx16 : Keeps r x16 := by
      unfold x16
      apply State.spillCheck_keeps
      apply State.count_keeps
      exact hx15
    clear_value x16
    refine Keeps.foldl ?_ _ ?_
    · intro y24 y25 y26
      split
      · refine Keeps.ite ?_ ?_
        · apply State.quayWrite_keeps
          exact y26
        · exact y26
      · exact y26
    · exact hx16

theorem State.alnInstant_keeps {r s : State} (h : Keeps r s) (sec : Nat) (k : Nat) (rate : Nat) (stepped : Bool) (tq : BitVec 16) : Keeps r (s.alnInstant sec k rate stepped tq) := by
  unfold State.alnInstant
  extract_lets x1 x2
  have hx2 : Keeps r x2 := by
    unfold x2
    split
    · apply State.modQuay_keeps
      exact h
    · refine Keeps.ite ?_ ?_
      · apply State.quayOpen_keeps
        exact h
      · exact h
  clear_value x2
  apply State.modAln_keeps
  exact hx2

theorem State.openUpTo_keeps {r s : State} (h : Keeps r s) (last fuel from_ : Nat) : Keeps r (s.openUpTo last fuel from_) := by
  induction fuel generalizing s from_ with
  | zero => exact h
  | succ fuel ih =>
    unfold State.openUpTo
    split
    · exact Keeps.ite h (ih (State.quayOpen_keeps h _ _ _ _ _) _)
    · exact h

theorem State.snapshot_keeps {r s : State} (h : Keeps r s) (seq : Nat) (d : Nat) : Keeps r (s.snapshot seq d) := by
  unfold State.snapshot
  split
  · extract_lets x2
    refine Keeps.ite ?_ ?_
    · exact h
    · apply State.modDet_keeps
      exact h
  · exact h

theorem State.substitute_keeps {r s : State} (h : Keeps r s) (q : Quay) : Keeps r (s.substitute q) := by
  unfold State.substitute
  extract_lets x1
  refine Keeps.foldl ?_ _ ?_
  · intro y3 y4 y5
    apply State.count_keeps
    apply State.quayWrite_keeps
    exact y5
  · exact h

theorem State.withdrawOf_keeps {r s : State} (h : Keeps r s) (owner : Nat) (p : Nat → Nat → Bool) : Keeps r (s.withdrawOf owner p) := by
  unfold State.withdrawOf
  extract_lets x1
  have hx1 : Keeps r x1 := by
    unfold x1
    apply State.modPlt_keeps
    exact h
  clear_value x1
  refine Keeps.foldl ?_ _ ?_
  · intro y2 y3 y4
    apply State.freeTask_keeps
    exact y4
  · exact hx1

theorem State.withdraw_keeps {r s : State} (h : Keeps r s) (seq : Nat) (d : Nat) : Keeps r (s.withdraw seq d) := by
  unfold State.withdraw
  apply State.withdrawOf_keeps
  exact h

theorem State.withdrawIdle_keeps {r s : State} (h : Keeps r s) (q : Quay) : Keeps r (s.withdrawIdle q) := by
  unfold State.withdrawIdle
  refine Keeps.foldl ?_ _ ?_
  · intro y1 y2 y3
    refine Keeps.ite ?_ ?_
    · exact y3
    · apply State.withdraw_keeps
      exact y3
  · exact h

theorem State.settleNow_keeps {r s : State} (h : Keeps r s) (q : Quay) : Keeps r (s.settleNow q) := by
  unfold State.settleNow
  extract_lets x1 x2 x3
  have hx1 : Keeps r x1 := by
    unfold x1
    apply State.withdrawIdle_keeps
    exact h
  clear_value x1
  have hx2 : Keeps r x2 := by
    unfold x2
    apply State.event_keeps
    apply State.modQuay_keeps
    exact hx1
  clear_value x2
  have hx3 : Keeps r x3 := by
    unfold x3
    apply State.substitute_keeps
    exact hx2
  clear_value x3
  refine Keeps.foldl ?_ _ ?_
  · intro y4 y5 y6
    split
    · extract_lets x7 x8
      apply State.modDet_keeps
      exact y6
    · exact y6
  · exact hx3

theorem State.settleBegin_keeps {r s : State} (h : Keeps r s) (q : Quay) : Keeps r (s.settleBegin q) := by
  unfold State.settleBegin
  apply State.settleNow_keeps
  apply State.advance_keeps
  exact h

theorem State.alnNotice_keeps {r s : State} (h : Keeps r s) (q : Quay) (d : Nat) (o : Nat) : Keeps r (s.alnNotice q d o) := by
  unfold State.alnNotice
  apply State.almSend_keeps
  exact h

theorem State.settleDoneCheck_keeps {r s : State} (h : Keeps r s) (seq : Nat) : Keeps r (s.settleDoneCheck seq) := by
  unfold State.settleDoneCheck
  split
  · refine Keeps.ite ?_ ?_
    · apply State.modQuay_keeps
      exact h
    · exact h
  · exact h

theorem State.detFinish_keeps {r s : State} (h : Keeps r s) (seq : Nat) (d : Nat) (o : Nat) : Keeps r (s.detFinish seq d o) := by
  unfold State.detFinish
  split
  · exact h
  · extract_lets x3 x4
    have hx3 : Keeps r x3 := by
      unfold x3
      apply State.modDet_keeps
      exact h
    clear_value x3
    have hx4 : Keeps r x4 := by
      unfold x4
      split
      · apply State.count_keeps
        exact hx3
      · apply State.count_keeps
        exact hx3
      · apply State.count_keeps
        exact hx3
      · apply State.alnRaise_keeps
        apply State.event_keeps
        apply State.count_keeps
        exact hx3
      · apply State.alnRaise_keeps
        apply State.event_keeps
        apply State.count_keeps
        exact hx3
      · exact hx3
    clear_value x4
    apply State.settleDoneCheck_keeps
    apply State.alnNotice_keeps
    exact hx4

theorem State.lateReject_keeps {r s : State} (h : Keeps r s) (b : Nat) : Keeps r (s.lateReject b) := by
  unfold State.lateReject
  apply State.count_keeps
  apply State.berthCnt_keeps
  exact h

theorem State.guardMissNote_keeps {r s : State} (h : Keeps r s) (q : Quay) : Keeps r (s.guardMissNote q) := by
  unfold State.guardMissNote
  extract_lets x1
  have hx1 : Keeps r x1 := by
    unfold x1
    apply State.event_keeps
    apply State.count_keeps
    exact h
  clear_value x1
  refine Keeps.ite ?_ ?_
  · exact hx1
  · refine Keeps.foldl ?_ _ ?_
    · intro y8 y9 y10
      refine Keeps.ite ?_ ?_
      · apply State.alnRaise_keeps
        exact y10
      · exact y10
    · apply State.modQuay_keeps
      exact hx1

theorem State.lateCompare_keeps {r s : State} (h : Keeps r s) (q : Quay) (b : Nat) (e : Entry) (d : Nat) : Keeps r (s.lateCompare q b e d) := by
  unfold State.lateCompare
  extract_lets x1 x2 x3 x4 x5 x6
  have hx6 : Keeps r x6 := by
    unfold x6
    apply State.event_keeps
    apply State.modQuay_keeps
    apply State.modDet_keeps
    exact h
  clear_value x6
  refine Keeps.ite ?_ ?_
  · exact h
  · refine Keeps.ite ?_ ?_
    · refine Keeps.ite ?_ ?_
      · exact hx6
      · apply State.alnRaise_keeps
        exact hx6
    · exact h

theorem State.lateWrite_keeps {r s : State} (h : Keeps r s) (q : Quay) (b : Nat) (e : Entry) : Keeps r (s.lateWrite q b e) := by
  unfold State.lateWrite
  extract_lets x1 x2
  have hx1 : Keeps r x1 := by
    unfold x1
    apply State.modQuay_keeps
    apply State.quayWrite_keeps
    exact h
  clear_value x1
  have hx2 : Keeps r x2 := by
    unfold x2
    apply State.spreadHold_keeps
    apply State.berthCnt_keeps
    apply State.count_keeps
    exact hx1
  clear_value x2
  refine Keeps.foldl ?_ _ ?_
  · intro y11 y12 y13
    apply State.lateCompare_keeps
    exact y13
  · exact hx2

theorem State.blockMeet_keeps {r s : State} (h : Keeps r s) (q : Quay) (d : DataBlock) : Keeps r (s.blockMeet q d) := by
  unfold State.blockMeet
  extract_lets x1 x2 x3 x4
  have hx4 : Keeps r x4 := by
    unfold x4
    refine Keeps.ite ?_ ?_
    · apply State.guardMissNote_keeps
      exact h
    · exact h
  clear_value x4
  refine Keeps.ite ?_ ?_
  · apply State.lateReject_keeps
    exact h
  · refine Keeps.ite ?_ ?_
    · apply State.modQuay_keeps
      apply State.berthCnt_keeps
      exact hx4
    · refine Keeps.ite ?_ ?_
      · apply State.spreadHold_keeps
        apply State.quayWrite_keeps
        exact hx4
      · apply State.lateWrite_keeps
        exact hx4

theorem State.blockPlace_keeps {r s : State} (h : Keeps r s) (d : DataBlock) : Keeps r (s.blockPlace d) := by
  unfold State.blockPlace
  extract_lets x1 x2 x3 x4
  have hx4 : Keeps r x4 := by
    unfold x4
    apply State.openUpTo_keeps
    exact h
  clear_value x4
  split
  · refine Keeps.ite ?_ ?_
    · unfold x2
      apply State.event_keeps
      apply State.count_keeps
      exact h
    · apply State.blockMeet_keeps
      exact h
  · refine Keeps.ite ?_ ?_
    · apply State.count_keeps
      exact h
    · refine Keeps.ite ?_ ?_
      · unfold x2
        apply State.event_keeps
        apply State.count_keeps
        exact h
      · refine Keeps.ite ?_ ?_
        · apply State.lateReject_keeps
          exact h
        · split
          · apply State.blockMeet_keeps
            exact hx4
          · apply State.lateReject_keeps
            exact h

theorem alnBlockWriteRow_keeps {r s : State} (h : Keeps r s) : Keeps r (alnBlockWriteRow s) := by
  unfold alnBlockWriteRow
  split
  · exact h
  · refine Keeps.ite ?_ ?_
    · apply State.blockPlace_keeps
      apply State.modAln_keeps
      exact h
    · exact h

theorem State.sealNow_keeps {r s : State} (h : Keeps r s) (seq : Nat) : Keeps r (s.sealNow seq) := by
  unfold State.sealNow
  apply State.modQuay_keeps
  exact h

theorem State.sealStart_keeps {r s : State} (h : Keeps r s) (t : Nat) : Keeps r (s.sealStart t) := by
  unfold State.sealStart
  refine Keeps.foldl ?_ _ ?_
  · intro y1 y2 y3
    apply State.sealNow_keeps
    exact y3
  · exact h

theorem sealInstantWithoutGridRow_keeps {r s : State} (h : Keeps r s) : Keeps r (sealInstantWithoutGridRow s) := by
  unfold sealInstantWithoutGridRow
  refine Keeps.ite ?_ ?_
  · exact h
  · split
    · apply State.sealNow_keeps
      apply State.advance_keeps
      exact h
    · exact h

theorem State.sealDone_keeps {r s : State} (h : Keeps r s) (q : Quay) : Keeps r (s.sealDone q) := by
  unfold State.sealDone
  extract_lets x1 x2 x3
  have hx2 : Keeps r x2 := by
    unfold x2
    apply State.slotReturn_keeps
    apply State.tugReturn_keeps
    apply State.modQuay_keeps
    exact h
  clear_value x2
  have hx3 : Keeps r x3 := by
    unfold x3
    split
    · apply State.quayStore_keeps
      exact hx2
    · exact hx2
  clear_value x3
  apply State.dirRetire_keeps
  apply State.event_keeps
  apply State.count_keeps
  apply State.setReg64_keeps
  exact hx3

theorem State.sealFailed_keeps {r : State} : ∀ {s : State} (l : List Quay), Keeps r s → Keeps r (s.sealFailed l)
  | _, [], h => h
  | s, q :: l, h => by
    unfold State.sealFailed
    split
    · exact State.sealFailed_keeps l (State.sealDone_keeps h q)
    · exact h

theorem quaySealDoneRow_keeps {r s : State} (h : Keeps r s) : Keeps r (quaySealDoneRow s) := by
  unfold quaySealDoneRow
  split
  · refine Keeps.ite ?_ ?_
    · apply State.sealFailed_keeps
      apply State.sealDone_keeps
      exact h
    · exact h
  · exact h

theorem tugTransferErrorRow_keeps {r s : State} (h : Keeps r s) (seq : Nat) : Keeps r (tugTransferErrorRow seq s) := by
  unfold tugTransferErrorRow
  extract_lets x1
  have hx1 : Keeps r x1 := by
    unfold x1
    apply State.unitFault_keeps
    apply State.event_keeps
    apply State.count_keeps
    exact h
  clear_value x1
  split
  · exact h
  · refine Keeps.ite ?_ ?_
    · exact h
    · refine Keeps.ite ?_ ?_
      · refine State.sealFailed_keeps _ ?_
        apply State.tugReturn_keeps
        apply State.modQuay_keeps
        exact hx1
      · apply State.modQuay_keeps
        exact hx1

theorem State.alnWinStep_keeps {r s : State} (h : Keeps r s) : Keeps r (s.alnWinStep) := by
  unfold State.alnWinStep
  apply State.setFld_keeps
  exact h

/-! ### Osc.lean -/

theorem State.modOsc_keeps {r s : State} (h : Keeps r s) (f : Osc → Osc) : Keeps r (s.modOsc f) := by
  unfold State.modOsc
  exact h.upd rfl rfl rfl rfl rfl rfl rfl rfl

theorem State.taskWorked_keeps {r s : State} (h : Keeps r s) (i : Nat) : Keeps r (s.taskWorked i) := by
  unfold State.taskWorked
  extract_lets x1
  apply State.setTask_keeps
  exact h

theorem State.oscRan_keeps {r s : State} (h : Keeps r s) (g : Nat) (t : Nat × Task) : Keeps r (s.oscRan g t) := by
  unfold State.oscRan
  split
  · apply State.modOsc_keeps
    apply State.taskWorked_keeps
    exact h
  · apply State.taskWorked_keeps
    exact h

theorem State.oscNumber_keeps {r s : State} (h : Keeps r s) (g : Nat) (ds : List OscDec) : Keeps r (s.oscNumber g ds).1 := by
  induction ds generalizing s with
  | nil => exact h
  | cons d ds ih => exact ih (State.modOsc_keeps h _)

theorem State.oscSend_keeps {r s : State} (h : Keeps r s) (op : AlmOp) (g : Nat) (seq : Nat) (d : OscDec) : Keeps r (s.oscSend op g seq d) := by
  unfold State.oscSend
  apply State.almSend_keeps
  exact h

theorem State.oscSendAll_keeps {r s : State} (h : Keeps r s) (op : AlmOp) (g : Nat) (seq : Nat) (l : List OscDec) : Keeps r (s.oscSendAll op g seq l) := by
  unfold State.oscSendAll
  refine Keeps.foldl ?_ _ ?_
  · intro y1 y2 y3
    apply State.oscSend_keeps
    exact y3
  · exact h

theorem State.ringLines_keeps {r s : State} (h : Keeps r s) (base : Nat) (log : Nat) (wr : Nat) (b : List Byte) : Keeps r (s.ringLines base log wr b) := by
  unfold State.ringLines
  refine Keeps.foldl ?_ _ ?_
  · intro y1 y2 y3
    apply State.dramWrite_keeps
    exact y3
  · exact h

theorem State.tugDeliver_keeps {r s : State} (h : Keeps r s) (owner : Nat) (d : Delivery) : Keeps r (s.tugDeliver owner d) := by
  unfold State.tugDeliver
  split
  · apply State.deliver_keeps
    rename_i z1 z2 z3
    refine State.leaseNow_keeps ?_ z3
    exact h
  · apply State.dropDelivery_keeps
    exact h

theorem State.oscRecordWrite_keeps {r s : State} (h : Keeps r s) (q : Quay) (e : OscEval) (settled : Bool) (outcome : Nat) (decs : List OscDec) : Keeps r (s.oscRecordWrite q e settled outcome decs) := by
  unfold State.oscRecordWrite
  extract_lets x1 x2 x3 x4 x5
  have hx1 : Keeps r x1 := by
    unfold x1
    refine Keeps.ite ?_ ?_
    · apply State.count_keeps
      exact h
    · exact h
  clear_value x1
  refine Keeps.ite ?_ ?_
  · exact h
  · split
    extract_lets x6 x7
    have hx6 : Keeps r x6 := by
      unfold x6
      apply State.modOsc_keeps
      apply State.setReg64_keeps
      apply State.ringLines_keeps
      exact hx1
    clear_value x6
    have hx7 : Keeps r x7 := by
      unfold x7
      refine Keeps.ite ?_ ?_
      · exact hx6
      · apply State.event_keeps
        apply State.countBy_keeps
        exact hx6
    clear_value x7
    refine Keeps.ite ?_ ?_
    · apply State.tugDeliver_keeps
      exact hx7
    · exact hx7

theorem State.oscStop_keeps {r s : State} (h : Keeps r s) : Keeps r (s.oscStop) := by
  unfold State.oscStop
  extract_lets x1
  have hx1 : Keeps r x1 := by
    unfold x1
    apply State.withdrawOf_keeps
    exact h
  clear_value x1
  apply State.modOsc_keeps
  exact hx1

theorem oscEnWriteRow_keeps {r s : State} (h : Keeps r s) (v : Word) : Keeps r (oscEnWriteRow v s) := by
  unfold oscEnWriteRow
  extract_lets x1 x2 x3 x4
  have hx1 : Keeps r x1 := by
    unfold x1
    refine Keeps.ite ?_ ?_
    · apply State.clearCounters_keeps
      exact h
    · exact h
  clear_value x1
  refine Keeps.ite ?_ ?_
  · refine Keeps.ite ?_ ?_
    · apply State.modOsc_keeps
      apply State.setReg64_keeps
      apply State.writeReg_keeps
      exact hx1
    · apply State.event_keeps
      apply State.writeReg_keeps
      exact hx1
  · refine Keeps.ite ?_ ?_
    · apply State.oscStop_keeps
      apply State.writeReg_keeps
      exact hx1
    · apply State.writeReg_keeps
      exact hx1

theorem State.oscBases_keeps {r s : State} (h : Keeps r s) (seq : Nat) : Keeps r (s.oscBases seq) := by
  unfold State.oscBases
  split
  · apply State.modOsc_keeps
    exact h
  · exact h

theorem State.takeSnapshot_keeps {r s : State} (h : Keeps r s) (seq : Nat) (d : Nat) : Keeps r (s.takeSnapshot seq d) := by
  unfold State.takeSnapshot
  extract_lets x1
  have hx1 : Keeps r x1 := by
    unfold x1
    apply State.snapshot_keeps
    exact h
  clear_value x1
  split
  · refine Keeps.ite ?_ ?_
    · exact h
    · refine Keeps.ite ?_ ?_
      · apply State.oscBases_keeps
        exact hx1
      · exact hx1
  · exact h

theorem oscProvEvalRow_keeps {r s : State} (h : Keeps r s) (g : Nat) : Keeps r (oscProvEvalRow g s) := by
  unfold oscProvEvalRow
  split
  · exact h
  · extract_lets x1 x2
    have hx1 : Keeps r x1 := by
      unfold x1
      apply State.oscRan_keeps
      exact h
    clear_value x1
    split
    extract_lets x3 x4 x5 x6
    have hx4 : Keeps r x4 := by
      unfold x4
      apply State.count_keeps
      apply State.modOsc_keeps
      rename_i z7 z8 z9 z10 z11 z12 z13 z14
      refine Keeps.ofFst z14 ?_
      apply State.oscNumber_keeps
      exact hx1
    clear_value x4
    have hx5 : Keeps r x5 := by
      unfold x5
      refine Keeps.ite ?_ ?_
      · exact hx4
      · apply State.event_keeps
        exact hx4
    clear_value x5
    have hx6 : Keeps r x6 := by
      unfold x6
      apply State.oscRecordWrite_keeps
      apply State.oscSendAll_keeps
      exact hx5
    clear_value x6
    refine Keeps.ite ?_ ?_
    · apply State.event_keeps
      apply State.count_keeps
      exact hx6
    · exact hx6

theorem State.oscNotice_keeps {r s : State} (h : Keeps r s) (g : Nat) (seq : Nat) (o : Nat) : Keeps r (s.oscNotice g seq o) := by
  unfold State.oscNotice
  apply State.almSend_keeps
  exact h

theorem State.oscReadDrop_keeps {r s : State} (h : Keeps r s) (q g t : Nat) : Keeps r (s.oscReadDrop q g t) := by
  unfold State.oscReadDrop
  exact State.modOsc_keeps h _

theorem State.oscSettle_keeps {r s : State} (h : Keeps r s) (q : Quay) (g : Nat) (o : Nat) : Keeps r (s.oscSettle q g o) := by
  unfold State.oscSettle
  extract_lets x1 x2 x3 x4 x5 x6 x7 x8 x9 x10 x11 x12
  clear_value x1
  clear_value x2
  have hx3 : Keeps r x3 := by
    unfold x3
    apply State.modOsc_keeps
    apply State.oscReadDrop_keeps
    exact h
  clear_value x3
  have hx4 : ∀ a0, Keeps r a0 → Keeps r (x4 a0) := by
    intro y15 y16
    unfold x4
    refine Keeps.ite ?_ ?_
    · apply State.event_keeps
      apply State.count_keeps
      exact y16
    · exact y16
  clear_value x4
  clear_value x5
  have hx6 : Keeps r x6 := by
    unfold x6
    apply State.countBy_keeps
    apply State.oscSendAll_keeps
    exact hx3
  clear_value x6
  have hx7 : Keeps r x7 := by
    unfold x7
    refine Keeps.ite ?_ ?_
    · exact hx6
    · apply State.event_keeps
      exact hx6
  clear_value x7
  clear_value x8
  clear_value x9
  clear_value x10
  clear_value x11
  clear_value x12
  split
  · split
    · apply State.oscNotice_keeps
      exact hx3
    · apply State.oscRecordWrite_keeps
      apply State.oscNotice_keeps
      exact hx7
  · split
    · rename_i z37 z38 z39 z40 z41
      have kz39 : Keeps r z39 := Keeps.ofFst z41 (by
        apply State.oscNumber_keeps
        exact hx3)
      extract_lets x45 x46 x47 x48 x49
      clear_value x45
      have hx46 : Keeps r x46 := by
        unfold x46
        apply State.oscSendAll_keeps
        apply State.oscSendAll_keeps
        apply State.oscSendAll_keeps
        exact kz39
      clear_value x46
      have hx47 : Keeps r x47 := by
        unfold x47
        apply State.countBy_keeps
        apply State.countBy_keeps
        apply State.countBy_keeps
        apply State.count_keeps
        exact hx46
      clear_value x47
      have hx48 : Keeps r x48 := by
        unfold x48
        refine Keeps.ite ?_ ?_
        · exact hx47
        · apply State.event_keeps
          exact hx47
      clear_value x48
      have hx49 : Keeps r x49 := by
        unfold x49
        refine Keeps.ite ?_ ?_
        · exact hx48
        · apply State.event_keeps
          exact hx48
      clear_value x49
      apply hx4
      apply State.oscRecordWrite_keeps
      apply State.oscNotice_keeps
      exact hx49
  · split
    · rename_i z72 z73 z74 z75 z76
      have kz74 : Keeps r z74 := Keeps.ofFst z76 (by
        apply State.oscNumber_keeps
        exact hx3)
      extract_lets x80 x81 x82 x83 x84
      clear_value x80
      have hx81 : Keeps r x81 := by
        unfold x81
        apply State.oscSendAll_keeps
        apply State.oscSendAll_keeps
        apply State.oscSendAll_keeps
        exact kz74
      clear_value x81
      have hx82 : Keeps r x82 := by
        unfold x82
        apply State.countBy_keeps
        apply State.countBy_keeps
        apply State.countBy_keeps
        apply State.count_keeps
        exact hx81
      clear_value x82
      have hx83 : Keeps r x83 := by
        unfold x83
        refine Keeps.ite ?_ ?_
        · exact hx82
        · apply State.event_keeps
          exact hx82
      clear_value x83
      have hx84 : Keeps r x84 := by
        unfold x84
        refine Keeps.ite ?_ ?_
        · exact hx83
        · apply State.event_keeps
          exact hx83
      clear_value x84
      apply hx4
      apply State.oscRecordWrite_keeps
      apply State.oscNotice_keeps
      exact hx84
  · split
    · rename_i z107 z108 z109 z110 z111
      have kz109 : Keeps r z109 := Keeps.ofFst z111 (by
        apply State.oscNumber_keeps
        exact hx3)
      extract_lets x115 x116 x117 x118 x119
      clear_value x115
      have hx116 : Keeps r x116 := by
        unfold x116
        apply State.oscSendAll_keeps
        apply State.oscSendAll_keeps
        apply State.oscSendAll_keeps
        exact kz109
      clear_value x116
      have hx117 : Keeps r x117 := by
        unfold x117
        apply State.countBy_keeps
        apply State.countBy_keeps
        apply State.countBy_keeps
        apply State.count_keeps
        exact hx116
      clear_value x117
      have hx118 : Keeps r x118 := by
        unfold x118
        refine Keeps.ite ?_ ?_
        · exact hx117
        · apply State.event_keeps
          exact hx117
      clear_value x118
      have hx119 : Keeps r x119 := by
        unfold x119
        refine Keeps.ite ?_ ?_
        · exact hx118
        · apply State.event_keeps
          exact hx118
      clear_value x119
      apply hx4
      apply State.oscRecordWrite_keeps
      apply State.oscNotice_keeps
      exact hx119
  · apply State.oscNotice_keeps
    exact hx3
  · exact hx3

theorem State.oscFoldsDue_keeps {r s : State} (h : Keeps r s) (q : Quay) (o : Nat) : Keeps r (s.oscFoldsDue q o) := by
  unfold State.oscFoldsDue
  refine Keeps.ite ?_ ?_
  · exact h
  · refine Keeps.foldl ?_ _ ?_
    · intro y3 y4 y5
      apply State.wantTask_keeps
      apply State.modOsc_keeps
      exact y5
    · exact h

theorem State.oscSettled_keeps {r s : State} (h : Keeps r s) (seq : Nat) (g : Nat) (o : Nat) : Keeps r (s.oscSettled seq g o) := by
  unfold State.oscSettled
  extract_lets x1 x2
  have hx1 : Keeps r x1 := by
    unfold x1
    apply State.modOsc_keeps
    exact h
  clear_value x1
  have hx2 : Keeps r x2 := by
    unfold x2
    apply State.detFinish_keeps
    exact hx1
  clear_value x2
  refine Keeps.ite ?_ ?_
  · exact hx1
  · split
    · apply State.oscFoldsDue_keeps
      exact hx2
    · exact hx2

theorem State.oscRetract_keeps {r s : State} (h : Keeps r s) (q : Quay) (g : Nat) (o : Nat) : Keeps r (s.oscRetract q g o) := by
  unfold State.oscRetract
  extract_lets x1 x2
  have hx2 : Keeps r x2 := by
    unfold x2
    apply State.countBy_keeps
    apply State.oscSendAll_keeps
    apply State.modOsc_keeps
    exact h
  clear_value x2
  apply State.oscNotice_keeps
  refine Keeps.ite ?_ ?_
  · exact hx2
  · apply State.event_keeps
    exact hx2

theorem oscSettleEvalRow_keeps {r s : State} (h : Keeps r s) (g : Nat) : Keeps r (oscSettleEvalRow g s) := by
  unfold oscSettleEvalRow
  extract_lets x1
  split
  · exact h
  · apply State.oscSettled_keeps
    refine Keeps.ite ?_ ?_
    · apply State.oscRetract_keeps
      exact h
    · apply State.oscSettle_keeps
      exact h
  · apply State.oscSettled_keeps
    apply State.oscSettle_keeps
    apply State.oscRan_keeps
    exact h

theorem State.oscCheckpoint_keeps {r s : State} (h : Keeps r s) (g : Nat) : Keeps r (s.oscCheckpoint g) := by
  unfold State.oscCheckpoint
  split
  · apply State.modOsc_keeps
    refine Keeps.ite ?_ ?_
    · apply State.leaseTake_keeps
      exact h
    · exact h
  · exact h

theorem oscFoldRow_keeps {r s : State} (h : Keeps r s) (g : Nat) : Keeps r (oscFoldRow g s) := by
  unfold oscFoldRow
  split
  · exact h
  · split
    · exact h
    · extract_lets x1
      have hx1 : Keeps r x1 := by
        unfold x1
        apply State.modOsc_keeps
        apply State.oscRan_keeps
        exact h
      clear_value x1
      refine Keeps.ite ?_ ?_
      · exact h
      · split
        · exact hx1
        · extract_lets x2 x3
          have hx3 : Keeps r x3 := by
            unfold x3
            apply State.oscCheckpoint_keeps
            apply State.count_keeps
            apply State.modOsc_keeps
            apply State.oscReadDrop_keeps
            exact hx1
          clear_value x3
          refine Keeps.ite ?_ ?_
          · apply State.wantTask_keeps
            apply State.modOsc_keeps
            exact hx3
          · exact hx3

theorem oscExtractRow_keeps {r s : State} (h : Keeps r s) (g : Nat) : Keeps r (oscExtractRow g s) := by
  unfold oscExtractRow
  split
  · exact h
  · extract_lets x1 x2 x3
    have hx1 : Keeps r x1 := by
      unfold x1
      apply State.count_keeps
      apply State.modOsc_keeps
      apply State.oscRan_keeps
      exact h
    clear_value x1
    refine Keeps.ite ?_ ?_
    · exact h
    · split
      · apply State.event_keeps
        apply State.count_keeps
        apply State.modOsc_keeps
        exact hx1
      · apply State.modOsc_keeps
        exact hx1

theorem State.oscWinStep_keeps {r s : State} (h : Keeps r s) : Keeps r (s.oscWinStep) := by
  unfold State.oscWinStep
  apply State.setFld_keeps
  exact h

theorem State.oscStaleNote_keeps {r s : State} (h : Keeps r s) : Keeps r (s.oscStaleNote) := by
  unfold State.oscStaleNote
  refine Keeps.ite ?_ ?_
  · apply State.event_keeps
    exact h
  · exact h

/-! ### Isl.lean -/

theorem State.modIsl_keeps {r s : State} (h : Keeps r s) (f : Isl → Isl) : Keeps r (s.modIsl f) := by
  unfold State.modIsl
  exact h.upd rfl rfl rfl rfl rfl rfl rfl rfl

theorem State.islKeep_keeps {r s : State} (h : Keeps r s) (l : IslList) : Keeps r (s.islKeep l) := by
  unfold State.islKeep
  apply State.modIsl_keeps
  exact h

theorem State.islNumber_keeps {r s : State} (h : Keeps r s) (ds : List IslDec) : Keeps r (s.islNumber ds).1 := by
  induction ds generalizing s with
  | nil => exact h
  | cons d ds ih => exact ih (State.modIsl_keeps h _)

theorem State.islSend_keeps {r s : State} (h : Keeps r s) (op : AlmOp) (seq : Nat) (d : IslDec) : Keeps r (s.islSend op seq d) := by
  unfold State.islSend
  apply State.almSend_keeps
  exact h

theorem State.islSendAll_keeps {r s : State} (h : Keeps r s) (op : AlmOp) (seq : Nat) (l : List IslDec) : Keeps r (s.islSendAll op seq l) := by
  unfold State.islSendAll
  refine Keeps.foldl ?_ _ ?_
  · intro y1 y2 y3
    apply State.islSend_keeps
    exact y3
  · exact h

theorem State.islNotice_keeps {r s : State} (h : Keeps r s) (seq : Nat) (o : Nat) : Keeps r (s.islNotice seq o) := by
  unfold State.islNotice
  apply State.almSend_keeps
  exact h

theorem State.islMembWrite_keeps {r s : State} (h : Keeps r s) (seq : Nat) (x : IslComp) : Keeps r (s.islMembWrite seq x) := by
  unfold State.islMembWrite
  extract_lets x1 x2 x3 x4 x5 x6 x7 x8 x9
  have hx8 : Keeps r x8 := by
    unfold x8
    refine Keeps.foldl ?_ _ ?_
    · intro y11 y12 y13
      apply State.dramWrite_keeps
      exact y13
    · exact h
  clear_value x8
  have hx9 : Keeps r x9 := by
    unfold x9
    apply State.modIsl_keeps
    apply State.setReg64_keeps
    exact hx8
  clear_value x9
  refine Keeps.ite ?_ ?_
  · exact hx9
  · apply State.event_keeps
    apply State.countBy_keeps
    exact hx9

theorem State.islMemberships_keeps {r s : State} (h : Keeps r s) (seq : Nat) (l : List IslComp) : Keeps r (s.islMemberships seq l).1 := by
  unfold State.islMemberships
  refine Keeps.foldlFst ?_ _ ?_
  · intro y1 y2 y3
    extract_lets x5
    refine Keeps.iteFst ?_ ?_
    · dsimp only
      apply State.islMembWrite_keeps
      exact y3
    · exact y3
  · dsimp only
    exact h

theorem State.islRecordWrite_keeps {r s : State} (h : Keeps r s) (q : Quay) (e : IslEval) (settled : Bool) (outcome : Nat) (decs : List IslDec) : Keeps r (s.islRecordWrite q e settled outcome decs) := by
  unfold State.islRecordWrite
  refine Keeps.ite ?_ ?_
  · exact h
  · split
    extract_lets x1 x2 x3 x4
    split
    extract_lets x5 x6 x7 x8
    have hx5 : Keeps r x5 := by
      unfold x5
      apply State.modIsl_keeps
      apply State.setReg64_keeps
      apply State.ringLines_keeps
      rename_i z9 z10 z11 z12 z13 z14 z15 z16
      refine Keeps.ofFst z12 ?_
      apply State.islMemberships_keeps
      exact h
    clear_value x5
    have hx6 : Keeps r x6 := by
      unfold x6
      refine Keeps.ite ?_ ?_
      · exact hx5
      · apply State.event_keeps
        apply State.countBy_keeps
        exact hx5
    clear_value x6
    have hx7 : Keeps r x7 := by
      unfold x7
      refine Keeps.ite ?_ ?_
      · apply State.event_keeps
        apply State.count_keeps
        exact hx6
      · exact hx6
    clear_value x7
    have hx8 : Keeps r x8 := by
      unfold x8
      refine Keeps.ite ?_ ?_
      · apply State.countBy_keeps
        apply State.countBy_keeps
        exact hx7
      · exact hx7
    clear_value x8
    refine Keeps.ite ?_ ?_
    · apply State.tugDeliver_keeps
      exact hx8
    · exact hx8

theorem State.islStop_keeps {r s : State} (h : Keeps r s) : Keeps r (s.islStop) := by
  unfold State.islStop
  extract_lets x1
  have hx1 : Keeps r x1 := by
    unfold x1
    apply State.withdrawOf_keeps
    exact h
  clear_value x1
  apply State.modIsl_keeps
  exact hx1

theorem islEnWriteRow_keeps {r s : State} (h : Keeps r s) (v : Word) : Keeps r (islEnWriteRow v s) := by
  unfold islEnWriteRow
  extract_lets x1 x2 x3 x4
  have hx1 : Keeps r x1 := by
    unfold x1
    refine Keeps.ite ?_ ?_
    · apply State.clearCounters_keeps
      exact h
    · exact h
  clear_value x1
  refine Keeps.ite ?_ ?_
  · refine Keeps.ite ?_ ?_
    · apply State.modIsl_keeps
      apply State.setReg64_keeps
      apply State.setReg64_keeps
      apply State.writeReg_keeps
      exact hx1
    · apply State.event_keeps
      apply State.writeReg_keeps
      exact hx1
  · refine Keeps.ite ?_ ?_
    · apply State.islStop_keeps
      apply State.writeReg_keeps
      exact hx1
    · apply State.writeReg_keeps
      exact hx1

theorem State.islRun_keeps {r s : State} (h : Keeps r s) (q : Quay) (base : IslState) (prior : List IslList) (get : Nat → Option Entry) (prov : List IslComp) : Keeps r (s.islRun q base prior get prov).1 := by
  unfold State.islRun
  extract_lets x1 x2 x3 x4
  split
  extract_lets x5 x6 x7
  have hx6 : Keeps r x6 := by
    unfold x6
    apply State.modIsl_keeps
    exact h
  clear_value x6
  have hx7 : Keeps r x7 := by
    unfold x7
    refine Keeps.ite ?_ ?_
    · apply State.event_keeps
      apply State.count_keeps
      exact hx6
    · exact hx6
  clear_value x7
  dsimp only
  exact hx7

theorem State.islSnapshot_keeps {r s : State} (h : Keeps r s) (seq : Nat) : Keeps r (s.islSnapshot seq) := by
  unfold State.islSnapshot
  split
  · refine Keeps.ite ?_ ?_
    · exact h
    · apply State.modIsl_keeps
      apply State.snapshot_keeps
      exact h
  · exact h

theorem State.islRan_keeps {r s : State} (h : Keeps r s) (t : Nat × Task) (seq : Nat) : Keeps r (s.islRan t seq) := by
  unfold State.islRan
  apply State.modIsl_keeps
  apply State.taskWorked_keeps
  exact h

theorem State.islReadDrop_keeps {r s : State} (h : Keeps r s) (seq : Nat) (typ : Nat) : Keeps r (s.islReadDrop seq typ) := by
  unfold State.islReadDrop
  apply State.modIsl_keeps
  exact h

theorem islProvEvalRow_keeps {r s : State} (h : Keeps r s) : Keeps r (islProvEvalRow s) := by
  unfold islProvEvalRow
  split
  · exact h
  · extract_lets x1
    have hx1 : Keeps r x1 := by
      unfold x1
      apply State.islReadDrop_keeps
      apply State.islRan_keeps
      exact h
    clear_value x1
    split
    split
    extract_lets x2 x3 x4
    have hx2 : Keeps r x2 := by
      unfold x2
      apply State.islKeep_keeps
      apply State.count_keeps
      apply State.modIsl_keeps
      rename_i z5 z6 z7 z8 z9 z10 z11 z12 z13 z14 z15 z16 z17
      refine Keeps.ofFst z17 ?_
      apply State.islNumber_keeps
      refine Keeps.ofFst z13 ?_
      apply State.islRun_keeps
      exact hx1
    clear_value x2
    have hx3 : Keeps r x3 := by
      unfold x3
      refine Keeps.ite ?_ ?_
      · exact hx2
      · apply State.event_keeps
        exact hx2
    clear_value x3
    have hx4 : Keeps r x4 := by
      unfold x4
      apply State.islRecordWrite_keeps
      apply State.islSendAll_keeps
      exact hx3
    clear_value x4
    refine Keeps.ite ?_ ?_
    · apply State.event_keeps
      apply State.count_keeps
      exact hx4
    · exact hx4

theorem State.islSettle_keeps {r s : State} (h : Keeps r s) (q : Quay) (o : Nat) : Keeps r (s.islSettle q o) := by
  unfold State.islSettle
  extract_lets x1 x2 x3 x4 x5 x6 x7 x8 x9
  clear_value x1
  clear_value x2
  have hx3 : Keeps r x3 := by
    unfold x3
    apply State.modIsl_keeps
    apply State.islReadDrop_keeps
    exact h
  clear_value x3
  have hx4 : ∀ a0, Keeps r a0 → Keeps r (x4 a0) := by
    intro y12 y13
    unfold x4
    split
    · apply State.islNotice_keeps
      apply State.islKeep_keeps
      exact y13
  clear_value x4
  clear_value x5
  clear_value x6
  clear_value x7
  clear_value x8
  clear_value x9
  split
  · split
    · apply hx4
      exact hx3
    · extract_lets x23 x24
      have hx23 : Keeps r x23 := by
        unfold x23
        apply State.islKeep_keeps
        apply State.countBy_keeps
        apply State.islSendAll_keeps
        exact hx3
      clear_value x23
      have hx24 : Keeps r x24 := by
        unfold x24
        refine Keeps.ite ?_ ?_
        · exact hx23
        · apply State.event_keeps
          exact hx23
      clear_value x24
      apply State.islRecordWrite_keeps
      apply State.islNotice_keeps
      exact hx24
  · split
    · rename_i z37 z38 z39 z40 z41 z42
      have kz39 : Keeps r z39 := Keeps.ofFst z42 (by
        apply State.islRun_keeps
        exact hx3)
      extract_lets x46 x47
      clear_value x46
      clear_value x47
      split
      · rename_i z49 z50 z51 z52
        have kz50 : Keeps r z50 := Keeps.ofFst z52 (by
          apply State.islNumber_keeps
          exact kz39)
        extract_lets x56 x57 x58 x59 x60 x61
        clear_value x56
        have hx57 : Keeps r x57 := by
          unfold x57
          apply State.islSendAll_keeps
          apply State.islSendAll_keeps
          apply State.islSendAll_keeps
          exact kz50
        clear_value x57
        have hx58 : Keeps r x58 := by
          unfold x58
          apply State.islKeep_keeps
          apply State.countBy_keeps
          apply State.countBy_keeps
          apply State.countBy_keeps
          apply State.count_keeps
          exact hx57
        clear_value x58
        have hx59 : Keeps r x59 := by
          unfold x59
          refine Keeps.ite ?_ ?_
          · exact hx58
          · apply State.event_keeps
            exact hx58
        clear_value x59
        have hx60 : Keeps r x60 := by
          unfold x60
          refine Keeps.ite ?_ ?_
          · exact hx59
          · apply State.event_keeps
            exact hx59
        clear_value x60
        have hx61 : Keeps r x61 := by
          unfold x61
          apply State.islRecordWrite_keeps
          apply State.islNotice_keeps
          exact hx60
        clear_value x61
        refine Keeps.ite ?_ ?_
        · apply State.event_keeps
          apply State.count_keeps
          exact hx61
        · exact hx61
  · split
    · rename_i z89 z90 z91 z92 z93 z94
      have kz91 : Keeps r z91 := Keeps.ofFst z94 (by
        apply State.islRun_keeps
        exact hx3)
      extract_lets x98 x99
      clear_value x98
      clear_value x99
      split
      · rename_i z101 z102 z103 z104
        have kz102 : Keeps r z102 := Keeps.ofFst z104 (by
          apply State.islNumber_keeps
          exact kz91)
        extract_lets x108 x109 x110 x111 x112 x113
        clear_value x108
        have hx109 : Keeps r x109 := by
          unfold x109
          apply State.islSendAll_keeps
          apply State.islSendAll_keeps
          apply State.islSendAll_keeps
          exact kz102
        clear_value x109
        have hx110 : Keeps r x110 := by
          unfold x110
          apply State.islKeep_keeps
          apply State.countBy_keeps
          apply State.countBy_keeps
          apply State.countBy_keeps
          apply State.count_keeps
          exact hx109
        clear_value x110
        have hx111 : Keeps r x111 := by
          unfold x111
          refine Keeps.ite ?_ ?_
          · exact hx110
          · apply State.event_keeps
            exact hx110
        clear_value x111
        have hx112 : Keeps r x112 := by
          unfold x112
          refine Keeps.ite ?_ ?_
          · exact hx111
          · apply State.event_keeps
            exact hx111
        clear_value x112
        have hx113 : Keeps r x113 := by
          unfold x113
          apply State.islRecordWrite_keeps
          apply State.islNotice_keeps
          exact hx112
        clear_value x113
        refine Keeps.ite ?_ ?_
        · apply State.event_keeps
          apply State.count_keeps
          exact hx113
        · exact hx113
  · split
    · rename_i z141 z142 z143 z144 z145 z146
      have kz143 : Keeps r z143 := Keeps.ofFst z146 (by
        apply State.islRun_keeps
        exact hx3)
      extract_lets x150 x151
      clear_value x150
      clear_value x151
      split
      · rename_i z153 z154 z155 z156
        have kz154 : Keeps r z154 := Keeps.ofFst z156 (by
          apply State.islNumber_keeps
          exact kz143)
        extract_lets x160 x161 x162 x163 x164 x165
        clear_value x160
        have hx161 : Keeps r x161 := by
          unfold x161
          apply State.islSendAll_keeps
          apply State.islSendAll_keeps
          apply State.islSendAll_keeps
          exact kz154
        clear_value x161
        have hx162 : Keeps r x162 := by
          unfold x162
          apply State.islKeep_keeps
          apply State.countBy_keeps
          apply State.countBy_keeps
          apply State.countBy_keeps
          apply State.count_keeps
          exact hx161
        clear_value x162
        have hx163 : Keeps r x163 := by
          unfold x163
          refine Keeps.ite ?_ ?_
          · exact hx162
          · apply State.event_keeps
            exact hx162
        clear_value x163
        have hx164 : Keeps r x164 := by
          unfold x164
          refine Keeps.ite ?_ ?_
          · exact hx163
          · apply State.event_keeps
            exact hx163
        clear_value x164
        have hx165 : Keeps r x165 := by
          unfold x165
          apply State.islRecordWrite_keeps
          apply State.islNotice_keeps
          exact hx164
        clear_value x165
        refine Keeps.ite ?_ ?_
        · apply State.event_keeps
          apply State.count_keeps
          exact hx165
        · exact hx165
  · apply hx4
    exact hx3
  · exact hx3

theorem State.islRetract_keeps {r s : State} (h : Keeps r s) (q : Quay) (o : Nat) : Keeps r (s.islRetract q o) := by
  unfold State.islRetract
  extract_lets x1 x2 x3
  have hx2 : Keeps r x2 := by
    unfold x2
    apply State.countBy_keeps
    apply State.islSendAll_keeps
    apply State.modIsl_keeps
    exact h
  clear_value x2
  apply State.islNotice_keeps
  apply State.islKeep_keeps
  refine Keeps.ite ?_ ?_
  · exact hx2
  · apply State.event_keeps
    exact hx2

theorem islSettleEvalRow_keeps {r s : State} (h : Keeps r s) : Keeps r (islSettleEvalRow s) := by
  unfold islSettleEvalRow
  split
  · exact h
  · extract_lets x1
    split
    · unfold x1
      apply State.modIsl_keeps
      exact h
    · extract_lets x2 x3
      refine Keeps.ite ?_ ?_
      · unfold x3
        extract_lets x4
        have hx4 : Keeps r x4 := by
          unfold x4
          apply State.detFinish_keeps
          unfold x1
          apply State.modIsl_keeps
          apply State.islSettle_keeps
          exact h
        clear_value x4
        refine Keeps.ite ?_ ?_
        · apply State.wantTask_keeps
          apply State.modIsl_keeps
          exact hx4
        · exact hx4
      · refine Keeps.ite ?_ ?_
        · unfold x3
          extract_lets x5
          have hx5 : Keeps r x5 := by
            unfold x5
            apply State.detFinish_keeps
            unfold x1
            apply State.modIsl_keeps
            apply State.islRetract_keeps
            exact h
          clear_value x5
          refine Keeps.ite ?_ ?_
          · apply State.wantTask_keeps
            apply State.modIsl_keeps
            exact hx5
          · exact hx5
        · split
          · unfold x3
            extract_lets x6
            have hx6 : Keeps r x6 := by
              unfold x6
              apply State.detFinish_keeps
              unfold x1
              apply State.modIsl_keeps
              apply State.islSettle_keeps
              apply State.islRan_keeps
              exact h
            clear_value x6
            refine Keeps.ite ?_ ?_
            · apply State.wantTask_keeps
              apply State.modIsl_keeps
              exact hx6
            · exact hx6
          · exact h

theorem State.islCheckpoint_keeps {r s : State} (h : Keeps r s) : Keeps r (s.islCheckpoint) := by
  unfold State.islCheckpoint
  split
  · apply State.modIsl_keeps
    refine Keeps.ite ?_ ?_
    · apply State.leaseTake_keeps
      exact h
    · exact h
  · exact h

theorem islFoldRow_keeps {r s : State} (h : Keeps r s) : Keeps r (islFoldRow s) := by
  unfold islFoldRow
  split
  · extract_lets x1
    have hx1 : Keeps r x1 := by
      unfold x1
      apply State.modIsl_keeps
      apply State.taskWorked_keeps
      exact h
    clear_value x1
    refine Keeps.ite ?_ ?_
    · exact h
    · split
      · exact hx1
      · extract_lets x2 x3
        have hx3 : Keeps r x3 := by
          unfold x3
          apply State.count_keeps
          apply State.setReg64_keeps
          apply State.modIsl_keeps
          apply State.islReadDrop_keeps
          exact hx1
        clear_value x3
        apply State.islCheckpoint_keeps
        refine Keeps.ite ?_ ?_
        · apply State.event_keeps
          apply State.count_keeps
          exact hx3
        · exact hx3
  · exact h

theorem islNodeProbeRow_keeps {r s : State} (h : Keeps r s) (v : Word) : Keeps r (islNodeProbeRow v s) := by
  unfold islNodeProbeRow
  extract_lets x1 x2 x3
  apply State.setReg_keeps
  apply State.writeReg_keeps
  exact h

theorem islBranchProbeRow_keeps {r s : State} (h : Keeps r s) (v : Word) : Keeps r (islBranchProbeRow v s) := by
  unfold islBranchProbeRow
  extract_lets x1
  apply State.setReg_keeps
  apply State.writeReg_keeps
  exact h

theorem State.islWinStep_keeps {r s : State} (h : Keeps r s) : Keeps r (s.islWinStep) := by
  unfold State.islWinStep
  apply State.setFld_keeps
  exact h

theorem State.islStaleNote_keeps {r s : State} (h : Keeps r s) : Keeps r (s.islStaleNote) := by
  unfold State.islStaleNote
  refine Keeps.ite ?_ ?_
  · apply State.event_keeps
    exact h
  · exact h

theorem State.detRoute_keeps {r s : State} (h : Keeps r s) (q : Quay) (d : Nat) (o : Nat) : Keeps r (s.detRoute q d o) := by
  unfold State.detRoute
  extract_lets x1 x2 x3 x4 x5
  have hx1 : Keeps r x1 := by
    unfold x1
    apply State.modDet_keeps
    exact h
  clear_value x1
  have hx2 : Keeps r x2 := by
    unfold x2
    refine Keeps.ite ?_ ?_
    · apply State.withdraw_keeps
      exact hx1
    · exact hx1
  clear_value x2
  have hx4 : Keeps r x4 := by
    unfold x4
    apply State.modOsc_keeps
    exact hx2
  clear_value x4
  have hx5 : Keeps r x5 := by
    unfold x5
    apply State.modIsl_keeps
    exact hx2
  clear_value x5
  refine Keeps.ite ?_ ?_
  · refine Keeps.ite ?_ ?_
    · apply State.detFinish_keeps
      exact hx2
    · refine Keeps.ite ?_ ?_
      · refine Keeps.foldl ?_ _ ?_
        · intro y22 y23 y24
          apply State.wantTask_keeps
          exact y24
        · exact hx4
      · exact hx4
  · refine Keeps.ite ?_ ?_
    · refine Keeps.ite ?_ ?_
      · apply State.detFinish_keeps
        exact hx2
      · refine Keeps.ite ?_ ?_
        · apply State.wantTask_keeps
          exact hx5
        · exact hx5
    · apply State.detFinish_keeps
      exact hx2

theorem State.detSettle_keeps {r s : State} (h : Keeps r s) (seq : Nat) : Keeps r (s.detSettle seq) := by
  unfold State.detSettle
  refine Keeps.foldl ?_ _ ?_
  · intro y1 y2 y3
    split
    · refine Keeps.ite ?_ ?_
      · exact y3
      · split
        · apply State.detRoute_keeps
          exact y3
        · exact y3
    · exact y3
  · exact h

theorem quaySettleRow_keeps {r s : State} (h : Keeps r s) : Keeps r (quaySettleRow s) := by
  unfold quaySettleRow
  split
  · apply State.detSettle_keeps
    apply State.settleBegin_keeps
    exact h
  · exact h

theorem State.detSettleAll_keeps {r s : State} (h : Keeps r s) : Keeps r (s.detSettleAll) := by
  unfold State.detSettleAll
  refine Keeps.foldl ?_ _ ?_
  · intro y1 y2 y3
    apply State.detSettle_keeps
    exact y3
  · exact h

/-! ### Alarm.lean -/

theorem State.modAlm_keeps {r s : State} (h : Keeps r s) (f : Alm → Alm) : Keeps r (s.modAlm f) := by
  unfold State.modAlm
  exact h.upd rfl rfl rfl rfl rfl rfl rfl rfl

theorem State.setSlot_keeps {r s : State} (h : Keeps r s) (n : Nat) (x : AlmSlot) : Keeps r (s.setSlot n x) := by
  unfold State.setSlot
  apply State.modAlm_keeps
  exact h

theorem State.pinDrive_keeps {r s : State} (h : Keeps r s) (p : Nat) : Keeps r (s.pinDrive p) := by
  unfold State.pinDrive
  extract_lets x1 x2 x3 x4
  have hx4 : Keeps r x4 := by
    unfold x4
    apply State.modAlm_keeps
    exact h
  clear_value x4
  refine Keeps.ite ?_ ?_
  · exact hx4
  · apply State.setTs_keeps
    exact hx4

theorem State.pinsDrive_keeps {r s : State} (h : Keeps r s) : Keeps r (s.pinsDrive) := by
  unfold State.pinsDrive
  refine Keeps.ite ?_ ?_
  · exact h
  · refine Keeps.foldl ?_ _ ?_
    · intro y3 y4 y5
      apply State.pinDrive_keeps
      exact y5
    · exact h

theorem State.pulses_keeps {r s : State} (h : Keeps r s) (x : AlmSlot) : Keeps r (s.pulses x) := by
  unfold State.pulses
  refine Keeps.foldl ?_ _ ?_
  · intro y1 y2 y3
    extract_lets x5
    refine Keeps.ite ?_ ?_
    · apply State.count_keeps
      apply State.modAlm_keeps
      exact y3
    · exact y3
  · exact h

theorem lhPulseEndRow_keeps {r s : State} (h : Keeps r s) (p : Nat) : Keeps r (lhPulseEndRow p s) := by
  unfold lhPulseEndRow
  split
  · apply State.pinsDrive_keeps
    apply State.modAlm_keeps
    apply State.advance_keeps
    exact h
  · exact h

theorem State.almCopy_keeps {r s : State} (h : Keeps r s) (d : Nat) (pl : List Byte) : Keeps r (s.almCopy d pl) := by
  unfold State.almCopy
  extract_lets x1 x2 x3 x4
  refine Keeps.foldl ?_ _ ?_
  · intro y6 y7 y8
    extract_lets x10
    apply State.freshNext_keeps
    apply State.offer_keeps
    exact y8
  · exact h

theorem State.almSendMsg_keeps {r s : State} (h : Keeps r s) (d : Nat) (typ : Nat) (entries : List (List Byte)) : Keeps r (s.almSendMsg d typ entries) := by
  unfold State.almSendMsg
  extract_lets x1 x2 x3 x4 x5 x6 x7
  have hx6 : Keeps r x6 := by
    unfold x6
    apply State.mirrorItem_keeps
    exact h
  clear_value x6
  have hx7 : Keeps r x7 := by
    unfold x7
    apply State.modAlm_keeps
    exact hx6
  clear_value x7
  apply State.almCopy_keeps
  apply State.count_keeps
  exact hx7

theorem State.almClose_keeps {r s : State} (h : Keeps r s) (d : Nat) : Keeps r (s.almClose d) := by
  unfold State.almClose
  extract_lets x1
  refine Keeps.ite ?_ ?_
  · exact h
  · apply State.almSendMsg_keeps
    exact h

theorem almMessageCloseRow_keeps {r s : State} (h : Keeps r s) (d : Nat) : Keeps r (almMessageCloseRow d s) := by
  unfold almMessageCloseRow
  extract_lets x1
  refine Keeps.ite ?_ ?_
  · exact h
  · apply State.almClose_keeps
    apply State.advance_keeps
    exact h

theorem almMessageRepeatRow_keeps {r s : State} (h : Keeps r s) (d : Nat) : Keeps r (almMessageRepeatRow d s) := by
  unfold almMessageRepeatRow
  extract_lets x1
  split
  · exact h
  · extract_lets x5 x6
    have hx5 : Keeps r x5 := by
      unfold x5
      apply State.advance_keeps
      exact h
    clear_value x5
    have hx6 : Keeps r x6 := by
      unfold x6
      apply State.modAlm_keeps
      exact hx5
    clear_value x6
    apply State.almCopy_keeps
    exact hx6

theorem almKeepaliveRow_keeps {r s : State} (h : Keeps r s) (d : Nat) : Keeps r (almKeepaliveRow d s) := by
  unfold almKeepaliveRow
  extract_lets x1 x2
  refine Keeps.ite ?_ ?_
  · apply State.almSendMsg_keeps
    exact h
  · exact h

theorem State.almEntry_keeps {r s : State} (h : Keeps r s) (x : AlmSlot) (n : Nat) : Keeps r (s.almEntry x n) := by
  unfold State.almEntry
  extract_lets x1
  refine Keeps.ite ?_ ?_
  · exact h
  · refine Keeps.foldl ?_ _ ?_
    · intro y5 y6 y7
      extract_lets x9
      have hx9 : Keeps r x9 := by
        unfold x9
        apply State.modAlm_keeps
        exact y7
      clear_value x9
      refine Keeps.ite ?_ ?_
      · refine Keeps.ite ?_ ?_
        · apply State.almClose_keeps
          exact hx9
        · exact hx9
      · exact y7
    · exact h

theorem State.almCommit_keeps {r s : State} (h : Keeps r s) (n : Nat) (old : AlmSlot) (new : AlmSlot) (acked : Bool) : Keeps r (s.almCommit n old new acked) := by
  unfold State.almCommit
  extract_lets x1 x2 x3 x4 x5 x6
  have hx4 : Keeps r x4 := by
    unfold x4
    apply State.setSlot_keeps
    exact h
  clear_value x4
  have hx5 : Keeps r x5 := by
    unfold x5
    apply State.pulses_keeps
    apply State.logRaise_keeps
    apply State.event_keeps
    apply State.count_keeps
    exact hx4
  clear_value x5
  have hx6 : Keeps r x6 := by
    unfold x6
    refine Keeps.ite ?_ ?_
    · apply State.capNotice_keeps
      exact hx5
    · exact hx4
  clear_value x6
  refine Keeps.ite ?_ ?_
  · exact hx4
  · apply State.pinsDrive_keeps
    apply State.almEntry_keeps
    apply State.mirrorItem_keeps
    exact hx6

theorem State.unrouted_keeps {r s : State} (h : Keeps r s) : Keeps r (s.unrouted) := by
  unfold State.unrouted
  apply State.event_keeps
  apply State.count_keeps
  exact h

theorem State.almOverflow_keeps {r s : State} (h : Keeps r s) (i : AlmInput) (a2 : Nat) : Keeps r (s.almOverflow i a2) := by
  unfold State.almOverflow
  extract_lets x1 x2 x3 x4 x5 x6
  have hx2 : Keeps r x2 := by
    unfold x2
    apply State.modAlm_keeps
    apply State.event_keeps
    apply State.count_keeps
    exact h
  clear_value x2
  apply State.almCommit_keeps
  exact hx2

theorem State.almNotice_keeps {r s : State} (h : Keeps r s) (i : AlmInput) : Keeps r (s.almNotice i) := by
  unfold State.almNotice
  refine Keeps.foldl ?_ _ ?_
  · intro y1 y2 y3
    extract_lets x5
    apply State.almCommit_keeps
    exact y3
  · exact h

theorem State.almApply_keeps {r s : State} (h : Keeps r s) (i0 : AlmInput) : Keeps r (s.almApply i0) := by
  unfold State.almApply
  extract_lets x1 x2 x3
  refine Keeps.ite ?_ ?_
  · apply State.almNotice_keeps
    exact h
  · split
    · extract_lets x9
      refine Keeps.ite ?_ ?_
      · apply State.unrouted_keeps
        exact h
      · refine Keeps.ite ?_ ?_
        · apply State.almCommit_keeps
          exact h
        · apply State.almCommit_keeps
          exact h
    · refine Keeps.ite ?_ ?_
      · apply State.unrouted_keeps
        exact h
      · split
        · refine Keeps.ite ?_ ?_
          · exact h
          · apply State.unrouted_keeps
            exact h
        · refine Keeps.ite ?_ ?_
          · exact h
          · split
            · extract_lets x30 x31
              apply State.almCommit_keeps
              exact h
            · apply State.almOverflow_keeps
              exact h

theorem State.almReplay_keeps {r s : State} (h : Keeps r s) (i : AlmInput) : Keeps r (s.almReplay i) := by
  unfold State.almReplay
  extract_lets x1 x2 x3
  refine Keeps.ite ?_ ?_
  · exact h.upd rfl rfl rfl rfl rfl rfl rfl rfl
  · refine Keeps.ite ?_ ?_
    · exact h.upd rfl rfl rfl rfl rfl rfl rfl rfl
    · exact h.upd rfl rfl rfl rfl rfl rfl rfl rfl

theorem alarmInputRow_keeps {r s : State} (h : Keeps r s) : Keeps r (alarmInputRow s) := by
  unfold alarmInputRow
  split
  · exact h
  · extract_lets x3
    have hx3 : Keeps r x3 := by
      unfold x3
      apply State.count_keeps
      apply State.modAlm_keeps
      exact h
    clear_value x3
    refine Keeps.ite ?_ ?_
    · exact hx3
    · refine Keeps.ite ?_ ?_
      · apply State.almReplay_keeps
        exact hx3
      · apply State.almApply_keeps
        exact hx3

theorem State.almAck_keeps {r s : State} (h : Keeps r s) (n : Nat) (gen : Nat) : Keeps r (s.almAck n gen).1 := by
  unfold State.almAck
  extract_lets x1 x2
  refine Keeps.iteFst ?_ ?_
  · dsimp only
    exact h
  · refine Keeps.iteFst ?_ ?_
    · dsimp only
      apply State.event_keeps
      apply State.count_keeps
      exact h
    · dsimp only
      apply State.almCommit_keeps
      apply State.count_keeps
      exact h

theorem alarmAcknowledgeRow_keeps {r s : State} (h : Keeps r s) (n : Nat) (gen : Nat) : Keeps r (alarmAcknowledgeRow n gen s) := by
  unfold alarmAcknowledgeRow
  apply State.almAck_keeps
  exact h

theorem almAckGoRow_keeps {r s : State} (h : Keeps r s) (v : Word) : Keeps r (almAckGoRow v s) := by
  unfold almAckGoRow
  extract_lets x1
  have hx1 : Keeps r x1.1 := by
    unfold x1
    apply State.almAck_keeps
    exact h
  clear_value x1
  refine Keeps.ite ?_ ?_
  · apply State.setReg_keeps
    exact hx1
  · exact h

theorem manAlmAck_keeps {r s : State} (h : Keeps r s) (n : Nat) : Keeps r (manAlmAck n s) := by
  unfold manAlmAck
  apply State.runManifest_keeps
  · exact h
  · intro y2 y3 y4 y5
    extract_lets x7
    have hx7 : Keeps r x7.1 := by
      unfold x7
      apply State.almAck_keeps
      exact y5
    clear_value x7
    apply State.finish_keeps
    exact hx7

theorem State.almHostInput_keeps {r s : State} (h : Keeps r s) (key : Nat) (kind : Nat) (sev : Nat) (clear : Bool) : Keeps r (s.almHostInput key kind sev clear) := by
  unfold State.almHostInput
  apply State.almSend_keeps
  exact h

theorem almHostGoRow_keeps {r s : State} (h : Keeps r s) (v : Word) : Keeps r (almHostGoRow v s) := by
  unfold almHostGoRow
  extract_lets x1 x2 x3
  refine Keeps.ite ?_ ?_
  · exact h
  · refine Keeps.ite ?_ ?_
    · apply State.almHostInput_keeps
      exact h
    · refine Keeps.ite ?_ ?_
      · apply State.almHostInput_keeps
        exact h
      · exact h

theorem manAlmHost_keeps {r s : State} (h : Keeps r s) (n : Nat) : Keeps r (manAlmHost n s) := by
  unfold manAlmHost
  apply State.runManifest_keeps
  · exact h
  · intro y2 y3 y4 y5
    apply State.finish0_keeps
    apply State.almHostInput_keeps
    exact y5

theorem almCtrlWrite_keeps {r s : State} (h : Keeps r s) (v : Word) : Keeps r (almCtrlWrite v s) := by
  unfold almCtrlWrite
  extract_lets x1 x2 x3 x4
  have hx1 : Keeps r x1 := by
    unfold x1
    refine Keeps.ite ?_ ?_
    · apply State.clearCounters_keeps
      exact h
    · exact h
  clear_value x1
  have hx2 : Keeps r x2 := by
    unfold x2
    apply State.writeReg_keeps
    exact hx1
  clear_value x2
  have hx4 : Keeps r x4 := by
    unfold x4
    refine Keeps.ite ?_ ?_
    · refine Keeps.foldl ?_ _ ?_
      · intro y13 y14 y15
        apply State.tbAlarm_keeps
        exact y15
      · exact hx2
    · exact hx2
  clear_value x4
  apply State.pinsDrive_keeps
  exact hx4

theorem almKeepaliveWrite_keeps {r s : State} (h : Keeps r s) (v : Word) : Keeps r (almKeepaliveWrite v s) := by
  unfold almKeepaliveWrite
  extract_lets x1
  apply State.setReg_keeps
  exact h

theorem almPinForceWrite_keeps {r s : State} (h : Keeps r s) (v : Word) : Keeps r (almPinForceWrite v s) := by
  unfold almPinForceWrite
  apply State.pinsDrive_keeps
  apply State.writeReg_keeps
  exact h

theorem State.almWinStep_keeps {r s : State} (h : Keeps r s) : Keeps r (s.almWinStep) := by
  unfold State.almWinStep
  apply State.setFld_keeps
  exact h

/-! ### Compose.lean -/

theorem State.modStr_keeps {r s : State} (h : Keeps r s) (n : Nat) (f : OutStream → OutStream) : Keeps r (s.modStr n f) := by
  unfold State.modStr
  extract_lets x1
  exact h.upd rfl rfl rfl rfl rfl rfl rfl rfl

theorem State.outCompose_keeps {r s : State} (h : Keeps r s) (n : Nat) (q : Quay) (set : CfgSet) : Keeps r (s.outCompose n q set) := by
  unfold State.outCompose
  extract_lets x1 x2 x3 x4 x5 x6 x7 x8 x9 x10 x11 x12 x13 x14
  have hx6 : Keeps r x6 := by
    unfold x6
    apply State.mirrorItem_keeps
    exact h
  clear_value x6
  have hx10 : Keeps r x10 := by
    unfold x10
    refine Keeps.foldl ?_ _ ?_
    · intro y18 y19 y20
      extract_lets x22 x23
      apply State.freshNext_keeps
      apply State.offer_keeps
      exact y20
    · exact hx6
  clear_value x10
  have hx11 : Keeps r x11 := by
    unfold x11
    apply State.countBy_keeps
    apply State.count_keeps
    exact hx10
  clear_value x11
  have hx12 : Keeps r x12 := by
    unfold x12
    refine Keeps.ite ?_ ?_
    · apply State.event_keeps
      apply State.count_keeps
      exact hx11
    · exact hx11
  clear_value x12
  have hx13 : Keeps r x13 := by
    unfold x13
    refine Keeps.ite ?_ ?_
    · apply State.event_keeps
      exact hx12
    · exact hx12
  clear_value x13
  have hx14 : Keeps r x14 := by
    unfold x14
    refine Keeps.ite ?_ ?_
    · apply State.event_keeps
      apply State.count_keeps
      exact hx13
    · exact hx13
  clear_value x14
  apply State.modStr_keeps
  exact hx14

theorem State.composeStage_keeps {r s : State} (h : Keeps r s) (q : Quay) (settled : Bool) : Keeps r (s.composeStage q settled) := by
  unfold State.composeStage
  extract_lets x1
  refine Keeps.foldl ?_ _ ?_
  · intro y3 y4 y5
    extract_lets x7 x8
    refine Keeps.ite ?_ ?_
    · apply State.outCompose_keeps
      exact y5
    · exact y5
  · exact h

theorem State.lateAfterSend_keeps {r s : State} (h : Keeps r s) (q : Quay) : Keeps r (s.lateAfterSend q) := by
  unfold State.lateAfterSend
  extract_lets x1
  refine Keeps.foldl ?_ _ ?_
  · intro y3 y4 y5
    extract_lets x7
    have hx7 : Keeps r x7 := by
      unfold x7
      apply State.modStr_keeps
      exact y5
    clear_value x7
    split
    · extract_lets x12
      refine Keeps.ite ?_ ?_
      · apply State.count_keeps
        exact hx7
      · exact hx7
    · exact y5
  · exact h

theorem State.composeAfter_keeps {r s : State} (h : Keeps r s) (s0 : State) : Keeps r (s0.composeAfter s) := by
  unfold State.composeAfter
  extract_lets x1 x2 x3 x4
  have hx4 : Keeps r x4 := by
    unfold x4
    refine Keeps.foldl ?_ _ ?_
    · intro y6 y7 y8
      apply State.composeStage_keeps
      exact y8
    · exact h
  clear_value x4
  refine Keeps.foldl ?_ _ ?_
  · intro y13 y14 y15
    apply State.composeStage_keeps
    apply State.lateAfterSend_keeps
    exact y15
  · exact hx4

theorem State.outContinue_keeps {r s : State} (h : Keeps r s) (n : Nat) (m : Nat) : Keeps r (s.outContinue n m) := by
  unfold State.outContinue
  extract_lets x1 x2
  refine Keeps.ite ?_ ?_
  · exact h
  · split
    extract_lets x3 x4
    have hx4 : Keeps r x4 := by
      unfold x4
      refine Keeps.ite ?_ ?_
      · exact h
      · apply State.event_keeps
        apply State.countBy_keeps
        exact h
    clear_value x4
    refine Keeps.foldl ?_ _ ?_
    · intro y5 y6 y7
      extract_lets x8 x9
      refine Keeps.ite ?_ ?_
      · apply State.outCompose_keeps
        exact y7
      · exact y7
    · exact hx4

theorem outCtrlWrite_keeps {r s : State} (h : Keeps r s) (v : Word) : Keeps r (outCtrlWrite v s) := by
  unfold outCtrlWrite
  apply State.writeReg_keeps
  refine Keeps.ite ?_ ?_
  · apply State.clearCounters_keeps
    exact h
  · exact h

theorem State.outWinStep_keeps {r s : State} (h : Keeps r s) : Keeps r (s.outWinStep) := by
  unfold State.outWinStep
  apply State.setFld_keeps
  exact h

end Sys2Proof.Machine
end

