-- ==== Sys2Proof/Laws/KeepsTwin.lean ====
section
/-! SUPPORT. Keeps is kept by the twin unit, faults, the local phasor estimator, validation, cryptography and reset. -/

namespace Sys2Proof.Machine

/-! ### Twin.lean -/

theorem State.modTwn_keeps {r s : State} (h : Keeps r s) (f : Twn → Twn) : Keeps r (s.modTwn f) := by
  unfold State.modTwn
  exact h.upd rfl rfl rfl rfl rfl rfl rfl rfl

theorem State.setRole_keeps {r s : State} (h : Keeps r s) (a1 : Role) : Keeps r (s.setRole a1) := by
  unfold State.setRole
  extract_lets x1 x2 x3 x4
  have hx2 : Keeps r x2 := by
    unfold x2
    apply State.logRaise_keeps
    apply State.event_keeps
    apply State.modTwn_keeps
    exact h
  clear_value x2
  have hx3 : Keeps r x3 := by
    unfold x3
    refine Keeps.ite ?_ ?_
    · exact hx2
    · apply State.event_keeps
      exact hx2
  clear_value x3
  have hx4 : Keeps r x4 := by
    unfold x4
    apply State.modAlm_keeps
    exact hx3
  clear_value x4
  refine Keeps.ite ?_ ?_
  · exact h
  · apply State.pinsDrive_keeps
    exact hx4

theorem State.aizContext_keeps {r s : State} (h : Keeps r s) : Keeps r s.aizContext.1 := by
  unfold State.aizContext
  split
  · exact State.keyUseErr_keeps h
  · split
    · exact State.count_keeps h _
    next e => exact State.cryptoNow_keeps h e

theorem State.aizSend_keeps {r s : State} (h : Keeps r s) (typ : Nat) (end_ : Bool) (pl : List Byte) : Keeps r (s.aizSend typ end_ pl) := by
  have hc := State.aizContext_keeps h
  unfold State.aizSend
  split
  · exact h
  · split
    next e => exact Keeps.ofFst e hc
    next e => exact State.count_keeps (State.modTwn_keeps (State.emit_keeps (Keeps.ofFst e hc) _) _) _

theorem State.pairStart_keeps {r s : State} (h : Keeps r s) : Keeps r (s.pairStart) := by
  unfold State.pairStart
  extract_lets x1 x2 x3 x4 x5 x6
  have hx4 : Keeps r x4 := by
    unfold x4
    refine Keeps.ite ?_ ?_
    · exact h
    · apply State.freshNext_keeps
      exact h
  clear_value x4
  exact hx4.upd rfl rfl rfl rfl rfl rfl rfl rfl

theorem State.helloSend_keeps {r s : State} (h : Keeps r s) : Keeps r (s.helloSend) := by
  unfold State.helloSend
  apply State.aizSend_keeps
  exact h

theorem helloTxRow_keeps {r s : State} (h : Keeps r s) : Keeps r (helloTxRow s) := by
  unfold helloTxRow
  refine Keeps.ite ?_ ?_
  · exact h
  · apply State.helloSend_keeps
    apply State.modTwn_keeps
    exact h

theorem aizLaneUpRow_keeps {r s : State} (h : Keeps r s) (l : Nat) : Keeps r (aizLaneUpRow l s) := by
  unfold aizLaneUpRow
  extract_lets x1 x2
  have hx2 : Keeps r x2 := by
    unfold x2
    apply State.modTwn_keeps
    exact h
  clear_value x2
  refine Keeps.ite ?_ ?_
  · exact hx2
  · apply State.pairStart_keeps
    apply State.modTwn_keeps
    exact hx2

theorem aizLaneDownRow_keeps {r s : State} (h : Keeps r s) (l : Nat) : Keeps r (aizLaneDownRow l s) := by
  unfold aizLaneDownRow
  extract_lets x1
  have hx1 : Keeps r x1 := by
    unfold x1
    apply State.modTwn_keeps
    exact h
  clear_value x1
  refine Keeps.ite ?_ ?_
  · apply State.modTwn_keeps
    exact hx1
  · exact hx1

theorem State.twnSave_keeps {r s : State} (h : Keeps r s) (ok : Bool) : Keeps r (s.twnSave ok) := by
  unfold State.twnSave
  extract_lets x1 x2 x3 x4 x5
  have hx5 : Keeps r x5 := by
    unfold x5
    apply State.freshNext_keeps
    exact h
  clear_value x5
  refine Keeps.ite ?_ ?_
  · apply State.count_keeps
    exact h.upd rfl rfl rfl rfl rfl rfl rfl rfl
  · apply State.report_keeps
    apply State.event_keeps
    exact hx5.upd rfl rfl rfl rfl rfl rfl rfl rfl

theorem State.twnRestore_keeps {r s : State} (h : Keeps r s) : Keeps r (s.twnRestore) := by
  unfold State.twnRestore
  extract_lets x1
  clear_value x1
  split
  · exact h
  · extract_lets x5
    clear_value x5
    refine Keeps.foldl ?_ _ ?_
    · intro y7 y8 y9
      apply State.modAlm_keeps
      exact y9
    · apply State.modAlm_keeps
      exact h

theorem manTwnSave_keeps {r s : State} (h : Keeps r s) (n : Nat) (ok : Bool) : Keeps r (manTwnSave n ok s) := by
  unfold manTwnSave
  apply State.runManifest_keeps
  · exact h
  · intro y2 y3 y4 y5
    apply State.finish0_keeps
    apply State.twnSave_keeps
    exact y5

theorem twnPeriodicSaveRow_keeps {r s : State} (h : Keeps r s) (ok : Bool) : Keeps r (twnPeriodicSaveRow ok s) := by
  unfold twnPeriodicSaveRow
  apply State.twnSave_keeps
  exact h

theorem State.itemApply_keeps {r s : State} (h : Keeps r s) (x : Nat × List Byte) : Keeps r (s.itemApply x) := by
  unfold State.itemApply
  extract_lets x1 x2 x3 x4 x5 x6 x7 x8 x9 x10
  split
  · refine Keeps.ite ?_ ?_
    · exact h
    · apply State.pinsDrive_keeps
      refine Keeps.ite ?_ ?_
      · apply State.setSlot_keeps
        exact h
      · apply State.pulses_keeps
        apply State.setSlot_keeps
        exact h
  · apply State.modTwn_keeps
    exact h
  · apply State.modTwn_keeps
    exact h
  · apply State.modTwn_keeps
    exact h
  · apply State.mtrCompare_keeps
    apply State.modTwn_keeps
    exact h
  · apply State.modTwn_keeps
    exact h
  · exact h

theorem State.itemsApply_keeps {r s : State} (h : Keeps r s) (l : List (Nat × List Byte)) : Keeps r (s.itemsApply l) := by
  unfold State.itemsApply
  refine Keeps.foldl ?_ _ ?_
  · intro y1 y2 y3
    apply State.itemApply_keeps
    exact y3
  · exact h

theorem State.sendPacked_keeps {r s : State} (h : Keeps r s) (typ : Nat) (ps : List (List Byte)) : Keeps r (s.sendPacked typ ps) := by
  induction ps generalizing s with
  | nil => exact h
  | cons p ps ih =>
    unfold State.sendPacked
    split
    · exact h
    next => rename_i e; cases e; exact State.aizSend_keeps h _ _ _
    next => rename_i e; cases e; exact ih (State.aizSend_keeps h _ _ _)

theorem State.resyncSend_keeps {r s : State} (h : Keeps r s) : Keeps r (s.resyncSend) := by
  unfold State.resyncSend
  extract_lets x1 x2 x3 x4 x5
  have hx5 : Keeps r x5 := by
    unfold x5
    apply State.sendPacked_keeps
    apply State.modTwn_keeps
    exact h
  clear_value x5
  refine Keeps.ite ?_ ?_
  · apply State.modTwn_keeps
    exact hx5
  · exact hx5

theorem State.resyncRequest_keeps {r s : State} (h : Keeps r s) : Keeps r (s.resyncRequest) := by
  unfold State.resyncRequest
  apply State.aizSend_keeps
  apply State.modTwn_keeps
  exact h

theorem State.resyncCommand_keeps {r s : State} (h : Keeps r s) : Keeps r (s.resyncCommand) := by
  unfold State.resyncCommand
  refine Keeps.ite ?_ ?_
  · apply State.resyncRequest_keeps
    exact h
  · refine Keeps.ite ?_ ?_
    · apply State.resyncSend_keeps
      exact h
    · exact h

theorem manTwnResync_keeps {r s : State} (h : Keeps r s) (n : Nat) : Keeps r (manTwnResync n s) := by
  unfold manTwnResync
  apply State.runManifest_keeps
  · exact h
  · intro y2 y3 y4 y5
    apply State.finish0_keeps
    apply State.resyncCommand_keeps
    exact y5

theorem aizhanFrameSentRow_keeps {r s : State} (h : Keeps r s) : Keeps r (aizhanFrameSentRow s) := by
  unfold aizhanFrameSentRow
  refine Keeps.ite ?_ ?_
  · exact h
  · split
    · exact h
    · extract_lets x5
      apply State.aizSend_keeps
      apply State.modTwn_keeps
      exact h

theorem State.hoEnd_keeps {r s : State} (h : Keeps r s) (result : Nat) (mid : Option Nat) : Keeps r (s.hoEnd result mid) := by
  unfold State.hoEnd
  apply State.finishOpt_keeps
  apply State.modTwn_keeps
  exact h

theorem State.hoFrame_keeps {r s : State} (h : Keeps r s) (h0 : Nat) (force : Bool) : Keeps r (s.hoFrame h0 force) := by
  unfold State.hoFrame
  apply State.aizSend_keeps
  exact h

theorem State.hoRequest_keeps {r s : State} (h : Keeps r s) (force : Bool) (mid : Option Nat) : Keeps r (s.hoRequest force mid) := by
  unfold State.hoRequest
  extract_lets x1 x2 x3
  have hx3 : Keeps r x3 := by
    unfold x3
    apply State.setRole_keeps
    apply State.modTwn_keeps
    exact h
  clear_value x3
  refine Keeps.ite ?_ ?_
  · apply State.hoEnd_keeps
    exact h
  · refine Keeps.ite ?_ ?_
    · apply State.hoEnd_keeps
      exact h
    · refine Keeps.ite ?_ ?_
      · apply State.hoEnd_keeps
        exact h
      · refine Keeps.ite ?_ ?_
        · apply State.hoEnd_keeps
          exact h
        · clear_value x2
          split
          · apply State.hoFrame_keeps
            exact hx3
          · exact hx3

theorem State.hoBack_keeps {r s : State} (h : Keeps r s) (a1 : HandOver) (result : Nat) : Keeps r (s.hoBack a1 result) := by
  unfold State.hoBack
  apply State.hoEnd_keeps
  apply State.setRole_keeps
  apply State.modTwn_keeps
  exact h

theorem manTwnHandover_keeps {r s : State} (h : Keeps r s) (n : Nat) : Keeps r (manTwnHandover n s) := by
  unfold manTwnHandover
  apply State.runManifest_keeps
  · exact h
  · intro y2 y3 y4 y5
    apply State.hoRequest_keeps
    exact y5

theorem twnCtrlWrite_keeps {r s : State} (h : Keeps r s) (v : Word) (ok : Bool) : Keeps r (twnCtrlWrite v ok s) := by
  unfold twnCtrlWrite
  extract_lets x1 x2 x3
  have hx1 : Keeps r x1 := by
    unfold x1
    refine Keeps.ite ?_ ?_
    · apply State.clearCounters_keeps
      exact h
    · exact h
  clear_value x1
  have hx2 : Keeps r x2 := by
    unfold x2
    refine Keeps.ite ?_ ?_
    · apply State.hoRequest_keeps
      exact hx1
    · exact hx1
  clear_value x2
  have hx3 : Keeps r x3 := by
    unfold x3
    refine Keeps.ite ?_ ?_
    · apply State.resyncCommand_keeps
      exact hx2
    · exact hx2
  clear_value x3
  refine Keeps.ite ?_ ?_
  · apply State.twnSave_keeps
    exact hx3
  · exact hx3

theorem twnCtrlHandoverRow_keeps {r s : State} (h : Keeps r s) (force : Bool) : Keeps r (twnCtrlHandoverRow force s) := by
  unfold twnCtrlHandoverRow
  apply twnCtrlWrite_keeps
  exact h

theorem twnCtrlResyncRow_keeps {r s : State} (h : Keeps r s) : Keeps r (twnCtrlResyncRow s) := by
  unfold twnCtrlResyncRow
  apply twnCtrlWrite_keeps
  exact h

theorem twnCtrlSaveRow_keeps {r s : State} (h : Keeps r s) (ok : Bool) : Keeps r (twnCtrlSaveRow ok s) := by
  unfold twnCtrlSaveRow
  apply twnCtrlWrite_keeps
  exact h

theorem State.pinsFree_keeps {r s : State} (h : Keeps r s) : Keeps r (s.pinsFree) := by
  unfold State.pinsFree
  extract_lets x1
  exact h.upd rfl rfl rfl rfl rfl rfl rfl rfl

theorem State.twnSaveNow_keeps {r s : State} (h : Keeps r s) : Keeps r (s.twnSaveNow) := by
  unfold State.twnSaveNow
  apply State.twnSave_keeps
  apply State.freshNext_keeps
  exact h

theorem State.hoInstant_keeps {r s : State} (h : Keeps r s) (h0 : HandOver) (at_ : Nat) : Keeps r (s.hoInstant h0 at_) := by
  unfold State.hoInstant
  extract_lets x1 x2 x3
  have hx1 : Keeps r x1 := by
    unfold x1
    apply State.twnSaveNow_keeps
    exact h
  clear_value x1
  have hx3 : Keeps r x3 := by
    unfold x3
    apply State.sendPacked_keeps
    apply State.modTwn_keeps
    exact hx1
  clear_value x3
  apply State.setRole_keeps
  apply State.pinsFree_keeps
  apply State.modTwn_keeps
  exact hx3

theorem State.hoActive_keeps {r s : State} (h : Keeps r s) (t : Nat) : Keeps r (s.hoActive t) := by
  unfold State.hoActive
  split
  · exact h
  · split
    · refine Keeps.ite ?_ ?_
      · refine Keeps.ite ?_ ?_
        · apply State.hoInstant_keeps
          exact h
        · apply State.hoBack_keeps
          exact h
      · exact h
    · refine Keeps.ite ?_ ?_
      · apply State.hoFrame_keeps
        apply State.modTwn_keeps
        exact h
      · exact h

theorem State.hoAtInstant_keeps {r s : State} (h : Keeps r s) (t : Nat) : Keeps r (s.hoAtInstant t) := by
  unfold State.hoAtInstant
  extract_lets x1
  have hx1 : Keeps r x1 := by
    unfold x1
    apply State.hoActive_keeps
    exact h
  clear_value x1
  split
  · refine Keeps.ite ?_ ?_
    · apply State.setRole_keeps
      apply State.modTwn_keeps
      apply State.twnSaveNow_keeps
      exact hx1
    · refine Keeps.ite ?_ ?_
      · apply State.modTwn_keeps
        exact hx1
      · exact hx1
  · exact hx1

theorem handoverAnswerTimeoutRow_keeps {r s : State} (h : Keeps r s) : Keeps r (handoverAnswerTimeoutRow s) := by
  unfold handoverAnswerTimeoutRow
  split
  · refine Keeps.ite ?_ ?_
    · exact h
    · apply State.hoBack_keeps
      apply State.advance_keeps
      exact h
  · exact h

theorem handoverReturnCheckRow_keeps {r s : State} (h : Keeps r s) : Keeps r (handoverReturnCheckRow s) := by
  unfold handoverReturnCheckRow
  extract_lets x1
  split
  · exact h
  · extract_lets x5 x6
    have hx5 : Keeps r x5 := by
      unfold x5
      apply State.modTwn_keeps
      apply State.advance_keeps
      exact h
    clear_value x5
    have hx6 : Keeps r x6 := by
      unfold x6
      apply State.setRole_keeps
      exact hx5
    clear_value x6
    refine Keeps.ite ?_ ?_
    · apply State.hoEnd_keeps
      refine Keeps.foldl ?_ _ ?_
      · intro y15 y16 y17
        apply State.outContinue_keeps
        exact y17
      · exact hx6
    · apply State.count_keeps
      apply State.hoEnd_keeps
      exact hx5

theorem State.takeOver_keeps {r s : State} (h : Keeps r s) (result : Nat) : Keeps r (s.takeOver result) := by
  unfold State.takeOver
  extract_lets x1 x2 x3 x4 x5 x6 x7 x8 x9 x10 x11 x12 x13
  have hx1 : Keeps r x1 := by
    unfold x1
    apply State.modAlm_keeps
    exact h
  clear_value x1
  have hx3 : Keeps r x3 := by
    unfold x3
    apply State.setTs_keeps
    apply State.event_keeps
    apply State.event_keeps
    apply State.setRole_keeps
    apply State.modTwn_keeps
    exact hx1
  clear_value x3
  have hx4 : Keeps r x4 := by
    unfold x4
    refine Keeps.foldl ?_ _ ?_
    · intro y23 y24 y25
      apply State.modAlm_keeps
      exact y25
    · exact hx3
  clear_value x4
  have hx5 : Keeps r x5 := by
    unfold x5
    refine Keeps.foldl ?_ _ ?_
    · intro y30 y31 y32
      refine Keeps.ite ?_ ?_
      · apply State.almSendMsg_keeps
        exact y32
      · exact y32
    · exact hx4
  clear_value x5
  have hx6 : Keeps r x6 := by
    unfold x6
    apply State.modAlm_keeps
    exact hx5
  clear_value x6
  have hx7 : Keeps r x7 := by
    unfold x7
    refine Keeps.foldl ?_ _ ?_
    · intro y41 y42 y43
      apply State.almApply_keeps
      exact y43
    · exact hx6
  clear_value x7
  have hx8 : Keeps r x8 := by
    unfold x8
    refine Keeps.foldl ?_ _ ?_
    · intro y48 y49 y50
      extract_lets x52
      apply State.almCommit_keeps
      exact y50
    · exact hx7
  clear_value x8
  have hx10 : Keeps r x10 := by
    unfold x10
    refine Keeps.foldl ?_ _ ?_
    · intro y57 y58 y59
      apply State.almApply_keeps
      exact y59
    · exact hx8
  clear_value x10
  have hx11 : Keeps r x11 := by
    unfold x11
    refine Keeps.foldl ?_ _ ?_
    · intro y64 y65 y66
      apply State.almCommit_keeps
      exact y66
    · exact hx10
  clear_value x11
  have hx12 : Keeps r x12 := by
    unfold x12
    apply State.pinsDrive_keeps
    apply State.modAlm_keeps
    exact hx11
  clear_value x12
  have hx13 : Keeps r x13 := by
    unfold x13
    refine Keeps.foldl ?_ _ ?_
    · intro y74 y75 y76
      apply State.outContinue_keeps
      exact y76
    · exact hx12
  clear_value x13
  apply State.count_keeps
  apply State.hoEnd_keeps
  apply State.modTwn_keeps
  exact hx13

theorem takeoverRow_keeps {r s : State} (h : Keeps r s) : Keeps r (takeoverRow s) := by
  unfold takeoverRow
  refine Keeps.ite ?_ ?_
  · exact h
  · refine Keeps.ite ?_ ?_
    · apply State.takeOver_keeps
      exact h
    · apply State.takeOver_keeps
      refine Keeps.ite ?_ ?_
      · exact h
      · apply State.advance_keeps
        exact h

theorem State.pathLoss_keeps {r s : State} (h : Keeps r s) (hb : Bool) : Keeps r (s.pathLoss hb) := by
  unfold State.pathLoss
  apply State.unitFault_keeps
  apply State.count_keeps
  apply State.event_keeps
  apply State.modTwn_keeps
  exact h

theorem pathLostRow_keeps {r s : State} (h : Keeps r s) (hb : Bool) : Keeps r (pathLostRow hb s) := by
  unfold pathLostRow
  refine Keeps.ite ?_ ?_
  · apply State.pathLoss_keeps
    apply State.advance_keeps
    exact h
  · refine Keeps.ite ?_ ?_
    · apply State.pathLoss_keeps
      apply State.advance_keeps
      exact h
    · exact h

theorem State.promote_keeps {r s : State} (h : Keeps r s) : Keeps r (s.promote) := by
  unfold State.promote
  apply State.setRole_keeps
  apply State.modTwn_keeps
  exact h

theorem State.losePeer_keeps {r s : State} (h : Keeps r s) : Keeps r (s.losePeer) := by
  unfold State.losePeer
  apply State.event_keeps
  apply State.modTwn_keeps
  exact h

theorem State.bothLostAct_keeps {r s : State} (h : Keeps r s) : Keeps r (s.bothLostAct) := by
  unfold State.bothLostAct
  extract_lets x1
  have hx1 : Keeps r x1 := by
    unfold x1
    apply State.modTwn_keeps
    apply State.losePeer_keeps
    exact h
  clear_value x1
  split
  · refine Keeps.ite ?_ ?_
    · apply State.modTwn_keeps
      exact hx1
    · apply State.promote_keeps
      exact hx1
  · refine Keeps.ite ?_ ?_
    · exact h
    · apply State.losePeer_keeps
      exact h
  · refine Keeps.ite ?_ ?_
    · exact h
    · apply State.losePeer_keeps
      exact h
  · apply State.setRole_keeps
    exact h
  · exact h

theorem bothLostRow_keeps {r s : State} (h : Keeps r s) : Keeps r (bothLostRow s) := by
  unfold bothLostRow
  refine Keeps.ite ?_ ?_
  · exact h
  · apply State.bothLostAct_keeps
    apply State.advance_keeps
    exact h

theorem State.authFail_keeps {r s : State} (h : Keeps r s) : Keeps r (s.authFail) := by
  unfold State.authFail
  extract_lets x1 x2 x3
  have hx2 : Keeps r x2 := by
    unfold x2
    apply State.event_keeps
    apply State.count_keeps
    apply State.modTwn_keeps
    exact h
  clear_value x2
  have hx3 : Keeps r x3 := by
    unfold x3
    apply State.modTwn_keeps
    exact hx2
  clear_value x3
  refine Keeps.ite ?_ ?_
  · refine Keeps.ite ?_ ?_
    · apply State.pathLoss_keeps
      exact hx3
    · exact hx3
  · exact hx2

theorem State.aizDrop_keeps {r s : State} (h : Keeps r s) : Keeps r (s.aizDrop) := by
  unfold State.aizDrop
  apply State.count_keeps
  exact h

theorem State.aizChecked_keeps {r s : State} (h : Keeps r s) (typ : Nat) (f : AizRx) (k : AizRx → State → State)
    (hk : ∀ f b0, Keeps r b0 → Keeps r (k f b0)) : Keeps r (s.aizChecked typ f k) := by
  unfold State.aizChecked
  have hd : Keeps r s.aizDrop := State.aizDrop_keeps h
  refine Keeps.ite (Keeps.ite hd h) (Keeps.ite (State.count_keeps h _) (Keeps.ite hd (Keeps.ite hd (Keeps.ite hd (Keeps.ite hd ?_)))))
  extract_lets gap s1
  have h1 : Keeps r s1 := State.count_keeps (State.modTwn_keeps h _) _
  exact hk _ _ (Keeps.ite (State.resyncRequest_keeps h1) h1)

theorem State.aizRx_keeps {r s : State} (h : Keeps r s) (typ : Nat) (frame : List Byte) (k : AizRx → State → State)
    (hk : ∀ f b0, Keeps r b0 → Keeps r (k f b0)) : Keeps r (s.aizRx typ frame k) := by
  have hc := State.aizContext_keeps h
  unfold State.aizRx
  refine Keeps.ite h ?_
  split
  next e => exact Keeps.ite (State.authFail_keeps (Keeps.ofFst e hc)) (State.aizDrop_keeps (Keeps.ofFst e hc))
  next e =>
    split
    · exact State.authFail_keeps (Keeps.ofFst e hc)
    · exact State.aizChecked_keeps (Keeps.ofFst e hc) _ _ _ hk

theorem State.checkPeer_keeps {r s : State} (h : Keeps r s) (c : Nat) : Keeps r (s.checkPeer c) := by
  unfold State.checkPeer
  extract_lets x1 x2
  have hx2 : Keeps r x2 := by
    unfold x2
    apply State.modTwn_keeps
    exact h
  clear_value x2
  refine Keeps.ite ?_ ?_
  · apply State.event_keeps
    exact hx2
  · exact hx2

theorem State.join_keeps {r s : State} (h : Keeps r s) : Keeps r (s.join) := by
  unfold State.join
  apply State.resyncRequest_keeps
  apply State.setRole_keeps
  exact h

theorem State.helloTake_keeps {r s : State} (h : Keeps r s) (b : List Byte) : Keeps r (s.helloTake b) := by
  unfold State.helloTake
  extract_lets x1 x2 x3
  have hx3 : Keeps r x3 := by
    unfold x3
    apply State.checkPeer_keeps
    apply State.modTwn_keeps
    exact h
  clear_value x3
  refine Keeps.ite ?_ ?_
  · refine Keeps.ite ?_ ?_
    · apply State.event_keeps
      apply State.setRole_keeps
      exact hx3
    · exact hx3
  · refine Keeps.ite ?_ ?_
    · exact hx3
    · split
      · apply State.join_keeps
        exact hx3
      · refine Keeps.ite ?_ ?_
        · apply State.join_keeps
          apply State.event_keeps
          exact hx3
        · exact hx3
      · refine Keeps.ite ?_ ?_
        · apply State.join_keeps
          apply State.event_keeps
          exact hx3
        · exact hx3
      · exact hx3

theorem helloRow_keeps {r s : State} (h : Keeps r s) (frame : List Byte) : Keeps r (helloRow frame s) := by
  unfold helloRow
  apply State.aizRx_keeps
  · exact h
  · intro f y2 y3
    apply State.helloTake_keeps
    exact y3

theorem State.peerHeard_keeps {r s : State} (h : Keeps r s) (role : Nat) : Keeps r (s.peerHeard role) := by
  unfold State.peerHeard
  extract_lets x1
  have hx1 : Keeps r x1 := by
    unfold x1
    apply State.modTwn_keeps
    exact h
  clear_value x1
  refine Keeps.ite ?_ ?_
  · apply State.setRole_keeps
    exact hx1
  · exact hx1

theorem State.dtDiffNote_keeps {r s : State} (h : Keeps r s) : Keeps r (s.dtDiffNote) := by
  unfold State.dtDiffNote
  extract_lets x1 x2
  have hx2 : Keeps r x2 := by
    unfold x2
    apply State.modTwn_keeps
    exact h
  clear_value x2
  refine Keeps.ite ?_ ?_
  · apply State.event_keeps
    exact hx2
  · exact hx2

theorem State.heartbeatTake_keeps {r s : State} (h : Keeps r s) (b : List Byte) : Keeps r (s.heartbeatTake b) := by
  unfold State.heartbeatTake
  extract_lets x1 x2 x3 x4 x5 x6 x7 x8
  have hx5 : Keeps r x5 := by
    unfold x5
    apply State.checkPeer_keeps
    apply State.modTwn_keeps
    exact h
  clear_value x5
  have hx8 : Keeps r x8 := by
    unfold x8
    refine Keeps.ite ?_ ?_
    · exact hx5
    · apply State.dtDiffNote_keeps
      apply State.modTwn_keeps
      exact hx5
  clear_value x8
  apply State.peerHeard_keeps
  exact hx8

theorem heartbeatRow_keeps {r s : State} (h : Keeps r s) (frame : List Byte) : Keeps r (heartbeatRow frame s) := by
  unfold heartbeatRow
  apply State.aizRx_keeps
  · exact h
  · intro f y2 y3
    apply State.heartbeatTake_keeps
    exact y3

theorem hbWordRxRow_keeps {r s : State} (h : Keeps r s) (w : Nat) : Keeps r (hbWordRxRow w s) := by
  unfold hbWordRxRow
  refine Keeps.ite ?_ ?_
  · apply State.peerHeard_keeps
    apply State.modTwn_keeps
    exact h
  · exact h

theorem heartbeatTxRow_keeps {r s : State} (h : Keeps r s) : Keeps r (heartbeatTxRow s) := by
  unfold heartbeatTxRow
  extract_lets x1 x2 x3 x4 x5 x6 x7
  have hx1 : Keeps r x1 := by
    unfold x1
    refine Keeps.ite ?_ ?_
    · apply State.mirrorItem_keeps
      apply State.modTwn_keeps
      exact h
    · exact h
  clear_value x1
  have hx4 : Keeps r x4 := by
    unfold x4
    apply State.aizSend_keeps
    exact hx1
  clear_value x4
  have hx5 : Keeps r x5 := by
    unfold x5
    refine Keeps.ite ?_ ?_
    · exact hx4
    · apply State.modTwn_keeps
      exact hx4
  clear_value x5
  refine Keeps.ite ?_ ?_
  · exact h
  · apply State.modTwn_keeps
    apply State.emit_keeps
    exact hx5

theorem mirrorRow_keeps {r s : State} (h : Keeps r s) (frame : List Byte) : Keeps r (mirrorRow frame s) := by
  unfold mirrorRow
  apply State.aizRx_keeps
  · exact h
  · intro y1 y2 y3
    refine Keeps.ite ?_ ?_
    · apply State.modTwn_keeps
      apply State.itemsApply_keeps
      exact y3
    · refine Keeps.ite ?_ ?_
      · apply State.itemsApply_keeps
        exact y3
      · exact y3

theorem resyncRow_keeps {r s : State} (h : Keeps r s) (frame : List Byte) : Keeps r (resyncRow frame s) := by
  unfold resyncRow
  apply State.aizRx_keeps
  · exact h
  · intro f y2 y3
    extract_lets x5 x6
    have hx5 : Keeps r x5 := by
      unfold x5
      apply State.itemsApply_keeps
      exact y3
    clear_value x5
    have hx6 : Keeps r x6 := by
      unfold x6
      apply State.count_keeps
      apply State.modTwn_keeps
      exact hx5
    clear_value x6
    refine Keeps.ite ?_ ?_
    · refine Keeps.ite ?_ ?_
      · apply State.resyncSend_keeps
        exact y3
      · exact y3
    · refine Keeps.ite ?_ ?_
      · exact y3
      · refine Keeps.ite ?_ ?_
        · refine Keeps.ite ?_ ?_
          · apply State.setRole_keeps
            exact hx6
          · exact hx6
        · exact hx5

theorem handoverRow_keeps {r s : State} (h : Keeps r s) (frame : List Byte) : Keeps r (handoverRow frame s) := by
  unfold handoverRow
  apply State.aizRx_keeps
  · exact h
  · intro y1 y2 y3
    extract_lets x4 x5 x6 x7
    have hx7 : Keeps r x7 := by
      unfold x7
      apply State.aizSend_keeps
      exact y3
    clear_value x7
    refine Keeps.ite ?_ ?_
    · apply State.modTwn_keeps
      exact hx7
    · exact hx7

theorem takeRow_keeps {r s : State} (h : Keeps r s) (frame : List Byte) : Keeps r (takeRow frame s) := by
  unfold takeRow
  apply State.aizRx_keeps
  · exact h
  · intro y1 y2 y3
    extract_lets x4 x5
    split
    · refine Keeps.ite ?_ ?_
      · exact y3
      · refine Keeps.ite ?_ ?_
        · apply State.modTwn_keeps
          exact y3
        · apply State.hoBack_keeps
          exact y3
    · exact y3

theorem twnEnWriteRow_keeps {r s : State} (h : Keeps r s) (v : Word) : Keeps r (twnEnWriteRow v s) := by
  unfold twnEnWriteRow
  extract_lets x1 x2 x3
  have hx2 : Keeps r x2 := by
    unfold x2
    apply State.writeReg_keeps
    exact h
  clear_value x2
  have hx3 : Keeps r x3 := by
    unfold x3
    split
    · apply State.hoEnd_keeps
      apply State.modTwn_keeps
      exact hx2
    · exact hx2
  clear_value x3
  refine Keeps.ite ?_ ?_
  · apply State.setRole_keeps
    apply State.modTwn_keeps
    exact hx3
  · refine Keeps.ite ?_ ?_
    · exact hx2
    · apply State.pairStart_keeps
      exact hx2

theorem State.twnBoot_keeps {r s : State} (h : Keeps r s) : Keeps r (s.twnBoot) := by
  unfold State.twnBoot
  refine Keeps.ite ?_ ?_
  · apply State.setRole_keeps
    exact h
  · exact h

theorem twnWaitTimeoutRow_keeps {r s : State} (h : Keeps r s) : Keeps r (twnWaitTimeoutRow s) := by
  unfold twnWaitTimeoutRow
  refine Keeps.ite ?_ ?_
  · apply State.setRole_keeps
    apply State.twnRestore_keeps
    apply State.advance_keeps
    exact h
  · exact h

theorem twnJoinTimeoutRow_keeps {r s : State} (h : Keeps r s) : Keeps r (twnJoinTimeoutRow s) := by
  unfold twnJoinTimeoutRow
  refine Keeps.ite ?_ ?_
  · apply State.setRole_keeps
    apply State.advance_keeps
    exact h
  · exact h

theorem twnMismatchTimeoutRow_keeps {r s : State} (h : Keeps r s) : Keeps r (twnMismatchTimeoutRow s) := by
  unfold twnMismatchTimeoutRow
  refine Keeps.ite ?_ ?_
  · apply State.setRole_keeps
    apply State.advance_keeps
    exact h
  · exact h

theorem twnStandbyTestRow_keeps {r s : State} (h : Keeps r s) : Keeps r (twnStandbyTestRow s) := by
  unfold twnStandbyTestRow
  refine Keeps.ite ?_ ?_
  · exact h
  · split
    · exact h
    · extract_lets x5
      have hx5 : Keeps r x5 := by
        unfold x5
        apply State.rotRequest_keeps
        exact h
      clear_value x5
      refine Keeps.ite ?_ ?_
      · apply State.modTwn_keeps
        exact hx5
      · exact hx5

theorem State.standbyTested_keeps {r s : State} (h : Keeps r s) (e : Nat) (ok : Bool) : Keeps r (s.standbyTested e ok) := by
  unfold State.standbyTested
  apply State.modTwn_keeps
  exact h

/-! ### Fault.lean -/

theorem State.modFlt_keeps {r s : State} (h : Keeps r s) (f : Flt → Flt) : Keeps r (s.modFlt f) := by
  unfold State.modFlt
  exact h.upd rfl rfl rfl rfl rfl rfl rfl rfl

theorem State.modBst_keeps {r s : State} (h : Keeps r s) (f : Bst → Bst) : Keeps r (s.modBst f) := by
  unfold State.modBst
  exact h.upd rfl rfl rfl rfl rfl rfl rfl rfl

theorem State.modFltSrc_keeps {r s : State} (h : Keeps r s) (i : Nat) (f : FltSrc → FltSrc) : Keeps r (s.modFltSrc i f) := by
  unfold State.modFltSrc
  apply State.modFlt_keeps
  exact h

theorem State.dropOwner_keeps {r s : State} (h : Keeps r s) (code : Nat) : Keeps r (s.dropOwner code) := by
  unfold State.dropOwner
  extract_lets x1 x2 x3
  have hx1 : Keeps r x1 := by
    unfold x1
    refine Keeps.foldl ?_ _ ?_
    · intro y4 y5 y6
      apply State.freeTask_keeps
      apply State.leaveEngine_keeps
      exact y6
    · exact h
  clear_value x1
  have hx2 : Keeps r x2 := by
    unfold x2
    apply State.modPlt_keeps
    exact hx1
  clear_value x2
  apply State.rotCheck_keeps
  apply State.pilotResume_keeps
  apply State.leaseRevoke_keeps
  exact hx2.upd rfl rfl rfl rfl rfl rfl rfl rfl

theorem State.rotCut_keeps {r s : State} (h : Keeps r s) (a1 : Rot) (test : Bool) : Keeps r (s.rotCut a1 test) := by
  unfold State.rotCut
  refine Keeps.ite ?_ ?_
  · apply State.rotEnd_keeps
    exact h
  · apply State.rotEnd_keeps
    apply State.freshNext_keeps
    exact h

theorem State.oscReload_keeps {r s : State} (h : Keeps r s) (e : Nat) : Keeps r (s.oscReload e) := by
  unfold State.oscReload
  apply State.modOsc_keeps
  exact h

theorem State.fenceMark_keeps {r s : State} (h : Keeps r s) (e : Nat) : Keeps r (s.fenceMark e) := by
  unfold State.fenceMark
  apply State.modEng_keeps
  apply State.count_keeps
  apply State.event_keeps
  exact h

theorem State.rotFence_keeps {r s : State} (h : Keeps r s) (e : Nat) (test : Bool) : Keeps r (s.rotFence e test) := by
  unfold State.rotFence
  split
  · refine Keeps.ite ?_ ?_
    · apply State.rotCut_keeps
      exact h
    · refine Keeps.ite ?_ ?_
      · apply State.event_keeps
        exact h
      · exact h
  · exact h

theorem State.fenceCount_keeps {r s : State} (h : Keeps r s) (c : Nat) : Keeps r (s.fenceCount c).1 := by
  unfold State.fenceCount
  dsimp only
  refine Keeps.ite ?_ ?_
  · apply State.event_keeps
    apply State.modFlt_keeps
    exact h
  · exact h

theorem State.fenceEngine_keeps {r s : State} (h : Keeps r s) (e : Nat) (test : Bool) : Keeps r (s.fenceEngine e test).1 := by
  unfold State.fenceEngine
  refine Keeps.iteFst ?_ ?_
  · dsimp only
    exact h
  · apply State.fenceCount_keeps
    apply State.noteEmpty_keeps
    apply State.rotFence_keeps
    apply State.dropOwner_keeps
    apply State.migrate_keeps
    apply State.oscReload_keeps
    apply State.fenceMark_keeps
    exact h

theorem State.fenceUnit_keeps {r s : State} (h : Keeps r s) (n : Nat) : Keeps r (s.fenceUnit n) := by
  unfold State.fenceUnit
  extract_lets x1
  have hx1 : Keeps r x1 := by
    unfold x1
    refine Keeps.ite ?_ ?_
    · apply State.capFeStopped_keeps
      apply State.modFe_keeps
      apply State.mtrFreeze_keeps
      exact h
    · refine Keeps.ite ?_ ?_
      · apply State.capFence_keeps
        exact h
      · exact h
  clear_value x1
  refine Keeps.ite ?_ ?_
  · exact h
  · apply State.pinsDrive_keeps
    apply State.dropOwner_keeps
    apply State.modFlt_keeps
    apply State.count_keeps
    apply State.event_keeps
    exact hx1

theorem State.fence_keeps {r s : State} (h : Keeps r s) (code : Nat) (test : Bool) : Keeps r (s.fence code test).1 := by
  unfold State.fence
  refine Keeps.iteFst ?_ ?_
  · apply State.fenceEngine_keeps
    exact h
  · dsimp only
    apply State.fenceUnit_keeps
    exact h

theorem State.capAbortAll_keeps {r s : State} (h : Keeps r s) : Keeps r (s.capAbortAll) := by
  unfold State.capAbortAll
  refine Keeps.foldl ?_ _ ?_
  · intro y1 y2 y3
    refine Keeps.ite ?_ ?_
    · apply State.capAbort_keeps
      exact y3
    · exact y3
  · exact h

theorem State.degrade_keeps {r s : State} (h : Keeps r s) : Keeps r (s.degrade) := by
  unfold State.degrade
  extract_lets x1 x2 x3
  have hx2 : Keeps r x2 := by
    unfold x2
    apply State.event_keeps
    apply State.modFlt_keeps
    exact h
  clear_value x2
  have hx3 : Keeps r x3 := by
    unfold x3
    refine Keeps.ite ?_ ?_
    · apply State.capAbortAll_keeps
      apply State.setFld_keeps
      exact hx2
    · exact hx2
  clear_value x3
  refine Keeps.ite ?_ ?_
  · apply State.setFld_keeps
    apply State.setFld_keeps
    exact hx3
  · exact hx3

theorem State.stopNow_keeps {r s : State} (h : Keeps r s) : Keeps r (s.stopNow) := by
  unfold State.stopNow
  extract_lets x1 x2
  have hx1 : Keeps r x1 := by
    unfold x1
    apply State.modAlm_keeps
    exact h
  clear_value x1
  have hx2 : Keeps r x2 := by
    unfold x2
    apply State.capAbortAll_keeps
    apply State.mtrFreeze_keeps
    apply State.alnNote_keeps
    apply State.setFld_keeps
    exact hx1
  clear_value x2
  apply State.pinsDrive_keeps
  apply State.modFlt_keeps
  exact hx2

theorem State.safeStop_keeps {r s : State} (h : Keeps r s) : Keeps r (s.safeStop) := by
  unfold State.safeStop
  extract_lets x1
  have hx1 : Keeps r x1 := by
    unfold x1
    apply State.modFlt_keeps
    exact h
  clear_value x1
  refine Keeps.ite ?_ ?_
  · exact h
  · refine Keeps.ite ?_ ?_
    · exact hx1
    · apply State.stopNow_keeps
      exact hx1

theorem State.afterHandover_keeps {r s : State} (h : Keeps r s) : Keeps r (s.afterHandover) := by
  unfold State.afterHandover
  refine Keeps.ite ?_ ?_
  · exact h
  · refine Keeps.ite ?_ ?_
    · apply State.stopNow_keeps
      exact h
    · exact h

theorem State.reactOwn_keeps {r s : State} (h : Keeps r s) (src : Nat) (code : Nat) : Keeps r (s.reactOwn src code) := by
  unfold State.reactOwn
  extract_lets x1 x2 x3 x4 x5
  have hx1 : Keeps r x1 := by
    unfold x1
    apply State.modFltSrc_keeps
    exact h
  clear_value x1
  have hx2 : Keeps r x2 := by
    unfold x2
    apply State.almSend_keeps
    apply State.logRaise_keeps
    exact hx1
  clear_value x2
  have hx3 : Keeps r x3 := by
    unfold x3
    refine Keeps.ite ?_ ?_
    · apply State.event_keeps
      exact hx2
    · exact hx2
  clear_value x3
  have hx4 : Keeps r x4 := by
    unfold x4
    refine Keeps.ite ?_ ?_
    · apply State.degrade_keeps
      exact hx3
    · exact hx3
  clear_value x4
  have hx5 : Keeps r x5 := by
    unfold x5
    refine Keeps.ite ?_ ?_
    · apply State.hoRequest_keeps
      exact hx4
    · exact hx4
  clear_value x5
  refine Keeps.ite ?_ ?_
  · exact h
  · refine Keeps.ite ?_ ?_
    · apply State.safeStop_keeps
      exact hx5
    · exact hx5

theorem State.reactAs_keeps {r s : State} (h : Keeps r s) (src : Nat) (code : Nat) : Keeps r (s.reactAs src code) := by
  unfold State.reactAs
  refine Keeps.ite ?_ ?_
  · apply State.reactOwn_keeps
    apply State.hoRequest_keeps
    exact h
  · apply State.reactOwn_keeps
    exact h

theorem State.faultNotice_keeps {r s : State} (h : Keeps r s) (r0 : FaultReport) (code : Nat) : Keeps r (s.faultNotice r0 code) := by
  unfold State.faultNotice
  refine Keeps.ite ?_ ?_
  · exact h
  · apply State.capNotice_keeps
    exact h

theorem State.react_keeps {r s : State} (h : Keeps r s) (a1 : FaultReport) (code : Nat) : Keeps r (s.react a1 code) := by
  unfold State.react
  extract_lets x1
  have hx1 : Keeps r x1 := by
    unfold x1
    apply State.faultNotice_keeps
    exact h
  clear_value x1
  refine Keeps.ite ?_ ?_
  · apply State.reactAs_keeps
    exact hx1
  · split
    · apply State.reactAs_keeps
      exact hx1
    · extract_lets x2 x3
      have hx2 : Keeps r x2.fst := by
        unfold x2
        apply State.fence_keeps
        exact hx1
      clear_value x2
      have hx3 : Keeps r x3 := by
        unfold x3
        apply State.reactAs_keeps
        exact hx2
      clear_value x3
      refine Keeps.ite ?_ ?_
      · exact hx3
      · apply State.reactAs_keeps
        exact hx3

theorem State.classify_keeps {r s : State} (h : Keeps r s) (src : Nat) : Keeps r (s.classify src).1 := by
  unfold State.classify
  extract_lets x1 x2
  refine Keeps.iteFst ?_ ?_
  · dsimp only
    apply State.count_keeps
    apply State.modFltSrc_keeps
    exact h
  · dsimp only
    apply State.modFltSrc_keeps
    exact h

theorem State.dramFails_keeps {r s : State} (h : Keeps r s) : Keeps r (s.dramFails) := by
  unfold State.dramFails
  refine Keeps.ite ?_ ?_
  · exact h
  · apply State.event_keeps
    apply State.modFlt_keeps
    exact h

theorem State.faultTake_keeps {r s : State} (h : Keeps r s) (a1 : FaultReport) : Keeps r (s.faultTake a1) := by
  unfold State.faultTake
  extract_lets x1 x2 x3 x4 x5 x6 x7 x8
  have hx1 : Keeps r x1 := by
    unfold x1
    apply State.modFltSrc_keeps
    apply State.count_keeps
    exact h
  clear_value x1
  have hx2 : Keeps r x2 := by
    unfold x2
    refine Keeps.ite ?_ ?_
    · apply State.count_keeps
      exact hx1
    · exact hx1
  clear_value x2
  have hx4 : Keeps r x4 := by
    unfold x4
    refine Keeps.ite ?_ ?_
    · exact hx2
    · refine Keeps.ite ?_ ?_
      · apply State.event_keeps
        exact hx2.upd rfl rfl rfl rfl rfl rfl rfl rfl
      · refine Keeps.ite ?_ ?_
        · apply State.dramFails_keeps
          exact hx2
        · exact hx2
  clear_value x4
  have hx5 : Keeps r x5 := by
    unfold x5
    refine Keeps.ite ?_ ?_
    · apply State.count_keeps
      apply State.event_keeps
      apply State.modFlt_keeps
      exact hx4
    · apply State.setTs_keeps
      apply State.count_keeps
      apply State.event_keeps
      apply State.modFlt_keeps
      exact hx4
  clear_value x5
  have hx6 : Keeps r x6.fst := by
    unfold x6
    apply State.classify_keeps
    exact hx5
  clear_value x6
  have hx7 : Keeps r x7 := by
    unfold x7
    refine Keeps.ite ?_ ?_
    · exact hx6
    · apply State.modFlt_keeps
      exact hx6
  clear_value x7
  have hx8 : Keeps r x8 := by
    unfold x8
    apply State.react_keeps
    exact hx7
  clear_value x8
  refine Keeps.ite ?_ ?_
  · exact h
  · refine Keeps.ite ?_ ?_
    · apply State.count_keeps
      apply State.modFlt_keeps
      exact hx4
    · refine Keeps.ite ?_ ?_
      · apply State.modFlt_keeps
        exact hx8
      · exact hx8

theorem State.eccUncorrectable_keeps {r s : State} (h : Keeps r s) (addr : Nat) : Keeps r (s.eccUncorrectable addr) := by
  unfold State.eccUncorrectable
  extract_lets x1
  have hx1 : Keeps r x1 := by
    unfold x1
    apply State.event_keeps
    apply State.count32_keeps
    exact h
  clear_value x1
  refine Keeps.ite ?_ ?_
  · exact hx1
  · apply State.setReg64_keeps
    exact hx1

theorem State.trngFails_keeps {r s : State} (h : Keeps r s) : Keeps r (s.trngFails) := by
  unfold State.trngFails
  extract_lets x1
  apply State.event_keeps
  exact h.upd rfl rfl rfl rfl rfl rfl rfl rfl

theorem State.takeReport_keeps {r s : State} (h : Keeps r s) : Keeps r (s.takeReport) := by
  unfold State.takeReport
  split
  · exact h
  · apply State.faultTake_keeps
    apply State.modFlt_keeps
    exact h

theorem State.eccCorrected_keeps {r s : State} (h : Keeps r s) : Keeps r (s.eccCorrected) := by
  unfold State.eccCorrected
  apply State.event_keeps
  apply State.count32_keeps
  exact h

theorem faultEventRow_keeps {r s : State} (h : Keeps r s) (ext : Option FaultIn) : Keeps r (faultEventRow ext s) := by
  unfold faultEventRow
  split
  · extract_lets x1 x2
    have hx1 : Keeps r x1 := by
      unfold x1
      refine Keeps.ite ?_ ?_
      · apply State.takeReport_keeps
        exact h
      · exact h
    clear_value x1
    have hx2 : Keeps r x2 := by
      unfold x2
      refine Keeps.ite ?_ ?_
      · apply State.eccUncorrectable_keeps
        exact hx1
      · refine Keeps.ite ?_ ?_
        · apply State.trngFails_keeps
          exact hx1
        · exact hx1
    clear_value x2
    refine Keeps.ite ?_ ?_
    · apply State.eccCorrected_keeps
      exact h
    · apply State.faultTake_keeps
      exact hx2
  · apply State.takeReport_keeps
    exact h

theorem State.breakSrc_keeps {r s : State} (h : Keeps r s) (src : Nat) : Keeps r (s.breakSrc src) := by
  unfold State.breakSrc
  refine Keeps.ite ?_ ?_
  · exact h
  · apply State.faultTake_keeps
    apply State.count_keeps
    apply State.event_keeps
    apply State.modFltSrc_keeps
    exact h

theorem faultPairBrokenRow_keeps {r s : State} (h : Keeps r s) (src : Nat) : Keeps r (faultPairBrokenRow src s) := by
  unfold faultPairBrokenRow
  apply State.breakSrc_keeps
  exact h

theorem State.healPairs_keeps {r s : State} (h : Keeps r s) (ok : List Nat) : Keeps r (s.healPairs ok) := by
  unfold State.healPairs
  refine Keeps.foldl ?_ _ ?_
  · intro y1 y2 y3
    apply State.modFltSrc_keeps
    exact y3
  · exact h

theorem faultLevelDecayRow_keeps {r s : State} (h : Keeps r s) (src : Nat) : Keeps r (faultLevelDecayRow src s) := by
  unfold faultLevelDecayRow
  extract_lets x1 x2
  have hx2 : Keeps r x2 := by
    unfold x2
    apply State.advance_keeps
    exact h
  clear_value x2
  refine Keeps.ite ?_ ?_
  · exact h
  · apply State.modFltSrc_keeps
    exact hx2

theorem faultReactionDoneRow_keeps {r s : State} (h : Keeps r s) : Keeps r (faultReactionDoneRow s) := by
  unfold faultReactionDoneRow
  extract_lets x1
  have hx1 : Keeps r x1 := by
    unfold x1
    refine Keeps.ite ?_ ?_
    · apply State.stopNow_keeps
      exact h
    · exact h
  clear_value x1
  apply State.modFlt_keeps
  exact hx1

theorem fltFerReleaseRow_keeps {r s : State} (h : Keeps r s) (v : Word) : Keeps r (fltFerReleaseRow v s) := by
  unfold fltFerReleaseRow
  refine Keeps.ite ?_ ?_
  · apply State.setTs_keeps
    apply State.modFlt_keeps
    exact h
  · exact h

theorem State.inject_keeps {r s : State} (h : Keeps r s) (src : Nat) (broken : Bool) : Keeps r (s.inject src broken) := by
  unfold State.inject
  refine Keeps.ite ?_ ?_
  · apply State.breakSrc_keeps
    exact h
  · apply State.report_keeps
    exact h

theorem fltInjectGoRow_keeps {r s : State} (h : Keeps r s) (v : Word) : Keeps r (fltInjectGoRow v s) := by
  unfold fltInjectGoRow
  refine Keeps.ite ?_ ?_
  · apply State.inject_keeps
    exact h
  · exact h

theorem manFltInject_keeps {r s : State} (h : Keeps r s) (n : Nat) : Keeps r (manFltInject n s) := by
  unfold manFltInject
  apply State.runManifest_keeps
  · exact h
  · intro y2 y3 y4 y5
    refine Keeps.ite ?_ ?_
    · apply State.finish0_keeps
      apply State.inject_keeps
      exact y5
    · apply State.finish0_keeps
      exact y5

theorem degradeClrRow_keeps {r s : State} (h : Keeps r s) : Keeps r (degradeClrRow s) := by
  unfold degradeClrRow
  apply State.modFlt_keeps
  exact h

theorem fltCtrlWrite_keeps {r s : State} (h : Keeps r s) (v : Word) : Keeps r (fltCtrlWrite v s) := by
  unfold fltCtrlWrite
  extract_lets x1 x2
  have hx1 : Keeps r x1 := by
    unfold x1
    refine Keeps.ite ?_ ?_
    · apply State.clearCounters_keeps
      exact h
    · exact h
  clear_value x1
  have hx2 : Keeps r x2 := by
    unfold x2
    refine Keeps.ite ?_ ?_
    · apply degradeClrRow_keeps
      exact hx1
    · exact hx1
  clear_value x2
  apply State.writeReg_keeps
  exact hx2

theorem State.sliceRun_keeps {r s : State} (h : Keeps r s) (i : Nat) (pass : Bool) : Keeps r (s.sliceRun i pass) := by
  unfold State.sliceRun
  extract_lets x1 x2 x3
  have hx1 : Keeps r x1 := by
    unfold x1
    apply State.count_keeps
    apply State.modBst_keeps
    exact h
  clear_value x1
  have hx2 : Keeps r x2 := by
    unfold x2
    apply State.count_keeps
    apply State.modBst_keeps
    exact hx1
  clear_value x2
  have hx3 : Keeps r x3 := by
    unfold x3
    apply State.report_keeps
    exact hx2
  clear_value x3
  refine Keeps.ite ?_ ?_
  · exact hx1
  · split
    · extract_lets x4
      have hx4 : Keeps r x4.fst := by
        unfold x4
        apply State.fence_keeps
        exact hx3
      clear_value x4
      refine Keeps.ite ?_ ?_
      · exact hx4
      · apply State.reactAs_keeps
        exact hx4
    · exact hx3

theorem State.bstEnd_keeps {r s : State} (h : Keeps r s) (result : Nat) : Keeps r (s.bstEnd result) := by
  unfold State.bstEnd
  extract_lets x1 x2
  have hx1 : Keeps r x1 := by
    unfold x1
    apply State.event_keeps
    apply State.modBst_keeps
    exact h
  clear_value x1
  have hx2 : Keeps r x2 := by
    unfold x2
    refine Keeps.ite ?_ ?_
    · apply State.event_keeps
      exact hx1
    · exact hx1
  clear_value x2
  apply State.finishOpt_keeps
  apply State.logRaise_keeps
  exact hx2

theorem State.bstRefuse_keeps {r s : State} (h : Keeps r s) (result : Nat) (mid : Option Nat) : Keeps r (s.bstRefuse result mid) := by
  unfold State.bstRefuse
  apply State.finishOpt_keeps
  apply State.count_keeps
  apply State.event_keeps
  refine Keeps.ite ?_ ?_
  · exact h
  · apply State.modBst_keeps
    exact h

theorem State.bstBegin_keeps {r s : State} (h : Keeps r s) (mode : Nat) (slice : Nat) (mid : Option Nat) : Keeps r (s.bstBegin mode slice mid) := by
  unfold State.bstBegin
  apply State.modBst_keeps
  exact h

theorem State.bstSlice_keeps {r s : State} (h : Keeps r s) (i : Nat) (mid : Option Nat) : Keeps r (s.bstSlice i mid) := by
  unfold State.bstSlice
  extract_lets x1 x2
  have hx2 : Keeps r x2 := by
    unfold x2
    apply State.rotRequest_keeps
    exact h
  clear_value x2
  refine Keeps.ite ?_ ?_
  · apply State.bstRefuse_keeps
    exact h
  · refine Keeps.ite ?_ ?_
    · apply State.bstEnd_keeps
      apply State.modBst_keeps
      apply State.bstBegin_keeps
      exact h
    · refine Keeps.ite ?_ ?_
      · apply State.bstRefuse_keeps
        exact h
      · refine Keeps.ite ?_ ?_
        · refine Keeps.ite ?_ ?_
          · apply State.bstBegin_keeps
            exact hx2
          · apply State.bstRefuse_keeps
            exact hx2
        · apply State.bstBegin_keeps
          exact h

theorem State.bstWhole_keeps {r s : State} (h : Keeps r s) (mid : Option Nat) : Keeps r (s.bstWhole mid) := by
  unfold State.bstWhole
  refine Keeps.ite ?_ ?_
  · apply State.bstRefuse_keeps
    exact h
  · apply State.alnNote_keeps
    apply State.count_keeps
    apply State.bstBegin_keeps
    exact h

theorem State.mtrShutdownSave_keeps {r s : State} (h : Keeps r s) : Keeps r (s.mtrShutdownSave) := by
  unfold State.mtrShutdownSave
  refine Keeps.ite ?_ ?_
  · apply State.mtrFlashWrite_keeps
    apply State.freshNext_keeps
    exact h
  · exact h

theorem State.shutdownGo_keeps {r s : State} (h : Keeps r s) : Keeps r (s.shutdownGo) := by
  unfold State.shutdownGo
  refine Keeps.ite ?_ ?_
  · apply State.pinsDrive_keeps
    apply State.modBst_keeps
    apply State.stopNow_keeps
    apply State.twnSaveNow_keeps
    apply State.mtrShutdownSave_keeps
    exact h
  · exact h

theorem State.bstShutdown_keeps {r s : State} (h : Keeps r s) (mid : Option Nat) : Keeps r (s.bstShutdown mid) := by
  unfold State.bstShutdown
  extract_lets x1 x2
  have hx1 : Keeps r x1 := by
    unfold x1
    refine Keeps.ite ?_ ?_
    · apply State.bstEnd_keeps
      exact h
    · exact h
  clear_value x1
  have hx2 : Keeps r x2 := by
    unfold x2
    apply State.bstBegin_keeps
    exact hx1
  clear_value x2
  apply State.shutdownGo_keeps
  refine Keeps.ite ?_ ?_
  · apply State.hoRequest_keeps
    exact hx2
  · exact hx2

theorem manBstRun_keeps {r s : State} (h : Keeps r s) (n : Nat) : Keeps r (manBstRun n s) := by
  unfold manBstRun
  apply State.runManifest_keeps
  · exact h
  · intro y2 y3 y4 y5
    split
    · apply State.bstSlice_keeps
      exact y5
    · apply State.bstWhole_keeps
      exact y5
    · apply State.bstShutdown_keeps
      exact y5

theorem bstCtrlSliceRow_keeps {r s : State} (h : Keeps r s) (slice : Nat) : Keeps r (bstCtrlSliceRow slice s) := by
  unfold bstCtrlSliceRow
  apply State.bstSlice_keeps
  exact h

theorem bstCtrlWholeRow_keeps {r s : State} (h : Keeps r s) : Keeps r (bstCtrlWholeRow s) := by
  unfold bstCtrlWholeRow
  apply State.bstWhole_keeps
  exact h

theorem bstCtrlShutdownRow_keeps {r s : State} (h : Keeps r s) : Keeps r (bstCtrlShutdownRow s) := by
  unfold bstCtrlShutdownRow
  apply State.bstShutdown_keeps
  exact h

theorem bstCtrlAbortRow_keeps {r s : State} (h : Keeps r s) : Keeps r (bstCtrlAbortRow s) := by
  unfold bstCtrlAbortRow
  refine Keeps.ite ?_ ?_
  · apply State.modBst_keeps
    exact h
  · exact h

theorem bstCtrlWrite_keeps {r s : State} (h : Keeps r s) (v : Word) : Keeps r (bstCtrlWrite v s) := by
  unfold bstCtrlWrite
  extract_lets x1
  have hx1 : Keeps r x1 := by
    unfold x1
    refine Keeps.ite ?_ ?_
    · apply bstCtrlAbortRow_keeps
      exact h
    · exact h
  clear_value x1
  refine Keeps.ite ?_ ?_
  · split
    · apply State.bstSlice_keeps
      exact hx1
    · apply State.bstWhole_keeps
      exact hx1
    · apply State.bstShutdown_keeps
      exact hx1
    · exact hx1
  · exact hx1

theorem State.unitReset_keeps {r s : State} (h : Keeps r s) (n : Nat) : Keeps r (s.unitReset n) := by
  unfold State.unitReset
  extract_lets x1
  split
  · apply State.resetBlock_keeps
    exact h.upd rfl rfl rfl rfl rfl rfl rfl rfl
  · apply State.resetBlock_keeps
    exact h.upd rfl rfl rfl rfl rfl rfl rfl rfl
  · apply State.resetBlock_keeps
    exact h.upd rfl rfl rfl rfl rfl rfl rfl rfl
  · apply State.resetBlock_keeps
    exact h.upd rfl rfl rfl rfl rfl rfl rfl rfl
  · apply State.keyRestore_keeps
    exact h
  · apply State.resetBlock_keeps
    exact h.upd rfl rfl rfl rfl rfl rfl rfl rfl
  · apply State.resetBlock_keeps
    exact h.upd rfl rfl rfl rfl rfl rfl rfl rfl
  · exact h

theorem State.releaseUnit_keeps {r s : State} (h : Keeps r s) (n : Nat) : Keeps r (s.releaseUnit n) := by
  unfold State.releaseUnit
  extract_lets x1
  have hx1 : Keeps r x1 := by
    unfold x1
    apply State.modFlt_keeps
    apply State.unitReset_keeps
    exact h
  clear_value x1
  apply State.pinsDrive_keeps
  refine Keeps.ite ?_ ?_
  · apply State.mtrThaw_keeps
    exact hx1
  · exact hx1

theorem State.wholeEnd_keeps {r s : State} (h : Keeps r s) (result : Nat) : Keeps r (s.wholeEnd result) := by
  unfold State.wholeEnd
  extract_lets x1 x2 x3 x4 x5 x6
  have hx4 : Keeps r x4 := by
    unfold x4
    exact h.upd rfl rfl rfl rfl rfl rfl rfl rfl
  clear_value x4
  have hx5 : Keeps r x5 := by
    unfold x5
    apply State.modFlt_keeps
    apply State.modPlt_keeps
    apply State.keyRestore_keeps
    exact hx4
  clear_value x5
  have hx6 : Keeps r x6 := by
    unfold x6
    apply State.pinsDrive_keeps
    apply State.alnNote_keeps
    apply State.bstEnd_keeps
    exact hx5
  clear_value x6
  refine Keeps.ite ?_ ?_
  · apply State.promote_keeps
    exact hx6
  · apply State.resyncRequest_keeps
    exact hx6

theorem State.releaseEnd_keeps {r s : State} (h : Keeps r s) (result : Nat) (mid : Option Nat) : Keeps r (s.releaseEnd result mid) := by
  unfold State.releaseEnd
  extract_lets x1
  have hx1 : Keeps r x1 := by
    unfold x1
    apply State.event_keeps
    apply State.modFlt_keeps
    exact h
  clear_value x1
  apply State.finishOpt_keeps
  refine Keeps.ite ?_ ?_
  · apply State.count_keeps
    exact hx1
  · exact hx1

theorem State.releaseReq_keeps {r s : State} (h : Keeps r s) (owner : Nat) (mid : Option Nat) : Keeps r (s.releaseReq owner mid) := by
  unfold State.releaseReq
  refine Keeps.ite ?_ ?_
  · apply State.releaseEnd_keeps
    exact h
  · refine Keeps.ite ?_ ?_
    · split
      · apply State.finishOpt_keeps
        exact h
      · apply State.releaseEnd_keeps
        exact h
    · apply State.modFlt_keeps
      exact h

theorem fltReleaseGoRow_keeps {r s : State} (h : Keeps r s) (v : Word) : Keeps r (fltReleaseGoRow v s) := by
  unfold fltReleaseGoRow
  refine Keeps.ite ?_ ?_
  · apply State.releaseReq_keeps
    exact h
  · exact h

theorem manFltRelease_keeps {r s : State} (h : Keeps r s) (n : Nat) : Keeps r (manFltRelease n s) := by
  unfold manFltRelease
  apply State.runManifest_keeps
  · exact h
  · intro y2 y3 y4 y5
    apply State.releaseReq_keeps
    exact y5

theorem State.assumptionCheck_keeps {r s : State} (h : Keeps r s) : Keeps r (s.assumptionCheck) := by
  unfold State.assumptionCheck
  refine Keeps.ite ?_ ?_
  · apply State.modFlt_keeps
    exact h
  · exact h

theorem State.releaseSlice_keeps {r s : State} (h : Keeps r s) (a1 : Release) (pass : Bool) : Keeps r (s.releaseSlice a1 pass) := by
  unfold State.releaseSlice
  extract_lets x1 x2
  have hx1 : Keeps r x1 := by
    unfold x1
    apply State.sliceRun_keeps
    exact h
  clear_value x1
  have hx2 : Keeps r x2 := by
    unfold x2
    refine Keeps.ite ?_ ?_
    · apply State.assumptionCheck_keeps
      apply State.modEng_keeps
      exact hx1
    · apply State.releaseUnit_keeps
      exact hx1
  clear_value x2
  refine Keeps.ite ?_ ?_
  · apply State.releaseEnd_keeps
    exact hx1
  · apply State.releaseEnd_keeps
    exact hx2

theorem State.nextSlice_keeps {r : State} (k : Nat) {s : State} (h : Keeps r s) (i : Nat) : Keeps r (State.nextSlice k s i).1 := by
  induction k generalizing s i with
  | zero => exact h
  | succ k ih => exact Keeps.iteFst h (Keeps.iteFst (ih (State.modBst_keeps h _) _) h)

theorem bistSliceDoneRow_keeps {r s : State} (h : Keeps r s) (pass : Bool) : Keeps r (bistSliceDoneRow pass s) := by
  unfold bistSliceDoneRow
  extract_lets x1 x2 x3 x4
  have hx2 : Keeps r x2 := by
    unfold x2
    apply State.sliceRun_keeps
    exact h
  clear_value x2
  have hx3 : Keeps r x3 := by
    unfold x3
    apply State.shutdownGo_keeps
    exact h
  clear_value x3
  have hx4 : Keeps r x4 := by
    unfold x4
    apply State.sliceRun_keeps
    exact hx3
  clear_value x4
  split
  · apply State.releaseSlice_keeps
    exact h
  · refine Keeps.ite ?_ ?_
    · exact h
    · split
      · refine Keeps.ite ?_ ?_
        · exact h
        · apply State.bstEnd_keeps
          refine Keeps.ite ?_ ?_
          · apply State.unitReset_keeps
            exact hx2
          · exact hx2
      · refine Keeps.ite ?_ ?_
        · apply State.wholeEnd_keeps
          exact hx2
        · split
          · rename_i z28 z29 z30 z31 z32 z33 z34 z35
            have kz33 : Keeps r z33 := Keeps.ofFst z35 (by
              apply State.nextSlice_keeps
              exact hx2)
            apply State.modBst_keeps
            exact kz33
          · rename_i z40 z41 z42 z43 z44 z45 z46
            have kz45 : Keeps r z45 := Keeps.ofFst z46 (by
              apply State.nextSlice_keeps
              exact hx2)
            apply State.wholeEnd_keeps
            exact kz45
      · refine Keeps.ite ?_ ?_
        · exact hx3
        · split
          · rename_i z54 z55 z56 z57 z58 z59 z60 z61 z62
            have kz60 : Keeps r z60 := Keeps.ofFst z62 (by
              apply State.nextSlice_keeps
              exact hx4)
            apply State.modBst_keeps
            exact kz60
          · rename_i z67 z68 z69 z70 z71 z72 z73 z74
            have kz73 : Keeps r z73 := Keeps.ofFst z74 (by
              apply State.nextSlice_keeps
              exact hx4)
            extract_lets x78
            apply State.bstEnd_keeps
            exact kz73.upd rfl rfl rfl rfl rfl rfl rfl rfl

theorem engineTestDoneRow_keeps {r s : State} (h : Keeps r s) (ok : Bool) : Keeps r (engineTestDoneRow ok s) := by
  unfold engineTestDoneRow
  extract_lets x1
  have hx1 : Keeps r x1 := by
    unfold x1
    apply State.rotBegin_keeps
    exact h
  clear_value x1
  split
  · exact hx1
  · extract_lets x2 x3
    have hx2 : Keeps r x2 := by
      unfold x2
      refine Keeps.ite ?_ ?_
      · apply State.modEng_keeps
        apply State.sliceRun_keeps
        exact hx1
      · apply State.sliceRun_keeps
        exact hx1
    clear_value x2
    have hx3 : Keeps r x3 := by
      unfold x3
      apply State.standbyTested_keeps
      exact hx2
    clear_value x3
    refine Keeps.ite ?_ ?_
    · exact hx1
    · refine Keeps.ite ?_ ?_
      · apply State.bstEnd_keeps
        exact hx3
      · apply State.logRaise_keeps
        exact hx3

theorem engineRejoinDoneRow_keeps {r s : State} (h : Keeps r s) (e : Nat) : Keeps r (engineRejoinDoneRow e s) := by
  unfold engineRejoinDoneRow
  apply State.assumptionCheck_keeps
  apply State.rejoinDone_keeps
  exact h

theorem State.fltWinStep_keeps {r s : State} (h : Keeps r s) : Keeps r (s.fltWinStep) := by
  unfold State.fltWinStep
  apply State.setFld_keeps
  exact h

/-! ### Lpe.lean -/

theorem State.localMiss_keeps {r s : State} (h : Keeps r s) : Keeps r (s.localMiss) := by
  unfold State.localMiss
  apply State.count_keeps
  apply State.event_keeps
  exact h

theorem lpeEstimateRow_keeps {r s : State} (h : Keeps r s) (j : Nat) (sec : Nat) (k : Nat) (handOff : Nat) : Keeps r (lpeEstimateRow j sec k handOff s) := by
  unfold lpeEstimateRow
  extract_lets x1 x2 x3 x4 x5 x6 x7 x8 x9 x10
  have hx2 : Keeps r x2 := by
    unfold x2
    apply State.modFe_keeps
    apply State.advance_keeps
    exact h
  clear_value x2
  have hx8 : Keeps r x8 := by
    unfold x8
    apply State.modFe_keeps
    exact hx2
  clear_value x8
  refine Keeps.ite ?_ ?_
  · exact h
  · refine Keeps.ite ?_ ?_
    · exact hx2
    · split
      · exact hx2
      · apply State.localMiss_keeps
        exact hx8
      · extract_lets x25 x26 x27 x28
        refine Keeps.ite ?_ ?_
        · apply State.localMiss_keeps
          exact hx8
        · split
          · extract_lets x34 x35
            have hx35 : Keeps r x35 := by
              unfold x35
              apply State.handOff_keeps
              apply State.count_keeps
              apply State.freshNext_keeps
              exact hx8
            clear_value x35
            refine Keeps.ite ?_ ?_
            · apply State.localMiss_keeps
              exact hx35
            · exact hx35

/-! ### Crypto.lean -/

theorem State.cryptoFree_keeps {r s : State} (h : Keeps r s) (ctx : Nat) : Keeps r (s.cryptoFree ctx) := by
  unfold State.cryptoFree
  extract_lets x1
  apply State.leaseReturn_keeps
  exact h.upd rfl rfl rfl rfl rfl rfl rfl rfl

theorem State.verifyCount_keeps {r s : State} (h : Keeps r s) (ok : Bool) : Keeps r (s.verifyCount ok) := by
  unfold State.verifyCount
  refine Keeps.ite ?_ ?_
  · apply State.count_keeps
    exact h
  · apply State.event_keeps
    apply State.count_keeps
    apply State.count_keeps
    exact h

theorem State.signRecordDone_keeps {r s : State} (h : Keeps r s) (o : CryptoOp) (m : Nat) (body : List Byte) : Keeps r (s.signRecordDone o m body) := by
  unfold State.signRecordDone
  apply State.mtrRecordWrite_keeps
  apply State.count_keeps
  exact h

theorem State.signCheckpointDone_keeps {r s : State} (h : Keeps r s) (o : CryptoOp) : Keeps r (s.signCheckpointDone o) := by
  unfold State.signCheckpointDone
  apply State.logChkptWrite_keeps
  apply State.count_keeps
  exact h

theorem State.verifyClearDone_keeps {r s : State} (h : Keeps r s) (o : CryptoOp) (mid : Nat) (last : Nat) : Keeps r (s.verifyClearDone o mid last) := by
  unfold State.verifyClearDone
  extract_lets x1
  have hx1 : Keeps r x1 := by
    unfold x1
    apply State.verifyCount_keeps
    exact h
  clear_value x1
  refine Keeps.ite ?_ ?_
  · apply State.logClearNow_keeps
    exact hx1
  · apply State.logClearRefuse_keeps
    exact hx1

theorem State.verifyResetDone_keeps {r s : State} (h : Keeps r s) (o : CryptoOp) (mid : Nat) (point : Nat) : Keeps r (s.verifyResetDone o mid point) := by
  unfold State.verifyResetDone
  extract_lets x1
  have hx1 : Keeps r x1 := by
    unfold x1
    apply State.verifyCount_keeps
    exact h
  clear_value x1
  refine Keeps.ite ?_ ?_
  · apply State.finish0_keeps
    apply State.modPoint_keeps
    exact hx1
  · apply State.finish0_keeps
    exact hx1

theorem State.verifyReplaceDone_keeps {r s : State} (h : Keeps r s) (o : CryptoOp) (mid : Nat) (slot : Nat) (new : KeySlot) : Keeps r (s.verifyReplaceDone o mid slot new) := by
  unfold State.verifyReplaceDone
  extract_lets x1
  have hx1 : Keeps r x1 := by
    unfold x1
    apply State.verifyCount_keeps
    exact h
  clear_value x1
  refine Keeps.ite ?_ ?_
  · apply State.keyChange_keeps
    exact hx1
  · apply State.finish0_keeps
    exact hx1

theorem State.verifyUnlockDone_keeps {r s : State} (h : Keeps r s) (o : CryptoOp) (level : Nat) : Keeps r (s.verifyUnlockDone o level) := by
  unfold State.verifyUnlockDone
  extract_lets x1
  have hx1 : Keeps r x1 := by
    unfold x1
    apply State.verifyCount_keeps
    exact h
  clear_value x1
  refine Keeps.ite ?_ ?_
  · apply State.unlockEnd_keeps
    exact hx1
  · exact hx1

theorem cryptoOpDoneRow_keeps {r s : State} (h : Keeps r s) (ctx : Nat) : Keeps r (cryptoOpDoneRow ctx s) := by
  unfold cryptoOpDoneRow
  extract_lets x1
  have hx1 : Keeps r x1 := by
    unfold x1
    apply State.cryptoFree_keeps
    exact h
  clear_value x1
  split
  · exact h
  · refine Keeps.ite ?_ ?_
    · exact h
    · split
      · apply State.signRecordDone_keeps
        exact hx1
      · apply State.signCheckpointDone_keeps
        exact hx1
      · apply State.verifyClearDone_keeps
        exact hx1
      · apply State.verifyResetDone_keeps
        exact hx1
      · apply State.verifyReplaceDone_keeps
        exact hx1
      · apply State.verifyUnlockDone_keeps
        exact hx1

/-! ### Reset.lean -/

theorem State.coreClear_keeps {r s : State} (h : Keeps r s) (cause : Nat) (env : BootEnv) : Keeps r (s.coreClear cause env) :=
  { pending := h.pending, variant := h.variant, dramGiB := h.dramGiB, closed := h.closed, fresh := h.fresh, out := h.out,
    regs := fun _ => mapWf_nil, dram := fun _ => mapWf_nil }

theorem State.bootRoot_keeps {r s : State} (h : Keeps r s) (trngOk otpOk : Bool) : Keeps r (s.bootRoot trngOk otpOk) := by
  unfold State.bootRoot
  refine Keeps.ite (State.report_keeps (State.trngFails_keeps h) _ _ _ _ _) (Keeps.ite h (Keeps.ite ?_ ?_))
  · exact (State.freshNext_keeps h).upd rfl rfl rfl rfl rfl rfl rfl rfl
  · exact h.upd rfl rfl rfl rfl rfl rfl rfl rfl

theorem State.bootEngine_keeps {r s : State} (h : Keeps r s) (e : Nat) : Keeps r (s.bootEngine e) := by
  unfold State.bootEngine
  refine Keeps.ite ?_ ?_
  · exact h
  · split
    · apply State.modEng_keeps
      exact h
    · apply State.modEng_keeps
      exact h

theorem State.bootRoles_keeps {r s : State} (h : Keeps r s) : Keeps r (s.bootRoles) := by
  unfold State.bootRoles
  refine Keeps.foldl ?_ _ ?_
  · intro y1 y2 y3
    refine Keeps.ite ?_ ?_
    · apply State.noteEmpty_keeps
      apply State.passRoles_keeps
      exact y3
    · exact y3
  · exact h

theorem State.bootKeys_keeps {r s : State} (h : Keeps r s) : Keeps r (s.bootKeys) := by
  unfold State.bootKeys
  extract_lets x1
  have hx1 : Keeps r x1 := by
    unfold x1
    apply State.deriveStart_keeps
    apply State.deriveStart_keeps
    apply State.keyRestore_keeps
    exact h
  clear_value x1
  refine Keeps.ite ?_ ?_
  · apply State.deriveStart_keeps
    exact hx1
  · exact hx1

theorem State.bootLog_keeps {r s : State} (h : Keeps r s) : Keeps r (s.bootLog) := by
  unfold State.bootLog
  extract_lets x1 x2 x3 x4 x5 x6
  have hx4 : Keeps r x4 := by
    unfold x4
    apply State.freshNext_keeps
    apply State.freshNext_keeps
    exact h
  clear_value x4
  refine Keeps.ite ?_ ?_
  · split
    · apply State.modLog_keeps
      exact h
    · exact h
  · apply State.modLog_keeps
    exact hx4.upd rfl rfl rfl rfl rfl rfl rfl rfl

theorem State.bootStart_keeps {r s : State} (h : Keeps r s) (cause : Nat) : Keeps r (s.bootStart cause) := by
  unfold State.bootStart
  extract_lets x1 x2 x3
  apply State.logWrite_keeps
  exact h

theorem State.bootLoad_keeps {r s : State} (h : Keeps r s) (flashOk : Bool) : Keeps r (s.bootLoad flashOk) := by
  unfold State.bootLoad
  extract_lets x1 x2
  have hx1 : ∀ a0 a1, Keeps r a1 → Keeps r (x1 a0 a1) := by
    intro y3 y4 y5
    unfold x1
    extract_lets x7
    exact y5.upd rfl rfl rfl rfl rfl rfl rfl rfl
  clear_value x1
  refine Keeps.ite ?_ ?_
  · apply hx1
    exact h
  · split
    · apply hx1
      exact h
    · extract_lets x16 x17
      have hx16 : Keeps r x16 := by
        unfold x16
        exact h.upd rfl rfl rfl rfl rfl rfl rfl rfl
      clear_value x16
      refine Keeps.ite ?_ ?_
      · apply hx1
        apply State.flashFail_keeps
        exact hx16
      · split
        · apply hx1
          exact hx16
        · extract_lets x27
          have hx27 : Keeps r x27 := by
            unfold x27
            exact hx16.upd rfl rfl rfl rfl rfl rfl rfl rfl
          clear_value x27
          refine Keeps.ite ?_ ?_
          · apply hx1
            exact hx16
          · apply State.acceptCommit_keeps
            exact hx27

theorem coreResetRow_keeps {r s : State} (h : Keeps r s) (cause : Nat) (env : BootEnv) : Keeps r (coreResetRow cause env s) := by
  unfold coreResetRow
  extract_lets x1 x2
  have hx1 : Keeps r x1 := by
    unfold x1
    apply State.bootRoot_keeps
    apply State.coreClear_keeps
    apply bkpPorRelease_keeps
    exact h
  clear_value x1
  have hx2 : Keeps r x2 := by
    unfold x2
    apply State.bootRoles_keeps
    refine Keeps.foldl ?_ _ ?_
    · intro y3 y4 y5
      apply State.bootEngine_keeps
      exact y5
    · exact hx1
  clear_value x2
  apply State.bootLoad_keeps
  apply State.bootStart_keeps
  apply State.bootLog_keeps
  apply State.bootKeys_keeps
  exact hx2

theorem perstRow_keeps {r s : State} (h : Keeps r s) (env : BootEnv) : Keeps r (perstRow env s) := by
  unfold perstRow
  extract_lets x1 x2 x3 x4
  have hx1 : Keeps r x1 := by
    unfold x1
    apply hifReset_keeps
    exact h
  clear_value x1
  refine Keeps.ite ?_ ?_
  · apply coreResetRow_keeps
    exact h
  · exact hx1.upd rfl rfl rfl rfl rfl rfl rfl rfl

theorem rtcRstWrite_keeps {r s : State} (h : Keeps r s) (v : Word) (env : BootEnv) : Keeps r (rtcRstWrite v env s) := by
  unfold rtcRstWrite
  refine Keeps.ite ?_ ?_
  · apply coreResetRow_keeps
    exact h
  · exact h

theorem bkpPorReleaseRow_keeps {r s : State} (h : Keeps r s) : Keeps r (bkpPorReleaseRow s) := by
  unfold bkpPorReleaseRow
  extract_lets x1 x2
  have hx1 : Keeps r x1 := by
    unfold x1
    apply State.setDt_keeps
    apply bkpPorRelease_keeps
    exact h
  clear_value x1
  refine Keeps.ite ?_ ?_
  · exact hx1.upd rfl rfl rfl rfl rfl rfl rfl rfl
  · exact h

end Sys2Proof.Machine
end

