-- ==== Sys2Proof/Laws/KeepsAccess.lean ====
section
/-! SUPPORT. Keeps is kept by register views, accesses, commits, the second and what follows every command. -/

namespace Sys2Proof.Machine

/-! ### View.lean -/

theorem State.feWinStep_keeps {r s : State} (h : Keeps r s) : Keeps r (s.feWinStep) := by
  unfold State.feWinStep
  apply State.setFld_keeps
  exact h

theorem State.mtrWinStep_keeps {r s : State} (h : Keeps r s) : Keeps r (s.mtrWinStep) := by
  unfold State.mtrWinStep
  apply State.setFld_keeps
  exact h

theorem State.capWinStep_keeps {r s : State} (h : Keeps r s) : Keeps r (s.capWinStep) := by
  unfold State.capWinStep
  apply State.setFld_keeps
  exact h

theorem capWinWrite_keeps {r s : State} (h : Keeps r s) (v : Word) : Keeps r (capWinWrite v s) := by
  unfold capWinWrite
  extract_lets x1 x2 x3
  have hx2 : Keeps r x2 := by
    unfold x2
    apply State.capWinStep_keeps
    exact h
  clear_value x2
  refine Keeps.ite ?_ ?_
  · exact hx2
  · exact hx2.upd rfl rfl rfl rfl rfl rfl rfl rfl

theorem State.logWinStep_keeps {r s : State} (h : Keeps r s) : Keeps r (s.logWinStep) := by
  unfold State.logWinStep
  apply State.setFld_keeps
  exact h

theorem State.cfgSwinStep_keeps {r s : State} (h : Keeps r s) : Keeps r (s.cfgSwinStep) := by
  unfold State.cfgSwinStep
  apply State.setFld_keeps
  exact h

/-! ### Access.lean -/

theorem State.accErr_keeps {r s : State} (h : Keeps r s) (master : Nat) (write : Bool) (addr : Nat) : Keeps r (s.accErr master write addr) := by
  unfold State.accErr
  apply State.report_keeps
  exact h

theorem State.busWrite_keeps {r s : State} (h : Keeps r s) (o : Nat) (v : Word) (master : Nat) (f : State → State) (hf : ∀ b0, Keeps r b0 → Keeps r (f b0)) : Keeps r (s.busWrite o v master f) := by
  unfold State.busWrite
  refine Keeps.ite ?_ ?_
  · exact h
  · refine Keeps.ite ?_ ?_
    · apply State.holdAccess_keeps
      exact h
    · apply hf
      exact h

theorem State.busRead_keeps {r s : State} (h : Keeps r s) (o : Nat) (master : Nat) (f : State → State) (hf : ∀ b0, Keeps r b0 → Keeps r (f b0)) : Keeps r (s.busRead o master f) := by
  unfold State.busRead
  refine Keeps.ite ?_ ?_
  · exact h.upd rfl rfl rfl rfl rfl rfl rfl rfl
  · refine Keeps.ite ?_ ?_
    · apply State.holdAccess_keeps
      exact h
    · apply hf
      exact h

theorem State.plainWrite_keeps {r s : State} (h : Keeps r s) (o : Nat) (v : Word) : Keeps r (s.plainWrite o v) := by
  unfold State.plainWrite
  split
  · exact h
  · refine Keeps.ite ?_ ?_
    · exact h
    · split
      · refine Keeps.ite ?_ ?_
        · exact h.upd rfl rfl rfl rfl rfl rfl rfl rfl
        · refine Keeps.ite ?_ ?_
          · apply State.writeReg_keeps
            apply State.takeHeld_keeps
            exact h
          · apply State.writeReg_keeps
            exact h
      · apply State.setReg_keeps
        exact h
      · exact h

theorem State.cntClrAt_keeps {r s : State} (h : Keeps r s) (on : Bool) (lo : Nat) (n : Nat) : Keeps r (s.cntClrAt on lo n) := by
  unfold State.cntClrAt
  refine Keeps.ite ?_ ?_
  · apply State.clearCounters_keeps
    exact h
  · exact h

theorem hifCtrlWrite_keeps {r s : State} (h : Keeps r s) (v : Word) : Keeps r (hifCtrlWrite v s) := by
  unfold hifCtrlWrite
  apply State.plainWrite_keeps
  apply State.cntClrAt_keeps
  apply State.cntClrAt_keeps
  exact h

theorem capCtrlWrite_keeps {r s : State} (h : Keeps r s) (v : Word) : Keeps r (capCtrlWrite v s) := by
  unfold capCtrlWrite
  apply State.plainWrite_keeps
  apply State.cntClrAt_keeps
  exact h

theorem capChCtrlWrite_keeps {r s : State} (h : Keeps r s) (c : Nat) (v : Word) : Keeps r (capChCtrlWrite c v s) := by
  unfold capChCtrlWrite
  extract_lets x1 x2
  have hx1 : Keeps r x1 := by
    unfold x1
    refine Keeps.ite ?_ ?_
    · apply capChArmRow_keeps
      exact h
    · exact h
  clear_value x1
  have hx2 : Keeps r x2 := by
    unfold x2
    refine Keeps.ite ?_ ?_
    · apply capChAbortRow_keeps
      exact hx1
    · exact hx1
  clear_value x2
  refine Keeps.ite ?_ ?_
  · apply capChSwtrigRow_keeps
    exact hx2
  · exact hx2

theorem feCalWrite_keeps {r s : State} (h : Keeps r s) (o : Nat) (v : Word) : Keeps r (feCalWrite o v s) := by
  unfold feCalWrite
  refine Keeps.ite ?_ ?_
  · apply State.event_keeps
    exact h
  · apply State.plainWrite_keeps
    exact h

theorem rtcFlagsWrite_keeps {r s : State} (h : Keeps r s) (v : Word) : Keeps r (rtcFlagsWrite v s) := by
  unfold rtcFlagsWrite
  apply State.modBkp_keeps
  exact h

theorem rtcTrimWrite_keeps {r s : State} (h : Keeps r s) (v : Word) : Keeps r (rtcTrimWrite v s) := by
  unfold rtcTrimWrite
  apply State.modBkp_keeps
  exact h

theorem engRegAt_keeps {r s : State} (h : Keeps r s) (e : Nat) (a1 : Nat) (o : Nat) (v : Word) : Keeps r (engRegAt e a1 o v s) := by
  unfold engRegAt
  extract_lets x1 x2
  refine Keeps.ite ?_ ?_
  · apply engCntCtrlWrite_keeps
    exact h
  · refine Keeps.ite ?_ ?_
    · split
      · apply engCntSelWriteRow_keeps
        exact h
      · apply engCntPreloadRow_keeps
        exact h.upd rfl rfl rfl rfl rfl rfl rfl rfl
      · apply State.plainWrite_keeps
        exact h
    · apply State.plainWrite_keeps
      exact h

theorem engRegWrite_keeps {r s : State} (h : Keeps r s) (o : Nat) (v : Word) : Keeps r (engRegWrite o v s) := by
  unfold engRegWrite
  apply engRegAt_keeps
  exact h

theorem State.pastNote_keeps {r s : State} (h : Keeps r s) (o : Nat) : Keeps r (s.pastNote o) := by
  unfold State.pastNote
  extract_lets x1
  refine Keeps.ite ?_ ?_
  · exact h.upd rfl rfl rfl rfl rfl rfl rfl rfl
  · exact h

theorem tbRegWrite_keeps {r s : State} (h : Keeps r s) (o : Nat) (v : Word) : Keeps r (tbRegWrite o v s) := by
  unfold tbRegWrite
  refine Keeps.ite ?_ ?_
  · apply tbSetApplyRow_keeps
    exact h
  · refine Keeps.ite ?_ ?_
    · apply tbLeapLoadRow_keeps
      exact h
    · refine Keeps.ite ?_ ?_
      · apply tbSrcCfgWriteRow_keeps
        exact h
      · refine Keeps.ite ?_ ?_
        · apply State.holdCheck_keeps
          apply State.plainWrite_keeps
          exact h
        · apply State.plainWrite_keeps
          apply State.pastNote_keeps
          exact h

theorem hifRegWrite_keeps {r s : State} (h : Keeps r s) (o : Nat) (v : Word) : Keeps r (hifRegWrite o v s) := by
  unfold hifRegWrite
  refine Keeps.ite ?_ ?_
  · apply hifCtrlWrite_keeps
    exact h
  · refine Keeps.ite ?_ ?_
    · apply ringCtrlWrite_keeps
      exact h
    · apply State.plainWrite_keeps
      exact h

theorem alnRegWrite_keeps {r s : State} (h : Keeps r s) (o : Nat) (v : Word) : Keeps r (alnRegWrite o v s) := by
  unfold alnRegWrite
  refine Keeps.ite ?_ ?_
  · apply alnEnWriteRow_keeps
    exact h
  · refine Keeps.ite ?_ ?_
    · apply alnRingBaseLoWrite_keeps
      exact h
    · refine Keeps.ite ?_ ?_
      · apply alnRingBaseWriteRow_keeps
        exact h
      · refine Keeps.ite ?_ ?_
        · apply alnProbeRow_keeps
          exact h
        · apply State.plainWrite_keeps
          exact h

theorem almRegWrite_keeps {r s : State} (h : Keeps r s) (o : Nat) (v : Word) : Keeps r (almRegWrite o v s) := by
  unfold almRegWrite
  refine Keeps.ite ?_ ?_
  · apply almCtrlWrite_keeps
    exact h
  · refine Keeps.ite ?_ ?_
    · apply almKeepaliveWrite_keeps
      exact h
    · refine Keeps.ite ?_ ?_
      · apply almPinForceWrite_keeps
        exact h
      · refine Keeps.ite ?_ ?_
        · apply almAckGoRow_keeps
          exact h
        · refine Keeps.ite ?_ ?_
          · apply almHostGoRow_keeps
            exact h
          · apply State.plainWrite_keeps
            exact h

theorem feRegWrite_keeps {r s : State} (h : Keeps r s) (o : Nat) (v : Word) : Keeps r (feRegWrite o v s) := by
  unfold feRegWrite
  refine Keeps.ite ?_ ?_
  · apply feCtrlWrite_keeps
    exact h
  · refine Keeps.ite ?_ ?_
    · apply feCalSwapGoRow_keeps
      exact h
    · refine Keeps.ite ?_ ?_
      · apply feCalWrite_keeps
        exact h
      · apply State.plainWrite_keeps
        exact h

theorem capRegWrite_keeps {r s : State} (h : Keeps r s) (o : Nat) (v : Word) : Keeps r (capRegWrite o v s) := by
  unfold capRegWrite
  refine Keeps.ite ?_ ?_
  · apply capCtrlWrite_keeps
    exact h
  · refine Keeps.ite ?_ ?_
    · apply capTrgOutGo_keeps
      exact h
    · refine Keeps.ite ?_ ?_
      · apply capWinWrite_keeps
        exact h
      · refine Keeps.ite ?_ ?_
        · apply capChCtrlWrite_keeps
          exact h
        · apply State.plainWrite_keeps
          exact h

theorem pltRegWrite_keeps {r s : State} (h : Keeps r s) (o : Nat) (v : Word) : Keeps r (pltRegWrite o v s) := by
  unfold pltRegWrite
  refine Keeps.ite ?_ ?_
  · apply State.cntClrAt_keeps
    exact h
  · refine Keeps.ite ?_ ?_
    · apply rotCtrlWrite_keeps
      exact h
    · refine Keeps.ite ?_ ?_
      · apply cntCtrlWrite_keeps
        exact h
      · refine Keeps.ite ?_ ?_
        · apply taskProbeRow_keeps
          exact h
        · refine Keeps.ite ?_ ?_
          · apply rlCapWriteRow_keeps
            exact h
          · apply State.plainWrite_keeps
            exact h

theorem fltRegWrite_keeps {r s : State} (h : Keeps r s) (o : Nat) (v : Word) : Keeps r (fltRegWrite o v s) := by
  unfold fltRegWrite
  refine Keeps.ite ?_ ?_
  · apply fltCtrlWrite_keeps
    exact h
  · refine Keeps.ite ?_ ?_
    · apply fltFerReleaseRow_keeps
      exact h
    · refine Keeps.ite ?_ ?_
      · apply fltInjectGoRow_keeps
        exact h
      · refine Keeps.ite ?_ ?_
        · apply fltReleaseGoRow_keeps
          exact h
        · apply State.plainWrite_keeps
          exact h

theorem rtcRegWrite_keeps {r s : State} (h : Keeps r s) (o : Nat) (v : Word) : Keeps r (rtcRegWrite o v s) := by
  unfold rtcRegWrite
  refine Keeps.ite ?_ ?_
  · apply rtcCtrlWrite_keeps
    exact h
  · refine Keeps.ite ?_ ?_
    · apply rtcFlagsWrite_keeps
      exact h
    · refine Keeps.ite ?_ ?_
      · apply rtcSetFracWrite_keeps
        exact h
      · refine Keeps.ite ?_ ?_
        · apply rtcSetSecWrite_keeps
          exact h
        · refine Keeps.ite ?_ ?_
          · apply State.modBkp_keeps
            exact h
          · refine Keeps.ite ?_ ?_
            · apply rtcTrimWrite_keeps
              exact h
            · refine Keeps.ite ?_ ?_
              · apply State.modBkp_keeps
                exact h
              · refine Keeps.ite ?_ ?_
                · apply rtcRstWrite_keeps
                  exact h
                · apply State.plainWrite_keeps
                  exact h

theorem macRegWrite_keeps {r s : State} (h : Keeps r s) (o : Nat) (v : Word) : Keeps r (macRegWrite o v s) := by
  unfold macRegWrite
  extract_lets x1
  refine Keeps.ite ?_ ?_
  · apply macCtrlWrite_keeps
    exact h
  · refine Keeps.ite ?_ ?_
    · apply State.txStart_keeps
      apply State.plainWrite_keeps
      exact h
    · apply State.plainWrite_keeps
      apply State.pastNote_keeps
      refine Keeps.ite ?_ ?_
      · apply State.pastNote_keeps
        exact h
      · exact h

theorem State.regAct_keeps {r s : State} (h : Keeps r s) (o : Nat) (v : Word) : Keeps r (s.regAct o v) := by
  unfold State.regAct
  split
  · apply hifRegWrite_keeps
    exact h
  · refine Keeps.ite ?_ ?_
    · apply cfgSwinWrite_keeps
      exact h
    · apply State.plainWrite_keeps
      exact h
  · refine Keeps.ite ?_ ?_
    · apply pwrLtrWrite_keeps
      exact h
    · apply State.plainWrite_keeps
      exact h
  · apply tbRegWrite_keeps
    exact h
  · apply macRegWrite_keeps
    exact h
  · refine Keeps.ite ?_ ?_
    · apply binCtrlWrite_keeps
      exact h
    · refine Keeps.ite ?_ ?_
      · apply dirCtrlWrite_keeps
        exact h
      · refine Keeps.ite ?_ ?_
        · apply binWinWrite_keeps
          exact h
        · apply State.plainWrite_keeps
          exact h
  · apply alnRegWrite_keeps
    exact h
  · refine Keeps.ite ?_ ?_
    · apply oscEnWriteRow_keeps
      exact h
    · apply State.plainWrite_keeps
      exact h
  · refine Keeps.ite ?_ ?_
    · apply islEnWriteRow_keeps
      exact h
    · refine Keeps.ite ?_ ?_
      · apply islNodeProbeRow_keeps
        exact h
      · refine Keeps.ite ?_ ?_
        · apply islBranchProbeRow_keeps
          exact h
        · apply State.plainWrite_keeps
          exact h
  · apply almRegWrite_keeps
    exact h
  · refine Keeps.ite ?_ ?_
    · apply outCtrlWrite_keeps
      exact h
    · apply State.plainWrite_keeps
      exact h
  · apply feRegWrite_keeps
    exact h
  · refine Keeps.ite ?_ ?_
    · apply mtrCtrlWrite_keeps
      exact h
    · apply State.plainWrite_keeps
      exact h
  · apply capRegWrite_keeps
    exact h
  · refine Keeps.ite ?_ ?_
    · apply State.cntClrAt_keeps
      exact h
    · refine Keeps.ite ?_ ?_
      · apply logRingBaseWriteRow_keeps
        exact h
      · apply State.plainWrite_keeps
        exact h
  · apply pltRegWrite_keeps
    exact h
  · apply engRegWrite_keeps
    exact h
  · refine Keeps.ite ?_ ?_
    · apply twnCtrlWrite_keeps
      exact h
    · refine Keeps.ite ?_ ?_
      · apply twnEnWriteRow_keeps
        exact h
      · refine Keeps.ite ?_ ?_
        · apply State.dtDiffNote_keeps
          apply State.plainWrite_keeps
          exact h
        · apply State.plainWrite_keeps
          exact h
  · apply fltRegWrite_keeps
    exact h
  · refine Keeps.ite ?_ ?_
    · apply bstCtrlWrite_keeps
      exact h
    · apply State.plainWrite_keeps
      exact h
  · refine Keeps.ite ?_ ?_
    · apply State.cntClrAt_keeps
      exact h
    · apply State.plainWrite_keeps
      exact h
  · apply rtcRegWrite_keeps
    exact h
  · refine Keeps.ite ?_ ?_
    · apply dbgCtrlWrite_keeps
      exact h
    · apply State.plainWrite_keeps
      exact h
  · exact h

theorem State.bar0Write_keeps {r s : State} (h : Keeps r s) (o : Nat) (v : Word) (master : Nat) : Keeps r (s.bar0Write o v master) := by
  unfold State.bar0Write
  refine Keeps.ite ?_ ?_
  · exact h
  · refine Keeps.ite ?_ ?_
    · exact h
    · refine Keeps.ite ?_ ?_
      · refine Keeps.ite ?_ ?_
        · exact h
        · apply State.accErr_keeps
          exact h
      · apply State.busWrite_keeps
        · exact h
        · intro y11 y12
          apply State.regAct_keeps
          exact y12

theorem State.latchFrom_keeps {r s : State} (h : Keeps r s) (o : Nat) (n : Nat) : Keeps r (s.latchFrom o n) := by
  unfold State.latchFrom
  exact h.upd rfl rfl rfl rfl rfl rfl rfl rfl

theorem State.winStep_keeps {r s : State} (h : Keeps r s) (o : Nat) : Keeps r (s.winStep o) := by
  unfold State.winStep
  split
  · apply State.cfgSwinStep_keeps
    exact h
  · apply State.binWinStep_keeps
    exact h
  · apply State.alnWinStep_keeps
    exact h
  · apply State.oscWinStep_keeps
    exact h
  · apply State.islWinStep_keeps
    exact h
  · apply State.almWinStep_keeps
    exact h
  · apply State.outWinStep_keeps
    exact h
  · apply State.feWinStep_keeps
    exact h
  · apply State.mtrWinStep_keeps
    exact h
  · apply State.capWinStep_keeps
    exact h
  · apply State.logWinStep_keeps
    exact h
  · apply State.fltWinStep_keeps
    exact h
  · exact h

theorem eccAddrHiRead_keeps {r s : State} (h : Keeps r s) : Keeps r (eccAddrHiRead s) := by
  unfold eccAddrHiRead
  extract_lets x1
  have hx1 : Keeps r x1 := by
    unfold x1
    apply State.setFld_keeps
    exact h
  clear_value x1
  exact hx1.upd rfl rfl rfl rfl rfl rfl rfl rfl

theorem State.readCatch_keeps {r s : State} (h : Keeps r s) (o : Nat) : Keeps r (s.readCatch o) := by
  unfold State.readCatch
  refine Keeps.ite ?_ ?_
  · apply State.engCatchUp_keeps
    exact h
  · exact h

theorem mtrPeakRead_keeps {r s : State} (h : Keeps r s) (o : Nat) : Keeps r (mtrPeakRead o s) := by
  unfold mtrPeakRead
  extract_lets x1
  have hx1 : Keeps r x1 := by
    unfold x1
    apply State.setReg_keeps
    exact h
  clear_value x1
  split
  · exact hx1.upd rfl rfl rfl rfl rfl rfl rfl rfl
  · exact hx1.upd rfl rfl rfl rfl rfl rfl rfl rfl

theorem State.readAct_keeps {r s : State} (h : Keeps r s) (o : Nat) : Keeps r (s.readAct o) := by
  unfold State.readAct
  extract_lets x1 x2 x3 x4 x5 x6
  have hx1 : Keeps r x1 := by
    unfold x1
    apply State.setReg_keeps
    exact h
  clear_value x1
  have hx2 : Keeps r x2 := by
    unfold x2
    apply State.winStep_keeps
    exact h
  clear_value x2
  have hx3 : Keeps r x3 := by
    unfold x3
    apply State.readCatch_keeps
    exact h
  clear_value x3
  have hx4 : Keeps r x4 := by
    unfold x4
    apply State.latchFrom_keeps
    exact hx3
  clear_value x4
  have hx5 : Keeps r x5 := by
    unfold x5
    apply State.latchFrom_keeps
    exact h
  clear_value x5
  have hx6 : Keeps r x6 := by
    unfold x6
    apply State.latchFrom_keeps
    exact h
  clear_value x6
  split
  · exact h.upd rfl rfl rfl rfl rfl rfl rfl rfl
  · refine Keeps.ite ?_ ?_
    · apply logNonceReadRow_keeps
      exact h
    · refine Keeps.ite ?_ ?_
      · apply keyNonceRead_keeps
        exact h
      · refine Keeps.ite ?_ ?_
        · apply rtcGroupRead_keeps
          exact h
        · refine Keeps.ite ?_ ?_
          · apply cfgchgFifoReadRow_keeps
            exact h
          · refine Keeps.ite ?_ ?_
            · apply unkKeyReadRow_keeps
              exact h
            · refine Keeps.ite ?_ ?_
              · apply eccAddrHiRead_keeps
                exact h
              · refine Keeps.ite ?_ ?_
                · refine Keeps.ite ?_ ?_
                  · apply mtrPeakRead_keeps
                    exact h
                  · refine Keeps.ite ?_ ?_
                    · apply mtrPointLatch_keeps
                      exact h
                    · exact h.upd rfl rfl rfl rfl rfl rfl rfl rfl
                · split
                  · exact hx1.upd rfl rfl rfl rfl rfl rfl rfl rfl
                  · exact hx2.upd rfl rfl rfl rfl rfl rfl rfl rfl
                  · refine Keeps.ite ?_ ?_
                    · exact hx4.upd rfl rfl rfl rfl rfl rfl rfl rfl
                    · exact hx3.upd rfl rfl rfl rfl rfl rfl rfl rfl
                  · exact h.upd rfl rfl rfl rfl rfl rfl rfl rfl
                  · exact hx5.upd rfl rfl rfl rfl rfl rfl rfl rfl
                  · exact hx6.upd rfl rfl rfl rfl rfl rfl rfl rfl
                  · exact h.upd rfl rfl rfl rfl rfl rfl rfl rfl
                  · exact h.upd rfl rfl rfl rfl rfl rfl rfl rfl

theorem State.bar0Read_keeps {r s : State} (h : Keeps r s) (o : Nat) (master : Nat) : Keeps r (s.bar0Read o master) := by
  unfold State.bar0Read
  extract_lets x1
  have hx1 : Keeps r x1 := by
    unfold x1
    apply State.accErr_keeps
    exact h
  clear_value x1
  refine Keeps.ite ?_ ?_
  · exact h.upd rfl rfl rfl rfl rfl rfl rfl rfl
  · refine Keeps.ite ?_ ?_
    · exact h.upd rfl rfl rfl rfl rfl rfl rfl rfl
    · refine Keeps.ite ?_ ?_
      · refine Keeps.ite ?_ ?_
        · exact h.upd rfl rfl rfl rfl rfl rfl rfl rfl
        · exact hx1.upd rfl rfl rfl rfl rfl rfl rfl rfl
      · apply State.busRead_keeps
        · exact h
        · intro y14 y15
          apply State.readAct_keeps
          exact y15

theorem State.doorbellTake_keeps {r s : State} (h : Keeps r s) (n : Nat) (cq : Bool) (v : Word) : Keeps r (s.doorbellTake n cq v) := by
  unfold State.doorbellTake
  refine Keeps.ite ?_ ?_
  · apply cqHeadDoorbell_keeps
    exact h
  · apply sqTailDoorbell_keeps
    exact h

theorem State.doorbell_keeps {r s : State} (h : Keeps r s) (n : Nat) (cq : Bool) (v : Word) : Keeps r (s.doorbell n cq v) := by
  unfold State.doorbell
  refine Keeps.ite ?_ ?_
  · apply State.doorbellTake_keeps
    exact h
  · apply State.holdAccess_keeps
    exact h

theorem State.bar2Write_keeps {r s : State} (h : Keeps r s) (o : Nat) (v : Word) : Keeps r (s.bar2Write o v) := by
  unfold State.bar2Write
  refine Keeps.ite ?_ ?_
  · apply State.doorbell_keeps
    exact h
  · apply State.accErr_keeps
    exact h

theorem State.counterPageRead_keeps {r s : State} (h : Keeps r s) (e : Nat) (a2 : Nat) (key : Nat) : Keeps r (s.counterPageRead e a2 key) := by
  unfold State.counterPageRead
  refine Keeps.ite ?_ ?_
  · exact h.upd rfl rfl rfl rfl rfl rfl rfl rfl
  · refine Keeps.ite ?_ ?_
    · exact h.upd rfl rfl rfl rfl rfl rfl rfl rfl
    · exact h.upd rfl rfl rfl rfl rfl rfl rfl rfl

theorem State.bar2Read_keeps {r s : State} (h : Keeps r s) (o : Nat) : Keeps r (s.bar2Read o) := by
  unfold State.bar2Read
  extract_lets x1
  have hx1 : Keeps r x1 := by
    unfold x1
    apply State.accErr_keeps
    exact h
  clear_value x1
  refine Keeps.ite ?_ ?_
  · exact h.upd rfl rfl rfl rfl rfl rfl rfl rfl
  · refine Keeps.ite ?_ ?_
    · apply State.counterPageRead_keeps
      refine Keeps.ite ?_ ?_
      · apply State.engCatchUp_keeps
        exact h
      · exact h
    · exact hx1.upd rfl rfl rfl rfl rfl rfl rfl rfl

theorem registerWriteRow_keeps {r s : State} (h : Keeps r s) (o : Nat) (v : Word) : Keeps r (registerWriteRow o v s) := by
  unfold registerWriteRow
  refine Keeps.ite ?_ ?_
  · apply State.bar0Write_keeps
    exact h
  · exact h

theorem State.bar0Write64_keeps {r s : State} (h : Keeps r s) (o : Nat) (v : Nat) : Keeps r (s.bar0Write64 o v) := by
  unfold State.bar0Write64
  apply State.bar0Write_keeps
  apply State.bar0Write_keeps
  exact h

theorem State.bar0Read64_keeps {r s : State} (h : Keeps r s) (o : Nat) : Keeps r (s.bar0Read64 o) := by
  unfold State.bar0Read64
  apply State.bar0Read_keeps
  apply State.bar0Read_keeps
  exact h

theorem missizedRow_keeps {r s : State} (h : Keeps r s) (bar2 : Bool) (o : Nat) (size : Nat) (write : Bool) : Keeps r (missizedRow bar2 o size write s) := by
  unfold missizedRow
  extract_lets x1
  have hx1 : Keeps r x1 := by
    unfold x1
    refine Keeps.ite ?_ ?_
    · exact h
    · exact h.upd rfl rfl rfl rfl rfl rfl rfl rfl
  clear_value x1
  refine Keeps.ite ?_ ?_
  · split
    · apply State.bar0Write_keeps
      apply State.freshNext_keeps
      exact h
    · apply State.bar0Read_keeps
      exact h
    · apply State.bar2Write_keeps
      apply State.freshNext_keeps
      exact h
    · apply State.bar2Read_keeps
      exact h
  · refine Keeps.ite ?_ ?_
    · refine Keeps.ite ?_ ?_
      · apply State.bar0Write64_keeps
        apply State.freshNext_keeps
        exact h
      · apply State.bar0Read64_keeps
        exact h
    · refine Keeps.ite ?_ ?_
      · exact hx1
      · apply State.accErr_keeps
        exact hx1

theorem unmappedRow_keeps {r s : State} (h : Keeps r s) (o : Nat) (write : Option Word) : Keeps r (unmappedRow o write s) := by
  unfold unmappedRow
  refine Keeps.ite ?_ ?_
  · exact h
  · split
    · apply State.bar0Write_keeps
      exact h
    · apply State.bar0Read_keeps
      exact h

theorem pairLoReadRow_keeps {r s : State} (h : Keeps r s) (o : Nat) : Keeps r (pairLoReadRow o s) := by
  unfold pairLoReadRow
  refine Keeps.ite ?_ ?_
  · apply State.bar0Read_keeps
    exact h
  · exact h

theorem pairHiWriteRow_keeps {r s : State} (h : Keeps r s) (o : Nat) (v : Word) : Keeps r (pairHiWriteRow o v s) := by
  unfold pairHiWriteRow
  refine Keeps.ite ?_ ?_
  · apply State.bar0Write_keeps
    exact h
  · exact h

theorem rcReadRow_keeps {r s : State} (h : Keeps r s) (o : Nat) : Keeps r (rcReadRow o s) := by
  unfold rcReadRow
  refine Keeps.ite ?_ ?_
  · apply State.bar0Read_keeps
    exact h
  · exact h

theorem timestampReadRow_keeps {r s : State} (h : Keeps r s) (o : Nat) : Keeps r (timestampReadRow o s) := by
  unfold timestampReadRow
  refine Keeps.ite ?_ ?_
  · apply State.bar0Read_keeps
    exact h
  · exact h

theorem windowDataRow_keeps {r s : State} (h : Keeps r s) (o : Nat) (write : Option Word) : Keeps r (windowDataRow o write s) := by
  unfold windowDataRow
  refine Keeps.ite ?_ ?_
  · split
    · apply State.bar0Write_keeps
      exact h
    · apply State.bar0Read_keeps
      exact h
  · exact h

theorem counterClearRow_keeps {r s : State} (h : Keeps r s) (o : Nat) (v : Word) : Keeps r (counterClearRow o v s) := by
  unfold counterClearRow
  split
  · refine Keeps.ite ?_ ?_
    · apply State.bar0Write_keeps
      exact h
    · exact h
  · exact h

theorem eccAddrReadRow_keeps {r s : State} (h : Keeps r s) : Keeps r (eccAddrReadRow s) := by
  unfold eccAddrReadRow
  apply State.bar0Read_keeps
  exact h

theorem State.memapShow_keeps {r s : State} (h : Keeps r s) (err : Bool) (data : Word) : Keeps r (s.memapShow err data) := by
  unfold State.memapShow
  extract_lets x1
  apply State.emit_keeps
  apply State.modDbg_keeps
  exact h

theorem State.memapAccess_keeps {r s : State} (h : Keeps r s) (o : Nat) (write : Option Word) : Keeps r (s.memapAccess o write) := by
  unfold State.memapAccess
  extract_lets x1 x2 x3
  have hx1 : Keeps r x1 := by
    unfold x1
    apply State.count_keeps
    apply State.tapLoad_keeps
    exact h
  clear_value x1
  have hx3 : Keeps r x3 := by
    unfold x3
    split
    · apply State.bar0Write_keeps
      exact hx1
    · apply State.bar0Read_keeps
      exact hx1
  clear_value x3
  refine Keeps.ite ?_ ?_
  · apply State.memapShow_keeps
    refine Keeps.ite ?_ ?_
    · exact hx1
    · apply State.accErr_keeps
      exact hx1
  · refine Keeps.ite ?_ ?_
    · apply State.modDbg_keeps
      exact hx3
    · apply State.memapShow_keeps
      exact hx3

theorem State.memap_keeps {r s : State} (h : Keeps r s) (dr : Nat) : Keeps r (s.memap dr) := by
  unfold State.memap
  refine Keeps.ite ?_ ?_
  · apply State.tapBypass_keeps
    exact h
  · split
    · apply State.memapAccess_keeps
      exact h
    · apply State.memapAccess_keeps
      exact h
    · apply State.tapLoad_keeps
      exact h

theorem memapReadRow_keeps {r s : State} (h : Keeps r s) (o : Nat) : Keeps r (memapReadRow o s) := by
  unfold memapReadRow
  apply State.memap_keeps
  exact h

theorem memapWriteRow_keeps {r s : State} (h : Keeps r s) (o : Nat) (v : Word) : Keeps r (memapWriteRow o v s) := by
  unfold memapWriteRow
  apply State.memap_keeps
  exact h

theorem State.performHeld_keeps {r s : State} (h : Keeps r s) (a1 : HeldAccess) : Keeps r (s.performHeld a1) := by
  unfold State.performHeld
  extract_lets x1
  have hx1 : Keeps r x1 := by
    unfold x1
    split
    · apply State.doorbellTake_keeps
      exact h
    · apply State.bar0Write_keeps
      exact h
    · apply State.bar0Read_keeps
      exact h
  clear_value x1
  refine Keeps.ite ?_ ?_
  · apply State.memapShow_keeps
    exact hx1
  · exact hx1

theorem powerStateExitDoneRow_keeps {r s : State} (h : Keeps r s) : Keeps r (powerStateExitDoneRow s) := by
  unfold powerStateExitDoneRow
  extract_lets x1 x2
  have hx1 : Keeps r x1 := by
    unfold x1
    apply State.pwrEnter_keeps
    exact h
  clear_value x1
  refine Keeps.ite ?_ ?_
  · refine Keeps.foldl ?_ _ ?_
    · intro y7 y8 y9
      apply State.performHeld_keeps
      exact y9
    · exact hx1.upd rfl rfl rfl rfl rfl rfl rfl rfl
  · exact h

/-! ### Commit.lean -/

theorem State.commitRecord_keeps {r s : State} (h : Keeps r s) (ev : Nat) (skipped : Nat) (status : Nat) : Keeps r (s.commitRecord ev skipped status) := by
  unfold State.commitRecord
  apply State.logRaise_keeps
  exact h

theorem State.commitRefuse_keeps {r s : State} (h : Keeps r s) (c : Commit) (f : CfgFault) : Keeps r (s.commitRefuse c f) := by
  unfold State.commitRefuse
  extract_lets x1 x2 x3 x4
  have hx1 : Keeps r x1 := by
    unfold x1
    apply State.dropCommit_keeps
    exact h
  clear_value x1
  have hx2 : Keeps r x2 := by
    unfold x2
    apply State.event_keeps
    apply State.setReg_keeps
    apply State.setReg_keeps
    exact hx1
  clear_value x2
  have hx3 : Keeps r x3 := by
    unfold x3
    apply State.commitRecord_keeps
    exact hx2
  clear_value x3
  split
  · exact hx3.upd rfl rfl rfl rfl rfl rfl rfl rfl
  · apply State.finish_keeps
    exact hx3

theorem State.commitDirReport_keeps {r s : State} (h : Keeps r s) (c : Commit) : Keeps r (s.commitDirReport c) := by
  unfold State.commitDirReport
  split
  · apply State.dirRefuse_keeps
    exact h
  · exact h

theorem commitValidationRow_keeps {r s : State} (h : Keeps r s) : Keeps r (commitValidationRow s) := by
  unfold commitValidationRow
  extract_lets x1 x2
  clear_value x1
  clear_value x2
  split
  · exact h
  · extract_lets x6 x7
    clear_value x6
    clear_value x7
    refine Keeps.ite ?_ ?_
    · exact h
    · split
      · apply State.commitRefuse_keeps
        apply State.commitDirReport_keeps
        exact h
      · split
        · apply State.commitRefuse_keeps
          exact h
        · extract_lets x18
          have hx18 : Keeps r x18 := by
            unfold x18
            exact h.upd rfl rfl rfl rfl rfl rfl rfl rfl
          clear_value x18
          refine Keeps.ite ?_ ?_
          · apply State.modBin_keeps
            apply State.dirFix_keeps
            exact hx18
          · exact hx18

theorem State.applySection_keeps {r s : State} (h : Keeps r s) (typ : Nat) : Keeps r (s.applySection typ) := by
  unfold State.applySection
  refine Keeps.ite ?_ ?_
  · exact h
  · refine Keeps.foldl ?_ _ ?_
    · intro y3 y4 y5
      extract_lets x7
      split
      · apply State.regAct_keeps
        exact y5
      · exact y5
    · exact h

theorem State.reinitUnits_keeps {r s : State} (h : Keeps r s) : Keeps r (s.reinitUnits) := by
  unfold State.reinitUnits
  refine Keeps.foldl ?_ _ ?_
  · intro y1 y2 y3
    apply State.applySection_keeps
    exact y3
  · apply State.modFlt_keeps
    exact h

theorem State.keepSets_keeps {r s : State} (h : Keeps r s) : Keeps r (s.keepSets) := by
  unfold State.keepSets
  extract_lets x1 x2
  exact h.upd rfl rfl rfl rfl rfl rfl rfl rfl

theorem State.commitRate_keeps {r s : State} (h : Keeps r s) (rate : Nat) : Keeps r (s.commitRate rate) := by
  unfold State.commitRate
  refine Keeps.ite ?_ ?_
  · exact h
  · apply State.modTb_keeps
    exact h

theorem State.staleNotes_keeps {r s : State} (h : Keeps r s) : Keeps r (s.staleNotes) := by
  unfold State.staleNotes
  apply State.islStaleNote_keeps
  apply State.oscStaleNote_keeps
  exact h

theorem State.lpeCommitted_keeps {r s : State} (h : Keeps r s) (old : CfgSet) (new : CfgSet) (eff : Nat) : Keeps r (s.lpeCommitted old new eff) := by
  unfold State.lpeCommitted
  extract_lets x1
  apply State.modFe_keeps
  exact h

theorem State.islCommitted_keeps {r s : State} (h : Keeps r s) (old : CfgSet) (new : CfgSet) (eff : Nat) : Keeps r (s.islCommitted old new eff) := by
  unfold State.islCommitted
  refine Keeps.ite ?_ ?_
  · exact h
  · apply State.modIsl_keeps
    exact h

theorem State.oscCommitted_keeps {r s : State} (h : Keeps r s) (old : CfgSet) (new : CfgSet) (eff : Nat) : Keeps r (s.oscCommitted old new eff) := by
  unfold State.oscCommitted
  apply State.modOsc_keeps
  exact h

theorem State.commitSwap_keeps {r s : State} (h : Keeps r s) (c : Commit) : Keeps r (s.commitSwap c) := by
  unfold State.commitSwap
  extract_lets x1 x2 x3 x4 x5 x6 x7 x8
  have hx1 : Keeps r x1 := by
    unfold x1
    apply State.lpeCommitted_keeps
    apply State.islCommitted_keeps
    apply State.oscCommitted_keeps
    apply State.keepSets_keeps
    exact h
  clear_value x1
  have hx3 : Keeps r x3 := by
    unfold x3
    apply State.event_keeps
    exact hx1.upd rfl rfl rfl rfl rfl rfl rfl rfl
  clear_value x3
  have hx4 : Keeps r x4 := by
    unfold x4
    apply State.commitRecord_keeps
    apply State.commitRate_keeps
    exact hx3
  clear_value x4
  have hx5 : Keeps r x5 := by
    unfold x5
    refine Keeps.foldl ?_ _ ?_
    · intro y9 y10 y11
      refine Keeps.ite ?_ ?_
      · exact y11
      · apply State.applySection_keeps
        exact y11
    · exact hx4
  clear_value x5
  have hx6 : Keeps r x6 := by
    unfold x6
    apply State.pinsDrive_keeps
    apply State.modAlm_keeps
    exact hx5
  clear_value x6
  have hx7 : Keeps r x7 := by
    unfold x7
    refine Keeps.ite ?_ ?_
    · exact hx6
    · apply State.staleNotes_keeps
      exact hx6
  clear_value x7
  have hx8 : Keeps r x8 := by
    unfold x8
    refine Keeps.ite ?_ ?_
    · apply State.twnBoot_keeps
      exact hx7
    · exact hx7
  clear_value x8
  apply State.finishOpt_keeps
  exact hx8

theorem State.commitAt_keeps {r s : State} (h : Keeps r s) (t : Nat) : Keeps r (s.commitAt t) := by
  unfold State.commitAt
  split
  · refine Keeps.ite ?_ ?_
    · apply State.commitSwap_keeps
      exact h
    · exact h
  · exact h

theorem State.dirAt_keeps {r s : State} (h : Keeps r s) (t : Nat) : Keeps r (s.dirAt t) := by
  unfold State.dirAt
  extract_lets x1
  have hx1 : Keeps r x1 := by
    unfold x1
    apply State.dirApplyAt_keeps
    exact h
  clear_value x1
  refine Keeps.ite ?_ ?_
  · exact hx1
  · apply State.staleNotes_keeps
    exact hx1

/-! ### Clock.lean -/

theorem State.gridPast_keeps {r s : State} (h : Keeps r s) (rate : Nat) (sec : Nat) (k : Nat) (t : Nat) (late : Bool) (w : BitVec 16) : Keeps r (s.gridPast rate sec k t late w) := by
  unfold State.gridPast
  extract_lets x1
  apply State.modTb_keeps
  exact h

theorem State.instantUnits_keeps {r s : State} (h : Keeps r s) : Keeps r (s.instantUnits) := by
  unfold State.instantUnits
  apply State.reinitUnits_keeps
  apply State.modPlt_keeps
  exact h

theorem State.instantStep_keeps {r s : State} (h : Keeps r s) (step : Bool) : Keeps r (s.instantStep step) := by
  unfold State.instantStep
  refine Keeps.ite ?_ ?_
  · apply State.dtStep_keeps
    exact h
  · apply State.applySet_keeps
    exact h

theorem State.deliverInstant_keeps {r s : State} (h : Keeps r s) (rate : Nat) (sec : Nat) (k : Nat) (t : Nat) (late : Bool) : Keeps r (s.deliverInstant rate sec k t late) := by
  unfold State.deliverInstant
  extract_lets x1
  have hx1 : Keeps r x1 := by
    unfold x1
    apply State.dirAt_keeps
    apply State.commitAt_keeps
    exact h
  clear_value x1
  split
  · rename_i z6 z7 z8 z9 z10
    have kz7 : Keeps r z7 := Keeps.ofFst z10 (by
      apply State.tbInstant_keeps
      exact hx1)
    extract_lets x14 x15
    have hx15 : Keeps r x15 := by
      unfold x15
      apply State.alnInstant_keeps
      apply State.gridPast_keeps
      exact kz7
    clear_value x15
    apply State.instantStep_keeps
    apply State.hoAtInstant_keeps
    apply State.sealStart_keeps
    apply State.instantUnits_keeps
    exact hx15

theorem reportingInstantRow_keeps {r s : State} (h : Keeps r s) : Keeps r (reportingInstantRow s) := by
  unfold reportingInstantRow
  extract_lets x1 x2
  refine Keeps.ite ?_ ?_
  · apply State.deliverInstant_keeps
    apply State.advance_keeps
    exact h
  · exact h

theorem State.leapPassed_keeps {r s : State} (h : Keeps r s) (from_ : Nat) (sec : Nat) : Keeps r (s.leapPassed from_ sec) := by
  unfold State.leapPassed
  refine Keeps.ite ?_ ?_
  · apply State.tbEvent_keeps
    exact h
  · exact h

theorem State.gridChange_keeps {r s : State} (h : Keeps r s) (sec : Nat) : Keeps r (s.gridChange sec) := by
  unfold State.gridChange
  split
  · apply State.alnNote_keeps
    apply State.modTb_keeps
    exact h
  · exact h

theorem State.secondAt_keeps {r s : State} (h : Keeps r s) (frac : Nat) (healed : List Nat) (sec : Nat) (t : Nat) : Keeps r (s.secondAt frac healed sec t) := by
  unfold State.secondAt
  extract_lets x1 x2 x3
  have hx1 : Keeps r x1 := by
    unfold x1
    apply State.gridChange_keeps
    apply State.dirAt_keeps
    apply State.commitAt_keeps
    apply State.advance_keeps
    exact h
  clear_value x1
  have hx2 : Keeps r x2 := by
    unfold x2
    apply State.tbSecond_keeps
    apply State.modTb_keeps
    apply State.leapPassed_keeps
    exact hx1
  clear_value x2
  have hx3 : Keeps r x3 := by
    unfold x3
    apply State.healPairs_keeps
    apply State.rtcSync_keeps
    exact hx2
  clear_value x3
  refine Keeps.ite ?_ ?_
  · apply State.applySet_keeps
    exact hx3
  · exact hx3

theorem wholeSecondRow_keeps {r s : State} (h : Keeps r s) (frac : Nat) (healed : List Nat) : Keeps r (wholeSecondRow frac healed s) := by
  unfold wholeSecondRow
  refine Keeps.ite ?_ ?_
  · exact h
  · apply State.secondAt_keeps
    exact h

/-! ### After.lean -/

theorem State.oscRebase_keeps {r s : State} (h : Keeps r s) (seq : Nat) (g : Nat) : Keeps r (s.oscRebase seq g) := by
  unfold State.oscRebase
  apply State.modOsc_keeps
  exact h

theorem State.islRebase_keeps {r s : State} (h : Keeps r s) (seq : Nat) : Keeps r (s.islRebase seq) := by
  unfold State.islRebase
  apply State.modIsl_keeps
  exact h

theorem State.oscReadFix_keeps {r s : State} (h : Keeps r s) (seq : Nat) (g : Nat) (typ : Nat) (qs : List Quay) : Keeps r (s.oscReadFix seq g typ qs) := by
  unfold State.oscReadFix
  apply State.modOsc_keeps
  exact h

theorem State.islReadFix_keeps {r s : State} (h : Keeps r s) (q : Quay) (typ : Nat) : Keeps r (s.islReadFix q typ) := by
  unfold State.islReadFix
  apply State.modIsl_keeps
  exact h

theorem State.taskStarts_keeps {r s : State} (h : Keeps r s) (t : Task) : Keeps r (s.taskStarts t) := by
  unfold State.taskStarts
  split
  · apply State.takeSnapshot_keeps
    exact h
  · apply State.oscReadFix_keeps
    apply State.oscRebase_keeps
    exact h
  · apply State.oscReadFix_keeps
    exact h
  · apply State.islReadFix_keeps
    apply State.islSnapshot_keeps
    exact h
  · apply State.islReadFix_keeps
    apply State.islRebase_keeps
    exact h
  · apply State.islReadFix_keeps
    exact h
  · exact h

theorem State.startSnapshots_keeps {r s : State} (h : Keeps r s) (s0 : State) : Keeps r (s0.startSnapshots s) := by
  unfold State.startSnapshots
  extract_lets x1
  refine Keeps.foldl ?_ _ ?_
  · intro y2 y3 y4
    apply State.taskStarts_keeps
    exact y4
  · exact h

theorem State.snapAfter_keeps {r s : State} (h : Keeps r s) (qs : List Quay) : Keeps r (s.snapAfter qs) := by
  unfold State.snapAfter
  refine Keeps.ite ?_ ?_
  · refine Keeps.foldl ?_ _ ?_
    · intro y2 y3 y4
      apply State.capSnap_keeps
      exact y4
    · exact h
  · exact h

theorem State.spillSync_keeps {r s : State} (h : Keeps r s) (s0 : State) : Keeps r (s0.spillSync s) := by
  unfold State.spillSync
  refine Keeps.foldl ?_ _ ?_
  · intro y1 y2 y3
    apply State.quayStore_keeps
    exact y3
  · exact h

theorem State.msixSignal_keeps {r s : State} (h : Keeps r s) (v : Nat) : Keeps r (s.msixSignal v) := by
  unfold State.msixSignal
  extract_lets x1 x2
  have hx2 : Keeps r x2 := by
    unfold x2
    apply State.emit_keeps
    exact h
  clear_value x2
  refine Keeps.ite ?_ ?_
  · exact h.upd rfl rfl rfl rfl rfl rfl rfl rfl
  · exact hx2.upd rfl rfl rfl rfl rfl rfl rfl rfl

theorem State.msixAfter_keeps {r s : State} (h : Keeps r s) (s0 : State) : Keeps r (s0.msixAfter s) := by
  unfold State.msixAfter
  extract_lets x1 x2 x3 x4
  have hx2 : Keeps r x2 := by
    unfold x2
    refine Keeps.foldl ?_ _ ?_
    · intro y6 y7 y8
      apply State.msixSignal_keeps
      exact y8
    · exact h
  have hx4 : Keeps r x4 := by
    unfold x4
    exact hx2.upd rfl rfl rfl rfl rfl rfl rfl rfl
  refine Keeps.ite ?_ ?_
  · exact hx4
  · refine Keeps.foldl ?_ _ ?_
    · intro y16 y17 y18
      apply State.msixSignal_keeps
      exact y18
    · exact hx4

theorem State.sealsAfter_keeps {r s : State} (h : Keeps r s) : Keeps r (s.sealsAfter) := by
  unfold State.sealsAfter
  apply State.copiesStart_keeps
  refine Keeps.ite ?_ ?_
  · apply State.sealStart_keeps
    exact h
  · exact h

theorem State.rotAfter_keeps {r s : State} (h : Keeps r s) (s0 : State) : Keeps r (s0.rotAfter s) := by
  unfold State.rotAfter
  split
  · refine Keeps.ite ?_ ?_
    · apply State.rotBegin_keeps
      exact h
    · exact h
  · exact h

theorem State.unitsAfter_keeps {r s : State} (h : Keeps r s) (s0 : State) : Keeps r (s0.unitsAfter s) := by
  unfold State.unitsAfter
  extract_lets x1 x2
  have hx1 : Keeps r x1 := by
    unfold x1
    apply State.sealsAfter_keeps
    apply State.detSettleAll_keeps
    apply State.alnNote_keeps
    apply State.startSnapshots_keeps
    apply State.rotAfter_keeps
    exact h
  clear_value x1
  have hx2 : Keeps r x2 := by
    unfold x2
    apply State.snapAfter_keeps
    apply State.composeAfter_keeps
    exact hx1
  clear_value x2
  apply State.spillSync_keeps
  apply State.mtrRefuseEnd_keeps
  apply State.shutdownGo_keeps
  apply State.afterHandover_keeps
  exact hx2

theorem State.after_keeps {r s : State} (h : Keeps r s) (s0 : State) : Keeps r (s0.after s) := by
  unfold State.after
  apply State.msixAfter_keeps
  apply State.pwrAfter_keeps
  apply State.unitsAfter_keeps
  exact h

end Sys2Proof.Machine
end

