-- ==== Sys2Proof/Laws/KeepsCmd.lean ====
section
/-! SUPPORT. Keeps is kept by the meanings of the commands: each answers a next state, which Keeps relates to the state before. -/

namespace Sys2Proof.Machine

/-! ### CmdBus.lean -/

theorem execCoreReset_keeps {r s : State} (h : Keeps r s) (cause : Nat) (env : BootEnv) :
    ∃ t, execCoreReset cause env s = .next t ∧ Keeps r t := by
  refine ⟨_, rfl, ?_⟩
  apply State.after_keeps
  apply coreResetRow_keeps
  exact h

theorem execPerstNAssert_keeps {r s : State} (h : Keeps r s) (env : BootEnv) :
    ∃ t, execPerstNAssert env s = .next t ∧ Keeps r t := by
  refine ⟨_, rfl, ?_⟩
  apply State.after_keeps
  apply perstRow_keeps
  exact h

theorem execHifReset_keeps {r s : State} (h : Keeps r s) (kind : Nat) :
    ∃ t, execHifReset kind s = .next t ∧ Keeps r t := by
  refine ⟨_, rfl, ?_⟩
  apply State.after_keeps
  apply hifReset_keeps
  exact h

theorem execBusMasterEnableChange_keeps {r s : State} (h : Keeps r s) (on : Bool) :
    ∃ t, execBusMasterEnableChange on s = .next t ∧ Keeps r t := by
  refine ⟨_, rfl, ?_⟩
  apply State.after_keeps
  apply bmeChange_keeps
  exact h

theorem execPcieD3hotEnter_keeps {r s : State} (h : Keeps r s) :
    ∃ t, execPcieD3hotEnter s = .next t ∧ Keeps r t := by
  refine ⟨_, rfl, ?_⟩
  apply State.after_keeps
  apply d3hotEnter_keeps
  exact h

theorem execPcieD0Return_keeps {r s : State} (h : Keeps r s) :
    ∃ t, execPcieD0Return s = .next t ∧ Keeps r t := by
  refine ⟨_, rfl, ?_⟩
  apply State.after_keeps
  apply d0Return_keeps
  exact h

theorem execRegisterWrite_keeps {r s : State} (h : Keeps r s) (addr : Nat) (v : Word) :
    ∃ t, execRegisterWrite addr v s = .next t ∧ Keeps r t := by
  refine ⟨_, rfl, ?_⟩
  apply State.after_keeps
  apply registerWriteRow_keeps
  exact h

theorem execMissizedAccess_keeps {r s : State} (h : Keeps r s) (bar2 : Bool) (addr : Nat) (size : Nat) (write : Bool) :
    ∃ t, execMissizedAccess bar2 addr size write s = .next t ∧ Keeps r t := by
  refine ⟨_, rfl, ?_⟩
  apply State.after_keeps
  apply missizedRow_keeps
  exact h

theorem execUnmappedAccess_keeps {r s : State} (h : Keeps r s) (addr : Nat) (write : Option Word) :
    ∃ t, execUnmappedAccess addr write s = .next t ∧ Keeps r t := by
  refine ⟨_, rfl, ?_⟩
  apply State.after_keeps
  apply unmappedRow_keeps
  exact h

theorem execPairLoRead_keeps {r s : State} (h : Keeps r s) (addr : Nat) :
    ∃ t, execPairLoRead addr s = .next t ∧ Keeps r t := by
  refine ⟨_, rfl, ?_⟩
  apply State.after_keeps
  apply pairLoReadRow_keeps
  exact h

theorem execPairHiWrite_keeps {r s : State} (h : Keeps r s) (addr : Nat) (v : Word) :
    ∃ t, execPairHiWrite addr v s = .next t ∧ Keeps r t := by
  refine ⟨_, rfl, ?_⟩
  apply State.after_keeps
  apply pairHiWriteRow_keeps
  exact h

theorem execRcRead_keeps {r s : State} (h : Keeps r s) (addr : Nat) :
    ∃ t, execRcRead addr s = .next t ∧ Keeps r t := by
  refine ⟨_, rfl, ?_⟩
  apply State.after_keeps
  apply rcReadRow_keeps
  exact h

theorem execTimestampSubnsRead_keeps {r s : State} (h : Keeps r s) (addr : Nat) :
    ∃ t, execTimestampSubnsRead addr s = .next t ∧ Keeps r t := by
  refine ⟨_, rfl, ?_⟩
  apply State.after_keeps
  apply timestampReadRow_keeps
  exact h

theorem execWindowDataAccess_keeps {r s : State} (h : Keeps r s) (addr : Nat) (write : Option Word) :
    ∃ t, execWindowDataAccess addr write s = .next t ∧ Keeps r t := by
  refine ⟨_, rfl, ?_⟩
  apply State.after_keeps
  apply windowDataRow_keeps
  exact h

theorem execCounterClear_keeps {r s : State} (h : Keeps r s) (addr : Nat) (v : Word) :
    ∃ t, execCounterClear addr v s = .next t ∧ Keeps r t := by
  refine ⟨_, rfl, ?_⟩
  apply State.after_keeps
  apply counterClearRow_keeps
  exact h

theorem execEccAddrRead_keeps {r s : State} (h : Keeps r s) :
    ∃ t, execEccAddrRead s = .next t ∧ Keeps r t := by
  refine ⟨_, rfl, ?_⟩
  apply State.after_keeps
  apply eccAddrReadRow_keeps
  exact h

theorem execPcieLinkStateChange_keeps {r s : State} (h : Keeps r s) (speed : Nat) (width : Nat) (l1 : Bool) :
    ∃ t, execPcieLinkStateChange speed width l1 s = .next t ∧ Keeps r t := by
  refine ⟨_, rfl, ?_⟩
  apply State.after_keeps
  apply linkStateChange_keeps
  exact h

/-! ### CmdTime.lean -/

theorem execTbSetApply_keeps {r s : State} (h : Keeps r s) (v : Word) :
    ∃ t, execTbSetApply v s = .next t ∧ Keeps r t := by
  refine ⟨_, rfl, ?_⟩
  apply State.after_keeps
  apply State.busWrite_keeps
  · exact h
  · intro y3 y4
    apply tbSetApplyRow_keeps
    exact y4

theorem execTbLeapLoad_keeps {r s : State} (h : Keeps r s) (v : Word) :
    ∃ t, execTbLeapLoad v s = .next t ∧ Keeps r t := by
  refine ⟨_, rfl, ?_⟩
  apply State.after_keeps
  apply State.busWrite_keeps
  · exact h
  · intro y3 y4
    apply tbLeapLoadRow_keeps
    exact y4

theorem execTbSrcCfgWrite_keeps {r s : State} (h : Keeps r s) (slot : Nat) (v : Word) :
    ∃ t, execTbSrcCfgWrite slot v s = .next t ∧ Keeps r t := by
  refine ⟨_, rfl, ?_⟩
  apply State.after_keeps
  refine Keeps.ite ?_ ?_
  · apply State.busWrite_keeps
    · exact h
    · intro y4 y5
      apply tbSrcCfgWriteRow_keeps
      exact y5
  · exact h

theorem execPtpMessageRx_keeps {r s : State} (h : Keeps r s) (port : Nat) :
    ∃ t, execPtpMessageRx port s = .next t ∧ Keeps r t := by
  refine ⟨_, rfl, ?_⟩
  apply State.after_keeps
  apply ptpMessageRxRow_keeps
  exact h

theorem execPtpEventMessageTx_keeps {r s : State} (h : Keeps r s) (slot : Nat) :
    ∃ t, execPtpEventMessageTx slot s = .next t ∧ Keeps r t := by
  refine ⟨_, rfl, ?_⟩
  apply State.after_keeps
  apply ptpEventTxRow_keeps
  exact h

theorem execTxTimestampReturn_keeps {r s : State} (h : Keeps r s) (port : Nat) (msg : PtpSent) (stamp : Nat) :
    ∃ t, execTxTimestampReturn port msg stamp s = .next t ∧ Keeps r t := by
  refine ⟨_, rfl, ?_⟩
  apply State.after_keeps
  apply txTimestampRow_keeps
  exact h

theorem execPpsEdge_keeps {r s : State} (h : Keeps r s) (rising : Bool) (stamp : Nat) :
    ∃ t, execPpsEdge rising stamp s = .next t ∧ Keeps r t := by
  refine ⟨_, rfl, ?_⟩
  apply State.after_keeps
  apply ppsEdgeRow_keeps
  exact h

theorem execIrigbFrame_keeps {r s : State} (h : Keeps r s) (f : IrigFrame) :
    ∃ t, execIrigbFrame f s = .next t ∧ Keeps r t := by
  refine ⟨_, rfl, ?_⟩
  apply State.after_keeps
  apply irigFrameRow_keeps
  exact h

theorem execSourceLossTimeout_keeps {r s : State} (h : Keeps r s) (slot : Nat) (at_ : Nat) :
    ∃ t, execSourceLossTimeout slot at_ s = .next t ∧ Keeps r t := by
  refine ⟨_, rfl, ?_⟩
  apply State.after_keeps
  apply sourceLossRow_keeps
  exact h

theorem execReportingInstant_keeps {r s : State} (h : Keeps r s) :
    ∃ t, execReportingInstant s = .next t ∧ Keeps r t := by
  refine ⟨_, rfl, ?_⟩
  apply State.after_keeps
  apply reportingInstantRow_keeps
  exact h

theorem execWholeTaiSecond_keeps {r s : State} (h : Keeps r s) (frac : Nat) (healed : List Nat) :
    ∃ t, execWholeTaiSecond frac healed s = .next t ∧ Keeps r t := by
  refine ⟨_, rfl, ?_⟩
  apply State.after_keeps
  apply wholeSecondRow_keeps
  exact h

theorem execRef10mLost_keeps {r s : State} (h : Keeps r s) :
    ∃ t, execRef10mLost s = .next t ∧ Keeps r t := by
  refine ⟨_, rfl, ?_⟩
  apply State.after_keeps
  apply ref10mLostRow_keeps
  exact h

theorem execRef10mRestored_keeps {r s : State} (h : Keeps r s) :
    ∃ t, execRef10mRestored s = .next t ∧ Keeps r t := by
  refine ⟨_, rfl, ?_⟩
  apply State.after_keeps
  apply ref10mRestoredRow_keeps
  exact h

theorem execSlewingEnd_keeps {r s : State} (h : Keeps r s) (at_ : Nat) (rest : Int) :
    ∃ t, execSlewingEnd at_ rest s = .next t ∧ Keeps r t := by
  refine ⟨_, rfl, ?_⟩
  apply State.after_keeps
  apply slewingEndRow_keeps
  exact h

/-! ### CmdPorts.lean -/

theorem execMacEnWrite_keeps {r s : State} (h : Keeps r s) (p : Nat) (v : Word) (receiving : Bool) :
    ∃ t, execMacEnWrite p v receiving s = .next t ∧ Keeps r t := by
  refine ⟨_, rfl, ?_⟩
  apply State.after_keeps
  refine Keeps.ite ?_ ?_
  · apply State.busWrite_keeps
    · exact h
    · intro y4 y5
      apply macCtrlWrite_keeps
      exact y5
  · exact h

theorem execLinkLockAcquired_keeps {r s : State} (h : Keeps r s) (p : Nat) :
    ∃ t, execLinkLockAcquired p s = .next t ∧ Keeps r t := by
  refine ⟨_, rfl, ?_⟩
  apply State.after_keeps
  apply linkLockAcquiredRow_keeps
  exact h

theorem execLinkLockLost_keeps {r s : State} (h : Keeps r s) (p : Nat) (receiving : Bool) :
    ∃ t, execLinkLockLost p receiving s = .next t ∧ Keeps r t := by
  refine ⟨_, rfl, ?_⟩
  apply State.after_keeps
  apply linkLockLostRow_keeps
  exact h

theorem execAutonegComplete_keeps {r s : State} (h : Keeps r s) (p : Nat) :
    ∃ t, execAutonegComplete p s = .next t ∧ Keeps r t := by
  refine ⟨_, rfl, ?_⟩
  apply State.after_keeps
  apply autonegCompleteRow_keeps
  exact h

theorem execSgmiiControlRx_keeps {r s : State} (h : Keeps r s) (p : Nat) (slow : Bool) (receiving : Bool) :
    ∃ t, execSgmiiControlRx p slow receiving s = .next t ∧ Keeps r t := by
  refine ⟨_, rfl, ?_⟩
  apply State.after_keeps
  apply sgmiiControlRxRow_keeps
  exact h

theorem execLinkQualified_keeps {r s : State} (h : Keeps r s) (p : Nat) :
    ∃ t, execLinkQualified p s = .next t ∧ Keeps r t := by
  refine ⟨_, rfl, ?_⟩
  apply State.after_keeps
  apply linkQualifiedRow_keeps
  exact h

theorem execLinkFaultRx_keeps {r s : State} (h : Keeps r s) (p : Nat) (remote : Bool) (hiBer : Bool) (receiving : Bool) :
    ∃ t, execLinkFaultRx p remote hiBer receiving s = .next t ∧ Keeps r t := by
  refine ⟨_, rfl, ?_⟩
  apply State.after_keeps
  apply linkFaultRxRow_keeps
  exact h

theorem execLinkFaultCleared_keeps {r s : State} (h : Keeps r s) (p : Nat) :
    ∃ t, execLinkFaultCleared p s = .next t ∧ Keeps r t := by
  refine ⟨_, rfl, ?_⟩
  apply State.after_keeps
  apply linkFaultClearedRow_keeps
  exact h

theorem execMacRxFrame_keeps {r s : State} (h : Keeps r s) (p : Nat) (f : WireFrame) :
    ∃ t, execMacRxFrame p f s = .next t ∧ Keeps r t := by
  refine ⟨_, rfl, ?_⟩
  apply State.after_keeps
  apply macRxFrameRow_keeps
  exact h

theorem execPauseExpiry_keeps {r s : State} (h : Keeps r s) (p : Nat) :
    ∃ t, execPauseExpiry p s = .next t ∧ Keeps r t := by
  refine ⟨_, rfl, ?_⟩
  apply State.after_keeps
  apply pauseExpiryRow_keeps
  exact h

theorem execTxEnqueue_keeps {r s : State} (h : Keeps r s) :
    ∃ t, execTxEnqueue s = .next t ∧ Keeps r t := by
  refine ⟨_, rfl, ?_⟩
  apply State.after_keeps
  apply txEnqueueRow_keeps
  exact h

theorem execAlarmEnqueue_keeps {r s : State} (h : Keeps r s) :
    ∃ t, execAlarmEnqueue s = .next t ∧ Keeps r t := by
  refine ⟨_, rfl, ?_⟩
  apply State.after_keeps
  apply alarmEnqueueRow_keeps
  exact h

theorem execTxFrameDone_keeps {r s : State} (h : Keeps r s) (p : Nat) :
    ∃ t, execTxFrameDone p s = .next t ∧ Keeps r t := by
  refine ⟨_, rfl, ?_⟩
  apply State.after_keeps
  apply txFrameDoneRow_keeps
  exact h

theorem execIntakeFrame_keeps {r s : State} (h : Keeps r s) :
    ∃ t, execIntakeFrame s = .next t ∧ Keeps r t := by
  refine ⟨_, rfl, ?_⟩
  apply State.after_keeps
  apply intakeFrameRow_keeps
  exact h

theorem execDirCopy_keeps {r s : State} (h : Keeps r s) (v : Word) :
    ∃ t, execDirCopy v s = .next t ∧ Keeps r t := by
  refine ⟨_, rfl, ?_⟩
  apply State.after_keeps
  refine Keeps.ite ?_ ?_
  · apply State.busWrite_keeps
    · exact h
    · intro y4 y5
      apply dirCtrlWrite_keeps
      exact y5
  · exact h

theorem execDirCopyDone_keeps {r s : State} (h : Keeps r s) :
    ∃ t, execDirCopyDone s = .next t ∧ Keeps r t := by
  refine ⟨_, rfl, ?_⟩
  apply State.after_keeps
  apply dirCopyDoneRow_keeps
  exact h

theorem execDirApply_keeps {r s : State} (h : Keeps r s) (v : Word) :
    ∃ t, execDirApply v s = .next t ∧ Keeps r t := by
  refine ⟨_, rfl, ?_⟩
  apply State.after_keeps
  refine Keeps.ite ?_ ?_
  · apply State.busWrite_keeps
    · exact h
    · intro y4 y5
      apply dirCtrlWrite_keeps
      exact y5
  · exact h

theorem execDirValidationDone_keeps {r s : State} (h : Keeps r s) :
    ∃ t, execDirValidationDone s = .next t ∧ Keeps r t := by
  refine ⟨_, rfl, ?_⟩
  apply State.after_keeps
  apply dirValidationDoneRow_keeps
  exact h

theorem execCfgchgFifoRead_keeps {r s : State} (h : Keeps r s) :
    ∃ t, execCfgchgFifoRead s = .next t ∧ Keeps r t := by
  refine ⟨_, rfl, ?_⟩
  apply State.after_keeps
  apply State.busRead_keeps
  · exact h
  · intro y3 y4
    apply cfgchgFifoReadRow_keeps
    exact y4

theorem execUnkKeyRead_keeps {r s : State} (h : Keeps r s) :
    ∃ t, execUnkKeyRead s = .next t ∧ Keeps r t := by
  refine ⟨_, rfl, ?_⟩
  apply State.after_keeps
  apply State.busRead_keeps
  · exact h
  · intro y3 y4
    apply unkKeyReadRow_keeps
    exact y4

theorem execHostSend_keeps {r s : State} (h : Keeps r s) (n : Nat) (buf : Option (List Byte)) :
    ∃ t, execHostSend n buf s = .next t ∧ Keeps r t := by
  refine ⟨_, rfl, ?_⟩
  apply State.after_keeps
  apply manHostSend_keeps
  exact h

theorem execInject_keeps {r s : State} (h : Keeps r s) (n : Nat) (buf : Option (List Byte)) :
    ∃ t, execInject n buf s = .next t ∧ Keeps r t := by
  refine ⟨_, rfl, ?_⟩
  apply State.after_keeps
  apply manInject_keeps
  exact h

/-! ### CmdQuay.lean -/

theorem execAlnEnWrite_keeps {r s : State} (h : Keeps r s) (v : Word) :
    ∃ t, execAlnEnWrite v s = .next t ∧ Keeps r t := by
  refine ⟨_, rfl, ?_⟩
  apply State.after_keeps
  apply State.busWrite_keeps
  · exact h
  · intro y3 y4
    apply alnEnWriteRow_keeps
    exact y4

theorem execAlnRingBaseWrite_keeps {r s : State} (h : Keeps r s) (v : Word) :
    ∃ t, execAlnRingBaseWrite v s = .next t ∧ Keeps r t := by
  refine ⟨_, rfl, ?_⟩
  apply State.after_keeps
  apply State.busWrite_keeps
  · exact h
  · intro y3 y4
    apply alnRingBaseWriteRow_keeps
    exact y4

theorem execAlnProbe_keeps {r s : State} (h : Keeps r s) (v : Word) :
    ∃ t, execAlnProbe v s = .next t ∧ Keeps r t := by
  refine ⟨_, rfl, ?_⟩
  apply State.after_keeps
  apply State.busWrite_keeps
  · exact h
  · intro y3 y4
    apply alnProbeRow_keeps
    exact y4

theorem execQuaySpillDone_keeps {r s : State} (h : Keeps r s) :
    ∃ t, execQuaySpillDone s = .next t ∧ Keeps r t := by
  refine ⟨_, rfl, ?_⟩
  apply State.after_keeps
  apply quaySpillDoneRow_keeps
  exact h

theorem execAlnBlockWrite_keeps {r s : State} (h : Keeps r s) :
    ∃ t, execAlnBlockWrite s = .next t ∧ Keeps r t := by
  refine ⟨_, rfl, ?_⟩
  apply State.after_keeps
  apply alnBlockWriteRow_keeps
  exact h

theorem execQuaySettle_keeps {r s : State} (h : Keeps r s) :
    ∃ t, execQuaySettle s = .next t ∧ Keeps r t := by
  refine ⟨_, rfl, ?_⟩
  apply State.after_keeps
  apply quaySettleRow_keeps
  exact h

theorem execQuaySealDone_keeps {r s : State} (h : Keeps r s) :
    ∃ t, execQuaySealDone s = .next t ∧ Keeps r t := by
  refine ⟨_, rfl, ?_⟩
  apply State.after_keeps
  apply quaySealDoneRow_keeps
  exact h

theorem execTugTransferError_keeps {r s : State} (h : Keeps r s) (seq : Nat) :
    ∃ t, execTugTransferError seq s = .next t ∧ Keeps r t := by
  refine ⟨_, rfl, ?_⟩
  apply State.after_keeps
  apply tugTransferErrorRow_keeps
  exact h

theorem execSealInstantWithoutGrid_keeps {r s : State} (h : Keeps r s) :
    ∃ t, execSealInstantWithoutGrid s = .next t ∧ Keeps r t := by
  refine ⟨_, rfl, ?_⟩
  apply State.after_keeps
  apply sealInstantWithoutGridRow_keeps
  exact h

/-! ### CmdOsc.lean -/

theorem execOscEnWrite_keeps {r s : State} (h : Keeps r s) (v : Word) :
    ∃ t, execOscEnWrite v s = .next t ∧ Keeps r t := by
  refine ⟨_, rfl, ?_⟩
  apply State.after_keeps
  apply State.busWrite_keeps
  · exact h
  · intro y3 y4
    apply oscEnWriteRow_keeps
    exact y4

theorem execOscProvEval_keeps {r s : State} (h : Keeps r s) (g : Nat) :
    ∃ t, execOscProvEval g s = .next t ∧ Keeps r t := by
  refine ⟨_, rfl, ?_⟩
  apply State.after_keeps
  apply oscProvEvalRow_keeps
  exact h

theorem execOscSettleEval_keeps {r s : State} (h : Keeps r s) (g : Nat) :
    ∃ t, execOscSettleEval g s = .next t ∧ Keeps r t := by
  refine ⟨_, rfl, ?_⟩
  apply State.after_keeps
  apply oscSettleEvalRow_keeps
  exact h

theorem execOscFold_keeps {r s : State} (h : Keeps r s) (g : Nat) :
    ∃ t, execOscFold g s = .next t ∧ Keeps r t := by
  refine ⟨_, rfl, ?_⟩
  apply State.after_keeps
  apply oscFoldRow_keeps
  exact h

theorem execOscExtract_keeps {r s : State} (h : Keeps r s) (g : Nat) :
    ∃ t, execOscExtract g s = .next t ∧ Keeps r t := by
  refine ⟨_, rfl, ?_⟩
  apply State.after_keeps
  apply oscExtractRow_keeps
  exact h

/-! ### CmdIsl.lean -/

theorem execIslEnWrite_keeps {r s : State} (h : Keeps r s) (v : Word) :
    ∃ t, execIslEnWrite v s = .next t ∧ Keeps r t := by
  refine ⟨_, rfl, ?_⟩
  apply State.after_keeps
  apply State.busWrite_keeps
  · exact h
  · intro y3 y4
    apply islEnWriteRow_keeps
    exact y4

theorem execIslProvEval_keeps {r s : State} (h : Keeps r s) :
    ∃ t, execIslProvEval s = .next t ∧ Keeps r t := by
  refine ⟨_, rfl, ?_⟩
  apply State.after_keeps
  apply islProvEvalRow_keeps
  exact h

theorem execIslSettleEval_keeps {r s : State} (h : Keeps r s) :
    ∃ t, execIslSettleEval s = .next t ∧ Keeps r t := by
  refine ⟨_, rfl, ?_⟩
  apply State.after_keeps
  apply islSettleEvalRow_keeps
  exact h

theorem execIslFold_keeps {r s : State} (h : Keeps r s) :
    ∃ t, execIslFold s = .next t ∧ Keeps r t := by
  refine ⟨_, rfl, ?_⟩
  apply State.after_keeps
  apply islFoldRow_keeps
  exact h

theorem execIslNodeProbe_keeps {r s : State} (h : Keeps r s) (v : Word) :
    ∃ t, execIslNodeProbe v s = .next t ∧ Keeps r t := by
  refine ⟨_, rfl, ?_⟩
  apply State.after_keeps
  apply State.busWrite_keeps
  · exact h
  · intro y3 y4
    apply islNodeProbeRow_keeps
    exact y4

theorem execIslBranchProbe_keeps {r s : State} (h : Keeps r s) (v : Word) :
    ∃ t, execIslBranchProbe v s = .next t ∧ Keeps r t := by
  refine ⟨_, rfl, ?_⟩
  apply State.after_keeps
  apply State.busWrite_keeps
  · exact h
  · intro y3 y4
    apply islBranchProbeRow_keeps
    exact y4

/-! ### CmdAlarm.lean -/

theorem execAlarmInput_keeps {r s : State} (h : Keeps r s) :
    ∃ t, execAlarmInput s = .next t ∧ Keeps r t := by
  refine ⟨_, rfl, ?_⟩
  apply State.after_keeps
  apply alarmInputRow_keeps
  exact h

theorem execAlarmAcknowledge_keeps {r s : State} (h : Keeps r s) (slot : Nat) (gen : Nat) :
    ∃ t, execAlarmAcknowledge slot gen s = .next t ∧ Keeps r t := by
  refine ⟨_, rfl, ?_⟩
  apply State.after_keeps
  apply alarmAcknowledgeRow_keeps
  exact h

theorem execAlmAckGo_keeps {r s : State} (h : Keeps r s) (v : Word) :
    ∃ t, execAlmAckGo v s = .next t ∧ Keeps r t := by
  refine ⟨_, rfl, ?_⟩
  apply State.after_keeps
  apply State.busWrite_keeps
  · exact h
  · intro y3 y4
    apply almAckGoRow_keeps
    exact y4

theorem execAlmHostGo_keeps {r s : State} (h : Keeps r s) (v : Word) :
    ∃ t, execAlmHostGo v s = .next t ∧ Keeps r t := by
  refine ⟨_, rfl, ?_⟩
  apply State.after_keeps
  apply State.busWrite_keeps
  · exact h
  · intro y3 y4
    apply almHostGoRow_keeps
    exact y4

theorem execLhPulseEnd_keeps {r s : State} (h : Keeps r s) (pin : Nat) :
    ∃ t, execLhPulseEnd pin s = .next t ∧ Keeps r t := by
  refine ⟨_, rfl, ?_⟩
  apply State.after_keeps
  apply lhPulseEndRow_keeps
  exact h

theorem execAlmMessageClose_keeps {r s : State} (h : Keeps r s) (dest : Nat) :
    ∃ t, execAlmMessageClose dest s = .next t ∧ Keeps r t := by
  refine ⟨_, rfl, ?_⟩
  apply State.after_keeps
  apply almMessageCloseRow_keeps
  exact h

theorem execAlmMessageRepeat_keeps {r s : State} (h : Keeps r s) (dest : Nat) :
    ∃ t, execAlmMessageRepeat dest s = .next t ∧ Keeps r t := by
  refine ⟨_, rfl, ?_⟩
  apply State.after_keeps
  apply almMessageRepeatRow_keeps
  exact h

theorem execAlmKeepalive_keeps {r s : State} (h : Keeps r s) (dest : Nat) :
    ∃ t, execAlmKeepalive dest s = .next t ∧ Keeps r t := by
  refine ⟨_, rfl, ?_⟩
  apply State.after_keeps
  apply almKeepaliveRow_keeps
  exact h

/-! ### CmdField.lean -/

theorem execFeEnWrite_keeps {r s : State} (h : Keeps r s) (v : Word) :
    ∃ t, execFeEnWrite v s = .next t ∧ Keeps r t := by
  refine ⟨_, rfl, ?_⟩
  apply State.after_keeps
  apply State.busWrite_keeps
  · exact h
  · intro y3 y4
    apply feCtrlWrite_keeps
    exact y4

theorem execFeSampleSet_keeps {r s : State} (h : Keeps r s) (release : Nat) (pins : List (List (Nat × Bool))) (refHz altHz : Rat) :
    ∃ t, execFeSampleSet release pins refHz altHz s = .next t ∧ Keeps r t := by
  refine ⟨_, rfl, ?_⟩
  apply State.after_keeps
  apply feSampleSetAll_keeps
  exact h

theorem execFeChannelCondition_keeps {r s : State} (h : Keeps r s) (ch : Nat) (clip : Bool) (on : Bool) :
    ∃ t, execFeChannelCondition ch clip on s = .next t ∧ Keeps r t := by
  refine ⟨_, rfl, ?_⟩
  apply State.after_keeps
  apply feChannelConditionRow_keeps
  exact h

theorem execFePllRealign_keeps {r s : State} (h : Keeps r s) :
    ∃ t, execFePllRealign s = .next t ∧ Keeps r t := by
  refine ⟨_, rfl, ?_⟩
  apply State.after_keeps
  apply fePllRealignRow_keeps
  exact h

theorem execFeCalSwapGo_keeps {r s : State} (h : Keeps r s) (v : Word) :
    ∃ t, execFeCalSwapGo v s = .next t ∧ Keeps r t := by
  refine ⟨_, rfl, ?_⟩
  apply State.after_keeps
  apply State.busWrite_keeps
  · exact h
  · intro y3 y4
    apply feCalSwapGoRow_keeps
    exact y4

theorem execLpeEstimate_keeps {r s : State} (h : Keeps r s) (entry : Nat) (sec : Nat) (k : Nat) (handOff : Nat) :
    ∃ t, execLpeEstimate entry sec k handOff s = .next t ∧ Keeps r t := by
  refine ⟨_, rfl, ?_⟩
  apply State.after_keeps
  apply lpeEstimateRow_keeps
  exact h

theorem execMtrEnWrite_keeps {r s : State} (h : Keeps r s) (v : Word) :
    ∃ t, execMtrEnWrite v s = .next t ∧ Keeps r t := by
  refine ⟨_, rfl, ?_⟩
  apply State.after_keeps
  apply State.busWrite_keeps
  · exact h
  · intro y3 y4
    apply mtrCtrlWrite_keeps
    exact y4

theorem execMtrCycle_keeps {r s : State} (h : Keeps r s) (now : Nat) :
    ∃ t, execMtrCycle now s = .next t ∧ Keeps r t := by
  refine ⟨_, rfl, ?_⟩
  apply State.after_keeps
  apply mtrCycleRow_keeps
  exact h

theorem execMtrFlashSaveDone_keeps {r s : State} (h : Keeps r s) (ok : Bool) :
    ∃ t, execMtrFlashSaveDone ok s = .next t ∧ Keeps r t := by
  refine ⟨_, rfl, ?_⟩
  apply State.after_keeps
  apply mtrFlashSaveDoneRow_keeps
  exact h

theorem execPulseStart_keeps {r s : State} (h : Keeps r s) (o : Nat) :
    ∃ t, execPulseStart o s = .next t ∧ Keeps r t := by
  refine ⟨_, rfl, ?_⟩
  apply State.after_keeps
  apply pulseStartRow_keeps
  exact h

theorem execPulseEnd_keeps {r s : State} (h : Keeps r s) (o : Nat) :
    ∃ t, execPulseEnd o s = .next t ∧ Keeps r t := by
  refine ⟨_, rfl, ?_⟩
  apply State.after_keeps
  apply pulseEndRow_keeps
  exact h

theorem execPfwAssert_keeps {r s : State} (h : Keeps r s) :
    ∃ t, execPfwAssert s = .next t ∧ Keeps r t := by
  refine ⟨_, rfl, ?_⟩
  apply State.after_keeps
  apply pfwAssertRow_keeps
  exact h

theorem execPfwDeassert_keeps {r s : State} (h : Keeps r s) :
    ∃ t, execPfwDeassert s = .next t ∧ Keeps r t := by
  refine ⟨_, rfl, ?_⟩
  apply State.after_keeps
  apply pfwDeassertRow_keeps
  exact h

theorem execCapChArm_keeps {r s : State} (h : Keeps r s) (ch : Nat) :
    ∃ t, execCapChArm ch s = .next t ∧ Keeps r t := by
  refine ⟨_, rfl, ?_⟩
  apply State.after_keeps
  refine Keeps.ite ?_ ?_
  · apply State.busWrite_keeps
    · exact h
    · intro y4 y5
      apply capChArmRow_keeps
      exact y5
  · exact h

theorem execCapChAbort_keeps {r s : State} (h : Keeps r s) (ch : Nat) :
    ∃ t, execCapChAbort ch s = .next t ∧ Keeps r t := by
  refine ⟨_, rfl, ?_⟩
  apply State.after_keeps
  refine Keeps.ite ?_ ?_
  · apply State.busWrite_keeps
    · exact h
    · intro y4 y5
      apply capChAbortRow_keeps
      exact y5
  · exact h

theorem execCapChSwtrig_keeps {r s : State} (h : Keeps r s) (ch : Nat) :
    ∃ t, execCapChSwtrig ch s = .next t ∧ Keeps r t := by
  refine ⟨_, rfl, ?_⟩
  apply State.after_keeps
  refine Keeps.ite ?_ ?_
  · apply State.busWrite_keeps
    · exact h
    · intro y4 y5
      apply capChSwtrigRow_keeps
      exact y5
  · exact h

theorem execCapTrigger_keeps {r s : State} (h : Keeps r s) (ch : Nat) :
    ∃ t, execCapTrigger ch s = .next t ∧ Keeps r t := by
  refine ⟨_, rfl, ?_⟩
  apply State.after_keeps
  apply capTriggerRow_keeps
  exact h

theorem execCapOverflow_keeps {r s : State} (h : Keeps r s) (ch : Nat) (fifo : Bool) :
    ∃ t, execCapOverflow ch fifo s = .next t ∧ Keeps r t := by
  refine ⟨_, rfl, ?_⟩
  apply State.after_keeps
  apply capOverflowRow_keeps
  exact h

theorem execCapEnd_keeps {r s : State} (h : Keeps r s) (ch : Nat) :
    ∃ t, execCapEnd ch s = .next t ∧ Keeps r t := by
  refine ⟨_, rfl, ?_⟩
  apply State.after_keeps
  apply capEndRow_keeps
  exact h

theorem execTrgPulseRx_keeps {r s : State} (h : Keeps r s) (line : Nat) (fall : Nat) (rise : Nat) :
    ∃ t, execTrgPulseRx line fall rise s = .next t ∧ Keeps r t := by
  refine ⟨_, rfl, ?_⟩
  apply State.after_keeps
  apply trgPulseRx_keeps
  exact h

theorem execTrgLineStuck_keeps {r s : State} (h : Keeps r s) (line : Nat) :
    ∃ t, execTrgLineStuck line s = .next t ∧ Keeps r t := by
  refine ⟨_, rfl, ?_⟩
  apply State.after_keeps
  apply trgLineStuck_keeps
  exact h

theorem execCapTrgOutGo_keeps {r s : State} (h : Keeps r s) (v : Word) :
    ∃ t, execCapTrgOutGo v s = .next t ∧ Keeps r t := by
  refine ⟨_, rfl, ?_⟩
  apply State.after_keeps
  apply State.busWrite_keeps
  · exact h
  · intro y3 y4
    apply capTrgOutGo_keeps
    exact y4

theorem execTrgOutPulseStart_keeps {r s : State} (h : Keeps r s) (line : Nat) (stamp : Nat) :
    ∃ t, execTrgOutPulseStart line stamp s = .next t ∧ Keeps r t := by
  refine ⟨_, rfl, ?_⟩
  apply State.after_keeps
  apply trgOutPulseStart_keeps
  exact h

theorem execTrgOutPulseEnd_keeps {r s : State} (h : Keeps r s) (line : Nat) :
    ∃ t, execTrgOutPulseEnd line s = .next t ∧ Keeps r t := by
  refine ⟨_, rfl, ?_⟩
  apply State.after_keeps
  apply trgOutPulseEnd_keeps
  exact h

theorem execMtrPointLatchRead_keeps {r s : State} (h : Keeps r s) (m : Nat) :
    ∃ t, execMtrPointLatchRead m s = .next t ∧ Keeps r t := by
  refine ⟨_, rfl, ?_⟩
  apply State.after_keeps
  refine Keeps.ite ?_ ?_
  · apply State.busRead_keeps
    · exact h
    · intro y4 y5
      apply mtrPointLatch_keeps
      exact y5
  · exact h

theorem execTrgLineStuckEnd_keeps {r s : State} (h : Keeps r s) (line : Nat) :
    ∃ t, execTrgLineStuckEnd line s = .next t ∧ Keeps r t := by
  refine ⟨_, rfl, ?_⟩
  apply State.after_keeps
  apply trgLineStuckEnd_keeps
  exact h

/-! ### CmdLog.lean -/

theorem execLogRingBaseWrite_keeps {r s : State} (h : Keeps r s) (v : Word) :
    ∃ t, execLogRingBaseWrite v s = .next t ∧ Keeps r t := by
  refine ⟨_, rfl, ?_⟩
  apply State.after_keeps
  apply State.busWrite_keeps
  · exact h
  · intro y3 y4
    apply logRingBaseWriteRow_keeps
    exact y4

theorem execLogEvent_keeps {r s : State} (h : Keeps r s) :
    ∃ t, execLogEvent s = .next t ∧ Keeps r t := by
  refine ⟨_, rfl, ?_⟩
  apply State.after_keeps
  apply logEventTake_keeps
  exact h

theorem execLogRecordWrite_keeps {r s : State} (h : Keeps r s) :
    ∃ t, execLogRecordWrite s = .next t ∧ Keeps r t := by
  refine ⟨_, rfl, ?_⟩
  apply State.after_keeps
  apply logRecordTake_keeps
  exact h

theorem execLogCheckpoint_keeps {r s : State} (h : Keeps r s) :
    ∃ t, execLogCheckpoint s = .next t ∧ Keeps r t := by
  refine ⟨_, rfl, ?_⟩
  apply State.after_keeps
  apply logCheckpointRow_keeps
  exact h

theorem execLogNonceRead_keeps {r s : State} (h : Keeps r s) :
    ∃ t, execLogNonceRead s = .next t ∧ Keeps r t := by
  refine ⟨_, rfl, ?_⟩
  apply State.after_keeps
  apply State.busRead_keeps
  · exact h
  · intro y3 y4
    apply logNonceReadRow_keeps
    exact y4

/-! ### CmdPilot.lean -/

theorem execTaskSubmit_keeps {r s : State} (h : Keeps r s) (req : Option TaskReq) :
    ∃ t, execTaskSubmit req s = .next t ∧ Keeps r t := by
  refine ⟨_, rfl, ?_⟩
  apply State.after_keeps
  apply taskSubmitRow_keeps
  exact h

theorem execTaskDispatch_keeps {r s : State} (h : Keeps r s) (cls : Nat) :
    ∃ t, execTaskDispatch cls s = .next t ∧ Keeps r t := by
  refine ⟨_, rfl, ?_⟩
  apply State.after_keeps
  apply taskDispatchRow_keeps
  exact h

theorem execTaskWait_keeps {r s : State} (h : Keeps r s) (i : Nat) :
    ∃ t, execTaskWait i s = .next t ∧ Keeps r t := by
  refine ⟨_, rfl, ?_⟩
  apply State.after_keeps
  apply taskWaitRow_keeps
  exact h

theorem execWaitEventArrives_keeps {r s : State} (h : Keeps r s) (i : Nat) :
    ∃ t, execWaitEventArrives i s = .next t ∧ Keeps r t := by
  refine ⟨_, rfl, ?_⟩
  apply State.after_keeps
  apply waitEventRow_keeps
  exact h

theorem execWaitTimeout_keeps {r s : State} (h : Keeps r s) (i : Nat) :
    ∃ t, execWaitTimeout i s = .next t ∧ Keeps r t := by
  refine ⟨_, rfl, ?_⟩
  apply State.after_keeps
  apply waitTimeoutRow_keeps
  exact h

theorem execDelayWake_keeps {r s : State} (h : Keeps r s) (i : Nat) :
    ∃ t, execDelayWake i s = .next t ∧ Keeps r t := by
  refine ⟨_, rfl, ?_⟩
  apply State.after_keeps
  apply delayWakeRow_keeps
  exact h

theorem execTaskAging_keeps {r s : State} (h : Keeps r s) (i : Nat) :
    ∃ t, execTaskAging i s = .next t ∧ Keeps r t := by
  refine ⟨_, rfl, ?_⟩
  apply State.after_keeps
  apply taskAgingRow_keeps
  exact h

theorem workCompleteRow_keeps {r s : State} (h : Keeps r s) (i : Nat) : Keeps r (workCompleteRow i s) := by
  unfold workCompleteRow
  refine Keeps.ite ?_ ?_
  · exact h
  · apply taskCompleteRow_keeps
    exact h

theorem execTaskComplete_keeps {r s : State} (h : Keeps r s) (i : Nat) :
    ∃ t, execTaskComplete i s = .next t ∧ Keeps r t := by
  unfold execTaskComplete
  refine ⟨_, rfl, ?_⟩
  apply State.after_keeps
  apply workCompleteRow_keeps
  exact h

theorem execTaskAbort_keeps {r s : State} (h : Keeps r s) (k : TaskHandle) (owner : Nat) :
    ∃ t, execTaskAbort k owner s = .next t ∧ Keeps r t := by
  refine ⟨_, rfl, ?_⟩
  apply State.after_keeps
  apply taskAbortRow_keeps
  exact h

theorem execPltTaskProbe_keeps {r s : State} (h : Keeps r s) (v : Word) :
    ∃ t, execPltTaskProbe v s = .next t ∧ Keeps r t := by
  refine ⟨_, rfl, ?_⟩
  apply State.after_keeps
  apply State.busWrite_keeps
  · exact h
  · intro y3 y4
    apply taskProbeRow_keeps
    exact y4

theorem execPltRlCapWrite_keeps {r s : State} (h : Keeps r s) (c : Nat) (v : Word) :
    ∃ t, execPltRlCapWrite c v s = .next t ∧ Keeps r t := by
  refine ⟨_, rfl, ?_⟩
  apply State.after_keeps
  refine Keeps.ite ?_ ?_
  · apply State.busWrite_keeps
    · exact h
    · intro y4 y5
      apply rlCapWriteRow_keeps
      exact y5
  · exact h

theorem execPltRotFirmware_keeps {r s : State} (h : Keeps r s) (v : Word) :
    ∃ t, execPltRotFirmware v s = .next t ∧ Keeps r t := by
  refine ⟨_, rfl, ?_⟩
  apply State.after_keeps
  apply State.busWrite_keeps
  · exact h
  · intro y3 y4
    apply pltRotFirmwareRow_keeps
    exact y4

theorem execPltRotSelftest_keeps {r s : State} (h : Keeps r s) (v : Word) :
    ∃ t, execPltRotSelftest v s = .next t ∧ Keeps r t := by
  refine ⟨_, rfl, ?_⟩
  apply State.after_keeps
  apply State.busWrite_keeps
  · exact h
  · intro y3 y4
    apply pltRotSelftestRow_keeps
    exact y4

theorem execRotDrainTimeout_keeps {r s : State} (h : Keeps r s) :
    ∃ t, execRotDrainTimeout s = .next t ∧ Keeps r t := by
  refine ⟨_, rfl, ?_⟩
  apply State.after_keeps
  apply rotDrainTimeoutRow_keeps
  exact h

theorem execEngineLoadDone_keeps {r s : State} (h : Keeps r s) (sigOk : Bool) :
    ∃ t, execEngineLoadDone sigOk s = .next t ∧ Keeps r t := by
  refine ⟨_, rfl, ?_⟩
  apply State.after_keeps
  apply engineLoadDoneRow_keeps
  exact h

theorem execEngineTestDone_keeps {r s : State} (h : Keeps r s) (ok : Bool) :
    ∃ t, execEngineTestDone ok s = .next t ∧ Keeps r t := by
  refine ⟨_, rfl, ?_⟩
  apply State.after_keeps
  apply engineTestDoneRow_keeps
  exact h

theorem execEngineRejoinDone_keeps {r s : State} (h : Keeps r s) (e : Nat) :
    ∃ t, execEngineRejoinDone e s = .next t ∧ Keeps r t := by
  refine ⟨_, rfl, ?_⟩
  apply State.after_keeps
  apply engineRejoinDoneRow_keeps
  exact h

theorem execEngCounterWrap_keeps {r s : State} (h : Keeps r s) (e : Nat) (i : Nat) (addr : Nat) (skid : Nat) (busy : Bool) :
    ∃ t, execEngCounterWrap e i addr skid busy s = .next t ∧ Keeps r t := by
  refine ⟨_, rfl, ?_⟩
  apply State.after_keeps
  apply engCounterWrapRow_keeps
  exact h

theorem execEngCntClr_keeps {r s : State} (h : Keeps r s) (e : Nat) :
    ∃ t, execEngCntClr e s = .next t ∧ Keeps r t := by
  refine ⟨_, rfl, ?_⟩
  apply State.after_keeps
  refine Keeps.ite ?_ ?_
  · apply State.busWrite_keeps
    · exact h
    · intro y4 y5
      apply engCntClrRow_keeps
      exact y5
  · exact h

theorem execEngCntSelWrite_keeps {r s : State} (h : Keeps r s) (e : Nat) (i : Nat) (v : Word) :
    ∃ t, execEngCntSelWrite e i v s = .next t ∧ Keeps r t := by
  refine ⟨_, rfl, ?_⟩
  apply State.after_keeps
  refine Keeps.ite ?_ ?_
  · apply State.busWrite_keeps
    · exact h
    · intro y4 y5
      apply engCntSelWriteRow_keeps
      exact y5
  · exact h

theorem execEngCntPreload_keeps {r s : State} (h : Keeps r s) (e : Nat) (i : Nat) (v : Nat) :
    ∃ t, execEngCntPreload e i v s = .next t ∧ Keeps r t := by
  refine ⟨_, rfl, ?_⟩
  apply State.after_keeps
  refine Keeps.ite ?_ ?_
  · apply State.bar0Write_keeps
    apply State.bar0Write_keeps
    exact h
  · exact h

theorem execFreezeAllWrite_keeps {r s : State} (h : Keeps r s) (v : Word) :
    ∃ t, execFreezeAllWrite v s = .next t ∧ Keeps r t := by
  refine ⟨_, rfl, ?_⟩
  apply State.after_keeps
  apply State.busWrite_keeps
  · exact h
  · intro y3 y4
    apply freezeAllRow_keeps
    exact y4

theorem execClrAll_keeps {r s : State} (h : Keeps r s) :
    ∃ t, execClrAll s = .next t ∧ Keeps r t := by
  refine ⟨_, rfl, ?_⟩
  apply State.after_keeps
  apply State.busWrite_keeps
  · exact h
  · intro y3 y4
    apply clrAllRow_keeps
    exact y4

theorem execDbgTapReset_keeps {r s : State} (h : Keeps r s) :
    ∃ t, execDbgTapReset s = .next t ∧ Keeps r t := by
  refine ⟨_, rfl, ?_⟩
  apply State.after_keeps
  apply dbgTapResetRow_keeps
  exact h

theorem execExtest_keeps {r s : State} (h : Keeps r s) (resetLow : Bool) (bits : List Bool) :
    ∃ t, execExtest resetLow bits s = .next t ∧ Keeps r t := by
  refine ⟨_, rfl, ?_⟩
  apply State.after_keeps
  apply extestRow_keeps
  exact h

theorem execSamplePreload_keeps {r s : State} (h : Keeps r s) (captured : List Bool) (bits : List Bool) :
    ∃ t, execSamplePreload captured bits s = .next t ∧ Keeps r t := by
  refine ⟨_, rfl, ?_⟩
  apply State.after_keeps
  apply samplePreloadRow_keeps
  exact h

theorem execIdcode_keeps {r s : State} (h : Keeps r s) :
    ∃ t, execIdcode s = .next t ∧ Keeps r t := by
  refine ⟨_, rfl, ?_⟩
  apply State.after_keeps
  apply idcodeRow_keeps
  exact h

theorem execHighz_keeps {r s : State} (h : Keeps r s) (resetLow : Bool) :
    ∃ t, execHighz resetLow s = .next t ∧ Keeps r t := by
  refine ⟨_, rfl, ?_⟩
  apply State.after_keeps
  apply highzRow_keeps
  exact h

theorem execClamp_keeps {r s : State} (h : Keeps r s) (resetLow : Bool) :
    ∃ t, execClamp resetLow s = .next t ∧ Keeps r t := by
  refine ⟨_, rfl, ?_⟩
  apply State.after_keeps
  apply clampRow_keeps
  exact h

theorem execBypass_keeps {r s : State} (h : Keeps r s) :
    ∃ t, execBypass s = .next t ∧ Keeps r t := by
  refine ⟨_, rfl, ?_⟩
  apply State.after_keeps
  apply bypassRow_keeps
  exact h

theorem execDbgNonce_keeps {r s : State} (h : Keeps r s) :
    ∃ t, execDbgNonce s = .next t ∧ Keeps r t := by
  refine ⟨_, rfl, ?_⟩
  apply State.after_keeps
  apply dbgNonceRow_keeps
  exact h

theorem execDbgUnlock_keeps {r s : State} (h : Keeps r s) (level : Nat) (sig : List Byte) :
    ∃ t, execDbgUnlock level sig s = .next t ∧ Keeps r t := by
  refine ⟨_, rfl, ?_⟩
  apply State.after_keeps
  apply dbgUnlockRow_keeps
  exact h

theorem execMemapRead_keeps {r s : State} (h : Keeps r s) (off : Nat) :
    ∃ t, execMemapRead off s = .next t ∧ Keeps r t := by
  refine ⟨_, rfl, ?_⟩
  apply State.after_keeps
  apply memapReadRow_keeps
  exact h

theorem execMemapWrite_keeps {r s : State} (h : Keeps r s) (off : Nat) (v : Word) :
    ∃ t, execMemapWrite off v s = .next t ∧ Keeps r t := by
  refine ⟨_, rfl, ?_⟩
  apply State.after_keeps
  apply memapWriteRow_keeps
  exact h

theorem execEngdbgHalt_keeps {r s : State} (h : Keeps r s) (e : Nat) :
    ∃ t, execEngdbgHalt e s = .next t ∧ Keeps r t := by
  refine ⟨_, rfl, ?_⟩
  apply State.after_keeps
  apply engdbgHaltRow_keeps
  exact h

theorem execEngdbgResume_keeps {r s : State} (h : Keeps r s) (e : Nat) :
    ∃ t, execEngdbgResume e s = .next t ∧ Keeps r t := by
  refine ⟨_, rfl, ?_⟩
  apply State.after_keeps
  apply engdbgResumeRow_keeps
  exact h

theorem execEngdbgStep_keeps {r s : State} (h : Keeps r s) (e : Nat) :
    ∃ t, execEngdbgStep e s = .next t ∧ Keeps r t := by
  refine ⟨_, rfl, ?_⟩
  apply State.after_keeps
  apply engdbgStepRow_keeps
  exact h

theorem execEngdbgReadLocal_keeps {r s : State} (h : Keeps r s) (e : Nat) (_addr : Nat) :
    ∃ t, execEngdbgReadLocal e _addr s = .next t ∧ Keeps r t := by
  refine ⟨_, rfl, ?_⟩
  apply State.after_keeps
  apply engdbgReadLocalRow_keeps
  exact h

theorem execEngdbgReadReg_keeps {r s : State} (h : Keeps r s) (e : Nat) (_r : Nat) :
    ∃ t, execEngdbgReadReg e _r s = .next t ∧ Keeps r t := by
  refine ⟨_, rfl, ?_⟩
  apply State.after_keeps
  apply engdbgReadRegRow_keeps
  exact h

theorem execDbgRelock_keeps {r s : State} (h : Keeps r s) :
    ∃ t, execDbgRelock s = .next t ∧ Keeps r t := by
  refine ⟨_, rfl, ?_⟩
  apply State.after_keeps
  apply State.busWrite_keeps
  · exact h
  · intro y3 y4
    apply dbgRelockRow_keeps
    exact y4

theorem execDbgPortDis_keeps {r s : State} (h : Keeps r s) :
    ∃ t, execDbgPortDis s = .next t ∧ Keeps r t := by
  refine ⟨_, rfl, ?_⟩
  apply State.after_keeps
  apply State.busWrite_keeps
  · exact h
  · intro y3 y4
    apply dbgPortDisRow_keeps
    exact y4

/-! ### CmdHost.lean -/

theorem execRingPairEnWrite_keeps {r s : State} (h : Keeps r s) (n : Nat) (v : Word) :
    ∃ t, execRingPairEnWrite n v s = .next t ∧ Keeps r t := by
  refine ⟨_, rfl, ?_⟩
  apply State.after_keeps
  refine Keeps.ite ?_ ?_
  · apply State.busWrite_keeps
    · exact h
    · intro y4 y5
      apply ringCtrlWrite_keeps
      exact y5
  · exact h

theorem execSqTailDoorbell_keeps {r s : State} (h : Keeps r s) (n : Nat) (v : Word) :
    ∃ t, execSqTailDoorbell n v s = .next t ∧ Keeps r t := by
  refine ⟨_, rfl, ?_⟩
  apply State.after_keeps
  refine Keeps.ite ?_ ?_
  · apply State.doorbell_keeps
    exact h
  · exact h

theorem execCqHeadDoorbell_keeps {r s : State} (h : Keeps r s) (n : Nat) (v : Word) :
    ∃ t, execCqHeadDoorbell n v s = .next t ∧ Keeps r t := by
  refine ⟨_, rfl, ?_⟩
  apply State.after_keeps
  refine Keeps.ite ?_ ?_
  · apply State.doorbell_keeps
    exact h
  · exact h

theorem execManifestFetch_keeps {r s : State} (h : Keeps r s) (n : Nat) (bytes : List Byte) :
    ∃ t, execManifestFetch n bytes s = .next t ∧ Keeps r t := by
  refine ⟨_, rfl, ?_⟩
  apply State.after_keeps
  apply manifestFetch_keeps
  exact h

theorem execManifestComplete_keeps {r s : State} (h : Keeps r s) (n : Nat) :
    ∃ t, execManifestComplete n s = .next t ∧ Keeps r t := by
  refine ⟨_, rfl, ?_⟩
  apply State.after_keeps
  apply manifestComplete_keeps
  exact h

theorem execHostDmaError_keeps {r s : State} (h : Keeps r s) (n : Nat) :
    ∃ t, execHostDmaError n s = .next t ∧ Keeps r t := by
  refine ⟨_, rfl, ?_⟩
  apply State.after_keeps
  apply hostDmaError_keeps
  exact h

theorem execDelivery_keeps {r s : State} (h : Keeps r s) :
    ∃ t, execDelivery s = .next t ∧ Keeps r t := by
  refine ⟨_, rfl, ?_⟩
  apply State.after_keeps
  apply deliveryTake_keeps
  exact h

theorem execDeliveryTimeout_keeps {r s : State} (h : Keeps r s) (n : Nat) :
    ∃ t, execDeliveryTimeout n s = .next t ∧ Keeps r t := by
  refine ⟨_, rfl, ?_⟩
  apply State.after_keeps
  apply deliveryTimeout_keeps
  exact h

theorem execCoalesceTimer_keeps {r s : State} (h : Keeps r s) (n : Nat) :
    ∃ t, execCoalesceTimer n s = .next t ∧ Keeps r t := by
  refine ⟨_, rfl, ?_⟩
  apply State.after_keeps
  apply coalesceTimer_keeps
  exact h

theorem execNop_keeps {r s : State} (h : Keeps r s) (n : Nat) :
    ∃ t, execNop n s = .next t ∧ Keeps r t := by
  refine ⟨_, rfl, ?_⟩
  apply State.after_keeps
  apply manNop_keeps
  exact h

theorem execAbort_keeps {r s : State} (h : Keeps r s) (n : Nat) :
    ∃ t, execAbort n s = .next t ∧ Keeps r t := by
  refine ⟨_, rfl, ?_⟩
  apply State.after_keeps
  apply manAbort_keeps
  exact h

theorem execCfgLoad_keeps {r s : State} (h : Keeps r s) (n : Nat) (buf : Option (List Byte)) :
    ∃ t, execCfgLoad n buf s = .next t ∧ Keeps r t := by
  refine ⟨_, rfl, ?_⟩
  apply State.after_keeps
  apply manCfgLoad_keeps
  exact h

theorem execCfgWrite_keeps {r s : State} (h : Keeps r s) (n : Nat) (buf : Option (List Byte)) :
    ∃ t, execCfgWrite n buf s = .next t ∧ Keeps r t := by
  refine ⟨_, rfl, ?_⟩
  apply State.after_keeps
  apply manCfgWrite_keeps
  exact h

theorem execCfgCopy_keeps {r s : State} (h : Keeps r s) (n : Nat) :
    ∃ t, execCfgCopy n s = .next t ∧ Keeps r t := by
  refine ⟨_, rfl, ?_⟩
  apply State.after_keeps
  apply manCfgCopy_keeps
  exact h

theorem execCommit_keeps {r s : State} (h : Keeps r s) (n : Nat) :
    ∃ t, execCommit n s = .next t ∧ Keeps r t := by
  refine ⟨_, rfl, ?_⟩
  apply State.after_keeps
  apply manCommit_keeps
  exact h

theorem execCommitValidationDone_keeps {r s : State} (h : Keeps r s) :
    ∃ t, execCommitValidationDone s = .next t ∧ Keeps r t := by
  refine ⟨_, rfl, ?_⟩
  apply State.after_keeps
  apply commitValidationRow_keeps
  exact h

theorem execCfgSave_keeps {r s : State} (h : Keeps r s) (n : Nat) (ok : Bool) :
    ∃ t, execCfgSave n ok s = .next t ∧ Keeps r t := by
  refine ⟨_, rfl, ?_⟩
  apply State.after_keeps
  apply manCfgSave_keeps
  exact h

theorem execCfgRead_keeps {r s : State} (h : Keeps r s) (n : Nat) (ok : Bool) :
    ∃ t, execCfgRead n ok s = .next t ∧ Keeps r t := by
  refine ⟨_, rfl, ?_⟩
  apply State.after_keeps
  apply manCfgRead_keeps
  exact h

theorem execCfgSwinWrite_keeps {r s : State} (h : Keeps r s) (v : Word) :
    ∃ t, execCfgSwinWrite v s = .next t ∧ Keeps r t := by
  refine ⟨_, rfl, ?_⟩
  apply State.after_keeps
  apply State.busWrite_keeps
  · exact h
  · intro y3 y4
    apply cfgSwinWrite_keeps
    exact y4

theorem execAlmAck_keeps {r s : State} (h : Keeps r s) (ring : Nat) :
    ∃ t, execAlmAck ring s = .next t ∧ Keeps r t := by
  refine ⟨_, rfl, ?_⟩
  apply State.after_keeps
  apply manAlmAck_keeps
  exact h

theorem execAlmHost_keeps {r s : State} (h : Keeps r s) (ring : Nat) :
    ∃ t, execAlmHost ring s = .next t ∧ Keeps r t := by
  refine ⟨_, rfl, ?_⟩
  apply State.after_keeps
  apply manAlmHost_keeps
  exact h

theorem execCapArm_keeps {r s : State} (h : Keeps r s) (n : Nat) :
    ∃ t, execCapArm n s = .next t ∧ Keeps r t := by
  refine ⟨_, rfl, ?_⟩
  apply State.after_keeps
  apply manCapArm_keeps
  exact h

theorem execCapTriggerManifest_keeps {r s : State} (h : Keeps r s) (n : Nat) :
    ∃ t, execCapTriggerManifest n s = .next t ∧ Keeps r t := by
  refine ⟨_, rfl, ?_⟩
  apply State.after_keeps
  apply manCapTrigger_keeps
  exact h

theorem execCapAbort_keeps {r s : State} (h : Keeps r s) (n : Nat) :
    ∃ t, execCapAbort n s = .next t ∧ Keeps r t := by
  refine ⟨_, rfl, ?_⟩
  apply State.after_keeps
  apply manCapAbort_keeps
  exact h

theorem execMtrReset_keeps {r s : State} (h : Keeps r s) (n : Nat) (buf : Option (List Byte)) :
    ∃ t, execMtrReset n buf s = .next t ∧ Keeps r t := by
  refine ⟨_, rfl, ?_⟩
  apply State.after_keeps
  apply manMtrReset_keeps
  exact h

theorem execMtrRead_keeps {r s : State} (h : Keeps r s) (n : Nat) (ok : Bool) :
    ∃ t, execMtrRead n ok s = .next t ∧ Keeps r t := by
  refine ⟨_, rfl, ?_⟩
  apply State.after_keeps
  apply manMtrRead_keeps
  exact h

theorem execLogNote_keeps {r s : State} (h : Keeps r s) (n : Nat) :
    ∃ t, execLogNote n s = .next t ∧ Keeps r t := by
  refine ⟨_, rfl, ?_⟩
  apply State.after_keeps
  apply manLogNote_keeps
  exact h

theorem execLogClear_keeps {r s : State} (h : Keeps r s) (n : Nat) (buf : Option (List Byte)) :
    ∃ t, execLogClear n buf s = .next t ∧ Keeps r t := by
  refine ⟨_, rfl, ?_⟩
  apply State.after_keeps
  apply manLogClear_keeps
  exact h

theorem execFwStage_keeps {r s : State} (h : Keeps r s) (n : Nat) (buf : Option (List Byte)) (sigOk : Bool) (ok : Bool) (ver : Word) :
    ∃ t, execFwStage n buf sigOk ok ver s = .next t ∧ Keeps r t := by
  refine ⟨_, rfl, ?_⟩
  apply State.after_keeps
  apply manFwStage_keeps
  exact h

theorem execRotate_keeps {r s : State} (h : Keeps r s) (n : Nat) :
    ∃ t, execRotate n s = .next t ∧ Keeps r t := by
  refine ⟨_, rfl, ?_⟩
  apply State.after_keeps
  apply manRotate_keeps
  exact h

theorem execSubsysSet_keeps {r s : State} (h : Keeps r s) (n : Nat) (ok : Bool) :
    ∃ t, execSubsysSet n ok s = .next t ∧ Keeps r t := by
  refine ⟨_, rfl, ?_⟩
  apply State.after_keeps
  apply manSubsysSet_keeps
  exact h

theorem execPwrLtrWrite_keeps {r s : State} (h : Keeps r s) (v : Word) :
    ∃ t, execPwrLtrWrite v s = .next t ∧ Keeps r t := by
  refine ⟨_, rfl, ?_⟩
  apply State.after_keeps
  apply State.busWrite_keeps
  · exact h
  · intro y3 y4
    apply pwrLtrWrite_keeps
    exact y4

theorem execPwrEntryStepDone_keeps {r s : State} (h : Keeps r s) :
    ∃ t, execPwrEntryStepDone s = .next t ∧ Keeps r t := by
  unfold execPwrEntryStepDone
  refine ⟨_, rfl, ?_⟩
  apply State.after_keeps
  apply pwrEntryStep_keeps
  apply State.catchUpAll_keeps
  exact h

theorem pwrWakeRow_keeps {r s : State} (h : Keeps r s) (src : Nat) : Keeps r (pwrWakeRow src s) := by
  unfold pwrWakeRow
  refine Keeps.ite ?_ ?_
  · exact h
  · refine Keeps.ite ?_ ?_
    · apply State.wakeIf_keeps
      exact h
    · refine Keeps.ite ?_ ?_
      · apply State.wake_keeps
        exact h
      · exact h

theorem execPwrWake_keeps {r s : State} (h : Keeps r s) (src : Nat) :
    ∃ t, execPwrWake src s = .next t ∧ Keeps r t := by
  unfold execPwrWake
  refine ⟨_, rfl, ?_⟩
  apply State.after_keeps
  apply pwrWakeRow_keeps
  exact h

theorem execPowerStateExitDone_keeps {r s : State} (h : Keeps r s) :
    ∃ t, execPowerStateExitDone s = .next t ∧ Keeps r t := by
  unfold execPowerStateExitDone
  refine ⟨_, rfl, ?_⟩
  apply State.after_keeps
  apply powerStateExitDoneRow_keeps
  apply State.catchUpAll_keeps
  exact h

/-! ### CmdKey.lean -/

theorem execKeyWrite_keeps {r s : State} (h : Keeps r s) (n : Nat) (buf : Option (List Byte)) :
    ∃ t, execKeyWrite n buf s = .next t ∧ Keeps r t := by
  refine ⟨_, rfl, ?_⟩
  apply State.after_keeps
  apply manKeyWrite_keeps
  exact h

theorem execKeyReplace_keeps {r s : State} (h : Keeps r s) (n : Nat) (buf : Option (List Byte)) :
    ∃ t, execKeyReplace n buf s = .next t ∧ Keeps r t := by
  refine ⟨_, rfl, ?_⟩
  apply State.after_keeps
  apply manKeyReplace_keeps
  exact h

theorem execKeyErase_keeps {r s : State} (h : Keeps r s) (n : Nat) :
    ∃ t, execKeyErase n s = .next t ∧ Keeps r t := by
  refine ⟨_, rfl, ?_⟩
  apply State.after_keeps
  apply manKeyErase_keeps
  exact h

theorem execKeyPubkey_keeps {r s : State} (h : Keeps r s) (n : Nat) (ok : Bool) :
    ∃ t, execKeyPubkey n ok s = .next t ∧ Keeps r t := by
  refine ⟨_, rfl, ?_⟩
  apply State.after_keeps
  apply manKeyPubkey_keeps
  exact h

theorem execKeyClose_keeps {r s : State} (h : Keeps r s) (n : Nat) :
    ∃ t, execKeyClose n s = .next t ∧ Keeps r t := by
  refine ⟨_, rfl, ?_⟩
  apply State.after_keeps
  apply manKeyClose_keeps
  exact h

theorem execKeyNonceRead_keeps {r s : State} (h : Keeps r s) :
    ∃ t, execKeyNonceRead s = .next t ∧ Keeps r t := by
  refine ⟨_, rfl, ?_⟩
  apply State.after_keeps
  apply State.busRead_keeps
  · exact h
  · intro y3 y4
    apply keyNonceRead_keeps
    exact y4

theorem execKeyStoreWriteDone_keeps {r s : State} (h : Keeps r s) (ok : Bool) :
    ∃ t, execKeyStoreWriteDone ok s = .next t ∧ Keeps r t := by
  refine ⟨_, rfl, ?_⟩
  apply State.after_keeps
  apply keyStoreWriteDone_keeps
  exact h

theorem execKeyDeriveDone_keeps {r s : State} (h : Keeps r s) (slot : Nat) :
    ∃ t, execKeyDeriveDone slot s = .next t ∧ Keeps r t := by
  refine ⟨_, rfl, ?_⟩
  apply State.after_keeps
  apply keyDeriveDone_keeps
  exact h

theorem execCryptoOpDone_keeps {r s : State} (h : Keeps r s) (i : Nat) :
    ∃ t, execCryptoOpDone i s = .next t ∧ Keeps r t := by
  refine ⟨_, rfl, ?_⟩
  apply State.after_keeps
  apply cryptoOpDoneRow_keeps
  exact h

/-! ### CmdTwin.lean -/

theorem execTwnHandover_keeps {r s : State} (h : Keeps r s) (ring : Nat) :
    ∃ t, execTwnHandover ring s = .next t ∧ Keeps r t := by
  refine ⟨_, rfl, ?_⟩
  apply State.after_keeps
  apply manTwnHandover_keeps
  exact h

theorem execTwnResync_keeps {r s : State} (h : Keeps r s) (ring : Nat) :
    ∃ t, execTwnResync ring s = .next t ∧ Keeps r t := by
  refine ⟨_, rfl, ?_⟩
  apply State.after_keeps
  apply manTwnResync_keeps
  exact h

theorem execTwnSave_keeps {r s : State} (h : Keeps r s) (ring : Nat) (ok : Bool) :
    ∃ t, execTwnSave ring ok s = .next t ∧ Keeps r t := by
  refine ⟨_, rfl, ?_⟩
  apply State.after_keeps
  apply manTwnSave_keeps
  exact h

theorem execTwnCtrlHandover_keeps {r s : State} (h : Keeps r s) (force : Bool) :
    ∃ t, execTwnCtrlHandover force s = .next t ∧ Keeps r t := by
  refine ⟨_, rfl, ?_⟩
  apply State.after_keeps
  apply State.busWrite_keeps
  · exact h
  · intro y3 y4
    apply twnCtrlHandoverRow_keeps
    exact y4

theorem execTwnCtrlResync_keeps {r s : State} (h : Keeps r s) :
    ∃ t, execTwnCtrlResync s = .next t ∧ Keeps r t := by
  refine ⟨_, rfl, ?_⟩
  apply State.after_keeps
  apply State.busWrite_keeps
  · exact h
  · intro y3 y4
    apply twnCtrlResyncRow_keeps
    exact y4

theorem execTwnCtrlSave_keeps {r s : State} (h : Keeps r s) (ok : Bool) :
    ∃ t, execTwnCtrlSave ok s = .next t ∧ Keeps r t := by
  refine ⟨_, rfl, ?_⟩
  apply State.after_keeps
  apply State.busWrite_keeps
  · exact h
  · intro y3 y4
    apply twnCtrlSaveRow_keeps
    exact y4

theorem execTwnEnWrite_keeps {r s : State} (h : Keeps r s) (v : Word) :
    ∃ t, execTwnEnWrite v s = .next t ∧ Keeps r t := by
  refine ⟨_, rfl, ?_⟩
  apply State.after_keeps
  apply State.busWrite_keeps
  · exact h
  · intro y3 y4
    apply twnEnWriteRow_keeps
    exact y4

theorem execAizLaneUp_keeps {r s : State} (h : Keeps r s) (lane : Nat) :
    ∃ t, execAizLaneUp lane s = .next t ∧ Keeps r t := by
  refine ⟨_, rfl, ?_⟩
  apply State.after_keeps
  apply aizLaneUpRow_keeps
  exact h

theorem execAizLaneDown_keeps {r s : State} (h : Keeps r s) (lane : Nat) :
    ∃ t, execAizLaneDown lane s = .next t ∧ Keeps r t := by
  refine ⟨_, rfl, ?_⟩
  apply State.after_keeps
  apply aizLaneDownRow_keeps
  exact h

theorem execHelloTx_keeps {r s : State} (h : Keeps r s) :
    ∃ t, execHelloTx s = .next t ∧ Keeps r t := by
  refine ⟨_, rfl, ?_⟩
  apply State.after_keeps
  apply helloTxRow_keeps
  exact h

theorem execHello_keeps {r s : State} (h : Keeps r s) (frame : List Byte) :
    ∃ t, execHello frame s = .next t ∧ Keeps r t := by
  refine ⟨_, rfl, ?_⟩
  apply State.after_keeps
  apply helloRow_keeps
  exact h

theorem execHeartbeatTx_keeps {r s : State} (h : Keeps r s) :
    ∃ t, execHeartbeatTx s = .next t ∧ Keeps r t := by
  refine ⟨_, rfl, ?_⟩
  apply State.after_keeps
  apply heartbeatTxRow_keeps
  exact h

theorem execHeartbeat_keeps {r s : State} (h : Keeps r s) (frame : List Byte) :
    ∃ t, execHeartbeat frame s = .next t ∧ Keeps r t := by
  refine ⟨_, rfl, ?_⟩
  apply State.after_keeps
  apply heartbeatRow_keeps
  exact h

theorem execHbWordRx_keeps {r s : State} (h : Keeps r s) (w : Nat) :
    ∃ t, execHbWordRx w s = .next t ∧ Keeps r t := by
  refine ⟨_, rfl, ?_⟩
  apply State.after_keeps
  apply hbWordRxRow_keeps
  exact h

theorem execMirror_keeps {r s : State} (h : Keeps r s) (frame : List Byte) :
    ∃ t, execMirror frame s = .next t ∧ Keeps r t := by
  refine ⟨_, rfl, ?_⟩
  apply State.after_keeps
  apply mirrorRow_keeps
  exact h

theorem execResync_keeps {r s : State} (h : Keeps r s) (frame : List Byte) :
    ∃ t, execResync frame s = .next t ∧ Keeps r t := by
  refine ⟨_, rfl, ?_⟩
  apply State.after_keeps
  apply resyncRow_keeps
  exact h

theorem execHandover_keeps {r s : State} (h : Keeps r s) (frame : List Byte) :
    ∃ t, execHandover frame s = .next t ∧ Keeps r t := by
  refine ⟨_, rfl, ?_⟩
  apply State.after_keeps
  apply handoverRow_keeps
  exact h

theorem execTake_keeps {r s : State} (h : Keeps r s) (frame : List Byte) :
    ∃ t, execTake frame s = .next t ∧ Keeps r t := by
  refine ⟨_, rfl, ?_⟩
  apply State.after_keeps
  apply takeRow_keeps
  exact h

theorem execHandoverAnswerTimeout_keeps {r s : State} (h : Keeps r s) :
    ∃ t, execHandoverAnswerTimeout s = .next t ∧ Keeps r t := by
  refine ⟨_, rfl, ?_⟩
  apply State.after_keeps
  apply handoverAnswerTimeoutRow_keeps
  exact h

theorem execHandoverReturnCheck_keeps {r s : State} (h : Keeps r s) :
    ∃ t, execHandoverReturnCheck s = .next t ∧ Keeps r t := by
  refine ⟨_, rfl, ?_⟩
  apply State.after_keeps
  apply handoverReturnCheckRow_keeps
  exact h

theorem execTakeover_keeps {r s : State} (h : Keeps r s) :
    ∃ t, execTakeover s = .next t ∧ Keeps r t := by
  refine ⟨_, rfl, ?_⟩
  apply State.after_keeps
  apply takeoverRow_keeps
  exact h

theorem execPathLost_keeps {r s : State} (h : Keeps r s) (hb : Bool) :
    ∃ t, execPathLost hb s = .next t ∧ Keeps r t := by
  refine ⟨_, rfl, ?_⟩
  apply State.after_keeps
  apply pathLostRow_keeps
  exact h

theorem execBothLost_keeps {r s : State} (h : Keeps r s) :
    ∃ t, execBothLost s = .next t ∧ Keeps r t := by
  refine ⟨_, rfl, ?_⟩
  apply State.after_keeps
  apply bothLostRow_keeps
  exact h

theorem execTwnWaitTimeout_keeps {r s : State} (h : Keeps r s) :
    ∃ t, execTwnWaitTimeout s = .next t ∧ Keeps r t := by
  refine ⟨_, rfl, ?_⟩
  apply State.after_keeps
  apply twnWaitTimeoutRow_keeps
  exact h

theorem execTwnJoinTimeout_keeps {r s : State} (h : Keeps r s) :
    ∃ t, execTwnJoinTimeout s = .next t ∧ Keeps r t := by
  refine ⟨_, rfl, ?_⟩
  apply State.after_keeps
  apply twnJoinTimeoutRow_keeps
  exact h

theorem execTwnMismatchTimeout_keeps {r s : State} (h : Keeps r s) :
    ∃ t, execTwnMismatchTimeout s = .next t ∧ Keeps r t := by
  refine ⟨_, rfl, ?_⟩
  apply State.after_keeps
  apply twnMismatchTimeoutRow_keeps
  exact h

theorem execTwnPeriodicSave_keeps {r s : State} (h : Keeps r s) (ok : Bool) :
    ∃ t, execTwnPeriodicSave ok s = .next t ∧ Keeps r t := by
  refine ⟨_, rfl, ?_⟩
  apply State.after_keeps
  apply twnPeriodicSaveRow_keeps
  exact h

theorem execTwnStandbyTest_keeps {r s : State} (h : Keeps r s) :
    ∃ t, execTwnStandbyTest s = .next t ∧ Keeps r t := by
  refine ⟨_, rfl, ?_⟩
  apply State.after_keeps
  apply twnStandbyTestRow_keeps
  exact h

theorem execAizhanFrameSent_keeps {r s : State} (h : Keeps r s) :
    ∃ t, execAizhanFrameSent s = .next t ∧ Keeps r t := by
  refine ⟨_, rfl, ?_⟩
  apply State.after_keeps
  apply aizhanFrameSentRow_keeps
  exact h

/-! ### CmdFault.lean -/

theorem execFaultEvent_keeps {r s : State} (h : Keeps r s) (ext : Option FaultIn) :
    ∃ t, execFaultEvent ext s = .next t ∧ Keeps r t := by
  refine ⟨_, rfl, ?_⟩
  apply State.after_keeps
  apply faultEventRow_keeps
  exact h

theorem execFaultPairBroken_keeps {r s : State} (h : Keeps r s) (src : Nat) :
    ∃ t, execFaultPairBroken src s = .next t ∧ Keeps r t := by
  refine ⟨_, rfl, ?_⟩
  apply State.after_keeps
  apply faultPairBrokenRow_keeps
  exact h

theorem execFaultLevelDecay_keeps {r s : State} (h : Keeps r s) (src : Nat) :
    ∃ t, execFaultLevelDecay src s = .next t ∧ Keeps r t := by
  refine ⟨_, rfl, ?_⟩
  apply State.after_keeps
  apply faultLevelDecayRow_keeps
  exact h

theorem execFaultReactionDone_keeps {r s : State} (h : Keeps r s) :
    ∃ t, execFaultReactionDone s = .next t ∧ Keeps r t := by
  refine ⟨_, rfl, ?_⟩
  apply State.after_keeps
  apply faultReactionDoneRow_keeps
  exact h

theorem execFltFerRelease_keeps {r s : State} (h : Keeps r s) (v : Word) :
    ∃ t, execFltFerRelease v s = .next t ∧ Keeps r t := by
  refine ⟨_, rfl, ?_⟩
  apply State.after_keeps
  apply State.busWrite_keeps
  · exact h
  · intro y3 y4
    apply fltFerReleaseRow_keeps
    exact y4

theorem execFltInjectGo_keeps {r s : State} (h : Keeps r s) (v : Word) :
    ∃ t, execFltInjectGo v s = .next t ∧ Keeps r t := by
  refine ⟨_, rfl, ?_⟩
  apply State.after_keeps
  apply State.busWrite_keeps
  · exact h
  · intro y3 y4
    apply fltInjectGoRow_keeps
    exact y4

theorem execFltInject_keeps {r s : State} (h : Keeps r s) (ring : Nat) :
    ∃ t, execFltInject ring s = .next t ∧ Keeps r t := by
  refine ⟨_, rfl, ?_⟩
  apply State.after_keeps
  apply manFltInject_keeps
  exact h

theorem execFltReleaseGo_keeps {r s : State} (h : Keeps r s) (v : Word) :
    ∃ t, execFltReleaseGo v s = .next t ∧ Keeps r t := by
  refine ⟨_, rfl, ?_⟩
  apply State.after_keeps
  apply State.busWrite_keeps
  · exact h
  · intro y3 y4
    apply fltReleaseGoRow_keeps
    exact y4

theorem execFltRelease_keeps {r s : State} (h : Keeps r s) (ring : Nat) :
    ∃ t, execFltRelease ring s = .next t ∧ Keeps r t := by
  refine ⟨_, rfl, ?_⟩
  apply State.after_keeps
  apply manFltRelease_keeps
  exact h

theorem execDegradeClr_keeps {r s : State} (h : Keeps r s) :
    ∃ t, execDegradeClr s = .next t ∧ Keeps r t := by
  refine ⟨_, rfl, ?_⟩
  apply State.after_keeps
  apply State.busWrite_keeps
  · exact h
  · intro y3 y4
    apply degradeClrRow_keeps
    exact y4

theorem execBstRun_keeps {r s : State} (h : Keeps r s) (ring : Nat) :
    ∃ t, execBstRun ring s = .next t ∧ Keeps r t := by
  refine ⟨_, rfl, ?_⟩
  apply State.after_keeps
  apply manBstRun_keeps
  exact h

theorem execBstCtrlSlice_keeps {r s : State} (h : Keeps r s) (slice : Nat) :
    ∃ t, execBstCtrlSlice slice s = .next t ∧ Keeps r t := by
  refine ⟨_, rfl, ?_⟩
  apply State.after_keeps
  apply State.busWrite_keeps
  · exact h
  · intro y3 y4
    apply bstCtrlSliceRow_keeps
    exact y4

theorem execBstCtrlWhole_keeps {r s : State} (h : Keeps r s) :
    ∃ t, execBstCtrlWhole s = .next t ∧ Keeps r t := by
  refine ⟨_, rfl, ?_⟩
  apply State.after_keeps
  apply State.busWrite_keeps
  · exact h
  · intro y3 y4
    apply bstCtrlWholeRow_keeps
    exact y4

theorem execBstCtrlShutdown_keeps {r s : State} (h : Keeps r s) :
    ∃ t, execBstCtrlShutdown s = .next t ∧ Keeps r t := by
  refine ⟨_, rfl, ?_⟩
  apply State.after_keeps
  apply State.busWrite_keeps
  · exact h
  · intro y3 y4
    apply bstCtrlShutdownRow_keeps
    exact y4

theorem execBstCtrlAbort_keeps {r s : State} (h : Keeps r s) :
    ∃ t, execBstCtrlAbort s = .next t ∧ Keeps r t := by
  refine ⟨_, rfl, ?_⟩
  apply State.after_keeps
  apply State.busWrite_keeps
  · exact h
  · intro y3 y4
    apply bstCtrlAbortRow_keeps
    exact y4

theorem execBistSliceDone_keeps {r s : State} (h : Keeps r s) (pass : Bool) :
    ∃ t, execBistSliceDone pass s = .next t ∧ Keeps r t := by
  refine ⟨_, rfl, ?_⟩
  apply State.after_keeps
  apply bistSliceDoneRow_keeps
  exact h

/-! ### CmdRtc.lean -/

theorem execBkpSwitchToVbat_keeps {r s : State} (h : Keeps r s) (frac : Nat) (mv : Nat) :
    ∃ t, execBkpSwitchToVbat frac mv s = .next t ∧ Keeps r t := by
  refine ⟨_, rfl, ?_⟩
  apply State.after_keeps
  apply bkpSwitchToVbat_keeps
  exact h

theorem execBkpReturnToMain_keeps {r s : State} (h : Keeps r s) (frac : Nat) :
    ∃ t, execBkpReturnToMain frac s = .next t ∧ Keeps r t := by
  refine ⟨_, rfl, ?_⟩
  apply State.after_keeps
  apply bkpReturnToMain_keeps
  exact h

theorem execVbatMeasure_keeps {r s : State} (h : Keeps r s) (mv : Nat) :
    ∃ t, execVbatMeasure mv s = .next t ∧ Keeps r t := by
  refine ⟨_, rfl, ?_⟩
  apply State.after_keeps
  apply vbatMeasure_keeps
  exact h

theorem execBkpPorAssert_keeps {r s : State} (h : Keeps r s) :
    ∃ t, execBkpPorAssert s = .next t ∧ Keeps r t := by
  refine ⟨_, rfl, ?_⟩
  apply State.after_keeps
  apply bkpPorAssert_keeps
  exact h

theorem execBkpPorRelease_keeps {r s : State} (h : Keeps r s) :
    ∃ t, execBkpPorRelease s = .next t ∧ Keeps r t := by
  refine ⟨_, rfl, ?_⟩
  apply State.after_keeps
  apply bkpPorReleaseRow_keeps
  exact h

theorem execRtcGroupRead_keeps {r s : State} (h : Keeps r s) (reg : Nat) (frac : Nat) :
    ∃ t, execRtcGroupRead reg frac s = .next t ∧ Keeps r t := by
  refine ⟨_, rfl, ?_⟩
  apply State.after_keeps
  apply rtcGroupRead_keeps
  exact h

theorem execRtcShadowTimeout_keeps {r s : State} (h : Keeps r s) :
    ∃ t, execRtcShadowTimeout s = .next t ∧ Keeps r t := by
  refine ⟨_, rfl, ?_⟩
  apply State.after_keeps
  apply rtcShadowTimeout_keeps
  exact h

theorem execRtcHaltWrite_keeps {r s : State} (h : Keeps r s) (v : Word) :
    ∃ t, execRtcHaltWrite v s = .next t ∧ Keeps r t := by
  refine ⟨_, rfl, ?_⟩
  apply State.after_keeps
  apply State.busWrite_keeps
  · exact h
  · intro y3 y4
    apply rtcCtrlWrite_keeps
    exact y4

theorem execRtcSetFracWrite_keeps {r s : State} (h : Keeps r s) (v : Word) :
    ∃ t, execRtcSetFracWrite v s = .next t ∧ Keeps r t := by
  refine ⟨_, rfl, ?_⟩
  apply State.after_keeps
  apply State.busWrite_keeps
  · exact h
  · intro y3 y4
    apply rtcSetFracWrite_keeps
    exact y4

theorem execRtcSetSecWrite_keeps {r s : State} (h : Keeps r s) (v : Word) :
    ∃ t, execRtcSetSecWrite v s = .next t ∧ Keeps r t := by
  refine ⟨_, rfl, ?_⟩
  apply State.after_keeps
  apply State.busWrite_keeps
  · exact h
  · intro y3 y4
    apply rtcSetSecWrite_keeps
    exact y4

theorem execRtcWake_keeps {r s : State} (h : Keeps r s) :
    ∃ t, execRtcWake s = .next t ∧ Keeps r t := by
  refine ⟨_, rfl, ?_⟩
  apply State.after_keeps
  apply rtcWakeFire_keeps
  exact h

theorem execRtcRstCtrlWrite_keeps {r s : State} (h : Keeps r s) (v : Word) (env : BootEnv) :
    ∃ t, execRtcRstCtrlWrite v env s = .next t ∧ Keeps r t := by
  refine ⟨_, rfl, ?_⟩
  apply State.after_keeps
  apply State.busWrite_keeps
  · exact h
  · intro y3 y4
    apply rtcRstWrite_keeps
    exact y4

theorem execRtcSecondRollover_keeps {r s : State} (h : Keeps r s) :
    ∃ t, execRtcSecondRollover s = .next t ∧ Keeps r t := by
  refine ⟨_, rfl, ?_⟩
  apply State.after_keeps
  apply rtcSecondRollover_keeps
  exact h

end Sys2Proof.Machine
end

