-- ==== Sys2Proof/Laws/LeapKeptBase.lean ====
section
/-! SUPPORT. The relation LeapKept: what a whole second leaves of the leap-second table. It composes. -/

namespace Sys2Proof.Machine

/-- The leap-second table, the one that waits and the last whole second are the same. -/
structure LeapKept (s t : State) : Prop where
  tb_leap : t.tb.leap = s.tb.leap
  tb_leapPending : t.tb.leapPending = s.tb.leapPending
  tb_lastSec : t.tb.lastSec = s.tb.lastSec

theorem LeapKept.refl (s : State) : LeapKept s s := ⟨rfl, rfl, rfl⟩

/-- A record update of other fields than those LeapKept speaks of. -/
theorem LeapKept.upd {r s t : State} (h : LeapKept r s)
    (e0 : t.tb.leap = s.tb.leap) (e1 : t.tb.leapPending = s.tb.leapPending) (e2 : t.tb.lastSec = s.tb.lastSec) : LeapKept r t :=
  ⟨e0.trans h.tb_leap, e1.trans h.tb_leapPending, e2.trans h.tb_lastSec⟩

theorem LeapKept.ite {r a b : State} {c : Prop} [Decidable c] (ha : LeapKept r a) (hb : LeapKept r b) : LeapKept r (if c then a else b) := by
  split <;> assumption

theorem LeapKept.iteFst {α : Type} {r : State} {a b : State × α} {c : Prop} [Decidable c] (ha : LeapKept r a.1) (hb : LeapKept r b.1) :
    LeapKept r (if c then a else b).1 := by
  split <;> assumption

theorem LeapKept.ofFst {α : Type} {r s : State} {p : State × α} {a : α} (e : p = (s, a)) (h : LeapKept r p.1) : LeapKept r s := by
  rw [e] at h; exact h

theorem LeapKept.foldl {α : Type} {r : State} {f : State → α → State} (hf : ∀ x a, LeapKept r x → LeapKept r (f x a)) :
    ∀ {s : State} (l : List α), LeapKept r s → LeapKept r (l.foldl f s)
  | _, [], h => h
  | s, a :: l, h => LeapKept.foldl hf (s := f s a) l (hf s a h)

theorem LeapKept.foldlFst {α β : Type} {r : State} {f : State × β → α → State × β} (hf : ∀ x a, LeapKept r x.1 → LeapKept r (f x a).1) :
    ∀ {s : State × β} (l : List α), LeapKept r s.1 → LeapKept r (l.foldl f s).1
  | _, [], h => h
  | s, a :: l, h => LeapKept.foldlFst hf (s := f s a) l (hf s a h)

end Sys2Proof.Machine
end

