-- ==== Sys2Proof/Laws/LeapKept.lean ====
section
/-! SUPPORT. What a whole second does beside taking a loaded table leaves the leap-second table as it is. -/

namespace Sys2Proof.Machine

/-! ### Ops.lean -/

theorem State.dramWrite_leapkept {r s : State} (h : LeapKept r s) (a : Nat) (bs : List Byte) : LeapKept r (s.dramWrite a bs) := by
  unfold State.dramWrite
  exact h.upd rfl rfl rfl

theorem State.setReg_leapkept {r s : State} (h : LeapKept r s) (off : Nat) (v : Word) : LeapKept r (s.setReg off v) := by
  unfold State.setReg
  exact h.upd rfl rfl rfl

theorem State.setFld_leapkept {r s : State} (h : LeapKept r s) (off : Nat) (lo : Nat) (w : Nat) (v : Nat) : LeapKept r (s.setFld off lo w v) := by
  unfold State.setFld
  apply State.setReg_leapkept
  exact h

theorem State.event_leapkept {r s : State} (h : LeapKept r s) (off : Nat) (i : Nat) : LeapKept r (s.event off i) := by
  unfold State.event
  apply State.setReg_leapkept
  exact h

theorem State.setReg64_leapkept {r s : State} (h : LeapKept r s) (lo : Nat) (v : Nat) : LeapKept r (s.setReg64 lo v) := by
  unfold State.setReg64
  apply State.setReg_leapkept
  apply State.setReg_leapkept
  exact h

theorem State.countBy_leapkept {r s : State} (h : LeapKept r s) (lo : Nat) (n : Nat) : LeapKept r (s.countBy lo n) := by
  unfold State.countBy
  apply State.setReg64_leapkept
  exact h

theorem State.count_leapkept {r s : State} (h : LeapKept r s) (lo : Nat) : LeapKept r (s.count lo) := by
  unfold State.count
  apply State.countBy_leapkept
  exact h

theorem State.count32_leapkept {r s : State} (h : LeapKept r s) (off : Nat) : LeapKept r (s.count32 off) := by
  unfold State.count32
  apply State.setReg_leapkept
  exact h

theorem State.setTs_leapkept {r s : State} (h : LeapKept r s) (off : Nat) (t : Nat) : LeapKept r (s.setTs off t) := by
  unfold State.setTs
  apply State.setReg_leapkept
  apply State.setReg_leapkept
  apply State.setReg_leapkept
  apply State.setReg_leapkept
  exact h

theorem State.advance_leapkept {r s : State} (h : LeapKept r s) (t : Nat) : LeapKept r (s.advance t) := by
  unfold State.advance
  extract_lets x1 x2
  refine LeapKept.ite ?_ ?_
  · apply State.countBy_leapkept
    exact h.upd rfl rfl rfl
  · exact h

theorem State.emit_leapkept {r s : State} (h : LeapKept r s) (o : Output) : LeapKept r (s.emit o) := by
  unfold State.emit
  exact h.upd rfl rfl rfl

theorem State.freshNext_leapkept {r s : State} (h : LeapKept r s) : LeapKept r (s.freshNext) := by
  unfold State.freshNext
  exact h.upd rfl rfl rfl

theorem State.logRaise_leapkept {r s : State} (h : LeapKept r s) (cls : Nat) (src : Nat) (ev : Nat) (detail : List Nat) : LeapKept r (s.logRaise cls src ev detail) := by
  unfold State.logRaise
  extract_lets x1
  exact h.upd rfl rfl rfl

theorem State.almSend_leapkept {r s : State} (h : LeapKept r s) (i : AlmInput) : LeapKept r (s.almSend i) := by
  unfold State.almSend
  extract_lets x1
  exact h.upd rfl rfl rfl

theorem State.capNotice_leapkept {r s : State} (h : LeapKept r s) (typ : Nat) (m : Nat → Nat → Bool) (at_ : Nat) (code : Nat) : LeapKept r (s.capNotice typ m at_ code) := by
  unfold State.capNotice
  extract_lets x1 x2
  refine LeapKept.ite ?_ ?_
  · exact h.upd rfl rfl rfl
  · exact h

theorem State.offer_leapkept {r s : State} (h : LeapKept r s) (port : Nat) (cls : TxClass) (body : TxBody) (bytes : Nat) (job : Option (Nat × Nat)) : LeapKept r (s.offer port cls body bytes job) := by
  unfold State.offer
  extract_lets x1 x2
  refine LeapKept.ite ?_ ?_
  · exact h.upd rfl rfl rfl
  · exact h.upd rfl rfl rfl

theorem State.wantTask_leapkept {r s : State} (h : LeapKept r s) (t : TaskReq) : LeapKept r (s.wantTask t) := by
  unfold State.wantTask
  extract_lets x1
  exact h.upd rfl rfl rfl

theorem State.deliver_leapkept {r s : State} (h : LeapKept r s) (d : Delivery) : LeapKept r (s.deliver d) := by
  unfold State.deliver
  extract_lets x1
  exact h.upd rfl rfl rfl

theorem State.mirrorItem_leapkept {r s : State} (h : LeapKept r s) (item : Nat) (body : List Byte) : LeapKept r (s.mirrorItem item body) := by
  unfold State.mirrorItem
  extract_lets x1 x2
  refine LeapKept.ite ?_ ?_
  · refine LeapKept.ite ?_ ?_
    · exact h.upd rfl rfl rfl
    · apply State.event_leapkept
      apply State.count_leapkept
      exact h.upd rfl rfl rfl
  · exact h

theorem State.leaseTake_leapkept {r s : State} (h : LeapKept r s) (pool : Nat) (index : Nat) (owner : Nat) : LeapKept r (s.leaseTake pool index owner) := by
  unfold State.leaseTake
  extract_lets x1
  exact h.upd rfl rfl rfl

/-! ### Power.lean -/

theorem State.wake_leapkept {r s : State} (h : LeapKept r s) (src : Nat) : LeapKept r (s.wake src) := by
  unfold State.wake
  extract_lets x1
  refine LeapKept.ite ?_ ?_
  · exact h
  · apply State.event_leapkept
    apply State.setReg_leapkept
    exact h.upd rfl rfl rfl

theorem State.pwrAfter_leapkept {r s : State} (h : LeapKept r s) (s0 : State) : LeapKept r (s0.pwrAfter s) := by
  unfold State.pwrAfter
  extract_lets x1 x2
  have hx1 : LeapKept r x1 := by
    unfold x1
    refine LeapKept.ite ?_ ?_
    · apply State.wake_leapkept
      exact h
    · exact h
  clear_value x1
  refine LeapKept.ite ?_ ?_
  · exact hx1.upd rfl rfl rfl
  · exact hx1

/-! ### Rtc.lean -/

theorem State.modBkp_leapkept {r s : State} (h : LeapKept r s) (f : Bkp → Bkp) : LeapKept r (s.modBkp f) := by
  unfold State.modBkp
  exact h.upd rfl rfl rfl

theorem State.rtcSync_leapkept {r s : State} (h : LeapKept r s) (sec : Nat) (frac : Nat) (locked : Bool) (src : Nat) : LeapKept r (s.rtcSync sec frac locked src) := by
  unfold State.rtcSync
  extract_lets x1 x2 x3 x4 x5 x6
  have hx1 : LeapKept r x1 := by
    unfold x1
    apply State.modBkp_leapkept
    exact h
  clear_value x1
  have hx4 : LeapKept r x4 := by
    unfold x4
    apply State.modBkp_leapkept
    exact hx1
  clear_value x4
  have hx6 : LeapKept r x6 := by
    unfold x6
    refine LeapKept.ite ?_ ?_
    · exact hx1
    · exact hx4.upd rfl rfl rfl
  clear_value x6
  refine LeapKept.ite ?_ ?_
  · refine LeapKept.ite ?_ ?_
    · apply State.modBkp_leapkept
      exact hx6
    · exact hx6
  · exact hx1

/-! ### KeyStore.lean -/

theorem State.keyUseErr_leapkept {r s : State} (h : LeapKept r s) : LeapKept r (s.keyUseErr) := by
  unfold State.keyUseErr
  apply State.event_leapkept
  apply State.count_leapkept
  exact h

theorem State.cryptoStart_leapkept {r s s' : State} (h : LeapKept r s) {o : CryptoOp} (e : s.cryptoStart o = some s') : LeapKept r s' := by
  unfold State.cryptoStart at e
  split at e
  · split at e
    · cases e
      apply State.leaseTake_leapkept
      exact h.upd rfl rfl rfl
    · cases e
  · cases e

theorem State.requestSign_leapkept {r s : State} (h : LeapKept r s) (use : CryptoUse) (slot : Nat) (msg : List Byte) :
    LeapKept r (s.requestSign use slot msg).1 := by
  unfold State.requestSign
  extract_lets waits key
  clear_value key
  refine LeapKept.iteFst ?_ (State.keyUseErr_leapkept h)
  split
  next e => exact State.cryptoStart_leapkept h e
  · exact State.count_leapkept h _

/-! ### Capture.lean -/

theorem State.modCap_leapkept {r s : State} (h : LeapKept r s) (c : Nat) (f : CapCh → CapCh) : LeapKept r (s.modCap c f) := by
  unfold State.modCap
  extract_lets x1
  exact h.upd rfl rfl rfl

theorem State.capEvent_leapkept {r s : State} (h : LeapKept r s) (bit : Nat) (c : Nat) : LeapKept r (s.capEvent bit c) := by
  unfold State.capEvent
  apply State.logRaise_leapkept
  apply State.event_leapkept
  exact h

theorem State.capClose_leapkept {r s : State} (h : LeapKept r s) (c : Nat) (o : CapOpen) : LeapKept r (s.capClose c o) := by
  unfold State.capClose
  extract_lets x1 x2
  have hx2 : LeapKept r x2 := by
    unfold x2
    apply State.modCap_leapkept
    exact h
  clear_value x2
  refine LeapKept.ite ?_ ?_
  · apply State.modCap_leapkept
    exact hx2
  · apply State.count_leapkept
    apply State.modCap_leapkept
    apply State.dramWrite_leapkept
    exact hx2

theorem State.capAppend_leapkept {r s : State} (h : LeapKept r s) (c : Nat) (o : CapOpen) (inst : Nat) (e : List Byte) : LeapKept r (s.capAppend c o inst e) := by
  unfold State.capAppend
  apply State.modCap_leapkept
  exact h

theorem State.capOpenBlock_leapkept {r s : State} (h : LeapKept r s) (c : Nat) (a2 : Nat) (inst : Nat) (period : Nat) (e : List Byte) : LeapKept r (s.capOpenBlock c a2 inst period e) := by
  unfold State.capOpenBlock
  extract_lets x1
  refine LeapKept.ite ?_ ?_
  · apply State.modCap_leapkept
    exact h
  · apply State.modCap_leapkept
    exact h

theorem State.capAdd_leapkept {r s : State} (h : LeapKept r s) (c : Nat) (a2 : Nat) (inst : Nat) (cov : Nat) (period : Nat) (mk : Nat → List Byte) : LeapKept r (s.capAdd c a2 inst cov period mk) := by
  unfold State.capAdd
  extract_lets x1 x2
  have hx2 : LeapKept r x2 := by
    unfold x2
    split
    · apply State.capOpenBlock_leapkept
      exact h
    · extract_lets x3
      refine LeapKept.ite ?_ ?_
      · apply State.capAppend_leapkept
        exact h
      · apply State.capOpenBlock_leapkept
        apply State.capClose_leapkept
        exact h
  clear_value x2
  refine LeapKept.ite ?_ ?_
  · exact h
  · refine LeapKept.ite ?_ ?_
    · apply State.modCap_leapkept
      exact h
    · apply State.modCap_leapkept
      exact hx2

theorem State.capSnap_leapkept {r s : State} (h : LeapKept r s) (seq : Nat) (inst : Nat) (next : Nat) (tq : BitVec 16) (lane : Nat → List Byte) : LeapKept r (s.capSnap seq inst next tq lane) := by
  unfold State.capSnap
  refine LeapKept.foldl ?_ _ ?_
  · intro y1 y2 y3
    extract_lets x5
    apply State.capAdd_leapkept
    exact y3
  · exact h

theorem State.capStop_leapkept {r s : State} (h : LeapKept r s) (c : Nat) (st : CapSt) (cause : Nat) (endAt : Nat) : LeapKept r (s.capStop c st cause endAt) := by
  unfold State.capStop
  extract_lets x1 x2 x3 x4
  have hx1 : LeapKept r x1 := by
    unfold x1
    refine LeapKept.foldl ?_ _ ?_
    · intro y6 y7 y8
      apply State.capClose_leapkept
      exact y8
    · exact h
  clear_value x1
  have hx2 : LeapKept r x2 := by
    unfold x2
    apply State.modCap_leapkept
    exact hx1
  clear_value x2
  have hx4 : LeapKept r x4 := by
    unfold x4
    exact hx2.upd rfl rfl rfl
  clear_value x4
  apply State.dramWrite_leapkept
  exact hx4

theorem capEndRow_leapkept {r s : State} (h : LeapKept r s) (c : Nat) : LeapKept r (capEndRow c s) := by
  unfold capEndRow
  refine LeapKept.ite ?_ ?_
  · apply State.count_leapkept
    apply State.capEvent_leapkept
    apply State.capStop_leapkept
    exact h
  · exact h

theorem capOverflowRow_leapkept {r s : State} (h : LeapKept r s) (c : Nat) (fifo : Bool) : LeapKept r (capOverflowRow c fifo s) := by
  unfold capOverflowRow
  extract_lets x1
  refine LeapKept.ite ?_ ?_
  · apply State.count_leapkept
    apply State.capEvent_leapkept
    apply State.capStop_leapkept
    exact h
  · exact h

theorem State.capAbort_leapkept {r s : State} (h : LeapKept r s) (c : Nat) : LeapKept r (s.capAbort c) := by
  unfold State.capAbort
  extract_lets x1 x2 x3
  have hx2 : LeapKept r x2 := by
    unfold x2
    apply State.modCap_leapkept
    exact h
  clear_value x2
  split
  · apply State.count_leapkept
    exact hx2.upd rfl rfl rfl
  · refine LeapKept.ite ?_ ?_
    · apply State.modCap_leapkept
      apply capEndRow_leapkept
      exact h
    · refine LeapKept.ite ?_ ?_
      · apply State.modCap_leapkept
        apply capOverflowRow_leapkept
        exact h
      · apply State.count_leapkept
        apply State.modCap_leapkept
        apply State.capStop_leapkept
        exact h
  · apply State.modCap_leapkept
    exact h

/-! ### FrontEnd.lean -/

theorem State.modFe_leapkept {r s : State} (h : LeapKept r s) (f : Fe → Fe) : LeapKept r (s.modFe f) := by
  unfold State.modFe
  exact h.upd rfl rfl rfl

theorem State.feStep_leapkept {r s : State} (h : LeapKept r s) : LeapKept r (s.feStep) := by
  unfold State.feStep
  refine LeapKept.ite ?_ ?_
  · apply State.modFe_leapkept
    exact h
  · exact h

/-! ### Mtr.lean -/

theorem State.modMtr_leapkept {r s : State} (h : LeapKept r s) (f : Mtr → Mtr) : LeapKept r (s.modMtr f) := by
  unfold State.modMtr
  exact h.upd rfl rfl rfl

theorem State.modPoint_leapkept {r s : State} (h : LeapKept r s) (m : Nat) (f : MtrPoint → MtrPoint) : LeapKept r (s.modPoint m f) := by
  unfold State.modPoint
  apply State.modMtr_leapkept
  exact h

theorem State.modPulse_leapkept {r s : State} (h : LeapKept r s) (o : Nat) (f : MtrPulse → MtrPulse) : LeapKept r (s.modPulse o f) := by
  unfold State.modPulse
  apply State.modMtr_leapkept
  exact h

theorem State.mtrCond_leapkept {r s : State} (h : LeapKept r s) (m : Nat) (k : Nat) : LeapKept r (s.mtrCond m k) := by
  unfold State.mtrCond
  extract_lets x1 x2 x3 x4 x5 x6 x7 x8 x9 x10 x11 x12 x13
  have hx10 : LeapKept r x10 := by
    unfold x10
    apply State.modPoint_leapkept
    exact h
  clear_value x10
  have hx13 : LeapKept r x13 := by
    unfold x13
    apply State.almSend_leapkept
    exact hx10
  clear_value x13
  refine LeapKept.ite ?_ ?_
  · refine LeapKept.ite ?_ ?_
    · apply State.event_leapkept
      exact hx13
    · exact hx13
  · exact hx10

theorem State.pulseAdd_leapkept {r s : State} (h : LeapKept r s) (o : Nat) (imp : Bool) (d : Nat) (start : Nat) (len : Nat) : LeapKept r (s.pulseAdd o imp d start len) := by
  unfold State.pulseAdd
  extract_lets x1 x2 x3 x4 x5 x6 x7 x8
  have hx8 : LeapKept r x8 := by
    unfold x8
    apply State.modPulse_leapkept
    exact h
  clear_value x8
  refine LeapKept.ite ?_ ?_
  · apply State.event_leapkept
    exact hx8
  · exact hx8

theorem State.pulsesAdd_leapkept {r s : State} (h : LeapKept r s) (m : Nat) (d : List Nat) (start : Nat) (len : Nat) : LeapKept r (s.pulsesAdd m d start len) := by
  unfold State.pulsesAdd
  extract_lets x1
  refine LeapKept.foldl ?_ _ ?_
  · intro y3 y4 y5
    extract_lets x7
    refine LeapKept.ite ?_ ?_
    · split
      · apply State.pulseAdd_leapkept
        apply State.pulseAdd_leapkept
        exact y5
      · apply State.pulseAdd_leapkept
        exact y5
      · apply State.pulseAdd_leapkept
        exact y5
      · apply State.pulseAdd_leapkept
        exact y5
    · exact y5
  · exact h

theorem State.energyAdd_leapkept {r s : State} (h : LeapKept r s) (m : Nat) (d : List Nat) (start : Nat) (len : Nat) : LeapKept r (s.energyAdd m d start len) := by
  unfold State.energyAdd
  extract_lets x1 x2 x3
  have hx2 : LeapKept r x2 := by
    unfold x2
    apply State.modPoint_leapkept
    exact h
  clear_value x2
  have hx3 : LeapKept r x3 := by
    unfold x3
    refine LeapKept.ite ?_ ?_
    · apply State.event_leapkept
      exact hx2
    · exact hx2
  clear_value x3
  apply State.pulsesAdd_leapkept
  exact hx3

theorem State.netEnd_leapkept {r s : State} (h : LeapKept r s) (m : Nat) (start : Nat) (len : Nat) : LeapKept r (s.netEnd m start len) := by
  unfold State.netEnd
  extract_lets x1
  apply State.modPoint_leapkept
  apply State.energyAdd_leapkept
  exact h

theorem State.secondEnd_leapkept {r s : State} (h : LeapKept r s) (m : Nat) : LeapKept r (s.secondEnd m) := by
  unfold State.secondEnd
  apply State.modPoint_leapkept
  exact h

theorem State.mtrCompare_leapkept {r s : State} (h : LeapKept r s) (m : Nat) (end_ : Nat) : LeapKept r (s.mtrCompare m end_) := by
  unfold State.mtrCompare
  extract_lets x1 x2
  split
  · refine LeapKept.ite ?_ ?_
    · apply State.count_leapkept
      apply State.event_leapkept
      exact h
    · exact h
  · exact h

theorem State.mtrMirror_leapkept {r s : State} (h : LeapKept r s) (m : Nat) (body : List Byte) : LeapKept r (s.mtrMirror m body) := by
  unfold State.mtrMirror
  extract_lets x1 x2 x3 x4 x5
  have hx5 : LeapKept r x5 := by
    unfold x5
    exact h.upd rfl rfl rfl
  clear_value x5
  apply State.mtrCompare_leapkept
  apply State.mirrorItem_leapkept
  exact hx5

theorem State.mtrRecordWrite_leapkept {r s : State} (h : LeapKept r s) (m : Nat) (body : List Byte) (sig : Option (List Byte)) : LeapKept r (s.mtrRecordWrite m body sig) := by
  unfold State.mtrRecordWrite
  extract_lets x1 x2 x3 x4 x5 x6 x7 x8 x9 x10 x11
  have hx1 : LeapKept r x1 := by
    unfold x1
    split
    · exact h
    · apply State.count_leapkept
      apply State.event_leapkept
      exact h
  clear_value x1
  have hx5 : LeapKept r x5 := by
    unfold x5
    apply State.modMtr_leapkept
    apply State.dramWrite_leapkept
    exact hx1
  clear_value x5
  have hx6 : LeapKept r x6 := by
    unfold x6
    refine LeapKept.ite ?_ ?_
    · refine LeapKept.ite ?_ ?_
      · apply State.event_leapkept
        exact hx5
      · exact hx5
    · exact hx1
  clear_value x6
  have hx9 : LeapKept r x9 := by
    unfold x9
    exact hx6.upd rfl rfl rfl
  clear_value x9
  have hx10 : LeapKept r x10 := by
    unfold x10
    refine LeapKept.ite ?_ ?_
    · apply State.deliver_leapkept
      exact hx9
    · exact hx9
  clear_value x10
  have hx11 : LeapKept r x11 := by
    unfold x11
    apply State.mtrMirror_leapkept
    exact hx10
  clear_value x11
  apply State.count_leapkept
  apply State.event_leapkept
  exact hx11

theorem State.intervalEnd_leapkept {r s : State} (h : LeapKept r s) (m : Nat) (end_ : Nat) (partialEnd : Bool) (partialNext : Bool) : LeapKept r (s.intervalEnd m end_ partialEnd partialNext) := by
  unfold State.intervalEnd
  extract_lets x1 x2 x3 x4 x5 x6 x7
  have hx4 : LeapKept r x4 := by
    unfold x4
    apply State.modPoint_leapkept
    exact h
  clear_value x4
  have hx5 : LeapKept r x5 := by
    unfold x5
    refine LeapKept.ite ?_ ?_
    · apply State.almSend_leapkept
      apply State.modMtr_leapkept
      exact hx4
    · exact hx4
  clear_value x5
  have hx6 : LeapKept r x6.1 := by
    unfold x6
    apply State.requestSign_leapkept
    exact hx5
  clear_value x6
  have hx7 : LeapKept r x7 := by
    unfold x7
    refine LeapKept.ite ?_ ?_
    · apply State.event_leapkept
      apply State.count_leapkept
      exact h
    · refine LeapKept.ite ?_ ?_
      · exact hx6
      · apply State.mtrRecordWrite_leapkept
        exact hx6
  clear_value x7
  apply State.modPoint_leapkept
  exact hx7

theorem State.backupSave_leapkept {r s : State} (h : LeapKept r s) (pfw : Bool) : LeapKept r (s.backupSave pfw) := by
  unfold State.backupSave
  extract_lets x1 x2 x3 x4 x5
  have hx5 : LeapKept r x5 := by
    unfold x5
    exact h.upd rfl rfl rfl
  clear_value x5
  apply State.count_leapkept
  exact hx5

theorem State.periodicSaves_leapkept {r s : State} (h : LeapKept r s) (force : Bool) : LeapKept r (s.periodicSaves force) := by
  unfold State.periodicSaves
  extract_lets x1 x2 x3
  have hx2 : LeapKept r x2 := by
    unfold x2
    refine LeapKept.ite ?_ ?_
    · apply State.backupSave_leapkept
      exact h
    · exact h
  clear_value x2
  refine LeapKept.ite ?_ ?_
  · apply State.modMtr_leapkept
    exact hx2
  · exact hx2

theorem State.outageFix_leapkept {r s : State} (h : LeapKept r s) (open_ : Nat) : LeapKept r (s.outageFix open_) := by
  unfold State.outageFix
  refine LeapKept.ite ?_ ?_
  · apply State.modMtr_leapkept
    apply State.setReg_leapkept
    exact h
  · exact h

theorem State.netClose_leapkept {r s : State} (h : LeapKept r s) (m : Nat) (start : Nat) : LeapKept r (s.netClose m start) := by
  unfold State.netClose
  split
  · apply State.netEnd_leapkept
    exact h
  · apply State.netEnd_leapkept
    exact h
  · exact h

theorem State.pointInterval_leapkept {r s : State} (h : LeapKept r s) (m : Nat) (cyc : MtrCyc) : LeapKept r (s.pointInterval m cyc) := by
  unfold State.pointInterval
  extract_lets x1 x2 x3 x4 x5
  have hx5 : LeapKept r x5 := by
    unfold x5
    refine LeapKept.ite ?_ ?_
    · apply State.netClose_leapkept
      exact h
    · exact h
  clear_value x5
  refine LeapKept.ite ?_ ?_
  · apply State.modPoint_leapkept
    exact hx5
  · refine LeapKept.ite ?_ ?_
    · exact hx5
    · apply State.modPoint_leapkept
      apply State.intervalEnd_leapkept
      exact hx5

theorem State.pointSecond_leapkept {r s : State} (h : LeapKept r s) (m : Nat) (cyc : MtrCyc) : LeapKept r (s.pointSecond m cyc) := by
  unfold State.pointSecond
  apply State.modPoint_leapkept
  exact h

theorem State.pointEnergy_leapkept {r s : State} (h : LeapKept r s) (m : Nat) (cyc : MtrCyc) (q : MtrQuant) : LeapKept r (s.pointEnergy m cyc q) := by
  unfold State.pointEnergy
  extract_lets x1 x2 x3 x4
  refine LeapKept.ite ?_ ?_
  · exact h
  · refine LeapKept.ite ?_ ?_
    · apply State.energyAdd_leapkept
      exact h
    · apply State.modPoint_leapkept
      exact h

theorem State.pointEnds_leapkept {r s : State} (h : LeapKept r s) (m : Nat) (cyc : MtrCyc) : LeapKept r (s.pointEnds m cyc) := by
  unfold State.pointEnds
  extract_lets x1 x2 x3 x4 x5 x6 x7
  have hx6 : LeapKept r x6 := by
    unfold x6
    refine LeapKept.ite ?_ ?_
    · apply State.netClose_leapkept
      exact h
    · exact h
  clear_value x6
  have hx7 : LeapKept r x7 := by
    unfold x7
    refine LeapKept.ite ?_ ?_
    · apply State.secondEnd_leapkept
      exact hx6
    · exact hx6
  clear_value x7
  refine LeapKept.ite ?_ ?_
  · apply State.intervalEnd_leapkept
    exact hx7
  · exact hx7

theorem State.pointGap_leapkept {r s : State} (h : LeapKept r s) (m : Nat) (cyc : MtrCyc) : LeapKept r (s.pointGap m cyc) := by
  unfold State.pointGap
  extract_lets x1
  refine LeapKept.ite ?_ ?_
  · apply State.secondEnd_leapkept
    refine LeapKept.ite ?_ ?_
    · apply State.netClose_leapkept
      exact h
    · exact h
  · exact h

theorem State.pointAccumulate_leapkept {r s : State} (h : LeapKept r s) (m : Nat) (cyc : MtrCyc) (q : MtrQuant) : LeapKept r (s.pointAccumulate m cyc q) := by
  unfold State.pointAccumulate
  apply State.pointEnds_leapkept
  apply State.pointEnergy_leapkept
  apply State.pointSecond_leapkept
  apply State.pointInterval_leapkept
  apply State.pointGap_leapkept
  apply State.outageFix_leapkept
  exact h

theorem State.intervalCut_leapkept {r s : State} (h : LeapKept r s) (m : Nat) (mark : Nat) : LeapKept r (s.intervalCut m mark) := by
  unfold State.intervalCut
  extract_lets x1
  have hx1 : LeapKept r x1 := by
    unfold x1
    apply State.secondEnd_leapkept
    apply State.netClose_leapkept
    exact h
  clear_value x1
  refine LeapKept.ite ?_ ?_
  · apply State.intervalEnd_leapkept
    exact hx1
  · exact hx1

theorem State.pointReset_leapkept {r s : State} (h : LeapKept r s) (m : Nat) (mark : Nat) : LeapKept r (s.pointReset m mark) := by
  unfold State.pointReset
  extract_lets x1
  have hx1 : LeapKept r x1 := by
    unfold x1
    refine LeapKept.ite ?_ ?_
    · apply State.intervalCut_leapkept
      exact h
    · exact h
  clear_value x1
  refine LeapKept.ite ?_ ?_
  · apply State.logRaise_leapkept
    apply State.modPoint_leapkept
    exact hx1
  · exact h

theorem State.mtrAdopt_leapkept {r s : State} (h : LeapKept r s) (mark : Nat) : LeapKept r (s.mtrAdopt mark) := by
  unfold State.mtrAdopt
  extract_lets x1 x2 x3 x4
  have hx4 : LeapKept r x4 := by
    unfold x4
    refine LeapKept.foldl ?_ _ ?_
    · intro y5 y6 y7
      refine LeapKept.ite ?_ ?_
      · apply State.intervalCut_leapkept
        exact y7
      · exact y7
    · exact h
  clear_value x4
  refine LeapKept.ite ?_ ?_
  · exact h
  · apply State.modMtr_leapkept
    exact hx4

theorem State.cycleMeasure_leapkept {r s : State} (h : LeapKept r s) (cyc : MtrCyc) : LeapKept r (s.cycleMeasure cyc) := by
  unfold State.cycleMeasure
  extract_lets x1 x2
  have hx2 : LeapKept r x2 := by
    unfold x2
    refine LeapKept.foldl ?_ _ ?_
    · intro y4 y5 y6
      extract_lets x8 x9 x10 x11
      have hx9 : LeapKept r x9 := by
        unfold x9
        apply State.modPoint_leapkept
        exact y6
      clear_value x9
      have hx11 : LeapKept r x11 := by
        unfold x11
        refine LeapKept.foldl ?_ _ ?_
        · intro y15 y16 y17
          refine LeapKept.ite ?_ ?_
          · apply State.setReg_leapkept
            exact y17
          · exact y17
        · exact hx9
      clear_value x11
      refine LeapKept.ite ?_ ?_
      · refine LeapKept.foldl ?_ _ ?_
        · intro y25 y26 y27
          apply State.mtrCond_leapkept
          exact y27
        · exact hx11
      · exact y6
    · exact h
  clear_value x2
  apply State.count_leapkept
  exact hx2

theorem State.cycleAccumulate_leapkept {r s : State} (h : LeapKept r s) (cyc : MtrCyc) (first : Bool) : LeapKept r (s.cycleAccumulate cyc first) := by
  unfold State.cycleAccumulate
  extract_lets x1 x2
  have hx1 : LeapKept r x1 := by
    unfold x1
    refine LeapKept.foldl ?_ _ ?_
    · intro y4 y5 y6
      refine LeapKept.ite ?_ ?_
      · apply State.pointAccumulate_leapkept
        exact y6
      · exact y6
    · exact h
  clear_value x1
  have hx2 : LeapKept r x2 := by
    unfold x2
    apply State.modMtr_leapkept
    exact hx1
  clear_value x2
  apply State.mtrAdopt_leapkept
  refine LeapKept.foldl ?_ _ ?_
  · intro y16 y17 y18
    apply State.pointReset_leapkept
    exact y18
  · exact hx2

theorem State.cycleHandle_leapkept {r s : State} (h : LeapKept r s) (cyc : MtrCyc) : LeapKept r (s.cycleHandle cyc) := by
  unfold State.cycleHandle
  extract_lets x1 x2 x3
  have hx2 : LeapKept r x2 := by
    unfold x2
    apply State.cycleMeasure_leapkept
    exact h
  clear_value x2
  have hx3 : LeapKept r x3 := by
    unfold x3
    refine LeapKept.ite ?_ ?_
    · apply State.modMtr_leapkept
      exact hx2
    · apply State.periodicSaves_leapkept
      apply State.cycleAccumulate_leapkept
      exact hx2
  clear_value x3
  apply State.modMtr_leapkept
  exact hx3

theorem State.mtrFreeze_leapkept {r s : State} (h : LeapKept r s) : LeapKept r (s.mtrFreeze) := by
  unfold State.mtrFreeze
  extract_lets x1
  have hx1 : LeapKept r x1 := by
    unfold x1
    refine LeapKept.foldl ?_ _ ?_
    · intro y3 y4 y5
      apply State.cycleHandle_leapkept
      exact y5
    · apply State.modMtr_leapkept
      exact h
  clear_value x1
  refine LeapKept.ite ?_ ?_
  · apply State.modMtr_leapkept
    apply State.backupSave_leapkept
    exact hx1
  · exact h

theorem State.mtrRefuseEnd_leapkept {r s : State} (h : LeapKept r s) : LeapKept r (s.mtrRefuseEnd) := by
  unfold State.mtrRefuseEnd
  refine LeapKept.ite ?_ ?_
  · apply State.modMtr_leapkept
    exact h
  · exact h

/-! ### Pilot.lean -/

theorem State.modPlt_leapkept {r s : State} (h : LeapKept r s) (f : Plt → Plt) : LeapKept r (s.modPlt f) := by
  unfold State.modPlt
  exact h.upd rfl rfl rfl

theorem State.setTask_leapkept {r s : State} (h : LeapKept r s) (i : Nat) (t : Task) : LeapKept r (s.setTask i t) := by
  unfold State.setTask
  apply State.modPlt_leapkept
  exact h

theorem State.freeTask_leapkept {r s : State} (h : LeapKept r s) (i : Nat) : LeapKept r (s.freeTask i) := by
  unfold State.freeTask
  apply State.setTask_leapkept
  exact h

/-! ### TimeBase.lean -/

theorem State.modTb_leapkept {r s : State} (h : LeapKept r s) (f : Tb → Tb) (h1 : ∀ b, (f b).leap = b.leap)
    (h2 : ∀ b, (f b).leapPending = b.leapPending) (h3 : ∀ b, (f b).lastSec = b.lastSec) : LeapKept r (s.modTb f) :=
  h.upd (h1 _) (h2 _) (h3 _)

theorem State.tbEvent_leapkept {r s : State} (h : LeapKept r s) (b : Nat) : LeapKept r (s.tbEvent b) := by
  unfold State.tbEvent
  apply State.logRaise_leapkept
  apply State.event_leapkept
  exact h

theorem State.tbAlarm_leapkept {r s : State} (h : LeapKept r s) (kind : Nat) (on : Bool) : LeapKept r (s.tbAlarm kind on) := by
  unfold State.tbAlarm
  apply State.almSend_leapkept
  exact h

theorem State.setDt_leapkept {r s : State} (h : LeapKept r s) (st : DtSt) : LeapKept r (s.setDt st) := by
  unfold State.setDt
  extract_lets x1 x2 x3 x4 x5
  have hx2 : LeapKept r x2 := by
    unfold x2
    apply State.tbEvent_leapkept
    apply State.modTb_leapkept
    · exact h
    · intro y9
      rfl
    · intro y10
      rfl
    · intro y11
      rfl
  clear_value x2
  have hx3 : LeapKept r x3 := by
    unfold x3
    refine LeapKept.ite ?_ ?_
    · exact hx2
    · apply State.tbAlarm_leapkept
      exact hx2
  clear_value x3
  have hx5 : LeapKept r x5 := by
    unfold x5
    refine LeapKept.ite ?_ ?_
    · exact hx3
    · apply State.tbAlarm_leapkept
      exact hx3
  clear_value x5
  refine LeapKept.ite ?_ ?_
  · exact h
  · refine LeapKept.ite ?_ ?_
    · apply State.event_leapkept
      apply State.modTb_leapkept
      · exact hx5
      · intro y26
        rfl
      · intro y27
        rfl
      · intro y28
        rfl
    · exact hx5

/-- What a step of DT leaves of the leap-second table; the last whole second may come again where there is no grid. -/
theorem State.dtStep_leap (s : State) (d : Int) :
    (s.dtStep d).tb.leap = s.tb.leap ∧ (s.dtStep d).tb.leapPending = s.tb.leapPending ∧
    (s.dtStep d).tb.lastSec = (if s.tb.grid.rate = 0 then min s.tb.lastSec (secOf (movedBy d s.dt)) else s.tb.lastSec) := by
  have k : LeapKept ((({ s with dt := movedBy d s.dt, mac := s.mac.moved d } : State).modTb fun t => { t with
      src := t.src.map fun x => x.moved d, stepSince := true, slewing := false
      lastSec := if t.grid.rate = 0 then min t.lastSec (secOf (movedBy d s.dt)) else t.lastSec
      lateTo := if 0 < d then movedBy d s.dt else min t.lateTo (movedBy d s.dt) })) (s.dtStep d) := by
    unfold State.dtStep
    apply State.feStep_leapkept
    apply State.tbEvent_leapkept
    apply State.count32_leapkept
    exact LeapKept.refl _
  exact ⟨k.tb_leap, k.tb_leapPending, k.tb_lastSec⟩

/-- A pending time set leaves the leap-second table, and moves the last whole second only where there is no grid. -/
theorem State.applySet_leap (s : State) :
    (s.applySet).tb.leap = s.tb.leap ∧ (s.applySet).tb.leapPending = s.tb.leapPending ∧
    (s.tb.setPending = none ∨ s.tb.grid.rate ≠ 0 → (s.applySet).tb.lastSec = s.tb.lastSec) := by
  unfold State.applySet
  split
  next d e =>
    have k := State.dtStep_leap (s.modTb fun t => { t with setPending := none, secsSet := true }) d
    refine ⟨k.1, k.2.1, fun h => k.2.2.trans (if_neg ?_)⟩
    rcases h with h | h
    · rw [e] at h; cases h
    · exact h
  next => exact ⟨rfl, rfl, fun _ => rfl⟩

theorem State.leapMoment_leapkept {r s : State} (h : LeapKept r s) (sec : Nat) : LeapKept r (s.leapMoment sec) := by
  unfold State.leapMoment
  refine LeapKept.ite ?_ ?_
  · apply State.tbEvent_leapkept
    exact h
  · exact h

theorem State.holdCheck_leapkept {r s : State} (h : LeapKept r s) : LeapKept r (s.holdCheck) := by
  unfold State.holdCheck
  refine LeapKept.ite ?_ ?_
  · apply State.setDt_leapkept
    exact h
  · exact h

theorem State.holdGrow_leapkept {r s : State} (h : LeapKept r s) : LeapKept r (s.holdGrow) := by
  unfold State.holdGrow
  refine LeapKept.ite ?_ ?_
  · apply State.holdCheck_leapkept
    apply State.modTb_leapkept
    · exact h
    · intro y1
      rfl
    · intro y2
      rfl
    · intro y3
      rfl
  · exact h

/-! ### Intake.lean -/

theorem State.modBin_leapkept {r s : State} (h : LeapKept r s) (f : Bin → Bin) : LeapKept r (s.modBin f) := by
  unfold State.modBin
  exact h.upd rfl rfl rfl

theorem State.dirRetire_leapkept {r s : State} (h : LeapKept r s) : LeapKept r (s.dirRetire) := by
  unfold State.dirRetire
  split
  · refine LeapKept.ite ?_ ?_
    · apply State.modBin_leapkept
      exact h
    · exact h
  · exact h

theorem State.dirApplyAt_leapkept {r s : State} (h : LeapKept r s) (t : Nat) : LeapKept r (s.dirApplyAt t) := by
  unfold State.dirApplyAt
  split
  · extract_lets x1
    have hx1 : LeapKept r x1 := by
      unfold x1
      apply State.event_leapkept
      apply State.modBin_leapkept
      exact h
    clear_value x1
    refine LeapKept.ite ?_ ?_
    · apply State.dirRetire_leapkept
      apply State.setReg_leapkept
      exact hx1
    · exact h
  · exact h

/-! ### Quay.lean -/

theorem State.modAln_leapkept {r s : State} (h : LeapKept r s) (f : Aln → Aln) : LeapKept r (s.modAln f) := by
  unfold State.modAln
  exact h.upd rfl rfl rfl

theorem State.modQuay_leapkept {r s : State} (h : LeapKept r s) (seq : Nat) (f : Quay → Quay) : LeapKept r (s.modQuay seq f) := by
  unfold State.modQuay
  apply State.modAln_leapkept
  exact h

theorem State.modDet_leapkept {r s : State} (h : LeapKept r s) (seq : Nat) (d : Nat) (f : Det → Det) : LeapKept r (s.modDet seq d f) := by
  unfold State.modDet
  apply State.modQuay_leapkept
  exact h

theorem State.dramRegion_leapkept {r s : State} (h : LeapKept r s) (base : Nat) (len : Nat) (cells : List (Nat × Byte)) : LeapKept r (s.dramRegion base len cells) := by
  unfold State.dramRegion
  exact h.upd rfl rfl rfl

theorem State.quayStore_leapkept {r s : State} (h : LeapKept r s) (q : Quay) : LeapKept r (s.quayStore q) := by
  unfold State.quayStore
  apply State.dramRegion_leapkept
  exact h

/-! ### Align.lean -/

theorem State.alnNote_leapkept {r s : State} (h : LeapKept r s) : LeapKept r (s.alnNote) := by
  unfold State.alnNote
  refine LeapKept.ite ?_ ?_
  · refine LeapKept.ite ?_ ?_
    · apply State.modAln_leapkept
      exact h
    · exact h
  · apply State.modAln_leapkept
    exact h

theorem State.alnRaise_leapkept {r s : State} (h : LeapKept r s) (d : Nat) (kind : Nat) (seq : Nat) : LeapKept r (s.alnRaise d kind seq) := by
  unfold State.alnRaise
  extract_lets x1
  have hx1 : LeapKept r x1 := by
    unfold x1
    apply State.almSend_leapkept
    exact h
  clear_value x1
  refine LeapKept.ite ?_ ?_
  · apply State.capNotice_leapkept
    exact hx1
  · exact hx1

theorem State.snapshot_leapkept {r s : State} (h : LeapKept r s) (seq : Nat) (d : Nat) : LeapKept r (s.snapshot seq d) := by
  unfold State.snapshot
  split
  · extract_lets x2
    refine LeapKept.ite ?_ ?_
    · exact h
    · apply State.modDet_leapkept
      exact h
  · exact h

theorem State.withdrawOf_leapkept {r s : State} (h : LeapKept r s) (owner : Nat) (p : Nat → Nat → Bool) : LeapKept r (s.withdrawOf owner p) := by
  unfold State.withdrawOf
  extract_lets x1
  have hx1 : LeapKept r x1 := by
    unfold x1
    apply State.modPlt_leapkept
    exact h
  clear_value x1
  refine LeapKept.foldl ?_ _ ?_
  · intro y2 y3 y4
    apply State.freeTask_leapkept
    exact y4
  · exact hx1

theorem State.withdraw_leapkept {r s : State} (h : LeapKept r s) (seq : Nat) (d : Nat) : LeapKept r (s.withdraw seq d) := by
  unfold State.withdraw
  apply State.withdrawOf_leapkept
  exact h

theorem State.alnNotice_leapkept {r s : State} (h : LeapKept r s) (q : Quay) (d : Nat) (o : Nat) : LeapKept r (s.alnNotice q d o) := by
  unfold State.alnNotice
  apply State.almSend_leapkept
  exact h

theorem State.settleDoneCheck_leapkept {r s : State} (h : LeapKept r s) (seq : Nat) : LeapKept r (s.settleDoneCheck seq) := by
  unfold State.settleDoneCheck
  split
  · refine LeapKept.ite ?_ ?_
    · apply State.modQuay_leapkept
      exact h
    · exact h
  · exact h

theorem State.detFinish_leapkept {r s : State} (h : LeapKept r s) (seq : Nat) (d : Nat) (o : Nat) : LeapKept r (s.detFinish seq d o) := by
  unfold State.detFinish
  split
  · exact h
  · extract_lets x3 x4
    have hx3 : LeapKept r x3 := by
      unfold x3
      apply State.modDet_leapkept
      exact h
    clear_value x3
    have hx4 : LeapKept r x4 := by
      unfold x4
      split
      · apply State.count_leapkept
        exact hx3
      · apply State.count_leapkept
        exact hx3
      · apply State.count_leapkept
        exact hx3
      · apply State.alnRaise_leapkept
        apply State.event_leapkept
        apply State.count_leapkept
        exact hx3
      · apply State.alnRaise_leapkept
        apply State.event_leapkept
        apply State.count_leapkept
        exact hx3
      · exact hx3
    clear_value x4
    apply State.settleDoneCheck_leapkept
    apply State.alnNotice_leapkept
    exact hx4

/-! ### Osc.lean -/

theorem State.modOsc_leapkept {r s : State} (h : LeapKept r s) (f : Osc → Osc) : LeapKept r (s.modOsc f) := by
  unfold State.modOsc
  exact h.upd rfl rfl rfl

theorem State.oscBases_leapkept {r s : State} (h : LeapKept r s) (seq : Nat) : LeapKept r (s.oscBases seq) := by
  unfold State.oscBases
  split
  · apply State.modOsc_leapkept
    exact h
  · exact h

theorem State.takeSnapshot_leapkept {r s : State} (h : LeapKept r s) (seq : Nat) (d : Nat) : LeapKept r (s.takeSnapshot seq d) := by
  unfold State.takeSnapshot
  extract_lets x1
  have hx1 : LeapKept r x1 := by
    unfold x1
    apply State.snapshot_leapkept
    exact h
  clear_value x1
  split
  · refine LeapKept.ite ?_ ?_
    · exact h
    · refine LeapKept.ite ?_ ?_
      · apply State.oscBases_leapkept
        exact hx1
      · exact hx1
  · exact h

theorem State.oscStaleNote_leapkept {r s : State} (h : LeapKept r s) : LeapKept r (s.oscStaleNote) := by
  unfold State.oscStaleNote
  refine LeapKept.ite ?_ ?_
  · apply State.event_leapkept
    exact h
  · exact h

/-! ### Isl.lean -/

theorem State.modIsl_leapkept {r s : State} (h : LeapKept r s) (f : Isl → Isl) : LeapKept r (s.modIsl f) := by
  unfold State.modIsl
  exact h.upd rfl rfl rfl

theorem State.islSnapshot_leapkept {r s : State} (h : LeapKept r s) (seq : Nat) : LeapKept r (s.islSnapshot seq) := by
  unfold State.islSnapshot
  split
  · refine LeapKept.ite ?_ ?_
    · exact h
    · apply State.modIsl_leapkept
      apply State.snapshot_leapkept
      exact h
  · exact h

theorem State.islStaleNote_leapkept {r s : State} (h : LeapKept r s) : LeapKept r (s.islStaleNote) := by
  unfold State.islStaleNote
  refine LeapKept.ite ?_ ?_
  · apply State.event_leapkept
    exact h
  · exact h

theorem State.detRoute_leapkept {r s : State} (h : LeapKept r s) (q : Quay) (d : Nat) (o : Nat) : LeapKept r (s.detRoute q d o) := by
  unfold State.detRoute
  extract_lets x1 x2 x3 x4 x5
  have hx1 : LeapKept r x1 := by
    unfold x1
    apply State.modDet_leapkept
    exact h
  clear_value x1
  have hx2 : LeapKept r x2 := by
    unfold x2
    refine LeapKept.ite ?_ ?_
    · apply State.withdraw_leapkept
      exact hx1
    · exact hx1
  clear_value x2
  have hx4 : LeapKept r x4 := by
    unfold x4
    apply State.modOsc_leapkept
    exact hx2
  clear_value x4
  have hx5 : LeapKept r x5 := by
    unfold x5
    apply State.modIsl_leapkept
    exact hx2
  clear_value x5
  refine LeapKept.ite ?_ ?_
  · refine LeapKept.ite ?_ ?_
    · apply State.detFinish_leapkept
      exact hx2
    · refine LeapKept.ite ?_ ?_
      · refine LeapKept.foldl ?_ _ ?_
        · intro y22 y23 y24
          apply State.wantTask_leapkept
          exact y24
        · exact hx4
      · exact hx4
  · refine LeapKept.ite ?_ ?_
    · refine LeapKept.ite ?_ ?_
      · apply State.detFinish_leapkept
        exact hx2
      · refine LeapKept.ite ?_ ?_
        · apply State.wantTask_leapkept
          exact hx5
        · exact hx5
    · apply State.detFinish_leapkept
      exact hx2

theorem State.detSettle_leapkept {r s : State} (h : LeapKept r s) (seq : Nat) : LeapKept r (s.detSettle seq) := by
  unfold State.detSettle
  refine LeapKept.foldl ?_ _ ?_
  · intro y1 y2 y3
    split
    · refine LeapKept.ite ?_ ?_
      · exact y3
      · split
        · apply State.detRoute_leapkept
          exact y3
        · exact y3
    · exact y3
  · exact h

theorem State.detSettleAll_leapkept {r s : State} (h : LeapKept r s) : LeapKept r (s.detSettleAll) := by
  unfold State.detSettleAll
  refine LeapKept.foldl ?_ _ ?_
  · intro y1 y2 y3
    apply State.detSettle_leapkept
    exact y3
  · exact h

/-! ### Alarm.lean -/

theorem State.modAlm_leapkept {r s : State} (h : LeapKept r s) (f : Alm → Alm) : LeapKept r (s.modAlm f) := by
  unfold State.modAlm
  exact h.upd rfl rfl rfl

theorem State.pinDrive_leapkept {r s : State} (h : LeapKept r s) (p : Nat) : LeapKept r (s.pinDrive p) := by
  unfold State.pinDrive
  extract_lets x1 x2 x3 x4
  have hx4 : LeapKept r x4 := by
    unfold x4
    apply State.modAlm_leapkept
    exact h
  clear_value x4
  refine LeapKept.ite ?_ ?_
  · exact hx4
  · apply State.setTs_leapkept
    exact hx4

theorem State.pinsDrive_leapkept {r s : State} (h : LeapKept r s) : LeapKept r (s.pinsDrive) := by
  unfold State.pinsDrive
  refine LeapKept.ite ?_ ?_
  · exact h
  · refine LeapKept.foldl ?_ _ ?_
    · intro y3 y4 y5
      apply State.pinDrive_leapkept
      exact y5
    · exact h

/-! ### Compose.lean -/

theorem State.modStr_leapkept {r s : State} (h : LeapKept r s) (n : Nat) (f : OutStream → OutStream) : LeapKept r (s.modStr n f) := by
  unfold State.modStr
  extract_lets x1
  exact h.upd rfl rfl rfl

theorem State.outCompose_leapkept {r s : State} (h : LeapKept r s) (n : Nat) (q : Quay) (set : CfgSet) : LeapKept r (s.outCompose n q set) := by
  unfold State.outCompose
  extract_lets x1 x2 x3 x4 x5 x6 x7 x8 x9 x10 x11 x12 x13 x14
  have hx6 : LeapKept r x6 := by
    unfold x6
    apply State.mirrorItem_leapkept
    exact h
  clear_value x6
  have hx10 : LeapKept r x10 := by
    unfold x10
    refine LeapKept.foldl ?_ _ ?_
    · intro y18 y19 y20
      extract_lets x22 x23
      apply State.freshNext_leapkept
      apply State.offer_leapkept
      exact y20
    · exact hx6
  clear_value x10
  have hx11 : LeapKept r x11 := by
    unfold x11
    apply State.countBy_leapkept
    apply State.count_leapkept
    exact hx10
  clear_value x11
  have hx12 : LeapKept r x12 := by
    unfold x12
    refine LeapKept.ite ?_ ?_
    · apply State.event_leapkept
      apply State.count_leapkept
      exact hx11
    · exact hx11
  clear_value x12
  have hx13 : LeapKept r x13 := by
    unfold x13
    refine LeapKept.ite ?_ ?_
    · apply State.event_leapkept
      exact hx12
    · exact hx12
  clear_value x13
  have hx14 : LeapKept r x14 := by
    unfold x14
    refine LeapKept.ite ?_ ?_
    · apply State.event_leapkept
      apply State.count_leapkept
      exact hx13
    · exact hx13
  clear_value x14
  apply State.modStr_leapkept
  exact hx14

theorem State.composeStage_leapkept {r s : State} (h : LeapKept r s) (q : Quay) (settled : Bool) : LeapKept r (s.composeStage q settled) := by
  unfold State.composeStage
  extract_lets x1
  refine LeapKept.foldl ?_ _ ?_
  · intro y3 y4 y5
    extract_lets x7 x8
    refine LeapKept.ite ?_ ?_
    · apply State.outCompose_leapkept
      exact y5
    · exact y5
  · exact h

theorem State.lateAfterSend_leapkept {r s : State} (h : LeapKept r s) (q : Quay) : LeapKept r (s.lateAfterSend q) := by
  unfold State.lateAfterSend
  extract_lets x1
  refine LeapKept.foldl ?_ _ ?_
  · intro y3 y4 y5
    extract_lets x7
    have hx7 : LeapKept r x7 := by
      unfold x7
      apply State.modStr_leapkept
      exact y5
    clear_value x7
    split
    · extract_lets x12
      refine LeapKept.ite ?_ ?_
      · apply State.count_leapkept
        exact hx7
      · exact hx7
    · exact y5
  · exact h

theorem State.composeAfter_leapkept {r s : State} (h : LeapKept r s) (s0 : State) : LeapKept r (s0.composeAfter s) := by
  unfold State.composeAfter
  extract_lets x1 x2 x3 x4
  have hx4 : LeapKept r x4 := by
    unfold x4
    refine LeapKept.foldl ?_ _ ?_
    · intro y6 y7 y8
      apply State.composeStage_leapkept
      exact y8
    · exact h
  clear_value x4
  refine LeapKept.foldl ?_ _ ?_
  · intro y13 y14 y15
    apply State.composeStage_leapkept
    apply State.lateAfterSend_leapkept
    exact y15
  · exact hx4

/-! ### Twin.lean -/

theorem State.report_leapkept {r s : State} (h : LeapKept r s) (src : Nat) (cause : Nat) (master : Nat) (access : Nat) (addr : Nat) : LeapKept r (s.report src cause master access addr) := by
  unfold State.report
  extract_lets x1
  refine LeapKept.ite ?_ ?_
  · exact h
  · exact h.upd rfl rfl rfl

theorem State.twnSave_leapkept {r s : State} (h : LeapKept r s) (ok : Bool) : LeapKept r (s.twnSave ok) := by
  unfold State.twnSave
  extract_lets x1 x2 x3 x4 x5
  have hx5 : LeapKept r x5 := by
    unfold x5
    apply State.freshNext_leapkept
    exact h
  clear_value x5
  refine LeapKept.ite ?_ ?_
  · apply State.count_leapkept
    exact h.upd rfl rfl rfl
  · apply State.report_leapkept
    apply State.event_leapkept
    exact hx5.upd rfl rfl rfl

/-! ### Fault.lean -/

theorem State.modFlt_leapkept {r s : State} (h : LeapKept r s) (f : Flt → Flt) : LeapKept r (s.modFlt f) := by
  unfold State.modFlt
  exact h.upd rfl rfl rfl

theorem State.modBst_leapkept {r s : State} (h : LeapKept r s) (f : Bst → Bst) : LeapKept r (s.modBst f) := by
  unfold State.modBst
  exact h.upd rfl rfl rfl

theorem State.modFltSrc_leapkept {r s : State} (h : LeapKept r s) (i : Nat) (f : FltSrc → FltSrc) : LeapKept r (s.modFltSrc i f) := by
  unfold State.modFltSrc
  apply State.modFlt_leapkept
  exact h

theorem State.capAbortAll_leapkept {r s : State} (h : LeapKept r s) : LeapKept r (s.capAbortAll) := by
  unfold State.capAbortAll
  refine LeapKept.foldl ?_ _ ?_
  · intro y1 y2 y3
    refine LeapKept.ite ?_ ?_
    · apply State.capAbort_leapkept
      exact y3
    · exact y3
  · exact h

theorem State.stopNow_leapkept {r s : State} (h : LeapKept r s) : LeapKept r (s.stopNow) := by
  unfold State.stopNow
  extract_lets x1 x2
  have hx1 : LeapKept r x1 := by
    unfold x1
    apply State.modAlm_leapkept
    exact h
  clear_value x1
  have hx2 : LeapKept r x2 := by
    unfold x2
    apply State.capAbortAll_leapkept
    apply State.mtrFreeze_leapkept
    apply State.alnNote_leapkept
    apply State.setFld_leapkept
    exact hx1
  clear_value x2
  apply State.pinsDrive_leapkept
  apply State.modFlt_leapkept
  exact hx2

theorem State.afterHandover_leapkept {r s : State} (h : LeapKept r s) : LeapKept r (s.afterHandover) := by
  unfold State.afterHandover
  refine LeapKept.ite ?_ ?_
  · exact h
  · refine LeapKept.ite ?_ ?_
    · apply State.stopNow_leapkept
      exact h
    · exact h

theorem State.healPairs_leapkept {r s : State} (h : LeapKept r s) (ok : List Nat) : LeapKept r (s.healPairs ok) := by
  unfold State.healPairs
  refine LeapKept.foldl ?_ _ ?_
  · intro y1 y2 y3
    apply State.modFltSrc_leapkept
    exact y3
  · exact h

theorem State.twnSaveNow_leapkept {r s : State} (h : LeapKept r s) : LeapKept r (s.twnSaveNow) := by
  unfold State.twnSaveNow
  apply State.twnSave_leapkept
  apply State.freshNext_leapkept
  exact h

theorem State.flashFail_leapkept {r s : State} (h : LeapKept r s) : LeapKept r (s.flashFail) := by
  unfold State.flashFail
  apply State.report_leapkept
  apply State.event_leapkept
  exact h

theorem State.unitFault_leapkept {r s : State} (h : LeapKept r s) (n : Nat) : LeapKept r (s.unitFault n) := by
  unfold State.unitFault
  apply State.report_leapkept
  exact h

theorem State.mtrFlashWrite_leapkept {r s : State} (h : LeapKept r s) (v : MtrSave) (ok : Bool) : LeapKept r (s.mtrFlashWrite v ok) := by
  unfold State.mtrFlashWrite
  extract_lets x1 x2
  have hx1 : LeapKept r x1 := by
    unfold x1
    apply State.freshNext_leapkept
    exact h
  clear_value x1
  have hx2 : LeapKept r x2 := by
    unfold x2
    exact hx1.upd rfl rfl rfl
  clear_value x2
  refine LeapKept.ite ?_ ?_
  · apply State.count_leapkept
    apply State.modMtr_leapkept
    exact h.upd rfl rfl rfl
  · apply State.flashFail_leapkept
    apply State.unitFault_leapkept
    apply State.event_leapkept
    apply State.modMtr_leapkept
    exact hx2

theorem State.mtrShutdownSave_leapkept {r s : State} (h : LeapKept r s) : LeapKept r (s.mtrShutdownSave) := by
  unfold State.mtrShutdownSave
  refine LeapKept.ite ?_ ?_
  · apply State.mtrFlashWrite_leapkept
    apply State.freshNext_leapkept
    exact h
  · exact h

theorem State.shutdownGo_leapkept {r s : State} (h : LeapKept r s) : LeapKept r (s.shutdownGo) := by
  unfold State.shutdownGo
  refine LeapKept.ite ?_ ?_
  · apply State.pinsDrive_leapkept
    apply State.modBst_leapkept
    apply State.stopNow_leapkept
    apply State.twnSaveNow_leapkept
    apply State.mtrShutdownSave_leapkept
    exact h
  · exact h

/-! ### Commit.lean -/

theorem State.staleNotes_leapkept {r s : State} (h : LeapKept r s) : LeapKept r (s.staleNotes) := by
  unfold State.staleNotes
  apply State.islStaleNote_leapkept
  apply State.oscStaleNote_leapkept
  exact h

theorem State.dirAt_leapkept {r s : State} (h : LeapKept r s) (t : Nat) : LeapKept r (s.dirAt t) := by
  unfold State.dirAt
  extract_lets x1
  have hx1 : LeapKept r x1 := by
    unfold x1
    apply State.dirApplyAt_leapkept
    exact h
  clear_value x1
  refine LeapKept.ite ?_ ?_
  · exact hx1
  · apply State.staleNotes_leapkept
    exact hx1

/-! ### Clock.lean -/

theorem State.leapPassed_leapkept {r s : State} (h : LeapKept r s) (from_ : Nat) (sec : Nat) : LeapKept r (s.leapPassed from_ sec) := by
  unfold State.leapPassed
  refine LeapKept.ite ?_ ?_
  · apply State.tbEvent_leapkept
    exact h
  · exact h

theorem State.gridChange_leapkept {r s : State} (h : LeapKept r s) (sec : Nat) : LeapKept r (s.gridChange sec) := by
  unfold State.gridChange
  split
  · apply State.alnNote_leapkept
    apply State.modTb_leapkept
    · exact h
    · intro y4
      rfl
    · intro y5
      rfl
    · intro y6
      rfl
  · exact h

/-! ### After.lean -/

theorem State.oscRebase_leapkept {r s : State} (h : LeapKept r s) (seq : Nat) (g : Nat) : LeapKept r (s.oscRebase seq g) := by
  unfold State.oscRebase
  apply State.modOsc_leapkept
  exact h

theorem State.islRebase_leapkept {r s : State} (h : LeapKept r s) (seq : Nat) : LeapKept r (s.islRebase seq) := by
  unfold State.islRebase
  apply State.modIsl_leapkept
  exact h

theorem State.oscReadFix_leapkept {r s : State} (h : LeapKept r s) (seq : Nat) (g : Nat) (typ : Nat) (qs : List Quay) : LeapKept r (s.oscReadFix seq g typ qs) := by
  unfold State.oscReadFix
  apply State.modOsc_leapkept
  exact h

theorem State.islReadFix_leapkept {r s : State} (h : LeapKept r s) (q : Quay) (typ : Nat) : LeapKept r (s.islReadFix q typ) := by
  unfold State.islReadFix
  apply State.modIsl_leapkept
  exact h

theorem State.taskStarts_leapkept {r s : State} (h : LeapKept r s) (t : Task) : LeapKept r (s.taskStarts t) := by
  unfold State.taskStarts
  split
  · apply State.takeSnapshot_leapkept
    exact h
  · apply State.oscReadFix_leapkept
    apply State.oscRebase_leapkept
    exact h
  · apply State.oscReadFix_leapkept
    exact h
  · apply State.islReadFix_leapkept
    apply State.islSnapshot_leapkept
    exact h
  · apply State.islReadFix_leapkept
    apply State.islRebase_leapkept
    exact h
  · apply State.islReadFix_leapkept
    exact h
  · exact h

theorem State.startSnapshots_leapkept {r s : State} (h : LeapKept r s) (s0 : State) : LeapKept r (s0.startSnapshots s) := by
  unfold State.startSnapshots
  extract_lets x1
  refine LeapKept.foldl ?_ _ ?_
  · intro y2 y3 y4
    apply State.taskStarts_leapkept
    exact y4
  · exact h

theorem State.snapAfter_leapkept {r s : State} (h : LeapKept r s) (qs : List Quay) : LeapKept r (s.snapAfter qs) := by
  unfold State.snapAfter
  refine LeapKept.ite ?_ ?_
  · refine LeapKept.foldl ?_ _ ?_
    · intro y2 y3 y4
      apply State.capSnap_leapkept
      exact y4
    · exact h
  · exact h

theorem State.spillSync_leapkept {r s : State} (h : LeapKept r s) (s0 : State) : LeapKept r (s0.spillSync s) := by
  unfold State.spillSync
  refine LeapKept.foldl ?_ _ ?_
  · intro y1 y2 y3
    apply State.quayStore_leapkept
    exact y3
  · exact h

theorem State.msixSignal_leapkept {r s : State} (h : LeapKept r s) (v : Nat) : LeapKept r (s.msixSignal v) := by
  unfold State.msixSignal
  extract_lets x1 x2
  have hx2 : LeapKept r x2 := by
    unfold x2
    apply State.emit_leapkept
    exact h
  clear_value x2
  refine LeapKept.ite ?_ ?_
  · exact h.upd rfl rfl rfl
  · exact hx2.upd rfl rfl rfl

theorem State.msixAfter_leapkept {r s : State} (h : LeapKept r s) (s0 : State) : LeapKept r (s0.msixAfter s) := by
  unfold State.msixAfter
  extract_lets x1 x2 x3 x4
  have hx2 : LeapKept r x2 := by
    unfold x2
    refine LeapKept.foldl ?_ _ ?_
    · intro y6 y7 y8
      apply State.msixSignal_leapkept
      exact y8
    · exact h
  have hx4 : LeapKept r x4 := by
    unfold x4
    exact hx2.upd rfl rfl rfl
  refine LeapKept.ite ?_ ?_
  · exact hx4
  · refine LeapKept.foldl ?_ _ ?_
    · intro y16 y17 y18
      apply State.msixSignal_leapkept
      exact y18
    · exact hx4

theorem State.copiesStart_leapkept {r s : State} (h : LeapKept r s) : LeapKept r (s.copiesStart) := by
  unfold State.copiesStart
  refine LeapKept.foldl ?_ _ ?_
  · intro y1 y2 y3
    split
    · refine LeapKept.ite ?_ ?_
      · apply State.modQuay_leapkept
        apply State.leaseTake_leapkept
        exact y3
      · exact y3
    · exact y3
  · exact h

theorem State.sealNow_leapkept {r s : State} (h : LeapKept r s) (seq : Nat) : LeapKept r (s.sealNow seq) := by
  unfold State.sealNow
  apply State.modQuay_leapkept
  exact h

theorem State.sealStart_leapkept {r s : State} (h : LeapKept r s) (t : Nat) : LeapKept r (s.sealStart t) := by
  unfold State.sealStart
  refine LeapKept.foldl ?_ _ ?_
  · intro y1 y2 y3
    apply State.sealNow_leapkept
    exact y3
  · exact h

theorem State.sealsAfter_leapkept {r s : State} (h : LeapKept r s) : LeapKept r (s.sealsAfter) := by
  unfold State.sealsAfter
  apply State.copiesStart_leapkept
  refine LeapKept.ite ?_ ?_
  · apply State.sealStart_leapkept
    exact h
  · exact h

theorem State.modEng_leapkept {r s : State} (h : LeapKept r s) (e : Nat) (f : Eng → Eng) : LeapKept r (s.modEng e f) := by
  unfold State.modEng
  apply State.modPlt_leapkept
  exact h

theorem State.rotBegin_leapkept {r s : State} (h : LeapKept r s) : LeapKept r (s.rotBegin) := by
  unfold State.rotBegin
  split
  · refine LeapKept.ite ?_ ?_
    · apply State.modEng_leapkept
      exact h
    · exact h
  · exact h

theorem State.rotAfter_leapkept {r s : State} (h : LeapKept r s) (s0 : State) : LeapKept r (s0.rotAfter s) := by
  unfold State.rotAfter
  split
  · refine LeapKept.ite ?_ ?_
    · apply State.rotBegin_leapkept
      exact h
    · exact h
  · exact h

theorem State.unitsAfter_leapkept {r s : State} (h : LeapKept r s) (s0 : State) : LeapKept r (s0.unitsAfter s) := by
  unfold State.unitsAfter
  extract_lets x1 x2
  have hx1 : LeapKept r x1 := by
    unfold x1
    apply State.sealsAfter_leapkept
    apply State.detSettleAll_leapkept
    apply State.alnNote_leapkept
    apply State.startSnapshots_leapkept
    apply State.rotAfter_leapkept
    exact h
  clear_value x1
  have hx2 : LeapKept r x2 := by
    unfold x2
    apply State.snapAfter_leapkept
    apply State.composeAfter_leapkept
    exact hx1
  clear_value x2
  apply State.spillSync_leapkept
  apply State.mtrRefuseEnd_leapkept
  apply State.shutdownGo_leapkept
  apply State.afterHandover_leapkept
  exact hx2

theorem State.after_leapkept {r s : State} (h : LeapKept r s) (s0 : State) : LeapKept r (s0.after s) := by
  unfold State.after
  apply State.msixAfter_leapkept
  apply State.pwrAfter_leapkept
  apply State.unitsAfter_leapkept
  exact h

end Sys2Proof.Machine
end

