-- ==== Sys2Proof/Laws/Manifests.lean ====
section
/-! SUPPORT. What a row that carries out a manifest does: the two cases of State.runManifest (R431, R433), stated once, so that a
proof about a manifest command cites them and does not unfold the search of the ring pair. -/

namespace Sys2Proof.Machine

/-- The manifest a ring pair starts is carried out on the state in which it is marked as started. -/
theorem State.runManifest_starts {s : State} {n op : Nat} {m : Fetched} (h : s.Starts n op m)
    (f : Nat → List Byte → State → State) : s.runManifest n op f = f m.mid m.bytes (s.start n m.mid) := by
  obtain ⟨h1, h2, h3, h4⟩ := h
  simp [State.runManifest, h1, h2, h3, h4]

/-- Where no manifest of the opcode starts, the row changes nothing. -/
theorem State.runManifest_none {s : State} {n op : Nat} (h : ∀ m, ¬s.Starts n op m) (f : Nat → List Byte → State → State) :
    s.runManifest n op f = s := by
  unfold State.runManifest
  split
  · rename_i h1
    split
    · rename_i m h2
      rw [if_neg fun h3 => h m ⟨h1, h2, h3.1, by simpa using h3.2⟩]
    · rfl
  · rfl

end Sys2Proof.Machine
end

