-- ==== Sys2Proof/Laws/NoneReleasedBase.lean ====
section
/-! SUPPORT. The relation NoneReleased: which subsystems wait to be configured again. It composes. -/

namespace Sys2Proof.Machine

/-- The subsystems that a release has left to be configured again are the same. -/
structure NoneReleased (s t : State) : Prop where
  flt_reinit : t.flt.reinit = s.flt.reinit

theorem NoneReleased.refl (s : State) : NoneReleased s s := ⟨rfl⟩

/-- A record update of other fields than those NoneReleased speaks of. -/
theorem NoneReleased.upd {r s t : State} (h : NoneReleased r s)
    (e0 : t.flt.reinit = s.flt.reinit) : NoneReleased r t :=
  ⟨e0.trans h.flt_reinit⟩

theorem NoneReleased.ite {r a b : State} {c : Prop} [Decidable c] (ha : NoneReleased r a) (hb : NoneReleased r b) : NoneReleased r (if c then a else b) := by
  split <;> assumption

theorem NoneReleased.iteFst {α : Type} {r : State} {a b : State × α} {c : Prop} [Decidable c] (ha : NoneReleased r a.1) (hb : NoneReleased r b.1) :
    NoneReleased r (if c then a else b).1 := by
  split <;> assumption

theorem NoneReleased.ofFst {α : Type} {r s : State} {p : State × α} {a : α} (e : p = (s, a)) (h : NoneReleased r p.1) : NoneReleased r s := by
  rw [e] at h; exact h

theorem NoneReleased.foldl {α : Type} {r : State} {f : State → α → State} (hf : ∀ x a, NoneReleased r x → NoneReleased r (f x a)) :
    ∀ {s : State} (l : List α), NoneReleased r s → NoneReleased r (l.foldl f s)
  | _, [], h => h
  | s, a :: l, h => NoneReleased.foldl hf (s := f s a) l (hf s a h)

theorem NoneReleased.foldlFst {α β : Type} {r : State} {f : State × β → α → State × β} (hf : ∀ x a, NoneReleased r x.1 → NoneReleased r (f x a).1) :
    ∀ {s : State × β} (l : List α), NoneReleased r s.1 → NoneReleased r (l.foldl f s).1
  | _, [], h => h
  | s, a :: l, h => NoneReleased.foldlFst hf (s := f s a) l (hf s a h)

end Sys2Proof.Machine
end

