-- ==== Sys2Proof/Laws/NoneReleased.lean ====
section
/-! SUPPORT. What a reporting instant does before its consumers leaves the released subsystems as they are. -/

namespace Sys2Proof.Machine

/-! ### Ops.lean -/

theorem State.setReg_nonereleased {r s : State} (h : NoneReleased r s) (off : Nat) (v : Word) : NoneReleased r (s.setReg off v) := by
  unfold State.setReg
  exact h.upd rfl

theorem State.event_nonereleased {r s : State} (h : NoneReleased r s) (off : Nat) (i : Nat) : NoneReleased r (s.event off i) := by
  unfold State.event
  apply State.setReg_nonereleased
  exact h

theorem State.setReg64_nonereleased {r s : State} (h : NoneReleased r s) (lo : Nat) (v : Nat) : NoneReleased r (s.setReg64 lo v) := by
  unfold State.setReg64
  apply State.setReg_nonereleased
  apply State.setReg_nonereleased
  exact h

theorem State.countBy_nonereleased {r s : State} (h : NoneReleased r s) (lo : Nat) (n : Nat) : NoneReleased r (s.countBy lo n) := by
  unfold State.countBy
  apply State.setReg64_nonereleased
  exact h

theorem State.count_nonereleased {r s : State} (h : NoneReleased r s) (lo : Nat) : NoneReleased r (s.count lo) := by
  unfold State.count
  apply State.countBy_nonereleased
  exact h

theorem State.count32_nonereleased {r s : State} (h : NoneReleased r s) (off : Nat) : NoneReleased r (s.count32 off) := by
  unfold State.count32
  apply State.setReg_nonereleased
  exact h

theorem State.advance_nonereleased {r s : State} (h : NoneReleased r s) (t : Nat) : NoneReleased r (s.advance t) := by
  unfold State.advance
  extract_lets x1 x2
  refine NoneReleased.ite ?_ ?_
  · apply State.countBy_nonereleased
    exact h.upd rfl
  · exact h

theorem State.logRaise_nonereleased {r s : State} (h : NoneReleased r s) (cls : Nat) (src : Nat) (ev : Nat) (detail : List Nat) : NoneReleased r (s.logRaise cls src ev detail) := by
  unfold State.logRaise
  extract_lets x1
  exact h.upd rfl

theorem State.almSend_nonereleased {r s : State} (h : NoneReleased r s) (i : AlmInput) : NoneReleased r (s.almSend i) := by
  unfold State.almSend
  extract_lets x1
  exact h.upd rfl

theorem State.capNotice_nonereleased {r s : State} (h : NoneReleased r s) (typ : Nat) (m : Nat → Nat → Bool) (at_ : Nat) (code : Nat) : NoneReleased r (s.capNotice typ m at_ code) := by
  unfold State.capNotice
  extract_lets x1 x2
  refine NoneReleased.ite ?_ ?_
  · exact h.upd rfl
  · exact h

theorem State.wantTask_nonereleased {r s : State} (h : NoneReleased r s) (t : TaskReq) : NoneReleased r (s.wantTask t) := by
  unfold State.wantTask
  extract_lets x1
  exact h.upd rfl

theorem State.leaseTake_nonereleased {r s : State} (h : NoneReleased r s) (pool : Nat) (index : Nat) (owner : Nat) : NoneReleased r (s.leaseTake pool index owner) := by
  unfold State.leaseTake
  extract_lets x1
  exact h.upd rfl

theorem State.leaseReturn_nonereleased {r s : State} (h : NoneReleased r s) (pool : Nat) (index : Nat) : NoneReleased r (s.leaseReturn pool index) := by
  unfold State.leaseReturn
  exact h.upd rfl

/-! ### TimeBase.lean -/

theorem State.modTb_nonereleased {r s : State} (h : NoneReleased r s) (f : Tb → Tb) : NoneReleased r (s.modTb f) := by
  unfold State.modTb
  exact h.upd rfl

theorem State.tbEvent_nonereleased {r s : State} (h : NoneReleased r s) (b : Nat) : NoneReleased r (s.tbEvent b) := by
  unfold State.tbEvent
  apply State.logRaise_nonereleased
  apply State.event_nonereleased
  exact h

theorem State.tbAlarm_nonereleased {r s : State} (h : NoneReleased r s) (kind : Nat) (on : Bool) : NoneReleased r (s.tbAlarm kind on) := by
  unfold State.tbAlarm
  apply State.almSend_nonereleased
  exact h

theorem State.setDt_nonereleased {r s : State} (h : NoneReleased r s) (st : DtSt) : NoneReleased r (s.setDt st) := by
  unfold State.setDt
  extract_lets x1 x2 x3 x4 x5
  have hx2 : NoneReleased r x2 := by
    unfold x2
    apply State.tbEvent_nonereleased
    apply State.modTb_nonereleased
    exact h
  clear_value x2
  have hx3 : NoneReleased r x3 := by
    unfold x3
    refine NoneReleased.ite ?_ ?_
    · exact hx2
    · apply State.tbAlarm_nonereleased
      exact hx2
  clear_value x3
  have hx5 : NoneReleased r x5 := by
    unfold x5
    refine NoneReleased.ite ?_ ?_
    · exact hx3
    · apply State.tbAlarm_nonereleased
      exact hx3
  clear_value x5
  refine NoneReleased.ite ?_ ?_
  · exact h
  · refine NoneReleased.ite ?_ ?_
    · apply State.event_nonereleased
      apply State.modTb_nonereleased
      exact hx5
    · exact hx5

theorem State.holdCheck_nonereleased {r s : State} (h : NoneReleased r s) : NoneReleased r (s.holdCheck) := by
  unfold State.holdCheck
  refine NoneReleased.ite ?_ ?_
  · apply State.setDt_nonereleased
    exact h
  · exact h

theorem State.enterHoldover_nonereleased {r s : State} (h : NoneReleased r s) (u : Nat) : NoneReleased r (s.enterHoldover u) := by
  unfold State.enterHoldover
  apply State.holdCheck_nonereleased
  apply State.setDt_nonereleased
  apply State.modTb_nonereleased
  exact h

theorem State.slewNow_nonereleased {r s : State} (h : NoneReleased r s) : NoneReleased r (s.slewNow) := by
  unfold State.slewNow
  apply State.modTb_nonereleased
  exact h

theorem State.slewTo_nonereleased {r s : State} (h : NoneReleased r s) (r0 : Int) : NoneReleased r (s.slewTo r0) := by
  unfold State.slewTo
  extract_lets x1
  apply State.modTb_nonereleased
  exact h

theorem State.freshNext_nonereleased {r s : State} (h : NoneReleased r s) : NoneReleased r (s.freshNext) := by
  unfold State.freshNext
  exact h.upd rfl

theorem State.slewOn_nonereleased {r s : State} (h : NoneReleased r s) : NoneReleased r (s.slewOn) := by
  unfold State.slewOn
  extract_lets x1 x2 x3 x4
  have hx4 : NoneReleased r x4 := by
    unfold x4
    apply State.slewTo_nonereleased
    apply State.freshNext_nonereleased
    exact h
  clear_value x4
  apply State.modTb_nonereleased
  exact hx4

theorem State.tbInstant_nonereleased {r s : State} (h : NoneReleased r s) (t : Nat) : NoneReleased r (s.tbInstant t).1 := by
  unfold State.tbInstant
  extract_lets x1 x2 x3 x4 x5 x6 x7 x8
  have hx4 : NoneReleased r x4 := by
    unfold x4
    refine NoneReleased.ite ?_ ?_
    · apply State.modTb_nonereleased
      exact h
    · exact h
  clear_value x4
  have hx5 : NoneReleased r x5 := by
    unfold x5
    refine NoneReleased.ite ?_ ?_
    · refine NoneReleased.ite ?_ ?_
      · apply State.enterHoldover_nonereleased
        exact hx4
      · exact hx4
    · apply State.setDt_nonereleased
      exact hx4
  clear_value x5
  have hx6 : NoneReleased r x6 := by
    unfold x6
    refine NoneReleased.ite ?_ ?_
    · apply State.tbEvent_nonereleased
      apply State.count32_nonereleased
      exact hx5
    · exact hx5
  clear_value x6
  have hx8 : NoneReleased r x8 := by
    unfold x8
    refine NoneReleased.ite ?_ ?_
    · exact hx6
    · refine NoneReleased.ite ?_ ?_
      · apply State.slewOn_nonereleased
        exact hx6
      · apply State.slewNow_nonereleased
        exact hx6
  clear_value x8
  refine NoneReleased.iteFst ?_ ?_
  · dsimp only
    exact hx6
  · dsimp only
    apply State.modTb_nonereleased
    exact hx8

/-! ### Intake.lean -/

theorem State.modBin_nonereleased {r s : State} (h : NoneReleased r s) (f : Bin → Bin) : NoneReleased r (s.modBin f) := by
  unfold State.modBin
  exact h.upd rfl

theorem State.dirRetire_nonereleased {r s : State} (h : NoneReleased r s) : NoneReleased r (s.dirRetire) := by
  unfold State.dirRetire
  split
  · refine NoneReleased.ite ?_ ?_
    · apply State.modBin_nonereleased
      exact h
    · exact h
  · exact h

theorem State.dirApplyAt_nonereleased {r s : State} (h : NoneReleased r s) (t : Nat) : NoneReleased r (s.dirApplyAt t) := by
  unfold State.dirApplyAt
  split
  · extract_lets x1
    have hx1 : NoneReleased r x1 := by
      unfold x1
      apply State.event_nonereleased
      apply State.modBin_nonereleased
      exact h
    clear_value x1
    refine NoneReleased.ite ?_ ?_
    · apply State.dirRetire_nonereleased
      apply State.setReg_nonereleased
      exact hx1
    · exact h
  · exact h

/-! ### Quay.lean -/

theorem State.modAln_nonereleased {r s : State} (h : NoneReleased r s) (f : Aln → Aln) : NoneReleased r (s.modAln f) := by
  unfold State.modAln
  exact h.upd rfl

theorem State.modQuay_nonereleased {r s : State} (h : NoneReleased r s) (seq : Nat) (f : Quay → Quay) : NoneReleased r (s.modQuay seq f) := by
  unfold State.modQuay
  apply State.modAln_nonereleased
  exact h

theorem State.modDet_nonereleased {r s : State} (h : NoneReleased r s) (seq : Nat) (d : Nat) (f : Det → Det) : NoneReleased r (s.modDet seq d f) := by
  unfold State.modDet
  apply State.modQuay_nonereleased
  exact h

theorem State.dramRegion_nonereleased {r s : State} (h : NoneReleased r s) (base : Nat) (len : Nat) (cells : List (Nat × Byte)) : NoneReleased r (s.dramRegion base len cells) := by
  unfold State.dramRegion
  exact h.upd rfl

theorem State.quayStore_nonereleased {r s : State} (h : NoneReleased r s) (q : Quay) : NoneReleased r (s.quayStore q) := by
  unfold State.quayStore
  apply State.dramRegion_nonereleased
  exact h

/-! ### Align.lean -/

theorem State.slotReturn_nonereleased {r s : State} (h : NoneReleased r s) (q : Quay) : NoneReleased r (s.slotReturn q) := by
  unfold State.slotReturn
  split
  · apply State.leaseReturn_nonereleased
    exact h
  · exact h

theorem State.tugReturn_nonereleased {r s : State} (h : NoneReleased r s) (q : Quay) : NoneReleased r (s.tugReturn q) := by
  unfold State.tugReturn
  split
  · apply State.leaseReturn_nonereleased
    exact h
  · exact h

theorem State.spillDone_nonereleased {r s : State} (h : NoneReleased r s) (q : Quay) : NoneReleased r (s.spillDone q) := by
  unfold State.spillDone
  extract_lets x1
  have hx1 : NoneReleased r x1 := by
    unfold x1
    apply State.slotReturn_nonereleased
    apply State.tugReturn_nonereleased
    apply State.modQuay_nonereleased
    exact h
  clear_value x1
  split
  · apply State.quayStore_nonereleased
    exact hx1
  · exact hx1

theorem quaySpillDoneRow_nonereleased {r s : State} (h : NoneReleased r s) : NoneReleased r (quaySpillDoneRow s) := by
  unfold quaySpillDoneRow
  split
  · apply State.spillDone_nonereleased
    exact h
  · exact h

theorem State.copiesStart_nonereleased {r s : State} (h : NoneReleased r s) : NoneReleased r (s.copiesStart) := by
  unfold State.copiesStart
  refine NoneReleased.foldl ?_ _ ?_
  · intro y1 y2 y3
    split
    · refine NoneReleased.ite ?_ ?_
      · apply State.modQuay_nonereleased
        apply State.leaseTake_nonereleased
        exact y3
      · exact y3
    · exact y3
  · exact h

theorem State.spillCheck_nonereleased {r s : State} (h : NoneReleased r s) : NoneReleased r (s.spillCheck) := by
  unfold State.spillCheck
  extract_lets x1
  refine NoneReleased.ite ?_ ?_
  · exact h
  · split
    · apply State.copiesStart_nonereleased
      apply State.event_nonereleased
      apply State.count_nonereleased
      apply State.modQuay_nonereleased
      exact h
    · exact h

theorem State.takeSlot_nonereleased {r s : State} (h : NoneReleased r s) : NoneReleased r (s.takeSlot).1 := by
  unfold State.takeSlot
  extract_lets x1
  have hx1 : NoneReleased r x1 := by
    unfold x1
    refine NoneReleased.ite ?_ ?_
    · apply quaySpillDoneRow_nonereleased
      exact h
    · exact h
  clear_value x1
  split
  · dsimp only
    apply State.leaseTake_nonereleased
    exact hx1
  · dsimp only
    exact hx1

theorem State.putEntry_nonereleased {r s : State} (h : NoneReleased r s) (seq : Nat) (b : Nat) (e : Entry) : NoneReleased r (s.putEntry seq b e) := by
  unfold State.putEntry
  apply State.modQuay_nonereleased
  exact h

theorem State.alnRaise_nonereleased {r s : State} (h : NoneReleased r s) (d : Nat) (kind : Nat) (seq : Nat) : NoneReleased r (s.alnRaise d kind seq) := by
  unfold State.alnRaise
  extract_lets x1
  have hx1 : NoneReleased r x1 := by
    unfold x1
    apply State.almSend_nonereleased
    exact h
  clear_value x1
  refine NoneReleased.ite ?_ ?_
  · apply State.capNotice_nonereleased
    exact hx1
  · exact hx1

theorem State.quorumSet_nonereleased {r s : State} (h : NoneReleased r s) (q : Quay) (d : Nat) : NoneReleased r (s.quorumSet q d) := by
  unfold State.quorumSet
  extract_lets x1 x2 x3 x4
  have hx2 : NoneReleased r x2 := by
    unfold x2
    apply State.modQuay_nonereleased
    apply State.modDet_nonereleased
    exact h
  clear_value x2
  have hx3 : NoneReleased r x3 := by
    unfold x3
    apply State.count_nonereleased
    apply State.event_nonereleased
    exact hx2
  clear_value x3
  have hx4 : NoneReleased r x4 := by
    unfold x4
    refine NoneReleased.ite ?_ ?_
    · refine NoneReleased.foldl ?_ _ ?_
      · intro y13 y14 y15
        apply State.wantTask_nonereleased
        exact y15
      · exact hx3
    · refine NoneReleased.ite ?_ ?_
      · apply State.wantTask_nonereleased
        exact hx3
      · exact hx3
  clear_value x4
  apply State.alnRaise_nonereleased
  exact hx4

theorem State.quorumTest_nonereleased {r s : State} (h : NoneReleased r s) (seq : Nat) : NoneReleased r (s.quorumTest seq) := by
  unfold State.quorumTest
  refine NoneReleased.foldl ?_ _ ?_
  · intro y1 y2 y3
    split
    · refine NoneReleased.ite ?_ ?_
      · apply State.quorumSet_nonereleased
        exact y3
      · exact y3
    · exact y3
  · exact h

theorem State.noteWrite_nonereleased {r s : State} (h : NoneReleased r s) (seq : Nat) (b : Nat) (e : Entry) : NoneReleased r (s.noteWrite seq b e) := by
  unfold State.noteWrite
  refine NoneReleased.foldl ?_ _ ?_
  · intro y1 y2 y3
    extract_lets x5
    have hx5 : NoneReleased r x5 := by
      unfold x5
      apply State.modDet_nonereleased
      exact y3
    clear_value x5
    split
    · refine NoneReleased.ite ?_ ?_
      · split
        · extract_lets x12
          apply State.modDet_nonereleased
          exact hx5
        · exact hx5
      · exact y3
    · exact y3
  · exact h

theorem State.quayWrite_nonereleased {r s : State} (h : NoneReleased r s) (seq : Nat) (b : Nat) (e : Entry) (late : Bool) : NoneReleased r (s.quayWrite seq b e late) := by
  unfold State.quayWrite
  extract_lets x1
  have hx1 : NoneReleased r x1 := by
    unfold x1
    apply State.modQuay_nonereleased
    apply State.putEntry_nonereleased
    exact h
  clear_value x1
  refine NoneReleased.ite ?_ ?_
  · exact hx1
  · apply State.quorumTest_nonereleased
    apply State.noteWrite_nonereleased
    exact hx1

theorem State.quayOpen_nonereleased {r s : State} (h : NoneReleased r s) (sec : Nat) (k : Nat) (rate : Nat) (stepped : Bool) (tq : BitVec 16) : NoneReleased r (s.quayOpen sec k rate stepped tq) := by
  unfold State.quayOpen
  extract_lets x1 x2 x3 x4 x5
  split
  · rename_i z7 z8 z9 z10
    have kz8 : NoneReleased r z8 := NoneReleased.ofFst z10 (by
      apply State.takeSlot_nonereleased
      exact h)
    extract_lets x14 x15 x16
    have hx15 : NoneReleased r x15 := by
      unfold x15
      apply State.setReg64_nonereleased
      apply State.modAln_nonereleased
      exact kz8
    clear_value x15
    have hx16 : NoneReleased r x16 := by
      unfold x16
      apply State.spillCheck_nonereleased
      apply State.count_nonereleased
      exact hx15
    clear_value x16
    refine NoneReleased.foldl ?_ _ ?_
    · intro y24 y25 y26
      split
      · refine NoneReleased.ite ?_ ?_
        · apply State.quayWrite_nonereleased
          exact y26
        · exact y26
      · exact y26
    · exact hx16

theorem State.alnInstant_nonereleased {r s : State} (h : NoneReleased r s) (sec : Nat) (k : Nat) (rate : Nat) (stepped : Bool) (tq : BitVec 16) : NoneReleased r (s.alnInstant sec k rate stepped tq) := by
  unfold State.alnInstant
  extract_lets x1 x2
  have hx2 : NoneReleased r x2 := by
    unfold x2
    split
    · apply State.modQuay_nonereleased
      exact h
    · refine NoneReleased.ite ?_ ?_
      · apply State.quayOpen_nonereleased
        exact h
      · exact h
  clear_value x2
  apply State.modAln_nonereleased
  exact hx2

/-! ### Osc.lean -/

theorem State.oscStaleNote_nonereleased {r s : State} (h : NoneReleased r s) : NoneReleased r (s.oscStaleNote) := by
  unfold State.oscStaleNote
  refine NoneReleased.ite ?_ ?_
  · apply State.event_nonereleased
    exact h
  · exact h

/-! ### Isl.lean -/

theorem State.islStaleNote_nonereleased {r s : State} (h : NoneReleased r s) : NoneReleased r (s.islStaleNote) := by
  unfold State.islStaleNote
  refine NoneReleased.ite ?_ ?_
  · apply State.event_nonereleased
    exact h
  · exact h

/-! ### Commit.lean -/

theorem State.staleNotes_nonereleased {r s : State} (h : NoneReleased r s) : NoneReleased r (s.staleNotes) := by
  unfold State.staleNotes
  apply State.islStaleNote_nonereleased
  apply State.oscStaleNote_nonereleased
  exact h

theorem State.dirAt_nonereleased {r s : State} (h : NoneReleased r s) (t : Nat) : NoneReleased r (s.dirAt t) := by
  unfold State.dirAt
  extract_lets x1
  have hx1 : NoneReleased r x1 := by
    unfold x1
    apply State.dirApplyAt_nonereleased
    exact h
  clear_value x1
  refine NoneReleased.ite ?_ ?_
  · exact hx1
  · apply State.staleNotes_nonereleased
    exact hx1

end Sys2Proof.Machine
end

