-- ==== Sys2Proof/Laws/PortKeptBase.lean ====
section
/-! SUPPORT. The relation PortKept: which operations leave the ports themselves as they are It composes. -/

namespace Sys2Proof.Machine

/-- The ports' link states, queues and tables are the same. -/
structure PortKept (s t : State) : Prop where
  mac_port : t.mac.port = s.mac.port

theorem PortKept.refl (s : State) : PortKept s s := ⟨rfl⟩

/-- A record update of other fields than those PortKept speaks of. -/
theorem PortKept.upd {r s t : State} (h : PortKept r s)
    (e0 : t.mac.port = s.mac.port) : PortKept r t :=
  ⟨e0.trans h.mac_port⟩

theorem PortKept.ite {r a b : State} {c : Prop} [Decidable c] (ha : PortKept r a) (hb : PortKept r b) : PortKept r (if c then a else b) := by
  split <;> assumption

theorem PortKept.iteFst {α : Type} {r : State} {a b : State × α} {c : Prop} [Decidable c] (ha : PortKept r a.1) (hb : PortKept r b.1) :
    PortKept r (if c then a else b).1 := by
  split <;> assumption

theorem PortKept.ofFst {α : Type} {r s : State} {p : State × α} {a : α} (e : p = (s, a)) (h : PortKept r p.1) : PortKept r s := by
  rw [e] at h; exact h

theorem PortKept.foldl {α : Type} {r : State} {f : State → α → State} (hf : ∀ x a, PortKept r x → PortKept r (f x a)) :
    ∀ {s : State} (l : List α), PortKept r s → PortKept r (l.foldl f s)
  | _, [], h => h
  | s, a :: l, h => PortKept.foldl hf (s := f s a) l (hf s a h)

theorem PortKept.foldlFst {α β : Type} {r : State} {f : State × β → α → State × β} (hf : ∀ x a, PortKept r x.1 → PortKept r (f x a).1) :
    ∀ {s : State × β} (l : List α), PortKept r s.1 → PortKept r (l.foldl f s).1
  | _, [], h => h
  | s, a :: l, h => PortKept.foldlFst hf (s := f s a) l (hf s a h)

end Sys2Proof.Machine
end

