-- ==== Sys2Proof/Laws/PortKept.lean ====
section
/-! SUPPORT. Operations that leave the ports as they are -/

namespace Sys2Proof.Machine

/-! ### Ops.lean -/

theorem State.dramWrite_portkept {r s : State} (h : PortKept r s) (a : Nat) (bs : List Byte) : PortKept r (s.dramWrite a bs) := by
  unfold State.dramWrite
  exact h.upd rfl

theorem State.setReg_portkept {r s : State} (h : PortKept r s) (off : Nat) (v : Word) : PortKept r (s.setReg off v) := by
  unfold State.setReg
  exact h.upd rfl

theorem State.setFld_portkept {r s : State} (h : PortKept r s) (off : Nat) (lo : Nat) (w : Nat) (v : Nat) : PortKept r (s.setFld off lo w v) := by
  unfold State.setFld
  apply State.setReg_portkept
  exact h

theorem State.event_portkept {r s : State} (h : PortKept r s) (off : Nat) (i : Nat) : PortKept r (s.event off i) := by
  unfold State.event
  apply State.setReg_portkept
  exact h

theorem State.setReg64_portkept {r s : State} (h : PortKept r s) (lo : Nat) (v : Nat) : PortKept r (s.setReg64 lo v) := by
  unfold State.setReg64
  apply State.setReg_portkept
  apply State.setReg_portkept
  exact h

theorem State.countBy_portkept {r s : State} (h : PortKept r s) (lo : Nat) (n : Nat) : PortKept r (s.countBy lo n) := by
  unfold State.countBy
  apply State.setReg64_portkept
  exact h

theorem State.count_portkept {r s : State} (h : PortKept r s) (lo : Nat) : PortKept r (s.count lo) := by
  unfold State.count
  apply State.countBy_portkept
  exact h

theorem State.setTs_portkept {r s : State} (h : PortKept r s) (off : Nat) (t : Nat) : PortKept r (s.setTs off t) := by
  unfold State.setTs
  apply State.setReg_portkept
  apply State.setReg_portkept
  apply State.setReg_portkept
  apply State.setReg_portkept
  exact h

theorem State.advance_portkept {r s : State} (h : PortKept r s) (t : Nat) : PortKept r (s.advance t) := by
  unfold State.advance
  extract_lets x1 x2
  refine PortKept.ite ?_ ?_
  · apply State.countBy_portkept
    exact h.upd rfl
  · exact h

theorem State.emit_portkept {r s : State} (h : PortKept r s) (o : Output) : PortKept r (s.emit o) := by
  unfold State.emit
  exact h.upd rfl

theorem State.freshNext_portkept {r s : State} (h : PortKept r s) : PortKept r (s.freshNext) := by
  unfold State.freshNext
  exact h.upd rfl

theorem State.logRaise_portkept {r s : State} (h : PortKept r s) (cls : Nat) (src : Nat) (ev : Nat) (detail : List Nat) : PortKept r (s.logRaise cls src ev detail) := by
  unfold State.logRaise
  extract_lets x1
  exact h.upd rfl

theorem State.almSend_portkept {r s : State} (h : PortKept r s) (i : AlmInput) : PortKept r (s.almSend i) := by
  unfold State.almSend
  extract_lets x1
  exact h.upd rfl

theorem State.capNotice_portkept {r s : State} (h : PortKept r s) (typ : Nat) (m : Nat → Nat → Bool) (at_ : Nat) (code : Nat) : PortKept r (s.capNotice typ m at_ code) := by
  unfold State.capNotice
  extract_lets x1 x2
  refine PortKept.ite ?_ ?_
  · exact h.upd rfl
  · exact h

theorem State.offer_portkept {r s : State} (h : PortKept r s) (port : Nat) (cls : TxClass) (body : TxBody) (bytes : Nat) (job : Option (Nat × Nat)) : PortKept r (s.offer port cls body bytes job) := by
  unfold State.offer
  extract_lets x1 x2
  refine PortKept.ite ?_ ?_
  · exact h.upd rfl
  · exact h.upd rfl

theorem State.wantTask_portkept {r s : State} (h : PortKept r s) (t : TaskReq) : PortKept r (s.wantTask t) := by
  unfold State.wantTask
  extract_lets x1
  exact h.upd rfl

theorem State.deliver_portkept {r s : State} (h : PortKept r s) (d : Delivery) : PortKept r (s.deliver d) := by
  unfold State.deliver
  extract_lets x1
  exact h.upd rfl

theorem State.mirrorItem_portkept {r s : State} (h : PortKept r s) (item : Nat) (body : List Byte) : PortKept r (s.mirrorItem item body) := by
  unfold State.mirrorItem
  extract_lets x1 x2
  refine PortKept.ite ?_ ?_
  · refine PortKept.ite ?_ ?_
    · exact h.upd rfl
    · apply State.event_portkept
      apply State.count_portkept
      exact h.upd rfl
  · exact h

theorem State.leaseTake_portkept {r s : State} (h : PortKept r s) (pool : Nat) (index : Nat) (owner : Nat) : PortKept r (s.leaseTake pool index owner) := by
  unfold State.leaseTake
  extract_lets x1
  exact h.upd rfl

/-! ### Power.lean -/

theorem State.wake_portkept {r s : State} (h : PortKept r s) (src : Nat) : PortKept r (s.wake src) := by
  unfold State.wake
  extract_lets x1
  refine PortKept.ite ?_ ?_
  · exact h
  · apply State.event_portkept
    apply State.setReg_portkept
    exact h.upd rfl

theorem State.pwrAfter_portkept {r s : State} (h : PortKept r s) (s0 : State) : PortKept r (s0.pwrAfter s) := by
  unfold State.pwrAfter
  extract_lets x1 x2
  have hx1 : PortKept r x1 := by
    unfold x1
    refine PortKept.ite ?_ ?_
    · apply State.wake_portkept
      exact h
    · exact h
  clear_value x1
  refine PortKept.ite ?_ ?_
  · exact hx1.upd rfl
  · exact hx1

/-! ### Manifest.lean -/

theorem State.modRing_portkept {r s : State} (h : PortKept r s) (n : Nat) (f : Ring → Ring) : PortKept r (s.modRing n f) := by
  unfold State.modRing
  extract_lets x1
  exact h.upd rfl

theorem State.ringSettle_portkept {r s : State} (h : PortKept r s) (n : Nat) : PortKept r (s.ringSettle n) := by
  unfold State.ringSettle
  extract_lets x1
  refine PortKept.ite ?_ ?_
  · apply State.modRing_portkept
    exact h
  · exact h

theorem State.finishOne_portkept {r s : State} (h : PortKept r s) (mid : Nat) (status : Nat) (d0 : Nat) (detail : List Byte) : PortKept r (s.finishOne mid status d0 detail) := by
  unfold State.finishOne
  split
  · exact h
  · extract_lets x3 x4 x5
    have hx4 : PortKept r x4 := by
      unfold x4
      refine PortKept.foldl ?_ _ ?_
      · intro y7 y8 y9
        apply State.modRing_portkept
        exact y9
      · exact h
    clear_value x4
    have hx5 : PortKept r x5 := by
      unfold x5
      refine PortKept.ite ?_ ?_
      · apply State.count_portkept
        exact hx4
      · exact hx4
    clear_value x5
    apply State.ringSettle_portkept
    exact hx5

theorem State.finishRaw_portkept {r s : State} (h : PortKept r s) (mid : Nat) (status : Nat) (d0 : Nat) (detail : List Byte) : PortKept r (s.finishRaw mid status d0 detail) := by
  unfold State.finishRaw
  extract_lets x1
  refine PortKept.foldl ?_ _ ?_
  · intro y3 y4 y5
    apply State.finishOne_portkept
    exact y5
  · apply State.finishOne_portkept
    exact h

theorem State.autoComplete_portkept {r : State} (k : Nat) {s : State} (h : PortKept r s) (n : Nat) : PortKept r (State.autoComplete k s n) := by
  induction k generalizing s with
  | zero => exact h
  | succ k ih =>
    unfold State.autoComplete
    refine PortKept.ite ?_ h
    split
    · split
      · exact ih (State.finishRaw_portkept h _ _ _ _)
      · exact h
    · exact h

theorem State.autoAll_portkept {r s : State} (h : PortKept r s) : PortKept r (s.autoAll) := by
  unfold State.autoAll
  refine PortKept.foldl ?_ _ ?_
  · intro y1 y2 y3
    apply State.autoComplete_portkept
    exact y3
  · exact h

theorem State.finish_portkept {r s : State} (h : PortKept r s) (mid : Nat) (status : Nat) (d0 : Nat) (detail : List Byte) : PortKept r (s.finish mid status d0 detail) := by
  unfold State.finish
  apply State.autoAll_portkept
  apply State.finishRaw_portkept
  exact h

/-! ### KeyStore.lean -/

theorem State.keyUseErr_portkept {r s : State} (h : PortKept r s) : PortKept r (s.keyUseErr) := by
  unfold State.keyUseErr
  apply State.event_portkept
  apply State.count_portkept
  exact h

theorem State.cryptoStart_portkept {r s s' : State} (h : PortKept r s) {o : CryptoOp} (e : s.cryptoStart o = some s') : PortKept r s' := by
  unfold State.cryptoStart at e
  split at e
  · split at e
    · cases e
      apply State.leaseTake_portkept
      exact h.upd rfl
    · cases e
  · cases e

theorem State.requestSign_portkept {r s : State} (h : PortKept r s) (use : CryptoUse) (slot : Nat) (msg : List Byte) :
    PortKept r (s.requestSign use slot msg).1 := by
  unfold State.requestSign
  extract_lets waits key
  clear_value key
  refine PortKept.iteFst ?_ (State.keyUseErr_portkept h)
  split
  next e => exact State.cryptoStart_portkept h e
  · exact State.count_portkept h _

/-! ### Capture.lean -/

theorem State.modCap_portkept {r s : State} (h : PortKept r s) (c : Nat) (f : CapCh → CapCh) : PortKept r (s.modCap c f) := by
  unfold State.modCap
  extract_lets x1
  exact h.upd rfl

theorem State.capEvent_portkept {r s : State} (h : PortKept r s) (bit : Nat) (c : Nat) : PortKept r (s.capEvent bit c) := by
  unfold State.capEvent
  apply State.logRaise_portkept
  apply State.event_portkept
  exact h

theorem State.capClose_portkept {r s : State} (h : PortKept r s) (c : Nat) (o : CapOpen) : PortKept r (s.capClose c o) := by
  unfold State.capClose
  extract_lets x1 x2
  have hx2 : PortKept r x2 := by
    unfold x2
    apply State.modCap_portkept
    exact h
  clear_value x2
  refine PortKept.ite ?_ ?_
  · apply State.modCap_portkept
    exact hx2
  · apply State.count_portkept
    apply State.modCap_portkept
    apply State.dramWrite_portkept
    exact hx2

theorem State.capAppend_portkept {r s : State} (h : PortKept r s) (c : Nat) (o : CapOpen) (inst : Nat) (e : List Byte) : PortKept r (s.capAppend c o inst e) := by
  unfold State.capAppend
  apply State.modCap_portkept
  exact h

theorem State.capOpenBlock_portkept {r s : State} (h : PortKept r s) (c : Nat) (a2 : Nat) (inst : Nat) (period : Nat) (e : List Byte) : PortKept r (s.capOpenBlock c a2 inst period e) := by
  unfold State.capOpenBlock
  extract_lets x1
  refine PortKept.ite ?_ ?_
  · apply State.modCap_portkept
    exact h
  · apply State.modCap_portkept
    exact h

theorem State.capAdd_portkept {r s : State} (h : PortKept r s) (c : Nat) (a2 : Nat) (inst : Nat) (cov : Nat) (period : Nat) (mk : Nat → List Byte) : PortKept r (s.capAdd c a2 inst cov period mk) := by
  unfold State.capAdd
  extract_lets x1 x2
  have hx2 : PortKept r x2 := by
    unfold x2
    split
    · apply State.capOpenBlock_portkept
      exact h
    · extract_lets x3
      refine PortKept.ite ?_ ?_
      · apply State.capAppend_portkept
        exact h
      · apply State.capOpenBlock_portkept
        apply State.capClose_portkept
        exact h
  clear_value x2
  refine PortKept.ite ?_ ?_
  · exact h
  · refine PortKept.ite ?_ ?_
    · apply State.modCap_portkept
      exact h
    · apply State.modCap_portkept
      exact hx2

theorem State.capSnap_portkept {r s : State} (h : PortKept r s) (seq : Nat) (inst : Nat) (next : Nat) (tq : BitVec 16) (lane : Nat → List Byte) : PortKept r (s.capSnap seq inst next tq lane) := by
  unfold State.capSnap
  refine PortKept.foldl ?_ _ ?_
  · intro y1 y2 y3
    extract_lets x5
    apply State.capAdd_portkept
    exact y3
  · exact h

theorem State.capStop_portkept {r s : State} (h : PortKept r s) (c : Nat) (st : CapSt) (cause : Nat) (endAt : Nat) : PortKept r (s.capStop c st cause endAt) := by
  unfold State.capStop
  extract_lets x1 x2 x3 x4
  have hx1 : PortKept r x1 := by
    unfold x1
    refine PortKept.foldl ?_ _ ?_
    · intro y6 y7 y8
      apply State.capClose_portkept
      exact y8
    · exact h
  clear_value x1
  have hx2 : PortKept r x2 := by
    unfold x2
    apply State.modCap_portkept
    exact hx1
  clear_value x2
  have hx4 : PortKept r x4 := by
    unfold x4
    exact hx2.upd rfl
  clear_value x4
  apply State.dramWrite_portkept
  exact hx4

theorem capEndRow_portkept {r s : State} (h : PortKept r s) (c : Nat) : PortKept r (capEndRow c s) := by
  unfold capEndRow
  refine PortKept.ite ?_ ?_
  · apply State.count_portkept
    apply State.capEvent_portkept
    apply State.capStop_portkept
    exact h
  · exact h

theorem capOverflowRow_portkept {r s : State} (h : PortKept r s) (c : Nat) (fifo : Bool) : PortKept r (capOverflowRow c fifo s) := by
  unfold capOverflowRow
  extract_lets x1
  refine PortKept.ite ?_ ?_
  · apply State.count_portkept
    apply State.capEvent_portkept
    apply State.capStop_portkept
    exact h
  · exact h

theorem State.capAbort_portkept {r s : State} (h : PortKept r s) (c : Nat) : PortKept r (s.capAbort c) := by
  unfold State.capAbort
  extract_lets x1 x2 x3
  have hx2 : PortKept r x2 := by
    unfold x2
    apply State.modCap_portkept
    exact h
  clear_value x2
  split
  · apply State.count_portkept
    exact hx2.upd rfl
  · refine PortKept.ite ?_ ?_
    · apply State.modCap_portkept
      apply capEndRow_portkept
      exact h
    · refine PortKept.ite ?_ ?_
      · apply State.modCap_portkept
        apply capOverflowRow_portkept
        exact h
      · apply State.count_portkept
        apply State.modCap_portkept
        apply State.capStop_portkept
        exact h
  · apply State.modCap_portkept
    exact h

/-! ### FrontEnd.lean -/

theorem State.clearCounters_portkept {r s : State} (h : PortKept r s) (lo : Nat) (n : Nat) : PortKept r (s.clearCounters lo n) := by
  unfold State.clearCounters
  refine PortKept.foldl ?_ _ ?_
  · intro y1 y2 y3
    apply State.setReg64_portkept
    exact y3
  · exact h

/-! ### Mtr.lean -/

theorem State.modMtr_portkept {r s : State} (h : PortKept r s) (f : Mtr → Mtr) : PortKept r (s.modMtr f) := by
  unfold State.modMtr
  exact h.upd rfl

theorem State.modPoint_portkept {r s : State} (h : PortKept r s) (m : Nat) (f : MtrPoint → MtrPoint) : PortKept r (s.modPoint m f) := by
  unfold State.modPoint
  apply State.modMtr_portkept
  exact h

theorem State.modPulse_portkept {r s : State} (h : PortKept r s) (o : Nat) (f : MtrPulse → MtrPulse) : PortKept r (s.modPulse o f) := by
  unfold State.modPulse
  apply State.modMtr_portkept
  exact h

theorem State.mtrCond_portkept {r s : State} (h : PortKept r s) (m : Nat) (k : Nat) : PortKept r (s.mtrCond m k) := by
  unfold State.mtrCond
  extract_lets x1 x2 x3 x4 x5 x6 x7 x8 x9 x10 x11 x12 x13
  have hx10 : PortKept r x10 := by
    unfold x10
    apply State.modPoint_portkept
    exact h
  clear_value x10
  have hx13 : PortKept r x13 := by
    unfold x13
    apply State.almSend_portkept
    exact hx10
  clear_value x13
  refine PortKept.ite ?_ ?_
  · refine PortKept.ite ?_ ?_
    · apply State.event_portkept
      exact hx13
    · exact hx13
  · exact hx10

theorem State.pulseAdd_portkept {r s : State} (h : PortKept r s) (o : Nat) (imp : Bool) (d : Nat) (start : Nat) (len : Nat) : PortKept r (s.pulseAdd o imp d start len) := by
  unfold State.pulseAdd
  extract_lets x1 x2 x3 x4 x5 x6 x7 x8
  have hx8 : PortKept r x8 := by
    unfold x8
    apply State.modPulse_portkept
    exact h
  clear_value x8
  refine PortKept.ite ?_ ?_
  · apply State.event_portkept
    exact hx8
  · exact hx8

theorem State.pulsesAdd_portkept {r s : State} (h : PortKept r s) (m : Nat) (d : List Nat) (start : Nat) (len : Nat) : PortKept r (s.pulsesAdd m d start len) := by
  unfold State.pulsesAdd
  extract_lets x1
  refine PortKept.foldl ?_ _ ?_
  · intro y3 y4 y5
    extract_lets x7
    refine PortKept.ite ?_ ?_
    · split
      · apply State.pulseAdd_portkept
        apply State.pulseAdd_portkept
        exact y5
      · apply State.pulseAdd_portkept
        exact y5
      · apply State.pulseAdd_portkept
        exact y5
      · apply State.pulseAdd_portkept
        exact y5
    · exact y5
  · exact h

theorem State.energyAdd_portkept {r s : State} (h : PortKept r s) (m : Nat) (d : List Nat) (start : Nat) (len : Nat) : PortKept r (s.energyAdd m d start len) := by
  unfold State.energyAdd
  extract_lets x1 x2 x3
  have hx2 : PortKept r x2 := by
    unfold x2
    apply State.modPoint_portkept
    exact h
  clear_value x2
  have hx3 : PortKept r x3 := by
    unfold x3
    refine PortKept.ite ?_ ?_
    · apply State.event_portkept
      exact hx2
    · exact hx2
  clear_value x3
  apply State.pulsesAdd_portkept
  exact hx3

theorem State.netEnd_portkept {r s : State} (h : PortKept r s) (m : Nat) (start : Nat) (len : Nat) : PortKept r (s.netEnd m start len) := by
  unfold State.netEnd
  extract_lets x1
  apply State.modPoint_portkept
  apply State.energyAdd_portkept
  exact h

theorem State.secondEnd_portkept {r s : State} (h : PortKept r s) (m : Nat) : PortKept r (s.secondEnd m) := by
  unfold State.secondEnd
  apply State.modPoint_portkept
  exact h

theorem State.mtrCompare_portkept {r s : State} (h : PortKept r s) (m : Nat) (end_ : Nat) : PortKept r (s.mtrCompare m end_) := by
  unfold State.mtrCompare
  extract_lets x1 x2
  split
  · refine PortKept.ite ?_ ?_
    · apply State.count_portkept
      apply State.event_portkept
      exact h
    · exact h
  · exact h

theorem State.mtrMirror_portkept {r s : State} (h : PortKept r s) (m : Nat) (body : List Byte) : PortKept r (s.mtrMirror m body) := by
  unfold State.mtrMirror
  extract_lets x1 x2 x3 x4 x5
  have hx5 : PortKept r x5 := by
    unfold x5
    exact h.upd rfl
  clear_value x5
  apply State.mtrCompare_portkept
  apply State.mirrorItem_portkept
  exact hx5

theorem State.mtrRecordWrite_portkept {r s : State} (h : PortKept r s) (m : Nat) (body : List Byte) (sig : Option (List Byte)) : PortKept r (s.mtrRecordWrite m body sig) := by
  unfold State.mtrRecordWrite
  extract_lets x1 x2 x3 x4 x5 x6 x7 x8 x9 x10 x11
  have hx1 : PortKept r x1 := by
    unfold x1
    split
    · exact h
    · apply State.count_portkept
      apply State.event_portkept
      exact h
  clear_value x1
  have hx5 : PortKept r x5 := by
    unfold x5
    apply State.modMtr_portkept
    apply State.dramWrite_portkept
    exact hx1
  clear_value x5
  have hx6 : PortKept r x6 := by
    unfold x6
    refine PortKept.ite ?_ ?_
    · refine PortKept.ite ?_ ?_
      · apply State.event_portkept
        exact hx5
      · exact hx5
    · exact hx1
  clear_value x6
  have hx9 : PortKept r x9 := by
    unfold x9
    exact hx6.upd rfl
  clear_value x9
  have hx10 : PortKept r x10 := by
    unfold x10
    refine PortKept.ite ?_ ?_
    · apply State.deliver_portkept
      exact hx9
    · exact hx9
  clear_value x10
  have hx11 : PortKept r x11 := by
    unfold x11
    apply State.mtrMirror_portkept
    exact hx10
  clear_value x11
  apply State.count_portkept
  apply State.event_portkept
  exact hx11

theorem State.intervalEnd_portkept {r s : State} (h : PortKept r s) (m : Nat) (end_ : Nat) (partialEnd : Bool) (partialNext : Bool) : PortKept r (s.intervalEnd m end_ partialEnd partialNext) := by
  unfold State.intervalEnd
  extract_lets x1 x2 x3 x4 x5 x6 x7
  have hx4 : PortKept r x4 := by
    unfold x4
    apply State.modPoint_portkept
    exact h
  clear_value x4
  have hx5 : PortKept r x5 := by
    unfold x5
    refine PortKept.ite ?_ ?_
    · apply State.almSend_portkept
      apply State.modMtr_portkept
      exact hx4
    · exact hx4
  clear_value x5
  have hx6 : PortKept r x6.1 := by
    unfold x6
    apply State.requestSign_portkept
    exact hx5
  clear_value x6
  have hx7 : PortKept r x7 := by
    unfold x7
    refine PortKept.ite ?_ ?_
    · apply State.event_portkept
      apply State.count_portkept
      exact h
    · refine PortKept.ite ?_ ?_
      · exact hx6
      · apply State.mtrRecordWrite_portkept
        exact hx6
  clear_value x7
  apply State.modPoint_portkept
  exact hx7

theorem State.backupSave_portkept {r s : State} (h : PortKept r s) (pfw : Bool) : PortKept r (s.backupSave pfw) := by
  unfold State.backupSave
  extract_lets x1 x2 x3 x4 x5
  have hx5 : PortKept r x5 := by
    unfold x5
    exact h.upd rfl
  clear_value x5
  apply State.count_portkept
  exact hx5

theorem State.periodicSaves_portkept {r s : State} (h : PortKept r s) (force : Bool) : PortKept r (s.periodicSaves force) := by
  unfold State.periodicSaves
  extract_lets x1 x2 x3
  have hx2 : PortKept r x2 := by
    unfold x2
    refine PortKept.ite ?_ ?_
    · apply State.backupSave_portkept
      exact h
    · exact h
  clear_value x2
  refine PortKept.ite ?_ ?_
  · apply State.modMtr_portkept
    exact hx2
  · exact hx2

theorem State.outageFix_portkept {r s : State} (h : PortKept r s) (open_ : Nat) : PortKept r (s.outageFix open_) := by
  unfold State.outageFix
  refine PortKept.ite ?_ ?_
  · apply State.modMtr_portkept
    apply State.setReg_portkept
    exact h
  · exact h

theorem State.netClose_portkept {r s : State} (h : PortKept r s) (m : Nat) (start : Nat) : PortKept r (s.netClose m start) := by
  unfold State.netClose
  split
  · apply State.netEnd_portkept
    exact h
  · apply State.netEnd_portkept
    exact h
  · exact h

theorem State.pointInterval_portkept {r s : State} (h : PortKept r s) (m : Nat) (cyc : MtrCyc) : PortKept r (s.pointInterval m cyc) := by
  unfold State.pointInterval
  extract_lets x1 x2 x3 x4 x5
  have hx5 : PortKept r x5 := by
    unfold x5
    refine PortKept.ite ?_ ?_
    · apply State.netClose_portkept
      exact h
    · exact h
  clear_value x5
  refine PortKept.ite ?_ ?_
  · apply State.modPoint_portkept
    exact hx5
  · refine PortKept.ite ?_ ?_
    · exact hx5
    · apply State.modPoint_portkept
      apply State.intervalEnd_portkept
      exact hx5

theorem State.pointSecond_portkept {r s : State} (h : PortKept r s) (m : Nat) (cyc : MtrCyc) : PortKept r (s.pointSecond m cyc) := by
  unfold State.pointSecond
  apply State.modPoint_portkept
  exact h

theorem State.pointEnergy_portkept {r s : State} (h : PortKept r s) (m : Nat) (cyc : MtrCyc) (q : MtrQuant) : PortKept r (s.pointEnergy m cyc q) := by
  unfold State.pointEnergy
  extract_lets x1 x2 x3 x4
  refine PortKept.ite ?_ ?_
  · exact h
  · refine PortKept.ite ?_ ?_
    · apply State.energyAdd_portkept
      exact h
    · apply State.modPoint_portkept
      exact h

theorem State.pointEnds_portkept {r s : State} (h : PortKept r s) (m : Nat) (cyc : MtrCyc) : PortKept r (s.pointEnds m cyc) := by
  unfold State.pointEnds
  extract_lets x1 x2 x3 x4 x5 x6 x7
  have hx6 : PortKept r x6 := by
    unfold x6
    refine PortKept.ite ?_ ?_
    · apply State.netClose_portkept
      exact h
    · exact h
  clear_value x6
  have hx7 : PortKept r x7 := by
    unfold x7
    refine PortKept.ite ?_ ?_
    · apply State.secondEnd_portkept
      exact hx6
    · exact hx6
  clear_value x7
  refine PortKept.ite ?_ ?_
  · apply State.intervalEnd_portkept
    exact hx7
  · exact hx7

theorem State.pointGap_portkept {r s : State} (h : PortKept r s) (m : Nat) (cyc : MtrCyc) : PortKept r (s.pointGap m cyc) := by
  unfold State.pointGap
  extract_lets x1
  refine PortKept.ite ?_ ?_
  · apply State.secondEnd_portkept
    refine PortKept.ite ?_ ?_
    · apply State.netClose_portkept
      exact h
    · exact h
  · exact h

theorem State.pointAccumulate_portkept {r s : State} (h : PortKept r s) (m : Nat) (cyc : MtrCyc) (q : MtrQuant) : PortKept r (s.pointAccumulate m cyc q) := by
  unfold State.pointAccumulate
  apply State.pointEnds_portkept
  apply State.pointEnergy_portkept
  apply State.pointSecond_portkept
  apply State.pointInterval_portkept
  apply State.pointGap_portkept
  apply State.outageFix_portkept
  exact h

theorem State.intervalCut_portkept {r s : State} (h : PortKept r s) (m : Nat) (mark : Nat) : PortKept r (s.intervalCut m mark) := by
  unfold State.intervalCut
  extract_lets x1
  have hx1 : PortKept r x1 := by
    unfold x1
    apply State.secondEnd_portkept
    apply State.netClose_portkept
    exact h
  clear_value x1
  refine PortKept.ite ?_ ?_
  · apply State.intervalEnd_portkept
    exact hx1
  · exact hx1

theorem State.pointReset_portkept {r s : State} (h : PortKept r s) (m : Nat) (mark : Nat) : PortKept r (s.pointReset m mark) := by
  unfold State.pointReset
  extract_lets x1
  have hx1 : PortKept r x1 := by
    unfold x1
    refine PortKept.ite ?_ ?_
    · apply State.intervalCut_portkept
      exact h
    · exact h
  clear_value x1
  refine PortKept.ite ?_ ?_
  · apply State.logRaise_portkept
    apply State.modPoint_portkept
    exact hx1
  · exact h

theorem State.mtrAdopt_portkept {r s : State} (h : PortKept r s) (mark : Nat) : PortKept r (s.mtrAdopt mark) := by
  unfold State.mtrAdopt
  extract_lets x1 x2 x3 x4
  have hx4 : PortKept r x4 := by
    unfold x4
    refine PortKept.foldl ?_ _ ?_
    · intro y5 y6 y7
      refine PortKept.ite ?_ ?_
      · apply State.intervalCut_portkept
        exact y7
      · exact y7
    · exact h
  clear_value x4
  refine PortKept.ite ?_ ?_
  · exact h
  · apply State.modMtr_portkept
    exact hx4

theorem State.cycleMeasure_portkept {r s : State} (h : PortKept r s) (cyc : MtrCyc) : PortKept r (s.cycleMeasure cyc) := by
  unfold State.cycleMeasure
  extract_lets x1 x2
  have hx2 : PortKept r x2 := by
    unfold x2
    refine PortKept.foldl ?_ _ ?_
    · intro y4 y5 y6
      extract_lets x8 x9 x10 x11
      have hx9 : PortKept r x9 := by
        unfold x9
        apply State.modPoint_portkept
        exact y6
      clear_value x9
      have hx11 : PortKept r x11 := by
        unfold x11
        refine PortKept.foldl ?_ _ ?_
        · intro y15 y16 y17
          refine PortKept.ite ?_ ?_
          · apply State.setReg_portkept
            exact y17
          · exact y17
        · exact hx9
      clear_value x11
      refine PortKept.ite ?_ ?_
      · refine PortKept.foldl ?_ _ ?_
        · intro y25 y26 y27
          apply State.mtrCond_portkept
          exact y27
        · exact hx11
      · exact y6
    · exact h
  clear_value x2
  apply State.count_portkept
  exact hx2

theorem State.cycleAccumulate_portkept {r s : State} (h : PortKept r s) (cyc : MtrCyc) (first : Bool) : PortKept r (s.cycleAccumulate cyc first) := by
  unfold State.cycleAccumulate
  extract_lets x1 x2
  have hx1 : PortKept r x1 := by
    unfold x1
    refine PortKept.foldl ?_ _ ?_
    · intro y4 y5 y6
      refine PortKept.ite ?_ ?_
      · apply State.pointAccumulate_portkept
        exact y6
      · exact y6
    · exact h
  clear_value x1
  have hx2 : PortKept r x2 := by
    unfold x2
    apply State.modMtr_portkept
    exact hx1
  clear_value x2
  apply State.mtrAdopt_portkept
  refine PortKept.foldl ?_ _ ?_
  · intro y16 y17 y18
    apply State.pointReset_portkept
    exact y18
  · exact hx2

theorem State.cycleHandle_portkept {r s : State} (h : PortKept r s) (cyc : MtrCyc) : PortKept r (s.cycleHandle cyc) := by
  unfold State.cycleHandle
  extract_lets x1 x2 x3
  have hx2 : PortKept r x2 := by
    unfold x2
    apply State.cycleMeasure_portkept
    exact h
  clear_value x2
  have hx3 : PortKept r x3 := by
    unfold x3
    refine PortKept.ite ?_ ?_
    · apply State.modMtr_portkept
      exact hx2
    · apply State.periodicSaves_portkept
      apply State.cycleAccumulate_portkept
      exact hx2
  clear_value x3
  apply State.modMtr_portkept
  exact hx3

theorem State.mtrFreeze_portkept {r s : State} (h : PortKept r s) : PortKept r (s.mtrFreeze) := by
  unfold State.mtrFreeze
  extract_lets x1
  have hx1 : PortKept r x1 := by
    unfold x1
    refine PortKept.foldl ?_ _ ?_
    · intro y3 y4 y5
      apply State.cycleHandle_portkept
      exact y5
    · apply State.modMtr_portkept
      exact h
  clear_value x1
  refine PortKept.ite ?_ ?_
  · apply State.modMtr_portkept
    apply State.backupSave_portkept
    exact hx1
  · exact h

theorem State.mtrRefuseEnd_portkept {r s : State} (h : PortKept r s) : PortKept r (s.mtrRefuseEnd) := by
  unfold State.mtrRefuseEnd
  refine PortKept.ite ?_ ?_
  · apply State.modMtr_portkept
    exact h
  · exact h

/-! ### Pilot.lean -/

theorem State.modPlt_portkept {r s : State} (h : PortKept r s) (f : Plt → Plt) : PortKept r (s.modPlt f) := by
  unfold State.modPlt
  exact h.upd rfl

theorem State.setTask_portkept {r s : State} (h : PortKept r s) (i : Nat) (t : Task) : PortKept r (s.setTask i t) := by
  unfold State.setTask
  apply State.modPlt_portkept
  exact h

theorem State.freeTask_portkept {r s : State} (h : PortKept r s) (i : Nat) : PortKept r (s.freeTask i) := by
  unfold State.freeTask
  apply State.setTask_portkept
  exact h

/-! ### Ports.lean -/

theorem State.macCountBy_portkept {r s : State} (h : PortKept r s) (p : Nat) (c : Nat) (n : Nat) : PortKept r (s.macCountBy p c n) := by
  unfold State.macCountBy
  apply State.countBy_portkept
  exact h

theorem State.rxDrop_portkept {r s : State} (h : PortKept r s) (p : Nat) (c : Nat) : PortKept r (s.rxDrop p c) := by
  unfold State.rxDrop
  apply State.event_portkept
  apply State.macCountBy_portkept
  exact h

theorem State.jobStep_portkept {r s : State} (h : PortKept r s) (job : Option (Nat × Nat)) (lost : Bool) : PortKept r (s.jobStep job lost) := by
  unfold State.jobStep
  extract_lets x1
  split
  · exact h
  · split
    · exact h
    · extract_lets x7 x8
      refine PortKept.ite ?_ ?_
      · apply State.finish_portkept
        exact h.upd rfl
      · exact h.upd rfl

theorem State.jobQueued_portkept {r s : State} (h : PortKept r s) (job : Option (Nat × Nat)) : PortKept r (s.jobQueued job) := by
  unfold State.jobQueued
  extract_lets x1
  split
  · exact h
  · exact h.upd rfl

theorem State.txDrop_portkept {r s : State} (h : PortKept r s) (p : Nat) (c : Nat) (f : TxFrame) : PortKept r (s.txDrop p c f) := by
  unfold State.txDrop
  apply State.jobStep_portkept
  apply State.event_portkept
  apply State.macCountBy_portkept
  exact h

theorem State.intakeEnter_portkept {r s : State} (h : PortKept r s) (f : InFrame) : PortKept r (s.intakeEnter f) := by
  unfold State.intakeEnter
  extract_lets x1 x2
  have hx1 : PortKept r x1 := by
    unfold x1
    apply State.count_portkept
    exact h
  clear_value x1
  refine PortKept.ite ?_ ?_
  · apply State.event_portkept
    apply State.count_portkept
    exact hx1
  · exact hx1.upd rfl

theorem State.rxConsume_portkept {r s : State} (h : PortKept r s) (p : Nat) (f : WireFrame) (b : List Byte) : PortKept r (s.rxConsume p f b) := by
  unfold State.rxConsume
  extract_lets x1 x2
  refine PortKept.ite ?_ ?_
  · exact h.upd rfl
  · split
    · apply State.intakeEnter_portkept
      exact h
    · refine PortKept.ite ?_ ?_
      · apply State.deliver_portkept
        exact h
      · apply State.event_portkept
        apply State.count_portkept
        exact h

/-! ### Quay.lean -/

theorem State.modAln_portkept {r s : State} (h : PortKept r s) (f : Aln → Aln) : PortKept r (s.modAln f) := by
  unfold State.modAln
  exact h.upd rfl

theorem State.modQuay_portkept {r s : State} (h : PortKept r s) (seq : Nat) (f : Quay → Quay) : PortKept r (s.modQuay seq f) := by
  unfold State.modQuay
  apply State.modAln_portkept
  exact h

theorem State.modDet_portkept {r s : State} (h : PortKept r s) (seq : Nat) (d : Nat) (f : Det → Det) : PortKept r (s.modDet seq d f) := by
  unfold State.modDet
  apply State.modQuay_portkept
  exact h

theorem State.dramRegion_portkept {r s : State} (h : PortKept r s) (base : Nat) (len : Nat) (cells : List (Nat × Byte)) : PortKept r (s.dramRegion base len cells) := by
  unfold State.dramRegion
  exact h.upd rfl

theorem State.quayStore_portkept {r s : State} (h : PortKept r s) (q : Quay) : PortKept r (s.quayStore q) := by
  unfold State.quayStore
  apply State.dramRegion_portkept
  exact h

/-! ### Align.lean -/

theorem State.alnNote_portkept {r s : State} (h : PortKept r s) : PortKept r (s.alnNote) := by
  unfold State.alnNote
  refine PortKept.ite ?_ ?_
  · refine PortKept.ite ?_ ?_
    · apply State.modAln_portkept
      exact h
    · exact h
  · apply State.modAln_portkept
    exact h

theorem State.alnRaise_portkept {r s : State} (h : PortKept r s) (d : Nat) (kind : Nat) (seq : Nat) : PortKept r (s.alnRaise d kind seq) := by
  unfold State.alnRaise
  extract_lets x1
  have hx1 : PortKept r x1 := by
    unfold x1
    apply State.almSend_portkept
    exact h
  clear_value x1
  refine PortKept.ite ?_ ?_
  · apply State.capNotice_portkept
    exact hx1
  · exact hx1

theorem State.snapshot_portkept {r s : State} (h : PortKept r s) (seq : Nat) (d : Nat) : PortKept r (s.snapshot seq d) := by
  unfold State.snapshot
  split
  · extract_lets x2
    refine PortKept.ite ?_ ?_
    · exact h
    · apply State.modDet_portkept
      exact h
  · exact h

theorem State.withdrawOf_portkept {r s : State} (h : PortKept r s) (owner : Nat) (p : Nat → Nat → Bool) : PortKept r (s.withdrawOf owner p) := by
  unfold State.withdrawOf
  extract_lets x1
  have hx1 : PortKept r x1 := by
    unfold x1
    apply State.modPlt_portkept
    exact h
  clear_value x1
  refine PortKept.foldl ?_ _ ?_
  · intro y2 y3 y4
    apply State.freeTask_portkept
    exact y4
  · exact hx1

theorem State.withdraw_portkept {r s : State} (h : PortKept r s) (seq : Nat) (d : Nat) : PortKept r (s.withdraw seq d) := by
  unfold State.withdraw
  apply State.withdrawOf_portkept
  exact h

theorem State.alnNotice_portkept {r s : State} (h : PortKept r s) (q : Quay) (d : Nat) (o : Nat) : PortKept r (s.alnNotice q d o) := by
  unfold State.alnNotice
  apply State.almSend_portkept
  exact h

theorem State.settleDoneCheck_portkept {r s : State} (h : PortKept r s) (seq : Nat) : PortKept r (s.settleDoneCheck seq) := by
  unfold State.settleDoneCheck
  split
  · refine PortKept.ite ?_ ?_
    · apply State.modQuay_portkept
      exact h
    · exact h
  · exact h

theorem State.detFinish_portkept {r s : State} (h : PortKept r s) (seq : Nat) (d : Nat) (o : Nat) : PortKept r (s.detFinish seq d o) := by
  unfold State.detFinish
  split
  · exact h
  · extract_lets x3 x4
    have hx3 : PortKept r x3 := by
      unfold x3
      apply State.modDet_portkept
      exact h
    clear_value x3
    have hx4 : PortKept r x4 := by
      unfold x4
      split
      · apply State.count_portkept
        exact hx3
      · apply State.count_portkept
        exact hx3
      · apply State.count_portkept
        exact hx3
      · apply State.alnRaise_portkept
        apply State.event_portkept
        apply State.count_portkept
        exact hx3
      · apply State.alnRaise_portkept
        apply State.event_portkept
        apply State.count_portkept
        exact hx3
      · exact hx3
    clear_value x4
    apply State.settleDoneCheck_portkept
    apply State.alnNotice_portkept
    exact hx4

/-! ### Osc.lean -/

theorem State.modOsc_portkept {r s : State} (h : PortKept r s) (f : Osc → Osc) : PortKept r (s.modOsc f) := by
  unfold State.modOsc
  exact h.upd rfl

theorem State.oscBases_portkept {r s : State} (h : PortKept r s) (seq : Nat) : PortKept r (s.oscBases seq) := by
  unfold State.oscBases
  split
  · apply State.modOsc_portkept
    exact h
  · exact h

theorem State.takeSnapshot_portkept {r s : State} (h : PortKept r s) (seq : Nat) (d : Nat) : PortKept r (s.takeSnapshot seq d) := by
  unfold State.takeSnapshot
  extract_lets x1
  have hx1 : PortKept r x1 := by
    unfold x1
    apply State.snapshot_portkept
    exact h
  clear_value x1
  split
  · refine PortKept.ite ?_ ?_
    · exact h
    · refine PortKept.ite ?_ ?_
      · apply State.oscBases_portkept
        exact hx1
      · exact hx1
  · exact h

/-! ### Isl.lean -/

theorem State.modIsl_portkept {r s : State} (h : PortKept r s) (f : Isl → Isl) : PortKept r (s.modIsl f) := by
  unfold State.modIsl
  exact h.upd rfl

theorem State.islSnapshot_portkept {r s : State} (h : PortKept r s) (seq : Nat) : PortKept r (s.islSnapshot seq) := by
  unfold State.islSnapshot
  split
  · refine PortKept.ite ?_ ?_
    · exact h
    · apply State.modIsl_portkept
      apply State.snapshot_portkept
      exact h
  · exact h

theorem State.detRoute_portkept {r s : State} (h : PortKept r s) (q : Quay) (d : Nat) (o : Nat) : PortKept r (s.detRoute q d o) := by
  unfold State.detRoute
  extract_lets x1 x2 x3 x4 x5
  have hx1 : PortKept r x1 := by
    unfold x1
    apply State.modDet_portkept
    exact h
  clear_value x1
  have hx2 : PortKept r x2 := by
    unfold x2
    refine PortKept.ite ?_ ?_
    · apply State.withdraw_portkept
      exact hx1
    · exact hx1
  clear_value x2
  have hx4 : PortKept r x4 := by
    unfold x4
    apply State.modOsc_portkept
    exact hx2
  clear_value x4
  have hx5 : PortKept r x5 := by
    unfold x5
    apply State.modIsl_portkept
    exact hx2
  clear_value x5
  refine PortKept.ite ?_ ?_
  · refine PortKept.ite ?_ ?_
    · apply State.detFinish_portkept
      exact hx2
    · refine PortKept.ite ?_ ?_
      · refine PortKept.foldl ?_ _ ?_
        · intro y22 y23 y24
          apply State.wantTask_portkept
          exact y24
        · exact hx4
      · exact hx4
  · refine PortKept.ite ?_ ?_
    · refine PortKept.ite ?_ ?_
      · apply State.detFinish_portkept
        exact hx2
      · refine PortKept.ite ?_ ?_
        · apply State.wantTask_portkept
          exact hx5
        · exact hx5
    · apply State.detFinish_portkept
      exact hx2

theorem State.detSettle_portkept {r s : State} (h : PortKept r s) (seq : Nat) : PortKept r (s.detSettle seq) := by
  unfold State.detSettle
  refine PortKept.foldl ?_ _ ?_
  · intro y1 y2 y3
    split
    · refine PortKept.ite ?_ ?_
      · exact y3
      · split
        · apply State.detRoute_portkept
          exact y3
        · exact y3
    · exact y3
  · exact h

theorem State.detSettleAll_portkept {r s : State} (h : PortKept r s) : PortKept r (s.detSettleAll) := by
  unfold State.detSettleAll
  refine PortKept.foldl ?_ _ ?_
  · intro y1 y2 y3
    apply State.detSettle_portkept
    exact y3
  · exact h

/-! ### Alarm.lean -/

theorem State.modAlm_portkept {r s : State} (h : PortKept r s) (f : Alm → Alm) : PortKept r (s.modAlm f) := by
  unfold State.modAlm
  exact h.upd rfl

theorem State.pinDrive_portkept {r s : State} (h : PortKept r s) (p : Nat) : PortKept r (s.pinDrive p) := by
  unfold State.pinDrive
  extract_lets x1 x2 x3 x4
  have hx4 : PortKept r x4 := by
    unfold x4
    apply State.modAlm_portkept
    exact h
  clear_value x4
  refine PortKept.ite ?_ ?_
  · exact hx4
  · apply State.setTs_portkept
    exact hx4

theorem State.pinsDrive_portkept {r s : State} (h : PortKept r s) : PortKept r (s.pinsDrive) := by
  unfold State.pinsDrive
  refine PortKept.ite ?_ ?_
  · exact h
  · refine PortKept.foldl ?_ _ ?_
    · intro y3 y4 y5
      apply State.pinDrive_portkept
      exact y5
    · exact h

/-! ### Compose.lean -/

theorem State.modStr_portkept {r s : State} (h : PortKept r s) (n : Nat) (f : OutStream → OutStream) : PortKept r (s.modStr n f) := by
  unfold State.modStr
  extract_lets x1
  exact h.upd rfl

theorem State.outCompose_portkept {r s : State} (h : PortKept r s) (n : Nat) (q : Quay) (set : CfgSet) : PortKept r (s.outCompose n q set) := by
  unfold State.outCompose
  extract_lets x1 x2 x3 x4 x5 x6 x7 x8 x9 x10 x11 x12 x13 x14
  have hx6 : PortKept r x6 := by
    unfold x6
    apply State.mirrorItem_portkept
    exact h
  clear_value x6
  have hx10 : PortKept r x10 := by
    unfold x10
    refine PortKept.foldl ?_ _ ?_
    · intro y18 y19 y20
      extract_lets x22 x23
      apply State.freshNext_portkept
      apply State.offer_portkept
      exact y20
    · exact hx6
  clear_value x10
  have hx11 : PortKept r x11 := by
    unfold x11
    apply State.countBy_portkept
    apply State.count_portkept
    exact hx10
  clear_value x11
  have hx12 : PortKept r x12 := by
    unfold x12
    refine PortKept.ite ?_ ?_
    · apply State.event_portkept
      apply State.count_portkept
      exact hx11
    · exact hx11
  clear_value x12
  have hx13 : PortKept r x13 := by
    unfold x13
    refine PortKept.ite ?_ ?_
    · apply State.event_portkept
      exact hx12
    · exact hx12
  clear_value x13
  have hx14 : PortKept r x14 := by
    unfold x14
    refine PortKept.ite ?_ ?_
    · apply State.event_portkept
      apply State.count_portkept
      exact hx13
    · exact hx13
  clear_value x14
  apply State.modStr_portkept
  exact hx14

theorem State.composeStage_portkept {r s : State} (h : PortKept r s) (q : Quay) (settled : Bool) : PortKept r (s.composeStage q settled) := by
  unfold State.composeStage
  extract_lets x1
  refine PortKept.foldl ?_ _ ?_
  · intro y3 y4 y5
    extract_lets x7 x8
    refine PortKept.ite ?_ ?_
    · apply State.outCompose_portkept
      exact y5
    · exact y5
  · exact h

theorem State.lateAfterSend_portkept {r s : State} (h : PortKept r s) (q : Quay) : PortKept r (s.lateAfterSend q) := by
  unfold State.lateAfterSend
  extract_lets x1
  refine PortKept.foldl ?_ _ ?_
  · intro y3 y4 y5
    extract_lets x7
    have hx7 : PortKept r x7 := by
      unfold x7
      apply State.modStr_portkept
      exact y5
    clear_value x7
    split
    · extract_lets x12
      refine PortKept.ite ?_ ?_
      · apply State.count_portkept
        exact hx7
      · exact hx7
    · exact y5
  · exact h

theorem State.composeAfter_portkept {r s : State} (h : PortKept r s) (s0 : State) : PortKept r (s0.composeAfter s) := by
  unfold State.composeAfter
  extract_lets x1 x2 x3 x4
  have hx4 : PortKept r x4 := by
    unfold x4
    refine PortKept.foldl ?_ _ ?_
    · intro y6 y7 y8
      apply State.composeStage_portkept
      exact y8
    · exact h
  clear_value x4
  refine PortKept.foldl ?_ _ ?_
  · intro y13 y14 y15
    apply State.composeStage_portkept
    apply State.lateAfterSend_portkept
    exact y15
  · exact hx4

/-! ### Twin.lean -/

theorem State.report_portkept {r s : State} (h : PortKept r s) (src : Nat) (cause : Nat) (master : Nat) (access : Nat) (addr : Nat) : PortKept r (s.report src cause master access addr) := by
  unfold State.report
  extract_lets x1
  refine PortKept.ite ?_ ?_
  · exact h
  · exact h.upd rfl

theorem State.twnSave_portkept {r s : State} (h : PortKept r s) (ok : Bool) : PortKept r (s.twnSave ok) := by
  unfold State.twnSave
  extract_lets x1 x2 x3 x4 x5
  have hx5 : PortKept r x5 := by
    unfold x5
    apply State.freshNext_portkept
    exact h
  clear_value x5
  refine PortKept.ite ?_ ?_
  · apply State.count_portkept
    exact h.upd rfl
  · apply State.report_portkept
    apply State.event_portkept
    exact hx5.upd rfl

/-! ### Fault.lean -/

theorem State.modFlt_portkept {r s : State} (h : PortKept r s) (f : Flt → Flt) : PortKept r (s.modFlt f) := by
  unfold State.modFlt
  exact h.upd rfl

theorem State.modBst_portkept {r s : State} (h : PortKept r s) (f : Bst → Bst) : PortKept r (s.modBst f) := by
  unfold State.modBst
  exact h.upd rfl

theorem State.capAbortAll_portkept {r s : State} (h : PortKept r s) : PortKept r (s.capAbortAll) := by
  unfold State.capAbortAll
  refine PortKept.foldl ?_ _ ?_
  · intro y1 y2 y3
    refine PortKept.ite ?_ ?_
    · apply State.capAbort_portkept
      exact y3
    · exact y3
  · exact h

theorem State.stopNow_portkept {r s : State} (h : PortKept r s) : PortKept r (s.stopNow) := by
  unfold State.stopNow
  extract_lets x1 x2
  have hx1 : PortKept r x1 := by
    unfold x1
    apply State.modAlm_portkept
    exact h
  clear_value x1
  have hx2 : PortKept r x2 := by
    unfold x2
    apply State.capAbortAll_portkept
    apply State.mtrFreeze_portkept
    apply State.alnNote_portkept
    apply State.setFld_portkept
    exact hx1
  clear_value x2
  apply State.pinsDrive_portkept
  apply State.modFlt_portkept
  exact hx2

theorem State.afterHandover_portkept {r s : State} (h : PortKept r s) : PortKept r (s.afterHandover) := by
  unfold State.afterHandover
  refine PortKept.ite ?_ ?_
  · exact h
  · refine PortKept.ite ?_ ?_
    · apply State.stopNow_portkept
      exact h
    · exact h

theorem State.twnSaveNow_portkept {r s : State} (h : PortKept r s) : PortKept r (s.twnSaveNow) := by
  unfold State.twnSaveNow
  apply State.twnSave_portkept
  apply State.freshNext_portkept
  exact h

theorem State.flashFail_portkept {r s : State} (h : PortKept r s) : PortKept r (s.flashFail) := by
  unfold State.flashFail
  apply State.report_portkept
  apply State.event_portkept
  exact h

theorem State.unitFault_portkept {r s : State} (h : PortKept r s) (n : Nat) : PortKept r (s.unitFault n) := by
  unfold State.unitFault
  apply State.report_portkept
  exact h

theorem State.mtrFlashWrite_portkept {r s : State} (h : PortKept r s) (v : MtrSave) (ok : Bool) : PortKept r (s.mtrFlashWrite v ok) := by
  unfold State.mtrFlashWrite
  extract_lets x1 x2
  have hx1 : PortKept r x1 := by
    unfold x1
    apply State.freshNext_portkept
    exact h
  clear_value x1
  have hx2 : PortKept r x2 := by
    unfold x2
    exact hx1.upd rfl
  clear_value x2
  refine PortKept.ite ?_ ?_
  · apply State.count_portkept
    apply State.modMtr_portkept
    exact h.upd rfl
  · apply State.flashFail_portkept
    apply State.unitFault_portkept
    apply State.event_portkept
    apply State.modMtr_portkept
    exact hx2

theorem State.mtrShutdownSave_portkept {r s : State} (h : PortKept r s) : PortKept r (s.mtrShutdownSave) := by
  unfold State.mtrShutdownSave
  refine PortKept.ite ?_ ?_
  · apply State.mtrFlashWrite_portkept
    apply State.freshNext_portkept
    exact h
  · exact h

theorem State.shutdownGo_portkept {r s : State} (h : PortKept r s) : PortKept r (s.shutdownGo) := by
  unfold State.shutdownGo
  refine PortKept.ite ?_ ?_
  · apply State.pinsDrive_portkept
    apply State.modBst_portkept
    apply State.stopNow_portkept
    apply State.twnSaveNow_portkept
    apply State.mtrShutdownSave_portkept
    exact h
  · exact h

/-! ### After.lean -/

theorem State.oscRebase_portkept {r s : State} (h : PortKept r s) (seq : Nat) (g : Nat) : PortKept r (s.oscRebase seq g) := by
  unfold State.oscRebase
  apply State.modOsc_portkept
  exact h

theorem State.islRebase_portkept {r s : State} (h : PortKept r s) (seq : Nat) : PortKept r (s.islRebase seq) := by
  unfold State.islRebase
  apply State.modIsl_portkept
  exact h

theorem State.oscReadFix_portkept {r s : State} (h : PortKept r s) (seq : Nat) (g : Nat) (typ : Nat) (qs : List Quay) : PortKept r (s.oscReadFix seq g typ qs) := by
  unfold State.oscReadFix
  apply State.modOsc_portkept
  exact h

theorem State.islReadFix_portkept {r s : State} (h : PortKept r s) (q : Quay) (typ : Nat) : PortKept r (s.islReadFix q typ) := by
  unfold State.islReadFix
  apply State.modIsl_portkept
  exact h

theorem State.taskStarts_portkept {r s : State} (h : PortKept r s) (t : Task) : PortKept r (s.taskStarts t) := by
  unfold State.taskStarts
  split
  · apply State.takeSnapshot_portkept
    exact h
  · apply State.oscReadFix_portkept
    apply State.oscRebase_portkept
    exact h
  · apply State.oscReadFix_portkept
    exact h
  · apply State.islReadFix_portkept
    apply State.islSnapshot_portkept
    exact h
  · apply State.islReadFix_portkept
    apply State.islRebase_portkept
    exact h
  · apply State.islReadFix_portkept
    exact h
  · exact h

theorem State.startSnapshots_portkept {r s : State} (h : PortKept r s) (s0 : State) : PortKept r (s0.startSnapshots s) := by
  unfold State.startSnapshots
  extract_lets x1
  refine PortKept.foldl ?_ _ ?_
  · intro y2 y3 y4
    apply State.taskStarts_portkept
    exact y4
  · exact h

theorem State.snapAfter_portkept {r s : State} (h : PortKept r s) (qs : List Quay) : PortKept r (s.snapAfter qs) := by
  unfold State.snapAfter
  refine PortKept.ite ?_ ?_
  · refine PortKept.foldl ?_ _ ?_
    · intro y2 y3 y4
      apply State.capSnap_portkept
      exact y4
    · exact h
  · exact h

theorem State.spillSync_portkept {r s : State} (h : PortKept r s) (s0 : State) : PortKept r (s0.spillSync s) := by
  unfold State.spillSync
  refine PortKept.foldl ?_ _ ?_
  · intro y1 y2 y3
    apply State.quayStore_portkept
    exact y3
  · exact h

theorem State.msixSignal_portkept {r s : State} (h : PortKept r s) (v : Nat) : PortKept r (s.msixSignal v) := by
  unfold State.msixSignal
  extract_lets x1 x2
  have hx2 : PortKept r x2 := by
    unfold x2
    apply State.emit_portkept
    exact h
  clear_value x2
  refine PortKept.ite ?_ ?_
  · exact h.upd rfl
  · exact hx2.upd rfl

theorem State.msixAfter_portkept {r s : State} (h : PortKept r s) (s0 : State) : PortKept r (s0.msixAfter s) := by
  unfold State.msixAfter
  extract_lets x1 x2 x3 x4
  have hx2 : PortKept r x2 := by
    unfold x2
    refine PortKept.foldl ?_ _ ?_
    · intro y6 y7 y8
      apply State.msixSignal_portkept
      exact y8
    · exact h
  have hx4 : PortKept r x4 := by
    unfold x4
    exact hx2.upd rfl
  refine PortKept.ite ?_ ?_
  · exact hx4
  · refine PortKept.foldl ?_ _ ?_
    · intro y16 y17 y18
      apply State.msixSignal_portkept
      exact y18
    · exact hx4

theorem State.copiesStart_portkept {r s : State} (h : PortKept r s) : PortKept r (s.copiesStart) := by
  unfold State.copiesStart
  refine PortKept.foldl ?_ _ ?_
  · intro y1 y2 y3
    split
    · refine PortKept.ite ?_ ?_
      · apply State.modQuay_portkept
        apply State.leaseTake_portkept
        exact y3
      · exact y3
    · exact y3
  · exact h

theorem State.sealNow_portkept {r s : State} (h : PortKept r s) (seq : Nat) : PortKept r (s.sealNow seq) := by
  unfold State.sealNow
  apply State.modQuay_portkept
  exact h

theorem State.sealStart_portkept {r s : State} (h : PortKept r s) (t : Nat) : PortKept r (s.sealStart t) := by
  unfold State.sealStart
  refine PortKept.foldl ?_ _ ?_
  · intro y1 y2 y3
    apply State.sealNow_portkept
    exact y3
  · exact h

theorem State.sealsAfter_portkept {r s : State} (h : PortKept r s) : PortKept r (s.sealsAfter) := by
  unfold State.sealsAfter
  apply State.copiesStart_portkept
  refine PortKept.ite ?_ ?_
  · apply State.sealStart_portkept
    exact h
  · exact h

theorem State.modEng_portkept {r s : State} (h : PortKept r s) (e : Nat) (f : Eng → Eng) : PortKept r (s.modEng e f) := by
  unfold State.modEng
  apply State.modPlt_portkept
  exact h

theorem State.rotBegin_portkept {r s : State} (h : PortKept r s) : PortKept r (s.rotBegin) := by
  unfold State.rotBegin
  split
  · refine PortKept.ite ?_ ?_
    · apply State.modEng_portkept
      exact h
    · exact h
  · exact h

theorem State.rotAfter_portkept {r s : State} (h : PortKept r s) (s0 : State) : PortKept r (s0.rotAfter s) := by
  unfold State.rotAfter
  split
  · refine PortKept.ite ?_ ?_
    · apply State.rotBegin_portkept
      exact h
    · exact h
  · exact h

theorem State.unitsAfter_portkept {r s : State} (h : PortKept r s) (s0 : State) : PortKept r (s0.unitsAfter s) := by
  unfold State.unitsAfter
  extract_lets x1 x2
  have hx1 : PortKept r x1 := by
    unfold x1
    apply State.sealsAfter_portkept
    apply State.detSettleAll_portkept
    apply State.alnNote_portkept
    apply State.startSnapshots_portkept
    apply State.rotAfter_portkept
    exact h
  clear_value x1
  have hx2 : PortKept r x2 := by
    unfold x2
    apply State.snapAfter_portkept
    apply State.composeAfter_portkept
    exact hx1
  clear_value x2
  apply State.spillSync_portkept
  apply State.mtrRefuseEnd_portkept
  apply State.shutdownGo_portkept
  apply State.afterHandover_portkept
  exact hx2

theorem State.after_portkept {r s : State} (h : PortKept r s) (s0 : State) : PortKept r (s0.after s) := by
  unfold State.after
  apply State.msixAfter_portkept
  apply State.pwrAfter_portkept
  apply State.unitsAfter_portkept
  exact h

end Sys2Proof.Machine
end

