-- ==== Sys2Proof/Laws/QuayKeptBase.lean ====
section
/-! SUPPORT. The relation QuayKept: which operations leave every quay's stage of life as it is. It composes. -/

namespace Sys2Proof.Machine

/-- The stage of life of each quay: its number, whether its settlement has not begun, whether it is settled, and when settlement began. -/
def State.life (s : State) : List (Nat × Bool × Bool × Nat) :=
  s.aln.quays.map fun q => (q.seq, q.isOpen, q.state == .settled, q.settleStart)

/-- The same quays are held, in the same order; each is unsettled, settled or sealed as before, and its settlement began when it did. -/
structure QuayKept (s t : State) : Prop where
  life : t.life = s.life

theorem QuayKept.refl (s : State) : QuayKept s s := ⟨rfl⟩

/-- A record update of other fields than those QuayKept speaks of. -/
theorem QuayKept.upd {r s t : State} (h : QuayKept r s)
    (e0 : t.life = s.life) : QuayKept r t :=
  ⟨e0.trans h.life⟩

theorem QuayKept.ite {r a b : State} {c : Prop} [Decidable c] (ha : QuayKept r a) (hb : QuayKept r b) : QuayKept r (if c then a else b) := by
  split <;> assumption

theorem QuayKept.iteFst {α : Type} {r : State} {a b : State × α} {c : Prop} [Decidable c] (ha : QuayKept r a.1) (hb : QuayKept r b.1) :
    QuayKept r (if c then a else b).1 := by
  split <;> assumption

theorem QuayKept.ofFst {α : Type} {r s : State} {p : State × α} {a : α} (e : p = (s, a)) (h : QuayKept r p.1) : QuayKept r s := by
  rw [e] at h; exact h

theorem QuayKept.foldl {α : Type} {r : State} {f : State → α → State} (hf : ∀ x a, QuayKept r x → QuayKept r (f x a)) :
    ∀ {s : State} (l : List α), QuayKept r s → QuayKept r (l.foldl f s)
  | _, [], h => h
  | s, a :: l, h => QuayKept.foldl hf (s := f s a) l (hf s a h)

theorem QuayKept.foldlFst {α β : Type} {r : State} {f : State × β → α → State × β} (hf : ∀ x a, QuayKept r x.1 → QuayKept r (f x a).1) :
    ∀ {s : State × β} (l : List α), QuayKept r s.1 → QuayKept r (l.foldl f s).1
  | _, [], h => h
  | s, a :: l, h => QuayKept.foldlFst hf (s := f s a) l (hf s a h)

end Sys2Proof.Machine
end

