-- ==== Sys2Proof/Laws/QuayKept.lean ====
section
/-! SUPPORT. Operations that leave every quay's stage of life as it is. -/

namespace Sys2Proof.Machine

/-! ### Ops.lean -/

theorem State.dramWrite_quaykept {r s : State} (h : QuayKept r s) (a : Nat) (bs : List Byte) : QuayKept r (s.dramWrite a bs) := by
  unfold State.dramWrite
  exact h.upd rfl

theorem State.setReg_quaykept {r s : State} (h : QuayKept r s) (off : Nat) (v : Word) : QuayKept r (s.setReg off v) := by
  unfold State.setReg
  exact h.upd rfl

theorem State.setFld_quaykept {r s : State} (h : QuayKept r s) (off : Nat) (lo : Nat) (w : Nat) (v : Nat) : QuayKept r (s.setFld off lo w v) := by
  unfold State.setFld
  apply State.setReg_quaykept
  exact h

theorem State.event_quaykept {r s : State} (h : QuayKept r s) (off : Nat) (i : Nat) : QuayKept r (s.event off i) := by
  unfold State.event
  apply State.setReg_quaykept
  exact h

theorem State.setReg64_quaykept {r s : State} (h : QuayKept r s) (lo : Nat) (v : Nat) : QuayKept r (s.setReg64 lo v) := by
  unfold State.setReg64
  apply State.setReg_quaykept
  apply State.setReg_quaykept
  exact h

theorem State.countBy_quaykept {r s : State} (h : QuayKept r s) (lo : Nat) (n : Nat) : QuayKept r (s.countBy lo n) := by
  unfold State.countBy
  apply State.setReg64_quaykept
  exact h

theorem State.count_quaykept {r s : State} (h : QuayKept r s) (lo : Nat) : QuayKept r (s.count lo) := by
  unfold State.count
  apply State.countBy_quaykept
  exact h

theorem State.setTs_quaykept {r s : State} (h : QuayKept r s) (off : Nat) (t : Nat) : QuayKept r (s.setTs off t) := by
  unfold State.setTs
  apply State.setReg_quaykept
  apply State.setReg_quaykept
  apply State.setReg_quaykept
  apply State.setReg_quaykept
  exact h

theorem State.emit_quaykept {r s : State} (h : QuayKept r s) (o : Output) : QuayKept r (s.emit o) := by
  unfold State.emit
  exact h.upd rfl

theorem State.freshNext_quaykept {r s : State} (h : QuayKept r s) : QuayKept r (s.freshNext) := by
  unfold State.freshNext
  exact h.upd rfl

theorem State.logRaise_quaykept {r s : State} (h : QuayKept r s) (cls : Nat) (src : Nat) (ev : Nat) (detail : List Nat) : QuayKept r (s.logRaise cls src ev detail) := by
  unfold State.logRaise
  extract_lets x1
  exact h.upd rfl

theorem State.almSend_quaykept {r s : State} (h : QuayKept r s) (i : AlmInput) : QuayKept r (s.almSend i) := by
  unfold State.almSend
  extract_lets x1
  exact h.upd rfl

theorem State.capNotice_quaykept {r s : State} (h : QuayKept r s) (typ : Nat) (m : Nat → Nat → Bool) (at_ : Nat) (code : Nat) : QuayKept r (s.capNotice typ m at_ code) := by
  unfold State.capNotice
  extract_lets x1 x2
  refine QuayKept.ite ?_ ?_
  · exact h.upd rfl
  · exact h

theorem State.offer_quaykept {r s : State} (h : QuayKept r s) (port : Nat) (cls : TxClass) (body : TxBody) (bytes : Nat) (job : Option (Nat × Nat)) : QuayKept r (s.offer port cls body bytes job) := by
  unfold State.offer
  extract_lets x1 x2
  refine QuayKept.ite ?_ ?_
  · exact h.upd rfl
  · exact h.upd rfl

theorem State.wantTask_quaykept {r s : State} (h : QuayKept r s) (t : TaskReq) : QuayKept r (s.wantTask t) := by
  unfold State.wantTask
  extract_lets x1
  exact h.upd rfl

theorem State.deliver_quaykept {r s : State} (h : QuayKept r s) (d : Delivery) : QuayKept r (s.deliver d) := by
  unfold State.deliver
  extract_lets x1
  exact h.upd rfl

theorem State.mirrorItem_quaykept {r s : State} (h : QuayKept r s) (item : Nat) (body : List Byte) : QuayKept r (s.mirrorItem item body) := by
  unfold State.mirrorItem
  extract_lets x1 x2
  refine QuayKept.ite ?_ ?_
  · refine QuayKept.ite ?_ ?_
    · exact h.upd rfl
    · apply State.event_quaykept
      apply State.count_quaykept
      exact h.upd rfl
  · exact h

theorem State.leaseTake_quaykept {r s : State} (h : QuayKept r s) (pool : Nat) (index : Nat) (owner : Nat) : QuayKept r (s.leaseTake pool index owner) := by
  unfold State.leaseTake
  extract_lets x1
  exact h.upd rfl

theorem State.leaseReturn_quaykept {r s : State} (h : QuayKept r s) (pool : Nat) (index : Nat) : QuayKept r (s.leaseReturn pool index) := by
  unfold State.leaseReturn
  exact h.upd rfl

/-! ### Power.lean -/

theorem State.wake_quaykept {r s : State} (h : QuayKept r s) (src : Nat) : QuayKept r (s.wake src) := by
  unfold State.wake
  extract_lets x1
  refine QuayKept.ite ?_ ?_
  · exact h
  · apply State.event_quaykept
    apply State.setReg_quaykept
    exact h.upd rfl

theorem State.pwrAfter_quaykept {r s : State} (h : QuayKept r s) (s0 : State) : QuayKept r (s0.pwrAfter s) := by
  unfold State.pwrAfter
  extract_lets x1 x2
  have hx1 : QuayKept r x1 := by
    unfold x1
    refine QuayKept.ite ?_ ?_
    · apply State.wake_quaykept
      exact h
    · exact h
  clear_value x1
  refine QuayKept.ite ?_ ?_
  · exact hx1.upd rfl
  · exact hx1

/-! ### KeyStore.lean -/

theorem State.keyUseErr_quaykept {r s : State} (h : QuayKept r s) : QuayKept r (s.keyUseErr) := by
  unfold State.keyUseErr
  apply State.event_quaykept
  apply State.count_quaykept
  exact h

theorem State.cryptoStart_quaykept {r s s' : State} (h : QuayKept r s) {o : CryptoOp} (e : s.cryptoStart o = some s') : QuayKept r s' := by
  unfold State.cryptoStart at e
  split at e
  · split at e
    · cases e
      apply State.leaseTake_quaykept
      exact h.upd rfl
    · cases e
  · cases e

theorem State.requestSign_quaykept {r s : State} (h : QuayKept r s) (use : CryptoUse) (slot : Nat) (msg : List Byte) :
    QuayKept r (s.requestSign use slot msg).1 := by
  unfold State.requestSign
  extract_lets waits key
  clear_value key
  refine QuayKept.iteFst ?_ (State.keyUseErr_quaykept h)
  split
  next e => exact State.cryptoStart_quaykept h e
  · exact State.count_quaykept h _

/-! ### Capture.lean -/

theorem State.modCap_quaykept {r s : State} (h : QuayKept r s) (c : Nat) (f : CapCh → CapCh) : QuayKept r (s.modCap c f) := by
  unfold State.modCap
  extract_lets x1
  exact h.upd rfl

theorem State.capEvent_quaykept {r s : State} (h : QuayKept r s) (bit : Nat) (c : Nat) : QuayKept r (s.capEvent bit c) := by
  unfold State.capEvent
  apply State.logRaise_quaykept
  apply State.event_quaykept
  exact h

theorem State.capClose_quaykept {r s : State} (h : QuayKept r s) (c : Nat) (o : CapOpen) : QuayKept r (s.capClose c o) := by
  unfold State.capClose
  extract_lets x1 x2
  have hx2 : QuayKept r x2 := by
    unfold x2
    apply State.modCap_quaykept
    exact h
  clear_value x2
  refine QuayKept.ite ?_ ?_
  · apply State.modCap_quaykept
    exact hx2
  · apply State.count_quaykept
    apply State.modCap_quaykept
    apply State.dramWrite_quaykept
    exact hx2

theorem State.capAppend_quaykept {r s : State} (h : QuayKept r s) (c : Nat) (o : CapOpen) (inst : Nat) (e : List Byte) : QuayKept r (s.capAppend c o inst e) := by
  unfold State.capAppend
  apply State.modCap_quaykept
  exact h

theorem State.capOpenBlock_quaykept {r s : State} (h : QuayKept r s) (c : Nat) (a2 : Nat) (inst : Nat) (period : Nat) (e : List Byte) : QuayKept r (s.capOpenBlock c a2 inst period e) := by
  unfold State.capOpenBlock
  extract_lets x1
  refine QuayKept.ite ?_ ?_
  · apply State.modCap_quaykept
    exact h
  · apply State.modCap_quaykept
    exact h

theorem State.capAdd_quaykept {r s : State} (h : QuayKept r s) (c : Nat) (a2 : Nat) (inst : Nat) (cov : Nat) (period : Nat) (mk : Nat → List Byte) : QuayKept r (s.capAdd c a2 inst cov period mk) := by
  unfold State.capAdd
  extract_lets x1 x2
  have hx2 : QuayKept r x2 := by
    unfold x2
    split
    · apply State.capOpenBlock_quaykept
      exact h
    · extract_lets x3
      refine QuayKept.ite ?_ ?_
      · apply State.capAppend_quaykept
        exact h
      · apply State.capOpenBlock_quaykept
        apply State.capClose_quaykept
        exact h
  clear_value x2
  refine QuayKept.ite ?_ ?_
  · exact h
  · refine QuayKept.ite ?_ ?_
    · apply State.modCap_quaykept
      exact h
    · apply State.modCap_quaykept
      exact hx2

theorem State.capSnap_quaykept {r s : State} (h : QuayKept r s) (seq : Nat) (inst : Nat) (next : Nat) (tq : BitVec 16) (lane : Nat → List Byte) : QuayKept r (s.capSnap seq inst next tq lane) := by
  unfold State.capSnap
  refine QuayKept.foldl ?_ _ ?_
  · intro y1 y2 y3
    extract_lets x5
    apply State.capAdd_quaykept
    exact y3
  · exact h

theorem State.capStop_quaykept {r s : State} (h : QuayKept r s) (c : Nat) (st : CapSt) (cause : Nat) (endAt : Nat) : QuayKept r (s.capStop c st cause endAt) := by
  unfold State.capStop
  extract_lets x1 x2 x3 x4
  have hx1 : QuayKept r x1 := by
    unfold x1
    refine QuayKept.foldl ?_ _ ?_
    · intro y6 y7 y8
      apply State.capClose_quaykept
      exact y8
    · exact h
  clear_value x1
  have hx2 : QuayKept r x2 := by
    unfold x2
    apply State.modCap_quaykept
    exact hx1
  clear_value x2
  have hx4 : QuayKept r x4 := by
    unfold x4
    exact hx2.upd rfl
  clear_value x4
  apply State.dramWrite_quaykept
  exact hx4

theorem capEndRow_quaykept {r s : State} (h : QuayKept r s) (c : Nat) : QuayKept r (capEndRow c s) := by
  unfold capEndRow
  refine QuayKept.ite ?_ ?_
  · apply State.count_quaykept
    apply State.capEvent_quaykept
    apply State.capStop_quaykept
    exact h
  · exact h

theorem capOverflowRow_quaykept {r s : State} (h : QuayKept r s) (c : Nat) (fifo : Bool) : QuayKept r (capOverflowRow c fifo s) := by
  unfold capOverflowRow
  extract_lets x1
  refine QuayKept.ite ?_ ?_
  · apply State.count_quaykept
    apply State.capEvent_quaykept
    apply State.capStop_quaykept
    exact h
  · exact h

theorem State.capAbort_quaykept {r s : State} (h : QuayKept r s) (c : Nat) : QuayKept r (s.capAbort c) := by
  unfold State.capAbort
  extract_lets x1 x2 x3
  have hx2 : QuayKept r x2 := by
    unfold x2
    apply State.modCap_quaykept
    exact h
  clear_value x2
  split
  · apply State.count_quaykept
    exact hx2.upd rfl
  · refine QuayKept.ite ?_ ?_
    · apply State.modCap_quaykept
      apply capEndRow_quaykept
      exact h
    · refine QuayKept.ite ?_ ?_
      · apply State.modCap_quaykept
        apply capOverflowRow_quaykept
        exact h
      · apply State.count_quaykept
        apply State.modCap_quaykept
        apply State.capStop_quaykept
        exact h
  · apply State.modCap_quaykept
    exact h

/-! ### Mtr.lean -/

theorem State.modMtr_quaykept {r s : State} (h : QuayKept r s) (f : Mtr → Mtr) : QuayKept r (s.modMtr f) := by
  unfold State.modMtr
  exact h.upd rfl

theorem State.modPoint_quaykept {r s : State} (h : QuayKept r s) (m : Nat) (f : MtrPoint → MtrPoint) : QuayKept r (s.modPoint m f) := by
  unfold State.modPoint
  apply State.modMtr_quaykept
  exact h

theorem State.modPulse_quaykept {r s : State} (h : QuayKept r s) (o : Nat) (f : MtrPulse → MtrPulse) : QuayKept r (s.modPulse o f) := by
  unfold State.modPulse
  apply State.modMtr_quaykept
  exact h

theorem State.mtrCond_quaykept {r s : State} (h : QuayKept r s) (m : Nat) (k : Nat) : QuayKept r (s.mtrCond m k) := by
  unfold State.mtrCond
  extract_lets x1 x2 x3 x4 x5 x6 x7 x8 x9 x10 x11 x12 x13
  have hx10 : QuayKept r x10 := by
    unfold x10
    apply State.modPoint_quaykept
    exact h
  clear_value x10
  have hx13 : QuayKept r x13 := by
    unfold x13
    apply State.almSend_quaykept
    exact hx10
  clear_value x13
  refine QuayKept.ite ?_ ?_
  · refine QuayKept.ite ?_ ?_
    · apply State.event_quaykept
      exact hx13
    · exact hx13
  · exact hx10

theorem State.pulseAdd_quaykept {r s : State} (h : QuayKept r s) (o : Nat) (imp : Bool) (d : Nat) (start : Nat) (len : Nat) : QuayKept r (s.pulseAdd o imp d start len) := by
  unfold State.pulseAdd
  extract_lets x1 x2 x3 x4 x5 x6 x7 x8
  have hx8 : QuayKept r x8 := by
    unfold x8
    apply State.modPulse_quaykept
    exact h
  clear_value x8
  refine QuayKept.ite ?_ ?_
  · apply State.event_quaykept
    exact hx8
  · exact hx8

theorem State.pulsesAdd_quaykept {r s : State} (h : QuayKept r s) (m : Nat) (d : List Nat) (start : Nat) (len : Nat) : QuayKept r (s.pulsesAdd m d start len) := by
  unfold State.pulsesAdd
  extract_lets x1
  refine QuayKept.foldl ?_ _ ?_
  · intro y3 y4 y5
    extract_lets x7
    refine QuayKept.ite ?_ ?_
    · split
      · apply State.pulseAdd_quaykept
        apply State.pulseAdd_quaykept
        exact y5
      · apply State.pulseAdd_quaykept
        exact y5
      · apply State.pulseAdd_quaykept
        exact y5
      · apply State.pulseAdd_quaykept
        exact y5
    · exact y5
  · exact h

theorem State.energyAdd_quaykept {r s : State} (h : QuayKept r s) (m : Nat) (d : List Nat) (start : Nat) (len : Nat) : QuayKept r (s.energyAdd m d start len) := by
  unfold State.energyAdd
  extract_lets x1 x2 x3
  have hx2 : QuayKept r x2 := by
    unfold x2
    apply State.modPoint_quaykept
    exact h
  clear_value x2
  have hx3 : QuayKept r x3 := by
    unfold x3
    refine QuayKept.ite ?_ ?_
    · apply State.event_quaykept
      exact hx2
    · exact hx2
  clear_value x3
  apply State.pulsesAdd_quaykept
  exact hx3

theorem State.netEnd_quaykept {r s : State} (h : QuayKept r s) (m : Nat) (start : Nat) (len : Nat) : QuayKept r (s.netEnd m start len) := by
  unfold State.netEnd
  extract_lets x1
  apply State.modPoint_quaykept
  apply State.energyAdd_quaykept
  exact h

theorem State.secondEnd_quaykept {r s : State} (h : QuayKept r s) (m : Nat) : QuayKept r (s.secondEnd m) := by
  unfold State.secondEnd
  apply State.modPoint_quaykept
  exact h

theorem State.mtrCompare_quaykept {r s : State} (h : QuayKept r s) (m : Nat) (end_ : Nat) : QuayKept r (s.mtrCompare m end_) := by
  unfold State.mtrCompare
  extract_lets x1 x2
  split
  · refine QuayKept.ite ?_ ?_
    · apply State.count_quaykept
      apply State.event_quaykept
      exact h
    · exact h
  · exact h

theorem State.mtrMirror_quaykept {r s : State} (h : QuayKept r s) (m : Nat) (body : List Byte) : QuayKept r (s.mtrMirror m body) := by
  unfold State.mtrMirror
  extract_lets x1 x2 x3 x4 x5
  have hx5 : QuayKept r x5 := by
    unfold x5
    exact h.upd rfl
  clear_value x5
  apply State.mtrCompare_quaykept
  apply State.mirrorItem_quaykept
  exact hx5

theorem State.mtrRecordWrite_quaykept {r s : State} (h : QuayKept r s) (m : Nat) (body : List Byte) (sig : Option (List Byte)) : QuayKept r (s.mtrRecordWrite m body sig) := by
  unfold State.mtrRecordWrite
  extract_lets x1 x2 x3 x4 x5 x6 x7 x8 x9 x10 x11
  have hx1 : QuayKept r x1 := by
    unfold x1
    split
    · exact h
    · apply State.count_quaykept
      apply State.event_quaykept
      exact h
  clear_value x1
  have hx5 : QuayKept r x5 := by
    unfold x5
    apply State.modMtr_quaykept
    apply State.dramWrite_quaykept
    exact hx1
  clear_value x5
  have hx6 : QuayKept r x6 := by
    unfold x6
    refine QuayKept.ite ?_ ?_
    · refine QuayKept.ite ?_ ?_
      · apply State.event_quaykept
        exact hx5
      · exact hx5
    · exact hx1
  clear_value x6
  have hx9 : QuayKept r x9 := by
    unfold x9
    exact hx6.upd (congrArg (List.map fun q : Quay => (q.seq, q.isOpen, q.state == .settled, q.settleStart)) (show _ = x6.aln.quays from rfl))
  clear_value x9
  have hx10 : QuayKept r x10 := by
    unfold x10
    refine QuayKept.ite ?_ ?_
    · apply State.deliver_quaykept
      exact hx9
    · exact hx9
  clear_value x10
  have hx11 : QuayKept r x11 := by
    unfold x11
    apply State.mtrMirror_quaykept
    exact hx10
  clear_value x11
  apply State.count_quaykept
  apply State.event_quaykept
  exact hx11

theorem State.intervalEnd_quaykept {r s : State} (h : QuayKept r s) (m : Nat) (end_ : Nat) (partialEnd : Bool) (partialNext : Bool) : QuayKept r (s.intervalEnd m end_ partialEnd partialNext) := by
  unfold State.intervalEnd
  extract_lets x1 x2 x3 x4 x5 x6 x7
  have hx4 : QuayKept r x4 := by
    unfold x4
    apply State.modPoint_quaykept
    exact h
  clear_value x4
  have hx5 : QuayKept r x5 := by
    unfold x5
    refine QuayKept.ite ?_ ?_
    · apply State.almSend_quaykept
      apply State.modMtr_quaykept
      exact hx4
    · exact hx4
  clear_value x5
  have hx6 : QuayKept r x6.1 := by
    unfold x6
    apply State.requestSign_quaykept
    exact hx5
  clear_value x6
  have hx7 : QuayKept r x7 := by
    unfold x7
    refine QuayKept.ite ?_ ?_
    · apply State.event_quaykept
      apply State.count_quaykept
      exact h
    · refine QuayKept.ite ?_ ?_
      · exact hx6
      · apply State.mtrRecordWrite_quaykept
        exact hx6
  clear_value x7
  apply State.modPoint_quaykept
  exact hx7

theorem State.backupSave_quaykept {r s : State} (h : QuayKept r s) (pfw : Bool) : QuayKept r (s.backupSave pfw) := by
  unfold State.backupSave
  extract_lets x1 x2 x3 x4 x5
  have hx5 : QuayKept r x5 := by
    unfold x5
    exact h.upd rfl
  clear_value x5
  apply State.count_quaykept
  exact hx5

theorem State.periodicSaves_quaykept {r s : State} (h : QuayKept r s) (force : Bool) : QuayKept r (s.periodicSaves force) := by
  unfold State.periodicSaves
  extract_lets x1 x2 x3
  have hx2 : QuayKept r x2 := by
    unfold x2
    refine QuayKept.ite ?_ ?_
    · apply State.backupSave_quaykept
      exact h
    · exact h
  clear_value x2
  refine QuayKept.ite ?_ ?_
  · apply State.modMtr_quaykept
    exact hx2
  · exact hx2

theorem State.outageFix_quaykept {r s : State} (h : QuayKept r s) (open_ : Nat) : QuayKept r (s.outageFix open_) := by
  unfold State.outageFix
  refine QuayKept.ite ?_ ?_
  · apply State.modMtr_quaykept
    apply State.setReg_quaykept
    exact h
  · exact h

theorem State.netClose_quaykept {r s : State} (h : QuayKept r s) (m : Nat) (start : Nat) : QuayKept r (s.netClose m start) := by
  unfold State.netClose
  split
  · apply State.netEnd_quaykept
    exact h
  · apply State.netEnd_quaykept
    exact h
  · exact h

theorem State.pointInterval_quaykept {r s : State} (h : QuayKept r s) (m : Nat) (cyc : MtrCyc) : QuayKept r (s.pointInterval m cyc) := by
  unfold State.pointInterval
  extract_lets x1 x2 x3 x4 x5
  have hx5 : QuayKept r x5 := by
    unfold x5
    refine QuayKept.ite ?_ ?_
    · apply State.netClose_quaykept
      exact h
    · exact h
  clear_value x5
  refine QuayKept.ite ?_ ?_
  · apply State.modPoint_quaykept
    exact hx5
  · refine QuayKept.ite ?_ ?_
    · exact hx5
    · apply State.modPoint_quaykept
      apply State.intervalEnd_quaykept
      exact hx5

theorem State.pointSecond_quaykept {r s : State} (h : QuayKept r s) (m : Nat) (cyc : MtrCyc) : QuayKept r (s.pointSecond m cyc) := by
  unfold State.pointSecond
  apply State.modPoint_quaykept
  exact h

theorem State.pointEnergy_quaykept {r s : State} (h : QuayKept r s) (m : Nat) (cyc : MtrCyc) (q : MtrQuant) : QuayKept r (s.pointEnergy m cyc q) := by
  unfold State.pointEnergy
  extract_lets x1 x2 x3 x4
  refine QuayKept.ite ?_ ?_
  · exact h
  · refine QuayKept.ite ?_ ?_
    · apply State.energyAdd_quaykept
      exact h
    · apply State.modPoint_quaykept
      exact h

theorem State.pointEnds_quaykept {r s : State} (h : QuayKept r s) (m : Nat) (cyc : MtrCyc) : QuayKept r (s.pointEnds m cyc) := by
  unfold State.pointEnds
  extract_lets x1 x2 x3 x4 x5 x6 x7
  have hx6 : QuayKept r x6 := by
    unfold x6
    refine QuayKept.ite ?_ ?_
    · apply State.netClose_quaykept
      exact h
    · exact h
  clear_value x6
  have hx7 : QuayKept r x7 := by
    unfold x7
    refine QuayKept.ite ?_ ?_
    · apply State.secondEnd_quaykept
      exact hx6
    · exact hx6
  clear_value x7
  refine QuayKept.ite ?_ ?_
  · apply State.intervalEnd_quaykept
    exact hx7
  · exact hx7

theorem State.pointGap_quaykept {r s : State} (h : QuayKept r s) (m : Nat) (cyc : MtrCyc) : QuayKept r (s.pointGap m cyc) := by
  unfold State.pointGap
  extract_lets x1
  refine QuayKept.ite ?_ ?_
  · apply State.secondEnd_quaykept
    refine QuayKept.ite ?_ ?_
    · apply State.netClose_quaykept
      exact h
    · exact h
  · exact h

theorem State.pointAccumulate_quaykept {r s : State} (h : QuayKept r s) (m : Nat) (cyc : MtrCyc) (q : MtrQuant) : QuayKept r (s.pointAccumulate m cyc q) := by
  unfold State.pointAccumulate
  apply State.pointEnds_quaykept
  apply State.pointEnergy_quaykept
  apply State.pointSecond_quaykept
  apply State.pointInterval_quaykept
  apply State.pointGap_quaykept
  apply State.outageFix_quaykept
  exact h

theorem State.intervalCut_quaykept {r s : State} (h : QuayKept r s) (m : Nat) (mark : Nat) : QuayKept r (s.intervalCut m mark) := by
  unfold State.intervalCut
  extract_lets x1
  have hx1 : QuayKept r x1 := by
    unfold x1
    apply State.secondEnd_quaykept
    apply State.netClose_quaykept
    exact h
  clear_value x1
  refine QuayKept.ite ?_ ?_
  · apply State.intervalEnd_quaykept
    exact hx1
  · exact hx1

theorem State.pointReset_quaykept {r s : State} (h : QuayKept r s) (m : Nat) (mark : Nat) : QuayKept r (s.pointReset m mark) := by
  unfold State.pointReset
  extract_lets x1
  have hx1 : QuayKept r x1 := by
    unfold x1
    refine QuayKept.ite ?_ ?_
    · apply State.intervalCut_quaykept
      exact h
    · exact h
  clear_value x1
  refine QuayKept.ite ?_ ?_
  · apply State.logRaise_quaykept
    apply State.modPoint_quaykept
    exact hx1
  · exact h

theorem State.mtrAdopt_quaykept {r s : State} (h : QuayKept r s) (mark : Nat) : QuayKept r (s.mtrAdopt mark) := by
  unfold State.mtrAdopt
  extract_lets x1 x2 x3 x4
  have hx4 : QuayKept r x4 := by
    unfold x4
    refine QuayKept.foldl ?_ _ ?_
    · intro y5 y6 y7
      refine QuayKept.ite ?_ ?_
      · apply State.intervalCut_quaykept
        exact y7
      · exact y7
    · exact h
  clear_value x4
  refine QuayKept.ite ?_ ?_
  · exact h
  · apply State.modMtr_quaykept
    exact hx4

theorem State.cycleMeasure_quaykept {r s : State} (h : QuayKept r s) (cyc : MtrCyc) : QuayKept r (s.cycleMeasure cyc) := by
  unfold State.cycleMeasure
  extract_lets x1 x2
  have hx2 : QuayKept r x2 := by
    unfold x2
    refine QuayKept.foldl ?_ _ ?_
    · intro y4 y5 y6
      extract_lets x8 x9 x10 x11
      have hx9 : QuayKept r x9 := by
        unfold x9
        apply State.modPoint_quaykept
        exact y6
      clear_value x9
      have hx11 : QuayKept r x11 := by
        unfold x11
        refine QuayKept.foldl ?_ _ ?_
        · intro y15 y16 y17
          refine QuayKept.ite ?_ ?_
          · apply State.setReg_quaykept
            exact y17
          · exact y17
        · exact hx9
      clear_value x11
      refine QuayKept.ite ?_ ?_
      · refine QuayKept.foldl ?_ _ ?_
        · intro y25 y26 y27
          apply State.mtrCond_quaykept
          exact y27
        · exact hx11
      · exact y6
    · exact h
  clear_value x2
  apply State.count_quaykept
  exact hx2

theorem State.cycleAccumulate_quaykept {r s : State} (h : QuayKept r s) (cyc : MtrCyc) (first : Bool) : QuayKept r (s.cycleAccumulate cyc first) := by
  unfold State.cycleAccumulate
  extract_lets x1 x2
  have hx1 : QuayKept r x1 := by
    unfold x1
    refine QuayKept.foldl ?_ _ ?_
    · intro y4 y5 y6
      refine QuayKept.ite ?_ ?_
      · apply State.pointAccumulate_quaykept
        exact y6
      · exact y6
    · exact h
  clear_value x1
  have hx2 : QuayKept r x2 := by
    unfold x2
    apply State.modMtr_quaykept
    exact hx1
  clear_value x2
  apply State.mtrAdopt_quaykept
  refine QuayKept.foldl ?_ _ ?_
  · intro y16 y17 y18
    apply State.pointReset_quaykept
    exact y18
  · exact hx2

theorem State.cycleHandle_quaykept {r s : State} (h : QuayKept r s) (cyc : MtrCyc) : QuayKept r (s.cycleHandle cyc) := by
  unfold State.cycleHandle
  extract_lets x1 x2 x3
  have hx2 : QuayKept r x2 := by
    unfold x2
    apply State.cycleMeasure_quaykept
    exact h
  clear_value x2
  have hx3 : QuayKept r x3 := by
    unfold x3
    refine QuayKept.ite ?_ ?_
    · apply State.modMtr_quaykept
      exact hx2
    · apply State.periodicSaves_quaykept
      apply State.cycleAccumulate_quaykept
      exact hx2
  clear_value x3
  apply State.modMtr_quaykept
  exact hx3

theorem State.mtrFreeze_quaykept {r s : State} (h : QuayKept r s) : QuayKept r (s.mtrFreeze) := by
  unfold State.mtrFreeze
  extract_lets x1
  have hx1 : QuayKept r x1 := by
    unfold x1
    refine QuayKept.foldl ?_ _ ?_
    · intro y3 y4 y5
      apply State.cycleHandle_quaykept
      exact y5
    · apply State.modMtr_quaykept
      exact h
  clear_value x1
  refine QuayKept.ite ?_ ?_
  · apply State.modMtr_quaykept
    apply State.backupSave_quaykept
    exact hx1
  · exact h

theorem State.mtrRefuseEnd_quaykept {r s : State} (h : QuayKept r s) : QuayKept r (s.mtrRefuseEnd) := by
  unfold State.mtrRefuseEnd
  refine QuayKept.ite ?_ ?_
  · apply State.modMtr_quaykept
    exact h
  · exact h

/-! ### Pilot.lean -/

theorem State.modPlt_quaykept {r s : State} (h : QuayKept r s) (f : Plt → Plt) : QuayKept r (s.modPlt f) := by
  unfold State.modPlt
  exact h.upd rfl

theorem State.setTask_quaykept {r s : State} (h : QuayKept r s) (i : Nat) (t : Task) : QuayKept r (s.setTask i t) := by
  unfold State.setTask
  apply State.modPlt_quaykept
  exact h

theorem State.freeTask_quaykept {r s : State} (h : QuayKept r s) (i : Nat) : QuayKept r (s.freeTask i) := by
  unfold State.freeTask
  apply State.setTask_quaykept
  exact h

/-! ### Intake.lean -/

theorem State.modBin_quaykept {r s : State} (h : QuayKept r s) (f : Bin → Bin) : QuayKept r (s.modBin f) := by
  unfold State.modBin
  exact h.upd rfl

theorem State.berthCnt_quaykept {r s : State} (h : QuayKept r s) (b : Nat) (i : Nat) : QuayKept r (s.berthCnt b i) := by
  unfold State.berthCnt
  extract_lets x1 x2
  apply State.modBin_quaykept
  exact h

/-! ### Quay.lean -/

theorem State.modAln_quaykept {r s : State} (h : QuayKept r s) (f : Aln → Aln) (h1 : ∀ b, (f b).quays = b.quays) : QuayKept r (s.modAln f) :=
  h.upd (congrArg (List.map _) (h1 _))

theorem State.modQuay_quaykept {r s : State} (h : QuayKept r s) (seq : Nat) (f : Quay → Quay) (h1 : ∀ q, (f q).seq = q.seq)
    (h2 : ∀ q, (f q).isOpen = q.isOpen) (h3 : ∀ q, ((f q).state == .settled) = (q.state == .settled))
    (h4 : ∀ q, (f q).settleStart = q.settleStart) : QuayKept r (s.modQuay seq f) := by
  refine h.upd ?_
  show List.map _ (List.map _ s.aln.quays) = List.map _ s.aln.quays
  rw [List.map_map]
  refine List.map_congr_left fun q _ => ?_
  simp only [Function.comp_apply]
  split
  · rw [h1, h2, h3, h4]
  · rfl

theorem State.modDet_quaykept {r s : State} (h : QuayKept r s) (seq : Nat) (d : Nat) (f : Det → Det) : QuayKept r (s.modDet seq d f) := by
  unfold State.modDet
  apply State.modQuay_quaykept
  · exact h
  · intro y2
    rfl
  · intro y3
    rfl
  · intro y4
    rfl
  · intro y5
    rfl

theorem State.dramRegion_quaykept {r s : State} (h : QuayKept r s) (base : Nat) (len : Nat) (cells : List (Nat × Byte)) : QuayKept r (s.dramRegion base len cells) := by
  unfold State.dramRegion
  exact h.upd rfl

theorem State.quayStore_quaykept {r s : State} (h : QuayKept r s) (q : Quay) : QuayKept r (s.quayStore q) := by
  unfold State.quayStore
  apply State.dramRegion_quaykept
  exact h

/-! ### Align.lean -/

theorem State.alnNote_quaykept {r s : State} (h : QuayKept r s) : QuayKept r (s.alnNote) := by
  unfold State.alnNote
  refine QuayKept.ite ?_ ?_
  · refine QuayKept.ite ?_ ?_
    · apply State.modAln_quaykept
      · exact h
      · intro y4
        rfl
    · exact h
  · apply State.modAln_quaykept
    · exact h
    · intro y8
      rfl

theorem State.slotReturn_quaykept {r s : State} (h : QuayKept r s) (q : Quay) : QuayKept r (s.slotReturn q) := by
  unfold State.slotReturn
  split
  · apply State.leaseReturn_quaykept
    exact h
  · exact h

theorem State.tugReturn_quaykept {r s : State} (h : QuayKept r s) (q : Quay) : QuayKept r (s.tugReturn q) := by
  unfold State.tugReturn
  split
  · apply State.leaseReturn_quaykept
    exact h
  · exact h

theorem State.spillDone_quaykept {r s : State} (h : QuayKept r s) (q : Quay) : QuayKept r (s.spillDone q) := by
  unfold State.spillDone
  extract_lets x1
  have hx1 : QuayKept r x1 := by
    unfold x1
    apply State.slotReturn_quaykept
    apply State.tugReturn_quaykept
    apply State.modQuay_quaykept
    · exact h
    · intro y2
      rfl
    · intro y3
      rfl
    · intro y4
      rfl
    · intro y5
      rfl
  clear_value x1
  split
  · apply State.quayStore_quaykept
    exact hx1
  · exact hx1

theorem State.putEntry_quaykept {r s : State} (h : QuayKept r s) (seq : Nat) (b : Nat) (e : Entry) : QuayKept r (s.putEntry seq b e) := by
  unfold State.putEntry
  apply State.modQuay_quaykept
  · exact h
  · intro y2
    rfl
  · intro y3
    rfl
  · intro y4
    rfl
  · intro y5
    rfl

theorem State.alnRaise_quaykept {r s : State} (h : QuayKept r s) (d : Nat) (kind : Nat) (seq : Nat) : QuayKept r (s.alnRaise d kind seq) := by
  unfold State.alnRaise
  extract_lets x1
  have hx1 : QuayKept r x1 := by
    unfold x1
    apply State.almSend_quaykept
    exact h
  clear_value x1
  refine QuayKept.ite ?_ ?_
  · apply State.capNotice_quaykept
    exact hx1
  · exact hx1

theorem State.quorumSet_quaykept {r s : State} (h : QuayKept r s) (q : Quay) (d : Nat) : QuayKept r (s.quorumSet q d) := by
  unfold State.quorumSet
  extract_lets cov s1 s2 s3
  have k1 : QuayKept r s1 := by
    refine State.modQuay_quaykept (State.modDet_quaykept h _ _ _) _ _ (fun _ => rfl) (fun x => ?_) (fun x => ?_) (fun _ => rfl)
    · show ((if x.state = .open_ then QuaySt.provisional else x.state) == .open_ || (if x.state = .open_ then QuaySt.provisional else x.state) == .provisional) =
        (x.state == .open_ || x.state == .provisional)
      cases x.state <;> rfl
    · show ((if x.state = .open_ then QuaySt.provisional else x.state) == .settled) = (x.state == .settled)
      cases x.state <;> rfl
  have k2 : QuayKept r s2 := State.count_quaykept (State.event_quaykept k1 _ _) _
  have k3 : QuayKept r s3 := by
    refine QuayKept.ite ?_ (QuayKept.ite ?_ k2)
    · exact QuayKept.foldl (fun x a hx => State.wantTask_quaykept hx _) _ k2
    · exact State.wantTask_quaykept k2 _
  exact State.alnRaise_quaykept k3 _ _ _

theorem State.quorumTest_quaykept {r s : State} (h : QuayKept r s) (seq : Nat) : QuayKept r (s.quorumTest seq) := by
  unfold State.quorumTest
  refine QuayKept.foldl ?_ _ ?_
  · intro y1 y2 y3
    split
    · refine QuayKept.ite ?_ ?_
      · apply State.quorumSet_quaykept
        exact y3
      · exact y3
    · exact y3
  · exact h

theorem State.noteWrite_quaykept {r s : State} (h : QuayKept r s) (seq : Nat) (b : Nat) (e : Entry) : QuayKept r (s.noteWrite seq b e) := by
  unfold State.noteWrite
  refine QuayKept.foldl ?_ _ ?_
  · intro y1 y2 y3
    extract_lets x5
    have hx5 : QuayKept r x5 := by
      unfold x5
      apply State.modDet_quaykept
      exact y3
    clear_value x5
    split
    · refine QuayKept.ite ?_ ?_
      · split
        · extract_lets x12
          apply State.modDet_quaykept
          exact hx5
        · exact hx5
      · exact y3
    · exact y3
  · exact h

theorem State.quayWrite_quaykept {r s : State} (h : QuayKept r s) (seq : Nat) (b : Nat) (e : Entry) (late : Bool) : QuayKept r (s.quayWrite seq b e late) := by
  unfold State.quayWrite
  extract_lets x1
  have hx1 : QuayKept r x1 := by
    unfold x1
    apply State.modQuay_quaykept
    · apply State.putEntry_quaykept
      exact h
    · intro y5
      rfl
    · intro y6
      rfl
    · intro y7
      rfl
    · intro y8
      rfl
  clear_value x1
  refine QuayKept.ite ?_ ?_
  · exact hx1
  · apply State.quorumTest_quaykept
    apply State.noteWrite_quaykept
    exact hx1

theorem State.spreadHold_quaykept {r s : State} (h : QuayKept r s) (q : Quay) (b : Nat) (e : Entry) : QuayKept r (s.spreadHold q b e) := by
  unfold State.spreadHold
  extract_lets x1
  refine QuayKept.ite ?_ ?_
  · exact h
  · refine QuayKept.foldl ?_ _ ?_
    · intro y5 y6 y7
      split
      · refine QuayKept.ite ?_ ?_
        · apply State.quayWrite_quaykept
          exact y7
        · exact y7
      · exact y7
    · exact h

theorem State.snapshot_quaykept {r s : State} (h : QuayKept r s) (seq : Nat) (d : Nat) : QuayKept r (s.snapshot seq d) := by
  unfold State.snapshot
  split
  · extract_lets x2
    refine QuayKept.ite ?_ ?_
    · exact h
    · apply State.modDet_quaykept
      exact h
  · exact h

theorem State.substitute_quaykept {r s : State} (h : QuayKept r s) (q : Quay) : QuayKept r (s.substitute q) := by
  unfold State.substitute
  extract_lets x1
  refine QuayKept.foldl ?_ _ ?_
  · intro y3 y4 y5
    apply State.count_quaykept
    apply State.quayWrite_quaykept
    exact y5
  · exact h

theorem State.withdrawOf_quaykept {r s : State} (h : QuayKept r s) (owner : Nat) (p : Nat → Nat → Bool) : QuayKept r (s.withdrawOf owner p) := by
  unfold State.withdrawOf
  extract_lets x1
  have hx1 : QuayKept r x1 := by
    unfold x1
    apply State.modPlt_quaykept
    exact h
  clear_value x1
  refine QuayKept.foldl ?_ _ ?_
  · intro y2 y3 y4
    apply State.freeTask_quaykept
    exact y4
  · exact hx1

theorem State.withdraw_quaykept {r s : State} (h : QuayKept r s) (seq : Nat) (d : Nat) : QuayKept r (s.withdraw seq d) := by
  unfold State.withdraw
  apply State.withdrawOf_quaykept
  exact h

theorem State.alnNotice_quaykept {r s : State} (h : QuayKept r s) (q : Quay) (d : Nat) (o : Nat) : QuayKept r (s.alnNotice q d o) := by
  unfold State.alnNotice
  apply State.almSend_quaykept
  exact h

theorem State.settleDoneCheck_quaykept {r s : State} (h : QuayKept r s) (seq : Nat) : QuayKept r (s.settleDoneCheck seq) := by
  unfold State.settleDoneCheck
  split
  · refine QuayKept.ite ?_ ?_
    · apply State.modQuay_quaykept
      · exact h
      · intro y4
        rfl
      · intro y5
        rfl
      · intro y6
        rfl
      · intro y7
        rfl
    · exact h
  · exact h

theorem State.detFinish_quaykept {r s : State} (h : QuayKept r s) (seq : Nat) (d : Nat) (o : Nat) : QuayKept r (s.detFinish seq d o) := by
  unfold State.detFinish
  split
  · exact h
  · extract_lets x3 x4
    have hx3 : QuayKept r x3 := by
      unfold x3
      apply State.modDet_quaykept
      exact h
    clear_value x3
    have hx4 : QuayKept r x4 := by
      unfold x4
      split
      · apply State.count_quaykept
        exact hx3
      · apply State.count_quaykept
        exact hx3
      · apply State.count_quaykept
        exact hx3
      · apply State.alnRaise_quaykept
        apply State.event_quaykept
        apply State.count_quaykept
        exact hx3
      · apply State.alnRaise_quaykept
        apply State.event_quaykept
        apply State.count_quaykept
        exact hx3
      · exact hx3
    clear_value x4
    apply State.settleDoneCheck_quaykept
    apply State.alnNotice_quaykept
    exact hx4

theorem State.lateCompare_quaykept {r s : State} (h : QuayKept r s) (q : Quay) (b : Nat) (e : Entry) (d : Nat) : QuayKept r (s.lateCompare q b e d) := by
  unfold State.lateCompare
  extract_lets x1 x2 x3 x4 x5 x6
  have hx6 : QuayKept r x6 := by
    unfold x6
    apply State.event_quaykept
    apply State.modQuay_quaykept
    · apply State.modDet_quaykept
      exact h
    · intro y11
      rfl
    · intro y12
      rfl
    · intro y13
      rfl
    · intro y14
      rfl
  clear_value x6
  refine QuayKept.ite ?_ ?_
  · exact h
  · refine QuayKept.ite ?_ ?_
    · refine QuayKept.ite ?_ ?_
      · exact hx6
      · apply State.alnRaise_quaykept
        exact hx6
    · exact h

theorem State.lateWrite_quaykept {r s : State} (h : QuayKept r s) (q : Quay) (b : Nat) (e : Entry) : QuayKept r (s.lateWrite q b e) := by
  unfold State.lateWrite
  extract_lets x1 x2
  have hx1 : QuayKept r x1 := by
    unfold x1
    apply State.modQuay_quaykept
    · apply State.quayWrite_quaykept
      exact h
    · intro y6
      rfl
    · intro y7
      rfl
    · intro y8
      rfl
    · intro y9
      rfl
  clear_value x1
  have hx2 : QuayKept r x2 := by
    unfold x2
    apply State.spreadHold_quaykept
    apply State.berthCnt_quaykept
    apply State.count_quaykept
    exact hx1
  clear_value x2
  refine QuayKept.foldl ?_ _ ?_
  · intro y15 y16 y17
    apply State.lateCompare_quaykept
    exact y17
  · exact hx2

theorem State.sealNow_quaykept {r s : State} (h : QuayKept r s) (seq : Nat) : QuayKept r (s.sealNow seq) := by
  unfold State.sealNow
  apply State.modQuay_quaykept
  · exact h
  · intro y1
    rfl
  · intro y2
    rfl
  · intro y3
    rfl
  · intro y4
    rfl

theorem State.sealStart_quaykept {r s : State} (h : QuayKept r s) (t : Nat) : QuayKept r (s.sealStart t) := by
  unfold State.sealStart
  refine QuayKept.foldl ?_ _ ?_
  · intro y1 y2 y3
    apply State.sealNow_quaykept
    exact y3
  · exact h

/-! ### Osc.lean -/

theorem State.modOsc_quaykept {r s : State} (h : QuayKept r s) (f : Osc → Osc) : QuayKept r (s.modOsc f) := by
  unfold State.modOsc
  exact h.upd rfl

theorem State.oscBases_quaykept {r s : State} (h : QuayKept r s) (seq : Nat) : QuayKept r (s.oscBases seq) := by
  unfold State.oscBases
  split
  · apply State.modOsc_quaykept
    exact h
  · exact h

theorem State.takeSnapshot_quaykept {r s : State} (h : QuayKept r s) (seq : Nat) (d : Nat) : QuayKept r (s.takeSnapshot seq d) := by
  unfold State.takeSnapshot
  extract_lets x1
  have hx1 : QuayKept r x1 := by
    unfold x1
    apply State.snapshot_quaykept
    exact h
  clear_value x1
  split
  · refine QuayKept.ite ?_ ?_
    · exact h
    · refine QuayKept.ite ?_ ?_
      · apply State.oscBases_quaykept
        exact hx1
      · exact hx1
  · exact h

/-! ### Isl.lean -/

theorem State.modIsl_quaykept {r s : State} (h : QuayKept r s) (f : Isl → Isl) : QuayKept r (s.modIsl f) := by
  unfold State.modIsl
  exact h.upd rfl

theorem State.islSnapshot_quaykept {r s : State} (h : QuayKept r s) (seq : Nat) : QuayKept r (s.islSnapshot seq) := by
  unfold State.islSnapshot
  split
  · refine QuayKept.ite ?_ ?_
    · exact h
    · apply State.modIsl_quaykept
      apply State.snapshot_quaykept
      exact h
  · exact h

theorem State.detRoute_quaykept {r s : State} (h : QuayKept r s) (q : Quay) (d : Nat) (o : Nat) : QuayKept r (s.detRoute q d o) := by
  unfold State.detRoute
  extract_lets x1 x2 x3 x4 x5
  have hx1 : QuayKept r x1 := by
    unfold x1
    apply State.modDet_quaykept
    exact h
  clear_value x1
  have hx2 : QuayKept r x2 := by
    unfold x2
    refine QuayKept.ite ?_ ?_
    · apply State.withdraw_quaykept
      exact hx1
    · exact hx1
  clear_value x2
  have hx4 : QuayKept r x4 := by
    unfold x4
    apply State.modOsc_quaykept
    exact hx2
  clear_value x4
  have hx5 : QuayKept r x5 := by
    unfold x5
    apply State.modIsl_quaykept
    exact hx2
  clear_value x5
  refine QuayKept.ite ?_ ?_
  · refine QuayKept.ite ?_ ?_
    · apply State.detFinish_quaykept
      exact hx2
    · refine QuayKept.ite ?_ ?_
      · refine QuayKept.foldl ?_ _ ?_
        · intro y22 y23 y24
          apply State.wantTask_quaykept
          exact y24
        · exact hx4
      · exact hx4
  · refine QuayKept.ite ?_ ?_
    · refine QuayKept.ite ?_ ?_
      · apply State.detFinish_quaykept
        exact hx2
      · refine QuayKept.ite ?_ ?_
        · apply State.wantTask_quaykept
          exact hx5
        · exact hx5
    · apply State.detFinish_quaykept
      exact hx2

theorem State.detSettle_quaykept {r s : State} (h : QuayKept r s) (seq : Nat) : QuayKept r (s.detSettle seq) := by
  unfold State.detSettle
  refine QuayKept.foldl ?_ _ ?_
  · intro y1 y2 y3
    split
    · refine QuayKept.ite ?_ ?_
      · exact y3
      · split
        · apply State.detRoute_quaykept
          exact y3
        · exact y3
    · exact y3
  · exact h

theorem State.detSettleAll_quaykept {r s : State} (h : QuayKept r s) : QuayKept r (s.detSettleAll) := by
  unfold State.detSettleAll
  refine QuayKept.foldl ?_ _ ?_
  · intro y1 y2 y3
    apply State.detSettle_quaykept
    exact y3
  · exact h

/-! ### Alarm.lean -/

theorem State.modAlm_quaykept {r s : State} (h : QuayKept r s) (f : Alm → Alm) : QuayKept r (s.modAlm f) := by
  unfold State.modAlm
  exact h.upd rfl

theorem State.pinDrive_quaykept {r s : State} (h : QuayKept r s) (p : Nat) : QuayKept r (s.pinDrive p) := by
  unfold State.pinDrive
  extract_lets x1 x2 x3 x4
  have hx4 : QuayKept r x4 := by
    unfold x4
    apply State.modAlm_quaykept
    exact h
  clear_value x4
  refine QuayKept.ite ?_ ?_
  · exact hx4
  · apply State.setTs_quaykept
    exact hx4

theorem State.pinsDrive_quaykept {r s : State} (h : QuayKept r s) : QuayKept r (s.pinsDrive) := by
  unfold State.pinsDrive
  refine QuayKept.ite ?_ ?_
  · exact h
  · refine QuayKept.foldl ?_ _ ?_
    · intro y3 y4 y5
      apply State.pinDrive_quaykept
      exact y5
    · exact h

/-! ### Compose.lean -/

theorem State.modStr_quaykept {r s : State} (h : QuayKept r s) (n : Nat) (f : OutStream → OutStream) : QuayKept r (s.modStr n f) := by
  unfold State.modStr
  extract_lets x1
  exact h.upd rfl

theorem State.outCompose_quaykept {r s : State} (h : QuayKept r s) (n : Nat) (q : Quay) (set : CfgSet) : QuayKept r (s.outCompose n q set) := by
  unfold State.outCompose
  extract_lets x1 x2 x3 x4 x5 x6 x7 x8 x9 x10 x11 x12 x13 x14
  have hx6 : QuayKept r x6 := by
    unfold x6
    apply State.mirrorItem_quaykept
    exact h
  clear_value x6
  have hx10 : QuayKept r x10 := by
    unfold x10
    refine QuayKept.foldl ?_ _ ?_
    · intro y18 y19 y20
      extract_lets x22 x23
      apply State.freshNext_quaykept
      apply State.offer_quaykept
      exact y20
    · exact hx6
  clear_value x10
  have hx11 : QuayKept r x11 := by
    unfold x11
    apply State.countBy_quaykept
    apply State.count_quaykept
    exact hx10
  clear_value x11
  have hx12 : QuayKept r x12 := by
    unfold x12
    refine QuayKept.ite ?_ ?_
    · apply State.event_quaykept
      apply State.count_quaykept
      exact hx11
    · exact hx11
  clear_value x12
  have hx13 : QuayKept r x13 := by
    unfold x13
    refine QuayKept.ite ?_ ?_
    · apply State.event_quaykept
      exact hx12
    · exact hx12
  clear_value x13
  have hx14 : QuayKept r x14 := by
    unfold x14
    refine QuayKept.ite ?_ ?_
    · apply State.event_quaykept
      apply State.count_quaykept
      exact hx13
    · exact hx13
  clear_value x14
  apply State.modStr_quaykept
  exact hx14

theorem State.composeStage_quaykept {r s : State} (h : QuayKept r s) (q : Quay) (settled : Bool) : QuayKept r (s.composeStage q settled) := by
  unfold State.composeStage
  extract_lets x1
  refine QuayKept.foldl ?_ _ ?_
  · intro y3 y4 y5
    extract_lets x7 x8
    refine QuayKept.ite ?_ ?_
    · apply State.outCompose_quaykept
      exact y5
    · exact y5
  · exact h

theorem State.lateAfterSend_quaykept {r s : State} (h : QuayKept r s) (q : Quay) : QuayKept r (s.lateAfterSend q) := by
  unfold State.lateAfterSend
  extract_lets x1
  refine QuayKept.foldl ?_ _ ?_
  · intro y3 y4 y5
    extract_lets x7
    have hx7 : QuayKept r x7 := by
      unfold x7
      apply State.modStr_quaykept
      exact y5
    clear_value x7
    split
    · extract_lets x12
      refine QuayKept.ite ?_ ?_
      · apply State.count_quaykept
        exact hx7
      · exact hx7
    · exact y5
  · exact h

theorem State.composeAfter_quaykept {r s : State} (h : QuayKept r s) (s0 : State) : QuayKept r (s0.composeAfter s) := by
  unfold State.composeAfter
  extract_lets x1 x2 x3 x4
  have hx4 : QuayKept r x4 := by
    unfold x4
    refine QuayKept.foldl ?_ _ ?_
    · intro y6 y7 y8
      apply State.composeStage_quaykept
      exact y8
    · exact h
  clear_value x4
  refine QuayKept.foldl ?_ _ ?_
  · intro y13 y14 y15
    apply State.composeStage_quaykept
    apply State.lateAfterSend_quaykept
    exact y15
  · exact hx4

/-! ### Twin.lean -/

theorem State.report_quaykept {r s : State} (h : QuayKept r s) (src : Nat) (cause : Nat) (master : Nat) (access : Nat) (addr : Nat) : QuayKept r (s.report src cause master access addr) := by
  unfold State.report
  extract_lets x1
  refine QuayKept.ite ?_ ?_
  · exact h
  · exact h.upd rfl

theorem State.twnSave_quaykept {r s : State} (h : QuayKept r s) (ok : Bool) : QuayKept r (s.twnSave ok) := by
  unfold State.twnSave
  extract_lets x1 x2 x3 x4 x5
  have hx5 : QuayKept r x5 := by
    unfold x5
    apply State.freshNext_quaykept
    exact h
  clear_value x5
  refine QuayKept.ite ?_ ?_
  · apply State.count_quaykept
    exact h.upd rfl
  · apply State.report_quaykept
    apply State.event_quaykept
    exact hx5.upd rfl

/-! ### Fault.lean -/

theorem State.modFlt_quaykept {r s : State} (h : QuayKept r s) (f : Flt → Flt) : QuayKept r (s.modFlt f) := by
  unfold State.modFlt
  exact h.upd rfl

theorem State.modBst_quaykept {r s : State} (h : QuayKept r s) (f : Bst → Bst) : QuayKept r (s.modBst f) := by
  unfold State.modBst
  exact h.upd rfl

theorem State.capAbortAll_quaykept {r s : State} (h : QuayKept r s) : QuayKept r (s.capAbortAll) := by
  unfold State.capAbortAll
  refine QuayKept.foldl ?_ _ ?_
  · intro y1 y2 y3
    refine QuayKept.ite ?_ ?_
    · apply State.capAbort_quaykept
      exact y3
    · exact y3
  · exact h

theorem State.stopNow_quaykept {r s : State} (h : QuayKept r s) : QuayKept r (s.stopNow) := by
  unfold State.stopNow
  extract_lets x1 x2
  have hx1 : QuayKept r x1 := by
    unfold x1
    apply State.modAlm_quaykept
    exact h
  clear_value x1
  have hx2 : QuayKept r x2 := by
    unfold x2
    apply State.capAbortAll_quaykept
    apply State.mtrFreeze_quaykept
    apply State.alnNote_quaykept
    apply State.setFld_quaykept
    exact hx1
  clear_value x2
  apply State.pinsDrive_quaykept
  apply State.modFlt_quaykept
  exact hx2

theorem State.afterHandover_quaykept {r s : State} (h : QuayKept r s) : QuayKept r (s.afterHandover) := by
  unfold State.afterHandover
  refine QuayKept.ite ?_ ?_
  · exact h
  · refine QuayKept.ite ?_ ?_
    · apply State.stopNow_quaykept
      exact h
    · exact h

theorem State.twnSaveNow_quaykept {r s : State} (h : QuayKept r s) : QuayKept r (s.twnSaveNow) := by
  unfold State.twnSaveNow
  apply State.twnSave_quaykept
  apply State.freshNext_quaykept
  exact h

theorem State.flashFail_quaykept {r s : State} (h : QuayKept r s) : QuayKept r (s.flashFail) := by
  unfold State.flashFail
  apply State.report_quaykept
  apply State.event_quaykept
  exact h

theorem State.unitFault_quaykept {r s : State} (h : QuayKept r s) (n : Nat) : QuayKept r (s.unitFault n) := by
  unfold State.unitFault
  apply State.report_quaykept
  exact h

theorem State.mtrFlashWrite_quaykept {r s : State} (h : QuayKept r s) (v : MtrSave) (ok : Bool) : QuayKept r (s.mtrFlashWrite v ok) := by
  unfold State.mtrFlashWrite
  extract_lets x1 x2
  have hx1 : QuayKept r x1 := by
    unfold x1
    apply State.freshNext_quaykept
    exact h
  clear_value x1
  have hx2 : QuayKept r x2 := by
    unfold x2
    exact hx1.upd rfl
  clear_value x2
  refine QuayKept.ite ?_ ?_
  · apply State.count_quaykept
    apply State.modMtr_quaykept
    exact h.upd rfl
  · apply State.flashFail_quaykept
    apply State.unitFault_quaykept
    apply State.event_quaykept
    apply State.modMtr_quaykept
    exact hx2

theorem State.mtrShutdownSave_quaykept {r s : State} (h : QuayKept r s) : QuayKept r (s.mtrShutdownSave) := by
  unfold State.mtrShutdownSave
  refine QuayKept.ite ?_ ?_
  · apply State.mtrFlashWrite_quaykept
    apply State.freshNext_quaykept
    exact h
  · exact h

theorem State.shutdownGo_quaykept {r s : State} (h : QuayKept r s) : QuayKept r (s.shutdownGo) := by
  unfold State.shutdownGo
  refine QuayKept.ite ?_ ?_
  · apply State.pinsDrive_quaykept
    apply State.modBst_quaykept
    apply State.stopNow_quaykept
    apply State.twnSaveNow_quaykept
    apply State.mtrShutdownSave_quaykept
    exact h
  · exact h

/-! ### After.lean -/

theorem State.oscRebase_quaykept {r s : State} (h : QuayKept r s) (seq : Nat) (g : Nat) : QuayKept r (s.oscRebase seq g) := by
  unfold State.oscRebase
  apply State.modOsc_quaykept
  exact h

theorem State.islRebase_quaykept {r s : State} (h : QuayKept r s) (seq : Nat) : QuayKept r (s.islRebase seq) := by
  unfold State.islRebase
  apply State.modIsl_quaykept
  exact h

theorem State.oscReadFix_quaykept {r s : State} (h : QuayKept r s) (seq : Nat) (g : Nat) (typ : Nat) (qs : List Quay) : QuayKept r (s.oscReadFix seq g typ qs) := by
  unfold State.oscReadFix
  apply State.modOsc_quaykept
  exact h

theorem State.islReadFix_quaykept {r s : State} (h : QuayKept r s) (q : Quay) (typ : Nat) : QuayKept r (s.islReadFix q typ) := by
  unfold State.islReadFix
  apply State.modIsl_quaykept
  exact h

theorem State.taskStarts_quaykept {r s : State} (h : QuayKept r s) (t : Task) : QuayKept r (s.taskStarts t) := by
  unfold State.taskStarts
  split
  · apply State.takeSnapshot_quaykept
    exact h
  · apply State.oscReadFix_quaykept
    apply State.oscRebase_quaykept
    exact h
  · apply State.oscReadFix_quaykept
    exact h
  · apply State.islReadFix_quaykept
    apply State.islSnapshot_quaykept
    exact h
  · apply State.islReadFix_quaykept
    apply State.islRebase_quaykept
    exact h
  · apply State.islReadFix_quaykept
    exact h
  · exact h

theorem State.startSnapshots_quaykept {r s : State} (h : QuayKept r s) (s0 : State) : QuayKept r (s0.startSnapshots s) := by
  unfold State.startSnapshots
  extract_lets x1
  refine QuayKept.foldl ?_ _ ?_
  · intro y2 y3 y4
    apply State.taskStarts_quaykept
    exact y4
  · exact h

theorem State.snapAfter_quaykept {r s : State} (h : QuayKept r s) (qs : List Quay) : QuayKept r (s.snapAfter qs) := by
  unfold State.snapAfter
  refine QuayKept.ite ?_ ?_
  · refine QuayKept.foldl ?_ _ ?_
    · intro y2 y3 y4
      apply State.capSnap_quaykept
      exact y4
    · exact h
  · exact h

theorem State.spillSync_quaykept {r s : State} (h : QuayKept r s) (s0 : State) : QuayKept r (s0.spillSync s) := by
  unfold State.spillSync
  refine QuayKept.foldl ?_ _ ?_
  · intro y1 y2 y3
    apply State.quayStore_quaykept
    exact y3
  · exact h

theorem State.msixSignal_quaykept {r s : State} (h : QuayKept r s) (v : Nat) : QuayKept r (s.msixSignal v) := by
  unfold State.msixSignal
  extract_lets x1 x2
  have hx2 : QuayKept r x2 := by
    unfold x2
    apply State.emit_quaykept
    exact h
  clear_value x2
  refine QuayKept.ite ?_ ?_
  · exact h.upd rfl
  · exact hx2.upd rfl

theorem State.msixAfter_quaykept {r s : State} (h : QuayKept r s) (s0 : State) : QuayKept r (s0.msixAfter s) := by
  unfold State.msixAfter
  extract_lets x1 x2 x3 x4
  have hx2 : QuayKept r x2 := by
    unfold x2
    refine QuayKept.foldl ?_ _ ?_
    · intro y6 y7 y8
      apply State.msixSignal_quaykept
      exact y8
    · exact h
  have hx4 : QuayKept r x4 := by
    unfold x4
    exact hx2.upd rfl
  refine QuayKept.ite ?_ ?_
  · exact hx4
  · refine QuayKept.foldl ?_ _ ?_
    · intro y16 y17 y18
      apply State.msixSignal_quaykept
      exact y18
    · exact hx4

theorem State.copiesStart_quaykept {r s : State} (h : QuayKept r s) : QuayKept r (s.copiesStart) := by
  unfold State.copiesStart
  refine QuayKept.foldl ?_ _ ?_
  · intro y1 y2 y3
    split
    · refine QuayKept.ite ?_ ?_
      · apply State.modQuay_quaykept
        · apply State.leaseTake_quaykept
          exact y3
        · intro y4
          rfl
        · intro y5
          rfl
        · intro y6
          rfl
        · intro y7
          rfl
      · exact y3
    · exact y3
  · exact h

theorem State.sealsAfter_quaykept {r s : State} (h : QuayKept r s) : QuayKept r (s.sealsAfter) := by
  unfold State.sealsAfter
  apply State.copiesStart_quaykept
  refine QuayKept.ite ?_ ?_
  · apply State.sealStart_quaykept
    exact h
  · exact h

theorem State.modEng_quaykept {r s : State} (h : QuayKept r s) (e : Nat) (f : Eng → Eng) : QuayKept r (s.modEng e f) := by
  unfold State.modEng
  apply State.modPlt_quaykept
  exact h

theorem State.rotBegin_quaykept {r s : State} (h : QuayKept r s) : QuayKept r (s.rotBegin) := by
  unfold State.rotBegin
  split
  · refine QuayKept.ite ?_ ?_
    · apply State.modEng_quaykept
      exact h
    · exact h
  · exact h

theorem State.rotAfter_quaykept {r s : State} (h : QuayKept r s) (s0 : State) : QuayKept r (s0.rotAfter s) := by
  unfold State.rotAfter
  split
  · refine QuayKept.ite ?_ ?_
    · apply State.rotBegin_quaykept
      exact h
    · exact h
  · exact h

theorem State.unitsAfter_quaykept {r s : State} (h : QuayKept r s) (s0 : State) : QuayKept r (s0.unitsAfter s) := by
  unfold State.unitsAfter
  extract_lets x1 x2
  have hx1 : QuayKept r x1 := by
    unfold x1
    apply State.sealsAfter_quaykept
    apply State.detSettleAll_quaykept
    apply State.alnNote_quaykept
    apply State.startSnapshots_quaykept
    apply State.rotAfter_quaykept
    exact h
  clear_value x1
  have hx2 : QuayKept r x2 := by
    unfold x2
    apply State.snapAfter_quaykept
    apply State.composeAfter_quaykept
    exact hx1
  clear_value x2
  apply State.spillSync_quaykept
  apply State.mtrRefuseEnd_quaykept
  apply State.shutdownGo_quaykept
  apply State.afterHandover_quaykept
  exact hx2

theorem State.after_quaykept {r s : State} (h : QuayKept r s) (s0 : State) : QuayKept r (s0.after s) := by
  unfold State.after
  apply State.msixAfter_quaykept
  apply State.pwrAfter_quaykept
  apply State.unitsAfter_quaykept
  exact h

end Sys2Proof.Machine
end

