-- ==== Sys2Proof/Laws/State.lean ====
section
/-! SUPPORT. What each named update of the state leaves in each field of it, and what is read through it; and, as an equation, the
record an update of one field makes. -/

namespace Sys2Proof.Machine

variable (s : State)

theorem State.setReg_eq (o : Nat) (v : Word) : s.setReg o v = { s with regs := mapPut resetAt s.regs o v } := rfl
@[simp] theorem State.setReg_pending (o : Nat) (v : Word) : (s.setReg o v).pending = s.pending := rfl
@[simp] theorem State.setReg_hw (o : Nat) (v : Word) : (s.setReg o v).hw = s.hw := rfl
@[simp] theorem State.setReg_dt (o : Nat) (v : Word) : (s.setReg o v).dt = s.dt := rfl
@[simp] theorem State.setReg_regs (o : Nat) (v : Word) : (s.setReg o v).regs = mapPut resetAt s.regs o v := rfl
@[simp] theorem State.setReg_latch (o : Nat) (v : Word) : (s.setReg o v).latch = s.latch := rfl
@[simp] theorem State.setReg_hold (o : Nat) (v : Word) : (s.setReg o v).hold = s.hold := rfl
@[simp] theorem State.setReg_rdata (o : Nat) (v : Word) : (s.setReg o v).rdata = s.rdata := rfl
@[simp] theorem State.setReg_leases (o : Nat) (v : Word) : (s.setReg o v).leases = s.leases := rfl
@[simp] theorem State.setReg_tb (o : Nat) (v : Word) : (s.setReg o v).tb = s.tb := rfl
@[simp] theorem State.setReg_mac (o : Nat) (v : Word) : (s.setReg o v).mac = s.mac := rfl
@[simp] theorem State.setReg_bin (o : Nat) (v : Word) : (s.setReg o v).bin = s.bin := rfl
@[simp] theorem State.setReg_aln (o : Nat) (v : Word) : (s.setReg o v).aln = s.aln := rfl
@[simp] theorem State.setReg_osc (o : Nat) (v : Word) : (s.setReg o v).osc = s.osc := rfl
@[simp] theorem State.setReg_isl (o : Nat) (v : Word) : (s.setReg o v).isl = s.isl := rfl
@[simp] theorem State.setReg_alm (o : Nat) (v : Word) : (s.setReg o v).alm = s.alm := rfl
@[simp] theorem State.setReg_outp (o : Nat) (v : Word) : (s.setReg o v).outp = s.outp := rfl
@[simp] theorem State.setReg_fe (o : Nat) (v : Word) : (s.setReg o v).fe = s.fe := rfl
@[simp] theorem State.setReg_mtr (o : Nat) (v : Word) : (s.setReg o v).mtr = s.mtr := rfl
@[simp] theorem State.setReg_cap (o : Nat) (v : Word) : (s.setReg o v).cap = s.cap := rfl
@[simp] theorem State.setReg_logb (o : Nat) (v : Word) : (s.setReg o v).logb = s.logb := rfl
@[simp] theorem State.setReg_plt (o : Nat) (v : Word) : (s.setReg o v).plt = s.plt := rfl
@[simp] theorem State.setReg_dbg (o : Nat) (v : Word) : (s.setReg o v).dbg = s.dbg := rfl
@[simp] theorem State.setReg_hif (o : Nat) (v : Word) : (s.setReg o v).hif = s.hif := rfl
@[simp] theorem State.setReg_msix (o : Nat) (v : Word) : (s.setReg o v).msix = s.msix := rfl
@[simp] theorem State.setReg_cfg (o : Nat) (v : Word) : (s.setReg o v).cfg = s.cfg := rfl
@[simp] theorem State.setReg_flash (o : Nat) (v : Word) : (s.setReg o v).flash = s.flash := rfl
@[simp] theorem State.setReg_pwr (o : Nat) (v : Word) : (s.setReg o v).pwr = s.pwr := rfl
@[simp] theorem State.setReg_twn (o : Nat) (v : Word) : (s.setReg o v).twn = s.twn := rfl
@[simp] theorem State.setReg_flt (o : Nat) (v : Word) : (s.setReg o v).flt = s.flt := rfl
@[simp] theorem State.setReg_bst (o : Nat) (v : Word) : (s.setReg o v).bst = s.bst := rfl
@[simp] theorem State.setReg_key (o : Nat) (v : Word) : (s.setReg o v).key = s.key := rfl
@[simp] theorem State.setReg_rtc (o : Nat) (v : Word) : (s.setReg o v).rtc = s.rtc := rfl
@[simp] theorem State.setReg_bkp (o : Nat) (v : Word) : (s.setReg o v).bkp = s.bkp := rfl
@[simp] theorem State.setReg_pins (o : Nat) (v : Word) : (s.setReg o v).pins = s.pins := rfl
@[simp] theorem State.setReg_dram (o : Nat) (v : Word) : (s.setReg o v).dram = s.dram := rfl
@[simp] theorem State.setReg_out (o : Nat) (v : Word) : (s.setReg o v).out = s.out := rfl
@[simp] theorem State.setReg_fresh (o : Nat) (v : Word) : (s.setReg o v).fresh = s.fresh := rfl

@[simp] theorem State.setFld_pending (o lo w v : Nat) : (s.setFld o lo w v).pending = s.pending := rfl
@[simp] theorem State.setFld_hw (o lo w v : Nat) : (s.setFld o lo w v).hw = s.hw := rfl
@[simp] theorem State.setFld_dt (o lo w v : Nat) : (s.setFld o lo w v).dt = s.dt := rfl
@[simp] theorem State.setFld_latch (o lo w v : Nat) : (s.setFld o lo w v).latch = s.latch := rfl
@[simp] theorem State.setFld_hold (o lo w v : Nat) : (s.setFld o lo w v).hold = s.hold := rfl
@[simp] theorem State.setFld_rdata (o lo w v : Nat) : (s.setFld o lo w v).rdata = s.rdata := rfl
@[simp] theorem State.setFld_leases (o lo w v : Nat) : (s.setFld o lo w v).leases = s.leases := rfl
@[simp] theorem State.setFld_tb (o lo w v : Nat) : (s.setFld o lo w v).tb = s.tb := rfl
@[simp] theorem State.setFld_mac (o lo w v : Nat) : (s.setFld o lo w v).mac = s.mac := rfl
@[simp] theorem State.setFld_bin (o lo w v : Nat) : (s.setFld o lo w v).bin = s.bin := rfl
@[simp] theorem State.setFld_aln (o lo w v : Nat) : (s.setFld o lo w v).aln = s.aln := rfl
@[simp] theorem State.setFld_osc (o lo w v : Nat) : (s.setFld o lo w v).osc = s.osc := rfl
@[simp] theorem State.setFld_isl (o lo w v : Nat) : (s.setFld o lo w v).isl = s.isl := rfl
@[simp] theorem State.setFld_alm (o lo w v : Nat) : (s.setFld o lo w v).alm = s.alm := rfl
@[simp] theorem State.setFld_outp (o lo w v : Nat) : (s.setFld o lo w v).outp = s.outp := rfl
@[simp] theorem State.setFld_fe (o lo w v : Nat) : (s.setFld o lo w v).fe = s.fe := rfl
@[simp] theorem State.setFld_mtr (o lo w v : Nat) : (s.setFld o lo w v).mtr = s.mtr := rfl
@[simp] theorem State.setFld_cap (o lo w v : Nat) : (s.setFld o lo w v).cap = s.cap := rfl
@[simp] theorem State.setFld_logb (o lo w v : Nat) : (s.setFld o lo w v).logb = s.logb := rfl
@[simp] theorem State.setFld_plt (o lo w v : Nat) : (s.setFld o lo w v).plt = s.plt := rfl
@[simp] theorem State.setFld_dbg (o lo w v : Nat) : (s.setFld o lo w v).dbg = s.dbg := rfl
@[simp] theorem State.setFld_hif (o lo w v : Nat) : (s.setFld o lo w v).hif = s.hif := rfl
@[simp] theorem State.setFld_msix (o lo w v : Nat) : (s.setFld o lo w v).msix = s.msix := rfl
@[simp] theorem State.setFld_cfg (o lo w v : Nat) : (s.setFld o lo w v).cfg = s.cfg := rfl
@[simp] theorem State.setFld_flash (o lo w v : Nat) : (s.setFld o lo w v).flash = s.flash := rfl
@[simp] theorem State.setFld_pwr (o lo w v : Nat) : (s.setFld o lo w v).pwr = s.pwr := rfl
@[simp] theorem State.setFld_twn (o lo w v : Nat) : (s.setFld o lo w v).twn = s.twn := rfl
@[simp] theorem State.setFld_flt (o lo w v : Nat) : (s.setFld o lo w v).flt = s.flt := rfl
@[simp] theorem State.setFld_bst (o lo w v : Nat) : (s.setFld o lo w v).bst = s.bst := rfl
@[simp] theorem State.setFld_key (o lo w v : Nat) : (s.setFld o lo w v).key = s.key := rfl
@[simp] theorem State.setFld_rtc (o lo w v : Nat) : (s.setFld o lo w v).rtc = s.rtc := rfl
@[simp] theorem State.setFld_bkp (o lo w v : Nat) : (s.setFld o lo w v).bkp = s.bkp := rfl
@[simp] theorem State.setFld_pins (o lo w v : Nat) : (s.setFld o lo w v).pins = s.pins := rfl
@[simp] theorem State.setFld_dram (o lo w v : Nat) : (s.setFld o lo w v).dram = s.dram := rfl
@[simp] theorem State.setFld_out (o lo w v : Nat) : (s.setFld o lo w v).out = s.out := rfl
@[simp] theorem State.setFld_fresh (o lo w v : Nat) : (s.setFld o lo w v).fresh = s.fresh := rfl

@[simp] theorem State.event_pending (o i : Nat) : (s.event o i).pending = s.pending := rfl
@[simp] theorem State.event_hw (o i : Nat) : (s.event o i).hw = s.hw := rfl
@[simp] theorem State.event_dt (o i : Nat) : (s.event o i).dt = s.dt := rfl
@[simp] theorem State.event_latch (o i : Nat) : (s.event o i).latch = s.latch := rfl
@[simp] theorem State.event_hold (o i : Nat) : (s.event o i).hold = s.hold := rfl
@[simp] theorem State.event_rdata (o i : Nat) : (s.event o i).rdata = s.rdata := rfl
@[simp] theorem State.event_leases (o i : Nat) : (s.event o i).leases = s.leases := rfl
@[simp] theorem State.event_tb (o i : Nat) : (s.event o i).tb = s.tb := rfl
@[simp] theorem State.event_mac (o i : Nat) : (s.event o i).mac = s.mac := rfl
@[simp] theorem State.event_bin (o i : Nat) : (s.event o i).bin = s.bin := rfl
@[simp] theorem State.event_aln (o i : Nat) : (s.event o i).aln = s.aln := rfl
@[simp] theorem State.event_osc (o i : Nat) : (s.event o i).osc = s.osc := rfl
@[simp] theorem State.event_isl (o i : Nat) : (s.event o i).isl = s.isl := rfl
@[simp] theorem State.event_alm (o i : Nat) : (s.event o i).alm = s.alm := rfl
@[simp] theorem State.event_outp (o i : Nat) : (s.event o i).outp = s.outp := rfl
@[simp] theorem State.event_fe (o i : Nat) : (s.event o i).fe = s.fe := rfl
@[simp] theorem State.event_mtr (o i : Nat) : (s.event o i).mtr = s.mtr := rfl
@[simp] theorem State.event_cap (o i : Nat) : (s.event o i).cap = s.cap := rfl
@[simp] theorem State.event_logb (o i : Nat) : (s.event o i).logb = s.logb := rfl
@[simp] theorem State.event_plt (o i : Nat) : (s.event o i).plt = s.plt := rfl
@[simp] theorem State.event_dbg (o i : Nat) : (s.event o i).dbg = s.dbg := rfl
@[simp] theorem State.event_hif (o i : Nat) : (s.event o i).hif = s.hif := rfl
@[simp] theorem State.event_msix (o i : Nat) : (s.event o i).msix = s.msix := rfl
@[simp] theorem State.event_cfg (o i : Nat) : (s.event o i).cfg = s.cfg := rfl
@[simp] theorem State.event_flash (o i : Nat) : (s.event o i).flash = s.flash := rfl
@[simp] theorem State.event_pwr (o i : Nat) : (s.event o i).pwr = s.pwr := rfl
@[simp] theorem State.event_twn (o i : Nat) : (s.event o i).twn = s.twn := rfl
@[simp] theorem State.event_flt (o i : Nat) : (s.event o i).flt = s.flt := rfl
@[simp] theorem State.event_bst (o i : Nat) : (s.event o i).bst = s.bst := rfl
@[simp] theorem State.event_key (o i : Nat) : (s.event o i).key = s.key := rfl
@[simp] theorem State.event_rtc (o i : Nat) : (s.event o i).rtc = s.rtc := rfl
@[simp] theorem State.event_bkp (o i : Nat) : (s.event o i).bkp = s.bkp := rfl
@[simp] theorem State.event_pins (o i : Nat) : (s.event o i).pins = s.pins := rfl
@[simp] theorem State.event_dram (o i : Nat) : (s.event o i).dram = s.dram := rfl
@[simp] theorem State.event_out (o i : Nat) : (s.event o i).out = s.out := rfl
@[simp] theorem State.event_fresh (o i : Nat) : (s.event o i).fresh = s.fresh := rfl

@[simp] theorem State.setReg64_pending (lo v : Nat) : (s.setReg64 lo v).pending = s.pending := rfl
@[simp] theorem State.setReg64_hw (lo v : Nat) : (s.setReg64 lo v).hw = s.hw := rfl
@[simp] theorem State.setReg64_dt (lo v : Nat) : (s.setReg64 lo v).dt = s.dt := rfl
@[simp] theorem State.setReg64_latch (lo v : Nat) : (s.setReg64 lo v).latch = s.latch := rfl
@[simp] theorem State.setReg64_hold (lo v : Nat) : (s.setReg64 lo v).hold = s.hold := rfl
@[simp] theorem State.setReg64_rdata (lo v : Nat) : (s.setReg64 lo v).rdata = s.rdata := rfl
@[simp] theorem State.setReg64_leases (lo v : Nat) : (s.setReg64 lo v).leases = s.leases := rfl
@[simp] theorem State.setReg64_tb (lo v : Nat) : (s.setReg64 lo v).tb = s.tb := rfl
@[simp] theorem State.setReg64_mac (lo v : Nat) : (s.setReg64 lo v).mac = s.mac := rfl
@[simp] theorem State.setReg64_bin (lo v : Nat) : (s.setReg64 lo v).bin = s.bin := rfl
@[simp] theorem State.setReg64_aln (lo v : Nat) : (s.setReg64 lo v).aln = s.aln := rfl
@[simp] theorem State.setReg64_osc (lo v : Nat) : (s.setReg64 lo v).osc = s.osc := rfl
@[simp] theorem State.setReg64_isl (lo v : Nat) : (s.setReg64 lo v).isl = s.isl := rfl
@[simp] theorem State.setReg64_alm (lo v : Nat) : (s.setReg64 lo v).alm = s.alm := rfl
@[simp] theorem State.setReg64_outp (lo v : Nat) : (s.setReg64 lo v).outp = s.outp := rfl
@[simp] theorem State.setReg64_fe (lo v : Nat) : (s.setReg64 lo v).fe = s.fe := rfl
@[simp] theorem State.setReg64_mtr (lo v : Nat) : (s.setReg64 lo v).mtr = s.mtr := rfl
@[simp] theorem State.setReg64_cap (lo v : Nat) : (s.setReg64 lo v).cap = s.cap := rfl
@[simp] theorem State.setReg64_logb (lo v : Nat) : (s.setReg64 lo v).logb = s.logb := rfl
@[simp] theorem State.setReg64_plt (lo v : Nat) : (s.setReg64 lo v).plt = s.plt := rfl
@[simp] theorem State.setReg64_dbg (lo v : Nat) : (s.setReg64 lo v).dbg = s.dbg := rfl
@[simp] theorem State.setReg64_hif (lo v : Nat) : (s.setReg64 lo v).hif = s.hif := rfl
@[simp] theorem State.setReg64_msix (lo v : Nat) : (s.setReg64 lo v).msix = s.msix := rfl
@[simp] theorem State.setReg64_cfg (lo v : Nat) : (s.setReg64 lo v).cfg = s.cfg := rfl
@[simp] theorem State.setReg64_flash (lo v : Nat) : (s.setReg64 lo v).flash = s.flash := rfl
@[simp] theorem State.setReg64_pwr (lo v : Nat) : (s.setReg64 lo v).pwr = s.pwr := rfl
@[simp] theorem State.setReg64_twn (lo v : Nat) : (s.setReg64 lo v).twn = s.twn := rfl
@[simp] theorem State.setReg64_flt (lo v : Nat) : (s.setReg64 lo v).flt = s.flt := rfl
@[simp] theorem State.setReg64_bst (lo v : Nat) : (s.setReg64 lo v).bst = s.bst := rfl
@[simp] theorem State.setReg64_key (lo v : Nat) : (s.setReg64 lo v).key = s.key := rfl
@[simp] theorem State.setReg64_rtc (lo v : Nat) : (s.setReg64 lo v).rtc = s.rtc := rfl
@[simp] theorem State.setReg64_bkp (lo v : Nat) : (s.setReg64 lo v).bkp = s.bkp := rfl
@[simp] theorem State.setReg64_pins (lo v : Nat) : (s.setReg64 lo v).pins = s.pins := rfl
@[simp] theorem State.setReg64_dram (lo v : Nat) : (s.setReg64 lo v).dram = s.dram := rfl
@[simp] theorem State.setReg64_out (lo v : Nat) : (s.setReg64 lo v).out = s.out := rfl
@[simp] theorem State.setReg64_fresh (lo v : Nat) : (s.setReg64 lo v).fresh = s.fresh := rfl

@[simp] theorem State.countBy_pending (lo n : Nat) : (s.countBy lo n).pending = s.pending := rfl
@[simp] theorem State.countBy_hw (lo n : Nat) : (s.countBy lo n).hw = s.hw := rfl
@[simp] theorem State.countBy_dt (lo n : Nat) : (s.countBy lo n).dt = s.dt := rfl
@[simp] theorem State.countBy_latch (lo n : Nat) : (s.countBy lo n).latch = s.latch := rfl
@[simp] theorem State.countBy_hold (lo n : Nat) : (s.countBy lo n).hold = s.hold := rfl
@[simp] theorem State.countBy_rdata (lo n : Nat) : (s.countBy lo n).rdata = s.rdata := rfl
@[simp] theorem State.countBy_leases (lo n : Nat) : (s.countBy lo n).leases = s.leases := rfl
@[simp] theorem State.countBy_tb (lo n : Nat) : (s.countBy lo n).tb = s.tb := rfl
@[simp] theorem State.countBy_mac (lo n : Nat) : (s.countBy lo n).mac = s.mac := rfl
@[simp] theorem State.countBy_bin (lo n : Nat) : (s.countBy lo n).bin = s.bin := rfl
@[simp] theorem State.countBy_aln (lo n : Nat) : (s.countBy lo n).aln = s.aln := rfl
@[simp] theorem State.countBy_osc (lo n : Nat) : (s.countBy lo n).osc = s.osc := rfl
@[simp] theorem State.countBy_isl (lo n : Nat) : (s.countBy lo n).isl = s.isl := rfl
@[simp] theorem State.countBy_alm (lo n : Nat) : (s.countBy lo n).alm = s.alm := rfl
@[simp] theorem State.countBy_outp (lo n : Nat) : (s.countBy lo n).outp = s.outp := rfl
@[simp] theorem State.countBy_fe (lo n : Nat) : (s.countBy lo n).fe = s.fe := rfl
@[simp] theorem State.countBy_mtr (lo n : Nat) : (s.countBy lo n).mtr = s.mtr := rfl
@[simp] theorem State.countBy_cap (lo n : Nat) : (s.countBy lo n).cap = s.cap := rfl
@[simp] theorem State.countBy_logb (lo n : Nat) : (s.countBy lo n).logb = s.logb := rfl
@[simp] theorem State.countBy_plt (lo n : Nat) : (s.countBy lo n).plt = s.plt := rfl
@[simp] theorem State.countBy_dbg (lo n : Nat) : (s.countBy lo n).dbg = s.dbg := rfl
@[simp] theorem State.countBy_hif (lo n : Nat) : (s.countBy lo n).hif = s.hif := rfl
@[simp] theorem State.countBy_msix (lo n : Nat) : (s.countBy lo n).msix = s.msix := rfl
@[simp] theorem State.countBy_cfg (lo n : Nat) : (s.countBy lo n).cfg = s.cfg := rfl
@[simp] theorem State.countBy_flash (lo n : Nat) : (s.countBy lo n).flash = s.flash := rfl
@[simp] theorem State.countBy_pwr (lo n : Nat) : (s.countBy lo n).pwr = s.pwr := rfl
@[simp] theorem State.countBy_twn (lo n : Nat) : (s.countBy lo n).twn = s.twn := rfl
@[simp] theorem State.countBy_flt (lo n : Nat) : (s.countBy lo n).flt = s.flt := rfl
@[simp] theorem State.countBy_bst (lo n : Nat) : (s.countBy lo n).bst = s.bst := rfl
@[simp] theorem State.countBy_key (lo n : Nat) : (s.countBy lo n).key = s.key := rfl
@[simp] theorem State.countBy_rtc (lo n : Nat) : (s.countBy lo n).rtc = s.rtc := rfl
@[simp] theorem State.countBy_bkp (lo n : Nat) : (s.countBy lo n).bkp = s.bkp := rfl
@[simp] theorem State.countBy_pins (lo n : Nat) : (s.countBy lo n).pins = s.pins := rfl
@[simp] theorem State.countBy_dram (lo n : Nat) : (s.countBy lo n).dram = s.dram := rfl
@[simp] theorem State.countBy_out (lo n : Nat) : (s.countBy lo n).out = s.out := rfl
@[simp] theorem State.countBy_fresh (lo n : Nat) : (s.countBy lo n).fresh = s.fresh := rfl

@[simp] theorem State.count_pending (lo : Nat) : (s.count lo).pending = s.pending := rfl
@[simp] theorem State.count_hw (lo : Nat) : (s.count lo).hw = s.hw := rfl
@[simp] theorem State.count_dt (lo : Nat) : (s.count lo).dt = s.dt := rfl
@[simp] theorem State.count_latch (lo : Nat) : (s.count lo).latch = s.latch := rfl
@[simp] theorem State.count_hold (lo : Nat) : (s.count lo).hold = s.hold := rfl
@[simp] theorem State.count_rdata (lo : Nat) : (s.count lo).rdata = s.rdata := rfl
@[simp] theorem State.count_leases (lo : Nat) : (s.count lo).leases = s.leases := rfl
@[simp] theorem State.count_tb (lo : Nat) : (s.count lo).tb = s.tb := rfl
@[simp] theorem State.count_mac (lo : Nat) : (s.count lo).mac = s.mac := rfl
@[simp] theorem State.count_bin (lo : Nat) : (s.count lo).bin = s.bin := rfl
@[simp] theorem State.count_aln (lo : Nat) : (s.count lo).aln = s.aln := rfl
@[simp] theorem State.count_osc (lo : Nat) : (s.count lo).osc = s.osc := rfl
@[simp] theorem State.count_isl (lo : Nat) : (s.count lo).isl = s.isl := rfl
@[simp] theorem State.count_alm (lo : Nat) : (s.count lo).alm = s.alm := rfl
@[simp] theorem State.count_outp (lo : Nat) : (s.count lo).outp = s.outp := rfl
@[simp] theorem State.count_fe (lo : Nat) : (s.count lo).fe = s.fe := rfl
@[simp] theorem State.count_mtr (lo : Nat) : (s.count lo).mtr = s.mtr := rfl
@[simp] theorem State.count_cap (lo : Nat) : (s.count lo).cap = s.cap := rfl
@[simp] theorem State.count_logb (lo : Nat) : (s.count lo).logb = s.logb := rfl
@[simp] theorem State.count_plt (lo : Nat) : (s.count lo).plt = s.plt := rfl
@[simp] theorem State.count_dbg (lo : Nat) : (s.count lo).dbg = s.dbg := rfl
@[simp] theorem State.count_hif (lo : Nat) : (s.count lo).hif = s.hif := rfl
@[simp] theorem State.count_msix (lo : Nat) : (s.count lo).msix = s.msix := rfl
@[simp] theorem State.count_cfg (lo : Nat) : (s.count lo).cfg = s.cfg := rfl
@[simp] theorem State.count_flash (lo : Nat) : (s.count lo).flash = s.flash := rfl
@[simp] theorem State.count_pwr (lo : Nat) : (s.count lo).pwr = s.pwr := rfl
@[simp] theorem State.count_twn (lo : Nat) : (s.count lo).twn = s.twn := rfl
@[simp] theorem State.count_flt (lo : Nat) : (s.count lo).flt = s.flt := rfl
@[simp] theorem State.count_bst (lo : Nat) : (s.count lo).bst = s.bst := rfl
@[simp] theorem State.count_key (lo : Nat) : (s.count lo).key = s.key := rfl
@[simp] theorem State.count_rtc (lo : Nat) : (s.count lo).rtc = s.rtc := rfl
@[simp] theorem State.count_bkp (lo : Nat) : (s.count lo).bkp = s.bkp := rfl
@[simp] theorem State.count_pins (lo : Nat) : (s.count lo).pins = s.pins := rfl
@[simp] theorem State.count_dram (lo : Nat) : (s.count lo).dram = s.dram := rfl
@[simp] theorem State.count_out (lo : Nat) : (s.count lo).out = s.out := rfl
@[simp] theorem State.count_fresh (lo : Nat) : (s.count lo).fresh = s.fresh := rfl

@[simp] theorem State.count32_pending (o : Nat) : (s.count32 o).pending = s.pending := rfl
@[simp] theorem State.count32_hw (o : Nat) : (s.count32 o).hw = s.hw := rfl
@[simp] theorem State.count32_dt (o : Nat) : (s.count32 o).dt = s.dt := rfl
@[simp] theorem State.count32_latch (o : Nat) : (s.count32 o).latch = s.latch := rfl
@[simp] theorem State.count32_hold (o : Nat) : (s.count32 o).hold = s.hold := rfl
@[simp] theorem State.count32_rdata (o : Nat) : (s.count32 o).rdata = s.rdata := rfl
@[simp] theorem State.count32_leases (o : Nat) : (s.count32 o).leases = s.leases := rfl
@[simp] theorem State.count32_tb (o : Nat) : (s.count32 o).tb = s.tb := rfl
@[simp] theorem State.count32_mac (o : Nat) : (s.count32 o).mac = s.mac := rfl
@[simp] theorem State.count32_bin (o : Nat) : (s.count32 o).bin = s.bin := rfl
@[simp] theorem State.count32_aln (o : Nat) : (s.count32 o).aln = s.aln := rfl
@[simp] theorem State.count32_osc (o : Nat) : (s.count32 o).osc = s.osc := rfl
@[simp] theorem State.count32_isl (o : Nat) : (s.count32 o).isl = s.isl := rfl
@[simp] theorem State.count32_alm (o : Nat) : (s.count32 o).alm = s.alm := rfl
@[simp] theorem State.count32_outp (o : Nat) : (s.count32 o).outp = s.outp := rfl
@[simp] theorem State.count32_fe (o : Nat) : (s.count32 o).fe = s.fe := rfl
@[simp] theorem State.count32_mtr (o : Nat) : (s.count32 o).mtr = s.mtr := rfl
@[simp] theorem State.count32_cap (o : Nat) : (s.count32 o).cap = s.cap := rfl
@[simp] theorem State.count32_logb (o : Nat) : (s.count32 o).logb = s.logb := rfl
@[simp] theorem State.count32_plt (o : Nat) : (s.count32 o).plt = s.plt := rfl
@[simp] theorem State.count32_dbg (o : Nat) : (s.count32 o).dbg = s.dbg := rfl
@[simp] theorem State.count32_hif (o : Nat) : (s.count32 o).hif = s.hif := rfl
@[simp] theorem State.count32_msix (o : Nat) : (s.count32 o).msix = s.msix := rfl
@[simp] theorem State.count32_cfg (o : Nat) : (s.count32 o).cfg = s.cfg := rfl
@[simp] theorem State.count32_flash (o : Nat) : (s.count32 o).flash = s.flash := rfl
@[simp] theorem State.count32_pwr (o : Nat) : (s.count32 o).pwr = s.pwr := rfl
@[simp] theorem State.count32_twn (o : Nat) : (s.count32 o).twn = s.twn := rfl
@[simp] theorem State.count32_flt (o : Nat) : (s.count32 o).flt = s.flt := rfl
@[simp] theorem State.count32_bst (o : Nat) : (s.count32 o).bst = s.bst := rfl
@[simp] theorem State.count32_key (o : Nat) : (s.count32 o).key = s.key := rfl
@[simp] theorem State.count32_rtc (o : Nat) : (s.count32 o).rtc = s.rtc := rfl
@[simp] theorem State.count32_bkp (o : Nat) : (s.count32 o).bkp = s.bkp := rfl
@[simp] theorem State.count32_pins (o : Nat) : (s.count32 o).pins = s.pins := rfl
@[simp] theorem State.count32_dram (o : Nat) : (s.count32 o).dram = s.dram := rfl
@[simp] theorem State.count32_out (o : Nat) : (s.count32 o).out = s.out := rfl
@[simp] theorem State.count32_fresh (o : Nat) : (s.count32 o).fresh = s.fresh := rfl



theorem State.dramWrite_eq (a : Nat) (bs : List Byte) : s.dramWrite a bs = { s with dram := dramStore s.dram a bs } := rfl
@[simp] theorem State.dramWrite_pending (a : Nat) (bs : List Byte) : (s.dramWrite a bs).pending = s.pending := rfl
@[simp] theorem State.dramWrite_hw (a : Nat) (bs : List Byte) : (s.dramWrite a bs).hw = s.hw := rfl
@[simp] theorem State.dramWrite_dt (a : Nat) (bs : List Byte) : (s.dramWrite a bs).dt = s.dt := rfl
@[simp] theorem State.dramWrite_regs (a : Nat) (bs : List Byte) : (s.dramWrite a bs).regs = s.regs := rfl
@[simp] theorem State.dramWrite_latch (a : Nat) (bs : List Byte) : (s.dramWrite a bs).latch = s.latch := rfl
@[simp] theorem State.dramWrite_hold (a : Nat) (bs : List Byte) : (s.dramWrite a bs).hold = s.hold := rfl
@[simp] theorem State.dramWrite_rdata (a : Nat) (bs : List Byte) : (s.dramWrite a bs).rdata = s.rdata := rfl
@[simp] theorem State.dramWrite_leases (a : Nat) (bs : List Byte) : (s.dramWrite a bs).leases = s.leases := rfl
@[simp] theorem State.dramWrite_tb (a : Nat) (bs : List Byte) : (s.dramWrite a bs).tb = s.tb := rfl
@[simp] theorem State.dramWrite_mac (a : Nat) (bs : List Byte) : (s.dramWrite a bs).mac = s.mac := rfl
@[simp] theorem State.dramWrite_bin (a : Nat) (bs : List Byte) : (s.dramWrite a bs).bin = s.bin := rfl
@[simp] theorem State.dramWrite_aln (a : Nat) (bs : List Byte) : (s.dramWrite a bs).aln = s.aln := rfl
@[simp] theorem State.dramWrite_osc (a : Nat) (bs : List Byte) : (s.dramWrite a bs).osc = s.osc := rfl
@[simp] theorem State.dramWrite_isl (a : Nat) (bs : List Byte) : (s.dramWrite a bs).isl = s.isl := rfl
@[simp] theorem State.dramWrite_alm (a : Nat) (bs : List Byte) : (s.dramWrite a bs).alm = s.alm := rfl
@[simp] theorem State.dramWrite_outp (a : Nat) (bs : List Byte) : (s.dramWrite a bs).outp = s.outp := rfl
@[simp] theorem State.dramWrite_fe (a : Nat) (bs : List Byte) : (s.dramWrite a bs).fe = s.fe := rfl
@[simp] theorem State.dramWrite_mtr (a : Nat) (bs : List Byte) : (s.dramWrite a bs).mtr = s.mtr := rfl
@[simp] theorem State.dramWrite_cap (a : Nat) (bs : List Byte) : (s.dramWrite a bs).cap = s.cap := rfl
@[simp] theorem State.dramWrite_logb (a : Nat) (bs : List Byte) : (s.dramWrite a bs).logb = s.logb := rfl
@[simp] theorem State.dramWrite_plt (a : Nat) (bs : List Byte) : (s.dramWrite a bs).plt = s.plt := rfl
@[simp] theorem State.dramWrite_dbg (a : Nat) (bs : List Byte) : (s.dramWrite a bs).dbg = s.dbg := rfl
@[simp] theorem State.dramWrite_hif (a : Nat) (bs : List Byte) : (s.dramWrite a bs).hif = s.hif := rfl
@[simp] theorem State.dramWrite_msix (a : Nat) (bs : List Byte) : (s.dramWrite a bs).msix = s.msix := rfl
@[simp] theorem State.dramWrite_cfg (a : Nat) (bs : List Byte) : (s.dramWrite a bs).cfg = s.cfg := rfl
@[simp] theorem State.dramWrite_flash (a : Nat) (bs : List Byte) : (s.dramWrite a bs).flash = s.flash := rfl
@[simp] theorem State.dramWrite_pwr (a : Nat) (bs : List Byte) : (s.dramWrite a bs).pwr = s.pwr := rfl
@[simp] theorem State.dramWrite_twn (a : Nat) (bs : List Byte) : (s.dramWrite a bs).twn = s.twn := rfl
@[simp] theorem State.dramWrite_flt (a : Nat) (bs : List Byte) : (s.dramWrite a bs).flt = s.flt := rfl
@[simp] theorem State.dramWrite_bst (a : Nat) (bs : List Byte) : (s.dramWrite a bs).bst = s.bst := rfl
@[simp] theorem State.dramWrite_key (a : Nat) (bs : List Byte) : (s.dramWrite a bs).key = s.key := rfl
@[simp] theorem State.dramWrite_rtc (a : Nat) (bs : List Byte) : (s.dramWrite a bs).rtc = s.rtc := rfl
@[simp] theorem State.dramWrite_bkp (a : Nat) (bs : List Byte) : (s.dramWrite a bs).bkp = s.bkp := rfl
@[simp] theorem State.dramWrite_pins (a : Nat) (bs : List Byte) : (s.dramWrite a bs).pins = s.pins := rfl
@[simp] theorem State.dramWrite_dram (a : Nat) (bs : List Byte) : (s.dramWrite a bs).dram = dramStore s.dram a bs := rfl
@[simp] theorem State.dramWrite_out (a : Nat) (bs : List Byte) : (s.dramWrite a bs).out = s.out := rfl
@[simp] theorem State.dramWrite_fresh (a : Nat) (bs : List Byte) : (s.dramWrite a bs).fresh = s.fresh := rfl
@[simp] theorem State.reg_dramWrite (a : Nat) (bs : List Byte) (o' : Nat) : (s.dramWrite a bs).reg o' = s.reg o' := rfl
@[simp] theorem State.fld_dramWrite (a : Nat) (bs : List Byte) (o' lo' w' : Nat) : (s.dramWrite a bs).fld o' lo' w' = s.fld o' lo' w' := rfl
@[simp] theorem State.bit_dramWrite (a : Nat) (bs : List Byte) (o' i' : Nat) : (s.dramWrite a bs).bit o' i' = s.bit o' i' := rfl

theorem State.emit_eq (o : Output) : s.emit o = { s with out := s.out ++ [o] } := rfl
@[simp] theorem State.emit_pending (o : Output) : (s.emit o).pending = s.pending := rfl
@[simp] theorem State.emit_hw (o : Output) : (s.emit o).hw = s.hw := rfl
@[simp] theorem State.emit_dt (o : Output) : (s.emit o).dt = s.dt := rfl
@[simp] theorem State.emit_regs (o : Output) : (s.emit o).regs = s.regs := rfl
@[simp] theorem State.emit_latch (o : Output) : (s.emit o).latch = s.latch := rfl
@[simp] theorem State.emit_hold (o : Output) : (s.emit o).hold = s.hold := rfl
@[simp] theorem State.emit_rdata (o : Output) : (s.emit o).rdata = s.rdata := rfl
@[simp] theorem State.emit_leases (o : Output) : (s.emit o).leases = s.leases := rfl
@[simp] theorem State.emit_tb (o : Output) : (s.emit o).tb = s.tb := rfl
@[simp] theorem State.emit_mac (o : Output) : (s.emit o).mac = s.mac := rfl
@[simp] theorem State.emit_bin (o : Output) : (s.emit o).bin = s.bin := rfl
@[simp] theorem State.emit_aln (o : Output) : (s.emit o).aln = s.aln := rfl
@[simp] theorem State.emit_osc (o : Output) : (s.emit o).osc = s.osc := rfl
@[simp] theorem State.emit_isl (o : Output) : (s.emit o).isl = s.isl := rfl
@[simp] theorem State.emit_alm (o : Output) : (s.emit o).alm = s.alm := rfl
@[simp] theorem State.emit_outp (o : Output) : (s.emit o).outp = s.outp := rfl
@[simp] theorem State.emit_fe (o : Output) : (s.emit o).fe = s.fe := rfl
@[simp] theorem State.emit_mtr (o : Output) : (s.emit o).mtr = s.mtr := rfl
@[simp] theorem State.emit_cap (o : Output) : (s.emit o).cap = s.cap := rfl
@[simp] theorem State.emit_logb (o : Output) : (s.emit o).logb = s.logb := rfl
@[simp] theorem State.emit_plt (o : Output) : (s.emit o).plt = s.plt := rfl
@[simp] theorem State.emit_dbg (o : Output) : (s.emit o).dbg = s.dbg := rfl
@[simp] theorem State.emit_hif (o : Output) : (s.emit o).hif = s.hif := rfl
@[simp] theorem State.emit_msix (o : Output) : (s.emit o).msix = s.msix := rfl
@[simp] theorem State.emit_cfg (o : Output) : (s.emit o).cfg = s.cfg := rfl
@[simp] theorem State.emit_flash (o : Output) : (s.emit o).flash = s.flash := rfl
@[simp] theorem State.emit_pwr (o : Output) : (s.emit o).pwr = s.pwr := rfl
@[simp] theorem State.emit_twn (o : Output) : (s.emit o).twn = s.twn := rfl
@[simp] theorem State.emit_flt (o : Output) : (s.emit o).flt = s.flt := rfl
@[simp] theorem State.emit_bst (o : Output) : (s.emit o).bst = s.bst := rfl
@[simp] theorem State.emit_key (o : Output) : (s.emit o).key = s.key := rfl
@[simp] theorem State.emit_rtc (o : Output) : (s.emit o).rtc = s.rtc := rfl
@[simp] theorem State.emit_bkp (o : Output) : (s.emit o).bkp = s.bkp := rfl
@[simp] theorem State.emit_pins (o : Output) : (s.emit o).pins = s.pins := rfl
@[simp] theorem State.emit_dram (o : Output) : (s.emit o).dram = s.dram := rfl
@[simp] theorem State.emit_out (o : Output) : (s.emit o).out = s.out ++ [o] := rfl
@[simp] theorem State.emit_fresh (o : Output) : (s.emit o).fresh = s.fresh := rfl
@[simp] theorem State.reg_emit (o : Output) (o' : Nat) : (s.emit o).reg o' = s.reg o' := rfl
@[simp] theorem State.fld_emit (o : Output) (o' lo' w' : Nat) : (s.emit o).fld o' lo' w' = s.fld o' lo' w' := rfl
@[simp] theorem State.bit_emit (o : Output) (o' i' : Nat) : (s.emit o).bit o' i' = s.bit o' i' := rfl

theorem State.freshNext_eq : s.freshNext = { s with fresh := s.fresh + 1 } := rfl
@[simp] theorem State.freshNext_pending : (s.freshNext).pending = s.pending := rfl
@[simp] theorem State.freshNext_hw : (s.freshNext).hw = s.hw := rfl
@[simp] theorem State.freshNext_dt : (s.freshNext).dt = s.dt := rfl
@[simp] theorem State.freshNext_regs : (s.freshNext).regs = s.regs := rfl
@[simp] theorem State.freshNext_latch : (s.freshNext).latch = s.latch := rfl
@[simp] theorem State.freshNext_hold : (s.freshNext).hold = s.hold := rfl
@[simp] theorem State.freshNext_rdata : (s.freshNext).rdata = s.rdata := rfl
@[simp] theorem State.freshNext_leases : (s.freshNext).leases = s.leases := rfl
@[simp] theorem State.freshNext_tb : (s.freshNext).tb = s.tb := rfl
@[simp] theorem State.freshNext_mac : (s.freshNext).mac = s.mac := rfl
@[simp] theorem State.freshNext_bin : (s.freshNext).bin = s.bin := rfl
@[simp] theorem State.freshNext_aln : (s.freshNext).aln = s.aln := rfl
@[simp] theorem State.freshNext_osc : (s.freshNext).osc = s.osc := rfl
@[simp] theorem State.freshNext_isl : (s.freshNext).isl = s.isl := rfl
@[simp] theorem State.freshNext_alm : (s.freshNext).alm = s.alm := rfl
@[simp] theorem State.freshNext_outp : (s.freshNext).outp = s.outp := rfl
@[simp] theorem State.freshNext_fe : (s.freshNext).fe = s.fe := rfl
@[simp] theorem State.freshNext_mtr : (s.freshNext).mtr = s.mtr := rfl
@[simp] theorem State.freshNext_cap : (s.freshNext).cap = s.cap := rfl
@[simp] theorem State.freshNext_logb : (s.freshNext).logb = s.logb := rfl
@[simp] theorem State.freshNext_plt : (s.freshNext).plt = s.plt := rfl
@[simp] theorem State.freshNext_dbg : (s.freshNext).dbg = s.dbg := rfl
@[simp] theorem State.freshNext_hif : (s.freshNext).hif = s.hif := rfl
@[simp] theorem State.freshNext_msix : (s.freshNext).msix = s.msix := rfl
@[simp] theorem State.freshNext_cfg : (s.freshNext).cfg = s.cfg := rfl
@[simp] theorem State.freshNext_flash : (s.freshNext).flash = s.flash := rfl
@[simp] theorem State.freshNext_pwr : (s.freshNext).pwr = s.pwr := rfl
@[simp] theorem State.freshNext_twn : (s.freshNext).twn = s.twn := rfl
@[simp] theorem State.freshNext_flt : (s.freshNext).flt = s.flt := rfl
@[simp] theorem State.freshNext_bst : (s.freshNext).bst = s.bst := rfl
@[simp] theorem State.freshNext_key : (s.freshNext).key = s.key := rfl
@[simp] theorem State.freshNext_rtc : (s.freshNext).rtc = s.rtc := rfl
@[simp] theorem State.freshNext_bkp : (s.freshNext).bkp = s.bkp := rfl
@[simp] theorem State.freshNext_pins : (s.freshNext).pins = s.pins := rfl
@[simp] theorem State.freshNext_dram : (s.freshNext).dram = s.dram := rfl
@[simp] theorem State.freshNext_out : (s.freshNext).out = s.out := rfl
@[simp] theorem State.freshNext_fresh : (s.freshNext).fresh = s.fresh + 1 := rfl

theorem State.freshSkip_eq (n : Nat) : s.freshSkip n = { s with fresh := s.fresh + n } := rfl
@[simp] theorem State.freshSkip_pending (n : Nat) : (s.freshSkip n).pending = s.pending := rfl
@[simp] theorem State.freshSkip_hw (n : Nat) : (s.freshSkip n).hw = s.hw := rfl
@[simp] theorem State.freshSkip_dt (n : Nat) : (s.freshSkip n).dt = s.dt := rfl
@[simp] theorem State.freshSkip_regs (n : Nat) : (s.freshSkip n).regs = s.regs := rfl
@[simp] theorem State.freshSkip_latch (n : Nat) : (s.freshSkip n).latch = s.latch := rfl
@[simp] theorem State.freshSkip_hold (n : Nat) : (s.freshSkip n).hold = s.hold := rfl
@[simp] theorem State.freshSkip_rdata (n : Nat) : (s.freshSkip n).rdata = s.rdata := rfl
@[simp] theorem State.freshSkip_leases (n : Nat) : (s.freshSkip n).leases = s.leases := rfl
@[simp] theorem State.freshSkip_tb (n : Nat) : (s.freshSkip n).tb = s.tb := rfl
@[simp] theorem State.freshSkip_mac (n : Nat) : (s.freshSkip n).mac = s.mac := rfl
@[simp] theorem State.freshSkip_bin (n : Nat) : (s.freshSkip n).bin = s.bin := rfl
@[simp] theorem State.freshSkip_aln (n : Nat) : (s.freshSkip n).aln = s.aln := rfl
@[simp] theorem State.freshSkip_osc (n : Nat) : (s.freshSkip n).osc = s.osc := rfl
@[simp] theorem State.freshSkip_isl (n : Nat) : (s.freshSkip n).isl = s.isl := rfl
@[simp] theorem State.freshSkip_alm (n : Nat) : (s.freshSkip n).alm = s.alm := rfl
@[simp] theorem State.freshSkip_outp (n : Nat) : (s.freshSkip n).outp = s.outp := rfl
@[simp] theorem State.freshSkip_fe (n : Nat) : (s.freshSkip n).fe = s.fe := rfl
@[simp] theorem State.freshSkip_mtr (n : Nat) : (s.freshSkip n).mtr = s.mtr := rfl
@[simp] theorem State.freshSkip_cap (n : Nat) : (s.freshSkip n).cap = s.cap := rfl
@[simp] theorem State.freshSkip_logb (n : Nat) : (s.freshSkip n).logb = s.logb := rfl
@[simp] theorem State.freshSkip_plt (n : Nat) : (s.freshSkip n).plt = s.plt := rfl
@[simp] theorem State.freshSkip_dbg (n : Nat) : (s.freshSkip n).dbg = s.dbg := rfl
@[simp] theorem State.freshSkip_hif (n : Nat) : (s.freshSkip n).hif = s.hif := rfl
@[simp] theorem State.freshSkip_msix (n : Nat) : (s.freshSkip n).msix = s.msix := rfl
@[simp] theorem State.freshSkip_cfg (n : Nat) : (s.freshSkip n).cfg = s.cfg := rfl
@[simp] theorem State.freshSkip_flash (n : Nat) : (s.freshSkip n).flash = s.flash := rfl
@[simp] theorem State.freshSkip_pwr (n : Nat) : (s.freshSkip n).pwr = s.pwr := rfl
@[simp] theorem State.freshSkip_twn (n : Nat) : (s.freshSkip n).twn = s.twn := rfl
@[simp] theorem State.freshSkip_flt (n : Nat) : (s.freshSkip n).flt = s.flt := rfl
@[simp] theorem State.freshSkip_bst (n : Nat) : (s.freshSkip n).bst = s.bst := rfl
@[simp] theorem State.freshSkip_key (n : Nat) : (s.freshSkip n).key = s.key := rfl
@[simp] theorem State.freshSkip_rtc (n : Nat) : (s.freshSkip n).rtc = s.rtc := rfl
@[simp] theorem State.freshSkip_bkp (n : Nat) : (s.freshSkip n).bkp = s.bkp := rfl
@[simp] theorem State.freshSkip_pins (n : Nat) : (s.freshSkip n).pins = s.pins := rfl
@[simp] theorem State.freshSkip_dram (n : Nat) : (s.freshSkip n).dram = s.dram := rfl
@[simp] theorem State.freshSkip_out (n : Nat) : (s.freshSkip n).out = s.out := rfl
@[simp] theorem State.freshSkip_fresh (n : Nat) : (s.freshSkip n).fresh = s.fresh + n := rfl

theorem State.setTask_eq (i : Nat) (t : Task) : s.setTask i t = { s with plt := { s.plt with tasks := mapPut (fun _ => ({} : Task)) s.plt.tasks i t } } := rfl
@[simp] theorem State.setTask_pending (i : Nat) (t : Task) : (s.setTask i t).pending = s.pending := rfl
@[simp] theorem State.setTask_hw (i : Nat) (t : Task) : (s.setTask i t).hw = s.hw := rfl
@[simp] theorem State.setTask_dt (i : Nat) (t : Task) : (s.setTask i t).dt = s.dt := rfl
@[simp] theorem State.setTask_regs (i : Nat) (t : Task) : (s.setTask i t).regs = s.regs := rfl
@[simp] theorem State.setTask_latch (i : Nat) (t : Task) : (s.setTask i t).latch = s.latch := rfl
@[simp] theorem State.setTask_hold (i : Nat) (t : Task) : (s.setTask i t).hold = s.hold := rfl
@[simp] theorem State.setTask_rdata (i : Nat) (t : Task) : (s.setTask i t).rdata = s.rdata := rfl
@[simp] theorem State.setTask_leases (i : Nat) (t : Task) : (s.setTask i t).leases = s.leases := rfl
@[simp] theorem State.setTask_tb (i : Nat) (t : Task) : (s.setTask i t).tb = s.tb := rfl
@[simp] theorem State.setTask_mac (i : Nat) (t : Task) : (s.setTask i t).mac = s.mac := rfl
@[simp] theorem State.setTask_bin (i : Nat) (t : Task) : (s.setTask i t).bin = s.bin := rfl
@[simp] theorem State.setTask_aln (i : Nat) (t : Task) : (s.setTask i t).aln = s.aln := rfl
@[simp] theorem State.setTask_osc (i : Nat) (t : Task) : (s.setTask i t).osc = s.osc := rfl
@[simp] theorem State.setTask_isl (i : Nat) (t : Task) : (s.setTask i t).isl = s.isl := rfl
@[simp] theorem State.setTask_alm (i : Nat) (t : Task) : (s.setTask i t).alm = s.alm := rfl
@[simp] theorem State.setTask_outp (i : Nat) (t : Task) : (s.setTask i t).outp = s.outp := rfl
@[simp] theorem State.setTask_fe (i : Nat) (t : Task) : (s.setTask i t).fe = s.fe := rfl
@[simp] theorem State.setTask_mtr (i : Nat) (t : Task) : (s.setTask i t).mtr = s.mtr := rfl
@[simp] theorem State.setTask_cap (i : Nat) (t : Task) : (s.setTask i t).cap = s.cap := rfl
@[simp] theorem State.setTask_logb (i : Nat) (t : Task) : (s.setTask i t).logb = s.logb := rfl
@[simp] theorem State.setTask_plt (i : Nat) (t : Task) : (s.setTask i t).plt = { s.plt with tasks := mapPut (fun _ => ({} : Task)) s.plt.tasks i t } := rfl
@[simp] theorem State.setTask_dbg (i : Nat) (t : Task) : (s.setTask i t).dbg = s.dbg := rfl
@[simp] theorem State.setTask_hif (i : Nat) (t : Task) : (s.setTask i t).hif = s.hif := rfl
@[simp] theorem State.setTask_msix (i : Nat) (t : Task) : (s.setTask i t).msix = s.msix := rfl
@[simp] theorem State.setTask_cfg (i : Nat) (t : Task) : (s.setTask i t).cfg = s.cfg := rfl
@[simp] theorem State.setTask_flash (i : Nat) (t : Task) : (s.setTask i t).flash = s.flash := rfl
@[simp] theorem State.setTask_pwr (i : Nat) (t : Task) : (s.setTask i t).pwr = s.pwr := rfl
@[simp] theorem State.setTask_twn (i : Nat) (t : Task) : (s.setTask i t).twn = s.twn := rfl
@[simp] theorem State.setTask_flt (i : Nat) (t : Task) : (s.setTask i t).flt = s.flt := rfl
@[simp] theorem State.setTask_bst (i : Nat) (t : Task) : (s.setTask i t).bst = s.bst := rfl
@[simp] theorem State.setTask_key (i : Nat) (t : Task) : (s.setTask i t).key = s.key := rfl
@[simp] theorem State.setTask_rtc (i : Nat) (t : Task) : (s.setTask i t).rtc = s.rtc := rfl
@[simp] theorem State.setTask_bkp (i : Nat) (t : Task) : (s.setTask i t).bkp = s.bkp := rfl
@[simp] theorem State.setTask_pins (i : Nat) (t : Task) : (s.setTask i t).pins = s.pins := rfl
@[simp] theorem State.setTask_dram (i : Nat) (t : Task) : (s.setTask i t).dram = s.dram := rfl
@[simp] theorem State.setTask_out (i : Nat) (t : Task) : (s.setTask i t).out = s.out := rfl
@[simp] theorem State.setTask_fresh (i : Nat) (t : Task) : (s.setTask i t).fresh = s.fresh := rfl

theorem State.modEng_eq (e : Nat) (f : Eng → Eng) : s.modEng e f = { s with plt := { s.plt with eng := s.plt.eng.modify e f } } := rfl
@[simp] theorem State.modEng_pending (e : Nat) (f : Eng → Eng) : (s.modEng e f).pending = s.pending := rfl
@[simp] theorem State.modEng_hw (e : Nat) (f : Eng → Eng) : (s.modEng e f).hw = s.hw := rfl
@[simp] theorem State.modEng_dt (e : Nat) (f : Eng → Eng) : (s.modEng e f).dt = s.dt := rfl
@[simp] theorem State.modEng_regs (e : Nat) (f : Eng → Eng) : (s.modEng e f).regs = s.regs := rfl
@[simp] theorem State.modEng_latch (e : Nat) (f : Eng → Eng) : (s.modEng e f).latch = s.latch := rfl
@[simp] theorem State.modEng_hold (e : Nat) (f : Eng → Eng) : (s.modEng e f).hold = s.hold := rfl
@[simp] theorem State.modEng_rdata (e : Nat) (f : Eng → Eng) : (s.modEng e f).rdata = s.rdata := rfl
@[simp] theorem State.modEng_leases (e : Nat) (f : Eng → Eng) : (s.modEng e f).leases = s.leases := rfl
@[simp] theorem State.modEng_tb (e : Nat) (f : Eng → Eng) : (s.modEng e f).tb = s.tb := rfl
@[simp] theorem State.modEng_mac (e : Nat) (f : Eng → Eng) : (s.modEng e f).mac = s.mac := rfl
@[simp] theorem State.modEng_bin (e : Nat) (f : Eng → Eng) : (s.modEng e f).bin = s.bin := rfl
@[simp] theorem State.modEng_aln (e : Nat) (f : Eng → Eng) : (s.modEng e f).aln = s.aln := rfl
@[simp] theorem State.modEng_osc (e : Nat) (f : Eng → Eng) : (s.modEng e f).osc = s.osc := rfl
@[simp] theorem State.modEng_isl (e : Nat) (f : Eng → Eng) : (s.modEng e f).isl = s.isl := rfl
@[simp] theorem State.modEng_alm (e : Nat) (f : Eng → Eng) : (s.modEng e f).alm = s.alm := rfl
@[simp] theorem State.modEng_outp (e : Nat) (f : Eng → Eng) : (s.modEng e f).outp = s.outp := rfl
@[simp] theorem State.modEng_fe (e : Nat) (f : Eng → Eng) : (s.modEng e f).fe = s.fe := rfl
@[simp] theorem State.modEng_mtr (e : Nat) (f : Eng → Eng) : (s.modEng e f).mtr = s.mtr := rfl
@[simp] theorem State.modEng_cap (e : Nat) (f : Eng → Eng) : (s.modEng e f).cap = s.cap := rfl
@[simp] theorem State.modEng_logb (e : Nat) (f : Eng → Eng) : (s.modEng e f).logb = s.logb := rfl
@[simp] theorem State.modEng_plt (e : Nat) (f : Eng → Eng) : (s.modEng e f).plt = { s.plt with eng := s.plt.eng.modify e f } := rfl
@[simp] theorem State.modEng_dbg (e : Nat) (f : Eng → Eng) : (s.modEng e f).dbg = s.dbg := rfl
@[simp] theorem State.modEng_hif (e : Nat) (f : Eng → Eng) : (s.modEng e f).hif = s.hif := rfl
@[simp] theorem State.modEng_msix (e : Nat) (f : Eng → Eng) : (s.modEng e f).msix = s.msix := rfl
@[simp] theorem State.modEng_cfg (e : Nat) (f : Eng → Eng) : (s.modEng e f).cfg = s.cfg := rfl
@[simp] theorem State.modEng_flash (e : Nat) (f : Eng → Eng) : (s.modEng e f).flash = s.flash := rfl
@[simp] theorem State.modEng_pwr (e : Nat) (f : Eng → Eng) : (s.modEng e f).pwr = s.pwr := rfl
@[simp] theorem State.modEng_twn (e : Nat) (f : Eng → Eng) : (s.modEng e f).twn = s.twn := rfl
@[simp] theorem State.modEng_flt (e : Nat) (f : Eng → Eng) : (s.modEng e f).flt = s.flt := rfl
@[simp] theorem State.modEng_bst (e : Nat) (f : Eng → Eng) : (s.modEng e f).bst = s.bst := rfl
@[simp] theorem State.modEng_key (e : Nat) (f : Eng → Eng) : (s.modEng e f).key = s.key := rfl
@[simp] theorem State.modEng_rtc (e : Nat) (f : Eng → Eng) : (s.modEng e f).rtc = s.rtc := rfl
@[simp] theorem State.modEng_bkp (e : Nat) (f : Eng → Eng) : (s.modEng e f).bkp = s.bkp := rfl
@[simp] theorem State.modEng_pins (e : Nat) (f : Eng → Eng) : (s.modEng e f).pins = s.pins := rfl
@[simp] theorem State.modEng_dram (e : Nat) (f : Eng → Eng) : (s.modEng e f).dram = s.dram := rfl
@[simp] theorem State.modEng_out (e : Nat) (f : Eng → Eng) : (s.modEng e f).out = s.out := rfl
@[simp] theorem State.modEng_fresh (e : Nat) (f : Eng → Eng) : (s.modEng e f).fresh = s.fresh := rfl

theorem State.modChan_eq (c : Nat) (f : FeChan → FeChan) : s.modChan c f = { s with fe := { s.fe with chan := s.fe.chan.modify c f } } := rfl
@[simp] theorem State.modChan_pending (c : Nat) (f : FeChan → FeChan) : (s.modChan c f).pending = s.pending := rfl
@[simp] theorem State.modChan_hw (c : Nat) (f : FeChan → FeChan) : (s.modChan c f).hw = s.hw := rfl
@[simp] theorem State.modChan_dt (c : Nat) (f : FeChan → FeChan) : (s.modChan c f).dt = s.dt := rfl
@[simp] theorem State.modChan_regs (c : Nat) (f : FeChan → FeChan) : (s.modChan c f).regs = s.regs := rfl
@[simp] theorem State.modChan_latch (c : Nat) (f : FeChan → FeChan) : (s.modChan c f).latch = s.latch := rfl
@[simp] theorem State.modChan_hold (c : Nat) (f : FeChan → FeChan) : (s.modChan c f).hold = s.hold := rfl
@[simp] theorem State.modChan_rdata (c : Nat) (f : FeChan → FeChan) : (s.modChan c f).rdata = s.rdata := rfl
@[simp] theorem State.modChan_leases (c : Nat) (f : FeChan → FeChan) : (s.modChan c f).leases = s.leases := rfl
@[simp] theorem State.modChan_tb (c : Nat) (f : FeChan → FeChan) : (s.modChan c f).tb = s.tb := rfl
@[simp] theorem State.modChan_mac (c : Nat) (f : FeChan → FeChan) : (s.modChan c f).mac = s.mac := rfl
@[simp] theorem State.modChan_bin (c : Nat) (f : FeChan → FeChan) : (s.modChan c f).bin = s.bin := rfl
@[simp] theorem State.modChan_aln (c : Nat) (f : FeChan → FeChan) : (s.modChan c f).aln = s.aln := rfl
@[simp] theorem State.modChan_osc (c : Nat) (f : FeChan → FeChan) : (s.modChan c f).osc = s.osc := rfl
@[simp] theorem State.modChan_isl (c : Nat) (f : FeChan → FeChan) : (s.modChan c f).isl = s.isl := rfl
@[simp] theorem State.modChan_alm (c : Nat) (f : FeChan → FeChan) : (s.modChan c f).alm = s.alm := rfl
@[simp] theorem State.modChan_outp (c : Nat) (f : FeChan → FeChan) : (s.modChan c f).outp = s.outp := rfl
@[simp] theorem State.modChan_fe (c : Nat) (f : FeChan → FeChan) : (s.modChan c f).fe = { s.fe with chan := s.fe.chan.modify c f } := rfl
@[simp] theorem State.modChan_mtr (c : Nat) (f : FeChan → FeChan) : (s.modChan c f).mtr = s.mtr := rfl
@[simp] theorem State.modChan_cap (c : Nat) (f : FeChan → FeChan) : (s.modChan c f).cap = s.cap := rfl
@[simp] theorem State.modChan_logb (c : Nat) (f : FeChan → FeChan) : (s.modChan c f).logb = s.logb := rfl
@[simp] theorem State.modChan_plt (c : Nat) (f : FeChan → FeChan) : (s.modChan c f).plt = s.plt := rfl
@[simp] theorem State.modChan_dbg (c : Nat) (f : FeChan → FeChan) : (s.modChan c f).dbg = s.dbg := rfl
@[simp] theorem State.modChan_hif (c : Nat) (f : FeChan → FeChan) : (s.modChan c f).hif = s.hif := rfl
@[simp] theorem State.modChan_msix (c : Nat) (f : FeChan → FeChan) : (s.modChan c f).msix = s.msix := rfl
@[simp] theorem State.modChan_cfg (c : Nat) (f : FeChan → FeChan) : (s.modChan c f).cfg = s.cfg := rfl
@[simp] theorem State.modChan_flash (c : Nat) (f : FeChan → FeChan) : (s.modChan c f).flash = s.flash := rfl
@[simp] theorem State.modChan_pwr (c : Nat) (f : FeChan → FeChan) : (s.modChan c f).pwr = s.pwr := rfl
@[simp] theorem State.modChan_twn (c : Nat) (f : FeChan → FeChan) : (s.modChan c f).twn = s.twn := rfl
@[simp] theorem State.modChan_flt (c : Nat) (f : FeChan → FeChan) : (s.modChan c f).flt = s.flt := rfl
@[simp] theorem State.modChan_bst (c : Nat) (f : FeChan → FeChan) : (s.modChan c f).bst = s.bst := rfl
@[simp] theorem State.modChan_key (c : Nat) (f : FeChan → FeChan) : (s.modChan c f).key = s.key := rfl
@[simp] theorem State.modChan_rtc (c : Nat) (f : FeChan → FeChan) : (s.modChan c f).rtc = s.rtc := rfl
@[simp] theorem State.modChan_bkp (c : Nat) (f : FeChan → FeChan) : (s.modChan c f).bkp = s.bkp := rfl
@[simp] theorem State.modChan_pins (c : Nat) (f : FeChan → FeChan) : (s.modChan c f).pins = s.pins := rfl
@[simp] theorem State.modChan_dram (c : Nat) (f : FeChan → FeChan) : (s.modChan c f).dram = s.dram := rfl
@[simp] theorem State.modChan_out (c : Nat) (f : FeChan → FeChan) : (s.modChan c f).out = s.out := rfl
@[simp] theorem State.modChan_fresh (c : Nat) (f : FeChan → FeChan) : (s.modChan c f).fresh = s.fresh := rfl

theorem State.modQuay_eq (n : Nat) (f : Quay → Quay) : s.modQuay n f = { s with aln := { s.aln with quays := s.aln.quays.map fun (q : Quay) => if q.seq = n then f q else q } } := rfl
@[simp] theorem State.modQuay_pending (n : Nat) (f : Quay → Quay) : (s.modQuay n f).pending = s.pending := rfl
@[simp] theorem State.modQuay_hw (n : Nat) (f : Quay → Quay) : (s.modQuay n f).hw = s.hw := rfl
@[simp] theorem State.modQuay_dt (n : Nat) (f : Quay → Quay) : (s.modQuay n f).dt = s.dt := rfl
@[simp] theorem State.modQuay_regs (n : Nat) (f : Quay → Quay) : (s.modQuay n f).regs = s.regs := rfl
@[simp] theorem State.modQuay_latch (n : Nat) (f : Quay → Quay) : (s.modQuay n f).latch = s.latch := rfl
@[simp] theorem State.modQuay_hold (n : Nat) (f : Quay → Quay) : (s.modQuay n f).hold = s.hold := rfl
@[simp] theorem State.modQuay_rdata (n : Nat) (f : Quay → Quay) : (s.modQuay n f).rdata = s.rdata := rfl
@[simp] theorem State.modQuay_leases (n : Nat) (f : Quay → Quay) : (s.modQuay n f).leases = s.leases := rfl
@[simp] theorem State.modQuay_tb (n : Nat) (f : Quay → Quay) : (s.modQuay n f).tb = s.tb := rfl
@[simp] theorem State.modQuay_mac (n : Nat) (f : Quay → Quay) : (s.modQuay n f).mac = s.mac := rfl
@[simp] theorem State.modQuay_bin (n : Nat) (f : Quay → Quay) : (s.modQuay n f).bin = s.bin := rfl
@[simp] theorem State.modQuay_aln (n : Nat) (f : Quay → Quay) : (s.modQuay n f).aln = { s.aln with quays := s.aln.quays.map fun (q : Quay) => if q.seq = n then f q else q } := rfl
@[simp] theorem State.modQuay_osc (n : Nat) (f : Quay → Quay) : (s.modQuay n f).osc = s.osc := rfl
@[simp] theorem State.modQuay_isl (n : Nat) (f : Quay → Quay) : (s.modQuay n f).isl = s.isl := rfl
@[simp] theorem State.modQuay_alm (n : Nat) (f : Quay → Quay) : (s.modQuay n f).alm = s.alm := rfl
@[simp] theorem State.modQuay_outp (n : Nat) (f : Quay → Quay) : (s.modQuay n f).outp = s.outp := rfl
@[simp] theorem State.modQuay_fe (n : Nat) (f : Quay → Quay) : (s.modQuay n f).fe = s.fe := rfl
@[simp] theorem State.modQuay_mtr (n : Nat) (f : Quay → Quay) : (s.modQuay n f).mtr = s.mtr := rfl
@[simp] theorem State.modQuay_cap (n : Nat) (f : Quay → Quay) : (s.modQuay n f).cap = s.cap := rfl
@[simp] theorem State.modQuay_logb (n : Nat) (f : Quay → Quay) : (s.modQuay n f).logb = s.logb := rfl
@[simp] theorem State.modQuay_plt (n : Nat) (f : Quay → Quay) : (s.modQuay n f).plt = s.plt := rfl
@[simp] theorem State.modQuay_dbg (n : Nat) (f : Quay → Quay) : (s.modQuay n f).dbg = s.dbg := rfl
@[simp] theorem State.modQuay_hif (n : Nat) (f : Quay → Quay) : (s.modQuay n f).hif = s.hif := rfl
@[simp] theorem State.modQuay_msix (n : Nat) (f : Quay → Quay) : (s.modQuay n f).msix = s.msix := rfl
@[simp] theorem State.modQuay_cfg (n : Nat) (f : Quay → Quay) : (s.modQuay n f).cfg = s.cfg := rfl
@[simp] theorem State.modQuay_flash (n : Nat) (f : Quay → Quay) : (s.modQuay n f).flash = s.flash := rfl
@[simp] theorem State.modQuay_pwr (n : Nat) (f : Quay → Quay) : (s.modQuay n f).pwr = s.pwr := rfl
@[simp] theorem State.modQuay_twn (n : Nat) (f : Quay → Quay) : (s.modQuay n f).twn = s.twn := rfl
@[simp] theorem State.modQuay_flt (n : Nat) (f : Quay → Quay) : (s.modQuay n f).flt = s.flt := rfl
@[simp] theorem State.modQuay_bst (n : Nat) (f : Quay → Quay) : (s.modQuay n f).bst = s.bst := rfl
@[simp] theorem State.modQuay_key (n : Nat) (f : Quay → Quay) : (s.modQuay n f).key = s.key := rfl
@[simp] theorem State.modQuay_rtc (n : Nat) (f : Quay → Quay) : (s.modQuay n f).rtc = s.rtc := rfl
@[simp] theorem State.modQuay_bkp (n : Nat) (f : Quay → Quay) : (s.modQuay n f).bkp = s.bkp := rfl
@[simp] theorem State.modQuay_pins (n : Nat) (f : Quay → Quay) : (s.modQuay n f).pins = s.pins := rfl
@[simp] theorem State.modQuay_dram (n : Nat) (f : Quay → Quay) : (s.modQuay n f).dram = s.dram := rfl
@[simp] theorem State.modQuay_out (n : Nat) (f : Quay → Quay) : (s.modQuay n f).out = s.out := rfl
@[simp] theorem State.modQuay_fresh (n : Nat) (f : Quay → Quay) : (s.modQuay n f).fresh = s.fresh := rfl
@[simp] theorem State.reg_freshNext (o' : Nat) : (s.freshNext).reg o' = s.reg o' := rfl
@[simp] theorem State.fld_freshNext (o' lo' w' : Nat) : (s.freshNext).fld o' lo' w' = s.fld o' lo' w' := rfl
@[simp] theorem State.bit_freshNext (o' i' : Nat) : (s.freshNext).bit o' i' = s.bit o' i' := rfl

theorem State.almSend_eq (i : AlmInput) : s.almSend i = { s with alm := { s.alm with input := s.alm.input ++ [i] } } := rfl
@[simp] theorem State.almSend_pending (i : AlmInput) : (s.almSend i).pending = s.pending := rfl
@[simp] theorem State.almSend_hw (i : AlmInput) : (s.almSend i).hw = s.hw := rfl
@[simp] theorem State.almSend_dt (i : AlmInput) : (s.almSend i).dt = s.dt := rfl
@[simp] theorem State.almSend_regs (i : AlmInput) : (s.almSend i).regs = s.regs := rfl
@[simp] theorem State.almSend_latch (i : AlmInput) : (s.almSend i).latch = s.latch := rfl
@[simp] theorem State.almSend_hold (i : AlmInput) : (s.almSend i).hold = s.hold := rfl
@[simp] theorem State.almSend_rdata (i : AlmInput) : (s.almSend i).rdata = s.rdata := rfl
@[simp] theorem State.almSend_leases (i : AlmInput) : (s.almSend i).leases = s.leases := rfl
@[simp] theorem State.almSend_tb (i : AlmInput) : (s.almSend i).tb = s.tb := rfl
@[simp] theorem State.almSend_mac (i : AlmInput) : (s.almSend i).mac = s.mac := rfl
@[simp] theorem State.almSend_bin (i : AlmInput) : (s.almSend i).bin = s.bin := rfl
@[simp] theorem State.almSend_aln (i : AlmInput) : (s.almSend i).aln = s.aln := rfl
@[simp] theorem State.almSend_osc (i : AlmInput) : (s.almSend i).osc = s.osc := rfl
@[simp] theorem State.almSend_isl (i : AlmInput) : (s.almSend i).isl = s.isl := rfl
@[simp] theorem State.almSend_alm (i : AlmInput) : (s.almSend i).alm = { s.alm with input := s.alm.input ++ [i] } := rfl
@[simp] theorem State.almSend_outp (i : AlmInput) : (s.almSend i).outp = s.outp := rfl
@[simp] theorem State.almSend_fe (i : AlmInput) : (s.almSend i).fe = s.fe := rfl
@[simp] theorem State.almSend_mtr (i : AlmInput) : (s.almSend i).mtr = s.mtr := rfl
@[simp] theorem State.almSend_cap (i : AlmInput) : (s.almSend i).cap = s.cap := rfl
@[simp] theorem State.almSend_logb (i : AlmInput) : (s.almSend i).logb = s.logb := rfl
@[simp] theorem State.almSend_plt (i : AlmInput) : (s.almSend i).plt = s.plt := rfl
@[simp] theorem State.almSend_dbg (i : AlmInput) : (s.almSend i).dbg = s.dbg := rfl
@[simp] theorem State.almSend_hif (i : AlmInput) : (s.almSend i).hif = s.hif := rfl
@[simp] theorem State.almSend_msix (i : AlmInput) : (s.almSend i).msix = s.msix := rfl
@[simp] theorem State.almSend_cfg (i : AlmInput) : (s.almSend i).cfg = s.cfg := rfl
@[simp] theorem State.almSend_flash (i : AlmInput) : (s.almSend i).flash = s.flash := rfl
@[simp] theorem State.almSend_pwr (i : AlmInput) : (s.almSend i).pwr = s.pwr := rfl
@[simp] theorem State.almSend_twn (i : AlmInput) : (s.almSend i).twn = s.twn := rfl
@[simp] theorem State.almSend_flt (i : AlmInput) : (s.almSend i).flt = s.flt := rfl
@[simp] theorem State.almSend_bst (i : AlmInput) : (s.almSend i).bst = s.bst := rfl
@[simp] theorem State.almSend_key (i : AlmInput) : (s.almSend i).key = s.key := rfl
@[simp] theorem State.almSend_rtc (i : AlmInput) : (s.almSend i).rtc = s.rtc := rfl
@[simp] theorem State.almSend_bkp (i : AlmInput) : (s.almSend i).bkp = s.bkp := rfl
@[simp] theorem State.almSend_pins (i : AlmInput) : (s.almSend i).pins = s.pins := rfl
@[simp] theorem State.almSend_dram (i : AlmInput) : (s.almSend i).dram = s.dram := rfl
@[simp] theorem State.almSend_out (i : AlmInput) : (s.almSend i).out = s.out := rfl
@[simp] theorem State.almSend_fresh (i : AlmInput) : (s.almSend i).fresh = s.fresh := rfl
@[simp] theorem State.reg_almSend (i : AlmInput) (o' : Nat) : (s.almSend i).reg o' = s.reg o' := rfl
@[simp] theorem State.fld_almSend (i : AlmInput) (o' lo' w' : Nat) : (s.almSend i).fld o' lo' w' = s.fld o' lo' w' := rfl
@[simp] theorem State.bit_almSend (i : AlmInput) (o' i' : Nat) : (s.almSend i).bit o' i' = s.bit o' i' := rfl

theorem State.wantTask_eq (t : TaskReq) : s.wantTask t = { s with plt := { s.plt with wants := s.plt.wants ++ [t] } } := rfl
@[simp] theorem State.wantTask_pending (t : TaskReq) : (s.wantTask t).pending = s.pending := rfl
@[simp] theorem State.wantTask_hw (t : TaskReq) : (s.wantTask t).hw = s.hw := rfl
@[simp] theorem State.wantTask_dt (t : TaskReq) : (s.wantTask t).dt = s.dt := rfl
@[simp] theorem State.wantTask_regs (t : TaskReq) : (s.wantTask t).regs = s.regs := rfl
@[simp] theorem State.wantTask_latch (t : TaskReq) : (s.wantTask t).latch = s.latch := rfl
@[simp] theorem State.wantTask_hold (t : TaskReq) : (s.wantTask t).hold = s.hold := rfl
@[simp] theorem State.wantTask_rdata (t : TaskReq) : (s.wantTask t).rdata = s.rdata := rfl
@[simp] theorem State.wantTask_leases (t : TaskReq) : (s.wantTask t).leases = s.leases := rfl
@[simp] theorem State.wantTask_tb (t : TaskReq) : (s.wantTask t).tb = s.tb := rfl
@[simp] theorem State.wantTask_mac (t : TaskReq) : (s.wantTask t).mac = s.mac := rfl
@[simp] theorem State.wantTask_bin (t : TaskReq) : (s.wantTask t).bin = s.bin := rfl
@[simp] theorem State.wantTask_aln (t : TaskReq) : (s.wantTask t).aln = s.aln := rfl
@[simp] theorem State.wantTask_osc (t : TaskReq) : (s.wantTask t).osc = s.osc := rfl
@[simp] theorem State.wantTask_isl (t : TaskReq) : (s.wantTask t).isl = s.isl := rfl
@[simp] theorem State.wantTask_alm (t : TaskReq) : (s.wantTask t).alm = s.alm := rfl
@[simp] theorem State.wantTask_outp (t : TaskReq) : (s.wantTask t).outp = s.outp := rfl
@[simp] theorem State.wantTask_fe (t : TaskReq) : (s.wantTask t).fe = s.fe := rfl
@[simp] theorem State.wantTask_mtr (t : TaskReq) : (s.wantTask t).mtr = s.mtr := rfl
@[simp] theorem State.wantTask_cap (t : TaskReq) : (s.wantTask t).cap = s.cap := rfl
@[simp] theorem State.wantTask_logb (t : TaskReq) : (s.wantTask t).logb = s.logb := rfl
@[simp] theorem State.wantTask_plt (t : TaskReq) : (s.wantTask t).plt = { s.plt with wants := s.plt.wants ++ [t] } := rfl
@[simp] theorem State.wantTask_dbg (t : TaskReq) : (s.wantTask t).dbg = s.dbg := rfl
@[simp] theorem State.wantTask_hif (t : TaskReq) : (s.wantTask t).hif = s.hif := rfl
@[simp] theorem State.wantTask_msix (t : TaskReq) : (s.wantTask t).msix = s.msix := rfl
@[simp] theorem State.wantTask_cfg (t : TaskReq) : (s.wantTask t).cfg = s.cfg := rfl
@[simp] theorem State.wantTask_flash (t : TaskReq) : (s.wantTask t).flash = s.flash := rfl
@[simp] theorem State.wantTask_pwr (t : TaskReq) : (s.wantTask t).pwr = s.pwr := rfl
@[simp] theorem State.wantTask_twn (t : TaskReq) : (s.wantTask t).twn = s.twn := rfl
@[simp] theorem State.wantTask_flt (t : TaskReq) : (s.wantTask t).flt = s.flt := rfl
@[simp] theorem State.wantTask_bst (t : TaskReq) : (s.wantTask t).bst = s.bst := rfl
@[simp] theorem State.wantTask_key (t : TaskReq) : (s.wantTask t).key = s.key := rfl
@[simp] theorem State.wantTask_rtc (t : TaskReq) : (s.wantTask t).rtc = s.rtc := rfl
@[simp] theorem State.wantTask_bkp (t : TaskReq) : (s.wantTask t).bkp = s.bkp := rfl
@[simp] theorem State.wantTask_pins (t : TaskReq) : (s.wantTask t).pins = s.pins := rfl
@[simp] theorem State.wantTask_dram (t : TaskReq) : (s.wantTask t).dram = s.dram := rfl
@[simp] theorem State.wantTask_out (t : TaskReq) : (s.wantTask t).out = s.out := rfl
@[simp] theorem State.wantTask_fresh (t : TaskReq) : (s.wantTask t).fresh = s.fresh := rfl
@[simp] theorem State.reg_wantTask (t : TaskReq) (o' : Nat) : (s.wantTask t).reg o' = s.reg o' := rfl
@[simp] theorem State.fld_wantTask (t : TaskReq) (o' lo' w' : Nat) : (s.wantTask t).fld o' lo' w' = s.fld o' lo' w' := rfl
@[simp] theorem State.bit_wantTask (t : TaskReq) (o' i' : Nat) : (s.wantTask t).bit o' i' = s.bit o' i' := rfl

theorem State.deliver_eq (d : Delivery) : s.deliver d = { s with hif := { s.hif with deliv := s.hif.deliv ++ [d] } } := rfl
@[simp] theorem State.deliver_pending (d : Delivery) : (s.deliver d).pending = s.pending := rfl
@[simp] theorem State.deliver_hw (d : Delivery) : (s.deliver d).hw = s.hw := rfl
@[simp] theorem State.deliver_dt (d : Delivery) : (s.deliver d).dt = s.dt := rfl
@[simp] theorem State.deliver_regs (d : Delivery) : (s.deliver d).regs = s.regs := rfl
@[simp] theorem State.deliver_latch (d : Delivery) : (s.deliver d).latch = s.latch := rfl
@[simp] theorem State.deliver_hold (d : Delivery) : (s.deliver d).hold = s.hold := rfl
@[simp] theorem State.deliver_rdata (d : Delivery) : (s.deliver d).rdata = s.rdata := rfl
@[simp] theorem State.deliver_leases (d : Delivery) : (s.deliver d).leases = s.leases := rfl
@[simp] theorem State.deliver_tb (d : Delivery) : (s.deliver d).tb = s.tb := rfl
@[simp] theorem State.deliver_mac (d : Delivery) : (s.deliver d).mac = s.mac := rfl
@[simp] theorem State.deliver_bin (d : Delivery) : (s.deliver d).bin = s.bin := rfl
@[simp] theorem State.deliver_aln (d : Delivery) : (s.deliver d).aln = s.aln := rfl
@[simp] theorem State.deliver_osc (d : Delivery) : (s.deliver d).osc = s.osc := rfl
@[simp] theorem State.deliver_isl (d : Delivery) : (s.deliver d).isl = s.isl := rfl
@[simp] theorem State.deliver_alm (d : Delivery) : (s.deliver d).alm = s.alm := rfl
@[simp] theorem State.deliver_outp (d : Delivery) : (s.deliver d).outp = s.outp := rfl
@[simp] theorem State.deliver_fe (d : Delivery) : (s.deliver d).fe = s.fe := rfl
@[simp] theorem State.deliver_mtr (d : Delivery) : (s.deliver d).mtr = s.mtr := rfl
@[simp] theorem State.deliver_cap (d : Delivery) : (s.deliver d).cap = s.cap := rfl
@[simp] theorem State.deliver_logb (d : Delivery) : (s.deliver d).logb = s.logb := rfl
@[simp] theorem State.deliver_plt (d : Delivery) : (s.deliver d).plt = s.plt := rfl
@[simp] theorem State.deliver_dbg (d : Delivery) : (s.deliver d).dbg = s.dbg := rfl
@[simp] theorem State.deliver_hif (d : Delivery) : (s.deliver d).hif = { s.hif with deliv := s.hif.deliv ++ [d] } := rfl
@[simp] theorem State.deliver_msix (d : Delivery) : (s.deliver d).msix = s.msix := rfl
@[simp] theorem State.deliver_cfg (d : Delivery) : (s.deliver d).cfg = s.cfg := rfl
@[simp] theorem State.deliver_flash (d : Delivery) : (s.deliver d).flash = s.flash := rfl
@[simp] theorem State.deliver_pwr (d : Delivery) : (s.deliver d).pwr = s.pwr := rfl
@[simp] theorem State.deliver_twn (d : Delivery) : (s.deliver d).twn = s.twn := rfl
@[simp] theorem State.deliver_flt (d : Delivery) : (s.deliver d).flt = s.flt := rfl
@[simp] theorem State.deliver_bst (d : Delivery) : (s.deliver d).bst = s.bst := rfl
@[simp] theorem State.deliver_key (d : Delivery) : (s.deliver d).key = s.key := rfl
@[simp] theorem State.deliver_rtc (d : Delivery) : (s.deliver d).rtc = s.rtc := rfl
@[simp] theorem State.deliver_bkp (d : Delivery) : (s.deliver d).bkp = s.bkp := rfl
@[simp] theorem State.deliver_pins (d : Delivery) : (s.deliver d).pins = s.pins := rfl
@[simp] theorem State.deliver_dram (d : Delivery) : (s.deliver d).dram = s.dram := rfl
@[simp] theorem State.deliver_out (d : Delivery) : (s.deliver d).out = s.out := rfl
@[simp] theorem State.deliver_fresh (d : Delivery) : (s.deliver d).fresh = s.fresh := rfl
@[simp] theorem State.reg_deliver (d : Delivery) (o' : Nat) : (s.deliver d).reg o' = s.reg o' := rfl
@[simp] theorem State.fld_deliver (d : Delivery) (o' lo' w' : Nat) : (s.deliver d).fld o' lo' w' = s.fld o' lo' w' := rfl
@[simp] theorem State.bit_deliver (d : Delivery) (o' i' : Nat) : (s.deliver d).bit o' i' = s.bit o' i' := rfl





@[simp] theorem State.withPending_eq (q : List Instr) : s.withPending q = { s with pending := q } := rfl

theorem State.modTb_eq (f : Tb → Tb) : s.modTb f = { s with tb := f s.tb } := rfl
@[simp] theorem State.modTb_pending (f : Tb → Tb) : (s.modTb f).pending = s.pending := rfl
@[simp] theorem State.modTb_hw (f : Tb → Tb) : (s.modTb f).hw = s.hw := rfl
@[simp] theorem State.modTb_dt (f : Tb → Tb) : (s.modTb f).dt = s.dt := rfl
@[simp] theorem State.modTb_regs (f : Tb → Tb) : (s.modTb f).regs = s.regs := rfl
@[simp] theorem State.modTb_latch (f : Tb → Tb) : (s.modTb f).latch = s.latch := rfl
@[simp] theorem State.modTb_hold (f : Tb → Tb) : (s.modTb f).hold = s.hold := rfl
@[simp] theorem State.modTb_rdata (f : Tb → Tb) : (s.modTb f).rdata = s.rdata := rfl
@[simp] theorem State.modTb_leases (f : Tb → Tb) : (s.modTb f).leases = s.leases := rfl
@[simp] theorem State.modTb_tb (f : Tb → Tb) : (s.modTb f).tb = f s.tb := rfl
@[simp] theorem State.modTb_mac (f : Tb → Tb) : (s.modTb f).mac = s.mac := rfl
@[simp] theorem State.modTb_bin (f : Tb → Tb) : (s.modTb f).bin = s.bin := rfl
@[simp] theorem State.modTb_aln (f : Tb → Tb) : (s.modTb f).aln = s.aln := rfl
@[simp] theorem State.modTb_osc (f : Tb → Tb) : (s.modTb f).osc = s.osc := rfl
@[simp] theorem State.modTb_isl (f : Tb → Tb) : (s.modTb f).isl = s.isl := rfl
@[simp] theorem State.modTb_alm (f : Tb → Tb) : (s.modTb f).alm = s.alm := rfl
@[simp] theorem State.modTb_outp (f : Tb → Tb) : (s.modTb f).outp = s.outp := rfl
@[simp] theorem State.modTb_fe (f : Tb → Tb) : (s.modTb f).fe = s.fe := rfl
@[simp] theorem State.modTb_mtr (f : Tb → Tb) : (s.modTb f).mtr = s.mtr := rfl
@[simp] theorem State.modTb_cap (f : Tb → Tb) : (s.modTb f).cap = s.cap := rfl
@[simp] theorem State.modTb_logb (f : Tb → Tb) : (s.modTb f).logb = s.logb := rfl
@[simp] theorem State.modTb_plt (f : Tb → Tb) : (s.modTb f).plt = s.plt := rfl
@[simp] theorem State.modTb_dbg (f : Tb → Tb) : (s.modTb f).dbg = s.dbg := rfl
@[simp] theorem State.modTb_hif (f : Tb → Tb) : (s.modTb f).hif = s.hif := rfl
@[simp] theorem State.modTb_msix (f : Tb → Tb) : (s.modTb f).msix = s.msix := rfl
@[simp] theorem State.modTb_cfg (f : Tb → Tb) : (s.modTb f).cfg = s.cfg := rfl
@[simp] theorem State.modTb_flash (f : Tb → Tb) : (s.modTb f).flash = s.flash := rfl
@[simp] theorem State.modTb_pwr (f : Tb → Tb) : (s.modTb f).pwr = s.pwr := rfl
@[simp] theorem State.modTb_twn (f : Tb → Tb) : (s.modTb f).twn = s.twn := rfl
@[simp] theorem State.modTb_flt (f : Tb → Tb) : (s.modTb f).flt = s.flt := rfl
@[simp] theorem State.modTb_bst (f : Tb → Tb) : (s.modTb f).bst = s.bst := rfl
@[simp] theorem State.modTb_key (f : Tb → Tb) : (s.modTb f).key = s.key := rfl
@[simp] theorem State.modTb_rtc (f : Tb → Tb) : (s.modTb f).rtc = s.rtc := rfl
@[simp] theorem State.modTb_bkp (f : Tb → Tb) : (s.modTb f).bkp = s.bkp := rfl
@[simp] theorem State.modTb_pins (f : Tb → Tb) : (s.modTb f).pins = s.pins := rfl
@[simp] theorem State.modTb_dram (f : Tb → Tb) : (s.modTb f).dram = s.dram := rfl
@[simp] theorem State.modTb_out (f : Tb → Tb) : (s.modTb f).out = s.out := rfl
@[simp] theorem State.modTb_fresh (f : Tb → Tb) : (s.modTb f).fresh = s.fresh := rfl
@[simp] theorem State.reg_modTb (f : Tb → Tb) (o' : Nat) : (s.modTb f).reg o' = s.reg o' := rfl
@[simp] theorem State.fld_modTb (f : Tb → Tb) (o' lo' w' : Nat) : (s.modTb f).fld o' lo' w' = s.fld o' lo' w' := rfl
@[simp] theorem State.bit_modTb (f : Tb → Tb) (o' i' : Nat) : (s.modTb f).bit o' i' = s.bit o' i' := rfl

theorem State.modBin_eq (f : Bin → Bin) : s.modBin f = { s with bin := f s.bin } := rfl
@[simp] theorem State.modBin_pending (f : Bin → Bin) : (s.modBin f).pending = s.pending := rfl
@[simp] theorem State.modBin_hw (f : Bin → Bin) : (s.modBin f).hw = s.hw := rfl
@[simp] theorem State.modBin_dt (f : Bin → Bin) : (s.modBin f).dt = s.dt := rfl
@[simp] theorem State.modBin_regs (f : Bin → Bin) : (s.modBin f).regs = s.regs := rfl
@[simp] theorem State.modBin_latch (f : Bin → Bin) : (s.modBin f).latch = s.latch := rfl
@[simp] theorem State.modBin_hold (f : Bin → Bin) : (s.modBin f).hold = s.hold := rfl
@[simp] theorem State.modBin_rdata (f : Bin → Bin) : (s.modBin f).rdata = s.rdata := rfl
@[simp] theorem State.modBin_leases (f : Bin → Bin) : (s.modBin f).leases = s.leases := rfl
@[simp] theorem State.modBin_tb (f : Bin → Bin) : (s.modBin f).tb = s.tb := rfl
@[simp] theorem State.modBin_mac (f : Bin → Bin) : (s.modBin f).mac = s.mac := rfl
@[simp] theorem State.modBin_bin (f : Bin → Bin) : (s.modBin f).bin = f s.bin := rfl
@[simp] theorem State.modBin_aln (f : Bin → Bin) : (s.modBin f).aln = s.aln := rfl
@[simp] theorem State.modBin_osc (f : Bin → Bin) : (s.modBin f).osc = s.osc := rfl
@[simp] theorem State.modBin_isl (f : Bin → Bin) : (s.modBin f).isl = s.isl := rfl
@[simp] theorem State.modBin_alm (f : Bin → Bin) : (s.modBin f).alm = s.alm := rfl
@[simp] theorem State.modBin_outp (f : Bin → Bin) : (s.modBin f).outp = s.outp := rfl
@[simp] theorem State.modBin_fe (f : Bin → Bin) : (s.modBin f).fe = s.fe := rfl
@[simp] theorem State.modBin_mtr (f : Bin → Bin) : (s.modBin f).mtr = s.mtr := rfl
@[simp] theorem State.modBin_cap (f : Bin → Bin) : (s.modBin f).cap = s.cap := rfl
@[simp] theorem State.modBin_logb (f : Bin → Bin) : (s.modBin f).logb = s.logb := rfl
@[simp] theorem State.modBin_plt (f : Bin → Bin) : (s.modBin f).plt = s.plt := rfl
@[simp] theorem State.modBin_dbg (f : Bin → Bin) : (s.modBin f).dbg = s.dbg := rfl
@[simp] theorem State.modBin_hif (f : Bin → Bin) : (s.modBin f).hif = s.hif := rfl
@[simp] theorem State.modBin_msix (f : Bin → Bin) : (s.modBin f).msix = s.msix := rfl
@[simp] theorem State.modBin_cfg (f : Bin → Bin) : (s.modBin f).cfg = s.cfg := rfl
@[simp] theorem State.modBin_flash (f : Bin → Bin) : (s.modBin f).flash = s.flash := rfl
@[simp] theorem State.modBin_pwr (f : Bin → Bin) : (s.modBin f).pwr = s.pwr := rfl
@[simp] theorem State.modBin_twn (f : Bin → Bin) : (s.modBin f).twn = s.twn := rfl
@[simp] theorem State.modBin_flt (f : Bin → Bin) : (s.modBin f).flt = s.flt := rfl
@[simp] theorem State.modBin_bst (f : Bin → Bin) : (s.modBin f).bst = s.bst := rfl
@[simp] theorem State.modBin_key (f : Bin → Bin) : (s.modBin f).key = s.key := rfl
@[simp] theorem State.modBin_rtc (f : Bin → Bin) : (s.modBin f).rtc = s.rtc := rfl
@[simp] theorem State.modBin_bkp (f : Bin → Bin) : (s.modBin f).bkp = s.bkp := rfl
@[simp] theorem State.modBin_pins (f : Bin → Bin) : (s.modBin f).pins = s.pins := rfl
@[simp] theorem State.modBin_dram (f : Bin → Bin) : (s.modBin f).dram = s.dram := rfl
@[simp] theorem State.modBin_out (f : Bin → Bin) : (s.modBin f).out = s.out := rfl
@[simp] theorem State.modBin_fresh (f : Bin → Bin) : (s.modBin f).fresh = s.fresh := rfl
@[simp] theorem State.reg_modBin (f : Bin → Bin) (o' : Nat) : (s.modBin f).reg o' = s.reg o' := rfl
@[simp] theorem State.fld_modBin (f : Bin → Bin) (o' lo' w' : Nat) : (s.modBin f).fld o' lo' w' = s.fld o' lo' w' := rfl
@[simp] theorem State.bit_modBin (f : Bin → Bin) (o' i' : Nat) : (s.modBin f).bit o' i' = s.bit o' i' := rfl

theorem State.modAln_eq (f : Aln → Aln) : s.modAln f = { s with aln := f s.aln } := rfl
@[simp] theorem State.modAln_pending (f : Aln → Aln) : (s.modAln f).pending = s.pending := rfl
@[simp] theorem State.modAln_hw (f : Aln → Aln) : (s.modAln f).hw = s.hw := rfl
@[simp] theorem State.modAln_dt (f : Aln → Aln) : (s.modAln f).dt = s.dt := rfl
@[simp] theorem State.modAln_regs (f : Aln → Aln) : (s.modAln f).regs = s.regs := rfl
@[simp] theorem State.modAln_latch (f : Aln → Aln) : (s.modAln f).latch = s.latch := rfl
@[simp] theorem State.modAln_hold (f : Aln → Aln) : (s.modAln f).hold = s.hold := rfl
@[simp] theorem State.modAln_rdata (f : Aln → Aln) : (s.modAln f).rdata = s.rdata := rfl
@[simp] theorem State.modAln_leases (f : Aln → Aln) : (s.modAln f).leases = s.leases := rfl
@[simp] theorem State.modAln_tb (f : Aln → Aln) : (s.modAln f).tb = s.tb := rfl
@[simp] theorem State.modAln_mac (f : Aln → Aln) : (s.modAln f).mac = s.mac := rfl
@[simp] theorem State.modAln_bin (f : Aln → Aln) : (s.modAln f).bin = s.bin := rfl
@[simp] theorem State.modAln_aln (f : Aln → Aln) : (s.modAln f).aln = f s.aln := rfl
@[simp] theorem State.modAln_osc (f : Aln → Aln) : (s.modAln f).osc = s.osc := rfl
@[simp] theorem State.modAln_isl (f : Aln → Aln) : (s.modAln f).isl = s.isl := rfl
@[simp] theorem State.modAln_alm (f : Aln → Aln) : (s.modAln f).alm = s.alm := rfl
@[simp] theorem State.modAln_outp (f : Aln → Aln) : (s.modAln f).outp = s.outp := rfl
@[simp] theorem State.modAln_fe (f : Aln → Aln) : (s.modAln f).fe = s.fe := rfl
@[simp] theorem State.modAln_mtr (f : Aln → Aln) : (s.modAln f).mtr = s.mtr := rfl
@[simp] theorem State.modAln_cap (f : Aln → Aln) : (s.modAln f).cap = s.cap := rfl
@[simp] theorem State.modAln_logb (f : Aln → Aln) : (s.modAln f).logb = s.logb := rfl
@[simp] theorem State.modAln_plt (f : Aln → Aln) : (s.modAln f).plt = s.plt := rfl
@[simp] theorem State.modAln_dbg (f : Aln → Aln) : (s.modAln f).dbg = s.dbg := rfl
@[simp] theorem State.modAln_hif (f : Aln → Aln) : (s.modAln f).hif = s.hif := rfl
@[simp] theorem State.modAln_msix (f : Aln → Aln) : (s.modAln f).msix = s.msix := rfl
@[simp] theorem State.modAln_cfg (f : Aln → Aln) : (s.modAln f).cfg = s.cfg := rfl
@[simp] theorem State.modAln_flash (f : Aln → Aln) : (s.modAln f).flash = s.flash := rfl
@[simp] theorem State.modAln_pwr (f : Aln → Aln) : (s.modAln f).pwr = s.pwr := rfl
@[simp] theorem State.modAln_twn (f : Aln → Aln) : (s.modAln f).twn = s.twn := rfl
@[simp] theorem State.modAln_flt (f : Aln → Aln) : (s.modAln f).flt = s.flt := rfl
@[simp] theorem State.modAln_bst (f : Aln → Aln) : (s.modAln f).bst = s.bst := rfl
@[simp] theorem State.modAln_key (f : Aln → Aln) : (s.modAln f).key = s.key := rfl
@[simp] theorem State.modAln_rtc (f : Aln → Aln) : (s.modAln f).rtc = s.rtc := rfl
@[simp] theorem State.modAln_bkp (f : Aln → Aln) : (s.modAln f).bkp = s.bkp := rfl
@[simp] theorem State.modAln_pins (f : Aln → Aln) : (s.modAln f).pins = s.pins := rfl
@[simp] theorem State.modAln_dram (f : Aln → Aln) : (s.modAln f).dram = s.dram := rfl
@[simp] theorem State.modAln_out (f : Aln → Aln) : (s.modAln f).out = s.out := rfl
@[simp] theorem State.modAln_fresh (f : Aln → Aln) : (s.modAln f).fresh = s.fresh := rfl
@[simp] theorem State.reg_modAln (f : Aln → Aln) (o' : Nat) : (s.modAln f).reg o' = s.reg o' := rfl
@[simp] theorem State.fld_modAln (f : Aln → Aln) (o' lo' w' : Nat) : (s.modAln f).fld o' lo' w' = s.fld o' lo' w' := rfl
@[simp] theorem State.bit_modAln (f : Aln → Aln) (o' i' : Nat) : (s.modAln f).bit o' i' = s.bit o' i' := rfl

theorem State.modOsc_eq (f : Osc → Osc) : s.modOsc f = { s with osc := f s.osc } := rfl
@[simp] theorem State.modOsc_pending (f : Osc → Osc) : (s.modOsc f).pending = s.pending := rfl
@[simp] theorem State.modOsc_hw (f : Osc → Osc) : (s.modOsc f).hw = s.hw := rfl
@[simp] theorem State.modOsc_dt (f : Osc → Osc) : (s.modOsc f).dt = s.dt := rfl
@[simp] theorem State.modOsc_regs (f : Osc → Osc) : (s.modOsc f).regs = s.regs := rfl
@[simp] theorem State.modOsc_latch (f : Osc → Osc) : (s.modOsc f).latch = s.latch := rfl
@[simp] theorem State.modOsc_hold (f : Osc → Osc) : (s.modOsc f).hold = s.hold := rfl
@[simp] theorem State.modOsc_rdata (f : Osc → Osc) : (s.modOsc f).rdata = s.rdata := rfl
@[simp] theorem State.modOsc_leases (f : Osc → Osc) : (s.modOsc f).leases = s.leases := rfl
@[simp] theorem State.modOsc_tb (f : Osc → Osc) : (s.modOsc f).tb = s.tb := rfl
@[simp] theorem State.modOsc_mac (f : Osc → Osc) : (s.modOsc f).mac = s.mac := rfl
@[simp] theorem State.modOsc_bin (f : Osc → Osc) : (s.modOsc f).bin = s.bin := rfl
@[simp] theorem State.modOsc_aln (f : Osc → Osc) : (s.modOsc f).aln = s.aln := rfl
@[simp] theorem State.modOsc_osc (f : Osc → Osc) : (s.modOsc f).osc = f s.osc := rfl
@[simp] theorem State.modOsc_isl (f : Osc → Osc) : (s.modOsc f).isl = s.isl := rfl
@[simp] theorem State.modOsc_alm (f : Osc → Osc) : (s.modOsc f).alm = s.alm := rfl
@[simp] theorem State.modOsc_outp (f : Osc → Osc) : (s.modOsc f).outp = s.outp := rfl
@[simp] theorem State.modOsc_fe (f : Osc → Osc) : (s.modOsc f).fe = s.fe := rfl
@[simp] theorem State.modOsc_mtr (f : Osc → Osc) : (s.modOsc f).mtr = s.mtr := rfl
@[simp] theorem State.modOsc_cap (f : Osc → Osc) : (s.modOsc f).cap = s.cap := rfl
@[simp] theorem State.modOsc_logb (f : Osc → Osc) : (s.modOsc f).logb = s.logb := rfl
@[simp] theorem State.modOsc_plt (f : Osc → Osc) : (s.modOsc f).plt = s.plt := rfl
@[simp] theorem State.modOsc_dbg (f : Osc → Osc) : (s.modOsc f).dbg = s.dbg := rfl
@[simp] theorem State.modOsc_hif (f : Osc → Osc) : (s.modOsc f).hif = s.hif := rfl
@[simp] theorem State.modOsc_msix (f : Osc → Osc) : (s.modOsc f).msix = s.msix := rfl
@[simp] theorem State.modOsc_cfg (f : Osc → Osc) : (s.modOsc f).cfg = s.cfg := rfl
@[simp] theorem State.modOsc_flash (f : Osc → Osc) : (s.modOsc f).flash = s.flash := rfl
@[simp] theorem State.modOsc_pwr (f : Osc → Osc) : (s.modOsc f).pwr = s.pwr := rfl
@[simp] theorem State.modOsc_twn (f : Osc → Osc) : (s.modOsc f).twn = s.twn := rfl
@[simp] theorem State.modOsc_flt (f : Osc → Osc) : (s.modOsc f).flt = s.flt := rfl
@[simp] theorem State.modOsc_bst (f : Osc → Osc) : (s.modOsc f).bst = s.bst := rfl
@[simp] theorem State.modOsc_key (f : Osc → Osc) : (s.modOsc f).key = s.key := rfl
@[simp] theorem State.modOsc_rtc (f : Osc → Osc) : (s.modOsc f).rtc = s.rtc := rfl
@[simp] theorem State.modOsc_bkp (f : Osc → Osc) : (s.modOsc f).bkp = s.bkp := rfl
@[simp] theorem State.modOsc_pins (f : Osc → Osc) : (s.modOsc f).pins = s.pins := rfl
@[simp] theorem State.modOsc_dram (f : Osc → Osc) : (s.modOsc f).dram = s.dram := rfl
@[simp] theorem State.modOsc_out (f : Osc → Osc) : (s.modOsc f).out = s.out := rfl
@[simp] theorem State.modOsc_fresh (f : Osc → Osc) : (s.modOsc f).fresh = s.fresh := rfl
@[simp] theorem State.reg_modOsc (f : Osc → Osc) (o' : Nat) : (s.modOsc f).reg o' = s.reg o' := rfl
@[simp] theorem State.fld_modOsc (f : Osc → Osc) (o' lo' w' : Nat) : (s.modOsc f).fld o' lo' w' = s.fld o' lo' w' := rfl
@[simp] theorem State.bit_modOsc (f : Osc → Osc) (o' i' : Nat) : (s.modOsc f).bit o' i' = s.bit o' i' := rfl

theorem State.modIsl_eq (f : Isl → Isl) : s.modIsl f = { s with isl := f s.isl } := rfl
@[simp] theorem State.modIsl_pending (f : Isl → Isl) : (s.modIsl f).pending = s.pending := rfl
@[simp] theorem State.modIsl_hw (f : Isl → Isl) : (s.modIsl f).hw = s.hw := rfl
@[simp] theorem State.modIsl_dt (f : Isl → Isl) : (s.modIsl f).dt = s.dt := rfl
@[simp] theorem State.modIsl_regs (f : Isl → Isl) : (s.modIsl f).regs = s.regs := rfl
@[simp] theorem State.modIsl_latch (f : Isl → Isl) : (s.modIsl f).latch = s.latch := rfl
@[simp] theorem State.modIsl_hold (f : Isl → Isl) : (s.modIsl f).hold = s.hold := rfl
@[simp] theorem State.modIsl_rdata (f : Isl → Isl) : (s.modIsl f).rdata = s.rdata := rfl
@[simp] theorem State.modIsl_leases (f : Isl → Isl) : (s.modIsl f).leases = s.leases := rfl
@[simp] theorem State.modIsl_tb (f : Isl → Isl) : (s.modIsl f).tb = s.tb := rfl
@[simp] theorem State.modIsl_mac (f : Isl → Isl) : (s.modIsl f).mac = s.mac := rfl
@[simp] theorem State.modIsl_bin (f : Isl → Isl) : (s.modIsl f).bin = s.bin := rfl
@[simp] theorem State.modIsl_aln (f : Isl → Isl) : (s.modIsl f).aln = s.aln := rfl
@[simp] theorem State.modIsl_osc (f : Isl → Isl) : (s.modIsl f).osc = s.osc := rfl
@[simp] theorem State.modIsl_isl (f : Isl → Isl) : (s.modIsl f).isl = f s.isl := rfl
@[simp] theorem State.modIsl_alm (f : Isl → Isl) : (s.modIsl f).alm = s.alm := rfl
@[simp] theorem State.modIsl_outp (f : Isl → Isl) : (s.modIsl f).outp = s.outp := rfl
@[simp] theorem State.modIsl_fe (f : Isl → Isl) : (s.modIsl f).fe = s.fe := rfl
@[simp] theorem State.modIsl_mtr (f : Isl → Isl) : (s.modIsl f).mtr = s.mtr := rfl
@[simp] theorem State.modIsl_cap (f : Isl → Isl) : (s.modIsl f).cap = s.cap := rfl
@[simp] theorem State.modIsl_logb (f : Isl → Isl) : (s.modIsl f).logb = s.logb := rfl
@[simp] theorem State.modIsl_plt (f : Isl → Isl) : (s.modIsl f).plt = s.plt := rfl
@[simp] theorem State.modIsl_dbg (f : Isl → Isl) : (s.modIsl f).dbg = s.dbg := rfl
@[simp] theorem State.modIsl_hif (f : Isl → Isl) : (s.modIsl f).hif = s.hif := rfl
@[simp] theorem State.modIsl_msix (f : Isl → Isl) : (s.modIsl f).msix = s.msix := rfl
@[simp] theorem State.modIsl_cfg (f : Isl → Isl) : (s.modIsl f).cfg = s.cfg := rfl
@[simp] theorem State.modIsl_flash (f : Isl → Isl) : (s.modIsl f).flash = s.flash := rfl
@[simp] theorem State.modIsl_pwr (f : Isl → Isl) : (s.modIsl f).pwr = s.pwr := rfl
@[simp] theorem State.modIsl_twn (f : Isl → Isl) : (s.modIsl f).twn = s.twn := rfl
@[simp] theorem State.modIsl_flt (f : Isl → Isl) : (s.modIsl f).flt = s.flt := rfl
@[simp] theorem State.modIsl_bst (f : Isl → Isl) : (s.modIsl f).bst = s.bst := rfl
@[simp] theorem State.modIsl_key (f : Isl → Isl) : (s.modIsl f).key = s.key := rfl
@[simp] theorem State.modIsl_rtc (f : Isl → Isl) : (s.modIsl f).rtc = s.rtc := rfl
@[simp] theorem State.modIsl_bkp (f : Isl → Isl) : (s.modIsl f).bkp = s.bkp := rfl
@[simp] theorem State.modIsl_pins (f : Isl → Isl) : (s.modIsl f).pins = s.pins := rfl
@[simp] theorem State.modIsl_dram (f : Isl → Isl) : (s.modIsl f).dram = s.dram := rfl
@[simp] theorem State.modIsl_out (f : Isl → Isl) : (s.modIsl f).out = s.out := rfl
@[simp] theorem State.modIsl_fresh (f : Isl → Isl) : (s.modIsl f).fresh = s.fresh := rfl
@[simp] theorem State.reg_modIsl (f : Isl → Isl) (o' : Nat) : (s.modIsl f).reg o' = s.reg o' := rfl
@[simp] theorem State.fld_modIsl (f : Isl → Isl) (o' lo' w' : Nat) : (s.modIsl f).fld o' lo' w' = s.fld o' lo' w' := rfl
@[simp] theorem State.bit_modIsl (f : Isl → Isl) (o' i' : Nat) : (s.modIsl f).bit o' i' = s.bit o' i' := rfl

theorem State.modAlm_eq (f : Alm → Alm) : s.modAlm f = { s with alm := f s.alm } := rfl
@[simp] theorem State.modAlm_pending (f : Alm → Alm) : (s.modAlm f).pending = s.pending := rfl
@[simp] theorem State.modAlm_hw (f : Alm → Alm) : (s.modAlm f).hw = s.hw := rfl
@[simp] theorem State.modAlm_dt (f : Alm → Alm) : (s.modAlm f).dt = s.dt := rfl
@[simp] theorem State.modAlm_regs (f : Alm → Alm) : (s.modAlm f).regs = s.regs := rfl
@[simp] theorem State.modAlm_latch (f : Alm → Alm) : (s.modAlm f).latch = s.latch := rfl
@[simp] theorem State.modAlm_hold (f : Alm → Alm) : (s.modAlm f).hold = s.hold := rfl
@[simp] theorem State.modAlm_rdata (f : Alm → Alm) : (s.modAlm f).rdata = s.rdata := rfl
@[simp] theorem State.modAlm_leases (f : Alm → Alm) : (s.modAlm f).leases = s.leases := rfl
@[simp] theorem State.modAlm_tb (f : Alm → Alm) : (s.modAlm f).tb = s.tb := rfl
@[simp] theorem State.modAlm_mac (f : Alm → Alm) : (s.modAlm f).mac = s.mac := rfl
@[simp] theorem State.modAlm_bin (f : Alm → Alm) : (s.modAlm f).bin = s.bin := rfl
@[simp] theorem State.modAlm_aln (f : Alm → Alm) : (s.modAlm f).aln = s.aln := rfl
@[simp] theorem State.modAlm_osc (f : Alm → Alm) : (s.modAlm f).osc = s.osc := rfl
@[simp] theorem State.modAlm_isl (f : Alm → Alm) : (s.modAlm f).isl = s.isl := rfl
@[simp] theorem State.modAlm_alm (f : Alm → Alm) : (s.modAlm f).alm = f s.alm := rfl
@[simp] theorem State.modAlm_outp (f : Alm → Alm) : (s.modAlm f).outp = s.outp := rfl
@[simp] theorem State.modAlm_fe (f : Alm → Alm) : (s.modAlm f).fe = s.fe := rfl
@[simp] theorem State.modAlm_mtr (f : Alm → Alm) : (s.modAlm f).mtr = s.mtr := rfl
@[simp] theorem State.modAlm_cap (f : Alm → Alm) : (s.modAlm f).cap = s.cap := rfl
@[simp] theorem State.modAlm_logb (f : Alm → Alm) : (s.modAlm f).logb = s.logb := rfl
@[simp] theorem State.modAlm_plt (f : Alm → Alm) : (s.modAlm f).plt = s.plt := rfl
@[simp] theorem State.modAlm_dbg (f : Alm → Alm) : (s.modAlm f).dbg = s.dbg := rfl
@[simp] theorem State.modAlm_hif (f : Alm → Alm) : (s.modAlm f).hif = s.hif := rfl
@[simp] theorem State.modAlm_msix (f : Alm → Alm) : (s.modAlm f).msix = s.msix := rfl
@[simp] theorem State.modAlm_cfg (f : Alm → Alm) : (s.modAlm f).cfg = s.cfg := rfl
@[simp] theorem State.modAlm_flash (f : Alm → Alm) : (s.modAlm f).flash = s.flash := rfl
@[simp] theorem State.modAlm_pwr (f : Alm → Alm) : (s.modAlm f).pwr = s.pwr := rfl
@[simp] theorem State.modAlm_twn (f : Alm → Alm) : (s.modAlm f).twn = s.twn := rfl
@[simp] theorem State.modAlm_flt (f : Alm → Alm) : (s.modAlm f).flt = s.flt := rfl
@[simp] theorem State.modAlm_bst (f : Alm → Alm) : (s.modAlm f).bst = s.bst := rfl
@[simp] theorem State.modAlm_key (f : Alm → Alm) : (s.modAlm f).key = s.key := rfl
@[simp] theorem State.modAlm_rtc (f : Alm → Alm) : (s.modAlm f).rtc = s.rtc := rfl
@[simp] theorem State.modAlm_bkp (f : Alm → Alm) : (s.modAlm f).bkp = s.bkp := rfl
@[simp] theorem State.modAlm_pins (f : Alm → Alm) : (s.modAlm f).pins = s.pins := rfl
@[simp] theorem State.modAlm_dram (f : Alm → Alm) : (s.modAlm f).dram = s.dram := rfl
@[simp] theorem State.modAlm_out (f : Alm → Alm) : (s.modAlm f).out = s.out := rfl
@[simp] theorem State.modAlm_fresh (f : Alm → Alm) : (s.modAlm f).fresh = s.fresh := rfl
@[simp] theorem State.reg_modAlm (f : Alm → Alm) (o' : Nat) : (s.modAlm f).reg o' = s.reg o' := rfl
@[simp] theorem State.fld_modAlm (f : Alm → Alm) (o' lo' w' : Nat) : (s.modAlm f).fld o' lo' w' = s.fld o' lo' w' := rfl
@[simp] theorem State.bit_modAlm (f : Alm → Alm) (o' i' : Nat) : (s.modAlm f).bit o' i' = s.bit o' i' := rfl

theorem State.modFe_eq (f : Fe → Fe) : s.modFe f = { s with fe := f s.fe } := rfl
@[simp] theorem State.modFe_pending (f : Fe → Fe) : (s.modFe f).pending = s.pending := rfl
@[simp] theorem State.modFe_hw (f : Fe → Fe) : (s.modFe f).hw = s.hw := rfl
@[simp] theorem State.modFe_dt (f : Fe → Fe) : (s.modFe f).dt = s.dt := rfl
@[simp] theorem State.modFe_regs (f : Fe → Fe) : (s.modFe f).regs = s.regs := rfl
@[simp] theorem State.modFe_latch (f : Fe → Fe) : (s.modFe f).latch = s.latch := rfl
@[simp] theorem State.modFe_hold (f : Fe → Fe) : (s.modFe f).hold = s.hold := rfl
@[simp] theorem State.modFe_rdata (f : Fe → Fe) : (s.modFe f).rdata = s.rdata := rfl
@[simp] theorem State.modFe_leases (f : Fe → Fe) : (s.modFe f).leases = s.leases := rfl
@[simp] theorem State.modFe_tb (f : Fe → Fe) : (s.modFe f).tb = s.tb := rfl
@[simp] theorem State.modFe_mac (f : Fe → Fe) : (s.modFe f).mac = s.mac := rfl
@[simp] theorem State.modFe_bin (f : Fe → Fe) : (s.modFe f).bin = s.bin := rfl
@[simp] theorem State.modFe_aln (f : Fe → Fe) : (s.modFe f).aln = s.aln := rfl
@[simp] theorem State.modFe_osc (f : Fe → Fe) : (s.modFe f).osc = s.osc := rfl
@[simp] theorem State.modFe_isl (f : Fe → Fe) : (s.modFe f).isl = s.isl := rfl
@[simp] theorem State.modFe_alm (f : Fe → Fe) : (s.modFe f).alm = s.alm := rfl
@[simp] theorem State.modFe_outp (f : Fe → Fe) : (s.modFe f).outp = s.outp := rfl
@[simp] theorem State.modFe_fe (f : Fe → Fe) : (s.modFe f).fe = f s.fe := rfl
@[simp] theorem State.modFe_mtr (f : Fe → Fe) : (s.modFe f).mtr = s.mtr := rfl
@[simp] theorem State.modFe_cap (f : Fe → Fe) : (s.modFe f).cap = s.cap := rfl
@[simp] theorem State.modFe_logb (f : Fe → Fe) : (s.modFe f).logb = s.logb := rfl
@[simp] theorem State.modFe_plt (f : Fe → Fe) : (s.modFe f).plt = s.plt := rfl
@[simp] theorem State.modFe_dbg (f : Fe → Fe) : (s.modFe f).dbg = s.dbg := rfl
@[simp] theorem State.modFe_hif (f : Fe → Fe) : (s.modFe f).hif = s.hif := rfl
@[simp] theorem State.modFe_msix (f : Fe → Fe) : (s.modFe f).msix = s.msix := rfl
@[simp] theorem State.modFe_cfg (f : Fe → Fe) : (s.modFe f).cfg = s.cfg := rfl
@[simp] theorem State.modFe_flash (f : Fe → Fe) : (s.modFe f).flash = s.flash := rfl
@[simp] theorem State.modFe_pwr (f : Fe → Fe) : (s.modFe f).pwr = s.pwr := rfl
@[simp] theorem State.modFe_twn (f : Fe → Fe) : (s.modFe f).twn = s.twn := rfl
@[simp] theorem State.modFe_flt (f : Fe → Fe) : (s.modFe f).flt = s.flt := rfl
@[simp] theorem State.modFe_bst (f : Fe → Fe) : (s.modFe f).bst = s.bst := rfl
@[simp] theorem State.modFe_key (f : Fe → Fe) : (s.modFe f).key = s.key := rfl
@[simp] theorem State.modFe_rtc (f : Fe → Fe) : (s.modFe f).rtc = s.rtc := rfl
@[simp] theorem State.modFe_bkp (f : Fe → Fe) : (s.modFe f).bkp = s.bkp := rfl
@[simp] theorem State.modFe_pins (f : Fe → Fe) : (s.modFe f).pins = s.pins := rfl
@[simp] theorem State.modFe_dram (f : Fe → Fe) : (s.modFe f).dram = s.dram := rfl
@[simp] theorem State.modFe_out (f : Fe → Fe) : (s.modFe f).out = s.out := rfl
@[simp] theorem State.modFe_fresh (f : Fe → Fe) : (s.modFe f).fresh = s.fresh := rfl
@[simp] theorem State.reg_modFe (f : Fe → Fe) (o' : Nat) : (s.modFe f).reg o' = s.reg o' := rfl
@[simp] theorem State.fld_modFe (f : Fe → Fe) (o' lo' w' : Nat) : (s.modFe f).fld o' lo' w' = s.fld o' lo' w' := rfl
@[simp] theorem State.bit_modFe (f : Fe → Fe) (o' i' : Nat) : (s.modFe f).bit o' i' = s.bit o' i' := rfl

theorem State.modMtr_eq (f : Mtr → Mtr) : s.modMtr f = { s with mtr := f s.mtr } := rfl
@[simp] theorem State.modMtr_pending (f : Mtr → Mtr) : (s.modMtr f).pending = s.pending := rfl
@[simp] theorem State.modMtr_hw (f : Mtr → Mtr) : (s.modMtr f).hw = s.hw := rfl
@[simp] theorem State.modMtr_dt (f : Mtr → Mtr) : (s.modMtr f).dt = s.dt := rfl
@[simp] theorem State.modMtr_regs (f : Mtr → Mtr) : (s.modMtr f).regs = s.regs := rfl
@[simp] theorem State.modMtr_latch (f : Mtr → Mtr) : (s.modMtr f).latch = s.latch := rfl
@[simp] theorem State.modMtr_hold (f : Mtr → Mtr) : (s.modMtr f).hold = s.hold := rfl
@[simp] theorem State.modMtr_rdata (f : Mtr → Mtr) : (s.modMtr f).rdata = s.rdata := rfl
@[simp] theorem State.modMtr_leases (f : Mtr → Mtr) : (s.modMtr f).leases = s.leases := rfl
@[simp] theorem State.modMtr_tb (f : Mtr → Mtr) : (s.modMtr f).tb = s.tb := rfl
@[simp] theorem State.modMtr_mac (f : Mtr → Mtr) : (s.modMtr f).mac = s.mac := rfl
@[simp] theorem State.modMtr_bin (f : Mtr → Mtr) : (s.modMtr f).bin = s.bin := rfl
@[simp] theorem State.modMtr_aln (f : Mtr → Mtr) : (s.modMtr f).aln = s.aln := rfl
@[simp] theorem State.modMtr_osc (f : Mtr → Mtr) : (s.modMtr f).osc = s.osc := rfl
@[simp] theorem State.modMtr_isl (f : Mtr → Mtr) : (s.modMtr f).isl = s.isl := rfl
@[simp] theorem State.modMtr_alm (f : Mtr → Mtr) : (s.modMtr f).alm = s.alm := rfl
@[simp] theorem State.modMtr_outp (f : Mtr → Mtr) : (s.modMtr f).outp = s.outp := rfl
@[simp] theorem State.modMtr_fe (f : Mtr → Mtr) : (s.modMtr f).fe = s.fe := rfl
@[simp] theorem State.modMtr_mtr (f : Mtr → Mtr) : (s.modMtr f).mtr = f s.mtr := rfl
@[simp] theorem State.modMtr_cap (f : Mtr → Mtr) : (s.modMtr f).cap = s.cap := rfl
@[simp] theorem State.modMtr_logb (f : Mtr → Mtr) : (s.modMtr f).logb = s.logb := rfl
@[simp] theorem State.modMtr_plt (f : Mtr → Mtr) : (s.modMtr f).plt = s.plt := rfl
@[simp] theorem State.modMtr_dbg (f : Mtr → Mtr) : (s.modMtr f).dbg = s.dbg := rfl
@[simp] theorem State.modMtr_hif (f : Mtr → Mtr) : (s.modMtr f).hif = s.hif := rfl
@[simp] theorem State.modMtr_msix (f : Mtr → Mtr) : (s.modMtr f).msix = s.msix := rfl
@[simp] theorem State.modMtr_cfg (f : Mtr → Mtr) : (s.modMtr f).cfg = s.cfg := rfl
@[simp] theorem State.modMtr_flash (f : Mtr → Mtr) : (s.modMtr f).flash = s.flash := rfl
@[simp] theorem State.modMtr_pwr (f : Mtr → Mtr) : (s.modMtr f).pwr = s.pwr := rfl
@[simp] theorem State.modMtr_twn (f : Mtr → Mtr) : (s.modMtr f).twn = s.twn := rfl
@[simp] theorem State.modMtr_flt (f : Mtr → Mtr) : (s.modMtr f).flt = s.flt := rfl
@[simp] theorem State.modMtr_bst (f : Mtr → Mtr) : (s.modMtr f).bst = s.bst := rfl
@[simp] theorem State.modMtr_key (f : Mtr → Mtr) : (s.modMtr f).key = s.key := rfl
@[simp] theorem State.modMtr_rtc (f : Mtr → Mtr) : (s.modMtr f).rtc = s.rtc := rfl
@[simp] theorem State.modMtr_bkp (f : Mtr → Mtr) : (s.modMtr f).bkp = s.bkp := rfl
@[simp] theorem State.modMtr_pins (f : Mtr → Mtr) : (s.modMtr f).pins = s.pins := rfl
@[simp] theorem State.modMtr_dram (f : Mtr → Mtr) : (s.modMtr f).dram = s.dram := rfl
@[simp] theorem State.modMtr_out (f : Mtr → Mtr) : (s.modMtr f).out = s.out := rfl
@[simp] theorem State.modMtr_fresh (f : Mtr → Mtr) : (s.modMtr f).fresh = s.fresh := rfl
@[simp] theorem State.reg_modMtr (f : Mtr → Mtr) (o' : Nat) : (s.modMtr f).reg o' = s.reg o' := rfl
@[simp] theorem State.fld_modMtr (f : Mtr → Mtr) (o' lo' w' : Nat) : (s.modMtr f).fld o' lo' w' = s.fld o' lo' w' := rfl
@[simp] theorem State.bit_modMtr (f : Mtr → Mtr) (o' i' : Nat) : (s.modMtr f).bit o' i' = s.bit o' i' := rfl

theorem State.modLog_eq (f : Logb → Logb) : s.modLog f = { s with logb := f s.logb } := rfl
@[simp] theorem State.modLog_pending (f : Logb → Logb) : (s.modLog f).pending = s.pending := rfl
@[simp] theorem State.modLog_hw (f : Logb → Logb) : (s.modLog f).hw = s.hw := rfl
@[simp] theorem State.modLog_dt (f : Logb → Logb) : (s.modLog f).dt = s.dt := rfl
@[simp] theorem State.modLog_regs (f : Logb → Logb) : (s.modLog f).regs = s.regs := rfl
@[simp] theorem State.modLog_latch (f : Logb → Logb) : (s.modLog f).latch = s.latch := rfl
@[simp] theorem State.modLog_hold (f : Logb → Logb) : (s.modLog f).hold = s.hold := rfl
@[simp] theorem State.modLog_rdata (f : Logb → Logb) : (s.modLog f).rdata = s.rdata := rfl
@[simp] theorem State.modLog_leases (f : Logb → Logb) : (s.modLog f).leases = s.leases := rfl
@[simp] theorem State.modLog_tb (f : Logb → Logb) : (s.modLog f).tb = s.tb := rfl
@[simp] theorem State.modLog_mac (f : Logb → Logb) : (s.modLog f).mac = s.mac := rfl
@[simp] theorem State.modLog_bin (f : Logb → Logb) : (s.modLog f).bin = s.bin := rfl
@[simp] theorem State.modLog_aln (f : Logb → Logb) : (s.modLog f).aln = s.aln := rfl
@[simp] theorem State.modLog_osc (f : Logb → Logb) : (s.modLog f).osc = s.osc := rfl
@[simp] theorem State.modLog_isl (f : Logb → Logb) : (s.modLog f).isl = s.isl := rfl
@[simp] theorem State.modLog_alm (f : Logb → Logb) : (s.modLog f).alm = s.alm := rfl
@[simp] theorem State.modLog_outp (f : Logb → Logb) : (s.modLog f).outp = s.outp := rfl
@[simp] theorem State.modLog_fe (f : Logb → Logb) : (s.modLog f).fe = s.fe := rfl
@[simp] theorem State.modLog_mtr (f : Logb → Logb) : (s.modLog f).mtr = s.mtr := rfl
@[simp] theorem State.modLog_cap (f : Logb → Logb) : (s.modLog f).cap = s.cap := rfl
@[simp] theorem State.modLog_logb (f : Logb → Logb) : (s.modLog f).logb = f s.logb := rfl
@[simp] theorem State.modLog_plt (f : Logb → Logb) : (s.modLog f).plt = s.plt := rfl
@[simp] theorem State.modLog_dbg (f : Logb → Logb) : (s.modLog f).dbg = s.dbg := rfl
@[simp] theorem State.modLog_hif (f : Logb → Logb) : (s.modLog f).hif = s.hif := rfl
@[simp] theorem State.modLog_msix (f : Logb → Logb) : (s.modLog f).msix = s.msix := rfl
@[simp] theorem State.modLog_cfg (f : Logb → Logb) : (s.modLog f).cfg = s.cfg := rfl
@[simp] theorem State.modLog_flash (f : Logb → Logb) : (s.modLog f).flash = s.flash := rfl
@[simp] theorem State.modLog_pwr (f : Logb → Logb) : (s.modLog f).pwr = s.pwr := rfl
@[simp] theorem State.modLog_twn (f : Logb → Logb) : (s.modLog f).twn = s.twn := rfl
@[simp] theorem State.modLog_flt (f : Logb → Logb) : (s.modLog f).flt = s.flt := rfl
@[simp] theorem State.modLog_bst (f : Logb → Logb) : (s.modLog f).bst = s.bst := rfl
@[simp] theorem State.modLog_key (f : Logb → Logb) : (s.modLog f).key = s.key := rfl
@[simp] theorem State.modLog_rtc (f : Logb → Logb) : (s.modLog f).rtc = s.rtc := rfl
@[simp] theorem State.modLog_bkp (f : Logb → Logb) : (s.modLog f).bkp = s.bkp := rfl
@[simp] theorem State.modLog_pins (f : Logb → Logb) : (s.modLog f).pins = s.pins := rfl
@[simp] theorem State.modLog_dram (f : Logb → Logb) : (s.modLog f).dram = s.dram := rfl
@[simp] theorem State.modLog_out (f : Logb → Logb) : (s.modLog f).out = s.out := rfl
@[simp] theorem State.modLog_fresh (f : Logb → Logb) : (s.modLog f).fresh = s.fresh := rfl
@[simp] theorem State.reg_modLog (f : Logb → Logb) (o' : Nat) : (s.modLog f).reg o' = s.reg o' := rfl
@[simp] theorem State.fld_modLog (f : Logb → Logb) (o' lo' w' : Nat) : (s.modLog f).fld o' lo' w' = s.fld o' lo' w' := rfl
@[simp] theorem State.bit_modLog (f : Logb → Logb) (o' i' : Nat) : (s.modLog f).bit o' i' = s.bit o' i' := rfl

theorem State.modPlt_eq (f : Plt → Plt) : s.modPlt f = { s with plt := f s.plt } := rfl
@[simp] theorem State.modPlt_pending (f : Plt → Plt) : (s.modPlt f).pending = s.pending := rfl
@[simp] theorem State.modPlt_hw (f : Plt → Plt) : (s.modPlt f).hw = s.hw := rfl
@[simp] theorem State.modPlt_dt (f : Plt → Plt) : (s.modPlt f).dt = s.dt := rfl
@[simp] theorem State.modPlt_regs (f : Plt → Plt) : (s.modPlt f).regs = s.regs := rfl
@[simp] theorem State.modPlt_latch (f : Plt → Plt) : (s.modPlt f).latch = s.latch := rfl
@[simp] theorem State.modPlt_hold (f : Plt → Plt) : (s.modPlt f).hold = s.hold := rfl
@[simp] theorem State.modPlt_rdata (f : Plt → Plt) : (s.modPlt f).rdata = s.rdata := rfl
@[simp] theorem State.modPlt_leases (f : Plt → Plt) : (s.modPlt f).leases = s.leases := rfl
@[simp] theorem State.modPlt_tb (f : Plt → Plt) : (s.modPlt f).tb = s.tb := rfl
@[simp] theorem State.modPlt_mac (f : Plt → Plt) : (s.modPlt f).mac = s.mac := rfl
@[simp] theorem State.modPlt_bin (f : Plt → Plt) : (s.modPlt f).bin = s.bin := rfl
@[simp] theorem State.modPlt_aln (f : Plt → Plt) : (s.modPlt f).aln = s.aln := rfl
@[simp] theorem State.modPlt_osc (f : Plt → Plt) : (s.modPlt f).osc = s.osc := rfl
@[simp] theorem State.modPlt_isl (f : Plt → Plt) : (s.modPlt f).isl = s.isl := rfl
@[simp] theorem State.modPlt_alm (f : Plt → Plt) : (s.modPlt f).alm = s.alm := rfl
@[simp] theorem State.modPlt_outp (f : Plt → Plt) : (s.modPlt f).outp = s.outp := rfl
@[simp] theorem State.modPlt_fe (f : Plt → Plt) : (s.modPlt f).fe = s.fe := rfl
@[simp] theorem State.modPlt_mtr (f : Plt → Plt) : (s.modPlt f).mtr = s.mtr := rfl
@[simp] theorem State.modPlt_cap (f : Plt → Plt) : (s.modPlt f).cap = s.cap := rfl
@[simp] theorem State.modPlt_logb (f : Plt → Plt) : (s.modPlt f).logb = s.logb := rfl
@[simp] theorem State.modPlt_plt (f : Plt → Plt) : (s.modPlt f).plt = f s.plt := rfl
@[simp] theorem State.modPlt_dbg (f : Plt → Plt) : (s.modPlt f).dbg = s.dbg := rfl
@[simp] theorem State.modPlt_hif (f : Plt → Plt) : (s.modPlt f).hif = s.hif := rfl
@[simp] theorem State.modPlt_msix (f : Plt → Plt) : (s.modPlt f).msix = s.msix := rfl
@[simp] theorem State.modPlt_cfg (f : Plt → Plt) : (s.modPlt f).cfg = s.cfg := rfl
@[simp] theorem State.modPlt_flash (f : Plt → Plt) : (s.modPlt f).flash = s.flash := rfl
@[simp] theorem State.modPlt_pwr (f : Plt → Plt) : (s.modPlt f).pwr = s.pwr := rfl
@[simp] theorem State.modPlt_twn (f : Plt → Plt) : (s.modPlt f).twn = s.twn := rfl
@[simp] theorem State.modPlt_flt (f : Plt → Plt) : (s.modPlt f).flt = s.flt := rfl
@[simp] theorem State.modPlt_bst (f : Plt → Plt) : (s.modPlt f).bst = s.bst := rfl
@[simp] theorem State.modPlt_key (f : Plt → Plt) : (s.modPlt f).key = s.key := rfl
@[simp] theorem State.modPlt_rtc (f : Plt → Plt) : (s.modPlt f).rtc = s.rtc := rfl
@[simp] theorem State.modPlt_bkp (f : Plt → Plt) : (s.modPlt f).bkp = s.bkp := rfl
@[simp] theorem State.modPlt_pins (f : Plt → Plt) : (s.modPlt f).pins = s.pins := rfl
@[simp] theorem State.modPlt_dram (f : Plt → Plt) : (s.modPlt f).dram = s.dram := rfl
@[simp] theorem State.modPlt_out (f : Plt → Plt) : (s.modPlt f).out = s.out := rfl
@[simp] theorem State.modPlt_fresh (f : Plt → Plt) : (s.modPlt f).fresh = s.fresh := rfl
@[simp] theorem State.reg_modPlt (f : Plt → Plt) (o' : Nat) : (s.modPlt f).reg o' = s.reg o' := rfl
@[simp] theorem State.fld_modPlt (f : Plt → Plt) (o' lo' w' : Nat) : (s.modPlt f).fld o' lo' w' = s.fld o' lo' w' := rfl
@[simp] theorem State.bit_modPlt (f : Plt → Plt) (o' i' : Nat) : (s.modPlt f).bit o' i' = s.bit o' i' := rfl

theorem State.modDbg_eq (f : Dbg → Dbg) : s.modDbg f = { s with dbg := f s.dbg } := rfl
@[simp] theorem State.modDbg_pending (f : Dbg → Dbg) : (s.modDbg f).pending = s.pending := rfl
@[simp] theorem State.modDbg_hw (f : Dbg → Dbg) : (s.modDbg f).hw = s.hw := rfl
@[simp] theorem State.modDbg_dt (f : Dbg → Dbg) : (s.modDbg f).dt = s.dt := rfl
@[simp] theorem State.modDbg_regs (f : Dbg → Dbg) : (s.modDbg f).regs = s.regs := rfl
@[simp] theorem State.modDbg_latch (f : Dbg → Dbg) : (s.modDbg f).latch = s.latch := rfl
@[simp] theorem State.modDbg_hold (f : Dbg → Dbg) : (s.modDbg f).hold = s.hold := rfl
@[simp] theorem State.modDbg_rdata (f : Dbg → Dbg) : (s.modDbg f).rdata = s.rdata := rfl
@[simp] theorem State.modDbg_leases (f : Dbg → Dbg) : (s.modDbg f).leases = s.leases := rfl
@[simp] theorem State.modDbg_tb (f : Dbg → Dbg) : (s.modDbg f).tb = s.tb := rfl
@[simp] theorem State.modDbg_mac (f : Dbg → Dbg) : (s.modDbg f).mac = s.mac := rfl
@[simp] theorem State.modDbg_bin (f : Dbg → Dbg) : (s.modDbg f).bin = s.bin := rfl
@[simp] theorem State.modDbg_aln (f : Dbg → Dbg) : (s.modDbg f).aln = s.aln := rfl
@[simp] theorem State.modDbg_osc (f : Dbg → Dbg) : (s.modDbg f).osc = s.osc := rfl
@[simp] theorem State.modDbg_isl (f : Dbg → Dbg) : (s.modDbg f).isl = s.isl := rfl
@[simp] theorem State.modDbg_alm (f : Dbg → Dbg) : (s.modDbg f).alm = s.alm := rfl
@[simp] theorem State.modDbg_outp (f : Dbg → Dbg) : (s.modDbg f).outp = s.outp := rfl
@[simp] theorem State.modDbg_fe (f : Dbg → Dbg) : (s.modDbg f).fe = s.fe := rfl
@[simp] theorem State.modDbg_mtr (f : Dbg → Dbg) : (s.modDbg f).mtr = s.mtr := rfl
@[simp] theorem State.modDbg_cap (f : Dbg → Dbg) : (s.modDbg f).cap = s.cap := rfl
@[simp] theorem State.modDbg_logb (f : Dbg → Dbg) : (s.modDbg f).logb = s.logb := rfl
@[simp] theorem State.modDbg_plt (f : Dbg → Dbg) : (s.modDbg f).plt = s.plt := rfl
@[simp] theorem State.modDbg_dbg (f : Dbg → Dbg) : (s.modDbg f).dbg = f s.dbg := rfl
@[simp] theorem State.modDbg_hif (f : Dbg → Dbg) : (s.modDbg f).hif = s.hif := rfl
@[simp] theorem State.modDbg_msix (f : Dbg → Dbg) : (s.modDbg f).msix = s.msix := rfl
@[simp] theorem State.modDbg_cfg (f : Dbg → Dbg) : (s.modDbg f).cfg = s.cfg := rfl
@[simp] theorem State.modDbg_flash (f : Dbg → Dbg) : (s.modDbg f).flash = s.flash := rfl
@[simp] theorem State.modDbg_pwr (f : Dbg → Dbg) : (s.modDbg f).pwr = s.pwr := rfl
@[simp] theorem State.modDbg_twn (f : Dbg → Dbg) : (s.modDbg f).twn = s.twn := rfl
@[simp] theorem State.modDbg_flt (f : Dbg → Dbg) : (s.modDbg f).flt = s.flt := rfl
@[simp] theorem State.modDbg_bst (f : Dbg → Dbg) : (s.modDbg f).bst = s.bst := rfl
@[simp] theorem State.modDbg_key (f : Dbg → Dbg) : (s.modDbg f).key = s.key := rfl
@[simp] theorem State.modDbg_rtc (f : Dbg → Dbg) : (s.modDbg f).rtc = s.rtc := rfl
@[simp] theorem State.modDbg_bkp (f : Dbg → Dbg) : (s.modDbg f).bkp = s.bkp := rfl
@[simp] theorem State.modDbg_pins (f : Dbg → Dbg) : (s.modDbg f).pins = s.pins := rfl
@[simp] theorem State.modDbg_dram (f : Dbg → Dbg) : (s.modDbg f).dram = s.dram := rfl
@[simp] theorem State.modDbg_out (f : Dbg → Dbg) : (s.modDbg f).out = s.out := rfl
@[simp] theorem State.modDbg_fresh (f : Dbg → Dbg) : (s.modDbg f).fresh = s.fresh := rfl
@[simp] theorem State.reg_modDbg (f : Dbg → Dbg) (o' : Nat) : (s.modDbg f).reg o' = s.reg o' := rfl
@[simp] theorem State.fld_modDbg (f : Dbg → Dbg) (o' lo' w' : Nat) : (s.modDbg f).fld o' lo' w' = s.fld o' lo' w' := rfl
@[simp] theorem State.bit_modDbg (f : Dbg → Dbg) (o' i' : Nat) : (s.modDbg f).bit o' i' = s.bit o' i' := rfl

theorem State.modTwn_eq (f : Twn → Twn) : s.modTwn f = { s with twn := f s.twn } := rfl
@[simp] theorem State.modTwn_pending (f : Twn → Twn) : (s.modTwn f).pending = s.pending := rfl
@[simp] theorem State.modTwn_hw (f : Twn → Twn) : (s.modTwn f).hw = s.hw := rfl
@[simp] theorem State.modTwn_dt (f : Twn → Twn) : (s.modTwn f).dt = s.dt := rfl
@[simp] theorem State.modTwn_regs (f : Twn → Twn) : (s.modTwn f).regs = s.regs := rfl
@[simp] theorem State.modTwn_latch (f : Twn → Twn) : (s.modTwn f).latch = s.latch := rfl
@[simp] theorem State.modTwn_hold (f : Twn → Twn) : (s.modTwn f).hold = s.hold := rfl
@[simp] theorem State.modTwn_rdata (f : Twn → Twn) : (s.modTwn f).rdata = s.rdata := rfl
@[simp] theorem State.modTwn_leases (f : Twn → Twn) : (s.modTwn f).leases = s.leases := rfl
@[simp] theorem State.modTwn_tb (f : Twn → Twn) : (s.modTwn f).tb = s.tb := rfl
@[simp] theorem State.modTwn_mac (f : Twn → Twn) : (s.modTwn f).mac = s.mac := rfl
@[simp] theorem State.modTwn_bin (f : Twn → Twn) : (s.modTwn f).bin = s.bin := rfl
@[simp] theorem State.modTwn_aln (f : Twn → Twn) : (s.modTwn f).aln = s.aln := rfl
@[simp] theorem State.modTwn_osc (f : Twn → Twn) : (s.modTwn f).osc = s.osc := rfl
@[simp] theorem State.modTwn_isl (f : Twn → Twn) : (s.modTwn f).isl = s.isl := rfl
@[simp] theorem State.modTwn_alm (f : Twn → Twn) : (s.modTwn f).alm = s.alm := rfl
@[simp] theorem State.modTwn_outp (f : Twn → Twn) : (s.modTwn f).outp = s.outp := rfl
@[simp] theorem State.modTwn_fe (f : Twn → Twn) : (s.modTwn f).fe = s.fe := rfl
@[simp] theorem State.modTwn_mtr (f : Twn → Twn) : (s.modTwn f).mtr = s.mtr := rfl
@[simp] theorem State.modTwn_cap (f : Twn → Twn) : (s.modTwn f).cap = s.cap := rfl
@[simp] theorem State.modTwn_logb (f : Twn → Twn) : (s.modTwn f).logb = s.logb := rfl
@[simp] theorem State.modTwn_plt (f : Twn → Twn) : (s.modTwn f).plt = s.plt := rfl
@[simp] theorem State.modTwn_dbg (f : Twn → Twn) : (s.modTwn f).dbg = s.dbg := rfl
@[simp] theorem State.modTwn_hif (f : Twn → Twn) : (s.modTwn f).hif = s.hif := rfl
@[simp] theorem State.modTwn_msix (f : Twn → Twn) : (s.modTwn f).msix = s.msix := rfl
@[simp] theorem State.modTwn_cfg (f : Twn → Twn) : (s.modTwn f).cfg = s.cfg := rfl
@[simp] theorem State.modTwn_flash (f : Twn → Twn) : (s.modTwn f).flash = s.flash := rfl
@[simp] theorem State.modTwn_pwr (f : Twn → Twn) : (s.modTwn f).pwr = s.pwr := rfl
@[simp] theorem State.modTwn_twn (f : Twn → Twn) : (s.modTwn f).twn = f s.twn := rfl
@[simp] theorem State.modTwn_flt (f : Twn → Twn) : (s.modTwn f).flt = s.flt := rfl
@[simp] theorem State.modTwn_bst (f : Twn → Twn) : (s.modTwn f).bst = s.bst := rfl
@[simp] theorem State.modTwn_key (f : Twn → Twn) : (s.modTwn f).key = s.key := rfl
@[simp] theorem State.modTwn_rtc (f : Twn → Twn) : (s.modTwn f).rtc = s.rtc := rfl
@[simp] theorem State.modTwn_bkp (f : Twn → Twn) : (s.modTwn f).bkp = s.bkp := rfl
@[simp] theorem State.modTwn_pins (f : Twn → Twn) : (s.modTwn f).pins = s.pins := rfl
@[simp] theorem State.modTwn_dram (f : Twn → Twn) : (s.modTwn f).dram = s.dram := rfl
@[simp] theorem State.modTwn_out (f : Twn → Twn) : (s.modTwn f).out = s.out := rfl
@[simp] theorem State.modTwn_fresh (f : Twn → Twn) : (s.modTwn f).fresh = s.fresh := rfl
@[simp] theorem State.reg_modTwn (f : Twn → Twn) (o' : Nat) : (s.modTwn f).reg o' = s.reg o' := rfl
@[simp] theorem State.fld_modTwn (f : Twn → Twn) (o' lo' w' : Nat) : (s.modTwn f).fld o' lo' w' = s.fld o' lo' w' := rfl
@[simp] theorem State.bit_modTwn (f : Twn → Twn) (o' i' : Nat) : (s.modTwn f).bit o' i' = s.bit o' i' := rfl

theorem State.modFlt_eq (f : Flt → Flt) : s.modFlt f = { s with flt := f s.flt } := rfl
@[simp] theorem State.modFlt_pending (f : Flt → Flt) : (s.modFlt f).pending = s.pending := rfl
@[simp] theorem State.modFlt_hw (f : Flt → Flt) : (s.modFlt f).hw = s.hw := rfl
@[simp] theorem State.modFlt_dt (f : Flt → Flt) : (s.modFlt f).dt = s.dt := rfl
@[simp] theorem State.modFlt_regs (f : Flt → Flt) : (s.modFlt f).regs = s.regs := rfl
@[simp] theorem State.modFlt_latch (f : Flt → Flt) : (s.modFlt f).latch = s.latch := rfl
@[simp] theorem State.modFlt_hold (f : Flt → Flt) : (s.modFlt f).hold = s.hold := rfl
@[simp] theorem State.modFlt_rdata (f : Flt → Flt) : (s.modFlt f).rdata = s.rdata := rfl
@[simp] theorem State.modFlt_leases (f : Flt → Flt) : (s.modFlt f).leases = s.leases := rfl
@[simp] theorem State.modFlt_tb (f : Flt → Flt) : (s.modFlt f).tb = s.tb := rfl
@[simp] theorem State.modFlt_mac (f : Flt → Flt) : (s.modFlt f).mac = s.mac := rfl
@[simp] theorem State.modFlt_bin (f : Flt → Flt) : (s.modFlt f).bin = s.bin := rfl
@[simp] theorem State.modFlt_aln (f : Flt → Flt) : (s.modFlt f).aln = s.aln := rfl
@[simp] theorem State.modFlt_osc (f : Flt → Flt) : (s.modFlt f).osc = s.osc := rfl
@[simp] theorem State.modFlt_isl (f : Flt → Flt) : (s.modFlt f).isl = s.isl := rfl
@[simp] theorem State.modFlt_alm (f : Flt → Flt) : (s.modFlt f).alm = s.alm := rfl
@[simp] theorem State.modFlt_outp (f : Flt → Flt) : (s.modFlt f).outp = s.outp := rfl
@[simp] theorem State.modFlt_fe (f : Flt → Flt) : (s.modFlt f).fe = s.fe := rfl
@[simp] theorem State.modFlt_mtr (f : Flt → Flt) : (s.modFlt f).mtr = s.mtr := rfl
@[simp] theorem State.modFlt_cap (f : Flt → Flt) : (s.modFlt f).cap = s.cap := rfl
@[simp] theorem State.modFlt_logb (f : Flt → Flt) : (s.modFlt f).logb = s.logb := rfl
@[simp] theorem State.modFlt_plt (f : Flt → Flt) : (s.modFlt f).plt = s.plt := rfl
@[simp] theorem State.modFlt_dbg (f : Flt → Flt) : (s.modFlt f).dbg = s.dbg := rfl
@[simp] theorem State.modFlt_hif (f : Flt → Flt) : (s.modFlt f).hif = s.hif := rfl
@[simp] theorem State.modFlt_msix (f : Flt → Flt) : (s.modFlt f).msix = s.msix := rfl
@[simp] theorem State.modFlt_cfg (f : Flt → Flt) : (s.modFlt f).cfg = s.cfg := rfl
@[simp] theorem State.modFlt_flash (f : Flt → Flt) : (s.modFlt f).flash = s.flash := rfl
@[simp] theorem State.modFlt_pwr (f : Flt → Flt) : (s.modFlt f).pwr = s.pwr := rfl
@[simp] theorem State.modFlt_twn (f : Flt → Flt) : (s.modFlt f).twn = s.twn := rfl
@[simp] theorem State.modFlt_flt (f : Flt → Flt) : (s.modFlt f).flt = f s.flt := rfl
@[simp] theorem State.modFlt_bst (f : Flt → Flt) : (s.modFlt f).bst = s.bst := rfl
@[simp] theorem State.modFlt_key (f : Flt → Flt) : (s.modFlt f).key = s.key := rfl
@[simp] theorem State.modFlt_rtc (f : Flt → Flt) : (s.modFlt f).rtc = s.rtc := rfl
@[simp] theorem State.modFlt_bkp (f : Flt → Flt) : (s.modFlt f).bkp = s.bkp := rfl
@[simp] theorem State.modFlt_pins (f : Flt → Flt) : (s.modFlt f).pins = s.pins := rfl
@[simp] theorem State.modFlt_dram (f : Flt → Flt) : (s.modFlt f).dram = s.dram := rfl
@[simp] theorem State.modFlt_out (f : Flt → Flt) : (s.modFlt f).out = s.out := rfl
@[simp] theorem State.modFlt_fresh (f : Flt → Flt) : (s.modFlt f).fresh = s.fresh := rfl
@[simp] theorem State.reg_modFlt (f : Flt → Flt) (o' : Nat) : (s.modFlt f).reg o' = s.reg o' := rfl
@[simp] theorem State.fld_modFlt (f : Flt → Flt) (o' lo' w' : Nat) : (s.modFlt f).fld o' lo' w' = s.fld o' lo' w' := rfl
@[simp] theorem State.bit_modFlt (f : Flt → Flt) (o' i' : Nat) : (s.modFlt f).bit o' i' = s.bit o' i' := rfl

theorem State.modBst_eq (f : Bst → Bst) : s.modBst f = { s with bst := f s.bst } := rfl
@[simp] theorem State.modBst_pending (f : Bst → Bst) : (s.modBst f).pending = s.pending := rfl
@[simp] theorem State.modBst_hw (f : Bst → Bst) : (s.modBst f).hw = s.hw := rfl
@[simp] theorem State.modBst_dt (f : Bst → Bst) : (s.modBst f).dt = s.dt := rfl
@[simp] theorem State.modBst_regs (f : Bst → Bst) : (s.modBst f).regs = s.regs := rfl
@[simp] theorem State.modBst_latch (f : Bst → Bst) : (s.modBst f).latch = s.latch := rfl
@[simp] theorem State.modBst_hold (f : Bst → Bst) : (s.modBst f).hold = s.hold := rfl
@[simp] theorem State.modBst_rdata (f : Bst → Bst) : (s.modBst f).rdata = s.rdata := rfl
@[simp] theorem State.modBst_leases (f : Bst → Bst) : (s.modBst f).leases = s.leases := rfl
@[simp] theorem State.modBst_tb (f : Bst → Bst) : (s.modBst f).tb = s.tb := rfl
@[simp] theorem State.modBst_mac (f : Bst → Bst) : (s.modBst f).mac = s.mac := rfl
@[simp] theorem State.modBst_bin (f : Bst → Bst) : (s.modBst f).bin = s.bin := rfl
@[simp] theorem State.modBst_aln (f : Bst → Bst) : (s.modBst f).aln = s.aln := rfl
@[simp] theorem State.modBst_osc (f : Bst → Bst) : (s.modBst f).osc = s.osc := rfl
@[simp] theorem State.modBst_isl (f : Bst → Bst) : (s.modBst f).isl = s.isl := rfl
@[simp] theorem State.modBst_alm (f : Bst → Bst) : (s.modBst f).alm = s.alm := rfl
@[simp] theorem State.modBst_outp (f : Bst → Bst) : (s.modBst f).outp = s.outp := rfl
@[simp] theorem State.modBst_fe (f : Bst → Bst) : (s.modBst f).fe = s.fe := rfl
@[simp] theorem State.modBst_mtr (f : Bst → Bst) : (s.modBst f).mtr = s.mtr := rfl
@[simp] theorem State.modBst_cap (f : Bst → Bst) : (s.modBst f).cap = s.cap := rfl
@[simp] theorem State.modBst_logb (f : Bst → Bst) : (s.modBst f).logb = s.logb := rfl
@[simp] theorem State.modBst_plt (f : Bst → Bst) : (s.modBst f).plt = s.plt := rfl
@[simp] theorem State.modBst_dbg (f : Bst → Bst) : (s.modBst f).dbg = s.dbg := rfl
@[simp] theorem State.modBst_hif (f : Bst → Bst) : (s.modBst f).hif = s.hif := rfl
@[simp] theorem State.modBst_msix (f : Bst → Bst) : (s.modBst f).msix = s.msix := rfl
@[simp] theorem State.modBst_cfg (f : Bst → Bst) : (s.modBst f).cfg = s.cfg := rfl
@[simp] theorem State.modBst_flash (f : Bst → Bst) : (s.modBst f).flash = s.flash := rfl
@[simp] theorem State.modBst_pwr (f : Bst → Bst) : (s.modBst f).pwr = s.pwr := rfl
@[simp] theorem State.modBst_twn (f : Bst → Bst) : (s.modBst f).twn = s.twn := rfl
@[simp] theorem State.modBst_flt (f : Bst → Bst) : (s.modBst f).flt = s.flt := rfl
@[simp] theorem State.modBst_bst (f : Bst → Bst) : (s.modBst f).bst = f s.bst := rfl
@[simp] theorem State.modBst_key (f : Bst → Bst) : (s.modBst f).key = s.key := rfl
@[simp] theorem State.modBst_rtc (f : Bst → Bst) : (s.modBst f).rtc = s.rtc := rfl
@[simp] theorem State.modBst_bkp (f : Bst → Bst) : (s.modBst f).bkp = s.bkp := rfl
@[simp] theorem State.modBst_pins (f : Bst → Bst) : (s.modBst f).pins = s.pins := rfl
@[simp] theorem State.modBst_dram (f : Bst → Bst) : (s.modBst f).dram = s.dram := rfl
@[simp] theorem State.modBst_out (f : Bst → Bst) : (s.modBst f).out = s.out := rfl
@[simp] theorem State.modBst_fresh (f : Bst → Bst) : (s.modBst f).fresh = s.fresh := rfl
@[simp] theorem State.reg_modBst (f : Bst → Bst) (o' : Nat) : (s.modBst f).reg o' = s.reg o' := rfl
@[simp] theorem State.fld_modBst (f : Bst → Bst) (o' lo' w' : Nat) : (s.modBst f).fld o' lo' w' = s.fld o' lo' w' := rfl
@[simp] theorem State.bit_modBst (f : Bst → Bst) (o' i' : Nat) : (s.modBst f).bit o' i' = s.bit o' i' := rfl

theorem State.modBkp_eq (f : Bkp → Bkp) : s.modBkp f = { s with bkp := f s.bkp } := rfl
@[simp] theorem State.modBkp_pending (f : Bkp → Bkp) : (s.modBkp f).pending = s.pending := rfl
@[simp] theorem State.modBkp_hw (f : Bkp → Bkp) : (s.modBkp f).hw = s.hw := rfl
@[simp] theorem State.modBkp_dt (f : Bkp → Bkp) : (s.modBkp f).dt = s.dt := rfl
@[simp] theorem State.modBkp_regs (f : Bkp → Bkp) : (s.modBkp f).regs = s.regs := rfl
@[simp] theorem State.modBkp_latch (f : Bkp → Bkp) : (s.modBkp f).latch = s.latch := rfl
@[simp] theorem State.modBkp_hold (f : Bkp → Bkp) : (s.modBkp f).hold = s.hold := rfl
@[simp] theorem State.modBkp_rdata (f : Bkp → Bkp) : (s.modBkp f).rdata = s.rdata := rfl
@[simp] theorem State.modBkp_leases (f : Bkp → Bkp) : (s.modBkp f).leases = s.leases := rfl
@[simp] theorem State.modBkp_tb (f : Bkp → Bkp) : (s.modBkp f).tb = s.tb := rfl
@[simp] theorem State.modBkp_mac (f : Bkp → Bkp) : (s.modBkp f).mac = s.mac := rfl
@[simp] theorem State.modBkp_bin (f : Bkp → Bkp) : (s.modBkp f).bin = s.bin := rfl
@[simp] theorem State.modBkp_aln (f : Bkp → Bkp) : (s.modBkp f).aln = s.aln := rfl
@[simp] theorem State.modBkp_osc (f : Bkp → Bkp) : (s.modBkp f).osc = s.osc := rfl
@[simp] theorem State.modBkp_isl (f : Bkp → Bkp) : (s.modBkp f).isl = s.isl := rfl
@[simp] theorem State.modBkp_alm (f : Bkp → Bkp) : (s.modBkp f).alm = s.alm := rfl
@[simp] theorem State.modBkp_outp (f : Bkp → Bkp) : (s.modBkp f).outp = s.outp := rfl
@[simp] theorem State.modBkp_fe (f : Bkp → Bkp) : (s.modBkp f).fe = s.fe := rfl
@[simp] theorem State.modBkp_mtr (f : Bkp → Bkp) : (s.modBkp f).mtr = s.mtr := rfl
@[simp] theorem State.modBkp_cap (f : Bkp → Bkp) : (s.modBkp f).cap = s.cap := rfl
@[simp] theorem State.modBkp_logb (f : Bkp → Bkp) : (s.modBkp f).logb = s.logb := rfl
@[simp] theorem State.modBkp_plt (f : Bkp → Bkp) : (s.modBkp f).plt = s.plt := rfl
@[simp] theorem State.modBkp_dbg (f : Bkp → Bkp) : (s.modBkp f).dbg = s.dbg := rfl
@[simp] theorem State.modBkp_hif (f : Bkp → Bkp) : (s.modBkp f).hif = s.hif := rfl
@[simp] theorem State.modBkp_msix (f : Bkp → Bkp) : (s.modBkp f).msix = s.msix := rfl
@[simp] theorem State.modBkp_cfg (f : Bkp → Bkp) : (s.modBkp f).cfg = s.cfg := rfl
@[simp] theorem State.modBkp_flash (f : Bkp → Bkp) : (s.modBkp f).flash = s.flash := rfl
@[simp] theorem State.modBkp_pwr (f : Bkp → Bkp) : (s.modBkp f).pwr = s.pwr := rfl
@[simp] theorem State.modBkp_twn (f : Bkp → Bkp) : (s.modBkp f).twn = s.twn := rfl
@[simp] theorem State.modBkp_flt (f : Bkp → Bkp) : (s.modBkp f).flt = s.flt := rfl
@[simp] theorem State.modBkp_bst (f : Bkp → Bkp) : (s.modBkp f).bst = s.bst := rfl
@[simp] theorem State.modBkp_key (f : Bkp → Bkp) : (s.modBkp f).key = s.key := rfl
@[simp] theorem State.modBkp_rtc (f : Bkp → Bkp) : (s.modBkp f).rtc = s.rtc := rfl
@[simp] theorem State.modBkp_bkp (f : Bkp → Bkp) : (s.modBkp f).bkp = f s.bkp := rfl
@[simp] theorem State.modBkp_pins (f : Bkp → Bkp) : (s.modBkp f).pins = s.pins := rfl
@[simp] theorem State.modBkp_dram (f : Bkp → Bkp) : (s.modBkp f).dram = s.dram := rfl
@[simp] theorem State.modBkp_out (f : Bkp → Bkp) : (s.modBkp f).out = s.out := rfl
@[simp] theorem State.modBkp_fresh (f : Bkp → Bkp) : (s.modBkp f).fresh = s.fresh := rfl
@[simp] theorem State.reg_modBkp (f : Bkp → Bkp) (o' : Nat) : (s.modBkp f).reg o' = s.reg o' := rfl
@[simp] theorem State.fld_modBkp (f : Bkp → Bkp) (o' lo' w' : Nat) : (s.modBkp f).fld o' lo' w' = s.fld o' lo' w' := rfl
@[simp] theorem State.bit_modBkp (f : Bkp → Bkp) (o' i' : Nat) : (s.modBkp f).bit o' i' = s.bit o' i' := rfl

theorem State.modSrc_eq (i : Nat) (f : Src → Src) : s.modSrc i f = { s with tb := { s.tb with src := s.tb.src.modify i f } } := rfl
@[simp] theorem State.modSrc_pending (i : Nat) (f : Src → Src) : (s.modSrc i f).pending = s.pending := rfl
@[simp] theorem State.modSrc_hw (i : Nat) (f : Src → Src) : (s.modSrc i f).hw = s.hw := rfl
@[simp] theorem State.modSrc_dt (i : Nat) (f : Src → Src) : (s.modSrc i f).dt = s.dt := rfl
@[simp] theorem State.modSrc_regs (i : Nat) (f : Src → Src) : (s.modSrc i f).regs = s.regs := rfl
@[simp] theorem State.modSrc_latch (i : Nat) (f : Src → Src) : (s.modSrc i f).latch = s.latch := rfl
@[simp] theorem State.modSrc_hold (i : Nat) (f : Src → Src) : (s.modSrc i f).hold = s.hold := rfl
@[simp] theorem State.modSrc_rdata (i : Nat) (f : Src → Src) : (s.modSrc i f).rdata = s.rdata := rfl
@[simp] theorem State.modSrc_leases (i : Nat) (f : Src → Src) : (s.modSrc i f).leases = s.leases := rfl
@[simp] theorem State.modSrc_tb (i : Nat) (f : Src → Src) : (s.modSrc i f).tb = { s.tb with src := s.tb.src.modify i f } := rfl
@[simp] theorem State.modSrc_mac (i : Nat) (f : Src → Src) : (s.modSrc i f).mac = s.mac := rfl
@[simp] theorem State.modSrc_bin (i : Nat) (f : Src → Src) : (s.modSrc i f).bin = s.bin := rfl
@[simp] theorem State.modSrc_aln (i : Nat) (f : Src → Src) : (s.modSrc i f).aln = s.aln := rfl
@[simp] theorem State.modSrc_osc (i : Nat) (f : Src → Src) : (s.modSrc i f).osc = s.osc := rfl
@[simp] theorem State.modSrc_isl (i : Nat) (f : Src → Src) : (s.modSrc i f).isl = s.isl := rfl
@[simp] theorem State.modSrc_alm (i : Nat) (f : Src → Src) : (s.modSrc i f).alm = s.alm := rfl
@[simp] theorem State.modSrc_outp (i : Nat) (f : Src → Src) : (s.modSrc i f).outp = s.outp := rfl
@[simp] theorem State.modSrc_fe (i : Nat) (f : Src → Src) : (s.modSrc i f).fe = s.fe := rfl
@[simp] theorem State.modSrc_mtr (i : Nat) (f : Src → Src) : (s.modSrc i f).mtr = s.mtr := rfl
@[simp] theorem State.modSrc_cap (i : Nat) (f : Src → Src) : (s.modSrc i f).cap = s.cap := rfl
@[simp] theorem State.modSrc_logb (i : Nat) (f : Src → Src) : (s.modSrc i f).logb = s.logb := rfl
@[simp] theorem State.modSrc_plt (i : Nat) (f : Src → Src) : (s.modSrc i f).plt = s.plt := rfl
@[simp] theorem State.modSrc_dbg (i : Nat) (f : Src → Src) : (s.modSrc i f).dbg = s.dbg := rfl
@[simp] theorem State.modSrc_hif (i : Nat) (f : Src → Src) : (s.modSrc i f).hif = s.hif := rfl
@[simp] theorem State.modSrc_msix (i : Nat) (f : Src → Src) : (s.modSrc i f).msix = s.msix := rfl
@[simp] theorem State.modSrc_cfg (i : Nat) (f : Src → Src) : (s.modSrc i f).cfg = s.cfg := rfl
@[simp] theorem State.modSrc_flash (i : Nat) (f : Src → Src) : (s.modSrc i f).flash = s.flash := rfl
@[simp] theorem State.modSrc_pwr (i : Nat) (f : Src → Src) : (s.modSrc i f).pwr = s.pwr := rfl
@[simp] theorem State.modSrc_twn (i : Nat) (f : Src → Src) : (s.modSrc i f).twn = s.twn := rfl
@[simp] theorem State.modSrc_flt (i : Nat) (f : Src → Src) : (s.modSrc i f).flt = s.flt := rfl
@[simp] theorem State.modSrc_bst (i : Nat) (f : Src → Src) : (s.modSrc i f).bst = s.bst := rfl
@[simp] theorem State.modSrc_key (i : Nat) (f : Src → Src) : (s.modSrc i f).key = s.key := rfl
@[simp] theorem State.modSrc_rtc (i : Nat) (f : Src → Src) : (s.modSrc i f).rtc = s.rtc := rfl
@[simp] theorem State.modSrc_bkp (i : Nat) (f : Src → Src) : (s.modSrc i f).bkp = s.bkp := rfl
@[simp] theorem State.modSrc_pins (i : Nat) (f : Src → Src) : (s.modSrc i f).pins = s.pins := rfl
@[simp] theorem State.modSrc_dram (i : Nat) (f : Src → Src) : (s.modSrc i f).dram = s.dram := rfl
@[simp] theorem State.modSrc_out (i : Nat) (f : Src → Src) : (s.modSrc i f).out = s.out := rfl
@[simp] theorem State.modSrc_fresh (i : Nat) (f : Src → Src) : (s.modSrc i f).fresh = s.fresh := rfl
@[simp] theorem State.reg_modSrc (i : Nat) (f : Src → Src) (o' : Nat) : (s.modSrc i f).reg o' = s.reg o' := rfl
@[simp] theorem State.fld_modSrc (i : Nat) (f : Src → Src) (o' lo' w' : Nat) : (s.modSrc i f).fld o' lo' w' = s.fld o' lo' w' := rfl
@[simp] theorem State.bit_modSrc (i : Nat) (f : Src → Src) (o' i' : Nat) : (s.modSrc i f).bit o' i' = s.bit o' i' := rfl

theorem State.modPort_eq (p : Nat) (f : Port → Port) : s.modPort p f = { s with mac := { s.mac with port := s.mac.port.modify p f } } := rfl
@[simp] theorem State.modPort_pending (p : Nat) (f : Port → Port) : (s.modPort p f).pending = s.pending := rfl
@[simp] theorem State.modPort_hw (p : Nat) (f : Port → Port) : (s.modPort p f).hw = s.hw := rfl
@[simp] theorem State.modPort_dt (p : Nat) (f : Port → Port) : (s.modPort p f).dt = s.dt := rfl
@[simp] theorem State.modPort_regs (p : Nat) (f : Port → Port) : (s.modPort p f).regs = s.regs := rfl
@[simp] theorem State.modPort_latch (p : Nat) (f : Port → Port) : (s.modPort p f).latch = s.latch := rfl
@[simp] theorem State.modPort_hold (p : Nat) (f : Port → Port) : (s.modPort p f).hold = s.hold := rfl
@[simp] theorem State.modPort_rdata (p : Nat) (f : Port → Port) : (s.modPort p f).rdata = s.rdata := rfl
@[simp] theorem State.modPort_leases (p : Nat) (f : Port → Port) : (s.modPort p f).leases = s.leases := rfl
@[simp] theorem State.modPort_tb (p : Nat) (f : Port → Port) : (s.modPort p f).tb = s.tb := rfl
@[simp] theorem State.modPort_mac (p : Nat) (f : Port → Port) : (s.modPort p f).mac = { s.mac with port := s.mac.port.modify p f } := rfl
@[simp] theorem State.modPort_bin (p : Nat) (f : Port → Port) : (s.modPort p f).bin = s.bin := rfl
@[simp] theorem State.modPort_aln (p : Nat) (f : Port → Port) : (s.modPort p f).aln = s.aln := rfl
@[simp] theorem State.modPort_osc (p : Nat) (f : Port → Port) : (s.modPort p f).osc = s.osc := rfl
@[simp] theorem State.modPort_isl (p : Nat) (f : Port → Port) : (s.modPort p f).isl = s.isl := rfl
@[simp] theorem State.modPort_alm (p : Nat) (f : Port → Port) : (s.modPort p f).alm = s.alm := rfl
@[simp] theorem State.modPort_outp (p : Nat) (f : Port → Port) : (s.modPort p f).outp = s.outp := rfl
@[simp] theorem State.modPort_fe (p : Nat) (f : Port → Port) : (s.modPort p f).fe = s.fe := rfl
@[simp] theorem State.modPort_mtr (p : Nat) (f : Port → Port) : (s.modPort p f).mtr = s.mtr := rfl
@[simp] theorem State.modPort_cap (p : Nat) (f : Port → Port) : (s.modPort p f).cap = s.cap := rfl
@[simp] theorem State.modPort_logb (p : Nat) (f : Port → Port) : (s.modPort p f).logb = s.logb := rfl
@[simp] theorem State.modPort_plt (p : Nat) (f : Port → Port) : (s.modPort p f).plt = s.plt := rfl
@[simp] theorem State.modPort_dbg (p : Nat) (f : Port → Port) : (s.modPort p f).dbg = s.dbg := rfl
@[simp] theorem State.modPort_hif (p : Nat) (f : Port → Port) : (s.modPort p f).hif = s.hif := rfl
@[simp] theorem State.modPort_msix (p : Nat) (f : Port → Port) : (s.modPort p f).msix = s.msix := rfl
@[simp] theorem State.modPort_cfg (p : Nat) (f : Port → Port) : (s.modPort p f).cfg = s.cfg := rfl
@[simp] theorem State.modPort_flash (p : Nat) (f : Port → Port) : (s.modPort p f).flash = s.flash := rfl
@[simp] theorem State.modPort_pwr (p : Nat) (f : Port → Port) : (s.modPort p f).pwr = s.pwr := rfl
@[simp] theorem State.modPort_twn (p : Nat) (f : Port → Port) : (s.modPort p f).twn = s.twn := rfl
@[simp] theorem State.modPort_flt (p : Nat) (f : Port → Port) : (s.modPort p f).flt = s.flt := rfl
@[simp] theorem State.modPort_bst (p : Nat) (f : Port → Port) : (s.modPort p f).bst = s.bst := rfl
@[simp] theorem State.modPort_key (p : Nat) (f : Port → Port) : (s.modPort p f).key = s.key := rfl
@[simp] theorem State.modPort_rtc (p : Nat) (f : Port → Port) : (s.modPort p f).rtc = s.rtc := rfl
@[simp] theorem State.modPort_bkp (p : Nat) (f : Port → Port) : (s.modPort p f).bkp = s.bkp := rfl
@[simp] theorem State.modPort_pins (p : Nat) (f : Port → Port) : (s.modPort p f).pins = s.pins := rfl
@[simp] theorem State.modPort_dram (p : Nat) (f : Port → Port) : (s.modPort p f).dram = s.dram := rfl
@[simp] theorem State.modPort_out (p : Nat) (f : Port → Port) : (s.modPort p f).out = s.out := rfl
@[simp] theorem State.modPort_fresh (p : Nat) (f : Port → Port) : (s.modPort p f).fresh = s.fresh := rfl
@[simp] theorem State.reg_modPort (p : Nat) (f : Port → Port) (o' : Nat) : (s.modPort p f).reg o' = s.reg o' := rfl
@[simp] theorem State.fld_modPort (p : Nat) (f : Port → Port) (o' lo' w' : Nat) : (s.modPort p f).fld o' lo' w' = s.fld o' lo' w' := rfl
@[simp] theorem State.bit_modPort (p : Nat) (f : Port → Port) (o' i' : Nat) : (s.modPort p f).bit o' i' = s.bit o' i' := rfl

theorem State.modRing_eq (n : Nat) (f : Ring → Ring) : s.modRing n f = { s with hif := { s.hif with ring := s.hif.ring.modify n f } } := rfl
@[simp] theorem State.modRing_pending (n : Nat) (f : Ring → Ring) : (s.modRing n f).pending = s.pending := rfl
@[simp] theorem State.modRing_hw (n : Nat) (f : Ring → Ring) : (s.modRing n f).hw = s.hw := rfl
@[simp] theorem State.modRing_dt (n : Nat) (f : Ring → Ring) : (s.modRing n f).dt = s.dt := rfl
@[simp] theorem State.modRing_regs (n : Nat) (f : Ring → Ring) : (s.modRing n f).regs = s.regs := rfl
@[simp] theorem State.modRing_latch (n : Nat) (f : Ring → Ring) : (s.modRing n f).latch = s.latch := rfl
@[simp] theorem State.modRing_hold (n : Nat) (f : Ring → Ring) : (s.modRing n f).hold = s.hold := rfl
@[simp] theorem State.modRing_rdata (n : Nat) (f : Ring → Ring) : (s.modRing n f).rdata = s.rdata := rfl
@[simp] theorem State.modRing_leases (n : Nat) (f : Ring → Ring) : (s.modRing n f).leases = s.leases := rfl
@[simp] theorem State.modRing_tb (n : Nat) (f : Ring → Ring) : (s.modRing n f).tb = s.tb := rfl
@[simp] theorem State.modRing_mac (n : Nat) (f : Ring → Ring) : (s.modRing n f).mac = s.mac := rfl
@[simp] theorem State.modRing_bin (n : Nat) (f : Ring → Ring) : (s.modRing n f).bin = s.bin := rfl
@[simp] theorem State.modRing_aln (n : Nat) (f : Ring → Ring) : (s.modRing n f).aln = s.aln := rfl
@[simp] theorem State.modRing_osc (n : Nat) (f : Ring → Ring) : (s.modRing n f).osc = s.osc := rfl
@[simp] theorem State.modRing_isl (n : Nat) (f : Ring → Ring) : (s.modRing n f).isl = s.isl := rfl
@[simp] theorem State.modRing_alm (n : Nat) (f : Ring → Ring) : (s.modRing n f).alm = s.alm := rfl
@[simp] theorem State.modRing_outp (n : Nat) (f : Ring → Ring) : (s.modRing n f).outp = s.outp := rfl
@[simp] theorem State.modRing_fe (n : Nat) (f : Ring → Ring) : (s.modRing n f).fe = s.fe := rfl
@[simp] theorem State.modRing_mtr (n : Nat) (f : Ring → Ring) : (s.modRing n f).mtr = s.mtr := rfl
@[simp] theorem State.modRing_cap (n : Nat) (f : Ring → Ring) : (s.modRing n f).cap = s.cap := rfl
@[simp] theorem State.modRing_logb (n : Nat) (f : Ring → Ring) : (s.modRing n f).logb = s.logb := rfl
@[simp] theorem State.modRing_plt (n : Nat) (f : Ring → Ring) : (s.modRing n f).plt = s.plt := rfl
@[simp] theorem State.modRing_dbg (n : Nat) (f : Ring → Ring) : (s.modRing n f).dbg = s.dbg := rfl
@[simp] theorem State.modRing_hif (n : Nat) (f : Ring → Ring) : (s.modRing n f).hif = { s.hif with ring := s.hif.ring.modify n f } := rfl
@[simp] theorem State.modRing_msix (n : Nat) (f : Ring → Ring) : (s.modRing n f).msix = s.msix := rfl
@[simp] theorem State.modRing_cfg (n : Nat) (f : Ring → Ring) : (s.modRing n f).cfg = s.cfg := rfl
@[simp] theorem State.modRing_flash (n : Nat) (f : Ring → Ring) : (s.modRing n f).flash = s.flash := rfl
@[simp] theorem State.modRing_pwr (n : Nat) (f : Ring → Ring) : (s.modRing n f).pwr = s.pwr := rfl
@[simp] theorem State.modRing_twn (n : Nat) (f : Ring → Ring) : (s.modRing n f).twn = s.twn := rfl
@[simp] theorem State.modRing_flt (n : Nat) (f : Ring → Ring) : (s.modRing n f).flt = s.flt := rfl
@[simp] theorem State.modRing_bst (n : Nat) (f : Ring → Ring) : (s.modRing n f).bst = s.bst := rfl
@[simp] theorem State.modRing_key (n : Nat) (f : Ring → Ring) : (s.modRing n f).key = s.key := rfl
@[simp] theorem State.modRing_rtc (n : Nat) (f : Ring → Ring) : (s.modRing n f).rtc = s.rtc := rfl
@[simp] theorem State.modRing_bkp (n : Nat) (f : Ring → Ring) : (s.modRing n f).bkp = s.bkp := rfl
@[simp] theorem State.modRing_pins (n : Nat) (f : Ring → Ring) : (s.modRing n f).pins = s.pins := rfl
@[simp] theorem State.modRing_dram (n : Nat) (f : Ring → Ring) : (s.modRing n f).dram = s.dram := rfl
@[simp] theorem State.modRing_out (n : Nat) (f : Ring → Ring) : (s.modRing n f).out = s.out := rfl
@[simp] theorem State.modRing_fresh (n : Nat) (f : Ring → Ring) : (s.modRing n f).fresh = s.fresh := rfl
@[simp] theorem State.reg_modRing (n : Nat) (f : Ring → Ring) (o' : Nat) : (s.modRing n f).reg o' = s.reg o' := rfl
@[simp] theorem State.fld_modRing (n : Nat) (f : Ring → Ring) (o' lo' w' : Nat) : (s.modRing n f).fld o' lo' w' = s.fld o' lo' w' := rfl
@[simp] theorem State.bit_modRing (n : Nat) (f : Ring → Ring) (o' i' : Nat) : (s.modRing n f).bit o' i' = s.bit o' i' := rfl

theorem State.modCap_eq (c : Nat) (f : CapCh → CapCh) : s.modCap c f = { s with cap := { s.cap with ch := s.cap.ch.modify c f } } := rfl
@[simp] theorem State.modCap_pending (c : Nat) (f : CapCh → CapCh) : (s.modCap c f).pending = s.pending := rfl
@[simp] theorem State.modCap_hw (c : Nat) (f : CapCh → CapCh) : (s.modCap c f).hw = s.hw := rfl
@[simp] theorem State.modCap_dt (c : Nat) (f : CapCh → CapCh) : (s.modCap c f).dt = s.dt := rfl
@[simp] theorem State.modCap_regs (c : Nat) (f : CapCh → CapCh) : (s.modCap c f).regs = s.regs := rfl
@[simp] theorem State.modCap_latch (c : Nat) (f : CapCh → CapCh) : (s.modCap c f).latch = s.latch := rfl
@[simp] theorem State.modCap_hold (c : Nat) (f : CapCh → CapCh) : (s.modCap c f).hold = s.hold := rfl
@[simp] theorem State.modCap_rdata (c : Nat) (f : CapCh → CapCh) : (s.modCap c f).rdata = s.rdata := rfl
@[simp] theorem State.modCap_leases (c : Nat) (f : CapCh → CapCh) : (s.modCap c f).leases = s.leases := rfl
@[simp] theorem State.modCap_tb (c : Nat) (f : CapCh → CapCh) : (s.modCap c f).tb = s.tb := rfl
@[simp] theorem State.modCap_mac (c : Nat) (f : CapCh → CapCh) : (s.modCap c f).mac = s.mac := rfl
@[simp] theorem State.modCap_bin (c : Nat) (f : CapCh → CapCh) : (s.modCap c f).bin = s.bin := rfl
@[simp] theorem State.modCap_aln (c : Nat) (f : CapCh → CapCh) : (s.modCap c f).aln = s.aln := rfl
@[simp] theorem State.modCap_osc (c : Nat) (f : CapCh → CapCh) : (s.modCap c f).osc = s.osc := rfl
@[simp] theorem State.modCap_isl (c : Nat) (f : CapCh → CapCh) : (s.modCap c f).isl = s.isl := rfl
@[simp] theorem State.modCap_alm (c : Nat) (f : CapCh → CapCh) : (s.modCap c f).alm = s.alm := rfl
@[simp] theorem State.modCap_outp (c : Nat) (f : CapCh → CapCh) : (s.modCap c f).outp = s.outp := rfl
@[simp] theorem State.modCap_fe (c : Nat) (f : CapCh → CapCh) : (s.modCap c f).fe = s.fe := rfl
@[simp] theorem State.modCap_mtr (c : Nat) (f : CapCh → CapCh) : (s.modCap c f).mtr = s.mtr := rfl
@[simp] theorem State.modCap_cap (c : Nat) (f : CapCh → CapCh) : (s.modCap c f).cap = { s.cap with ch := s.cap.ch.modify c f } := rfl
@[simp] theorem State.modCap_logb (c : Nat) (f : CapCh → CapCh) : (s.modCap c f).logb = s.logb := rfl
@[simp] theorem State.modCap_plt (c : Nat) (f : CapCh → CapCh) : (s.modCap c f).plt = s.plt := rfl
@[simp] theorem State.modCap_dbg (c : Nat) (f : CapCh → CapCh) : (s.modCap c f).dbg = s.dbg := rfl
@[simp] theorem State.modCap_hif (c : Nat) (f : CapCh → CapCh) : (s.modCap c f).hif = s.hif := rfl
@[simp] theorem State.modCap_msix (c : Nat) (f : CapCh → CapCh) : (s.modCap c f).msix = s.msix := rfl
@[simp] theorem State.modCap_cfg (c : Nat) (f : CapCh → CapCh) : (s.modCap c f).cfg = s.cfg := rfl
@[simp] theorem State.modCap_flash (c : Nat) (f : CapCh → CapCh) : (s.modCap c f).flash = s.flash := rfl
@[simp] theorem State.modCap_pwr (c : Nat) (f : CapCh → CapCh) : (s.modCap c f).pwr = s.pwr := rfl
@[simp] theorem State.modCap_twn (c : Nat) (f : CapCh → CapCh) : (s.modCap c f).twn = s.twn := rfl
@[simp] theorem State.modCap_flt (c : Nat) (f : CapCh → CapCh) : (s.modCap c f).flt = s.flt := rfl
@[simp] theorem State.modCap_bst (c : Nat) (f : CapCh → CapCh) : (s.modCap c f).bst = s.bst := rfl
@[simp] theorem State.modCap_key (c : Nat) (f : CapCh → CapCh) : (s.modCap c f).key = s.key := rfl
@[simp] theorem State.modCap_rtc (c : Nat) (f : CapCh → CapCh) : (s.modCap c f).rtc = s.rtc := rfl
@[simp] theorem State.modCap_bkp (c : Nat) (f : CapCh → CapCh) : (s.modCap c f).bkp = s.bkp := rfl
@[simp] theorem State.modCap_pins (c : Nat) (f : CapCh → CapCh) : (s.modCap c f).pins = s.pins := rfl
@[simp] theorem State.modCap_dram (c : Nat) (f : CapCh → CapCh) : (s.modCap c f).dram = s.dram := rfl
@[simp] theorem State.modCap_out (c : Nat) (f : CapCh → CapCh) : (s.modCap c f).out = s.out := rfl
@[simp] theorem State.modCap_fresh (c : Nat) (f : CapCh → CapCh) : (s.modCap c f).fresh = s.fresh := rfl
@[simp] theorem State.reg_modCap (c : Nat) (f : CapCh → CapCh) (o' : Nat) : (s.modCap c f).reg o' = s.reg o' := rfl
@[simp] theorem State.fld_modCap (c : Nat) (f : CapCh → CapCh) (o' lo' w' : Nat) : (s.modCap c f).fld o' lo' w' = s.fld o' lo' w' := rfl
@[simp] theorem State.bit_modCap (c : Nat) (f : CapCh → CapCh) (o' i' : Nat) : (s.modCap c f).bit o' i' = s.bit o' i' := rfl

@[simp] theorem State.modLine_eq (n : Nat) (f : TrgLine → TrgLine) : s.modLine n f = { s with cap := { s.cap with line := s.cap.line.modify n f } } := rfl











end Sys2Proof.Machine
end

