-- ==== Sys2Proof/Laws/Regs.lean ====
section
/-! SUPPORT. Reading a register after each named write of one. -/

namespace Sys2Proof.Machine

variable (s : State)

/-- A register reads as it was set last. -/
theorem State.reg_setReg (o o' : Nat) (v : Word) : (s.setReg o v).reg o' = if o = o' then v else s.reg o' :=
  mapGet_put resetAt s.regs o o' v

@[simp] theorem State.reg_setReg_self (o : Nat) (v : Word) : (s.setReg o v).reg o = v := by
  rw [State.reg_setReg, if_pos rfl]

theorem State.reg_setReg_ne {o o' : Nat} (h : o ≠ o') (v : Word) : (s.setReg o v).reg o' = s.reg o' := by
  rw [State.reg_setReg, if_neg h]

theorem State.reg_event (o i o' : Nat) :
    (s.event o i).reg o' = if o = o' then s.reg o ||| BitVec.ofNat 32 (2 ^ i) else s.reg o' :=
  State.reg_setReg s o o' _

theorem State.reg_setFld (o lo w v o' : Nat) :
    (s.setFld o lo w v).reg o' = if o = o' then putBits (s.reg o) lo w v else s.reg o' :=
  State.reg_setReg s o o' _

theorem State.reg_count32 (o o' : Nat) :
    (s.count32 o).reg o' = if o = o' then BitVec.ofNat 32 (min ((s.reg o).toNat + 1) (2 ^ 32 - 1)) else s.reg o' :=
  State.reg_setReg s o o' _

theorem State.reg_setReg64_ne {lo o : Nat} (h : lo ≠ o) (h' : lo + 4 ≠ o) (v : Nat) : (s.setReg64 lo v).reg o = s.reg o := by
  rw [State.setReg64, State.reg_setReg_ne _ h', State.reg_setReg_ne _ h]

/-- A 64-bit value reads as it was set. -/
theorem State.reg64_setReg64 (lo v : Nat) (h : v < 2 ^ 64) : (s.setReg64 lo v).reg64 lo = v := by
  have h1 : (s.setReg64 lo v).reg lo = BitVec.ofNat 32 v := by
    rw [State.setReg64, State.reg_setReg_ne _ (by omega), State.reg_setReg_self]
  have h2 : (s.setReg64 lo v).reg (lo + 4) = BitVec.ofNat 32 (v / 2 ^ 32) := by
    rw [State.setReg64, State.reg_setReg_self]
  unfold State.reg64
  rw [h1, h2, BitVec.toNat_ofNat, BitVec.toNat_ofNat]
  omega

/-- A counter goes up by n and stops at 2⁶⁴ − 1. -/
theorem State.reg64_countBy (lo n : Nat) : (s.countBy lo n).reg64 lo = min (s.reg64 lo + n) (2 ^ 64 - 1) := by
  rw [State.countBy, State.reg64_setReg64 _ _ _ (by omega)]

theorem State.reg_countBy_ne {lo o : Nat} (h : lo ≠ o) (h' : lo + 4 ≠ o) (n : Nat) : (s.countBy lo n).reg o = s.reg o :=
  State.reg_setReg64_ne s h h' _

theorem State.reg_count_ne {lo o : Nat} (h : lo ≠ o) (h' : lo + 4 ≠ o) : (s.count lo).reg o = s.reg o :=
  State.reg_countBy_ne s h h' 1

/-- DT after an advance. -/
theorem State.advance_dt (t : Nat) : (s.advance t).dt = max s.dt t := by
  unfold State.advance
  split
  · show t = max s.dt t
    omega
  · omega

end Sys2Proof.Machine
end

