-- ==== Sys2Proof/Laws/SlotKeptBase.lean ====
section
/-! SUPPORT. The relation SlotKept: the alarm slots as they are. It composes. -/

namespace Sys2Proof.Machine

/-- The alarm slots are unchanged. -/
structure SlotKept (s t : State) : Prop where
  alm_slots : t.alm.slots = s.alm.slots

theorem SlotKept.refl (s : State) : SlotKept s s := ⟨rfl⟩

/-- A record update of other fields than those SlotKept speaks of. -/
theorem SlotKept.upd {r s t : State} (h : SlotKept r s)
    (e0 : t.alm.slots = s.alm.slots) : SlotKept r t :=
  ⟨e0.trans h.alm_slots⟩

theorem SlotKept.ite {r a b : State} {c : Prop} [Decidable c] (ha : SlotKept r a) (hb : SlotKept r b) : SlotKept r (if c then a else b) := by
  split <;> assumption

theorem SlotKept.iteFst {α : Type} {r : State} {a b : State × α} {c : Prop} [Decidable c] (ha : SlotKept r a.1) (hb : SlotKept r b.1) :
    SlotKept r (if c then a else b).1 := by
  split <;> assumption

theorem SlotKept.ofFst {α : Type} {r s : State} {p : State × α} {a : α} (e : p = (s, a)) (h : SlotKept r p.1) : SlotKept r s := by
  rw [e] at h; exact h

theorem SlotKept.foldl {α : Type} {r : State} {f : State → α → State} (hf : ∀ x a, SlotKept r x → SlotKept r (f x a)) :
    ∀ {s : State} (l : List α), SlotKept r s → SlotKept r (l.foldl f s)
  | _, [], h => h
  | s, a :: l, h => SlotKept.foldl hf (s := f s a) l (hf s a h)

theorem SlotKept.foldlFst {α β : Type} {r : State} {f : State × β → α → State × β} (hf : ∀ x a, SlotKept r x.1 → SlotKept r (f x a).1) :
    ∀ {s : State × β} (l : List α), SlotKept r s.1 → SlotKept r (l.foldl f s).1
  | _, [], h => h
  | s, a :: l, h => SlotKept.foldlFst hf (s := f s a) l (hf s a h)

end Sys2Proof.Machine
end

