-- ==== Sys2Proof/Laws/SlotKept.lean ====
section
/-! SUPPORT. Operations that leave the alarm slots as they are -/

namespace Sys2Proof.Machine

/-! ### Ops.lean -/

theorem State.setReg_slotkept {r s : State} (h : SlotKept r s) (off : Nat) (v : Word) : SlotKept r (s.setReg off v) := by
  unfold State.setReg
  exact h.upd rfl

theorem State.event_slotkept {r s : State} (h : SlotKept r s) (off : Nat) (i : Nat) : SlotKept r (s.event off i) := by
  unfold State.event
  apply State.setReg_slotkept
  exact h

theorem State.setReg64_slotkept {r s : State} (h : SlotKept r s) (lo : Nat) (v : Nat) : SlotKept r (s.setReg64 lo v) := by
  unfold State.setReg64
  apply State.setReg_slotkept
  apply State.setReg_slotkept
  exact h

theorem State.countBy_slotkept {r s : State} (h : SlotKept r s) (lo : Nat) (n : Nat) : SlotKept r (s.countBy lo n) := by
  unfold State.countBy
  apply State.setReg64_slotkept
  exact h

theorem State.count_slotkept {r s : State} (h : SlotKept r s) (lo : Nat) : SlotKept r (s.count lo) := by
  unfold State.count
  apply State.countBy_slotkept
  exact h

theorem State.setTs_slotkept {r s : State} (h : SlotKept r s) (off : Nat) (t : Nat) : SlotKept r (s.setTs off t) := by
  unfold State.setTs
  apply State.setReg_slotkept
  apply State.setReg_slotkept
  apply State.setReg_slotkept
  apply State.setReg_slotkept
  exact h

theorem State.advance_slotkept {r s : State} (h : SlotKept r s) (t : Nat) : SlotKept r (s.advance t) := by
  unfold State.advance
  extract_lets x1 x2
  refine SlotKept.ite ?_ ?_
  · apply State.countBy_slotkept
    exact h.upd rfl
  · exact h

theorem State.freshNext_slotkept {r s : State} (h : SlotKept r s) : SlotKept r (s.freshNext) := by
  unfold State.freshNext
  exact h.upd rfl

theorem State.logRaise_slotkept {r s : State} (h : SlotKept r s) (cls : Nat) (src : Nat) (ev : Nat) (detail : List Nat) : SlotKept r (s.logRaise cls src ev detail) := by
  unfold State.logRaise
  extract_lets x1
  exact h.upd rfl

theorem State.capNotice_slotkept {r s : State} (h : SlotKept r s) (typ : Nat) (m : Nat → Nat → Bool) (at_ : Nat) (code : Nat) : SlotKept r (s.capNotice typ m at_ code) := by
  unfold State.capNotice
  extract_lets x1 x2
  refine SlotKept.ite ?_ ?_
  · exact h.upd rfl
  · exact h

theorem State.offer_slotkept {r s : State} (h : SlotKept r s) (port : Nat) (cls : TxClass) (body : TxBody) (bytes : Nat) (job : Option (Nat × Nat)) : SlotKept r (s.offer port cls body bytes job) := by
  unfold State.offer
  extract_lets x1 x2
  refine SlotKept.ite ?_ ?_
  · exact h.upd rfl
  · exact h.upd rfl

theorem State.mirrorItem_slotkept {r s : State} (h : SlotKept r s) (item : Nat) (body : List Byte) : SlotKept r (s.mirrorItem item body) := by
  unfold State.mirrorItem
  extract_lets x1 x2
  refine SlotKept.ite ?_ ?_
  · refine SlotKept.ite ?_ ?_
    · exact h.upd rfl
    · apply State.event_slotkept
      apply State.count_slotkept
      exact h.upd rfl
  · exact h

/-! ### Alarm.lean -/

theorem State.pinDrive_slotkept {r s : State} (h : SlotKept r s) (p : Nat) : SlotKept r (s.pinDrive p) := by
  unfold State.pinDrive State.modAlm
  extract_lets on high old s1
  have h1 : SlotKept r s1 := h.upd rfl
  exact SlotKept.ite h1 (State.setTs_slotkept h1 _ _)

theorem State.pinsDrive_slotkept {r s : State} (h : SlotKept r s) : SlotKept r (s.pinsDrive) := by
  unfold State.pinsDrive
  refine SlotKept.ite ?_ ?_
  · exact h
  · refine SlotKept.foldl ?_ _ ?_
    · intro y3 y4 y5
      apply State.pinDrive_slotkept
      exact y5
    · exact h

theorem lhPulseEndRow_slotkept {r s : State} (h : SlotKept r s) (p : Nat) : SlotKept r (lhPulseEndRow p s) := by
  unfold lhPulseEndRow State.modAlm
  split
  · exact State.pinsDrive_slotkept ((State.advance_slotkept h _).upd rfl)
  · exact h

theorem State.almCopy_slotkept {r s : State} (h : SlotKept r s) (d : Nat) (pl : List Byte) : SlotKept r (s.almCopy d pl) := by
  unfold State.almCopy
  extract_lets x1 x2 x3 x4
  refine SlotKept.foldl ?_ _ ?_
  · intro y6 y7 y8
    extract_lets x10
    apply State.freshNext_slotkept
    apply State.offer_slotkept
    exact y8
  · exact h

theorem State.almSendMsg_slotkept {r s : State} (h : SlotKept r s) (d typ : Nat) (l : List (List Byte)) : SlotKept r (s.almSendMsg d typ l) := by
  unfold State.almSendMsg State.modAlm
  extract_lets x seq flags pl rep s1 s2
  have h1 : SlotKept r s1 := State.mirrorItem_slotkept h _ _
  have h2 : SlotKept r s2 := h1.upd rfl
  exact State.almCopy_slotkept (State.count_slotkept h2 _) _ _

theorem State.almClose_slotkept {r s : State} (h : SlotKept r s) (d : Nat) : SlotKept r (s.almClose d) := by
  unfold State.almClose
  extract_lets x1
  refine SlotKept.ite ?_ ?_
  · exact h
  · apply State.almSendMsg_slotkept
    exact h

theorem almMessageCloseRow_slotkept {r s : State} (h : SlotKept r s) (d : Nat) : SlotKept r (almMessageCloseRow d s) := by
  unfold almMessageCloseRow
  extract_lets x1
  refine SlotKept.ite ?_ ?_
  · exact h
  · apply State.almClose_slotkept
    apply State.advance_slotkept
    exact h

theorem almKeepaliveRow_slotkept {r s : State} (h : SlotKept r s) (d : Nat) : SlotKept r (almKeepaliveRow d s) := by
  unfold almKeepaliveRow
  extract_lets x1 x2
  refine SlotKept.ite ?_ ?_
  · apply State.almSendMsg_slotkept
    exact h
  · exact h

theorem State.almEntry_slotkept {r s : State} (h : SlotKept r s) (x : AlmSlot) (n : Nat) : SlotKept r (s.almEntry x n) := by
  unfold State.almEntry State.modAlm
  extract_lets e
  refine SlotKept.ite h (SlotKept.foldl (fun y d hy => ?_) _ h)
  refine SlotKept.ite ?_ hy
  extract_lets s1
  have h1 : SlotKept r s1 := hy.upd rfl
  exact SlotKept.ite (State.almClose_slotkept h1 _) h1

theorem State.almReplay_slotkept {r s : State} (h : SlotKept r s) (i : AlmInput) : SlotKept r (s.almReplay i) := by
  unfold State.almReplay
  extract_lets x1 x2 x3
  refine SlotKept.ite ?_ ?_
  · exact h.upd rfl
  · refine SlotKept.ite ?_ ?_
    · exact h.upd rfl
    · exact h.upd rfl

end Sys2Proof.Machine
end

