-- ==== Sys2Proof/Laws/Slots.lean ====
section
/-! SUPPORT. Reading one entry of a list in the state after one entry of it was changed. -/

namespace Sys2Proof.Machine

variable (s : State)

/-- Reading a list of which one entry was changed. -/
theorem nth_modify {α : Type} (d : α) (l : List α) (i j : Nat) (f : α → α) :
    nth d (l.modify i f) j = if i = j ∧ j < l.length then f (nth d l j) else nth d l j := by
  unfold nth
  rw [List.getElem?_modify]
  by_cases h : i = j
  · by_cases h2 : j < l.length
    · simp [h, h2]
    · simp [h, h2]
  · simp [h]

theorem nth_modify_self {α : Type} (d : α) (l : List α) (i : Nat) (f : α → α) (h : i < l.length) :
    nth d (l.modify i f) i = f (nth d l i) := by
  rw [nth_modify, if_pos ⟨rfl, h⟩]

theorem nth_modify_ne {α : Type} (d : α) (l : List α) {i j : Nat} (f : α → α) (h : i ≠ j) :
    nth d (l.modify i f) j = nth d l j := by
  rw [nth_modify, if_neg fun c => h c.1]

theorem State.src_modSrc_self {i : Nat} (f : Src → Src) (h : i < s.tb.src.length) : (s.modSrc i f).src i = f (s.src i) :=
  nth_modify_self _ _ _ _ h

theorem State.src_modSrc_ne {i j : Nat} (f : Src → Src) (h : i ≠ j) : (s.modSrc i f).src j = s.src j :=
  nth_modify_ne _ _ _ h

@[simp] theorem State.modSrc_len (i : Nat) (f : Src → Src) : (s.modSrc i f).tb.src.length = s.tb.src.length :=
  List.length_modify _ _ _

theorem State.port_modPort_self {i : Nat} (f : Port → Port) (h : i < s.mac.port.length) : (s.modPort i f).port i = f (s.port i) :=
  nth_modify_self _ _ _ _ h

theorem State.port_modPort_ne {i j : Nat} (f : Port → Port) (h : i ≠ j) : (s.modPort i f).port j = s.port j :=
  nth_modify_ne _ _ _ h

@[simp] theorem State.modPort_len (i : Nat) (f : Port → Port) : (s.modPort i f).mac.port.length = s.mac.port.length :=
  List.length_modify _ _ _

theorem State.ring_modRing_self {i : Nat} (f : Ring → Ring) (h : i < s.hif.ring.length) : (s.modRing i f).ring i = f (s.ring i) :=
  nth_modify_self _ _ _ _ h

theorem State.ring_modRing_ne {i j : Nat} (f : Ring → Ring) (h : i ≠ j) : (s.modRing i f).ring j = s.ring j :=
  nth_modify_ne _ _ _ h

@[simp] theorem State.modRing_len (i : Nat) (f : Ring → Ring) : (s.modRing i f).hif.ring.length = s.hif.ring.length :=
  List.length_modify _ _ _

theorem State.capCh_modCap_self {i : Nat} (f : CapCh → CapCh) (h : i < s.cap.ch.length) : (s.modCap i f).capCh i = f (s.capCh i) :=
  nth_modify_self _ _ _ _ h

theorem State.capCh_modCap_ne {i j : Nat} (f : CapCh → CapCh) (h : i ≠ j) : (s.modCap i f).capCh j = s.capCh j :=
  nth_modify_ne _ _ _ h

@[simp] theorem State.modCap_len (i : Nat) (f : CapCh → CapCh) : (s.modCap i f).cap.ch.length = s.cap.ch.length :=
  List.length_modify _ _ _

theorem State.mPoint_modPoint_self {i : Nat} (f : MtrPoint → MtrPoint) (h : i < s.mtr.point.length) : (s.modPoint i f).mPoint i = f (s.mPoint i) :=
  nth_modify_self _ _ _ _ h

theorem State.mPoint_modPoint_ne {i j : Nat} (f : MtrPoint → MtrPoint) (h : i ≠ j) : (s.modPoint i f).mPoint j = s.mPoint j :=
  nth_modify_ne _ _ _ h

@[simp] theorem State.modPoint_len (i : Nat) (f : MtrPoint → MtrPoint) : (s.modPoint i f).mtr.point.length = s.mtr.point.length :=
  List.length_modify _ _ _

theorem State.engine_modEng_self {i : Nat} (f : Eng → Eng) (h : i < s.plt.eng.length) : (s.modEng i f).engine i = f (s.engine i) :=
  nth_modify_self _ _ _ _ h

theorem State.engine_modEng_ne {i j : Nat} (f : Eng → Eng) (h : i ≠ j) : (s.modEng i f).engine j = s.engine j :=
  nth_modify_ne _ _ _ h

@[simp] theorem State.modEng_len (i : Nat) (f : Eng → Eng) : (s.modEng i f).plt.eng.length = s.plt.eng.length :=
  List.length_modify _ _ _

end Sys2Proof.Machine
end

