-- ==== Sys2Proof/Laws/SrcKeptBase.lean ====
section
/-! SUPPORT. The relation SrcKept: which operations leave the source slots as they are. It composes. -/

namespace Sys2Proof.Machine

/-- The source slots are the same. -/
structure SrcKept (s t : State) : Prop where
  tb_src : t.tb.src = s.tb.src

theorem SrcKept.refl (s : State) : SrcKept s s := ⟨rfl⟩

/-- A record update of other fields than those SrcKept speaks of. -/
theorem SrcKept.upd {r s t : State} (h : SrcKept r s)
    (e0 : t.tb.src = s.tb.src) : SrcKept r t :=
  ⟨e0.trans h.tb_src⟩

theorem SrcKept.ite {r a b : State} {c : Prop} [Decidable c] (ha : SrcKept r a) (hb : SrcKept r b) : SrcKept r (if c then a else b) := by
  split <;> assumption

theorem SrcKept.iteFst {α : Type} {r : State} {a b : State × α} {c : Prop} [Decidable c] (ha : SrcKept r a.1) (hb : SrcKept r b.1) :
    SrcKept r (if c then a else b).1 := by
  split <;> assumption

theorem SrcKept.ofFst {α : Type} {r s : State} {p : State × α} {a : α} (e : p = (s, a)) (h : SrcKept r p.1) : SrcKept r s := by
  rw [e] at h; exact h

theorem SrcKept.foldl {α : Type} {r : State} {f : State → α → State} (hf : ∀ x a, SrcKept r x → SrcKept r (f x a)) :
    ∀ {s : State} (l : List α), SrcKept r s → SrcKept r (l.foldl f s)
  | _, [], h => h
  | s, a :: l, h => SrcKept.foldl hf (s := f s a) l (hf s a h)

theorem SrcKept.foldlFst {α β : Type} {r : State} {f : State × β → α → State × β} (hf : ∀ x a, SrcKept r x.1 → SrcKept r (f x a).1) :
    ∀ {s : State × β} (l : List α), SrcKept r s.1 → SrcKept r (l.foldl f s).1
  | _, [], h => h
  | s, a :: l, h => SrcKept.foldlFst hf (s := f s a) l (hf s a h)

end Sys2Proof.Machine
end

