-- ==== Sys2Proof/Laws/SrcKept.lean ====
section
/-! SUPPORT. Operations that leave the source slots as they are. -/

namespace Sys2Proof.Machine

/-! ### Ops.lean -/

theorem State.dramWrite_srckept {r s : State} (h : SrcKept r s) (a : Nat) (bs : List Byte) : SrcKept r (s.dramWrite a bs) := by
  unfold State.dramWrite
  exact h.upd rfl

theorem State.setReg_srckept {r s : State} (h : SrcKept r s) (off : Nat) (v : Word) : SrcKept r (s.setReg off v) := by
  unfold State.setReg
  exact h.upd rfl

theorem State.setFld_srckept {r s : State} (h : SrcKept r s) (off : Nat) (lo : Nat) (w : Nat) (v : Nat) : SrcKept r (s.setFld off lo w v) := by
  unfold State.setFld
  apply State.setReg_srckept
  exact h

theorem State.event_srckept {r s : State} (h : SrcKept r s) (off : Nat) (i : Nat) : SrcKept r (s.event off i) := by
  unfold State.event
  apply State.setReg_srckept
  exact h

theorem State.setReg64_srckept {r s : State} (h : SrcKept r s) (lo : Nat) (v : Nat) : SrcKept r (s.setReg64 lo v) := by
  unfold State.setReg64
  apply State.setReg_srckept
  apply State.setReg_srckept
  exact h

theorem State.countBy_srckept {r s : State} (h : SrcKept r s) (lo : Nat) (n : Nat) : SrcKept r (s.countBy lo n) := by
  unfold State.countBy
  apply State.setReg64_srckept
  exact h

theorem State.count_srckept {r s : State} (h : SrcKept r s) (lo : Nat) : SrcKept r (s.count lo) := by
  unfold State.count
  apply State.countBy_srckept
  exact h

theorem State.setTs_srckept {r s : State} (h : SrcKept r s) (off : Nat) (t : Nat) : SrcKept r (s.setTs off t) := by
  unfold State.setTs
  apply State.setReg_srckept
  apply State.setReg_srckept
  apply State.setReg_srckept
  apply State.setReg_srckept
  exact h

theorem State.advance_srckept {r s : State} (h : SrcKept r s) (t : Nat) : SrcKept r (s.advance t) := by
  unfold State.advance
  extract_lets x1 x2
  refine SrcKept.ite ?_ ?_
  · apply State.countBy_srckept
    exact h.upd rfl
  · exact h

theorem State.emit_srckept {r s : State} (h : SrcKept r s) (o : Output) : SrcKept r (s.emit o) := by
  unfold State.emit
  exact h.upd rfl

theorem State.freshNext_srckept {r s : State} (h : SrcKept r s) : SrcKept r (s.freshNext) := by
  unfold State.freshNext
  exact h.upd rfl

theorem State.logRaise_srckept {r s : State} (h : SrcKept r s) (cls : Nat) (src : Nat) (ev : Nat) (detail : List Nat) : SrcKept r (s.logRaise cls src ev detail) := by
  unfold State.logRaise
  extract_lets x1
  exact h.upd rfl

theorem State.report_srckept {r s : State} (h : SrcKept r s) (src : Nat) (cause : Nat) (master : Nat) (access : Nat) (addr : Nat) : SrcKept r (s.report src cause master access addr) := by
  unfold State.report
  extract_lets x1
  refine SrcKept.ite ?_ ?_
  · exact h
  · exact h.upd rfl

theorem State.unitFault_srckept {r s : State} (h : SrcKept r s) (n : Nat) : SrcKept r (s.unitFault n) := by
  unfold State.unitFault
  apply State.report_srckept
  exact h

theorem State.almSend_srckept {r s : State} (h : SrcKept r s) (i : AlmInput) : SrcKept r (s.almSend i) := by
  unfold State.almSend
  extract_lets x1
  exact h.upd rfl

theorem State.capNotice_srckept {r s : State} (h : SrcKept r s) (typ : Nat) (m : Nat → Nat → Bool) (at_ : Nat) (code : Nat) : SrcKept r (s.capNotice typ m at_ code) := by
  unfold State.capNotice
  extract_lets x1 x2
  refine SrcKept.ite ?_ ?_
  · exact h.upd rfl
  · exact h

theorem State.offer_srckept {r s : State} (h : SrcKept r s) (port : Nat) (cls : TxClass) (body : TxBody) (bytes : Nat) (job : Option (Nat × Nat)) : SrcKept r (s.offer port cls body bytes job) := by
  unfold State.offer
  extract_lets x1 x2
  refine SrcKept.ite ?_ ?_
  · exact h.upd rfl
  · exact h.upd rfl

theorem State.wantTask_srckept {r s : State} (h : SrcKept r s) (t : TaskReq) : SrcKept r (s.wantTask t) := by
  unfold State.wantTask
  extract_lets x1
  exact h.upd rfl

theorem State.deliver_srckept {r s : State} (h : SrcKept r s) (d : Delivery) : SrcKept r (s.deliver d) := by
  unfold State.deliver
  extract_lets x1
  exact h.upd rfl

theorem State.mirrorItem_srckept {r s : State} (h : SrcKept r s) (item : Nat) (body : List Byte) : SrcKept r (s.mirrorItem item body) := by
  unfold State.mirrorItem
  extract_lets x1 x2
  refine SrcKept.ite ?_ ?_
  · refine SrcKept.ite ?_ ?_
    · exact h.upd rfl
    · apply State.event_srckept
      apply State.count_srckept
      exact h.upd rfl
  · exact h

theorem State.leaseTake_srckept {r s : State} (h : SrcKept r s) (pool : Nat) (index : Nat) (owner : Nat) : SrcKept r (s.leaseTake pool index owner) := by
  unfold State.leaseTake
  extract_lets x1
  exact h.upd rfl

/-! ### Power.lean -/

theorem State.wake_srckept {r s : State} (h : SrcKept r s) (src : Nat) : SrcKept r (s.wake src) := by
  unfold State.wake
  extract_lets x1
  refine SrcKept.ite ?_ ?_
  · exact h
  · apply State.event_srckept
    apply State.setReg_srckept
    exact h.upd rfl

theorem State.wakeIf_srckept {r s : State} (h : SrcKept r s) (i : Nat) : SrcKept r (s.wakeIf i) := by
  unfold State.wakeIf
  refine SrcKept.ite ?_ ?_
  · apply State.wake_srckept
    exact h
  · exact h

theorem State.pwrAfter_srckept {r s : State} (h : SrcKept r s) (s0 : State) : SrcKept r (s0.pwrAfter s) := by
  unfold State.pwrAfter
  extract_lets x1 x2
  have hx1 : SrcKept r x1 := by
    unfold x1
    refine SrcKept.ite ?_ ?_
    · apply State.wake_srckept
      exact h
    · exact h
  clear_value x1
  refine SrcKept.ite ?_ ?_
  · exact hx1.upd rfl
  · exact hx1

/-! ### KeyStore.lean -/

theorem State.keyUseErr_srckept {r s : State} (h : SrcKept r s) : SrcKept r (s.keyUseErr) := by
  unfold State.keyUseErr
  apply State.event_srckept
  apply State.count_srckept
  exact h

theorem State.cryptoStart_srckept {r s s' : State} (h : SrcKept r s) {o : CryptoOp} (e : s.cryptoStart o = some s') : SrcKept r s' := by
  unfold State.cryptoStart at e
  split at e
  · split at e
    · cases e
      apply State.leaseTake_srckept
      exact h.upd rfl
    · cases e
  · cases e

theorem State.requestSign_srckept {r s : State} (h : SrcKept r s) (use : CryptoUse) (slot : Nat) (msg : List Byte) :
    SrcKept r (s.requestSign use slot msg).1 := by
  unfold State.requestSign
  extract_lets waits key
  clear_value key
  refine SrcKept.iteFst ?_ (State.keyUseErr_srckept h)
  split
  next e => exact State.cryptoStart_srckept h e
  · exact State.count_srckept h _

/-! ### Capture.lean -/

theorem State.modCap_srckept {r s : State} (h : SrcKept r s) (c : Nat) (f : CapCh → CapCh) : SrcKept r (s.modCap c f) := by
  unfold State.modCap
  extract_lets x1
  exact h.upd rfl

theorem State.capEvent_srckept {r s : State} (h : SrcKept r s) (bit : Nat) (c : Nat) : SrcKept r (s.capEvent bit c) := by
  unfold State.capEvent
  apply State.logRaise_srckept
  apply State.event_srckept
  exact h

theorem State.capClose_srckept {r s : State} (h : SrcKept r s) (c : Nat) (o : CapOpen) : SrcKept r (s.capClose c o) := by
  unfold State.capClose
  extract_lets x1 x2
  have hx2 : SrcKept r x2 := by
    unfold x2
    apply State.modCap_srckept
    exact h
  clear_value x2
  refine SrcKept.ite ?_ ?_
  · apply State.modCap_srckept
    exact hx2
  · apply State.count_srckept
    apply State.modCap_srckept
    apply State.dramWrite_srckept
    exact hx2

theorem State.capAppend_srckept {r s : State} (h : SrcKept r s) (c : Nat) (o : CapOpen) (inst : Nat) (e : List Byte) : SrcKept r (s.capAppend c o inst e) := by
  unfold State.capAppend
  apply State.modCap_srckept
  exact h

theorem State.capOpenBlock_srckept {r s : State} (h : SrcKept r s) (c : Nat) (a2 : Nat) (inst : Nat) (period : Nat) (e : List Byte) : SrcKept r (s.capOpenBlock c a2 inst period e) := by
  unfold State.capOpenBlock
  extract_lets x1
  refine SrcKept.ite ?_ ?_
  · apply State.modCap_srckept
    exact h
  · apply State.modCap_srckept
    exact h

theorem State.capAdd_srckept {r s : State} (h : SrcKept r s) (c : Nat) (a2 : Nat) (inst : Nat) (cov : Nat) (period : Nat) (mk : Nat → List Byte) : SrcKept r (s.capAdd c a2 inst cov period mk) := by
  unfold State.capAdd
  extract_lets x1 x2
  have hx2 : SrcKept r x2 := by
    unfold x2
    split
    · apply State.capOpenBlock_srckept
      exact h
    · extract_lets x3
      refine SrcKept.ite ?_ ?_
      · apply State.capAppend_srckept
        exact h
      · apply State.capOpenBlock_srckept
        apply State.capClose_srckept
        exact h
  clear_value x2
  refine SrcKept.ite ?_ ?_
  · exact h
  · refine SrcKept.ite ?_ ?_
    · apply State.modCap_srckept
      exact h
    · apply State.modCap_srckept
      exact hx2

theorem State.capSnap_srckept {r s : State} (h : SrcKept r s) (seq : Nat) (inst : Nat) (next : Nat) (tq : BitVec 16) (lane : Nat → List Byte) : SrcKept r (s.capSnap seq inst next tq lane) := by
  unfold State.capSnap
  refine SrcKept.foldl ?_ _ ?_
  · intro y1 y2 y3
    extract_lets x5
    apply State.capAdd_srckept
    exact y3
  · exact h

theorem State.capStop_srckept {r s : State} (h : SrcKept r s) (c : Nat) (st : CapSt) (cause : Nat) (endAt : Nat) : SrcKept r (s.capStop c st cause endAt) := by
  unfold State.capStop
  extract_lets x1 x2 x3 x4
  have hx1 : SrcKept r x1 := by
    unfold x1
    refine SrcKept.foldl ?_ _ ?_
    · intro y6 y7 y8
      apply State.capClose_srckept
      exact y8
    · exact h
  clear_value x1
  have hx2 : SrcKept r x2 := by
    unfold x2
    apply State.modCap_srckept
    exact hx1
  clear_value x2
  have hx4 : SrcKept r x4 := by
    unfold x4
    exact hx2.upd rfl
  clear_value x4
  apply State.dramWrite_srckept
  exact hx4

theorem capEndRow_srckept {r s : State} (h : SrcKept r s) (c : Nat) : SrcKept r (capEndRow c s) := by
  unfold capEndRow
  refine SrcKept.ite ?_ ?_
  · apply State.count_srckept
    apply State.capEvent_srckept
    apply State.capStop_srckept
    exact h
  · exact h

theorem capOverflowRow_srckept {r s : State} (h : SrcKept r s) (c : Nat) (fifo : Bool) : SrcKept r (capOverflowRow c fifo s) := by
  unfold capOverflowRow
  extract_lets x1
  refine SrcKept.ite ?_ ?_
  · apply State.count_srckept
    apply State.capEvent_srckept
    apply State.capStop_srckept
    exact h
  · exact h

theorem State.capAbort_srckept {r s : State} (h : SrcKept r s) (c : Nat) : SrcKept r (s.capAbort c) := by
  unfold State.capAbort
  extract_lets x1 x2 x3
  have hx2 : SrcKept r x2 := by
    unfold x2
    apply State.modCap_srckept
    exact h
  clear_value x2
  split
  · apply State.count_srckept
    exact hx2.upd rfl
  · refine SrcKept.ite ?_ ?_
    · apply State.modCap_srckept
      apply capEndRow_srckept
      exact h
    · refine SrcKept.ite ?_ ?_
      · apply State.modCap_srckept
        apply capOverflowRow_srckept
        exact h
      · apply State.count_srckept
        apply State.modCap_srckept
        apply State.capStop_srckept
        exact h
  · apply State.modCap_srckept
    exact h

/-! ### Mtr.lean -/

theorem State.modMtr_srckept {r s : State} (h : SrcKept r s) (f : Mtr → Mtr) : SrcKept r (s.modMtr f) := by
  unfold State.modMtr
  exact h.upd rfl

theorem State.modPoint_srckept {r s : State} (h : SrcKept r s) (m : Nat) (f : MtrPoint → MtrPoint) : SrcKept r (s.modPoint m f) := by
  unfold State.modPoint
  apply State.modMtr_srckept
  exact h

theorem State.modPulse_srckept {r s : State} (h : SrcKept r s) (o : Nat) (f : MtrPulse → MtrPulse) : SrcKept r (s.modPulse o f) := by
  unfold State.modPulse
  apply State.modMtr_srckept
  exact h

theorem State.mtrCond_srckept {r s : State} (h : SrcKept r s) (m : Nat) (k : Nat) : SrcKept r (s.mtrCond m k) := by
  unfold State.mtrCond
  extract_lets x1 x2 x3 x4 x5 x6 x7 x8 x9 x10 x11 x12 x13
  have hx10 : SrcKept r x10 := by
    unfold x10
    apply State.modPoint_srckept
    exact h
  clear_value x10
  have hx13 : SrcKept r x13 := by
    unfold x13
    apply State.almSend_srckept
    exact hx10
  clear_value x13
  refine SrcKept.ite ?_ ?_
  · refine SrcKept.ite ?_ ?_
    · apply State.event_srckept
      exact hx13
    · exact hx13
  · exact hx10

theorem State.pulseAdd_srckept {r s : State} (h : SrcKept r s) (o : Nat) (imp : Bool) (d : Nat) (start : Nat) (len : Nat) : SrcKept r (s.pulseAdd o imp d start len) := by
  unfold State.pulseAdd
  extract_lets x1 x2 x3 x4 x5 x6 x7 x8
  have hx8 : SrcKept r x8 := by
    unfold x8
    apply State.modPulse_srckept
    exact h
  clear_value x8
  refine SrcKept.ite ?_ ?_
  · apply State.event_srckept
    exact hx8
  · exact hx8

theorem State.pulsesAdd_srckept {r s : State} (h : SrcKept r s) (m : Nat) (d : List Nat) (start : Nat) (len : Nat) : SrcKept r (s.pulsesAdd m d start len) := by
  unfold State.pulsesAdd
  extract_lets x1
  refine SrcKept.foldl ?_ _ ?_
  · intro y3 y4 y5
    extract_lets x7
    refine SrcKept.ite ?_ ?_
    · split
      · apply State.pulseAdd_srckept
        apply State.pulseAdd_srckept
        exact y5
      · apply State.pulseAdd_srckept
        exact y5
      · apply State.pulseAdd_srckept
        exact y5
      · apply State.pulseAdd_srckept
        exact y5
    · exact y5
  · exact h

theorem State.energyAdd_srckept {r s : State} (h : SrcKept r s) (m : Nat) (d : List Nat) (start : Nat) (len : Nat) : SrcKept r (s.energyAdd m d start len) := by
  unfold State.energyAdd
  extract_lets x1 x2 x3
  have hx2 : SrcKept r x2 := by
    unfold x2
    apply State.modPoint_srckept
    exact h
  clear_value x2
  have hx3 : SrcKept r x3 := by
    unfold x3
    refine SrcKept.ite ?_ ?_
    · apply State.event_srckept
      exact hx2
    · exact hx2
  clear_value x3
  apply State.pulsesAdd_srckept
  exact hx3

theorem State.netEnd_srckept {r s : State} (h : SrcKept r s) (m : Nat) (start : Nat) (len : Nat) : SrcKept r (s.netEnd m start len) := by
  unfold State.netEnd
  extract_lets x1
  apply State.modPoint_srckept
  apply State.energyAdd_srckept
  exact h

theorem State.secondEnd_srckept {r s : State} (h : SrcKept r s) (m : Nat) : SrcKept r (s.secondEnd m) := by
  unfold State.secondEnd
  apply State.modPoint_srckept
  exact h

theorem State.mtrCompare_srckept {r s : State} (h : SrcKept r s) (m : Nat) (end_ : Nat) : SrcKept r (s.mtrCompare m end_) := by
  unfold State.mtrCompare
  extract_lets x1 x2
  split
  · refine SrcKept.ite ?_ ?_
    · apply State.count_srckept
      apply State.event_srckept
      exact h
    · exact h
  · exact h

theorem State.mtrMirror_srckept {r s : State} (h : SrcKept r s) (m : Nat) (body : List Byte) : SrcKept r (s.mtrMirror m body) := by
  unfold State.mtrMirror
  extract_lets x1 x2 x3 x4 x5
  have hx5 : SrcKept r x5 := by
    unfold x5
    exact h.upd rfl
  clear_value x5
  apply State.mtrCompare_srckept
  apply State.mirrorItem_srckept
  exact hx5

theorem State.mtrRecordWrite_srckept {r s : State} (h : SrcKept r s) (m : Nat) (body : List Byte) (sig : Option (List Byte)) : SrcKept r (s.mtrRecordWrite m body sig) := by
  unfold State.mtrRecordWrite
  extract_lets x1 x2 x3 x4 x5 x6 x7 x8 x9 x10 x11
  have hx1 : SrcKept r x1 := by
    unfold x1
    split
    · exact h
    · apply State.count_srckept
      apply State.event_srckept
      exact h
  clear_value x1
  have hx5 : SrcKept r x5 := by
    unfold x5
    apply State.modMtr_srckept
    apply State.dramWrite_srckept
    exact hx1
  clear_value x5
  have hx6 : SrcKept r x6 := by
    unfold x6
    refine SrcKept.ite ?_ ?_
    · refine SrcKept.ite ?_ ?_
      · apply State.event_srckept
        exact hx5
      · exact hx5
    · exact hx1
  clear_value x6
  have hx9 : SrcKept r x9 := by
    unfold x9
    exact hx6.upd rfl
  clear_value x9
  have hx10 : SrcKept r x10 := by
    unfold x10
    refine SrcKept.ite ?_ ?_
    · apply State.deliver_srckept
      exact hx9
    · exact hx9
  clear_value x10
  have hx11 : SrcKept r x11 := by
    unfold x11
    apply State.mtrMirror_srckept
    exact hx10
  clear_value x11
  apply State.count_srckept
  apply State.event_srckept
  exact hx11

theorem State.intervalEnd_srckept {r s : State} (h : SrcKept r s) (m : Nat) (end_ : Nat) (partialEnd : Bool) (partialNext : Bool) : SrcKept r (s.intervalEnd m end_ partialEnd partialNext) := by
  unfold State.intervalEnd
  extract_lets x1 x2 x3 x4 x5 x6 x7
  have hx4 : SrcKept r x4 := by
    unfold x4
    apply State.modPoint_srckept
    exact h
  clear_value x4
  have hx5 : SrcKept r x5 := by
    unfold x5
    refine SrcKept.ite ?_ ?_
    · apply State.almSend_srckept
      apply State.modMtr_srckept
      exact hx4
    · exact hx4
  clear_value x5
  have hx6 : SrcKept r x6.1 := by
    unfold x6
    apply State.requestSign_srckept
    exact hx5
  clear_value x6
  have hx7 : SrcKept r x7 := by
    unfold x7
    refine SrcKept.ite ?_ ?_
    · apply State.event_srckept
      apply State.count_srckept
      exact h
    · refine SrcKept.ite ?_ ?_
      · exact hx6
      · apply State.mtrRecordWrite_srckept
        exact hx6
  clear_value x7
  apply State.modPoint_srckept
  exact hx7

theorem State.backupSave_srckept {r s : State} (h : SrcKept r s) (pfw : Bool) : SrcKept r (s.backupSave pfw) := by
  unfold State.backupSave
  extract_lets x1 x2 x3 x4 x5
  have hx5 : SrcKept r x5 := by
    unfold x5
    exact h.upd rfl
  clear_value x5
  apply State.count_srckept
  exact hx5

theorem State.periodicSaves_srckept {r s : State} (h : SrcKept r s) (force : Bool) : SrcKept r (s.periodicSaves force) := by
  unfold State.periodicSaves
  extract_lets x1 x2 x3
  have hx2 : SrcKept r x2 := by
    unfold x2
    refine SrcKept.ite ?_ ?_
    · apply State.backupSave_srckept
      exact h
    · exact h
  clear_value x2
  refine SrcKept.ite ?_ ?_
  · apply State.modMtr_srckept
    exact hx2
  · exact hx2

theorem State.outageFix_srckept {r s : State} (h : SrcKept r s) (open_ : Nat) : SrcKept r (s.outageFix open_) := by
  unfold State.outageFix
  refine SrcKept.ite ?_ ?_
  · apply State.modMtr_srckept
    apply State.setReg_srckept
    exact h
  · exact h

theorem State.netClose_srckept {r s : State} (h : SrcKept r s) (m : Nat) (start : Nat) : SrcKept r (s.netClose m start) := by
  unfold State.netClose
  split
  · apply State.netEnd_srckept
    exact h
  · apply State.netEnd_srckept
    exact h
  · exact h

theorem State.pointInterval_srckept {r s : State} (h : SrcKept r s) (m : Nat) (cyc : MtrCyc) : SrcKept r (s.pointInterval m cyc) := by
  unfold State.pointInterval
  extract_lets x1 x2 x3 x4 x5
  have hx5 : SrcKept r x5 := by
    unfold x5
    refine SrcKept.ite ?_ ?_
    · apply State.netClose_srckept
      exact h
    · exact h
  clear_value x5
  refine SrcKept.ite ?_ ?_
  · apply State.modPoint_srckept
    exact hx5
  · refine SrcKept.ite ?_ ?_
    · exact hx5
    · apply State.modPoint_srckept
      apply State.intervalEnd_srckept
      exact hx5

theorem State.pointSecond_srckept {r s : State} (h : SrcKept r s) (m : Nat) (cyc : MtrCyc) : SrcKept r (s.pointSecond m cyc) := by
  unfold State.pointSecond
  apply State.modPoint_srckept
  exact h

theorem State.pointEnergy_srckept {r s : State} (h : SrcKept r s) (m : Nat) (cyc : MtrCyc) (q : MtrQuant) : SrcKept r (s.pointEnergy m cyc q) := by
  unfold State.pointEnergy
  extract_lets x1 x2 x3 x4
  refine SrcKept.ite ?_ ?_
  · exact h
  · refine SrcKept.ite ?_ ?_
    · apply State.energyAdd_srckept
      exact h
    · apply State.modPoint_srckept
      exact h

theorem State.pointEnds_srckept {r s : State} (h : SrcKept r s) (m : Nat) (cyc : MtrCyc) : SrcKept r (s.pointEnds m cyc) := by
  unfold State.pointEnds
  extract_lets x1 x2 x3 x4 x5 x6 x7
  have hx6 : SrcKept r x6 := by
    unfold x6
    refine SrcKept.ite ?_ ?_
    · apply State.netClose_srckept
      exact h
    · exact h
  clear_value x6
  have hx7 : SrcKept r x7 := by
    unfold x7
    refine SrcKept.ite ?_ ?_
    · apply State.secondEnd_srckept
      exact hx6
    · exact hx6
  clear_value x7
  refine SrcKept.ite ?_ ?_
  · apply State.intervalEnd_srckept
    exact hx7
  · exact hx7

theorem State.pointGap_srckept {r s : State} (h : SrcKept r s) (m : Nat) (cyc : MtrCyc) : SrcKept r (s.pointGap m cyc) := by
  unfold State.pointGap
  extract_lets x1
  refine SrcKept.ite ?_ ?_
  · apply State.secondEnd_srckept
    refine SrcKept.ite ?_ ?_
    · apply State.netClose_srckept
      exact h
    · exact h
  · exact h

theorem State.pointAccumulate_srckept {r s : State} (h : SrcKept r s) (m : Nat) (cyc : MtrCyc) (q : MtrQuant) : SrcKept r (s.pointAccumulate m cyc q) := by
  unfold State.pointAccumulate
  apply State.pointEnds_srckept
  apply State.pointEnergy_srckept
  apply State.pointSecond_srckept
  apply State.pointInterval_srckept
  apply State.pointGap_srckept
  apply State.outageFix_srckept
  exact h

theorem State.intervalCut_srckept {r s : State} (h : SrcKept r s) (m : Nat) (mark : Nat) : SrcKept r (s.intervalCut m mark) := by
  unfold State.intervalCut
  extract_lets x1
  have hx1 : SrcKept r x1 := by
    unfold x1
    apply State.secondEnd_srckept
    apply State.netClose_srckept
    exact h
  clear_value x1
  refine SrcKept.ite ?_ ?_
  · apply State.intervalEnd_srckept
    exact hx1
  · exact hx1

theorem State.pointReset_srckept {r s : State} (h : SrcKept r s) (m : Nat) (mark : Nat) : SrcKept r (s.pointReset m mark) := by
  unfold State.pointReset
  extract_lets x1
  have hx1 : SrcKept r x1 := by
    unfold x1
    refine SrcKept.ite ?_ ?_
    · apply State.intervalCut_srckept
      exact h
    · exact h
  clear_value x1
  refine SrcKept.ite ?_ ?_
  · apply State.logRaise_srckept
    apply State.modPoint_srckept
    exact hx1
  · exact h

theorem State.mtrAdopt_srckept {r s : State} (h : SrcKept r s) (mark : Nat) : SrcKept r (s.mtrAdopt mark) := by
  unfold State.mtrAdopt
  extract_lets x1 x2 x3 x4
  have hx4 : SrcKept r x4 := by
    unfold x4
    refine SrcKept.foldl ?_ _ ?_
    · intro y5 y6 y7
      refine SrcKept.ite ?_ ?_
      · apply State.intervalCut_srckept
        exact y7
      · exact y7
    · exact h
  clear_value x4
  refine SrcKept.ite ?_ ?_
  · exact h
  · apply State.modMtr_srckept
    exact hx4

theorem State.cycleMeasure_srckept {r s : State} (h : SrcKept r s) (cyc : MtrCyc) : SrcKept r (s.cycleMeasure cyc) := by
  unfold State.cycleMeasure
  extract_lets x1 x2
  have hx2 : SrcKept r x2 := by
    unfold x2
    refine SrcKept.foldl ?_ _ ?_
    · intro y4 y5 y6
      extract_lets x8 x9 x10 x11
      have hx9 : SrcKept r x9 := by
        unfold x9
        apply State.modPoint_srckept
        exact y6
      clear_value x9
      have hx11 : SrcKept r x11 := by
        unfold x11
        refine SrcKept.foldl ?_ _ ?_
        · intro y15 y16 y17
          refine SrcKept.ite ?_ ?_
          · apply State.setReg_srckept
            exact y17
          · exact y17
        · exact hx9
      clear_value x11
      refine SrcKept.ite ?_ ?_
      · refine SrcKept.foldl ?_ _ ?_
        · intro y25 y26 y27
          apply State.mtrCond_srckept
          exact y27
        · exact hx11
      · exact y6
    · exact h
  clear_value x2
  apply State.count_srckept
  exact hx2

theorem State.cycleAccumulate_srckept {r s : State} (h : SrcKept r s) (cyc : MtrCyc) (first : Bool) : SrcKept r (s.cycleAccumulate cyc first) := by
  unfold State.cycleAccumulate
  extract_lets x1 x2
  have hx1 : SrcKept r x1 := by
    unfold x1
    refine SrcKept.foldl ?_ _ ?_
    · intro y4 y5 y6
      refine SrcKept.ite ?_ ?_
      · apply State.pointAccumulate_srckept
        exact y6
      · exact y6
    · exact h
  clear_value x1
  have hx2 : SrcKept r x2 := by
    unfold x2
    apply State.modMtr_srckept
    exact hx1
  clear_value x2
  apply State.mtrAdopt_srckept
  refine SrcKept.foldl ?_ _ ?_
  · intro y16 y17 y18
    apply State.pointReset_srckept
    exact y18
  · exact hx2

theorem State.cycleHandle_srckept {r s : State} (h : SrcKept r s) (cyc : MtrCyc) : SrcKept r (s.cycleHandle cyc) := by
  unfold State.cycleHandle
  extract_lets x1 x2 x3
  have hx2 : SrcKept r x2 := by
    unfold x2
    apply State.cycleMeasure_srckept
    exact h
  clear_value x2
  have hx3 : SrcKept r x3 := by
    unfold x3
    refine SrcKept.ite ?_ ?_
    · apply State.modMtr_srckept
      exact hx2
    · apply State.periodicSaves_srckept
      apply State.cycleAccumulate_srckept
      exact hx2
  clear_value x3
  apply State.modMtr_srckept
  exact hx3

theorem State.mtrFreeze_srckept {r s : State} (h : SrcKept r s) : SrcKept r (s.mtrFreeze) := by
  unfold State.mtrFreeze
  extract_lets x1
  have hx1 : SrcKept r x1 := by
    unfold x1
    refine SrcKept.foldl ?_ _ ?_
    · intro y3 y4 y5
      apply State.cycleHandle_srckept
      exact y5
    · apply State.modMtr_srckept
      exact h
  clear_value x1
  refine SrcKept.ite ?_ ?_
  · apply State.modMtr_srckept
    apply State.backupSave_srckept
    exact hx1
  · exact h

theorem State.mtrRefuseEnd_srckept {r s : State} (h : SrcKept r s) : SrcKept r (s.mtrRefuseEnd) := by
  unfold State.mtrRefuseEnd
  refine SrcKept.ite ?_ ?_
  · apply State.modMtr_srckept
    exact h
  · exact h

/-! ### Pilot.lean -/

theorem State.modPlt_srckept {r s : State} (h : SrcKept r s) (f : Plt → Plt) : SrcKept r (s.modPlt f) := by
  unfold State.modPlt
  exact h.upd rfl

theorem State.setTask_srckept {r s : State} (h : SrcKept r s) (i : Nat) (t : Task) : SrcKept r (s.setTask i t) := by
  unfold State.setTask
  apply State.modPlt_srckept
  exact h

theorem State.freeTask_srckept {r s : State} (h : SrcKept r s) (i : Nat) : SrcKept r (s.freeTask i) := by
  unfold State.freeTask
  apply State.setTask_srckept
  exact h

/-! ### TimeBase.lean -/

theorem State.modTb_srckept {r s : State} (h : SrcKept r s) (f : Tb → Tb) (h1 : ∀ b, (f b).src = b.src) : SrcKept r (s.modTb f) :=
  h.upd (h1 _)

theorem State.tbEvent_srckept {r s : State} (h : SrcKept r s) (b : Nat) : SrcKept r (s.tbEvent b) := by
  unfold State.tbEvent
  apply State.logRaise_srckept
  apply State.event_srckept
  exact h

theorem State.tbAlarm_srckept {r s : State} (h : SrcKept r s) (kind : Nat) (on : Bool) : SrcKept r (s.tbAlarm kind on) := by
  unfold State.tbAlarm
  apply State.almSend_srckept
  exact h

theorem State.setDt_srckept {r s : State} (h : SrcKept r s) (st : DtSt) : SrcKept r (s.setDt st) := by
  unfold State.setDt
  extract_lets x1 x2 x3 x4 x5
  have hx2 : SrcKept r x2 := by
    unfold x2
    apply State.tbEvent_srckept
    apply State.modTb_srckept
    · exact h
    · intro y9
      rfl
  clear_value x2
  have hx3 : SrcKept r x3 := by
    unfold x3
    refine SrcKept.ite ?_ ?_
    · exact hx2
    · apply State.tbAlarm_srckept
      exact hx2
  clear_value x3
  have hx5 : SrcKept r x5 := by
    unfold x5
    refine SrcKept.ite ?_ ?_
    · exact hx3
    · apply State.tbAlarm_srckept
      exact hx3
  clear_value x5
  refine SrcKept.ite ?_ ?_
  · exact h
  · refine SrcKept.ite ?_ ?_
    · apply State.event_srckept
      apply State.modTb_srckept
      · exact hx5
      · intro y24
        rfl
    · exact hx5

theorem State.holdCheck_srckept {r s : State} (h : SrcKept r s) : SrcKept r (s.holdCheck) := by
  unfold State.holdCheck
  refine SrcKept.ite ?_ ?_
  · apply State.setDt_srckept
    exact h
  · exact h

theorem State.enterHoldover_srckept {r s : State} (h : SrcKept r s) (u : Nat) : SrcKept r (s.enterHoldover u) := by
  unfold State.enterHoldover
  apply State.holdCheck_srckept
  apply State.setDt_srckept
  apply State.modTb_srckept
  · exact h
  · intro y1
    rfl

theorem State.slewNow_srckept {r s : State} (h : SrcKept r s) : SrcKept r (s.slewNow) := by
  unfold State.slewNow
  apply State.modTb_srckept
  · exact h
  · intro y2
    rfl

theorem State.crossCheck_srckept {r s : State} (h : SrcKept r s) : SrcKept r (s.crossCheck) := by
  unfold State.crossCheck
  split
  · extract_lets x2 x3
    have hx3 : SrcKept r x3 := by
      unfold x3
      apply State.tbAlarm_srckept
      apply State.modTb_srckept
      · exact h
      · intro y7
        rfl
    clear_value x3
    refine SrcKept.ite ?_ ?_
    · refine SrcKept.ite ?_ ?_
      · exact h
      · refine SrcKept.ite ?_ ?_
        · apply State.unitFault_srckept
          apply State.tbEvent_srckept
          exact hx3
        · exact hx3
    · exact h

/-! ### Quay.lean -/

theorem State.modAln_srckept {r s : State} (h : SrcKept r s) (f : Aln → Aln) : SrcKept r (s.modAln f) := by
  unfold State.modAln
  exact h.upd rfl

theorem State.modQuay_srckept {r s : State} (h : SrcKept r s) (seq : Nat) (f : Quay → Quay) : SrcKept r (s.modQuay seq f) := by
  unfold State.modQuay
  apply State.modAln_srckept
  exact h

theorem State.modDet_srckept {r s : State} (h : SrcKept r s) (seq : Nat) (d : Nat) (f : Det → Det) : SrcKept r (s.modDet seq d f) := by
  unfold State.modDet
  apply State.modQuay_srckept
  exact h

theorem State.dramRegion_srckept {r s : State} (h : SrcKept r s) (base : Nat) (len : Nat) (cells : List (Nat × Byte)) : SrcKept r (s.dramRegion base len cells) := by
  unfold State.dramRegion
  exact h.upd rfl

theorem State.quayStore_srckept {r s : State} (h : SrcKept r s) (q : Quay) : SrcKept r (s.quayStore q) := by
  unfold State.quayStore
  apply State.dramRegion_srckept
  exact h

/-! ### Align.lean -/

theorem State.alnNote_srckept {r s : State} (h : SrcKept r s) : SrcKept r (s.alnNote) := by
  unfold State.alnNote
  refine SrcKept.ite ?_ ?_
  · refine SrcKept.ite ?_ ?_
    · apply State.modAln_srckept
      exact h
    · exact h
  · apply State.modAln_srckept
    exact h

theorem State.alnRaise_srckept {r s : State} (h : SrcKept r s) (d : Nat) (kind : Nat) (seq : Nat) : SrcKept r (s.alnRaise d kind seq) := by
  unfold State.alnRaise
  extract_lets x1
  have hx1 : SrcKept r x1 := by
    unfold x1
    apply State.almSend_srckept
    exact h
  clear_value x1
  refine SrcKept.ite ?_ ?_
  · apply State.capNotice_srckept
    exact hx1
  · exact hx1

theorem State.snapshot_srckept {r s : State} (h : SrcKept r s) (seq : Nat) (d : Nat) : SrcKept r (s.snapshot seq d) := by
  unfold State.snapshot
  split
  · extract_lets x2
    refine SrcKept.ite ?_ ?_
    · exact h
    · apply State.modDet_srckept
      exact h
  · exact h

theorem State.withdrawOf_srckept {r s : State} (h : SrcKept r s) (owner : Nat) (p : Nat → Nat → Bool) : SrcKept r (s.withdrawOf owner p) := by
  unfold State.withdrawOf
  extract_lets x1
  have hx1 : SrcKept r x1 := by
    unfold x1
    apply State.modPlt_srckept
    exact h
  clear_value x1
  refine SrcKept.foldl ?_ _ ?_
  · intro y2 y3 y4
    apply State.freeTask_srckept
    exact y4
  · exact hx1

theorem State.withdraw_srckept {r s : State} (h : SrcKept r s) (seq : Nat) (d : Nat) : SrcKept r (s.withdraw seq d) := by
  unfold State.withdraw
  apply State.withdrawOf_srckept
  exact h

theorem State.alnNotice_srckept {r s : State} (h : SrcKept r s) (q : Quay) (d : Nat) (o : Nat) : SrcKept r (s.alnNotice q d o) := by
  unfold State.alnNotice
  apply State.almSend_srckept
  exact h

theorem State.settleDoneCheck_srckept {r s : State} (h : SrcKept r s) (seq : Nat) : SrcKept r (s.settleDoneCheck seq) := by
  unfold State.settleDoneCheck
  split
  · refine SrcKept.ite ?_ ?_
    · apply State.modQuay_srckept
      exact h
    · exact h
  · exact h

theorem State.detFinish_srckept {r s : State} (h : SrcKept r s) (seq : Nat) (d : Nat) (o : Nat) : SrcKept r (s.detFinish seq d o) := by
  unfold State.detFinish
  split
  · exact h
  · extract_lets x3 x4
    have hx3 : SrcKept r x3 := by
      unfold x3
      apply State.modDet_srckept
      exact h
    clear_value x3
    have hx4 : SrcKept r x4 := by
      unfold x4
      split
      · apply State.count_srckept
        exact hx3
      · apply State.count_srckept
        exact hx3
      · apply State.count_srckept
        exact hx3
      · apply State.alnRaise_srckept
        apply State.event_srckept
        apply State.count_srckept
        exact hx3
      · apply State.alnRaise_srckept
        apply State.event_srckept
        apply State.count_srckept
        exact hx3
      · exact hx3
    clear_value x4
    apply State.settleDoneCheck_srckept
    apply State.alnNotice_srckept
    exact hx4

/-! ### Osc.lean -/

theorem State.modOsc_srckept {r s : State} (h : SrcKept r s) (f : Osc → Osc) : SrcKept r (s.modOsc f) := by
  unfold State.modOsc
  exact h.upd rfl

theorem State.oscBases_srckept {r s : State} (h : SrcKept r s) (seq : Nat) : SrcKept r (s.oscBases seq) := by
  unfold State.oscBases
  split
  · apply State.modOsc_srckept
    exact h
  · exact h

theorem State.takeSnapshot_srckept {r s : State} (h : SrcKept r s) (seq : Nat) (d : Nat) : SrcKept r (s.takeSnapshot seq d) := by
  unfold State.takeSnapshot
  extract_lets x1
  have hx1 : SrcKept r x1 := by
    unfold x1
    apply State.snapshot_srckept
    exact h
  clear_value x1
  split
  · refine SrcKept.ite ?_ ?_
    · exact h
    · refine SrcKept.ite ?_ ?_
      · apply State.oscBases_srckept
        exact hx1
      · exact hx1
  · exact h

/-! ### Isl.lean -/

theorem State.modIsl_srckept {r s : State} (h : SrcKept r s) (f : Isl → Isl) : SrcKept r (s.modIsl f) := by
  unfold State.modIsl
  exact h.upd rfl

theorem State.islSnapshot_srckept {r s : State} (h : SrcKept r s) (seq : Nat) : SrcKept r (s.islSnapshot seq) := by
  unfold State.islSnapshot
  split
  · refine SrcKept.ite ?_ ?_
    · exact h
    · apply State.modIsl_srckept
      apply State.snapshot_srckept
      exact h
  · exact h

theorem State.detRoute_srckept {r s : State} (h : SrcKept r s) (q : Quay) (d : Nat) (o : Nat) : SrcKept r (s.detRoute q d o) := by
  unfold State.detRoute
  extract_lets x1 x2 x3 x4 x5
  have hx1 : SrcKept r x1 := by
    unfold x1
    apply State.modDet_srckept
    exact h
  clear_value x1
  have hx2 : SrcKept r x2 := by
    unfold x2
    refine SrcKept.ite ?_ ?_
    · apply State.withdraw_srckept
      exact hx1
    · exact hx1
  clear_value x2
  have hx4 : SrcKept r x4 := by
    unfold x4
    apply State.modOsc_srckept
    exact hx2
  clear_value x4
  have hx5 : SrcKept r x5 := by
    unfold x5
    apply State.modIsl_srckept
    exact hx2
  clear_value x5
  refine SrcKept.ite ?_ ?_
  · refine SrcKept.ite ?_ ?_
    · apply State.detFinish_srckept
      exact hx2
    · refine SrcKept.ite ?_ ?_
      · refine SrcKept.foldl ?_ _ ?_
        · intro y22 y23 y24
          apply State.wantTask_srckept
          exact y24
        · exact hx4
      · exact hx4
  · refine SrcKept.ite ?_ ?_
    · refine SrcKept.ite ?_ ?_
      · apply State.detFinish_srckept
        exact hx2
      · refine SrcKept.ite ?_ ?_
        · apply State.wantTask_srckept
          exact hx5
        · exact hx5
    · apply State.detFinish_srckept
      exact hx2

theorem State.detSettle_srckept {r s : State} (h : SrcKept r s) (seq : Nat) : SrcKept r (s.detSettle seq) := by
  unfold State.detSettle
  refine SrcKept.foldl ?_ _ ?_
  · intro y1 y2 y3
    split
    · refine SrcKept.ite ?_ ?_
      · exact y3
      · split
        · apply State.detRoute_srckept
          exact y3
        · exact y3
    · exact y3
  · exact h

theorem State.detSettleAll_srckept {r s : State} (h : SrcKept r s) : SrcKept r (s.detSettleAll) := by
  unfold State.detSettleAll
  refine SrcKept.foldl ?_ _ ?_
  · intro y1 y2 y3
    apply State.detSettle_srckept
    exact y3
  · exact h

/-! ### Alarm.lean -/

theorem State.modAlm_srckept {r s : State} (h : SrcKept r s) (f : Alm → Alm) : SrcKept r (s.modAlm f) := by
  unfold State.modAlm
  exact h.upd rfl

theorem State.pinDrive_srckept {r s : State} (h : SrcKept r s) (p : Nat) : SrcKept r (s.pinDrive p) := by
  unfold State.pinDrive
  extract_lets x1 x2 x3 x4
  have hx4 : SrcKept r x4 := by
    unfold x4
    apply State.modAlm_srckept
    exact h
  clear_value x4
  refine SrcKept.ite ?_ ?_
  · exact hx4
  · apply State.setTs_srckept
    exact hx4

theorem State.pinsDrive_srckept {r s : State} (h : SrcKept r s) : SrcKept r (s.pinsDrive) := by
  unfold State.pinsDrive
  refine SrcKept.ite ?_ ?_
  · exact h
  · refine SrcKept.foldl ?_ _ ?_
    · intro y3 y4 y5
      apply State.pinDrive_srckept
      exact y5
    · exact h

/-! ### Compose.lean -/

theorem State.modStr_srckept {r s : State} (h : SrcKept r s) (n : Nat) (f : OutStream → OutStream) : SrcKept r (s.modStr n f) := by
  unfold State.modStr
  extract_lets x1
  exact h.upd rfl

theorem State.outCompose_srckept {r s : State} (h : SrcKept r s) (n : Nat) (q : Quay) (set : CfgSet) : SrcKept r (s.outCompose n q set) := by
  unfold State.outCompose
  extract_lets x1 x2 x3 x4 x5 x6 x7 x8 x9 x10 x11 x12 x13 x14
  have hx6 : SrcKept r x6 := by
    unfold x6
    apply State.mirrorItem_srckept
    exact h
  clear_value x6
  have hx10 : SrcKept r x10 := by
    unfold x10
    refine SrcKept.foldl ?_ _ ?_
    · intro y18 y19 y20
      extract_lets x22 x23
      apply State.freshNext_srckept
      apply State.offer_srckept
      exact y20
    · exact hx6
  clear_value x10
  have hx11 : SrcKept r x11 := by
    unfold x11
    apply State.countBy_srckept
    apply State.count_srckept
    exact hx10
  clear_value x11
  have hx12 : SrcKept r x12 := by
    unfold x12
    refine SrcKept.ite ?_ ?_
    · apply State.event_srckept
      apply State.count_srckept
      exact hx11
    · exact hx11
  clear_value x12
  have hx13 : SrcKept r x13 := by
    unfold x13
    refine SrcKept.ite ?_ ?_
    · apply State.event_srckept
      exact hx12
    · exact hx12
  clear_value x13
  have hx14 : SrcKept r x14 := by
    unfold x14
    refine SrcKept.ite ?_ ?_
    · apply State.event_srckept
      apply State.count_srckept
      exact hx13
    · exact hx13
  clear_value x14
  apply State.modStr_srckept
  exact hx14

theorem State.composeStage_srckept {r s : State} (h : SrcKept r s) (q : Quay) (settled : Bool) : SrcKept r (s.composeStage q settled) := by
  unfold State.composeStage
  extract_lets x1
  refine SrcKept.foldl ?_ _ ?_
  · intro y3 y4 y5
    extract_lets x7 x8
    refine SrcKept.ite ?_ ?_
    · apply State.outCompose_srckept
      exact y5
    · exact y5
  · exact h

theorem State.lateAfterSend_srckept {r s : State} (h : SrcKept r s) (q : Quay) : SrcKept r (s.lateAfterSend q) := by
  unfold State.lateAfterSend
  extract_lets x1
  refine SrcKept.foldl ?_ _ ?_
  · intro y3 y4 y5
    extract_lets x7
    have hx7 : SrcKept r x7 := by
      unfold x7
      apply State.modStr_srckept
      exact y5
    clear_value x7
    split
    · extract_lets x12
      refine SrcKept.ite ?_ ?_
      · apply State.count_srckept
        exact hx7
      · exact hx7
    · exact y5
  · exact h

theorem State.composeAfter_srckept {r s : State} (h : SrcKept r s) (s0 : State) : SrcKept r (s0.composeAfter s) := by
  unfold State.composeAfter
  extract_lets x1 x2 x3 x4
  have hx4 : SrcKept r x4 := by
    unfold x4
    refine SrcKept.foldl ?_ _ ?_
    · intro y6 y7 y8
      apply State.composeStage_srckept
      exact y8
    · exact h
  clear_value x4
  refine SrcKept.foldl ?_ _ ?_
  · intro y13 y14 y15
    apply State.composeStage_srckept
    apply State.lateAfterSend_srckept
    exact y15
  · exact hx4

/-! ### Twin.lean -/

theorem State.twnSave_srckept {r s : State} (h : SrcKept r s) (ok : Bool) : SrcKept r (s.twnSave ok) := by
  unfold State.twnSave
  extract_lets x1 x2 x3 x4 x5
  have hx5 : SrcKept r x5 := by
    unfold x5
    apply State.freshNext_srckept
    exact h
  clear_value x5
  refine SrcKept.ite ?_ ?_
  · apply State.count_srckept
    exact h.upd rfl
  · apply State.report_srckept
    apply State.event_srckept
    exact hx5.upd rfl

/-! ### Fault.lean -/

theorem State.modFlt_srckept {r s : State} (h : SrcKept r s) (f : Flt → Flt) : SrcKept r (s.modFlt f) := by
  unfold State.modFlt
  exact h.upd rfl

theorem State.modBst_srckept {r s : State} (h : SrcKept r s) (f : Bst → Bst) : SrcKept r (s.modBst f) := by
  unfold State.modBst
  exact h.upd rfl

theorem State.capAbortAll_srckept {r s : State} (h : SrcKept r s) : SrcKept r (s.capAbortAll) := by
  unfold State.capAbortAll
  refine SrcKept.foldl ?_ _ ?_
  · intro y1 y2 y3
    refine SrcKept.ite ?_ ?_
    · apply State.capAbort_srckept
      exact y3
    · exact y3
  · exact h

theorem State.stopNow_srckept {r s : State} (h : SrcKept r s) : SrcKept r (s.stopNow) := by
  unfold State.stopNow
  extract_lets x1 x2
  have hx1 : SrcKept r x1 := by
    unfold x1
    apply State.modAlm_srckept
    exact h
  clear_value x1
  have hx2 : SrcKept r x2 := by
    unfold x2
    apply State.capAbortAll_srckept
    apply State.mtrFreeze_srckept
    apply State.alnNote_srckept
    apply State.setFld_srckept
    exact hx1
  clear_value x2
  apply State.pinsDrive_srckept
  apply State.modFlt_srckept
  exact hx2

theorem State.afterHandover_srckept {r s : State} (h : SrcKept r s) : SrcKept r (s.afterHandover) := by
  unfold State.afterHandover
  refine SrcKept.ite ?_ ?_
  · exact h
  · refine SrcKept.ite ?_ ?_
    · apply State.stopNow_srckept
      exact h
    · exact h

theorem State.twnSaveNow_srckept {r s : State} (h : SrcKept r s) : SrcKept r (s.twnSaveNow) := by
  unfold State.twnSaveNow
  apply State.twnSave_srckept
  apply State.freshNext_srckept
  exact h

theorem State.flashFail_srckept {r s : State} (h : SrcKept r s) : SrcKept r (s.flashFail) := by
  unfold State.flashFail
  apply State.report_srckept
  apply State.event_srckept
  exact h

theorem State.mtrFlashWrite_srckept {r s : State} (h : SrcKept r s) (v : MtrSave) (ok : Bool) : SrcKept r (s.mtrFlashWrite v ok) := by
  unfold State.mtrFlashWrite
  extract_lets x1 x2
  have hx1 : SrcKept r x1 := by
    unfold x1
    apply State.freshNext_srckept
    exact h
  clear_value x1
  have hx2 : SrcKept r x2 := by
    unfold x2
    exact hx1.upd rfl
  clear_value x2
  refine SrcKept.ite ?_ ?_
  · apply State.count_srckept
    apply State.modMtr_srckept
    exact h.upd rfl
  · apply State.flashFail_srckept
    apply State.unitFault_srckept
    apply State.event_srckept
    apply State.modMtr_srckept
    exact hx2

theorem State.mtrShutdownSave_srckept {r s : State} (h : SrcKept r s) : SrcKept r (s.mtrShutdownSave) := by
  unfold State.mtrShutdownSave
  refine SrcKept.ite ?_ ?_
  · apply State.mtrFlashWrite_srckept
    apply State.freshNext_srckept
    exact h
  · exact h

theorem State.shutdownGo_srckept {r s : State} (h : SrcKept r s) : SrcKept r (s.shutdownGo) := by
  unfold State.shutdownGo
  refine SrcKept.ite ?_ ?_
  · apply State.pinsDrive_srckept
    apply State.modBst_srckept
    apply State.stopNow_srckept
    apply State.twnSaveNow_srckept
    apply State.mtrShutdownSave_srckept
    exact h
  · exact h

/-! ### After.lean -/

theorem State.oscRebase_srckept {r s : State} (h : SrcKept r s) (seq : Nat) (g : Nat) : SrcKept r (s.oscRebase seq g) := by
  unfold State.oscRebase
  apply State.modOsc_srckept
  exact h

theorem State.islRebase_srckept {r s : State} (h : SrcKept r s) (seq : Nat) : SrcKept r (s.islRebase seq) := by
  unfold State.islRebase
  apply State.modIsl_srckept
  exact h

theorem State.oscReadFix_srckept {r s : State} (h : SrcKept r s) (seq : Nat) (g : Nat) (typ : Nat) (qs : List Quay) : SrcKept r (s.oscReadFix seq g typ qs) := by
  unfold State.oscReadFix
  apply State.modOsc_srckept
  exact h

theorem State.islReadFix_srckept {r s : State} (h : SrcKept r s) (q : Quay) (typ : Nat) : SrcKept r (s.islReadFix q typ) := by
  unfold State.islReadFix
  apply State.modIsl_srckept
  exact h

theorem State.taskStarts_srckept {r s : State} (h : SrcKept r s) (t : Task) : SrcKept r (s.taskStarts t) := by
  unfold State.taskStarts
  split
  · apply State.takeSnapshot_srckept
    exact h
  · apply State.oscReadFix_srckept
    apply State.oscRebase_srckept
    exact h
  · apply State.oscReadFix_srckept
    exact h
  · apply State.islReadFix_srckept
    apply State.islSnapshot_srckept
    exact h
  · apply State.islReadFix_srckept
    apply State.islRebase_srckept
    exact h
  · apply State.islReadFix_srckept
    exact h
  · exact h

theorem State.startSnapshots_srckept {r s : State} (h : SrcKept r s) (s0 : State) : SrcKept r (s0.startSnapshots s) := by
  unfold State.startSnapshots
  extract_lets x1
  refine SrcKept.foldl ?_ _ ?_
  · intro y2 y3 y4
    apply State.taskStarts_srckept
    exact y4
  · exact h

theorem State.snapAfter_srckept {r s : State} (h : SrcKept r s) (qs : List Quay) : SrcKept r (s.snapAfter qs) := by
  unfold State.snapAfter
  refine SrcKept.ite ?_ ?_
  · refine SrcKept.foldl ?_ _ ?_
    · intro y2 y3 y4
      apply State.capSnap_srckept
      exact y4
    · exact h
  · exact h

theorem State.spillSync_srckept {r s : State} (h : SrcKept r s) (s0 : State) : SrcKept r (s0.spillSync s) := by
  unfold State.spillSync
  refine SrcKept.foldl ?_ _ ?_
  · intro y1 y2 y3
    apply State.quayStore_srckept
    exact y3
  · exact h

theorem State.msixSignal_srckept {r s : State} (h : SrcKept r s) (v : Nat) : SrcKept r (s.msixSignal v) := by
  unfold State.msixSignal
  extract_lets x1 x2
  have hx2 : SrcKept r x2 := by
    unfold x2
    apply State.emit_srckept
    exact h
  clear_value x2
  refine SrcKept.ite ?_ ?_
  · exact h.upd rfl
  · exact hx2.upd rfl

theorem State.msixAfter_srckept {r s : State} (h : SrcKept r s) (s0 : State) : SrcKept r (s0.msixAfter s) := by
  unfold State.msixAfter
  extract_lets x1 x2 x3 x4
  have hx2 : SrcKept r x2 := by
    unfold x2
    refine SrcKept.foldl ?_ _ ?_
    · intro y6 y7 y8
      apply State.msixSignal_srckept
      exact y8
    · exact h
  have hx4 : SrcKept r x4 := by
    unfold x4
    exact hx2.upd rfl
  refine SrcKept.ite ?_ ?_
  · exact hx4
  · refine SrcKept.foldl ?_ _ ?_
    · intro y16 y17 y18
      apply State.msixSignal_srckept
      exact y18
    · exact hx4

theorem State.copiesStart_srckept {r s : State} (h : SrcKept r s) : SrcKept r (s.copiesStart) := by
  unfold State.copiesStart
  refine SrcKept.foldl ?_ _ ?_
  · intro y1 y2 y3
    split
    · refine SrcKept.ite ?_ ?_
      · apply State.modQuay_srckept
        apply State.leaseTake_srckept
        exact y3
      · exact y3
    · exact y3
  · exact h

theorem State.sealNow_srckept {r s : State} (h : SrcKept r s) (seq : Nat) : SrcKept r (s.sealNow seq) := by
  unfold State.sealNow
  apply State.modQuay_srckept
  exact h

theorem State.sealStart_srckept {r s : State} (h : SrcKept r s) (t : Nat) : SrcKept r (s.sealStart t) := by
  unfold State.sealStart
  refine SrcKept.foldl ?_ _ ?_
  · intro y1 y2 y3
    apply State.sealNow_srckept
    exact y3
  · exact h

theorem State.sealsAfter_srckept {r s : State} (h : SrcKept r s) : SrcKept r (s.sealsAfter) := by
  unfold State.sealsAfter
  apply State.copiesStart_srckept
  refine SrcKept.ite ?_ ?_
  · apply State.sealStart_srckept
    exact h
  · exact h

theorem State.modEng_srckept {r s : State} (h : SrcKept r s) (e : Nat) (f : Eng → Eng) : SrcKept r (s.modEng e f) := by
  unfold State.modEng
  apply State.modPlt_srckept
  exact h

theorem State.rotBegin_srckept {r s : State} (h : SrcKept r s) : SrcKept r (s.rotBegin) := by
  unfold State.rotBegin
  split
  · refine SrcKept.ite ?_ ?_
    · apply State.modEng_srckept
      exact h
    · exact h
  · exact h

theorem State.rotAfter_srckept {r s : State} (h : SrcKept r s) (s0 : State) : SrcKept r (s0.rotAfter s) := by
  unfold State.rotAfter
  split
  · refine SrcKept.ite ?_ ?_
    · apply State.rotBegin_srckept
      exact h
    · exact h
  · exact h

theorem State.unitsAfter_srckept {r s : State} (h : SrcKept r s) (s0 : State) : SrcKept r (s0.unitsAfter s) := by
  unfold State.unitsAfter
  extract_lets x1 x2
  have hx1 : SrcKept r x1 := by
    unfold x1
    apply State.sealsAfter_srckept
    apply State.detSettleAll_srckept
    apply State.alnNote_srckept
    apply State.startSnapshots_srckept
    apply State.rotAfter_srckept
    exact h
  clear_value x1
  have hx2 : SrcKept r x2 := by
    unfold x2
    apply State.snapAfter_srckept
    apply State.composeAfter_srckept
    exact hx1
  clear_value x2
  apply State.spillSync_srckept
  apply State.mtrRefuseEnd_srckept
  apply State.shutdownGo_srckept
  apply State.afterHandover_srckept
  exact hx2

theorem State.after_srckept {r s : State} (h : SrcKept r s) (s0 : State) : SrcKept r (s0.after s) := by
  unfold State.after
  apply State.msixAfter_srckept
  apply State.pwrAfter_srckept
  apply State.unitsAfter_srckept
  exact h

end Sys2Proof.Machine
end

