-- ==== Sys2Proof/Laws/TapKeptBase.lean ====
section
/-! SUPPORT. The relation TapKept: the metering tap and the pending sum as they are. It composes. -/

namespace Sys2Proof.Machine

/-- The metering tap, the pending sum and the freeze are unchanged. -/
structure TapKept (s t : State) : Prop where
  mtr_tap : t.mtr.tap = s.mtr.tap
  mtr_pendSum : t.mtr.pendSum = s.mtr.pendSum
  mtr_frozen : t.mtr.frozen = s.mtr.frozen

theorem TapKept.refl (s : State) : TapKept s s := ⟨rfl, rfl, rfl⟩

/-- A record update of other fields than those TapKept speaks of. -/
theorem TapKept.upd {r s t : State} (h : TapKept r s)
    (e0 : t.mtr.tap = s.mtr.tap) (e1 : t.mtr.pendSum = s.mtr.pendSum) (e2 : t.mtr.frozen = s.mtr.frozen) : TapKept r t :=
  ⟨e0.trans h.mtr_tap, e1.trans h.mtr_pendSum, e2.trans h.mtr_frozen⟩

theorem TapKept.ite {r a b : State} {c : Prop} [Decidable c] (ha : TapKept r a) (hb : TapKept r b) : TapKept r (if c then a else b) := by
  split <;> assumption

theorem TapKept.iteFst {α : Type} {r : State} {a b : State × α} {c : Prop} [Decidable c] (ha : TapKept r a.1) (hb : TapKept r b.1) :
    TapKept r (if c then a else b).1 := by
  split <;> assumption

theorem TapKept.ofFst {α : Type} {r s : State} {p : State × α} {a : α} (e : p = (s, a)) (h : TapKept r p.1) : TapKept r s := by
  rw [e] at h; exact h

theorem TapKept.foldl {α : Type} {r : State} {f : State → α → State} (hf : ∀ x a, TapKept r x → TapKept r (f x a)) :
    ∀ {s : State} (l : List α), TapKept r s → TapKept r (l.foldl f s)
  | _, [], h => h
  | s, a :: l, h => TapKept.foldl hf (s := f s a) l (hf s a h)

theorem TapKept.foldlFst {α β : Type} {r : State} {f : State × β → α → State × β} (hf : ∀ x a, TapKept r x.1 → TapKept r (f x a).1) :
    ∀ {s : State × β} (l : List α), TapKept r s.1 → TapKept r (l.foldl f s).1
  | _, [], h => h
  | s, a :: l, h => TapKept.foldlFst hf (s := f s a) l (hf s a h)

end Sys2Proof.Machine
end

