-- ==== Sys2Proof/Laws/TapKept.lean ====
section
/-! SUPPORT. Operations that leave the metering tap and the pending sum as they are -/

namespace Sys2Proof.Machine

/-! ### Ops.lean -/

theorem State.dramWrite_tapkept {r s : State} (h : TapKept r s) (a : Nat) (bs : List Byte) : TapKept r (s.dramWrite a bs) := by
  unfold State.dramWrite
  exact h.upd rfl rfl rfl

theorem State.setReg_tapkept {r s : State} (h : TapKept r s) (off : Nat) (v : Word) : TapKept r (s.setReg off v) := by
  unfold State.setReg
  exact h.upd rfl rfl rfl

theorem State.event_tapkept {r s : State} (h : TapKept r s) (off : Nat) (i : Nat) : TapKept r (s.event off i) := by
  unfold State.event
  apply State.setReg_tapkept
  exact h

theorem State.setReg64_tapkept {r s : State} (h : TapKept r s) (lo : Nat) (v : Nat) : TapKept r (s.setReg64 lo v) := by
  unfold State.setReg64
  apply State.setReg_tapkept
  apply State.setReg_tapkept
  exact h

theorem State.countBy_tapkept {r s : State} (h : TapKept r s) (lo : Nat) (n : Nat) : TapKept r (s.countBy lo n) := by
  unfold State.countBy
  apply State.setReg64_tapkept
  exact h

theorem State.count_tapkept {r s : State} (h : TapKept r s) (lo : Nat) : TapKept r (s.count lo) := by
  unfold State.count
  apply State.countBy_tapkept
  exact h

theorem State.advance_tapkept {r s : State} (h : TapKept r s) (t : Nat) : TapKept r (s.advance t) := by
  unfold State.advance
  extract_lets x1 x2
  refine TapKept.ite ?_ ?_
  · apply State.countBy_tapkept
    exact h.upd rfl rfl rfl
  · exact h

theorem State.logRaise_tapkept {r s : State} (h : TapKept r s) (cls : Nat) (src : Nat) (ev : Nat) (detail : List Nat) : TapKept r (s.logRaise cls src ev detail) := by
  unfold State.logRaise
  extract_lets x1
  exact h.upd rfl rfl rfl

theorem State.almSend_tapkept {r s : State} (h : TapKept r s) (i : AlmInput) : TapKept r (s.almSend i) := by
  unfold State.almSend
  extract_lets x1
  exact h.upd rfl rfl rfl

theorem State.deliver_tapkept {r s : State} (h : TapKept r s) (d : Delivery) : TapKept r (s.deliver d) := by
  unfold State.deliver
  extract_lets x1
  exact h.upd rfl rfl rfl

theorem State.mirrorItem_tapkept {r s : State} (h : TapKept r s) (item : Nat) (body : List Byte) : TapKept r (s.mirrorItem item body) := by
  unfold State.mirrorItem
  extract_lets x1 x2
  refine TapKept.ite ?_ ?_
  · refine TapKept.ite ?_ ?_
    · exact h.upd rfl rfl rfl
    · apply State.event_tapkept
      apply State.count_tapkept
      exact h.upd rfl rfl rfl
  · exact h

theorem State.leaseTake_tapkept {r s : State} (h : TapKept r s) (pool : Nat) (index : Nat) (owner : Nat) : TapKept r (s.leaseTake pool index owner) := by
  unfold State.leaseTake
  extract_lets x1
  exact h.upd rfl rfl rfl

/-! ### Power.lean -/

theorem State.wake_tapkept {r s : State} (h : TapKept r s) (src : Nat) : TapKept r (s.wake src) := by
  unfold State.wake
  extract_lets x1
  refine TapKept.ite ?_ ?_
  · exact h
  · apply State.event_tapkept
    apply State.setReg_tapkept
    exact h.upd rfl rfl rfl

theorem State.wakeIf_tapkept {r s : State} (h : TapKept r s) (i : Nat) : TapKept r (s.wakeIf i) := by
  unfold State.wakeIf
  refine TapKept.ite ?_ ?_
  · apply State.wake_tapkept
    exact h
  · exact h

/-! ### KeyStore.lean -/

theorem State.keyUseErr_tapkept {r s : State} (h : TapKept r s) : TapKept r (s.keyUseErr) := by
  unfold State.keyUseErr
  apply State.event_tapkept
  apply State.count_tapkept
  exact h

theorem State.cryptoStart_tapkept {r s s' : State} (h : TapKept r s) {o : CryptoOp} (e : s.cryptoStart o = some s') : TapKept r s' := by
  unfold State.cryptoStart at e
  split at e
  · split at e
    · cases e
      apply State.leaseTake_tapkept
      exact h.upd rfl rfl rfl
    · cases e
  · cases e

theorem State.requestSign_tapkept {r s : State} (h : TapKept r s) (use : CryptoUse) (slot : Nat) (msg : List Byte) :
    TapKept r (s.requestSign use slot msg).1 := by
  unfold State.requestSign
  extract_lets waits key
  clear_value key
  refine TapKept.iteFst ?_ (State.keyUseErr_tapkept h)
  split
  next e => exact State.cryptoStart_tapkept h e
  · exact State.count_tapkept h _

/-! ### Mtr.lean -/

theorem State.modPoint_tapkept {r s : State} (h : TapKept r s) (m : Nat) (f : MtrPoint → MtrPoint) : TapKept r (s.modPoint m f) := by
  unfold State.modPoint State.modMtr
  exact h.upd rfl rfl rfl

theorem State.modPulse_tapkept {r s : State} (h : TapKept r s) (m : Nat) (f : MtrPulse → MtrPulse) : TapKept r (s.modPulse m f) := by
  unfold State.modPulse State.modMtr
  exact h.upd rfl rfl rfl

theorem State.mtrCond_tapkept {r s : State} (h : TapKept r s) (m : Nat) (k : Nat) : TapKept r (s.mtrCond m k) := by
  unfold State.mtrCond
  extract_lets x1 x2 x3 x4 x5 x6 x7 x8 x9 x10 x11 x12 x13
  have hx10 : TapKept r x10 := by
    unfold x10
    apply State.modPoint_tapkept
    exact h
  clear_value x10
  have hx13 : TapKept r x13 := by
    unfold x13
    apply State.almSend_tapkept
    exact hx10
  clear_value x13
  refine TapKept.ite ?_ ?_
  · refine TapKept.ite ?_ ?_
    · apply State.event_tapkept
      exact hx13
    · exact hx13
  · exact hx10

theorem State.pulseAdd_tapkept {r s : State} (h : TapKept r s) (o : Nat) (imp : Bool) (d : Nat) (start : Nat) (len : Nat) : TapKept r (s.pulseAdd o imp d start len) := by
  unfold State.pulseAdd
  extract_lets x1 x2 x3 x4 x5 x6 x7 x8
  have hx8 : TapKept r x8 := by
    unfold x8
    apply State.modPulse_tapkept
    exact h
  clear_value x8
  refine TapKept.ite ?_ ?_
  · apply State.event_tapkept
    exact hx8
  · exact hx8

theorem State.pulsesAdd_tapkept {r s : State} (h : TapKept r s) (m : Nat) (d : List Nat) (start : Nat) (len : Nat) : TapKept r (s.pulsesAdd m d start len) := by
  unfold State.pulsesAdd
  extract_lets x1
  refine TapKept.foldl ?_ _ ?_
  · intro y3 y4 y5
    extract_lets x7
    refine TapKept.ite ?_ ?_
    · split
      · apply State.pulseAdd_tapkept
        apply State.pulseAdd_tapkept
        exact y5
      · apply State.pulseAdd_tapkept
        exact y5
      · apply State.pulseAdd_tapkept
        exact y5
      · apply State.pulseAdd_tapkept
        exact y5
    · exact y5
  · exact h

theorem State.energyAdd_tapkept {r s : State} (h : TapKept r s) (m : Nat) (d : List Nat) (start : Nat) (len : Nat) : TapKept r (s.energyAdd m d start len) := by
  unfold State.energyAdd
  extract_lets x1 x2 x3
  have hx2 : TapKept r x2 := by
    unfold x2
    apply State.modPoint_tapkept
    exact h
  clear_value x2
  have hx3 : TapKept r x3 := by
    unfold x3
    refine TapKept.ite ?_ ?_
    · apply State.event_tapkept
      exact hx2
    · exact hx2
  clear_value x3
  apply State.pulsesAdd_tapkept
  exact hx3

theorem State.netEnd_tapkept {r s : State} (h : TapKept r s) (m : Nat) (start : Nat) (len : Nat) : TapKept r (s.netEnd m start len) := by
  unfold State.netEnd
  extract_lets x1
  apply State.modPoint_tapkept
  apply State.energyAdd_tapkept
  exact h

theorem State.secondEnd_tapkept {r s : State} (h : TapKept r s) (m : Nat) : TapKept r (s.secondEnd m) := by
  unfold State.secondEnd
  apply State.modPoint_tapkept
  exact h

theorem State.mtrCompare_tapkept {r s : State} (h : TapKept r s) (m : Nat) (end_ : Nat) : TapKept r (s.mtrCompare m end_) := by
  unfold State.mtrCompare
  extract_lets x1 x2
  split
  · refine TapKept.ite ?_ ?_
    · apply State.count_tapkept
      apply State.event_tapkept
      exact h
    · exact h
  · exact h

theorem State.mtrMirror_tapkept {r s : State} (h : TapKept r s) (m : Nat) (body : List Byte) : TapKept r (s.mtrMirror m body) := by
  unfold State.mtrMirror
  extract_lets x1 x2 x3 x4 x5
  have hx5 : TapKept r x5 := by
    unfold x5
    exact h.upd rfl rfl rfl
  clear_value x5
  apply State.mtrCompare_tapkept
  apply State.mirrorItem_tapkept
  exact hx5

theorem State.mtrRecordWrite_tapkept {r s : State} (h : TapKept r s) (m : Nat) (body : List Byte) (sig : Option (List Byte)) : TapKept r (s.mtrRecordWrite m body sig) := by
  unfold State.mtrRecordWrite State.modMtr
  extract_lets s0 signed size n s1a s1 all fl s2 s3 s4
  have h0 : TapKept r s0 := by
    unfold s0; split
    · exact h
    · exact State.count_tapkept (State.event_tapkept h _ _) _
  have h1a : TapKept r s1a := (State.dramWrite_tapkept h0 _ _).upd rfl rfl rfl
  have h1 : TapKept r s1 := TapKept.ite (TapKept.ite (State.event_tapkept h1a _ _) h1a) h0
  have h2 : TapKept r s2 := h1.upd rfl rfl rfl
  have h3 : TapKept r s3 := TapKept.ite (State.deliver_tapkept h2 _) h2
  have h4 : TapKept r s4 := State.mtrMirror_tapkept h3 _ _
  exact State.count_tapkept (State.event_tapkept h4 _ _) _

theorem State.intervalEnd_tapkept {r s : State} (h : TapKept r s) (m e : Nat) (a b : Bool) : TapKept r (s.intervalEnd m e a b) := by
  unfold State.intervalEnd State.modMtr
  dsimp only
  refine State.modPoint_tapkept (TapKept.ite ?_ ?_) _ _
  · exact State.event_tapkept (State.count_tapkept h _) _ _
  · have hs : ∀ (y : State) (u : CryptoUse) (n : Nat) (bd : List Byte), TapKept r y →
        TapKept r (if (y.requestSign u n bd).2 = true then (y.requestSign u n bd).1 else ((y.requestSign u n bd).1).mtrRecordWrite m bd none) := by
      intro y u n bd hy
      have k := State.requestSign_tapkept hy u n bd
      exact TapKept.ite k (State.mtrRecordWrite_tapkept k _ _ _)
    apply hs
    refine TapKept.ite ?_ (State.modPoint_tapkept h _ _)
    have hb : ∀ y : State, TapKept r y → TapKept r { y with mtr := { y.mtr with bridging := false } } := fun y hy => hy.upd rfl rfl rfl
    exact State.almSend_tapkept (hb _ (State.modPoint_tapkept h _ _)) _

theorem State.backupSave_tapkept {r s : State} (h : TapKept r s) (pfw : Bool) : TapKept r (s.backupSave pfw) := by
  unfold State.backupSave
  extract_lets x1 x2 x3 x4 x5
  have hx5 : TapKept r x5 := by
    unfold x5
    exact h.upd rfl rfl rfl
  clear_value x5
  apply State.count_tapkept
  exact hx5

theorem State.periodicSaves_tapkept {r s : State} (h : TapKept r s) (b : Bool) : TapKept r (s.periodicSaves b) := by
  unfold State.periodicSaves
  extract_lets x1 x2 x3
  have hx2 : TapKept r x2 := by
    unfold x2
    refine TapKept.ite ?_ ?_
    · apply State.backupSave_tapkept
      exact h
    · exact h
  clear_value x2
  refine TapKept.ite ?_ ?_
  · unfold State.modMtr
    exact hx2.upd rfl rfl rfl
  · exact hx2

theorem State.outageFix_tapkept {r s : State} (h : TapKept r s) (open_ : Nat) : TapKept r (s.outageFix open_) := by
  unfold State.outageFix
  refine TapKept.ite ?_ ?_
  · unfold State.modMtr
    refine TapKept.upd (s := s.setReg Reg.MTR_OUTAGE_MS
  (BitVec.ofNat 32
    (match s.mtr.outageFrom with
    | some t => msUp t open_
    | none => 4294967295))) ?_ rfl rfl rfl
    apply State.setReg_tapkept
    exact h
  · exact h

theorem State.netClose_tapkept {r s : State} (h : TapKept r s) (m : Nat) (start : Nat) : TapKept r (s.netClose m start) := by
  unfold State.netClose
  split
  · apply State.netEnd_tapkept
    exact h
  · apply State.netEnd_tapkept
    exact h
  · exact h

theorem State.pointInterval_tapkept {r s : State} (h : TapKept r s) (m : Nat) (cyc : MtrCyc) : TapKept r (s.pointInterval m cyc) := by
  unfold State.pointInterval
  extract_lets x1 x2 x3 x4 x5
  have hx5 : TapKept r x5 := by
    unfold x5
    refine TapKept.ite ?_ ?_
    · apply State.netClose_tapkept
      exact h
    · exact h
  clear_value x5
  refine TapKept.ite ?_ ?_
  · apply State.modPoint_tapkept
    exact hx5
  · refine TapKept.ite ?_ ?_
    · exact hx5
    · apply State.modPoint_tapkept
      apply State.intervalEnd_tapkept
      exact hx5

theorem State.pointSecond_tapkept {r s : State} (h : TapKept r s) (m : Nat) (cyc : MtrCyc) : TapKept r (s.pointSecond m cyc) := by
  unfold State.pointSecond
  apply State.modPoint_tapkept
  exact h

theorem State.pointEnergy_tapkept {r s : State} (h : TapKept r s) (m : Nat) (cyc : MtrCyc) (q : MtrQuant) : TapKept r (s.pointEnergy m cyc q) := by
  unfold State.pointEnergy
  extract_lets x1 x2 x3 x4
  refine TapKept.ite ?_ ?_
  · exact h
  · refine TapKept.ite ?_ ?_
    · apply State.energyAdd_tapkept
      exact h
    · apply State.modPoint_tapkept
      exact h

theorem State.pointEnds_tapkept {r s : State} (h : TapKept r s) (m : Nat) (cyc : MtrCyc) : TapKept r (s.pointEnds m cyc) := by
  unfold State.pointEnds
  extract_lets x1 x2 x3 x4 x5 x6 x7
  have hx6 : TapKept r x6 := by
    unfold x6
    refine TapKept.ite ?_ ?_
    · apply State.netClose_tapkept
      exact h
    · exact h
  clear_value x6
  have hx7 : TapKept r x7 := by
    unfold x7
    refine TapKept.ite ?_ ?_
    · apply State.secondEnd_tapkept
      exact hx6
    · exact hx6
  clear_value x7
  refine TapKept.ite ?_ ?_
  · apply State.intervalEnd_tapkept
    exact hx7
  · exact hx7

theorem State.pointGap_tapkept {r s : State} (h : TapKept r s) (m : Nat) (cyc : MtrCyc) : TapKept r (s.pointGap m cyc) := by
  unfold State.pointGap
  extract_lets x1
  refine TapKept.ite ?_ ?_
  · apply State.secondEnd_tapkept
    refine TapKept.ite ?_ ?_
    · apply State.netClose_tapkept
      exact h
    · exact h
  · exact h

theorem State.pointAccumulate_tapkept {r s : State} (h : TapKept r s) (m : Nat) (cyc : MtrCyc) (q : MtrQuant) : TapKept r (s.pointAccumulate m cyc q) := by
  unfold State.pointAccumulate
  apply State.pointEnds_tapkept
  apply State.pointEnergy_tapkept
  apply State.pointSecond_tapkept
  apply State.pointInterval_tapkept
  apply State.pointGap_tapkept
  apply State.outageFix_tapkept
  exact h

theorem State.intervalCut_tapkept {r s : State} (h : TapKept r s) (m : Nat) (mark : Nat) : TapKept r (s.intervalCut m mark) := by
  unfold State.intervalCut
  extract_lets x1
  have hx1 : TapKept r x1 := by
    unfold x1
    apply State.secondEnd_tapkept
    apply State.netClose_tapkept
    exact h
  clear_value x1
  refine TapKept.ite ?_ ?_
  · apply State.intervalEnd_tapkept
    exact hx1
  · exact hx1

theorem State.pointReset_tapkept {r s : State} (h : TapKept r s) (m : Nat) (mark : Nat) : TapKept r (s.pointReset m mark) := by
  unfold State.pointReset
  extract_lets x1
  have hx1 : TapKept r x1 := by
    unfold x1
    refine TapKept.ite ?_ ?_
    · apply State.intervalCut_tapkept
      exact h
    · exact h
  clear_value x1
  refine TapKept.ite ?_ ?_
  · apply State.logRaise_tapkept
    apply State.modPoint_tapkept
    exact hx1
  · exact h

theorem State.mtrAdopt_tapkept {r s : State} (h : TapKept r s) (m : Nat) : TapKept r (s.mtrAdopt m) := by
  unfold State.mtrAdopt
  extract_lets x1 x2 x3 x4
  have hx4 : TapKept r x4 := by
    unfold x4
    refine TapKept.foldl ?_ _ ?_
    · intro y5 y6 y7
      refine TapKept.ite ?_ ?_
      · apply State.intervalCut_tapkept
        exact y7
      · exact y7
    · exact h
  clear_value x4
  refine TapKept.ite ?_ ?_
  · exact h
  · unfold State.modMtr
    exact hx4.upd rfl rfl rfl

theorem State.cycleMeasure_tapkept {r s : State} (h : TapKept r s) (cyc : MtrCyc) : TapKept r (s.cycleMeasure cyc) := by
  unfold State.cycleMeasure
  extract_lets x1 x2
  have hx2 : TapKept r x2 := by
    unfold x2
    refine TapKept.foldl ?_ _ ?_
    · intro y4 y5 y6
      extract_lets x8 x9 x10 x11
      have hx9 : TapKept r x9 := by
        unfold x9
        apply State.modPoint_tapkept
        exact y6
      clear_value x9
      have hx11 : TapKept r x11 := by
        unfold x11
        refine TapKept.foldl ?_ _ ?_
        · intro y15 y16 y17
          refine TapKept.ite ?_ ?_
          · apply State.setReg_tapkept
            exact y17
          · exact y17
        · exact hx9
      clear_value x11
      refine TapKept.ite ?_ ?_
      · refine TapKept.foldl ?_ _ ?_
        · intro y25 y26 y27
          apply State.mtrCond_tapkept
          exact y27
        · exact hx11
      · exact y6
    · exact h
  clear_value x2
  apply State.count_tapkept
  exact hx2

theorem State.cycleAccumulate_tapkept {r s : State} (h : TapKept r s) (c : MtrCyc) (b : Bool) : TapKept r (s.cycleAccumulate c b) := by
  unfold State.cycleAccumulate
  extract_lets s1 s2
  have h1 : TapKept r s1 := TapKept.foldl (fun y a hy => TapKept.ite (State.pointAccumulate_tapkept hy _ _ _) hy) _ h
  have h2 : TapKept r s2 := by unfold s2 State.modMtr; exact h1.upd rfl rfl rfl
  exact State.mtrAdopt_tapkept (TapKept.foldl (fun y a hy => State.pointReset_tapkept hy _ _) _ h2) _

theorem State.pfwSet_tapkept {r s : State} (h : TapKept r s) (on : Bool) : TapKept r (s.pfwSet on) := by
  unfold State.pfwSet
  extract_lets x1
  apply State.logRaise_tapkept
  exact h.upd rfl rfl rfl

end Sys2Proof.Machine
end

