-- ==== Sys2Proof/Laws/TaskKeptBase.lean ====
section
/-! SUPPORT. The relation TaskKept: the pilot's descriptors and completions as they are. It composes. -/

namespace Sys2Proof.Machine

/-- The task descriptors and the completions to their owners are unchanged. -/
structure TaskKept (s t : State) : Prop where
  plt_tasks : t.plt.tasks = s.plt.tasks
  plt_done : t.plt.done = s.plt.done

theorem TaskKept.refl (s : State) : TaskKept s s := ⟨rfl, rfl⟩

/-- A record update of other fields than those TaskKept speaks of. -/
theorem TaskKept.upd {r s t : State} (h : TaskKept r s)
    (e0 : t.plt.tasks = s.plt.tasks) (e1 : t.plt.done = s.plt.done) : TaskKept r t :=
  ⟨e0.trans h.plt_tasks, e1.trans h.plt_done⟩

theorem TaskKept.ite {r a b : State} {c : Prop} [Decidable c] (ha : TaskKept r a) (hb : TaskKept r b) : TaskKept r (if c then a else b) := by
  split <;> assumption

theorem TaskKept.iteFst {α : Type} {r : State} {a b : State × α} {c : Prop} [Decidable c] (ha : TaskKept r a.1) (hb : TaskKept r b.1) :
    TaskKept r (if c then a else b).1 := by
  split <;> assumption

theorem TaskKept.ofFst {α : Type} {r s : State} {p : State × α} {a : α} (e : p = (s, a)) (h : TaskKept r p.1) : TaskKept r s := by
  rw [e] at h; exact h

theorem TaskKept.foldl {α : Type} {r : State} {f : State → α → State} (hf : ∀ x a, TaskKept r x → TaskKept r (f x a)) :
    ∀ {s : State} (l : List α), TaskKept r s → TaskKept r (l.foldl f s)
  | _, [], h => h
  | s, a :: l, h => TaskKept.foldl hf (s := f s a) l (hf s a h)

theorem TaskKept.foldlFst {α β : Type} {r : State} {f : State × β → α → State × β} (hf : ∀ x a, TaskKept r x.1 → TaskKept r (f x a).1) :
    ∀ {s : State × β} (l : List α), TaskKept r s.1 → TaskKept r (l.foldl f s).1
  | _, [], h => h
  | s, a :: l, h => TaskKept.foldlFst hf (s := f s a) l (hf s a h)

end Sys2Proof.Machine
end

