-- ==== Sys2Proof/Laws/TaskKept.lean ====
section
/-! SUPPORT. What leaves the task descriptors as they are. -/

namespace Sys2Proof.Machine

/-! ### Ops.lean -/

theorem State.leaseRevoke_taskkept {r s : State} (h : TaskKept r s) (owner : Nat) : TaskKept r (s.leaseRevoke owner) := by
  unfold State.leaseRevoke
  exact h.upd rfl rfl

/-! ### KeyStore.lean -/

theorem State.deriveStart_taskkept {r s : State} (h : TaskKept r s) (slot : Nat) : TaskKept r (s.deriveStart slot) := by
  unfold State.deriveStart
  extract_lets x1
  refine TaskKept.ite ?_ ?_
  · exact h.upd rfl rfl
  · exact h

/-! ### Pilot.lean -/

theorem State.modEng_taskkept {r s : State} (h : TaskKept r s) (e : Nat) (f : Eng → Eng) : TaskKept r (s.modEng e f) := by
  unfold State.modEng State.modPlt
  exact h.upd rfl rfl

theorem State.pilotResume_taskkept {r s : State} (h : TaskKept r s) : TaskKept r s.pilotResume := by
  have fire : ∀ (s : State) (c q : Nat) (low : Bool), TaskKept r s → TaskKept r (let w := s.plt.waitingSet.filter fun x => x.1 == q
      if low && !w.isEmpty then
        let mine (r : TaskReq) : Bool := r.cls + (if 6 ≤ r.prio then 8 else 0) == q
        s.modPlt fun p => { p with
          waitingSet := p.waitingSet.filter fun x => x.1 != q
          resumes := p.resumes ++ w.map fun x => (c, x.2)
          wants := p.held.filter mine ++ p.wants
          held := p.held.filter fun r => !mine r }
      else s) := by
    intro s c q low h
    dsimp only
    split
    · unfold State.modPlt; exact h.upd rfl rfl
    · exact h
  unfold State.pilotResume
  exact TaskKept.foldl (fun y c hy => fire _ c (c + 8) _ (fire y c c _ hy)) _ h

theorem State.passRoles_taskkept {r s : State} (h : TaskKept r s) (e : Nat) : TaskKept r (s.passRoles e) := by
  unfold State.passRoles
  split
  · refine TaskKept.foldl ?_ _ h
    intro y a hy
    dsimp only
    split
    · split
      · unfold State.modPlt; exact hy.upd rfl rfl
      · exact hy
    · exact hy
  · split
    · rename_i x _
      dsimp only
      have h1 : TaskKept r (if s.plt.lpeEng = e then { (s.modPlt fun p => { p with lpeEng := x }) with fe := { s.fe with lpeBlockedTill := s.dt } } else s) := by
        split
        · unfold State.modPlt; exact h.upd rfl rfl
        · exact h
      generalize (if s.plt.lpeEng = e then { (s.modPlt fun p => { p with lpeEng := x }) with fe := { s.fe with lpeBlockedTill := s.dt } } else s) = y at h1
      split
      · apply State.deriveStart_taskkept; unfold State.modPlt; exact h1.upd rfl rfl
      · exact h1
    · exact h
  · split
    · exact h.upd rfl rfl
    · exact h
  · exact h

theorem State.rotOut_taskkept {r s : State} (h : TaskKept r s) (a1 : Rot) : TaskKept r (s.rotOut a1) := by
  unfold State.rotOut
  extract_lets x1
  have hx1 : TaskKept r x1 := by
    unfold x1
    apply State.leaseRevoke_taskkept
    apply State.passRoles_taskkept
    exact h
  clear_value x1
  apply State.modEng_taskkept
  exact hx1

theorem State.rotCheck_taskkept {r s : State} (h : TaskKept r s) : TaskKept r (s.rotCheck) := by
  unfold State.rotCheck
  split
  · exact h
  · extract_lets x3
    refine TaskKept.ite ?_ ?_
    · apply State.rotOut_taskkept
      exact h
    · exact h

end Sys2Proof.Machine
end

