-- ==== Sys2Proof/Tests/Slice0.lean ====
section
/-! SUPPORT. Tests. First: each check of WellFormed accepts a command and refuses one, and no word spells a command. Then: values
the manual works out or tabulates, each by one command or one function on the state after reset. Last: for each statement of
Certificates/Slice0 that has hypotheses, states and operands that meet them, so that no clause is empty. -/

namespace Sys2Proof.Tests

/- One theorem after another: each evaluates in the kernel, and all at once would ask for more threads than a checker has. -/
set_option Elab.async false

open Sys2Proof.Machine

/-! ### WellFormed: the boundary value of each range is accepted, the next one refused -/

theorem test_wf_ports_and_time :
    (Instr.linkLockAcquired 5).wf = true ∧ (Instr.linkLockAcquired 6).wf = false ∧
    (Instr.tbSrcCfgWrite 5 0).wf = true ∧ (Instr.tbSrcCfgWrite 6 0).wf = false ∧
    (Instr.ptpEventMessageTx 3).wf = true ∧ (Instr.ptpEventMessageTx 4).wf = false ∧
    (Instr.txTimestampReturn 5 ⟨3, .pdelayReq, 65535⟩ 0).wf = true ∧ (Instr.txTimestampReturn 5 ⟨3, .pdelayReq, 65536⟩ 0).wf = false ∧
    (Instr.wholeTaiSecond 32767 []).wf = true ∧ (Instr.wholeTaiSecond 32768 []).wf = false ∧
    (Instr.coreReset 5 ⟨0, true, true, true, true, true⟩).wf = true ∧ (Instr.coreReset 6 ⟨0, true, true, true, true, true⟩).wf = false ∧
    (Instr.hifReset 2).wf = true ∧ (Instr.hifReset 3).wf = false := by decide

theorem test_wf_accesses :
    (Instr.registerWrite 0xFFFFFC 0).wf = true ∧ (Instr.registerWrite 0x1000000 0).wf = false ∧ (Instr.registerWrite 2 0).wf = false ∧
    (Instr.missizedAccess true 0xFFFE 2 true).wf = true ∧ (Instr.missizedAccess true 0x10000 2 true).wf = false ∧
    (Instr.missizedAccess false 4 4 true).wf = false ∧ (Instr.missizedAccess false 6 4 true).wf = true ∧
    (Instr.missizedAccess false 4 65 true).wf = false := by decide

theorem test_wf_units :
    (Instr.pulseStart 5).wf = true ∧ (Instr.pulseStart 6).wf = false ∧
    (Instr.mtrPointLatchRead 2).wf = true ∧ (Instr.mtrPointLatchRead 3).wf = false ∧
    (Instr.oscFold 255).wf = true ∧ (Instr.oscFold 256).wf = false ∧
    (Instr.lhPulseEnd 15).wf = true ∧ (Instr.lhPulseEnd 16).wf = false ∧
    (Instr.almKeepalive 3).wf = true ∧ (Instr.almKeepalive 4).wf = false ∧
    (Instr.alarmAcknowledge 1087 (2 ^ 32 - 1)).wf = true ∧ (Instr.alarmAcknowledge 1088 0).wf = false ∧
    (Instr.alarmAcknowledge 0 (2 ^ 32)).wf = false ∧
    (Instr.feChannelCondition 23 true true).wf = true ∧ (Instr.feChannelCondition 24 true true).wf = false ∧
    (Instr.feSampleSet 0 (List.replicate 24 []) 60 60).wf = true ∧
    (Instr.feSampleSet 0 (List.replicate 23 []) 60 60).wf = false ∧
    (Instr.lpeEstimate 15 0 0 0).wf = true ∧ (Instr.lpeEstimate 16 0 0 0).wf = false ∧
    (Instr.capEnd 3).wf = true ∧ (Instr.capEnd 4).wf = false ∧
    (Instr.trgLineStuck 3).wf = true ∧ (Instr.trgLineStuck 4).wf = false := by decide

theorem test_wf_engines_and_debug :
    (Instr.engineRejoinDone 31).wf = true ∧ (Instr.engineRejoinDone 32).wf = false ∧
    (Instr.taskDispatch 5).wf = true ∧ (Instr.taskDispatch 6).wf = false ∧
    (Instr.taskAbort ⟨4095, 255⟩ 63).wf = true ∧ (Instr.taskAbort ⟨4096, 0⟩ 0).wf = false ∧ (Instr.taskAbort ⟨0, 256⟩ 0).wf = false ∧
    (Instr.taskAbort ⟨0, 0⟩ 64).wf = false ∧
    (Instr.engCntPreload 31 7 0).wf = true ∧ (Instr.engCntPreload 31 8 0).wf = false ∧
    (Instr.memapRead (2 ^ 32 - 1)).wf = true ∧ (Instr.memapRead (2 ^ 32)).wf = false ∧
    (Instr.dbgUnlock 255 (List.replicate 64 0)).wf = true ∧ (Instr.dbgUnlock 256 (List.replicate 64 0)).wf = false ∧
    (Instr.dbgUnlock 1 (List.replicate 63 0)).wf = false := by decide

theorem test_wf_host_keys_twin_faults :
    (Instr.nop 15).wf = true ∧ (Instr.nop 16).wf = false ∧
    (Instr.keyDeriveDone 56).wf = true ∧ (Instr.keyDeriveDone 55).wf = false ∧ (Instr.keyDeriveDone 64).wf = false ∧
    (Instr.cryptoOpDone 7).wf = true ∧ (Instr.cryptoOpDone 8).wf = false ∧
    (Instr.aizLaneUp 1).wf = true ∧ (Instr.aizLaneUp 2).wf = false ∧
    (Instr.hbWordRx (2 ^ 48 - 1)).wf = true ∧ (Instr.hbWordRx (2 ^ 48)).wf = false ∧
    (Instr.faultPairBroken 95).wf = true ∧ (Instr.faultPairBroken 96).wf = false ∧
    (Instr.faultEvent (some ⟨96, 0, 0, 0, false⟩)).wf = false ∧ (Instr.faultEvent (some ⟨95, 63, 0, 0, false⟩)).wf = true ∧
    (Instr.faultEvent (some ⟨95, 64, 0, 0, false⟩)).wf = false ∧ (Instr.faultEvent none).wf = true ∧
    (Instr.bstCtrlSlice 47).wf = true ∧ (Instr.bstCtrlSlice 48).wf = false ∧
    (Instr.pwrWake 1).wf = true ∧ (Instr.pwrWake 7).wf = true ∧ (Instr.pwrWake 0).wf = false ∧ (Instr.pwrWake 8).wf = false ∧
    (Instr.rtcGroupRead 2 0).wf = true ∧ (Instr.rtcGroupRead 3 0).wf = false := by decide

/-- The table gives no row any bits. -/
theorem test_no_word_spells_a_command (nbits w : Nat) : decodeTableWord nbits w = none := rfl

/-! ### Values of the manual -/

/-- The next state a command answers, if it answers one. -/
def next? (c : Instr) (s : State) : Option State :=
  match exec c s with
  | .next t => some t
  | _ => none

/-- R122: the CRC of "123456789". -/
theorem test_crc_ccitt : crcCcitt (ascii "123456789") = 0x29B1 := by decide +kernel

/-- The Reset column of TB_STATUS (R97) and of ID_PART (R50). -/
theorem test_reset_columns :
    State.reset.viewReg Reg.TB_STATUS = 0x0000C060 ∧ State.reset.viewReg Reg.ID_PART = 0x82400000 := by decide

/-- R13: the engines of an FN-8220. -/
theorem test_engine_mask_fn8220 :
    ({ State.reset with hw := { State.reset.hw with variant := .fn8220 } } : State).viewReg Reg.ID_ENG_MASK = 0xCF0FFFFF := by decide

/-- R56: a seconds value just past the wrap of the reference, and just before it; the widened value is never negative. -/
theorem test_widen : widen 1 (2 ^ 32 - 1) = 2 ^ 32 + 1 ∧ widen 0xFFFFFFFF (2 ^ 32) = 2 ^ 32 - 1 ∧ widen 0xFFFFFFFF 0 = 0 := by decide

/-- R85, R86: the codes at the edges of U. -/
theorem test_quality_codes :
    mtqOf .locked true 1000 = 0 ∧ mtqOf .locked true 1001 = 5 ∧ mtqOf .locked false 1 = 1 ∧ mtqOf .holdover true (10 ^ 10) = 0xB ∧
    mtqOf .holdover true (10 ^ 10 + 1) = 0xF ∧ mtqOf .freeRun true 0 = 0xF ∧
    ptqOf .locked 99 = 1 ∧ ptqOf .locked 100 = 2 ∧ ptqOf .degraded 9999999 = 6 ∧ ptqOf .degraded 10000000 = 7 ∧ ptqOf .freeRun 0 = 7 := by
  decide

/-- R449: a latency tolerance above 1,000,000 µs is clamped. -/
theorem test_ltr_clamped : (next? (.pwrLtrWrite 0xFFFFF) State.reset).map (·.reg Reg.PWR_LTR) = some 1000000 := by decide

/-- R526: a second that passes is counted and its fraction starts from 0. -/
theorem test_rtc_counts :
    (next? .rtcSecondRollover { State.reset with bkp := { State.reset.bkp with rtc := ⟨41, 32767⟩ } }).map (·.bkp.rtc) = some ⟨42, 0⟩ := by
  decide

/-- R101: lock takes a port that is DOWN to TRAINING, and leaves a DISABLED port alone. -/
theorem test_lock :
    (next? (.linkLockAcquired 0) { State.reset with mac := { State.reset.mac with port := [{ link := .down }] } }).map (fun t => (t.port 0).link) =
      some .training ∧
    (next? (.linkLockAcquired 0) State.reset).map (fun t => (t.port 0).link) = some .disabled := by decide

/-- R275: a PROVISIONAL decision makes a free slot PROV, a direct raise makes it CONF. -/
theorem test_alarm_states :
    (({} : AlmSlot).apply { op := .provisional, src := 2, sub := 0, kind := 1, key := 0, sev := 2 }).st = .prov ∧
    (({} : AlmSlot).apply { op := .raise, src := 7, sub := 0, kind := 1, key := 0, sev := 2 }).st = .conf := by decide

/-- R536: a write of RTC_RST_CTRL other than the key does nothing. -/
theorem test_reset_key :
    (next? (.rtcRstCtrlWrite 0x5A5A0002 ⟨0, true, true, true, true, true⟩) { State.reset with rdata := 9 }).map (·.rdata) = some 9 := by decide

/-! ### Helpers of the witnesses -/

/-- A manifest of an opcode, its operand bytes from byte 20 on. -/
def manifest (op : Nat) (operands : List Byte) : Fetched := { mid := 7, bytes := padTo 64 (leBytes 2 op ++ List.replicate 18 0 ++ operands) }

/-- The state after reset with a running ring pair 0 that holds one manifest. -/
def holding (op : Nat) (operands : List Byte) : State :=
  { State.reset with hif := { State.reset.hif with ring := [{ st := .running, fetched := [manifest op operands] }] } }

/-- The state after reset with some registers written. -/
def withRegs (l : List (Nat × Word)) : State := l.foldl (fun s p => s.setReg p.1 p.2) State.reset

/-- A quay of reporting instant 0. -/
def quay : Quay := { seq := 3, sec := 0, k := 0, rate := 50, instant := 0 }

/-- The state after reset with quays. -/
def withQuays (l : List Quay) : State := { State.reset with aln := { State.reset.aln with quays := l } }

/-- Writes of the registers that the statements name reach their units in the state after reset, and reads do. -/
theorem witness_reaches :
    (∀ o ∈ [Reg.OSC_CTRL, Reg.ISL_CTRL, Reg.ISL_NODE_SEL, Reg.ISL_BR_SEL, Reg.ALN_CTRL, Reg.ALN_RING_BASE_HI, Reg.ALN_PROBE_SEQ_HI,
      Reg.BIN_DIR_CTRL, Reg.ALM_ACK, Reg.ALM_HOST, Reg.FE_CTRL, Reg.FE_CAL_SWAP, Reg.MTR_CTRL, Reg.CAP_CH_CTRL 3, Reg.CAP_TRG_OUT,
      Reg.CAP_WIN_DATA, Reg.FE_WIN_DATA, Reg.LOG_RING_BASE_HI, Reg.PLT_TASK_SEL, Reg.PLT_ROT_CTRL, Reg.PLT_RL_CAP 5, Reg.PLT_CNT_CTRL,
      Reg.ENG_CNT_SEL 31 7, Reg.HIF_CTRL, Reg.HIF_RP_CTRL 15, Reg.CFG_SWIN_DATA, Reg.TWN_CFG, Reg.FLT_FER_REL, Reg.FLT_INJECT,
      Reg.FLT_RELEASE, Reg.PWR_LTR, Reg.RTC_CTRL, Reg.RTC_SET_FRAC, Reg.RTC_SET_SEC_HI, Reg.RTC_RST_CTRL, Reg.MAC_CTRL 5],
      State.reset.Reaches o 0x80000001) ∧
    State.reset.Reaches (Reg.ENG_CNT_CTRL 31) 2 ∧ State.reset.Reaches Reg.PLT_CNT_CTRL 2 ∧ State.reset.Reaches (Reg.CAP_CH_CTRL 0) 1 ∧
    State.reset.Reaches (Reg.CAP_CH_CTRL 0) 2 ∧ State.reset.Reaches (Reg.CAP_CH_CTRL 0) 4 ∧ State.reset.Reaches Reg.TWN_CTRL 6 ∧
    State.reset.Reaches Reg.TWN_CTRL 8 ∧ State.reset.Reaches Reg.TWN_CTRL 16 ∧ State.reset.Reaches Reg.FLT_CTRL 4 ∧
    State.reset.Reaches Reg.BST_CTRL 0x80002F00 ∧ State.reset.Reaches Reg.BST_CTRL 0x80000002 ∧ State.reset.Reaches Reg.BST_CTRL 0x40000000 ∧
    (∀ o ∈ [Reg.BIN_CFGCHG_FIFO, Reg.BIN_UNK_KEY, Reg.LOG_NONCE_LO, Reg.KEY_NONCE_LO, Reg.MTR_ENERGY_LO 2 0, Reg.TB_NOW_SUBNS], State.reset.Readable o) := by
  decide

/-- Every manifest of the opcode table can start: with its operands in range on a running ring pair. -/
theorem witness_manifests_start :
    (∀ op ∈ [0x0000, 0x0001, 0x0010, 0x0012, 0x0013, 0x0014, 0x0015, 0x0020, 0x0021, 0x0030, 0x0040, 0x0041, 0x0042, 0x0050, 0x0051, 0x0060, 0x0061,
      0x0070, 0x0072, 0x00A0, 0x00A1, 0x00A2, 0x00A3, 0x00A4, 0x00B0, 0x00B1, 0x00B2, 0x00C0, 0x00C1, 0x00C2],
      (holding op []).Starts 0 op (manifest op [])) ∧
    (holding 0x0011 [1]).Starts 0 0x0011 (manifest 0x0011 [1]) ∧ (holding 0x0031 [0, 0, 1, 1]).Starts 0 0x0031 (manifest 0x0031 [0, 0, 1, 1]) ∧
    (holding 0x0071 [31, 1]).Starts 0 0x0071 (manifest 0x0071 [31, 1]) := by decide

/-! ### Witnesses: every clause's hypotheses are met -/

/-- RegisterWriteTakesItsPath. -/
theorem witness_register_write :
    ({ State.reset with hw := { State.reset.hw with variant := .fn8220 } } : State).blockAbsent Reg.FE_CTRL = true ∧
    (State.reset.blockAbsent 0x20FFC = false ∧ rowAt 0x20FFC = none ∧ blockOf 0x20FFC ≠ .id) ∧
    (rowAt 0x4 = none ∧ blockOf 0x4 = .id) ∧
    (({ State.reset with flt := { State.reset.flt with fencedUnits := [13] } } : State).blockFenced Reg.CAP_TRG_CFG = true ∧
      (rowAt Reg.CAP_TRG_CFG).isSome) ∧
    (({ State.reset with pwr := { State.reset.pwr with state := 2 } } : State).blockStopped Reg.FE_CTRL = true ∧
      ({ State.reset with pwr := { State.reset.pwr with state := 3 } } : State).endsCondition (Reg.MAC_CTRL 0) 1 = true) := by
  decide +kernel

/-- PlainRegistersByAccessCode: one register of each access code. -/
theorem witness_plain_registers :
    (∀ o ∈ [Reg.PWR_WAKE_EN, Reg.PWR_EVT, Reg.PWR_STATUS], o % 4 = 0 ∧ State.reset.Reaches o 1 ∧ State.reset.writable o = true ∧ (rowAt o).isSome) ∧
    (rowAt Reg.PWR_WAKE_EN).map (·.acc) = some .rw ∧ (rowAt Reg.PWR_EVT).map (·.acc) = some .w1c ∧
    (rowAt Reg.PWR_STATUS).map (·.acc) = some .ro := by
  decide +kernel

/-- EventRegistersClearAndEnable and PairHalvesApplyTogether. -/
theorem witness_events_and_pairs :
    (∀ p ∈ evtRegs, State.reset.Reaches p.1 1 ∧ State.reset.Reaches p.2 1) ∧
    (∀ o ∈ [Reg.OSC_RING_BASE_HI, Reg.ISL_RING_BASE_HI, Reg.ISL_MEMB_BASE_HI, Reg.MTR_REC_BASE_HI, Reg.HIF_RP_SQ_BASE_HI 15, Reg.HIF_RP_DATA_BASE_HI 0],
      State.reset.Reaches o 1 ∧ State.reset.writable o = true ∧ State.reset.writable (o - 4) = true) := by
  decide +kernel

/-- PairHalvesApplyTogether, SetDeviceTimeFixesStep, ReadsReturnAndLatch and UnperformedAccessesRecorded: an entry of the leap table, a LO
half that waits and one that does not, a peak that is latched, and a write of any word that reaches its register. -/
theorem witness_held_halves :
    State.reset.Reaches Reg.TB_LEAP_0_HI 1 ∧ State.reset.writable Reg.TB_LEAP_0_HI = true ∧ State.reset.Reaches (Reg.TB_LEAP_LO 30) 1 ∧
    State.reset.writable (Reg.TB_LEAP_LO 30) = true ∧
    mapFind ({ State.reset with hold := [(Reg.TB_SET_SEC_LO, 5)] } : State).hold Reg.TB_SET_SEC_LO = some 5 ∧
    mapFind State.reset.hold Reg.TB_SET_SEC_LO = none ∧ (rowAt (Reg.MTR_PEAK 2 7)).map (·.acc) = some .rc ∧
    mapFind ({ State.reset with latch := [(Reg.MTR_PEAK 2 7, 5)] } : State).latch (Reg.MTR_PEAK 2 7) = some 5 ∧
    mapFind State.reset.latch (Reg.MTR_PEAK 2 7) = none := by
  decide +kernel

theorem witness_any_word_reaches (v : Word) : State.reset.freshNext.Reaches Reg.TB_CTRL v := by
  exact ⟨rfl, rfl, rfl, rfl⟩

/-- ReadsReturnAndLatch: a register of each kind of read. -/
theorem witness_reads :
    (rowAt Reg.TB_STEP_COUNT).map (·.acc) = some .rc ∧ State.reset.Readable Reg.TB_NOW_SUBNS ∧ (rowAt Reg.TB_NOW_SUBNS).map (·.kind) = some .ts ∧
    (rowAt Reg.LOG_WIN_DATA).map (·.kind) = some .win ∧ (rowAt (Reg.ALN_CNT_LO 0)).map (·.kind) = some .lo ∧ isPair (Reg.ALN_CNT_LO 0) = true := by
  decide +kernel

/-- WindowWritesStoreAndAdvance: a channel that is busy and one that is not. -/
theorem witness_windows :
    (State.reset.capCh (State.reset.fld Reg.CAP_WIN_ADDR 0 9 / 4 * 4 / 128)).busy = false ∧
    (({ State.reset with cap := { State.reset.cap with ch := [{ st := .armed }] } } : State).capCh 0).busy = true := by
  decide +kernel

/-- UnperformedAccessesRecorded. -/
theorem witness_unperformed :
    ¬(2 = 4 ∧ 0x20000 % 4 = 0) ∧ ¬(2 = 8 ∧ 0x20000 % 8 = 0 ∧ ((0x18000 ≤ 0x20000 ∧ 0x20000 < 0x18400) ∨ (0x19000 ≤ 0x20000 ∧ 0x20000 < 0x19008))) ∧
    State.reset.blockAbsent 0x20000 = false ∧ blockOf Reg.FE_CTRL ≠ .hif ∧ State.reset.Readable Reg.TB_CTRL ∧ State.reset.Reaches Reg.TB_CTRL 0 := by
  decide +kernel

/-- SetDeviceTimeFixesStep and LeapTableLoads: a time that is refused and one that is not; a table that is refused and one that is not. -/
theorem witness_set_and_leap :
    (State.reset.tb.dtState ≠ .locked ∧ (State.reset.reg Reg.TB_SET_NS).toNat < 1000000000) ∧
    1000000000 ≤ ((withRegs [(Reg.TB_SET_NS, 1000000000)]).reg Reg.TB_SET_NS).toNat ∧
    leapOk ((State.reset.setReg Reg.TB_LEAP_CTRL 1).leapEntries 1) = true ∧ leapOk ((State.reset.setReg Reg.TB_LEAP_CTRL 0).leapEntries 0) = false ∧
    (State.reset.cfg.commit = none ∧ State.reset.tb.grid.rate = 0) := by
  decide +kernel

/-- SourceSlotConfigured: each of its five cases. -/
theorem witness_source_slot :
    let cfg (old new : Word) : Word × Word :=
      let s := withRegs [(Reg.TB_SRC_CFG 5, old)]
      (s.reg (Reg.TB_SRC_CFG 5), (s.writeReg (Reg.TB_SRC_CFG 5) new).reg (Reg.TB_SRC_CFG 5))
    (cfg 1 0).1.getLsbD 0 = true ∧ (cfg 1 0).2.getLsbD 0 = false ∧ (cfg 0 1).1.getLsbD 0 = false ∧ (cfg 0 1).2.getLsbD 0 = true ∧
    (cfg 1 0x41).1.toNat / 16 ≠ (cfg 1 0x41).2.toNat / 16 ∧ (cfg 1 1).1.toNat / 16 = (cfg 1 1).2.toNat / 16 ∧ 5 < State.reset.tb.src.length := by
  decide +kernel

/-- A message to slot 0, whose register takes it on port 0. -/
def ptpMsg (kind : PtpKind) (interval : Int) : PtpMsg :=
  { port := 0, udp4 := false, domain := 0, sdoId := 0, kind := kind, sender := 9, seq := 1, logInterval := interval, correction := 0, rx := 0,
    srcIp := 0, srcMac := 0, auth := none, tlvNs := 0, bytes := [] }

/-- A one-step Sync of domain 0 in a frame for port 0, as a state's time base has it next. -/
def withSync (s : State) : State :=
  let b := List.replicate 12 0 ++ [0x88, 0xF7] ++ padTo 44 [0, 2, 0, 44]
  { s with tb := { s.tb with ptpQueue := [⟨0, b, 0, 0⟩] } }

/-- A Sync with an AUTHENTICATION TLV for port 0, and a key in slot 0 that may verify it. The tag is HMAC-SHA-256 from another
program (Python's hmac). -/
def withAuth (tag : Nat) : State :=
  let b := List.replicate 12 0 ++ [0x88, 0xF7] ++ padTo 44 [0, 2, 0, 70] ++ [0x80, 9, 0, 22] ++ List.replicate 6 0 ++ beBytes 16 tag
  let s := withRegs [(Reg.TB_SRC_CFG 0, 0x45)]
  { s with
    tb := { s.tb with ptpQueue := [⟨0, b, 0, 0⟩] }
    key := { s.key with slots := [(0, { typ := 2, usage := 2, material := List.replicate 32 7 })] } }

/-- PtpMessagesTaken: an authenticated message that passes and one that fails. -/
theorem witness_ptp_auth :
    let s := withAuth 0x03F80AF31E32C3CEE3A7E5DE9885551A
    let t (s : State) : Option Nat := (s.ptpHead 0).bind (s.ptpTaken 0).ptpSlot
    t s = some 0 ∧ ((s.ptpHead 0).map fun m => ptpIntervalOk m && (s.ptpTaken 0).ptpAuthOk 0 m) = some true ∧
    (s.ptpTaken 0).slotFits ((s.ptpTaken 0).fld (Reg.TB_SRC_AUTH 0) 0 6) 2 1 = true ∧ ((s.ptpTaken 0).cryptoNow (unitCode 3)).isSome ∧
    (((withAuth 1).ptpHead 0).map fun m => ((withAuth 1).ptpTaken 0).ptpAuthOk 0 m) = some false := by
  decide +kernel

/-- PtpMessagesTaken: a frame that is no message and one that is; no slot; a slot with an interval out of range and one in range; with
AUTH 1 and with AUTH 0; a one-step Sync of the selected master. -/
theorem witness_ptp :
    let s := withRegs [(Reg.TB_SRC_CFG 0, 0x41)]
    let m := ptpMsg (.sync false 5) 0
    let t (s : State) : State := s.ptpTaken 0
    s.ptpHead 0 = none ∧ ((withSync s).ptpHead 0).isSome ∧ (((withSync s).ptpHead 0).bind (t (withSync s)).ptpSlot) = some 0 ∧
    (t State.reset).ptpSlot m = none ∧ (t s).ptpSlot m = some 0 ∧ ptpIntervalOk (ptpMsg (.sync false 5) 6) = false ∧ ptpIntervalOk m = true ∧
    (t s).srcCfg 0 2 = false ∧ (t (withRegs [(Reg.TB_SRC_CFG 0, 0x45)])).srcCfg 0 2 = true ∧
    (t (withRegs [(Reg.TB_SRC_CFG 0, 0x45)])).slotFits 0 2 1 = false ∧ s.ptpMaySend 0 = true ∧ (withRegs [(Reg.TB_SRC_CFG 0, 0x61)]).ptpMaySend 0 = false ∧ ((withSync s).cryptoNow (unitCode 3)).isSome ∧
    (({ s with tb := { s.tb with src := [{ master := some 9 }] } } : State).src 0).master = some m.sender := by
  decide +kernel

/-- PtpSlotSends: a slot that may not send, one that may, and a message that waits for its stamp. -/
theorem witness_ptp_sends :
    State.reset.ptpMaySend 0 = false ∧ (withRegs [(Reg.TB_SRC_CFG 0, 0x51)]).ptpMaySend 0 = true ∧ (withRegs [(Reg.TB_SRC_CFG 0, 0x51)]).srcCfg 0 4 = true ∧
    (let s (cfg : Word) : State := (withRegs [(Reg.TB_SRC_CFG 0, cfg)]).modSrc 0 fun x => { x with txPend := [⟨.pdelayResp, 2, 7, 0, 0, none⟩] }
     ((s 0x51).sentWait 2 ⟨0, .pdelayResp, 7⟩).isSome ∧ (s 0x51).sentWait 1 ⟨0, .pdelayResp, 7⟩ = none ∧ (s 0x61).ptpMaySend 0 = false) := by
  decide +kernel

/-- PpsIrigAndLossTaken: an edge that is used in SEARCH; an IRIG-B frame with a field out of range and one without. -/
theorem witness_pps_irig :
    let f : IrigFrame := ⟨0, [.marker]⟩
    irigMarkersOk f = false ∧ State.reset.lossAt 4 ≤ 10 ^ 30 ∧
    let s := withRegs [(Reg.TB_SRC_CFG 4, 1), (Reg.TB_SRC_CFG 5, 1)]
    s.srcCfg 4 0 = true ∧ true ≠ s.bit Reg.TB_SRC_AUX_4 0 ∧ s.srcCfg 5 0 = true ∧ s.fld Reg.TB_SRC_AUX_5 0 4 < 8 ∧
    s.bit Reg.TB_SRC_AUX_5 4 = false ∧ (State.reset.src 4).st ≠ .acquire := by
  decide +kernel

/-- A state with a grid of 50 instants a second whose second 0 has begun. -/
def gridded : State := { State.reset with tb := { State.reset.tb with grid := ⟨50, 0, 49⟩ } }

/-- InstantAdvancesGrid and ReferenceAndSlewEnd. -/
theorem witness_instant_and_slew :
    (gridded.tb.grid.rate ≠ 0 ∧ gridded.tb.grid.sec ≤ gridded.tb.lastSec ∧ gridded.cfg.commit = none ∧ gridded.flt.reinit = []) ∧
    State.reset.tb.grid.rate = 0 ∧
    (let s : State := { State.reset with tb := { State.reset.tb with slewing := true, dtState := .locked, active := 5, src := List.replicate 6 { st := .locked } } }
     s.tb.slewing = true ∧ s.tb.dtState = .locked ∧ s.tb.active < s.tb.src.length ∧ (s.src s.tb.active).st ≠ .disabled ∧
      s.slewEarliest ≤ 10 ^ 30) := by
  decide +kernel

/-- A state whose port 0 is in a link state, with lock. -/
def linked (p : Port) : State := { State.reset with mac := { State.reset.mac with port := [p, p, p, p, p, p] } }

/-- LinkStatesMove and PortEnableAndLossOfUp: LINE_ERR, SGMII and autonegotiation can hold and can be absent. -/
theorem witness_links :
    (linked { link := .down }).lineErr 4 = false ∧ ((linked { link := .down }).setReg (Reg.MAC_CTRL 4) 0x81).lineErr 4 = true ∧
    ((linked { link := .training, lock := true }).setReg (Reg.MAC_CTRL 4) 0x41).macLine 4 = 1 ∧
    ((linked { link := .training, lock := true }).setReg (Reg.MAC_CTRL 4) 0x41).autoneg 4 = true ∧ (linked {}).autoneg 3 = false ∧
    ((linked { link := .up }).setReg (Reg.MAC_CTRL 4) 0x21).macCtrl 4 5 = true ∧ ((linked { link := .up }).setReg (Reg.MAC_CTRL 4) 0x21).macLine 4 = 0 := by
  decide +kernel

/-- A frame of 64 bytes with a right check sequence. -/
def frame (b : List Byte) : WireFrame := { bytes := padTo 60 b ++ leBytes 4 (crc32 (padTo 60 b)), stamp := 0, endStamp := 0, pcsErr := false, drained := 0 }

/-- ReceiveChecksInOrder: a broadcast frame on an UP port passes every check; one to a foreign address fails the filter. -/
theorem witness_receive :
    let s := (linked { link := .up }).advance 0
    let f := frame (List.replicate 6 0xFF ++ List.replicate 6 2 ++ [8, 0])
    let b := f.bytes.take 60
    (s.port 0).link = .up ∧ s.macCtrl 0 3 = false ∧ (s.port 0).upSince ≤ f.stamp ∧ s.maxLen 0 false ≤ 65536 - (s.port 0).rxHeld ∧ crc32 b = leAt f.bytes 60 4 ∧ beAt b (typeOff b) 2 ≠ 0x8808 ∧
    (s.setReg (Reg.MAC_CTRL 0) 9).macCtrl 0 3 = true ∧ s.addrPass 0 b = true ∧ s.vlanPass 0 b = true ∧ s.prpOf 0 = none ∧ s.addrPass 0 ([2, 2, 2, 2, 2, 2] ++ b.drop 6) = false := by
  decide +kernel

/-- TransmitQueuesServe: a frame that is put, one that is too long, and an alarm frame that is taken. -/
theorem witness_transmit :
    let s := (linked { link := .up }).setReg (Reg.MAC_CTRL 0) 3
    s.macCtrl 0 1 = true ∧ 64 ≤ s.maxLen 0 false ∧ (s.port 0).bytesOf .ptp + 64 ≤ s.allowance 0 .ptp ∧ 64 ≤ s.freeShared 0 ∧ s.prpOf 0 = none ∧
    s.allowance 0 .host < (s.port 0).bytesOf .host + 10000000 ∧ (wireBody none (List.replicate 60 0)).length + 4 ≤ s.maxLen 0 false := by
  decide +kernel

/-- IntakeFramesInOrder: a data frame of version 1 whose length and check are right reaches the directory, where its key is unknown. -/
theorem witness_intake :
    let b0 : List Byte := [0xAA, 0x01, 0, 18, 0, 7, 0, 0, 0, 0, 0, 0, 0, 0, 0, 0]
    let b := b0 ++ (leBytes 2 (crcCcitt b0)).reverse
    let s : State := { gridded with bin := { gridded.bin with intakeQ := [⟨0, 0, 0, 0, b, true, 0, some 7, 0, 0, []⟩] } }
    let f : InFrame := ⟨0, 0, 0, 0, b, true, 0, none, 0, 0, b⟩
    let h := { s with regs := [(Reg.BIN_LSN_CFG 0, 0x80010000)] }
    (firstFrame s.bin.intakeQ).map (h.listenerNow ·) = some (some 0) ∧ h.listenerNow f = some 0 ∧ s.listenerNow f = none ∧
    (firstFrame s.bin.intakeQ).isSome ∧ s.tb.grid.rate ≠ 0 ∧ 16 ≤ b.length ∧ byteAt b 0 = 0xAA ∧ beAt b 2 2 = b.length ∧
    crcCcitt (b.take (b.length - 2)) = beAt b (b.length - 2) 2 ∧ bitsOf (byteAt b 1) 4 3 = 0 ∧ bitsOf (byteAt b 1) 0 4 = 1 ∧
    s.resolve (s.socTai 0 0 false) 0 0 0 7 = none := by
  decide +kernel

/-- DirectoryUpdates: validation that finds no fault in an empty directory, and one that finds a stream with TIME_BASE 0. -/
theorem witness_directory : ({} : Bank).fault State.reset.berthCount = none ∧ ({ streams := [(4, 0x80000000)] } : Bank).fault 4096 = some (2, 0, 0) := by
  have h1 : ({} : Bank).validStreams = [] := by decide +kernel
  have h2 : ({} : Bank).validBerths = [] := by decide +kernel
  exact ⟨by simp [Bank.fault, h1, h2, firstBad], by decide +kernel⟩

/-- RingProbeAndEnable: a ring that fits the DRAM and one that does not. -/
theorem witness_quay_ring :
    State.reset.ringOpen = true ∧ State.reset.dramFits 0 (512 * quayBytes) = true ∧ State.reset.dramFits (2 ^ 34) (512 * quayBytes) = false ∧
    ({ (withQuays [quay]) with aln := { (withQuays [quay]).aln with ringSet := true } } : State).ringOpen = false ∧ (withQuays [quay]).quay? 3 = some quay ∧
    State.reset.quay? 3 = none := by
  decide +kernel

/-- QuaysSettleSpillAndSeal: a quay to settle, to spill and to seal. -/
theorem witness_quays :
    ((withQuays [quay]).settleNext).isSome ∧ ((withQuays [{ quay with spilling := true }]).aln.quays.find? (fun q => q.spilling)).isSome ∧
    (let x : Quay := { quay with state := .settled, sealing := true, failed := true }
     (withQuays [x]).unsealed.head? = some x ∧ (withQuays [{ x with retried := true }]).unsealed ≠ []) ∧
    ((withQuays [{ quay with state := .settled, sealing := true }]).unsealed.head?.map fun q => (q.sealing, q.spilling)) = some (true, false) ∧
    ((withQuays [{ quay with state := .settled, settleDone := true }]).aln.quays.find? (fun q => q.settleDone && q.state == .settled && !q.sealing)).isSome := by
  decide +kernel

/-- BlocksMeetQuays: a block of an instant without a quay, ready or not. -/
theorem witness_blocks :
    let s : State := { gridded with aln := { gridded.aln with ringSet := true } }
    s.quayAt 0 = none ∧ s.alnReady = false ∧ (s.setReg Reg.ALN_CTRL 1).alnReady = true ∧ (s.setReg Reg.ALN_CTRL 1).tooFarAhead (10 ^ 40) 50 0 = true ∧
    s.alnEngineOf 8191 ≠ none ∧
    (withQuays [quay]).quayAt 0 = some quay ∧ quay.isOpen = true ∧ ({ quay with state := .settled } : Quay).isOpen = false := by
  decide +kernel

/-- OscillationUnitRuns and IslandingUnitRuns: rings that fit; a quay with a quorum is due; probes of a listed node and of a branch. -/
theorem witness_detectors :
    let o := withRegs [(Reg.OSC_RING_SIZE, 16)]
    let i := withRegs [(Reg.ISL_RING_SIZE, 24), (Reg.ISL_MEMB_SIZE, 20)]
    (o.dramFits (o.reg64 Reg.OSC_RING_BASE_LO) (2 ^ o.fld Reg.OSC_RING_SIZE 0 5 * 64) = true ∧ 16 ≤ o.fld Reg.OSC_RING_SIZE 0 5 ∧ o.oscEn = false) ∧
    (i.dramFits 0 (2 ^ i.fld Reg.ISL_RING_SIZE 0 5 * 64) = true ∧ i.dramFits 0 (2 ^ i.fld Reg.ISL_MEMB_SIZE 0 5) = true ∧
      i.fld Reg.ISL_RING_SIZE 0 5 ≤ 24 ∧ 20 ≤ i.fld Reg.ISL_MEMB_SIZE 0 5 ∧ i.islEn = false) ∧
    (let run (l : List (Nat × Task)) : State := { (withQuays [quay]) with plt := { State.reset.plt with tasks := l } }
     let t (owner typ : Nat) : Task := { st := .running, owner := owner, typ := typ, quayTag := 3 }
     let s := run [(0, t 38 1), (1, t 37 1), (2, t 38 3), (3, t 37 3), (4, t 37 4)]
     s.islProvNext.isSome ∧ (s.oscProvNext 0).isSome ∧ State.reset.islProvNext = none ∧ (s.workTask 38 3 0).isSome ∧ (s.workTask 37 3 0).isSome ∧
     (s.workTask 37 4 0).isSome ∧ s.islFoldWaits = false ∧ s.oscFoldWaits 0 = false ∧ s.workDue (s.task 0) = true ∧ s.workDue (s.task 4) = false) ∧
    ({ State.reset with regs := [(Reg.ISL_CTRL, 1)] } : State).islEn = true := by
  decide +kernel

/-- OscillationUnitRuns and IslandingUnitRuns: settlements and folds that wait for a task, and a disabled unit's. -/
theorem witness_detectors_wait :
    let s (l : List (Nat × Task)) : State :=
      { (withQuays [{ quay with det := [{ routed := some 2 }, { routed := some 4 }] }]) with
        osc := { State.reset.osc with settleDue := [(3, 0)], foldDue := [(3, 0)], extractDue := [0], bases := [(3, 0, { State.reset.oscGroup 0 with baseSeq := 1 })] }
        isl := { State.reset.isl with settleDue := [3], foldDue := [3], bases := [(3, { State.reset.isl.com with baseSeq := 1 })] }
        plt := { State.reset.plt with tasks := l } }
    let t (owner typ : Nat) (st : TaskSt) : Task := { st := st, owner := owner, typ := typ, quayTag := 3 }
    let w := s [(0, t 37 2 .ready), (1, t 38 2 .ready), (2, t 37 1 .waiting), (3, t 38 1 .waiting)]
    needsTask (((quay.detOf 0).routed).getD 3) = false ∧ (w.quay? 3).map (fun q => (needsTask ((q.detOf 0).routed.getD 3), needsTask ((q.detOf 1).routed.getD 3))) = some (true, true) ∧
    w.taskStands 37 2 0 3 = true ∧ w.taskStands 38 2 0 3 = true ∧ (s []).taskStands 37 2 0 3 = false ∧ w.workTask 37 2 0 = none ∧ w.workTask 38 2 0 = none ∧
    ((s [(0, t 37 2 .running), (1, t 38 2 .running)]).workTask 37 2 0).map (·.2.quayTag) = some 3 ∧ w.oscFoldWaits 0 = true ∧ w.islFoldWaits = true ∧
    (s []).workTask 37 3 0 = none ∧ (s []).islEn = false ∧ ({ State.reset with regs := [(Reg.OSC_CTRL, 1)] } : State).oscEn = true := by
  decide +kernel

/-- An alarm input. -/
def alarm (op : AlmOp) : AlmInput := { op := op, src := 7, sub := 0, kind := 1, key := 2, sev := 2 }

/-- AlarmInputsMeetSlots: a slot that the input meets, a free slot for one it does not meet, and a rule that takes it. -/
theorem witness_alarm_inputs :
    let s : State := { State.reset with alm := { State.reset.alm with input := [alarm .raise], slots := [(5, { st := .conf, src := 7, kind := 1, key := 2 })] }, cfg := { State.reset.cfg with active := [(cfgKey 8 1 0, 0xFFFFFFFF)] } }
    (s.slotOf (alarm .raise)).map (·.1) = some 5 ∧ State.reset.slotOf (alarm .raise) = none ∧ State.reset.slotFor = some 0 ∧ State.reset.isActive = true ∧
    State.reset.ruleOf (alarm .raise) = none ∧ (State.reset.setReg Reg.ALM_CTRL 1).bit Reg.ALM_CTRL 0 = true ∧
    ({ State.reset with twn := { State.reset.twn with role := .standby } } : State).isActive = false := by
  decide +kernel

/-- AlarmStateTable: a live slot with nothing open whose missed quays reach CLEAR_N, and one whose do not. -/
theorem witness_alarm_states :
    let x (miss : Nat) : AlmSlot := { st := .conf, miss := miss, rule0 := 0x03000000 }
    (x 0).live = true ∧ (x 0).quays.contains 9 = false ∧ (x 254).clearN ≤ min ((x 254).miss + 1) 255 ∧ (x 254).latch = false ∧ (x 254).src ≠ 5 ∧
    ({ st := .retracted } : AlmSlot).live = false := by
  decide +kernel

/-- AcknowledgementsAndHostAlarms: a live slot with its GEN, and the codes of ALM_HOST. -/
theorem witness_acknowledgements :
    let s : State := { State.reset with alm := { State.reset.alm with slots := [(1087, { st := .conf, gen := 4 })] } }
    (s.slot 1087).live = true ∧ s.isActive = true ∧ (s.slot 1087).gen = 4 ∧ (s.slot 0).live = false ∧
    bitOf 0x80110000 31 = true ∧ bitsOf 0x80110000 16 4 ≠ 0 ∧ bitOf 0x80110000 22 = false ∧ bitsOf 0x80110000 20 2 = 1 := by
  decide +kernel

/-- AlarmMessagesSent: a keepalive that is due. -/
theorem witness_keepalive :
    let s : State := { gridded with regs := [(Reg.ALM_KEEPALIVE, 1000)], cfg := { gridded.cfg with active := [(cfgKey 8 3 0, 1)] }, tb := { gridded.tb with lastInstant := 10 ^ 15 } }
    s.destEn 0 = true ∧ s.isActive = true ∧ s.isStopped = false ∧ s.fld Reg.ALM_KEEPALIVE 0 16 ≠ 0 ∧ s.tb.grid.rate ≠ 0 ∧
    (nth ({} : AlmDest) s.alm.dest 0).lastAt + s.fld Reg.ALM_KEEPALIVE 0 16 * subPerMs ≤ s.tb.lastInstant := by
  decide +kernel

/-- FrontEndRuns: an enabled unit with a set; channels and local map entries enabled and not; calibration values in and out of range. -/
theorem witness_front_end :
    let s : State := { State.reset with regs := [(Reg.FE_CTRL, 1)], cfg := { State.reset.cfg with activeValid := true } }
    s.hasFe = true ∧ s.unitFenced 10 = false ∧ s.bit Reg.FE_CTRL 0 = true ∧ s.cfg.activeValid = true ∧ feChOn s.fe.set 23 = false ∧
    bitOf s.idCap 1 = true ∧ lpeOn s.fe.set 15 = false ∧ State.reset.bit Reg.FE_CTRL 0 = false ∧
    (withRegs [(Reg.FE_CAL_GAIN 23, 0x7F800000)]).standbyOk 23 = false ∧ (withRegs [(Reg.FE_CAL_GAIN 23, 0x3F800000)]).standbyOk 23 = true := by
  decide +kernel

/-- A set of the front end at a label. -/
def feSet (label : Nat) : FeSet := ⟨label, label, false, 60, 0, [], 0, 0, 0, 0, false, 0, true, 0, false, 0⟩

/-- A device whose front end runs in SCS mode with map entry 0 enabled, and a directory that holds its berth. -/
def estimating (hist : List FeSet) (berth : List (Nat × Word)) : State :=
  { gridded with
    regs := [(Reg.FE_CTRL, 1), (Reg.ALN_CTRL, 1)]
    tb := { gridded.tb with grids := [(0, 50)] }
    aln := { gridded.aln with ringSet := true }
    fe := { gridded.fe with scs := true, set := [(cfgKey 0x0A 0 0, 1)], hist := hist }
    bin := { gridded.bin with live := { berths := berth } } }

/-- FrontEndRuns: an instant whose window is there, with and without its berth; one whose window is still to come; one whose window is gone. -/
theorem witness_estimator :
    let l := ((List.range 64).map fun i => feSet (subPerSec / 50 - 315 + 10 * i)).reverse
    let s := estimating l [(512 * 8176, 0x80000000)]
    let t := instantAt 50 0 1
    bitOf s.idCap 1 = true ∧ lpeOn s.fe.set 0 = true ∧ s.rateOf 0 = 50 ∧ s.alnReady = true ∧ s.fe.lpeBlockedTill = 0 ∧ (mapFind s.fe.lpeDone 0).getD 0 < t ∧
    lpeCycles true false 60 50 * feN true = 64 ∧ lpeWindow (s.lpeVisible (lpeChans s.fe.set 0)) t 64 = .ready l.reverse ∧
    s.lpeFits s.fe.set 0 t = true ∧ (estimating l []).lpeFits s.fe.set 0 t = false ∧ s.fe.group.all (fun g => g.overwritten.isEmpty) = true ∧
    lpeWindow [] t 64 = .later ∧ lpeWindow [feSet t, feSet (t + 1)] t 64 = .later ∧ lpeWindow (l.reverse.drop 32 ++ l.reverse.map fun x => feSet (x.label + 640)) t 64 = .never := by
  decide +kernel

/-- FrontEndRuns: a channel that shows STUCK and CLIP, and one that shows neither. -/
theorem witness_front_end_conditions :
    ({ run := 1024 } : FeChan).shows false = true ∧ ({ sincOut := 1 } : FeChan).shows true = true ∧ ({} : FeChan).shows false = false ∧
    ({} : FeChan).shows true = false ∧
    (let s : State := { State.reset with hw := State.reset.hw, fe := { State.reset.fe with running := true, set := [(cfgKey 0x0A 15 0x400, 0x20)] } }
     s.fe.next = none ∧ ({ s with fe := { s.fe with next := some 5 } } : State).feLabel 9 = 5 ∧ s.chanOn 1 = false) ∧
    feChOn ({ State.reset with fe := { State.reset.fe with set := [(cfgKey 0x0A 15 0x400, 0x20)] } } : State).fe.set 0 = true := by
  decide +kernel

/-- MeteringRuns: record rings that fit and that do not; a running unit whose engine is in service; the orders of flash saves. -/
theorem witness_metering :
    let s : State := { State.reset with mtr := { State.reset.mtr with running := true } }
    s.dramFits (s.reg64 Reg.MTR_REC_BASE_LO) (320 * 2 ^ s.fld Reg.MTR_REC_SIZE 0 5) = true ∧ s.dramFits (2 ^ 34) 320 = false ∧ s.unitFenced 12 = false ∧
    (let w : MtrSave := ⟨[], [], 0, 3, false, 0⟩
     let v : MtrSave := { w with crc := crc32c w.bytes }
     saveValid (some v) = some v ∧ saveValid (some { v with crc := v.crc + 1 }) = none) ∧
    (State.reset.pins.pulseDriven = false ∧ State.reset.hasMtr = true ∧ State.reset.unitFenced 12 = false) ∧
    (nth {} s.plt.eng s.plt.mtrEng).rstate = .inService ∧ 5 < s.mtr.pulse.length ∧
    ((((s.setReg Reg.MTR_CTRL 0x101).pfwSet true).event Reg.RTC_EVT 5).wakeIf 3).bit Reg.MTR_CTRL 8 = true ∧ (holding 0x50 []).tokenSlotOk 0 = false ∧
    ({ State.reset with key := { State.reset.key with slots := [(0, { typ := 4, usage := 8, lock := true })] } } : State).tokenSlotOk 0 = true := by
  decide +kernel

/-- CaptureRuns: a configuration that can be armed and one that cannot; a triggered channel whose end has come and one whose has not. -/
theorem witness_capture :
    let s := withRegs [(Reg.CAP_CH_CFG 3, 0x01000001), (Reg.CAP_CH_TIME 3, 0x00010000), (Reg.CAP_CH_SIZE 3, 1)]
    State.reset.capArmErr 3 ≠ 0 ∧ s.hasCap = true ∧ 3 < s.cap.ch.length ∧
    ({ State.reset with cap := { State.reset.cap with ch := [{ st := .triggered }] } } : State).capEnded 0 = true ∧
    (let t := (withRegs [(Reg.ALN_CTRL, 1)])
     let k : CapCh := { st := .triggered, cfg := 0x08000000 }
     let u : State := { t with cap := { State.reset.cap with ch := [k, { k with st := .armed }], detected := [⟨1, 8, 0, 0, 0, 0⟩] }, tb := gridded.tb }
     u.capEnded 0 = false ∧ k.full = false ∧ ({ k with full := true } : CapCh).full = true ∧ (∀ d ∈ u.cap.detected, d.ch ≠ 0) ∧
      (u.cap.detected.filter fun d => d.ch == 1) ≠ []) := by
  decide +kernel

/-- TriggerBus: a width that is a code and one that is none. -/
theorem witness_trigger_bus :
    ((7 + 1) * 4 * subPerUs ≤ 32 * subPerUs + 3 * subPerUs / 2 ∧ 32 * subPerUs ≤ (7 + 1) * 4 * subPerUs + 3 * subPerUs / 2) ∧
    (∀ c, c < 8 → ¬((c + 1) * 4 * subPerUs ≤ 6 * subPerUs + 3 * subPerUs / 2 ∧ 6 * subPerUs ≤ (c + 1) * 4 * subPerUs + 3 * subPerUs / 2)) ∧
    (withRegs [(Reg.CAP_TRG_CFG, 0xFF)]).bit Reg.CAP_TRG_CFG 3 = true ∧ (withRegs [(Reg.CAP_TRG_CFG, 0xFF)]).bit Reg.CAP_TRG_CFG 7 = true := by
  decide +kernel

/-- LogbookRuns: rings that fit and not; classes that are on and off; an event that repeats the last record; a checkpoint that is due. -/
theorem witness_logbook :
    let e : LogRaise := ⟨8, 3, 1, [], 0, false, none⟩
    let s : State := { State.reset with bkp := { State.reset.bkp with tail := [⟨0, 8, 3, 1, [], List.replicate 256 0⟩] }, cfg := { State.reset.cfg with active := [(cfgKey 0x0C 0 1024, 3)] } }
    State.reset.logHeld = false ∧ ({ State.reset with logb := { State.reset.logb with chkptBusy := true } } : State).logHeld = true ∧
    s.dramFits 0 (2 ^ 24) = true ∧ s.dramFits (2 ^ 34) (2 ^ 24) = false ∧ s.logEnabled 8 = true ∧ s.logIsRepeat e = true ∧ State.reset.logIsRepeat e = false ∧
    ({ State.reset with cfg := { State.reset.cfg with active := [(cfgKey 0x0C 0 1024, 2)] } } : State).logEnabled 8 = false ∧
    ({ State.reset with logb := { State.reset.logb with sinceChkpt := 65535 } } : State).logChkptDue = true ∧ State.reset.logChkptDue = false := by
  decide +kernel

/-- A state with tasks and quotas. -/
def tasked (l : List (Nat × Task)) (e : Eng) : State :=
  { State.reset with plt := { State.reset.plt with tasks := l, eng := List.replicate 32 e }, cfg := { State.reset.cfg with active := [(cfgKey 0x0D 0 8, 16)] } }

/-- TasksRun: a quota that is free; a READY task with idle engines; one with none idle, and its victim; a task that wakes. -/
theorem witness_tasks :
    let t : Task := { st := .ready, cls := 0, prio := 6 }
    0 < State.reset.quota 0 4 ∧ (tasked [] {}).quota 0 4 = 16 ∧ (State.reset.task 0).st = .free ∧ State.reset.ownerFenced 5 = false ∧
    (State.reset.workDue t = false) ∧ (State.reset.readyLow 0 < State.reset.rlCap 0) ∧
    (tasked [(3, t)] {}).idleEngines 0 ≠ [] ∧ ((tasked [(3, t)] {}).topList 0).map (·.1) = [3] ∧
    (tasked [(3, t), (4, { st := .running, prio := 1 })] { running := some 4 }).idleEngines 0 = [] ∧
    ((tasked [(3, t), (4, { st := .running, prio := 1 })] { running := some 4 }).victim 0 t).isSome ∧
    (tasked [(3, t), (4, { st := .preempted, prio := 7 })] { preempted := [4] }).idleEngines 0 ≠ [] ∧
    (let d (sec : Nat) : Task := { st := .delayed, wake := some (.abs sec 0 0), keyRate := 50 }
     let s : State := { (tasked [(3, d 1), (4, d 0)] {}) with
       tb := { gridded.tb with grids := [(0, 50)], tqHist := [(4 * subPerSec, 0), (subPerSec, 0), (0, 0)] } }
     s.delayHead 4 = true ∧ (s.fireTime (d 1)).isSome ∧ (s.fireTime (d 0)).isSome ∧ s.delayHead 3 = false ∧
      s.fireTime { d 2 with keyRate := 60 } = some (4 * subPerSec, true) ∧ s.fireTime (d 9) = none) ∧
    State.reset.wakeTime { st := .delayed, wake := some (.abs 0 0 0) } = some (0, false) ∧ State.reset.wakeTime {} = none := by
  decide +kernel

/-- EnginesRotate: engines present and absent, caps that fit and not, counters that count. -/
theorem witness_engines :
    State.reset.hasEng 31 = true ∧ ({ State.reset with hw := { State.reset.hw with variant := .fn8220 } } : State).hasEng 20 = false ∧
    (classEngines (engClass 31)).any (fun x => State.reset.hasEng x && (State.reset.engine x).rstate != .inService) = false ∧
    ((tasked [] { rstate := .out }).engine 31).rstate = .out ∧ wrapsHere false 1 = true ∧ wrapsHere true 1 = false ∧ wrapsHere true 3 = true ∧
    ((List.range 6).map fun k => if k = 5 then 3712 else State.reset.rlCap k).sum + 384 > 4096 ∧
    ((List.range 6).map fun k => if k = 5 then 16 else State.reset.rlCap k).sum + 384 ≤ 4096 ∧
    (withRegs [(Reg.ENG_CNT_CTRL 0, 1), (Reg.ENG_CNT_SEL 0 7, 1)]).engCounting 0 = true ∧
    (withRegs [(Reg.ENG_CNT_CTRL 0, 1), (Reg.ENG_CNT_SEL 0 7, 1)]).cntSelected 0 7 = true ∧ State.reset.pwr.state < 2 ∧ State.reset.fencedOf 5 ≤ 1 := by
  decide +kernel

/-- DebugPort: offsets for each MEMAP clause and a fenced engine. -/
theorem witness_debug :
    State.reset.bit Reg.DBG_CTRL 0 = false ∧ State.reset.Readable Reg.TB_CTRL ∧ blockOf Reg.TB_CTRL ≠ .key ∧ blockOf Reg.OUT_EVT = .outp ∧
    ({ State.reset with hw := { State.reset.hw with variant := .fn8220 } } : State).blockAbsent Reg.FE_CTRL = true ∧ Reg.FE_CTRL % 4 = 0 ∧
    blockOf Reg.KEY_CTRL = .key ∧ (rowAt Reg.KEY_CTRL).isSome ∧
    (({ State.reset with pwr := { State.reset.pwr with state := 2 } } : State).blockStopped Reg.FE_CTRL = true ∧ State.reset.blockAbsent Reg.FE_CTRL = false) ∧
    ((tasked [] { rstate := .fenced }).engine 31).rstate = .fenced ∧ 31 < (tasked [] { rstate := .fenced }).plt.eng.length := by
  decide +kernel

/-- RingPairsRun: sizes and bases that pass the check, a pair that takes a manifest, and what an ABORT finds. -/
theorem witness_rings :
    let s := withRegs [(Reg.HIF_RP_SIZE 15, 0x0A0C04)]
    (4 ≤ s.fld (Reg.HIF_RP_SIZE 15) 0 4 ∧ s.fld (Reg.HIF_RP_SIZE 15) 8 4 ≤ 12 ∧ s.fld (Reg.HIF_RP_SIZE 15) 0 4 ≤ s.fld (Reg.HIF_RP_SIZE 15) 8 4 ∧
      8 ≤ s.fld (Reg.HIF_RP_SIZE 15) 16 4 ∧ s.fld (Reg.HIF_RP_DATA_BASE_LO 15) 0 12 = 0) ∧
    (let p (r : Ring) : State := { State.reset with hif := { State.reset.hif with lastFetch := 0, pcie := { State.reset.hif.pcie with bme := true }, ring := [r, {}, r] } }
     (p { st := .running, sqTail := 1 }).fetchTurn = some 2 ∧ (p {}).fetchTurn = none) ∧
    ({ sqTail := 1 } : Ring).outstanding + ({ sqTail := 1 } : Ring).unreleased < s.cqSize 15 ∧
    ((holding 1 []).start 0 7).ring 0 ≠ {} ∧ (((holding 1 []).start 0 7).ring 0).target 0 ≠ none ∧ 15 < s.hif.ring.length := by
  decide +kernel

/-- An image with one section, of type 1 and empty. -/
def image : List Byte :=
  let head := padTo 60 (ascii "FNCF" ++ leBytes 2 1 ++ leBytes 2 1 ++ leBytes 4 128)
  let rest := padTo 64 (leBytes 2 1 ++ leBytes 2 0 ++ leBytes 4 80)
  head ++ leBytes 4 (crc32c (head ++ leBytes 4 0 ++ rest)) ++ rest

/-- ConfigurationRuns: an image that is refused and one that is not; a word inside the section and one outside; a commit that carries a directory. -/
theorem witness_configuration :
    (parseImage []).isOk = false ∧ (parseImage image).isOk = true ∧ (listedRegs 1).contains 4 = true ∧
    0 < tableSize 4 0 ∧ State.reset.berthHeld 4 0 0 = false ∧ State.reset.sectionPresent 4 = true ∧
    ({ State.reset with hw := { State.reset.hw with variant := .fn8220 } } : State).sectionPresent 10 = false ∧
    ({ State.reset with cfg := { State.reset.cfg with shadow := [(cfgKey 4 0 4, 1)] } } : State).carriesDir = true ∧ State.reset.carriesDir = false ∧
    State.reset.dirBusy = false ∧ nth 0 State.reset.flash.fwSel 0 = 0 := by
  decide +kernel

/-- KeyStoreRuns: the shape of a manifest, the permission, and the slots that fit. -/
theorem witness_keys :
    let b := (manifest 0xA0 [55, 4, 0x18, 0, 1]).bytes
    (bitsOf (byteAt b 20) 0 6 = 55 ∧ bitsOf (byteAt b 21) 0 3 = 4 ∧ leAt b 22 2 &&& (0xFFFF - nth 0 [0, 1, 2, 4, 0x18] 4) = 0) ∧
    State.reset.hw.root = .present ∧ State.reset.keyBusy = false ∧ (State.reset.keySlot 55).lock = false ∧ State.reset.slotFits 0 4 4 = false ∧
    ({ State.reset with key := { State.reset.key with slots := [(0, { typ := 4, usage := 16 })] } } : State).slotFits 0 4 4 = true ∧
    leAt (manifest 0xA4 [0x53, 0x4F, 0x4C, 0x43]).bytes 20 4 = 0x434C4F53 ∧ State.reset.key.trngFail = false ∧
    (({ State.reset with key := { State.reset.key with ops := [⟨7, 57, .verifyUnlock 1, 0, [1], [], []⟩] } } : State).cryptoOp 7).isSome := by
  decide +kernel

/-- A device of a role with a link, a key in slot 1 and pairing enabled. -/
def twin (role : Role) : State :=
  { State.reset with
    regs := [(Reg.TWN_CFG, 0x101)]
    key := { State.reset.key with slots := [(1, { typ := 1, usage := 1, material := List.replicate 32 7 })] }
    twn := { State.reset.twn with role := role, lane0 := true, peerEpoch := some 5, peerFseq := 9, peerSeen := [(5, 9)] } }

/-- A frame of the peer with EPOCH 5 and SIDE 1: its payload and tag as another program (AES-256-GCM of Node's crypto) seals them under
the key of `twin`. -/
def peerFrame (len typ e fseq sealed : Nat) : List Byte :=
  leBytes 2 len ++ leBytes 1 typ ++ leBytes 1 e ++ leBytes 4 (5 + 2 ^ 31) ++ leBytes 8 fseq ++ beBytes (len + 16) sealed

/-- Whether a `twin` opens a frame as one of a TYPE and FSEQ from the other SIDE, with its LEN and its items right. -/
def opens (b : List Byte) (typ fseq : Nat) : Bool :=
  let s := twin .standby
  match s.aizContext.2.bind fun k => aizOpen k b with
  | some f => f.typ == typ && f.epoch == 5 && f.fseq == fseq && f.side != s.side && aizLenOk f &&
      ((typ != 3 && typ != 6) || (itemsOf f.payload.length f.payload).isSome)
  | none => false

/-- TwinLinkRuns and TwinRolesChange: frames of TYPE 1 to 6 that open and pass, the last two with a gap before them; one whose tag
fails. -/
theorem witness_twin_frames :
    opens (peerFrame 48 1 0 10
      0x638B8ED36856935C90A3ECD1A13B4AF8948A39C1EBB64C8DE4A95A617FD245EC0CD6A5B0F7EF6439BF8B768D6051DB215D99D275244312F33F2B1EECFDE5FA69) 1 10 ∧
    opens (peerFrame 48 2 0 10
      0x638B8ED36856935C90A3ECD1A13B4AF8948A39C1EBB64C8DE4A95A617FD245EC0CD6A5B0F7EF6439BF8B768D6051DB217E900295472A2183763A81D89960FD43) 2 10 ∧
    opens (peerFrame 16 4 0 10 0x638B8ED36856935C90A3ECD1A13B4AF8B82653C83FF3CE1B2DDD8A87B2589C5F) 4 10 ∧
    opens (peerFrame 16 5 0 10 0x638B8ED36856935C90A3ECD1A13B4AF878276478E4D8F08ED2B6D8FF468CDEBE) 5 10 ∧
    opens (peerFrame 6 3 0 11 0x6B6F76F46B9B9475C4337929AB3C172E7D5B132C1919) 3 11 ∧
    opens (peerFrame 0 6 1 11 0x02581B434B83C3003DA9C24B1BF2DD64) 6 11 ∧
    (aizOpen (List.replicate 32 7) (peerFrame 0 6 1 11 0)).isNone := by
  decide +kernel

/-- TwinLinkRuns: a device that hears its peer, one without a key, and a valid HB word. -/
theorem witness_twin_link :
    let s := twin .standby
    s.bit Reg.TWN_CFG 0 = true ∧ s.unitFenced 22 = false ∧ s.aizKey ≠ none ∧ s.aizContext.2.isSome ∧ s.paired = true ∧ (twin .solo).paired = false ∧
    (let d := s.modTwn fun t => { t with helloDue := true }
     d.paired = true ∧ d.twn.helloDue = true ∧ d.aizContext.2.isSome) ∧ s.flash.twinSaves = [] ∧ mapFind s.twn.peerSeen 5 = some 9 ∧
    mapFind s.twn.peerSeen 4 = none ∧
    (withRegs [(Reg.TWN_CFG, 0x101)]).aizKey = none ∧ s.side = false ∧
    itemsOf 6 [1, 0, 2, 0, 9, 9] = some [(1, [9, 9])] ∧
    (let x := 0xA51000000000
     let w := x + crc8 (beBytes 5 (bitsOf x 8 40))
     bitsOf w 40 8 = 0xA5 ∧ crc8 (beBytes 5 (bitsOf w 8 40)) = bitsOf w 0 8 ∧ bitOf w 36 ≠ s.side) := by
  decide +kernel

/-- TwinRolesChange: a device that may hand over, one that may not, and the next engine to test. -/
theorem witness_twin_roles :
    (twin .active).twn.role = .active ∧ (twin .active).twn.cfgDiff = false ∧ (twin .active).twn.peerHealth.getLsbD 0 = false ∧
    ({ h := none, force := true, mid := none, reqAt := 0, taken := false } : HandOver).h = none ∧ (({ gridded with tb := { gridded.tb with grids := [(0, 50)] } } : State).instantAfter (2 * subPerMs) 0).isSome ∧
    State.reset.instantAfter (2 * subPerMs) 0 = none ∧ (twin .wait).twn.waitHeard = false ∧
    (twin .handing).twn.formerActive = none ∧ bitOf (twin .standby).health 0 = false ∧
    ((List.range 32).map fun i => ((twin .standby).twn.nextTest + i) % 32).find? (twin .standby).hasEng = some 0 ∧
    (withRegs [(Reg.TWN_CFG, 9)]).bit Reg.TWN_CFG 3 = true := by
  decide +kernel

/-- FaultsAndSelfTestRun: a source that is taken and one that is not; a fenced owner; slices that can be tested alone. -/
theorem witness_faults :
    State.reset.srcMasked 0 = false ∧ State.reset.srcMasked 76 = true ∧ (State.reset.fltSrc 0).broken = false ∧ State.reset.ownerFenced 44 = false ∧
    ({ State.reset with flt := { State.reset.flt with fencedUnits := [13] } } : State).ownerFenced 44 = true ∧
    State.reset.sliceAbsent 41 = false ∧ (∀ c ∈ State.reset.cap.ch, c.st ≠ .armed ∧ c.st ≠ .triggered) ∧ State.reset.twn.role = .solo ∧
    ({ State.reset with hw := { State.reset.hw with variant := .fn8220 } } : State).sliceAbsent 20 = true ∧ State.reset.bst.running = false ∧
    (State.reset.rotRequest 0 2 none).plt.rot ≠ none ∧
    (let r (src at_ : Nat) : FaultReport := ⟨src, 0, 44, 0, 0, at_⟩
     let s (f : Flt) : State := { State.reset with flt := f }
     (s { reports := [r 9 5, r 7 5, r 3 6] }).flt.nextReport = some (r 7 5) ∧ (s { reports := [r 9 5], fer := some ⟨1, 0, 44, 0, 0, 4⟩ }).flt.nextReport = some (r 9 5) ∧
     (s { reports := [r 9 5] }).flt.fer = none ∧ (r 9 5).at_ < ((s { reports := [r 9 5] }).advance 7).dt ∧ (r 9 5).src < 10 ∧
     ({ handling := true, fer := some ⟨9, 0, 44, 0, 0, 5⟩ } : Flt).handling = true ∧ (r 9 5).at_ ≠ (State.reset.advance 7).dt ∧ (State.reset.advance 5).dt = (r 9 5).at_) := by
  decide +kernel

/-- PowerBackupAndRtcRun: a target deeper than the state; a wake that counts and one that does not. -/
theorem witness_power :
    let s := withRegs [(Reg.PWR_LTR, 100000)]
    s.pwr.state < s.catchUpAll.pwrTarget ∧ (s.pwr.state = 0 ∧ s.pwrTarget ≠ 0) ∧ (State.reset.pwr.exiting = false ∧ State.reset.catchUpAll.pwrTarget ≤ State.reset.pwr.state) ∧ State.reset.pwrTarget ≤ State.reset.pwr.state ∧ s.pwrAllows 1 = true ∧
    (withRegs [(Reg.PWR_WAKE_EN, 15)]).bit Reg.PWR_WAKE_EN 3 = true ∧ State.reset.bit Reg.PWR_WAKE_EN 0 = false ∧
    ({ wakePeriod := 64, rtc := ⟨0, 1⟩ } : Bkp).wakeFrac = some 8192 ∧ ({ wakePeriod := 0 } : Bkp).wakeFrac = none := by
  decide +kernel

/-- MtqCode and PtqCode: U at the edges, and a state whose U exceeds 10 s. -/
theorem witness_quality :
    let s (u : Nat) : State := { State.reset with tb := { State.reset.tb with dtState := .holdover, holdUnc := u } }
    (s (10 ^ 10 + 1)).unc = 10 ^ 10 + 1 ∧ (s (10 ^ 10)).unc ≤ 10 ^ (0xB - 1) ∧ 10 ^ (0xA - 1) < (s (10 ^ 10)).unc ∧
    (s 99).unc < 100 ∧ 10 ^ 6 ≤ (s (10 ^ 6)).unc ∧ (s (10 ^ 6)).unc < 10 ^ 7 := by
  decide +kernel

end Sys2Proof.Tests
end

section
/-! SUPPORT. Every command answers a next state, which keeps what Keeps names; a step therefore keeps the canonical forms. -/

namespace Sys2Proof.Machine

/-- Each command's meaning answers a next state that Keeps relates to the one before. -/
theorem exec_keeps (c : Instr) (s : State) : ∃ t, exec c s = .next t ∧ Keeps s t :=
  match c with
  | .coreReset cause env => execCoreReset_keeps (.refl s) cause env
  | .perstNAssert env => execPerstNAssert_keeps (.refl s) env
  | .hifReset kind => execHifReset_keeps (.refl s) kind
  | .busMasterEnableChange on => execBusMasterEnableChange_keeps (.refl s) on
  | .pcieD3hotEnter => execPcieD3hotEnter_keeps (.refl s)
  | .pcieD0Return => execPcieD0Return_keeps (.refl s)
  | .registerWrite addr v => execRegisterWrite_keeps (.refl s) addr v
  | .missizedAccess bar2 addr size write => execMissizedAccess_keeps (.refl s) bar2 addr size write
  | .unmappedAccess addr write => execUnmappedAccess_keeps (.refl s) addr write
  | .pairLoRead addr => execPairLoRead_keeps (.refl s) addr
  | .pairHiWrite addr v => execPairHiWrite_keeps (.refl s) addr v
  | .rcRead addr => execRcRead_keeps (.refl s) addr
  | .timestampSubnsRead addr => execTimestampSubnsRead_keeps (.refl s) addr
  | .windowDataAccess addr write => execWindowDataAccess_keeps (.refl s) addr write
  | .counterClear addr v => execCounterClear_keeps (.refl s) addr v
  | .tbSetApply v => execTbSetApply_keeps (.refl s) v
  | .tbLeapLoad v => execTbLeapLoad_keeps (.refl s) v
  | .tbSrcCfgWrite slot v => execTbSrcCfgWrite_keeps (.refl s) slot v
  | .ptpMessageRx port => execPtpMessageRx_keeps (.refl s) port
  | .ptpEventMessageTx slot => execPtpEventMessageTx_keeps (.refl s) slot
  | .txTimestampReturn port msg stamp => execTxTimestampReturn_keeps (.refl s) port msg stamp
  | .ppsEdge rising stamp => execPpsEdge_keeps (.refl s) rising stamp
  | .irigbFrame f => execIrigbFrame_keeps (.refl s) f
  | .sourceLossTimeout slot at_ => execSourceLossTimeout_keeps (.refl s) slot at_
  | .reportingInstant => execReportingInstant_keeps (.refl s)
  | .wholeTaiSecond frac healed => execWholeTaiSecond_keeps (.refl s) frac healed
  | .ref10mLost => execRef10mLost_keeps (.refl s)
  | .ref10mRestored => execRef10mRestored_keeps (.refl s)
  | .macEnWrite p v receiving => execMacEnWrite_keeps (.refl s) p v receiving
  | .linkLockAcquired p => execLinkLockAcquired_keeps (.refl s) p
  | .linkLockLost p receiving => execLinkLockLost_keeps (.refl s) p receiving
  | .autonegComplete p => execAutonegComplete_keeps (.refl s) p
  | .sgmiiControlRx p slow receiving => execSgmiiControlRx_keeps (.refl s) p slow receiving
  | .linkQualified p => execLinkQualified_keeps (.refl s) p
  | .linkFaultRx p remote hiBer receiving => execLinkFaultRx_keeps (.refl s) p remote hiBer receiving
  | .linkFaultCleared p => execLinkFaultCleared_keeps (.refl s) p
  | .macRxFrame p f => execMacRxFrame_keeps (.refl s) p f
  | .pauseExpiry p => execPauseExpiry_keeps (.refl s) p
  | .txEnqueue => execTxEnqueue_keeps (.refl s)
  | .alarmEnqueue => execAlarmEnqueue_keeps (.refl s)
  | .txFrameDone p => execTxFrameDone_keeps (.refl s) p
  | .intakeFrame => execIntakeFrame_keeps (.refl s)
  | .dirCopy v => execDirCopy_keeps (.refl s) v
  | .dirCopyDone => execDirCopyDone_keeps (.refl s)
  | .dirApply v => execDirApply_keeps (.refl s) v
  | .dirValidationDone => execDirValidationDone_keeps (.refl s)
  | .cfgchgFifoRead => execCfgchgFifoRead_keeps (.refl s)
  | .unkKeyRead => execUnkKeyRead_keeps (.refl s)
  | .alnEnWrite v => execAlnEnWrite_keeps (.refl s) v
  | .alnRingBaseWrite v => execAlnRingBaseWrite_keeps (.refl s) v
  | .alnProbe v => execAlnProbe_keeps (.refl s) v
  | .quaySpillDone => execQuaySpillDone_keeps (.refl s)
  | .alnBlockWrite => execAlnBlockWrite_keeps (.refl s)
  | .quaySettle => execQuaySettle_keeps (.refl s)
  | .quaySealDone => execQuaySealDone_keeps (.refl s)
  | .tugTransferError seq => execTugTransferError_keeps (.refl s) seq
  | .oscEnWrite v => execOscEnWrite_keeps (.refl s) v
  | .oscProvEval g => execOscProvEval_keeps (.refl s) g
  | .oscSettleEval g => execOscSettleEval_keeps (.refl s) g
  | .oscFold g => execOscFold_keeps (.refl s) g
  | .oscExtract g => execOscExtract_keeps (.refl s) g
  | .islEnWrite v => execIslEnWrite_keeps (.refl s) v
  | .islProvEval => execIslProvEval_keeps (.refl s)
  | .islSettleEval => execIslSettleEval_keeps (.refl s)
  | .islFold => execIslFold_keeps (.refl s)
  | .islNodeProbe v => execIslNodeProbe_keeps (.refl s) v
  | .islBranchProbe v => execIslBranchProbe_keeps (.refl s) v
  | .alarmInput => execAlarmInput_keeps (.refl s)
  | .alarmAcknowledge slot gen => execAlarmAcknowledge_keeps (.refl s) slot gen
  | .almAckGo v => execAlmAckGo_keeps (.refl s) v
  | .almHostGo v => execAlmHostGo_keeps (.refl s) v
  | .lhPulseEnd pin => execLhPulseEnd_keeps (.refl s) pin
  | .almMessageClose dest => execAlmMessageClose_keeps (.refl s) dest
  | .almMessageRepeat dest => execAlmMessageRepeat_keeps (.refl s) dest
  | .almKeepalive dest => execAlmKeepalive_keeps (.refl s) dest
  | .feEnWrite v => execFeEnWrite_keeps (.refl s) v
  | .feSampleSet release pins refHz altHz => execFeSampleSet_keeps (.refl s) release pins refHz altHz
  | .feChannelCondition ch clip on => execFeChannelCondition_keeps (.refl s) ch clip on
  | .fePllRealign => execFePllRealign_keeps (.refl s)
  | .feCalSwapGo v => execFeCalSwapGo_keeps (.refl s) v
  | .lpeEstimate entry sec k handOff => execLpeEstimate_keeps (.refl s) entry sec k handOff
  | .mtrEnWrite v => execMtrEnWrite_keeps (.refl s) v
  | .mtrCycle now => execMtrCycle_keeps (.refl s) now
  | .mtrFlashSaveDone ok => execMtrFlashSaveDone_keeps (.refl s) ok
  | .pulseStart o => execPulseStart_keeps (.refl s) o
  | .pulseEnd o => execPulseEnd_keeps (.refl s) o
  | .pfwAssert => execPfwAssert_keeps (.refl s)
  | .pfwDeassert => execPfwDeassert_keeps (.refl s)
  | .capChArm ch => execCapChArm_keeps (.refl s) ch
  | .capChAbort ch => execCapChAbort_keeps (.refl s) ch
  | .capChSwtrig ch => execCapChSwtrig_keeps (.refl s) ch
  | .capTrigger ch => execCapTrigger_keeps (.refl s) ch
  | .capOverflow ch fifo => execCapOverflow_keeps (.refl s) ch fifo
  | .capEnd ch => execCapEnd_keeps (.refl s) ch
  | .trgPulseRx line fall rise => execTrgPulseRx_keeps (.refl s) line fall rise
  | .trgLineStuck line => execTrgLineStuck_keeps (.refl s) line
  | .capTrgOutGo v => execCapTrgOutGo_keeps (.refl s) v
  | .trgOutPulseStart line stamp => execTrgOutPulseStart_keeps (.refl s) line stamp
  | .trgOutPulseEnd line => execTrgOutPulseEnd_keeps (.refl s) line
  | .logRingBaseWrite v => execLogRingBaseWrite_keeps (.refl s) v
  | .logEvent => execLogEvent_keeps (.refl s)
  | .logRecordWrite => execLogRecordWrite_keeps (.refl s)
  | .logCheckpoint => execLogCheckpoint_keeps (.refl s)
  | .logNonceRead => execLogNonceRead_keeps (.refl s)
  | .taskSubmit req => execTaskSubmit_keeps (.refl s) req
  | .taskDispatch cls => execTaskDispatch_keeps (.refl s) cls
  | .taskWait ix => execTaskWait_keeps (.refl s) ix
  | .waitEventArrives ix => execWaitEventArrives_keeps (.refl s) ix
  | .waitTimeout ix => execWaitTimeout_keeps (.refl s) ix
  | .delayWake ix => execDelayWake_keeps (.refl s) ix
  | .taskAging ix => execTaskAging_keeps (.refl s) ix
  | .taskComplete ix => execTaskComplete_keeps (.refl s) ix
  | .taskAbort h owner => execTaskAbort_keeps (.refl s) h owner
  | .pltTaskProbe v => execPltTaskProbe_keeps (.refl s) v
  | .pltRlCapWrite c v => execPltRlCapWrite_keeps (.refl s) c v
  | .pltRotFirmware v => execPltRotFirmware_keeps (.refl s) v
  | .pltRotSelftest v => execPltRotSelftest_keeps (.refl s) v
  | .rotDrainTimeout => execRotDrainTimeout_keeps (.refl s)
  | .engineLoadDone sigOk => execEngineLoadDone_keeps (.refl s) sigOk
  | .engineTestDone ok => execEngineTestDone_keeps (.refl s) ok
  | .engineRejoinDone e => execEngineRejoinDone_keeps (.refl s) e
  | .engCounterWrap e ix addr skid busy => execEngCounterWrap_keeps (.refl s) e ix addr skid busy
  | .engCntClr e => execEngCntClr_keeps (.refl s) e
  | .engCntSelWrite e ix v => execEngCntSelWrite_keeps (.refl s) e ix v
  | .engCntPreload e ix v => execEngCntPreload_keeps (.refl s) e ix v
  | .freezeAllWrite v => execFreezeAllWrite_keeps (.refl s) v
  | .clrAll => execClrAll_keeps (.refl s)
  | .dbgTapReset => execDbgTapReset_keeps (.refl s)
  | .extest resetLow bits => execExtest_keeps (.refl s) resetLow bits
  | .samplePreload captured bits => execSamplePreload_keeps (.refl s) captured bits
  | .idcode => execIdcode_keeps (.refl s)
  | .highz resetLow => execHighz_keeps (.refl s) resetLow
  | .clamp resetLow => execClamp_keeps (.refl s) resetLow
  | .bypass => execBypass_keeps (.refl s)
  | .dbgNonce => execDbgNonce_keeps (.refl s)
  | .dbgUnlock level sig => execDbgUnlock_keeps (.refl s) level sig
  | .memapRead off => execMemapRead_keeps (.refl s) off
  | .memapWrite off v => execMemapWrite_keeps (.refl s) off v
  | .engdbgHalt e => execEngdbgHalt_keeps (.refl s) e
  | .engdbgResume e => execEngdbgResume_keeps (.refl s) e
  | .engdbgStep e => execEngdbgStep_keeps (.refl s) e
  | .engdbgReadLocal e addr => execEngdbgReadLocal_keeps (.refl s) e addr
  | .engdbgReadReg e r => execEngdbgReadReg_keeps (.refl s) e r
  | .dbgRelock => execDbgRelock_keeps (.refl s)
  | .dbgPortDis => execDbgPortDis_keeps (.refl s)
  | .ringPairEnWrite n v => execRingPairEnWrite_keeps (.refl s) n v
  | .sqTailDoorbell n v => execSqTailDoorbell_keeps (.refl s) n v
  | .cqHeadDoorbell n v => execCqHeadDoorbell_keeps (.refl s) n v
  | .manifestFetch n bytes => execManifestFetch_keeps (.refl s) n bytes
  | .manifestComplete n => execManifestComplete_keeps (.refl s) n
  | .hostDmaError n => execHostDmaError_keeps (.refl s) n
  | .delivery => execDelivery_keeps (.refl s)
  | .deliveryTimeout n => execDeliveryTimeout_keeps (.refl s) n
  | .coalesceTimer n => execCoalesceTimer_keeps (.refl s) n
  | .nop n => execNop_keeps (.refl s) n
  | .abort n => execAbort_keeps (.refl s) n
  | .cfgLoad n buf => execCfgLoad_keeps (.refl s) n buf
  | .cfgWrite n buf => execCfgWrite_keeps (.refl s) n buf
  | .cfgCopy n => execCfgCopy_keeps (.refl s) n
  | .commit n => execCommit_keeps (.refl s) n
  | .commitValidationDone => execCommitValidationDone_keeps (.refl s)
  | .cfgSave n ok => execCfgSave_keeps (.refl s) n ok
  | .cfgRead n ok => execCfgRead_keeps (.refl s) n ok
  | .cfgSwinWrite v => execCfgSwinWrite_keeps (.refl s) v
  | .hostSend n buf => execHostSend_keeps (.refl s) n buf
  | .inject n buf => execInject_keeps (.refl s) n buf
  | .almAck ring => execAlmAck_keeps (.refl s) ring
  | .almHost ring => execAlmHost_keeps (.refl s) ring
  | .capArm n => execCapArm_keeps (.refl s) n
  | .capTriggerManifest n => execCapTriggerManifest_keeps (.refl s) n
  | .capAbort n => execCapAbort_keeps (.refl s) n
  | .mtrReset n buf => execMtrReset_keeps (.refl s) n buf
  | .mtrRead n ok => execMtrRead_keeps (.refl s) n ok
  | .logNote n => execLogNote_keeps (.refl s) n
  | .logClear n buf => execLogClear_keeps (.refl s) n buf
  | .fwStage n buf sigOk ok ver => execFwStage_keeps (.refl s) n buf sigOk ok ver
  | .rotate n => execRotate_keeps (.refl s) n
  | .subsysSet n ok => execSubsysSet_keeps (.refl s) n ok
  | .keyWrite n buf => execKeyWrite_keeps (.refl s) n buf
  | .keyReplace n buf => execKeyReplace_keeps (.refl s) n buf
  | .keyErase n => execKeyErase_keeps (.refl s) n
  | .keyPubkey n ok => execKeyPubkey_keeps (.refl s) n ok
  | .keyClose n => execKeyClose_keeps (.refl s) n
  | .keyNonceRead => execKeyNonceRead_keeps (.refl s)
  | .keyStoreWriteDone ok => execKeyStoreWriteDone_keeps (.refl s) ok
  | .keyDeriveDone slot => execKeyDeriveDone_keeps (.refl s) slot
  | .cryptoOpDone ix => execCryptoOpDone_keeps (.refl s) ix
  | .twnHandover ring => execTwnHandover_keeps (.refl s) ring
  | .twnResync ring => execTwnResync_keeps (.refl s) ring
  | .twnSave ring ok => execTwnSave_keeps (.refl s) ring ok
  | .twnCtrlHandover force => execTwnCtrlHandover_keeps (.refl s) force
  | .twnCtrlResync => execTwnCtrlResync_keeps (.refl s)
  | .twnCtrlSave ok => execTwnCtrlSave_keeps (.refl s) ok
  | .twnEnWrite v => execTwnEnWrite_keeps (.refl s) v
  | .aizLaneUp lane => execAizLaneUp_keeps (.refl s) lane
  | .aizLaneDown lane => execAizLaneDown_keeps (.refl s) lane
  | .helloTx => execHelloTx_keeps (.refl s)
  | .hello f => execHello_keeps (.refl s) f
  | .heartbeatTx => execHeartbeatTx_keeps (.refl s)
  | .heartbeat f => execHeartbeat_keeps (.refl s) f
  | .hbWordRx w => execHbWordRx_keeps (.refl s) w
  | .mirror f => execMirror_keeps (.refl s) f
  | .resync f => execResync_keeps (.refl s) f
  | .handover f => execHandover_keeps (.refl s) f
  | .take f => execTake_keeps (.refl s) f
  | .handoverAnswerTimeout => execHandoverAnswerTimeout_keeps (.refl s)
  | .handoverReturnCheck => execHandoverReturnCheck_keeps (.refl s)
  | .takeover => execTakeover_keeps (.refl s)
  | .pathLost hb => execPathLost_keeps (.refl s) hb
  | .bothLost => execBothLost_keeps (.refl s)
  | .twnWaitTimeout => execTwnWaitTimeout_keeps (.refl s)
  | .twnJoinTimeout => execTwnJoinTimeout_keeps (.refl s)
  | .twnMismatchTimeout => execTwnMismatchTimeout_keeps (.refl s)
  | .twnPeriodicSave ok => execTwnPeriodicSave_keeps (.refl s) ok
  | .twnStandbyTest => execTwnStandbyTest_keeps (.refl s)
  | .faultEvent ext => execFaultEvent_keeps (.refl s) ext
  | .faultPairBroken src => execFaultPairBroken_keeps (.refl s) src
  | .faultLevelDecay src => execFaultLevelDecay_keeps (.refl s) src
  | .faultReactionDone => execFaultReactionDone_keeps (.refl s)
  | .fltFerRelease v => execFltFerRelease_keeps (.refl s) v
  | .fltInjectGo v => execFltInjectGo_keeps (.refl s) v
  | .fltInject ring => execFltInject_keeps (.refl s) ring
  | .fltReleaseGo v => execFltReleaseGo_keeps (.refl s) v
  | .fltRelease ring => execFltRelease_keeps (.refl s) ring
  | .degradeClr => execDegradeClr_keeps (.refl s)
  | .bstRun ring => execBstRun_keeps (.refl s) ring
  | .bstCtrlSlice slice => execBstCtrlSlice_keeps (.refl s) slice
  | .bstCtrlWhole => execBstCtrlWhole_keeps (.refl s)
  | .bstCtrlShutdown => execBstCtrlShutdown_keeps (.refl s)
  | .bstCtrlAbort => execBstCtrlAbort_keeps (.refl s)
  | .bistSliceDone pass => execBistSliceDone_keeps (.refl s) pass
  | .pwrLtrWrite v => execPwrLtrWrite_keeps (.refl s) v
  | .pwrEntryStepDone => execPwrEntryStepDone_keeps (.refl s)
  | .pwrWake src => execPwrWake_keeps (.refl s) src
  | .bkpSwitchToVbat frac mv => execBkpSwitchToVbat_keeps (.refl s) frac mv
  | .bkpReturnToMain frac => execBkpReturnToMain_keeps (.refl s) frac
  | .vbatMeasure mv => execVbatMeasure_keeps (.refl s) mv
  | .bkpPorAssert => execBkpPorAssert_keeps (.refl s)
  | .bkpPorRelease => execBkpPorRelease_keeps (.refl s)
  | .rtcGroupRead reg frac => execRtcGroupRead_keeps (.refl s) reg frac
  | .rtcShadowTimeout => execRtcShadowTimeout_keeps (.refl s)
  | .rtcHaltWrite v => execRtcHaltWrite_keeps (.refl s) v
  | .rtcSetFracWrite v => execRtcSetFracWrite_keeps (.refl s) v
  | .rtcSetSecWrite v => execRtcSetSecWrite_keeps (.refl s) v
  | .rtcWake => execRtcWake_keeps (.refl s)
  | .rtcRstCtrlWrite v env => execRtcRstCtrlWrite_keeps (.refl s) v env
  | .eccAddrRead => execEccAddrRead_keeps (.refl s)
  | .mtrPointLatchRead m => execMtrPointLatchRead_keeps (.refl s) m
  | .slewingEnd at_ rest => execSlewingEnd_keeps (.refl s) at_ rest
  | .sealInstantWithoutGrid => execSealInstantWithoutGrid_keeps (.refl s)
  | .aizhanFrameSent => execAizhanFrameSent_keeps (.refl s)
  | .powerStateExitDone => execPowerStateExitDone_keeps (.refl s)
  | .pcieLinkStateChange speed width l1 => execPcieLinkStateChange_keeps (.refl s) speed width l1
  | .trgLineStuckEnd line => execTrgLineStuckEnd_keeps (.refl s) line
  | .rtcSecondRollover => execRtcSecondRollover_keeps (.refl s)

/-- Whatever next state a command answers, Keeps relates it to the state before. -/
theorem exec_next_keeps {c : Instr} {s t : State} (e : exec c s = .next t) : Keeps s t := by
  obtain ⟨u, hu, k⟩ := exec_keeps c s
  rw [e] at hu
  cases hu
  exact k

/-- A state that Keeps relates to one in canonical form is in canonical form. -/
theorem Keeps.inv {s t : State} (k : Keeps s t) (h : s.Inv) : t.Inv := by
  obtain ⟨hregs, hdram⟩ := h
  exact ⟨k.regs hregs, k.dram hdram⟩

/-- The canonical forms do not depend on the queue. -/
theorem State.withPending_inv {s : State} (h : s.Inv) (q : List Instr) : (s.withPending q).Inv := h

/-- Settles O4: an idle step changes nothing, and any other step is its front command's, which Keeps describes. -/
theorem stepKeepsInvariant : Obligations.StepKeepsInvariant := by
  unfold Obligations.StepKeepsInvariant
  intro s t h e
  unfold step at e
  split at e
  next =>
    cases e
    exact h
  next c rest _ => exact (exec_next_keeps e).inv (State.withPending_inv h rest)

/-- Settles O5: Keeps says of each command what the statement says of all of them. -/
theorem commandsTakeNothingBack : Obligations.CommandsTakeNothingBack := by
  unfold Obligations.CommandsTakeNothingBack
  intro c s t e
  have k := exec_next_keeps e
  exact ⟨k.pending, k.variant, k.dramGiB, k.closed, k.fresh, k.out⟩

end Sys2Proof.Machine
end

section
/-! SUPPORT. ID_ENG_MASK shows which engines a part has (R13). -/

namespace Sys2Proof.Machine

variable {s : State}

/-- The register shows the mask of the part's engines, in no block that a part may lack. -/
theorem State.viewReg_engMask (s : State) : s.viewReg Reg.ID_ENG_MASK = BitVec.ofNat 32 s.engMask := rfl

/-- An engine of R23 is present exactly where its bit of the register is set. -/
theorem State.hasEng_eq_engMask_bit {n : Nat} (h : n < 32) : s.hasEng n = (s.viewReg Reg.ID_ENG_MASK).getLsbD n := by
  rw [State.viewReg_engMask, BitVec.getLsbD_ofNat, decide_eq_true h, Bool.true_and]
  rfl

theorem State.engMask_full (h : s.hw.variant = .fn8240 ∨ s.hw.variant = .fn8230) : s.engMask = 0xFFFFFFFF := by
  rcases h with h | h <;> simp [State.engMask, h]

theorem State.engMask_fn8220 (h : s.hw.variant = .fn8220) : s.engMask = 0xCF0FFFFF := by
  simp [State.engMask, h]

/-- Settles O60: the mask is one number for each part, whose 32 bits are compared. -/
theorem engineMask : Obligations.EngineMask := by
  unfold Obligations.EngineMask
  intro s
  refine ⟨fun n hn => State.hasEng_eq_engMask_bit hn, fun h => ?_, fun h => ?_⟩
  · have hm := State.engMask_full h
    refine ⟨by rw [State.viewReg_engMask, hm]; rfl, ?_⟩
    unfold State.hasEng
    rw [hm]
    decide
  · have hm := State.engMask_fn8220 h
    refine ⟨by rw [State.viewReg_engMask, hm]; rfl, ?_⟩
    unfold State.hasEng
    rw [hm]
    decide

end Sys2Proof.Machine
end

section
/-! SUPPORT. Aligned accesses of BAR0 by the host, and those that are not performed: where each goes (R15, R49, R450, R486). -/

namespace Sys2Proof.Machine

variable {s : State} {o : Nat} {v : Word}

/-! ### Writes -/

/-- A write of an absent unit's block is ignored. -/
theorem State.bar0Write_absent (h : s.blockAbsent o = true) : s.bar0Write o v 63 = s := by
  simp [State.bar0Write, h]

/-- A write of an offset without a register is an access error of the host. -/
theorem State.bar0Write_unmapped (ha : s.blockAbsent o = false) (hr : rowAt o = none) (hb : blockOf o ≠ .id) :
    s.bar0Write o v 63 = s.report 55 0 63 6 o := by
  simp [State.bar0Write, ha, hr, hb, State.accErr, b2n]

/-- The ID block ignores a write of an offset without a register. -/
theorem State.bar0Write_unmapped_id (hr : rowAt o = none) (hb : blockOf o = .id) : s.bar0Write o v 63 = s := by
  simp [State.bar0Write, hr, hb]

/-- A write of a register goes on to the block's unit. -/
theorem State.bar0Write_register (hr : (rowAt o).isSome) :
    s.bar0Write o v 63 = s.busWrite o v 63 fun s => s.regAct o v := by
  have hn : (rowAt o).isNone = false := by simpa [Option.isNone_eq_false_iff] using hr
  by_cases ha : s.blockAbsent o = true
  · rw [State.bar0Write_absent ha, State.busWrite_absent ha]
  · simp [State.bar0Write, ha, hn]

/-- A fenced unit's registers ignore writes. -/
theorem State.busWrite_fenced (h : s.blockFenced o = true) (f : State → State) : s.busWrite o v 63 f = s := by
  simp [State.busWrite, h]

/-- A write to a stopped domain, or one that would end an entry condition, waits and wakes the device. -/
theorem State.busWrite_waits (ha : s.blockAbsent o = false) (hf : s.blockFenced o = false)
    (h : s.blockStopped o = true ∨ s.endsCondition o v = true) (f : State → State) :
    s.busWrite o v 63 f = s.holdAccess ⟨false, o, some v, 63⟩ 2 := by
  simp [State.busWrite, ha, hf, h]

/-- An aligned host write is one of BAR0 by master 63. -/
theorem answers_registerWrite (h : o % 4 = 0) : Answers (.registerWrite o v) s (s.bar0Write o v 63) := by
  show Host.Outcome.next (State.after s (registerWriteRow o v s)) = _
  rw [registerWriteRow, if_pos h]

/-- A host write that reaches a register's unit is what the unit makes of it. -/
theorem answers_registerWrite_reaches (h : o % 4 = 0) (hR : s.Reaches o v) (hr : (rowAt o).isSome) :
    Answers (.registerWrite o v) s (s.regAct o v) := by
  have e := answers_registerWrite (s := s) (v := v) h
  rwa [State.bar0Write_reaches hR hr] at e

/-- Settles O8: the cases of bar0Write and busWrite in their order. -/
theorem registerWriteTakesItsPath : Obligations.RegisterWriteTakesItsPath := by
  unfold Obligations.RegisterWriteTakesItsPath
  intro o v s ho
  have e := answers_registerWrite (s := s) (v := v) ho
  refine ⟨fun ha => ?_, fun ha hr hb => ?_, fun hr hb => ?_, fun _ hr hf => ?_, fun ha hr hf hw => ?_,
    answers_registerWrite_reaches ho⟩
  · rwa [State.bar0Write_absent ha] at e
  · rwa [State.bar0Write_unmapped ha hr hb] at e
  · rwa [State.bar0Write_unmapped_id hr hb] at e
  · rwa [State.bar0Write_register hr, State.busWrite_fenced hf] at e
  · rwa [State.bar0Write_register hr, State.busWrite_waits ha hf hw] at e

/-! ### Reads -/

/-- A read of an offset without a register is an access error of the host and returns zero. -/
theorem State.bar0Read_unmapped (ha : s.blockAbsent o = false) (hr : rowAt o = none) (hb : blockOf o ≠ .id) :
    s.bar0Read o 63 = { (s.report 55 0 63 5 o) with rdata := 0 } := by
  simp [State.bar0Read, ha, hr, hb, State.accErr, b2n]

/-! ### Accesses of a wrong size and of unassigned offsets -/

/-- Whether a 64-bit access is one that the MSI-X table or its pending bits take (R423). -/
def msix64 (o size : Nat) : Prop := size = 8 ∧ o % 8 = 0 ∧ ((0x18000 ≤ o ∧ o < 0x18400) ∨ (0x19000 ≤ o ∧ o < 0x19008))

/-- The MSI-X table and its pending bits lie in the HIF block. -/
theorem blockOf_of_msix64 {size : Nat} (h : msix64 o size) : blockOf o = .hif := by
  have hq : o / 0x10000 = 1 := by
    obtain ⟨_, _, h⟩ := h
    omega
  simp [blockOf, hq]

/-- An access of a wrong size is recorded, but in the block of an absent unit; a read returns zero. -/
theorem missizedRow_unperformed {bar2 : Bool} {size : Nat} (hw : ¬(size = 4 ∧ o % 4 = 0)) (hm : bar2 = true ∨ ¬msix64 o size)
    (write : Bool) :
    missizedRow bar2 o size write s =
      let s1 := if write then s else { s with rdata := 0 }
      if !bar2 && s.blockAbsent o then s1 else s1.report 55 0 63 (5 + b2n write) (if bar2 then 2 ^ 32 + o else o) := by
  have hm : ¬(!bar2 ∧ size = 8 ∧ o % 8 = 0 ∧ ((0x18000 ≤ o ∧ o < 0x18400) ∨ (0x19000 ≤ o ∧ o < 0x19008))) := by
    rintro ⟨hb, h⟩
    rcases hm with hm | hm
    · simp [hm] at hb
    · exact hm h
  unfold missizedRow
  rw [if_neg hw, if_neg hm]
  rfl

theorem answers_missizedAccess {bar2 write : Bool} {size : Nat} {u : State} (h : missizedRow bar2 o size write s = u) :
    Answers (.missizedAccess bar2 o size write) s u := by
  subst h
  rfl

/-- An aligned write of an unassigned offset is one by the host. -/
theorem answers_unmappedWrite (h4 : o % 4 = 0) (hr : rowAt o = none) : Answers (.unmappedAccess o (some v)) s (s.bar0Write o v 63) := by
  show Host.Outcome.next (State.after s (unmappedRow o (some v) s)) = _
  simp [unmappedRow, h4, hr]

/-- An aligned read of an unassigned offset is one by the host. -/
theorem answers_unmappedRead (h4 : o % 4 = 0) (hr : rowAt o = none) : Answers (.unmappedAccess o none) s (s.bar0Read o 63) := by
  show Host.Outcome.next (State.after s (unmappedRow o none s)) = _
  simp [unmappedRow, h4, hr]

/-- An aligned word written by an access of its own size is an ordinary write of a free value. -/
theorem missizedRow_wordWrite (h4 : o % 4 = 0) :
    missizedRow false o 4 true s = s.freshNext.bar0Write o (BitVec.ofNat 32 s.freshVal) 63 := by
  simp [missizedRow, h4]

/-- An aligned word read by an access of its own size is an ordinary read. -/
theorem missizedRow_wordRead (h4 : o % 4 = 0) : missizedRow false o 4 false s = s.bar0Read o 63 := by
  simp [missizedRow, h4]

/-- Settles O14: an access is not performed by its size or for want of a register; an aligned word is. -/
theorem unperformedAccessesRecorded : Obligations.UnperformedAccessesRecorded := by
  unfold Obligations.UnperformedAccessesRecorded
  intro o size s
  refine ⟨fun hw hm ha => ⟨?_, ?_⟩, fun hw => ⟨?_, ?_⟩, fun hw ha hb => ⟨?_, ?_⟩, fun h4 hr ha hb v => ⟨?_, ?_⟩,
    fun h4 hR hr => ?_, fun h4 hR hr => ?_⟩
  · exact answers_missizedAccess (by simp [missizedRow_unperformed hw (.inr hm), ha, b2n])
  · exact answers_missizedAccess (by simp [missizedRow_unperformed hw (.inr hm), ha, b2n])
  · exact answers_missizedAccess (by simp [missizedRow_unperformed hw (.inl rfl), b2n])
  · exact answers_missizedAccess (by simp [missizedRow_unperformed hw (.inl rfl), b2n])
  · have hm : ¬msix64 o size := fun h => hb (blockOf_of_msix64 h)
    exact answers_missizedAccess (by simp [missizedRow_unperformed hw (.inr hm), ha])
  · have hm : ¬msix64 o size := fun h => hb (blockOf_of_msix64 h)
    exact answers_missizedAccess (by simp [missizedRow_unperformed hw (.inr hm), ha])
  · rw [← State.bar0Write_unmapped ha hr hb]
    exact answers_unmappedWrite h4 hr
  · rw [← State.bar0Read_unmapped ha hr hb]
    exact answers_unmappedRead h4 hr
  · exact answers_missizedAccess (by rw [missizedRow_wordWrite h4, State.bar0Write_reaches hR hr])
  · exact answers_missizedAccess (by rw [missizedRow_wordRead h4, State.bar0Read_readable hR hr])

end Sys2Proof.Machine
end

section
/-! SUPPORT. Registers whose chapters give a write no action take it by their access code (R15 to R17): the plain registers, the event
registers with their enables (R422), and the pairs whose halves apply together. -/

namespace Sys2Proof.Machine

variable {s : State} {o : Nat} {v : Word}

/-! ### Offsets without an action of their own -/

/-- Whether a write of an offset is one by the access code alone: the offset is none of those at which its block acts, and no register
whose value at a frame's start is kept (R88, R118). -/
def takesPlainWrite (o : Nat) : Bool :=
  match blockOf o with
  | .hif => decide (o ≠ Reg.HIF_CTRL) && decide (¬(0x10100 ≤ o ∧ o < 0x10500 ∧ (o - 0x10100) % 0x40 = 0))
  | .cfg => decide (o ≠ Reg.CFG_SWIN_DATA)
  | .pwr => decide (o ≠ Reg.PWR_LTR)
  | .tb => decide (o ≠ Reg.TB_SET_SEC_HI) && decide (o ≠ Reg.TB_LEAP_CTRL) &&
      decide (¬(0x40100 ≤ o ∧ o < 0x40280 ∧ (o - 0x40100) % 0x40 = 0)) && decide (o ≠ Reg.TB_HOLD_LIMIT) && !frameReg o
  | .mac => decide ((o - 0x50000) % 0x1000 ≠ 0) && decide ((o - 0x50000) % 0x1000 ≠ 0x18) && !kindAt o .hi && !frameReg o
  | .bin => decide (o ≠ Reg.BIN_CTRL) && decide (o ≠ Reg.BIN_DIR_CTRL) && decide (o ≠ Reg.BIN_WIN_DATA)
  | .aln => decide (o ≠ Reg.ALN_CTRL) && decide (o ≠ Reg.ALN_RING_BASE_LO) && decide (o ≠ Reg.ALN_RING_BASE_HI) &&
      decide (o ≠ Reg.ALN_PROBE_SEQ_HI)
  | .osc => decide (o ≠ Reg.OSC_CTRL)
  | .isl => decide (o ≠ Reg.ISL_CTRL) && decide (o ≠ Reg.ISL_NODE_SEL) && decide (o ≠ Reg.ISL_BR_SEL)
  | .alm => decide (o ≠ Reg.ALM_CTRL) && decide (o ≠ Reg.ALM_KEEPALIVE) && decide (o ≠ Reg.ALM_PIN_FORCE) &&
      decide (o ≠ Reg.ALM_ACK) && decide (o ≠ Reg.ALM_HOST)
  | .outp => decide (o ≠ Reg.OUT_CTRL)
  | .fe => decide (o ≠ Reg.FE_CTRL) && decide (o ≠ Reg.FE_CAL_SWAP) &&
      decide (¬(0xB0400 ≤ o ∧ o < 0xB0700 ∧ 0x10 ≤ (o - 0xB0400) % 0x20 ∧ (o - 0xB0400) % 0x20 < 0x1C))
  | .mtr => decide (o ≠ Reg.MTR_CTRL)
  | .cap => decide (o ≠ Reg.CAP_CTRL) && decide (o ≠ Reg.CAP_TRG_OUT) && decide (o ≠ Reg.CAP_WIN_DATA) &&
      decide (¬(0xD0100 ≤ o ∧ o < 0xD0200 ∧ (o - 0xD0100) % 0x40 = 0))
  | .logb => decide (o ≠ Reg.LOG_CTRL) && decide (o ≠ Reg.LOG_RING_BASE_HI)
  | .plt => decide (o ≠ Reg.PLT_CTRL) && decide (o ≠ Reg.PLT_ROT_CTRL) && decide (o ≠ Reg.PLT_CNT_CTRL) &&
      decide (o ≠ Reg.PLT_TASK_SEL) && decide (¬(0xF0020 ≤ o ∧ o < 0xF0038))
  | .twn => decide (o ≠ Reg.TWN_CTRL) && decide (o ≠ Reg.TWN_CFG) && decide (o ≠ Reg.TWN_DT_LIMIT)
  | .flt => decide (o ≠ Reg.FLT_CTRL) && decide (o ≠ Reg.FLT_FER_REL) && decide (o ≠ Reg.FLT_INJECT) && decide (o ≠ Reg.FLT_RELEASE)
  | .bst => decide (o ≠ Reg.BST_CTRL)
  | .key => decide (o ≠ Reg.KEY_CTRL)
  | .rtc => decide (o ≠ Reg.RTC_CTRL) && decide (o ≠ Reg.RTC_FLAGS) && decide (o ≠ Reg.RTC_SET_FRAC) &&
      decide (o ≠ Reg.RTC_SET_SEC_HI) && decide (o ≠ Reg.RTC_WAKE) && decide (o ≠ Reg.RTC_TRIM) && decide (o ≠ Reg.RTC_RST_CFG) &&
      decide (o ≠ Reg.RTC_RST_CTRL)
  | .dbg => decide (o ≠ Reg.DBG_CTRL)
  | _ => false

/-- A register whose value at a frame's start nobody keeps leaves nothing behind when it is written. -/
theorem State.pastNote_of_not_frameReg (h : frameReg o = false) : s.pastNote o = s := by
  simp [State.pastNote, h]

/-- What a unit makes of a write of such an offset. -/
theorem State.regAct_plain (h : takesPlainWrite o = true) : s.regAct o v = s.plainWrite o v := by
  unfold State.regAct
  cases hb : blockOf o <;> simp [takesPlainWrite, hb] at h
  case hif => simp [hifRegWrite, h]; omega
  case tb => simp [tbRegWrite, State.pastNote_of_not_frameReg, h]; omega
  case mac => simp [macRegWrite, State.pastNote_of_not_frameReg, h]
  case aln => simp [alnRegWrite, h]
  case alm => simp [almRegWrite, h]
  case fe => simp [feRegWrite, h]; omega
  case cap => simp [capRegWrite, h]; omega
  case plt => simp [pltRegWrite, h]; omega
  case flt => simp [fltRegWrite, h]
  case rtc => simp [rtcRegWrite, h]
  all_goals simp [h]

/-! ### What a write does by the access code -/

section row

variable {r : RegRow} (hr : rowAt o = some r)
include hr

theorem isPair_of_row : isPair o = (r.kind == .lo || r.kind == .hi) := by
  simp [isPair, hr]

theorem State.writeReg_of_row : s.writeReg o v =
    s.setReg o (clampWord r.clamps ((s.reg o &&& ~~~(BitVec.ofNat 32 r.rw)) ||| (v &&& BitVec.ofNat 32 r.rw))) := by
  simp [State.writeReg, hr]

theorem State.plainWrite_rw (hw : s.writable o = true) (ha : r.acc = .rw) (hl : r.kind ≠ .lo) (hh : r.kind ≠ .hi) :
    s.plainWrite o v =
      s.setReg o (clampWord r.clamps ((s.reg o &&& ~~~(BitVec.ofNat 32 r.rw)) ||| (v &&& BitVec.ofNat 32 r.rw))) := by
  simp [State.plainWrite, hr, hw, ha, hl, hh, State.writeReg_of_row hr]

theorem State.plainWrite_w1c (hw : s.writable o = true) (ha : r.acc = .w1c) :
    s.plainWrite o v = s.setReg o (s.reg o &&& ~~~(v &&& BitVec.ofNat 32 r.w1c)) := by
  simp [State.plainWrite, hr, hw, ha]

theorem State.plainWrite_readOnly (ha : r.acc ∈ [Acc.ro, .rc, .wo, .rsv]) : s.plainWrite o v = s := by
  cases hacc : r.acc <;> simp [hacc] at ha <;> simp [State.plainWrite, hr, hacc]

/-- The LO half of a pair is held for the write of its HI half (R16). -/
theorem State.plainWrite_lo (hw : s.writable o = true) (ha : r.acc = .rw) (hk : r.kind = .lo) :
    s.plainWrite o v = { s with hold := mapSet s.hold o (v &&& BitVec.ofNat 32 r.rw) } := by
  simp [State.plainWrite, hr, hw, ha, hk, isPair_of_row hr]

/-- The HI half of a pair takes the half that is held with it (R16). -/
theorem State.plainWrite_hi (hw : s.writable o = true) (ha : r.acc = .rw) (hk : r.kind = .hi) :
    s.plainWrite o v = (s.takeHeld (o - 4)).writeReg o v := by
  simp [State.plainWrite, hr, hw, ha, hk, isPair_of_row hr]

end row

/-- The write of a register without an action of its own is one by its access code. -/
theorem answers_plainWrite (h4 : o % 4 = 0) (hp : takesPlainWrite o = true) {r : RegRow} (hr : rowAt o = some r) (hR : s.Reaches o v) :
    Answers (.registerWrite o v) s (s.plainWrite o v) := by
  rw [← State.regAct_plain hp]
  exact answers_registerWrite_reaches h4 hR (by simp [hr])

/-- Settles O9: in these blocks every other register takes a write by its access code. -/
theorem plainRegistersByAccessCode : Obligations.PlainRegistersByAccessCode := by
  unfold Obligations.PlainRegistersByAccessCode
  intro o v s r hb ho hr h4 hR hw
  have hp : takesPlainWrite o = true := by
    simp only [List.mem_cons, List.not_mem_nil, or_false, not_or] at hb ho
    rcases hb with hb | hb | hb | hb | hb | hb <;> simp [takesPlainWrite, hb, ho]
  have e := answers_plainWrite h4 hp hr hR
  refine ⟨fun ha hl hh => ?_, fun ha => ?_, fun ha => ?_⟩
  · rwa [State.plainWrite_rw hr hw ha hl hh] at e
  · rwa [State.plainWrite_w1c hr hw ha] at e
  · rwa [State.plainWrite_readOnly hr ha] at e

/-! ### Event registers and their enables (R422) -/

/-- Whether an offset is an aligned register of an access code and a kind, without clamped fields and without an action of its own. -/
def isPlainRow (a : Acc) (k : Kind) (o : Nat) : Bool :=
  o % 4 == 0 && takesPlainWrite o && (rowAt o).any fun r => r.acc == a && r.kind == k && r.clamps.isEmpty

theorem exists_row_of_isPlainRow {a : Acc} {k : Kind} (h : isPlainRow a k o = true) :
    o % 4 = 0 ∧ takesPlainWrite o = true ∧ ∃ r, rowAt o = some r ∧ r.acc = a ∧ r.kind = k ∧ r.clamps = [] := by
  simp only [isPlainRow, Bool.and_eq_true, beq_iff_eq, Option.any_eq_true, List.isEmpty_iff, and_assoc] at h
  exact h

theorem evtRegs_isPlainRow : (evtRegs.all fun p => isPlainRow .w1c .plain p.1 && isPlainRow .rw .plain p.2) = true := by
  decide +kernel

/-- None of the event registers is one of a ring or a region, which some states protect. -/
theorem evtRegs_writable : (evtRegs.all fun p => s.writable p.1 && s.writable p.2) = true := rfl

/-- Settles O10: each of these registers is written by its access code in every state. -/
theorem eventRegistersClearAndEnable : Obligations.EventRegistersClearAndEnable := by
  unfold Obligations.EventRegistersClearAndEnable
  intro p hp v s
  obtain ⟨hevt, hen⟩ := Bool.and_eq_true_iff.mp (List.all_eq_true.mp evtRegs_isPlainRow p hp)
  obtain ⟨hwEvt, hwEn⟩ := Bool.and_eq_true_iff.mp (List.all_eq_true.mp (evtRegs_writable (s := s)) p hp)
  constructor
  · intro hR
    obtain ⟨h4, hpl, r, hr, ha, _, _⟩ := exists_row_of_isPlainRow hevt
    have e := answers_plainWrite h4 hpl hr hR
    rw [State.plainWrite_w1c hr hwEvt ha] at e
    exact ⟨r, hr, ha, e⟩
  · intro hR
    obtain ⟨h4, hpl, r, hr, ha, hk, hc⟩ := exists_row_of_isPlainRow hen
    have e := answers_plainWrite h4 hpl hr hR
    rw [State.plainWrite_rw hr hwEn ha (by simp [hk]) (by simp [hk]), hc] at e
    exact ⟨r, hr, ha, e⟩

/-! ### Pairs whose halves apply together (R16, R453) -/

/-- The HI halves of the ring and region bases and of the leap-second table's entries. -/
def basePairHis : List Nat :=
  [Reg.OSC_RING_BASE_HI, Reg.ISL_RING_BASE_HI, Reg.ISL_MEMB_BASE_HI, Reg.MTR_REC_BASE_HI, Reg.TB_LEAP_0_HI] ++
    (List.range 31).map (fun i => Reg.TB_LEAP_HI i) ++
    (List.range 16).flatMap fun n => [Reg.HIF_RP_SQ_BASE_HI n, Reg.HIF_RP_CQ_BASE_HI n, Reg.HIF_RP_DATA_BASE_HI n]

theorem basePairHis_isPlainRow : (basePairHis.all fun o => isPlainRow .rw .hi o && isPlainRow .rw .lo (o - 4)) = true := by
  decide +kernel

/-- A write sets every bit of these HI halves. -/
theorem basePairHis_fullMask : (basePairHis.all fun o => (rowAt o).all fun r => r.rw == 2 ^ 32 - 1) = true := by
  decide +kernel

/-- A register all of whose bits a write sets holds the word written. -/
theorem State.writeReg_fullMask {r : RegRow} (hr : rowAt o = some r) (hm : r.rw = 2 ^ 32 - 1) (hc : r.clamps = []) :
    s.writeReg o v = s.setReg o v := by
  have hones : BitVec.ofNat 32 (2 ^ 32 - 1) = BitVec.allOnes 32 := rfl
  rw [State.writeReg_of_row hr, hm, hc, hones]
  simp only [clampWord, List.foldl_nil, BitVec.not_allOnes, BitVec.and_zero, BitVec.zero_or, BitVec.and_allOnes]

theorem State.takeHeld_of_some {lo : Nat} {w : Word} (h : mapFind s.hold lo = some w) :
    s.takeHeld lo = ({ s with hold := mapDel s.hold lo } : State).setReg lo w := by
  simp [State.takeHeld, h]

theorem State.takeHeld_of_none {lo : Nat} (h : mapFind s.hold lo = none) : s.takeHeld lo = s := by
  simp [State.takeHeld, h]

/-- A write of a HI half that reaches its unit is what the unit makes of it. -/
theorem answers_pairHiWrite {r : RegRow} (hr : rowAt o = some r) (hk : r.kind = .hi) (hR : s.Reaches o v) :
    Answers (.pairHiWrite o v) s (s.regAct o v) := by
  have hkind : kindAt o .hi = true := by simp [kindAt, hr, hk]
  show Host.Outcome.next (State.after s (pairHiWriteRow o v s)) = _
  rw [pairHiWriteRow, if_pos hkind, State.bar0Write_reaches hR (by simp [hr])]

/-- Settles O11: the write of HI first puts the held LO half in place, if one waits. -/
theorem pairHalvesApplyTogether : Obligations.PairHalvesApplyTogether := by
  unfold Obligations.PairHalvesApplyTogether
  intro o ho v s
  obtain ⟨hhi, hlo⟩ := Bool.and_eq_true_iff.mp (List.all_eq_true.mp basePairHis_isPlainRow o ho)
  refine ⟨fun hR hw => ?_, fun hR hw => ?_⟩
  · obtain ⟨_, hpl, r, hr, ha, hk, hc⟩ := exists_row_of_isPlainRow hhi
    have hm : r.rw = 2 ^ 32 - 1 := by simpa [hr] using List.all_eq_true.mp basePairHis_fullMask o ho
    have e := answers_pairHiWrite hr hk hR
    rw [State.regAct_plain hpl, State.plainWrite_hi hr hw ha hk, State.writeReg_fullMask hr hm hc] at e
    refine ⟨fun lo hheld => ?_, fun hnone => ?_⟩
    · rwa [State.takeHeld_of_some hheld] at e
    · rwa [State.takeHeld_of_none hnone] at e
  · obtain ⟨h4, hpl, r, hr, ha, hk, _⟩ := exists_row_of_isPlainRow hlo
    have e := answers_plainWrite h4 hpl hr hR
    rw [State.plainWrite_lo hr hw ha hk] at e
    exact ⟨r, hr, e⟩

end Sys2Proof.Machine
end

section
/-! SUPPORT. Reads of BAR0 registers that reach their unit: what each kind of register returns, latches,
clears or advances (R16, R17, R97, R565). -/

namespace Sys2Proof.Machine

/-! ### The counters of an engine at what they have reached -/

section calm

variable {r s : State} (h : Calm r s)
include h

theorem State.freshSkip_calm (n : Nat) : Calm r (s.freshSkip n) :=
  h.upd rfl rfl rfl rfl rfl rfl rfl rfl rfl rfl rfl rfl rfl

theorem State.sampleWrite_calm (e i addr skid : Nat) : Calm r (s.sampleWrite e i addr skid) := by
  unfold State.sampleWrite
  extract_lets n size b s1
  have h1 : Calm r s1 := State.count_calm (State.modEng_calm (State.dramWrite_calm h _ b) e _) _
  exact .ite (.ite (State.count_calm h1 _) h1) (State.count_calm h _)

theorem State.cntWrap_calm (e i : Nat) (smp : Option SmpAt) : Calm r (s.cntWrap e i smp) := by
  unfold State.cntWrap
  extract_lets s1
  have h1 : Calm r s1 := State.event_calm h _ i
  refine .ite ?_ h1
  cases smp with
  | some x => exact .ite (State.modEng_calm h1 e _) (State.sampleWrite_calm h1 e i _ _)
  | none => exact State.sampleWrite_calm (State.freshNext_calm (State.freshNext_calm h1)) e i _ _

theorem State.cntAdd_calm (e i n : Nat) (smp : Option SmpAt) : Calm r (s.cntAdd e i n smp) := by
  unfold State.cntAdd
  extract_lets v s1
  have h1 : Calm r s1 := State.setReg64_calm h _ _
  exact .ite (State.cntWrap_calm h1 e i smp) h1

theorem State.cntSpan_calm (e : Nat) (x : EngSpan) (smp : Option (Nat × SmpAt)) : Calm r (s.cntSpan e x smp) := by
  unfold State.cntSpan
  exact .foldl (fun _ i ht => .ite (State.cntAdd_calm ht e i _ _) ht) _ (State.setReg64_calm h _ _)

theorem State.engCatchUp_calm (e : Nat) : Calm r (s.engCatchUp e) := by
  unfold State.engCatchUp
  exact .ite (State.cntSpan_calm (State.freshSkip_calm h _) e _ _) h

theorem State.readCatch_calm (o : Nat) : Calm r (s.readCatch o) := by
  unfold State.readCatch
  exact .ite (State.engCatchUp_calm h _) h

end calm

variable {s : State} {o : Nat}

/-- Outside the ENG blocks a read finds every counter as it stands. -/
theorem State.readCatch_of_not_eng (h : blockOf o ≠ .eng) : s.readCatch o = s := by
  simp [State.readCatch, h]

/-! ### Registers whose reads have an action of their own -/

/-- The registers, beside the metering point blocks, whose reads have an action of their own: the nonces, the RTC group, the two words of
BIN and CFG_ECC_ADDR_HI. -/
def readsByAction (o : Nat) : Prop :=
  o ∈ [Reg.LOG_NONCE_LO, Reg.KEY_NONCE_LO, Reg.BIN_CFGCHG_FIFO, Reg.BIN_UNK_KEY, Reg.CFG_ECC_ADDR_HI] ∨ (0x150010 ≤ o ∧ o < 0x15001C)

/-- None of them is an RC register. -/
theorem acc_of_readsByAction (h : readsByAction o) {r : RegRow} (hr : rowAt o = some r) : r.acc ≠ .rc := by
  have hlist : ([Reg.LOG_NONCE_LO, Reg.KEY_NONCE_LO, Reg.BIN_CFGCHG_FIFO, Reg.BIN_UNK_KEY, Reg.CFG_ECC_ADDR_HI].all fun o =>
      (rowAt o).all fun r => r.acc != .rc) = true := by decide
  have hrtc : ((List.range 12).all fun i => (rowAt (0x150010 + i)).all fun r => r.acc != .rc) = true := by decide
  rcases h with h | ⟨h1, h2⟩
  · simpa [hr] using List.all_eq_true.mp hlist o h
  · have hi := List.all_eq_true.mp hrtc (o - 0x150010) (List.mem_range.mpr (by omega))
    rw [Nat.add_sub_cancel' h1] at hi
    simpa [hr] using hi

/-- Beside the nonces and the RTC group none of them is the first half of a pair, the first word of a timestamp or a window. -/
theorem kind_of_readsByAction (h : o ∈ [Reg.BIN_CFGCHG_FIFO, Reg.BIN_UNK_KEY, Reg.CFG_ECC_ADDR_HI]) {r : RegRow}
    (hr : rowAt o = some r) : r.kind ∈ [Kind.plain, .hi] := by
  have hlist : ([Reg.BIN_CFGCHG_FIFO, Reg.BIN_UNK_KEY, Reg.CFG_ECC_ADDR_HI].all fun o =>
      (rowAt o).all fun r => decide (r.kind ∈ [Kind.plain, .hi])) = true := by decide
  simpa [hr] using List.all_eq_true.mp hlist o h

/-! ### What a read does by the access code and the kind -/

section row

variable {r : RegRow} (hr : rowAt o = some r)
include hr

/-- A read of an RC register returns its value and clears it (R17). -/
theorem State.readAct_rc (ha : r.acc = .rc) (hm : ¬(0xC1000 ≤ o ∧ o < 0xC1C00)) :
    s.readAct o = { (s.setReg o 0) with rdata := s.viewReg o } := by
  have hn : ¬readsByAction o := fun h => acc_of_readsByAction h hr ha
  simp only [readsByAction, List.mem_cons, List.not_mem_nil, or_false, not_or] at hn
  simp only [State.readAct, hr, hn, hm, if_false, ha]

/-- A read of a peak of a metering point (R344, R362). -/
theorem State.readAct_peak (ha : r.acc = .rc) (hm : 0xC1000 ≤ o ∧ o < 0xC1C00) : s.readAct o = mtrPeakRead o s := by
  have hn : ¬readsByAction o := fun h => acc_of_readsByAction h hr ha
  simp only [readsByAction, List.mem_cons, List.not_mem_nil, or_false, not_or] at hn
  simp only [State.readAct, hr, hn, hm, if_false, ha, if_true, and_self]

/-- A read of the first half of a pair latches the other half (R16). -/
theorem State.readAct_lo (hn : ¬readsByAction o) (hm : ¬(0xC1000 ≤ o ∧ o < 0xC1C00)) (ha : r.acc ≠ .rc) (hk : r.kind = .lo)
    (hp : isPair o = true) :
    s.readAct o = { s.readCatch o with
      latch := mapSet s.latch (o + 4) ((s.readCatch o).viewReg (o + 4)), rdata := (s.readCatch o).viewReg o } := by
  have hl : (s.readCatch o).latch = s.latch := (State.readCatch_calm (Calm.refl s) o).latch
  simp only [readsByAction, List.mem_cons, List.not_mem_nil, or_false, not_or] at hn
  simp only [State.readAct, hr, hn, hm, if_false, hk]
  simp [hp, State.latchFrom, hl]

/-- A read of the first word of a timestamp group latches the three after it (R97). -/
theorem State.readAct_ts (hn : ¬readsByAction o) (hm : ¬(0xC1000 ≤ o ∧ o < 0xC1C00)) (ha : r.acc ≠ .rc) (hk : r.kind = .ts) :
    s.readAct o = { s with
      latch := mapSet (mapSet (mapSet s.latch (o + 4) (s.viewReg (o + 4))) (o + 8) (s.viewReg (o + 8))) (o + 12) (s.viewReg (o + 12))
      rdata := s.viewReg o } := by
  simp only [readsByAction, List.mem_cons, List.not_mem_nil, or_false, not_or] at hn
  simp only [State.readAct, hr, hn, hm, if_false, hk]
  simp [State.latchFrom, List.range_succ]

/-- A read of the first word of an RTC group latches the two after it (R539). -/
theorem State.readAct_ts3 (hn : ¬readsByAction o) (hm : ¬(0xC1000 ≤ o ∧ o < 0xC1C00)) (ha : r.acc ≠ .rc) (hk : r.kind = .ts3) :
    s.readAct o = { s with
      latch := mapSet (mapSet s.latch (o + 4) (s.viewReg (o + 4))) (o + 8) (s.viewReg (o + 8)), rdata := s.viewReg o } := by
  simp only [readsByAction, List.mem_cons, List.not_mem_nil, or_false, not_or] at hn
  simp only [State.readAct, hr, hn, hm, if_false, hk]
  simp [State.latchFrom, List.range_succ]

/-- A read of a window's data register advances its offset (R565). -/
theorem State.readAct_win (hn : ¬readsByAction o) (hm : ¬(0xC1000 ≤ o ∧ o < 0xC1C00)) (ha : r.acc ≠ .rc) (hk : r.kind = .win) :
    s.readAct o = { (s.winStep o) with rdata := s.viewReg o } := by
  simp only [readsByAction, List.mem_cons, List.not_mem_nil, or_false, not_or] at hn
  simp only [State.readAct, hr, hn, hm, if_false, hk]

/-! ### The commands that read -/

variable (hR : s.Readable o)
include hR

theorem answers_rcRead (ha : r.acc = .rc) : Answers (.rcRead o) s (s.readAct o) := by
  show Host.Outcome.next (State.after s (rcReadRow o s)) = _
  simp [rcReadRow, hr, ha, State.bar0Read_readable hR]

theorem answers_pairLoRead (hk : r.kind = .lo) : Answers (.pairLoRead o) s (s.readAct o) := by
  show Host.Outcome.next (State.after s (pairLoReadRow o s)) = _
  simp [pairLoReadRow, kindAt, hr, hk, State.bar0Read_readable hR]

theorem answers_timestampRead (hk : r.kind = .ts ∨ r.kind = .ts3) : Answers (.timestampSubnsRead o) s (s.readAct o) := by
  show Host.Outcome.next (State.after s (timestampReadRow o s)) = _
  simp [timestampReadRow, kindAt, hr, hk, State.bar0Read_readable hR]

theorem answers_windowRead (hk : r.kind = .win) : Answers (.windowDataAccess o none) s (s.readAct o) := by
  show Host.Outcome.next (State.after s (windowDataRow o none s)) = _
  simp [windowDataRow, kindAt, hr, hk, State.bar0Read_readable hR]

end row

/-- The CFG block is never absent or stopped, so a read of CFG_ECC_ADDR_HI always reaches it (R454). -/
theorem answers_eccAddrRead : Answers .eccAddrRead s (eccAddrHiRead s) := rfl

/-- Settles O12: each command's read is readAct, whose branch the register's access code and kind choose. -/
theorem readsReturnAndLatch : Obligations.ReadsReturnAndLatch := by
  unfold Obligations.ReadsReturnAndLatch
  intro o s r hr hR
  refine ⟨fun ha hm => ?_, fun ha hm => ?_, fun hnonce hm hrtc ha => ?_, answers_eccAddrRead⟩
  · rw [← State.readAct_rc hr ha hm]
    exact answers_rcRead hr hR ha
  · have e := answers_rcRead hr hR ha
    rw [State.readAct_peak hr ha hm] at e
    refine ⟨fun v hv => ?_, fun hv => ?_⟩
    · simpa [mtrPeakRead, hv] using e
    · simpa [mtrPeakRead, hv] using e
  · have hn : r.kind ∉ [Kind.plain, .hi] → ¬readsByAction o := by
      rintro hk (h | h)
      · refine hk (kind_of_readsByAction ?_ hr)
        simp only [List.mem_cons, List.not_mem_nil, or_false, not_or] at h hnonce ⊢
        tauto
      · exact hrtc h
    refine ⟨fun hk hp => ?_, State.readCatch_of_not_eng, fun hk => ?_, fun hk => ?_, fun hk => ?_⟩
    · rw [← State.readAct_lo hr (hn (by simp [hk])) hm ha hk hp]
      exact answers_pairLoRead hr hR hk
    · rw [← State.readAct_ts hr (hn (by simp [hk])) hm ha hk]
      exact answers_timestampRead hr hR (.inl hk)
    · rw [← State.readAct_ts3 hr (hn (by simp [hk])) hm ha hk]
      exact answers_timestampRead hr hR (.inr hk)
    · rw [← State.readAct_win hr (hn (by simp [hk])) hm ha hk]
      exact answers_windowRead hr hR hk

end Sys2Proof.Machine
end

section
/-! SUPPORT. A reporting instant moves the grid on (R84, R93, R94): what follows the move at the instant leaves the grid as it left it. -/

namespace Sys2Proof.Machine

variable {s : State}

/-- Without a commit waiting nothing is committed. -/
theorem State.commitAt_of_none (h : s.cfg.commit = none) (t : Nat) : s.commitAt t = s := by
  simp [State.commitAt, h]

/-- With no released unit waiting, configuring the released units leaves the grid alone. -/
theorem State.reinitUnits_gridkept {r : State} (h : GridKept r s) (hn : s.flt.reinit = []) : GridKept r s.reinitUnits := by
  unfold State.reinitUnits
  rw [hn]
  exact State.modFlt_gridkept h _

theorem State.instantUnits_gridkept {r : State} (h : GridKept r s) (hn : s.flt.reinit = []) : GridKept r s.instantUnits :=
  State.reinitUnits_gridkept (State.modPlt_gridkept h _) hn

theorem State.gridPast_nonereleased {r : State} (h : NoneReleased r s) (rate sec k t : Nat) (late : Bool) (w : BitVec 16) :
    NoneReleased r (s.gridPast rate sec k t late w) := by
  unfold State.gridPast
  exact State.modTb_nonereleased h _

/-- The state in which the grid has moved past an instant: what takes effect at it and the choice of the source have come before. -/
def State.movedPast (s : State) (rate sec k t : Nat) (late : Bool) : State :=
  let x := ((s.commitAt t).dirAt t).tbInstant t
  x.1.gridPast rate sec k t late (x.1.tqWord sec x.2.1)

/-- An instant is the grid's move, then alignment's event with the instant's word, the units keyed to the instant, and a step. -/
theorem State.deliverInstant_eq (rate sec k t : Nat) (late : Bool) :
    s.deliverInstant rate sec k t late =
      (((((s.movedPast rate sec k t late).alnInstant sec k rate late (s.movedPast rate sec k t late).tb.tq).instantUnits.sealStart
        t).hoAtInstant t).instantStep (((s.commitAt t).dirAt t).tbInstant t).2.2) := rfl

/-- No subsystem is released by what comes before the grid's move. -/
theorem State.movedPast_nonereleased (hc : s.cfg.commit = none) (rate sec k t : Nat) (late : Bool) :
    NoneReleased s (s.movedPast rate sec k t late) := by
  unfold State.movedPast
  rw [State.commitAt_of_none hc]
  exact State.gridPast_nonereleased (State.tbInstant_nonereleased (State.dirAt_nonereleased (.refl s) t) t) ..

/-- What an instant does after the grid has moved past it leaves the grid alone, when no released unit waits. -/
theorem State.deliverInstant_gridkept (hc : s.cfg.commit = none) (hn : s.flt.reinit = []) (rate sec k t : Nat) (late : Bool) :
    GridKept (s.movedPast rate sec k t late) (s.deliverInstant rate sec k t late) := by
  rw [State.deliverInstant_eq]
  generalize hm : s.movedPast rate sec k t late = m
  have hrel : NoneReleased s (m.alnInstant sec k rate late m.tb.tq) :=
    State.alnInstant_nonereleased (hm ▸ State.movedPast_nonereleased hc rate sec k t late) ..
  have haln : GridKept m (m.alnInstant sec k rate late m.tb.tq) := State.alnInstant_gridkept (.refl m) ..
  have hunits := State.instantUnits_gridkept haln (hrel.flt_reinit.trans hn)
  exact State.instantStep_gridkept (State.hoAtInstant_gridkept (State.sealStart_gridkept hunits t) t) _

section
variable (rate sec k t : Nat) (late : Bool)

theorem State.movedPast_lastInstant : (s.movedPast rate sec k t late).tb.lastInstant = t := rfl

/-- The word of the instant is the newest kept and the one TB_TQ shows. -/
theorem State.movedPast_tqHist :
    (s.movedPast rate sec k t late).tb.tqHist.head? = some (t, (s.movedPast rate sec k t late).tb.tq) := rfl

theorem State.movedPast_grid : (s.movedPast rate sec k t late).tb.grid =
    (if k + 1 < rate then ⟨rate, sec, k + 1⟩ else ⟨rate, sec + 1, 0⟩) := by
  show (⟨rate, (nextIndex rate sec k).1, (nextIndex rate sec k).2⟩ : Grid) = _
  unfold nextIndex
  split <;> rfl

end

theorem State.advance_cfg (t : Nat) : (s.advance t).cfg = s.cfg := by
  unfold State.advance
  split <;> rfl

/-- Without a grid, or before its second has begun, there is no instant to deliver. -/
theorem reportingInstantRow_idle (h : s.tb.grid.rate = 0 ∨ s.tb.lastSec < s.tb.grid.sec) : reportingInstantRow s = s := by
  have hn : ¬(s.tb.grid.rate ≠ 0 ∧ s.tb.grid.sec ≤ s.tb.lastSec) := by omega
  simp [reportingInstantRow, hn]

/-- The next instant of a grid whose second has begun is delivered. -/
theorem reportingInstantRow_due (hr : s.tb.grid.rate ≠ 0) (hs : s.tb.grid.sec ≤ s.tb.lastSec) :
    reportingInstantRow s =
      let g := s.tb.grid
      let t := instantAt g.rate g.sec g.k
      (s.advance t).deliverInstant g.rate g.sec g.k t (decide (t < s.tb.lateTo)) := by
  simp [reportingInstantRow, hr, hs]

/-- Settles O25: the grid moves once, and neither the rest of the instant nor what follows the command touches it. -/
theorem instantAdvancesGrid : Obligations.InstantAdvancesGrid := by
  unfold Obligations.InstantAdvancesGrid
  intro s g t
  refine ⟨fun h => ?_, fun hr hs hc hn => ?_⟩
  · show Host.Outcome.next (State.after s (reportingInstantRow s)) = _
    rw [reportingInstantRow_idle h]
  · have hc' : (s.advance t).cfg.commit = none := by rw [State.advance_cfg, hc]
    have hn' : (s.advance t).flt.reinit = [] := (State.advance_nonereleased (.refl s) t).flt_reinit.trans hn
    have hk := State.after_gridkept
      (State.deliverInstant_gridkept hc' hn' g.rate g.sec g.k t (decide (t < s.tb.lateTo))) s
    rw [← reportingInstantRow_due hr hs] at hk
    refine ⟨_, rfl, ?_, ?_, ?_⟩
    · rw [hk.tb_lastInstant, State.movedPast_lastInstant]
    · rw [hk.tb_tqHist, hk.tb_tq, State.movedPast_tqHist]
    · rw [hk.tb_grid, State.movedPast_grid]

end Sys2Proof.Machine
end

section
/-! SUPPORT. What the registers show after reset (R50, R97, R98, R118, R452, R455 and the other register tables): each row is the one its
own offset finds, and what a unit computes of its reset state is what the Reset column says. -/

namespace Sys2Proof.Machine

variable {s : State} {o : Nat} {r : RegRow}

/-! ### What a present register shows -/

/-- A readable register shows the value its block computes, or else the stored one. -/
theorem State.viewReg_readable (ha : s.blockAbsent o = false) (hr : rowAt o = some r) (hacc : ¬(r.acc = .wo ∨ r.acc = .rsv)) :
    s.viewReg o = ((s.viewNat o).map (BitVec.ofNat 32)).getD (s.reg o) := by
  simp only [State.viewReg, ha, hr, if_neg hacc]
  cases s.viewNat o <;> rfl

/-- WO and RSV registers read as zero (R17). -/
theorem State.viewReg_unreadable (hr : rowAt o = some r) (hacc : r.acc = .wo ∨ r.acc = .rsv) : s.viewReg o = 0 := by
  simp [State.viewReg, hr, if_pos hacc]

/-! ### After reset -/

/-- No register has been written yet, so each holds its Reset column. -/
theorem State.reset_reg (hr : rowAt o = some r) : State.reset.reg o = BitVec.ofNat 32 r.reset := by
  show resetAt o = _
  simp [resetAt, hr]

/-- The part of State.reset, an FN8240 (R3, R4, log entry 10), has every unit: outside the engine blocks no block is absent. -/
theorem State.reset_blockAbsent (hb : blockOf o ≠ .eng) : State.reset.blockAbsent o = false := by
  have hfe : State.reset.hasFe = true := rfl
  have hmtr : State.reset.hasMtr = true := rfl
  have hcap : State.reset.hasCap = true := rfl
  cases h : blockOf o
  case eng => exact absurd h hb
  all_goals simp [State.blockAbsent, h, hfe, hmtr, hcap]

/-- A register shows `w` after reset if its block computes `w`, or stores it as its Reset column, and `w` is 0 where no bit is readable. -/
theorem State.reset_viewReg {w : Nat} (hb : blockOf o ≠ .eng) (hr : rowAt o = some r)
    (hacc : r.acc = .wo ∨ r.acc = .rsv → w = 0) (hw : (State.reset.viewNat o).getD r.reset = w) :
    State.reset.viewReg o = BitVec.ofNat 32 w := by
  by_cases h : r.acc = .wo ∨ r.acc = .rsv
  · rw [State.viewReg_unreadable hr h, hacc h]
    rfl
  · rw [State.viewReg_readable (State.reset_blockAbsent hb) hr h, State.reset_reg hr, ← hw]
    cases State.reset.viewNat o <;> rfl

/-! ### The register tables -/

theorem Block.blockOf_row (b : Block) : ∀ r ∈ b.rows, blockOf (b.base + r.off) = b := by
  cases b <;> decide +kernel

/-- No earlier row of the table covers a row's first offset. -/
theorem Block.rowAt_row (b : Block) : ∀ r ∈ b.rows, rowAt (b.base + r.off) = some r := by
  cases b <;> decide +kernel

/-- The value a row's first register shows after reset: its Reset column, except that TWN_STATUS
is 8, ACTIVE set, for the role SOLO (R456, log entry 130). -/
def Block.shownAtReset (b : Block) (r : RegRow) : Nat := if b = .twn ∧ r.off = 4 then 8 else r.reset

/-- A row that reads as zero has Reset column 0. -/
theorem Block.shownAtReset_unreadable (b : Block) : ∀ r ∈ b.rows, r.acc = .wo ∨ r.acc = .rsv → b.shownAtReset r = 0 := by
  cases b <;> decide +kernel

/-- The blocks whose register tables give the values after reset. -/
def resetColumnBlocks : List Block :=
  [.id, .hif, .pwr, .tb, .mac, .bin, .aln, .isl, .alm, .outp, .fe, .mtr, .cap, .logb, .twn, .bst, .dbg]

/-- What each unit of these blocks computes of its reset state is the value of its table; `none`, a stored register, keeps the Reset
column. -/
theorem resetColumnBlocks_viewNat : ∀ b ∈ resetColumnBlocks, ∀ r ∈ b.rows,
    (State.reset.viewNat (b.base + r.off)).getD r.reset = b.shownAtReset r := by
  intro b hb
  fin_cases hb <;> decide +kernel

/-- Settles O3: a row found at its own offset shows what its unit computes, or the untouched Reset column. -/
theorem resetShowsTables : Obligations.ResetShowsTables := by
  unfold Obligations.ResetShowsTables
  intro b hb r hr
  have hne : blockOf (b.base + r.off) ≠ .eng := by
    rw [b.blockOf_row r hr]
    exact fun h => absurd (h ▸ hb) (by decide)
  exact State.reset_viewReg hne (b.rowAt_row r hr) (b.shownAtReset_unreadable r hr) (resetColumnBlocks_viewNat b hb r hr)

end Sys2Proof.Machine
end

section
/-! SUPPORT. What the steps after a command leave alone, and the two codes of a time-quality word (R85, R86). -/

namespace Sys2Proof.Machine

/-- Settles O7: the steps that follow a command are calm. -/
theorem closureLeavesUnitStates : Obligations.ClosureLeavesUnitStates := by
  unfold Obligations.ClosureLeavesUnitStates
  intro s u
  obtain ⟨hpending, hhw, hdt, hlatch, hhold, hrdata, htb, hbin, hfe, hdbg, hcfg, hrtc, hpins⟩ := State.after_calm (.refl u) s
  exact ⟨hpending, hhw, hdt, hlatch, hhold, hrdata, htb, hbin, hfe, hdbg, hcfg, hrtc, hpins⟩

/-! ### MTQ and PTQ -/

theorem b2n_le_one (b : Bool) : b2n b ≤ 1 := by
  cases b <;> decide

theorem DtSt.code_le_three (st : DtSt) : st.code ≤ 3 := by
  cases st <;> decide

section mtq

variable {st : DtSt} {tr : Bool} {u : Nat}

theorem mtqOf_freeRun : mtqOf .freeRun tr u = 0xF := rfl

theorem mtqOf_traceable (hu : u ≤ 1000) : mtqOf .locked true u = 0 := by
  simp [mtqOf, hu]

/-- In every other case MTQ is the first decade that holds U, counted from 1. -/
theorem mtqOf_decade (hf : st ≠ .freeRun) (ht : ¬(st = .locked ∧ tr = true ∧ u ≤ 1000)) :
    mtqOf st tr u = ((List.range 11).find? fun c => u ≤ 10 ^ c).elim 0xF (· + 1) := by
  rw [mtqOf, if_neg hf, if_neg ht]

/-- Beyond the eleventh decade none holds U. -/
theorem mtqOf_beyond (hf : st ≠ .freeRun) (ht : ¬(st = .locked ∧ tr = true ∧ u ≤ 1000)) (hu : 10 ^ 10 < u) : mtqOf st tr u = 0xF := by
  have hnone : (List.range 11).find? (fun c => u ≤ 10 ^ c) = none := by
    rw [List.find?_range_eq_none]
    intro c hc
    have hle : 10 ^ c ≤ 10 ^ 10 := Nat.pow_le_pow_right (by decide) (by omega)
    simpa using lt_of_le_of_lt hle hu
  rw [mtqOf_decade hf ht, hnone]
  rfl

/-- Decade c is the first that holds U when it does and those before it do not. -/
theorem mtqOf_first (hf : st ≠ .freeRun) (ht : ¬(st = .locked ∧ tr = true ∧ u ≤ 1000)) {c : Nat} (hc : c < 11) (hu : u ≤ 10 ^ c)
    (hlt : ∀ d < c, 10 ^ d < u) : mtqOf st tr u = c + 1 := by
  have hsome : (List.range 11).find? (fun c => u ≤ 10 ^ c) = some c := by
    rw [List.find?_range_eq_some]
    exact ⟨by simpa using hu, List.mem_range.mpr hc, fun d hd => by simpa using hlt d hd⟩
  rw [mtqOf_decade hf ht, hsome]
  rfl

/-- MTQ is 0xF or at most 0xB. -/
theorem mtqOf_range (st : DtSt) (tr : Bool) (u : Nat) : mtqOf st tr u = 0xF ∨ mtqOf st tr u ≤ 0xB := by
  unfold mtqOf
  split
  · exact .inl rfl
  split
  · exact .inr (Nat.zero_le _)
  · cases h : (List.range 11).find? fun c => u ≤ 10 ^ c with
    | none => exact .inl rfl
    | some c =>
      have hc : c < 11 := List.mem_range.mp (List.mem_of_find?_eq_some h)
      exact .inr (by simp; omega)

end mtq

/-- PTQ is one of 1 to 7. -/
theorem ptqOf_range (st : DtSt) (u : Nat) : 1 ≤ ptqOf st u ∧ ptqOf st u ≤ 7 := by
  unfold ptqOf
  split_ifs <;> decide

/-- PTQ is 7 in FREE_RUN. -/
theorem ptqOf_freeRun (u : Nat) : ptqOf .freeRun u = 7 := rfl

section word

variable (s : State) (sec : Nat) (switched : Bool)

/-- A time-quality word is the sum of its fields, which do not overlap (R84). -/
theorem State.tqWord_fields : ∃ hi, (s.tqWord sec switched).toNat =
    hi * 2 ^ 7 + ptqOf s.tb.dtState s.unc * 2 ^ 4 + mtqOf s.tb.dtState s.traceable s.unc := by
  unfold State.tqWord
  generalize s.leapFlags sec = l
  have hl1 := b2n_le_one l.1
  have hl2 := b2n_le_one l.2.1
  have hl3 := b2n_le_one l.2.2
  have hsw := b2n_le_one switched
  have hst := b2n_le_one s.tb.stepSince
  have hcode := s.tb.dtState.code_le_three
  have hptq := ptqOf_range s.tb.dtState s.unc
  have hmtq := mtqOf_range s.tb.dtState s.traceable s.unc
  refine ⟨b2n l.2.2 * 2 ^ 7 + b2n l.1 * 2 ^ 6 + b2n l.2.1 * 2 ^ 5 + b2n switched * 2 ^ 4 + b2n s.tb.stepSince * 2 ^ 3 +
    s.tb.dtState.code, ?_⟩
  rw [BitVec.toNat_ofNat]
  omega

/-- Bits [3:0] of a time-quality word are MTQ. -/
theorem State.tqWord_mtq : (s.tqWord sec switched).toNat % 2 ^ 4 = mtqOf s.tb.dtState s.traceable s.unc := by
  obtain ⟨hi, hw⟩ := s.tqWord_fields sec switched
  have hmtq := mtqOf_range s.tb.dtState s.traceable s.unc
  omega

/-- Bits [6:4] of a time-quality word are PTQ. -/
theorem State.tqWord_ptq : (s.tqWord sec switched).toNat / 2 ^ 4 % 2 ^ 3 = ptqOf s.tb.dtState s.unc := by
  obtain ⟨hi, hw⟩ := s.tqWord_fields sec switched
  have hmtq := mtqOf_range s.tb.dtState s.traceable s.unc
  have hptq := ptqOf_range s.tb.dtState s.unc
  omega

end word

/-- Settles O58: the word's low bits are mtqOf, case by case. -/
theorem mtqCode : Obligations.MtqCode := by
  unfold Obligations.MtqCode
  intro s sec switched mtq
  have hmtq : mtq = mtqOf s.tb.dtState s.traceable s.unc := s.tqWord_mtq sec switched
  have hrange := mtqOf_range s.tb.dtState s.traceable s.unc
  refine ⟨fun hf => ?_, fun hl ht hu => ?_, fun hf ht => ⟨fun hu => ?_, fun c h1 hB hu hlt => ?_⟩, by omega, by omega, by omega⟩
  · rw [hmtq, hf, mtqOf_freeRun]
  · rw [hmtq, hl, ht, mtqOf_traceable hu]
  · rw [hmtq, mtqOf_beyond hf ht hu]
  · have hfirst := mtqOf_first hf ht (by omega) hu fun d hd => by simpa using hlt (d + 1) (by omega) (by omega)
    omega

/-- Settles O59: the word's bits [6:4] are ptqOf, whose comparisons are the decades in their order. -/
theorem ptqCode : Obligations.PtqCode := by
  unfold Obligations.PtqCode
  intro s sec switched ptq
  have hptq : ptq = ptqOf s.tb.dtState s.unc := s.tqWord_ptq sec switched
  have hrange := ptqOf_range s.tb.dtState s.unc
  refine ⟨fun hf => ?_, fun hf => ⟨fun hu => ?_, fun c h2 h6 hlo hhi => ?_, fun hu => ?_⟩, by omega⟩
  · rw [hptq, hf, ptqOf_freeRun]
  · rw [hptq, ptqOf, if_neg hf, if_pos hu]
  · rw [hptq, ptqOf, if_neg hf]
    interval_cases c <;> split_ifs <;> omega
  · rw [hptq, ptqOf, if_neg hf]
    split_ifs <;> omega

end Sys2Proof.Machine
end

section
/-! SUPPORT. Device time set by the host (R53, R81) and the leap-second table (R89, R90): what a write of TB_SET_SEC_HI and of TB_LEAP_CTRL
does, and the whole second at which a loaded table is taken (R94). -/

namespace Sys2Proof.Machine

variable {s : State} {v : Word}

/-! ### Writes of the time base's control registers -/

/-- No offset of the time base's block ends an entry condition of a power state (R450). -/
theorem State.endsCondition_of_tb {o : Nat} (h : blockOf o = .tb) : s.endsCondition o v = false := by
  have hne : ∀ x, blockOf x ≠ .tb → (o == x) = false := fun x hx => beq_false_of_ne fun e => hx (e ▸ h)
  have hcap : ((List.range 4).any fun c => o == Reg.CAP_CH_CTRL c) = false := by
    rw [List.any_eq_false]
    intro c hc
    rw [hne _ ((by decide : ∀ c ∈ List.range 4, blockOf (Reg.CAP_CH_CTRL c) ≠ .tb) c hc)]
    decide
  have hmac : ((List.range 6).any fun p => o == Reg.MAC_CTRL 0 + 0x1000 * p) = false := by
    rw [List.any_eq_false]
    intro p hp
    rw [hne _ ((by decide : ∀ p ∈ List.range 6, blockOf (Reg.MAC_CTRL 0 + 0x1000 * p) ≠ .tb) p hp)]
    decide
  have hring : ((List.range 16).any fun n => o == Reg.HIF_RP_CTRL n) = false := by
    rw [List.any_eq_false]
    intro n hn
    rw [hne _ ((by decide : ∀ n ∈ List.range 16, blockOf (Reg.HIF_RP_CTRL n) ≠ .tb) n hn)]
    decide
  simp [State.endsCondition, hcap, hmac, hring, hne Reg.ALN_CTRL (by decide), hne Reg.FE_CTRL (by decide), hne Reg.MTR_CTRL (by decide),
    hne Reg.TWN_CFG (by decide), hne Reg.PLT_ROT_CTRL (by decide)]

/-- The time base's block is never absent, fenced or stopped, so every write of its registers reaches it. -/
theorem State.reaches_of_tb {o : Nat} (h : blockOf o = .tb) : s.Reaches o v := by
  refine ⟨?_, ?_, ?_, State.endsCondition_of_tb h⟩
  · simp [State.blockAbsent, h]
  · simp [State.blockFenced, unitOfBlock, h]
  · simp [State.blockStopped, h]

theorem answers_tbSetApply : Answers (.tbSetApply v) s (tbSetApplyRow v s) := by
  show Host.Outcome.next (State.after s (s.busWrite Reg.TB_SET_SEC_HI v 63 (tbSetApplyRow v))) = _
  rw [State.busWrite_reaches (State.reaches_of_tb rfl)]

theorem answers_tbLeapLoad : Answers (.tbLeapLoad v) s (tbLeapLoadRow v s) := by
  show Host.Outcome.next (State.after s (s.busWrite Reg.TB_LEAP_CTRL v 63 (tbLeapLoadRow v))) = _
  rw [State.busWrite_reaches (State.reaches_of_tb rfl)]

/-! ### The device time set (R81) -/

@[simp] theorem State.takeHeld_tb (lo : Nat) : (s.takeHeld lo).tb = s.tb := by
  unfold State.takeHeld
  split <;> rfl

@[simp] theorem State.takeHeld_dt (lo : Nat) : (s.takeHeld lo).dt = s.dt := by
  unfold State.takeHeld
  split <;> rfl

/-- Putting a held half in place changes no other register. -/
theorem State.reg_takeHeld_ne {lo o : Nat} (h : lo ≠ o) : (s.takeHeld lo).reg o = s.reg o := by
  unfold State.takeHeld
  split
  · exact State.reg_setReg_ne _ h _
  · rfl

/-- The state with the held half of the pair and the seconds field of a write of TB_SET_SEC_HI in place. -/
def State.setSecs (s : State) (v : Word) : State := (s.takeHeld Reg.TB_SET_SEC_LO).setReg Reg.TB_SET_SEC_HI (v &&& 0xFFFF)

theorem State.setSecs_eq : (s.takeHeld Reg.TB_SET_SEC_LO).setReg Reg.TB_SET_SEC_HI (v &&& 0xFFFF) = s.setSecs v := rfl

@[simp] theorem State.setSecs_tb : (s.setSecs v).tb = s.tb := State.takeHeld_tb _

@[simp] theorem State.setSecs_dt : (s.setSecs v).dt = s.dt := State.takeHeld_dt _

/-- A register that is no half of the pair stays as it was. -/
theorem State.reg_setSecs_ne {o : Nat} (hhi : Reg.TB_SET_SEC_HI ≠ o) (hlo : Reg.TB_SET_SEC_LO ≠ o) : (s.setSecs v).reg o = s.reg o := by
  rw [State.setSecs, State.reg_setReg_ne _ hhi, State.reg_takeHeld_ne hlo]

theorem State.reg_setSecs_lo : (s.setSecs v).reg Reg.TB_SET_SEC_LO = (s.takeHeld Reg.TB_SET_SEC_LO).reg Reg.TB_SET_SEC_LO :=
  State.reg_setReg_ne _ (by decide) _

/-- The time the set registers and a word of TB_SET_SEC_HI give. -/
def State.setTime (s : State) (v : Word) : Nat :=
  (((s.takeHeld Reg.TB_SET_SEC_LO).reg Reg.TB_SET_SEC_LO).toNat + 2 ^ 32 * (v.toNat % 2 ^ 16)) * subPerSec +
    (s.reg Reg.TB_SET_NS).toNat * subPerNs + s.fld Reg.TB_SET_SUBNS 0 16

/-- A write of TB_SET_SEC_HI sets the pair; with APPLY the set is refused while DT is LOCKED or with a nanosecond field out of range, and
otherwise fixes the step from DT to the time given. -/
theorem tbSetApplyRow_eq : tbSetApplyRow v s =
    if v.getLsbD 31 = false then s.setSecs v
    else if s.tb.dtState = .locked ∨ 1000000000 ≤ (s.reg Reg.TB_SET_NS).toNat then (s.setSecs v).event Reg.TB_EVT 6
    else { s.setSecs v with tb := { s.tb with setPending := some ((s.setTime v : Int) - (s.dt : Int)) } } := by
  have hns : (s.setSecs v).reg Reg.TB_SET_NS = s.reg Reg.TB_SET_NS := State.reg_setSecs_ne (by decide) (by decide)
  have hsub : (s.setSecs v).fld Reg.TB_SET_SUBNS 0 16 = s.fld Reg.TB_SET_SUBNS 0 16 := by
    rw [State.fld, State.reg_setSecs_ne (by decide) (by decide), State.fld]
  have hsec : bitsOf v.toNat 0 16 = v.toNat % 2 ^ 16 := rfl
  simp only [tbSetApplyRow, State.setSecs_eq, hns, hsub, hsec, State.reg_setSecs_lo, State.modTb, State.setSecs_tb, State.setSecs_dt,
    State.setTime, Bool.not_eq_eq_eq_not, Bool.not_true]

/-- Settles O18: the pair is set first; APPLY then refuses the time or fixes the step to it. -/
theorem setDeviceTimeFixesStep : Obligations.SetDeviceTimeFixesStep := by
  unfold Obligations.SetDeviceTimeFixesStep
  intro v s s1
  have e := answers_tbSetApply (s := s) (v := v)
  rw [tbSetApplyRow_eq] at e
  refine ⟨fun lo hlo => State.takeHeld_of_some hlo, fun hn => State.takeHeld_of_none hn, fun h => ?_, fun h hr => ?_, fun h hl hn => ?_⟩
  · rwa [if_pos h] at e
  · rwa [if_neg (by simp [h]), if_pos hr] at e
  · rwa [if_neg (by simp [h]), if_neg (not_or.mpr ⟨hl, not_le.mpr hn⟩)] at e

/-! ### The leap-second table (R89, R90) -/

/-- A write of TB_LEAP_CTRL sets COUNT; with LOAD the table waits for the next whole second, or is refused. -/
theorem tbLeapLoadRow_eq {s1 : State} (h : s.setReg Reg.TB_LEAP_CTRL (v &&& 0x3F) = s1) : tbLeapLoadRow v s =
    if v.getLsbD 31 = false then s1
    else if leapOk (s1.leapEntries (v.toNat % 64)) = true then
      { s1 with tb := { s.tb with leapPending := some (s1.leapEntries (v.toNat % 64)), leapErr := false } }
    else ({ s1 with tb := { s.tb with leapErr := true } } : State).event Reg.TB_EVT 7 := by
  have hcount : bitsOf v.toNat 0 6 = v.toNat % 64 := rfl
  have htb : s1.tb = s.tb := h ▸ rfl
  simp only [tbLeapLoadRow, h, hcount, State.modTb, htb, Bool.not_eq_eq_eq_not, Bool.not_true]

/-- A table is taken when it has 1 to 32 entries whose seconds rise and whose offsets change by one (R90). -/
theorem leapOk_iff (t : List (Nat × Int)) : leapOk t = true ↔
    1 ≤ t.length ∧ t.length ≤ 32 ∧ ∀ p ∈ t.zip (t.drop 1), p.1.1 < p.2.1 ∧ (p.2.2 = p.1.2 + 1 ∨ p.2.2 = p.1.2 - 1) := by
  simp only [leapOk, Bool.and_eq_true, Bool.or_eq_true, decide_eq_true_eq, beq_iff_eq, List.all_eq_true, and_assoc]

/-! ### A whole second (R94) -/

/-- What a part of a whole second keeps of the grid and of a pending time set: the grid stays, and no set becomes pending. -/
structure NoSetArises (s t : State) : Prop where
  grid : t.tb.grid = s.tb.grid
  setPending : s.tb.setPending = none → t.tb.setPending = none

theorem NoSetArises.of_tb {s t : State} (h : t.tb = s.tb) : NoSetArises s t := ⟨by rw [h], by rw [h]; exact id⟩

theorem NoSetArises.trans {r s t : State} (h : NoSetArises r s) (h' : NoSetArises s t) : NoSetArises r t :=
  ⟨h'.grid.trans h.grid, h'.setPending ∘ h.setPending⟩

/-- A change of DT's state leaves the grid, and withdraws a pending set or leaves it. -/
theorem State.setDt_noset (st : DtSt) : NoSetArises s (s.setDt st) := by
  unfold State.setDt
  extract_lets old s1 s2 bad s3
  have h1 : NoSetArises s s1 := ⟨rfl, fun h => h⟩
  have h2 : s2.tb = s1.tb := by
    unfold s2
    split <;> rfl
  have h3 : s3.tb = s1.tb := by
    unfold s3
    split
    · exact h2
    · exact h2
  have hs3 : NoSetArises s s3 := h1.trans (.of_tb h3)
  split
  · exact .of_tb rfl
  split
  · exact ⟨hs3.grid, fun _ => rfl⟩
  · exact hs3

theorem State.holdCheck_noset : NoSetArises s s.holdCheck := by
  unfold State.holdCheck
  split
  · exact State.setDt_noset _
  · exact .of_tb rfl

theorem State.holdGrow_noset : NoSetArises s s.holdGrow := by
  unfold State.holdGrow
  split
  · have hgrow : NoSetArises s (s.modTb fun b => { b with holdUnc := s.holdNext }) := ⟨rfl, fun h => h⟩
    exact hgrow.trans State.holdCheck_noset
  · exact .of_tb rfl

theorem State.takeLeap_noset : NoSetArises s s.takeLeap := by
  unfold State.takeLeap
  split
  · exact ⟨rfl, fun h => h⟩
  · exact .of_tb rfl

@[simp] theorem State.leapMoment_tb (sec : Nat) : (s.leapMoment sec).tb = s.tb := by
  unfold State.leapMoment
  split <;> rfl

@[simp] theorem State.leapPassed_tb (from_ sec : Nat) : (s.leapPassed from_ sec).tb = s.tb := by
  unfold State.leapPassed
  split <;> rfl

theorem State.tbSecond_noset (sec : Nat) : NoSetArises s (s.tbSecond sec) :=
  (State.takeLeap_noset.trans (.of_tb (State.leapMoment_tb sec))).trans State.holdGrow_noset

@[simp] theorem State.rtcSync_tb (sec frac : Nat) (locked : Bool) (src : Nat) : (s.rtcSync sec frac locked src).tb = s.tb := by
  unfold State.rtcSync
  extract_lets s0 v w _ s' s1
  have h1 : s1.tb = s.tb := by
    unfold s1
    split <;> rfl
  split
  · split
    · exact h1
    · exact h1
  · rfl

@[simp] theorem State.healPairs_tb (ok : List Nat) : (s.healPairs ok).tb = s.tb := by
  unfold State.healPairs
  induction ok generalizing s with
  | nil => rfl
  | cons i ok ih => exact ih.trans rfl

/-- A directory apply and what it leaves stale are no part of the time base. -/
@[simp] theorem State.dirAt_tb (t : Nat) : (s.dirAt t).tb = s.tb := by
  have hretire (x : State) : x.dirRetire.tb = x.tb := by
    unfold State.dirRetire
    split
    · split <;> rfl
    · rfl
  have happly : (s.dirApplyAt t).tb = s.tb := by
    unfold State.dirApplyAt
    split
    · split
      · exact hretire _
      · rfl
    · rfl
  have hosc (x : State) : x.oscStaleNote.tb = x.tb := by
    unfold State.oscStaleNote
    split <;> rfl
  have hisl (x : State) : x.islStaleNote.tb = x.tb := by
    unfold State.islStaleNote
    split <;> rfl
  unfold State.dirAt
  extract_lets s1
  split
  · exact happly
  · exact ((hisl _).trans (hosc _)).trans happly

@[simp] theorem State.advance_tb (t : Nat) : (s.advance t).tb = s.tb := by
  unfold State.advance
  split <;> rfl

/-- A change of the grid leaves a pending set alone. -/
theorem State.gridChange_setPending (sec : Nat) : (s.gridChange sec).tb.setPending = s.tb.setPending := by
  unfold State.gridChange
  split
  · rw [(State.alnNote_calm (.refl _)).tb]
    rfl
  · rfl

/-- Where no change of the grid waits, none is made. -/
theorem State.gridChange_of_none (h : s.tb.nextRate = none) (sec : Nat) : s.gridChange sec = s := by
  simp [State.gridChange, h]

/-- A waiting table takes the present one's place. -/
theorem State.takeLeap_tb : s.takeLeap.tb = { s.tb with leap := s.tb.leapPending.getD s.tb.leap, leapPending := none } := by
  unfold State.takeLeap
  split
  next t h =>
    rw [h]
    rfl
  next h =>
    rw [h, Option.getD_none, ← h]

section second

variable (s) (frac : Nat) (healed : List Nat) (sec t : Nat)

/-- The state in which everything keyed to a whole second has been done but the time set that needs no instant. -/
def State.secondDone (s : State) (frac : Nat) (healed : List Nat) (sec t : Nat) : State :=
  let s1 := (((s.advance t).commitAt t).dirAt t).gridChange sec
  let s2 := ((s1.leapPassed s.tb.lastSec sec).modTb fun b => { b with lastSec := sec }).tbSecond sec
  (s2.rtcSync sec frac (s2.tb.dtState == .locked) s2.tb.active).healPairs healed

theorem State.secondAt_eq : s.secondAt frac healed sec t =
    if (s.secondDone frac healed sec t).tb.grid.rate = 0 then (s.secondDone frac healed sec t).applySet
    else s.secondDone frac healed sec t := rfl

/-- The time base before its own part in a whole second: as it was, but for a change of the grid. -/
theorem State.secondDone_begins (hc : s.cfg.commit = none) :
    ∃ s1 : State, LeapKept s s1 ∧ s1.tb.setPending = s.tb.setPending ∧ (s.tb.nextRate = none → s1.tb.grid = s.tb.grid) ∧
      (s.secondDone frac healed sec t).tb = (((s1.leapPassed s.tb.lastSec sec).modTb fun b => { b with lastSec := sec }).tbSecond sec).tb := by
  have hnc : (s.advance t).commitAt t = s.advance t := State.commitAt_of_none (by rw [State.advance_cfg, hc]) t
  have hdir : ((s.advance t).dirAt t).tb = s.tb := by rw [State.dirAt_tb, State.advance_tb]
  refine ⟨((s.advance t).dirAt t).gridChange sec, ?_, ?_, fun hn => ?_, ?_⟩
  · exact State.gridChange_leapkept (State.dirAt_leapkept (State.advance_leapkept (.refl s) t) t) sec
  · rw [State.gridChange_setPending, hdir]
  · rw [State.gridChange_of_none (by rw [hdir, hn]), hdir]
  · rw [State.secondDone, hnc, State.healPairs_tb, State.rtcSync_tb]

/-- A whole second takes the waiting table and becomes the last one; with no change of the grid waiting the grid stays, and no set becomes
pending. -/
theorem State.secondDone_tb (hc : s.cfg.commit = none) :
    (s.secondDone frac healed sec t).tb.leap = s.tb.leapPending.getD s.tb.leap ∧
    (s.secondDone frac healed sec t).tb.leapPending = none ∧ (s.secondDone frac healed sec t).tb.lastSec = sec ∧
    (s.tb.nextRate = none → (s.secondDone frac healed sec t).tb.grid = s.tb.grid) ∧
    (s.tb.setPending = none → (s.secondDone frac healed sec t).tb.setPending = none) := by
  obtain ⟨s1, hleap, hset, hgrid, htb⟩ := s.secondDone_begins frac healed sec t hc
  let s2 := (s1.leapPassed s.tb.lastSec sec).modTb fun b => { b with lastSec := sec }
  have hs2 : s2.tb = { s1.tb with lastSec := sec } := by
    show ({ (s1.leapPassed s.tb.lastSec sec).tb with lastSec := sec } : Tb) = _
    rw [State.leapPassed_tb]
  have hkept : LeapKept s2.takeLeap (s2.tbSecond sec) := State.holdGrow_leapkept (State.leapMoment_leapkept (.refl _) sec)
  have hno : NoSetArises s2 (s2.tbSecond sec) := State.tbSecond_noset sec
  rw [htb]
  refine ⟨?_, ?_, ?_, fun hn => ?_, fun hn => ?_⟩
  · rw [hkept.tb_leap, State.takeLeap_tb, hs2]
    show s1.tb.leapPending.getD s1.tb.leap = _
    rw [hleap.tb_leap, hleap.tb_leapPending]
  · rw [hkept.tb_leapPending, State.takeLeap_tb]
  · rw [hkept.tb_lastSec, State.takeLeap_tb, hs2]
  · rw [hno.grid, hs2]
    exact hgrid hn
  · apply hno.setPending
    rw [hs2]
    exact hset.trans hn

/-- Without a commit waiting a whole second takes the waiting table; it stays the last one unless a set moves device time back where there
is no grid. -/
theorem State.secondAt_leap (hc : s.cfg.commit = none) :
    (s.secondAt frac healed sec t).tb.leap = s.tb.leapPending.getD s.tb.leap ∧ (s.secondAt frac healed sec t).tb.leapPending = none ∧
    ((s.tb.grid.rate ≠ 0 ∧ s.tb.nextRate = none) ∨ s.tb.setPending = none → (s.secondAt frac healed sec t).tb.lastSec = sec) := by
  obtain ⟨hleap, hpend, hlast, hgrid, hset⟩ := s.secondDone_tb frac healed sec t hc
  obtain ⟨kleap, kpend, klast⟩ := (s.secondDone frac healed sec t).applySet_leap
  rw [State.secondAt_eq]
  split
  next hrate =>
    refine ⟨kleap.trans hleap, kpend.trans hpend, fun h => (klast (.inl ?_)).trans hlast⟩
    rcases h with ⟨hr, hn⟩ | h
    · rw [hgrid hn] at hrate
      exact absurd hrate hr
    · exact hset h
  next => exact ⟨hleap, hpend, fun _ => hlast⟩

end second

/-- A whole second comes once the grid has been delivered up to it. -/
theorem wholeSecondRow_due (frac : Nat) (healed : List Nat) (h : s.tb.grid.rate = 0 ∨ s.nextSecond ≤ s.tb.grid.sec) :
    wholeSecondRow frac healed s = s.secondAt frac healed s.nextSecond (s.nextSecond * subPerSec) := by
  rw [wholeSecondRow, if_neg (by omega)]

/-- Settles O19: a table is taken or refused by leapOk, and the next whole second puts the one that waits in place. -/
theorem leapTableLoads : Obligations.LeapTableLoads := by
  unfold Obligations.LeapTableLoads
  intro v s s1
  have e := answers_tbLeapLoad (s := s) (v := v)
  rw [tbLeapLoadRow_eq (s1 := s1) rfl] at e
  refine ⟨fun h => ?_, fun h ht => ?_, fun h ht => ?_, leapOk_iff, fun frac healed hc hg => ?_⟩
  · rwa [if_pos h] at e
  · rwa [if_neg (by simp [h]), if_pos ht] at e
  · rwa [if_neg (by simp [h]), if_neg (by simp [ht])] at e
  · obtain ⟨hleap, hpend, hlast⟩ := s.secondAt_leap frac healed s.nextSecond (s.nextSecond * subPerSec) hc
    rw [← wholeSecondRow_due frac healed hg] at hleap hpend hlast
    have hk : LeapKept (wholeSecondRow frac healed s) (State.after s (wholeSecondRow frac healed s)) := State.after_leapkept (.refl _) s
    exact ⟨_, rfl, fun h => hk.tb_lastSec.trans (hlast h), hk.tb_leap.trans hleap, hk.tb_leapPending.trans hpend⟩

end Sys2Proof.Machine
end

section
/-! SUPPORT. Measurements of a source slot and the state they move it to (R59 to R61). -/

namespace Sys2Proof.Machine

variable {s : State}

/-! ### Slots -/

/-- Slots that are the same are read the same. -/
theorem SrcKept.src {s t : State} (h : SrcKept s t) (i : Nat) : t.src i = s.src i := by
  unfold State.src
  rw [h.tb_src]

theorem SrcKept.src_len {s t : State} (h : SrcKept s t) : t.tb.src.length = s.tb.src.length := by
  rw [h.tb_src]

/-- A slot that is set to a state (R60): its runs begin again, and it is LOCKED since then or not at all. -/
def Src.toState (x : Src) (st : SrcSt) (t : Nat) : Src :=
  { x with st := st, okRun := 0, badRun := 0, lockedAt := if st = .locked then some t else none }

/-- Setting a slot to a state changes of the slots only that slot's state and runs: a loss of the active source leaves them alone. -/
theorem State.srcTo_tb_src (i : Nat) (st : SrcSt) : (s.srcTo i st).tb.src = s.tb.src.modify i fun x => x.toState st s.dt := by
  unfold State.srcTo
  extract_lets lost s0
  have hk : SrcKept s s0 := .ite (State.enterHoldover_srckept (.refl s) _) (.refl s)
  rw [← hk.tb_src]
  rfl

theorem State.srcTo_len (i : Nat) (st : SrcSt) : (s.srcTo i st).tb.src.length = s.tb.src.length := by
  rw [State.srcTo_tb_src, List.length_modify]

theorem State.src_srcTo {i : Nat} (st : SrcSt) (h : i < s.tb.src.length) : (s.srcTo i st).src i = (s.src i).toState st s.dt := by
  rw [State.src, State.srcTo_tb_src, nth_modify_self _ _ _ _ h]
  rfl

/-! ### Measurements (R61) -/

/-- What a measurement leaves in its slot before its state is looked at: the servo's new clock, the time, the quality term and the
newest residual. -/
def Src.measured (x : Src) (r : Int × Rat × Nat) (t extra : Nat) : Src :=
  { x with offset := r.1, ratio := r.2.1, lastMeas := t, extraNs := extra, resids := (r.2.2 :: x.resids).take 16 }

/-- A slot y that has been measured, moved by the table of R61 from the state and the runs of x, which it had before: `res` is the
residual, `thr` LOCK_THRESH and `cnt` LOCK_COUNT. -/
def Src.moves (y x : Src) (res thr cnt t : Nat) : Src :=
  match x.st with
  | .search | .lost => y.toState .acquire t
  | .acquire =>
    let run := if res ≤ thr then x.okRun + 1 else 0
    if cnt ≤ run then y.toState .locked t else { y with okRun := run }
  | .locked =>
    let run := if 4 * thr < res then x.badRun + 1 else 0
    if 4 ≤ run then y.toState .acquire t else { y with badRun := run }
  | .disabled => y

/-- The move of slot i from the state and the runs of x by the table of R61. -/
def State.movesSrc (s : State) (i : Nat) (x : Src) (res thr cnt : Nat) : State :=
  match x.st with
  | .search | .lost => s.srcTo i .acquire
  | .acquire =>
    let run := if res ≤ thr then x.okRun + 1 else 0
    if cnt ≤ run then (s.srcTo i .locked).modTb fun t => { t with secsSet := t.secsSet || i != 4 }
    else s.modSrc i fun x => { x with okRun := run }
  | .locked =>
    let run := if 4 * thr < res then x.badRun + 1 else 0
    if 4 ≤ run then s.srcTo i .acquire else s.modSrc i fun x => { x with badRun := run }
  | .disabled => s

/-- A measurement: the servo's result is held, the slot moves, and the slew and the cross-check of DT follow. -/
theorem State.measure_eq (i : Nat) (m : Int) (extra : Nat) : s.measure i m extra =
    let x := s.src i
    let r := Config.servo i (s.offsetOf i) x.ratio m (s.dt - x.lastMeas)
    let s2 := (s.modSrc i fun x => x.measured r s.dt extra).movesSrc i x r.2.2 (max (s.fld (Reg.TB_SRC_LOCK i) 16 16) 1)
      (max (s.fld (Reg.TB_SRC_LOCK i) 8 8) 1)
    (if i = s2.tb.active ∧ s2.tb.dtState = .locked ∧ !s2.stepsFor .locked then s2.slewNow else s2).crossCheck := rfl

/-- The move changes slot i as its own table says. -/
theorem State.src_movesSrc {i : Nat} (x : Src) (res thr cnt : Nat) (h : i < s.tb.src.length) :
    (s.movesSrc i x res thr cnt).src i = (s.src i).moves x res thr cnt s.dt := by
  unfold State.movesSrc Src.moves
  cases x.st with
  | disabled => rfl
  | search => exact State.src_srcTo .acquire h
  | lost => exact State.src_srcTo .acquire h
  | acquire =>
    dsimp only
    generalize (if res ≤ thr then x.okRun + 1 else 0) = run
    split
    · exact State.src_srcTo .locked h
    · exact State.src_modSrc_self s _ h
  | locked =>
    dsimp only
    generalize (if 4 * thr < res then x.badRun + 1 else 0) = run
    split
    · exact State.src_srcTo .acquire h
    · exact State.src_modSrc_self s _ h

/-- A measured slot holds what the servo made of the measurement and has moved by its table; the slew and the cross-check leave the
slots alone. -/
theorem State.src_measure {i : Nat} (m : Int) (extra : Nat) (h : i < s.tb.src.length) :
    (s.measure i m extra).src i =
      let r := Config.servo i (s.offsetOf i) (s.src i).ratio m (s.dt - (s.src i).lastMeas)
      ((s.src i).measured r s.dt extra).moves (s.src i) r.2.2 (max (s.fld (Reg.TB_SRC_LOCK i) 16 16) 1) (max (s.fld (Reg.TB_SRC_LOCK i) 8 8) 1) s.dt := by
  rw [State.measure_eq]
  extract_lets x r s2
  have h1 : (s.modSrc i fun x => x.measured r s.dt extra).src i = x.measured r s.dt extra := State.src_modSrc_self s _ h
  have hlen : i < (s.modSrc i fun x => x.measured r s.dt extra).tb.src.length := by rwa [State.modSrc_len]
  have h2 : s2.src i = _ := State.src_movesSrc x _ _ _ hlen
  have h3 : SrcKept s2 (if i = s2.tb.active ∧ s2.tb.dtState = .locked ∧ !s2.stepsFor .locked then s2.slewNow else s2) :=
    .ite (State.slewNow_srckept (.refl _)) (.refl _)
  rw [(State.crossCheck_srckept h3).src, h2, h1]
  rfl

section moves

variable {x y : Src} {res thr cnt t : Nat}

/-- A move changes no more than the state of a slot, its runs and since when it is LOCKED. -/
theorem Src.moves_frame (y x : Src) (res thr cnt t : Nat) :
    let z := y.moves x res thr cnt t
    z.offset = y.offset ∧ z.ratio = y.ratio ∧ z.lastMeas = y.lastMeas ∧ z.resids = y.resids ∧ z.extraNs = y.extraNs := by
  unfold Src.moves
  cases x.st with
  | disabled => exact ⟨rfl, rfl, rfl, rfl, rfl⟩
  | search => exact ⟨rfl, rfl, rfl, rfl, rfl⟩
  | lost => exact ⟨rfl, rfl, rfl, rfl, rfl⟩
  | acquire =>
    dsimp only
    generalize (if res ≤ thr then x.okRun + 1 else 0) = run
    split <;> exact ⟨rfl, rfl, rfl, rfl, rfl⟩
  | locked =>
    dsimp only
    generalize (if 4 * thr < res then x.badRun + 1 else 0) = run
    split <;> exact ⟨rfl, rfl, rfl, rfl, rfl⟩

theorem Src.moves_st_of_search (h : x.st = .search ∨ x.st = .lost) : (y.moves x res thr cnt t).st = .acquire := by
  unfold Src.moves
  rcases h with h | h <;> rw [h] <;> rfl

/-- ACQUIRE becomes LOCKED at the last of LOCK_COUNT residuals in a row within LOCK_THRESH. -/
theorem Src.moves_st_of_acquire (h : x.st = .acquire) (hy : y.st = x.st) (hcnt : 1 ≤ cnt) :
    (y.moves x res thr cnt t).st = if res ≤ thr ∧ cnt ≤ x.okRun + 1 then .locked else .acquire := by
  unfold Src.moves
  rw [h]
  by_cases hr : res ≤ thr
  · by_cases hc : cnt ≤ x.okRun + 1
    · simp [hr, hc, Src.toState]
    · simp [hr, hc, hy, h]
  · simp [hr, hy, h, Nat.ne_of_gt hcnt]

/-- LOCKED becomes ACQUIRE at the fourth residual in a row above four times LOCK_THRESH. -/
theorem Src.moves_st_of_locked (h : x.st = .locked) (hy : y.st = x.st) :
    (y.moves x res thr cnt t).st = if 4 * thr < res ∧ 3 ≤ x.badRun then .acquire else .locked := by
  unfold Src.moves
  rw [h]
  by_cases hr : 4 * thr < res
  · by_cases hb : 3 ≤ x.badRun
    · simp [hr, hb, Src.toState]
    · simp [hr, hb, hy, h]
  · simp [hr, hy, h]

end moves

/-- Settles O20: the slot holds the measurement, and its state is that of the table. -/
theorem measurementMovesSource : Obligations.MeasurementMovesSource := by
  unfold Obligations.MeasurementMovesSource
  intro s i m extra hi x r thr cnt y
  have hy : y = (x.measured r s.dt extra).moves x r.2.2 thr cnt s.dt := State.src_measure m extra hi
  have hst : (x.measured r s.dt extra).st = x.st := rfl
  have hcnt : 1 ≤ cnt := Nat.le_max_right _ _
  obtain ⟨hoffset, hratio, hlast, hresids, hextra⟩ := (x.measured r s.dt extra).moves_frame x r.2.2 thr cnt s.dt
  rw [hy]
  refine ⟨hoffset, hratio, hlast, hresids, hextra, Src.moves_st_of_search, fun h hr hc => ?_, fun h hr => ?_, fun h hr hb => ?_,
    fun h hr => ?_⟩
  · rw [Src.moves_st_of_acquire h hst hcnt, if_pos ⟨hr, hc⟩]
  · rw [Src.moves_st_of_acquire h hst hcnt, if_neg (by omega)]
  · rw [Src.moves_st_of_locked h hst, if_pos ⟨hr, hb⟩]
  · rw [Src.moves_st_of_locked h hst, if_neg (by omega)]

end Sys2Proof.Machine
end

section
/-! SUPPORT. The 10 MHz reference (R550) and the end of a slew (R79); the edges of PPS_IN, the frames of IRIG-B and the loss times of the
slots (R61, R68 to R73). -/

namespace Sys2Proof.Machine

variable {s : State}

/-! ### The end of a slew (R79) -/

theorem nth_map {α : Type} (d : α) (l : List α) (f : α → α) {i : Nat} (h : i < l.length) : nth d (l.map f) i = f (nth d l i) := by
  simp [nth, h]

/-- An offset is read from the slots and device time. -/
theorem Calm.offsetOf {s t : State} (h : Calm s t) (i : Nat) : t.offsetOf i = s.offsetOf i := by
  unfold State.offsetOf State.src
  rw [h.tb, h.dt]

/-- A clock whose phase offset is taken back by d is at every time behind by d. -/
theorem Src.offsetAt_sub (x : Src) (d t : Int) : ({ x with offset := x.offset - d } : Src).offsetAt t = x.offsetAt t - d := by
  unfold Src.offsetAt
  exact sub_add_eq_add_sub _ _ _

/-- Device time moved within its own rate leaves the active source's offset at what it was moved to. -/
theorem State.offsetOf_slewTo (r : Int) (hlen : s.tb.active < s.tb.src.length) (hst : (s.src s.tb.active).st ≠ .disabled) :
    (s.slewTo r).offsetOf s.tb.active = r := by
  have hsrc : (s.slewTo r).src s.tb.active =
      { s.src s.tb.active with offset := (s.src s.tb.active).offset - (s.offsetOf s.tb.active - r) } := by
    refine (nth_map _ _ _ hlen).trans ?_
    exact if_neg hst
  have hdt : (s.slewTo r).dt = s.dt := rfl
  rw [State.offsetOf, hsrc, hdt, Src.offsetAt_sub, State.offsetOf]
  omega

/-- A slew ends no sooner than MAX_SLEW lets it; before, and with no slew of a LOCKED device time, nothing ends. -/
theorem slewingEndRow_idle (at_ : Nat) (rest : Int)
    (h : s.tb.slewing = false ∨ s.tb.dtState ≠ .locked ∨ at_ < s.slewEarliest) : slewingEndRow at_ rest s = s := by
  rw [slewingEndRow, if_neg]
  rintro ⟨hs, hl, ht⟩
  rcases h with h | h | h
  · rw [hs] at h
    cases h
  · exact h hl
  · omega

theorem slewingEndRow_ends {at_ : Nat} {rest : Int} (hs : s.tb.slewing = true) (hl : s.tb.dtState = .locked)
    (ht : s.slewEarliest ≤ at_) (hr : rest.natAbs ≤ 10 * subPerNs) :
    slewingEndRow at_ rest s = ((s.advance at_).slewTo rest).modTb fun t => { t with slewing := false } := by
  rw [slewingEndRow, if_pos ⟨hs, hl, ht⟩, if_pos hr]

/-! ### The 10 MHz reference (R550) -/

theorem ref10mLostRow_again (h : s.tb.ref10mLost = true) : ref10mLostRow s = s := by
  rw [ref10mLostRow, if_pos h]

theorem ref10mLostRow_first (h : s.tb.ref10mLost = false) : ref10mLostRow s =
    let s1 := { s with tb := { s.tb with ref10mLost := true } }
    if s.hw.straps.getLsbD 2 = true then s1.report 59 0 (unitCode 23) 0 0 else s1 := by
  rw [ref10mLostRow, if_neg (by simp [h])]
  rfl

/-- Settles O26: the reference's rows, and the slew's end, whose offset the steps after the command leave. -/
theorem referenceAndSlewEnd : Obligations.ReferenceAndSlewEnd := by
  unfold Obligations.ReferenceAndSlewEnd
  intro s
  have e : Answers .ref10mLost s (ref10mLostRow s) := rfl
  refine ⟨fun h => ?_, fun h hn => ?_, fun h hn => ?_, rfl, fun at_ rest hs hl ht hr hlen hst => ?_, fun at_ rest h => ?_⟩
  · rwa [ref10mLostRow_again h] at e
  · rw [ref10mLostRow_first h] at e
    simpa only [hn, Bool.false_eq_true, if_false] using e
  · rw [ref10mLostRow_first h] at e
    simpa only [hn, if_true] using e
  · have hk := State.after_calm (.refl (slewingEndRow at_ rest s)) s
    have hrow := slewingEndRow_ends hs hl ht hr
    have htb := s.advance_tb at_
    refine ⟨State.after s (slewingEndRow at_ rest s), rfl, ?_, ?_, ?_⟩
    · rw [hk.tb, hrow]
      rfl
    · rw [hk.offsetOf, hrow]
      have hsrc : (s.advance at_).src s.tb.active = s.src s.tb.active := (State.advance_srckept (.refl s) at_).src _
      have ho := State.offsetOf_slewTo (s := s.advance at_) rest (by rwa [htb]) (by rwa [htb, hsrc])
      rwa [htb] at ho
    · rw [hk.dt, hrow]
      exact State.advance_dt s at_
  · have e : Answers (.slewingEnd at_ rest) s (slewingEndRow at_ rest s) := rfl
    rwa [slewingEndRow_idle at_ rest h] at e

/-! ### 1PPS (R68 to R70) -/

/-- The time of an edge on PPS_IN, less the delay of its path (R68). -/
def State.ppsTime (s : State) (stamp : Nat) : Int := (stamp : Int) - s.sreg (Reg.TB_SRC_DELAY 4)

/-- How far an edge on PPS_IN lies from the nearest whole second of slot 4 (R69). -/
def State.ppsLate (s : State) (stamp : Nat) : Nat :=
  let p := s.srcTime 4 (s.ppsTime stamp)
  (p - nearestSec p * (subPerSec : Int)).natAbs

/-- The acceptance window of slot 4 (R69). -/
def State.ppsWindow (s : State) : Nat := max (s.fld Reg.TB_SRC_AUX_4 16 16) 1 * subPerUs

/-- An edge measured against the nearest whole TAI second (R68). -/
def State.ppsMeasure (s : State) (stamp : Nat) : State :=
  s.measure 4 (nearestSec (s.ppsTime stamp) * (subPerSec : Int) - s.ppsTime stamp) 0

/-- An edge after device time has come to it and a wake has been told. -/
def State.ppsTaken (s : State) (rising : Bool) (stamp : Nat) : State :=
  if s.srcCfg 4 0 = false ∨ rising = s.bit Reg.TB_SRC_AUX_4 0 then s
  else if (s.src 4).st = .acquire ∨ (s.src 4).st = .locked then
    if s.ppsWindow < s.ppsLate stamp then (s.count32 (Reg.TB_SRC_DROP 4)).event Reg.TB_EVT 8 else s.ppsMeasure stamp
  else if s.tb.secsSet = true then s.ppsMeasure stamp
  else s

theorem ppsEdgeRow_eq (rising : Bool) (stamp : Nat) : ppsEdgeRow rising stamp s = ((s.advance stamp).wakeIf 1).ppsTaken rising stamp := by
  simp only [ppsEdgeRow, State.ppsTaken, Bool.not_eq_eq_eq_not, Bool.not_true]
  rfl

theorem answers_ppsEdge (rising : Bool) (stamp : Nat) :
    Answers (.ppsEdge rising stamp) s (((s.advance stamp).wakeIf 1).ppsTaken rising stamp) := by
  rw [← ppsEdgeRow_eq]
  rfl

/-! ### IRIG-B (R71 to R73) -/

/-- Whether a frame is no valid measurement of slot 5 (R71). -/
def State.irigInvalid (s : State) (f : IrigFrame) : Bool :=
  !(irigMarkersOk f) || s.irigRange f || (s.bit Reg.TB_SRC_AUX_5 4 && !(irigParityOk f))

/-- A valid frame without the extensions of IEEE 1344, measured at the TAI second of its UTC second, if there is one. -/
def State.irigMeasure (s : State) (f : IrigFrame) : State :=
  match s.taiOf (s.irigUtc f).toNat s.dt with
  | none => s.irigBad
  | some sec => s.measure 5 ((sec * subPerSec : Nat) - ((f.stamp : Int) - s.sreg (Reg.TB_SRC_DELAY 5))) 0

theorem State.irigMeasure_skipped {f : IrigFrame} (h : s.taiOf (s.irigUtc f).toNat s.dt = none) : s.irigMeasure f = s.irigBad := by
  rw [State.irigMeasure, h]

theorem State.irigMeasure_second {f : IrigFrame} {sec : Nat} (h : s.taiOf (s.irigUtc f).toNat s.dt = some sec) :
    s.irigMeasure f = s.measure 5 ((sec * subPerSec : Nat) - ((f.stamp : Int) - s.sreg (Reg.TB_SRC_DELAY 5))) 0 := by
  rw [State.irigMeasure, h]

/-- A frame of a disabled slot or a reserved format is not used. -/
theorem irigFrameRow_unused {f : IrigFrame}
    (h : (s.advance f.stamp).srcCfg 5 0 = false ∨ 8 ≤ (s.advance f.stamp).fld Reg.TB_SRC_AUX_5 0 4) :
    irigFrameRow f s = s.advance f.stamp := by
  rw [irigFrameRow, if_pos (by simpa using h)]

section irig

variable {f : IrigFrame} (hen : (s.advance f.stamp).srcCfg 5 0 = true) (hfmt : (s.advance f.stamp).fld Reg.TB_SRC_AUX_5 0 4 < 8)
include hen hfmt

theorem irigFrameRow_invalid (hbad : (s.advance f.stamp).irigInvalid f = true) : irigFrameRow f s = (s.advance f.stamp).irigBad := by
  simp only [State.irigInvalid, Bool.or_eq_true, Bool.and_eq_true, or_assoc] at hbad
  rw [irigFrameRow, if_neg (by simp [hen, hfmt]), if_pos hbad]

/-- Without USE_1344 a valid frame is measured without a quality term. -/
theorem irigFrameRow_valid (hbad : (s.advance f.stamp).irigInvalid f = false) (hext : (s.advance f.stamp).bit Reg.TB_SRC_AUX_5 4 = false) :
    irigFrameRow f s = (s.advance f.stamp).irigMeasure f := by
  have hok : ¬(!(irigMarkersOk f) ∨ (s.advance f.stamp).irigRange f = true ∨
      ((s.advance f.stamp).bit Reg.TB_SRC_AUX_5 4 ∧ !(irigParityOk f))) := by
    have hbad := Bool.eq_false_iff.mp hbad
    simpa only [State.irigInvalid, ne_eq, Bool.or_eq_true, Bool.and_eq_true, or_assoc] using hbad
  rw [irigFrameRow, if_neg (by simp [hen, hfmt]), if_neg hok]
  simp only [hext, Bool.false_eq_true, false_and, if_false]
  rfl

end irig

theorem answers_irigbFrame (f : IrigFrame) : Answers (.irigbFrame f) s (irigFrameRow f s) := rfl

/-! ### Loss times (R61) -/

/-- A slot whose loss time has passed is LOST. -/
theorem sourceLossRow_lost {i at_ : Nat} (hlen : i < s.tb.src.length) (hst : (s.src i).st = .acquire ∨ (s.src i).st = .locked)
    (ht : s.lossAt i ≤ at_) : ((sourceLossRow i at_ s).src i).st = .lost := by
  have hadv : i < (s.advance at_).tb.src.length := by rwa [State.advance_tb]
  rw [sourceLossRow, if_pos ⟨hst, ht⟩, State.src_modSrc_self _ _ (by rwa [State.srcTo_len])]
  show (((s.advance at_).srcTo i .lost).src i).st = .lost
  rw [State.src_srcTo .lost hadv]
  rfl

theorem sourceLossRow_idle {i at_ : Nat} (h : ((s.src i).st ≠ .acquire ∧ (s.src i).st ≠ .locked) ∨ at_ < s.lossAt i) :
    sourceLossRow i at_ s = s := by
  rw [sourceLossRow, if_neg]
  rintro ⟨hst, ht⟩
  rcases h with ⟨ha, hl⟩ | h
  · exact hst.elim ha hl
  · omega

/-- Settles O24: the edge's and the frame's branches in their order, and the passing of a loss time. -/
theorem ppsIrigAndLossTaken : Obligations.PpsIrigAndLossTaken := by
  unfold Obligations.PpsIrigAndLossTaken
  intro s
  refine ⟨?_, ?_, fun i at_ hlen => ⟨fun hst ht => ?_, fun h => ?_⟩⟩
  · intro rising stamp s0 t x w p late
    have e : Answers (.ppsEdge rising stamp) s (s0.ppsTaken rising stamp) := answers_ppsEdge rising stamp
    refine ⟨fun h => ?_, fun hen hedge => ?_⟩
    · rwa [State.ppsTaken, if_pos h] at e
    rw [State.ppsTaken, if_neg (by simp [hen, hedge])] at e
    refine ⟨fun hst hw => ?_, fun hst hw => ?_, fun ha hl hsec => ?_, fun ha hl hsec => ?_⟩
    · rwa [if_pos hst, if_pos (show s0.ppsWindow < s0.ppsLate stamp from hw)] at e
    · rwa [if_pos hst, if_neg (show ¬s0.ppsWindow < s0.ppsLate stamp from not_lt.mpr hw)] at e
    · rwa [if_neg (not_or.mpr ⟨ha, hl⟩), if_pos hsec] at e
    · rwa [if_neg (not_or.mpr ⟨ha, hl⟩), if_neg (by simp [hsec])] at e
  · intro f s0 bad
    have e := answers_irigbFrame (s := s) f
    refine ⟨fun h => ?_, fun hen hfmt => ⟨fun hbad => ?_, fun hbad hext => ⟨fun hnone => ?_, fun sec hsec => ?_⟩⟩⟩
    · rwa [irigFrameRow_unused h] at e
    · rwa [irigFrameRow_invalid hen hfmt hbad] at e
    · rwa [irigFrameRow_valid hen hfmt hbad hext, State.irigMeasure_skipped hnone] at e
    · rwa [irigFrameRow_valid hen hfmt hbad hext, State.irigMeasure_second hsec] at e
  · exact ⟨_, rfl, sourceLossRow_lost hlen hst ht⟩
  · have e : Answers (.sourceLossTimeout i at_) s (sourceLossRow i at_ s) := rfl
    rwa [sourceLossRow_idle h] at e

end Sys2Proof.Machine
end

section
/-! SUPPORT. PTP: which messages a slot takes and what they change (R59, R62 to R64), what a slot sends when its interval expires, and the
stamps its ports return (R65, R87, R88). -/

namespace Sys2Proof.Machine

variable {s : State} {i p : Nat} {m : PtpMsg}

/-! ### The slot that takes a message, and its checks (R62, R64) -/

/-- What the time base makes of a message: nothing without a slot, a drop when its interval is out of range, and otherwise what the slot
makes of it. -/
def State.ptpRx (s : State) (m : PtpMsg) : State :=
  match s.ptpSlot m with
  | none => s
  | some i => if !ptpIntervalOk m then s.srcDrop i else if s.srcCfg i 2 then s.ptpAuthRx i m else s.ptpAct i m

theorem ptpMessageRxRow_empty (h : s.ptpHead p = none) : ptpMessageRxRow p s = s.ptpTaken p := by
  simp only [ptpMessageRxRow, h]

theorem ptpMessageRxRow_message (h : s.ptpHead p = some m) : ptpMessageRxRow p s = (s.ptpTaken p).ptpRx m := by
  simp only [ptpMessageRxRow, h]
  rfl

theorem State.ptpRx_unclaimed (h : s.ptpSlot m = none) : s.ptpRx m = s := by
  simp only [State.ptpRx, h]

section slot

variable (h : s.ptpSlot m = some i)
include h

theorem State.ptpRx_outOfRange (hr : ptpIntervalOk m = false) : s.ptpRx m = s.count32 (Reg.TB_SRC_DROP i) := by
  simp only [State.ptpRx, h, hr, Bool.not_false, if_true]
  rfl

theorem State.ptpRx_authenticated (hr : ptpIntervalOk m = true) (ha : s.srcCfg i 2 = true) : s.ptpRx m = s.ptpAuthRx i m := by
  simp only [State.ptpRx, h, hr, ha, Bool.not_true, Bool.false_eq_true, if_false, if_true]

theorem State.ptpRx_plain (hr : ptpIntervalOk m = true) (ha : s.srcCfg i 2 = false) : s.ptpRx m = s.ptpAct i m := by
  simp only [State.ptpRx, h, hr, ha, Bool.not_true, Bool.false_eq_true, if_false]

end slot

theorem State.ptpAuthRx_unfit (h : s.slotFits (s.fld (Reg.TB_SRC_AUTH i) 0 6) 2 1 = false) :
    s.ptpAuthRx i m = s.keyUseErr.count32 (Reg.TB_SRC_DROP i) := by
  simp only [State.ptpAuthRx, h, Bool.not_false, if_true]
  rfl

theorem State.ptpAuthRx_noContext (h : s.slotFits (s.fld (Reg.TB_SRC_AUTH i) 0 6) 2 1 = true) (hc : s.cryptoNow (unitCode 3) = none) :
    s.ptpAuthRx i m = (s.count (Reg.KEY_CNT_LO 6)).count32 (Reg.TB_SRC_DROP i) := by
  simp only [State.ptpAuthRx, h, hc, Bool.not_true, Bool.false_eq_true, if_false]
  rfl

theorem State.ptpAuthRx_verified {s1 : State} (h : s.slotFits (s.fld (Reg.TB_SRC_AUTH i) 0 6) 2 1 = true)
    (hc : s.cryptoNow (unitCode 3) = some s1) :
    s.ptpAuthRx i m = if s1.ptpAuthOk i m = true then s1.ptpAct i m else s1.count32 (Reg.TB_SRC_DROP i) := by
  simp only [State.ptpAuthRx, h, hc, Bool.not_true, Bool.false_eq_true, if_false]
  rfl

/-! ### A one-step Sync (R59, R63) -/

/-- What a slot keeps of a Sync of its selected master. -/
def State.syncHeard (s : State) (i : Nat) (m : PtpMsg) : State :=
  s.modSrc i fun x => { x with masterIp := m.srcIp, masterMac := m.srcMac, gotSync := true, syncLog := m.logInterval }

/-- A complete Sync with its origin and corrections t1 and its receipt t2, kept by the slot on its port. -/
def State.syncKept (s : State) (i : Nat) (m : PtpMsg) (t1 t2 : Int) : State :=
  (s.syncHeard i m).modPath i m.port fun y => { y with syncT1 := t1, syncT2 := t2 }

theorem State.syncKept_regs (t1 t2 : Int) : (s.syncKept i m t1 t2).regs = s.regs := rfl

theorem State.src_syncKept (h : i < s.tb.src.length) (t1 t2 : Int) : (s.syncKept i m t1 t2).src i =
    { s.src i with
      masterIp := m.srcIp, masterMac := m.srcMac, gotSync := true, syncLog := m.logInterval
      paths := (s.src i).paths.modify m.port fun y => { y with syncT1 := t1, syncT2 := t2 } } := by
  have hheard : (s.syncHeard i m).src i =
      { s.src i with masterIp := m.srcIp, masterMac := m.srcMac, gotSync := true, syncLog := m.logInterval } := State.src_modSrc_self s _ h
  have hlen : i < (s.syncHeard i m).tb.src.length := by
    rwa [State.syncHeard, State.modSrc_len]
  rw [State.syncKept, State.modPath, State.src_modSrc_self _ _ hlen, hheard]

/-- Keeping a Sync leaves the path delay of its port. -/
theorem State.delay_syncKept (h : i < s.tb.src.length) (hp : m.port < (s.src i).paths.length) (t1 t2 : Int) :
    (((s.syncKept i m t1 t2).src i).path m.port).delay = ((s.src i).path m.port).delay := by
  rw [State.src_syncKept h]
  show (nth {} ((s.src i).paths.modify m.port _) m.port).delay = _
  rw [nth_modify_self _ _ _ _ hp]
  rfl

/-- A one-step Sync of the selected master is kept and, by a slot that may send, measured with the path delay of its port. -/
theorem State.ptpAct_sync {origin : Nat} (hk : m.kind = .sync false origin) (hm : (s.src i).master = some m.sender)
    (h : i < s.tb.src.length) (hp : m.port < (s.src i).paths.length) {s1 : State}
    (h1 : s1 = s.syncKept i m ((origin : Int) + m.correction) m.rx) :
    s.ptpAct i m = if s.ptpMaySend i = true then
        s1.measure i ((origin : Int) + m.correction + ((s.src i).path m.port).delay - m.rx) (s.src i).extraNs
      else s1 := by
  subst h1
  have hextra : ((s.syncKept i m ((origin : Int) + m.correction) m.rx).src i).extraNs = (s.src i).extraNs := by
    rw [State.src_syncKept h]
  rw [← hextra, ← State.delay_syncKept h hp ((origin : Int) + m.correction) m.rx]
  simp only [State.ptpAct, hk, hm, beq_self_eq_true, if_true, Bool.false_eq_true, if_false]
  rfl

/-! ### A one-step Pdelay_Resp (R63) -/

/-- The request on its own port that a Pdelay_Resp answers. -/
def State.pdelayAsked (s : State) (i : Nat) (m : PtpMsg) : Option PtpPend :=
  (s.src i).txPend.find? fun q => q.kind == .pdelayReq && q.port == m.port && q.seq == m.seq && q.stamp.isSome

/-- A message that waits no more is off its slot's list. -/
def State.unwait (s : State) (i : Nat) (q : PtpPend) : State :=
  s.modSrc i fun x => { x with txPend := x.txPend.filter fun q' => q' != q }

/-- A one-step answer to the slot's own request takes it off the list and sets the path delay of its port. -/
theorem State.ptpAct_pdelayResp {received requester : Nat} {q : PtpPend} (hk : m.kind = .pdelayResp false received requester)
    (hown : requester = ownIdentity i m.port) (hq : s.pdelayAsked i m = some q) :
    s.ptpAct i m = (s.unwait i q).modPath i m.port fun y =>
      { y with delay := (m.rx - q.stamp.getD 0 - m.correction) / 2 } := by
  unfold State.pdelayAsked at hq
  simp only [State.ptpAct, hk, State.pdelayRespRx, hq, hown, if_true, Bool.false_eq_true, if_false]
  rfl

theorem State.src_pdelayAnswered (q : PtpPend) (d : Int) (h : i < s.tb.src.length) :
    ((s.unwait i q).modPath i p fun y => { y with delay := d }).src i =
      { s.src i with
        txPend := (s.src i).txPend.filter fun q' => q' != q, paths := (s.src i).paths.modify p fun y => { y with delay := d } } := by
  rw [State.modPath, State.src_modSrc_self _ _ (by rwa [State.unwait, State.modSrc_len]), State.unwait, State.src_modSrc_self _ _ h]

/-! ### Messages for the host (R123) -/

theorem State.ptpAct_forHost (hk : m.kind = .management ∨ m.kind = .signalling) :
    s.ptpAct i m = s.deliver ⟨s.fld Reg.BIN_CTRL 2 4, 2, m.bytes, m.port + 2 ^ 8 * i, [], m.rx.toNat, 0⟩ := by
  rcases hk with hk | hk <;> simp only [State.ptpAct, hk]

/-- Settles O22: the frame, its slot and its checks in their order, then the effect by the message's kind. -/
theorem ptpMessagesTaken : Obligations.PtpMessagesTaken := by
  unfold Obligations.PtpMessagesTaken
  intro p s s0
  have e : Answers (.ptpMessageRx p) s (ptpMessageRxRow p s) := rfl
  refine ⟨fun h => ?_, fun m hm => ?_⟩
  · rwa [ptpMessageRxRow_empty h] at e
  rw [ptpMessageRxRow_message hm] at e
  refine ⟨fun h => ?_, fun i h hr => ?_, fun i h hr ha => ⟨fun hf => ?_, fun hf hc => ?_, fun s1 hf hc => ⟨fun hv => ?_, fun hv => ?_⟩⟩,
    fun i h hr ha => ?_⟩
  · rwa [State.ptpRx_unclaimed h] at e
  · rwa [State.ptpRx_outOfRange h hr] at e
  · rwa [State.ptpRx_authenticated h hr ha, State.ptpAuthRx_unfit hf] at e
  · rwa [State.ptpRx_authenticated h hr ha, State.ptpAuthRx_noContext hf hc] at e
  · rwa [State.ptpRx_authenticated h hr ha, State.ptpAuthRx_verified hf hc, if_neg (by simp [hv])] at e
  · rwa [State.ptpRx_authenticated h hr ha, State.ptpAuthRx_verified hf hc, if_pos hv] at e
  rw [State.ptpRx_plain h hr ha] at e
  refine ⟨e, fun origin hk hmaster hi hp => ?_, fun received requester q hk hown hq hi hp => ?_, fun hk => ?_⟩
  · rw [State.ptpAct_sync hk hmaster hi hp rfl] at e
    refine ⟨s0.syncKept i m ((origin : Int) + m.correction) m.rx, State.syncKept_regs _ _, State.src_syncKept hi _ _, fun hs => ?_,
      fun hs => ?_⟩
    · rwa [if_pos hs] at e
    · rwa [if_neg (by simp [hs])] at e
  · rw [State.ptpAct_pdelayResp hk hown hq] at e
    refine ⟨_, e, ?_, ?_⟩
    · rw [State.src_pdelayAnswered q _ hi]
      show (nth {} ((s0.src i).paths.modify m.port _) m.port).delay = _
      rw [nth_modify_self _ _ _ _ hp]
    · rw [State.src_pdelayAnswered q _ hi]
      simp
  · rwa [State.ptpAct_forHost hk] at e

/-! ### What a slot sends (R65) -/

/-- Sending a message of a slot offers one frame. -/
theorem State.ptpSend_offers (i p : Nat) (kind : PtpTxKind) (seq requester : Nat) (time correction : Int) (turn : Option Int) :
    (s.ptpSend i p kind seq requester time correction turn).mac.offers.length = s.mac.offers.length + 1 := by
  unfold State.ptpSend
  extract_lets m s1
  have h1 : s1.mac.offers.length = s.mac.offers.length + 1 := by
    simp [s1, State.offer]
  split
  · exact h1
  · exact h1

theorem State.ptpSend_len (i p : Nat) (kind : PtpTxKind) (seq requester : Nat) (time correction : Int) (turn : Option Int) :
    (s.ptpSend i p kind seq requester time correction turn).tb.src.length = s.tb.src.length := by
  unfold State.ptpSend
  extract_lets m s1
  have h1 : s1.tb.src.length = s.tb.src.length := (State.offer_srckept (.refl s) _ _ _ _ _).src_len
  split
  · rw [State.modSrc_len, h1]
  · exact h1

/-- A slot's request on port p, with the next sequence number, whose stamp it then awaits. -/
def State.ptpRequest (s : State) (i : Nat) (kind : PtpTxKind) (p : Nat) : State :=
  let seq := (s.src i).nextSeq % 65536
  (s.ptpSend i p kind seq 0 0 0 none).modSrc i fun x => { x with
    nextSeq := seq + 1, txPend := (x.txPend.filter fun q => q.kind != kind || q.port != p) ++ [⟨kind, p, seq, 0, 0, none⟩] }

theorem State.ptpRequest_len (kind : PtpTxKind) : (s.ptpRequest i kind p).tb.src.length = s.tb.src.length := by
  rw [State.ptpRequest, State.modSrc_len, State.ptpSend_len]

theorem State.ptpRequest_offers (kind : PtpTxKind) : (s.ptpRequest i kind p).mac.offers.length = s.mac.offers.length + 1 :=
  State.ptpSend_offers ..

theorem State.ptpRequest_nextSeq (kind : PtpTxKind) (h : i < s.tb.src.length) :
    ((s.ptpRequest i kind p).src i).nextSeq = (s.src i).nextSeq % 65536 + 1 := by
  rw [State.ptpRequest, State.src_modSrc_self _ _ (by rwa [State.ptpSend_len])]

/-- One request on each of a list of ports, each with a sequence number of its own. -/
theorem State.ptpRequests (kind : PtpTxKind) (ports : List Nat) (h : i < s.tb.src.length) :
    let u := ports.foldl (fun (s : State) p => s.ptpRequest i kind p) s
    (0 < ports.length → (u.src i).nextSeq = ((s.src i).nextSeq % 65536 + ports.length - 1) % 65536 + 1) ∧
      u.mac.offers.length = s.mac.offers.length + ports.length := by
  induction ports generalizing s with
  | nil => exact ⟨fun h => absurd h (lt_irrefl 0), rfl⟩
  | cons p ports ih =>
    obtain ⟨hseq, hoffers⟩ := ih (s := s.ptpRequest i kind p) (by rwa [State.ptpRequest_len])
    have hfirst := s.ptpRequest_nextSeq (p := p) kind h
    refine ⟨fun _ => ?_, ?_⟩
    · rw [List.foldl_cons, List.length_cons]
      cases ports with
      | nil =>
        rw [List.foldl_nil, hfirst]
        simp
      | cons p' ports =>
        rw [hseq (Nat.succ_pos _), hfirst, List.length_cons]
        omega
    · rw [List.foldl_cons, hoffers, State.ptpRequest_offers, List.length_cons]
      omega

theorem ptpEventTxRow_idle (h : 4 ≤ i ∨ s.ptpMaySend i = false ∨ (s.srcCfg i 4 = false ∧ (s.src i).gotSync = false)) :
    ptpEventTxRow i s = s := by
  rw [ptpEventTxRow, if_pos (by simpa using h)]

theorem ptpEventTxRow_sends (hi : i < 4) (hs : s.ptpMaySend i = true) (hp : s.srcCfg i 4 = true ∨ (s.src i).gotSync = true) :
    ptpEventTxRow i s = ((List.range 6).filter fun p => s.srcCfg i (6 + p)).foldl
      (fun (s' : State) p => s'.ptpRequest i (if s.srcCfg i 4 then .pdelayReq else .delayReq) p) s := by
  have hn : ¬(4 ≤ i ∨ !s.ptpMaySend i ∨ (!s.srcCfg i 4 ∧ !(s.src i).gotSync)) := by
    simp only [hs, Bool.not_true, Bool.false_eq_true, false_or, not_or, not_le, not_and, Bool.not_eq_true']
    exact ⟨hi, fun hf => hp.elim (fun ht => by simp [ht] at hf) fun hg => by simp [hg]⟩
  rw [ptpEventTxRow, if_neg hn]
  rfl

/-! ### Stamps that come back (R87, R88) -/

section stamp

variable {port stamp : Nat} {m : PtpSent}

theorem txTimestampRow_unasked (h : s.sentWait port m = none) : txTimestampRow port m stamp s = s := by
  simp only [txTimestampRow, h]

/-- A message's stamp, corrected with its port's latency as it stood when the frame left (R88). -/
def State.txStamp (s : State) (port stamp : Nat) : Int := (stamp : Int) + (s.asOf stamp).sreg (Reg.TB_EGR port)

/-- The stamp of a two-step Pdelay_Resp is answered with its follow-up, by a slot that may send. -/
theorem txTimestampRow_response {q : PtpPend} (h : s.sentWait port m = some q) (hk : q.kind = .pdelayResp) :
    txTimestampRow port m stamp s =
      if s.ptpMaySend m.slot = true then
        (s.unwait m.slot q).ptpSend m.slot port .pdelayRespFollowUp q.seq q.requester (s.srcTime m.slot (s.txStamp port stamp))
          (q.correction + subNs (s.srcTime m.slot (s.txStamp port stamp))) none
      else s.unwait m.slot q := by
  simp only [txTimestampRow, h, hk, if_true]
  rfl

/-- The stamp of a request is held. -/
theorem txTimestampRow_request {q : PtpPend} (h : s.sentWait port m = some q) (hk : q.kind ≠ .pdelayResp) :
    txTimestampRow port m stamp s = s.modSrc m.slot fun x =>
      { x with txPend := x.txPend.map fun q' => if q' = q then { q' with stamp := some (s.txStamp port stamp) } else q' } := by
  simp only [txTimestampRow, h, hk, if_false]
  rfl

end stamp

/-- Settles O23: the requests by induction over the slot's ports, the stamps by the message that waits for them. -/
theorem ptpSlotSends : Obligations.PtpSlotSends := by
  unfold Obligations.PtpSlotSends
  intro i s
  refine ⟨fun h => ?_, fun hi hlen hs hp => ?_, fun port stamp m => ⟨rfl, fun h => ?_, fun q h => ?_⟩⟩
  · have e : Answers (.ptpEventMessageTx i) s (ptpEventTxRow i s) := rfl
    rwa [ptpEventTxRow_idle h] at e
  · intro n
    refine ⟨ptpEventTxRow i s, rfl, ?_⟩
    rw [ptpEventTxRow_sends hi hs hp]
    exact s.ptpRequests _ _ hlen
  · have e : Answers (.txTimestampReturn port m stamp) s (txTimestampRow port m stamp s) := rfl
    rwa [txTimestampRow_unasked h] at e
  · intro t gone
    have e : Answers (.txTimestampReturn port m stamp) s (txTimestampRow port m stamp s) := rfl
    refine ⟨fun hk hs => ?_, fun hk hs => ?_, fun hk => ?_⟩
    · rwa [txTimestampRow_response h hk, if_pos hs] at e
    · rwa [txTimestampRow_response h hk, if_neg (by simp [hs])] at e
    · rwa [txTimestampRow_request h hk] at e

end Sys2Proof.Machine
end

section
/-! SUPPORT. The link states of the ports (R99 to R101): what entering a link state leaves of a port, and what each command that speaks of a
link does to it. -/

namespace Sys2Proof.Machine

variable {s : State} {p : Nat}

/-! ### Ports -/

theorem PortKept.port {t : State} (h : PortKept s t) (p : Nat) : t.port p = s.port p := by
  rw [State.port, h.mac_port, State.port]

/-- The steps after a command leave the ports as the command left them. -/
@[simp] theorem State.port_after (s u : State) (p : Nat) : (State.after s u).port p = u.port p :=
  (State.after_portkept (.refl u) s).port p

/-- A port without its transmit side: its queues and the frame on the wire. -/
def Port.unsent (x : Port) : Port := { x with qAlarm := [], qPtp := [], qOut := [], qHost := [], wire := none, wireFrom := 0 }

/-- An update of a port's transmit side. -/
theorem State.unsent_modPort {f : Port → Port} (hf : ∀ x, (f x).unsent = x.unsent) (s : State) (p q : Nat) :
    ((s.modPort p f).port q).unsent = (s.port q).unsent := by
  have hn : (s.modPort p f).port q = if p = q ∧ q < s.mac.port.length then f (s.port q) else s.port q := nth_modify ..
  rw [hn]
  split
  · exact hf _
  · rfl

/-- A port that starts its next frame changes its transmit side alone. -/
theorem State.unsent_txStart (s : State) (p q : Nat) : ((s.txStart p).port q).unsent = (s.port q).unsent := by
  unfold State.txStart
  extract_lets x run
  split
  · rfl
  · split
    case h_5 => rfl
    all_goals
      refine State.unsent_modPort (fun x => ?_) ..
      rfl

/-- A port that leaves UP loses its transmit side alone. -/
theorem State.unsent_linkLeaveUp (s : State) (p : Nat) (receiving : Bool) (q : Nat) :
    ((s.linkLeaveUp p receiving).port q).unsent = (s.port q).unsent := by
  unfold State.linkLeaveUp
  extract_lets x s1 s2
  have h2 : PortKept s1 s2 := PortKept.foldl (fun _ f hr => State.txDrop_portkept hr p 22 f) x.frames (.refl s1)
  have hkept : PortKept s1 (if receiving then s2.rxDrop p 3 else s2) := .ite (State.rxDrop_portkept h2 p 3) h2
  rw [hkept.port]
  refine State.unsent_modPort (fun x => ?_) ..
  rfl

/-- A port that enters another link state keeps everything but its transmit side. -/
theorem State.unsent_linkTo {l : LinkSt} (receiving : Bool) (hp : p < s.mac.port.length) (hl : (s.port p).link ≠ l) :
    ((s.linkTo p l receiving).port p).unsent =
      ({ s.port p with link := l, upSince := if l = .up then s.dt else (s.port p).upSince } : Port).unsent := by
  unfold State.linkTo
  extract_lets old s1 s2
  rw [if_neg hl]
  have h1 : s1.port p = { s.port p with link := l, upSince := if l = .up then s.dt else (s.port p).upSince } :=
    ((State.logRaise_portkept (State.event_portkept (.refl _) ..) ..).port p).trans (State.port_modPort_self _ _ hp)
  have h2 : (s2.port p).unsent = (s1.port p).unsent := by
    unfold s2
    split
    · exact State.unsent_linkLeaveUp ..
    · rfl
  rw [← h1, ← h2]
  split
  · exact State.unsent_txStart ..
  · rfl

theorem State.link_linkTo {l : LinkSt} (receiving : Bool) (hp : p < s.mac.port.length) : ((s.linkTo p l receiving).port p).link = l := by
  by_cases hl : (s.port p).link = l
  · rw [State.linkTo, if_pos hl, hl]
  · exact congrArg Port.link (State.unsent_linkTo receiving hp hl)

theorem State.linkBusy_iff : s.linkBusy p = true ↔ (s.port p).link = .training ∨ (s.port p).link = .up ∨ (s.port p).link = .fault := by
  simp [State.linkBusy, or_assoc]

theorem State.ne_of_linkBusy (h : s.linkBusy p = true) : (s.port p).link ≠ .disabled ∧ (s.port p).link ≠ .down := by
  rcases State.linkBusy_iff.mp h with h | h | h <;> simp [h]

/-! ### SPEED_ERR and LINE_ERR (R101) -/

theorem State.linkErrCheck_held_down (receiving : Bool) (he : (s.port p).speedErr = true ∨ s.lineErr p = true) (hl : (s.port p).link = .down) :
    s.linkErrCheck p receiving = s := by
  rw [State.linkErrCheck, if_pos he, if_neg]
  simp [State.linkBusy_iff, hl]

theorem State.linkErrCheck_busy (receiving : Bool) (he : (s.port p).speedErr = true ∨ s.lineErr p = true) (hb : s.linkBusy p = true) :
    s.linkErrCheck p receiving = s.linkTo p .down receiving := by
  rw [State.linkErrCheck, if_pos he, if_pos hb]

/-- With neither error a DOWN port that has lock starts its training anew. -/
theorem State.linkErrCheck_trains (receiving : Bool) (hs : (s.port p).speedErr = false) (hl : s.lineErr p = false)
    (hd : (s.port p).link = .down) (hk : (s.port p).lock = true) :
    s.linkErrCheck p receiving = (s.modPort p fun x => { x with anDone := false }).linkTo p .training receiving := by
  rw [State.linkErrCheck, if_neg (by simp [hs, hl]), if_pos ⟨hd, hk⟩]

/-- The port after such a start. -/
theorem State.unsent_linkErrCheck_trains (receiving : Bool) (hp : p < s.mac.port.length) (hs : (s.port p).speedErr = false)
    (hl : s.lineErr p = false) (hd : (s.port p).link = .down) (hk : (s.port p).lock = true) :
    ((s.linkErrCheck p receiving).port p).unsent = ({ s.port p with anDone := false, link := .training } : Port).unsent := by
  have hport : (s.modPort p fun x => { x with anDone := false }).port p = { s.port p with anDone := false } := State.port_modPort_self _ _ hp
  rw [State.linkErrCheck_trains receiving hs hl hd hk, State.unsent_linkTo receiving (by rwa [State.modPort_len]) (by simp [hport, hd]), hport]
  rfl

/-! ### Lock (R99, R101) -/

theorem linkLockAcquiredRow_disabled (h : (s.port p).link = .disabled) : linkLockAcquiredRow p s = s := by
  rw [linkLockAcquiredRow, if_pos (.inr h)]

section acquired

variable (h6 : p < 6) (hp : p < s.mac.port.length)
include h6 hp

theorem linkLockAcquiredRow_down (h : (s.port p).link = .down) :
    linkLockAcquiredRow p s = (s.modPort p fun x => { x with lock := true }).linkErrCheck p false := by
  rw [linkLockAcquiredRow, if_neg (by simp [h, h6])]
  simp only [State.port_modPort_self s _ hp, h, if_true]

theorem linkLockAcquiredRow_up (hd : (s.port p).link ≠ .disabled) (h : (s.port p).link ≠ .down) :
    linkLockAcquiredRow p s = s.modPort p fun x => { x with lock := true } := by
  rw [linkLockAcquiredRow, if_neg (by simp [hd, h6])]
  simp only [State.port_modPort_self s _ hp, h, if_false]

end acquired

/-- A port without lock, its autonegotiation and its errors and faults forgotten. -/
def Port.unlocked (x : Port) : Port :=
  { x with lock := false, anDone := false, speedErr := false, hiBer := false, localFault := false, remoteFault := false }

theorem linkLockLostRow_eq (h6 : p < 6) (receiving : Bool) : linkLockLostRow p receiving s =
    if (s.modPort p Port.unlocked).linkBusy p = true then (s.modPort p Port.unlocked).linkTo p .down receiving else s.modPort p Port.unlocked := by
  rw [linkLockLostRow, if_neg (by omega)]
  rfl

theorem State.port_unlocked (hp : p < s.mac.port.length) : (s.modPort p Port.unlocked).port p = (s.port p).unlocked :=
  State.port_modPort_self _ _ hp

/-- With lock lost a port is unlocked, and DOWN if it was in TRAINING, UP or FAULT. -/
theorem unsent_linkLockLostRow (h6 : p < 6) (hp : p < s.mac.port.length) (receiving : Bool) :
    ((linkLockLostRow p receiving s).port p).unsent =
      ({ (s.port p).unlocked with link := if s.linkBusy p = true then .down else (s.port p).link } : Port).unsent := by
  have hport := State.port_unlocked hp
  have hbusy : (s.modPort p Port.unlocked).linkBusy p = s.linkBusy p := by
    rw [State.linkBusy, hport]
    rfl
  rw [linkLockLostRow_eq h6, hbusy]
  split
  case isTrue hb =>
    rw [State.unsent_linkTo receiving (by rwa [State.modPort_len]) (State.ne_of_linkBusy (hbusy.trans hb)).2, hport]
    rfl
  case isFalse =>
    rw [hport]
    rfl

/-! ### Autonegotiation and the qualification time (R101) -/

theorem autonegCompleteRow_training (h6 : p < 6) (ha : s.autoneg p = true) (hl : (s.port p).link = .training) :
    autonegCompleteRow p s = s.modPort p fun x => { x with anDone := true } := by
  rw [autonegCompleteRow, if_pos ⟨h6, ha, hl⟩]

theorem autonegCompleteRow_idle (h : s.autoneg p = false ∨ (s.port p).link ≠ .training) : autonegCompleteRow p s = s := by
  rw [autonegCompleteRow, if_neg]
  rintro ⟨-, ha, hl⟩
  rcases h with h | h
  · simp [h] at ha
  · exact h hl

/-- When the qualification time of a port takes it UP. -/
def State.qualifies (s : State) (p : Nat) : Prop :=
  (s.port p).link = .training ∧ (s.port p).lock = true ∧ s.linkFault p = false ∧ (s.autoneg p = false ∨ (s.port p).anDone = true)

theorem linkQualifiedRow_up (h6 : p < 6) (h : s.qualifies p) : linkQualifiedRow p s = s.linkTo p .up false := by
  obtain ⟨hl, hk, hf, ha⟩ := h
  rw [linkQualifiedRow, if_pos ⟨h6, hl, hk, by simp [hf], by simpa using ha⟩]

theorem linkQualifiedRow_idle (h : ¬ s.qualifies p) : linkQualifiedRow p s = s := by
  rw [linkQualifiedRow, if_neg]
  rintro ⟨-, hl, hk, hf, ha⟩
  exact h ⟨hl, hk, by simpa using hf, by simpa using ha⟩

/-! ### SGMII control information (R99) -/

theorem sgmiiControlRxRow_idle {slow : Bool} (receiving : Bool)
    (h : (p < 4 ∨ s.macLine p ≠ 1 ∨ (s.port p).lock = false) ∨ slow = (s.port p).speedErr) : sgmiiControlRxRow p slow receiving s = s := by
  rw [sgmiiControlRxRow, if_pos]
  simp only [Bool.not_eq_true']
  tauto

theorem sgmiiControlRxRow_speed {slow : Bool} (receiving : Bool) (h4 : 4 ≤ p) (h6 : p < 6) (hm : s.macLine p = 1)
    (hk : (s.port p).lock = true) (hs : slow ≠ (s.port p).speedErr) :
    sgmiiControlRxRow p slow receiving s = (s.modPort p fun x => { x with speedErr := slow }).linkErrCheck p receiving := by
  rw [sgmiiControlRxRow, if_neg]
  simp [hm, hk, hs, h4, h6]

/-- LINE_ERR is 0 with LINE at SGMII. -/
theorem State.lineErr_sgmii (hm : s.macLine p = 1) : s.lineErr p = false := by
  simp [State.lineErr, hm]

section sgmii

variable (receiving : Bool) (h4 : 4 ≤ p) (h6 : p < 6) (hp : p < s.mac.port.length) (hm : s.macLine p = 1) (hk : (s.port p).lock = true)
include h4 h6 hp hm hk

/-- A slow partner takes the port DOWN. -/
theorem sgmiiControlRxRow_slow (hs : (s.port p).speedErr = false) (hb : s.linkBusy p = true) :
    ((sgmiiControlRxRow p true receiving s).port p).link = .down := by
  have hport : (s.modPort p fun x => { x with speedErr := true }).port p = { s.port p with speedErr := true } := State.port_modPort_self _ _ hp
  rw [sgmiiControlRxRow_speed receiving h4 h6 hm hk (by simp [hs]), State.linkErrCheck_busy receiving (.inl (by rw [hport]))]
  · exact State.link_linkTo receiving (by rwa [State.modPort_len])
  · rw [State.linkBusy, hport]
    exact hb

/-- A fast one takes it back to TRAINING. -/
theorem sgmiiControlRxRow_fast (hs : (s.port p).speedErr = true) (hl : (s.port p).link = .down) :
    ((sgmiiControlRxRow p false receiving s).port p).link = .training := by
  have hport : (s.modPort p fun x => { x with speedErr := false }).port p = { s.port p with speedErr := false } := State.port_modPort_self _ _ hp
  rw [sgmiiControlRxRow_speed receiving h4 h6 hm hk (by simp [hs])]
  exact congrArg Port.link (State.unsent_linkErrCheck_trains (s := s.modPort p fun x => { x with speedErr := false }) receiving
    (by rwa [State.modPort_len]) (by rw [hport]) (State.lineErr_sgmii hm) (by rw [hport]; exact hl) (by rw [hport]; exact hk))

end sgmii

/-! ### Faults (R100, R101) -/

/-- The faults a port knows: P4 and P5 only the remote fault code of 1000BASE-X with AN_EN 1 (R100). -/
def State.knowsFault (s : State) (p : Nat) (remote hiBer : Bool) : Prop :=
  p < 4 ∨ (remote = true ∧ hiBer = false ∧ s.macLine p = 0 ∧ s.macCtrl p 5 = true)

theorem State.knowsFault_iff {remote hiBer : Bool} :
    s.knowsFault p remote hiBer ↔ ¬(4 ≤ p ∧ !(remote && !hiBer && s.macLine p == 0 && s.macCtrl p 5)) := by
  simp [State.knowsFault, or_iff_not_imp_left]

theorem State.not_knowsFault {remote hiBer : Bool} (h4 : 4 ≤ p)
    (h : remote = false ∨ hiBer = true ∨ s.macLine p ≠ 0 ∨ s.macCtrl p 5 = false) : ¬ s.knowsFault p remote hiBer := by
  rintro (hlt | ⟨rfl, rfl, hm, hc⟩)
  · omega
  · simp [hm, hc] at h

theorem linkFaultRxRow_idle {remote hiBer : Bool} (receiving : Bool) (h : (s.port p).link = .disabled ∨ ¬ s.knowsFault p remote hiBer) :
    linkFaultRxRow p remote hiBer receiving s = s := by
  rw [linkFaultRxRow]
  split
  · rfl
  · next hn =>
    have hk : ¬ s.knowsFault p remote hiBer := h.resolve_left fun hd => hn (.inr hd)
    rw [if_pos (not_not.mp (mt State.knowsFault_iff.mpr hk))]

/-- A known fault takes an UP port to FAULT. -/
theorem linkFaultRxRow_fault {remote hiBer : Bool} (receiving : Bool) (h6 : p < 6) (hp : p < s.mac.port.length) (hu : (s.port p).link = .up)
    (hk : s.knowsFault p remote hiBer) : ((linkFaultRxRow p remote hiBer receiving s).port p).link = .fault := by
  rw [linkFaultRxRow, if_neg (by simp [hu, h6]), if_neg (State.knowsFault_iff.mp hk)]
  extract_lets s1
  have hport : (s1.port p).link = .up := by
    unfold s1
    rw [State.port_modPort_self s _ hp]
    split_ifs <;> exact hu
  rw [if_pos hport]
  exact State.link_linkTo receiving (by rwa [State.modPort_len])

/-- The end of a fault: its notes are gone, and a port in FAULT is UP. -/
theorem linkFaultClearedRow_eq (h6 : p < 6) (hp : p < s.mac.port.length) : linkFaultClearedRow p s =
    let s1 := s.modPort p fun x => { x with hiBer := false, localFault := false, remoteFault := false }
    if (s.port p).link = .fault then s1.linkTo p .up false else s1 := by
  rw [linkFaultClearedRow, if_neg (by omega)]
  simp only [State.port_modPort_self s _ hp]

/-- Settles O27: each row's cases; neither a port's transmit side nor the steps after the command change its link. -/
theorem linkStatesMove : Obligations.LinkStatesMove := by
  unfold Obligations.LinkStatesMove
  intro p s h6 hp x goes busy fault
  have hbusy : s.linkBusy p = true ↔ busy := State.linkBusy_iff
  have hlocked : (s.modPort p fun x => { x with lock := true }).port p = { x with lock := true } := State.port_modPort_self _ _ hp
  have hlen (f : Port → Port) : p < (s.modPort p f).mac.port.length := by rwa [State.modPort_len]
  refine ⟨fun h => ?_, fun hl hs he => ?_, fun hl he => ?_, fun hb => ?_, fun r => ?_, fun ha hl => ?_, fun h => ?_, fun hl hk hf ha => ?_,
    fun h => ?_, fun r h4 hm hk => ⟨fun hs hb => ?_, fun hs hl => ?_, ?_⟩, fun slow r h => ?_, fun remote hiBer r h => ?_,
    fun remote hiBer r hk hu => ?_, fun hl => ?_, fun hl => ?_⟩
  · have e : Answers (.linkLockAcquired p) s (linkLockAcquiredRow p s) := rfl
    rwa [linkLockAcquiredRow_disabled h] at e
  · refine ⟨_, rfl, ?_⟩
    rw [State.port_after, linkLockAcquiredRow_down h6 hp hl]
    have h := State.unsent_linkErrCheck_trains false (hlen _) (by rw [hlocked]; exact hs) he (by rw [hlocked]; exact hl) (by rw [hlocked])
    rw [hlocked] at h
    exact ⟨congrArg Port.link h, congrArg Port.lock h, congrArg Port.anDone h⟩
  · refine ⟨_, rfl, ?_⟩
    rw [State.port_after, linkLockAcquiredRow_down h6 hp hl,
      State.linkErrCheck_held_down false (by rw [hlocked]; exact he) (by rw [hlocked]; exact hl), hlocked]
    exact ⟨hl, rfl⟩
  · have e : Answers (.linkLockAcquired p) s (linkLockAcquiredRow p s) := rfl
    obtain ⟨hdis, hdown⟩ := State.ne_of_linkBusy (hbusy.mpr hb)
    rwa [linkLockAcquiredRow_up h6 hp hdis hdown] at e
  · refine ⟨_, rfl, ?_⟩
    rw [State.port_after]
    have h := unsent_linkLockLostRow h6 hp r
    have hlink := congrArg Port.link h
    refine ⟨congrArg Port.lock h, congrArg Port.anDone h, congrArg Port.speedErr h, congrArg Port.hiBer h, congrArg Port.localFault h,
      congrArg Port.remoteFault h, fun hb => ?_, fun hb => ?_⟩
    · exact hlink.trans (if_pos (hbusy.mpr hb))
    · exact hlink.trans (if_neg (mt hbusy.mp hb))
  · have e : Answers (.autonegComplete p) s (autonegCompleteRow p s) := rfl
    rwa [autonegCompleteRow_training h6 ha hl] at e
  · have e : Answers (.autonegComplete p) s (autonegCompleteRow p s) := rfl
    rwa [autonegCompleteRow_idle h] at e
  · refine ⟨_, rfl, ?_⟩
    rw [State.port_after, linkQualifiedRow_up h6 ⟨hl, hk, hf, ha⟩]
    exact State.link_linkTo false hp
  · have e : Answers (.linkQualified p) s (linkQualifiedRow p s) := rfl
    rwa [linkQualifiedRow_idle] at e
    rintro ⟨hl, hk, hf, ha⟩
    have hf' : fault = false := hf
    simp [x, hl, hk, hf'] at h
    simp [h] at ha
  · refine ⟨_, rfl, ?_⟩
    rw [State.port_after]
    exact sgmiiControlRxRow_slow r h4 h6 hp hm hk hs (hbusy.mpr hb)
  · refine ⟨_, rfl, ?_⟩
    rw [State.port_after]
    exact sgmiiControlRxRow_fast r h4 h6 hp hm hk hs hl
  · have e : Answers (.sgmiiControlRx p x.speedErr r) s (sgmiiControlRxRow p x.speedErr r s) := rfl
    rwa [sgmiiControlRxRow_idle r (.inr rfl)] at e
  · have e : Answers (.sgmiiControlRx p slow r) s (sgmiiControlRxRow p slow r s) := rfl
    rwa [sgmiiControlRxRow_idle r (.inl h)] at e
  · have e : Answers (.linkFaultRx p remote hiBer r) s (linkFaultRxRow p remote hiBer r s) := rfl
    rwa [linkFaultRxRow_idle r (h.imp_right fun h => State.not_knowsFault h.1 h.2)] at e
  · refine ⟨_, rfl, ?_⟩
    rw [State.port_after]
    exact linkFaultRxRow_fault r h6 hp hu hk
  · refine ⟨_, rfl, ?_⟩
    rw [State.port_after, linkFaultClearedRow_eq h6 hp]
    simp only [show (s.port p).link = .fault from hl, if_true]
    exact State.link_linkTo false (hlen _)
  · have e : Answers (.linkFaultCleared p) s (linkFaultClearedRow p s) := rfl
    rw [linkFaultClearedRow_eq h6 hp] at e
    simpa only [show (s.port p).link ≠ .fault from hl, if_false] using e

end Sys2Proof.Machine
end

section
/-! SUPPORT. Reception: the checks of a frame in their order, and its acceptance with and without PRP (R102 to R107, R109, R115). -/

namespace Sys2Proof.Machine

variable {s : State} {p : Nat} {f : WireFrame} {b : List Byte}

/-! ### The serial input (R102, R103) -/

theorem macRxFrameRow_noPort (h6 : 6 ≤ p) : macRxFrameRow p f s = s.advance f.endStamp := by
  rw [macRxFrameRow, if_pos h6]

theorem macRxFrameRow_loopback (h6 : p < 6) (hl : (s.advance f.endStamp).macCtrl p 3 = true) :
    macRxFrameRow p f s = (s.advance f.endStamp).rxDrain p f.drained := by
  rw [macRxFrameRow, if_neg (by omega), if_pos hl]

theorem macRxFrameRow_serial (h6 : p < 6) (hl : (s.advance f.endStamp).macCtrl p 3 = false) :
    macRxFrameRow p f s = (s.advance f.endStamp).rxFrame p f := by
  rw [macRxFrameRow, if_neg (by omega), if_neg (by simp [hl])]

/-! ### What passes the checks (R103, R115) -/

/-- An accepted frame of n bytes: it takes its place in the receive buffer, is counted and goes to its consumer. -/
def State.rxPass (s : State) (p : Nat) (f : WireFrame) (b : List Byte) (n : Nat) : State :=
  (((s.modPort p fun x => { x with rxHeld := x.rxHeld + n }).macCountBy p 0 1).macCountBy p 1 n).rxConsume p f b

variable {n : Nat}

theorem State.rxAccept_outsidePrp (h : (s.asOf f.stamp).prpOf p = none) : s.rxAccept p f b n = s.rxPass p f b n := by
  simp only [State.rxAccept, h, State.rxPass]

section pair

variable {e : Nat} (h : (s.asOf f.stamp).prpOf p = some e)
include h

/-- A frame without a trailer is counted and goes on. -/
theorem State.rxAccept_noTrailer (hr : rctOf b = none) : s.rxAccept p f b n = (s.macCountBy p 12 1).rxPass p f b n := by
  have hprp : s.prpRx e p f b = (s.macCountBy p 12 1, some b) := by simp only [State.prpRx, hr]
  simp only [State.rxAccept, h, hprp, State.rxPass]

/-- A duplicate is counted and goes to no consumer. -/
theorem State.rxAccept_duplicate {seq lan : Nat} (hr : rctOf b = some (seq, lan)) (hlan : (lan == 0xB) = (p != e))
    (hptp : isPtp (b.take (b.length - 6)) = false)
    (hdup : ((s.port e).prpTable.any fun x => x.src == leAt b 6 6 && x.seq == seq && x.lanB != (p != e) &&
      decide (f.endStamp < x.at_ + (s.asOf f.stamp).fld (Reg.MAC_PRP (e / 2)) 16 10 * subPerMs)) = true) :
    s.rxAccept p f b n = s.rxDrop p 11 := by
  have hprp : s.prpRx e p f b = (s.rxDrop p 11, none) := by
    simp only [State.prpRx, hr, hptp, hlan, bne_self_eq_false, Bool.false_eq_true, if_false, hdup, if_true]
  simp only [State.rxAccept, h, hprp]

end pair

/-! ### The checks of a frame (R103 to R107, R109) -/

/-- A frame of a port that is not UP, or was not at the frame's delimiter, is not received. -/
theorem State.rxFrame_away (h : (s.port p).link ≠ .up ∨ f.stamp < (s.port p).upSince) : s.rxFrame p f = s := by
  rw [State.rxFrame, if_pos h]

/-- Settles O29: the branches of the checks in their order, each under the failure of those before it. -/
theorem receiveChecksInOrder : Obligations.ReceiveChecksInOrder := by
  unfold Obligations.ReceiveChecksInOrder
  intro p f s s0 v s1 n b lim held crcOk pause rx
  have e : rx (macRxFrameRow p f s) := rfl
  have hdrain : s0.rxDrain p f.drained = s1 := rfl
  refine ⟨fun h6 => ?_, fun h6 hl => ?_, fun h6 hl h => ?_, fun h6 hl hup hsfd => ?_⟩
  · rwa [macRxFrameRow_noPort h6] at e
  · rwa [macRxFrameRow_loopback h6 hl] at e
  · rwa [macRxFrameRow_serial h6 hl, State.rxFrame_away h] at e
  replace e : rx (s0.rxFrame p f) := macRxFrameRow_serial h6 hl ▸ e
  rw [State.rxFrame, if_neg (not_or.mpr ⟨not_not.mpr hup, not_lt.mpr hsfd⟩), hdrain] at e
  dsimp only at e
  refine ⟨fun hspace => ?_, fun hspace => ?_⟩
  · rwa [if_pos hspace] at e
  rw [if_neg (not_lt.mpr hspace)] at e
  refine ⟨fun hpcs => ?_, fun hpcs => ?_⟩
  · rwa [if_pos hpcs] at e
  rw [if_neg (by simp [hpcs])] at e
  refine ⟨fun hrunt => ?_, fun hrunt hlong => ?_, fun hrunt hlong => ?_⟩
  · rwa [if_pos hrunt] at e
  · rwa [if_neg (not_lt.mpr hrunt), if_pos hlong] at e
  rw [if_neg (not_lt.mpr hrunt), if_neg (not_lt.mpr hlong)] at e
  refine ⟨fun hcrc => ?_, fun hcrc htype hpause => ?_, fun hcrc htype hpause => ?_, fun hcrc htype => ?_⟩
  · rwa [if_pos hcrc] at e
  · rwa [if_neg (not_not.mpr hcrc), if_pos htype, if_pos hpause] at e
  · rw [if_neg (not_not.mpr hcrc), if_pos htype, if_neg hpause] at e
    exact e
  rw [if_neg (not_not.mpr hcrc), if_neg htype] at e
  replace e : rx (if (!v.addrPass p b) = true then s1.rxDrop p 9 else if (!v.vlanPass p b) = true then s1.rxDrop p 10
    else s1.rxAccept p f b n) := e
  refine ⟨fun haddr => ?_, fun haddr hvlan => ?_, fun haddr hvlan => ?_⟩
  · rwa [if_pos (by simp [haddr])] at e
  · rwa [if_neg (by simp [haddr]), if_pos (by simp [hvlan])] at e
  rw [if_neg (by simp [haddr]), if_neg (by simp [hvlan])] at e
  refine ⟨fun hprp => ?_, fun a hprp hr => ?_, fun a seq lan hprp hr hlan hptp hdup => ?_⟩
  · rw [State.rxAccept_outsidePrp hprp] at e
    exact e
  · rw [State.rxAccept_noTrailer hprp hr] at e
    exact e
  · rw [State.rxAccept_duplicate hprp hr hlan hptp hdup] at e
    exact e

end Sys2Proof.Machine
end

section
/-! SUPPORT. The consumers of accepted frames, the PAUSE frames and the end of a pause interval (R105, R109, R110, R120, R121). -/

namespace Sys2Proof.Machine

variable {s : State} {p : Nat} {f : WireFrame} {b : List Byte}

/-! ### Consumers (R105, R120, R121) -/

/-- Whether an enabled slot names port p. -/
def State.slotNames (s : State) (p : Nat) : Bool :=
  (List.range 4).any fun i => s.bit (Reg.TB_SRC_CFG i) 0 && s.bit (Reg.TB_SRC_CFG i) (6 + p)

/-- The arrival of a frame: its corrected second stamp. -/
def State.rxArrival (s : State) (p : Nat) (f : WireFrame) : Nat := ((s.asOf f.stamp).rxCorrected p f.endStamp).toNat

theorem State.rxConsume_ptp (hb : isPtp b = true) (hs : s.slotNames p = true) : s.rxConsume p f b =
    { s with tb := { s.tb with ptpQueue := s.tb.ptpQueue ++ [⟨p, b, f.stamp, (s.asOf f.stamp).rxCorrected p f.stamp⟩] } } := by
  rw [State.rxConsume, if_pos ⟨hb, hs⟩]

section other

variable (h : isPtp b = false ∨ s.slotNames p = false)
include h

/-- A frame that is not the time base's goes to intake if a listener takes its datagram, and to the host otherwise. -/
theorem State.rxConsume_other : s.rxConsume p f b =
    ((udpOf b).bind fun u => (s.listenerOf p u).map fun l => s.intakeEnter
      { listener := l, origin := p, srcIp := u.ip.src, srcPort := u.sport, payload := u.payload, csumOk := u.csumOk,
        arrival := s.rxArrival p f, mid := none, dstIp := u.ip.dst, dstPort := u.dport, whole := b }).getD
      (s.rxHost p b (s.rxArrival p f)) := by
  have hn : ¬(isPtp b = true ∧ s.slotNames p = true) := by rcases h with h | h <;> simp [h]
  refine (if_neg hn).trans ?_
  cases udpOf b with
  | none => rfl
  | some u =>
    simp only [Option.bind_some]
    cases s.listenerOf p u <;> rfl

theorem State.rxConsume_listener {u : Udp} {l : Nat} (hu : udpOf b = some u) (hl : s.listenerOf p u = some l) :
    s.rxConsume p f b = s.intakeEnter
      { listener := l, origin := p, srcIp := u.ip.src, srcPort := u.sport, payload := u.payload, csumOk := u.csumOk,
        arrival := s.rxArrival p f, mid := none, dstIp := u.ip.dst, dstPort := u.dport, whole := b } := by
  rw [State.rxConsume_other h, hu, Option.bind_some, hl]
  rfl

theorem State.rxConsume_host (hu : ∀ u, udpOf b = some u → s.listenerOf p u = none) :
    s.rxConsume p f b = s.rxHost p b (s.rxArrival p f) := by
  rw [State.rxConsume_other h]
  cases hb : udpOf b with
  | none => rfl
  | some u =>
    rw [Option.bind_some, hu u hb]
    rfl

end other

theorem State.intakeEnter_room {g : InFrame} (h : s.bin.intakeQ.length < 1024) :
    s.intakeEnter g = { s.count (Reg.BIN_CNT_LO 0) with bin := { s.bin with intakeQ := s.bin.intakeQ ++ [g] } } :=
  if_neg (not_le.mpr h)

theorem State.intakeEnter_full {g : InFrame} (h : 1024 ≤ s.bin.intakeQ.length) :
    s.intakeEnter g = ((s.count (Reg.BIN_CNT_LO 0)).count (Reg.BIN_CNT_LO 2)).event Reg.BIN_EVT 6 :=
  if_pos h

/-! ### PAUSE (R109, R110) -/

/-- A PAUSE frame counted and reported. -/
def State.pauseCounted (s : State) (p : Nat) : State := (s.macCountBy p 7 1).event (Reg.MAC_EVT p) 4

theorem State.pauseRx_off {t stamp : Nat} (h : (s.pauseCounted p).bit (Reg.MAC_PAUSE p) 0 = false) : s.pauseRx p t stamp = s.pauseCounted p :=
  if_neg (Bool.eq_false_iff.mp h)

section enabled

variable {t stamp : Nat} (h : (s.pauseCounted p).bit (Reg.MAC_PAUSE p) 0 = true)
include h

theorem State.pauseRx_starts (ht : t ≠ 0) :
    s.pauseRx p t stamp = (s.pauseCounted p).modPort p fun x => { x with pausedUntil := some (stamp + quanta p t) } :=
  (if_pos h).trans (if_neg ht)

theorem State.pauseRx_ends : s.pauseRx p 0 stamp = ((s.pauseCounted p).modPort p fun x => { x with pausedUntil := none }).txStart p :=
  (if_pos h).trans (if_pos rfl)

end enabled

theorem pauseExpiryRow_idle (h : (s.port p).pausedUntil = none) : pauseExpiryRow p s = s := by
  simp only [pauseExpiryRow, h]

theorem pauseExpiryRow_ends {t : Nat} (h : (s.port p).pausedUntil = some t) :
    pauseExpiryRow p s = ((s.advance t).modPort p fun x => { x with pausedUntil := none }).txStart p := by
  simp only [pauseExpiryRow, h]

/-- A port that starts its next frame takes no time. -/
@[simp] theorem State.txStart_dt (s : State) (p : Nat) : (s.txStart p).dt = s.dt := by
  unfold State.txStart
  extract_lets x run
  split
  · rfl
  · split <;> rfl

/-- The end of a pause interval at t. -/
theorem pausedUntil_pauseExpiryRow {t : Nat} (hp : p < s.mac.port.length) (h : (s.port p).pausedUntil = some t) :
    ((pauseExpiryRow p s).port p).pausedUntil = none := by
  have hlen : p < (s.advance t).mac.port.length := by rwa [(State.advance_portkept (.refl s) t).mac_port]
  rw [pauseExpiryRow_ends h]
  have htx := State.unsent_txStart ((s.advance t).modPort p fun x => { x with pausedUntil := none }) p p
  rw [State.port_modPort_self _ _ hlen] at htx
  exact congrArg Port.pausedUntil htx

/-- Settles O30: the consumer's branches, the PAUSE frame's, and the end of the interval, which the steps after the command leave. -/
theorem framesGoToOneConsumer : Obligations.FramesGoToOneConsumer := by
  unfold Obligations.FramesGoToOneConsumer
  intro s p f b slot at_ counted
  refine ⟨State.rxConsume_ptp, fun h => ⟨fun u l hu hl => ⟨fun hroom => ?_, fun hfull => ?_⟩, fun hu => ⟨fun hon => ?_, fun hoff => ?_⟩⟩,
    fun t stamp => ⟨State.pauseRx_off, State.pauseRx_starts, State.pauseRx_ends⟩, fun h => ?_, fun t h hp => ?_⟩
  · rw [State.rxConsume_listener h hu hl, State.intakeEnter_room hroom]
    rfl
  · rw [State.rxConsume_listener h hu hl, State.intakeEnter_full hfull]
  · rw [State.rxConsume_host h hu, State.rxHost, if_pos hon]
    rfl
  · rw [State.rxConsume_host h hu, State.rxHost, if_neg (Bool.eq_false_iff.mp hoff)]
  · have e : Answers (.pauseExpiry p) s (pauseExpiryRow p s) := rfl
    rwa [pauseExpiryRow_idle h] at e
  · refine ⟨_, rfl, ?_, ?_⟩
    · rw [State.port_after]
      exact pausedUntil_pauseExpiryRow hp h
    · rw [(State.after_calm (.refl _) s).dt, pauseExpiryRow_ends h, State.txStart_dt]
      exact State.advance_dt s t

end Sys2Proof.Machine
end

section
/-! SUPPORT. The registers of alignment that the host writes: the quay ring, the enable of alignment and the probe of a quay (R154, R186
to R188). -/

namespace Sys2Proof.Machine

variable {s : State} {v : Word} {lo : Nat}

/-! ### The two halves of a pair that a write of HI puts in place together (R16) -/

/-- The value of a pair once HI is written: the held LO, or the one in place, below it. -/
def State.pairValue (s : State) (lo : Nat) (v : Word) : Nat := ((mapFind s.hold lo).getD (s.reg lo)).toNat + 2 ^ 32 * v.toNat

/-- The state with that value in place. -/
def State.pairPut (s : State) (lo : Nat) (v : Word) : State := ({ s with hold := mapDel s.hold lo }).setReg64 lo (s.pairValue lo v)

theorem State.pairValue_lt (s : State) (lo : Nat) (v : Word) : s.pairValue lo v < 2 ^ 64 := by
  have h := ((mapFind s.hold lo).getD (s.reg lo)).isLt
  have hv := v.isLt
  unfold State.pairValue
  omega

theorem State.reg64_pairPut (s : State) (lo : Nat) (v : Word) : (s.pairPut lo v).reg64 lo = s.pairValue lo v :=
  State.reg64_setReg64 _ _ _ (s.pairValue_lt lo v)

theorem State.reg64_of_regs {t : State} (h : t.regs = s.regs) (lo : Nat) : t.reg64 lo = s.reg64 lo := by
  simp only [State.reg64, State.reg, h]

theorem State.reg64_setReg_ne (s : State) {o lo : Nat} (h : o ≠ lo) (h' : o ≠ lo + 4) (w : Word) : (s.setReg o w).reg64 lo = s.reg64 lo := by
  rw [State.reg64, State.reg_setReg_ne _ h, State.reg_setReg_ne _ h', State.reg64]

/-! ### Bits of a register -/

/-- The bit of an event reads 1 once the event has been raised. -/
theorem State.getLsbD_reg_event (s : State) (o : Nat) {i : Nat} (h : i < 32) : ((s.event o i).reg o).getLsbD i = true := by
  rw [State.reg_event, if_pos rfl, BitVec.getLsbD_or, BitVec.getLsbD_ofNat, Nat.testBit_two_pow_self]
  simp [h]

/-- A bit written 0 reads 0. -/
theorem putBits_bit_zero (w : Word) {i : Nat} (h : i < 32) : (putBits w i 1 0).getLsbD i = false := by
  have hm : (BitVec.ofNat 32 (1 <<< i)).getLsbD i = true := by simp [BitVec.getLsbD_ofNat, h]
  simp [putBits, hm, h]

/-! ### The note of when alignment became ready (R154) -/

theorem State.alnNote_eq_modAln (s : State) : ∃ r, s.alnNote = s.modAln fun a => { a with readySince := r } := by
  unfold State.alnNote
  split
  · split
    · exact ⟨some s.dt, rfl⟩
    · exact ⟨s.aln.readySince, rfl⟩
  · exact ⟨none, rfl⟩

@[simp] theorem State.alnNote_regs (s : State) : s.alnNote.regs = s.regs := by
  obtain ⟨r, h⟩ := s.alnNote_eq_modAln
  rw [h, State.modAln_regs]

@[simp] theorem State.reg_alnNote (s : State) (o : Nat) : s.alnNote.reg o = s.reg o := by
  rw [State.reg, State.alnNote_regs, State.reg]

@[simp] theorem State.alnNote_quays (s : State) : s.alnNote.aln.quays = s.aln.quays := by
  obtain ⟨r, h⟩ := s.alnNote_eq_modAln
  rw [h, State.modAln_aln]

@[simp] theorem State.alnNote_ringSet (s : State) : s.alnNote.aln.ringSet = s.aln.ringSet := by
  obtain ⟨r, h⟩ := s.alnNote_eq_modAln
  rw [h, State.modAln_aln]

/-! ### The quay ring (R187) -/

theorem alnRingBaseWriteRow_closed (h : s.ringOpen = false) : alnRingBaseWriteRow v s = s := by
  unfold alnRingBaseWriteRow
  rw [if_pos (by simp [h])]

/-- A base that is taken: RING_SET and an empty ring where it fits, no ring and the event where it does not. -/
theorem alnRingBaseWriteRow_open (h : s.ringOpen = true) : alnRingBaseWriteRow v s =
    let s1 := s.pairPut Reg.ALN_RING_BASE_LO v
    if s.dramFits (s.pairValue Reg.ALN_RING_BASE_LO v) (512 * quayBytes) then (s1.modAln fun a => { a with ringSet := true, quays := [] }).alnNote
    else ((s1.modAln fun a => { a with ringSet := false }).event Reg.ALN_EVT 8).alnNote := by
  unfold alnRingBaseWriteRow
  rw [if_neg (by simp [h])]
  rfl

theorem answers_alnRingBaseWrite (hR : s.Reaches Reg.ALN_RING_BASE_HI v) : Answers (.alnRingBaseWrite v) s (alnRingBaseWriteRow v s) :=
  congrArg (fun t => Host.Outcome.next (State.after s t)) (State.busWrite_reaches hR _)

/-! ### EN (R186) -/

theorem alnEnWriteRow_refused (h0 : v.getLsbD 0 = true) (h1 : v.getLsbD 1 = false) (hr : s.aln.ringSet = false) :
    alnEnWriteRow v s = ((s.setFld Reg.ALN_CTRL 0 1 0).event Reg.ALN_EVT 8).alnNote := by
  simp only [alnEnWriteRow, h0, h1, hr, Bool.false_eq_true, if_false, Bool.not_false, and_self, if_true]

theorem alnEnWriteRow_taken (h : v.getLsbD 0 = false ∨ s.aln.ringSet = true) (h1 : v.getLsbD 1 = false) :
    alnEnWriteRow v s = (s.writeReg Reg.ALN_CTRL v).alnNote := by
  have hn : ¬(v.getLsbD 0 = true ∧ (!s.aln.ringSet) = true) := by
    rcases h with h | h
    · exact fun e => Bool.false_ne_true (h.symm.trans e.1)
    · exact fun e => by simp [h] at e
  simp only [alnEnWriteRow, h1, Bool.false_eq_true, if_false, if_neg hn]

theorem answers_alnEnWrite (hR : s.Reaches Reg.ALN_CTRL v) : Answers (.alnEnWrite v) s (alnEnWriteRow v s) :=
  congrArg (fun t => Host.Outcome.next (State.after s t)) (State.busWrite_reaches hR _)

/-! ### The probe of a quay (R188) -/

/-- The state and the place of a quay as a probe shows them, 0 where it is not held. -/
def State.probeCode (s : State) (seq : Nat) : Nat :=
  match s.quay? seq with
  | some q => q.state.code + 8 * b2n q.spilled + 16 * b2n q.settleDone + 2 ^ 8 * (q.slot.getD 0) + 2 ^ 16 * (seq % 512)
  | none => 0

theorem State.probeCode_held {seq : Nat} {q : Quay} (h : s.quay? seq = some q) : s.probeCode seq =
    q.state.code + 8 * b2n q.spilled + 16 * b2n q.settleDone + 2 ^ 8 * (q.slot.getD 0) + 2 ^ 16 * (seq % 512) := by
  simp only [State.probeCode, h]

theorem State.probeCode_none {seq : Nat} (h : s.quay? seq = none) : s.probeCode seq = 0 := by
  simp only [State.probeCode, h]

theorem alnProbeRow_eq : alnProbeRow v s = (s.pairPut Reg.ALN_PROBE_SEQ_LO v).setReg Reg.ALN_PROBE_RES
    (BitVec.ofNat 32 (2 ^ 31 + s.probeCode (s.pairValue Reg.ALN_PROBE_SEQ_LO v))) := rfl

theorem answers_alnProbe (hR : s.Reaches Reg.ALN_PROBE_SEQ_HI v) : Answers (.alnProbe v) s (alnProbeRow v s) :=
  congrArg (fun t => Host.Outcome.next (State.after s t)) (State.busWrite_reaches hR _)

/-- The number that a probe has named stays in its pair. -/
theorem reg64_alnProbeRow : (alnProbeRow v s).reg64 Reg.ALN_PROBE_SEQ_LO = s.pairValue Reg.ALN_PROBE_SEQ_LO v := by
  rw [alnProbeRow_eq, State.reg64_setReg_ne _ (by decide) (by decide), State.reg64_pairPut]

/-- Settles O34: the write of each of the three registers, by whether the ring is open, the base fits, a ring is set and the quay is held. -/
theorem ringProbeAndEnable : Obligations.RingProbeAndEnable := by
  unfold Obligations.RingProbeAndEnable
  intro v s base seq
  refine ⟨fun hR => ?_, fun hR => ⟨fun h0 h1 hr => ?_, fun h h1 => ?_⟩, fun hR => ?_⟩
  · have e := answers_alnRingBaseWrite hR
    refine ⟨fun hc => ?_, fun ho hf => ⟨_, e, ?_⟩, fun ho hf => ⟨_, e, ?_⟩⟩
    · rwa [alnRingBaseWriteRow_closed hc] at e
    · rw [alnRingBaseWriteRow_open ho]
      refine (if_pos hf) ▸ ⟨State.alnNote_ringSet _, State.alnNote_quays _, ?_⟩
      exact (State.reg64_of_regs (State.alnNote_regs _) _).trans (s.reg64_pairPut _ v)
    · rw [alnRingBaseWriteRow_open ho]
      refine (if_neg (Bool.eq_false_iff.mp hf)) ▸ ⟨State.alnNote_ringSet _, State.alnNote_quays _, ?_⟩
      rw [State.reg_alnNote]
      exact State.getLsbD_reg_event _ _ (by decide)
  · have e := answers_alnEnWrite hR
    rw [alnEnWriteRow_refused h0 h1 hr] at e
    refine ⟨_, e, ?_, ?_⟩
    · rw [State.reg_alnNote, State.reg_event, if_neg (by decide), State.reg_setFld, if_pos rfl]
      exact putBits_bit_zero _ (by decide)
    · rw [State.reg_alnNote]
      exact State.getLsbD_reg_event _ _ (by decide)
  · exact alnEnWriteRow_taken h h1 ▸ answers_alnEnWrite hR
  · have e := answers_alnProbe hR
    refine ⟨fun q hq => ⟨_, e, reg64_alnProbeRow, ?_⟩, fun hq => ⟨_, e, ?_⟩⟩
    · rw [alnProbeRow_eq, State.reg_setReg_self]
      exact congrArg (fun n => BitVec.ofNat 32 (2 ^ 31 + n)) (State.probeCode_held hq)
    · rw [alnProbeRow_eq, State.reg_setReg_self]
      exact congrArg (fun n => BitVec.ofNat 32 (2 ^ 31 + n)) (State.probeCode_none hq)

end Sys2Proof.Machine
end

section
/-! SUPPORT. What alignment does with a block: the engine of its berth, its place among the quays and the quay it meets (R155, R160,
R172, R182). -/

namespace Sys2Proof.Machine

variable {s : State} {d : DataBlock} {q : Quay}

/-! ### The engine of a berth (R182) -/

theorem State.alnEngineOf_eq (s : State) (b : Nat) :
    s.alnEngineOf b = if s.alnEngines = [] then none else s.alnEngines[b % s.alnEngines.length]? := by
  unfold State.alnEngineOf
  cases s.alnEngines with
  | nil => rfl
  | cons e es =>
    rw [if_neg (List.cons_ne_nil e es)]
    dsimp only
    rw [nth, List.getElem?_eq_getElem (Nat.mod_lt b (List.length_pos_of_ne_nil (List.cons_ne_nil e es))), Option.getD_some]

/-! ### The queue (R155) -/

theorem alnBlockWriteRow_empty (h : s.aln.input = []) : alnBlockWriteRow s = s := by
  simp only [alnBlockWriteRow, h]

section head

variable {rest : List DataBlock} (h : s.aln.input = d :: rest)
include h

theorem alnBlockWriteRow_noEngine (he : s.alnEngineOf d.berth = none) : alnBlockWriteRow s = s := by
  simp only [alnBlockWriteRow, h, he, Option.isSome_none, Bool.false_eq_true, if_false]

theorem alnBlockWriteRow_taken (he : (s.alnEngineOf d.berth).isSome) :
    alnBlockWriteRow s = (s.modAln fun a => { a with input := rest }).blockPlace d := by
  simp only [alnBlockWriteRow, h, he, if_true]

end head

theorem answers_alnBlockWrite {u : State} (h : alnBlockWriteRow s = u) : Answers .alnBlockWrite s u :=
  congrArg (fun t => Host.Outcome.next (State.after s t)) h

/-! ### The place of a block (R155) -/

/-- The instant a block is for. -/
abbrev DataBlock.target (d : DataBlock) : Nat := instantAt d.rate d.sec d.k

/-- Whether a block is too far ahead of the reference at its hand-off. -/
abbrev State.blockAhead (s : State) (d : DataBlock) : Bool := s.tooFarAhead d.target d.rate d.handedAt

/-- A block that is too far ahead, counted and reported. -/
abbrev State.aheadDrop (s : State) : State := (s.count (Reg.ALN_CNT_LO 4)).event Reg.ALN_EVT 6

section noQuay

variable (h : s.quayAt d.target = none)
include h

theorem State.blockPlace_notReady (hr : s.alnReady = false) : s.blockPlace d = s.count (Reg.ALN_CNT_LO 5) := by
  simp only [State.blockPlace, h, hr, Bool.not_false, if_true]

theorem State.blockPlace_ahead (hr : s.alnReady = true) (ha : s.blockAhead d = true) : s.blockPlace d = s.aheadDrop := by
  simp only [State.blockPlace, h, hr, ha, Bool.not_true, Bool.false_eq_true, if_false, if_true]

theorem State.blockPlace_passed (hr : s.alnReady = true) (ha : s.blockAhead d = false)
    (hp : s.newerThanAll d.target = false ∨ s.eventPast d.target = true ∨ s.rateAhead d.sec ≠ d.rate) :
    s.blockPlace d = s.lateReject d.berth := by
  simp only [State.blockPlace, h, hr, ha, Bool.not_true, Bool.false_eq_true, if_false]
  refine if_pos ?_
  rcases hp with hp | hp | hp
  · exact .inl (by rw [hp]; rfl)
  · exact .inr (.inl hp)
  · exact .inr (.inr hp)

end noQuay

section quay

variable (h : s.quayAt d.target = some q)
include h

theorem State.blockPlace_quay_ahead (ha : s.blockAhead d = true) : s.blockPlace d = s.aheadDrop := by
  simp only [State.blockPlace, h, ha, if_true]

theorem State.blockPlace_quay (ha : s.blockAhead d = false) : s.blockPlace d = s.blockMeet q d := by
  simp only [State.blockPlace, h, ha, Bool.false_eq_true, if_false]

end quay

/-! ### A block and the quay of its instant (R160, R172) -/

/-- Whether the entry that stands makes a block a duplicate: a fresh value, or one off the grid that was measured earlier than the block's. -/
def State.duplicates (s : State) (q : Quay) (d : DataBlock) : Bool :=
  match q.entry d.berth with
  | some e => e.kind (s.holdReach q d.berth) == .fresh ||
      (d.entry.offgrid && e.kind (s.holdReach q d.berth) == .offgrid && decide (d.entry.measured < e.measured))
  | none => false

/-- The state in which a block has met a quay: one for a settled quay that arrived by its close instant has missed the guard (R158). -/
def State.guarded (s : State) (q : Quay) (d : DataBlock) : State :=
  if !q.isOpen && decide (d.arrival ≤ q.close) then s.guardMissNote q else s

theorem State.blockMeet_eq (s : State) (q : Quay) (d : DataBlock) : s.blockMeet q d =
    if q.state = .sealed ∨ q.sealing then s.lateReject d.berth
    else if s.duplicates q d then ((s.guarded q d).berthCnt d.berth 3).modQuay q.seq fun x => { x with duplicate := x.duplicate + 1 }
    else if q.isOpen then ((s.guarded q d).quayWrite q.seq d.berth d.entry false).spreadHold q d.berth d.entry
    else (s.guarded q d).lateWrite q d.berth d.entry := rfl

theorem State.blockMeet_sealed (h : q.state = .sealed ∨ q.sealing = true) : s.blockMeet q d = s.lateReject d.berth := by
  rw [State.blockMeet_eq, if_pos h]

section unsealed

variable (hs : q.state ≠ .sealed) (hg : q.sealing = false)
include hs hg

theorem State.blockMeet_duplicate (hd : s.duplicates q d = true) : s.blockMeet q d =
    ((s.guarded q d).berthCnt d.berth 3).modQuay q.seq fun x => { x with duplicate := x.duplicate + 1 } := by
  rw [State.blockMeet_eq, if_neg (by simp [hs, hg]), if_pos hd]

theorem State.blockMeet_open (hd : s.duplicates q d = false) (ho : q.isOpen = true) : s.blockMeet q d =
    (s.quayWrite q.seq d.berth d.entry false).spreadHold q d.berth d.entry := by
  have hguard : s.guarded q d = s := if_neg (by simp [ho])
  rw [State.blockMeet_eq, if_neg (by simp [hs, hg]), if_neg (by simp [hd]), if_pos ho, hguard]

theorem State.blockMeet_late (hd : s.duplicates q d = false) (ho : q.isOpen = false) : s.blockMeet q d =
    (s.guarded q d).lateWrite q d.berth d.entry := by
  rw [State.blockMeet_eq, if_neg (by simp [hs, hg]), if_neg (by simp [hd]), if_neg (by simp [ho])]

end unsealed

/-- Settles O35: the branches of R155 for a block without a quay of its instant, and those of R160 and R172 for one that meets a quay. -/
theorem blocksMeetQuays : Obligations.BlocksMeetQuays := by
  unfold Obligations.BlocksMeetQuays
  intro s
  refine ⟨fun h => answers_alnBlockWrite (alnBlockWriteRow_empty h), s.alnEngineOf_eq,
    fun d rest h he => answers_alnBlockWrite (alnBlockWriteRow_noEngine h he), ?_⟩
  intro d rest h he s1 t ahead
  have place {u : State} (hu : s1.blockPlace d = u) : Answers .alnBlockWrite s u :=
    answers_alnBlockWrite ((alnBlockWriteRow_taken h he).trans hu)
  refine ⟨fun hq hr => place (State.blockPlace_notReady hq hr), fun hq hr ha => place (State.blockPlace_ahead hq hr ha),
    fun hq hr ha hp => place (State.blockPlace_passed hq hr ha hp), fun q hq ha => place (State.blockPlace_quay_ahead hq ha),
    ?_⟩
  intro q hq ha dup s2
  have meet {u : State} (hu : s1.blockMeet q d = u) : Answers .alnBlockWrite s u := place ((State.blockPlace_quay hq ha).trans hu)
  exact ⟨fun hs => meet (State.blockMeet_sealed hs), fun hs hg => ⟨fun hd => meet (State.blockMeet_duplicate hs hg hd),
    fun hd ho => meet (State.blockMeet_open hs hg hd ho), fun hd ho => meet (State.blockMeet_late hs hg hd ho)⟩⟩

end Sys2Proof.Machine
end

section
/-! SUPPORT. Quays: how each is found again after a change of one, and which bytes of DRAM its ring copy takes (R148, R160, R174). -/

namespace Sys2Proof.Machine

variable {s t : State} {seq : Nat} {q : Quay}

/-! ### A quay by its number -/

theorem State.seq_of_quay? (h : s.quay? seq = some q) : q.seq = seq := by
  simpa using List.find?_some h

/-- Under the number of a quay that is held, one is found. -/
theorem State.exists_quay?_of_mem (h : q ∈ s.aln.quays) : ∃ x, s.quay? q.seq = some x :=
  Option.isSome_iff_exists.mp (List.find?_isSome.mpr ⟨q, h, beq_self_eq_true q.seq⟩)

theorem State.quay?_of_aln (h : t.aln = s.aln) (seq : Nat) : t.quay? seq = s.quay? seq := by
  rw [State.quay?, h, State.quay?]

/-- A quay that a change leaves its number is found again, changed. -/
theorem State.quay?_modQuay {f : Quay → Quay} (hf : ∀ x, (f x).seq = x.seq) (h : s.quay? seq = some q) :
    (s.modQuay seq f).quay? seq = some (f q) := by
  have hp : ((fun x : Quay => x.seq == seq) ∘ fun x => if x.seq = seq then f x else x) = fun x => x.seq == seq := by
    funext x
    simp only [Function.comp_apply]
    split
    · rw [hf]
    · rfl
  rw [State.quay?, State.modQuay_aln, List.find?_map, hp]
  exact (congrArg (Option.map _) h).trans (congrArg some (if_pos (State.seq_of_quay? h)))

/-- Where the stages of life are kept, a quay is found again at its stage. -/
theorem QuayKept.quay? (k : QuayKept s t) (h : s.quay? seq = some q) :
    ∃ x, t.quay? seq = some x ∧ (x.state == .settled) = (q.state == .settled) ∧ x.settleStart = q.settleStart := by
  have find (u : State) : u.life.find? (fun x => x.1 == seq) =
      (u.quay? seq).map fun x => (x.seq, x.isOpen, x.state == .settled, x.settleStart) := List.find?_map
  have e := find t
  rw [k.life, find s, h] at e
  obtain ⟨x, hx, he⟩ := Option.map_eq_some_iff.mp e.symm
  simp only [Prod.mk.injEq] at he
  exact ⟨x, hx, he.2.2⟩

/-! ### The ring copy of a quay (R174, R177) -/

theorem risingCells_lt {len : Nat} {cells : List (Nat × Byte)} {at_ : Nat} : ∀ c ∈ risingCells len cells at_, c.1 < len := by
  induction cells generalizing at_ with
  | nil => exact fun c hc => absurd hc List.not_mem_nil
  | cons x cells ih =>
    rw [risingCells]
    split
    next h => exact List.forall_mem_cons.mpr ⟨h.2.1, ih⟩
    next => exact ih

/-- A lookup that a filter by keys lets through. -/
theorem find?_filter_key {α : Type} {p : Nat → Bool} {a : Nat} (h : p a = true) (m : List (Nat × α)) :
    (m.filter fun c => p c.1).find? (fun c => c.1 == a) = m.find? fun c => c.1 == a := by
  rw [List.find?_filter]
  refine congrArg (fun f => m.find? f) (funext fun c => ?_)
  by_cases hc : c.1 = a
  · simp [hc, h]
  · simp [hc]

/-- A lookup that a filter by keys keeps out. -/
theorem find?_filter_key_none {α : Type} {p : Nat → Bool} {a : Nat} (h : p a = false) (m : List (Nat × α)) :
    (m.filter fun c => p c.1).find? (fun c => c.1 == a) = none := by
  refine List.find?_eq_none.mpr fun c hc he => ?_
  have hp := (List.mem_filter.mp hc).2
  rw [beq_iff_eq.mp he, h] at hp
  exact Bool.false_ne_true hp

/-- No byte outside a region that is replaced changes. -/
theorem State.dramByte_dramRegion {base len a : Nat} (cells : List (Nat × Byte)) (h : a < base ∨ base + len ≤ a) :
    (s.dramRegion base len cells).dramByte a = s.dramByte a := by
  have hcells : ((risingCells len cells 0).map fun c => (base + c.1, c.2)).find? (fun c => c.1 == a) = none := by
    refine List.find?_eq_none.mpr fun c hc he => ?_
    obtain ⟨x, hx, rfl⟩ := List.mem_map.mp hc
    have hlt := risingCells_lt x hx
    have hea : base + x.1 = a := beq_iff_eq.mp he
    omega
  have hfind : (s.dramRegion base len cells).dram.find? (fun c => c.1 == a) = s.dram.find? fun c => c.1 == a := by
    unfold State.dramRegion
    dsimp only
    rw [List.find?_append, List.find?_append, hcells, Option.or_none]
    rcases h with h | h
    · rw [find?_filter_key (p := fun k => decide (k < base)) (decide_eq_true h),
        find?_filter_key_none (p := fun k => decide (base + len ≤ k)) (decide_eq_false (by omega)), Option.or_none]
    · rw [find?_filter_key_none (p := fun k => decide (k < base)) (decide_eq_false (by omega)),
        find?_filter_key (p := fun k => decide (base + len ≤ k)) (decide_eq_true h), Option.none_or]
  rw [State.dramByte, mapGet, hfind]
  rfl

/-! ### A quay that gives up its tug and its slot (R175, R177, R178) -/

@[simp] theorem State.tugReturn_aln (s : State) (q : Quay) : (s.tugReturn q).aln = s.aln := by
  unfold State.tugReturn
  split <;> rfl

@[simp] theorem State.tugReturn_regs (s : State) (q : Quay) : (s.tugReturn q).regs = s.regs := by
  unfold State.tugReturn
  split <;> rfl

@[simp] theorem State.tugReturn_dram (s : State) (q : Quay) : (s.tugReturn q).dram = s.dram := by
  unfold State.tugReturn
  split <;> rfl

@[simp] theorem State.slotReturn_aln (s : State) (q : Quay) : (s.slotReturn q).aln = s.aln := by
  unfold State.slotReturn
  split <;> rfl

@[simp] theorem State.slotReturn_regs (s : State) (q : Quay) : (s.slotReturn q).regs = s.regs := by
  unfold State.slotReturn
  split <;> rfl

@[simp] theorem State.slotReturn_dram (s : State) (q : Quay) : (s.slotReturn q).dram = s.dram := by
  unfold State.slotReturn
  split <;> rfl

/-- A quay changed, its tug and its slot given back. -/
def State.quayFreed (s : State) (q : Quay) (f : Quay → Quay) : State := ((s.modQuay q.seq f).tugReturn q).slotReturn q

/-- The ring copy of the quay of a number written whole. -/
def State.quayStored (s : State) (seq : Nat) : State :=
  match s.quay? seq with
  | some x => s.quayStore x
  | none => s

theorem State.quayStored_of_quay? (h : s.quay? seq = some q) : s.quayStored seq = s.quayStore q := by
  simp only [State.quayStored, h]

section freed

variable {f : Quay → Quay} (hf : ∀ x, (f x).seq = x.seq) {x : Quay} (h : s.quay? q.seq = some x)
include hf h

theorem State.quay?_quayFreed : (s.quayFreed q f).quay? q.seq = some (f x) := by
  rw [State.quay?_of_aln (t := s.quayFreed q f) (s := s.modQuay q.seq f) (by simp [State.quayFreed])]
  exact State.quay?_modQuay hf h

theorem State.quayStored_quayFreed : (s.quayFreed q f).quayStored q.seq = (s.quayFreed q f).quayStore (f x) :=
  State.quayStored_of_quay? (State.quay?_quayFreed hf h)

/-- The quay is found again, changed, once its ring copy is written. -/
theorem State.quay?_freedStored : ((s.quayFreed q f).quayStored q.seq).quay? q.seq = some (f x) := by
  rw [State.quayStored_quayFreed hf h]
  exact State.quay?_quayFreed hf h

/-- The ring copy takes the ring slot of the quay and no other byte. -/
theorem State.dramByte_freedStored {a : Nat} (ha : a < s.quaySlotAt q.seq ∨ s.quaySlotAt q.seq + quayBytes ≤ a) :
    ((s.quayFreed q f).quayStored q.seq).dramByte a = s.dramByte a := by
  have hregs : (s.quayFreed q f).regs = s.regs := by simp [State.quayFreed]
  have hslot : (s.quayFreed q f).quaySlotAt (f x).seq = s.quaySlotAt q.seq := by
    rw [State.quaySlotAt, State.quaySlotAt, State.reg64_of_regs hregs, hf, State.seq_of_quay? h]
  rw [State.quayStored_quayFreed hf h, State.quayStore, State.dramByte_dramRegion _ (hslot ▸ ha)]
  simp [State.dramByte, State.quayFreed]

end freed

end Sys2Proof.Machine
end

section
/-! SUPPORT. The settlement of the quay that is due next (R153, R157, R159). -/

namespace Sys2Proof.Machine

variable {s : State} {q : Quay}

/-- A fold that at each element keeps what it has or takes the element ends with what it began with or with an element. -/
theorem mem_of_foldl_pick {α : Type} {f : Option α → α → Option α} (hf : ∀ m x, f m x = m ∨ f m x = some x) {y : α} :
    ∀ {l : List α} {m : Option α}, l.foldl f m = some y → m = some y ∨ y ∈ l
  | [], _, h => .inl h
  | x :: l, m, h => by
    rcases mem_of_foldl_pick hf (l := l) h with h | h
    · rcases hf m x with e | e
      · exact .inl (e.symm.trans h)
      · exact .inr (Option.some.inj (e.symm.trans h) ▸ List.mem_cons_self)
    · exact .inr (List.mem_cons_of_mem x h)

/-- The quay whose settlement comes next is held. -/
theorem State.mem_of_settleNext (h : s.settleNext = some q) : q ∈ s.aln.quays := by
  unfold State.settleNext at h
  extract_lets held at h
  have hmem : q ∈ held := by
    rcases Option.or_eq_some_iff.mp h with h | ⟨-, h⟩
    · exact List.mem_of_find?_eq_some h
    · refine (mem_of_foldl_pick (fun m x => ?_) h).resolve_left (Option.some_ne_none q ∘ Eq.symm)
      cases m with
      | none => exact .inr rfl
      | some m =>
        dsimp only
        split
        · exact .inr rfl
        · exact .inl rfl
  exact List.mem_of_mem_filter hmem

@[simp] theorem State.advance_aln (s : State) (n : Nat) : (s.advance n).aln = s.aln := by
  unfold State.advance
  split <;> rfl

theorem State.withdrawIdle_quaykept (s : State) (q : Quay) : QuayKept s (s.withdrawIdle q) := by
  unfold State.withdrawIdle
  refine QuayKept.foldl (fun x d hx => ?_) _ (.refl s)
  exact hx.ite (State.withdraw_quaykept hx q.seq d)

/-- A quay whose settlement begins at a time. -/
def Quay.settled (t : Nat) (x : Quay) : Quay := { x with state := .settled, settling := true, settleStart := t }

/-- Once the quay is settled, its settlement leaves every quay's stage as it is. -/
theorem State.settleNow_quaykept (s : State) (q : Quay) :
    QuayKept ((s.withdrawIdle q).modQuay q.seq (Quay.settled s.dt)) (s.settleNow q) := by
  unfold State.settleNow
  refine QuayKept.foldl (fun x d hx => ?_) _ (State.substitute_quaykept (State.event_quaykept (.refl _) _ _) q)
  split
  · exact State.modDet_quaykept hx _ _ _
  · exact hx

theorem quaySettleRow_idle (h : s.settleNext = none) : quaySettleRow s = s := by
  simp only [quaySettleRow, h]

theorem quaySettleRow_due (h : s.settleNext = some q) : quaySettleRow s = ((s.advance q.settleAt).settleNow q).detSettle q.seq := by
  simp only [quaySettleRow, h, State.settleBegin]

/-- A quay that is held stays settled from DT on through what follows its settlement. -/
theorem State.quay?_after_settleNow {s1 : State} {x : Quay} (h : s1.quay? q.seq = some x) (s : State) :
    ∃ y, (State.after s ((s1.settleNow q).detSettle q.seq)).quay? q.seq = some y ∧ y.state = .settled ∧ y.settleStart = s1.dt := by
  obtain ⟨z, hz, -⟩ := (s1.withdrawIdle_quaykept q).quay? h
  have hset := State.quay?_modQuay (f := Quay.settled s1.dt) (fun _ => rfl) hz
  have kept := State.after_quaykept (State.detSettle_quaykept (s1.settleNow_quaykept q) q.seq) s
  obtain ⟨y, hy, hst, hstart⟩ := kept.quay? hset
  have hsettled : ((z.settled s1.dt).state == .settled) = true := rfl
  exact ⟨y, hy, beq_iff_eq.mp (hst.trans hsettled), hstart⟩

/-- The quay due next is settled from the later of DT and its own moment on, and the steps after the command leave it so. -/
theorem quay?_after_quaySettleRow (h : s.settleNext = some q) : ∃ y, (State.after s (quaySettleRow s)).quay? q.seq = some y ∧
    y.state = .settled ∧ y.settleStart = max s.dt q.settleAt := by
  obtain ⟨x, hx⟩ := State.exists_quay?_of_mem (State.mem_of_settleNext h)
  have hadv := (State.quay?_of_aln (s.advance_aln q.settleAt) q.seq).trans hx
  obtain ⟨y, hy, hst, hstart⟩ := State.quay?_after_settleNow hadv s
  rw [quaySettleRow_due h]
  exact ⟨y, hy, hst, hstart.trans (s.advance_dt q.settleAt)⟩

end Sys2Proof.Machine
end

section
/-! SUPPORT. Spills and seals: the copy of a spill ends, a seal ends, a tug transfer fails, and a seal's instant comes without a grid
(R174 to R180). -/

namespace Sys2Proof.Machine

variable {s : State} {q : Quay}

/-! ### Spills (R177) -/

/-- A quay that has left SRAM. -/
def Quay.asSpilled (x : Quay) : Quay := { x with spilled := true, spilling := false, copy := none, slot := none }

theorem State.spillDone_eq (s : State) (q : Quay) : s.spillDone q = (s.quayFreed q Quay.asSpilled).quayStored q.seq := rfl

section spilled

variable {x : Quay} (h : s.quay? q.seq = some x)
include h

theorem State.quay?_spillDone : (s.spillDone q).quay? q.seq = some x.asSpilled := by
  rw [State.spillDone_eq]
  exact State.quay?_freedStored (f := Quay.asSpilled) (fun _ => rfl) h

theorem State.dramByte_spillDone {a : Nat} (ha : a < s.quaySlotAt q.seq ∨ s.quaySlotAt q.seq + quayBytes ≤ a) :
    (s.spillDone q).dramByte a = s.dramByte a := by
  rw [State.spillDone_eq]
  exact State.dramByte_freedStored (f := Quay.asSpilled) (fun _ => rfl) h ha

end spilled

/-- The oldest quay whose spill copy runs. -/
abbrev State.spillHead (s : State) : Option Quay := s.aln.quays.find? fun q => q.spilling && q.copy.isSome

theorem quaySpillDoneRow_idle (h : s.spillHead = none) : quaySpillDoneRow s = s := by
  simp only [quaySpillDoneRow, h]

theorem quaySpillDoneRow_done (h : s.spillHead = some q) : quaySpillDoneRow s = s.spillDone q := by
  simp only [quaySpillDoneRow, h]

/-! ### Seals (R178) -/

/-- A quay sealed at a time, with the CRC of its layout. -/
def Quay.asSealed (t : Nat) (crc : Word) (x : Quay) : Quay :=
  { x with state := .sealed, sealing := false, copy := none, slot := none, sealedAt := t, sealCrc := crc, sealErr := x.failed }

/-- The state with the ring copy of a sealed quay written, before the seal is told of. -/
def State.sealStored (s : State) (q : Quay) : State := (s.quayFreed q (Quay.asSealed s.dt (s.sealCrcOf q))).quayStored q.seq

theorem State.sealDone_eq (s : State) (q : Quay) : s.sealDone q =
    ((((s.sealStored q).setReg64 Reg.ALN_SEALED_SEQ_LO q.seq).count (Reg.ALN_CNT_LO 1)).event Reg.ALN_EVT 2).dirRetire := rfl

@[simp] theorem State.dirRetire_regs (s : State) : s.dirRetire.regs = s.regs := by
  unfold State.dirRetire
  split
  · split <;> rfl
  · rfl

@[simp] theorem State.dirRetire_aln (s : State) : s.dirRetire.aln = s.aln := by
  unfold State.dirRetire
  split
  · split <;> rfl
  · rfl

@[simp] theorem State.dirRetire_dram (s : State) : s.dirRetire.dram = s.dram := by
  unfold State.dirRetire
  split
  · split <;> rfl
  · rfl

section sealed

variable {x : Quay} (h : s.quay? q.seq = some x)
include h

theorem State.quay?_sealDone : (s.sealDone q).quay? q.seq = some (x.asSealed s.dt (s.sealCrcOf q)) := by
  have haln : (s.sealDone q).aln = (s.sealStored q).aln := by
    rw [State.sealDone_eq, State.dirRetire_aln, State.event_aln, State.count_aln, State.setReg64_aln]
  rw [State.quay?_of_aln haln]
  exact State.quay?_freedStored (f := Quay.asSealed s.dt (s.sealCrcOf q)) (fun _ => rfl) h

theorem State.dramByte_sealDone {a : Nat} (ha : a < s.quaySlotAt q.seq ∨ s.quaySlotAt q.seq + quayBytes ≤ a) :
    (s.sealDone q).dramByte a = s.dramByte a := by
  have hdram : (s.sealDone q).dram = (s.sealStored q).dram := by
    rw [State.sealDone_eq, State.dirRetire_dram, State.event_dram, State.count_dram, State.setReg64_dram]
  rw [State.dramByte, hdram]
  exact State.dramByte_freedStored (f := Quay.asSealed s.dt (s.sealCrcOf q)) (fun _ => rfl) h ha

end sealed

theorem State.sealedSeq_sealDone (hq : q.seq < 2 ^ 64) : (s.sealDone q).reg64 Reg.ALN_SEALED_SEQ_LO = q.seq := by
  have hcount (u : State) : (u.count (Reg.ALN_CNT_LO 1)).reg64 Reg.ALN_SEALED_SEQ_LO = u.reg64 Reg.ALN_SEALED_SEQ_LO := by
    rw [State.reg64, State.reg_count_ne _ (by decide) (by decide), State.reg_count_ne _ (by decide) (by decide), State.reg64]
  rw [State.sealDone_eq, State.reg64_of_regs (State.dirRetire_regs _), State.event, State.reg64_setReg_ne _ (by decide) (by decide), hcount,
    State.reg64_setReg64 _ _ _ hq]

theorem State.sealedEvent_sealDone (s : State) (q : Quay) : ((s.sealDone q).reg Reg.ALN_EVT).getLsbD 2 = true := by
  rw [State.sealDone_eq, State.reg, State.dirRetire_regs]
  exact State.getLsbD_reg_event _ _ (by decide)

/-- The head of the list is sealed if its copy has failed twice, and then the rest; any other head ends the round. -/
theorem State.sealFailed_cons (u : State) (q : Quay) (qs : List Quay) :
    u.sealFailed (q :: qs) = if q.sealing = true ∧ q.failed = true then (u.sealDone q).sealFailed qs else u := rfl

theorem State.sealFailed_none (u : State) {qs : List Quay} (h : ∀ x, qs.head? = some x → x.sealing = false ∨ x.failed = false) :
    u.sealFailed qs = u := by
  cases qs with
  | nil => rfl
  | cons x qs =>
    rw [State.sealFailed_cons]
    refine if_neg fun ⟨hs, hf⟩ => ?_
    rcases h x rfl with e | e
    · exact Bool.false_ne_true (e.symm.trans hs)
    · exact Bool.false_ne_true (e.symm.trans hf)

theorem quaySealDoneRow_idle (h : s.unsealed.head? = none) : quaySealDoneRow s = s := by
  simp only [quaySealDoneRow, List.head?_eq_none_iff.mp h]

section head

variable (h : s.unsealed.head? = some q)
include h

theorem quaySealDoneRow_head : quaySealDoneRow s =
    if q.sealing ∧ !q.spilling ∧ (q.copy.isSome ∨ q.slot.isNone ∨ q.failed) then (s.sealDone q).sealFailed (s.unsealed.drop 1) else s := by
  obtain ⟨qs, hqs⟩ := List.head?_eq_some_iff.mp h
  simp only [quaySealDoneRow, hqs, List.drop_succ_cons, List.drop_zero]

theorem State.mem_of_unsealed_head : q ∈ s.aln.quays := List.mem_of_mem_filter (List.mem_of_mem_head? h)

theorem quaySealDoneRow_waits (hw : q.sealing = false ∨ q.spilling = true ∨ (q.copy = none ∧ q.slot ≠ none ∧ q.failed = false)) :
    quaySealDoneRow s = s := by
  rw [quaySealDoneRow_head h]
  refine if_neg fun ⟨hs, hp, hc⟩ => ?_
  rcases hw with hw | hw | ⟨hcopy, hslot, hf⟩
  · exact Bool.false_ne_true (hw.symm.trans hs)
  · simp [hw] at hp
  · simp [hcopy, hf, hslot] at hc

theorem quaySealDoneRow_seals (hs : q.sealing = true) (hp : q.spilling = false) (hc : q.copy ≠ none ∨ q.slot = none ∨ q.failed = true) :
    quaySealDoneRow s = (s.sealDone q).sealFailed (s.unsealed.drop 1) := by
  rw [quaySealDoneRow_head h]
  refine if_pos ⟨hs, by rw [hp]; rfl, ?_⟩
  exact hc.imp Option.isSome_iff_ne_none.mpr (Or.imp_left Option.isNone_iff_eq_none.mpr)

end head

/-! ### Transfer errors (R180) -/

/-- A transfer error counted and reported, also as a fault of the unit. -/
def State.tugError (s : State) : State := ((s.count (Reg.ALN_CNT_LO 8)).event Reg.ALN_EVT 7).unitFault 4

theorem tugTransferErrorRow_unheld {seq : Nat} (h : s.quay? seq = none) : tugTransferErrorRow seq s = s := by
  simp only [tugTransferErrorRow, h]

section error

variable {seq : Nat} (h : s.quay? seq = some q)
include h

theorem tugTransferErrorRow_noCopy (hc : q.copy = none) : tugTransferErrorRow seq s = s := by
  simp only [tugTransferErrorRow, h, hc, Option.isNone_none, if_true]

variable {tug : Nat} (hc : q.copy = some tug)
include hc

theorem tugTransferErrorRow_again (hr : q.retried = false) :
    tugTransferErrorRow seq s = s.tugError.modQuay seq fun x => { x with retried := true } := by
  simp only [tugTransferErrorRow, h, hc, hr, Option.isNone_some, Bool.false_eq_true, if_false]
  rfl

theorem tugTransferErrorRow_givenUp (hr : q.retried = true) {t : State}
    (ht : (s.tugError.modQuay seq fun x => { x with failed := true, spilling := false, copy := none }).leaseReturn 2 tug = t) :
    tugTransferErrorRow seq s = t.sealFailed t.unsealed := by
  subst ht
  simp only [tugTransferErrorRow, h, hc, hr, Option.isNone_some, Bool.false_eq_true, if_false, if_true, State.tugReturn]
  rfl

end error

/-! ### A seal's instant without a grid (R178) -/

/-- The first quay whose settlement is done and whose seal has not begun. -/
abbrev State.sealHead (s : State) : Option Quay := s.aln.quays.find? fun q => q.settleDone && q.state == .settled && !q.sealing

theorem sealInstantWithoutGridRow_grid (h : s.tb.grid.rate ≠ 0) : sealInstantWithoutGridRow s = s := if_pos h

theorem sealInstantWithoutGridRow_due (hr : s.tb.grid.rate = 0) (h : s.sealHead = some q) :
    sealInstantWithoutGridRow s = (s.advance (max q.sealMoment q.doneAt)).sealNow q.seq := by
  simp only [sealInstantWithoutGridRow, hr, h, ne_eq, not_true_eq_false, if_false]

@[simp] theorem State.sealNow_dt (s : State) (seq : Nat) : (s.sealNow seq).dt = s.dt := rfl

/-- A quay whose seal instant has come is found again as sealing. -/
theorem State.quay?_sealNow {x : Quay} {seq : Nat} (h : s.quay? seq = some x) :
    (s.sealNow seq).quay? seq = some { x with sealing := true, spilling := x.spilling && x.copy.isSome } :=
  State.quay?_modQuay (f := fun x => { x with sealing := true, spilling := x.spilling && x.copy.isSome }) (fun _ => rfl) h

/-- Settles O36: the branches of each of the five commands. -/
theorem quaysSettleSpillAndSeal : Obligations.QuaysSettleSpillAndSeal := by
  unfold Obligations.QuaysSettleSpillAndSeal
  intro s
  have settle {u : State} (h : quaySettleRow s = u) : Answers .quaySettle s u := h ▸ rfl
  have spill {u : State} (h : quaySpillDoneRow s = u) : Answers .quaySpillDone s u := h ▸ rfl
  have sealed {u : State} (h : quaySealDoneRow s = u) : Answers .quaySealDone s u := h ▸ rfl
  have error {seq : Nat} {u : State} (h : tugTransferErrorRow seq s = u) : Answers (.tugTransferError seq) s u := h ▸ rfl
  have noGrid {u : State} (h : sealInstantWithoutGridRow s = u) : Answers .sealInstantWithoutGrid s u := h ▸ rfl
  refine ⟨fun h => settle (quaySettleRow_idle h), fun q h => ?_, fun h => spill (quaySpillDoneRow_idle h), fun q h => ?_,
    fun h => sealed (quaySealDoneRow_idle h), fun q h => ⟨fun hw => sealed (quaySealDoneRow_waits h hw), ?_⟩,
    fun q qs u => u.sealFailed_cons q qs, fun seq h => error (tugTransferErrorRow_unheld h), ?_,
    fun h => noGrid (sealInstantWithoutGridRow_grid h), fun q hr h => ?_⟩
  · obtain ⟨x, hx, hst, hstart⟩ := quay?_after_quaySettleRow h
    rw [Quay.settleAt] at hstart
    exact ⟨_, x, settle rfl, hx, hst, hstart⟩
  · obtain ⟨x, hx⟩ := State.exists_quay?_of_mem (List.mem_of_find?_eq_some h)
    exact ⟨_, x.asSpilled, spill (quaySpillDoneRow_done h), State.quay?_spillDone hx, rfl, rfl, rfl,
      fun a ha => State.dramByte_spillDone hx ha⟩
  · intro hs hp hc hseq u
    obtain ⟨x, hx⟩ := State.exists_quay?_of_mem (State.mem_of_unsealed_head h)
    exact ⟨sealed (quaySealDoneRow_seals h hs hp hc), u.sealFailed_none, ⟨_, State.quay?_sealDone hx, rfl, rfl, rfl⟩,
      State.sealedSeq_sealDone hseq, s.sealedEvent_sealDone q, fun a ha => State.dramByte_sealDone hx ha⟩
  · intro seq q h s1
    exact ⟨fun hc => error (tugTransferErrorRow_noCopy h hc), fun tug hc => ⟨fun hr => error (tugTransferErrorRow_again h hc hr),
      fun hr => error (tugTransferErrorRow_givenUp h hc hr rfl)⟩⟩
  · obtain ⟨x, hx⟩ := State.exists_quay?_of_mem (List.mem_of_find?_eq_some h)
    refine ⟨_, _, noGrid (sealInstantWithoutGridRow_due hr h),
      State.quay?_sealNow ((State.quay?_of_aln (s.advance_aln _) _).trans hx), rfl, ?_, ?_⟩
    · rw [State.sealNow_dt, State.advance_dt]
      exact le_max_left _ _
    · rw [State.sealNow_dt, State.advance_dt]
      exact (le_max_left _ _).trans (le_max_right _ _)

end Sys2Proof.Machine
end

section
/-! SUPPORT. The oscillation unit's state: what a group reads after a change of one, and which parts of the unit each of its
operations leaves as they are (R195 to R225). -/

namespace Sys2Proof.Machine

variable {s t : State} {g seq : Nat}

/-! ### A group by its number -/

/-- A key of a map without default reads as it was set last. -/
theorem mapFind_mapSet {α : Type} (m : List (Nat × α)) (k k' : Nat) (v : α) :
    mapFind (mapSet m k v) k' = if k = k' then some v else mapFind m k' := by
  have hk : ∀ p ∈ m.filter (fun p => p.1 != k), p.1 ≠ k := fun p hp => by simpa using (List.mem_filter.mp hp).2
  unfold mapFind mapSet
  rw [find_mapIns hk]
  split
  next => rfl
  next h => rw [find_filter_ne m h]

theorem State.oscGroup_of_groups (h : t.osc.groups = s.osc.groups) (k : Nat) : t.oscGroup k = s.oscGroup k := by
  rw [State.oscGroup, h, State.oscGroup]

theorem State.oscGroup_of_mapSet {x : OscGroup} (h : t.osc.groups = mapSet s.osc.groups g x) (k : Nat) :
    t.oscGroup k = if g = k then x else s.oscGroup k := by
  rw [State.oscGroup, h, mapFind_mapSet]
  split <;> rfl

/-- What a group has committed: its state but for the counter of its DEC_IDs and the engine that ran it last. -/
abbrev OscGroup.core (x : OscGroup) : OscGroup := { x with decCounter := 0, me := 0 }

/-! ### What the groups have committed, what is held and what is due -/

/-- What the groups have committed, the provisional evaluations held, and the settlements, folds and extractions due are unchanged. -/
structure OscKept (s t : State) : Prop where
  core : ∀ k, (t.oscGroup k).core = (s.oscGroup k).core
  prov : t.osc.prov = s.osc.prov
  settleDue : t.osc.settleDue = s.osc.settleDue
  foldDue : t.osc.foldDue = s.osc.foldDue
  extractDue : t.osc.extractDue = s.osc.extractDue

theorem OscKept.of_osc (h : t.osc = s.osc) : OscKept s t :=
  ⟨fun k => congrArg OscGroup.core (State.oscGroup_of_groups (congrArg Osc.groups h) k), by rw [h], by rw [h], by rw [h], by rw [h]⟩

theorem OscKept.trans {r : State} (h : OscKept r s) (k : OscKept s t) : OscKept r t :=
  ⟨fun n => (k.core n).trans (h.core n), k.prov.trans h.prov, k.settleDue.trans h.settleDue, k.foldDue.trans h.foldDue,
    k.extractDue.trans h.extractDue⟩

theorem OscKept.refl (s : State) : OscKept s s := .of_osc rfl

theorem OscKept.ite {r a b : State} {c : Prop} [Decidable c] (ha : OscKept r a) (hb : OscKept r b) : OscKept r (if c then a else b) := by
  split <;> assumption

theorem OscKept.event {r : State} (h : OscKept r s) (o i : Nat) : OscKept r (s.event o i) :=
  h.trans (.of_osc (s.event_osc o i))

theorem OscKept.countBy {r : State} (h : OscKept r s) (lo n : Nat) : OscKept r (s.countBy lo n) :=
  h.trans (.of_osc (s.countBy_osc lo n))

theorem OscKept.count {r : State} (h : OscKept r s) (lo : Nat) : OscKept r (s.count lo) :=
  h.trans (.of_osc (s.count_osc lo))

/-! ### The work of a task (R214) -/

theorem State.oscRan_osc (s : State) (g : Nat) (t : Nat × Task) : ∃ gs, (s.oscRan g t).osc = { s.osc with groups := gs } := by
  unfold State.oscRan
  split
  · exact ⟨_, rfl⟩
  · exact ⟨s.osc.groups, rfl⟩

@[simp] theorem State.oscRan_aln (s : State) (g : Nat) (t : Nat × Task) : (s.oscRan g t).aln = s.aln := by
  unfold State.oscRan
  split <;> rfl

@[simp] theorem State.oscRan_cfg (s : State) (g : Nat) (t : Nat × Task) : (s.oscRan g t).cfg = s.cfg := by
  unfold State.oscRan
  split <;> rfl

@[simp] theorem State.oscRan_tb (s : State) (g : Nat) (t : Nat × Task) : (s.oscRan g t).tb = s.tb := by
  unfold State.oscRan
  split <;> rfl

/-- A task that has worked changes of any group at most the engine that ran it last. -/
theorem State.oscGroup_oscRan (s : State) (g : Nat) (t : Nat × Task) (k : Nat) :
    ∃ m, (s.oscRan g t).oscGroup k = { s.oscGroup k with me := m } := by
  unfold State.oscRan
  split
  next e _ =>
    rw [State.oscGroup_of_mapSet (s := s) (g := g) (x := { s.oscGroup g with me := e }) rfl]
    split
    next h => exact ⟨e, by rw [h]⟩
    next => exact ⟨(s.oscGroup k).me, rfl⟩
  next => exact ⟨(s.oscGroup k).me, rfl⟩

theorem State.oscRan_oscKept (s : State) (g : Nat) (t : Nat × Task) : OscKept s (s.oscRan g t) := by
  obtain ⟨gs, h⟩ := s.oscRan_osc g t
  refine ⟨fun k => ?_, by rw [h], by rw [h], by rw [h], by rw [h]⟩
  obtain ⟨m, hm⟩ := s.oscGroup_oscRan g t k
  rw [hm]

/-! ### DEC_IDs (R209) -/

/-- The counter of a group's DEC_IDs advanced by one. -/
def State.oscCounted (s : State) (g : Nat) : State :=
  s.modOsc fun o => { o with groups := mapSet o.groups g { s.oscGroup g with decCounter := ((s.oscGroup g).decCounter + 1) % 2 ^ 24 } }

theorem State.oscNumber_cons (s : State) (g : Nat) (d : OscDec) (ds : List OscDec) : s.oscNumber g (d :: ds) =
    (((s.oscCounted g).oscNumber g ds).1,
      { d with decId := g * 2 ^ 24 + (s.oscGroup g).decCounter } :: ((s.oscCounted g).oscNumber g ds).2) := rfl

theorem State.oscGroup_oscCounted (s : State) (g k : Nat) : (s.oscCounted g).oscGroup k =
    if g = k then { s.oscGroup g with decCounter := ((s.oscGroup g).decCounter + 1) % 2 ^ 24 } else s.oscGroup k :=
  State.oscGroup_of_mapSet rfl k

theorem State.oscCounted_oscKept (s : State) (g : Nat) : OscKept s (s.oscCounted g) := by
  refine ⟨fun k => ?_, rfl, rfl, rfl, rfl⟩
  rw [State.oscGroup_oscCounted]
  split
  next h => rw [h]
  next => rfl

theorem State.oscNumber_oscKept (s : State) (g : Nat) (l : List OscDec) : OscKept s (s.oscNumber g l).1 := by
  induction l generalizing s with
  | nil => exact .refl s
  | cons d ds ih => exact (s.oscCounted_oscKept g).trans (ih (s.oscCounted g))

/-- Decisions issued together take the numbers from the group's counter on, wrapped at 2²⁴. -/
theorem State.decIds_oscNumber (s : State) (g : Nat) (l : List OscDec) (h : (s.oscGroup g).decCounter < 2 ^ 24) :
    (s.oscNumber g l).2.map OscDec.decId =
      (List.range l.length).map fun i => g * 2 ^ 24 + ((s.oscGroup g).decCounter + i) % 2 ^ 24 := by
  induction l generalizing s with
  | nil => rfl
  | cons d ds ih =>
    have hc : ((s.oscCounted g).oscGroup g).decCounter = ((s.oscGroup g).decCounter + 1) % 2 ^ 24 := by
      rw [State.oscGroup_oscCounted, if_pos rfl]
    have hi := ih (s.oscCounted g) (by rw [hc]; exact Nat.mod_lt _ (by decide))
    rw [State.oscNumber_cons, List.map_cons, hi, hc, List.length_cons, List.range_succ_eq_map, List.map_cons, List.map_map]
    refine List.cons_eq_cons.mpr ⟨?_, List.map_congr_left fun i _ => ?_⟩
    · rw [Nat.add_zero, Nat.mod_eq_of_lt h]
    · rw [Function.comp_apply, Nat.mod_add_mod, Nat.add_assoc, Nat.add_comm 1 i]

/-! ### Decisions sent, records and deliveries (R209, R221) -/

@[simp] theorem State.oscSendAll_osc (s : State) (op : AlmOp) (g seq : Nat) (l : List OscDec) : (s.oscSendAll op g seq l).osc = s.osc :=
  (State.oscSendAll_detkept (.refl s) op g seq l).osc

@[simp] theorem State.oscNotice_osc (s : State) (g seq o : Nat) : (s.oscNotice g seq o).osc = s.osc := rfl

@[simp] theorem State.ringLines_osc (s : State) (base log wr : Nat) (b : List Byte) : (s.ringLines base log wr b).osc = s.osc :=
  (State.ringLines_detkept (.refl s) base log wr b).osc

@[simp] theorem State.dropDelivery_osc (s : State) (n : Nat) (d : Delivery) : (s.dropDelivery n d).osc = s.osc := by
  unfold State.dropDelivery
  split <;> simp

theorem State.leaseNow_osc {pool n owner : Nat} (h : s.leaseNow pool n owner = some t) : t.osc = s.osc := by
  unfold State.leaseNow at h
  split at h
  next =>
    split at h
    · exact (Option.some.inj h) ▸ rfl
    · cases h
  next => cases h

@[simp] theorem State.tugDeliver_osc (s : State) (owner : Nat) (d : Delivery) : (s.tugDeliver owner d).osc = s.osc := by
  unfold State.tugDeliver
  split
  next h => rw [State.deliver_osc, State.leaseNow_osc h]
  next => exact s.dropDelivery_osc _ d

/-- A record changes of the unit only which records its ring holds. -/
theorem State.oscRecordWrite_osc (s : State) (q : Quay) (e : OscEval) (settled : Bool) (o : Nat) (decs : List OscDec) :
    ∃ r, (s.oscRecordWrite q e settled o decs).osc = { s.osc with records := r } := by
  unfold State.oscRecordWrite
  split
  next => exact ⟨s.osc.records, rfl⟩
  next =>
    extract_lets s0 b wr log n
    have h0 : s0.osc = s.osc := by
      unfold s0
      split <;> rfl
    split
    next keep gone _ =>
      extract_lets s1 s2
      have h1 : s1.osc = { s.osc with records := keep ++ [(wr, n)] } := by simp [s1, h0]
      have h2 : s2.osc = s1.osc := by
        unfold s2
        split <;> rfl
      refine ⟨keep ++ [(wr, n)], ?_⟩
      split
      next => rw [State.tugDeliver_osc, h2, h1]
      next => rw [h2, h1]

theorem OscKept.oscSendAll {r : State} (h : OscKept r s) (op : AlmOp) (g seq : Nat) (l : List OscDec) :
    OscKept r (s.oscSendAll op g seq l) :=
  h.trans (.of_osc (s.oscSendAll_osc op g seq l))

theorem OscKept.oscNotice {r : State} (h : OscKept r s) (g seq o : Nat) : OscKept r (s.oscNotice g seq o) :=
  h.trans (.of_osc (s.oscNotice_osc g seq o))

theorem OscKept.oscRecordWrite {r : State} (h : OscKept r s) (q : Quay) (e : OscEval) (settled : Bool) (o : Nat) (decs : List OscDec) :
    OscKept r (s.oscRecordWrite q e settled o decs) := by
  obtain ⟨l, hl⟩ := s.oscRecordWrite_osc q e settled o decs
  have hg : (s.oscRecordWrite q e settled o decs).osc.groups = s.osc.groups := by rw [hl]
  exact h.trans ⟨fun k => congrArg OscGroup.core (State.oscGroup_of_groups hg k), by rw [hl], by rw [hl], by rw [hl], by rw [hl]⟩

end Sys2Proof.Machine
end

section
/-! SUPPORT. The settlement of a group of the oscillation unit (R197, R210, R211): when it can be made, and what it leaves of the
evaluations held and of what is due. -/

namespace Sys2Proof.Machine

variable {s : State} {g seq : Nat} {q : Quay}

/-! ### The work of a settlement (R211) -/

/-- A group's provisional evaluation of a quay, its base and what its settlement task has read are dropped. -/
def State.oscUnheld (s : State) (seq g : Nat) : State :=
  (s.oscReadDrop seq g 2).modOsc fun x => { x with
    prov := x.prov.filter fun (e : OscEval) => !(e.seq == seq && e.group == g)
    bases := x.bases.filter fun (e : Nat × Nat × OscGroup) => !(e.1 == seq && e.2.1 == g) }

/-- A settlement by an outcome drops the evaluation held; nothing else that is held or due changes. -/
theorem State.oscSettle_oscKept (s : State) (q : Quay) (g o : Nat) : OscKept (s.oscUnheld q.seq g) (s.oscSettle q g o) := by
  unfold State.oscSettle
  extract_lets +onlyGivenNames prov pd s0 late
  have h0 : OscKept (s.oscUnheld q.seq g) s0 := .refl _
  have hlate {x : State} (h : OscKept (s.oscUnheld q.seq g) x) : OscKept (s.oscUnheld q.seq g) (late x) :=
    .ite ((h.count _).event _ _) h
  clear_value pd prov s0 late
  split
  next =>
    cases prov with
    | none => exact h0.oscNotice g q.seq 1
    | some e =>
      extract_lets +onlyGivenNames conf s1 s2
      have h1 : OscKept (s.oscUnheld q.seq g) s1 := (h0.oscSendAll ..).countBy ..
      have h2 : OscKept (s.oscUnheld q.seq g) s2 := .ite h1 (h1.event ..)
      exact (h2.oscNotice ..).oscRecordWrite ..
  -- The outcomes 2, 4 and 5 settle alike, by an evaluation (R211).
  iterate 3
    next =>
      extract_lets +onlyGivenNames e same gone conf fresh
      split
      next s1 news0 hn =>
        extract_lets +onlyGivenNames news s2 s3 s4 s5
        have h1 : OscKept (s.oscUnheld q.seq g) s1 := by simpa only [hn] using h0.trans (s0.oscNumber_oscKept g fresh)
        have h2 : OscKept (s.oscUnheld q.seq g) s2 := ((h1.oscSendAll ..).oscSendAll ..).oscSendAll ..
        have h3 : OscKept (s.oscUnheld q.seq g) s3 := (((h2.count _).countBy ..).countBy ..).countBy ..
        have h4 : OscKept (s.oscUnheld q.seq g) s4 := .ite h3 (h3.event ..)
        have h5 : OscKept (s.oscUnheld q.seq g) s5 := .ite h4 (h4.event ..)
        exact hlate ((h5.oscNotice ..).oscRecordWrite ..)
  next => exact h0.oscNotice g q.seq 3
  next => exact h0

theorem State.oscRetract_oscKept (s : State) (q : Quay) (g o : Nat) : OscKept (s.oscUnheld q.seq g) (s.oscRetract q g o) := by
  unfold State.oscRetract
  extract_lets +onlyGivenNames gone s1
  have h1 : OscKept (s.oscUnheld q.seq g) s1 :=
    OscKept.countBy (OscKept.oscSendAll (by exact ⟨fun _ => rfl, rfl, rfl, rfl, rfl⟩) ..) ..
  exact (OscKept.ite h1 (h1.event ..)).oscNotice g q.seq o

/-! ### A group settled on a quay (R170, R195) -/

theorem State.oscFoldsDue_osc (s : State) (q : Quay) (o : Nat) : ∃ f, (s.oscFoldsDue q o).osc = { s.osc with foldDue := f } := by
  unfold State.oscFoldsDue
  split
  · exact ⟨s.osc.foldDue, rfl⟩
  · generalize s.oscDue q = l
    induction l generalizing s with
    | nil => exact ⟨s.osc.foldDue, rfl⟩
    | cons g l ih =>
      obtain ⟨f, h⟩ := ih ((s.modOsc fun x => { x with foldDue := x.foldDue ++ [(q.seq, g)] }).wantTask
        ⟨2, 4, 37, 3, s.oscMe g, none, 0, q.seq % 2 ^ 32, g⟩)
      exact ⟨f, h⟩

/-- With a group's settlement its due item goes, and folds may fall due. -/
theorem State.oscSettled_osc (s : State) (seq g o : Nat) :
    ∃ f, (s.oscSettled seq g o).osc = { s.osc with settleDue := s.osc.settleDue.erase (seq, g), foldDue := f } := by
  unfold State.oscSettled
  extract_lets +onlyGivenNames s1
  split
  · exact ⟨s.osc.foldDue, rfl⟩
  · extract_lets +onlyGivenNames s2
    have h2 : s2.osc = s1.osc := (State.detFinish_detkept (.refl s1) seq 0 o).osc
    split
    next q _ =>
      obtain ⟨f, h⟩ := s2.oscFoldsDue_osc q o
      exact ⟨f, by rw [h, h2]; rfl⟩
    next => exact ⟨s.osc.foldDue, h2⟩

/-! ### When a settlement can be made (R211) -/

/-- The outcome by which a group settles on a quay. -/
abbrev Quay.oscOutcome (q : Quay) : Nat := (q.detOf 0).routed.getD 3

/-- The settlement that can be made of group g on a quay: with the quay its outcome and, where its task makes it, the task. -/
def State.oscReady (s : State) (g seq : Nat) : Option (Quay × Nat × Option (Nat × Task)) :=
  match s.quay? seq with
  | none => none
  | some q =>
    if !needsTask q.oscOutcome then some (q, q.oscOutcome, none)
    else if !s.taskStands 37 2 g (seq % 2 ^ 32) then some (q, q.oscOutcome, none)
    else ((s.workTask 37 2 g).filter fun t => t.2.quayTag == seq % 2 ^ 32).map fun t => (q, q.oscOutcome, some t)

/-- The first settlement of group g that is due and can be made. -/
def State.oscSettleNext (s : State) (g : Nat) : Option (Quay × Nat × Option (Nat × Task)) :=
  (s.osc.settleDue.filter fun x => x.2 == g).findSome? fun x => s.oscReady g x.1

theorem State.oscReady_of_free (hq : s.quay? seq = some q)
    (h : needsTask q.oscOutcome = false ∨ s.taskStands 37 2 g (seq % 2 ^ 32) = false ∨
      ∃ task, s.workTask 37 2 g = some task ∧ task.2.quayTag = seq % 2 ^ 32) :
    ∃ w, s.oscReady g seq = some (q, q.oscOutcome, w) := by
  unfold State.oscReady
  rw [hq]
  dsimp only
  split
  next => exact ⟨none, rfl⟩
  next hn =>
    split
    next => exact ⟨none, rfl⟩
    next hs =>
      rcases h with h | h | ⟨task, hw, htag⟩
      · exact absurd (by rw [h]; rfl) hn
      · exact absurd (by rw [h]; rfl) hs
      · exact ⟨some task, by simp [hw, htag]⟩

theorem State.oscReady_of_waits (hq : s.quay? seq = some q) (hn : needsTask q.oscOutcome = true)
    (hs : s.taskStands 37 2 g (seq % 2 ^ 32) = true)
    (hw : ∀ task, s.workTask 37 2 g = some task → task.2.quayTag ≠ seq % 2 ^ 32) : s.oscReady g seq = none := by
  simp only [State.oscReady, hq, hn, hs, Bool.not_true, Bool.false_eq_true, if_false, Option.map_eq_none_iff]
  refine Option.filter_eq_none_iff.mpr fun t ht => ?_
  simpa using hw t ht

/-- The first due item of a list that a test picks, if it can be settled, is the settlement to be made. -/
theorem State.oscSettleNext_of_find {n : Nat} {w : Quay × Nat × Option (Nat × Task)}
    (h : s.osc.settleDue.find? (fun x => x.2 == g) = some (seq, n)) (hr : s.oscReady g seq = some w) : s.oscSettleNext g = some w := by
  rw [← List.head?_filter] at h
  obtain ⟨l, hl⟩ := List.head?_eq_some_iff.mp h
  rw [State.oscSettleNext, hl, List.findSome?_cons, hr]

/-- A settlement by an outcome, made by a task that runs or, without one, at once. -/
def State.oscSettleBy (s : State) (g : Nat) (q : Quay) (o : Nat) : Option (Nat × Task) → State
  | none => if needsTask o then s.oscRetract q g o else s.oscSettle q g o
  | some t => (s.oscRan g t).oscSettle q g o

theorem State.oscUnheld_oscKept {t : State} (h : OscKept s t) (seq g : Nat) : OscKept (s.oscUnheld seq g) (t.oscUnheld seq g) :=
  ⟨h.core, congrArg (List.filter _) h.prov, h.settleDue, h.foldDue, h.extractDue⟩

theorem State.oscSettleBy_oscKept (s : State) (g : Nat) (q : Quay) (o : Nat) (w : Option (Nat × Task)) :
    OscKept (s.oscUnheld q.seq g) (s.oscSettleBy g q o w) := by
  cases w with
  | none =>
    rw [State.oscSettleBy]
    split
    · exact s.oscRetract_oscKept q g o
    · exact s.oscSettle_oscKept q g o
  | some t => exact (State.oscUnheld_oscKept (s.oscRan_oscKept g t) q.seq g).trans ((s.oscRan g t).oscSettle_oscKept q g o)

theorem oscSettleEvalRow_none (h : s.oscSettleNext g = none) : oscSettleEvalRow g s = s := by
  unfold oscSettleEvalRow
  extract_lets ready
  have e : (s.osc.settleDue.filter fun x => x.2 == g).findSome? (fun x => ready x.1) = none := h
  rw [e]

theorem oscSettleEvalRow_some {o : Nat} {w : Option (Nat × Task)} (h : s.oscSettleNext g = some (q, o, w)) :
    oscSettleEvalRow g s = (s.oscSettleBy g q o w).oscSettled q.seq g o := by
  unfold oscSettleEvalRow
  extract_lets ready
  have e : (s.osc.settleDue.filter fun x => x.2 == g).findSome? (fun x => ready x.1) = some (q, o, w) := h
  rw [e]
  cases w <;> rfl

/-- The settlement that is made takes its due item and drops the provisional evaluation. -/
theorem osc_oscSettleEvalRow {o : Nat} {w : Option (Nat × Task)} (h : s.oscSettleNext g = some (q, o, w)) :
    (oscSettleEvalRow g s).osc.settleDue = s.osc.settleDue.erase (q.seq, g) ∧
      (oscSettleEvalRow g s).osc.prov = s.osc.prov.filter fun (e : OscEval) => !(e.seq == q.seq && e.group == g) := by
  have hk := s.oscSettleBy_oscKept g q o w
  obtain ⟨f, hf⟩ := (s.oscSettleBy g q o w).oscSettled_osc q.seq g o
  rw [oscSettleEvalRow_some h, hf]
  exact ⟨congrArg (List.erase · _) hk.settleDue, hk.prov⟩

/-- Nothing is settled while nothing is due. -/
theorem State.oscSettleNext_of_none (h : s.osc.settleDue.find? (fun x => x.2 == g) = none) : s.oscSettleNext g = none := by
  rw [← List.head?_filter, List.head?_eq_none_iff] at h
  rw [State.oscSettleNext, h, List.findSome?_nil]

/-- Nothing is settled while the only settlement due waits. -/
theorem State.oscSettleNext_of_waits {n : Nat} (h : s.osc.settleDue.filter (fun x => x.2 == g) = [(seq, n)])
    (hr : s.oscReady g seq = none) : s.oscSettleNext g = none := by
  rw [State.oscSettleNext, h, List.findSome?_cons, hr, List.findSome?_nil]

end Sys2Proof.Machine
end

section
/-! SUPPORT. The commands of the oscillation unit: enable, provisional evaluation, fold and extraction (R195 to R202, R210, R225). -/

namespace Sys2Proof.Machine

variable {s : State} {v : Word} {g : Nat} {t : Nat × Task} {q : Quay}

/-! ### EN (R225) -/

/-- Whether the ring of the unit lies in DRAM and has a size that its register allows. -/
def State.oscRingFits (s : State) : Bool :=
  s.dramFits (s.reg64 Reg.OSC_RING_BASE_LO) (2 ^ s.fld Reg.OSC_RING_SIZE 0 5 * 64) &&
    decide (16 ≤ s.fld Reg.OSC_RING_SIZE 0 5) && decide (s.fld Reg.OSC_RING_SIZE 0 5 ≤ 24)

/-- A write of OSC_CTRL writes EN. -/
theorem State.oscEn_writeReg (s : State) (v : Word) : (s.writeReg Reg.OSC_CTRL v).oscEn = v.getLsbD 0 := by
  have hr : rowAt Reg.OSC_CTRL = some ⟨"OSC_CTRL", 0x0, 1, 0x0, 1, 0x0, .rw, 0x0, 0x7F9, 0x0, [], .plain⟩ := rfl
  rw [State.oscEn, State.bit, State.writeReg_of_row hr, State.reg_setReg_self]
  simp [clampWord]

theorem State.oscEn_of_reg {t : State} (h : t.reg Reg.OSC_CTRL = s.reg Reg.OSC_CTRL) : t.oscEn = s.oscEn := by
  rw [State.oscEn, State.bit, h, State.oscEn, State.bit]

/-- The unit enabled by a write, with an empty ring. -/
def State.oscStart (s : State) (v : Word) : State :=
  ((s.writeReg Reg.OSC_CTRL v).setReg64 Reg.OSC_RING_WR_LO 0).modOsc fun o => { o with records := [] }

theorem State.oscEn_oscStart (s : State) (v : Word) : (s.oscStart v).oscEn = v.getLsbD 0 := by
  rw [← s.oscEn_writeReg v]
  exact State.oscEn_of_reg (State.reg_setReg64_ne (lo := Reg.OSC_RING_WR_LO) _ (by decide) (by decide) 0)

theorem State.reg64_oscStart (s : State) (v : Word) : (s.oscStart v).reg64 Reg.OSC_RING_WR_LO = 0 := by
  rw [State.oscStart, State.reg64_of_regs (State.modOsc_regs _ _), State.reg64_setReg64 _ _ _ (by decide)]

/-- An enable that is refused: EN is written 0 and the event RING_ERR raised. -/
def State.oscRefuse (s : State) (v : Word) : State := (s.writeReg Reg.OSC_CTRL (v &&& ~~~1#32)).event Reg.OSC_EVT 4

theorem State.oscEn_oscRefuse (s : State) (v : Word) : (s.oscRefuse v).oscEn = false := by
  have e : (s.oscRefuse v).oscEn = (s.writeReg Reg.OSC_CTRL (v &&& ~~~1#32)).oscEn :=
    State.oscEn_of_reg (State.reg_setReg_ne _ (by decide) _)
  rw [e, State.oscEn_writeReg]
  simp

theorem oscEnWriteRow_eq (h1 : v.getLsbD 1 = false) : oscEnWriteRow v s =
    if v.getLsbD 0 ∧ !s.oscEn then if s.oscRingFits then s.oscStart v else s.oscRefuse v
    else if s.oscEn ∧ !v.getLsbD 0 then (s.writeReg Reg.OSC_CTRL v).oscStop
    else s.writeReg Reg.OSC_CTRL v := by
  unfold oscEnWriteRow
  rw [h1]
  rfl

theorem oscEnWriteRow_same (h1 : v.getLsbD 1 = false) (h : v.getLsbD 0 = true ↔ s.oscEn = true) :
    oscEnWriteRow v s = s.writeReg Reg.OSC_CTRL v := by
  have e : v.getLsbD 0 = s.oscEn := Bool.eq_iff_iff.mpr h
  rw [oscEnWriteRow_eq h1, e, if_neg (by simp), if_neg (by simp)]

theorem oscEnWriteRow_stop (h1 : v.getLsbD 1 = false) (h0 : v.getLsbD 0 = false) (he : s.oscEn = true) :
    oscEnWriteRow v s = (s.writeReg Reg.OSC_CTRL v).oscStop := by
  rw [oscEnWriteRow_eq h1, if_neg fun h => Bool.false_ne_true (h0.symm.trans h.1), if_pos ⟨he, by rw [h0]; rfl⟩]

theorem oscEnWriteRow_start (h1 : v.getLsbD 1 = false) (h0 : v.getLsbD 0 = true) (he : s.oscEn = false) (hr : s.oscRingFits = true) :
    oscEnWriteRow v s = s.oscStart v := by
  rw [oscEnWriteRow_eq h1, if_pos ⟨h0, by rw [he]; rfl⟩, if_pos hr]

theorem oscEnWriteRow_refuse (h1 : v.getLsbD 1 = false) (h0 : v.getLsbD 0 = true) (he : s.oscEn = false) (hr : s.oscRingFits = false) :
    oscEnWriteRow v s = s.oscRefuse v := by
  rw [oscEnWriteRow_eq h1, if_pos ⟨h0, by rw [he]; rfl⟩, if_neg (Bool.eq_false_iff.mp hr)]

theorem answers_oscEnWrite (hR : s.Reaches Reg.OSC_CTRL v) : Answers (.oscEnWrite v) s (oscEnWriteRow v s) :=
  congrArg (fun t => Host.Outcome.next (State.after s t)) (State.busWrite_reaches hR _)

/-! ### Provisional evaluations (R210) -/

theorem oscProvEvalRow_none (h : s.oscProvNext g = none) : oscProvEvalRow g s = s := by
  simp only [oscProvEvalRow, h]

/-- A provisional evaluation joins those held, and changes nothing else that is held, due or committed. -/
theorem oscKept_oscProvEvalRow (h : s.oscProvNext g = some (t, q)) : ∃ (e : OscEval) (u : State), e.seq = q.seq ∧ e.group = g ∧
    OscKept s u ∧ OscKept (u.modOsc fun o => { o with prov := o.prov ++ [e] }) (oscProvEvalRow g s) := by
  simp -zeta only [oscProvEvalRow, h]
  extract_lets +onlyGivenNames s1 e
  have h1 : OscKept s s1 := s.oscRan_oscKept g t
  have h2 := h1.trans (s1.oscNumber_oscKept g e.decs)
  generalize s1.oscNumber g e.decs = p at h2 ⊢
  extract_lets +onlyGivenNames e2 s3 s4 s5
  refine ⟨e2, p.1, rfl, rfl, h2, ?_⟩
  have h3 : OscKept (p.1.modOsc fun o => { o with prov := o.prov ++ [e2] }) s3 := .count (.refl _) _
  have h4 : OscKept (p.1.modOsc fun o => { o with prov := o.prov ++ [e2] }) s4 := .ite h3 (h3.event ..)
  have h5 : OscKept (p.1.modOsc fun o => { o with prov := o.prov ++ [e2] }) s5 := (h4.oscSendAll ..).oscRecordWrite ..
  exact .ite ((h5.count _).event ..) h5

/-! ### Folds (R195, R196) -/

theorem oscFoldRow_idle (h : s.workTask 37 3 g = none) : oscFoldRow g s = s := by
  simp only [oscFoldRow, h]

/-- The fold that is due to the task that runs, if one is. -/
abbrev State.oscFoldOf (s : State) (g : Nat) (t : Nat × Task) : Option (Nat × Nat) :=
  s.osc.foldDue.find? fun x => x.2 == g && x.1 % 2 ^ 32 == t.2.quayTag

theorem oscFoldRow_undue (h : s.workTask 37 3 g = some t) (hd : s.oscFoldOf g t = none) : oscFoldRow g s = s := by
  simp only [oscFoldRow, h, hd]

theorem oscFoldRow_waits (h : s.workTask 37 3 g = some t) (hw : s.oscFoldWaits g = true) : oscFoldRow g s = s := by
  simp only [oscFoldRow, h, hw, if_true]
  split <;> rfl

theorem State.oscCheckpoint_osc (s : State) (g : Nat) : ∃ c, (s.oscCheckpoint g).osc = { s.osc with checkpoints := c } := by
  unfold State.oscCheckpoint
  split
  next i _ =>
    have h : (if s.leaseFree 5 i then s.leaseTake 5 i 37 else s).osc = s.osc := by split <;> rfl
    refine ⟨(s.osc.checkpoints.filter fun (c : Nat × Nat × OscGroup) => c.1 != g) ++ [(g, i, s.oscGroup g)], ?_⟩
    rw [State.modOsc_osc, h]
  next => exact ⟨s.osc.checkpoints, rfl⟩

/-- A fold of group g begun: its task has worked, and it is due no more. -/
def State.oscFoldBegun (s : State) (g : Nat) (t : Nat × Task) (seq : Nat) : State :=
  (s.oscRan g t).modOsc fun o => { o with foldDue := o.foldDue.erase (seq, g) }

/-- The fold of group g on a quay committed and checkpointed. -/
def State.oscFoldCommitted (s : State) (g seq : Nat) (q : Quay) : State :=
  (((s.oscReadDrop seq g 3).modOsc fun o => { o with groups := mapSet o.groups g (s.oscFolded g q) }).count
    (Reg.OSC_CNT_LO 2)).oscCheckpoint g

/-- An extraction of group g made due, and its task wanted. -/
def State.oscExtractWanted (s : State) (g : Nat) : State :=
  (s.modOsc fun o => { o with extractDue := o.extractDue ++ [g] }).wantTask ⟨2, 3, 37, 4, s.oscMe g, none, 0, 2 ^ 32 - 1, g⟩

theorem State.quay?_oscFoldBegun (s : State) (g : Nat) (t : Nat × Task) (seq n : Nat) :
    (s.oscFoldBegun g t seq).quay? n = s.quay? n :=
  State.quay?_of_aln (s.oscRan_aln g t) n

/-- A fold that runs commits its quay; an extraction may follow it. -/
theorem oscFoldRow_runs {seq n : Nat} (h : s.workTask 37 3 g = some t) (hd : s.oscFoldOf g t = some (seq, n))
    (hw : s.oscFoldWaits g = false) (hq : s.quay? seq = some q) :
    let u := (s.oscFoldBegun g t seq).oscFoldCommitted g seq q
    oscFoldRow g s = u ∨ oscFoldRow g s = u.oscExtractWanted g := by
  have hq' := (s.quay?_oscFoldBegun g t seq seq).trans hq
  simp -zeta only [oscFoldRow, h, hd, hw, Bool.false_eq_true, if_false]
  extract_lets +onlyGivenNames u s1
  have e : s1.quay? seq = some q := hq'
  rw [e]
  dsimp only
  split
  · exact .inr rfl
  · exact .inl rfl

theorem State.oscFoldCommitted_osc (s : State) (g seq : Nat) (q : Quay) : ∃ r c, (s.oscFoldCommitted g seq q).osc =
    { s.osc with groups := mapSet s.osc.groups g (s.oscFolded g q), reads := r, checkpoints := c } := by
  obtain ⟨c, h⟩ := State.oscCheckpoint_osc (((s.oscReadDrop seq g 3).modOsc fun o =>
    { o with groups := mapSet o.groups g (s.oscFolded g q) }).count (Reg.OSC_CNT_LO 2)) g
  rw [State.count_osc] at h
  exact ⟨_, c, h⟩

/-- A fold that runs is due no more, and only its group gets a new state. -/
theorem osc_oscFoldRow {seq n : Nat} (h : s.workTask 37 3 g = some t) (hd : s.oscFoldOf g t = some (seq, n))
    (hw : s.oscFoldWaits g = false) (hq : s.quay? seq = some q) :
    (oscFoldRow g s).osc.foldDue = s.osc.foldDue.erase (seq, g) ∧
      (oscFoldRow g s).oscGroup g = (s.oscFoldBegun g t seq).oscFolded g q ∧
      ∀ k, k ≠ g → ((oscFoldRow g s).oscGroup k).core = (s.oscGroup k).core := by
  have hk := s.oscRan_oscKept g t
  obtain ⟨r, c, hu⟩ := (s.oscFoldBegun g t seq).oscFoldCommitted_osc g seq q
  have hdue : (oscFoldRow g s).osc.foldDue = ((s.oscFoldBegun g t seq).oscFoldCommitted g seq q).osc.foldDue := by
    rcases oscFoldRow_runs h hd hw hq with e | e <;> rw [e]
    rfl
  have hgroups : (oscFoldRow g s).osc.groups = ((s.oscFoldBegun g t seq).oscFoldCommitted g seq q).osc.groups := by
    rcases oscFoldRow_runs h hd hw hq with e | e <;> rw [e]
    rfl
  rw [hu] at hdue hgroups
  have hg := State.oscGroup_of_mapSet hgroups
  refine ⟨hdue.trans (congrArg (List.erase · _) hk.foldDue), (hg g).trans (if_pos rfl), fun k hne => ?_⟩
  rw [hg k, if_neg hne.symm]
  exact hk.core k

theorem State.baseSeq_oscFolded (s : State) (g : Nat) (q : Quay) :
    (s.oscFolded g q).baseSeq = q.seq ∧ (s.oscFolded g q).started = true := by
  unfold State.oscFolded
  exact ⟨rfl, rfl⟩

/-! ### Extractions (R198 to R202) -/

theorem oscExtractRow_idle (h : s.workTask 37 4 g = none ∨ s.osc.extractDue.contains g = false) : oscExtractRow g s = s := by
  unfold oscExtractRow
  split
  next => rfl
  next t ht =>
    rw [ht] at h
    rcases h with h | h
    · cases h
    · rw [if_pos (by rw [h]; rfl)]

/-- An extraction of group g begun: its task has worked, it is due no more, and it is counted. -/
def State.oscExtractBegun (s : State) (g : Nat) (t : Nat × Task) : State :=
  ((s.oscRan g t).modOsc fun o => { o with extractDue := o.extractDue.erase g }).count (Reg.OSC_CNT_LO 3)

theorem State.oscExtractBegun_osc (s : State) (g : Nat) (t : Nat × Task) : (s.oscExtractBegun g t).osc =
    { (s.oscRan g t).osc with extractDue := (s.oscRan g t).osc.extractDue.erase g } := by
  rw [State.oscExtractBegun, State.count_osc, State.modOsc_osc]

theorem State.oscGroup_oscExtractBegun (s : State) (g : Nat) (t : Nat × Task) (k : Nat) :
    ∃ m, (s.oscExtractBegun g t).oscGroup k = { s.oscGroup k with me := m } := by
  rw [State.oscGroup_of_groups (s := s.oscRan g t) (by rw [State.oscExtractBegun_osc])]
  exact s.oscGroup_oscRan g t k

/-- The settings of the last fold of a group are those that the quay it took has. -/
theorem State.oscFoldSet_of_kept {u : State} (haln : u.aln = s.aln) (hcfg : u.cfg = s.cfg) (htb : u.tb = s.tb)
    (hb : (u.oscGroup g).baseSeq = (s.oscGroup g).baseSeq) : u.oscFoldSet g = s.oscFoldSet g := by
  unfold State.oscFoldSet
  rw [hb, State.quay?_of_aln haln, hcfg, htb]
  split
  · simp only [State.quaySet, State.setOf, hcfg]
  · rfl

theorem State.oscFoldSet_oscExtractBegun (s : State) (g : Nat) (t : Nat × Task) :
    (s.oscExtractBegun g t).oscFoldSet g = s.oscFoldSet g := by
  obtain ⟨m, hm⟩ := s.oscGroup_oscExtractBegun g t g
  refine State.oscFoldSet_of_kept ?_ ?_ ?_ (by rw [hm])
  · rw [State.oscExtractBegun, State.count_aln, State.modOsc_aln, State.oscRan_aln]
  · rw [State.oscExtractBegun, State.count_cfg, State.modOsc_cfg, State.oscRan_cfg]
  · rw [State.oscExtractBegun, State.count_tb, State.modOsc_tb, State.oscRan_tb]

/-- The group's model and settings are those found before the task ran. -/
theorem State.eigen_oscExtractBegun (s : State) (g : Nat) (t : Nat × Task) :
    ((s.oscExtractBegun g t).oscGroup g).eigen ((s.oscExtractBegun g t).oscFoldSet g).1 g =
      (s.oscGroup g).eigen (s.oscFoldSet g).1 g := by
  obtain ⟨m, hm⟩ := s.oscGroup_oscExtractBegun g t g
  rw [hm, State.oscFoldSet_oscExtractBegun]
  rfl

/-- An extraction that fails marks its group and raises the event EXTRACT_FAIL. -/
def State.oscExtractFailed (s : State) (g : Nat) : State :=
  ((s.modOsc fun o => { o with groups := mapSet o.groups g { s.oscGroup g with extractFail := true } }).count (Reg.OSC_CNT_LO 8)).event
    Reg.OSC_EVT 2

/-- An extraction that succeeds puts the modes of the eigenvalues in the place of the group's. -/
def State.oscExtracted (s : State) (g : Nat) (l : List ((Rat × Rat) × Word × List (Rat × Rat) × List (Rat × Rat))) : State :=
  s.modOsc fun o => { o with groups := mapSet o.groups g (oscMatch (s.oscFoldSet g).1 g (s.oscGroup g)
    (oscPairs (s.oscFoldSet g).1 g (oscFa (s.oscFoldSet g).1 g (s.oscFoldSet g).2) l)) }

section runs

variable (h : s.workTask 37 4 g = some t) (hd : s.osc.extractDue.contains g = true)
include h hd

theorem oscExtractRow_fails (he : (s.oscGroup g).eigen (s.oscFoldSet g).1 g = none) :
    oscExtractRow g s = (s.oscExtractBegun g t).oscExtractFailed g := by
  have he' := (s.eigen_oscExtractBegun g t).trans he
  simp -zeta only [oscExtractRow, h, hd, Bool.not_true, Bool.false_eq_true, if_false]
  extract_lets +onlyGivenNames s1 x set
  have e : x.eigen set.1 g = none := he'
  rw [e]
  rfl

theorem oscExtractRow_succeeds {l : List ((Rat × Rat) × Word × List (Rat × Rat) × List (Rat × Rat))}
    (he : (s.oscGroup g).eigen (s.oscFoldSet g).1 g = some l) : oscExtractRow g s = (s.oscExtractBegun g t).oscExtracted g l := by
  have he' := (s.eigen_oscExtractBegun g t).trans he
  simp -zeta only [oscExtractRow, h, hd, Bool.not_true, Bool.false_eq_true, if_false]
  extract_lets +onlyGivenNames s1 x set
  have e : x.eigen set.1 g = some l := he'
  rw [e]
  rfl

end runs

theorem State.extractDue_oscExtractBegun (s : State) (g : Nat) (t : Nat × Task) :
    (s.oscExtractBegun g t).osc.extractDue = s.osc.extractDue.erase g := by
  rw [State.oscExtractBegun_osc, (s.oscRan_oscKept g t).extractDue]

theorem State.oscExtractFailed_osc (s : State) (g : Nat) : (s.oscExtractFailed g).osc =
    { s.osc with groups := mapSet s.osc.groups g { s.oscGroup g with extractFail := true } } := by
  rw [State.oscExtractFailed, State.event_osc, State.count_osc, State.modOsc_osc]

/-- The group of an extraction that fails is as before but for the mark. -/
theorem State.oscGroup_oscExtractFailed (s : State) (g : Nat) :
    (s.oscExtractFailed g).oscGroup g = { s.oscGroup g with extractFail := true } :=
  (State.oscGroup_of_mapSet (congrArg Osc.groups (s.oscExtractFailed_osc g)) g).trans (if_pos rfl)

theorem State.extractFail_oscExtracted (s : State) (g : Nat) (l : List ((Rat × Rat) × Word × List (Rat × Rat) × List (Rat × Rat))) :
    ((s.oscExtracted g l).oscGroup g).extractFail = false := by
  rw [State.oscGroup_of_mapSet (s := s) rfl g, if_pos rfl]
  rfl

/-- Settles O37: the branches of each of the five commands, and the numbers of the decisions issued together. -/
theorem oscillationUnitRuns : Obligations.OscillationUnitRuns := by
  unfold Obligations.OscillationUnitRuns
  intro v g s core ringOk
  have prov {u : State} (h : oscProvEvalRow g s = u) : Answers (.oscProvEval g) s u := h ▸ rfl
  have settle {u : State} (h : oscSettleEvalRow g s = u) : Answers (.oscSettleEval g) s u := h ▸ rfl
  have fold {u : State} (h : oscFoldRow g s = u) : Answers (.oscFold g) s u := h ▸ rfl
  have extract {u : State} (h : oscExtractRow g s = u) : Answers (.oscExtract g) s u := h ▸ rfl
  refine ⟨fun hR h1 => ?_, fun h => prov (oscProvEvalRow_none h), fun t q h => ?_,
    fun h => settle (oscSettleEvalRow_none (State.oscSettleNext_of_none h)), fun seq n q h hq hw => ?_, fun seq n q h hq hn hs hw => ?_,
    fun h => fold (oscFoldRow_idle h), fun t h => ?_,
    fun h => extract (oscExtractRow_idle h), fun t h hd => ?_, fun l => ?_⟩
  · have write {u : State} (h : oscEnWriteRow v s = u) : Answers (.oscEnWrite v) s u := h ▸ answers_oscEnWrite hR
    exact ⟨fun h => write (oscEnWriteRow_same h1 h), fun h0 he => write (oscEnWriteRow_stop h1 h0 he),
      fun h0 he hr => ⟨_, write (oscEnWriteRow_start h1 h0 he hr), (s.oscEn_oscStart v).trans h0, s.reg64_oscStart v, rfl⟩,
      fun h0 he hr => ⟨_, write (oscEnWriteRow_refuse h1 h0 he hr), s.oscEn_oscRefuse v, State.getLsbD_reg_event _ _ (by decide)⟩⟩
  · obtain ⟨e, u, hseq, hg, hu, hrow⟩ := oscKept_oscProvEvalRow h
    exact ⟨_, e, prov rfl, hrow.prov.trans (congrArg (· ++ [e]) hu.prov), hseq, hg, fun k => (hrow.core k).trans (hu.core k)⟩
  · obtain ⟨w, hr⟩ := State.oscReady_of_free hq hw
    obtain ⟨hdue, hprov⟩ := osc_oscSettleEvalRow (State.oscSettleNext_of_find h hr)
    rw [State.seq_of_quay? hq] at hdue hprov
    exact ⟨_, settle rfl, hdue, hprov⟩
  · exact settle (oscSettleEvalRow_none (State.oscSettleNext_of_waits h (State.oscReady_of_waits hq hn hs hw)))
  · refine ⟨fun hd => fold (hd.elim (oscFoldRow_undue h) (oscFoldRow_waits h)), fun seq n q hd hw hq => ?_⟩
    obtain ⟨hdue, hg, hk⟩ := osc_oscFoldRow h hd hw hq
    obtain ⟨hbase, hstart⟩ := (s.oscFoldBegun g t seq).baseSeq_oscFolded g q
    rw [← hg] at hbase hstart
    exact ⟨_, fold rfl, hdue, hbase.trans (State.seq_of_quay? hq), hstart, hk⟩
  · have hx := s.extractDue_oscExtractBegun g t
    cases he : (s.oscGroup g).eigen (s.oscFoldSet g).1 g with
    | none =>
      obtain ⟨m, hm⟩ := s.oscGroup_oscExtractBegun g t g
      have hg := (s.oscExtractBegun g t).oscGroup_oscExtractFailed g
      refine ⟨_, extract (oscExtractRow_fails h hd he), ?_, fun _ => ⟨by rw [hg], by rw [hg, hm], ?_⟩, nofun⟩
      · rw [State.oscExtractFailed_osc, hx]
      · exact State.getLsbD_reg_event _ _ (by decide)
    | some l => exact ⟨_, extract (oscExtractRow_succeeds h hd he), hx, nofun, fun _ _ => State.extractFail_oscExtracted _ g l⟩
  · have hk := s.oscNumber_oscKept g l
    exact ⟨s.decIds_oscNumber g l, hk.core, hk.prov⟩

end Sys2Proof.Machine
end

section
/-! SUPPORT. What the operations of the islanding unit leave as it is beside what IslKept names: ISL_CTRL, and with it EN (R262 to
R269). -/

namespace Sys2Proof.Machine

variable {r s t : State} {q : Quay}

/-! ### The relation -/

/-- What the unit has committed, its provisional evaluations, what is due and ISL_CTRL are unchanged. -/
structure IslSteady (s t : State) : Prop extends IslKept s t where
  ctrl : t.reg Reg.ISL_CTRL = s.reg Reg.ISL_CTRL

theorem IslSteady.of_regs (h : IslKept s t) (e : t.regs = s.regs) : IslSteady s t :=
  ⟨h, by rw [State.reg, e, State.reg]⟩

theorem IslSteady.refl (s : State) : IslSteady s s := .of_regs (.refl s) rfl

theorem IslSteady.trans (h : IslSteady r s) (k : IslSteady s t) : IslSteady r t :=
  ⟨h.upd k.isl_com k.isl_settleDue k.isl_foldDue k.isl_prov, k.ctrl.trans h.ctrl⟩

theorem IslSteady.ite {a b : State} {c : Prop} [Decidable c] (ha : IslSteady r a) (hb : IslSteady r b) :
    IslSteady r (if c then a else b) := by
  split <;> assumption

theorem IslSteady.ofFst {α : Type} {p : State × α} {a : α} (e : p = (s, a)) (h : IslSteady r p.1) : IslSteady r s := by
  rw [e] at h
  exact h

theorem IslSteady.islEn (h : IslSteady s t) : t.islEn = s.islEn := by
  rw [State.islEn, State.bit, h.ctrl, State.islEn, State.bit]

/-- A write of a register pair that is not ISL_CTRL. -/
theorem IslSteady.setReg64 (h : IslSteady r s) (lo n : Nat) (hlo : lo ≠ Reg.ISL_CTRL := by decide)
    (hhi : lo + 4 ≠ Reg.ISL_CTRL := by decide) : IslSteady r (s.setReg64 lo n) :=
  h.trans ⟨State.setReg64_islkept (.refl s) lo n, s.reg_setReg64_ne hlo hhi n⟩

theorem IslSteady.countBy (h : IslSteady r s) (lo n : Nat) (hlo : lo ≠ Reg.ISL_CTRL := by decide)
    (hhi : lo + 4 ≠ Reg.ISL_CTRL := by decide) : IslSteady r (s.countBy lo n) :=
  h.setReg64 lo _ hlo hhi

theorem IslSteady.count (h : IslSteady r s) (lo : Nat) (hlo : lo ≠ Reg.ISL_CTRL := by decide)
    (hhi : lo + 4 ≠ Reg.ISL_CTRL := by decide) : IslSteady r (s.count lo) :=
  h.countBy lo 1 hlo hhi

theorem IslSteady.event (h : IslSteady r s) (o i : Nat) (ho : o ≠ Reg.ISL_CTRL := by decide) : IslSteady r (s.event o i) :=
  h.trans ⟨State.event_islkept (.refl s) o i, s.reg_setReg_ne ho _⟩

/-! ### Decisions sent, lists kept and DEC_IDs (R243, R247, R248) -/

theorem IslSteady.islSendAll (h : IslSteady r s) (op : AlmOp) (seq : Nat) (l : List IslDec) : IslSteady r (s.islSendAll op seq l) :=
  h.trans (.of_regs (State.islSendAll_islkept (.refl s) op seq l)
    (List.foldlRecOn (motive := fun x : State => x.regs = s.regs) l _ rfl fun _ hx _ _ => hx))

theorem IslSteady.islNotice (h : IslSteady r s) (seq o : Nat) : IslSteady r (s.islNotice seq o) :=
  h.trans (.of_regs (State.islNotice_islkept (.refl s) seq o) rfl)

theorem IslSteady.islKeep (h : IslSteady r s) (l : IslList) : IslSteady r (s.islKeep l) :=
  h.trans (.of_regs (State.islKeep_islkept (.refl s) l) rfl)

theorem State.islNumber_regs (s : State) (l : List IslDec) : (s.islNumber l).1.regs = s.regs := by
  induction l generalizing s with
  | nil => rfl
  | cons d ds ih => exact ih (s.modIsl fun x => { x with nextDec := (s.isl.nextDec + 1) % 2 ^ 32 })

theorem IslSteady.islNumber (h : IslSteady r s) (l : List IslDec) : IslSteady r (s.islNumber l).1 :=
  h.trans (.of_regs (State.islNumber_islkept (.refl s) l) (s.islNumber_regs l))

/-! ### The work of a task (R229, R243, R253) -/

theorem IslSteady.islReadDrop (h : IslSteady r s) (seq typ : Nat) : IslSteady r (s.islReadDrop seq typ) :=
  h.trans (.of_regs ⟨rfl, rfl, rfl, rfl⟩ rfl)

theorem IslSteady.islRan (h : IslSteady r s) (k : Nat × Task) (seq : Nat) : IslSteady r (s.islRan k seq) :=
  h.trans (.of_regs ⟨rfl, rfl, rfl, rfl⟩ rfl)

theorem IslSteady.islRun (h : IslSteady r s) (q : Quay) (base : IslState) (prior : List IslList) (get : Nat → Option Entry)
    (prov : List IslComp) : IslSteady r (s.islRun q base prior get prov).1 := by
  unfold State.islRun
  extract_lets +onlyGivenNames set x e ref
  split
  extract_lets +onlyGivenNames comps s1 s2
  have h1 : IslSteady r s1 := h.trans (.of_regs ⟨rfl, rfl, rfl, rfl⟩ rfl)
  exact .ite ((h1.count _).event _ _) h1

/-! ### Records and deliveries (R262 to R266, R269) -/

theorem IslSteady.ringLines (h : IslSteady r s) (base log wr : Nat) (b : List Byte) : IslSteady r (s.ringLines base log wr b) :=
  h.trans (.of_regs (State.ringLines_islkept (.refl s) base log wr b)
    (List.foldlRecOn (motive := fun x : State => x.regs = s.regs) _ _ rfl fun _ hx _ _ => hx))

theorem State.leaseNow_islSteady {pool n owner : Nat} (h : s.leaseNow pool n owner = some t) : IslSteady s t := by
  unfold State.leaseNow at h
  split at h
  next =>
    split at h
    · exact (Option.some.inj h) ▸ .of_regs ⟨rfl, rfl, rfl, rfl⟩ rfl
    · cases h
  next => cases h

/-- A delivery that is dropped counts at its ring pair, one of sixteen. -/
theorem IslSteady.dropDelivery (h : IslSteady r s) {n : Nat} (hn : n < 16) (d : Delivery) : IslSteady r (s.dropDelivery n d) := by
  unfold State.dropDelivery
  extract_lets s1
  have h0 : IslSteady r (s.modRing n fun r => { r with dropped := min (r.dropped + 1) 65535 }) :=
    h.trans (.of_regs ⟨rfl, rfl, rfl, rfl⟩ rfl)
  have h1 : IslSteady r s1 := ((h0.count _).count _ (by simp only [Reg.HIF_RP_CNT_LO, Reg.ISL_CTRL]; omega)
    (by simp only [Reg.HIF_RP_CNT_LO, Reg.ISL_CTRL]; omega)).event _ _
  split
  · exact h1.count _
  · exact h1.count _
  · exact (h1.count _).event _ _
  · exact (h1.count _).event _ _
  · exact h1.event _ _
  · exact h1

theorem IslSteady.tugDeliver (h : IslSteady r s) (owner : Nat) {d : Delivery} (hd : d.ring < 16) : IslSteady r (s.tugDeliver owner d) := by
  unfold State.tugDeliver
  split
  next hl => exact (h.trans (State.leaseNow_islSteady hl)).trans (.of_regs ⟨rfl, rfl, rfl, rfl⟩ rfl)
  next => exact h.dropDelivery hd d

theorem IslSteady.islMembWrite (h : IslSteady r s) (seq : Nat) (x : IslComp) : IslSteady r (s.islMembWrite seq x) := by
  unfold State.islMembWrite
  extract_lets +onlyGivenNames raw b pos log base keep gone s1 s2
  have h1 : IslSteady r s1 :=
    List.foldlRecOn (motive := IslSteady r) _ _ h fun y hy _ _ => hy.trans (.of_regs (State.dramWrite_islkept (.refl y) _ _) rfl)
  have h2 : IslSteady r s2 := (h1.setReg64 Reg.ISL_MEMB_WR_LO _).trans (.of_regs ⟨rfl, rfl, rfl, rfl⟩ rfl)
  exact .ite h2 ((h2.countBy _ _).event _ _)

theorem IslSteady.islMemberships (h : IslSteady r s) (seq : Nat) (l : List IslComp) : IslSteady r (s.islMemberships seq l).1 := by
  refine List.foldlRecOn (motive := fun a : State × List Nat => IslSteady r a.1) l _ h fun a ha x _ => ?_
  split
  · exact ha.islMembWrite seq x
  · exact ha

theorem IslSteady.islRecordWrite (h : IslSteady r s) (q : Quay) (e : IslEval) (settled : Bool) (o : Nat) (decs : List IslDec) :
    IslSteady r (s.islRecordWrite q e settled o decs) := by
  unfold State.islRecordWrite
  refine .ite h ?_
  split
  next s0 wrote hm =>
    have h0 : IslSteady r s0 := .ofFst hm (h.islMemberships q.seq e.comps)
    extract_lets +onlyGivenNames b wr log n
    split
    next keep gone _ =>
      extract_lets +onlyGivenNames s1 s2 s3 s4
      have h1 : IslSteady r s1 :=
        ((h0.ringLines _ _ _ _).setReg64 Reg.ISL_RING_WR_LO _).trans (.of_regs ⟨rfl, rfl, rfl, rfl⟩ rfl)
      have h2 : IslSteady r s2 := .ite h1 ((h1.countBy _ _).event _ _)
      have h3 : IslSteady r s3 := .ite ((h2.count _).event _ _) h2
      have h4 : IslSteady r s4 := .ite ((h3.countBy _ _).countBy _ _) h3
      exact .ite (h4.tugDeliver _ (Nat.mod_lt _ (by decide))) h4

/-! ### The detector's part (R170) -/

theorem State.capNotice_regs (s : State) (typ : Nat) (m : Nat → Nat → Bool) (at_ code : Nat) :
    (s.capNotice typ m at_ code).regs = s.regs := by
  unfold State.capNotice
  split <;> rfl

theorem State.alnRaise_regs (s : State) (d kind seq : Nat) : (s.alnRaise d kind seq).regs = s.regs := by
  unfold State.alnRaise
  split
  · exact State.capNotice_regs _ _ _ _ _
  · rfl

theorem State.settleDoneCheck_regs (s : State) (seq : Nat) : (s.settleDoneCheck seq).regs = s.regs := by
  unfold State.settleDoneCheck
  split
  · split <;> rfl
  · rfl

theorem IslSteady.detFinish (h : IslSteady r s) (seq o : Nat) : IslSteady r (s.detFinish seq 1 o) := by
  unfold State.detFinish
  split
  next => exact h
  next q _ =>
    extract_lets +onlyGivenNames s1 s2
    have h1 : IslSteady r s1 := h.trans (.of_regs (State.modDet_islkept (.refl s) _ _ _) rfl)
    have raise {x : State} (hx : IslSteady r x) : IslSteady r (x.alnRaise 1 1 seq) :=
      hx.trans (.of_regs (State.alnRaise_islkept (.refl x) 1 1 seq) (x.alnRaise_regs 1 1 seq))
    have h2 : IslSteady r s2 := by
      unfold s2
      split
      · exact h1.count _
      · exact h1.count _
      · exact h1.count _
      · exact raise ((h1.count _).event _ _)
      · exact raise ((h1.count _).event _ _)
      · exact h1
    have h3 : IslSteady r (s2.alnNotice q 1 o) := h2.trans (.of_regs (State.alnNotice_islkept (.refl s2) q 1 o) rfl)
    exact h3.trans (.of_regs (State.settleDoneCheck_islkept (.refl _) seq) (State.settleDoneCheck_regs _ seq))

end Sys2Proof.Machine
end

section
/-! SUPPORT. The settlement of the islanding unit (R249 to R251): when it can be made, and what it leaves of the evaluations held and of
what is due. -/

namespace Sys2Proof.Machine

variable {s t : State} {q : Quay} {seq : Nat} {rest : List Nat}

/-! ### The work of a settlement (R251) -/

/-- The provisional evaluation of a quay, its base and what its settlement task has read are dropped. -/
def State.islUnheld (s : State) (seq : Nat) : State :=
  (s.islReadDrop seq 2).modIsl fun x => { x with
    prov := x.prov.filter fun (e : IslProv) => e.seq != seq
    bases := x.bases.filter fun (e : Nat × IslState) => e.1 != seq }

theorem State.islUnheld_islSteady (h : IslSteady s t) (seq : Nat) : IslSteady (s.islUnheld seq) (t.islUnheld seq) :=
  ⟨⟨h.isl_com, h.isl_settleDue, h.isl_foldDue, congrArg (List.filter _) h.isl_prov⟩, h.ctrl⟩

/-- A settlement by an outcome drops the evaluation held; nothing else that is held, due or committed changes. -/
theorem State.islSettle_islSteady (s : State) (q : Quay) (o : Nat) : IslSteady (s.islUnheld q.seq) (s.islSettle q o) := by
  unfold State.islSettle
  extract_lets +onlyGivenNames prov pd s0 skip
  have h0 : IslSteady (s.islUnheld q.seq) s0 := .refl _
  have hskip : IslSteady (s.islUnheld q.seq) (skip s0) := (h0.islKeep _).islNotice q.seq o
  clear_value pd prov s0 skip
  split
  next =>
    cases prov with
    | none => exact hskip
    | some e =>
      dsimp -zeta only
      extract_lets +onlyGivenNames conf s1 s2
      have h1 : IslSteady (s.islUnheld q.seq) s1 := ((h0.islSendAll ..).countBy ..).islKeep _
      have h2 : IslSteady (s.islUnheld q.seq) s2 := .ite h1 (h1.event ..)
      exact (h2.islNotice ..).islRecordWrite ..
  -- The outcomes 2, 4 and 5 settle alike, by an evaluation (R251).
  iterate 3
    next =>
      extract_lets +onlyGivenNames fresh read
      split
      next s1 e d0 hrun =>
        extract_lets +onlyGivenNames same gone conf
        split
        next s2 news0 hn =>
          extract_lets +onlyGivenNames news s3 s4 s5 s6 s7
          have h1 : IslSteady (s.islUnheld q.seq) s1 := .ofFst hrun (h0.islRun ..)
          have h2 : IslSteady (s.islUnheld q.seq) s2 := .ofFst hn (h1.islNumber _)
          have h3 : IslSteady (s.islUnheld q.seq) s3 := ((h2.islSendAll ..).islSendAll ..).islSendAll ..
          have h4 : IslSteady (s.islUnheld q.seq) s4 := ((((h3.count _).countBy ..).countBy ..).countBy ..).islKeep _
          have h5 : IslSteady (s.islUnheld q.seq) s5 := .ite h4 (h4.event ..)
          have h6 : IslSteady (s.islUnheld q.seq) s6 := .ite h5 (h5.event ..)
          have h7 : IslSteady (s.islUnheld q.seq) s7 := (h6.islNotice ..).islRecordWrite ..
          exact .ite ((h7.count _).event ..) h7
  next => exact hskip
  next => exact h0

theorem State.islRetract_islSteady (s : State) (q : Quay) (o : Nat) : IslSteady (s.islUnheld q.seq) (s.islRetract q o) := by
  unfold State.islRetract
  extract_lets +onlyGivenNames gone s1 r
  have h1 : IslSteady (s.islUnheld q.seq) s1 :=
    IslSteady.countBy (IslSteady.islSendAll (by exact .of_regs ⟨rfl, rfl, rfl, rfl⟩ rfl) ..) (Reg.ISL_CNT_LO 5) _
  exact ((IslSteady.ite h1 (h1.event ..)).islKeep _).islNotice q.seq o

/-! ### A quay settled (R170, R252) -/

/-- The settlement of a quay is due no more and its detector is done; with the unit enabled its fold falls due. -/
def State.islSettled (s : State) (seq : Nat) (rest : List Nat) (o : Nat) : State :=
  let s1 := (s.modIsl fun x => { x with settleDue := rest }).detFinish seq 1 o
  if s1.islEn then (s1.modIsl fun x => { x with foldDue := x.foldDue ++ [seq] }).wantTask (s1.islFoldTask seq) else s1

theorem State.isl_islSettled (s : State) (seq : Nat) (rest : List Nat) (o : Nat) :
    (s.islSettled seq rest o).isl.settleDue = rest ∧
    (s.islSettled seq rest o).isl.foldDue = (if s.islEn then s.isl.foldDue ++ [seq] else s.isl.foldDue) ∧
    (s.islSettled seq rest o).isl.com = s.isl.com ∧ (s.islSettled seq rest o).isl.prov = s.isl.prov := by
  unfold State.islSettled
  extract_lets +onlyGivenNames s1
  have h1 : IslSteady (s.modIsl fun x => { x with settleDue := rest }) s1 := (IslSteady.refl _).detFinish seq o
  rw [show s1.islEn = s.islEn from h1.islEn]
  split
  · exact ⟨h1.isl_settleDue, congrArg (· ++ [seq]) h1.isl_foldDue, h1.isl_com, h1.isl_prov⟩
  · exact ⟨h1.isl_settleDue, h1.isl_foldDue, h1.isl_com, h1.isl_prov⟩

/-! ### When a settlement can be made (R250, R251) -/

/-- The outcome by which the unit settles a quay. -/
abbrev Quay.islOutcome (q : Quay) : Nat := (q.detOf 1).routed.getD 3

/-- The settlement of a quay needs no evaluation, or its task is neither wanted nor held, or its task runs. -/
def State.IslFree (s : State) (seq : Nat) (q : Quay) : Prop :=
  needsTask q.islOutcome = false ∨ s.taskStands 38 2 0 (seq % 2 ^ 32) = false ∨
    ∃ task, s.workTask 38 2 0 = some task ∧ task.2.quayTag = seq % 2 ^ 32

theorem islSettleEvalRow_idle (h : s.isl.settleDue = []) : islSettleEvalRow s = s := by
  rw [islSettleEvalRow, h]

section due

variable (hd : s.isl.settleDue = seq :: rest) (hq : s.quay? seq = some q)
include hd hq

theorem islSettleEvalRow_due : islSettleEvalRow s =
    if !needsTask q.islOutcome then (s.islSettle q q.islOutcome).islSettled seq rest q.islOutcome
    else if !s.taskStands 38 2 0 (seq % 2 ^ 32) then (s.islRetract q q.islOutcome).islSettled seq rest q.islOutcome
    else match (s.workTask 38 2 0).filter fun t => t.2.quayTag == seq % 2 ^ 32 with
      | some t => ((s.islRan t seq).islSettle q q.islOutcome).islSettled seq rest q.islOutcome
      | none => s := by
  unfold islSettleEvalRow
  rw [hd]
  dsimp only
  rw [hq]
  rfl

/-- A settlement that can be made drops the provisional evaluation before the quay is settled. -/
theorem islSettleEvalRow_free (h : s.IslFree seq q) :
    ∃ t, IslSteady (s.islUnheld seq) t ∧ islSettleEvalRow s = t.islSettled seq rest q.islOutcome := by
  rw [islSettleEvalRow_due hd hq]
  obtain rfl := State.seq_of_quay? hq
  split
  next => exact ⟨_, s.islSettle_islSteady q _, rfl⟩
  next hn =>
    split
    next => exact ⟨_, s.islRetract_islSteady q _, rfl⟩
    next hs =>
      rcases h with h | h | ⟨task, hw, htag⟩
      · exact absurd (by rw [h]; rfl) hn
      · exact absurd (by rw [h]; rfl) hs
      · rw [hw, Option.filter_some, if_pos (by simpa using htag)]
        exact ⟨_, (State.islUnheld_islSteady ((IslSteady.refl s).islRan task q.seq) q.seq).trans
          ((s.islRan task q.seq).islSettle_islSteady q _), rfl⟩

theorem islSettleEvalRow_waits (h : ¬ s.IslFree seq q) : islSettleEvalRow s = s := by
  unfold State.IslFree at h
  push Not at h
  obtain ⟨hn, hs, hw⟩ := h
  have hnone : (s.workTask 38 2 0).filter (fun t => t.2.quayTag == seq % 2 ^ 32) = none :=
    Option.filter_eq_none_iff.mpr fun t ht => by simpa using hw t ht
  rw [islSettleEvalRow_due hd hq, hnone]
  simp only [Bool.eq_true_of_not_eq_false hn, Bool.eq_true_of_not_eq_false hs, Bool.not_true, Bool.false_eq_true, if_false]

/-- The settlement that is made takes its due item, drops the provisional evaluation and makes the fold due. -/
theorem isl_islSettleEvalRow (h : s.IslFree seq q) :
    (islSettleEvalRow s).isl.settleDue = rest ∧
    (islSettleEvalRow s).isl.foldDue = (if s.islEn then s.isl.foldDue ++ [seq] else s.isl.foldDue) ∧
    (islSettleEvalRow s).isl.com = s.isl.com ∧
    (islSettleEvalRow s).isl.prov = s.isl.prov.filter fun (e : IslProv) => e.seq != seq := by
  obtain ⟨t, ht, hrow⟩ := islSettleEvalRow_free hd hq h
  obtain ⟨hdue, hfold, hcom, hprov⟩ := t.isl_islSettled seq rest q.islOutcome
  rw [ht.islEn, ht.isl_foldDue] at hfold
  rw [hrow]
  exact ⟨hdue, hfold, hcom.trans ht.isl_com, hprov.trans ht.isl_prov⟩

end due

end Sys2Proof.Machine
end

section
/-! SUPPORT. The commands of the islanding unit: enable, provisional evaluation, fold and probes (R249, R250, R252, R267, R268). -/

namespace Sys2Proof.Machine

variable {s : State} {v : Word} {t : Nat × Task} {q : Quay} {seq : Nat} {rest : List Nat}

/-! ### EN (R267) -/

/-- Whether both rings of the unit lie in DRAM and have sizes that their registers allow. -/
def State.islRingsFit (s : State) : Bool :=
  s.dramFits (s.reg64 Reg.ISL_RING_BASE_LO) (2 ^ s.fld Reg.ISL_RING_SIZE 0 5 * 64) &&
    s.dramFits (s.reg64 Reg.ISL_MEMB_BASE_LO) (2 ^ s.fld Reg.ISL_MEMB_SIZE 0 5) &&
    decide (16 ≤ s.fld Reg.ISL_RING_SIZE 0 5) && decide (s.fld Reg.ISL_RING_SIZE 0 5 ≤ 24) &&
    decide (20 ≤ s.fld Reg.ISL_MEMB_SIZE 0 5) && decide (s.fld Reg.ISL_MEMB_SIZE 0 5 ≤ 30)

@[simp] theorem State.writeReg_isl (s : State) (o : Nat) (v : Word) : (s.writeReg o v).isl = s.isl :=
  (State.writeReg_detkept (.refl s) o v).isl

/-- A write of ISL_CTRL writes EN. -/
theorem State.islEn_writeReg (s : State) (v : Word) : (s.writeReg Reg.ISL_CTRL v).islEn = v.getLsbD 0 := by
  have hr : rowAt Reg.ISL_CTRL = some ⟨"ISL_CTRL", 0x0, 1, 0x0, 1, 0x0, .rw, 0x0, 0x1F9, 0x0, [], .plain⟩ := rfl
  rw [State.islEn, State.bit, State.writeReg_of_row hr, State.reg_setReg_self]
  simp [clampWord]

/-- The unit enabled by a write, with empty rings. -/
def State.islStart (s : State) (v : Word) : State :=
  (((s.writeReg Reg.ISL_CTRL v).setReg64 Reg.ISL_RING_WR_LO 0).setReg64 Reg.ISL_MEMB_WR_LO 0).modIsl fun o =>
    { o with records := [], membs := [], membRing := [] }

theorem State.islEn_islStart (s : State) (v : Word) : (s.islStart v).islEn = v.getLsbD 0 := by
  have h : IslSteady (s.writeReg Reg.ISL_CTRL v) (s.islStart v) :=
    (((IslSteady.refl _).setReg64 Reg.ISL_RING_WR_LO 0).setReg64 Reg.ISL_MEMB_WR_LO 0).trans (.of_regs ⟨rfl, rfl, rfl, rfl⟩ rfl)
  rw [h.islEn, State.islEn_writeReg]

theorem State.reg64_setReg64_ne (s : State) {lo lo' : Nat} (h : lo + 4 < lo' ∨ lo' + 4 < lo) (n : Nat) :
    (s.setReg64 lo n).reg64 lo' = s.reg64 lo' := by
  rw [State.reg64, s.reg_setReg64_ne (by omega) (by omega), s.reg_setReg64_ne (by omega) (by omega), State.reg64]

/-- Both write positions restart at 0. -/
theorem State.reg64_islStart (s : State) (v : Word) :
    (s.islStart v).reg64 Reg.ISL_RING_WR_LO = 0 ∧ (s.islStart v).reg64 Reg.ISL_MEMB_WR_LO = 0 := by
  have hregs := State.reg64_of_regs (State.modIsl_regs
    (((s.writeReg Reg.ISL_CTRL v).setReg64 Reg.ISL_RING_WR_LO 0).setReg64 Reg.ISL_MEMB_WR_LO 0)
    fun o => { o with records := [], membs := [], membRing := [] })
  refine ⟨(hregs _).trans ?_, (hregs _).trans (State.reg64_setReg64 _ _ _ (by decide))⟩
  rw [State.reg64_setReg64_ne _ (by decide), State.reg64_setReg64 _ _ _ (by decide)]

theorem State.isl_islStart (s : State) (v : Word) : (s.islStart v).isl = { s.isl with records := [], membs := [], membRing := [] } := by
  rw [State.islStart, State.modIsl_isl, State.setReg64_isl, State.setReg64_isl, State.writeReg_isl]

/-- An enable that is refused: EN is written 0 and the event RING_ERR raised. -/
def State.islRefuse (s : State) (v : Word) : State := (s.writeReg Reg.ISL_CTRL (v &&& ~~~1#32)).event Reg.ISL_EVT 4

theorem State.islEn_islRefuse (s : State) (v : Word) : (s.islRefuse v).islEn = false := by
  have h : IslSteady (s.writeReg Reg.ISL_CTRL (v &&& ~~~1#32)) (s.islRefuse v) := (IslSteady.refl _).event _ _
  rw [h.islEn, State.islEn_writeReg]
  simp

theorem islEnWriteRow_eq (h1 : v.getLsbD 1 = false) : islEnWriteRow v s =
    if v.getLsbD 0 ∧ !s.islEn then if s.islRingsFit then s.islStart v else s.islRefuse v
    else if s.islEn ∧ !v.getLsbD 0 then (s.writeReg Reg.ISL_CTRL v).islStop
    else s.writeReg Reg.ISL_CTRL v := by
  unfold islEnWriteRow
  rw [h1]
  rfl

theorem islEnWriteRow_same (h1 : v.getLsbD 1 = false) (h : v.getLsbD 0 = true ↔ s.islEn = true) :
    islEnWriteRow v s = s.writeReg Reg.ISL_CTRL v := by
  have e : v.getLsbD 0 = s.islEn := Bool.eq_iff_iff.mpr h
  rw [islEnWriteRow_eq h1, e, if_neg (by simp), if_neg (by simp)]

theorem islEnWriteRow_stop (h1 : v.getLsbD 1 = false) (h0 : v.getLsbD 0 = false) (he : s.islEn = true) :
    islEnWriteRow v s = (s.writeReg Reg.ISL_CTRL v).islStop := by
  rw [islEnWriteRow_eq h1, h0, he, if_neg (by simp), if_pos ⟨rfl, rfl⟩]

/-- An enable is taken or refused by the rings. -/
theorem islEnWriteRow_enable (h1 : v.getLsbD 1 = false) (h0 : v.getLsbD 0 = true) (he : s.islEn = false) :
    islEnWriteRow v s = if s.islRingsFit then s.islStart v else s.islRefuse v := by
  rw [islEnWriteRow_eq h1, h0, he, if_pos ⟨rfl, rfl⟩]

/-! ### Provisional evaluations (R250) -/

theorem islProvEvalRow_none (h : s.islProvNext = none) : islProvEvalRow s = s := by
  rw [islProvEvalRow, h]

/-- A provisional evaluation held after the others. -/
def State.islProvHeld (s : State) (p : IslProv) : State := s.modIsl fun x => { x with prov := x.prov ++ [p] }

/-- A provisional evaluation joins those held, and changes nothing else that is held, due or committed. -/
theorem islSteady_islProvEvalRow (h : s.islProvNext = some (t, q)) : ∃ (p : IslProv) (u : State), p.seq = q.seq ∧ IslSteady s u ∧
    IslSteady (u.islProvHeld p) (islProvEvalRow s) := by
  unfold islProvEvalRow
  split
  next hn => cases h.symm.trans hn
  next t q hs =>
    cases h.symm.trans hs
    extract_lets +onlyGivenNames s1
    split
    next s2 e d0 hrun =>
      split
      next s3 decs hnum =>
        extract_lets +onlyGivenNames s4 s5 s6
        have h1 : IslSteady s s1 := ((IslSteady.refl s).islRan t q.seq).islReadDrop q.seq 1
        have h2 : IslSteady s s2 := .ofFst hrun (h1.islRun ..)
        have h3 : IslSteady s s3 := .ofFst hnum (h2.islNumber d0)
        refine ⟨⟨q.seq, e, decs⟩, s3, rfl, h3, ?_⟩
        have h4 : IslSteady (s3.islProvHeld ⟨q.seq, e, decs⟩) s4 := (IslSteady.count (.refl _) _).islKeep _
        have h5 : IslSteady (s3.islProvHeld ⟨q.seq, e, decs⟩) s5 := .ite h4 (h4.event ..)
        have h6 : IslSteady (s3.islProvHeld ⟨q.seq, e, decs⟩) s6 := (h5.islSendAll ..).islRecordWrite ..
        exact .ite ((h6.count _).event ..) h6

/-! ### Folds (R249, R252) -/

theorem islFoldRow_idle (h : s.isl.foldDue = [] ∨ s.workTask 38 3 0 = none) : islFoldRow s = s := by
  unfold islFoldRow
  split
  next hd ht => rw [hd, ht] at h; simp at h
  next => rfl

/-- The fold that is due begun: its task has worked, and it is due no more. -/
def State.islFoldBegun (s : State) (t : Nat × Task) (rest : List Nat) : State :=
  (s.taskWorked t.1).modIsl fun x => { x with foldDue := rest }

/-- The fold of a quay committed and shown in ISL_BASE_SEQ. -/
def State.islFoldCommitted (s : State) (seq : Nat) (q : Quay) : State :=
  (((s.islReadDrop seq 3).modIsl fun i => { i with com := (s.islFolded q).1 }).setReg64 Reg.ISL_BASE_SEQ_LO seq).count (Reg.ISL_CNT_LO 2)

/-- A full computation of the components counted and its event raised (R235). -/
def State.islFullNoted (s : State) (full : Bool) : State := if full then (s.count (Reg.ISL_CNT_LO 3)).event Reg.ISL_EVT 8 else s

section fold

variable (hd : s.isl.foldDue = seq :: rest) (ht : s.workTask 38 3 0 = some t)
include hd ht

theorem islFoldRow_waits (h : t.2.quayTag ≠ seq % 2 ^ 32 ∨ s.islFoldWaits = true) : islFoldRow s = s := by
  simp only [islFoldRow, hd, ht, if_pos h]

/-- A fold that runs commits its quay and is checkpointed. -/
theorem islFoldRow_runs (htag : t.2.quayTag = seq % 2 ^ 32) (hw : s.islFoldWaits = false) (hq : s.quay? seq = some q) :
    islFoldRow s = (((s.islFoldBegun t rest).islFoldCommitted seq q).islFullNoted
      ((s.islFoldBegun t rest).islFolded q).2.full).islCheckpoint := by
  have hq' : (s.islFoldBegun t rest).quay? seq = some q := hq
  simp -zeta only [islFoldRow, hd, ht, htag, hw, ne_eq, not_true_eq_false, Bool.false_eq_true, or_self, if_false]
  extract_lets +onlyGivenNames s1
  have e : s1.quay? seq = some q := hq'
  rw [e]
  rfl

end fold

theorem State.baseSeq_islFolded (s : State) (q : Quay) :
    (s.islFolded q).1.baseSeq = q.seq ∧ (s.islFolded q).1.started = true := by
  unfold State.islFolded
  exact ⟨rfl, rfl⟩

/-- A checkpoint changes of the unit the checkpoint alone, and no register. -/
theorem State.islCheckpoint_eq (s : State) :
    (∃ c, s.islCheckpoint.isl = { s.isl with checkpoint := c }) ∧ s.islCheckpoint.regs = s.regs := by
  unfold State.islCheckpoint
  split
  · split <;> exact ⟨⟨_, rfl⟩, rfl⟩
  · exact ⟨⟨s.isl.checkpoint, rfl⟩, rfl⟩

theorem State.reg64_count_ne (s : State) {lo lo' : Nat} (h : lo + 4 < lo' ∨ lo' + 4 < lo) : (s.count lo).reg64 lo' = s.reg64 lo' :=
  s.reg64_setReg64_ne h _

@[simp] theorem State.islFullNoted_isl (s : State) (full : Bool) : (s.islFullNoted full).isl = s.isl := by
  unfold State.islFullNoted
  split <;> rfl

theorem State.reg64_islFullNoted (s : State) (full : Bool) :
    (s.islFullNoted full).reg64 Reg.ISL_BASE_SEQ_LO = s.reg64 Reg.ISL_BASE_SEQ_LO := by
  unfold State.islFullNoted
  split
  · rw [State.event, State.reg64_setReg_ne _ (by decide) (by decide), State.reg64_count_ne _ (by decide)]
  · rfl

theorem State.reg64_islFoldCommitted (s : State) (q : Quay) (h : seq < 2 ^ 64) :
    (s.islFoldCommitted seq q).reg64 Reg.ISL_BASE_SEQ_LO = seq := by
  rw [State.islFoldCommitted, State.reg64_count_ne _ (by decide), State.reg64_setReg64 _ _ _ h]

/-- A fold that runs is due no more, and its quay is the base of the committed state. -/
theorem isl_islFoldRow (hd : s.isl.foldDue = seq :: rest) (ht : s.workTask 38 3 0 = some t) (htag : t.2.quayTag = seq % 2 ^ 32)
    (hw : s.islFoldWaits = false) (hq : s.quay? seq = some q) (hlt : seq < 2 ^ 64) :
    (islFoldRow s).isl.foldDue = rest ∧ (islFoldRow s).isl.com = ((s.islFoldBegun t rest).islFolded q).1 ∧
      (islFoldRow s).reg64 Reg.ISL_BASE_SEQ_LO = seq := by
  rw [islFoldRow_runs hd ht htag hw hq]
  generalize hu : State.islFullNoted _ _ = u
  obtain ⟨⟨c, hc⟩, hregs⟩ := u.islCheckpoint_eq
  rw [hc, State.reg64_of_regs hregs, ← hu, State.islFullNoted_isl, State.reg64_islFullNoted]
  exact ⟨rfl, rfl, (s.islFoldBegun t rest).reg64_islFoldCommitted q hlt⟩

/-! ### Probes (R268) -/

/-- The ID that a probe of a node shows: that of the listed component it lies in, none with EN 0. -/
def State.islNodeId (s : State) (n : Nat) : Nat :=
  match s.isl.com.listed.find? fun x => x.nodes.contains n with
  | some x => if s.islEn then x.id else 0xFFFF
  | none => 0xFFFF

theorem State.islNodeId_listed {n : Nat} {x : IslComp} (he : s.islEn = true)
    (h : s.isl.com.listed.find? (fun x => x.nodes.contains n) = some x) : s.islNodeId n = x.id := by
  rw [State.islNodeId, h]
  exact if_pos he

theorem State.islNodeId_none {n : Nat} (h : s.islEn = false ∨ ∀ x ∈ s.isl.com.listed, x.nodes.contains n = false) :
    s.islNodeId n = 0xFFFF := by
  unfold State.islNodeId
  split
  next x hx =>
    refine if_neg fun he => ?_
    rcases h with h | h
    · exact Bool.false_ne_true (h.symm.trans he)
    · exact Bool.false_ne_true ((h x (List.mem_of_find?_eq_some hx)).symm.trans
        (List.find?_some (p := fun x : IslComp => x.nodes.contains n) hx))
  next => rfl

/-- What a probe of a branch shows of the committed state, below DONE; of a branch it does not hold, current status none. -/
def State.islBranchWord (s : State) (j : Nat) : Nat :=
  match mapFind s.isl.com.branches j with
  | some b => b2n b.closed + 4 * b.cur + 16 * b2n b.known + 32 * b2n b.conflict + 64 * b2n b.rawUnknown
  | none => 8

theorem islNodeProbeRow_shows (v : Word) (s : State) : (islNodeProbeRow v s).isl = s.isl ∧
    (islNodeProbeRow v s).reg Reg.ISL_NODE_RES = BitVec.ofNat 32 (2 ^ 31 + s.islNodeId (bitsOf v.toNat 0 16) +
      2 ^ 16 * b2n (s.isl.com.live.contains (bitsOf v.toNat 0 16)) + 2 ^ 17 * b2n (s.isl.com.observed.contains (bitsOf v.toNat 0 16))) :=
  ⟨s.writeReg_isl _ v, State.reg_setReg_self _ _ _⟩

theorem islBranchProbeRow_shows (v : Word) (s : State) : (islBranchProbeRow v s).isl = s.isl ∧
    (islBranchProbeRow v s).reg Reg.ISL_BR_RES = BitVec.ofNat 32 (2 ^ 31 + s.islBranchWord (bitsOf v.toNat 0 17)) :=
  ⟨s.writeReg_isl _ v, State.reg_setReg_self _ _ _⟩

/-- Settles O38: the branches of each of the four commands, and what the probes show. -/
theorem islandingUnitRuns : Obligations.IslandingUnitRuns := by
  unfold Obligations.IslandingUnitRuns
  intro v s log mlog n ringsOk
  have prov {u : State} (h : islProvEvalRow s = u) : Answers .islProvEval s u := h ▸ rfl
  have settle {u : State} (h : islSettleEvalRow s = u) : Answers .islSettleEval s u := h ▸ rfl
  have fold {u : State} (h : islFoldRow s = u) : Answers .islFold s u := h ▸ rfl
  refine ⟨fun hR h1 => ?_, fun h => prov (islProvEvalRow_none h), fun t q h => ?_, fun h => settle (islSettleEvalRow_idle h),
    fun seq rest q hd hq => ?_, fun h => fold (islFoldRow_idle h), fun seq rest t hd ht => ?_, fun hR => ?_, fun hR => ?_⟩
  · have write {u : State} (h : islEnWriteRow v s = u) : Answers (.islEnWrite v) s u :=
      h ▸ congrArg (fun t => Host.Outcome.next (State.after s t)) (State.busWrite_reaches hR _)
    refine ⟨fun h => write (islEnWriteRow_same h1 h), fun h0 he => write (islEnWriteRow_stop h1 h0 he), fun h0 he hr => ?_,
      fun h0 he hr => ?_⟩
    · obtain ⟨hring, hmemb⟩ := s.reg64_islStart v
      have hisl := s.isl_islStart v
      exact ⟨_, write ((islEnWriteRow_enable h1 h0 he).trans (if_pos hr)), (s.islEn_islStart v).trans h0, hring, hmemb,
        by rw [hisl], by rw [hisl]⟩
    · exact ⟨_, write ((islEnWriteRow_enable h1 h0 he).trans (if_neg (Bool.eq_false_iff.mp hr))), s.islEn_islRefuse v,
        State.getLsbD_reg_event _ _ (by decide), s.writeReg_isl _ _⟩
  · obtain ⟨p, u, hseq, hu, hrow⟩ := islSteady_islProvEvalRow h
    exact ⟨_, p, prov rfl, hrow.isl_prov.trans (congrArg (· ++ [p]) hu.isl_prov), hseq, hrow.isl_com.trans hu.isl_com⟩
  · exact ⟨fun h => ⟨_, settle rfl, isl_islSettleEvalRow hd hq h⟩, fun h => settle (islSettleEvalRow_waits hd hq h)⟩
  · refine ⟨fun h => fold (islFoldRow_waits hd ht h), fun q htag hw hq hlt => ?_⟩
    obtain ⟨hdue, hcom, hreg⟩ := isl_islFoldRow hd ht htag hw hq hlt
    obtain ⟨hbase, hstart⟩ := (s.islFoldBegun t rest).baseSeq_islFolded q
    rw [← hcom] at hbase hstart
    exact ⟨_, fold rfl, hdue, hbase.trans (State.seq_of_quay? hq), hstart, hreg⟩
  · have probe : Answers (.islNodeProbe v) s (islNodeProbeRow v s) :=
      congrArg (fun t => Host.Outcome.next (State.after s t)) (State.busWrite_reaches hR _)
    obtain ⟨hisl, hres⟩ := islNodeProbeRow_shows v s
    exact ⟨fun x he hx => ⟨_, probe, hisl, State.islNodeId_listed he hx ▸ hres⟩,
      fun h => ⟨_, probe, hisl, State.islNodeId_none h ▸ hres⟩⟩
  · have probe : Answers (.islBranchProbe v) s (islBranchProbeRow v s) :=
      congrArg (fun t => Host.Outcome.next (State.after s t)) (State.busWrite_reaches hR _)
    obtain ⟨hisl, hres⟩ := islBranchProbeRow_shows v s
    rw [State.islBranchWord] at hres
    exact ⟨fun b hb => ⟨_, probe, hisl, by rw [hres, hb]⟩, fun hb => ⟨_, probe, hisl, by rw [hres, hb]⟩⟩

end Sys2Proof.Machine
end

section
/-! SUPPORT. The alarm states (R274 to R276): the clear condition, and what each input makes of the slot it meets. -/

namespace Sys2Proof.Machine

variable {x : AlmSlot} {i : AlmInput}

/-! ### The clear condition (R276) -/

theorem AlmSlot.clearCond_idle (h : x.st ≠ .conf) : x.clearCond = x := if_pos h

theorem AlmSlot.clearCond_held (h : x.st = .conf) (ho : 0 < x.provOpen) : x.clearCond = { x with clearHeld := true } :=
  (if_neg (not_not_intro h)).trans (if_pos ho)

/-- With nothing open the condition clears the slot, or waits for an acknowledgement. -/
theorem AlmSlot.clearCond_open (h : x.st = .conf) (ho : x.provOpen = 0) : x.clearCond =
    if x.latch = false ∧ x.src ≠ 5 ∧ x.overflow = false then { x with st := .cleared, clearHeld := false }
    else { x with clearPend := true, clearHeld := false } := by
  simp [AlmSlot.clearCond, h, ho]

theorem AlmSlot.clearCond_clears (h : x.st = .conf) (ho : x.provOpen = 0) (hl : x.latch = false) (hs : x.src ≠ 5)
    (hv : x.overflow = false) : x.clearCond = { x with st := .cleared, clearHeld := false } :=
  (clearCond_open h ho).trans (if_pos ⟨hl, hs, hv⟩)

theorem AlmSlot.clearCond_pends (h : x.st = .conf) (ho : x.provOpen = 0) (hk : x.latch = true ∨ x.src = 5 ∨ x.overflow = true) :
    x.clearCond = { x with clearPend := true, clearHeld := false } := by
  refine (clearCond_open h ho).trans (if_neg fun ⟨hl, hs, hv⟩ => ?_)
  rcases hk with hk | hk | hk
  · exact Bool.false_ne_true (hl.symm.trans hk)
  · exact hs hk
  · exact Bool.false_ne_true (hv.symm.trans hk)

@[simp] theorem AlmSlot.clearCond_gen (x : AlmSlot) : x.clearCond.gen = x.gen := by
  unfold AlmSlot.clearCond
  split_ifs <;> rfl

/-! ### The effect of an input (R275) -/

/-! The stamp of an input is the last decision alone. -/

section stamped

variable (x i)

@[simp] theorem AlmSlot.stamped_st : (x.stamped i).st = x.st :=
  (apply_ite AlmSlot.st _ _ _).trans (ite_self _)

@[simp] theorem AlmSlot.stamped_src : (x.stamped i).src = x.src :=
  (apply_ite AlmSlot.src _ _ _).trans (ite_self _)

@[simp] theorem AlmSlot.stamped_overflow : (x.stamped i).overflow = x.overflow :=
  (apply_ite AlmSlot.overflow _ _ _).trans (ite_self _)

@[simp] theorem AlmSlot.stamped_clearPend : (x.stamped i).clearPend = x.clearPend :=
  (apply_ite AlmSlot.clearPend _ _ _).trans (ite_self _)

@[simp] theorem AlmSlot.stamped_clearHeld : (x.stamped i).clearHeld = x.clearHeld :=
  (apply_ite AlmSlot.clearHeld _ _ _).trans (ite_self _)

@[simp] theorem AlmSlot.stamped_gen : (x.stamped i).gen = x.gen :=
  (apply_ite AlmSlot.gen _ _ _).trans (ite_self _)

@[simp] theorem AlmSlot.stamped_provOpen : (x.stamped i).provOpen = x.provOpen :=
  (apply_ite AlmSlot.provOpen _ _ _).trans (ite_self _)

@[simp] theorem AlmSlot.stamped_sevS : (x.stamped i).sevS = x.sevS :=
  (apply_ite AlmSlot.sevS _ _ _).trans (ite_self _)

@[simp] theorem AlmSlot.stamped_latch : (x.stamped i).latch = x.latch :=
  (apply_ite AlmSlot.latch _ _ _).trans (ite_self _)

end stamped

theorem AlmSlot.apply_provisional (h : i.op = .provisional) : x.apply i =
    { x.stamped i with
      provOpen := min ((x.stamped i).provOpen + 1) 255, provIds := (x.stamped i).provIds ++ [i.decId], sevP := i.sev,
      st := if (x.stamped i).st = .conf then .conf else .prov } := by
  simp only [AlmSlot.apply, h]

/-- A settled decision of a quay meets the slot: a CONFIRMED resolves a provisional one. -/
def AlmSlot.settles (x : AlmSlot) (i : AlmInput) : AlmSlot :=
  (if i.op = .confirmed then (x.stamped i).decOpen i.decId else x.stamped i).onQuay i.quaySeq

theorem AlmSlot.apply_settled (h : i.op = .confirmed ∨ i.op = .settledNew) (he : ¬(i.src = 2 ∧ i.event = 7)) :
    x.apply i = (x.settles i).settledTo i.sev := by
  rcases h with h | h
  · simp only [AlmSlot.apply, AlmSlot.settles, h, if_neg he]
  · simp only [AlmSlot.apply, AlmSlot.settles, h, if_neg he]

theorem AlmSlot.apply_ended (h : i.op = .confirmed ∨ i.op = .settledNew) (he : i.src = 2 ∧ i.event = 7) :
    x.apply i = (x.settles i).clearCond := by
  rcases h with h | h
  · simp only [AlmSlot.apply, AlmSlot.settles, h, if_pos he]
  · simp only [AlmSlot.apply, AlmSlot.settles, h, if_pos he]

theorem AlmSlot.settles_provOpen (x : AlmSlot) (i : AlmInput) :
    (x.settles i).provOpen = if i.op = .confirmed then x.provOpen - 1 else x.provOpen := by
  unfold AlmSlot.settles
  split
  · exact congrArg (· - 1) (x.stamped_provOpen i)
  · exact x.stamped_provOpen i

theorem AlmSlot.apply_raise (h : i.op = .raise) : x.apply i =
    if i.src = 3 ∧ i.kind = 4 then ((x.stamped i).settledTo i.sev).onQuay i.quaySeq else (x.stamped i).settledTo i.sev := by
  simp only [AlmSlot.apply, h]

/-- A retraction: one decision less is open, and the slot is in the state that what remains gives it. -/
def AlmSlot.retracts (x : AlmSlot) (i : AlmInput) : AlmSlot :=
  { (x.stamped i).decOpen i.decId with
    st := if (x.stamped i).sevS ≠ 0 then .conf else if 0 < (x.stamped i).provOpen - 1 then .prov else .retracted }

theorem AlmSlot.apply_retracted (h : i.op = .retracted) : x.apply i =
    if (x.retracts i).clearHeld ∧ (x.retracts i).provOpen = 0 then (x.retracts i).clearCond else x.retracts i := by
  simp only [AlmSlot.apply, h]
  rfl

theorem AlmSlot.apply_clear (h : i.op = .clear) : x.apply i = (x.stamped i).clearCond := by
  simp only [AlmSlot.apply, h]

theorem AlmSlot.apply_settle (h : i.op = .settle) : x.apply i = x := by
  simp only [AlmSlot.apply, h]

/-- No input but a raise, which comes before, changes the GEN of its slot. -/
@[simp] theorem AlmSlot.apply_gen (x : AlmSlot) (i : AlmInput) : (x.apply i).gen = x.gen := by
  have stamped := x.stamped_gen i
  have settles : (x.settles i).gen = x.gen := by
    unfold AlmSlot.settles
    split <;> exact stamped
  have settled (h : i.op = .confirmed ∨ i.op = .settledNew) : (x.apply i).gen = x.gen := by
    by_cases he : i.src = 2 ∧ i.event = 7
    · rw [apply_ended h he, clearCond_gen, settles]
    · rw [apply_settled h he]
      exact settles
  cases h : i.op with
  | provisional =>
    rw [apply_provisional h]
    exact stamped
  | confirmed => exact settled (.inl h)
  | settledNew => exact settled (.inr h)
  | retracted =>
    rw [apply_retracted h, apply_ite AlmSlot.gen, clearCond_gen, ite_self]
    exact stamped
  | settle => rw [apply_settle h]
  | raise =>
    rw [apply_raise h]
    split <;> exact stamped
  | clear => rw [apply_clear h, clearCond_gen, stamped]

/-! ### Settle notices (R270, R275) -/

/-- A slot whose quay the notice names without a decision or raise of it: one MISS more. -/
def AlmSlot.missed (x : AlmSlot) : AlmSlot := { x with miss := min (x.miss + 1) 255 }

theorem AlmSlot.miss1_counts (hl : x.live = true) (h6 : i.outcome ≠ 6) (h3 : i.outcome = 3 → x.src = 3 ∧ x.kind = 4)
    (hq : x.quays.contains i.quaySeq = false) :
    x.miss1 i = if x.clearN ≤ min (x.miss + 1) 255 then x.missed.clearCond else x.missed := by
  have counts : (i.outcome != 6 && (i.outcome != 3 || (x.src == 3 && x.kind == 4))) = true := by
    simpa [h6, imp_iff_not_or] using h3
  simp only [AlmSlot.miss1, hl, counts, hq]
  rfl

theorem AlmSlot.miss1_keeps (h : x.live = false ∨ i.outcome = 6 ∨ x.quays.contains i.quaySeq = true ∨
    (i.outcome = 3 ∧ ¬(x.src = 3 ∧ x.kind = 4))) : x.miss1 i = x := by
  refine if_pos ?_
  rcases h with hl | h6 | hq | ⟨h3, hs⟩
  · exact .inl (by rw [hl]; rfl)
  · exact .inr (.inl (by rw [h6]; rfl))
  · exact .inr (.inr hq)
  · exact .inr (.inl (by simpa [h3, imp_iff_not_or] using hs))

/-- Settles O40: the equation of each input, and the clear condition's cases. -/
theorem alarmStateTable : Obligations.AlarmStateTable := by
  unfold Obligations.AlarmStateTable
  intro x i
  refine ⟨fun h => ?_, fun h he => ?_, fun h => ?_, fun h hh => ?_, fun h => ?_, fun hl h6 h3 hq => ?_, AlmSlot.miss1_keeps⟩
  · rw [AlmSlot.apply_provisional h]
    simp
  · rw [AlmSlot.apply_settled h he]
    exact ⟨rfl, rfl, rfl, rfl, x.settles_provOpen i⟩
  · rw [AlmSlot.apply_raise h]
    split <;> exact ⟨rfl, rfl, rfl, rfl, x.stamped_provOpen i⟩
  · have held : (x.retracts i).clearHeld = false := (x.stamped_clearHeld i).trans hh
    rw [AlmSlot.apply_retracted h, if_neg (by simp [held])]
    simp [AlmSlot.retracts, AlmSlot.decOpen]
  · rw [AlmSlot.apply_clear h]
    refine ⟨fun hc => ?_, fun hc ho => ?_, fun hc ho hl h5 hv => ?_, fun hc ho hk => ?_⟩
    · rw [AlmSlot.clearCond_idle (by simpa using hc)]
      simp
    · rw [AlmSlot.clearCond_held (by simpa using hc) (by simpa using ho)]
      simp [hc]
    · rw [AlmSlot.clearCond_clears (by simpa using hc) (by simpa using ho) (by simpa using hl) (by simpa using h5) (by simpa using hv)]
    · rw [AlmSlot.clearCond_pends (by simpa using hc) (by simpa using ho) (by simpa using hk)]
      simp [hc]
  · rw [AlmSlot.miss1_counts hl h6 h3 hq]
    refine ⟨fun hn => ?_, fun hn hc ho hk h5 hv => ?_, fun hp => ?_⟩
    · rw [if_neg (Nat.not_le.mpr hn)]
      exact ⟨rfl, rfl⟩
    · rw [if_pos hn, AlmSlot.clearCond_clears (x := x.missed) hc ho hk h5 hv]
    · have idle : x.missed.clearCond = x.missed := AlmSlot.clearCond_idle fun hc => AlmSt.noConfusion (hp.symm.trans hc)
      rw [idle, ite_self]
      exact hp

end Sys2Proof.Machine
end

section
/-! SUPPORT. The inputs of the ALM channel (R270, R273, R275, R278): what the alarm table holds after a slot has been committed, and
the case of each input. -/

namespace Sys2Proof.Machine

variable {s t : State} {i : AlmInput} {x : AlmSlot} {n r : Nat}

/-! ### Slots by their number -/

theorem State.slot_setSlot (s : State) (n k : Nat) (x : AlmSlot) : (s.setSlot n x).slot k = if n = k then x else s.slot k :=
  mapGet_put _ s.alm.slots n k x

theorem SlotKept.slot (h : SlotKept s t) (k : Nat) : t.slot k = s.slot k := by
  rw [State.slot, h.alm_slots, State.slot]

theorem State.pulses_slotkept (h : SlotKept s t) (x : AlmSlot) : SlotKept s (t.pulses x) := by
  unfold State.pulses State.modAlm
  refine SlotKept.foldl (fun y p hy => ?_) _ h
  extract_lets w
  refine SlotKept.ite (State.count_slotkept ?_ _) hy
  exact hy.upd rfl

/-! ### A commit (R283) -/

/-- A slot with the marks of another: the time of its last entry and of its last transition, and the number of its entries. -/
def AlmSlot.marked (x y : AlmSlot) : AlmSlot := { x with at_ := y.at_, changes := y.changes, moved := y.moved }

/-- A commit sets its slot to the new one but for its marks, and nothing that follows sets a slot. -/
theorem State.almCommit_slotkept (s : State) (n : Nat) (old new : AlmSlot) (acked : Bool) :
    ∃ x, SlotKept (s.setSlot n x) (s.almCommit n old new acked) ∧ x.marked new = new := by
  unfold State.almCommit
  extract_lets moved entry x s1 u s2
  have marked : x.marked new = new := by
    unfold x
    split <;> rfl
  have h1 : SlotKept (s.setSlot n x) s1 := .refl _
  have hu : SlotKept (s.setSlot n x) u := by
    apply State.pulses_slotkept
    apply State.logRaise_slotkept
    apply State.event_slotkept
    exact State.count_slotkept h1 _
  have h2 : SlotKept (s.setSlot n x) s2 := SlotKept.ite (State.capNotice_slotkept hu _ _ _ _) h1
  refine ⟨x, SlotKept.ite h1 ?_, marked⟩
  apply State.pinsDrive_slotkept
  apply State.almEntry_slotkept
  exact State.mirrorItem_slotkept h2 _ _

/-- What a commit leaves in the alarm table: its slot, and every other as it was. -/
theorem State.slot_almCommit (s : State) (n : Nat) (old new : AlmSlot) (acked : Bool) :
    ((s.almCommit n old new acked).slot n).marked new = new ∧ ∀ k, k ≠ n → (s.almCommit n old new acked).slot k = s.slot k := by
  obtain ⟨x, hkept, hx⟩ := s.almCommit_slotkept n old new acked
  refine ⟨?_, fun k hk => ?_⟩
  · rw [hkept.slot, State.slot_setSlot, if_pos rfl, hx]
  · rw [hkept.slot, State.slot_setSlot, if_neg (Ne.symm hk)]

theorem AlmSlot.gen_of_marked {x y : AlmSlot} (h : x.marked y = y) : x.gen = y.gen := by
  rw [← h]
  rfl

/-! ### The cases of an input (R270, R275, R278) -/

/-- An input with the severity that the unit gives it: that of R270 for a raise. -/
def AlmInput.rated (i : AlmInput) : AlmInput := if i.op = .raise then { i with sev := i.directSev } else i

/-- Whether an input raises its slot (R278): a settled ENDED does not. -/
def AlmInput.raises (i : AlmInput) : Bool :=
  i.op == .raise || i.op == .provisional || ((i.op == .confirmed || i.op == .settledNew) && !(i.src == 2 && i.event == 7))

@[simp] theorem AlmInput.rated_op (i : AlmInput) : i.rated.op = i.op := (apply_ite AlmInput.op _ _ _).trans (ite_self _)

@[simp] theorem AlmInput.rated_src (i : AlmInput) : i.rated.src = i.src := (apply_ite AlmInput.src _ _ _).trans (ite_self _)

@[simp] theorem AlmInput.rated_kind (i : AlmInput) : i.rated.kind = i.kind := (apply_ite AlmInput.kind _ _ _).trans (ite_self _)

@[simp] theorem AlmInput.rated_decId (i : AlmInput) : i.rated.decId = i.decId := (apply_ite AlmInput.decId _ _ _).trans (ite_self _)

/-- A slot that a new alarm takes: its identity, and the GEN of the slot. -/
def AlmInput.newSlot (i : AlmInput) (gen : Nat) : AlmSlot := { gen := gen, src := i.src, sub := i.sub, kind := i.kind, key := i.key }

section met

variable (hop : i.op ≠ .settle) (hslot : s.slotOf i.rated = some (n, x))
include hop hslot

/-- An input whose identity a slot holds. -/
theorem State.almApply_met : s.almApply i =
    if i.op = .retracted ∧ x.provIds.contains i.decId = false then s.unrouted
    else if i.rated.raises = true ∧ x.live = false then
      s.almCommit n x (((s.ruleOf i.rated).elim x.raised (s.inClass x.raised)).apply i.rated) false
    else s.almCommit n x (x.apply i.rated) false := by
  unfold State.almApply
  extract_lets j ended raising
  have hj : j = i.rated := rfl
  have hr : raising = i.rated.raises := rfl
  clear_value raising j
  subst hj hr
  rw [if_neg (by rwa [AlmInput.rated_op]), hslot]
  cases s.ruleOf i.rated <;> simp

theorem State.almApply_unreceived (hr : i.op = .retracted) (hid : x.provIds.contains i.decId = false) : s.almApply i = s.unrouted :=
  (almApply_met hop hslot).trans (if_pos ⟨hr, hid⟩)

theorem State.almApply_moves (hid : i.op = .retracted → x.provIds.contains i.decId = true)
    (hl : i.rated.raises = false ∨ x.live = true) : s.almApply i = s.almCommit n x (x.apply i.rated) false := by
  have received : ¬(i.op = .retracted ∧ x.provIds.contains i.decId = false) := fun ⟨hr, hn⟩ => Bool.false_ne_true (hn.symm.trans (hid hr))
  have raised : ¬(i.rated.raises = true ∧ x.live = false) := fun ⟨hra, hd⟩ =>
    hl.elim (fun h => Bool.false_ne_true (h.symm.trans hra)) (fun h => Bool.false_ne_true (hd.symm.trans h))
  rw [almApply_met hop hslot, if_neg received, if_neg raised]

theorem State.almApply_raises (hr : i.op ≠ .retracted) (hra : i.rated.raises = true) (hl : x.live = false)
    (hrule : s.ruleOf i.rated = some r) : s.almApply i = s.almCommit n x ((s.inClass x.raised r).apply i.rated) false := by
  rw [almApply_met hop hslot, if_neg fun c => hr c.1, if_pos ⟨hra, hl⟩, hrule, Option.elim_some]

end met

section unmet

variable (hop : i.op ≠ .settle) (hslot : s.slotOf i.rated = none)
include hop hslot

/-- An input whose identity no slot holds. -/
theorem State.almApply_unmet : s.almApply i =
    if i.op = .retracted then s.unrouted
    else (s.ruleOf i.rated).elim (if i.src = 3 ∧ i.kind = 4 then s else s.unrouted) fun r =>
      if i.rated.raises = false then s
      else s.slotFor.elim (s.almOverflow i.rated r) fun n =>
        s.almCommit n { s.slot n with st := .free } ((s.inClass (i.rated.newSlot (s.slot n).gen).raised r).apply i.rated) false := by
  unfold State.almApply
  extract_lets j ended raising
  have hj : j = i.rated := rfl
  have hr : raising = i.rated.raises := rfl
  clear_value raising j
  subst hj hr
  rw [if_neg (by rwa [AlmInput.rated_op]), hslot]
  cases s.ruleOf i.rated with
  | none => simp
  | some r =>
    cases s.slotFor <;> simp [AlmInput.newSlot]

theorem State.almApply_unrouted (h : i.op = .retracted ∨ (s.ruleOf i.rated = none ∧ ¬(i.src = 3 ∧ i.kind = 4))) :
    s.almApply i = s.unrouted := by
  rw [almApply_unmet hop hslot]
  rcases h with hr | ⟨hrule, hq⟩
  · exact if_pos hr
  · rw [hrule, Option.elim_none, if_neg hq, ite_self]

theorem State.almApply_quorum (hr : i.op ≠ .retracted) (hrule : s.ruleOf i.rated = none) (hq : i.src = 3 ∧ i.kind = 4) : s.almApply i = s := by
  rw [almApply_unmet hop hslot, if_neg hr, hrule, Option.elim_none, if_pos hq]

variable (hr : i.op ≠ .retracted) (hrule : s.ruleOf i.rated = some r)
include hr hrule

theorem State.almApply_unraised (hra : i.rated.raises = false) : s.almApply i = s := by
  rw [almApply_unmet hop hslot, if_neg hr, hrule, Option.elim_some, if_pos hra]

theorem State.almApply_takes (hra : i.rated.raises = true) (hfor : s.slotFor = some n) : s.almApply i =
    s.almCommit n { s.slot n with st := .free } ((s.inClass (i.rated.newSlot (s.slot n).gen).raised r).apply i.rated) false := by
  rw [almApply_unmet hop hslot, if_neg hr, hrule, Option.elim_some, if_neg (ne_false_of_eq_true hra), hfor, Option.elim_some]

theorem State.almApply_overflows (hra : i.rated.raises = true) (hfor : s.slotFor = none) : s.almApply i = s.almOverflow i.rated r := by
  rw [almApply_unmet hop hslot, if_neg hr, hrule, Option.elim_some, if_neg (ne_false_of_eq_true hra), hfor, Option.elim_none]

end unmet

/-! ### The next input of the ALM channel -/

/-- The next input is taken and counted. -/
def State.inputTaken (s : State) (rest : List AlmInput) : State :=
  (s.modAlm fun a => { a with input := rest }).count (Reg.ALM_CNT_LO 0)

theorem State.slot_inputTaken (s : State) (rest : List AlmInput) (k : Nat) : (s.inputTaken rest).slot k = s.slot k := rfl

theorem alarmInputRow_none (h : s.alm.input = []) : alarmInputRow s = s := by
  rw [alarmInputRow, h]

theorem alarmInputRow_cons {rest : List AlmInput} (h : s.alm.input = i :: rest) : alarmInputRow s =
    if s.bit Reg.ALM_CTRL 0 = false then s.inputTaken rest
    else if s.isActive = false then (s.inputTaken rest).almReplay i
    else (s.inputTaken rest).almApply i := by
  simp [alarmInputRow, h, State.inputTaken]

/-- Settles O39: the unit's own conditions first, then the case of an input whose identity a slot holds, and of one that none holds. -/
theorem alarmInputsMeetSlots : Obligations.AlarmInputsMeetSlots := by
  unfold Obligations.AlarmInputsMeetSlots
  intro s
  have answer {u : State} (h : alarmInputRow s = u) : Answers .alarmInput s u := h ▸ rfl
  refine ⟨fun h => answer (alarmInputRow_none h), ?_⟩
  intro i rest h s1 j raising moved
  have row := alarmInputRow_cons h
  refine ⟨fun h0 => answer (row.trans (if_pos h0)),
    fun h0 ha => answer (row.trans ((if_neg (ne_false_of_eq_true h0)).trans (if_pos ha))), fun h0 ha hop => ?_⟩
  have applied {u : State} (hu : s1.almApply i = u) : Answers .alarmInput s u :=
    answer ((row.trans ((if_neg (ne_false_of_eq_true h0)).trans (if_neg (ne_false_of_eq_true ha)))).trans hu)
  have commit (n : Nat) (old new : AlmSlot) : moved (s1.almCommit n old new false) n new := s1.slot_almCommit n old new false
  have gen (n : Nat) (old new : AlmSlot) : ((s1.almCommit n old (new.apply j) false).slot n).gen = new.gen :=
    (AlmSlot.gen_of_marked (s1.slot_almCommit n old _ false).1).trans (AlmSlot.apply_gen _ _)
  refine ⟨fun n x hslot => ⟨fun hr hid => applied (State.almApply_unreceived hop hslot hr hid),
      fun hid hl => ⟨_, applied (State.almApply_moves hop hslot hid hl), commit _ _ _⟩,
      fun hr hra hl r hrule => ⟨_, applied (State.almApply_raises hop hslot hr hra hl hrule), commit _ _ _, gen _ _ _⟩⟩,
    fun hslot => ⟨fun hu => applied (State.almApply_unrouted hop hslot hu),
      fun hr hrule h3 h4 => applied (State.almApply_quorum hop hslot hr hrule ⟨h3, h4⟩),
      fun r hr hrule => ⟨fun hra => applied (State.almApply_unraised hop hslot hr hrule hra),
        fun n hra hfor => ⟨_, applied (State.almApply_takes hop hslot hr hrule hra hfor), commit _ _ _, gen _ _ _⟩,
        fun hra hfor => applied (State.almApply_overflows hop hslot hr hrule hra hfor)⟩⟩⟩

end Sys2Proof.Machine
end

section
/-! SUPPORT. Acknowledgements, host alarms and the pulses of the lighthouse pins (R270, R277, R279, R297). -/

namespace Sys2Proof.Machine

variable {s : State} {v : Word} {n gen p : Nat}

/-! ### Acknowledgements (R277) -/

/-- A slot that an acknowledgement has been accepted for. -/
def AlmSlot.acknowledged (x : AlmSlot) : AlmSlot :=
  if x.clearPend ∨ x.overflow then { x with acked := true, st := .cleared, clearHeld := false } else { x with acked := true }

@[simp] theorem AlmSlot.acknowledged_acked (x : AlmSlot) : x.acknowledged.acked = true := (apply_ite AlmSlot.acked _ _ _).trans (ite_self _)

theorem AlmSlot.acknowledged_st (x : AlmSlot) : x.acknowledged.st = if x.clearPend = true ∨ x.overflow = true then .cleared else x.st :=
  apply_ite AlmSlot.st _ _ _

theorem AlmSlot.acked_of_marked {x y : AlmSlot} (h : x.marked y = y) : x.acked = y.acked := by
  rw [← h]
  rfl

theorem AlmSlot.st_of_marked {x y : AlmSlot} (h : x.marked y = y) : x.st = y.st := by
  rw [← h]
  rfl

theorem State.almAck_inactive (h : (s.slot n).live = false ∨ s.isActive = false) : s.almAck n gen = (s, 2) :=
  if_pos (by simpa using h)

theorem State.almAck_active (hl : (s.slot n).live = true) (ha : s.isActive = true) : s.almAck n gen =
    if (s.slot n).gen ≠ gen then ((s.count (Reg.ALM_CNT_LO 7)).event Reg.ALM_EVT 3, 1)
    else ((s.count (Reg.ALM_CNT_LO 6)).almCommit n (s.slot n) (s.slot n).acknowledged true, 0) :=
  if_neg (by simp [hl, ha])

/-- The result code of an acknowledgement. -/
theorem State.almAck_code (s : State) (n gen : Nat) : (s.almAck n gen).2 =
    if (s.slot n).live = false ∨ s.isActive = false then 2 else if (s.slot n).gen ≠ gen then 1 else 0 := by
  split
  next h => rw [almAck_inactive h]
  next h =>
    rw [not_or, Bool.not_eq_false, Bool.not_eq_false] at h
    rw [almAck_active h.1 h.2]
    exact apply_ite Prod.snd _ _ _

/-! ### Pulses (R279) -/

theorem State.pinDrive_pulse (s : State) (p n : Nat) :
    (nth ({} : Pin) (s.pinDrive p).alm.pins n).pulse = (nth ({} : Pin) s.alm.pins n).pulse := by
  unfold State.pinDrive
  extract_lets on high old s1
  have h1 : (nth ({} : Pin) s1.alm.pins n).pulse = (nth ({} : Pin) s.alm.pins n).pulse := by
    refine (congrArg Pin.pulse (nth_modify ({} : Pin) s.alm.pins p n _)).trans ?_
    split <;> rfl
  split <;> exact h1

theorem State.pinsDrive_pulse (s : State) (n : Nat) :
    (nth ({} : Pin) s.pinsDrive.alm.pins n).pulse = (nth ({} : Pin) s.alm.pins n).pulse := by
  unfold State.pinsDrive
  split
  · rfl
  · exact List.foldlRecOn (motive := fun t : State => (nth ({} : Pin) t.alm.pins n).pulse = (nth ({} : Pin) s.alm.pins n).pulse) _ _ rfl
      fun t ht p _ => (t.pinDrive_pulse p n).trans ht

/-- The pin no longer pulses. -/
def State.pulseEnded (s : State) (p : Nat) : State := s.modAlm fun a => { a with pins := a.pins.modify p fun y => { y with pulse := none } }

theorem State.pulseEnded_pulse (s : State) (p : Nat) : (nth ({} : Pin) (s.pulseEnded p).alm.pins p).pulse = none := by
  refine (congrArg Pin.pulse (nth_modify ({} : Pin) s.alm.pins p p _)).trans ?_
  split
  next => rfl
  next h => rw [nth, List.getElem?_eq_none (by simpa using h)]; rfl

theorem lhPulseEndRow_none (h : (nth ({} : Pin) s.alm.pins p).pulse = none) : lhPulseEndRow p s = s := by
  rw [lhPulseEndRow, h]

theorem lhPulseEndRow_some {t : Nat} (h : (nth ({} : Pin) s.alm.pins p).pulse = some t) :
    lhPulseEndRow p s = ((s.advance t).pulseEnded p).pinsDrive := by
  rw [lhPulseEndRow, h]
  rfl

/-! ### Writes of ALM_ACK and ALM_HOST (R297) -/

theorem almAckGoRow_go (h : v.getLsbD 31 = true) : almAckGoRow v s =
    (s.almAck (bitsOf v.toNat 0 11) (s.reg Reg.ALM_ACK_GEN).toNat).1.setReg Reg.ALM_ACK_RES
      (BitVec.ofNat 32 (2 ^ 31 + (s.almAck (bitsOf v.toNat 0 11) (s.reg Reg.ALM_ACK_GEN).toNat).2)) := if_pos h

theorem almAckGoRow_idle (h : v.getLsbD 31 = false) : almAckGoRow v s = s := if_neg (Bool.eq_false_iff.mp h)

theorem almHostGoRow_eq : almHostGoRow v s =
    if bitOf v.toNat 31 = false ∨ bitsOf v.toNat 16 4 = 0 then s
    else if bitOf v.toNat 22 = true then s.almHostInput (bitsOf v.toNat 0 16) (bitsOf v.toNat 16 4) 0 true
    else if bitsOf v.toNat 20 2 = 1 ∨ bitsOf v.toNat 20 2 = 2 then
      s.almHostInput (bitsOf v.toNat 0 16) (bitsOf v.toNat 16 4) (bitsOf v.toNat 20 2) false
    else s := by
  simp [almHostGoRow]

theorem almHostGoRow_idle (h : bitOf v.toNat 31 = false ∨ bitsOf v.toNat 16 4 = 0 ∨
    (bitOf v.toNat 22 = false ∧ bitsOf v.toNat 20 2 ≠ 1 ∧ bitsOf v.toNat 20 2 ≠ 2)) : almHostGoRow v s = s := by
  rw [almHostGoRow_eq]
  rcases h with h | h | ⟨h, h1, h2⟩
  · exact if_pos (.inl h)
  · exact if_pos (.inr h)
  · rw [if_neg (ne_true_of_eq_false h), if_neg (not_or.mpr ⟨h1, h2⟩), ite_self]

section go

variable (hgo : bitOf v.toNat 31 = true) (hk : bitsOf v.toNat 16 4 ≠ 0)
include hgo hk

theorem almHostGoRow_clear (hc : bitOf v.toNat 22 = true) :
    almHostGoRow v s = s.almHostInput (bitsOf v.toNat 0 16) (bitsOf v.toNat 16 4) 0 true := by
  rw [almHostGoRow_eq, if_neg (not_or.mpr ⟨ne_false_of_eq_true hgo, hk⟩), if_pos hc]

theorem almHostGoRow_raise (hc : bitOf v.toNat 22 = false) (hsev : bitsOf v.toNat 20 2 = 1 ∨ bitsOf v.toNat 20 2 = 2) :
    almHostGoRow v s = s.almHostInput (bitsOf v.toNat 0 16) (bitsOf v.toNat 16 4) (bitsOf v.toNat 20 2) false := by
  rw [almHostGoRow_eq, if_neg (not_or.mpr ⟨ne_false_of_eq_true hgo, hk⟩), if_neg (ne_true_of_eq_false hc), if_pos hsev]

end go

/-- Settles O41: the cases of each of the six commands. -/
theorem acknowledgementsAndHostAlarms : Obligations.AcknowledgementsAndHostAlarms := by
  unfold Obligations.AcknowledgementsAndHostAlarms
  intro n gen v s x
  have ack {u : State} (h : (s.almAck n gen).1 = u) : Answers (.alarmAcknowledge n gen) s u := h ▸ rfl
  have pulse {u : State} (h : lhPulseEndRow n s = u) : Answers (.lhPulseEnd n) s u := h ▸ rfl
  refine ⟨fun h => ack (congrArg Prod.fst (State.almAck_inactive h)), fun hl ha hg => ?_, fun hl ha hg => ?_, fun hR => ?_, fun m hm => ?_,
    fun hR => ?_, fun m hm => ?_, fun h => pulse (lhPulseEndRow_none h), fun t h => ⟨_, pulse (lhPulseEndRow_some h), ?_, ?_, fun k => ?_⟩⟩
  · exact ack (congrArg Prod.fst ((State.almAck_active hl ha).trans (if_pos hg)))
  · obtain ⟨hset, hothers⟩ := (s.count (Reg.ALM_CNT_LO 6)).slot_almCommit n x x.acknowledged true
    exact ⟨_, ack (congrArg Prod.fst ((State.almAck_active hl ha).trans (if_neg (not_not_intro hg)))),
      (AlmSlot.acked_of_marked hset).trans x.acknowledged_acked, (AlmSlot.st_of_marked hset).trans x.acknowledged_st, hothers⟩
  · have write {u : State} (h : almAckGoRow v s = u) : Answers (.almAckGo v) s u :=
      h ▸ congrArg (fun t => Host.Outcome.next (State.after s t)) (State.busWrite_reaches hR _)
    refine ⟨fun h => write (almAckGoRow_idle h), fun h => ⟨_, write (almAckGoRow_go h), rfl, ?_⟩⟩
    rw [State.reg_setReg_self, State.almAck_code]
  · exact congrArg (fun t => Host.Outcome.next (State.after s t)) (State.runManifest_starts hm _)
  · have write {u : State} (h : almHostGoRow v s = u) : Answers (.almHostGo v) s u :=
      h ▸ congrArg (fun t => Host.Outcome.next (State.after s t)) (State.busWrite_reaches hR _)
    exact ⟨fun h => write (almHostGoRow_idle h), fun hgo hk hc => ⟨_, write (almHostGoRow_clear hgo hk hc), rfl⟩,
      fun hgo hk hc hsev => ⟨_, write (almHostGoRow_raise hgo hk hc hsev), rfl⟩⟩
  · exact congrArg (fun t => Host.Outcome.next (State.after s t)) (State.runManifest_starts hm _)
  · exact (State.pinsDrive_pulse _ n).trans (State.pulseEnded_pulse _ n)
  · exact (State.pinsDrive_calm (.refl _)).dt.trans (s.advance_dt t)
  · rw [← lhPulseEndRow_some h]
    exact (lhPulseEndRow_slotkept (.refl s) n).slot k

end Sys2Proof.Machine
end

section
/-! SUPPORT. The alarm messages (R283, R285): what sending one leaves in its destination. -/

namespace Sys2Proof.Machine

variable {s : State} {d : Nat}

/-- Destination d (R283). -/
def State.almDest (s : State) (d : Nat) : AlmDest := nth ({} : AlmDest) s.alm.dest d

theorem State.almDest_advance (s : State) (t d : Nat) : (s.advance t).almDest d = s.almDest d :=
  congrArg (nth ({} : AlmDest) · d) (State.advance_destkept (.refl s) t).alm_dest

/-- A destination once a message of a TYPE has been sent to it, whose repeat copies, if it has any, are to come. -/
def AlmDest.sent (x : AlmDest) (typ t : Nat) (copies : List AlmRepeat) : AlmDest :=
  { x with seq := (x.seq + 1) % 2 ^ 32, entries := if typ = 0 then x.entries else [], lastAt := t, handover := false, tableFull := false,
           repeats := x.repeats ++ copies }

/-- A message changes the destination that it is sent to, and no other. -/
theorem State.almDest_almSendMsg (s : State) {d : Nat} (hd : d < s.alm.dest.length) (typ : Nat) (l : List (List Byte)) :
    (∃ copies, (s.almSendMsg d typ l).almDest d = (s.almDest d).sent typ s.dt copies) ∧
      ∀ e, e ≠ d → (s.almSendMsg d typ l).almDest e = s.almDest e := by
  unfold State.almSendMsg
  extract_lets x seq flags pl rep s1 s2
  have h1 : s1.alm.dest = s.alm.dest := (State.mirrorItem_destkept (.refl s) _ _).alm_dest
  have h2 (k e : Nat) : ((s2.count k).almCopy d pl).almDest e = s2.almDest e :=
    congrArg (nth ({} : AlmDest) · e) (State.almCopy_destkept (State.count_destkept (.refl s2) k) d pl).alm_dest
  refine ⟨⟨if rep = 0 then [] else [⟨pl, rep, s.dt⟩], ?_⟩, fun e he => ?_⟩
  · rw [h2]
    refine (nth_modify_self ({} : AlmDest) s1.alm.dest d _ (h1 ▸ hd)).trans ?_
    rw [h1]
    rfl
  · rw [h2]
    refine (nth_modify_ne ({} : AlmDest) s1.alm.dest _ (Ne.symm he)).trans ?_
    rw [h1]
    rfl

/-! ### Closing (R283) -/

theorem almMessageCloseRow_idle (h : (s.almDest d).entries = []) : almMessageCloseRow d s = s :=
  if_pos (List.isEmpty_iff.mpr h)

theorem almMessageCloseRow_closes (h : (s.almDest d).entries ≠ []) : almMessageCloseRow d s =
    (s.advance ((s.almDest d).firstAt + 10 * subPerUs)).almSendMsg d 1 (s.almDest d).entries := by
  refine (if_neg (mt List.isEmpty_iff.mp h)).trans ?_
  have kept := s.almDest_advance ((s.almDest d).firstAt + 10 * subPerUs) d
  have hne := kept ▸ h
  refine (if_neg (mt List.isEmpty_iff.mp hne)).trans ?_
  exact congrArg (fun x : AlmDest => (s.advance ((s.almDest d).firstAt + 10 * subPerUs)).almSendMsg d 1 x.entries) kept

/-- Closing sends the message gathered at its moment. -/
theorem almDest_almMessageCloseRow (hd : d < s.alm.dest.length) (h : (s.almDest d).entries ≠ []) : ∃ copies,
    (almMessageCloseRow d s).almDest d = (s.almDest d).sent 1 (max s.dt ((s.almDest d).firstAt + 10 * subPerUs)) copies := by
  rw [almMessageCloseRow_closes h]
  generalize (s.almDest d).firstAt + 10 * subPerUs = t
  have hlen : d < (s.advance t).alm.dest.length := by rwa [(State.advance_destkept (.refl s) t).alm_dest]
  obtain ⟨⟨copies, hsent⟩, -⟩ := (s.advance t).almDest_almSendMsg hlen 1 (s.almDest d).entries
  rw [s.almDest_advance, s.advance_dt] at hsent
  exact ⟨copies, hsent⟩

/-! ### Repeat copies (R285) -/

theorem almMessageRepeatRow_idle (h : (s.almDest d).repeats = []) : almMessageRepeatRow d s = s := by
  rw [State.almDest] at h
  rw [almMessageRepeatRow, h]

/-- What is left of a message to repeat once a copy has been sent at a time. -/
def AlmRepeat.rest (r : AlmRepeat) (t : Nat) : List AlmRepeat := if r.left ≤ 1 then [] else [⟨r.payload, r.left - 1, t⟩]

/-- REPEAT_GAP of a destination (R285). -/
def State.repeatGap (s : State) (d : Nat) : Nat := cfgNum s.cfg.active 8 3 (32 * d + 2) 2 * subPerUs

/-- The state with other messages to repeat to a destination. -/
def State.setRepeats (s : State) (d : Nat) (l : List AlmRepeat) : State :=
  s.modAlm fun a => { a with dest := a.dest.modify d fun x => { x with repeats := l } }

theorem State.almDest_setRepeats {t : State} (hd : d < s.alm.dest.length) (ht : t.alm.dest = s.alm.dest) (l : List AlmRepeat) :
    (t.setRepeats d l).almDest d = { s.almDest d with repeats := l } := by
  refine (nth_modify_self ({} : AlmDest) t.alm.dest d _ (ht ▸ hd)).trans ?_
  rw [ht]
  rfl

theorem almMessageRepeatRow_copies {r : AlmRepeat} {rs : List AlmRepeat} (h : (s.almDest d).repeats = r :: rs) :
    ∃ pl, almMessageRepeatRow d s = ((s.advance (r.at_ + s.repeatGap d)).setRepeats d
      (rs ++ r.rest (max s.dt (r.at_ + s.repeatGap d)))).almCopy d pl := by
  rw [State.almDest] at h
  rw [almMessageRepeatRow, h, ← State.advance_dt]
  exact ⟨_, rfl⟩

/-- A repeat copy changes of its destination what is still to be repeated. -/
theorem almDest_almMessageRepeatRow (hd : d < s.alm.dest.length) {r : AlmRepeat} {rs : List AlmRepeat} (h : (s.almDest d).repeats = r :: rs) :
    (almMessageRepeatRow d s).almDest d = { s.almDest d with repeats := rs ++ r.rest (max s.dt (r.at_ + s.repeatGap d)) } := by
  obtain ⟨pl, hrow⟩ := almMessageRepeatRow_copies h
  rw [hrow, ← State.almDest_setRepeats hd (State.advance_destkept (.refl s) (r.at_ + s.repeatGap d)).alm_dest]
  exact congrArg (nth ({} : AlmDest) · d) (State.almCopy_destkept (.refl _) d pl).alm_dest

/-! ### Keepalives (R285) -/

/-- Whether a keepalive to destination d is due. -/
def State.keepaliveDue (s : State) (d : Nat) : Bool :=
  s.destEn d && s.isActive && !s.isStopped && decide (s.fld Reg.ALM_KEEPALIVE 0 16 ≠ 0) && decide (s.tb.grid.rate ≠ 0) &&
    decide ((s.almDest d).lastAt + s.fld Reg.ALM_KEEPALIVE 0 16 * subPerMs ≤ s.tb.lastInstant)

theorem almKeepaliveRow_eq : almKeepaliveRow d s = if d < 4 ∧ s.keepaliveDue d = true then s.almSendMsg d 0 [] else s := by
  simp only [State.keepaliveDue, Bool.and_eq_true, decide_eq_true_eq, and_assoc]
  rfl

/-- Settles O42: the two cases of each of the three commands. -/
theorem alarmMessagesSent : Obligations.AlarmMessagesSent := by
  unfold Obligations.AlarmMessagesSent
  intro d s x k due
  have close {u : State} (h : almMessageCloseRow d s = u) : Answers (.almMessageClose d) s u := h ▸ rfl
  have rep {u : State} (h : almMessageRepeatRow d s = u) : Answers (.almMessageRepeat d) s u := h ▸ rfl
  have keep {u : State} (h : almKeepaliveRow d s = u) : Answers (.almKeepalive d) s u := h ▸ rfl
  refine ⟨fun h => close (almMessageCloseRow_idle h), fun hd h => ?_, fun h => rep (almMessageRepeatRow_idle h), fun r rs hd h => ?_,
    fun h => keep ?_, fun h4 hd h => ?_⟩
  · obtain ⟨copies, hsent⟩ := almDest_almMessageCloseRow hd h
    exact ⟨_, close rfl, congrArg AlmDest.seq hsent, congrArg AlmDest.entries hsent, congrArg AlmDest.lastAt hsent⟩
  · have hx := almDest_almMessageRepeatRow hd h
    exact ⟨_, rep rfl, (congrArg AlmDest.seq hx).trans rfl, (congrArg AlmDest.repeats hx).trans rfl⟩
  · refine almKeepaliveRow_eq.trans (if_neg fun ⟨h4, hdue⟩ => h.elim (Nat.not_le.mpr h4) fun hn => ?_)
    exact Bool.false_ne_true (hn.symm.trans hdue)
  · obtain ⟨⟨copies, hsent⟩, hothers⟩ := s.almDest_almSendMsg hd 0 []
    exact ⟨_, keep (almKeepaliveRow_eq.trans (if_pos ⟨h4, h⟩)), congrArg AlmDest.seq hsent, congrArg AlmDest.lastAt hsent,
      congrArg AlmDest.handover hsent, (congrArg AlmDest.entries hsent).trans rfl, hothers⟩

end Sys2Proof.Machine
end

section
/-! SUPPORT. What the front end does with a sample set leaves the sets held before as they are (R305, R311): the steps of FE_MCLK, the
tracker, the changes at a mark and the ping-pong banks. -/

namespace Sys2Proof.Machine

variable {r s : State}

/-! ### Channels and the steps of FE_MCLK (R300 to R304) -/

/-- A change of the front end that leaves its sets and its mode. -/
theorem HistKept.modFe (h : HistKept r s) {f : Fe → Fe} (hhist : ∀ e, (f e).hist = e.hist) (hscs : ∀ e, (f e).scs = e.scs) :
    HistKept r (s.modFe f) := h.upd (hhist s.fe) (hscs s.fe)

theorem HistKept.unitFault (h : HistKept r s) (n : Nat) : HistKept r (s.unitFault n) :=
  have hfe : (s.unitFault n).fe = s.fe := (State.unitFault_calm (.refl s) n).fe
  h.upd (congrArg Fe.hist hfe) (congrArg Fe.scs hfe)

theorem State.chanCondition_histkept (h : HistKept r s) (ch : Nat) (clip on : Bool) : HistKept r (s.chanCondition ch clip on) := by
  unfold State.chanCondition
  extract_lets k was s1
  have h1 : HistKept r s1 := h.modFe (fun _ => rfl) fun _ => rfl
  have hcount (o i lo : Nat) : HistKept r ((s1.event o i).count lo) := State.count_histkept (State.event_histkept h1 o i) lo
  exact .ite (.ite (hcount _ _ _) ((hcount _ _ _).unitFault 10)) h1

theorem State.chanWatch_histkept (h : HistKept r s) (clip : Bool) (ch : Nat) : HistKept r (s.chanWatch clip ch) := by
  unfold State.chanWatch
  extract_lets k on
  exact .ite h (State.chanCondition_histkept h ch clip on)

theorem State.chansWatch_histkept (h : HistKept r s) : HistKept r s.chansWatch :=
  .foldl (fun _ c hx => State.chanWatch_histkept (State.chanWatch_histkept hx true c) false c) _ h

theorem State.freshTap_histkept (h : HistKept r s) (t n : Nat) : HistKept r (s.freshTap t n) := by
  unfold State.freshTap
  extract_lets scs
  exact .ite h (h.modFe (fun _ => rfl) fun _ => rfl)

theorem State.chanTap_histkept (h : HistKept r s) (t n : Nat) : HistKept r (s.chanTap t n) := by
  unfold State.chanTap
  extract_lets scs s1
  have h1 : HistKept r s1 := State.capRaw_histkept h _ _ _
  exact .ite h (h1.modFe (fun _ => rfl) fun _ => rfl)

theorem State.feEdge_histkept (h : HistKept r s) (pins : List (List (Nat × Bool))) : HistKept r (s.feEdge pins) := by
  unfold State.feEdge
  extract_lets t n pin bit
  refine State.chanTap_histkept (State.freshTap_histkept (State.chansWatch_histkept ?_) t n) t n
  exact h.modFe (fun _ => rfl) fun _ => rfl

theorem State.feRun_histkept (h : HistKept r s) (pins : List (List (Nat × Bool))) (till : Nat) : HistKept r (s.feRun pins till) := by
  unfold State.feRun
  exact HistKept.modFe (.foldl (fun _ _ hx => State.feEdge_histkept hx pins) _ h) (fun _ => rfl) fun _ => rfl

/-! ### What applies at a mark (R308 to R310, R314, R316) -/

theorem State.trackerAt_histkept (h : HistKept r s) (label n : Nat) (m : FeMark) : HistKept r (s.trackerAt label n m) := by
  unfold State.trackerAt
  extract_lets c refMin rs a st fnom raw fm out s1 s2 s3
  have h1 : HistKept r s1 := h.modFe (fun _ => rfl) fun _ => rfl
  have h2 : HistKept r s2 := .ite (State.count_histkept (State.event_histkept h1 _ _) _) h1
  have h3 : HistKept r s3 := .ite (State.event_histkept h2 _ _) h2
  exact State.setTs_histkept (State.setReg_histkept h3 _ _) _ _

theorem State.calSwapAt_histkept (h : HistKept r s) (label : Nat) : HistKept r (s.calSwapAt label).1 := by
  unfold State.calSwapAt
  split
  · exact h
  · extract_lets s1 gen s2
    have h1 : HistKept r s1 := .foldl (fun _ c hx => State.calExchange_histkept hx c) _ h
    have h2 : HistKept r s2 := by
      unfold s2
      refine State.count_histkept (State.event_histkept ?_ _ _) _
      exact HistKept.modFe (State.setReg_histkept h1 _ _) (fun _ => rfl) fun _ => rfl
    exact .iteFst h (State.logRaise_histkept h2 _ _ _ _)

theorem State.ppApply_histkept (h : HistKept r s) : HistKept r s.ppApply :=
  .foldl (fun _ _ hx => State.setReg_histkept hx _ _) _ h

theorem State.bankSwap_histkept (h : HistKept r s) (g : Nat) : HistKept r (s.bankSwap g) := by
  unfold State.bankSwap
  extract_lets was s1
  have h1 : HistKept r s1 := h.modFe (fun _ => rfl) fun _ => rfl
  exact .ite (State.count_histkept (State.event_histkept h1 _ _) _) h1

theorem State.capModeChange_histkept (h : HistKept r s) : HistKept r s.capModeChange :=
  .foldl (fun _ c hx => .ite (State.modCap_histkept (.foldl (fun _ o hy => State.capClose_histkept hy c o) _ hx) c _) hx) _ h

/-- The section of ACTIVE taken into force (R316) may change the mode, and leaves the sets that are held. -/
theorem State.feAdopt_hist (s : State) (label : Nat) : (s.feAdopt label).fe.hist = s.fe.hist := by
  unfold State.feAdopt
  split
  · rfl
  extract_lets old new scs moded till s1
  have h1 : s1.fe.hist = s.fe.hist := (State.ppApply_histkept (.refl s)).fe_hist
  split
  · refine Eq.trans (State.capModeChange_histkept ?_).fe_hist h1
    exact .foldl (fun _ g hx => .ite hx (State.bankSwap_histkept hx g)) _ (.refl s1)
  · exact h1

theorem State.bankWrite_histkept (h : HistKept r s) (g label per : Nat) (mark : Bool) (vals : List Word) :
    HistKept r (s.bankWrite g label per mark vals) := by
  unfold State.bankWrite
  extract_lets k base words s1
  have h1 : HistKept r s1 := h.modFe (fun _ => rfl) fun _ => rfl
  exact .ite (State.bankSwap_histkept h1 g) h1

/-! ### Sample sets (R311) -/

/-- A sample set that is due joins the sets held, labelled as the set before it gives. -/
theorem feSampleSetRow_hist (hfe : s.hasFe = true) (hfen : s.unitFenced 10 = false) (hen : s.bit Reg.FE_CTRL 0 = true)
    (hset : s.cfg.activeValid = true) (release : Nat) (pins : List (List (Nat × Bool))) (m : FeMark) :
    ∃ st : FeSet, (feSampleSetRow release pins m s).fe.hist = (st :: s.fe.hist).take 8192 ∧ st.label = s.feLabel release ∧
      st.release = s.feRelease release := by
  generalize hu : feSampleSetRow release pins m s = u
  rw [feSampleSetRow, if_neg (by simp [hfe, hfen, hen, hset])] at hu
  extract_lets label rel s0 mark s1 sw s2 s3 vals f set s4 n pos s5 half at hu
  have h0 : HistKept s s0 := State.feRun_histkept (State.advance_histkept (.refl s) rel) pins rel
  have h1 : s1.fe.hist = s.fe.hist := by
    unfold s1
    split
    · exact (State.feAdopt_hist _ label).trans (State.cycleClose_histkept h0 label).fe_hist
    · exact h0.fe_hist
  have hsw : HistKept s1 sw.1 :=
    .iteFst (State.calSwapAt_histkept (State.trackerAt_histkept (.refl s1) _ _ _) label) (.refl s1)
  have h2 : HistKept s1 s2 := .ite (State.feDetect_histkept hsw _ _) hsw
  have h3 : HistKept s1 s3 := h2.modFe (fun _ => rfl) fun _ => rfl
  have h4 : HistKept s1 s4 := .foldl (fun _ g hx => State.bankWrite_histkept hx g label f.per mark vals) _ h3
  have h5 : s5.fe.hist = (set :: s.fe.hist).take 8192 := congrArg (fun l => (set :: l).take 8192) (h4.fe_hist.trans h1)
  have h6 : u.fe.hist = s5.fe.hist := by
    subst hu
    split
    · exact (State.capHrms_histkept (.refl s5) _ _ _ _).fe_hist
    · rfl
  exact ⟨set, h6.trans h5, rfl, rfl⟩

theorem feSampleSetRow_idle (h : ¬(s.hasFe = true ∧ s.unitFenced 10 = false ∧ s.bit Reg.FE_CTRL 0 = true ∧ s.cfg.activeValid = true))
    (release : Nat) (pins : List (List (Nat × Bool))) (m : FeMark) : feSampleSetRow release pins m s = s := by
  refine if_pos (by_contra fun hn => h ?_)
  simpa using hn

theorem State.feLabel_next {l : Nat} (h : s.fe.next = some l) (release : Nat) : s.feLabel release = l := by
  rw [State.feLabel, h]

theorem State.feLabel_first (h : s.fe.next = none) (release : Nat) :
    s.feLabel release = release - feG (s.feScsAt (release - feG s.fe.scs)) := by
  rw [State.feLabel, h]

end Sys2Proof.Machine
end

section
/-! SUPPORT. The commands of the front end: enable, channel conditions and the calibration swap (R301, R302, R314, R330). -/

namespace Sys2Proof.Machine

variable {s : State} {v : Word}

/-! ### EN (R330) -/

theorem putBits_zero_one (w : Word) (b : Bool) : (putBits w 0 1 (b2n b)).getLsbD 0 = b := by
  cases b
  · exact putBits_bit_zero w (by decide)
  · simp [putBits, b2n]

section en

variable (hfe : s.hasFe = true) (h1 : v.getLsbD 1 = false) (hen : v.getLsbD 0 = true) (hoff : s.bit Reg.FE_CTRL 0 = false)
include hfe h1 hen hoff

/-- EN with an active set: the chain starts with no set held. -/
theorem feCtrlWrite_starts (hset : s.cfg.activeValid = true) :
    ((feCtrlWrite v s).reg Reg.FE_CTRL).getLsbD 0 = true ∧ (feCtrlWrite v s).fe.mclk = true ∧ (feCtrlWrite v s).fe.hist = [] ∧
      (feCtrlWrite v s).fe.pos = 0 ∧ (feCtrlWrite v s).fe.startedAt = s.dt ∧ (feCtrlWrite v s).fe.edge = firstEdge s.dt ∧
      (feCtrlWrite v s).fe.next = none ∧ ∀ k ∈ (feCtrlWrite v s).fe.chan, k.clip = false ∧ k.stuck = false := by
  generalize hu : feCtrlWrite v s = u
  simp only [feCtrlWrite, hfe, h1, hen, hoff, hset, Bool.not_true, Bool.false_eq_true, if_false, Bool.and_true, Bool.not_false,
    and_self, if_true] at hu
  subst hu
  refine ⟨?_, rfl, rfl, rfl, rfl, rfl, rfl, fun k hk => ?_⟩
  · rw [State.reg_modFe, State.reg_setReg, if_pos rfl]
    exact putBits_zero_one _ true
  · obtain ⟨x, -, rfl⟩ := List.mem_map.mp hk
    exact ⟨rfl, rfl⟩

/-- EN without an active set stays 0, and the front end is as it was. -/
theorem feCtrlWrite_without_set (hset : s.cfg.activeValid = false) :
    ((feCtrlWrite v s).reg Reg.FE_CTRL).getLsbD 0 = false ∧ (feCtrlWrite v s).fe = s.fe := by
  generalize hu : feCtrlWrite v s = u
  simp only [feCtrlWrite, hfe, h1, hen, hoff, hset, Bool.not_true, Bool.false_eq_true, if_false, Bool.and_false, false_and,
    and_false] at hu
  subst hu
  refine ⟨?_, rfl⟩
  rw [State.reg_setReg, if_pos rfl]
  exact putBits_zero_one _ false

end en

theorem answers_feEnWrite (hR : s.Reaches Reg.FE_CTRL v) : Answers (.feEnWrite v) s (feCtrlWrite v s) :=
  congrArg (fun t => Host.Outcome.next (State.after s t)) (State.busWrite_reaches hR _)

/-! ### Channel conditions (R301, R302) -/

section condition

variable {j : Nat} {clip on : Bool}

theorem feChannelConditionRow_unseen (h : s.chanOn j = false ∨ (s.fe.stream j).shows clip ≠ on) :
    feChannelConditionRow j clip on s = s := by
  refine if_pos ?_
  rcases h with h | h <;> simp [h]

theorem feChannelConditionRow_seen (hfe : s.hasFe = true) (hfen : s.unitFenced 10 = false) (hj : j < 24)
    (hen : s.bit Reg.FE_CTRL 0 = true) (hon : s.chanOn j = true) (hsh : (s.fe.stream j).shows clip = on) :
    feChannelConditionRow j clip on s = s.chanCondition j clip on :=
  if_neg (by simp [hfe, hfen, hj, hen, hon, hsh])

/-- Channel j with a condition as told. -/
def State.chanMarked (s : State) (j : Nat) (clip on : Bool) : State :=
  s.modChan j fun k => if clip then { k with clip := on } else { k with stuck := on }

/-- Whether a condition holds on channel j. -/
def State.chanHas (s : State) (j : Nat) (clip : Bool) : Bool := if clip then (nth {} s.fe.chan j).clip else (nth {} s.fe.chan j).stuck

/-- A condition that ends, or that held before, raises nothing. -/
theorem State.chanCondition_quiet (h : on = false ∨ s.chanHas j clip = true) : s.chanCondition j clip on = s.chanMarked j clip on := by
  refine if_neg fun ⟨h1, h2⟩ => ?_
  rcases h with h | h
  · exact Bool.false_ne_true (h.symm.trans h1)
  · rw [State.chanHas] at h
    simp [h] at h2

theorem State.chanCondition_begins (h : s.chanHas j clip = false) : s.chanCondition j clip true =
    if clip then ((s.chanMarked j clip true).event Reg.FE_EVT 0).count (Reg.FE_CNT_LO 1)
    else (((s.chanMarked j clip true).event Reg.FE_EVT 1).count (Reg.FE_CNT_LO 2)).unitFault 10 := by
  refine if_pos ⟨rfl, ?_⟩
  rw [State.chanHas] at h
  rw [h]
  rfl

end condition

/-! ### The calibration swap (R314) -/

section swap

variable (hfe : s.hasFe = true)
include hfe

theorem feCalSwapGoRow_busy (h : s.fe.calPending ≠ none) : feCalSwapGoRow v s = s.event Reg.FE_EVT 6 := by
  have hp : s.fe.calPending.isSome = true := Option.isSome_iff_ne_none.mpr h
  simp [feCalSwapGoRow, hfe, hp]

variable (hidle : s.fe.calPending = none)
include hidle

theorem feCalSwapGoRow_nothing (h : v.getLsbD 31 = false ∨ bitsOf v.toNat 0 24 = 0) : feCalSwapGoRow v s = s := by
  simp only [feCalSwapGoRow, hfe, hidle, Option.isSome_none, Bool.not_true, Bool.false_eq_true, if_false]
  exact if_pos (by simpa only [Bool.not_eq_true'] using h)

theorem feCalSwapGoRow_go (hgo : v.getLsbD 31 = true) (hm : bitsOf v.toNat 0 24 ≠ 0) : feCalSwapGoRow v s =
    if ∀ c ∈ maskList 24 (bitsOf v.toNat 0 24), s.standbyOk c = true
    then s.modFe fun f => { f with calPending := some (BitVec.ofNat 24 (bitsOf v.toNat 0 24), s.dt) }
    else s.event Reg.FE_EVT 5 := by
  simp [feCalSwapGoRow, hfe, hidle, hgo, hm]

end swap

theorem answers_feCalSwapGo (hR : s.Reaches Reg.FE_CAL_SWAP v) : Answers (.feCalSwapGo v) s (feCalSwapGoRow v s) :=
  congrArg (fun t => Host.Outcome.next (State.after s t)) (State.busWrite_reaches hR _)

end Sys2Proof.Machine
end

section
/-! SUPPORT. The local phasor estimator (R316, R319, R322 to R328): what each look at a window comes to. -/

namespace Sys2Proof.Machine

variable {s : State} {j sec k r : Nat}

/-! ### The hand-off of a block (R137, R138) -/

theorem State.cfgchgPush_aln (s : State) (b : Nat) : (s.cfgchgPush b).aln = s.aln := by
  unfold State.cfgchgPush
  extract_lets s1
  have h1 : s1.aln = s.aln := rfl
  split
  · exact h1
  · split <;> exact h1

/-- A block handed off is the last of the alignment input queue. -/
theorem State.input_handOff (s : State) (d : DataBlock) (nan cfgchg offgrid : Bool) :
    (s.handOff d nan cfgchg offgrid).aln.input = s.aln.input ++ [d] := by
  unfold State.handOff
  extract_lets s1 s2 s3 s4
  have h2 : s2.aln = s.aln := by unfold s2; split <;> rfl
  have h3 : s3.aln = s.aln := by unfold s3; split <;> exact h2
  have h4 : s4.aln = s.aln := by
    unfold s4
    split
    · exact (State.cfgchgPush_aln _ _).trans h3
    · exact h3
  exact congrArg (fun a : Aln => a.input ++ [d]) h4

/-! ### The look at an instant (R319, R322) -/

/-- The state as the estimator looks at its buffers at a time: the completed banks are free again (R319). -/
def State.lpeLook (s : State) (r : Nat) : State := (s.advance r).modFe fun f => { f with group := f.group.map fun g => { g with held := false } }

/-- What the buffers give entry j for an instant. -/
def State.lpeGives (s : State) (j t rate : Nat) : LpeWin :=
  let set := s.fe.mapFor t
  lpeWindow (s.lpeVisible (lpeChans set j)) t
    (lpeSets (s.lpeVisible (lpeChans set j)) t (lpeM set j) (if bitOf (feCfg set) 1 then 50 else 60) rate)

/-- The instant t served for entry j, whether by a block or by a miss. -/
def State.lpeServed (s : State) (j t : Nat) : State := s.modFe fun f => { f with lpeDone := mapSet f.lpeDone j t }

theorem State.input_lpeLook (s : State) (r : Nat) : (s.lpeLook r).aln.input = s.aln.input :=
  congrArg Aln.input (State.advance_aln s r)

/-- An instant that gets no block (R328): nothing is handed off, LOCAL_MISS is set, and the instant is served. -/
theorem answers_lpeEstimate_miss {t : Nat} (h : lpeEstimateRow j sec k r s = ((s.lpeLook r).lpeServed j t).localMiss) :
    ∃ u, Answers (.lpeEstimate j sec k r) s u ∧ u.aln.input = s.aln.input ∧ (u.reg Reg.FE_EVT).getLsbD 8 = true ∧
      mapFind u.fe.lpeDone j = some t := by
  refine ⟨_, congrArg (fun t => Host.Outcome.next (State.after s t)) h, State.input_lpeLook s r, ?_,
    (mapFind_mapSet _ j j t).trans (if_pos rfl)⟩
  rw [State.localMiss, State.reg_count_ne _ (by decide) (by decide)]
  exact State.getLsbD_reg_event _ _ (by decide)

theorem lpeEstimateRow_off (h : bitOf s.idCap 1 = false ∨ s.unitFenced 11 = true ∨ s.bit Reg.FE_CTRL 0 = false ∨ 16 ≤ j) :
    lpeEstimateRow j sec k r s = s := by
  refine if_pos ?_
  simpa using h

/-- Where no bank was overwritten, none of those that a window's sets came from was. -/
theorem nth_overwritten {l : List FeGroup} (h : ∀ g ∈ l, g.overwritten = []) (i : Nat) : (nth {} l i).overwritten = [] := by
  unfold nth
  cases hi : l[i]? with
  | none => rfl
  | some g => exact h g (List.mem_of_getElem? hi)

section on

variable (hcap : bitOf s.idCap 1 = true) (hfen : s.unitFenced 11 = false) (hen : s.bit Reg.FE_CTRL 0 = true) (hj : j < 16)
include hcap hfen hen hj

theorem lpeEstimateRow_undue (h : s.rateOf sec = 0 ∨ s.rateOf sec ≤ k ∨
      lpeOn ((s.lpeLook r).fe.mapFor (instantAt (s.rateOf sec) sec k)) j = false ∨
      instantAt (s.rateOf sec) sec k ≤ (mapFind (s.lpeLook r).fe.lpeDone j).getD 0) :
    lpeEstimateRow j sec k r s = s.lpeLook r := by
  rw [lpeEstimateRow, if_neg (by simp [hcap, hfen, hen, hj]), ← State.lpeLook]
  generalize s.lpeLook r = s1 at h ⊢
  exact if_pos (by simpa only [Bool.not_eq_true'] using h)

/-- An instant that is due for entry j: what its window comes to. -/
theorem lpeEstimateRow_due {rate t : Nat} {s1 : State} (hrate : s.rateOf sec = rate) (ht : instantAt rate sec k = t) (h1 : s.lpeLook r = s1)
    (h0 : rate ≠ 0) (hk : k < rate) (hon : lpeOn (s1.fe.mapFor t) j = true) (hdone : (mapFind s1.fe.lpeDone j).getD 0 < t) :
    (s1.lpeGives j t rate = .later → lpeEstimateRow j sec k r s = s1) ∧
    (s1.lpeGives j t rate = .never → lpeEstimateRow j sec k r s = (s1.lpeServed j t).localMiss) ∧
    ∀ w, s1.lpeGives j t rate = .ready w →
      (s1.lpeFits (s1.fe.mapFor t) j t = false → lpeEstimateRow j sec k r s = (s1.lpeServed j t).localMiss) ∧
      (s1.lpeFits (s1.fe.mapFor t) j t = true → s1.alnReady = true → s1.fe.lpeBlockedTill = 0 → (∀ g ∈ s1.fe.group, g.overwritten = []) →
        ∃ d : DataBlock, (lpeEstimateRow j sec k r s).aln.input = s1.aln.input ++ [d] ∧ d.berth = 8176 + j ∧ d.sec = sec ∧ d.k = k ∧
          d.rate = rate ∧ d.arrival = r ∧ d.handedAt = s1.dt) := by
  generalize hu : lpeEstimateRow j sec k r s = u
  rw [lpeEstimateRow, if_neg (by simp [hcap, hfen, hen, hj]), ← State.lpeLook, hrate, h1, ht,
    if_neg (by simp [h0, hk, hon, hdone])] at hu
  subst hu
  refine ⟨fun hw => ?_, fun hw => ?_, fun w hw => ⟨fun hfit => ?_, fun hfit hready hblk hov => ?_⟩⟩
  · rw [State.lpeGives] at hw
    simp only [hw]
  · rw [State.lpeGives] at hw
    simp only [hw, State.lpeServed]
  · rw [State.lpeGives] at hw
    simp only [hw]
    exact if_pos (.inr (.inr (.inr (by rw [hfit]; rfl))))
  · rw [State.lpeGives] at hw
    simp only [hw]
    rw [if_neg (by simp only [nth_overwritten hov]; simp [hblk, hready, hfit])]
    split
    all_goals exact ⟨_, State.input_handOff _ _ _ _ _, rfl, rfl, rfl, rfl, rfl, rfl⟩

end on

/-! ### The obligation -/

/-- Settles O43: the cases of each command of the front end and of the estimator. -/
theorem frontEndRuns : Obligations.FrontEndRuns := by
  unfold Obligations.FrontEndRuns
  intro v r j sec k pins refHz altHz clip on s
  have cond {u : State} (h : feChannelConditionRow j clip on s = u) : Answers (.feChannelCondition j clip on) s u := h ▸ rfl
  have est {u : State} (h : lpeEstimateRow j sec k r s = u) : Answers (.lpeEstimate j sec k r) s u := h ▸ rfl
  have swap {u : State} (hR : s.Reaches Reg.FE_CAL_SWAP v) (h : feCalSwapGoRow v s = u) : Answers (.feCalSwapGo v) s u :=
    h ▸ answers_feCalSwapGo hR
  refine ⟨fun hR hfe h1 => ⟨fun hen hset hoff => ?_, fun hen hset hoff => ?_⟩, fun h => ?_, fun hfe hfen hen hset => ?_,
    ⟨fun l h => State.feLabel_next h r, fun h => State.feLabel_first h r⟩, fun hfe hfen hj hen => ?_, rfl, fun hR hfe => ?_,
    fun h => est (lpeEstimateRow_off h), fun hcap hfen hen hj => ⟨fun h => ?_, fun h0 hk hon hdone => ?_⟩⟩
  · exact ⟨_, answers_feEnWrite hR, feCtrlWrite_starts hfe h1 hen hoff hset⟩
  · exact ⟨_, answers_feEnWrite hR, feCtrlWrite_without_set hfe h1 hen hoff hset⟩
  · have hrow : feSampleSetAll r pins ⟨refHz, altHz⟩ s = s.mtrTryStart := congrArg State.mtrTryStart (feSampleSetRow_idle h r pins _)
    exact congrArg (fun t => Host.Outcome.next (State.after s t)) hrow
  · obtain ⟨st, hhist, hlabel, hrelease⟩ := feSampleSetRow_hist hfe hfen hen hset r pins ⟨refHz, altHz⟩
    exact ⟨_, st, rfl, (State.mtrTryStart_histkept (.refl _)).fe_hist.trans hhist, hlabel, hrelease⟩
  · have seen (hon : s.chanOn j = true) (hsh : (s.fe.stream j).shows clip = on) :=
      feChannelConditionRow_seen hfe hfen hj hen hon hsh
    refine ⟨fun h => cond (feChannelConditionRow_unseen h), fun hon hsh h => cond ((seen hon hsh).trans (State.chanCondition_quiet h)),
      fun hon hsh htrue hwas hclip => ?_, fun hon hsh htrue hwas hclip => ?_⟩
    all_goals
      subst htrue hclip
      exact cond ((seen hon hsh).trans (State.chanCondition_begins hwas))
  · refine ⟨fun h => swap hR (feCalSwapGoRow_busy hfe h), fun hidle h => swap hR (feCalSwapGoRow_nothing hfe hidle h),
      fun hidle hgo hm hok => swap hR ((feCalSwapGoRow_go hfe hidle hgo hm).trans (if_pos hok)),
      fun hidle hgo hm hbad => swap hR ((feCalSwapGoRow_go hfe hidle hgo hm).trans (if_neg fun hok => ?_))⟩
    obtain ⟨c, hc, hbad⟩ := hbad
    exact Bool.false_ne_true (hbad.symm.trans (hok c hc))
  · exact est (lpeEstimateRow_undue hcap hfen hen hj h)
  · obtain ⟨hlater, hnever, hready⟩ := lpeEstimateRow_due hcap hfen hen hj rfl rfl rfl h0 hk hon hdone
    refine ⟨fun h => est (hlater h), fun h => answers_lpeEstimate_miss (hnever h),
      fun w hw hfit => answers_lpeEstimate_miss ((hready w hw).1 hfit), fun w hw hfit haln hblk hov => ?_⟩
    obtain ⟨d, hin, hd⟩ := (hready w hw).2 hfit haln hblk hov
    exact ⟨_, d, est rfl, hin.trans (congrArg (· ++ [d]) (State.input_lpeLook s r)), hd⟩

end Sys2Proof.Machine
end

section
/-! SUPPORT. The metering unit (R336, R347 to R350, R358 to R360): enable, cycles, flash saves, pulse outputs and the freeze on PFW_N. -/

namespace Sys2Proof.Machine

variable {s : State} {v : Word}

@[simp] theorem State.advance_mtr (s : State) (t : Nat) : (s.advance t).mtr = s.mtr := by
  unfold State.advance
  split <;> rfl

/-! ### EN (R360) -/

/-- Whether a write of MTR_CTRL turns on a record ring that does not fit the DRAM. -/
def State.recRingBad (s : State) (v : Word) : Bool :=
  v.getLsbD 2 && !s.dramFits (s.reg64 Reg.MTR_REC_BASE_LO) (320 * 2 ^ s.fld Reg.MTR_REC_SIZE 0 5)

section en

variable (hmtr : s.hasMtr = true) (hfen : s.unitFenced 12 = false) (h1 : v.getLsbD 1 = false)
include hmtr hfen h1

/-- A write without CNT_CLR that reaches the unit sets EN but for a ring that does not fit. -/
theorem mtrCtrlWrite_eq : mtrCtrlWrite v s =
    if v.getLsbD 0 ∧ !s.bit Reg.MTR_CTRL 0 ∧ s.recRingBad v then (s.setReg Reg.MTR_CTRL (v &&& 0x1FD &&& 0x1FC)).event Reg.MTR_EVT 10
    else if v.getLsbD 0 then
      if s.bit Reg.MTR_CTRL 0 then s.setReg Reg.MTR_CTRL (v &&& 0x1FD)
      else ((s.setReg Reg.MTR_CTRL (v &&& 0x1FD)).modMtr fun u => { u with recWr := 0 }).mtrTryStart
    else (s.setReg Reg.MTR_CTRL (v &&& 0x1FD)).modMtr fun u => { u with running := false, tap := [] } := by
  rw [mtrCtrlWrite, if_neg (by simp [hmtr, hfen]), h1]
  rfl

theorem mtrCtrlWrite_ring_bad (hen : v.getLsbD 0 = true) (hoff : s.bit Reg.MTR_CTRL 0 = false) (hbad : s.recRingBad v = true) :
    mtrCtrlWrite v s = (s.setReg Reg.MTR_CTRL (v &&& 0x1FD &&& 0x1FC)).event Reg.MTR_EVT 10 := by
  rw [mtrCtrlWrite_eq hmtr hfen h1, if_pos (by simp [hen, hoff, hbad])]

theorem mtrCtrlWrite_enables (hen : v.getLsbD 0 = true) (hoff : s.bit Reg.MTR_CTRL 0 = false) (hfit : s.recRingBad v = false) :
    mtrCtrlWrite v s = ((s.setReg Reg.MTR_CTRL (v &&& 0x1FD)).modMtr fun u => { u with recWr := 0 }).mtrTryStart := by
  rw [mtrCtrlWrite_eq hmtr hfen h1, if_neg (by simp [hfit]), if_pos hen, hoff]
  rfl

theorem mtrCtrlWrite_stops (hen : v.getLsbD 0 = false) : mtrCtrlWrite v s =
    (s.setReg Reg.MTR_CTRL (v &&& 0x1FD)).modMtr fun u => { u with running := false, tap := [] } := by
  rw [mtrCtrlWrite_eq hmtr hfen h1, if_neg fun h => Bool.false_ne_true (hen.symm.trans h.1), hen]
  rfl

end en

theorem answers_mtrEnWrite (hR : s.Reaches Reg.MTR_CTRL v) : Answers (.mtrEnWrite v) s (mtrCtrlWrite v s) :=
  congrArg (fun t => Host.Outcome.next (State.after s t)) (State.busWrite_reaches hR _)

/-! ### Cycles (R336, R350) -/

/-- A cycle that is handled while the unit is not frozen leaves nothing pending that did not pend. -/
theorem State.cycleHandle_tapkept {r : State} (hf : r.mtr.frozen = false) (h : TapKept r s) (c : MtrCyc) : TapKept r (s.cycleHandle c) := by
  unfold State.cycleHandle
  extract_lets first s1 s2
  have h1 : TapKept r s1 := State.cycleMeasure_tapkept h c
  have h2 : TapKept r s2 := by
    unfold s2
    rw [if_neg (by rw [h1.mtr_frozen, hf]; exact Bool.false_ne_true)]
    exact State.periodicSaves_tapkept (State.cycleAccumulate_tapkept h1 c first) false
  exact h2.upd rfl rfl rfl

theorem State.foldl_cycleHandle_tapkept (hf : s.mtr.frozen = false) (l : List MtrCyc) :
    TapKept s (l.foldl (fun (s : State) c => s.cycleHandle c) s) :=
  .foldl (fun _ c hx => State.cycleHandle_tapkept hf hx c) l (.refl s)

/-- A cycle that is handled while the unit is frozen is held. -/
theorem State.cycleHandle_frozen (hf : s.mtr.frozen = true) (c : MtrCyc) : s.cycleHandle c = (s.cycleMeasure c).modMtr fun u =>
    { u with pendSum := u.pendSum ++ [if s.mtrFirst c then { c with before := [] } else c], lastCyc := some c } := by
  have hf1 : (s.cycleMeasure c).mtr.frozen = true := (State.cycleMeasure_tapkept (.refl s) c).mtr_frozen.trans hf
  rw [State.cycleHandle, hf1]
  rfl

theorem State.lastCyc_cycleHandle (s : State) (c : MtrCyc) : (s.cycleHandle c).mtr.lastCyc = some c := rfl

theorem State.tap_cycleHandle (s : State) (c : MtrCyc) : (s.cycleHandle c).mtr.tap = s.mtr.tap := by
  cases hf : s.mtr.frozen
  · exact (State.cycleHandle_tapkept hf (.refl s) c).mtr_tap
  · rw [State.cycleHandle_frozen hf]
    exact (State.cycleMeasure_tapkept (.refl s) c).mtr_tap

theorem State.pendSum_cycleHandle (s : State) (c : MtrCyc) : (s.cycleHandle c).mtr.pendSum =
    if s.mtr.frozen = true then s.mtr.pendSum ++ [if s.mtrFirst c then { c with before := [] } else c] else s.mtr.pendSum := by
  cases hf : s.mtr.frozen
  · exact (State.cycleHandle_tapkept hf (.refl s) c).mtr_pendSum
  · rw [State.cycleHandle_frozen hf, if_pos rfl, ← (State.cycleMeasure_tapkept (.refl s) c).mtr_pendSum]
    rfl

/-- The state in which the engine takes the oldest cycle at DT `now`, with the rest left on the tap. -/
def State.offTap (s : State) (now : Nat) (rest : List MtrCyc) : State := (s.advance now).modMtr fun u => { u with tap := rest }

theorem State.mtr_offTap (s : State) (now : Nat) (rest : List MtrCyc) : (s.offTap now rest).mtr = { s.mtr with tap := rest } :=
  congrArg (fun u : Mtr => { u with tap := rest }) (s.advance_mtr now)

theorem State.mtrFirst_offTap (s : State) (now : Nat) (rest : List MtrCyc) (c : MtrCyc) : (s.offTap now rest).mtrFirst c = s.mtrFirst c := by
  rw [State.mtrFirst, State.mtr_offTap, ← State.mtrFirst]

theorem mtrCycleRow_idle {now : Nat} (h : s.mtr.tap = [] ∨ s.mtr.running = false ∨ s.unitFenced 12 = true ∨
    (nth {} s.plt.eng s.plt.mtrEng).rstate ≠ .inService) : mtrCycleRow now s = s := by
  rw [mtrCycleRow]
  split
  next => rfl
  next c rest htap =>
    refine if_neg fun ⟨hrun, hfen, heng⟩ => ?_
    rcases h with h | h | h | h
    · exact List.cons_ne_nil c rest (htap.symm.trans h)
    · exact Bool.false_ne_true (h.symm.trans hrun)
    · rw [h] at hfen
      exact Bool.false_ne_true hfen
    · exact h heng

theorem mtrCycleRow_takes {now : Nat} {c : MtrCyc} {rest : List MtrCyc} (htap : s.mtr.tap = c :: rest) (hrun : s.mtr.running = true)
    (hfen : s.unitFenced 12 = false) (heng : (nth {} s.plt.eng s.plt.mtrEng).rstate = .inService) :
    mtrCycleRow now s = (s.offTap now rest).cycleHandle c := by
  rw [mtrCycleRow, htap]
  exact if_pos ⟨hrun, by rw [hfen]; rfl, heng⟩

/-! ### Flash saves (R348, R349) -/

theorem saveValid_eq_some {x : Option MtrSave} {a : MtrSave} : saveValid x = some a ↔ x = some a ∧ a.crc = crc32c a.bytes := by
  simp [saveValid, Option.filter_eq_some_iff]

/-- The save in slot 0 is valid and the newer one: the other slot is overwritten. -/
theorem Flash.putMtr_newer0 {f : Flash} {a : MtrSave} (h0 : saveValid f.mtrSave0 = some a)
    (h1 : ∀ b, saveValid f.mtrSave1 = some b → b.seq ≤ a.seq) (w : MtrSave) :
    (f.putMtr w).mtrSave0 = f.mtrSave0 ∧ (f.putMtr w).mtrSave1 = some w := by
  have hput : f.putMtr w = { f with mtrSave1 := some w } := by
    rw [Flash.putMtr, h0]
    cases hb : saveValid f.mtrSave1 with
    | none => rfl
    | some b => exact if_pos (decide_eq_true (h1 b hb))
  rw [hput]
  exact ⟨rfl, rfl⟩

/-- The save in slot 1 is valid and the newer one. -/
theorem Flash.putMtr_newer1 {f : Flash} {a b : MtrSave} (h0 : saveValid f.mtrSave0 = some a) (h1 : saveValid f.mtrSave1 = some b)
    (h : a.seq < b.seq) (w : MtrSave) : (f.putMtr w).mtrSave0 = some w ∧ (f.putMtr w).mtrSave1 = f.mtrSave1 := by
  have hput : f.putMtr w = { f with mtrSave0 := some w } := by
    rw [Flash.putMtr, h0, h1]
    exact if_neg (by simpa using h)
  rw [hput]
  exact ⟨rfl, rfl⟩

/-- Slot 0 holds no valid save. -/
theorem Flash.putMtr_invalid0 {f : Flash} (h0 : saveValid f.mtrSave0 = none) (w : MtrSave) :
    (f.putMtr w).mtrSave0 = some w ∧ (f.putMtr w).mtrSave1 = f.mtrSave1 := by
  rw [Flash.putMtr, h0]
  exact ⟨rfl, rfl⟩

theorem mtrFlashSaveDoneRow_none (h : s.mtr.flashBusy = none) (ok : Bool) : mtrFlashSaveDoneRow ok s = s := by
  rw [mtrFlashSaveDoneRow, h]

theorem mtrFlashSaveDoneRow_done {w : MtrSave} (h : s.mtr.flashBusy = some w) : mtrFlashSaveDoneRow true s =
    (({ s with flash := s.flash.putMtr w } : State).modMtr fun u => { u with flashBusy := none, flashSavedTo := w.savedTo }).count
      (Reg.MTR_CNT_LO 4) := by
  rw [mtrFlashSaveDoneRow, h]
  rfl

theorem mtrFlashSaveDoneRow_failed {w : MtrSave} (h : s.mtr.flashBusy = some w) : mtrFlashSaveDoneRow false s =
    ((((({ s.freshNext with flash := s.flash.putMtr { w with crc := s.freshVal % 2 ^ 32 } } : State).modMtr
      fun u => { u with flashBusy := none, flashRetry := true }).event Reg.MTR_EVT 4).unitFault 12).flashFail) := by
  rw [mtrFlashSaveDoneRow, h]
  rfl

/-! ### Pulse outputs (R347, R358, R360) -/

section pulse

variable {o : Nat}

theorem State.pulseLevel_undriven (h : s.hasMtr = false ∨ s.unitFenced 12 = true ∨ s.pins.pulseDriven = false) :
    s.pulseLevel o = .highZ := by
  refine if_pos ?_
  rcases h with h | h | h <;> simp [h]

theorem State.pulseLevel_driven (hmtr : s.hasMtr = true) (hfen : s.unitFenced 12 = false) (hdrv : s.pins.pulseDriven = true) :
    s.pulseLevel o = if (bitOf (cfgByte s.mtr.set 0x0B 1 (8 * o)) 1 = true) =
      ((nth {} s.mtr.pulse o).active = true ∧ bitOf (cfgByte s.mtr.set 0x0B 1 (8 * o)) 0 = true) then PinLevel.low else PinLevel.high := by
  refine (if_neg (by simp [hmtr, hfen, hdrv])).trans ?_
  simp only [← Bool.and_eq_true]
  generalize ((nth {} s.mtr.pulse o).active && bitOf (cfgByte s.mtr.set 0x0B 1 (8 * o)) 0) = on
  cases bitOf (cfgByte s.mtr.set 0x0B 1 (8 * o)) 1 <;> cases on <;> simp

theorem pulseStartRow_undue (h : (nth {} s.mtr.pulse o).sched = [] ∨ 6 ≤ o ∨ bitOf (cfgByte s.mtr.set 0x0B 1 (8 * o)) 0 = false ∨
    (nth {} s.mtr.pulse o).active = true ∨ s.mtr.frozen = true ∨ s.unitFenced 12 = true ∨ s.mtr.running = false) :
    pulseStartRow o s = s := by
  rw [pulseStartRow]
  split
  next => rfl
  next x rest hsched =>
    refine if_neg fun ⟨ho, hen, hact, hfro, hfen, hrun⟩ => ?_
    simp only [Bool.not_eq_true'] at hact hfro hfen
    rcases h with h | h | h | h | h | h | h
    · exact List.cons_ne_nil x rest (hsched.symm.trans h)
    · omega
    · exact Bool.false_ne_true (h.symm.trans hen)
    · exact Bool.false_ne_true (hact.symm.trans h)
    · exact Bool.false_ne_true (hfro.symm.trans h)
    · exact Bool.false_ne_true (hfen.symm.trans h)
    · exact Bool.false_ne_true (h.symm.trans hrun)

/-- The pulse of output o that was scheduled first runs from its instant. -/
def MtrPulse.started (p : MtrPulse) (at_ : Nat) (rest : List (Nat × Bool)) : MtrPulse := { p with active := true, last := some at_, sched := rest }

theorem pulseStartRow_due {x : Nat × Bool} {rest : List (Nat × Bool)} (hsched : (nth {} s.mtr.pulse o).sched = x :: rest) (ho : o < 6)
    (hen : bitOf (cfgByte s.mtr.set 0x0B 1 (8 * o)) 0 = true) (hact : (nth {} s.mtr.pulse o).active = false) (hfro : s.mtr.frozen = false)
    (hfen : s.unitFenced 12 = false) (hrun : s.mtr.running = true) : pulseStartRow o s =
      ((s.advance x.1).modPulse o (·.started x.1 rest)).setReg (Reg.MTR_PLS_CNT o) ((s.advance x.1).reg (Reg.MTR_PLS_CNT o) + 1) := by
  rw [pulseStartRow]
  simp only [hsched]
  exact if_pos (by simp [ho, hen, hact, hfro, hfen, hrun])

theorem pulseEndRow_idle (h : (nth {} s.mtr.pulse o).active = false) : pulseEndRow o s = s :=
  if_neg (by simp [h])

theorem pulseEndRow_active (h : (nth {} s.mtr.pulse o).active = true) : pulseEndRow o s =
    (s.advance (((nth {} s.mtr.pulse o).last.getD 0) + pulseGap s.mtr.set o / 2)).modPulse o fun p => { p with active := false } :=
  if_pos h

/-- Output o after a change of it at a time. -/
theorem State.pulse_modPulse_advance (f : MtrPulse → MtrPulse) (t : Nat) (h : o < s.mtr.pulse.length) :
    nth {} ((s.advance t).modPulse o f).mtr.pulse o = f (nth {} s.mtr.pulse o) := by
  rw [State.modPulse, State.modMtr, State.advance_mtr]
  exact nth_modify_self _ _ _ _ h

theorem State.modPulse_advance_dt (f : MtrPulse → MtrPulse) (t : Nat) : ((s.advance t).modPulse o f).dt = max s.dt t := s.advance_dt t

end pulse

/-! ### Power failure (R350) -/

theorem State.pfwSave_off (h : (s.bit Reg.MTR_CTRL 8 && s.mtr.running) = false) : s.pfwSave = s := if_neg (by simp [h])

/-- The freeze of a running unit handles every cycle on the tap. -/
theorem State.mtrFreeze_runs (hrun : s.mtr.running = true) (hfro : s.mtr.frozen = false) (hfen : s.unitFenced 12 = false) :
    s.mtrFreeze.mtr.frozen = true ∧ s.mtrFreeze.mtr.tap = [] := by
  rw [State.mtrFreeze, if_pos (by simp [hrun, hfro, hfen])]
  refine ⟨rfl, (State.backupSave_tapkept (State.foldl_cycleHandle_tapkept ?_ s.mtr.tap) true).mtr_tap⟩
  exact hfro

theorem State.pfwSave_freezes (hen : s.bit Reg.MTR_CTRL 8 = true) (hrun : s.mtr.running = true) (hfro : s.mtr.frozen = false)
    (hfen : s.unitFenced 12 = false) : s.pfwSave.mtr.frozen = true ∧ s.pfwSave.mtr.tap = [] := by
  rw [State.pfwSave, if_pos (by simp [hen, hrun])]
  exact State.mtrFreeze_runs hrun hfro hfen

/-- The end of the freeze leaves nothing pending. -/
theorem State.mtrThaw_frozen (h : s.mtr.frozen = true) : s.mtrThaw.mtr.frozen = false ∧ s.mtrThaw.mtr.pendSum = [] := by
  have hk : TapKept (s.modMtr fun u => { u with frozen := false, pendSum := [] }) s.mtrThaw := by
    rw [State.mtrThaw, if_pos h]
    exact State.periodicSaves_tapkept (.foldl (fun _ c hx => State.cycleAccumulate_tapkept hx c false) _ (.refl _)) true
  exact ⟨hk.mtr_frozen, hk.mtr_pendSum⟩

theorem pfwDeassertRow_high (h : s.pins.pfw = false) : pfwDeassertRow s = s := if_pos (by simp [h])

theorem pfwDeassertRow_halted (hpfw : s.pins.pfw = true) (h : s.unitFenced 10 = true ∨ s.isStopped = true) :
    pfwDeassertRow s = s.pfwSet false := by
  rw [pfwDeassertRow, if_neg (by simp [hpfw]), if_pos (by simpa using h)]

theorem pfwDeassertRow_thaws (hpfw : s.pins.pfw = true) (hfen : s.unitFenced 10 = false) (hstop : s.isStopped = false) :
    pfwDeassertRow s = (s.pfwSet false).mtrThaw := by
  rw [pfwDeassertRow, if_neg (by simp [hpfw]), if_neg (by simp [hfen, hstop])]

end Sys2Proof.Machine
end

section
/-! SUPPORT. Reads of the metering unit and its manifests (R362, R433, R519), and what metering does as a whole. -/

namespace Sys2Proof.Machine

variable {s : State}

/-! ### The latch of a point block (R362) -/

/-- A map whose keys of a list are set in turn, each to a value of its own, holds them all. -/
theorem mapFind_foldl_mapSet {α : Type} (base : Nat) (f : Nat → α) {a : Nat} : ∀ (l : List Nat) (m : List (Nat × α)),
    (a ∈ l ∨ mapFind m (base + a) = some (f a)) → mapFind (l.foldl (fun m o => mapSet m (base + o) (f o)) m) (base + a) = some (f a)
  | [], _, h => h.resolve_left List.not_mem_nil
  | o :: l, m, h => by
    refine mapFind_foldl_mapSet base f l _ ?_
    rw [mapFind_mapSet]
    by_cases hoa : o = a
    · exact .inr (if_pos (congrArg _ hoa) ▸ hoa ▸ rfl)
    · rw [if_neg (by omega)]
      exact h.imp_left fun ha => (List.mem_cons.mp ha).resolve_left (Ne.symm hoa)

/-- The state after a read that returns w and leaves l latched. -/
def State.blockLatched (s : State) (l : List (Nat × Word)) (w : Word) : State := { s with latch := l, rdata := w }

theorem State.latch_blockLatched (s : State) (l : List (Nat × Word)) (w : Word) : (s.blockLatched l w).latch = l := rfl

theorem State.rdata_blockLatched (s : State) (l : List (Nat × Word)) (w : Word) : (s.blockLatched l w).rdata = w := rfl

section latch

variable {n : Nat} (hn : n < 3)
include hn

theorem mtrPointLatch_present (hmtr : s.hasMtr = true) : mtrPointLatch n s =
    s.blockLatched (mtrLatchOffsets.foldl (fun l o => mapSet l (Reg.MTR_ENERGY_LO n 0 + o) (s.mtrPointWord n o)) s.latch) (s.mtrPointWord n 0) :=
  if_neg (by simp [hmtr, hn])

/-- The read returns the block's first word, and every register of the block is held as it was then. -/
theorem mtrPointLatch_latches (hmtr : s.hasMtr = true) : (mtrPointLatch n s).rdata = s.mtrPointWord n 0 ∧
    ∀ a ∈ mtrLatchOffsets, mapFind (mtrPointLatch n s).latch (Reg.MTR_ENERGY_LO n 0 + a) = some (s.mtrPointWord n a) := by
  rw [mtrPointLatch_present hn hmtr, State.latch_blockLatched]
  exact ⟨State.rdata_blockLatched .., fun a ha => mapFind_foldl_mapSet (Reg.MTR_ENERGY_LO n 0) (s.mtrPointWord n) _ _ (.inl ha)⟩

theorem answers_mtrPointLatchRead (hR : s.Readable (Reg.MTR_ENERGY_LO n 0)) :
    Answers (.mtrPointLatchRead n) s (mtrPointLatch n s) :=
  congrArg (fun t => Host.Outcome.next (State.after s t)) ((if_pos hn).trans (State.busRead_readable hR _))

end latch

/-! ### MTR_READ (R433) -/

theorem manMtrRead_starts {n : Nat} {m : Fetched} (h : s.Starts n 0x0051 m) (ok : Bool) :
    manMtrRead n ok s = (s.start n m.mid).setAct n m.mid (.mtrRead ok) :=
  State.runManifest_starts h _

theorem State.mtrReadEnd_none {b : List Byte} (h : s.mtrAsked b = []) (mid : Nat) :
    s.mtrReadEnd mid b true = s.finish mid stDone 0 [] := by
  simp [State.mtrReadEnd, h]

theorem State.mtrReadEnd_some {b : List Byte} (h : s.mtrAsked b ≠ []) (mid : Nat) : s.mtrReadEnd mid b true =
    (s.emit (.hostWrite (mBufAddr b) (s.mtrAsked b).flatten)).finish mid stDone (s.mtrAsked b).length [] := by
  simp [State.mtrReadEnd, h]

/-! ### MTR_RESET (R519) -/

/-- What MTR_RESET makes of a signature: the nonce, REC_SEQ and the token slot in this order. -/
def State.mtrResetWith (s : State) (mid pt : Nat) (sig : List Byte) : State :=
  match s.key.nonce with
  | none => s.voidKeyNonce.finish0 mid stNonce
  | some nonce =>
    let s1 := s.voidKeyNonce
    if (nth {} s.mtr.point pt).keep.recSeq ≠ nth 0 s.key.nonceRecSeq pt then s1.finish0 mid stStale
    else
      let slot := s1.fld Reg.KEY_CFG 0 6
      if !s1.tokenSlotOk slot then (s1.keyUseErr.event Reg.KEY_EVT 3).finish0 mid stAuthFail
      else
        let r := s1.requestVerify (.verifyMtrReset mid pt) slot (s1.mtrResetMsg pt nonce) (padTo 64 sig)
        if r.2 then r.1 else r.1.finish0 mid stBusy

section start

variable {n : Nat} {m : Fetched} (h : s.Starts n 0x0050 m)
include h

theorem manMtrReset_length (hlen : mBufLen m.bytes ≠ 64) (buf : Option (List Byte)) :
    manMtrReset n buf s = (s.start n m.mid).finish0 m.mid stInvalidParam :=
  (State.runManifest_starts h _).trans (if_pos hlen)

theorem manMtrReset_dma (hlen : mBufLen m.bytes = 64) : manMtrReset n none s = (s.start n m.mid).finish0 m.mid stDmaError :=
  (State.runManifest_starts h _).trans (if_neg (not_not.mpr hlen))

theorem manMtrReset_signed (hlen : mBufLen m.bytes = 64) (sig : List Byte) :
    manMtrReset n (some sig) s = (s.start n m.mid).mtrResetWith m.mid (byteAt m.bytes 20) sig :=
  (State.runManifest_starts h _).trans (if_neg (not_not.mpr hlen))

end start

section signature

variable {mid pt : Nat} {sig : List Byte}

theorem State.mtrResetWith_unnonced (h : s.key.nonce = none) : s.mtrResetWith mid pt sig = s.voidKeyNonce.finish0 mid stNonce := by
  rw [State.mtrResetWith, h]

variable {nonce : Nat} (hn : s.key.nonce = some nonce)
include hn

theorem State.mtrResetWith_stale (h : (nth {} s.mtr.point pt).keep.recSeq ≠ nth 0 s.key.nonceRecSeq pt) :
    s.mtrResetWith mid pt sig = s.voidKeyNonce.finish0 mid stStale := by
  rw [State.mtrResetWith, hn]
  exact if_pos h

variable (hseq : (nth {} s.mtr.point pt).keep.recSeq = nth 0 s.key.nonceRecSeq pt)
include hseq

theorem State.mtrResetWith_no_slot (h : s.voidKeyNonce.tokenSlotOk (s.voidKeyNonce.fld Reg.KEY_CFG 0 6) = false) :
    s.mtrResetWith mid pt sig = (s.voidKeyNonce.keyUseErr.event Reg.KEY_EVT 3).finish0 mid stAuthFail := by
  rw [State.mtrResetWith, hn]
  exact (if_neg (not_not.mpr hseq)).trans (if_pos (by rw [h]; rfl))

theorem State.mtrResetWith_verify {r : State × Bool} (h : s.voidKeyNonce.tokenSlotOk (s.voidKeyNonce.fld Reg.KEY_CFG 0 6) = true)
    (hr : s.voidKeyNonce.requestVerify (.verifyMtrReset mid pt) (s.voidKeyNonce.fld Reg.KEY_CFG 0 6) (s.voidKeyNonce.mtrResetMsg pt nonce)
      (padTo 64 sig) = r) : s.mtrResetWith mid pt sig = if r.2 then r.1 else r.1.finish0 mid stBusy := by
  subst hr
  rw [State.mtrResetWith, hn]
  exact (if_neg (not_not.mpr hseq)).trans (if_neg (by rw [h]; exact Bool.false_ne_true))

end signature

/-! ### The obligation -/

/-- Settles O44: the cases of each command of metering, of its flash saves, its pulse outputs, its reads and its manifests. -/
theorem meteringRuns : Obligations.MeteringRuns := by
  unfold Obligations.MeteringRuns
  intro v n now o buf ok s bad p enabled pf
  have cycle {u : State} (h : mtrCycleRow now s = u) : Answers (.mtrCycle now) s u := h ▸ rfl
  have save {k : Bool} {u : State} (h : mtrFlashSaveDoneRow k s = u) : Answers (.mtrFlashSaveDone k) s u := h ▸ rfl
  have start {u : State} (h : pulseStartRow o s = u) : Answers (.pulseStart o) s u := h ▸ rfl
  have stop {u : State} (h : pulseEndRow o s = u) : Answers (.pulseEnd o) s u := h ▸ rfl
  have deassert {u : State} (h : pfwDeassertRow s = u) : Answers .pfwDeassert s u := h ▸ rfl
  have read {u : State} (h : manMtrRead n ok s = u) : Answers (.mtrRead n ok) s u := h ▸ rfl
  have reset {b : Option (List Byte)} {u : State} (h : manMtrReset n b s = u) : Answers (.mtrReset n b) s u := h ▸ rfl
  refine ⟨fun hR hmtr hfen h1 => ⟨fun hen hoff hbad => ?_, fun hen hoff hfit => ?_, fun hen => ?_⟩,
    fun h => cycle (mtrCycleRow_idle h), fun c rest htap hrun hfen heng => ?_,
    fun h => save (mtrFlashSaveDoneRow_none h ok), fun w hw => ⟨?_, save (mtrFlashSaveDoneRow_failed hw)⟩, fun x a => saveValid_eq_some,
    State.pulseLevel_undriven, State.pulseLevel_driven,
    fun h => start (pulseStartRow_undue h), fun x rest hsched ho hlen hen hact hfro hfen hrun => ?_,
    fun h => stop (pulseEndRow_idle h), fun hact hlen => ?_,
    fun h => ?_, fun hen hrun hfro hfen => ?_,
    fun h => deassert (pfwDeassertRow_high h), fun hpfw h => deassert (pfwDeassertRow_halted hpfw h), fun hpfw hfen hstop hfro => ?_,
    fun hn => ?_, fun hn hmtr hR => ?_, fun m hm => ?_, fun m hm => ?_⟩
  · refine ⟨_, answers_mtrEnWrite hR, ?_⟩
    rw [mtrCtrlWrite_ring_bad hmtr hfen h1 hen hoff hbad]
    refine ⟨?_, State.getLsbD_reg_event _ _ (by decide), rfl⟩
    rw [State.reg_event, if_neg (by decide), State.reg_setReg_self]
    simp
  · exact mtrCtrlWrite_enables hmtr hfen h1 hen hoff hfit ▸ answers_mtrEnWrite hR
  · exact ⟨_, mtrCtrlWrite_stops hmtr hfen h1 hen ▸ answers_mtrEnWrite hR, rfl, rfl⟩
  · refine ⟨_, cycle (mtrCycleRow_takes htap hrun hfen heng), State.tap_cycleHandle .., State.lastCyc_cycleHandle .., ?_⟩
    rw [State.pendSum_cycleHandle, State.mtrFirst_offTap, State.mtr_offTap]
  · exact ⟨_, save (mtrFlashSaveDoneRow_done hw), rfl, rfl, fun a ha hb => Flash.putMtr_newer0 ha hb w,
      fun a b ha hb hlt => Flash.putMtr_newer1 ha hb hlt w, fun ha => Flash.putMtr_invalid0 ha w⟩
  · have hp := State.pulse_modPulse_advance (·.started x.1 rest) x.1 hlen
    refine ⟨_, start (pulseStartRow_due hsched ho hen hact hfro hfen hrun), ?_, ?_, ?_, State.reg_setReg_self ..⟩
    all_goals rw [State.setReg_mtr, hp]; rfl
  · exact ⟨_, stop (pulseEndRow_active hact), congrArg MtrPulse.active (State.pulse_modPulse_advance _ _ hlen), State.modPulse_advance_dt ..⟩
  · exact congrArg (fun t => Host.Outcome.next (State.after s t)) (State.pfwSave_off h)
  · exact ⟨_, rfl, State.pfwSave_freezes hen hrun hfro hfen⟩
  · exact ⟨_, deassert (pfwDeassertRow_thaws hpfw hfen hstop), State.mtrThaw_frozen hfro⟩
  · exact congrArg (fun t => Host.Outcome.next (State.after s t)) (if_neg (by omega))
  · exact ⟨_, answers_mtrPointLatchRead hn hR, mtrPointLatch_latches hn hmtr⟩
  · intro s1 pt recs act
    have hlen : (s1.mtrAsked m.bytes).length = recs.length := List.length_map _
    have hflat : (s1.mtrAsked m.bytes).flatten = recs.flatMap fun r => r.2.2 := (List.flatMap_def ..).symm
    refine ⟨read (manMtrRead_starts hm ok), rfl, fun h => State.mtrReadEnd_none ?_ m.mid, fun h => ?_⟩
    · exact List.map_eq_nil_iff.mpr h
    · rw [← hlen, ← hflat]
      exact State.mtrReadEnd_some (mt List.map_eq_nil_iff.mp h) m.mid
  · intro s1 pt s2 slot
    refine ⟨fun hlen => reset (manMtrReset_length hm hlen buf), fun hlen => reset (manMtrReset_dma hm hlen), fun sig hlen => ?_⟩
    have signed {u : State} (h : s1.mtrResetWith m.mid pt sig = u) : Answers (.mtrReset n (some sig)) s u :=
      reset ((manMtrReset_signed hm hlen sig).trans h)
    refine ⟨fun hn => signed (State.mtrResetWith_unnonced hn), fun nonce hn => ⟨fun h => signed (State.mtrResetWith_stale hn h),
      fun hseq => ⟨fun h => signed (State.mtrResetWith_no_slot hn hseq h), fun h => ⟨fun hr => ?_, fun hr => ?_⟩⟩⟩⟩
    · exact signed ((State.mtrResetWith_verify hn hseq h rfl).trans (if_pos hr))
    · exact signed ((State.mtrResetWith_verify hn hseq h rfl).trans (if_neg (by rw [hr]; exact Bool.false_ne_true)))

end Sys2Proof.Machine
end

section
/-! SUPPORT. Writes of the windows' data registers (R365, R368, R565): the capture engine's trigger entries, and the windows that ignore a
write. -/

namespace Sys2Proof.Machine

variable {s : State} {o : Nat} {v : Word}

/-- A write of a window's data register that reaches its unit is what the unit makes of it. -/
theorem answers_windowWrite (hk : kindAt o .win = true) (hR : s.Reaches o v) : Answers (.windowDataAccess o (some v)) s (s.regAct o v) := by
  have hr : (rowAt o).isSome := Option.isSome_of_any hk
  show Host.Outcome.next (State.after s (windowDataRow o (some v) s)) = _
  rw [windowDataRow, if_pos hk, State.bar0Write_reaches hR hr]

theorem capWinData_isWindow : kindAt Reg.CAP_WIN_DATA .win = true := by decide +kernel

theorem State.regAct_capWinData : s.regAct Reg.CAP_WIN_DATA v = capWinWrite v s := rfl

theorem capWinWrite_stores (h : (s.capCh (s.fld Reg.CAP_WIN_ADDR 0 9 / 4 * 4 / 128)).busy = false) : capWinWrite v s =
    { s.capWinStep with
      cap := { s.cap with win := mapPut (fun _ => (0 : Word)) s.cap.win (s.fld Reg.CAP_WIN_ADDR 0 9 / 4 * 4) v } } :=
  if_neg (Bool.eq_false_iff.mp h)

theorem capWinWrite_busy (h : (s.capCh (s.fld Reg.CAP_WIN_ADDR 0 9 / 4 * 4 / 128)).busy = true) : capWinWrite v s = s.capWinStep :=
  if_pos h

/-- The data registers of the windows that are read-only. -/
def readOnlyWindows : List Nat :=
  [Reg.FE_WIN_DATA, Reg.MTR_WIN_DATA, Reg.ALN_WIN_DATA, Reg.OSC_WIN_DATA, Reg.ISL_WIN_DATA, Reg.ALM_WIN_DATA,
    Reg.OUT_WIN_DATA, Reg.LOG_WIN_DATA, Reg.FLT_WIN_DATA]

theorem readOnlyWindows_isPlainRow : (readOnlyWindows.all fun o => isPlainRow .ro .win o) = true := by decide +kernel

/-- Settles O13: the capture engine takes the word or not by its channel's state, and an RO register takes none. -/
theorem windowWritesStoreAndAdvance : Obligations.WindowWritesStoreAndAdvance := by
  unfold Obligations.WindowWritesStoreAndAdvance
  intro v s
  refine ⟨fun hR hidle => ?_, fun hR hbusy => ?_, fun o ho hR => ?_⟩
  · have e := answers_windowWrite capWinData_isWindow hR
    rwa [State.regAct_capWinData, capWinWrite_stores hidle] at e
  · have e := answers_windowWrite capWinData_isWindow hR
    rwa [State.regAct_capWinData, capWinWrite_busy hbusy] at e
  · obtain ⟨_, hpl, r, hr, ha, hk, _⟩ := exists_row_of_isPlainRow (List.all_eq_true.mp readOnlyWindows_isPlainRow o ho)
    have e := answers_windowWrite (by simp [kindAt, hr, hk]) hR
    rwa [State.regAct_plain hpl, State.plainWrite_readOnly hr (by simp [ha])] at e

end Sys2Proof.Machine
end

section
/-! SUPPORT. The trigger bus (R375 to R377, R386): the code of a pulse, what a decoded pulse leaves in the registers, lines that are held
low, and the pulses this device requests and drives. -/

namespace Sys2Proof.Machine

variable {s : State} {line : Nat}

/-! ### What the operations that note a pulse leave (R368, R376, R450) -/

@[simp] theorem State.reg_logRaise (s : State) (cls src ev : Nat) (detail : List Nat) (o : Nat) :
    (s.logRaise cls src ev detail).reg o = s.reg o := rfl

@[simp] theorem State.reg_capEvent (s : State) (i c o : Nat) : (s.capEvent i c).reg o = (s.event Reg.CAP_EVT i).reg o := rfl

@[simp] theorem State.capEvent_cap (s : State) (i c : Nat) : (s.capEvent i c).cap = s.cap := rfl

@[simp] theorem State.capEvent_dram (s : State) (i c : Nat) : (s.capEvent i c).dram = s.dram := rfl

/-- A bit of CAP_EVT that has been set stays set. -/
theorem State.capEvent_keeps_bit {i j : Nat} (c : Nat) (h : (s.reg Reg.CAP_EVT).getLsbD j = true) :
    ((s.capEvent i c).reg Reg.CAP_EVT).getLsbD j = true := by
  rw [State.reg_capEvent, State.reg_event, if_pos rfl, BitVec.getLsbD_or, h, Bool.true_or]

/-- The lines, the channels and DRAM as they are, and DT. -/
structure BusKept (r s : State) : Prop where
  line : s.cap.line = r.cap.line
  ch : s.cap.ch = r.cap.ch
  dram : s.dram = r.dram
  dt : s.dt = r.dt

theorem BusKept.refl (s : State) : BusKept s s := ⟨rfl, rfl, rfl, rfl⟩

theorem BusKept.setReg {r : State} (h : BusKept r s) (o : Nat) (v : Word) : BusKept r (s.setReg o v) := ⟨h.line, h.ch, h.dram, h.dt⟩

theorem BusKept.count {r : State} (h : BusKept r s) (lo : Nat) : BusKept r (s.count lo) := ⟨h.line, h.ch, h.dram, h.dt⟩

theorem BusKept.capEvent {r : State} (h : BusKept r s) (i c : Nat) : BusKept r (s.capEvent i c) := ⟨h.line, h.ch, h.dram, h.dt⟩

theorem BusKept.trans {r s t : State} (h : BusKept r s) (h' : BusKept s t) : BusKept r t :=
  ⟨h'.line.trans h.line, h'.ch.trans h.ch, h'.dram.trans h.dram, h'.dt.trans h.dt⟩

theorem State.capNotice_buskept (s : State) (typ : Nat) (m : Nat → Nat → Bool) (at_ code : Nat) : BusKept s (s.capNotice typ m at_ code) := by
  unfold State.capNotice
  split <;> exact ⟨rfl, rfl, rfl, rfl⟩

theorem State.wakeIf_buskept (s : State) (i : Nat) : BusKept s (s.wakeIf i) := by
  unfold State.wakeIf State.wake
  split
  · split <;> exact ⟨rfl, rfl, rfl, rfl⟩
  · exact ⟨rfl, rfl, rfl, rfl⟩

theorem State.reg_wakeIf_ne {o : Nat} (i : Nat) (h : Reg.PWR_WAKE_SRC ≠ o) (h' : Reg.PWR_EVT ≠ o) : (s.wakeIf i).reg o = s.reg o := by
  unfold State.wakeIf State.wake
  split
  · split
    · rfl
    · rw [State.reg_event, if_neg h', State.reg_setReg_ne _ h]
      rfl
  · rfl

/-- An advance changes DT and the residency count alone of these. -/
theorem State.advance_bus (s : State) (t : Nat) : (s.advance t).cap = s.cap ∧ (s.advance t).dram = s.dram := by
  unfold State.advance
  split <;> exact ⟨rfl, rfl⟩

/-! ### The code of a pulse (R376) -/

/-- Whether a width is that of a code. -/
def nearCode (w c : Nat) : Bool :=
  (c + 1) * 4 * subPerUs ≤ w + 3 * subPerUs / 2 && w ≤ (c + 1) * 4 * subPerUs + 3 * subPerUs / 2

theorem nearCode_iff {w c : Nat} : nearCode w c = true ↔
    (c + 1) * 4 * subPerUs ≤ w + 3 * subPerUs / 2 ∧ w ≤ (c + 1) * 4 * subPerUs + 3 * subPerUs / 2 := by
  simp [nearCode]

theorem nearCode_not_glitch {w c : Nat} (h : nearCode w c = true) : 2 * subPerUs ≤ w := by
  simp only [nearCode_iff, subPerUs] at h ⊢
  omega

theorem nearCode_not_held {w c : Nat} (hc : c < 8) (h : nearCode w c = true) : w ≤ 40 * subPerUs := by
  simp only [nearCode_iff, subPerUs] at h ⊢
  omega

/-- The widths of different codes lie apart. -/
theorem nearCode_unique {w a b : Nat} (ha : nearCode w a = true) (hb : nearCode w b = true) : a = b := by
  simp only [nearCode_iff, subPerUs] at ha hb
  omega

theorem find?_nearCode (w : Nat) (l : List Nat) :
    l.find? (fun c => (c + 1) * 4 * subPerUs ≤ w + 3 * subPerUs / 2 && w ≤ (c + 1) * 4 * subPerUs + 3 * subPerUs / 2) = l.find? (nearCode w) :=
  congrArg l.find? (funext fun _ => by rw [nearCode])

theorem trgDecode_glitch {w : Nat} (h : w < 2 * subPerUs) : trgDecode w = none := if_pos h

theorem trgDecode_code {w c : Nat} (hc : c < 8) (h : nearCode w c = true) : trgDecode w = some (c, false) := by
  have hfind : (List.range 8).find? (nearCode w) = some c := by
    refine List.find?_range_eq_some.mpr ⟨h, List.mem_range.mpr hc, fun j hj => ?_⟩
    rw [Bool.not_eq_true', Bool.eq_false_iff]
    exact fun hj' => hj.ne (nearCode_unique hj' h)
  rw [trgDecode, if_neg (Nat.not_lt.mpr (nearCode_not_glitch h)), find?_nearCode, hfind]

theorem trgDecode_collision {w : Nat} (h2 : 2 * subPerUs ≤ w) (h : ∀ c, c < 8 → ¬nearCode w c = true) : trgDecode w = some (7, true) := by
  have hfind : (List.range 8).find? (nearCode w) = none := List.find?_eq_none.mpr fun c hc => h c (List.mem_range.mp hc)
  rw [trgDecode, if_neg (Nat.not_lt.mpr h2), find?_nearCode, hfind]

/-! ### Pulses received (R376) -/

/-- Whether pulses of a line are heard: the engine is present, the line has IN_EN and is not STUCK. -/
def State.lineHeard (s : State) (line : Nat) : Prop :=
  s.hasCap = true ∧ line < 4 ∧ s.bit Reg.CAP_TRG_CFG line = true ∧ (nth {} s.cap.line line).stuck = false

theorem trgPulseRx_ignored {fall rise : Nat} (h : ¬s.lineHeard line ∨ 40 * subPerUs < rise - fall ∨ rise - fall < 2 * subPerUs) :
    trgPulseRx line fall rise s = s := by
  rw [trgPulseRx]
  split
  next => rfl
  next hn =>
    simp only [not_or, Bool.not_eq_true', Bool.not_eq_true, Bool.not_eq_false, not_le, not_lt] at hn
    obtain ⟨hcap, hline, hin, hstuck, hlong⟩ := hn
    have hglitch : rise - fall < 2 * subPerUs :=
      (h.resolve_left fun hh => hh ⟨hcap, hline, hin, hstuck⟩).resolve_left (Nat.not_lt.mpr hlong)
    rw [trgDecode_glitch hglitch]

/-- The registers of a line once a pulse of a code has been stamped, counted and raised as an event. -/
def State.trgLatched (s : State) (line ref code : Nat) (coll : Bool) : State :=
  (((s.setTs (Reg.CAP_TRG_IN_SUBNS line) ref).setReg (Reg.CAP_TRG_CODE line)
    (BitVec.ofNat 32 (code + 8 + 16 * b2n coll))).count (Reg.CAP_CNT_LO 5)).capEvent 8 0

/-- A collision is counted and raised as an event. -/
def State.trgCollided (s : State) (coll : Bool) : State := if coll then (s.capEvent 9 0).count (Reg.CAP_CNT_LO 6) else s

/-- The falling edge of a pulse less the delay of its line. -/
def State.trgRef (s : State) (line fall : Nat) : Nat := ((fall : Int) - s.trgDelay line).toNat

/-- A decoded pulse is latched and offered to the trigger entries, and may wake the device. -/
theorem trgPulseRx_heard {fall rise code : Nat} {coll : Bool} (h : s.lineHeard line) (hw : rise - fall ≤ 40 * subPerUs)
    (hd : trgDecode (rise - fall) = some (code, coll)) : ∃ m, trgPulseRx line fall rise s =
      ((((s.advance rise).trgLatched line (s.trgRef line fall) code coll).trgCollided coll).capNotice 7 m (s.trgRef line fall) code).wakeIf 2 := by
  obtain ⟨hcap, hline, hin, hstuck⟩ := h
  rw [trgPulseRx, if_neg (by simp [hcap, hline, hin, hstuck, hw]), hd]
  exact ⟨_, rfl⟩

theorem State.trgLatched_buskept (s : State) (line ref code : Nat) (coll : Bool) : BusKept s (s.trgLatched line ref code coll) := by
  unfold State.trgLatched State.setTs
  exact ((((((BusKept.refl s).setReg _ _).setReg _ _).setReg _ _).setReg _ _).setReg _ _).count _ |>.capEvent _ _

theorem State.trgCollided_buskept (s : State) (coll : Bool) : BusKept s (s.trgCollided coll) := by
  cases coll
  · exact .refl s
  · exact ((BusKept.refl s).capEvent 9 0).count _

/-- The registers of what the lines have received stand between CAP_EVT and the counters. -/
theorem State.reg_capEvent_of_gt (s : State) {o : Nat} (h : 0xD0040 ≤ o) (i c : Nat) : (s.capEvent i c).reg o = s.reg o := by
  rw [State.reg_capEvent, State.reg_event, if_neg (by simp only [Reg.CAP_EVT]; omega)]

theorem State.reg_capCount_of_lt (s : State) {o : Nat} (h : o < 0xD0200) (i : Nat) : (s.count (Reg.CAP_CNT_LO i)).reg o = s.reg o :=
  State.reg_count_ne _ (by simp only [Reg.CAP_CNT_LO]; omega) (by simp only [Reg.CAP_CNT_LO]; omega)

section between

variable {o : Nat} (h : 0xD0040 ≤ o) (h' : o < 0xD0200)
include h h'

theorem State.reg_trgCollided_of_between (coll : Bool) : (s.trgCollided coll).reg o = s.reg o := by
  cases coll
  · rfl
  · exact (State.reg_capCount_of_lt _ h' 6).trans (State.reg_capEvent_of_gt _ h 9 0)

theorem State.reg_trgLatched_of_between (ref code : Nat) (coll : Bool) : (s.trgLatched line ref code coll).reg o =
    ((s.setTs (Reg.CAP_TRG_IN_SUBNS line) ref).setReg (Reg.CAP_TRG_CODE line) (BitVec.ofNat 32 (code + 8 + 16 * b2n coll))).reg o :=
  (State.reg_capEvent_of_gt _ h 8 0).trans (State.reg_capCount_of_lt _ h' 5)

end between

theorem State.reg_setTs (s : State) (o t : Nat) : (s.setTs o t).reg o = BitVec.ofNat 32 (subOf t) ∧
    (s.setTs o t).reg (o + 4) = BitVec.ofNat 32 (nsOf t) ∧ (s.setTs o t).reg (o + 8) = BitVec.ofNat 32 (secOf t) := by
  simp [State.setTs, State.reg_setReg]

/-- What a pulse leaves in the registers of its line (R376): CODE, the collision and VALID; and the stamp. -/
def State.ShowsPulse (s : State) (line ref x : Nat) : Prop :=
  s.reg (Reg.CAP_TRG_CODE line) = BitVec.ofNat 32 x ∧ s.reg (Reg.CAP_TRG_IN_SUBNS line) = BitVec.ofNat 32 (subOf ref) ∧
    s.reg (Reg.CAP_TRG_IN_NS line) = BitVec.ofNat 32 (nsOf ref) ∧ s.reg (Reg.CAP_TRG_IN_SEC_LO line) = BitVec.ofNat 32 (secOf ref)

/-- What a pulse leaves in the registers is shown by every state that has the same registers of the lines. -/
theorem State.ShowsPulse.congr {t : State} {ref x : Nat} (hl : line < 4) (h : s.ShowsPulse line ref x)
    (hreg : ∀ o, 0xD0040 ≤ o → o < 0xD0200 → t.reg o = s.reg o) : t.ShowsPulse line ref x := by
  obtain ⟨hcode, hsub, hns, hsec⟩ := h
  refine ⟨(hreg _ ?_ ?_).trans hcode, (hreg _ ?_ ?_).trans hsub, (hreg _ ?_ ?_).trans hns, (hreg _ ?_ ?_).trans hsec⟩
  all_goals simp only [Reg.CAP_TRG_CODE, Reg.CAP_TRG_IN_SUBNS, Reg.CAP_TRG_IN_NS, Reg.CAP_TRG_IN_SEC_LO]; omega

theorem State.showsPulse_trgLatched (s : State) (hl : line < 4) (ref code : Nat) (coll : Bool) :
    (s.trgLatched line ref code coll).ShowsPulse line ref (code + 8 + 16 * b2n coll) := by
  obtain ⟨hsub, hns, hsec⟩ := s.reg_setTs (Reg.CAP_TRG_IN_SUBNS line) ref
  have hset : ((s.setTs (Reg.CAP_TRG_IN_SUBNS line) ref).setReg (Reg.CAP_TRG_CODE line)
      (BitVec.ofNat 32 (code + 8 + 16 * b2n coll))).ShowsPulse line ref (code + 8 + 16 * b2n coll) := by
    have hne {o : Nat} (ho : o < Reg.CAP_TRG_CODE 0) : Reg.CAP_TRG_CODE line ≠ o := by
      simp only [Reg.CAP_TRG_CODE] at ho ⊢
      omega
    have hns' : Reg.CAP_TRG_IN_NS line = Reg.CAP_TRG_IN_SUBNS line + 4 := by simp only [Reg.CAP_TRG_IN_NS, Reg.CAP_TRG_IN_SUBNS]; omega
    have hsec' : Reg.CAP_TRG_IN_SEC_LO line = Reg.CAP_TRG_IN_SUBNS line + 8 := by
      simp only [Reg.CAP_TRG_IN_SEC_LO, Reg.CAP_TRG_IN_SUBNS]; omega
    refine ⟨State.reg_setReg_self .., (State.reg_setReg_ne _ (hne ?_) _).trans hsub, (State.reg_setReg_ne _ (hne ?_) _).trans (hns' ▸ hns),
      (State.reg_setReg_ne _ (hne ?_) _).trans (hsec' ▸ hsec)⟩
    all_goals simp only [Reg.CAP_TRG_CODE, Reg.CAP_TRG_IN_SUBNS, Reg.CAP_TRG_IN_NS, Reg.CAP_TRG_IN_SEC_LO]; omega
  exact hset.congr hl fun o ho ho' => State.reg_trgLatched_of_between ho ho' ref code coll

/-- No register of the capture engine changes when a pulse is offered to the trigger entries and wakes the device. -/
theorem State.reg_offered {o : Nat} (m : Nat → Nat → Bool) (ref code : Nat) (h : 0xD0000 ≤ o) :
    ((s.capNotice 7 m ref code).wakeIf 2).reg o = s.reg o := by
  refine (State.reg_wakeIf_ne 2 ?_ ?_).trans (congrArg (mapGet resetAt · o) (State.capNotice_regs s 7 m ref code))
  all_goals simp only [Reg.PWR_WAKE_SRC, Reg.PWR_EVT]; omega

theorem State.capEvt_count (s : State) (i : Nat) : (s.count (Reg.CAP_CNT_LO i)).reg Reg.CAP_EVT = s.reg Reg.CAP_EVT :=
  s.reg_capCount_of_lt (by decide) i

theorem State.capEvent_sets (s : State) {i : Nat} (c : Nat) (hi : i < 32) : ((s.capEvent i c).reg Reg.CAP_EVT).getLsbD i = true := by
  rw [State.reg_capEvent]
  exact s.getLsbD_reg_event _ hi

theorem State.trgIn_trgLatched (s : State) (line ref code : Nat) (coll : Bool) :
    ((s.trgLatched line ref code coll).reg Reg.CAP_EVT).getLsbD 8 = true := by
  rw [State.trgLatched]
  exact State.capEvent_sets _ 0 (by decide)

theorem State.trgIn_trgCollided {coll : Bool} (h : (s.reg Reg.CAP_EVT).getLsbD 8 = true) :
    ((s.trgCollided coll).reg Reg.CAP_EVT).getLsbD 8 = true := by
  cases coll
  · exact h
  · exact (congrArg (BitVec.getLsbD · 8) (State.capEvt_count _ 6)).trans (State.capEvent_keeps_bit 0 h)

theorem State.collision_trgCollided (s : State) : ((s.trgCollided true).reg Reg.CAP_EVT).getLsbD 9 = true :=
  (congrArg (BitVec.getLsbD · 9) (State.capEvt_count _ 6)).trans (s.capEvent_sets 0 (by decide))

/-- A decoded pulse is shown by its line, raised as TRG_IN and, after a collision, COLLISION, and leaves lines, channels and DRAM as they are. -/
theorem trgPulseRx_takes {fall rise code : Nat} {coll : Bool} (h : s.lineHeard line) (hw : rise - fall ≤ 40 * subPerUs)
    (hd : trgDecode (rise - fall) = some (code, coll)) :
    (trgPulseRx line fall rise s).ShowsPulse line (s.trgRef line fall) (code + 8 + 16 * b2n coll) ∧
      ((trgPulseRx line fall rise s).reg Reg.CAP_EVT).getLsbD 8 = true ∧
      (coll = true → ((trgPulseRx line fall rise s).reg Reg.CAP_EVT).getLsbD 9 = true) ∧
      BusKept (s.advance rise) (trgPulseRx line fall rise s) := by
  obtain ⟨m, hrow⟩ := trgPulseRx_heard h hw hd
  obtain ⟨-, hl, -⟩ := h
  generalize s.trgRef line fall = ref at hrow ⊢
  rw [hrow, State.reg_offered m ref code (by decide)]
  have hlatched := (s.advance rise).showsPulse_trgLatched hl ref code coll
  have hin := (s.advance rise).trgIn_trgLatched line ref code coll
  have hkept := (s.advance rise).trgLatched_buskept line ref code coll
  generalize (s.advance rise).trgLatched line ref code coll = t at hlatched hin hkept ⊢
  refine ⟨hlatched.congr hl fun o ho ho' => ?_, State.trgIn_trgCollided hin, fun hc => ?_, ?_⟩
  · rw [State.reg_offered m ref code (by omega), State.reg_trgCollided_of_between ho ho']
  · rw [hc]
    exact t.collision_trgCollided
  · exact ((hkept.trans (t.trgCollided_buskept coll)).trans (State.capNotice_buskept ..)).trans (State.wakeIf_buskept ..)

/-! ### Lines held low (R376) -/

/-- Another device holds a line low. -/
def TrgLine.heldLow (l : TrgLine) : TrgLine := { l with held := true, low := true }

theorem trgLineStuck_ignored (h : s.hasCap = false ∨ 4 ≤ line ∨ (nth {} s.cap.line line).stuck = true) : trgLineStuck line s = s :=
  if_pos (by simpa using h)

theorem trgLineStuck_held (hcap : s.hasCap = true) (hl : line < 4) (hst : (nth {} s.cap.line line).stuck = false)
    (hin : s.bit Reg.CAP_TRG_CFG line = false) : trgLineStuck line s = s.modLine line TrgLine.heldLow := by
  rw [trgLineStuck, if_neg (by simp [hcap, hl, hst])]
  exact if_pos (by simpa using hin)

/-- Two changes of one line are one. -/
theorem State.modLine_modLine (s : State) (n : Nat) (f g : TrgLine → TrgLine) : (s.modLine n f).modLine n g = s.modLine n (g ∘ f) := by
  simp only [State.modLine, List.modify_modify_eq]

theorem trgLineStuck_stuck (h : s.lineHeard line) : trgLineStuck line s =
    ((s.modLine line fun l => { l.heldLow with stuck := true }).capEvent 10 0).unitFault 13 := by
  obtain ⟨hcap, hl, hin, hst⟩ := h
  rw [trgLineStuck, if_neg (by simp [hcap, hl, hst])]
  refine (if_neg (by simpa using hin)).trans ?_
  rw [State.modLine_modLine]
  rfl

theorem trgLineStuckEnd_ignored (h : (nth {} s.cap.line line).held = false) : trgLineStuckEnd line s = s := if_neg (by simp [h])

theorem trgLineStuckEnd_heard (h : (nth {} s.cap.line line).held = true) : trgLineStuckEnd line s =
    s.modLine line fun l => { l with stuck := false, held := false, low := l.driving.isSome } := if_pos h

/-! ### Requests (R377, R386) -/

theorem State.trgRequest_disabled (r : TrgReq) (h : s.bit Reg.CAP_TRG_CFG (4 + line) = false) : s.trgRequest line r = s := if_pos (by simp [h])

theorem State.trgRequest_queues (r : TrgReq) (h : s.bit Reg.CAP_TRG_CFG (4 + line) = true) (hq : (nth {} s.cap.line line).queue.length < 4) :
    s.trgRequest line r = s.modLine line fun l => { l with queue := l.queue ++ [r] } := by
  rw [State.trgRequest, if_neg (by simp [h]), if_pos hq]

theorem State.trgRequest_full (code : Nat) (h : s.bit Reg.CAP_TRG_CFG (4 + line) = true) (hq : 4 ≤ (nth {} s.cap.line line).queue.length) :
    s.trgRequest line ⟨code, none⟩ = s.count (Reg.CAP_CNT_LO 7) := by
  rw [State.trgRequest, if_neg (by simp [h]), if_neg (Nat.not_lt.mpr hq)]

section go

variable {v : Word}

theorem capTrgOutGo_idle (h : v.getLsbD 31 = false) : capTrgOutGo v s = s :=
  if_neg fun hgo => Bool.false_ne_true (h.symm.trans hgo.2)

theorem capTrgOutGo_requests (hcap : s.hasCap = true) (h : v.getLsbD 31 = true) :
    capTrgOutGo v s = s.trgRequest (bitsOf v.toNat 0 2) ⟨bitsOf v.toNat 2 3, none⟩ := if_pos ⟨hcap, h⟩

theorem answers_capTrgOutGo (hR : s.Reaches Reg.CAP_TRG_OUT v) : Answers (.capTrgOutGo v) s (capTrgOutGo v s) :=
  congrArg (fun t => Host.Outcome.next (State.after s t)) (State.busWrite_reaches hR _)

end go

/-! ### Pulses sent (R377) -/

theorem trgOutPulseStart_idle {stamp : Nat} (h : (nth {} s.cap.line line).queue = [] ∨ (nth {} s.cap.line line).driving.isSome ∨
    (nth {} s.cap.line line).low = true) : trgOutPulseStart line stamp s = s := by
  rw [trgOutPulseStart]
  split
  next => rfl
  next r rest hq => exact if_pos (h.resolve_left fun hnil => List.cons_ne_nil r rest (hq.symm.trans hnil))

/-- The falling edge of a pulse that a channel requested is the channel's, with the delay of the line. -/
def State.stampRequest (s : State) (ch : Option Nat) (ref : Nat) : State :=
  match ch with
  | some c => s.modCap c fun k => { k with toutAt := ref }
  | none => s

theorem State.stampRequest_line (s : State) (ch : Option Nat) (ref : Nat) : (s.stampRequest ch ref).cap.line = s.cap.line := by
  cases ch <;> rfl

theorem trgOutPulseStart_drives {stamp : Nat} {r : TrgReq} {rest : List TrgReq} (hq : (nth {} s.cap.line line).queue = r :: rest)
    (hd : (nth {} s.cap.line line).driving = none) (hlow : (nth {} s.cap.line line).low = false) : trgOutPulseStart line stamp s =
      (s.modLine line fun l => { l with driving := some r, queue := rest, low := true }).stampRequest r.ch
        ((stamp : Int) + s.trgDelay line).toNat := by
  rw [trgOutPulseStart]
  simp only [hq]
  exact if_neg (by simp [hd, hlow])

/-- A change of a line is what it makes of the line as it stands. -/
theorem State.modLine_congr (s : State) (n : Nat) {f g : TrgLine → TrgLine} (h : f (nth {} s.cap.line n) = g (nth {} s.cap.line n)) :
    s.modLine n f = s.modLine n g := by
  have hl : s.cap.line.modify n f = s.cap.line.modify n g := by
    refine List.ext_getElem? fun i => ?_
    rw [List.getElem?_modify, List.getElem?_modify]
    by_cases hi : n = i
    · subst hi
      cases hx : s.cap.line[n]? with
      | none => rfl
      | some x =>
        rw [nth, hx] at h
        simpa using h
    · simp [hi]
  simp only [State.modLine, hl]

theorem State.modLine_id (s : State) (n : Nat) : s.modLine n id = s := by
  simp only [State.modLine, List.modify_id]

theorem trgOutPulseEnd_idle (h : (nth {} s.cap.line line).driving = none) : trgOutPulseEnd line s = s := by
  refine (s.modLine_congr line (g := id) ?_).trans (s.modLine_id line)
  exact if_neg (by simp [h])

theorem trgOutPulseEnd_releases (h : (nth {} s.cap.line line).driving.isSome) : trgOutPulseEnd line s =
    s.modLine line fun l => { l with driving := none, low := l.held } :=
  s.modLine_congr line (if_pos h)

/-! ### The obligation -/

/-- Settles O46: the cases of a pulse's width, of a line's state, of a request and of a queue, command by command. -/
theorem triggerBus : Obligations.TriggerBus := by
  unfold Obligations.TriggerBus
  intro line fall rise stamp code v s l w near heard ref took
  have rx {u : State} (h : trgPulseRx line fall rise s = u) : Answers (.trgPulseRx line fall rise) s u := h ▸ rfl
  have stuck {u : State} (h : trgLineStuck line s = u) : Answers (.trgLineStuck line) s u := h ▸ rfl
  have stuckEnd {u : State} (h : trgLineStuckEnd line s = u) : Answers (.trgLineStuckEnd line) s u := h ▸ rfl
  have start {u : State} (h : trgOutPulseStart line stamp s = u) : Answers (.trgOutPulseStart line stamp) s u := h ▸ rfl
  have done {u : State} (h : trgOutPulseEnd line s = u) : Answers (.trgOutPulseEnd line) s u := h ▸ rfl
  have tookOf {u : State} {x : Nat} (hs : u.ShowsPulse line ref x) (hin : (u.reg Reg.CAP_EVT).getLsbD 8 = true)
      (hk : BusKept (s.advance rise) u) : took u x := by
    obtain ⟨hcode, hsub, hns, hsec⟩ := hs
    obtain ⟨hcap, hdram⟩ := s.advance_bus rise
    exact ⟨hcode, hsub, hns, hsec, hin, hk.dt.trans (s.advance_dt rise), hk.line.trans (congrArg Cap.line hcap),
      hk.ch.trans (congrArg Cap.ch hcap), hk.dram.trans hdram⟩
  refine ⟨fun h => rx (trgPulseRx_ignored h), fun h hc hn => ?_, fun h h2 h40 hn => ?_, fun h => stuck (trgLineStuck_ignored h),
    fun hcap hl hst hin => stuck (trgLineStuck_held hcap hl hst hin), fun h => stuck (trgLineStuck_stuck h),
    fun h => stuckEnd (trgLineStuckEnd_ignored h), fun h => stuckEnd (trgLineStuckEnd_heard h), fun hR hcap => ?_,
    fun h => start (trgOutPulseStart_idle h), fun r rest hq hd hlow hlen => ?_, fun h => done (trgOutPulseEnd_idle h),
    fun h => done (trgOutPulseEnd_releases h)⟩
  · have hn := nearCode_iff.mpr hn
    obtain ⟨hs, hin, -, hk⟩ := trgPulseRx_takes h (nearCode_not_held hc hn) (trgDecode_code hc hn)
    exact ⟨_, rx rfl, tookOf hs hin hk⟩
  · obtain ⟨hs, hin, hcoll, hk⟩ := trgPulseRx_takes h h40 (trgDecode_collision h2 fun c hc => mt nearCode_iff.mp (hn c hc))
    exact ⟨_, rx rfl, tookOf hs hin hk, hcoll rfl⟩
  · have e := answers_capTrgOutGo hR
    refine ⟨fun h => ?_, fun hgo hen hq => ?_, fun hgo hen hq => ?_⟩
    · rcases h with h | h
      · rwa [capTrgOutGo_idle h] at e
      · cases hgo : v.getLsbD 31
        · rwa [capTrgOutGo_idle hgo] at e
        · rwa [capTrgOutGo_requests hcap hgo, State.trgRequest_disabled _ h] at e
    · rwa [capTrgOutGo_requests hcap hgo, State.trgRequest_queues _ hen hq] at e
    · rwa [capTrgOutGo_requests hcap hgo, State.trgRequest_full _ hen hq] at e
  · refine ⟨_, start (trgOutPulseStart_drives hq hd hlow), ?_, fun n hn => ?_, fun hr => ?_, fun c hr hc => ?_⟩
    · rw [State.stampRequest_line]
      exact nth_modify_self _ _ _ _ hlen
    · rw [State.stampRequest_line]
      exact nth_modify_ne _ _ _ (Ne.symm hn)
    · rw [hr]
      rfl
    · rw [hr]
      exact State.capCh_modCap_self _ _ hc

end Sys2Proof.Machine
end

section
/-! SUPPORT. The capture channels (R364, R365, R371 to R373): arming, the end of a capture, overflow and aborts, and that each changes its own
channel alone. -/

namespace Sys2Proof.Machine

variable {r s t : State} {c : Nat}

/-! ### What an operation on a channel leaves of the others -/

/-- The channels but one as they are, and how many there are. -/
structure CapElsewhere (c : Nat) (r s : State) : Prop where
  others : ∀ d, d ≠ c → s.capCh d = r.capCh d
  length : s.cap.ch.length = r.cap.ch.length

theorem CapElsewhere.refl (c : Nat) (s : State) : CapElsewhere c s s := ⟨fun _ _ => rfl, rfl⟩

theorem CapElsewhere.trans (h : CapElsewhere c r s) (h' : CapElsewhere c s t) : CapElsewhere c r t :=
  ⟨fun d hd => (h'.others d hd).trans (h.others d hd), h'.length.trans h.length⟩

theorem State.capCh_of_ch (h : t.cap.ch = s.cap.ch) (d : Nat) : t.capCh d = s.capCh d := congrArg (nth ({} : CapCh) · d) h

/-- What changes no channel leaves the others as they are. -/
theorem CapElsewhere.of_ch (h : CapElsewhere c r s) (hch : t.cap.ch = s.cap.ch) : CapElsewhere c r t :=
  h.trans ⟨fun d _ => State.capCh_of_ch hch d, congrArg List.length hch⟩

theorem CapElsewhere.modCap (h : CapElsewhere c r s) (f : CapCh → CapCh) : CapElsewhere c r (s.modCap c f) :=
  h.trans ⟨fun _ hd => s.capCh_modCap_ne f (Ne.symm hd), s.modCap_len c f⟩

theorem CapElsewhere.count (h : CapElsewhere c r s) (lo : Nat) : CapElsewhere c r (s.count lo) := h.of_ch (congrArg Cap.ch (s.count_cap lo))

theorem CapElsewhere.capEvent (h : CapElsewhere c r s) (i d : Nat) : CapElsewhere c r (s.capEvent i d) :=
  h.of_ch (congrArg Cap.ch (s.capEvent_cap i d))

theorem CapElsewhere.dramWrite (h : CapElsewhere c r s) (a : Nat) (bs : List Byte) : CapElsewhere c r (s.dramWrite a bs) :=
  h.of_ch (congrArg Cap.ch (s.dramWrite_cap a bs))

theorem State.capCh_count (s : State) (lo d : Nat) : (s.count lo).capCh d = s.capCh d := State.capCh_of_ch (congrArg Cap.ch (s.count_cap lo)) d

theorem State.capCh_capEvent (s : State) (i c d : Nat) : (s.capEvent i c).capCh d = s.capCh d :=
  State.capCh_of_ch (congrArg Cap.ch (s.capEvent_cap i c)) d

theorem State.capCh_dramWrite (s : State) (a : Nat) (bs : List Byte) (d : Nat) : (s.dramWrite a bs).capCh d = s.capCh d :=
  State.capCh_of_ch (congrArg Cap.ch (s.dramWrite_cap a bs)) d

theorem CapElsewhere.lt (h : CapElsewhere c r s) (hc : c < r.cap.ch.length) : c < s.cap.ch.length := h.length ▸ hc

/-! ### Bytes of DRAM and bits of CAP_EVT -/

/-- One byte is stored at its address and at no other. -/
theorem State.dramByte_dramWrite_one (s : State) (a : Nat) (b : Byte) (a' : Nat) :
    (s.dramWrite a [b]).dramByte a' = if a = a' then b else s.dramByte a' := mapGet_put ..

/-- A capture event reads 1 once it has been raised and a capture counter has counted. -/
theorem State.capEvt_capEvent_count (s : State) {i : Nat} (c k : Nat) (hi : i < 32) :
    (((s.capEvent i c).count (Reg.CAP_CNT_LO k)).reg Reg.CAP_EVT).getLsbD i = true := by
  rw [State.capEvt_count]
  exact s.capEvent_sets c hi

/-! ### Detections -/

/-- The state with other detections. -/
def State.withDetected (s : State) (l : List CapDet) : State := { s with cap := { s.cap with detected := l } }

theorem State.capCh_withDetected (s : State) (l : List CapDet) (d : Nat) : (s.withDetected l).capCh d = s.capCh d := rfl

theorem State.dram_withDetected (s : State) (l : List CapDet) : (s.withDetected l).dram = s.dram := rfl

theorem State.dramByte_withDetected (s : State) (l : List CapDet) (a : Nat) : (s.withDetected l).dramByte a = s.dramByte a := rfl

theorem State.withDetected_elsewhere (s : State) (c : Nat) (l : List CapDet) : CapElsewhere c s (s.withDetected l) :=
  ⟨fun _ _ => rfl, rfl⟩

/-! ### Arming (R365) -/

theorem State.capArmErr_busy (h : (s.capCh c).busy = true) : s.capArmErr c = 1 := if_pos h

theorem State.capArm_refused (h : s.capArmErr c ≠ 0) :
    s.capArm c = (s.modCap c fun k => { k with err := s.capArmErr c }).capEvent 11 c := if_pos h

/-- What a channel is from the moment it is armed. -/
def State.capArmed (s : State) (c : Nat) : CapCh :=
  { st := .armed, armedAt := s.dt, cfg := s.reg (Reg.CAP_CH_CFG c), time := s.reg (Reg.CAP_CH_TIME c), snap := s.reg (Reg.CAP_CH_SNAP c),
    holds := s.feHolds c }

theorem State.capArm_accepted (h : s.capArmErr c = 0) : s.capArm c =
    ((s.modCap c fun _ => s.capArmed c).withDetected (s.cap.detected.filter fun d => d.ch != c)).dramWrite (s.capBase c) [0] :=
  if_neg (not_not_intro h)

/-- A refused ARM changes the channel's ERR alone and raises ARM_ERR. -/
theorem State.capArm_of_err (h : s.capArmErr c ≠ 0) (hc : c < s.cap.ch.length) :
    (s.capArm c).capCh c = { s.capCh c with err := s.capArmErr c } ∧ CapElsewhere c s (s.capArm c) ∧
      ((s.capArm c).reg Reg.CAP_EVT).getLsbD 11 = true ∧ (s.capArm c).dram = s.dram := by
  rw [State.capArm_refused h]
  refine ⟨?_, ((CapElsewhere.refl c s).modCap _).capEvent 11 c, State.capEvent_sets _ c (by decide), ?_⟩
  · rw [State.capCh_capEvent, s.capCh_modCap_self _ hc]
  · rw [State.capEvent_dram, State.modCap_dram]

/-- An accepted ARM makes the channel a new one and clears the first byte of its region. -/
theorem State.capArm_of_ok (h : s.capArmErr c = 0) (hc : c < s.cap.ch.length) :
    (s.capArm c).capCh c = s.capArmed c ∧ CapElsewhere c s (s.capArm c) ∧
      ∀ a, (s.capArm c).dramByte a = if s.capBase c = a then 0 else s.dramByte a := by
  rw [State.capArm_accepted h]
  refine ⟨?_, (((CapElsewhere.refl c s).modCap _).trans (State.withDetected_elsewhere _ c _)).dramWrite _ _, fun a => ?_⟩
  · rw [State.capCh_dramWrite, State.capCh_withDetected, s.capCh_modCap_self _ hc]
  · rw [State.dramByte_dramWrite_one, State.dramByte_withDetected]
    rfl

/-! ### The end of a capture (R371 to R373) -/

theorem State.capClose_elsewhere (s : State) (c : Nat) (o : CapOpen) : CapElsewhere c s (s.capClose c o) := by
  have hrest : CapElsewhere c s (s.modCap c fun k => { k with opens := k.opens.filter fun p => p.red != o.red }) := (CapElsewhere.refl c s).modCap _
  rw [State.capClose]
  split
  · exact hrest.modCap _
  · exact ((hrest.of_ch rfl).modCap _).of_ch rfl

theorem State.foldl_capClose_elsewhere (c : Nat) : ∀ (l : List CapOpen) (s : State), CapElsewhere c s (l.foldl (fun s o => s.capClose c o) s)
  | [], s => .refl c s
  | o :: l, s => (s.capClose_elsewhere c o).trans (State.foldl_capClose_elsewhere c l (s.capClose c o))

/-- The state in which a capture stops, once its open blocks are closed. -/
def State.capClosed (s : State) (c : Nat) : State := (s.capCh c).opens.foldl (fun (s : State) o => s.capClose c o) s

theorem State.capClosed_elsewhere (s : State) (c : Nat) : CapElsewhere c s (s.capClosed c) :=
  State.foldl_capClose_elsewhere c (s.capCh c).opens s

/-- What stopping makes of a channel. -/
def CapCh.stopped (ring : Nat) (st : CapSt) (cause : Nat) (k : CapCh) : CapCh :=
  { k with st := st, ovfCause := cause, opens := [], startBseq := if k.st = .armed then k.bseq - min k.bseq ring else k.startBseq }

theorem State.capStop_ch (s : State) (c : Nat) (st : CapSt) (cause endAt : Nat) :
    (s.capStop c st cause endAt).cap.ch = ((s.capClosed c).modCap c (CapCh.stopped (s.capRing c) st cause)).cap.ch := rfl

theorem State.capStop_elsewhere (s : State) (c : Nat) (st : CapSt) (cause endAt : Nat) : CapElsewhere c s (s.capStop c st cause endAt) :=
  ((s.capClosed_elsewhere c).modCap _).of_ch (s.capStop_ch c st cause endAt)

/-- A channel that has stopped shows its final state and the cause, and no block is open. -/
theorem State.capCh_capStop (hc : c < s.cap.ch.length) (st : CapSt) (cause endAt : Nat) :
    ((s.capStop c st cause endAt).capCh c).st = st ∧ ((s.capStop c st cause endAt).capCh c).ovfCause = cause ∧
      ((s.capStop c st cause endAt).capCh c).opens = [] := by
  have hk : (s.capStop c st cause endAt).capCh c = ((s.capClosed c).capCh c).stopped (s.capRing c) st cause :=
    (State.capCh_of_ch (s.capStop_ch c st cause endAt) c).trans (State.capCh_modCap_self _ _ ((s.capClosed_elsewhere c).lt hc))
  rw [hk]
  exact ⟨rfl, rfl, rfl⟩

theorem capEndRow_idle (h : s.capEnded c = false) : capEndRow c s = s := if_neg (by simp [h])

theorem capEndRow_ends (h : s.capEnded c = true) :
    capEndRow c s = ((s.capStop c .done 0 (s.capCh c).endAt).capEvent c c).count (Reg.CAP_CNT_LO 2) := if_pos h

theorem capOverflowRow_idle {fifo : Bool} (h : (s.capCh c).st ≠ .triggered ∨ (fifo = false ∧ (s.capCh c).full = false)) :
    capOverflowRow c fifo s = s := by
  refine if_neg fun ⟨hst, hov⟩ => ?_
  rcases h with h | ⟨hfifo, hfull⟩
  · exact h hst
  · simp [hfifo, hfull] at hov

theorem capOverflowRow_overflows {fifo : Bool} (hst : (s.capCh c).st = .triggered) (h : fifo = true ∨ (s.capCh c).full = true) :
    capOverflowRow c fifo s =
      ((s.capStop c .overflow (if fifo then 2 else 1) (s.capCh c).lastEntry).capEvent (4 + c) c).count (Reg.CAP_CNT_LO 3) := if_pos ⟨hst, h⟩

/-- A capture whose end has come is DONE, with its event. -/
theorem capEndRow_done (h : s.capEnded c = true) (h4 : c < 4) (hc : c < s.cap.ch.length) :
    ((capEndRow c s).capCh c).st = .done ∧ ((capEndRow c s).capCh c).opens = [] ∧ CapElsewhere c s (capEndRow c s) ∧
      ((capEndRow c s).reg Reg.CAP_EVT).getLsbD c = true := by
  rw [capEndRow_ends h]
  obtain ⟨hst, -, hopens⟩ := State.capCh_capStop hc .done 0 (s.capCh c).endAt
  rw [State.capCh_count, State.capCh_capEvent]
  exact ⟨hst, hopens, ((s.capStop_elsewhere c .done 0 (s.capCh c).endAt).capEvent c c).count _, State.capEvt_capEvent_count _ c 2 (by omega)⟩

/-- A capture that has run out of space is in OVERFLOW with the cause and its event. -/
theorem capOverflowRow_overflow {fifo : Bool} (hst : (s.capCh c).st = .triggered) (h : fifo = true ∨ (s.capCh c).full = true) (h4 : c < 4)
    (hc : c < s.cap.ch.length) :
    ((capOverflowRow c fifo s).capCh c).st = .overflow ∧ ((capOverflowRow c fifo s).capCh c).ovfCause = (if fifo then 2 else 1) ∧
      ((capOverflowRow c fifo s).capCh c).opens = [] ∧ CapElsewhere c s (capOverflowRow c fifo s) ∧
      ((capOverflowRow c fifo s).reg Reg.CAP_EVT).getLsbD (4 + c) = true := by
  rw [capOverflowRow_overflows hst h]
  generalize (if fifo then 2 else 1) = cause
  obtain ⟨hst, hcause, hopens⟩ := State.capCh_capStop hc .overflow cause (s.capCh c).lastEntry
  rw [State.capCh_count, State.capCh_capEvent]
  exact ⟨hst, hcause, hopens, ((s.capStop_elsewhere c .overflow cause (s.capCh c).lastEntry).capEvent (4 + c) c).count _,
    State.capEvt_capEvent_count _ c 3 (by omega)⟩

/-! ### Aborts (R364, R373) -/

/-- A channel as it is, but for the result of the last ABORT. -/
theorem State.capCh_abortRes (hc : c < s.cap.ch.length) (n : Nat) :
    (s.modCap c fun k => { k with abortRes := n }).capCh c = { s.capCh c with abortRes := n } := s.capCh_modCap_self _ hc

theorem State.capAbort_armed (h : (s.capCh c).st = .armed) : s.capAbort c =
    ((s.modCap c fun _ => { abortRes := 1 }).withDetected (s.cap.detected.filter fun d => d.ch != c)).count (Reg.CAP_CNT_LO 4) := by
  simp only [State.capAbort, h]
  rfl

theorem State.capAbort_triggered (h : (s.capCh c).st = .triggered) : s.capAbort c =
    if s.capEnded c then (capEndRow c s).modCap c fun k => { k with abortRes := 2 }
    else if (s.capCh c).full then (capOverflowRow c false s).modCap c fun k => { k with abortRes := 2 }
    else ((s.capStop c .aborted 0 (s.capCh c).lastEntry).modCap c fun k => { k with abortRes := 1 }).count (Reg.CAP_CNT_LO 4) := by
  simp only [State.capAbort, h]

theorem State.capAbort_of_armed (h : (s.capCh c).st = .armed) (hc : c < s.cap.ch.length) :
    (s.capAbort c).capCh c = { abortRes := 1 } ∧ CapElsewhere c s (s.capAbort c) ∧ (s.capAbort c).dram = s.dram := by
  rw [State.capAbort_armed h]
  refine ⟨?_, (((CapElsewhere.refl c s).modCap _).trans (State.withDetected_elsewhere _ c _)).count _, ?_⟩
  · rw [State.capCh_count, State.capCh_withDetected, s.capCh_modCap_self _ hc]
  · rw [State.count_dram, State.dram_withDetected, State.modCap_dram]

section triggered

variable (h : (s.capCh c).st = .triggered) (hc : c < s.cap.ch.length)
include h hc

/-- The end comes before the ABORT. -/
theorem State.capAbort_of_ended (h4 : c < 4) (hend : s.capEnded c = true) : ((s.capAbort c).capCh c).st = .done ∧
    ((s.capAbort c).capCh c).abortRes = 2 ∧ ((s.capAbort c).capCh c).opens = [] ∧ CapElsewhere c s (s.capAbort c) := by
  obtain ⟨hst, hopens, helse, -⟩ := capEndRow_done hend h4 hc
  rw [State.capAbort_triggered h, if_pos hend, State.capCh_abortRes (helse.lt hc)]
  exact ⟨hst, rfl, hopens, helse.modCap _⟩

/-- The ring is full before the ABORT. -/
theorem State.capAbort_of_full (h4 : c < 4) (hend : s.capEnded c = false) (hfull : (s.capCh c).full = true) :
    ((s.capAbort c).capCh c).st = .overflow ∧ ((s.capAbort c).capCh c).ovfCause = 1 ∧ ((s.capAbort c).capCh c).abortRes = 2 ∧
      ((s.capAbort c).capCh c).opens = [] ∧ CapElsewhere c s (s.capAbort c) := by
  obtain ⟨hst, hcause, hopens, helse, -⟩ := capOverflowRow_overflow (fifo := false) h (.inr hfull) h4 hc
  rw [State.capAbort_triggered h, if_neg (by simp [hend]), if_pos hfull, State.capCh_abortRes (helse.lt hc)]
  exact ⟨hst, hcause, rfl, hopens, helse.modCap _⟩

/-- Otherwise the capture ends ABORTED. -/
theorem State.capAbort_of_running (hend : s.capEnded c = false) (hfull : (s.capCh c).full = false) :
    ((s.capAbort c).capCh c).st = .aborted ∧ ((s.capAbort c).capCh c).abortRes = 1 ∧ ((s.capAbort c).capCh c).opens = [] ∧
      CapElsewhere c s (s.capAbort c) := by
  have helse := s.capStop_elsewhere c .aborted 0 (s.capCh c).lastEntry
  obtain ⟨hst, -, hopens⟩ := State.capCh_capStop hc .aborted 0 (s.capCh c).lastEntry
  have hrow : s.capAbort c = ((s.capStop c .aborted 0 (s.capCh c).lastEntry).modCap c fun k => { k with abortRes := 1 }).count (Reg.CAP_CNT_LO 4) := by
    rw [State.capAbort_triggered h, if_neg (by simp [hend]), if_neg (by simp [hfull])]
  have hk : (s.capAbort c).capCh c = { (s.capStop c .aborted 0 (s.capCh c).lastEntry).capCh c with abortRes := 1 } := by
    rw [hrow, State.capCh_count, State.capCh_abortRes (helse.lt hc)]
  rw [hk, hrow]
  exact ⟨hst, rfl, hopens, (helse.modCap _).count _⟩

end triggered

theorem State.capAbort_idle (h : (s.capCh c).busy = false) : s.capAbort c = s.modCap c fun k => { k with abortRes := 2 } := by
  simp only [State.capAbort]
  split
  next ha => simp [CapCh.busy, ha] at h
  next ht => simp [CapCh.busy, ht] at h
  next => rfl

end Sys2Proof.Machine
end

section
/-! SUPPORT. The triggers of the capture channels (R368, R370, R371, R374, R377): which detection is taken and what it leaves of the channel, by
condition and by software; and what the capture engine does as a whole. -/

namespace Sys2Proof.Machine

variable {s : State} {c : Nat}

/-! ### Taking a trigger (R370, R371, R374, R377) -/

theorem State.setTs_cap (s : State) (o n : Nat) : (s.setTs o n).cap = s.cap := by simp only [State.setTs, State.setReg_cap]

/-- A request for a pulse leaves of the channel that makes it all but the loss of that pulse; the others and the detections stay. -/
theorem State.trgRequest_ch (s : State) (line code c : Nat) : ∃ f : CapCh → CapCh, (∀ k, ∃ b, f k = { k with toutLost := b }) ∧
    (s.trgRequest line ⟨code, some c⟩).cap.ch = (s.modCap c f).cap.ch ∧ (s.trgRequest line ⟨code, some c⟩).cap.detected = s.cap.detected := by
  have hid : s.cap.ch = (s.modCap c id).cap.ch := (List.modify_id c s.cap.ch).symm
  unfold State.trgRequest
  split
  · exact ⟨id, fun k => ⟨k.toutLost, rfl⟩, hid, rfl⟩
  · split
    · exact ⟨id, fun k => ⟨k.toutLost, rfl⟩, hid, rfl⟩
    · exact ⟨_, fun k => ⟨true, rfl⟩, rfl, rfl⟩

/-- What a trigger leaves of an ARMED channel k (R368, R370): TRIGGERED at T by the detection's entry, with PRE_SHORT by the time from the ARM. -/
structure CapCh.TriggeredBy (k k' : CapCh) (d : CapDet) : Prop where
  st : k'.st = .triggered
  trigAt : k'.trigAt = d.at_
  trigType : k'.trigType = d.typ
  swtrig : k'.swtrig = (d.entry == 8)
  preShort : k'.preShort = decide (d.at_ - k.pre < k.armedAt)

/-- An ARMED channel takes a trigger: it alone changes, and the detections stay. -/
theorem State.capTake_armed (h : (s.capCh c).st = .armed) (hc : c < s.cap.ch.length) (d : CapDet) :
    (s.capCh c).TriggeredBy ((s.capTake c d).capCh c) d ∧ (s.capTake c d).cap.detected = s.cap.detected ∧
      CapElsewhere c s (s.capTake c d) := by
  simp only [State.capTake, h]
  generalize hs1 : s.modCap c _ = s1
  have htaken : (s.capCh c).TriggeredBy (s1.capCh c) d := by
    rw [← hs1, State.capCh_modCap_self _ _ hc]
    exact ⟨rfl, rfl, rfl, rfl, rfl⟩
  have hdet : s1.cap.detected = s.cap.detected := by rw [← hs1]; rfl
  have helse : CapElsewhere c s s1 := hs1 ▸ (CapElsewhere.refl c s).modCap _
  generalize hs2 : (s1.setTs _ _).count _ = s2
  have hcap : s2.cap = s1.cap := by rw [← hs2, State.count_cap, State.setTs_cap]
  rw [← State.capCh_of_ch (congrArg Cap.ch hcap)] at htaken
  rw [← hcap] at hdet
  have helse := helse.of_ch (congrArg Cap.ch hcap)
  split
  · obtain ⟨f, hf, hch, hdet'⟩ := s2.trgRequest_ch (s2.fld (Reg.CAP_CH_TOUT c) 1 2) (s2.fld (Reg.CAP_CH_TOUT c) 3 3) c
    obtain ⟨b, hb⟩ := hf (s2.capCh c)
    refine ⟨?_, hdet'.trans hdet, (helse.modCap f).of_ch hch⟩
    rw [State.capCh_of_ch hch, State.capCh_modCap_self _ _ (helse.lt hc), hb]
    obtain ⟨hst, hat, htyp, hsw, hpre⟩ := htaken
    exact ⟨hst, hat, htyp, hsw, hpre⟩
  · exact ⟨htaken, hdet, helse⟩

/-- A trigger of a channel that is TRIGGERED counts and, with RETRIG, moves the end. -/
def CapCh.retriggered (k : CapCh) (d : CapDet) : CapCh :=
  { k with retrigN := min (k.retrigN + 1) 255, lastTrig := if bitOf k.cfg.toNat 28 then d.at_ else k.lastTrig }

theorem State.capTake_triggered (h : (s.capCh c).st = .triggered) (d : CapDet) :
    s.capTake c d = (s.modCap c (·.retriggered d)).count (Reg.CAP_CNT_LO 1) := by
  simp only [State.capTake, h]
  rfl

theorem State.capTake_of_triggered (h : (s.capCh c).st = .triggered) (hc : c < s.cap.ch.length) (d : CapDet) :
    (s.capTake c d).capCh c = (s.capCh c).retriggered d ∧ (s.capTake c d).cap.detected = s.cap.detected ∧ CapElsewhere c s (s.capTake c d) := by
  rw [State.capTake_triggered h]
  refine ⟨?_, ?_, ((CapElsewhere.refl c s).modCap _).count _⟩
  · rw [State.capCh_count, s.capCh_modCap_self _ hc]
  · rw [State.count_cap, State.modCap_cap]

/-! ### Detections (R368) -/

theorem find?_detected_none (h : ∀ d ∈ s.cap.detected, d.ch ≠ c) : s.cap.detected.find? (fun d => d.ch == c) = none :=
  List.find?_eq_none.mpr fun d hd => by simpa using h d hd

/-- The earliest of a list is one of it, and none of it is earlier. -/
theorem earliestDet_spec : ∀ {l : List CapDet}, l ≠ [] →
    ∃ e, earliestDet l = some e ∧ e ∈ l ∧ ∀ x ∈ l, e.at_ < x.at_ ∨ e.at_ = x.at_ ∧ e.entry ≤ x.entry
  | [d], _ => ⟨d, rfl, List.mem_singleton_self d, fun x hx => .inr (by rw [List.mem_singleton.mp hx]; exact ⟨rfl, le_rfl⟩)⟩
  | d :: d' :: ds, _ => by
    obtain ⟨e, he, hmem, hmin⟩ := earliestDet_spec (List.cons_ne_nil d' ds)
    by_cases hlt : e.at_ < d.at_ ∨ (e.at_ = d.at_ ∧ e.entry < d.entry)
    · refine ⟨e, by rw [earliestDet, he]; exact if_pos hlt, List.mem_cons_of_mem d hmem, fun x hx => ?_⟩
      rcases List.mem_cons.mp hx with rfl | hx
      · omega
      · exact hmin x hx
    · refine ⟨d, by rw [earliestDet, he]; exact if_neg hlt, List.mem_cons_self, fun x hx => ?_⟩
      rcases List.mem_cons.mp hx with rfl | hx
      · omega
      · have hx := hmin x hx
        omega

theorem capTriggerRow_none (h : ∀ d ∈ s.cap.detected, d.ch ≠ c) : capTriggerRow c s = s := by
  rw [capTriggerRow, find?_detected_none h]

/-- The channel's detections made together with d. -/
def State.seenWith (s : State) (c : Nat) (d : CapDet) : List CapDet := s.cap.detected.filter fun x => x.ch == c && x.seen == d.seen

/-- The detections that are none of these. -/
def State.seenApart (s : State) (c : Nat) (d : CapDet) : List CapDet := s.cap.detected.filter fun x => !(x.ch == c && x.seen == d.seen)

/-- A detection is the earliest of some, by T and then by entry. -/
def CapDet.EarliestOf (e : CapDet) (l : List CapDet) : Prop := e ∈ l ∧ ∀ x ∈ l, e.at_ < x.at_ ∨ e.at_ = x.at_ ∧ e.entry ≤ x.entry

section found

variable {d : CapDet} (h : s.cap.detected.find? (fun d => d.ch == c) = some d)
include h

/-- Of the detections made together with the oldest one of the channel the earliest is taken, and all of them go. -/
theorem capTriggerRow_takes : ∃ e : CapDet, e.EarliestOf (s.seenWith c d) ∧ capTriggerRow c s = (s.withDetected (s.seenApart c d)).capTake c e := by
  have hd : d ∈ s.seenWith c d := List.mem_filter.mpr ⟨List.mem_of_find?_eq_some h, by simpa using List.find?_some h⟩
  obtain ⟨e, he, hearliest⟩ := earliestDet_spec (List.ne_nil_of_mem hd)
  refine ⟨e, hearliest, ?_⟩
  rw [State.seenWith] at he
  simp only [capTriggerRow, h, he]
  rfl

variable (hc : c < s.cap.ch.length)
include hc

theorem capTriggerRow_armed (hst : (s.capCh c).st = .armed) : ∃ e : CapDet, e.EarliestOf (s.seenWith c d) ∧
    (s.capCh c).TriggeredBy ((capTriggerRow c s).capCh c) e ∧ (capTriggerRow c s).cap.detected = s.seenApart c d ∧
      CapElsewhere c s (capTriggerRow c s) := by
  obtain ⟨e, he, hrow⟩ := capTriggerRow_takes h
  obtain ⟨hk, hdet, helse⟩ := State.capTake_armed (s := s.withDetected (s.seenApart c d)) hst hc e
  rw [hrow]
  exact ⟨e, he, hk, hdet, (s.withDetected_elsewhere c _).trans helse⟩

theorem capTriggerRow_triggered (hst : (s.capCh c).st = .triggered) : ∃ e : CapDet,
    (capTriggerRow c s).capCh c = (s.capCh c).retriggered e ∧ (capTriggerRow c s).cap.detected = s.seenApart c d ∧
      CapElsewhere c s (capTriggerRow c s) := by
  obtain ⟨e, -, hrow⟩ := capTriggerRow_takes h
  obtain ⟨hk, hdet, helse⟩ := State.capTake_of_triggered (s := s.withDetected (s.seenApart c d)) hst hc e
  rw [hrow]
  exact ⟨e, hk, hdet, (s.withDetected_elsewhere c _).trans helse⟩

end found

/-! ### Triggers by software (R368) -/

/-- The detection that a write of SWTRIG makes. -/
def State.swDet (s : State) (c : Nat) : CapDet := ⟨c, 8, 0, s.dt, 0, s.dt⟩

theorem State.capSwtrig_idle (h : (s.capCh c).busy = false) : s.capSwtrig c = s := if_neg (by simp [h])

theorem State.capSwtrig_busy (h : (s.capCh c).busy = true) : s.capSwtrig c =
    ((s.withDetected (s.cap.detected ++ [s.swDet c])).cap.detected.filter fun d => d.ch == c).foldl (fun s _ => capTriggerRow c s)
      (s.withDetected (s.cap.detected ++ [s.swDet c])) := if_pos h

/-- Of a list and one entry more a test that fails on the list picks the entry, and its opposite the list. -/
theorem filter_append_one {α : Type} {p : α → Bool} {l : List α} {x : α} (hl : ∀ a ∈ l, p a = false) (hx : p x = true) :
    (l ++ [x]).filter p = [x] ∧ (l ++ [x]).filter (fun a => !p a) = l := by
  have hnone : l.filter p = [] := List.filter_eq_nil_iff.mpr fun a ha => Bool.eq_false_iff.mp (hl a ha)
  have hall : l.filter (fun a => !p a) = l := List.filter_eq_self.mpr fun a ha => by rw [hl a ha]; rfl
  simp [List.filter_append, hnone, hall, hx]

/-- With nothing detected before it for the channel, SWTRIG is the trigger that the channel takes. -/
theorem State.capSwtrig_takes (h : (s.capCh c).busy = true) (hnone : ∀ d ∈ s.cap.detected, d.ch ≠ c) :
    s.capSwtrig c = s.capTake c (s.swDet c) := by
  have hold : ∀ d ∈ s.cap.detected, (d.ch == c) = false := fun d hd => beq_eq_false_iff_ne.mpr (hnone d hd)
  have hfind : (s.withDetected (s.cap.detected ++ [s.swDet c])).cap.detected.find? (fun d => d.ch == c) = some (s.swDet c) := by
    rw [State.withDetected, List.find?_append, find?_detected_none hnone]
    simp [State.swDet]
  obtain ⟨hone, -⟩ := filter_append_one hold (x := s.swDet c) (beq_self_eq_true c)
  obtain ⟨hseen, hrest⟩ := filter_append_one (p := fun d => d.ch == c && d.seen == (s.swDet c).seen) (l := s.cap.detected)
    (x := s.swDet c) (fun d hd => by rw [hold d hd, Bool.false_and]) (by simp [State.swDet])
  obtain ⟨e, ⟨he, -⟩, hrow⟩ := capTriggerRow_takes hfind
  have he : e = s.swDet c := List.mem_singleton.mp (hseen ▸ he)
  rw [State.capSwtrig_busy h]
  show List.foldl _ _ ((s.cap.detected ++ [s.swDet c]).filter _) = _
  rw [hone]
  refine hrow.trans ?_
  show State.capTake (State.withDetected _ ((s.cap.detected ++ [s.swDet c]).filter _)) c e = _
  rw [hrest, he]
  rfl

/-! ### The obligation -/

/-- A write of CAP_CH_CTRL that reaches the unit is what the unit makes of it. -/
theorem State.capCtrl_reaches {v : Word} (h4 : c < 4) (hcap : s.hasCap = true) (hR : s.Reaches (Reg.CAP_CH_CTRL c) v) (f : State → State) :
    (if c < 4 then s.busWrite (Reg.CAP_CH_CTRL c) v 63 (fun s => if s.hasCap ∧ c < 4 then f s else s) else s) = f s :=
  (if_pos h4).trans ((State.busWrite_reaches hR _).trans (if_pos ⟨hcap, h4⟩))

theorem answers_capChArm (h4 : c < 4) (hcap : s.hasCap = true) (hR : s.Reaches (Reg.CAP_CH_CTRL c) 1) :
    Answers (.capChArm c) s (s.capArm c) :=
  congrArg (fun t => Host.Outcome.next (State.after s t)) (State.capCtrl_reaches h4 hcap hR (·.capArm c))

theorem answers_capChAbort (h4 : c < 4) (hcap : s.hasCap = true) (hR : s.Reaches (Reg.CAP_CH_CTRL c) 2) :
    Answers (.capChAbort c) s (s.capAbort c) :=
  congrArg (fun t => Host.Outcome.next (State.after s t)) (State.capCtrl_reaches h4 hcap hR (·.capAbort c))

theorem answers_capChSwtrig (h4 : c < 4) (hcap : s.hasCap = true) (hR : s.Reaches (Reg.CAP_CH_CTRL c) 4) :
    Answers (.capChSwtrig c) s (s.capSwtrig c) :=
  congrArg (fun t => Host.Outcome.next (State.after s t)) (State.capCtrl_reaches h4 hcap hR (·.capSwtrig c))

/-- A write to a channel there is not changes nothing. -/
theorem answers_capCh_out (h4 : 4 ≤ c) (u : State) : Host.Outcome.next (State.after s (if c < 4 then u else s)) =
    (Host.Outcome.next (State.after s s) : Host.Outcome State Fault Refusal) := by
  rw [if_neg (Nat.not_lt.mpr h4)]

theorem CapCh.busy_iff {k : CapCh} : k.busy = true ↔ k.st = .armed ∨ k.st = .triggered := by simp [CapCh.busy]

/-- Settles O45: the branches of each command, each of which changes the command's channel alone. -/
theorem captureRuns : Obligations.CaptureRuns := by
  unfold Obligations.CaptureRuns
  intro c s k others
  have trigger {u : State} (h : capTriggerRow c s = u) : Answers (.capTrigger c) s u := h ▸ rfl
  have overflow {fifo : Bool} {u : State} (h : capOverflowRow c fifo s = u) : Answers (.capOverflow c fifo) s u := h ▸ rfl
  have ends {u : State} (h : capEndRow c s = u) : Answers (.capEnd c) s u := h ▸ rfl
  refine ⟨fun h4 => ⟨answers_capCh_out h4 _, answers_capCh_out h4 _, answers_capCh_out h4 _⟩,
    fun h4 hc => ⟨fun hR hcap => ⟨State.capArmErr_busy, fun herr => ?_, fun herr => ?_⟩,
    fun hR hcap => ⟨fun hst => ?_, fun hst hend hfull => ?_, fun hst hend hfull => ?_, fun hst hend => ?_, fun hidle => ?_⟩,
    fun hR hcap => ⟨fun hbusy => ?_, fun hst hnone => ?_, fun hst hnone => ?_, fun hidle => ?_⟩,
    fun hnone => trigger (capTriggerRow_none hnone), fun d hd => ⟨fun hst => ?_, fun hst => ?_⟩,
    fun fifo => ⟨fun hst hov => ?_, fun h => overflow (capOverflowRow_idle h)⟩, fun h => ends (capEndRow_idle h), fun h => ?_⟩⟩
  · obtain ⟨hk, helse, hevt, hdram⟩ := State.capArm_of_err herr hc
    exact ⟨_, answers_capChArm h4 hcap hR, hk, helse.others, hevt, hdram⟩
  · obtain ⟨hk, helse, hbyte⟩ := State.capArm_of_ok herr hc
    refine ⟨_, answers_capChArm h4 hcap hR, ?_⟩
    rw [hk]
    exact ⟨rfl, rfl, rfl, rfl, rfl, rfl, rfl, helse.others, (hbyte _).trans (if_pos rfl), fun a ha => (hbyte a).trans (if_neg (Ne.symm ha))⟩
  · obtain ⟨hk, helse, hdram⟩ := State.capAbort_of_armed hst hc
    refine ⟨_, answers_capChAbort h4 hcap hR, ?_⟩
    rw [hk]
    exact ⟨rfl, rfl, helse.others, hdram⟩
  · obtain ⟨hst', hcause, hres, hopens, helse⟩ := State.capAbort_of_full hst hc h4 hend hfull
    exact ⟨_, answers_capChAbort h4 hcap hR, hst', hcause, hres, hopens, helse.others⟩
  · obtain ⟨hst', hres, hopens, helse⟩ := State.capAbort_of_running hst hc hend hfull
    exact ⟨_, answers_capChAbort h4 hcap hR, hst', hres, hopens, helse.others⟩
  · obtain ⟨hst', hres, hopens, helse⟩ := State.capAbort_of_ended hst hc h4 hend
    exact ⟨_, answers_capChAbort h4 hcap hR, hst', hres, hopens, helse.others⟩
  · have e := answers_capChAbort h4 hcap hR
    rwa [State.capAbort_idle hidle] at e
  · have e := answers_capChSwtrig h4 hcap hR
    rwa [State.capSwtrig_busy hbusy] at e
  · have e := answers_capChSwtrig h4 hcap hR
    rw [State.capSwtrig_takes (CapCh.busy_iff.mpr (.inl hst)) hnone] at e
    obtain ⟨hk, hdet, helse⟩ := State.capTake_armed hst hc (s.swDet c)
    exact ⟨_, e, hdet, hk.st, hk.trigAt, hk.swtrig, hk.preShort, helse.others⟩
  · have e := answers_capChSwtrig h4 hcap hR
    rw [State.capSwtrig_takes (CapCh.busy_iff.mpr (.inr hst)) hnone] at e
    obtain ⟨hk, -, helse⟩ := State.capTake_of_triggered hst hc (s.swDet c)
    refine ⟨_, e, ?_⟩
    rw [hk]
    exact ⟨rfl, rfl, rfl, helse.others⟩
  · have e := answers_capChSwtrig h4 hcap hR
    rwa [State.capSwtrig_idle hidle] at e
  · obtain ⟨e, ⟨he, hmin⟩, hk, hdet, helse⟩ := capTriggerRow_armed hd hc hst
    exact ⟨_, e, trigger rfl, he, hmin, hk.st, hk.trigAt, hk.trigType, hdet, helse.others⟩
  · obtain ⟨e, hk, hdet, helse⟩ := capTriggerRow_triggered hd hc hst
    refine ⟨_, trigger rfl, ?_⟩
    rw [hk]
    exact ⟨hst, rfl, rfl, hdet, helse.others⟩
  · obtain ⟨hst', hcause, hopens, helse, hevt⟩ := capOverflowRow_overflow hst hov h4 hc
    exact ⟨_, overflow rfl, hst', hcause, hopens, helse.others, hevt⟩
  · obtain ⟨hst, hopens, helse, hevt⟩ := capEndRow_done h h4 hc
    exact ⟨_, ends rfl, hst, hopens, helse.others, hevt⟩

end Sys2Proof.Machine
end

section
/-! SUPPORT. A step is the front command's, every command answers, and the state after reset is in canonical form. -/

namespace Sys2Proof.Machine

/-- Settles O1: step looks at the queue alone to choose the command. -/
theorem stepRunsFrontCommand : Obligations.StepRunsFrontCommand := by
  unfold Obligations.StepRunsFrontCommand
  refine ⟨fun c rest s => rfl, fun s h => ?_⟩
  simp [step, h]

/-- Settles O2: no register and no byte of DRAM has been written. -/
theorem resetMeetsInvariant : Obligations.ResetMeetsInvariant :=
  ⟨⟨mapWf_nil, mapWf_nil⟩, rfl, rfl⟩

/-- Every command answers a next state, which is part of what exec_keeps says of it. -/
theorem exists_exec_next (c : Instr) (s : State) : ∃ t, exec c s = .next t := by
  obtain ⟨t, h, -⟩ := exec_keeps c s
  exact ⟨t, h⟩

/-- Settles O6: said once of every command, it holds of each by its name. -/
theorem everyCommandAnswers : Obligations.EveryCommandAnswers := by
  unfold Obligations.EveryCommandAnswers
  refine ⟨exists_exec_next, ?_⟩
  and_intros <;> intros <;> exact exists_exec_next _ _

end Sys2Proof.Machine
end
section
/-! SUPPORT. What completing manifests moves (R425, R427, R431): the ring pairs and registers alone. And what the end of an action of a
flash or read manifest moves (R433, R445, R446). -/

namespace Sys2Proof.Machine

variable {r s t : State}

/-! ### Completions -/

/-- Only the ring pairs, as many as before, and registers differ. -/
def RingsMoved (s t : State) : Prop :=
  ∃ ring regs, ring.length = s.hif.ring.length ∧ t = { s with hif := { s.hif with ring := ring }, regs := regs }

theorem RingsMoved.refl (s : State) : RingsMoved s s := ⟨_, _, rfl, rfl⟩

theorem RingsMoved.trans (h : RingsMoved r s) (h' : RingsMoved s t) : RingsMoved r t := by
  obtain ⟨_, _, hl, rfl⟩ := h
  obtain ⟨ring, regs, hl', rfl⟩ := h'
  exact ⟨ring, regs, hl'.trans hl, rfl⟩

theorem RingsMoved.ite {a b : State} {c : Prop} [Decidable c] (ha : RingsMoved s a) (hb : RingsMoved s b) :
    RingsMoved s (if c then a else b) := by
  split <;> assumption

theorem RingsMoved.foldl {α : Type} {f : State → α → State} (hf : ∀ x a, RingsMoved x (f x a)) :
    ∀ (s : State) (l : List α), RingsMoved s (l.foldl f s)
  | s, [] => .refl s
  | s, a :: l => (hf s a).trans (RingsMoved.foldl hf (f s a) l)

theorem State.setReg_ringsMoved (s : State) (o : Nat) (v : Word) : RingsMoved s (s.setReg o v) := ⟨_, _, rfl, rfl⟩

theorem State.count_ringsMoved (s : State) (o : Nat) : RingsMoved s (s.count o) :=
  (s.setReg_ringsMoved _ _).trans (State.setReg_ringsMoved _ _ _)

theorem State.modRing_ringsMoved (s : State) (n : Nat) (f : Ring → Ring) : RingsMoved s (s.modRing n f) :=
  ⟨_, _, List.length_modify _ _ _, rfl⟩

theorem State.ringSettle_ringsMoved (s : State) (n : Nat) : RingsMoved s (s.ringSettle n) :=
  .ite (s.modRing_ringsMoved _ _) (.refl s)

theorem State.finishOne_ringsMoved (s : State) (mid st d0 : Nat) (b : List Byte) : RingsMoved s (s.finishOne mid st d0 b) := by
  unfold State.finishOne
  split
  · exact .refl s
  · exact ((RingsMoved.foldl (fun x _ => x.modRing_ringsMoved _ _) _ _).trans
      (.ite (State.count_ringsMoved _ _) (.refl _))).trans (State.ringSettle_ringsMoved _ _)

theorem State.finishRaw_ringsMoved (s : State) (mid st d0 : Nat) (b : List Byte) : RingsMoved s (s.finishRaw mid st d0 b) :=
  (s.finishOne_ringsMoved mid st d0 b).trans (.foldl (fun x _ => x.finishOne_ringsMoved _ _ _ _) _ _)

theorem State.autoComplete_ringsMoved (k : Nat) (s : State) (n : Nat) : RingsMoved s (State.autoComplete k s n) := by
  induction k generalizing s with
  | zero => exact .refl s
  | succ k ih =>
    unfold State.autoComplete
    refine .ite ?_ (.refl s)
    split
    · split
      · exact (s.finishRaw_ringsMoved _ _ _ _).trans (ih _)
      · exact .refl s
    · exact .refl s

theorem State.autoAll_ringsMoved (s : State) : RingsMoved s s.autoAll :=
  .foldl (fun x _ => State.autoComplete_ringsMoved _ x _) _ _

theorem State.finish_ringsMoved (s : State) (mid st d0 : Nat) (b : List Byte) : RingsMoved s (s.finish mid st d0 b) :=
  (s.finishRaw_ringsMoved mid st d0 b).trans (State.autoAll_ringsMoved _)

/-! ### Actions that end -/

/-- Beside ring pairs and registers, the flash but for its subsystem record, what has been put out and the fault reports differ. -/
def ActsEnded (s t : State) : Prop :=
  ∃ ring regs flash out flt, ring.length = s.hif.ring.length ∧ flash.subsys = s.flash.subsys ∧
    t = { s with hif := { s.hif with ring := ring }, regs := regs, flash := flash, out := out, flt := flt }

theorem RingsMoved.actsEnded (h : RingsMoved s t) : ActsEnded s t := by
  obtain ⟨ring, regs, hl, rfl⟩ := h
  exact ⟨ring, regs, _, _, _, hl, rfl, rfl⟩

theorem ActsEnded.refl (s : State) : ActsEnded s s := (RingsMoved.refl s).actsEnded

theorem ActsEnded.trans (h : ActsEnded r s) (h' : ActsEnded s t) : ActsEnded r t := by
  obtain ⟨_, _, _, _, _, hl, hf, rfl⟩ := h
  obtain ⟨ring, regs, flash, out, flt, hl', hf', rfl⟩ := h'
  exact ⟨ring, regs, flash, out, flt, hl'.trans hl, hf'.trans hf, rfl⟩

theorem ActsEnded.foldl {α : Type} {f : State → α → State} (hf : ∀ x a, ActsEnded x (f x a)) :
    ∀ (s : State) (l : List α), ActsEnded s (l.foldl f s)
  | s, [] => .refl s
  | s, a :: l => (hf s a).trans (ActsEnded.foldl hf (f s a) l)

theorem ActsEnded.finish (h : ActsEnded s t) (mid st d0 : Nat) (b : List Byte) : ActsEnded s (t.finish mid st d0 b) :=
  h.trans (t.finish_ringsMoved mid st d0 b).actsEnded

theorem State.emit_actsEnded (s : State) (o : Output) : ActsEnded s (s.emit o) := ⟨_, _, _, _, _, rfl, rfl, rfl⟩

theorem State.withFlash_actsEnded (s : State) {flash : Flash} (h : flash.subsys = s.flash.subsys) :
    ActsEnded s { s with flash := flash } :=
  ⟨_, _, _, _, _, rfl, h, rfl⟩

theorem State.flashFail_actsEnded (s : State) : ActsEnded s s.flashFail := by
  unfold State.flashFail State.report
  split
  · exact (s.setReg_ringsMoved _ _).actsEnded
  · exact ⟨_, _, _, _, _, rfl, rfl, rfl⟩

theorem Flash.putCfg_subsys (f : Flash) (slot : Nat) (v : Option FlashCfg) : (f.putCfg slot v).subsys = f.subsys := by
  unfold Flash.putCfg
  split <;> rfl

theorem Flash.putFw_subsys (f : Flash) (i : Nat) (v : Option FwSlot) : (f.putFw i v).subsys = f.subsys := by
  unfold Flash.putFw
  split <;> rfl

theorem State.cfgSaveEnd_actsEnded (s : State) (mid : Nat) (b : List Byte) (set : CfgSet) (imageId : Word) (ok : Bool) :
    ActsEnded s (s.cfgSaveEnd mid b set imageId ok) := by
  unfold State.cfgSaveEnd
  extract_lets slot f1 f2
  split
  · refine (s.withFlash_actsEnded ?_).finish _ _ _ _
    unfold f2
    split <;> exact Flash.putCfg_subsys _ _ _
  · exact ((s.withFlash_actsEnded (Flash.putCfg_subsys _ _ _)).trans (State.flashFail_actsEnded _)).finish _ _ _ _

theorem State.cfgReadEnd_actsEnded (s : State) (mid : Nat) (b img : List Byte) (ok : Bool) : ActsEnded s (s.cfgReadEnd mid b img ok) := by
  unfold State.cfgReadEnd
  split
  · exact (s.emit_actsEnded _).finish _ _ _ _
  · exact (ActsEnded.refl s).finish _ _ _ _

theorem State.mtrReadEnd_actsEnded (s : State) (mid : Nat) (b : List Byte) (ok : Bool) : ActsEnded s (s.mtrReadEnd mid b ok) := by
  unfold State.mtrReadEnd
  extract_lets recs
  split
  · refine ActsEnded.finish ?_ _ _ _ _
    split
    · exact .refl s
    · exact s.emit_actsEnded _
  · exact (ActsEnded.refl s).finish _ _ _ _

theorem State.fwStageEnd_actsEnded (s : State) (mid : Nat) (b img : List Byte) (sigOk ok : Bool) (ver : Word) :
    ActsEnded s (s.fwStageEnd mid b img sigOk ok ver) := by
  unfold State.fwStageEnd
  extract_lets put
  have hp : ∀ v, ActsEnded s (put v) := fun v => s.withFlash_actsEnded (Flash.putFw_subsys _ _ _)
  split
  · exact ((hp _).trans (State.flashFail_actsEnded _)).finish _ _ _ _
  · split
    · exact (hp _).finish _ _ _ _
    · exact (hp _).finish _ _ _ _

theorem State.actEnd_actsEnded (s : State) (f : Fetched) : ActsEnded s (s.actEnd f) := by
  unfold State.actEnd
  split
  · exact s.cfgSaveEnd_actsEnded _ _ _ _ _
  · exact s.cfgReadEnd_actsEnded _ _ _ _
  · exact s.mtrReadEnd_actsEnded _ _ _
  · exact s.fwStageEnd_actsEnded _ _ _ _ _ _
  · exact .refl s

theorem State.actAll_actsEnded (s : State) : ActsEnded s s.actAll :=
  .foldl (fun x _ => .foldl (fun y _ => y.actEnd_actsEnded _) x _) s _

theorem ActsEnded.pcie (h : ActsEnded s t) : t.hif.pcie = s.hif.pcie := by
  obtain ⟨_, _, _, _, _, -, -, rfl⟩ := h
  rfl

theorem ActsEnded.subsys (h : ActsEnded s t) : t.flash.subsys = s.flash.subsys := by
  obtain ⟨_, _, _, _, _, -, e, rfl⟩ := h
  exact e

theorem ActsEnded.dram (h : ActsEnded s t) : t.dram = s.dram := by
  obtain ⟨_, _, _, _, _, -, -, rfl⟩ := h
  rfl

theorem ActsEnded.cfg (h : ActsEnded s t) : t.cfg = s.cfg := by
  obtain ⟨_, _, _, _, _, -, -, rfl⟩ := h
  rfl

theorem ActsEnded.aln (h : ActsEnded s t) : t.aln = s.aln := by
  obtain ⟨_, _, _, _, _, -, -, rfl⟩ := h
  rfl

theorem ActsEnded.tb (h : ActsEnded s t) : t.tb = s.tb := by
  obtain ⟨_, _, _, _, _, -, -, rfl⟩ := h
  rfl

/-- With no action under way none ends. -/
theorem State.actAll_idle (h : ∀ n, n < 16 → ∀ f ∈ (s.ring n).fetched, f.act = none) : s.actAll = s := by
  unfold State.actAll
  refine List.foldlRecOn (motive := fun x => x = s) _ _ rfl fun x hx n hn => ?_
  subst hx
  rw [List.filter_eq_nil_iff.mpr fun f hf => by simp [h n (List.mem_range.mp hn) f hf], List.foldl_nil]

end Sys2Proof.Machine
end
section
/-! SUPPORT. A core reset (R528, R536, R537, R544), the resets of the HIF block alone (R421, R452) and the PCI Express link (R418). -/

namespace Sys2Proof.Machine

variable {s : State} {kind : Nat}

/-! ### A core reset -/

/-- The start sequence leaves what the reset has set. -/
theorem coreResetRow_booting (cause : Nat) (env : BootEnv) (s : State) :
    Booting ((bkpPorRelease s).coreClear cause env) (coreResetRow cause env s) :=
  State.bootLoad_booting (State.bootStart_booting (State.bootLog_booting (State.bootKeys_booting (State.bootRoles_booting
    (Booting.foldl (fun _ _ h => State.bootEngine_booting h _) _ (State.bootRoot_booting (.refl _) _ _))))) _) _

/-- The backup domain once it is out of its power-on reset (R525). -/
theorem bkpPorRelease_bkp (s : State) : (bkpPorRelease s).bkp =
    if s.bkp.por then { ({} : Bkp) with onVbat := s.bkp.onVbat, backupLow := s.bkp.backupLow, vbat := s.bkp.vbat } else s.bkp := by
  unfold bkpPorRelease
  split <;> rfl

/-- The release of the backup domain touches nothing else. -/
theorem bkpPorRelease_eq (s : State) : bkpPorRelease s = { s with bkp := (bkpPorRelease s).bkp } := by
  unfold bkpPorRelease
  split <;> rfl

/-- Settles O17: the reset sets each of these, and the start sequence leaves them. -/
theorem coreResetClearsUnits : Obligations.CoreResetClearsUnits := by
  unfold Obligations.CoreResetClearsUnits
  intro cause env s b
  have k := coreResetRow_booting cause env s
  rw [bkpPorRelease_eq s, bkpPorRelease_bkp s] at k
  exact ⟨_, rfl, k.dt, k.tb, k.hw_straps, k.rtc, k.pins, k.mac, k.aln, k.isl, k.alm, k.outp, k.mtr, k.cap, k.dbg, k.latch,
    k.hold, k.rdata, k.pending⟩

/-! ### The HIF block alone -/

/-- The configuration space after a reset of the function (log entry 129). -/
def Pcie.functionReset (p : Pcie) (kind : Nat) : Pcie :=
  { p with
    bme := false, d3hot := false, l1 := false
    maxPayload := 128, maxRead := 512, extTag := true, ecrcGen := false, ecrcChk := false, msixMask := false
    speed := if kind = 2 then 0 else p.speed
    width := if kind = 2 then 0 else p.width }

/-- The state with the HIF block at reset. -/
def State.hifCleared (s : State) (kind : Nat) : State :=
  { s with
    regs := s.regs.filter fun p => blockOf p.1 != .hif,
    latch := s.latch.filter fun p => blockOf p.1 != .hif,
    hold := s.hold.filter fun p => blockOf p.1 != .hif,
    hif := { s.hif with ring := List.replicate 16 {}, pcie := s.hif.pcie.functionReset kind },
    msix := {} }

@[simp] theorem State.hifCleared_msix (s : State) (kind : Nat) : (s.hifCleared kind).msix = {} := rfl
@[simp] theorem State.hifCleared_flash (s : State) (kind : Nat) : (s.hifCleared kind).flash = s.flash := rfl
@[simp] theorem State.hifCleared_out (s : State) (kind : Nat) : (s.hifCleared kind).out = s.out := rfl
@[simp] theorem State.hifCleared_dram (s : State) (kind : Nat) : (s.hifCleared kind).dram = s.dram := rfl
@[simp] theorem State.hifCleared_cfg (s : State) (kind : Nat) : (s.hifCleared kind).cfg = s.cfg := rfl
@[simp] theorem State.hifCleared_aln (s : State) (kind : Nat) : (s.hifCleared kind).aln = s.aln := rfl
@[simp] theorem State.hifCleared_tb (s : State) (kind : Nat) : (s.hifCleared kind).tb = s.tb := rfl
@[simp] theorem State.hifCleared_pcie (s : State) (kind : Nat) : (s.hifCleared kind).hif.pcie = s.hif.pcie.functionReset kind := rfl

theorem hifReset_eq (kind : Nat) (s : State) : hifReset kind s =
    if kind = 0 then (s.actAll.hifCleared kind).event Reg.HIF_EVT 2 else s.actAll.hifCleared kind := rfl

/-- A register of another block stays, and one of the HIF block reads as after reset. -/
theorem State.reg_hifCleared (s : State) (kind o : Nat) : (s.hifCleared kind).reg o = if blockOf o = .hif then resetAt o else s.reg o := by
  have hf : (s.hifCleared kind).reg o = mapGet resetAt (s.regs.filter fun p => blockOf p.1 != .hif) o := rfl
  rw [hf, mapGet]
  by_cases h : blockOf o = .hif
  · rw [if_pos h, find?_filter_key_none (p := fun k => blockOf k != .hif) (by simp [h])]
  · rw [if_neg h, find?_filter_key (p := fun k => blockOf k != .hif) (by simp [h])]
    rfl

theorem State.ring_hifCleared (s : State) (kind n : Nat) : (s.hifCleared kind).ring n = {} := by
  simp only [State.ring, State.hifCleared, nth, List.getElem?_replicate]
  split <;> rfl

/-- Beside the registers the reset leaves the cleared state. -/
theorem hifReset_field {α : Type} (f : State → α) (hf : ∀ x v, f (State.setReg x Reg.HIF_EVT v) = f x) (kind : Nat) (s : State) :
    f (hifReset kind s) = f (s.actAll.hifCleared kind) := by
  rw [hifReset_eq]
  split
  · exact hf _ _
  · rfl

theorem reg_hifReset (kind : Nat) (s : State) (o : Nat) : (hifReset kind s).reg o =
    if blockOf o = .hif then (if o = Reg.HIF_EVT then (if kind = 0 then 4 else 0) else resetAt o) else s.actAll.reg o := by
  have hevt : blockOf Reg.HIF_EVT = .hif ∧ resetAt Reg.HIF_EVT = 0 := by decide
  rw [hifReset_eq]
  by_cases hk : kind = 0
  · rw [if_pos hk, State.reg_event, State.reg_hifCleared, State.reg_hifCleared, if_pos hevt.1, hevt.2]
    by_cases ho : o = Reg.HIF_EVT
    · simp [ho, hevt, hk]
    · rw [if_neg (Ne.symm ho), if_neg ho]
  · rw [if_neg hk, State.reg_hifCleared]
    by_cases ho : o = Reg.HIF_EVT
    · simp [ho, hevt, hk]
    · rw [if_neg ho]

theorem ring_hifReset (kind : Nat) (s : State) (n : Nat) : (hifReset kind s).ring n = {} :=
  (hifReset_field (State.ring · n) (fun _ _ => rfl) kind s).trans (s.actAll.ring_hifCleared kind n)

theorem pcie_hifReset (kind : Nat) (s : State) : (hifReset kind s).hif.pcie = s.hif.pcie.functionReset kind := by
  rw [hifReset_field (fun x => x.hif.pcie) (fun _ _ => rfl), State.hifCleared_pcie, s.actAll_actsEnded.pcie]

theorem msix_hifReset (kind : Nat) (s : State) : (hifReset kind s).msix = {} := by
  rw [hifReset_field State.msix (fun _ _ => rfl), State.hifCleared_msix]

theorem flash_hifReset (kind : Nat) (s : State) : (hifReset kind s).flash = s.actAll.flash := by
  rw [hifReset_field State.flash (fun _ _ => rfl), State.hifCleared_flash]

theorem out_hifReset (kind : Nat) (s : State) : (hifReset kind s).out = s.actAll.out := by
  rw [hifReset_field State.out (fun _ _ => rfl), State.hifCleared_out]

theorem dram_hifReset (kind : Nat) (s : State) : (hifReset kind s).dram = s.dram := by
  rw [hifReset_field State.dram (fun _ _ => rfl), State.hifCleared_dram, s.actAll_actsEnded.dram]

theorem cfg_hifReset (kind : Nat) (s : State) : (hifReset kind s).cfg = s.cfg := by
  rw [hifReset_field State.cfg (fun _ _ => rfl), State.hifCleared_cfg, s.actAll_actsEnded.cfg]

theorem aln_hifReset (kind : Nat) (s : State) : (hifReset kind s).aln = s.aln := by
  rw [hifReset_field State.aln (fun _ _ => rfl), State.hifCleared_aln, s.actAll_actsEnded.aln]

theorem tb_hifReset (kind : Nat) (s : State) : (hifReset kind s).tb = s.tb := by
  rw [hifReset_field State.tb (fun _ _ => rfl), State.hifCleared_tb, s.actAll_actsEnded.tb]

/-! ### PERST_N -/

/-- The reset of the PCI Express controller: the link down, the subsystem identifiers loaded again (R419). -/
def State.linkReset (s : State) : State :=
  let ids := s.flash.subsys.getD (0x1FB5, 0)
  { s with hif := { s.hif with pcie := { s.hif.pcie with speed := 0, width := 0, subVendor := ids.1, subId := ids.2 } } }

theorem perstRow_alone {env : BootEnv} (h : s.bkp.perstScope = false) : perstRow env s = (hifReset 0 s).linkReset := by
  unfold perstRow
  rw [h]
  rfl

@[simp] theorem State.ring_linkReset (s : State) (n : Nat) : s.linkReset.ring n = s.ring n := rfl
@[simp] theorem State.reg_linkReset (s : State) (o : Nat) : s.linkReset.reg o = s.reg o := rfl
@[simp] theorem State.tb_linkReset (s : State) : s.linkReset.tb = s.tb := rfl
@[simp] theorem State.cfg_linkReset (s : State) : s.linkReset.cfg = s.cfg := rfl

theorem State.pcie_linkReset (s : State) : s.linkReset.hif.pcie =
    { s.hif.pcie with
      speed := 0, width := 0
      subVendor := (s.flash.subsys.getD (0x1FB5, 0)).1
      subId := (s.flash.subsys.getD (0x1FB5, 0)).2 } := rfl

theorem perstRow_core {env : BootEnv} (h : s.bkp.perstScope = true) : perstRow env s = coreResetRow 5 env s := if_pos h

/-- Settles O15: the reset clears what lies in the HIF block, and the actions that end before it move little else. -/
theorem hifResetsAloneAndLink : Obligations.HifResetsAloneAndLink := by
  unfold Obligations.HifResetsAloneAndLink
  intro s
  refine ⟨fun kind => ?_, fun env h => ?_, fun env h => ?_, State.actAll_idle, fun speed width l1 => rfl⟩
  · refine ⟨hifReset kind s, rfl, ring_hifReset kind s, msix_hifReset kind s, fun o ho => ?_,
      flash_hifReset kind s, out_hifReset kind s, fun o ho hne => ?_, ?_, pcie_hifReset kind s,
      dram_hifReset kind s, cfg_hifReset kind s, aln_hifReset kind s, tb_hifReset kind s⟩
    · rw [reg_hifReset, if_neg ho]
    · rw [reg_hifReset, if_pos ho, if_neg hne]
    · rw [reg_hifReset, if_pos (by decide), if_pos rfl]
  · exact congrArg (fun u => Host.Outcome.next (State.after s u)) (perstRow_core h)
  · refine ⟨(hifReset 0 s).linkReset, congrArg (fun u => Host.Outcome.next (State.after s u)) (perstRow_alone h), fun n => ?_, ?_,
      fun o ho => ?_, ?_, ?_⟩
    · rw [State.ring_linkReset, ring_hifReset]
    · rw [State.pcie_linkReset, pcie_hifReset, flash_hifReset, s.actAll_actsEnded.subsys]
      rfl
    · rw [State.reg_linkReset, reg_hifReset, if_neg ho]
    · rw [State.tb_linkReset, tb_hifReset]
    · rw [State.cfg_linkReset, cfg_hifReset]

end Sys2Proof.Machine
end

section
/-! SUPPORT. The debug access port (R413 to R417): the instructions, the unlock, MEMAP and ENGDBG. -/

namespace Sys2Proof.Machine

variable {s u w : State} {c : Instr}

/-- An answer whose effect is written another way. -/
theorem Answers.of (e : u = w) (h : Answers c s u) : Answers c s w := e ▸ h

/-! ### Instructions that touch the port alone -/

/-- BYPASS holds the pins in operation and captures 0. -/
theorem State.tapBypass_eq (s : State) :
    s.tapBypass = { s with dbg := { s.dbg with ir := .bypass, tapActive := true, dr := 0, pinsFromBsr := false, pinsHighz := false } } := rfl

section select

variable {low : Bool} {bits cap : List Bool}

theorem extestRow_bypassed (h : low = false ∨ s.portDis = true) : extestRow low bits s = s.tapBypass := by
  rcases h with h | h <;> simp [extestRow, h]

theorem highzRow_bypassed (h : low = false ∨ s.portDis = true) : highzRow low s = s.tapBypass := by
  rcases h with h | h <;> simp [highzRow, h]

theorem clampRow_bypassed (h : low = false ∨ s.portDis = true) : clampRow low s = s.tapBypass := by
  rcases h with h | h <;> simp [clampRow, h]

theorem extestRow_drives (hd : s.portDis = false) : extestRow true bits s =
    ((s.freshNext.tapLoad 0x00).modDbg fun d => { d with bsr := bits, dr := s.freshVal % 2 ^ bits.length }).emit
      (.tdo (s.freshVal % 2 ^ bits.length)) := by
  simp [extestRow, hd]

theorem highzRow_drives (hd : s.portDis = false) : highzRow true s = (s.tapLoad 0x03).modDbg fun d => { d with dr := 0 } := by
  simp [highzRow, hd]

theorem clampRow_drives (hd : s.portDis = false) : clampRow true s = (s.tapLoad 0x04).modDbg fun d => { d with dr := 0 } := by
  simp [clampRow, hd]

/-- The number whose bits are those of a list. -/
def bitsValue (l : List Bool) (n : Nat) : Nat := (List.range n).foldl (fun k i => k + b2n (nth false l i) * 2 ^ i) 0

theorem bitsValue_succ (l : List Bool) (n : Nat) : bitsValue l (n + 1) = bitsValue l n + b2n (nth false l n) * 2 ^ n := by
  simp [bitsValue, List.range_succ]

theorem bitsValue_lt (l : List Bool) (n : Nat) : bitsValue l n < 2 ^ n := by
  induction n with
  | zero => exact Nat.one_pos
  | succ n ih =>
    have hb := Nat.mul_le_mul_right (2 ^ n) (b2n_le_one (nth false l n))
    rw [bitsValue_succ, Nat.pow_succ]
    omega

theorem testBit_bitsValue (l : List Bool) {n i : Nat} (h : i < n) : (bitsValue l n).testBit i = nth false l i := by
  induction n with
  | zero => exact absurd h (Nat.not_lt_zero i)
  | succ n ih =>
    rw [bitsValue_succ, Nat.add_comm, Nat.mul_comm]
    rcases Nat.lt_succ_iff_lt_or_eq.mp h with hi | rfl
    · rw [Nat.testBit_two_pow_mul_add _ (bitsValue_lt l n), if_pos hi, ih hi]
    · rw [Nat.testBit_two_pow_mul_add _ (bitsValue_lt l i), if_neg (Nat.lt_irrefl i), Nat.sub_self]
      cases nth false l i <;> rfl

theorem samplePreloadRow_shifts (hd : s.portDis = false) : samplePreloadRow cap bits s =
    ((s.tapLoad 0x01).modDbg fun d => { d with bsr := bits, dr := bitsValue cap cap.length }).emit (.tdo (bitsValue cap cap.length)) := by
  simp [samplePreloadRow, hd, bitsValue]

theorem samplePreloadRow_bypassed (hd : s.portDis = true) : samplePreloadRow cap bits s = s.tapBypass := by
  simp [samplePreloadRow, hd]

end select

theorem Variant.part_lt (v : Variant) : v.part < 2 ^ 16 := by cases v <;> decide

theorem State.idcodeWord_low (s : State) : s.idcodeWord % 2 ^ 12 = 0x997 := by
  unfold State.idcodeWord
  omega

theorem State.idcodeWord_high (s : State) : s.idcodeWord / 2 ^ 28 = s.hw.stepping / 2 ^ 4 % 16 := by
  have := s.hw.variant.part_lt
  unfold State.idcodeWord
  omega

/-! ### The nonce and the unlock (R414) -/

theorem dbgNonceRow_bypassed (hd : s.portDis = true) : dbgNonceRow s = s.tapBypass := by
  simp [dbgNonceRow, hd]

theorem dbgNonceRow_trngFail (hd : s.portDis = false) (ht : s.key.trngFail = true) :
    dbgNonceRow s = ((s.tapLoad 0x10).modDbg fun d => { d with nonce := none, dr := 0 }).emit (.tdo 0) := by
  simp [dbgNonceRow, hd, ht]

theorem dbgNonceRow_draws (hd : s.portDis = false) (ht : s.key.trngFail = false) : dbgNonceRow s =
    ((s.tapLoad 0x10).freshNext.modDbg fun d => { d with nonce := some s.drawNonce, dr := s.drawNonce }).emit (.tdo s.drawNonce) := by
  simp [dbgNonceRow, hd, ht]

@[simp] theorem State.dbgRecord_dbg (s : State) (ev eng : Nat) : (s.dbgRecord ev eng).dbg = s.dbg := rfl
@[simp] theorem State.reg_dbgRecord (s : State) (ev eng o : Nat) : (s.dbgRecord ev eng).reg o = s.reg o := rfl

/-- A request that is not granted shows its result, sets its event and leaves the level. -/
theorem State.unlockEnd_failed (s : State) (lev : Nat) {n : Nat} (hn : n ≠ 0) :
    (s.unlockEnd lev n).dbg = { s.dbg with unlockReq := none, unlockRes := n, dr := n } ∧
      ((s.unlockEnd lev n).reg Reg.DBG_EVT).getLsbD 1 = true := by
  have e : s.unlockEnd lev n = (((s.modDbg fun d => { d with unlockReq := none, unlockRes := n, dr := n }).event Reg.DBG_EVT 1).count
      (Reg.DBG_CNT_LO 1)).dbgRecord 2 0 := if_neg hn
  rw [e, State.dbgRecord_dbg, State.reg_dbgRecord, State.reg_count_ne _ (by decide) (by decide)]
  refine ⟨rfl, ?_⟩
  exact State.getLsbD_reg_event _ _ (by decide)

/-- The state in which an unlock request is judged: the instruction selected, the nonce void, the result pending. -/
def State.unlockBegun (s : State) : State := (s.tapLoad 0x11).modDbg fun d => { d with nonce := none, dr := 4 }

section unlock

variable {lev n : Nat} {sig : List Byte}

theorem dbgUnlockRow_disabled (hd : s.portDis = true) :
    dbgUnlockRow lev sig s = (s.tapBypass.modDbg fun d => { d with nonce := none }).unlockEnd lev 3 := by
  simp [dbgUnlockRow, hd]

theorem dbgUnlockRow_unnonced (hd : s.portDis = false) (hn : s.dbg.nonce = none) : dbgUnlockRow lev sig s = s.unlockBegun.unlockEnd lev 1 := by
  simp [dbgUnlockRow, hd, hn, State.unlockBegun]

/-- The slot that DBG_AUTH_SLOT names. -/
abbrev State.unlockSlot (s : State) : Nat := s.fld Reg.DBG_AUTH_SLOT 0 6

theorem dbgUnlockRow_nonced (hd : s.portDis = false) (hn : s.dbg.nonce = some n) : dbgUnlockRow lev sig s =
    if lev ≠ 1 ∧ lev ≠ 2 then s.unlockBegun.unlockEnd lev 2
    else if !s.tokenSlotOk s.unlockSlot then (s.unlockBegun.keyUseErr.event Reg.KEY_EVT 3).unlockEnd lev 2
    else
      let r := s.unlockBegun.requestVerify (.verifyUnlock lev) s.unlockSlot (s.unlockMsg lev n) (padTo 64 sig)
      if r.2 then r.1.modDbg fun d => { d with unlockReq := some lev } else r.1.unlockEnd lev 2 := by
  unfold dbgUnlockRow
  rw [if_neg (by simp [hd]), hn]
  rfl

/-- A verification that finds no crypto context leaves the port. -/
theorem State.requestVerify_dbg_of_refused {use : CryptoUse} {slot : Nat} {msg b : List Byte}
    (h : (s.requestVerify use slot msg b).2 = false) : (s.requestVerify use slot msg b).1.dbg = s.dbg := by
  unfold State.requestVerify at h ⊢
  split
  next e =>
    rw [e] at h
    cases h
  next => rfl

/-- A refused request: each way in which one ends AUTH leaves the state as begun but for registers and the logbook. -/
theorem dbgUnlockRow_auth (hd : s.portDis = false) (hn : s.dbg.nonce = some n)
    (h : ((lev ≠ 1 ∧ lev ≠ 2) ∨ s.tokenSlotOk s.unlockSlot = false) ∨
      (s.unlockBegun.requestVerify (.verifyUnlock lev) s.unlockSlot (s.unlockMsg lev n) (padTo 64 sig)).2 = false) :
    ∃ x : State, dbgUnlockRow lev sig s = x.unlockEnd lev 2 ∧ x.dbg = s.unlockBegun.dbg := by
  rw [dbgUnlockRow_nonced hd hn]
  by_cases hl : lev ≠ 1 ∧ lev ≠ 2
  · rw [if_pos hl]
    exact ⟨_, rfl, rfl⟩
  by_cases hs : s.tokenSlotOk s.unlockSlot = true
  · have hr := (h.resolve_left (by simp [hs]; omega))
    simp only [if_neg hl, hs, hr, Bool.not_true, Bool.false_eq_true, if_false]
    exact ⟨_, rfl, State.requestVerify_dbg_of_refused hr⟩
  · rw [if_neg hl, if_pos (by simpa using hs)]
    exact ⟨_, rfl, rfl⟩

end unlock

/-! ### Locking the port (R414, R417) -/

theorem State.dbgLock_of_locked (h : s.dbg.level = 0) : s.dbgLock = s := if_pos h

theorem State.dbgLock_of_unlocked (h : s.dbg.level ≠ 0) :
    s.dbgLock = ((s.modDbg fun d => { d with level := 0 }).event Reg.DBG_EVT 2).dbgRecord 3 0 := if_neg h

/-- The port is LOCKED, and where it was not before, with its event and record. -/
theorem State.dbgLock_spec (s : State) : s.dbgLock.dbg = { s.dbg with level := 0 } ∧ (∀ o, o ≠ Reg.DBG_EVT → s.dbgLock.reg o = s.reg o) ∧
    (s.dbg.level = 0 → s.dbgLock.logb = s.logb ∧ s.dbgLock.reg Reg.DBG_EVT = s.reg Reg.DBG_EVT) ∧
    (s.dbg.level ≠ 0 → (s.dbgLock.reg Reg.DBG_EVT).getLsbD 2 = true ∧
      ∃ r, s.dbgLock.logb.raised = s.logb.raised ++ [r] ∧ r.cls = 17 ∧ r.src = 62 ∧ r.detail = padTo 16 [3, 0, 0]) := by
  by_cases h : s.dbg.level = 0
  · rw [State.dbgLock_of_locked h]
    refine ⟨?_, fun _ _ => rfl, fun _ => ⟨rfl, rfl⟩, fun hn => absurd h hn⟩
    rw [← h]
  · rw [State.dbgLock_of_unlocked h]
    exact ⟨rfl, fun o ho => (State.reg_event _ _ _ _).trans (if_neg (Ne.symm ho)), fun h0 => absurd h0 h,
      fun _ => ⟨State.getLsbD_reg_event _ _ (by decide), _, rfl, rfl, rfl, rfl⟩⟩

/-- DBG_CTRL lies in a block that is never absent, fenced or stopped. -/
theorem State.reaches_dbgCtrl (s : State) (v : Word) : s.Reaches Reg.DBG_CTRL v := by
  have h : ((List.range 4).any fun c => Reg.DBG_CTRL == Reg.CAP_CH_CTRL c) = false ∧
      ((List.range 6).any fun p => Reg.DBG_CTRL == Reg.MAC_CTRL 0 + 0x1000 * p) = false ∧
      ((List.range 16).any fun n => Reg.DBG_CTRL == Reg.HIF_RP_CTRL n) = false ∧ (Reg.DBG_CTRL == Reg.ALN_CTRL) = false ∧
      (Reg.DBG_CTRL == Reg.FE_CTRL) = false ∧ (Reg.DBG_CTRL == Reg.MTR_CTRL) = false ∧ (Reg.DBG_CTRL == Reg.TWN_CFG) = false ∧
      (Reg.DBG_CTRL == Reg.PLT_ROT_CTRL) = false := by decide
  obtain ⟨h1, h2, h3, h4, h5, h6, h7, h8⟩ := h
  refine ⟨rfl, rfl, rfl, ?_⟩
  simp [State.endsCondition, h1, h2, h3, h4, h5, h6, h7, h8]

theorem dbgRelockRow_eq (s : State) : dbgRelockRow s = s.dbgLock := rfl

theorem dbgPortDisRow_eq (s : State) : dbgPortDisRow s = (s.setReg Reg.DBG_CTRL 1).dbgLock := rfl

theorem answers_dbgRelock (s : State) : Answers .dbgRelock s s.dbgLock :=
  .of ((State.busWrite_reaches (s.reaches_dbgCtrl 2) dbgRelockRow).trans (dbgRelockRow_eq s)) rfl

theorem answers_dbgPortDis (s : State) : Answers .dbgPortDis s (s.setReg Reg.DBG_CTRL 1).dbgLock :=
  .of ((State.busWrite_reaches (s.reaches_dbgCtrl 1) dbgPortDisRow).trans (dbgPortDisRow_eq s)) rfl

end Sys2Proof.Machine
end
section
/-! SUPPORT. MEMAP and ENGDBG: accesses of the debug port to BAR0 (R415) and to a fenced engine (R416). -/

namespace Sys2Proof.Machine

variable {s : State} {o : Nat} {v : Word}

/-! ### Reads and plain writes leave the power state -/

theorem State.sampleWrite_pwr (s : State) (e i addr skid : Nat) : (s.sampleWrite e i addr skid).pwr = s.pwr := by
  unfold State.sampleWrite
  split
  · extract_lets n size b s1
    have h1 : s1.pwr = s.pwr := by simp [s1]
    split <;> simp [h1]
  · simp

theorem State.cntWrap_pwr (s : State) (e i : Nat) (smp : Option SmpAt) : (s.cntWrap e i smp).pwr = s.pwr := by
  unfold State.cntWrap
  extract_lets s1
  split
  · split
    · split
      · rfl
      · exact State.sampleWrite_pwr _ _ _ _ _
    · exact State.sampleWrite_pwr _ _ _ _ _
  · rfl

theorem State.cntAdd_pwr (s : State) (e i n : Nat) (smp : Option SmpAt) : (s.cntAdd e i n smp).pwr = s.pwr := by
  unfold State.cntAdd
  extract_lets v s1
  split
  · exact s1.cntWrap_pwr e i smp
  · rfl

theorem State.cntSpan_pwr (s : State) (e : Nat) (x : EngSpan) (smp : Option (Nat × SmpAt)) : (s.cntSpan e x smp).pwr = s.pwr := by
  unfold State.cntSpan
  refine List.foldlRecOn (motive := fun y : State => y.pwr = s.pwr) _ _ rfl fun y hy i _ => ?_
  split
  · exact (y.cntAdd_pwr _ _ _ _).trans hy
  · exact hy

theorem State.engCatchUp_pwr (s : State) (e : Nat) : (s.engCatchUp e).pwr = s.pwr := by
  unfold State.engCatchUp
  split
  · exact State.cntSpan_pwr _ _ _ _
  · rfl

theorem State.readCatch_pwr (s : State) (o : Nat) : (s.readCatch o).pwr = s.pwr := by
  unfold State.readCatch
  split
  · exact s.engCatchUp_pwr _
  · rfl

theorem State.winStep_pwr (s : State) (o : Nat) : (s.winStep o).pwr = s.pwr := by
  unfold State.winStep
  split <;> rfl

theorem logNonceReadRow_pwr (s : State) : (logNonceReadRow s).pwr = s.pwr := by
  unfold logNonceReadRow
  split <;> rfl

theorem keyNonceRead_pwr (s : State) : (keyNonceRead s).pwr = s.pwr := by
  unfold keyNonceRead
  split <;> rfl

theorem cfgchgFifoReadRow_pwr (s : State) : (cfgchgFifoReadRow s).pwr = s.pwr := by
  unfold cfgchgFifoReadRow
  split <;> rfl

theorem mtrPeakRead_pwr (o : Nat) (s : State) : (mtrPeakRead o s).pwr = s.pwr := by
  unfold mtrPeakRead
  split <;> rfl

theorem mtrPointLatch_pwr (m : Nat) (s : State) : (mtrPointLatch m s).pwr = s.pwr := by
  unfold mtrPointLatch
  split <;> rfl

theorem rtcGroupRead_pwr (r frac : Nat) (s : State) : (rtcGroupRead r frac s).pwr = s.pwr := rfl
theorem unkKeyReadRow_pwr (s : State) : (unkKeyReadRow s).pwr = s.pwr := rfl
theorem eccAddrHiRead_pwr (s : State) : (eccAddrHiRead s).pwr = s.pwr := rfl

theorem pwr_ite {c : Prop} [Decidable c] {a b : State} (ha : a.pwr = s.pwr) (hb : b.pwr = s.pwr) : (if c then a else b).pwr = s.pwr := by
  split <;> assumption

/-- A read puts no access off. -/
theorem State.readAct_pwr (s : State) (o : Nat) : (s.readAct o).pwr = s.pwr := by
  unfold State.readAct
  split
  · rfl
  · refine pwr_ite (logNonceReadRow_pwr s) (pwr_ite (keyNonceRead_pwr s) (pwr_ite ?_ (pwr_ite (cfgchgFifoReadRow_pwr s) (pwr_ite ?_
      (pwr_ite ?_ (pwr_ite (pwr_ite (mtrPeakRead_pwr o s) (pwr_ite (mtrPointLatch_pwr _ s) ?_)) ?_))))))
    · exact rtcGroupRead_pwr _ _ s
    · exact unkKeyReadRow_pwr s
    · exact eccAddrHiRead_pwr s
    · rfl
    split
    · rfl
    · exact s.winStep_pwr o
    · exact pwr_ite (s.readCatch_pwr o) (s.readCatch_pwr o)
    all_goals rfl

theorem State.writeReg_pwr (s : State) (o : Nat) (v : Word) : (s.writeReg o v).pwr = s.pwr := by
  unfold State.writeReg
  split <;> rfl

/-- A write by the access code alone puts no access off. -/
theorem State.plainWrite_pwr (s : State) (o : Nat) (v : Word) : (s.plainWrite o v).pwr = s.pwr := by
  have ht : ∀ lo, (s.takeHeld lo).pwr = s.pwr := fun lo => by
    unfold State.takeHeld
    split <;> rfl
  unfold State.plainWrite
  split
  · rfl
  split
  · rfl
  split
  · split
    · rfl
    · split
      · exact (State.writeReg_pwr _ _ _).trans (ht _)
      · exact s.writeReg_pwr o v
  · rfl
  · rfl

/-! ### MEMAP (R415) -/

theorem State.memap_bypassed {dr : Nat} (h : s.portDis = true ∨ s.dbg.level = 0) : s.memap dr = s.tapBypass := by
  rcases h with h | h <;> simp [State.memap, h]

theorem bitsOf_memapDr_op (op : Nat) (h : op < 4) (v : Word) : bitsOf (memapDr op o v) 64 2 = op := by
  have hv := v.isLt
  simp only [bitsOf, memapDr, Nat.shiftRight_eq_div_pow]
  omega

theorem bitsOf_memapDr_off (op : Nat) (ho : o < 2 ^ 24) (v : Word) : bitsOf (memapDr op o v) 32 24 = o := by
  have hv := v.isLt
  simp only [bitsOf, memapDr, Nat.shiftRight_eq_div_pow]
  omega

theorem ofNat_memapDr (op : Nat) (v : Word) : BitVec.ofNat 32 (memapDr op o v) = v := by
  have hv := v.isLt
  apply BitVec.eq_of_toNat_eq
  simp only [BitVec.toNat_ofNat, memapDr]
  omega

section allowed

variable (hd : s.portDis = false) (hl : s.dbg.level ≠ 0) (ho : o < 2 ^ 24)
include hd hl ho

theorem memapReadRow_eq : memapReadRow o s = s.memapAccess o none := by
  rw [memapReadRow, State.memap, if_neg (by simp [hd, hl]), bitsOf_memapDr_op 1 (by decide), bitsOf_memapDr_off 1 ho]
  rfl

theorem memapWriteRow_eq : memapWriteRow o v s = s.memapAccess o (some v) := by
  rw [memapWriteRow, State.memap, if_neg (by simp [hd, hl]), bitsOf_memapDr_op 2 (by decide), bitsOf_memapDr_off 2 ho, ofNat_memapDr]
  rfl

end allowed

/-- The state in which a MEMAP access is made: the instruction selected, the access counted. -/
def State.memapBegun (s : State) : State :=
  { s.count (Reg.DBG_CNT_LO 2) with
    dbg := { s.dbg with ir := .memap, tapActive := true, pinsFromBsr := false, pinsHighz := false } }

theorem State.memapBegun_eq (s : State) : (s.tapLoad 0x12).count (Reg.DBG_CNT_LO 2) = s.memapBegun := rfl

@[simp] theorem State.memapBegun_pwr (s : State) : s.memapBegun.pwr = s.pwr := rfl
@[simp] theorem State.blockAbsent_memapBegun (s : State) (o : Nat) : s.memapBegun.blockAbsent o = s.blockAbsent o := rfl
@[simp] theorem State.blockStopped_memapBegun (s : State) (o : Nat) : s.memapBegun.blockStopped o = s.blockStopped o := rfl
@[simp] theorem State.blockFenced_memapBegun (s : State) (o : Nat) : s.memapBegun.blockFenced o = s.blockFenced o := rfl
@[simp] theorem State.endsCondition_memapBegun (s : State) (o : Nat) (v : Word) : s.memapBegun.endsCondition o v = s.endsCondition o v := rfl

/-- The state an aligned access leaves before it is presented. -/
def State.memapDone (s : State) (o : Nat) : Option Word → State
  | some v => s.memapBegun.bar0Write o v 62
  | none => s.memapBegun.bar0Read o 62

theorem State.memapAccess_eq (s : State) (o : Nat) (wr : Option Word) : s.memapAccess o wr =
    if o % 4 ≠ 0 then
      (if s.blockAbsent o then s.memapBegun else s.memapBegun.accErr 62 wr.isSome o).memapShow true 0
    else if s.pwr.waiting.length < (s.memapDone o wr).pwr.waiting.length then (s.memapDone o wr).modDbg fun d => { d with dr := 0 }
    else (s.memapDone o wr).memapShow (s.blockAbsent o || ((rowAt o).isNone && blockOf o != .id))
      (if wr.isSome then 0 else (s.memapDone o wr).rdata) := by
  cases wr <;> rfl

/-- An access that is no aligned word presents ERR. -/
theorem State.memapAccess_unaligned (h4 : o % 4 ≠ 0) (ha : s.blockAbsent o = false) (wr : Option Word) :
    s.memapAccess o wr = (s.memapBegun.report 55 0 62 (1 + b2n wr.isSome) o).memapShow true 0 := by
  rw [State.memapAccess_eq, if_pos h4, ha]
  rfl

/-- An aligned access that is not put off is presented, with ERR where no register answers. -/
theorem State.memapAccess_aligned (h4 : o % 4 = 0) {wr : Option Word} {t : State} (e : s.memapDone o wr = t)
    (hw : t.pwr = s.pwr) : s.memapAccess o wr =
      t.memapShow (s.blockAbsent o || ((rowAt o).isNone && blockOf o != .id)) (if wr.isSome then 0 else t.rdata) := by
  rw [State.memapAccess_eq, e, hw, if_neg (not_not.mpr h4), if_neg (Nat.lt_irrefl _)]

theorem State.memapDone_read (hR : s.Readable o) (hr : (rowAt o).isSome) (hk : blockOf o ≠ .key) :
    s.memapDone o none = s.memapBegun.readAct o := by
  have hn : (rowAt o).isNone = false := Option.isNone_eq_false_iff.mpr hr
  rw [State.memapDone, State.bar0Read, State.blockAbsent_memapBegun, hR.1, if_neg Bool.false_ne_true, if_neg (fun h => hk h.2), hn,
    if_neg Bool.false_ne_true]
  exact State.busRead_readable (s := s.memapBegun) hR _

theorem State.memapDone_write (hR : s.Reaches o v) (hr : (rowAt o).isSome) (hk : blockOf o ≠ .key) :
    s.memapDone o (some v) = s.memapBegun.regAct o v := by
  have hn : (rowAt o).isNone = false := Option.isNone_eq_false_iff.mpr hr
  rw [State.memapDone, State.bar0Write, State.blockAbsent_memapBegun, hR.1, if_neg Bool.false_ne_true, if_neg (fun h => hk h.2), hn,
    if_neg Bool.false_ne_true]
  exact State.busWrite_reaches (s := s.memapBegun) hR _

/-- What ERR tells of an aligned access of a register that is present. -/
theorem memapErr_register (ha : s.blockAbsent o = false) (hr : (rowAt o).isSome) :
    (s.blockAbsent o || ((rowAt o).isNone && blockOf o != .id)) = false := by
  have hn : (rowAt o).isNone = false := Option.isNone_eq_false_iff.mpr hr
  rw [ha, hn]
  rfl

theorem State.memapAccess_read (h4 : o % 4 = 0) (hR : s.Readable o) (hr : (rowAt o).isSome) (hk : blockOf o ≠ .key) :
    s.memapAccess o none = (s.memapBegun.readAct o).memapShow false (s.memapBegun.readAct o).rdata := by
  rw [State.memapAccess_aligned h4 (State.memapDone_read hR hr hk) (State.readAct_pwr _ _), memapErr_register hR.1 hr]
  rfl

theorem State.memapAccess_write (h4 : o % 4 = 0) (hR : s.Reaches o v) (hr : (rowAt o).isSome) (hk : blockOf o ≠ .key)
    (hp : takesPlainWrite o = true) : s.memapAccess o (some v) = (s.memapBegun.plainWrite o v).memapShow false 0 := by
  have e := State.memapDone_write hR hr hk
  rw [State.regAct_plain hp] at e
  rw [State.memapAccess_aligned h4 e (State.plainWrite_pwr _ _ _), memapErr_register hR.1 hr]
  rfl

theorem State.memapAccess_absent_read (h4 : o % 4 = 0) (ha : s.blockAbsent o = true) :
    s.memapAccess o none = State.memapShow { s.memapBegun with rdata := 0 } true 0 := by
  rw [State.memapAccess_aligned (s := s) (wr := none) h4 (t := { s.memapBegun with rdata := 0 }) (by simp [State.memapDone, State.bar0Read, ha]) rfl, ha]
  rfl

theorem State.memapAccess_absent_write (h4 : o % 4 = 0) (ha : s.blockAbsent o = true) :
    s.memapAccess o (some v) = s.memapBegun.memapShow true 0 := by
  rw [State.memapAccess_aligned (s := s) (wr := some v) h4 (t := s.memapBegun) (by simp [State.memapDone, State.bar0Write, ha]) rfl, ha]
  rfl

/-- The KEY block reads zero and takes no write from the debug port. -/
theorem State.memapAccess_key (h4 : o % 4 = 0) (hr : (rowAt o).isSome) (hk : blockOf o = .key) :
    s.memapAccess o none = State.memapShow { s.memapBegun with rdata := 0 } false 0 ∧
      s.memapAccess o (some v) = s.memapBegun.memapShow false 0 := by
  have ha : s.blockAbsent o = false := by simp [State.blockAbsent, hk]
  constructor
  · rw [State.memapAccess_aligned (s := s) (wr := none) h4 (t := { s.memapBegun with rdata := 0 }) (by simp [State.memapDone, State.bar0Read, ha, hk]) rfl,
      memapErr_register ha hr]
    rfl
  · rw [State.memapAccess_aligned (s := s) (wr := some v) h4 (t := s.memapBegun) (by simp [State.memapDone, State.bar0Write, ha, hk]) rfl, memapErr_register ha hr]
    rfl

theorem State.wake_waiting (s : State) (src : Nat) : (s.wake src).pwr.waiting = s.pwr.waiting := by
  unfold State.wake
  split <;> rfl

/-- A read of a block whose domain is stopped is put off, and the port shows nothing yet. -/
theorem State.memapAccess_stopped (h4 : o % 4 = 0) (ha : s.blockAbsent o = false) (hs : s.blockStopped o = true) (hr : (rowAt o).isSome) :
    (s.memapAccess o none).pwr.waiting = s.pwr.waiting ++ [⟨false, o, none, 62⟩] ∧ (s.memapAccess o none).dbg.dr = 0 := by
  have hk : blockOf o ≠ .key := fun h => by simp [State.blockStopped, h] at hs
  have hn : (rowAt o).isNone = false := Option.isNone_eq_false_iff.mpr hr
  have e : s.memapDone o none = s.memapBegun.holdAccess ⟨false, o, none, 62⟩ 2 := by
    simp [State.memapDone, State.bar0Read, State.busRead, ha, hs, hk, hn]
  have hw : (s.memapDone o none).pwr.waiting = s.pwr.waiting ++ [⟨false, o, none, 62⟩] := by
    rw [e]
    exact State.wake_waiting _ _
  rw [State.memapAccess_eq, if_neg (not_not.mpr h4), hw, if_pos (by simp)]
  exact ⟨hw, rfl⟩

/-! ### ENGDBG (R416) -/

variable {e op a : Nat}

theorem bitsOf_engdbgDr_engine (he : e < 32) (hop : op < 8) (a : Nat) : bitsOf (engdbgDr e op a) 67 5 = e := by
  simp only [bitsOf, engdbgDr, Nat.shiftRight_eq_div_pow]
  omega

theorem bitsOf_engdbgDr_op (e : Nat) (hop : op < 8) (a : Nat) : bitsOf (engdbgDr e op a) 64 3 = op := by
  simp only [bitsOf, engdbgDr, Nat.shiftRight_eq_div_pow]
  omega

theorem State.engdbg_bypassed {dr : Nat} (h : s.portDis = true ∨ s.dbg.level ≠ 2) : s.engdbg dr = s.tapBypass := by
  rcases h with h | h <;> simp [State.engdbg, h]

theorem State.engdbg_running (hd : s.portDis = false) (hl : s.dbg.level = 2) (he : e < 32) (hop : op < 8)
    (hf : (s.engine e).rstate ≠ .fenced) : s.engdbg (engdbgDr e op a) = s.engdbgShow e true false 0 0 := by
  unfold State.engdbg
  rw [bitsOf_engdbgDr_engine he hop, bitsOf_engdbgDr_op e hop]
  simp [hd, hl, hf]

/-- What an operation on a fenced engine shows: the operation's effect, then free values for what no rule gives. -/
theorem State.engdbg_fenced (hd : s.portDis = false) (hl : s.dbg.level = 2) (he : e < 32) (hop : op < 6)
    (hf : (s.engine e).rstate = .fenced) : ∃ x : State, (∃ n, x = (s.engdbgOp e op).freshSkip n) ∧
      ∃ pc data, s.engdbg (engdbgDr e op a) = x.engdbgShow e false (x.engine e).halted pc data := by
  unfold State.engdbg
  rw [bitsOf_engdbgDr_engine he (by omega), bitsOf_engdbgDr_op e (by omega), if_neg (by simp [hd, hl]), if_neg (by simp [hf])]
  by_cases h : op = 4 ∨ op = 5
  · rw [if_pos h]
    exact ⟨_, ⟨2, rfl⟩, _, _, rfl⟩
  · rw [if_neg h, decide_eq_false (by omega)]
    exact ⟨_, ⟨1, rfl⟩, _, _, rfl⟩

end Sys2Proof.Machine
end
section
/-! SUPPORT. The debug port (R413 to R417). -/

namespace Sys2Proof.Machine

variable {s : State} {e op a lev : Nat} {sig : List Byte}

/-- A request that is refused has voided the nonce and left the level. -/
theorem answers_unlock_failed {n : Nat} {x : State} (h : dbgUnlockRow lev sig s = x.unlockEnd lev n) (hn : n ≠ 0)
    (hx : x.dbg.nonce = none ∧ x.dbg.level = s.dbg.level) :
    ∃ u, Answers (.dbgUnlock lev sig) s u ∧ u.dbg.nonce = none ∧ u.dbg.level = s.dbg.level ∧ u.dbg.unlockRes = n ∧ u.dbg.dr = n ∧
      (u.reg Reg.DBG_EVT).getLsbD 1 = true := by
  obtain ⟨hd, hev⟩ := x.unlockEnd_failed lev hn
  exact ⟨_, .of h rfl, by rw [hd]; exact hx.1, by rw [hd]; exact hx.2, by rw [hd], by rw [hd], hev⟩

/-- The commands of ENGDBG and their operations. -/
theorem answers_engdbg {c : Instr} (hc : c ∈ [Instr.engdbgHalt e, .engdbgResume e, .engdbgStep e, .engdbgReadLocal e a, .engdbgReadReg e a]) :
    ∃ op x, op < 6 ∧ Answers c s (s.engdbg (engdbgDr e op x)) := by
  simp only [List.mem_cons, List.not_mem_nil, or_false] at hc
  rcases hc with rfl | rfl | rfl | rfl | rfl
  · exact ⟨1, 0, by decide, rfl⟩
  · exact ⟨2, 0, by decide, rfl⟩
  · exact ⟨3, 0, by decide, rfl⟩
  · exact ⟨4, a, by decide, rfl⟩
  · exact ⟨5, a, by decide, rfl⟩

/-- The data register that ENGDBG presents (R416). -/
def engdbgWord (e : Nat) (err halted : Bool) (pc data : Nat) : Nat :=
  (e % 32) * 2 ^ 67 + 2 ^ 66 + b2n err * 2 ^ 65 + b2n halted * 2 ^ 64 + (pc % 2 ^ 32) * 2 ^ 32 + data % 2 ^ 32

section shown

variable (x : State) (err halted : Bool) (pc data : Nat)

theorem State.engdbgShow_dbg : (x.engdbgShow e err halted pc data).dbg =
    { x.dbg with
      ir := .engdbg, tapActive := true, pinsFromBsr := false, pinsHighz := false
      dr := engdbgWord e err halted pc data, lastEngine := e % 32 } := rfl

theorem State.engdbgShow_out : (x.engdbgShow e err halted pc data).out = x.out ++ [.tdo (engdbgWord e err halted pc data)] := rfl
theorem State.engdbgShow_logb : (x.engdbgShow e err halted pc data).logb = x.logb := rfl
theorem State.reg_engdbgShow (o : Nat) : (x.engdbgShow e err halted pc data).reg o = x.reg o := rfl
theorem State.engine_engdbgShow (d : Nat) : (x.engdbgShow e err halted pc data).engine d = x.engine d := rfl
theorem State.engine_freshSkip (n d : Nat) : (x.freshSkip n).engine d = x.engine d := rfl

end shown

/-- What is seen of an operation that a fenced engine has carried out. -/
def State.engdbgDone (s u : State) (e : Nat) (halted : Bool) : Prop :=
  (∃ pc data, (u.dbg.dr = e * 2 ^ 67 + 2 ^ 66 + b2n halted * 2 ^ 64 + pc * 2 ^ 32 + data ∧
    u.out = s.out ++ [.tdo (e * 2 ^ 67 + 2 ^ 66 + b2n halted * 2 ^ 64 + pc * 2 ^ 32 + data)]) ∧ pc < 2 ^ 32 ∧ data < 2 ^ 32) ∧
    u.dbg.lastEngine = e ∧ u.dbg.ir = .engdbg ∧ u.engine e = { s.engine e with halted := halted } ∧ ∀ d, d ≠ e → u.engine d = s.engine d

theorem engdbgWord_done (he : e < 32) (halted : Bool) (pc data : Nat) : engdbgWord e false halted pc data =
    e * 2 ^ 67 + 2 ^ 66 + b2n halted * 2 ^ 64 + (pc % 2 ^ 32) * 2 ^ 32 + data % 2 ^ 32 := by
  simp [engdbgWord, Nat.mod_eq_of_lt he, b2n]

theorem engdbgWord_err (he : e < 32) : engdbgWord e true false 0 0 = e * 2 ^ 67 + 2 ^ 66 + 2 ^ 65 := by
  simp [engdbgWord, Nat.mod_eq_of_lt he, b2n]

/-- An operation shows the engine as the operation left it. -/
theorem State.engdbg_done (hd : s.portDis = false) (hl : s.dbg.level = 2) (he : e < 32) (hop : op < 6)
    (hf : (s.engine e).rstate = .fenced) {halted : Bool} (ho : (s.engdbgOp e op).out = s.out)
    (hen : (s.engdbgOp e op).engine e = { s.engine e with halted := halted })
    (hel : ∀ d, d ≠ e → (s.engdbgOp e op).engine d = s.engine d) : s.engdbgDone (s.engdbg (engdbgDr e op a)) e halted := by
  obtain ⟨x, ⟨n, rfl⟩, pc, data, hx⟩ := State.engdbg_fenced (a := a) hd hl he hop hf
  rw [State.engine_freshSkip, hen] at hx
  rw [hx, State.engdbgDone, State.engdbgShow_dbg, State.engdbgShow_out, State.engine_engdbgShow, State.engine_freshSkip, hen]
  have hw := engdbgWord_done he halted pc data
  have hout : ((s.engdbgOp e op).freshSkip n).out = s.out := ho
  exact ⟨⟨pc % 2 ^ 32, data % 2 ^ 32, ⟨hw, by rw [hout, hw]⟩, Nat.mod_lt _ (by decide), Nat.mod_lt _ (by decide)⟩, Nat.mod_eq_of_lt he,
    rfl, rfl, fun d hne => by rw [State.engine_engdbgShow, State.engine_freshSkip, hel d hne]⟩

/-- HALT's event and record stand behind what it shows. -/
theorem State.engdbg_halt (hd : s.portDis = false) (hl : s.dbg.level = 2) (he : e < 32) (hf : (s.engine e).rstate = .fenced) :
    ((s.engdbg (engdbgDr e 1 a)).reg Reg.DBG_EVT).getLsbD 3 = true ∧ ∃ r, (s.engdbg (engdbgDr e 1 a)).logb.raised = s.logb.raised ++ [r] ∧
      r.cls = 17 ∧ r.detail = padTo 16 [4, 2, BitVec.ofNat 8 e] := by
  obtain ⟨x, ⟨n, rfl⟩, pc, data, hx⟩ := State.engdbg_fenced (a := a) (op := 1) hd hl he (by decide) hf
  rw [hx, State.reg_engdbgShow, State.engdbgShow_logb]
  refine ⟨State.getLsbD_reg_event (s.modEng e fun g => { g with halted := true }) Reg.DBG_EVT (by decide), _, rfl, rfl, ?_⟩
  show padTo 16 [4, BitVec.ofNat 8 s.dbg.level, BitVec.ofNat 8 e] = _
  rw [hl]
  rfl

/-- Settles O50: each instruction's row in its cases, those of MEMAP and ENGDBG through what they decode. -/
theorem debugPort : Obligations.DebugPort := by
  unfold Obligations.DebugPort
  intro e o lev a v low bits cap sig s dis bypassed select shows locked failed
  have byp : bypassed s.tapBypass := ⟨rfl, rfl⟩
  have lock : ∀ x : State, x.dbg = s.dbg → x.logb = s.logb → x.reg Reg.DBG_EVT = s.reg Reg.DBG_EVT → locked x.dbgLock := by
    intro x hx hlog hev
    obtain ⟨h1, -, h3, h4⟩ := x.dbgLock_spec
    rw [hx, hlog, hev] at h3
    rw [hx, hlog] at h4
    exact ⟨by rw [h1], h3, h4⟩
  refine ⟨?_, fun h => ⟨?_, ?_, ?_⟩, fun h hd => ?_, fun hd => ⟨?_, ?_, ?_⟩, fun hd => ?_, ⟨_, rfl, ⟨rfl, rfl⟩, rfl⟩, s.idcodeWord_low,
    s.idcodeWord_high, ⟨_, rfl, ⟨rfl, rfl⟩, rfl, rfl⟩, fun hd ht => ?_, fun hd ht => ?_, fun hd hn => ?_, fun n hd hn => ?_,
    fun h => ⟨?_, ?_⟩, fun hd hl ho => ?_, fun cmd hc he => ⟨fun h => ?_, fun hd hl hf => ?_⟩, fun he hlen hd hl hf => ?_, ?_, ?_⟩
  · obtain ⟨h1, -, h3, h4⟩ := ((s.tapSelect .idcode).modDbg fun d => { d with tapActive := false }).dbgLock_spec
    exact ⟨_, rfl, ⟨by rw [dbgTapResetRow, h1], h3, h4⟩, by rw [dbgTapResetRow, h1]; rfl, by rw [dbgTapResetRow, h1]; rfl,
      by rw [dbgTapResetRow, h1]; rfl, by rw [dbgTapResetRow, h1]; rfl⟩
  · exact ⟨_, .of (extestRow_bypassed h) rfl, byp⟩
  · exact ⟨_, .of (highzRow_bypassed h) rfl, byp⟩
  · exact ⟨_, .of (clampRow_bypassed h) rfl, byp⟩
  · subst h
    exact ⟨.of (extestRow_drives hd) rfl, .of (highzRow_drives hd) rfl, .of (clampRow_drives hd) rfl⟩
  · exact ⟨_, .of (samplePreloadRow_bypassed hd) rfl, byp⟩
  · exact ⟨_, .of (dbgNonceRow_bypassed hd) rfl, byp⟩
  · exact answers_unlock_failed (dbgUnlockRow_disabled hd) (by decide) ⟨rfl, rfl⟩
  · exact ⟨_, _, .of (samplePreloadRow_shifts hd) rfl, ⟨rfl, rfl⟩, rfl, fun i hi => testBit_bitsValue cap hi⟩
  · exact ⟨_, .of (dbgNonceRow_trngFail hd ht) rfl, rfl, rfl, rfl⟩
  · exact ⟨_, _, .of (dbgNonceRow_draws hd ht) rfl, Nat.mod_lt _ (by decide), rfl, ⟨rfl, rfl⟩, rfl⟩
  · exact answers_unlock_failed (dbgUnlockRow_unnonced hd hn) (by decide) ⟨rfl, rfl⟩
  · have auth := dbgUnlockRow_auth (lev := lev) (sig := sig) hd hn
    refine ⟨fun h => ?_, fun hlev hs => ⟨fun hr => ?_, fun hr => ?_⟩⟩
    · obtain ⟨x, hx, hdbg⟩ := auth (.inl h)
      exact answers_unlock_failed hx (by decide) (by rw [hdbg]; exact ⟨rfl, rfl⟩)
    · have e := dbgUnlockRow_nonced (lev := lev) (sig := sig) hd hn
      rw [if_neg (by omega), if_neg (by simp [hs])] at e
      exact .of (e.trans (if_pos hr)) rfl
    · obtain ⟨x, hx, hdbg⟩ := auth (.inr hr)
      exact answers_unlock_failed hx (by decide) (by rw [hdbg]; exact ⟨rfl, rfl⟩)
  · exact ⟨_, .of (State.memap_bypassed h) rfl, byp⟩
  · exact ⟨_, .of (State.memap_bypassed h) rfl, byp⟩
  · have rd : ∀ {u}, s.memapAccess o none = u → Answers (.memapRead o) s u := fun h => .of ((memapReadRow_eq hd hl ho).trans h) rfl
    have wr : ∀ {u}, s.memapAccess o (some v) = u → Answers (.memapWrite o v) s u := fun h => .of ((memapWriteRow_eq hd hl ho).trans h) rfl
    refine ⟨fun h4 ha => ⟨rd (State.memapAccess_unaligned h4 ha none), wr (State.memapAccess_unaligned h4 ha (some v))⟩,
      fun h4 ha => ⟨rd (State.memapAccess_absent_read h4 ha), wr (State.memapAccess_absent_write h4 ha)⟩,
      fun h4 hR hr hk => rd (State.memapAccess_read h4 hR hr hk), fun h4 hR hr hb hn => ?_, fun h4 ha hs hr => ?_, fun h4 hr hk => ?_⟩
    · simp only [List.mem_cons, List.not_mem_nil, or_false, not_or] at hb hn
      refine wr (State.memapAccess_write h4 hR hr ?_ ?_)
      · rcases hb with hb | hb | hb <;> simp [hb]
      · rcases hb with hb | hb | hb <;> simp [takesPlainWrite, hb, hn]
    · exact ⟨_, rd rfl, State.memapAccess_stopped h4 ha hs hr⟩
    · exact ⟨rd (State.memapAccess_key (v := v) h4 hr hk).1, wr (State.memapAccess_key h4 hr hk).2⟩
  · obtain ⟨op, x, -, hA⟩ := answers_engdbg (s := s) hc
    exact ⟨_, .of (State.engdbg_bypassed h) hA, byp, rfl⟩
  · obtain ⟨op, x, hop, hA⟩ := answers_engdbg (s := s) hc
    refine ⟨_, .of (State.engdbg_running hd hl he (by omega) hf) hA, ⟨?_, ?_⟩, rfl, Nat.mod_eq_of_lt he⟩
    · rw [State.engdbgShow_dbg, engdbgWord_err he]
    · rw [State.engdbgShow_out, engdbgWord_err he]
  · have own : ∀ f : Eng → Eng, (s.modEng e f).engine e = f (s.engine e) := fun f => State.engine_modEng_self s f hlen
    have others : ∀ (f : Eng → Eng) d, d ≠ e → (s.modEng e f).engine d = s.engine d := fun f d hne => State.engine_modEng_ne s f hne.symm
    obtain ⟨hev, r, hr, hcls, hdet⟩ := State.engdbg_halt (a := 0) hd hl he hf
    have done {op a : Nat} {halted : Bool} := State.engdbg_done (op := op) (a := a) (halted := halted) hd hl he
    exact ⟨⟨_, r, rfl, done (by decide) hf rfl (own _) (others _), hev, hr, hcls, hdet⟩,
      ⟨_, rfl, done (by decide) hf rfl (own _) (others _)⟩, ⟨_, rfl, done (by decide) hf rfl (own _) (others _)⟩,
      ⟨_, rfl, done (by decide) hf rfl rfl fun _ _ => rfl⟩, ⟨_, rfl, done (by decide) hf rfl rfl fun _ _ => rfl⟩⟩
  · refine ⟨_, answers_dbgRelock s, lock s rfl rfl rfl, ?_⟩
    exact congrArg (BitVec.getLsbD · 0) (s.dbgLock_spec.2.1 _ (by decide))
  · refine ⟨_, answers_dbgPortDis s, lock (s.setReg Reg.DBG_CTRL 1) rfl rfl (State.reg_setReg_ne _ (by decide) _), ?_⟩
    have h := (s.setReg Reg.DBG_CTRL 1).dbgLock_spec.2.1 Reg.DBG_CTRL (by decide)
    rw [State.reg_setReg_self] at h
    exact congrArg (BitVec.getLsbD · 0) h

end Sys2Proof.Machine
end

section
/-! SUPPORT. The pilot's shared operations: what the engines' counters leave of the pilot (R406 to R408), descriptors (R389), and what a
start, a resumption and a pre-emption do (R391 to R394). -/

namespace Sys2Proof.Machine

variable {r s t u : State} {i e : Nat}

/-! ### Counting -/

/-- Of the pilot, only where an engine's samples go has moved, and DT stands. -/
structure Counted (s t : State) : Prop where
  plt : t.plt = { s.plt with eng := t.plt.eng }
  len : t.plt.eng.length = s.plt.eng.length
  eng : ∀ e, t.engine e = { s.engine e with smpWr := (t.engine e).smpWr, smpLost := (t.engine e).smpLost }
  dt : t.dt = s.dt

theorem Counted.of_plt (h : t.plt = s.plt) (hd : t.dt = s.dt) : Counted s t := by
  refine ⟨by rw [h], by rw [h], fun e => ?_, hd⟩
  rw [State.engine, State.engine, h]

theorem Counted.refl (s : State) : Counted s s := .of_plt rfl rfl

theorem Counted.trans (h : Counted r s) (h' : Counted s t) : Counted r t := by
  refine ⟨by rw [h'.plt, h.plt], h'.len.trans h.len, fun e => ?_, h'.dt.trans h.dt⟩
  rw [h'.eng e, h.eng e]

theorem Counted.foldl {α : Type} {f : State → α → State} (hf : ∀ x a, Counted x (f x a)) : ∀ (s : State) (l : List α), Counted s (l.foldl f s)
  | s, [] => .refl s
  | s, a :: l => (hf s a).trans (Counted.foldl hf (f s a) l)

/-- A change of where an engine's samples go. -/
theorem State.modEng_counted (s : State) (e : Nat) (f : Eng → Eng)
    (hf : ∀ g : Eng, f g = { g with smpWr := (f g).smpWr, smpLost := (f g).smpLost }) : Counted s (s.modEng e f) := by
  refine ⟨rfl, State.modEng_len s e f, fun d => ?_, rfl⟩
  by_cases hd : e = d ∧ d < s.plt.eng.length
  · obtain ⟨rfl, hlen⟩ := hd
    rw [State.engine_modEng_self s f hlen]
    exact hf _
  · have : (s.modEng e f).engine d = s.engine d := (nth_modify _ _ _ _ _).trans (if_neg hd)
    rw [this]

theorem State.sampleWrite_counted (s : State) (e i addr skid : Nat) : Counted s (s.sampleWrite e i addr skid) := by
  unfold State.sampleWrite
  split
  · extract_lets n size b s1
    have h1 : Counted s s1 := by
      have h := (s.dramWrite (s.reg64 (Reg.ENG_SMP_BASE_LO e) + 32 * (n % size)) b).modEng_counted e
        (fun g => { g with smpWr := n + 1, smpLost := false }) fun _ => rfl
      exact ((Counted.of_plt (s := s) (by simp) (by simp)).trans h).trans (.of_plt (by simp [s1]) (by simp [s1]))
    split
    · exact h1.trans (.of_plt (by simp) (by simp))
    · exact h1
  · exact .of_plt (by simp) (by simp)

theorem State.cntWrap_counted (s : State) (e i : Nat) (smp : Option SmpAt) : Counted s (s.cntWrap e i smp) := by
  unfold State.cntWrap
  extract_lets s1
  have h1 : Counted s s1 := .of_plt rfl rfl
  split
  · split
    · split
      · exact h1.trans (State.modEng_counted _ _ _ fun _ => rfl)
      · exact h1.trans (State.sampleWrite_counted _ _ _ _ _)
    · have h2 : Counted s s1.freshNext.freshNext := .of_plt rfl rfl
      exact h2.trans (State.sampleWrite_counted _ _ _ _ _)
  · exact h1

theorem State.cntAdd_counted (s : State) (e i n : Nat) (smp : Option SmpAt) : Counted s (s.cntAdd e i n smp) := by
  unfold State.cntAdd
  extract_lets v s1
  have h1 : Counted s s1 := .of_plt rfl rfl
  split
  · exact h1.trans (State.cntWrap_counted _ _ _ _)
  · exact h1

theorem State.cntSpan_counted (s : State) (e : Nat) (x : EngSpan) (smp : Option (Nat × SmpAt)) : Counted s (s.cntSpan e x smp) := by
  have h0 : Counted s (s.setReg64 (Reg.ENG_CYCLE_LO e) ((s.reg64 (Reg.ENG_CYCLE_LO e) + x.cycles) % 2 ^ 64)) :=
    .of_plt (State.setReg64_plt _ _ _) (State.setReg64_dt _ _ _)
  refine h0.trans (.foldl (fun y i => ?_) _ _)
  split
  · exact y.cntAdd_counted _ _ _ _
  · exact .refl y

theorem State.engCatchUp_counted (s : State) (e : Nat) : Counted s (s.engCatchUp e) := by
  unfold State.engCatchUp
  split
  · have h0 : Counted s (s.freshSkip 0x14) := .of_plt rfl rfl
    exact h0.trans (State.cntSpan_counted _ _ _ _)
  · exact .refl s

theorem State.engEvent_counted (s : State) (e code : Nat) : Counted s (s.engEvent e code) := by
  unfold State.engEvent
  split
  · refine .foldl (fun x i => ?_) _ _
    split
    · exact x.cntAdd_counted _ _ _ _
    · exact .refl x
  · exact .refl s

theorem Counted.tasks (h : Counted s t) : t.plt.tasks = s.plt.tasks := by rw [h.plt]

theorem Counted.done (h : Counted s t) : t.plt.done = s.plt.done := by rw [h.plt]

theorem Counted.running (h : Counted s t) (e : Nat) : (t.engine e).running = (s.engine e).running := by rw [h.eng]

theorem Counted.preempted (h : Counted s t) (e : Nat) : (t.engine e).preempted = (s.engine e).preempted := by rw [h.eng]

/-! ### Descriptors -/

/-- A descriptor reads as it was set last. -/
theorem State.task_setTask (s : State) (i j : Nat) (x : Task) : (s.setTask i x).task j = if i = j then x else s.task j :=
  mapGet_put _ _ _ _ _

@[simp] theorem State.task_setTask_self (s : State) (i : Nat) (x : Task) : (s.setTask i x).task i = x := by
  rw [State.task_setTask, if_pos rfl]

theorem State.task_setTask_ne (s : State) {i j : Nat} (h : j ≠ i) (x : Task) : (s.setTask i x).task j = s.task j := by
  rw [State.task_setTask, if_neg h.symm]

theorem State.task_of_tasks (h : t.plt.tasks = s.plt.tasks) (i : Nat) : t.task i = s.task i := congrArg (mapGet _ · i) h

/-- The states whose descriptors are those of a state but for one. -/
theorem State.task_of_setTask {x : Task} (h : t.plt.tasks = (s.setTask i x).plt.tasks) : t.task i = x ∧ ∀ k, k ≠ i → t.task k = s.task k :=
  ⟨(State.task_of_tasks h i).trans (s.task_setTask_self i x), fun k hk => (State.task_of_tasks h k).trans (s.task_setTask_ne hk x)⟩

/-! ### Starts, resumptions and pre-emptions -/

/-- The state in which an engine's switch to a task has been counted. -/
abbrev State.switched (s : State) (e code : Nat) : State := (s.engCatchUp e).engEvent e code

theorem State.switched_counted (s : State) (e code : Nat) : Counted s (s.switched e code) :=
  (s.engCatchUp_counted e).trans (State.engEvent_counted _ _ _)

/-- A start moves the task's descriptor and its engine; only counters follow. -/
theorem State.startOn_plt (s : State) (i e : Nat) : (s.startOn i e).plt =
    (((s.switched e 0x0F).setTask i { s.task i with st := .running, engine := some e, affinity := some e }).modEng e fun g =>
      { g with running := some i }).plt := by
  unfold State.startOn
  extract_lets t s0 s1 s2
  have h2 : s2.plt = s1.plt := by simp only [s2, State.count_plt]
  split
  · exact (State.count_plt _ _).trans h2
  · exact h2

theorem State.task_startOn (s : State) (i e : Nat) :
    (s.startOn i e).task i = { s.task i with st := .running, engine := some e, affinity := some e } ∧
      ∀ k, k ≠ i → (s.startOn i e).task k = s.task k := by
  refine State.task_of_setTask ?_
  rw [State.startOn_plt, State.modEng_plt, State.setTask_plt, State.setTask_plt, (s.switched_counted e 0x0F).tasks]

theorem State.engine_startOn (s : State) (i : Nat) {e : Nat} (h : e < s.plt.eng.length) :
    (s.startOn i e).engine e = { (s.switched e 0x0F).engine e with running := some i } := by
  rw [State.engine, State.startOn_plt]
  exact State.engine_modEng_self _ _ (by rw [State.setTask_plt]; exact (s.switched_counted e 0x0F).len ▸ h)

theorem State.resumeOn_plt (s : State) (i e : Nat) : (s.resumeOn i e).plt =
    (((s.switched e 0x0F).setTask i { s.task i with st := .running }).modEng e fun g =>
      { g with running := some i, preempted := g.preempted.filter (· != i) }).plt := rfl

theorem State.task_resumeOn (s : State) (i e : Nat) :
    (s.resumeOn i e).task i = { s.task i with st := .running } ∧ ∀ k, k ≠ i → (s.resumeOn i e).task k = s.task k := by
  refine State.task_of_setTask ?_
  rw [State.resumeOn_plt, State.modEng_plt, State.setTask_plt, State.setTask_plt, (s.switched_counted e 0x0F).tasks]

theorem State.running_resumeOn (s : State) (i : Nat) {e : Nat} (h : e < s.plt.eng.length) :
    ((s.resumeOn i e).engine e).running = some i := by
  rw [State.engine, State.resumeOn_plt]
  exact congrArg Eng.running (State.engine_modEng_self _ _ (by rw [State.setTask_plt]; exact (s.switched_counted e 0x0F).len ▸ h))

section preempt

variable {n : Nat}

theorem State.preempt_plt (h : (s.engine e).running = some n) : (s.preempt e).plt =
    (((s.switched e 0x10).setTask n { s.task n with st := .preempted }).modEng e fun g =>
      { g with running := none, preempted := g.preempted ++ [n] }).plt := by
  unfold State.preempt
  simp only [h, State.count_plt]

theorem State.task_preempt (h : (s.engine e).running = some n) :
    (s.preempt e).task n = { s.task n with st := .preempted } ∧ ∀ k, k ≠ n → (s.preempt e).task k = s.task k := by
  refine State.task_of_setTask ?_
  rw [State.preempt_plt h, State.modEng_plt, State.setTask_plt, State.setTask_plt, (s.switched_counted e 0x10).tasks]

theorem State.preempt_len (h : (s.engine e).running = some n) : (s.preempt e).plt.eng.length = s.plt.eng.length := by
  rw [State.preempt_plt h, State.modEng_len, State.setTask_plt]
  exact (s.switched_counted e 0x10).len

theorem State.preempted_preempt (h : (s.engine e).running = some n) (hlen : e < s.plt.eng.length) :
    ((s.preempt e).engine e).preempted = (s.engine e).preempted ++ [n] := by
  rw [State.engine, State.preempt_plt h]
  refine (congrArg Eng.preempted (State.engine_modEng_self _ _ (by rw [State.setTask_plt]; exact (s.switched_counted e 0x10).len ▸ hlen))).trans ?_
  exact congrArg (· ++ [n]) ((s.switched_counted e 0x10).preempted e)

end preempt

/-! ### What comes after: quotas that open again, a drained engine -/

theorem State.task_pilotResume (s : State) (i : Nat) : s.pilotResume.task i = s.task i :=
  State.task_of_tasks (State.pilotResume_taskkept (.refl s)).plt_tasks i

theorem State.engine_pilotResume (s : State) (e : Nat) : s.pilotResume.engine e = s.engine e :=
  congrArg (nth _ · e) (State.pilotResume_engkept (.refl s)).plt_eng

theorem State.task_rotCheck (s : State) (i : Nat) : s.rotCheck.task i = s.task i :=
  State.task_of_tasks (State.rotCheck_taskkept (.refl s)).plt_tasks i

end Sys2Proof.Machine
end
section
/-! SUPPORT. Submission (R388, R400) and dispatch (R391 to R394). -/

namespace Sys2Proof.Machine

variable {s u : State} {q : TaskReq} {i j e cls : Nat}

/-! ### Submission -/

/-- The descriptors an owner holds. -/
def State.tasksOf (s : State) (owner : Nat) : Nat :=
  ((s.plt.tasks.filter fun t => t.2.st != .free).filter fun t => t.2.owner == owner).length

/-- Whether a submission finds its class's list full. -/
def State.listFull (s : State) (q : TaskReq) : Prop := if 6 ≤ q.prio then 64 ≤ s.readyHigh q.cls else s.rlCap q.cls ≤ s.readyLow q.cls

/-- Whether a submission is judged by its list at all. -/
def State.maySubmit (s : State) (q : TaskReq) : Prop := q.cls < 6 ∧ s.ownerFenced q.owner = false ∧ q.owner < 55

theorem State.taskLease_eq (s : State) (owner : Nat) : s.taskLease owner =
    if s.tasksOf owner < s.quota owner 4 then (List.range 4096).find? fun i => (s.task i).st == .free else none := by
  rw [State.taskLease, State.tasksOf, List.filter_filter]
  simp only [Bool.and_comm]

theorem State.taskLease_none {owner : Nat} (h : (∀ k, k < 4096 → (s.task k).st ≠ .free) ∨ s.quota owner 4 ≤ s.tasksOf owner) :
    s.taskLease owner = none := by
  rw [State.taskLease_eq]
  split
  next hq =>
    have hf := h.resolve_right (by omega)
    exact List.find?_eq_none.mpr fun k hk => by simpa using hf k (List.mem_range.mp hk)
  next => rfl

theorem State.taskLease_some {owner : Nat} (hq : s.tasksOf owner < s.quota owner 4) (hj : j < 4096) (hf : (s.task j).st = .free)
    (hb : ∀ k, k < j → (s.task k).st ≠ .free) : s.taskLease owner = some j := by
  rw [State.taskLease_eq, if_pos hq, List.find?_range_eq_some]
  exact ⟨by simp [hf], List.mem_range.mpr hj, fun k hk => by simpa using hb k hk⟩

theorem State.submit_invalid (h : 6 ≤ q.cls) : s.submit q = s.answer q.owner .invalid := if_pos h

theorem State.submit_fenced (h : q.cls < 6) (hf : s.ownerFenced q.owner = true) : s.submit q = s.answer q.owner .error := by
  rw [State.submit, if_neg (by omega), if_pos hf]

theorem State.submit_unleasable (h : q.cls < 6) (hf : s.ownerFenced q.owner = false) (ho : 55 ≤ q.owner) :
    s.submit q = s.answer q.owner .noLease := by
  rw [State.submit, if_neg (by omega), if_neg (by simp [hf]), if_pos (by simp [ownerMaySubmit]; omega)]

/-- The number of a submission's list. -/
def submitList (q : TaskReq) : Nat := q.cls + (if 6 ≤ q.prio then 8 else 0)

/-- A submission that waits for a place in its list (R400). -/
def State.submitHeld (s : State) (q : TaskReq) : State :=
  (((s.answer q.owner .full).modPlt fun p => { p with
    waitingSet := if p.waitingSet.contains (submitList q, q.owner) then p.waitingSet else p.waitingSet ++ [(submitList q, q.owner)]
    held := p.held ++ [q] }).count (Reg.PLT_CNT_LO 4)).event Reg.PLT_EVT 0

/-- The descriptor's contents for a submission (R389). -/
def State.submitted (s : State) (q : TaskReq) (i : Nat) : Task :=
  { st := .free, gen := (s.task i).gen, cls := q.cls, prio := min q.prio 7, owner := q.owner, typ := q.typ, affinity := q.affinity,
    wake := q.wake, keyRate := s.keyRate q.wake, since := s.dt, timeout := min q.timeout 1048575, quayTag := q.quayTag, arg := q.arg }

/-- A submission that takes a descriptor (R389, R396, R400). -/
def State.submitTaken (s : State) (q : TaskReq) (i : Nat) : State :=
  let s1 := (s.answer q.owner (.accepted i (s.task i).gen)).count (Reg.PLT_CNT_LO 0)
  if q.wake.isSome then
    (s1.setTask i { s.submitted q i with st := .delayed, order := s.plt.order }).modPlt fun p => { p with order := p.order + 1 }
  else s1.makeReady i (s.submitted q i)

theorem State.submit_judged (h : s.maySubmit q) : s.submit q =
    if (if 6 ≤ q.prio then 64 ≤ s.readyHigh q.cls else s.rlCap q.cls ≤ s.readyLow q.cls) then s.submitHeld q
    else match s.taskLease q.owner with
      | none => s.answer q.owner .noLease
      | some i => s.submitTaken q i := by
  obtain ⟨h1, h2, h3⟩ := h
  rw [State.submit, if_neg (by omega), if_neg (by simp [h2]), if_neg (by simp [ownerMaySubmit]; omega)]
  rfl

theorem State.submit_full (h : s.maySubmit q) (hf : s.listFull q) : s.submit q = s.submitHeld q := (State.submit_judged h).trans (if_pos hf)

theorem State.submit_noLease (h : s.maySubmit q) (hf : ¬s.listFull q) (hl : s.taskLease q.owner = none) :
    s.submit q = s.answer q.owner .noLease :=
  (State.submit_judged h).trans ((if_neg hf).trans (by rw [hl]))

theorem State.submit_taken (h : s.maySubmit q) (hf : ¬s.listFull q) (hl : s.taskLease q.owner = some i) :
    s.submit q = s.submitTaken q i :=
  (State.submit_judged h).trans ((if_neg hf).trans (by rw [hl]))

theorem State.waiting_submitHeld (s : State) (q : TaskReq) : (submitList q, q.owner) ∈ (s.submitHeld q).plt.waitingSet := by
  show (submitList q, q.owner) ∈ if s.plt.waitingSet.contains (submitList q, q.owner) then s.plt.waitingSet else s.plt.waitingSet ++ [(submitList q, q.owner)]
  split
  next h => exact List.contains_iff_mem.mp h
  next => exact List.mem_append_right _ (List.mem_singleton.mpr rfl)

/-- A task made READY is so at the tail of its list, from now (R389). -/
theorem State.task_makeReady (s : State) (i : Nat) (x : Task) :
    (s.makeReady i x).task i = { x with st := .ready, engine := none, order := s.plt.order, readySince := s.dt, passed := 0 } ∧
      ∀ k, k ≠ i → (s.makeReady i x).task k = s.task k :=
  State.task_of_setTask (s := s) rfl

/-- The descriptor taken is DELAYED with a wake key and READY without; nothing else of it depends on the key. -/
theorem State.task_submitTaken (s : State) (q : TaskReq) (i : Nat) :
    (∃ o n, (s.submitTaken q i).task i =
      { s.submitted q i with st := if q.wake.isSome then .delayed else .ready, order := o, readySince := n }) ∧
    ∀ k, k ≠ i → (s.submitTaken q i).task k = s.task k := by
  unfold State.submitTaken
  extract_lets s1
  split
  · obtain ⟨hi, hk⟩ := State.task_of_setTask (i := i) (s := s) (x := { s.submitted q i with st := .delayed, order := s.plt.order })
      (t := (s1.setTask i { s.submitted q i with st := .delayed, order := s.plt.order }).modPlt fun p => { p with order := p.order + 1 }) rfl
    exact ⟨⟨s.plt.order, 0, hi⟩, hk⟩
  · obtain ⟨hi, hk⟩ := s1.task_makeReady i (s.submitted q i)
    exact ⟨⟨s1.plt.order, s1.dt, hi⟩, hk⟩

theorem State.answers_submitTaken (s : State) (q : TaskReq) (i : Nat) :
    (s.submitTaken q i).plt.answers = s.plt.answers ++ [(q.owner, .accepted i (s.task i).gen)] := by
  unfold State.submitTaken
  split <;> rfl

/-! ### What an engine takes -/

/-- Task n runs on engine e. -/
def State.runs (u : State) (n e : Nat) : Prop := (u.task n).st = .running ∧ (u.engine e).running = some n

/-- No descriptor but n has changed. -/
def State.onlyTask (s u : State) (n : Nat) : Prop := ∀ k, k ≠ n → u.task k = s.task k

theorem State.startOn_runs (s : State) (n : Nat) (he : e < s.plt.eng.length) :
    (s.startOn n e).pilotResume.runs n e ∧ s.onlyTask (s.startOn n e).pilotResume n := by
  obtain ⟨h1, h2⟩ := s.task_startOn n e
  refine ⟨⟨?_, ?_⟩, fun k hk => (State.task_pilotResume _ k).trans (h2 k hk)⟩
  · rw [State.task_pilotResume, h1]
  · rw [State.engine_pilotResume, State.engine_startOn s n he]

theorem State.resumeOn_runs (s : State) (n : Nat) (he : e < s.plt.eng.length) :
    (s.resumeOn n e).pilotResume.runs n e ∧ s.onlyTask (s.resumeOn n e).pilotResume n := by
  obtain ⟨h1, h2⟩ := s.task_resumeOn n e
  refine ⟨⟨?_, ?_⟩, fun k hk => (State.task_pilotResume _ k).trans (h2 k hk)⟩
  · rw [State.task_pilotResume, h1]
  · rw [State.engine_pilotResume, State.running_resumeOn s n he]

/-- The tasks that engine e may start: those at the head of its class, while it is in service. -/
def State.startable (s : State) (e : Nat) : List (Nat × Task) :=
  if (s.engine e).rstate = .inService then s.topList (engClass e) else []

section held

variable {h : Nat} (hh : (s.engine e).preempted.getLast? = some h)
include hh

theorem State.nextTask_resumes (ht : s.startable e = [] ∨ ∃ x rest, s.startable e = x :: rest ∧ x.2.prio ≤ (s.task h).prio) :
    s.nextTask e = some (true, h, none) := by
  unfold State.startable at ht
  unfold State.nextTask
  simp only [hh]
  rcases ht with ht | ⟨x, rest, ht, hp⟩
  · rw [ht]
  · rw [ht]
    exact if_neg (by omega)

theorem State.nextTask_outranked {x : Nat × Task} {rest : List (Nat × Task)} (ht : s.startable e = x :: rest)
    (hp : (s.task h).prio < x.2.prio) : s.nextTask e = some (false, x.1, none) := by
  unfold State.startable at ht
  unfold State.nextTask
  simp only [hh]
  rw [ht]
  exact if_pos hp

end held

section free

variable {x : Nat × Task} {rest : List (Nat × Task)} (hp : (s.engine e).preempted = []) (ht : s.startable e = x :: rest)
include hp ht

/-- The task of the first eight whose affinity names the engine. -/
def nearTask (l : List (Nat × Task)) (e : Nat) : Option (Nat × Task) := (l.take 8).find? fun y => y.2.affinity == some e

theorem State.nextTask_free : s.nextTask e =
    if 4 ≤ x.2.passed then some (false, x.1, none)
    else match nearTask (x :: rest) e with
      | some y => some (false, y.1, if y.1 = x.1 then none else some x.1)
      | none => some (false, x.1, none) := by
  unfold State.startable at ht
  unfold State.nextTask
  simp only [hp, List.getLast?_nil]
  rw [ht]
  rfl

theorem State.nextTask_head (h : 4 ≤ x.2.passed ∨ nearTask (x :: rest) e = none) : s.nextTask e = some (false, x.1, none) := by
  rw [State.nextTask_free hp ht]
  rcases h with h | h
  · rw [if_pos h]
  · rw [h]
    split <;> rfl

theorem State.nextTask_near {y : Nat × Task} (h4 : x.2.passed < 4) (hy : nearTask (x :: rest) e = some y) (hne : y.1 ≠ x.1) :
    s.nextTask e = some (false, y.1, some x.1) := by
  rw [State.nextTask_free hp ht, if_neg (by omega), hy]
  exact congrArg (fun o => some (false, y.1, o)) (if_neg hne)

end free

theorem State.engineTake_resumes (h : s.nextTask e = some (true, i, none)) : s.engineTake e = s.resumeOn i e := by
  rw [State.engineTake, h]

theorem State.engineTake_starts (h : s.nextTask e = some (false, i, none)) : s.engineTake e = s.startOn i e := by
  rw [State.engineTake, h]

theorem State.engineTake_passes (h : s.nextTask e = some (false, i, some j)) :
    s.engineTake e = (s.setTask j { s.task j with passed := (s.task j).passed + 1 }).startOn i e := by
  rw [State.engineTake, h]

/-! ### The class's next task -/

section dispatch

variable (hc : cls < 6)
include hc

theorem taskDispatchRow_eq : taskDispatchRow cls s =
    match (s.idleEngines cls).find? fun e => !(s.engine e).preempted.isEmpty with
    | some e => (s.engineTake e).pilotResume
    | none =>
      match s.idleEngines cls, s.topList cls with
      | [], t :: _ =>
        if 6 ≤ t.2.prio then
          match s.victim cls t.2 with
          | none => s
          | some e => ((s.preempt e).startOn t.1 e).pilotResume
        else s
      | [], [] => s
      | [e], _ => (s.engineTake e).pilotResume
      | e :: es, t :: _ =>
        match (e :: es).find? fun x => t.2.affinity == some x with
        | some x => (s.startOn t.1 x).pilotResume
        | none => (s.startOn t.1 e).pilotResume
      | _, [] => s :=
  if_neg (by omega)

theorem taskDispatchRow_holding (h : (s.idleEngines cls).find? (fun e => !(s.engine e).preempted.isEmpty) = some e) :
    taskDispatchRow cls s = (s.engineTake e).pilotResume := by
  rw [taskDispatchRow_eq hc, h]

theorem taskDispatchRow_nothing (hi : s.idleEngines cls = []) (ht : s.topList cls = []) : taskDispatchRow cls s = s := by
  rw [taskDispatchRow_eq hc, hi, ht]
  rfl

section busy

variable {x : Nat × Task} {rest : List (Nat × Task)} (hi : s.idleEngines cls = []) (ht : s.topList cls = x :: rest)
include hi ht

theorem taskDispatchRow_waits (h : x.2.prio < 6 ∨ s.victim cls x.2 = none) : taskDispatchRow cls s = s := by
  rw [taskDispatchRow_eq hc, hi, ht]
  show (if 6 ≤ x.2.prio then _ else s) = s
  split
  next hp => rw [h.resolve_left (by omega)]
  next => rfl

theorem taskDispatchRow_preempts (hp : 6 ≤ x.2.prio) (hv : s.victim cls x.2 = some e) :
    taskDispatchRow cls s = ((s.preempt e).startOn x.1 e).pilotResume := by
  rw [taskDispatchRow_eq hc, hi, ht]
  show (if 6 ≤ x.2.prio then _ else s) = _
  rw [if_pos hp, hv]

end busy

theorem taskDispatchRow_one (hi : s.idleEngines cls = [e]) (hp : (s.engine e).preempted = []) :
    taskDispatchRow cls s = (s.engineTake e).pilotResume := by
  rw [taskDispatchRow_eq hc, hi]
  simp [hp]

section several

variable {e' : Nat} {es : List Nat} {x : Nat × Task} {rest : List (Nat × Task)} (hi : s.idleEngines cls = e :: e' :: es)
  (hp : ∀ k ∈ s.idleEngines cls, (s.engine k).preempted = []) (ht : s.topList cls = x :: rest)
include hi hp ht

theorem taskDispatchRow_several : taskDispatchRow cls s =
    match (s.idleEngines cls).find? fun k => x.2.affinity == some k with
    | some k => (s.startOn x.1 k).pilotResume
    | none => (s.startOn x.1 e).pilotResume := by
  have hn : (s.idleEngines cls).find? (fun e => !(s.engine e).preempted.isEmpty) = none :=
    List.find?_eq_none.mpr fun k hk => by simp [hp k hk]
  rw [taskDispatchRow_eq hc, hn, hi, ht]

theorem taskDispatchRow_lowest (h : ∀ k ∈ s.idleEngines cls, x.2.affinity ≠ some k) :
    taskDispatchRow cls s = (s.startOn x.1 e).pilotResume := by
  rw [taskDispatchRow_several hc hi hp ht, List.find?_eq_none.mpr fun k hk => by simpa using h k hk]

theorem taskDispatchRow_affine {k : Nat} (hk : k ∈ s.idleEngines cls) (h : x.2.affinity = some k) :
    taskDispatchRow cls s = (s.startOn x.1 k).pilotResume := by
  have hf : (s.idleEngines cls).find? (fun k => x.2.affinity == some k) = some k := by
    cases hf : (s.idleEngines cls).find? (fun k => x.2.affinity == some k) with
    | none => exact absurd (List.find?_eq_none.mp hf k hk) (by simp [h])
    | some k' =>
      have := List.find?_some hf
      simp only [h, beq_iff_eq, Option.some.injEq] at this
      rw [this]
  rw [taskDispatchRow_several hc hi hp ht, hf]

end several

end dispatch

end Sys2Proof.Machine
end
section
/-! SUPPORT. A task's waits, delays, aging, end and abort (R389, R395 to R399), and its probe (R411). -/

namespace Sys2Proof.Machine

variable {s t u : State} {i e : Nat} {a b : Task}

/-! ### What an end sets off leaves the completions as they are -/

/-- The completions stand. -/
structure DoneKept (r s : State) : Prop where
  done : s.plt.done = r.plt.done

theorem DoneKept.refl (s : State) : DoneKept s s := ⟨rfl⟩

theorem DoneKept.trans (h : DoneKept s t) (h' : DoneKept t u) : DoneKept s u := ⟨h'.done.trans h.done⟩

theorem DoneKept.foldl {α : Type} {f : State → α → State} (hf : ∀ x k, DoneKept x (f x k)) : ∀ (s : State) (l : List α), DoneKept s (l.foldl f s)
  | s, [] => .refl s
  | s, k :: l => (hf s k).trans (DoneKept.foldl hf (f s k) l)

theorem State.pilotResume_donekept (s : State) : DoneKept s s.pilotResume := by
  have fire : ∀ (x : State) (c q : Nat) (low : Bool), DoneKept x (let w := x.plt.waitingSet.filter fun y => y.1 == q
      if low && !w.isEmpty then
        let mine (r : TaskReq) : Bool := r.cls + (if 6 ≤ r.prio then 8 else 0) == q
        x.modPlt fun p => { p with
          waitingSet := p.waitingSet.filter fun y => y.1 != q
          resumes := p.resumes ++ w.map fun y => (c, y.2)
          wants := p.held.filter mine ++ p.wants
          held := p.held.filter fun r => !mine r }
      else x) := by
    intro x c q low
    dsimp only
    split
    · exact ⟨rfl⟩
    · exact .refl x
  unfold State.pilotResume
  exact .foldl (fun x c => (fire x c c _).trans (fire _ c (c + 8) _)) s _

theorem State.deriveStart_donekept (s : State) (slot : Nat) : DoneKept s (s.deriveStart slot) := by
  unfold State.deriveStart
  extract_lets x
  split
  · exact ⟨rfl⟩
  · exact .refl s

theorem State.passRoles_donekept (s : State) (e : Nat) : DoneKept s (s.passRoles e) := by
  unfold State.passRoles
  split
  · refine .foldl (fun x k => ?_) s _
    dsimp only
    split
    · split
      · exact ⟨rfl⟩
      · exact .refl x
    · exact .refl x
  · split
    next x _ =>
      have h1 : DoneKept s (if s.plt.lpeEng = e then { (s.modPlt fun p => { p with lpeEng := x }) with fe := { s.fe with lpeBlockedTill := s.dt } }
          else s) := by
        split
        · exact ⟨rfl⟩
        · exact .refl s
      dsimp only
      generalize (if s.plt.lpeEng = e then { (s.modPlt fun p => { p with lpeEng := x }) with fe := { s.fe with lpeBlockedTill := s.dt } }
          else s) = y at h1
      split
      · refine h1.trans (DoneKept.trans ?_ (State.deriveStart_donekept _ _))
        exact ⟨rfl⟩
      · exact h1
    next => exact .refl s
  · split
    · exact ⟨rfl⟩
    · exact .refl s
  · exact .refl s

theorem State.rotCheck_donekept (s : State) : DoneKept s s.rotCheck := by
  unfold State.rotCheck
  split
  · exact .refl s
  · extract_lets g
    split
    · exact (State.passRoles_donekept s _).trans ⟨rfl⟩
    · exact .refl s

/-! ### A task leaves its engine -/

theorem State.leaveEngine_tasks (s : State) (i : Nat) :
    (s.leaveEngine i).plt.tasks = s.plt.tasks ∧ (s.leaveEngine i).plt.done = s.plt.done ∧ (s.leaveEngine i).dt = s.dt := by
  unfold State.leaveEngine
  split
  next e _ =>
    have h := s.engCatchUp_counted e
    exact ⟨h.tasks, h.done, h.dt⟩
  next => exact ⟨rfl, rfl, rfl⟩

/-- How a task's end leaves its descriptor, the others and the completions. -/
def State.ended (s u : State) (i : Nat) (aborted : Bool) : Prop :=
  u.task i = { gen := ((s.task i).gen + 1) % 256 } ∧
    u.plt.done = s.plt.done ++ [⟨(s.task i).owner, (s.task i).typ, (s.task i).arg, (s.task i).quayTag, aborted⟩] ∧ s.onlyTask u i

/-- A task's descriptor back in the pool and its completion told (R399). -/
def State.taskClosed (s : State) (i : Nat) (aborted : Bool) : State :=
  ((s.leaveEngine i).freeTask i).modPlt fun p =>
    { p with done := p.done ++ [⟨(s.task i).owner, (s.task i).typ, (s.task i).arg, (s.task i).quayTag, aborted⟩] }

theorem State.taskEnd_eq (s : State) (i : Nat) (aborted : Bool) : s.taskEnd i aborted = (s.taskClosed i aborted).pilotResume.rotCheck := rfl

theorem State.taskClosed_ended (s : State) (i : Nat) (aborted : Bool) : s.ended (s.taskClosed i aborted) i aborted := by
  obtain ⟨ht, hd, -⟩ := s.leaveEngine_tasks i
  obtain ⟨hi, hk⟩ := State.task_of_setTask (i := i) (s := s.leaveEngine i) (t := s.taskClosed i aborted)
    (x := { gen := (((s.leaveEngine i).task i).gen + 1) % 256 }) rfl
  rw [State.task_of_tasks ht i] at hi
  exact ⟨hi, congrArg (· ++ _) hd, fun k hne => (hk k hne).trans (State.task_of_tasks ht k)⟩

theorem State.taskEnd_ended (s : State) (i : Nat) (aborted : Bool) : s.ended (s.taskEnd i aborted) i aborted := by
  obtain ⟨hi, hd, hk⟩ := s.taskClosed_ended i aborted
  have ht : ∀ k, (s.taskEnd i aborted).task k = (s.taskClosed i aborted).task k := fun k => by
    rw [State.taskEnd_eq, State.task_rotCheck, State.task_pilotResume]
  refine ⟨(ht i).trans hi, ?_, fun k hne => (ht k).trans (hk k hne)⟩
  rw [State.taskEnd_eq, (State.rotCheck_donekept _).done, (State.pilotResume_donekept _).done, hd]

theorem State.ended_of_plt {aborted : Bool} (ht : u.plt.tasks = t.plt.tasks) (hd : u.plt.done = t.plt.done) (h : s.ended t i aborted) :
    s.ended u i aborted := by
  obtain ⟨h1, h2, h3⟩ := h
  exact ⟨(State.task_of_tasks ht i).trans h1, hd.trans h2, fun k hk => (State.task_of_tasks ht k).trans (h3 k hk)⟩

/-! ### The rows -/

/-- How a task is made READY again. -/
def State.became (s u : State) (i : Nat) (x : Task) : Prop :=
  u.task i = { x with st := .ready, engine := none, order := s.plt.order, readySince := u.dt, passed := 0 } ∧ s.onlyTask u i

theorem State.makeReady_became (ht : t.plt.tasks = s.plt.tasks) (ho : t.plt.order = s.plt.order) (x : Task) :
    s.became (t.makeReady i x) i x := by
  obtain ⟨h1, h2⟩ := t.task_makeReady i x
  rw [ho] at h1
  exact ⟨h1, fun k hk => (h2 k hk).trans (State.task_of_tasks ht k)⟩

/-- A time that goes on leaves the pilot as it is. -/
theorem State.advance_plt (s : State) (w : Nat) : (s.advance w).plt = s.plt := by
  unfold State.advance
  split
  · exact State.countBy_plt _ _ _
  · rfl

theorem taskWaitRow_idle (h : (s.task i).st ≠ .running) : taskWaitRow i s = s := if_neg h

theorem taskWaitRow_waits (h : (s.task i).st = .running) :
    (taskWaitRow i s).task i = { s.task i with st := .waiting, engine := none, since := s.dt, waitRes := .none } ∧
      s.onlyTask (taskWaitRow i s) i := by
  obtain ⟨ht, -, -⟩ := s.leaveEngine_tasks i
  rw [taskWaitRow, if_pos h]
  refine ⟨(State.task_rotCheck _ i).trans (State.task_setTask_self _ _ _), fun k hk => ?_⟩
  exact (State.task_rotCheck _ k).trans ((State.task_setTask_ne _ hk _).trans (State.task_of_tasks ht k))

theorem waitEventRow_idle (h : (s.task i).st ≠ .waiting) : waitEventRow i s = s := if_neg h

theorem waitEventRow_ready (h : (s.task i).st = .waiting) :
    s.became (waitEventRow i s) i { s.task i with waitRes := .event } ∧ (waitEventRow i s).dt = s.dt := by
  rw [waitEventRow, if_pos h]
  exact ⟨State.makeReady_became rfl rfl _, rfl⟩

theorem waitTimeoutRow_idle (h : (s.task i).st ≠ .waiting ∨ (s.task i).timeout = 0) : waitTimeoutRow i s = s :=
  if_neg fun ⟨hs, ht⟩ => h.elim (· hs) ht

theorem State.became_count {x : Task} (h : s.became u i x) (lo : Nat) : s.became (u.count lo) i x := by
  obtain ⟨h1, h2⟩ := h
  have ht : (u.count lo).plt.tasks = u.plt.tasks := by rw [State.count_plt]
  refine ⟨?_, fun k hk => (State.task_of_tasks ht k).trans (h2 k hk)⟩
  rw [State.task_of_tasks ht i, State.count_dt, h1]

theorem waitTimeoutRow_fires (h : (s.task i).st = .waiting) (h0 : (s.task i).timeout ≠ 0) : waitTimeoutRow i s =
    ((s.advance ((s.task i).since + (s.task i).timeout * subPerUs)).makeReady i { s.task i with waitRes := .timeout }).count (Reg.PLT_CNT_LO 5) :=
  if_pos ⟨h, h0⟩

theorem State.advance_makeReady_became (s : State) (due : Nat) (x : Task) (lo : Nat) :
    s.became (((s.advance due).makeReady i x).count lo) i x ∧ (((s.advance due).makeReady i x).count lo).dt = max s.dt due := by
  have hp := s.advance_plt due
  refine ⟨State.became_count (State.makeReady_became (by rw [hp]) (by rw [hp]) _) _, ?_⟩
  rw [State.count_dt]
  exact s.advance_dt due

theorem waitTimeoutRow_ready (h : (s.task i).st = .waiting) (h0 : (s.task i).timeout ≠ 0) :
    s.became (waitTimeoutRow i s) i { s.task i with waitRes := .timeout } ∧
      (waitTimeoutRow i s).dt = max s.dt ((s.task i).since + (s.task i).timeout * subPerUs) := by
  rw [waitTimeoutRow_fires h h0]
  exact State.advance_makeReady_became s _ _ _

/-! ### Delays -/

theorem State.fireTime_none (h : s.wakeTime a = none) : s.fireTime a = none := by
  rw [State.fireTime, h]

theorem State.fireTime_delivered {w : Nat} (h : s.wakeTime a = some (w, true)) : s.fireTime a = some (w, false) := by
  rw [State.fireTime, h]

theorem State.fireTime_passed {w : Nat} (h : s.wakeTime a = some (w, false)) :
    s.fireTime a = (s.tb.tqHist.reverse.find? fun p => w < p.1 && s.delivered p.1).map fun p => (p.1, true) := by
  rw [State.fireTime, h]

theorem State.delayBefore_iff {x y : Nat × Bool} (ha : s.fireTime a = some x) (hb : s.fireTime b = some y) :
    s.delayBefore a b = true ↔ x.1 < y.1 ∨ (x.1 = y.1 ∧ (b.prio < a.prio ∨ (a.prio = b.prio ∧ a.order < b.order))) := by
  rw [State.delayBefore, ha, hb]
  simp

theorem State.delayHead_iff : s.delayHead i = true ↔
    ∀ x ∈ s.plt.tasks, x.1 ≠ i → x.2.st = .delayed → x.2.cls = (s.task i).cls → s.delayBefore x.2 (s.task i) = false := by
  simp [State.delayHead]

theorem delayWakeRow_idle (h : (s.task i).st ≠ .delayed ∨ s.delayHead i = false ∨ s.fireTime (s.task i) = none) : delayWakeRow i s = s := by
  unfold delayWakeRow
  extract_lets t
  split
  next => rfl
  next hn =>
    rw [not_or, not_not] at hn
    obtain ⟨hst, hhead⟩ := hn
    rw [(h.resolve_left (by simpa using hst)).resolve_left (by simpa using hhead)]

section wakes

variable {w : Nat} (hd : (s.task i).st = .delayed) (hh : s.delayHead i = true)
include hd hh

theorem delayWakeRow_wakes (hf : s.fireTime (s.task i) = some (w, false)) :
    s.became (delayWakeRow i s) i (s.task i) ∧ (delayWakeRow i s).dt = max s.dt w := by
  have hp := s.advance_plt w
  have he : delayWakeRow i s = (s.advance w).makeReady i (s.task i) := by simp [delayWakeRow, hd, hh, hf]
  rw [he]
  exact ⟨State.makeReady_became (by rw [hp]) (by rw [hp]) _, s.advance_dt w⟩

theorem delayWakeRow_late (hf : s.fireTime (s.task i) = some (w, true)) :
    s.became (delayWakeRow i s) i { s.task i with late := true } ∧ ((delayWakeRow i s).reg Reg.PLT_EVT).getLsbD 2 = true := by
  have he : delayWakeRow i s = ((s.makeReady i { s.task i with late := true }).count (Reg.PLT_CNT_LO 8)).event Reg.PLT_EVT 2 := by
    simp [delayWakeRow, hd, hh, hf]
  rw [he]
  refine ⟨State.became_count (u := s.makeReady i { s.task i with late := true }) (State.makeReady_became rfl rfl _) (Reg.PLT_CNT_LO 8), ?_⟩
  rw [State.getLsbD_reg_event]
  simp

end wakes

/-! ### Aging -/

theorem taskAgingRow_idle (h : (s.task i).st ≠ .ready ∨ 5 ≤ (s.task i).prio) : taskAgingRow i s = s :=
  if_neg fun ⟨hs, hp⟩ => h.elim (· hs) fun h5 => absurd hp (by omega)

theorem State.task_readySince (s : State) (i d : Nat) :
    (s.modPlt fun p => { p with
      tasks := mapPut (fun _ => ({} : Task)) p.tasks i { mapGet (fun _ => ({} : Task)) p.tasks i with readySince := d } }).task i =
        { s.task i with readySince := d } ∧
    s.onlyTask (s.modPlt fun p => { p with
      tasks := mapPut (fun _ => ({} : Task)) p.tasks i { mapGet (fun _ => ({} : Task)) p.tasks i with readySince := d } }) i :=
  State.task_of_setTask (s := s) (x := { s.task i with readySince := d }) rfl

/-- A READY task raised, as if ready since `due`. -/
theorem State.task_makeReadySince (s : State) (i d : Nat) (x : Task) :
    ((s.makeReady i x).modPlt fun p => { p with
      tasks := mapPut (fun _ => ({} : Task)) p.tasks i { mapGet (fun _ => ({} : Task)) p.tasks i with readySince := d } }).task i =
        { x with st := .ready, engine := none, order := s.plt.order, readySince := d, passed := 0 } ∧
    s.onlyTask ((s.makeReady i x).modPlt fun p => { p with
      tasks := mapPut (fun _ => ({} : Task)) p.tasks i { mapGet (fun _ => ({} : Task)) p.tasks i with readySince := d } }) i := by
  obtain ⟨h1, h2⟩ := s.task_makeReady i x
  obtain ⟨h3, h4⟩ := (s.makeReady i x).task_readySince i d
  rw [h1] at h3
  exact ⟨h3, fun k hk => (h4 k hk).trans (h2 k hk)⟩

theorem taskAgingRow_raises (h : (s.task i).st = .ready) (h5 : (s.task i).prio < 5) :
    s.onlyTask (taskAgingRow i s) i ∧ (taskAgingRow i s).task i =
      { s.task i with prio := (s.task i).prio + 1, aged := true, engine := none, order := s.plt.order, passed := 0,
                      readySince := (s.task i).readySince + s.fld Reg.PLT_AGE_US 0 20 * subPerUs } := by
  rw [taskAgingRow, if_pos ⟨h, h5⟩]
  generalize (s.task i).readySince + s.fld Reg.PLT_AGE_US 0 20 * subPerUs = due
  have hp := s.advance_plt due
  obtain ⟨h1, h2⟩ := (s.advance due).task_makeReadySince i due { s.task i with prio := (s.task i).prio + 1, aged := true }
  refine ⟨fun k hk => (h2 k hk).trans (State.task_of_tasks (by rw [hp]) k), h1.trans ?_⟩
  rw [hp, ← h]

/-! ### Completion and abort -/

theorem workCompleteRow_idle (h : (s.task i).st ≠ .running) : workCompleteRow i s = s := by
  rw [workCompleteRow, taskCompleteRow, if_neg h]
  exact ite_self _

theorem workCompleteRow_working (h : s.workDue (s.task i) = true) : workCompleteRow i s = s := if_pos h

theorem workCompleteRow_ends (h : (s.task i).st = .running) (hw : s.workDue (s.task i) = false) :
    s.ended (workCompleteRow i s) i (s.task i).abortReq := by
  have hend := s.taskEnd_ended i (s.task i).abortReq
  rw [workCompleteRow, if_neg (by simp [hw]), taskCompleteRow, if_pos h]
  extract_lets s1
  split
  · exact State.ended_of_plt (by simp [State.answer, s1]) (by simp [State.answer, s1]) hend
  · exact hend

section abort

variable {gen owner : Nat}

theorem taskAbortRow_gone (h : (s.task i).st = .free ∨ (s.task i).gen ≠ gen) :
    taskAbortRow i gen owner s = (s.answer owner (.abort i gen false)).count (Reg.PLT_CNT_LO 7) := if_pos h

variable (hf : (s.task i).st ≠ .free) (hg : (s.task i).gen = gen)
include hf hg

theorem taskAbortRow_foreign (ho : (s.task i).owner ≠ owner) :
    taskAbortRow i gen owner s = (s.report 55 0 owner 2 i).answer owner .error := by
  rw [taskAbortRow, if_neg (by simp [hf, hg]), if_pos ho]
  rfl

theorem taskAbortRow_own (ho : (s.task i).owner = owner) : taskAbortRow i gen owner s =
    if (s.task i).st = .running then s.setTask i { s.task i with abortReq := true }
    else ((s.taskEnd i true).answer owner (.abort i gen true)).count (Reg.PLT_CNT_LO 6) := by
  rw [taskAbortRow, if_neg (by simp [hf, hg]), if_neg (by simp [ho])]

theorem taskAbortRow_ends (hr : (s.task i).st ≠ .running) (ho : (s.task i).owner = owner) :
    s.ended (taskAbortRow i gen owner s) i true ∧ (owner, .abort i gen true) ∈ (taskAbortRow i gen owner s).plt.answers := by
  have hend := s.taskEnd_ended i true
  rw [taskAbortRow_own hf hg ho, if_neg hr]
  refine ⟨State.ended_of_plt (by simp [State.answer]) (by simp [State.answer]) hend, ?_⟩
  simp [State.answer]

end abort

end Sys2Proof.Machine
end
section
/-! ### O48 -/

namespace Sys2Proof.Machine

variable {s : State}

/-- The state with the registers of the probe set. -/
def State.probed (s : State) (x a b c d : Word) : State :=
  ((((s.setReg Reg.PLT_TASK_SEL x).setReg (Reg.PLT_TASK_RES 0) a).setReg (Reg.PLT_TASK_RES 1) b).setReg (Reg.PLT_TASK_RES 2) c).setReg
    (Reg.PLT_TASK_RES 3) d

theorem State.probed_regs (s : State) (x a b c d : Word) : (s.probed x a b c d).plt = s.plt ∧
    (s.probed x a b c d).reg Reg.PLT_TASK_SEL = x ∧ (s.probed x a b c d).reg (Reg.PLT_TASK_RES 0) = a ∧
    (s.probed x a b c d).reg (Reg.PLT_TASK_RES 2) = c ∧ (s.probed x a b c d).reg (Reg.PLT_TASK_RES 3) = d := by
  refine ⟨rfl, ?_, ?_, ?_, ?_⟩ <;> simp [State.probed, State.reg_setReg]

/-- The probe sets the registers of the descriptor that it names (R411). -/
theorem taskProbeRow_spec (v : Word) (s : State) : (taskProbeRow v s).plt = s.plt ∧
    (taskProbeRow v s).reg Reg.PLT_TASK_SEL = BitVec.ofNat 32 (bitsOf v.toNat 0 12) ∧
    (taskProbeRow v s).reg (Reg.PLT_TASK_RES 0) = BitVec.ofNat 32 (2 ^ 31 + (s.task (bitsOf v.toNat 0 12)).st.code * 2 ^ 28 +
      (s.task (bitsOf v.toNat 0 12)).prio * 2 ^ 25 + (s.task (bitsOf v.toNat 0 12)).cls * 2 ^ 22 +
      (s.task (bitsOf v.toNat 0 12)).owner % 64 * 2 ^ 16 + (s.task (bitsOf v.toNat 0 12)).gen * 2 ^ 8) ∧
    (taskProbeRow v s).reg (Reg.PLT_TASK_RES 2) = BitVec.ofNat 32 (s.taskRemain (s.task (bitsOf v.toNat 0 12))) ∧
    (taskProbeRow v s).reg (Reg.PLT_TASK_RES 3) = BitVec.ofNat 32 (s.task (bitsOf v.toNat 0 12)).quayTag :=
  s.probed_regs _ _ _ _ _

/-- Settles O48: one lemma for each outcome of each command. -/
theorem tasksRun : Obligations.TasksRun := by
  unfold Obligations.TasksRun
  intro i gen owner cls j v r s t q full may mine onlyTask became ended runs
  refine ⟨fun h => ?_, fun x rest h => ?_, fun h => .of (State.submit_invalid h) rfl, fun h hf => .of (State.submit_fenced h hf) rfl,
    fun h hf ho => .of (State.submit_unleasable h hf ho) rfl, fun hm hf => ?_, fun hm hf hl => ?_, fun hm hf hj hfree hlow hq => ?_,
    fun h => ?_, fun e h hc hfind he hlast => ?_, fun x rest hc hi ht => ?_, fun e e' es x rest hc hi hp ht he => ?_,
    fun e x rest hc hi hp hs ht he => ?_, fun h => ⟨.of (taskWaitRow_idle h) rfl, .of (workCompleteRow_idle h) rfl⟩,
    fun h => ⟨_, rfl, taskWaitRow_waits h⟩, fun h hw => .of (workCompleteRow_working hw) rfl, fun h hw => ⟨_, rfl, workCompleteRow_ends h hw⟩,
    fun h => .of (waitEventRow_idle h) rfl, fun h => ⟨_, rfl, waitEventRow_ready h⟩, fun h => .of (waitTimeoutRow_idle h) rfl,
    fun h h0 => ⟨_, rfl, waitTimeoutRow_ready h h0⟩, fun h => .of (delayWakeRow_idle h) rfl, State.fireTime_none,
    fun w => State.fireTime_delivered, fun w => State.fireTime_passed, State.delayHead_iff, fun a b x y => State.delayBefore_iff,
    fun w hd hh hf => ⟨_, rfl, delayWakeRow_wakes hd hh hf⟩, fun w hd hh hf => ⟨_, rfl, delayWakeRow_late hd hh hf⟩,
    fun h => .of (taskAgingRow_idle h) rfl, fun h h5 => ⟨_, rfl, taskAgingRow_raises h h5⟩, fun h => .of (taskAbortRow_gone h) rfl,
    fun hf hg ho => .of (taskAbortRow_foreign hf hg ho) rfl, fun hr hg ho => ?_, fun hf hr hg ho => ⟨_, rfl, taskAbortRow_ends hf hg hr ho⟩,
    fun hR => ⟨_, .of (State.busWrite_reaches hR _) rfl, taskProbeRow_spec v s⟩⟩
  · exact .of (by rw [taskSubmitRow, h]) rfl
  · exact .of (by rw [taskSubmitRow, h]) rfl
  · refine ⟨_, .of (State.submit_full hm hf) rfl, ?_, s.waiting_submitHeld r, ?_, ?_, ?_⟩
    · simp [State.submitHeld, State.answer]
    · simp [State.submitHeld, State.answer]
    · simp [State.submitHeld, State.answer]
    · rw [State.submitHeld, State.getLsbD_reg_event]
      simp
  · exact .of (State.submit_noLease hm hf (State.taskLease_none hl)) rfl
  · obtain ⟨⟨o, n, htask⟩, hothers⟩ := s.task_submitTaken r j
    refine ⟨_, .of (State.submit_taken hm hf (State.taskLease_some hq hj hfree hlow)) rfl, s.answers_submitTaken r j, ?_⟩
    rw [htask]
    exact ⟨rfl, rfl, rfl, rfl, rfl, rfl, rfl, rfl, rfl, rfl, rfl, hothers⟩
  · rcases h with h | ⟨hi, ht⟩
    · exact .of (if_pos h) rfl
    · by_cases hc : cls < 6
      · exact .of (taskDispatchRow_nothing hc hi ht) rfl
      · exact .of (if_pos (by omega)) rfl
  · refine ⟨fun ht => ?_, fun x rest hs ht hp => ?_⟩
    · have hstart : s.startable e = [] ∨ ∃ x rest, s.startable e = x :: rest ∧ x.2.prio ≤ (s.task h).prio := by
        unfold State.startable
        split
        next hin => exact ht.imp_left fun hnone => hnone hin
        next => exact .inl rfl
      have htake := State.engineTake_resumes (State.nextTask_resumes hlast hstart)
      exact ⟨_, .of ((taskDispatchRow_holding hc hfind).trans (congrArg State.pilotResume htake)) rfl, s.resumeOn_runs h he⟩
    · have htake := State.engineTake_starts (State.nextTask_outranked hlast ((if_pos hs).trans ht) hp)
      exact ⟨_, .of ((taskDispatchRow_holding hc hfind).trans (congrArg State.pilotResume htake)) rfl, s.startOn_runs x.1 he⟩
  · refine ⟨fun h => .of (taskDispatchRow_waits hc hi ht h) rfl, fun e n h6 hv hrun hne he => ?_⟩
    obtain ⟨hpre, hothers⟩ := State.task_preempt hrun
    obtain ⟨hruns, honly⟩ := (s.preempt e).startOn_runs x.1 ((State.preempt_len hrun).symm ▸ he)
    refine ⟨_, .of (taskDispatchRow_preempts hc hi ht h6 hv) rfl, hruns, (honly n hne).trans hpre, ?_,
      fun k hkn hkx => (honly k hkx).trans (hothers k hkn)⟩
    rw [State.engine_pilotResume, State.engine_startOn _ _ ((State.preempt_len hrun).symm ▸ he)]
    exact ((State.switched_counted _ e 0x0F).preempted e).trans (State.preempted_preempt hrun he)
  · refine ⟨fun hno => ⟨_, .of (taskDispatchRow_lowest hc hi hp ht hno) rfl, s.startOn_runs x.1 he⟩, fun k hk haff hlen =>
      ⟨_, .of (taskDispatchRow_affine hc hi hp ht hk haff) rfl, s.startOn_runs x.1 hlen⟩⟩
  · have hst : s.startable e = x :: rest := (if_pos hs).trans ht
    refine ⟨fun h => ?_, fun y h4 hy hne => ?_⟩
    · have htake := State.engineTake_starts (State.nextTask_head hp hst h)
      exact ⟨_, .of ((taskDispatchRow_one hc hi hp).trans (congrArg State.pilotResume htake)) rfl, s.startOn_runs x.1 he⟩
    · have htake := State.engineTake_passes (State.nextTask_near hp hst h4 hy hne)
      set s1 := s.setTask x.1 { s.task x.1 with passed := (s.task x.1).passed + 1 }
      obtain ⟨hruns, honly⟩ := s1.startOn_runs y.1 (e := e) he
      refine ⟨_, .of ((taskDispatchRow_one hc hi hp).trans (congrArg State.pilotResume htake)) rfl, hruns, ?_, fun k hky hkx => ?_⟩
      · exact (honly x.1 hne.symm).trans (s.task_setTask_self _ _)
      · exact (honly k hky).trans (s.task_setTask_ne hkx _)
  · exact .of ((taskAbortRow_own (by rw [hr]; decide) hg ho).trans (if_pos hr)) rfl

end Sys2Proof.Machine
end

section
/-! SUPPORT. Power states (R448 to R451): what the counters' catching up leaves, the target, an entry's step, a wake and an exit's end. -/

namespace Sys2Proof.Machine

variable {s : State} {src c : Nat} {v : Word}

/-! ### The counters caught up -/

theorem State.sampleWrite_logb (s : State) (e i addr skid : Nat) : (s.sampleWrite e i addr skid).logb = s.logb := by
  unfold State.sampleWrite
  split
  · extract_lets n size b s1
    have h1 : s1.logb = s.logb := by simp [s1]
    split <;> simp [h1]
  · simp

theorem State.cntWrap_logb (s : State) (e i : Nat) (smp : Option SmpAt) : (s.cntWrap e i smp).logb = s.logb := by
  unfold State.cntWrap
  extract_lets s1
  split
  · split
    · split
      · rfl
      · exact State.sampleWrite_logb _ _ _ _ _
    · exact State.sampleWrite_logb _ _ _ _ _
  · rfl

theorem State.cntAdd_logb (s : State) (e i n : Nat) (smp : Option SmpAt) : (s.cntAdd e i n smp).logb = s.logb := by
  unfold State.cntAdd
  extract_lets x s1
  split
  · exact s1.cntWrap_logb e i smp
  · rfl

theorem State.cntSpan_logb (s : State) (e : Nat) (x : EngSpan) (smp : Option (Nat × SmpAt)) : (s.cntSpan e x smp).logb = s.logb := by
  unfold State.cntSpan
  refine List.foldlRecOn (motive := fun y : State => y.logb = s.logb) _ _ rfl fun y hy i _ => ?_
  split
  · exact (y.cntAdd_logb _ _ _ _).trans hy
  · exact hy

theorem State.engCatchUp_logb (s : State) (e : Nat) : (s.engCatchUp e).logb = s.logb := by
  unfold State.engCatchUp
  split
  · exact State.cntSpan_logb _ _ _ _
  · rfl

theorem State.catchUpAll_pwr (s : State) : s.catchUpAll.pwr = s.pwr :=
  List.foldlRecOn (motive := fun y : State => y.pwr = s.pwr) _ _ rfl fun y hy e _ => (y.engCatchUp_pwr e).trans hy

theorem State.catchUpAll_logb (s : State) : s.catchUpAll.logb = s.logb :=
  List.foldlRecOn (motive := fun y : State => y.logb = s.logb) _ _ rfl fun y hy e _ => (y.engCatchUp_logb e).trans hy

/-! ### The target (R449) -/

/-- The first of a descending list that meets a condition is no smaller than any other that does. -/
theorem le_find?_of_descending {l : List Nat} {f : Nat → Bool} (hl : l.Pairwise (· > ·)) (hc : c ∈ l) (hf : f c = true) :
    c ≤ (l.find? f).getD 0 := by
  induction l with
  | nil => exact absurd hc (by simp)
  | cons x l ih =>
    obtain ⟨hx, hl⟩ := List.pairwise_cons.mp hl
    rw [List.find?_cons]
    rcases List.mem_cons.mp hc with rfl | hc
    · simp [hf]
    · split
      · exact le_of_lt (hx c hc)
      · exact ih hl hc

/-- A state that is allowed and tolerated bounds the target from below. -/
theorem State.le_pwrTarget (ha : s.pwrAllows c = true) (hc : c ≤ 4) (hd : s.hif.pcie.d3hot = false) (ht : 0 < s.fld Reg.PWR_LTR 0 20)
    (hx : exitUs c ≤ s.fld Reg.PWR_LTR 0 20) : c ≤ s.pwrTarget := by
  unfold State.pwrTarget
  extract_lets tol
  rw [hd, if_neg Bool.false_ne_true, if_neg (by omega : ¬tol = 0)]
  rcases Nat.eq_zero_or_pos c with rfl | h0
  · exact Nat.zero_le _
  · exact le_find?_of_descending (by decide) (by simp; omega) (by simp [ha, hx, tol])

theorem State.pwrTarget_intolerant (ht : s.fld Reg.PWR_LTR 0 20 = 0) (hd : s.hif.pcie.d3hot = false) : s.pwrTarget = 0 := by
  unfold State.pwrTarget
  extract_lets tol
  rw [hd, if_neg Bool.false_ne_true, if_pos ht]

/-! ### A step of an entry, and the end of an exit -/

theorem pwrEntryStep_stays (h : (s.pwr.exiting = true ∧ s.pwr.state ≠ 0) ∨ (s.pwr.exiting = false ∧ s.pwrTarget ≤ s.pwr.state)) :
    pwrEntryStep s = s := by
  rcases h with ⟨hx, h0⟩ | ⟨hx, ht⟩
  · simp [pwrEntryStep, hx, h0]
  · simp [pwrEntryStep, hx, Nat.not_lt.mpr ht]

theorem pwrEntryStep_abandons (hx : s.pwr.exiting = true) (h0 : s.pwr.state = 0) :
    pwrEntryStep s = { s with pwr := { s.pwr with exiting := false } } := by
  simp [pwrEntryStep, hx, h0]

theorem pwrEntryStep_deeper (hx : s.pwr.exiting = false) (ht : s.pwr.state < s.pwrTarget) : pwrEntryStep s = s.pwrEnter (s.pwr.state + 1) := by
  simp [pwrEntryStep, hx, ht]

/-- The record of a power state. -/
def State.pwrRecord (s : State) (code : Nat) : LogRaise :=
  ⟨15, unitCode 23, 0, padTo 16 [BitVec.ofNat 8 code], s.dt, s.tb.dtState == .locked, none⟩

theorem State.pwrEnter_spec (s : State) (code : Nat) : (s.pwrEnter code).pwr = { s.pwr with state := code, exiting := false } ∧
    ((s.pwrEnter code).reg Reg.PWR_EVT).getLsbD 0 = true ∧ (s.pwrEnter code).logb.raised = s.logb.raised ++ [s.pwrRecord code] := by
  refine ⟨rfl, ?_, rfl⟩
  rw [State.pwrEnter, State.reg_logRaise, State.getLsbD_reg_event]
  simp

theorem powerStateExitDoneRow_idle (hx : s.pwr.exiting = false) : powerStateExitDoneRow s = s := by
  simp [powerStateExitDoneRow, hx]

theorem powerStateExitDoneRow_ends (hx : s.pwr.exiting = true) : powerStateExitDoneRow s =
    s.pwr.waiting.foldl State.performHeld { s.pwrEnter 0 with pwr := { s.pwr with state := 0, exiting := false, waiting := [] } } :=
  if_pos hx

/-! ### A wake (R450) -/

theorem State.wake_full (h : s.pwr.state = 0 ∧ s.pwrTarget = 0) (src : Nat) : s.wake src = s := if_pos h

theorem State.wake_begins (h : s.pwr.state ≠ 0 ∨ s.pwrTarget ≠ 0) (src : Nat) : s.wake src =
    (({ s with pwr := { s.pwr with exiting := true } }).setReg Reg.PWR_WAKE_SRC (BitVec.ofNat 32 src)).event Reg.PWR_EVT 1 :=
  if_neg fun ⟨h0, ht⟩ => h.elim (· h0) (· ht)

theorem pwrWakeRow_nothing (h : src = 0 ∨ 8 ≤ src ∨ (s.pwr.state = 0 ∧ s.pwrTarget = 0) ∨ (src = 6 ∧ s.hasCap = false) ∨
    (4 ≤ src ∧ src ≤ 7 ∧ s.bit Reg.PWR_WAKE_EN (src - 4) = false)) : pwrWakeRow src s = s := by
  unfold pwrWakeRow State.wakeIf
  split
  next => rfl
  next hcap =>
    split
    next hen =>
      split
      next hbit =>
        refine State.wake_full ?_ _
        rcases h with h | h | h | ⟨h, hc⟩ | ⟨-, -, hb⟩
        · omega
        · omega
        · exact h
        · exact absurd ⟨h, by simp [hc]⟩ hcap
        · exact absurd hbit (by simp [hb])
      next => rfl
    next hen =>
      split
      next hsrc =>
        refine State.wake_full ?_ _
        rcases h with h | h | h | ⟨h, -⟩ | ⟨h4, h7, -⟩
        · omega
        · omega
        · exact h
        · omega
        · omega
      next => rfl

theorem pwrWakeRow_wakes (h1 : 1 ≤ src) (h7 : src ≤ 7) (hc : src = 6 → s.hasCap = true)
    (he : 4 ≤ src → s.bit Reg.PWR_WAKE_EN (src - 4) = true) : pwrWakeRow src s = s.wake src := by
  unfold pwrWakeRow State.wakeIf
  rw [if_neg fun ⟨h6, hn⟩ => by simp [hc h6] at hn]
  split
  next h => rw [if_pos (he h.1), Nat.add_sub_cancel' h.1]
  next h => exact if_pos ⟨h1, by omega⟩

/-! ### The waiting accesses (R450) -/

/-- Each waiting access of the host is the access itself: a write, a read or a doorbell. -/
theorem State.performHeld_host (s : State) (n o : Nat) (x : Word) : s.performHeld ⟨false, o, some x, 63⟩ = s.bar0Write o x 63 ∧
    s.performHeld ⟨false, o, none, 63⟩ = s.bar0Read o 63 ∧ s.performHeld ⟨true, 8 * n, some x, 63⟩ = sqTailDoorbell n x s ∧
    s.performHeld ⟨true, 8 * n + 4, some x, 63⟩ = cqHeadDoorbell n x s := by
  have hd : ∀ o, s.performHeld ⟨true, o, some x, 63⟩ = s.doorbellTake (o / 8) (o % 8 == 4) x := fun _ => rfl
  refine ⟨rfl, rfl, ?_, ?_⟩
  · rw [hd, Nat.mul_div_cancel_left n (by omega), show 8 * n % 8 = 0 by omega]
    rfl
  · rw [hd, show (8 * n + 4) / 8 = n by omega, show (8 * n + 4) % 8 = 4 by omega]
    rfl

end Sys2Proof.Machine
end
section
/-! SUPPORT. The backup domain and the RTC (R523 to R531, R536). -/

namespace Sys2Proof.Machine

variable {s : State} {v : Word} {frac mv i : Nat}

/-! ### The domain's power-on reset -/

@[simp] theorem State.setDt_bkp (s : State) (st : DtSt) : (s.setDt st).bkp = s.bkp := by
  unfold State.setDt
  extract_lets old s1 s2 bad s3
  have h2 : s2.bkp = s.bkp := by
    unfold s2
    split <;> rfl
  have h3 : s3.bkp = s.bkp := by
    unfold s3
    split
    · exact h2
    · exact h2
  split
  · rfl
  · split
    · exact h3
    · exact h3

@[simp] theorem State.setDt_dtState (s : State) (st : DtSt) : (s.setDt st).tb.dtState = st := by
  unfold State.setDt
  extract_lets old s1 s2 bad s3
  have h2 : s2.tb.dtState = st := by
    unfold s2
    split <;> rfl
  have h3 : s3.tb.dtState = st := by
    unfold s3
    split
    · exact h2
    · exact h2
  split
  next h => exact h
  next =>
    split
    · exact h3
    · exact h3

theorem bkpPorReleaseRow_idle (h : s.bkp.por = false) : bkpPorReleaseRow s = s := by
  simp [bkpPorReleaseRow, h]

theorem bkpPorReleaseRow_clears (h : s.bkp.por = true) : (bkpPorReleaseRow s).tb.dtState = .freeRun ∧ (bkpPorReleaseRow s).tb.active = 6 ∧
    (bkpPorReleaseRow s).bkp = { ({} : Bkp) with onVbat := s.bkp.onVbat, backupLow := s.bkp.backupLow, vbat := s.bkp.vbat } := by
  rw [bkpPorReleaseRow, if_pos h]
  refine ⟨State.setDt_dtState _ _, rfl, (State.setDt_bkp _ _).trans ?_⟩
  rw [bkpPorRelease_bkp, if_pos h]

/-! ### The supplies -/

/-- The state with VBAT measured. -/
def State.vbatShown (s : State) (mv : Nat) : State :=
  { s with bkp := { s.bkp with vbat := min mv 4095, backupLow := decide (mv < 2200), lowSeen := s.bkp.lowSeen || decide (mv < 2200) } }

theorem vbatMeasure_eq (mv : Nat) (s : State) : vbatMeasure mv s =
    if mv < 2200 ∧ s.bkp.backupLow = false then (s.vbatShown mv).event Reg.RTC_EVT 2 else s.vbatShown mv := by
  unfold vbatMeasure
  by_cases h : mv < 2200 ∧ s.bkp.backupLow = false
  · rw [if_pos h, if_pos (by simp [h])]
    rfl
  · rw [if_neg h, if_neg (by simpa using h)]
    rfl

theorem vbatMeasure_quiet (h : mv < 2200 → s.bkp.backupLow = true) : vbatMeasure mv s = s.vbatShown mv := by
  rw [vbatMeasure_eq, if_neg fun ⟨hl, hb⟩ => by simp [h hl] at hb]

theorem vbatMeasure_onset (h : mv < 2200) (hb : s.bkp.backupLow = false) : vbatMeasure mv s = (s.vbatShown mv).event Reg.RTC_EVT 2 := by
  rw [vbatMeasure_eq, if_pos ⟨h, hb⟩]

theorem vbatMeasure_bkp (mv : Nat) (s : State) : (vbatMeasure mv s).bkp = (s.vbatShown mv).bkp := by
  rw [vbatMeasure_eq]
  split <;> rfl

/-- A measurement withdraws no event. -/
theorem vbatMeasure_evt (mv : Nat) (s : State) (h : (s.reg Reg.RTC_EVT).getLsbD 1 = true) :
    ((vbatMeasure mv s).reg Reg.RTC_EVT).getLsbD 1 = true := by
  rw [vbatMeasure_eq]
  split
  · rw [State.reg_event, if_pos rfl, BitVec.getLsbD_or]
    exact Bool.or_eq_true_iff.mpr (.inl h)
  · exact h

theorem bkpSwitchToVbat_idle (h : s.bkp.onVbat = true) : bkpSwitchToVbat frac mv s = s := if_pos h

theorem bkpSwitchToVbat_switches (h : s.bkp.onVbat = false) :
    ((bkpSwitchToVbat frac mv s).reg Reg.RTC_EVT).getLsbD 1 = true ∧
    (bkpSwitchToVbat frac mv s).bkp = { s.bkp.tick frac with
      onVbat := true, swoAt := (s.bkp.tick frac).rtc, switched := true, vbat := min mv 4095, backupLow := decide (mv < 2200)
      lowSeen := s.bkp.lowSeen || decide (mv < 2200) } := by
  rw [bkpSwitchToVbat, if_neg (by simp [h])]
  refine ⟨vbatMeasure_evt _ _ ?_, vbatMeasure_bkp _ _⟩
  rw [State.getLsbD_reg_event]
  simp

theorem bkpReturnToMain_idle (h : s.bkp.onVbat = false) : bkpReturnToMain frac s = s := by
  simp [bkpReturnToMain, h]

theorem bkpReturnToMain_returns (h : s.bkp.onVbat = true) : bkpReturnToMain frac s =
    ({ s with bkp := { s.bkp.tick frac with onVbat := false, retAt := (s.bkp.tick frac).rtc } } : State).event Reg.RTC_EVT 1 := if_pos h

/-! ### The shadows (R529) -/

theorem rtcShadowTimeout_idle (h : s.rtc.shadowFrozen = false) : rtcShadowTimeout s = s := by
  simp [rtcShadowTimeout, h]

theorem State.advance_bkp (s : State) (t : Nat) : (s.advance t).bkp = s.bkp ∧ (s.advance t).rtc = s.rtc := by
  unfold State.advance
  split
  · exact ⟨State.countBy_bkp _ _ _, State.countBy_rtc _ _ _⟩
  · exact ⟨rfl, rfl⟩

theorem State.shadowRelease_spec (s : State) : s.shadowRelease.rtc = { s.rtc with shadowFrozen := false, shadowRead := 0 } ∧
    (s.shadowRelease.reg Reg.RTC_EVT).getLsbD 3 = true ∧ s.shadowRelease.dt = s.dt ∧ s.shadowRelease.bkp = s.bkp := by
  refine ⟨rfl, ?_, rfl, rfl⟩
  rw [State.shadowRelease, State.getLsbD_reg_event]
  simp

theorem rtcShadowTimeout_releases (h : s.rtc.shadowFrozen = true) :
    (rtcShadowTimeout s).rtc = { s.rtc with shadowFrozen := false, shadowRead := 0 } ∧
    ((rtcShadowTimeout s).reg Reg.RTC_EVT).getLsbD 3 = true ∧ (rtcShadowTimeout s).dt = max s.dt (s.rtc.frozenAt + 2 * subPerMs) ∧
    (rtcShadowTimeout s).bkp = s.bkp := by
  rw [rtcShadowTimeout, if_pos h]
  generalize s.rtc.frozenAt + 2 * subPerMs = t
  obtain ⟨h1, h2, h3, h4⟩ := (s.advance t).shadowRelease_spec
  obtain ⟨hb, hr⟩ := s.advance_bkp t
  exact ⟨by rw [h1, hr], h2, h3.trans (s.advance_dt t), h4.trans hb⟩

/-- The shadows, frozen by this read when they were not. -/
def State.rtcFrozen (s : State) (frac : Nat) : Rtc :=
  if s.rtc.shadowFrozen then s.rtc
  else { s.rtc with shadow := (s.bkp.tick frac).rtc, shadowFrozen := true, shadowRead := 0, frozenAt := s.dt }

/-- The shadows with a register more read, released when all three are. -/
def Rtc.readMarked (r : Rtc) (i : Nat) : Rtc :=
  let m := r.shadowRead ||| BitVec.ofNat 3 (2 ^ i)
  if m = 7 then { r with shadowFrozen := false, shadowRead := 0 } else { r with shadowRead := m }

theorem rtcGroupRead_eq (hi : i < 3) : rtcGroupRead i frac s =
    { s with
      bkp := s.bkp.tick frac, rtc := (s.rtcFrozen frac).readMarked i
      rdata := BitVec.ofNat 32 (nth 0 [(s.rtcFrozen frac).shadow.frac, (s.rtcFrozen frac).shadow.sec % 2 ^ 32,
        (s.rtcFrozen frac).shadow.sec / 2 ^ 32] i) } := by
  match i, hi with
  | 0, _ => rfl
  | 1, _ => rfl
  | 2, _ => rfl

theorem Rtc.readMarked_eq (r : Rtc) (i : Nat) (h : r.shadowFrozen = true) : r.readMarked i = { r with
    shadowFrozen := decide (r.shadowRead ||| BitVec.ofNat 3 (2 ^ i) ≠ 7)
    shadowRead := if r.shadowRead ||| BitVec.ofNat 3 (2 ^ i) = 7 then 0 else r.shadowRead ||| BitVec.ofNat 3 (2 ^ i) } := by
  rw [Rtc.readMarked]
  generalize r.shadowRead ||| BitVec.ofNat 3 (2 ^ i) = m
  by_cases hm : m = 7
  · simp only [hm, if_true, ne_eq, not_true, decide_false]
  · simp only [hm, if_false, ne_eq, not_false_eq_true, decide_true]
    rw [← h]

theorem State.rtcFrozen_eq (s : State) (frac : Nat) : s.rtcFrozen frac = { s.rtc with
    shadow := if s.rtc.shadowFrozen then s.rtc.shadow else (s.bkp.tick frac).rtc
    shadowFrozen := true
    shadowRead := if s.rtc.shadowFrozen then s.rtc.shadowRead else 0
    frozenAt := if s.rtc.shadowFrozen then s.rtc.frozenAt else s.dt } := by
  unfold State.rtcFrozen
  cases h : s.rtc.shadowFrozen with
  | false => rfl
  | true =>
    simp only [if_true]
    rw [← h]

theorem rtcGroupRead_spec (hi : i < 3) : rtcGroupRead i frac s =
    let shadow := if s.rtc.shadowFrozen then s.rtc.shadow else (s.bkp.tick frac).rtc
    let seen := (if s.rtc.shadowFrozen then s.rtc.shadowRead else 0) ||| BitVec.ofNat 3 (2 ^ i)
    { s with
      bkp := s.bkp.tick frac, rdata := BitVec.ofNat 32 (nth 0 [shadow.frac, shadow.sec % 2 ^ 32, shadow.sec / 2 ^ 32] i),
      rtc := { s.rtc with
        shadow := shadow, shadowFrozen := decide (seen ≠ 7), shadowRead := if seen = 7 then 0 else seen,
        frozenAt := if s.rtc.shadowFrozen then s.rtc.frozenAt else s.dt } } := by
  rw [rtcGroupRead_eq hi, Rtc.readMarked_eq _ _ (by rw [State.rtcFrozen_eq]), State.rtcFrozen_eq]

/-! ### HALT, the setting and the roll-over (R530) -/

section halt

theorem rtcCtrlWrite_halts (h : v.getLsbD 0 = true) : rtcCtrlWrite v s = { s with bkp := { s.bkp with syncEn := v.getLsbD 1, halted := true } } :=
  if_pos h

theorem rtcCtrlWrite_runs (h : v.getLsbD 0 = false) (hb : s.bkp.halted = false) :
    rtcCtrlWrite v s = { s with bkp := { s.bkp with syncEn := v.getLsbD 1 } } := by
  rw [rtcCtrlWrite, if_neg (Bool.eq_false_iff.mp h)]
  exact if_neg (by simp [State.modBkp, hb])

theorem rtcCtrlWrite_releases (h : v.getLsbD 0 = false) (hb : s.bkp.halted = true) : rtcCtrlWrite v s =
    { s with
      bkp := { s.bkp with syncEn := v.getLsbD 1, halted := false, rtc := { s.bkp.rtc with sec := (s.bkp.rtc.sec + s.rtc.roll) % 2 ^ 48 } }
      rtc := { s.rtc with roll := 0, rollOvf := false } } := by
  rw [rtcCtrlWrite, if_neg (Bool.eq_false_iff.mp h)]
  exact if_pos hb

theorem rtcSetFracWrite_ignored (hb : s.bkp.halted = false) : rtcSetFracWrite v s = s := by
  simp [rtcSetFracWrite, hb]

theorem rtcSetFracWrite_loads (hb : s.bkp.halted = true) :
    (rtcSetFracWrite v s).bkp = { s.bkp with rtc := { s.bkp.rtc with frac := bitsOf v.toNat 0 15 } } ∧
    (rtcSetFracWrite v s).rtc = { s.rtc with roll := 0 } ∧ (rtcSetFracWrite v s).reg Reg.RTC_SET_FRAC = v &&& 0x7FFF := by
  rw [rtcSetFracWrite, if_pos hb]
  refine ⟨rfl, rfl, ?_⟩
  exact (State.reg_setReg s _ _ _).trans (if_pos rfl)

theorem rtcSetSecWrite_ignored (hb : s.bkp.halted = false) :
    rtcSetSecWrite v s = { s with hold := mapDel s.hold Reg.RTC_SET_SEC_LO } := by
  simp [rtcSetSecWrite, hb]

theorem rtcSetSecWrite_loads (hb : s.bkp.halted = true) : (rtcSetSecWrite v s).rtc = s.rtc ∧
    (rtcSetSecWrite v s).bkp = { s.bkp with rtc := { s.bkp.rtc with
      sec := ((mapFind s.hold Reg.RTC_SET_SEC_LO).getD (s.reg Reg.RTC_SET_SEC_LO)).toNat + 2 ^ 32 * bitsOf v.toNat 0 16 } } := by
  rw [rtcSetSecWrite, if_pos hb]
  exact ⟨rfl, rfl⟩

theorem rtcSecondRollover_runs (hb : s.bkp.halted = false) :
    rtcSecondRollover s = { s with bkp := { s.bkp with rtc := ⟨(s.bkp.rtc.sec + 1) % 2 ^ 48, 0⟩ } } :=
  if_neg (by simp [State.modBkp, hb])

theorem rtcSecondRollover_counts (hb : s.bkp.halted = true) (hr : s.rtc.roll < 255) : rtcSecondRollover s =
    { s with bkp := { s.bkp with rtc := ⟨s.bkp.rtc.sec, 0⟩ }, rtc := { s.rtc with roll := s.rtc.roll + 1 } } :=
  (if_pos hb).trans (if_pos hr)

theorem rtcSecondRollover_overflows (hb : s.bkp.halted = true) (hr : 255 ≤ s.rtc.roll) : rtcSecondRollover s =
    ({ s with bkp := { s.bkp with rtc := ⟨s.bkp.rtc.sec, 0⟩ }, rtc := { s.rtc with rollOvf := true } } : State).event Reg.RTC_EVT 4 :=
  (if_pos hb).trans (if_neg (by simpa [State.modBkp] using hr))

end halt

/-! ### The periodic wake (R531) -/

/-- The wake lies at a multiple of PERIOD, in 128ths of the fraction's count, at or after the present fraction and within the second. -/
theorem Bkp.wakeFrac_spec {b : Bkp} {f : Nat} (h : b.wakeFrac = some f) : b.wakePeriod ≠ 0 ∧ f % 128 = b.rtc.sec * 32768 % 128 ∧
    (b.rtc.sec * 32768 + f) / 128 % b.wakePeriod.toNat = 0 ∧ b.rtc.frac ≤ f ∧ f < 32768 := by
  unfold Bkp.wakeFrac at h
  extract_lets p m at h
  split at h
  next hm =>
    obtain ⟨hp, hlt⟩ := hm
    have hf : m * 128 - b.rtc.sec * 32768 = f := Option.some.inj h
    have hle : (b.rtc.sec * 32768 + b.rtc.frac + 127) / 128 ≤ m := by
      have := Nat.lt_div_mul_add (a := (b.rtc.sec * 32768 + b.rtc.frac + 127) / 128 + p - 1) hp
      simp only [m]
      omega
    have hmul : (b.rtc.sec * 32768 + f) / 128 = m := by omega
    refine ⟨fun h0 => ?_, by omega, ?_, by omega, by omega⟩
    · simp [p, h0] at hp
    · rw [hmul]
      exact Nat.mul_mod_left _ _
  next => simp at h

theorem rtcWakeFire_idle (h : s.bkp.wakePeriod = 0 ∨ s.bkp.halted = true ∨ s.bkp.wakeFrac = none) : rtcWakeFire s = s := by
  have hf : s.bkp.halted = true ∨ s.bkp.wakeFrac = none := by
    rcases h with h | h | h
    · exact .inr (by simp [Bkp.wakeFrac, h])
    · exact .inl h
    · exact .inr h
  unfold rtcWakeFire
  split
  next => rfl
  next hh => rw [hf.resolve_left hh]

/-- The state in which the RTC has reached its wake. -/
def State.rtcWoken (s : State) (f : Nat) : State := ({ s with bkp := s.bkp.tick f } : State).event Reg.RTC_EVT 0

theorem rtcWakeFire_fires {f : Nat} (hh : s.bkp.halted = false) (hf : s.bkp.wakeFrac = some f) :
    rtcWakeFire s = if s.bit Reg.PWR_WAKE_EN 0 then (s.rtcWoken f).wake 4 else s.rtcWoken f := by
  have he : rtcWakeFire s = (s.rtcWoken f).wakeIf 0 := by
    rw [rtcWakeFire, if_neg (by simp [hh]), hf]
    rfl
  have hb : (s.rtcWoken f).bit Reg.PWR_WAKE_EN 0 = s.bit Reg.PWR_WAKE_EN 0 := by
    unfold State.bit State.rtcWoken
    rw [State.reg_event]
    rfl
  rw [he, State.wakeIf, hb]

/-! ### The software reset (R536) -/

theorem rtcRstWrite_ignored {env : BootEnv} (h : v ≠ 0x5A5A0001) : rtcRstWrite v env s = s := if_neg h

theorem rtcRstWrite_resets {env : BootEnv} (h : v = 0x5A5A0001) : rtcRstWrite v env s = coreResetRow 4 env s := if_pos h

theorem coreResetRow_cause (cause : Nat) (env : BootEnv) (s : State) : (coreResetRow cause env s).rtc.cause = cause :=
  congrArg Rtc.cause (coreResetRow_booting cause env s).rtc

end Sys2Proof.Machine
end
section
/-! ### O57 -/

namespace Sys2Proof.Machine

theorem answers_rtcSecondRollover (s : State) : Answers .rtcSecondRollover s (rtcSecondRollover s) := rfl

/-- Settles O57: one lemma for each outcome of each command. -/
theorem powerBackupAndRtcRun : Obligations.PowerBackupAndRtcRun := by
  unfold Obligations.PowerBackupAndRtcRun
  intro src i mv frac v env s b now sc woken
  have hpwr : sc.pwr = s.pwr := s.catchUpAll_pwr
  have hlog : sc.logb = s.logb := s.catchUpAll_logb
  refine ⟨fun hR => .of (State.busWrite_reaches hR _) rfl, ⟨hpwr, hlog⟩, fun h => .of (pwrEntryStep_stays (s := sc) ?_) rfl,
    fun hx h0 => .of ((pwrEntryStep_abandons (s := sc) ?_ ?_).trans ?_) rfl, fun hx ht => ?_, fun c ha hc hd ht hx => State.le_pwrTarget ha hc hd ht hx,
    State.pwrTarget_intolerant, fun h => .of (pwrWakeRow_nothing h) rfl,
    fun h1 h7 hw hc he => .of ((pwrWakeRow_wakes h1 h7 hc he).trans (State.wake_begins hw src)) rfl,
    fun hx => .of (powerStateExitDoneRow_idle (s := sc) ?_) rfl, fun hx => ⟨rfl, .of ((powerStateExitDoneRow_ends (s := sc) ?_).trans ?_) rfl⟩,
    fun u n o x _ => u.performHeld_host n o x, fun h => .of (bkpSwitchToVbat_idle h) rfl, fun h => ⟨_, rfl, bkpSwitchToVbat_switches h⟩,
    fun h => .of (bkpReturnToMain_idle h) rfl, fun h => .of (bkpReturnToMain_returns h) rfl,
    ⟨fun h => .of (vbatMeasure_quiet h) rfl, fun h hb => .of (vbatMeasure_onset h hb) rfl⟩, rfl, fun h => .of (bkpPorReleaseRow_idle h) rfl,
    fun h => ?_, fun hi => .of (rtcGroupRead_spec hi) rfl, fun h => .of (rtcShadowTimeout_idle h) rfl,
    fun h => ⟨_, rfl, rtcShadowTimeout_releases h⟩, fun hR => ⟨fun h => ?_, fun h hb => ?_, fun h hb => ?_⟩,
    fun hR => ⟨fun hb => ?_, fun hb => ⟨_, .of (State.busWrite_reaches hR _) rfl, rtcSetFracWrite_loads hb⟩⟩,
    fun hR => ⟨fun hb => ?_, fun hb => ⟨_, .of (State.busWrite_reaches hR _) rfl, rtcSetSecWrite_loads hb⟩⟩,
    fun h => .of (rtcWakeFire_idle h) rfl, fun f hb hf => ⟨fun hw => ?_, fun hw => ?_⟩, fun f hf => Bkp.wakeFrac_spec hf,
    fun hR => ⟨fun h => ?_, fun h => ⟨?_, coreResetRow_cause 4 env s⟩⟩, fun hb => .of (rtcSecondRollover_runs hb) (answers_rtcSecondRollover s),
    fun hb hr => .of (rtcSecondRollover_counts hb hr) (answers_rtcSecondRollover s), fun hb hr => .of (rtcSecondRollover_overflows hb hr) (answers_rtcSecondRollover s)⟩
  · rwa [hpwr]
  · rwa [hpwr]
  · rwa [hpwr]
  · rw [hpwr]
  · obtain ⟨h1, h2, h3⟩ := sc.pwrEnter_spec (sc.pwr.state + 1)
    refine ⟨_, sc.pwrRecord (sc.pwr.state + 1), .of (pwrEntryStep_deeper (s := sc) (by rwa [hpwr]) (by rwa [hpwr])) rfl, ?_, h2, ?_, rfl, ?_⟩
    · rw [h1, hpwr]
    · rw [h3, hlog]
    · rw [State.pwrRecord, hpwr]
  · rwa [hpwr]
  · rwa [hpwr]
  · rw [hpwr]
  · obtain ⟨h1, h2, h3⟩ := bkpPorReleaseRow_clears h
    exact ⟨_, rfl, h1, h2, h3, by rw [h3], by rw [h3], by rw [h3], by rw [h3], by rw [h3], by rw [h3]⟩
  · exact .of ((State.busWrite_reaches hR _).trans (rtcCtrlWrite_halts h)) rfl
  · exact .of ((State.busWrite_reaches hR _).trans (rtcCtrlWrite_runs h hb)) rfl
  · exact .of ((State.busWrite_reaches hR _).trans (rtcCtrlWrite_releases h hb)) rfl
  · exact .of ((State.busWrite_reaches hR _).trans (rtcSetFracWrite_ignored hb)) rfl
  · exact .of ((State.busWrite_reaches hR _).trans (rtcSetSecWrite_ignored hb)) rfl
  · exact .of ((rtcWakeFire_fires hb hf).trans (if_neg (by simp [hw]))) rfl
  · exact .of ((rtcWakeFire_fires hb hf).trans (if_pos hw)) rfl
  · exact .of ((State.busWrite_reaches hR _).trans (rtcRstWrite_ignored h)) rfl
  · exact .of ((State.busWrite_reaches hR _).trans (rtcRstWrite_resets h)) rfl

end Sys2Proof.Machine
end

section
/-! SUPPORT. The key manifests (R511 to R514, R520). -/

namespace Sys2Proof.Machine

variable {s : State} {n mid i typ usage l : Nat} {m : Fetched} {b x data : List Byte} {k : KeySlot} {close : Bool}

/-! ### Parameters and material -/

/-- Bytes of a TYPE's material, by the table of R511. -/
def keyLen (typ : Nat) : Nat := nth 0 [0, 32, 32, 32, 64] typ

/-- TYPE and USAGE as R511 admits them. -/
def KeyShape (typ usage : Nat) : Prop := typ ≤ 4 ∧ usage &&& (0xFFFF - nth 0 [0, 1, 2, 4, 0x18] typ) = 0

/-- Material in the range of its TYPE (R511). -/
def KeySound (typ : Nat) (x : List Byte) : Prop := (typ = 3 → 1 ≤ beNat x ∧ beNat x < p256Order) ∧ (typ = 4 → onCurve x = true)

theorem materialLen_eq (h : typ ≤ 4) : materialLen typ = keyLen typ := by
  interval_cases typ <;> rfl

theorem usageMask_eq (h : typ ≤ 4) : usageMask typ = nth 0 [0, 1, 2, 4, 0x18] typ := by
  interval_cases typ <;> rfl

theorem keyParamsOk_iff : keyParamsOk typ usage l = true ↔ KeyShape typ usage ∧ l = keyLen typ := by
  unfold keyParamsOk KeyShape
  by_cases h : typ ≤ 4
  · simp [h, materialLen_eq h, usageMask_eq h]
  · simp [h]

theorem materialOk_iff : materialOk typ x = true ↔ KeySound typ x := by
  unfold materialOk KeySound
  split
  · simp
  · simp
  next h3 h4 => exact ⟨fun _ => ⟨fun h => absurd h h3, fun h => absurd h h4⟩, fun _ => rfl⟩

/-! ### A slot change starts (R512) -/

theorem State.leaseNow_key {s t : State} {pool n owner : Nat} (h : s.leaseNow pool n owner = some t) : t.key = s.key := by
  unfold State.leaseNow at h
  split at h
  · split at h
    · rw [← Option.some.inj h]
      rfl
    · simp at h
  · simp at h

/-- A slot change without a crypto context is BUSY; with one the sealed store is written first. -/
theorem answers_keyChange {c : Instr} {s1 : State} (h : Answers c s (s1.keyChange mid i k close)) :
    (s1.cryptoNow (unitCode 19) = none → Answers c s ((s1.count (Reg.KEY_CNT_LO 6)).finish0 mid stBusy)) ∧
    (∀ s2, s1.cryptoNow (unitCode 19) = some s2 → Answers c s { s2 with key := { s1.key with writing := some ⟨some mid, i, k, close⟩ } }) := by
  refine ⟨fun hn => .of ?_ h, fun s2 hs => .of ?_ h⟩
  · rw [State.keyChange, hn]
  · rw [State.keyChange, hs, ← State.leaseNow_key hs]

/-! ### KEY_WRITE -/

/-- What KEY_WRITE does once started. -/
def State.keyWriteWith (s : State) (mid : Nat) (b : List Byte) (buf : Option (List Byte)) : State :=
  let slot := bitsOf (byteAt b 20) 0 6
  let typ := bitsOf (byteAt b 21) 0 3
  if s.hw.root ≠ .present then s.finish0 mid stRefused
  else if !keyParamsOk typ (leAt b 22 2) (mBufLen b) then s.finish0 mid stInvalidParam
  else if 56 ≤ slot ∨ (s.hw.provClosed ∧ (s.keySlot slot).lock) then s.finish0 mid stRefused
  else withBuf s mid buf fun m =>
    let m := padTo (materialLen typ) m
    if materialOk typ m then s.keyChange mid slot (keyOf b m) false else s.finish0 mid stInvalidParam

theorem manKeyWrite_busy {buf : Option (List Byte)} (h : s.keyBusy = true) : manKeyWrite n buf s = s := if_pos h

theorem manKeyWrite_starts {buf : Option (List Byte)} (hb : s.keyBusy = false) (h : s.Starts n 0x00A0 m) :
    manKeyWrite n buf s = (s.start n m.mid).keyWriteWith m.mid m.bytes buf :=
  (if_neg (by simp [hb])).trans (State.runManifest_starts h _)

/-- A slot that a manifest may change: of the 56, and not locked once provisioning is closed. -/
def State.slotFree (s : State) (i : Nat) : Prop := i < 56 ∧ (s.hw.provClosed = true → (s.keySlot i).lock = false)

theorem State.slotFree_iff : s.slotFree i ↔ ¬(56 ≤ i ∨ (s.hw.provClosed ∧ (s.keySlot i).lock)) := by
  unfold State.slotFree
  rw [not_or, Nat.not_le, not_and, Bool.not_eq_true]

theorem State.keyWriteWith_rootless {buf : Option (List Byte)} (h : s.hw.root ≠ .present) : s.keyWriteWith mid b buf = s.finish0 mid stRefused :=
  if_pos h

section

variable {buf : Option (List Byte)}

/-- The parameters of a KEY_WRITE fit. -/
def WriteFits (b : List Byte) : Prop :=
  KeyShape (bitsOf (byteAt b 21) 0 3) (leAt b 22 2) ∧ mBufLen b = keyLen (bitsOf (byteAt b 21) 0 3)

theorem State.keyWriteWith_unfit (hr : s.hw.root = .present) (h : ¬WriteFits b) : s.keyWriteWith mid b buf = s.finish0 mid stInvalidParam := by
  rw [State.keyWriteWith, if_neg (not_not.mpr hr), if_pos]
  rw [Bool.not_eq_true', ← Bool.not_eq_true, keyParamsOk_iff]
  exact h

variable (hf : WriteFits b)
include hf

theorem State.keyWriteWith_fit (hr : s.hw.root = .present) : s.keyWriteWith mid b buf =
    if 56 ≤ bitsOf (byteAt b 20) 0 6 ∨ (s.hw.provClosed ∧ (s.keySlot (bitsOf (byteAt b 20) 0 6)).lock) then s.finish0 mid stRefused
    else withBuf s mid buf fun m =>
      if materialOk (bitsOf (byteAt b 21) 0 3) (padTo (keyLen (bitsOf (byteAt b 21) 0 3)) m) then
        s.keyChange mid (bitsOf (byteAt b 20) 0 6) (keyOf b (padTo (keyLen (bitsOf (byteAt b 21) 0 3)) m)) false
      else s.finish0 mid stInvalidParam := by
  have hp := keyParamsOk_iff.mpr hf
  rw [State.keyWriteWith, if_neg (not_not.mpr hr), if_neg (by simp [hp]), materialLen_eq hf.1.1]

theorem State.keyWriteWith_forbidden (h : ¬(s.hw.root = .present ∧ s.slotFree (bitsOf (byteAt b 20) 0 6))) :
    s.keyWriteWith mid b buf = s.finish0 mid stRefused := by
  by_cases hr : s.hw.root = .present
  · rw [State.keyWriteWith_fit hf hr]
    refine if_pos ?_
    rw [State.slotFree_iff, not_and_not_right] at h
    exact h hr
  · exact State.keyWriteWith_rootless hr

variable (hr : s.hw.root = .present) (hs : s.slotFree (bitsOf (byteAt b 20) 0 6))
include hr hs

theorem State.keyWriteWith_unread : s.keyWriteWith mid b none = s.finish0 mid stDmaError :=
  (State.keyWriteWith_fit hf hr).trans (if_neg (State.slotFree_iff.mp hs))

theorem State.keyWriteWith_read : s.keyWriteWith mid b (some data) =
    if materialOk (bitsOf (byteAt b 21) 0 3) (padTo (keyLen (bitsOf (byteAt b 21) 0 3)) data) then
      s.keyChange mid (bitsOf (byteAt b 20) 0 6) (keyOf b (padTo (keyLen (bitsOf (byteAt b 21) 0 3)) data)) false
    else s.finish0 mid stInvalidParam :=
  (State.keyWriteWith_fit hf hr).trans (if_neg (State.slotFree_iff.mp hs))

theorem State.keyWriteWith_unsound (h : ¬KeySound (bitsOf (byteAt b 21) 0 3) (padTo (keyLen (bitsOf (byteAt b 21) 0 3)) data)) :
    s.keyWriteWith mid b (some data) = s.finish0 mid stInvalidParam :=
  (State.keyWriteWith_read hf hr hs).trans (if_neg (mt materialOk_iff.mp h))

theorem State.keyWriteWith_sound (h : KeySound (bitsOf (byteAt b 21) 0 3) (padTo (keyLen (bitsOf (byteAt b 21) 0 3)) data)) :
    s.keyWriteWith mid b (some data) =
      s.keyChange mid (bitsOf (byteAt b 20) 0 6) (keyOf b (padTo (keyLen (bitsOf (byteAt b 21) 0 3)) data)) false :=
  (State.keyWriteWith_read hf hr hs).trans (if_pos (materialOk_iff.mpr h))

end

/-! ### KEY_REPLACE -/

/-- What KEY_REPLACE does with its buffer once its parameters fit. -/
def State.keyReplaceSigned (s : State) (mid : Nat) (b m : List Byte) : State :=
  let slot := bitsOf (byteAt b 20) 0 6
  let typ := bitsOf (byteAt b 21) 0 3
  let mat := padTo (materialLen typ) m
  if !materialOk typ mat then s.finish0 mid stInvalidParam
  else
    match s.key.nonce with
    | none => s.voidKeyNonce.finish0 mid stNonce
    | some nonce =>
      let s1 := s.voidKeyNonce
      if !s1.slotFits 0 4 4 then (s1.keyUseErr.event Reg.KEY_EVT 3).finish0 mid stAuthFail
      else
        let r := s1.requestVerify (.verifyReplace mid slot (keyOf b mat)) 0 (s1.replaceMsg slot (keyOf b mat) nonce)
          (slice m (materialLen typ) 64)
        if r.2 then r.1 else r.1.finish0 mid stBusy

/-- What KEY_REPLACE does once started. -/
def State.keyReplaceWith (s : State) (mid : Nat) (b : List Byte) (buf : Option (List Byte)) : State :=
  if s.hw.root ≠ .present then s.finish0 mid stRefused
  else if mBufLen b < 64 ∨ !keyParamsOk (bitsOf (byteAt b 21) 0 3) (leAt b 22 2) (mBufLen b - 64) then s.finish0 mid stInvalidParam
  else if 56 ≤ bitsOf (byteAt b 20) 0 6 then s.finish0 mid stRefused
  else withBuf s mid buf (s.keyReplaceSigned mid b)

theorem manKeyReplace_busy {buf : Option (List Byte)} (h : s.keyBusy = true) : manKeyReplace n buf s = s := if_pos h

theorem manKeyReplace_starts {buf : Option (List Byte)} (hb : s.keyBusy = false) (h : s.Starts n 0x00A1 m) :
    manKeyReplace n buf s = (s.start n m.mid).keyReplaceWith m.mid m.bytes buf :=
  (if_neg (by simp [hb])).trans (State.runManifest_starts h _)

section

variable {buf : Option (List Byte)}

theorem State.keyReplaceWith_rootless (h : s.hw.root ≠ .present) : s.keyReplaceWith mid b buf = s.finish0 mid stRefused := if_pos h

/-- The parameters of a KEY_REPLACE fit. -/
def ReplaceFits (b : List Byte) : Prop :=
  KeyShape (bitsOf (byteAt b 21) 0 3) (leAt b 22 2) ∧ 64 ≤ mBufLen b ∧ mBufLen b - 64 = keyLen (bitsOf (byteAt b 21) 0 3)

theorem replaceFits_iff : ReplaceFits b ↔
    ¬(mBufLen b < 64 ∨ !keyParamsOk (bitsOf (byteAt b 21) 0 3) (leAt b 22 2) (mBufLen b - 64)) := by
  rw [not_or, Nat.not_lt, Bool.not_eq_true, Bool.not_eq_false', keyParamsOk_iff]
  exact ⟨fun ⟨h1, h2, h3⟩ => ⟨h2, h1, h3⟩, fun ⟨h2, h1, h3⟩ => ⟨h1, h2, h3⟩⟩

theorem State.keyReplaceWith_unfit (hr : s.hw.root = .present) (h : ¬ReplaceFits b) :
    s.keyReplaceWith mid b buf = s.finish0 mid stInvalidParam :=
  (if_neg (not_not.mpr hr)).trans (if_pos (not_not.mp (mt replaceFits_iff.mpr h)))

variable (hf : ReplaceFits b)
include hf

theorem State.keyReplaceWith_fit (hr : s.hw.root = .present) : s.keyReplaceWith mid b buf =
    if 56 ≤ bitsOf (byteAt b 20) 0 6 then s.finish0 mid stRefused else withBuf s mid buf (s.keyReplaceSigned mid b) :=
  (if_neg (not_not.mpr hr)).trans (if_neg (replaceFits_iff.mp hf))

theorem State.keyReplaceWith_forbidden (h : ¬(s.hw.root = .present ∧ bitsOf (byteAt b 20) 0 6 < 56)) :
    s.keyReplaceWith mid b buf = s.finish0 mid stRefused := by
  by_cases hr : s.hw.root = .present
  · exact (State.keyReplaceWith_fit hf hr).trans (if_pos (Nat.not_lt.mp fun hs => h ⟨hr, hs⟩))
  · exact State.keyReplaceWith_rootless hr

variable (hr : s.hw.root = .present) (hs : bitsOf (byteAt b 20) 0 6 < 56)
include hr hs

theorem State.keyReplaceWith_unread : s.keyReplaceWith mid b none = s.finish0 mid stDmaError :=
  (State.keyReplaceWith_fit hf hr).trans (if_neg (Nat.not_le.mpr hs))

theorem State.keyReplaceWith_read : s.keyReplaceWith mid b (some data) = s.keyReplaceSigned mid b data :=
  (State.keyReplaceWith_fit hf hr).trans (if_neg (Nat.not_le.mpr hs))

end

section

variable (ht : bitsOf (byteAt b 21) 0 3 ≤ 4)
include ht

theorem State.keyReplaceSigned_unsound (h : ¬KeySound (bitsOf (byteAt b 21) 0 3) (padTo (keyLen (bitsOf (byteAt b 21) 0 3)) data)) :
    s.keyReplaceSigned mid b data = s.finish0 mid stInvalidParam := by
  rw [State.keyReplaceSigned]
  refine if_pos ?_
  rwa [Bool.not_eq_true', ← Bool.not_eq_true, materialOk_iff, materialLen_eq ht]

variable (hx : KeySound (bitsOf (byteAt b 21) 0 3) (padTo (keyLen (bitsOf (byteAt b 21) 0 3)) data))
include hx

theorem State.keyReplaceSigned_unnonced (hn : s.key.nonce = none) :
    s.keyReplaceSigned mid b data = s.voidKeyNonce.finish0 mid stNonce := by
  rw [← materialLen_eq ht, ← materialOk_iff] at hx
  rw [State.keyReplaceSigned, if_neg (by simp [hx]), hn]

theorem State.keyReplaceSigned_nonced {nonce : Nat} (hn : s.key.nonce = some nonce) : s.keyReplaceSigned mid b data =
    if !s.slotFits 0 4 4 then (s.voidKeyNonce.keyUseErr.event Reg.KEY_EVT 3).finish0 mid stAuthFail
    else
      let r := s.voidKeyNonce.requestVerify (.verifyReplace mid (bitsOf (byteAt b 20) 0 6) (keyOf b (padTo (keyLen (bitsOf (byteAt b 21) 0 3)) data))) 0
        (s.replaceMsg (bitsOf (byteAt b 20) 0 6) (keyOf b (padTo (keyLen (bitsOf (byteAt b 21) 0 3)) data)) nonce)
        (slice data (keyLen (bitsOf (byteAt b 21) 0 3)) 64)
      if r.2 then r.1 else r.1.finish0 mid stBusy := by
  rw [← materialOk_iff] at hx
  rw [State.keyReplaceSigned, materialLen_eq ht, if_neg (by simp [hx]), hn]
  rfl

end

/-! ### KEY_ERASE, KEY_PUBKEY and KEY_CLOSE -/

theorem manKeyErase_busy (h : s.keyBusy = true) : manKeyErase n s = s := if_pos h

section

variable (hb : s.keyBusy = false) (h : s.Starts n 0x00A2 m)
include hb h

theorem manKeyErase_starts : manKeyErase n s =
    if s.hw.root ≠ .present ∨ 56 ≤ bitsOf (byteAt m.bytes 20) 0 6 ∨
        (s.hw.provClosed ∧ (s.keySlot (bitsOf (byteAt m.bytes 20) 0 6)).lock) then (s.start n m.mid).finish0 m.mid stRefused
    else (s.start n m.mid).keyChange m.mid (bitsOf (byteAt m.bytes 20) 0 6) {} false :=
  (if_neg (by simp [hb])).trans (State.runManifest_starts h _)

theorem manKeyErase_refused (hn : ¬(s.hw.root = .present ∧ s.slotFree (bitsOf (byteAt m.bytes 20) 0 6))) :
    manKeyErase n s = (s.start n m.mid).finish0 m.mid stRefused := by
  refine (manKeyErase_starts hb h).trans (if_pos ?_)
  rw [State.slotFree_iff] at hn
  tauto

theorem manKeyErase_erases (hr : s.hw.root = .present) (hs : s.slotFree (bitsOf (byteAt m.bytes 20) 0 6)) :
    manKeyErase n s = (s.start n m.mid).keyChange m.mid (bitsOf (byteAt m.bytes 20) 0 6) {} false := by
  refine (manKeyErase_starts hb h).trans (if_neg ?_)
  rw [State.slotFree_iff] at hs
  tauto

end

/-- A public key given to the host (R520). -/
def State.givePub (s : State) (mid : Nat) (b pub : List Byte) (ok : Bool) : State :=
  if mBufLen b < 64 then s.finish0 mid stInvalidParam
  else if ok then (s.emit (.hostWrite (mBufAddr b) pub)).finish mid stDone 64 []
  else s.finish0 mid stDmaError

/-- The public key of a slot, or of the derived key of slot 56 or 57. -/
def State.pubOf (s : State) (i : Nat) : List Byte :=
  if i < 56 then (s.keySlot i).material else if i = 56 then s.key.meterPub else ecdsaPub (logSignKey s.hw.rootSecret)

/-- What KEY_PUBKEY does with slot i once started. -/
def State.keyPubWith (s : State) (i mid : Nat) (b : List Byte) (ok : Bool) : State :=
  if s.hw.root ≠ .present ∧ 56 ≤ i then s.finish0 mid stRefused
  else if i < 56 then (if (s.keySlot i).typ = 4 then s.givePub mid b (s.keySlot i).material ok else s.finish0 mid stInvalidParam)
  else if i = 56 ∨ i = 57 then
    if !s.key.derivedOk.contains i then s.finish0 mid stRefused
    else s.givePub mid b (if i = 56 then s.key.meterPub else ecdsaPub (logSignKey s.hw.rootSecret)) ok
  else s.finish0 mid stInvalidParam

theorem manKeyPubkey_starts {ok : Bool} (h : s.Starts n 0x00A3 m) :
    manKeyPubkey n ok s = (s.start n m.mid).keyPubWith (bitsOf (byteAt m.bytes 20) 0 6) m.mid m.bytes ok :=
  State.runManifest_starts h _

section

variable {ok : Bool}

/-- Whether a slot's public key can be told: an ECC_PUB slot, or a derived key that is ready. -/
def State.pubHeld (s : State) (i : Nat) : Prop :=
  (i < 56 ∧ (s.keySlot i).typ = 4) ∨ ((i = 56 ∨ i = 57) ∧ s.hw.root = .present ∧ s.key.derivedOk.contains i = true)

theorem State.keyPubWith_rootless (hi : 56 ≤ i) (hr : s.hw.root ≠ .present) : s.keyPubWith i mid b ok = s.finish0 mid stRefused :=
  if_pos ⟨hr, hi⟩

theorem State.keyPubWith_underived (hd : i = 56 ∨ i = 57) (hn : ¬s.pubHeld i) : s.keyPubWith i mid b ok = s.finish0 mid stRefused := by
  by_cases hr : s.hw.root = .present
  · have hc : ¬s.key.derivedOk.contains i = true := fun hc => hn (.inr ⟨hd, hr, hc⟩)
    rw [State.keyPubWith, if_neg (fun h => h.1 hr), if_neg (by omega), if_pos hd, if_pos (by simpa using hc)]
  · exact State.keyPubWith_rootless (by omega) hr

theorem State.keyPubWith_none (hd : ¬(i = 56 ∨ i = 57)) (hr : i < 56 ∨ s.hw.root = .present) (hn : ¬s.pubHeld i) :
    s.keyPubWith i mid b ok = s.finish0 mid stInvalidParam := by
  rw [State.keyPubWith, if_neg fun ⟨hnr, hi⟩ => hr.elim (Nat.not_lt.mpr hi) hnr]
  split
  next hi => exact if_neg fun ht => hn (.inl ⟨hi, ht⟩)
  next => rfl

theorem State.keyPubWith_held (hh : s.pubHeld i) : s.keyPubWith i mid b ok = s.givePub mid b (s.pubOf i) ok := by
  rcases hh with ⟨hi, ht⟩ | ⟨hd, hr, hc⟩
  · rw [State.keyPubWith, if_neg fun h => absurd h.2 (by omega), if_pos hi, if_pos ht, State.pubOf, if_pos hi]
  · have hi : ¬i < 56 := by omega
    rw [State.keyPubWith, if_neg (fun h => h.1 hr), if_neg hi, if_pos hd, if_neg (by simpa using hc), State.pubOf, if_neg hi]

theorem State.givePub_short {pub : List Byte} (hl : mBufLen b < 64) : s.givePub mid b pub ok = s.finish0 mid stInvalidParam := if_pos hl

theorem State.givePub_failed {pub : List Byte} (hl : 64 ≤ mBufLen b) : s.givePub mid b pub false = s.finish0 mid stDmaError :=
  if_neg (Nat.not_lt.mpr hl)

theorem State.givePub_done {pub : List Byte} (hl : 64 ≤ mBufLen b) :
    s.givePub mid b pub true = (s.emit (.hostWrite (mBufAddr b) pub)).finish mid stDone 64 [] := if_neg (Nat.not_lt.mpr hl)

end

theorem manKeyClose_busy (h : s.keyBusy = true) : manKeyClose n s = s := if_pos h

/-- What KEY_CLOSE does once started. -/
def State.keyCloseWith (s : State) (mid : Nat) (b : List Byte) : State :=
  if s.hw.root ≠ .present then s.finish0 mid stRefused
  else if leAt b 20 4 ≠ 0x434C4F53 then s.finish0 mid stInvalidParam
  else if s.hw.provClosed then s.finish0 mid stAlreadyDone
  else if !s.slotFits 0 4 4 then s.finish0 mid stRefused
  else s.keyChange mid 0 { s.keySlot 0 with lock := true } true

theorem manKeyClose_starts (hb : s.keyBusy = false) (h : s.Starts n 0x00A4 m) :
    manKeyClose n s = (s.start n m.mid).keyCloseWith m.mid m.bytes :=
  (if_neg (by simp [hb])).trans (State.runManifest_starts h _)

theorem State.keyCloseWith_rootless (hr : s.hw.root ≠ .present) : s.keyCloseWith mid b = s.finish0 mid stRefused := if_pos hr

section

variable (hr : s.hw.root = .present)
include hr

theorem State.keyCloseWith_wordless (hw : leAt b 20 4 ≠ 0x434C4F53) : s.keyCloseWith mid b = s.finish0 mid stInvalidParam :=
  (if_neg (not_not.mpr hr)).trans (if_pos hw)

variable (hw : leAt b 20 4 = 0x434C4F53)
include hw

theorem State.keyCloseWith_closed (hc : s.hw.provClosed = true) : s.keyCloseWith mid b = s.finish0 mid stAlreadyDone := by
  rw [State.keyCloseWith, if_neg (not_not.mpr hr), if_neg (not_not.mpr hw), if_pos hc]

variable (hc : s.hw.provClosed = false)
include hc

theorem State.keyCloseWith_unfit (hf : s.slotFits 0 4 4 = false) : s.keyCloseWith mid b = s.finish0 mid stRefused := by
  rw [State.keyCloseWith, if_neg (not_not.mpr hr), if_neg (not_not.mpr hw), if_neg (by simp [hc]), if_pos (by simp [hf])]

theorem State.keyCloseWith_closes (hf : s.slotFits 0 4 4 = true) :
    s.keyCloseWith mid b = s.keyChange mid 0 { s.keySlot 0 with lock := true } true := by
  rw [State.keyCloseWith, if_neg (not_not.mpr hr), if_neg (not_not.mpr hw), if_neg (by simp [hc]), if_neg (by simp [hf])]

end

end Sys2Proof.Machine
end
section
/-! SUPPORT. The sealed store's end, the nonce, a derivation's and an operation's end (R510, R512, R515 to R517). -/

namespace Sys2Proof.Machine

variable {s : State} {c slot : Nat} {ok : Bool}

/-! ### The sealed store is written (R512) -/

theorem keyStoreWriteDone_none (h : s.key.writing = none) : keyStoreWriteDone ok s = s := by
  rw [keyStoreWriteDone, h]

/-- The state in which a slot change has taken effect. -/
def State.slotChanged (s : State) (w : KeyWrite) : State :=
  let slots := mapPut (fun _ => ({} : KeySlot)) s.key.slots w.slot { w.new with gen := (s.keySlot w.slot).gen + 1 }
  (({ s with
      key := { s.key with writing := none, slots := slots }
      flash := { s.flash with keyStore := slots, keyStoreOk := true }
      hw := { s.hw with provClosed := s.hw.provClosed || w.close } } : State).event Reg.KEY_EVT 0).count (Reg.KEY_CNT_LO 5)

theorem State.slotChanged_key (s : State) (w : KeyWrite) : (s.slotChanged w).key = { s.key with
    writing := none
    slots := mapPut (fun _ => ({} : KeySlot)) s.key.slots w.slot { w.new with gen := (s.keySlot w.slot).gen + 1 } } :=
  State.count_key _ _

theorem State.slotChanged_flash (s : State) (w : KeyWrite) : (s.slotChanged w).flash.keyStore = (s.slotChanged w).key.slots := by
  rw [State.slotChanged_key]
  exact congrArg Flash.keyStore (State.count_flash _ _)

theorem State.slotChanged_hw (s : State) (w : KeyWrite) : (s.slotChanged w).hw = { s.hw with provClosed := s.hw.provClosed || w.close } :=
  State.count_hw _ _

theorem State.slotChanged_evt (s : State) (w : KeyWrite) : ((s.slotChanged w).reg Reg.KEY_EVT).getLsbD 0 = true := by
  unfold State.slotChanged
  extract_lets slots
  rw [State.reg_count_ne _ (by simp) (by simp)]
  exact State.getLsbD_reg_event _ _ (by omega)

theorem State.keySlot_slotChanged {w : KeyWrite} (h : w.slot < 56) :
    (s.slotChanged w).keySlot w.slot = { w.new with gen := (s.keySlot w.slot).gen + 1 } := by
  rw [State.keySlot, if_pos h, State.slotChanged_key]
  exact (mapGet_put _ _ _ _ _).trans (if_pos rfl)

theorem State.keySlot_slotChanged_ne {w : KeyWrite} {i : Nat} (h : i ≠ w.slot) : (s.slotChanged w).keySlot i = s.keySlot i := by
  unfold State.keySlot
  rw [State.slotChanged_key]
  by_cases hi : i < 56
  · rw [if_pos hi, if_pos hi]
    exact (mapGet_put _ _ _ _ _).trans (if_neg h.symm)
  · rw [if_neg hi, if_neg hi]

theorem keyStoreWriteDone_done {w : KeyWrite} (h : s.key.writing = some w) (hw : w.slot < 56) : keyStoreWriteDone true s =
    (s.slotChanged w).finishOpt w.mid stDone (if w.close then 0 else ((s.slotChanged w).keySlot w.slot).gen.toNat) [] := by
  rw [State.keySlot_slotChanged hw, keyStoreWriteDone, h]
  rfl

theorem keyStoreWriteDone_failed {w : KeyWrite} (h : s.key.writing = some w) : keyStoreWriteDone false s =
    ({ s with key := { s.key with writing := none } } : State).flashFail.finishOpt w.mid stFlashError 0 [] := by
  rw [keyStoreWriteDone, h]
  rfl

/-! ### The nonce (R515) -/

theorem keyNonceRead_failed (h : s.key.trngFail = true) : keyNonceRead s =
    { s with key := { s.key with nonce := none }, rdata := 0, latch := mapSet s.latch Reg.KEY_NONCE_HI 0 } := if_pos h

theorem keyNonceRead_draws (h : s.key.trngFail = false) : keyNonceRead s = { s.freshNext with
    key := { s.key with nonce := some s.drawNonce, nonceRecSeq := s.mtr.point.map fun p => p.keep.recSeq }
    rdata := BitVec.ofNat 32 s.drawNonce
    latch := mapSet s.latch Reg.KEY_NONCE_HI (BitVec.ofNat 32 (s.drawNonce / 2 ^ 32)) } := if_neg (by simp [h])

theorem State.drawNonce_lt (s : State) : s.drawNonce < 2 ^ 64 := Nat.mod_lt _ (by decide)

/-! ### A derivation is done (R510) -/

theorem keyDeriveDone_idle (h : s.key.deriving_.contains slot = false) : keyDeriveDone slot s = s :=
  if_pos (by rw [h]; rfl)

/-- The key store with a derived key ready. -/
def Key.derived (k : Key) (slot : Nat) : Key :=
  { k with
    deriving_ := k.deriving_.filter (· != slot)
    derivedOk := if k.derivedOk.contains slot then k.derivedOk else k.derivedOk ++ [slot] }

theorem Key.derived_ready (k : Key) (slot : Nat) :
    (k.derived slot).derivedOk.contains slot = true ∧ (k.derived slot).deriving_.contains slot = false := by
  refine ⟨?_, ?_⟩
  · show (if k.derivedOk.contains slot then k.derivedOk else k.derivedOk ++ [slot]).contains slot = true
    split
    next h => exact h
    next => simp
  · simp [Key.derived]

theorem keyDeriveDone_other (h : s.key.deriving_.contains slot = true) (hs : slot ≠ 56) :
    keyDeriveDone slot s = ({ s with key := s.key.derived slot } : State).count (Reg.KEY_CNT_LO 4) := by
  rw [keyDeriveDone, if_neg (by simpa using h), if_neg hs]
  rfl

/-- The key store with METER_SIGN ready: signatures that waited for it take it. -/
def Key.meterReady (k : Key) (meas key : List Byte) : Key :=
  { k.derived 56 with
    meterMeas := meas
    meterPub := ecdsaPub key
    ops := k.ops.map fun o => if o.slot = 56 ∧ o.key = [] then { o with key := key } else o }

theorem keyDeriveDone_meter (h : s.key.deriving_.contains 56 = true) : keyDeriveDone 56 s =
    let s1 := ({ s with key := s.key.meterReady s.meterMeas (meterSignKey s.hw.rootSecret s.meterMeas) } : State).count (Reg.KEY_CNT_LO 4)
    if s.key.meterPub ≠ [] ∧ s.key.meterPub ≠ ecdsaPub (meterSignKey s.hw.rootSecret s.meterMeas) then s1.event Reg.KEY_EVT 1 else s1 := by
  rw [keyDeriveDone, if_neg (by simpa using h), if_pos rfl]
  rfl

theorem keyDeriveDone_meter_key (h : s.key.deriving_.contains 56 = true) :
    (keyDeriveDone 56 s).key = s.key.meterReady s.meterMeas (meterSignKey s.hw.rootSecret s.meterMeas) := by
  rw [keyDeriveDone_meter h]
  extract_lets s1
  have h1 : s1.key = s.key.meterReady s.meterMeas (meterSignKey s.hw.rootSecret s.meterMeas) := State.count_key _ _
  split
  · exact h1
  · exact h1

/-- A METER_SIGN other than the one before is told. -/
theorem keyDeriveDone_meter_evt (h : s.key.deriving_.contains 56 = true) (hp : s.key.meterPub ≠ [])
    (hne : s.key.meterPub ≠ ecdsaPub (meterSignKey s.hw.rootSecret s.meterMeas)) :
    ((keyDeriveDone 56 s).reg Reg.KEY_EVT).getLsbD 1 = true := by
  rw [keyDeriveDone_meter h]
  extract_lets s1
  rw [if_pos ⟨hp, hne⟩]
  exact State.getLsbD_reg_event _ _ (by omega)

/-! ### An operation ends (R516, R517) -/

theorem cryptoOpDoneRow_none (h : s.cryptoOp c = none) : cryptoOpDoneRow c s = s := by
  rw [cryptoOpDoneRow, h]

theorem cryptoOpDoneRow_waits {o : CryptoOp} (h : s.cryptoOp c = some o) (hw : o.key = [] ∧ o.slot = 56) : cryptoOpDoneRow c s = s := by
  rw [cryptoOpDoneRow, h]
  exact if_pos (by simpa using hw)

theorem State.cryptoOp_cryptoFree (s : State) (c : Nat) : (s.cryptoFree c).cryptoOp c = none := by
  show (s.key.ops.filter fun o => o.ctx != c).find? (fun o => o.ctx == c) = none
  rw [List.find?_eq_none]
  intro o ho
  simpa using (List.mem_filter.mp ho).2

/-- What an operation's end does for the use it was requested for. -/
def State.cryptoServe (s : State) (o : CryptoOp) : CryptoUse → State
  | .signRecord m body => s.signRecordDone o m body
  | .signCheckpoint _ => s.signCheckpointDone o
  | .verifyLogClear mid last => s.verifyClearDone o mid last
  | .verifyMtrReset mid point => s.verifyResetDone o mid point
  | .verifyReplace mid slot new => s.verifyReplaceDone o mid slot new
  | .verifyUnlock level => s.verifyUnlockDone o level

theorem cryptoOpDoneRow_serves {o : CryptoOp} (h : s.cryptoOp c = some o) (hw : ¬(o.key = [] ∧ o.slot = 56)) :
    cryptoOpDoneRow c s = (s.cryptoFree c).cryptoServe o o.use := by
  rw [cryptoOpDoneRow, h]
  refine (if_neg (by simpa using hw)).trans ?_
  cases o.use <;> rfl

section verify

variable {o : CryptoOp} {mid p i lev last : Nat} {k : KeySlot}

/-- A verification counted as passed. -/
abbrev State.verifyPassed (s : State) : State := s.count (Reg.KEY_CNT_LO 1)

/-- A verification counted as failed. -/
abbrev State.verifyFailed (s : State) : State := ((s.count (Reg.KEY_CNT_LO 1)).count (Reg.KEY_CNT_LO 2)).event Reg.KEY_EVT 3

theorem State.verifyUnlockDone_stale (h : s.dbg.unlockReq ≠ some lev) : s.verifyUnlockDone o lev = s.verifyCount o.verified := by
  refine if_neg ?_
  unfold State.verifyCount
  split <;> simpa using h

theorem State.verifyUnlockDone_asked (h : s.dbg.unlockReq = some lev) :
    s.verifyUnlockDone o lev = (s.verifyCount o.verified).unlockEnd lev (if o.verified then 0 else 2) := by
  refine if_pos ?_
  unfold State.verifyCount
  split <;> simpa using h

section good

variable (hg : o.verified = true)
include hg

theorem State.verifyCount_good : s.verifyCount o.verified = s.verifyPassed := by
  rw [hg]
  rfl

theorem State.verifyClearDone_good : s.verifyClearDone o mid last = s.verifyPassed.logClearNow mid last := by
  rw [State.verifyClearDone, if_pos hg, State.verifyCount_good hg]

theorem State.verifyResetDone_good :
    s.verifyResetDone o mid p = (s.verifyPassed.modPoint p fun x => { x with resetReq := true }).finish0 mid stDone := by
  rw [State.verifyResetDone, if_pos hg, State.verifyCount_good hg]

theorem State.verifyReplaceDone_good : s.verifyReplaceDone o mid i k = s.verifyPassed.keyChange mid i k false := by
  rw [State.verifyReplaceDone, if_pos hg, State.verifyCount_good hg]

theorem State.verifyUnlockDone_good (h : s.dbg.unlockReq = some lev) : s.verifyUnlockDone o lev = s.verifyPassed.unlockEnd lev 0 := by
  rw [State.verifyUnlockDone_asked h, if_pos hg, State.verifyCount_good hg]

end good

section bad

variable (hg : ¬o.verified = true)
include hg

theorem State.verifyCount_bad : s.verifyCount o.verified = s.verifyFailed := by
  rw [Bool.eq_false_iff.mpr hg]
  rfl

theorem State.verifyClearDone_bad : s.verifyClearDone o mid last = s.verifyFailed.logClearRefuse mid 1 stAuthFail := by
  rw [State.verifyClearDone, if_neg hg, State.verifyCount_bad hg]

theorem State.verifyResetDone_bad : s.verifyResetDone o mid p = s.verifyFailed.finish0 mid stAuthFail := by
  rw [State.verifyResetDone, if_neg hg, State.verifyCount_bad hg]

theorem State.verifyReplaceDone_bad : s.verifyReplaceDone o mid i k = s.verifyFailed.finish0 mid stAuthFail := by
  rw [State.verifyReplaceDone, if_neg hg, State.verifyCount_bad hg]

theorem State.verifyUnlockDone_bad (h : s.dbg.unlockReq = some lev) : s.verifyUnlockDone o lev = s.verifyFailed.unlockEnd lev 2 := by
  rw [State.verifyUnlockDone_asked h, if_neg hg, State.verifyCount_bad hg]

end bad

end verify

end Sys2Proof.Machine
end
section
/-! ### O53 -/

namespace Sys2Proof.Machine

/-- A little-endian number of two bytes fits in 16 bits. -/
theorem leAt_two_lt (b : List Byte) (off : Nat) : leAt b off 2 < 2 ^ 16 := by
  have hlen : (slice b off 2).length ≤ 2 := List.length_take_le _ _
  rw [leAt]
  match slice b off 2, hlen with
  | [], _ => decide
  | [x], _ =>
    simp only [leNat]
    omega
  | [x, y], _ =>
    simp only [leNat]
    omega

/-- The message that a KEY_REPLACE signature covers, in the manifest's own bytes (R514). -/
theorem State.replaceMsg_eq (s : State) (b x : List Byte) (i nonce : Nat) : s.replaceMsg i (keyOf b x) nonce =
    ascii "FNKEYREP" ++ s.deviceId ++ leBytes 1 i ++ leBytes 1 (bitsOf (byteAt b 21) 0 3) ++ leBytes 2 (leAt b 22 2) ++
      leBytes 1 (b2n (bitOf (byteAt b 24) 0)) ++ leBytes 8 nonce ++ sha256 x := by
  have hu : (BitVec.ofNat 16 (leAt b 22 2)).toNat = leAt b 22 2 := by
    rw [BitVec.toNat_ofNat, Nat.mod_eq_of_lt (leAt_two_lt b 22)]
  rw [State.replaceMsg, keyOf, hu]

/-- Settles O53: one lemma for each outcome of each command. -/
theorem keyStoreRuns : Obligations.KeyStoreRuns := by
  unfold Obligations.KeyStoreRuns
  intro n c slot ok data buf s b0 typ usage len shape sound root starts changes carried ends
  refine ⟨fun h => ⟨.of (manKeyWrite_busy h) rfl, .of (manKeyReplace_busy h) rfl, .of (manKeyErase_busy h) rfl, .of (manKeyClose_busy h) rfl⟩,
    fun m hb h => ?_, fun m hb h => ?_, fun m hb h => ?_, fun m h => ?_, fun m hb h => ?_,
    fun h => .of (keyStoreWriteDone_none h) rfl,
    fun w hw hs => ⟨⟨s.slotChanged w, .of (keyStoreWriteDone_done hw hs) rfl, State.keySlot_slotChanged hs,
      fun i => State.keySlot_slotChanged_ne, ?_, s.slotChanged_flash w, s.slotChanged_hw w, s.slotChanged_evt w⟩,
      .of (keyStoreWriteDone_failed hw) rfl⟩,
    fun hR => ?_, fun h => .of (keyDeriveDone_idle h) rfl, fun h => ?_, fun h => ?_, fun o ho hk => ?_⟩
  · intro may good x
    have e (buf) := manKeyWrite_starts (buf := buf) hb h
    refine ⟨fun hr => .of ((e _).trans (State.keyWriteWith_rootless hr)) rfl, fun hr hg => .of ((e _).trans (State.keyWriteWith_unfit hr hg)) rfl,
      fun hg hm => .of ((e _).trans (State.keyWriteWith_forbidden hg hm)) rfl,
      fun hg hm => .of ((e _).trans (State.keyWriteWith_unread hg hm.1 hm.2)) rfl,
      fun hg hm hx => .of ((e _).trans (State.keyWriteWith_unsound hg hm.1 hm.2 hx)) rfl,
      fun hg hm hx => answers_keyChange (.of ((e _).trans (State.keyWriteWith_sound hg hm.1 hm.2 hx)) rfl)⟩
  · intro may good x s1
    have e (buf) := manKeyReplace_starts (buf := buf) hb h
    refine ⟨fun hr => .of ((e _).trans (State.keyReplaceWith_rootless hr)) rfl,
      fun hr hg => .of ((e _).trans (State.keyReplaceWith_unfit hr hg)) rfl, fun hg hm => .of ((e _).trans (State.keyReplaceWith_forbidden hg hm)) rfl,
      fun hg hm => .of ((e _).trans (State.keyReplaceWith_unread hg hm.1 hm.2)) rfl,
      fun hg hm hx => .of (((e _).trans (State.keyReplaceWith_read hg hm.1 hm.2)).trans (State.keyReplaceSigned_unsound hg.1.1 hx)) rfl,
      fun hg hm hx hn => .of (((e _).trans (State.keyReplaceWith_read hg hm.1 hm.2)).trans (State.keyReplaceSigned_unnonced hg.1.1 hx hn)) rfl,
      fun nonce hg hm hx hn => ?_⟩
    have e1 := ((e _).trans (State.keyReplaceWith_read hg hm.1 hm.2)).trans (State.keyReplaceSigned_nonced hg.1.1 hx hn)
    rw [State.replaceMsg_eq] at e1
    refine ⟨fun hf => .of (e1.trans (if_pos (congrArg not hf))) rfl, fun hf => ?_⟩
    have e2 := e1.trans (if_neg (Bool.eq_false_iff.mp (congrArg not hf)))
    exact ⟨fun hr => .of (e2.trans (if_pos hr)) rfl, fun hr => .of (e2.trans (if_neg (Bool.eq_false_iff.mp hr))) rfl⟩
  · intro may
    exact ⟨fun hm => .of (manKeyErase_refused hb h hm) rfl, fun hm => answers_keyChange (.of (manKeyErase_erases hb h hm.1 hm.2) rfl)⟩
  · intro derived pub held
    have e (ok) := manKeyPubkey_starts (ok := ok) h
    have gives (ok) (hh : held) := (e ok).trans (State.keyPubWith_held hh)
    exact ⟨fun hi hr => .of ((e _).trans (State.keyPubWith_rootless hi hr)) rfl,
      fun hd hn => .of ((e _).trans (State.keyPubWith_underived hd hn)) rfl,
      fun hd hr hn => .of ((e _).trans (State.keyPubWith_none hd hr hn)) rfl, fun hh hl => .of ((gives _ hh).trans (State.givePub_short hl)) rfl,
      fun hh hl => .of ((gives _ hh).trans (State.givePub_failed hl)) rfl, fun hh hl => .of ((gives _ hh).trans (State.givePub_done hl)) rfl⟩
  · intro word
    have e := manKeyClose_starts hb h
    refine ⟨fun hr => .of (e.trans (State.keyCloseWith_rootless hr)) rfl, fun hr hw => .of (e.trans (State.keyCloseWith_wordless hr hw)) rfl,
      fun hw hr hc => .of (e.trans (State.keyCloseWith_closed hr hw hc)) rfl,
      fun hw hr hc hf => .of (e.trans (State.keyCloseWith_unfit hr hw hc hf)) rfl,
      fun hw hr hc hf => answers_keyChange (.of (e.trans (State.keyCloseWith_closes hr hw hc hf)) rfl)⟩
  · rw [State.slotChanged_key]
  · have e := State.busRead_readable (m := 63) hR keyNonceRead
    refine ⟨fun hf => .of (e.trans (keyNonceRead_failed hf)) rfl, fun hf => ?_⟩
    refine ⟨_, s.drawNonce, .of (e.trans (keyNonceRead_draws hf)) rfl, rfl, s.drawNonce_lt, rfl, ?_, rfl, rfl, rfl⟩
    exact (mapFind_mapSet _ _ _ _).trans (if_pos rfl)
  · by_cases hs : slot = 56
    · subst hs
      have hk := keyDeriveDone_meter_key h
      obtain ⟨hready, hderiving⟩ := s.key.derived_ready 56
      refine ⟨_, rfl, ?_, ?_, ?_, fun hne => absurd rfl hne, fun _ => ⟨?_, fun hp hne => keyDeriveDone_meter_evt h hp ?_⟩⟩
      · rw [hk]
        exact hready
      · rw [hk]
        exact hderiving
      · rw [hk]
        rfl
      · rw [hk]
        rfl
      · rw [hk] at hne
        exact hne
    · obtain ⟨hready, hderiving⟩ := s.key.derived_ready slot
      refine ⟨_, .of (keyDeriveDone_other h hs) rfl, ?_⟩
      rw [State.count_key]
      exact ⟨hready, hderiving, rfl, fun _ => rfl, fun h56 => absurd h56 hs⟩
  · cases ho : s.cryptoOp c with
    | none => exact .of (cryptoOpDoneRow_none ho) rfl
    | some o => exact .of (cryptoOpDoneRow_waits ho (h o ho)) rfl
  · intro s1 good passed failed
    have e : cryptoOpDoneRow c s = s1.cryptoServe o o.use := cryptoOpDoneRow_serves ho hk
    refine ⟨s.cryptoOp_cryptoFree c, fun p body hu => ?_, fun chain hu => ?_, fun mid last hu => ?_, fun mid p hu => ?_, fun mid i k hu => ?_,
      fun lev hu => ?_⟩
    all_goals rw [hu] at e
    · exact .of e rfl
    · exact .of e rfl
    · exact ⟨fun hg => .of (e.trans (State.verifyClearDone_good hg)) rfl, fun hg => .of (e.trans (State.verifyClearDone_bad hg)) rfl⟩
    · exact ⟨fun hg => .of (e.trans (State.verifyResetDone_good hg)) rfl, fun hg => .of (e.trans (State.verifyResetDone_bad hg)) rfl⟩
    · exact ⟨fun hg => answers_keyChange (.of (e.trans (State.verifyReplaceDone_good hg)) rfl),
        fun hg => .of (e.trans (State.verifyReplaceDone_bad hg)) rfl⟩
    · exact ⟨fun hs hg => .of (e.trans ((State.verifyUnlockDone_stale (s := s1) hs).trans (State.verifyCount_good hg))) rfl,
        fun hs hg => .of (e.trans ((State.verifyUnlockDone_stale (s := s1) hs).trans (State.verifyCount_bad hg))) rfl,
        fun hs hg => .of (e.trans (State.verifyUnlockDone_good (s := s1) hg hs)) rfl,
        fun hs hg => .of (e.trans (State.verifyUnlockDone_bad (s := s1) hg hs)) rfl⟩

end Sys2Proof.Machine
end

section
/-! SUPPORT. Configuration sets (R437 to R440): what their layout depends on, and the build manifests. -/

namespace Sys2Proof.Machine

variable {s t : State} {n mid typ tab : Nat} {m : Fetched} {b data : List Byte}

/-! ### The layout of a set depends on the hardware alone -/

section layout

variable (h : t.hw = s.hw)
include h

theorem State.sectionPresent_of_hw (typ : Nat) : t.sectionPresent typ = s.sectionPresent typ := by
  have hcap : t.idCap = s.idCap := by rw [State.idCap, State.idCap, h]
  unfold State.sectionPresent State.hasFe State.hasMtr
  rw [hcap]

theorem State.berthHeld_of_hw (typ tab off : Nat) : t.berthHeld typ tab off = s.berthHeld typ tab off := by
  have hb : t.berthCount = s.berthCount := by rw [State.berthCount, State.berthCount, h]
  unfold State.berthHeld
  rw [hb]

theorem State.cfgPutBytes_of_hw (typ tab : Nat) (set : CfgSet) (off : Nat) (bs : List Byte) :
    State.cfgPutBytes t typ tab set off bs = State.cfgPutBytes s typ tab set off bs := by
  induction bs generalizing set off with
  | nil => rfl
  | cons b bs ih => rw [State.cfgPutBytes, State.cfgPutBytes, State.berthHeld_of_hw h, ih]

theorem State.putRecords_of_hw (typ fuel : Nat) (set : CfgSet) (body : List Byte) :
    t.putRecords typ fuel set body = s.putRecords typ fuel set body := by
  induction fuel generalizing set body with
  | zero => cases body <;> rfl
  | succ fuel ih =>
    cases body with
    | nil => rfl
    | cons b bs => simp only [State.putRecords, State.cfgPutBytes_of_hw h, ih]

theorem State.putSections_of_hw (secs : List (Nat × List Byte)) (set : CfgSet) (k : Nat) :
    t.putSections secs set k = s.putSections secs set k := by
  induction secs generalizing set k with
  | nil => rfl
  | cons x rest ih => simp only [State.putSections, State.sectionPresent_of_hw h, State.putRecords_of_hw h, ih]

theorem State.canonical_of_hw (set : CfgSet) : t.canonical set = s.canonical set := by
  simp only [State.canonical, State.sectionPresent_of_hw h]

/-- The check of a build, whose set is the same set in a state of the same hardware. -/
theorem State.finish_check (mid : Nat) (set : CfgSet) :
    t.finish mid stDone (crc32c (t.canonical set)) [] = t.finish mid stDone (crc32c (s.canonical set)) [] := by
  rw [State.canonical_of_hw h]

end layout

/-! ### The end of a build -/

/-- SHADOW built: its check is that of the set in canonical form. -/
theorem State.builtShadow_eq (s : State) (mid : Nat) (set : CfgSet) (k : Nat) : s.builtShadow mid set k =
    ({ s with cfg := { s.cfg with shadow := set, skipped := k } } : State).finish mid stDone (crc32c (s.canonical set)) [] :=
  State.finish_check (s := s) (by rfl) mid set

theorem State.shadowLocked_iff : s.shadowLocked = true ↔ s.cfg.commit ≠ none := by
  rw [State.shadowLocked, Option.isSome_iff_ne_none]

/-! ### CFG_LOAD -/

theorem parseImage_short (h : data.length < 64 ∨ slice data 0 4 ≠ ascii "FNCF" ∨ leAt data 4 2 ≠ 1) :
    parseImage data = .error stInvalidParam := by
  unfold parseImage
  extract_lets len nsect
  refine if_pos ?_
  rcases h with h | h | h
  · exact .inl h
  · exact .inr (.inl h)
  · exact .inr (.inr (.inl h))

section load

variable {merge : Bool} {secs : List (Nat × List Byte)}

theorem State.loadImage_error {st : Nat} (h : parseImage data = .error st) : s.loadImage mid merge data = s.finish0 mid st := by
  rw [State.loadImage, h]

theorem State.loadImage_refused (h : parseImage data = .ok secs)
    (hp : s.putSections secs (if merge then s.cfg.shadow else []) (if merge then s.cfg.skipped else 0) = none) :
    s.loadImage mid merge data = s.finish0 mid stInvalidParam := by
  rw [State.loadImage, h]
  simp only [hp]

theorem State.loadImage_loads {set : CfgSet} {k : Nat} (h : parseImage data = .ok secs)
    (hp : s.putSections secs (if merge then s.cfg.shadow else []) (if merge then s.cfg.skipped else 0) = some (set, k)) :
    s.loadImage mid merge data =
      ({ s with cfg := { s.cfg with imageId := BitVec.ofNat 32 (leAt data 12 4), shadow := set, skipped := k } } : State).finish mid stDone
        (crc32c (s.canonical set)) [] := by
  rw [State.loadImage, h]
  simp only [hp]
  exact State.finish_check (s := s) (by rfl) mid set

end load

/-- What CFG_LOAD does once started. -/
def State.cfgLoadWith (s : State) (mid : Nat) (b : List Byte) (buf : Option (List Byte)) : State :=
  if s.shadowLocked then s.finish0 mid stBusy
  else if bitOf (byteAt b 20) 1 then
    match s.cfgSlot (bitsOf (byteAt b 21) 0 1) with
    | some f =>
      if f.checkOk then ({ s with cfg := { s.cfg with imageId := f.imageId } }).builtShadow mid f.set 0
      else s.finish0 mid stCheckFail
    | none => s.finish0 mid stCheckFail
  else withBuf s mid buf fun img => s.loadImage mid (bitOf (byteAt b 20) 0) img

theorem manCfgLoad_starts {buf : Option (List Byte)} (h : s.Starts n 0x0010 m) :
    manCfgLoad n buf s = (s.start n m.mid).cfgLoadWith m.mid m.bytes buf := State.runManifest_starts h _

theorem State.cfgLoadWith_locked {buf : Option (List Byte)} (h : s.cfg.commit ≠ none) : s.cfgLoadWith mid b buf = s.finish0 mid stBusy :=
  if_pos (State.shadowLocked_iff.mpr h)

section unlocked

variable {buf : Option (List Byte)} (h : ¬s.cfg.commit ≠ none)
include h

theorem State.cfgLoadWith_flash_fails (hf : bitOf (byteAt b 20) 1 = true)
    (hs : ∀ f, s.cfgSlot (bitsOf (byteAt b 21) 0 1) = some f → f.checkOk = false) : s.cfgLoadWith mid b buf = s.finish0 mid stCheckFail := by
  rw [State.cfgLoadWith, if_neg (mt State.shadowLocked_iff.mp h), if_pos hf]
  split
  next f hslot => rw [if_neg (by simp [hs f hslot])]
  next => rfl

theorem State.cfgLoadWith_flash {f : FlashCfg} (hf : bitOf (byteAt b 20) 1 = true)
    (hs : s.cfgSlot (bitsOf (byteAt b 21) 0 1) = some f) (hc : f.checkOk = true) : s.cfgLoadWith mid b buf =
    ({ s with cfg := { s.cfg with imageId := f.imageId, shadow := f.set, skipped := 0 } } : State).finish mid stDone
      (crc32c (s.canonical f.set)) [] := by
  rw [State.cfgLoadWith, if_neg (mt State.shadowLocked_iff.mp h), if_pos hf, hs]
  simp only [hc, if_true]
  exact State.finish_check (s := s) (by rfl) mid f.set

theorem State.cfgLoadWith_host (hf : bitOf (byteAt b 20) 1 = false) :
    s.cfgLoadWith mid b buf = withBuf s mid buf fun img => s.loadImage mid (bitOf (byteAt b 20) 0) img := by
  rw [State.cfgLoadWith, if_neg (mt State.shadowLocked_iff.mp h), if_neg (by simp [hf])]

end unlocked

/-! ### CFG_WRITE and CFG_COPY -/

/-- What CFG_WRITE does once started. -/
def State.cfgWriteWith (s : State) (mid typ : Nat) (buf : Option (List Byte)) : State :=
  if s.shadowLocked then s.finish0 mid stBusy
  else withBuf s mid buf fun body =>
    if !s.sectionPresent typ then s.builtShadow mid s.cfg.shadow (s.cfg.skipped + 1)
    else match s.putRecords typ body.length s.cfg.shadow body with
      | some set => s.builtShadow mid set s.cfg.skipped
      | none => s.finish0 mid stInvalidParam

theorem manCfgWrite_starts {buf : Option (List Byte)} (h : s.Starts n 0x0011 m) :
    manCfgWrite n buf s = (s.start n m.mid).cfgWriteWith m.mid (leAt m.bytes 20 2) buf := State.runManifest_starts h _

theorem State.cfgWriteWith_locked {buf : Option (List Byte)} (h : s.cfg.commit ≠ none) : s.cfgWriteWith mid typ buf = s.finish0 mid stBusy :=
  if_pos (State.shadowLocked_iff.mpr h)

section unlocked

variable (h : ¬s.cfg.commit ≠ none)
include h

theorem State.cfgWriteWith_unread : s.cfgWriteWith mid typ none = s.finish0 mid stDmaError := if_neg (mt State.shadowLocked_iff.mp h)

theorem State.cfgWriteWith_absent (hp : s.sectionPresent typ = false) :
    s.cfgWriteWith mid typ (some data) = s.builtShadow mid s.cfg.shadow (s.cfg.skipped + 1) :=
  (if_neg (mt State.shadowLocked_iff.mp h)).trans (if_pos (congrArg not hp))

section present

variable (hp : s.sectionPresent typ = true)
include hp

theorem State.cfgWriteWith_refused (hr : s.putRecords typ data.length s.cfg.shadow data = none) :
    s.cfgWriteWith mid typ (some data) = s.finish0 mid stInvalidParam := by
  refine ((if_neg (mt State.shadowLocked_iff.mp h)).trans (if_neg (Bool.eq_false_iff.mp (congrArg not hp)))).trans ?_
  rw [hr]

theorem State.cfgWriteWith_written {set : CfgSet} (hr : s.putRecords typ data.length s.cfg.shadow data = some set) :
    s.cfgWriteWith mid typ (some data) = s.builtShadow mid set s.cfg.skipped := by
  refine ((if_neg (mt State.shadowLocked_iff.mp h)).trans (if_neg (Bool.eq_false_iff.mp (congrArg not hp)))).trans ?_
  rw [hr]

end present

end unlocked

theorem manCfgCopy_starts (h : s.Starts n 0x0012 m) : manCfgCopy n s =
    if s.shadowLocked then (s.start n m.mid).finish0 m.mid stBusy else (s.start n m.mid).builtShadow m.mid s.cfg.active 0 :=
  State.runManifest_starts h _

/-! ### The window (R440, R454) -/

/-- Whether the window's address names a word of SHADOW. -/
def State.swinInside (s : State) (typ tab off : Nat) : Prop :=
  1 ≤ typ ∧ typ ≤ 15 ∧ s.sectionPresent typ = true ∧ s.berthHeld typ tab off = false ∧
    ((tab = 15 ∧ (listedRegs typ).contains off = true) ∨ (tab ≠ 15 ∧ off < tableSize typ tab))

/-- A word written through the window at an address. -/
def State.swinPut (s s1 : State) (typ tab off : Nat) (v : Word) : State :=
  if s.shadowLocked then s1.event Reg.CFG_EVT 2
  else if typ < 1 ∨ 15 < typ ∨ !s.sectionPresent typ ∨ s.berthHeld typ tab off then s1
  else if (tab = 15 ∧ (listedRegs typ).contains off = true) ∨ (tab ≠ 15 ∧ off < tableSize typ tab) then
    { s1 with cfg := { s1.cfg with shadow := cfgPut s1.cfg.shadow typ tab off v } }
  else s1

theorem cfgSwinWrite_eq (v : Word) (s : State) : cfgSwinWrite v s =
    s.swinPut (s.setFld Reg.CFG_SWIN_ADDR 0 24 (s.fld Reg.CFG_SWIN_ADDR 0 24 + 4)) (s.fld Reg.CFG_SWIN_SEL 0 16) (s.fld Reg.CFG_SWIN_SEL 16 4)
      (s.fld Reg.CFG_SWIN_ADDR 0 24 / 4 * 4) v := rfl

section window

variable {s1 : State} {off : Nat} {v : Word}

theorem State.swinPut_locked (h : s.cfg.commit ≠ none) : s.swinPut s1 typ tab off v = s1.event Reg.CFG_EVT 2 :=
  if_pos (State.shadowLocked_iff.mpr h)

theorem State.swinPut_outside (h : ¬s.cfg.commit ≠ none) (hi : ¬s.swinInside typ tab off) : s.swinPut s1 typ tab off v = s1 := by
  rw [State.swinPut, if_neg (mt State.shadowLocked_iff.mp h)]
  split
  next => rfl
  next ho =>
    simp only [not_or, Bool.not_eq_true', Bool.not_eq_false, Nat.not_lt, Bool.not_eq_true] at ho
    obtain ⟨h1, h15, hp, hb⟩ := ho
    exact if_neg fun hw => hi ⟨h1, h15, hp, hb, hw⟩

theorem State.swinPut_inside (h : ¬s.cfg.commit ≠ none) (hi : s.swinInside typ tab off) :
    s.swinPut s1 typ tab off v = { s1 with cfg := { s1.cfg with shadow := cfgPut s1.cfg.shadow typ tab off v } } := by
  obtain ⟨h1, h15, hp, hb, hw⟩ := hi
  have ho : ¬(typ < 1 ∨ 15 < typ ∨ !s.sectionPresent typ ∨ s.berthHeld typ tab off) := by
    simp only [hp, hb, Bool.not_true, Bool.false_eq_true, or_false]
    omega
  rw [State.swinPut, if_neg (mt State.shadowLocked_iff.mp h), if_neg ho, if_pos hw]

end window

end Sys2Proof.Machine
end
section
/-! SUPPORT. Commits (R441 to R443) and the flash manifests (R445, R446). -/

namespace Sys2Proof.Machine

variable {s : State} {n mid slot : Nat} {m : Fetched} {b data : List Byte}

/-! ### COMMIT -/

/-- The commit that a COMMIT manifest describes. -/
def State.commitOf (s : State) (mid : Nat) (b : List Byte) : Commit :=
  { mid := some mid, modeAbs := bitOf (byteAt b 24) 0, n := byteAt b 25, absSec := leAt b 28 6, absK := byteAt b 34,
    skipped := s.cfg.skipped, withDir := s.carriesDir }

/-- What COMMIT does once started. -/
def State.commitWith (s : State) (mid : Nat) (b : List Byte) : State :=
  if s.carriesDir ∧ s.dirBusy then ({ s with bin := { s.bin with dirErr := 1 } }).finish0 mid stBusy
  else if s.cfg.commit.isSome then s.finish0 mid stBusy
  else if s.setCheck s.cfg.shadow ≠ leAt b 20 4 then s.finish0 mid stCheckFail
  else s.acceptCommit (s.commitOf mid b)

theorem manCommit_starts (h : s.Starts n 0x0013 m) : manCommit n s = (s.start n m.mid).commitWith m.mid m.bytes := State.runManifest_starts h _

theorem State.commitWith_inUse (h : s.carriesDir = true ∧ s.dirBusy = true) :
    s.commitWith mid b = ({ s with bin := { s.bin with dirErr := 1 } } : State).finish0 mid stBusy := if_pos h

section free

variable (h : ¬(s.carriesDir = true ∧ s.dirBusy = true))
include h

theorem State.commitWith_locked (hl : s.cfg.commit ≠ none) : s.commitWith mid b = s.finish0 mid stBusy :=
  (if_neg h).trans (if_pos (Option.isSome_iff_ne_none.mpr hl))

variable (hl : ¬s.cfg.commit ≠ none)
include hl

theorem State.commitWith_unchecked (hc : ¬crc32c (s.canonical s.cfg.shadow) = leAt b 20 4) : s.commitWith mid b = s.finish0 mid stCheckFail :=
  ((if_neg h).trans (if_neg (mt Option.isSome_iff_ne_none.mp hl))).trans (if_pos hc)

theorem State.commitWith_accepted (hc : crc32c (s.canonical s.cfg.shadow) = leAt b 20 4) :
    s.commitWith mid b = s.acceptCommit (s.commitOf mid b) :=
  ((if_neg h).trans (if_neg (mt Option.isSome_iff_ne_none.mp hl))).trans (if_neg (not_not.mpr hc))

end free

section accept

variable (s : State) (c : Commit)

theorem State.acceptCommit_cfg : (s.acceptCommit c).cfg = { s.cfg with commit := some c } := by
  unfold State.acceptCommit
  extract_lets s1
  split <;> rfl

theorem State.acceptCommit_bin (h : c.withDir = false) : (s.acceptCommit c).bin = s.bin := by
  unfold State.acceptCommit
  extract_lets s1
  rw [if_neg (by simp [h])]

theorem State.acceptCommit_stage (h : c.withDir = true) :
    (s.acceptCommit c).bin = { s.bin with other := bankOf s.cfg.shadow, pending := true, commitHold := true, eff := none } := by
  unfold State.acceptCommit
  extract_lets s1
  rw [if_pos h]

end accept

/-! ### The end of validation (R441 to R443) -/

theorem commitValidationRow_idle (h : ∀ c, s.cfg.commit = some c → c.validated = true) : commitValidationRow s = s := by
  unfold commitValidationRow
  split
  next => rfl
  next c hc => exact if_pos (h c hc)

section validation

variable {c : Commit}

/-- A commit whose E is fixed. -/
def State.commitFixed (s : State) (c : Commit) (sec k e : Nat) : State :=
  { s with cfg := { s.cfg with defaults := false, commit := some { c with validated := true, eff := e, effSec := sec, effK := k } } }

/-- The directory that a commit is validated against. -/
def State.commitBank (s : State) (c : Commit) : Bank :=
  if c.withDir then bankOf s.cfg.shadow else s.bankAt (((s.commitInstant c).map (·.2.2)).getD s.dt)

variable (hc : s.cfg.commit = some c) (hv : c.validated = false)
include hc hv

theorem commitValidationRow_refused {f : CfgFault} (hf : s.setFault s.cfg.shadow c.withDir (s.commitBank c) = some f) :
    commitValidationRow s = (s.commitDirReport c).commitRefuse c f := by
  rw [State.commitBank] at hf
  simp only [commitValidationRow, hc, hv, hf, Bool.false_eq_true, if_false]

theorem commitValidationRow_untimed (hf : s.setFault s.cfg.shadow c.withDir (s.commitBank c) = none) (hw : s.commitInstant c = none) :
    commitValidationRow s = s.commitRefuse c ⟨1, 15, 0, 7⟩ := by
  rw [State.commitBank, hw] at hf
  simp only [commitValidationRow, hc, hv, hf, hw, Bool.false_eq_true, if_false]

theorem commitValidationRow_fixed {sec k e : Nat} (hf : s.setFault s.cfg.shadow c.withDir (s.commitBank c) = none)
    (hw : s.commitInstant c = some (sec, k, e)) : commitValidationRow s =
      if c.withDir then ((s.commitFixed c sec k e).dirFix sec k e).modBin fun b => { b with commitHold := true } else s.commitFixed c sec k e := by
  rw [State.commitBank, hw] at hf
  simp only [commitValidationRow, hc, hv, hf, hw, Bool.false_eq_true, if_false]
  rfl

end validation

theorem State.commitDirReport_without {c : Commit} (h : c.withDir = false) : s.commitDirReport c = s := by
  rw [State.commitDirReport, if_neg (by simp [h])]

/-! ### CFG_SAVE and CFG_READ (R445) -/

/-- The flash while a save is under way: the boot mark of the slot is gone. -/
def Flash.unmarked (f : Flash) (slot : Nat) : Flash := { f with bootSlot := if f.bootSlot = some slot then none else f.bootSlot }

theorem manCfgSave_starts {ok : Bool} (h : s.Starts n 0x0014 m) : manCfgSave n ok s =
    ({ s.start n m.mid with flash := s.flash.unmarked (bitsOf (byteAt m.bytes 21) 0 1) } : State).setAct n m.mid
      (.cfgSave (s.namedSet m.bytes) s.cfg.imageId ok) := by
  refine (State.runManifest_starts h _).trans ?_
  have hf : (if s.flash.bootSlot = some (bitsOf (byteAt m.bytes 21) 0 1) then { s.flash with bootSlot := none } else s.flash) =
      s.flash.unmarked (bitsOf (byteAt m.bytes 21) 0 1) := by
    unfold Flash.unmarked
    split <;> rfl
  exact congrArg (fun f => State.setAct { s.start n m.mid with flash := f } n m.mid (.cfgSave (s.namedSet m.bytes) s.cfg.imageId ok)) hf

/-- The flash with a slot of sets written and the boot mark set. -/
def Flash.saved (f : Flash) (slot : Nat) (c : Option FlashCfg) (boot : Option Nat) : Flash :=
  { f with bootSlot := boot, cfg0 := if slot = 0 then c else f.cfg0, cfg1 := if slot = 0 then f.cfg1 else c }

theorem Flash.putCfg_unmarked (f : Flash) (slot : Nat) (c : Option FlashCfg) :
    (f.unmarked slot).putCfg slot c = f.saved slot c (f.unmarked slot).bootSlot := by
  by_cases h : slot = 0 <;> simp [Flash.putCfg, Flash.saved, Flash.unmarked, h]

theorem Flash.marked_putCfg_unmarked (f : Flash) (slot : Nat) (c : Option FlashCfg) (boot : Bool) :
    (if boot then { (f.unmarked slot).putCfg slot c with bootSlot := some slot } else (f.unmarked slot).putCfg slot c) =
      f.saved slot c (if boot then some slot else (f.unmarked slot).bootSlot) := by
  rw [Flash.putCfg_unmarked]
  cases boot <;> rfl

section save

variable {t : State} {set : CfgSet} {image : Word} {f : Flash} (hf : t.flash = f.unmarked (bitsOf (byteAt b 21) 0 1))
include hf

/-- A save that succeeds leaves the slot with the set, the boot mark as asked. -/
theorem State.cfgSaveEnd_saves (h : t.hw = s.hw) : t.cfgSaveEnd mid b set image true =
    State.finish { t with flash := (f.saved (bitsOf (byteAt b 21) 0 1) (some ⟨set, image, true⟩)
        (if bitOf (byteAt b 22) 0 then some (bitsOf (byteAt b 21) 0 1) else (f.unmarked (bitsOf (byteAt b 21) 0 1)).bootSlot)) }
      mid stDone (s.canonical set).length [] := by
  rw [← Flash.marked_putCfg_unmarked, ← hf, ← State.canonical_of_hw h]
  rfl

/-- A save that fails leaves the slot empty. -/
theorem State.cfgSaveEnd_fails : t.cfgSaveEnd mid b set image false =
    (State.flashFail { t with
      flash := (f.saved (bitsOf (byteAt b 21) 0 1) none (f.unmarked (bitsOf (byteAt b 21) 0 1)).bootSlot) }).finish0 mid stFlashError := by
  rw [← Flash.putCfg_unmarked, ← hf]
  rfl

end save

theorem manCfgRead_starts {ok : Bool} (h : s.Starts n 0x0015 m) : manCfgRead n ok s =
    if mBufLen m.bytes < (s.canonical (s.namedSet m.bytes)).length then
      (s.start n m.mid).finish m.mid stInvalidParam (s.canonical (s.namedSet m.bytes)).length []
    else (s.start n m.mid).setAct n m.mid (.cfgRead (s.canonical (s.namedSet m.bytes)) ok) := by
  refine (State.runManifest_starts h _).trans ?_
  have hc : (s.start n m.mid).canonical ((s.start n m.mid).namedSet m.bytes) = s.canonical (s.namedSet m.bytes) :=
    State.canonical_of_hw (s := s) rfl _
  simp only [hc]

theorem State.cfgReadEnd_done (s : State) (mid : Nat) (b img : List Byte) :
    s.cfgReadEnd mid b img true = (s.emit (.hostWrite (mBufAddr b) img)).finish mid stDone img.length [] := if_pos rfl

theorem State.cfgReadEnd_failed (s : State) (mid : Nat) (b img : List Byte) : s.cfgReadEnd mid b img false = s.finish0 mid stDmaError :=
  if_neg Bool.false_ne_true

/-! ### FW_STAGE (R446) -/

/-- Whether an image of a class is in use: a present engine runs from the slot, or the class rotates. -/
def State.fwInUse (s : State) (c slot : Nat) : Prop :=
  (∃ e ∈ classEngines c, s.hasEng e = true ∧ nth 0 s.flash.fwSel e = slot) ∨ ∃ r, s.plt.rot = some r ∧ engClass r.engine = c

theorem State.fwInUse_iff (s : State) (c slot : Nat) : s.fwInUse c slot ↔
    ((classEngines c).any fun e => s.hasEng e && nth 0 s.flash.fwSel e == slot) ∨ (s.plt.rot.any fun r => engClass r.engine == c) := by
  rw [State.fwInUse]
  cases s.plt.rot <;> simp

section stage

variable {buf : Option (List Byte)} {sig ok : Bool} {ver : Word}

theorem manFwStage_starts (h : s.Starts n 0x0070 m) : manFwStage n buf sig ok ver s =
    if ((classEngines (byteAt m.bytes 20)).any fun e => s.hasEng e && nth 0 s.flash.fwSel e == bitsOf (byteAt m.bytes 21) 0 1) ∨
        (s.plt.rot.any fun r => engClass r.engine == byteAt m.bytes 20) then (s.start n m.mid).finish0 m.mid stBusy
    else withBuf (s.start n m.mid) m.mid buf fun img => (s.start n m.mid).setAct n m.mid (.fwStage img sig ok ver) :=
  State.runManifest_starts h _

theorem manFwStage_busy (h : s.Starts n 0x0070 m) (hu : s.fwInUse (byteAt m.bytes 20) (bitsOf (byteAt m.bytes 21) 0 1)) :
    manFwStage n buf sig ok ver s = (s.start n m.mid).finish0 m.mid stBusy :=
  (manFwStage_starts h).trans (if_pos ((s.fwInUse_iff _ _).mp hu))

theorem manFwStage_free (h : s.Starts n 0x0070 m) (hu : ¬s.fwInUse (byteAt m.bytes 20) (bitsOf (byteAt m.bytes 21) 0 1)) :
    manFwStage n buf sig ok ver s =
      withBuf (s.start n m.mid) m.mid buf fun img => (s.start n m.mid).setAct n m.mid (.fwStage img sig ok ver) :=
  (manFwStage_starts h).trans (if_neg (mt (s.fwInUse_iff _ _).mpr hu))

theorem State.fwStageEnd_failed (s : State) (mid : Nat) (b img : List Byte) (sig : Bool) (ver : Word) :
    s.fwStageEnd mid b img sig false ver =
      (State.flashFail { s with flash := { s.flash with fw := mapDel s.flash.fw (mFwSlot b) } }).finish0 mid stFlashError := by
  simp [State.fwStageEnd, Flash.putFw]

theorem State.fwStageEnd_bad (s : State) (mid : Nat) (b img : List Byte) (ver : Word) : s.fwStageEnd mid b img false true ver =
    State.finish0 { s with flash := { s.flash with fw := mapDel s.flash.fw (mFwSlot b) } } mid stBadImage := by
  simp [State.fwStageEnd, Flash.putFw]

theorem State.fwStageEnd_done (s : State) (mid : Nat) (b img : List Byte) (ver : Word) : s.fwStageEnd mid b img true true ver =
    State.finish { s with flash := { s.flash with fw := mapSet s.flash.fw (mFwSlot b) ⟨true, ver, sha256 img⟩ } } mid stDone img.length [] := by
  simp [State.fwStageEnd, Flash.putFw]

end stage

end Sys2Proof.Machine
end
section
/-! ### O52 -/

namespace Sys2Proof.Machine

/-- Settles O52: one lemma for each outcome of each manifest, of validation and of the window. -/
theorem configurationRuns : Obligations.ConfigurationRuns := by
  unfold Obligations.ConfigurationRuns
  intro n v ver buf data ok sig s locked s1 ends builds
  have canon (m) (set : CfgSet) : (s1 m).canonical set = s.canonical set := State.canonical_of_hw rfl set
  have check {cmd u m set} (h : Answers cmd s (State.finish u m.mid stDone (crc32c ((s1 m).canonical set)) [])) :
      Answers cmd s (State.finish u m.mid stDone (crc32c (s.canonical set)) []) := canon m set ▸ h
  have built {cmd m set k} (h : Answers cmd s ((s1 m).builtShadow m.mid set k)) : builds cmd m set k :=
    check (.of (State.builtShadow_eq _ _ _ _) h)
  refine ⟨fun m h => ?_, parseImage_short, fun m h => ?_, fun m h => ?_, fun m h => ?_, fun h => .of (commitValidationRow_idle h) rfl,
    fun c hc hv hd => ?_, fun c hc hv hd => ?_, fun m h => ?_, fun m h => ?_, fun hR => ?_, fun m h => ?_⟩
  · intro merge fromFlash slot
    have e (buf) := manCfgLoad_starts (buf := buf) h
    have host (buf) (hl : ¬locked) (hf : fromFlash = false) := (e buf).trans (State.cfgLoadWith_host (s := s1 m) hl hf)
    refine ⟨fun hl => .of ((e buf).trans (State.cfgLoadWith_locked (s := s1 m) hl)) rfl,
      fun hl hf hs => .of ((e buf).trans (State.cfgLoadWith_flash_fails (s := s1 m) hl hf hs)) rfl,
      fun f hl hf hs hc => check (.of ((e buf).trans (State.cfgLoadWith_flash (s := s1 m) hl hf hs hc)) rfl), fun hl hf => .of (host none hl hf) rfl,
      fun st hl hf hp => .of ((host (some data) hl hf).trans (State.loadImage_error (s := s1 m) hp)) rfl, fun secs hl hf hp => ?_⟩
    intro put
    have hput : (s1 m).putSections secs (if merge then s.cfg.shadow else []) (if merge then s.cfg.skipped else 0) = put :=
      State.putSections_of_hw (t := s1 m) (s := s) rfl _ _ _
    exact ⟨fun hn => .of ((host (some data) hl hf).trans (State.loadImage_refused (s := s1 m) hp (hput.trans hn))) rfl,
      fun set k hs => check (.of ((host (some data) hl hf).trans (State.loadImage_loads (s := s1 m) hp (hput.trans hs))) rfl)⟩
  · intro typ
    have e (buf) := manCfgWrite_starts (buf := buf) h
    have hrec : (s1 m).putRecords typ data.length s.cfg.shadow data = s.putRecords typ data.length s.cfg.shadow data :=
      State.putRecords_of_hw (t := s1 m) (s := s) rfl _ _ _ _
    exact ⟨fun hl => .of ((e buf).trans (State.cfgWriteWith_locked (s := s1 m) hl)) rfl, fun hl => .of ((e none).trans (State.cfgWriteWith_unread (s := s1 m) hl)) rfl,
      fun hl hp => built (.of ((e (some data)).trans (State.cfgWriteWith_absent (s := s1 m) hl hp)) rfl),
      fun hl hp hr => .of ((e (some data)).trans (State.cfgWriteWith_refused (s := s1 m) hl hp (hrec.trans hr))) rfl,
      fun set hl hp hr => built (.of ((e (some data)).trans (State.cfgWriteWith_written (s := s1 m) hl hp (hrec.trans hr))) rfl)⟩
  · have e := manCfgCopy_starts h
    exact ⟨fun hl => .of (e.trans (if_pos (State.shadowLocked_iff.mpr hl))) rfl,
      fun hl => built (.of (e.trans (if_neg (mt State.shadowLocked_iff.mp hl))) rfl)⟩
  · intro inUse same
    have e := manCommit_starts h
    refine ⟨fun hl hu => .of (e.trans (State.commitWith_locked (s := s1 m) hu hl)) rfl, fun hu => .of (e.trans (State.commitWith_inUse (s := s1 m) hu)) rfl,
      fun hl hu hc => .of (e.trans (State.commitWith_unchecked (s := s1 m) hu hl (by rwa [canon m]))) rfl, fun hl hu hc => ?_⟩
    exact ⟨_, (s1 m).commitOf m.mid m.bytes, .of (e.trans (State.commitWith_accepted (s := s1 m) hu hl ((congrArg crc32c (canon m _)).trans hc))) rfl,
      State.acceptCommit_cfg _ _, rfl, rfl, rfl, rfl, rfl, rfl, rfl, State.acceptCommit_bin (s1 m) ((s1 m).commitOf m.mid m.bytes), State.acceptCommit_stage (s1 m) ((s1 m).commitOf m.mid m.bytes)⟩
  · intro when_ fault
    have hb : s.setFault s.cfg.shadow c.withDir (s.commitBank c) = fault := by
      rw [State.commitBank, hd, if_neg Bool.false_ne_true]
    refine ⟨fun f hf => .of ((commitValidationRow_refused hc hv (hb.trans hf)).trans ?_) rfl,
      fun hf hw => .of (commitValidationRow_untimed hc hv (hb.trans hf) hw) rfl,
      fun sec k e hf hw => .of ((commitValidationRow_fixed hc hv (hb.trans hf) hw).trans (if_neg (by rw [hd]; exact Bool.false_ne_true))) rfl⟩
    rw [State.commitDirReport_without hd]
  · intro when_ fault
    have hb : s.setFault s.cfg.shadow c.withDir (s.commitBank c) = fault := by
      rw [State.commitBank, hd, if_pos rfl]
    exact ⟨fun f hf => .of (commitValidationRow_refused hc hv (hb.trans hf)) rfl,
      fun hf hw => .of (commitValidationRow_untimed hc hv (hb.trans hf) hw) rfl,
      fun sec k e hf hw => .of ((commitValidationRow_fixed hc hv (hb.trans hf) hw).trans (if_pos hd)) rfl⟩
  · intro set slot kept s2 wrote
    have hs2 : s2.hw = s.hw := rfl
    refine ⟨.of (manCfgSave_starts h) rfl, ?_, ?_⟩
    · exact State.cfgSaveEnd_saves (f := s.flash) rfl hs2
    · exact State.cfgSaveEnd_fails (set := set) (image := s.cfg.imageId) (f := s.flash) rfl
  · intro img
    have e := manCfgRead_starts (ok := ok) h
    exact ⟨fun hl => .of (e.trans (if_pos hl)) rfl, fun hl => ⟨.of (e.trans (if_neg (Nat.not_lt.mpr hl))) rfl,
      State.cfgReadEnd_done (s1 m) m.mid m.bytes img, State.cfgReadEnd_failed (s1 m) m.mid m.bytes img⟩⟩
  · intro typ tab off s2 inside
    have e := (State.busWrite_reaches (m := 63) hR (cfgSwinWrite v)).trans (cfgSwinWrite_eq v s)
    exact ⟨fun hl => .of (e.trans (State.swinPut_locked hl)) rfl, fun hl hi => .of (e.trans (State.swinPut_outside hl hi)) rfl,
      fun hl hi => .of (e.trans (State.swinPut_inside hl hi)) rfl⟩
  · intro c slot busy empty
    refine ⟨fun hu => .of (manFwStage_busy (buf := buf) h hu) rfl, fun hu => .of (manFwStage_free (buf := none) h hu) rfl, ?_⟩
    intro act
    exact ⟨fun hu => .of (manFwStage_free (buf := some data) h hu) rfl, State.fwStageEnd_failed (s1 m) m.mid m.bytes data sig ver,
      State.fwStageEnd_bad (s1 m) m.mid m.bytes data ver, State.fwStageEnd_done (s1 m) m.mid m.bytes data ver⟩

end Sys2Proof.Machine
end

section
/-! SUPPORT. Ring pairs (R424, R425): what completing leaves of the registers, and EN. -/

namespace Sys2Proof.Machine

variable {r s t : State} {n k : Nat} {v : Word}

/-! ### The registers that completing leaves -/

/-- The registers below the counters of the host interface stand: among them those that set up the ring pairs. -/
def SetupKept (s t : State) : Prop := ∀ o, o < 0x10800 → t.reg o = s.reg o

theorem SetupKept.refl (s : State) : SetupKept s s := fun _ _ => rfl

theorem SetupKept.trans (h : SetupKept r s) (h' : SetupKept s t) : SetupKept r t := fun o ho => (h' o ho).trans (h o ho)

theorem SetupKept.ite {a b : State} {c : Prop} [Decidable c] (ha : SetupKept s a) (hb : SetupKept s b) : SetupKept s (if c then a else b) := by
  split <;> assumption

theorem SetupKept.foldl {α : Type} {f : State → α → State} (hf : ∀ x a, SetupKept x (f x a)) : ∀ (s : State) (l : List α), SetupKept s (l.foldl f s)
  | s, [] => .refl s
  | s, a :: l => (hf s a).trans (SetupKept.foldl hf (f s a) l)

theorem State.count_setupKept (s : State) {lo : Nat} (h : 0x10800 ≤ lo) : SetupKept s (s.count lo) := fun o ho =>
  s.reg_count_ne (by omega) (by omega)

theorem State.event_setupKept (s : State) {o i : Nat} (h : 0x10800 ≤ o) : SetupKept s (s.event o i) := fun o' ho => by
  rw [State.reg_event, if_neg (by omega)]

theorem State.modRing_setupKept (s : State) (n : Nat) (f : Ring → Ring) : SetupKept s (s.modRing n f) := fun _ _ => rfl

theorem State.ringSettle_setupKept (s : State) (n : Nat) : SetupKept s (s.ringSettle n) := .ite (s.modRing_setupKept _ _) (.refl s)

theorem State.finishOne_setupKept (s : State) (mid st d0 : Nat) (b : List Byte) : SetupKept s (s.finishOne mid st d0 b) := by
  unfold State.finishOne
  split
  · exact .refl s
  · exact ((SetupKept.foldl (fun x _ => x.modRing_setupKept _ _) _ _).trans
      (.ite (State.count_setupKept _ (by simp only [Reg.HIF_RP_CNT_LO]; omega)) (.refl _))).trans (State.ringSettle_setupKept _ _)

theorem State.finishRaw_setupKept (s : State) (mid st d0 : Nat) (b : List Byte) : SetupKept s (s.finishRaw mid st d0 b) :=
  (s.finishOne_setupKept mid st d0 b).trans (.foldl (fun x _ => x.finishOne_setupKept _ _ _ _) _ _)

theorem State.autoComplete_setupKept (k : Nat) (s : State) (n : Nat) : SetupKept s (State.autoComplete k s n) := by
  induction k generalizing s with
  | zero => exact .refl s
  | succ k ih =>
    unfold State.autoComplete
    refine .ite ?_ (.refl s)
    split
    · split
      · exact (s.finishRaw_setupKept _ _ _ _).trans (ih _)
      · exact .refl s
    · exact .refl s

theorem State.finish_setupKept (s : State) (mid st d0 : Nat) (b : List Byte) : SetupKept s (s.finish mid st d0 b) :=
  (s.finishRaw_setupKept mid st d0 b).trans (.foldl (fun x _ => State.autoComplete_setupKept _ x _) _ _)

theorem SetupKept.of_regs (h : t.regs = s.regs) : SetupKept s t := fun o _ => congrArg (mapGet resetAt · o) h

theorem SetupKept.finish (h : SetupKept s t) (mid st d0 : Nat) (b : List Byte) : SetupKept s (t.finish mid st d0 b) :=
  h.trans (t.finish_setupKept mid st d0 b)

theorem State.withFlash_setupKept (s : State) (f : Flash) : SetupKept s { s with flash := f } := .of_regs rfl

theorem State.emit_setupKept (s : State) (o : Output) : SetupKept s (s.emit o) := .of_regs rfl

theorem State.flashFail_setupKept (s : State) : SetupKept s s.flashFail := by
  have h1 : SetupKept s (s.event Reg.CFG_EVT 3) := s.event_setupKept (by simp)
  unfold State.flashFail State.report
  split
  · exact h1
  · exact h1.trans (.of_regs rfl)

/-- An action's end counts and completes; it leaves the setup. -/
theorem State.actEnd_setupKept (s : State) (f : Fetched) : SetupKept s (s.actEnd f) := by
  unfold State.actEnd
  split
  · unfold State.cfgSaveEnd
    extract_lets slot f1 f2
    split
    · exact (s.withFlash_setupKept _).finish _ _ _ _
    · exact ((s.withFlash_setupKept _).trans (State.flashFail_setupKept _)).finish _ _ _ _
  · unfold State.cfgReadEnd
    split
    · exact (s.emit_setupKept _).finish _ _ _ _
    · exact (SetupKept.refl s).finish _ _ _ _
  · unfold State.mtrReadEnd
    extract_lets recs
    split
    · exact (SetupKept.ite (.refl s) (s.emit_setupKept _)).finish _ _ _ _
    · exact (SetupKept.refl s).finish _ _ _ _
  · unfold State.fwStageEnd
    extract_lets put
    split
    · exact ((s.withFlash_setupKept _).trans (State.flashFail_setupKept _)).finish _ _ _ _
    · split
      · exact (s.withFlash_setupKept _).finish _ _ _ _
      · exact (s.withFlash_setupKept _).finish _ _ _ _
  · exact .refl s

theorem SetupKept.fld (h : SetupKept s t) {o : Nat} (ho : o < 0x10800) (lo w : Nat) : t.fld o lo w = s.fld o lo w := by
  rw [State.fld, State.fld, h o ho]

theorem SetupKept.reg64 (h : SetupKept s t) {o : Nat} (ho : o + 4 < 0x10800) : t.reg64 o = s.reg64 o := by
  rw [State.reg64, State.reg64, h o (by omega), h (o + 4) ho]

/-! ### Drops -/

/-- A dropped delivery leaves everything of its pair but how many have been dropped. -/
theorem State.ring_dropDelivery (s : State) (n : Nat) (d : Delivery) (k : Nat) :
    (s.dropDelivery n d).ring k = { s.ring k with dropped := ((s.dropDelivery n d).ring k).dropped } := by
  have hk : (s.modRing n fun r => { r with dropped := min (r.dropped + 1) 65535 }).ring k =
      { s.ring k with dropped := ((s.modRing n fun r => { r with dropped := min (r.dropped + 1) 65535 }).ring k).dropped } := by
    unfold State.ring State.modRing
    dsimp only
    rw [nth_modify]
    split <;> rfl
  have h (u : State) (hu : u.hif = (s.modRing n fun r => { r with dropped := min (r.dropped + 1) 65535 }).hif) :
      u.ring k = { s.ring k with dropped := (u.ring k).dropped } := by
    rw [State.ring, hu]
    exact hk
  unfold State.dropDelivery
  extract_lets s1
  have h1 : s1.hif = (s.modRing n fun r => { r with dropped := min (r.dropped + 1) 65535 }).hif := by
    simp only [s1, State.event_hif, State.count_hif]
  split
  · exact h _ (by rw [State.count_hif, h1])
  · exact h _ (by rw [State.count_hif, h1])
  · exact h _ (by rw [State.event_hif, State.count_hif, h1])
  · exact h _ (by rw [State.event_hif, State.count_hif, h1])
  · exact h _ (by rw [State.event_hif, h1])
  · exact h _ h1

theorem State.fetched_dropAll (n k : Nat) : ∀ (l : List Delivery) (s : State),
    ((l.foldl (fun (s : State) d => s.dropDelivery n d) s).ring k).fetched = (s.ring k).fetched
  | [], _ => rfl
  | d :: l, s => (State.fetched_dropAll n k l (s.dropDelivery n d)).trans (by rw [State.ring_dropDelivery])

/-! ### EN (R424, R425) -/

/-- What R424 checks of a pair's size and bases. -/
def State.SizeFits (s : State) (n : Nat) : Prop :=
  4 ≤ s.fld (Reg.HIF_RP_SIZE n) 0 4 ∧ s.fld (Reg.HIF_RP_SIZE n) 0 4 ≤ 12 ∧ 4 ≤ s.fld (Reg.HIF_RP_SIZE n) 8 4 ∧
    s.fld (Reg.HIF_RP_SIZE n) 8 4 ≤ 12 ∧ s.fld (Reg.HIF_RP_SIZE n) 0 4 ≤ s.fld (Reg.HIF_RP_SIZE n) 8 4 ∧
    (s.fld (Reg.HIF_RP_SIZE n) 16 4 = 0 ∨ (8 ≤ s.fld (Reg.HIF_RP_SIZE n) 16 4 ∧ s.fld (Reg.HIF_RP_SIZE n) 16 4 ≤ 14)) ∧
    s.fld (Reg.HIF_RP_SQ_BASE_LO n) 0 12 = 0 ∧ s.fld (Reg.HIF_RP_CQ_BASE_LO n) 0 12 = 0 ∧ s.fld (Reg.HIF_RP_DATA_BASE_LO n) 0 12 = 0

theorem State.ringCfgOk_iff : s.ringCfgOk n = true ↔ s.SizeFits n := by
  simp [State.ringCfgOk, State.SizeFits, and_assoc]

theorem State.fld_setReg_ne {o o' : Nat} (h : o ≠ o') (lo w : Nat) : (s.setReg o v).fld o' lo w = s.fld o' lo w := by
  rw [State.fld, State.fld, State.reg_setReg, if_neg h]

/-- A write of the pair's control register leaves its sizes and bases. -/
theorem State.ringCfgOk_setCtrl : (s.setReg (Reg.HIF_RP_CTRL n) v).ringCfgOk n = s.ringCfgOk n := by
  have hsz : Reg.HIF_RP_CTRL n ≠ Reg.HIF_RP_SIZE n := by simp only [Reg.HIF_RP_CTRL, Reg.HIF_RP_SIZE]; omega
  have hsq : Reg.HIF_RP_CTRL n ≠ Reg.HIF_RP_SQ_BASE_LO n := by simp only [Reg.HIF_RP_CTRL, Reg.HIF_RP_SQ_BASE_LO]; omega
  have hcq : Reg.HIF_RP_CTRL n ≠ Reg.HIF_RP_CQ_BASE_LO n := by simp only [Reg.HIF_RP_CTRL, Reg.HIF_RP_CQ_BASE_LO]; omega
  have hda : Reg.HIF_RP_CTRL n ≠ Reg.HIF_RP_DATA_BASE_LO n := by simp only [Reg.HIF_RP_CTRL, Reg.HIF_RP_DATA_BASE_LO]; omega
  unfold State.ringCfgOk
  simp only [State.fld_setReg_ne hsz, State.fld_setReg_ne hsq, State.fld_setReg_ne hcq, State.fld_setReg_ne hda]

theorem State.modRing_modRing (s : State) (n : Nat) (f g : Ring → Ring) : (s.modRing n f).modRing n g = s.modRing n (g ∘ f) := by
  unfold State.modRing
  dsimp only
  rw [List.modify_modify_eq]

section write

variable (hn : n < 16)
include hn

theorem ringCtrlWrite_disabled (hd : (s.ring n).st = .disabled) : ringCtrlWrite n v s =
    if v.getLsbD 0 then
      if s.ringCfgOk n then
        ((s.setReg (Reg.HIF_RP_CTRL n) (v &&& 0xFFFFFF00)).setReg (Reg.HIF_RP_CTRL n) (v &&& 0xFFFFFF01)).modRing n fun r =>
          { ({} : Ring) with st := .running, phase := true, dropped := r.dropped }
      else (s.setReg (Reg.HIF_RP_CTRL n) (v &&& 0xFFFFFF00)).modRing n fun r => { r with err := 1 }
    else s.setReg (Reg.HIF_RP_CTRL n) (v &&& 0xFFFFFF00) := by
  rw [ringCtrlWrite, if_neg (by omega)]
  simp only [hd, State.ringCfgOk_setCtrl]

theorem ringCtrlWrite_unmoved (h : (s.ring n).st = .stopping ∨ (v.getLsbD 0 = true ∧ (s.ring n).st ≠ .disabled)) :
    ringCtrlWrite n v s = s := by
  rw [ringCtrlWrite, if_neg (by omega)]
  rcases h with h | ⟨hv, hd⟩
  · simp only [h]
  · cases hst : (s.ring n).st with
    | disabled => exact absurd hst hd
    | running => exact if_pos hv
    | stopping => rfl
    | error => exact if_pos hv

theorem ringCtrlWrite_error (he : (s.ring n).st = .error) (hv : v.getLsbD 0 = false) :
    ringCtrlWrite n v s = (s.setFld (Reg.HIF_RP_CTRL n) 0 1 0).ringSettle n := by
  rw [ringCtrlWrite, if_neg (by omega)]
  simp only [he]
  exact if_neg (Bool.eq_false_iff.mp hv)

/-- A RUNNING pair stops: what waits is dropped, what has not started is ABORTED. -/
theorem ringCtrlWrite_stops (hr : (s.ring n).st = .running) (hv : v.getLsbD 0 = false) : ringCtrlWrite n v s =
    (((s.ring n).fetched.filter fun f => !f.started).foldl (fun (s : State) f => s.finishRaw f.mid stAborted 0 [])
      ((s.ring n).waiting.foldl (fun (s : State) d => s.dropDelivery n d)
        ((s.setFld (Reg.HIF_RP_CTRL n) 0 1 0).modRing n fun r => { r with st := .stopping, waiting := [] }))).ringSettle n := by
  have hf : ((s.setFld (Reg.HIF_RP_CTRL n) 0 1 0).modRing n fun r => { r with st := .stopping, waiting := [] }).ring n =
      (s.modRing n fun r => { r with st := .stopping, waiting := [] }).ring n := rfl
  have hfetched : ((s.modRing n fun r => { r with st := .stopping, waiting := [] }).ring n).fetched = (s.ring n).fetched := by
    unfold State.ring State.modRing
    dsimp only
    rw [nth_modify]
    split <;> rfl
  rw [ringCtrlWrite, if_neg (by omega)]
  simp only [hr]
  refine (if_neg (Bool.eq_false_iff.mp hv)).trans ?_
  rw [State.modRing_modRing]
  simp only [Function.comp_def, State.fetched_dropAll, hf, hfetched]

end write

end Sys2Proof.Machine
end
section
/-! SUPPORT. Ring pairs: EN's outcome, doorbells and fetching (R424 to R428). -/

namespace Sys2Proof.Machine

variable {s t : State} {n k : Nat} {v : Word} {d : Delivery} {ds : List Delivery}

/-! ### EN's outcome -/

section write

variable (hn : n < 16) (hlen : n < s.hif.ring.length) (hd : (s.ring n).st = .disabled) (hv : v.getLsbD 0 = true)
include hn hlen hd hv

theorem ringCtrlWrite_starts (hf : s.SizeFits n) : (∀ k, k ≠ n → (ringCtrlWrite n v s).ring k = s.ring k) ∧
    (ringCtrlWrite n v s).bit (Reg.HIF_RP_CTRL n) 0 = true ∧
    (ringCtrlWrite n v s).ring n = { ({} : Ring) with st := .running, phase := true, dropped := (s.ring n).dropped } := by
  rw [ringCtrlWrite_disabled hn hd, if_pos hv, if_pos (State.ringCfgOk_iff.mpr hf)]
  refine ⟨fun k hk => State.ring_modRing_ne _ _ hk.symm, ?_, State.ring_modRing_self _ _ hlen⟩
  show ((State.setReg _ _ _).reg (Reg.HIF_RP_CTRL n)).getLsbD 0 = true
  rw [State.reg_setReg_self, BitVec.getLsbD_and, hv]
  decide

theorem ringCtrlWrite_refused (hf : ¬s.SizeFits n) : (∀ k, k ≠ n → (ringCtrlWrite n v s).ring k = s.ring k) ∧
    (ringCtrlWrite n v s).bit (Reg.HIF_RP_CTRL n) 0 = false ∧ (ringCtrlWrite n v s).ring n = { s.ring n with err := 1 } := by
  rw [ringCtrlWrite_disabled hn hd, if_pos hv, if_neg (mt State.ringCfgOk_iff.mp hf)]
  refine ⟨fun k hk => State.ring_modRing_ne _ _ hk.symm, ?_, State.ring_modRing_self _ _ hlen⟩
  show ((State.setReg _ _ _).reg (Reg.HIF_RP_CTRL n)).getLsbD 0 = false
  rw [State.reg_setReg_self, BitVec.getLsbD_and]
  simp

end write

/-! ### Doorbells (R426, R450) -/

section doorbell

variable (hn : n < 16)
include hn

theorem answers_sqTail_held (hp : s.pwr.state ≠ 0) : Answers (.sqTailDoorbell n v) s (s.holdAccess ⟨true, 8 * n, some v, 63⟩ 1) :=
  .of ((if_pos hn).trans (if_neg hp)) rfl

theorem answers_cqHead_held (hp : s.pwr.state ≠ 0) : Answers (.cqHeadDoorbell n v) s (s.holdAccess ⟨true, 8 * n + 4, some v, 63⟩ 1) :=
  .of ((if_pos hn).trans (if_neg hp)) rfl

theorem answers_sqTail (hp : s.pwr.state = 0) : Answers (.sqTailDoorbell n v) s (sqTailDoorbell n v s) :=
  .of ((if_pos hn).trans (if_pos hp)) rfl

theorem answers_cqHead (hp : s.pwr.state = 0) : Answers (.cqHeadDoorbell n v) s (cqHeadDoorbell n v s) :=
  .of ((if_pos hn).trans (if_pos hp)) rfl

theorem sqTailDoorbell_error (hr : (s.ring n).st ≠ .running) : sqTailDoorbell n v s = s.dbError :=
  (if_neg (Nat.not_le.mpr hn)).trans (if_pos hr)

theorem cqHeadDoorbell_error (hr : (s.ring n).st ≠ .running) : cqHeadDoorbell n v s = s.dbError :=
  (if_neg (Nat.not_le.mpr hn)).trans (if_pos hr)

variable (hr : (s.ring n).st = .running)
include hr

theorem sqTailDoorbell_moves (hi : bitsOf v.toNat 0 12 < s.sqSize n) :
    sqTailDoorbell n v s = s.modRing n fun r => { r with sqTail := bitsOf v.toNat 0 12 } :=
  ((if_neg (Nat.not_le.mpr hn)).trans (if_neg (not_not.mpr hr))).trans (if_neg (Nat.not_le.mpr hi))

theorem sqTailDoorbell_outside (hi : s.sqSize n ≤ bitsOf v.toNat 0 12) : sqTailDoorbell n v s = (s.ringError n 2).dbError :=
  ((if_neg (Nat.not_le.mpr hn)).trans (if_neg (not_not.mpr hr))).trans (if_pos hi)

/-- The entries that a new head releases. -/
def State.released (s : State) (n i : Nat) : Nat :=
  if i = (s.ring n).cqTail then (s.ring n).unreleased else (i + s.cqSize n - (s.ring n).cqHead) % s.cqSize n

theorem cqHeadDoorbell_outside (h : s.cqSize n ≤ bitsOf v.toNat 0 12 ∨ (s.ring n).unreleased < s.released n (bitsOf v.toNat 0 12)) :
    cqHeadDoorbell n v s = (s.ringError n 2).dbError :=
  ((if_neg (Nat.not_le.mpr hn)).trans (if_neg (not_not.mpr hr))).trans (if_pos h)

theorem cqHeadDoorbell_releases (hi : bitsOf v.toNat 0 12 < s.cqSize n) (hu : s.released n (bitsOf v.toNat 0 12) ≤ (s.ring n).unreleased) :
    cqHeadDoorbell n v s = State.placeWaiting (s.ring n).waiting.length
      (s.modRing n fun r => { r with cqHead := bitsOf v.toNat 0 12, unreleased := r.unreleased - s.released n (bitsOf v.toNat 0 12) }) n :=
  ((if_neg (Nat.not_le.mpr hn)).trans (if_neg (not_not.mpr hr))).trans
    (if_neg fun h => h.elim (Nat.not_le.mpr hi) (Nat.not_lt.mpr hu))

end doorbell

/-! ### Fetching (R427) -/

theorem State.fetchable_iff : s.fetchable k = true ↔ (s.ring k).st = .running ∧ s.hif.pcie.bme = true ∧ (s.ring k).sqHead ≠ (s.ring k).sqTail ∧
    (s.ring k).outstanding + (s.ring k).unreleased < s.cqSize k ∧ (s.ring k).waiting = [] := by
  simp [State.fetchable, State.cqFree, and_assoc]

theorem manifestFetch_idle {bytes : List Byte} (h : s.fetchTurn ≠ some n) : manifestFetch n bytes s = s := if_neg h

theorem manifestFetch_fetches {bytes : List Byte} (h : s.fetchTurn = some n) : manifestFetch n bytes s =
    (((({ s with hif := { s.hif with nextMid := s.hif.nextMid + 1, lastFetch := n } } : State).modRing n fun r =>
      { r with sqHead := (r.sqHead + 1) % s.sqSize n, fetched := r.fetched ++ [({ mid := s.hif.nextMid, bytes := padTo 64 bytes } : Fetched)] }).count
        (Reg.HIF_CNT_LO 0)).count (Reg.HIF_RP_CNT_LO n 0)).autoAll := if_pos h

end Sys2Proof.Machine
end
section
/-! SUPPORT. Ring pairs: completions, deliveries and coalescing (R425, R428 to R430). -/

namespace Sys2Proof.Machine

variable {s t : State} {n k : Nat} {d : Delivery} {ds : List Delivery} {c : Completion} {cs : List Completion}

/-! ### Completions (R429) -/

/-- The entry of a completion. -/
def State.completionEntry (s : State) (n : Nat) (c : Completion) : List Byte :=
  leBytes 1 (b2n (s.ring n).phase) ++ leBytes 1 c.status ++ leBytes 2 c.opcode ++ leBytes 4 c.tag ++ leBytes 2 (s.ring n).sqHead ++
    leBytes 2 0 ++ leBytes 4 0 ++ tsBytes c.at_ ++ leBytes 4 c.detail0 ++ padTo 32 c.detail

/-- The state in which a pair's oldest completion has been written, and has signalled if it asked to. -/
def State.completed (s : State) (n : Nat) (c : Completion) (cs : List Completion) : State :=
  let s2 := ((((s.modRing n fun r => { r with done := cs }).writeEntry n 0 c.status c.opcode c.tag 0 c.at_ c.detail0 c.detail []).count
    (Reg.HIF_CNT_LO 1)).ringSettle n)
  if c.irq then s2.coalSignal n else s2

/-- What a change of pair n that writes, settles or signals keeps: the other pairs, what has been put out, and of the pair all but its state
and its coalescing. -/
structure Signalled (n : Nat) (s t : State) : Prop where
  ring_ne : ∀ k, k ≠ n → t.ring k = s.ring k
  done : (t.ring n).done = (s.ring n).done
  fetched : (t.ring n).fetched = (s.ring n).fetched
  unreleased : (t.ring n).unreleased = (s.ring n).unreleased
  cqTail : (t.ring n).cqTail = (s.ring n).cqTail
  phase : (t.ring n).phase = (s.ring n).phase
  out : t.out = s.out

theorem Signalled.refl (n : Nat) (s : State) : Signalled n s s := ⟨fun _ _ => rfl, rfl, rfl, rfl, rfl, rfl, rfl⟩

theorem Signalled.trans {r : State} (h : Signalled n r s) (h' : Signalled n s t) : Signalled n r t :=
  ⟨fun k hk => (h'.ring_ne k hk).trans (h.ring_ne k hk), h'.done.trans h.done, h'.fetched.trans h.fetched,
    h'.unreleased.trans h.unreleased, h'.cqTail.trans h.cqTail, h'.phase.trans h.phase, h'.out.trans h.out⟩

theorem Signalled.ite {a b : State} {p : Prop} [Decidable p] (ha : Signalled n s a) (hb : Signalled n s b) :
    Signalled n s (if p then a else b) := by
  split <;> assumption

theorem Signalled.of_hif (hh : t.hif = s.hif) (ho : t.out = s.out) : Signalled n s t := by
  have hr : ∀ k, t.ring k = s.ring k := fun k => congrArg (fun h : Hif => nth ({} : Ring) h.ring k) hh
  exact ⟨fun k _ => hr k, by rw [hr], by rw [hr], by rw [hr], by rw [hr], by rw [hr], ho⟩

theorem State.ring_modRing_field {α : Type} (g : Ring → α) {f : Ring → Ring} (h : ∀ r, g (f r) = g r) (s : State) (n k : Nat) :
    g ((s.modRing n f).ring k) = g (s.ring k) := by
  unfold State.ring State.modRing
  dsimp only
  rw [nth_modify]
  split
  · exact h _
  · rfl

theorem State.modRing_signalled (s : State) (n : Nat) {f : Ring → Ring} (h1 : ∀ r, (f r).done = r.done) (h2 : ∀ r, (f r).fetched = r.fetched)
    (h3 : ∀ r, (f r).unreleased = r.unreleased) (h4 : ∀ r, (f r).cqTail = r.cqTail) (h5 : ∀ r, (f r).phase = r.phase) :
    Signalled n s (s.modRing n f) :=
  ⟨fun _ hk => State.ring_modRing_ne _ _ hk.symm, State.ring_modRing_field _ h1 s n n, State.ring_modRing_field _ h2 s n n,
    State.ring_modRing_field _ h3 s n n, State.ring_modRing_field _ h4 s n n, State.ring_modRing_field _ h5 s n n, rfl⟩

theorem State.ringSettle_signalled (s : State) (n : Nat) : Signalled n s (s.ringSettle n) :=
  .ite (s.modRing_signalled n (fun _ => rfl) (fun _ => rfl) (fun _ => rfl) (fun _ => rfl) fun _ => rfl) (.refl n s)

theorem State.coalDue_signalled (s : State) (n : Nat) : Signalled n s (s.coalDue n) :=
  (s.modRing_signalled n (f := fun r => { r with coalCount := 0 }) (fun _ => rfl) (fun _ => rfl) (fun _ => rfl) (fun _ => rfl) fun _ => rfl).trans
    (.of_hif rfl rfl)

theorem State.coalSignal_signalled (s : State) (n : Nat) : Signalled n s (s.coalSignal n) := by
  have h (c at_ : Nat) : Signalled n s (s.modRing n fun r => { r with coalCount := c, coalFrom := at_ }) :=
    s.modRing_signalled n (fun _ => rfl) (fun _ => rfl) (fun _ => rfl) (fun _ => rfl) fun _ => rfl
  unfold State.coalSignal
  extract_lets c s1
  have h1 : Signalled n s s1 :=
    s.modRing_signalled n (fun _ => rfl) (fun _ => rfl) (fun _ => rfl) (fun _ => rfl) fun _ => rfl
  exact .ite (h1.trans (s1.coalDue_signalled n)) h1

/-- What writing the oldest completion leaves and changes of the pairs, and the entry put out. -/
theorem State.completed_spec (s : State) (hlen : n < s.hif.ring.length) (c : Completion) (cs : List Completion) :
    (∀ k, k ≠ n → (s.completed n c cs).ring k = s.ring k) ∧ ((s.completed n c cs).ring n).done = cs ∧
      ((s.completed n c cs).ring n).fetched = (s.ring n).fetched ∧
      ((s.completed n c cs).ring n).unreleased = (s.ring n).unreleased + 1 ∧
      ((s.completed n c cs).ring n).cqTail = ((s.ring n).cqTail + 1) % s.cqSize n ∧
      ((s.completed n c cs).ring n).phase =
        (if ((s.ring n).cqTail + 1) % s.cqSize n = 0 then !(s.ring n).phase else (s.ring n).phase) ∧
      (s.completed n c cs).out =
        s.out ++ [.hostWrite (s.reg64 (Reg.HIF_RP_CQ_BASE_LO n) + 64 * (s.ring n).cqTail) (s.completionEntry n c)] := by
  have hself := State.ring_modRing_self (s := s) (i := n) (fun r : Ring => { r with done := cs }) hlen
  have hlen1 : n < (s.modRing n fun r => { r with done := cs }).hif.ring.length := by rwa [State.modRing_len]
  have hw : (s.modRing n fun r => { r with done := cs }).writeEntry n 0 c.status c.opcode c.tag 0 c.at_ c.detail0 c.detail [] =
      ((s.modRing n fun r => { r with done := cs }).emit (.hostWrite (s.reg64 (Reg.HIF_RP_CQ_BASE_LO n) + 64 * (s.ring n).cqTail)
        (s.completionEntry n c))).modRing n fun r =>
          { r with
            cqTail := ((s.ring n).cqTail + 1) % s.cqSize n
            unreleased := r.unreleased + 1
            phase := if ((s.ring n).cqTail + 1) % s.cqSize n = 0 then !r.phase else r.phase } := by
    unfold State.writeEntry State.completionEntry
    simp only [hself]
    rfl
  have hsig : Signalled n ((s.modRing n fun r => { r with done := cs }).writeEntry n 0 c.status c.opcode c.tag 0 c.at_ c.detail0 c.detail [])
      (s.completed n c cs) :=
    have h1 := (Signalled.of_hif (n := n) (State.count_hif _ _) (State.count_out _ _)).trans (State.ringSettle_signalled _ n)
    .ite (h1.trans (State.coalSignal_signalled _ n)) h1
  rw [hw] at hsig
  have hself2 := State.ring_modRing_self (s := (s.modRing n fun r => { r with done := cs }).emit
    (.hostWrite (s.reg64 (Reg.HIF_RP_CQ_BASE_LO n) + 64 * (s.ring n).cqTail) (s.completionEntry n c))) (i := n) (fun r : Ring =>
          { r with
            cqTail := ((s.ring n).cqTail + 1) % s.cqSize n
            unreleased := r.unreleased + 1
            phase := if ((s.ring n).cqTail + 1) % s.cqSize n = 0 then !r.phase else r.phase }) hlen1
  have hemit : ∀ o, ((s.modRing n fun r => { r with done := cs }).emit o).ring n = { s.ring n with done := cs } := fun _ => hself
  rw [hemit] at hself2
  obtain ⟨h1, h2, h3, h4, h5, h6, h7⟩ := hsig
  rw [hself2] at h2 h3 h4 h5 h6
  exact ⟨fun k hk => (h1 k hk).trans ((State.ring_modRing_ne _ _ hk.symm).trans (State.ring_modRing_ne _ _ hk.symm)), h2, h3, h4, h5, h6, h7⟩

theorem manifestComplete_blocked (hb : ¬(n < 16 ∧ ((s.ring n).st = .running ∨ (s.ring n).st = .stopping) ∧ s.hif.pcie.bme = true))
    (hd : (s.ring n).done ≠ []) : manifestComplete n s = s := by
  unfold manifestComplete
  simp only [if_neg hd, if_neg hb]

theorem manifestComplete_idle (hd : (s.ring n).done = []) (hf : ∀ f ∈ (s.ring n).fetched, f.act = none) : manifestComplete n s = s := by
  have ha : s.actNext n = s := by
    unfold State.actNext
    rw [List.find?_eq_none.mpr fun f hm => by simp [hf f hm]]
  unfold manifestComplete
  simp only [ha, hd, ite_self]

/-- The state in which the pair's next completion is sought: with none queued, its oldest action under way has ended. -/
theorem manifestComplete_writes {s1 : State} (h1 : ((s.ring n).done ≠ [] ∧ s1 = s) ∨
      ((s.ring n).done = [] ∧ ∃ f, (s.ring n).fetched.find? (fun f => f.act.isSome) = some f ∧ s1 = s.actEnd f))
    (hn : n < 16) (hst : (s1.ring n).st = .running ∨ (s1.ring n).st = .stopping) (hb : s1.hif.pcie.bme = true)
    (hd : (s1.ring n).done = c :: cs) : manifestComplete n s = s1.completed n c cs := by
  have he : (if (s.ring n).done = [] then s.actNext n else s) = s1 := by
    obtain ⟨h, rfl⟩ | ⟨h, f, hf, rfl⟩ := h1
    · exact if_neg h
    · rw [if_pos h, State.actNext, hf]
  unfold manifestComplete
  simp only [he, if_pos (And.intro hn (And.intro hst hb)), hd]
  rfl

/-- An action that ends leaves Bus Master Enable, how many pairs there are, and each pair's completion ring. -/
theorem State.completionRing_stands {s1 : State} (h1 : ((s.ring n).done ≠ [] ∧ s1 = s) ∨
      ((s.ring n).done = [] ∧ ∃ f, (s.ring n).fetched.find? (fun f => f.act.isSome) = some f ∧ s1 = s.actEnd f)) (hn : n < 16) :
    s1.hif.pcie = s.hif.pcie ∧ s1.hif.ring.length = s.hif.ring.length ∧ s1.cqSize n = s.cqSize n ∧
      s1.reg64 (Reg.HIF_RP_CQ_BASE_LO n) = s.reg64 (Reg.HIF_RP_CQ_BASE_LO n) := by
  obtain ⟨-, rfl⟩ | ⟨-, f, -, rfl⟩ := h1
  · exact ⟨rfl, rfl, rfl, rfl⟩
  · have hk := s.actEnd_setupKept f
    have ha := s.actEnd_actsEnded f
    refine ⟨ha.pcie, ?_, ?_, hk.reg64 (by simp only [Reg.HIF_RP_CQ_BASE_LO]; omega)⟩
    · obtain ⟨_, _, _, _, _, hl, -, e⟩ := ha
      rw [e]
      exact hl
    · rw [State.cqSize, State.cqSize, hk.fld (by simp only [Reg.HIF_RP_SIZE]; omega)]

/-! ### Errors and deliveries (R425, R428) -/

theorem hostDmaError_idle (h : ¬(n < 16 ∧ ((s.ring n).st = .running ∨ (s.ring n).st = .stopping))) : hostDmaError n s = s := if_neg h

theorem hostDmaError_errs (hn : n < 16) (h : (s.ring n).st = .running ∨ (s.ring n).st = .stopping) : hostDmaError n s =
    let s1 := ((s.ringError n 3).count (Reg.HIF_CNT_LO 7)).event Reg.HIF_EVT 1
    { s1.freshNext with hif := { s1.hif with pcie := { s1.hif.pcie with aerStatus := s1.hif.pcie.aerStatus ||| BitVec.ofNat 32 s1.freshVal } } } :=
  if_pos ⟨hn, h⟩

theorem deliveryTake_idle (h : s.hif.deliv = []) : deliveryTake s = s := by
  unfold deliveryTake
  rw [h]

section delivery

variable (hd : s.hif.deliv = d :: ds)
include hd

/-- What becomes of the oldest delivery, as one expression over the state without it. -/
theorem deliveryTake_cons : deliveryTake s =
    if (s.ring d.ring).st ≠ .running ∨ (!s.hif.pcie.bme) = true then
      State.dropDelivery { s with hif := { s.hif with deliv := ds } } d.ring d
    else if s.dataSize d.ring < d.data.length then
      (State.count { s with hif := { s.hif with deliv := ds } } (Reg.HIF_CNT_LO 4)).dropDelivery d.ring d
    else if s.cqFree d.ring = true ∧ (s.ring d.ring).waiting = [] then
      State.writeDelivery { s with hif := { s.hif with deliv := ds } } d.ring d
    else if s.fld (Reg.HIF_RP_TIMEOUT d.ring) 0 20 = 0 then State.dropDelivery { s with hif := { s.hif with deliv := ds } } d.ring d
    else State.modRing { s with hif := { s.hif with deliv := ds } } d.ring fun q =>
      { q with waiting := q.waiting ++ [{ d with since := s.dt }] } := by
  unfold deliveryTake
  rw [hd]
  rfl

theorem deliveryTake_down (h : ¬((s.ring d.ring).st = .running ∧ s.hif.pcie.bme = true)) :
    deliveryTake s = State.dropDelivery { s with hif := { s.hif with deliv := ds } } d.ring d := by
  rw [deliveryTake_cons hd, if_pos]
  rw [not_and_or] at h
  exact h.imp id fun h => by simp [h]

variable (hu : (s.ring d.ring).st = .running ∧ s.hif.pcie.bme = true)
include hu

omit hd in
theorem deliveryTake_up : ¬((s.ring d.ring).st ≠ .running ∨ (!s.hif.pcie.bme) = true) := by
  simp [hu.1, hu.2]

theorem deliveryTake_tooLong (h : ¬d.data.length ≤ s.dataSize d.ring) : deliveryTake s =
    (State.count { s with hif := { s.hif with deliv := ds } } (Reg.HIF_CNT_LO 4)).dropDelivery d.ring d := by
  rw [deliveryTake_cons hd, if_neg (deliveryTake_up hu), if_pos (Nat.not_le.mp h)]

variable (hl : d.data.length ≤ s.dataSize d.ring)
include hl

theorem deliveryTake_writes (h : (s.ring d.ring).outstanding + (s.ring d.ring).unreleased < s.cqSize d.ring ∧ (s.ring d.ring).waiting = []) :
    deliveryTake s = State.writeDelivery { s with hif := { s.hif with deliv := ds } } d.ring d := by
  rw [deliveryTake_cons hd, if_neg (deliveryTake_up hu), if_neg (Nat.not_lt.mpr hl), if_pos ⟨decide_eq_true h.1, h.2⟩]

variable (h : ¬((s.ring d.ring).outstanding + (s.ring d.ring).unreleased < s.cqSize d.ring ∧ (s.ring d.ring).waiting = []))
include h

theorem deliveryTake_untimed (ht : s.fld (Reg.HIF_RP_TIMEOUT d.ring) 0 20 = 0) :
    deliveryTake s = State.dropDelivery { s with hif := { s.hif with deliv := ds } } d.ring d := by
  rw [deliveryTake_cons hd, if_neg (deliveryTake_up hu), if_neg (Nat.not_lt.mpr hl), if_neg fun hc => h ⟨of_decide_eq_true hc.1, hc.2⟩,
    if_pos ht]

theorem deliveryTake_waits (ht : s.fld (Reg.HIF_RP_TIMEOUT d.ring) 0 20 ≠ 0) : deliveryTake s =
    State.modRing { s with hif := { s.hif with deliv := ds } } d.ring fun q => { q with waiting := q.waiting ++ [{ d with since := s.dt }] } := by
  rw [deliveryTake_cons hd, if_neg (deliveryTake_up hu), if_neg (Nat.not_lt.mpr hl), if_neg fun hc => h ⟨of_decide_eq_true hc.1, hc.2⟩,
    if_neg ht]

end delivery

theorem deliveryTimeout_idle (h : (s.ring n).waiting = []) : deliveryTimeout n s = s := by
  unfold deliveryTimeout
  rw [h]

theorem deliveryTimeout_drops (h : (s.ring n).waiting = d :: ds) : deliveryTimeout n s =
    ((s.advance (d.since + s.fld (Reg.HIF_RP_TIMEOUT n) 0 20 * subPerUs)).modRing n fun r => { r with waiting := ds }).dropDelivery n d := by
  unfold deliveryTimeout
  rw [h]

/-! ### Coalescing (R430) -/

theorem coalesceTimer_idle (h : (s.ring n).coalCount = 0) : coalesceTimer n s = s := if_neg (by omega)

theorem coalesceTimer_due (h : 0 < (s.ring n).coalCount) :
    coalesceTimer n s = (s.advance ((s.ring n).coalFrom + s.fld (Reg.HIF_RP_CTRL n) 16 16 * subPerUs)).coalDue n := if_pos h

theorem State.coalDue_bit (s : State) (hn : n < 16) : (s.coalDue n).msix.due.getLsbD n = true := by
  show (s.msix.due ||| BitVec.ofNat 16 (2 ^ n)).getLsbD n = true
  rw [BitVec.getLsbD_or, BitVec.getLsbD_ofNat, Nat.testBit_two_pow_self]
  simp [hn]

theorem State.advance_hif (s : State) (t : Nat) : (s.advance t).hif = s.hif := by
  unfold State.advance
  split
  · exact State.countBy_hif _ _ _
  · rfl

/-- The coalescing timer ends at its due time, and the event falls due. -/
theorem State.coalDue_advance (s : State) (w : Nat) (hlen : n < s.hif.ring.length) :
    (∀ k, k ≠ n → ((s.advance w).coalDue n).ring k = s.ring k) ∧ ((s.advance w).coalDue n).ring n = { s.ring n with coalCount := 0 } ∧
      ((s.advance w).coalDue n).dt = max s.dt w := by
  have hr (k : Nat) : (s.advance w).ring k = s.ring k := by
    rw [State.ring, State.advance_hif]
    rfl
  refine ⟨fun k hk => ((s.advance w).coalDue_signalled n |>.ring_ne k hk).trans (hr k), ?_, s.advance_dt w⟩
  refine (State.ring_modRing_self (s := s.advance w) _ ?_).trans ?_
  · rwa [State.advance_hif]
  · rw [hr]

end Sys2Proof.Machine
end
section
/-! SUPPORT. Manifests of the ring pairs: none starting, ABORT, HOST_SEND, INJECT, SUBSYS_SET and those of the capture engine
(R433, R436, R114, R124, R364). -/

namespace Sys2Proof.Machine

variable {s t : State} {n mid p : Nat} {b data : List Byte} {f : Fetched}

/-! ### No manifest starting (R427, R431) -/

/-- The row of each manifest command is one of an opcode. -/
theorem answers_unstarted (n : Nat) (ver : Word) (buf : Option (List Byte)) (ok sig : Bool) (s : State) :
    ∀ p ∈ [(0x0000, Instr.nop n), (0x0001, .abort n), (0x0010, .cfgLoad n buf), (0x0011, .cfgWrite n buf), (0x0012, .cfgCopy n),
        (0x0013, .commit n), (0x0014, .cfgSave n ok), (0x0015, .cfgRead n ok), (0x0020, .hostSend n buf), (0x0021, .inject n buf),
        (0x0030, .almAck n), (0x0031, .almHost n), (0x0040, .capArm n), (0x0041, .capTriggerManifest n), (0x0042, .capAbort n),
        (0x0050, .mtrReset n buf), (0x0051, .mtrRead n ok), (0x0060, .logNote n), (0x0061, .logClear n buf), (0x0070, .fwStage n buf sig ok ver),
        (0x0071, .rotate n), (0x0072, .subsysSet n ok), (0x00A0, .keyWrite n buf), (0x00A1, .keyReplace n buf), (0x00A2, .keyErase n),
        (0x00A3, .keyPubkey n ok), (0x00A4, .keyClose n), (0x00B0, .twnHandover n), (0x00B1, .twnResync n), (0x00B2, .twnSave n ok),
        (0x00C0, .bstRun n), (0x00C1, .fltRelease n), (0x00C2, .fltInject n)],
      (∀ m, ¬s.Starts n p.1 m) → Answers p.2 s s := by
  have hk {op : Nat} (h : ∀ m, ¬s.Starts n op m) (g : Nat → List Byte → State → State) :
      (if s.keyBusy then s else s.runManifest n op g) = s := by
    rw [State.runManifest_none h, ite_self]
  simp only [List.forall_mem_cons, List.not_mem_nil, false_implies, implies_true, and_true]
  exact ⟨fun h => .of (State.runManifest_none h _) rfl, fun h => .of (State.runManifest_none h _) rfl,
    fun h => .of (State.runManifest_none h _) rfl, fun h => .of (State.runManifest_none h _) rfl,
    fun h => .of (State.runManifest_none h _) rfl, fun h => .of (State.runManifest_none h _) rfl,
    fun h => .of (State.runManifest_none h _) rfl, fun h => .of (State.runManifest_none h _) rfl,
    fun h => .of (State.runManifest_none h _) rfl, fun h => .of (State.runManifest_none h _) rfl,
    fun h => .of (State.runManifest_none h _) rfl, fun h => .of (State.runManifest_none h _) rfl,
    fun h => .of (State.runManifest_none h _) rfl, fun h => .of (State.runManifest_none h _) rfl,
    fun h => .of (State.runManifest_none h _) rfl, fun h => .of (State.runManifest_none h _) rfl,
    fun h => .of (State.runManifest_none h _) rfl, fun h => .of (State.runManifest_none h _) rfl,
    fun h => .of (State.runManifest_none h _) rfl, fun h => .of (State.runManifest_none h _) rfl,
    fun h => .of (State.runManifest_none h _) rfl, fun h => .of (State.runManifest_none h _) rfl,
    fun h => .of (hk h _) rfl, fun h => .of (hk h _) rfl, fun h => .of (hk h _) rfl,
    fun h => .of (State.runManifest_none h _) rfl, fun h => .of (hk h _) rfl,
    fun h => .of (State.runManifest_none h _) rfl, fun h => .of (State.runManifest_none h _) rfl,
    fun h => .of (State.runManifest_none h _) rfl, fun h => .of (State.runManifest_none h _) rfl,
    fun h => .of (State.runManifest_none h _) rfl, fun h => .of (State.runManifest_none h _) rfl⟩

/-! ### ABORT (R436) -/

/-- What an ABORT does to its target, a fetched manifest. -/
def State.abortTarget (s : State) (mid p : Nat) (f : Fetched) : State :=
  if mOpcode f.bytes = 0x0001 then s.finish0 mid stInvalidParam
  else if !f.started then (s.finish0 f.mid stAborted).finish0 mid stDone
  else if mOpcode f.bytes = 0x0013 ∧ (s.cfg.commit.any fun c => c.mid == some f.mid) = true then
    (s.dropCommit.finish0 f.mid stAborted).finish0 mid stDone
  else if mOpcode f.bytes = 0x0020 then
    ((State.finish { s with hif := { s.hif with jobs := s.hif.jobs.filter fun j => j.mid != f.mid } } f.mid stAborted
      (((s.hif.jobs.find? fun j => j.mid == f.mid).map (·.queued.length)).getD 0) []).finish0 mid stDone)
  else if f.act.isSome then ((s.actAbort f).1.finish f.mid stAborted (s.actAbort f).2 []).finish0 mid stDone
  else s.modRing p fun r =>
    { r with fetched := r.fetched.map fun g => if g.mid = f.mid then { g with abortedBy := g.abortedBy ++ [mid] } else g }

/-- What an ABORT of a TAG on pair p does. -/
def State.abortWith (s : State) (mid p tag : Nat) : State :=
  match (s.ring p).target tag with
  | some (some f) => s.abortTarget mid p f
  | _ => s.finish0 mid stAlreadyDone

theorem manAbort_starts {m : Fetched} (h : s.Starts n 0x0001 m) :
    manAbort n s = (s.start n m.mid).abortWith m.mid (bitsOf (byteAt m.bytes 20) 0 4) (leAt m.bytes 24 4) := by
  unfold manAbort State.abortWith
  exact State.runManifest_starts h _

theorem State.abortWith_none {tag : Nat} (h : ∀ f, (s.ring p).target tag ≠ some (some f)) :
    s.abortWith mid p tag = s.finish0 mid stAlreadyDone := by
  unfold State.abortWith
  split
  · exact absurd ‹_› (h _)
  · rfl

theorem State.abortWith_some {tag : Nat} (h : (s.ring p).target tag = some (some f)) : s.abortWith mid p tag = s.abortTarget mid p f := by
  unfold State.abortWith
  rw [h]

theorem State.abortTarget_abort (h : mOpcode f.bytes = 0x0001) : s.abortTarget mid p f = s.finish0 mid stInvalidParam := if_pos h

theorem State.abortTarget_waiting (h : mOpcode f.bytes ≠ 0x0001) (hs : f.started = false) :
    s.abortTarget mid p f = (s.finish0 f.mid stAborted).finish0 mid stDone :=
  (if_neg h).trans (if_pos (by rw [hs]; rfl))

section started

variable (hs : f.started = true)
include hs

theorem State.abortTarget_commit (hc : mOpcode f.bytes = 0x0013 ∧ (s.cfg.commit.any fun c => c.mid == some f.mid) = true) :
    s.abortTarget mid p f = (s.dropCommit.finish0 f.mid stAborted).finish0 mid stDone := by
  rw [State.abortTarget, if_neg (by rw [hc.1]; decide), if_neg (by simp [hs]), if_pos hc]

theorem State.abortTarget_job {j : SendJob} (h : mOpcode f.bytes = 0x0020) (hj : (s.hif.jobs.find? fun j => j.mid == f.mid) = some j) :
    s.abortTarget mid p f = ((State.finish { s with hif := { s.hif with jobs := s.hif.jobs.filter fun j => j.mid != f.mid } } f.mid stAborted
      j.queued.length []).finish0 mid stDone) := by
  rw [State.abortTarget, if_neg (by rw [h]; decide), if_neg (by simp [hs]), if_neg fun hc => by rw [h] at hc; exact absurd hc.1 (by decide),
    if_pos h, hj]
  rfl

variable (h1 : mOpcode f.bytes ≠ 0x0001) (h2 : mOpcode f.bytes ≠ 0x0020)
  (h3 : ¬(mOpcode f.bytes = 0x0013 ∧ (s.cfg.commit.any fun c => c.mid == some f.mid) = true))
include h1 h2 h3

theorem State.abortTarget_act (ha : f.act ≠ none) :
    s.abortTarget mid p f = ((s.actAbort f).1.finish f.mid stAborted (s.actAbort f).2 []).finish0 mid stDone := by
  rw [State.abortTarget, if_neg h1, if_neg (by simp [hs]), if_neg h3, if_neg h2, if_pos (Option.isSome_iff_ne_none.mpr ha)]

theorem State.abortTarget_waits (ha : f.act = none) : s.abortTarget mid p f = s.modRing p fun r =>
    { r with fetched := r.fetched.map fun g => if g.mid = f.mid then { g with abortedBy := g.abortedBy ++ [mid] } else g } := by
  rw [State.abortTarget, if_neg h1, if_neg (by simp [hs]), if_neg h3, if_neg h2, if_neg (by simp [ha])]

end started

/-! ### HOST_SEND (R114) -/

/-- The frames that a HOST_SEND's bytes ask for. -/
def State.hostFrames (s : State) (b data : List Byte) : Option (List (List Byte)) :=
  s.sendFrames (bitsOf (byteAt b 20) 0 3) (bitOf (byteAt b 21) 0) (leAt b 22 2) (byteAt b 24) data

/-- What a HOST_SEND does with its buffer. -/
def State.hostSendWith (s : State) (mid : Nat) (b data : List Byte) : State :=
  match s.hostFrames b data with
  | none => s.finish0 mid stInvalidParam
  | some [] => s.finish mid stDone 0 []
  | some fs => fs.zipIdx.foldl (fun (s : State) x => s.offer (bitsOf (byteAt b 20) 0 3) .host (.raw x.1) x.1.length (some (mid, x.2)))
      { s with hif := { s.hif with jobs := s.hif.jobs ++ [{ mid := mid, left := fs.length }] } }

theorem manHostSend_noData {m : Fetched} (h : s.Starts n 0x0020 m) : manHostSend n none s = (s.start n m.mid).finish0 m.mid stDmaError :=
  State.runManifest_starts h _

theorem manHostSend_starts {m : Fetched} (h : s.Starts n 0x0020 m) :
    manHostSend n (some data) s = (s.start n m.mid).hostSendWith m.mid m.bytes data := by
  unfold manHostSend State.hostSendWith State.hostFrames
  exact State.runManifest_starts h _

theorem State.hostSendWith_bad (h : s.hostFrames b data = none) : s.hostSendWith mid b data = s.finish0 mid stInvalidParam := by
  unfold State.hostSendWith
  rw [h]

theorem State.hostSendWith_nothing (h : s.hostFrames b data = some []) : s.hostSendWith mid b data = s.finish0 mid stDone := by
  unfold State.hostSendWith
  rw [h]
  rfl

theorem State.hostSendWith_sends {x : List Byte} {xs : List (List Byte)} (h : s.hostFrames b data = some (x :: xs)) :
    s.hostSendWith mid b data = (x :: xs).zipIdx.foldl
      (fun (s : State) x => s.offer (bitsOf (byteAt b 20) 0 3) .host (.raw x.1) x.1.length (some (mid, x.2)))
      { s with hif := { s.hif with jobs := s.hif.jobs ++ [{ mid := mid, left := xs.length + 1 }] } } := by
  unfold State.hostSendWith
  rw [h]
  rfl

/-! ### INJECT (R124) -/

/-- The frame that an INJECT enters into the intake. -/
def injectedFrame (mid : Nat) (b data : List Byte) (arrival : Nat) : InFrame :=
  { listener := bitsOf (byteAt b 20) 0 4, origin := 6, srcIp := BitVec.ofNat 32 (leAt b 24 4), srcPort := 0, payload := data, csumOk := true,
    arrival := arrival, mid := some mid }

/-- What an INJECT with a valid time does with its buffer on the injection pair. -/
def State.injectWith (s : State) (mid : Nat) (b data : List Byte) (t : Nat) : State :=
  if !s.bit Reg.BIN_CTRL 0 then s.finish0 mid stRefused
  else
    let s1 := (s.count (Reg.BIN_CNT_LO 1)).intakeEnter (injectedFrame mid b data (if t = 0 then s.dt else t))
    if 1024 ≤ s.bin.intakeQ.length then s1.finish mid stDone 2 [] else s1

section inject

variable {m : Fetched} {buf : Option (List Byte)} (h : s.Starts n 0x0021 m)
include h

theorem manInject_refused (hb : tsOf (slice m.bytes 28 12) = none ∨ n ≠ s.fld Reg.BIN_CTRL 2 4) :
    manInject n buf s = (s.start n m.mid).finish0 m.mid stInvalidParam := by
  refine (State.runManifest_starts h _).trans ?_
  cases ht : tsOf (slice m.bytes 28 12) with
  | none => rfl
  | some t => exact if_pos (hb.resolve_left (by simp [ht]))

variable {t : Nat} (ht : tsOf (slice m.bytes 28 12) = some t) (hn : n = s.fld Reg.BIN_CTRL 2 4)
include ht hn

theorem manInject_noData : manInject n none s = (s.start n m.mid).finish0 m.mid stDmaError := by
  refine (State.runManifest_starts h _).trans ?_
  simp only [ht]
  exact if_neg (not_not.mpr hn)

theorem manInject_data : manInject n (some data) s = (s.start n m.mid).injectWith m.mid m.bytes data t := by
  refine (State.runManifest_starts h _).trans ?_
  simp only [ht]
  exact if_neg (not_not.mpr hn)

end inject

theorem State.injectWith_off {t : Nat} (h : s.bit Reg.BIN_CTRL 0 = false) : s.injectWith mid b data t = s.finish0 mid stRefused :=
  if_pos (by rw [h]; rfl)

section on

variable {t : Nat} (h : s.bit Reg.BIN_CTRL 0 = true)
include h

theorem State.injectWith_enters (hq : s.bin.intakeQ.length < 1024) : s.injectWith mid b data t =
    (s.count (Reg.BIN_CNT_LO 1)).intakeEnter (injectedFrame mid b data (if t = 0 then s.dt else t)) :=
  (if_neg (by simp [h])).trans (if_neg (Nat.not_le.mpr hq))

theorem State.injectWith_full (hq : 1024 ≤ s.bin.intakeQ.length) : s.injectWith mid b data t =
    ((s.count (Reg.BIN_CNT_LO 1)).intakeEnter (injectedFrame mid b data (if t = 0 then s.dt else t))).finish mid stDone 2 [] :=
  (if_neg (by simp [h])).trans (if_pos hq)

end on

end Sys2Proof.Machine
end
section
/-! SUPPORT. Ring pairs and manifests (R424 to R436): the obligation. -/

namespace Sys2Proof.Machine

variable {s : State} {n : Nat}

theorem manNop_starts {m : Fetched} (h : s.Starts n 0x0000 m) : manNop n s = (s.start n m.mid).finish0 m.mid stDone :=
  State.runManifest_starts h _

theorem manSubsysSet_written {m : Fetched} (h : s.Starts n 0x0072 m) : manSubsysSet n true s =
    State.finish0 { s.start n m.mid with flash := { s.flash with subsys := some (leAt m.bytes 20 2, leAt m.bytes 22 2) } } m.mid stDone :=
  (State.runManifest_starts h _).trans (if_pos rfl)

theorem manSubsysSet_failed {m : Fetched} (h : s.Starts n 0x0072 m) :
    manSubsysSet n false s = (s.start n m.mid).flashFail.finish0 m.mid stFlashError :=
  (State.runManifest_starts h _).trans (if_neg Bool.false_ne_true)

theorem manCapArm_starts {m : Fetched} (h : s.Starts n 0x0040 m) : manCapArm n s =
    ((s.start n m.mid).capArm (bitsOf (byteAt m.bytes 20) 0 2)).finish m.mid
      (if (s.start n m.mid).capArmErr (bitsOf (byteAt m.bytes 20) 0 2) = 0 then stDone else stRefused)
      ((s.start n m.mid).capArmErr (bitsOf (byteAt m.bytes 20) 0 2)) [] :=
  State.runManifest_starts h _

theorem manCapTrigger_starts {m : Fetched} (h : s.Starts n 0x0041 m) : manCapTrigger n s =
    ((s.start n m.mid).capSwtrig (bitsOf (byteAt m.bytes 20) 0 2)).finish0 m.mid stDone :=
  State.runManifest_starts h _

theorem manCapAbort_starts {m : Fetched} (h : s.Starts n 0x0042 m) : manCapAbort n s =
    ((s.start n m.mid).capAbort (bitsOf (byteAt m.bytes 20) 0 2)).finish m.mid
      (if (((s.start n m.mid).capAbort (bitsOf (byteAt m.bytes 20) 0 2)).capCh (bitsOf (byteAt m.bytes 20) 0 2)).abortRes = 1 then stDone
        else stAlreadyDone)
      (((s.start n m.mid).capAbort (bitsOf (byteAt m.bytes 20) 0 2)).capCh (bitsOf (byteAt m.bytes 20) 0 2)).abortRes [] :=
  State.runManifest_starts h _

/-- An ABORT that starts, by what it finds. -/
theorem answers_abort {m : Fetched} (h : s.Starts n 0x0001 m) {u : State}
    (e : (s.start n m.mid).abortWith m.mid (bitsOf (byteAt m.bytes 20) 0 4) (leAt m.bytes 24 4) = u) : Answers (.abort n) s u :=
  .of ((manAbort_starts h).trans e) rfl

theorem answers_hostSend {m : Fetched} (h : s.Starts n 0x0020 m) {data : List Byte} {u : State}
    (e : (s.start n m.mid).hostSendWith m.mid m.bytes data = u) : Answers (.hostSend n (some data)) s u :=
  .of ((manHostSend_starts h).trans e) rfl

theorem answers_inject {m : Fetched} (h : s.Starts n 0x0021 m) {t : Nat} (ht : tsOf (slice m.bytes 28 12) = some t)
    (hn : n = s.fld Reg.BIN_CTRL 2 4) {data : List Byte} {u : State}
    (e : (s.start n m.mid).injectWith m.mid m.bytes data t = u) : Answers (.inject n (some data)) s u :=
  .of ((manInject_data h ht hn).trans e) rfl

theorem answers_ringPairEn {v : Word} (hn : n < 16) (hR : s.Reaches (Reg.HIF_RP_CTRL n) v) :
    Answers (.ringPairEnWrite n v) s (ringCtrlWrite n v s) :=
  .of ((if_pos hn).trans (State.busWrite_reaches (m := 63) hR _)) rfl

/-- A completion is written: as R429 says of the state in which it is found. -/
theorem answers_manifestComplete {s1 : State} {c : Completion} {cs : List Completion} (h1 : ((s.ring n).done ≠ [] ∧ s1 = s) ∨
      ((s.ring n).done = [] ∧ ∃ f, (s.ring n).fetched.find? (fun f => f.act.isSome) = some f ∧ s1 = s.actEnd f))
    (hn : n < 16) (hlen : n < s.hif.ring.length) (hst : (s1.ring n).st = .running ∨ (s1.ring n).st = .stopping)
    (hb : s.hif.pcie.bme = true) (hd : (s1.ring n).done = c :: cs) :
    ∃ u, Answers (.manifestComplete n) s u ∧ (∀ k, k ≠ n → u.ring k = s1.ring k) ∧ (u.ring n).done = cs ∧
      (u.ring n).fetched = (s1.ring n).fetched ∧ (u.ring n).unreleased = (s1.ring n).unreleased + 1 ∧
      (u.ring n).cqTail = ((s1.ring n).cqTail + 1) % s.cqSize n ∧
      (u.ring n).phase = (if ((s1.ring n).cqTail + 1) % s.cqSize n = 0 then !(s1.ring n).phase else (s1.ring n).phase) ∧
      u.out = s1.out ++ [.hostWrite (s.reg64 (Reg.HIF_RP_CQ_BASE_LO n) + 64 * (s1.ring n).cqTail) (s1.completionEntry n c)] := by
  obtain ⟨hp, hl, hc, hq⟩ := State.completionRing_stands h1 hn
  rw [← hp] at hb
  rw [← hc, ← hq]
  exact ⟨_, .of (manifestComplete_writes h1 hn hst hb hd) rfl, s1.completed_spec (hl ▸ hlen) c cs⟩

/-- Settles O51: each clause is the row of its command; an action that ends first leaves the pair's completion ring where it was. -/
theorem ringPairsRun : Obligations.RingPairsRun := by
  unfold Obligations.RingPairsRun
  intro n v ver bytes buf ok sig s
  refine ⟨fun h => ⟨.of (if_neg (Nat.not_lt.mpr h)) rfl, .of (if_neg (Nat.not_lt.mpr h)) rfl, .of (if_neg (Nat.not_lt.mpr h)) rfl⟩,
    fun hn hlen hR => ⟨?_, ?_, ?_, ?_, ?_, ?_⟩,
    fun hn => ⟨fun hp => ⟨answers_sqTail_held hn hp, answers_cqHead_held hn hp⟩, fun hp => ⟨?_, ?_, ?_, ?_, ?_⟩⟩,
    fun k => State.fetchable_iff, rfl, fun h => .of (manifestFetch_idle h) rfl, fun h => .of (manifestFetch_fetches h) rfl,
    fun hb hd => .of (manifestComplete_blocked hb hd) rfl, fun hd hf => .of (manifestComplete_idle hd hf) rfl,
    fun s1 c cs h1 => fun hn hlen hst hb hd => answers_manifestComplete h1 hn hlen hst hb hd,
    fun h => .of (hostDmaError_idle h) rfl, fun hn h => .of (hostDmaError_errs hn h) rfl,
    fun h => .of (deliveryTake_idle h) rfl, fun d ds hd => ⟨?_, ?_, ?_, ?_, ?_⟩,
    fun h => .of (deliveryTimeout_idle h) rfl, fun d ds h => .of (deliveryTimeout_drops h) rfl,
    fun h => .of (coalesceTimer_idle h) rfl, fun h hlen => ?_,
    answers_unstarted n ver buf ok sig s, fun m h => .of (manNop_starts h) rfl,
    fun m h => ⟨?_, fun f hf => ⟨?_, ?_, ?_, ?_, ?_, ?_⟩⟩,
    fun m h => ⟨.of (manHostSend_noData h) rfl, ?_, ?_, ?_⟩,
    fun m h => ⟨fun hb => .of (manInject_refused h hb) rfl, fun t ht hn => ⟨.of (manInject_noData h ht hn) rfl, ?_, ?_⟩⟩,
    fun m h => ⟨.of (manSubsysSet_written h) rfl, .of (manSubsysSet_failed h) rfl⟩, fun m h => .of (manCapArm_starts h) rfl,
    fun m h => .of (manCapTrigger_starts h) rfl, fun m h => .of (manCapAbort_starts h) rfl⟩
  · exact fun hd hv => .of ((ringCtrlWrite_disabled hn hd).trans (if_neg (Bool.eq_false_iff.mp hv))) (answers_ringPairEn hn hR)
  · exact fun hd hv hg => ⟨_, answers_ringPairEn hn hR, ringCtrlWrite_starts hn hlen hd hv hg⟩
  · exact fun hd hv hg => ⟨_, answers_ringPairEn hn hR, ringCtrlWrite_refused hn hlen hd hv hg⟩
  · exact fun h => .of (ringCtrlWrite_unmoved hn h) (answers_ringPairEn hn hR)
  · exact fun he hv => .of (ringCtrlWrite_error hn he hv) (answers_ringPairEn hn hR)
  · exact fun hr hv => .of (ringCtrlWrite_stops hn hr hv) (answers_ringPairEn hn hR)
  · exact fun hr => ⟨.of (sqTailDoorbell_error hn hr) (answers_sqTail hn hp), .of (cqHeadDoorbell_error hn hr) (answers_cqHead hn hp)⟩
  · exact fun hr hi => .of (sqTailDoorbell_moves hn hr hi) (answers_sqTail hn hp)
  · exact fun hr hi => .of (sqTailDoorbell_outside hn hr hi) (answers_sqTail hn hp)
  · exact fun hr h => .of (cqHeadDoorbell_outside hn hr h) (answers_cqHead hn hp)
  · exact fun hr hi hu => .of (cqHeadDoorbell_releases hn hr hi hu) (answers_cqHead hn hp)
  · exact fun h => .of (deliveryTake_down hd h) rfl
  · exact fun hu hl => .of (deliveryTake_tooLong hd hu hl) rfl
  · exact fun hu hl hf => .of (deliveryTake_writes hd hu hl hf) rfl
  · exact fun hu hl hf ht => .of (deliveryTake_untimed hd hu hl hf ht) rfl
  · exact fun hu hl hf ht => .of (deliveryTake_waits hd hu hl hf ht) rfl
  · obtain ⟨h1, h2, h3⟩ := s.coalDue_advance ((s.ring n).coalFrom + s.fld (Reg.HIF_RP_CTRL n) 16 16 * subPerUs) hlen
    exact ⟨_, .of (coalesceTimer_due h) rfl, h1, h2, h3, fun hn => State.coalDue_bit _ hn⟩
  · exact fun hf => answers_abort h (State.abortWith_none hf)
  · exact fun ho => answers_abort h ((State.abortWith_some hf).trans (State.abortTarget_abort ho))
  · exact fun ho hs => answers_abort h ((State.abortWith_some hf).trans (State.abortTarget_waiting ho hs))
  · exact fun hs hc => answers_abort h ((State.abortWith_some hf).trans (State.abortTarget_commit (s := s.start n m.mid) hs hc))
  · exact fun j hs ho hj => answers_abort h ((State.abortWith_some hf).trans (State.abortTarget_job (s := s.start n m.mid) hs ho hj))
  · exact fun hs h1 h2 h3 ha => answers_abort h ((State.abortWith_some hf).trans
      (State.abortTarget_act (s := s.start n m.mid) hs h1 h2 h3 ha))
  · exact fun hs h1 h2 h3 ha => answers_abort h ((State.abortWith_some hf).trans
      (State.abortTarget_waits (s := s.start n m.mid) hs h1 h2 h3 ha))
  · exact fun data hd => answers_hostSend h (State.hostSendWith_bad hd)
  · exact fun data hd => answers_hostSend h (State.hostSendWith_nothing hd)
  · exact fun data f fs hd => answers_hostSend h (State.hostSendWith_sends hd)
  · exact fun data hb => answers_inject h ht hn (State.injectWith_off (s := s.start n m.mid) hb)
  · exact fun data hb => ⟨fun hq => answers_inject h ht hn (State.injectWith_enters (s := s.start n m.mid) hb hq),
      fun hq => answers_inject h ht hn (State.injectWith_full (s := s.start n m.mid) hb hq)⟩

end Sys2Proof.Machine
end

section
/-! SUPPORT. Faults: what a report does to the collector (R480 to R484). -/

namespace Sys2Proof.Machine

variable {s t : State} {r : FaultReport} {cmd : Instr} {i j src code : Nat}

/-! ### What the collector keeps of a source -/

theorem State.fltSrc_of_srcs (h : t.flt.srcs = s.flt.srcs) (j : Nat) : t.fltSrc j = s.fltSrc j := by
  rw [State.fltSrc, State.fltSrc, h]

theorem State.fltSrc_count (s : State) (lo j : Nat) : (s.count lo).fltSrc j = s.fltSrc j := State.fltSrc_of_srcs (by rw [State.count_flt]) j

theorem State.fltSrc_modFltSrc (s : State) (i : Nat) (f : FltSrc → FltSrc) (j : Nat) :
    (s.modFltSrc i f).fltSrc j = if i = j then f (s.fltSrc i) else s.fltSrc j :=
  mapGet_put _ _ _ _ _

theorem State.fltSrc_modFltSrc_self (s : State) (i : Nat) (f : FltSrc → FltSrc) : (s.modFltSrc i f).fltSrc i = f (s.fltSrc i) := by
  rw [State.fltSrc_modFltSrc, if_pos rfl]

theorem State.fltSrc_modFltSrc_ne (s : State) {i j : Nat} (h : j ≠ i) (f : FltSrc → FltSrc) : (s.modFltSrc i f).fltSrc j = s.fltSrc j := by
  rw [State.fltSrc_modFltSrc, if_neg h.symm]

/-! ### An event is seen (R481, R484, R500) -/

/-- The state in which an event has been counted and shows in the units that it concerns. -/
def State.faultSeen (s : State) (r : FaultReport) : State :=
  let s0 := (s.count (Reg.FLT_CNT_LO 0)).modFltSrc r.src fun x => { x with events := min (x.events + 1) 65535 }
  let s1 := if r.src = 55 then s0.count (Reg.FLT_CNT_LO 8) else s0
  if r.cause ≠ 0 then s1
  else if r.src = 63 then ({ s1 with key := { s1.key with trngFail := true } }).event Reg.KEY_EVT 5
  else if r.src = 49 ∨ r.src = 72 ∨ r.src = 73 then s1.dramFails
  else s1

/-- What that leaves: beside the count of the source's events, the collector's record, DT and the configuration. -/
structure Seen (s : State) (src : Nat) (t : State) : Prop where
  flt : ∃ b, t.flt = { (s.modFltSrc src fun x => { x with events := min (x.events + 1) 65535 }).flt with dramFailed := b }
  dt : t.dt = s.dt
  cfg : t.cfg = s.cfg

theorem Seen.of (h : Seen s src t) {u : State} (h1 : u.flt = t.flt) (h2 : u.dt = t.dt) (h3 : u.cfg = t.cfg) : Seen s src u := by
  obtain ⟨⟨b, e⟩, hd, hc⟩ := h
  exact ⟨⟨b, h1.trans e⟩, h2.trans hd, h3.trans hc⟩

theorem Seen.event (h : Seen s src t) (o i : Nat) : Seen s src (t.event o i) := h.of (State.event_flt _ _ _) (State.event_dt _ _ _) (State.event_cfg _ _ _)

theorem Seen.withKey (h : Seen s src t) (key : Key) : Seen s src { t with key := key } := h.of rfl rfl rfl

theorem Seen.count (h : Seen s src t) (lo : Nat) : Seen s src (t.count lo) := h.of (State.count_flt _ _) (State.count_dt _ _) (State.count_cfg _ _)

theorem Seen.dramFails (h : Seen s src t) : Seen s src t.dramFails := by
  unfold State.dramFails
  split
  · exact h
  · obtain ⟨⟨b, e⟩, hd, hc⟩ := h
    have h1 : Seen s src (t.modFlt fun f => { f with dramFailed := true }) := ⟨⟨true, by rw [State.modFlt_flt, e]⟩, hd, hc⟩
    exact h1.event _ _

theorem State.faultSeen_seen (s : State) (r : FaultReport) : Seen s r.src (s.faultSeen r) := by
  unfold State.faultSeen
  extract_lets s0 s1
  have h0 : Seen s r.src s0 := by
    refine ⟨⟨s.flt.dramFailed, ?_⟩, ?_, ?_⟩
    · simp only [s0, State.modFltSrc, State.modFlt_flt, State.fltSrc, State.count_flt]
    · exact State.count_dt s (Reg.FLT_CNT_LO 0)
    · exact State.count_cfg s (Reg.FLT_CNT_LO 0)
  have h1 : Seen s r.src s1 := by
    unfold s1
    split
    · exact h0.count _
    · exact h0
  split
  · exact h1
  · split
    · exact (h1.withKey _).event _ _
    · split
      · exact h1.dramFails
      · exact h1

theorem Seen.fltSrc_self (h : Seen s src t) : t.fltSrc src = { s.fltSrc src with events := min ((s.fltSrc src).events + 1) 65535 } := by
  obtain ⟨⟨b, e⟩, -, -⟩ := h
  rw [State.fltSrc_of_srcs (s := s.modFltSrc src fun x => { x with events := min (x.events + 1) 65535 }) (by rw [e]),
    State.fltSrc_modFltSrc_self]

theorem Seen.fltSrc_ne (h : Seen s src t) (hj : j ≠ src) : t.fltSrc j = s.fltSrc j := by
  obtain ⟨⟨b, e⟩, -, -⟩ := h
  rw [State.fltSrc_of_srcs (s := s.modFltSrc src fun x => { x with events := min (x.events + 1) 65535 }) (by rw [e]),
    State.fltSrc_modFltSrc_ne _ hj]

/-! ### The first error, or one that overflows (R482) -/

/-- The state in which an event that is not merged has been recorded as the first error, or counted as one that came after it. -/
def State.faultRecorded (s : State) (r : FaultReport) : State :=
  if s.flt.fer.isSome then
    (((s.faultSeen r).modFlt fun f => { f with overflowed := true, overflow := min (f.overflow + 1) 65535 }).event Reg.FLT_EVT 1).count
      (Reg.FLT_CNT_LO 2)
  else
    ((((s.faultSeen r).modFlt fun f =>
      { f with fer := some ⟨r.src, r.cause, r.master, r.access, r.addr, r.at_⟩, handling := true, fencing := [] }).event Reg.FLT_EVT 0).count (Reg.FLT_CNT_LO 1)).setTs Reg.FLT_FER_AT_SUBNS r.at_

theorem State.setTs_flt (s : State) (o n : Nat) : (s.setTs o n).flt = s.flt := by simp only [State.setTs, State.setReg_flt]

theorem State.setTs_dt (s : State) (o n : Nat) : (s.setTs o n).dt = s.dt := by simp only [State.setTs, State.setReg_dt]

theorem State.setTs_cfg (s : State) (o n : Nat) : (s.setTs o n).cfg = s.cfg := by simp only [State.setTs, State.setReg_cfg]

theorem State.reg_setTs_ne (s : State) {o o' : Nat} (n : Nat) (h : o' < o ∨ o + 12 < o') : (s.setTs o n).reg o' = s.reg o' := by
  rw [State.setTs, State.reg_setReg_ne _ (by omega), State.reg_setReg_ne _ (by omega), State.reg_setReg_ne _ (by omega),
    State.reg_setReg_ne _ (by omega)]

theorem State.faultRecorded_first (h : s.flt.fer = none) :
    (s.faultRecorded r).flt = { (s.faultSeen r).flt with
      fer := some ⟨r.src, r.cause, r.master, r.access, r.addr, r.at_⟩, handling := true, fencing := [] } ∧
    ((s.faultRecorded r).reg Reg.FLT_EVT).getLsbD 0 = true ∧ (s.faultRecorded r).dt = s.dt ∧ (s.faultRecorded r).cfg = s.cfg := by
  have hs := s.faultSeen_seen r
  rw [State.faultRecorded, if_neg (by simp [h])]
  refine ⟨?_, ?_, ?_, ?_⟩
  · rw [State.setTs_flt, State.count_flt, State.event_flt, State.modFlt_flt]
  · rw [State.reg_setTs_ne _ _ (by simp), State.reg_count_ne _ (by simp) (by simp), State.getLsbD_reg_event _ _ (by omega)]
  · rw [State.setTs_dt, State.count_dt]
    exact hs.dt
  · rw [State.setTs_cfg, State.count_cfg]
    exact hs.cfg

theorem State.faultRecorded_later (h : s.flt.fer ≠ none) :
    (s.faultRecorded r).flt = { (s.faultSeen r).flt with overflowed := true, overflow := min ((s.faultSeen r).flt.overflow + 1) 65535 } ∧
    (s.faultRecorded r).dt = s.dt ∧ (s.faultRecorded r).cfg = s.cfg := by
  have hs := s.faultSeen_seen r
  rw [State.faultRecorded, if_pos (Option.isSome_iff_ne_none.mpr h)]
  refine ⟨?_, ?_, ?_⟩
  · rw [State.count_flt, State.event_flt, State.modFlt_flt]
  · rw [State.count_dt]
    exact hs.dt
  · rw [State.count_cfg]
    exact hs.cfg

theorem State.faultRecorded_srcs (s : State) (r : FaultReport) : (s.faultRecorded r).flt.srcs = (s.faultSeen r).flt.srcs ∧
    (s.faultRecorded r).dt = s.dt ∧ (s.faultRecorded r).cfg = s.cfg := by
  by_cases h : s.flt.fer = none
  · obtain ⟨hf, -, hd, hc⟩ := State.faultRecorded_first (r := r) h
    exact ⟨by rw [hf], hd, hc⟩
  · obtain ⟨hf, hd, hc⟩ := State.faultRecorded_later (r := r) h
    exact ⟨by rw [hf], hd, hc⟩

/-! ### Classification (R484) -/

theorem State.srcEntry_of_cfg (h : t.cfg = s.cfg) (i : Nat) : t.srcEntry i = s.srcEntry i := by
  rw [State.srcEntry, State.srcEntry, h]

theorem State.classify_threshold (h : bitsOf (s.srcEntry src) 8 8 ≤ (s.fltSrc src).level + 1) : s.classify src =
    ((s.modFltSrc src fun x => { x with level := 0, at_ := s.dt }).count (Reg.FLT_CNT_LO 7), bitsOf (s.srcEntry src) 4 3) := if_pos h

theorem State.classify_below (h : (s.fltSrc src).level + 1 < bitsOf (s.srcEntry src) 8 8) : s.classify src =
    (s.modFltSrc src fun x => { x with level := (s.fltSrc src).level + 1, at_ := s.dt }, bitsOf (s.srcEntry src) 0 3) :=
  if_neg (Nat.not_le.mpr h)

/-- Classification moves the source alone in the collector. -/
theorem State.classify_moves (s : State) (src : Nat) :
    (s.classify src).1.flt = { s.flt with srcs := (s.classify src).1.flt.srcs } ∧
      (s.classify src).1.reg Reg.FLT_EVT = s.reg Reg.FLT_EVT ∧ ∀ j, j ≠ src → (s.classify src).1.fltSrc j = s.fltSrc j := by
  by_cases h : bitsOf (s.srcEntry src) 8 8 ≤ (s.fltSrc src).level + 1
  · rw [State.classify_threshold h]
    refine ⟨by rw [State.count_flt]; rfl, ?_, fun j hj => ?_⟩
    · exact State.reg_count_ne _ (by simp) (by simp)
    · rw [State.fltSrc_count, State.fltSrc_modFltSrc_ne _ hj]
  · rw [State.classify_below (Nat.not_le.mp h)]
    exact ⟨rfl, rfl, fun j hj => State.fltSrc_modFltSrc_ne _ hj _⟩

/-! ### An event taken -/

/-- The state in which an event has been recorded and classified, with its reaction. -/
def State.faultClassified (s : State) (r : FaultReport) : State × Nat :=
  let c := (s.faultRecorded r).classify r.src
  (if s.flt.fer.isSome then c.1 else c.1.modFlt fun f => { f with fencing := c.1.reactionFences r c.2 }, c.2)

theorem State.faultTake_eq (s : State) (r : FaultReport) : s.faultTake r =
    if s.srcMasked r.src ∨ ((s.fltSrc r.src).broken ∧ r.cause ≠ 1) then s
    else if s.merges r then ((s.faultSeen r).modFlt fun f => { f with merged := min (f.merged + 1) 65535 }).count (Reg.FLT_CNT_LO 3)
    else if (s.faultClassified r).2 = 0 ∧ s.flt.fer.isNone then
      ((s.faultClassified r).1.react r (s.faultClassified r).2).modFlt fun f => { f with handling := false }
    else (s.faultClassified r).1.react r (s.faultClassified r).2 := rfl

theorem State.merges_iff : s.merges r = true ↔
    s.flt.handling = true ∧ ∃ y, s.flt.fer = some y ∧ (y.src = r.src ∨ r.master ∈ s.flt.fencing) ∧ y.at_ ≠ r.at_ := by
  cases hf : s.flt.fer <;> simp [State.merges, hf]

/-- What taking an event, not merged, does to the collector before its reaction. -/
def State.ClassifiedAs (s : State) (r : FaultReport) (u : State) (code : Nat) : Prop :=
  (s.flt.fer = none → u.flt.fer = some ⟨r.src, r.cause, r.master, r.access, r.addr, r.at_⟩ ∧ u.flt.handling = true ∧
    u.flt.fencing = (if 3 ≤ code then (u.fenceTarget r).toList else []) ∧ (u.reg Reg.FLT_EVT).getLsbD 0 = true) ∧
  (s.flt.fer ≠ none → u.flt.fer = s.flt.fer ∧ u.flt.fencing = s.flt.fencing ∧ u.flt.overflowed = true ∧
    u.flt.overflow = min (s.flt.overflow + 1) 65535) ∧
  (bitsOf (s.srcEntry r.src) 8 8 ≤ (s.fltSrc r.src).level + 1 → code = bitsOf (s.srcEntry r.src) 4 3 ∧
    u.fltSrc r.src = { s.fltSrc r.src with level := 0, at_ := s.dt, events := min ((s.fltSrc r.src).events + 1) 65535 }) ∧
  ((s.fltSrc r.src).level + 1 < bitsOf (s.srcEntry r.src) 8 8 → code = bitsOf (s.srcEntry r.src) 0 3 ∧
    u.fltSrc r.src = { s.fltSrc r.src with level := (s.fltSrc r.src).level + 1, at_ := s.dt, events := min ((s.fltSrc r.src).events + 1) 65535 }) ∧
  ∀ j, j ≠ r.src → u.fltSrc j = s.fltSrc j

theorem State.faultClassified_first (h : s.flt.fer = none) (r : FaultReport) : (s.faultClassified r).1 =
    ((s.faultRecorded r).classify r.src).1.modFlt fun f =>
      { f with fencing := ((s.faultRecorded r).classify r.src).1.reactionFences r ((s.faultRecorded r).classify r.src).2 } := if_neg (by simp [h])

theorem State.faultClassified_later (h : s.flt.fer ≠ none) (r : FaultReport) :
    (s.faultClassified r).1 = ((s.faultRecorded r).classify r.src).1 := if_pos (Option.isSome_iff_ne_none.mpr h)

theorem State.fltSrc_faultClassified (s : State) (r : FaultReport) (j : Nat) :
    (s.faultClassified r).1.fltSrc j = ((s.faultRecorded r).classify r.src).1.fltSrc j := by
  by_cases h : s.flt.fer = none
  · rw [State.faultClassified_first h]
    rfl
  · rw [State.faultClassified_later h]

theorem State.faultClassified_spec (s : State) (r : FaultReport) : s.ClassifiedAs r (s.faultClassified r).1 (s.faultClassified r).2 := by
  have hseen := s.faultSeen_seen r
  obtain ⟨hsrcs, hdt, hcfg⟩ := s.faultRecorded_srcs r
  obtain ⟨hflt, hreg, hne⟩ := (s.faultRecorded r).classify_moves r.src
  have hx (j : Nat) : (s.faultRecorded r).fltSrc j = (s.faultSeen r).fltSrc j := State.fltSrc_of_srcs hsrcs j
  have hself : (s.faultRecorded r).fltSrc r.src = { s.fltSrc r.src with events := min ((s.fltSrc r.src).events + 1) 65535 } :=
    (hx _).trans hseen.fltSrc_self
  have hlevel : ((s.faultRecorded r).fltSrc r.src).level = (s.fltSrc r.src).level := by rw [hself]
  have hentry : (s.faultRecorded r).srcEntry r.src = s.srcEntry r.src := State.srcEntry_of_cfg hcfg _
  obtain ⟨b, hb⟩ := hseen.flt
  refine ⟨fun h => ?_, fun h => ?_, fun h => ?_, fun h => ?_, fun j hj => ?_⟩
  · obtain ⟨hf, hevt, -, -⟩ := State.faultRecorded_first (r := r) h
    rw [State.faultClassified_first h]
    refine ⟨?_, ?_, rfl, ?_⟩
    · rw [State.modFlt_flt, hflt, hf]
    · rw [State.modFlt_flt, hflt, hf]
    · exact (congrArg (·.getLsbD 0) hreg).trans hevt
  · obtain ⟨hf, -, -⟩ := State.faultRecorded_later (r := r) h
    rw [State.faultClassified_later h, hflt, hf, hb]
    exact ⟨rfl, rfl, rfl, rfl⟩
  · have hc := State.classify_threshold (s := s.faultRecorded r) (src := r.src) (by rw [hentry, hlevel]; exact h)
    refine ⟨?_, ?_⟩
    · show ((s.faultRecorded r).classify r.src).2 = _
      rw [hc, hentry]
    · rw [State.fltSrc_faultClassified, hc, State.fltSrc_count, State.fltSrc_modFltSrc_self, hself, hdt]
  · have hc := State.classify_below (s := s.faultRecorded r) (src := r.src) (by rw [hentry, hlevel]; exact h)
    refine ⟨?_, ?_⟩
    · show ((s.faultRecorded r).classify r.src).2 = _
      rw [hc, hentry]
    · rw [State.fltSrc_faultClassified, hc, State.fltSrc_modFltSrc_self, hself, hdt]
  · rw [State.fltSrc_faultClassified, hne j hj, hx, hseen.fltSrc_ne hj]

/-- What a command answers that brings an event to the collector. -/
def State.Takes (s : State) (cmd : Instr) (s1 : State) (r : FaultReport) : Prop :=
  let dead : Prop := s1.srcMasked r.src = true ∨ ((s1.fltSrc r.src).broken = true ∧ r.cause ≠ 1)
  let merged : Prop := s1.flt.handling = true ∧ ∃ y, s1.flt.fer = some y ∧ (y.src = r.src ∨ r.master ∈ s1.flt.fencing) ∧ y.at_ ≠ r.at_
  (dead → Answers cmd s s1) ∧
  (¬dead → merged → ∃ u, Answers cmd s u ∧ u.flt.fer = s1.flt.fer ∧ u.flt.merged = min (s1.flt.merged + 1) 65535 ∧
    u.fltSrc r.src = { s1.fltSrc r.src with events := min ((s1.fltSrc r.src).events + 1) 65535 } ∧
    ∀ j, j ≠ r.src → u.fltSrc j = s1.fltSrc j) ∧
  (¬dead → ¬merged → ∃ (u : State) (code : Nat),
    Answers cmd s (if code = 0 ∧ s1.flt.fer = none then (u.react r code).modFlt fun f => { f with handling := false } else u.react r code) ∧
    s1.ClassifiedAs r u code)

theorem Takes.of_answers {s1 : State} (h : Answers cmd s (s1.faultTake r)) : s.Takes cmd s1 r := by
  refine ⟨fun hd => .of ((s1.faultTake_eq r).trans (if_pos hd)) h, fun hd hm => ?_, fun hd hm => ?_⟩
  · have hseen := s1.faultSeen_seen r
    obtain ⟨b, hb⟩ := hseen.flt
    refine ⟨_, .of ((s1.faultTake_eq r).trans ((if_neg hd).trans (if_pos (State.merges_iff.mpr hm)))) h, ?_, ?_, ?_, fun j hj => ?_⟩
    · rw [State.count_flt, State.modFlt_flt, hb]
      rfl
    · rw [State.count_flt, State.modFlt_flt, hb]
      rfl
    · exact (State.fltSrc_count _ _ _).trans hseen.fltSrc_self
    · exact (State.fltSrc_count _ _ _).trans (hseen.fltSrc_ne hj)
  · refine ⟨_, _, .of ((s1.faultTake_eq r).trans ((if_neg hd).trans ((if_neg (mt State.merges_iff.mp hm)).trans ?_))) h,
      s1.faultClassified_spec r⟩
    simp only [Option.isNone_iff_eq_none]

end Sys2Proof.Machine
end
section
/-! SUPPORT. Faults: which report is next, levels, the record's release, injections and releases (R480 to R492, R503). -/

namespace Sys2Proof.Machine

variable {s t : State} {r : FaultReport} {rs : List FaultReport} {i j n src code owner : Nat} {v : Word} {mid : Option Nat}

/-! ### The report that is next (R483) -/

theorem Flt.nextReport_none {f : Flt} (h : f.reports = []) : f.nextReport = none := by
  rw [Flt.nextReport, h]

theorem Flt.nextReport_oldest {f : Flt} (h : f.reports = r :: rs) (hf : f.fer ≠ none) : f.nextReport = some r := by
  rw [Flt.nextReport, h]
  exact if_pos (Option.isSome_iff_ne_none.mpr hf)

/-- The lower source of two. -/
theorem FaultReport.foldl_lowest (p : FaultReport → Prop) : ∀ (l : List FaultReport) (m : FaultReport), p m → (∀ x ∈ l, p x) →
    p (l.foldl (fun (m : FaultReport) x => if x.src < m.src then x else m) m) ∧
      (l.foldl (fun (m : FaultReport) x => if x.src < m.src then x else m) m).src ≤ m.src ∧
      ∀ x ∈ l, (l.foldl (fun (m : FaultReport) x => if x.src < m.src then x else m) m).src ≤ x.src
  | [], m, hm, _ => ⟨hm, Nat.le_refl _, fun _ h => absurd h List.not_mem_nil⟩
  | a :: l, m, hm, hl => by
    have hm' : p (if a.src < m.src then a else m) := by
      split
      · exact hl a List.mem_cons_self
      · exact hm
    have hle : (if a.src < m.src then a else m).src ≤ m.src ∧ (if a.src < m.src then a else m).src ≤ a.src := by
      split <;> omega
    obtain ⟨h1, h2, h3⟩ := FaultReport.foldl_lowest p l _ hm' fun x hx => hl x (List.mem_cons_of_mem _ hx)
    refine ⟨h1, h2.trans hle.1, fun x hx => ?_⟩
    rcases List.mem_cons.mp hx with rfl | hx
    · exact h2.trans hle.2
    · exact h3 x hx

theorem Flt.nextReport_lowest {f : Flt} (h : f.reports = r :: rs) (hf : f.fer = none) :
    ∃ y, f.nextReport = some y ∧ y ∈ f.reports ∧ y.at_ = r.at_ ∧ ∀ x ∈ f.reports, x.at_ = r.at_ → y.src ≤ x.src := by
  obtain ⟨⟨hm, hat⟩, hr, hl⟩ := FaultReport.foldl_lowest (fun y => y ∈ r :: rs ∧ y.at_ = r.at_) (rs.filter fun x => x.at_ == r.at_) r
    ⟨List.mem_cons_self, rfl⟩ fun x hx =>
      ⟨List.mem_cons_of_mem _ (List.mem_filter.mp hx).1, eq_of_beq (List.mem_filter.mp hx).2⟩
  refine ⟨_, ?_, h ▸ hm, hat, fun x hx hxa => ?_⟩
  · rw [Flt.nextReport, h]
    exact if_neg (by simp [hf])
  · rw [h] at hx
    rcases List.mem_cons.mp hx with rfl | hx
    · exact hr
    · exact hl x (List.mem_filter.mpr ⟨hx, beq_iff_eq.mpr hxa⟩)

theorem State.takeReport_none (h : s.flt.reports = []) : s.takeReport = s := by
  rw [State.takeReport, Flt.nextReport_none h]

theorem State.takeReport_some (h : s.flt.nextReport = some r) :
    s.takeReport = (s.modFlt fun f => { f with reports := f.reports.erase r }).faultTake r := by
  rw [State.takeReport, h]

/-! ### Events from outside (R447, R481, R483) -/

theorem faultEventRow_corrected {ext : FaultIn} (h : ext.corrected = true) :
    faultEventRow (some ext) s = (s.count32 Reg.CFG_ECC_CE).event Reg.CFG_EVT 4 := if_pos h

theorem State.reportFirst_iff : s.reportFirst src = true ↔ s.flt.fer = none ∧ ∃ q, s.flt.nextReport = some q ∧ (q.at_ < s.dt ∨ q.src < src) := by
  cases hq : s.flt.nextReport <;> simp [State.reportFirst, hq]

theorem faultEventRow_takes {ext : FaultIn} {s0 : State} (h : ext.corrected = false)
    (h1 : (s.flt.fer = none ∧ ∃ q, s.flt.nextReport = some q ∧ (q.at_ < s.dt ∨ q.src < ext.src)) → s0 = s.takeReport)
    (h2 : ¬(s.flt.fer = none ∧ ∃ q, s.flt.nextReport = some q ∧ (q.at_ < s.dt ∨ q.src < ext.src)) → s0 = s) :
    faultEventRow (some ext) s =
      let s1 := if ext.src = 49 then s0.eccUncorrectable ext.addr else if ext.src = 63 then s0.trngFails else s0
      s1.faultTake ⟨ext.src, 0, ext.master % 64, ext.access, ext.addr, s1.dt⟩ := by
  have e : (if s.reportFirst ext.src = true then s.takeReport else s) = s0 := by
    by_cases hb : s.reportFirst ext.src = true
    · exact (if_pos hb).trans (h1 (State.reportFirst_iff.mp hb)).symm
    · exact (if_neg hb).trans (h2 (mt State.reportFirst_iff.mpr hb)).symm
  unfold faultEventRow
  simp only [h, e]
  rfl

/-! ### The lowest reactions (R485) -/

/-- INTERRUPT and below set no state but the source's, and bring one record and one alarm input. -/
theorem State.reactOwn_notifies (s : State) (src : Nat) (h1 : 1 ≤ code) (h2 : code ≤ 2) :
    (s.reactOwn src code).flt = (s.modFltSrc src fun x => { x with lastReaction := code }).flt ∧
      (s.reactOwn src code).logb.raised.length = s.logb.raised.length + 1 ∧
      (s.reactOwn src code).alm.input.length = s.alm.input.length + 1 ∧
      (code = 2 → ((s.reactOwn src code).reg Reg.FLT_EVT).getLsbD 2 = true) := by
  have e : s.reactOwn src code =
      let s2 := ((s.modFltSrc src fun x => { x with lastReaction := code }).logRaise 9 (unitCode 20) 2 [src, code]).almSend
        { op := .raise, src := 5, sub := 0, kind := code, key := src, sev := 1 }
      if 2 ≤ code then s2.event Reg.FLT_EVT 2 else s2 := by
    unfold State.reactOwn
    rw [if_neg (by omega)]
    simp only [if_neg (show ¬4 ≤ code by omega), eq_false (show ¬5 ≤ code by omega), false_and, if_false, if_neg (show ¬code = 6 by omega)]
  rw [e]
  by_cases h : 2 ≤ code
  · simp only [if_pos h]
    refine ⟨?_, ?_, ?_, fun _ => State.getLsbD_reg_event _ _ (by omega)⟩
    · rw [State.event_flt]
      rfl
    · rw [State.event_logb]
      exact List.length_append
    · rw [State.event_alm]
      exact List.length_append
  · simp only [if_neg h]
    exact ⟨rfl, List.length_append, List.length_append, fun hc => absurd hc (by omega)⟩

/-! ### Broken sources and levels (R480, R484) -/

theorem State.breakSrc_already (h : s.srcMasked i = true ∨ (s.fltSrc i).broken = true) : s.breakSrc i = s := if_pos h

theorem State.breakSrc_takes (h1 : s.srcMasked i = false) (h2 : (s.fltSrc i).broken = false) : s.breakSrc i =
    (((s.modFltSrc i fun x => { x with broken := true }).event Reg.FLT_EVT 5).count (Reg.FLT_CNT_LO 6)).faultTake
      ⟨i, 1, srcMaster i, 0, 0, s.dt⟩ := if_neg (by simp [h1, h2])

theorem State.advance_flt (s : State) (w : Nat) : (s.advance w).flt = s.flt := by
  unfold State.advance
  split
  · exact State.countBy_flt _ _ _
  · rfl

theorem faultLevelDecayRow_none (h : (s.fltSrc i).level = 0) : faultLevelDecayRow i s = s := if_pos h

/-- A source whose level has fallen by one at a time. -/
def State.levelDecayed (s : State) (i w : Nat) : State :=
  (s.advance w).modFltSrc i fun x => { x with level := x.level - 1, at_ := (s.advance w).dt }

theorem State.levelDecayed_spec (s : State) (i w : Nat) : (s.levelDecayed i w).dt = max s.dt w ∧
    (s.levelDecayed i w).fltSrc i = { s.fltSrc i with level := (s.fltSrc i).level - 1, at_ := (s.levelDecayed i w).dt } ∧
    ∀ j, j ≠ i → (s.levelDecayed i w).fltSrc j = s.fltSrc j := by
  have hs (j : Nat) : (s.advance w).fltSrc j = s.fltSrc j := State.fltSrc_of_srcs (by rw [State.advance_flt]) j
  refine ⟨s.advance_dt w, (State.fltSrc_modFltSrc_self _ _ _).trans ?_, fun j hj => (State.fltSrc_modFltSrc_ne _ hj _).trans (hs j)⟩
  rw [hs]
  rfl

theorem faultLevelDecayRow_decays (h : (s.fltSrc i).level ≠ 0) :
    faultLevelDecayRow i s = s.levelDecayed i ((s.fltSrc i).at_ + bitsOf (s.srcEntry i) 16 16 * 10 * subPerMs) := by
  unfold faultLevelDecayRow State.levelDecayed
  exact if_neg h

/-! ### The reaction's end and the record's release (R482, R487, R504) -/

theorem faultReactionDoneRow_plain (h : s.flt.safePending = false) :
    faultReactionDoneRow s = s.modFlt fun f => { f with handling := false, fencing := [] } :=
  congrArg (State.modFlt · fun f => { f with handling := false, fencing := [] }) (if_neg (Bool.eq_false_iff.mp h))

theorem faultReactionDoneRow_stops (h : s.flt.safePending = true) :
    faultReactionDoneRow s = s.stopNow.modFlt fun f => { f with handling := false, fencing := [] } :=
  congrArg (State.modFlt · fun f => { f with handling := false, fencing := [] }) (if_pos h)

theorem fltFerReleaseRow_none (h : v.getLsbD 0 = false) : fltFerReleaseRow v s = s := if_neg (Bool.eq_false_iff.mp h)

theorem fltFerReleaseRow_releases (h : v.getLsbD 0 = true) :
    (fltFerReleaseRow v s).flt = { s.flt with fer := none, overflowed := false, merged := 0, overflow := 0 } ∧
      (fltFerReleaseRow v s).reg Reg.FLT_EVT = s.reg Reg.FLT_EVT := by
  rw [fltFerReleaseRow, if_pos h]
  exact ⟨State.setTs_flt _ _ _, State.reg_setTs_ne _ _ (by simp)⟩

/-! ### Injections (R503) -/

theorem fltInjectGoRow_none (h : v.getLsbD 31 = false ∨ s.bit Reg.FLT_CTRL 1 = false) : fltInjectGoRow v s = s :=
  if_neg fun hc => h.elim (Bool.eq_false_iff.mp · hc.1) (Bool.eq_false_iff.mp · hc.2)

theorem fltInjectGoRow_injects (h : v.getLsbD 31 = true) (hb : s.bit Reg.FLT_CTRL 1 = true) :
    fltInjectGoRow v s = s.inject (bitsOf v.toNat 0 7) (v.getLsbD 8) := if_pos ⟨h, hb⟩

theorem State.inject_event {b : Bool} (h : b = false) : s.inject src b = s.report src 2 (srcMaster src) 0 0 :=
  if_neg (Bool.eq_false_iff.mp h)

theorem State.inject_breaks {b : Bool} (h : b = true) : s.inject src b = s.breakSrc src := if_pos h

theorem manFltInject_refused {m : Fetched} (h : s.Starts n 0x00C2 m) (hb : s.bit Reg.FLT_CTRL 1 = false) :
    manFltInject n s = (s.start n m.mid).finish0 m.mid stRefused :=
  (State.runManifest_starts h _).trans (if_neg (Bool.eq_false_iff.mp hb))

theorem manFltInject_injects {m : Fetched} (h : s.Starts n 0x00C2 m) (hb : s.bit Reg.FLT_CTRL 1 = true) : manFltInject n s =
    ((s.start n m.mid).inject (bitsOf (byteAt m.bytes 20) 0 7) (bitOf (byteAt m.bytes 21) 0)).finish0 m.mid stDone :=
  (State.runManifest_starts h _).trans (if_pos hb)

/-! ### Releases (R492) -/

theorem State.releaseReq_unfenced (h : ¬s.ownerFenced owner = true) : s.releaseReq owner mid = s.releaseEnd 2 mid :=
  if_pos (by simpa using h)

section fenced

variable (h : s.ownerFenced owner = true)
include h

theorem State.releaseReq_underWay (hr : s.flt.release ≠ none) : s.releaseReq owner mid = s.finishOpt mid stBusy 4 [] := by
  obtain ⟨x, hx⟩ := Option.ne_none_iff_exists'.mp hr
  unfold State.releaseReq
  simp [h, hx]

variable (hr : s.flt.release = none)
include hr

theorem State.releaseReq_busy (hb : s.bst.running = true ∨ s.plt.rot ≠ none ∨ ∃ x ∈ s.flt.reports, x.src = owner ∧ x.at_ = s.dt) :
    s.releaseReq owner mid = s.releaseEnd 4 mid := by
  have hc : s.flt.release.isSome = true ∨ s.bst.running = true ∨ s.plt.rot.isSome = true ∨
      (s.flt.reports.any fun x => x.src == owner && x.at_ == s.dt) = true := by
    refine .inr (hb.imp id (Or.imp Option.isSome_iff_ne_none.mpr fun ⟨x, hx, h1, h2⟩ => ?_))
    exact List.any_eq_true.mpr ⟨x, hx, by simp [h1, h2]⟩
  unfold State.releaseReq
  rw [if_neg (by simp [h]), if_pos hc, hr]

theorem State.releaseReq_starts (hb : ¬(s.bst.running = true ∨ s.plt.rot ≠ none ∨ ∃ x ∈ s.flt.reports, x.src = owner ∧ x.at_ = s.dt)) :
    s.releaseReq owner mid = s.modFlt fun f => { f with release := some ⟨owner, mid⟩, relDone := false } := by
  have hc : ¬(s.flt.release.isSome = true ∨ s.bst.running = true ∨ s.plt.rot.isSome = true ∨
      (s.flt.reports.any fun x => x.src == owner && x.at_ == s.dt) = true) := by
    refine fun hc => hb ((hc.resolve_left (by simp [hr])).imp id (Or.imp Option.isSome_iff_ne_none.mp fun ha => ?_))
    obtain ⟨x, hx, he⟩ := List.any_eq_true.mp ha
    exact ⟨x, hx, by simpa using he⟩
  unfold State.releaseReq
  rw [if_neg (by simp [h]), if_neg hc]

end fenced

theorem fltReleaseGoRow_none (h : v.getLsbD 31 = false) : fltReleaseGoRow v s = s := if_neg (Bool.eq_false_iff.mp h)

theorem fltReleaseGoRow_requests (h : v.getLsbD 31 = true) : fltReleaseGoRow v s = s.releaseReq (bitsOf v.toNat 0 6) none := if_pos h

theorem manFltRelease_starts {m : Fetched} (h : s.Starts n 0x00C1 m) :
    manFltRelease n s = (s.start n m.mid).releaseReq (bitsOf (byteAt m.bytes 20) 0 6) (some m.mid) := State.runManifest_starts h _

end Sys2Proof.Machine
end
section
/-! SUPPORT. Self-test runs (R492 to R497, R505). -/

namespace Sys2Proof.Machine

variable {s t : State} {i j n e : Nat} {mid : Option Nat} {pass : Bool} {r : Release}

/-! ### Requests (R495 to R497) -/

/-- Whether a run, a rotation or a release is under way. -/
def State.TestBusy (s : State) : Prop := s.bst.running = true ∨ s.plt.rot ≠ none ∨ s.flt.release ≠ none

theorem State.testBusy_iff : (s.bst.running = true ∨ s.plt.rot.isSome = true ∨ s.flt.release.isSome = true) ↔ s.TestBusy :=
  or_congr Iff.rfl (or_congr Option.isSome_iff_ne_none Option.isSome_iff_ne_none)

/-- Whether a slice that is no engine's can be tested alone. -/
def State.TestsApart (s : State) (i : Nat) : Prop :=
  (i = 41 ∧ ∀ c ∈ s.cap.ch, c.st ≠ .armed ∧ c.st ≠ .triggered) ∨ (i = 45 ∧ s.twn.role = .solo)

/-- What a single slice test comes to when nothing is under way and the slice is present. -/
def State.sliceBegun (s : State) (i : Nat) (mid : Option Nat) : State :=
  if !(decide (i < 32) || (i == 41 && s.cap.ch.all fun c => c.st != .armed && c.st != .triggered) || (i == 45 && s.twn.role == .solo)) then
    s.bstRefuse 5 mid
  else if i < 32 then
    if (s.rotRequest i 2 none).plt.rot.isSome then (s.rotRequest i 2 none).bstBegin 0 i mid else (s.rotRequest i 2 none).bstRefuse 3 mid
  else s.bstBegin 0 i mid

theorem State.bstSlice_eq : s.bstSlice i mid =
    if s.bst.running = true ∨ s.plt.rot.isSome = true ∨ s.flt.release.isSome = true then s.bstRefuse 3 mid
    else if s.sliceAbsent i = true then ((s.bstBegin 0 i mid).modBst fun b => { b with res := mapSet b.res i 1 }).bstEnd 1
    else s.sliceBegun i mid := rfl

theorem State.bstSlice_busy (h : s.TestBusy) : s.bstSlice i mid = s.bstRefuse 3 mid := if_pos (State.testBusy_iff.mpr h)

section idle

variable (h : ¬s.TestBusy)
include h

theorem State.bstSlice_absent (ha : s.sliceAbsent i = true) :
    s.bstSlice i mid = ((s.bstBegin 0 i mid).modBst fun b => { b with res := mapSet b.res i 1 }).bstEnd 1 := by
  rw [State.bstSlice_eq, if_neg (mt State.testBusy_iff.mp h), if_pos ha]

variable (ha : s.sliceAbsent i = false)
include ha

theorem State.bstSlice_present : s.bstSlice i mid = s.sliceBegun i mid := by
  rw [State.bstSlice_eq, if_neg (mt State.testBusy_iff.mp h), if_neg (Bool.eq_false_iff.mp ha)]

theorem State.bstSlice_refused (hi : 32 ≤ i) (hp : ¬s.TestsApart i) : s.bstSlice i mid = s.bstRefuse 5 mid := by
  rw [State.bstSlice_present h ha, State.sliceBegun, if_pos]
  have hlt : ¬i < 32 := by omega
  simpa [State.TestsApart, hlt, imp_iff_not_or] using hp

theorem State.bstSlice_apart (hi : 32 ≤ i) (hp : s.TestsApart i) : s.bstSlice i mid = s.bstBegin 0 i mid := by
  have hlt : ¬i < 32 := by omega
  rw [State.bstSlice_present h ha, State.sliceBegun, if_neg, if_neg hlt]
  have hb : ((i == 41 && s.cap.ch.all fun c => c.st != .armed && c.st != .triggered) || (i == 45 && s.twn.role == .solo)) = true := by
    simpa [State.TestsApart] using hp
  simp only [Bool.or_assoc, hb, Bool.or_true]
  decide

theorem State.bstSlice_engine (hi : i < 32) : s.bstSlice i mid =
    if (s.rotRequest i 2 none).plt.rot.isSome then (s.rotRequest i 2 none).bstBegin 0 i mid else (s.rotRequest i 2 none).bstRefuse 3 mid := by
  rw [State.bstSlice_present h ha, State.sliceBegun, if_neg (by simp [hi]), if_pos hi]

end idle

theorem State.bstWhole_refused (h : s.twn.role ≠ .standby ∨ s.TestBusy) : s.bstWhole mid = s.bstRefuse 3 mid :=
  if_pos (h.imp id State.testBusy_iff.mpr)

theorem State.bstWhole_begins (hr : s.twn.role = .standby) (h : ¬s.TestBusy) :
    s.bstWhole mid = ((s.bstBegin 1 0 mid).count (Reg.BST_CNT_LO 2)).alnNote :=
  if_neg fun hc => hc.elim (· hr) fun hb => h (State.testBusy_iff.mp hb)

theorem RingsMoved.twn (h : RingsMoved s t) : t.twn = s.twn := by
  obtain ⟨_, _, _, rfl⟩ := h
  rfl

theorem State.finishOpt_ringsMoved (s : State) (mid : Option Nat) (st d0 : Nat) (b : List Byte) : RingsMoved s (s.finishOpt mid st d0 b) := by
  unfold State.finishOpt
  split
  · exact s.finish_ringsMoved _ _ _ _
  · exact .refl s

/-- The end of a run leaves the twin as it is. -/
theorem State.bstEnd_twn (s : State) (result : Nat) : (s.bstEnd result).twn = s.twn := by
  unfold State.bstEnd
  extract_lets s1 s2
  have h1 : s1.twn = s.twn := State.event_twn _ _ _
  have h2 : s2.twn = s.twn := by
    unfold s2
    split
    · exact (State.event_twn _ _ _).trans h1
    · exact h1
  exact ((s2.logRaise 13 (unitCode 21) 0 [s.bst.slice, result]).finishOpt_ringsMoved _ _ _ _).twn.trans h2

/-- A shutdown run ends a test that is under way, then begins. -/
theorem State.bstShutdown_eq (s : State) (mid : Option Nat) : s.bstShutdown mid =
    if s.twn.role = .active then (((if s.bst.running then s.bstEnd 4 else s).bstBegin 2 0 mid).hoRequest true none).shutdownGo
    else ((if s.bst.running then s.bstEnd 4 else s).bstBegin 2 0 mid).shutdownGo := by
  have hrole : ((if s.bst.running then s.bstEnd 4 else s).bstBegin 2 0 mid).twn = s.twn := by
    show (if s.bst.running then s.bstEnd 4 else s).twn = s.twn
    split
    · exact s.bstEnd_twn 4
    · rfl
  unfold State.bstShutdown
  simp only [hrole]
  split <;> rfl

theorem State.bstShutdown_other (h : s.twn.role ≠ .active) (mid : Option Nat) :
    s.bstShutdown mid = ((if s.bst.running then s.bstEnd 4 else s).bstBegin 2 0 mid).shutdownGo :=
  (s.bstShutdown_eq mid).trans (if_neg h)

theorem State.bstShutdown_active (h : s.twn.role = .active) (mid : Option Nat) :
    s.bstShutdown mid = (((if s.bst.running then s.bstEnd 4 else s).bstBegin 2 0 mid).hoRequest true none).shutdownGo :=
  (s.bstShutdown_eq mid).trans (if_pos h)

theorem bstCtrlAbortRow_none (h : ¬(s.bst.running = true ∧ s.bst.mode = 1)) : bstCtrlAbortRow s = s := if_neg h

theorem bstCtrlAbortRow_aborts (h : s.bst.running = true) (h1 : s.bst.mode = 1) :
    bstCtrlAbortRow s = s.modBst fun b => { b with abort := true } := if_pos ⟨h, h1⟩

section manifest

variable {m : Fetched} (h : s.Starts n 0x00C0 m)
include h

theorem manBstRun_slice (hm : bitsOf (byteAt m.bytes 20) 0 2 = 0) :
    manBstRun n s = (s.start n m.mid).bstSlice (bitsOf (byteAt m.bytes 21) 0 6) (some m.mid) := by
  refine (State.runManifest_starts h _).trans ?_
  simp only [hm]

theorem manBstRun_whole (hm : bitsOf (byteAt m.bytes 20) 0 2 = 1) : manBstRun n s = (s.start n m.mid).bstWhole (some m.mid) := by
  refine (State.runManifest_starts h _).trans ?_
  simp only [hm]

theorem manBstRun_shutdown (hm : 2 ≤ bitsOf (byteAt m.bytes 20) 0 2) : manBstRun n s = (s.start n m.mid).bstShutdown (some m.mid) := by
  refine (State.runManifest_starts h _).trans ?_
  generalize bitsOf (byteAt m.bytes 20) 0 2 = mode at hm
  match mode, hm with
  | k + 2, _ => rfl

end manifest

/-! ### Slices that end (R492, R494, R496, R497) -/

theorem bistSliceDoneRow_idle (hr : s.flt.release = none) (h : s.bst.running = false ∨ (s.bst.mode = 0 ∧ s.bst.slice < 32)) :
    bistSliceDoneRow pass s = s := by
  unfold bistSliceDoneRow
  rw [hr]
  dsimp only
  rcases h with h | ⟨hm, hi⟩
  · rw [if_pos (by simp [h])]
  · rw [hm]
    simp only [if_pos hi, ite_self]

theorem bistSliceDoneRow_release (hr : s.flt.release = some r) : bistSliceDoneRow pass s = s.releaseSlice r pass := by
  unfold bistSliceDoneRow
  rw [hr]

theorem State.releaseSlice_failed (s : State) (r : Release) :
    s.releaseSlice r false = (s.sliceRun (ownerSlice r.owner) false).releaseEnd 3 r.mid := by
  unfold State.releaseSlice
  simp only [Bool.not_false, if_true]

theorem State.sliceRun_pass (s : State) (i : Nat) :
    s.sliceRun i true = (s.modBst fun b => { b with res := mapSet b.res i 1 }).count (Reg.BST_CNT_LO 0) := by
  unfold State.sliceRun
  simp only [if_true]

theorem State.releaseSlice_passed (s : State) (r : Release) : s.releaseSlice r true =
    (if r.owner < 32 then
      (((s.sliceRun (ownerSlice r.owner) true).modEng r.owner fun g => { g with rstate := .rejoining, halted := false }).assumptionCheck)
    else (s.sliceRun (ownerSlice r.owner) true).releaseUnit (r.owner - 31)).releaseEnd 1 r.mid := by
  unfold State.releaseSlice
  simp only [Bool.not_true, Bool.false_eq_true, if_false]

theorem State.releaseSlice_unit (s : State) (h : 32 ≤ r.owner) : s.releaseSlice r true =
    ((((s.modBst fun b => { b with res := mapSet b.res (ownerSlice r.owner) 1 }).count (Reg.BST_CNT_LO 0)).releaseUnit (r.owner - 31)).releaseEnd
      1 r.mid) := by
  rw [State.releaseSlice_passed, if_neg (Nat.not_lt.mpr h), State.sliceRun_pass]

theorem State.assumptionCheck_engine (s : State) (d : Nat) : s.assumptionCheck.engine d = s.engine d := by
  unfold State.assumptionCheck
  split <;> rfl

/-- The state in which the engine of a release is rejoining. -/
def State.releaseEngine (s : State) (e : Nat) : State :=
  ((s.sliceRun (ownerSlice e) true).modEng e fun g => { g with rstate := .rejoining, halted := false }).assumptionCheck

theorem State.releaseSlice_engine (s : State) (h : r.owner < 32) : s.releaseSlice r true = (s.releaseEngine r.owner).releaseEnd 1 r.mid := by
  rw [State.releaseSlice_passed, if_pos h, State.releaseEngine]

theorem State.releaseEngine_engine (s : State) (h : e < s.plt.eng.length) :
    (s.releaseEngine e).engine e = { s.engine e with rstate := .rejoining, halted := false } ∧
      ∀ d, d ≠ e → (s.releaseEngine e).engine d = s.engine d := by
  have hp : (s.sliceRun (ownerSlice e) true).plt = s.plt := by
    rw [State.sliceRun_pass, State.count_plt]
    rfl
  have he (d : Nat) : (s.sliceRun (ownerSlice e) true).engine d = s.engine d := by
    rw [State.engine, State.engine, hp]
  rw [State.releaseEngine]
  refine ⟨?_, fun d hd => ?_⟩
  · rw [State.assumptionCheck_engine, State.engine_modEng_self _ _ (by rw [hp]; exact h), he]
  · rw [State.assumptionCheck_engine, State.engine_modEng_ne _ _ (Ne.symm hd), he]

section running

variable (hr : s.flt.release = none) (hrun : s.bst.running = true)
include hr hrun

theorem bistSliceDoneRow_slice (hm : s.bst.mode = 0) (hi : 32 ≤ s.bst.slice) : bistSliceDoneRow pass s =
    (if pass then (s.sliceRun s.bst.slice pass).unitReset (sliceOwner s.bst.slice - 31) else s.sliceRun s.bst.slice pass).bstEnd
      (if pass then 1 else 2) := by
  unfold bistSliceDoneRow
  simp only [hr, hrun, hm, if_neg (Nat.not_lt.mpr hi), Bool.not_true, Bool.false_eq_true, if_false]

theorem bistSliceDoneRow_whole (hm : s.bst.mode = 1) : bistSliceDoneRow pass s =
    if (s.sliceRun s.bst.slice pass).bst.abort = true ∨ (s.sliceRun s.bst.slice pass).twn.takePending = true then
      (s.sliceRun s.bst.slice pass).wholeEnd 4
    else match State.nextSlice 48 (s.sliceRun s.bst.slice pass) (s.bst.slice + 1) with
      | (s2, some j) => s2.modBst fun b => { b with slice := j }
      | (s2, none) => s2.wholeEnd (if s2.bst.failed = 0 then 1 else 2) := by
  unfold bistSliceDoneRow
  simp only [hr, hrun, hm, Bool.not_true, Bool.false_eq_true, if_false] <;> rfl

theorem bistSliceDoneRow_wholeCut (hm : s.bst.mode = 1)
    (hc : (s.sliceRun s.bst.slice pass).bst.abort = true ∨ (s.sliceRun s.bst.slice pass).twn.takePending = true) :
    bistSliceDoneRow pass s = (s.sliceRun s.bst.slice pass).wholeEnd 4 :=
  (bistSliceDoneRow_whole hr hrun hm).trans (if_pos hc)

theorem bistSliceDoneRow_shutdown (hm : 2 ≤ s.bst.mode) : bistSliceDoneRow pass s =
    if s.shutdownGo.bst.stopped = false then s.shutdownGo
    else match State.nextSlice 48 (s.shutdownGo.sliceRun s.bst.slice pass) (s.bst.slice + 1) with
      | (s2, some j) => s2.modBst fun b => { b with slice := j }
      | (s2, none) => ({ s2 with bkp := { s2.bkp with bstLast := some s2.bstLastWord } }).bstEnd (if s2.bst.failed = 0 then 1 else 2) := by
  unfold bistSliceDoneRow
  simp only [hr, hrun, Bool.not_true, Bool.false_eq_true, if_false]
  generalize s.bst.mode = mode at hm
  match mode, hm with
  | k + 2, _ =>
    simp only [Bool.not_eq_true'] <;> rfl

variable {s2 : State} {j : Option Nat}

section whole

variable (hm : s.bst.mode = 1)
  (hc : ¬((s.sliceRun s.bst.slice pass).bst.abort = true ∨ (s.sliceRun s.bst.slice pass).twn.takePending = true))
include hm hc

theorem bistSliceDoneRow_wholeNext {k : Nat} (hn : State.nextSlice 48 (s.sliceRun s.bst.slice pass) (s.bst.slice + 1) = (s2, some k)) :
    bistSliceDoneRow pass s = s2.modBst fun b => { b with slice := k } := by
  rw [bistSliceDoneRow_whole hr hrun hm, if_neg hc, hn]

theorem bistSliceDoneRow_wholeLast (hn : State.nextSlice 48 (s.sliceRun s.bst.slice pass) (s.bst.slice + 1) = (s2, none)) :
    bistSliceDoneRow pass s = s2.wholeEnd (if s2.bst.failed = 0 then 1 else 2) := by
  rw [bistSliceDoneRow_whole hr hrun hm, if_neg hc, hn]

end whole

section shutdown

variable (hm : 2 ≤ s.bst.mode)
include hm

theorem bistSliceDoneRow_waits (hst : s.shutdownGo.bst.stopped = false) : bistSliceDoneRow pass s = s.shutdownGo :=
  (bistSliceDoneRow_shutdown hr hrun hm).trans (if_pos hst)

variable (hst : s.shutdownGo.bst.stopped = true)
include hst

theorem bistSliceDoneRow_shutdownNext {k : Nat}
    (hn : State.nextSlice 48 (s.shutdownGo.sliceRun s.bst.slice pass) (s.bst.slice + 1) = (s2, some k)) :
    bistSliceDoneRow pass s = s2.modBst fun b => { b with slice := k } := by
  rw [bistSliceDoneRow_shutdown hr hrun hm, if_neg (by simp [hst]), hn]

theorem bistSliceDoneRow_shutdownLast
    (hn : State.nextSlice 48 (s.shutdownGo.sliceRun s.bst.slice pass) (s.bst.slice + 1) = (s2, none)) :
    bistSliceDoneRow pass s =
      ({ s2 with bkp := { s2.bkp with bstLast := some s2.bstLastWord } } : State).bstEnd (if s2.bst.failed = 0 then 1 else 2) := by
  rw [bistSliceDoneRow_shutdown hr hrun hm, if_neg (by simp [hst]), hn]

end shutdown

end running

end Sys2Proof.Machine
end
section
/-! SUPPORT. Faults and self-test (R480 to R503): the obligation. -/

namespace Sys2Proof.Machine

variable {q s s1 : State} {n i src owner : Nat} {v : Word} {cmd : Instr} {mid : Option Nat}

/-! ### What the requests answer

Each of these says what a command answers from s that makes a request on s1, by what holds in q: the state in which the request was made,
which a manifest that has started does not change. -/

/-- An injection, and what follows it. -/
def State.Injects (s : State) (cmd : Instr) (s1 : State) (src : Nat) (broken : Bool) (k : State → State) : Prop :=
  (broken = false → Answers cmd s (k (s1.report src 2 (srcMaster src) 0 0))) ∧ (broken = true → Answers cmd s (k (s1.breakSrc src)))

theorem Injects.of_answers {b : Bool} {k : State → State} (h : Answers cmd s (k (s1.inject src b))) : s.Injects cmd s1 src b k :=
  ⟨fun hb => .of (congrArg k (State.inject_event hb)) h, fun hb => .of (congrArg k (State.inject_breaks hb)) h⟩

/-- A release. -/
def State.Releases (s : State) (cmd : Instr) (q s1 : State) (owner : Nat) (mid : Option Nat) : Prop :=
  let fenced : Prop := q.ownerFenced owner = true
  let busy : Prop := q.bst.running = true ∨ q.plt.rot ≠ none ∨ ∃ x ∈ q.flt.reports, x.src = owner ∧ x.at_ = q.dt
  (¬fenced → Answers cmd s (s1.releaseEnd 2 mid)) ∧
  (fenced → q.flt.release ≠ none → Answers cmd s (s1.finishOpt mid stBusy 4 [])) ∧
  (fenced → q.flt.release = none → busy → Answers cmd s (s1.releaseEnd 4 mid)) ∧
  (fenced → q.flt.release = none → ¬busy → Answers cmd s (s1.modFlt fun f => { f with release := some ⟨owner, mid⟩, relDone := false }))

theorem Releases.of_answers (h : Answers cmd s (s1.releaseReq owner mid)) : s.Releases cmd s1 s1 owner mid :=
  ⟨fun hf => .of (State.releaseReq_unfenced hf) h, fun hf hr => .of (State.releaseReq_underWay hf hr) h,
    fun hf hr hb => .of (State.releaseReq_busy hf hr hb) h, fun hf hr hb => .of (State.releaseReq_starts hf hr hb) h⟩

/-- A single slice test. -/
def State.Slices (s : State) (cmd : Instr) (q s1 : State) (i : Nat) (mid : Option Nat) : Prop :=
  (q.TestBusy → Answers cmd s (s1.bstRefuse 3 mid)) ∧
  (¬q.TestBusy → q.sliceAbsent i = true →
    Answers cmd s (((s1.bstBegin 0 i mid).modBst fun b => { b with res := mapSet b.res i 1 }).bstEnd 1)) ∧
  (¬q.TestBusy → q.sliceAbsent i = false → 32 ≤ i → ¬q.TestsApart i → Answers cmd s (s1.bstRefuse 5 mid)) ∧
  (¬q.TestBusy → q.sliceAbsent i = false → 32 ≤ i → q.TestsApart i → Answers cmd s (s1.bstBegin 0 i mid)) ∧
  (¬q.TestBusy → q.sliceAbsent i = false → i < 32 →
    ((s1.rotRequest i 2 none).plt.rot = none → Answers cmd s ((s1.rotRequest i 2 none).bstRefuse 3 mid)) ∧
    ((s1.rotRequest i 2 none).plt.rot ≠ none → Answers cmd s ((s1.rotRequest i 2 none).bstBegin 0 i mid)))

theorem Slices.of_answers (h : Answers cmd s (s1.bstSlice i mid)) : s.Slices cmd s1 s1 i mid :=
  ⟨fun hb => .of (State.bstSlice_busy hb) h, fun hb ha => .of (State.bstSlice_absent hb ha) h,
    fun hb ha hi hp => .of (State.bstSlice_refused hb ha hi hp) h, fun hb ha hi hp => .of (State.bstSlice_apart hb ha hi hp) h,
    fun hb ha hi => ⟨fun hr => .of ((State.bstSlice_engine hb ha hi).trans (if_neg (by simp [hr]))) h,
      fun hr => .of ((State.bstSlice_engine hb ha hi).trans (if_pos (Option.isSome_iff_ne_none.mpr hr))) h⟩⟩

/-- A whole-device test. -/
def State.TestsWhole (s : State) (cmd : Instr) (q s1 : State) (mid : Option Nat) : Prop :=
  ((q.twn.role ≠ .standby ∨ q.TestBusy) → Answers cmd s (s1.bstRefuse 3 mid)) ∧
  (q.twn.role = .standby → ¬q.TestBusy → Answers cmd s (((s1.bstBegin 1 0 mid).count (Reg.BST_CNT_LO 2)).alnNote))

theorem TestsWhole.of_answers (h : Answers cmd s (s1.bstWhole mid)) : s.TestsWhole cmd s1 s1 mid :=
  ⟨fun hb => .of (State.bstWhole_refused hb) h, fun hr hb => .of (State.bstWhole_begins hr hb) h⟩

/-- A shutdown run. -/
def State.ShutsDown (s : State) (cmd : Instr) (q s1 : State) (mid : Option Nat) : Prop :=
  (q.twn.role ≠ .active → Answers cmd s (((if q.bst.running then s1.bstEnd 4 else s1).bstBegin 2 0 mid).shutdownGo)) ∧
  (q.twn.role = .active → Answers cmd s ((((if q.bst.running then s1.bstEnd 4 else s1).bstBegin 2 0 mid).hoRequest true none).shutdownGo))

theorem ShutsDown.of_answers (h : Answers cmd s (s1.bstShutdown mid)) : s.ShutsDown cmd s1 s1 mid :=
  ⟨fun hr => .of (State.bstShutdown_other hr mid) h, fun hr => .of (State.bstShutdown_active hr mid) h⟩

/-! ### Rows of registers -/

/-- The value that the command of a slice test writes. -/
theorem answers_bstCtrlSlice (hi : i < 64) (hR : s.Reaches Reg.BST_CTRL (BitVec.ofNat 32 (2 ^ 31 + 2 ^ 8 * i))) :
    Answers (.bstCtrlSlice i) s (s.bstSlice i none) := by
  have hm : i % 64 = i := Nat.mod_eq_of_lt hi
  have he : s.busWrite Reg.BST_CTRL (BitVec.ofNat 32 (2 ^ 31 + 2 ^ 8 * (i % 64))) 63 (bstCtrlSliceRow i) = s.bstSlice i none := by
    rw [hm, State.busWrite_reaches (m := 63) hR, bstCtrlSliceRow, hm]
  exact .of he rfl

theorem answers_fltFerRelease (hR : s.Reaches Reg.FLT_FER_REL v) : Answers (.fltFerRelease v) s (fltFerReleaseRow v s) :=
  .of (State.busWrite_reaches (m := 63) hR _) rfl

theorem answers_fltInjectGo (hR : s.Reaches Reg.FLT_INJECT v) : Answers (.fltInjectGo v) s (fltInjectGoRow v s) :=
  .of (State.busWrite_reaches (m := 63) hR _) rfl

theorem answers_fltReleaseGo (hR : s.Reaches Reg.FLT_RELEASE v) : Answers (.fltReleaseGo v) s (fltReleaseGoRow v s) :=
  .of (State.busWrite_reaches (m := 63) hR _) rfl

theorem answers_bstCtrlAbort (hR : s.Reaches Reg.BST_CTRL 0x40000000) : Answers .bstCtrlAbort s (bstCtrlAbortRow s) :=
  .of (State.busWrite_reaches (m := 63) hR _) rfl

/-! ### The obligation -/

/-- Settles O56: each event is taken as State.faultTake does; requests and slices by the cases of their rows. -/
theorem faultsAndSelfTestRun : Obligations.FaultsAndSelfTestRun := by
  unfold Obligations.FaultsAndSelfTestRun
  intro n i v pass ext s
  refine ⟨fun h => .of (State.takeReport_none h) rfl, fun r h => Takes.of_answers (.of (State.takeReport_some h) rfl),
    fun r rs h => ⟨Flt.nextReport_oldest h, Flt.nextReport_lowest h⟩, fun h => .of (faultEventRow_corrected h) rfl, rfl,
    fun s0 h => fun h1 h2 => Takes.of_answers (.of (faultEventRow_takes h h1 h2) rfl),
    fun u src code h1 h2 => u.reactOwn_notifies src h1 h2,
    fun h => .of (State.breakSrc_already h) rfl, fun h1 h2 => Takes.of_answers (.of (State.breakSrc_takes h1 h2) rfl),
    fun h => .of (faultLevelDecayRow_none h) rfl, fun h => ⟨_, .of (faultLevelDecayRow_decays h) rfl, s.levelDecayed_spec i _⟩,
    fun h => .of (faultReactionDoneRow_plain h) rfl, fun h => .of (faultReactionDoneRow_stops h) rfl,
    fun hR => ⟨fun h => .of (fltFerReleaseRow_none h) (answers_fltFerRelease hR),
      fun h => ⟨_, answers_fltFerRelease hR, fltFerReleaseRow_releases h⟩⟩,
    fun hR => ⟨fun h => .of (fltInjectGoRow_none h) (answers_fltInjectGo hR),
      fun h hb => Injects.of_answers (k := id) (.of (fltInjectGoRow_injects h hb) (answers_fltInjectGo hR))⟩,
    fun m h => ⟨fun hb => .of (manFltInject_refused h hb) rfl,
      fun hb => Injects.of_answers (k := fun u => u.finish0 m.mid stDone) (.of (manFltInject_injects h hb) rfl)⟩,
    fun hR => ⟨fun h => .of (fltReleaseGoRow_none h) (answers_fltReleaseGo hR),
      fun h => Releases.of_answers (.of (fltReleaseGoRow_requests h) (answers_fltReleaseGo hR))⟩,
    fun m h => Releases.of_answers (s1 := s.start n m.mid) (.of (manFltRelease_starts h) rfl),
    fun hR => .of (State.busWrite_reaches (m := 63) hR degradeClrRow) rfl,
    fun m h => ⟨fun hm => ?_, fun hm => ?_, fun hm => ?_⟩,
    fun hi hR => Slices.of_answers (answers_bstCtrlSlice hi hR),
    fun hR => TestsWhole.of_answers (.of (State.busWrite_reaches (m := 63) hR bstCtrlWholeRow) rfl),
    fun hR => ShutsDown.of_answers (.of (State.busWrite_reaches (m := 63) hR bstCtrlShutdownRow) rfl),
    fun hR => ⟨fun h => .of (bstCtrlAbortRow_none h) (answers_bstCtrlAbort hR),
      fun h h1 => .of (bstCtrlAbortRow_aborts h h1) (answers_bstCtrlAbort hR)⟩,
    fun hr h => .of (bistSliceDoneRow_idle hr h) rfl,
    fun r hr => ⟨.of ((bistSliceDoneRow_release hr).trans (s.releaseSlice_failed r)) rfl,
      fun ho => .of ((bistSliceDoneRow_release hr).trans (s.releaseSlice_unit ho)) rfl,
      fun ho hlen => ⟨_, .of ((bistSliceDoneRow_release hr).trans (s.releaseSlice_engine ho)) rfl, s.releaseEngine_engine hlen⟩⟩,
    fun hr hrun hm hi => ⟨.of (bistSliceDoneRow_slice hr hrun hm hi) rfl, .of (bistSliceDoneRow_slice hr hrun hm hi) rfl⟩,
    fun s2 j hr hrun hm => ⟨fun hc => .of (bistSliceDoneRow_wholeCut hr hrun hm hc) rfl, fun hc hn => ⟨?_, ?_⟩⟩,
    fun s2 j hr hrun hm => ⟨fun hst => .of (bistSliceDoneRow_waits hr hrun hm hst) rfl, fun hst hn => ⟨?_, ?_⟩⟩⟩
  · exact Slices.of_answers (s1 := s.start n m.mid) (.of (manBstRun_slice h hm) rfl)
  · exact TestsWhole.of_answers (s1 := s.start n m.mid) (.of (manBstRun_whole h hm) rfl)
  · exact ShutsDown.of_answers (s1 := s.start n m.mid) (.of (manBstRun_shutdown h hm) rfl)
  · rintro k rfl
    exact .of (bistSliceDoneRow_wholeNext hr hrun hm hc hn) rfl
  · rintro rfl
    exact .of (bistSliceDoneRow_wholeLast hr hrun hm hc hn) rfl
  · rintro k rfl
    exact .of (bistSliceDoneRow_shutdownNext hr hrun hm hst hn) rfl
  · rintro rfl
    exact .of (bistSliceDoneRow_shutdownLast hr hrun hm hst hn) rfl

end Sys2Proof.Machine
end

section
/-! SUPPORT. The twin: entering a role, sending a frame, a frame received (R456, R459, R460, R465). -/

namespace Sys2Proof.Machine

variable {r s t sc : State} {x key : List Byte} {f : AizRx} {typ : Nat} {k : AizRx → State → State}

/-! ### Entering a role (R456, R457) -/

theorem State.pinDrive_twn (s : State) (p : Nat) : (s.pinDrive p).twn = s.twn := by
  unfold State.pinDrive
  extract_lets on high old s1
  split
  · rfl
  · simp only [State.setTs, State.setReg_twn]
    rfl

theorem State.pinsDrive_twn (s : State) : s.pinsDrive.twn = s.twn := by
  unfold State.pinsDrive
  split
  · rfl
  · exact List.foldlRecOn (motive := fun u : State => u.twn = s.twn) _ _ rfl fun u hu p _ => (u.pinDrive_twn p).trans hu

/-- The twin on entering another role. -/
def Twn.inRole (t : Twn) (r : Role) (dt : Nat) : Twn :=
  { t with role := r, roleAt := dt, waitHeard := false, activeSince := if r.isActive && !t.role.isActive then dt else t.activeSince,
           mirrorOn := t.mirrorOn && r.isActive }

theorem State.setRole_same {q : Role} (h : s.twn.role = q) : s.setRole q = s := if_pos h

theorem State.setRole_twn {q : Role} (h : s.twn.role ≠ q) : (s.setRole q).twn = s.twn.inRole q s.dt := by
  unfold State.setRole
  rw [if_neg h]
  extract_lets was s1 s2 s3
  have h1 : s1.twn = s.twn.inRole q s.dt := by
    exact State.event_twn (s.modTwn fun t => t.inRole q s.dt) Reg.TWN_EVT 0
  have h2 : s2.twn = s1.twn := by
    unfold s2
    split
    · rfl
    · exact State.event_twn _ _ _
  exact s3.pinsDrive_twn.trans (h2.trans h1)

/-- What entering a role may change of the twin. -/
structure RoleMoved (s t : State) : Prop where
  twn : t.twn = { s.twn with role := t.twn.role, roleAt := t.twn.roleAt, waitHeard := t.twn.waitHeard, activeSince := t.twn.activeSince,
                             mirrorOn := t.twn.mirrorOn }
  dt : t.dt = s.dt

theorem State.setRole_dt (s : State) (q : Role) : (s.setRole q).dt = s.dt := by
  unfold State.setRole
  split
  · rfl
  · extract_lets was s1 s2 s3
    have h1 : s1.dt = s.dt := State.event_dt (s.modTwn fun t => t.inRole q s.dt) Reg.TWN_EVT 0
    have h2 : s2.dt = s1.dt := by
      unfold s2
      split
      · rfl
      · exact State.event_dt _ _ _
    exact (State.pinsDrive_calm (.refl s3)).dt.trans (h2.trans h1)

theorem State.setRole_moved (s : State) (q : Role) : RoleMoved s (s.setRole q) := by
  refine ⟨?_, s.setRole_dt q⟩
  by_cases h : s.twn.role = q
  · rw [State.setRole_same h]
  · rw [State.setRole_twn h]
    rfl

@[simp] theorem State.setRole_role (s : State) (q : Role) : (s.setRole q).twn.role = q := by
  by_cases h : s.twn.role = q
  · rw [State.setRole_same h, h]
  · rw [State.setRole_twn h]
    rfl

/-! ### A crypto context (R516, R517) -/

/-- A resource taken and given back within a command leaves all but the leases. -/
theorem State.leaseNow_state {pool n owner : Nat} (h : s.leaseNow pool n owner = some t) : t = { s with leases := t.leases } := by
  unfold State.leaseNow at h
  split at h
  · split at h
    · cases h
      rfl
    · cases h
  · cases h

theorem State.aizContext_some (h : s.aizContext = (sc, some key)) : s.aizKey = some key ∧ sc = { s with leases := sc.leases } := by
  unfold State.aizContext at h
  split at h
  · cases h
  · rename_i key' hk
    split at h
    · cases h
    · rename_i s1 hs
      cases h
      exact ⟨hk, State.leaseNow_state hs⟩

theorem State.aizContext_noKey (h : s.aizKey = none) : s.aizContext = (s.keyUseErr, none) := by
  rw [State.aizContext, h]

/-! ### A frame sent (R459, R460) -/

/-- What a frame that is sent, or not, leaves. -/
structure FrameOut (s t : State) : Prop where
  twn : t.twn = { s.twn with txFseq := t.twn.txFseq, laneNext := t.twn.laneNext }
  dt : t.dt = s.dt
  hw : t.hw = s.hw
  regs : ∀ o, o < 0x110200 → t.reg o = s.reg o

theorem FrameOut.refl (s : State) : FrameOut s s := ⟨rfl, rfl, rfl, fun _ _ => rfl⟩

theorem FrameOut.trans (h : FrameOut r s) (h' : FrameOut s t) : FrameOut r t :=
  ⟨by rw [h'.twn, h.twn], h'.dt.trans h.dt, h'.hw.trans h.hw, fun o ho => (h'.regs o ho).trans (h.regs o ho)⟩

theorem FrameOut.of_twn (ht : t.twn = s.twn) (hd : t.dt = s.dt) (hh : t.hw = s.hw) (hr : ∀ o, o < 0x110200 → t.reg o = s.reg o) : FrameOut s t :=
  ⟨by rw [ht], hd, hh, hr⟩

theorem State.count_frameOut (s : State) {lo : Nat} (h : 0x110200 ≤ lo) : FrameOut s (s.count lo) :=
  .of_twn (State.count_twn _ _) (State.count_dt _ _) (State.count_hw _ _) fun o ho => State.reg_count_ne _ (by omega) (by omega)

theorem State.event_frameOut (s : State) {o i : Nat} (h : 0x110200 ≤ o) : FrameOut s (s.event o i) :=
  .of_twn (State.event_twn _ _ _) (State.event_dt _ _ _) (State.event_hw _ _ _) fun o' ho => by rw [State.reg_event, if_neg (by omega)]

theorem FrameOut.of_leases (l : List Lease) (s : State) : FrameOut s { s with leases := l } := ⟨rfl, rfl, rfl, fun _ _ => rfl⟩

theorem State.keyUseErr_frameOut (s : State) : FrameOut s s.keyUseErr :=
  (s.count_frameOut (by simp)).trans (State.event_frameOut _ (by simp))

theorem State.aizContext_frameOut (s : State) : FrameOut s s.aizContext.1 := by
  unfold State.aizContext
  split
  · exact s.keyUseErr_frameOut
  · split
    · exact s.count_frameOut (by simp)
    · rename_i s1 hs
      rw [State.leaseNow_state hs]
      exact .of_leases _ s

/-- The header of the next frame. -/
def State.aizHeader (s : State) (typ : Nat) (end_ : Bool) (pl : List Byte) : List Byte :=
  leBytes 2 pl.length ++ leBytes 1 typ ++ leBytes 1 (b2n end_) ++
    leBytes 4 ((s.bkp.epoch.getD 0) % 2 ^ 31 + 2 ^ 31 * b2n s.side) ++ leBytes 8 s.twn.txFseq

/-- A frame put on the link under a key. -/
def State.aizPut (s : State) (key : List Byte) (typ : Nat) (end_ : Bool) (pl : List Byte) : State :=
  let hdr := s.aizHeader typ end_ pl
  ((s.emit (.aizhan s.twn.sendLane (hdr ++ gcmSeal key (slice hdr 4 12) hdr pl))).modTwn fun t =>
    { t with txFseq := t.txFseq + 1, laneNext := 1 - s.twn.sendLane }).count (Reg.TWN_CNT_LO 0)

theorem State.aizPut_frameOut (s : State) (key : List Byte) (typ : Nat) (end_ : Bool) (pl : List Byte) : FrameOut s (s.aizPut key typ end_ pl) := by
  unfold State.aizPut
  extract_lets hdr
  have h1 : FrameOut s ((s.emit (.aizhan s.twn.sendLane (hdr ++ gcmSeal key (slice hdr 4 12) hdr pl))).modTwn fun t =>
    { t with txFseq := t.txFseq + 1, laneNext := 1 - s.twn.sendLane }) := ⟨rfl, rfl, rfl, fun _ _ => rfl⟩
  exact h1.trans (State.count_frameOut _ (by simp))

theorem State.aizPut_twn (s : State) (key : List Byte) (typ : Nat) (end_ : Bool) (pl : List Byte) :
    (s.aizPut key typ end_ pl).twn = { s.twn with txFseq := s.twn.txFseq + 1, laneNext := 1 - s.twn.sendLane } := State.count_twn _ _

/-- Whether pairing is enabled and the unit not fenced, and a lane UP (R458, R459). -/
def State.LinkUp (s : State) : Prop :=
  (s.bit Reg.TWN_CFG 0 = true ∧ s.unitFenced 22 = false) ∧ (s.twn.lane0 = true ∨ s.twn.lane1 = true)

theorem State.twnOn_iff : s.twnOn = true ↔ s.bit Reg.TWN_CFG 0 = true ∧ s.unitFenced 22 = false := by
  simp [State.twnOn]

theorem State.aizUp_iff : s.aizUp = true ↔ s.twn.lane0 = true ∨ s.twn.lane1 = true := by
  simp [State.aizUp]

theorem State.linkDown_iff : ((!s.aizUp) = true ∨ (!s.twnOn) = true) ↔ ¬s.LinkUp := by
  rw [State.LinkUp, ← State.twnOn_iff, ← State.aizUp_iff]
  cases s.aizUp <;> cases s.twnOn <;> simp

section send

variable (end_ : Bool) (pl : List Byte)

theorem State.aizSend_down (h : ¬s.LinkUp) : s.aizSend typ end_ pl = s := if_pos (State.linkDown_iff.mpr h)

theorem State.aizSend_noContext (h : s.LinkUp) (hc : s.aizContext = (sc, none)) : s.aizSend typ end_ pl = sc := by
  unfold State.aizSend
  rw [if_neg (fun hd => State.linkDown_iff.mp hd h), hc]

theorem State.aizSend_sent (h : s.LinkUp) (hc : s.aizContext = (sc, some key)) : s.aizSend typ end_ pl = sc.aizPut key typ end_ pl := by
  unfold State.aizSend
  rw [if_neg (fun hd => State.linkDown_iff.mp hd h), hc]
  rfl

theorem State.aizSend_frameOut (s : State) (typ : Nat) : FrameOut s (s.aizSend typ end_ pl) := by
  have hc := s.aizContext_frameOut
  by_cases h : s.LinkUp
  · cases e : s.aizContext with
    | mk sc o =>
      rw [e] at hc
      cases o with
      | none =>
        rw [State.aizSend_noContext end_ pl h e]
        exact hc
      | some key =>
        rw [State.aizSend_sent end_ pl h e]
        exact hc.trans (State.aizPut_frameOut _ _ _ _ _)
  · rw [State.aizSend_down end_ pl h]
    exact .refl s

theorem State.aizContext_twn (s : State) : s.aizContext.1.twn = s.twn := by
  unfold State.aizContext
  split
  · exact (State.event_twn _ _ _).trans (State.count_twn _ _)
  · split
    · exact State.count_twn _ _
    · rename_i s1 hs
      rw [State.leaseNow_state hs]

/-- A frame takes the next FSEQ, or is not sent. -/
theorem State.aizSend_txFseq (s : State) (typ : Nat) : (s.aizSend typ end_ pl).twn.txFseq = s.twn.txFseq ∨
    (s.LinkUp ∧ s.aizKey ≠ none ∧ (s.aizSend typ end_ pl).twn.txFseq = s.twn.txFseq + 1) := by
  have hc := s.aizContext_twn
  by_cases h : s.LinkUp
  · cases e : s.aizContext with
    | mk sc o =>
      rw [e] at hc
      cases o with
      | none =>
        rw [State.aizSend_noContext end_ pl h e]
        exact .inl (congrArg Twn.txFseq hc)
      | some key =>
        obtain ⟨hk, -⟩ := State.aizContext_some e
        rw [State.aizSend_sent end_ pl h e, State.aizPut_twn]
        exact .inr ⟨h, by rw [hk]; exact Option.some_ne_none _, congrArg (·.txFseq + 1) hc⟩
  · rw [State.aizSend_down end_ pl h]
    exact .inl rfl

end send

/-! ### A frame received (R460, R462) -/

/-- Whether a frame is new in its EPOCH, of the pairing, and of the peer. -/
def State.FrameFresh (s : State) (f : AizRx) : Prop :=
  (∀ k, mapFind s.twn.peerSeen f.epoch = some k → k < f.fseq) ∧ (s.twn.peerEpoch ≠ some f.epoch → f.typ = 1) ∧ (f.typ = 1 → f.side ≠ s.side)

/-- Whether a frame's payload has its length and items that fill it. -/
def AizRx.Whole (f : AizRx) : Prop :=
  aizLenOk f = true ∧ ((f.typ = 3 ∨ f.typ = 6) → itemsOf f.payload.length f.payload ≠ none)

/-- Whether FSEQ has a gap that makes the device ask for a resynchronisation. -/
def State.FrameGap (s : State) (f : AizRx) : Prop :=
  s.twn.peerEpoch = some f.epoch ∧ s.twn.peerFseq + 1 < f.fseq ∧ (s.twn.role = .standby ∨ s.twn.role = .joining)

/-- The state in which an accepted frame has been noted. -/
def State.frameNoted (s : State) (f : AizRx) : State :=
  (s.modTwn fun t => { t with peerEpoch := some f.epoch, peerFseq := f.fseq, peerSeen := mapSet t.peerSeen f.epoch f.fseq }).count
    (Reg.TWN_CNT_LO 1)

theorem State.aizChecked_unknown (h : f.typ ≠ typ) (h' : f.typ = 0 ∨ 7 ≤ f.typ) : s.aizChecked typ f k = s.aizDrop :=
  (if_pos h).trans (if_pos h')

theorem State.aizChecked_other (h : f.typ ≠ typ) (h1 : 1 ≤ f.typ) (h6 : f.typ ≤ 6) : s.aizChecked typ f k = s :=
  (if_pos h).trans (if_neg (by omega))

theorem State.aizChecked_ownSide (h : f.typ = typ) (h1 : typ = 1) (hs : f.side = s.side) :
    s.aizChecked typ f k = s.count (Reg.TWN_CNT_LO 2) := (if_neg (not_not.mpr h)).trans (if_pos ⟨h1, hs⟩)

/-- The checks of a frame of the row's own TYPE, and of the peer's side. -/
theorem State.aizChecked_own (h : f.typ = typ) (hs : typ = 1 → f.side ≠ s.side) : s.aizChecked typ f k =
    if s.twn.peerEpoch ≠ some f.epoch ∧ typ ≠ 1 then s.aizDrop
    else if ((mapFind s.twn.peerSeen f.epoch).any fun n => decide (f.fseq ≤ n)) = true then s.aizDrop
    else if (!aizLenOk f) = true then s.aizDrop
    else if (typ = 3 ∨ typ = 6) ∧ (itemsOf f.payload.length f.payload).isNone = true then s.aizDrop
    else k f (if (s.twn.peerEpoch == some f.epoch && decide (s.twn.peerFseq + 1 < f.fseq) &&
      (s.twn.role == .standby || s.twn.role == .joining)) = true then (s.frameNoted f).resyncRequest else s.frameNoted f) :=
  (if_neg (not_not.mpr h)).trans (if_neg fun hc => hs hc.1 hc.2)

theorem State.aizChecked_dropped (h : f.typ = typ) (hs : f.typ = 1 → f.side ≠ s.side) (hd : ¬(s.FrameFresh f ∧ f.Whole)) :
    s.aizChecked typ f k = s.aizDrop := by
  subst h
  rw [State.aizChecked_own rfl hs]
  by_cases h1 : s.twn.peerEpoch ≠ some f.epoch ∧ f.typ ≠ 1
  · exact if_pos h1
  rw [if_neg h1]
  by_cases h2 : ((mapFind s.twn.peerSeen f.epoch).any fun n => decide (f.fseq ≤ n)) = true
  · exact if_pos h2
  rw [if_neg h2]
  by_cases h3 : (!aizLenOk f) = true
  · exact if_pos h3
  rw [if_neg h3]
  by_cases h4 : (f.typ = 3 ∨ f.typ = 6) ∧ (itemsOf f.payload.length f.payload).isNone = true
  · exact if_pos h4
  refine absurd ⟨⟨fun n hn => ?_, fun he => ?_, hs⟩, ?_, fun ht hi => ?_⟩ hd
  · rw [hn] at h2
    simpa using h2
  · exact not_not.mp fun ht => h1 ⟨he, ht⟩
  · simpa using h3
  · exact h4 ⟨ht, by rw [hi]; rfl⟩

theorem State.aizChecked_accepted {s1 : State} (h : f.typ = typ) (hf : s.FrameFresh f) (hw : f.Whole)
    (hg : s.FrameGap f → s1 = (s.frameNoted f).resyncRequest) (hn : ¬s.FrameGap f → s1 = s.frameNoted f) : s.aizChecked typ f k = k f s1 := by
  subst h
  obtain ⟨hseen, hep, hside⟩ := hf
  obtain ⟨hlen, hitems⟩ := hw
  have he : (if (s.twn.peerEpoch == some f.epoch && decide (s.twn.peerFseq + 1 < f.fseq) &&
      (s.twn.role == .standby || s.twn.role == .joining)) = true then (s.frameNoted f).resyncRequest else s.frameNoted f) = s1 := by
    by_cases hgap : s.FrameGap f
    · rw [hg hgap]
      obtain ⟨h1, h2, h3⟩ := hgap
      exact if_pos (by simpa [h1, h2] using h3)
    · rw [hn hgap]
      exact if_neg fun hc => hgap (by simpa [State.FrameGap, and_assoc] using hc)
  rw [State.aizChecked_own rfl hside, if_neg fun hc => hc.2 (hep hc.1), if_neg, if_neg (by simp [hlen]), if_neg, he]
  · intro hc
    obtain ⟨ht, hi⟩ := hc
    exact hitems ht (Option.isNone_iff_eq_none.mp hi)
  · intro hc
    cases hm : mapFind s.twn.peerSeen f.epoch with
    | none => simp [hm] at hc
    | some n => exact absurd (hseen n hm) (by simpa [hm] using hc)

theorem State.aizRx_down (h : ¬s.LinkUp) : s.aizRx typ x k = s := if_pos (State.linkDown_iff.mpr h |>.symm)

section up

variable (h : s.LinkUp)
include h

theorem State.aizRx_noKey (hk : s.aizKey = none) : s.aizRx typ x k = s.keyUseErr.authFail := by
  unfold State.aizRx
  rw [if_neg (fun hd => State.linkDown_iff.mp hd.symm h), State.aizContext_noKey hk, hk]
  rfl

theorem State.aizRx_noContext (hk : s.aizKey ≠ none) (hc : s.aizContext = (sc, none)) : s.aizRx typ x k = sc.count (Reg.TWN_CNT_LO 3) := by
  unfold State.aizRx
  rw [if_neg (fun hd => State.linkDown_iff.mp hd.symm h), hc]
  exact if_neg (by simpa using hk)

variable (hc : s.aizContext = (sc, some key))
include hc

theorem State.aizRx_badTag (ho : aizOpen key x = none) : s.aizRx typ x k = sc.authFail := by
  unfold State.aizRx
  rw [if_neg (fun hd => State.linkDown_iff.mp hd.symm h), hc]
  simp only [ho]

theorem State.aizRx_opened (ho : aizOpen key x = some f) : s.aizRx typ x k = sc.aizChecked typ f k := by
  unfold State.aizRx
  rw [if_neg (fun hd => State.linkDown_iff.mp hd.symm h), hc]
  simp only [ho]

end up

end Sys2Proof.Machine
end
section
/-! SUPPORT. The twin: what each received frame does (R457, R458, R460 to R462, R464 to R467). -/

namespace Sys2Proof.Machine

variable {r s t sc s1 : State} {x key : List Byte} {f : AizRx} {typ : Nat} {k : AizRx → State → State} {b : List Byte}

/-! ### Frames that are opened -/

/-- A frame that has been opened under a crypto context. -/
structure State.Opened (s sc : State) (key x : List Byte) (f : AizRx) : Prop where
  up : s.LinkUp
  context : s.aizContext = (sc, some key)
  opened : aizOpen key x = some f

section opened

variable (h : s.Opened sc key x f)
include h

theorem State.Opened.leases : ∃ l, sc = { s with leases := l } := ⟨_, (State.aizContext_some h.context).2⟩

theorem State.Opened.rx : s.aizRx typ x k = sc.aizChecked typ f k := State.aizRx_opened h.up h.context h.opened

theorem State.Opened.unknown (ht : f.typ ≠ typ) (h' : f.typ = 0 ∨ 7 ≤ f.typ) : s.aizRx typ x k = sc.count (Reg.TWN_CNT_LO 3) :=
  h.rx.trans (State.aizChecked_unknown ht h')

theorem State.Opened.other (ht : f.typ ≠ typ) (h1 : 1 ≤ f.typ) (h6 : f.typ ≤ 6) : s.aizRx typ x k = sc :=
  h.rx.trans (State.aizChecked_other ht h1 h6)

theorem State.Opened.ownSide (ht : f.typ = typ) (h1 : f.typ = 1) (hs : f.side = s.side) : s.aizRx typ x k = sc.count (Reg.TWN_CNT_LO 2) := by
  obtain ⟨l, rfl⟩ := h.leases
  exact h.rx.trans (State.aizChecked_ownSide ht (ht ▸ h1) hs)

theorem State.Opened.dropped (ht : f.typ = typ) (hs : f.typ = 1 → f.side ≠ s.side) (hd : ¬(s.FrameFresh f ∧ f.Whole)) :
    s.aizRx typ x k = sc.count (Reg.TWN_CNT_LO 3) := by
  obtain ⟨l, rfl⟩ := h.leases
  exact h.rx.trans (State.aizChecked_dropped ht hs hd)

/-- What an accepted frame does. -/
theorem State.Opened.accepted (ht : f.typ = typ) (hf : s.FrameFresh f) (hw : f.Whole)
    (hg : s.FrameGap f → s1 = (sc.frameNoted f).resyncRequest) (hn : ¬s.FrameGap f → s1 = sc.frameNoted f) : s.aizRx typ x k = k f s1 := by
  obtain ⟨l, rfl⟩ := h.leases
  exact h.rx.trans (State.aizChecked_accepted ht hf hw hg hn)

end opened

/-- The twin once an accepted frame has been noted. -/
def Twn.noted (t : Twn) (f : AizRx) : Twn :=
  { t with peerEpoch := some f.epoch, peerFseq := f.fseq, peerSeen := mapSet t.peerSeen f.epoch f.fseq }

/-- What is left as it was in the state in which an accepted frame is acted on. -/
structure FrameIn (s : State) (f : AizRx) (t : State) : Prop where
  twn : ∃ sync tx lane, t.twn = { s.twn.noted f with mirrorSync := sync, txFseq := tx, laneNext := lane }
  dt : t.dt = s.dt
  hw : t.hw = s.hw
  regs : ∀ o, o < 0x110200 → t.reg o = s.reg o

theorem State.frameNoted_frameIn (l : List Lease) (s : State) (f : AizRx) : FrameIn s f (State.frameNoted { s with leases := l } f) :=
  ⟨⟨s.twn.mirrorSync, s.twn.txFseq, s.twn.laneNext, State.count_twn _ _⟩, State.count_dt _ _, State.count_hw _ _, fun o ho =>
    State.reg_count_ne _ (by simp only [Reg.TWN_CNT_LO]; omega) (by simp only [Reg.TWN_CNT_LO]; omega)⟩

theorem FrameIn.unsync (h : FrameIn s f t) : FrameIn s f (t.modTwn fun w => { w with mirrorSync := false }) := by
  obtain ⟨⟨sync, tx, lane, e⟩, hd, hh, hr⟩ := h
  exact ⟨⟨false, tx, lane, by rw [State.modTwn_twn, e]⟩, hd, hh, hr⟩

theorem FrameIn.send (h : FrameIn s f t) {u : State} (hu : FrameOut t u) : FrameIn s f u := by
  obtain ⟨⟨sync, tx, lane, e⟩, hd, hh, hr⟩ := h
  exact ⟨⟨sync, u.twn.txFseq, u.twn.laneNext, by rw [hu.twn, e]⟩, hu.dt.trans hd, hu.hw.trans hh, fun o ho => (hu.regs o ho).trans (hr o ho)⟩

/-- The state in which an accepted frame is acted on exists, whether or not a resynchronisation is asked for. -/
theorem State.Opened.takes (h : s.Opened sc key x f) (ht : f.typ = typ) (hf : s.FrameFresh f) (hw : f.Whole) (k : AizRx → State → State) :
    ∃ s1, FrameIn s f s1 ∧ s.aizRx typ x k = k f s1 := by
  obtain ⟨l, hl⟩ := h.leases
  have hin : FrameIn s f (sc.frameNoted f) := hl ▸ State.frameNoted_frameIn l s f
  by_cases hg : s.FrameGap f
  · exact ⟨_, hin.unsync.send (State.aizSend_frameOut _ _ _ _), h.accepted ht hf hw (fun _ => rfl) fun hn => absurd hg hn⟩
  · exact ⟨_, hin, h.accepted ht hf hw (fun hc => absurd hc hg) fun _ => rfl⟩

/-- The rows that receive a frame, each of its own TYPE. -/
theorem answers_aizRx (x : List Byte) (s : State) :
    ∀ p ∈ [(1, Instr.hello x), (2, .heartbeat x), (3, .mirror x), (4, .handover x), (5, .take x), (6, .resync x)],
      1 ≤ p.1 ∧ p.1 ≤ 6 ∧ ∃ k, Answers p.2 s (s.aizRx p.1 x k) := by
  simp only [List.forall_mem_cons, List.not_mem_nil, false_implies, implies_true, and_true]
  exact ⟨⟨by decide, by decide, _, rfl⟩, ⟨by decide, by decide, _, rfl⟩, ⟨by decide, by decide, _, rfl⟩, ⟨by decide, by decide, _, rfl⟩,
    ⟨by decide, by decide, _, rfl⟩, ⟨by decide, by decide, _, rfl⟩⟩

/-! ### A tag failure (R460, R517) -/

theorem State.report_twn (s : State) (src cause master access addr : Nat) : (s.report src cause master access addr).twn = s.twn := by
  unfold State.report
  split <;> rfl

theorem State.report_dt (s : State) (src cause master access addr : Nat) : (s.report src cause master access addr).dt = s.dt := by
  unfold State.report
  split <;> rfl

theorem State.reg_report (s : State) (src cause master access addr o : Nat) : (s.report src cause master access addr).reg o = s.reg o := by
  unfold State.report
  split <;> rfl

/-- The twin with a path lost. -/
def Twn.pathLost (t : Twn) (hb : Bool) : Twn := { t with hbAlive := t.hbAlive && !hb, aizAlive := t.aizAlive && hb }

theorem Twn.pathLost_eq (t : Twn) (hb : Bool) : (if hb then { t with hbAlive := false } else { t with aizAlive := false }) = t.pathLost hb := by
  cases hb <;> simp [Twn.pathLost]

theorem State.pathLoss_eq (s : State) (hb : Bool) : s.pathLoss hb =
    (((s.modTwn fun t => t.pathLost hb).event Reg.TWN_EVT (if hb then 2 else 1)).count (Reg.TWN_CNT_LO 4)).unitFault 22 := by
  unfold State.pathLoss
  simp only [Twn.pathLost_eq]

theorem State.pathLoss_twn (s : State) (hb : Bool) : (s.pathLoss hb).twn = s.twn.pathLost hb := by
  rw [State.pathLoss_eq, State.unitFault, State.report_twn, State.count_twn, State.event_twn, State.modTwn_twn]

theorem State.pathLoss_dt (s : State) (hb : Bool) : (s.pathLoss hb).dt = s.dt := by
  rw [State.pathLoss_eq, State.unitFault, State.report_dt, State.count_dt, State.event_dt, State.modTwn_dt]

theorem State.pathLoss_evt (s : State) (hb : Bool) :
    (s.pathLoss hb).reg Reg.TWN_EVT = s.reg Reg.TWN_EVT ||| BitVec.ofNat 32 (2 ^ (if hb then 2 else 1)) := by
  rw [State.pathLoss_eq, State.unitFault, State.reg_report, State.reg_count_ne _ (by simp) (by simp), State.reg_event, if_pos rfl,
    State.reg_modTwn]

theorem State.pathLoss_event (s : State) (hb : Bool) : ((s.pathLoss hb).reg Reg.TWN_EVT).getLsbD (if hb then 2 else 1) = true := by
  rw [s.pathLoss_evt hb, BitVec.getLsbD_or, BitVec.getLsbD_ofNat, Nat.testBit_two_pow_self]
  cases hb <;> simp

theorem State.authFail_spec (s : State) : s.authFail.twn.role = s.twn.role ∧ (s.authFail.reg Reg.TWN_EVT).getLsbD 6 = true ∧
    (15 ≤ (s.twn.authFails.filter fun x => s.dt < x + subPerSec).length → s.authFail.twn.aizAlive = false ∧ s.authFail.twn.aizBlocked = true) := by
  unfold State.authFail
  extract_lets l s1 s2
  have hrole : s1.twn.role = s.twn.role := by
    simp only [s1, State.event_twn, State.count_twn]
    rfl
  have hevt : (s1.reg Reg.TWN_EVT).getLsbD 6 = true := State.getLsbD_reg_event _ _ (by omega)
  have htwn := s2.pathLoss_twn false
  have hreg := s2.pathLoss_evt false
  split
  · split
    · refine ⟨?_, ?_, fun _ => ⟨?_, ?_⟩⟩
      · rw [htwn]
        exact hrole
      · rw [hreg, BitVec.getLsbD_or, Bool.or_eq_true]
        exact .inl hevt
      · rw [htwn]
        exact Bool.and_false _
      · rw [htwn]
        rfl
    · next ha => exact ⟨hrole, hevt, fun _ => ⟨Bool.eq_false_iff.mpr ha, rfl⟩⟩
  · next hl =>
    refine ⟨hrole, hevt, fun h => absurd ?_ hl⟩
    simp only [l, List.length_take, List.length_cons]
    omega

/-! ### HELLO (R457, R458, R461) -/

/-- The twin once the peer's SET_CHECK has been compared. -/
def Twn.checked (t : Twn) (c : Nat) (diff : Bool) : Twn := { t with peerCheck := some c, cfgDiff := diff }

/-- The state once the peer's SET_CHECK has been compared. -/
def State.peerChecked (s : State) (c : Nat) (diff : Bool) : State :=
  if diff ∧ !s.twn.cfgDiff then (s.modTwn fun t => t.checked c diff).event Reg.TWN_EVT 8 else s.modTwn fun t => t.checked c diff

theorem State.checkPeer_eq (s : State) (c : Nat) : s.checkPeer c = s.peerChecked c (s.setCheck s.cfg.active != c) := rfl

/-- Comparing the peer's SET_CHECK leaves DT, the device's parts and its settings. -/
theorem State.peerChecked_spec (s : State) (c : Nat) (diff : Bool) :
    (s.peerChecked c diff).twn = s.twn.checked c diff ∧ (s.peerChecked c diff).dt = s.dt ∧ (s.peerChecked c diff).hw = s.hw ∧
      (s.peerChecked c diff).reg Reg.TWN_DT_LIMIT = s.reg Reg.TWN_DT_LIMIT ∧ (s.peerChecked c diff).reg Reg.TWN_CFG = s.reg Reg.TWN_CFG := by
  unfold State.peerChecked
  split
  · refine ⟨State.event_twn _ _ _, State.event_dt _ _ _, State.event_hw _ _ _, ?_, ?_⟩
    · rw [State.reg_event, if_neg (by simp), State.reg_modTwn]
    · rw [State.reg_event, if_neg (by simp), State.reg_modTwn]
  · exact ⟨rfl, rfl, rfl, rfl, rfl⟩

/-- What the device keeps of its peer. -/
structure PeerKept (s t : State) : Prop where
  role : t.twn.peerRole = s.twn.peerRole
  health : t.twn.peerHealth = s.twn.peerHealth
  epoch : t.twn.peerEpoch = s.twn.peerEpoch
  fseq : t.twn.peerFseq = s.twn.peerFseq
  seen : t.twn.peerSeen = s.twn.peerSeen
  check : t.twn.peerCheck = s.twn.peerCheck

theorem PeerKept.of_twn (h : t.twn = s.twn) : PeerKept s t := by
  exact ⟨by rw [h], by rw [h], by rw [h], by rw [h], by rw [h], by rw [h]⟩

theorem PeerKept.trans (h : PeerKept r s) (h' : PeerKept s t) : PeerKept r t :=
  ⟨h'.role.trans h.role, h'.health.trans h.health, h'.epoch.trans h.epoch, h'.fseq.trans h.fseq, h'.seen.trans h.seen, h'.check.trans h.check⟩

theorem RoleMoved.peerKept (h : RoleMoved s t) : PeerKept s t := by
  have e := h.twn
  exact ⟨by rw [e], by rw [e], by rw [e], by rw [e], by rw [e], by rw [e]⟩

theorem FrameOut.peerKept (h : FrameOut s t) : PeerKept s t := by
  have e := h.twn
  exact ⟨by rw [e], by rw [e], by rw [e], by rw [e], by rw [e], by rw [e]⟩

theorem FrameOut.role (h : FrameOut s t) : t.twn.role = s.twn.role := by rw [h.twn]

theorem State.resyncRequest_peerKept (s : State) : PeerKept s s.resyncRequest :=
  have h1 : PeerKept s (s.modTwn fun t => { t with mirrorSync := false }) := ⟨rfl, rfl, rfl, rfl, rfl, rfl⟩
  h1.trans (State.aizSend_frameOut _ _ _ _).peerKept

theorem State.resyncRequest_role (s : State) : s.resyncRequest.twn.role = s.twn.role :=
  (State.aizSend_frameOut _ _ (s.modTwn fun t => { t with mirrorSync := false }) _).role

theorem State.join_role (s : State) : s.join.twn.role = .joining := (State.resyncRequest_role _).trans (s.setRole_role _)

theorem State.join_peerKept (s : State) : PeerKept s s.join := (s.setRole_moved _).peerKept.trans (State.resyncRequest_peerKept _)

/-- The state in which a HELLO's news of the peer has been noted. -/
def State.helloHeard (s : State) (b : List Byte) : State :=
  (s.modTwn fun t => { t with
    peerRole := bitsOf (byteAt b 12) 0 3, peerHealth := BitVec.ofNat 32 (leAt b 32 4), aizBlocked := false, waitHeard := true }).checkPeer
      (leAt b 28 4)

/-- The twin once a HELLO's news of the peer has been noted. -/
def Twn.heardHello (t : Twn) (b : List Byte) (diff : Bool) : Twn :=
  { t with peerRole := bitsOf (byteAt b 12) 0 3, peerHealth := BitVec.ofNat 32 (leAt b 32 4), aizBlocked := false, waitHeard := true,
           peerCheck := some (leAt b 28 4), cfgDiff := diff }

theorem State.helloHeard_twn (s : State) (b : List Byte) : ∃ diff, (s.helloHeard b).twn = s.twn.heardHello b diff := by
  unfold State.helloHeard
  rw [State.checkPeer_eq]
  exact ⟨_, (State.peerChecked_spec _ _ _).1⟩

/-- Whether a HELLO is of a device with the same parts. -/
def State.HelloSame (s : State) (b : List Byte) : Prop := leAt b 0 4 = s.idCap ∧ leAt b 4 4 = s.idCapCount ∧ leAt b 8 4 = s.engMask

/-- Since when a HELLO's sender is active. -/
def helloSince (b : List Byte) : Nat := leAt b 16 2 + leAt b 18 4 * subPerNs + leAt b 22 6 * subPerSec

/-- Whether an active device yields to the sender of a HELLO. -/
def State.Yields (s : State) (b : List Byte) : Prop :=
  helloSince b < s.twn.activeSince ∨ (helloSince b = s.twn.activeSince ∧ s.side = true)

theorem State.helloTake_eq (s : State) (b : List Byte) : s.helloTake b =
    if leAt b 0 4 ≠ s.idCap ∨ leAt b 4 4 ≠ s.idCapCount ∨ leAt b 8 4 ≠ s.engMask then
      if s.twn.role = .wait ∨ s.twn.role = .solo ∨ s.twn.role = .active ∨ s.twn.role = .standby then
        ((s.helloHeard b).setRole .mismatch).event Reg.TWN_EVT 5
      else s.helloHeard b
    else if !activeCode (bitsOf (byteAt b 12) 0 3) then s.helloHeard b
    else match s.twn.role with
      | .wait => (s.helloHeard b).join
      | .solo | .active =>
        if helloSince b < s.twn.activeSince ∨ (helloSince b = s.twn.activeSince ∧ s.side) then ((s.helloHeard b).event Reg.TWN_EVT 11).join
        else s.helloHeard b
      | _ => s.helloHeard b := rfl

theorem State.helloDiffers_iff : (leAt b 0 4 ≠ s.idCap ∨ leAt b 4 4 ≠ s.idCapCount ∨ leAt b 8 4 ≠ s.engMask) ↔ ¬s.HelloSame b := by
  rw [State.HelloSame]
  tauto

theorem State.helloTake_mismatch (h : ¬s.HelloSame b)
    (hr : s.twn.role = .wait ∨ s.twn.role = .solo ∨ s.twn.role = .active ∨ s.twn.role = .standby) :
    s.helloTake b = ((s.helloHeard b).setRole .mismatch).event Reg.TWN_EVT 5 := by
  rw [State.helloTake_eq, if_pos (State.helloDiffers_iff.mpr h), if_pos hr]

theorem State.helloTake_differs (h : ¬s.HelloSame b)
    (hr : ¬(s.twn.role = .wait ∨ s.twn.role = .solo ∨ s.twn.role = .active ∨ s.twn.role = .standby)) : s.helloTake b = s.helloHeard b := by
  rw [State.helloTake_eq, if_pos (State.helloDiffers_iff.mpr h), if_neg hr]

section same

variable (h : s.HelloSame b)
include h

theorem State.helloTake_waiting (ha : activeCode (bitsOf (byteAt b 12) 0 3) = true) (hr : s.twn.role = .wait) :
    s.helloTake b = (s.helloHeard b).join := by
  rw [State.helloTake_eq, if_neg (not_not.mpr h ∘ State.helloDiffers_iff.mp), if_neg (by simp [ha]), hr]

theorem State.helloTake_yields (ha : activeCode (bitsOf (byteAt b 12) 0 3) = true) (hr : s.twn.role = .solo ∨ s.twn.role = .active)
    (hy : s.Yields b) : s.helloTake b = ((s.helloHeard b).event Reg.TWN_EVT 11).join := by
  rw [State.helloTake_eq, if_neg (not_not.mpr h ∘ State.helloDiffers_iff.mp), if_neg (by simp [ha])]
  rcases hr with hr | hr <;> (rw [hr]; exact if_pos hy)

theorem State.helloTake_stays (hs : ¬(activeCode (bitsOf (byteAt b 12) 0 3) = true ∧
    (s.twn.role = .wait ∨ ((s.twn.role = .solo ∨ s.twn.role = .active) ∧ s.Yields b)))) : s.helloTake b = s.helloHeard b := by
  rw [State.helloTake_eq, if_neg (not_not.mpr h ∘ State.helloDiffers_iff.mp)]
  by_cases ha : activeCode (bitsOf (byteAt b 12) 0 3) = true
  · rw [if_neg (by simp [ha])]
    have hy (hr : s.twn.role = .solo ∨ s.twn.role = .active) : ¬s.Yields b := fun hy => hs ⟨ha, .inr ⟨hr, hy⟩⟩
    cases hr : s.twn.role with
    | wait => exact absurd ⟨ha, .inl hr⟩ hs
    | solo => exact if_neg (hy (.inl hr))
    | active => exact if_neg (hy (.inr hr))
    | joining => rfl
    | standby => rfl
    | handing => rfl
    | taking => rfl
    | mismatch => rfl
  · rw [if_pos (by simpa using ha)]

end same

end Sys2Proof.Machine
end
section
/-! SUPPORT. The twin: HELLO and HEARTBEAT frames, MIRROR and RESYNC frames (R457, R461, R464 to R467). -/

namespace Sys2Proof.Machine

variable {s t sc s1 : State} {x key b : List Byte} {f : AizRx}

/-! ### What a HELLO comes to (R457, R461) -/

/-- A HELLO leaves the role, or moves it to another one. -/
theorem State.helloTake_cases (s : State) (b : List Byte) : s.helloTake b = s.helloHeard b ∨
    (s.twn.role ≠ .mismatch ∧ s.helloTake b = ((s.helloHeard b).setRole .mismatch).event Reg.TWN_EVT 5) ∨
    (s.twn.role ≠ .joining ∧ (s.helloTake b = (s.helloHeard b).join ∨ s.helloTake b = ((s.helloHeard b).event Reg.TWN_EVT 11).join)) := by
  by_cases h : s.HelloSame b
  · by_cases hj : activeCode (bitsOf (byteAt b 12) 0 3) = true ∧
      (s.twn.role = .wait ∨ ((s.twn.role = .solo ∨ s.twn.role = .active) ∧ s.Yields b))
    · obtain ⟨ha, hr | ⟨hr, hy⟩⟩ := hj
      · exact .inr (.inr ⟨by rw [hr]; decide, .inl (State.helloTake_waiting h ha hr)⟩)
      · exact .inr (.inr ⟨by rcases hr with hr | hr <;> (rw [hr]; decide), .inr (State.helloTake_yields h ha hr hy)⟩)
    · exact .inl (State.helloTake_stays h hj)
  · by_cases hr : s.twn.role = .wait ∨ s.twn.role = .solo ∨ s.twn.role = .active ∨ s.twn.role = .standby
    · exact .inr (.inl ⟨by rcases hr with hr | hr | hr | hr <;> (rw [hr]; decide), State.helloTake_mismatch h hr⟩)
    · exact .inl (State.helloTake_differs h hr)

theorem State.helloHeard_role (s : State) (b : List Byte) : (s.helloHeard b).twn.role = s.twn.role := by
  obtain ⟨diff, e⟩ := s.helloHeard_twn b
  rw [e]
  rfl

theorem State.helloHeard_waitHeard (s : State) (b : List Byte) : (s.helloHeard b).twn.waitHeard = true := by
  obtain ⟨diff, e⟩ := s.helloHeard_twn b
  rw [e]
  rfl

theorem State.helloTake_peerKept (s : State) (b : List Byte) : PeerKept (s.helloHeard b) (s.helloTake b) := by
  rcases s.helloTake_cases b with e | ⟨-, e⟩ | ⟨-, e | e⟩
  · rw [e]
    exact .of_twn rfl
  · rw [e]
    exact ((s.helloHeard b).setRole_moved _).peerKept.trans (.of_twn (State.event_twn _ _ _))
  · rw [e]
    exact State.join_peerKept _
  · rw [e]
    exact (PeerKept.of_twn (State.event_twn _ _ _)).trans (State.join_peerKept _)

/-- A HELLO has been heard, unless it moves the device to another role. -/
theorem State.helloTake_waitHeard (s : State) (b : List Byte) (h : (s.helloTake b).twn.role = s.twn.role) :
    (s.helloTake b).twn.waitHeard = true := by
  rcases s.helloTake_cases b with e | ⟨hr, e⟩ | ⟨hr, e | e⟩
  · rw [e]
    exact s.helloHeard_waitHeard b
  · rw [e, State.event_twn, State.setRole_role] at h
    exact absurd h.symm hr
  · rw [e, State.join_role] at h
    exact absurd h.symm hr
  · rw [e, State.join_role] at h
    exact absurd h.symm hr

/-- What the peer is after an accepted HELLO. -/
theorem FrameIn.hello_peer (h : FrameIn s f s1) (b : List Byte) :
    (s1.helloTake b).twn.peerRole = bitsOf (byteAt b 12) 0 3 ∧ (s1.helloTake b).twn.peerHealth = BitVec.ofNat 32 (leAt b 32 4) ∧
      (s1.helloTake b).twn.peerEpoch = some f.epoch ∧ (s1.helloTake b).twn.peerFseq = f.fseq ∧
      mapFind (s1.helloTake b).twn.peerSeen f.epoch = some f.fseq ∧ (s1.helloTake b).twn.peerCheck = some (leAt b 28 4) := by
  obtain ⟨⟨sync, tx, lane, e⟩, -, -, -⟩ := h
  obtain ⟨diff, eh⟩ := s1.helloHeard_twn b
  obtain ⟨h1, h2, h3, h4, h5, h6⟩ := s1.helloTake_peerKept b
  rw [eh, e] at h1 h2 h3 h4 h5 h6
  refine ⟨h1, h2, h3, h4, ?_, h6⟩
  rw [h5]
  exact (mapFind_mapSet _ _ _ _).trans (if_pos rfl)

theorem State.idCap_of_hw (h : t.hw = s.hw) : t.idCap = s.idCap ∧ t.idCapCount = s.idCapCount ∧ t.engMask = s.engMask := by
  refine ⟨?_, ?_, ?_⟩
  · rw [State.idCap, State.idCap, h]
  · have hcap : t.hasCap = s.hasCap := by rw [State.hasCap, State.hasCap, State.idCap, State.idCap, h]
    have hmtr : t.hasMtr = s.hasMtr := by rw [State.hasMtr, State.hasMtr, State.idCap, State.idCap, h]
    have hberth : t.berthCount = s.berthCount := by rw [State.berthCount, State.berthCount, h]
    rw [State.idCapCount, State.idCapCount, hcap, hmtr, hberth, h]
  · rw [State.engMask, State.engMask, h]

section frame

variable (h : FrameIn s f s1)
include h

theorem FrameIn.role : s1.twn.role = s.twn.role := by
  obtain ⟨⟨sync, tx, lane, e⟩, -, -, -⟩ := h
  rw [e]
  rfl

theorem FrameIn.side : s1.side = s.side := by
  rw [State.side, State.side, State.bit, State.bit, h.regs _ (by simp)]

theorem FrameIn.helloSame : s1.HelloSame b ↔ s.HelloSame b := by
  obtain ⟨h1, h2, h3⟩ := State.idCap_of_hw h.hw
  rw [State.HelloSame, State.HelloSame, h1, h2, h3]

theorem FrameIn.yields : s1.Yields b ↔ s.Yields b := by
  have hside := h.side
  obtain ⟨⟨sync, tx, lane, e⟩, -, -, -⟩ := h
  rw [State.Yields, State.Yields, e, hside]
  rfl

theorem FrameIn.hello_mismatch (hd : ¬s.HelloSame b) (hr : s.twn.role ∈ [Role.wait, .solo, .active, .standby]) :
    (s1.helloTake b).twn.role = .mismatch ∧ ((s1.helloTake b).reg Reg.TWN_EVT).getLsbD 5 = true := by
  rw [State.helloTake_mismatch (mt h.helloSame.mp hd) (by rw [h.role]; simpa using hr)]
  exact ⟨by rw [State.event_twn, State.setRole_role], State.getLsbD_reg_event _ _ (by omega)⟩

theorem FrameIn.hello_differs (hd : ¬s.HelloSame b) (hr : s.twn.role ∉ [Role.wait, .solo, .active, .standby]) :
    (s1.helloTake b).twn.role = s.twn.role := by
  rw [State.helloTake_differs (mt h.helloSame.mp hd) (by rw [h.role]; simpa using hr), State.helloHeard_role, h.role]

theorem FrameIn.hello_joins (hs : s.HelloSame b) (ha : activeCode (bitsOf (byteAt b 12) 0 3) = true)
    (hr : s.twn.role = .wait ∨ ((s.twn.role = .solo ∨ s.twn.role = .active) ∧ s.Yields b)) : (s1.helloTake b).twn.role = .joining := by
  rw [← h.role, ← h.yields] at hr
  rcases hr with hr | ⟨hr, hy⟩
  · rw [State.helloTake_waiting (h.helloSame.mpr hs) ha hr, State.join_role]
  · rw [State.helloTake_yields (h.helloSame.mpr hs) ha hr hy, State.join_role]

theorem FrameIn.hello_stays (hs : s.HelloSame b) (hn : ¬(activeCode (bitsOf (byteAt b 12) 0 3) = true ∧
    (s.twn.role = .wait ∨ ((s.twn.role = .solo ∨ s.twn.role = .active) ∧ s.Yields b)))) : (s1.helloTake b).twn.role = s.twn.role := by
  rw [State.helloTake_stays (h.helloSame.mpr hs) (by rw [h.role, h.yields]; exact hn), State.helloHeard_role, h.role]

end frame

/-! ### What a HEARTBEAT comes to (R461, R467) -/

/-- A timestamp of a HEARTBEAT. -/
def hbTime (b : List Byte) (o : Nat) : Int := (leAt b o 2 + leAt b (o + 2) 4 * subPerNs + leAt b (o + 6) 6 * subPerSec : Nat)

/-- The difference of the device times that a HEARTBEAT received at a time shows, in ns. -/
def hbDiff (b : List Byte) (dt : Nat) : Int :=
  max (-2147483648) (min (((hbTime b 12 - (dt : Int)) + (hbTime b 36 - hbTime b 24)) / 2 / (subPerNs : Int)) 2147483647)

/-- The twin once the other path has told the peer's role. -/
def Twn.peerIs (t : Twn) (role : Nat) : Twn := { t with peerRole := role, peerLost := false }

/-- The role of a device that hears its peer in a role. -/
def Twn.roleHearing (t : Twn) (role : Nat) : Role := if t.role = .solo ∧ t.mirrorOn = true ∧ role = 4 then .active else t.role

theorem State.peerHeard_eq (s : State) (role : Nat) : s.peerHeard role =
    if s.twn.role = .solo ∧ s.twn.mirrorOn = true ∧ role = 4 then (s.modTwn fun t => t.peerIs role).setRole .active
    else s.modTwn fun t => t.peerIs role := rfl

theorem State.peerHeard_role (s : State) (role : Nat) : (s.peerHeard role).twn.role = s.twn.roleHearing role := by
  rw [State.peerHeard_eq, Twn.roleHearing]
  split
  · exact State.setRole_role _ _
  · rfl

theorem State.peerHeard_moved (s : State) (role : Nat) : RoleMoved (s.modTwn fun t => t.peerIs role) (s.peerHeard role) := by
  rw [State.peerHeard_eq]
  split
  · exact State.setRole_moved _ _
  · exact ⟨rfl, rfl⟩

/-- The twin once the difference of the device times has been noted. -/
def Twn.differs (t : Twn) (d : Int) (limit : Nat) : Twn := { t with dtDiff := d, dtDiffFlag := decide (limit < d.natAbs) }

theorem State.dtDiffNote_twn (s : State) (d : Int) :
    (s.modTwn fun t => { t with dtDiff := d }).dtDiffNote.twn = s.twn.differs d (s.reg Reg.TWN_DT_LIMIT).toNat := by
  unfold State.dtDiffNote
  extract_lets bad s1'
  split
  · exact State.event_twn _ _ _
  · rfl

/-- The twin once a HEARTBEAT's news has been noted. -/
def Twn.heardBeat (t : Twn) (b : List Byte) (dt : Nat) : Twn :=
  { t with peerHealth := BitVec.ofNat 32 (leAt b 4 4), echoTx := (hbTime b 12).toNat, echoRx := dt, aizAlive := !t.aizBlocked, lastAizRx := dt }

/-- The state in which a HEARTBEAT's news of the peer, and of the difference of the device times, has been noted; `diff` whether the
configurations differ. -/
def State.heartbeatNoted (s : State) (b : List Byte) (diff : Bool) : State :=
  let s1 := (s.modTwn fun t => t.heardBeat b s.dt).peerChecked (leAt b 8 4) diff
  if hbTime b 24 = 0 ∧ hbTime b 36 = 0 then s1 else (s1.modTwn fun t => { t with dtDiff := hbDiff b s.dt }).dtDiffNote

theorem State.heartbeatTake_eq (s : State) (b : List Byte) :
    ∃ diff, s.heartbeatTake b = (s.heartbeatNoted b diff).peerHeard (bitsOf (byteAt b 2) 0 3) := by
  unfold State.heartbeatTake
  simp only [State.checkPeer_eq]
  exact ⟨_, rfl⟩

/-- The twin of a state in which a HEARTBEAT has been noted. -/
theorem State.heartbeatNoted_twn (s : State) (b : List Byte) (diff : Bool) : (s.heartbeatNoted b diff).twn =
    if hbTime b 24 = 0 ∧ hbTime b 36 = 0 then (s.twn.heardBeat b s.dt).checked (leAt b 8 4) diff
    else ((s.twn.heardBeat b s.dt).checked (leAt b 8 4) diff).differs (hbDiff b s.dt) (s.reg Reg.TWN_DT_LIMIT).toNat := by
  obtain ⟨htwn, -, -, hlim, -⟩ := (s.modTwn fun t => t.heardBeat b s.dt).peerChecked_spec (leAt b 8 4) diff
  rw [State.modTwn_twn] at htwn
  rw [State.reg_modTwn] at hlim
  unfold State.heartbeatNoted
  extract_lets s1
  split
  · exact htwn
  · rw [State.dtDiffNote_twn, htwn, hlim]

theorem FrameIn.heartbeat (h : FrameIn s f s1) (b : List Byte) :
    (s1.heartbeatTake b).twn.peerRole = bitsOf (byteAt b 2) 0 3 ∧ (s1.heartbeatTake b).twn.peerLost = false ∧
      (s1.heartbeatTake b).twn.aizAlive = (!s.twn.aizBlocked) ∧ (s1.heartbeatTake b).twn.lastAizRx = s.dt ∧
      (s1.heartbeatTake b).twn.echoTx = (hbTime b 12).toNat ∧ (s1.heartbeatTake b).twn.echoRx = s.dt ∧
      (s1.heartbeatTake b).twn.hbAlive = s.twn.hbAlive ∧
      (hbTime b 24 = 0 → hbTime b 36 = 0 → (s1.heartbeatTake b).twn.dtDiff = s.twn.dtDiff ∧
        (s1.heartbeatTake b).twn.dtDiffFlag = s.twn.dtDiffFlag) ∧
      (¬(hbTime b 24 = 0 ∧ hbTime b 36 = 0) → (s1.heartbeatTake b).twn.dtDiff = hbDiff b s.dt ∧
        (s1.heartbeatTake b).twn.dtDiffFlag = decide ((s.reg Reg.TWN_DT_LIMIT).toNat < (hbDiff b s.dt).natAbs)) ∧
      (s1.heartbeatTake b).twn.role = s.twn.roleHearing (bitsOf (byteAt b 2) 0 3) := by
  have hlim : s1.reg Reg.TWN_DT_LIMIT = s.reg Reg.TWN_DT_LIMIT := h.regs _ (by simp)
  obtain ⟨⟨sync, tx, lane, e⟩, hdt, -, -⟩ := h
  obtain ⟨diff, ht⟩ := s1.heartbeatTake_eq b
  have en := s1.heartbeatNoted_twn b diff
  have hm := (s1.heartbeatNoted b diff).peerHeard_moved (bitsOf (byteAt b 2) 0 3)
  have hrole := (s1.heartbeatNoted b diff).peerHeard_role (bitsOf (byteAt b 2) 0 3)
  have htwn := hm.twn
  rw [State.modTwn_twn, en, e, hdt, hlim] at htwn
  rw [en, e, hdt, hlim] at hrole
  rw [ht, hrole]
  by_cases hz : hbTime b 24 = 0 ∧ hbTime b 36 = 0
  · rw [if_pos hz] at htwn ⊢
    rw [htwn]
    exact ⟨rfl, rfl, rfl, rfl, rfl, rfl, rfl, fun _ _ => ⟨rfl, rfl⟩, fun hc => absurd hz hc, rfl⟩
  · rw [if_neg hz] at htwn ⊢
    rw [htwn]
    exact ⟨rfl, rfl, rfl, rfl, rfl, rfl, rfl, fun h1 h2 => absurd ⟨h1, h2⟩ hz, fun _ => ⟨rfl, rfl⟩, rfl⟩

end Sys2Proof.Machine
end
section
/-! SUPPORT. The twin: MIRROR and RESYNC frames, the lanes, HELLO frames sent (R459 to R461, R464 to R466). -/

namespace Sys2Proof.Machine

variable {s t u sc s1 : State} {x key b : List Byte} {f : AizRx}

/-! ### MIRROR and RESYNC frames (R464 to R466) -/

/-- Whether a device takes mirrored items. -/
def State.Mirrors (s : State) : Prop := s.twn.role = .joining ∨ s.twn.role = .standby ∨ s.twn.role = .taking

theorem State.mirrors_iff : s.mirrors = true ↔ s.Mirrors := by
  simp only [State.mirrors, State.Mirrors, Bool.or_eq_true, beq_iff_eq, or_assoc]

/-- The items of a frame. -/
def AizRx.items (f : AizRx) : List (Nat × List Byte) := (itemsOf f.payload.length f.payload).getD []

/-- What an accepted MIRROR frame does. -/
def State.mirrorTake (f : AizRx) (s : State) : State :=
  if s.mirrors then (s.itemsApply f.items).modTwn fun t => { t with endSeen := t.endSeen || f.end_ }
  else if s.twn.role = .active ∨ s.twn.role = .handing then s.itemsApply (f.items.filter fun x => x.1 == 5)
  else s

theorem mirrorRow_eq (x : List Byte) (s : State) : mirrorRow x s = s.aizRx 3 x State.mirrorTake := rfl

/-- A completed resynchronisation. -/
def State.resyncDone (s : State) : State :=
  let s2 := (s.modTwn fun t => { t with mirrorStale := false, mirrorSync := true }).count (Reg.TWN_CNT_LO 8)
  if s2.twn.role = .joining then s2.setRole .standby else s2

/-- What an accepted RESYNC frame does. -/
def State.resyncTake (f : AizRx) (s : State) : State :=
  if f.payload.isEmpty then (if s.isActive ∧ s.twn.role ≠ .mismatch then s.resyncSend else s)
  else if !s.mirrors then s
  else if f.end_ then (s.itemsApply f.items).resyncDone
  else s.itemsApply f.items

theorem resyncRow_eq (x : List Byte) (s : State) : resyncRow x s = s.aizRx 6 x State.resyncTake := rfl

theorem State.resyncDone_spec (s : State) : s.resyncDone.twn.mirrorSync = true ∧ s.resyncDone.twn.mirrorStale = false ∧
    (s.twn.role = .joining → s.resyncDone.twn.role = .standby) ∧ (s.twn.role ≠ .joining → s.resyncDone.twn.role = s.twn.role) := by
  unfold State.resyncDone
  extract_lets s2
  have h2 : s2.twn = { s.twn with mirrorStale := false, mirrorSync := true } := State.count_twn _ _
  have hr : s2.twn.role = s.twn.role := by rw [h2]
  rw [hr]
  split
  · next h =>
    refine ⟨?_, ?_, fun _ => s2.setRole_role _, fun hn => absurd h hn⟩
    · rw [(s2.setRole_moved .standby).twn, h2]
    · rw [(s2.setRole_moved .standby).twn, h2]
  · next h => exact ⟨by rw [h2], by rw [h2], fun hj => absurd hj h, fun _ => hr⟩

/-- An accepted frame is acted on in a state of the frame's own. -/
theorem State.Opened.frameIn (h : s.Opened sc key x f) (hg : s.FrameGap f → s1 = (sc.frameNoted f).resyncRequest)
    (hn : ¬s.FrameGap f → s1 = sc.frameNoted f) : FrameIn s f s1 := by
  obtain ⟨l, hl⟩ := h.leases
  have hin : FrameIn s f (sc.frameNoted f) := hl ▸ State.frameNoted_frameIn l s f
  by_cases hgap : s.FrameGap f
  · exact hg hgap ▸ hin.unsync.send (State.aizSend_frameOut _ _ _ _)
  · exact hn hgap ▸ hin

section frame

variable (h : FrameIn s f s1)
include h

theorem FrameIn.mirrors_iff : s1.mirrors = true ↔ s.Mirrors := by
  rw [State.mirrors_iff, State.Mirrors, h.role, State.Mirrors]

theorem FrameIn.mirror_ignored (hr : s.twn.role ∈ [Role.solo, .wait, .mismatch]) : s1.mirrorTake f = s1 := by
  have hm : ¬s1.mirrors = true := by
    rw [h.mirrors_iff, State.Mirrors]
    intro hm
    rcases hm with hm | hm | hm <;> simp [hm] at hr
  unfold State.mirrorTake
  rw [if_neg hm, h.role]
  refine if_neg fun ha => ?_
  rcases ha with ha | ha <;> simp [ha] at hr

theorem FrameIn.mirror_active (hr : s.twn.role = .active ∨ s.twn.role = .handing) :
    s1.mirrorTake f = s1.itemsApply (f.items.filter fun x => x.1 == 5) := by
  have hm : ¬s1.mirrors = true := by
    rw [h.mirrors_iff, State.Mirrors]
    intro hm
    rcases hr with hr | hr <;> simp [hr] at hm
  unfold State.mirrorTake
  rw [if_neg hm, h.role]
  exact if_pos hr

theorem FrameIn.mirror_applied (hr : s.Mirrors) :
    s1.mirrorTake f = (s1.itemsApply f.items).modTwn fun t => { t with endSeen := t.endSeen || f.end_ } :=
  if_pos (h.mirrors_iff.mpr hr)

theorem FrameIn.resync_asked (hb : f.payload = []) (ha : s.twn.role.isActive = true) (hm : s.twn.role ≠ .mismatch) :
    s1.resyncTake f = s1.resyncSend := by
  unfold State.resyncTake
  rw [State.isActive, h.role, if_pos (by rw [hb]; rfl)]
  exact if_pos ⟨ha, hm⟩

theorem FrameIn.resync_refused (hb : f.payload = []) (ha : ¬(s.twn.role.isActive = true ∧ s.twn.role ≠ .mismatch)) :
    s1.resyncTake f = s1 := by
  unfold State.resyncTake
  rw [State.isActive, h.role, if_pos (by rw [hb]; rfl)]
  exact if_neg ha

variable (hb : f.payload ≠ [])
include hb

theorem FrameIn.resync_ignored (hm : ¬s.Mirrors) : s1.resyncTake f = s1 := by
  unfold State.resyncTake
  rw [if_neg (by simpa using hb)]
  exact if_pos (by simpa using mt h.mirrors_iff.mp hm)

theorem FrameIn.resync_applied (hm : s.Mirrors) :
    s1.resyncTake f = if f.end_ = true then (s1.itemsApply f.items).resyncDone else s1.itemsApply f.items := by
  unfold State.resyncTake
  rw [if_neg (by simpa using hb), if_neg (by simpa using h.mirrors_iff.mpr hm)]

end frame

/-! ### The lanes (R459, R460) -/

/-- The twin with a lane UP. -/
def Twn.laneUp (t : Twn) (l : Nat) : Twn := { t with lane0 := t.lane0 || l == 0, lane1 := t.lane1 || l == 1 }

/-- The twin with a lane down. -/
def Twn.laneDown (t : Twn) (l : Nat) : Twn := { t with lane0 := t.lane0 && l != 0, lane1 := t.lane1 && l != 1 }

theorem Twn.laneUp_eq {l : Nat} (t : Twn) (h : l < 2) : (if l = 0 then { t with lane0 := true } else { t with lane1 := true }) = t.laneUp l := by
  interval_cases l <;> simp [Twn.laneUp]

theorem Twn.laneDown_eq {l : Nat} (t : Twn) (h : l < 2) :
    (if l = 0 then { t with lane0 := false } else { t with lane1 := false }) = t.laneDown l := by
  interval_cases l <;> simp [Twn.laneDown]

/-- A pairing starts with FSEQ 0, and with the next EPOCH. -/
theorem State.pairStart_spec (s : State) : s.pairStart.twn = { s.twn with txFseq := 0 } ∧
    (∀ e, s.bkp.epoch = some e → s.flash.twinSaves = [] → s.pairStart.bkp.epoch = some ((e + 1) % 2 ^ 31)) := by
  unfold State.pairStart
  extract_lets saved any e0 s1
  refine ⟨?_, fun e he hs => ?_⟩
  · change { s1.twn with txFseq := 0 } = _
    have h1 : s1.twn = s.twn := by
      unfold s1
      split <;> rfl
    rw [h1]
  · have hany : any = true := by simp [any, he]
    have hsaved : saved = 0 := by simp [saved, hs]
    change some e0 = _
    simp only [e0, hany, he, hsaved, if_true, Option.getD_some, Nat.max_zero]

theorem aizLaneUpRow_eq {l : Nat} (h : l < 2) (s : State) : aizLaneUpRow l s =
    if s.aizUp = true ∨ (!s.twnOn) = true then s.modTwn fun t => t.laneUp l
    else (s.modTwn fun t => { t.laneUp l with helloDue := true }).pairStart := by
  unfold aizLaneUpRow
  simp only [Twn.laneUp_eq _ h]
  rfl

/-- Whether pairing is enabled and the unit not fenced (R458). -/
def State.TwinOn (s : State) : Prop := s.bit Reg.TWN_CFG 0 = true ∧ s.unitFenced 22 = false

theorem State.pairs_iff : ¬(s.aizUp = true ∨ (!s.twnOn) = true) ↔ s.TwinOn ∧ s.twn.lane0 = false ∧ s.twn.lane1 = false := by
  rw [State.TwinOn, ← State.twnOn_iff, State.aizUp]
  cases s.twn.lane0 <;> cases s.twn.lane1 <;> simp

theorem aizLaneUpRow_spec {l : Nat} (h : l < 2) (s : State) :
    (aizLaneUpRow l s).twn.lane0 = (s.twn.lane0 || l == 0) ∧ (aizLaneUpRow l s).twn.lane1 = (s.twn.lane1 || l == 1) ∧
      (aizLaneUpRow l s).twn.role = s.twn.role ∧
      (¬s.TwinOn ∨ s.twn.lane0 = true ∨ s.twn.lane1 = true →
        (aizLaneUpRow l s).bkp = s.bkp ∧ (aizLaneUpRow l s).twn.txFseq = s.twn.txFseq) ∧
      (∀ e, s.TwinOn → s.twn.lane0 = false → s.twn.lane1 = false → s.bkp.epoch = some e → s.flash.twinSaves = [] →
        (aizLaneUpRow l s).twn.helloDue = true ∧ (aizLaneUpRow l s).twn.txFseq = 0 ∧
          (aizLaneUpRow l s).bkp.epoch = some ((e + 1) % 2 ^ 31)) := by
  rw [aizLaneUpRow_eq h]
  by_cases hp : s.aizUp = true ∨ (!s.twnOn) = true
  · rw [if_pos hp]
    exact ⟨rfl, rfl, rfl, fun _ => ⟨rfl, rfl⟩, fun e hon h0 h1 => absurd hp (State.pairs_iff.mpr ⟨hon, h0, h1⟩)⟩
  · rw [if_neg hp]
    obtain ⟨hon, h0, h1⟩ := State.pairs_iff.mp hp
    obtain ⟨htwn, hbkp⟩ := (s.modTwn fun t => { t.laneUp l with helloDue := true }).pairStart_spec
    rw [htwn]
    refine ⟨rfl, rfl, rfl, fun hn => ?_, fun e _ _ _ he hs => ⟨rfl, rfl, hbkp e he hs⟩⟩
    rcases hn with hn | hn | hn
    · exact absurd hon hn
    · exact absurd hn (by simp [h0])
    · exact absurd hn (by simp [h1])

theorem aizLaneDownRow_spec {l : Nat} (h : l < 2) (s : State) :
    (aizLaneDownRow l s).twn.lane0 = (s.twn.lane0 && l != 0) ∧ (aizLaneDownRow l s).twn.lane1 = (s.twn.lane1 && l != 1) ∧
      (aizLaneDownRow l s).twn.role = s.twn.role ∧ (aizLaneDownRow l s).bkp = s.bkp := by
  unfold aizLaneDownRow
  simp only [Twn.laneDown_eq _ h]
  split <;> exact ⟨rfl, rfl, rfl, rfl⟩

/-! ### A HELLO sent (R461, R462) -/

@[simp] theorem leBytes_length (n v : Nat) : (leBytes n v).length = n := by
  induction n generalizing v with
  | zero => rfl
  | succ n ih => simp [leBytes, ih]

theorem padTo_length (n : Nat) (b : List Byte) : (padTo n b).length = n := by
  simp only [padTo, List.length_append, List.length_take, List.length_replicate]
  omega

/-- The payload of a HELLO. -/
def State.helloBytes (s : State) : List Byte :=
  padTo 48 (leBytes 4 s.idCap ++ leBytes 4 s.idCapCount ++ leBytes 4 s.engMask ++ leBytes 4 s.twn.role.code ++ tsBytes s.twn.activeSince ++
    leBytes 4 (s.setCheck s.cfg.active) ++ leBytes 4 s.health)

/-- The state with a HELLO no longer due. -/
def State.helloTaken (s : State) : State := s.modTwn fun t => { t with helloDue := false }

theorem State.setCheck_of_hw (h : t.hw = s.hw) (set : CfgSet) : t.setCheck set = s.setCheck set :=
  congrArg crc32c (State.canonical_of_hw h set)

theorem State.helloTaken_health (s : State) : s.helloTaken.health = s.health := by
  have hc (c : CfgSet) : s.helloTaken.setCheck c = s.setCheck c := State.setCheck_of_hw rfl c
  rw [State.health, State.health, hc]
  rfl

theorem State.helloTaken_helloBytes (s : State) : s.helloTaken.helloBytes = s.helloBytes := by
  have hc (c : CfgSet) : s.helloTaken.setCheck c = s.setCheck c := State.setCheck_of_hw rfl c
  rw [State.helloBytes, State.helloBytes, hc, s.helloTaken_health]
  rfl

/-- Whether a HELLO is due. -/
def State.HelloDue (s : State) : Prop := s.paired = false ∨ s.twn.helloDue = true

theorem helloTxRow_idle (h : ¬s.HelloDue) : helloTxRow s = s := by
  refine if_pos ?_
  rw [State.HelloDue] at h
  simpa using h

theorem helloTxRow_due (h : s.HelloDue) : helloTxRow s = s.helloTaken.aizSend 1 false s.helloBytes := by
  rw [← s.helloTaken_helloBytes]
  refine if_neg ?_
  rw [State.HelloDue] at h
  simpa [or_iff_not_imp_left] using h

/-- The HELLO that is sent: the next FSEQ and the other lane after it, its header and its payload put out. -/
theorem State.helloSent_spec (hc : s.helloTaken.aizContext = (sc, some key)) :
    (sc.aizPut key 1 false s.helloBytes).twn =
      { s.twn with helloDue := false, txFseq := s.twn.txFseq + 1, laneNext := 1 - s.twn.sendLane } ∧
    ∃ hdr, hdr = leBytes 2 48 ++ leBytes 1 1 ++ leBytes 1 0 ++ leBytes 4 ((s.bkp.epoch.getD 0) % 2 ^ 31 + 2 ^ 31 * b2n s.side) ++
        leBytes 8 s.twn.txFseq ∧
      (sc.aizPut key 1 false s.helloBytes).out =
        s.out ++ [.aizhan s.twn.sendLane (hdr ++ gcmSeal key (slice hdr 4 12) hdr s.helloBytes)] := by
  obtain ⟨-, hl⟩ := State.aizContext_some hc
  have ht : sc.twn = s.helloTaken.twn := by rw [hl]
  have ho : sc.out = s.out := by rw [hl]; rfl
  have hh : sc.aizHeader 1 false s.helloBytes = leBytes 2 48 ++ leBytes 1 1 ++ leBytes 1 0 ++
      leBytes 4 ((s.bkp.epoch.getD 0) % 2 ^ 31 + 2 ^ 31 * b2n s.side) ++ leBytes 8 s.twn.txFseq := by
    have hlen : s.helloBytes.length = 48 := padTo_length _ _
    rw [State.aizHeader, hlen, hl]
    rfl
  refine ⟨?_, _, rfl, ?_⟩
  · rw [State.aizPut_twn, ht]
    rfl
  · rw [State.aizPut, State.count_out, State.modTwn_out, State.emit_out, ho, hh, ht]
    rfl

end Sys2Proof.Machine
end
section
/-! SUPPORT. The twin: heartbeats sent and received, the mirror queue, the loss of a path and of the peer (R464, R465, R467, R468). -/

namespace Sys2Proof.Machine

variable {r s t u sc : State} {key p : List Byte}

/-! ### Mirrored items (R464, R465) -/

/-- The twin with another mirror queue. -/
def Twn.mirroring (t : Twn) (l : List (List Byte)) (stale : Bool) : Twn := { t with mirror := l, mirrorStale := stale }

/-- What an item put into the mirror queue, or not, leaves. -/
structure MirrorOut (s t : State) : Prop where
  twn : t.twn = s.twn.mirroring t.twn.mirror t.twn.mirrorStale
  dt : t.dt = s.dt
  flt : t.flt = s.flt
  key : t.key = s.key
  regs : ∀ o, o < 0x110040 → t.reg o = s.reg o

theorem State.mirrorItem_mirrorOut (s : State) (item : Nat) (body : List Byte) : MirrorOut s (s.mirrorItem item body) := by
  unfold State.mirrorItem
  extract_lets x
  split
  · split
    · exact ⟨rfl, rfl, rfl, rfl, fun _ _ => rfl⟩
    · refine ⟨?_, State.event_dt _ _ _, State.event_flt _ _ _, State.event_key _ _ _, fun o ho => ?_⟩
      · rw [State.event_twn, State.count_twn]
        rfl
      · rw [State.reg_event, if_neg (by simp only [Reg.TWN_EVT]; omega)]
        exact State.reg_count_ne _ (by simp only [Reg.TWN_CNT_LO]; omega) (by simp only [Reg.TWN_CNT_LO]; omega)
  · exact ⟨rfl, rfl, rfl, rfl, fun _ _ => rfl⟩

theorem MirrorOut.linkUp (h : MirrorOut s t) : t.LinkUp ↔ s.LinkUp := by
  rw [State.LinkUp, State.LinkUp, State.bit, State.bit, h.regs _ (by simp), State.unitFenced, State.unitFenced, h.flt, h.twn]
  rfl

theorem MirrorOut.aizKey (h : MirrorOut s t) : t.aizKey = s.aizKey := by
  have hs (i : Nat) : t.keySlot i = s.keySlot i := by rw [State.keySlot, State.keySlot, h.key]
  have hf : t.fld Reg.TWN_CFG 8 6 = s.fld Reg.TWN_CFG 8 6 := by rw [State.fld, State.fld, h.regs _ (by simp)]
  rw [State.aizKey, State.aizKey, State.slotFits, State.slotFits, hf, hs]

/-! ### Heartbeats sent (R464, R467) -/

/-- The state in which a heartbeat is sent: a TIME item has been mirrored when 100 ms have passed. -/
def State.hbStart (s : State) : State :=
  if s.twn.lastTime + 100 * subPerMs ≤ s.dt then (s.modTwn fun t => { t with lastTime := s.dt }).mirrorItem 6 s.timeItem else s

/-- A HEARTBEAT frame with a payload sent, as far as the link takes one. -/
def State.beatSend (s : State) (pl : List Byte) : State :=
  let sent := s.aizSend 2 false pl
  if sent.twn.txFseq = s.twn.txFseq then sent else sent.modTwn fun t => { t with hbSeq := (t.hbSeq + 1) % 65536 }

/-- The twin's HB word put out. -/
def State.wordSend (s : State) (w : Nat) : State :=
  (s.emit (.hbWord w)).modTwn fun t => { t with hbWordSeq := (t.hbWordSeq + 1) % 65536 }

theorem heartbeatTxRow_off (h : ¬s.TwinOn) : heartbeatTxRow s = s := by
  rw [State.TwinOn, ← State.twnOn_iff] at h
  exact if_pos (by simpa using h)

theorem heartbeatTxRow_on (h : s.TwinOn) : ∃ pl w, heartbeatTxRow s = (s.hbStart.beatSend pl).wordSend w := by
  rw [State.TwinOn, ← State.twnOn_iff] at h
  unfold heartbeatTxRow
  rw [if_neg (by simp [h])]
  exact ⟨_, _, rfl⟩

/-- The twin whose last TIME item has been noted, once a span has passed since the one before. -/
def Twn.timed (t : Twn) (dt span : Nat) : Twn := { t with lastTime := if t.lastTime + span ≤ dt then dt else t.lastTime }

theorem State.timed_after {span : Nat} (h : s.twn.lastTime + span ≤ s.dt) :
    s.modTwn (fun t => t.timed s.dt span) = s.modTwn fun t => { t with lastTime := s.dt } := by
  rw [State.modTwn_eq, Twn.timed, if_pos h]
  rfl

theorem State.timed_before {span : Nat} (h : ¬s.twn.lastTime + span ≤ s.dt) : s.modTwn (fun t => t.timed s.dt span) = s := by
  rw [State.modTwn_eq, Twn.timed, if_neg h]

theorem State.timed_linkUp (s : State) (span : Nat) : (s.modTwn fun t => t.timed s.dt span).LinkUp ↔ s.LinkUp := Iff.rfl

theorem State.timed_aizKey (s : State) (span : Nat) : (s.modTwn fun t => t.timed s.dt span).aizKey = s.aizKey := rfl

theorem State.hbStart_mirrorOut (s : State) : MirrorOut (s.modTwn fun t => t.timed s.dt (100 * subPerMs)) s.hbStart := by
  unfold State.hbStart
  split
  · next h =>
    rw [State.timed_after h]
    exact State.mirrorItem_mirrorOut _ _ _
  · next h =>
    rw [State.timed_before h]
    exact ⟨rfl, rfl, rfl, rfl, fun _ _ => rfl⟩

theorem State.hbStart_linkUp (s : State) : s.hbStart.LinkUp ↔ s.LinkUp := by
  rw [s.hbStart_mirrorOut.linkUp, State.timed_linkUp]

theorem State.hbStart_aizKey (s : State) : s.hbStart.aizKey = s.aizKey := by
  rw [s.hbStart_mirrorOut.aizKey, State.timed_aizKey]

theorem State.hbStart_twn (s : State) : ∃ l stale, s.hbStart.twn = (s.twn.timed s.dt (100 * subPerMs)).mirroring l stale := by
  have h := s.hbStart_mirrorOut.twn
  rw [State.modTwn_twn] at h
  exact ⟨_, _, h⟩

/-- The twin once a HEARTBEAT has been sent. -/
def Twn.beat (t : Twn) (tx lane seq : Nat) : Twn := { t with txFseq := tx, laneNext := lane, hbSeq := seq }

/-- The twin once an HB word has been sent. -/
def Twn.worded (t : Twn) : Twn := { t with hbWordSeq := (t.hbWordSeq + 1) % 65536 }

/-- A HEARTBEAT advances FSEQ and HB_SEQ, or neither. -/
theorem State.beatSend_spec (s : State) (pl : List Byte) :
    ∃ tx lane seq, (s.beatSend pl).twn = s.twn.beat tx lane seq ∧
      ((tx = s.twn.txFseq ∧ seq = s.twn.hbSeq) ∨ (tx = s.twn.txFseq + 1 ∧ seq = (s.twn.hbSeq + 1) % 65536)) ∧
      (¬s.LinkUp ∨ s.aizKey = none → tx = s.twn.txFseq) := by
  have hf := s.aizSend_frameOut false pl 2
  have htx := s.aizSend_txFseq false pl 2
  unfold State.beatSend
  extract_lets sent
  have h0 : sent.twn = { s.twn with txFseq := sent.twn.txFseq, laneNext := sent.twn.laneNext } := hf.twn
  by_cases he : sent.twn.txFseq = s.twn.txFseq
  · rw [if_pos he]
    exact ⟨_, _, s.twn.hbSeq, h0, .inl ⟨he, rfl⟩, fun _ => he⟩
  · rw [if_neg he]
    rcases htx with h1 | ⟨hup, hk, h1⟩
    · exact absurd h1 he
    · refine ⟨sent.twn.txFseq, sent.twn.laneNext, (s.twn.hbSeq + 1) % 65536, ?_, .inr ⟨h1, rfl⟩, fun hn => ?_⟩
      · rw [State.modTwn_twn, h0]
        rfl
      · rcases hn with hn | hn
        · exact absurd hup hn
        · exact absurd hn hk

theorem State.wordSend_twn (s : State) (w : Nat) : (s.wordSend w).twn = s.twn.worded := rfl

/-- What a heartbeat that is sent takes of the twin. -/
theorem Twn.heartbeat_spec (t : Twn) (dt span tx lane seq : Nat) (l : List (List Byte)) (stale : Bool) :
    let m := (t.timed dt span).mirroring l stale
    let u := (m.beat tx lane seq).worded
    (m.txFseq = t.txFseq ∧ m.hbSeq = t.hbSeq) ∧ u.role = t.role ∧ u.hbWordSeq = (t.hbWordSeq + 1) % 65536 ∧ u.txFseq = tx ∧ u.hbSeq = seq ∧
      u.lastTime = if t.lastTime + span ≤ dt then dt else t.lastTime := ⟨⟨rfl, rfl⟩, rfl, rfl, rfl, rfl, rfl⟩

theorem heartbeatTxRow_spec (h : s.TwinOn) : (heartbeatTxRow s).twn.role = s.twn.role ∧
    (heartbeatTxRow s).twn.hbWordSeq = (s.twn.hbWordSeq + 1) % 65536 ∧
    (((heartbeatTxRow s).twn.txFseq = s.twn.txFseq ∧ (heartbeatTxRow s).twn.hbSeq = s.twn.hbSeq) ∨
      ((heartbeatTxRow s).twn.txFseq = s.twn.txFseq + 1 ∧ (heartbeatTxRow s).twn.hbSeq = (s.twn.hbSeq + 1) % 65536)) ∧
    (¬s.LinkUp ∨ s.aizKey = none → (heartbeatTxRow s).twn.txFseq = s.twn.txFseq) ∧
    (heartbeatTxRow s).twn.lastTime = (if s.twn.lastTime + 100 * subPerMs ≤ s.dt then s.dt else s.twn.lastTime) := by
  obtain ⟨pl, w, e⟩ := heartbeatTxRow_on h
  obtain ⟨tx, lane, seq, hb, hseq, hdown⟩ := s.hbStart.beatSend_spec pl
  obtain ⟨l, stale, ht⟩ := s.hbStart_twn
  obtain ⟨⟨htx0, hseq0⟩, hrole, hword, htx, hseq1, hlast⟩ := s.twn.heartbeat_spec s.dt (100 * subPerMs) tx lane seq l stale
  rw [s.hbStart_linkUp, s.hbStart_aizKey, ht, htx0] at hdown
  rw [ht, htx0, hseq0] at hseq
  rw [e, State.wordSend_twn, hb, ht, hrole, hword, htx, hseq1, hlast]
  exact ⟨rfl, rfl, hseq, hdown, rfl⟩

/-! ### A word on HB_RX (R467) -/

/-- Whether a word on HB_RX is heard as the peer's. -/
def State.WordValid (s : State) (w : Nat) : Prop :=
  s.TwinOn ∧ bitsOf w 40 8 = 0xA5 ∧ crc8 (beBytes 5 (bitsOf w 8 40)) = bitsOf w 0 8 ∧ bitOf w 36 ≠ s.side

theorem State.wordValid_iff {w : Nat} : (s.twnOn = true ∧ bitsOf w 40 8 = 0xA5 ∧ crc8 (beBytes 5 (bitsOf w 8 40)) = bitsOf w 0 8 ∧
    bitOf w 36 ≠ s.side) ↔ s.WordValid w := by
  rw [State.WordValid, State.TwinOn, State.twnOn_iff]

theorem hbWordRxRow_invalid {w : Nat} (h : ¬s.WordValid w) : hbWordRxRow w s = s := if_neg (mt State.wordValid_iff.mp h)

theorem hbWordRxRow_valid {w : Nat} (h : s.WordValid w) :
    hbWordRxRow w s = (s.modTwn fun t => { t with hbAlive := true, lastHbRx := s.dt }).peerHeard (bitsOf w 37 3) :=
  if_pos (State.wordValid_iff.mpr h)

theorem hbWordRxRow_spec {w : Nat} (h : s.WordValid w) : (hbWordRxRow w s).twn.hbAlive = true ∧ (hbWordRxRow w s).twn.lastHbRx = s.dt ∧
    (hbWordRxRow w s).twn.peerLost = false ∧ (hbWordRxRow w s).twn.peerRole = bitsOf w 37 3 ∧
    (hbWordRxRow w s).twn.aizAlive = s.twn.aizAlive ∧ (hbWordRxRow w s).twn.role = s.twn.roleHearing (bitsOf w 37 3) := by
  rw [hbWordRxRow_valid h, State.peerHeard_role]
  have hm := (s.modTwn fun t => { t with hbAlive := true, lastHbRx := s.dt }).peerHeard_moved (bitsOf w 37 3)
  rw [hm.twn]
  exact ⟨rfl, rfl, rfl, rfl, rfl, rfl⟩

/-! ### Frames of the mirror queue (R465) -/

/-- The first payload packed is what has been packed before and some of the first items. -/
theorem packItems_head {l : List (List Byte)} {acc : List Byte} {ps : List (List Byte)} (h : packItems l acc = p :: ps) :
    ∃ k ≤ l.length, p = acc ++ (l.take k).flatten := by
  induction l generalizing acc with
  | nil =>
    rw [packItems] at h
    split at h
    · cases h
    · cases h
      exact ⟨0, le_rfl, by simp⟩
  | cons i is ih =>
    rw [packItems] at h
    split at h
    · obtain ⟨k, hk, e⟩ := ih h
      exact ⟨k + 1, Nat.succ_le_succ hk, by simp [e]⟩
    · cases h
      exact ⟨0, Nat.zero_le _, by simp⟩

/-- How many of the first items a payload of a length carries. -/
def carried (l : List (List Byte)) (m : Nat) : Nat :=
  ((List.range (l.length + 1)).filter fun k => ((l.take k).map List.length).sum ≤ m).length - 1

/-- A condition that smaller numbers keep is met by exactly the numbers below its count. -/
theorem count_of_downward (q : Nat → Prop) [DecidablePred q] (hq : ∀ a b, a ≤ b → q b → q a) (n : Nat) :
    (∀ k, k < Nat.count q n → q k) ∧ (∀ k, k < n → q k → k < Nat.count q n) := by
  induction n with
  | zero => simp
  | succ n ih =>
    by_cases hn : q n
    · have hall : Nat.count q (n + 1) = n + 1 := Nat.count_of_forall fun k hk => hq k n (Nat.le_of_lt_succ hk) hn
      rw [hall]
      exact ⟨fun k hk => hq k n (Nat.le_of_lt_succ hk) hn, fun _ hk _ => hk⟩
    · rw [Nat.count_succ, if_neg hn, Nat.add_zero]
      refine ⟨ih.1, fun k hk hqk => ih.2 k (lt_of_le_of_ne (Nat.le_of_lt_succ hk) ?_) hqk⟩
      rintro rfl
      exact hn hqk

/-- What a payload carries is the payload. -/
theorem take_carried {l : List (List Byte)} {j : Nat} (hj : j ≤ l.length) :
    (l.take (carried l (l.take j).flatten.length)).flatten = (l.take j).flatten := by
  have hlen (k : Nat) : ((l.take k).map List.length).sum = (l.take k).flatten.length := List.length_flatten.symm
  have hq (a b : Nat) (hab : a ≤ b) : (l.take a).flatten.length ≤ (l.take b).flatten.length := by
    rw [← List.take_append_drop a (l.take b), List.take_take, Nat.min_eq_left hab, List.flatten_append, List.length_append]
    exact Nat.le_add_right _ _
  obtain ⟨hlow, hhigh⟩ := count_of_downward (fun k => (l.take k).flatten.length ≤ (l.take j).flatten.length)
    (fun a b hab hb => (hq a b hab).trans hb) (l.length + 1)
  have hc : carried l (l.take j).flatten.length =
      Nat.count (fun k => (l.take k).flatten.length ≤ (l.take j).flatten.length) (l.length + 1) - 1 := by
    rw [Nat.count, List.countP_eq_length_filter, carried]
    simp only [hlen]
  have hjc := hhigh j (Nat.lt_succ_of_le hj) le_rfl
  have hn := hlow (carried l (l.take j).flatten.length) (by omega)
  have hjn : j ≤ carried l (l.take j).flatten.length := by omega
  generalize carried l (l.take j).flatten.length = n at hn hjn ⊢
  have hsplit : l.take n = l.take j ++ (l.take n).drop j := by
    conv_lhs => rw [← List.take_append_drop j (l.take n), List.take_take, Nat.min_eq_left hjn]
  rw [hsplit, List.flatten_append, List.length_append] at hn
  rw [hsplit, List.flatten_append, List.length_eq_zero_iff.mp (show ((l.take n).drop j).flatten.length = 0 by omega), List.append_nil]

theorem aizhanFrameSentRow_idle (h : ¬s.LinkUp ∨ s.twn.mirror = []) : aizhanFrameSentRow s = s := by
  unfold aizhanFrameSentRow
  by_cases hd : s.LinkUp
  · rw [if_neg (fun hc => State.linkDown_iff.mp hc hd), h.resolve_left (not_not.mpr hd)]
    rfl
  · exact if_pos (State.linkDown_iff.mpr hd)

theorem aizhanFrameSentRow_sends {ps : List (List Byte)} (h : s.LinkUp) (hp : packItems s.twn.mirror [] = p :: ps) :
    ∃ k, (s.twn.mirror.take k).flatten = p ∧
      aizhanFrameSentRow s = (s.modTwn fun t => { t with mirror := t.mirror.drop k }).aizSend 3 false p := by
  obtain ⟨j, hj, e⟩ := packItems_head hp
  rw [List.nil_append] at e
  refine ⟨carried s.twn.mirror p.length, ?_, ?_⟩
  · rw [e]
    exact take_carried hj
  · unfold aizhanFrameSentRow
    rw [if_neg (fun hc => State.linkDown_iff.mp hc h), hp]
    rfl

/-! ### The loss of a path and of the peer (R467, R468) -/

theorem State.advance_twn (s : State) (w : Nat) : (s.advance w).twn = s.twn := by
  unfold State.advance
  split <;> rfl

theorem State.advance_bst (s : State) (w : Nat) : (s.advance w).bst = s.bst := by
  unfold State.advance
  split <;> rfl

theorem pathLostRow_idle {hb : Bool} (h : (if hb then s.twn.hbAlive else s.twn.aizAlive) = false) : pathLostRow hb s = s := by
  unfold pathLostRow
  cases hb <;> simp_all

theorem pathLostRow_lost {hb : Bool} (h : (if hb then s.twn.hbAlive else s.twn.aizAlive) = true) :
    pathLostRow hb s = (s.advance ((if hb then s.twn.lastHbRx else s.twn.lastAizRx) + 1000 * subPerUs)).pathLoss hb := by
  unfold pathLostRow
  cases hb <;> simp_all

/-- The loss of a path at a time. -/
theorem State.pathLoss_advance (s : State) (w : Nat) (hb : Bool) : ((s.advance w).pathLoss hb).twn = s.twn.pathLost hb ∧
    (((s.advance w).pathLoss hb).reg Reg.TWN_EVT).getLsbD (if hb then 2 else 1) = true ∧ ((s.advance w).pathLoss hb).dt = max s.dt w :=
  ⟨by rw [State.pathLoss_twn, State.advance_twn], State.pathLoss_event _ _, by rw [State.pathLoss_dt, State.advance_dt]⟩

theorem bothLostRow_idle (h : s.twn.aizAlive = true ∨ s.twn.hbAlive = true ∨ ¬s.TwinOn) : bothLostRow s = s := by
  rw [State.TwinOn, ← State.twnOn_iff] at h
  exact if_pos (by simpa using h)

theorem bothLostRow_acts (ha : s.twn.aizAlive = false) (hh : s.twn.hbAlive = false) (hon : s.TwinOn) :
    bothLostRow s = (s.advance (max s.twn.lastAizRx s.twn.lastHbRx + 3000 * subPerUs)).bothLostAct := by
  rw [State.TwinOn, ← State.twnOn_iff] at hon
  exact if_neg (by simp [ha, hh, hon])

theorem State.losePeer_twn (s : State) : s.losePeer.twn = { s.twn with peerLost := true, mirrorOn := false } := State.event_twn _ _ _

theorem State.losePeer_dt (s : State) : s.losePeer.dt = s.dt := State.event_dt _ _ _

theorem State.losePeer_bst (s : State) : s.losePeer.bst = s.bst := State.event_bst _ _ _

/-- A promotion that is not a planned hand-over. -/
theorem State.promote_spec (s : State) : s.promote.twn.role = .taking ∧ s.promote.twn.planned = false ∧ s.promote.twn.takeH = none ∧
    s.promote.twn.peerLost = s.twn.peerLost ∧ s.promote.twn.takeAt = s.twn.takeAt ∧ s.promote.dt = s.dt := by
  have hm := (s.modTwn fun t => { t with takePending := false, takeH := none, planned := false }).setRole_moved .taking
  refine ⟨State.setRole_role _ _, ?_, ?_, ?_, ?_, hm.dt⟩ <;>
  · rw [State.promote, hm.twn]
    rfl

/-- A standby that has lost its peer is promoted, once a whole-device test has ended. -/
theorem State.bothLostAct_standby (h : s.twn.role = .standby) : s.bothLostAct.dt = s.dt ∧ s.bothLostAct.twn.peerLost = true ∧
    s.bothLostAct.twn.takeAt = s.dt ∧
    (s.bst.running = true → s.bst.mode = 1 → s.bothLostAct.twn.role = .standby ∧ s.bothLostAct.twn.takePending = true) ∧
    (¬(s.bst.running = true ∧ s.bst.mode = 1) →
      s.bothLostAct.twn.role = .taking ∧ s.bothLostAct.twn.planned = false ∧ s.bothLostAct.twn.takeH = none) := by
  unfold State.bothLostAct
  rw [h]
  extract_lets s2
  have htwn : s2.twn = { s.twn with peerLost := true, mirrorOn := false, takeAt := s.dt } :=
    congrArg (fun t : Twn => { t with takeAt := s.dt }) s.losePeer_twn
  have hdt : s2.dt = s.dt := s.losePeer_dt
  have hbst : s2.bst = s.bst := s.losePeer_bst
  rw [hbst]
  by_cases hb : s.bst.running = true ∧ s.bst.mode = 1
  · simp only [if_pos hb]
    exact ⟨hdt, congrArg Twn.peerLost htwn, congrArg Twn.takeAt htwn, fun _ _ => ⟨(congrArg Twn.role htwn).trans h, rfl⟩,
      fun hn => absurd hb hn⟩
  · simp only [if_neg hb]
    obtain ⟨h1, h2, h3, h4, h5, h6⟩ := s2.promote_spec
    exact ⟨h6.trans hdt, h4.trans (congrArg Twn.peerLost htwn), h5.trans (congrArg Twn.takeAt htwn), fun hr hm => absurd ⟨hr, hm⟩ hb,
      fun _ => ⟨h1, h2, h3⟩⟩

/-- An active device that has lost its peer keeps its role. -/
theorem State.bothLostAct_active (h : s.twn.role = .active ∨ s.twn.role = .handing) : s.bothLostAct.dt = s.dt ∧
    s.bothLostAct.twn.peerLost = true ∧ s.bothLostAct.twn.role = s.twn.role := by
  have e : s.bothLostAct = if s.twn.peerLost then s else s.losePeer := by
    unfold State.bothLostAct
    rcases h with h | h <;> rw [h]
  rw [e]
  split
  · next hl => exact ⟨rfl, hl, rfl⟩
  · exact ⟨s.losePeer_dt, congrArg Twn.peerLost s.losePeer_twn, by rw [State.losePeer_twn]⟩

theorem State.bothLostAct_joining (h : s.twn.role = .joining) : s.bothLostAct = s.setRole .solo := by
  unfold State.bothLostAct
  rw [h]

theorem State.bothLostAct_other (h : s.twn.role ∈ [Role.solo, .wait, .taking, .mismatch]) : s.bothLostAct = s := by
  unfold State.bothLostAct
  simp only [List.mem_cons, List.not_mem_nil, or_false] at h
  rcases h with h | h | h | h <;> rw [h]

/-- What each role does once both paths are lost, at the time they are. -/
theorem State.bothLostAct_advance (s : State) (w : Nat) : ((s.advance w).bothLostAct).dt = max s.dt w ∧
    (s.twn.role = .standby → (s.advance w).bothLostAct.twn.peerLost = true ∧ (s.advance w).bothLostAct.twn.takeAt = max s.dt w ∧
      (s.bst.running = true → s.bst.mode = 1 →
        (s.advance w).bothLostAct.twn.role = .standby ∧ (s.advance w).bothLostAct.twn.takePending = true) ∧
      (¬(s.bst.running = true ∧ s.bst.mode = 1) → (s.advance w).bothLostAct.twn.role = .taking ∧
        (s.advance w).bothLostAct.twn.planned = false ∧ (s.advance w).bothLostAct.twn.takeH = none)) ∧
    (s.twn.role = .active ∨ s.twn.role = .handing →
      (s.advance w).bothLostAct.twn.peerLost = true ∧ (s.advance w).bothLostAct.twn.role = s.twn.role) ∧
    (s.twn.role = .joining → (s.advance w).bothLostAct.twn.role = .solo) ∧
    (s.twn.role ∈ [Role.solo, .wait, .taking, .mismatch] → (s.advance w).bothLostAct.twn.role = s.twn.role) := by
  have ht := s.advance_twn w
  have hb := s.advance_bst w
  have hd := s.advance_dt w
  have hs := State.bothLostAct_standby (s := s.advance w)
  have ha := State.bothLostAct_active (s := s.advance w)
  have hj := State.bothLostAct_joining (s := s.advance w)
  have ho := State.bothLostAct_other (s := s.advance w)
  rw [ht, hd, hb] at hs
  rw [ht, hd] at ha
  rw [ht] at hj ho
  refine ⟨?_, fun h => (hs h).2, fun h => (ha h).2, fun h => ?_, fun h => ?_⟩
  · cases h : s.twn.role with
    | standby => exact (hs h).1
    | active => exact (ha (.inl h)).1
    | handing => exact (ha (.inr h)).1
    | joining =>
      rw [hj h, State.setRole_dt, hd]
    | solo => rw [ho (by simp [h]), hd]
    | wait => rw [ho (by simp [h]), hd]
    | taking => rw [ho (by simp [h]), hd]
    | mismatch => rw [ho (by simp [h]), hd]
  · rw [hj h, State.setRole_role]
  · rw [ho h, ht]

end Sys2Proof.Machine
end
section
/-! SUPPORT. The twin's link: every command of it (O54). -/

namespace Sys2Proof.Machine

variable {s sc s1 : State} {x key b : List Byte} {f : AizRx} {p : Nat × Instr}

/-! ### A HELLO that is due (R461) -/

section due

variable (hd : s.HelloDue)
include hd

theorem helloTx_down (hu : ¬s.LinkUp) : helloTxRow s = s.helloTaken :=
  (helloTxRow_due hd).trans (State.aizSend_down (s := s.helloTaken) _ _ hu)

variable (hu : s.LinkUp)
include hu

theorem helloTx_noKey (hk : s.aizKey = none) : helloTxRow s = s.helloTaken.keyUseErr :=
  (helloTxRow_due hd).trans (State.aizSend_noContext (s := s.helloTaken) _ _ hu (State.aizContext_noKey (s := s.helloTaken) hk))

theorem helloTx_noContext (hc : s.helloTaken.aizContext = (sc, none)) : helloTxRow s = sc :=
  (helloTxRow_due hd).trans (State.aizSend_noContext (s := s.helloTaken) _ _ hu hc)

theorem helloTx_sent (hc : s.helloTaken.aizContext = (sc, some key)) : helloTxRow s = sc.aizPut key 1 false s.helloBytes :=
  (helloTxRow_due hd).trans (State.aizSend_sent (s := s.helloTaken) _ _ hu hc)

end due

/-! ### The answers of the rows that receive a frame -/

section rows

variable (hp : p ∈ [(1, Instr.hello x), (2, .heartbeat x), (3, .mirror x), (4, .handover x), (5, .take x), (6, .resync x)])
include hp

/-- What a received frame comes to when no accepted frame is acted on. -/
theorem aizRow_answers : (¬s.LinkUp → Answers p.2 s s) ∧
    (s.LinkUp → s.aizKey = none → Answers p.2 s s.keyUseErr.authFail) ∧
    (s.LinkUp → s.aizKey ≠ none → s.aizContext = (sc, none) → Answers p.2 s (sc.count (Reg.TWN_CNT_LO 3))) ∧
    (s.LinkUp → s.aizContext = (sc, some key) → aizOpen key x = none → Answers p.2 s sc.authFail) := by
  obtain ⟨-, -, k, hk⟩ := answers_aizRx x s p hp
  exact ⟨fun h => .of (State.aizRx_down h) hk, fun h hn => .of (State.aizRx_noKey h hn) hk,
    fun h hn hc => .of (State.aizRx_noContext h hn hc) hk, fun h hc ho => .of (State.aizRx_badTag h hc ho) hk⟩

/-- What a frame that is opened comes to when it is dropped, or of another TYPE. -/
theorem aizRow_opened (h : s.Opened sc key x f) : (f.typ = 0 ∨ 7 ≤ f.typ → Answers p.2 s (sc.count (Reg.TWN_CNT_LO 3))) ∧
    (f.typ ≠ p.1 → 1 ≤ f.typ → f.typ ≤ 6 → Answers p.2 s sc) ∧
    (f.typ = p.1 → f.typ = 1 → f.side = s.side → Answers p.2 s (sc.count (Reg.TWN_CNT_LO 2))) ∧
    (f.typ = p.1 → (f.typ = 1 → f.side ≠ s.side) → ¬(s.FrameFresh f ∧ f.Whole) → Answers p.2 s (sc.count (Reg.TWN_CNT_LO 3))) := by
  obtain ⟨h1, h6, k, hk⟩ := answers_aizRx x s p hp
  exact ⟨fun ht => .of (h.unknown (by omega) ht) hk, fun ht ht1 ht6 => .of (h.other ht ht1 ht6) hk,
    fun ht ht1 hs => .of (h.ownSide ht ht1 hs) hk, fun ht hs hd => .of (h.dropped ht hs hd) hk⟩

end rows

/-- A frame of a TYPE that is accepted. -/
structure State.Accepted (s sc : State) (key x : List Byte) (f : AizRx) (typ : Nat) : Prop where
  frame : s.Opened sc key x f
  typ_eq : f.typ = typ
  fresh : s.FrameFresh f
  whole : f.Whole

theorem State.Accepted.takes {typ : Nat} (h : s.Accepted sc key x f typ) (k : AizRx → State → State) :
    ∃ s1, FrameIn s f s1 ∧ s.aizRx typ x k = k f s1 := h.frame.takes h.typ_eq h.fresh h.whole k

section at_

variable (hg : s.FrameGap f → s1 = (sc.frameNoted f).resyncRequest) (hn : ¬s.FrameGap f → s1 = sc.frameNoted f)
include hg hn

/-- A MIRROR frame that is accepted. -/
theorem mirror_answers (h : s.Accepted sc key x f 3) : FrameIn s f s1 ∧ Answers (.mirror x) s (s1.mirrorTake f) :=
  ⟨h.frame.frameIn hg hn, .of ((mirrorRow_eq x s).trans (h.frame.accepted h.typ_eq h.fresh h.whole hg hn)) rfl⟩

/-- A RESYNC frame that is accepted. -/
theorem resync_answers (h : s.Accepted sc key x f 6) : FrameIn s f s1 ∧ Answers (.resync x) s (s1.resyncTake f) :=
  ⟨h.frame.frameIn hg hn, .of ((resyncRow_eq x s).trans (h.frame.accepted h.typ_eq h.fresh h.whole hg hn)) rfl⟩

end at_

/-- The answer to a HELLO that is accepted. -/
theorem hello_answers (h : s.Accepted sc key x f 1) : ∃ s1, FrameIn s f s1 ∧ Answers (.hello x) s (s1.helloTake f.payload) := by
  obtain ⟨s1, hin, e⟩ := h.takes fun f s => s.helloTake f.payload
  exact ⟨s1, hin, .of e rfl⟩

/-- The answer to a HEARTBEAT that is accepted. -/
theorem heartbeat_answers (h : s.Accepted sc key x f 2) :
    ∃ s1, FrameIn s f s1 ∧ Answers (.heartbeat x) s (s1.heartbeatTake f.payload) := by
  obtain ⟨s1, hin, e⟩ := h.takes fun f s => s.heartbeatTake f.payload
  exact ⟨s1, hin, .of e rfl⟩

/-- Settles O54: each received frame is dropped, ignored or acted on as its header, its tag and the device's role say, and each command of
the link does what its own row says. -/
theorem twinLinkRuns : Obligations.TwinLinkRuns := by
  unfold Obligations.TwinLinkRuns
  intro lane w hb x key f s sc
  extract_lets t b on up opened fresh whole accepted gap s0 sh due items mirrors valid drop
  have acc {typ : Nat} (h : accepted typ) : s.Accepted sc key x f typ := by
    obtain ⟨hup, ⟨hc, ho⟩, ht, hf, hw⟩ := h
    exact ⟨⟨hup, hc, ho⟩, ht, hf, hw⟩
  refine ⟨fun p hp => ?_, fun h => State.aizContext_some h, s.authFail_spec, fun h => ?_, fun h => ?_, fun s1 hg hn => ⟨fun h => ?_, fun h => ?_⟩,
    ⟨fun h => ⟨_, rfl, aizLaneUpRow_spec h s⟩, fun h => ⟨_, rfl, aizLaneDownRow_spec h s⟩⟩, fun h => .of (helloTxRow_idle h) rfl,
    fun hd hu => .of (helloTx_down hd hu) rfl, fun hd hu hk => .of (helloTx_noKey hd hu hk) rfl,
    fun hd hu hc => .of (helloTx_noContext hd hu hc) rfl, fun hd hu hc => ?_, fun h => .of (heartbeatTxRow_off h) rfl,
    fun h => ⟨_, rfl, heartbeatTxRow_spec h⟩, fun h => .of (hbWordRxRow_invalid h) rfl, fun h => ⟨_, rfl, hbWordRxRow_spec h⟩,
    fun h => .of (aizhanFrameSentRow_idle h) rfl, fun p ps hu hp => ?_, fun h => .of (pathLostRow_idle h) rfl,
    fun h => ⟨_, .of (pathLostRow_lost h) rfl, State.pathLoss_advance s _ hb⟩, fun h => .of (bothLostRow_idle h) rfl, fun ha hh ho => ?_⟩
  · obtain ⟨h1, h2, h3, h4⟩ := aizRow_answers (s := s) (sc := sc) (key := key) hp
    have hopen (hup : up) (ho : opened) := aizRow_opened hp ⟨hup, ho.1, ho.2⟩
    exact ⟨h1, h2, h3, h4, fun hup ho => (hopen hup ho).1, fun hup ho => (hopen hup ho).2.1, fun hup ho => (hopen hup ho).2.2.1,
      fun hup ho => (hopen hup ho).2.2.2⟩
  · obtain ⟨s1, hin, hans⟩ := hello_answers (acc h)
    obtain ⟨hrole, hhealth, hepoch, hfseq, hseen, hcheck⟩ := hin.hello_peer b
    exact ⟨_, hans, hrole, hhealth, hepoch, hfseq, hseen, fun hr => s1.helloTake_waitHeard b (hr.trans hin.role.symm), hcheck,
      fun hd hr => hin.hello_mismatch hd hr, fun hd hr => hin.hello_differs hd hr, fun hs ha hr => hin.hello_joins hs ha hr,
      fun hs hr => hin.hello_stays hs hr⟩
  · obtain ⟨s1, hin, hans⟩ := heartbeat_answers (acc h)
    exact ⟨_, hans, hin.heartbeat b⟩
  · obtain ⟨hin, hans⟩ := mirror_answers hg hn (acc h)
    exact ⟨fun hr => .of (hin.mirror_ignored hr) hans, fun hr => .of (hin.mirror_active hr) hans, fun hr => .of (hin.mirror_applied hr) hans⟩
  · obtain ⟨hin, hans⟩ := resync_answers hg hn (acc h)
    refine ⟨fun hb ha hm => .of (hin.resync_asked hb ha hm) hans, fun hb ha => .of (hin.resync_refused hb ha) hans,
      fun hb hm => .of (hin.resync_ignored hb hm) hans, fun hb hm he => .of ((hin.resync_applied hb hm).trans (if_neg (by simp [he]))) hans,
      fun hb hm he => ⟨_, .of ((hin.resync_applied hb hm).trans (if_pos he)) hans, State.resyncDone_spec _⟩⟩
  · obtain ⟨htwn, hdr, he, hout⟩ := State.helloSent_spec hc
    exact ⟨_, hdr, .of (helloTx_sent hd hu hc) rfl, htwn, he, hout⟩
  · obtain ⟨k, hk, e⟩ := aizhanFrameSentRow_sends hu hp
    exact ⟨k, hk, .of e rfl⟩
  · obtain ⟨hdt, hrest⟩ := s.bothLostAct_advance (max s.twn.lastAizRx s.twn.lastHbRx + 3000 * subPerUs)
    rw [← bothLostRow_acts ha hh ho] at hdt hrest
    refine ⟨_, rfl, hdt, ?_⟩
    rw [hdt]
    exact hrest

end Sys2Proof.Machine
end

section
/-! SUPPORT. The twin: a planned hand-over requested, a resynchronisation asked for, the saved state (R466, R469, R474). -/

namespace Sys2Proof.Machine

variable {s t s1 : State} {cmd : Instr} {force : Bool} {mid : Option Nat} {k : State → State}

/-! ### A request for a planned hand-over (R469) -/

section grid

variable (hcfg : t.cfg = s.cfg) (htb : t.tb = s.tb)
include hcfg htb

theorem State.rateAhead_of_tb (sec : Nat) : t.rateAhead sec = s.rateAhead sec := by
  have hrate : t.rateOf sec = s.rateOf sec := by rw [State.rateOf, State.rateOf, htb]
  rw [State.rateAhead, State.rateAhead, hcfg, htb, hrate]

theorem State.instantFrom_of_tb (w n fuel sec : Nat) : t.instantFrom w n fuel sec = s.instantFrom w n fuel sec := by
  induction fuel generalizing sec with
  | zero => rfl
  | succ fuel ih =>
    rw [State.instantFrom, State.instantFrom, State.rateAhead_of_tb hcfg htb, ih]

theorem State.instantAfter_of_tb (w n : Nat) : t.instantAfter w n = s.instantAfter w n := State.instantFrom_of_tb hcfg htb _ _ _ _

end grid

/-- A hand-over that ends at once, not done. -/
theorem State.hoEnd_refused (s : State) {result : Nat} (h : result ≠ 1) (mid : Option Nat) :
    s.hoEnd result mid = (s.modTwn fun t => { t with hoResult := result, hoDone := true }).finishOpt mid stRefused result [] := by
  rw [State.hoEnd, if_neg h]

/-- The state in which a hand-over has been started, at an instant when a grid gives one. -/
def State.hoStart (s : State) (h : Option Nat) (force : Bool) (mid : Option Nat) : State :=
  (s.modTwn fun x => { x with handOver := some ⟨h, force, mid, s.dt, false⟩, hoDone := false, hoPlanned := true }).setRole .handing

/-- A hand-over started, and its frame sent when it has an instant. -/
def State.hoBegin (s : State) (h : Option Nat) (force : Bool) (mid : Option Nat) : State :=
  match h with
  | some at_ => (s.hoStart h force mid).hoFrame at_ force
  | none => s.hoStart h force mid

theorem State.hoStart_twn (s : State) (h : Option Nat) (force : Bool) (mid : Option Nat) : (s.hoStart h force mid).twn.role = .handing ∧
    (s.hoStart h force mid).twn.handOver = some ⟨h, force, mid, s.dt, false⟩ ∧ (s.hoStart h force mid).twn.hoDone = false := by
  have hm := (s.modTwn fun x => { x with handOver := some ⟨h, force, mid, s.dt, false⟩, hoDone := false, hoPlanned := true }).setRole_moved
    .handing
  refine ⟨State.setRole_role _ _, ?_, ?_⟩ <;>
  · rw [State.hoStart, hm.twn]
    rfl

/-- Whether a hand-over is under way. -/
def Twn.HoBusy (t : Twn) : Prop := t.role = .handing ∨ t.formerActive ≠ none

theorem Twn.hoBusy_iff {t : Twn} : (t.role = .handing ∨ t.formerActive.isSome = true) ↔ t.HoBusy := by
  rw [Twn.HoBusy, Option.isSome_iff_ne_none]

theorem State.hoRequest_busy (h : s.twn.HoBusy) : s.hoRequest force mid = s.hoEnd 5 mid := if_pos (Twn.hoBusy_iff.mpr h)

section free

variable (hb : ¬s.twn.HoBusy)
include hb

theorem State.hoRequest_role (hr : s.twn.role ≠ .active) : s.hoRequest force mid = s.hoEnd 2 mid := by
  unfold State.hoRequest
  rw [if_neg (mt Twn.hoBusy_iff.mp hb), if_pos hr]

variable (hr : s.twn.role = .active)
include hr

theorem State.hoRequest_differs (hf : force = false) (hc : s.twn.cfgDiff = true) : s.hoRequest force mid = s.hoEnd 4 mid := by
  unfold State.hoRequest
  rw [if_neg (mt Twn.hoBusy_iff.mp hb), if_neg (not_not.mpr hr), if_pos (by simp [hf, hc])]

theorem State.hoRequest_notReady (hf : force = false) (hc : s.twn.cfgDiff = false)
    (hn : s.twn.peerHealth.getLsbD 0 = false ∨ s.twn.dtDiffFlag = true) : s.hoRequest force mid = s.hoEnd 3 mid := by
  unfold State.hoRequest
  rw [if_neg (mt Twn.hoBusy_iff.mp hb), if_neg (not_not.mpr hr), if_neg (by simp [hc]), if_pos (by simpa [hf] using hn)]

theorem State.hoRequest_begins (ho : force = true ∨ (s.twn.cfgDiff = false ∧ s.twn.peerHealth.getLsbD 0 = true ∧ s.twn.dtDiffFlag = false)) :
    s.hoRequest force mid = s.hoBegin ((s.instantAfter (s.dt + 2 * subPerMs) 0).map fun x => x.2.2) force mid := by
  have h4 : ¬((!force) = true ∧ s.twn.cfgDiff = true) := by
    rcases ho with ho | ⟨ho, -, -⟩ <;> simp [ho]
  have h3 : ¬((!force) = true ∧ ((!s.twn.peerHealth.getLsbD 0) = true ∨ s.twn.dtDiffFlag = true)) := by
    rcases ho with ho | ⟨-, ho1, ho2⟩
    · simp [ho]
    · rw [ho1, ho2]
      simp
  unfold State.hoRequest
  rw [if_neg (mt Twn.hoBusy_iff.mp hb), if_neg (not_not.mpr hr), if_neg h4, if_neg h3]
  rfl

end free

/-- What a request for a planned hand-over answers, made in the state s1. -/
def State.HoAsked (s : State) (cmd : Instr) (s1 : State) (force : Bool) (mid : Option Nat) : Prop :=
  (s.twn.HoBusy → ∃ u, Answers cmd s (u.finishOpt mid stRefused 5 []) ∧ u = s1.modTwn fun t => { t with hoResult := 5, hoDone := true }) ∧
  (¬s.twn.HoBusy → s.twn.role ≠ .active →
    ∃ u, Answers cmd s (u.finishOpt mid stRefused 2 []) ∧ u = s1.modTwn fun t => { t with hoResult := 2, hoDone := true }) ∧
  (¬s.twn.HoBusy → s.twn.role = .active → force = false → s.twn.cfgDiff = true →
    ∃ u, Answers cmd s (u.finishOpt mid stRefused 4 []) ∧ u = s1.modTwn fun t => { t with hoResult := 4, hoDone := true }) ∧
  (¬s.twn.HoBusy → s.twn.role = .active → force = false → s.twn.cfgDiff = false →
    (s.twn.peerHealth.getLsbD 0 = false ∨ s.twn.dtDiffFlag = true) →
    ∃ u, Answers cmd s (u.finishOpt mid stRefused 3 []) ∧ u = s1.modTwn fun t => { t with hoResult := 3, hoDone := true }) ∧
  (¬s.twn.HoBusy → s.twn.role = .active →
    (force = true ∨ (s.twn.cfgDiff = false ∧ s.twn.peerHealth.getLsbD 0 = true ∧ s.twn.dtDiffFlag = false)) →
    ∃ u : State,
      (∀ at_, (s.instantAfter (s.dt + 2 * subPerMs) 0).map (fun x => x.2.2) = some at_ →
        Answers cmd s (u.aizSend 4 false (padTo 16 (tsBytes at_ ++ leBytes 1 (b2n force))))) ∧
      ((s.instantAfter (s.dt + 2 * subPerMs) 0).map (fun x => x.2.2) = none → Answers cmd s u) ∧ u.twn.role = .handing ∧
      u.twn.handOver = some ⟨(s.instantAfter (s.dt + 2 * subPerMs) 0).map fun x => x.2.2, force, mid, s.dt, false⟩ ∧ u.twn.hoDone = false)

/-- A command that requests a planned hand-over, in a state with the twin, DT and the grid of the state it is taken in. -/
theorem hoAsked_of (hans : Answers cmd s (s1.hoRequest force mid)) (htwn : s1.twn = s.twn) (hdt : s1.dt = s.dt) (hcfg : s1.cfg = s.cfg)
    (htb : s1.tb = s.tb) : s.HoAsked cmd s1 force mid := by
  have ends {result : Nat} (h1 : result ≠ 1) (h : s1.hoRequest force mid = s1.hoEnd result mid) :
      ∃ u, Answers cmd s (u.finishOpt mid stRefused result []) ∧ u = s1.modTwn fun t => { t with hoResult := result, hoDone := true } :=
    ⟨_, .of (h.trans (s1.hoEnd_refused h1 mid)) hans, rfl⟩
  rw [State.HoAsked, ← htwn, ← hdt, ← State.instantAfter_of_tb hcfg htb]
  refine ⟨fun hb => ends (by decide) (State.hoRequest_busy hb), fun hb hr => ends (by decide) (State.hoRequest_role hb hr),
    fun hb hr hf hc => ends (by decide) (State.hoRequest_differs hb hr hf hc),
    fun hb hr hf hc hn => ends (by decide) (State.hoRequest_notReady hb hr hf hc hn), fun hb hr ho => ?_⟩
  rw [State.hoRequest_begins hb hr ho] at hans
  generalize (s1.instantAfter (s1.dt + 2 * subPerMs) 0).map (fun x => x.2.2) = h at hans ⊢
  refine ⟨s1.hoStart h force mid, fun at_ he => ?_, fun he => ?_, s1.hoStart_twn h force mid⟩
  · rw [he] at hans ⊢
    exact hans
  · rw [he] at hans ⊢
    exact hans

/-! ### A resynchronisation asked for (R466) -/

/-- What a command that asks for a resynchronisation answers. -/
def State.Resynced (s : State) (cmd : Instr) (s1 : State) (k : State → State) : Prop :=
  (s.twn.role = .standby ∨ s.twn.role = .joining → Answers cmd s (k s1.resyncRequest)) ∧
  (s.twn.role = .active ∨ s.twn.role = .handing → Answers cmd s (k s1.resyncSend)) ∧
  (s.twn.role ∈ [Role.solo, .wait, .taking, .mismatch] → Answers cmd s (k s1))

theorem State.resyncCommand_asks (h : s.twn.role = .standby ∨ s.twn.role = .joining) : s.resyncCommand = s.resyncRequest := if_pos h

theorem State.resyncCommand_sends (h : s.twn.role = .active ∨ s.twn.role = .handing) : s.resyncCommand = s.resyncSend := by
  unfold State.resyncCommand
  rw [if_neg (by rcases h with h | h <;> simp [h])]
  exact if_pos h

theorem State.resyncCommand_nothing (h : s.twn.role ∈ [Role.solo, .wait, .taking, .mismatch]) : s.resyncCommand = s := by
  simp only [List.mem_cons, List.not_mem_nil, or_false] at h
  unfold State.resyncCommand
  rcases h with h | h | h | h <;> simp [h]

theorem resynced_of (hans : Answers cmd s (k s1.resyncCommand)) (htwn : s1.twn = s.twn) : s.Resynced cmd s1 k := by
  rw [State.Resynced, ← htwn]
  exact ⟨fun h => .of (congrArg k (State.resyncCommand_asks h)) hans, fun h => .of (congrArg k (State.resyncCommand_sends h)) hans,
    fun h => .of (congrArg k (State.resyncCommand_nothing h)) hans⟩

/-! ### The saved state (R474) -/

/-- The order of a slot of the twin saved state; an empty one comes first. -/
def saveOrder (x : Option TwnSave) : Nat := match x with | some y => y.order + 1 | none => 0

/-- The flash with a twin saved state in the older of its two slots. -/
def Flash.putTwin (f : Flash) (x : TwnSave) : Flash :=
  if saveOrder f.twin0 ≤ saveOrder f.twin1 then { f with twin0 := some x } else { f with twin1 := some x }

/-- The device's twin saved state, with a CRC. -/
def State.twnSaved (s : State) (c : Nat) : TwnSave :=
  ⟨s.alm.slots, s.streamSeqs, s.destSeqs, s.bkp.epoch.getD 0, s.twn.role.code, max (saveOrder s.flash.twin0) (saveOrder s.flash.twin1), c⟩

theorem State.twnSaved_bytes (s : State) (c : Nat) : (s.twnSaved c).bytes = (s.twnSaved 0).bytes := rfl

theorem State.twnSave_written (s : State) :
    s.twnSave true = ({ s with flash := s.flash.putTwin (s.twnSaved (crc32c (s.twnSaved 0).bytes)) }).count (Reg.TWN_CNT_LO 10) := rfl

theorem State.twnSave_failed (s : State) : s.twnSave false =
    (({ s.freshNext with flash := s.flash.putTwin (s.twnSaved (s.freshVal % 2 ^ 32)) }).event Reg.TWN_EVT 12).report 62 0 (unitCode 22) 0 0 := rfl

/-- What a save that the flash takes leaves. -/
def State.Saved (s : State) (cmd : Instr) (s1 : State) (k : State → State) : Prop :=
  ∃ u x, Answers cmd s (k u) ∧ x.slots = s.alm.slots ∧ x.epoch = s.bkp.epoch.getD 0 ∧ x.role = s.twn.role.code ∧
    x.order = max (saveOrder s.flash.twin0) (saveOrder s.flash.twin1) ∧ x.crc = crc32c x.bytes ∧ u.twn = s1.twn ∧ u.dram = s1.dram ∧
    (saveOrder s.flash.twin0 ≤ saveOrder s.flash.twin1 → u.flash = { s.flash with twin0 := some x }) ∧
    (saveOrder s.flash.twin1 < saveOrder s.flash.twin0 → u.flash = { s.flash with twin1 := some x })

/-- What a save that the flash does not take leaves. -/
def State.Unsaved (s : State) (cmd : Instr) (s1 : State) (k : State → State) : Prop :=
  ∃ (f : Flash) (x : TwnSave), Answers cmd s (k ((({ s1.freshNext with flash := f }).event Reg.TWN_EVT 12).report 62 0 (unitCode 22) 0 0)) ∧
    x.crc < 2 ^ 32 ∧
    f = if saveOrder s.flash.twin0 ≤ saveOrder s.flash.twin1 then { s.flash with twin0 := some x } else { s.flash with twin1 := some x }

section save

variable (halm : s1.alm = s.alm) (hflash : s1.flash = s.flash)
include hflash

theorem unsaved_of (hans : Answers cmd s (k (s1.twnSave false))) : s.Unsaved cmd s1 k := by
  refine ⟨_, s1.twnSaved (s1.freshVal % 2 ^ 32), .of (congrArg k s1.twnSave_failed) hans, Nat.mod_lt _ (by decide), ?_⟩
  rw [hflash]
  rfl

include halm

theorem saved_of (hbkp : s1.bkp = s.bkp) (htwn : s1.twn = s.twn) (hans : Answers cmd s (k (s1.twnSave true))) : s.Saved cmd s1 k := by
  rw [s1.twnSave_written] at hans
  rw [State.Saved, ← halm, ← hflash, ← hbkp, ← htwn]
  refine ⟨_, s1.twnSaved (crc32c (s1.twnSaved 0).bytes), hans, rfl, rfl, rfl, rfl, ?_, State.count_twn _ _, State.count_dram _ _, fun h => ?_, fun h => ?_⟩
  · rw [State.twnSaved_bytes]
    rfl
  · exact (State.count_flash _ _).trans (if_pos h)
  · exact (State.count_flash _ _).trans (if_neg (Nat.not_le_of_gt h))

end save

end Sys2Proof.Machine
end
section
/-! SUPPORT. The twin: TWN_CTRL, a hand-over at an instant, EN, HANDOVER and TAKE frames, answers that do not come (R457, R469, R470). -/

namespace Sys2Proof.Machine

variable {s t s1 sc : State} {force : Bool} {mid : Option Nat} {x key : List Byte} {f : AizRx} {v : Word}

/-! ### TWN_CTRL (R466, R469, R474) -/

theorem twnCtrlHandoverRow_eq (force : Bool) (s : State) : twnCtrlHandoverRow force s = s.hoRequest force none := by
  cases force <;> simp [twnCtrlHandoverRow, twnCtrlWrite]

theorem twnCtrlResyncRow_eq (s : State) : twnCtrlResyncRow s = s.resyncCommand := by
  simp [twnCtrlResyncRow, twnCtrlWrite]

theorem twnCtrlSaveRow_eq (ok : Bool) (s : State) : twnCtrlSaveRow ok s = s.twnSave ok := by
  simp [twnCtrlSaveRow, twnCtrlWrite]

/-! ### The instant of a hand-over that no grid gave (R21, R469) -/

section waits

variable {h : HandOver} (ho : s.twn.handOver = some h) (hn : h.h = none)
include ho hn

theorem State.hoActive_waiting (at_ : Nat) : s.hoActive at_ = if h.reqAt + 2 * subPerMs ≤ at_ then
    (s.modTwn fun y => { y with handOver := some { h with h := some at_, reqAt := at_ } }).hoFrame at_ h.force else s := by
  unfold State.hoActive
  rw [ho]
  simp only [hn]

end waits

/-! ### The end of a hand-over (R469, R473) -/

theorem State.hoEnd_twn (s : State) (result : Nat) (mid : Option Nat) :
    (s.hoEnd result mid).twn = { s.twn with hoResult := result, hoDone := true } :=
  (State.finishOpt_finkept (.refl _) _ _ _ _).twn

/-- The active device keeps its role, the hand-over refused. -/
theorem State.hoBack_refused (s : State) (h : HandOver) {result : Nat} (hr : result ≠ 1) : ∃ u : State,
    s.hoBack h result = u.finishOpt h.mid stRefused result [] ∧ u.twn.role = .active ∧ u.twn.handOver = none ∧ u.twn.hoResult = result ∧
      u.twn.hoDone = true ∧ u.dt = s.dt := by
  have hm := (s.modTwn fun t => { t with handOver := none }).setRole_moved .active
  refine ⟨_, State.hoEnd_refused _ hr _, State.setRole_role _ _, ?_, rfl, rfl, hm.dt⟩
  rw [State.modTwn_twn, hm.twn]
  rfl

/-! ### EN (R457) -/

@[simp] theorem State.writeReg_twn (s : State) (o : Nat) (v : Word) : (s.writeReg o v).twn = s.twn := by
  unfold State.writeReg
  split <;> rfl

theorem twnEnWriteRow_on (hv : v.getLsbD 0 = true) : twnEnWriteRow v s =
    if s.bit Reg.TWN_CFG 0 = true then s.writeReg Reg.TWN_CFG v else (s.writeReg Reg.TWN_CFG v).pairStart := by
  unfold twnEnWriteRow
  exact if_neg (by simp [hv])

/-- The state in which pairing is being ended: a hand-over that is under way has been given up. -/
def State.hoGivenUp (s : State) : State :=
  match s.twn.handOver with
  | some h => (s.modTwn fun t => { t with handOver := none }).hoEnd 2 h.mid
  | none => s

/-- The twin with its pairing ended. -/
def Twn.unpaired (t : Twn) : Twn :=
  { t with mirror := [], mirrorSync := false, peerEpoch := none, peerLost := false, cfgDiff := false, takeH := none, takePending := false }

theorem twnEnWriteRow_off (hv : v.getLsbD 0 = false) :
    twnEnWriteRow v s = ((s.writeReg Reg.TWN_CFG v).hoGivenUp.modTwn fun t => t.unpaired).setRole .solo := by
  unfold twnEnWriteRow
  exact if_pos (by rw [hv]; rfl)

theorem State.hoGivenUp_some {h : HandOver} (ho : s.twn.handOver = some h) :
    s.hoGivenUp.twn.handOver = none ∧ s.hoGivenUp.twn.hoResult = 2 := by
  unfold State.hoGivenUp
  rw [ho]
  simp only
  rw [State.hoEnd_twn]
  exact ⟨rfl, rfl⟩

theorem twnEnWriteRow_unpairs (hv : v.getLsbD 0 = false) : (twnEnWriteRow v s).twn.role = .solo ∧ (twnEnWriteRow v s).twn.peerEpoch = none ∧
    (twnEnWriteRow v s).twn.peerLost = false ∧ (twnEnWriteRow v s).twn.cfgDiff = false ∧ (twnEnWriteRow v s).twn.mirror = [] ∧
    (twnEnWriteRow v s).twn.takeH = none ∧
    (∀ h, s.twn.handOver = some h → (twnEnWriteRow v s).twn.handOver = none ∧ (twnEnWriteRow v s).twn.hoResult = 2) := by
  have hup {h : HandOver} (ho : s.twn.handOver = some h) :=
    State.hoGivenUp_some (s := s.writeReg Reg.TWN_CFG v) (h := h) (by rw [State.writeReg_twn, ho])
  have hm := ((s.writeReg Reg.TWN_CFG v).hoGivenUp.modTwn fun t => t.unpaired).setRole_moved .solo
  rw [twnEnWriteRow_off hv, State.setRole_role, hm.twn]
  exact ⟨rfl, rfl, rfl, rfl, rfl, rfl, fun h ho => hup ho⟩

/-! ### HANDOVER and TAKE frames (R469) -/

/-- The instant that a HANDOVER or TAKE frame names. -/
def hoTime (b : List Byte) : Nat := leAt b 0 2 + leAt b 2 4 * subPerNs + leAt b 6 6 * subPerSec

/-- What an accepted HANDOVER frame does. -/
def State.handoverTake (f : AizRx) (s : State) : State :=
  let take : Bool := s.twn.role == .standby && (bitOf s.health 0 || bitOf (byteAt f.payload 12) 0)
  let s1 := s.aizSend 5 false (padTo 16 (f.payload.take 12 ++ leBytes 1 (b2n !take)))
  if take then s1.modTwn fun t => { t with takeH := some (hoTime f.payload), endSeen := false } else s1

theorem handoverRow_eq (x : List Byte) (s : State) : handoverRow x s = s.aizRx 4 x State.handoverTake := rfl

/-- What an accepted TAKE frame does. -/
def State.takeTake (f : AizRx) (s : State) : State :=
  match s.twn.handOver with
  | some h =>
    if some (hoTime f.payload) ≠ h.h ∨ h.taken then s
    else if byteAt f.payload 12 = 0 then s.modTwn fun t => { t with handOver := some { h with taken := true } }
    else s.hoBack h 3
  | none => s

theorem takeRow_eq (x : List Byte) (s : State) : takeRow x s = s.aizRx 5 x State.takeTake := rfl

/-- Whether a HANDOVER frame is answered TAKE. -/
def State.MayTake (s : State) (f : AizRx) : Prop :=
  s.twn.role = .standby ∧ (bitOf s.health 0 = true ∨ bitOf (byteAt f.payload 12) 0 = true)

theorem State.mayTake_iff : (s.twn.role == .standby && (bitOf s.health 0 || bitOf (byteAt f.payload 12) 0)) = true ↔ s.MayTake f := by
  simp only [State.MayTake, Bool.and_eq_true, Bool.or_eq_true, beq_iff_eq]

theorem State.handoverTake_takes (h : s.MayTake f) :
    s.handoverTake f = (s.aizSend 5 false (padTo 16 (f.payload.take 12 ++ leBytes 1 0))).modTwn fun t =>
      { t with takeH := some (hoTime f.payload), endSeen := false } := by
  unfold State.handoverTake
  rw [State.mayTake_iff.mpr h]
  rfl

theorem State.handoverTake_refuses (h : ¬s.MayTake f) :
    s.handoverTake f = s.aizSend 5 false (padTo 16 (f.payload.take 12 ++ leBytes 1 1)) := by
  unfold State.handoverTake
  rw [Bool.eq_false_iff.mpr (mt State.mayTake_iff.mp h)]
  rfl

theorem State.takeTake_other (h : ∀ h, s.twn.handOver = some h → h.h ≠ some (hoTime f.payload) ∨ h.taken = true) : s.takeTake f = s := by
  unfold State.takeTake
  split
  · next h' ho => exact if_pos ((h h' ho).imp Ne.symm id)
  · rfl

section asked

variable {h : HandOver} (ho : s.twn.handOver = some h) (hh : h.h = some (hoTime f.payload)) (ht : h.taken = false)
include ho hh ht

theorem State.takeTake_taken (hb : byteAt f.payload 12 = 0) :
    s.takeTake f = s.modTwn fun t => { t with handOver := some { h with taken := true } } := by
  unfold State.takeTake
  rw [ho]
  simp only
  rw [if_neg (by simp [hh, ht]), if_pos hb]

theorem State.takeTake_refused (hb : byteAt f.payload 12 ≠ 0) : s.takeTake f = s.hoBack h 3 := by
  unfold State.takeTake
  rw [ho]
  simp only
  rw [if_neg (by simp [hh, ht]), if_neg hb]

end asked

/-- A frame of a TYPE that is heard with the next FSEQ: one that is opened, of 16 bytes, of the peer's present EPOCH. -/
structure State.Heard (s sc : State) (key x : List Byte) (f : AizRx) (typ : Nat) : Prop where
  frame : s.Opened sc key x f
  typ_eq : f.typ = typ
  len : f.len = 16
  payload : f.payload.length = 16
  epoch : s.twn.peerEpoch = some f.epoch
  fseq : f.fseq = s.twn.peerFseq + 1
  seen : ∀ k, mapFind s.twn.peerSeen f.epoch = some k → k < f.fseq

/-- A HANDOVER or TAKE frame with the next FSEQ is accepted, without a gap. -/
theorem State.Heard.takes {typ : Nat} (h : s.Heard sc key x f typ) (ht : typ = 4 ∨ typ = 5) (k : AizRx → State → State) :
    s.aizRx typ x k = k f (sc.frameNoted f) := by
  obtain ⟨hframe, htyp, hlen, hpl, hep, hfs, hseen⟩ := h
  have hfresh : s.FrameFresh f := ⟨hseen, fun hne => absurd hep hne, fun h1 => by omega⟩
  have hwhole : f.Whole := by
    refine ⟨?_, fun h36 => by omega⟩
    rcases ht with ht | ht <;> simp [aizLenOk, htyp, ht, hlen, hpl]
  have hgap : ¬s.FrameGap f := fun hg => by
    obtain ⟨-, hlt, -⟩ := hg
    omega
  exact hframe.accepted htyp hfresh hwhole (fun hg => absurd hg hgap) fun _ => rfl

theorem State.Heard.noted_twn {typ : Nat} (h : s.Heard sc key x f typ) : (sc.frameNoted f).twn = s.twn.noted f := by
  obtain ⟨l, hl⟩ := h.frame.leases
  rw [hl]
  exact State.count_twn _ _

/-! ### Answers that do not come (R469, R470) -/

theorem handoverAnswerTimeoutRow_idle (h : ∀ h, s.twn.handOver = some h → h.taken = true ∨ h.h = none) : handoverAnswerTimeoutRow s = s := by
  unfold handoverAnswerTimeoutRow
  split
  · next h' ho => exact if_pos ((h h' ho).imp id Option.isNone_iff_eq_none.mpr)
  · rfl

theorem handoverAnswerTimeoutRow_back {h : HandOver} (ho : s.twn.handOver = some h) (ht : h.taken = false) (hh : h.h ≠ none) :
    handoverAnswerTimeoutRow s = (s.advance (h.reqAt + 1000 * subPerUs)).hoBack h 6 := by
  unfold handoverAnswerTimeoutRow
  rw [ho]
  exact if_neg (by simp [ht, hh])

/-- A state whose twin differs in the mirror queue alone. -/
def MirrorOnly (s t : State) : Prop := ∃ l stale, t.twn = s.twn.mirroring l stale

theorem MirrorOnly.of_twn (h : t.twn = s.twn) : MirrorOnly s t := ⟨s.twn.mirror, s.twn.mirrorStale, h⟩

theorem MirrorOnly.trans {r : State} (h : MirrorOnly r s) (h' : MirrorOnly s t) : MirrorOnly r t := by
  obtain ⟨l, stale, e⟩ := h
  obtain ⟨l', stale', e'⟩ := h'
  exact ⟨l', stale', by rw [e', e]; rfl⟩

theorem MirrorOnly.kept {r : State} (h : MirrorOnly r s) (e : t.twn = s.twn) : MirrorOnly r t := h.trans (.of_twn e)

theorem MirrorOnly.ite {r a b : State} {c : Prop} [Decidable c] (ha : MirrorOnly r a) (hb : MirrorOnly r b) :
    MirrorOnly r (if c then a else b) := by
  split
  · exact ha
  · exact hb

theorem MirrorOnly.foldl {α : Type} {r : State} {g : State → α → State} (hg : ∀ u a, MirrorOnly u (g u a)) (l : List α)
    (h : MirrorOnly r s) : MirrorOnly r (l.foldl g s) :=
  List.foldlRecOn (motive := fun u : State => MirrorOnly r u) _ _ h fun u hu a _ => hu.trans (hg u a)

theorem State.offer_twn (s : State) (port : Nat) (cls : TxClass) (body : TxBody) (bytes : Nat) (job : Option (Nat × Nat)) :
    (s.offer port cls body bytes job).twn = s.twn := by
  unfold State.offer
  split <;> rfl

theorem State.outCompose_mirrorOnly (s : State) (n : Nat) (q : Quay) (set : CfgSet) : MirrorOnly s (s.outCompose n q set) := by
  unfold State.outCompose
  extract_lets o w din depth casc s1 pl miss ports s2 s3 s4 s5 s6
  have h1 : MirrorOnly s s1 := ⟨_, _, (s.mirrorItem_mirrorOut _ _).twn⟩
  have h2 : MirrorOnly s s2 := by
    refine MirrorOnly.foldl (fun u p => .of_twn ?_) ports h1
    rw [State.freshNext_twn, State.offer_twn]
  have h3 : MirrorOnly s s3 := h2.kept ((State.countBy_twn _ _ _).trans (State.count_twn _ _))
  have h4 : MirrorOnly s s4 := .ite (h3.kept ((State.event_twn _ _ _).trans (State.count_twn _ _))) h3
  have h5 : MirrorOnly s s5 := .ite (h4.kept (State.event_twn _ _ _)) h4
  have h6 : MirrorOnly s s6 := .ite (h5.kept ((State.event_twn _ _ _).trans (State.count_twn _ _))) h5
  exact h6.kept rfl

theorem State.outContinue_mirrorOnly (s : State) (n m : Nat) : MirrorOnly s (s.outContinue n m) := by
  unfold State.outContinue
  refine .ite (.of_twn rfl) ?_
  extract_lets later first
  split
  extract_lets gone s1
  have h1 : MirrorOnly s s1 := .ite (.of_twn rfl) (.of_twn ((State.event_twn _ _ _).trans (State.countBy_twn _ _ _)))
  refine MirrorOnly.foldl (fun u q => ?_) later h1
  extract_lets set stage
  exact .ite (u.outCompose_mirrorOnly _ _ _) (.of_twn rfl)

/-- Whether the peer of a former active device is still heard in STANDBY. -/
def Twn.NotTaken (t : Twn) : Prop := t.role = .standby ∧ (t.aizAlive = true ∨ t.hbAlive = true) ∧ t.peerRole = 4

/-- The former active device at H + 1,000 µs. -/
def State.formerChecked (s : State) (w : Nat) : State := (s.advance w).modTwn fun t => { t with formerActive := none }

theorem State.formerChecked_twn (s : State) (w : Nat) : (s.formerChecked w).twn = { s.twn with formerActive := none } := by
  rw [State.formerChecked, State.modTwn_twn, State.advance_twn]

theorem handoverReturnCheckRow_none (h : s.twn.formerActive = none) : handoverReturnCheckRow s = s := by
  unfold handoverReturnCheckRow
  rw [h]

theorem State.notTaken_iff (w : Nat) : ((s.formerChecked w).twn.role = .standby ∧
    ((s.twn.aizAlive || s.twn.hbAlive) && s.twn.peerRole == 4) = true) ↔ s.twn.NotTaken := by
  rw [s.formerChecked_twn]
  simp only [Twn.NotTaken, Bool.and_eq_true, Bool.or_eq_true, beq_iff_eq]

section former

variable {at_ : Nat} (hf : s.twn.formerActive = some (at_, mid))
include hf

theorem handoverReturnCheckRow_back (h : s.twn.NotTaken) : handoverReturnCheckRow s =
    ((s.formerChecked (at_ + 1000 * subPerUs)).twn.streamSeq.foldl (fun (s : State) x => s.outContinue x.1 x.2)
      ((s.formerChecked (at_ + 1000 * subPerUs)).setRole .active)).hoEnd 6 mid := by
  unfold handoverReturnCheckRow
  rw [hf]
  exact if_pos ((State.notTaken_iff _).mpr h)

theorem handoverReturnCheckRow_done (h : ¬s.twn.NotTaken) :
    handoverReturnCheckRow s = ((s.formerChecked (at_ + 1000 * subPerUs)).hoEnd 1 mid).count (Reg.TWN_CNT_LO 6) := by
  unfold handoverReturnCheckRow
  rw [hf]
  exact if_neg (mt (State.notTaken_iff _).mp h)

end former

/-- A former active device returned to ACTIVE, its streams going on. -/
theorem State.returned_twn (s : State) (l : List (Nat × Nat)) (h : s.twn.formerActive = none) :
    (l.foldl (fun (s : State) x => s.outContinue x.1 x.2) (s.setRole .active)).twn.role = .active ∧
      (l.foldl (fun (s : State) x => s.outContinue x.1 x.2) (s.setRole .active)).twn.formerActive = none := by
  obtain ⟨l', stale, e⟩ : MirrorOnly (s.setRole .active) (l.foldl (fun (s : State) x => s.outContinue x.1 x.2) (s.setRole .active)) :=
    MirrorOnly.foldl (fun u x => u.outContinue_mirrorOnly _ _) l (.of_twn rfl)
  rw [e]
  refine ⟨s.setRole_role .active, ?_⟩
  have hm := (s.setRole_moved .active).twn
  have hk : (s.setRole .active).twn.formerActive = s.twn.formerActive := by rw [hm]
  exact hk.trans h

/-- A hand-over that the peer did not take ends refused, its former active device as it is. -/
theorem State.hoEnd_returned (s : State) (mid : Option Nat) (hr : s.twn.role = .active) (hf : s.twn.formerActive = none) :
    ∃ u : State, s.hoEnd 6 mid = u.finishOpt mid stRefused 6 [] ∧ u.twn.role = .active ∧ u.twn.formerActive = none ∧ u.twn.hoResult = 6 :=
  ⟨_, s.hoEnd_refused (by decide) mid, hr, hf, rfl⟩

theorem handoverReturnCheckRow_returns {at_ : Nat} (hf : s.twn.formerActive = some (at_, mid)) (h : s.twn.NotTaken) : ∃ u : State,
    handoverReturnCheckRow s = u.finishOpt mid stRefused 6 [] ∧ u.twn.role = .active ∧ u.twn.formerActive = none ∧ u.twn.hoResult = 6 := by
  rw [handoverReturnCheckRow_back hf h]
  have hnone : (s.formerChecked (at_ + 1000 * subPerUs)).twn.formerActive = none := by rw [State.formerChecked_twn]
  obtain ⟨hrole, hformer⟩ := State.returned_twn _ (s.formerChecked (at_ + 1000 * subPerUs)).twn.streamSeq hnone
  exact State.hoEnd_returned _ mid hrole hformer

end Sys2Proof.Machine
end
section
/-! SUPPORT. The twin: a takeover, roles that end by time, the test of a standby's engines (R457, R472, R475). -/

namespace Sys2Proof.Machine

variable {s t : State} {e : Nat}

/-! ### A takeover (R472) -/

theorem takeoverRow_idle (h : s.twn.role ≠ .taking) : takeoverRow s = s := if_pos h

section taking

variable (h : s.twn.role = .taking)
include h

theorem takeoverRow_promoted (hp : s.twn.planned = false) : takeoverRow s = s.takeOver 7 := by
  unfold takeoverRow
  rw [if_neg (not_not.mpr h), if_pos (by simp [hp])]

variable (hp : s.twn.planned = true)
include hp

theorem takeoverRow_planned : takeoverRow s =
    (if s.twn.endSeen = true then s else s.advance (s.twn.takeAt + 500 * subPerUs)).takeOver 1 := by
  unfold takeoverRow
  rw [if_neg (not_not.mpr h), if_neg (by simp [hp])]

end taking

/-- A takeover shows its result. -/
theorem State.takeOver_spec (s : State) (k : Nat) : (s.takeOver k).twn.hoResult = k ∧ (s.takeOver k).twn.hoDone = true ∧
    (s.takeOver k).twn.hoPlanned = decide (k = 1) := by
  obtain ⟨u, h⟩ : ∃ u : State, s.takeOver k =
      ((u.modTwn fun t => { t with hoPlanned := decide (k = 1) }).hoEnd k none).count (Reg.TWN_CNT_LO (if k = 1 then 6 else 7)) := by
    unfold State.takeOver
    exact ⟨_, rfl⟩
  rw [h, State.count_twn, State.hoEnd_twn]
  exact ⟨rfl, rfl, rfl⟩

/-! ### Roles that end by time (R457, R474) -/

theorem State.twnRestore_dt (s : State) : s.twnRestore.dt = s.dt := by
  unfold State.twnRestore
  extract_lets best
  clear_value best
  cases best with
  | none => rfl
  | some v => exact List.foldlRecOn (motive := fun u : State => u.dt = s.dt) _ _ rfl fun u hu d _ => hu

theorem State.setRole_solo (s : State) (w : Nat) :
    ((s.advance w).setRole .solo).twn.role = .solo ∧ ((s.advance w).setRole .solo).dt = max s.dt w :=
  ⟨State.setRole_role _ _, by rw [State.setRole_dt, State.advance_dt]⟩

theorem State.restored_solo (s : State) (w : Nat) :
    ((s.advance w).twnRestore.setRole .solo).twn.role = .solo ∧ ((s.advance w).twnRestore.setRole .solo).dt = max s.dt w :=
  ⟨State.setRole_role _ _, by rw [State.setRole_dt, State.twnRestore_dt, State.advance_dt]⟩

theorem twnWaitTimeoutRow_idle (h : s.twn.role ≠ .wait ∨ s.twn.waitHeard = true) : twnWaitTimeoutRow s = s :=
  if_neg fun hc => h.elim (· hc.1) fun hw => by simp [hw] at hc

theorem twnWaitTimeoutRow_ends (h : s.twn.role = .wait) (hw : s.twn.waitHeard = false) :
    twnWaitTimeoutRow s = (s.advance (s.twn.roleAt + 1000 * subPerMs)).twnRestore.setRole .solo := if_pos ⟨h, by rw [hw]; rfl⟩

theorem twnJoinTimeoutRow_idle (h : s.twn.role ≠ .joining) : twnJoinTimeoutRow s = s := if_neg h

theorem twnJoinTimeoutRow_ends (h : s.twn.role = .joining) :
    twnJoinTimeoutRow s = (s.advance (s.twn.roleAt + 2000 * subPerMs)).setRole .solo := if_pos h

theorem twnMismatchTimeoutRow_idle (h : s.twn.role ≠ .mismatch ∨ s.twn.lane0 = true ∨ s.twn.lane1 = true) : twnMismatchTimeoutRow s = s := by
  refine if_neg fun hc => h.elim (· hc.1) fun hl => ?_
  rw [← State.aizUp_iff] at hl
  simp [hl] at hc

theorem twnMismatchTimeoutRow_ends (h : s.twn.role = .mismatch) (h0 : s.twn.lane0 = false) (h1 : s.twn.lane1 = false) :
    twnMismatchTimeoutRow s = (s.advance (s.twn.linkDownAt + 1000 * subPerMs)).setRole .solo :=
  if_pos ⟨h, by rw [State.aizUp, h0, h1]; rfl⟩

/-! ### The test of a standby's engines (R475) -/

/-- A state with the twin and the rotation of another. -/
structure TwinRot (s t : State) : Prop where
  twn : t.twn = s.twn
  rot : t.plt.rot = s.plt.rot

theorem State.deriveStart_twn (s : State) (slot : Nat) : (s.deriveStart slot).twn = s.twn := by
  unfold State.deriveStart
  split <;> rfl

theorem State.passRoles_twn (s : State) (e : Nat) : (s.passRoles e).twn = s.twn := by
  unfold State.passRoles
  split
  · refine List.foldlRecOn (motive := fun u : State => u.twn = s.twn) _ _ rfl fun u hu r _ => ?_
    dsimp only
    split
    · split <;> exact hu
    · exact hu
  · split
    · next x _ =>
      have h1 (y : State) (hy : y.twn = s.twn) :
          (if y.plt.mtrEng = e then (y.modPlt fun p => { p with mtrEng := x }).deriveStart 56 else y).twn = s.twn := by
        split
        · exact (State.deriveStart_twn _ _).trans hy
        · exact hy
      refine h1 _ ?_
      split <;> rfl
    · rfl
  · split <;> rfl
  · rfl

theorem State.rotOut_twinRot (s : State) (r : Rot) : TwinRot s (s.rotOut r) :=
  ⟨s.passRoles_twn r.engine, (State.passRoles_engkept (.refl s) r.engine).plt_rot⟩

theorem State.rotCheck_twinRot (s : State) : TwinRot s s.rotCheck := by
  unfold State.rotCheck
  split
  · exact ⟨rfl, rfl⟩
  · extract_lets g
    split
    · exact s.rotOut_twinRot _
    · exact ⟨rfl, rfl⟩

theorem State.noteEmpty_twn (s : State) (e : Nat) : (s.noteEmpty e).twn = s.twn := by
  unfold State.noteEmpty
  split
  · exact State.event_twn _ _ _
  · rfl

/-- Whether a rotation of an engine is refused BUSY (R403). -/
def State.RotBusy (s : State) (e : Nat) : Prop :=
  s.plt.rot ≠ none ∨ (classEngines (engClass e)).any (fun x => s.hasEng x && (s.engine x).rstate != .inService) = true

theorem State.rotBusy_iff : (s.plt.rot.isSome = true ∨
    ((classEngines (engClass e)).any fun x => s.hasEng x && (s.engine x).rstate != .inService) = true) ↔ s.RotBusy e := by
  rw [State.RotBusy, Option.isSome_iff_ne_none]

theorem State.rotRequest_busy (he : s.hasEng e = true) (h : s.RotBusy e) (action : Nat) :
    s.rotRequest e action none = s.modPlt fun p => { p with rotResult := 2 } := by
  unfold State.rotRequest
  rw [if_neg (by simp [he]), if_pos (State.rotBusy_iff.mpr h)]
  rfl

/-- A rotation that starts leaves the twin as it is. -/
theorem State.rotRequest_starts (he : s.hasEng e = true) (h : ¬s.RotBusy e) (action : Nat) :
    (s.rotRequest e action none).twn = s.twn ∧ (s.rotRequest e action none).plt.rot = some ⟨e, action, none, 1, s.dt⟩ := by
  unfold State.rotRequest
  rw [if_neg (by simp [he]), if_neg (mt State.rotBusy_iff.mp h)]
  obtain ⟨htwn, hrot⟩ := State.rotCheck_twinRot (((((s.modPlt fun p =>
    { p with rot := some ⟨e, action, none, 1, s.dt⟩, rotDone := false }).modEng e fun g => { g with rstate := .draining }).clearAffinity e).noteEmpty e))
  rw [htwn, hrot, State.noteEmpty_twn, (State.noteEmpty_engkept (.refl _) e).plt_rot]
  exact ⟨rfl, rfl⟩

theorem twnStandbyTestRow_idle (h : s.twn.role ≠ .standby ∨ s.bit Reg.TWN_CFG 3 = false) : twnStandbyTestRow s = s :=
  if_pos (h.imp id fun hb => by rw [hb]; rfl)

section next

variable (hr : s.twn.role = .standby) (hb : s.bit Reg.TWN_CFG 3 = true)
  (hf : ((List.range 32).map fun i => (s.twn.nextTest + i) % 32).find? s.hasEng = some e)
include hr hb hf

theorem twnStandbyTestRow_next : twnStandbyTestRow s =
    if ((s.rotRequest e 2 none).plt.rot.map (·.engine)) = some e ∧ s.plt.rot.isNone = true then
      (s.rotRequest e 2 none).modTwn fun t => { t with testEngine := some e, nextTest := (e + 1) % 32 }
    else s.rotRequest e 2 none := by
  unfold twnStandbyTestRow
  rw [if_neg (by simp [hr, hb]), hf]

theorem twnStandbyTestRow_busy (h : s.RotBusy e) : twnStandbyTestRow s = s.modPlt fun p => { p with rotResult := 2 } := by
  have he : s.hasEng e = true := List.find?_some hf
  rw [twnStandbyTestRow_next hr hb hf, State.rotRequest_busy he h]
  refine if_neg fun hc => ?_
  obtain ⟨hrot, hnone⟩ := hc
  rw [Option.isNone_iff_eq_none] at hnone
  change s.plt.rot.map (·.engine) = some e at hrot
  rw [hnone] at hrot
  cases hrot

theorem twnStandbyTestRow_tests (h : ¬s.RotBusy e) :
    (twnStandbyTestRow s).twn = { s.twn with testEngine := some e, nextTest := (e + 1) % 32 } ∧
      (twnStandbyTestRow s).plt.rot = some ⟨e, 2, none, 1, s.dt⟩ := by
  have he : s.hasEng e = true := List.find?_some hf
  have hnone : s.plt.rot = none := not_not.mp fun hn => h (.inl hn)
  obtain ⟨htwn, hrot⟩ := State.rotRequest_starts he h 2
  rw [twnStandbyTestRow_next hr hb hf, if_pos ⟨by rw [hrot]; rfl, by rw [hnone]; rfl⟩, State.modTwn_twn, State.modTwn_plt, htwn, hrot]
  exact ⟨rfl, rfl⟩

end next

end Sys2Proof.Machine
end
section
/-! SUPPORT. The twin's roles: every command of them (O55). -/

namespace Sys2Proof.Machine

variable {s sc : State} {x key : List Byte} {f : AizRx} {n : Nat} {m : Fetched} {v : Word}

/-! ### The commands that request a hand-over, a resynchronisation or a save -/

theorem manTwnHandover_starts (h : s.Starts n 0x00B0 m) :
    manTwnHandover n s = (s.start n m.mid).hoRequest (bitOf (byteAt m.bytes 20) 0) (some m.mid) := State.runManifest_starts h _

theorem manTwnResync_starts (h : s.Starts n 0x00B1 m) :
    manTwnResync n s = (s.start n m.mid).resyncCommand.finish0 m.mid stDone := State.runManifest_starts h _

theorem manTwnSave_starts (h : s.Starts n 0x00B2 m) (ok : Bool) :
    manTwnSave n ok s = ((s.start n m.mid).twnSave ok).finish0 m.mid (if ok then stDone else stFlashError) := State.runManifest_starts h _

theorem twnHandover_asked (h : s.Starts n 0x00B0 m) :
    s.HoAsked (.twnHandover n) (s.start n m.mid) (bitOf (byteAt m.bytes 20) 0) (some m.mid) :=
  hoAsked_of (.of (manTwnHandover_starts h) rfl) rfl rfl rfl rfl

theorem twnResync_asked (h : s.Starts n 0x00B1 m) :
    s.Resynced (.twnResync n) (s.start n m.mid) fun s => s.finish0 m.mid stDone :=
  resynced_of (.of (manTwnResync_starts h) rfl) rfl

theorem twnSave_asked (h : s.Starts n 0x00B2 m) :
    s.Saved (.twnSave n true) (s.start n m.mid) (fun s => s.finish0 m.mid stDone) ∧
      s.Unsaved (.twnSave n false) (s.start n m.mid) fun s => s.finish0 m.mid stFlashError :=
  ⟨saved_of rfl rfl rfl rfl (.of (manTwnSave_starts h true) rfl), unsaved_of rfl (.of (manTwnSave_starts h false) rfl)⟩

theorem twnCtrlHandover_asked {force : Bool} (h : s.Reaches Reg.TWN_CTRL (if force then 6 else 2)) :
    s.HoAsked (.twnCtrlHandover force) s force none :=
  hoAsked_of (.of ((State.busWrite_reaches (m := 63) h (twnCtrlHandoverRow force)).trans (twnCtrlHandoverRow_eq force s)) rfl) rfl rfl rfl rfl

theorem twnCtrlResync_asked (h : s.Reaches Reg.TWN_CTRL 8) : s.Resynced .twnCtrlResync s id :=
  resynced_of (.of ((State.busWrite_reaches (m := 63) h twnCtrlResyncRow).trans (twnCtrlResyncRow_eq s)) rfl) rfl

theorem twnCtrlSave_asked (h : s.Reaches Reg.TWN_CTRL 16) :
    s.Saved (.twnCtrlSave true) s id ∧ s.Unsaved (.twnCtrlSave false) s id := by
  have hans (ok : Bool) : Answers (.twnCtrlSave ok) s (s.twnSave ok) :=
    .of ((State.busWrite_reaches (m := 63) h (twnCtrlSaveRow ok)).trans (twnCtrlSaveRow_eq ok s)) rfl
  exact ⟨saved_of rfl rfl rfl rfl (hans true), unsaved_of rfl (hans false)⟩

theorem twnPeriodicSave_asked (s : State) : s.Saved (.twnPeriodicSave true) s id ∧ s.Unsaved (.twnPeriodicSave false) s id :=
  ⟨saved_of rfl rfl rfl rfl rfl, unsaved_of rfl rfl⟩

theorem twnEnWrite_answers (hR : s.Reaches Reg.TWN_CFG v) : Answers (.twnEnWrite v) s (twnEnWriteRow v s) :=
  .of (State.busWrite_reaches (m := 63) hR (twnEnWriteRow v)) rfl

/-- A write of EN goes on, starts a pairing, or ends one. -/
theorem twnEnWrite_spec (hR : s.Reaches Reg.TWN_CFG v) :
    (v.getLsbD 0 = true → s.bit Reg.TWN_CFG 0 = true → Answers (.twnEnWrite v) s (s.writeReg Reg.TWN_CFG v)) ∧
    (v.getLsbD 0 = true → s.bit Reg.TWN_CFG 0 = false → Answers (.twnEnWrite v) s (s.writeReg Reg.TWN_CFG v).pairStart) ∧
    (v.getLsbD 0 = false → ∃ u, Answers (.twnEnWrite v) s u ∧ u.twn.role = .solo ∧ u.twn.peerEpoch = none ∧ u.twn.peerLost = false ∧
      u.twn.cfgDiff = false ∧ u.twn.mirror = [] ∧ u.twn.takeH = none ∧
      (∀ h, s.twn.handOver = some h → u.twn.handOver = none ∧ u.twn.hoResult = 2)) :=
  ⟨fun hv hb => .of ((twnEnWriteRow_on hv).trans (if_pos hb)) (twnEnWrite_answers hR),
    fun hv hb => .of ((twnEnWriteRow_on hv).trans (if_neg (by simp [hb]))) (twnEnWrite_answers hR),
    fun hv => ⟨_, twnEnWrite_answers hR, twnEnWriteRow_unpairs hv⟩⟩

/-! ### The answers to received frames -/

theorem handover_answers (h : s.Heard sc key x f 4) : Answers (.handover x) s ((sc.frameNoted f).handoverTake f) :=
  .of ((handoverRow_eq x s).trans (h.takes (.inl rfl) State.handoverTake)) rfl

theorem take_answers (h : s.Heard sc key x f 5) : Answers (.take x) s ((sc.frameNoted f).takeTake f) :=
  .of ((takeRow_eq x s).trans (h.takes (.inr rfl) State.takeTake)) rfl

theorem State.Heard.mayTake {typ : Nat} (h : s.Heard sc key x f typ) : (sc.frameNoted f).MayTake f ↔
    s.twn.role = .standby ∧ (bitOf (sc.frameNoted f).health 0 = true ∨ bitOf (byteAt f.payload 12) 0 = true) := by
  rw [State.MayTake, h.noted_twn]
  rfl

theorem State.Heard.noted_handOver {typ : Nat} (h : s.Heard sc key x f typ) : (sc.frameNoted f).twn.handOver = s.twn.handOver := by
  rw [h.noted_twn]
  rfl

/-- A HANDOVER frame with the next FSEQ is answered TAKE or REFUSE. -/
theorem handover_spec (h : s.Heard sc key x f 4) :
    ((s.twn.role = .standby ∧ (bitOf (sc.frameNoted f).health 0 = true ∨ bitOf (byteAt f.payload 12) 0 = true)) →
      Answers (.handover x) s (((sc.frameNoted f).aizSend 5 false (padTo 16 (f.payload.take 12 ++ leBytes 1 0))).modTwn fun t =>
        { t with takeH := some (hoTime f.payload), endSeen := false })) ∧
    (¬(s.twn.role = .standby ∧ (bitOf (sc.frameNoted f).health 0 = true ∨ bitOf (byteAt f.payload 12) 0 = true)) →
      Answers (.handover x) s ((sc.frameNoted f).aizSend 5 false (padTo 16 (f.payload.take 12 ++ leBytes 1 1)))) :=
  ⟨fun hm => .of (State.handoverTake_takes (h.mayTake.mpr hm)) (handover_answers h),
    fun hm => .of (State.handoverTake_refuses (mt h.mayTake.mp hm)) (handover_answers h)⟩

/-- A TAKE frame with the next FSEQ lets H take effect, or gives the role back. -/
theorem take_spec (hh : s.Heard sc key x f 5) :
    ((∀ h, s.twn.handOver = some h → h.h ≠ some (hoTime f.payload) ∨ h.taken = true) → Answers (.take x) s (sc.frameNoted f)) ∧
    (∀ h, s.twn.handOver = some h → h.h = some (hoTime f.payload) → h.taken = false →
      (byteAt f.payload 12 = 0 →
        Answers (.take x) s ((sc.frameNoted f).modTwn fun t => { t with handOver := some { h with taken := true } })) ∧
      (byteAt f.payload 12 ≠ 0 → ∃ u : State, Answers (.take x) s (u.finishOpt h.mid stRefused 3 []) ∧ u.twn.role = .active ∧
        u.twn.handOver = none ∧ u.twn.hoResult = 3 ∧ u.twn.hoDone = true)) := by
  rw [← hh.noted_handOver]
  refine ⟨fun hn => .of (State.takeTake_other hn) (take_answers hh), fun h hs hat ht => ⟨fun hb => ?_, fun hb => ?_⟩⟩
  · exact .of (State.takeTake_taken hs hat ht hb) (take_answers hh)
  · obtain ⟨u, e, hrole, hho, hres, hdone, -⟩ := (sc.frameNoted f).hoBack_refused h (result := 3) (by decide)
    exact ⟨u, .of ((State.takeTake_refused hs hat ht hb).trans e) (take_answers hh), hrole, hho, hres, hdone⟩

/-- Settles O55: requests, frames and times of the twin's roles, each as its own row says, refused where the row refuses. -/
theorem twinRolesChange : Obligations.TwinRolesChange := by
  unfold Obligations.TwinRolesChange
  intro n v force x key f s sc t b asked resynced ord saved unsaved heard s2 solo
  have hrd {typ : Nat} (h : heard typ) : s.Heard sc key x f typ := by
    obtain ⟨h1, h2, h3, h4, h5, h6, h7, h8, h9, h10, h11⟩ := h
    exact ⟨⟨⟨⟨h1, h2⟩, h3⟩, h4, h5⟩, h7, h6, h11, h8, h9, h10⟩
  refine ⟨fun m h => twnHandover_asked h, fun m h => twnResync_asked h, fun m h => twnSave_asked h, fun h => twnCtrlHandover_asked h,
    fun h => twnCtrlResync_asked h, fun h => twnCtrlSave_asked h, twnPeriodicSave_asked s,
    fun h at_ ho hn => ⟨fun hlt => (State.hoActive_waiting ho hn at_).trans (if_neg (Nat.not_le_of_gt hlt)),
      fun hle => (State.hoActive_waiting ho hn at_).trans (if_pos hle)⟩,
    fun hR => twnEnWrite_spec hR,
    fun h => handover_spec (hrd h), fun h => take_spec (hrd h), fun h => .of (handoverAnswerTimeoutRow_idle h) rfl, fun h ho ht hh => ?_,
    fun h => .of (handoverReturnCheckRow_none h) rfl, fun at_ mid hf => ⟨fun hb => ?_, fun hb => ?_⟩, fun h => .of (takeoverRow_idle h) rfl,
    fun h hp => .of (takeoverRow_promoted h hp) rfl, fun h hp he => .of ((takeoverRow_planned h hp).trans ?_) rfl,
    fun h hp he => .of ((takeoverRow_planned h hp).trans ?_) rfl, s.takeOver_spec, fun h => .of (twnWaitTimeoutRow_idle h) rfl,
    fun h hw => ⟨_, .of (twnWaitTimeoutRow_ends h hw) rfl, s.restored_solo _⟩, fun h => .of (twnJoinTimeoutRow_idle h) rfl,
    fun h => ⟨_, .of (twnJoinTimeoutRow_ends h) rfl, s.setRole_solo _⟩, fun h => .of (twnMismatchTimeoutRow_idle h) rfl,
    fun h h0 h1 => ⟨_, .of (twnMismatchTimeoutRow_ends h h0 h1) rfl, s.setRole_solo _⟩, fun h => .of (twnStandbyTestRow_idle h) rfl,
    fun e hr hb hf => ⟨fun h => .of (twnStandbyTestRow_busy hr hb hf h) rfl, fun h => ⟨_, rfl, twnStandbyTestRow_tests hr hb hf h⟩⟩⟩
  · obtain ⟨u, e, hrole, hho, hres, -, hdt⟩ := (s.advance (h.reqAt + 1000 * subPerUs)).hoBack_refused h (result := 6) (by decide)
    exact ⟨u, .of ((handoverAnswerTimeoutRow_back ho ht hh).trans e) rfl, hrole, hho, hres, hdt.trans (s.advance_dt _)⟩
  · obtain ⟨u, e, hu⟩ := handoverReturnCheckRow_returns hf hb
    exact ⟨u, .of e rfl, hu⟩
  · exact .of (handoverReturnCheckRow_done hf hb) rfl
  · rw [if_pos he]
  · rw [if_neg (by rw [he]; decide)]

end Sys2Proof.Machine
end
